-- ==== Sys2Proof/Word.lean ====
section
/-!
DEFINITION. The word types of the LX-7212 (R14, R15): a word is 64 bits, a byte 8 bits; structures are little-endian.
-/

namespace Sys2Proof

/-- A word: 64 bits at an 8-byte-aligned offset (R15). -/
abbrev Word := BitVec 64
/-- One byte. -/
abbrev Byte := BitVec 8
/-- A token ID: a 32-bit unsigned integer (R13). -/
abbrev Token := BitVec 32
/-- A 128-bit value (span keys, GIDs). -/
abbrev Wide := BitVec 128

/-- A tenant, T0 to T1023. -/
abbrev TenantId := Fin 1024
/-- A host ID, 0 to 15 (R8). -/
abbrev HostId := Fin 16
/-- A panel of the pattern, 0 to 63. -/
abbrev PanelId := Fin 64
/-- A share group, 0 to 255. -/
abbrev GroupId := Fin 256

end Sys2Proof
end

