-- ==== Sys2Proof/Machine/Bits.lean ====
section
/-!
DEFINITION. Bit fields, little-endian and network byte order, and saturating counts (R14, R15, R16, R17).
-/
namespace Sys2Proof.Machine

/-- The value of bits [hi:lo] of a word (R14: both ends included). -/
def bitsOf (w : Word) (hi lo : Nat) : Nat := w.toNat / 2 ^ lo % 2 ^ (hi + 1 - lo)

/-- The word with bits [hi:lo] replaced by a value, every other bit kept. -/
def setBits (w : Word) (hi lo v : Nat) : Word :=
  BitVec.ofNat 64
    (w.toNat % 2 ^ lo + (v % 2 ^ (hi + 1 - lo)) * 2 ^ lo + w.toNat / 2 ^ (hi + 1) * 2 ^ (hi + 1))

/-- Bits [hi:lo] of a natural number. -/
def natBits (n hi lo : Nat) : Nat := n / 2 ^ lo % 2 ^ (hi + 1 - lo)

/-- Bit i of a natural number. -/
def bitAt (n i : Nat) : Bool := n / 2 ^ i % 2 == 1

/-- 1 for true, 0 for false. -/
def b2n (b : Bool) : Nat := if b then 1 else 0

/-- A count that saturates at the top of a field of `width` bits. -/
def satAdd (width n k : Nat) : Nat := min (2 ^ width - 1) (n + k)

/-- The quotient rounded up. -/
def ceilDiv (a b : Nat) : Nat := (a + b - 1) / b

/-- The exponent of the smallest power of two that is at least n (0 for 0 and 1). -/
def clog2 (n : Nat) : Nat := if n ≤ 1 then 0 else Nat.log2 (n - 1) + 1

/-- Two's complement of an integer in `width` bits. -/
def intBits (width : Nat) (z : Int) : Nat := (z % (2 ^ width : Int)).toNat

/-- The integer that `width` bits read as in two's complement. -/
def bitsInt (width n : Nat) : Int :=
  let m := n % 2 ^ width
  if 2 * m < 2 ^ width then (m : Int) else (m : Int) - (2 ^ width : Int)

/-- `n` bytes of a value, the lowest first (R15). -/
def leBytes : Nat → Nat → List Byte
  | 0, _ => []
  | n + 1, v => BitVec.ofNat 8 v :: leBytes n (v / 256)

/-- The value of bytes whose lowest comes first (R15). -/
def ofLE : List Byte → Nat
  | [] => 0
  | b :: bs => b.toNat + 256 * ofLE bs

/-- `n` bytes of a value in network byte order (R15). -/
def beBytes (n v : Nat) : List Byte := (leBytes n v).reverse

/-- The value of bytes in network byte order. -/
def ofBE (bs : List Byte) : Nat := ofLE bs.reverse

/-- The `n` bytes at position `at_` of a list; a byte beyond its end reads as zero. -/
def sliceAt (bs : List Byte) (at_ n : Nat) : List Byte :=
  (List.range n).map fun i => bs.getD (at_ + i) 0

/-- The 64-bit words of a little-endian byte string (R15); a short last word is filled with zeros. -/
def wordsOf (bs : List Byte) : List Word :=
  (List.range (ceilDiv bs.length 8)).map fun i => BitVec.ofNat 64 (ofLE (sliceAt bs (8 * i) 8))

/-- The bytes of little-endian words (R15). -/
def bytesOf (ws : List Word) : List Byte := ws.flatMap fun w => leBytes 8 w.toNat

/-- Word i of a list, zero beyond its end. -/
def wordAt (ws : List Word) (i : Nat) : Word := ws.getD i 0

/-- Bits [hi:lo] of word i of a structure given as words (R16). -/
def fieldOf (ws : List Word) (i hi lo : Nat) : Nat := bitsOf (wordAt ws i) hi lo

/-- A word built from (lo, value) pairs whose fields do not overlap. -/
def packWord (fs : List (Nat × Nat)) : Word :=
  BitVec.ofNat 64 (fs.foldl (fun acc f => acc + f.2 * 2 ^ f.1) 0)

/-- Exclusive or of two byte strings of one length. -/
def xorBytes (a b : List Byte) : List Byte := List.zipWith (· ^^^ ·) a b

end Sys2Proof.Machine
end

