-- ==== Sys2Proof/Machine/Crc.lean ====
section
/-!
DEFINITION. The two cyclic checks of the command path: CRC-32C of a command (R166) and CRC-16/T10-DIF of a completion entry
and of a coding block (R157, R303).
-/
namespace Sys2Proof.Machine

/-- One bit of CRC-32C in its reflected form 0x82F6_3B78 (R166). -/
def crc32cBit (c : Nat) : Nat := if c % 2 = 1 then (c / 2) ^^^ 0x82F63B78 else c / 2

/-- One byte of CRC-32C. -/
def crc32cByte (c b : Nat) : Nat :=
  let x := c ^^^ b
  crc32cBit (crc32cBit (crc32cBit (crc32cBit (crc32cBit (crc32cBit (crc32cBit (crc32cBit x)))))))

/-- CRC-32C over bytes in order (R166): initial value and final exclusive or of all ones. (log entry 12, PRESUMED) -/
def crc32c (bs : List Byte) : Nat := (bs.foldl (fun c b => crc32cByte c b.toNat) 0xFFFFFFFF) ^^^ 0xFFFFFFFF

/-- One bit of CRC-16/T10-DIF, polynomial 0x8BB7, not reflected (R157). -/
def crc16Bit (c : Nat) : Nat := if 0x8000 ≤ c then ((c * 2) % 0x10000) ^^^ 0x8BB7 else c * 2

/-- One byte of CRC-16/T10-DIF. -/
def crc16Byte (c b : Nat) : Nat :=
  let x := c ^^^ (b * 256)
  crc16Bit (crc16Bit (crc16Bit (crc16Bit (crc16Bit (crc16Bit (crc16Bit (crc16Bit x)))))))

/-- CRC-16/T10-DIF over bytes in order, initial value zero and no final exclusive or (R157). -/
def crc16 (bs : List Byte) : Nat := bs.foldl (fun c b => crc16Byte c b.toNat) 0

end Sys2Proof.Machine
end

