-- ==== Sys2Proof/Machine/Coder.lean ====
section
/-!
DEFINITION. The entropy coder: code tables, canonical codes, the coding block and its decoding with the corrupt checks
(R301 to R310).
-/
namespace Sys2Proof.Machine

/-- The coding block: the fields of its header (R302) and its payload. -/
structure Block where
  prof : Nat
  tensor : Nat
  gen : Nat
  mode : Nat
  clen : Nat
  fmt : Nat
  block : Nat
  crc : Nat
  payload : List Byte
  deriving DecidableEq, Repr

/-- The 16-byte header of a block (R302). -/
def Block.header (b : Block) : List Word :=
  [packWord [(48, b.crc), (36, b.block), (32, b.fmt), (24, b.clen), (20, b.mode), (16, b.gen), (8, b.tensor), (0, b.prof)], 0]

/-- The bytes a block takes in its frame: 16 + 32 × CLEN (R307). -/
def blockBytes (clen : Nat) : Nat := 16 + 32 * clen

/-- A code table is valid for symbols of W bits (R305): at least two codes, lengths up to 12, the sum of 2^(12 - L) exactly 4,096, and no
symbol above 15 where W is 4. -/
def tableOk (w : Nat) (l : List Nat) : Bool :=
  decide (2 ≤ l.countP fun n => n ≠ 0) && l.all (fun n => n ≤ 12) &&
    ((l.map fun n => if n = 0 then 0 else 2 ^ (12 - n)).sum == 4096) &&
    (w != 4 || (l.drop 16).all fun n => n == 0)

/-- The symbols of a code length, with their codes from `code` up (R305). -/
def codesOfLen (len code sym : Nat) : List Nat → List (Nat × Nat × Nat)
  | [] => []
  | n :: ns => if n = len then (sym, len, code) :: codesOfLen len (code + 1) (sym + 1) ns else codesOfLen len code (sym + 1) ns

/-- The canonical codes of lengths from `len` up: (symbol, length, code) (R305). -/
def canonFrom (l : List Nat) : Nat → Nat → Nat → List (Nat × Nat × Nat)
  | 0, _, _ => []
  | fuel + 1, len, code =>
    let here := codesOfLen len code 0 l
    here ++ canonFrom l fuel (len + 1) ((code + here.length) * 2)

/-- The canonical code of a table: (symbol, length, code) (R305). -/
def canonical (w : Nat) (l : List Nat) : List (Nat × Nat × Nat) := canonFrom (l.take (2 ^ w)) 12 1 0

/-- The bits of a code, most significant first (R304). -/
def codeBits : Nat → Nat → List Bool
  | 0, _ => []
  | n + 1, c => bitAt c n :: codeBits n c

/-- The symbols of raw bytes: one a byte, or two of 4 bits, the low nibble first (R301). -/
def symbolsOf (w : Nat) (bs : List Byte) : List Nat :=
  if w = 4 then bs.flatMap fun b => [b.toNat % 16, b.toNat / 16] else bs.map fun b => b.toNat

/-- The raw bytes of symbols (R301). -/
def bytesOfSymbols (w : Nat) : List Nat → List Byte
  | [] => []
  | a :: rest => if w = 4 then (match rest with
      | b :: rest' => BitVec.ofNat 8 (a + 16 * b) :: bytesOfSymbols w rest'
      | [] => [BitVec.ofNat 8 a])
    else BitVec.ofNat 8 a :: bytesOfSymbols w rest

/-- The code bits of symbols, or none where a symbol has no code. -/
def encodeBits (codes : List (Nat × Nat × Nat)) (syms : List Nat) : Option (List Bool) :=
  (syms.mapM fun s => (codes.find? fun e => e.1 == s).map fun e => codeBits e.2.1 e.2.2).map List.flatten

/-- Eight bits as a byte, the first in bit 7 (R304); missing bits are zero. -/
def byteOfBits (b : List Bool) : Byte := BitVec.ofNat 8 ((List.range 8).map fun i => if b.getD i false then 2 ^ (7 - i) else 0).sum

/-- A bit string as `n` payload bytes, padded with zeros (R304). -/
def packBits : Nat → List Bool → List Byte
  | 0, _ => []
  | n + 1, b => byteOfBits (b.take 8) :: packBits n (b.drop 8)

/-- The bit string of payload bytes (R304). -/
def unpackBits (bs : List Byte) : List Bool := bs.flatMap fun b => codeBits 8 b.toNat

/-- A block stored raw (R306). -/
def rawBlock (prof tensor fmt block : Nat) (raw : List Byte) : Block :=
  { prof, tensor, gen := 0, mode := 0, clen := 128, fmt, block, crc := crc16 raw, payload := raw }

/-- Encode a block (R306): under a generation's table where there is one, every symbol has a code and the bits fit; raw otherwise. -/
def encodeBlock (prof tensor fmt block w : Nat) (gen : Option (Nat × List Nat)) (raw : List Byte) : Block :=
  match gen with
  | none => rawBlock prof tensor fmt block raw
  | some (g, l) => match encodeBits (canonical w l) (symbolsOf w raw) with
    | none => rawBlock prof tensor fmt block raw
    | some bits =>
      if bits.length > 32512 then rawBlock prof tensor fmt block raw
      else
        let clen := ceilDiv bits.length 256
        { prof, tensor, gen := g, mode := 1, clen, fmt, block, crc := crc16 raw, payload := packBits (32 * clen) bits }

/-- Why a block is corrupt, numbered as LOG event 0x0801 numbers it (R310). -/
inductive Corrupt where
  | hdr | overrun | slack | crc
  deriving DecidableEq, Repr

/-- The number of a condition (R310). -/
def Corrupt.code : Corrupt → Nat
  | .hdr => 1 | .overrun => 2 | .slack => 3 | .crc => 4

/-- Decode one symbol: the bits are matched against codes of growing length. -/
def decodeSym (codes : List (Nat × Nat × Nat)) : Nat → Nat → Nat → List Bool → Option (Nat × List Bool)
  | 0, _, _, _ => none
  | _ + 1, _, _, [] => none
  | fuel + 1, len, acc, b :: bs =>
    let acc := 2 * acc + b2n b
    match codes.find? fun e => e.2.1 == len + 1 && e.2.2 == acc with
    | some e => some (e.1, bs)
    | none => decodeSym codes fuel (len + 1) acc bs

/-- Decode `n` symbols; none where the bits run out (R310, OVERRUN). -/
def decodeSyms (codes : List (Nat × Nat × Nat)) : Nat → List Bool → Option (List Nat × List Bool)
  | 0, bs => some ([], bs)
  | n + 1, bs => match decodeSym codes 12 0 0 bs with
    | none => none
    | some (s, bs') => match decodeSyms codes n bs' with
      | none => none
      | some (ss, rest) => some (s :: ss, rest)

/-- What a block must say of itself to be read as block `block` of a page (R310, HDR): `live` is the table of its generation where that
is live for the tensor. -/
def headerOk (b : Block) (prof tensor fmt block clen : Nat) (live : Option (List Nat)) : Bool :=
  b.prof == prof && b.tensor == tensor && b.fmt == fmt && b.block == block && b.clen == clen &&
    (if b.mode = 0 then b.clen == 128 else decide (b.clen ≠ 0) && decide (b.clen < 128) && live.isSome)

/-- The raw bytes of a block, or why it is corrupt, the conditions taken in the order of R310. -/
def decodeBlock (b : Block) (prof tensor fmt block clen w : Nat) (live : Option (List Nat)) : Except Corrupt (List Byte) :=
  if !headerOk b prof tensor fmt block clen live then .error .hdr
  else if b.mode = 0 then (if crc16 b.payload = b.crc then .ok b.payload else .error .crc)
  else match decodeSyms (canonical w (live.getD [])) (if w = 4 then 8192 else 4096) (unpackBits b.payload) with
    | none => .error .overrun
    | some (syms, rest) =>
      let used := 256 * b.clen - rest.length
      if 32 * b.clen - ceilDiv used 8 > 31 then .error .slack
      else
        let raw := bytesOfSymbols w syms
        if crc16 raw = b.crc then .ok raw else .error .crc

end Sys2Proof.Machine
end

