-- ==== Sys2Proof/Machine/Map.lean ====
section
/-!
DEFINITION. Sparse tables as plain data: a list of (key, value) pairs with strictly rising keys, and byte memories in the
same form whose unlisted bytes read as zero (R446: a plain region reads as zeros until it is written). Also what an
access to a host's own memory finds, which the command that names it carries.
-/
namespace Sys2Proof.Machine

/-- A sparse table keyed by natural numbers. -/
abbrev NMap (V : Type) := List (Nat × V)

/-- The value at a key. -/
def mapFind {V : Type} : NMap V → Nat → Option V
  | [], _ => none
  | (k, v) :: m, a => if k = a then some v else mapFind m a

/-- Set the value at a key, keeping the keys in rising order. -/
def mapIns {V : Type} (a : Nat) (v : V) : NMap V → NMap V
  | [] => [(a, v)]
  | (k, w) :: m => if a < k then (a, v) :: (k, w) :: m else if a = k then (a, v) :: m else (k, w) :: mapIns a v m

/-- Remove a key. -/
def mapDel {V : Type} (a : Nat) : NMap V → NMap V
  | [] => []
  | (k, w) :: m => if k = a then mapDel a m else (k, w) :: mapDel a m

/-- Change the value at a key, if it has one. -/
def mapUpd {V : Type} (a : Nat) (f : V → V) : NMap V → NMap V
  | [] => []
  | (k, w) :: m => if k = a then (k, f w) :: mapUpd a f m else (k, w) :: mapUpd a f m

/-- Change every value. -/
def mapVals {V : Type} (f : Nat → V → V) (m : NMap V) : NMap V := m.map fun e => (e.1, f e.1 e.2)

/-- The number of entries a test holds for. -/
def mapCount {V : Type} (p : Nat → V → Bool) (m : NMap V) : Nat := m.countP fun e => p e.1 e.2

/-- The keys are strictly rising. -/
def mapSorted {V : Type} : NMap V → Bool
  | [] => true
  | [_] => true
  | a :: b :: m => decide (a.1 < b.1) && mapSorted (b :: m)

/-- A byte memory. (log entry 10, DEDUCED) -/
abbrev Memory := List Host.Cell

/-- What a byte that nothing has written reads as: zero (R446). (log entry 10, DEDUCED) -/
def Memory.unwritten : Byte := 0

/-- The form every memory of the state keeps: addresses strictly rising, no entry equal to an unlisted byte. (log entry 10, DEDUCED) -/
abbrev Memory.wf (m : Memory) : Bool := mapSorted m && m.all fun c => c.2 != Memory.unwritten

/-- The byte at an address. -/
def Memory.get (m : Memory) (a : Nat) : Byte := (mapFind m a).getD Memory.unwritten

/-- Write one byte; writing the unlisted value removes the entry, so equal memories are equal data. -/
def Memory.set (m : Memory) (a : Nat) (b : Byte) : Memory :=
  if b = Memory.unwritten then mapDel a m else mapIns a b m

/-- The `n` bytes from an address. -/
def Memory.read (m : Memory) (a n : Nat) : List Byte := (List.range n).map fun i => m.get (a + i)

/-- Write bytes from an address up. -/
def Memory.write (m : Memory) (a : Nat) : List Byte → Memory
  | [] => m
  | b :: bs => Memory.write (m.set a b) (a + 1) bs

/-- Write the bytes whose enable is set (a masked store). -/
def Memory.writeMasked (m : Memory) (a : Nat) : List (Option Byte) → Memory
  | [] => m
  | none :: bs => Memory.writeMasked m (a + 1) bs
  | some b :: bs => Memory.writeMasked (m.set a b) (a + 1) bs

/-- Drop every byte of an address range [lo, hi). -/
def Memory.clear (m : Memory) (lo hi : Nat) : Memory := m.filter fun c => !(lo ≤ c.1 && c.1 < hi)

/-- What a host's memory holds where a command makes the part read it: the command carries the bytes; a byte that is
absent is a read that ends in an error. -/
abbrev HostMem := List Host.Cell

/-- The `n` bytes of host memory from an address, or none where any of them cannot be read. (log entry 7, DESIGN CHOICE) -/
def hostRead (hm : HostMem) (a n : Nat) : Option (List Byte) :=
  (List.range n).mapM fun i => mapFind hm (a + i)

end Sys2Proof.Machine
end

