-- ==== Sys2Proof/Machine/RegTable.lean ====
section
/-!
DEFINITION. The register table of BAR0, as the spec lays it out: R744 gives every register's offset from its block's base, R722 the blocks, and each register's own rule its fields,
their access codes (R17) and their reset values. One constructor of RegKind for each register name; a register with an index
(a tenant, a host, a panel ...) is one RegKind with a count and a stride for each index.
-/
namespace Sys2Proof.Machine

/-- The access codes of R17. -/
inductive Access where
  | ro | rw | w1c | w1s | wo | rwl | rws
  deriving DecidableEq, Repr

/-- Every register of BAR0 that R744 lists, under the spec's own name. -/
inductive RegKind where
  /-- R730 -/
  | GLB
  /-- R732 -/
  | GLB_CFG
  /-- R733 -/
  | GLB_ID
  /-- R733 -/
  | GLB_SERIAL
  /-- R734 -/
  | GLB_STATUS
  /-- R735 -/
  | GLB_UA
  /-- R90 -/
  | PAT_STATUS
  /-- R91 -/
  | PAT_VERSION
  /-- R92 -/
  | PAT_PROGRESS
  /-- R93 -/
  | PAT_ERRDET
  /-- R94 -/
  | PAT_EVT
  /-- R95 -/
  | PAT_MEAS
  /-- R95 -/
  | PAT_BASE
  /-- R96 -/
  | PANEL_STATE
  /-- R97 -/
  | PANEL_RPD
  /-- R99 -/
  | TNT_CTRL
  /-- R100 -/
  | TNT_STATE
  /-- R101 -/
  | TNT_BIND
  /-- R102 -/
  | TNT_GRP
  /-- R103 -/
  | TNT_QUOTA
  /-- R104 -/
  | TNT_CRED
  /-- R105 -/
  | TNT_USE0
  /-- R105 -/
  | TNT_USE1
  /-- R105 -/
  | TNT_ERR
  /-- R110 -/
  | SG_CFG
  /-- R103 -/
  | SG_QUOTA
  /-- R105 -/
  | SG_USE0
  /-- R105 -/
  | SG_USE1
  /-- R114 -/
  | HRT_CTL
  /-- R114 -/
  | HRT_BASE
  /-- R114 -/
  | HRT_LIMIT
  /-- R117 -/
  | HRT_SYNC
  /-- R116 -/
  | HRT_DENY
  /-- R125 -/
  | WHL_HOSTLIM
  /-- R172 -/
  | SPL_CFG
  /-- R173 -/
  | SPL_SQS
  /-- R174 -/
  | SPL_SQE
  /-- R175 -/
  | SPL_CQS
  /-- R176 -/
  | SPL_DEV
  /-- R177 -/
  | SPL_ERRCNT
  /-- R221 -/
  | PFX_CFG
  /-- R222 -/
  | PFX_USE
  /-- R223 -/
  | PFX_IDX
  /-- R223 -/
  | PFX_IDXUSE
  /-- R224 -/
  | PFX_CNT0
  /-- R224 -/
  | PFX_CNT1
  /-- R225 -/
  | PFX_NODEQ
  /-- R225 -/
  | PFX_NODE
  /-- R226 -/
  | CAM_CFG
  /-- R227 -/
  | CAM_REVMASK
  /-- R228 -/
  | CAM_CNT
  /-- R229 -/
  | CAM_BANK
  /-- R280 -/
  | PGT_HBM
  /-- R281 -/
  | PGT_DIRTY
  /-- R282 -/
  | PGT_TIER
  /-- R283 -/
  | PGT_RECOV
  /-- R284 -/
  | PGT_CNT0
  /-- R284 -/
  | PGT_CNT1
  /-- R284 -/
  | PGT_DLV
  /-- R285 -/
  | PGT_VC
  /-- R286 -/
  | PGT_PAGEQ
  /-- R286 -/
  | PGT_PAGE0
  /-- R286 -/
  | PGT_PAGE1
  /-- R287 -/
  | PGT_PRB
  /-- R330 -/
  | CDR_TRIGHTS
  /-- R331 -/
  | CDR_GENQ
  /-- R332 -/
  | CDR_GENS
  /-- R333 -/
  | CDR_GREF
  /-- R334 -/
  | CDR_RETIRE
  /-- R335 -/
  | CDR_EVT
  /-- R336 -/
  | CDR_CSTAT0
  /-- R336 -/
  | CDR_CSTAT1
  /-- R337 -/
  | CDR_CORRUPT
  /-- R338 -/
  | CDR_HCFG
  /-- R339 -/
  | CDR_HSTAT
  /-- R340 -/
  | CDR_HIST
  /-- R380 -/
  | ATN_CNT0
  /-- R381 -/
  | ATN_CNT1
  /-- R382 -/
  | ATN_ELEM
  /-- R383 -/
  | ATN_FAIL
  /-- R384 -/
  | ATN_WAIT
  /-- R385 -/
  | ATN_PANEL
  /-- R426 -/
  | SNL_CFG
  /-- R427 -/
  | SNL_RING
  /-- R428 -/
  | SNL_LINK
  /-- R429 -/
  | SNL_LERR
  /-- R430 -/
  | SNL_CASC
  /-- R431 -/
  | SNL_CTX_CTL
  /-- R432 -/
  | SNL_CTX_ST
  /-- R433 -/
  | SNL_CTX_DL
  /-- R433 -/
  | SNL_CTX_TAIL
  /-- R434 -/
  | SNL_CTX_AGE
  /-- R523 -/
  | SHT_CFG
  /-- R524 -/
  | SHT_PORT
  /-- R524 -/
  | SHT_PORTST
  /-- R525 -/
  | SHT_MAC
  /-- R525 -/
  | SHT_NHMAC
  /-- R525 -/
  | SHT_IP6A
  /-- R525 -/
  | SHT_IP6B
  /-- R525 -/
  | SHT_IP4
  /-- R526 -/
  | SHT_QPQ
  /-- R527 -/
  | SHT_QPC
  /-- R528 -/
  | SHT_QPST0
  /-- R528 -/
  | SHT_QPST1
  /-- R529 -/
  | SHT_CNT0
  /-- R529 -/
  | SHT_CNT1
  /-- R529 -/
  | SHT_CNT2
  /-- R529 -/
  | SHT_CNT3
  /-- R566 -/
  | FLT_GEOM
  /-- R567 -/
  | FLT_CAP
  /-- R568 -/
  | FLT_SPACE
  /-- R569 -/
  | FLT_GCCNT
  /-- R570 -/
  | FLT_WEAR
  /-- R571 -/
  | FLT_SPARE
  /-- R572 -/
  | FLT_ERR0
  /-- R572 -/
  | FLT_ERR1
  /-- R573 -/
  | FLT_PF
  /-- R574 -/
  | FLT_SHRED
  /-- R575 -/
  | FLT_CH
  /-- R576 -/
  | FLT_TEMP
  /-- R606 -/
  | RAS_STATUS
  /-- R607 -/
  | RAS_REPL
  /-- R608 -/
  | RAS_CTL
  /-- R609 -/
  | RAS_REBUILD
  /-- R610 -/
  | RAS_SCRUB
  /-- R610 -/
  | RAS_POISON
  /-- R611 -/
  | RAS_HBM
  /-- R612 -/
  | RAS_CORERET
  /-- R655 -/
  | SEC_LC
  /-- R656 -/
  | SEC_FW
  /-- R656 -/
  | SEC_FLOOR
  /-- R657 -/
  | SEC_PATFLOOR
  /-- R657 -/
  | SEC_CAL
  /-- R657 -/
  | SEC_NVS
  /-- R658 -/
  | SEC_TKEY
  /-- R659 -/
  | SEC_TSTAT
  /-- R660 -/
  | SEC_GSTAT
  /-- R688 -/
  | PWR_STATUS
  /-- R689 -/
  | PWR_CTL
  /-- R690 -/
  | PWR_MEAS
  /-- R691 -/
  | PWR_THERM
  /-- R692 -/
  | PWR_RST
  /-- R693 -/
  | PWR_BOOT
  /-- R694 -/
  | PWR_DTIME
  /-- R694 -/
  | PWR_DTSET
  /-- R695 -/
  | PWR_DTCTL
  /-- R694 -/
  | PWR_DTOFF
  /-- R696 -/
  | PWR_CLK
  /-- R476 -/
  | CXL_PORTCFG
  /-- R477 -/
  | CXL_LINKCFG
  /-- R478 -/
  | CXL_LINKST
  /-- R479 -/
  | CXL_PLAIN
  /-- R480 -/
  | CXL_SF
  /-- R481 -/
  | CXL_ORPH
  /-- R481 -/
  | CXL_ORPHQ
  /-- R481 -/
  | CXL_ORPHE0
  /-- R481 -/
  | CXL_ORPHE1
  /-- R482 -/
  | CXL_CNT
  /-- R483 -/
  | CXL_VW
  /-- R484 -/
  | GW_CTL
  /-- R484 -/
  | GW_RADDR
  /-- R484 -/
  | GW_FLADDR
  /-- R484 -/
  | GW_ST
  /-- R741 -/
  | LOG_CTL
  /-- R741 -/
  | LOG_PTR
  /-- R741 -/
  | LOG_RDIDX
  /-- R741 -/
  | LOG_REC
  /-- R741 -/
  | LOG_SEV
  /-- R742 -/
  | LOG_HEALTH0
  deriving DecidableEq, Repr

/-- One field of a register: its bits [hi:lo], its access code, its reset value, and whether a read clears it (R723). -/
structure Field where
  reg : RegKind
  hi : Nat
  lo : Nat
  acc : Access
  rst : Nat
  clearsOnRead : Bool
  deriving DecidableEq, Repr

/-- GLB.LOCK, R730. -/
def Fd.GLB_LOCK : Field := ⟨.GLB, 0, 0, .w1s, 0, false⟩
/-- GLB_CFG.CFGFREEZE, R732. -/
def Fd.GLB_CFG_CFGFREEZE : Field := ⟨.GLB_CFG, 3, 3, .rwl, 0, false⟩
/-- GLB_CFG.ALERTLVL, R732. -/
def Fd.GLB_CFG_ALERTLVL : Field := ⟨.GLB_CFG, 2, 1, .rwl, 1, false⟩
/-- GLB_CFG.UALOG, R732. -/
def Fd.GLB_CFG_UALOG : Field := ⟨.GLB_CFG, 0, 0, .rwl, 1, false⟩
/-- GLB_ID.STEP, R733. -/
def Fd.GLB_ID_STEP : Field := ⟨.GLB_ID, 23, 16, .ro, 0, false⟩
/-- GLB_ID.PART, R733. -/
def Fd.GLB_ID_PART : Field := ⟨.GLB_ID, 15, 0, .ro, 29202, false⟩
/-- GLB_SERIAL.SERIAL, R733. -/
def Fd.GLB_SERIAL_SERIAL : Field := ⟨.GLB_SERIAL, 63, 0, .ro, 0, false⟩
/-- GLB_STATUS.LOCK, R734. -/
def Fd.GLB_STATUS_LOCK : Field := ⟨.GLB_STATUS, 15, 15, .ro, 0, false⟩
/-- GLB_STATUS.REPLACE, R734. -/
def Fd.GLB_STATUS_REPLACE : Field := ⟨.GLB_STATUS, 14, 14, .ro, 0, false⟩
/-- GLB_STATUS.SAFE, R734. -/
def Fd.GLB_STATUS_SAFE : Field := ⟨.GLB_STATUS, 13, 13, .ro, 0, false⟩
/-- GLB_STATUS.MEDIA, R734. -/
def Fd.GLB_STATUS_MEDIA : Field := ⟨.GLB_STATUS, 12, 12, .ro, 0, false⟩
/-- GLB_STATUS.LCSTATE, R734. -/
def Fd.GLB_STATUS_LCSTATE : Field := ⟨.GLB_STATUS, 11, 9, .ro, 0, false⟩
/-- GLB_STATUS.RASSTATE, R734. -/
def Fd.GLB_STATUS_RASSTATE : Field := ⟨.GLB_STATUS, 8, 6, .ro, 0, false⟩
/-- GLB_STATUS.PATSTATE, R734. -/
def Fd.GLB_STATUS_PATSTATE : Field := ⟨.GLB_STATUS, 3, 0, .ro, 0, false⟩
/-- GLB_UA.COUNT, R735. -/
def Fd.GLB_UA_COUNT : Field := ⟨.GLB_UA, 63, 48, .ro, 0, true⟩
/-- GLB_UA.HOST, R735. -/
def Fd.GLB_UA_HOST : Field := ⟨.GLB_UA, 39, 36, .ro, 0, true⟩
/-- GLB_UA.SIZE, R735. -/
def Fd.GLB_UA_SIZE : Field := ⟨.GLB_UA, 35, 32, .ro, 0, true⟩
/-- GLB_UA.VALID, R735. -/
def Fd.GLB_UA_VALID : Field := ⟨.GLB_UA, 31, 31, .ro, 0, true⟩
/-- GLB_UA.WRITE, R735. -/
def Fd.GLB_UA_WRITE : Field := ⟨.GLB_UA, 29, 29, .ro, 0, true⟩
/-- GLB_UA.BAR, R735. -/
def Fd.GLB_UA_BAR : Field := ⟨.GLB_UA, 28, 28, .ro, 0, true⟩
/-- GLB_UA.OFFSET, R735. -/
def Fd.GLB_UA_OFFSET : Field := ⟨.GLB_UA, 25, 0, .ro, 0, true⟩
/-- PAT_STATUS.SVN, R90. -/
def Fd.PAT_STATUS_SVN : Field := ⟨.PAT_STATUS, 63, 32, .ro, 0, false⟩
/-- PAT_STATUS.ERR, R90. -/
def Fd.PAT_STATUS_ERR : Field := ⟨.PAT_STATUS, 31, 24, .ro, 0, false⟩
/-- PAT_STATUS.NPANEL, R90. -/
def Fd.PAT_STATUS_NPANEL : Field := ⟨.PAT_STATUS, 23, 17, .ro, 0, false⟩
/-- PAT_STATUS.SIGNER, R90. -/
def Fd.PAT_STATUS_SIGNER : Field := ⟨.PAT_STATUS, 15, 14, .ro, 0, false⟩
/-- PAT_STATUS.COMPAT, R90. -/
def Fd.PAT_STATUS_COMPAT : Field := ⟨.PAT_STATUS, 13, 13, .ro, 0, false⟩
/-- PAT_STATUS.PERSISTED, R90. -/
def Fd.PAT_STATUS_PERSISTED : Field := ⟨.PAT_STATUS, 12, 12, .ro, 0, false⟩
/-- PAT_STATUS.STATE, R90. -/
def Fd.PAT_STATUS_STATE : Field := ⟨.PAT_STATUS, 3, 0, .ro, 0, false⟩
/-- PAT_VERSION.IFGEN, R91. -/
def Fd.PAT_VERSION_IFGEN : Field := ⟨.PAT_VERSION, 31, 16, .ro, 0, false⟩
/-- PAT_VERSION.FMTVER, R91. -/
def Fd.PAT_VERSION_FMTVER : Field := ⟨.PAT_VERSION, 15, 0, .ro, 0, false⟩
/-- PAT_PROGRESS.PCT, R92. -/
def Fd.PAT_PROGRESS_PCT : Field := ⟨.PAT_PROGRESS, 39, 32, .ro, 0, false⟩
/-- PAT_PROGRESS.STAGED, R92. -/
def Fd.PAT_PROGRESS_STAGED : Field := ⟨.PAT_PROGRESS, 31, 0, .ro, 0, false⟩
/-- PAT_ERRDET.SOFF, R93. -/
def Fd.PAT_ERRDET_SOFF : Field := ⟨.PAT_ERRDET, 63, 32, .ro, 0, false⟩
/-- PAT_ERRDET.PANEL, R93. -/
def Fd.PAT_ERRDET_PANEL : Field := ⟨.PAT_ERRDET, 23, 16, .ro, 0, false⟩
/-- PAT_ERRDET.TYPE, R93. -/
def Fd.PAT_ERRDET_TYPE : Field := ⟨.PAT_ERRDET, 15, 0, .ro, 0, false⟩
/-- PAT_EVT.PERSIST_DONE, R94. -/
def Fd.PAT_EVT_PERSIST_DONE : Field := ⟨.PAT_EVT, 4, 4, .w1c, 0, false⟩
/-- PAT_EVT.SWAP_FAIL, R94. -/
def Fd.PAT_EVT_SWAP_FAIL : Field := ⟨.PAT_EVT, 3, 3, .w1c, 0, false⟩
/-- PAT_EVT.SWAP_DONE, R94. -/
def Fd.PAT_EVT_SWAP_DONE : Field := ⟨.PAT_EVT, 2, 2, .w1c, 0, false⟩
/-- PAT_EVT.LOAD_FAIL, R94. -/
def Fd.PAT_EVT_LOAD_FAIL : Field := ⟨.PAT_EVT, 1, 1, .w1c, 0, false⟩
/-- PAT_EVT.LOAD_DONE, R94. -/
def Fd.PAT_EVT_LOAD_DONE : Field := ⟨.PAT_EVT, 0, 0, .w1c, 0, false⟩
/-- PAT_MEAS.DIG, R95. -/
def Fd.PAT_MEAS_DIG : Field := ⟨.PAT_MEAS, 63, 0, .ro, 0, false⟩
/-- PAT_BASE.DIG, R95. -/
def Fd.PAT_BASE_DIG : Field := ⟨.PAT_BASE, 63, 0, .ro, 0, false⟩
/-- PANEL_STATE.BUSYCNT, R96. -/
def Fd.PANEL_STATE_BUSYCNT : Field := ⟨.PANEL_STATE, 63, 48, .ro, 0, true⟩
/-- PANEL_STATE.PLAN, R96. -/
def Fd.PANEL_STATE_PLAN : Field := ⟨.PANEL_STATE, 47, 40, .ro, 0, false⟩
/-- PANEL_STATE.RETIRED, R96. -/
def Fd.PANEL_STATE_RETIRED : Field := ⟨.PANEL_STATE, 39, 32, .ro, 0, false⟩
/-- PANEL_STATE.CORES1, R96. -/
def Fd.PANEL_STATE_CORES1 : Field := ⟨.PANEL_STATE, 31, 24, .ro, 0, false⟩
/-- PANEL_STATE.CORES0, R96. -/
def Fd.PANEL_STATE_CORES0 : Field := ⟨.PANEL_STATE, 23, 16, .ro, 0, false⟩
/-- PANEL_STATE.PROFILE, R96. -/
def Fd.PANEL_STATE_PROFILE : Field := ⟨.PANEL_STATE, 15, 8, .ro, 0, false⟩
/-- PANEL_STATE.STATE, R96. -/
def Fd.PANEL_STATE_STATE : Field := ⟨.PANEL_STATE, 1, 0, .ro, 0, false⟩
/-- PANEL_RPD.RPD, R97. -/
def Fd.PANEL_RPD_RPD : Field := ⟨.PANEL_RPD, 63, 0, .ro, 0, false⟩
/-- TNT_CTRL.HOST, R99. -/
def Fd.TNT_CTRL_HOST : Field := ⟨.TNT_CTRL, 27, 24, .rw, 0, false⟩
/-- TNT_CTRL.PANEL, R99. -/
def Fd.TNT_CTRL_PANEL : Field := ⟨.TNT_CTRL, 21, 16, .rw, 0, false⟩
/-- TNT_CTRL.TEMPLATE, R99. -/
def Fd.TNT_CTRL_TEMPLATE : Field := ⟨.TNT_CTRL, 15, 12, .rw, 0, false⟩
/-- TNT_CTRL.ACTION, R99. -/
def Fd.TNT_CTRL_ACTION : Field := ⟨.TNT_CTRL, 3, 0, .wo, 0, false⟩
/-- TNT_STATE.DRAIN, R100. -/
def Fd.TNT_STATE_DRAIN : Field := ⟨.TNT_STATE, 63, 40, .ro, 0, false⟩
/-- TNT_STATE.ACTERR, R100. -/
def Fd.TNT_STATE_ACTERR : Field := ⟨.TNT_STATE, 23, 16, .ro, 0, false⟩
/-- TNT_STATE.SEALED, R100. -/
def Fd.TNT_STATE_SEALED : Field := ⟨.TNT_STATE, 3, 3, .ro, 0, false⟩
/-- TNT_STATE.STATE, R100. -/
def Fd.TNT_STATE_STATE : Field := ⟨.TNT_STATE, 2, 0, .ro, 0, false⟩
/-- TNT_BIND.TRIMTH, R101. -/
def Fd.TNT_BIND_TRIMTH : Field := ⟨.TNT_BIND, 47, 40, .rw, 0, false⟩
/-- TNT_BIND.TRIM, R101. -/
def Fd.TNT_BIND_TRIM : Field := ⟨.TNT_BIND, 39, 39, .rw, 0, false⟩
/-- TNT_BIND.RECOVQ4, R101. -/
def Fd.TNT_BIND_RECOVQ4 : Field := ⟨.TNT_BIND, 38, 38, .rw, 0, false⟩
/-- TNT_BIND.VOLATILE, R101. -/
def Fd.TNT_BIND_VOLATILE : Field := ⟨.TNT_BIND, 37, 37, .rw, 0, false⟩
/-- TNT_BIND.QCMD, R101. -/
def Fd.TNT_BIND_QCMD : Field := ⟨.TNT_BIND, 30, 16, .rw, 0, false⟩
/-- TNT_BIND.BCLASS, R101. -/
def Fd.TNT_BIND_BCLASS : Field := ⟨.TNT_BIND, 14, 12, .rw, 0, false⟩
/-- TNT_BIND.PROFILE, R101. -/
def Fd.TNT_BIND_PROFILE : Field := ⟨.TNT_BIND, 11, 4, .ro, 0, false⟩
/-- TNT_BIND.HOST, R101. -/
def Fd.TNT_BIND_HOST : Field := ⟨.TNT_BIND, 3, 0, .ro, 0, false⟩
/-- TNT_GRP.COMMITTO, R102. -/
def Fd.TNT_GRP_COMMITTO : Field := ⟨.TNT_GRP, 42, 40, .rw, 0, false⟩
/-- TNT_GRP.M3V, R102. -/
def Fd.TNT_GRP_M3V : Field := ⟨.TNT_GRP, 39, 39, .rw, 0, false⟩
/-- TNT_GRP.M3RW, R102. -/
def Fd.TNT_GRP_M3RW : Field := ⟨.TNT_GRP, 38, 38, .rw, 0, false⟩
/-- TNT_GRP.M3GRP, R102. -/
def Fd.TNT_GRP_M3GRP : Field := ⟨.TNT_GRP, 37, 30, .rw, 0, false⟩
/-- TNT_GRP.M2V, R102. -/
def Fd.TNT_GRP_M2V : Field := ⟨.TNT_GRP, 29, 29, .rw, 0, false⟩
/-- TNT_GRP.M2RW, R102. -/
def Fd.TNT_GRP_M2RW : Field := ⟨.TNT_GRP, 28, 28, .rw, 0, false⟩
/-- TNT_GRP.M2GRP, R102. -/
def Fd.TNT_GRP_M2GRP : Field := ⟨.TNT_GRP, 27, 20, .rw, 0, false⟩
/-- TNT_GRP.M1V, R102. -/
def Fd.TNT_GRP_M1V : Field := ⟨.TNT_GRP, 19, 19, .rw, 0, false⟩
/-- TNT_GRP.M1RW, R102. -/
def Fd.TNT_GRP_M1RW : Field := ⟨.TNT_GRP, 18, 18, .rw, 0, false⟩
/-- TNT_GRP.M1GRP, R102. -/
def Fd.TNT_GRP_M1GRP : Field := ⟨.TNT_GRP, 17, 10, .rw, 0, false⟩
/-- TNT_GRP.M0V, R102. -/
def Fd.TNT_GRP_M0V : Field := ⟨.TNT_GRP, 9, 9, .rw, 0, false⟩
/-- TNT_GRP.M0RW, R102. -/
def Fd.TNT_GRP_M0RW : Field := ⟨.TNT_GRP, 8, 8, .rw, 0, false⟩
/-- TNT_GRP.M0GRP, R102. -/
def Fd.TNT_GRP_M0GRP : Field := ⟨.TNT_GRP, 7, 0, .rw, 0, false⟩
/-- TNT_QUOTA.QHBM, R103. -/
def Fd.TNT_QUOTA_QHBM : Field := ⟨.TNT_QUOTA, 63, 46, .rw, 0, false⟩
/-- TNT_QUOTA.QFLASH, R103. -/
def Fd.TNT_QUOTA_QFLASH : Field := ⟨.TNT_QUOTA, 45, 27, .rw, 0, false⟩
/-- TNT_QUOTA.QCHUNK, R103. -/
def Fd.TNT_QUOTA_QCHUNK : Field := ⟨.TNT_QUOTA, 23, 0, .rw, 0, false⟩
/-- TNT_CRED.CQ1, R104. -/
def Fd.TNT_CRED_CQ1 : Field := ⟨.TNT_CRED, 59, 50, .rw, 0, false⟩
/-- TNT_CRED.CQ0, R104. -/
def Fd.TNT_CRED_CQ0 : Field := ⟨.TNT_CRED, 49, 40, .rw, 0, false⟩
/-- TNT_CRED.SQ3, R104. -/
def Fd.TNT_CRED_SQ3 : Field := ⟨.TNT_CRED, 39, 30, .rw, 0, false⟩
/-- TNT_CRED.SQ2, R104. -/
def Fd.TNT_CRED_SQ2 : Field := ⟨.TNT_CRED, 29, 20, .rw, 0, false⟩
/-- TNT_CRED.SQ1, R104. -/
def Fd.TNT_CRED_SQ1 : Field := ⟨.TNT_CRED, 19, 10, .rw, 0, false⟩
/-- TNT_CRED.SQ0, R104. -/
def Fd.TNT_CRED_SQ0 : Field := ⟨.TNT_CRED, 9, 0, .rw, 0, false⟩
/-- TNT_USE0.INFLIGHT, R105. -/
def Fd.TNT_USE0_INFLIGHT : Field := ⟨.TNT_USE0, 38, 24, .ro, 0, false⟩
/-- TNT_USE0.CHUNKS, R105. -/
def Fd.TNT_USE0_CHUNKS : Field := ⟨.TNT_USE0, 23, 0, .ro, 0, false⟩
/-- TNT_USE1.FLASHMIB, R105. -/
def Fd.TNT_USE1_FLASHMIB : Field := ⟨.TNT_USE1, 57, 30, .ro, 0, false⟩
/-- TNT_USE1.HBMGRAN, R105. -/
def Fd.TNT_USE1_HBMGRAN : Field := ⟨.TNT_USE1, 29, 0, .ro, 0, false⟩
/-- TNT_ERR.QUOTAHIT, R105. -/
def Fd.TNT_ERR_QUOTAHIT : Field := ⟨.TNT_ERR, 3, 3, .w1c, 0, false⟩
/-- TNT_ERR.HRTDENY, R105. -/
def Fd.TNT_ERR_HRTDENY : Field := ⟨.TNT_ERR, 2, 2, .w1c, 0, false⟩
/-- TNT_ERR.HOSTLOST, R105. -/
def Fd.TNT_ERR_HOSTLOST : Field := ⟨.TNT_ERR, 1, 1, .w1c, 0, false⟩
/-- TNT_ERR.CREDOVR, R105. -/
def Fd.TNT_ERR_CREDOVR : Field := ⟨.TNT_ERR, 0, 0, .w1c, 0, false⟩
/-- SG_CFG.BCLASS, R110. -/
def Fd.SG_CFG_BCLASS : Field := ⟨.SG_CFG, 42, 40, .rw, 0, false⟩
/-- SG_CFG.ERR, R110. -/
def Fd.SG_CFG_ERR : Field := ⟨.SG_CFG, 39, 32, .ro, 0, false⟩
/-- SG_CFG.MEMBERS, R110. -/
def Fd.SG_CFG_MEMBERS : Field := ⟨.SG_CFG, 26, 16, .ro, 0, false⟩
/-- SG_CFG.PROFILE, R110. -/
def Fd.SG_CFG_PROFILE : Field := ⟨.SG_CFG, 15, 8, .rw, 0, false⟩
/-- SG_CFG.VALID, R110. -/
def Fd.SG_CFG_VALID : Field := ⟨.SG_CFG, 4, 4, .ro, 0, false⟩
/-- SG_CFG.ACTION, R110. -/
def Fd.SG_CFG_ACTION : Field := ⟨.SG_CFG, 3, 0, .wo, 0, false⟩
/-- SG_QUOTA.QHBM, R103. -/
def Fd.SG_QUOTA_QHBM : Field := ⟨.SG_QUOTA, 63, 46, .rw, 0, false⟩
/-- SG_QUOTA.QFLASH, R103. -/
def Fd.SG_QUOTA_QFLASH : Field := ⟨.SG_QUOTA, 45, 27, .rw, 0, false⟩
/-- SG_QUOTA.QCHUNK, R103. -/
def Fd.SG_QUOTA_QCHUNK : Field := ⟨.SG_QUOTA, 23, 0, .rw, 0, false⟩
/-- SG_USE0.INFLIGHT, R105. -/
def Fd.SG_USE0_INFLIGHT : Field := ⟨.SG_USE0, 38, 24, .ro, 0, false⟩
/-- SG_USE0.CHUNKS, R105. -/
def Fd.SG_USE0_CHUNKS : Field := ⟨.SG_USE0, 23, 0, .ro, 0, false⟩
/-- SG_USE1.FLASHMIB, R105. -/
def Fd.SG_USE1_FLASHMIB : Field := ⟨.SG_USE1, 57, 30, .ro, 0, false⟩
/-- SG_USE1.HBMGRAN, R105. -/
def Fd.SG_USE1_HBMGRAN : Field := ⟨.SG_USE1, 29, 0, .ro, 0, false⟩
/-- HRT_CTL.BC, R114. -/
def Fd.HRT_CTL_BC : Field := ⟨.HRT_CTL, 20, 18, .rw, 0, false⟩
/-- HRT_CTL.TENANT, R114. -/
def Fd.HRT_CTL_TENANT : Field := ⟨.HRT_CTL, 17, 8, .rw, 0, false⟩
/-- HRT_CTL.HOST, R114. -/
def Fd.HRT_CTL_HOST : Field := ⟨.HRT_CTL, 7, 4, .rw, 0, false⟩
/-- HRT_CTL.SPACE, R114. -/
def Fd.HRT_CTL_SPACE : Field := ⟨.HRT_CTL, 3, 3, .rw, 0, false⟩
/-- HRT_CTL.WR, R114. -/
def Fd.HRT_CTL_WR : Field := ⟨.HRT_CTL, 2, 2, .rw, 0, false⟩
/-- HRT_CTL.RD, R114. -/
def Fd.HRT_CTL_RD : Field := ⟨.HRT_CTL, 1, 1, .rw, 0, false⟩
/-- HRT_CTL.VALID, R114. -/
def Fd.HRT_CTL_VALID : Field := ⟨.HRT_CTL, 0, 0, .rw, 0, false⟩
/-- HRT_BASE.BASE, R114. -/
def Fd.HRT_BASE_BASE : Field := ⟨.HRT_BASE, 63, 16, .rw, 0, false⟩
/-- HRT_LIMIT.LIMIT, R114. -/
def Fd.HRT_LIMIT_LIMIT : Field := ⟨.HRT_LIMIT, 63, 16, .rw, 0, false⟩
/-- HRT_SYNC.PENDING, R117. -/
def Fd.HRT_SYNC_PENDING : Field := ⟨.HRT_SYNC, 1, 1, .ro, 0, false⟩
/-- HRT_SYNC.SYNC, R117. -/
def Fd.HRT_SYNC_SYNC : Field := ⟨.HRT_SYNC, 0, 0, .wo, 0, false⟩
/-- HRT_DENY.COUNT, R116. -/
def Fd.HRT_DENY_COUNT : Field := ⟨.HRT_DENY, 63, 0, .ro, 0, true⟩
/-- WHL_HOSTLIM.BURST, R125. -/
def Fd.WHL_HOSTLIM_BURST : Field := ⟨.WHL_HOSTLIM, 31, 16, .rw, 0, false⟩
/-- WHL_HOSTLIM.RATE, R125. -/
def Fd.WHL_HOSTLIM_RATE : Field := ⟨.WHL_HOSTLIM, 15, 0, .rw, 0, false⟩
/-- SPL_CFG.CTOFF, R172. -/
def Fd.SPL_CFG_CTOFF : Field := ⟨.SPL_CFG, 1, 1, .rw, 0, false⟩
/-- SPL_CFG.CRCREQ, R172. -/
def Fd.SPL_CFG_CRCREQ : Field := ⟨.SPL_CFG, 0, 0, .rw, 0, false⟩
/-- SPL_SQS.FREED, R173. -/
def Fd.SPL_SQS_FREED : Field := ⟨.SPL_SQS, 63, 48, .ro, 0, false⟩
/-- SPL_SQS.NEXT, R173. -/
def Fd.SPL_SQS_NEXT : Field := ⟨.SPL_SQS, 47, 32, .ro, 0, false⟩
/-- SPL_SQS.TAIL, R173. -/
def Fd.SPL_SQS_TAIL : Field := ⟨.SPL_SQS, 31, 16, .ro, 0, false⟩
/-- SPL_SQS.HELD, R173. -/
def Fd.SPL_SQS_HELD : Field := ⟨.SPL_SQS, 11, 0, .ro, 0, false⟩
/-- SPL_SQE.ERRSEQ, R174. -/
def Fd.SPL_SQE_ERRSEQ : Field := ⟨.SPL_SQE, 47, 32, .ro, 0, false⟩
/-- SPL_SQE.ERRTAG, R174. -/
def Fd.SPL_SQE_ERRTAG : Field := ⟨.SPL_SQE, 31, 16, .ro, 0, false⟩
/-- SPL_SQE.ERR, R174. -/
def Fd.SPL_SQE_ERR : Field := ⟨.SPL_SQE, 7, 4, .ro, 0, false⟩
/-- SPL_SQE.STATE, R174. -/
def Fd.SPL_SQE_STATE : Field := ⟨.SPL_SQE, 0, 0, .ro, 0, false⟩
/-- SPL_CQS.WAITING, R175. -/
def Fd.SPL_CQS_WAITING : Field := ⟨.SPL_CQS, 46, 32, .ro, 0, false⟩
/-- SPL_CQS.CONSUMED, R175. -/
def Fd.SPL_CQS_CONSUMED : Field := ⟨.SPL_CQS, 31, 16, .ro, 0, false⟩
/-- SPL_CQS.UNREAD, R175. -/
def Fd.SPL_CQS_UNREAD : Field := ⟨.SPL_CQS, 12, 0, .ro, 0, false⟩
/-- SPL_DEV.FREECELLS, R176. -/
def Fd.SPL_DEV_FREECELLS : Field := ⟨.SPL_DEV, 50, 32, .ro, 262144, false⟩
/-- SPL_DEV.INFLIGHT, R176. -/
def Fd.SPL_DEV_INFLIGHT : Field := ⟨.SPL_DEV, 14, 0, .ro, 0, false⟩
/-- SPL_ERRCNT.MISSCNT, R177. -/
def Fd.SPL_ERRCNT_MISSCNT : Field := ⟨.SPL_ERRCNT, 63, 48, .ro, 0, true⟩
/-- SPL_ERRCNT.CREDCNT, R177. -/
def Fd.SPL_ERRCNT_CREDCNT : Field := ⟨.SPL_ERRCNT, 47, 32, .ro, 0, true⟩
/-- SPL_ERRCNT.CRCCNT, R177. -/
def Fd.SPL_ERRCNT_CRCCNT : Field := ⟨.SPL_ERRCNT, 31, 16, .ro, 0, true⟩
/-- SPL_ERRCNT.FMTCNT, R177. -/
def Fd.SPL_ERRCNT_FMTCNT : Field := ⟨.SPL_ERRCNT, 15, 0, .ro, 0, true⟩
/-- PFX_CFG.CAMEN, R221. -/
def Fd.PFX_CFG_CAMEN : Field := ⟨.PFX_CFG, 8, 8, .rw, 1, false⟩
/-- PFX_CFG.HOTTH, R221. -/
def Fd.PFX_CFG_HOTTH : Field := ⟨.PFX_CFG, 7, 0, .rw, 64, false⟩
/-- PFX_USE.FREESEQ, R222. -/
def Fd.PFX_USE_FREESEQ : Field := ⟨.PFX_USE, 47, 25, .ro, 4194304, false⟩
/-- PFX_USE.FREECH, R222. -/
def Fd.PFX_USE_FREECH : Field := ⟨.PFX_USE, 24, 0, .ro, 16777216, false⟩
/-- PFX_IDX.UNIDX, R223. -/
def Fd.PFX_IDX_UNIDX : Field := ⟨.PFX_IDX, 51, 26, .ro, 0, false⟩
/-- PFX_IDX.STASH, R223. -/
def Fd.PFX_IDX_STASH : Field := ⟨.PFX_IDX, 25, 13, .ro, 0, false⟩
/-- PFX_IDXUSE.ENTRIES, R223. -/
def Fd.PFX_IDXUSE_ENTRIES : Field := ⟨.PFX_IDXUSE, 25, 0, .ro, 0, false⟩
/-- PFX_CNT0.NODEHITS, R224. -/
def Fd.PFX_CNT0_NODEHITS : Field := ⟨.PFX_CNT0, 63, 32, .ro, 0, true⟩
/-- PFX_CNT0.LOOKUPS, R224. -/
def Fd.PFX_CNT0_LOOKUPS : Field := ⟨.PFX_CNT0, 31, 0, .ro, 0, true⟩
/-- PFX_CNT1.VFAIL, R224. -/
def Fd.PFX_CNT1_VFAIL : Field := ⟨.PFX_CNT1, 63, 32, .ro, 0, true⟩
/-- PFX_CNT1.REVIVES, R224. -/
def Fd.PFX_CNT1_REVIVES : Field := ⟨.PFX_CNT1, 31, 0, .ro, 0, true⟩
/-- PFX_NODEQ.BUSY, R225. -/
def Fd.PFX_NODEQ_BUSY : Field := ⟨.PFX_NODEQ, 63, 63, .ro, 0, false⟩
/-- PFX_NODEQ.FOUND, R225. -/
def Fd.PFX_NODEQ_FOUND : Field := ⟨.PFX_NODEQ, 62, 62, .ro, 0, false⟩
/-- PFX_NODEQ.HANDLE, R225. -/
def Fd.PFX_NODEQ_HANDLE : Field := ⟨.PFX_NODEQ, 23, 0, .rw, 0, false⟩
/-- PFX_NODE.WORD, R225. -/
def Fd.PFX_NODE_WORD : Field := ⟨.PFX_NODE, 63, 0, .ro, 0, false⟩
/-- CAM_CFG.RINGGRP, R226. -/
def Fd.CAM_CFG_RINGGRP : Field := ⟨.CAM_CFG, 25, 18, .rw, 0, false⟩
/-- CAM_CFG.WIDE, R226. -/
def Fd.CAM_CFG_WIDE : Field := ⟨.CAM_CFG, 17, 17, .rw, 0, false⟩
/-- CAM_CFG.NMEM, R226. -/
def Fd.CAM_CFG_NMEM : Field := ⟨.CAM_CFG, 12, 9, .rw, 0, false⟩
/-- CAM_CFG.POS, R226. -/
def Fd.CAM_CFG_POS : Field := ⟨.CAM_CFG, 4, 1, .rw, 0, false⟩
/-- CAM_CFG.CASC, R226. -/
def Fd.CAM_CFG_CASC : Field := ⟨.CAM_CFG, 0, 0, .rw, 0, false⟩
/-- CAM_REVMASK.REVMASK, R227. -/
def Fd.CAM_REVMASK_REVMASK : Field := ⟨.CAM_REVMASK, 15, 0, .rw, 0, false⟩
/-- CAM_CNT.HITS, R228. -/
def Fd.CAM_CNT_HITS : Field := ⟨.CAM_CNT, 63, 38, .ro, 0, true⟩
/-- CAM_CNT.SEARCHES, R228. -/
def Fd.CAM_CNT_SEARCHES : Field := ⟨.CAM_CNT, 37, 12, .ro, 0, true⟩
/-- CAM_CNT.INFLT, R228. -/
def Fd.CAM_CNT_INFLT : Field := ⟨.CAM_CNT, 5, 0, .ro, 0, false⟩
/-- CAM_BANK.USED, R229. -/
def Fd.CAM_BANK_USED : Field := ⟨.CAM_BANK, 13, 0, .ro, 0, false⟩
/-- PGT_HBM.CACHESF, R280. -/
def Fd.PGT_HBM_CACHESF : Field := ⟨.PGT_HBM, 35, 18, .ro, 0, false⟩
/-- PGT_HBM.FREESF, R280. -/
def Fd.PGT_HBM_FREESF : Field := ⟨.PGT_HBM, 17, 0, .ro, 0, false⟩
/-- PGT_DIRTY.DIRTYMIB, R281. -/
def Fd.PGT_DIRTY_DIRTYMIB : Field := ⟨.PGT_DIRTY, 31, 0, .ro, 0, false⟩
/-- PGT_TIER.FUSEPCT, R282. -/
def Fd.PGT_TIER_FUSEPCT : Field := ⟨.PGT_TIER, 23, 16, .ro, 0, false⟩
/-- PGT_TIER.HUSEPCT, R282. -/
def Fd.PGT_TIER_HUSEPCT : Field := ⟨.PGT_TIER, 15, 8, .ro, 0, false⟩
/-- PGT_TIER.HANDLES, R282. -/
def Fd.PGT_TIER_HANDLES : Field := ⟨.PGT_TIER, 3, 3, .ro, 0, false⟩
/-- PGT_TIER.DROP, R282. -/
def Fd.PGT_TIER_DROP : Field := ⟨.PGT_TIER, 2, 2, .ro, 0, false⟩
/-- PGT_TIER.DEMOTE, R282. -/
def Fd.PGT_TIER_DEMOTE : Field := ⟨.PGT_TIER, 1, 1, .ro, 0, false⟩
/-- PGT_TIER.STASHHOLD, R282. -/
def Fd.PGT_TIER_STASHHOLD : Field := ⟨.PGT_TIER, 0, 0, .ro, 0, false⟩
/-- PGT_RECOV.REBUILD, R283. -/
def Fd.PGT_RECOV_REBUILD : Field := ⟨.PGT_RECOV, 3, 3, .ro, 0, false⟩
/-- PGT_RECOV.SELFTEST, R283. -/
def Fd.PGT_RECOV_SELFTEST : Field := ⟨.PGT_RECOV, 2, 2, .ro, 0, false⟩
/-- PGT_RECOV.DEGRADED, R283. -/
def Fd.PGT_RECOV_DEGRADED : Field := ⟨.PGT_RECOV, 1, 1, .ro, 0, false⟩
/-- PGT_RECOV.ACTIVE, R283. -/
def Fd.PGT_RECOV_ACTIVE : Field := ⟨.PGT_RECOV, 0, 0, .ro, 0, false⟩
/-- PGT_CNT0.DEMOTED, R284. -/
def Fd.PGT_CNT0_DEMOTED : Field := ⟨.PGT_CNT0, 63, 32, .ro, 0, true⟩
/-- PGT_CNT0.PROMOTED, R284. -/
def Fd.PGT_CNT0_PROMOTED : Field := ⟨.PGT_CNT0, 31, 0, .ro, 0, true⟩
/-- PGT_CNT1.HOLLOWED, R284. -/
def Fd.PGT_CNT1_HOLLOWED : Field := ⟨.PGT_CNT1, 63, 32, .ro, 0, true⟩
/-- PGT_CNT1.TRIMMED, R284. -/
def Fd.PGT_CNT1_TRIMMED : Field := ⟨.PGT_CNT1, 31, 0, .ro, 0, true⟩
/-- PGT_DLV.LATECNT, R284. -/
def Fd.PGT_DLV_LATECNT : Field := ⟨.PGT_DLV, 63, 32, .ro, 0, true⟩
/-- PGT_DLV.MAXLATE, R284. -/
def Fd.PGT_DLV_MAXLATE : Field := ⟨.PGT_DLV, 31, 0, .ro, 0, true⟩
/-- PGT_VC.HITS, R285. -/
def Fd.PGT_VC_HITS : Field := ⟨.PGT_VC, 63, 32, .ro, 0, true⟩
/-- PGT_VC.MISSES, R285. -/
def Fd.PGT_VC_MISSES : Field := ⟨.PGT_VC, 31, 0, .ro, 0, true⟩
/-- PGT_PAGEQ.BUSY, R286. -/
def Fd.PGT_PAGEQ_BUSY : Field := ⟨.PGT_PAGEQ, 63, 63, .ro, 0, false⟩
/-- PGT_PAGEQ.FOUND, R286. -/
def Fd.PGT_PAGEQ_FOUND : Field := ⟨.PGT_PAGEQ, 62, 62, .ro, 0, false⟩
/-- PGT_PAGEQ.LAYER, R286. -/
def Fd.PGT_PAGEQ_LAYER : Field := ⟨.PGT_PAGEQ, 30, 24, .rw, 0, false⟩
/-- PGT_PAGEQ.HANDLE, R286. -/
def Fd.PGT_PAGEQ_HANDLE : Field := ⟨.PGT_PAGEQ, 23, 0, .rw, 0, false⟩
/-- PGT_PAGE0.FRAME, R286. -/
def Fd.PGT_PAGE0_FRAME : Field := ⟨.PGT_PAGE0, 63, 33, .ro, 0, false⟩
/-- PGT_PAGE0.EPOCH, R286. -/
def Fd.PGT_PAGE0_EPOCH : Field := ⟨.PGT_PAGE0, 32, 17, .ro, 0, false⟩
/-- PGT_PAGE0.NGRAN, R286. -/
def Fd.PGT_PAGE0_NGRAN : Field := ⟨.PGT_PAGE0, 16, 2, .ro, 0, false⟩
/-- PGT_PAGE1.FRPINS, R286. -/
def Fd.PGT_PAGE1_FRPINS : Field := ⟨.PGT_PAGE1, 63, 48, .ro, 0, false⟩
/-- PGT_PAGE1.TRIMMASK, R286. -/
def Fd.PGT_PAGE1_TRIMMASK : Field := ⟨.PGT_PAGE1, 47, 40, .ro, 0, false⟩
/-- PGT_PAGE1.CTR, R286. -/
def Fd.PGT_PAGE1_CTR : Field := ⟨.PGT_PAGE1, 39, 32, .ro, 0, false⟩
/-- PGT_PAGE1.FMT, R286. -/
def Fd.PGT_PAGE1_FMT : Field := ⟨.PGT_PAGE1, 31, 28, .ro, 0, false⟩
/-- PGT_PAGE1.PSTATE, R286. -/
def Fd.PGT_PAGE1_PSTATE : Field := ⟨.PGT_PAGE1, 27, 24, .ro, 0, false⟩
/-- PGT_PAGE1.FREFS, R286. -/
def Fd.PGT_PAGE1_FREFS : Field := ⟨.PGT_PAGE1, 23, 0, .ro, 0, false⟩
/-- PGT_PRB.PROBES, R287. -/
def Fd.PGT_PRB_PROBES : Field := ⟨.PGT_PRB, 63, 32, .ro, 0, true⟩
/-- PGT_PRB.MAXQ, R287. -/
def Fd.PGT_PRB_MAXQ : Field := ⟨.PGT_PRB, 5, 0, .ro, 0, true⟩
/-- CDR_TRIGHTS.TR, R330. -/
def Fd.CDR_TRIGHTS_TR : Field := ⟨.CDR_TRIGHTS, 63, 0, .rw, 0, false⟩
/-- CDR_GENQ.BUSY, R331. -/
def Fd.CDR_GENQ_BUSY : Field := ⟨.CDR_GENQ, 63, 63, .ro, 0, false⟩
/-- CDR_GENQ.FOUND, R331. -/
def Fd.CDR_GENQ_FOUND : Field := ⟨.CDR_GENQ, 62, 62, .ro, 0, false⟩
/-- CDR_GENQ.PROFILE, R331. -/
def Fd.CDR_GENQ_PROFILE : Field := ⟨.CDR_GENQ, 15, 8, .rw, 0, false⟩
/-- CDR_GENQ.TENSOR, R331. -/
def Fd.CDR_GENQ_TENSOR : Field := ⟨.CDR_GENQ, 7, 0, .rw, 0, false⟩
/-- CDR_GENS.NOCUR, R332. -/
def Fd.CDR_GENS_NOCUR : Field := ⟨.CDR_GENS, 39, 39, .ro, 0, false⟩
/-- CDR_GENS.NLIVE, R332. -/
def Fd.CDR_GENS_NLIVE : Field := ⟨.CDR_GENS, 38, 36, .ro, 0, false⟩
/-- CDR_GENS.CUR, R332. -/
def Fd.CDR_GENS_CUR : Field := ⟨.CDR_GENS, 35, 32, .ro, 0, false⟩
/-- CDR_GENS.RETIRING, R332. -/
def Fd.CDR_GENS_RETIRING : Field := ⟨.CDR_GENS, 31, 16, .ro, 0, false⟩
/-- CDR_GENS.LIVE, R332. -/
def Fd.CDR_GENS_LIVE : Field := ⟨.CDR_GENS, 15, 0, .ro, 0, false⟩
/-- CDR_GREF.VALID, R333. -/
def Fd.CDR_GREF_VALID : Field := ⟨.CDR_GREF, 63, 63, .ro, 0, false⟩
/-- CDR_GREF.GEN, R333. -/
def Fd.CDR_GREF_GEN : Field := ⟨.CDR_GREF, 59, 56, .ro, 0, false⟩
/-- CDR_GREF.REFS, R333. -/
def Fd.CDR_GREF_REFS : Field := ⟨.CDR_GREF, 39, 0, .ro, 0, false⟩
/-- CDR_RETIRE.RETGENS, R334. -/
def Fd.CDR_RETIRE_RETGENS : Field := ⟨.CDR_RETIRE, 55, 40, .ro, 0, false⟩
/-- CDR_RETIRE.PENDPG, R334. -/
def Fd.CDR_RETIRE_PENDPG : Field := ⟨.CDR_RETIRE, 39, 0, .ro, 0, false⟩
/-- CDR_EVT.CORRUPT, R335. -/
def Fd.CDR_EVT_CORRUPT : Field := ⟨.CDR_EVT, 1, 1, .w1c, 0, false⟩
/-- CDR_EVT.RETIRED, R335. -/
def Fd.CDR_EVT_RETIRED : Field := ⟨.CDR_EVT, 0, 0, .w1c, 0, false⟩
/-- CDR_CSTAT0.RAWBLK, R336. -/
def Fd.CDR_CSTAT0_RAWBLK : Field := ⟨.CDR_CSTAT0, 63, 32, .ro, 0, true⟩
/-- CDR_CSTAT0.CODBLK, R336. -/
def Fd.CDR_CSTAT0_CODBLK : Field := ⟨.CDR_CSTAT0, 31, 0, .ro, 0, true⟩
/-- CDR_CSTAT1.OUTKIB, R336. -/
def Fd.CDR_CSTAT1_OUTKIB : Field := ⟨.CDR_CSTAT1, 63, 32, .ro, 0, true⟩
/-- CDR_CSTAT1.INKIB, R336. -/
def Fd.CDR_CSTAT1_INKIB : Field := ⟨.CDR_CSTAT1, 31, 0, .ro, 0, true⟩
/-- CDR_CORRUPT.HDR, R337. -/
def Fd.CDR_CORRUPT_HDR : Field := ⟨.CDR_CORRUPT, 63, 48, .ro, 0, true⟩
/-- CDR_CORRUPT.OVERRUN, R337. -/
def Fd.CDR_CORRUPT_OVERRUN : Field := ⟨.CDR_CORRUPT, 47, 32, .ro, 0, true⟩
/-- CDR_CORRUPT.SLACK, R337. -/
def Fd.CDR_CORRUPT_SLACK : Field := ⟨.CDR_CORRUPT, 31, 16, .ro, 0, true⟩
/-- CDR_CORRUPT.CRC, R337. -/
def Fd.CDR_CORRUPT_CRC : Field := ⟨.CDR_CORRUPT, 15, 0, .ro, 0, true⟩
/-- CDR_HCFG.SAMPLE, R338. -/
def Fd.CDR_HCFG_SAMPLE : Field := ⟨.CDR_HCFG, 31, 28, .rw, 0, false⟩
/-- CDR_HCFG.TENSOR, R338. -/
def Fd.CDR_HCFG_TENSOR : Field := ⟨.CDR_HCFG, 23, 16, .rw, 0, false⟩
/-- CDR_HCFG.PROFILE, R338. -/
def Fd.CDR_HCFG_PROFILE : Field := ⟨.CDR_HCFG, 15, 8, .rw, 0, false⟩
/-- CDR_HCFG.EN, R338. -/
def Fd.CDR_HCFG_EN : Field := ⟨.CDR_HCFG, 0, 0, .rw, 0, false⟩
/-- CDR_HSTAT.SKIPPED, R339. -/
def Fd.CDR_HSTAT_SKIPPED : Field := ⟨.CDR_HSTAT, 63, 32, .ro, 0, false⟩
/-- CDR_HSTAT.PAGES, R339. -/
def Fd.CDR_HSTAT_PAGES : Field := ⟨.CDR_HSTAT, 31, 0, .ro, 0, false⟩
/-- CDR_HIST.COUNT, R340. -/
def Fd.CDR_HIST_COUNT : Field := ⟨.CDR_HIST, 63, 0, .ro, 0, false⟩
/-- ATN_CNT0.BATCHES, R380. -/
def Fd.ATN_CNT0_BATCHES : Field := ⟨.ATN_CNT0, 63, 32, .ro, 0, true⟩
/-- ATN_CNT0.ATTENDS, R380. -/
def Fd.ATN_CNT0_ATTENDS : Field := ⟨.ATN_CNT0, 31, 0, .ro, 0, true⟩
/-- ATN_CNT1.VERIFIES, R381. -/
def Fd.ATN_CNT1_VERIFIES : Field := ⟨.ATN_CNT1, 63, 32, .ro, 0, true⟩
/-- ATN_CNT1.CANCELS, R381. -/
def Fd.ATN_CNT1_CANCELS : Field := ⟨.ATN_CNT1, 31, 0, .ro, 0, true⟩
/-- ATN_ELEM.ELEMS, R382. -/
def Fd.ATN_ELEM_ELEMS : Field := ⟨.ATN_ELEM, 63, 0, .ro, 0, true⟩
/-- ATN_FAIL.POISON, R383. -/
def Fd.ATN_FAIL_POISON : Field := ⟨.ATN_FAIL, 63, 48, .ro, 0, true⟩
/-- ATN_FAIL.FMTERR, R383. -/
def Fd.ATN_FAIL_FMTERR : Field := ⟨.ATN_FAIL, 47, 32, .ro, 0, true⟩
/-- ATN_FAIL.RECOMP, R383. -/
def Fd.ATN_FAIL_RECOMP : Field := ⟨.ATN_FAIL, 31, 16, .ro, 0, true⟩
/-- ATN_FAIL.OUTERR, R383. -/
def Fd.ATN_FAIL_OUTERR : Field := ⟨.ATN_FAIL, 15, 0, .ro, 0, true⟩
/-- ATN_WAIT.DEMANDS, R384. -/
def Fd.ATN_WAIT_DEMANDS : Field := ⟨.ATN_WAIT, 63, 32, .ro, 0, true⟩
/-- ATN_WAIT.MAXWAITUS, R384. -/
def Fd.ATN_WAIT_MAXWAITUS : Field := ⟨.ATN_WAIT, 31, 0, .ro, 0, true⟩
/-- ATN_PANEL.INEXEC, R385. -/
def Fd.ATN_PANEL_INEXEC : Field := ⟨.ATN_PANEL, 47, 32, .ro, 0, false⟩
/-- ATN_PANEL.OVERB, R385. -/
def Fd.ATN_PANEL_OVERB : Field := ⟨.ATN_PANEL, 31, 0, .ro, 0, true⟩
/-- SNL_CFG.RINGID, R426. -/
def Fd.SNL_CFG_RINGID : Field := ⟨.SNL_CFG, 31, 16, .rw, 0, false⟩
/-- SNL_CFG.POS, R426. -/
def Fd.SNL_CFG_POS : Field := ⟨.SNL_CFG, 8, 5, .rw, 0, false⟩
/-- SNL_CFG.NMEM, R426. -/
def Fd.SNL_CFG_NMEM : Field := ⟨.SNL_CFG, 4, 1, .rw, 0, false⟩
/-- SNL_CFG.EN, R426. -/
def Fd.SNL_CFG_EN : Field := ⟨.SNL_CFG, 0, 0, .rw, 0, false⟩
/-- SNL_RING.FORMS, R427. -/
def Fd.SNL_RING_FORMS : Field := ⟨.SNL_RING, 63, 32, .ro, 0, false⟩
/-- SNL_RING.CAUSE, R427. -/
def Fd.SNL_RING_CAUSE : Field := ⟨.SNL_RING, 7, 4, .ro, 0, false⟩
/-- SNL_RING.STATE, R427. -/
def Fd.SNL_RING_STATE : Field := ⟨.SNL_RING, 2, 0, .ro, 0, false⟩
/-- SNL_LINK.PEERPOS, R428. -/
def Fd.SNL_LINK_PEERPOS : Field := ⟨.SNL_LINK, 15, 12, .ro, 0, false⟩
/-- SNL_LINK.WIDTH, R428. -/
def Fd.SNL_LINK_WIDTH : Field := ⟨.SNL_LINK, 4, 3, .ro, 0, false⟩
/-- SNL_LINK.STATE, R428. -/
def Fd.SNL_LINK_STATE : Field := ⟨.SNL_LINK, 2, 0, .ro, 0, false⟩
/-- SNL_LERR.RETRAINS, R429. -/
def Fd.SNL_LERR_RETRAINS : Field := ⟨.SNL_LERR, 63, 48, .ro, 0, true⟩
/-- SNL_LERR.REPLAYS, R429. -/
def Fd.SNL_LERR_REPLAYS : Field := ⟨.SNL_LERR, 47, 32, .ro, 0, true⟩
/-- SNL_LERR.CRCERR, R429. -/
def Fd.SNL_LERR_CRCERR : Field := ⟨.SNL_LERR, 31, 0, .ro, 0, true⟩
/-- SNL_CASC.LOCALONLY, R430. -/
def Fd.SNL_CASC_LOCALONLY : Field := ⟨.SNL_CASC, 63, 48, .ro, 0, true⟩
/-- SNL_CASC.CASCOK, R430. -/
def Fd.SNL_CASC_CASCOK : Field := ⟨.SNL_CASC, 16, 16, .ro, 0, false⟩
/-- SNL_CASC.DTOFF, R430. -/
def Fd.SNL_CASC_DTOFF : Field := ⟨.SNL_CASC, 15, 0, .ro, 0, false⟩
/-- SNL_CTX_CTL.PEERS, R431. -/
def Fd.SNL_CTX_CTL_PEERS : Field := ⟨.SNL_CTX_CTL, 47, 32, .rw, 0, false⟩
/-- SNL_CTX_CTL.TENANT, R431. -/
def Fd.SNL_CTX_CTL_TENANT : Field := ⟨.SNL_CTX_CTL, 25, 16, .rw, 0, false⟩
/-- SNL_CTX_CTL.PANEL, R431. -/
def Fd.SNL_CTX_CTL_PANEL : Field := ⟨.SNL_CTX_CTL, 13, 8, .rw, 0, false⟩
/-- SNL_CTX_CTL.MODE, R431. -/
def Fd.SNL_CTX_CTL_MODE : Field := ⟨.SNL_CTX_CTL, 5, 4, .rw, 0, false⟩
/-- SNL_CTX_CTL.ACTION, R431. -/
def Fd.SNL_CTX_CTL_ACTION : Field := ⟨.SNL_CTX_CTL, 3, 0, .wo, 0, false⟩
/-- SNL_CTX_ST.TAKEN, R432. -/
def Fd.SNL_CTX_ST_TAKEN : Field := ⟨.SNL_CTX_ST, 63, 32, .ro, 0, false⟩
/-- SNL_CTX_ST.OUTST, R432. -/
def Fd.SNL_CTX_ST_OUTST : Field := ⟨.SNL_CTX_ST, 31, 16, .ro, 0, false⟩
/-- SNL_CTX_ST.ERR, R432. -/
def Fd.SNL_CTX_ST_ERR : Field := ⟨.SNL_CTX_ST, 15, 8, .ro, 0, false⟩
/-- SNL_CTX_ST.STATE, R432. -/
def Fd.SNL_CTX_ST_STATE : Field := ⟨.SNL_CTX_ST, 2, 0, .ro, 0, false⟩
/-- SNL_CTX_DL.DLBASE, R433. -/
def Fd.SNL_CTX_DL_DLBASE : Field := ⟨.SNL_CTX_DL, 63, 12, .rw, 0, false⟩
/-- SNL_CTX_DL.DLLOG, R433. -/
def Fd.SNL_CTX_DL_DLLOG : Field := ⟨.SNL_CTX_DL, 3, 0, .rw, 0, false⟩
/-- SNL_CTX_TAIL.TAILADDR, R433. -/
def Fd.SNL_CTX_TAIL_TAILADDR : Field := ⟨.SNL_CTX_TAIL, 63, 6, .rw, 0, false⟩
/-- SNL_CTX_AGE.OLDID, R434. -/
def Fd.SNL_CTX_AGE_OLDID : Field := ⟨.SNL_CTX_AGE, 63, 32, .ro, 0, false⟩
/-- SNL_CTX_AGE.AGEUS, R434. -/
def Fd.SNL_CTX_AGE_AGEUS : Field := ⟨.SNL_CTX_AGE, 31, 0, .ro, 0, false⟩
/-- SHT_CFG.EN, R523. -/
def Fd.SHT_CFG_EN : Field := ⟨.SHT_CFG, 16, 16, .rw, 0, false⟩
/-- SHT_CFG.UDPPORT, R523. -/
def Fd.SHT_CFG_UDPPORT : Field := ⟨.SHT_CFG, 15, 0, .rw, 51170, false⟩
/-- SHT_PORT.PFCRX, R524. -/
def Fd.SHT_PORT_PFCRX : Field := ⟨.SHT_PORT, 23, 23, .rw, 0, false⟩
/-- SHT_PORT.DSCP, R524. -/
def Fd.SHT_PORT_DSCP : Field := ⟨.SHT_PORT, 22, 17, .rw, 0, false⟩
/-- SHT_PORT.PCP, R524. -/
def Fd.SHT_PORT_PCP : Field := ⟨.SHT_PORT, 16, 14, .rw, 0, false⟩
/-- SHT_PORT.VID, R524. -/
def Fd.SHT_PORT_VID : Field := ⟨.SHT_PORT, 13, 2, .rw, 0, false⟩
/-- SHT_PORT.VLANEN, R524. -/
def Fd.SHT_PORT_VLANEN : Field := ⟨.SHT_PORT, 1, 1, .rw, 0, false⟩
/-- SHT_PORT.EN, R524. -/
def Fd.SHT_PORT_EN : Field := ⟨.SHT_PORT, 0, 0, .rw, 0, false⟩
/-- SHT_PORTST.DOWNS, R524. -/
def Fd.SHT_PORTST_DOWNS : Field := ⟨.SHT_PORTST, 63, 32, .ro, 0, true⟩
/-- SHT_PORTST.STATE, R524. -/
def Fd.SHT_PORTST_STATE : Field := ⟨.SHT_PORTST, 2, 0, .ro, 0, false⟩
/-- SHT_MAC.MAC, R525. -/
def Fd.SHT_MAC_MAC : Field := ⟨.SHT_MAC, 47, 0, .rw, 0, false⟩
/-- SHT_NHMAC.NHMAC, R525. -/
def Fd.SHT_NHMAC_NHMAC : Field := ⟨.SHT_NHMAC, 47, 0, .rw, 0, false⟩
/-- SHT_IP6A.IP6LO, R525. -/
def Fd.SHT_IP6A_IP6LO : Field := ⟨.SHT_IP6A, 63, 0, .rw, 0, false⟩
/-- SHT_IP6B.IP6HI, R525. -/
def Fd.SHT_IP6B_IP6HI : Field := ⟨.SHT_IP6B, 63, 0, .rw, 0, false⟩
/-- SHT_IP4.IP4, R525. -/
def Fd.SHT_IP4_IP4 : Field := ⟨.SHT_IP4, 31, 0, .rw, 0, false⟩
/-- SHT_QPQ.BUSY, R526. -/
def Fd.SHT_QPQ_BUSY : Field := ⟨.SHT_QPQ, 63, 63, .ro, 0, false⟩
/-- SHT_QPQ.ERR, R526. -/
def Fd.SHT_QPQ_ERR : Field := ⟨.SHT_QPQ, 59, 56, .ro, 0, false⟩
/-- SHT_QPQ.ACTION, R526. -/
def Fd.SHT_QPQ_ACTION : Field := ⟨.SHT_QPQ, 19, 16, .wo, 0, false⟩
/-- SHT_QPQ.QPN, R526. -/
def Fd.SHT_QPQ_QPN : Field := ⟨.SHT_QPQ, 15, 0, .rw, 0, false⟩
/-- SHT_QPC.WORD, R527. -/
def Fd.SHT_QPC_WORD : Field := ⟨.SHT_QPC, 63, 0, .rw, 0, false⟩
/-- SHT_QPST0.SNXT, R528. -/
def Fd.SHT_QPST0_SNXT : Field := ⟨.SHT_QPST0, 63, 40, .ro, 0, false⟩
/-- SHT_QPST0.CPSN, R528. -/
def Fd.SHT_QPST0_CPSN : Field := ⟨.SHT_QPST0, 39, 16, .ro, 0, false⟩
/-- SHT_QPST0.ERRSTAT, R528. -/
def Fd.SHT_QPST0_ERRSTAT : Field := ⟨.SHT_QPST0, 15, 8, .ro, 0, false⟩
/-- SHT_QPST0.STATE, R528. -/
def Fd.SHT_QPST0_STATE : Field := ⟨.SHT_QPST0, 1, 0, .ro, 0, false⟩
/-- SHT_QPST1.UNACK, R528. -/
def Fd.SHT_QPST1_UNACK : Field := ⟨.SHT_QPST1, 58, 48, .ro, 0, false⟩
/-- SHT_QPST1.RETRY, R528. -/
def Fd.SHT_QPST1_RETRY : Field := ⟨.SHT_QPST1, 35, 32, .ro, 0, false⟩
/-- SHT_QPST1.SCOMP, R528. -/
def Fd.SHT_QPST1_SCOMP : Field := ⟨.SHT_QPST1, 31, 0, .ro, 0, false⟩
/-- SHT_CNT0.RXPKT, R529. -/
def Fd.SHT_CNT0_RXPKT : Field := ⟨.SHT_CNT0, 63, 32, .ro, 0, true⟩
/-- SHT_CNT0.TXPKT, R529. -/
def Fd.SHT_CNT0_TXPKT : Field := ⟨.SHT_CNT0, 31, 0, .ro, 0, true⟩
/-- SHT_CNT1.DUPS, R529. -/
def Fd.SHT_CNT1_DUPS : Field := ⟨.SHT_CNT1, 63, 32, .ro, 0, true⟩
/-- SHT_CNT1.RETX, R529. -/
def Fd.SHT_CNT1_RETX : Field := ⟨.SHT_CNT1, 31, 0, .ro, 0, true⟩
/-- SHT_CNT2.ICVFAIL, R529. -/
def Fd.SHT_CNT2_ICVFAIL : Field := ⟨.SHT_CNT2, 63, 32, .ro, 0, true⟩
/-- SHT_CNT2.DROPS, R529. -/
def Fd.SHT_CNT2_DROPS : Field := ⟨.SHT_CNT2, 31, 0, .ro, 0, true⟩
/-- SHT_CNT3.NMOSTALE, R529. -/
def Fd.SHT_CNT3_NMOSTALE : Field := ⟨.SHT_CNT3, 63, 32, .ro, 0, true⟩
/-- SHT_CNT3.NMOREPLAY, R529. -/
def Fd.SHT_CNT3_NMOREPLAY : Field := ⟨.SHT_CNT3, 31, 0, .ro, 0, true⟩
/-- FLT_GEOM.TARGETS, R566. -/
def Fd.FLT_GEOM_TARGETS : Field := ⟨.FLT_GEOM, 63, 55, .ro, 0, false⟩
/-- FLT_GEOM.LUNS, R566. -/
def Fd.FLT_GEOM_LUNS : Field := ⟨.FLT_GEOM, 54, 53, .ro, 0, false⟩
/-- FLT_GEOM.CELL, R566. -/
def Fd.FLT_GEOM_CELL : Field := ⟨.FLT_GEOM, 52, 51, .ro, 0, false⟩
/-- FLT_GEOM.RATE, R566. -/
def Fd.FLT_GEOM_RATE : Field := ⟨.FLT_GEOM, 50, 39, .ro, 0, false⟩
/-- FLT_GEOM.BPP, R566. -/
def Fd.FLT_GEOM_BPP : Field := ⟨.FLT_GEOM, 38, 25, .ro, 0, false⟩
/-- FLT_GEOM.PPB, R566. -/
def Fd.FLT_GEOM_PPB : Field := ⟨.FLT_GEOM, 24, 12, .ro, 0, false⟩
/-- FLT_CAP.CACHEGIB, R567. -/
def Fd.FLT_CAP_CACHEGIB : Field := ⟨.FLT_CAP, 63, 40, .ro, 0, false⟩
/-- FLT_CAP.SYSGIB, R567. -/
def Fd.FLT_CAP_SYSGIB : Field := ⟨.FLT_CAP, 39, 32, .ro, 0, false⟩
/-- FLT_CAP.UNITS, R567. -/
def Fd.FLT_CAP_UNITS : Field := ⟨.FLT_CAP, 31, 0, .ro, 0, false⟩
/-- FLT_SPACE.FREEPM, R568. -/
def Fd.FLT_SPACE_FREEPM : Field := ⟨.FLT_SPACE, 63, 54, .ro, 0, false⟩
/-- FLT_SPACE.SLCPM, R568. -/
def Fd.FLT_SPACE_SLCPM : Field := ⟨.FLT_SPACE, 53, 44, .ro, 0, false⟩
/-- FLT_SPACE.SLCGIB, R568. -/
def Fd.FLT_SPACE_SLCGIB : Field := ⟨.FLT_SPACE, 43, 20, .ro, 0, false⟩
/-- FLT_SPACE.GC, R568. -/
def Fd.FLT_SPACE_GC : Field := ⟨.FLT_SPACE, 4, 3, .ro, 0, false⟩
/-- FLT_SPACE.FOLD, R568. -/
def Fd.FLT_SPACE_FOLD : Field := ⟨.FLT_SPACE, 2, 2, .ro, 0, false⟩
/-- FLT_SPACE.STEP, R568. -/
def Fd.FLT_SPACE_STEP : Field := ⟨.FLT_SPACE, 1, 0, .ro, 0, false⟩
/-- FLT_GCCNT.COPYMIB, R569. -/
def Fd.FLT_GCCNT_COPYMIB : Field := ⟨.FLT_GCCNT, 63, 32, .ro, 0, true⟩
/-- FLT_GCCNT.ERASES, R569. -/
def Fd.FLT_GCCNT_ERASES : Field := ⟨.FLT_GCCNT, 31, 0, .ro, 0, true⟩
/-- FLT_WEAR.ENDUR, R570. -/
def Fd.FLT_WEAR_ENDUR : Field := ⟨.FLT_WEAR, 63, 48, .ro, 0, false⟩
/-- FLT_WEAR.MAXEC, R570. -/
def Fd.FLT_WEAR_MAXEC : Field := ⟨.FLT_WEAR, 47, 32, .ro, 0, false⟩
/-- FLT_WEAR.AVGEC, R570. -/
def Fd.FLT_WEAR_AVGEC : Field := ⟨.FLT_WEAR, 31, 16, .ro, 0, false⟩
/-- FLT_WEAR.WEARPCT, R570. -/
def Fd.FLT_WEAR_WEARPCT : Field := ⟨.FLT_WEAR, 7, 0, .ro, 0, false⟩
/-- FLT_SPARE.RETIRED, R571. -/
def Fd.FLT_SPARE_RETIRED : Field := ⟨.FLT_SPARE, 39, 16, .ro, 0, false⟩
/-- FLT_SPARE.SPAREPCT, R571. -/
def Fd.FLT_SPARE_SPAREPCT : Field := ⟨.FLT_SPARE, 7, 0, .ro, 100, false⟩
/-- FLT_ERR0.CORRHARD, R572. -/
def Fd.FLT_ERR0_CORRHARD : Field := ⟨.FLT_ERR0, 63, 32, .ro, 0, false⟩
/-- FLT_ERR0.CORRSOFT, R572. -/
def Fd.FLT_ERR0_CORRSOFT : Field := ⟨.FLT_ERR0, 31, 0, .ro, 0, false⟩
/-- FLT_ERR1.UNCORR, R572. -/
def Fd.FLT_ERR1_UNCORR : Field := ⟨.FLT_ERR1, 63, 48, .ro, 0, false⟩
/-- FLT_ERR1.PROGFAIL, R572. -/
def Fd.FLT_ERR1_PROGFAIL : Field := ⟨.FLT_ERR1, 47, 32, .ro, 0, false⟩
/-- FLT_ERR1.ERASEFAIL, R572. -/
def Fd.FLT_ERR1_ERASEFAIL : Field := ⟨.FLT_ERR1, 31, 16, .ro, 0, false⟩
/-- FLT_ERR1.TIMEOUT, R572. -/
def Fd.FLT_ERR1_TIMEOUT : Field := ⟨.FLT_ERR1, 15, 0, .ro, 0, false⟩
/-- FLT_PF.FLUSHUS, R573. -/
def Fd.FLT_PF_FLUSHUS : Field := ⟨.FLT_PF, 63, 32, .ro, 0, false⟩
/-- FLT_PF.INCOMPLETE, R573. -/
def Fd.FLT_PF_INCOMPLETE : Field := ⟨.FLT_PF, 1, 1, .ro, 0, false⟩
/-- FLT_PF.LASTPF, R573. -/
def Fd.FLT_PF_LASTPF : Field := ⟨.FLT_PF, 0, 0, .ro, 0, false⟩
/-- FLT_SHRED.UNERASED, R574. -/
def Fd.FLT_SHRED_UNERASED : Field := ⟨.FLT_SHRED, 63, 48, .ro, 0, false⟩
/-- FLT_SHRED.PENDUNITS, R574. -/
def Fd.FLT_SHRED_PENDUNITS : Field := ⟨.FLT_SHRED, 23, 0, .ro, 0, false⟩
/-- FLT_CH.UNCORR, R575. -/
def Fd.FLT_CH_UNCORR : Field := ⟨.FLT_CH, 63, 48, .ro, 0, false⟩
/-- FLT_CH.EXCL, R575. -/
def Fd.FLT_CH_EXCL : Field := ⟨.FLT_CH, 47, 40, .ro, 0, false⟩
/-- FLT_CH.RATE, R575. -/
def Fd.FLT_CH_RATE : Field := ⟨.FLT_CH, 39, 28, .ro, 0, false⟩
/-- FLT_CH.TGTMAP, R575. -/
def Fd.FLT_CH_TGTMAP : Field := ⟨.FLT_CH, 27, 20, .ro, 0, false⟩
/-- FLT_CH.TEMP, R575. -/
def Fd.FLT_CH_TEMP : Field := ⟨.FLT_CH, 19, 8, .ro, 0, false⟩
/-- FLT_CH.STATE, R575. -/
def Fd.FLT_CH_STATE : Field := ⟨.FLT_CH, 2, 0, .ro, 0, false⟩
/-- FLT_TEMP.MINUTES, R576. -/
def Fd.FLT_TEMP_MINUTES : Field := ⟨.FLT_TEMP, 31, 0, .ro, 0, false⟩
/-- RAS_STATUS.CORESRET, R606. -/
def Fd.RAS_STATUS_CORESRET : Field := ⟨.RAS_STATUS, 47, 40, .ro, 0, false⟩
/-- RAS_STATUS.LOSTMAP, R606. -/
def Fd.RAS_STATUS_LOSTMAP : Field := ⟨.RAS_STATUS, 39, 28, .ro, 0, false⟩
/-- RAS_STATUS.INSVC, R606. -/
def Fd.RAS_STATUS_INSVC : Field := ⟨.RAS_STATUS, 27, 24, .ro, 12, false⟩
/-- RAS_STATUS.SELFTEST, R606. -/
def Fd.RAS_STATUS_SELFTEST : Field := ⟨.RAS_STATUS, 7, 7, .ro, 0, false⟩
/-- RAS_STATUS.REBUILD, R606. -/
def Fd.RAS_STATUS_REBUILD : Field := ⟨.RAS_STATUS, 6, 6, .ro, 0, false⟩
/-- RAS_STATUS.REPLACE, R606. -/
def Fd.RAS_STATUS_REPLACE : Field := ⟨.RAS_STATUS, 5, 5, .ro, 0, false⟩
/-- RAS_STATUS.STATE, R606. -/
def Fd.RAS_STATUS_STATE : Field := ⟨.RAS_STATUS, 2, 0, .ro, 0, false⟩
/-- RAS_REPL.STEWARD, R607. -/
def Fd.RAS_REPL_STEWARD : Field := ⟨.RAS_REPL, 8, 8, .w1c, 0, false⟩
/-- RAS_REPL.HBMRATE, R607. -/
def Fd.RAS_REPL_HBMRATE : Field := ⟨.RAS_REPL, 7, 7, .w1c, 0, false⟩
/-- RAS_REPL.FLCHAN, R607. -/
def Fd.RAS_REPL_FLCHAN : Field := ⟨.RAS_REPL, 6, 6, .ro, 0, false⟩
/-- RAS_REPL.FLWEAR, R607. -/
def Fd.RAS_REPL_FLWEAR : Field := ⟨.RAS_REPL, 5, 5, .ro, 0, false⟩
/-- RAS_REPL.FLSPARE, R607. -/
def Fd.RAS_REPL_FLSPARE : Field := ⟨.RAS_REPL, 4, 4, .ro, 0, false⟩
/-- RAS_REPL.CORES, R607. -/
def Fd.RAS_REPL_CORES : Field := ⟨.RAS_REPL, 3, 3, .ro, 0, false⟩
/-- RAS_REPL.SHORT, R607. -/
def Fd.RAS_REPL_SHORT : Field := ⟨.RAS_REPL, 2, 2, .ro, 0, false⟩
/-- RAS_REPL.FAILED, R607. -/
def Fd.RAS_REPL_FAILED : Field := ⟨.RAS_REPL, 1, 1, .ro, 0, false⟩
/-- RAS_REPL.STACKLOST, R607. -/
def Fd.RAS_REPL_STACKLOST : Field := ⟨.RAS_REPL, 0, 0, .ro, 0, false⟩
/-- RAS_CTL.SCRUBH, R608. -/
def Fd.RAS_CTL_SCRUBH : Field := ⟨.RAS_CTL, 39, 32, .rws, 24, false⟩
/-- RAS_CTL.CORE, R608. -/
def Fd.RAS_CTL_CORE : Field := ⟨.RAS_CTL, 31, 24, .rw, 0, false⟩
/-- RAS_CTL.STACK, R608. -/
def Fd.RAS_CTL_STACK : Field := ⟨.RAS_CTL, 19, 16, .rw, 0, false⟩
/-- RAS_CTL.ERR, R608. -/
def Fd.RAS_CTL_ERR : Field := ⟨.RAS_CTL, 15, 8, .ro, 0, false⟩
/-- RAS_CTL.ACTION, R608. -/
def Fd.RAS_CTL_ACTION : Field := ⟨.RAS_CTL, 3, 0, .wo, 0, false⟩
/-- RAS_REBUILD.TOTALGIB, R609. -/
def Fd.RAS_REBUILD_TOTALGIB : Field := ⟨.RAS_REBUILD, 63, 44, .ro, 0, false⟩
/-- RAS_REBUILD.DONEGIB, R609. -/
def Fd.RAS_REBUILD_DONEGIB : Field := ⟨.RAS_REBUILD, 43, 24, .ro, 0, false⟩
/-- RAS_REBUILD.STACK, R609. -/
def Fd.RAS_REBUILD_STACK : Field := ⟨.RAS_REBUILD, 11, 8, .ro, 0, false⟩
/-- RAS_REBUILD.PHASE, R609. -/
def Fd.RAS_REBUILD_PHASE : Field := ⟨.RAS_REBUILD, 1, 0, .ro, 0, false⟩
/-- RAS_SCRUB.MISMATCH, R610. -/
def Fd.RAS_SCRUB_MISMATCH : Field := ⟨.RAS_SCRUB, 63, 48, .ro, 0, false⟩
/-- RAS_SCRUB.PASSES, R610. -/
def Fd.RAS_SCRUB_PASSES : Field := ⟨.RAS_SCRUB, 47, 32, .ro, 0, false⟩
/-- RAS_SCRUB.LASTMIN, R610. -/
def Fd.RAS_SCRUB_LASTMIN : Field := ⟨.RAS_SCRUB, 31, 0, .ro, 0, false⟩
/-- RAS_POISON.PAGES, R610. -/
def Fd.RAS_POISON_PAGES : Field := ⟨.RAS_POISON, 63, 32, .ro, 0, false⟩
/-- RAS_POISON.LINES, R610. -/
def Fd.RAS_POISON_LINES : Field := ⟨.RAS_POISON, 31, 0, .ro, 0, false⟩
/-- RAS_HBM.STATE, R611. -/
def Fd.RAS_HBM_STATE : Field := ⟨.RAS_HBM, 63, 62, .ro, 0, false⟩
/-- RAS_HBM.HARD, R611. -/
def Fd.RAS_HBM_HARD : Field := ⟨.RAS_HBM, 47, 32, .ro, 0, false⟩
/-- RAS_HBM.RECON, R611. -/
def Fd.RAS_HBM_RECON : Field := ⟨.RAS_HBM, 31, 16, .ro, 0, false⟩
/-- RAS_HBM.CORR, R611. -/
def Fd.RAS_HBM_CORR : Field := ⟨.RAS_HBM, 15, 0, .ro, 0, true⟩
/-- RAS_CORERET.RET, R612. -/
def Fd.RAS_CORERET_RET : Field := ⟨.RAS_CORERET, 63, 0, .ro, 0, false⟩
/-- SEC_LC.OWNEREPOCH, R655. -/
def Fd.SEC_LC_OWNEREPOCH : Field := ⟨.SEC_LC, 63, 32, .ro, 0, false⟩
/-- SEC_LC.ERASEPEND, R655. -/
def Fd.SEC_LC_ERASEPEND : Field := ⟨.SEC_LC, 10, 10, .ro, 0, false⟩
/-- SEC_LC.MAKERTEST, R655. -/
def Fd.SEC_LC_MAKERTEST : Field := ⟨.SEC_LC, 9, 9, .ro, 1, false⟩
/-- SEC_LC.OWNERREC, R655. -/
def Fd.SEC_LC_OWNERREC : Field := ⟨.SEC_LC, 8, 8, .ro, 0, false⟩
/-- SEC_LC.STATE, R655. -/
def Fd.SEC_LC_STATE : Field := ⟨.SEC_LC, 2, 0, .ro, 0, false⟩
/-- SEC_FW.FTFSVN, R656. -/
def Fd.SEC_FW_FTFSVN : Field := ⟨.SEC_FW, 63, 48, .ro, 0, false⟩
/-- SEC_FW.MFWSVN, R656. -/
def Fd.SEC_FW_MFWSVN : Field := ⟨.SEC_FW, 47, 32, .ro, 0, false⟩
/-- SEC_FW.CODEB, R656. -/
def Fd.SEC_FW_CODEB : Field := ⟨.SEC_FW, 31, 24, .ro, 0, false⟩
/-- SEC_FW.CODEA, R656. -/
def Fd.SEC_FW_CODEA : Field := ⟨.SEC_FW, 23, 16, .ro, 0, false⟩
/-- SEC_FW.SAFE, R656. -/
def Fd.SEC_FW_SAFE : Field := ⟨.SEC_FW, 2, 2, .ro, 0, false⟩
/-- SEC_FW.PREF, R656. -/
def Fd.SEC_FW_PREF : Field := ⟨.SEC_FW, 1, 1, .ro, 0, false⟩
/-- SEC_FW.RUN, R656. -/
def Fd.SEC_FW_RUN : Field := ⟨.SEC_FW, 0, 0, .ro, 0, false⟩
/-- SEC_FLOOR.MANFLOOR, R656. -/
def Fd.SEC_FLOOR_MANFLOOR : Field := ⟨.SEC_FLOOR, 63, 48, .ro, 0, false⟩
/-- SEC_FLOOR.FTFFLOOR, R656. -/
def Fd.SEC_FLOOR_FTFFLOOR : Field := ⟨.SEC_FLOOR, 47, 32, .ro, 0, false⟩
/-- SEC_FLOOR.MFWFLOOR, R656. -/
def Fd.SEC_FLOOR_MFWFLOOR : Field := ⟨.SEC_FLOOR, 31, 16, .ro, 0, false⟩
/-- SEC_FLOOR.MANSVN, R656. -/
def Fd.SEC_FLOOR_MANSVN : Field := ⟨.SEC_FLOOR, 15, 0, .ro, 0, false⟩
/-- SEC_PATFLOOR.FLOOR, R657. -/
def Fd.SEC_PATFLOOR_FLOOR : Field := ⟨.SEC_PATFLOOR, 31, 0, .ro, 0, false⟩
/-- SEC_CAL.WRITES, R657. -/
def Fd.SEC_CAL_WRITES : Field := ⟨.SEC_CAL, 63, 32, .ro, 0, false⟩
/-- SEC_CAL.WRITING, R657. -/
def Fd.SEC_CAL_WRITING : Field := ⟨.SEC_CAL, 2, 2, .ro, 0, false⟩
/-- SEC_CAL.DEFAULTS, R657. -/
def Fd.SEC_CAL_DEFAULTS : Field := ⟨.SEC_CAL, 1, 1, .ro, 0, false⟩
/-- SEC_CAL.VALID, R657. -/
def Fd.SEC_CAL_VALID : Field := ⟨.SEC_CAL, 0, 0, .ro, 0, false⟩
/-- SEC_NVS.MAXWR, R657. -/
def Fd.SEC_NVS_MAXWR : Field := ⟨.SEC_NVS, 31, 0, .ro, 0, false⟩
/-- SEC_TKEY.TENANT, R658. -/
def Fd.SEC_TKEY_TENANT : Field := ⟨.SEC_TKEY, 25, 16, .rw, 0, false⟩
/-- SEC_TKEY.ERR, R658. -/
def Fd.SEC_TKEY_ERR : Field := ⟨.SEC_TKEY, 15, 8, .ro, 0, false⟩
/-- SEC_TKEY.ACTION, R658. -/
def Fd.SEC_TKEY_ACTION : Field := ⟨.SEC_TKEY, 3, 0, .wo, 0, false⟩
/-- SEC_TSTAT.NSEALG, R659. -/
def Fd.SEC_TSTAT_NSEALG : Field := ⟨.SEC_TSTAT, 46, 44, .ro, 0, false⟩
/-- SEC_TSTAT.SEALRW, R659. -/
def Fd.SEC_TSTAT_SEALRW : Field := ⟨.SEC_TSTAT, 43, 40, .ro, 0, false⟩
/-- SEC_TSTAT.SEALG, R659. -/
def Fd.SEC_TSTAT_SEALG : Field := ⟨.SEC_TSTAT, 39, 8, .ro, 0, false⟩
/-- SEC_TSTAT.BINDLOST, R659. -/
def Fd.SEC_TSTAT_BINDLOST : Field := ⟨.SEC_TSTAT, 7, 7, .w1c, 0, false⟩
/-- SEC_TSTAT.KEYSRC, R659. -/
def Fd.SEC_TSTAT_KEYSRC : Field := ⟨.SEC_TSTAT, 6, 5, .ro, 0, false⟩
/-- SEC_TSTAT.HKEY, R659. -/
def Fd.SEC_TSTAT_HKEY : Field := ⟨.SEC_TSTAT, 4, 4, .ro, 0, false⟩
/-- SEC_TSTAT.SEALED, R659. -/
def Fd.SEC_TSTAT_SEALED : Field := ⟨.SEC_TSTAT, 3, 3, .ro, 0, false⟩
/-- SEC_GSTAT.HSET, R660. -/
def Fd.SEC_GSTAT_HSET : Field := ⟨.SEC_GSTAT, 2, 2, .ro, 0, false⟩
/-- SEC_GSTAT.HKEY, R660. -/
def Fd.SEC_GSTAT_HKEY : Field := ⟨.SEC_GSTAT, 1, 1, .ro, 0, false⟩
/-- SEC_GSTAT.EKEY, R660. -/
def Fd.SEC_GSTAT_EKEY : Field := ⟨.SEC_GSTAT, 0, 0, .ro, 0, false⟩
/-- PWR_STATUS.MEDIA, R688. -/
def Fd.PWR_STATUS_MEDIA : Field := ⟨.PWR_STATUS, 5, 5, .ro, 0, false⟩
/-- PWR_STATUS.CAPPING, R688. -/
def Fd.PWR_STATUS_CAPPING : Field := ⟨.PWR_STATUS, 4, 4, .ro, 0, false⟩
/-- PWR_STATUS.BELOWINIT, R688. -/
def Fd.PWR_STATUS_BELOWINIT : Field := ⟨.PWR_STATUS, 3, 3, .ro, 0, false⟩
/-- PWR_STATUS.PSTATE, R688. -/
def Fd.PWR_STATUS_PSTATE : Field := ⟨.PWR_STATUS, 2, 0, .ro, 0, false⟩
/-- PWR_CTL.CAPW, R689. -/
def Fd.PWR_CTL_CAPW : Field := ⟨.PWR_CTL, 47, 32, .rws, 1250, false⟩
/-- PWR_CTL.STBYMS, R689. -/
def Fd.PWR_CTL_STBYMS : Field := ⟨.PWR_CTL, 31, 16, .rws, 1000, false⟩
/-- PWR_CTL.ECO, R689. -/
def Fd.PWR_CTL_ECO : Field := ⟨.PWR_CTL, 1, 1, .rws, 0, false⟩
/-- PWR_CTL.STBYEN, R689. -/
def Fd.PWR_CTL_STBYEN : Field := ⟨.PWR_CTL, 0, 0, .rws, 0, false⟩
/-- PWR_MEAS.PEAKW, R690. -/
def Fd.PWR_MEAS_PEAKW : Field := ⟨.PWR_MEAS, 63, 48, .ro, 0, true⟩
/-- PWR_MEAS.AVGW, R690. -/
def Fd.PWR_MEAS_AVGW : Field := ⟨.PWR_MEAS, 47, 32, .ro, 0, false⟩
/-- PWR_MEAS.HBMW, R690. -/
def Fd.PWR_MEAS_HBMW : Field := ⟨.PWR_MEAS, 31, 16, .ro, 0, false⟩
/-- PWR_MEAS.CDW, R690. -/
def Fd.PWR_MEAS_CDW : Field := ⟨.PWR_MEAS, 15, 0, .ro, 0, false⟩
/-- PWR_THERM.TCD0, R691. -/
def Fd.PWR_THERM_TCD0 : Field := ⟨.PWR_THERM, 63, 56, .ro, 0, false⟩
/-- PWR_THERM.TCD1, R691. -/
def Fd.PWR_THERM_TCD1 : Field := ⟨.PWR_THERM, 55, 48, .ro, 0, false⟩
/-- PWR_THERM.TXD, R691. -/
def Fd.PWR_THERM_TXD : Field := ⟨.PWR_THERM, 47, 40, .ro, 0, false⟩
/-- PWR_THERM.TSTK, R691. -/
def Fd.PWR_THERM_TSTK : Field := ⟨.PWR_THERM, 39, 32, .ro, 0, false⟩
/-- PWR_THERM.SSTEP, R691. -/
def Fd.PWR_THERM_SSTEP : Field := ⟨.PWR_THERM, 31, 8, .ro, 0, false⟩
/-- PWR_THERM.STEP1, R691. -/
def Fd.PWR_THERM_STEP1 : Field := ⟨.PWR_THERM, 3, 2, .ro, 0, false⟩
/-- PWR_THERM.STEP0, R691. -/
def Fd.PWR_THERM_STEP0 : Field := ⟨.PWR_THERM, 1, 0, .ro, 0, false⟩
/-- PWR_RST.ISLAND, R692. -/
def Fd.PWR_RST_ISLAND : Field := ⟨.PWR_RST, 40, 32, .rw, 0, false⟩
/-- PWR_RST.TENANT, R692. -/
def Fd.PWR_RST_TENANT : Field := ⟨.PWR_RST, 25, 16, .rw, 0, false⟩
/-- PWR_RST.ERR, R692. -/
def Fd.PWR_RST_ERR : Field := ⟨.PWR_RST, 15, 8, .ro, 0, false⟩
/-- PWR_RST.ACTION, R692. -/
def Fd.PWR_RST_ACTION : Field := ⟨.PWR_RST, 3, 0, .wo, 0, false⟩
/-- PWR_BOOT.MRMS, R693. -/
def Fd.PWR_BOOT_MRMS : Field := ⟨.PWR_BOOT, 63, 32, .ro, 0, false⟩
/-- PWR_BOOT.PHASE, R693. -/
def Fd.PWR_BOOT_PHASE : Field := ⟨.PWR_BOOT, 23, 16, .ro, 0, false⟩
/-- PWR_BOOT.CAUSE, R693. -/
def Fd.PWR_BOOT_CAUSE : Field := ⟨.PWR_BOOT, 3, 0, .ro, 0, false⟩
/-- PWR_DTIME.DTIME, R694. -/
def Fd.PWR_DTIME_DTIME : Field := ⟨.PWR_DTIME, 63, 0, .ro, 0, false⟩
/-- PWR_DTSET.VALUE, R694. -/
def Fd.PWR_DTSET_VALUE : Field := ⟨.PWR_DTSET, 63, 0, .wo, 0, false⟩
/-- PWR_DTCTL.RATEPPB, R695. -/
def Fd.PWR_DTCTL_RATEPPB : Field := ⟨.PWR_DTCTL, 63, 32, .ro, 0, false⟩
/-- PWR_DTCTL.OFFNS, R695. -/
def Fd.PWR_DTCTL_OFFNS : Field := ⟨.PWR_DTCTL, 31, 16, .ro, 0, false⟩
/-- PWR_DTCTL.PTPDOM, R695. -/
def Fd.PWR_DTCTL_PTPDOM : Field := ⟨.PWR_DTCTL, 13, 6, .rws, 0, false⟩
/-- PWR_DTCTL.PTPPORT, R695. -/
def Fd.PWR_DTCTL_PTPPORT : Field := ⟨.PWR_DTCTL, 5, 5, .rws, 0, false⟩
/-- PWR_DTCTL.STEPPED, R695. -/
def Fd.PWR_DTCTL_STEPPED : Field := ⟨.PWR_DTCTL, 4, 4, .w1c, 0, false⟩
/-- PWR_DTCTL.LOCKED, R695. -/
def Fd.PWR_DTCTL_LOCKED : Field := ⟨.PWR_DTCTL, 3, 3, .ro, 0, false⟩
/-- PWR_DTCTL.VALID, R695. -/
def Fd.PWR_DTCTL_VALID : Field := ⟨.PWR_DTCTL, 2, 2, .ro, 0, false⟩
/-- PWR_DTCTL.MODE, R695. -/
def Fd.PWR_DTCTL_MODE : Field := ⟨.PWR_DTCTL, 1, 0, .rws, 0, false⟩
/-- PWR_DTOFF.OFF, R694. -/
def Fd.PWR_DTOFF_OFF : Field := ⟨.PWR_DTOFF, 63, 0, .rws, 0, false⟩
/-- PWR_CLK.FNOW, R696. -/
def Fd.PWR_CLK_FNOW : Field := ⟨.PWR_CLK, 31, 16, .ro, 0, false⟩
/-- PWR_CLK.RUN, R696. -/
def Fd.PWR_CLK_RUN : Field := ⟨.PWR_CLK, 0, 0, .ro, 0, false⟩
/-- CXL_PORTCFG.BIF, R476. -/
def Fd.CXL_PORTCFG_BIF : Field := ⟨.CXL_PORTCFG, 0, 0, .rws, 0, false⟩
/-- CXL_LINKCFG.MLD, R477. -/
def Fd.CXL_LINKCFG_MLD : Field := ⟨.CXL_LINKCFG, 8, 8, .rws, 0, false⟩
/-- CXL_LINKCFG.NLD, R477. -/
def Fd.CXL_LINKCFG_NLD : Field := ⟨.CXL_LINKCFG, 7, 4, .rws, 0, false⟩
/-- CXL_LINKCFG.HOSTBASE, R477. -/
def Fd.CXL_LINKCFG_HOSTBASE : Field := ⟨.CXL_LINKCFG, 3, 0, .rws, 0, false⟩
/-- CXL_LINKST.DOWNS, R478. -/
def Fd.CXL_LINKST_DOWNS : Field := ⟨.CXL_LINKST, 63, 32, .ro, 0, true⟩
/-- CXL_LINKST.IDE, R478. -/
def Fd.CXL_LINKST_IDE : Field := ⟨.CXL_LINKST, 12, 12, .ro, 0, false⟩
/-- CXL_LINKST.ERR, R478. -/
def Fd.CXL_LINKST_ERR : Field := ⟨.CXL_LINKST, 11, 9, .ro, 0, false⟩
/-- CXL_LINKST.MEM, R478. -/
def Fd.CXL_LINKST_MEM : Field := ⟨.CXL_LINKST, 8, 8, .ro, 0, false⟩
/-- CXL_LINKST.WIDTH, R478. -/
def Fd.CXL_LINKST_WIDTH : Field := ⟨.CXL_LINKST, 7, 5, .ro, 0, false⟩
/-- CXL_LINKST.RATE, R478. -/
def Fd.CXL_LINKST_RATE : Field := ⟨.CXL_LINKST, 4, 3, .ro, 0, false⟩
/-- CXL_LINKST.STATE, R478. -/
def Fd.CXL_LINKST_STATE : Field := ⟨.CXL_LINKST, 2, 0, .ro, 0, false⟩
/-- CXL_PLAIN.NEXT, R479. -/
def Fd.CXL_PLAIN_NEXT : Field := ⟨.CXL_PLAIN, 42, 32, .ro, 0, false⟩
/-- CXL_PLAIN.PLUSED, R479. -/
def Fd.CXL_PLAIN_PLUSED : Field := ⟨.CXL_PLAIN, 26, 16, .ro, 0, false⟩
/-- CXL_PLAIN.PLMAX, R479. -/
def Fd.CXL_PLAIN_PLMAX : Field := ⟨.CXL_PLAIN, 10, 0, .rw, 0, false⟩
/-- CXL_SF.EVICTS, R480. -/
def Fd.CXL_SF_EVICTS : Field := ⟨.CXL_SF, 63, 32, .ro, 0, true⟩
/-- CXL_SF.USED, R480. -/
def Fd.CXL_SF_USED : Field := ⟨.CXL_SF, 22, 0, .ro, 0, false⟩
/-- CXL_ORPH.CLEAR, R481. -/
def Fd.CXL_ORPH_CLEAR : Field := ⟨.CXL_ORPH, 63, 63, .wo, 0, false⟩
/-- CXL_ORPH.SCAN, R481. -/
def Fd.CXL_ORPH_SCAN : Field := ⟨.CXL_ORPH, 18, 18, .ro, 0, false⟩
/-- CXL_ORPH.OVF, R481. -/
def Fd.CXL_ORPH_OVF : Field := ⟨.CXL_ORPH, 17, 17, .ro, 0, false⟩
/-- CXL_ORPH.COUNT, R481. -/
def Fd.CXL_ORPH_COUNT : Field := ⟨.CXL_ORPH, 16, 0, .ro, 0, false⟩
/-- CXL_ORPHQ.IDX, R481. -/
def Fd.CXL_ORPHQ_IDX : Field := ⟨.CXL_ORPHQ, 15, 0, .rw, 0, false⟩
/-- CXL_ORPHE0.LINE, R481. -/
def Fd.CXL_ORPHE0_LINE : Field := ⟨.CXL_ORPHE0, 63, 6, .ro, 0, false⟩
/-- CXL_ORPHE0.HOST, R481. -/
def Fd.CXL_ORPHE0_HOST : Field := ⟨.CXL_ORPHE0, 3, 0, .ro, 0, false⟩
/-- CXL_ORPHE1.DTIME, R481. -/
def Fd.CXL_ORPHE1_DTIME : Field := ⟨.CXL_ORPHE1, 63, 0, .ro, 0, false⟩
/-- CXL_CNT.ORPHREADS, R482. -/
def Fd.CXL_CNT_ORPHREADS : Field := ⟨.CXL_CNT, 63, 32, .ro, 0, true⟩
/-- CXL_CNT.UNBACKED, R482. -/
def Fd.CXL_CNT_UNBACKED : Field := ⟨.CXL_CNT, 31, 0, .ro, 0, true⟩
/-- CXL_VW.ERR, R483. -/
def Fd.CXL_VW_ERR : Field := ⟨.CXL_VW, 6, 6, .ro, 0, false⟩
/-- CXL_VW.VSLOTLOG, R483. -/
def Fd.CXL_VW_VSLOTLOG : Field := ⟨.CXL_VW, 5, 1, .rw, 6, false⟩
/-- CXL_VW.EN, R483. -/
def Fd.CXL_VW_EN : Field := ⟨.CXL_VW, 0, 0, .rw, 0, false⟩
/-- GW_CTL.TMOUS, R484. -/
def Fd.GW_CTL_TMOUS : Field := ⟨.GW_CTL, 40, 33, .rw, 0, false⟩
/-- GW_CTL.QP, R484. -/
def Fd.GW_CTL_QP : Field := ⟨.GW_CTL, 32, 17, .rw, 0, false⟩
/-- GW_CTL.TENANT, R484. -/
def Fd.GW_CTL_TENANT : Field := ⟨.GW_CTL, 16, 7, .rw, 0, false⟩
/-- GW_CTL.SIZELOG, R484. -/
def Fd.GW_CTL_SIZELOG : Field := ⟨.GW_CTL, 6, 1, .rw, 0, false⟩
/-- GW_CTL.EN, R484. -/
def Fd.GW_CTL_EN : Field := ⟨.GW_CTL, 0, 0, .rw, 0, false⟩
/-- GW_RADDR.RADDR, R484. -/
def Fd.GW_RADDR_RADDR : Field := ⟨.GW_RADDR, 63, 12, .rw, 0, false⟩
/-- GW_FLADDR.FLADDR, R484. -/
def Fd.GW_FLADDR_FLADDR : Field := ⟨.GW_FLADDR, 63, 3, .rw, 0, false⟩
/-- GW_ST.DROPPED, R484. -/
def Fd.GW_ST_DROPPED : Field := ⟨.GW_ST, 63, 32, .ro, 0, false⟩
/-- GW_ST.PUTINFL, R484. -/
def Fd.GW_ST_PUTINFL : Field := ⟨.GW_ST, 31, 16, .ro, 0, false⟩
/-- GW_ST.OPEN, R484. -/
def Fd.GW_ST_OPEN : Field := ⟨.GW_ST, 6, 2, .ro, 0, false⟩
/-- GW_ST.STATE, R484. -/
def Fd.GW_ST_STATE : Field := ⟨.GW_ST, 1, 0, .ro, 0, false⟩
/-- LOG_CTL.CLEAR, R741. -/
def Fd.LOG_CTL_CLEAR : Field := ⟨.LOG_CTL, 0, 0, .wo, 0, false⟩
/-- LOG_PTR.OLDEST, R741. -/
def Fd.LOG_PTR_OLDEST : Field := ⟨.LOG_PTR, 63, 32, .ro, 0, false⟩
/-- LOG_PTR.WRITTEN, R741. -/
def Fd.LOG_PTR_WRITTEN : Field := ⟨.LOG_PTR, 31, 0, .ro, 0, false⟩
/-- LOG_RDIDX.IDX, R741. -/
def Fd.LOG_RDIDX_IDX : Field := ⟨.LOG_RDIDX, 31, 0, .rw, 0, false⟩
/-- LOG_REC.REC, R741. -/
def Fd.LOG_REC_REC : Field := ⟨.LOG_REC, 63, 0, .ro, 0, false⟩
/-- LOG_SEV.FATAL, R741. -/
def Fd.LOG_SEV_FATAL : Field := ⟨.LOG_SEV, 63, 48, .ro, 0, true⟩
/-- LOG_SEV.FAILURE, R741. -/
def Fd.LOG_SEV_FAILURE : Field := ⟨.LOG_SEV, 47, 32, .ro, 0, true⟩
/-- LOG_SEV.WARNING, R741. -/
def Fd.LOG_SEV_WARNING : Field := ⟨.LOG_SEV, 31, 16, .ro, 0, true⟩
/-- LOG_SEV.INFO, R741. -/
def Fd.LOG_SEV_INFO : Field := ⟨.LOG_SEV, 15, 0, .ro, 0, true⟩
/-- LOG_HEALTH0.REPL, R742. -/
def Fd.LOG_HEALTH0_REPL : Field := ⟨.LOG_HEALTH0, 56, 48, .ro, 0, false⟩
/-- LOG_HEALTH0.TSTK, R742. -/
def Fd.LOG_HEALTH0_TSTK : Field := ⟨.LOG_HEALTH0, 47, 40, .ro, 0, false⟩
/-- LOG_HEALTH0.TDIE, R742. -/
def Fd.LOG_HEALTH0_TDIE : Field := ⟨.LOG_HEALTH0, 39, 32, .ro, 0, false⟩
/-- LOG_HEALTH0.SPAREPCT, R742. -/
def Fd.LOG_HEALTH0_SPAREPCT : Field := ⟨.LOG_HEALTH0, 31, 24, .ro, 100, false⟩
/-- LOG_HEALTH0.WEARPCT, R742. -/
def Fd.LOG_HEALTH0_WEARPCT : Field := ⟨.LOG_HEALTH0, 23, 16, .ro, 0, false⟩
/-- LOG_HEALTH0.PFINC, R742. -/
def Fd.LOG_HEALTH0_PFINC : Field := ⟨.LOG_HEALTH0, 9, 9, .ro, 0, false⟩
/-- LOG_HEALTH0.LASTPF, R742. -/
def Fd.LOG_HEALTH0_LASTPF : Field := ⟨.LOG_HEALTH0, 8, 8, .ro, 0, false⟩
/-- LOG_HEALTH0.CAPPING, R742. -/
def Fd.LOG_HEALTH0_CAPPING : Field := ⟨.LOG_HEALTH0, 7, 7, .ro, 0, false⟩
/-- LOG_HEALTH0.THROTTLE, R742. -/
def Fd.LOG_HEALTH0_THROTTLE : Field := ⟨.LOG_HEALTH0, 6, 6, .ro, 0, false⟩
/-- LOG_HEALTH0.SAFE, R742. -/
def Fd.LOG_HEALTH0_SAFE : Field := ⟨.LOG_HEALTH0, 5, 5, .ro, 0, false⟩
/-- LOG_HEALTH0.FAILED, R742. -/
def Fd.LOG_HEALTH0_FAILED : Field := ⟨.LOG_HEALTH0, 4, 4, .ro, 0, false⟩
/-- LOG_HEALTH0.DEGRADED, R742. -/
def Fd.LOG_HEALTH0_DEGRADED : Field := ⟨.LOG_HEALTH0, 3, 3, .ro, 0, false⟩
/-- LOG_HEALTH0.CALDEF, R742. -/
def Fd.LOG_HEALTH0_CALDEF : Field := ⟨.LOG_HEALTH0, 2, 2, .ro, 0, false⟩
/-- LOG_HEALTH0.MAINT, R742. -/
def Fd.LOG_HEALTH0_MAINT : Field := ⟨.LOG_HEALTH0, 1, 1, .ro, 0, false⟩
/-- LOG_HEALTH0.MEDIA, R742. -/
def Fd.LOG_HEALTH0_MEDIA : Field := ⟨.LOG_HEALTH0, 0, 0, .ro, 0, false⟩

/-- The fields of each register; every other bit is reserved (R18). -/
def RegKind.fields : RegKind → List Field
  | .GLB => [Fd.GLB_LOCK]
  | .GLB_CFG => [Fd.GLB_CFG_CFGFREEZE, Fd.GLB_CFG_ALERTLVL, Fd.GLB_CFG_UALOG]
  | .GLB_ID => [Fd.GLB_ID_STEP, Fd.GLB_ID_PART]
  | .GLB_SERIAL => [Fd.GLB_SERIAL_SERIAL]
  | .GLB_STATUS => [Fd.GLB_STATUS_LOCK, Fd.GLB_STATUS_REPLACE, Fd.GLB_STATUS_SAFE, Fd.GLB_STATUS_MEDIA, Fd.GLB_STATUS_LCSTATE, Fd.GLB_STATUS_RASSTATE, Fd.GLB_STATUS_PATSTATE]
  | .GLB_UA => [Fd.GLB_UA_COUNT, Fd.GLB_UA_HOST, Fd.GLB_UA_SIZE, Fd.GLB_UA_VALID, Fd.GLB_UA_WRITE, Fd.GLB_UA_BAR, Fd.GLB_UA_OFFSET]
  | .PAT_STATUS => [Fd.PAT_STATUS_SVN, Fd.PAT_STATUS_ERR, Fd.PAT_STATUS_NPANEL, Fd.PAT_STATUS_SIGNER, Fd.PAT_STATUS_COMPAT, Fd.PAT_STATUS_PERSISTED, Fd.PAT_STATUS_STATE]
  | .PAT_VERSION => [Fd.PAT_VERSION_IFGEN, Fd.PAT_VERSION_FMTVER]
  | .PAT_PROGRESS => [Fd.PAT_PROGRESS_PCT, Fd.PAT_PROGRESS_STAGED]
  | .PAT_ERRDET => [Fd.PAT_ERRDET_SOFF, Fd.PAT_ERRDET_PANEL, Fd.PAT_ERRDET_TYPE]
  | .PAT_EVT => [Fd.PAT_EVT_PERSIST_DONE, Fd.PAT_EVT_SWAP_FAIL, Fd.PAT_EVT_SWAP_DONE, Fd.PAT_EVT_LOAD_FAIL, Fd.PAT_EVT_LOAD_DONE]
  | .PAT_MEAS => [Fd.PAT_MEAS_DIG]
  | .PAT_BASE => [Fd.PAT_BASE_DIG]
  | .PANEL_STATE => [Fd.PANEL_STATE_BUSYCNT, Fd.PANEL_STATE_PLAN, Fd.PANEL_STATE_RETIRED, Fd.PANEL_STATE_CORES1, Fd.PANEL_STATE_CORES0, Fd.PANEL_STATE_PROFILE, Fd.PANEL_STATE_STATE]
  | .PANEL_RPD => [Fd.PANEL_RPD_RPD]
  | .TNT_CTRL => [Fd.TNT_CTRL_HOST, Fd.TNT_CTRL_PANEL, Fd.TNT_CTRL_TEMPLATE, Fd.TNT_CTRL_ACTION]
  | .TNT_STATE => [Fd.TNT_STATE_DRAIN, Fd.TNT_STATE_ACTERR, Fd.TNT_STATE_SEALED, Fd.TNT_STATE_STATE]
  | .TNT_BIND => [Fd.TNT_BIND_TRIMTH, Fd.TNT_BIND_TRIM, Fd.TNT_BIND_RECOVQ4, Fd.TNT_BIND_VOLATILE, Fd.TNT_BIND_QCMD, Fd.TNT_BIND_BCLASS, Fd.TNT_BIND_PROFILE, Fd.TNT_BIND_HOST]
  | .TNT_GRP => [Fd.TNT_GRP_COMMITTO, Fd.TNT_GRP_M3V, Fd.TNT_GRP_M3RW, Fd.TNT_GRP_M3GRP, Fd.TNT_GRP_M2V, Fd.TNT_GRP_M2RW, Fd.TNT_GRP_M2GRP, Fd.TNT_GRP_M1V, Fd.TNT_GRP_M1RW, Fd.TNT_GRP_M1GRP, Fd.TNT_GRP_M0V, Fd.TNT_GRP_M0RW, Fd.TNT_GRP_M0GRP]
  | .TNT_QUOTA => [Fd.TNT_QUOTA_QHBM, Fd.TNT_QUOTA_QFLASH, Fd.TNT_QUOTA_QCHUNK]
  | .TNT_CRED => [Fd.TNT_CRED_CQ1, Fd.TNT_CRED_CQ0, Fd.TNT_CRED_SQ3, Fd.TNT_CRED_SQ2, Fd.TNT_CRED_SQ1, Fd.TNT_CRED_SQ0]
  | .TNT_USE0 => [Fd.TNT_USE0_INFLIGHT, Fd.TNT_USE0_CHUNKS]
  | .TNT_USE1 => [Fd.TNT_USE1_FLASHMIB, Fd.TNT_USE1_HBMGRAN]
  | .TNT_ERR => [Fd.TNT_ERR_QUOTAHIT, Fd.TNT_ERR_HRTDENY, Fd.TNT_ERR_HOSTLOST, Fd.TNT_ERR_CREDOVR]
  | .SG_CFG => [Fd.SG_CFG_BCLASS, Fd.SG_CFG_ERR, Fd.SG_CFG_MEMBERS, Fd.SG_CFG_PROFILE, Fd.SG_CFG_VALID, Fd.SG_CFG_ACTION]
  | .SG_QUOTA => [Fd.SG_QUOTA_QHBM, Fd.SG_QUOTA_QFLASH, Fd.SG_QUOTA_QCHUNK]
  | .SG_USE0 => [Fd.SG_USE0_INFLIGHT, Fd.SG_USE0_CHUNKS]
  | .SG_USE1 => [Fd.SG_USE1_FLASHMIB, Fd.SG_USE1_HBMGRAN]
  | .HRT_CTL => [Fd.HRT_CTL_BC, Fd.HRT_CTL_TENANT, Fd.HRT_CTL_HOST, Fd.HRT_CTL_SPACE, Fd.HRT_CTL_WR, Fd.HRT_CTL_RD, Fd.HRT_CTL_VALID]
  | .HRT_BASE => [Fd.HRT_BASE_BASE]
  | .HRT_LIMIT => [Fd.HRT_LIMIT_LIMIT]
  | .HRT_SYNC => [Fd.HRT_SYNC_PENDING, Fd.HRT_SYNC_SYNC]
  | .HRT_DENY => [Fd.HRT_DENY_COUNT]
  | .WHL_HOSTLIM => [Fd.WHL_HOSTLIM_BURST, Fd.WHL_HOSTLIM_RATE]
  | .SPL_CFG => [Fd.SPL_CFG_CTOFF, Fd.SPL_CFG_CRCREQ]
  | .SPL_SQS => [Fd.SPL_SQS_FREED, Fd.SPL_SQS_NEXT, Fd.SPL_SQS_TAIL, Fd.SPL_SQS_HELD]
  | .SPL_SQE => [Fd.SPL_SQE_ERRSEQ, Fd.SPL_SQE_ERRTAG, Fd.SPL_SQE_ERR, Fd.SPL_SQE_STATE]
  | .SPL_CQS => [Fd.SPL_CQS_WAITING, Fd.SPL_CQS_CONSUMED, Fd.SPL_CQS_UNREAD]
  | .SPL_DEV => [Fd.SPL_DEV_FREECELLS, Fd.SPL_DEV_INFLIGHT]
  | .SPL_ERRCNT => [Fd.SPL_ERRCNT_MISSCNT, Fd.SPL_ERRCNT_CREDCNT, Fd.SPL_ERRCNT_CRCCNT, Fd.SPL_ERRCNT_FMTCNT]
  | .PFX_CFG => [Fd.PFX_CFG_CAMEN, Fd.PFX_CFG_HOTTH]
  | .PFX_USE => [Fd.PFX_USE_FREESEQ, Fd.PFX_USE_FREECH]
  | .PFX_IDX => [Fd.PFX_IDX_UNIDX, Fd.PFX_IDX_STASH]
  | .PFX_IDXUSE => [Fd.PFX_IDXUSE_ENTRIES]
  | .PFX_CNT0 => [Fd.PFX_CNT0_NODEHITS, Fd.PFX_CNT0_LOOKUPS]
  | .PFX_CNT1 => [Fd.PFX_CNT1_VFAIL, Fd.PFX_CNT1_REVIVES]
  | .PFX_NODEQ => [Fd.PFX_NODEQ_BUSY, Fd.PFX_NODEQ_FOUND, Fd.PFX_NODEQ_HANDLE]
  | .PFX_NODE => [Fd.PFX_NODE_WORD]
  | .CAM_CFG => [Fd.CAM_CFG_RINGGRP, Fd.CAM_CFG_WIDE, Fd.CAM_CFG_NMEM, Fd.CAM_CFG_POS, Fd.CAM_CFG_CASC]
  | .CAM_REVMASK => [Fd.CAM_REVMASK_REVMASK]
  | .CAM_CNT => [Fd.CAM_CNT_HITS, Fd.CAM_CNT_SEARCHES, Fd.CAM_CNT_INFLT]
  | .CAM_BANK => [Fd.CAM_BANK_USED]
  | .PGT_HBM => [Fd.PGT_HBM_CACHESF, Fd.PGT_HBM_FREESF]
  | .PGT_DIRTY => [Fd.PGT_DIRTY_DIRTYMIB]
  | .PGT_TIER => [Fd.PGT_TIER_FUSEPCT, Fd.PGT_TIER_HUSEPCT, Fd.PGT_TIER_HANDLES, Fd.PGT_TIER_DROP, Fd.PGT_TIER_DEMOTE, Fd.PGT_TIER_STASHHOLD]
  | .PGT_RECOV => [Fd.PGT_RECOV_REBUILD, Fd.PGT_RECOV_SELFTEST, Fd.PGT_RECOV_DEGRADED, Fd.PGT_RECOV_ACTIVE]
  | .PGT_CNT0 => [Fd.PGT_CNT0_DEMOTED, Fd.PGT_CNT0_PROMOTED]
  | .PGT_CNT1 => [Fd.PGT_CNT1_HOLLOWED, Fd.PGT_CNT1_TRIMMED]
  | .PGT_DLV => [Fd.PGT_DLV_LATECNT, Fd.PGT_DLV_MAXLATE]
  | .PGT_VC => [Fd.PGT_VC_HITS, Fd.PGT_VC_MISSES]
  | .PGT_PAGEQ => [Fd.PGT_PAGEQ_BUSY, Fd.PGT_PAGEQ_FOUND, Fd.PGT_PAGEQ_LAYER, Fd.PGT_PAGEQ_HANDLE]
  | .PGT_PAGE0 => [Fd.PGT_PAGE0_FRAME, Fd.PGT_PAGE0_EPOCH, Fd.PGT_PAGE0_NGRAN]
  | .PGT_PAGE1 => [Fd.PGT_PAGE1_FRPINS, Fd.PGT_PAGE1_TRIMMASK, Fd.PGT_PAGE1_CTR, Fd.PGT_PAGE1_FMT, Fd.PGT_PAGE1_PSTATE, Fd.PGT_PAGE1_FREFS]
  | .PGT_PRB => [Fd.PGT_PRB_PROBES, Fd.PGT_PRB_MAXQ]
  | .CDR_TRIGHTS => [Fd.CDR_TRIGHTS_TR]
  | .CDR_GENQ => [Fd.CDR_GENQ_BUSY, Fd.CDR_GENQ_FOUND, Fd.CDR_GENQ_PROFILE, Fd.CDR_GENQ_TENSOR]
  | .CDR_GENS => [Fd.CDR_GENS_NOCUR, Fd.CDR_GENS_NLIVE, Fd.CDR_GENS_CUR, Fd.CDR_GENS_RETIRING, Fd.CDR_GENS_LIVE]
  | .CDR_GREF => [Fd.CDR_GREF_VALID, Fd.CDR_GREF_GEN, Fd.CDR_GREF_REFS]
  | .CDR_RETIRE => [Fd.CDR_RETIRE_RETGENS, Fd.CDR_RETIRE_PENDPG]
  | .CDR_EVT => [Fd.CDR_EVT_CORRUPT, Fd.CDR_EVT_RETIRED]
  | .CDR_CSTAT0 => [Fd.CDR_CSTAT0_RAWBLK, Fd.CDR_CSTAT0_CODBLK]
  | .CDR_CSTAT1 => [Fd.CDR_CSTAT1_OUTKIB, Fd.CDR_CSTAT1_INKIB]
  | .CDR_CORRUPT => [Fd.CDR_CORRUPT_HDR, Fd.CDR_CORRUPT_OVERRUN, Fd.CDR_CORRUPT_SLACK, Fd.CDR_CORRUPT_CRC]
  | .CDR_HCFG => [Fd.CDR_HCFG_SAMPLE, Fd.CDR_HCFG_TENSOR, Fd.CDR_HCFG_PROFILE, Fd.CDR_HCFG_EN]
  | .CDR_HSTAT => [Fd.CDR_HSTAT_SKIPPED, Fd.CDR_HSTAT_PAGES]
  | .CDR_HIST => [Fd.CDR_HIST_COUNT]
  | .ATN_CNT0 => [Fd.ATN_CNT0_BATCHES, Fd.ATN_CNT0_ATTENDS]
  | .ATN_CNT1 => [Fd.ATN_CNT1_VERIFIES, Fd.ATN_CNT1_CANCELS]
  | .ATN_ELEM => [Fd.ATN_ELEM_ELEMS]
  | .ATN_FAIL => [Fd.ATN_FAIL_POISON, Fd.ATN_FAIL_FMTERR, Fd.ATN_FAIL_RECOMP, Fd.ATN_FAIL_OUTERR]
  | .ATN_WAIT => [Fd.ATN_WAIT_DEMANDS, Fd.ATN_WAIT_MAXWAITUS]
  | .ATN_PANEL => [Fd.ATN_PANEL_INEXEC, Fd.ATN_PANEL_OVERB]
  | .SNL_CFG => [Fd.SNL_CFG_RINGID, Fd.SNL_CFG_POS, Fd.SNL_CFG_NMEM, Fd.SNL_CFG_EN]
  | .SNL_RING => [Fd.SNL_RING_FORMS, Fd.SNL_RING_CAUSE, Fd.SNL_RING_STATE]
  | .SNL_LINK => [Fd.SNL_LINK_PEERPOS, Fd.SNL_LINK_WIDTH, Fd.SNL_LINK_STATE]
  | .SNL_LERR => [Fd.SNL_LERR_RETRAINS, Fd.SNL_LERR_REPLAYS, Fd.SNL_LERR_CRCERR]
  | .SNL_CASC => [Fd.SNL_CASC_LOCALONLY, Fd.SNL_CASC_CASCOK, Fd.SNL_CASC_DTOFF]
  | .SNL_CTX_CTL => [Fd.SNL_CTX_CTL_PEERS, Fd.SNL_CTX_CTL_TENANT, Fd.SNL_CTX_CTL_PANEL, Fd.SNL_CTX_CTL_MODE, Fd.SNL_CTX_CTL_ACTION]
  | .SNL_CTX_ST => [Fd.SNL_CTX_ST_TAKEN, Fd.SNL_CTX_ST_OUTST, Fd.SNL_CTX_ST_ERR, Fd.SNL_CTX_ST_STATE]
  | .SNL_CTX_DL => [Fd.SNL_CTX_DL_DLBASE, Fd.SNL_CTX_DL_DLLOG]
  | .SNL_CTX_TAIL => [Fd.SNL_CTX_TAIL_TAILADDR]
  | .SNL_CTX_AGE => [Fd.SNL_CTX_AGE_OLDID, Fd.SNL_CTX_AGE_AGEUS]
  | .SHT_CFG => [Fd.SHT_CFG_EN, Fd.SHT_CFG_UDPPORT]
  | .SHT_PORT => [Fd.SHT_PORT_PFCRX, Fd.SHT_PORT_DSCP, Fd.SHT_PORT_PCP, Fd.SHT_PORT_VID, Fd.SHT_PORT_VLANEN, Fd.SHT_PORT_EN]
  | .SHT_PORTST => [Fd.SHT_PORTST_DOWNS, Fd.SHT_PORTST_STATE]
  | .SHT_MAC => [Fd.SHT_MAC_MAC]
  | .SHT_NHMAC => [Fd.SHT_NHMAC_NHMAC]
  | .SHT_IP6A => [Fd.SHT_IP6A_IP6LO]
  | .SHT_IP6B => [Fd.SHT_IP6B_IP6HI]
  | .SHT_IP4 => [Fd.SHT_IP4_IP4]
  | .SHT_QPQ => [Fd.SHT_QPQ_BUSY, Fd.SHT_QPQ_ERR, Fd.SHT_QPQ_ACTION, Fd.SHT_QPQ_QPN]
  | .SHT_QPC => [Fd.SHT_QPC_WORD]
  | .SHT_QPST0 => [Fd.SHT_QPST0_SNXT, Fd.SHT_QPST0_CPSN, Fd.SHT_QPST0_ERRSTAT, Fd.SHT_QPST0_STATE]
  | .SHT_QPST1 => [Fd.SHT_QPST1_UNACK, Fd.SHT_QPST1_RETRY, Fd.SHT_QPST1_SCOMP]
  | .SHT_CNT0 => [Fd.SHT_CNT0_RXPKT, Fd.SHT_CNT0_TXPKT]
  | .SHT_CNT1 => [Fd.SHT_CNT1_DUPS, Fd.SHT_CNT1_RETX]
  | .SHT_CNT2 => [Fd.SHT_CNT2_ICVFAIL, Fd.SHT_CNT2_DROPS]
  | .SHT_CNT3 => [Fd.SHT_CNT3_NMOSTALE, Fd.SHT_CNT3_NMOREPLAY]
  | .FLT_GEOM => [Fd.FLT_GEOM_TARGETS, Fd.FLT_GEOM_LUNS, Fd.FLT_GEOM_CELL, Fd.FLT_GEOM_RATE, Fd.FLT_GEOM_BPP, Fd.FLT_GEOM_PPB]
  | .FLT_CAP => [Fd.FLT_CAP_CACHEGIB, Fd.FLT_CAP_SYSGIB, Fd.FLT_CAP_UNITS]
  | .FLT_SPACE => [Fd.FLT_SPACE_FREEPM, Fd.FLT_SPACE_SLCPM, Fd.FLT_SPACE_SLCGIB, Fd.FLT_SPACE_GC, Fd.FLT_SPACE_FOLD, Fd.FLT_SPACE_STEP]
  | .FLT_GCCNT => [Fd.FLT_GCCNT_COPYMIB, Fd.FLT_GCCNT_ERASES]
  | .FLT_WEAR => [Fd.FLT_WEAR_ENDUR, Fd.FLT_WEAR_MAXEC, Fd.FLT_WEAR_AVGEC, Fd.FLT_WEAR_WEARPCT]
  | .FLT_SPARE => [Fd.FLT_SPARE_RETIRED, Fd.FLT_SPARE_SPAREPCT]
  | .FLT_ERR0 => [Fd.FLT_ERR0_CORRHARD, Fd.FLT_ERR0_CORRSOFT]
  | .FLT_ERR1 => [Fd.FLT_ERR1_UNCORR, Fd.FLT_ERR1_PROGFAIL, Fd.FLT_ERR1_ERASEFAIL, Fd.FLT_ERR1_TIMEOUT]
  | .FLT_PF => [Fd.FLT_PF_FLUSHUS, Fd.FLT_PF_INCOMPLETE, Fd.FLT_PF_LASTPF]
  | .FLT_SHRED => [Fd.FLT_SHRED_UNERASED, Fd.FLT_SHRED_PENDUNITS]
  | .FLT_CH => [Fd.FLT_CH_UNCORR, Fd.FLT_CH_EXCL, Fd.FLT_CH_RATE, Fd.FLT_CH_TGTMAP, Fd.FLT_CH_TEMP, Fd.FLT_CH_STATE]
  | .FLT_TEMP => [Fd.FLT_TEMP_MINUTES]
  | .RAS_STATUS => [Fd.RAS_STATUS_CORESRET, Fd.RAS_STATUS_LOSTMAP, Fd.RAS_STATUS_INSVC, Fd.RAS_STATUS_SELFTEST, Fd.RAS_STATUS_REBUILD, Fd.RAS_STATUS_REPLACE, Fd.RAS_STATUS_STATE]
  | .RAS_REPL => [Fd.RAS_REPL_STEWARD, Fd.RAS_REPL_HBMRATE, Fd.RAS_REPL_FLCHAN, Fd.RAS_REPL_FLWEAR, Fd.RAS_REPL_FLSPARE, Fd.RAS_REPL_CORES, Fd.RAS_REPL_SHORT, Fd.RAS_REPL_FAILED, Fd.RAS_REPL_STACKLOST]
  | .RAS_CTL => [Fd.RAS_CTL_SCRUBH, Fd.RAS_CTL_CORE, Fd.RAS_CTL_STACK, Fd.RAS_CTL_ERR, Fd.RAS_CTL_ACTION]
  | .RAS_REBUILD => [Fd.RAS_REBUILD_TOTALGIB, Fd.RAS_REBUILD_DONEGIB, Fd.RAS_REBUILD_STACK, Fd.RAS_REBUILD_PHASE]
  | .RAS_SCRUB => [Fd.RAS_SCRUB_MISMATCH, Fd.RAS_SCRUB_PASSES, Fd.RAS_SCRUB_LASTMIN]
  | .RAS_POISON => [Fd.RAS_POISON_PAGES, Fd.RAS_POISON_LINES]
  | .RAS_HBM => [Fd.RAS_HBM_STATE, Fd.RAS_HBM_HARD, Fd.RAS_HBM_RECON, Fd.RAS_HBM_CORR]
  | .RAS_CORERET => [Fd.RAS_CORERET_RET]
  | .SEC_LC => [Fd.SEC_LC_OWNEREPOCH, Fd.SEC_LC_ERASEPEND, Fd.SEC_LC_MAKERTEST, Fd.SEC_LC_OWNERREC, Fd.SEC_LC_STATE]
  | .SEC_FW => [Fd.SEC_FW_FTFSVN, Fd.SEC_FW_MFWSVN, Fd.SEC_FW_CODEB, Fd.SEC_FW_CODEA, Fd.SEC_FW_SAFE, Fd.SEC_FW_PREF, Fd.SEC_FW_RUN]
  | .SEC_FLOOR => [Fd.SEC_FLOOR_MANFLOOR, Fd.SEC_FLOOR_FTFFLOOR, Fd.SEC_FLOOR_MFWFLOOR, Fd.SEC_FLOOR_MANSVN]
  | .SEC_PATFLOOR => [Fd.SEC_PATFLOOR_FLOOR]
  | .SEC_CAL => [Fd.SEC_CAL_WRITES, Fd.SEC_CAL_WRITING, Fd.SEC_CAL_DEFAULTS, Fd.SEC_CAL_VALID]
  | .SEC_NVS => [Fd.SEC_NVS_MAXWR]
  | .SEC_TKEY => [Fd.SEC_TKEY_TENANT, Fd.SEC_TKEY_ERR, Fd.SEC_TKEY_ACTION]
  | .SEC_TSTAT => [Fd.SEC_TSTAT_NSEALG, Fd.SEC_TSTAT_SEALRW, Fd.SEC_TSTAT_SEALG, Fd.SEC_TSTAT_BINDLOST, Fd.SEC_TSTAT_KEYSRC, Fd.SEC_TSTAT_HKEY, Fd.SEC_TSTAT_SEALED]
  | .SEC_GSTAT => [Fd.SEC_GSTAT_HSET, Fd.SEC_GSTAT_HKEY, Fd.SEC_GSTAT_EKEY]
  | .PWR_STATUS => [Fd.PWR_STATUS_MEDIA, Fd.PWR_STATUS_CAPPING, Fd.PWR_STATUS_BELOWINIT, Fd.PWR_STATUS_PSTATE]
  | .PWR_CTL => [Fd.PWR_CTL_CAPW, Fd.PWR_CTL_STBYMS, Fd.PWR_CTL_ECO, Fd.PWR_CTL_STBYEN]
  | .PWR_MEAS => [Fd.PWR_MEAS_PEAKW, Fd.PWR_MEAS_AVGW, Fd.PWR_MEAS_HBMW, Fd.PWR_MEAS_CDW]
  | .PWR_THERM => [Fd.PWR_THERM_TCD0, Fd.PWR_THERM_TCD1, Fd.PWR_THERM_TXD, Fd.PWR_THERM_TSTK, Fd.PWR_THERM_SSTEP, Fd.PWR_THERM_STEP1, Fd.PWR_THERM_STEP0]
  | .PWR_RST => [Fd.PWR_RST_ISLAND, Fd.PWR_RST_TENANT, Fd.PWR_RST_ERR, Fd.PWR_RST_ACTION]
  | .PWR_BOOT => [Fd.PWR_BOOT_MRMS, Fd.PWR_BOOT_PHASE, Fd.PWR_BOOT_CAUSE]
  | .PWR_DTIME => [Fd.PWR_DTIME_DTIME]
  | .PWR_DTSET => [Fd.PWR_DTSET_VALUE]
  | .PWR_DTCTL => [Fd.PWR_DTCTL_RATEPPB, Fd.PWR_DTCTL_OFFNS, Fd.PWR_DTCTL_PTPDOM, Fd.PWR_DTCTL_PTPPORT, Fd.PWR_DTCTL_STEPPED, Fd.PWR_DTCTL_LOCKED, Fd.PWR_DTCTL_VALID, Fd.PWR_DTCTL_MODE]
  | .PWR_DTOFF => [Fd.PWR_DTOFF_OFF]
  | .PWR_CLK => [Fd.PWR_CLK_FNOW, Fd.PWR_CLK_RUN]
  | .CXL_PORTCFG => [Fd.CXL_PORTCFG_BIF]
  | .CXL_LINKCFG => [Fd.CXL_LINKCFG_MLD, Fd.CXL_LINKCFG_NLD, Fd.CXL_LINKCFG_HOSTBASE]
  | .CXL_LINKST => [Fd.CXL_LINKST_DOWNS, Fd.CXL_LINKST_IDE, Fd.CXL_LINKST_ERR, Fd.CXL_LINKST_MEM, Fd.CXL_LINKST_WIDTH, Fd.CXL_LINKST_RATE, Fd.CXL_LINKST_STATE]
  | .CXL_PLAIN => [Fd.CXL_PLAIN_NEXT, Fd.CXL_PLAIN_PLUSED, Fd.CXL_PLAIN_PLMAX]
  | .CXL_SF => [Fd.CXL_SF_EVICTS, Fd.CXL_SF_USED]
  | .CXL_ORPH => [Fd.CXL_ORPH_CLEAR, Fd.CXL_ORPH_SCAN, Fd.CXL_ORPH_OVF, Fd.CXL_ORPH_COUNT]
  | .CXL_ORPHQ => [Fd.CXL_ORPHQ_IDX]
  | .CXL_ORPHE0 => [Fd.CXL_ORPHE0_LINE, Fd.CXL_ORPHE0_HOST]
  | .CXL_ORPHE1 => [Fd.CXL_ORPHE1_DTIME]
  | .CXL_CNT => [Fd.CXL_CNT_ORPHREADS, Fd.CXL_CNT_UNBACKED]
  | .CXL_VW => [Fd.CXL_VW_ERR, Fd.CXL_VW_VSLOTLOG, Fd.CXL_VW_EN]
  | .GW_CTL => [Fd.GW_CTL_TMOUS, Fd.GW_CTL_QP, Fd.GW_CTL_TENANT, Fd.GW_CTL_SIZELOG, Fd.GW_CTL_EN]
  | .GW_RADDR => [Fd.GW_RADDR_RADDR]
  | .GW_FLADDR => [Fd.GW_FLADDR_FLADDR]
  | .GW_ST => [Fd.GW_ST_DROPPED, Fd.GW_ST_PUTINFL, Fd.GW_ST_OPEN, Fd.GW_ST_STATE]
  | .LOG_CTL => [Fd.LOG_CTL_CLEAR]
  | .LOG_PTR => [Fd.LOG_PTR_OLDEST, Fd.LOG_PTR_WRITTEN]
  | .LOG_RDIDX => [Fd.LOG_RDIDX_IDX]
  | .LOG_REC => [Fd.LOG_REC_REC]
  | .LOG_SEV => [Fd.LOG_SEV_FATAL, Fd.LOG_SEV_FAILURE, Fd.LOG_SEV_WARNING, Fd.LOG_SEV_INFO]
  | .LOG_HEALTH0 => [Fd.LOG_HEALTH0_REPL, Fd.LOG_HEALTH0_TSTK, Fd.LOG_HEALTH0_TDIE, Fd.LOG_HEALTH0_SPAREPCT, Fd.LOG_HEALTH0_WEARPCT, Fd.LOG_HEALTH0_PFINC, Fd.LOG_HEALTH0_LASTPF, Fd.LOG_HEALTH0_CAPPING, Fd.LOG_HEALTH0_THROTTLE, Fd.LOG_HEALTH0_SAFE, Fd.LOG_HEALTH0_FAILED, Fd.LOG_HEALTH0_DEGRADED, Fd.LOG_HEALTH0_CALDEF, Fd.LOG_HEALTH0_MAINT, Fd.LOG_HEALTH0_MEDIA]

/-- The offset of each register in BAR0 (its first copy where it has an index): R722, R744. -/
def RegKind.base : RegKind → Nat
  | .GLB => 0x100000
  | .GLB_CFG => 0x100008
  | .GLB_ID => 0x100010
  | .GLB_SERIAL => 0x100018
  | .GLB_STATUS => 0x100020
  | .GLB_UA => 0x100028
  | .PAT_STATUS => 0x200000
  | .PAT_VERSION => 0x200008
  | .PAT_PROGRESS => 0x200010
  | .PAT_ERRDET => 0x200018
  | .PAT_EVT => 0x200020
  | .PAT_MEAS => 0x200040
  | .PAT_BASE => 0x200080
  | .PANEL_STATE => 0x200400
  | .PANEL_RPD => 0x200600
  | .TNT_CTRL => 0x300000
  | .TNT_STATE => 0x300008
  | .TNT_BIND => 0x300010
  | .TNT_GRP => 0x300018
  | .TNT_QUOTA => 0x300020
  | .TNT_CRED => 0x300028
  | .TNT_USE0 => 0x300030
  | .TNT_USE1 => 0x300038
  | .TNT_ERR => 0x300040
  | .SG_CFG => 0x320000
  | .SG_QUOTA => 0x320008
  | .SG_USE0 => 0x320010
  | .SG_USE1 => 0x320018
  | .HRT_CTL => 0x400000
  | .HRT_BASE => 0x400008
  | .HRT_LIMIT => 0x400010
  | .HRT_SYNC => 0x420000
  | .HRT_DENY => 0x420100
  | .WHL_HOSTLIM => 0x500000
  | .SPL_CFG => 0x600000
  | .SPL_SQS => 0x610000
  | .SPL_SQE => 0x610008
  | .SPL_CQS => 0x620000
  | .SPL_DEV => 0x630000
  | .SPL_ERRCNT => 0x630008
  | .PFX_CFG => 0x700000
  | .PFX_USE => 0x700008
  | .PFX_IDX => 0x700010
  | .PFX_IDXUSE => 0x700018
  | .PFX_CNT0 => 0x700020
  | .PFX_CNT1 => 0x700028
  | .PFX_NODEQ => 0x700100
  | .PFX_NODE => 0x700108
  | .CAM_CFG => 0x800000
  | .CAM_REVMASK => 0x800008
  | .CAM_CNT => 0x800010
  | .CAM_BANK => 0x800100
  | .PGT_HBM => 0x900000
  | .PGT_DIRTY => 0x900008
  | .PGT_TIER => 0x900010
  | .PGT_RECOV => 0x900018
  | .PGT_CNT0 => 0x900020
  | .PGT_CNT1 => 0x900028
  | .PGT_DLV => 0x900030
  | .PGT_VC => 0x900038
  | .PGT_PAGEQ => 0x900100
  | .PGT_PAGE0 => 0x900108
  | .PGT_PAGE1 => 0x900110
  | .PGT_PRB => 0x900200
  | .CDR_TRIGHTS => 0xa00000
  | .CDR_GENQ => 0xa00100
  | .CDR_GENS => 0xa00108
  | .CDR_GREF => 0xa00110
  | .CDR_RETIRE => 0xa00200
  | .CDR_EVT => 0xa00208
  | .CDR_CSTAT0 => 0xa00300
  | .CDR_CSTAT1 => 0xa00308
  | .CDR_CORRUPT => 0xa00310
  | .CDR_HCFG => 0xa00400
  | .CDR_HSTAT => 0xa00408
  | .CDR_HIST => 0xa00800
  | .ATN_CNT0 => 0xb00000
  | .ATN_CNT1 => 0xb00008
  | .ATN_ELEM => 0xb00010
  | .ATN_FAIL => 0xb00018
  | .ATN_WAIT => 0xb00020
  | .ATN_PANEL => 0xb00400
  | .SNL_CFG => 0xc00000
  | .SNL_RING => 0xc00008
  | .SNL_LINK => 0xc00010
  | .SNL_LERR => 0xc00020
  | .SNL_CASC => 0xc00030
  | .SNL_CTX_CTL => 0xc01000
  | .SNL_CTX_ST => 0xc01008
  | .SNL_CTX_DL => 0xc01010
  | .SNL_CTX_TAIL => 0xc01018
  | .SNL_CTX_AGE => 0xc03000
  | .SHT_CFG => 0xd00000
  | .SHT_PORT => 0xd00010
  | .SHT_PORTST => 0xd00020
  | .SHT_MAC => 0xd00030
  | .SHT_NHMAC => 0xd00040
  | .SHT_IP6A => 0xd00050
  | .SHT_IP6B => 0xd00058
  | .SHT_IP4 => 0xd00070
  | .SHT_QPQ => 0xd00100
  | .SHT_QPC => 0xd00108
  | .SHT_QPST0 => 0xd00148
  | .SHT_QPST1 => 0xd00150
  | .SHT_CNT0 => 0xd00200
  | .SHT_CNT1 => 0xd00208
  | .SHT_CNT2 => 0xd00210
  | .SHT_CNT3 => 0xd00218
  | .FLT_GEOM => 0xe00000
  | .FLT_CAP => 0xe00008
  | .FLT_SPACE => 0xe00010
  | .FLT_GCCNT => 0xe00018
  | .FLT_WEAR => 0xe00020
  | .FLT_SPARE => 0xe00028
  | .FLT_ERR0 => 0xe00030
  | .FLT_ERR1 => 0xe00038
  | .FLT_PF => 0xe00040
  | .FLT_SHRED => 0xe00048
  | .FLT_CH => 0xe00100
  | .FLT_TEMP => 0xe00400
  | .RAS_STATUS => 0xf00000
  | .RAS_REPL => 0xf00008
  | .RAS_CTL => 0xf00010
  | .RAS_REBUILD => 0xf00018
  | .RAS_SCRUB => 0xf00020
  | .RAS_POISON => 0xf00028
  | .RAS_HBM => 0xf00100
  | .RAS_CORERET => 0xf00200
  | .SEC_LC => 0x1000000
  | .SEC_FW => 0x1000008
  | .SEC_FLOOR => 0x1000010
  | .SEC_PATFLOOR => 0x1000018
  | .SEC_CAL => 0x1000020
  | .SEC_NVS => 0x1000028
  | .SEC_TKEY => 0x1000100
  | .SEC_TSTAT => 0x1001000
  | .SEC_GSTAT => 0x1003000
  | .PWR_STATUS => 0x1100000
  | .PWR_CTL => 0x1100008
  | .PWR_MEAS => 0x1100010
  | .PWR_THERM => 0x1100018
  | .PWR_RST => 0x1100020
  | .PWR_BOOT => 0x1100028
  | .PWR_DTIME => 0x1100040
  | .PWR_DTSET => 0x1100048
  | .PWR_DTCTL => 0x1100050
  | .PWR_DTOFF => 0x1100058
  | .PWR_CLK => 0x1101000
  | .CXL_PORTCFG => 0x1200000
  | .CXL_LINKCFG => 0x1200040
  | .CXL_LINKST => 0x1200080
  | .CXL_PLAIN => 0x1200100
  | .CXL_SF => 0x1200108
  | .CXL_ORPH => 0x1200110
  | .CXL_ORPHQ => 0x1200118
  | .CXL_ORPHE0 => 0x1200120
  | .CXL_ORPHE1 => 0x1200128
  | .CXL_CNT => 0x1200130
  | .CXL_VW => 0x1210000
  | .GW_CTL => 0x1220000
  | .GW_RADDR => 0x1220008
  | .GW_FLADDR => 0x1220010
  | .GW_ST => 0x1220018
  | .LOG_CTL => 0x1300000
  | .LOG_PTR => 0x1300008
  | .LOG_RDIDX => 0x1300010
  | .LOG_REC => 0x1300018
  | .LOG_SEV => 0x1300038
  | .LOG_HEALTH0 => 0x1300100

/-- The copies of each register: the count and the stride in bytes of each of its indices (R744). -/
def RegKind.dims : RegKind → List (Nat × Nat)
  | .PAT_MEAS => [(6, 8)]
  | .PAT_BASE => [(6, 8)]
  | .PANEL_STATE => [(64, 8)]
  | .PANEL_RPD => [(64, 8)]
  | .TNT_CTRL => [(1024, 128)]
  | .TNT_STATE => [(1024, 128)]
  | .TNT_BIND => [(1024, 128)]
  | .TNT_GRP => [(1024, 128)]
  | .TNT_QUOTA => [(1024, 128)]
  | .TNT_CRED => [(1024, 128)]
  | .TNT_USE0 => [(1024, 128)]
  | .TNT_USE1 => [(1024, 128)]
  | .TNT_ERR => [(1024, 128)]
  | .SG_CFG => [(256, 32)]
  | .SG_QUOTA => [(256, 32)]
  | .SG_USE0 => [(256, 32)]
  | .SG_USE1 => [(256, 32)]
  | .HRT_CTL => [(4096, 32)]
  | .HRT_BASE => [(4096, 32)]
  | .HRT_LIMIT => [(4096, 32)]
  | .HRT_DENY => [(16, 8)]
  | .WHL_HOSTLIM => [(16, 8)]
  | .SPL_CFG => [(1024, 8)]
  | .SPL_SQS => [(1024, 64), (4, 16)]
  | .SPL_SQE => [(1024, 64), (4, 16)]
  | .SPL_CQS => [(1024, 16), (2, 8)]
  | .PFX_NODE => [(5, 8)]
  | .CAM_BANK => [(32, 8)]
  | .PGT_PRB => [(4, 8)]
  | .CDR_TRIGHTS => [(16, 8)]
  | .CDR_GREF => [(4, 8)]
  | .CDR_HIST => [(256, 8)]
  | .ATN_PANEL => [(64, 8)]
  | .SNL_LINK => [(2, 8)]
  | .SNL_LERR => [(2, 8)]
  | .SNL_CTX_CTL => [(256, 32)]
  | .SNL_CTX_ST => [(256, 32)]
  | .SNL_CTX_DL => [(256, 32)]
  | .SNL_CTX_TAIL => [(256, 32)]
  | .SNL_CTX_AGE => [(256, 8)]
  | .SHT_PORT => [(2, 8)]
  | .SHT_PORTST => [(2, 8)]
  | .SHT_MAC => [(2, 8)]
  | .SHT_NHMAC => [(2, 8)]
  | .SHT_IP6A => [(2, 16)]
  | .SHT_IP6B => [(2, 16)]
  | .SHT_IP4 => [(2, 8)]
  | .SHT_QPC => [(8, 8)]
  | .FLT_CH => [(32, 8)]
  | .FLT_TEMP => [(64, 8)]
  | .RAS_HBM => [(12, 8)]
  | .RAS_CORERET => [(4, 8)]
  | .SEC_TSTAT => [(1024, 8)]
  | .SEC_GSTAT => [(256, 8)]
  | .PWR_CLK => [(512, 8)]
  | .CXL_PORTCFG => [(4, 8)]
  | .CXL_LINKCFG => [(8, 8)]
  | .CXL_LINKST => [(8, 8)]
  | .CXL_VW => [(1024, 8)]
  | .GW_CTL => [(64, 32)]
  | .GW_RADDR => [(64, 32)]
  | .GW_FLADDR => [(64, 32)]
  | .GW_ST => [(64, 32)]
  | .LOG_REC => [(4, 8)]
  | _ => []

/-- Every register name, in the order of R744. -/
def RegKind.all : List RegKind :=
  [RegKind.GLB, RegKind.GLB_CFG, RegKind.GLB_ID, RegKind.GLB_SERIAL, RegKind.GLB_STATUS, RegKind.GLB_UA, RegKind.PAT_STATUS, RegKind.PAT_VERSION]
  ++ [RegKind.PAT_PROGRESS, RegKind.PAT_ERRDET, RegKind.PAT_EVT, RegKind.PAT_MEAS, RegKind.PAT_BASE, RegKind.PANEL_STATE, RegKind.PANEL_RPD, RegKind.TNT_CTRL]
  ++ [RegKind.TNT_STATE, RegKind.TNT_BIND, RegKind.TNT_GRP, RegKind.TNT_QUOTA, RegKind.TNT_CRED, RegKind.TNT_USE0, RegKind.TNT_USE1, RegKind.TNT_ERR]
  ++ [RegKind.SG_CFG, RegKind.SG_QUOTA, RegKind.SG_USE0, RegKind.SG_USE1, RegKind.HRT_CTL, RegKind.HRT_BASE, RegKind.HRT_LIMIT, RegKind.HRT_SYNC]
  ++ [RegKind.HRT_DENY, RegKind.WHL_HOSTLIM, RegKind.SPL_CFG, RegKind.SPL_SQS, RegKind.SPL_SQE, RegKind.SPL_CQS, RegKind.SPL_DEV, RegKind.SPL_ERRCNT]
  ++ [RegKind.PFX_CFG, RegKind.PFX_USE, RegKind.PFX_IDX, RegKind.PFX_IDXUSE, RegKind.PFX_CNT0, RegKind.PFX_CNT1, RegKind.PFX_NODEQ, RegKind.PFX_NODE]
  ++ [RegKind.CAM_CFG, RegKind.CAM_REVMASK, RegKind.CAM_CNT, RegKind.CAM_BANK, RegKind.PGT_HBM, RegKind.PGT_DIRTY, RegKind.PGT_TIER, RegKind.PGT_RECOV]
  ++ [RegKind.PGT_CNT0, RegKind.PGT_CNT1, RegKind.PGT_DLV, RegKind.PGT_VC, RegKind.PGT_PAGEQ, RegKind.PGT_PAGE0, RegKind.PGT_PAGE1, RegKind.PGT_PRB]
  ++ [RegKind.CDR_TRIGHTS, RegKind.CDR_GENQ, RegKind.CDR_GENS, RegKind.CDR_GREF, RegKind.CDR_RETIRE, RegKind.CDR_EVT, RegKind.CDR_CSTAT0, RegKind.CDR_CSTAT1]
  ++ [RegKind.CDR_CORRUPT, RegKind.CDR_HCFG, RegKind.CDR_HSTAT, RegKind.CDR_HIST, RegKind.ATN_CNT0, RegKind.ATN_CNT1, RegKind.ATN_ELEM, RegKind.ATN_FAIL]
  ++ [RegKind.ATN_WAIT, RegKind.ATN_PANEL, RegKind.SNL_CFG, RegKind.SNL_RING, RegKind.SNL_LINK, RegKind.SNL_LERR, RegKind.SNL_CASC, RegKind.SNL_CTX_CTL]
  ++ [RegKind.SNL_CTX_ST, RegKind.SNL_CTX_DL, RegKind.SNL_CTX_TAIL, RegKind.SNL_CTX_AGE, RegKind.SHT_CFG, RegKind.SHT_PORT, RegKind.SHT_PORTST, RegKind.SHT_MAC]
  ++ [RegKind.SHT_NHMAC, RegKind.SHT_IP6A, RegKind.SHT_IP6B, RegKind.SHT_IP4, RegKind.SHT_QPQ, RegKind.SHT_QPC, RegKind.SHT_QPST0, RegKind.SHT_QPST1]
  ++ [RegKind.SHT_CNT0, RegKind.SHT_CNT1, RegKind.SHT_CNT2, RegKind.SHT_CNT3, RegKind.FLT_GEOM, RegKind.FLT_CAP, RegKind.FLT_SPACE, RegKind.FLT_GCCNT]
  ++ [RegKind.FLT_WEAR, RegKind.FLT_SPARE, RegKind.FLT_ERR0, RegKind.FLT_ERR1, RegKind.FLT_PF, RegKind.FLT_SHRED, RegKind.FLT_CH, RegKind.FLT_TEMP]
  ++ [RegKind.RAS_STATUS, RegKind.RAS_REPL, RegKind.RAS_CTL, RegKind.RAS_REBUILD, RegKind.RAS_SCRUB, RegKind.RAS_POISON, RegKind.RAS_HBM, RegKind.RAS_CORERET]
  ++ [RegKind.SEC_LC, RegKind.SEC_FW, RegKind.SEC_FLOOR, RegKind.SEC_PATFLOOR, RegKind.SEC_CAL, RegKind.SEC_NVS, RegKind.SEC_TKEY, RegKind.SEC_TSTAT]
  ++ [RegKind.SEC_GSTAT, RegKind.PWR_STATUS, RegKind.PWR_CTL, RegKind.PWR_MEAS, RegKind.PWR_THERM, RegKind.PWR_RST, RegKind.PWR_BOOT, RegKind.PWR_DTIME]
  ++ [RegKind.PWR_DTSET, RegKind.PWR_DTCTL, RegKind.PWR_DTOFF, RegKind.PWR_CLK, RegKind.CXL_PORTCFG, RegKind.CXL_LINKCFG, RegKind.CXL_LINKST, RegKind.CXL_PLAIN]
  ++ [RegKind.CXL_SF, RegKind.CXL_ORPH, RegKind.CXL_ORPHQ, RegKind.CXL_ORPHE0, RegKind.CXL_ORPHE1, RegKind.CXL_CNT, RegKind.CXL_VW, RegKind.GW_CTL]
  ++ [RegKind.GW_RADDR, RegKind.GW_FLADDR, RegKind.GW_ST, RegKind.LOG_CTL, RegKind.LOG_PTR, RegKind.LOG_RDIDX, RegKind.LOG_REC, RegKind.LOG_SEV]
  ++ [RegKind.LOG_HEALTH0]

end Sys2Proof.Machine
end

