-- ==== Sys2Proof/Machine/Types.lean ====
section
/-!
DEFINITION. The kinds of plain data that State holds beside the registers, chapter by chapter.
-/
namespace Sys2Proof.Machine

/-! ### LOG, events and pins (chapters 13, 16, 17) -/

/-- A LOG record (R737). `tenant` is none where TENV is 0. -/
structure LogRec where
  dtime : Nat
  count : Nat
  island : Nat
  tenant : Option Nat
  sev : Nat
  code : Nat
  arg0 : Nat
  arg1 : Nat
  deriving DecidableEq, Repr

/-- A record of the fault capsule's first ring (R602): its log (1 Warning, 2 Failure, 3 Fatal), code and time, with
the rest of the event it copies. R603: no byte of a page, token, cell, plain region or key is in it. -/
structure CapRec where
  level : Nat
  code : Nat
  island : Nat
  addr : Nat
  dtime : Nat
  deriving DecidableEq, Repr

/-- A state snapshot of the capsule's second ring (R602), by the registers it copies. -/
structure CapSnap where
  rasStatus : Word
  glbStatus : Word
  patStatus : Word
  clocks : List Nat
  lostMap : Nat
  retired : List Word
  flash : List Word
  meas : List Byte
  dtime : Nat
  deriving DecidableEq, Repr

/-- A CXL event record (R475, R601): the log it stands in (0 Informational, 1 Warning, 2 Failure, 3 Fatal), its type,
its code and the fields of R601. -/
structure EventRec where
  handle : Nat
  log : Nat
  code : Nat
  island : Nat
  stack : Nat
  cause : Nat
  addr : Nat
  dtime : Nat
  count : Nat
  deriving DecidableEq, Repr

/-! ### The pattern (chapter 02) -/

/-- A tile plan's entry (R346): core counts and bound scale. -/
structure Plan where
  c0 : Nat
  c1 : Nat
  scale : Nat
  place : Nat
  deriving DecidableEq, Repr

/-- A panel of a pattern: its header (R55), plans (R345, R346), reduction plan record (R347), coder entries (R324), bias tables (R350)
and tenant templates. `plans` holds the main plan first. -/
structure PanelCfg where
  num : Nat
  hdr : List Word
  plans : List Plan
  planRec : List Byte
  /-- One table of code lengths for each tensor, empty where the tensor is uncoded (R324). -/
  tables : List (List Nat)
  /-- T[0..4095] and SLOPE of each query head, as FP32 bits (R350). -/
  bias : List (List Nat × Nat)
  templates : List (List Word)
  digest : List Byte
  deriving DecidableEq, Repr

/-- A whole pattern as the sections of its image give it (R46, R49). -/
structure Pattern where
  fmtver : Nat
  ifgen : Nat
  stepset : Word
  svn : Nat
  signer : Nat
  /-- KEYID of the signature it was accepted under (R66). -/
  keyId : List Byte
  compat : Bool
  island : List Word
  partition : List (Nat × Nat)
  routes : List Byte
  swizzle : List Byte
  wheels : List (List Nat)
  policy : List Word
  panels : List PanelCfg
  baseDig : List Byte
  deriving DecidableEq, Repr

/-- The staging buffer (R74): disjoint pieces by offset. -/
abbrev Staging := NMap (List Byte)

/-- A directory entry (R47). -/
structure DirEntry where
  type : Nat
  panel : Nat
  off : Nat
  len : Nat
  deriving DecidableEq, Repr

/-- An image as it is read: its header's 32 words and its directory (R46, R47). -/
structure Image where
  st : Staging
  hdr : List Word
  dir : List DirEntry
  deriving DecidableEq, Repr

/-- How far an ACTIVATE is (R76, R77, R80): PAT_STATUS.STATE 2 to 5 of a PATTERN_LOAD. -/
inductive LoadPhase where
  | validating | quiescing | programming | restoring
  deriving DecidableEq, Repr

/-- A load or swap under way (R75): which, the image as it was staged at ACTIVATE, its pattern, and how far it is. -/
structure LoadRun where
  swap : Bool
  panel : Nat
  src : Image
  image : Pattern
  phase : LoadPhase
  deriving DecidableEq, Repr

/-- A core of the part: which panel has it (R51), and whether it is in use by the panel's plan. -/
structure CoreRec where
  enabled : Bool
  retired : Bool
  panel : Option Nat
  deriving DecidableEq, Repr

/-! ### Hosts and shares of bandwidth (chapter 03) -/

/-- A host's token bucket (R126). Tokens are kept in thousandths, so that a rate per µs times a time in ns stays whole. -/
structure Bucket where
  milli : Nat
  last : Nat
  /-- Requests held, oldest first: the request and its port (R126, R127). -/
  held : List (Nat × Nat)
  /-- How long the bucket was empty in the current window, in ns (R129). -/
  emptyNs : Nat
  /-- The bucket's level of the last completed window, as a DevLoad code (R129). -/
  level : Nat
  deriving DecidableEq, Repr

/-- What a request at a memory controller is made for (R124): a tenant's attention reads, COMMIT writes, view-window loads and stores, DELIVER staging and pushes; an
access to a plain region under a host range entry; a background promotion, demotion or stash (R252) in the name of a holder, a tenant or 1,024 + a group; steward
metadata, tree walks and the journal; scrub and rebuild. -/
inductive Traffic where
  | attention (tenant : TenantId)
  | commit (tenant : TenantId)
  | view (tenant : TenantId)
  | deliver (tenant : TenantId)
  | plain (entry : Fin 4096)
  | background (holder : Fin 1280)
  | stewardMeta
  | maint
  deriving DecidableEq, Repr

/-- A request that waits at a memory controller: its class (0-7 BC, 8 METADATA, 9 MAINT) and when it arrived. -/
structure SlotReq where
  cls : Nat
  arrived : Nat
  deriving DecidableEq, Repr

/-- A memory controller's wheel: its position, its waiting requests, oldest first, and the slots that served each BC in the
current window (R123, R128). -/
structure WheelState where
  slot : Nat
  waiting : List SlotReq
  served : List Nat
  deriving DecidableEq, Repr

/-! ### Spools (chapter 04) -/

/-- A submission spool beside its registers: the held cells by sequence number, the partly written cells by aperture
slot, the sequence number of the next command's first cell, the command in cut-through decode, and the turns of its tenant in
which it was passed over (R150). -/
structure Spool where
  cells : NMap (List Word)
  part : NMap (List (Option Byte))
  pos : Nat
  cutting : Option Nat
  passed : Nat
  /-- Commands cancelled for missing cells whose place the decode position has not passed: the first cell's sequence number, and the command's cells (R151, R165). -/
  dropped : NMap Nat
  deriving DecidableEq, Repr

/-! ### Plain regions (chapter 10) -/

/-- A line of the snoop filter (R452): its number (DPA divided by 64), the hosts that share it and the host that holds it exclusive. -/
structure SfLine where
  line : Nat
  sharers : List Nat
  excl : Option Nat
  deriving DecidableEq, Repr

/-- The back-invalidate snoops (R453), and the BISnpInv of a release, whose data is discarded (R447). -/
inductive SnpKind where
  | inv | data | cur | release
  deriving DecidableEq, Repr

/-- A back-invalidate snoop that waits for its host's answer, and the command it was sent for, if it was sent for one. -/
structure Snoop where
  line : Nat
  host : Nat
  kind : SnpKind
  uid : Option Nat
  deriving DecidableEq, Repr

/-- What a request does to its line (R453). -/
inductive LineOp where
  | readShared | readExcl | readCur
  | write (bytes : List (Option Byte))
  deriving DecidableEq, Repr

/-- A request at a plain-region line: its host (none: an engine of the part), what it does, and, once its turn has come (R454), the snoops it waits for; the class of
the host range entry it came under (R124). -/
structure LineReq where
  host : Option Nat
  line : Nat
  op : LineOp
  started : Bool
  awaits : List (Nat × Nat)
  cls : Option Nat := none
  /-- The part's count of commands taken when it was accepted (R117). -/
  no : Nat := 0
  deriving DecidableEq, Repr

/-- How far a dynamic-capacity extent is (R446, R447). -/
inductive ExtState where
  | adding | added | releasing
  deriving DecidableEq, Repr

/-- A dynamic-capacity extent (R444): its 16-byte tag, the hosts it is added to, and, while it is being added, since when. -/
structure Extent where
  tag : Nat
  hosts : List Nat
  st : ExtState
  since : Nat
  deriving DecidableEq, Repr

/-- An entry of the orphan log (R458). -/
structure OrphanRec where
  line : Nat
  host : Nat
  dtime : Nat
  deriving DecidableEq, Repr

/-! ### The Prefix store, pages and generations (chapters 05, 06, 07) -/

/-- The state of a page (R240). -/
inductive PState where
  | none | raw | dirty | clean | flash | staging | dropped | poisoned
  deriving DecidableEq, Repr

/-- The code of a page state (R240). -/
def PState.code : PState → Nat
  | .none => 0 | .raw => 1 | .dirty => 2 | .clean => 3 | .flash => 4 | .staging => 5 | .dropped => 6 | .poisoned => 7

/-- A delivery hold (R266): the DELIVER that placed it while that runs, and the DTIME at which it ends after that. -/
structure Hold where
  uid : Option Nat
  ends : Nat
  deriving DecidableEq, Repr

/-- A page of a chunk: its state, its frame, its form, its access counter (R249), its trim mask, sub-block accumulators and pass count (R260),
its holds, and its image on flash (R252). -/
structure Page where
  st : PState
  frame : Option Nat
  /-- The recovery form it is stored in, none for the profile's own formats (R262, R263). -/
  recov : Option Nat
  ctr : Nat
  mask : Nat
  acc : List Nat
  passes : Nat
  holds : List Hold
  image : Option Nat
  /-- The rank of its flash read while it is STAGING (R268): (0, deadline or moment of demand), or (1, the number of a DELIVER without a deadline). -/
  want : Option (Nat × Nat)
  deriving DecidableEq, Repr

/-- A chunk (R180, R240): basted, or committed with its node. `ns` is the namespace of a linked node; `hollowAt` is when it was made hollow (R254 takes the
longest-hollow first); `charge` is the holder its resources are charged to: a tenant, or 1,024 + a group (R112). (log entry 40, DEDUCED) -/
structure Chunk where
  committed : Bool
  tenant : Nat
  charge : Nat
  prof : Nat
  depth : Nat
  parent : Option Nat
  spanlen : Nat
  fill : Nat
  rev : Nat
  key : Word
  ns : Option Nat
  linked : Bool
  indexed : Bool
  /-- The bucket of the tree index its entry lies in; none with `indexed` is the stash (R191). -/
  bucket : Option Nat
  hotroot : Bool
  acc : Nat
  sl : List Nat
  tokens : List Token
  tokPoison : Bool
  /-- The serial of its token block (R627). -/
  tokSerial : Nat
  isVolatile : Bool
  hollow : Bool
  hollowAt : Nat
  pages : List Page
  deriving DecidableEq, Repr

/-- A sequence (R179): its tenant and its chain of chunk handles. -/
structure Seq where
  tenant : Nat
  chain : List Nat
  deriving DecidableEq, Repr

/-- Pins of one tenant on one chunk (R213): all of them, and the resident ones among them. -/
structure PinRec where
  plain : Nat
  resident : Nat
  deriving DecidableEq, Repr

/-- What a frame holds (R234, R238): the bytes of a raw page, or the page's list of CLEN by block number (0: omitted, R261,
R307) with its coding blocks in order. A poisoned raw frame reads as poison. (log entry 10, DEDUCED) -/
inductive FrameBody where
  | raw (bytes : Memory) (poison : Bool)
  | coded (clens : List Nat) (blocks : List Block)
  deriving DecidableEq, Repr

/-- What an image is encrypted under beside its holder's key (R626): the chunk it was first written for, the layer, and its serial (R627). -/
structure ImgTag where
  origin : Nat
  layer : Nat
  serial : Nat
  deriving DecidableEq, Repr

/-- Whether a frame holds ciphertext written anew for a page, or a copy that keeps what it was encrypted under (R627). -/
inductive TagFrom where
  | fresh (origin layer : Nat)
  | kept (tag : ImgTag)
  deriving DecidableEq, Repr

/-- A frame (R235), keyed by its first data granule: its charged granules, its epoch (R219), the chunk whose holder it is charged to, what it is encrypted under, and
its content. -/
structure Frame where
  ngran : Nat
  epoch : Nat
  owner : Nat
  tag : ImgTag
  body : FrameBody
  deriving DecidableEq, Repr

/-- Codewords of an image that lie in one stripe: the erase unit, how many, and the position of the first in its stripe (R537, R538). -/
structure Place where
  unit : Nat
  cw : Nat
  pos : Nat
  deriving DecidableEq, Repr

/-- A page's image on flash (R252, R536): the page, its list of CLEN, its blocks and its form. -/
structure FlashImage where
  handle : Nat
  layer : Nat
  clens : List Nat
  blocks : List Block
  recov : Option Nat
  mask : Nat
  /-- What it is encrypted under (R536, R627). -/
  tag : ImgTag
  /-- Where its codewords lie, stripe by stripe (R537, R538). -/
  places : List Place
  /-- Every stripe has programmed with pass status, so that its STASH record has been created (R543). -/
  progd : Bool
  /-- Its STASH or MOVE record is durable (R544). -/
  durable : Bool
  deriving DecidableEq, Repr

/-! ### Flash (chapter 12) -/

/-- What the ID and the parameter page of a target that answers say (R531, R532): its channel and chip enable; the ONFI revision in tenths, and whether its interface is
NV-LPDDR4; the data and spare bytes of a plane page; planes of a LUN, and whether they are read, programmed and erased together; LUNs; the cell type (1 TLC, 2 QLC), and
whether Set Features selects SLC mode per block; tR, tPROG native and SLC, tBERS and the longest suspend latency, in ns; pages per block and blocks per plane; the rated
native endurance, the rate in MT/s, and the temperature in °C. -/
structure FlashFound where
  ch : Nat
  ce : Nat
  onfi : Nat
  lpddr4 : Bool
  page : Nat
  spare : Nat
  planes : Nat
  multiPlane : Bool
  luns : Nat
  cell : Nat
  slcMode : Bool
  tR : Nat
  tProg : Nat
  tProgSlc : Nat
  tBers : Nat
  tSuspend : Nat
  ppb : Nat
  bpp : Nat
  endur : Nat
  rate : Nat
  temp : Int
  deriving DecidableEq, Repr

/-- A flash target in service, or taken out of it (R531, R532, R561): its channel and chip enable, its LUNs, its rate in MT/s, its temperature now and at its last
training, in °C (R530, R565), and whether its last operation has timed out (R561). -/
structure FlashTarget where
  ch : Nat
  ce : Nat
  luns : Nat
  rate : Nat
  inService : Bool
  temp : Int
  trained : Int
  late : Bool
  deriving DecidableEq, Repr

/-- What the targets in service have in common and how their erase units were divided at first mount (R532, R534): cell type (1 TLC, 2 QLC), pages per block, blocks
per plane, LUNs of the first target, rated endurance, the units of each area, and the units by which C has fallen since (R548). -/
structure FlashGeo where
  cell : Nat
  ppb : Nat
  bpp : Nat
  luns : Nat
  endur : Nat
  targets : List FlashTarget
  sysUnits : Nat
  spareUnits : Nat
  cacheUnits : Nat
  lost : Nat
  deriving DecidableEq, Repr

/-- An erase unit (R534, R547, R562): its mode, erase count, key holders since its last erase, codewords written, the stream it is open for, whether it is on
the pending-erase list, has failed, is retired, or is a spare that replaces a retired unit; and when it was last programmed (R550). -/
structure EraseUnit where
  slc : Bool
  ec : Nat
  holders : List Nat
  overflow : Bool
  written : Nat
  opened : Option Nat
  pend : Bool
  failed : Bool
  retired : Bool
  promoted : Bool
  lastProg : Nat
  deriving DecidableEq, Repr

/-- A stream of page images (R538): the channel of its current stripe, and the codewords already in that stripe. -/
structure Stream where
  chan : Nat
  fill : Nat
  deriving DecidableEq, Repr

/-- States of a coder generation (R313). -/
inductive GenState where
  | current | old | retiring
  deriving DecidableEq, Repr

/-- A live generation of a tensor (R313): its number, its code lengths and its state. -/
structure Gen where
  num : Nat
  table : List Nat
  st : GenState
  deriving DecidableEq, Repr

/-- A view load that waits for its page's staging (R246): the host and the size. -/
structure ViewWait where
  host : Nat
  size : Nat
  /-- What it resolved to when it was taken (R245): the window's tenant, the chunk, the layer and the byte of the raw page. -/
  tenant : Nat
  handle : Nat
  layer : Nat
  byte : Nat
  /-- The part's count of commands taken when it was accepted (R117). -/
  no : Nat
  deriving DecidableEq, Repr

/-- A line of the view cache (R247): the frame and epoch it is tagged with, and its block. -/
structure ViewLine where
  die : Nat
  frame : Nat
  epoch : Nat
  block : Nat
  deriving DecidableEq, Repr

/-- What a Read Status Enhanced reports (R533, R559): a stripe of the image that a page is being stashed as has programmed, or failed on a unit; the codewords of a
page's image that a read found corrected by hard decoding, by read-retry or soft decoding, and uncorrectable; a target's operation timed out after 50 ms. -/
inductive FlashOp where
  | programmed (handle layer : Nat)
  | programFailed (handle layer unit : Nat)
  | read (handle layer hard soft uncorr : Nat)
  | timeout (ch ce : Nat)
  deriving DecidableEq, Repr

/-- What the flash journal holds of the metadata (R544, R682): everything as of the last durable records. -/
structure Saved where
  regs : NMap Word
  chunks : NMap Chunk
  seqs : NMap Seq
  pins : NMap PinRec
  images : NMap FlashImage
  gens : NMap (List Gen)
  geom : NMap Word
  deriving DecidableEq, Repr

/-- What a member of a CAM cascade answered for a search (R196, R422): a hit at a ring position with a handle, or a miss. -/
inductive CascAnswer where
  | miss
  | hit (pos handle : Nat)
  deriving DecidableEq, Repr

/-- What a COMMIT carries from its checks to the unit that links it (R204 to R207): the chosen namespace (none: unlinked), the key,
the tokens, and the generations each layer's two halves were taken under (R316). -/
structure CommitWork where
  seq : Nat
  chunk : Nat
  ns : Option Nat
  key : Word
  rev : Nat
  dedup : Bool
  tokens : List Token
  gens : List (Option Nat × Option Nat)
  /-- The recovery form in force when coding began (R262). -/
  recov : Option Nat
  deriving DecidableEq, Repr

/-- A DELIVER under way (R266 to R269): its chunks in order; the positions in that order that were hollow, not reached, not pushed for a mask or an unreadable page, and
without room for their remaining pages; the pages still to be pushed, as (position, layer); the last address written; and whether the closing read has been issued. -/
structure DeliverWork where
  handles : List Nat
  hollow : List Nat
  lost : List Nat
  unpushed : List Nat
  noRoom : List Nat
  toPush : List (Nat × Nat)
  last : Option Nat
  closing : Bool
  deriving DecidableEq, Repr

/-- What an attention command resolved a page to (R217, R353, R363): a hollow chunk, a page never written, a frame it has pinned, a page whose content is lost, or a page
on flash whose promotion it waits for. -/
inductive AttSrc where
  | hollow | zero | poison | wait
  | frame (f : Nat)
  deriving DecidableEq, Repr

/-- A chunk of an attention command's window: its handle, its first position and its positions, and its page as resolved, with the form and trim mask it had then. -/
structure AttPage where
  handle : Nat
  start : Nat
  len : Nat
  src : AttSrc
  recov : Option Nat
  mask : Nat
  deriving DecidableEq, Repr

/-- One sequence of an attention command: its window and query position, whether a chunk in its window was hollow at decode (R372), its pages, the queries once read, and the
result it has failed with. -/
structure AttSeq where
  hollow : Bool
  wfirst : Nat
  wend : Nat
  qpos : Nat
  pages : List AttPage
  queries : List Byte
  failed : Option (Nat × Nat)
  deriving DecidableEq, Repr

/-- An attention command under way (R363 to R365): its layer, its sequences, when the panel took it, and whether a page was promoted on demand for it. -/
structure AttWork where
  layer : Nat
  seqs : List AttSeq
  taken : Option Nat
  waited : Bool
  deriving DecidableEq, Repr

/-- A committed HDM decoder of a host function (R442): the range of the host's address space that it takes, its ways and granularity, and the DPA space skipped before
it. (log entry 111, PRESUMED) -/
structure HdmDecoder where
  base : Nat
  size : Nat
  ways : Nat
  gran : Nat
  skip : Nat
  deriving DecidableEq, Repr

/-- The protocols of a host function's DOE mailbox, in the order that DOE Discovery lists them (R473). -/
inductive DoeProto where
  | discovery | spdm | secured | cdat
  deriving DecidableEq, Repr

/-! ### The ring (chapter 09) -/

/-- A ring message (R395): its header's fields, its data, and the 64-byte lines of the data that are poisoned (R406). -/
structure RingMsg where
  mtype : Nat
  src : Nat
  dst : Nat
  ctx : Nat
  len : Nat
  didx : Nat
  off : Nat
  addr : Nat
  rtype : Nat
  status : Nat
  detail : Nat
  data : List Byte
  bad : List Nat
  deriving DecidableEq, Repr

/-- What an RATT_HDR carries (R415). -/
structure RattHdr where
  ctx : Nat
  src : Nat
  rtag : Nat
  memmask : Nat
  layer : Nat
  kvh0 : Nat
  nkvh : Nat
  lbase : Nat
  extent : Nat
  lastq : Nat
  prof : Nat
  rpdig : List Byte
  biasdig : List Byte
  deriving DecidableEq, Repr

/-- One chunk's page of a member's share (R416): its first position in the share and its positions, expanded to raw, with its mask and stored form. -/
structure RattBlock where
  ctx : Nat
  origin : Nat
  rtag : Nat
  start : Nat
  len : Nat
  hollow : Bool
  poison : Bool
  recov : Option Nat
  mask : Nat
  bytes : List Byte
  deriving DecidableEq, Repr

/-- What travels on the ring (R395): a bulk message, a header or a block of RING_ATTEND, a CAM search of a member with its ring and cascade positions, a CAM hit to its
originator, or a ring check with the position it left last and whether every position was in order so far (R392). -/
inductive RingItem where
  | msg (m : RingMsg)
  | hdr (dst : Nat) (h : RattHdr)
  | block (b : RattBlock)
  | camSearch (src cpos uid : Nat) (word : List Word)
  | camHit (dst uid pos handle : Nat)
  | check (src last : Nat) (ok : Bool)
  deriving DecidableEq, Repr

/-- A ring link beside SNL_LINK and SNL_LERR (R387, R388, R393, R717): the FSEQ it expects; the FSEQ of the next frame it sends; what it has sent and the other end has not
acknowledged, oldest first: the first FSEQ, the frames and the item (its replay buffer); the credits of each class; the frame last asked for again and how often in a row;
whether its cable is present, and whether its handshake has passed. (log entry 52, DESIGN CHOICE; log entry 53, PRESUMED) -/
structure RingLink where
  rxNext : Nat
  txNext : Nat
  sent : List (Nat × Nat × RingItem)
  credits : List Nat
  replayAt : Nat
  replays : Nat
  cable : Bool
  passed : Bool
  deriving DecidableEq, Repr

/-- A descriptor outstanding in a ring context (R404 to R406): what is left to confirm, by offset in 64-byte units, since when, and its result once it has ended. -/
structure RingDesc where
  idx : Nat
  op : Nat
  peer : Nat
  rtype : Nat
  len : Nat
  laddr : Nat
  raddr : Nat
  left : List Nat
  since : Nat
  res : Option (Nat × Nat)
  deriving DecidableEq, Repr

/-- A ring context beside its registers: outstanding descriptors, headers and blocks of RING_ATTEND that have come, and the detail of its abort (R402). -/
structure RingCtx where
  descs : List RingDesc
  hdrs : List RattHdr
  blocks : List RattBlock
  why : Nat
  deriving DecidableEq, Repr

/-- A ring message that waits for the lines it reads or writes (R453): its job number and the link it came by. -/
structure RingHeld where
  job : Nat
  link : Nat
  msg : RingMsg
  deriving DecidableEq, Repr

/-- A cascade search that waits for its originator's slot (R421): the originator's ring position and cascade position, its command, its word, and when it was broadcast.
`done` is true once the slot has come. -/
structure CamReq where
  src : Nat
  cpos : Nat
  uid : Nat
  word : List Word
  sentAt : Nat
  done : Bool
  deriving DecidableEq, Repr

/-! ### The Shuttle transport and gateway windows (chapters 10 and 11) -/

/-- A Shuttle packet (R491): the fields of its header and extension, its payload (as plaintext, R493) and its ICV. `seq` is MSN, NSN or CPSN. -/
structure ShPkt where
  typ : Nat
  enc : Bool
  retx : Bool
  dqpn : Nat
  sqpn : Nat
  psn : Nat
  seq : Nat
  off : Nat
  sack : Nat
  tlen : Nat
  code : Nat
  txc : Nat
  raddr : Nat
  op : Nat
  rtype : Nat
  payload : List Byte
  icv : Nat
  deriving DecidableEq, Repr

/-- What carries a received Shuttle packet, and what its header says of itself (R489, R491): the IP version, the destination address, lowest-numbered byte in bits [7:0], the
UDP ports and checksum; VER, EXT and PAYLEN. -/
structure ShWire where
  v6 : Bool
  dst : Nat
  sport : Nat
  dport : Nat
  sum : Nat
  ver : Nat
  ext : Bool
  paylen : Nat
  deriving DecidableEq, Repr

/-- The frame that a Shuttle packet leaves in (R487 to R489): MAC addresses, the VID and PCP of its tag if it has one, the DSCP, the IP version and addresses, the UDP ports
and checksum. -/
structure ShFrame where
  dmac : Nat
  smac : Nat
  tag : Option (Nat × Nat)
  dscp : Nat
  v6 : Bool
  src : Nat
  dst : Nat
  sport : Nat
  dport : Nat
  sum : Nat
  deriving DecidableEq, Repr

/-- A work request that has been taken (R497): its fields, its NSN, the PSNs it waits for, and, where a gateway window issued it, the window and the page (R506). -/
structure QpWr where
  idx : Nat
  op : Nat
  lkind : Nat
  rtype : Nat
  len : Nat
  wrid : Nat
  laddr : Nat
  raddr : Nat
  opnd0 : Nat
  opnd1 : Nat
  waits : Option (Nat × Nat)
  nsn : Option Nat
  psns : List Nat
  gw : Option (Nat × Nat)
  deriving DecidableEq, Repr

/-- A packet sent and not acknowledged: its retransmissions, the NAK RNRs it has had in a row, and whether it waits for a retry timer (R509, R510, R520). -/
structure QpSent where
  pkt : ShPkt
  retries : Nat
  rnr : Nat
  waiting : Bool
  deriving DecidableEq, Repr

/-- A message being received (R517): its receive entry, its length, and the packets that have come. -/
structure QpRecv where
  msn : Nat
  addr : Nat
  kind : Nat
  wrid : Nat
  tlen : Nat
  got : List Nat
  deriving DecidableEq, Repr

/-- A completion that waits for its entry to be written (R498, R499). -/
structure QpComp where
  status : Nat
  op : Nat
  msn : Nat
  wrid : Nat
  result : Nat
  deriving DecidableEq, Repr

/-- A queue pair (R494 to R521): context, state, send and receive sequence numbers, rings' indices, work requests taken, packets to send and sent, messages
and packets being received, the response cache, FLUSHes to answer, and completions to write. -/
structure Qp where
  ctx : List Word
  st : Nat
  err : Nat
  snxt : Nat
  cpsn : Nat
  rcvd : List Nat
  lastRx : Nat
  unanswered : Nat
  msn : Nat
  nsn : Nat
  sqHead : Nat
  rqBase : Nat
  rqDone : List Nat
  cqTail : Nat
  scomp : Nat
  txc : Nat
  retry : Nat
  wrs : List QpWr
  stalled : Bool
  toSend : List ShPkt
  sent : List QpSent
  recvs : List QpRecv
  cache : List (Nat × Nat × Nat)
  held : List ShPkt
  faultNaks : NMap Nat
  flushes : List Nat
  comps : List QpComp
  deriving DecidableEq, Repr

/-- A buffer of a gateway window (R467): its page, its bytes, when its first store came, its number among the window's buffers; and once it ships, the runs not yet
issued. -/
structure GwBuf where
  page : Nat
  bytes : List (Option Byte)
  since : Nat
  num : Nat
  ship : Option (List (Nat × List Byte))
  deriving DecidableEq, Repr

/-- A doorbell of a gateway window (R468): its value, the number of the first buffer behind it, whether its FLUSH has been issued and has been answered. -/
structure GwBell where
  value : Nat
  before : Nat
  issued : Bool
  done : Bool
  deriving DecidableEq, Repr

/-- A gateway window beside its registers: buffers, doorbells, pages with a PUT unacknowledged, stores that wait, and the number of the next buffer. -/
structure Gateway where
  bufs : List GwBuf
  bells : List GwBell
  busy : List Nat
  held : List (Nat × List (Option Byte))
  next : Nat
  deriving DecidableEq, Repr

/-- A PTP event message (R490): its port and domain, and the offset of DTIME behind its source that the exchange it ends has found, in ns. -/
structure PtpMsg where
  port : Nat
  domain : Nat
  offset : Option Int
  deriving DecidableEq, Repr

/-! ### Identity, keys and firmware (chapter 14) -/

/-- A host function's TDI (R472): 0 CONFIG_UNLOCKED, 1 CONFIG_LOCKED, 2 RUN, 3 ERROR; the session it was last locked in, and the hash of that session's
requester's certificate chain (R633). -/
structure Tdi where
  st : Nat
  session : Nat
  req : List Byte
  deriving DecidableEq, Repr

/-- A secured SPDM session (R620): its function (0 to 15 by host ID, 16 the operator function, 17 MCTP), whether it was mutually authenticated, and the hash of the requester's
certificate chain (R633). -/
structure Session where
  fn : Nat
  mutualAuth : Bool
  req : List Byte
  deriving DecidableEq, Repr

/-- The Quamal vendor-defined requests that a session carries (R629). -/
inductive KeyReq where
  | tenantKey (tenant key : Nat)
  | tenantSeal (tenant ngrp grprw key : Nat) (groups : List Nat)
  | qpKey (qpn key : Nat)
  | groupHkey (group key : Nat)
  | sealQuery (tenant : Nat)
  | pqSign
  deriving DecidableEq, Repr

/-- What waits for a load to end (R76, R631): a write of TNT_CTRL with CONFIGURE, or a request with its session and when it came. -/
inductive HeldAct where
  | configure (tenant : Nat) (value : Word)
  | request (session : Nat) (req : KeyReq) (since : Nat)
  deriving DecidableEq, Repr

/-- The requests that a DOE mailbox carries in the clear (R473): the SPDM requests (R620, R622), which come over MCTP too: digests, a certificate chain, a challenge,
measurements, a session begun and ended; DOE Discovery, and CDAT Table Access by its entry. (log entry 88, DEDUCED) -/
inductive SpdmReq where
  | digests
  | certificate (slot : Nat)
  | challenge (slot : Nat) (nonce : List Byte)
  | measurements (index : Nat) (signed : Bool) (nonce : List Byte)
  | keyExchange (session : Nat) (mutualAuth : Bool) (chain : List Byte)
  | endSession (session : Nat)
  | doeDiscovery (index : Nat)
  | cdat (entry : Nat)
  deriving DecidableEq, Repr

/-- What a firmware slot that passes its checks declares (R646 to R648): the SVNs of its images; the interface generations and the format major versions that the pair's
manifest entry lists (R647); the digests of the MFW image, the FTF image and the manifest (R622). -/
structure FwPair where
  mfwSvn : Nat
  ftfSvn : Nat
  manSvn : Nat
  ifgens : List Nat
  majors : Nat
  digests : List (List Byte)
  deriving DecidableEq, Repr

/-! ### Faults and stewards (chapters 01 and 13) -/

/-- What patrol scrub finds in a row (R577 to R581, R585, R596): clean; corrected by link or on-die ECC; one granule uncorrectable, and whether its rewrite reads back;
parity that disagrees with the data of a row whose granules all read; a second granule of the row, on this stack, that is unreadable too; a metadata copy rewritten from its
mirror; metadata lost. -/
inductive ScrubResult where
  | clean | corrected
  | reconstructed (rewriteOk : Bool)
  | mismatch
  | unreadable (other : Nat)
  | mirrored | metadataLost
  deriving DecidableEq, Repr

/-- A row as patrol scrub finds it: the stack of the granule that the result names, a data granule of the row, and, where the row ends a pass, how many minutes the pass
took. -/
structure ScrubRow where
  stack : Nat
  granule : Nat
  result : ScrubResult
  passMin : Option Nat
  deriving DecidableEq, Repr

/-- A steward island's liveness (R39): heartbeats missed in a row, whether it is down, and when it was last reset, newest first. (log entry 18, DESIGN CHOICE) -/
structure Steward where
  missed : Nat
  down : Bool
  resets : List Nat
  deriving DecidableEq, Repr

/-! ### Power, resets and start-up (chapters 15 and 16) -/

/-- What holds the part (R661, R671 to R673, R679, R713, R714): its supplies are off; the system reference is absent; THERMTRIP_N is latched low; a power-fail flush has
been made; it is held in reset, until PERST# deasserts or the watchdog's reset goes on; start-up waits at phase 1 for PWR_FAIL_N; start-up has run up to media ready; or it runs. -/
inductive Stage where
  | off | noRef | tripped | flushed | held | waiting | starting | up
  deriving DecidableEq, Repr

/-- What the part remembers of its supplies, resets and clocks beside the PWR registers: PWR_FAIL_N low, and when it last went high (R713); whether the next start is
cold, its PWR_BOOT.CAUSE (R672, R693), and whether the last one was cold (R680); whether VDD_AON is newly powered (R715); the last flush, its duration in µs and whether every seal record was
written (R558); the offset that DTIME is slewing away and the part of a nanosecond it has gained, in 10^-9 ns (R665, R666); when the power cap last moved the
clocks (R669), and when the part became QUIET (R668). -/
structure Power where
  stage : Stage
  pfLow : Bool
  pfHigh : Nat
  cold : Bool
  cause : Nat
  coldStart : Bool
  aonFresh : Bool
  flushed : Bool
  flushUs : Nat
  sealWhole : Bool
  slew : Int
  frac : Nat
  capAt : Nat
  quietAt : Nat
  deriving DecidableEq, Repr

/-- What start-up finds outside the controller: whether the firmware of slots A and B starts in time once its images have passed (R648, check 9), the flash targets that answer, in ascending channel and chip-enable order (R532), whether the
boot copies A and B read back whole (R71, R72), and whether the metadata of a FAILED part is recoverable (R582). (log entry 99, DEDUCED) -/
structure StartIn where
  startsA : Bool
  startsB : Bool
  targets : List FlashFound
  bootA : Bool
  bootB : Bool
  metaOk : Bool
  deriving DecidableEq, Repr

/-- The instructions of the TAP (R719); `other` is any further code. -/
inductive JtagOp where
  | bypass | idcode | samplePreload | extest | clamp | highz | extestPulse | extestTrain
  | other (code : Nat)
  deriving DecidableEq, Repr

/-- The TAP (R719): the instruction in force, the boundary cells, and what drives the balls: 0 the part, 1 the cells, 2 nothing, 3 the cells in pulses, 4 in trains. -/
structure Jtag where
  op : JtagOp
  cells : List Bool
  balls : Nat
  deriving DecidableEq, Repr

/-- How far a command in execution is, by what its chapter makes it wait for. -/
inductive Work where
  /-- Not begun: its own row begins it. -/
  | ready
  /-- A LOOKUP that waits for the cascade, with the answers it has had (R196). -/
  | lookup (answers : List CascAnswer)
  | commit (w : CommitWork)
  /-- Waits for the pages of these chunks to be promoted (R213, R745). -/
  | promote (handles : List Nat)
  | deliver (w : DeliverWork)
  | attend (w : AttWork)
  /-- A RING_ATTEND (R415 to R419): its own pages, whether the partners' headers have been checked, and whether its blocks have been sent. -/
  | ring (w : AttWork) (checked sent : Bool)
  /-- A near-memory command (R465): its checks have passed; with its result (code, RESULT0, RESULT1) once its effect is done. `toHost` asks for a closing read. -/
  | near (res : Option (Nat × Word × Word)) (toHost : Bool)
  /-- An APPEND that has written some of its layers, whether one of them was poisoned (R243), and what each page it has written was before, with its raw frame's content:
a steward's reset brings that back (R39). -/
  | append (layers : Nat) (poisoned : Bool) (undo : List (Nat × Page × Option FrameBody))
  deriving DecidableEq, Repr

/-- A command in flight: taken from its spool and not yet completed (R149). `words` holds its cells, eight words each, as the decoder
took them; `full` is true once every cell has been taken; `early` is a result given at decode (R746, R72, R77, R83);
`cancel` is the detail of the CANCELLED that it takes at its next boundary (R77, R83, R130, R595). -/
structure Cmd where
  uid : Nat
  tenant : Nat
  sq : Nat
  cq : Nat
  opcode : Nat
  ncell : Nat
  tag : Nat
  seq : Nat
  words : List Word
  full : Bool
  early : Option (Nat × Nat)
  cancel : Option Nat
  since : Nat
  /-- Node handles it holds read pins on, and frames (R217). -/
  npins : List Nat
  fpins : List Nat
  /-- Lines whose BISnpCur for this command has been answered (R453). -/
  curDone : List Nat
  work : Work
  deriving DecidableEq, Repr

/-- A command that has its result and waits for its entry to be written (R158). `counted` is true where it was taken and is still
counted in flight. -/
structure Done where
  sq : Nat
  seq : Nat
  opcode : Nat
  ncell : Nat
  tag : Nat
  code : Nat
  r0 : Word
  r1 : Word
  counted : Bool
  deriving DecidableEq, Repr

/-- A completion spool: entries unread, commands whose entries wait for room, and the entries last consumed (R156, R158, R160).
Entries are four words; the newest replay entry is first. -/
structure CompSpool where
  unread : List (List Word)
  waiting : List Done
  replay : List (List Word)
  deriving DecidableEq, Repr

end Sys2Proof.Machine
end

