-- ==== Sys2Proof/Syntax.lean ====
section
/-!
DEFINITION. The commands of the LX-7212, one constructor for each row of the operation table, with what each
carries from outside the part. The docstring of each gives the rule that governs it.
-/
namespace Sys2Proof

open Machine

/-- One command: an access a host makes, a message or frame that arrives, a pin event, or a step of the part's own engines and firmware. -/
inductive Instr where
  /-- R139: A host write to a submission aperture slot assembles a 64-byte cell, which is captured into a bobbin cell at its sequence position once complete. -/
  | submissionCellWrite (host : HostId) (tenant : TenantId) (sq : Fin 4) (off : Fin 4096) (bytes : List Byte)
  /-- R142: An 8-byte doorbell write with RESET clear moves the spool's TAIL forward and announces commands. -/
  | doorbell (host : HostId) (tenant : TenantId) (sq : Fin 4) (size : Nat) (value : Word)
  /-- R165: A doorbell write with RESET set cancels every held command not fully decoded, frees held cells and sets NEXT and FREED to TAIL. -/
  | spoolReset (host : HostId) (tenant : TenantId) (sq : Fin 4) (tail : BitVec 16)
  /-- R149: The decoder takes a spool's next announced command once its threshold cells have arrived and the in-flight limits allow, and applies the spool-level checks. -/
  | commandDecode
  /-- R151: A command whose cells have not all arrived within 100 µs of its first cell completes CANCELLED and the spool enters ERROR. -/
  | commandCellsMissing (tenant : TenantId) (sq : Fin 4) (seq : Fin 65536)
  /-- R151: The first cell of an announced command not arriving within 100 µs of its doorbell puts the spool in ERROR with ERR MISSING and no completion. -/
  | announcedCellMissing (tenant : TenantId) (sq : Fin 4)
  /-- R158: A completed command's entry is written into its completion spool once the spool has room. -/
  | completionEntryWrite (tenant : TenantId) (cq : Fin 2)
  /-- R159: A 32- or 64-byte read of a completion spool head returns and consumes the oldest unread entries and moves them to the replay area. -/
  | completionHeadRead (host : HostId) (tenant : TenantId) (off : Fin 65536) (size : Nat)
  /-- R271: An 8-byte write to offset 0 of a probe-window quadrant sets its PBASE. -/
  | probeBaseWrite (host : HostId) (tenant : TenantId) (off : Fin 65536) (bytes : List Byte)
  /-- R272: A naturally aligned read of the probe window reports the presence code of each handle it covers, or ABSENT. -/
  | presenceProbe (host : HostId) (tenant : TenantId) (off : Fin 65536) (size : Nat) (port : Fin 4) (outstanding : Nat)
  /-- R147: NOP takes one cell and completes OK with no effect. -/
  | nop (uid : Nat)
  /-- R200: LOOKUP walks the prefix tree over the prompt, returns the matched chain and optionally attaches a new sequence. -/
  | lookup (uid : Nat) (hostMem : HostMem) (pick : Nat)
  /-- R203: EXTEND gives a sequence a new basted chunk at its tail, or a new sequence. -/
  | extend (uid : Nat) (seqPick : Nat) (chunkPick : Nat)
  /-- R243: APPEND fetches key and value rows and writes them into the named pages of the sequence's basted tail. -/
  | append (uid : Nat) (hostMem : HostMem) (picks : List Nat)
  /-- R204: COMMIT seals a sequence's basted tail, coding its pages with the profile's tables. -/
  | commit (uid : Nat) (hostMem : HostMem)
  /-- R206: After coding, COMMIT searches the namespace again and links, revives or adopts in one journalled unit and completes. -/
  | commitLink (uid : Nat) (picks : List Nat)
  /-- R209: FORK allocates a new sequence sharing the source's chunks up to POS, with a copy-on-write basted chunk where POS falls inside one. -/
  | fork (uid : Nat) (seqPick : Nat) (chunkPick : Nat)
  /-- R211: RELEASE frees a sequence handle, drops its chunk references and optionally purges unreferenced private nodes. -/
  | release (uid : Nat)
  /-- R213: PIN adds a pin of the chosen kind to chunks and, for resident pins, promotes their flash pages. -/
  | pin (uid : Nat)
  /-- R213: UNPIN removes one pin of the chosen kind held by the tenant. -/
  | unpin (uid : Nat)
  /-- R266: DELIVER pins chunks, stages their flash pages, places delivery holds and optionally pushes raw pages to the host. -/
  | deliver (uid : Nat)
  /-- R269: When every page is in HBM or failed and the final push read has returned, DELIVER completes with its counts and lateness. -/
  | deliverComplete (uid : Nat) (readOk : Bool) (now : Nat)
  /-- R266: A delivery hold ends at its deadline plus HOLDMS, making the page a demotion candidate again. -/
  | deliveryHoldExpire (handle : Fin 16777216) (layer : Fin 128) (now : Nat)
  /-- R369: ATTEND computes one layer of attention of one sequence for one query per query head. -/
  | attend (uid : Nat)
  /-- R371: ATTEND_BATCH computes one layer of attention for up to 512 sequences, each with its own window. -/
  | attendBatch (uid : Nat) (hostMem : HostMem)
  /-- R374: VERIFY scores up to 16 speculative candidates arranged as a tree against the cached sequence. -/
  | verify (uid : Nat)
  /-- R363: Once every page of an attention command's window is pinned, the panel takes the command for execution. -/
  | attentionTake (uid : Nat) (hostMem : HostMem) (now : Nat)
  /-- R342: A core finishes a tile; a pending cancellation stops the command here. -/
  | tileBoundary (uid : Nat)
  /-- R365: An attention command's outputs are written and it completes with the first applicable result, updating trimming state. -/
  | attentionComplete (uid : Nat) (readOk : Bool) (ringNs now : Nat)
  /-- R415: RING_ATTEND pins local pages and sends RATT_HDR to every partner in MEMMASK. -/
  | ringAttend (uid : Nat)
  /-- R460: FILL sets every word of a plain-region range to PATTERN. -/
  | fill (uid : Nat)
  /-- R461: COPY copies a plain-region or view range to a plain region or host memory. -/
  | copy (uid : Nat)
  /-- R462: COMPARE performs an atomic compare-and-swap or a range compare on plain regions. -/
  | compare (uid : Nat)
  /-- R463: REDUCE adds source elements atomically into destination elements of a plain region. -/
  | reduce (uid : Nat)
  /-- R464: GATHER copies a list of source ranges end to end to a destination. -/
  | gather (uid : Nat)
  /-- R318: TABLE_LOAD installs up to seven coder tables for tensors of the tenant's profile, all or none. -/
  | tableLoad (uid : Nat)
  /-- R320: TABLE_RETIRE marks named generations RETIRING so stewards re-encode their pages. -/
  | tableRetire (uid : Nat)
  /-- R409: FENCE completes once every descriptor of the ring context below UPTO is done. -/
  | fence (uid : Nat)
  /-- R321: A steward re-encodes one page referencing a RETIRING generation under the CURRENT generation. -/
  | pageReencode (handle : Fin 16777216) (layer : Fin 128) (picks : List Nat)
  /-- R107: TNT_CTRL ACTION CONFIGURE binds a FREE tenant to a host and a panel's profile from a template. -/
  | configure (tenant : TenantId) (value : Word)
  /-- R107: TNT_CTRL ACTION ACTIVATE makes a CONFIGURED tenant ACTIVE when its conditions hold. -/
  | tenantActivate (tenant : TenantId) (value : Word)
  /-- R130: TNT_CTRL ACTION DISABLE moves an ACTIVE tenant to DRAINING and cancels or drains its work. -/
  | disable (tenant : TenantId) (value : Word)
  /-- R107: TNT_CTRL ACTION ENABLE returns a DISABLED tenant to ACTIVE when its conditions hold. -/
  | enable (tenant : TenantId) (value : Word)
  /-- R563: TNT_CTRL ACTION SHRED destroys a DISABLED tenant's key and builds its erase list. -/
  | shred (tenant : TenantId) (value : Word)
  /-- R107: TNT_CTRL ACTION UNCONFIGURE returns a CONFIGURED tenant to FREE. -/
  | unconfigure (tenant : TenantId) (value : Word)
  /-- R131: When a DRAINING tenant's drain count reaches zero it becomes DISABLED. -/
  | drainComplete (tenant : TenantId)
  /-- R563: When the last erase-list entry's ERASED record is durable, the shredding tenant becomes FREE. -/
  | shredComplete (tenant : TenantId)
  /-- R110: SG_CFG ACTION CREATE makes a share group VALID and has Selvedge generate its keys. -/
  | groupCreate (group : GroupId) (value : Word)
  /-- R110: SG_CFG ACTION DELETE clears an unused group and destroys its keys. -/
  | groupDelete (group : GroupId) (value : Word)
  /-- R117: Writing HRT_SYNC bit 0 sets PENDING until earlier accepted accesses complete. -/
  | hrtSync
  /-- R117: PENDING clears once every access accepted before the HRT_SYNC write has completed. -/
  | hrtSyncDone
  /-- R126: A CXL.mem request is admitted or held by its host's token bucket. -/
  | cxlMemRequestAdmit (host : HostId) (port : Fin 4) (req hpa : Nat) (now : Nat)
  /-- R126: A held CXL.mem request is released in arrival order as its host's tokens accrue. -/
  | heldRequestRelease (host : HostId) (now : Nat)
  /-- R123: At each slot a memory controller serves the slot's owner or lends the slot. -/
  | wheelSlot (mc : Fin 12) (arrivals : List Traffic) (now : Nat)
  /-- R128: At the end of each 16.384 µs window the DevLoad level of each class is computed. -/
  | devloadWindowEnd (now : Nat)
  /-- R453: A plain-region read that caches shared is granted, snooping an exclusive holder with BISnpData. -/
  | plainReadShared (host : HostId) (addr : Nat)
  /-- R453: A plain-region read that caches exclusive invalidates other holders and is granted exclusive. -/
  | plainReadExclusive (host : HostId) (addr : Nat)
  /-- R453: A non-caching plain-region read returns current data, using BISnpCur on an exclusive holder. -/
  | plainReadCurrent (host : HostId) (addr : Nat)
  /-- R453: A plain-region write invalidates holders, merges their modified data and applies the write. -/
  | plainWrite (host : HostId) (addr : Nat) (bytes : List (Option Byte))
  /-- R453: A write-back by the exclusive holder is applied and the line becomes unheld. -/
  | plainWriteback (host : HostId) (addr : Nat) (bytes : List Byte)
  /-- R455: A host's answer to a back-invalidate snoop lets the waiting request on the line proceed. -/
  | bisnpResponse (host : HostId) (line : Nat) (data : Option (List Byte))
  /-- R246: A CXL.mem load in a view window resolves slot, layer and byte and returns raw, zero or poison data. -/
  | viewLoad (host : HostId) (addr : Nat) (size : Nat)
  /-- R246: A CXL.mem store in a view window is applied to a basted page or dropped. -/
  | viewStore (host : HostId) (addr : Nat) (bytes : List (Option Byte)) (picks : List Nat)
  /-- R449: A full 8-byte store to a view window's slot table updates that slot entry. -/
  | viewSlotStore (host : HostId) (addr : Nat) (value : Word)
  /-- R448: A write of CXL_VW sets a tenant's view window geometry and enable, zeroing the slot table on enable. -/
  | viewWindowConfig (tenant : TenantId) (value : Word)
  /-- R467: A store to a gateway window is gathered into a 4 KiB buffer, shipping buffers as the rules require. -/
  | gatewayStore (host : HostId) (addr : Nat) (bytes : List (Option Byte))
  /-- R468: A store to word 0 of the doorbell line ships every open buffer and awaits a FLUSH. -/
  | gatewayDoorbell (host : HostId) (addr : Nat) (value : Word)
  /-- R468: Once earlier PUTs are confirmed placed, the flush word is written with the doorbell value. -/
  | gatewayFlushDone (gateway : Fin 64)
  /-- R467: A gateway buffer is shipped TMOUS µs after its first store. -/
  | gatewayBufferTimeout (gateway : Fin 64) (page now : Nat)
  /-- R469: A load of a gateway window returns poison. -/
  | gatewayLoad (host : HostId) (addr size : Nat)
  /-- R484: A write of GW_CTL enables or disables a gateway window, clearing ERROR on re-enable. -/
  | gatewayConfig (gateway : Fin 64) (reg : Fin 3) (value : Word)
  /-- R446: An FM API add request for a dynamic-capacity extent is checked and begins taking superframes, or adds an existing extent shared. -/
  | dcAddExtent (region : Fin 3) (idx : Nat) (tag : Wide) (hosts : List Nat)
  /-- R446: Once 128 free superframes are zero-filled, the plain extent is added and the host told. -/
  | plainExtentReady (idx : Nat)
  /-- R446: A plain-extent add that has not found 128 free superframes within 2 s fails with Resources Exhausted. -/
  | plainExtentAddTimeout (idx now : Nat)
  /-- R447: A release of an extent makes new accesses unbacked and begins draining and invalidating its lines. -/
  | dcReleaseExtent (region : Fin 3) (idx : Nat) (host : HostId)
  /-- R447: After earlier requests finish and holders are invalidated, orphan state is cleared, superframes returned and the event written. -/
  | dcReleaseComplete (region : Fin 3) (idx : Nat)
  /-- R436: A CXL link trains at its width and rate and enables CXL.mem when its flit mode and host IDs allow. -/
  | cxlLinkTrain (link : Fin 8) (rate : Fin 3) (width : Fin 4) (flitOk : Bool) (decoders : List (Nat × HdmDecoder))
  /-- R456: A host whose link fails recovery or whose LD is unbound is lost: snoops complete, lines orphan and its tenants drain. -/
  | hostLost (host : HostId) (byLink : Bool)
  /-- R458: The background orphan scan ends, having logged orphaned lines, and writes a Warning record. -/
  | orphanScanComplete
  /-- R481: Writing CXL_ORPH.CLEAR empties the orphan log and clears OVF. -/
  | orphanLogClear
  /-- R481: Writing CXL_ORPHQ.IDX loads the described orphan log entry into CXL_ORPHE0 and CXL_ORPHE1. -/
  | orphanLogQuery (value : Word)
  /-- R725: An access to an unallocated offset returns all ones or is dropped and is recorded in GLB_UA and LOG. -/
  | unallocatedAccess (bar2 wr : Bool) (host : HostId) (off : Fin 67108864) (size : Nat)
  /-- R17: A BAR0 write to a register without behaviour of its own updates its fields per their access codes. -/
  | registerWrite (off size : Nat) (value : Word)
  /-- R723: A read covering clear-on-read fields returns them and clears them. -/
  | registerReadClear (off size : Nat)
  /-- R730: Writing 1 to GLB.LOCK makes every RWL field ignore writes until a warm or cold reset. -/
  | lockSet (value : Word)
  /-- R741: Writing LOG_CTL.CLEAR empties the LOG ring with numbering continuing. -/
  | logClear (value : Word)
  /-- R741: Writing LOG_RDIDX.IDX copies that LOG record into LOG_REC0 to LOG_REC3. -/
  | logReadIndex (value : Word)
  /-- R225: Writing PFX_NODEQ.HANDLE queries a node and fills PFX_NODE0 to PFX_NODE4. -/
  | nodeQuery (value : Word)
  /-- R286: Writing PGT_PAGEQ queries one page of a chunk and fills PGT_PAGE0 and PGT_PAGE1. -/
  | pageQuery (value : Word)
  /-- R331: Writing CDR_GENQ snapshots a tensor's generations into CDR_GENS and CDR_GREF0 to CDR_GREF3. -/
  | generationQuery (value : Word)
  /-- R338: A write of CDR_HCFG clears the histogram counters and applies new capture settings. -/
  | histogramConfig (value : Word)
  /-- R249: Once every 2^DSHIFT µs a steward halves every page counter and node ACC and applies trimming masks. -/
  | counterDecay
  /-- R251: While HBM use exceeds HHWM a steward demotes the next candidate page, stashing DIRTY pages first. -/
  | demotePage (holder : Option Nat)
  /-- R252: A steward writes a queued page's coded frame to flash as a page image. -/
  | stashPage (handle : Fin 16777216) (layer : Fin 128)
  /-- R544: When a page's STASH record is durable the page becomes CLEAN. -/
  | stashDurable (handle : Fin 16777216) (layer : Fin 128)
  /-- R552: A page's flash reads finish and it becomes CLEAN in HBM. -/
  | stagingComplete (handle : Fin 16777216) (layer : Fin 128) (picks : List Nat) (readOk : Bool)
  /-- R258: Under pressure step 2 a steward makes the lowest-scored eligible chunk hollow in one journalled unit. -/
  | makeHollow (holder : Option Nat)
  /-- R254: Under pressure step 3 a steward unlinks an unreferenced hollow leaf node. -/
  | unlinkHollow
  /-- R112: A command waiting for its holder's demotions completes QUOTA after 10 ms without room. -/
  | quotaWaitTimeout (uid : Nat)
  /-- R257: A command waiting for HBM granules completes NO_SPACE after 10 ms with none free. -/
  | spaceWaitTimeout (uid : Nat)
  /-- R239: A steward moves a frame to compact superframes and moves its references in one journalled unit. -/
  | frameCompact (base : Nat) (picks : List Nat)
  /-- R74: PATTERN_LOAD STAGE copies image bytes into the staging buffer. -/
  | patternStage (fn : Fin 17) (word0 word1 : Word) (data : List Byte)
  /-- R76: PATTERN_LOAD ACTIVATE validates the staged image, quiesces the device and programs the new pattern. -/
  | patternActivate (fn : Fin 17) (word0 : Word)
  /-- R74: PATTERN_LOAD ABORT empties the staging buffer. -/
  | patternAbort (fn : Fin 17) (word0 : Word)
  /-- R74: PATTERN_LOAD QUERY returns PAT_STATUS and PAT_PROGRESS. -/
  | patternQuery (fn : Fin 17) (word0 : Word)
  /-- R80: Programming of the islands ends, the new pattern runs or the previous one is restored, and ACTIVATE completes. -/
  | patternProgramDone (ok : Bool)
  /-- R74: PANEL_SWAP STAGE copies panel image bytes into the staging buffer. -/
  | panelSwapStage (fn : Fin 17) (word0 word1 : Word) (data : List Byte)
  /-- R83: PANEL_SWAP ACTIVATE validates the panel image, quiesces the panel and programs it. -/
  | panelSwapActivate (fn : Fin 17) (word0 : Word)
  /-- R74: PANEL_SWAP ABORT empties the staging buffer. -/
  | panelSwapAbort (fn : Fin 17) (word0 : Word)
  /-- R74: PANEL_SWAP QUERY returns PAT_STATUS and PAT_PROGRESS. -/
  | panelSwapQuery (fn : Fin 17) (word0 : Word)
  /-- R85: Programming of the swapped panel ends and it runs the plan selected from the new library. -/
  | panelSwapProgramDone (ok : Bool)
  /-- R71: Both mirrored copies are written and the new pattern becomes the boot pattern. -/
  | patternPersistDone
  /-- R391: Setting SNL_CFG.EN starts ring link training and moves the ring to FORMING. -/
  | ringEnable (value : Word)
  /-- R391: A ring link completes training and handshake. -/
  | ringLinkTrained (link : Fin 2) (width : Fin 3) (peerId : BitVec 16) (peerPos peerNmem : Fin 16) (verOk : Bool)
  /-- R392: A ring link goes down or retrains and the ring becomes BROKEN. -/
  | ringLinkDown (link : Fin 2) (retraining : Bool)
  /-- R717: A change of SLn_PRSNT_N holds a link DOWN or lets it train. -/
  | ringCablePresence (link : Fin 2) (present : Bool)
  /-- R388: A received DATA frame is accepted in FSEQ order or triggers a replay request. -/
  | ringDataFrame (link : Fin 2) (frame : List Byte)
  /-- R388: A received CONTROL frame delivers credits and replay requests. -/
  | ringControlFrame (link : Fin 2) (frame : List Byte) (credits : List Nat) (replay : Option (Fin 4096))
  /-- R392: A RING_CHECK message returning around the ring verifies positions and forms the ring. -/
  | ringCheck (src last : Fin 16) (ok : Bool)
  /-- R406: A GET_REQ message is checked at the target and answered with GET_DATA. -/
  | getReq (link : Fin 2) (msg : RingMsg)
  /-- R406: A GET_DATA message writes its bytes locally for a GET descriptor. -/
  | getData (link : Fin 2) (msg : RingMsg)
  /-- R406: A PUT message is checked and its bytes applied at the target. -/
  | ringPut (link : Fin 2) (msg : RingMsg)
  /-- R407: A REDUCE_PUT message adds its elements atomically into the target's elements. -/
  | reducePut (link : Fin 2) (msg : RingMsg)
  /-- R406: An ACK message reports a PUT or REDUCE_PUT's outcome to its sender. -/
  | ringAck (link : Fin 2) (msg : RingMsg)
  /-- R415: A RATT_HDR message from a partner is collected and, once all are present, the partners are checked. -/
  | rattHdr (link : Fin 2) (dst : Fin 16) (hdr : RattHdr)
  /-- R416: A RATT_BLOCK is taken for the member's partials and forwarded along its route. -/
  | rattBlock (link : Fin 2) (block : RattBlock)
  /-- R421: A CAM_SEARCH broadcast is searched by each member in the originator's slot. -/
  | camSearch (src cpos : Fin 16) (uid : Nat) (word : List Word)
  /-- R422: A CAM_HIT message returns a cascade hit's handle to the originator. -/
  | camHit (link : Fin 2) (dst : Fin 16) (uid : Nat) (pos : Fin 16) (handle : Fin 16777216)
  /-- R421: Each 128 ns slot resolves one cascade search over MATCH_IN and MATCH_OUT. -/
  | cascadeSlot (slot : Nat) (matchIn : Bool)
  /-- R422: With no CAM_HIT within 1 µs after its slot, the originator takes a cascade miss. -/
  | cascadeMissTimeout (uid : Nat)
  /-- R399: SNL_CTX_CTL ACTION OPEN opens a ring context for a tenant. -/
  | ringCtxOpen (ctx : Fin 256) (value : Word)
  /-- R402: SNL_CTX_CTL ACTION RING_CTX_ABORT begins aborting a context's outstanding work. -/
  | ringCtxAbort (ctx : Fin 256) (value : Word)
  /-- R399: SNL_CTX_CTL ACTION CLOSE closes a context with nothing outstanding or aborted. -/
  | ringCtxClose (ctx : Fin 256) (value : Word)
  /-- R402: An aborting context reaches ABORTED once its items are cancelled. -/
  | ringAbortComplete (ctx : Fin 256)
  /-- R405: A host write of a context's tail word makes new descriptors available to take. -/
  | descriptorTailWrite (host : HostId) (ctx : Fin 256) (value : Word)
  /-- R406: The controller takes the next descriptor, checks it and starts moving its data. -/
  | descriptorTake (ctx : Fin 256)
  /-- R406: A descriptor ends and the controller writes DONE and STATUS into its slot. -/
  | descriptorDone (ctx : Fin 256) (idx : BitVec 32)
  /-- R486: An Ethernet port's link comes up or goes down. -/
  | shuttlePortLink (port : Fin 2) (state : Fin 3)
  /-- R487: A received ARP request for the port's address is answered. -/
  | arpRequest (port : Fin 2) (target : BitVec 32)
  /-- R487: A received IPv6 Neighbour Discovery message for the port's address is answered. -/
  | neighbourSolicitation (port : Fin 2) (target : Wide)
  /-- R487: A received ICMP or ICMPv6 echo request is answered. -/
  | icmpEchoRequest (port : Fin 2) (v6 : Bool) (dst : Wide) (bytes : List Byte)
  /-- R488: A received priority flow-control frame pauses the port's PCP when PFCRX is set. -/
  | pfcFrame (port : Fin 2) (enables : BitVec 8) (quanta : List Nat)
  /-- R490: A PTP event message is timestamped in DTIME and, in PTP mode, disciplines DTIME. -/
  | ptpEventMessage (msg : PtpMsg) (now : Nat)
  /-- R526: SHT_QPQ ACTION READ loads a queue pair's context and state into the SHT registers. -/
  | qpRead (qpn : Fin 65536)
  /-- R526: SHT_QPQ ACTION WRITE copies the context registers into a FREE queue pair. -/
  | qpWrite (qpn : Fin 65536)
  /-- R495: SHT_QPQ ACTION ACTIVATE makes a FREE queue pair READY and initialises its sequence numbers. -/
  | qpActivate (qpn : Fin 65536)
  /-- R512: SHT_QPQ ACTION ERROR puts a queue pair in ERROR and flushes its work. -/
  | qpError (qpn : Fin 65536)
  /-- R494: SHT_QPQ ACTION RESET returns an ERROR queue pair to FREE. -/
  | qpReset (qpn : Fin 65536)
  /-- R496: A host write of a queue pair's control line updates SQTAIL, RQTAIL and CQHEAD. -/
  | qpControlWrite (host : HostId) (qpn : Fin 65536) (word : Fin 3) (value : Word)
  /-- R500: A SEND work request is taken and split into packets sent on the sprayed paths. -/
  | wrSend (qpn : Fin 65536) (hostMem : HostMem) (fault : Bool)
  /-- R501: A PUT work request is taken and its packets sent to the remote plain region. -/
  | wrPut (qpn : Fin 65536) (hostMem : HostMem) (fault : Bool)
  /-- R502: A COMPARE-SWAP work request sends one NMO_REQ. -/
  | wrCompareSwap (qpn : Fin 65536)
  /-- R502: A FETCH-ADD work request sends one NMO_REQ. -/
  | wrFetchAdd (qpn : Fin 65536)
  /-- R502: A REDUCE work request sends one NMO_REQ with its elements. -/
  | wrReduce (qpn : Fin 65536) (hostMem : HostMem) (fault : Bool)
  /-- R503: A FLUSH work request sends a FLUSH_REQ. -/
  | wrFlush (qpn : Fin 65536)
  /-- R497: A NOP work request is taken and completes. -/
  | wrNop (qpn : Fin 65536)
  /-- R521: A WR with WAIT starts once WAITQP's completion count reaches WAITCNT. -/
  | wrWaitSatisfied (qpn : Fin 65536) (hostMem : HostMem) (fault : Bool)
  /-- R517: A received SEND packet binds or joins its message's receive entry and is placed. -/
  | shuttleSend (port : Fin 2) (src : Wide) (udp : ShWire) (pkt : ShPkt) (fault : Bool)
  /-- R501: A received PUT packet is checked and written to the local plain region. -/
  | shuttlePut (port : Fin 2) (src : Wide) (udp : ShWire) (pkt : ShPkt)
  /-- R502: A received NMO_REQ is executed once on the local plain region and answered, or replayed from the response cache. -/
  | nmoReq (port : Fin 2) (src : Wide) (udp : ShWire) (pkt : ShPkt)
  /-- R504: A received NMO_RESP completes its near-memory work request and acknowledges packets. -/
  | nmoResp (port : Fin 2) (src : Wide) (udp : ShWire) (pkt : ShPkt)
  /-- R503: A received FLUSH_REQ is answered once earlier packets are placed and visible. -/
  | flushReq (port : Fin 2) (src : Wide) (udp : ShWire) (pkt : ShPkt)
  /-- R503: A received FLUSH_RESP completes the FLUSH or gateway flush. -/
  | flushResp (port : Fin 2) (src : Wide) (udp : ShWire) (pkt : ShPkt)
  /-- R508: A received ACK marks packets acknowledged and completes SENDs and PUTs whose packets are all acknowledged. -/
  | shuttleAck (port : Fin 2) (src : Wide) (udp : ShWire) (pkt : ShPkt)
  /-- R510: A received NAK schedules a retransmission or puts the queue pair in ERROR. -/
  | shuttleNak (port : Fin 2) (src : Wide) (udp : ShWire) (pkt : ShPkt)
  /-- R508: Within 2 µs of an unanswered request packet the receiver sends an ACK. -/
  | ackTimer (qpn : Fin 65536)
  /-- R509: The retransmission timer fires, retransmitting unacknowledged packets or ending in RETRY_EXCEEDED. -/
  | retxTimeout (qpn : Fin 65536)
  /-- R510: RNRUS µs after a NAK RNR the sender retransmits the packet. -/
  | rnrRetryTimer (qpn : Fin 65536) (psn : Fin 16777216)
  /-- R520: 32 µs after a NAK FAULT the sender retransmits the packet. -/
  | faultRetryTimer (qpn : Fin 65536) (psn : Fin 16777216)
  /-- R520: A held packet whose translation has not arrived within 20 µs is dropped and answered NAK FAULT. -/
  | placementFaultTimeout (qpn : Fin 65536) (psn : Fin 16777216)
  /-- R519: A page request answer resumes a stalled sender or places a held packet, or fails the work. -/
  | pageRequestResponse (qpn : Fin 65536) (rx ok : Bool) (hostMem : HostMem)
  /-- R518: An ATS invalidation removes translations once writes under them are issued. -/
  | atsInvalidation (host : HostId) (pasid : BitVec 20) (firstPage pages : Nat)
  /-- R505: When every byte of a message is placed and visible, its receive completion is produced. -/
  | receiveComplete (qpn : Fin 65536) (msn : Fin 16777216)
  /-- R499: A queue pair completion entry is written once the CQ has room. -/
  | cqEntryWrite (qpn : Fin 65536)
  /-- R533: A flash operation's Read Status reports its end, with pass or fail. -/
  | flashOpComplete (op : FlashOp)
  /-- R544: At least every 50 µs a steward programs its waiting journal records into the journal ring. -/
  | journalFlush (wrap : Bool)
  /-- R546: After each 1 GiB of records or 60 s a steward writes a map checkpoint. -/
  | mapCheckpoint (now : Nat)
  /-- R541: Once a second the SLC buffer target is recomputed from FUSEPCT. -/
  | slcTargetRecompute
  /-- R551: Every 1 ms the foreground collection step is chosen from free space. -/
  | gcStepRecompute
  /-- R549: Garbage collection starts on a channel in background or foreground mode as free space requires. -/
  | gcStart (channel : Fin 32) (idleUs : Nat)
  /-- R554: An image is copied, its MOVE record made durable, and its old unit queued for erase. -/
  | imageMove (handle : Fin 16777216) (layer : Fin 128) (readOk : Bool)
  /-- R554: An emptied erase unit is erased and ERASED is journalled, removing it from any erase list. -/
  | unitErase (unit : Nat) (ok : Bool)
  /-- R542: Folding moves images from SLC-mode units into native-mode units. -/
  | fold (handle : Fin 16777216) (layer : Fin 128) (readOk : Bool)
  /-- R547: A unit whose program or erase failed is retired and replaced by a spare. -/
  | unitRetire (unit : Nat)
  /-- R561: A target that stops answering or times out twice is taken out of service and its pages poisoned. -/
  | targetFailed (channel : Fin 32) (ce : Fin 8)
  /-- R565: Once a minute every target's temperature is read and the health record updated. -/
  | flashTempPoll (temps : List (Nat × Nat × Int))
  /-- R530: A target whose temperature has moved 10 °C since training is trained again. -/
  | flashRetrain (channel : Fin 32) (ce : Fin 8)
  /-- R556: PWR_FAIL_N held for 2 µs starts the power-fail flush of journal and seal records. -/
  | powerFailFlush (flushUs : Nat) (saved sealWhole : Bool) (now : Nat)
  /-- R580: Patrol scrub reads a row and checks its parity against its data. -/
  | scrubRow (row : ScrubRow) (now : Nat)
  /-- R583: A stack is lost, the part becomes DEGRADED and the rebuild begins. -/
  | stackLost (stack : Fin 12) (cause : Fin 6)
  /-- R587: The freeing phase ends once the top of the data space is empty, and copying begins. -/
  | rebuildCopyStart
  /-- R589: Copying ends and the rebuilt layout, REDUCED state and new sizes take effect in one journalled unit. -/
  | rebuildComplete
  /-- R591: RAS_CTL ACTION SELFTEST takes a stack out of service and runs its memory BIST. -/
  | selftest (value : Word)
  /-- R591: A stack self-test ends, returning the stack to service on a pass or losing it on a failure. -/
  | selftestDone (pass : Bool)
  /-- R583: RAS_CTL ACTION RETIRE_STACK loses the named stack. -/
  | retireStack (value : Word)
  /-- R593: RAS_CTL ACTION RETIRE_CORE retires the named core. -/
  | retireCore (value : Word)
  /-- R594: A core retires and its panel replaces it, changes plan or becomes SHORT. -/
  | coreRetire (core : Fin 256) (cause : Fin 2)
  /-- R593: Every 10 minutes the MGC runs the known-answer tile on each idle core. -/
  | knownAnswerTest (core : Fin 256) (ok : Bool)
  /-- R39: Every 1 ms the MGC checks steward heartbeats, resetting a steward after four misses. -/
  | stewardHeartbeat (steward : Fin 8) (alive : Bool) (now : Nat)
  /-- R39: A reset steward serves again and re-dispatched commands run. -/
  | stewardRecovered (steward : Fin 8)
  /-- R602: Every 10 minutes and at Failure or Fatal events a state snapshot is written to the fault capsule. -/
  | capsuleSnapshot (now : Nat)
  /-- R605: CAPSULE_READ SUMMARY returns the capsule's plaintext summary. -/
  | capsuleReadSummary (fn : Fin 17)
  /-- R605: CAPSULE_READ READ returns one encrypted 4 KiB piece of the capsule. -/
  | capsuleReadPiece (fn : Fin 17) (piece : Fin 256)
  /-- R620: A standard SPDM request is answered by Selvedge with certificates, measurements or a session. -/
  | spdmRequest (fn : Fin 18) (req : SpdmReq)
  /-- R613: An IDE_KM key programming message installs a stream key in a CXL port island's key slot. -/
  | ideKmKeyProg (session : Nat) (link : Fin 8) (stream key : Nat)
  /-- R472: A TDISP request changes a host function's TDI state. -/
  | tdispRequest (session : Nat) (req : Fin 4)
  /-- R630: The TENANT_KEY request installs a delivered data key for a CONFIGURED tenant. -/
  | tenantKey (session tenant key : Nat)
  /-- R633: The TENANT_SEAL request installs a key, sets SEALED and keeps the seal record. -/
  | tenantSeal (session tenant ngrp grprw key : Nat) (groups : List Nat)
  /-- R630: The QP_KEY request installs a queue pair's AES-GCM key. -/
  | qpKey (session qpn key : Nat)
  /-- R630: The GROUP_HKEY request sets an unused share group's hash key. -/
  | groupHkey (session group key : Nat)
  /-- R630: The SEAL_QUERY request returns a tenant's seal state and record. -/
  | sealQuery (session tenant : Nat)
  /-- R620: The PQ_SIGN request returns an ML-DSA-87 signature over the last signed transcript. -/
  | pqSign (fn : Fin 18)
  /-- R658: SEC_TKEY ACTION GENERATE has Selvedge generate a data key for a CONFIGURED tenant. -/
  | tenantKeyGenerate (value : Word)
  /-- R641: LIFECYCLE_ADVANCE CHALLENGE returns a fresh 32-byte nonce. -/
  | lifecycleChallenge (fn : Fin 17)
  /-- R640: LIFECYCLE_ADVANCE ADVANCE verifies signatures and moves the part to its target life-cycle state. -/
  | lifecycleAdvance (fn : Fin 17) (payload : List Byte)
  /-- R642: After tenants are disabled, keys are zeroed, records freed and the new state written. -/
  | cryptoEraseComplete
  /-- R650: FW_STAGE ERASE erases the slot that is not running. -/
  | fwStageErase (fn : Fin 17)
  /-- R650: FW_STAGE WRITE writes data into the staged slot. -/
  | fwStageWrite (fn : Fin 17) (offset : Nat) (bytes : List Byte)
  /-- R650: FW_STAGE VERIFY runs the slot checks on the staged slot. -/
  | fwStageVerify (fn : Fin 17)
  /-- R650: FW_ACTIVATE SELECT verifies and makes the staged slot preferred. -/
  | fwSelect (fn : Fin 17)
  /-- R650: FW_ACTIVATE COMMIT_SVN raises the firmware SVN floors to the running SVNs. -/
  | fwCommitSvn (fn : Fin 17)
  /-- R650: FW_ACTIVATE QUERY returns SEC_FW and SEC_FLOOR. -/
  | fwQuery (fn : Fin 17)
  /-- R650: A PLDM firmware update request writes the slot that is not running. -/
  | pldmFirmwareUpdate (phase : Fin 3) (offset : Nat) (bytes : List Byte)
  /-- R652: CAL_READ returns bytes of the calibration block. -/
  | calRead (fn : Fin 17) (offset size : Nat)
  /-- R652: CAL_WRITE writes bytes directly into the calibration block in NOR0. -/
  | calWrite (fn : Fin 17) (offset : Nat) (bytes : List Byte)
  /-- R727: HEALTH_GET returns eight health registers read at one instant. -/
  | healthGet (fn : Fin 17)
  /-- R742: The standard Get Health Info command reports health from LOG_HEALTH0. -/
  | getHealthInfo (fn : Fin 17)
  /-- R457: Get Poison List lists poisoned and orphaned plain-region lines. -/
  | getPoisonList (fn : Fin 17)
  /-- R474: Clear Poison clears poison of plain-region lines. -/
  | clearPoison (fn : Fin 17) (addr : Nat) (bytes : List Byte)
  /-- R475: Get Event Records returns records of an event log. -/
  | getEventRecords (fn owner : Fin 17) (log : Fin 5)
  /-- R475: Clear Event Records removes records from an event log. -/
  | clearEventRecords (fn owner : Fin 17) (log : Fin 5) (all : Bool) (handles : List Nat)
  /-- R474: Identify Memory Device returns the device's identity. -/
  | identifyMemoryDevice (fn : Fin 17)
  /-- R474: Get Log returns the CEL or the vendor LOG. -/
  | getLog (fn : Fin 17) (vendor : Bool) (first count : Nat)
  /-- R667: Get Timestamp returns DTIME plus PWR_DTOFF. -/
  | getTimestamp (fn : Fin 17)
  /-- R667: Set Timestamp writes PWR_DTOFF without changing DTIME. -/
  | setTimestamp (fn : Fin 17) (value : Word)
  /-- R474: An unsupported or frozen mailbox command is refused with Unsupported. -/
  | unsupportedMailboxCommand (fn : Fin 17) (opcode action : Nat)
  /-- R676: PWR_RST ACTION TENANT disables an ACTIVE tenant and enables it again once DISABLED. -/
  | tenantReset (value : Word)
  /-- R677: PWR_RST ACTION ISLAND resets one island of a kind that has an island reset. -/
  | islandReset (value : Word) (now : Nat)
  /-- R666: A write of PWR_DTSET steps or slews DTIME toward the value in HOST or FREE mode. -/
  | dtimeSet (value : Word)
  /-- R666: Every 1 ms ring members exchange timestamps and RING-mode DTIME is disciplined. -/
  | ringTimeExchange (offset : Int) (neighbour now : Nat)
  /-- R712: At each whole second of a valid DTIME, PPS_OUT rises for 100 ms. -/
  | ppsPulse (now : Nat)
  /-- R669: Every 100 µs the MGC reads rail telemetry and applies the power cap to core clocks. -/
  | powerSample (avgW peakW hbmW cdW : Nat) (avs0 avs1 : Bool) (now : Nat)
  /-- R663: The MGC lowers or restores an island's clock under ECO, cap or thermal step. -/
  | clockAdjust (island : Fin 293) (seamPct : Fin 101) (now : Nat)
  /-- R670: A die or stack crossing a thermal threshold enters or leaves a thermal step. -/
  | thermalStep (cd0 cd1 xd : Int) (stackTemps : List Int) (now : Nat)
  /-- R671: A die or stack at its trip temperature asserts THERMTRIP_N and stops every island. -/
  | thermalTrip (die : Bool) (temp : Int)
  /-- R668: After 1 ms with no command, access or steward work the part enters QUIET. -/
  | quietEntry (idleUs now : Nat)
  /-- R668: After STBYMS ms of QUIET with STBYEN set the part enters STANDBY. -/
  | standbyEntry (now : Nat)
  /-- R668: The first HBM access or command wakes the part from STANDBY. -/
  | standbyExit (now : Nat)
  /-- R673: PERST# asserted with rails in regulation quiesces the part before a warm reset. -/
  | perstAssert (now : Nat)
  /-- R672: Power-on with the rails and references up holds the part in cold reset until PERST# deasserts. -/
  | powerOn
  /-- R679: PERST# deassertion runs start-up phases from ROM through boot pattern programming. -/
  | startup (found : StartIn) (now : Nat)
  /-- R678: Start-up reaches media ready, setting Memory_Active and writing an event. -/
  | mediaReady (ms now : Nat)
  /-- R680: The start-up rebuild ends after a cold start and recovery forms cease. -/
  | startupRebuildDone
  /-- R672: The MGC watchdog expiring after 1 s unserved makes a warm reset. -/
  | watchdogExpiry (now : Nat)
  /-- R672: A CXL Reset on the operator function clears spools and QPs and disables ACTIVE tenants. -/
  | functionReset
  /-- R672: An FLR resets only the host function's configuration, MSI-X, DOE sessions and TDI. -/
  | flr (host : HostId)
  /-- R713: PWR_FAIL_N returning high lets a start-up held at phase 1 proceed once it has stayed high for 10 ms. -/
  | pwrFailNDeassert (now : Nat)
  /-- R673: A main rail leaving regulation marks the next PERST# as a cold reset and, during a quiesce, hands over to the power-fail flush. -/
  | railLeavesRegulation (inQuiesce : Bool) (flushUs : Nat) (saved sealWhole : Bool)
  /-- R714: Removal of the supplies, with VDD_AON falling below 0.5 V, releases the THERMTRIP_N and REPLACE_N latches and ends the hold after a thermal trip. -/
  | suppliesRemoved
  /-- R661: Loss of the system reference clock holds the part in cold reset while it is absent. -/
  | systemReferenceLost
  /-- R392: Clearing SNL_CFG.EN takes the ring from any state to OFF. -/
  | ringDisable (value : Word)
  /-- R456: An FM API LD management request that binds a logical device establishes its host again so its requests are accepted. -/
  | fmLdBind (host : HostId)
  /-- R465: A FILL, COPY, COMPARE, REDUCE or GATHER ends, after its snoops and any closing zero-length read to host memory have returned, and completes with its result. -/
  | nearMemoryComplete (uid : Nat) (readOk : Bool)
  /-- R487: An Ethernet frame that is not a valid Shuttle, ARP, Neighbour Discovery, echo, PTP or PFC frame is dropped and counted. -/
  | otherReceivedFrame
  /-- R716: The management controller reading a waiting MCTP or PLDM event releases ALERT_N. -/
  | platformEventRead
  /-- R719: An IEEE 1149.1 or 1149.6 instruction shifted into the TAP acts on the boundary cells, or as BYPASS when not permitted. -/
  | jtagInstruction (op : JtagOp) (pins cells : List Bool)
  /-- R601: A rebuild held in its freeing phase for more than 60 s writes event 0x0105. -/
  | rebuildWaitingForSpace (now : Nat)
  /-- R475: The Set Event Interrupt Policy mailbox command changes how events of each log are signalled by MSI-X. -/
  | setEventInterruptPolicy (fn : Fin 17) (modes : List Nat)
  deriving DecidableEq, Repr

end Sys2Proof
end

