-- ==== Sys2Proof/Decode.lean ====
section
/-!
DEFINITION. The command that a word spells by the bits of the operation table. The table gives no row of this block any bits: its commands are accesses, messages, frames and pin
events, whose encodings are the operands' own (cells in Machine/Flags.lean and Operands.lean, messages in Machine/Types.lean).
-/
namespace Sys2Proof

/-- No word spells a command: the table gives no row bits. -/
def decodeTableWord (_nbits _w : Nat) : Option Instr := none

end Sys2Proof
end

