-- ==== Sys2Proof/Machine/Fp.lean ====
section
/-!
DEFINITION. Exact numbers and their rounding: the float and integer element formats, FP32 arithmetic with round-to-nearest-even, and block
scales (R288 to R290, R296, R300).
-/
namespace Sys2Proof.Machine

/-- A number as the array forms it: a NaN, an infinity, or (-1)^neg times m times 2^e exactly. -/
inductive Num where
  | nan
  | inf (neg : Bool)
  | fin (neg : Bool) (m : Nat) (e : Int)
  deriving DecidableEq, Repr

/-- Zero. -/
def Num.zero : Num := .fin false 0 0

/-- Whether a number is neither a NaN nor an infinity. -/
def Num.isFinite : Num → Bool
  | .fin _ _ _ => true
  | _ => false

/-- A float format: significand bits with the hidden one, the exponent of its smallest subnormal and the largest exponent. -/
structure FloatFmt where
  p : Nat
  emin : Int
  emax : Int
  deriving DecidableEq, Repr

/-- IEEE 754 binary32. -/
def fp32 : FloatFmt := { p := 24, emin := -149, emax := 127 }
/-- IEEE 754 binary16. -/
def fp16 : FloatFmt := { p := 11, emin := -24, emax := 15 }
/-- BF16. -/
def bf16 : FloatFmt := { p := 8, emin := -133, emax := 127 }

/-- m divided by 2^k, rounded to nearest, ties to even. -/
def rneShift (m k : Nat) : Nat :=
  let q := m / 2 ^ k
  let r := m % 2 ^ k
  if 2 * r > 2 ^ k ∨ (2 * r = 2 ^ k ∧ q % 2 = 1) then q + 1 else q

/-- Round a finite value to a format: round-to-nearest-even, subnormals kept, overflow to infinity (R296). -/
def roundFin (f : FloatFmt) (neg : Bool) (m : Nat) (e : Int) : Num :=
  if m = 0 then .fin neg 0 0
  else
    let q : Int := max (e + (Nat.log2 m : Int) + 1 - (f.p : Int)) f.emin
    if q ≤ e then
      if (Nat.log2 m : Int) + e > f.emax then .inf neg else .fin neg m e
    else
      let m' := rneShift m (q - e).toNat
      if m' ≠ 0 ∧ (Nat.log2 m' : Int) + q > f.emax then .inf neg
      else if m' = 0 then .fin neg 0 0 else .fin neg m' q

/-- Round to a format. (log entry 12, PRESUMED) -/
def Num.round (f : FloatFmt) : Num → Num
  | .fin n m e => roundFin f n m e
  | x => x

/-- The exact product (R296): a NaN operand, or zero times infinity, gives a NaN. -/
def Num.mul : Num → Num → Num
  | .nan, _ => .nan
  | _, .nan => .nan
  | .inf a, .inf b => .inf (a != b)
  | .inf a, .fin b m _ => if m = 0 then .nan else .inf (a != b)
  | .fin a m _, .inf b => if m = 0 then .nan else .inf (a != b)
  | .fin a m e, .fin b m' e' => .fin (a != b) (m * m') (e + e')

/-- A signed significand at exponent e0. -/
def signedAt (neg : Bool) (m : Nat) (e e0 : Int) : Int :=
  let v : Int := (m * 2 ^ (e - e0).toNat : Nat)
  if neg then -v else v

/-- The exact sum; two zeros of one sign keep it, and every other zero sum is positive. -/
def Num.add : Num → Num → Num
  | .nan, _ => .nan
  | _, .nan => .nan
  | .inf a, .inf b => if a = b then .inf a else .nan
  | .inf a, .fin _ _ _ => .inf a
  | .fin _ _ _, .inf b => .inf b
  | .fin a m e, .fin b m' e' =>
    if m = 0 ∧ m' = 0 then .fin (a && b) 0 0
    else
      let e0 := min e e'
      let z := signedAt a m e e0 + signedAt b m' e' e0
      if z = 0 then .fin false 0 0 else .fin (decide (z < 0)) z.natAbs e0

/-- Negation. -/
def Num.neg : Num → Num
  | .nan => .nan
  | .inf a => .inf (!a)
  | .fin a m e => .fin (!a) m e

/-- Absolute value. -/
def Num.abs : Num → Num
  | .nan => .nan
  | .inf _ => .inf false
  | .fin _ m e => .fin false m e

/-- One FP32 addition (R296). -/
def fadd (a b : Num) : Num := (a.add b).round fp32
/-- One FP32 multiplication (R296). -/
def fmul (a b : Num) : Num := (a.mul b).round fp32

/-- The quotient rounded once to a format: round-to-nearest-even. -/
def Num.div (f : FloatFmt) : Num → Num → Num
  | .nan, _ => .nan
  | _, .nan => .nan
  | .inf _, .inf _ => .nan
  | .inf a, .fin b _ _ => .inf (a != b)
  | .fin a _ _, .inf b => .fin (a != b) 0 0
  | .fin a m e, .fin b m' e' =>
    if m' = 0 then (if m = 0 then .nan else .inf (a != b))
    else
      let k := f.p + 3 + Nat.log2 m'
      let q := m * 2 ^ k / m'
      let sticky := if m * 2 ^ k % m' = 0 then 0 else 1
      roundFin f (a != b) (2 * q + sticky) (e - e' - k - 1)

/-- Whether a is below b (false where either is a NaN). -/
def Num.lt : Num → Num → Bool
  | .nan, _ => false
  | _, .nan => false
  | .inf a, .inf b => a && !b
  | .inf a, .fin _ _ _ => a
  | .fin _ _ _, .inf b => !b
  | .fin a m e, .fin b m' e' =>
    let e0 := min e e'
    decide (signedAt a m e e0 < signedAt b m' e' e0)

/-- The larger of two numbers. -/
def Num.max (a b : Num) : Num := if a.lt b then b else a

/-- The nearest integer, ties to even, of a finite value. -/
def Num.rne : Num → Int
  | .fin n m e =>
    let v : Nat := if 0 ≤ e then m * 2 ^ e.toNat else rneShift m (-e).toNat
    if n then -(v : Int) else v
  | _ => 0

/-- An integer as a number. -/
def Num.ofInt (z : Int) : Num := .fin (decide (z < 0)) z.natAbs 0

/-! ### Encodings -/

/-- The bits of a value in an IEEE layout with `eb` exponent bits and `mb` mantissa bits: a NaN takes the canonical quiet form (R358). -/
def ieeeBits (eb mb : Nat) (bias : Int) : Num → Nat
  | .nan => (2 ^ eb - 1) * 2 ^ mb + 2 ^ (mb - 1)
  | .inf n => b2n n * 2 ^ (eb + mb) + (2 ^ eb - 1) * 2 ^ mb
  | .fin n m e =>
    let sign := b2n n * 2 ^ (eb + mb)
    if m = 0 then sign
    else
      let top : Int := (Nat.log2 m : Int) + e
      let ex : Int := top + bias
      if ex ≤ 0 then
        let q : Int := 1 - bias - mb
        sign + (if q ≤ e then m * 2 ^ (e - q).toNat else m / 2 ^ (q - e).toNat)
      else
        let q : Int := top - mb
        let sig := if q ≤ e then m * 2 ^ (e - q).toNat else m / 2 ^ (q - e).toNat
        sign + ex.toNat * 2 ^ mb + (sig - 2 ^ mb)

/-- FP32 bits. -/
def bits32 (x : Num) : Nat := ieeeBits 8 23 127 x
/-- FP16 bits. -/
def bits16 (x : Num) : Nat := ieeeBits 5 10 15 x
/-- BF16 bits. -/
def bitsBf (x : Num) : Nat := ieeeBits 8 7 127 x

/-- What the all-ones exponent means in a float format (R288). -/
inductive Special where
  | ieee | e4m3 | finite
  deriving DecidableEq, Repr

/-- The value of a float element (R289). -/
def floatVal (eb mb : Nat) (bias : Int) (sp : Special) (bits : Nat) : Num :=
  let m := bits % 2 ^ mb
  let e := bits / 2 ^ mb % 2 ^ eb
  let n := bits / 2 ^ (eb + mb) % 2 == 1
  let top := e == 2 ^ eb - 1
  if sp = .ieee ∧ top then (if m = 0 then .inf n else .nan)
  else if sp = .e4m3 ∧ top ∧ m = 2 ^ mb - 1 then .nan
  else if e = 0 then .fin n m (1 - bias - mb)
  else .fin n (2 ^ mb + m) ((e : Int) - bias - mb)

/-- The value of FP32 bits. -/
def val32 (b : Nat) : Num := floatVal 8 23 127 .ieee b
/-- The value of FP16 bits. -/
def val16 (b : Nat) : Num := floatVal 5 10 15 .ieee b
/-- The value of BF16 bits. -/
def valBf (b : Nat) : Num := floatVal 8 7 127 .ieee b

/-- The value of one element of a format, without its block scale (R288 to R290). -/
def elemVal (fmt bits : Nat) : Num :=
  if fmt = 0 then val32 bits
  else if fmt = 1 then valBf bits
  else if fmt = 2 then val16 bits
  else if fmt = 3 ∨ fmt = 0xA then floatVal 4 3 7 .e4m3 bits
  else if fmt = 4 then floatVal 5 2 15 .ieee bits
  else if fmt = 5 ∨ fmt = 0xB then floatVal 3 2 3 .finite bits
  else if fmt = 6 then floatVal 2 3 1 .finite bits
  else if fmt = 7 ∨ fmt = 0xC then floatVal 2 1 1 .finite bits
  else if fmt = 8 ∨ fmt = 0xE then .ofInt (bitsInt 8 bits)
  else if fmt = 0xD then (match Num.ofInt (bitsInt 8 bits) with | .fin n m e => .fin n m (e - 6) | x => x)
  else .ofInt (bitsInt 4 bits)

/-- The value of a block scale of a format; one where the format has none (R290). -/
def scaleVal (fmt bits : Nat) : Num :=
  if fmt = 0xE ∨ fmt = 0xF then val16 bits
  else if 0xA ≤ fmt ∧ fmt ≤ 0xD then (if bits = 255 then .nan else .fin false 1 ((bits : Int) - 127))
  else .fin false 1 0

end Sys2Proof.Machine
end

