-- ==== Sys2Proof/Config.lean ====
section
/-!
DEFINITION. What the spec leaves to the implementation, as constants with no body: nothing in Lean can evaluate them, so a statement about
them holds for every value. Each is named in the assumption log. Also the fixed sizes of R5, R8, R41 and R136.
-/
namespace Sys2Proof

/-- A value the spec leaves open (an undefined result, a choice of the steward firmware under R4, a random number).
Applied to State.freeCtr, which every draw advances, so two draws need not agree. (log entry 6, DESIGN CHOICE) -/
opaque Config.freeValue : Nat → Nat
/-- AES-256-GCM encryption of a capsule record or snapshot under the capsule key (R604). (log entry 6, DESIGN CHOICE; log entry 82, DEDUCED) -/
opaque Config.capsuleSeal : List Byte → List Byte
/-- The unique device secret, 384 bits fused at manufacture (R616). (log entry 6, DESIGN CHOICE) -/
opaque Config.uds : List Byte
/-- An ECDSA P-384 signature of a message by a private scalar, and an ML-DSA-87 one by the key pair of a seed: the spec names the algorithms and does not give them
(R618, R620). (log entry 6, DESIGN CHOICE; log entry 88, DEDUCED) -/
opaque Config.ecSign : Nat → List Byte → List Byte
/-- R618, R620. (log entry 6, DESIGN CHOICE; log entry 88, DEDUCED) -/
opaque Config.pqSign : List Byte → List Byte → List Byte
/-- The public keys of a private scalar and of a seed (R618). (log entry 6, DESIGN CHOICE; log entry 88, DEDUCED) -/
opaque Config.ecPublic : Nat → List Byte
/-- R618. (log entry 6, DESIGN CHOICE; log entry 88, DEDUCED) -/
opaque Config.pqPublic : List Byte → List Byte
/-- What is signed of a layer's X.509 certificate: its public key, and in the DICE TcbInfo extension its SVN and measurements (R619). (log entry 6, DESIGN CHOICE; log entry 88, DEDUCED) -/
opaque Config.certBody : List Byte → Nat → List Byte → List Byte
/-- A key derived or generated inside Selvedge (R184, R630, R658): its value never leaves the block. (log entry 6, DESIGN CHOICE) -/
opaque Config.secretKey : Nat → Nat

/-- The SHA-384 of the ROM image (R622, index 1), which each part holds fixed. (log entry 6, DESIGN CHOICE) -/
opaque Config.romDigest : List Byte

/-- The SHA-384 of the certificate of Quamal's return key (R604, R605). (log entry 6, DESIGN CHOICE) -/
opaque Config.returnKeyId : List Byte

/-- Whether an ECDSA P-384 and an ML-DSA-87 signature of a message both verify under the public key of a certificate (R66, R67): the certificate, the message, SIG_EC and
SIG_PQ. The spec names the two algorithms and does not give them. (log entry 26, DESIGN CHOICE) -/
opaque Config.signaturesVerify : List Byte → List Byte → List Byte → List Byte → Bool

/-- The Quamal pattern-signing certificate, certified to Quamal's root, whose SHA-384 a KEYID is, if there is one (R66, R68). (log entry 26, DESIGN CHOICE) -/
opaque Config.vendorCert : List Byte → Option (List Byte)

/-- The CDAT's entries, which report the latencies and bandwidths of R248 and R277 for each region (R473): the spec does not lay them out. (log entry 6, DESIGN CHOICE) -/
opaque Config.cdatEntry : Nat → List Byte

/-- The Quamal certificate whose SHA-384 a KEYID is, if there is one: of a firmware key (R646), and of a key that signs life-cycle statements (R641). (log entry 119, DESIGN CHOICE) -/
opaque Config.firmwareCert : List Byte → Option (List Byte)
/-- R641. (log entry 88, DEDUCED) -/
opaque Config.statementCert : List Byte → Option (List Byte)
/-- What a firmware slot's directory of 4 KiB gives, where it is valid: the offset and length of the MFW image, the FTF image and the manifest (R645): the spec does not lay it
out. (log entry 119, DESIGN CHOICE) -/
opaque Config.slotDirectory : List Byte → Option ((Nat × Nat) × (Nat × Nat) × (Nat × Nat))

/-- Where a seam route section breaks R53 on a part with these enabled cores, if it does: the spec gives its tables' order no layout. (log entry 26, DESIGN CHOICE) -/
opaque Config.routeFault : List Byte → List Nat → Option Nat

/-- Where a tile-program library breaks the limit of the tile-program store, and that of the operand store (R61): the spec does not give the programs' encoding. (log entry 26, DESIGN CHOICE) -/
opaque Config.tileFault : List Byte → Option Nat
/-- R61. (log entry 26, DESIGN CHOICE) -/
opaque Config.operandFault : List Byte → Option Nat

/-- What IDCODE shifts out (R719): the device identification that IEEE 1149.1 defines. (log entry 6, DESIGN CHOICE; log entry 100, DEDUCED) -/
opaque Config.idcode : List Bool

/-- Bobbin cells (R134). -/
def Config.bobbinCells : Nat := 262144
/-- Cells that tenants' grants may take (R111). -/
def Config.grantCells : Nat := 253952
/-- Commands in flight, device-wide (R41, R149). -/
def Config.maxInFlight : Nat := 16384
/-- Records the LOG ring holds (R736). -/
def Config.logRecords : Nat := 8192

end Sys2Proof
end

