-- ==== Sys2Proof/Machine/State.lean ====
section
/-!
DEFINITION. The state of the LX-7212: every register, buffer, queue, table, mode and pin the spec gives the part, the
commands that wait, and what the part has sent; its faults and refusals; and the state right after a cold reset.
-/
namespace Sys2Proof.Machine

/-- What the part sends out of itself, in the order sent. Output is recorded, never read back by a step. (log entry 7, DESIGN CHOICE) -/
inductive Output where
  /-- Data returned to a host's read of a BAR, and whether it is poisoned. -/
  | readData (host : Nat) (bytes : List Byte) (poison : Bool)
  /-- A CXL.io memory write to a host's memory. -/
  | hostWrite (host addr : Nat) (bytes : List Byte)
  /-- A zero-length read that closes a push or a host-memory destination (R267). -/
  | hostReadZero (host addr : Nat)
  /-- A back-invalidate snoop (R453). -/
  | biSnp (kind : SnpKind) (host line : Nat)
  /-- A plain-region line granted to a host: exclusive or shared, with its data (R453). -/
  | granted (host line : Nat) (excl : Bool) (bytes : List Byte) (poison : Bool)
  /-- Something sent on a ring link (0 is SL0, east, and 1 is SL1, west), or sent again: in DATA frames from this FSEQ on, with this ACK, their CRC as R387 gives it. -/
  | ring (link fseq ack : Nat) (item : RingItem)
  /-- A CONTROL frame with a replay request for a frame (R388). -/
  | ringReplay (link fseq : Nat)
  /-- MATCH_OUT in a slot (R422). -/
  | matchOut (slot : Nat) (high : Bool)
  /-- A mailbox answer: opcode, return code, vendor status, output payload (R75, R474). -/
  | mailbox (opcode ret vendor : Nat) (payload : List Word)
  /-- A CXL.mem request that the host's token bucket lets through (R126). -/
  | admitted (host port req : Nat)
  /-- A request held by its bucket (R126). -/
  | held (host port req : Nat)
  /-- A port that does not accept a request from its link (R127, R437). -/
  | portStalled (port req : Nat)
  /-- An MSI-X message for an event in a log of a function (R475). -/
  | msix (fn log : Nat)
  /-- The DevLoad that a CXL.mem response to a host carries, after the data of a response with data (R129). -/
  | devLoad (host level : Nat)
  /-- A Shuttle packet sent on an Ethernet port in a frame (R487 to R489, R516). -/
  | shuttle (port : Nat) (frame : ShFrame) (pkt : ShPkt)
  /-- An answer to ARP, Neighbour Discovery or an echo request (R487), by its kind: 0, 1, 2. -/
  | etherReply (port kind : Nat) (data : List Byte)
  /-- The timestamp of a PTP event message (R490). -/
  | ptpStamp (port dtime : Nat)
  /-- A page request by PRI (R518). -/
  | pageRequest (host qpn addr : Nat)
  /-- An ATS invalidation completes (R518). -/
  | atsDone (host : Nat)
  /-- A return code of the FM API: 0 Success, 1 Invalid Input, 2 Resources Exhausted (R444 to R447, R747). -/
  | fmReturn (code : Nat)
  /-- What a host function's HDM decoders make of an address of its host: a DPA, or none where no decoder takes it (R442). -/
  | hdmDecode (host hpa : Nat) (dpa : Option Nat)
  /-- An answer to DOE Discovery: the protocol at an index, if it has one, and the next index, 0 after the last (R473). -/
  | doe (fn : Nat) (proto : Option DoeProto) (next : Nat)
  /-- An answer to CDAT Table Access (R473). -/
  | cdat (fn : Nat) (bytes : List Byte)
  /-- A TDI report (R472): the host's HDM decoders, the extents added to it as (region, number), the host range entries that name it, and the tenants bound to it, each with
  its SEALED bit. -/
  | tdiReport (host : Nat) (decoders : List HdmDecoder) (extents : List (Nat × Nat)) (entries : List Nat) (tenants : List (Nat × Bool))
  /-- An answer to an SPDM request or to a request of R629, by the connection's function (R620, R631). -/
  | spdm (fn : Nat) (bytes : List Byte)
  /-- An answer of the PLDM firmware update path (R650): a CXL return code stands for it. -/
  | pldm (code : Nat)
  /-- PPS_OUT rises at a whole second of DTIME and stays high for 100 ms (R712). -/
  | pps (dtime : Nat)
  /-- THERMTRIP_N goes low (R671, R714). -/
  | thermTrip
  /-- An MCTP or PLDM event read by the management controller (R716): its sensor, 0 for a LOG event, and its reading or code. -/
  | platformEvent (sensor reading : Nat)
  /-- What the TAP shifts out (R719). -/
  | tdo (bits : List Bool)
  /-- The class that a slot of a memory controller's wheel served: 0-7 BC, 8 METADATA, 9 MAINT (R123). -/
  | slotServed (mc cls : Nat)
  deriving DecidableEq, Repr

/-- The fused values of one part (R5, R24, R733): DESIGN CHOICE, an X part at stepping 0 with serial number 0. (log entry 3, DESIGN CHOICE) -/
structure Fuses where
  code : Nat
  step : Nat
  serial : Word
  enabled : List Bool
  deriving DecidableEq, Repr

/-- The background command of the mailbox (R75): its opcode, whether it runs, and the status of the last one. -/
structure Background where
  opcode : Nat
  running : Bool
  ret : Nat
  vendor : Nat
  deriving DecidableEq, Repr

set_option maxRecDepth 2048 in
/-- The machine. -/
structure State where
  /-- The commands that wait, first in, first out. -/
  pending : List Instr
  /-- Registers that do not read as their reset value, by register number and index (R744). -/
  regs : NMap Word
  /-- DTIME in ns (R694). -/
  dtime : Nat
  /-- The model's own counter: which free value the next draw takes. -/
  freeCtr : Nat
  out : List Output
  fuses : Fuses
  -- chapter 17
  log : List LogRec
  events : NMap (List EventRec)
  mctp : List (Nat × Nat)
  geoGen : Nat
  geoUpd : Bool
  uaLogAt : Option Nat
  denyLogAt : Option Nat
  -- chapter 13: the fault capsule
  capRecs : List CapRec
  capSnaps : List CapSnap
  capFail : Nat
  capFatal : Nat
  stewards : NMap Steward
  /-- When granules of a stack were reconstructed in the last 24 hours, newest first (R599), and when event 0x0100 was last written for it (R601). -/
  reconTimes : NMap (List Nat)
  reconLog : NMap Nat
  /-- The part's state when a self-test started (R582). -/
  preTest : Nat
  /-- When the rebuild's freeing phase began, and whether event 0x0105 has been written in it (R601). -/
  rebuildAt : Nat
  rebuildWarned : Bool
  -- chapter 02
  staging : Staging
  pattern : Option Pattern
  bootA : Option Pattern
  bootB : Option Pattern
  load : Option LoadRun
  bg : Background
  cores : List CoreRec
  geom : NMap Word
  -- chapter 03
  buckets : NMap Bucket
  wheels : NMap WheelState
  devLevels : List Nat
  -- chapter 04
  spools : NMap Spool
  comps : NMap CompSpool
  rotor : Nat
  inflight : List Cmd
  /-- The model's own counter: the number that the next command taken gets. -/
  nextUid : Nat
  -- chapters 05 to 07
  chunks : NMap Chunk
  seqs : NMap Seq
  pins : NMap PinRec
  nsKeys : NMap Wide
  frames : NMap Frame
  epochs : NMap Nat
  images : NMap FlashImage
  cacheSf : Nat
  metaSf : Nat
  /-- Parity granules of rows that frames have been written in, by row of the layout in force (R236). -/
  parity : NMap (List Byte)
  /-- Stash has been paused for flash use since step 2 of the ladder began (R254). -/
  dropPaused : Bool
  /-- Stored bytes of encoded blocks that CDR_CSTAT1.OUTKIB does not yet show, fewer than 1,024 (R336). -/
  outRem : Nat
  /-- Data granules of a stripe row in the layout in force (R235, R586). -/
  rowN : Nat
  gens : NMap (List Gen)
  viewCache : List ViewLine
  histPages : Nat
  viewSlots : NMap Word
  viewWaits : List ViewWait
  pbase : NMap Nat
  /-- HRT_SYNC: the count of commands taken, and of such writes, below which an access was accepted before the last one (R117). -/
  syncAt : Nat
  -- chapter 10
  plainMem : Memory
  poisonLines : NMap Unit
  orphanLines : NMap Unit
  orphanLog : List OrphanRec
  extents : NMap Extent
  /-- Plain extents whose release was accepted and that have not been added since (R447). -/
  released : NMap Unit
  snoopFilter : List SfLine
  snoops : List Snoop
  lineQ : List LineReq
  lostHosts : List Nat
  unbackedLogAt : Option Nat
  /-- Lines whose BISnpCur for a job of the part's engines has been answered, by the job's number (R453). -/
  curLog : NMap (List Nat)
  -- chapter 09
  rlinks : List RingLink
  ringOut : List (Nat × RingItem)
  rctx : NMap RingCtx
  ringHeld : List RingHeld
  camReqs : List CamReq
  -- chapters 10 and 11: gateway windows and Shuttle
  gws : NMap Gateway
  qps : NMap Qp
  qpKeys : NMap Nat
  shOut : List (Nat × Nat × ShPkt)
  pfcUntil : NMap Nat
  /-- Translations cached for QPs, oldest first: host, PASID, page (R518). -/
  atsCache : List (Nat × Nat × Nat)
  /-- Lines orphaned by a loss whose scan has not ended (R458). -/
  orphanPend : List OrphanRec
  /-- The link configuration in force since each link last trained (R435, R477). -/
  linkIn : NMap Word
  /-- The HDM decoders that each host function has committed, in order (R442). -/
  hdm : NMap (List HdmDecoder)
  -- chapter 10: events and their interrupts
  evLost : NMap Nat
  evPolicy : NMap Nat
  -- chapter 12
  flash : Option FlashGeo
  units : NMap EraseUnit
  streams : NMap Stream
  eraseLists : NMap (List Nat)
  victims : List Nat
  journalUnit : Nat
  slcTarget : Nat
  checkpointAt : Nat
  copiedCw : Nat
  saved : Saved
  -- chapter 14
  tdis : NMap Tdi
  sessions : NMap Session
  /-- The transcript hash that the last signed answer of a connection covered (R620). -/
  signed : NMap (List Byte)
  /-- Key slots of the CXL port islands, by 256 × link + stream: stream 0 is CXL.cachemem IDE, 1 the PCIe IDE link stream, the others selective (R471, R613). -/
  ideKeys : NMap Nat
  /-- Data keys of tenants, and of groups from 1024 on (R624). -/
  dataKeys : NMap Nat
  /-- REQHASH of the seal records (R633). -/
  sealReq : NMap (List Byte)
  /-- The memory key, drawn at each cold reset (R624). -/
  memKey : Nat
  /-- The serial that the next image takes, and the first that the key store does not reserve (R627). -/
  serial : Nat
  serialTop : Nat
  /-- Overwrite counts of key-store rows (R614, R657). -/
  keyRows : NMap Nat
  /-- The nonce of the last CHALLENGE (R641). -/
  nonce : Option Nat
  /-- The DeviceID certificates, once installed, ECDSA first (R616), and the owner certificates enrolled, primary first (R640). -/
  deviceCerts : List (List Byte)
  ownerCerts : List (List Byte)
  /-- The transition record of a crypto-erase (R642). -/
  lcTarget : Option Nat
  /-- Firmware slots A and B, the pair that runs, and the path that is writing: 0 none, 1 the mailbox, 2 PLDM (R645, R650). -/
  slotA : Memory
  slotB : Memory
  fwRun : Option FwPair
  /-- The layers L1 to L3 whose keys have been derived, each with its SVN and its measurements M as they were then (R617 to R619). -/
  measured : List (Nat × List Byte)
  fwWriter : Nat
  /-- The calibration block in NOR0 (R651). -/
  calib : Memory
  /-- What waits for a load to end (R76, R631). -/
  heldActs : List HeldAct
  /-- Tenants that a reset has disabled and will enable again (R676). -/
  tenantResets : List Nat
  -- chapter 15: clocks
  /-- How far the power cap has lowered the core islands, in MHz (R669). -/
  capDown : Nat
  /-- How far ECO has lowered an island, in MHz (R663). -/
  ecoDown : NMap Nat
  /-- Unanswered AVSBus transactions in a row, by rail address (R707); three stop the rail's writes. -/
  avsMiss : NMap Nat
  /-- When clocks were last below FINIT (R664). -/
  lastSlow : Option Nat
  -- chapters 13, 14 and 16: what the key-store keeps of replacement conditions, and latched pins
  keyRepl : Nat
  replaceN : Bool
  -- chapters 15 and 16: supplies, resets and the debug port
  power : Power
  jtag : Jtag
  deriving DecidableEq, Repr

/-- Why the machine would stop with a fault. No meaning of this model ends in one: every error the spec describes is a
result, a poisoned answer, a dropped access or an event, so the machine goes on. (log entry 14, DEDUCED) -/
inductive Fault where
  /-- Raised by no meaning (safe). -/
  | noFault
  deriving DecidableEq, Repr

/-- Why a command has no meaning here. -/
inductive Refusal where
  /-- The dispatch raises it for a command whose meaning is not written (safe: nothing can be proved of its result). -/
  | notModelled (mnemonic : String)
  /-- An access to the DBG block, or a TAP instruction that R719 does not list, in BLANK, PROVISIONED or RETURN: R722 says that the block is not described.
  REGISTER_WRITE, REGISTER_READ_CLEAR and JTAG_INSTRUCTION raise it (safe; log entry 9, DEDUCED). -/
  | debugBlock
  deriving DecidableEq, Repr

/-- The part right after the cold reset of its first power-on, PERST# still asserted: every register at its reset value (no entry in `regs`), every buffer, queue and
table empty, GEO not yet filled (R729), the part BLANK (R639) and media not ready (R678). What the spec gives no value for (the fuses, the key-store's rows, a
blank calibration block) is the model's choice: log entries 3 and 4. (log entries 3 and 4, DESIGN CHOICE) -/
def State.reset : State :=
  {
    pending := [], regs := [], dtime := 0, freeCtr := 0, out := []
    fuses := { code := 1, step := 0, serial := 0, enabled := List.replicate 256 true }
    log := [], events := [], mctp := [], geoGen := 0, geoUpd := true, uaLogAt := none, denyLogAt := none
    capRecs := [], capSnaps := [], capFail := 0, capFatal := 0, stewards := [], reconTimes := [], reconLog := []
    preTest := 0, rebuildAt := 0, rebuildWarned := false
    staging := [], pattern := none, bootA := none, bootB := none, load := none
    bg := { opcode := 0, running := false, ret := 0, vendor := 0 }
    cores := List.replicate 256 { enabled := true, retired := false, panel := none }
    geom := [], buckets := [], wheels := [], devLevels := []
    spools := [], comps := [], rotor := 0, inflight := [], nextUid := 0
    chunks := [], seqs := [], pins := [], nsKeys := [], frames := [], epochs := [], images := []
    cacheSf := 258048, metaSf := 12288, parity := [], dropPaused := false, outRem := 0, rowN := 11
    gens := [], viewCache := [], histPages := 0, viewSlots := [], viewWaits := [], pbase := [], syncAt := 0
    plainMem := [], poisonLines := [], orphanLines := [], orphanLog := [], extents := [], released := [], snoopFilter := [], snoops := [], lineQ := []
    lostHosts := [], unbackedLogAt := none, curLog := []
    rlinks := [], ringOut := [], rctx := [], ringHeld := [], camReqs := []
    gws := [], qps := [], qpKeys := [], shOut := [], pfcUntil := [], atsCache := [], orphanPend := [], linkIn := [], hdm := []
    evLost := [], evPolicy := []
    flash := none, units := [], streams := [], eraseLists := [], victims := [], journalUnit := 0, slcTarget := 0, checkpointAt := 0, copiedCw := 0
    saved := { regs := [], chunks := [], seqs := [], pins := [], images := [], gens := [], geom := [] }
    tdis := [], sessions := [], signed := [], ideKeys := [], dataKeys := [], sealReq := [], memKey := 0, serial := 0, serialTop := 0, keyRows := [], nonce := none
    deviceCerts := [], ownerCerts := [], lcTarget := none, slotA := [], slotB := [], fwRun := none, measured := [], fwWriter := 0, calib := [], heldActs := [], tenantResets := []
    capDown := 0, ecoDown := [], avsMiss := [], lastSlow := none, keyRepl := 0, replaceN := false
    power :=
      {
        stage := .held, pfLow := false, pfHigh := 0, cold := true, cause := 0, coldStart := true, aonFresh := true, flushed := false, flushUs := 0
        sealWhole := true, slew := 0, frac := 0, capAt := 0, quietAt := 0 }
    jtag := { op := .bypass, cells := [], balls := 0 } }

/-- What a meaning answers. -/
abbrev Res := Host.Outcome State Fault Refusal

end Sys2Proof.Machine
end

