-- ==== Sys2Proof/Machine/Ops.lean ====
section
/-!
DEFINITION. The named operations over registers, free values, outputs, the LOG and the fault capsule. Every meaning reads
and writes registers through these.
-/
namespace Sys2Proof.Machine

/-- Where a register's word stands in the register file. -/
def regKey (k : RegKind) (i : Nat) : Nat := k.ctorIdx + 256 * i

/-- The word a register resets to: its fields' reset values, reserved bits zero (R18). CXL_LINKCFG[l].HOSTBASE resets to l (R477). -/
def RegKind.resetWord (k : RegKind) (i : Nat) : Word :=
  if k = .CXL_LINKCFG then BitVec.ofNat 64 i
  else packWord (k.fields.map fun f => (f.lo, f.rst))

/-- The word held for register k, copy i. -/
def State.reg (s : State) (k : RegKind) (i : Nat := 0) : Word :=
  (mapFind s.regs (regKey k i)).getD (k.resetWord i)

/-- Put a word into register k, copy i. -/
def State.setReg (s : State) (k : RegKind) (i : Nat) (w : Word) : State :=
  { s with regs := mapIns (regKey k i) w s.regs }

/-- Take register k, copy i, back to its reset word. -/
def State.resetReg (s : State) (k : RegKind) (i : Nat := 0) : State :=
  { s with regs := mapDel (regKey k i) s.regs }

/-- The value of a field. -/
def State.fld (s : State) (f : Field) (i : Nat := 0) : Nat := bitsOf (s.reg f.reg i) f.hi f.lo

/-- Set a field, keeping the other bits of its register. -/
def State.setFld (s : State) (f : Field) (v : Nat) (i : Nat := 0) : State :=
  s.setReg f.reg i (setBits (s.reg f.reg i) f.hi f.lo v)

/-- Whether a one-bit field is set. -/
def State.flag (s : State) (f : Field) (i : Nat := 0) : Bool := s.fld f i == 1

/-- Add to a count field, saturating at all ones. -/
def State.addFld (s : State) (f : Field) (k : Nat) (i : Nat := 0) : State :=
  s.setFld f (satAdd (f.hi + 1 - f.lo) (s.fld f i) k) i

/-- Add to a count field that wraps. -/
def State.incFld (s : State) (f : Field) (k : Nat) (i : Nat := 0) : State :=
  s.setFld f (s.fld f i + k) i

/-- The indices at which register k holds a word that something has set. -/
def State.regIdx (s : State) (k : RegKind) : List Nat :=
  s.regs.filterMap fun e => if e.1 % 256 = k.ctorIdx then some (e.1 / 256) else none

/-- Send something out of the part. (log entry 7, DESIGN CHOICE) -/
def State.emit (s : State) (o : Output) : State := { s with out := s.out ++ [o] }

/-- Draw a value the spec leaves open. (log entry 6, DESIGN CHOICE) -/
def State.free (s : State) : Nat := Config.freeValue s.freeCtr
/-- Move on past the value just drawn. (log entry 6, DESIGN CHOICE) -/
def State.drawn (s : State) : State := { s with freeCtr := s.freeCtr + 1 }

/-- The moment an event is stamped with: DTIME never runs backwards inside a step (R694). (log entry 7, DESIGN CHOICE; log entry 92, DEDUCED) -/
def State.at_ (s : State) (now : Nat) : State := { s with dtime := max s.dtime now }

/-! ### LOG and the capsule -/

/-- GLB_STATUS mirrors the fields it names (R734). -/
def glbStatusWord (s : State) : Word :=
  packWord [(15, s.fld Fd.GLB_LOCK), (14, s.fld Fd.RAS_STATUS_REPLACE), (13, s.fld Fd.SEC_FW_SAFE),
    (12, s.fld Fd.PWR_STATUS_MEDIA), (9, s.fld Fd.SEC_LC_STATE), (6, s.fld Fd.RAS_STATUS_STATE), (0, s.fld Fd.PAT_STATUS_STATE)]

/-- The last `n` of a list. -/
def lastN {α : Type} (n : Nat) (l : List α) : List α := l.drop (l.length - n)

/-- Take a state snapshot into the capsule's second ring of 64 (R602). -/
def State.snapshot (s : State) : State :=
  { s with capSnaps := lastN 64 (s.capSnaps ++ [{
      rasStatus := s.reg .RAS_STATUS, glbStatus := glbStatusWord s, patStatus := s.reg .PAT_STATUS,
      clocks := (s.regIdx .PWR_CLK).map fun i => (s.reg .PWR_CLK i).toNat,
      lostMap := s.fld Fd.RAS_STATUS_LOSTMAP,
      retired := (List.range 4).map fun i => s.reg .RAS_CORERET i,
      flash := [s.reg .FLT_WEAR, s.reg .FLT_SPARE, s.reg .FLT_ERR0, s.reg .FLT_ERR1, s.reg .FLT_PF],
      meas := (List.range 6).flatMap fun i => leBytes 8 (s.reg .PAT_MEAS i).toNat,
      dtime := s.dtime }]) }

/-- Copy an event of Warning level or above into the capsule's first ring of 4,096 (R602, R736), with a snapshot at a
Failure or Fatal event. -/
def State.capsule (s : State) (level code island addr : Nat) : State :=
  if level = 0 then s
  else
    let s := { s with
      capRecs := lastN 4096 (s.capRecs ++ [{ level, code, island, addr, dtime := s.dtime }]),
      capFail := if level = 2 then satAdd 16 s.capFail 1 else s.capFail,
      capFatal := if level = 3 then satAdd 16 s.capFatal 1 else s.capFatal }
    if level ≥ 2 then s.snapshot else s

/-- Leave an event for the management controller: ALERT_N is asserted while any waits (R716). -/
def State.mctpEvent (s : State) (sensor reading : Nat) : State := { s with mctp := s.mctp ++ [(sensor, reading)] }

/-- The level's count in LOG_SEV (R741). -/
def sevField (sev : Nat) : Field :=
  if sev = 0 then Fd.LOG_SEV_INFO else if sev = 1 then Fd.LOG_SEV_WARNING
  else if sev = 2 then Fd.LOG_SEV_FAILURE else Fd.LOG_SEV_FATAL

/-- The record an event merges into: the newest one of its CODE, ISLAND, TENV and TENANT written within the last 1 ms (R738). -/
def mergesWith (now code island : Nat) (tenant : Option Nat) (r : LogRec) : Bool :=
  r.code == code && r.island == island && r.tenant == tenant && decide (now ≤ r.dtime + 1000000)

/-- Advance the COUNT of the newest record that a test holds for (the list is oldest first). -/
def mergeNewest (p : LogRec → Bool) (l : List LogRec) : List LogRec :=
  let rec go : List LogRec → List LogRec
    | [] => []
    | r :: rs => if p r then { r with count := satAdd 16 r.count 1 } :: rs else r :: go rs
  (go l.reverse).reverse

/-- Append a new record to the ring (R736, R737) with its alert (R716, R732). -/
def State.logAppend (s : State) (code sev island : Nat) (tenant : Option Nat) (a0 a1 : Nat) : State :=
  let l := s.log ++ [{ dtime := s.dtime, count := 1, island, tenant, sev, code, arg0 := a0, arg1 := a1 }]
  let excess := l.length - Config.logRecords
  let s := { s with log := l.drop excess }
  let s := s.incFld Fd.LOG_PTR_WRITTEN 1
  let s := s.incFld Fd.LOG_PTR_OLDEST excess
  let s := s.addFld (sevField sev) 1
  let s := s.capsule sev code island a0
  if sev ≥ s.fld Fd.GLB_CFG_ALERTLVL then s.mctpEvent 0 code else s

/-- Record an event in LOG (R736 to R738): it merges into a record of the last 1 ms that it equals, or is written anew. -/
def State.logEv (s : State) (code sev island : Nat) (tenant : Option Nat) (a0 a1 : Nat) : State :=
  if s.log.any (mergesWith s.dtime code island tenant) then
    { s with log := mergeNewest (mergesWith s.dtime code island tenant) s.log }
  else s.logAppend code sev island tenant a0 a1

/-- ISLAND of an event that names no island (R737). (log entry 15, DESIGN CHOICE) -/
def noIsland : Nat := 0x1FF

/-- A condition recorded only the first time in each 1 ms: whether `now` is outside the 1 ms that began at `last`. -/
def firstInMs (last : Option Nat) (now : Nat) : Bool :=
  match last with
  | none => true
  | some t => decide (t + 1000000 ≤ now)

/-- The fields of an access in the layout of GLB_UA (R735). -/
def uaImage (bar2 wr : Bool) (host size off count : Nat) : Word :=
  packWord [(48, count), (36, host), (32, clog2 size), (31, 1), (29, b2n wr), (28, b2n bar2), (0, off % 2 ^ 26)]

/-- An access that reached an unallocated offset: GLB_UA records the first and counts the others, and the first in each
1 ms writes LOG event 0x0001 while UALOG is 1 (R725, R735). -/
def State.unallocated (s : State) (bar2 wr : Bool) (host size off : Nat) : State :=
  let s :=
    if s.flag Fd.GLB_UA_VALID then s.addFld Fd.GLB_UA_COUNT 1
    else s.setReg .GLB_UA 0 (uaImage bar2 wr host size off 0)
  if s.flag Fd.GLB_CFG_UALOG && firstInMs s.uaLogAt s.dtime then
    { s with uaLogAt := some s.dtime }.logEv 0x0001 0 noIsland none (s.reg .GLB_UA).toNat 0
  else s

/-- R668: the first access or command ends QUIET and STANDBY. (log entry 94, DEDUCED) -/
def State.wake (s : State) : State := if s.fld Fd.PWR_STATUS_PSTATE = 0 then s else s.setFld Fd.PWR_STATUS_PSTATE 0

/-- Media ready (R678). (log entry 100, DEDUCED; log entry 104, DESIGN CHOICE) -/
def mediaReady (s : State) : Bool := s.flag Fd.PWR_STATUS_MEDIA

/-- FAILED (R582, R597). (log entry 81, DEDUCED) -/
def partFailed (s : State) : Bool := s.fld Fd.RAS_STATUS_STATE == 3

/-- Whether loads and stores of HDM ranges are served: until media is ready, and in FAILED, loads return poison and stores are dropped (R597, R678). (log entry 100, DEDUCED; log entry 104, DESIGN CHOICE) -/
def hdmServes (s : State) : Bool := mediaReady s && !partFailed s

/-- A PATTERN_LOAD or PANEL_SWAP holds the live state fixed: from the start of its quiesce until programming ends (R76). -/
def loadHolds (s : State) : Bool := match s.load with | some l => l.phase != .validating | none => false

/-- A PATTERN_LOAD has quiesced the device (R77). -/
def deviceQuiet (s : State) : Bool := loadHolds s && (match s.load with | some l => !l.swap | none => false)

/-- A PANEL_SWAP has quiesced this panel (R83). -/
def panelQuiet (s : State) (p : Nat) : Bool := loadHolds s && (match s.load with | some l => l.swap && l.panel == p | none => false)

/-- All ones, the data of a read that finds nothing (R19). -/
def allOnes (n : Nat) : List Byte := List.replicate n 0xFF

/-! ### The key store (R614, R657) -/

/-- Overwrites of a key-store row (R614, R657): rows 0 to 1,023 are the tenants', the next 256 the groups', then the device's own. (log entry 89, DEDUCED) -/
def State.keyWrites (s : State) (row k : Nat) : State :=
  let n := k + (mapFind s.keyRows row).getD 0
  let s : State := { s with keyRows := mapIns row n s.keyRows }
  if s.fld Fd.SEC_NVS_MAXWR < n then s.setFld Fd.SEC_NVS_MAXWR (min n (2 ^ 32 - 1)) else s

/-- One overwrite of a key-store row. (log entry 89, DEDUCED) -/
def State.keyWrite (s : State) (row : Nat) : State := s.keyWrites row 1

/-- Key-store rows of the device: the life cycle, owner keys, firmware floors, the pattern floor, and the records of chapters 13 and 14. (log entry 89, DEDUCED) -/
def rowLife : Nat := 1280
/-- R614. (log entry 89, DEDUCED) -/
def rowOwner : Nat := 1281
/-- R614. (log entry 89, DEDUCED) -/
def rowFloor : Nat := 1282
/-- R614. (log entry 89, DEDUCED) -/
def rowPattern : Nat := 1283
/-- R614. (log entry 89, DEDUCED) -/
def rowCal : Nat := 1284
/-- R627. (log entry 89, DEDUCED) -/
def rowSerial : Nat := 1285

/-! ### Serials and tweaks (R626, R627) -/

/-- Serials reserved by one key-store write. -/
def serialBatch : Nat := 2 ^ 20

/-- `n` serials are taken; where the reserved ones do not reach, whole batches are reserved first, each with a write of its key-store row (R627). -/
def State.takeSerials (s : State) (n : Nat) : State :=
  let k := (s.serial + n - s.serialTop + serialBatch - 1) / serialBatch
  let s := if s.serial + n ≤ s.serialTop then s else ({ s with serialTop := s.serialTop + k * serialBatch } : State).keyWrites rowSerial k
  { s with serial := s.serial + n }

/-- After a reset the counter starts at the first serial that no batch reserves, so that none repeats (R627). -/
def State.skipSerials (s : State) : State := { s with serial := s.serialTop }

/-- What a frame is encrypted under, and the serial that a new one takes (R627). -/
def State.tagFor (s : State) : TagFrom → State × ImgTag
  | .fresh origin layer => (s.takeSerials 1, { origin, layer, serial := s.serial })
  | .kept t => (s, t)

/-- The KIND of a tweak (R626). -/
inductive TweakKind where
  | coded | raw | token | journal
  deriving DecidableEq, Repr

/-- R626. -/
def TweakKind.code : TweakKind → Nat
  | .coded => 1 | .raw => 2 | .token => 3 | .journal => 4

/-- R626: the XTS tweak of a data unit: UNIT is its coding block, 64-byte line or granule. Token blocks and journal records have LAYER 0. -/
def xtsTweak (t : ImgTag) (unit : Nat) (k : TweakKind) : List Byte :=
  let layer := match k with | .coded => t.layer | .raw => t.layer | .token => 0 | .journal => 0
  leBytes 16 (t.origin % 2 ^ 24 + layer % 128 * 2 ^ 24 + unit % 2 ^ 20 * 2 ^ 32 + k.code * 2 ^ 52 + t.serial % 2 ^ 64 * 2 ^ 64)

end Sys2Proof.Machine
end

