-- ==== Sys2Proof/Machine/Formats.lean ====
section
/-!
DEFINITION. Number formats as the storage of pages needs them, and the geometry of a profile: element widths, row sizes, the layout of a
raw page and of its coding blocks (R55, R59, R237, R288, R291, R301, R307).
-/
namespace Sys2Proof.Machine

/-- Bits of one element of a format (R288). -/
def elemBits (fmt : Nat) : Nat :=
  if fmt = 0 then 32 else if fmt = 1 ∨ fmt = 2 then 16
  else if fmt = 5 ∨ fmt = 6 ∨ fmt = 0xB then 6
  else if fmt = 7 ∨ fmt = 9 ∨ fmt = 0xC ∨ fmt = 0xF then 4 else 8

/-- Bytes of the scale of 32 elements (R288, R290). -/
def scaleBytes (fmt : Nat) : Nat :=
  if fmt = 0xE ∨ fmt = 0xF then 2 else if 0xA ≤ fmt ∧ fmt ≤ 0xD then 1 else 0

/-- The coder's symbol width, none for a format that is never coded (R288, R301). -/
def symW (fmt : Nat) : Option Nat :=
  if fmt ≤ 2 then none else if fmt = 7 ∨ fmt = 9 ∨ fmt = 0xC ∨ fmt = 0xF then some 4 else some 8

/-- ROWB: the bytes of a row of `hdim` elements (R291). -/
def rowBytes (fmt hdim : Nat) : Nat := hdim * elemBits fmt / 8 + hdim / 32 * scaleBytes fmt

/-- The geometry of a profile: the eight fields of R59. -/
structure Geo where
  layers : Nat
  kvheads : Nat
  hdimC : Nat
  qperkv : Nat
  spanC : Nat
  layout : Nat
  kfmt : Nat
  vfmt : Nat
  deriving DecidableEq, Repr

/-- The geometry that word 0 of a panel header gives (R55). -/
def geoOf (w : Word) : Geo :=
  { layers := bitsOf w 23 16, kvheads := bitsOf w 28 24, hdimC := bitsOf w 31 29, qperkv := bitsOf w 36 32,
    spanC := bitsOf w 38 37, layout := bitsOf w 40 39, kfmt := bitsOf w 47 44, vfmt := bitsOf w 51 48 }

/-- The head dimension of a code (R55). -/
def hdimOf (c : Nat) : Nat := [64, 96, 128, 192, 256].getD c 0
/-- The head dimension of a geometry. -/
def Geo.hdim (g : Geo) : Nat := hdimOf g.hdimC
/-- The chunk span of a geometry: 128, 256 or 512 (R55). -/
def Geo.span (g : Geo) : Nat := 128 * 2 ^ g.spanC

/-- The panel of the running pattern that carries a profile. -/
def State.panelCfg (s : State) (prof : Nat) : Option PanelCfg :=
  s.pattern.bind fun p => p.panels.find? fun c => bitsOf (wordAt c.hdr 0) 15 8 == prof

/-- Word 0 of the header that fixes a profile's geometry: as recorded while it has chunks (R59), or as the running pattern gives it. -/
def State.profWord (s : State) (prof : Nat) : Word :=
  match mapFind s.geom prof with
  | some w => w
  | none => match s.panelCfg prof with
    | some c => wordAt c.hdr 0
    | none => 0

/-- The geometry of a profile. -/
def State.geo (s : State) (prof : Nat) : Geo := geoOf (s.profWord prof)

/-- The formats of a page's two halves: the profile's, or its recovery form for both (R262). -/
def pageFmts (g : Geo) (recov : Option Nat) : Nat × Nat :=
  match recov with
  | some f => (f, f)
  | none => (g.kfmt, g.vfmt)

/-- The bytes of the key half of a raw page (R237, R307). -/
def keyHalf (g : Geo) (recov : Option Nat) : Nat := g.kvheads * g.span * rowBytes (pageFmts g recov).1 g.hdim
/-- The bytes of the value half. -/
def valHalf (g : Geo) (recov : Option Nat) : Nat := g.kvheads * g.span * rowBytes (pageFmts g recov).2 g.hdim

/-- The raw page size: both halves, rounded up to a multiple of 4,096 (R237). -/
def rawSize (g : Geo) (recov : Option Nat) : Nat := ceilDiv (keyHalf g recov + valHalf g recov) 4096 * 4096

/-- Coding blocks of a page (R301). -/
def blockCount (g : Geo) (recov : Option Nat) : Nat := rawSize g recov / 4096

/-- The byte offset of the row of head h, key (kv 0) or value (kv 1), at position p (R237). -/
def rowOff (g : Geo) (recov : Option Nat) (kv h p : Nat) : Nat :=
  if kv = 0 then (h * g.span + p) * rowBytes (pageFmts g recov).1 g.hdim
  else keyHalf g recov + (h * g.span + p) * rowBytes (pageFmts g recov).2 g.hdim

/-- The position of the chunk that byte `o` of a raw page belongs to, none for the padding at its end (R237). -/
def posOfByte (g : Geo) (recov : Option Nat) (o : Nat) : Option Nat :=
  if o < keyHalf g recov then some (o / rowBytes (pageFmts g recov).1 g.hdim % g.span)
  else if o < keyHalf g recov + valHalf g recov then
    some ((o - keyHalf g recov) / rowBytes (pageFmts g recov).2 g.hdim % g.span)
  else none

/-- The tensor half of coding block b, that of its first byte: 0 keys, 1 values (R307). -/
def blockKv (g : Geo) (recov : Option Nat) (b : Nat) : Nat := if 4096 * b < keyHalf g recov then 0 else 1

/-- Whether a block holds bytes of both halves; it is always stored raw (R306, R307). -/
def blockMixed (g : Geo) (recov : Option Nat) (b : Nat) : Bool :=
  decide (4096 * b < keyHalf g recov) && decide (keyHalf g recov < 4096 * b + 4096)

/-- The tensor number of a layer's half (R302). -/
def tensorOf (layer kv : Nat) : Nat := 2 * layer + kv

/-! ### Rows, elements and recovery forms -/

/-- The bits of element i of a row (R291). -/
def rowElem (fmt : Nat) (row : List Byte) (i : Nat) : Nat :=
  let w := elemBits fmt
  ofLE (sliceAt row (w * i / 8) ((w + 15) / 8)) / 2 ^ (w * i % 8) % 2 ^ w

/-- The bits of scale k of a row of `hdim` elements (R291). -/
def rowScale (fmt hdim : Nat) (row : List Byte) (k : Nat) : Nat :=
  ofLE (sliceAt row (hdim * elemBits fmt / 8 + k * scaleBytes fmt) (scaleBytes fmt))

/-- The values of the elements of block k of a row as FP32, block scales applied (R300). -/
def blockVals (fmt hdim : Nat) (row : List Byte) (k : Nat) : List Num :=
  let sc := scaleVal fmt (rowScale fmt hdim row k)
  (List.range 32).map fun i => ((elemVal fmt (rowElem fmt row (32 * k + i))).mul sc).round fp32

/-- R300: the scale and the integers that 32 values take in a recovery form. -/
def toRecovery (qmax : Nat) (xs : List Num) : Nat × List Int :=
  if xs.any fun x => !x.isFinite then (0x7E00, xs.map fun _ => 0)
  else
    let a := xs.foldl (fun m x => m.max x.abs) Num.zero
    if Num.lt Num.zero a then
      let s := ((a.div fp32 (.ofInt qmax)).round fp32).round fp16
      let s := match s with
        | .inf _ => Num.fin false 65504 0
        | .fin n m e => if m = 0 then .fin false 1 (-24) else .fin n m e
        | .nan => .nan
      (bits16 s, xs.map fun x => max (-(qmax : Int)) (min (qmax : Int) (x.div fp32 s).rne))
    else (0, xs.map fun _ => 0)

/-- Pack element bits of width w (R291). -/
def packElems (w : Nat) (es : List Nat) : List Byte :=
  leBytes (es.length * w / 8) ((es.zipIdx.map fun e => e.1 % 2 ^ w * 2 ^ (w * e.2)).sum)

/-- A row converted to a recovery form (R300). -/
def recoverRow (fmt recov hdim : Nat) (row : List Byte) : List Byte :=
  if fmt = recov then row
  else
    let qmax := if recov = 0xE then 127 else 7
    let blks := (List.range (hdim / 32)).map fun k => toRecovery qmax (blockVals fmt hdim row k)
    packElems (elemBits recov) (blks.flatMap fun b => b.2.map (intBits (elemBits recov))) ++ blks.flatMap fun b => leBytes 2 b.1

/-- A raw page in one form converted to a recovery form (R262, R300). -/
def recoverPage (g : Geo) (frm : Option Nat) (recov : Nat) (raw : List Byte) : List Byte :=
  let rows := (List.range 2).flatMap fun kv => (List.range g.kvheads).flatMap fun h => (List.range g.span).flatMap fun p =>
    let fmt := if kv = 0 then (pageFmts g frm).1 else (pageFmts g frm).2
    recoverRow fmt recov g.hdim (sliceAt raw (rowOff g frm kv h p) (rowBytes fmt g.hdim))
  sliceAt rows 0 (rawSize g (some recov))

/-! ### Generations (R313 to R316) -/

/-- Where the generations of a tensor of a profile stand. -/
def genKey (prof tensor : Nat) : Nat := 256 * prof + tensor

/-- The live generations of a tensor. -/
def State.gensOf (s : State) (prof tensor : Nat) : List Gen := (mapFind s.gens (genKey prof tensor)).getD []

/-- The CURRENT generation of a tensor, none where it is uncoded (R313). -/
def State.curGen (s : State) (prof tensor : Nat) : Option Gen := (s.gensOf prof tensor).find? fun g => g.st == .current

/-- A live generation by its number. -/
def State.genNum (s : State) (prof tensor n : Nat) : Option Gen := (s.gensOf prof tensor).find? fun g => g.num == n

/-- Encode the raw bytes of a page into its coding blocks (R301, R306, R307): each half under the generation taken for it, blocks of
both halves raw; a recovery form is stored raw throughout (R262). -/
def encodePage (s : State) (prof layer : Nat) (recov : Option Nat) (gens : Option Nat × Option Nat) (raw : List Byte) : List Block :=
  let g := s.geo prof
  (List.range (blockCount g recov)).map fun b =>
    let kv := blockKv g recov b
    let fmt := if kv = 0 then (pageFmts g recov).1 else (pageFmts g recov).2
    let tensor := tensorOf layer kv
    let bytes := sliceAt raw (4096 * b) 4096
    let gen := (if kv = 0 then gens.1 else gens.2).bind fun n => s.genNum prof tensor n
    match recov, symW fmt, blockMixed g recov b, gen with
    | none, some w, false, some gn => encodeBlock prof tensor fmt b w (some (gn.num, gn.table)) bytes
    | _, _, _, _ => rawBlock prof tensor fmt b bytes

/-- Decode block b of a coded frame (R310); an omitted block is one whose positions are all masked (R261) and reads as zeros here. -/
def decodePageBlock (s : State) (prof layer : Nat) (recov : Option Nat) (clens : List Nat) (blocks : List Block) (b : Nat) :
    Except Corrupt (List Byte) :=
  let g := s.geo prof
  let kv := blockKv g recov b
  let fmt := if kv = 0 then (pageFmts g recov).1 else (pageFmts g recov).2
  let tensor := tensorOf layer kv
  match blocks.find? fun k => k.block == b with
  | none => .ok (List.replicate 4096 0)
  | some blk =>
    decodeBlock blk prof tensor fmt b (clens.getD b 0) ((symW fmt).getD 8) ((s.genNum prof tensor blk.gen).map fun gn => gn.table)

/-- The bytes of a coded frame: the sum over its blocks (R238, R307). -/
def codedBytes (clens : List Nat) : Nat := (clens.map fun c => if c = 0 then 0 else blockBytes c).sum

end Sys2Proof.Machine
end

