-- ==== Sys2Proof/Machine/Engine.lean ====
section
/-!
DEFINITION. What the attention engine computes: format pairs, scores, sub-blocks, segments, the final state of a row, and the merge of partials, bit for
bit (R292 to R298, R345 to R359, R378).
-/
namespace Sys2Proof.Machine

/-! ### Format pairs (R292 to R298) -/

/-- Element types (R288): those of the plain formats, which the formats with block scales share. -/
inductive Elem where
  | fp32 | bf16 | fp16 | e4m3 | e5m2 | e3m2 | e2m3 | e2m1 | int8 | int4
  deriving DecidableEq, Repr

/-- The element type of a format code (R288). -/
def elemOf (fmt : Nat) : Elem :=
  match fmt with
  | 0 => .fp32 | 1 => .bf16 | 2 => .fp16 | 3 => .e4m3 | 4 => .e5m2 | 5 => .e3m2 | 6 => .e2m3 | 7 => .e2m1 | 8 => .int8 | 9 => .int4
  | 0xA => .e4m3 | 0xB => .e3m2 | 0xC => .e2m1 | 0xD => .int8 | 0xE => .int8 | _ => .int4

/-- Integer element types. -/
def Elem.isInt (e : Elem) : Bool := e == .int8 || e == .int4

/-- Exact widenings among the narrow types (R293): into E4M3 or E5M2. -/
def widens (a into : Elem) : Bool :=
  a == into || (a == .e3m2 || a == .e2m1 || a == .int4) || (a == .e2m3 && into == .e4m3)

/-- What a pair resolves to (R294). -/
inductive Pair where
  | same | f8 | e4 | e5 | i8 | h | b | c | u
  deriving DecidableEq, Repr

/-- R293: the first rule that applies. -/
def pairOf (r c : Elem) : Pair :=
  let wide (x : Elem) : Bool := x == .bf16 || x == .fp16
  let eight (x : Elem) : Bool := x == .e4m3 || x == .e5m2
  if r = .fp32 ∨ c = .fp32 then .u
  else if wide r ∧ wide c ∧ r ≠ c then .c
  else if r = c then .same
  else if r = .bf16 ∨ c = .bf16 then .b
  else if r = .fp16 ∨ c = .fp16 then .h
  else if eight r ∧ eight c then .f8
  else if r.isInt ∧ c.isInt then .i8
  else if eight r then (if c ≠ .int8 ∧ widens c r then (if r = .e4m3 then .e4 else .e5) else .h)
  else if eight c then (if r ≠ .int8 ∧ widens r c then (if c = .e4m3 then .e4 else .e5) else .h)
  else if r ≠ .int8 ∧ c ≠ .int8 then .e4
  else .h

/-- The result of R298 for a pair: the code and detail that it ends a command with. -/
def pairFault (p : Pair) : Option (Nat × Nat) :=
  match p with
  | .c => some (0x12, 0x0137)
  | .u => some (0x13, 0x0138)
  | _ => none

/-! ### Elements, scales and factors (R297) -/

/-- The value of an element as the array multiplies it: an MXINT8 element as its integer (R297). -/
def elemRaw (fmt bits : Nat) : Num := if fmt = 0xD then .ofInt (bitsInt 8 bits) else elemVal fmt bits

/-- The value that one side gives a block's factor (R297): its scale, with 2^-6 for MXINT8; one where the format has no scales. -/
def sideFactor (fmt hdim : Nat) (row : List Byte) (k : Nat) : Num :=
  if scaleBytes fmt = 0 then .fin false 1 0
  else
    let sc := scaleVal fmt (rowScale fmt hdim row k)
    if fmt = 0xD then sc.mul (.fin false 1 (-6)) else sc

/-- A product (R296): exact, and an infinity where it lies beyond the FP32 range. -/
def product (a b : Num) : Num :=
  match a.mul b with
  | .fin neg m e => if m ≠ 0 ∧ 127 < (Nat.log2 m : Int) + e then .inf neg else .fin neg m e
  | x => x

/-- Add neighbouring pairs, level by level, each addition rounded once to FP32 (R349, R355). -/
def pairSums : List Num → List Num
  | a :: b :: rest => fadd a b :: pairSums rest
  | l => l

/-- A tree of `levels` levels. -/
def tree : Nat → List Num → Num
  | 0, l => l.headD Num.zero
  | n + 1, l => tree n (pairSums l)

/-- The sum of exact integers. -/
def exactSum (xs : List Num) : Num := xs.foldl Num.add Num.zero

/-- The block partial of 32 products (R349): an integer block sums exactly, any other in five rounded levels; then the factor. -/
def blockPartial (qf kf hdim : Nat) (q key : List Byte) (k : Nat) : Num :=
  let ps := (List.range 32).map fun i => product (elemRaw qf (rowElem qf q (32 * k + i))) (elemRaw kf (rowElem kf key (32 * k + i)))
  let sum := if (elemOf qf).isInt ∧ (elemOf kf).isInt then exactSum ps else tree 5 ps
  let f := ((sideFactor qf hdim q k).mul (sideFactor kf hdim key k)).round fp32
  fmul sum f

/-- R349: the dot product of a query row and a key row. -/
def dot (qf kf hdim : Nat) (q key : List Byte) : Num :=
  match (List.range (hdim / 32)).map (blockPartial qf kf hdim q key) with
  | [] => Num.zero
  | t :: ts => ts.foldl fadd t

/-! ### exp2 (R355) -/

/-- ln 2 times 2^160, rounded down. -/
def ln2Fix : Nat := 1013035739299659071135698605846798551586536899366

/-- The terms of the exponential series of y / 2^160, summed in units of 2^-160. -/
def expSeries (y : Nat) : Nat → Nat → Nat → Nat
  | 0, _, _ => 0
  | fuel + 1, k, term => term + expSeries y fuel (k + 1) (term * y / 2 ^ 160 / (k + 1))

/-- 2^(n + f / 2^64) rounded once to FP32. Only a whole exponent gives an exact result, so otherwise a sticky bit stands for what lies below 2^-160. -/
def exp2Fix (n : Int) (f : Nat) : Num :=
  if f = 0 then roundFin fp32 false 1 n
  else roundFin fp32 false (2 * expSeries (f * ln2Fix / 2 ^ 64) 48 0 (2 ^ 160) + 1) (n - 161)

/-- R355: 2^x correctly rounded to FP32. Below 2^-40 in magnitude 2^x rounds to 1. -/
def exp2 : Num → Num
  | .nan => .nan
  | .inf neg => if neg then Num.zero else .inf false
  | .fin neg m e =>
    if m = 0 then .fin false 1 0
    else if (Nat.log2 m : Int) + e ≥ 8 then (if neg then Num.zero else .inf false)
    else if (Nat.log2 m : Int) + e < -40 then .fin false 1 0
    else
      let v : Nat := if 0 ≤ e + 64 then m * 2 ^ (e + 64).toNat else m / 2 ^ (-(e + 64)).toNat
      let z : Int := if neg then -(v : Int) else v
      exp2Fix (z / 2 ^ 64) (z % 2 ^ 64).toNat

/-- max, a NaN where either operand is one (R355). -/
def fmax (a b : Num) : Num :=
  match a, b with
  | .nan, _ => .nan
  | _, .nan => .nan
  | a, b => a.max b

/-- a - b rounded to FP32. -/
def fsub (a b : Num) : Num := fadd a b.neg

/-! ### The reduction plan (R345, R347) -/

/-- The reduction plan record's fields. -/
structure Plan1 where
  pfmt : Nat
  pshift : Nat
  segLog : Nat
  sc : Num
  deriving DecidableEq, Repr

/-- R345: bytes 8 to 23 of the library section. -/
def planOf (rec : List Byte) : Plan1 :=
  let w := ofLE (sliceAt rec 0 8)
  { pfmt := natBits w 23 16, pshift := natBits w 31 24, segLog := natBits w 39 32, sc := val32 (ofLE (sliceAt rec 8 4)) }

/-- The element format a probability is converted to (R345). -/
def probFmt (pfmt : Nat) : Nat := if pfmt = 1 then 1 else if pfmt = 2 then 2 else if pfmt = 3 then 3 else 4

/-- The float format of PFMT. -/
def probFloat (pfmt : Nat) : FloatFmt :=
  if pfmt = 1 then bf16 else if pfmt = 2 then fp16 else if pfmt = 3 then { p := 4, emin := -9, emax := 8 } else { p := 3, emin := -16, emax := 15 }

/-- cvt_p (R355): round-to-nearest-even, and what lies below the smallest subnormal becomes zero. -/
def cvtP (pfmt : Nat) (x : Num) : Num :=
  let f := probFloat pfmt
  if x.lt (.fin false 1 f.emin) then Num.zero else x.round f

/-! ### Rows (R349 to R358) -/

/-- The key row and the value row of a position, in its page's stored formats, and its score for the row at hand. -/
structure Att where
  score : Num
  vfmt : Nat
  v : List Byte
  deriving DecidableEq, Repr

/-- The state of a row (R355). -/
structure RowSt where
  m : Num
  l : Num
  acc : List Num
  deriving DecidableEq, Repr

/-- The empty state (R355). -/
def RowSt.empty (hdim : Nat) : RowSt := { m := .inf true, l := Num.zero, acc := List.replicate hdim Num.zero }

/-- R350, R351: the bias of a query head's table at distance d. -/
def biasAt (tb : List Nat × Nat) (d : Nat) : Num :=
  if d < 4096 then val32 (tb.1.getD d 0)
  else fadd (val32 (tb.1.getD 4095 0)) (fmul (val32 tb.2) ((Num.ofInt ((d : Int) - 4095)).round fp32))

/-- R349: a score; `bias` none is BIASOFF. -/
def score1 (pl : Plan1) (qf kf hdim : Nat) (q key : List Byte) (bias : Option Num) : Num :=
  fadd (fmul (dot qf kf hdim q key) pl.sc) (bias.getD Num.zero)

/-- Element d of a value row, as the array multiplies it, and its factor; a format without scales has none (R356). -/
def valueTerm (hdim : Nat) (a : Att) (q : Num) (d : Nat) : Num :=
  let p := product q (elemRaw a.vfmt (rowElem a.vfmt a.v d))
  if scaleBytes a.vfmt = 0 then p else fmul p ((sideFactor a.vfmt hdim a.v (d / 32)).round fp32)

/-- R355: one sub-block of 64 positions; also lsub and mn where it took part. -/
def subBlock (pl : Plan1) (hdim : Nat) (st : RowSt) (xs : List (Option Att)) : RowSt × Option (Num × Num) :=
  let ss := xs.filterMap fun x => x.map fun a => a.score
  match ss with
  | [] => (st, none)
  | s0 :: rest =>
    let mb := rest.foldl fmax s0
    if mb = .inf true then (st, none)
    else
      let mn := fmax st.m mb
      let alpha := exp2 (fsub st.m mn)
      let qs := xs.map fun x => match x with
        | some a => cvtP pl.pfmt (exp2 (fadd (fsub a.score mn) (.ofInt pl.pshift)))
        | none => Num.zero
      let lsub := tree 6 qs
      let l := fadd (fmul alpha st.l) lsub
      let acc := st.acc.zipIdx.map fun e =>
        let terms := (xs.zip qs).map fun y => match y.1 with
          | some a => valueTerm hdim a y.2 e.2
          | none => Num.zero
        fadd (fmul alpha e.1) (tree 6 terms)
      ({ m := mn, l, acc }, some (lsub, mn))

/-- R357: two partials of neighbouring segments. -/
def segMerge (a b : RowSt) : RowSt :=
  if a.m = .inf true then b
  else if b.m = .inf true then a
  else
    let mn := fmax a.m b.m
    let wa := exp2 (fsub a.m mn)
    let wb := exp2 (fsub b.m mn)
    { m := mn, l := fadd (fmul wa a.l) (fmul wb b.l), acc := List.zipWith (fun x y => fadd (fmul wa x) (fmul wb y)) a.acc b.acc }

/-- One level of the merge. -/
def mergePairs : List RowSt → List RowSt
  | a :: b :: rest => segMerge a b :: mergePairs rest
  | l => l

/-- R357: level by level to one partial. -/
def mergeAll : Nat → List RowSt → List RowSt
  | 0, l => l
  | n + 1, l => if l.length ≤ 1 then l else mergeAll n (mergePairs l)

/-- What a row has come to: its final state, and lsub and mn of each sub-block that took part (R378). -/
structure RowRun where
  st : RowSt
  subs : List (Nat × Num × Num)
  deriving DecidableEq, Repr

/-- Fold the sub-blocks of one segment that meet the window [lo, hi). -/
def runSegment (pl : Plan1) (hdim : Nat) (get : Nat → Option Att) : List Nat → RowSt → List (Nat × Num × Num) → RowSt × List (Nat × Num × Num)
  | [], st, subs => (st, subs)
  | j :: rest, st, subs =>
    match subBlock pl hdim st ((List.range 64).map fun i => get (64 * j + i)) with
    | (st, some x) => runSegment pl hdim get rest st (subs ++ [(j, x.1, x.2)])
    | (st, none) => runSegment pl hdim get rest st subs

/-- R354, R355, R357: a row over the window [lo, hi); `get` gives the attended positions. -/
def runRow (pl : Plan1) (hdim lo hi : Nat) (get : Nat → Option Att) : RowRun :=
  let seg := 2 ^ pl.segLog
  let parts := (List.range ((hi + seg - 1) / seg)).map fun k =>
    let js := ((List.range (seg / 64)).map (seg / 64 * k + ·)).filter fun j => decide (lo < 64 * j + 64) && decide (64 * j < hi)
    runSegment pl hdim get js (RowSt.empty hdim) []
  { st := ((mergeAll (parts.length + 1) (parts.map fun p => p.1)).head?).getD (RowSt.empty hdim), subs := parts.flatMap fun p => p.2 }

/-- A partial result of a row (R358, R359): its outputs as FP32, MAX2 and SUM. -/
structure Partial where
  o : List Num
  max2 : Num
  sum : Num
  deriving DecidableEq, Repr

/-- R358: a NaN anywhere makes all of a row's results NaN. -/
def Partial.seal (p : Partial) : Partial :=
  if p.max2 = .nan ∨ p.sum = .nan ∨ p.o.any (· == .nan) then { o := p.o.map fun _ => .nan, max2 := .nan, sum := .nan } else p

/-- R358: the results of a row. -/
def rowPartial (pl : Plan1) (hdim : Nat) (st : RowSt) : Partial :=
  if st.m = .inf true then { o := List.replicate hdim Num.zero, max2 := .inf true, sum := Num.zero }
  else ({ o := st.acc.map fun a => a.div fp32 st.l, max2 := st.m, sum := fmul st.l (.fin false 1 (-(pl.pshift : Int))) } : Partial).seal

/-- R359: the merge of partials, in the order given. -/
def mergePartials (hdim : Nat) (ps : List Partial) : Partial :=
  let m := ps.foldl (fun m p => fmax m p.max2) (.inf true)
  if m = .inf true then { o := List.replicate hdim Num.zero, max2 := .inf true, sum := Num.zero }
  else
    let step (a : Num × List Num) (p : Partial) : Num × List Num :=
      if p.max2 = .inf true then a
      else
        let w := fmul p.sum (exp2 (fsub p.max2 m))
        (fadd a.1 w, List.zipWith (fun x o => fadd x (fmul w o)) a.2 p.o)
    let r := ps.foldl step (Num.zero, List.replicate hdim Num.zero)
    ({ o := r.2.map fun x => x.div fp32 r.1, max2 := m, sum := r.1 } : Partial).seal

/-- Bytes of an output element (R362). -/
def outBytes (ofmt : Nat) : Nat := if ofmt = 0 then 4 else 2

/-- An output element: 0 FP32, 1 BF16, 2 FP16 (R358, R362). -/
def outElem (ofmt : Nat) (x : Num) : List Byte :=
  if ofmt = 0 then leBytes 4 (bits32 x) else if ofmt = 1 then leBytes 2 (bitsBf (x.round bf16)) else leBytes 2 (bits16 (x.round fp16))

/-- The statistics of a row (R362). -/
def statBytes (p : Partial) : List Byte := leBytes 4 (bits32 p.max2) ++ leBytes 4 (bits32 p.sum)

/-- Outputs of rows and, where asked for, their statistics (R362). -/
def outImage (ofmt : Nat) (stats : Bool) (ps : List Partial) : List Byte :=
  (ps.flatMap fun p => p.o.flatMap (outElem ofmt)) ++ (if stats then ps.flatMap statBytes else [])

/-- floor(x * 65536), at most 65,535, of a finite number that is not negative (R378). -/
def massUnits (x : Num) : Nat :=
  match x with
  | .fin false m e => min 65535 (if 0 ≤ e + 16 then m * 2 ^ (e + 16).toNat else m / 2 ^ (-(e + 16)).toNat)
  | .inf false => 65535
  | _ => 0

/-- R378: a row's mass on one sub-block. -/
def massOf (st : RowSt) (lsub mn : Num) : Nat := massUnits ((fmul lsub (exp2 (fsub mn st.m))).div fp32 st.l)

/-- R378: the masses of a row by sub-block; a row that attended nothing, or is NaN, contributes nothing. -/
def rowMasses (r : RowRun) : List (Nat × Nat) :=
  if r.st.m = .inf true ∨ r.st.m = .nan then [] else r.subs.map fun x => (x.1, massOf r.st x.2.1 x.2.2)

end Sys2Proof.Machine
end

