-- ==== Sys2Proof/Machine/Events.lean ====
section
/-!
DEFINITION. CXL event records, the fault chapter's events, replacement requests, the part's state and the geometry generation: what several chapters raise
(R88, R475, R582, R599 to R601, R715, R729).
-/
namespace Sys2Proof.Machine

/-- The function number under which the operator function's event logs stand; a host function's is its host ID. (log entry 16, DEDUCED) -/
def operatorFn : Nat := 16

/-- Records an event log holds (R475). -/
def eventLogSize : Nat := 1024

/-- The event logs of a function: 0 Informational, 1 Warning, 2 Failure, 3 Fatal, 4 Dynamic Capacity. -/
def State.eventLog (s : State) (fn log : Nat) : List EventRec := ((mapFind s.events fn).getD []).filter fun e => e.log == log

/-- A handle that no record of the function has. -/
def State.eventHandle (s : State) (fn : Nat) : Nat := ((mapFind s.events fn).getD []).foldl (fun m e => max m e.handle) 0 + 1

/-- The interrupt mode a function has for a log (R475): 1 signals MSI-X. -/
def State.eventMode (s : State) (fn log : Nat) : Nat := (mapFind s.evPolicy (8 * fn + log)).getD 0

/-- Write an event record to a log of a function: a full log counts it as lost (R475). -/
def State.cxlEvent (s : State) (fn log code island stack cause addr : Nat) : State :=
  if eventLogSize ≤ (s.eventLog fn log).length then
    { s with evLost := mapIns (8 * fn + log) (satAdd 16 ((mapFind s.evLost (8 * fn + log)).getD 0) 1) s.evLost }
  else
    let r : EventRec := { handle := s.eventHandle fn, log, code, island, stack, cause, addr, dtime := s.dtime, count := 1 }
    let s := { s with events := mapIns fn ((mapFind s.events fn).getD [] ++ [r]) s.events }
    if s.eventMode fn log = 1 then s.emit (.msix fn log) else s

/-- An event of the CXL chapter (R475, R739): a vendor-specific CXL record in a function's log, and LOG. (log entry 15, DESIGN CHOICE; log entry 16, DEDUCED) -/
def State.cxlNote (s : State) (fn level code arg0 arg1 : Nat) : State :=
  (s.cxlEvent fn level code 0xFFFF 0xFF 0 arg0).logEv code level noIsland none arg0 arg1

/-- The log level of an event of the fault chapter (R601); a self-test's depends on its result and is given by the caller. -/
def rasLevel (code : Nat) : Nat :=
  match code with
  | 0x0100 => 0 | 0x0101 => 1 | 0x0102 => 2 | 0x0103 => 0 | 0x0104 => 1 | 0x0105 => 1 | 0x0106 => 1 | 0x0107 => 2
  | 0x0108 => 3 | 0x0109 => 0 | 0x010A => 1 | 0x010B => 1 | 0x010C => 2 | _ => 0

/-- An event of the fault chapter (R601): a CXL record of the operator function, and LOG. (log entry 16, DEDUCED) -/
def State.rasEventAt (s : State) (level code : Nat) (island stack : Option Nat) (cause addr : Nat) : State :=
  (s.cxlEvent operatorFn level code (island.getD 0xFFFF) (stack.getD 0xFF) cause addr).logEv code level (island.getD noIsland) none addr
    (stack.getD 0xFF + cause * 256)

/-- R601. -/
def State.rasEvent (s : State) (code : Nat) (island stack : Option Nat) (cause addr : Nat) : State :=
  s.rasEventAt (rasLevel code) code island stack cause addr

/-- PGT_RECOV follows the conditions of R262. -/
def State.recovSync (s : State) : State :=
  let s := s.setFld Fd.PGT_RECOV_DEGRADED (b2n (s.fld Fd.RAS_STATUS_STATE == 2))
  s.setFld Fd.PGT_RECOV_ACTIVE (b2n (s.flag Fd.PGT_RECOV_DEGRADED || s.flag Fd.PGT_RECOV_SELFTEST || s.flag Fd.PGT_RECOV_REBUILD))

/-- The part's state changes (R582): sensor 9 reports it (R743). -/
def State.setPart (s : State) (n : Nat) : State :=
  if s.fld Fd.RAS_STATUS_STATE = n then s else ((s.setFld Fd.RAS_STATUS_STATE n).mctpEvent 9 (n + 1)).recovSync

/-- The part has lost something it was made with: OPTIMAL becomes REDUCED (R582). -/
def State.reduced (s : State) : State := if s.fld Fd.RAS_STATUS_STATE = 0 then s.setPart 1 else s

/-- A replacement condition, by its bit of RAS_REPL (R599): the last two are the ones an operator clears. -/
def replField (b : Nat) : Field :=
  match b with
  | 0 => Fd.RAS_REPL_STACKLOST | 1 => Fd.RAS_REPL_FAILED | 2 => Fd.RAS_REPL_SHORT | 3 => Fd.RAS_REPL_CORES | 4 => Fd.RAS_REPL_FLSPARE
  | 5 => Fd.RAS_REPL_FLWEAR | 6 => Fd.RAS_REPL_FLCHAN | 7 => Fd.RAS_REPL_HBMRATE | _ => Fd.RAS_REPL_STEWARD

/-- A replacement condition becomes true (R599, R600): REPLACE_N, RAS_STATUS.REPLACE, event 0x010C, and the replacement sensor when the request begins; a lasting
condition is kept in the key store (R715). -/
def State.requestReplace (s : State) (b : Nat) : State :=
  if s.flag (replField b) then s
  else
    let first := !s.flag Fd.RAS_STATUS_REPLACE
    let s := (s.setFld (replField b) 1).setFld Fd.RAS_STATUS_REPLACE 1
    let s : State := { s with replaceN := true, keyRepl := if b < 7 ∧ !bitAt s.keyRepl b then s.keyRepl + 2 ^ b else s.keyRepl }
    let s := s.rasEvent 0x010C none none (b + 1) (s.reg .RAS_REPL).toNat
    if first then s.mctpEvent 8 2 else s

/-- A condition ends (R599, R607, R715): with the last bit gone the request ends. -/
def State.endReplace (s : State) (b : Nat) : State :=
  if !s.flag (replField b) then s
  else
    let s := s.setFld (replField b) 0
    let s : State := { s with keyRepl := if bitAt s.keyRepl b then s.keyRepl - 2 ^ b else s.keyRepl }
    if s.reg .RAS_REPL = 0 then ({ s with replaceN := decide (s.keyRepl ≠ 0) }.setFld Fd.RAS_STATUS_REPLACE 0).mctpEvent 8 1 else s

/-- R88, R729: the geometry has changed: GEN advances, LOG and a CXL event say why. (log entry 16, DEDUCED) -/
def State.geoBump (s : State) (cause : Nat) : State :=
  let s := { s with geoGen := (s.geoGen + 1) % 2 ^ 32 }
  (s.cxlEvent operatorFn 0 0x0003 0xFFFF 0xFF cause s.geoGen).logEv 0x0003 0 noIsland none s.geoGen cause

end Sys2Proof.Machine
end

