-- ==== Sys2Proof/Machine/Flags.lean ====
section
/-!
DEFINITION. The completion codes and details (R170, R171), the header of a command (R143) and the entry of its completion
(R156, R157).
-/
namespace Sys2Proof.Machine

/-- Completion codes (R170). -/
def Cc.ok : Nat := 0x00
/-- R170. -/
def Cc.partial_ : Nat := 0x01
/-- R170. -/
def Cc.late : Nat := 0x02
/-- R170. -/
def Cc.recompute : Nat := 0x03
/-- R170. -/
def Cc.invalidHandle : Nat := 0x10
/-- R170. -/
def Cc.noRights : Nat := 0x11
/-- R170. -/
def Cc.formatConflict : Nat := 0x12
/-- R170. -/
def Cc.formatUnsupported : Nat := 0x13
/-- R170. -/
def Cc.quota : Nat := 0x14
/-- R170. -/
def Cc.noSpace : Nat := 0x15
/-- R170. -/
def Cc.panelBusy : Nat := 0x16
/-- R170. -/
def Cc.cancelled : Nat := 0x17
/-- R170. -/
def Cc.poisoned : Nat := 0x18
/-- R170. -/
def Cc.crcMismatch : Nat := 0x19
/-- R170. -/
def Cc.tableGone : Nat := 0x1A
/-- R170. -/
def Cc.degradedForm : Nat := 0x1B
/-- R170. -/
def Cc.internal : Nat := 0x20

/-- Opcodes (R145). -/
def Oc.lookup : Nat := 0x01
/-- R145. -/
def Oc.extend : Nat := 0x02
/-- R145. -/
def Oc.append : Nat := 0x03
/-- R145. -/
def Oc.commit : Nat := 0x04
/-- R145. -/
def Oc.fork : Nat := 0x05
/-- R145. -/
def Oc.release : Nat := 0x06
/-- R145. -/
def Oc.pin : Nat := 0x07
/-- R145. -/
def Oc.unpin : Nat := 0x08
/-- R145. -/
def Oc.deliver : Nat := 0x09
/-- R145. -/
def Oc.attend : Nat := 0x10
/-- R145. -/
def Oc.attendBatch : Nat := 0x11
/-- R145. -/
def Oc.verify : Nat := 0x12
/-- R145. -/
def Oc.ringAttend : Nat := 0x13
/-- R145. -/
def Oc.fill : Nat := 0x20
/-- R145. -/
def Oc.copy : Nat := 0x21
/-- R145. -/
def Oc.compare : Nat := 0x22
/-- R145. -/
def Oc.reduce : Nat := 0x23
/-- R145. -/
def Oc.gather : Nat := 0x24
/-- R145. -/
def Oc.tableLoad : Nat := 0x30
/-- R145. -/
def Oc.tableRetire : Nat := 0x31
/-- R145. -/
def Oc.fence : Nat := 0x38
/-- R145. -/
def Oc.nop : Nat := 0x3F

/-- The attention opcodes (R145). -/
def isAttention (op : Nat) : Bool :=
  op == Oc.attend || op == Oc.attendBatch || op == Oc.verify || op == Oc.ringAttend

/-- An opcode's cut-through threshold in cells, none for "All" (R145); none at all where the opcode is not in the table. -/
def opThreshold (op : Nat) : Option (Option Nat) :=
  if op = Oc.lookup ∨ op = Oc.deliver ∨ op = Oc.attend ∨ op = Oc.ringAttend ∨ op = Oc.gather then some (some 1)
  else if op = Oc.attendBatch ∨ op = Oc.verify then some (some 2)
  else if op = Oc.extend ∨ op = Oc.append ∨ op = Oc.commit ∨ op = Oc.fork ∨ op = Oc.release ∨ op = Oc.pin ∨ op = Oc.unpin ∨
      op = Oc.fill ∨ op = Oc.copy ∨ op = Oc.compare ∨ op = Oc.reduce ∨ op = Oc.tableLoad ∨ op = Oc.tableRetire ∨
      op = Oc.fence ∨ op = Oc.nop then some none
  else none

/-- Header fields of a command's first word (R143). -/
def hdrCrc (w : Word) : Nat := bitsOf w 63 32
/-- R143. -/
def hdrTag (w : Word) : Nat := bitsOf w 31 16
/-- R143. -/
def hdrCrcEn (w : Word) : Bool := bitsOf w 13 13 == 1
/-- R143. -/
def hdrCq (w : Word) : Nat := bitsOf w 12 12
/-- R143. -/
def hdrNcell (w : Word) : Nat := bitsOf w 11 8
/-- R143. -/
def hdrOpcode (w : Word) : Nat := bitsOf w 7 0

/-- RESULT0 of a completion that carries a DETAIL (R156). -/
def detailWord (d : Nat) : Word := BitVec.ofNat 64 (d % 65536)

/-- The four words of a completion entry (R156); ECHK covers bytes 0 to 29 (R157). -/
def entryWords (d : Done) (freed dtime : Nat) : List Word :=
  let w0 := packWord [(63, 1), (48, d.code), (40, d.opcode), (38, d.sq), (32, d.ncell), (16, d.tag), (0, d.seq)]
  let w3 := packWord [(32, freed), (0, dtime % 2 ^ 32)]
  let chk := crc16 ((bytesOf [w0, d.r0, d.r1, w3]).take 30)
  [w0, d.r0, d.r1, setBits w3 63 48 chk]

end Sys2Proof.Machine
end

