-- ==== Sys2Proof/Machine/Hrt.lean ====
section
/-!
DEFINITION. The host range table: which accesses of which host are allowed, in whose name they run, and what a denial does
(R114 to R119), and the DPA space (R441).
-/
namespace Sys2Proof.Machine

/-- The states of a tenant (R100). -/
inductive TState where
  | free | configured | active | draining | disabled | shredding
  deriving DecidableEq, Repr

/-- The state code of TNT_STATE.STATE (R100). -/
def TState.code : TState → Nat
  | .free => 0 | .configured => 1 | .active => 2 | .draining => 3 | .disabled => 4 | .shredding => 5

/-- A tenant's state. -/
def State.tstate (s : State) (t : Nat) : Nat := s.fld Fd.TNT_STATE_STATE t

/-- Whether a tenant is ACTIVE. -/
def State.active (s : State) (t : Nat) : Bool := s.tstate t == TState.active.code

/-- The profile a tenant is bound to (R101). -/
def State.profileOf (s : State) (t : Nat) : Nat := s.fld Fd.TNT_BIND_PROFILE t

/-- The pattern's isolation mode: true in LX-5108 compatibility mode (R119). -/
def State.compat (s : State) : Bool := s.flag Fd.PAT_STATUS_COMPAT

/-- The kinds of access that R108 and R115 tell apart. -/
inductive AccKind where
  /-- A read of a tenant's presence-probe window. -/
  | probeRead
  /-- A read of a completion spool head or of its replay area. -/
  | headRead
  | other
  deriving DecidableEq, Repr

/-- Whether the state of the tenant lets an access of this kind match (R115, R108). -/
def stateAllows (s : State) (t : Nat) (k : AccKind) : Bool :=
  s.active t || k == .probeRead ||
    (k == .headRead && (s.tstate t == TState.draining.code || s.tstate t == TState.disabled.code))

/-- Whether an entry's range holds the address (R115): SPACE 1 by the tenant's BAR2 window, SPACE 0 by BASE to LIMIT. -/
def hrtCovers (s : State) (e : Nat) (bar2 : Bool) (a : Nat) : Bool :=
  if bar2 then s.flag Fd.HRT_CTL_SPACE e && a / 65536 == s.fld Fd.HRT_CTL_TENANT e
  else !s.flag Fd.HRT_CTL_SPACE e && s.fld Fd.HRT_BASE_BASE e ≤ a / 65536 && a / 65536 ≤ s.fld Fd.HRT_LIMIT_LIMIT e

/-- Whether entry e matches an access of host h in native mode (R115). -/
def hrtMatches (s : State) (h : Nat) (bar2 : Bool) (a : Nat) (wr : Bool) (k : AccKind) (e : Nat) : Bool :=
  let t := s.fld Fd.HRT_CTL_TENANT e
  s.flag Fd.HRT_CTL_VALID e && s.fld Fd.HRT_CTL_HOST e == h && s.fld Fd.TNT_BIND_HOST t == h &&
    stateAllows s t k && hrtCovers s e bar2 a && (if wr then s.flag Fd.HRT_CTL_WR e else s.flag Fd.HRT_CTL_RD e)

/-- Whether a valid entry covers the access in compatibility mode, where HOST, RD and WR are ignored (R119). (log entry 30, DEDUCED) -/
def hrtNames (s : State) (bar2 : Bool) (a : Nat) (e : Nat) : Bool :=
  s.flag Fd.HRT_CTL_VALID e && hrtCovers s e bar2 a

/-- The entry and tenant an access runs under, or none where it is denied (R115, R119). (log entry 30, DEDUCED) -/
def hrtLookup (s : State) (h : Nat) (bar2 : Bool) (a : Nat) (wr : Bool) (k : AccKind) : Option (Nat × Nat) :=
  if s.compat then
    match (s.regIdx .HRT_CTL).find? (hrtNames s bar2 a) with
    | none => none
    | some e =>
      let t := s.fld Fd.HRT_CTL_TENANT e
      if stateAllows s t k then some (e, t) else none
  else
    match (s.regIdx .HRT_CTL).find? (hrtMatches s h bar2 a wr k) with
    | none => none
    | some e => some (e, s.fld Fd.HRT_CTL_TENANT e)

/-! ### The DPA space (R441) -/

/-- Plain extents that the DPA space holds: the cache superframes divided by 128 (R441). -/
def dpaExtents (cacheSf : Nat) : Nat := cacheSf / 128

/-- What a DPA lies in. -/
inductive DpaPlace where
  | plain (extent off : Nat)
  | gateway (g off : Nat)
  | view (t off : Nat)
  | unbacked
  deriving DecidableEq, Repr

/-- Where a DPA lies, given NEXT (R441). -/
def dpaPlace (next a : Nat) : DpaPlace :=
  if a < 0x10000000 * next then .plain (a / 0x10000000) (a % 0x10000000)
  else if 0x080000000000 ≤ a && a < 0x080000000000 + 64 * 0x001000000000 then
    .gateway ((a - 0x080000000000) / 0x001000000000) ((a - 0x080000000000) % 0x001000000000)
  else if 0x100000000000 ≤ a && a < 0x100000000000 + 1024 * 0x040000000000 then
    .view ((a - 0x100000000000) / 0x040000000000) ((a - 0x100000000000) % 0x040000000000)
  else .unbacked

/-- The tenant whose window or view window an address lies in (R116). -/
def windowTenant (bar2 : Bool) (a : Nat) : Option Nat :=
  if bar2 then if a / 65536 < 1024 then some (a / 65536) else none
  else match dpaPlace 0 a with
    | .view t _ => some t
    | _ => none

/-- A denial: HRT_DENY counts it, the window's tenant learns of it, and the first in each 1 ms is recorded in LOG (R116). -/
def State.deny (s : State) (h : Nat) (bar2 : Bool) (a : Nat) : State :=
  let s := s.addFld Fd.HRT_DENY_COUNT 1 h
  let s := match windowTenant bar2 a with
    | some t => s.setFld Fd.TNT_ERR_HRTDENY 1 t
    | none => s
  if firstInMs s.denyLogAt s.dtime then
    { s with denyLogAt := some s.dtime }.logEv 0x0401 1 noIsland (windowTenant bar2 a) a (h + 16 * b2n bar2)
  else s

/-- A denied BAR2 access: a read returns all ones, a write is dropped (R116). -/
def State.denyBar2 (s : State) (h a size : Nat) (wr : Bool) : State :=
  let s := s.deny h true a
  if wr then s else s.emit (.readData h (allOnes size) false)

/-! ### HRT_SYNC (R117) -/

/-- R117: HRT_SYNC written with 1 sets PENDING; what is accepted from now on has a higher number than what was before. -/
def opHrtSync (s : State) : State := { s with syncAt := s.nextUid + 1, nextUid := s.nextUid + 1 }.setFld Fd.HRT_SYNC_PENDING 1
/-- R117. -/
def execHrtSync (s : State) : Res := .next (opHrtSync s)

/-- Commands that reach no memory of a host, no plain region and no view window. -/
def reachesNothing (op : Nat) : Bool :=
  [Oc.extend, Oc.fork, Oc.release, Oc.pin, Oc.unpin, Oc.tableLoad, Oc.tableRetire, Oc.fence, Oc.nop].contains op

/-- Something accepted before the last HRT_SYNC write has not completed (R117): a host's request at a line, a view load that waits, a command that makes accesses
(R362). (log entry 118, DEDUCED) -/
def syncWaits (s : State) : Bool :=
  s.lineQ.any (fun r => r.host.isSome && decide (r.no < s.syncAt)) || s.viewWaits.any (fun w => decide (w.no < s.syncAt)) ||
    s.inflight.any fun c => decide (c.uid < s.syncAt) && !reachesNothing c.opcode

/-- R117: PENDING clears once every access accepted before the write has completed. -/
def opHrtSyncDone (s : State) : State := if syncWaits s then s else s.setFld Fd.HRT_SYNC_PENDING 0
/-- R117. -/
def execHrtSyncDone (s : State) : Res := .next (opHrtSyncDone s)

/-! ### Links and hosts (R438) -/

/-- A link that has trained and not gone down (R478). -/
def linkEstablished (s : State) (l : Nat) : Bool := decide (2 ≤ s.fld Fd.CXL_LINKST_STATE l)

/-- A link's configuration in force since it last trained (R477). -/
def linkConfig (s : State) (l : Nat) : Word := (mapFind s.linkIn l).getD (BitVec.ofNat 64 l)

/-- The host IDs that a configuration names (R438). -/
def configHosts (w : Word) : List Nat :=
  if bitsOf w 8 8 = 1 then (List.range (bitsOf w 7 4 + 1)).map fun i => bitsOf w 3 0 + i else [bitsOf w 3 0]

/-- The hosts that a link carries: none while it is down, or where its host IDs are refused. -/
def linkHosts (s : State) (l : Nat) : List Nat :=
  if linkEstablished s l && s.fld Fd.CXL_LINKST_ERR l != 2 then configHosts (linkConfig s l) else []

/-- The link that carries a host. -/
def hostLink (s : State) (h : Nat) : Option Nat := (List.range 8).find? fun l => (linkHosts s l).contains h

end Sys2Proof.Machine
end

