-- ==== Sys2Proof/Machine/Chunks.lean ====
section
/-!
DEFINITION. Chunks, sequences, pages and frames: who reaches and holds them, the counts of their holders, charges and quotas, and where frames and their
parity lie (R178 to R182, R188, R191, R195, R215 to R219, R230 to R241, R112).
-/
namespace Sys2Proof.Machine

/-- Chunk handles (R178). -/
def chunkHandles : Nat := 16777216
/-- Sequence handles (R178). -/
def seqHandles : Nat := 4194304

/-- The chunk of a handle. -/
def State.chunk (s : State) (h : Nat) : Option Chunk := mapFind s.chunks h
/-- Put a chunk. -/
def State.setChunk (s : State) (h : Nat) (c : Chunk) : State := { s with chunks := mapIns h c s.chunks }
/-- Change a chunk, if there is one. -/
def State.updChunk (s : State) (h : Nat) (f : Chunk → Chunk) : State := { s with chunks := mapUpd h f s.chunks }
/-- The sequence of a handle. -/
def State.seqOf (s : State) (q : Nat) : Option Seq := mapFind s.seqs q
/-- Put a sequence. -/
def State.setSeq (s : State) (q : Nat) (x : Seq) : State := { s with seqs := mapIns q x s.seqs }
/-- The sequence of a handle, where it is the tenant's (R179, R182). -/
def State.ownSeq (s : State) (t q : Nat) : Option Seq := (s.seqOf q).filter fun x => x.tenant == t

/-- The span of the profile of a chunk. -/
def State.spanOf (s : State) (c : Chunk) : Nat := (s.geo c.prof).span
/-- A short chunk (R178 and what precedes it). -/
def State.isShort (s : State) (c : Chunk) : Bool := c.committed && decide (c.spanlen < s.spanOf c)

/-! ### Memberships and namespaces (R110, R188, R205) -/

/-- MnV of a tenant. -/
def grpV (n : Nat) : Field := if n = 0 then Fd.TNT_GRP_M0V else if n = 1 then Fd.TNT_GRP_M1V else if n = 2 then Fd.TNT_GRP_M2V else Fd.TNT_GRP_M3V
/-- MnRW of a tenant. -/
def grpRw (n : Nat) : Field := if n = 0 then Fd.TNT_GRP_M0RW else if n = 1 then Fd.TNT_GRP_M1RW else if n = 2 then Fd.TNT_GRP_M2RW else Fd.TNT_GRP_M3RW
/-- MnGRP of a tenant. -/
def grpNum (n : Nat) : Field := if n = 0 then Fd.TNT_GRP_M0GRP else if n = 1 then Fd.TNT_GRP_M1GRP else if n = 2 then Fd.TNT_GRP_M2GRP else Fd.TNT_GRP_M3GRP

/-- The namespaces of a tenant's valid membership slots, in slot order. -/
def groupNs (s : State) (t : Nat) : List Nat :=
  (List.range 4).filterMap fun n => if s.flag (grpV n) t then some (1024 + s.fld (grpNum n) t) else none

/-- The slot that names a namespace: 0 private, n = 1 to 4 slot n - 1 (R201, R207). -/
def nsReport (s : State) (t ns : Nat) : Nat :=
  if ns = t then 0
  else ((List.range 4).find? fun n => s.flag (grpV n) t && 1024 + s.fld (grpNum n) t == ns).elim 0 (· + 1)

/-- R188: the namespaces searched below a node of namespace `pns` (none: at the head). -/
def nsOrder (s : State) (t : Nat) (pns : Option Nat) : List Nat :=
  match pns with
  | none => groupNs s t ++ [t]
  | some ns => if ns < 1024 then [ns] else [ns, t]

/-- R182: a tenant reaches a chunk. -/
def reaches (s : State) (t h : Nat) : Bool :=
  match s.chunk h with
  | none => false
  | some c =>
    (s.seqs.any fun e => e.2.tenant == t && e.2.chain.contains h) ||
      (c.linked && (match c.ns with | some ns => ns == t || (groupNs s t).contains ns | none => false))

/-! ### Counts of holders (R180, R215) -/

/-- REFS: sequences that hold the chunk in their chain. -/
def refs (s : State) (h : Nat) : Nat := mapCount (fun _ q => q.chain.contains h) s.seqs
/-- CHILDREN: linked nodes whose parent is the chunk. -/
def children (s : State) (h : Nat) : Nat := mapCount (fun _ c => c.linked && c.parent == some h) s.chunks
/-- Where a tenant's pins on a chunk stand. -/
def pinKey (t h : Nat) : Nat := t * chunkHandles + h
/-- PINS: pins held by all tenants, of either kind. -/
def pinsOn (s : State) (h : Nat) : Nat := ((s.pins.filter fun e => e.1 % chunkHandles == h).map fun e => e.2.plain + e.2.resident).sum
/-- HPINS: resident pins among them. -/
def hpinsOn (s : State) (h : Nat) : Nat := ((s.pins.filter fun e => e.1 % chunkHandles == h).map fun e => e.2.resident).sum
/-- RPINS: commands holding a read pin on the node. -/
def rpinsOn (s : State) (h : Nat) : Nat := s.inflight.countP fun c => c.npins.contains h
/-- FREFS: chunks whose page refers to the frame. -/
def frefs (s : State) (f : Nat) : Nat := mapCount (fun _ c => c.pages.any fun p => p.frame == some f) s.chunks
/-- FRPINS: commands reading the frame. -/
def frpins (s : State) (f : Nat) : Nat := s.inflight.countP fun c => c.fpins.contains f

/-! ### Charges and quotas (R112) -/

/-- Granules of a chunk's token block (R181). -/
def tokGranules (c : Chunk) : Nat := if c.committed then ceilDiv (4 * c.spanlen) 512 else 0

/-- The holder a frame is charged to. -/
def frameHolder (s : State) (f : Frame) : Nat := ((s.chunk f.owner).map fun c => c.charge).getD 0

/-- HBM granules charged to a holder (R105, R112, R181). (log entry 45, DEDUCED) -/
def hbmCharged (s : State) (hd : Nat) : Nat :=
  ((s.frames.filter fun e => frameHolder s e.2 == hd).map fun e => e.2.ngran).sum +
    ((s.chunks.filter fun e => e.2.charge == hd).map fun e => tokGranules e.2).sum

/-- Chunks charged to a holder. -/
def chunksCharged (s : State) (hd : Nat) : Nat := mapCount (fun _ c => c.charge == hd) s.chunks

/-- A holder's quotas: a tenant's, or a group's from 1,024 up. -/
def quotaOf (s : State) (hd : Nat) (ten grp : Field) : Nat := if hd < 1024 then s.fld ten hd else s.fld grp (hd - 1024)
/-- HBM quota in granules (R103). -/
def hbmQuota (s : State) (hd : Nat) : Nat := 4096 * quotaOf s hd Fd.TNT_QUOTA_QHBM Fd.SG_QUOTA_QHBM
/-- Chunk quota (R103). -/
def chunkQuota (s : State) (hd : Nat) : Nat := quotaOf s hd Fd.TNT_QUOTA_QCHUNK Fd.SG_QUOTA_QCHUNK
/-- Flash quota in bytes (R103). -/
def flashQuota (s : State) (hd : Nat) : Nat := 0x40000000 * quotaOf s hd Fd.TNT_QUOTA_QFLASH Fd.SG_QUOTA_QFLASH

/-- Whether the chunk quota of a holder takes one chunk more. -/
def chunkRoom (s : State) (hd : Nat) : Bool := decide (chunksCharged s hd < chunkQuota s hd)

/-- The granules of a holder that its demotion cannot free: basted and resident-pinned pages, and token blocks (R112, R251). -/
def fixedGranules (s : State) (hd : Nat) : Nat :=
  ((s.chunks.filter fun e => e.2.charge == hd).map fun e =>
    tokGranules e.2 +
      (if !e.2.committed || decide (0 < hpinsOn s e.1) then
        (e.2.pages.map fun p => match p.frame.bind fun f => mapFind s.frames f with
          | some f => if f.owner = e.1 then f.ngran else 0
          | none => 0).sum
      else 0)).sum

/-! ### The swizzle section's marks (R233) -/

/-- A word of the swizzle section of the running pattern. -/
def swzWord (s : State) (i : Nat) : Word := match s.pattern with | some p => wordAt (wordsOf p.swizzle) i | none => 0
/-- PROT (R233). -/
def swzProt (s : State) : Nat := bitsOf (swzWord s 0) 3 0
/-- NSEL. -/
def swzNsel (s : State) : Nat := bitsOf (swzWord s 0) 7 4
/-- XMASKi. -/
def swzMask (s : State) (i : Nat) : Nat := bitsOf (swzWord s (i + 1)) 31 0
/-- HHWM. -/
def hhwm (s : State) : Nat := bitsOf (swzWord s 13) 15 8
/-- HLWM. -/
def hlwm (s : State) : Nat := bitsOf (swzWord s 13) 23 16
/-- FHWM. -/
def fhwm (s : State) : Nat := bitsOf (swzWord s 13) 31 24
/-- FLWM. -/
def flwm (s : State) : Nat := bitsOf (swzWord s 13) 39 32
/-- PROMTH. -/
def promTh (s : State) : Nat := bitsOf (swzWord s 13) 47 40
/-- DWTn. -/
def depthWeight (s : State) (n : Nat) : Nat := bitsOf (swzWord s (14 + n / 8)) (8 * (n % 8) + 7) (8 * (n % 8))

/-! ### The data space (R230 to R236, R586) -/

/-- The parity of a number's bits. -/
def oddBits (n : Nat) : Bool := (List.range 64).countP (bitAt n) % 2 == 1

/-- R231: the swizzled stack address of a row: bit i below NSEL is the row's bit i exclusive-or the parity of the row under XMASKi. -/
def swzRow (s : State) (r : Nat) : Nat :=
  r / 2 ^ swzNsel s * 2 ^ swzNsel s +
    ((List.range (swzNsel s)).map fun i => if bitAt r i != oddBits (r &&& swzMask s i) then 2 ^ i else 0).sum

/-- The pseudo-channel of a stack address, and its bank (R231). -/
def pseudoChannel (a : Nat) : Nat := a % 64
/-- R231. -/
def hbmBank (a : Nat) : Nat := a / 64 % 64

/-- The stacks that a row lies on: all twelve in the 11+1 layout, the survivors in ascending order after a rebuild (R586). -/
def rowStacks (s : State) : List Nat :=
  if s.rowN = 11 then List.range 12 else (List.range 12).filter fun i => !bitAt (s.fld Fd.RAS_STATUS_LOSTMAP) i

/-- Where a data granule lies: its stack, its swizzled stack address and its row's parity stack. -/
structure StackPlace where
  stack : Nat
  addr : Nat
  parity : Nat
  deriving DecidableEq, Repr

/-- R230, R586: where data granule g lies in the layout in force. -/
def stackPlace (s : State) (g : Nat) : StackPlace :=
  let n := s.rowN + 1
  let r := g / s.rowN
  let p := (r + swzProt s) % n
  let i := if g % s.rowN < p then g % s.rowN else g % s.rowN + 1
  { stack := (rowStacks s).getD i 0, addr := swzRow s r, parity := (rowStacks s).getD p 0 }

/-- The first granule after a row boundary at or above g. -/
def rowUp (s : State) (g : Nat) : Nat := ceilDiv g s.rowN * s.rowN
/-- The granules that `n` charged granules take in whole rows (R235). (log entry 8, DESIGN CHOICE; log entry 45, DEDUCED) -/
def rowGranules (s : State) (n : Nat) : Nat := rowUp s n

/-- Granules of the cache superframes in service (R232). -/
def cacheGranules (s : State) : Nat := 4096 * s.cacheSf
/-- The first granule of the cache superframes. (log entry 8, DESIGN CHOICE) -/
def cacheBase (s : State) : Nat := 4096 * s.metaSf

/-- Granules that token blocks take, in rows shared only among them (R235). (log entry 44, DESIGN CHOICE) -/
def tokenGranules (s : State) : Nat := rowGranules s (s.chunks.map fun e => tokGranules e.2).sum

/-- Granules that plain extents take (R446); they and the token rows are taken from the top of the cache superframes (R280: a steward's choice). (log entry 44, DESIGN CHOICE) -/
def plainGranules (s : State) : Nat := 128 * 4096 * mapCount (fun k e => decide (k < 0x100000000) && e.st != .adding) s.extents

/-- The plain extents that have their superframes, in the order in which these lie from the top of the cache down. (log entry 44, DESIGN CHOICE) -/
def placedExtents (s : State) : List Nat := (s.extents.filter fun e => decide (e.1 < 0x100000000) && e.2.st != .adding).map fun e => e.1

/-- The first data granule of the k-th extent's list of 128 superframes. (log entry 44, DESIGN CHOICE) -/
def extentGranule (s : State) (k : Nat) : Nat := cacheBase s + cacheGranules s - 128 * 4096 * (k + 1)

/-- R446: the data granule that holds a DPA of a plain extent: in superframe o div 2 MiB of its list, at (o mod 2 MiB) div 512. (log entry 44, DESIGN CHOICE) -/
def plainGranule (s : State) (a : Nat) : Option Nat :=
  ((placedExtents s).findIdx? (· == a / 0x10000000)).map fun k =>
    extentGranule s k + a % 0x10000000 / 0x200000 * 4096 + a % 0x200000 / 512

/-- The DPA whose bytes a data granule holds, if a plain extent has it: `plainGranule` the other way. (log entry 44, DESIGN CHOICE) -/
def granuleDpa (s : State) (g : Nat) : Option Nat :=
  ((placedExtents s).zipIdx.find? fun e => decide (extentGranule s e.2 ≤ g) && decide (g < extentGranule s e.2 + 128 * 4096)).map fun e =>
    e.1 * 0x10000000 + (g - extentGranule s e.2) * 512

/-- The end of the cache granules that frames may take. (log entry 44, DESIGN CHOICE) -/
def frameEnd (s : State) : Nat := cacheBase s + cacheGranules s - plainGranules s - tokenGranules s

/-- The chunks whose token blocks have one of these data granules: the blocks lie end to end above the frames, in the order of their handles. (log entry 44, DESIGN CHOICE) -/
def tokensAt (s : State) (gs : List Nat) : List Nat :=
  let step (x : Nat × List Nat) (e : Nat × Chunk) : Nat × List Nat :=
    let n := tokGranules e.2
    (x.1 + n, if gs.any fun g => decide (x.1 ≤ g) && decide (g < x.1 + n) then x.2 ++ [e.1] else x.2)
  (s.chunks.foldl step (frameEnd s, [])).2

/-- The lines of plain extents in these data granules. -/
def linesAt (s : State) (gs : List Nat) : List Nat :=
  (gs.filterMap (granuleDpa s)).flatMap fun a => (List.range 8).map fun i => a / 64 + i

/-- Whether the token rows and plain extents lie clear of every frame (R235). (log entry 44, DESIGN CHOICE) -/
def topClear (s : State) : Bool :=
  decide (plainGranules s + tokenGranules s ≤ cacheGranules s) && s.frames.all fun e => decide (e.1 + rowGranules s e.2.ngran ≤ frameEnd s)

/-- Granules in use in the cache superframes. (log entry 45, DEDUCED) -/
def usedGranules (s : State) : Nat := (s.frames.map fun e => rowGranules s e.2.ngran).sum + tokenGranules s + plainGranules s

/-- Cache superframes of the layout that a rebuild puts in force (R586, R589): one data granule of a row fewer on the same stack addresses, the metadata region unchanged. (log entry 79, DEDUCED) -/
def rebuiltSf (s : State) : Nat := (s.metaSf + s.cacheSf) * (s.rowN - 1) / s.rowN - s.metaSf

/-- The granules that HBM use is measured against by the ladder: in the freeing phase of a rebuild, those of the rebuilt layout (R587). (log entry 46, DEDUCED) -/
def ladderGranules (s : State) : Nat := if s.fld Fd.RAS_REBUILD_PHASE = 1 then 4096 * rebuiltSf s else cacheGranules s

/-- HUSEPCT: HBM use in percent of the cache superframes (R282). (log entry 45, DEDUCED) -/
def hbmUsePct (s : State) : Nat := usedGranules s * 100 / max 1 (cacheGranules s)

/-- Whether a frame of `n` granules may lie at `b` (R235): on a row boundary, clear of every other frame; within one superframe where it has at most 371 rows, and otherwise
in superframes that are wholly free, of token rows and plain extents too. (log entries 8 and 44, DESIGN CHOICE) -/
def placeOk (s : State) (n b : Nat) : Bool :=
  let len := rowGranules s n
  let small := decide (len ≤ 371 * s.rowN)
  let lo := b / 4096 * 4096
  let hi := ceilDiv (b + len) 4096 * 4096
  decide (0 < n) && b % s.rowN == 0 && decide (cacheBase s ≤ b) && decide (b + len ≤ frameEnd s) &&
    (if small then b / 4096 == (b + len - 1) / 4096 &&
        s.frames.all (fun e => decide (e.1 + rowGranules s e.2.ngran ≤ b) || decide (b + len ≤ e.1))
      else decide (cacheBase s ≤ lo) && decide (hi ≤ frameEnd s) &&
        s.frames.all fun e => decide (e.1 + rowGranules s e.2.ngran ≤ lo) || decide (hi ≤ e.1))

/-- The places worth trying: the beginning of every gap, and of the next superframe in it. -/
def placeCands (s : State) : List Nat :=
  (cacheBase s :: s.frames.map fun e => e.1 + rowGranules s e.2.ngran).flatMap fun g =>
    [rowUp s g, rowUp s (ceilDiv g 4096 * 4096)]

/-- Where a new frame goes: the first of the steward's proposals that is allowed, else the lowest place (R4, R280). (log entries 8 and 44, DESIGN CHOICE) -/
def findPlace (s : State) (n : Nat) (picks : List Nat) : Option Nat :=
  match picks.find? (placeOk s n) with
  | some b => some b
  | none => (placeCands s).find? (placeOk s n)

/-- The bytes of a coded frame: its blocks end to end, each a header and a payload (R238, R307). -/
def codedImage (bs : List Block) : List Byte := bs.flatMap fun b => bytesOf b.header ++ b.payload

/-- Byte `i` of granule `g` of a frame that lies at `b`. -/
def frameByte (b : Nat) (body : FrameBody) (g i : Nat) : Byte :=
  match body with
  | .raw m _ => m.get (512 * (g - b) + i)
  | .coded _ bs => (codedImage bs).getD (512 * (g - b) + i) 0

/-- The parity of a row whose data granules hold these bytes (R236): their exclusive or. -/
def rowParity (s : State) (r : Nat) (byte : Nat → Nat → Byte) : List Byte :=
  (List.range 512).map fun i => (List.range s.rowN).foldl (fun x j => x ^^^ byte (s.rowN * r + j) i) 0

/-- R236: a write that covers whole rows writes their parity from the new data: a frame of `n` granules at `b`. -/
def State.parityRows (s : State) (b n : Nat) (body : FrameBody) : State :=
  let rows := (List.range (rowGranules s n / s.rowN)).map fun k => b / s.rowN + k
  { s with parity := rows.foldl (fun m r => mapIns r (rowParity s r (frameByte b body)) m) s.parity }

/-- The parity granule of a row. (log entry 115, DESIGN CHOICE) -/
def parityOf (s : State) (r : Nat) : List Byte := (mapFind s.parity r).getD (List.replicate 512 0)

/-- R236: a write of part of a row reads its old data and parity, and the new parity is the old one, the old data and the new data exclusive-or: one byte at offset `o`
of a frame at `b`. -/
def State.parityByte (s : State) (b o : Nat) (old new : Byte) : State :=
  let r := (b + o / 512) / s.rowN
  { s with parity := mapIns r ((parityOf s r).modify (o % 512) fun x => x ^^^ old ^^^ new) s.parity }

/-- Byte `i` of data granule `g`, as far as frames and plain extents hold it. (log entry 115, DESIGN CHOICE) -/
def granuleByte (s : State) (g i : Nat) : Byte :=
  match s.frames.find? fun e => decide (e.1 ≤ g) && decide (g < e.1 + e.2.ngran) with
  | some e => frameByte e.1 e.2.body g i
  | none => ((granuleDpa s g).map fun a => s.plainMem.get (a + i)).getD 0

/-- The parity of some rows is written from their data (R581, R589). -/
def State.reparity (s : State) (rows : List Nat) : State :=
  { s with parity := rows.foldl (fun m r => mapIns r (rowParity s r (granuleByte s)) m) s.parity }

/-- The rows that frames lie in. -/
def frameRows (s : State) : List Nat :=
  (s.frames.flatMap fun e => (List.range ((e.1 + e.2.ngran - 1) / s.rowN - e.1 / s.rowN + 1)).map fun k => e.1 / s.rowN + k).eraseDups

/-- A new frame with its epoch (R219, R235) and serial (R627), in whole rows (R236). -/
def State.newFrame (s : State) (picks : List Nat) (n owner : Nat) (tag : TagFrom) (body : FrameBody) : Option (State × Nat) :=
  (findPlace s n picks).map fun b =>
    let r := s.tagFor tag
    let f : Frame := { ngran := n, epoch := (mapFind s.epochs b).getD 0, owner, tag := r.2, body }
    (({ r.1 with frames := mapIns b f r.1.frames } : State).parityRows b n body, b)

/-- What stands in the way of `n` more granules of a holder. -/
inductive Room where
  | ok | quota | quotaWait | spaceWait
  deriving DecidableEq, Repr

/-- R112, R257: a holder's quota first, then the part's space. -/
def roomFor (s : State) (hd n : Nat) (picks : List Nat) : Room :=
  if hbmQuota s hd < hbmCharged s hd + n then
    (if hbmQuota s hd < fixedGranules s hd + n then .quota else .quotaWait)
  else if (findPlace s n picks).isNone then .spaceWait
  else .ok

/-! ### Handles -/

/-- The lowest key from `k` up that a table does not have. (log entries 8 and 44, DESIGN CHOICE) -/
def lowestFree {V : Type} : NMap V → Nat → Nat
  | [], k => k
  | (a, _) :: m, k => if a = k then lowestFree m (k + 1) else if a < k then lowestFree m k else k

/-- A free handle below `n`: the steward's proposal where it is free, else the lowest (R4, R178). (log entries 8 and 44, DESIGN CHOICE) -/
def freeHandle {V : Type} (m : NMap V) (n pick : Nat) : Option Nat :=
  if pick < n ∧ (mapFind m pick).isNone then some pick
  else if lowestFree m 0 < n then some (lowestFree m 0) else none

/-! ### The index and the CAM (R191 to R195) -/

/-- R191: candidate bucket i of key k in namespace ns. -/
def bucketOf (k : Word) (ns i : Nat) : Nat :=
  ((k.rotateLeft (16 * i)) ^^^ BitVec.ofNat 64 (ns * 0x9E3779B9)).toNat % 2 ^ 23

/-- Entries of a bucket of the tree index. -/
def bucketLoad (s : State) (b : Nat) : Nat := mapCount (fun _ c => c.indexed && c.bucket == some b) s.chunks
/-- Entries of the stash. -/
def stashLoad (s : State) : Nat := mapCount (fun _ c => c.indexed && c.bucket == none) s.chunks

/-- A bucket of an entry that has a free slot. (log entry 40, DEDUCED) -/
def freeBucket (s : State) (k : Word) (ns : Nat) : Option Nat :=
  ((List.range 4).map (bucketOf k ns)).find? fun b => decide (bucketLoad s b < 4)

/-- The entries of a bucket, with the other buckets each may lie in. -/
def bucketMoves (s : State) (b : Nat) : List (Nat × Nat) :=
  (s.chunks.filter fun e => e.2.indexed && e.2.bucket == some b).flatMap fun e =>
    (((List.range 4).map (bucketOf e.2.key (e.2.ns.getD 0))).filter (· != b)).map fun b' => (e.1, b')

/-- R191: a shortest chain of moves, each of an entry to another of its buckets, the last one into a free slot, that frees a slot of one of the buckets that the search begins with:
the steward's search goes over buckets in the order it reaches them, each with the moves that lead to it, last first. (log entry 40, DEDUCED) -/
def findMoves (s : State) : Nat → List Nat → List (Nat × List (Nat × Nat)) → Option (List (Nat × Nat))
  | 0, _, _ => none
  | _, _, [] => none
  | fuel + 1, seen, (b, path) :: rest =>
    if 256 ≤ path.length then none
    else
      let next := bucketMoves s b
      match next.find? fun m => decide (bucketLoad s m.2 < 4) with
      | some m => some (m :: path)
      | none =>
        let new := (next.filter fun m => !seen.contains m.2).foldl (fun l m => if l.any (fun x => x.2 == m.2) then l else l ++ [m]) ([] : List (Nat × Nat))
        findMoves s fuel (seen ++ new.map fun m => m.2) (rest ++ new.map fun m => (m.2, m :: path))

/-- Carry out a chain of moves, the last one first. -/
def State.moveEntries (s : State) : List (Nat × Nat) → State
  | [] => s
  | (h, b) :: rest => (s.updChunk h fun c => { c with bucket := some b }).moveEntries rest

/-- Enter a linked node in the tree index: a free slot of its buckets, one made by moving at most 256 entries, the stash, or INDEXED clear (R191). (log entry 40, DEDUCED) -/
def State.indexNode (s : State) (h : Nat) : State :=
  match s.chunk h with
  | none => s
  | some c =>
    let ns := c.ns.getD 0
    let put (s : State) (b : Option Nat) : State := s.updChunk h fun c => { c with indexed := true, bucket := b }
    match freeBucket s c.key ns with
    | some b => put s (some b)
    | none =>
      let bs := ((List.range 4).map (bucketOf c.key ns)).eraseDups
      match findMoves s (s.chunks.length + 4) bs (bs.map fun b => (b, [])) with
      | some ms =>
        let s := s.moveEntries ms
        match freeBucket s c.key ns with
        | some b => put s (some b)
        | none => s
      | none => if stashLoad s < 4096 then put s none else s.updChunk h fun c => { c with indexed := false, bucket := none }

/-- A chunk with a poisoned page, or a poisoned token block (R186, R312). -/
def Chunk.poisoned (c : Chunk) : Bool := c.tokPoison || c.pages.any fun p => p.st == .poisoned

/-- A chunk that has become poisoned loses its CAM entry at once (R195). -/
def Chunk.camSafe (c : Chunk) : Chunk := if c.poisoned then { c with hotroot := false } else c

/-- The CAM bank of a key (R193). -/
def camBank (k : Word) : Nat := bitsOf k 63 59
/-- Entries of a CAM bank. -/
def bankLoad (s : State) (b : Nat) : Nat := mapCount (fun _ c => c.hotroot && camBank c.key == b) s.chunks

/-- A node that is a hot root has its CAM entry; a full bank replaces its entry of lowest ACC (R192 to R195). (log entry 42, DEDUCED) -/
def State.enterCam (s : State) (h : Nat) : State :=
  match s.chunk h with
  | none => s
  | some c =>
    if !s.flag Fd.PFX_CFG_CAMEN || !c.linked || c.hollow || c.poisoned || c.hotroot || decide (8 < c.depth) || decide (c.acc < s.fld Fd.PFX_CFG_HOTTH) then s
    else
      let b := camBank c.key
      let s := if bankLoad s b < 8192 then s
        else
          let bank := s.chunks.filter fun e => e.2.hotroot && camBank e.2.key == b
          let low := bank.foldl (fun m e => match m with
            | none => some e
            | some x => if e.2.acc < x.2.acc then some e else some x) none
          match low with
          | some e => s.updChunk e.1 fun c => { c with hotroot := false }
          | none => s
      s.updChunk h fun c => { c with hotroot := true }

/-- Remove CAM entries whose node has fallen below half of HOTTH, or is hollow or poisoned (R195). -/
def State.sweepCam (s : State) : State :=
  { s with chunks := mapVals (fun _ c =>
      if c.hotroot && (decide (2 * c.acc < s.fld Fd.PFX_CFG_HOTTH) || c.hollow || !c.linked || c.poisoned)
      then { c with hotroot := false } else c) s.chunks }

/-! ### Pages -/

/-- Page `layer` of a chunk. -/
def Chunk.page (c : Chunk) (layer : Nat) : Option Page := c.pages[layer]?

/-- The page of a handle and layer, with its chunk. -/
def State.pageOf (s : State) (h layer : Nat) : Option (Chunk × Page) := (s.chunk h).bind fun c => (c.page layer).map fun p => (c, p)

/-- A page with nothing in it. -/
def Page.empty (st : PState) : Page :=
  { st, frame := none, recov := none, ctr := 0, mask := 0, acc := List.replicate 8 0, passes := 0, holds := [], image := none, want := none }

/-- Change one page of a chunk. -/
def State.updPage (s : State) (h layer : Nat) (f : Page → Page) : State :=
  s.updChunk h fun c => { c with pages := c.pages.mapIdx fun i p => if i = layer then f p else p }

/-- What is left of a page whose content is lost (R240). -/
def Page.poison (p : Page) : Page := { p with st := .poisoned, frame := none, image := none, want := none }

/-- A page becomes POISONED: its frame and image are let go (R240, R311), and its node's CAM entry is removed (R195). -/
def State.poisonPage (s : State) (h layer : Nat) : State :=
  (s.updPage h layer Page.poison).updChunk h Chunk.camSafe

/-- The presence code of a chunk (R274). -/
def presence (c : Chunk) : Nat :=
  if !c.committed then 1
  else if c.poisoned then 8
  else if c.hollow then 6
  else if c.pages.any (fun p => p.st == .staging) then 5
  else
    let inHbm := fun (p : Page) => p.st == .dirty || p.st == .clean
    if c.pages.all inHbm && c.pages.any (fun p => p.mask != 0) then 7
    else if c.pages.all inHbm then 2
    else if c.pages.any inHbm then 4 else 3

/-- The holder of a handle in the holder table (R273): the tenant, or 1,024 + the group of a chunk linked in a group. -/
def holderOf (c : Chunk) : Nat := if c.linked then c.ns.getD c.tenant else c.tenant

/-! ### Corrupt blocks (R310, R311) -/

/-- The count of a corrupt condition (R310, R337). -/
def corruptField : Corrupt → Field
  | .hdr => Fd.CDR_CORRUPT_HDR
  | .overrun => Fd.CDR_CORRUPT_OVERRUN
  | .slack => Fd.CDR_CORRUPT_SLACK
  | .crc => Fd.CDR_CORRUPT_CRC

/-- A block of a page proves corrupt (R311): it is counted, CDR_EVT.CORRUPT is set, LOG records it, and every page that the frame holds becomes
POISONED. -/
def State.corrupt (s : State) (h layer b : Nat) (k : Corrupt) : State :=
  let s := s.addFld (corruptField k) 1
  let s := s.setFld Fd.CDR_EVT_CORRUPT 1
  let s := s.logEv 0x0801 1 noIsland ((s.chunk h).map fun c => c.tenant) h (layer + b * 2 ^ 8 + k.code * 2 ^ 20)
  match ((s.chunk h).bind fun c => c.page layer).bind fun p => p.frame with
  | none => s.poisonPage h layer
  | some f =>
    let bad (p : Page) : Page := if p.frame = some f then p.poison else p
    { s with chunks := mapVals (fun _ c => ({ c with pages := c.pages.map bad } : Chunk).camSafe) s.chunks }

/-- What reading bytes of a page finds. -/
inductive PageRead where
  | data (bytes : List Byte)
  | poison
  | corrupt (block : Nat) (k : Corrupt)
  deriving DecidableEq, Repr

/-- Decode the blocks of a coded frame from `b` on. -/
def decodeBlocks (s : State) (prof layer : Nat) (recov : Option Nat) (clens : List Nat) (bs : List Block) : List Nat → Except (Nat × Corrupt) (List Byte)
  | [] => .ok []
  | b :: rest => match decodePageBlock s prof layer recov clens bs b with
    | .error k => .error (b, k)
    | .ok x => match decodeBlocks s prof layer recov clens bs rest with
      | .error k => .error k
      | .ok y => .ok (x ++ y)

/-- The `n` bytes at `o` of a frame's page, expanded (R308). -/
def frameBytes (s : State) (prof layer : Nat) (recov : Option Nat) (f : Frame) (o n : Nat) : PageRead :=
  match f.body with
  | .raw m poison => if poison then .poison else .data (m.read o n)
  | .coded clens bs =>
    let first := o / 4096
    match decodeBlocks s prof layer recov clens bs ((List.range ((o + n - 1) / 4096 - first + 1)).map (first + ·)) with
    | .error k => .corrupt k.1 k.2
    | .ok x => .data (sliceAt x (o - 4096 * first) n)

/-- The `n` bytes at `o` of a page that is in HBM, or was never written (R241). -/
def pageBytes (s : State) (c : Chunk) (layer o n : Nat) : PageRead :=
  match c.page layer with
  | none => .poison
  | some p =>
    if p.st = .none then .data (List.replicate n 0)
    else match p.frame.bind fun f => mapFind s.frames f with
      | some f => frameBytes s c.prof layer p.recov f o n
      | none => .poison

/-- The whole raw page (R237). -/
def rawPage (s : State) (c : Chunk) (layer : Nat) : PageRead :=
  pageBytes s c layer 0 (rawSize (s.geo c.prof) ((c.page layer).bind fun p => p.recov))

/-- Whether position p of a page is masked by trimming (R261). -/
def masked (p : Page) (pos : Nat) : Bool := bitAt p.mask (pos / 64)

/-! ### Promotion, hollowing and unlinking (R250, R258, R216) -/

/-- Whether one rank comes before another (R268). -/
def rankBefore (a b : Nat × Nat) : Bool := decide (a.1 < b.1) || (a.1 == b.1 && decide (a.2 < b.2))

/-- A page's flash read is wanted at a rank: a FLASH page becomes STAGING, and one that is STAGING takes the earlier rank (R250, R268). -/
def Page.stage (rank : Nat × Nat) (p : Page) : Page :=
  if p.st = .flash then { p with st := .staging, want := some rank }
  else if p.st = .staging ∧ (p.want.map fun w => rankBefore rank w) ≠ some false then { p with want := some rank }
  else p

/-- A demand promotion: every FLASH page of a chunk becomes STAGING, its read ranked at the moment of the demand (R250, R268). -/
def State.demandAt (s : State) (h moment : Nat) : State :=
  s.updChunk h fun c => if c.hollow then c else { c with pages := c.pages.map (Page.stage (0, moment)) }

/-- A demand promotion of this moment. -/
def State.demand (s : State) (h : Nat) : State := s.demandAt h s.dtime

/-- Granules of a page's coded image (R235, R238). -/
def imageGranules (s : State) (p : Page) : Nat :=
  match p.image.bind fun i => mapFind s.images i with
  | some i => ceilDiv (codedBytes i.clens) 512
  | none => 0

/-- Whether a page is on its way to HBM, or has yet to be asked for. -/
def Page.away (p : Page) : Bool := p.st == .flash || p.st == .staging

/-- The pages of some chunks, as (handle, layer). -/
def pagesOf (s : State) (hs : List Nat) : List (Nat × Nat) :=
  hs.flatMap fun h => match s.chunk h with | some c => (List.range c.pages.length).map fun l => (h, l) | none => []

/-- The worst obstacle to promoting those of some pages that are not in HBM; `only`: those charged to one holder. -/
def pagesRoom (s : State) (only : Option Nat) (ps : List (Nat × Nat)) : Room :=
  let rooms := ps.filterMap fun e => (s.chunk e.1).bind fun c => (c.page e.2).bind fun p =>
    if p.away && (only == none || only == some c.charge) then some (roomFor s c.charge (imageGranules s p) []) else none
  if rooms.contains .quota then .quota
  else if rooms.contains .quotaWait then .quotaWait
  else if rooms.contains .spaceWait then .spaceWait else .ok

/-- The worst obstacle to promoting the pages of these chunks. -/
def promoteRoom (s : State) (hs : List Nat) : Room := pagesRoom s none (pagesOf s hs)

/-- Whether a chunk still has pages to promote. -/
def promoting (s : State) (h : Nat) : Bool :=
  match s.chunk h with
  | some c => c.pages.any Page.away
  | none => false

/-- R258: a chunk is made hollow in one unit: its pages are dropped with their frames and images, its node stays. -/
def State.hollowChunk (s : State) (h : Nat) : State :=
  s.updChunk h fun c => { c with
    hollow := true, hollowAt := s.dtime, hotroot := false
    pages := c.pages.map fun p => { p with st := .dropped, frame := none, image := none, want := none } }

/-- R190: an SL field of the parent is cleared when no linked short child of that length is left in the parent's namespace. -/
def State.clearSl (s : State) (h : Nat) : State :=
  match s.chunk h with
  | none => s
  | some c => match c.parent with
    | none => s
    | some p => s.updChunk p fun x =>
      let alive (n : Nat) : Bool := s.chunks.any fun e => e.2.linked && e.2.parent == some p && e.2.ns == x.ns && e.2.spanlen == n
      { x with sl := x.sl.map fun n => if n ≠ 0 ∧ !alive n then 0 else n }

/-- A node leaves its tree: its CAM entry first, then its index entry and its SL length (R195, R216). -/
def State.unlink (s : State) (h : Nat) : State :=
  (s.updChunk h fun c => { c with linked := false, indexed := false, bucket := none, hotroot := false }).clearSl h

end Sys2Proof.Machine
end

