-- ==== Sys2Proof/Machine/Ladder.lean ====
section
/-!
DEFINITION. Flash use, the steps of the pressure ladder, and reclaiming (R112, R216, R219, R251 to R256, R282, R314, R315).
-/
namespace Sys2Proof.Machine

/-! ### Flash use (R112, R282, R535) -/

/-- Bytes of a page image on flash: its 64-byte header, the list of CLEN and the coded frame, in whole codewords (R536). -/
def imageBytes (i : FlashImage) : Nat := ceilDiv (64 + i.clens.length + codedBytes i.clens) 4096 * 4096
/-- Codewords of a page image (R537). -/
def imageCodewords (i : FlashImage) : Nat := imageBytes i / 4096
/-- The holder that a page image is charged to. -/
def imageHolder (s : State) (i : FlashImage) : Nat := ((s.chunk i.handle).map fun c => c.charge).getD 0
/-- Flash charged to a holder: coded bytes of its stashed pages, each rounded up to 4 KiB (R112). -/
def flashCharged (s : State) (hd : Nat) : Nat :=
  ((s.images.filter fun e => imageHolder s e.2 == hd).map fun e => ceilDiv (codedBytes e.2.clens) 4096 * 4096).sum
/-- The stored bytes of valid page images (R535). -/
def flashUsed (s : State) : Nat := (s.images.map fun e => imageBytes e.2).sum
/-- FUSEPCT (R282, R535): a percentage of the cache capacity C. -/
def flashUsePct (s : State) : Nat := flashUsed s * 100 / max 1 (0x40000000 * s.fld Fd.FLT_CAP_CACHEGIB)
/-- Stash is paused (R252). -/
def stashPaused (s : State) : Bool := decide (fhwm s < flashUsePct s)
/-- Stash of a holder's pages runs: not paused, not stopped by its flash quota, nor by the throttle step (R112, R252, R551). -/
def stashRuns (s : State) (hd n : Nat) : Bool :=
  !stashPaused s && decide (flashCharged s hd + n ≤ flashQuota s hd) && decide (s.fld Fd.FLT_SPACE_STEP < 2)

/-! ### The steps of the ladder (R251, R254) -/

/-- Whether a delivery hold still stands on a page (R266). -/
def held (s : State) (p : Page) : Bool := p.holds.any fun h => h.uid.isSome || decide (s.dtime < h.ends)

/-- R251: whether page p of chunk h is a candidate for demotion. -/
def demotable (s : State) (h : Nat) (c : Chunk) (p : Page) : Bool :=
  c.committed && (p.st == .dirty || p.st == .clean) && hpinsOn s h == 0 && !held s p && !c.isVolatile &&
    (match p.frame with | some f => frpins s f == 0 | none => false)

/-- A candidate: its counter, depth, handle, layer and state, and whether its image is being written. -/
structure Candidate where
  ctr : Nat
  depth : Nat
  handle : Nat
  layer : Nat
  clean : Bool
  writing : Bool
  charge : Nat
  bytes : Nat
  deriving DecidableEq, Repr

/-- Every candidate, of one holder or of all. -/
def candidates (s : State) (holder : Option Nat) : List Candidate :=
  s.chunks.flatMap fun e =>
    if holder.isSome ∧ holder ≠ some e.2.charge then []
    else e.2.pages.zipIdx.filterMap fun p =>
      if demotable s e.1 e.2 p.1 then
        some { ctr := p.1.ctr, depth := e.2.depth, handle := e.1, layer := p.2, clean := p.1.st == .clean, writing := p.1.image.isSome,
               charge := e.2.charge,
               bytes := match p.1.frame.bind fun f => mapFind s.frames f with
                 | some f => ceilDiv (match f.body with | .coded cl _ => codedBytes cl | .raw _ _ => 0) 4096 * 4096
                 | none => 0 }
      else none

/-- R251: ascending counter, then descending depth, then descending handle. (log entry 46, DEDUCED) -/
def before (a b : Candidate) : Bool :=
  decide (a.ctr < b.ctr) || (a.ctr == b.ctr &&
    (decide (b.depth < a.depth) || (a.depth == b.depth && (decide (b.handle < a.handle) || (a.handle == b.handle && decide (a.layer < b.layer))))))

/-- The first candidate in the order, among those a test takes. (log entry 46, DEDUCED) -/
def nextCandidate (s : State) (holder : Option Nat) (ok : Candidate → Bool) : Option Candidate :=
  (candidates s holder).foldl (fun best c => if !ok c then best else match best with
    | none => some c
    | some b => if before c b then some c else best) none

/-- A candidate whose demotion can proceed (R254): CLEAN, or DIRTY with a stash that can run. -/
def canProceed (s : State) (c : Candidate) : Bool := c.clean || stashRuns s c.charge c.bytes

/-- Free chunk handles (R222). -/
def freeChunkHandles (s : State) : Nat := chunkHandles - s.chunks.length

/-- HBM use is below the low-water mark. -/
def belowLow (s : State) : Bool := decide (usedGranules s * 100 < hlwm s * ladderGranules s)

/-- The steps of the ladder that run, from those that ran before (R251, R254): what PGT_TIER shows. Step 2 ends early once a demotion can proceed; where stash has been
paused for flash use while it ran, only once flash use has fallen below FLWM. -/
def State.ladder (s : State) : State :=
  let above := decide (hhwm s < usedGranules s * 100 / max 1 (ladderGranules s)) && s.pattern.isSome
  let demote := above || (s.flag Fd.PGT_TIER_DEMOTE && !belowLow s)
  let proceed := (candidates s none).any (canProceed s)
  let paused := s.dropPaused || stashPaused s
  let drop := (above && !proceed) || (s.flag Fd.PGT_TIER_DROP && !belowLow s && !(proceed && (!paused || decide (flashUsePct s < flwm s))))
  let free := freeChunkHandles s
  let handles := decide (free < 65536) || (s.flag Fd.PGT_TIER_HANDLES && decide (free < 131072))
  { s with dropPaused := drop && paused && decide (flwm s ≤ flashUsePct s) }.setReg .PGT_TIER 0 (packWord [(3, b2n handles), (2, b2n drop), (1, b2n demote), (0, b2n (stashPaused s && s.pattern.isSome))])

/-! ### Reclaiming (R216, R219) -/

/-- Chunks that an attention command waits for. -/
def attWaits (w : AttWork) : List Nat :=
  w.seqs.flatMap fun q => q.pages.filterMap fun p => if p.src = .wait then some p.handle else none

/-- The attention work of a command. -/
def Cmd.attWork (c : Cmd) : Option AttWork :=
  match c.work with
  | .attend w => some w
  | .ring w _ _ => some w
  | _ => none

/-- Whether a load of a view window or an attention command waits for a page of a chunk to be promoted: it resolved the page while it could reach the chunk, whose content it
is still to read (R245, R363). (log entry 109, DEDUCED) -/
def pageAwaited (s : State) (h : Nat) : Bool :=
  (s.viewWaits.any fun w => w.handle == h) || s.inflight.any fun c => (c.attWork.map fun w => (attWaits w).contains h).getD false

/-- Whether a chunk's handle can be freed (R216). -/
def chunkDead (s : State) (h : Nat) (c : Chunk) : Bool :=
  !c.linked && refs s h == 0 && pinsOn s h == 0 && rpinsOn s h == 0 && !pageAwaited s h

/-- A steward frees every handle whose last holder has let go (R216); the geometry of a profile without chunks is no longer recorded (R59). -/
def State.freeChunks (s : State) : State :=
  let left := s.chunks.filter fun e => !chunkDead s e.1 e.2
  { s with chunks := left, geom := s.geom.filter fun g => left.any fun e => e.2.prof == g.1 }

/-- Frames that nobody refers to and no command reads are reclaimed, their epoch moved on (R219); a frame whose holder has let go is charged to
another chunk that refers to it. -/
def State.freeFrames (s : State) : State :=
  let dead := s.frames.filter fun e => frefs s e.1 == 0 && frpins s e.1 == 0
  let s : State := { s with
    epochs := dead.foldl (fun m (e : Nat × Frame) => mapIns e.1 ((e.2.epoch + 1) % 65536) m) s.epochs,
    frames := s.frames.filter fun e => !(frefs s e.1 == 0 && frpins s e.1 == 0) }
  let owner (f : Nat) (x : Frame) : Frame :=
    if ((s.chunk x.owner).map fun c => c.pages.any fun p => p.frame == some f).getD false then x
    else match s.chunks.find? fun e => e.2.pages.any fun p => p.frame == some f with
      | some e => { x with owner := e.1 }
      | none => x
  { s with frames := mapVals owner s.frames }

/-- Flash images whose page no longer refers to them are dropped (R258, R321); their bytes stay in their unit until it is erased. -/
def State.freeImages (s : State) : State :=
  { s with images := s.images.filter fun e => s.chunks.any fun c => c.2.pages.any fun p => p.image == some e.1 }

/-- The pages that reference any of some generations of a profile, (tensor, number) each, every page once (R314, R320): frames coded with one, pages whose only image is
on flash and uses one, and pages of COMMITs whose encode has taken one. -/
def genUsersOf (s : State) (prof : Nat) (gs : List (Nat × Nat)) : Nat :=
  let uses (bs : List Block) : Bool := bs.any fun b => b.prof == prof && b.mode == 1 && gs.contains (b.tensor, b.gen)
  let takes (e : (Option Nat × Option Nat) × Nat) : Bool :=
    (e.1.1.map fun n => gs.contains (2 * e.2, n)).getD false || (e.1.2.map fun n => gs.contains (2 * e.2 + 1, n)).getD false
  (mapCount (fun _ f => match f.body with | .coded _ bs => uses bs | .raw _ _ => false) s.frames) +
    (mapCount (fun k i => uses i.blocks &&
      s.chunks.any fun c => c.2.pages.any fun p => p.image == some k && p.frame.isNone) s.images) +
    (s.inflight.map fun c => match c.work with
      | .commit w => if (s.chunk w.chunk).any (fun k => k.prof == prof) then w.gens.zipIdx.countP takes else 0
      | _ => 0).sum

/-- The references of one generation of a tensor (R314). -/
def genUsers (s : State) (prof tensor n : Nat) : Nat := genUsersOf s prof [(tensor, n)]

/-- OLD and RETIRING generations without references are freed (R315). CDR_EVT.RETIRED is set where the last RETIRING one goes (R320). -/
def State.freeGens (s : State) : State :=
  let retiring (m : NMap (List Gen)) : Bool := m.any fun e => e.2.any fun g => g.st == .retiring
  let before := retiring s.gens
  let m := s.gens.map fun e => (e.1, e.2.filter fun g => g.st == .current || decide (0 < genUsers s (e.1 / 256) (e.1 % 256) g.num))
  let s := { s with gens := m.filter fun e => e.2 ≠ [] }
  if before && !retiring s.gens then s.setFld Fd.CDR_EVT_RETIRED 1 else s

/-- What the stewards do after every change of holders: handles, frames, images and generations that nobody holds are freed, and the ladder's steps follow what is left
in use (R254). -/
def State.reclaim (s : State) : State := s.freeChunks.freeFrames.freeImages.freeGens.ladder

end Sys2Proof.Machine
end

