-- ==== Sys2Proof/Machine/Bandwidth.lean ====
section
/-!
DEFINITION. Shares of bandwidth: the slot wheels, the hosts' token buckets and DevLoad (R121 to R129).
-/
namespace Sys2Proof.Machine

/-! ### Wheels -/

/-- The owner code of METADATA slots (R121). -/
def codeMeta : Nat := 0x10
/-- The owner code of MAINT slots (R121). -/
def codeMaint : Nat := 0x11

/-- Whether a byte of a wheel is valid (R121). -/
def slotCodeOk (b : Nat) : Bool := b ≤ 7 || b == codeMeta || b == codeMaint

/-- The longest run of bytes without METADATA, counted once round the wheel from its start with `run` bytes before it. -/
def longestRun (run best : Nat) : List Nat → Nat
  | [] => max run best
  | b :: bs => if b = codeMeta then longestRun 0 (max run best) bs else longestRun (run + 1) best bs

/-- The rules of one wheel (R122): valid bytes, at least 128 METADATA and 32 MAINT slots, no run of more than 64 slots round
the wheel without METADATA. -/
def wheelOk (w : List Nat) : Bool :=
  w.length == 4096 && w.all slotCodeOk && decide (128 ≤ w.count codeMeta) && decide (32 ≤ w.count codeMaint) &&
    decide (longestRun 0 0 (w ++ w) ≤ 64)

/-- A slot wheel section is valid (R122): every wheel is, and all twelve hold the same number of slots of each code. -/
def wheelsOk (ws : List (List Nat)) : Bool :=
  ws.length == 12 && ws.all wheelOk &&
    ws.all fun w => ([0, 1, 2, 3, 4, 5, 6, 7, codeMeta, codeMaint]).all fun c => w.count c == (ws.headD []).count c

/-- The byte of the section at which it first breaks R121 or R122: an invalid byte, else the first byte of a wheel that breaks a count or a run, else of one that differs
from the first. -/
def wheelSoff (ws : List (List Nat)) : Nat :=
  let byte := ws.zipIdx.findSome? fun e => (e.1.findIdx? fun b => !slotCodeOk b).map fun i => 4096 * e.2 + i
  byte.getD (4096 * ((ws.findIdx? fun w => !wheelOk w).getD
    ((ws.findIdx? fun w => !([0, 1, 2, 3, 4, 5, 6, 7, codeMeta, codeMaint]).all fun c => w.count c == (ws.headD []).count c).getD 0)))

/-- The interim wheel of a load (R79, R124): METADATA and MAINT slots stay, the others go to BC0 to BC7 in turn. (log entry 32, DEDUCED) -/
def interimWheel (k : Nat) : List Nat → List Nat
  | [] => []
  | b :: bs => if b = codeMeta ∨ b = codeMaint then b :: interimWheel k bs else k % 8 :: interimWheel (k + 1) bs

/-- While a PATTERN_LOAD programs, or programs the previous pattern again, the wheels of the pattern that has been running, or of the new one where none ran, give the
interim wheel its reserved slots (R79). (log entry 32, DEDUCED) -/
def interimFrom (s : State) : Option Pattern :=
  match s.load with
  | some l => if !l.swap && (l.phase == .programming || l.phase == .restoring) then some (s.pattern.getD l.image) else none
  | none => none

/-- The wheel a memory controller uses (R121, R79); empty while no pattern is loaded. -/
def wheelOf (s : State) (mc : Nat) : List Nat :=
  match interimFrom s with
  | some p => interimWheel 0 (p.wheels.getD mc [])
  | none => match s.pattern with
    | none => []
    | some p => p.wheels.getD mc []

/-- The class numbers of requests: 0-7 BC, 8 METADATA, 9 MAINT; here of a slot's owner code. -/
def ownerClass (code : Nat) : Nat := if code = codeMeta then 8 else if code = codeMaint then 9 else code

/-- The order in which a slot is offered to classes (R123): its owner, then the lent order. A METADATA or MAINT slot is lent to BC0 to BC7; a class
slot first to METADATA, then to the other classes in ascending order after the owner. -/
def offerOrder (code : Nat) : List Nat :=
  if code = codeMeta ∨ code = codeMaint then ownerClass code :: List.range 8
  else code :: 8 :: (List.range 7).map fun i => (code + 1 + i) % 8

/-- The class a slot serves, given the requests that wait (R123). -/
def slotServes (code : Nat) (waiting : List SlotReq) : Option Nat :=
  (offerOrder code).find? fun c => waiting.any fun r => r.cls == c

/-- Drop the oldest request of a class. -/
def dropOldest (c : Nat) : List SlotReq → List SlotReq
  | [] => []
  | r :: rs => if r.cls = c then rs else r :: dropOldest c rs

/-- The wheel state of a memory controller. -/
def State.wheel (s : State) (mc : Nat) : WheelState :=
  (mapFind s.wheels mc).getD { slot := 0, waiting := [], served := List.replicate 8 0 }

/-- Add one to element c of a list of counts. -/
def bump (c : Nat) (l : List Nat) : List Nat := l.mapIdx fun i n => if i = c then n + 1 else n

/-- R670: at thermal step 2 of its stack a memory controller leaves every fourth class slot of its wheel unserved, and at step 3 every second one. (log entry 33, DEDUCED) -/
def slotUnserved (s : State) (mc : Nat) (w : List Nat) (slot : Nat) : Bool :=
  let step := natBits (s.fld Fd.PWR_THERM_SSTEP) (2 * mc + 1) (2 * mc)
  let n := (w.take slot).countP fun b => decide (b ≤ 7)
  decide (w.getD slot codeMeta ≤ 7) && (if step = 2 then n % 4 == 3 else step == 3 && n % 2 == 1)

/-- The class of a holder: a tenant's TNT_BIND.BCLASS, or a group's SG_CFG.BCLASS (R101, R110). -/
def holderClass (s : State) (hd : Nat) : Nat := if hd < 1024 then s.fld Fd.TNT_BIND_BCLASS hd else s.fld Fd.SG_CFG_BCLASS (hd - 1024)

/-- R124: the class of a request: 0-7 BC, 8 METADATA, 9 MAINT. -/
def trafficClass (s : State) : Traffic → Nat
  | .attention t => holderClass s t.val
  | .commit t => holderClass s t.val
  | .view t => holderClass s t.val
  | .deliver t => holderClass s t.val
  | .plain e => s.fld Fd.HRT_CTL_BC e.val
  | .background hd => holderClass s hd.val
  | .stewardMeta => 8
  | .maint => 9

/-- R123: one slot of a memory controller's wheel. The requests that arrive at it join the queue; the slot serves its owner, or the
class it is lent to. -/
def opWheelSlot (mc : Nat) (arrivals : List Traffic) (s : State) : State :=
  let w := s.wheel mc
  let waiting := w.waiting ++ arrivals.map fun x => { cls := trafficClass s x, arrived := s.dtime }
  match wheelOf s mc with
  | [] => { s with wheels := mapIns mc { w with waiting } s.wheels }
  | wheel =>
    let next := (w.slot + 1) % wheel.length
    match (if slotUnserved s mc wheel (w.slot % wheel.length) then none else slotServes (wheel.getD (w.slot % wheel.length) 0) waiting : Option Nat) with
    | none => { s with wheels := mapIns mc { w with slot := next, waiting } s.wheels }
    | some c =>
      ({ s with wheels := mapIns mc { slot := next, waiting := dropOldest c waiting, served := bump c w.served } s.wheels }).emit
        (.slotServed mc c)

/-- R123. -/
def execWheelSlot (mc : Fin 12) (arrivals : List Traffic) (now : Nat) (s : State) : Res :=
  .next (opWheelSlot mc.val arrivals (s.at_ now))

/-! ### HDM decoders (R442) -/

/-- The HDM decoders that a host function has committed. -/
def State.hdmOf (s : State) (h : Nat) : List HdmDecoder := (mapFind s.hdm h).getD []

/-- A decoder that may be committed: 1, 2, 4 or 8 ways, and a granularity from 256 bytes to 16 KiB (R442). -/
def HdmDecoder.ok (d : HdmDecoder) : Bool := [1, 2, 4, 8].contains d.ways && [256, 512, 1024, 2048, 4096, 8192, 16384].contains d.gran

/-- Bytes of this part's DPA space behind a decoder: its share of the interleave set. (log entry 111, PRESUMED) -/
def HdmDecoder.share (d : HdmDecoder) : Nat := d.size / d.ways

/-- The DPA that the decoders of a function, from DPA `base` on, give an address of the host (R442): within a decoder's range this part holds every `ways`-th granule, and
each decoder's share follows those of the decoders before it and what is skipped. (log entry 111, PRESUMED) -/
def hdmDpa (hpa : Nat) : Nat → List HdmDecoder → Option Nat
  | _, [] => none
  | base, d :: ds =>
    if d.base ≤ hpa ∧ hpa < d.base + d.size then
      let o := hpa - d.base
      some (base + d.skip + o / (d.gran * d.ways) * d.gran + o % d.gran)
    else hdmDpa hpa (base + d.skip + d.share) ds

/-! ### Token buckets (R126, R127) -/

/-- A host's bucket. -/
def State.bucket (s : State) (h : Nat) : Bucket :=
  (mapFind s.buckets h).getD { milli := 0, last := 0, held := [], emptyNs := 0, level := 0 }

/-- For how much of `dt` ns a bucket that starts with `milli` thousandths is empty: it holds less than one token, and with a burst of zero it never holds one. (log entry 34, DEDUCED) -/
def emptyFor (rate burst milli dt : Nat) : Nat :=
  if rate = 0 then 0 else if burst = 0 then dt else if 1000 ≤ milli then 0 else min dt (ceilDiv (1000 - milli) rate)

/-- Let tokens accrue up to now (R126). (log entry 34, DEDUCED) -/
def Bucket.refresh (b : Bucket) (rate burst now : Nat) : Bucket :=
  let dt := now - b.last
  { b with milli := min (burst * 1000) (b.milli + rate * dt), last := max b.last now,
           emptyNs := b.emptyNs + emptyFor rate burst b.milli dt }

/-- The bucket of host h at this moment. -/
def State.bucketNow (s : State) (h : Nat) : Bucket :=
  (s.bucket h).refresh (s.fld Fd.WHL_HOSTLIM_RATE h) (s.fld Fd.WHL_HOSTLIM_BURST h) s.dtime

/-- Put a host's bucket back. -/
def State.setBucket (s : State) (h : Nat) (b : Bucket) : State := { s with buckets := mapIns h b s.buckets }

/-- Requests that host h holds on a port (R127). -/
def heldOn (s : State) (h port : Nat) : Nat := (s.bucket h).held.countP fun r => r.2 == port

/-- The link of a port by which host h comes (R434, R438): the second one of a bifurcated port where that carries the host. -/
def linkOn (s : State) (h port : Nat) : Nat :=
  if s.flag Fd.CXL_PORTCFG_BIF port && (linkHosts s (2 * port + 1)).contains h then 2 * port + 1 else 2 * port

/-- Requests of a host that have been let through and are not answered: at their lines, and view loads that wait (R454, R246). -/
def unanswered (s : State) (h : Nat) : Nat := s.lineQ.countP (fun r => r.host == some h) + s.viewWaits.countP fun w => w.host == h

/-- Outstanding CXL.mem requests on a link of a port (R41, R127, R437): those its hosts' buckets hold, and those not answered. -/
def linkOutstanding (s : State) (port l : Nat) : Nat :=
  ((List.range 16).map fun h => if linkOn s h port = l then heldOn s h port else 0).sum + ((linkHosts s l).map (unanswered s)).sum

/-- A link of a port accepts no request while some host holds 256 on it, or while its outstanding requests are at their limit: 1,024 on a port, or 512 on each
link of a bifurcated port (R127, R437). -/
def portBlocked (s : State) (port l : Nat) : Bool :=
  (List.range 16).any (fun h => linkOn s h port == l && decide (256 ≤ heldOn s h port)) ||
    decide ((if s.flag Fd.CXL_PORTCFG_BIF port then 512 else 1024) ≤ linkOutstanding s port l)

/-- R126: a CXL.mem request of host h arrives on a port, and its host function's HDM decoders translate its address (R442). (log entry 111, PRESUMED) -/
def opCxlMemRequestAdmit (h port req hpa : Nat) (s : State) : State :=
  if portBlocked s port (linkOn s h port) then s.emit (.portStalled port req)
  else
    let s := s.emit (.hdmDecode h hpa (hdmDpa hpa 0 (s.hdmOf h)))
    let b := s.bucketNow h
    if s.fld Fd.WHL_HOSTLIM_RATE h = 0 then (s.setBucket h b).emit (.admitted h port req)
    else if 1000 ≤ b.milli then (s.setBucket h { b with milli := b.milli - 1000 }).emit (.admitted h port req)
    else (s.setBucket h { b with held := b.held ++ [(req, port)] }).emit (.held h port req)

/-- R126. -/
def execCxlMemRequestAdmit (host : HostId) (port : Fin 4) (req hpa now : Nat) (s : State) : Res :=
  .next (opCxlMemRequestAdmit host.val port.val req hpa (s.at_ now))

/-- R126: tokens have accrued, and the oldest held request of host h is released. -/
def opHeldRequestRelease (h : Nat) (s : State) : State :=
  let b := s.bucketNow h
  match b.held with
  | [] => s.setBucket h b
  | (req, port) :: rest =>
    if s.fld Fd.WHL_HOSTLIM_RATE h = 0 then (s.setBucket h { b with held := rest }).emit (.admitted h port req)
    else if 1000 ≤ b.milli then
      (s.setBucket h { b with held := rest, milli := b.milli - 1000 }).emit (.admitted h port req)
    else s.setBucket h b

/-- R126. -/
def execHeldRequestRelease (host : HostId) (now : Nat) (s : State) : Res :=
  .next (opHeldRequestRelease host.val (s.at_ now))

/-! ### DevLoad (R128, R129) -/

/-- The age of the oldest waiting request of class c at a memory controller (R128). -/
def oldestAge (s : State) (w : WheelState) (c : Nat) : Nat :=
  match w.waiting.find? fun r => r.cls == c with
  | none => 0
  | some r => s.dtime - r.arrived

/-- The level of class c at one memory controller at the end of a window (R128): 3 Severe, 2 Moderate, 1 Optimal, 0 Light. -/
def classLevel (s : State) (mc c : Nat) : Nat :=
  let w := s.wheel mc
  let slots := 16 * (wheelOf s mc).count c
  let used := w.served.getD c 0
  let q := oldestAge s w c
  if 8000 ≤ q then 3
  else if 2000 ≤ q || (decide (0 < slots) && decide (9 * slots ≤ 10 * used)) then 2
  else if decide (0 < slots) && decide (slots ≤ 2 * used) then 1
  else 0

/-- The greatest of a list, 0 for the empty one. -/
def maxOf (l : List Nat) : Nat := l.foldl max 0

/-- The length of a DevLoad window: 16 revolutions of 1.024 µs (R128). -/
def devWindowNs : Nat := 16384

/-- A host's level for the window that ends: Severe if its bucket was empty for more than half of it, Moderate if it was empty at any moment of it
(R129). (log entry 34, DEDUCED) -/
def bucketLevel (b : Bucket) : Nat := if devWindowNs < 2 * b.emptyNs then 3 else if 0 < b.emptyNs then 2 else 0

/-- R128: a DevLoad window ends. Each class's level is the highest of the twelve memory controllers', and counting starts again. -/
def opDevloadWindowEnd (s : State) : State :=
  let levels := (List.range 8).map fun c => maxOf ((List.range 12).map fun mc => classLevel s mc c)
  let s := (List.range 16).foldl (fun s h =>
    let b := s.bucketNow h
    s.setBucket h { b with emptyNs := 0, level := bucketLevel b }) s
  { s with devLevels := levels,
           wheels := mapVals (fun _ w => { w with served := List.replicate 8 0 }) s.wheels }

/-- R128. -/
def execDevloadWindowEnd (now : Nat) (s : State) : Res := .next (opDevloadWindowEnd (s.at_ now))

/-- The DevLoad that a CXL.mem response to host h carries: the higher of its request's class's level, where the request has a class, and its host's bucket level
(R129). (log entry 60, DEDUCED) -/
def devLoad (s : State) (h : Nat) (c : Option Nat) : Nat := max ((c.map fun n => s.devLevels.getD n 0).getD 0) (s.bucket h).level

/-- A CXL.mem response to a host goes out with its DevLoad (R129). (log entry 60, DEDUCED) -/
def State.respond (s : State) (h : Nat) (c : Option Nat) : State := s.emit (.devLoad h (devLoad s h c))

/-- A CXL.mem response with data (R129). (log entry 60, DEDUCED) -/
def State.respondData (s : State) (h : Nat) (bytes : List Byte) (poison : Bool) (c : Option Nat) : State :=
  (s.emit (.readData h bytes poison)).respond h c

/-- The class of a host's plain-region request: BC of the host range entry it runs under (R124). (log entry 60, DEDUCED) -/
def plainClass (s : State) (h a : Nat) (wr : Bool) : Option Nat := (hrtLookup s h false a wr .other).map fun e => s.fld Fd.HRT_CTL_BC e.1

end Sys2Proof.Machine
end

