-- ==== Sys2Proof/Machine/Plain.lean ====
section
/-!
DEFINITION. Plain regions: which accesses are backed and allowed, coherence under back-invalidate snoops, poisoned and orphaned
lines (R443, R452 to R457), and reads and writes by the part's own engines.
-/
namespace Sys2Proof.Machine

/-- Bytes of a plain extent (R441). -/
def extentBytes : Nat := 0x10000000

/-- Where an extent of a region stands among all. -/
def extKey (region idx : Nat) : Nat := region * 0x100000000 + idx

/-- An extent, if it is there. -/
def State.extent (s : State) (region idx : Nat) : Option Extent := mapFind s.extents (extKey region idx)

/-- Whether an extent is added to a host and its release has not begun (R443, R447). -/
def extentHeld (s : State) (h region idx : Nat) : Bool :=
  match s.extent region idx with
  | some e => e.st == .added && e.hosts.contains h
  | none => false

/-- Plain extents that exist, those being added included (R445). -/
def plainExtents (s : State) : Nat := mapCount (fun k _ => decide (k < 0x100000000)) s.extents

/-- Whether a DPA lies in an extent added to the host (R443). (log entry 31, DEDUCED) -/
def backed (s : State) (h a : Nat) : Bool :=
  match dpaPlace (dpaExtents s.cacheSf) a with
  | .plain e _ => extentHeld s h 0 e
  | .view t _ => extentHeld s h 1 t
  | .gateway g _ => extentHeld s h 2 g
  | .unbacked => false

/-- The first units of `unit` bytes that a range touches, as addresses. -/
def unitsOf (unit a n : Nat) : List Nat :=
  (List.range ((a + n - 1) / unit - a / unit + 1)).map fun i => if i = 0 then a else (a / unit + i) * unit

/-- Whether a whole range lies in plain extents added to the host. -/
def rangeBacked (s : State) (h a n : Nat) : Bool :=
  (unitsOf extentBytes a n).all fun x => decide (x < extentBytes * dpaExtents s.cacheSf) && backed s h x

/-- Whether a whole range passes R115 for the host; the first address that does not. -/
def rangeDenied (s : State) (h a n : Nat) (wr : Bool) : Option Nat :=
  (unitsOf 65536 a n).find? fun x => (hrtLookup s h false x wr .other).isNone

/-- The lines that a range touches. -/
def linesOf (a n : Nat) : List Nat := (List.range ((a + n - 1) / 64 - a / 64 + 1)).map fun i => a / 64 + i

/-- Whether a line reads as poison: poisoned or orphaned (R457). -/
def linePoison (s : State) (l : Nat) : Bool := (mapFind s.poisonLines l).isSome || (mapFind s.orphanLines l).isSome

/-- Whether any line of a range reads as poison; only the lines that are so marked are looked through. -/
def rangePoison (s : State) (a n : Nat) : Bool :=
  (s.poisonLines ++ s.orphanLines).any fun e => decide (a / 64 ≤ e.1) && decide (e.1 ≤ (a + n - 1) / 64)

/-- An access to an unbacked DPA is counted (R443). (log entry 31, DEDUCED) -/
def State.countUnbacked (s : State) : State := s.addFld Fd.CXL_CNT_UNBACKED 1

/-- Write bytes into one line: a write with all 64 bytes enabled clears poison and orphan state, a partial write leaves them (R457). -/
def State.putLine (s : State) (l : Nat) (bs : List (Option Byte)) : State :=
  let s := { s with plainMem := s.plainMem.writeMasked (64 * l) (bs.take 64) }
  if 64 ≤ bs.length ∧ (bs.take 64).all (fun b => b.isSome) then
    { s with poisonLines := mapDel l s.poisonLines, orphanLines := mapDel l s.orphanLines }
  else s

/-- Poison a line. -/
def State.poisonLine (s : State) (l : Nat) : State := { s with poisonLines := mapIns l () s.poisonLines }

/-- The bytes of a range as memory holds them. -/
def State.plainBytes (s : State) (a n : Nat) : List Byte := s.plainMem.read a n

/-! ### The snoop filter -/

/-- Lines that the filter holds (R452). -/
def sfLines : Nat := 4194304

/-- The filter's entry of a line. -/
def State.sfLine (s : State) (l : Nat) : Option SfLine := s.snoopFilter.find? fun e => e.line == l

/-- The hosts that hold a line. -/
def holders (e : SfLine) : List Nat := e.sharers ++ e.excl.toList

/-- The hosts that hold a line, none where it is not tracked. -/
def State.holdersOf (s : State) (l : Nat) : List Nat := ((s.sfLine l).map holders).getD []

/-- Take a host out of the holders of a line; a line that nobody holds leaves the filter. -/
def State.dropHolder (s : State) (l h : Nat) : State :=
  { s with snoopFilter := s.snoopFilter.filterMap fun e =>
      if e.line = l then
        let e := { e with sharers := e.sharers.filter (· != h), excl := if e.excl = some h then none else e.excl }
        if e.sharers = [] ∧ e.excl = none then none else some e
      else some e }

/-- A host that held a line exclusive keeps it shared (R453, BISnpData). -/
def State.downgrade (s : State) (l h : Nat) : State :=
  { s with snoopFilter := s.snoopFilter.map fun e =>
      if e.line = l ∧ e.excl = some h then { e with sharers := h :: e.sharers.filter (· != h), excl := none } else e }

/-- Grant a line to a host, allocating an entry where it has none. -/
def State.grant (s : State) (l h : Nat) (excl : Bool) : State :=
  let make (e : SfLine) : SfLine :=
    if excl then { line := l, sharers := [], excl := some h }
    else { line := l, sharers := h :: e.sharers.filter (· != h), excl := if e.excl = some h then none else e.excl }
  match s.sfLine l with
  | some _ => { s with snoopFilter := s.snoopFilter.map fun e => if e.line = l then make e else e }
  | none => { s with snoopFilter := s.snoopFilter ++ [make { line := l, sharers := [], excl := none }] }

/-- Send a back-invalidate snoop. -/
def State.snoop (s : State) (x : Snoop) : State :=
  { s with snoops := s.snoops ++ [x] }.emit (.biSnp x.kind x.host x.line)

/-- The snoops that a request needs before it is served (R453). -/
def snoopsFor (s : State) (r : LineReq) : List Snoop :=
  match s.sfLine r.line with
  | none => []
  | some e =>
    let others := (holders e).filter fun h => some h != r.host
    let exclOther := e.excl.toList.filter fun h => some h != r.host
    match r.op with
    | .readShared => exclOther.map fun h => { line := r.line, host := h, kind := .data, uid := none }
    | .readExcl => others.map fun h => { line := r.line, host := h, kind := .inv, uid := none }
    | .readCur => exclOther.map fun h => { line := r.line, host := h, kind := .cur, uid := none }
    | .write _ => others.map fun h => { line := r.line, host := h, kind := .inv, uid := none }

/-- The snoops of the eviction that a grant needs where the filter is full: the entry allocated longest ago (R452). -/
def evictionFor (s : State) (r : LineReq) : List Snoop :=
  let grants := r.op == .readShared || r.op == .readExcl
  if grants && (s.sfLine r.line).isNone && decide (sfLines ≤ s.snoopFilter.length) then
    match s.snoopFilter.head? with
    | some e => (holders e).map fun h => { line := e.line, host := h, kind := .inv, uid := none }
    | none => []
  else []

/-- The effect of a request whose snoops have been answered; in FAILED a load returns poison and a store is dropped (R597). (log entries 60 and 81, DEDUCED) -/
def State.serve (s : State) (r : LineReq) : State :=
  let bytes := s.plainBytes (64 * r.line) 64
  let bad := linePoison s r.line || partFailed s
  let s := match r.op with
    | .write _ => s
    | _ => if (mapFind s.orphanLines r.line).isSome then s.addFld Fd.CXL_CNT_ORPHREADS 1 else s
  match r.op, r.host with
  | .readShared, some h => ((s.grant r.line h false).emit (.granted h r.line false bytes bad)).respond h r.cls
  | .readExcl, some h => ((s.grant r.line h true).emit (.granted h r.line true bytes bad)).respond h r.cls
  | .readCur, some h => s.respondData h bytes bad r.cls
  | .write bs, some h => (if partFailed s then s else s.putLine r.line bs).respond h r.cls
  | .write bs, none => s.putLine r.line bs
  | _, none => s

/-- Serve the requests of a line whose turn has come, in arrival order (R454): the first one starts with its snoops, and once it waits for none it is served
and leaves the queue. -/
def State.pumpLine (s : State) (l : Nat) : Nat → State
  | 0 => s
  | fuel + 1 => match s.lineQ.find? fun r => r.line == l with
    | none => s
    | some r =>
      let rest := s.lineQ.erase r
      if r.started then
        if r.awaits = [] then ({ s with lineQ := rest }.serve r).pumpLine l fuel else s
      else
        let ev := evictionFor s r
        let need := snoopsFor s r ++ ev
        if need = [] then ({ s with lineQ := rest }.serve r).pumpLine l fuel
        else
          let r' := { r with started := true, awaits := need.map fun x => (x.line, x.host) }
          let s := { s with lineQ := s.lineQ.map fun x => if x = r then r' else x }
          let s := if ev = [] then s else s.addFld Fd.CXL_SF_EVICTS 1
          need.foldl (fun s x => s.snoop x) s

/-- A request arrives at its line, behind those that wait there (R454). -/
def State.request (s : State) (r : LineReq) : State :=
  let s := { s with lineQ := s.lineQ ++ [{ r with no := s.nextUid }] }
  s.pumpLine r.line (s.lineQ.length + 1)

/-- The first number of the jobs of the part's own engines; commands count up from zero. -/
def jobBase : Nat := 2 ^ 62

/-- A command in flight, or a job of an engine, has had the answer of its BISnpCur. -/
def State.noteCur (s : State) (x : Snoop) : State :=
  match x.kind, x.uid with
  | .cur, some u =>
    if jobBase ≤ u then { s with curLog := mapIns u (x.line :: (mapFind s.curLog u).getD []) s.curLog }
    else { s with inflight := s.inflight.map fun c => if c.uid = u then { c with curDone := x.line :: c.curDone } else c }
  | _, _ => s

/-- An answer to a snoop (R453, R455): modified data is written back beneath what waits (discarded for a release, R447), the holder's state
changes, and the requests that waited for it go on. -/
def State.answerSnoop (s : State) (x : Snoop) (data : Option (List Byte)) : State :=
  let s := { s with snoops := s.snoops.erase x }
  let s := match data, x.kind with
    | some bs, .release => let _ := bs; s
    | some bs, _ => { s with plainMem := s.plainMem.write (64 * x.line) (bs.take 64) }
    | none, _ => s
  let s := match x.kind with
    | .inv => s.dropHolder x.line x.host
    | .release => s.dropHolder x.line x.host
    | .data => s.downgrade x.line x.host
    | .cur => s
  let s := s.noteCur x
  let waiting := (s.lineQ.filter fun r => r.awaits.contains (x.line, x.host)).map fun r => r.line
  let s := { s with lineQ := s.lineQ.map fun r => { r with awaits := r.awaits.erase (x.line, x.host) } }
  waiting.foldl (fun s l => s.pumpLine l (s.lineQ.length + 1)) s

/-! ### Accesses of the part's own engines -/

/-- The snoops that reads and writes of plain ranges need: BISnpInv to every holder of a line written, BISnpCur to the exclusive holder
of a line read, unless that has been answered (R453, R459). -/
def snoopsForRanges (s : State) (uid : Nat) (curDone : List Nat) (reads writes : List (Nat × Nat)) : List Snoop :=
  let inside (rs : List (Nat × Nat)) (l : Nat) : Bool :=
    rs.any fun r => decide (r.1 / 64 ≤ l) && decide (l ≤ (r.1 + r.2 - 1) / 64)
  s.snoopFilter.flatMap fun e =>
    if inside writes e.line then (holders e).map fun h => { line := e.line, host := h, kind := .inv, uid := some uid }
    else if inside reads e.line && !curDone.contains e.line then
      e.excl.toList.map fun h => { line := e.line, host := h, kind := .cur, uid := some uid }
    else []

/-- Make ranges coherent for a command or a job: true once no snoop is needed, otherwise the snoops are sent and it waits (R453). -/
def State.coherentFor (s : State) (uid : Nat) (curDone : List Nat) (reads writes : List (Nat × Nat)) : State × Bool :=
  if s.snoops.any fun x => x.uid == some uid then (s, false)
  else
    let need := snoopsForRanges s uid curDone reads writes
    if need = [] then (s, true) else (need.foldl (fun s x => s.snoop x) s, false)

/-- A command's ranges. -/
def State.coherent (s : State) (c : Cmd) (reads writes : List (Nat × Nat)) : State × Bool := s.coherentFor c.uid c.curDone reads writes

/-- A job's ranges; once they are coherent the job's answers are forgotten. -/
def State.coherentJob (s : State) (job : Nat) (reads writes : List (Nat × Nat)) : State × Bool :=
  match s.coherentFor job ((mapFind s.curLog job).getD []) reads writes with
  | (s, true) => ({ s with curLog := mapDel job s.curLog }, true)
  | r => r

/-- The bytes of a write cut at the lines they fall into: (line, 64 enables). -/
def linePieces : Nat → Nat → List Byte → List (Nat × List (Option Byte))
  | 0, _, _ => []
  | fuel + 1, a, bs =>
    if bs = [] then []
    else
      let k := 64 - a % 64
      let piece := List.replicate (a % 64) none ++ (bs.take k).map some
      (a / 64, piece ++ List.replicate (64 - piece.length) none) :: linePieces fuel (a + k) (bs.drop k)

/-- Write bytes whose lines nobody holds any more. -/
def State.plainPut (s : State) (a : Nat) (bs : List Byte) : State :=
  (linePieces (bs.length + 1) a bs).foldl (fun s p => s.putLine p.1 p.2) s

/-- An engine of the part writes bytes under R453: each line at once where nobody holds it, else behind the snoops it needs. -/
def State.engineWrite (s : State) (a : Nat) (bs : List Byte) : State :=
  (linePieces (bs.length + 1) a bs).foldl
    (fun s p => s.request { host := none, line := p.1, op := .write p.2, started := false, awaits := [] }) s

/-- What a read of a plain range in the name of a host finds. -/
inductive PlainRead where
  | denied (addr : Nat) | unbacked | poison | data (bytes : List Byte)
  deriving DecidableEq, Repr

/-- A read of a plain range in the name of a host (R198, R443): unbacked, then denied under R115, then poisoned. -/
def plainRead (s : State) (h a n : Nat) : PlainRead :=
  if n = 0 then .data []
  else if !rangeBacked s h a n then .unbacked
  else match rangeDenied s h a n false with
    | some x => .denied x
    | none => if rangePoison s a n then .poison else .data (s.plainBytes a n)

/-- Bytes that the spec leaves open. (log entry 6, DESIGN CHOICE; log entry 50, DEDUCED) -/
def freeBytes (s : State) (n : Nat) : List Byte := (List.range n).map fun i => BitVec.ofNat 8 (Config.freeValue (s.freeCtr + i))

/-- A destination range that a failure leaves undefined (R366, R465): every byte holds a free value. (log entry 68, DEDUCED) -/
def State.undefine (s : State) (a n : Nat) : State :=
  ({ s with freeCtr := s.freeCtr + n } : State).plainPut a (freeBytes s n)

end Sys2Proof.Machine
end

