-- ==== Sys2Proof/Machine/Ring.lean ====
section
/-!
DEFINITION. The Snien ring's links as everything that sends on them uses them: states, routes, frames and their replay buffers (R387, R388, R390, R393 to R395, R427, R428).
-/
namespace Sys2Proof.Machine

/-- States of the ring (R427). -/
def ringOff : Nat := 0
/-- R427. -/
def ringForming : Nat := 1
/-- R427. -/
def ringFormed : Nat := 2
/-- R427. -/
def ringBroken : Nat := 3
/-- R427. -/
def ringMismatch : Nat := 4

/-- States of a ring link (R428). -/
def linkDown : Nat := 0
/-- R428. -/
def linkTraining : Nat := 1
/-- R428. -/
def linkUp : Nat := 2
/-- R428. -/
def linkRetraining : Nat := 3

/-- Members of the ring (R393). -/
def ringN (s : State) : Nat := s.fld Fd.SNL_CFG_NMEM + 1
/-- This member's position. -/
def ringPos (s : State) : Nat := s.fld Fd.SNL_CFG_POS

/-- The hops from position a east to position b. -/
def eastDist (s : State) (a b : Nat) : Nat := (b + ringN s - a % ringN s) % ringN s

/-- R393: the link a message from this member to `dst` leaves by: 0 east, 1 west. -/
def routeTo (s : State) (dst : Nat) : Nat := if eastDist s (ringPos s) dst ≤ ringN s / 2 then 0 else 1

/-- Whether a link carries messages now: UP, on a ring that has formed (R394). -/
def linkCarries (s : State) (l : Nat) : Bool :=
  s.fld Fd.SNL_LINK_STATE l == linkUp && (s.fld Fd.SNL_RING_STATE == ringFormed || s.fld Fd.SNL_RING_STATE == ringBroken)

/-! ### Frames (R387, R388, R390) -/

/-- Frame sequence numbers count modulo 4,096 (R387). -/
def fseqMod : Nat := 4096
/-- Frames of a link's replay buffer (R388). -/
def replayFrames : Nat := 2048

/-- Data bytes of a frame's payload (R387). -/
def framePayload : Nat := 632

/-- A frame with its CRC (R387): FSEQ, ACK, TYPE and the payload, which is filled up with zeros. -/
def ringFrame (fseq ack type : Nat) (payload : List Byte) : List Byte :=
  let head := leBytes 4 (fseq % fseqMod + ack % fseqMod * 2 ^ 12 + type % 8 * 2 ^ 24) ++ (payload ++ List.replicate (framePayload - payload.length) 0).take framePayload
  head ++ leBytes 4 (crc32c head)

/-- Whether a received frame is whole (R387): 640 bytes with the CRC-32C of bytes 0 to 635 in the last four. -/
def frameOk (f : List Byte) : Bool := f.length == 640 && ofLE (f.drop 636) == crc32c (f.take 636)
/-- FSEQ of a frame. -/
def frameSeq (f : List Byte) : Nat := natBits (ofLE (f.take 4)) 11 0
/-- ACK. -/
def frameAck (f : List Byte) : Nat := natBits (ofLE (f.take 4)) 23 12
/-- TYPE. -/
def frameType (f : List Byte) : Nat := natBits (ofLE (f.take 4)) 26 24

/-- The 32-byte header of a bulk message (R395): MTYPE, SRC, DST, BCAST 0, CTX and LEN; DIDX and OFF; ADDR; RTYPE, STATUS and DETAIL. -/
def RingMsg.header (m : RingMsg) : List Word :=
  [packWord [(24, m.len), (16, m.ctx), (8, m.dst), (4, m.src), (0, m.mtype)], packWord [(32, m.off), (0, m.didx)], BitVec.ofNat 64 m.addr,
    packWord [(16, m.detail), (8, m.status), (0, m.rtype)]]

/-- A bulk message in the message stream (R395): its header, and its data behind it. -/
def RingMsg.wire (m : RingMsg) : List Byte := bytesOf m.header ++ m.data

/-- Bytes of the message stream that an item takes: its 32-byte headers and its data, cut into messages of at most 4,096 data bytes (R395). What RATT_HDR, CAM_SEARCH, CAM_HIT
and RING_CHECK carry fits one frame. (log entry 52, DESIGN CHOICE) -/
def RingItem.bytes : RingItem → Nat
  | .msg m => m.wire.length
  | .block b => b.bytes.length + 32 * max 1 (ceilDiv b.bytes.length 4096)
  | _ => framePayload

/-- The frames of an item: they begin with it, and the last is filled up. (log entry 52, DESIGN CHOICE) -/
def RingItem.frames (x : RingItem) : Nat := ceilDiv x.bytes framePayload

/-- Messages of the control class (R393), which are sent ahead of all others (R390): those whose passing R390 and R423 bound. (log entry 52, DESIGN CHOICE) -/
def RingItem.control : RingItem → Bool
  | .camSearch _ _ _ _ => true
  | .camHit _ _ _ _ => true
  | .check _ _ _ => true
  | .hdr _ _ => true
  | _ => false

/-- A link of the part as it stands. (log entry 53, PRESUMED) -/
def State.rlink (s : State) (l : Nat) : RingLink :=
  s.rlinks.getD l { rxNext := 0, txNext := 0, sent := [], credits := [0, 0, 0], replayAt := 0, replays := 0, cable := true, passed := false }

/-- Put a link back. -/
def State.setRlink (s : State) (l : Nat) (x : RingLink) : State :=
  { s with rlinks := (List.range 2).map fun i => if i = l then x else s.rlink i }

/-- A link of a ring that has just been enabled: nothing received, nothing sent. -/
def RingLink.fresh (x : RingLink) : RingLink :=
  { rxNext := 0, txNext := 0, sent := [], credits := [0, 0, 0], replayAt := 0, replays := 0, cable := x.cable, passed := false }

/-- Frames in a link's replay buffer. -/
def RingLink.held (x : RingLink) : Nat := (x.sent.map fun e => e.2.1).sum

/-- Send an item on a link: its frames take the next FSEQs and stay in the replay buffer (R387, R388). -/
def State.ringEmit (s : State) (l : Nat) (x : RingItem) : State :=
  let k := s.rlink l
  (s.setRlink l { k with txNext := (k.txNext + x.frames) % fseqMod, sent := k.sent ++ [(k.txNext, x.frames, x)] }).emit (.ring l k.txNext k.rxNext x)

/-- Whether a link takes one more item now: the replay buffer has room for its frames (R388). A ring check crosses links of a ring that is still forming. -/
def linkTakes (s : State) (l : Nat) (x : RingItem) : Bool :=
  (linkCarries s l || (match x with | .check _ _ _ => s.fld Fd.SNL_LINK_STATE l == linkUp | _ => false)) &&
    decide ((s.rlink l).held + x.frames ≤ replayFrames)

/-- The place in the queue of what a link sends next: a message of the control class before any other (R390), else the oldest. -/
def nextOut (s : State) (l : Nat) : Option Nat :=
  match s.ringOut.findIdx? fun e => e.1 == l && e.2.control with
  | some i => some i
  | none => s.ringOut.findIdx? fun e => e.1 == l

/-- What waits for a link goes out, as far as the link takes it. -/
def State.pumpLink (s : State) (l : Nat) : Nat → State
  | 0 => s
  | fuel + 1 => match nextOut s l with
    | none => s
    | some i => match s.ringOut[i]? with
      | none => s
      | some e => if linkTakes s l e.2 then (({ s with ringOut := s.ringOut.eraseIdx i } : State).ringEmit l e.2).pumpLink l fuel else s

/-- What waits goes out on both links. -/
def State.ringPump (s : State) : State := (s.pumpLink 0 s.ringOut.length).pumpLink 1 s.ringOut.length

/-- Send an item on a link, behind what waits there, once the link carries messages (R394). (log entry 52, DESIGN CHOICE) -/
def State.ringPut (s : State) (l : Nat) (x : RingItem) : State :=
  let s : State := { s with ringOut := s.ringOut ++ [(l, x)] }
  s.pumpLink l s.ringOut.length

/-- Send an item to a member by its route. -/
def State.ringSend (s : State) (dst : Nat) (x : RingItem) : State := s.ringPut (routeTo s dst) x

end Sys2Proof.Machine
end

