-- ==== Sys2Proof/Machine/SipHash.lean ====
section
/-!
DEFINITION. SipHash-2-4 with a 64-bit output, the function of Aumasson and Bernstein that R184 names, and the span key built from it.
-/
namespace Sys2Proof.Machine

/-- The four words of the hash's state. -/
structure SipState where
  v0 : Word
  v1 : Word
  v2 : Word
  v3 : Word
  deriving DecidableEq, Repr

/-- One SipRound. -/
def sipRound (s : SipState) : SipState :=
  let v0 := s.v0 + s.v1
  let v1 := (s.v1.rotateLeft 13) ^^^ v0
  let v0 := v0.rotateLeft 32
  let v2 := s.v2 + s.v3
  let v3 := (s.v3.rotateLeft 16) ^^^ v2
  let v0' := v0 + v3
  let v3' := (v3.rotateLeft 21) ^^^ v0'
  let v2' := v2 + v1
  let v1' := (v1.rotateLeft 17) ^^^ v2'
  { v0 := v0', v1 := v1', v2 := v2'.rotateLeft 32, v3 := v3' }

/-- Compress one message word: two rounds. -/
def sipBlock (s : SipState) (m : Word) : SipState :=
  let s := sipRound (sipRound { s with v3 := s.v3 ^^^ m })
  { s with v0 := s.v0 ^^^ m }

/-- The hash's state from a 16-byte key taken in address order (R184). -/
def sipInit (k : Wide) : SipState :=
  let k0 : Word := BitVec.ofNat 64 k.toNat
  let k1 : Word := BitVec.ofNat 64 (k.toNat / 2 ^ 64)
  { v0 := k0 ^^^ 0x736f6d6570736575, v1 := k1 ^^^ 0x646f72616e646f6d,
    v2 := k0 ^^^ 0x6c7967656e657261, v3 := k1 ^^^ 0x7465646279746573 }

/-- The whole 8-byte words of a message, and its last word: the bytes left over with the length in the top byte. -/
def sipWords (msg : List Byte) : List Word :=
  let n := msg.length / 8
  ((List.range n).map fun i => BitVec.ofNat 64 (ofLE ((msg.drop (8 * i)).take 8))) ++
    [BitVec.ofNat 64 (ofLE (msg.drop (8 * n)) + (msg.length % 256) * 2 ^ 56)]

/-- SipHash-2-4 (R184). (log entry 12, PRESUMED) -/
def sipHash24 (k : Wide) (msg : List Byte) : Word :=
  let s := (sipWords msg).foldl sipBlock (sipInit k)
  let s := sipRound (sipRound (sipRound (sipRound { s with v2 := s.v2 ^^^ 0xff })))
  s.v0 ^^^ s.v1 ^^^ s.v2 ^^^ s.v3

/-- The span key of a list of tokens below a parent key, under a namespace's key (R184). -/
def spanKey (kns : Wide) (parent : Word) (profile : Nat) (toks : List Token) : Word :=
  sipHash24 kns (leBytes 8 parent.toNat ++ leBytes 4 (profile % 256) ++ toks.flatMap fun t => leBytes 4 t.toNat)

end Sys2Proof.Machine
end

