-- ==== Sys2Proof/Machine/Operands.lean ====
section
/-!
DEFINITION. The operand forms of commands: cell counts, token sources and other sources a command names (R148, R198).
-/
namespace Sys2Proof.Machine

/-- Whether NCELL fits a token source of NTOK tokens (R198); TSRC 3 is refused whatever its NCELL, with a detail of its own. -/
def ncellTokens (ntok tsrc ncell : Nat) : Bool :=
  if tsrc = 0 then ncell == ceilDiv ntok 16 && decide (ntok ≤ 240) else tsrc == 3 || ncell == 0

/-- Cells that the inline queries of an ATTEND or a VERIFY take (R361, R368, R373), from word 1 of its first cell. -/
def queryCells (g : Geo) (op : Nat) (w : Word) : Nat :=
  if bitsOf w 39 38 = 0 then
    let cands := if op = Oc.verify then bitsOf w 53 50 + 1 else 1
    ceilDiv (cands * bitsOf w 37 33 * g.qperkv * rowBytes (bitsOf w 47 44) g.hdim) 64
  else 0

/-- Whether NCELL lies in the range the opcode's owning chapter allows (R148, R746): `first` is the command's first cell, and `s`, `t` give the geometry that ATTEND's
and VERIFY's counts depend on. While the tenant's profile has no geometry, with no pattern, those two take any count. APPEND, DELIVER, REDUCE and GATHER take
any count here: their chapters give a wrong one a detail of their own (R243, R270, R465). (log entry 118, DEDUCED) -/
def ncellOk (s : State) (t op : Nat) (first : List Word) (ncell : Nat) : Bool :=
  let w := wordAt first 1
  let prof := s.profileOf t
  if op = Oc.lookup then ncellTokens (fieldOf first 1 19 0) (fieldOf first 1 21 20) ncell
  else if op = Oc.commit then ncellTokens (fieldOf first 1 37 28) (fieldOf first 1 39 38) ncell
  else if op = Oc.tableLoad then ncell == 2 * fieldOf first 1 2 0
  else if op = Oc.attendBatch then ncell == (if bitsOf w 18 17 = 0 then 1 + ceilDiv (bitsOf w 9 0) 4 else 1)
  else if op = Oc.attend then s.profWord prof == 0 || ncell == queryCells (s.geo prof) op w
  else if op = Oc.verify then s.profWord prof == 0 || ncell == 1 + queryCells (s.geo prof) op w
  else if op = Oc.append ∨ op = Oc.deliver ∨ op = Oc.reduce ∨ op = Oc.gather then true
  else ncell == 0

/-- The bytes of a command's cells from cell 1 on. -/
def inlineBytes (c : Cmd) (cell : Nat) : List Byte := bytesOf (c.words.drop (8 * cell))

end Sys2Proof.Machine
end

