-- ==== Sys2Proof/Machine/Spools.lean ====
section
/-!
DEFINITION. The command path: submission apertures and doorbells, capture into the bobbin, decoding, completion entries, spool errors and reset
(R132 to R177, R746).
-/
namespace Sys2Proof.Machine

/-- Sequence numbers count modulo 65,536 (R135). -/
def seqMod : Nat := 65536
/-- The distance from b up to a, modulo 65,536 (R135). -/
def seqSub (a b : Nat) : Nat := (seqMod + a - b % seqMod) % seqMod

/-- The number of a submission spool among all. -/
def sqIdx (t n : Nat) : Nat := 4 * t + n
/-- The number of a completion spool among all. -/
def cqIdx (t m : Nat) : Nat := 2 * t + m

/-- A submission spool as it stands. -/
def State.spool (s : State) (t n : Nat) : Spool :=
  (mapFind s.spools (sqIdx t n)).getD { cells := [], part := [], pos := 0, cutting := none, passed := 0, dropped := [] }

/-- Put a submission spool back. -/
def State.setSpool (s : State) (t n : Nat) (p : Spool) : State := { s with spools := mapIns (sqIdx t n) p s.spools }

/-- A completion spool as it stands. -/
def State.comp (s : State) (t m : Nat) : CompSpool :=
  (mapFind s.comps (cqIdx t m)).getD { unread := [], waiting := [], replay := [] }

/-- Put a completion spool back. -/
def State.setComp (s : State) (t m : Nat) (c : CompSpool) : State := { s with comps := mapIns (cqIdx t m) c s.comps }

/-- The field of TNT_CRED that holds the grant of submission spool n (R104). -/
def sqCred (n : Nat) : Field :=
  if n = 0 then Fd.TNT_CRED_SQ0 else if n = 1 then Fd.TNT_CRED_SQ1 else if n = 2 then Fd.TNT_CRED_SQ2 else Fd.TNT_CRED_SQ3

/-- The field of TNT_CRED that holds the grant of completion spool m (R104). -/
def cqCred (m : Nat) : Field := if m = 0 then Fd.TNT_CRED_CQ0 else Fd.TNT_CRED_CQ1

/-- The grant of submission spool n of tenant t, in cells (R134). -/
def sqGrant (s : State) (t n : Nat) : Nat := 4 * s.fld (sqCred n) t
/-- The grant of completion spool m of tenant t, in cells; it holds two entries a cell (R134, R158). -/
def cqGrant (s : State) (t m : Nat) : Nat := 4 * s.fld (cqCred m) t

/-- Commands of a tenant taken and not yet completed (R105, R112, R158). -/
def inflightOf (s : State) (t : Nat) : Nat :=
  (s.inflight.countP fun c => c.tenant == t) +
    ((s.comp t 0).waiting.countP fun d => d.counted) + ((s.comp t 1).waiting.countP fun d => d.counted)

/-- Commands in flight device-wide (R149, R176). -/
def inflightAll (s : State) : Nat :=
  s.inflight.length + (s.comps.map fun e => e.2.waiting.countP fun d => d.counted).sum

/-- Cells linked into any spool: held cells, and the unread completion entries of each completion spool, two to a cell; the spec does not say whether the consumed entries
of a replay area keep a cell, and here they keep none (R134, R156, R176). (log entry 106, DESIGN CHOICE) -/
def cellsLinked (s : State) : Nat :=
  (s.spools.map fun e => e.2.cells.length).sum + (s.comps.map fun e => ceilDiv e.2.unread.length 2).sum

/-! ### Completion -/

/-- A result goes to the completion spool its command names, behind those that wait (R158). -/
def State.pushDone (s : State) (t m : Nat) (d : Done) : State :=
  let c := s.comp t m
  s.setComp t m { c with waiting := c.waiting ++ [d] }

/-- The command in flight of a number. -/
def State.cmd (s : State) (uid : Nat) : Option Cmd := s.inflight.find? fun c => c.uid == uid

/-- Replace a command in flight. -/
def State.setCmd (s : State) (c : Cmd) : State :=
  { s with inflight := s.inflight.map fun x => if x.uid = c.uid then c else x }

/-- A command ends with a result: it leaves flight and its entry waits to be written. QUOTA sets the tenant's QUOTAHIT (R105). -/
def State.finish (s : State) (c : Cmd) (code : Nat) (r0 r1 : Word) : State :=
  let s := { s with inflight := s.inflight.filter fun x => x.uid != c.uid }
  let s := if code = Cc.quota then s.setFld Fd.TNT_ERR_QUOTAHIT 1 c.tenant else s
  s.pushDone c.tenant c.cq
    { sq := c.sq, seq := c.seq, opcode := c.opcode, ncell := c.ncell, tag := c.tag, code, r0, r1, counted := true }

/-- A command ends with a code and a DETAIL (R156, R171). -/
def State.fail (s : State) (c : Cmd) (code detail : Nat) : State := s.finish c code (detailWord detail) 0

/-- The completion spool a command's results go to: the one CQ names, or CQ0 where that has a zero grant (R746). -/
def cqFor (s : State) (t : Nat) (hdr : Word) : Nat :=
  if cqGrant s t (hdrCq hdr) = 0 then 0 else hdrCq hdr

/-- The end of a command is counted where its opcode's counter counts every one: LOOKUPs completed (R224), attention commands ended CANCELLED (R381). -/
def State.countEnd (s : State) (op code : Nat) : State :=
  if op = Oc.lookup then s.addFld Fd.PFX_CNT0_LOOKUPS 1
  else if isAttention op ∧ code = Cc.cancelled then s.addFld Fd.ATN_CNT1_CANCELS 1 else s

/-- A command in cut-through decode ends CANCELLED (R130, R151, R165). -/
def State.cancelCut (s : State) (c : Cmd) (detail : Nat) : State := (s.countEnd c.opcode Cc.cancelled).fail c Cc.cancelled detail

/-- An undecoded command ends CANCELLED (R130, R151, R165): it was never taken, so it is not counted in flight. -/
def State.cancelHeld (s : State) (t n seq : Nat) (hdr : Word) (detail : Nat) : State :=
  (s.countEnd (hdrOpcode hdr) Cc.cancelled).pushDone t (cqFor s t hdr)
    { sq := n, seq, opcode := hdrOpcode hdr, ncell := hdrNcell hdr, tag := hdrTag hdr, code := Cc.cancelled,
      r0 := detailWord detail, r1 := 0, counted := false }

/-! ### Capture -/

/-- NEXT moved past every cell that has arrived (R139). -/
def nextFree (cells : NMap (List Word)) : Nat → Nat → Nat
  | 0, q => q
  | fuel + 1, q => match mapFind cells (q % seqMod) with
    | some _ => nextFree cells fuel ((q + 1) % seqMod)
    | none => q % seqMod

/-- A spool's registers. -/
def State.sqNext (s : State) (t n : Nat) : Nat := s.fld Fd.SPL_SQS_NEXT (sqIdx t n)
/-- R136. -/
def State.sqFreed (s : State) (t n : Nat) : Nat := s.fld Fd.SPL_SQS_FREED (sqIdx t n)
/-- R142. -/
def State.sqTail (s : State) (t n : Nat) : Nat := s.fld Fd.SPL_SQS_TAIL (sqIdx t n)
/-- R163. -/
def State.sqError (s : State) (t n : Nat) : Bool := s.flag Fd.SPL_SQE_STATE (sqIdx t n)

/-- Whether a sequence number lies at or after ERRSEQ of a spool in ERROR (R164). -/
def pastError (s : State) (t n q : Nat) : Bool :=
  s.sqError t n && decide (seqSub q (s.fld Fd.SPL_SQE_ERRSEQ (sqIdx t n)) < 32768)

/-- The command that includes sequence number q, walking the framing of the held cells from a first cell: its first word, where its first
cell is held (R163). -/
def ownerOf (cells : NMap (List Word)) (q : Nat) : Nat → Nat → Option Word
  | 0, _ => none
  | fuel + 1, pos => match mapFind cells (pos % seqMod) with
    | none => none
    | some c =>
      let h := wordAt c 0
      if seqSub q pos ≤ hdrNcell h then some h else ownerOf cells q fuel (pos + hdrNcell h + 1)

/-- ERR codes of a spool (R174). -/
def errCredit : Nat := 1
/-- R174. -/
def errMissing : Nat := 2
/-- R174. -/
def errCrc : Nat := 3

/-- A spool enters ERROR; in ERROR already, ERR and ERRSEQ stay (R163). -/
def State.spoolError (s : State) (t n err q tag : Nat) : State :=
  if s.sqError t n then s
  else s.setReg .SPL_SQE (sqIdx t n) (packWord [(32, q % seqMod), (16, tag), (4, err), (0, 1)])

/-- An overrun of the grant at q (R153): the spool enters ERROR, CREDOVR is set, SPL_ERRCNT counts it and LOG records it. -/
def State.overrun (s : State) (t n q : Nat) : State :=
  let sp := s.spool t n
  let tag := match ownerOf sp.cells q (sp.cells.length + 1) sp.pos with
    | some h => hdrTag h
    | none => 0
  let s := s.spoolError t n errCredit q tag
  let s := s.setFld Fd.TNT_ERR_CREDOVR 1 t
  let s := s.addFld Fd.SPL_ERRCNT_CREDCNT 1
  s.logEv 0x0501 1 noIsland (some t) n (s.fld Fd.SPL_SQE_ERRSEQ (sqIdx t n))

/-- The words of the first `k` cells from a position. -/
def cellWords (cells : NMap (List Word)) (pos k : Nat) : List Word :=
  (List.range k).flatMap fun i => (mapFind cells ((pos + i) % seqMod)).getD []

/-- Whether the first `k` cells from a position are all held. -/
def cellsHeld (cells : NMap (List Word)) (pos k : Nat) : Bool :=
  (List.range k).all fun i => (mapFind cells ((pos + i) % seqMod)).isSome

/-- Remove `k` cells from a position. -/
def dropCells (cells : NMap (List Word)) (pos k : Nat) : NMap (List Word) :=
  (List.range k).foldl (fun m i => mapDel ((pos + i) % seqMod) m) cells

/-- Past the places of commands that were cancelled for missing cells. -/
def Spool.skip (sp : Spool) : Nat → Spool
  | 0 => sp
  | fuel + 1 => match mapFind sp.dropped sp.pos with
    | some k => ({ sp with pos := (sp.pos + k) % seqMod, dropped := mapDel sp.pos sp.dropped } : Spool).skip fuel
    | none => sp

/-- The decoder takes all `k` cells of the command at the decode position: they are freed and FREED advances (R136). (log entry 36, DEDUCED) -/
def State.freeCommand (s : State) (t n k : Nat) : State :=
  let sp := s.spool t n
  let sp' : Spool := { sp with cells := dropCells sp.cells sp.pos k, pos := (sp.pos + k) % seqMod, cutting := none }
  let s := s.setSpool t n (sp'.skip sp'.dropped.length)
  s.setFld Fd.SPL_SQS_FREED ((s.sqFreed t n + k) % seqMod) (sqIdx t n)

/-- The states of a panel (R87). -/
def panelSwapping : Nat := 2
/-- R87. -/
def panelShort : Nat := 3

/-- The panel that carries a profile in the running pattern (R58, R96). -/
def panelOf (s : State) (prof : Nat) : Option Nat :=
  (List.range 64).find? fun p => decide (s.fld Fd.PANEL_STATE_STATE p ≠ 0) && s.fld Fd.PANEL_STATE_PROFILE p == prof

/-- Whether a command completes PANEL_BUSY at decode: with no pattern (R72) or while a load has quiesced the device (R77), every command but NOP; while the
tenant's panel is swapped, whatever its state was, the commands of R83; on a SHORT panel, attention commands (R595). -/
def panelBusy (s : State) (t op : Nat) : Bool :=
  if op = Oc.nop then false
  else if s.pattern.isNone || deviceQuiet s then true
  else match panelOf s (s.profileOf t) with
    | none => isAttention op
    | some p =>
      let ps := s.fld Fd.PANEL_STATE_STATE p
      if panelQuiet s p then isAttention op || op == Oc.commit || op == Oc.tableLoad || op == Oc.tableRetire
      else ps == panelShort && isAttention op

/-- PANEL_BUSY is counted on the tenant's panel (R96). -/
def State.countBusy (s : State) (t : Nat) : State :=
  match panelOf s (s.profileOf t) with
  | some p => s.addFld Fd.PANEL_STATE_BUSYCNT 1 p
  | none => s

/-- The counts and the spool error of a command that completes with a result given at decode (R96, R163, R177, R746). -/
def State.spoolResultEffects (s : State) (t n seq tag code : Nat) : State :=
  if code = Cc.internal then s
  else if code = Cc.panelBusy then s.countBusy t
  else if code = Cc.crcMismatch then (s.addFld Fd.SPL_ERRCNT_CRCCNT 1).spoolError t n errCrc seq tag
  else s.addFld Fd.SPL_ERRCNT_FMTCNT 1

/-- What ends a command whose cells have all been taken and whose result was given at decode. -/
def State.finishEarly (s : State) (c : Cmd) : State :=
  match c.early with
  | some (code, detail) => ((s.countEnd c.opcode code).fail c code detail).spoolResultEffects c.tenant c.sq c.seq c.tag code
  | none => s

/-- Cut-through decode goes on: once the last cell of the command has arrived, the decoder has taken them all (R151). (log entry 36, DEDUCED) -/
def State.cutOn (s : State) (t n : Nat) : State :=
  let sp := s.spool t n
  match sp.cutting with
  | none => s
  | some uid => match s.cmd uid with
    | none => s
    | some c =>
      if cellsHeld sp.cells sp.pos (c.ncell + 1) then
        let c := { c with words := cellWords sp.cells sp.pos (c.ncell + 1), full := true }
        ((s.setCmd c).freeCommand t n (c.ncell + 1)).finishEarly c
      else s

/-- A cell whose 64 bytes have all been written is captured at sequence number q, or discarded: beyond the grant, which is an overrun whatever the spool's state
(R153, R163), or after ERRSEQ of a spool in ERROR (R164). (log entry 36, DEDUCED) -/
def State.capture (s : State) (t n q : Nat) (cell : List Word) : State :=
  if sqGrant s t n ≤ seqSub q (s.sqFreed t n) then s.overrun t n q
  else if pastError s t n q then s
  else
    let sp := s.spool t n
    let cells := mapIns q cell sp.cells
    let s := s.setSpool t n { sp with cells }
    let s := s.setFld Fd.SPL_SQS_NEXT (nextFree cells (cells.length + 1) (s.sqNext t n)) (sqIdx t n)
    s.cutOn t n

/-- The sequence number of aperture slot `slot` (R139). -/
def slotSeq (next slot : Nat) : Nat := (next + (slot + 64 - next % 64) % 64) % seqMod

/-- Put bytes into a partly written cell from byte `at_` of it. -/
def putBytes (cell : List (Option Byte)) (at_ : Nat) (bs : List Byte) : List (Option Byte) :=
  cell.mapIdx fun i b => if at_ ≤ i then (match bs[i - at_]? with | some x => some x | none => b) else b

/-- A write to one aperture slot: the cell is captured when all its 64 bytes have been written (R139). -/
def State.slotWrite (s : State) (t n slot at_ : Nat) (bs : List Byte) : State :=
  let sp := s.spool t n
  let cell := putBytes ((mapFind sp.part slot).getD (List.replicate 64 none)) at_ bs
  match cell.mapM id with
  | some bytes =>
    (s.setSpool t n { sp with part := mapDel slot sp.part }).capture t n (slotSeq (s.sqNext t n) slot) (wordsOf bytes)
  | none => s.setSpool t n { sp with part := mapIns slot cell sp.part }

/-- A write into an aperture, cut at the slots it covers. -/
def State.apertureWrite (s : State) (t n : Nat) : Nat → Nat → List Byte → State
  | 0, _, _ => s
  | fuel + 1, off, bs =>
    if bs = [] ∨ 4096 ≤ off then s
    else
      let k := 64 - off % 64
      (s.slotWrite t n (off / 64) (off % 64) (bs.take k)).apertureWrite t n fuel (off + k) (bs.drop k)

/-- The BAR2 address of an offset in tenant t's window (R132). -/
def winAddr (t off : Nat) : Nat := 65536 * t + off

/-- R139: a host writes into the aperture of a submission spool. -/
def opSubmissionCellWrite (h t n off : Nat) (bs : List Byte) (s : State) : State :=
  match hrtLookup s h true (winAddr t (4096 * n + off)) true .other with
  | none => s.denyBar2 h (winAddr t (4096 * n + off)) bs.length true
  | some _ => s.apertureWrite t n (bs.length + 1) off bs
/-- R139. -/
def execSubmissionCellWrite (host : HostId) (tenant : TenantId) (sq : Fin 4) (off : Fin 4096) (bytes : List Byte) (s : State) :
    Res := .next (opSubmissionCellWrite host.val tenant.val sq.val off.val bytes s)

/-! ### Doorbells and reset -/

/-- The held commands of a spool, walking the framing from a position over the places of those cancelled for missing cells: the sequence number of each first
cell and its word 0. -/
def heldCommands (sp : Spool) : Nat → Nat → List (Nat × Word)
  | 0, _ => []
  | fuel + 1, pos => match mapFind sp.dropped (pos % seqMod), mapFind sp.cells (pos % seqMod) with
    | some k, _ => heldCommands sp fuel (pos + k)
    | none, some c => (pos % seqMod, wordAt c 0) :: heldCommands sp fuel (pos + hdrNcell (wordAt c 0) + 1)
    | none, none => []

/-- All of them. -/
def Spool.commands (sp : Spool) : List (Nat × Word) := heldCommands sp (sp.cells.length + sp.dropped.length + 1) sp.pos

/-- Every held command not yet fully decoded ends CANCELLED, in order of its first cell; a command in cut-through decode is
the first of them (R130, R165). -/
def State.cancelSpool (s : State) (t n detail : Nat) : State :=
  let sp := s.spool t n
  let held := sp.commands
  match sp.cutting.bind s.cmd with
  | none => held.foldl (fun s e => s.cancelHeld t n e.1 e.2 detail) s
  | some c => (held.drop 1).foldl (fun s e => s.cancelHeld t n e.1 e.2 detail) (s.cancelCut c detail)

/-- R165: a reset doorbell with TAIL = T. (log entry 37, DEDUCED) -/
def State.resetSpool (s : State) (t n tail : Nat) : State :=
  let s := s.cancelSpool t n 0x0002
  let s := s.setSpool t n { s.spool t n with cells := [], part := [], pos := tail, cutting := none, dropped := [] }
  let s := s.setReg .SPL_SQS (sqIdx t n) (packWord [(48, tail), (32, tail), (16, tail)])
  s.setReg .SPL_SQE (sqIdx t n) 0

/-- A tenant leaves ACTIVE: its spools are emptied, each undecoded command ends CANCELLED with detail 0x0001, and errors are cleared
(R130, R163). -/
def State.emptySpools (s : State) (t : Nat) : State :=
  (List.range 4).foldl (fun s n =>
    let held := (s.spool t n).cells.length
    let s := s.cancelSpool t n 0x0001
    let s := s.setSpool t n { s.spool t n with cells := [], part := [], cutting := none, dropped := [] }
    let s := s.setFld Fd.SPL_SQS_FREED ((s.sqFreed t n + held) % seqMod) (sqIdx t n)
    s.setReg .SPL_SQE (sqIdx t n) 0) s

/-- A doorbell's TAIL (R142, R153): behind the old TAIL it is ignored, beyond the grant it is an overrun. -/
def State.moveTail (s : State) (t n tail : Nat) : State :=
  if seqSub tail (s.sqTail t n) = 0 ∨ 32768 ≤ seqSub tail (s.sqTail t n) then s
  else if sqGrant s t n < seqSub tail (s.sqFreed t n) then s.overrun t n (s.sqTail t n)
  else s.setFld Fd.SPL_SQS_TAIL tail (sqIdx t n)

/-- R141, R142: a host writes a doorbell. -/
def opDoorbell (h t n size : Nat) (v : Word) (s : State) : State :=
  match hrtLookup s h true (winAddr t (0x5000 + 8 * n)) true .other with
  | none => s.denyBar2 h (winAddr t (0x5000 + 8 * n)) size true
  | some _ =>
    if size ≠ 8 then s
    else if bitsOf v 16 16 = 1 then s.resetSpool t n (bitsOf v 15 0)
    else s.moveTail t n (bitsOf v 15 0)
/-- R142. -/
def execDoorbell (host : HostId) (tenant : TenantId) (sq : Fin 4) (size : Nat) (value : Word) (s : State) : Res :=
  .next (opDoorbell host.val tenant.val sq.val size value s)

/-- R165: a doorbell with RESET = 1. -/
def opSpoolReset (h t n tail : Nat) (s : State) : State :=
  opDoorbell h t n 8 (BitVec.ofNat 64 (65536 + tail % 65536)) s
/-- R165. -/
def execSpoolReset (host : HostId) (tenant : TenantId) (sq : Fin 4) (tail : BitVec 16) (s : State) : Res :=
  .next (opSpoolReset host.val tenant.val sq.val tail.toNat s)

/-! ### Decoding -/

/-- The cells that must have arrived before a command can be taken (R145, R146). R145 gives no threshold to an opcode outside its table: all the cells of such a command
must have arrived. (log entry 106, DESIGN CHOICE) -/
def thresholdOf (s : State) (t : Nat) (hdr : Word) : Nat :=
  let all := hdrNcell hdr + 1
  if hdrCrcEn hdr || s.flag Fd.SPL_CFG_CTOFF t then all
  else match opThreshold (hdrOpcode hdr) with
    | some (some k) => min k all
    | _ => all

/-- Whether the first cell at the decode position is announced (R142). -/
def announced (s : State) (t n : Nat) : Bool :=
  let d := seqSub (s.sqTail t n) (s.spool t n).pos
  decide (d ≠ 0) && decide (d < 32768)

/-- Whether the next command of a spool can be taken for decoding (R149, R164). R101 gives QCMD from 1 to 16,384 and its field takes more: it is compared as written, so 0
takes no command and what lies above 16,384 never limits. (log entry 106, DESIGN CHOICE) -/
def takeable (s : State) (t n : Nat) : Bool :=
  let sp := s.spool t n
  match mapFind sp.cells sp.pos with
  | none => false
  | some c =>
    let hdr := wordAt c 0
    s.active t && sp.cutting == none && announced s t n && cellsHeld sp.cells sp.pos (thresholdOf s t hdr) &&
      decide (inflightOf s t < s.fld Fd.TNT_BIND_QCMD t) && decide (inflightAll s < Config.maxInFlight) &&
      (!s.sqError t n ||
        (let d := seqSub (s.fld Fd.SPL_SQE_ERRSEQ (sqIdx t n)) sp.pos
         decide (hdrNcell hdr + 1 ≤ d) && decide (d < 32768)))

/-- The spools of a tenant whose next command can be taken. -/
def takeableSpools (s : State) (t : Nat) : List Nat := (List.range 4).filter fun n => takeable s t n

/-- The tenant whose turn is next: the first in rotation after the last one served that has a command that can be taken (R150). -/
def nextTenant (s : State) : Option Nat :=
  let ts := (s.spools.map fun e => e.1 / 4).eraseDups.filter fun t => (takeableSpools s t).length > 0
  ts.foldl (fun best t => match best with
    | none => some t
    | some b => if (t + 1023 - s.rotor) % 1024 < (b + 1023 - s.rotor) % 1024 then some t else some b) none

/-- The spool a tenant's turn takes: one passed over in 31 consecutive turns, else the lowest-numbered (R150). -/
def turnSpool (s : State) (t : Nat) : Option Nat :=
  let ns := takeableSpools s t
  match ns.find? fun n => 31 ≤ (s.spool t n).passed with
  | some n => some n
  | none => ns.head?

/-- The turns of a tenant in which each spool was passed over (R150). -/
def State.countPassed (s : State) (t taken : Nat) : State :=
  (List.range 4).foldl (fun s n =>
    let sp := s.spool t n
    s.setSpool t n { sp with passed := if n ≠ taken && (takeable s t n) then sp.passed + 1 else 0 }) s

/-- The spool-level result of a command, the first that applies in the order of R746, given its first cell and the bytes of all its cells. (log entry 81, DEDUCED) -/
def spoolResult (s : State) (t : Nat) (first : List Word) (bytes : List Byte) : Option (Nat × Nat) :=
  let hdr := wordAt first 0
  if s.flag Fd.SPL_CFG_CRCREQ t && !hdrCrcEn hdr then some (Cc.crcMismatch, 0x0002)
  else if hdrCrcEn hdr && crc32c (bytes.take 4 ++ [0, 0, 0, 0] ++ bytes.drop 8) != hdrCrc hdr then
    some (Cc.crcMismatch, 0x0001)
  else if cqGrant s t (hdrCq hdr) = 0 then some (Cc.formatUnsupported, 0x0012)
  else if opThreshold (hdrOpcode hdr) = none then some (Cc.formatUnsupported, 0x0010)
  else if !ncellOk s t (hdrOpcode hdr) first (hdrNcell hdr) then some (Cc.formatUnsupported, 0x0011)
  else none

/-- Take the next command of a spool (R149): it joins the commands in flight, with the result of R746, R72, R77 or R83 where one applies. -/
def State.take (s : State) (t n : Nat) : State :=
  let sp := s.spool t n
  let first := (mapFind sp.cells sp.pos).getD []
  let hdr := wordAt first 0
  let k := hdrNcell hdr + 1
  let whole := cellsHeld sp.cells sp.pos k
  let words := cellWords sp.cells sp.pos k
  let res := spoolResult s t first (bytesOf words)
  let res := if res = none ∧ partFailed s ∧ hdrOpcode hdr ≠ Oc.nop then some (Cc.internal, 0x0161) else res
  let busy := res == none && panelBusy s t (hdrOpcode hdr)
  let c : Cmd :=
    { uid := s.nextUid, tenant := t, sq := n, cq := cqFor s t hdr, opcode := hdrOpcode hdr, ncell := hdrNcell hdr,
      tag := hdrTag hdr, seq := sp.pos, words, full := whole,
      early := if busy then some (Cc.panelBusy, 0) else res, cancel := none, since := s.dtime, npins := [], fpins := [],
      curDone := [], work := .ready }
  let s := { s.wake with nextUid := s.nextUid + 1, inflight := s.inflight ++ [c] }
  if whole then (s.freeCommand t n k).finishEarly c
  else s.setSpool t n { sp with cutting := some c.uid }

/-- R149, R150: the decoders take one command, of the tenant and the spool whose turn it is. -/
def opCommandDecode (s : State) : State :=
  match nextTenant s with
  | none => s
  | some t => match turnSpool s t with
    | none => s
    | some n => ({ s.countPassed t n with rotor := t }).take t n
/-- R149. -/
def execCommandDecode (s : State) : Res := .next (opCommandDecode s)

/-- The held command whose first cell is q ends CANCELLED: its cells before ERRSEQ of a spool in ERROR, or all of them, are freed (R136, R164), and its place is
remembered until the decode position has passed it. (log entry 36, DEDUCED) -/
def State.dropCommand (s : State) (t n q : Nat) (hdr : Word) : State :=
  let sp := s.spool t n
  let mine := (List.range (hdrNcell hdr + 1)).countP fun i => !pastError s t n (q + i)
  let here := (List.range mine).countP fun i => (mapFind sp.cells ((q + i) % seqMod)).isSome
  let s := match (if q = sp.pos then sp.cutting.bind s.cmd else none) with
    | some c => s.cancelCut c 0x0003
    | none => s.cancelHeld t n q hdr 0x0003
  let sp' : Spool := { sp with cells := dropCells sp.cells q mine, dropped := mapIns q (hdrNcell hdr + 1) sp.dropped, cutting := if q = sp.pos then none else sp.cutting }
  let s := s.setSpool t n (sp'.skip sp'.dropped.length)
  s.setFld Fd.SPL_SQS_FREED ((s.sqFreed t n + here) % seqMod) (sqIdx t n)

/-- R151: 100 µs have passed since the first cell of a held command, that of sequence number q, arrived, and a cell of it has not. (log entry 36, DEDUCED) -/
def opCommandCellsMissing (t n q : Nat) (s : State) : State :=
  let sp := s.spool t n
  match sp.commands.find? fun e => e.1 == q with
  | none => s
  | some (_, hdr) =>
    if !s.active t || cellsHeld sp.cells q (hdrNcell hdr + 1) || pastError s t n q then s
    else ((s.dropCommand t n q hdr).spoolError t n errMissing q (hdrTag hdr)).addFld Fd.SPL_ERRCNT_MISSCNT 1
/-- R151. -/
def execCommandCellsMissing (tenant : TenantId) (sq : Fin 4) (seq : Fin 65536) (s : State) : Res :=
  .next (opCommandCellsMissing tenant.val sq.val seq.val s)

/-- R151: 100 µs have passed since the doorbell that first announced the command at the decode position, and its first
cell has not arrived. (log entry 36, DEDUCED) -/
def opAnnouncedCellMissing (t n : Nat) (s : State) : State :=
  let sp := s.spool t n
  if !s.active t || !announced s t n || (mapFind sp.cells sp.pos).isSome || pastError s t n sp.pos then s
  else s.spoolError t n errMissing sp.pos 0
/-- R151. -/
def execAnnouncedCellMissing (tenant : TenantId) (sq : Fin 4) (s : State) : Res :=
  .next (opAnnouncedCellMissing tenant.val sq.val s)

/-- R147: NOP has no effect and completes OK. -/
def opNop (uid : Nat) (s : State) : State :=
  match s.cmd uid with
  | some c => if c.opcode = Oc.nop ∧ c.full then s.finish c Cc.ok 0 0 else s
  | none => s
/-- R147. -/
def execNop (uid : Nat) (s : State) : Res := .next (opNop uid s)

/-! ### Completion spools -/

/-- R158: the entry of the command that completed first is written, if the completion spool has room; it carries the FREED count and the time of this
moment (R154, R156). -/
def opCompletionEntryWrite (t m : Nat) (s : State) : State :=
  let c := s.comp t m
  match c.waiting with
  | [] => s
  | d :: rest =>
    if c.unread.length < 2 * cqGrant s t m then
      s.setComp t m { c with waiting := rest, unread := c.unread ++ [entryWords d (s.sqFreed t d.sq) s.dtime] }
    else s
/-- R158. -/
def execCompletionEntryWrite (tenant : TenantId) (cq : Fin 2) (s : State) : Res :=
  .next (opCompletionEntryWrite tenant.val cq.val s)

/-- A consuming read takes the `k` oldest valid entries into the replay area, newest first (R159, R160). -/
def State.consume (s : State) (t m k : Nat) : State :=
  let c := s.comp t m
  let gone := c.unread.take k
  let s := s.setComp t m { c with unread := c.unread.drop k, replay := (gone.reverse ++ c.replay).take 16 }
  s.incFld Fd.SPL_CQS_CONSUMED gone.length (cqIdx t m)

/-- Whether a size is a power of two up to 64 and divides the offset. -/
def alignedSize (off size : Nat) : Bool :=
  (size == 1 || size == 2 || size == 4 || size == 8 || size == 16 || size == 32 || size == 64) && off % size == 0

/-- The data of a head read at byte `o` of the 64-byte head, and how many entries it consumes (R159). A read of any other size or offset returns all ones on an empty
spool too, where R159 also says that an empty spool returns zero in every byte read. (log entry 106, DESIGN CHOICE) -/
def headData (c : CompSpool) (o size : Nat) : List Byte × Nat :=
  let img := bytesOf (c.unread.getD 0 [0, 0, 0, 0]) ++ bytesOf (c.unread.getD 1 [0, 0, 0, 0])
  if o = 0 ∧ size = 32 then (img.take 32, min 1 c.unread.length)
  else if o = 0 ∧ size = 64 then (img, min 2 c.unread.length)
  else if (size = 8 ∨ size = 16) ∧ o % size = 0 ∧ o + size ≤ 32 then (sliceAt img o size, 0)
  else (allOnes size, 0)

/-- A spool's status as SPL_SQS shows it: HELD counts the cells held (R173). -/
def sqsWord (s : State) (t n : Nat) : Word := setBits (s.reg .SPL_SQS (sqIdx t n)) 11 0 (s.spool t n).cells.length

/-- A completion spool's status as SPL_CQS shows it (R175). -/
def cqsWord (s : State) (t m : Nat) : Word :=
  packWord [(32, (s.comp t m).waiting.length), (16, s.fld Fd.SPL_CQS_CONSUMED (cqIdx t m)), (0, (s.comp t m).unread.length)]

/-- The status copies of a tenant window, from 0x5100 (R132). -/
def statusBytes (s : State) (t : Nat) : List Byte :=
  bytesOf (((List.range 4).flatMap fun n => [sqsWord s t n, s.reg .SPL_SQE (sqIdx t n)]) ++ (List.range 2).map fun m => cqsWord s t m)

/-- R159, R160: a host reads its window outside the probe window. -/
def opCompletionHeadRead (h t off size : Nat) (s : State) : State :=
  let kind := if (0x4000 ≤ off ∧ off < 0x4080) ∨ (0x4800 ≤ off ∧ off < 0x4C00) then AccKind.headRead else .other
  match hrtLookup s h true (winAddr t off) false kind with
  | none => s.denyBar2 h (winAddr t off) size false
  | some _ =>
    if !mediaReady s then s.emit (.readData h (allOnes size) false)
    else if off < 0x4000 then s.emit (.readData h (List.replicate size 0) false)
    else if off < 0x4080 then
      let m := (off - 0x4000) / 64
      let (data, k) := headData (s.comp t m) (off % 64) size
      (s.consume t m k).emit (.readData h data false)
    else if 0x4800 ≤ off ∧ off < 0x4C00 then
      let m := (off - 0x4800) / 0x200
      let img := (s.comp t m).replay.flatMap bytesOf
      let data := if alignedSize off size then sliceAt img (off % 0x200) size else allOnes size
      s.emit (.readData h data false)
    else if 0x5000 ≤ off ∧ off < 0x5020 then s.emit (.readData h (List.replicate size 0) false)
    else if 0x5100 ≤ off ∧ off + size ≤ 0x5150 then s.emit (.readData h (sliceAt (statusBytes s t) (off - 0x5100) size) false)
    else (s.unallocated true false h size (winAddr t off)).emit (.readData h (allOnes size) false)
/-- R159. -/
def execCompletionHeadRead (host : HostId) (tenant : TenantId) (off : Fin 65536) (size : Nat) (s : State) : Res :=
  .next (opCompletionHeadRead host.val tenant.val off.val size s)

end Sys2Proof.Machine
end

