-- ==== Sys2Proof/Machine/Prefix.lean ====
section
/-!
DEFINITION. The Prefix store's commands: LOOKUP, EXTEND, COMMIT, FORK, RELEASE, PIN, UNPIN and the node query (R178 to R229, R745).
-/
namespace Sys2Proof.Machine

/-! ### When a command's row can act -/

/-- The sequences that a command names, by opcode (R183); none: they are not known yet, for an ATTEND_BATCH whose descriptors have not been read (R370), so that it may
name any sequence of its tenant. (log entry 39, DEDUCED) -/
def seqsNamed (c : Cmd) : Option (List Nat) :=
  let w := wordAt c.words 1
  if c.opcode = Oc.extend then some (if bitsOf w 22 22 = 1 then [] else [bitsOf w 21 0])
  else if c.opcode = Oc.append ∨ c.opcode = Oc.commit ∨ c.opcode = Oc.fork ∨ c.opcode = Oc.release ∨ c.opcode = Oc.attend ∨
      c.opcode = Oc.verify then some [bitsOf w 21 0]
  else if c.opcode = Oc.pin ∨ c.opcode = Oc.unpin then some (if bitsOf w 24 24 = 1 then [bitsOf w 21 0] else [])
  else if c.opcode = Oc.ringAttend then some [fieldOf c.words 4 21 0]
  else if c.opcode = Oc.deliver then some (if bitsOf w 14 14 = 1 then [fieldOf c.words 5 21 0] else [])
  else if c.opcode = Oc.attendBatch then
    if c.full ∧ bitsOf w 18 17 = 0 then some ((List.range (bitsOf w 9 0)).map fun i => fieldOf c.words (16 + 2 * i) 21 0) else none
  else some []

/-- Whether two commands name a sequence in common, as far as they are known. -/
def seqsMeet (a b : Option (List Nat)) : Bool :=
  match a, b with
  | none, none => true
  | none, some l => !l.isEmpty
  | some l, none => !l.isEmpty
  | some l, some m => l.any m.contains

/-- Commands whose effect on a sequence later ones wait for (R183). (log entry 39, DEDUCED) -/
def changesSeq (op : Nat) : Bool :=
  op == Oc.extend || op == Oc.append || op == Oc.commit || op == Oc.fork || op == Oc.release

/-- A command whose own row has not begun it. -/
def notBegun (c : Cmd) : Bool := match c.work with | .ready => true | _ => false

/-- Whether a command taken earlier holds up this one, which names a sequence that it names (R183): it has not taken effect yet, or it still changes the sequence. A command
that completes at decode has no effect (R746). (log entry 39, DEDUCED) -/
def seqBusy (s : State) (c : Cmd) : Bool :=
  s.inflight.any fun x =>
    decide (x.uid < c.uid) && x.early.isNone && (notBegun x || changesSeq x.opcode) && x.tenant == c.tenant && seqsMeet (seqsNamed x) (seqsNamed c)

/-- Where a stewards' liveness stands. -/
def State.steward (s : State) (st : Nat) : Steward := (mapFind s.stewards st).getD { missed := 0, down := false, resets := [] }

/-- Whether the steward that owns a handle is down (R36, R39): a chunk's or a sequence's, by its low three bits. -/
def ownerDown (s : State) (h : Nat) : Bool := (s.steward (h % 8)).down

/-- The chain of a sequence, empty where there is none. -/
def chainOf (s : State) (q : Nat) : List Nat := ((s.seqOf q).map fun x => x.chain).getD []

/-- The list of chunks of a DELIVER with BYSEQ = 0 as far as its cells have come (R264). -/
def listedChunks (c : Cmd) (n : Nat) : List Nat :=
  ((List.range n).filter fun i => decide (8 * (1 + i / 16) + 8 ≤ c.words.length)).map fun i => ofLE (sliceAt (inlineBytes c 1) (4 * i) 4) % 2 ^ 24

/-- The sequence and chunk handles that a command which waits on stewards allocates in, frees, moves or relinks, its first handle first (R36, R37): the tail and its parent for
EXTEND, APPEND and COMMIT, the whole chain for FORK and RELEASE, the chunks acted on for PIN, UNPIN and DELIVER; none for a command that never waits on one. The handles
that a command allocates come in as it allocates them. -/
def handlesOf (s : State) (c : Cmd) : List Nat :=
  let w := wordAt c.words 1
  let qs := (seqsNamed c).getD []
  let chains := qs.flatMap (chainOf s)
  if c.opcode = Oc.extend ∨ c.opcode = Oc.append ∨ c.opcode = Oc.commit then qs ++ lastN 2 chains
  else if c.opcode = Oc.fork ∨ c.opcode = Oc.release then qs ++ chains
  else if c.opcode = Oc.pin ∨ c.opcode = Oc.unpin then (if bitsOf w 24 24 = 1 then qs ++ chains else [bitsOf w 23 0])
  else if c.opcode = Oc.deliver then
    if bitsOf w 14 14 = 1 then qs ++ (chains.drop (fieldOf c.words 5 35 22 - 1)).take (bitsOf w 13 0) else listedChunks c (bitsOf w 13 0)
  else []

/-- Whether a command waits for a steward that is down: the owner of one of its handles, which carries it out or takes part in it (R36, R39). (log entry 20, DEDUCED) -/
def stewardDown (s : State) (c : Cmd) : Bool := (handlesOf s c).any (ownerDown s)

/-- The command a row acts on: in flight, of the row's opcode, with all its cells, with its turn on its sequences come and its stewards serving. (log entries 20 and 39, DEDUCED) -/
def State.ready (s : State) (uid op : Nat) : Option Cmd :=
  (s.cmd uid).filter fun c => c.opcode == op && c.full && c.early == none && !seqBusy s c && !stewardDown s c

/-- Cells held one after another from a position, `fuel` at most. -/
def cellsRun (cells : NMap (List Word)) (pos : Nat) : Nat → Nat
  | 0 => 0
  | fuel + 1 => if (mapFind cells (pos % seqMod)).isSome then cellsRun cells (pos + 1) fuel + 1 else 0

/-- A command with the words of as many of its cells as have arrived (R145, R151). -/
def State.withCells (s : State) (c : Cmd) : Cmd :=
  if c.full then c
  else
    let sp := s.spool c.tenant c.sq
    { c with words := cellWords sp.cells sp.pos (cellsRun sp.cells sp.pos (c.ncell + 1)) }

/-- The command a row acts on before its last cell has come (R145): as `State.ready`, with the `k` first cells. -/
def State.readyCut (s : State) (uid op k : Nat) : Option Cmd :=
  ((s.cmd uid).map s.withCells).filter fun c =>
    c.opcode == op && c.early == none && decide (8 * k ≤ c.words.length) && !seqBusy s c && !stewardDown s c

/-- While a load holds the live state fixed, a command that would create the first chunk of a profile waits (R76). -/
def firstChunkWaits (s : State) (prof : Nat) : Bool := loadHolds s && !s.chunks.any fun e => e.2.prof == prof

/-- The host a tenant is bound to (R101). -/
def State.hostOf (s : State) (t : Nat) : Nat := s.fld Fd.TNT_BIND_HOST t

/-! ### Token sources (R198) -/

/-- What a token source gives. -/
inductive TokRes where
  | wait | err (code detail : Nat) | toks (ts : List Token)
  deriving DecidableEq, Repr

/-- Bytes as token IDs, four to each. -/
def tokensOf (bs : List Byte) : List Token :=
  (List.range (bs.length / 4)).map fun i => BitVec.ofNat 32 (ofLE (sliceAt bs (4 * i) 4))

/-- R198: the checks of a token source that come before everything else. -/
def tokenFormat (tsrc : Nat) (taddr : Word) : Bool := tsrc == 0 || (tsrc != 3 && taddr.toNat % 4 == 0)

/-- R198: read `ntok` token IDs. -/
def tokenSource (s : State) (c : Cmd) (ntok tsrc : Nat) (taddr : Word) (hm : HostMem) : State × TokRes :=
  let a := taddr.toNat
  if tsrc = 0 then (s, .toks (tokensOf ((inlineBytes c 1).take (4 * ntok))))
  else if tsrc = 1 then
    match hostRead hm a (4 * ntok) with
    | some bs => (s, .toks (tokensOf bs))
    | none => (s, .err Cc.poisoned 0x0106)
  else
    match s.coherent c [(a, 4 * ntok)] [] with
    | (s, false) => (s, .wait)
    | (s, true) => match plainRead s (s.hostOf c.tenant) a (4 * ntok) with
      | .denied x => (s.deny (s.hostOf c.tenant) false x, .err Cc.noRights 0x0107)
      | .unbacked => (s.countUnbacked, .err Cc.poisoned 0x0106)
      | .poison => (s, .err Cc.poisoned 0x0106)
      | .data bs => (s, .toks (tokensOf bs))

/-! ### The walk (R186 to R197) -/

/-- R186: a node matches a span of tokens. -/
def nodeMatches (s : State) (t : Nat) (toks : List Token) (rev : Nat) (c : Chunk) : Bool :=
  let mask := s.fld Fd.CAM_REVMASK_REVMASK
  c.spanlen == toks.length && c.prof == s.profileOf t && c.tokens == toks &&
    (c.rev ||| mask) == (rev ||| mask) && !c.poisoned

/-- The hash key of a namespace (R184). -/
def State.nsKey (s : State) (ns : Nat) : Wide := (mapFind s.nsKeys ns).getD 0

/-- The nodes of a namespace under a key that a search examines, in handle order (R187, R191). -/
def keyed (s : State) (ns : Nat) (k : Word) : List (Nat × Chunk) :=
  s.chunks.filter fun e => e.2.linked && e.2.indexed && e.2.ns == some ns && e.2.key == k

/-- Where a walk stands: the nodes matched (last first), the last key and namespace, the tokens covered, the counts, the cascade answers left and
what the walk ended with. (log entry 41, DEDUCED) -/
structure Walk where
  chain : List Nat
  pk : Word
  /-- The span key of the last node's parent (R197). -/
  gk : Word
  /-- The nodes compared, which the command holds read pins on (R217). -/
  seen : List Nat
  pns : Option Nat
  pos : Nat
  vfail : Nat
  searches : Nat
  hits : Nat
  localOnly : Nat
  answers : List CascAnswer
  remote : Option (Nat × Nat)
  asks : Option (List Word)
  deriving DecidableEq, Repr

/-- R192, R197: the search word of a key; in a WIDE pair also its parent's and its grandparent's span keys, zero for an absent one. (log entry 42, DEDUCED) -/
def camWord (wide : Bool) (k pk gk : Word) (ns prof rev depth : Nat) : List Word :=
  [k, packWord [(0, ns), (11, prof), (19, rev), (35, depth - 1)]] ++ (if wide then [pk, gk] else [])

/-- The span keys of a node's parent and grandparent, zero for an absent one: the upper half of its entry in a WIDE pair (R197). -/
def ancestorKeys (s : State) (c : Chunk) : Word × Word :=
  let p := c.parent.bind s.chunk
  let g := (p.bind fun x => x.parent).bind s.chunk
  ((p.map fun x => x.key).getD 0, (g.map fun x => x.key).getD 0)

/-- What one `first_match` of the walk finds. -/
inductive Found where
  | none | here (h : Nat) | away (pos h : Nat) | ask (w : List Word)
  deriving DecidableEq, Repr

/-- A search that the cascade is for: in the share group that CAM_CFG.RINGGRP names, whose hash key GROUP_HKEY has set (R196, R660). (log entry 59, DEDUCED) -/
def cascadeGroup (s : State) (ns : Nat) : Bool :=
  s.flag Fd.CAM_CFG_CASC && ns == 1024 + s.fld Fd.CAM_CFG_RINGGRP && s.flag Fd.SEC_GSTAT_HSET (s.fld Fd.CAM_CFG_RINGGRP)

/-- Whether a search in this namespace goes to the cascade (R196, R424). (log entry 59, DEDUCED) -/
def cascades (s : State) (ns : Nat) : Bool := cascadeGroup s ns && s.flag Fd.SNL_CASC_CASCOK

/-- A search that the cascade would take but cannot (R424). (log entry 59, DEDUCED) -/
def cascadeLost (s : State) (ns : Nat) : Bool := cascadeGroup s ns && !s.flag Fd.SNL_CASC_CASCOK

/-- `first_match` in one namespace: the answer of the first member in cascade order where one is taken, then the matching node of the lowest handle (R187, R189, R196). Every
node of the key that does not match counts as a failure (R186). (log entry 41, DEDUCED) -/
def firstMatch (s : State) (t rev ns : Nat) (toks : List Token) (w : Walk) : Walk × Found :=
  let k := spanKey (s.nsKey ns) w.pk (s.profileOf t) toks
  let depth := w.chain.length + 1
  let all := keyed s ns k
  let good := all.find? fun e => nodeMatches s t toks rev e.2
  let wide := s.flag Fd.CAM_CFG_WIDE
  let inCam := s.flag Fd.PFX_CFG_CAMEN && decide (depth ≤ 8)
  let camHit := match good with
    | some e => inCam && e.2.hotroot && (!wide || ancestorKeys s e.2 == (w.pk, w.gk))
    | none => false
  let w := { w with
    searches := w.searches + b2n inCam, hits := w.hits + b2n camHit, localOnly := w.localOnly + b2n (inCam && cascadeLost s ns)
    seen := w.seen ++ all.map fun e => e.1 }
  let here (w : Walk) : Walk × Found :=
    ({ w with vfail := w.vfail + all.countP fun e => !nodeMatches s t toks rev e.2 }, match good with | some e => .here e.1 | none => .none)
  if inCam && cascades s ns then
    match w.answers with
    | [] => (w, .ask (camWord wide k w.pk w.gk ns (s.profileOf t) rev depth))
    | .miss :: rest => here { w with answers := rest }
    | .hit p h :: rest => ({ w with answers := rest, hits := w.hits + b2n (!camHit) }, .away p h)
  else here w

/-- One length tried in the namespaces of the order. -/
def tryOrder (s : State) (t rev : Nat) (toks : List Token) : List Nat → Walk → Walk × Found × Nat
  | [], w => (w, .none, 0)
  | ns :: rest, w => match firstMatch s t rev ns toks w with
    | (w, .none) => tryOrder s t rev toks rest w
    | (w, f) => (w, f, ns)

/-- The lengths tried in turn. -/
def tryLens (s : State) (t rev : Nat) (order : List Nat) (toks : List Token) : List Nat → Walk → Walk × Found × Nat × Nat
  | [], w => (w, .none, 0, 0)
  | n :: rest, w => match tryOrder s t rev (toks.take n) order w with
    | (w, .none, _) => tryLens s t rev order toks rest w
    | (w, f, ns) => (w, f, ns, n)

/-- Insert into a descending list without repeats. -/
def insDesc (n : Nat) : List Nat → List Nat
  | [] => [n]
  | m :: ms => if m < n then n :: m :: ms else if m = n then m :: ms else m :: insDesc n ms

/-- R190: the short lengths tried below a chain. -/
def shortlens (s : State) (chain : List Nat) (rem span : Nat) : List Nat :=
  let sl := match chain.head?.bind s.chunk with
    | some c => c.sl.filter fun n => n ≠ 0 ∧ n ≤ rem
    | none => []
  let base := if rem < span then [rem] else []
  sl.foldl (fun l n => insDesc n l) base

/-- R187: the walk; `toks` are the tokens not yet covered. -/
def walkOn (s : State) (t rev span : Nat) : Nat → List Token → Walk → Walk
  | 0, _, w => w
  | fuel + 1, toks, w =>
    let rem := toks.length
    if rem = 0 then w
    else
      let lens := (if span ≤ rem then [span] else []) ++ shortlens s w.chain rem span
      match tryLens s t rev (nsOrder s t w.pns) toks lens w with
      | (w, .none, _, _) => w
      | (w, .ask a, _, _) => { w with asks := some a }
      | (w, .away p h, _, n) => { w with remote := some (p, h), pos := w.pos + n }
      | (w, .here h, ns, n) =>
        let w' := { w with chain := h :: w.chain, pk := spanKey (s.nsKey ns) w.pk (s.profileOf t) (toks.take n), gk := w.pk, pns := some ns, pos := w.pos + n }
        if n < span then w' else walkOn s t rev span fuel (toks.drop n) w'

/-- The whole walk over a prompt (R187). -/
def walk (s : State) (t rev : Nat) (toks : List Token) (answers : List CascAnswer) : Walk :=
  walkOn s t rev (s.geo (s.profileOf t)).span 8192 toks
    { chain := [], pk := 0, gk := 0, seen := [], pns := none, pos := 0, vfail := 0, searches := 0, hits := 0, localOnly := 0, answers, remote := none, asks := none }

/-! ### LOOKUP (R199 to R201) -/

/-- Whether a chunk is hollow. -/
def isHollow (s : State) (h : Nat) : Bool := ((s.chunk h).map fun c => c.hollow).getD false

/-- RESULT0 of a LOOKUP (R201). -/
def lookupR0 (s : State) (t : Nat) (chain : List Nat) (hollow : Nat) (remote : Option (Nat × Nat)) : Word :=
  let deep := match remote with | some (_, h) => h | none => chain.getLastD 0
  let ns := match remote, chain.getLast?.bind s.chunk with
    | some _, _ => nsReport s t (1024 + s.fld Fd.CAM_CFG_RINGGRP)
    | none, some c => nsReport s t (c.ns.getD t)
    | none, none => 0
  packWord [(56, match remote with | some (p, _) => p | none => 0), (55, b2n remote.isSome), (52, ns), (38, hollow),
    (24, chain.length + b2n remote.isSome), (0, deep)]

/-- What a walk has searched and compared is counted, whatever its LOOKUP ends with (R224, R228). (log entry 41, DEDUCED) -/
def State.countWalk (s : State) (w : Walk) : State :=
  let s := s.addFld Fd.PFX_CNT1_VFAIL w.vfail
  let s := s.addFld Fd.CAM_CNT_SEARCHES w.searches
  let s := s.addFld Fd.CAM_CNT_HITS w.hits
  s.addFld Fd.SNL_CASC_LOCALONLY w.localOnly

/-- The nodes that a LOOKUP returns are counted (R180, R195, R224). (log entry 41, DEDUCED) -/
def State.countLookup (s : State) (w : Walk) : State :=
  let s := s.addFld Fd.PFX_CNT0_NODEHITS (w.chain.length + b2n w.remote.isSome)
  w.chain.foldl (fun s h => (s.updChunk h fun c => { c with acc := satAdd 8 c.acc 1 }).enterCam h) s

/-- A LOOKUP completes without nodes; it is counted as every completed LOOKUP is (R224). -/
def State.failLookup (s : State) (c : Cmd) (code d : Nat) : State := (s.countEnd Oc.lookup code).fail c code d

/-- A LOOKUP whose walk has ended (R200, R201); the sequence it attaches is allocated by a steward that serves (R37, R39). -/
def State.endLookup (s : State) (c : Cmd) (w : Walk) (attach : Bool) (pick : Nat) : State :=
  let chain := w.chain.reverse
  let upto := chain.takeWhile fun h => !isHollow s h
  let hollow := if upto.length = chain.length then 0 else upto.length + 1
  let r0 := lookupR0 s c.tenant chain hollow w.remote
  let code := if hollow ≠ 0 then Cc.recompute else Cc.ok
  if attach ∧ upto ≠ [] ∧ w.remote = none then
    match freeHandle s.seqs seqHandles pick with
    | none => (s.countWalk w).failLookup c Cc.noSpace 0x010B
    | some q =>
      if (q :: upto).any (ownerDown s) then s
      else
        ((((s.countEnd Oc.lookup code).countWalk w).countLookup w).setSeq q { tenant := c.tenant, chain := upto }).finish c code r0
          (packWord [(24, w.pos), (22, 1), (0, q)])
  else (((s.countEnd Oc.lookup code).countWalk w).countLookup w).finish c code r0 (packWord [(24, w.pos)])

/-- A search word is broadcast to the ring members (R421), unless the command's search is already under way. -/
def State.camBroadcast (s : State) (uid : Nat) (word : List Word) : State :=
  let pos := s.fld Fd.SNL_CFG_POS
  if s.camReqs.any fun r => r.uid == uid && r.src == pos then s
  else
    let s : State := { s with camReqs := s.camReqs ++ [{ src := pos, cpos := s.fld Fd.CAM_CFG_POS, uid, word, sentAt := s.dtime, done := false }] }
    s.ringPut 0 (.camSearch pos (s.fld Fd.CAM_CFG_POS) uid word)

/-- R200: LOOKUP. -/
def opLookup (uid : Nat) (hm : HostMem) (pick : Nat) (s : State) : State :=
  match s.ready uid Oc.lookup with
  | none => s
  | some c =>
    let w1 := wordAt c.words 1
    let ntok := bitsOf w1 19 0
    let tsrc := bitsOf w1 21 20
    if !tokenFormat tsrc (wordAt c.words 2) ∨ ntok = 0 then s.failLookup c Cc.formatUnsupported 0x0109
    else match tokenSource s c ntok tsrc (wordAt c.words 2) hm with
      | (s, .wait) => s
      | (s, .err code d) => s.failLookup c code d
      | (s, .toks ts) =>
        let answers := match c.work with | .lookup a => a | _ => []
        let w := walk s c.tenant (bitsOf w1 39 24) ts answers
        match w.asks with
        | some a => (s.setCmd { c with npins := w.seen, work := .lookup answers }).camBroadcast uid a
        | none => s.endLookup c w (bitsOf w1 22 22 == 1) pick
/-- R200. -/
def execLookup (uid : Nat) (hostMem : HostMem) (pick : Nat) (s : State) : Res := .next (opLookup uid hostMem pick s)

/-! ### EXTEND (R202, R203) and FORK (R208, R209) -/

/-- The pages of a new basted chunk that shares those of a committed or basted chunk (R745, R261). -/
def sharePages (c : Chunk) : List Page := c.pages.map fun p =>
  if p.st = .raw ∨ p.st = .dirty ∨ p.st = .clean then { Page.empty .raw with frame := p.frame, recov := p.recov, mask := p.mask }
  else if p.st = .none then Page.empty .none
  else Page.empty .poisoned

/-- A new basted chunk. -/
def newBasted (t prof depth : Nat) (parent : Option Nat) (fill : Nat) (pages : List Page) : Chunk :=
  { committed := false, tenant := t, charge := t, prof, depth, parent, spanlen := 0, fill, rev := 0, key := 0, ns := none, linked := false,
    indexed := false, bucket := none, hotroot := false, acc := 0, sl := [0, 0, 0, 0], tokens := [], tokPoison := false, tokSerial := 0,
    isVolatile := false, hollow := false, hollowAt := 0, pages }

/-- Record the geometry of a profile at its first chunk (R59). -/
def State.recordGeo (s : State) (prof : Nat) : State :=
  match mapFind s.geom prof with
  | some _ => s
  | none => { s with geom := mapIns prof (s.profWord prof) s.geom }

/-- Pages of a chunk that nothing has been written to. -/
def emptyPages (s : State) (prof : Nat) : List Page := List.replicate (s.geo prof).layers (Page.empty .none)

/-- What a command that shares a chunk's pages does first: promote its FLASH and STAGING pages (R745). None: it may go on. -/
def State.promoteFor (s : State) (c : Cmd) (h : Nat) : Option State :=
  if !promoting s h then none
  else if promoteRoom s [h] = .quota then some (s.fail c Cc.quota 0)
  else some ((s.demandAt h c.since).setCmd { c with npins := [h], work := .promote [h] })

/-- Allocate a chunk, and a sequence where one is asked for: the chunk quota first, then the handles (R112, R203, R209). -/
def allocate (s : State) (t : Nat) (chunk seq : Bool) (chunkPick seqPick : Nat) : Except (Nat × Nat) (Nat × Nat) :=
  if chunk && !chunkRoom s t then .error (Cc.quota, 0)
  else match (if chunk then freeHandle s.chunks chunkHandles chunkPick else some 0),
      (if seq then freeHandle s.seqs seqHandles seqPick else some 0) with
    | none, _ => .error (Cc.noSpace, 0x010A)
    | some _, none => .error (Cc.noSpace, 0x010B)
    | some h, some q => .ok (h, q)

/-- EXTEND's new basted chunk: in a new sequence, below the tail, or in place of a short tail. -/
def State.extendWith (s : State) (c : Cmd) (q? : Option (Nat × Seq)) (depth : Nat) (parent : Option Nat) (cont : Option Chunk)
    (seqPick chunkPick : Nat) : State :=
  let t := c.tenant
  let prof := s.profileOf t
  if firstChunkWaits s prof then s
  else match allocate s t true q?.isNone chunkPick seqPick with
    | .error e => s.fail c e.1 e.2
    | .ok (h, qn) =>
      if ownerDown s h || (q?.isNone && ownerDown s qn) then s else
      let s := s.recordGeo prof
      let fill := (cont.map fun k => k.spanlen).getD 0
      let pages := match cont with | some k => sharePages k | none => emptyPages s prof
      let s := s.setChunk h (newBasted t prof depth parent fill pages)
      let q := (q?.map fun e => e.1).getD qn
      let chain := match q?, cont with
        | some e, some _ => e.2.chain.dropLast ++ [h]
        | some e, none => e.2.chain ++ [h]
        | none, _ => [h]
      let s := s.setSeq q { tenant := t, chain }
      (s.finish c Cc.ok (packWord [(46, b2n cont.isSome), (24, q), (0, h)]) (packWord [(14, fill), (0, depth)])).reclaim

/-- R203: EXTEND. -/
def opExtend (uid seqPick chunkPick : Nat) (s : State) : State :=
  match s.ready uid Oc.extend with
  | none => s
  | some c =>
    let w := wordAt c.words 1
    if bitsOf w 22 22 = 1 then s.extendWith c none 1 none none seqPick chunkPick
    else match s.ownSeq c.tenant (bitsOf w 21 0) with
      | none => s.fail c Cc.invalidHandle 0
      | some sq =>
        let q := (bitsOf w 21 0, sq)
        match sq.chain.getLast?.bind s.chunk with
        | none => s.fail c Cc.invalidHandle 0
        | some tail =>
          let th := sq.chain.getLastD 0
          if !tail.committed then s.fail c Cc.noRights 0x0102
          else if s.isShort tail then
            match s.promoteFor c th with
            | some s' => s'
            | none => s.extendWith c (some q) tail.depth tail.parent (some tail) seqPick chunkPick
          else if 8192 ≤ sq.chain.length then s.fail c Cc.noSpace 0x010C
          else s.extendWith c (some q) (tail.depth + 1) (some th) none seqPick chunkPick
/-- R203. -/
def execExtend (uid seqPick chunkPick : Nat) (s : State) : Res := .next (opExtend uid seqPick chunkPick s)

/-- The tokens a chunk covers in its sequence: its length, or the whole span for a basted tail, whose positions are not tracked (R204, R209). -/
def extentOf (s : State) (c : Chunk) : Nat := if c.committed then c.spanlen else s.spanOf c

/-- FORK's cut at POS: the chunks kept, and the chunk that a new basted one shares, with POS counted from its first position (R209). -/
def forkCut (s : State) : List Nat → Nat → List Nat × Option (Nat × Chunk × Nat)
  | [], _ => ([], none)
  | h :: rest, pos => match s.chunk h with
    | none => ([], none)
    | some c =>
      if pos = 0 then ([], none)
      else if c.committed ∧ c.spanlen ≤ pos then
        let r := forkCut s rest (pos - c.spanlen)
        (h :: r.1, r.2)
      else ([], some (h, c, pos))

/-- R209: FORK. -/
def opFork (uid seqPick chunkPick : Nat) (s : State) : State :=
  match s.ready uid Oc.fork with
  | none => s
  | some c =>
    let w := wordAt c.words 1
    let pos := bitsOf w 44 22
    match s.ownSeq c.tenant (bitsOf w 21 0) with
    | none => s.fail c Cc.invalidHandle 0
    | some sq =>
      let len := (sq.chain.map fun h => ((s.chunk h).map (extentOf s)).getD 0).sum
      if pos = 0 ∨ len < pos then s.fail c Cc.formatUnsupported 0x0109
      else
        let (keep, cut) := forkCut s sq.chain pos
        match cut.bind fun e => s.promoteFor c e.1 with
        | some s' => s'
        | none => match allocate s c.tenant cut.isSome true chunkPick seqPick with
          | .error e => s.fail c e.1 e.2
          | .ok (h, q) =>
            if (cut.isSome && ownerDown s h) || ownerDown s q then s else
            let s := match cut with
              | some (_, k, p) => s.setChunk h (newBasted c.tenant k.prof k.depth k.parent p (sharePages k))
              | none => s
            let chain := keep ++ (if cut.isSome then [h] else [])
            let depth := ((s.chunk (chain.getLastD 0)).map fun k => k.depth).getD 0
            ((s.setSeq q { tenant := c.tenant, chain }).finish c Cc.ok
              (packWord [(46, b2n cut.isSome), (22, chain.getLastD 0), (0, q)]) (packWord [(0, depth)])).reclaim
/-- R209. -/
def execFork (uid seqPick chunkPick : Nat) (s : State) : Res := .next (opFork uid seqPick chunkPick s)

/-! ### COMMIT (R204 to R207) -/

/-- Whether a namespace may hold a node below this parent (R185). -/
def parentOk (parent : Option Chunk) (ns : Nat) : Bool :=
  match parent with
  | none => true
  | some p => if ns < 1024 then p.ns == some ns || (match p.ns with | some k => decide (1024 ≤ k) | none => false) else p.ns == some ns

/-- The group of membership slot n, where COMMIT may link into it (R205). -/
def groupSlot (s : State) (t n : Nat) (parent : Option Chunk) : Option Nat :=
  let ns := 1024 + s.fld (grpNum n) t
  if s.flag (grpV n) t && s.flag (grpRw n) t && parentOk parent ns then some ns else none

/-- R205: the namespace of a COMMIT: none inside for an unlinked commit; an error where a group is not allowed. -/
def chooseNs (s : State) (t nsel : Nat) (unlinked : Bool) (parent : Option Chunk) : Option (Option Nat) :=
  if unlinked then some none
  else if nsel = 1 then some (some t)
  else if nsel = 0 then
    let slot := s.fld Fd.TNT_GRP_COMMITTO t
    if slot = 0 then some (some t)
    else some (some ((groupSlot s t (slot - 1) parent).getD t))
  else (groupSlot s t (nsel - 2) parent).map some

/-- R206: the node with the same parent, equal tokens and equal REV, that a COMMIT's search finds. -/
def commitFind (s : State) (ns : Nat) (key : Word) (parent : Option Nat) (toks : List Token) (rev prof : Nat) : Option (Nat × Chunk) :=
  (keyed s ns key).find? fun e =>
    e.2.parent == parent && e.2.tokens == toks && e.2.rev == rev && e.2.prof == prof && !e.2.poisoned

/-- The generations that an encode of each page of a chunk takes now (R316): none for a page stored in a recovery form (R262). -/
def takeGens (s : State) (c : Chunk) (recov : Option Nat) : List (Option Nat × Option Nat) :=
  c.pages.mapIdx fun l p =>
    if recov.isSome ∨ p.recov.isSome then (none, none)
    else ((s.curGen c.prof (tensorOf l 0)).map fun g => g.num, (s.curGen c.prof (tensorOf l 1)).map fun g => g.num)

/-- R262: the recovery form that a COMMIT of a tenant stores in now. -/
def recovNow (s : State) (t : Nat) : Option Nat :=
  if s.flag Fd.PGT_RECOV_ACTIVE then some (if s.flag Fd.TNT_BIND_RECOVQ4 t then 0xF else 0xE) else none

/-- Whether any page of a basted chunk is poisoned (R207). -/
def bastedPoison (s : State) (c : Chunk) : Bool :=
  c.pages.any fun p => p.st == .poisoned || (match p.frame.bind fun f => mapFind s.frames f with
    | some f => (match f.body with | .raw _ b => b | .coded _ _ => false)
    | none => false)

/-- RESULT0 of a COMMIT (R207). -/
def commitR0 (s : State) (t h : Nat) (adopted revived : Bool) : Word :=
  match s.chunk h with
  | none => 0
  | some c =>
    packWord [(29, match c.ns with | some ns => nsReport s t ns | none => 7), (28, b2n (s.isShort c)), (27, b2n (!c.linked)),
      (26, b2n (c.linked && !c.indexed)), (25, b2n revived), (24, b2n adopted), (0, h)]

/-- The sequence's tail becomes another chunk. -/
def State.swapTail (s : State) (q h : Nat) : State :=
  { s with seqs := mapUpd q (fun x => { x with chain := x.chain.dropLast ++ [h] }) s.seqs }

/-- An identical live node is adopted: the basted chunk and its frames are freed uncoded (R206). -/
def State.adopt (s : State) (c : Cmd) (q h : Nat) : State :=
  let s := s.swapTail q h
  (s.finish c Cc.ok (commitR0 s c.tenant h true false) 0).reclaim

/-- What a COMMIT works with, from its first cell. -/
def commitParent (s : State) (sq : Seq) : Option (Nat × Chunk) :=
  (sq.chain.dropLast.getLast?).bind fun h => (s.chunk h).map fun c => (h, c)

/-- A page of a basted chunk encoded: its layer, form, mask, access counter (R249), delivery holds (R266) and blocks. -/
structure Encoded where
  layer : Nat
  recov : Option Nat
  mask : Nat
  ctr : Nat
  holds : List Hold
  clens : List Nat
  blocks : List Block
  deriving DecidableEq, Repr

/-- Positions at or beyond `n` of a raw page read as zeros (R204). -/
def zeroBeyond (g : Geo) (recov : Option Nat) (n : Nat) (raw : List Byte) : List Byte :=
  if n = g.span then raw
  else raw.mapIdx fun o b => match posOfByte g recov o with
    | some p => if n ≤ p then 0 else b
    | none => b

/-- Encode every page of a basted chunk (R207, R241, R262, R316); a page that cannot be read ends it with the layer, and the block where one proves
corrupt. -/
def encodeAll (s : State) (c : Chunk) (w : CommitWork) : Nat → List Page → Except (Nat × Option (Nat × Corrupt)) (List Encoded)
  | _, [] => .ok []
  | layer, p :: ps => match rawPage s c layer with
    | .poison => .error (layer, none)
    | .corrupt b k => .error (layer, some (b, k))
    | .data raw =>
      let g := s.geo c.prof
      let raw := zeroBeyond g p.recov w.tokens.length raw
      let recov := match w.recov with | some f => some f | none => p.recov
      let raw := match w.recov with | some f => recoverPage g p.recov f raw | none => raw
      let blocks := encodePage s c.prof layer recov (w.gens.getD layer (none, none)) raw
      match encodeAll s c w (layer + 1) ps with
      | .error e => .error e
      | .ok rest => .ok ({ layer, recov, mask := p.mask, ctr := p.ctr, holds := p.holds, clens := blocks.map fun b => b.clen, blocks } :: rest)

/-- Blocks that a COMMIT or a re-encoding has encoded are counted; what is left of a KiB is kept for the next (R336). -/
def State.countBlocks (s : State) (bs : List Block) : State :=
  let raw := bs.countP fun b => b.mode == 0
  let out := s.outRem + (bs.map fun b => blockBytes b.clen).sum
  let s : State := { s with outRem := out % 1024 }
  let s := s.addFld Fd.CDR_CSTAT0_RAWBLK raw
  let s := s.addFld Fd.CDR_CSTAT0_CODBLK (bs.length - raw)
  let s := s.addFld Fd.CDR_CSTAT1_OUTKIB (out / 1024)
  s.addFld Fd.CDR_CSTAT1_INKIB (4 * bs.length)

/-- Histogram capture of one encoded page of the selected tensor (R327): the symbols of its half of the raw page, the value half to the page's end (R307). -/
def State.capture1 (s : State) (g : Geo) (raw : List Byte) (kv w : Nat) : State :=
  let half := if kv = 0 then sliceAt raw 0 (keyHalf g none) else sliceAt raw (keyHalf g none) (rawSize g none - keyHalf g none)
  let s := s.addFld Fd.CDR_HSTAT_PAGES 1
  (symbolsOf w half).foldl (fun s sym => s.addFld Fd.CDR_HIST_COUNT 1 sym) s

/-- Histogram capture over the pages whose encode a COMMIT starts, in the tensor's order of encodes, under the settings of this moment (R327, R338). -/
def State.captureHist (s : State) (t : Nat) (c : Chunk) (w : CommitWork) : State :=
  let tensor := s.fld Fd.CDR_HCFG_TENSOR
  let layer := tensor / 2
  let g := s.geo c.prof
  let fmt := if tensor % 2 = 0 then g.kfmt else g.vfmt
  match symW fmt, c.page layer, w.recov with
  | some wd, some p, none =>
    if !s.flag Fd.CDR_HCFG_EN || s.fld Fd.CDR_HCFG_PROFILE != c.prof || p.recov.isSome then s
    else
      let n := s.histPages
      let s := { s with histPages := n + 1 }
      if s.flag Fd.TNT_STATE_SEALED t then s.addFld Fd.CDR_HSTAT_SKIPPED 1
      else if (n + 1) % 2 ^ s.fld Fd.CDR_HCFG_SAMPLE ≠ 0 then s
      else match rawPage s c layer with
        | .data raw => s.capture1 g (zeroBeyond g p.recov w.tokens.length raw) (tensor % 2) wd
        | _ => s
  | _, _, _ => s

/-- A COMMIT's pages begin to be encoded: what is captured and counted of them (R327, R336), unless one of them cannot be read. -/
def State.beginEncode (s : State) (t : Nat) (c : Chunk) (w : CommitWork) : State :=
  match encodeAll s c w 0 c.pages with
  | .ok es => (s.captureHist t c w).countBlocks (es.flatMap fun e => e.blocks)
  | .error _ => s

/-- The tokens and namespace of a COMMIT are known: search, then adopt at once or begin coding (R206, R316); it holds read pins on the nodes compared (R217). -/
def State.beginCommit (s : State) (c : Cmd) (q : Nat) (sq : Seq) (ts : List Token) : State :=
  let w1 := wordAt c.words 1
  let t := c.tenant
  let prof := s.profileOf t
  let parent := commitParent s sq
  let unlinked := bitsOf w1 23 23 == 1 || sq.chain.dropLast.any fun h => !((s.chunk h).map fun k => k.linked).getD false
  match chooseNs s t (bitsOf w1 26 24) unlinked (parent.map fun e => e.2) with
  | none => s.fail c Cc.noRights 0x0104
  | some ns =>
    let pk : Word := (parent.map fun e => e.2.key).getD 0
    let key : Word := match ns with | some n => spanKey (s.nsKey n) pk prof ts | none => 0
    let tail := sq.chain.getLastD 0
    let compared := ((ns.map fun n => keyed s n key).getD []).map fun e => e.1
    let found := ns.bind fun n => commitFind s n key (parent.map fun e => e.1) ts (bitsOf w1 55 40) prof
    let dedup := bitsOf w1 22 22 == 1
    let work : CommitWork :=
      { seq := q, chunk := tail, ns, key, rev := bitsOf w1 55 40, dedup, tokens := ts,
        gens := ((s.chunk tail).map fun k => takeGens s k (recovNow s t)).getD [], recov := recovNow s t }
    let encode (s : State) : State :=
      let s := match s.chunk tail with | some k => s.beginEncode t k work | none => s
      s.setCmd { c with npins := tail :: compared, work := .commit work }
    match found with
    | some (h, k) => if dedup && !k.hollow then (if ownerDown s h then s else s.adopt c q h) else encode s
    | none => encode s

/-- R204: COMMIT is checked and its coding begins. -/
def opCommit (uid : Nat) (hm : HostMem) (s : State) : State :=
  match s.ready uid Oc.commit with
  | none => s
  | some c => match c.work with
    | .commit _ => s
    | _ =>
      let w1 := wordAt c.words 1
      let ntok := bitsOf w1 37 28
      let q := bitsOf w1 21 0
      if !tokenFormat (bitsOf w1 39 38) (wordAt c.words 2) ∨ 5 < bitsOf w1 26 24 then s.fail c Cc.formatUnsupported 0x0109
      else match s.ownSeq c.tenant q with
        | none => s.fail c Cc.invalidHandle 0
        | some sq => match sq.chain.getLast?.bind s.chunk with
          | none => s.fail c Cc.invalidHandle 0
          | some tail =>
            if tail.committed then s.fail c Cc.noRights 0x0103
            else if ntok < max 1 tail.fill ∨ s.spanOf tail < ntok then s.fail c Cc.formatUnsupported 0x0109
            else if bastedPoison s tail then s.fail c Cc.poisoned 0x0108
            else match tokenSource s c ntok (bitsOf w1 39 38) (wordAt c.words 2) hm with
              | (s, .wait) => s
              | (s, .err code d) => s.fail c code d
              | (s, .toks ts) => s.beginCommit c q sq ts
/-- R204. -/
def execCommit (uid : Nat) (hostMem : HostMem) (s : State) : Res := .next (opCommit uid hostMem s)

/-- Granules of an encoded page (R235, R238). -/
def Encoded.granules (e : Encoded) : Nat := ceilDiv (codedBytes e.clens) 512

/-- Frames that a COMMIT frees as it replaces them: those that only its chunk refers to and no command reads. -/
def freeable (s : State) (c : Chunk) : List Nat :=
  (c.pages.filterMap fun p => p.frame).filter fun f => frefs s f ≤ 1 && frpins s f == 0

/-- Charged granules of frames whose holder is `hd`. -/
def granulesOf (s : State) (hd : Nat) (fs : List Nat) : Nat :=
  (fs.map fun f => match mapFind s.frames f with | some x => if frameHolder s x = hd then x.ngran else 0 | none => 0).sum

/-- The state in which a chunk's freeable frames have already been reclaimed, their epochs moved on (R219). -/
def withoutFrames (s : State) (fs : List Nat) : State :=
  let dead := s.frames.filter fun e => fs.contains e.1
  { s with
    epochs := dead.foldl (fun m (e : Nat × Frame) => mapIns e.1 ((e.2.epoch + 1) % 65536) m) s.epochs,
    frames := s.frames.filter fun e => !fs.contains e.1 }

/-- Place every encoded page in a frame of its own for chunk `owner`; none where the space does not suffice. -/
def State.placeAll (s : State) (owner : Nat) (picks : List Nat) : List Encoded → Option (State × List Page)
  | [] => some (s, [])
  | e :: es => match s.newFrame picks e.granules owner (.fresh owner e.layer) (.coded e.clens e.blocks) with
    | none => none
    | some (s, f) => match s.placeAll owner picks es with
      | none => none
      | some (s, ps) => some (s, { Page.empty .dirty with frame := some f, recov := e.recov, mask := e.mask, ctr := e.ctr, holds := e.holds } :: ps)

/-- The chunk as it will be charged once committed with `n` tokens: with its token block (R181). -/
def State.withTokens (s : State) (h n : Nat) : State := s.updChunk h fun c => { c with committed := true, spanlen := n }

/-- What stands in the way of a COMMIT's coded frames and token block of `n` tokens (0: none is added), after its replaced frames are given back (R112, R257): the holder's quota,
then granules for the token rows and for every frame. -/
def commitRoom (s : State) (c : Chunk) (h hd n : Nat) (es : List Encoded) : Room :=
  let fs := freeable s c
  let need := (es.map Encoded.granules).sum + ceilDiv (4 * n) 512 - granulesOf s hd fs
  let s' := if n = 0 then withoutFrames s fs else (withoutFrames s fs).withTokens h n
  if 0 < need ∧ hbmQuota s hd < hbmCharged s hd + need then
    (if hbmQuota s hd < fixedGranules s hd + need then .quota else .quotaWait)
  else if !topClear s' ∨ (s'.placeAll 0 [] es).isNone then .spaceWait
  else .ok

/-- The node that a COMMIT's second search finds (R206). -/
def commitMeets (s : State) (k : Chunk) (w : CommitWork) : Option (Nat × Chunk) :=
  w.ns.bind fun n => commitFind s n w.key k.parent w.tokens w.rev k.prof

/-- What the coded pages of a COMMIT are charged to once linked: the chunk that takes them, its holder, and the tokens of its own block, none for a revived node, which
has its block (R206). -/
def commitCharge (s : State) (c : Cmd) (k : Chunk) (w : CommitWork) : Nat × Nat × Nat :=
  match (commitMeets s k w).filter fun e => e.2.hollow with
  | some (h, x) => (h, x.charge, 0)
  | none => (w.chunk, w.ns.getD c.tenant, w.tokens.length)

/-- R190: a short node enters its length at its parent, where that lies in the same namespace and has a free SL field. -/
def State.enterSl (s : State) (parent : Option Nat) (ns n : Nat) : State :=
  match parent with
  | none => s
  | some p => s.updChunk p fun x =>
    if x.ns ≠ some ns ∨ x.sl.contains n then x
    else { x with sl := match x.sl.findIdx? (· == 0) with | some i => x.sl.set i n | none => x.sl }

/-- The coded chunk becomes a node of its namespace, or an unlinked committed chunk (R206, R207). -/
def State.linkCoded (s : State) (c : Cmd) (k : Chunk) (w : CommitWork) (pages : List Page) (index : Bool) : State :=
  let h := w.chunk
  let serial := s.serial
  let s := s.takeSerials 1
  let s := s.setChunk h { k with
    tokSerial := serial, committed := true, charge := w.ns.getD c.tenant, spanlen := w.tokens.length, rev := w.rev, key := w.key, ns := w.ns,
    linked := w.ns.isSome, tokens := w.tokens, isVolatile := s.flag Fd.TNT_BIND_VOLATILE c.tenant, pages }
  match w.ns with
  | none => s
  | some ns =>
    let s := if index then s.indexNode h else s
    if w.tokens.length < (s.geo k.prof).span then s.enterSl k.parent ns w.tokens.length else s

/-- The chunk is coded and linked (or committed unlinked), where the quotas of its holder and the space allow it. -/
def State.codeAndLink (s : State) (c : Cmd) (k : Chunk) (w : CommitWork) (es : List Encoded) (picks : List Nat) (index : Bool) (kib : Word)
    (code : Nat) : State :=
  let hd := w.ns.getD c.tenant
  if hd ≠ c.tenant ∧ !chunkRoom s hd then (s.fail c Cc.quota 0).reclaim
  else match commitRoom s k w.chunk hd w.tokens.length es with
    | .quota => (s.fail c Cc.quota 0).reclaim
    | .ok => match ((withoutFrames s (freeable s k)).withTokens w.chunk w.tokens.length).placeAll w.chunk picks es with
      | none => s
      | some (s', ps) =>
        let s' := s'.linkCoded c k w ps index
        (s'.finish c code (commitR0 s' c.tenant w.chunk false false) kib).reclaim
    | _ => s

/-- Coding has ended: what COMMIT does with the coded pages, by its second search (R206). (log entry 43, DEDUCED) -/
def State.settleCommit (s : State) (c : Cmd) (k : Chunk) (w : CommitWork) (es : List Encoded) (picks : List Nat) : State :=
  let found := commitMeets s k w
  let kib := packWord [(0, ceilDiv ((es.map fun e => codedBytes e.clens).sum) 1024)]
  let code := if w.recov.isSome then Cc.degradedForm else Cc.ok
  match found with
  | some (h, x) =>
    if ownerDown s h then s
    else if x.hollow then
      match commitRoom s k h x.charge 0 es with
      | .quota => (s.fail c Cc.quota 0).reclaim
      | .ok => match (withoutFrames s (freeable s k)).placeAll h picks es with
        | none => s
        | some (s', ps) =>
          let s' := s'.updChunk h fun y => { y with hollow := false, pages := List.zipWith (fun (p old : Page) => { p with ctr := old.ctr, holds := old.holds }) ps y.pages }
          let s' := (s'.swapTail w.seq h).addFld Fd.PFX_CNT1_REVIVES 1
          (s'.finish c code (commitR0 s' c.tenant h false true) kib).reclaim
      | _ => s
    else if w.dedup then s.adopt c w.seq h
    else s.codeAndLink c k w es picks false kib code
  | none => s.codeAndLink c k w es picks true kib code

/-- R206: COMMIT_LINK. (log entry 43, DEDUCED) -/
def opCommitLink (uid : Nat) (picks : List Nat) (s : State) : State :=
  match s.cmd uid with
  | none => s
  | some c => match c.work with
    | .commit w => match s.chunk w.chunk with
      | none => s
      | some k =>
        if stewardDown s c then s
        else if bastedPoison s k then (s.fail c Cc.poisoned 0x0108).reclaim
        else match encodeAll s k w 0 k.pages with
          | .error (layer, some (b, x)) => ((s.corrupt w.chunk layer b x).fail c Cc.poisoned 0x0108).reclaim
          | .error (_, none) => (s.fail c Cc.poisoned 0x0108).reclaim
          | .ok es => s.settleCommit c k w es picks
    | _ => s
/-- R206. -/
def execCommitLink (uid : Nat) (picks : List Nat) (s : State) : Res := .next (opCommitLink uid picks s)

/-! ### RELEASE (R210, R211) -/

/-- PURGE visits the committed chunks of the chain from the last to the head, and stops at the first it does not unlink (R211). -/
def State.purge (s : State) (t : Nat) : List Nat → State × Nat
  | [] => (s, 0)
  | h :: rest => match s.chunk h with
    | none => (s, 0)
    | some c =>
      if c.linked ∧ c.ns = some t ∧ refs s h = 0 ∧ children s h = 0 ∧ pinsOn s h = 0 then
        let r := (s.unlink h).purge t rest
        (r.1, r.2 + 1)
      else (s, 0)

/-- R211: RELEASE. -/
def opRelease (uid : Nat) (s : State) : State :=
  match s.ready uid Oc.release with
  | none => s
  | some c =>
    let w := wordAt c.words 1
    match s.ownSeq c.tenant (bitsOf w 21 0) with
    | none => s.fail c Cc.invalidHandle 0
    | some sq =>
      let committed := sq.chain.filter fun h => ((s.chunk h).map fun k => k.committed).getD false
      let s := { s with seqs := mapDel (bitsOf w 21 0) s.seqs }
      let (s, n) := if bitsOf w 22 22 = 1 then s.purge c.tenant committed.reverse else (s, 0)
      (s.finish c Cc.ok (packWord [(14, n), (0, sq.chain.length)]) 0).reclaim
/-- R211. -/
def execRelease (uid : Nat) (s : State) : Res := .next (opRelease uid s)

/-! ### PIN and UNPIN (R212, R213) -/

/-- Entries of the pin table (R213). -/
def pinEntries : Nat := 1048576

/-- The chunks that a PIN or UNPIN acts on (R212). -/
def pinTargets (s : State) (c : Cmd) : Except (Nat × Nat) (List Nat) :=
  let w := wordAt c.words 1
  if bitsOf w 24 24 = 1 then
    match s.ownSeq c.tenant (bitsOf w 21 0) with
    | none => .error (Cc.invalidHandle, 0)
    | some sq => .ok (sq.chain.filter fun h => ((s.chunk h).map fun k => k.committed).getD false)
  else
    let h := bitsOf w 23 0
    if !reaches s c.tenant h then .error (Cc.invalidHandle, 0)
    else if !((s.chunk h).map fun k => k.committed).getD false then .error (Cc.noRights, 0x010F)
    else .ok [h]

/-- A tenant's pins on a chunk. -/
def State.pinRec (s : State) (t h : Nat) : PinRec := (mapFind s.pins (pinKey t h)).getD { plain := 0, resident := 0 }

/-- Put a tenant's pins on a chunk; an entry that counts nothing leaves the table. -/
def State.setPin (s : State) (t h : Nat) (p : PinRec) : State :=
  { s with pins := if p.plain = 0 ∧ p.resident = 0 then mapDel (pinKey t h) s.pins else mapIns (pinKey t h) p s.pins }

/-- Add one pin of a kind. -/
def State.addPin (s : State) (t : Nat) (res : Bool) (h : Nat) : State :=
  let p := s.pinRec t h
  s.setPin t h (if res then { p with resident := p.resident + 1 } else { p with plain := p.plain + 1 })

/-- Remove one pin of a kind. -/
def State.dropPin (s : State) (t : Nat) (res : Bool) (h : Nat) : State :=
  let p := s.pinRec t h
  s.setPin t h (if res then { p with resident := p.resident - 1 } else { p with plain := p.plain - 1 })

/-- Pins of a kind that a tenant holds on a chunk. -/
def pinCount (s : State) (t : Nat) (res : Bool) (h : Nat) : Nat := if res then (s.pinRec t h).resident else (s.pinRec t h).plain

/-- Whether the table or a count is too full for one more pin on each of these chunks (R213). -/
def pinFull (s : State) (t : Nat) (res : Bool) (hs : List Nat) : Bool :=
  hs.any (fun h => decide (65535 ≤ pinCount s t res h)) ||
    decide (pinEntries < s.pins.length + hs.countP fun h => (mapFind s.pins (pinKey t h)).isNone)

/-- RESULT0 of a PIN or UNPIN (R213). -/
def pinR0 (s : State) (hs : List Nat) : Word := packWord [(14, b2n (hs.any (isHollow s))), (0, hs.length)]

/-- A resident PIN that failed takes its pins away again (R213). -/
def State.unpinAll (s : State) (c : Cmd) (hs : List Nat) (code detail : Nat) : State :=
  ((hs.foldl (fun s h => s.dropPin c.tenant true h) s).fail c code detail).reclaim

/-- A resident PIN, its pins added: it completes when every page of its chunks that are not hollow is in HBM (R213). -/
def State.pinOn (s : State) (c : Cmd) (hs : List Nat) : State :=
  let live := hs.filter fun h => !isHollow s h
  if live.any fun h => ((s.chunk h).map fun k => k.pages.any fun p => p.st == .poisoned).getD false then s.unpinAll c hs Cc.poisoned 0x0105
  else if live.any (promoting s) then
    if promoteRoom s live = .quota then s.unpinAll c hs Cc.quota 0
    else (live.foldl (fun s h => s.demandAt h c.since) s).setCmd { c with npins := hs, work := .promote hs }
  else (s.finish c Cc.ok (pinR0 s hs) 0).reclaim

/-- R213: PIN. -/
def opPin (uid : Nat) (s : State) : State :=
  match s.ready uid Oc.pin with
  | none => s
  | some c => match c.work with
    | .promote hs => s.pinOn c hs
    | _ => match pinTargets s c with
      | .error e => s.fail c e.1 e.2
      | .ok hs =>
        let res := fieldOf c.words 1 25 25 == 1
        if pinFull s c.tenant res hs then s.fail c Cc.noSpace 0x010E
        else
          let s := hs.foldl (fun s h => s.addPin c.tenant res h) s
          if res then s.pinOn c hs else s.finish c Cc.ok (pinR0 s hs) 0
/-- R213. -/
def execPin (uid : Nat) (s : State) : Res := .next (opPin uid s)

/-- R213: UNPIN. -/
def opUnpin (uid : Nat) (s : State) : State :=
  match s.ready uid Oc.unpin with
  | none => s
  | some c => match pinTargets s c with
    | .error e => s.fail c e.1 e.2
    | .ok hs =>
      let res := fieldOf c.words 1 25 25 == 1
      let held := hs.filter fun h => decide (0 < pinCount s c.tenant res h)
      if fieldOf c.words 1 24 24 = 0 ∧ held = [] then s.fail c Cc.noRights 0x010D
      else
        let r0 := pinR0 s held
        ((held.foldl (fun s h => s.dropPin c.tenant res h) s).finish c Cc.ok r0 0).reclaim
/-- R213. -/
def execUnpin (uid : Nat) (s : State) : Res := .next (opUnpin uid s)

/-! ### The node query (R180, R225) -/

/-- Words 0 to 4 of a committed chunk's node (R180). -/
def nodeWords (s : State) (h : Nat) (c : Chunk) : List Word :=
  [packWord [(48, c.depth), (24, c.parent.getD 0), (0, h)],
   packWord [(48, c.rev), (40, c.acc), (39, b2n c.hotroot), (38, b2n (s.isShort c)), (37, b2n c.indexed), (36, b2n c.linked),
     (32, presence c), (18, (if c.linked then c.ns else none).getD 0x7FF), (10, c.prof), (0, c.spanlen)],
   packWord [(40, children s h), (24, min 65535 (rpinsOn s h)), (0, refs s h)],
   packWord [(16, min 65535 (hpinsOn s h)), (0, min 65535 (pinsOn s h))],
   packWord [(27, c.sl.getD 3 0), (18, c.sl.getD 2 0), (9, c.sl.getD 1 0), (0, c.sl.getD 0 0)]]

/-- R225: a write of PFX_NODEQ. The query has ended when the write's effect is seen, so BUSY is never read as 1. -/
def opNodeQuery (v : Word) (s : State) : State :=
  let h := bitsOf v 23 0
  let node := (s.chunk h).filter fun c => c.committed
  let ws := match node with | some c => nodeWords s h c | none => [0, 0, 0, 0, 0]
  let s := s.setReg .PFX_NODEQ 0 (packWord [(62, b2n node.isSome), (0, h)])
  (List.range 5).foldl (fun s i => s.setReg .PFX_NODE i (wordAt ws i)) s
/-- R225. -/
def execNodeQuery (value : Word) (s : State) : Res := .next (opNodeQuery value s)

end Sys2Proof.Machine
end

