-- ==== Sys2Proof/Machine/Pages.lean ====
section
/-!
DEFINITION. Pages: the marks of the pattern, writing basted pages (APPEND and view stores), view windows and their cache, demotion, hollowing,
compaction, DELIVER, the presence probe and the page query (R218, R233, R241 to R287, R448 to R451).
-/
namespace Sys2Proof.Machine

/-! ### Room (R112, R257) -/

/-- The layers a DELIVER acts on. -/
def deliverLayers (c : Cmd) : List Nat := (List.range (fieldOf c.words 1 30 23)).map (fieldOf c.words 1 22 16 + ·)

/-- The positions of a DELIVER's list whose pages it still acts on. -/
def DeliverWork.goes (w : DeliverWork) (i : Nat) : Bool := !w.hollow.contains i && !w.lost.contains i && !w.noRoom.contains i

/-- The pages that a DELIVER acts on at one position, as (handle, layer). -/
def deliverAt (c : Cmd) (w : DeliverWork) (i : Nat) : List (Nat × Nat) := (deliverLayers c).map fun l => (w.handles.getD i 0, l)

/-- The pages that a DELIVER acts on, as (handle, layer). -/
def deliverPages (c : Cmd) (w : DeliverWork) : List (Nat × Nat) :=
  ((List.range w.handles.length).filter w.goes).flatMap (deliverAt c w)

/-- What stands in the way of a command in flight that waits for granules; `only`: of one holder's. -/
def cmdRoom (s : State) (only : Option Nat) (c : Cmd) : Room :=
  let of (hd : Nat) (r : Room) : Room := if only == none || only == some hd then r else .ok
  match c.work with
  | .append i _ _ => match (s.ownSeq c.tenant (fieldOf c.words 1 21 0)).bind fun q => q.chain.getLast?.bind s.chunk with
    | some k => of k.charge (roomFor s k.charge (ceilDiv (rawSize (s.geo k.prof) ((k.page (fieldOf c.words 1 28 22 + i)).bind fun p => p.recov)) 512) [])
    | none => .ok
  | .promote hs => pagesRoom s only (pagesOf s hs)
  | .deliver w => pagesRoom s only (deliverPages c w)
  | .commit w => match s.chunk w.chunk with
    | some k => match encodeAll s k w 0 k.pages with
      | .ok es =>
        let h := commitCharge s c k w
        of h.2.1 (commitRoom s k h.1 h.2.1 h.2.2 es)
      | .error _ => .ok
    | none => .ok
  | _ => .ok

/-- Whether some command waits for room in a holder's quota, or the holder is above its quota (R112, R113). -/
def quotaPressed (s : State) (hd : Nat) : Bool :=
  decide (hbmQuota s hd < hbmCharged s hd) || s.inflight.any fun c => cmdRoom s (some hd) c == .quotaWait

/-! ### Demotion and hollowing (R251 to R258) -/

/-- R251, R112, R113: a steward demotes the next candidate: a CLEAN page by releasing its frame. `holder` none is step 1 of the ladder, which runs while its
trigger holds; a holder is one whose quota presses. A chunk whose steward is down stays as it is (R36, R39). (log entry 46, DEDUCED) -/
def opDemotePage (holder : Option Nat) (s : State) : State :=
  let s := s.ladder
  let runs := match holder with
    | none => s.flag Fd.PGT_TIER_DEMOTE
    | some hd => quotaPressed s hd
  if !runs then s
  else match nextCandidate s holder fun c => c.clean && !ownerDown s c.handle with
    | none => s
    | some c =>
      let s := s.updPage c.handle c.layer fun p => { p with st := .flash, frame := none }
      (s.addFld Fd.PGT_CNT0_DEMOTED 1).reclaim
/-- R251. -/
def execDemotePage (holder : Option Nat) (s : State) : Res := .next (opDemotePage holder s)

/-- R255: the score of a chunk. -/
def score (s : State) (c : Chunk) : Nat := (c.pages.map fun p => p.ctr).sum * depthWeight s (min c.depth 16 - 1)

/-- R256: a chunk that step 2 may make hollow. -/
def hollowable (s : State) (h : Nat) (c : Chunk) : Bool :=
  c.committed && !c.hollow && !c.poisoned && pinsOn s h == 0 && !c.pages.any (held s)

/-- R312: a poisoned chunk that nobody holds is made hollow too. -/
def poisonHollowable (s : State) (h : Nat) (c : Chunk) : Bool :=
  c.committed && !c.hollow && c.poisoned && refs s h == 0 && pinsOn s h == 0 && rpinsOn s h == 0

/-- The eligible chunk of the lowest score; ties by descending depth, then descending handle (R255). (log entry 46, DEDUCED) -/
def lowestScore (s : State) (holder : Option Nat) : Option Nat :=
  let r := s.chunks.foldl (fun best e =>
    if (holder.isSome && holder != some e.2.charge) || !hollowable s e.1 e.2 || ownerDown s e.1 then best
    else match best with
      | none => some e
      | some b =>
        let x := score s e.2
        let y := score s b.2
        if x < y ∨ (x = y ∧ (b.2.depth < e.2.depth ∨ (b.2.depth = e.2.depth ∧ b.1 < e.1))) then some e else best) (none : Option (Nat × Chunk))
  r.map fun e => e.1

/-- Whether a holder's stash is stopped by its flash quota while demotion needs space (R112). -/
def flashStopped (s : State) (hd : Nat) : Bool :=
  (s.flag Fd.PGT_TIER_DEMOTE || quotaPressed s hd) &&
    (candidates s (some hd)).any (fun c => !c.clean && decide (flashQuota s hd < flashCharged s hd + c.bytes))

/-- R258: a steward makes a chunk hollow: a poisoned one that nobody holds (R312), one of a holder whose stash its quota has stopped (R112), or, while step 2 runs,
the eligible chunk of the lowest score, which HOLLOWED counts (R284). (log entry 46, DEDUCED) -/
def opMakeHollow (holder : Option Nat) (s : State) : State :=
  let s := s.ladder
  match s.chunks.find? fun e => poisonHollowable s e.1 e.2 && !ownerDown s e.1 with
  | some e => (s.hollowChunk e.1).reclaim
  | none =>
    let runs := match holder with
      | none => s.flag Fd.PGT_TIER_DROP
      | some hd => flashStopped s hd
    if !runs then s
    else match lowestScore s holder with
      | none => s
      | some h =>
        let s := s.hollowChunk h
        (if holder.isNone then s.addFld Fd.PGT_CNT1_HOLLOWED 1 else s).reclaim
/-- R258. -/
def execMakeHollow (holder : Option Nat) (s : State) : Res := .next (opMakeHollow holder s)

/-- R254, step 3: while chunk handles are short, the longest-hollow node without references, children and pins is unlinked. -/
def opUnlinkHollow (s : State) : State :=
  let s := s.ladder
  if !s.flag Fd.PGT_TIER_HANDLES then s
  else
    let ok := s.chunks.filter fun e => e.2.hollow && e.2.linked && refs s e.1 == 0 && children s e.1 == 0 && pinsOn s e.1 == 0 && !ownerDown s e.1
    let pick := ok.foldl (fun best e => match best with
      | none => some e
      | some b => if e.2.hollowAt < b.2.hollowAt then some e else best) (none : Option (Nat × Chunk))
    match pick with
    | none => s
    | some e => (s.unlink e.1).reclaim
/-- R254. -/
def execUnlinkHollow (s : State) : Res := .next (opUnlinkHollow s)

/-! ### Decay and trimming (R249, R260, R261) -/

/-- The sub-blocks of a page that a steward masks now (R260). -/
def newMask (s : State) (c : Chunk) (p : Page) : Nat :=
  let th := s.fld Fd.TNT_BIND_TRIMTH c.charge
  let eligible := c.committed && c.spanlen == s.spanOf c && !c.isVolatile && decide (c.charge < 1024) && s.flag Fd.TNT_BIND_TRIM c.charge &&
    p.recov.isNone && decide (64 ≤ p.passes) && (p.st == .dirty || p.st == .clean || p.st == .flash || p.st == .staging)
  if !eligible then 0
  else ((List.range (s.spanOf c / 64)).map fun n =>
    if !bitAt p.mask n && decide (p.acc.getD n 0 < th * 16) then 2 ^ n else 0).sum

/-- Bits set in a mask. -/
def bitCount (n : Nat) : Nat := (List.range 16).countP fun i => bitAt n i

/-- R249, R260: once in every decay period, every page counter and every ACC is halved, and sub-blocks are masked. -/
def opCounterDecay (s : State) : State :=
  let n := (s.chunks.map fun e => (e.2.pages.map fun p => bitCount (newMask s e.2 p)).sum).sum
  let half (c : Chunk) (p : Page) : Page := { p with ctr := p.ctr / 2, mask := p.mask + newMask s c p }
  let s := { s with chunks := mapVals (fun _ c => { c with acc := c.acc / 2, pages := c.pages.map (half c) }) s.chunks }
  (s.addFld Fd.PGT_CNT1_TRIMMED n).sweepCam
/-- R249. -/
def execCounterDecay (s : State) : Res := .next (opCounterDecay s)

/-- Whether block b of a page holds only masked positions (R261). -/
def blockMasked (g : Geo) (recov : Option Nat) (mask b : Nat) : Bool :=
  let ps := (List.range 4096).map fun i => posOfByte g recov (4096 * b + i)
  ps.any (fun p => p.isSome) && ps.all fun p => match p with | some q => bitAt mask (q / 64) | none => true

/-- A coded image without the blocks that hold only masked positions (R261, R307). -/
def omitMasked (g : Geo) (recov : Option Nat) (mask : Nat) (clens : List Nat) (bs : List Block) : List Nat × List Block :=
  if mask = 0 then (clens, bs)
  else (clens.mapIdx fun b n => if blockMasked g recov mask b then 0 else n, bs.filter fun x => !blockMasked g recov mask x.block)

/-- What all of some pages mask. -/
def commonMask (ps : List Page) : Nat := ps.foldl (fun m p => m &&& p.mask) 0xFFFF

/-- Every reference to a frame moves to its copy. -/
def State.moveRefs (s : State) (a b : Nat) : State :=
  let move (p : Page) : Page := if p.frame = some a then { p with frame := some b } else p
  { s with chunks := mapVals (fun _ c => { c with pages := c.pages.map move }) s.chunks }

/-- R239: a steward moves a frame and every reference to it in one unit; blocks that every page of the frame masks are left out of the copy (R261). -/
def opFrameCompact (base : Nat) (picks : List Nat) (s : State) : State :=
  let users := s.chunks.flatMap fun e => (e.2.pages.filter fun p => p.frame == some base).map fun p => (e.1, e.2.prof, p)
  if users.any fun u => ownerDown s u.1 then s
  else match mapFind s.frames base, users.head? with
    | some f, some (_, prof, p) =>
      let r : FrameBody × Nat := match f.body with
        | .coded cl bs =>
          let x := omitMasked (s.geo prof) p.recov (commonMask (users.map fun u => u.2.2)) cl bs
          (.coded x.1 x.2, max 1 (ceilDiv (codedBytes x.1) 512))
        | .raw m x => (.raw m x, f.ngran)
      match s.newFrame picks r.2 f.owner (.kept f.tag) r.1 with
      | none => s
      | some (s, b) => (s.moveRefs base b).reclaim
    | _, _ => s
/-- R239. -/
def execFrameCompact (base : Nat) (picks : List Nat) (s : State) : Res := .next (opFrameCompact base picks s)

/-! ### Writing basted pages (R218, R241) -/

/-- What a write to a basted page comes to. -/
inductive WriteRes where
  | done (s : State)
  | room (r : Room)
  | poisoned (s : State)

/-- Give a basted page a raw frame of its own with this content. -/
def State.ownFrame (s : State) (h layer : Nat) (c : Chunk) (p : Page) (picks : List Nat) (content : Memory) : Option State :=
  (s.newFrame picks (ceilDiv (rawSize (s.geo c.prof) p.recov) 512) h (.fresh h layer) (.raw content false)).map fun r =>
    (r.1.updPage h layer fun p => { p with st := .raw, frame := some r.2 }).reclaim

/-- Put bytes into the raw frame of a page, and into the parity of its rows (R236). -/
def State.putFrame (s : State) (f off : Nat) (bs : List (Option Byte)) : State :=
  match ((mapFind s.frames f).map fun x => x.body : Option FrameBody) with
  | some (.raw m bad) =>
    let s : State := { s with frames := mapUpd f (fun x => { x with body := .raw (m.writeMasked off bs) bad }) s.frames }
    bs.zipIdx.foldl (fun s e => match e.1 with
      | some b => s.parityByte f (off + e.2) (m.get (off + e.2)) b
      | none => s) s
  | _ => s

/-- Write bytes to page `layer` of a basted chunk (R218, R241, R311): in place where its frame is raw and its own, else into a frame of its own that is zero-filled or
copied first. -/
def writePage (s : State) (h layer off : Nat) (bs : List (Option Byte)) (picks : List Nat) : WriteRes :=
  match s.chunk h with
  | none => .poisoned s
  | some c => match c.page layer with
    | none => .poisoned s
    | some p =>
      let size := rawSize (s.geo c.prof) p.recov
      let n := ceilDiv size 512
      let own (content : Memory) : WriteRes :=
        match roomFor s c.charge n picks with
        | .ok => match s.ownFrame h layer c p picks content with
          | some s' => match (s'.chunk h).bind fun c => (c.page layer).bind fun p => p.frame with
            | some f => .done (s'.putFrame f off bs)
            | none => .room .spaceWait
          | none => .room .spaceWait
        | r => .room r
      if p.st = .poisoned then .poisoned s
      else match p.frame.bind fun f => (mapFind s.frames f).map fun x => (f, x) with
        | none => own []
        | some (f, x) => match x.body with
          | .raw m bad =>
            if bad then .poisoned (s.poisonPage h layer)
            else if frefs s f ≤ 1 then .done (s.putFrame f off bs)
            else own m
          | .coded _ _ => match frameBytes s c.prof layer p.recov x 0 size with
            | .data raw => own (Memory.write [] 0 raw)
            | .corrupt b k => .poisoned ((s.corrupt h layer b k).reclaim)
            | .poison => .poisoned (s.poisonPage h layer)

/-! ### APPEND (R242, R243) -/

/-- The rows of a layer that an APPEND carries, cut into (offset in the raw page, bytes): keys before values and head by head (R242). -/
def appendRows (g : Geo) (recov : Option Nat) (pos npos : Nat) (src : List Byte) : List (Nat × List Byte) :=
  let kb := npos * rowBytes (pageFmts g recov).1 g.hdim
  let vb := npos * rowBytes (pageFmts g recov).2 g.hdim
  ((List.range g.kvheads).map fun h => (rowOff g recov 0 h pos, sliceAt src (h * kb) kb)) ++
    (List.range g.kvheads).map fun h => (rowOff g recov 1 h pos, sliceAt src (g.kvheads * kb + h * vb) vb)

/-- Source bytes of one layer of an APPEND (R242). -/
def appendBytes (g : Geo) (recov : Option Nat) (npos : Nat) : Nat :=
  g.kvheads * npos * (rowBytes (pageFmts g recov).1 g.hdim + rowBytes (pageFmts g recov).2 g.hdim)

/-- Write all the rows of one layer. -/
def writeRows (s : State) (h layer : Nat) (picks : List Nat) : List (Nat × List Byte) → WriteRes
  | [] => .done s
  | (off, bs) :: rest => match writePage s h layer off (bs.map some) picks with
    | .done s => writeRows s h layer picks rest
    | r => r

/-- The source of one layer of an APPEND: its bytes, or the result that ends the command (R243). -/
def appendSource (s : State) (c : Cmd) (i n per : Nat) (hm : HostMem) : Except (State × Nat × Nat) (List Byte) :=
  let src := fieldOf c.words 1 38 37
  let a := (wordAt c.words 2).toNat + i * fieldOf c.words 3 31 0
  let host := s.hostOf c.tenant
  if src = 0 then .ok (sliceAt (inlineBytes c 1) (i * per) n)
  else if src = 1 then
    match hostRead hm a n with
    | some bs => .ok bs
    | none => .error (s, Cc.poisoned, 0x0112)
  else match plainRead s host a n with
    | .denied x => .error (s.deny host false x, Cc.noRights, 0x0113)
    | .unbacked => .error (s.countUnbacked, Cc.poisoned, 0x0112)
    | .poison => .error (s, Cc.poisoned, 0x0112)
    | .data bs => .ok bs

/-- What a page that an APPEND is about to write holds: the page, and its raw frame's content. -/
def pageBefore (s : State) (k : Chunk) (layer : Nat) : List (Nat × Page × Option FrameBody) :=
  match k.page layer with
  | some p => [(layer, p, (p.frame.bind fun f => mapFind s.frames f).bind fun x => match x.body with | .raw m b => some (.raw m b) | .coded _ _ => none)]
  | none => []

/-- The layers of an APPEND from `i` on, each page in turn (R243); `undo` is what the pages written so far were, whose frames stay pinned until it completes (R39, R217). (log entry 19, DEDUCED) -/
def State.appendLayers (s : State) (c : Cmd) (h : Nat) (hm : HostMem) (picks : List Nat) (bad : Bool) (undo : List (Nat × Page × Option FrameBody)) :
    Nat → Nat → State
  | 0, _ =>
    (if bad then s.fail c Cc.poisoned 0x0108
      else s.finish c Cc.ok (packWord [(10, fieldOf c.words 1 36 29), (0, fieldOf c.words 1 58 49)]) 0).reclaim
  | left + 1, i =>
    let layer := fieldOf c.words 1 28 22 + i
    match s.chunk h with
    | none => s.fail c Cc.invalidHandle 0
    | some k =>
      let g := s.geo k.prof
      let recov := (k.page layer).bind fun p => p.recov
      let n := appendBytes g recov (fieldOf c.words 1 58 49)
      match appendSource s c i n n hm with
      | .error (s, code, d) => (s.fail c code d).reclaim
      | .ok src =>
        let undo' := undo ++ pageBefore s k layer
        let c' := { c with fpins := undo'.filterMap fun u => u.2.1.frame }
        match writeRows (s.setCmd c') h layer picks (appendRows g recov (fieldOf c.words 1 48 40) (fieldOf c.words 1 58 49) src) with
        | .done s => s.appendLayers c' h hm picks bad undo' left (i + 1)
        | .poisoned s => s.appendLayers c' h hm picks true undo' left (i + 1)
        | .room .quota => (s.fail c Cc.quota 0).reclaim
        | .room _ => s.setCmd { c with work := .append i bad undo }

/-- What an APPEND has written is taken back: each page is again what it was, with its raw frame's content; one found corrupt meanwhile stays POISONED (R39, R311). (log entry 19, DEDUCED) -/
def State.undoAppend (s : State) (h : Nat) (undo : List (Nat × Page × Option FrameBody)) : State :=
  undo.foldr (fun u s =>
    if (((s.chunk h).bind fun c => c.page u.1).map fun p => p.st) = some .poisoned then s
    else
      let s := s.updPage h u.1 fun _ => u.2.1
      match u.2.1.frame, u.2.2 with
      | some f, some (.raw m _) =>
        let n := ((mapFind s.frames f).map fun (x : Frame) => x.ngran).getD 0
        s.putFrame f 0 ((m.read 0 (512 * n)).map some)
      | _, _ => s) s

/-- The checks of R243 on an APPEND's fields. -/
def appendOk (g : Geo) (recov : Option Nat) (c : Cmd) : Bool :=
  let w := wordAt c.words 1
  let src := bitsOf w 38 37
  let nl := bitsOf w 36 29
  let np := bitsOf w 58 49
  decide (1 ≤ nl) && decide (nl ≤ 128) && decide (1 ≤ np) && decide (bitsOf w 48 40 + np ≤ g.span) &&
    decide (bitsOf w 28 22 + nl ≤ g.layers) &&
    (if src = 0 then c.ncell == ceilDiv (nl * appendBytes g recov np) 64
     else src != 3 && c.ncell == 0 && (wordAt c.words 2).toNat % 64 == 0 && fieldOf c.words 3 31 0 % 64 == 0)

/-- R243: APPEND. -/
def opAppend (uid : Nat) (hm : HostMem) (picks : List Nat) (s : State) : State :=
  match s.ready uid Oc.append with
  | none => s
  | some c =>
    let w := wordAt c.words 1
    let nl := bitsOf w 36 29
    match c.work with
    | .append i bad undo => match (s.ownSeq c.tenant (bitsOf w 21 0)).bind fun q => q.chain.getLast? with
      | none => s.fail c Cc.invalidHandle 0
      | some h => s.appendLayers c h hm picks bad undo (nl - i) i
    | _ =>
      let tail := (s.ownSeq c.tenant (bitsOf w 21 0)).bind fun q => q.chain.getLast?.bind fun h => (s.chunk h).map fun k => (h, k)
      let recov := tail.bind fun e => (e.2.page (bitsOf w 28 22)).bind fun p => p.recov
      if !appendOk (s.geo (s.profileOf c.tenant)) recov c then s.fail c Cc.formatUnsupported 0x0110
      else match tail with
        | none => s.fail c Cc.invalidHandle 0
        | some (h, k) =>
          if k.committed then s.fail c Cc.noRights 0x0103
          else
            let n := appendBytes (s.geo k.prof) recov (bitsOf w 58 49)
            let reads := if bitsOf w 38 37 = 2 then (List.range nl).map fun i => ((wordAt c.words 2).toNat + i * fieldOf c.words 3 31 0, n) else []
            match s.coherent c reads [] with
            | (s, false) => s
            | (s, true) => s.appendLayers c h hm picks false [] nl 0
/-- R243. -/
def execAppend (uid : Nat) (hostMem : HostMem) (picks : List Nat) (s : State) : Res := .next (opAppend uid hostMem picks s)

/-! ### View windows (R244 to R247, R448 to R451) -/

/-- LSLOT and CSTRIDE of a profile's view window, as exponents of two (R448). -/
def lslotLog (g : Geo) : Nat := clog2 (rawSize g none)
/-- R448. -/
def cstrideLog (g : Geo) : Nat := lslotLog g + clog2 g.layers

/-- What an offset of a view window lies in (R448, R450). -/
inductive ViewPlace where
  | slotEntry (slot : Nat)
  | page (slot layer byte : Nat)
  | none
  deriving DecidableEq, Repr

/-- R448, R450: resolve an offset of tenant t's view window. -/
def viewPlace (s : State) (t o : Nat) : ViewPlace :=
  let g := s.geo (s.profileOf t)
  let cs := 2 ^ cstrideLog g
  let nslot := 2 ^ s.fld Fd.CXL_VW_VSLOTLOG t
  if !s.flag Fd.CXL_VW_EN t then .none
  else if o < nslot * cs then .page (o / cs) (o % cs / 2 ^ lslotLog g) (o % 2 ^ lslotLog g)
  else if o < nslot * cs + 8 * nslot then .slotEntry ((o - nslot * cs) / 8)
  else .none

/-- Where a slot entry of tenant t stands. -/
def slotKey (t slot : Nat) : Nat := t * 65536 + slot
/-- A slot entry (R449). -/
def State.viewSlot (s : State) (t slot : Nat) : Word := (mapFind s.viewSlots (slotKey t slot)).getD 0

/-- The chunk that a view access reaches, none where it does not resolve (R450, R182). -/
def viewTarget (s : State) (t slot layer byte : Nat) : Option (Nat × Chunk × Page) :=
  let e := s.viewSlot t slot
  let h := bitsOf e 23 0
  if bitsOf e 63 63 = 0 ∨ !reaches s t h then none
  else (s.chunk h).bind fun c => (c.page layer).bind fun p =>
    if rawSize (s.geo c.prof) p.recov ≤ byte then none else some (h, c, p)

/-- Lines of one core die's view cache (R247): 64 MiB of blocks of 4 KiB. -/
def viewLines : Nat := 16384
/-- The ways of a set (R247). -/
def viewWays : Nat := 16

/-- The core die and the set a block is cached in; which set is the implementation's own choice (R247). -/
def viewDie (f b : Nat) : Nat := (f / 11 + b) % 2
/-- The set of a block. -/
def viewSet (f b : Nat) : Nat := (f / 11 + b) / 2 % (viewLines / viewWays)

/-- A block of a coded frame is taken through the view cache: a hit moves its line to the most recent place, a miss fills it and raises the page's counter
(R247, R249, R285). -/
def State.viewFill (s : State) (h layer f b : Nat) (x : Frame) : State :=
  let l : ViewLine := { die := viewDie f b, frame := f, epoch := x.epoch, block := b }
  if s.viewCache.contains l then { s with viewCache := s.viewCache.erase l ++ [l] }.addFld Fd.PGT_VC_HITS 1
  else
    let same (y : ViewLine) : Bool := y.die == l.die && viewSet y.frame y.block == viewSet f b
    let full := decide (viewWays ≤ s.viewCache.countP same)
    let vc := if full then (match s.viewCache.find? same with | some y => s.viewCache.erase y | none => s.viewCache) else s.viewCache
    ({ s with viewCache := vc ++ [l] }.addFld Fd.PGT_VC_MISSES 1).updPage h layer fun p => { p with ctr := satAdd 8 p.ctr 1 }

/-- Answer a view load that has resolved to page `layer` of chunk h, which is resident or has nothing to wait for (R245, R246). -/
def State.answerView (s : State) (host t h layer byte n : Nat) : State :=
  let cls := some (s.fld Fd.TNT_BIND_BCLASS t)
  let poison (s : State) : State := s.respondData host (List.replicate n 0) true cls
  match (s.chunk h).bind fun c => (c.page layer).map fun p => (c, p) with
  | none => poison s
  | some (c, p) =>
    let s := s.wake
    let g := s.geo c.prof
    let hidden := (List.range n).any fun i => match posOfByte g p.recov (byte + i) with | some q => masked p q | none => false
    if hidden then poison s
    else
      let s := match p.frame.bind fun f => (mapFind s.frames f).map fun x => (f, x) with
        | some (f, x) => match x.body with
          | .coded _ _ => s.viewFill h layer f (byte / 4096) x
          | .raw _ _ => s
        | none => s
      match pageBytes s c layer byte n with
      | .data bs => s.respondData host bs false cls
      | .poison => poison s
      | .corrupt b k => poison ((s.corrupt h layer b k).reclaim)

/-- R246: a load in a view window; its page is resolved when it is taken (R245). It runs in the name of the window's tenant; the tenant of the entry that R115 matches is not used,
also where a SPACE = 0 entry of another tenant covers the window. (log entries 60 and 61, DEDUCED; log entry 107, DESIGN CHOICE) -/
def opViewLoad (host a n : Nat) (s : State) : State :=
  if s.lostHosts.contains host then s
  else if !hdmServes s then s.respondData host (List.replicate n 0) true none
  else match dpaPlace (dpaExtents s.cacheSf) a with
  | .view t o =>
    if !backed s host a then s.countUnbacked.respondData host (List.replicate n 0) true none
    else match hrtLookup s host false a false .other with
      | none => (s.deny host false a).respondData host (List.replicate n 0) true none
      | some _ => match viewPlace s t o with
        | .none => s.respondData host (List.replicate n 0) true (some (s.fld Fd.TNT_BIND_BCLASS t))
        | .slotEntry slot =>
          s.respondData host (sliceAt (bytesOf ((List.range 9).map fun i => s.viewSlot t (slot + i))) (o % 8) n) false (some (s.fld Fd.TNT_BIND_BCLASS t))
        | .page slot layer byte => match viewTarget s t slot layer byte with
          | some (h, _, p) =>
            if p.away then
              { s.demand h with viewWaits := s.viewWaits ++ [{ host, size := n, tenant := t, handle := h, layer, byte, no := s.nextUid }] }
            else s.answerView host t h layer byte n
          | none => s.respondData host (List.replicate n 0) true (some (s.fld Fd.TNT_BIND_BCLASS t))
  | _ => s
/-- R246. -/
def execViewLoad (host : HostId) (addr : Nat) (size : Nat) (s : State) : Res := .next (opViewLoad host.val addr size s)

/-- Whether a COMMIT that names the sequence of a basted chunk has been taken and has not completed (R244): that sequence. -/
def underCommit (s : State) (h : Nat) : Option Nat :=
  (s.seqs.find? fun e => e.2.chain.getLast? == some h && s.inflight.any fun c =>
    c.opcode == Oc.commit && fieldOf c.words 1 21 0 == e.1 && c.tenant == e.2.tenant).map fun e => e.1

/-- Whether a view store waits: it would need a new frame of a chunk whose steward is down (R37, R241). (log entry 20, DEDUCED) -/
def viewStoreWaits (s : State) (t slot layer byte : Nat) : Bool :=
  match viewTarget s t slot layer byte with
  | none => false
  | some (h, c, p) => !c.committed && ownerDown s h && p.st != .poisoned && (underCommit s h).isNone &&
    match (p.frame.bind fun f => (mapFind s.frames f).map fun x => (f, x.body) : Option (Nat × FrameBody)) with
    | some (f, .raw _ _) => decide (1 < frefs s f)
    | _ => true

/-- A store to a resolved page of a view window (R246). -/
def State.storeView (s : State) (t a slot layer byte : Nat) (bs : List (Option Byte)) (picks : List Nat) : State :=
  match viewTarget s t slot layer byte with
  | none => s
  | some (h, c, p) =>
    if c.committed then
      if p.st = .dropped ∨ p.st = .poisoned then s else s.logEv 0x0702 0 noIsland (some t) a h
    else match underCommit s h with
      | some q => s.logEv 0x0701 1 noIsland (some t) a q
      | none =>
        let g := s.geo c.prof
        let keep := bs.mapIdx fun i b => match posOfByte g p.recov (byte + i) with
          | some q => if masked p q then none else b
          | none => b
        if p.st = .poisoned ∨ keep.all (fun b => b.isNone) then s
        else match writePage s.wake h layer byte keep picks with
          | .done s => s
          | .poisoned s => s
          | .room r =>
            let s := (s.poisonPage h layer).reclaim
            if r = .quota ∨ r = .quotaWait then s.setFld Fd.TNT_ERR_QUOTAHIT 1 t else s

/-- R246, R449: a store in a view window; a store with all 8 bytes of a slot entry enabled updates the entry. (log entry 60, DEDUCED) -/
def opViewStore (host a : Nat) (bs : List (Option Byte)) (picks : List Nat) (s : State) : State :=
  if s.lostHosts.contains host then s
  else if !hdmServes s then s.respond host none
  else match dpaPlace (dpaExtents s.cacheSf) a with
  | .view t o =>
    if !backed s host a then s.countUnbacked.respond host none
    else match hrtLookup s host false a true .other with
      | none => (s.deny host false a).respond host none
      | some _ =>
        let waits := match viewPlace s t o with
          | .page slot layer byte => viewStoreWaits s t slot layer byte
          | _ => false
        if waits then s else
        let s' := match viewPlace s t o with
          | .none => s
          | .page slot layer byte => s.storeView t a slot layer byte bs picks
          | .slotEntry slot => putSlots s t slot (List.replicate (o % 8) none ++ bs) 9
        s'.respond host (some (s.fld Fd.TNT_BIND_BCLASS t))
  | _ => s
where
  /-- The slot entries of a store, entry by entry (R449). -/
  putSlots (s : State) (t slot : Nat) (bs : List (Option Byte)) : Nat → State
    | 0 => s
    | fuel + 1 =>
      if bs = [] then s
      else
        let s' := match (bs.take 8).mapM id with
          | some v => if v.length = 8 then
              { s with viewSlots := mapIns (slotKey t slot) (BitVec.ofNat 64 (ofLE v) &&& 0x8000000000FFFFFF) s.viewSlots } else s
          | none => s
        putSlots s' t (slot + 1) (bs.drop 8) fuel
/-- R246. -/
def execViewStore (host : HostId) (addr : Nat) (bytes : List (Option Byte)) (picks : List Nat) (s : State) : Res :=
  .next (opViewStore host.val addr bytes picks s)

/-- R449: a full 8-byte store to a slot entry. -/
def opViewSlotStore (host a : Nat) (v : Word) (s : State) : State := opViewStore host a ((leBytes 8 v.toNat).map some) [] s
/-- R449. -/
def execViewSlotStore (host : HostId) (addr : Nat) (value : Word) (s : State) : Res := .next (opViewSlotStore host.val addr value s)

/-- Whether a region 1 extent of the tenant is added (R483). -/
def viewExtent (s : State) (t : Nat) : Bool := (s.extent 1 t).isSome

/-- R448, R483: a write of CXL_VW[t]; enabling zeroes the slot table. -/
def opViewWindowConfig (t : Nat) (v : Word) (s : State) : State :=
  let log := bitsOf v 5 1
  if viewExtent s t ∨ log < 6 ∨ 16 < log ∨ 41 < log + cstrideLog (s.geo (s.profileOf t)) then s.setFld Fd.CXL_VW_ERR 1 t
  else
    let zero := bitsOf v 0 0 = 1 ∧ !s.flag Fd.CXL_VW_EN t
    let s := s.setReg .CXL_VW t (packWord [(1, log), (0, bitsOf v 0 0)])
    if zero then { s with viewSlots := s.viewSlots.filter fun e => e.1 / 65536 != t } else s
/-- R448. -/
def execViewWindowConfig (tenant : TenantId) (value : Word) (s : State) : Res := .next (opViewWindowConfig tenant.val value s)

/-! ### DELIVER (R264 to R269) -/

/-- The fields of a DELIVER: NCH, BYSEQ, PUSH, LAYER0, NLAYER. -/
def deliverOk (g : Geo) (c : Cmd) : Bool :=
  let w := wordAt c.words 1
  let n := bitsOf w 13 0
  let bySeq := bitsOf w 14 14 == 1
  let l0 := bitsOf w 22 16
  let nl := bitsOf w 30 23
  decide (1 ≤ n) && (if bySeq then decide (n ≤ 8192) && c.ncell == 0 && decide (1 ≤ fieldOf c.words 5 35 22) && decide (fieldOf c.words 5 35 22 ≤ 8192)
      else decide (n ≤ 240) && c.ncell == ceilDiv n 16) &&
    decide (1 ≤ nl) && decide (nl ≤ 128) && decide (l0 + nl ≤ g.layers) &&
    (bitsOf w 15 15 == 0 || ((wordAt c.words 3).toNat % 64 == 0 && fieldOf c.words 4 31 0 % 64 == 0))

/-- A page that a DELIVER acts on fails it: its content is lost. -/
def pageBad (c : Chunk) (l : Nat) : Bool := match c.page l with | some p => p.st == .poisoned | none => true

/-- The rank of the flash reads of a DELIVER (R268): by its deadline, or, with none, after all others in decode order. -/
def deliverRank (c : Cmd) : Nat × Nat := if (wordAt c.words 2).toNat = 0 then (1, c.uid) else (0, (wordAt c.words 2).toNat)

/-- Stage the pages of one chunk that a DELIVER acts on, and put its hold on each of them (R266). -/
def State.deliverChunk (s : State) (c : Cmd) (hold : Bool) (h : Nat) : State :=
  s.updChunk h fun k =>
    if k.hollow then k
    else { k with pages := k.pages.mapIdx fun i p =>
      if (deliverLayers c).contains i then
        let p := p.stage (deliverRank c)
        { p with holds := if hold then { uid := some c.uid, ends := 0 } :: p.holds else p.holds }
      else p }

/-- The chunks of a DELIVER in order, or the result that ends it. -/
def deliverHandles (s : State) (c : Cmd) : Except (Nat × Nat) (List Nat) :=
  let n := fieldOf c.words 1 13 0
  if fieldOf c.words 1 14 14 = 0 then .ok (listedChunks c n)
  else match s.ownSeq c.tenant (fieldOf c.words 5 21 0) with
    | none => .error (Cc.invalidHandle, 0)
    | some q =>
      let d := fieldOf c.words 5 35 22
      if q.chain.length < d - 1 + n then .error (Cc.formatUnsupported, 0x0110)
      else .ok ((q.chain.drop (d - 1)).take n)

/-- Positions in a list at which a test holds. -/
def positions (p : Nat → Bool) (hs : List Nat) : List Nat := (hs.zipIdx.filter fun e => p e.1).map fun e => e.2

/-- DELIVER begins (R266): read pins, staging and holds. -/
def State.beginDeliver (s : State) (c : Cmd) (hs : List Nat) : State :=
  let bySeq := fieldOf c.words 1 14 14 == 1
  let w : DeliverWork :=
    { handles := hs, hollow := positions (fun h => (bySeq || reaches s c.tenant h) && isHollow s h) hs,
      lost := positions (fun h => !bySeq && !reaches s c.tenant h) hs, unpushed := [], noRoom := [], toPush := [], last := none, closing := false }
  let go := (List.range hs.length).filter w.goes
  let toPush := if fieldOf c.words 1 15 15 == 1 then go.flatMap fun i => (deliverLayers c).map fun l => (i, l) else []
  let pins := go.map fun i => hs.getD i 0
  (pins.foldl (fun s h => s.deliverChunk c true h) s).setCmd { c with npins := pins, work := .deliver { w with toPush } }

/-- R265: with BYSEQ = 0, the chunks listed in the cells that have arrived are staged before the last one has. -/
def State.stageListed (s : State) (c : Cmd) : State :=
  if fieldOf c.words 1 14 14 = 1 ∨ !deliverOk (s.geo (s.profileOf c.tenant)) c then s
  else ((listedChunks c (fieldOf c.words 1 13 0)).filter (reaches s c.tenant)).foldl (fun s h => s.deliverChunk c false h) s

/-- Holds of a DELIVER that has ended: dropped, or kept until a moment (R266). (log entry 48, DEDUCED) -/
def State.endHolds (s : State) (uid : Nat) (keep : Option Nat) : State :=
  let upd (h : Hold) : List Hold := if h.uid = some uid then (match keep with | some e => [{ uid := none, ends := e }] | none => []) else [h]
  { s with chunks := mapVals (fun _ c => { c with pages := c.pages.map fun p => { p with holds := p.holds.flatMap upd } }) s.chunks }

/-- A DELIVER is cancelled (R77, R130, R266). -/
def State.cancelDeliver (s : State) (c : Cmd) (d : Nat) : State := ((s.endHolds c.uid none).fail c Cc.cancelled d).reclaim

/-- The bus address that a page is pushed to (R267). -/
def pushAddr (c : Cmd) (i l : Nat) : Nat :=
  (wordAt c.words 3).toNat + i * fieldOf c.words 4 63 32 * 4096 + (l - fieldOf c.words 1 22 16) * fieldOf c.words 4 31 0

/-- A position is not pushed any further: a mask, or a page that cannot be read (R267, R269). -/
def DeliverWork.giveUp (w : DeliverWork) (i : Nat) : DeliverWork :=
  { w with toPush := w.toPush.filter (fun e => e.1 != i), unpushed := if w.unpushed.contains i then w.unpushed else i :: w.unpushed }

/-- Push every page that is in HBM (R267); a chunk with masked positions, or with a page that cannot be read, is not pushed. -/
def State.pushPages (s : State) (c : Cmd) (w : DeliverWork) : List (Nat × Nat) → State × DeliverWork
  | [] => (s, w)
  | (i, l) :: rest =>
    let h := w.handles.getD i 0
    if w.unpushed.contains i then s.pushPages c w rest
    else match s.pageOf h l with
      | none => s.pushPages c (w.giveUp i) rest
      | some (k, p) =>
        if p.away then s.pushPages c w rest
        else if k.pages.any fun p => p.mask != 0 then s.pushPages c (w.giveUp i) rest
        else match rawPage s k l with
          | .data raw =>
            let a := pushAddr c i l
            (s.emit (.hostWrite (s.hostOf c.tenant) a raw)).pushPages c { w with toPush := w.toPush.erase (i, l), last := some (a + raw.length - 1) } rest
          | .poison => s.pushPages c (w.giveUp i) rest
          | .corrupt b x => ((s.corrupt h l b x).reclaim).pushPages c (w.giveUp i) rest

/-- DELIVER goes on: the pages that have come are pushed, and after the last one a zero-length read is issued to the last address written, if any was (R267). -/
def State.goDeliver (s : State) (c : Cmd) (w : DeliverWork) : State :=
  let (s, w) := s.pushPages c w w.toPush
  if fieldOf c.words 1 15 15 = 1 ∧ w.toPush = [] ∧ !w.closing then
    let s := s.setCmd { c with work := .deliver { w with closing := true } }
    match w.last with
    | some a => s.emit (.hostReadZero (s.hostOf c.tenant) a)
    | none => s
  else s.setCmd { c with work := .deliver w }

/-- R266: DELIVER. -/
def opDeliver (uid : Nat) (s : State) : State :=
  match s.readyCut uid Oc.deliver 1 with
  | none => s
  | some c => match c.cancel with
    | some d => s.cancelDeliver c d
    | none =>
      if !c.full then s.stageListed c
      else match c.work with
        | .deliver w => s.goDeliver c w
        | _ =>
          if !deliverOk (s.geo (s.profileOf c.tenant)) c then s.fail c Cc.formatUnsupported 0x0110
          else match deliverHandles s c with
            | .error e => s.fail c e.1 e.2
            | .ok hs => s.beginDeliver c hs
/-- R266. -/
def execDeliver (uid : Nat) (s : State) : Res := .next (opDeliver uid s)

/-- Whether a page passes a test; a page that is not there does not. -/
def pageIs (s : State) (test : Page → Bool) (e : Nat × Nat) : Bool := ((s.pageOf e.1 e.2).map fun x => test x.2).getD false

/-- Whether a page that a DELIVER acts on is still on its way. -/
def deliverPending (s : State) (c : Cmd) (w : DeliverWork) : Bool := (deliverPages c w).any (pageIs s Page.away)

/-- The positions that have failed (R269): a handle not reached, a chunk not pushed, one without room for its remaining pages, and one with a page acted on that is POISONED. -/
def deliverFailed (s : State) (c : Cmd) (w : DeliverWork) : List Nat :=
  (List.range w.handles.length).filter fun i => w.lost.contains i || w.unpushed.contains i || w.noRoom.contains i ||
    (w.goes i && (deliverAt c w i).any (fun e => !pageIs s (fun p => p.st != .poisoned) e))

/-- STAGED: the chunks whose pages acted on are all in HBM (R269). (log entry 48, DEDUCED) -/
def deliverStaged (s : State) (c : Cmd) (w : DeliverWork) : Nat :=
  (List.range w.handles.length).countP fun i => !w.hollow.contains i && !w.lost.contains i &&
    (deliverAt c w i).all (pageIs s fun p => p.st == .none || p.st == .raw || p.st == .dirty || p.st == .clean)

/-- LATEUS and SLACKUS (R269). -/
def lateSlack (deadline now : Nat) : Nat × Nat :=
  if deadline = 0 then (0, 0)
  else (min (2 ^ 32 - 1) (ceilDiv (now - deadline) 1000), min (2 ^ 32 - 1) ((deadline - now) / 1000))

/-- R269: every page is in HBM or has failed, and every push is complete; `readOk` is false where the closing read returned an error, which fails the chunk pushed last unless
it has failed already. (log entry 48, DEDUCED) -/
def opDeliverComplete (uid : Nat) (readOk : Bool) (now : Nat) (s : State) : State :=
  match s.ready uid Oc.deliver with
  | none => s
  | some c => match c.cancel, c.work with
    | some d, _ => s.cancelDeliver c d
    | none, .deliver w =>
      let pushed := fieldOf c.words 1 15 15 == 1
      if deliverPending s c w ∨ (pushed ∧ !w.closing) then s
      else
        let s := s.at_ now
        let failed := deliverFailed s c w
        let lostRead := pushed && !readOk && w.last.isSome
        let failn := failed.length + b2n (lostRead && decide (failed.length + w.hollow.length < w.handles.length))
        let deadline := (wordAt c.words 2).toNat
        let ls := lateSlack deadline s.dtime
        let code := if 0 < failn ∨ lostRead then Cc.partial_ else if w.hollow ≠ [] then Cc.recompute
          else if 0 < ls.1 then Cc.late else Cc.ok
        let ends := max s.dtime ((if deadline = 0 then s.dtime else deadline) + fieldOf c.words 1 47 32 * 1000000)
        let s := if 0 < ls.1 then
            (s.addFld Fd.PGT_DLV_LATECNT 1).setFld Fd.PGT_DLV_MAXLATE (max (s.fld Fd.PGT_DLV_MAXLATE) ls.1) else s
        ((s.endHolds uid (some ends)).finish c code (packWord [(28, failn), (14, w.hollow.length), (0, deliverStaged s c w)])
          (packWord [(32, ls.2), (0, ls.1)])).reclaim
    | none, _ => s
/-- R269. -/
def execDeliverComplete (uid : Nat) (readOk : Bool) (now : Nat) (s : State) : Res := .next (opDeliverComplete uid readOk now s)

/-- R266: the delivery holds of a page whose end has come are gone. (log entry 48, DEDUCED) -/
def opDeliveryHoldExpire (h layer now : Nat) (s : State) : State :=
  let s := s.at_ now
  s.updPage h layer fun p => { p with holds := p.holds.filter fun x => x.uid.isSome || decide (s.dtime < x.ends) }
/-- R266. -/
def execDeliveryHoldExpire (handle : Fin 16777216) (layer : Fin 128) (now : Nat) (s : State) : Res :=
  .next (opDeliveryHoldExpire handle.val layer.val now s)

/-! ### Waits for room (R112, R257) -/

/-- The chunks whose promotion a command in flight waits for. -/
def chunksAwaited (c : Cmd) : List Nat :=
  match c.work with
  | .promote hs => hs
  | .deliver w => ((List.range w.handles.length).filter w.goes).map fun i => w.handles.getD i 0
  | .attend w => attWaits w
  | .ring w _ _ => attWaits w
  | _ => []

/-- Of some STAGING pages, those of chunks that no other command and no view load waits for go back to FLASH. -/
def State.unstage (s : State) (c : Cmd) (ps : List (Nat × Nat)) : State :=
  let others := (s.inflight.filter fun x => x.uid != c.uid).flatMap chunksAwaited ++ s.viewWaits.map fun w => w.handle
  (ps.filter fun e => !others.contains e.1).foldl (fun s e => s.updPage e.1 e.2 fun p =>
    if p.st = .staging then { p with st := .flash, want := none } else p) s

/-- A DELIVER whose staging finds no room: the chunks with pages that find none fail, and their remaining pages are given up (R269). (log entry 48, DEDUCED) -/
def State.deliverNoRoom (s : State) (c : Cmd) (w : DeliverWork) : State :=
  let stuck := (List.range w.handles.length).filter fun i => w.goes i && pagesRoom s none (deliverAt c w i) != .ok
  let s := s.unstage c (stuck.flatMap (deliverAt c w))
  s.setCmd { c with work := .deliver { w with noRoom := w.noRoom ++ stuck, toPush := w.toPush.filter fun e => !stuck.contains e.1 } }

/-- A wait of 10 ms has ended without room: the command completes with the code, and with the detail for space. (log entry 48, DEDUCED) -/
def State.roomTimeout (s : State) (c : Cmd) (code detail : Nat) : State :=
  match c.work with
  | .deliver w => s.deliverNoRoom c w
  | .promote hs =>
    if c.opcode = Oc.pin then (s.unstage c (pagesOf s hs)).unpinAll c hs code detail else ((s.unstage c (pagesOf s hs)).fail c code detail).reclaim
  | _ => (s.fail c code detail).reclaim

/-- R112: 10 ms have passed without room in the holder's quota. -/
def opQuotaWaitTimeout (uid : Nat) (s : State) : State :=
  match s.cmd uid with
  | none => s
  | some c => match cmdRoom s none c with
    | .quotaWait => s.roomTimeout c Cc.quota 0
    | .quota => s.roomTimeout c Cc.quota 0
    | _ => s
/-- R112. -/
def execQuotaWaitTimeout (uid : Nat) (s : State) : Res := .next (opQuotaWaitTimeout uid s)

/-- R257: 10 ms have passed and no granule is free. -/
def opSpaceWaitTimeout (uid : Nat) (s : State) : State :=
  match s.cmd uid with
  | none => s
  | some c => match cmdRoom s none c with
    | .spaceWait => s.roomTimeout c Cc.noSpace 0x0111
    | _ => s
/-- R257. -/
def execSpaceWaitTimeout (uid : Nat) (s : State) : Res := .next (opSpaceWaitTimeout uid s)

/-! ### The presence probe (R271 to R276, R287) -/

/-- The base of a quadrant (R271). -/
def State.pbaseOf (s : State) (t q : Nat) : Nat := (mapFind s.pbase (4 * t + q)).getD 0

/-- The nibble a probe reads for a handle (R273, R274). -/
def probeCode (s : State) (t h : Nat) : Nat :=
  match s.chunk h with
  | none => 0
  | some c => if holderOf c = t ∨ (groupNs s t).contains (holderOf c) then presence c else 0

/-- R271: an 8-byte write to offset 0 of a quadrant sets its base; any other write to the probe window is dropped. -/
def opProbeBaseWrite (h t off : Nat) (bs : List Byte) (s : State) : State :=
  match hrtLookup s h true (winAddr t off) true .other with
  | none => s.denyBar2 h (winAddr t off) bs.length true
  | some _ =>
    if 0x8000 ≤ off ∧ off % 0x2000 = 0 ∧ bs.length = 8 then
      { s with pbase := mapIns (4 * t + (off - 0x8000) / 0x2000) (ofLE bs % 1024) s.pbase }
    else s
/-- R271. -/
def execProbeBaseWrite (host : HostId) (tenant : TenantId) (off : Fin 65536) (bytes : List Byte) (s : State) : Res :=
  .next (opProbeBaseWrite host.val tenant.val off.val bytes s)

/-- Whether a read of the probe window is a probe (R272). -/
def isProbe (off size : Nat) : Bool := (size == 4 || size == 8 || size == 16 || size == 32 || size == 64) && off % size == 0

/-- R272: a read of the probe window, on a port, with the probes outstanding there counting this one (R287); a probe beyond 32 is not accepted from the link (R278). (log entry 49, DEDUCED) -/
def opPresenceProbe (h t off size port outstanding : Nat) (s : State) : State :=
  match hrtLookup s h true (winAddr t off) false .probeRead with
  | none => s.denyBar2 h (winAddr t off) size false
  | some _ =>
    if isProbe off size ∧ 32 < outstanding then s
    else if !isProbe off size ∨ !mediaReady s then s.emit (.readData h (allOnes size) false)
    else
      let q := (off - 0x8000) / 0x2000
      let b := (off - 0x8000) % 0x2000
      let first := s.pbaseOf t q * 16384 + 2 * b
      let data := (List.range size).map fun i =>
        if s.active t ∧ !partFailed s then BitVec.ofNat 8 (probeCode s t (first + 2 * i) + 16 * probeCode s t (first + 2 * i + 1)) else 0
      let s := s.addFld Fd.PGT_PRB_PROBES 1 port
      let s := s.setFld Fd.PGT_PRB_MAXQ (max (s.fld Fd.PGT_PRB_MAXQ port) outstanding) port
      s.emit (.readData h data false)
/-- R272. -/
def execPresenceProbe (host : HostId) (tenant : TenantId) (off : Fin 65536) (size : Nat) (port : Fin 4) (outstanding : Nat) (s : State) : Res :=
  .next (opPresenceProbe host.val tenant.val off.val size port.val outstanding s)

/-! ### The page query (R286) -/

/-- The stored format that PGT_PAGE1.FMT shows: the recovery form, or the profile's key format (R263, R286). -/
def pageFmtCode (g : Geo) (p : Page) : Nat := p.recov.getD g.kfmt

/-- PGT_PAGE0 and PGT_PAGE1 (R286). -/
def pageWords (s : State) (c : Chunk) (p : Page) : Word × Word :=
  let f := p.frame.bind fun f => (mapFind s.frames f).map fun x => (f, x)
  (packWord [(33, match f with | some (b, _) => b | none => 0), (17, match f with | some (_, x) => x.epoch | none => 0),
      (2, match f with | some (_, x) => x.ngran | none => 0)],
   packWord [(48, match f with | some (b, _) => min 65535 (frpins s b) | none => 0), (40, p.mask), (32, p.ctr), (28, pageFmtCode (s.geo c.prof) p),
      (24, p.st.code), (0, match f with | some (b, _) => frefs s b | none => 0)])

/-- R286: a write of PGT_PAGEQ. The query has ended when the write's effect is seen. -/
def opPageQuery (v : Word) (s : State) : State :=
  let layer := bitsOf v 30 24
  let h := bitsOf v 23 0
  let found := (s.chunk h).bind fun c => (c.page layer).map fun p => (c, p)
  let ws := match found with | some (c, p) => pageWords s c p | none => (0, 0)
  let s := s.setReg .PGT_PAGEQ 0 (packWord [(62, b2n found.isSome), (24, layer), (0, h)])
  (s.setReg .PGT_PAGE0 0 ws.1).setReg .PGT_PAGE1 0 ws.2
/-- R286. -/
def execPageQuery (value : Word) (s : State) : Res := .next (opPageQuery value s)

end Sys2Proof.Machine
end

