-- ==== Sys2Proof/Machine/FlashMap.lean ====
section
/-!
DEFINITION. The flash tier's geometry, erase units, streams and map: where an image is placed, what a unit still holds, the capacity, and the FLT
registers that follow from them (R530 to R576).
-/
namespace Sys2Proof.Machine

/-! ### Geometry and areas (R531 to R535) -/

/-- k: how many times fewer bytes a unit stores in SLC mode (R534). -/
def FlashGeo.k (g : FlashGeo) : Nat := if g.cell = 1 then 3 else 4
/-- Codewords of a native-mode unit (R534, R537): four plane pages of four codewords for each page number. -/
def FlashGeo.nativeCw (g : FlashGeo) : Nat := 16 * g.ppb
/-- Codewords of an SLC-mode unit. -/
def FlashGeo.slcCw (g : FlashGeo) : Nat := 16 * g.ppb / g.k
/-- Bytes of a native-mode unit. -/
def FlashGeo.unitBytes (g : FlashGeo) : Nat := 65536 * g.ppb
/-- All units of the three areas. -/
def FlashGeo.total (g : FlashGeo) : Nat := g.sysUnits + g.spareUnits + g.cacheUnits
/-- The first unit of the cache area. -/
def FlashGeo.cacheStart (g : FlashGeo) : Nat := g.sysUnits + g.spareUnits

/-- The LUNs of all targets, the first LUN of each target before any second: the target's index and the LUN. (log entry 76, DEDUCED) -/
def FlashGeo.lunList (g : FlashGeo) : List (Nat × Nat) :=
  (List.range 4).flatMap fun l => (g.targets.zipIdx.filter fun e => decide (l < e.1.luns)).map fun e => (e.2, l)

/-- R534: divide the units of the targets found, at first mount. -/
def FlashGeo.mount (g : FlashGeo) : FlashGeo :=
  let all := g.lunList.length * g.bpp
  let sys := min all (ceilDiv (32 * 0x40000000) (max 1 (g.unitBytes / g.k)))
  let spare := ceilDiv (2 * (all - sys)) 100
  { g with sysUnits := sys, spareUnits := spare, cacheUnits := all - sys - spare, lost := 0 }

/-- R535, R548: the cache capacity C in bytes. -/
def FlashGeo.capBytes (g : FlashGeo) : Nat := 93 * g.cacheUnits * g.unitBytes / 100 - g.lost * g.unitBytes

/-- The LUN a unit lies on, as its place in the list of LUNs: the units of each area go round them. (log entry 76, DEDUCED) -/
def FlashGeo.lunOf (g : FlashGeo) (u : Nat) : Nat := u % max 1 g.lunList.length
/-- The target a unit lies on. -/
def FlashGeo.targetOf (g : FlashGeo) (u : Nat) : Option FlashTarget := g.lunList[g.lunOf u]?.bind fun e => g.targets[e.1]?
/-- The channel a unit lies on. -/
def FlashGeo.chanOf (g : FlashGeo) (u : Nat) : Nat := ((g.targetOf u).map fun t => t.ch).getD 0
/-- Channels with a target in service, ascending. -/
def FlashGeo.chans (g : FlashGeo) : List Nat := (List.range 32).filter fun c => g.targets.any fun t => t.ch == c && t.inService

/-! ### Erase units -/

/-- An erased unit that has never been used. -/
def EraseUnit.fresh : EraseUnit :=
  { slc := false, ec := 0, holders := [], overflow := false, written := 0, opened := none, pend := false, failed := false, retired := false,
    promoted := false, lastProg := 0 }

/-- The unit of a number. -/
def State.unit (s : State) (u : Nat) : EraseUnit := (mapFind s.units u).getD EraseUnit.fresh
/-- Put a unit. -/
def State.setUnit (s : State) (u : Nat) (x : EraseUnit) : State := { s with units := mapIns u x s.units }
/-- Out of service: retired, or on a target that is (R547, R561). -/
def unitGone (s : State) (g : FlashGeo) (u : Nat) : Bool := (s.unit u).retired || !((g.targetOf u).map fun t => t.inService).getD false
/-- A unit of the cache area: its own, or a spare that replaces a retired unit (R534, R548). -/
def unitInCache (s : State) (g : FlashGeo) (u : Nat) : Bool := (decide (g.cacheStart ≤ u) && decide (u < g.total)) || (s.unit u).promoted
/-- A spare still in reserve. -/
def unitSpare (s : State) (g : FlashGeo) (u : Nat) : Bool :=
  decide (g.sysUnits ≤ u) && decide (u < g.cacheStart) && !(s.unit u).promoted && !unitGone s g u
/-- Codewords of valid images in a unit. -/
def validCw (s : State) (u : Nat) : Nat := (s.images.flatMap fun e => e.2.places.filterMap fun p => if p.unit = u then some p.cw else none).sum
/-- Codewords a unit holds in its mode. -/
def EraseUnit.cap (x : EraseUnit) (g : FlashGeo) : Nat := if x.slc then g.slcCw else g.nativeCw
/-- An erased unit, free to be taken. -/
def EraseUnit.erased (x : EraseUnit) : Bool := x.written == 0 && x.opened.isNone && !x.pend && !x.failed && !x.retired

/-- Spares in reserve. -/
def sparesLeft (s : State) (g : FlashGeo) : Nat := (List.range g.spareUnits).countP fun i => unitSpare s g (g.sysUnits + i)
/-- Units of the cache area in service. -/
def cacheInService (s : State) (g : FlashGeo) : Nat := (List.range g.total).countP fun u => unitInCache s g u && !unitGone s g u
/-- Erased units of the cache area. -/
def cacheErased (s : State) (g : FlashGeo) : Nat := (List.range g.total).countP fun u => unitInCache s g u && !unitGone s g u && (s.unit u).erased
/-- SLC-mode units of the cache area in use (R542). -/
def slcInUse (s : State) (g : FlashGeo) : Nat := mapCount (fun u x => unitInCache s g u && !unitGone s g u && x.slc && (decide (0 < x.written) || x.opened.isSome)) s.units

/-- FREEPM (R535). -/
def freePm (s : State) : Nat :=
  match s.flash with
  | some g => cacheErased s g * 1000 / max 1 (cacheInService s g)
  | none => 0

/-- Data in SLC-mode units of the cache area, in GiB (R568). -/
def slcGib (s : State) (g : FlashGeo) : Nat :=
  4096 * (s.units.map fun e => if unitInCache s g e.1 && e.2.slc then validCw s e.1 else 0).sum / 0x40000000

/-- The mean and the highest erase count of the cache area (R570). -/
def meanEc (s : State) (g : FlashGeo) : Nat :=
  (s.units.map fun e => if unitInCache s g e.1 && !unitGone s g e.1 then e.2.ec else 0).sum / max 1 (cacheInService s g)
/-- R570: of any unit in service. -/
def maxEc (s : State) (g : FlashGeo) : Nat := s.units.foldl (fun m e => if unitGone s g e.1 then m else max m e.2.ec) 0

/-! ### Registers that follow (R566 to R575) -/

/-- FLT_CH of a channel (R575): UNCORR and EXCL are kept, and a channel found without targets is ABSENT. -/
def chanWord (s : State) (g : FlashGeo) (c : Nat) : Word :=
  let ts := g.targets.filter fun t => t.ch == c
  let on := ts.filter fun t => t.inService
  let temp := on.foldl (fun (m : Option Int) t => match m with | none => some t.temp | some x => some (max x t.temp)) none
  packWord [(48, s.fld Fd.FLT_CH_UNCORR c), (40, s.fld Fd.FLT_CH_EXCL c),
    (28, on.foldl (fun m t => if m = 0 then t.rate else min m t.rate) 0), (20, (on.map fun t => 2 ^ t.ce).sum % 256),
    (8, intBits 12 (temp.getD 0)), (0, if ts = [] then 0 else if on = [] then 3 else 2)]

/-- Bring the FLT registers up to what the tier now holds. -/
def State.fltSync (s : State) : State :=
  match s.flash with
  | none => s
  | some g =>
    let on := g.targets.filter fun t => t.inService
    let s := s.setReg .FLT_GEOM 0 (packWord [(55, on.length), (53, g.luns - 1), (51, g.cell),
      (39, on.foldl (fun m t => if m = 0 then t.rate else min m t.rate) 0), (25, g.bpp), (12, g.ppb)])
    let s := s.setReg .FLT_CAP 0 (packWord [(40, g.capBytes / 0x40000000), (32, 32),
      (0, (List.range g.total).countP fun u => !unitGone s g u)])
    let s := (s.setFld Fd.FLT_SPACE_FREEPM (freePm s)).setFld Fd.FLT_SPACE_SLCGIB (slcGib s g)
    let avg := meanEc s g
    let s := s.setReg .FLT_WEAR 0 (packWord [(48, g.endur), (32, min 65535 (maxEc s g)), (16, min 65535 avg), (0, min 255 (avg * 100 / max 1 g.endur))])
    let s := s.setFld Fd.FLT_SPARE_SPAREPCT (if g.spareUnits = 0 then 0 else sparesLeft s g * 100 / g.spareUnits)
    let s := s.setFld Fd.FLT_SHRED_PENDUNITS (s.eraseLists.map fun e => e.2.length).sum
    let s := (List.range 32).foldl (fun s c => s.setReg .FLT_CH c (chanWord s g c)) s
    if s.fld Fd.FLT_WEAR_WEARPCT ≥ 100 then s.requestReplace 5 else s

/-! ### Placing an image (R538, R542, R547) -/

/-- The channel in service that follows c, going round (R538). -/
def nextChan (g : FlashGeo) (c : Nat) : Nat := ((g.chans.find? fun x => decide (c < x)).getD (g.chans.headD 0))

/-- The stream of steward st: 0 stash to the SLC buffer, 1 stash to native-mode units, 2 copies. (log entry 76, DEDUCED) -/
def streamKey (st kind : Nat) : Nat := 3 * st + kind

/-- The stream's place: it begins at the first channel in service from FC4s on (R538). -/
def State.streamAt (s : State) (g : FlashGeo) (key : Nat) : Stream :=
  (mapFind s.streams key).getD { chan := if key / 3 = 0 then g.chans.headD 0 else nextChan g (4 * (key / 3) - 1), fill := 0 }

/-- The lowest never-used unit of the cache area on a channel. (log entry 76, DEDUCED) -/
def freshUnit (s : State) (g : FlashGeo) (ch : Nat) : Option Nat :=
  ((List.range g.cacheUnits).map (g.cacheStart + ·)).find? fun u => g.chanOf u == ch && (mapFind s.units u).isNone && !unitGone s g u

/-- R547: the erased unit of a channel with the lowest erase count, ties by the lowest address. (log entry 76, DEDUCED) -/
def takeUnit (s : State) (g : FlashGeo) (ch : Nat) : Option Nat :=
  let used := s.units.foldl (fun (m : Option (Nat × Nat)) e =>
    if unitInCache s g e.1 && !unitGone s g e.1 && g.chanOf e.1 == ch && e.2.erased then
      match m with
      | none => some (e.2.ec, e.1)
      | some b => if e.2.ec < b.1 then some (e.2.ec, e.1) else some b
    else m) none
  match used, freshUnit s g ch with
  | none, f => f
  | some b, none => some b.2
  | some b, some f => if b.1 = 0 ∧ b.2 < f then some b.2 else some f

/-- The unit that a stream writes next on a channel: its open unit, or a new one. (log entry 76, DEDUCED) -/
def streamUnit (s : State) (g : FlashGeo) (key ch : Nat) : Option Nat :=
  match s.units.find? fun e => e.2.opened == some key && g.chanOf e.1 == ch && !unitGone s g e.1 with
  | some e => some e.1
  | none => takeUnit s g ch

/-- R562: a unit names up to four key holders. -/
def EraseUnit.hold (x : EraseUnit) (hd : Nat) : EraseUnit :=
  if x.holders.contains hd then x
  else if x.holders.length < 4 then { x with holders := x.holders ++ [hd] } else { x with overflow := true }

/-- The first channel, from one on and going round, on which a stream has a unit. (log entry 76, DEDUCED) -/
def findChan (s : State) (g : FlashGeo) (key : Nat) : Nat → Nat → Option (Nat × Nat)
  | 0, _ => none
  | fuel + 1, ch => match streamUnit s g key ch with
    | some u => some (ch, u)
    | none => findChan s g key fuel (nextChan g ch)

/-- Append `n` codewords of a holder's image to a stream, stripe by stripe (R537, R538): the places, or none where no unit is left. (log entry 76, DEDUCED) -/
def State.appendCw (s : State) (g : FlashGeo) (key hd : Nat) (slc : Bool) : Nat → Nat → List Place → Option (State × List Place)
  | _, 0, acc => some (s, acc)
  | 0, _, _ => none
  | fuel + 1, n, acc =>
    let st := s.streamAt g key
    match findChan s g key 32 st.chan with
    | none => none
    | some (ch, u) =>
      let x := s.unit u
      let x := if x.opened = some key then x else { x with slc, opened := some key }
      let take := min n (min (16 - st.fill) (x.cap g - x.written))
      let written := x.written + take
      let x := { x.hold hd with written, lastProg := s.dtime, opened := if x.cap g ≤ written then none else some key }
      let fill := st.fill + take
      let s := s.setUnit u x
      let s := { s with streams := mapIns key (if 16 ≤ fill then { chan := nextChan g ch, fill := 0 } else { chan := ch, fill }) s.streams }
      s.appendCw g key hd slc fuel (n - take) (acc ++ [{ unit := u, cw := take, pos := st.fill }])

/-- Place an image of `n` codewords. -/
def State.placeImage (s : State) (steward kind hd n : Nat) : Option (State × List Place) :=
  match s.flash with
  | none => none
  | some g => if g.chans = [] then none else s.appendCw g (streamKey steward kind) hd (kind == 0) (2 * n + 1) n []

/-- R541: SLC-mode units of the buffer target, for flash use in percent. -/
def slcTargetUnits (g : FlashGeo) (pct : Nat) : Nat :=
  let share := if pct < 25 then 1000 else if pct < 50 then 600 else if pct < 75 then 300 else if pct < 90 then 100 else 25
  max 64 (ceilDiv (g.capBytes * share * g.k) (10000 * max 1 g.unitBytes))

/-- R541: the target as a share of C, per mille. -/
def slcTargetPm (pct : Nat) : Nat := if pct < 25 then 100 else if pct < 50 then 60 else if pct < 75 then 30 else if pct < 90 then 10 else 2

/-! ### The journal (R543, R544) -/

/-- Units that hold no valid codeword any more and are not being written go on the pending-erase list, with the record that emptied them (R543). -/
def State.markPending (s : State) : State :=
  let f (u : Nat) (x : EraseUnit) : EraseUnit :=
    if decide (0 < x.written) && x.opened.isNone && !x.retired && validCw s u == 0 then { x with pend := true } else x
  { s with units := mapVals f s.units }

/-- The registers that the journal restores after a reset (R675). -/
def journalled : List RegKind :=
  [RegKind.TNT_STATE, RegKind.TNT_BIND, RegKind.TNT_GRP, RegKind.TNT_QUOTA, RegKind.TNT_CRED, RegKind.TNT_USE0, RegKind.TNT_USE1, RegKind.TNT_ERR]
  ++ [RegKind.SG_CFG, RegKind.SG_QUOTA, RegKind.HRT_CTL, RegKind.HRT_BASE, RegKind.HRT_LIMIT, RegKind.WHL_HOSTLIM, RegKind.SPL_CFG]
  ++ [RegKind.CDR_TRIGHTS, RegKind.PFX_CFG, RegKind.CAM_CFG, RegKind.CAM_REVMASK, RegKind.SNL_CFG, RegKind.SHT_CFG, RegKind.SHT_PORT]
  ++ [RegKind.SHT_MAC, RegKind.SHT_NHMAC, RegKind.SHT_IP6A, RegKind.SHT_IP6B, RegKind.SHT_IP4]

/-- Whether a stored register is one of some kinds. -/
def regAmong (ks : List RegKind) (key : Nat) : Bool := ks.any fun k => k.ctorIdx == key % 256

/-- Every record that waits is programmed into the journal ring and is durable (R544): finished images, the metadata, and the pending-erase list. Each record takes a serial
(R627); how many there are is a free value. (log entry 113, DEDUCED) -/
def State.flushJournal (s : State) : State :=
  let s := (s.takeSerials s.free).drawn
  let s := { s with images := mapVals (fun _ i => if i.progd then { i with durable := true } else i) s.images }
  let s := s.markPending
  { s with saved := {
      regs := s.regs.filter fun e => regAmong journalled e.1
      chunks := s.chunks, seqs := s.seqs, pins := s.pins
      images := s.images.filter fun e => e.2.durable
      gens := s.gens, geom := s.geom } }

end Sys2Proof.Machine
end

