-- ==== Sys2Proof/Machine/Tables.lean ====
section
/-!
DEFINITION. Coder tables: TABLE_LOAD, TABLE_RETIRE, re-encoding, the generation query and histogram settings (R313 to R331, R338).
-/
namespace Sys2Proof.Machine

/-- The code lengths of a 128-byte table (R317): symbol s in the low or high nibble of byte s div 2. -/
def tableLengths (bs : List Byte) : List Nat := bs.flatMap fun b => [b.toNat % 16, b.toNat / 16]

/-- Put the generations of a tensor. -/
def State.setGens (s : State) (prof tensor : Nat) (gs : List Gen) : State :=
  { s with gens := if gs = [] then mapDel (genKey prof tensor) s.gens else mapIns (genKey prof tensor) gs s.gens }

/-- A live generation that a table equals and that is OLD or CURRENT (R318). -/
def reusable (gs : List Gen) (l : List Nat) : Option Gen := gs.find? fun g => g.st != .retiring && g.table == l

/-- A live generation that a table of a load or swap equals, RETIRING ones among them (R64). -/
def liveEqual (gs : List Gen) (l : List Nat) : Option Gen := gs.find? fun g => g.table == l

/-- The number a new generation takes (R313): the first after the CURRENT one, modulo 16, that is not live; on an uncoded tensor the lowest not live. -/
def newGenNum (gs : List Gen) : Nat :=
  let start := match gs.find? fun g => g.st == .current with | some g => g.num + 1 | none => 0
  (((List.range 16).map fun i => (start + i) % 16).find? fun n => !gs.any fun g => g.num == n).getD 0

/-- The generation that was CURRENT becomes OLD. (log entry 28, DEDUCED) -/
def ageCurrent (gs : List Gen) : List Gen := gs.map fun g => if g.st = .current then { g with st := .old } else g

/-- Install a table (R64, R318): the generation found to equal it becomes CURRENT, or a new one is made; its number and whether it was reused. -/
def installTable (gs : List Gen) (l : List Nat) (found : Option Gen) : List Gen × Nat × Bool :=
  match found with
  | some r => ((ageCurrent gs).map fun g => if g.num = r.num then { g with st := .current } else g, r.num, true)
  | none => (ageCurrent gs ++ [{ num := newGenNum gs, table := l, st := .current }], newGenNum gs, false)

/-- The stored format of a tensor of a geometry. -/
def tensorFmt (g : Geo) (tensor : Nat) : Nat := if tensor % 2 = 0 then g.kfmt else g.vfmt

/-- The bit of a tenant in CDR_TRIGHTS (R330). -/
def tableRights (s : State) (t : Nat) : Bool := bitAt (s.fld Fd.CDR_TRIGHTS_TR (t / 64)) (t % 64)

/-- An earlier table command of the profile has not completed (R322). -/
def tablesBusy (s : State) (c : Cmd) : Bool :=
  s.inflight.any fun x => decide (x.uid < c.uid) && (x.opcode == Oc.tableLoad || x.opcode == Oc.tableRetire) &&
    s.profileOf x.tenant == s.profileOf c.tenant

/-- The tables of a TABLE_LOAD with their tensors. -/
def loadTables (c : Cmd) : List (Nat × List Nat) :=
  (List.range (fieldOf c.words 1 2 0)).map fun i =>
    (fieldOf c.words 2 (8 * i + 7) (8 * i), tableLengths (sliceAt (bytesOf c.words) (64 * (1 + 2 * i)) 128))

/-- The first check of R318 that fails. -/
def loadFailure (s : State) (c : Cmd) : Option (Nat × Nat) :=
  let g := s.geo (s.profileOf c.tenant)
  let ts := loadTables c
  if !tableRights s c.tenant then some (Cc.noRights, 0x0123)
  else if ts.isEmpty ∨ ts.any (fun e => decide (2 * g.layers ≤ e.1)) ∨ (ts.map fun e => e.1).eraseDups.length ≠ ts.length then
    some (Cc.formatUnsupported, 0x0120)
  else if ts.any fun e => (symW (tensorFmt g e.1)).isNone then some (Cc.formatUnsupported, 0x0121)
  else if ts.any fun e => !tableOk ((symW (tensorFmt g e.1)).getD 8) e.2 then some (Cc.formatUnsupported, 0x0120)
  else if ts.any fun e =>
      let gs := s.gensOf (s.profileOf c.tenant) e.1
      (reusable gs e.2).isNone && decide (4 ≤ gs.length) then some (Cc.tableGone, 0x0122)
  else none

/-- Install the tables of a TABLE_LOAD in order; RESULT0's bits of each (R318). -/
def State.installAll (s : State) (prof : Nat) : Nat → List (Nat × List Nat) → State × Nat
  | _, [] => (s, 0)
  | i, (t, l) :: rest =>
    let r := installTable (s.gensOf prof t) l (reusable (s.gensOf prof t) l)
    let q := (s.setGens prof t r.1).installAll prof (i + 1) rest
    (q.1, q.2 + r.2.1 * 2 ^ (4 * i) + b2n r.2.2 * 2 ^ (28 + i))

/-- R318: TABLE_LOAD. -/
def opTableLoad (uid : Nat) (s : State) : State :=
  match s.ready uid Oc.tableLoad with
  | none => s
  | some c =>
    if tablesBusy s c then s
    else match loadFailure s c with
      | some e => s.fail c e.1 e.2
      | none =>
        let r := s.installAll (s.profileOf c.tenant) 0 (loadTables c)
        (r.1.finish c Cc.ok (BitVec.ofNat 64 r.2) 0).reclaim
/-- R318. -/
def execTableLoad (uid : Nat) (s : State) : Res := .next (opTableLoad uid s)

/-- The generations that a TABLE_RETIRE names: (tensor, number) (R319). -/
def retireNamed (s : State) (c : Cmd) : List (Nat × Nat) :=
  let w := wordAt c.words 1
  let prof := s.profileOf c.tenant
  let old (t : Nat) : List (Nat × Nat) := ((s.gensOf prof t).filter fun g => g.st == .old).map fun g => (t, g.num)
  if bitsOf w 12 12 = 0 then [(bitsOf w 7 0, bitsOf w 11 8)]
  else if bitsOf w 13 13 = 0 then old (bitsOf w 7 0)
  else (List.range (2 * (s.geo prof).layers)).flatMap old

/-- The first check of R320 that fails. -/
def retireFailure (s : State) (c : Cmd) : Option (Nat × Nat) :=
  let w := wordAt c.words 1
  let prof := s.profileOf c.tenant
  let allOld := bitsOf w 12 12 == 1
  let allT := bitsOf w 13 13 == 1
  if !tableRights s c.tenant then some (Cc.noRights, 0x0123)
  else if (!allT && decide (2 * (s.geo prof).layers ≤ bitsOf w 7 0)) || (allT && !allOld) then some (Cc.formatUnsupported, 0x0120)
  else if allOld then none
  else match s.genNum prof (bitsOf w 7 0) (bitsOf w 11 8) with
    | none => some (Cc.tableGone, 0x0124)
    | some g => if g.st = .current then some (Cc.tableGone, 0x0125) else none

/-- R320: TABLE_RETIRE. -/
def opTableRetire (uid : Nat) (s : State) : State :=
  match s.ready uid Oc.tableRetire with
  | none => s
  | some c =>
    if tablesBusy s c then s
    else match retireFailure s c with
      | some e => s.fail c e.1 e.2
      | none =>
        let prof := s.profileOf c.tenant
        let named := retireNamed s c
        let pages := genUsersOf s prof named
        let s := named.foldl (fun s e => s.setGens prof e.1 ((s.gensOf prof e.1).map fun g => if g.num = e.2 then { g with st := .retiring } else g)) s
        (s.finish c Cc.ok (packWord [(32, named.length), (0, pages)]) 0).reclaim
/-- R320. -/
def execTableRetire (uid : Nat) (s : State) : Res := .next (opTableRetire uid s)

/-- Whether a block list uses a RETIRING generation. -/
def usesRetiring (s : State) (bs : List Block) : Bool :=
  bs.any fun b => b.mode == 1 && ((s.genNum b.prof b.tensor b.gen).map fun g => g.st == .retiring).getD false

/-- The raw bytes of a coded image (R308). -/
def imageRaw (s : State) (prof layer : Nat) (recov : Option Nat) (clens : List Nat) (bs : List Block) : Except (Nat × Corrupt) (List Byte) :=
  decodeBlocks s prof layer recov clens bs (List.range (blockCount (s.geo prof) recov))

/-- The blocks of a page encoded anew under the CURRENT generations, omitted blocks staying omitted (R261, R321). -/
def reencoded (s : State) (prof layer : Nat) (recov : Option Nat) (clens : List Nat) (raw : List Byte) : List Nat × List Block :=
  let gens := ((s.curGen prof (tensorOf layer 0)).map fun g => g.num, (s.curGen prof (tensorOf layer 1)).map fun g => g.num)
  let bs := encodePage s prof layer recov gens raw
  (clens.mapIdx fun i n => if n = 0 then 0 else ((bs.find? fun b => b.block == i).map fun b => b.clen).getD 0,
    bs.filter fun b => clens.getD b.block 0 != 0)

/-- A frame coded anew: every reference moves to the new frame, CLEAN pages become DIRTY and their images are discarded (R321). -/
def State.reencodeFrame (s : State) (h layer : Nat) (c : Chunk) (p : Page) (f : Nat) (x : Frame) (picks : List Nat) : State :=
  match x.body with
  | .raw _ _ => s
  | .coded cl bs =>
    if !usesRetiring s bs then s
    else match imageRaw s c.prof layer p.recov cl bs with
      | .error e => (s.corrupt h layer e.1 e.2).reclaim
      | .ok raw =>
        let r := reencoded s c.prof layer p.recov cl raw
        match s.newFrame picks (max 1 (ceilDiv (codedBytes r.1) 512)) x.owner (.fresh h layer) (.coded r.1 r.2) with
        | none => s
        | some (s, b) =>
          let move (p : Page) : Page :=
            if p.frame = some f then { p with frame := some b, st := if p.st = .clean then .dirty else p.st, image := none } else p
          (({ s with chunks := mapVals (fun _ c => { c with pages := c.pages.map move }) s.chunks }).countBlocks r.2).reclaim

/-- The new image of a flash-only page is written and journalled, and the old one discarded (R321). -/
def State.replaceImage (s : State) (h : Nat) (charge k : Nat) (x : FlashImage) (r : List Nat × List Block) : State :=
  let q := s.tagFor (.fresh h x.layer)
  let y := { x with clens := r.1, blocks := r.2, tag := q.2, progd := true, durable := true }
  match q.1.placeImage (h % 8) 2 charge (imageCodewords y) with
  | none => s
  | some (s, places) => ((({ s with images := mapIns k { y with places } s.images }).markPending).countBlocks r.2).reclaim.fltSync

/-- A flash-only page coded anew through a transient frame; the page stays FLASH (R321). -/
def State.reencodeImage (s : State) (h layer : Nat) (c : Chunk) (p : Page) (k : Nat) (x : FlashImage) : State :=
  if !usesRetiring s x.blocks then s
  else match imageRaw s c.prof layer p.recov x.clens x.blocks with
    | .error e => (s.corrupt h layer e.1 e.2).reclaim
    | .ok raw => s.replaceImage h c.charge k x (reencoded s c.prof layer p.recov x.clens raw)

/-- R321: a steward encodes one page that references a RETIRING generation again. -/
def opPageReencode (h layer : Nat) (picks : List Nat) (s : State) : State :=
  match (s.chunk h).bind fun c => (c.page layer).map fun p => (c, p) with
  | none => s
  | some (c, p) =>
    if decide (c.charge < 1024) && s.tstate c.charge == TState.shredding.code then s
    else match p.st, p.frame.bind (fun f => (mapFind s.frames f).map fun x => (f, x)), p.image.bind (fun k => (mapFind s.images k).map fun x => (k, x)) with
      | .staging, _, _ => s
      | .flash, _, some (k, x) => s.reencodeImage h layer c p k x
      | _, some (f, x), _ => s.reencodeFrame h layer c p f x picks
      | _, _, _ => s
/-- R321. -/
def execPageReencode (handle : Fin 16777216) (layer : Fin 128) (picks : List Nat) (s : State) : Res :=
  .next (opPageReencode handle.val layer.val picks s)

/-- R331 to R333: a write of CDR_GENQ takes a snapshot of a tensor's generations. -/
def opGenerationQuery (v : Word) (s : State) : State :=
  let prof := bitsOf v 15 8
  let tensor := bitsOf v 7 0
  let found := (panelOf s prof).isSome && decide (tensor < 2 * (s.geo prof).layers)
  let gs := if found then (s.gensOf prof tensor) else []
  let sorted := ((List.range 16).filterMap fun n => gs.find? fun g => g.num == n)
  let cur := gs.find? fun g => g.st == .current
  let gensW := if !found then 0 else packWord [(39, b2n cur.isNone), (36, gs.length), (32, (cur.map fun g => g.num).getD 0),
    (16, ((gs.filter fun g => g.st == .retiring).map fun g => 2 ^ g.num).sum), (0, (gs.map fun g => 2 ^ g.num).sum)]
  let s1 := s.setReg .CDR_GENQ 0 (packWord [(62, b2n found), (8, prof), (0, tensor)])
  let s1 := s1.setReg .CDR_GENS 0 gensW
  (List.range 4).foldl (fun s1 i => s1.setReg .CDR_GREF i (match sorted[i]? with
    | some g => packWord [(63, 1), (56, g.num), (0, genUsers s prof tensor g.num)]
    | none => 0)) s1
/-- R331. -/
def execGenerationQuery (value : Word) (s : State) : Res := .next (opGenerationQuery value s)

/-- R338: a write of CDR_HCFG clears the counters, then applies. -/
def opHistogramConfig (v : Word) (s : State) : State :=
  let s := (List.range 256).foldl (fun s i => s.resetReg .CDR_HIST i) s
  let s := s.resetReg .CDR_HSTAT
  { s with histPages := 0 }.setReg .CDR_HCFG 0
    (packWord [(28, bitsOf v 31 28), (16, bitsOf v 23 16), (8, bitsOf v 15 8), (0, bitsOf v 0 0)])
/-- R338. -/
def execHistogramConfig (value : Word) (s : State) : Res := .next (opHistogramConfig value s)

end Sys2Proof.Machine
end

