-- ==== Sys2Proof/Machine/Flash.lean ====
section
/-!
DEFINITION. The flash tier's work: stash, staging, the journal, folding and collection, erases and retirement, failed targets and temperatures (R530 to R576).
-/
namespace Sys2Proof.Machine

/-- The image of a page, with its number. -/
def State.imageOf (s : State) (h layer : Nat) : Option (Nat × FlashImage) :=
  ((s.pageOf h layer).bind fun e => e.2.image).bind fun k => (mapFind s.images k).map fun x => (k, x)

/-! ### Stash (R252, R542 to R544) -/

/-- A page queued for stash (R252): DIRTY, of a chunk that is not volatile, with no image being written. -/
def stashQueued (c : Chunk) (p : Page) : Bool := c.committed && !c.isVolatile && p.st == .dirty && p.image.isNone

/-- R252, R542: a steward writes a queued page as an image: to the SLC buffer while its units in use are fewer than the target, else to native-mode units. (log entry 46, DEDUCED) -/
def opStashPage (h layer : Nat) (s : State) : State :=
  match s.pageOf h layer, s.flash with
  | some (c, p), some g => match ((p.frame.bind fun f => mapFind s.frames f).map fun x => (x.tag, x.body) : Option (ImgTag × FrameBody)) with
    | some (tag, .coded cl bs) =>
      let r := omitMasked (s.geo c.prof) p.recov p.mask cl bs
      let n := ceilDiv (codedBytes r.1) 4096 * 4096
      if !mediaReady s || !stashQueued c p || !stashRuns s c.charge n || ownerDown s h then s
      else
        let x : FlashImage := { handle := h, layer, clens := r.1, blocks := r.2, recov := p.recov, mask := p.mask, tag, places := [], progd := false, durable := false }
        match s.placeImage (h % 8) (if slcInUse s g < s.slcTarget then 0 else 1) c.charge (imageCodewords x) with
        | none => s
        | some (s, places) =>
          let k := lowestFree s.images 0
          (({ s with images := mapIns k { x with places } s.images }).updPage h layer fun p => { p with image := some k }).fltSync
    | _ => s
  | _, _ => s
/-- R252. -/
def execStashPage (handle : Fin 16777216) (layer : Fin 128) (s : State) : Res := .next (opStashPage handle.val layer.val s)

/-- R544: a page becomes CLEAN when its STASH record is durable. -/
def opStashDurable (h layer : Nat) (s : State) : State :=
  match s.pageOf h layer, s.imageOf h layer with
  | some (_, p), some (_, x) =>
    if p.st = .dirty ∧ x.durable ∧ !ownerDown s h then (s.updPage h layer fun p => { p with st := .clean }).ladder else s
  | _, _ => s
/-- R544. -/
def execStashDurable (handle : Fin 16777216) (layer : Fin 128) (s : State) : Res := .next (opStashDurable handle.val layer.val s)

/-! ### Staging (R250, R268, R533, R539, R552, R560) -/

/-- The plane pages of a stripe that hold some of its codewords (R537, R539): four codewords to each. -/
def planePages (p : Place) : List Nat := (List.range 4).filter fun i => decide (p.pos < 4 * i + 4) && decide (4 * i < p.pos + p.cw)

/-- The reads of an image (R539): its stripes, each on its channel, with the plane pages that hold its codewords. -/
def stripeReads (g : FlashGeo) (x : FlashImage) : List (Nat × Nat × List Nat) := x.places.map fun p => (g.chanOf p.unit, g.lunOf p.unit, planePages p)

/-- The LUNs that an image's stripes lie on. -/
def imageLuns (g : FlashGeo) (x : FlashImage) : List Nat := ((stripeReads g x).map fun r => r.2.1).eraseDups

/-- A page that waits for its flash reads: where it is, its rank (R268), its charge holder and image. -/
structure FlashRead where
  handle : Nat
  layer : Nat
  rank : Nat × Nat
  charge : Nat
  image : FlashImage
  deriving DecidableEq, Repr

/-- Put a read behind those that rank before it, or as it does (R268). -/
def insertRead (r : FlashRead) : List FlashRead → List FlashRead
  | [] => [r]
  | x :: xs => if rankBefore r.rank x.rank then r :: x :: xs else x :: insertRead r xs

/-- The STAGING pages in the order of their flash reads (R268). -/
def readOrder (s : State) : List FlashRead :=
  (s.chunks.flatMap fun e => e.2.pages.zipIdx.filterMap fun p =>
    if p.1.st = .staging then
      match p.1.want, p.1.image.bind fun k => mapFind s.images k with
      | some rank, some image => some { handle := e.1, layer := p.2, rank, charge := e.2.charge, image }
      | _, _ => none
    else none).foldl (fun l r => insertRead r l) []

/-- Whether a program is in progress on a LUN: an image being written has a stripe there (R533). -/
def programming (s : State) (g : FlashGeo) (lun : Nat) : Bool := s.images.any fun e => !e.2.progd && (imageLuns g e.2).contains lun

/-- The reads that a LUN's queue takes beside a program in progress, which stays in it suspended: two operations in all (R41, R533). -/
def lunSlots (s : State) (g : FlashGeo) (lun : Nat) : Nat := if programming s g lun then 1 else 2

/-- The reads among these that are issued, in order: the reads of an image's stripes are issued together, once every LUN it lies on has a place, and the stripes that one LUN
cannot hold at once follow in their turn; `used` counts the places taken of each LUN. A read without room in HBM is not issued (R257), nor is one whose steward is down. (log entry 108, DEDUCED) -/
def issueReads (s : State) (g : FlashGeo) (used : NMap Nat) : List FlashRead → List FlashRead
  | [] => []
  | r :: rest =>
    let luns := imageLuns g r.image
    let free (lun : Nat) : Nat := lunSlots s g lun - (mapFind used lun).getD 0
    let n := max 1 (ceilDiv (codedBytes r.image.clens) 512)
    if luns.all (fun l => decide (0 < free l)) && !ownerDown s r.handle && roomFor s r.charge n [] == .ok then
      let want (lun : Nat) : Nat := (stripeReads g r.image).countP fun x => x.2.1 == lun
      let used := luns.foldl (fun (m : NMap Nat) l => mapIns l ((mapFind m l).getD 0 + min (free l) (want l)) m) used
      r :: issueReads s g used rest
    else issueReads s g used rest

/-- The staging reads that are in progress now (R268, R533, R539). -/
def readsIssued (s : State) : List FlashRead :=
  match s.flash with
  | some g => issueReads s g [] (readOrder s)
  | none => []

/-- Whether a staging read is in progress on a LUN that an image lies on: its programs and erases that have not started wait, and those in progress are suspended (R533). -/
def readsAhead (s : State) (places : List Place) : Bool :=
  match s.flash with
  | some g => (readsIssued s).any fun r => (imageLuns g r.image).any fun l => places.any fun p => g.lunOf p.unit == l
  | none => false

/-- View loads whose page has come, or has failed, are answered in the order they came (R246). -/
def State.serveViews (s : State) : List ViewWait → State
  | [] => s
  | w :: rest =>
    let s' : State := match s.pageOf w.handle w.layer with
      | some (_, p) => if p.away then { s with viewWaits := s.viewWaits ++ [w] } else s.answerView w.host w.tenant w.handle w.layer w.byte w.size
      | none => s.answerView w.host w.tenant w.handle w.layer w.byte w.size
    s'.serveViews rest

/-- Answer every view load that need not wait any longer; what it alone kept is let go. -/
def State.pumpViews (s : State) : State := (({ s with viewWaits := [] }).serveViews s.viewWaits).reclaim

/-- A page that has come to HBM is pinned by every attention command that waits for it (R363). -/
def Cmd.pinPage (c : Cmd) (h layer f : Nat) : Cmd :=
  let put (p : AttPage) : AttPage := if p.handle = h ∧ p.src = .wait then { p with src := .frame f } else p
  let on (w : AttWork) : AttWork := { w with seqs := w.seqs.map fun q => { q with pages := q.pages.map put } }
  let waits (w : AttWork) : Bool := decide (w.layer = layer) && (attWaits w).contains h
  match c.work with
  | .attend w => if waits w then { c with fpins := f :: c.fpins, work := .attend (on w) } else c
  | .ring w checked sent => if waits w then { c with fpins := f :: c.fpins, work := .ring (on w) checked sent } else c
  | _ => c

/-- R560: an uncorrectable codeword of a page on flash: the page is POISONED and its image discarded; a CLEAN page read for a move keeps its HBM frame, becomes
DIRTY and is queued for stash again. -/
def State.imageLost (s : State) (h layer : Nat) : State :=
  match s.pageOf h layer with
  | none => s
  | some (_, p) =>
    if p.away then (s.poisonPage h layer).pumpViews
    else if p.st = .clean then (s.updPage h layer fun p => { p with st := .dirty, image := none }).reclaim
    else s

/-- Whether an attention command waits for promotion. -/
def Cmd.attWaiting (c : Cmd) : Bool := (c.attWork.map fun w => attWaits w != []).getD false

/-- A command's wait for demand promotion has ended: it is counted (R384). -/
def State.waitEnds (s : State) (c : Cmd) : State :=
  (s.addFld Fd.ATN_WAIT_DEMANDS 1).setFld Fd.ATN_WAIT_MAXWAITUS
    (max (s.fld Fd.ATN_WAIT_MAXWAITUS) (min (2 ^ 32 - 1) (ceilDiv (s.dtime - c.since) 1000)))

/-- R552: the flash reads of a page, which have been issued, have ended; `readOk` is false where a codeword was uncorrectable. The frame is charged first (R112, R257): without room
the page stays STAGING. (log entry 2, DESIGN CHOICE; log entry 108, DEDUCED) -/
def opStagingComplete (h layer : Nat) (picks : List Nat) (readOk : Bool) (s : State) : State :=
  match s.pageOf h layer, s.imageOf h layer with
  | some (c, p), some (_, x) =>
    if !(readsIssued s).any (fun r => r.handle == h && r.layer == layer) then s
    else if !readOk then s.imageLost h layer
    else
      let r := omitMasked (s.geo c.prof) p.recov p.mask x.clens x.blocks
      let n := max 1 (ceilDiv (codedBytes r.1) 512)
      match roomFor s c.charge n picks with
      | .ok => match s.newFrame picks n h (.kept x.tag) (.coded r.1 r.2) with
        | none => s
        | some (s, b) =>
          let s := s.updPage h layer fun p => { p with st := .clean, frame := some b, ctr := max p.ctr (promTh s), want := none }
          let done := s.inflight.filter fun c => c.attWaiting && !(c.pinPage h layer b).attWaiting
          let s : State := { s with inflight := s.inflight.map fun c => c.pinPage h layer b }
          let s := done.foldl (fun s c => s.waitEnds c) s
          (s.addFld Fd.PGT_CNT0_PROMOTED 1).pumpViews
      | _ => s
  | _, _ => s
/-- R552. -/
def execStagingComplete (handle : Fin 16777216) (layer : Fin 128) (picks : List Nat) (readOk : Bool) (s : State) : Res :=
  .next (opStagingComplete handle.val layer.val picks readOk s)

/-! ### Operations ending (R533, R547, R559) -/

/-- Codewords of an image in a unit. -/
def placedIn (x : FlashImage) (u : Nat) : Nat := (x.places.filterMap fun p => if p.unit = u then some p.cw else none).sum

/-- R547: a program failed: the unit is to be retired, and the failed stripe is written again from HBM. -/
def State.programFailed (s : State) (h layer u : Nat) : State :=
  match s.pageOf h layer, s.imageOf h layer with
  | some (c, _), some (k, x) =>
    let rewrite (x : FlashImage) (more : List Place) : FlashImage :=
      { x with places := x.places.filter (fun (p : Place) => p.unit != u) ++ more }
    if x.progd ∨ placedIn x u = 0 then s
    else
      let s := (s.addFld Fd.FLT_ERR1_PROGFAIL 1).setUnit u { s.unit u with failed := true, opened := none }
      match s.placeImage (h % 8) 1 c.charge (placedIn x u) with
      | some (s, more) => ({ s with images := mapIns k (rewrite x more) s.images }).fltSync
      | none => ((s.updPage h layer fun p => { p with image := none }).reclaim).fltSync
  | _, _ => s

/-- R548: the spare that replaces a unit: of the same channel, or of another. -/
def pickSpare (s : State) (g : FlashGeo) (u : Nat) : Option Nat :=
  let sp := ((List.range g.spareUnits).map (g.sysUnits + ·)).filter fun v => unitSpare s g v
  match sp.find? fun v => g.chanOf v == g.chanOf u with
  | some v => some v
  | none => sp.head?

/-- R548: replace a unit that has gone out of service; without a spare C falls by one unit, and GEO changes. -/
def State.replaceUnit (s : State) (g : FlashGeo) (u : Nat) : State :=
  let s := s.addFld Fd.FLT_SPARE_RETIRED 1
  let s := match pickSpare s g u with
    | some v => s.setUnit v { s.unit v with promoted := true }
    | none => (({ s with flash := s.flash.map (fun (x : FlashGeo) => { x with lost := x.lost + 1 }) }).geoBump 6).reduced
  if sparesLeft s g = 0 then s.requestReplace 4 else s

/-- The same geometry with other target records. -/
def FlashGeo.withTargets (g : FlashGeo) (ts : List FlashTarget) : FlashGeo := { g with targets := ts }

/-- R561: a target goes out of service: pages with a stripe on it are POISONED, and its units count as retired. -/
def opTargetFailed (ch ce : Nat) (s : State) : State :=
  match s.flash with
  | none => s
  | some g =>
    if !g.targets.any (fun t => t.ch == ch && t.ce == ce && t.inService) then s
    else
      let g' : FlashGeo := { g with targets := g.targets.map fun t => if t.ch = ch ∧ t.ce = ce then { t with inService := false } else t }
      let onIt (u : Nat) : Bool := ((g.targetOf u).map fun t => t.ch == ch && t.ce == ce).getD false
      let gone := (List.range g.total).filter fun u => onIt u && !unitGone s g u
      let hit := s.images.filter fun e => e.2.places.any fun p => onIt p.unit
      let s : State := { s with flash := some g' }
      let lose (s : State) (e : Nat × FlashImage) : State := match s.pageOf e.2.handle e.2.layer with
        | some (_, p) =>
          if p.image ≠ some e.1 then s
          else if e.2.durable then s.poisonPage e.2.handle e.2.layer
          else s.updPage e.2.handle e.2.layer fun p => { p with image := none }
        | none => s
      let s := hit.foldl lose s
      let s := (gone.filter fun u => !(decide (g.sysUnits ≤ u) && decide (u < g.cacheStart)) || (s.unit u).promoted).foldl (fun s u => s.replaceUnit g' u) s
      let s := if g'.chans.contains ch then s else s.requestReplace 6
      (s.pumpViews).fltSync
/-- Note of a target whether its last operation has timed out (R561). -/
def FlashGeo.noteLate (g : FlashGeo) (here : FlashTarget → Bool) (late : Bool) : FlashGeo :=
  g.withTargets (g.targets.map fun t => if here t then { t with late } else t)

/-- The targets of some units have ended an operation: none of them has timed out last (R561). -/
def State.targetsAnswer (s : State) (us : List Nat) : State :=
  match s.flash with
  | none => s
  | some g =>
    let here (t : FlashTarget) : Bool := us.any fun u => ((g.targetOf u).map fun x => x.ch == t.ch && x.ce == t.ce).getD false
    { s with flash := some (g.noteLate here false) }

/-- R561: an operation of a target in service has timed out, after 50 ms: it is counted, and the second one in a row takes the target out of service. -/
def State.targetLate (s : State) (ch ce : Nat) : State :=
  match s.flash with
  | none => s
  | some g =>
    let here (t : FlashTarget) : Bool := t.ch == ch && t.ce == ce && t.inService
    if !g.targets.any here then s
    else
      let again := g.targets.any fun t => here t && t.late
      let s : State := { s with flash := some (g.noteLate here true) }
      let s := s.addFld Fd.FLT_ERR1_TIMEOUT 1
      if again then opTargetFailed ch ce s else s

/-- R533, R559, R561: an operation has ended; a program does not end while a read is in progress on its LUN. (log entry 108, DEDUCED) -/
def opFlashOpComplete (op : FlashOp) (s : State) : State :=
  match op with
  | .programmed h layer => match s.imageOf h layer with
    | some (k, x) =>
      if readsAhead s x.places then s
      else { s with images := mapIns k { x with progd := true } s.images }.targetsAnswer (x.places.map Place.unit)
    | none => s
  | .programFailed h layer u => if readsAhead s [{ unit := u, cw := 0, pos := 0 }] then s else (s.programFailed h layer u).targetsAnswer [u]
  | .read h layer hard soft uncorr =>
    let s := s.targetsAnswer (((s.imageOf h layer).map fun e => e.2.places.map Place.unit).getD [])
    let s := ((s.addFld Fd.FLT_ERR0_CORRHARD hard).addFld Fd.FLT_ERR0_CORRSOFT soft).addFld Fd.FLT_ERR1_UNCORR uncorr
    if uncorr = 0 then s
    else
      let first : Option Place := (s.imageOf h layer).bind fun e => e.2.places.head?
      let ch := (first.bind fun p => s.flash.map fun g => g.chanOf p.unit).getD 0
      (s.addFld Fd.FLT_CH_UNCORR uncorr ch).imageLost h layer
  | .timeout ch ce => s.targetLate ch ce
/-- R533. -/
def execFlashOpComplete (op : FlashOp) (s : State) : Res := .next (opFlashOpComplete op s)

/-! ### The journal and checkpoints (R543 to R546) -/

/-- Key holders whose records a flush puts into the journal ring: those whose committed chunks it makes durable (R181, R562). -/
def newHolders (s : State) : List Nat :=
  ((s.chunks.filter fun e => e.2.committed && !((mapFind s.saved.chunks e.1).map fun c => c.committed).getD false).map fun e => e.2.charge).eraseDups

/-- The journal ring moves on to the next unit of the system area, which is erased when it is reached (R563). -/
def State.advanceRing (s : State) (g : FlashGeo) : State :=
  let u := (s.journalUnit + 1) % max 1 g.sysUnits
  let x := s.unit u
  let s := s.setUnit u { EraseUnit.fresh with ec := x.ec + 1, retired := x.retired, failed := x.failed }
  { s with journalUnit := u, eraseLists := mapVals (fun _ l => l.erase u) s.eraseLists }

/-- R544: the waiting journal records are programmed and durable; `wrap` is true where the ring's unit is full and the next one is taken. -/
def opJournalFlush (wrap : Bool) (s : State) : State :=
  match (if s.power.stage = .up ∨ s.power.stage = .starting then s.flash else none : Option FlashGeo) with
  | none => s
  | some g =>
    let s := if wrap then s.advanceRing g else s
    let x := (newHolders s).foldl (fun x hd => EraseUnit.hold x hd) (s.unit s.journalUnit)
    ((s.setUnit s.journalUnit x).flushJournal).fltSync
/-- R544. -/
def execJournalFlush (wrap : Bool) (s : State) : Res := .next (opJournalFlush wrap s)

/-- R546: a checkpoint of the map is written. -/
def opMapCheckpoint (now : Nat) (s : State) : State :=
  let s := s.at_ now
  { s with checkpointAt := s.dtime }
/-- R546. -/
def execMapCheckpoint (now : Nat) (s : State) : Res := .next (opMapCheckpoint now s)

/-! ### The SLC buffer and collection (R541, R542, R549 to R551) -/

/-- R541: once a second the buffer target is taken anew. -/
def opSlcTargetRecompute (s : State) : State :=
  match s.flash with
  | none => s
  | some g => { s with slcTarget := slcTargetUnits g (flashUsePct s) }.setFld Fd.FLT_SPACE_SLCPM (slcTargetPm (flashUsePct s))
/-- R541. -/
def execSlcTargetRecompute (s : State) : Res := .next (opSlcTargetRecompute s)

/-- R551: the step of foreground collection for free space f. (log entry 77, DEDUCED) -/
def throttleStep (f : Nat) : Nat := if f < 10 then 3 else if f < 20 then 2 else 1

/-- R549, R551: foreground collection runs until free space reaches 40 per mille; the step follows free space. (log entry 77, DEDUCED) -/
def opGcStepRecompute (s : State) : State :=
  let f := freePm s
  let fore := s.fld Fd.FLT_SPACE_GC = 2 ∧ f < 40
  let s := if s.fld Fd.FLT_SPACE_GC = 2 ∧ !(decide (f < 40)) then s.setFld Fd.FLT_SPACE_GC (if f < 120 then 1 else 0)
    else if s.fld Fd.FLT_SPACE_GC = 1 ∧ !(decide (f < 120)) then { s with victims := [] }.setFld Fd.FLT_SPACE_GC 0 else s
  s.setFld Fd.FLT_SPACE_STEP (if fore then throttleStep f else 0)
/-- R551. -/
def execGcStepRecompute (s : State) : Res := .next (opGcStepRecompute s)

/-- R550: the victim: of the cache area, with the fewest valid codewords, ties to the one programmed longest ago. (log entry 77, DEDUCED) -/
def nextVictim (s : State) (g : FlashGeo) : Option Nat :=
  (s.units.foldl (fun (best : Option (Nat × Nat × Nat)) e =>
    if unitInCache s g e.1 && !unitGone s g e.1 && decide (0 < e.2.written) && e.2.opened.isNone && !e.2.pend && !e.2.failed && !s.victims.contains e.1 then
      let k := (validCw s e.1, e.2.lastProg, e.1)
      match best with
      | none => some k
      | some b => if k.1 < b.1 ∨ (k.1 = b.1 ∧ k.2.1 < b.2.1) then some k else some b
    else best) none).map fun b => b.2.2

/-- R549: collection starts on a channel that has been idle for `idleUs`: foreground below 30 per mille free, background below 120. (log entry 77, DEDUCED) -/
def opGcStart (idleUs : Nat) (s : State) : State :=
  match s.flash with
  | none => s
  | some g =>
    let f := freePm s
    let fore := decide (f < 30) || (s.fld Fd.FLT_SPACE_GC == 2 && decide (f < 40))
    if !mediaReady s || !(fore || (decide (f < 120) && decide (500 ≤ idleUs))) then s
    else
      let s := s.setFld Fd.FLT_SPACE_GC (if fore then 2 else 1)
      let s := s.setFld Fd.FLT_SPACE_STEP (if fore then throttleStep f else 0)
      match nextVictim s g with
      | some u => { s with victims := s.victims ++ [u] }
      | none => s
/-- R549. -/
def execGcStart (_channel : Fin 32) (idleUs : Nat) (s : State) : Res := .next (opGcStart idleUs s)

/-- Codewords copied by collection and folding, shown in MiB (R569). -/
def State.countCopied (s : State) (n : Nat) : State :=
  let t := s.copiedCw + n
  { s with copiedCw := t % 256 }.addFld Fd.FLT_GCCNT_COPYMIB (t / 256)

/-- R554: the image is copied into native-mode units, the MOVE record is durable, and units left without valid codewords go on the pending-erase list. -/
def State.moveImage (s : State) (h layer : Nat) (readOk : Bool) : State :=
  match s.pageOf h layer, s.imageOf h layer with
  | some (c, _), some (k, x) =>
    if !x.durable then s
    else if !readOk then s.imageLost h layer
    else match s.placeImage (h % 8) 2 c.charge (imageCodewords x) with
      | none => s
      | some (s, places) => (((({ s with images := mapIns k { x with places } s.images }).countCopied (imageCodewords x)).markPending)).fltSync
  | _, _ => s

/-- Whether an image lies in a unit that is being emptied: a victim, a retired or failed unit, or one on an erase list (R550, R547, R563). -/
def mustMove (s : State) (x : FlashImage) : Bool :=
  x.places.any fun p => s.victims.contains p.unit || (s.unit p.unit).failed || (s.unit p.unit).retired || s.eraseLists.any fun e => e.2.contains p.unit

/-- Whether the read of an image for a move gets its turn: the reads of background collection and folding follow those of every DELIVER and demand (R268), foreground collection
has a share of its own, and so do the moves of a shred, which take the time of step 1 (R551, R563). (log entry 108, DEDUCED) -/
def moveRuns (s : State) (h : Nat) (x : FlashImage) : Bool :=
  mediaReady s && !ownerDown s h && (s.fld Fd.FLT_SPACE_GC == 2 || s.eraseLists.any (fun e => e.2 != []) || !readsAhead s x.places)

/-- R554: one image of a unit that is being emptied is moved. -/
def opImageMove (h layer : Nat) (readOk : Bool) (s : State) : State :=
  match s.imageOf h layer with
  | some (_, x) => if moveRuns s h x && mustMove s x then s.moveImage h layer readOk else s
  | none => s
/-- R554. -/
def execImageMove (handle : Fin 16777216) (layer : Fin 128) (readOk : Bool) (s : State) : Res :=
  .next (opImageMove handle.val layer.val readOk s)

/-- R542: an image of the SLC buffer is folded into native-mode units. -/
def opFold (h layer : Nat) (readOk : Bool) (s : State) : State :=
  match s.imageOf h layer with
  | some (_, x) => if moveRuns s h x && x.places.any (fun p => (s.unit p.unit).slc) then s.moveImage h layer readOk else s
  | none => s
/-- R542. -/
def execFold (handle : Fin 16777216) (layer : Fin 128) (readOk : Bool) (s : State) : Res := .next (opFold handle.val layer.val readOk s)

/-! ### Erases, retirement and failed targets (R547, R548, R554, R561, R564) -/

/-- R554: a unit on the pending-erase list, or a unit of the journal ring on an erase list, is erased; it leaves every list. A failed
erase counts and the unit is to be retired. No erase ends while a read is in progress on its LUN (R533, R553). (log entry 108, DEDUCED) -/
def opUnitErase (u : Nat) (ok : Bool) (s : State) : State :=
  match s.flash with
  | none => s
  | some g =>
    let x := s.unit u
    let listed := s.eraseLists.any fun e => e.2.contains u
    if x.retired || x.failed || !(x.pend || (listed && decide (u < g.sysUnits))) || readsAhead s [{ unit := u, cw := 0, pos := 0 }] then s
    else if !ok then ((s.targetsAnswer [u]).setUnit u { x with failed := true }).addFld Fd.FLT_ERR1_ERASEFAIL 1
    else
      let s := (s.targetsAnswer [u]).setUnit u { EraseUnit.fresh with ec := x.ec + 1, promoted := x.promoted }
      let s : State := { s with eraseLists := mapVals (fun _ l => l.erase u) s.eraseLists, victims := s.victims.erase u }
      (s.addFld Fd.FLT_GCCNT_ERASES 1).fltSync
/-- R554. -/
def execUnitErase (unit : Nat) (ok : Bool) (s : State) : Res := .next (opUnitErase unit ok s)

/-- R547, R564: a failed unit is retired; on an erase list it cannot be erased, and is counted and taken off. -/
def opUnitRetire (u : Nat) (s : State) : State :=
  match s.flash with
  | none => s
  | some g =>
    let x := s.unit u
    if !x.failed || x.retired then s
    else
      let listed := s.eraseLists.any fun e => e.2.contains u
      let s := s.setUnit u { x with retired := true, opened := none, pend := false }
      let s := if listed then
          { s with eraseLists := mapVals (fun _ l => l.erase u) s.eraseLists }.addFld Fd.FLT_SHRED_UNERASED 1 else s
      (s.replaceUnit g u).fltSync
/-- R547. -/
def execUnitRetire (unit : Nat) (s : State) : Res := .next (opUnitRetire unit s)

/-- R561. -/
def execTargetFailed (channel : Fin 32) (ce : Fin 8) (s : State) : Res := .next (opTargetFailed channel.val ce.val s)

/-! ### Temperatures (R530, R565) -/

/-- The bucket of a temperature in °C (R565). -/
def tempBucket (t : Int) : Nat := min 63 ((t + 20) / 2).toNat

/-- R565: every target's temperature is read, and a minute of the hottest is counted. -/
def opFlashTempPoll (temps : List (Nat × Nat × Int)) (s : State) : State :=
  match s.flash with
  | none => s
  | some g =>
    let put (t : FlashTarget) : FlashTarget := match temps.find? (fun x => x.1 == t.ch && x.2.1 == t.ce) with
      | some x => { t with temp := x.2.2 }
      | none => t
    let ts := g.targets.map put
    let hot := (ts.filter fun t => t.inService).foldl (fun (m : Option Int) t => match m with | none => some t.temp | some x => some (max x t.temp)) none
    let s : State := { s with flash := some (g.withTargets ts) }
    match hot with
    | none => s
    | some t => (s.addFld Fd.FLT_TEMP_MINUTES 1 (tempBucket t)).fltSync
/-- R565. -/
def execFlashTempPoll (temps : List (Nat × Nat × Int)) (s : State) : Res := .next (opFlashTempPoll temps s)

/-- R530: a target whose temperature has moved 10 °C since its last training is trained again. -/
def opFlashRetrain (ch ce : Nat) (s : State) : State :=
  match s.flash with
  | none => s
  | some g =>
    let train (t : FlashTarget) : FlashTarget :=
      if t.ch = ch ∧ t.ce = ce ∧ t.inService ∧ 10 ≤ (t.temp - t.trained).natAbs then { t with trained := t.temp } else t
    let g' : FlashGeo := { g with targets := g.targets.map train }
    { s with flash := some g' }
/-- R530. -/
def execFlashRetrain (channel : Fin 32) (ce : Fin 8) (s : State) : Res := .next (opFlashRetrain channel.val ce.val s)

end Sys2Proof.Machine
end

