-- ==== Sys2Proof/Machine/Attention.lean ====
section
/-!
DEFINITION. Attention commands: ATTEND, ATTEND_BATCH and VERIFY from their checks to their outputs, results, counters and trimming state (R341 to R385).
-/
namespace Sys2Proof.Machine

/-! ### Fields (R368, R370, R373) -/

/-- What an attention command asks for, whichever of the three it is. -/
structure AttCmd where
  layer : Nat
  kvh0 : Nat
  nkvh : Nat
  qsrc : Nat
  odst : Nat
  ofmt : Nat
  qfmt : Nat
  stats : Bool
  biasOff : Bool
  ncand : Nat
  qaddr : Nat
  oaddr : Nat
  qstride : Nat
  ostride : Nat
  deriving DecidableEq, Repr

/-- The fields of the command's cells; RING_ATTEND's NQ query positions stand where VERIFY's candidates do (R413, R414). -/
def attCmd (s : State) (c : Cmd) : AttCmd :=
  let g := s.geo (s.profileOf c.tenant)
  let w := wordAt c.words 1
  if c.opcode = Oc.ringAttend then
    { layer := bitsOf w 14 8, kvh0 := bitsOf w 18 15, nkvh := bitsOf w 23 19, qsrc := bitsOf w 25 24, odst := bitsOf w 27 26, ofmt := bitsOf w 29 28,
      qfmt := bitsOf w 33 30, stats := bitsOf w 34 34 == 1, biasOff := bitsOf w 35 35 == 1, ncand := bitsOf w 44 36,
      qaddr := (wordAt c.words 2).toNat, oaddr := (wordAt c.words 3).toNat, qstride := 0, ostride := 0 }
  else if c.opcode = Oc.attendBatch then
    { layer := bitsOf w 16 10, kvh0 := 0, nkvh := g.kvheads, qsrc := bitsOf w 20 19, odst := bitsOf w 22 21, ofmt := bitsOf w 24 23,
      qfmt := bitsOf w 28 25, stats := bitsOf w 29 29 == 1, biasOff := bitsOf w 30 30 == 1, ncand := 1,
      qaddr := (wordAt c.words 8).toNat, oaddr := (wordAt c.words 9).toNat, qstride := fieldOf c.words 10 31 0, ostride := fieldOf c.words 11 31 0 }
  else
    { layer := bitsOf w 28 22, kvh0 := bitsOf w 32 29, nkvh := bitsOf w 37 33, qsrc := bitsOf w 39 38, odst := bitsOf w 41 40, ofmt := bitsOf w 43 42,
      qfmt := bitsOf w 47 44, stats := bitsOf w 48 48 == 1, biasOff := bitsOf w 49 49 == 1,
      ncand := if c.opcode = Oc.verify then bitsOf w 53 50 + 1 else 1,
      qaddr := (wordAt c.words 2).toNat, oaddr := (wordAt c.words 3).toNat, qstride := 0, ostride := 0 }

/-- Rows of one sequence (R369, R371, R374). -/
def AttCmd.rows (a : AttCmd) (g : Geo) : Nat := a.ncand * a.nkvh * g.qperkv
/-- Bytes of one sequence's queries (R361). -/
def AttCmd.qBytes (a : AttCmd) (g : Geo) : Nat := a.rows g * rowBytes a.qfmt g.hdim
/-- Bytes of one sequence's outputs with their statistics (R362). -/
def AttCmd.oBytes (a : AttCmd) (g : Geo) : Nat := a.rows g * (g.hdim * outBytes a.ofmt + 8 * b2n a.stats)

/-- The header of the panel that serves a profile (R55). -/
def attHdr (s : State) (prof : Nat) : List Word := ((s.panelCfg prof).map fun p => p.hdr).getD []

/-- Depth and mask of a candidate (R373). -/
def depOf (c : Cmd) (i : Nat) : Nat := fieldOf c.words 5 (4 * i + 3) (4 * i)
/-- R373. -/
def maskOf (c : Cmd) (i : Nat) : Nat := fieldOf c.words (8 + i / 4) (16 * (i % 4) + 15) (16 * (i % 4))

/-- Whether VERIFY's mask and depths are invalid (R375). -/
def verifyBad (c : Cmd) (n : Nat) : Bool :=
  (List.range 16).any fun i =>
    if i < n then (List.range 16).any fun j => bitAt (maskOf c i) j && (decide (n ≤ j) || decide (depOf c i < depOf c j))
    else maskOf c i != 0 || depOf c i != 0

/-- Rows 2 and 3 of R365 that concern the whole command, with R371, R372 and R375. -/
def attFieldFault (s : State) (c : Cmd) : Option Nat :=
  let prof := s.profileOf c.tenant
  let g := s.geo prof
  let h := attHdr s prof
  let a := attCmd s c
  let w := wordAt c.words 1
  let batch := c.opcode == Oc.attendBatch
  let verify := c.opcode == Oc.verify
  let nseq := bitsOf w 9 0
  let dsrc := bitsOf w 18 17
  let common := decide (a.layer < g.layers) && decide (1 ≤ a.nkvh) && decide (a.nkvh ≤ 16) && decide (a.kvh0 + a.nkvh ≤ g.kvheads) && a.qsrc != 3 &&
    (a.odst == 1 || a.odst == 2) && a.oaddr % 64 == 0 && (a.qsrc == 0 || a.qaddr % 64 == 0)
  let own :=
    if c.opcode = Oc.ringAttend then
      a.qsrc != 0 && decide (1 ≤ a.ncand) && decide (a.ncand ≤ 256)
    else if batch then
      a.qsrc != 0 && dsrc != 3 && decide (1 ≤ nseq) &&
        (dsrc == 0 || fieldOf c.words 2 63 0 % 64 == 0) &&
        (nseq == 1 || (a.qstride % 64 == 0 && a.ostride % 64 == 0 && decide (a.qBytes g ≤ a.qstride) && decide (a.oBytes g ≤ a.ostride)))
    else if verify then decide (fieldOf c.words 4 43 22 ≤ fieldOf c.words 4 21 0)
    else decide (1 ≤ fieldOf c.words 4 22 0) && decide (fieldOf c.words 4 44 23 < fieldOf c.words 4 22 0)
  if !(common && own) then some 0x0130
  else if verify && verifyBad c a.ncand then some 0x0133
  else if !bitAt (fieldOf h 1 18 16) a.ofmt then some 0x0131
  else if !bitAt (fieldOf h 1 15 0) a.qfmt then some 0x0132
  else if batch && decide (fieldOf h 7 15 0 < nseq) then some 0x0139
  else none

/-! ### Plain-region sources and destinations (R362) -/

/-- The plain ranges that the command reads, and those it writes. -/
def attRanges (s : State) (c : Cmd) : List (Nat × Nat) × List (Nat × Nat) :=
  let g := s.geo (s.profileOf c.tenant)
  let a := attCmd s c
  let n := if c.opcode = Oc.attendBatch then fieldOf c.words 1 9 0 else 1
  let d := if c.opcode = Oc.attendBatch ∧ fieldOf c.words 1 18 17 = 2 then [((wordAt c.words 2).toNat, 16 * n)] else []
  (d ++ (if a.qsrc = 2 then (List.range n).map fun i => (a.qaddr + i * a.qstride, a.qBytes g) else []),
    if a.odst = 2 then (List.range n).map fun i => (a.oaddr + i * a.ostride, a.oBytes g) else [])

/-- Row 5 of R365: the first range that is unbacked or denied: the detail, and the state with the access recorded. -/
def State.attAccess (s : State) (host : Nat) : List (Nat × Nat × Bool) → Option (State × Nat)
  | [] => none
  | (a, n, wr) :: rest =>
    if n = 0 then s.attAccess host rest
    else if !rangeBacked s host a n then some (s.countUnbacked, 0x013A)
    else match rangeDenied s host a n wr with
      | some x => some (s.deny host false x, 0x0135)
      | none => s.attAccess host rest

/-! ### Resolving the window (R352, R353, R363) -/

/-- The chunks of a sequence with the position each begins at (R352). -/
def chainSpans (s : State) : List Nat → Nat → List (Nat × Chunk × Nat)
  | [], _ => []
  | h :: rest, at_ => match s.chunk h with
    | some c => (h, c, at_) :: chainSpans s rest (at_ + extentOf s c)
    | none => chainSpans s rest at_

/-- R352: the extent of a sequence. -/
def seqExtent (s : State) (q : Seq) : Nat := (q.chain.map fun h => ((s.chunk h).map (extentOf s)).getD 0).sum

/-- What a page resolves to now. -/
def attSrc (c : Chunk) (p : Page) : AttSrc :=
  if c.hollow ∨ p.st = .dropped then .hollow
  else if p.st = .none then .zero
  else if p.st = .poisoned then .poison
  else match p.frame with
    | some f => .frame f
    | none => .wait

/-- The chunks whose positions meet a window, their pages resolved. -/
def attPages (s : State) (q : Seq) (layer lo hi : Nat) : List AttPage :=
  (chainSpans s q.chain 0).filterMap fun e =>
    if e.2.2 < hi ∧ lo < e.2.2 + extentOf s e.2.1 then
      (e.2.1.page layer).map fun p =>
        { handle := e.1, start := e.2.2, len := extentOf s e.2.1, src := attSrc e.2.1 p, recov := p.recov, mask := p.mask }
    else none

/-- Row 6 of R365: the first page whose key or value pair resolves to C or U (R298, R356). -/
def attPairFault (s : State) (prof : Nat) (a : AttCmd) (ps : List AttPage) : Option (Nat × Nat) :=
  let g := s.geo prof
  let pl := planOf (((s.panelCfg prof).map fun p => p.planRec).getD [])
  ps.findSome? fun p =>
    if p.src = .hollow then none
    else
      let f := pageFmts g p.recov
      match pairFault (pairOf (elemOf a.qfmt) (elemOf f.1)) with
      | some e => some e
      | none => pairFault (pairOf (elemOf (probFmt pl.pfmt)) (elemOf f.2))

/-- A sequence of a command, resolved: rows 2, 4 and 6 of R365, which fail it alone in a batch. -/
def attSeq (s : State) (c : Cmd) (q wfirst wend qpos : Nat) : AttSeq :=
  let prof := s.profileOf c.tenant
  let a := attCmd s c
  let bad (hollow : Bool) (code d : Nat) : AttSeq := { wfirst, wend, qpos, hollow, pages := [], queries := [], failed := some (code, d) }
  match s.ownSeq c.tenant q with
  | none => bad false Cc.invalidHandle 0
  | some sq =>
    if seqExtent s sq < wend then bad false Cc.formatUnsupported 0x0130
    else
      let ps := attPages s sq a.layer wfirst wend
      let hollow := ps.any fun p => p.src == .hollow
      match attPairFault s prof a ps with
      | some e => bad hollow e.1 e.2
      | none => { wfirst, wend, qpos, hollow, pages := ps, queries := [], failed := none }

/-- The frames an attention command has pinned. -/
def attFrames (w : AttWork) : List Nat :=
  w.seqs.flatMap fun q => q.pages.filterMap fun p => match p.src with | .frame f => some f | _ => none

/-! ### Counting failures (R366, R381, R383) -/

/-- The output range of a command that is undefined once it has completed POISONED or CANCELLED after its checks (R366): every byte of it holds a free value. (log entry 6, DESIGN CHOICE; log entry 50, DEDUCED) -/
def State.attSmear (s : State) (c : Cmd) : State :=
  let a := attCmd s c
  let g := s.geo (s.profileOf c.tenant)
  let n := if c.opcode = Oc.attendBatch then fieldOf c.words 1 9 0 else 1
  (List.range n).foldl (fun s i =>
    let at_ := a.oaddr + i * a.ostride
    if a.odst = 1 then ({ s.emit (.hostWrite (s.hostOf c.tenant) at_ (freeBytes s (a.oBytes g))) with freeCtr := s.freeCtr + a.oBytes g })
    else s.undefine at_ (a.oBytes g)) s

/-- A completion of an attention command that leaves no output (R366), with its counts (R381 to R384). -/
def State.attFail (s : State) (c : Cmd) (code d : Nat) : State :=
  let s := if code = Cc.cancelled then s.addFld Fd.ATN_CNT1_CANCELS 1
    else if d = 0x0136 then s.addFld Fd.ATN_FAIL_POISON 1
    else if 0x0130 ≤ d ∧ d ≤ 0x0139 ∧ d ≠ 0x0134 ∧ d ≠ 0x0135 then s.addFld Fd.ATN_FAIL_FMTERR 1 else s
  let s := if c.attWaiting then s.waitEnds c else s
  let s := if (code = Cc.cancelled ∨ code = Cc.poisoned) ∧ c.attWork.isSome then s.attSmear c else s
  (s.fail c code d).reclaim

/-- The panel of a tenant. -/
def attPanel (s : State) (t : Nat) : Nat := (panelOf s (s.profileOf t)).getD 0

/-- A command that the panel has taken leaves it (R385). -/
def State.leavePanel (s : State) (c : Cmd) (w : AttWork) : State :=
  if w.taken.isSome then
    let p := attPanel s c.tenant
    s.setFld Fd.ATN_PANEL_INEXEC (s.fld Fd.ATN_PANEL_INEXEC p - 1) p
  else s

/-! ### The rows ATTEND, ATTEND_BATCH and VERIFY -/

/-- Pin what is in HBM and ask for the rest (R363). -/
def State.attBegin (s : State) (c : Cmd) (seqs : List AttSeq) : State :=
  let w : AttWork := { layer := (attCmd s c).layer, seqs, taken := none, waited := false }
  let w := { w with waited := !(attWaits w).isEmpty }
  let s := (attWaits w).foldl (fun s h => s.demand h) s
  s.setCmd { c with since := s.dtime, fpins := attFrames w, work := .attend w }

/-- ATTEND and VERIFY: the checks of R365 in order, then the pages. -/
def State.attOne (s : State) (c : Cmd) (wfirst wend qpos : Nat) : State :=
  match attFieldFault s c with
  | some d => s.attFail c Cc.formatUnsupported d
  | none =>
    let q := attSeq s c (fieldOf c.words 1 21 0) wfirst wend qpos
    let early : Option (Nat × Nat) := match q.failed with
      | some e => if e.2 = 0x0137 ∨ e.2 = 0x0138 then none else some e
      | none => none
    match early with
    | some e => s.attFail c e.1 e.2
    | none =>
      let r := attRanges s c
      match s.attAccess (s.hostOf c.tenant) (r.1.map (fun x => (x.1, x.2, false)) ++ r.2.map fun x => (x.1, x.2, true)) with
      | some (s, d) => s.attFail c Cc.noRights d
      | none => match q.failed with
        | some e => s.attFail c e.1 e.2
        | none => s.attBegin c [q]

/-- R369: ATTEND. -/
def opAttend (uid : Nat) (s : State) : State :=
  match s.readyCut uid Oc.attend 1 with
  | none => s
  | some c => match c.cancel, c.work with
    | some d, _ => s.attFail c Cc.cancelled d
    | none, .ready => s.attOne c (fieldOf c.words 4 44 23) (fieldOf c.words 4 22 0) (fieldOf c.words 5 21 0)
    | none, _ => s
/-- R369. -/
def execAttend (uid : Nat) (s : State) : Res := .next (opAttend uid s)

/-- R374: VERIFY. Its window ends behind the last candidate (R375). -/
def opVerify (uid : Nat) (s : State) : State :=
  match s.readyCut uid Oc.verify 2 with
  | none => s
  | some c => match c.cancel, c.work with
    | some d, _ => s.attFail c Cc.cancelled d
    | none, .ready => s.attOne c (fieldOf c.words 4 43 22) (fieldOf c.words 4 21 0 + (attCmd s c).ncand) (fieldOf c.words 4 21 0)
    | none, _ => s
/-- R374. -/
def execVerify (uid : Nat) (s : State) : Res := .next (opVerify uid s)

/-- The descriptors of a batch (R370), or why they cannot be had. -/
def batchDescs (s : State) (c : Cmd) (n : Nat) (hm : HostMem) : Option (List Byte) :=
  let dsrc := fieldOf c.words 1 18 17
  let a := (wordAt c.words 2).toNat
  if dsrc = 0 then some (sliceAt (inlineBytes c 2) 0 (16 * n))
  else if dsrc = 1 then hostRead hm a (16 * n)
  else if rangePoison s a (16 * n) then none else some (s.plainBytes a (16 * n))

/-- The sequence that a descriptor names: SEQ, WFIRST, NPOS, QPOS (R370). -/
def descSeq (s : State) (c : Cmd) (bs : List Byte) (i : Nat) : AttSeq :=
  let w0 := ofLE (sliceAt bs (16 * i) 8)
  let w1 := ofLE (sliceAt bs (16 * i + 8) 8)
  let npos := natBits w0 44 22
  let wfirst := natBits w1 21 0
  if npos = 0 ∨ npos ≤ wfirst then
    { wfirst, wend := npos, qpos := 0, hollow := false, pages := [], queries := [], failed := some (Cc.formatUnsupported, 0x0130) }
  else attSeq s c (natBits w0 21 0) wfirst npos (natBits w1 43 22)

/-- R370 to R372: ATTEND_BATCH. Its descriptors are read in full before any effect, inline ones once their cells have come. -/
def opAttendBatch (uid : Nat) (hm : HostMem) (s : State) : State :=
  match (s.readyCut uid Oc.attendBatch 2).filter fun c => c.full || fieldOf c.words 1 18 17 != 0 with
  | none => s
  | some c => match c.cancel, c.work with
    | some d, _ => s.attFail c Cc.cancelled d
    | none, .ready => match attFieldFault s c with
      | some d => s.attFail c Cc.formatUnsupported d
      | none =>
        let r := attRanges s c
        match s.attAccess (s.hostOf c.tenant) (r.1.map (fun x => (x.1, x.2, false)) ++ r.2.map fun x => (x.1, x.2, true)) with
        | some (s, d) => s.attFail c Cc.noRights d
        | none =>
          let n := fieldOf c.words 1 9 0
          let reads := if fieldOf c.words 1 18 17 = 2 then [((wordAt c.words 2).toNat, 16 * n)] else []
          match s.coherent c reads [] with
          | (s, false) => s
          | (s, true) => match batchDescs s c n hm with
            | none => s.attFail c Cc.poisoned 0x0134
            | some bs => s.attBegin c ((List.range n).map (descSeq s c bs))
    | none, _ => s
/-- R371. -/
def execAttendBatch (uid : Nat) (hostMem : HostMem) (s : State) : Res := .next (opAttendBatch uid hostMem s)

/-! ### ATTENTION_TAKE (R363, R364) -/

/-- A command with its attention work changed. -/
def Cmd.withAtt (c : Cmd) (w : AttWork) : Cmd :=
  match c.work with
  | .ring _ checked sent => { c with work := .ring w checked sent }
  | _ => { c with work := .attend w }

/-- The attention work of a command in flight, whichever opcode it has. -/
def State.attention (s : State) (uid : Nat) : Option (Cmd × AttWork) := (s.cmd uid).bind fun c => c.attWork.map fun w => (c, w)

/-- A page looked at again: where it was waited for, what it resolves to now; and what trimming has masked of it since (R261, R353). -/
def attAgain (s : State) (layer : Nat) (p : AttPage) : AttPage :=
  match s.pageOf p.handle layer with
  | some (c, x) => { p with src := if p.src = .wait then attSrc c x else p.src, mask := p.mask ||| (if x.frame.isSome then x.mask else 0) }
  | none => p

/-- The attention work of a command, looked at again. -/
def AttWork.again (w : AttWork) (s : State) : AttWork :=
  { w with seqs := w.seqs.map fun q => { q with pages := q.pages.map (attAgain s w.layer) } }

/-- The queries of sequence i (R361), none where they cannot be read. -/
def attQueries (s : State) (c : Cmd) (a : AttCmd) (g : Geo) (hm : HostMem) (i : Nat) : Option (List Byte) :=
  let n := a.qBytes g
  let at_ := a.qaddr + i * a.qstride
  if a.qsrc = 0 then some (sliceAt (inlineBytes c (if c.opcode = Oc.verify then 2 else 1)) 0 n)
  else if a.qsrc = 1 then hostRead hm at_ n
  else if rangePoison s at_ n then none else some (s.plainBytes at_ n)

/-- Read every sequence's queries; a sequence whose queries cannot be read fails (R365, R372). -/
def attFill (s : State) (c : Cmd) (a : AttCmd) (g : Geo) (hm : HostMem) (seqs : List AttSeq) : List AttSeq :=
  seqs.zipIdx.map fun e =>
    if e.1.failed.isSome then e.1
    else match attQueries s c a g hm e.2 with
      | some bs => { e.1 with queries := bs }
      | none => { e.1 with failed := some (Cc.poisoned, 0x0134) }

/-- The panel takes a command whose pages are all pinned (R363); its queries have been read (R364). -/
def State.takeAttention (s : State) (c : Cmd) (w : AttWork) : State :=
  let p := attPanel s c.tenant
  let s := s.setFld Fd.ATN_PANEL_INEXEC (s.fld Fd.ATN_PANEL_INEXEC p + 1) p
  s.setCmd (c.withAtt { w with taken := some s.dtime })

/-- R363: once no page is missing and every query cell has come, the panel takes the command. -/
def opAttentionTake (uid : Nat) (hm : HostMem) (now : Nat) (s : State) : State :=
  match s.attention uid with
  | none => s
  | some (c, w) =>
    if w.taken.isSome then s
    else match c.cancel with
      | some d => s.attFail c Cc.cancelled d
      | none =>
        let s := s.at_ now
        let a := attCmd s c
        let g := s.geo (s.profileOf c.tenant)
        let waited := c.attWaiting
        let w := w.again s
        let c := { c.withAtt w with fpins := attFrames w }
        let s := (if waited && !c.attWaiting then s.waitEnds c else s).setCmd c
        if c.attWaiting then (attWaits w).foldl (fun s h => s.demand h) s
        else if !c.full then s
        else match s.coherent c (if a.qsrc = 2 then (attRanges s c).1 else []) [] with
          | (s, false) => s
          | (s, true) =>
            let w := { w with seqs := attFill s c a g hm w.seqs }
            match c.opcode == Oc.attendBatch, w.seqs.findSome? fun q => q.failed with
            | false, some e => s.attFail c e.1 e.2
            | _, _ => s.takeAttention c w

/-! ### The computation (R341 to R358) -/

/-- A row of a command: its KV head, its query head, the bytes of its query, and the distance at which it attends a position of the window, if it does (R369, R374). -/
structure AttRow where
  kvh : Nat
  qh : Nat
  query : List Byte
  cand : Nat
  deriving DecidableEq, Repr

/-- The distance at which a row attends position p, none where it does not (R369, R374). -/
def attDistance (c : Cmd) (q : AttSeq) (cand p : Nat) : Option Nat :=
  if p < q.wfirst ∨ q.wend ≤ p then none
  else if c.opcode = Oc.verify then
    let base := q.qpos
    if p < base then some (base + depOf c cand - p)
    else if bitAt (maskOf c cand) (p - base) then some (depOf c cand - depOf c (p - base)) else none
  else if p ≤ q.qpos then some (q.qpos - p) else none

/-- The rows of a sequence in order (R369, R371, R374). -/
def attRows (a : AttCmd) (g : Geo) (queries : List Byte) : List AttRow :=
  let n := rowBytes a.qfmt g.hdim
  (List.range (a.rows g)).map fun r =>
    let kvh := a.kvh0 + r / g.qperkv % max 1 a.nkvh
    { kvh, qh := kvh * g.qperkv + r % g.qperkv, query := sliceAt queries (r * n) n, cand := r / (max 1 a.nkvh * max 1 g.qperkv) }

/-- The page that holds a position, with the position counted from the page's first. -/
def attPlace (q : AttSeq) (p : Nat) : Option (AttPage × Nat) :=
  (q.pages.find? fun x => decide (x.start ≤ p) && decide (p < x.start + x.len)).map fun x => (x, p - x.start)

/-- Whether a position may be attended at all (R353): in a chunk that is not hollow, and not masked by trimming. -/
def attOpen (q : AttSeq) (p : Nat) : Bool :=
  match attPlace q p with
  | some (x, i) => x.src != .hollow && !bitAt x.mask (i / 64)
  | none => false

/-- The bias of a query head at a distance (R350, R351), none where the command uses no bias. -/
def attBias (s : State) (prof : Nat) (a : AttCmd) (qh d : Nat) : Option Num :=
  if a.biasOff then none else some (biasAt ((((s.panelCfg prof).map fun x => x.bias).getD []).getD qh ([], 0)) d)

/-- A bias of minus infinity masks its key (R351). -/
def biasMasks (b : Option Num) : Bool := b == some (.inf true)

/-- The distance at which a row attends position p, none where the position is masked for it (R351, R353). -/
def rowSees (s : State) (c : Cmd) (prof : Nat) (a : AttCmd) (q : AttSeq) (r : AttRow) (p : Nat) : Option Nat :=
  if !attOpen q p then none
  else (attDistance c q r.cand p).filter fun d => !biasMasks (attBias s prof a r.qh d)

/-- The positions of a page that some row of KV head h attends. -/
def attendedIn (s : State) (c : Cmd) (prof : Nat) (a : AttCmd) (q : AttSeq) (x : AttPage) (h : Nat) : List Nat :=
  let rows := (attRows a (s.geo prof) []).filter fun r => r.kvh == h
  (List.range x.len).filter fun i => rows.any fun r => (rowSees s c prof a q r (x.start + i)).isSome

/-- The KV heads of a command. -/
def AttCmd.heads (a : AttCmd) : List Nat := (List.range a.nkvh).map (a.kvh0 + ·)

/-- The coding blocks of a page that hold the key and value rows that some positions of each head need. -/
def blocksFor (g : Geo) (recov : Option Nat) (a : AttCmd) (ps : Nat → List Nat) : List Nat :=
  (List.range (blockCount g recov)).filter fun b =>
    (List.range 2).any fun kv =>
      let n := rowBytes (if kv = 0 then (pageFmts g recov).1 else (pageFmts g recov).2) g.hdim
      a.heads.any fun h => (ps h).any fun p =>
        let o := rowOff g recov kv h p
        decide (o < 4096 * b + 4096) && decide (4096 * b < o + n)

/-- The raw page with the needed blocks expanded and every other byte zero. -/
def partRaw (s : State) (prof layer : Nat) (recov : Option Nat) (clens : List Nat) (bs : List Block) (need : List Nat) :
    List Nat → Except (Nat × Corrupt) (List Byte)
  | [] => .ok []
  | b :: rest =>
    let here : Except Corrupt (List Byte) := if need.contains b then decodePageBlock s prof layer recov clens bs b else .ok (List.replicate 4096 0)
    match here with
    | .error k => .error (b, k)
    | .ok x => match partRaw s prof layer recov clens bs need rest with
      | .error e => .error e
      | .ok y => .ok (x ++ y)

/-- The raw bytes of a page as an attention command reads it. -/
def attRaw (s : State) (prof : Nat) (a : AttCmd) (x : AttPage) (ps : Nat → List Nat) : PageRead :=
  let g := s.geo prof
  let size := rawSize g x.recov
  match x.src with
  | .frame f => match mapFind s.frames f with
    | none => .poison
    | some fr => match fr.body with
      | .raw m bad => if bad then .poison else .data (m.read 0 size)
      | .coded cl bs => match partRaw s prof a.layer x.recov cl bs (blocksFor g x.recov a ps) (List.range (blockCount g x.recov)) with
        | .ok raw => .data raw
        | .error e => .corrupt e.1 e.2
  | .zero => .data (List.replicate size 0)
  | _ => .poison

/-- What reading a sequence's attended pages gives: the pages with their raw bytes, or the page that could not be read and, where a block is corrupt, which. -/
def attReads (s : State) (c : Cmd) (prof : Nat) (a : AttCmd) (q : AttSeq) : Except (AttPage × Option (Nat × Corrupt)) (List (AttPage × List Byte)) :=
  q.pages.filterMapM fun x =>
    let ps := attendedIn s c prof a q x
    if a.heads.all fun h => (ps h).isEmpty then .ok none
    else match attRaw s prof a x ps with
      | .data raw => .ok (some (x, raw))
      | .poison => .error (x, none)
      | .corrupt b k => .error (x, some (b, k))

/-- What a row finds at position p: its score there, and the value row. -/
def attAt (s : State) (c : Cmd) (prof : Nat) (a : AttCmd) (q : AttSeq) (raws : List (AttPage × List Byte)) (r : AttRow) (p : Nat) : Option Att :=
  let g := s.geo prof
  let cfg := s.panelCfg prof
  let pl := planOf ((cfg.map fun x => x.planRec).getD [])
  match rowSees s c prof a q r p, raws.find? fun x => decide (x.1.start ≤ p) && decide (p < x.1.start + x.1.len) with
    | some d, some (x, raw) =>
      let f := pageFmts g x.recov
      let i := p - x.start
      let key := sliceAt raw (rowOff g x.recov 0 r.kvh i) (rowBytes f.1 g.hdim)
      let val := sliceAt raw (rowOff g x.recov 1 r.kvh i) (rowBytes f.2 g.hdim)
      some { score := score1 pl a.qfmt f.1 g.hdim r.query key (attBias s prof a r.qh d), vfmt := f.2, v := val }
    | _, _ => none

/-- What a sequence of a command comes to. -/
structure SeqResult where
  partials : List Partial
  /-- Most positions attended by any row (R367). -/
  attPos : Nat
  /-- Pages read: handle, and the attended positions of each KV head, summed. -/
  read : List (Nat × Nat)
  /-- Mass on sub-blocks: (handle, sub-block of the chunk, mass) (R378). -/
  masses : List (Nat × Nat × Nat)
  deriving DecidableEq, Repr

/-- Masses by absolute sub-block, as masses of chunks (R354, R378). -/
def massesByChunk (q : AttSeq) (ms : List (Nat × Nat)) : List (Nat × Nat × Nat) :=
  ms.filterMap fun m => (attPlace q (64 * m.1)).map fun e => (e.1.handle, e.2 / 64, m.2)

/-- R349 to R358: all rows of a sequence. -/
def computeSeq (s : State) (c : Cmd) (q : AttSeq) : Except (AttPage × Option (Nat × Corrupt)) SeqResult :=
  let prof := s.profileOf c.tenant
  let g := s.geo prof
  let a := attCmd s c
  let pl := planOf (((s.panelCfg prof).map fun x => x.planRec).getD [])
  match attReads s c prof a q with
  | .error e => .error e
  | .ok raws =>
    let runs := (attRows a g q.queries).map fun r => runRow pl g.hdim q.wfirst q.wend (attAt s c prof a q raws r)
    let counts := (attRows a g []).map fun r =>
      (q.pages.map fun x => (List.range x.len).countP fun i => (rowSees s c prof a q r (x.start + i)).isSome).sum
    .ok { partials := runs.map fun r => rowPartial pl g.hdim r.st
          attPos := counts.foldl max 0
          read := raws.map fun x => (x.1.handle, (a.heads.map fun h => (attendedIn s c prof a q x.1 h).length).sum)
          masses := massesByChunk q (runs.flatMap rowMasses) }

/-! ### Completion (R362, R365, R367, R372, R378 to R385) -/

/-- R259: a page whose accumulators attention keeps. -/
def trimEligible (s : State) (c : Chunk) (p : Page) : Bool :=
  c.committed && c.spanlen == s.spanOf c && !c.isVolatile && decide (c.charge < 1024) && s.flag Fd.TNT_BIND_TRIM c.charge && p.recov.isNone

/-- Passes that one sequence's tiles make over a page: those of each of its KV heads (R343, R379). -/
def attPasses (s : State) (c : Cmd) : Nat :=
  let prof := s.profileOf c.tenant
  let a := attCmd s c
  a.nkvh * ceilDiv (a.ncand * (s.geo prof).qperkv) (max 1 (fieldOf (attHdr s prof) 7 20 16))

/-- The access counters (R249), and the accumulators and pass counts of eligible pages (R378, R379), of one sequence. (log entry 51, DEDUCED) -/
def State.attAccount (s : State) (layer passes : Nat) (r : SeqResult) : State :=
  let s := r.read.foldl (fun s e => s.updPage e.1 layer fun p => { p with ctr := satAdd 8 p.ctr 1 }) s
  let s := r.read.foldl (fun s e => match s.chunk e.1 with
    | some k => s.updPage e.1 layer fun p => if trimEligible s k p then { p with passes := satAdd 8 p.passes passes } else p
    | none => s) s
  r.masses.foldl (fun s m => match s.chunk m.1 with
    | some k => s.updPage m.1 layer fun p =>
      if trimEligible s k p then { p with acc := p.acc.mapIdx fun i x => if i = m.2.1 then max x m.2.2 else x } else p
    | none => s) s

/-- Write the outputs of sequence i (R362). -/
def State.attWrite (s : State) (c : Cmd) (a : AttCmd) (i : Nat) (r : SeqResult) : State :=
  let bs := outImage a.ofmt a.stats r.partials
  if a.odst = 1 then s.emit (.hostWrite (s.hostOf c.tenant) (a.oaddr + i * a.ostride) bs) else s.plainPut (a.oaddr + i * a.ostride) bs

/-- The bound of a command of this kind over n chunks, in ns, scaled as the plan in use asks (R56, R62): none where the panel is not there. -/
def attBound (s : State) (c : Cmd) (n : Nat) : Option Nat :=
  let prof := s.profileOf c.tenant
  match panelOf s prof, s.panelCfg prof with
  | some p, some cfg =>
    let w := if c.opcode = Oc.attend then 3 else if c.opcode = Oc.attendBatch then 4 else if c.opcode = Oc.verify then 5 else 6
    let scale := ((cfg.plans[s.fld Fd.PANEL_STATE_PLAN p]?).map fun x => x.scale).getD 256
    some ((fieldOf cfg.hdr w 31 0 + n * fieldOf cfg.hdr w 63 32) * scale / 256)
  | _, _ => none

/-- Whether clocks were below FINIT at any moment of a command's execution (R664). (log entry 51, DEDUCED) -/
def wasSlow (s : State) (w : AttWork) : Bool :=
  s.flag Fd.PWR_STATUS_BELOWINIT || (match s.lastSlow, w.taken with | some t, some u => decide (u ≤ t) | _, _ => false)

/-- EXECNS (R367), and a bound exceeded is counted and reported (R385), unless clocks were below FINIT (R664); RING_ATTEND's leaves out the time spent on the ring
(R420). (log entry 51, DEDUCED) -/
def State.attTime (s : State) (c : Cmd) (w : AttWork) (chunks ringNs : Nat) : State × Nat :=
  let ns := min (2 ^ 32 - 1) (s.dtime - w.taken.getD s.dtime)
  match attBound s c chunks with
  | some b => if b < ns - ringNs ∧ !wasSlow s w then ((s.addFld Fd.ATN_PANEL_OVERB 1 (attPanel s c.tenant)).rasEvent 0x010B none none 0 (attPanel s c.tenant), ns) else (s, ns)
  | none => (s, ns)

/-- The depth of the first hollow chunk of a window, 0 for none (R367). -/
def firstHollow (s : State) (q : AttSeq) : Nat :=
  ((q.pages.find? fun p => p.src == .hollow).bind fun p => (s.chunk p.handle).map fun c => c.depth).getD 0

/-- The completions counted by ATN_CNT0 and ATN_CNT1 (R380, R381), and those of R383. (log entry 51, DEDUCED) -/
def State.attCount (s : State) (c : Cmd) (code : Nat) (outFail : Bool) (elems : Nat) : State :=
  let f := if c.opcode = Oc.attend then Fd.ATN_CNT0_ATTENDS else if c.opcode = Oc.attendBatch then Fd.ATN_CNT0_BATCHES else Fd.ATN_CNT1_VERIFIES
  let s := if c.opcode = Oc.ringAttend then s else s.addFld f 1
  let s := if code = Cc.recompute then s.addFld Fd.ATN_FAIL_RECOMP 1 else s
  let s := if outFail then s.addFld Fd.ATN_FAIL_OUTERR 1 else s
  s.addFld Fd.ATN_ELEM_ELEMS elems

/-- Elements of this many attended positions of KV heads: a key and a value row of each (R382). -/
def attElems (g : Geo) (n : Nat) : Nat := 2 * g.hdim * n

/-- The elements that a sequence's rows attend. -/
def seqElems (s : State) (c : Cmd) (q : AttSeq) : Nat :=
  let prof := s.profileOf c.tenant
  let a := attCmd s c
  attElems (s.geo prof) (q.pages.map fun x => (a.heads.map fun h => (attendedIn s c prof a q x h).length).sum).sum

/-- Elements that a command had read before it ended without an output: how many of `n` the order of its tiles decides, which the spec leaves open (R382). (log entry 51, DEDUCED) -/
def State.elemsCut (s : State) (n : Nat) : State := (s.drawn).addFld Fd.ATN_ELEM_ELEMS (s.free % (n + 1))

/-- A command that the panel took is cancelled: what it had read is counted (R382). -/
def State.cutElems (s : State) (c : Cmd) (w : AttWork) : State :=
  if w.taken.isSome then s.elemsCut (w.seqs.map (seqElems s c)).sum else s

/-- R342: a tile boundary: a command whose cancellation is pending stops here and completes CANCELLED. (log entry 2, DESIGN CHOICE; log entry 50, DEDUCED) -/
def opTileBoundary (uid : Nat) (s : State) : State :=
  match s.attention uid with
  | none => s
  | some (c, w) => match c.cancel with
    | some d => ((s.leavePanel c w).cutElems c w).attFail c Cc.cancelled d
    | none => s
/-- R342. -/
def execTileBoundary (uid : Nat) (s : State) : Res := .next (opTileBoundary uid s)

/-- A page that an attention command could not read: a corrupt block makes its pages POISONED (R311). (log entry 50, DEDUCED) -/
def State.attSpoil (s : State) (layer : Nat) (e : AttPage × Option (Nat × Corrupt)) : State :=
  match e.2 with
  | some (b, k) => s.corrupt e.1.handle layer b k
  | none => s

/-- The zero-length read of the last address written closes the outputs in host memory (R267, R362): `last` is the last sequence whose outputs were written. -/
def State.closeOutput (s : State) (c : Cmd) (a : AttCmd) (last : Option Nat) : State :=
  match a.odst, last with
  | 1, some i => s.emit (.hostReadZero (s.hostOf c.tenant) (a.oaddr + i * a.ostride + a.oBytes (s.geo (s.profileOf c.tenant)) - 1))
  | _, _ => s

/-- ATTEND and VERIFY end (R365, R367). -/
def State.endOne (s : State) (c : Cmd) (w : AttWork) (readOk : Bool) : State :=
  let a := attCmd s c
  let g := s.geo (s.profileOf c.tenant)
  match w.seqs with
  | [] => s
  | q :: _ => match computeSeq s c q with
    | .error e => (((s.leavePanel c w).cutElems c w).attSpoil a.layer e).attFail c Cc.poisoned 0x0136
    | .ok r =>
      let outFail := a.odst == 1 && !readOk
      let hollow := firstHollow s q
      let code := if outFail then Cc.partial_ else if hollow ≠ 0 then Cc.recompute else Cc.ok
      let s := s.attWrite c a 0 r
      let s := s.closeOutput c a (some 0)
      let s := (s.attAccount a.layer (attPasses s c) r).attCount c code outFail (attElems g (r.read.map fun e => e.2).sum)
      let (s, ns) := s.attTime c w r.read.length 0
      ((s.leavePanel c w).finish c code
        (packWord [(52, b2n w.waited), (51, b2n outFail), (37, hollow), (23, r.read.length), (0, r.attPos)]) (packWord [(0, ns)])).reclaim

/-- Run the sequences of a batch one after another (R372). -/
def State.runBatch (s : State) (c : Cmd) (a : AttCmd) : List (AttSeq × Nat) → List (Nat × Except (Nat × Nat) SeqResult) → State × List (Nat × Except (Nat × Nat) SeqResult)
  | [], acc => (s, acc)
  | (q, i) :: rest, acc => match q.failed with
    | some e => s.runBatch c a rest (acc ++ [(i, .error e)])
    | none => match computeSeq s c q with
      | .error e => (((s.attSpoil a.layer e).elemsCut (seqElems s c q)).addFld Fd.ATN_FAIL_POISON 1).runBatch c a rest (acc ++ [(i, .error (Cc.poisoned, 0x0136))])
      | .ok r => ((s.attWrite c a i r).attAccount a.layer (attPasses s c) r).runBatch c a rest (acc ++ [(i, .ok r)])

/-- ATTEND_BATCH ends (R372). -/
def State.endBatch (s : State) (c : Cmd) (w : AttWork) (readOk : Bool) : State :=
  let a := attCmd s c
  let g := s.geo (s.profileOf c.tenant)
  let (s, rs) := s.runBatch c a w.seqs.zipIdx []
  let done := rs.filterMap fun e => match e.2 with | .ok r => some (e.1, r) | .error _ => none
  let bad := rs.filterMap fun e => match e.2 with | .ok _ => none | .error x => some (e.1, x)
  let outFail := a.odst == 1 && !readOk && done != []
  let hollown := w.seqs.countP fun q => q.hollow || q.pages.any fun p => p.src == .hollow
  let code := if bad ≠ [] ∨ outFail then Cc.partial_ else if 0 < hollown then Cc.recompute else Cc.ok
  let s := s.closeOutput c a (done.getLast?.map fun e => e.1)
  let s := s.attCount c code outFail (done.map fun e => attElems g (e.2.read.map fun x => x.2).sum).sum
  let (s, ns) := s.attTime c w (done.map fun e => e.2.read.length).sum 0
  let first := bad.head?
  ((s.leavePanel c w).finish c code
    (packWord [(42, b2n w.waited), (41, b2n outFail), (31, hollown), (30, b2n first.isSome), (20, (first.map fun e => e.1).getD 0), (10, bad.length), (0, done.length)])
    (packWord [(40, (first.map fun e => e.2.2).getD 0), (32, (first.map fun e => e.2.1).getD 0), (0, ns)])).reclaim

/-- R365: the tiles of a command that the panel took have ended; `readOk` is false where the final read of a host-memory output returned an error. (log entry 50, DEDUCED) -/
def opAttentionComplete (uid : Nat) (readOk : Bool) (now : Nat) (s : State) : State :=
  match s.attention uid with
  | none => s
  | some (c, w) =>
    if w.taken.isNone ∨ c.opcode = Oc.ringAttend then s
    else match c.cancel with
      | some d => ((s.leavePanel c w).cutElems c w).attFail c Cc.cancelled d
      | none => match (s.at_ now).coherent c [] (attRanges s c).2 with
        | (s, false) => s
        | (s, true) =>
          let w := w.again s
          if c.opcode = Oc.attendBatch then s.endBatch c w readOk else s.endOne c w readOk
end Sys2Proof.Machine
end

