-- ==== Sys2Proof/Machine/PlainRows.lean ====
section
/-!
DEFINITION. What a host's CXL.mem requests at plain regions do: reads that cache shared or exclusive or not at all, writes, and write-backs (R443, R453, R454).
-/
namespace Sys2Proof.Machine

/-- A new request at a plain extent whose release has begun, or has ended, is logged, the first in each 1 ms (R447, R475). (log entry 63, DEDUCED) -/
def State.logReleased (s : State) (h a : Nat) : State :=
  match dpaPlace (dpaExtents s.cacheSf) a with
  | .plain e _ =>
    if (mapFind s.released e).isSome && firstInMs s.unbackedLogAt s.dtime then
      { s with unbackedLogAt := some s.dtime }.cxlNote h 0 0x0F02 a h
    else s
  | _ => s

/-- What stands in the way of a host's request at a DPA. (log entry 61, DEDUCED) -/
inductive Gate where
  | lost | dead | unbacked | denied | ok
  deriving DecidableEq, Repr

/-- R443: a host's request is served where the DPA is backed and R115 or R119 allows it; a lost host's is not accepted (R456). (log entries 31 and 61, DEDUCED) -/
def gate (s : State) (h a : Nat) (wr : Bool) : Gate :=
  if s.lostHosts.contains h then .lost
  else if !hdmServes s then .dead
  else if !backed s h a then .unbacked
  else if (hrtLookup s h false a wr .other).isNone then .denied else .ok

/-- A read that returns poison. -/
def State.poisonRead (s : State) (h n : Nat) : State := s.respondData h (List.replicate n 0) true none

/-- R443, R453: a host's request at the plain-region line that holds a DPA. -/
def State.plainRequest (s : State) (h a : Nat) (op : LineOp) : State :=
  let wr := match op with | .write _ => true | _ => false
  match gate s h a wr with
  | .lost => s
  | .dead => if wr then s.respond h none else s.poisonRead h 64
  | .unbacked =>
    let s := s.countUnbacked.logReleased h a
    if wr then s.respond h none else s.poisonRead h 64
  | .denied =>
    let s := s.deny h false a
    if wr then s.respond h none else s.poisonRead h 64
  | .ok => match dpaPlace (dpaExtents s.cacheSf) a with
    | .plain _ _ => s.wake.request { host := some h, line := a / 64, op, started := false, awaits := [], cls := plainClass s h a wr }
    | _ => s

/-- R453: read, caching shared. -/
def opPlainReadShared (h a : Nat) (s : State) : State := s.plainRequest h a .readShared
/-- R453. -/
def execPlainReadShared (host : HostId) (addr : Nat) (s : State) : Res := .next (opPlainReadShared host.val addr s)

/-- R453: read, caching exclusive. -/
def opPlainReadExclusive (h a : Nat) (s : State) : State := s.plainRequest h a .readExcl
/-- R453. -/
def execPlainReadExclusive (host : HostId) (addr : Nat) (s : State) : Res := .next (opPlainReadExclusive host.val addr s)

/-- R453: read, not caching. -/
def opPlainReadCurrent (h a : Nat) (s : State) : State := s.plainRequest h a .readCur
/-- R453. -/
def execPlainReadCurrent (host : HostId) (addr : Nat) (s : State) : Res := .next (opPlainReadCurrent host.val addr s)

/-- Bytes of one line with their enables: `bs` from byte `a % 64` on, cut at the end of the line. -/
def lineImage (a : Nat) (bs : List (Option Byte)) : List (Option Byte) :=
  let l := (List.replicate (a % 64) none ++ bs).take 64
  l ++ List.replicate (64 - l.length) none

/-- R453: a write with byte enables inside one line. -/
def opPlainWrite (h a : Nat) (bs : List (Option Byte)) (s : State) : State := s.plainRequest h a (.write (lineImage a bs))
/-- R453. -/
def execPlainWrite (host : HostId) (addr : Nat) (bytes : List (Option Byte)) (s : State) : Res := .next (opPlainWrite host.val addr bytes s)

/-- R453: a write-back by the exclusive holder: applied, and the line is held by no host. -/
def opPlainWriteback (h a : Nat) (bs : List Byte) (s : State) : State :=
  if !((s.sfLine (a / 64)).bind fun e => e.excl) == some h then s
  else match gate s h a true with
    | .ok => ((s.wake.putLine (a / 64) ((bs.take 64).map some)).dropHolder (a / 64) h).respond h (plainClass s h a true)
    | .lost => s
    | .dead => (s.dropHolder (a / 64) h).respond h none
    | .unbacked => ((s.countUnbacked.logReleased h a).dropHolder (a / 64) h).respond h none
    | .denied => ((s.deny h false a).dropHolder (a / 64) h).respond h none
/-- R453. -/
def execPlainWriteback (host : HostId) (addr : Nat) (bytes : List Byte) (s : State) : Res := .next (opPlainWriteback host.val addr bytes s)

end Sys2Proof.Machine
end

