-- ==== Sys2Proof/Machine/RingLinks.lean ====
section
/-!
DEFINITION. The Snien ring's forming and frames received, and the CAM cascade (R386 to R394, R421 to R424, R426 to R430, R717).
-/
namespace Sys2Proof.Machine

/-! ### Forming the ring (R391, R392, R717) -/

/-- A FORMED ring breaks (R392); the cascade works only while it is FORMED (R424). -/
def State.ringBreak (s : State) : State :=
  if s.fld Fd.SNL_RING_STATE = ringFormed then (s.setFld Fd.SNL_RING_STATE ringBroken).setFld Fd.SNL_CASC_CASCOK 0 else s

/-- A link begins to train where its cable is present (R391, R717). -/
def State.trainLink (s : State) (l : Nat) : State :=
  if (s.rlink l).cable then s.setReg .SNL_LINK l (packWord [(0, linkTraining)]) else s.setReg .SNL_LINK l 0

/-- R391, R426: a write of SNL_CFG. Fields other than EN take the write only while EN is 0; EN set starts training, and the frames count from zero. (log entry 52, DESIGN CHOICE) -/
def State.ringConfig (s : State) (v : Word) : State :=
  let on := bitsOf v 0 0
  if s.flag Fd.SNL_CFG_EN then
    if on = 1 then s
    else
      let s := s.setFld Fd.SNL_CFG_EN 0
      let s := (s.setFld Fd.SNL_RING_STATE ringOff).setFld Fd.SNL_RING_CAUSE 0
      let s := s.setFld Fd.SNL_CASC_CASCOK 0
      (s.setReg .SNL_LINK 0 0).setReg .SNL_LINK 1 0
  else
    let s := ((s.setFld Fd.SNL_CFG_RINGID (bitsOf v 31 16)).setFld Fd.SNL_CFG_POS (bitsOf v 8 5)).setFld Fd.SNL_CFG_NMEM (bitsOf v 4 1)
    if on = 0 then s
    else
      let s := (s.setFld Fd.SNL_CFG_EN 1).setFld Fd.SNL_RING_STATE ringForming
      let s := (s.setRlink 0 (s.rlink 0).fresh).setRlink 1 (s.rlink 1).fresh
      ((s.setFld Fd.SNL_RING_CAUSE 0).trainLink 0).trainLink 1

/-- R391: SNL_CFG.EN is set, with the fields that the same write carries. -/
def opRingEnable (v : Word) (s : State) : State := s.ringConfig (setBits v 0 0 1)
/-- R391. -/
def execRingEnable (value : Word) (s : State) : Res := .next (opRingEnable value s)

/-- R392: EN is cleared, and the ring is OFF from any state. -/
def opRingDisable (v : Word) (s : State) : State := s.ringConfig (setBits v 0 0 0)
/-- R392. -/
def execRingDisable (value : Word) (s : State) : Res := .next (opRingDisable value s)

/-- What a handshake found inconsistent, by the code of SNL_RING.CAUSE (R392, R427): 0 nothing. The neighbour's place is checked on both links. -/
def handshakeCause (s : State) (l peerId peerPos peerNmem : Nat) (verOk : Bool) : Nat :=
  let n := ringN s
  if peerId ≠ s.fld Fd.SNL_CFG_RINGID then 1
  else if peerNmem ≠ s.fld Fd.SNL_CFG_NMEM then 2
  else if (if l = 0 then peerPos ≠ (ringPos s + 1) % n else ringPos s ≠ (peerPos + 1) % n) then 3
  else if !verOk then 5 else 0

/-- Both links are up and have passed their handshakes (R392). -/
def linksPassed (s : State) : Bool :=
  s.fld Fd.SNL_LINK_STATE 0 == linkUp && s.fld Fd.SNL_LINK_STATE 1 == linkUp && (s.rlink 0).passed && (s.rlink 1).passed

/-- After both links have passed, the ring check is sent east (R392). (log entry 54, DEDUCED) -/
def State.startCheck (s : State) : State :=
  if linksPassed s ∧ (s.fld Fd.SNL_RING_STATE = ringForming ∨ s.fld Fd.SNL_RING_STATE = ringBroken) then
    s.ringPut 0 (.check (ringPos s) (ringPos s) true)
  else s

/-- What a link has sent and the other end has not acknowledged is sent again (R388), from the item on whose frames hold this FSEQ. -/
def State.ringResend (s : State) (l f : Nat) : State :=
  let k := s.rlink l
  (k.sent.dropWhile fun e => decide (e.2.1 ≤ (f + fseqMod - e.1 % fseqMod) % fseqMod)).foldl (fun s e => s.emit (.ring l e.1 k.rxNext e.2.2)) s

/-- R391, R392, R389: a link ends training at a width (0: too few lanes, it stays DOWN; 1: 16 lanes; 2: 32 lanes), with what the handshake carried; what the other end has not
acknowledged is sent again (R388). (log entry 54, DEDUCED) -/
def opRingLinkTrained (l width peerId peerPos peerNmem : Nat) (verOk : Bool) (s : State) : State :=
  let st := s.fld Fd.SNL_LINK_STATE l
  if st ≠ linkTraining ∧ st ≠ linkRetraining then s
  else if width = 0 then s.setReg .SNL_LINK l 0
  else
    let s := s.setReg .SNL_LINK l (packWord [(12, peerPos), (3, width), (0, linkUp)])
    let cause := handshakeCause s l peerId peerPos peerNmem verOk
    let s := s.setRlink l { s.rlink l with passed := cause == 0 }
    let oldest := ((s.rlink l).sent.head?.map fun e => e.1).getD (s.rlink l).txNext
    let s := s.ringResend l oldest
    if cause = 0 then s.ringPump.startCheck
    else if s.fld Fd.SNL_RING_STATE = ringForming then (s.setFld Fd.SNL_RING_STATE ringMismatch).setFld Fd.SNL_RING_CAUSE cause
    else s
/-- R391. -/
def execRingLinkTrained (link : Fin 2) (width : Fin 3) (peerId : BitVec 16) (peerPos peerNmem : Fin 16) (verOk : Bool) (s : State) : Res :=
  .next (opRingLinkTrained link.val width.val peerId.toNat peerPos.val peerNmem.val verOk s)

/-- A link retrains (R388): traffic waits, and a FORMED ring is BROKEN. -/
def State.retrainLink (s : State) (l : Nat) : State :=
  ((s.setFld Fd.SNL_LINK_STATE linkRetraining l).addFld Fd.SNL_LERR_RETRAINS 1 l).ringBreak

/-- R392: a link that is up retrains or goes DOWN. -/
def opRingLinkDown (l : Nat) (retraining : Bool) (s : State) : State :=
  if s.fld Fd.SNL_LINK_STATE l = linkDown then s
  else if retraining then (if s.fld Fd.SNL_LINK_STATE l = linkUp then s.retrainLink l else s)
  else (s.setReg .SNL_LINK l 0).ringBreak
/-- R392. -/
def execRingLinkDown (link : Fin 2) (retraining : Bool) (s : State) : Res := .next (opRingLinkDown link.val retraining s)

/-- R717: the presence of a link's cable changes. (log entry 53, PRESUMED) -/
def opRingCablePresence (l : Nat) (present : Bool) (s : State) : State :=
  let x := s.rlink l
  let s := s.setRlink l { x with cable := present }
  if present then
    if s.flag Fd.SNL_CFG_EN ∧ s.fld Fd.SNL_LINK_STATE l = linkDown then s.trainLink l else s
  else (s.setReg .SNL_LINK l 0).ringBreak
/-- R717. -/
def execRingCablePresence (link : Fin 2) (present : Bool) (s : State) : Res := .next (opRingCablePresence link.val present s)

/-- R392: a ring-check message arrives on SL1, from the position it left last; `ok` says that every position it has passed was in order. This member verifies that it is the next,
and sends another's on; its own forms the ring. (log entry 54, DEDUCED) -/
def opRingCheck (src last : Nat) (ok : Bool) (s : State) : State :=
  let st := s.fld Fd.SNL_RING_STATE
  let good := ok && ringPos s == (last + 1) % ringN s
  if src ≠ ringPos s then s.ringPut 0 (.check src (ringPos s) good)
  else if (st ≠ ringForming ∧ st ≠ ringBroken) ∨ !linksPassed s then s
  else if good then
    ((s.setFld Fd.SNL_RING_STATE ringFormed).incFld Fd.SNL_RING_FORMS 1).ringPump
  else if st = ringForming then (s.setFld Fd.SNL_RING_STATE ringMismatch).setFld Fd.SNL_RING_CAUSE 4
  else s
/-- R392. -/
def execRingCheck (src last : Fin 16) (ok : Bool) (s : State) : Res := .next (opRingCheck src.val last.val ok s)

/-! ### Frames (R387, R388) -/

/-- R388: ask for the expected frame again; a frame that has failed eight replays in a row makes the link retrain. -/
def State.askReplay (s : State) (l : Nat) : State :=
  let x := s.rlink l
  let again := decide (0 < x.replays) && x.replayAt == x.rxNext
  if again && decide (8 ≤ x.replays) then (s.setRlink l { x with replays := 0 }).retrainLink l
  else
    ((s.setRlink l { x with replayAt := x.rxNext, replays := if again then x.replays + 1 else 1 }).addFld Fd.SNL_LERR_REPLAYS 1 l).emit
      (.ringReplay l x.rxNext)

/-- The other end has every frame before this FSEQ: they leave the replay buffer, and what waited for room in it goes out (R388). -/
def State.ringAcked (s : State) (l ack : Nat) : State :=
  let k := s.rlink l
  let gone (e : Nat × Nat × RingItem) : Bool :=
    let d := (ack + fseqMod - (e.1 + e.2.1) % fseqMod) % fseqMod
    decide (d < replayFrames)
  let s := s.setRlink l { k with sent := k.sent.filter fun e => !gone e }
  s.pumpLink l s.ringOut.length

/-- R387, R388: a frame arrives: DATA is accepted in FSEQ order; a bad CRC or a broken order asks for a replay. An IDLE frame acknowledges only, a CONTROL frame has its own
command, and a frame of an invalid TYPE has no effect. (log entry 52, DESIGN CHOICE) -/
def opRingDataFrame (l : Nat) (frame : List Byte) (s : State) : State :=
  if s.fld Fd.SNL_LINK_STATE l ≠ linkUp then s
  else if !frameOk frame then (s.addFld Fd.SNL_LERR_CRCERR 1 l).askReplay l
  else if frameType frame = 0 then s.ringAcked l (frameAck frame)
  else if frameType frame ≠ 1 then s
  else if frameSeq frame ≠ (s.rlink l).rxNext then s.askReplay l
  else (s.setRlink l { s.rlink l with rxNext := (frameSeq frame + 1) % fseqMod, replays := 0 }).ringAcked l (frameAck frame)
/-- R388. -/
def execRingDataFrame (link : Fin 2) (frame : List Byte) (s : State) : Res := .next (opRingDataFrame link.val frame s)

/-- R388, R393: a CONTROL frame arrives, with the credits of the three classes and the replay request that its payload carries, whose layout the spec does not give; what the
request names is sent again. A bad CRC asks for a replay. (log entry 52, DESIGN CHOICE) -/
def opRingControlFrame (l : Nat) (frame : List Byte) (credits : List Nat) (replay : Option Nat) (s : State) : State :=
  if s.fld Fd.SNL_LINK_STATE l ≠ linkUp then s
  else if !frameOk frame then (s.addFld Fd.SNL_LERR_CRCERR 1 l).askReplay l
  else if frameType frame ≠ 2 then s
  else
    let s := s.ringAcked l (frameAck frame)
    let k := s.rlink l
    let s := s.setRlink l { k with credits := k.credits.mapIdx fun i n => n + credits.getD i 0 }
    match replay with
    | some f => s.ringResend l (f % fseqMod)
    | none => s
/-- R388. -/
def execRingControlFrame (link : Fin 2) (frame : List Byte) (credits : List Nat) (replay : Option (Fin 4096)) (s : State) : Res :=
  .next (opRingControlFrame link.val frame credits (replay.map fun f => f.val) s)

/-! ### The CAM cascade (R421 to R424) -/

/-- R421: a member's search word arrives and goes on east until it has been around. -/
def opCamSearch (src cpos uid : Nat) (word : List Word) (s : State) : State :=
  if src = ringPos s then s
  else
    let r : CamReq := { src, cpos, uid, word, sentAt := s.dtime, done := false }
    ({ s with camReqs := s.camReqs ++ [r] } : State).ringPut 0 (.camSearch src cpos uid word)
/-- R421. -/
def execCamSearch (src cpos : Fin 16) (uid : Nat) (word : List Word) (s : State) : Res := .next (opCamSearch src.val cpos.val uid word s)

/-- The lowest handle whose CAM entry a search word matches (R192, R194); in a WIDE pair, also by the span keys of its parent and grandparent (R197). (log entry 42, DEDUCED) -/
def camMatch (s : State) (w : List Word) : Option Nat :=
  let mask := s.fld Fd.CAM_REVMASK_REVMASK
  let ns := fieldOf w 1 10 0
  let prof := fieldOf w 1 18 11
  let rev := fieldOf w 1 34 19
  let d := fieldOf w 1 37 35 + 1
  (s.chunks.find? fun e => e.2.hotroot && e.2.linked && e.2.key == wordAt w 0 && e.2.ns == some ns && e.2.prof == prof &&
    (e.2.rev ||| mask) == (rev ||| mask) && e.2.depth == d &&
    (!s.flag Fd.CAM_CFG_WIDE || ancestorKeys s e.2 == (wordAt w 2, wordAt w 3))).map fun e => e.1

/-- The cascade position that owns a slot (R421). (log entry 59, DEDUCED) -/
def slotOwner (s : State) (slot : Nat) : Nat := slot % (s.fld Fd.CAM_CFG_NMEM + 1)

/-- An answer for a LOOKUP that waits on the cascade. -/
def State.camAnswer (s : State) (uid : Nat) (a : CascAnswer) : State :=
  match s.cmd uid with
  | some c => (match c.work with
    | .lookup as => s.setCmd { c with work := .lookup (as ++ [a]) }
    | _ => s)
  | none => s

/-- A search of this member's own. -/
def ownSearch (s : State) (r : CamReq) : Bool := r.src == ringPos s

/-- R421, R422: a slot: the oldest search of its owner that was broadcast at least 1.0 µs before is resolved. MATCH_OUT is high when MATCH_IN is or an entry matches; the
member that matches with MATCH_IN low answers the originator with its ring position and handle (R196). MATCH_IN of position 0 is held low. (log entry 59, DEDUCED) -/
def opCascadeSlot (slot : Nat) (matchIn : Bool) (s : State) : State :=
  let s := s.at_ (128 * slot)
  let high := matchIn && decide (0 < s.fld Fd.CAM_CFG_POS)
  match s.camReqs.find? fun r => r.cpos == slotOwner s slot && !r.done && decide (r.sentAt + 1000 ≤ 128 * slot) with
  | none => s.emit (.matchOut slot high)
  | some r =>
    let hit := camMatch s r.word
    let s := { s with camReqs := s.camReqs.filterMap fun x => if x = r then (if ownSearch s r then some { r with done := true } else none) else some x }
    let s := s.emit (.matchOut slot (high || hit.isSome))
    match hit with
    | some h =>
      if high then s
      else if ownSearch s r then
        ({ s with camReqs := s.camReqs.filter fun x => !(ownSearch s x && x.uid == r.uid) } : State).camAnswer r.uid .miss
      else s.ringSend r.src (.camHit r.src r.uid (ringPos s) h)
    | none => s
/-- R421. -/
def execCascadeSlot (slot : Nat) (matchIn : Bool) (s : State) : Res := .next (opCascadeSlot slot matchIn s)

/-- A search of this member whose answer is in leaves the list. -/
def State.camDone (s : State) (uid : Nat) (a : CascAnswer) : State :=
  if s.camReqs.any fun r => ownSearch s r && r.uid == uid then
    ({ s with camReqs := s.camReqs.filter fun r => !(ownSearch s r && r.uid == uid) } : State).camAnswer uid a
  else s

/-- R422: a cascade hit arrives for its originator, or passes on. (log entry 59, DEDUCED) -/
def opCamHit (link dst uid pos handle : Nat) (s : State) : State :=
  if dst ≠ ringPos s then s.ringPut (1 - link) (.camHit dst uid pos handle)
  else s.camDone uid (.hit pos handle)
/-- R422. -/
def execCamHit (link : Fin 2) (dst : Fin 16) (uid : Nat) (pos : Fin 16) (handle : Fin 16777216) (s : State) : Res :=
  .next (opCamHit link.val dst.val uid pos.val handle.val s)

/-- R422: no CAM_HIT within 1.0 µs after the originator's slot: a cascade miss. A search whose cascade has stopped working misses too (R424). (log entry 59, DEDUCED) -/
def opCascadeMissTimeout (uid : Nat) (s : State) : State :=
  if s.camReqs.any fun r => ownSearch s r && r.uid == uid && (r.done || !s.flag Fd.SNL_CASC_CASCOK) then s.camDone uid .miss else s
/-- R422. -/
def execCascadeMissTimeout (uid : Nat) (s : State) : Res := .next (opCascadeMissTimeout uid s)

end Sys2Proof.Machine
end

