-- ==== Sys2Proof/Machine/RingBulk.lean ====
section
/-!
DEFINITION. Ring contexts and bulk copy: contexts opened, aborted and closed; descriptors; GET, PUT and REDUCE-PUT at both ends; FENCE (R396 to R412, R431 to R434).
-/
namespace Sys2Proof.Machine

/-! ### Contexts (R399 to R402) -/

/-- States of a ring context (R432). -/
def ctxClosed : Nat := 0
/-- R432. -/
def ctxOpen : Nat := 1
/-- R432. -/
def ctxAborting : Nat := 2
/-- R432. -/
def ctxAborted : Nat := 3

/-- A context's state. -/
def ctxState (s : State) (c : Nat) : Nat := s.fld Fd.SNL_CTX_ST_STATE c

/-- A context beside its registers. -/
def State.rctxOf (s : State) (c : Nat) : RingCtx := (mapFind s.rctx c).getD { descs := [], hdrs := [], blocks := [], why := 0 }

/-- Put a context back. -/
def State.setRctx (s : State) (c : Nat) (x : RingCtx) : State := { s with rctx := mapIns c x s.rctx }

/-- Whether a tenant is sealed. -/
def tenantSealed (s : State) (t : Nat) : Bool := s.flag Fd.TNT_STATE_SEALED t

/-- The context that a FENCE or a RING_ATTEND names (R409, R413). -/
def ctxNamed (c : Cmd) : Nat := fieldOf c.words 1 7 0

/-- RING_ATTENDs under way in a context. -/
def ringWorks (s : State) (c : Nat) : List Cmd :=
  s.inflight.filter fun x => x.opcode == Oc.ringAttend && ctxNamed x == c && (match x.work with | .ring _ _ _ => true | _ => false)

/-- OUTST: descriptors and RING_ATTENDs outstanding (R432). -/
def ctxOutstanding (s : State) (c : Nat) : Nat := (s.rctxOf c).descs.length + (ringWorks s c).length

/-- The oldest outstanding item's moment and its index or RTAG (R412). -/
def ctxOldest (s : State) (c : Nat) : Option (Nat × Nat) :=
  let items := ((s.rctxOf c).descs.map fun d => (d.since, d.idx)) ++ (ringWorks s c).map fun x => (x.since, fieldOf x.words 6 31 0)
  items.foldl (fun m x => match m with
    | none => some x
    | some y => if x.1 < y.1 then some x else some y) none

/-- SNL_CTX_AGE as it reads (R434). -/
def ctxAgeWord (s : State) (c : Nat) : Word :=
  match ctxOldest s c with
  | some (at_, id) => packWord [(32, id), (0, min (2 ^ 32 - 1) ((s.dtime - at_) / 1000))]
  | none => 0

/-- SNL_CTX_ST as it reads (R432). -/
def ctxStWord (s : State) (c : Nat) : Word := setBits (s.reg .SNL_CTX_ST c) 31 16 (ctxOutstanding s c)

/-- Whether a plain range may be read and written by a host (R115, R399). -/
def rangeOpen (s : State) (h a n : Nat) : Bool := rangeBacked s h a n && (rangeDenied s h a n false).isNone && (rangeDenied s h a n true).isNone

/-- LAYOUT of a panel's profile (R55). -/
def layoutOf (s : State) (prof : Nat) : Nat := ((s.panelCfg prof).map fun p => fieldOf p.hdr 0 40 39).getD 0

/-- The code of R432 that refuses OPEN, 0 where nothing does (R399). (log entry 55, DEDUCED) -/
def openError (s : State) (c : Nat) : Nat :=
  let t := s.fld Fd.SNL_CTX_CTL_TENANT c
  let peers := s.fld Fd.SNL_CTX_CTL_PEERS c
  let mode := s.fld Fd.SNL_CTX_CTL_MODE c
  let p := s.fld Fd.SNL_CTX_CTL_PANEL c
  let log := s.fld Fd.SNL_CTX_DL_DLLOG c
  if ctxState s c ≠ ctxClosed ∨ 1 < mode then 1
  else if !s.active t then 2
  else if tenantSealed s t then 3
  else if peers = 0 ∨ 2 ^ ringN s ≤ peers ∨ bitAt peers (ringPos s) then 6
  else if mode = 0 then
    let h := s.hostOf t
    if log < 6 ∨ 12 < log ∨ !rangeOpen s h (4096 * s.fld Fd.SNL_CTX_DL_DLBASE c) (64 * 2 ^ log) ∨
      !rangeOpen s h (64 * s.fld Fd.SNL_CTX_TAIL_TAILADDR c) 64 then 5 else 0
  else if s.fld Fd.PANEL_STATE_STATE p ≠ 1 ∨ layoutOf s (s.fld Fd.PANEL_STATE_PROFILE p) ≠ 2 ∨ s.profileOf t ≠ s.fld Fd.PANEL_STATE_PROFILE p then 4
  else 0

/-- R431: a write of SNL_CTX_CTL; fields other than ACTION take it only while the context is CLOSED. -/
def State.ctxFields (s : State) (c : Nat) (v : Word) : State :=
  if ctxState s c = ctxClosed then
    s.setReg .SNL_CTX_CTL c (packWord [(32, bitsOf v 47 32), (16, bitsOf v 25 16), (8, bitsOf v 13 8), (4, bitsOf v 5 4)])
  else s

/-- A refused action sets ERR and changes nothing else. -/
def State.ctxRefuse (s : State) (c e : Nat) : State := s.setFld Fd.SNL_CTX_ST_ERR e c

/-- R399: OPEN. Its first descriptor is that of index 0. (log entry 55, DEDUCED) -/
def opRingCtxOpen (c : Nat) (v : Word) (s : State) : State :=
  let s := s.ctxFields c v
  let e := openError s c
  if e ≠ 0 then s.ctxRefuse c e
  else
    let s := s.setRctx c { descs := [], hdrs := [], blocks := [], why := 0 }
    (s.setFld Fd.SNL_CTX_ST_STATE ctxOpen c).setFld Fd.SNL_CTX_ST_TAKEN 0 c
/-- R399. -/
def execRingCtxOpen (ctx : Fin 256) (value : Word) (s : State) : Res := .next (opRingCtxOpen ctx.val value s)

/-- R402: a context begins to abort: its descriptors end CANCELLED, its FENCEs complete CANCELLED, and its RING_ATTENDs stop at their next tile boundary. -/
def State.abortCtx (s : State) (c why : Nat) : State :=
  if ctxState s c ≠ ctxOpen then s
  else
    let x := s.rctxOf c
    let s := s.setRctx c { x with why, descs := x.descs.map fun d => { d with left := [], res := some (Cc.cancelled, why) } }
    let s := s.setFld Fd.SNL_CTX_ST_STATE ctxAborting c
    let fences := s.inflight.filter fun k => k.opcode == Oc.fence && k.full && k.early == none && ctxNamed k == c
    let s := fences.foldl (fun s k => s.fail k Cc.cancelled why) s
    { s with inflight := s.inflight.map fun k => if (ringWorks s c).contains k then { k with cancel := some why } else k }

/-- R399, R402: RING_CTX_ABORT. -/
def opRingCtxAbort (c : Nat) (v : Word) (s : State) : State :=
  let s := s.ctxFields c v
  if ctxState s c = ctxOpen then s.abortCtx c 0x0143 else s.ctxRefuse c 1
/-- R402. -/
def execRingCtxAbort (ctx : Fin 256) (value : Word) (s : State) : Res := .next (opRingCtxAbort ctx.val value s)

/-- R399: CLOSE, with nothing outstanding or after an abort. -/
def opRingCtxClose (c : Nat) (v : Word) (s : State) : State :=
  let s := s.ctxFields c v
  if (ctxState s c = ctxOpen ∧ ctxOutstanding s c = 0) ∨ ctxState s c = ctxAborted then s.setFld Fd.SNL_CTX_ST_STATE ctxClosed c
  else s.ctxRefuse c 1
/-- R399. -/
def execRingCtxClose (ctx : Fin 256) (value : Word) (s : State) : Res := .next (opRingCtxClose ctx.val value s)

/-- R402: an aborting context with nothing outstanding is ABORTED. -/
def opRingAbortComplete (c : Nat) (s : State) : State :=
  if ctxState s c = ctxAborting ∧ ctxOutstanding s c = 0 then
    (s.setRctx c { s.rctxOf c with hdrs := [], blocks := [] }).setFld Fd.SNL_CTX_ST_STATE ctxAborted c
  else s
/-- R402. -/
def execRingAbortComplete (ctx : Fin 256) (s : State) : Res := .next (opRingAbortComplete ctx.val s)

/-! ### Descriptors (R404 to R406) -/

/-- The address of a descriptor's slot (R404). -/
def slotAddr (s : State) (c i : Nat) : Nat := 4096 * s.fld Fd.SNL_CTX_DL_DLBASE c + 64 * (i % 2 ^ s.fld Fd.SNL_CTX_DL_DLLOG c)

/-- The address of a context's tail word (R433). -/
def tailAddr (s : State) (c : Nat) : Nat := 64 * s.fld Fd.SNL_CTX_TAIL_TAILADDR c

/-- R405: a host writes a context's tail word. -/
def opDescriptorTailWrite (h c : Nat) (v : Word) (s : State) : State := opPlainWrite h (tailAddr s c) ((leBytes 8 v.toNat).map some) s
/-- R405. -/
def execDescriptorTailWrite (host : HostId) (ctx : Fin 256) (value : Word) (s : State) : Res := .next (opDescriptorTailWrite host.val ctx.val value s)

/-- The bytes of an element of a reduction (R404). -/
def elemBytes (rtype : Nat) : Nat := if rtype = 4 then 8 else if rtype = 0 ∨ rtype = 3 then 4 else 2

/-- A message's parts of LEN bytes, by offset in 64-byte units: 4,096 bytes each, the last one what is left. -/
def partsOf (len : Nat) : List Nat := (List.range (ceilDiv len 4096)).map fun i => 64 * i

/-- The bytes of the part at an offset. -/
def partLen (len off : Nat) : Nat := min 4096 (len - 64 * off)

/-- Whether a descriptor's fields are valid (R406). -/
def descOk (s : State) (c : Nat) (d : RingDesc) : Bool :=
  (d.op == 1 || d.op == 2 || d.op == 3) && d.peer != ringPos s && bitAt (s.fld Fd.SNL_CTX_CTL_PEERS c) d.peer && (d.op != 3 || decide (d.rtype ≤ 4)) &&
    decide (0 < d.len) && d.len % 64 == 0 && d.laddr % 64 == 0 && d.raddr % 64 == 0

/-- The descriptor that a slot's bytes hold. (log entry 58, DEDUCED) -/
def descOfBytes (bs : List Byte) (idx now : Nat) : RingDesc :=
  let ws := wordsOf bs
  { idx, op := fieldOf ws 0 3 0, peer := fieldOf ws 0 7 4, rtype := fieldOf ws 0 10 8, len := fieldOf ws 0 63 32, laddr := (wordAt ws 1).toNat,
    raddr := (wordAt ws 2).toNat, left := [], since := now, res := none }

/-- The lines of a range that read as poison, counted from its first line. -/
def badLines (s : State) (a n : Nat) : List Nat := (List.range (ceilDiv n 64)).filter fun i => linePoison s (a / 64 + i)

/-- A ring message without data. -/
def RingMsg.bare (mtype src dst ctx didx off addr : Nat) : RingMsg :=
  { mtype, src, dst, ctx, len := 0, didx, off, addr, rtype := 0, status := 0, detail := 0, data := [], bad := [] }

/-- Send the messages of a descriptor that has been taken and checked. -/
def State.sendDesc (s : State) (c : Nat) (d : RingDesc) : State :=
  (partsOf d.len).foldl (fun s off =>
    let n := partLen d.len off
    let m := RingMsg.bare (if d.op = 1 then 1 else if d.op = 2 then 3 else 4) (ringPos s) d.peer c d.idx off (d.raddr + 64 * off)
    let m := if d.op = 1 then { m with len := n }
      else { m with len := n, rtype := d.rtype, data := s.plainBytes (d.laddr + 64 * off) n, bad := badLines s (d.laddr + 64 * off) n }
    s.ringSend d.peer (.msg m)) s

/-- A descriptor joins those outstanding, and TAKEN moves on. -/
def State.addDesc (s : State) (c : Nat) (d : RingDesc) : State :=
  let s := s.setRctx c { s.rctxOf c with descs := (s.rctxOf c).descs ++ [d] }
  s.setFld Fd.SNL_CTX_ST_TAKEN (d.idx + 1) c

/-- The job number under which the controller reads a context's slots (R453). -/
def ctxJob (c : Nat) : Nat := 2 * jobBase + c

/-- Descriptors outstanding device-wide. -/
def descsAll (s : State) : Nat := (s.rctx.map fun e => e.2.descs.length).sum

/-- Whether the next descriptor may be taken: it is below the tail, and the limits of R405 hold. (log entry 58, DEDUCED) -/
def takeReady (s : State) (c : Nat) : Bool :=
  let d := (2 ^ 32 + ofLE (s.plainBytes (tailAddr s c) 8) - s.fld Fd.SNL_CTX_ST_TAKEN c) % 2 ^ 32
  ctxState s c == ctxOpen && s.fld Fd.SNL_CTX_CTL_MODE c == 0 && decide (0 < d) && decide (d < 2 ^ 31) &&
    decide ((s.rctxOf c).descs.length < 2 ^ s.fld Fd.SNL_CTX_DL_DLLOG c) && decide (descsAll s < 32768)

/-- R405, R406: the next descriptor of a context is taken, checked, and its messages sent. (log entry 58, DEDUCED) -/
def opDescriptorTake (c : Nat) (s : State) : State :=
  if !takeReady s c then s
  else
    let idx := s.fld Fd.SNL_CTX_ST_TAKEN c
    let a := slotAddr s c idx
    let job := ctxJob c
    match s.wake.coherentFor job ((mapFind s.curLog job).getD []) [(a, 64)] [] with
    | (s, false) => s
    | (s, true) =>
      let d := descOfBytes (s.plainBytes a 64) idx s.dtime
      let h := s.hostOf (s.fld Fd.SNL_CTX_CTL_TENANT c)
      let ended (s : State) (code detail : Nat) : State := s.addDesc c { d with res := some (code, detail) }
      if linePoison s (a / 64) then ended s Cc.poisoned 0x0148
      else if !descOk s c d then ended s Cc.formatUnsupported 0x0149
      else if !rangeBacked s h d.laddr d.len then ended s.countUnbacked Cc.noRights 0x0146
      else match rangeDenied s h d.laddr d.len (d.op == 1) with
        | some x => ended (s.deny h false x) Cc.noRights 0x0146
        | none => match s.coherentJob job ((a, 64) :: if d.op = 1 then [] else [(d.laddr, d.len)]) [] with
          | (s, false) => s
          | (s, true) =>
            let bad := d.op != 1 && rangePoison s d.laddr d.len
            let d := { d with left := partsOf d.len, res := if bad then some (Cc.poisoned, 0x0148) else none }
            (s.addDesc c d).sendDesc c d
/-- R406. -/
def execDescriptorTake (ctx : Fin 256) (s : State) : Res := .next (opDescriptorTake ctx.val s)

/-- A part of a descriptor is confirmed, with its outcome; the first failure stands. -/
def State.confirm (s : State) (c idx off status detail : Nat) : State :=
  let x := s.rctxOf c
  s.setRctx c { x with descs := x.descs.map fun d =>
    if d.idx = idx ∧ d.left.contains off then
      { d with left := d.left.erase off, res := if d.res.isNone ∧ status ≠ Cc.ok then some (status, detail) else d.res }
    else d }

/-- The word 3 that ends a descriptor (R404). (log entry 58, DEDUCED) -/
def doneWord (code detail : Nat) : Word := packWord [(63, 1), (48, code), (0, detail)]

/-- R406: a descriptor with nothing left to confirm ends: the controller writes DONE, STATUS and DETAIL into its slot. -/
def opDescriptorDone (c idx : Nat) (s : State) : State :=
  let x := s.rctxOf c
  match x.descs.find? fun d => d.idx == idx && d.left.isEmpty with
  | none => s
  | some d =>
    let a := slotAddr s c idx + 24
    match s.coherentJob (ctxJob (256 + c)) [] [(a, 8)] with
    | (s, false) => s
    | (s, true) =>
      let r := d.res.getD (Cc.ok, 0)
      (s.plainPut a (leBytes 8 (doneWord r.1 r.2).toNat)).setRctx c { x with descs := x.descs.erase d }
/-- R406. -/
def execDescriptorDone (ctx : Fin 256) (idx : BitVec 32) (s : State) : Res := .next (opDescriptorDone ctx.val idx.toNat s)

/-! ### Messages at their target (R400, R406, R407) -/

/-- An integer sum that wraps (R407). -/
def wrapSum (n : Nat) (a b : List Byte) : List Byte := leBytes n (ofLE a + ofLE b)

/-- R407: one element's update. -/
def reduceElem (rtype : Nat) (e x : List Byte) : List Byte :=
  if rtype = 0 then leBytes 4 (bits32 (fadd (val32 (ofLE e)) (val32 (ofLE x))))
  else if rtype = 1 then leBytes 2 (bitsBf (((valBf (ofLE e)).add (valBf (ofLE x))).round bf16))
  else if rtype = 2 then leBytes 2 (bits16 (((val16 (ofLE e)).add (val16 (ofLE x))).round fp16))
  else wrapSum (elemBytes rtype) e x

/-- R407: the elements of a destination with those of a source added. -/
def reduceBytes (rtype : Nat) (dst src : List Byte) : List Byte :=
  let w := elemBytes rtype
  (List.range (src.length / w)).flatMap fun i => reduceElem rtype (sliceAt dst (w * i) w) (sliceAt src (w * i) w)

/-- Write a message's bytes; a poisoned source line is written poisoned (R406), and a line that was poisoned before an addition stays so. -/
def State.putMarked (s : State) (a : Nat) (bs : List Byte) (bad : List Nat) : State :=
  bad.foldl (fun s i => s.poisonLine (a / 64 + i)) (s.plainPut a bs)

/-- What a target finds in a request: the code and detail that refuse it, with the denial recorded (R400, R406). (log entry 58, DEDUCED) -/
def State.targetCheck (s : State) (m : RingMsg) (n : Nat) (wr : Bool) : State × Option (Nat × Nat) :=
  let h := s.hostOf (s.fld Fd.SNL_CTX_CTL_TENANT m.ctx)
  if ctxState s m.ctx ≠ ctxOpen ∨ s.fld Fd.SNL_CTX_CTL_MODE m.ctx ≠ 0 then (s, some (Cc.noRights, 0x0145))
  else if !rangeBacked s h m.addr n then (s.countUnbacked, some (Cc.noRights, 0x0147))
  else match rangeDenied s h m.addr n wr with
    | some x => (s.deny h false x, some (Cc.noRights, 0x0147))
    | none => (s, none)

/-- An answer to a request. -/
def State.answer (s : State) (m : RingMsg) (mtype status detail : Nat) (data : List Byte) (bad : List Nat) : State :=
  s.ringSend m.src (.msg { RingMsg.bare mtype (ringPos s) m.src m.ctx m.didx m.off 0 with len := data.length, status, detail, data, bad })

/-- A message that has to wait for lines is kept with its job; one that need not, or has its answers, acts. -/
def State.holdRing (s : State) (job link : Nat) (m : RingMsg) : State :=
  if s.ringHeld.any fun x => x.job == job then s else { s with ringHeld := s.ringHeld ++ [{ job, link, msg := m }] }

/-- R406: GET_REQ at its target. -/
def State.onGetReq (s : State) (job link : Nat) (m : RingMsg) : State :=
  match s.targetCheck m m.len false with
  | (s, some e) => s.answer m 2 e.1 e.2 [] []
  | (s, none) => match s.coherentJob job [(m.addr, m.len)] [] with
    | (s, false) => s.holdRing job link m
    | (s, true) =>
      let bad := badLines s m.addr m.len
      if bad = [] then s.answer m 2 Cc.ok 0 (s.plainBytes m.addr m.len) []
      else s.answer m 2 Cc.poisoned 0x0148 (s.plainBytes m.addr m.len) bad

/-- The descriptor that a response belongs to, while its context is OPEN; later ones are discarded (R402). -/
def awaited (s : State) (m : RingMsg) : Option RingDesc :=
  if ctxState s m.ctx ≠ ctxOpen then none else (s.rctxOf m.ctx).descs.find? fun d => d.idx == m.didx && d.left.contains m.off

/-- R406: GET_DATA at the member that asked. -/
def State.onGetData (s : State) (job link : Nat) (m : RingMsg) : State :=
  match awaited s m with
  | none => s
  | some d =>
    let a := d.laddr + 64 * m.off
    if m.data = [] then s.confirm m.ctx m.didx m.off m.status m.detail
    else match s.coherentJob job [] [(a, m.data.length)] with
      | (s, false) => s.holdRing job link m
      | (s, true) => (s.putMarked a m.data m.bad).confirm m.ctx m.didx m.off m.status m.detail

/-- R406: PUT at its target. -/
def State.onPut (s : State) (job link : Nat) (m : RingMsg) : State :=
  match s.targetCheck m m.data.length true with
  | (s, some e) => s.answer m 5 e.1 e.2 [] []
  | (s, none) => match s.coherentJob job [] [(m.addr, m.data.length)] with
    | (s, false) => s.holdRing job link m
    | (s, true) => (s.putMarked m.addr m.data m.bad).answer m 5 Cc.ok 0 [] []

/-- R407: REDUCE_PUT at its target: one atomic update of each element. -/
def State.onReducePut (s : State) (job link : Nat) (m : RingMsg) : State :=
  match s.targetCheck m m.data.length true with
  | (s, some e) => s.answer m 5 e.1 e.2 [] []
  | (s, none) =>
    if 4 < m.rtype then s.answer m 5 Cc.formatUnsupported 0x0149 [] []
    else match s.coherentJob job [] [(m.addr, m.data.length)] with
      | (s, false) => s.holdRing job link m
      | (s, true) =>
        let bad := m.bad ++ badLines s m.addr m.data.length
        (s.putMarked m.addr (reduceBytes m.rtype (s.plainBytes m.addr m.data.length) m.data) bad).answer m 5 Cc.ok 0 [] []

/-- A bulk message acts at this member. -/
def State.onMsg (s : State) (job link : Nat) (m : RingMsg) : State :=
  if m.mtype = 1 then s.onGetReq job link m
  else if m.mtype = 2 then s.onGetData job link m
  else if m.mtype = 3 then s.onPut job link m
  else if m.mtype = 4 then s.onReducePut job link m
  else if m.mtype = 5 then (match awaited s m with | some _ => s.confirm m.ctx m.didx m.off m.status m.detail | none => s)
  else s

/-- A bulk message arrives on a link: for this member, or to pass through (R390). -/
def State.ringArrive (s : State) (link : Nat) (m : RingMsg) : State :=
  if m.dst ≠ ringPos s then s.ringPut (1 - link) (.msg m)
  else
    let job := jobBase + s.nextUid
    ({ s.wake with nextUid := s.nextUid + 1 } : State).onMsg job link m

/-- Messages whose lines have become free act now. -/
def State.pumpRing (s : State) : State :=
  s.ringHeld.foldl (fun s x =>
    if s.snoops.any fun y => y.uid == some x.job then s
    else ({ s with ringHeld := s.ringHeld.filter fun y => y.job != x.job } : State).onMsg x.job x.link x.msg) s

/-- R406: a GET_REQ arrives. -/
def opGetReq (link : Nat) (m : RingMsg) (s : State) : State := s.ringArrive link { m with mtype := 1, data := [], bad := [] }
/-- R406. -/
def execGetReq (link : Fin 2) (msg : RingMsg) (s : State) : Res := .next (opGetReq link.val msg s)

/-- R406: a GET_DATA arrives. -/
def opGetData (link : Nat) (m : RingMsg) (s : State) : State := s.ringArrive link { m with mtype := 2 }
/-- R406. -/
def execGetData (link : Fin 2) (msg : RingMsg) (s : State) : Res := .next (opGetData link.val msg s)

/-- R406: a PUT arrives. -/
def opRingPut (link : Nat) (m : RingMsg) (s : State) : State := s.ringArrive link { m with mtype := 3 }
/-- R406. -/
def execRingPut (link : Fin 2) (msg : RingMsg) (s : State) : Res := .next (opRingPut link.val msg s)

/-- R407: a REDUCE_PUT arrives. -/
def opReducePut (link : Nat) (m : RingMsg) (s : State) : State := s.ringArrive link { m with mtype := 4 }
/-- R407. -/
def execReducePut (link : Fin 2) (msg : RingMsg) (s : State) : Res := .next (opReducePut link.val msg s)

/-- R406: an ACK arrives. -/
def opRingAck (link : Nat) (m : RingMsg) (s : State) : State := s.ringArrive link { m with mtype := 5, data := [], bad := [] }
/-- R406. -/
def execRingAck (link : Fin 2) (msg : RingMsg) (s : State) : Res := .next (opRingAck link.val msg s)

/-! ### FENCE (R409, R410) -/

/-- Whether every descriptor of a context with an index below `upto` has DONE set (R409). -/
def fenceMet (s : State) (c upto : Nat) : Bool :=
  decide ((2 ^ 32 + s.fld Fd.SNL_CTX_ST_TAKEN c - upto) % 2 ^ 32 < 2 ^ 31) &&
    (s.rctxOf c).descs.all fun d => decide (2 ^ 31 ≤ (2 ^ 32 + upto - 1 - d.idx) % 2 ^ 32)

/-- R409, R410: FENCE. -/
def opFence (uid : Nat) (s : State) : State :=
  match s.ready uid Oc.fence with
  | none => s
  | some c =>
    let x := ctxNamed c
    match c.cancel with
    | some d => s.fail c Cc.cancelled d
    | none =>
      if ctxState s x ≠ ctxOpen ∨ s.fld Fd.SNL_CTX_CTL_MODE x ≠ 0 ∨ s.fld Fd.SNL_CTX_CTL_TENANT x ≠ c.tenant then s.fail c Cc.noRights 0x0145
      else if fenceMet s x (fieldOf c.words 1 63 32) then s.finish c Cc.ok 0 0 else s
/-- R409. -/
def execFence (uid : Nat) (s : State) : Res := .next (opFence uid s)

end Sys2Proof.Machine
end

