-- ==== Sys2Proof/Machine/Near.lean ====
section
/-!
DEFINITION. Near-memory commands: FILL, COPY, COMPARE, REDUCE and GATHER (R459 to R465).
-/
namespace Sys2Proof.Machine

/-- A range that a command reads or writes; `view` is true where it may also lie in the tenant's own view window. -/
structure NearRange where
  addr : Nat
  len : Nat
  wr : Bool
  view : Bool
  deriving DecidableEq, Repr

/-- Whether a DPA lies in plain-region space. -/
def inPlain (s : State) (a : Nat) : Bool := decide (a < extentBytes * dpaExtents s.cacheSf)

/-- Whether a range is backed for a tenant's host (R443): plain extents, or the tenant's own view window where a view may stand. (log entry 68, DEDUCED) -/
def NearRange.ok (s : State) (t h : Nat) (r : NearRange) : Bool :=
  if inPlain s r.addr then rangeBacked s h r.addr r.len
  else match dpaPlace (dpaExtents s.cacheSf) r.addr with
    | .view v o => r.view && v == t && decide (o + r.len ≤ 0x040000000000) && extentHeld s h 1 v
    | _ => false

/-- Row 3 of R465: a destination in a view window, or a source in another tenant's. (log entry 68, DEDUCED) -/
def NearRange.badView (s : State) (t : Nat) (r : NearRange) : Bool :=
  match dpaPlace (dpaExtents s.cacheSf) r.addr with
  | .view v _ => r.wr || v != t
  | _ => false

/-- Rows 2 to 4 of R465 over a command's ranges: the detail of the first that applies, with the access recorded. (log entry 68, DEDUCED) -/
def State.nearFault (s : State) (t : Nat) (rs : List NearRange) : Option (State × Nat) :=
  let h := s.hostOf t
  let rs := rs.filter fun r => decide (0 < r.len)
  match rs.findSome? fun r => rangeDenied s h r.addr r.len r.wr with
  | some x => some (s.deny h false x, 0x0151)
  | none =>
    if rs.any (NearRange.badView s t) then some (s, 0x0152)
    else if rs.all (NearRange.ok s t h) then none else some (s.countUnbacked, 0x0153)

/-- What reading part of a source finds; `from_`: the chunk, layer, block and frame that view bytes come from. -/
inductive NearRead where
  | wait (handle : Nat) | poison | corrupt (handle layer block : Nat) (k : Corrupt)
  | data (bs : List Byte) (from_ : Option (Nat × Nat × Nat × Nat))
  deriving DecidableEq, Repr

/-- Bytes of the tenant's view window (R246, R450), within one slot's page or the slot table. (log entry 68, DEDUCED) -/
def viewPiece (s : State) (t o n : Nat) : NearRead :=
  match viewPlace s t o with
  | .none => .poison
  | .slotEntry slot => .data (sliceAt (bytesOf ((List.range 9).map fun i => s.viewSlot t (slot + i))) (o % 8) n) none
  | .page slot layer byte => match viewTarget s t slot layer byte with
    | none => .poison
    | some (h, c, p) =>
      let g := s.geo c.prof
      if p.away then .wait h
      else if (List.range n).any fun i => match posOfByte g p.recov (byte + i) with | some q => masked p q | none => false then .poison
      else match pageBytes s c layer byte n with
        | .data bs => .data bs (p.frame.map fun f => (h, layer, byte / 4096, f))
        | .poison => .poison
        | .corrupt b k => .corrupt h layer b k

/-- Up to 64 bytes of a source: one piece, or the two that an offset between 64-byte lines cuts. -/
def nearPiece (s : State) (t a n : Nat) : List NearRead :=
  match dpaPlace (dpaExtents s.cacheSf) a with
  | .view _ o =>
    let k := min n (64 - o % 64)
    viewPiece s t o k :: if k < n then [viewPiece s t (o + k) (n - k)] else []
  | _ => [if rangePoison s a n then .poison else .data (s.plainBytes a n) none]

/-- A source cut at 64 bytes, each part with its pieces. -/
def nearRead (s : State) (t a n : Nat) : List (List NearRead) :=
  (List.range (ceilDiv n 64)).map fun i => nearPiece s t (a + 64 * i) (min 64 (n - 64 * i))

/-- Chunks that pieces wait for. -/
def nearWaits (ps : List NearRead) : List Nat := ps.filterMap fun p => match p with | .wait h => some h | _ => none

/-- Blocks that prove corrupt, each once (R311). -/
def nearCorrupt (ps : List NearRead) : List (Nat × Nat × Nat × Corrupt) :=
  (ps.filterMap fun p => match p with | .corrupt h l b k => some (h, l, b, k) | _ => none).eraseDups

/-- Parts that hold something else than data, by number. -/
def nearBad (ps : List (List NearRead)) : List Nat :=
  ps.zipIdx.filterMap fun e => if e.1.any fun p => match p with | .data _ _ => false | _ => true then some e.2 else none

/-- Where view bytes among the pieces come from (R217, R247). -/
def nearFrom (ps : List NearRead) : List (Nat × Nat × Nat × Nat) :=
  (ps.filterMap fun p => match p with | .data _ x => x | _ => none).eraseDups

/-- The bytes of pieces that all hold data. -/
def nearBytes (ps : List NearRead) : List Byte := ps.flatMap fun p => match p with | .data bs _ => bs | _ => []

/-- A near-memory command pins the frames its view pages resolve to (R217), and its blocks of coded frames go through the view cache (R246, R247). -/
def State.nearViews (s : State) (c : Cmd) (ps : List NearRead) (fill : Bool) : State :=
  let xs := nearFrom ps
  let s := s.setCmd { c with fpins := (c.fpins ++ xs.map fun x => x.2.2.2).eraseDups }
  if !fill then s
  else xs.foldl (fun s x => match mapFind s.frames x.2.2.2 with
    | some f => match f.body with
      | .coded _ _ => s.viewFill x.1 x.2.1 x.2.2.2 x.2.2.1 f
      | .raw _ _ => s
    | none => s) s

/-- The effect of a near-memory command is done, with its result. -/
def State.nearDone (s : State) (c : Cmd) (code : Nat) (r0 r1 : Word) (toHost : Bool) : State :=
  s.setCmd { c with work := .near (some (code, r0, r1)) toHost }

/-- Results of rows 5 to 7 (R465): the destination, in plain space (kind 2) or host memory (kind 1), is undefined, but for plain lines written poisoned. -/
def State.nearSpoil (s : State) (c : Cmd) (detail : Nat) (dst : Option (Nat × Nat × Nat)) (bad : List Nat) : State :=
  let s := match dst with
    | some (2, a, n) => bad.foldl (fun (s : State) i => s.poisonLine (a / 64 + i)) (s.undefine a n)
    | some (1, a, n) => { s.emit (.hostWrite (s.hostOf c.tenant) a (freeBytes s n)) with freeCtr := s.freeCtr + n }
    | _ => s
  s.nearDone c Cc.poisoned (detailWord detail) 0 false

/-- Rows 1 to 4 at the command's first run, and then row 7: none where the command may go on. -/
def State.nearGate (s : State) (c : Cmd) (fields : Bool) (rs : List NearRange) (dst : Option (Nat × Nat × Nat)) : Option State :=
  match c.work with
  | .ready =>
    if !fields then some (s.fail c Cc.formatUnsupported 0x0150)
    else (s.nearFault c.tenant rs).map fun e => e.1.fail c Cc.noRights e.2
  | .near none _ => if (rs.filter fun r => decide (0 < r.len)).all (NearRange.ok s c.tenant (s.hostOf c.tenant)) then none else some (s.nearSpoil c 0x0156 dst [])
  | _ => some s

/-- The plain ranges among a command's, read or written. -/
def plainOf (s : State) (rs : List NearRange) (wr : Bool) : List (Nat × Nat) :=
  (rs.filter fun r => r.wr == wr && decide (0 < r.len) && inPlain s r.addr).map fun r => (r.addr, r.len)

/-- Make a command's lines coherent (R453); it is then marked as checked. -/
def State.nearCoherent (s : State) (c : Cmd) (rs : List NearRange) : State × Bool :=
  (s.setCmd { c with work := .near none false }).coherent c (plainOf s rs false) (plainOf s rs true)

/-- Write a result to its destination: host memory, closed by a read of the last address written (R267), or a plain region. -/
def State.nearPut (s : State) (c : Cmd) (dkind a : Nat) (bs : List Byte) : State :=
  if bs = [] then s
  else if dkind = 1 then (s.emit (.hostWrite (s.hostOf c.tenant) a bs)).emit (.hostReadZero (s.hostOf c.tenant) (a + bs.length - 1)) else s.plainPut a bs

/-- R460: FILL. (log entry 68, DEDUCED) -/
def opFill (uid : Nat) (s : State) : State :=
  match s.ready uid Oc.fill with
  | none => s
  | some c =>
    let a := (wordAt c.words 1).toNat
    let n := fieldOf c.words 2 39 0
    let rs : List NearRange := [{ addr := a, len := n, wr := true, view := false }]
    match s.nearGate c (a % 64 == 0 && n % 64 == 0 && decide (0 < n)) rs (some (2, a, n)) with
    | some s => s
    | none => match s.nearCoherent c rs with
      | (s, false) => s
      | (s, true) =>
        (s.plainPut a ((List.range (n / 8)).flatMap fun _ => leBytes 8 (wordAt c.words 3).toNat)).nearDone c Cc.ok (BitVec.ofNat 64 n) 0 false
/-- R460. -/
def execFill (uid : Nat) (s : State) : Res := .next (opFill uid s)

/-- Copy sources end to end to a destination (R461, R464). A corrupt block of a view page poisons its page (R311) and ends the command as poison does. -/
def State.nearCopy (s : State) (c : Cmd) (srcs : List (Nat × Nat)) (dkind dst : Nat) : State :=
  let parts := srcs.flatMap fun e => nearRead s c.tenant e.1 e.2
  let ps := parts.flatten
  let total := (srcs.map fun e => e.2).sum
  let waits := nearWaits ps
  let s := s.nearViews { c with work := .near none false } ps (waits == [])
  let c := (s.cmd c.uid).getD c
  if waits ≠ [] then waits.foldl (fun s h => s.demand h) s
  else if nearBad parts ≠ [] then
    (((nearCorrupt ps).foldl (fun (s : State) e => s.corrupt e.1 e.2.1 e.2.2.1 e.2.2.2) s).nearSpoil c 0x0154 (some (dkind, dst, total)) (nearBad parts)).reclaim
  else (s.nearPut c dkind dst (nearBytes ps)).nearDone c Cc.ok (BitVec.ofNat 64 total) 0 (dkind == 1 && decide (0 < total))

/-- R461: COPY. (log entry 68, DEDUCED) -/
def opCopy (uid : Nat) (s : State) : State :=
  match s.ready uid Oc.copy with
  | none => s
  | some c =>
    let a := (wordAt c.words 1).toNat
    let d := (wordAt c.words 2).toNat
    let n := fieldOf c.words 3 39 0
    let k := fieldOf c.words 3 41 40
    let rs : List NearRange := { addr := a, len := n, wr := false, view := true } :: if k = 2 then [{ addr := d, len := n, wr := true, view := false }] else []
    match s.nearGate c ((k == 1 || k == 2) && a % 64 == 0 && d % 64 == 0 && n % 64 == 0) rs (some (k, d, n)) with
    | some s => s
    | none => match s.nearCoherent c rs with
      | (s, false) => s
      | (s, true) => s.nearCopy c [(a, n)] k d
/-- R461. -/
def execCopy (uid : Nat) (s : State) : Res := .next (opCopy uid s)

/-- The first offset at which two byte strings differ. -/
def firstDiff (a b : List Byte) : Option Nat := (List.range a.length).find? fun i => a.getD i 0 != b.getD i 0

/-- R462: COMPARE. (log entry 68, DEDUCED) -/
def opCompare (uid : Nat) (s : State) : State :=
  match s.ready uid Oc.compare with
  | none => s
  | some c =>
    let a := (wordAt c.words 1).toNat
    let mode := fieldOf c.words 2 1 0
    let b := (wordAt c.words 3).toNat
    let n := (wordAt c.words 4).toNat
    let rs : List NearRange :=
      if mode = 0 then [{ addr := a, len := 8, wr := false, view := false }, { addr := a, len := 8, wr := true, view := false }]
      else [{ addr := a, len := n, wr := false, view := false }, { addr := b, len := n, wr := false, view := false }]
    let fields := if mode = 0 then a % 8 == 0 else mode == 1 && a % 64 == 0 && b % 64 == 0 && n % 64 == 0 && decide (0 < n)
    match s.nearGate c fields rs none with
    | some s => s
    | none => match s.nearCoherent c rs with
      | (s, false) => s
      | (s, true) =>
        if rs.any fun r => rangePoison s r.addr r.len then s.nearSpoil c 0x0154 none []
        else if mode = 0 then
          let old := BitVec.ofNat 64 (ofLE (s.plainBytes a 8))
          if old = wordAt c.words 3 then (s.plainPut a (leBytes 8 n)).nearDone c Cc.ok old 1 false else s.nearDone c Cc.ok old 0 false
        else match firstDiff (s.plainBytes a n) (s.plainBytes b n) with
          | some i => s.nearDone c Cc.ok (BitVec.ofNat 64 i) 0 false
          | none => s.nearDone c Cc.ok (BitVec.ofNat 64 (2 ^ 64 - 1)) 0 false
/-- R462. -/
def execCompare (uid : Nat) (s : State) : Res := .next (opCompare uid s)

/-- Lines of a destination whose source bytes touch a poisoned line. -/
def spoiltLines (s : State) (src dst n : Nat) : List Nat :=
  (List.range ((dst + n - 1) / 64 - dst / 64 + 1)).filter fun j =>
    let lo := max dst (64 * (dst / 64 + j))
    let hi := min (dst + n) (64 * (dst / 64 + j) + 64)
    rangePoison s (src + (lo - dst)) (hi - lo)

/-- R463: REDUCE. A destination line that is poisoned stays so. (log entry 68, DEDUCED) -/
def opReduce (uid : Nat) (s : State) : State :=
  match s.ready uid Oc.reduce with
  | none => s
  | some c =>
    let d := (wordAt c.words 1).toNat
    let a := (wordAt c.words 2).toNat
    let n := fieldOf c.words 3 31 0
    let rt := fieldOf c.words 3 34 32
    let src := fieldOf c.words 3 35 35
    let w := elemBytes rt
    let rs : List NearRange := { addr := d, len := n, wr := true, view := false } :: if src = 1 then [{ addr := a, len := n, wr := false, view := false }] else []
    let fields := decide (rt ≤ 4) && n % w == 0 && d % w == 0 && decide (0 < n) &&
      (if src = 0 then c.ncell == ceilDiv n 64 && decide (n ≤ 960) else c.ncell == 0)
    match s.nearGate c fields rs (some (2, d, n)) with
    | some s => s
    | none => match s.nearCoherent c rs with
      | (s, false) => s
      | (s, true) =>
        if src = 1 ∧ rangePoison s a n then s.nearSpoil c 0x0154 (some (2, d, n)) (spoiltLines s a d n)
        else
          let xs := if src = 0 then sliceAt (inlineBytes c 1) 0 n else s.plainBytes a n
          (s.putMarked d (reduceBytes rt (s.plainBytes d n) xs) ((linesOf d n).zipIdx.filterMap fun e => if linePoison s e.1 then some e.2 else none)).nearDone
            c Cc.ok (BitVec.ofNat 64 (n / w)) 0 false
/-- R463. -/
def execReduce (uid : Nat) (s : State) : Res := .next (opReduce uid s)

/-- The entries of a GATHER list. -/
def gatherList (bs : List Byte) (n : Nat) : List (Nat × Nat) :=
  (List.range n).map fun i => (ofLE (sliceAt bs (16 * i) 8), ofLE (sliceAt bs (16 * i + 8) 4))

/-- GATHER with its list at hand. -/
def State.gatherWith (s : State) (c : Cmd) (es : List (Nat × Nat)) : State :=
  let d := (wordAt c.words 1).toNat
  let k := fieldOf c.words 2 11 10
  let total := (es.map fun e => e.2).sum
  let rs : List NearRange := es.map (fun e => { addr := e.1, len := e.2, wr := false, view := true }) ++
    if k = 2 then [{ addr := d, len := total, wr := true, view := false }] else []
  match s.nearGate c (es.all fun e => decide (0 < e.2) && e.2 % 64 == 0) rs (some (k, d, total)) with
  | some s => s
  | none => match s.nearCoherent c rs with
    | (s, false) => s
    | (s, true) => s.nearCopy c es k d

/-- Whether a GATHER's fields are valid (R464). -/
def gatherFields (c : Cmd) : Bool :=
  let n := fieldOf c.words 2 9 0
  let k := fieldOf c.words 2 11 10
  (wordAt c.words 1).toNat % 64 == 0 && (k == 1 || k == 2) && decide (1 ≤ n) &&
    (if fieldOf c.words 2 12 12 = 0 then decide (n ≤ 60) && c.ncell == ceilDiv n 4 else c.ncell == 0 && (wordAt c.words 3).toNat % 16 == 0)

/-- Under cut-through the view sources of the entries that have arrived are fetched: their pages are demanded, and their frames pinned (R464). (log entry 68, DEDUCED) -/
def State.gatherAhead (s : State) (c : Cmd) : State :=
  let es := gatherList (inlineBytes c 1) (min (fieldOf c.words 2 9 0) (4 * (c.words.length / 8 - 1)))
  let rs : List NearRange := es.map fun e => { addr := e.1, len := e.2, wr := false, view := true }
  if c.work ≠ .ready ∨ !gatherFields c ∨ (es.any fun e => e.2 % 64 != 0) ∨ (s.nearFault c.tenant rs).isSome then s
  else
    let ps := (es.flatMap fun e => nearRead s c.tenant e.1 e.2).flatten
    (nearWaits ps).foldl (fun s h => s.demand h) { s with inflight := s.inflight.map fun x => if x.uid = c.uid then { x with fpins := (x.fpins ++ (nearFrom ps).map fun y => y.2.2.2).eraseDups } else x }

/-- R464: GATHER. A list in a plain region is read once and kept behind the command's first cell. (log entry 68, DEDUCED) -/
def opGather (uid : Nat) (s : State) : State :=
  match s.ready uid Oc.gather with
  | none => match s.readyCut uid Oc.gather 1 with
    | some c => s.gatherAhead c
    | none => s
  | some c =>
    let n := fieldOf c.words 2 9 0
    let la := (wordAt c.words 3).toNat
    if c.work = .ready ∧ !gatherFields c then s.fail c Cc.formatUnsupported 0x0150
    else if fieldOf c.words 2 12 12 = 0 ∨ c.work ≠ .ready then s.gatherWith c (gatherList (inlineBytes c 1) n)
    else
      let rs : List NearRange := [{ addr := la, len := 16 * n, wr := false, view := false }]
      match s.nearFault c.tenant rs with
      | some e => e.1.fail c Cc.noRights e.2
      | none => match s.coherent c [(la, 16 * n)] [] with
        | (s, false) => s
        | (s, true) =>
          if rangePoison s la (16 * n) then s.fail c Cc.poisoned 0x0155
          else
            let bs := s.plainBytes la (16 * n)
            s.gatherWith { c with words := c.words.take 8 ++ wordsOf bs } (gatherList bs n)
/-- R464. -/
def execGather (uid : Nat) (s : State) : Res := .next (opGather uid s)

/-- The plain ranges of a command that has had its effect, so that a release during it is noticed (R465, row 7). -/
def nearRanges (c : Cmd) : List NearRange :=
  let a := (wordAt c.words 1).toNat
  let b := (wordAt c.words 2).toNat
  let rw (x n : Nat) (wr : Bool) : NearRange := { addr := x, len := n, wr, view := true }
  if c.opcode = Oc.fill then [rw a (fieldOf c.words 2 39 0) true]
  else if c.opcode = Oc.copy then rw a (fieldOf c.words 3 39 0) false :: if fieldOf c.words 3 41 40 = 2 then [rw b (fieldOf c.words 3 39 0) true] else []
  else if c.opcode = Oc.compare then
    if fieldOf c.words 2 1 0 = 0 then [rw a 8 true] else [rw a (wordAt c.words 4).toNat false, rw (wordAt c.words 3).toNat (wordAt c.words 4).toNat false]
  else if c.opcode = Oc.reduce then rw a (fieldOf c.words 3 31 0) true :: if fieldOf c.words 3 35 35 = 1 then [rw b (fieldOf c.words 3 31 0) false] else []
  else []

/-- R465: a near-memory command ends; `readOk` is the outcome of the closing read of a host-memory destination. -/
def opNearMemoryComplete (uid : Nat) (readOk : Bool) (s : State) : State :=
  match s.cmd uid with
  | none => s
  | some c => match c.work with
    | .near (some (code, r0, r1)) toHost =>
      if (s.snoops.any fun x => x.uid == some uid) then s
      else
        let gone := !((nearRanges c).filter fun r => decide (0 < r.len)).all (NearRange.ok s c.tenant (s.hostOf c.tenant))
        if code = Cc.ok ∧ gone then s.fail c Cc.poisoned 0x0156
        else if code = Cc.ok ∧ toHost ∧ !readOk then s.finish c Cc.partial_ r0 r1
        else s.finish c code r0 r1
    | _ => s
/-- R465. -/
def execNearMemoryComplete (uid : Nat) (readOk : Bool) (s : State) : Res := .next (opNearMemoryComplete uid readOk s)

end Sys2Proof.Machine
end

