-- ==== Sys2Proof/Machine/Aes.lean ====
section
/-!
DEFINITION. AES-256 in Galois/Counter Mode (FIPS 197, NIST SP 800-38D), which seals the packets of a queue pair (R493).
-/
namespace Sys2Proof.Machine

/-- A byte times x in the field of FIPS 197. -/
def aesDouble (a : Byte) : Byte := (a <<< 1) ^^^ (if a.getLsbD 7 then 0x1B else 0)

/-- The product in the field of FIPS 197, over so many bits of the second factor. -/
def aesMul : Nat → Byte → Byte → Byte
  | 0, _, _ => 0
  | n + 1, a, b => (if b.getLsbD 0 then a else 0) ^^^ aesMul n (aesDouble a) (b >>> 1)

/-- The inverse in the field: the power 254, zero of zero. -/
def aesInv (a : Byte) : Byte :=
  let sq (x : Byte) : Byte := aesMul 8 x x
  let a2 := sq a
  let a4 := sq a2
  let a8 := sq a4
  let a16 := sq a8
  let a32 := sq a16
  let a64 := sq a32
  aesMul 8 a2 (aesMul 8 a4 (aesMul 8 a8 (aesMul 8 a16 (aesMul 8 a32 (aesMul 8 a64 (sq a64))))))

/-- The S-box of one byte. -/
def aesSboxOf (a : Byte) : Byte :=
  let b := aesInv a
  b ^^^ (b.rotateLeft 1) ^^^ (b.rotateLeft 2) ^^^ (b.rotateLeft 3) ^^^ (b.rotateLeft 4) ^^^ 0x63

/-- The S-box. -/
def aesSbox : List Byte := (List.range 256).map fun n => aesSboxOf (BitVec.ofNat 8 n)

/-- SubBytes of one byte. -/
def aesSub (a : Byte) : Byte := aesSbox.getD a.toNat 0

/-- The round constant of a key word. -/
def aesRcon : Nat → Byte
  | 0 => 1
  | n + 1 => aesDouble (aesRcon n)

/-- The next word of four bytes of the key schedule, from the words before it, newest first, and its number. -/
def aesKeyWord (ws : List (List Byte)) (i : Nat) : List Byte :=
  let p := ws.getD 0 []
  let t :=
    if i % 8 = 0 then xorBytes ((p.drop 1 ++ p.take 1).map aesSub) [aesRcon (i / 8 - 1), 0, 0, 0]
    else if i % 8 = 4 then p.map aesSub else p
  xorBytes (ws.getD 7 []) t

/-- The sixty words of the key schedule, newest first. -/
def aesSchedule (key : List Byte) : List (List Byte) :=
  let first := (List.range 8).map fun i => sliceAt key (4 * i) 4
  (List.range 52).foldl (fun ws i => aesKeyWord ws (i + 8) :: ws) first.reverse

/-- The fifteen round keys. -/
def aesKeys (key : List Byte) : List (List Byte) :=
  let ws := (aesSchedule key).reverse
  (List.range 15).map fun r => ((ws.drop (4 * r)).take 4).flatten

/-- ShiftRows: byte r of column c comes from column c + r. -/
def aesShift (b : List Byte) : List Byte := (List.range 16).map fun i => b.getD ((i + 4 * (i % 4)) % 16) 0

/-- MixColumns of one column. -/
def aesMixColumn (c : List Byte) : List Byte :=
  (List.range 4).map fun i =>
    let at_ (k : Nat) : Byte := c.getD ((i + k) % 4) 0
    aesDouble (at_ 0) ^^^ (aesDouble (at_ 1) ^^^ at_ 1) ^^^ at_ 2 ^^^ at_ 3

/-- MixColumns. -/
def aesMix (b : List Byte) : List Byte := (List.range 4).flatMap fun c => aesMixColumn (sliceAt b (4 * c) 4)

/-- The rounds after the first key addition; the last round mixes no columns. -/
def aesRounds : List (List Byte) → List Byte → List Byte
  | [], b => b
  | [k], b => xorBytes (aesShift (b.map aesSub)) k
  | k :: ks, b => aesRounds ks (xorBytes (aesMix (aesShift (b.map aesSub))) k)

/-- AES-256 of one block of sixteen bytes under its round keys. (log entry 12, PRESUMED) -/
def aesBlock (ks : List (List Byte)) (b : List Byte) : List Byte := aesRounds (ks.drop 1) (xorBytes b (ks.getD 0 []))

/-- The product in the field of GCM, over so many bits of the first factor, its leftmost bit first. -/
def gcmMul : Nat → Wide → Wide → Wide
  | 0, _, _ => 0
  | n + 1, x, v =>
    (if x.getLsbD 127 then v else 0) ^^^ gcmMul n (x <<< 1) ((v >>> 1) ^^^ (if v.getLsbD 0 then 0xE1000000000000000000000000000000 else 0))

/-- A byte string filled up with zeros to whole blocks. -/
def gcmPad (bs : List Byte) : List Byte := bs ++ List.replicate ((16 - bs.length % 16) % 16) 0

/-- GHASH under the hash key of the data's so many blocks. -/
def ghash (h : Wide) : Nat → Wide → List Byte → Wide
  | 0, y, _ => y
  | n + 1, y, bs => ghash h n (gcmMul 128 (y ^^^ BitVec.ofNat 128 (ofBE (sliceAt bs 0 16))) h) (bs.drop 16)

/-- The counter block of a nonce of twelve bytes. -/
def gcmCounter (nonce : List Byte) (n : Nat) : List Byte := sliceAt nonce 0 12 ++ beBytes 4 n

/-- The key stream added to a text: the ciphertext of a plaintext, and the reverse. -/
def gcmCrypt (ks : List (List Byte)) (nonce text : List Byte) : List Byte :=
  xorBytes text ((List.range (ceilDiv text.length 16)).flatMap fun i => aesBlock ks (gcmCounter nonce (i + 2)))

/-- The tag over associated data and a ciphertext. (log entry 12, PRESUMED) -/
def gcmTag (ks : List (List Byte)) (nonce aad cipher : List Byte) : Nat :=
  let h : Wide := BitVec.ofNat 128 (ofBE (aesBlock ks (List.replicate 16 0)))
  let data := gcmPad aad ++ gcmPad cipher ++ beBytes 8 (8 * aad.length) ++ beBytes 8 (8 * cipher.length)
  (ghash h (data.length / 16) 0 data ^^^ BitVec.ofNat 128 (ofBE (aesBlock ks (gcmCounter nonce 1)))).toNat

end Sys2Proof.Machine
end

