-- ==== Sys2Proof/Machine/Shuttle.lean ====
section
/-!
DEFINITION. Shuttle queue pairs: contexts, sending under the window, completions and the error state, and the gateway windows that send through them
(R466 to R470, R491 to R499, R506 to R513, R516, R522).
-/
namespace Sys2Proof.Machine

/-! ### Contexts (R494 to R496, R527) -/

/-- States of a QP (R528). -/
def qpFree : Nat := 0
/-- R528. -/
def qpReady : Nat := 1
/-- R528. -/
def qpError : Nat := 2

/-- PSNs and MSNs count modulo 2^24 (R507, R500). -/
def psnMod : Nat := 2 ^ 24
/-- The distance from b up to a modulo 2^24. -/
def psnSub (a b : Nat) : Nat := (psnMod + a - b % psnMod) % psnMod
/-- The distance from b up to a modulo 2^32. -/
def idxSub (a b : Nat) : Nat := (2 ^ 32 + a - b % 2 ^ 32) % 2 ^ 32

/-- A QP with a context and nothing else. -/
def Qp.fresh (ctx : List Word) : Qp :=
  { ctx, st := qpFree, err := 0, snxt := 0, cpsn := 0, rcvd := [], lastRx := 0, unanswered := 0, msn := 0, nsn := 0, sqHead := 0, rqBase := 0, rqDone := [], cqTail := 0,
    scomp := 0, txc := 0, retry := 0, wrs := [], stalled := false, toSend := [], sent := [], recvs := [], cache := [], held := [], faultNaks := [],
    flushes := [], comps := [] }

/-- A QP as it stands. -/
def State.qp (s : State) (q : Nat) : Qp := (mapFind s.qps q).getD (Qp.fresh (List.replicate 8 0))
/-- Put a QP back. -/
def State.setQp (s : State) (q : Nat) (x : Qp) : State := { s with qps := mapIns q x s.qps }

/-- A field of a QP's context (R527). -/
def Qp.cf (x : Qp) (i hi lo : Nat) : Nat := fieldOf x.ctx i hi lo
/-- R527. -/
def Qp.tenant (x : Qp) : Nat := x.cf 0 9 0
/-- R527. -/
def Qp.enc (x : Qp) : Bool := x.cf 0 10 10 == 1
/-- R527. -/
def Qp.putOk (x : Qp) : Bool := x.cf 0 11 11 == 1
/-- R527. -/
def Qp.mtu (x : Qp) : Nat := 1024 * 2 ^ x.cf 0 33 32
/-- R527. -/
def Qp.window (x : Qp) : Nat := x.cf 0 31 21
/-- R527. -/
def Qp.ats (x : Qp) : Bool := x.cf 2 44 44 == 1
/-- The base of ring i: 5 SQ, 6 RQ, 7 CQ. -/
def Qp.base (x : Qp) (i : Nat) : Nat := 4096 * x.cf i 63 12
/-- The entries of ring i. -/
def Qp.slots (x : Qp) (i : Nat) : Nat := 2 ^ x.cf i 4 0
/-- The remote address that packets of the QP come from. -/
def Qp.rip (x : Qp) : Nat := if x.cf 0 12 12 = 1 then x.cf 4 31 0 else x.cf 3 63 0 + x.cf 4 63 0 * 2 ^ 64
/-- The host that the QP's tenant is bound to. -/
def Qp.host (s : State) (x : Qp) : Nat := s.hostOf x.tenant

/-- A word of a QP's control line (R496): 0 SQTAIL, 1 RQTAIL, 2 CQHEAD. -/
def ctrlWord (s : State) (x : Qp) (i : Nat) : Nat := ofLE (s.plainBytes (x.base 7 + 8 * i) 4)

/-- The number under which a QP's reads of its rings and sources ask for lines (R453). -/
def shJob (q : Nat) : Nat := 3 * jobBase + q

/-- While a PATTERN_LOAD has quiesced the part, QPs send no requests and their timers stand still (R513). (log entry 73, DEDUCED) -/
def shQuiet (s : State) : Bool := deviceQuiet s

/-! ### Packets (R489, R491, R493, R516) -/

/-- The header and extension of a packet in network byte order (R491). -/
def ShPkt.header (p : ShPkt) : List Byte :=
  let ext := p.typ == 2 || p.typ == 3
  let seq : List Byte := if p.typ = 2 ∨ p.typ = 5 then [0, 0, 0, 0] else beBytes 4 p.seq
  let w16 := if p.typ = 1 ∨ p.typ = 2 then p.off else if p.typ = 3 ∨ p.typ = 5 then 0 else p.sack
  let w20 : List Byte := if p.typ = 1 ∨ p.typ = 2 then beBytes 4 p.tlen else [BitVec.ofNat 8 p.code, 0, 0, 0]
  [BitVec.ofNat 8 (16 + p.typ), BitVec.ofNat 8 (128 * b2n p.enc + 64 * b2n p.retx + 32 * b2n ext)] ++ beBytes 2 p.dqpn ++ beBytes 2 p.sqpn ++
    beBytes 2 p.payload.length ++ [0] ++ beBytes 3 p.psn ++ seq ++ beBytes 4 w16 ++ w20 ++ beBytes 6 p.txc ++ [0, 0] ++
    (if ext then beBytes 8 p.raddr ++ [BitVec.ofNat 8 p.op, BitVec.ofNat 8 p.rtype] ++ List.replicate 6 0 else [])

/-- The bytes of a packet on the wire: its header and extension, its payload, and the ICV of an encrypted one (R491, R493). -/
def ShPkt.wire (p : ShPkt) : List Byte := p.header ++ p.payload ++ if p.enc then beBytes 16 p.icv else []

/-- The sum of 16-bit words in network byte order, with the carries added back in. (log entry 117, PRESUMED) -/
def onesSum : List Byte → Nat
  | a :: b :: rest => let n := 256 * a.toNat + b.toNat + onesSum rest; n % 65536 + n / 65536
  | [a] => 256 * a.toNat
  | [] => 0

/-- An address as bytes, lowest-numbered first. -/
def ipBytes (v6 : Bool) (a : Nat) : List Byte := leBytes (if v6 then 16 else 4) a

/-- The UDP checksum of a datagram over IPv4 or IPv6, never zero (R489). (log entry 117, PRESUMED) -/
def udpChecksum (v6 : Bool) (src dst sport dport : Nat) (data : List Byte) : Nat :=
  let n := 8 + data.length
  let pseudo := ipBytes v6 src ++ ipBytes v6 dst ++ if v6 then beBytes 4 n ++ [0, 0, 0, 17] else [0, 17] ++ beBytes 2 n
  let c := 65535 - onesSum (pseudo ++ beBytes 2 sport ++ beBytes 2 dport ++ beBytes 2 n ++ [0, 0] ++ data)
  if c = 0 then 65535 else c

/-- The nonce of a packet (R493): SIDE, SQPN and TXC. -/
def ShPkt.nonce (p : ShPkt) (side : Nat) : List Byte := [BitVec.ofNat 8 side, 0, 0, 0] ++ beBytes 2 p.sqpn ++ beBytes 6 p.txc

/-- The round keys of a QP's key of 32 bytes, lowest byte first (R15). (log entry 70, DEDUCED) -/
def shKeys (key : Nat) : List (List Byte) := aesKeys (leBytes 32 key)

/-- A packet sealed under a QP's key (R493): its payload encrypted, its header and extension authenticated with it. (log entry 11, DESIGN CHOICE) -/
def ShPkt.seal (p : ShPkt) (key side : Nat) : ShPkt :=
  let c := gcmCrypt (shKeys key) (p.nonce side) p.payload
  { p with payload := c, icv := gcmTag (shKeys key) (p.nonce side) p.header c }

/-- Whether a received packet's ICV holds under a QP's key (R493). -/
def ShPkt.icvOk (p : ShPkt) (key side : Nat) : Bool := p.icv == gcmTag (shKeys key) (p.nonce side) p.header p.payload

/-- The key that Selvedge holds for a QP. (log entry 70, DEDUCED) -/
def qpKey (s : State) (q : Nat) : Nat := (mapFind s.qpKeys q).getD 0

/-- A packet of a QP without payload. -/
def Qp.packet (x : Qp) (q typ psn : Nat) : ShPkt :=
  { typ, enc := x.enc, retx := false, dqpn := x.cf 1 15 0, sqpn := q, psn, seq := 0, off := 0, sack := 0, tlen := 0, code := 0, txc := 0, raddr := 0, op := 0,
    rtype := 0, payload := [], icv := 0 }

/-- The enabled ports of a QP in ascending order. -/
def Qp.ports (x : Qp) : List Nat := (List.range 2).filter fun p => bitAt (x.cf 0 14 13) p

/-- R516: the port and the UDP source port of a packet after so many retransmissions. -/
def Qp.path (x : Qp) (psn retries : Nat) : Nat × Nat :=
  let n := max 1 x.ports.length
  let np := x.cf 0 20 15 + 1
  let i := (psn + retries) % (n * np)
  (x.ports.getD (i % n) 0, x.cf 1 31 16 + i / n)

/-- A port's IPv6 address. -/
def portIp6 (s : State) (p : Nat) : Nat := s.fld Fd.SHT_IP6A_IP6LO p + s.fld Fd.SHT_IP6B_IP6HI p * 2 ^ 64

/-- A port's own address of an IP version. -/
def portIp (s : State) (p : Nat) (v6 : Bool) : Nat := if v6 then portIp6 s p else s.fld Fd.SHT_IP4_IP4 p

/-- The frame that a QP's packet leaves in by a port (R487 to R489): to the next hop, tagged where the port tags, with its DSCP, from the port's address to the QP's peer. -/
def shFrame (s : State) (port udp : Nat) (p : ShPkt) : ShFrame :=
  let x := s.qp p.sqpn
  let v6 := x.cf 0 12 12 == 0
  let dport := s.fld Fd.SHT_CFG_UDPPORT
  { dmac := s.fld Fd.SHT_NHMAC_NHMAC port, smac := s.fld Fd.SHT_MAC_MAC port
    tag := if s.flag Fd.SHT_PORT_VLANEN port then some (s.fld Fd.SHT_PORT_VID port, s.fld Fd.SHT_PORT_PCP port) else none
    dscp := s.fld Fd.SHT_PORT_DSCP port, v6, src := portIp s port v6, dst := x.rip, sport := udp, dport
    sum := udpChecksum v6 (portIp s port v6) x.rip udp dport p.wire }

/-- A packet leaves by a port: a paused port keeps it (R488), a port that is not up loses it. (log entry 75, DEDUCED) -/
def State.portSend (s : State) (port udp : Nat) (p : ShPkt) : State :=
  if !s.flag Fd.SHT_PORT_EN port ∨ s.fld Fd.SHT_PORTST_STATE port ≠ 2 then s
  else if s.dtime < (mapFind s.pfcUntil port).getD 0 then { s with shOut := s.shOut ++ [(port, udp, p)] }
  else s.emit (.shuttle port (shFrame s port udp p) p)

/-- Packets kept by a port whose pause has ended leave (R488). (log entry 75, DEDUCED) -/
def State.portPump (s : State) : State :=
  let go := s.shOut.filter fun e => decide ((mapFind s.pfcUntil e.1).getD 0 ≤ s.dtime)
  let stay := s.shOut.filter fun e => !decide ((mapFind s.pfcUntil e.1).getD 0 ≤ s.dtime)
  { s with shOut := stay, out := s.out ++ go.map fun e => Output.shuttle e.1 (shFrame s e.1 e.2.1 e.2.2) e.2.2 }

/-! ### Gateway windows, as their QP sees them (R467 to R469) -/

/-- A gateway window as it stands. -/
def State.gw (s : State) (g : Nat) : Gateway := (mapFind s.gws g).getD { bufs := [], bells := [], busy := [], held := [], next := 0 }
/-- Put a gateway window back. -/
def State.setGw (s : State) (g : Nat) (x : Gateway) : State := { s with gws := mapIns g x s.gws }

/-- States of a gateway window (R484). -/
def gwRun : Nat := 1
/-- R484. -/
def gwError : Nat := 2

/-- R468: write a doorbell's value to the flush word, where it lies in a plain region of the gateway tenant's host. -/
def State.flushWord (s : State) (g v : Nat) : State :=
  let a := 8 * s.fld Fd.GW_FLADDR_FLADDR g
  if rangeBacked s (s.hostOf (s.fld Fd.GW_CTL_TENANT g)) a 8 then s.engineWrite a (leBytes 8 v) else s.countUnbacked

/-- R469: the window enters ERROR: what it holds is dropped, and every pending doorbell writes its value with bit 63 set. -/
def State.gwFail (s : State) (g : Nat) : State :=
  if s.fld Fd.GW_ST_STATE g ≠ gwRun then s
  else
    let x := s.gw g
    let s := (s.setFld Fd.GW_ST_STATE gwError g).cxlNote (s.hostOf (s.fld Fd.GW_CTL_TENANT g)) 1 0x0F03 g (s.qp (s.fld Fd.GW_CTL_QP g)).err
    let s := s.setGw g { x with bufs := [], bells := [], busy := [], held := [] }
    let s := s.addFld Fd.GW_ST_DROPPED x.held.length g
    x.bells.foldl (fun s b => s.flushWord g (b.value % 2 ^ 63 + 2 ^ 63)) s

/-- Gateway windows that a QP carries. -/
def gwsOf (s : State) (q : Nat) : List Nat :=
  (List.range 64).filter fun g => s.flag Fd.GW_CTL_EN g && s.fld Fd.GW_CTL_QP g == q && s.fld Fd.GW_ST_STATE g == gwRun

/-! ### Completions and the error state (R498, R512, R521, R522) -/

/-- Statuses (R522). -/
def stOk : Nat := 0
/-- R522. -/
def stFlushed : Nat := 1

/-- A send-side completion: of a work request, to the CQ, and counted (R521); of a gateway's, to the gateway. -/
def State.sendDone (s : State) (q : Nat) (w : QpWr) (status result : Nat) : State :=
  let x := s.qp q
  match w.gw with
  | none => s.setQp q { x with scomp := (x.scomp + 1) % 2 ^ 32, comps := x.comps ++ [{ status, op := w.op, msn := 0, wrid := w.wrid, result }] }
  | some (g, page) =>
    let y := s.gw g
    if status ≠ stOk then s
    else if w.op = 6 then
      s.setGw g { y with bells := match y.bells with
        | b :: rest => { b with done := true } :: rest
        | [] => [] }
    else s.setGw g { y with busy := y.busy.erase page }

/-- A receive completion (R498). -/
def State.recvDone (s : State) (q msn wrid status bytes : Nat) : State :=
  let x := s.qp q
  s.setQp q { x with rqDone := msn :: x.rqDone, comps := x.comps ++ [{ status, op := 0x80, msn, wrid, result := bytes }] }

/-- A slot of a ring: its bytes. -/
def ringSlot (s : State) (x : Qp) (i size idx : Nat) : List Byte := s.plainBytes (x.base i + size * (idx % x.slots i)) size

/-- A work request as its slot holds it (R497). -/
def wrOf (bs : List Byte) (idx : Nat) : QpWr :=
  let ws := wordsOf bs
  { idx, op := fieldOf ws 0 7 0, lkind := fieldOf ws 0 8 8, rtype := fieldOf ws 0 12 10, len := fieldOf ws 0 63 32, wrid := (wordAt ws 1).toNat,
    laddr := (wordAt ws 2).toNat, raddr := (wordAt ws 3).toNat, opnd0 := (wordAt ws 4).toNat, opnd1 := (wordAt ws 5).toNat,
    waits := if fieldOf ws 0 9 9 = 1 then some (fieldOf ws 0 31 16, fieldOf ws 6 31 0) else none, nsn := none, psns := [], gw := none }

/-- Work requests of an ERROR QP that have not been taken complete FLUSHED (R512). -/
def State.flushSq (s : State) (q : Nat) : Nat → State
  | 0 => s
  | fuel + 1 =>
    let x := s.qp q
    if x.st ≠ qpError ∨ idxSub (ctrlWord s x 0) x.sqHead = 0 ∨ x.slots 5 < idxSub (ctrlWord s x 0) x.sqHead then s
    else
      let w := wrOf (ringSlot s x 5 64 x.sqHead) x.sqHead
      ((s.setQp q { x with sqHead := (x.sqHead + 1) % 2 ^ 32 }).sendDone q w stFlushed 0).flushSq q fuel

/-- Posted receive entries of an ERROR QP that have not completed complete FLUSHED (R512). -/
def State.flushRq (s : State) (q : Nat) : Nat → State
  | 0 => s
  | fuel + 1 =>
    let x := s.qp q
    if x.st ≠ qpError ∨ idxSub (ctrlWord s x 1) x.rqBase = 0 ∨ x.slots 6 < idxSub (ctrlWord s x 1) x.rqBase then s
    else
      let m := x.rqBase % psnMod
      let s := s.setQp q { x with rqBase := (x.rqBase + 1) % 2 ^ 32, rqDone := x.rqDone.filter (· != m) }
      (if x.rqDone.contains m then s
       else
         let wrid := ofLE (sliceAt (ringSlot s x 6 32 x.rqBase) 16 8)
         let y := s.qp q
         s.setQp q { y with comps := y.comps ++ [{ status := stFlushed, op := 0x80, msn := m, wrid, result := 0 }] }).flushRq q fuel

/-- R512: a QP enters ERROR with a status; the work request of a number (none: none) completes with it, everything else taken or posted completes FLUSHED. -/
def State.qpFail (s : State) (q status : Nat) (cause : Option Nat) : State :=
  let x := s.qp q
  if x.st ≠ qpReady then s
  else
    let first := x.wrs.filter fun w => w.gw.isNone && some w.idx == cause
    let rest := x.wrs.filter fun w => !(w.gw.isNone && some w.idx == cause)
    let s := s.setQp q { x with st := qpError, err := status, wrs := [], toSend := [], sent := [], recvs := [], held := [], flushes := [], stalled := false, unanswered := 0 }
    let s := first.foldl (fun s w => s.sendDone q w status 0) s
    let s := rest.foldl (fun s w => s.sendDone q w stFlushed 0) s
    let s := (s.flushSq q (x.slots 5 + 1)).flushRq q (x.slots 6 + 1)
    (gwsOf s q).foldl (fun s g => s.gwFail g) s

/-! ### Sending (R507, R513, R515, R516) -/

/-- A packet goes out: it is numbered, sealed, and counted; a TXC about to repeat puts the QP in ERROR (R493). -/
def State.transmit (s : State) (q : Nat) (p : ShPkt) (retries : Nat) : State :=
  let x := s.qp q
  if x.enc ∧ 2 ^ 48 ≤ x.txc + 1 then s.qpFail q 0x0B none
  else
    let p := { p with txc := if x.enc then x.txc else 0, retx := decide (0 < retries) }
    let p := if x.enc then p.seal (qpKey s q) (x.cf 0 45 45) else p
    let s := s.setQp q { x with txc := if x.enc then x.txc + 1 else x.txc }
    let s := (s.addFld Fd.SHT_CNT0_TXPKT 1).addFld Fd.SHT_CNT1_RETX (if 0 < retries then 1 else 0)
    let (port, udp) := x.path p.psn retries
    s.portSend port udp p

/-- Whether the next packet of a QP may be sent: within the window, and for a near-memory request the response to the 64th before it is held (R507, R515). -/
def maySend (x : Qp) (p : ShPkt) : Bool :=
  decide (x.sent.length < x.window) &&
    (p.typ != 3 || x.wrs.all fun w => match w.nsn with | some n => decide ((p.seq + 65536 - n) % 65536 < 64) | none => true)

/-- Send what the window lets go, in PSN order. -/
def State.qpPump (s : State) (q : Nat) : Nat → State
  | 0 => s
  | fuel + 1 =>
    let x := s.qp q
    if x.st ≠ qpReady ∨ x.stalled ∨ shQuiet s ∨ !s.flag Fd.SHT_CFG_EN then s
    else match x.toSend with
      | [] => s
      | p :: rest =>
        if maySend x p then
          ((s.setQp q { x with toSend := rest, sent := x.sent ++ [{ pkt := p, retries := 0, rnr := 0, waiting := false }] }).transmit q p 0).qpPump q fuel
        else s

/-- Pump a QP dry. -/
def State.qpGo (s : State) (q : Nat) : State := s.qpPump q ((s.qp q).toSend.length + 1)

/-- Give a work request's packets their PSNs and send what may go. -/
def State.launch (s : State) (q : Nat) (w : QpWr) (ps : List ShPkt) : State :=
  let x := s.qp q
  let ps := ps.zipIdx.map fun e => { e.1 with psn := (x.snxt + e.2) % psnMod }
  (s.setQp q { x with snxt := (x.snxt + ps.length) % psnMod, wrs := x.wrs ++ [{ w with psns := ps.map fun p => p.psn }], toSend := x.toSend ++ ps }).qpGo q

/-- The packets of a message: ceil(LEN / MTU), one where it is empty (R500, R501). -/
def Qp.split (x : Qp) (q typ seq raddr : Nat) (data : List Byte) : List ShPkt :=
  (List.range (max 1 (ceilDiv data.length x.mtu))).map fun i =>
    { x.packet q typ 0 with seq, off := x.mtu * i, tlen := data.length, raddr := if typ = 2 then raddr + x.mtu * i else 0,
                            payload := (data.drop (x.mtu * i)).take x.mtu }

/-! ### The gateway's PUTs and FLUSHes (R467, R468, R506) -/

/-- A work request that a gateway issues. -/
def gwWr (g page op len raddr : Nat) : QpWr :=
  { idx := 0, op, lkind := 1, rtype := 0, len, wrid := 0, laddr := 0, raddr, opnd0 := 0, opnd1 := 0, waits := none, nsn := none, psns := [], gw := some (g, page) }

/-- The first shipping buffer whose page has no PUT unacknowledged and that has a run to issue. -/
def gwNext (x : Gateway) : Option (GwBuf × Nat × List Byte) :=
  x.bufs.findSome? fun b => match b.ship with
    | some (r :: _) => if x.busy.contains b.page then none else some (b, r.1, r.2)
    | _ => none

/-- Take the run that was issued off its buffer. -/
def dropRun (bufs : List GwBuf) (num : Nat) : List GwBuf :=
  bufs.map fun b => if b.num = num then { b with ship := b.ship.map fun rs => rs.drop 1 } else b

/-- Issue a window's PUTs, page by page, and the FLUSH of its first doorbell once nothing shipped before it is unissued. -/
def State.gwPump (s : State) (g : Nat) : Nat → State
  | 0 => s
  | fuel + 1 =>
    let q := s.fld Fd.GW_CTL_QP g
    let x := s.qp q
    let y := s.gw g
    if s.fld Fd.GW_ST_STATE g ≠ gwRun ∨ x.st ≠ qpReady then s
    else match gwNext y with
      | some (b, off, bs) =>
        let ra := 4096 * s.fld Fd.GW_RADDR_RADDR g + 4096 * b.page + off
        ((s.setGw g { y with busy := b.page :: y.busy, bufs := dropRun y.bufs b.num }).launch q (gwWr g b.page 2 bs.length ra) (x.split q 2 0 ra bs)).gwPump g fuel
      | none => match y.bells with
        | b :: rest =>
          let clear := y.bufs.all fun f => decide (b.before ≤ f.num) || (match f.ship with | some rs => rs.isEmpty | none => false)
          if !b.issued ∧ clear then
            (s.setGw g { y with bells := { b with issued := true } :: rest }).launch q (gwWr g 0 6 0 0) [x.packet q 5 0]
          else s
        | [] => s

/-- Runs of contiguous written bytes of a buffer, with their offsets (R467). -/
def runsOf (bs : List (Option Byte)) : List (Nat × List Byte) :=
  let rec go : List (Option Byte) → Nat → Option (Nat × List Byte) → List (Nat × List Byte)
    | [], _, none => []
    | [], _, some r => [(r.1, r.2.reverse)]
    | some b :: rest, i, none => go rest (i + 1) (some (i, [b]))
    | some b :: rest, i, some r => go rest (i + 1) (some (r.1, b :: r.2))
    | none :: rest, i, none => go rest (i + 1) none
    | none :: rest, i, some r => (r.1, r.2.reverse) :: go rest (i + 1) none
  go bs 0 none

/-- A buffer begins to ship. -/
def GwBuf.shipNow (b : GwBuf) : GwBuf := match b.ship with | some _ => b | none => { b with ship := some (runsOf b.bytes) }

/-- A buffer that has shipped everything, with no PUT of its page unacknowledged, is free again. -/
def gwFree (x : Gateway) : Gateway :=
  { x with bufs := x.bufs.filter fun b => !(b.ship == some [] && !x.busy.contains b.page) }

/-- Bytes of a store, each replacing an earlier one. -/
def overlay (old new : List (Option Byte)) : List (Option Byte) := List.zipWith (fun o n => match n with | some b => some b | none => o) old new

/-- The 4,096 enables of a store at an offset of a page. -/
def pageImage (off : Nat) (bs : List (Option Byte)) : List (Option Byte) :=
  let l := (List.replicate off none ++ bs).take 4096
  l ++ List.replicate (4096 - l.length) none

/-- A store goes into a buffer if it can: none where it has to wait (R467). The oldest open buffer ships where a 17th is needed. -/
def gwStore (x : Gateway) (now o : Nat) (bs : List (Option Byte)) : Gateway × Bool :=
  let page := o / 4096
  let img := pageImage (o % 4096) bs
  match x.bufs.find? fun b => b.page == page && b.ship.isNone with
  | some b =>
    let b' := { b with bytes := overlay b.bytes img }
    let b' := if b'.bytes.all (fun y => y.isSome) then b'.shipNow else b'
    ({ x with bufs := x.bufs.map fun y => if y.num = b.num then b' else y }, true)
  | none =>
    if x.bufs.length < 16 then
      let b : GwBuf := { page, bytes := img, since := now, num := x.next, ship := none }
      ({ x with bufs := x.bufs ++ [if img.all (fun y => y.isSome) then b.shipNow else b], next := x.next + 1 }, true)
    else
      match x.bufs.find? fun b => b.ship.isNone with
      | some b => ({ x with bufs := x.bufs.map fun y => if y.num = b.num then y.shipNow else y }, false)
      | none => (x, false)

/-- Stores that waited go into buffers in order, as far as buffers are free. -/
def gwRetry (now : Nat) : Nat → Gateway → Gateway
  | 0, x => x
  | fuel + 1, x => match x.held with
    | [] => x
    | h :: rest => match gwStore x now h.1 h.2 with
      | (x, true) => gwRetry now fuel { x with held := rest }
      | (x, false) => x

/-- Everything a gateway window can do now. (log entry 67, DEDUCED) -/
def State.gwGo (s : State) (g : Nat) : State :=
  let x := s.gw g
  let x := gwRetry s.dtime (x.held.length + 1) (gwFree x)
  (s.setGw g x).gwPump g (4096 * 17 + 2)

/-- The gateway windows of a QP go on. -/
def State.gwsGo (s : State) (q : Nat) : State := (gwsOf s q).foldl (fun s g => s.gwGo g) s

end Sys2Proof.Machine
end

