-- ==== Sys2Proof/Machine/ShuttleRows.lean ====
section
/-!
DEFINITION. Shuttle's rows: the Ethernet ports, queue-pair actions, work requests, received packets, acknowledgements and timers, and completions
(R486 to R522, R526).
-/
namespace Sys2Proof.Machine

/-! ### Ports (R486 to R488) -/

/-- Whether a port takes frames. -/
def portOn (s : State) (p : Nat) : Bool := s.flag Fd.SHT_PORT_EN p && s.fld Fd.SHT_PORTST_STATE p == 2

/-- A frame dropped and counted (R487). -/
def State.dropFrame (s : State) : State := s.addFld Fd.SHT_CNT2_DROPS 1

/-- R486: a port's link changes state (R524): 0 DOWN, 1 TRAINING, 2 UP. -/
def opShuttlePortLink (p st : Nat) (s : State) : State :=
  let s := if s.fld Fd.SHT_PORTST_STATE p = 2 ∧ st = 0 then s.addFld Fd.SHT_PORTST_DOWNS 1 p else s
  s.setFld Fd.SHT_PORTST_STATE st p
/-- R486. -/
def execShuttlePortLink (port : Fin 2) (state : Fin 3) (s : State) : Res := .next (opShuttlePortLink port.val state.val s)

/-- R487: an ARP request for an IPv4 address, its lowest-numbered byte in bits [7:0]. -/
def opArpRequest (p target : Nat) (s : State) : State :=
  if portOn s p ∧ target = s.fld Fd.SHT_IP4_IP4 p then s.emit (.etherReply p 0 (leBytes 6 (s.fld Fd.SHT_MAC_MAC p))) else s.dropFrame
/-- R487. -/
def execArpRequest (port : Fin 2) (target : BitVec 32) (s : State) : Res := .next (opArpRequest port.val target.toNat s)

/-- R487: a Neighbour Discovery message for an IPv6 address. -/
def opNeighbourSolicitation (p target : Nat) (s : State) : State :=
  if portOn s p ∧ target = portIp6 s p then s.emit (.etherReply p 1 (leBytes 6 (s.fld Fd.SHT_MAC_MAC p))) else s.dropFrame
/-- R487. -/
def execNeighbourSolicitation (port : Fin 2) (target : Wide) (s : State) : Res := .next (opNeighbourSolicitation port.val target.toNat s)

/-- R487: an echo request to an address of the port. -/
def opIcmpEchoRequest (p : Nat) (v6 : Bool) (dst : Nat) (bs : List Byte) (s : State) : State :=
  if portOn s p ∧ dst = (if v6 then portIp6 s p else s.fld Fd.SHT_IP4_IP4 p) then s.emit (.etherReply p 2 bs) else s.dropFrame
/-- R487. -/
def execIcmpEchoRequest (port : Fin 2) (v6 : Bool) (dst : Wide) (bytes : List Byte) (s : State) : Res := .next (opIcmpEchoRequest port.val v6 dst.toNat bytes s)

/-- R487: any other frame. -/
def opOtherReceivedFrame (s : State) : State := s.dropFrame
/-- R487. -/
def execOtherReceivedFrame (s : State) : Res := .next (opOtherReceivedFrame s)

/-- R488: a priority flow-control frame: its class enables and pause times in quanta of 512 bit times, 0.64 ns at 800 Gb/s. (log entry 75, DEDUCED) -/
def opPfcFrame (p enables : Nat) (quanta : List Nat) (s : State) : State :=
  let c := s.fld Fd.SHT_PORT_PCP p
  if portOn s p ∧ s.flag Fd.SHT_PORT_PFCRX p ∧ bitAt enables c then
    ({ s with pfcUntil := mapIns p (s.dtime + ceilDiv (64 * quanta.getD c 0) 100) s.pfcUntil } : State).portPump
  else s
/-- R488. -/
def execPfcFrame (port : Fin 2) (enables : BitVec 8) (quanta : List Nat) (s : State) : Res := .next (opPfcFrame port.val enables.toNat quanta s)

/-! ### Queue-pair actions (R494, R495, R526) -/

/-- SHT_QPQ after an action: the QP named, and the code of a refused action, which stays until another is refused. -/
def State.qpq (s : State) (q err : Nat) : State :=
  let s := s.setFld Fd.SHT_QPQ_QPN q
  if err = 0 then s else s.setFld Fd.SHT_QPQ_ERR err

/-- SHT_QPST0 and SHT_QPST1 of a QP (R528). -/
def qpStWords (x : Qp) : Word × Word :=
  (packWord [(40, x.snxt), (16, x.cpsn), (8, x.err), (0, x.st)], packWord [(48, x.sent.length), (32, x.retry), (0, x.scomp)])

/-- R526: READ. -/
def opQpRead (q : Nat) (s : State) : State :=
  let x := s.qp q
  let s := (List.range 8).foldl (fun s i => s.setReg .SHT_QPC i (wordAt x.ctx i)) s
  ((s.setReg .SHT_QPST0 0 (qpStWords x).1).setReg .SHT_QPST1 0 (qpStWords x).2).qpq q 0
/-- R526. -/
def execQpRead (qpn : Fin 65536) (s : State) : Res := .next (opQpRead qpn.val s)

/-- R526: WRITE, into a FREE QP. -/
def opQpWrite (q : Nat) (s : State) : State :=
  let x := s.qp q
  if x.st ≠ qpFree then s.qpq q 1
  else (s.setQp q { x with ctx := (List.range 8).map fun i => s.reg .SHT_QPC i }).qpq q 0
/-- R526. -/
def execQpWrite (qpn : Fin 65536) (s : State) : Res := .next (opQpWrite qpn.val s)

/-- Whether a context's fields are in range (R494, R527). -/
def Qp.fieldsOk (x : Qp) : Bool :=
  decide (1 ≤ x.cf 0 44 37) && decide (x.cf 0 33 32 ≤ 2) && decide (1 ≤ x.window) && decide (x.window ≤ 1024) && decide (0 < x.cf 0 14 13) &&
    decide (x.cf 1 31 16 + x.cf 0 20 15 ≤ 65535) && [5, 6, 7].all fun i => decide (6 ≤ x.cf i 4 0) && decide (x.cf i 4 0 ≤ 16)

/-- The code of SHT_QPQ.ERR that refuses ACTIVATE, 0 where nothing does. (log entry 71, DEDUCED) -/
def activateError (s : State) (q : Nat) : Nat :=
  let x := s.qp q
  let h := x.host s
  if x.st ≠ qpFree then 1
  else if !s.active x.tenant then 2
  else if !x.fieldsOk then 5
  else if !(rangeOpen s h (x.base 5) (64 * x.slots 5) && rangeOpen s h (x.base 6) (32 * x.slots 6) && rangeOpen s h (x.base 7) (64 + 32 * x.slots 7)) then 3
  else if tenantSealed s x.tenant ∧ !(x.enc && (mapFind s.qpKeys q).isSome) then 4
  else 0

/-- R494, R495: ACTIVATE. (log entry 71, DEDUCED) -/
def opQpActivate (q : Nat) (s : State) : State :=
  let e := activateError s q
  if e ≠ 0 then s.qpq q e
  else
    let x := s.qp q
    (s.setQp q { Qp.fresh x.ctx with st := qpReady, snxt := x.cf 1 55 32, cpsn := x.cf 2 23 0 }).qpq q 0
/-- R495. -/
def execQpActivate (qpn : Fin 65536) (s : State) : Res := .next (opQpActivate qpn.val s)

/-- R512: the ERROR action. -/
def opQpError (q : Nat) (s : State) : State :=
  if (s.qp q).st ≠ qpReady then s.qpq q 1 else (s.qpFail q stFlushed none).qpq q 0
/-- R512. -/
def execQpError (qpn : Fin 65536) (s : State) : Res := .next (opQpError qpn.val s)

/-- R494: RESET. The QP keeps its context. -/
def opQpReset (q : Nat) (s : State) : State :=
  let x := s.qp q
  if x.st ≠ qpError then s.qpq q 1 else (s.setQp q (Qp.fresh x.ctx)).qpq q 0
/-- R494. -/
def execQpReset (qpn : Fin 65536) (s : State) : Res := .next (opQpReset qpn.val s)

/-- R496: a host writes a word of a QP's control line. An ERROR QP flushes what is posted then (R512). -/
def opQpControlWrite (h q word : Nat) (v : Word) (s : State) : State :=
  let x := s.qp q
  let s := opPlainWrite h (x.base 7 + 8 * word) ((leBytes 8 v.toNat).map some) s
  (s.flushSq q (x.slots 5 + 1)).flushRq q (x.slots 6 + 1)
/-- R496. -/
def execQpControlWrite (host : HostId) (qpn : Fin 65536) (word : Fin 3) (value : Word) (s : State) : Res :=
  .next (opQpControlWrite host.val qpn.val word.val value s)

/-! ### Work requests (R497 to R503, R519, R521) -/

/-- The translations that an access needs (R518): true where one is missing and the page is not there. (log entry 74, DEDUCED) -/
def State.translate (s : State) (x : Qp) (a n : Nat) (fault : Bool) : State × Bool :=
  if !x.ats ∨ n = 0 then (s, false)
  else
    let keys := (List.range ((a + n - 1) / 4096 - a / 4096 + 1)).map fun i => (x.host s, x.cf 2 43 24, a / 4096 + i)
    let need := keys.filter fun k => !s.atsCache.contains k
    if need = [] then (s, false)
    else if fault then (s, true)
    else ({ s with atsCache := lastN 32768 (s.atsCache ++ need) }, false)

/-- Whether a work request's fields are valid (R497, R502, R522). (log entry 69, DEDUCED) -/
def wrValid (x : Qp) (w : QpWr) : Bool :=
  if w.op = 1 then decide (w.len ≤ 4194304)
  else if w.op = 2 then decide (1 ≤ w.len) && decide (w.len ≤ 4194304)
  else if w.op = 5 then decide (w.rtype ≤ 4) && decide (1 ≤ w.len) && decide (w.len ≤ x.mtu) && w.len % elemBytes w.rtype == 0 && w.raddr % elemBytes w.rtype == 0
  else if w.op = 3 ∨ w.op = 4 then w.len == 0 && w.raddr % 8 == 0
  else (w.op == 6 || w.op == 7) && w.len == 0

/-- Whether a work request reads a local source. -/
def wrReads (w : QpWr) : Bool := (w.op == 1 || w.op == 2 || w.op == 5) && decide (0 < w.len)

/-- What a work request's source gives. -/
inductive Source where
  | bad (status : Nat) | stall | data (bs : List Byte)
  deriving DecidableEq, Repr

/-- Read a work request's source: host memory or a plain region, its address checked (R499, R522). (log entry 72, DEDUCED) -/
def State.wrSource (s : State) (q : Nat) (w : QpWr) (hm : HostMem) (fault : Bool) : State × Source :=
  let x := s.qp q
  let h := x.host s
  if !wrReads w then (s, .data [])
  else if w.lkind = 0 then
    match s.translate x w.laddr w.len fault with
    | (s, true) => (s.emit (.pageRequest h q w.laddr), .stall)
    | (s, false) => match hostRead hm w.laddr w.len with
      | some bs => (s, .data bs)
      | none => (s, .bad 0x09)
  else if !rangeBacked s h w.laddr w.len then (s.countUnbacked, .bad 0x07)
  else match rangeDenied s h w.laddr w.len false with
    | some a => (s.deny h false a, .bad 0x07)
    | none => if rangePoison s w.laddr w.len then (s, .bad 0x09) else (s, .data (s.plainBytes w.laddr w.len))

/-- The plain lines that a work request reads. -/
def wrLines (w : QpWr) : List (Nat × Nat) := if wrReads w ∧ w.lkind = 1 then [(w.laddr, w.len)] else []

/-- Send a started work request, whose source is at hand. -/
def State.wrSend (s : State) (q : Nat) (w : QpWr) (data : List Byte) : State :=
  let x := s.qp q
  if w.op = 1 then (s.setQp q { x with msn := (x.msn + 1) % psnMod }).launch q w (x.split q 1 x.msn 0 data)
  else if w.op = 2 then s.launch q w (x.split q 2 0 w.raddr data)
  else if w.op = 6 then s.launch q w [x.packet q 5 0]
  else if w.op = 7 then s.sendDone q w stOk 0
  else
    let body := if w.op = 3 then leBytes 8 w.opnd0 ++ leBytes 8 w.opnd1 else if w.op = 4 then leBytes 8 w.opnd0 else data
    let p := { x.packet q 3 0 with seq := x.nsn, raddr := w.raddr, op := w.op - 2, rtype := if w.op = 5 then w.rtype else 0, payload := body }
    (s.setQp q { x with nsn := (x.nsn + 1) % 65536 }).launch q { w with nsn := some x.nsn } [p]

/-- A work request that fails before it sends anything: it completes with its status and the QP enters ERROR (R512). -/
def State.wrBad (s : State) (q : Nat) (w : QpWr) (status : Nat) : State :=
  let x := s.qp q
  (s.setQp q { x with wrs := x.wrs ++ [w] }).qpFail q status (some w.idx)

/-- Start a work request: its fields, then its source (R497, R499, R519). -/
def State.wrStart (s : State) (q : Nat) (w : QpWr) (hm : HostMem) (fault : Bool) : State :=
  if !wrValid (s.qp q) w then s.wrBad q w 0x0A
  else match s.wrSource q w hm fault with
    | (s, .bad st) => s.wrBad q w st
    | (s, .stall) => s.setQp q { s.qp q with stalled := true, wrs := (s.qp q).wrs ++ [w] }
    | (s, .data bs) => s.wrSend q w bs

/-- R521: whether the completions that a work request waits for have come. -/
def waitMet (s : State) (w : QpWr) : Bool :=
  match w.waits with
  | none => true
  | some (p, n) => decide (idxSub (s.qp p).scomp n < 2 ^ 31)

/-- Whether a QP may take its next work request (R496, R499, R513, R519, R521). (log entry 70, DEDUCED) -/
def wrTakeable (s : State) (q : Nat) : Bool :=
  let x := s.qp q
  let d := idxSub (ctrlWord s x 0) x.sqHead
  x.st == qpReady && s.flag Fd.SHT_CFG_EN && !x.stalled && !shQuiet s && decide (0 < d) && decide (d ≤ x.slots 5) &&
    decide (idxSub x.cqTail (ctrlWord s x 2) < x.slots 7) && x.wrs.all fun w => w.waits.isNone

/-- Take the next work request where its OP is one of the row's (R506): an invalid OP is taken by the row of NOP. (log entry 69, DEDUCED) -/
def State.wrTake (s : State) (q : Nat) (ops : Nat → Bool) (hm : HostMem) (fault : Bool) : State :=
  if !wrTakeable s q then s
  else
    let x := s.qp q
    let a := x.base 5 + 64 * (x.sqHead % x.slots 5)
    let job := shJob q
    match s.wake.coherentFor job ((mapFind s.curLog job).getD []) [(a, 64)] [] with
    | (s, false) => s
    | (s, true) =>
      let w := wrOf (s.plainBytes a 64) x.sqHead
      if !ops w.op then s
      else match s.coherentJob job ((a, 64) :: if rangeBacked s (x.host s) w.laddr (max 1 w.len) then wrLines w else []) [] with
        | (s, false) => s
        | (s, true) =>
          let s := s.setQp q { s.qp q with sqHead := (x.sqHead + 1) % 2 ^ 32 }
          match w.waits with
          | some (p, _) =>
            if p < 65536 ∧ (s.qp p).tenant = x.tenant then
              (if waitMet s w then s.wrStart q { w with waits := none } hm fault else s.setQp q { s.qp q with wrs := (s.qp q).wrs ++ [w] })
            else s.wrBad q { w with waits := none } 0x0A
          | none => s.wrStart q w hm fault

/-- R500: SEND. -/
def opWrSend (q : Nat) (hm : HostMem) (fault : Bool) (s : State) : State := s.wrTake q (· == 1) hm fault
/-- R500. -/
def execWrSend (qpn : Fin 65536) (hostMem : HostMem) (fault : Bool) (s : State) : Res := .next (opWrSend qpn.val hostMem fault s)
/-- R501: PUT. -/
def opWrPut (q : Nat) (hm : HostMem) (fault : Bool) (s : State) : State := s.wrTake q (· == 2) hm fault
/-- R501. -/
def execWrPut (qpn : Fin 65536) (hostMem : HostMem) (fault : Bool) (s : State) : Res := .next (opWrPut qpn.val hostMem fault s)
/-- R502: COMPARE-SWAP. -/
def opWrCompareSwap (q : Nat) (s : State) : State := s.wrTake q (· == 3) [] false
/-- R502. -/
def execWrCompareSwap (qpn : Fin 65536) (s : State) : Res := .next (opWrCompareSwap qpn.val s)
/-- R502: FETCH-ADD. -/
def opWrFetchAdd (q : Nat) (s : State) : State := s.wrTake q (· == 4) [] false
/-- R502. -/
def execWrFetchAdd (qpn : Fin 65536) (s : State) : Res := .next (opWrFetchAdd qpn.val s)
/-- R502: REDUCE. -/
def opWrReduce (q : Nat) (hm : HostMem) (fault : Bool) (s : State) : State := s.wrTake q (· == 5) hm fault
/-- R502. -/
def execWrReduce (qpn : Fin 65536) (hostMem : HostMem) (fault : Bool) (s : State) : Res := .next (opWrReduce qpn.val hostMem fault s)
/-- R503: FLUSH. -/
def opWrFlush (q : Nat) (s : State) : State := s.wrTake q (· == 6) [] false
/-- R503. -/
def execWrFlush (qpn : Fin 65536) (s : State) : Res := .next (opWrFlush qpn.val s)
/-- R497: NOP; a work request of an invalid OP completes INVALID_WR. (log entry 69, DEDUCED) -/
def opWrNop (q : Nat) (s : State) : State := s.wrTake q (fun op => op == 7 || op == 0 || decide (7 < op)) [] false
/-- R497. -/
def execWrNop (qpn : Fin 65536) (s : State) : Res := .next (opWrNop qpn.val s)

/-- R521: a work request that waited starts. -/
def opWrWaitSatisfied (q : Nat) (hm : HostMem) (fault : Bool) (s : State) : State :=
  let x := s.qp q
  match x.wrs.find? fun w => w.waits.isSome with
  | none => s
  | some w =>
    if x.st ≠ qpReady ∨ shQuiet s ∨ !waitMet s w then s
    else match s.coherentJob (shJob q) (if rangeBacked s (x.host s) w.laddr (max 1 w.len) then wrLines w else []) [] with
      | (s, false) => s
      | (s, true) => (s.setQp q { s.qp q with wrs := (s.qp q).wrs.filter fun y => y.waits.isNone }).wrStart q { w with waits := none } hm fault
/-- R521. -/
def execWrWaitSatisfied (qpn : Fin 65536) (hostMem : HostMem) (fault : Bool) (s : State) : Res := .next (opWrWaitSatisfied qpn.val hostMem fault s)

/-! ### Answers (R492, R507, R508) -/

/-- The SACK of a receiver (R491). -/
def Qp.sack (x : Qp) : Nat := (List.range 32).foldl (fun m k => if x.rcvd.contains ((x.cpsn + 1 + k) % psnMod) then m + 2 ^ k else m) 0

/-- An answer of a type for a PSN, with a code and a payload; it carries CPSN and SACK, and nothing is left unanswered. -/
def State.shAnswer (s : State) (q typ psn code : Nat) (payload : List Byte) : State :=
  let x := s.qp q
  (s.setQp q { x with unanswered := 0 }).transmit q { x.packet q typ psn with seq := x.cpsn, sack := x.sack, code, payload } 0

/-- An ACK (R508). -/
def State.shAck (s : State) (q psn : Nat) : State := s.shAnswer q 7 psn 0 []
/-- A NAK with its code (R492). -/
def State.shNak (s : State) (q psn code : Nat) : State := s.shAnswer q 8 psn code []

/-- CPSN moves past every PSN received. -/
def advance : Nat → Nat → List Nat → Nat × List Nat
  | 0, c, r => (c, r)
  | fuel + 1, c, r => if r.contains c then advance fuel ((c + 1) % psnMod) (r.filter (· != c)) else (c, r)

/-- A request packet is accepted (R507, R508): marked, and answered once eight are unanswered. -/
def State.accept (s : State) (q psn : Nat) : State :=
  let x := s.qp q
  let (c, r) := advance (x.rcvd.length + 2) x.cpsn (psn :: x.rcvd)
  let s := s.setQp q { x with cpsn := c, rcvd := r, lastRx := psn, unanswered := x.unanswered + 1, faultNaks := mapDel psn x.faultNaks }
  if 8 ≤ x.unanswered + 1 then s.shAck q psn else s

/-- R508: within 2 µs of an unanswered request packet the receiver answers. -/
def opAckTimer (q : Nat) (s : State) : State :=
  let x := s.qp q
  if x.st = qpReady ∧ 0 < x.unanswered then s.shAck q x.lastRx else s
/-- R508. -/
def execAckTimer (qpn : Fin 65536) (s : State) : Res := .next (opAckTimer qpn.val s)

/-! ### Received packets (R489, R493, R507, R511, R514, R515) -/

/-- What carries a packet is in order (R489, R491, R511): it is sent to the port's own address and the UDP port of Shuttle, its checksum is right, or zero over IPv4; VER is 1,
EXT is set exactly for PUT and NMO_REQ, and PAYLEN is the payload's length. -/
def shWireOk (s : State) (port src : Nat) (w : ShWire) (p : ShPkt) : Bool :=
  w.dst == portIp s port w.v6 && w.dport == s.fld Fd.SHT_CFG_UDPPORT &&
    (w.sum == udpChecksum w.v6 src w.dst w.sport w.dport p.wire || (w.sum == 0 && !w.v6)) &&
    w.ver == 1 && w.ext == (p.typ == 2 || p.typ == 3) && w.paylen == p.payload.length

/-- Whether a packet's header is valid for its QP (R511). -/
def shHeaderOk (x : Qp) (p : ShPkt) : Bool :=
  if p.typ = 1 ∨ p.typ = 2 then
    p.off % x.mtu == 0 && decide (p.off < max 1 p.tlen) && p.payload.length == min x.mtu (p.tlen - p.off) && decide (p.tlen ≤ 4194304) &&
      (p.typ == 1 || decide (1 ≤ p.tlen)) &&
      (p.typ == 2 || x.recvs.all fun r => r.msn != p.seq || r.tlen == p.tlen)
  else if p.typ = 3 then decide (p.payload.length ≤ x.mtu)
  else if p.typ = 4 then p.payload.length == 8
  else p.payload.isEmpty

/-- R489, R493, R511: what a received packet has to pass. It is dropped and counted, or accepted for its QP and counted. (log entry 70, DEDUCED) -/
def State.shReceive (s : State) (port src : Nat) (w : ShWire) (p : ShPkt) : State × Bool :=
  let x := s.qp p.dqpn
  if !portOn s port ∨ !s.flag Fd.SHT_CFG_EN ∨ !shWireOk s port src w p then (s.dropFrame, false)
  else if x.st ≠ qpReady then (s.dropFrame, false)
  else if p.enc != x.enc || (x.enc && !p.icvOk (qpKey s p.dqpn) (1 - x.cf 0 45 45)) then (s.addFld Fd.SHT_CNT2_ICVFAIL 1, false)
  else if w.v6 == (x.cf 0 12 12 == 1) ∨ src ≠ x.rip ∨ p.sqpn ≠ x.cf 1 15 0 ∨ !shHeaderOk x p then (s.dropFrame, false)
  else (s.wake, true)

/-- What a packet that was accepted holds: its payload decrypted where its QP's packets are sealed (R493). -/
def State.unseal (s : State) (p : ShPkt) : ShPkt :=
  let x := s.qp p.dqpn
  if x.enc then { p with payload := gcmCrypt (shKeys (qpKey s p.dqpn)) (p.nonce (1 - x.cf 0 45 45)) p.payload } else p

/-- Where a request packet's PSN lies (R507, R514). -/
inductive PsnPlace where
  | fresh | dup | beyond
  deriving DecidableEq, Repr

/-- R507, R514. (log entry 72, DEDUCED) -/
def psnPlace (x : Qp) (psn : Nat) : PsnPlace :=
  let d := psnSub psn x.cpsn
  if d < x.window then (if x.rcvd.contains psn then .dup else .fresh)
  else if 2 ^ 23 ≤ d then .dup else .beyond

/-- The receive-side job of a QP. -/
def rxJob (q : Nat) : Nat := 3 * jobBase + 65536 + q

/-- A packet waits for lines or a translation; it is kept once. -/
def State.shHold (s : State) (q : Nat) (p : ShPkt) : State :=
  let x := s.qp q
  if x.held.any fun y => y.psn == p.psn then s else s.setQp q { x with held := x.held ++ [p] }

/-- A packet no longer waits. -/
def State.shUnhold (s : State) (q psn : Nat) : State :=
  let x := s.qp q
  s.setQp q { x with held := x.held.filter fun y => y.psn != psn }

/-- Whether writes of the part's own engines still wait for lines. (log entry 73, DEDUCED) -/
def enginePending (s : State) : Bool := s.lineQ.any fun r => r.host.isNone

/-- Whether a message in host memory has all its packets and waits for its zero-length read (R503, R505). (log entry 73, DEDUCED) -/
def hostPending (x : Qp) : Bool := x.recvs.any fun r => r.kind == 0 && decide (0 < r.tlen) && r.got.length == max 1 (ceilDiv r.tlen x.mtu)

/-- R503: FLUSHes whose condition holds are answered: every earlier packet received, applied and visible. (log entry 73, DEDUCED) -/
def State.flushAnswers (s : State) (q : Nat) : State :=
  let x := s.qp q
  if x.st ≠ qpReady ∨ enginePending s ∨ hostPending x then s
  else
    let ready := x.flushes.filter fun f => decide (psnSub x.cpsn (f + 1) < 2 ^ 23)
    let s := s.setQp q { x with flushes := x.flushes.filter fun f => !ready.contains f }
    ready.foldl (fun s f => s.shAnswer q 6 f 0 []) s

/-- R502, R503: a check of a remote range in the name of the receiving QP's tenant. -/
def State.shTarget (s : State) (q a n : Nat) (rd wr : Bool) : State × Bool :=
  let x := s.qp q
  let h := x.host s
  if !x.putOk then (s, false)
  else if !rangeBacked s h a n then (s.countUnbacked, false)
  else match (if rd then rangeDenied s h a n false else none), (if wr then rangeDenied s h a n true else none) with
    | some b, _ => (s.deny h false b, false)
    | none, some b => (s.deny h false b, false)
    | none, none => (s, true)

/-- The receive entry that an MSN binds, where it is posted (R500, R510): its address, length, kind and WRID. -/
def recvEntry (s : State) (x : Qp) (msn : Nat) : Option (Nat × Nat × Nat × Nat) :=
  let d := psnSub (ctrlWord s x 1 % psnMod) msn
  if d = 0 ∨ x.slots 6 < d then none
  else
    let ws := wordsOf (ringSlot s x 6 32 msn)
    some ((wordAt ws 0).toNat, fieldOf ws 1 31 0, fieldOf ws 1 32 32, (wordAt ws 2).toNat)

/-- A message's receive entry fails: it completes with a status, a NAK goes out, and the QP enters ERROR (R505, R520). -/
def State.recvFail (s : State) (q psn msn wrid status nak : Nat) : State :=
  let x := s.qp q
  let s := s.setQp q { x with recvs := x.recvs.filter fun r => r.msn != msn }
  ((s.recvDone q msn wrid status 0).shNak q psn nak).qpFail q status none

/-- R505, R517: bind a message's receive entry: the message, or what ended it. -/
def State.bindRecv (s : State) (q : Nat) (p : ShPkt) : State × Option QpRecv :=
  let x := s.qp q
  match x.recvs.find? fun r => r.msn == p.seq with
  | some r => (s, some r)
  | none => match recvEntry s x p.seq with
    | none => (s.shNak q p.psn 1, none)
    | some (a, len, kind, wrid) =>
      let h := x.host s
      if len < p.tlen then (s.recvFail q p.psn p.seq wrid 0x06 5, none)
      else if kind = 1 ∧ 0 < len ∧ (!rangeBacked s h a len || (rangeDenied s h a len true).isSome) then (s.recvFail q p.psn p.seq wrid 0x07 3, none)
      else
        let r : QpRecv := { msn := p.seq, addr := a, kind, wrid, tlen := p.tlen, got := [] }
        (s.setQp q { x with recvs := x.recvs ++ [r] }, some r)

/-- R517: place a SEND packet; the last one of a message in host memory is followed by a zero-length read of the last address written (R267, R503). -/
def State.placeSend (s : State) (q : Nat) (p : ShPkt) (r : QpRecv) : State :=
  let x := s.qp q
  let s := if r.kind = 1 then s.engineWrite (r.addr + p.off) p.payload
    else if p.payload = [] then s else s.emit (.hostWrite (x.host s) (r.addr + p.off) p.payload)
  let r' := { r with got := (p.off / x.mtu) :: r.got.filter (· != p.off / x.mtu) }
  let s := (s.setQp q { x with recvs := x.recvs.map fun y => if y.msn = r.msn then r' else y }).accept q p.psn
  if r'.got.length = max 1 (ceilDiv r.tlen x.mtu) ∧ r.kind = 0 ∧ p.payload ≠ [] then
    s.emit (.hostReadZero (x.host s) (r.addr + p.off + p.payload.length - 1))
  else s

/-- R517, R520: a fresh SEND packet; `fault` says that a translation it needs is not there. -/
def State.onSend (s : State) (q : Nat) (p : ShPkt) (fault : Bool) : State :=
  let x := s.qp q
  match s.coherentJob (rxJob q) [(x.base 6 + 32 * (p.seq % x.slots 6), 32)] [] with
  | (s, false) => s.shHold q p
  | (s, true) => match s.bindRecv q p with
    | (s, none) => s
    | (s, some r) =>
      if r.kind = 0 then
        match s.translate x (r.addr + p.off) p.payload.length fault with
        | (s, true) => (s.shHold q p).emit (.pageRequest (x.host s) q (r.addr + p.off))
        | (s, false) => s.placeSend q p r
      else s.placeSend q p r

/-- R517: a SEND packet arrives. -/
def opShuttleSend (port src : Nat) (udp : ShWire) (p : ShPkt) (fault : Bool) (s : State) : State :=
  let p := { p with typ := 1 }
  match s.shReceive port src udp p with
  | (s, false) => s
  | (s, true) =>
    let p := s.unseal p
    let q := p.dqpn
    match psnPlace (s.qp q) p.psn with
    | .beyond => s.dropFrame
    | .dup => ((s.addFld Fd.SHT_CNT0_RXPKT 1).addFld Fd.SHT_CNT1_DUPS 1).shAck q p.psn
    | .fresh => ((s.addFld Fd.SHT_CNT0_RXPKT 1).onSend q p fault).flushAnswers q
/-- R517. -/
def execShuttleSend (port : Fin 2) (src : Wide) (udp : ShWire) (pkt : ShPkt) (fault : Bool) (s : State) : Res :=
  .next (opShuttleSend port.val src.toNat udp pkt fault s)

/-- R501: a fresh PUT packet. -/
def State.onShPut (s : State) (q : Nat) (p : ShPkt) : State :=
  match s.shTarget q p.raddr (max 1 p.payload.length) false true with
  | (s, false) => s.shNak q p.psn 3
  | (s, true) => (s.engineWrite p.raddr p.payload).accept q p.psn

/-- R501: a PUT packet arrives. -/
def opShuttlePut (port src : Nat) (udp : ShWire) (p : ShPkt) (s : State) : State :=
  let p := { p with typ := 2 }
  match s.shReceive port src udp p with
  | (s, false) => s
  | (s, true) =>
    let p := s.unseal p
    let q := p.dqpn
    match psnPlace (s.qp q) p.psn with
    | .beyond => s.dropFrame
    | .dup => ((s.addFld Fd.SHT_CNT0_RXPKT 1).addFld Fd.SHT_CNT1_DUPS 1).shAck q p.psn
    | .fresh => ((s.addFld Fd.SHT_CNT0_RXPKT 1).onShPut q p).flushAnswers q
/-- R501. -/
def execShuttlePut (port : Fin 2) (src : Wide) (udp : ShWire) (pkt : ShPkt) (s : State) : Res := .next (opShuttlePut port.val src.toNat udp pkt s)

/-- Whether a near-memory request is well formed (R502). -/
def nmoOk (p : ShPkt) : Bool :=
  if p.op = 1 then p.payload.length == 16 && p.raddr % 8 == 0
  else if p.op = 2 then p.payload.length == 8 && p.raddr % 8 == 0
  else p.op == 3 && decide (p.rtype ≤ 4) && decide (0 < p.payload.length) && p.payload.length % elemBytes p.rtype == 0 && p.raddr % elemBytes p.rtype == 0

/-- Bytes that a near-memory request touches. -/
def nmoLen (p : ShPkt) : Nat := if p.op = 3 then p.payload.length else 8

/-- R515: the response of a request that has been executed, kept with the 64 most recent. -/
def State.nmoAnswer (s : State) (q : Nat) (p : ShPkt) (word code : Nat) : State :=
  let x := s.qp q
  let s := s.setQp q { x with cache := lastN 64 (x.cache ++ [(p.seq, word, code)]) }
  (s.accept q p.psn).shAnswer q 4 p.psn code (leBytes 8 word)

/-- R502: a fresh near-memory request; it is executed once. -/
def State.onNmo (s : State) (q : Nat) (p : ShPkt) : State :=
  if !nmoOk p then s.shNak q p.psn 4
  else match s.shTarget q p.raddr (nmoLen p) true true with
    | (s, false) => s.shNak q p.psn 3
    | (s, true) => match s.coherentJob (rxJob q) [] [(p.raddr, nmoLen p)] with
      | (s, false) => s.shHold q p
      | (s, true) =>
        if rangePoison s p.raddr (nmoLen p) then s.nmoAnswer q p 0 1
        else if p.op = 3 then (s.plainPut p.raddr (reduceBytes p.rtype (s.plainBytes p.raddr p.payload.length) p.payload)).nmoAnswer q p 0 0
        else
          let old := ofLE (s.plainBytes p.raddr 8)
          let a := ofLE (p.payload.take 8)
          let new := if p.op = 2 then (old + a) % 2 ^ 64 else if old = a then ofLE (p.payload.drop 8) else old
          (if new = old then s else s.plainPut p.raddr (leBytes 8 new)).nmoAnswer q p old 0

/-- R514, R515: a duplicate near-memory request is answered from the response cache, or dropped and counted. (log entry 72, DEDUCED) -/
def State.nmoAgain (s : State) (q : Nat) (p : ShPkt) : State :=
  match (s.qp q).cache.find? fun e => e.1 == p.seq with
  | some (_, w, code) => ((s.addFld Fd.SHT_CNT3_NMOREPLAY 1).addFld Fd.SHT_CNT1_DUPS 1).shAnswer q 4 p.psn code (leBytes 8 w)
  | none => s.addFld Fd.SHT_CNT3_NMOSTALE 1

/-- R502: an NMO_REQ arrives. -/
def opNmoReq (port src : Nat) (udp : ShWire) (p : ShPkt) (s : State) : State :=
  let p := { p with typ := 3 }
  match s.shReceive port src udp p with
  | (s, false) => s
  | (s, true) =>
    let p := s.unseal p
    let q := p.dqpn
    match psnPlace (s.qp q) p.psn with
    | .beyond => s.dropFrame
    | .dup => (s.addFld Fd.SHT_CNT0_RXPKT 1).nmoAgain q p
    | .fresh => ((s.addFld Fd.SHT_CNT0_RXPKT 1).onNmo q p).flushAnswers q
/-- R502. -/
def execNmoReq (port : Fin 2) (src : Wide) (udp : ShWire) (pkt : ShPkt) (s : State) : Res := .next (opNmoReq port.val src.toNat udp pkt s)

/-- R503: a FLUSH_REQ arrives; a repeated one is answered again when the same condition holds. -/
def opFlushReq (port src : Nat) (udp : ShWire) (p : ShPkt) (s : State) : State :=
  let p := { p with typ := 5 }
  match s.shReceive port src udp p with
  | (s, false) => s
  | (s, true) =>
    let q := p.dqpn
    let x := s.qp q
    let add (s : State) : State := s.setQp q { s.qp q with flushes := (s.qp q).flushes.filter (· != p.psn) ++ [p.psn] }
    match psnPlace x p.psn with
    | .beyond => s.dropFrame
    | .dup => (add ((s.addFld Fd.SHT_CNT0_RXPKT 1).addFld Fd.SHT_CNT1_DUPS 1)).flushAnswers q
    | .fresh => ((add (s.addFld Fd.SHT_CNT0_RXPKT 1)).accept q p.psn).flushAnswers q
/-- R503. -/
def execFlushReq (port : Fin 2) (src : Wide) (udp : ShWire) (pkt : ShPkt) (s : State) : Res := .next (opFlushReq port.val src.toNat udp pkt s)

/-- Packets that waited for lines act once no snoop of the QP is out. -/
def State.pumpQp (s : State) (q : Nat) : State :=
  if s.snoops.any fun y => y.uid == some (rxJob q) then s
  else ((s.qp q).held.foldl (fun s p =>
    if p.typ = 3 then (s.shUnhold q p.psn).onNmo q p
    else if (s.qp q).ats then s
    else (s.shUnhold q p.psn).onSend q p false) s).flushAnswers q

/-- Shuttle goes on after lines have become free. -/
def State.pumpShuttle (s : State) : State := (s.qps.map fun e => e.1).foldl (fun s q => s.pumpQp q) s

/-! ### Acknowledgements (R504, R508 to R510) -/

/-- Whether an acknowledgement covers a PSN (R508). (log entry 72, DEDUCED) -/
def covers (cpsn sack psn : Nat) : Bool :=
  let below := psnSub cpsn psn
  let above := psnSub psn (cpsn + 1)
  (decide (0 < below) && decide (below < 2 ^ 23)) || (decide (above < 32) && bitAt sack above)

/-- SENDs and PUTs with no packet left complete, in the order they were taken (R504). -/
def State.wrsDone (s : State) (q : Nat) : State :=
  let x := s.qp q
  let ended (w : QpWr) : Bool := (w.op == 1 || w.op == 2) && w.psns.isEmpty && w.waits.isNone && !(x.stalled && x.wrs.getLast? == some w)
  let done := x.wrs.filter ended
  let s := s.setQp q { x with wrs := x.wrs.filter fun w => !ended w }
  done.foldl (fun s w => s.sendDone q w stOk 0) s

/-- R508, R509: packets are acknowledged; progress of the oldest restores the retry count. (log entry 72, DEDUCED) -/
def State.acked (s : State) (q cpsn sack : Nat) (also : Option Nat) : State :=
  let x := s.qp q
  let hit (psn : Nat) : Bool := covers cpsn sack psn || also == some psn
  let left := x.sent.filter fun e => !hit e.pkt.psn
  let went := (x.sent.filter fun e => hit e.pkt.psn).map fun e => e.pkt.psn
  let moved := (x.sent.head?.map fun e => e.pkt.psn) != (left.head?.map fun e => e.pkt.psn)
  let wrs := x.wrs.map fun w => if w.op = 1 ∨ w.op = 2 then { w with psns := w.psns.filter fun n => !went.contains n } else w
  let s := s.setQp q { x with sent := left, wrs, retry := if moved then 0 else x.retry }
  ((s.wrsDone q).qpGo q).gwsGo q

/-- The work request that owns a PSN. -/
def ownerWr (x : Qp) (psn : Nat) : Option QpWr := x.wrs.find? fun w => w.psns.contains psn

/-- R508: an ACK arrives. (log entry 72, DEDUCED) -/
def opShuttleAck (port src : Nat) (udp : ShWire) (p : ShPkt) (s : State) : State :=
  let p := { p with typ := 7 }
  match s.shReceive port src udp p with
  | (s, false) => s
  | (s, true) => (s.addFld Fd.SHT_CNT0_RXPKT 1).acked p.dqpn p.seq p.sack none
/-- R508. -/
def execShuttleAck (port : Fin 2) (src : Wide) (udp : ShWire) (pkt : ShPkt) (s : State) : Res := .next (opShuttleAck port.val src.toNat udp pkt s)

/-- A work request leaves those in progress. -/
def State.dropWr (s : State) (q : Nat) (w : QpWr) : State := s.setQp q { s.qp q with wrs := (s.qp q).wrs.erase w }

/-- R503, R504: a response ends its work request, OK or POISONED, and acknowledges. -/
def State.response (s : State) (p : ShPkt) (mine : QpWr → Bool) : State :=
  let q := p.dqpn
  let s := s.addFld Fd.SHT_CNT0_RXPKT 1
  let w := (ownerWr (s.qp q) p.psn).filter mine
  match w with
  | none => s.acked q p.seq p.sack none
  | some w =>
    let s := s.acked q p.seq p.sack (some p.psn)
    if p.code = 0 then (((s.dropWr q w).sendDone q w stOk (if w.op = 3 ∨ w.op = 4 then ofLE p.payload else 0)).qpGo q).gwsGo q
    else s.qpFail q 0x09 (if w.gw.isNone then some w.idx else none)

/-- R504: an NMO_RESP arrives. -/
def opNmoResp (port src : Nat) (udp : ShWire) (p : ShPkt) (s : State) : State :=
  let p := { p with typ := 4 }
  match s.shReceive port src udp p with
  | (s, false) => s
  | (s, true) => s.response (s.unseal p) fun w => w.nsn.isSome
/-- R504. -/
def execNmoResp (port : Fin 2) (src : Wide) (udp : ShWire) (pkt : ShPkt) (s : State) : Res := .next (opNmoResp port.val src.toNat udp pkt s)

/-- R503: a FLUSH_RESP arrives. -/
def opFlushResp (port src : Nat) (udp : ShWire) (p : ShPkt) (s : State) : State :=
  let p := { p with typ := 6 }
  match s.shReceive port src udp p with
  | (s, false) => s
  | (s, true) => s.response p fun w => w.op == 6
/-- R503. -/
def execFlushResp (port : Fin 2) (src : Wide) (udp : ShWire) (pkt : ShPkt) (s : State) : Res := .next (opFlushResp port.val src.toNat udp pkt s)

/-- Change a packet that is sent and not acknowledged. -/
def State.updSent (s : State) (q psn : Nat) (f : QpSent → QpSent) : State :=
  let x := s.qp q
  s.setQp q { x with sent := x.sent.map fun e => if e.pkt.psn = psn then f e else e }

/-- The index of the work request that a failing packet belongs to. -/
def causeOf (x : Qp) (psn : Nat) : Option Nat := (ownerWr x psn).bind fun w => if w.gw.isNone then some w.idx else none

/-- R510, R512, R520: a NAK: RNR and FAULT wait for their timers, the others put the QP in ERROR. -/
def opShuttleNak (port src : Nat) (udp : ShWire) (p : ShPkt) (s : State) : State :=
  let p := { p with typ := 8 }
  match s.shReceive port src udp p with
  | (s, false) => s
  | (s, true) =>
    let q := p.dqpn
    let s := (s.addFld Fd.SHT_CNT0_RXPKT 1).acked q p.seq p.sack none
    let x := s.qp q
    match x.sent.find? fun e => e.pkt.psn == p.psn with
    | none => s
    | some e =>
      let lim := x.cf 0 36 34
      if p.code = 1 then
        if lim ≠ 7 ∧ lim ≤ e.rnr + 1 then s.qpFail q 0x03 (causeOf x p.psn)
        else s.updSent q p.psn fun e => { e with rnr := e.rnr + 1, waiting := true }
      else if p.code = 2 then s.updSent q p.psn fun e => { e with rnr := 0, waiting := true }
      else if p.code = 3 then s.qpFail q 0x04 (causeOf x p.psn)
      else if p.code = 4 then s.qpFail q 0x05 (causeOf x p.psn)
      else if p.code = 5 then s.qpFail q 0x06 (causeOf x p.psn)
      else s
/-- R510. -/
def execShuttleNak (port : Fin 2) (src : Wide) (udp : ShWire) (pkt : ShPkt) (s : State) : Res := .next (opShuttleNak port.val src.toNat udp pkt s)

/-- Send a packet again. -/
def State.resend (s : State) (q : Nat) (e : QpSent) : State :=
  (s.updSent q e.pkt.psn fun e => { e with retries := e.retries + 1, waiting := false }).transmit q e.pkt (e.retries + 1)

/-- R509: the retransmission timer fires. -/
def opRetxTimeout (q : Nat) (s : State) : State :=
  let x := s.qp q
  if x.st ≠ qpReady ∨ x.sent = [] ∨ x.stalled ∨ shQuiet s then s
  else if 7 ≤ x.retry then s.qpFail q 0x02 ((x.sent.head?).bind fun e => causeOf x e.pkt.psn)
  else x.sent.foldl (fun s e => s.resend q e) (s.setQp q { x with retry := x.retry + 1 })
/-- R509. -/
def execRetxTimeout (qpn : Fin 65536) (s : State) : Res := .next (opRetxTimeout qpn.val s)

/-- A packet that waits for its timer is sent again. -/
def State.retryTimer (s : State) (q psn : Nat) : State :=
  let x := s.qp q
  match x.sent.find? fun e => e.pkt.psn == psn && e.waiting with
  | some e => if x.st = qpReady ∧ !x.stalled ∧ !shQuiet s then s.resend q e else s
  | none => s

/-- R510: RNRUS µs after a NAK RNR. -/
def opRnrRetryTimer (q psn : Nat) (s : State) : State := s.retryTimer q psn
/-- R510. -/
def execRnrRetryTimer (qpn : Fin 65536) (psn : Fin 16777216) (s : State) : Res := .next (opRnrRetryTimer qpn.val psn.val s)

/-- R520: 32 µs after a NAK FAULT. -/
def opFaultRetryTimer (q psn : Nat) (s : State) : State := s.retryTimer q psn
/-- R520. -/
def execFaultRetryTimer (qpn : Fin 65536) (psn : Fin 16777216) (s : State) : Res := .next (opFaultRetryTimer qpn.val psn.val s)

/-! ### Translation faults (R518 to R520) -/

/-- The receive entry of a held packet fails with FAULT. -/
def State.faultFail (s : State) (q : Nat) (p : ShPkt) : State :=
  let wrid := (((s.qp q).recvs.find? fun r => r.msn == p.seq).map fun r => r.wrid).getD 0
  s.recvFail q p.psn p.seq wrid 0x08 3

/-- R520: a held packet whose translation has not come within 20 µs is dropped. After 64 NAK FAULTs for it the entry fails. (log entry 74, DEDUCED) -/
def opPlacementFaultTimeout (q psn : Nat) (s : State) : State :=
  let x := s.qp q
  match x.held.find? fun p => p.psn == psn && p.typ == 1 with
  | none => s
  | some p =>
    if !x.ats ∨ x.st ≠ qpReady then s
    else
      let n := (mapFind x.faultNaks psn).getD 0 + 1
      let s := (s.setQp q { x with faultNaks := mapIns psn n x.faultNaks }).shUnhold q psn
      if 64 ≤ n then s.faultFail q p else s.shNak q psn 2
/-- R520. -/
def execPlacementFaultTimeout (qpn : Fin 65536) (psn : Fin 16777216) (s : State) : Res := .next (opPlacementFaultTimeout qpn.val psn.val s)

/-- R519, R520: a page request is answered: for the stalled sender of a QP, or for its held packets. (log entry 74, DEDUCED) -/
def opPageRequestResponse (q : Nat) (rx ok : Bool) (hm : HostMem) (s : State) : State :=
  let x := s.qp q
  if x.st ≠ qpReady then s
  else if rx then
    (x.held.filter fun p => p.typ == 1).foldl (fun s p => if ok then (s.shUnhold q p.psn).onSend q p false else (s.shUnhold q p.psn).faultFail q p) s
  else if !x.stalled then s
  else match x.wrs.getLast? with
    | none => s
    | some w =>
      if ok then ((s.setQp q { x with stalled := false, wrs := x.wrs.dropLast }).wrStart q w hm false).qpGo q
      else s.qpFail q 0x08 (some w.idx)
/-- R519. -/
def execPageRequestResponse (qpn : Fin 65536) (rx ok : Bool) (hostMem : HostMem) (s : State) : Res := .next (opPageRequestResponse qpn.val rx ok hostMem s)

/-- R518: a host invalidates the translations of pages of a PASID; it completes once every write under them has been issued, which this model's steps have done. (log entry 74, DEDUCED) -/
def opAtsInvalidation (h pasid first n : Nat) (s : State) : State :=
  ({ s with atsCache := s.atsCache.filter fun e => !(e.1 == h && e.2.1 == pasid && decide (first ≤ e.2.2) && decide (e.2.2 < first + n)) } : State).emit (.atsDone h)
/-- R518. -/
def execAtsInvalidation (host : HostId) (pasid : BitVec 20) (firstPage pages : Nat) (s : State) : Res :=
  .next (opAtsInvalidation host.val pasid.toNat firstPage pages s)

/-! ### Completions (R499, R505) -/

/-- R505: every byte of a message is placed and visible: its receive completion. -/
def opReceiveComplete (q msn : Nat) (s : State) : State :=
  let x := s.qp q
  match x.recvs.find? fun r => r.msn == msn with
  | none => s
  | some r =>
    if x.st ≠ qpReady ∨ r.got.length ≠ max 1 (ceilDiv r.tlen x.mtu) ∨ (r.kind = 1 ∧ enginePending s) then s
    else ((s.setQp q { x with recvs := x.recvs.erase r }).recvDone q msn r.wrid stOk r.tlen).flushAnswers q
/-- R505. -/
def execReceiveComplete (qpn : Fin 65536) (msn : Fin 16777216) (s : State) : Res := .next (opReceiveComplete qpn.val msn.val s)

/-- The four words of a completion entry (R498). -/
def cqEntry (x : Qp) (q : Nat) (c : QpComp) (dtime : Nat) : List Word :=
  [packWord [(63, b2n (x.cqTail / x.slots 7 % 2 == 0)), (48, c.status), (40, c.op), (24, q), (0, c.msn)], BitVec.ofNat 64 c.wrid, BitVec.ofNat 64 c.result,
    packWord [(0, dtime % 2 ^ 32)]]

/-- R499: the oldest waiting completion is written where the CQ has room. -/
def opCqEntryWrite (q : Nat) (s : State) : State :=
  let x := s.qp q
  match x.comps with
  | [] => s
  | c :: rest =>
    if x.st = qpFree ∨ x.slots 7 ≤ idxSub x.cqTail (ctrlWord s x 2) then s
    else
      let s := s.engineWrite (x.base 7 + 64 + 32 * (x.cqTail % x.slots 7)) (bytesOf (cqEntry x q c s.dtime))
      let s := s.setQp q { x with comps := rest, cqTail := (x.cqTail + 1) % 2 ^ 32 }
      (s.flushSq q (x.slots 5 + 1)).flushRq q (x.slots 6 + 1)
/-- R499. -/
def execCqEntryWrite (qpn : Fin 65536) (s : State) : Res := .next (opCqEntryWrite qpn.val s)

end Sys2Proof.Machine
end

