-- ==== Sys2Proof/Machine/Keys.lean ====
section
/-!
DEFINITION. What Selvedge holds for tenants and groups: the key store's rows, keys made and destroyed, the condition that a sealed tenant's link and TDI meet
(R613, R614, R624, R632, R634).
-/
namespace Sys2Proof.Machine

/-- Writing the named fields of a register: every other bit stays. -/
def writeFields (fs : List Field) (old v : Word) : Word := fs.foldl (fun w f => setBits w f.hi f.lo (bitsOf v f.hi f.lo)) old

/-- A namespace's hash key is generated (R184, R624): namespace t is a tenant's own, 1,024 + g a group's. -/
def State.newHashKey (s : State) (ns : Nat) : State :=
  ({ s with nsKeys := mapIns ns (BitVec.ofNat 128 s.free) s.nsKeys } : State).drawn

/-- A holder's data key is put in place (R624). -/
def State.putDataKey (s : State) (hd key : Nat) : State := { s with dataKeys := mapIns hd key s.dataKeys }

/-- A generated data key (R624). -/
def State.newDataKey (s : State) (hd : Nat) : State := (s.putDataKey hd s.free).drawn

/-- A holder's keys are destroyed in one step (R563, R624). -/
def State.dropKeys (s : State) (hd : Nat) : State :=
  ({ s with nsKeys := mapDel hd s.nsKeys, dataKeys := mapDel hd s.dataKeys } : State).keyWrite hd

/-- A tenant's keys are destroyed: SEC_TSTAT shows none (R659). -/
def State.dropTenantKeys (s : State) (t : Nat) : State :=
  ((s.dropKeys t).setFld Fd.SEC_TSTAT_KEYSRC 0 t).setFld Fd.SEC_TSTAT_HKEY 0 t

/-- The seal of a tenant and its record are cleared, when it reaches FREE after SHRED (R633). -/
def State.clearSeal (s : State) (t : Nat) : State :=
  if !tenantSealed s t then s
  else
    let s := (s.setFld Fd.TNT_STATE_SEALED 0 t).setFld Fd.SEC_TSTAT_SEALED 0 t
    let s := ((s.setFld Fd.SEC_TSTAT_NSEALG 0 t).setFld Fd.SEC_TSTAT_SEALRW 0 t).setFld Fd.SEC_TSTAT_SEALG 0 t
    ({ s with sealReq := mapDel t s.sealReq } : State).keyWrite t

/-! ### The link condition (R632) -/

/-- A link in direct mode (R438). -/
def directLink (s : State) (l : Nat) : Bool := bitsOf (linkConfig s l) 8 8 == 0

/-- Whether a link's IDE stream has its key (R471): stream 0 is CXL.cachemem IDE, 1 the PCIe IDE link stream. -/
def ideSecure (s : State) (l stream : Nat) : Bool := (mapFind s.ideKeys (256 * l + stream)).isSome

/-- The link condition of R632: direct mode, CXL.cachemem IDE active, the PCIe IDE link stream secure. -/
def linkCondition (s : State) (h : Nat) : Bool :=
  match hostLink s h with
  | some l => directLink s l && s.flag Fd.CXL_LINKST_IDE l && ideSecure s l 1
  | none => false

/-! ### Sealed tenants (R633, R634) -/

/-- A host function's TDI (R472). -/
def State.tdi (s : State) (h : Nat) : Tdi := (mapFind s.tdis h).getD { st := 0, session := 0, req := [] }

/-- CONFIG_LOCKED or RUN. -/
def tdiLocked (s : State) (h : Nat) : Bool := (s.tdi h).st == 1 || (s.tdi h).st == 2

/-- Groups of a tenant's seal record (R659). -/
def sealGroups (s : State) (t : Nat) : List Nat :=
  (List.range (s.fld Fd.SEC_TSTAT_NSEALG t)).map fun i => natBits (s.fld Fd.SEC_TSTAT_SEALG t) (8 * i + 7) (8 * i)

/-- Every valid membership names a group of a list, and is read-write only where the mask allows (R632). -/
def membershipsWithin (s : State) (t : Nat) (groups : List Nat) (rw : Nat) : Bool :=
  (List.range 4).all fun n =>
    !s.flag (grpV n) t || groups.zipIdx.any fun e => e.1 == s.fld (grpNum n) t && (!s.flag (grpRw n) t || bitAt rw e.2)

/-- R634: what ACTIVATE and ENABLE of a sealed tenant need besides R107. -/
def sealCondition (s : State) (t : Nat) : Bool :=
  let h := s.hostOf t
  tdiLocked s h && some (s.tdi h).req == mapFind s.sealReq t && linkCondition s h && s.flag Fd.SPL_CFG_CRCREQ t &&
    membershipsWithin s t (sealGroups s t) (s.fld Fd.SEC_TSTAT_SEALRW t)

end Sys2Proof.Machine
end

