-- ==== Sys2Proof/Machine/Tenants.lean ====
section
/-!
DEFINITION. Tenant records and share groups: the states of a tenant, the actions of TNT_CTRL and SG_CFG with their conditions, draining, shredding, and what
the operator may write (R98 to R113, R130, R131, R563, R633 to R635).
-/
namespace Sys2Proof.Machine

/-! ### Reading and writing the records -/

/-- The sum of a TNT_CRED image's six grants, in cells (R104, R111). -/
def grantSum (w : Word) : Nat :=
  4 * (bitsOf w 59 50 + bitsOf w 49 40 + bitsOf w 39 30 + bitsOf w 29 20 + bitsOf w 19 10 + bitsOf w 9 0)

/-- Tenants outside FREE. -/
def tenantsUsed (s : State) : List Nat := (s.regIdx .TNT_STATE).filter fun t => s.tstate t != TState.free.code

/-- The bobbin rule (R111): the grants of every tenant outside FREE, with those of `t` replaced by an image, fit. -/
def bobbinFits (s : State) (t : Nat) (w : Word) : Bool :=
  decide ((((tenantsUsed s).filter (· != t)).map fun u => grantSum (s.reg .TNT_CRED u)).sum + grantSum w ≤ Config.grantCells)

/-- Tenants outside FREE that hold a membership of a group (R110). -/
def groupMembers (s : State) (g : Nat) : List Nat :=
  (tenantsUsed s).filter fun t => (List.range 4).any fun n => s.flag (grpV n) t && s.fld (grpNum n) t == g

/-- TNT_USE0 as it reads (R105). (log entry 35, DEDUCED) -/
def tntUse0 (s : State) (t : Nat) : Word :=
  if s.tstate t = TState.free.code then 0 else packWord [(24, inflightOf s t), (0, chunksCharged s t)]
/-- TNT_USE1 as it reads (R105). -/
def tntUse1 (s : State) (t : Nat) : Word :=
  if s.tstate t = TState.free.code then 0
  else packWord [(30, ceilDiv (flashCharged s t) 1048576 % 2 ^ 28), (0, hbmCharged s t % 2 ^ 30)]
/-- SG_USE0 and SG_USE1 as they read (R110). (log entry 35, DEDUCED) -/
def sgUse0 (s : State) (g : Nat) : Word := packWord [(0, chunksCharged s (1024 + g))]
/-- R110. -/
def sgUse1 (s : State) (g : Nat) : Word :=
  packWord [(30, ceilDiv (flashCharged s (1024 + g)) 1048576 % 2 ^ 28), (0, hbmCharged s (1024 + g) % 2 ^ 30)]
/-- SG_CFG as it reads: MEMBERS is counted (R110). -/
def sgCfgWord (s : State) (g : Nat) : Word := setBits (s.reg .SG_CFG g) 26 16 (groupMembers s g).length

/-- The items that a DRAINING tenant still has to drain (R131): commands without a result, queue pairs not flushed, ring contexts not aborted. (log entry 35, DEDUCED) -/
def drainCount (s : State) (t : Nat) : Nat :=
  (s.inflight.countP fun c => c.tenant == t) + (s.qps.countP fun e => e.2.st == qpReady && e.2.tenant == t) +
    ((s.regIdx .SNL_CTX_ST).countP fun c => (ctxState s c == ctxOpen || ctxState s c == ctxAborting) && s.fld Fd.SNL_CTX_CTL_TENANT c == t)

/-- Entries left on a tenant's erase list (R563). -/
def eraseLeft (s : State) (t : Nat) : List Nat := (mapFind s.eraseLists t).getD []

/-- TNT_STATE as it reads (R100). (log entry 35, DEDUCED) -/
def tntStateWord (s : State) (t : Nat) : Word :=
  let n := if s.tstate t = TState.draining.code then drainCount s t
    else if s.tstate t = TState.shredding.code then min (eraseLeft s t).length 0xFFFFFF else 0
  setBits (s.reg .TNT_STATE t) 63 40 n

/-- Fields of TNT_BIND that take writes in service (R106). -/
def bindLive : List Field := [Fd.TNT_BIND_TRIMTH, Fd.TNT_BIND_TRIM, Fd.TNT_BIND_QCMD, Fd.TNT_BIND_BCLASS]
/-- Fields of TNT_BIND that take writes while CONFIGURED (R106). -/
def bindAll : List Field := bindLive ++ [Fd.TNT_BIND_RECOVQ4, Fd.TNT_BIND_VOLATILE]

/-- The states between activation and FREE in which R106 lets some writes through. -/
def inService (s : State) (t : Nat) : Bool := decide (2 ≤ s.tstate t) && decide (s.tstate t ≤ 4)

/-- A write of TNT_BIND (R106). -/
def State.writeTntBind (s : State) (t : Nat) (v : Word) : State :=
  if s.tstate t = TState.configured.code then s.setReg .TNT_BIND t (writeFields bindAll (s.reg .TNT_BIND t) v)
  else if inService s t then s.setReg .TNT_BIND t (writeFields bindLive (s.reg .TNT_BIND t) v) else s

/-- A write of TNT_GRP (R106). -/
def State.writeTntGrp (s : State) (t : Nat) (v : Word) : State :=
  if s.tstate t = TState.configured.code ∨ s.tstate t = TState.disabled.code then
    s.setReg .TNT_GRP t (writeFields RegKind.TNT_GRP.fields (s.reg .TNT_GRP t) v)
  else s

/-- A write of TNT_QUOTA (R106). -/
def State.writeTntQuota (s : State) (t : Nat) (v : Word) : State :=
  if s.tstate t = TState.configured.code ∨ inService s t then
    s.setReg .TNT_QUOTA t (writeFields RegKind.TNT_QUOTA.fields (s.reg .TNT_QUOTA t) v)
  else s

/-- A write of TNT_CRED (R106, R111). -/
def State.writeTntCred (s : State) (t : Nat) (v : Word) : State :=
  if s.tstate t = TState.configured.code ∧ bobbinFits s t v then
    s.setReg .TNT_CRED t (writeFields RegKind.TNT_CRED.fields (s.reg .TNT_CRED t) v)
  else s

/-- The plain fields of a write of TNT_CTRL (R99); ACTION reads zero. -/
def State.writeTntCtrl (s : State) (t : Nat) (v : Word) : State :=
  s.setReg .TNT_CTRL t (writeFields [Fd.TNT_CTRL_HOST, Fd.TNT_CTRL_PANEL, Fd.TNT_CTRL_TEMPLATE] (s.reg .TNT_CTRL t) v)

/-! ### States and their conditions -/

/-- A tenant passes to a state. -/
def State.toState (s : State) (t : Nat) (x : TState) : State := s.setFld Fd.TNT_STATE_STATE x.code t

/-- The result of an action (R107). -/
def State.actErr (s : State) (t e : Nat) : State := s.setFld Fd.TNT_STATE_ACTERR e t

/-- A template of a panel of the running pattern (R107): its words where it is valid. -/
def templateOf (s : State) (p n : Nat) : Option (List Word) :=
  if s.fld Fd.PANEL_STATE_STATE p = 0 then none
  else match (s.pattern.bind fun x => x.panels.find? fun c => c.num == p).bind fun c => c.templates[n]? with
    | some ws => if bitsOf (wordAt ws 0) 63 63 = 1 then some ws else none
    | none => none

/-- R110: memberships name distinct VALID groups of the tenant's profile, and COMMITTO names a read-write one. -/
def membershipsValid (s : State) (t : Nat) : Bool :=
  let on := (List.range 4).filter fun n => s.flag (grpV n) t
  let gs := on.map fun n => s.fld (grpNum n) t
  let c := s.fld Fd.TNT_GRP_COMMITTO t
  gs.all (fun g => s.flag Fd.SG_CFG_VALID g && s.fld Fd.SG_CFG_PROFILE g == s.profileOf t) && gs.eraseDups.length == gs.length &&
    (c == 0 || (decide (c ≤ 4) && s.flag (grpV (c - 1)) t && s.flag (grpRw (c - 1)) t))

/-- R107: a valid host range entry gives the bound host read and write on the tenant's BAR2 window. -/
def windowGiven (s : State) (t : Nat) : Bool :=
  (s.regIdx .HRT_CTL).any fun e =>
    s.flag Fd.HRT_CTL_VALID e && s.flag Fd.HRT_CTL_SPACE e && s.fld Fd.HRT_CTL_TENANT e == t && s.fld Fd.HRT_CTL_HOST e == s.hostOf t &&
      s.flag Fd.HRT_CTL_RD e && s.flag Fd.HRT_CTL_WR e

/-- The ACTERR that refuses ACTIVATE or ENABLE, 0 where nothing does (R107, R120, R634). -/
def startError (s : State) (t : Nat) (needed : TState) : Nat :=
  if s.tstate t ≠ needed.code then 1
  else if s.fld Fd.SEC_TSTAT_KEYSRC t = 0 then 5
  else if sqGrant s t 0 = 0 ∨ cqGrant s t 0 = 0 then 3
  else if !membershipsValid s t then 4
  else if !s.compat && !windowGiven s t then 6
  else if tenantSealed s t && !sealCondition s t then 7
  else 0

/-- A tenant's submission spools start empty, and its spool and probe registers at their reset values (R108, R271, R172); completions not yet read stay on ENABLE. (log entry 38, DEDUCED) -/
def State.freshSpools (s : State) (t : Nat) (keep : Bool) : State :=
  let s := (List.range 4).foldl (fun s n => (s.resetReg .SPL_SQS (sqIdx t n)).resetReg .SPL_SQE (sqIdx t n)) s
  let s := (List.range 2).foldl (fun s m => s.resetReg .SPL_CQS (cqIdx t m)) s
  { s with
    spools := s.spools.filter fun e => e.1 / 4 != t
    comps := if keep then s.comps else s.comps.filter fun e => e.1 / 2 != t
    pbase := s.pbase.filter fun e => e.1 / 4 != t }

/-- ACTIVATE or ENABLE takes effect, or shows why not (R107). (log entry 38, DEDUCED) -/
def State.startTenant (s : State) (t : Nat) (needed : TState) : State :=
  let e := startError s t needed
  if e ≠ 0 then s.actErr t e
  else ((s.freshSpools t (needed == .disabled)).toState t .active).actErr t 0

/-- R130: an ACTIVE tenant passes to DRAINING: its undecoded commands complete CANCELLED, attention commands and DELIVERs stop at their next boundary, its queue pairs
flush and its ring contexts abort. -/
def State.drainTenant (s : State) (t : Nat) : State :=
  if !s.active t then s
  else
    let s := (s.emptySpools t).toState t .draining
    let stops (c : Cmd) : Bool := c.tenant == t && (isAttention c.opcode || c.opcode == Oc.deliver)
    let s : State := { s with inflight := s.inflight.map fun c => if stops c ∧ c.cancel = none then { c with cancel := some 0x0001 } else c }
    let s := (s.qps.filter fun e => e.2.tenant == t).foldl (fun s e => s.qpFail e.1 stFlushed none) s
    ((s.regIdx .SNL_CTX_ST).filter fun c => s.fld Fd.SNL_CTX_CTL_TENANT c == t).foldl (fun s c => s.abortCtx c 0x0001) s

/-- R109: every ACTIVE tenant of a lost host drains. -/
def State.drainHost (s : State) (h : Nat) : State :=
  ((s.regIdx .TNT_STATE).filter fun t => s.active t && s.hostOf t == h).foldl (fun s t => (s.drainTenant t).setFld Fd.TNT_ERR_HOSTLOST 1 t) s

/-- R635: the binding of a host's sealed tenants is lost: the ACTIVE ones drain. -/
def State.bindLost (s : State) (h : Nat) : State :=
  let ts := (s.regIdx .TNT_STATE).filter fun t => s.active t && tenantSealed s t && s.hostOf t == h
  if ts = [] then s
  else (ts.foldl (fun s t => (s.drainTenant t).setFld Fd.SEC_TSTAT_BINDLOST 1 t) s).logEv 0x0D01 1 noIsland none h 0

/-- A host function's TDI passes to a state (R472); leaving CONFIG_LOCKED and RUN loses the binding (R635). -/
def State.tdiTo (s : State) (h st : Nat) : State :=
  let was := tdiLocked s h
  let s : State := { s with tdis := mapIns h { s.tdi h with st } s.tdis }
  if was && !(st == 1 || st == 2) then s.bindLost h else s

/-- R472: something the TDI report lists, and a sealed tenant of the host uses, changes: a locked TDI passes to ERROR. (log entry 103, DEDUCED) -/
def State.tdiTouch (s : State) (h t : Nat) : State :=
  if tdiLocked s h && tenantSealed s t && s.hostOf t == h then s.tdiTo h 3 else s

/-- The link condition of R632 is looked at again (R635). -/
def State.checkLinks (s : State) : State :=
  (((s.regIdx .TNT_STATE).filter fun t => s.active t && tenantSealed s t).map s.hostOf).eraseDups.foldl
    (fun s h => if linkCondition s h then s else s.bindLost h) s

/-! ### CONFIGURE and UNCONFIGURE (R107, R65, R105, R172, R624) -/

/-- CONFIGURE under the pattern that runs. -/
def State.configureNow (s : State) (t : Nat) (v : Word) : State :=
  if s.tstate t ≠ TState.free.code then s.actErr t 1
  else match templateOf s (bitsOf v 21 16) (bitsOf v 15 12) with
    | none => s.actErr t 2
    | some ws =>
      if !bobbinFits s t (wordAt ws 3) then s.actErr t 3
      else
        let old : Word := 0
        let bind := writeFields bindAll old (wordAt ws 0)
        let s := s.setReg .TNT_BIND t (setBits (setBits bind 3 0 (bitsOf v 27 24)) 11 4 (s.fld Fd.PANEL_STATE_PROFILE (bitsOf v 21 16)))
        let s := s.setReg .TNT_GRP t (writeFields RegKind.TNT_GRP.fields old (wordAt ws 1))
        let s := s.setReg .TNT_QUOTA t (writeFields RegKind.TNT_QUOTA.fields old (wordAt ws 2))
        let s := s.setReg .TNT_CRED t (writeFields RegKind.TNT_CRED.fields old (wordAt ws 3))
        let s := ((s.setReg .TNT_USE0 t 0).setReg .TNT_USE1 t 0).setReg .TNT_ERR t 0
        let s : State := { s with comps := s.comps.filter fun e => e.1 / 2 != t }
        let s := s.resetReg .SPL_CFG t
        let s := ((s.newHashKey t).keyWrite t).setFld Fd.SEC_TSTAT_HKEY 1 t
        (s.toState t .configured).actErr t 0

/-- R107, R76: TNT_CTRL written with CONFIGURE; while a load holds state fixed it waits. -/
def opConfigure (t : Nat) (v : Word) (s : State) : State :=
  let s := s.writeTntCtrl t v
  if loadHolds s then { s with heldActs := s.heldActs ++ [.configure t v] } else s.configureNow t v
/-- R107. -/
def execConfigure (tenant : TenantId) (value : Word) (s : State) : Res := .next (opConfigure tenant.val value s)

/-- R107: UNCONFIGURE returns a CONFIGURED tenant to FREE and destroys its keys (R624). (log entry 35, DEDUCED) -/
def opUnconfigure (t : Nat) (v : Word) (s : State) : State :=
  let s := s.writeTntCtrl t v
  if s.tstate t ≠ TState.configured.code then s.actErr t 1
  else ((s.dropTenantKeys t).toState t .free).actErr t 0
/-- R107. -/
def execUnconfigure (tenant : TenantId) (value : Word) (s : State) : Res := .next (opUnconfigure tenant.val value s)

/-! ### ACTIVATE, DISABLE, ENABLE (R107, R130, R131) -/

/-- R107: ACTIVATE. -/
def opTenantActivate (t : Nat) (v : Word) (s : State) : State := (s.writeTntCtrl t v).startTenant t .configured
/-- R107. -/
def execTenantActivate (tenant : TenantId) (value : Word) (s : State) : Res := .next (opTenantActivate tenant.val value s)

/-- R107: ENABLE. -/
def opEnable (t : Nat) (v : Word) (s : State) : State := (s.writeTntCtrl t v).startTenant t .disabled
/-- R107. -/
def execEnable (tenant : TenantId) (value : Word) (s : State) : Res := .next (opEnable tenant.val value s)

/-- R130: DISABLE. -/
def opDisable (t : Nat) (v : Word) (s : State) : State :=
  let s := s.writeTntCtrl t v
  if !s.active t then s.actErr t 1 else (s.drainTenant t).actErr t 0
/-- R130. -/
def execDisable (tenant : TenantId) (value : Word) (s : State) : Res := .next (opDisable tenant.val value s)

/-- R131: a DRAINING tenant with nothing left to drain is DISABLED; one that a reset disabled is enabled again (R676). (log entry 2, DESIGN CHOICE) -/
def opDrainComplete (t : Nat) (s : State) : State :=
  if s.tstate t ≠ TState.draining.code ∨ drainCount s t ≠ 0 then s
  else
    let s := s.toState t .disabled
    if !s.tenantResets.contains t then s
    else
      let s := ({ s with tenantResets := s.tenantResets.erase t } : State).startTenant t .disabled
      if s.active t then s else s.setFld Fd.PWR_RST_ERR 3
/-- R131. -/
def execDrainComplete (tenant : TenantId) (s : State) : Res := .next (opDrainComplete tenant.val s)

/-! ### SHRED (R107, R108, R563) -/

/-- Units of the cache and system areas that name a holder or overflow their list (R562, R563). -/
def unitsNaming (s : State) (g : FlashGeo) (hd : Nat) : List Nat :=
  (s.units.filter fun e => (e.2.holders.contains hd || e.2.overflow) && !unitGone s g e.1 && (decide (e.1 < g.sysUnits) || unitInCache s g e.1)).map fun e => e.1

/-- A holder's stored content is let go: its chunks, its tenant's sequences and pins, and what the journal held of them. (log entry 11, DESIGN CHOICE) -/
def State.destroyHolder (s : State) (hd : Nat) : State :=
  let mine (c : Chunk) : Bool := c.charge == hd
  let s : State := { s with
    chunks := s.chunks.filter fun e => !mine e.2
    seqs := s.seqs.filter fun e => e.2.tenant != hd
    pins := s.pins.filter fun e => e.1 / chunkHandles != hd
    saved := { s.saved with
      chunks := s.saved.chunks.filter fun e => !mine e.2
      seqs := s.saved.seqs.filter fun e => e.2.tenant != hd
      pins := s.saved.pins.filter fun e => e.1 / chunkHandles != hd } }
  s.reclaim

/-- R563: SHRED destroys the tenant's key in one step, before anything else, and builds the erase list. -/
def opShred (t : Nat) (v : Word) (s : State) : State :=
  let s := s.writeTntCtrl t v
  if s.tstate t ≠ TState.disabled.code then s.actErr t 1
  else
    let s := s.dropTenantKeys t
    let s : State := { s with qpKeys := s.qpKeys.filter fun e => (s.qp e.1).tenant != t }
    let list := match s.flash with
      | some g => unitsNaming s g t
      | none => []
    let s : State := { s with
      eraseLists := mapIns t list s.eraseLists
      units := mapVals (fun (u : Nat) (x : EraseUnit) => if list.contains u then { x with opened := none } else x) s.units }
    let s := ((s.destroyHolder t).markPending).fltSync
    ((s.pumpViews).toState t .shredding).actErr t 0
/-- R563. -/
def execShred (tenant : TenantId) (value : Word) (s : State) : Res := .next (opShred tenant.val value s)

/-- R563: the erase list is empty: the tenant is FREE, its seal and record cleared (R633). -/
def opShredComplete (t : Nat) (s : State) : State :=
  if s.tstate t ≠ TState.shredding.code ∨ eraseLeft s t ≠ [] then s
  else (({ s with eraseLists := mapDel t s.eraseLists } : State).clearSeal t).toState t .free
/-- R563. -/
def execShredComplete (tenant : TenantId) (s : State) : Res := .next (opShredComplete tenant.val s)

/-! ### Share groups (R110) -/

/-- A write of SG_CFG outside ACTION: PROFILE takes it only while VALID is 0. -/
def State.writeSgCfg (s : State) (g : Nat) (v : Word) : State :=
  let fs := if s.flag Fd.SG_CFG_VALID g then [Fd.SG_CFG_BCLASS] else [Fd.SG_CFG_BCLASS, Fd.SG_CFG_PROFILE]
  s.setReg .SG_CFG g (writeFields fs (s.reg .SG_CFG g) v)

/-- R110: CREATE. -/
def opGroupCreate (g : Nat) (v : Word) (s : State) : State :=
  let s := s.writeSgCfg g v
  if s.flag Fd.SG_CFG_VALID g then s.setFld Fd.SG_CFG_ERR 1 g
  else if (panelOf s (s.fld Fd.SG_CFG_PROFILE g)).isNone then s.setFld Fd.SG_CFG_ERR 3 g
  else
    let s := ((s.newHashKey (1024 + g)).newDataKey (1024 + g)).keyWrite (1024 + g)
    let s := s.setReg .SEC_GSTAT g (packWord [(1, 1), (0, 1)])
    (s.setFld Fd.SG_CFG_VALID 1 g).setFld Fd.SG_CFG_ERR 0 g
/-- R110. -/
def execGroupCreate (group : GroupId) (value : Word) (s : State) : Res := .next (opGroupCreate group.val value s)

/-- R110: DELETE. -/
def opGroupDelete (g : Nat) (v : Word) (s : State) : State :=
  let s := s.writeSgCfg g v
  if !s.flag Fd.SG_CFG_VALID g then s.setFld Fd.SG_CFG_ERR 1 g
  else if groupMembers s g ≠ [] ∨ chunksCharged s (1024 + g) ≠ 0 then s.setFld Fd.SG_CFG_ERR 2 g
  else ((((s.dropKeys (1024 + g)).setReg .SEC_GSTAT g 0).setFld Fd.SG_CFG_VALID 0 g)).setFld Fd.SG_CFG_ERR 0 g
/-- R110. -/
def execGroupDelete (group : GroupId) (value : Word) (s : State) : Res := .next (opGroupDelete group.val value s)

end Sys2Proof.Machine
end

