-- ==== Sys2Proof/Machine/Cxl.lean ====
section
/-!
DEFINITION. The CXL attachment: snoop answers, links training, hosts lost and bound again, the orphan log, dynamic capacity, and gateway windows
(R435 to R447, R455 to R458, R466 to R469, R475 to R484, R747).
-/
namespace Sys2Proof.Machine

/-! ### Dynamic capacity: what several rows share (R443 to R447, R475) -/

/-- A Dynamic Capacity event record for a host (R475). -/
def State.dcEvent (s : State) (h region idx : Nat) : State := s.cxlEvent h 4 0 0xFFFF 0xFF region idx

/-- Whether a line lies in a plain extent. -/
def inExtent (idx line : Nat) : Bool := line / (extentBytes / 64) == idx

/-- Requests accepted before a release that still wait at lines of a plain extent (R447). -/
def extentBusy (s : State) (idx : Nat) : Bool := s.lineQ.any fun r => inExtent idx r.line

/-- Holders of lines of a plain extent. -/
def extentHolders (s : State) (idx : Nat) : List (Nat × Nat) :=
  (s.snoopFilter.filter fun e => inExtent idx e.line).flatMap fun e => (holders e).map fun h => (e.line, h)

/-- Step 3 of a release (R447): once the requests accepted before it have run, BISnpInv to every holder that has none yet. -/
def State.pumpRelease (s : State) (idx : Nat) : State :=
  match s.extent 0 idx with
  | some e =>
    if e.st ≠ .releasing ∨ extentBusy s idx then s
    else ((extentHolders s idx).filter fun x => !s.snoops.any fun y => y.kind == .release && y.line == x.1 && y.host == x.2).foldl
      (fun s x => s.snoop { line := x.1, host := x.2, kind := .release, uid := none }) s
  | none => s

/-- Step 3 of every release under way. -/
def State.pumpReleases (s : State) : State :=
  ((s.extents.filter fun e => e.1 < 0x100000000 && e.2.st == .releasing).map fun e => e.1).foldl (fun s i => s.pumpRelease i) s

/-- What waited for lines goes on: ring messages, Shuttle packets and releases. -/
def State.pumpWaits (s : State) : State := s.pumpRing.pumpShuttle.pumpReleases

/-- A plain extent's content is zeros, with no poisoned and no orphaned line (R446, R447). (log entry 10, DEDUCED) -/
def State.zeroExtent (s : State) (idx : Nat) : State :=
  { s with
    plainMem := s.plainMem.clear (idx * extentBytes) ((idx + 1) * extentBytes)
    poisonLines := s.poisonLines.filter fun e => !inExtent idx e.1
    orphanLines := s.orphanLines.filter fun e => !inExtent idx e.1 }

/-- R472: a host's extent changes; sealed tenants of the host that use it lose a locked TDI. (log entry 103, DEDUCED) -/
def State.touchExtent (s : State) (h region idx : Nat) : State :=
  let uses (t : Nat) : Bool :=
    if region = 1 then t == idx
    else if region = 2 then s.fld Fd.GW_CTL_TENANT idx == t
    else (s.regIdx .HRT_CTL).any fun e =>
      s.flag Fd.HRT_CTL_VALID e && !s.flag Fd.HRT_CTL_SPACE e && s.fld Fd.HRT_CTL_TENANT e == t && s.fld Fd.HRT_CTL_HOST e == h &&
        decide (65536 * s.fld Fd.HRT_BASE_BASE e < (idx + 1) * extentBytes) && decide (idx * extentBytes < 65536 * (s.fld Fd.HRT_LIMIT_LIMIT e + 1))
  ((s.regIdx .TNT_STATE).filter uses).foldl (fun s t => s.tdiTouch h t) s

/-- Put an extent's record. -/
def State.setExtent (s : State) (region idx : Nat) (e : Extent) : State := { s with extents := mapIns (extKey region idx) e s.extents }

/-- A return code of the FM API (R444 to R447, R747). (log entry 64, DEDUCED; log entry 83, PRESUMED) -/
def State.fm (s : State) (code : Nat) : State := s.emit (.fmReturn code)

/-- Hosts that get an extent, or lose it, learn of it (R475), and their TDIs (R472). (log entry 63, DEDUCED) -/
def State.tellHosts (s : State) (region idx : Nat) (hs : List Nat) : State :=
  hs.foldl (fun s h => (s.dcEvent h region idx).touchExtent h region idx) s

/-! ### Adding and releasing extents -/

/-- Whether an add request obeys the table of R444. (log entry 64, DEDUCED) -/
def addValid (s : State) (region idx tag : Nat) (hs : List Nat) : Bool :=
  hs ≠ [] && hs.all (fun h => decide (h < 16)) && hs.eraseDups.length == hs.length && decide (tag < 65536) &&
    (if region = 0 then decide (idx < dpaExtents s.cacheSf)
     else if region = 1 then decide (idx < 1024) && tag == idx && hs == [s.hostOf idx]
     else decide (idx < 64) && tag == idx && hs == [s.hostOf (s.fld Fd.GW_CTL_TENANT idx)])

/-- R444 to R446, R747: an add request of the FM API. (log entry 64, DEDUCED) -/
def opDcAddExtent (region idx tag : Nat) (hs : List Nat) (s : State) : State :=
  if !addValid s region idx tag hs then s.fm 1
  else match s.extent region idx with
    | some e =>
      let fresh := hs.filter fun h => !e.hosts.contains h
      if region ≠ 0 ∨ e.st ≠ .added ∨ e.tag ≠ tag ∨ fresh = [] then s.fm 1
      else ((s.setExtent 0 idx { e with hosts := e.hosts ++ fresh }).tellHosts 0 idx fresh).fm 0
    | none =>
      if region = 0 then
        if s.fld Fd.CXL_PLAIN_PLMAX ≤ plainExtents s then s.fm 2
        else { s with released := mapDel idx s.released }.setExtent 0 idx { tag, hosts := hs, st := .adding, since := s.dtime }
      else ((s.setExtent region idx { tag, hosts := hs, st := .added, since := s.dtime }).tellHosts region idx hs).fm 0
/-- R446. -/
def execDcAddExtent (region : Fin 3) (idx : Nat) (tag : Wide) (hosts : List Nat) (s : State) : Res :=
  .next (opDcAddExtent region.val idx tag.toNat hosts s)

/-- Whether 128 cache superframes are wholly free for an extent (R446). -/
def extentRoom (s : State) : Bool :=
  decide (cacheBase s + 128 * 4096 ≤ frameEnd s) && s.frames.all fun e => decide (e.1 + rowGranules s e.2.ngran + 128 * 4096 ≤ frameEnd s)

/-- R446: 128 superframes are free and zero-filled: the extent is added and its hosts are told. (log entry 64, DEDUCED) -/
def opPlainExtentReady (idx : Nat) (s : State) : State :=
  match s.extent 0 idx with
  | some e =>
    if e.st ≠ .adding ∨ !extentRoom s then s
    else (((s.zeroExtent idx).setExtent 0 idx { e with st := .added }).tellHosts 0 idx e.hosts).fm 0
  | none => s
/-- R446. -/
def execPlainExtentReady (idx : Nat) (s : State) : Res := .next (opPlainExtentReady idx s)

/-- R446: 2 s have passed without 128 free superframes. -/
def opPlainExtentAddTimeout (idx now : Nat) (s : State) : State :=
  let s := s.at_ now
  match s.extent 0 idx with
  | some e =>
    if e.st ≠ .adding ∨ s.dtime < e.since + 2000000000 then s
    else ({ s with extents := mapDel (extKey 0 idx) s.extents } : State).fm 2
  | none => s
/-- R446. -/
def execPlainExtentAddTimeout (idx now : Nat) (s : State) : Res := .next (opPlainExtentAddTimeout idx now s)

/-- R447: a release, by a host's response or forced by the FM. (log entries 63 and 64, DEDUCED) -/
def opDcReleaseExtent (region idx h : Nat) (s : State) : State :=
  match s.extent region idx with
  | some e =>
    if !extentHeld s h region idx then s.fm 1
    else
      let s := if region = 0 then { s with released := mapIns idx () s.released } else s
      ((s.setExtent region idx { e with st := .releasing }).pumpRelease idx).fm 0
  | none => s.fm 1
/-- R447. -/
def execDcReleaseExtent (region : Fin 3) (idx : Nat) (host : HostId) (s : State) : Res := .next (opDcReleaseExtent region.val idx host.val s)

/-- R447: a release ends once the requests accepted before it have run and no host holds a line of it. (log entry 63, DEDUCED) -/
def opDcReleaseComplete (region idx : Nat) (s : State) : State :=
  match s.extent region idx with
  | some e =>
    if e.st ≠ .releasing then s
    else if region = 0 ∧ (extentBusy s idx ∨ extentHolders s idx ≠ []) then s.pumpRelease idx
    else
      let s := if region = 0 then s.zeroExtent idx else s
      ({ s with extents := mapDel (extKey region idx) s.extents } : State).tellHosts region idx e.hosts
  | none => s
/-- R447. -/
def execDcReleaseComplete (region : Fin 3) (idx : Nat) (s : State) : Res := .next (opDcReleaseComplete region.val idx s)

/-! ### Snoops, links and hosts (R435 to R438, R455, R456) -/

/-- R455: a host answers a back-invalidate snoop, with the line's data where it had modified it. -/
def opBisnpResponse (h line : Nat) (data : Option (List Byte)) (s : State) : State :=
  match s.snoops.find? fun x => x.host == h && x.line == line with
  | some x => (s.answerSnoop x data).pumpWaits
  | none => s
/-- R455. -/
def execBisnpResponse (host : HostId) (line : Nat) (data : Option (List Byte)) (s : State) : Res := .next (opBisnpResponse host.val line data s)

/-- R456: lines that a lost host held exclusive are orphaned, for the scan to record (R458), and it leaves every sharing vector. (log entry 62, DEDUCED) -/
def State.orphanOf (s : State) (h : Nat) : State :=
  let lines := (s.snoopFilter.filter fun e => e.excl == some h).map fun e => e.line
  let s : State := { s with
    orphanLines := lines.foldl (fun m l => mapIns l () m) s.orphanLines
    orphanPend := s.orphanPend ++ lines.map fun l => { line := l, host := h, dtime := s.dtime } }
  let held := (s.snoopFilter.filter fun e => (holders e).contains h).map fun e => e.line
  held.foldl (fun s l => s.dropHolder l h) s

/-- R456: what a lost host was still waiting to read is dropped, and the requests that its bucket holds. (log entry 62, DEDUCED) -/
def State.dropReads (s : State) (h : Nat) : State :=
  let gone (r : LineReq) : Bool := r.host == some h && (match r.op with | .write _ => false | _ => true)
  let lines := (s.lineQ.filter gone).map fun r => r.line
  let s : State := { s with
    lineQ := s.lineQ.filter fun r => !gone r
    viewWaits := s.viewWaits.filter fun w => w.host != h
    buckets := mapUpd h (fun b => { b with held := [] }) s.buckets }
  lines.foldl (fun s l => s.pumpLine l (s.lineQ.length + 1)) s

/-- R456: a host is lost. (log entries 61 and 62, DEDUCED) -/
def State.loseHost (s : State) (h : Nat) : State :=
  if s.lostHosts.contains h then s
  else
    let s : State := { s with lostHosts := s.lostHosts ++ [h] }
    let lines := (s.snoopFilter.filter fun e => e.excl == some h).length
    let s := s.orphanOf h
    let s := (s.snoops.filter fun x => x.host == h).foldl (fun s x => s.answerSnoop x none) s
    let s := s.dropReads h
    let sealed_ := (s.regIdx .TNT_STATE).filter fun t => s.active t && tenantSealed s t && s.hostOf t == h
    let s := s.drainHost h
    let s := if sealed_ = [] then s else (sealed_.foldl (fun s t => s.setFld Fd.SEC_TSTAT_BINDLOST 1 t) s).logEv 0x0D01 1 noIsland none h 0
    let s := (s.setFld Fd.CXL_ORPH_SCAN 1).cxlNote operatorFn 1 0x0F01 h lines
    s.pumpWaits

/-- A link goes down: its state, its key slots (R613), its hosts' HDM decoders, which the host's functions lose with their link, its event (R475). (log entry 111, PRESUMED) -/
def State.linkLost (s : State) (l : Nat) : State :=
  let s := s.setReg .CXL_LINKST l (packWord [(32, satAdd 32 (s.fld Fd.CXL_LINKST_DOWNS l) 1)])
  let s : State := { s with ideKeys := s.ideKeys.filter fun e => e.1 / 256 != l, hdm := s.hdm.filter fun e => !(linkHosts s l).contains e.1 }
  s.cxlNote operatorFn 1 0x0F04 l (s.reg .CXL_LINKST l).toNat

/-- R456: a host is lost, with its link and every host that this carries, or because the FM unbinds its logical device. -/
def opHostLost (h : Nat) (byLink : Bool) (s : State) : State :=
  match byLink, hostLink s h with
  | true, some l =>
    let hs := linkHosts s l
    hs.foldl (fun s x => s.loseHost x) (s.linkLost l)
  | _, _ => s.loseHost h
/-- R456. -/
def execHostLost (host : HostId) (byLink : Bool) (s : State) : Res := .next (opHostLost host.val byLink s)

/-- Whether a port is bifurcated since it last trained after PERST# (R435): kept beside the links' configurations. (log entry 65, DEDUCED) -/
def portBif (s : State) (n : Nat) : Bool := bitsOf ((mapFind s.linkIn (16 + n)).getD 0) 0 0 == 1

/-- A host function commits its next HDM decoder, which is locked from then on: none of those committed changes until its link or the part is reset. There are sixteen
(R442). A locked TDI lists them (R472). (log entry 111, PRESUMED) -/
def State.commitHdm (s : State) (h : Nat) (d : HdmDecoder) : State :=
  let ds := s.hdmOf h
  if !d.ok || decide (16 ≤ ds.length) then s
  else
    let s : State := { s with hdm := mapIns h (ds ++ [d]) s.hdm }
    ((s.regIdx .TNT_STATE).filter fun t => s.hostOf t == h).foldl (fun s t => s.tdiTouch h t) s

/-- The HDM decoders that the functions of a link commit once it carries CXL.mem (R442). (log entry 111, PRESUMED) -/
def State.commitHdms (s : State) (l : Nat) (ds : List (Nat × HdmDecoder)) : State :=
  if s.flag Fd.CXL_LINKST_MEM l then (ds.filter fun e => (linkHosts s l).contains e.1).foldl (fun s e => s.commitHdm e.1 e.2) s else s

/-- R435, R436, R438: a link trains; its hosts then commit HDM decoders. Of a port that is not bifurcated only the even link exists. (log entry 65, DEDUCED; log entry 111, PRESUMED) -/
def opCxlLinkTrain (l rate width : Nat) (flitOk : Bool) (ds : List (Nat × HdmDecoder)) (s : State) : State :=
  if l % 2 = 1 ∧ !portBif s (l / 2) then s
  else
    let top := if portBif s (l / 2) then 2 else 3
    let width := max 1 (min width top)
    let rate := max 1 (min rate 2)
    let cfg := s.reg .CXL_LINKCFG l
    let ids := configHosts cfg
    let others := ((List.range 8).filter (· != l)).flatMap fun k => linkHosts s k
    let clash := ids.any fun h => decide (15 < h) || others.contains h
    let err := if !flitOk then 1 else if clash then 2 else 0
    let s : State := { s with linkIn := mapIns l cfg s.linkIn, ideKeys := s.ideKeys.filter fun e => e.1 / 256 != l }
    let s := s.setReg .CXL_LINKST l
      (packWord [(32, s.fld Fd.CXL_LINKST_DOWNS l), (9, err), (8, b2n (err == 0)), (5, width), (3, rate), (0, 2)])
    let s : State := { s with lostHosts := if err = 2 then s.lostHosts else s.lostHosts.filter fun h => !ids.contains h }
    let s := if width < top ∨ rate < 2 then s.cxlNote operatorFn 1 0x0F04 l (s.reg .CXL_LINKST l).toNat else s
    (s.commitHdms l ds).checkLinks
/-- R436. -/
def execCxlLinkTrain (link : Fin 8) (rate : Fin 3) (width : Fin 4) (flitOk : Bool) (decoders : List (Nat × HdmDecoder)) (s : State) : Res :=
  .next (opCxlLinkTrain link.val rate.val width.val flitOk decoders s)

/-- R456: the FM binds a logical device of a link in MLD mode: its host is established again. (log entries 65 and 66, DEDUCED) -/
def opFmLdBind (h : Nat) (s : State) : State :=
  match hostLink s h with
  | some l => if directLink s l then s else { s with lostHosts := s.lostHosts.filter (· != h) }
  | none => s
/-- R456. -/
def execFmLdBind (host : HostId) (s : State) : Res := .next (opFmLdBind host.val s)

/-! ### The orphan log (R458, R481) -/

/-- Entries of the orphan log. -/
def orphanEntries : Nat := 65536

/-- R458: the scan has recorded the lines orphaned since the last one, as far as the log holds them. (log entry 62, DEDUCED) -/
def opOrphanScanComplete (s : State) : State :=
  if !s.flag Fd.CXL_ORPH_SCAN then s
  else
    let n := s.orphanPend.length
    let room := orphanEntries - s.orphanLog.length
    let s := if room < n then s.setFld Fd.CXL_ORPH_OVF 1 else s
    let s : State := { s with orphanLog := s.orphanLog ++ s.orphanPend.take room, orphanPend := [] }
    (s.setFld Fd.CXL_ORPH_SCAN 0).cxlEvent operatorFn 1 0x0F01 0xFFFF 0xFF 0 n
/-- R458. -/
def execOrphanScanComplete (s : State) : Res := .next (opOrphanScanComplete s)

/-- CXL_ORPH as it reads: COUNT is the log's length (R481). -/
def orphWord (s : State) : Word := setBits (s.reg .CXL_ORPH) 16 0 s.orphanLog.length

/-- R481: CXL_ORPH.CLEAR. -/
def opOrphanLogClear (s : State) : State := { s with orphanLog := [] }.setFld Fd.CXL_ORPH_OVF 0
/-- R481. -/
def execOrphanLogClear (s : State) : Res := .next (opOrphanLogClear s)

/-- R481: CXL_ORPHQ written. -/
def opOrphanLogQuery (v : Word) (s : State) : State :=
  let i := bitsOf v 15 0
  let s := s.setReg .CXL_ORPHQ 0 (packWord [(0, i)])
  match s.orphanLog[i]? with
  | some r => (s.setReg .CXL_ORPHE0 0 (packWord [(6, r.line % 2 ^ 58), (0, r.host)])).setReg .CXL_ORPHE1 0 (BitVec.ofNat 64 r.dtime)
  | none => (s.setReg .CXL_ORPHE0 0 0).setReg .CXL_ORPHE1 0 0
/-- R481. -/
def execOrphanLogQuery (value : Word) (s : State) : Res := .next (opOrphanLogQuery value s)

/-! ### Gateway windows (R466 to R469, R484) -/

/-- R484: the status of a window as GW_ST shows it: buffers that hold unshipped bytes, PUTs awaiting acknowledgement. -/
def gwStWord (s : State) (g : Nat) : Word :=
  let x := s.gw g
  setBits (setBits (s.reg .GW_ST g) 6 2 (x.bufs.countP fun b => b.ship != some [])) 31 16 x.busy.length

/-- What a host's access to a gateway window reaches, after R443 and R115: the window and the offset, where the window is enabled and holds it. (log entry 67, DEDUCED) -/
def gwTarget (s : State) (a : Nat) : Option (Nat × Nat) :=
  match dpaPlace (dpaExtents s.cacheSf) a with
  | .gateway g o => if s.fld Fd.GW_ST_STATE g ≠ 0 ∧ o < 2 ^ s.fld Fd.GW_CTL_SIZELOG g then some (g, o) else none
  | _ => none

/-- The first offset of a window's doorbell line (R466). -/
def bellOffset (s : State) (g : Nat) : Nat := 2 ^ s.fld Fd.GW_CTL_SIZELOG g - 64

/-- What becomes of a store that is not served: unbacked and denied ones are counted, all are dropped. (log entry 67, DEDUCED) -/
def State.dropStore (s : State) (h a : Nat) : State :=
  match gate s h a true with
  | .unbacked => s.countUnbacked.respond h none
  | .denied => (s.deny h false a).respond h none
  | .ok => (if (gwTarget s a).isNone then s.countUnbacked else s).respond h none
  | .dead => s.respond h none
  | .lost => s

/-- R467: a store below the doorbell line goes into a buffer, or waits while all sixteen ship. (log entries 60 and 67, DEDUCED) -/
def opGatewayStore (h a : Nat) (bs : List (Option Byte)) (s : State) : State :=
  match gate s h a true, gwTarget s a with
  | .ok, some (g, o) =>
    let s := s.respond h none
    if bellOffset s g ≤ o then s
    else if s.fld Fd.GW_ST_STATE g = gwError then s.addFld Fd.GW_ST_DROPPED 1 g
    else
      let x := s.gw g
      let x := if x.held ≠ [] then { x with held := x.held ++ [(o, bs)] }
        else match gwStore x s.dtime o bs with
          | (x, true) => x
          | (x, false) => { x with held := x.held ++ [(o, bs)] }
      (s.setGw g x).gwGo g
  | _, _ => s.dropStore h a
/-- R467. -/
def execGatewayStore (host : HostId) (addr : Nat) (bytes : List (Option Byte)) (s : State) : Res := .next (opGatewayStore host.val addr bytes s)

/-- R468, R469: a store of eight bytes to word 0 of the doorbell line. (log entry 67, DEDUCED) -/
def opGatewayDoorbell (h a : Nat) (v : Word) (s : State) : State :=
  match gate s h a true, gwTarget s a with
  | .ok, some (g, o) =>
    let s := s.respond h none
    if o ≠ bellOffset s g then s
    else if s.fld Fd.GW_ST_STATE g = gwError then s.flushWord g (v.toNat % 2 ^ 63 + 2 ^ 63)
    else
      let x := s.gw g
      let x := { x with bufs := x.bufs.map GwBuf.shipNow, bells := x.bells ++ [{ value := v.toNat, before := x.next, issued := false, done := false }] }
      (s.setGw g x).gwGo g
  | _, _ => s.dropStore h a
/-- R468. -/
def execGatewayDoorbell (host : HostId) (addr : Nat) (value : Word) (s : State) : Res := .next (opGatewayDoorbell host.val addr value s)

/-- R468: the FLUSH of a window's first doorbell has been answered. -/
def opGatewayFlushDone (g : Nat) (s : State) : State :=
  let x := s.gw g
  match x.bells with
  | b :: rest => if b.done then ((s.setGw g { x with bells := rest }).flushWord g (b.value % 2 ^ 63)).gwGo g else s
  | [] => s
/-- R468. -/
def execGatewayFlushDone (gateway : Fin 64) (s : State) : Res := .next (opGatewayFlushDone gateway.val s)

/-- R467: TMOUS µs after its first store a buffer ships. -/
def opGatewayBufferTimeout (g page now : Nat) (s : State) : State :=
  let s := s.at_ now
  let x := s.gw g
  let due (b : GwBuf) : Bool := b.page == page && b.ship.isNone && decide (b.since + 1000 * s.fld Fd.GW_CTL_TMOUS g ≤ s.dtime)
  if x.bufs.any due then (s.setGw g { x with bufs := x.bufs.map fun b => if due b then b.shipNow else b }).gwGo g else s
/-- R467. -/
def execGatewayBufferTimeout (gateway : Fin 64) (page now : Nat) (s : State) : Res := .next (opGatewayBufferTimeout gateway.val page now s)

/-- R469: a load of a gateway window returns poison. -/
def opGatewayLoad (h a n : Nat) (s : State) : State :=
  match gate s h a false with
  | .lost => s
  | .unbacked => s.countUnbacked.poisonRead h n
  | .denied => (s.deny h false a).poisonRead h n
  | _ => s.poisonRead h n
/-- R469. -/
def execGatewayLoad (host : HostId) (addr size : Nat) (s : State) : Res := .next (opGatewayLoad host.val addr size s)

/-- R484: a write of GW_CTL. (log entry 67, DEDUCED) -/
def State.writeGwCtl (s : State) (g : Nat) (v : Word) : State :=
  if s.flag Fd.GW_CTL_EN g then
    if bitsOf v 0 0 = 1 then s
    else ((s.setFld Fd.GW_CTL_EN 0 g).setFld Fd.GW_ST_STATE 0 g).setGw g { s.gw g with bufs := [], bells := [], busy := [], held := [] }
  else
    let s := s.setReg .GW_CTL g (writeFields [Fd.GW_CTL_TMOUS, Fd.GW_CTL_QP, Fd.GW_CTL_TENANT, Fd.GW_CTL_SIZELOG] (s.reg .GW_CTL g) v)
    let size := s.fld Fd.GW_CTL_SIZELOG g
    if bitsOf v 0 0 = 1 ∧ s.fld Fd.GW_CTL_TMOUS g ≠ 0 ∧ 28 ≤ size ∧ size ≤ 36 then
      (s.setFld Fd.GW_CTL_EN 1 g).setFld Fd.GW_ST_STATE gwRun g
    else s

/-- R484: a write of GW_CTL (0), GW_RADDR (1) or GW_FLADDR (2). -/
def opGatewayConfig (g reg : Nat) (v : Word) (s : State) : State :=
  if reg = 0 then s.writeGwCtl g v
  else if s.flag Fd.GW_CTL_EN g then s
  else if reg = 1 then s.setReg .GW_RADDR g (writeFields [Fd.GW_RADDR_RADDR] 0 v)
  else s.setReg .GW_FLADDR g (writeFields [Fd.GW_FLADDR_FLADDR] 0 v)
/-- R484. -/
def execGatewayConfig (gateway : Fin 64) (reg : Fin 3) (value : Word) (s : State) : Res := .next (opGatewayConfig gateway.val reg.val value s)

end Sys2Proof.Machine
end

