-- ==== Sys2Proof/Machine/Mailbox.lean ====
section
/-!
DEFINITION. The CXL primary mailbox: who may give which command, what is answered before media is ready, in SAFE and under CFGFREEZE, the standard commands,
and the health words (R474, R475, R649, R667, R678, R726, R727, R742).
-/
namespace Sys2Proof.Machine

/-- Return codes of the mailbox, as the CXL specification numbers them. (log entry 83, PRESUMED) -/
def mbOk : Nat := 0
/-- Background Command Started. -/
def mbBackground : Nat := 1
/-- Invalid Input. (log entry 83, PRESUMED) -/
def mbInvalid : Nat := 2
/-- Unsupported. (log entry 83, PRESUMED) -/
def mbUnsupported : Nat := 3
/-- Internal Error. -/
def mbInternal : Nat := 4
/-- Retry Required. (log entry 83, PRESUMED) -/
def mbRetry : Nat := 5
/-- Busy. (log entry 83, PRESUMED) -/
def mbBusy : Nat := 6

/-- An answer of the mailbox. (log entry 83, PRESUMED) -/
def State.reply (s : State) (op ret : Nat) (payload : List Word) : State := s.emit (.mailbox op ret 0 payload)

/-- In SAFE the recovery monitor answers (R649). (log entry 84, DEDUCED) -/
def inSafe (s : State) : Bool := s.flag Fd.SEC_FW_SAFE

/-- Whether start-up of a part whose life-cycle state makes media ready has not reached it (R639, R678). (log entry 84, DEDUCED) -/
def awaitsMedia (s : State) : Bool := !mediaReady s && (s.fld Fd.SEC_LC_STATE == 1 || s.fld Fd.SEC_LC_STATE == 2)

/-- The return code and vendor status that refuse a command before it is looked at (R474, R649, R678, R726): `early`, `safe` and `frozen` say whether it is
answered before media is ready, in SAFE, and whether CFGFREEZE refuses it. (log entry 84, DEDUCED) -/
def mbRefusal (s : State) (fn : Nat) (early safe frozen : Bool) : Option (Nat × Nat) :=
  if fn ≠ operatorFn then some (mbUnsupported, 0)
  else if inSafe s && !safe then some (mbUnsupported, 0)
  else if !inSafe s && awaitsMedia s && !early then some (mbRetry, 0)
  else if frozen && s.flag Fd.GLB_CFG_CFGFREEZE then some (mbUnsupported, 0x20)
  else none

/-- A command of the operator function: refused, with LOG event 0x0005 under CFGFREEZE, or carried out. (log entry 84, DEDUCED) -/
def State.operator (s : State) (fn op action : Nat) (early safe frozen : Bool) (run : State → State) : State :=
  match mbRefusal s fn early safe frozen with
  | none => run s
  | some (ret, vendor) =>
    let s := if vendor = 0x20 then s.logEv 0x0005 1 noIsland none op action else s
    s.emit (.mailbox op ret vendor [])

/-- A background command ends: the status that the next query shows (R75). (log entry 86, DEDUCED) -/
def State.bgDone (s : State) (op ret vendor : Nat) : State := { s with bg := { opcode := op, running := false, ret, vendor } }

/-- A background command that needs no row of its own to end: it is started and ends (R726). (log entry 86, DEDUCED) -/
def State.background (s : State) (op : Nat) (run : State → State) : State :=
  if s.bg.running then s.reply op mbBusy []
  else (run (s.reply op mbBackground [])).bgDone op mbOk 0

/-! ### Health (R727, R742) -/

/-- Whether any die or stack is at a thermal step. -/
def atStep (s : State) : Bool :=
  s.fld Fd.PWR_THERM_STEP0 != 0 || s.fld Fd.PWR_THERM_STEP1 != 0 || s.fld Fd.PWR_THERM_SSTEP != 0

/-- LOG_HEALTH0 as it reads (R742). -/
def healthWord (s : State) : Word :=
  let hot (a b : Nat) : Nat := if bitsInt 8 a < bitsInt 8 b then b else a
  let die := hot (hot (s.fld Fd.PWR_THERM_TCD0) (s.fld Fd.PWR_THERM_TCD1)) (s.fld Fd.PWR_THERM_TXD)
  packWord [(48, (s.reg .RAS_REPL).toNat % 512), (40, s.fld Fd.PWR_THERM_TSTK), (32, die), (24, s.fld Fd.FLT_SPARE_SPAREPCT),
    (16, s.fld Fd.FLT_WEAR_WEARPCT), (9, s.fld Fd.FLT_PF_INCOMPLETE), (8, s.fld Fd.FLT_PF_LASTPF), (7, s.fld Fd.PWR_STATUS_CAPPING), (6, b2n (atStep s)),
    (5, s.fld Fd.SEC_FW_SAFE), (4, b2n (s.fld Fd.RAS_STATUS_STATE == 3)), (3, b2n (s.fld Fd.RAS_STATUS_STATE == 2)),
    (2, s.fld Fd.SEC_CAL_DEFAULTS), (1, s.fld Fd.RAS_STATUS_REPLACE), (0, s.fld Fd.PWR_STATUS_MEDIA)]

/-- R727: HEALTH_GET. -/
def opHealthGet (fn : Nat) (s : State) : State :=
  s.operator fn 0xC017 0 true true false fun s => s.reply 0xC017 mbOk
    [healthWord s, s.reg .FLT_WEAR, s.reg .FLT_SPARE, s.reg .FLT_ERR0, s.reg .FLT_ERR1, s.reg .RAS_STATUS, s.reg .RAS_REPL, s.reg .PWR_THERM]
/-- R727. -/
def execHealthGet (fn : Fin 17) (s : State) : Res := .next (opHealthGet fn.val s)

/-- R742: Get Health Info: Maintenance Needed in bit 0 and media ready in bit 8 of the answer's first word. -/
def opGetHealthInfo (fn : Nat) (s : State) : State :=
  s.operator fn 0x4200 0 true false false fun s => s.reply 0x4200 mbOk
    [packWord [(8, bitsOf (healthWord s) 0 0), (0, bitsOf (healthWord s) 1 1)]]
/-- R742. -/
def execGetHealthInfo (fn : Fin 17) (s : State) : Res := .next (opGetHealthInfo fn.val s)

/-! ### Poison (R457, R474) -/

/-- R457: Get Poison List: the lines that read as poison, orphaned ones with the source Internal (2). (log entry 85, DEDUCED) -/
def opGetPoisonList (fn : Nat) (s : State) : State :=
  s.operator fn 0x4300 0 false false false fun s => s.reply 0x4300 mbOk
    ((s.orphanLines.map fun e => BitVec.ofNat 64 (64 * e.1 + 2)) ++
      (s.poisonLines.filter fun e => (mapFind s.orphanLines e.1).isNone).map fun e => BitVec.ofNat 64 (64 * e.1))
/-- R457. -/
def execGetPoisonList (fn : Fin 17) (s : State) : Res := .next (opGetPoisonList fn.val s)

/-- R474: Clear Poison of a plain-region line, with the 64 bytes that replace it. (log entry 85, DEDUCED) -/
def opClearPoison (fn a : Nat) (bs : List Byte) (s : State) : State :=
  s.operator fn 0x4302 0 false false false fun s =>
    match dpaPlace (dpaExtents s.cacheSf) a with
    | .plain _ _ => if bs.length = 64 then (s.engineWrite (64 * (a / 64)) bs).reply 0x4302 mbOk [] else s.reply 0x4302 mbInvalid []
    | _ => s.reply 0x4302 mbInvalid []
/-- R474. -/
def execClearPoison (fn : Fin 17) (addr : Nat) (bytes : List Byte) (s : State) : Res := .next (opClearPoison fn.val addr bytes s)

/-! ### Event logs (R475, R601) -/

/-- The words of an event record's vendor data (R601), after its handle. (log entry 85, DEDUCED) -/
def eventWords (e : EventRec) : List Word :=
  [BitVec.ofNat 64 e.handle, packWord [(40, e.cause), (32, e.stack), (16, e.island), (0, e.code)], BitVec.ofNat 64 e.addr,
    BitVec.ofNat 64 e.dtime, BitVec.ofNat 64 e.count]

/-- Whether a function may act on a function's logs: the operator function on all, another on its own (R474). -/
def ownsLogs (fn owner : Nat) : Bool := fn == operatorFn || fn == owner

/-- R475: Get Event Records: the records of one log, with how many were lost. -/
def opGetEventRecords (fn owner log : Nat) (s : State) : State :=
  if inSafe s ∨ !ownsLogs fn owner then s.reply 0x0100 mbUnsupported []
  else if awaitsMedia s then s.reply 0x0100 mbRetry []
  else
    let l := s.eventLog owner log
    s.reply 0x0100 mbOk
      (packWord [(16, (mapFind s.evLost (8 * owner + log)).getD 0), (0, l.length)] :: l.flatMap eventWords)
/-- R475. -/
def execGetEventRecords (fn owner : Fin 17) (log : Fin 5) (s : State) : Res := .next (opGetEventRecords fn.val owner.val log.val s)

/-- R475: Clear Event Records: the named records of a log, or all of them, which also clears its overflow. -/
def opClearEventRecords (fn owner log : Nat) (all : Bool) (hs : List Nat) (s : State) : State :=
  if inSafe s ∨ !ownsLogs fn owner then s.reply 0x0101 mbUnsupported []
  else if awaitsMedia s then s.reply 0x0101 mbRetry []
  else
    let keep (e : EventRec) : Bool := e.log != log || !(all || hs.contains e.handle)
    let s : State := { s with
      events := mapUpd owner (fun l => l.filter keep) s.events
      evLost := if all then mapDel (8 * owner + log) s.evLost else s.evLost }
    s.reply 0x0101 mbOk []
/-- R475. -/
def execClearEventRecords (fn owner : Fin 17) (log : Fin 5) (all : Bool) (handles : List Nat) (s : State) : Res :=
  .next (opClearEventRecords fn.val owner.val log.val all handles s)

/-- R475: Set Event Interrupt Policy: how each log's events are signalled, for the function itself. -/
def opSetEventInterruptPolicy (fn : Nat) (modes : List Nat) (s : State) : State :=
  if inSafe s then s.reply 0x0103 mbUnsupported []
  else if awaitsMedia s then s.reply 0x0103 mbRetry []
  else
    let s : State := { s with evPolicy := (modes.take 5).zipIdx.foldl (fun m e => mapIns (8 * fn + e.2) e.1 m) s.evPolicy }
    s.reply 0x0103 mbOk []
/-- R475. -/
def execSetEventInterruptPolicy (fn : Fin 17) (modes : List Nat) (s : State) : Res := .next (opSetEventInterruptPolicy fn.val modes s)

/-! ### Identity, logs and timestamps (R474, R667) -/

/-- R474: Identify Memory Device: the part number, the serial number and the 256 MiB blocks of its dynamic capacity. (log entry 85, DEDUCED) -/
def opIdentifyMemoryDevice (_fn : Nat) (s : State) : State :=
  s.reply 0x4000 mbOk [packWord [(16, s.fuses.step), (0, 0x7212)], s.fuses.serial, BitVec.ofNat 64 (dpaExtents s.cacheSf)]
/-- R474. -/
def execIdentifyMemoryDevice (fn : Fin 17) (s : State) : Res := .next (opIdentifyMemoryDevice fn.val s)

/-- The commands that the Command Effects Log of the operator function lists (R474, R726). -/
def celOpcodes : List Nat :=
  [0x0100, 0x0101, 0x0102, 0x0103, 0x0300, 0x0301, 0x0400, 0x0401, 0x4000, 0x4200, 0x4300, 0x4302, 0x4800, 0x4801, 0x4802, 0x4803] ++
    [0xC010, 0xC011, 0xC012, 0xC013, 0xC014, 0xC015, 0xC016, 0xC017, 0xC018]

/-- The words of a LOG record (R737). (log entry 85, DEDUCED) -/
def logWords (r : LogRec) : List Word :=
  [BitVec.ofNat 64 r.dtime,
    packWord [(48, r.count), (32, r.island), (19, r.tenant.getD 0), (18, b2n r.tenant.isSome), (16, r.sev), (0, r.code)],
    BitVec.ofNat 64 r.arg0, BitVec.ofNat 64 r.arg1]

/-- R474: Get Log: the CEL, or `n` records of the vendor LOG from one of them on. -/
def opGetLog (fn : Nat) (vendor : Bool) (first n : Nat) (s : State) : State :=
  if fn ≠ operatorFn then s.reply 0x0401 mbUnsupported []
  else if awaitsMedia s && !inSafe s then s.reply 0x0401 mbRetry []
  else s.reply 0x0401 mbOk
    (if vendor then ((s.log.drop first).take n).flatMap logWords else celOpcodes.map fun o => BitVec.ofNat 64 o)
/-- R474. -/
def execGetLog (fn : Fin 17) (vendor : Bool) (first count : Nat) (s : State) : Res := .next (opGetLog fn.val vendor first count s)

/-- R667: Get Timestamp: DTIME + PWR_DTOFF. -/
def opGetTimestamp (_fn : Nat) (s : State) : State :=
  if inSafe s then s.reply 0x0300 mbUnsupported []
  else if awaitsMedia s then s.reply 0x0300 mbRetry []
  else s.reply 0x0300 mbOk [BitVec.ofNat 64 s.dtime + s.reg .PWR_DTOFF]
/-- R667. -/
def execGetTimestamp (fn : Fin 17) (s : State) : Res := .next (opGetTimestamp fn.val s)

/-- R667: Set Timestamp writes PWR_DTOFF and leaves DTIME. -/
def opSetTimestamp (fn : Nat) (v : Word) (s : State) : State :=
  s.operator fn 0x0301 0 false false false fun s => (s.setReg .PWR_DTOFF 0 (v - BitVec.ofNat 64 s.dtime)).reply 0x0301 mbOk []
/-- R667. -/
def execSetTimestamp (fn : Fin 17) (value : Word) (s : State) : Res := .next (opSetTimestamp fn.val value s)

/-- Opcodes that a host function other than the operator function may give (R474). (log entry 83, PRESUMED) -/
def hostOpcodes : List Nat := [0x0100, 0x0101, 0x0102, 0x0103, 0x0300, 0x4000, 0x4800, 0x4801, 0x4802, 0x4803]

/-- R726: what CFGFREEZE refuses, by opcode and ACTION. -/
def freezes (op action : Nat) : Bool :=
  ((op == 0xC010 || op == 0xC011) && action == 1) || op == 0xC013 || (op == 0xC014 && action == 1) || op == 0xC015 ||
    (op == 0xC016 && (action == 0 || action == 1))

/-- The logs that Get Supported Logs names: the CEL, and the vendor LOG with its records. (log entry 85, DEDUCED) -/
def supportedLogs (s : State) : List Word := [packWord [(32, celOpcodes.length), (0, 1)], packWord [(32, s.log.length), (0, 2)]]

/-- A region of dynamic capacity (R441, R444): where it begins and ends. -/
def dcRegion (s : State) (r : Nat) : Nat × Nat :=
  if r = 0 then (0, extentBytes * dpaExtents s.cacheSf) else if r = 1 then (0x100000000000, 0x100000000000 + 1024 * 0x40000000000)
  else (0x80000000000, 0x80000000000 + 64 * 0x1000000000)

/-- Where an extent lies (R441): its first DPA. -/
def extentDpa (region idx : Nat) : Nat :=
  if region = 0 then idx * extentBytes else if region = 1 then 0x100000000000 + idx * 0x40000000000 else 0x80000000000 + idx * 0x1000000000

/-- The extents of a host, as Get DC Extent List gives them: first DPA and tag. (log entry 85, DEDUCED) -/
def extentWords (s : State) (h : Nat) : List Word :=
  (s.extents.filter fun e => e.2.st == .added && e.2.hosts.contains h).flatMap fun e =>
    [BitVec.ofNat 64 (extentDpa (e.1 / 0x100000000) (e.1 % 0x100000000)), BitVec.ofNat 64 e.2.tag]

/-- The host that a function is one of: the operator function is that of link 0's first host (R439). -/
def fnHost (s : State) (fn : Nat) : Nat := if fn = operatorFn then (configHosts (linkConfig s 0)).headD 0 else fn

/-- R474: the commands of a function that have no row of their own and change nothing: Get Event Interrupt Policy, Get Supported Logs, Get DC Config, Get DC Extent List,
and Add DC Response, which finds its extents added. (log entry 85, DEDUCED) -/
def State.plainQuery (s : State) (fn op : Nat) : State :=
  if inSafe s then s.reply op mbUnsupported []
  else if awaitsMedia s ∧ op ≠ 0x0400 then s.reply op mbRetry []
  else if op = 0x0102 then s.reply op mbOk ((List.range 5).map fun l => BitVec.ofNat 64 ((mapFind s.evPolicy (8 * fn + l)).getD 0))
  else if op = 0x0400 then s.reply op mbOk (supportedLogs s)
  else if op = 0x4800 then
    s.reply op mbOk ((List.range 3).flatMap fun r => [BitVec.ofNat 64 (dcRegion s r).1, BitVec.ofNat 64 (dcRegion s r).2, BitVec.ofNat 64 extentBytes])
  else if op = 0x4801 then s.reply op mbOk (extentWords s (fnHost s fn))
  else if op = 0x4802 then s.reply op mbOk []
  else s

/-- R474, R726: a command that the function does not support is refused with Unsupported, and so is one that CFGFREEZE refuses. Most others are given by rows of their own. -/
def opUnsupportedMailboxCommand (fn op action : Nat) (s : State) : State :=
  if !(if fn = operatorFn then celOpcodes else hostOpcodes).contains op then s.reply op mbUnsupported []
  else if fn = operatorFn ∧ freezes op action ∧ s.flag Fd.GLB_CFG_CFGFREEZE then
    (s.logEv 0x0005 1 noIsland none op action).emit (.mailbox op mbUnsupported 0x20 [])
  else if (op = 0xC010 ∨ op = 0xC011) ∧ 4 ≤ action then s.operator fn op action false false false fun s => s.reply op mbInvalid []
  else s.plainQuery fn op
/-- R474. -/
def execUnsupportedMailboxCommand (fn : Fin 17) (opcode action : Nat) (s : State) : Res :=
  .next (opUnsupportedMailboxCommand fn.val opcode action s)

end Sys2Proof.Machine
end

