-- ==== Sys2Proof/Machine/Ras.lean ====
section
/-!
DEFINITION. Faults and degraded service: patrol scrub and poison, lost stacks and the rebuild, self-test, retired cores, stewards' heartbeats and the fault capsule
(R36 to R39, R577 to R612).
-/
namespace Sys2Proof.Machine

/-! ### FAILED (R582, R597) -/

/-- Poison the view loads that wait. -/
def State.poisonViews (s : State) : State :=
  let s' : State := { s with viewWaits := [] }
  s.viewWaits.foldl (fun s w => s.respondData w.host (List.replicate w.size 0) true none) s'

/-- A command in flight ends without its result: what it staged, pinned, holds or wrote of a unit is let go or taken back (R39, R597). (log entry 81, DEDUCED) -/
def State.breakOff (s : State) (c : Cmd) (code detail : Nat) : State :=
  let wait (s : State) : State := if c.attWaiting then s.waitEnds c else s
  match c.work with
  | .deliver w => (((s.endHolds c.uid none).unstage c (deliverPages c w)).fail c code detail).reclaim
  | .promote hs =>
    let s := s.unstage c (pagesOf s hs)
    if c.opcode = Oc.pin then s.unpinAll c hs code detail else (s.fail c code detail).reclaim
  | .append _ _ undo => match (s.ownSeq c.tenant (fieldOf c.words 1 21 0)).bind fun q => q.chain.getLast? with
    | some h => ((s.undoAppend h undo).fail c code detail).reclaim
    | none => (s.fail c code detail).reclaim
  | .attend w => (((wait s).leavePanel c w).fail c code detail).reclaim
  | .ring w _ _ => (((wait s).leavePanel c w).fail c code detail).reclaim
  | _ => (s.fail c code detail).reclaim

/-- R597: every command in flight other than NOP completes INTERNAL; one whose cells have not all been taken gets that result at decode. (log entry 81, DEDUCED) -/
def State.internalAll (s : State) : State :=
  let s' : State := { s with inflight := s.inflight.map fun c =>
    if c.full ∨ c.opcode = Oc.nop then c else { c with early := some (Cc.internal, 0x0161) } }
  (s'.inflight.filter fun c => c.full && c.opcode != Oc.nop).foldl (fun s c => s.breakOff c Cc.internal 0x0161) s'

/-- The part becomes FAILED (R582, R597, R599, R601). (log entry 81, DEDUCED) -/
def State.failPart (s : State) : State :=
  if partFailed s then s else ((((s.setPart 3).requestReplace 1).rasEvent 0x0108 none none 0 0).internalAll).poisonViews

/-! ### Stacks (R582 to R589) -/

/-- Whether a stack has been lost. -/
def stackLost (s : State) (st : Nat) : Bool := bitAt (s.fld Fd.RAS_STATUS_LOSTMAP) st

/-- A stack passes out of service for good (R583): `cause` is its number in the list of R583. -/
def State.markLost (s : State) (st cause : Nat) : State :=
  let s := s.setFld Fd.RAS_STATUS_LOSTMAP (s.fld Fd.RAS_STATUS_LOSTMAP + 2 ^ st)
  let s := if s.fld Fd.RAS_HBM_STATE st = 1 then s else s.setFld Fd.RAS_STATUS_INSVC (s.fld Fd.RAS_STATUS_INSVC - 1)
  let s := s.setFld Fd.RAS_HBM_STATE 2 st
  (s.rasEvent 0x0102 none (some st) cause 0).requestReplace 0

/-- The rebuild begins in its freeing phase (R587, R609). -/
def State.beginRebuild (s : State) (st : Nat) : State :=
  let total := (s.metaSf + rebuiltSf s) / 512
  let s := s.setReg .RAS_REBUILD 0 (packWord [(44, total), (8, st), (0, 1)])
  let s := (s.setFld Fd.RAS_STATUS_REBUILD 1).rasEvent 0x0103 none (some st) 0 0
  { s with rebuildAt := s.dtime, rebuildWarned := false }

/-- R583: a stack is lost. From DEGRADED, where another stack is out of service, the part becomes FAILED (R582). (log entry 17, DEDUCED) -/
def State.loseStack (s : State) (st cause : Nat) : State :=
  if stackLost s st then s
  else
    let tested := s.fld Fd.RAS_HBM_STATE st == 1
    let second := s.fld Fd.RAS_STATUS_STATE == 2 && !tested
    let s := (s.markLost st cause)
    let s := if tested then (s.setFld Fd.RAS_STATUS_SELFTEST 0).setFld Fd.PGT_RECOV_SELFTEST 0 else s
    if partFailed s then s
    else if second then s.failPart
    else ((s.setPart 2).recovSync).beginRebuild st

/-- R583: an event by which a stack is lost. -/
def opStackLost (st cause : Nat) (s : State) : State := s.loseStack st cause
/-- R583. The causes are numbered from 1, as in R583's list. -/
def execStackLost (stack : Fin 12) (cause : Fin 6) (s : State) : Res := .next (opStackLost stack.val (cause.val + 1) s)

/-- The state with the rebuilt layout in force (R586, R589). -/
def rebuiltLayout (s : State) : State := { s with cacheSf := rebuiltSf s, rowN := s.rowN - 1 }

/-- Whether the top of the data space is empty: every frame lies below the end that frames may take in the rebuilt layout (R587). (log entry 79, DEDUCED) -/
def topEmpty (s : State) : Bool :=
  let r := rebuiltLayout s
  decide (plainGranules r + tokenGranules r ≤ cacheGranules r) && s.frames.all fun e => decide (e.1 + e.2.ngran ≤ frameEnd r)

/-- R587: with the top empty, copying begins. (log entry 79, DEDUCED) -/
def opRebuildCopyStart (s : State) : State :=
  if s.fld Fd.RAS_REBUILD_PHASE = 1 ∧ s.fld Fd.RAS_STATUS_STATE = 2 ∧ topEmpty s then s.setFld Fd.RAS_REBUILD_PHASE 2 else s
/-- R587. -/
def execRebuildCopyStart (s : State) : Res := .next (opRebuildCopyStart s)

/-- While a rebuild copies, a checkpoint after each GiB moves DONEGIB on (R587, R609); in which nanoseconds is a free value. (log entry 114, DESIGN CHOICE) -/
def State.copyStep (s : State) : State :=
  let done := s.fld Fd.RAS_REBUILD_DONEGIB
  if s.fld Fd.RAS_REBUILD_PHASE ≠ 2 ∨ s.fld Fd.RAS_REBUILD_TOTALGIB ≤ done then s
  else if s.free % 2 = 1 then s.drawn.setFld Fd.RAS_REBUILD_DONEGIB (done + 1) else s.drawn

/-- R601: a rebuild that has been freeing for more than 60 s writes event 0x0105. -/
def opRebuildWaitingForSpace (s : State) : State :=
  if s.fld Fd.RAS_REBUILD_PHASE = 1 ∧ !s.rebuildWarned ∧ s.rebuildAt + 60000000000 < s.dtime then
    { s with rebuildWarned := true }.rasEvent 0x0105 none (some (s.fld Fd.RAS_REBUILD_STACK)) 0 0
  else s
/-- R601. -/
def execRebuildWaitingForSpace (now : Nat) (s : State) : Res := .next (opRebuildWaitingForSpace (s.at_ now))

/-- PLMAX follows NEXT down (R441, R589). -/
def State.capPlmax (s : State) : State :=
  let next := dpaExtents s.cacheSf
  if next - 192 < s.fld Fd.CXL_PLAIN_PLMAX then s.setFld Fd.CXL_PLAIN_PLMAX (next - 192) else s

/-- R589: copying has ended: the layout of R586 is in force with its parity, the part is REDUCED, GEO changes, and the sizes that follow from the layout with it. (log entry 79, DEDUCED) -/
def opRebuildComplete (s : State) : State :=
  if s.fld Fd.RAS_REBUILD_PHASE ≠ 2 ∨ s.fld Fd.RAS_STATUS_STATE ≠ 2 then s
  else
    let st := s.fld Fd.RAS_REBUILD_STACK
    let s : State := { rebuiltLayout s with parity := [] }
    let s := (s.reparity (frameRows s)).setFld Fd.RAS_REBUILD_PHASE 0
    let s := (s.setFld Fd.RAS_REBUILD_DONEGIB (s.fld Fd.RAS_REBUILD_TOTALGIB)).setFld Fd.RAS_STATUS_REBUILD 0
    let s := (s.setPart 1).capPlmax
    (s.geoBump 5).rasEvent 0x0104 none (some st) 0 0
/-- R589. -/
def execRebuildComplete (s : State) : Res := .next (opRebuildComplete s)

/-! ### Scrub and poison (R577 to R581, R585, R596) -/

/-- The data granules of the row that a granule lies in. -/
def rowOf (s : State) (g : Nat) : List Nat := (List.range s.rowN).map fun j => g / s.rowN * s.rowN + j

/-- The frames that have one of these data granules. -/
def framesAt (s : State) (gs : List Nat) : List Nat :=
  (s.frames.filter fun e => gs.any fun g => decide (e.1 ≤ g) && decide (g < e.1 + e.2.ngran)).map fun e => e.1

/-- A stack whose granules do not read: lost and not yet rebuilt around, or under test (R584, R591). -/
def stackGone (s : State) (st : Nat) : Bool := (rowStacks s).contains st && (stackLost s st || s.fld Fd.RAS_HBM_STATE st == 1)

/-- The data granule of a row that lies on a stack (R230, R586), none where its parity does. -/
def granuleOn (s : State) (g st : Nat) : Option Nat := (rowOf s g).find? fun x => (stackPlace s x).stack == st

/-- The granule that a scrub result names: on its stack, and the row's first where that is the parity. (log entry 80, DEDUCED) -/
def scrubGranule (s : State) (r : ScrubRow) : Nat := (granuleOn s r.granule r.stack).getD (r.granule / s.rowN * s.rowN)

/-- The pages that a frame holds, by chunk and layer. -/
def framePages (s : State) (f : Nat) : List (Nat × Nat) :=
  s.chunks.flatMap fun e => (e.2.pages.zipIdx.filter fun p => p.1.frame == some f).map fun p => (e.1, p.2)

/-- The content of a frame is lost (R596): what still reads it finds poison, and every page it holds becomes POISONED. (log entry 80, DEDUCED) -/
def State.loseFrame (s : State) (f : Nat) : State :=
  let pages := framePages s f
  let s : State := { s with frames := mapUpd f (fun x => { x with body := .raw [] true }) s.frames }
  pages.foldl (fun s p => ((s.poisonPage p.1 p.2).addFld Fd.RAS_POISON_PAGES 1).rasEvent 0x010A none none 0 p.1) s

/-- A token block is lost (R596). (log entry 80, DEDUCED) -/
def State.loseTokens (s : State) (h : Nat) : State := s.updChunk h fun c => ({ c with tokPoison := true } : Chunk).camSafe

/-- A plain-region line is lost (R596). (log entry 80, DEDUCED) -/
def State.loseLine (s : State) (l : Nat) : State := (s.poisonLine l).addFld Fd.RAS_POISON_LINES 1

/-- What has a data granule among these is poisoned (R581, R585, R596): frames, token blocks and plain-region lines, by where they lie. (log entry 80, DEDUCED) -/
def State.poisonGranules (s : State) (gs : List Nat) : State :=
  let tokens := tokensAt s gs
  let lines := linesAt s gs
  let s := (framesAt s gs).foldl State.loseFrame s
  let s := tokens.foldl State.loseTokens s
  ((lines.foldl State.loseLine s).reclaim).pumpViews

/-- The nanoseconds of 24 hours. -/
def dayNs : Nat := 86400000000000

/-- Add one to the count of the newest event record of a code and a stack (R601). -/
def State.countEvent (s : State) (code stack : Nat) : State :=
  let rec go : List EventRec → List EventRec
    | [] => []
    | e :: es => if e.code = code ∧ e.stack = stack then { e with count := e.count + 1 } :: es else e :: go es
  { s with events := mapUpd operatorFn (fun l => (go l.reverse).reverse) s.events }

/-- A granule has been reconstructed (R578): counted, with event 0x0100 the first time in each 1 s of its stack, and a request for replacement above 256 in 24
hours. -/
def State.reconstructed (s : State) (st g : Nat) : State :=
  let s := s.addFld Fd.RAS_HBM_RECON 1 st
  let recent := (s.dtime :: ((mapFind s.reconTimes st).getD []).filter fun t => decide (s.dtime < t + dayNs)).take 257
  let s : State := { s with reconTimes := mapIns st recent s.reconTimes }
  let fresh := match mapFind s.reconLog st with | none => true | some t => decide (t + 1000000000 ≤ s.dtime)
  let s := if fresh then ({ s with reconLog := mapIns st s.dtime s.reconLog } : State).rasEvent 0x0100 none (some st) 0 g else s.countEvent 0x0100 st
  if 256 < recent.length then s.requestReplace 7 else s

/-- A rewrite read back uncorrectable (R578): more than 4,096 of them lose the stack (R583). (log entry 80, DEDUCED) -/
def State.hardGranule (s : State) (st : Nat) : State :=
  let s := s.addFld Fd.RAS_HBM_HARD 1 st
  if 4096 < s.fld Fd.RAS_HBM_HARD st then s.loseStack st 4 else s

/-- What scrub does with a row. Parity can disagree only where every granule of the row reads (R581); a second unreadable granule loses the data of both (R585). (log entry 80, DEDUCED) -/
def State.scrubResult (s : State) (r : ScrubRow) : State :=
  match r.result with
  | .clean => s
  | .corrected => s.addFld Fd.RAS_HBM_CORR 1 r.stack
  | .reconstructed ok =>
    let s := s.reconstructed r.stack (scrubGranule s r)
    if ok then s else s.hardGranule r.stack
  | .mismatch =>
    if (List.range 12).any (stackGone s) then s
    else
      let s := (s.poisonGranules (rowOf s r.granule)).reparity [r.granule / s.rowN]
      (s.addFld Fd.RAS_SCRUB_MISMATCH 1).rasEvent 0x0101 none none 0 (r.granule / s.rowN * s.rowN)
  | .unreadable other =>
    let gone := (List.range 12).filter fun st => st == r.stack || st == other || stackGone s st
    s.poisonGranules (gone.filterMap (granuleOn s r.granule))
  | .mirrored => s.rasEvent 0x0109 none none 0 (scrubGranule s r)
  | .metadataLost => s.failPart

/-- R580: patrol scrub reads a row; it is suspended in STANDBY (R668). (log entry 80, DEDUCED) -/
def opScrubRow (r : ScrubRow) (s : State) : State :=
  if !mediaReady s || s.fld Fd.PWR_STATUS_PSTATE == 2 || stackGone s r.stack || !(rowStacks s).contains r.stack then s
  else
    let s := s.scrubResult r
    match r.passMin with
    | some m => (s.addFld Fd.RAS_SCRUB_PASSES 1).setFld Fd.RAS_SCRUB_LASTMIN (min m (2 ^ 32 - 1))
    | none => s
/-- R580. -/
def execScrubRow (row : ScrubRow) (now : Nat) (s : State) : Res := .next (opScrubRow row (s.at_ now))

/-! ### RAS_CTL (R591, R593, R608) -/

/-- The fields of a write of RAS_CTL: a SCRUBH of 0 is ignored. -/
def State.writeRasCtl (s : State) (v : Word) : State :=
  let s := if bitsOf v 39 32 = 0 then s else s.setFld Fd.RAS_CTL_SCRUBH (bitsOf v 39 32)
  (s.setFld Fd.RAS_CTL_CORE (bitsOf v 31 24)).setFld Fd.RAS_CTL_STACK (bitsOf v 19 16)

/-- The stack that RAS_CTL names is one that is in service or under test. (log entry 78, DEDUCED) -/
def namedStack (s : State) : Bool := decide (s.fld Fd.RAS_CTL_STACK < 12) && !stackLost s (s.fld Fd.RAS_CTL_STACK)

/-- R591: SELFTEST. (log entry 78, DEDUCED) -/
def opSelftest (v : Word) (s : State) : State :=
  let s := s.writeRasCtl v
  let st := s.fld Fd.RAS_CTL_STACK
  if 1 < s.fld Fd.RAS_STATUS_STATE ∨ s.flag Fd.RAS_STATUS_REBUILD ∨ s.flag Fd.RAS_STATUS_SELFTEST then s.setFld Fd.RAS_CTL_ERR 1
  else if !namedStack s then s.setFld Fd.RAS_CTL_ERR 2
  else
    let s : State := { s.setFld Fd.RAS_CTL_ERR 0 with preTest := s.fld Fd.RAS_STATUS_STATE }
    let s := (s.setFld Fd.RAS_STATUS_SELFTEST 1).setFld Fd.RAS_HBM_STATE 1 st
    let s := s.setFld Fd.RAS_STATUS_INSVC (s.fld Fd.RAS_STATUS_INSVC - 1)
    ((s.setFld Fd.PGT_RECOV_SELFTEST 1).setPart 2).recovSync
/-- R591. -/
def execSelftest (value : Word) (s : State) : Res := .next (opSelftest value s)

/-- The stack under self-test. -/
def testedStack (s : State) : Option Nat := (List.range 12).find? fun st => s.fld Fd.RAS_HBM_STATE st == 1

/-- R591: a self-test ends; on a failure the stack is lost and the rebuild begins. (log entry 17, DEDUCED) -/
def opSelftestDone (pass : Bool) (s : State) : State :=
  match testedStack s with
  | none => s
  | some st =>
    if pass then
      let s := (s.setFld Fd.RAS_STATUS_SELFTEST 0).setFld Fd.RAS_HBM_STATE 0 st
      let s := (s.setFld Fd.RAS_STATUS_INSVC (s.fld Fd.RAS_STATUS_INSVC + 1)).setFld Fd.PGT_RECOV_SELFTEST 0
      let s := if partFailed s then s else s.setPart s.preTest
      (s.recovSync).rasEventAt 0 0x010D none (some st) 0 0
    else (s.rasEventAt 2 0x010D none (some st) 0 0).loseStack st 5
/-- R591. -/
def execSelftestDone (pass : Bool) (s : State) : Res := .next (opSelftestDone pass s)

/-- R583: RETIRE_STACK. (log entry 78, DEDUCED) -/
def opRetireStack (v : Word) (s : State) : State :=
  let s := s.writeRasCtl v
  if !namedStack s then s.setFld Fd.RAS_CTL_ERR 2 else (s.setFld Fd.RAS_CTL_ERR 0).loseStack (s.fld Fd.RAS_CTL_STACK) 6
/-- R583. -/
def execRetireStack (value : Word) (s : State) : Res := .next (opRetireStack value s)

/-! ### Cores (R51, R52, R62, R593 to R595) -/

/-- The core die of a core (R23). -/
def coreDie (i : Nat) : Nat := i / 128

/-- Core i. -/
def State.core (s : State) (i : Nat) : CoreRec := s.cores.getD i { enabled := false, retired := true, panel := none }

/-- Change core i. -/
def State.updCore (s : State) (i : Nat) (f : CoreRec → CoreRec) : State :=
  { s with cores := s.cores.mapIdx fun j c => if j = i then f c else c }

/-- A core that can work. -/
def CoreRec.good (c : CoreRec) : Bool := c.enabled && !c.retired

/-- Cores of a die that a panel has and that can work. -/
def coresOf (s : State) (p d : Nat) : Nat := s.cores.zipIdx.countP fun e => e.1.good && e.1.panel == some p && coreDie e.2 == d

/-- The unassigned core of a die that replaces a retired one: the lowest island ID (R52, R62). -/
def unassignedCore (s : State) (d : Nat) : Option Nat :=
  (s.cores.zipIdx.find? fun e => e.1.good && e.1.panel.isNone && coreDie e.2 == d).map fun e => e.2

/-- A plan has counts within the cores available (R62). -/
def planFits (x : Plan) (c0 c1 : Nat) : Bool := decide (x.c0 ≤ c0) && decide (x.c1 ≤ c1)

/-- R62: the plan of lowest bound scale whose counts the cores allow, the lower number on a tie. -/
def selectPlan (plans : List Plan) (c0 c1 : Nat) : Option Nat :=
  (plans.zipIdx.foldl (fun (best : Option (Nat × Nat)) e =>
    if !planFits e.1 c0 c1 then best
    else match best with
      | none => some (e.1.scale, e.2)
      | some b => if e.1.scale < b.1 then some (e.1.scale, e.2) else best) none).map fun b => b.2

/-- A panel's configuration in the running pattern. -/
def panelNum (s : State) (p : Nat) : Option PanelCfg := s.pattern.bind fun x => x.panels.find? fun c => c.num == p

/-- A panel runs a plan of its library (R62, R96). -/
def State.usePlan (s : State) (p n : Nat) (x : Plan) : State :=
  ((s.setFld Fd.PANEL_STATE_PLAN n p).setFld Fd.PANEL_STATE_CORES0 x.c0 p).setFld Fd.PANEL_STATE_CORES1 x.c1 p

/-- A panel becomes SHORT (R595): its attention commands in execution stop at their next tile boundary. (log entry 27, DEDUCED) -/
def State.goShort (s : State) (p : Nat) : State :=
  let s := (s.setFld Fd.PANEL_STATE_STATE panelShort p).usePlan p (s.fld Fd.PANEL_STATE_PLAN p) { c0 := 0, c1 := 0, scale := 0, place := 0 }
  let stops (c : Cmd) : Bool := isAttention c.opcode && panelOf s (s.profileOf c.tenant) == some p
  let s : State := { s with inflight := s.inflight.map fun c => if stops c ∧ c.cancel = none then { c with cancel := some 0x0160 } else c }
  (s.rasEvent 0x0107 none none 0 p).requestReplace 2

/-- Retired cores that a panel still counts as its own: they wait to be replaced. -/
def goneCores (s : State) (p : Nat) : List Nat := (s.cores.zipIdx.filter fun e => e.1.retired && e.1.panel == some p).map fun e => e.2

/-- Unassigned cores take the place of a panel's retired ones, while there are any (R62, R594). -/
def State.replaceCores (s : State) (p : Nat) : List Nat → State
  | [] => s
  | i :: rest => match unassignedCore s (coreDie i) with
    | some j => ((s.updCore j fun c => { c with panel := some p }).updCore i fun c => { c with panel := none }).replaceCores p rest
    | none => s.replaceCores p rest

/-- R62, R594, R595: a panel whose cores have retired: unassigned cores first, then idle cores of its own, then the plan of R62, and else SHORT. True where its plan
changes. (log entry 27, DEDUCED) -/
def State.refitPanel (s : State) (p : Nat) : State × Bool :=
  let s := s.replaceCores p (goneCores s p)
  let left := goneCores s p
  let s := left.foldl (fun s i => s.updCore i fun c => { c with panel := none }) s
  match panelNum s p with
  | none => (s, false)
  | some cfg =>
    let c0 := coresOf s p 0
    let c1 := coresOf s p 1
    if left = [] ∨ ((cfg.plans[s.fld Fd.PANEL_STATE_PLAN p]?).map fun x => planFits x c0 c1).getD false then (s, false)
    else
      let s := s.addFld Fd.PANEL_STATE_RETIRED left.length p
      if s.fld Fd.PANEL_STATE_STATE p = panelShort then (s, false)
      else match selectPlan cfg.plans c0 c1 with
        | some n => (s.usePlan p n (cfg.plans.getD n { c0 := 0, c1 := 0, scale := 0, place := 0 }), true)
        | none => (s.goShort p, false)

/-- R593, R594: a core retires, by cause 1 to 4 of R593. A panel that is being programmed replaces it once programming ends. A retirement that also changes its panel's plan
advances GEO.GEN once, with the cause of the plan (R88). (log entry 27, DEDUCED; log entry 105, DESIGN CHOICE) -/
def State.retireCore (s : State) (i cause : Nat) : State :=
  let c := s.core i
  if !c.good then s
  else
    let s := s.updCore i fun c => { c with retired := true }
    let s := s.setReg .RAS_CORERET (i / 64) (s.reg .RAS_CORERET (i / 64) ||| BitVec.ofNat 64 (2 ^ (i % 64)))
    let s := (s.addFld Fd.RAS_STATUS_CORESRET 1).reduced
    let s := s.rasEvent 0x0106 (some i) none cause i
    let s := if 16 < s.fld Fd.RAS_STATUS_CORESRET then s.requestReplace 3 else s
    match c.panel with
    | none => s.geoBump 3
    | some p =>
      if s.fld Fd.PANEL_STATE_STATE p = panelSwapping then s.geoBump 3
      else
        let (s, plan) := s.refitPanel p
        s.geoBump (if plan then 4 else 3)

/-- R594: a core retires by itself: an uncorrectable error, or more than 16 corrected ones within an hour (R593). -/
def opCoreRetire (i cause : Nat) (s : State) : State := s.retireCore i cause
/-- R594. -/
def execCoreRetire (core : Fin 256) (cause : Fin 2) (s : State) : Res := .next (opCoreRetire core.val (cause.val + 1) s)

/-- R593: RETIRE_CORE. -/
def opRetireCore (v : Word) (s : State) : State :=
  let s := s.writeRasCtl v
  let i := s.fld Fd.RAS_CTL_CORE
  if !(s.core i).good then s.setFld Fd.RAS_CTL_ERR 2 else (s.setFld Fd.RAS_CTL_ERR 0).retireCore i 4
/-- R593. -/
def execRetireCore (value : Word) (s : State) : Res := .next (opRetireCore value s)

/-- R593: the known-answer tile on an idle core: a wrong result retires it. -/
def opKnownAnswerTest (i : Nat) (ok : Bool) (s : State) : State := if ok then s else s.retireCore i 3
/-- R593. -/
def execKnownAnswerTest (core : Fin 256) (ok : Bool) (s : State) : Res := .next (opKnownAnswerTest core.val ok s)

/-! ### Stewards (R39) -/

/-- Put a steward's liveness. -/
def State.setSteward (s : State) (st : Nat) (x : Steward) : State := { s with stewards := mapIns st x s.stewards }

/-- Whether a command is under way on a steward: begun, and its journalled unit, in which a handle of that steward takes part, not complete (R36, R39). -/
def underWay (s : State) (c : Cmd) (st : Nat) : Bool := ((handlesOf s c).any fun h => h % 8 == st) && c.work != .ready

/-- R39: a steward island is reset: commands whose unit had not completed are rolled back and complete INTERNAL; the others wait until it serves again. Four resets within an
hour ask for replacement (R599). (log entry 19, DEDUCED) -/
def State.resetSteward (s : State) (st : Nat) : State :=
  let x := s.steward st
  let resets := (s.dtime :: x.resets.filter fun t => decide (s.dtime < t + 3600000000000)).take 4
  let s := s.setSteward st { missed := 0, down := true, resets }
  let back := s.inflight.filter fun c => underWay s c st
  let s := back.foldl (fun s c => s.breakOff c Cc.internal 0) s
  let s := s.logEv 0x0002 1 (268 + st) none st back.length
  if 4 ≤ resets.length then s.requestReplace 8 else s

/-- R39: the MGC checks a steward's heartbeat: four misses in a row reset it. (log entry 18, DESIGN CHOICE) -/
def opStewardHeartbeat (st : Nat) (alive : Bool) (s : State) : State :=
  let x := s.steward st
  if x.down then s
  else if alive then s.setSteward st { x with missed := 0 }
  else if x.missed + 1 < 4 then s.setSteward st { x with missed := x.missed + 1 }
  else s.resetSteward st
/-- R39. -/
def execStewardHeartbeat (steward : Fin 8) (alive : Bool) (now : Nat) (s : State) : Res := .next (opStewardHeartbeat steward.val alive (s.at_ now))

/-- R39: a reset steward serves again. (log entry 18, DESIGN CHOICE) -/
def opStewardRecovered (st : Nat) (s : State) : State :=
  let x := s.steward st
  if x.down then s.setSteward st { x with down := false, missed := 0 } else s
/-- R39. -/
def execStewardRecovered (steward : Fin 8) (s : State) : Res := .next (opStewardRecovered steward.val s)

/-! ### The fault capsule (R602 to R605) -/

/-- R602: the snapshot of every 10 minutes. -/
def opCapsuleSnapshot (s : State) : State := s.snapshot
/-- R602. -/
def execCapsuleSnapshot (now : Nat) (s : State) : Res := .next (opCapsuleSnapshot (s.at_ now))

/-- R605: SUMMARY. -/
def opCapsuleReadSummary (fn : Nat) (s : State) : State :=
  s.operator fn 0xC018 0 true true false fun s =>
    let last := s.capRecs.getLast?
    s.reply 0xC018 mbOk ([packWord [(48, (last.map fun r => r.level).getD 0), (32, (last.map fun r => r.code).getD 0), (16, s.capSnaps.length), (0, s.capRecs.length)],
      BitVec.ofNat 64 ((last.map fun r => r.dtime).getD 0), packWord [(16, s.capFatal), (0, s.capFail)], s.reg .RAS_STATUS, s.reg .RAS_REPL] ++
      wordsOf (sliceAt Config.returnKeyId 0 48))
/-- R605. -/
def execCapsuleReadSummary (fn : Fin 17) (s : State) : Res := .next (opCapsuleReadSummary fn.val s)

/-- The 128 bytes of a record of the capsule, encrypted (R602, R604). (log entry 82, DEDUCED) -/
def capRecBytes (r : CapRec) : List Byte :=
  sliceAt (Config.capsuleSeal (leBytes 2 r.code ++ leBytes 2 r.island ++ leBytes 4 r.level ++ leBytes 8 r.addr ++ leBytes 8 r.dtime)) 0 128

/-- The 8 KiB of a snapshot, encrypted (R602, R604). (log entry 82, DEDUCED) -/
def capSnapBytes (x : CapSnap) : List Byte :=
  sliceAt (Config.capsuleSeal (bytesOf ([x.rasStatus, x.glbStatus, x.patStatus, BitVec.ofNat 64 x.lostMap, BitVec.ofNat 64 x.dtime] ++ x.retired ++ x.flash) ++
    x.meas ++ x.clocks.flatMap (leBytes 8))) 0 8192

/-- A 4 KiB piece of the capsule as stored (R602, R605): 32 records, or half a snapshot. (log entry 82, DEDUCED) -/
def capsulePiece (s : State) (n : Nat) : List Byte :=
  if n < 128 then sliceAt (((s.capRecs.drop (32 * n)).take 32).flatMap capRecBytes) 0 4096
  else sliceAt (((s.capSnaps[(n - 128) / 2]?).map capSnapBytes).getD []) (4096 * (n % 2)) 4096

/-- R605: READ. (log entry 82, DEDUCED) -/
def opCapsuleReadPiece (fn n : Nat) (s : State) : State :=
  s.operator fn 0xC018 1 true true false fun s => s.reply 0xC018 mbOk (wordsOf (capsulePiece s n))
/-- R605. -/
def execCapsuleReadPiece (fn : Fin 17) (piece : Fin 256) (s : State) : Res := .next (opCapsuleReadPiece fn.val piece.val s)

end Sys2Proof.Machine
end

