-- ==== Sys2Proof/Machine/Sha.lean ====
section
/-!
DEFINITION. SHA-384 as FIPS 180-4 gives it, and HMAC over it: the digest of pattern sections, profiles, certificates and measurements, and the derivation of
identities (R70, R347, R616, R618, R622).
-/
namespace Sys2Proof.Machine

/-- The fractions of the cube roots of the first 80 primes, 64 bits each, the first prime's lowest. (log entry 12, PRESUMED) -/
def cubeFractions : Nat := 0x6c44198c4a4758175fcb6fab3ad6faec597f299cfc657e2a4cc5d4becb3e42b6431d67c49c100d4c3c9ebe0a15c9bebc32caab7b40c7249328db77f523047d841b710b35131c471b113f9804bef90dae0a637dc5a2c898a606f067aa72176fbaf57d4f7fee6ed178eada7dd6cde0eb1ed186b8c721c0c207ca273eceea26619cc67178f2e372532bbef9a3f7b2c67915a4506cebde82bde990befffa23631e288cc702081a6439ec84c87814a1f0ab7278a5636f43172f60748f82ee5defb2fc682e6ff3d6b2b8a35b9cca4f7763e3734ed8aa4ae3418acb391c0cb3c5c95a6334b0bcb5e19b48a82748774cdf8eeb991e376c085141ab5319a4c116b8d2d0c8106aa07032bbd1b8f40e35855771202ad69906245565a910d192e819d6ef5218c76c51a30654be30c24b8b70d0f89791a81a664bbc423001a2bfe8a14cf1036492722c851482353b81c2c92e47edaee6766a0abb3c77b2a8650a73548baf63de53380d139d95b3df4d2c6dfc5ac42aed2e1b21385c26c92627b70a8546d22ffc142929670a0e6e7006ca6351e003826fd5a79147930aa725c6e00bf33da88fc2bf597fc7beef0ee4b00327c898fb213fa831c66d2db43210983e5152ee66dfab76f988da831153b55cb0a9dcbd41fbd44a7484aa6ea6e4832de92c6f592b0275240ca1cc77ac9c650fc19dc68b8cd5b5efbe4786384f25e3e49b69c19ef14ad2c19bf174cf6926949bdc06a725c7123580deb1fe3b1696b172be5d74f27b896f550c7dc3d5ffb4e2243185be4ee4b28c12835b0145706fbed807aa98a3030242ab1c5ed5da6d8118923f82a4af194f9b59f111f1b605d0193956c25bf348b538e9b5dba58189dbbcb5c0fbcfec4d3b2f7137449123ef65cd428a2f98d728ae22

/-- The fractions of the square roots of the 9th to the 16th prime, 64 bits each, the 9th's lowest. (log entry 12, PRESUMED) -/
def squareFractions : Nat := 0x47b5481dbefa4fa4db0c2e0d64f98fa78eb44a876858151167332667ffc00b31152fecd8f70e59399159015a3070dd17629a292a367cd507cbbb9d5dc1059ed8

/-- The 64-bit digits of a number, `n` of them, lowest first. -/
def digits64 (n v : Nat) : List Word := (List.range n).map fun i => BitVec.ofNat 64 (v >>> (64 * i))

/-- What a hash ingests: the message, a one bit, zeros up to 16 bytes short of a whole block of 128, and the message's length in bits. (log entry 12, PRESUMED) -/
def hashInput (m : List Byte) : List Byte :=
  let used := m.length + 17
  m ++ 0x80 :: (List.replicate (128 * ceilDiv used 128 - used) 0 ++ beBytes 16 (8 * m.length))

/-- Three turned copies of a word, added without carry. -/
def spin (x : Word) (i j k : Nat) : Word := x.rotateRight i ^^^ (x.rotateRight j ^^^ x.rotateRight k)

/-- Two turned copies and a shifted one, added without carry. -/
def smear (x : Word) (i j k : Nat) : Word := x >>> k ^^^ (x.rotateRight i ^^^ x.rotateRight j)

/-- The schedule from a block's sixteen words on: each further word comes from the 2nd, 7th, 15th and 16th before it. `win` holds the last sixteen, oldest first. -/
def scheduleFrom (win : List Word) : Nat → List Word
  | 0 => []
  | n + 1 => match win with
    | w0 :: w1 :: rest =>
      let w := w0 + smear w1 1 8 7 + rest.getD 7 0 + smear (rest.getD 12 0) 19 61 6
      w :: scheduleFrom (w1 :: rest ++ [w]) n
    | _ => []

/-- A round's mixing of the working variables with a word of the schedule and its constant. -/
def mixRound (v : List Word) (kw : Word) : List Word :=
  match v with
  | [a, b, c, d, e, f, g, h] =>
    let pick := g ^^^ (e &&& (f ^^^ g))
    let most := (a &&& (b ||| c)) ||| (b &&& c)
    let add := kw + h + pick + spin e 14 18 41
    [add + most + spin a 28 34 39, a, b, c, d + add, e, f, g]
  | _ => v

/-- One block of 128 bytes goes into a hash. -/
def compress (k h : List Word) (b : List Byte) : List Word :=
  let ws := (List.range 16).map fun i => BitVec.ofNat 64 (ofBE (sliceAt b (8 * i) 8))
  List.zipWith (· + ·) h ((List.zipWith (· + ·) k (ws ++ scheduleFrom ws 64)).foldl mixRound h)

/-- SHA-384: 48 bytes. (log entry 12, PRESUMED) -/
def sha384 (m : List Byte) : List Byte :=
  let inp := hashInput m
  let k := digits64 80 cubeFractions
  let blocks := (List.range (inp.length / 128)).foldl (fun (x : List Word × List Byte) _ => (compress k x.1 (x.2.take 128), x.2.drop 128))
    (digits64 8 squareFractions, inp)
  (blocks.1.take 6).flatMap fun w => beBytes 8 w.toNat

/-- HMAC with SHA-384 as FIPS 198-1 gives it (R618). (log entry 12, PRESUMED) -/
def hmac384 (key m : List Byte) : List Byte :=
  let k := sliceAt (if 128 < key.length then sha384 key else key) 0 128
  sha384 (k.map (· ^^^ 0x5C) ++ sha384 (k.map (· ^^^ 0x36) ++ m))

end Sys2Proof.Machine
end

