-- ==== Sys2Proof/Machine/Image.lean ====
section
/-!
DEFINITION. Pattern images: the staging buffer, what an image's header, directory and sections hold, and the checks of R76 on them (R46 to R70, R74, R76, R233, R234,
R299, R324, R345 to R350, R637, R662).
-/
namespace Sys2Proof.Machine

/-! ### Staging (R74, R92) -/

/-- Bytes of the staging buffer. -/
def stageBytes : Nat := 0x10000000

/-- What is left of a piece at `o` once [a, b) is taken out of it. -/
def cutPiece (a b o : Nat) (bs : List Byte) : Staging :=
  let head := bs.take (a - o)
  let tail := bs.drop (b - o)
  (if o < a ∧ head ≠ [] then [(o, head)] else []) ++ (if b < o + bs.length ∧ tail ≠ [] then [(max o b, tail)] else [])

/-- Copy a piece into the buffer; pieces may overwrite one another. -/
def State.stage (s : State) (off : Nat) (bs : List Byte) : State :=
  if bs = [] then s
  else
    let kept := s.staging.flatMap fun e => cutPiece off (off + bs.length) e.1 e.2
    { s with staging := mapIns off bs (kept.foldl (fun m e => mapIns e.1 e.2 m) []) }

/-- The end of the highest piece. -/
def stagedEnd (st : Staging) : Nat := st.foldl (fun m e => max m (e.1 + e.2.length)) 0

/-- The staged byte at an offset. -/
def stagedByte (st : Staging) (o : Nat) : Option Byte :=
  st.findSome? fun e => if e.1 ≤ o then e.2[o - e.1]? else none

/-- The `n` bytes from an offset, bytes that are not staged reading zero. -/
def stagedRead (st : Staging) (o n : Nat) : List Byte := (List.range n).map fun i => (stagedByte st (o + i)).getD 0

/-- Every byte below n is staged (R76, check 5): the pieces lie in rising order without gaps. -/
def stagedFull (st : Staging) (n : Nat) : Bool :=
  decide (n ≤ st.foldl (fun m e => if e.1 ≤ m then max m (e.1 + e.2.length) else m) 0)

/-! ### Header and directory (R46 to R49) -/

/-- Read the header and the directory of the staged image. -/
def readImage (st : Staging) : Image :=
  let hdr := wordsOf (stagedRead st 0 256)
  let n := min 325 (fieldOf hdr 4 47 32)
  { st, hdr, dir := (List.range n).map fun i =>
      let w := wordsOf (stagedRead st (256 + 32 * i) 32)
      { type := fieldOf w 0 15 0, panel := fieldOf w 0 23 16, off := (wordAt w 1).toNat, len := (wordAt w 2).toNat } }

/-- The failing code, section type, panel and offset (R76, R93). (log entry 23, DEDUCED) -/
structure PatErr where
  code : Nat
  type : Nat
  panel : Nat
  soff : Nat
  deriving DecidableEq, Repr

/-- A failure in the header. (log entry 23, DEDUCED) -/
def hdrErr (code soff : Nat) : PatErr := { code, type := 0, panel := 0xFF, soff }

/-- A failure in a section. (log entry 23, DEDUCED) -/
def secErr (code type panel soff : Nat) : PatErr := { code, type, panel, soff }

/-- A check: none where it holds. -/
def failIf (bad : Bool) (e : PatErr) : Option PatErr := if bad then some e else none

/-- The first failure of a list of checks. -/
def firstFail (l : List (Option PatErr)) : Option PatErr := l.findSome? id

/-- Panels an image declares. -/
def Image.npanel (x : Image) : Nat := fieldOf x.hdr 1 63 56
/-- A panel image for PANEL_SWAP. -/
def Image.panelImg (x : Image) : Bool := fieldOf x.hdr 5 17 17 == 1
/-- SIGOFF. -/
def Image.sigOff (x : Image) : Nat := (wordAt x.hdr 6).toNat
/-- SIGNER, in the first byte of the signature block (R66). -/
def Image.signer (x : Image) : Nat := ((stagedByte x.st x.sigOff).getD 0).toNat
/-- SUITE (R66). -/
def Image.suite (x : Image) : Nat := ((stagedByte x.st (x.sigOff + 1)).getD 0).toNat
/-- KEYID: the SHA-384 of the signer's certificate (R66). -/
def Image.keyId (x : Image) : List Byte := stagedRead x.st (x.sigOff + 8) 48
/-- SIG_EC (R66). -/
def Image.sigEc (x : Image) : List Byte := stagedRead x.st (x.sigOff + 56) 96
/-- SIG_PQ (R66). What follows it up to SIGSIZE is reserved and not looked at (R18). -/
def Image.sigPq (x : Image) : List Byte := stagedRead x.st (x.sigOff + 152) 4627
/-- What both signatures are computed over: bytes 0 to SIGOFF - 1 (R67). -/
def Image.signedBytes (x : Image) : List Byte := stagedRead x.st 0 x.sigOff

/-- The section of a type and panel. -/
def Image.section? (x : Image) (type panel : Nat) : Option DirEntry := x.dir.find? fun e => e.type == type && e.panel == panel

/-- The bytes of a section, cut or filled to `n`. -/
def Image.bytes (x : Image) (type panel n : Nat) : List Byte :=
  match x.section? type panel with | some e => stagedRead x.st e.off (min n e.len) ++ List.replicate (n - e.len) 0 | none => List.replicate n 0

/-- All the bytes of a section. -/
def Image.whole (x : Image) (type panel : Nat) : List Byte :=
  match x.section? type panel with | some e => stagedRead x.st e.off e.len | none => []

/-- The global and per-panel section types (R49). -/
def globalTypes : List Nat := [1, 2, 3, 4, 5]
/-- R49. -/
def panelTypes : List Nat := [0x10, 0x11, 0x12, 0x13, 0x14]

/-- The panels that an image carries, ascending. -/
def Image.panels (x : Image) : List Nat := (List.range 64).filter fun p => x.dir.any fun e => e.panel == p

/-- Two sections lie apart. -/
def apart (a b : DirEntry) : Bool := decide (a.off + a.len ≤ b.off) || decide (b.off + b.len ≤ a.off)

/-- No two of a list of sections overlap. -/
def allApart : List DirEntry → Bool
  | [] => true
  | e :: es => es.all (apart e) && allApart es

/-- Check 1 of R76: MAGIC, HDRSIZE and reserved header fields. -/
def checkHeader (x : Image) : Option PatErr := firstFail [
  failIf (wordAt x.hdr 0 != 0x4E54415037584C51) (hdrErr 1 0),
  failIf (fieldOf x.hdr 1 47 32 != 256 || fieldOf x.hdr 1 55 48 != 0) (hdrErr 1 8),
  failIf (fieldOf x.hdr 4 63 48 != 0) (hdrErr 1 32),
  failIf (fieldOf x.hdr 5 63 18 != 0) (hdrErr 1 40),
  failIf (fieldOf x.hdr 7 63 32 != 0) (hdrErr 1 56),
  failIf ((x.hdr.drop 16).any fun w => w != 0) (hdrErr 1 128)]

/-- Check 6 of R76: R48 and R49. -/
def checkDirectory (x : Image) (swap : Bool) : Option PatErr :=
  let per := x.dir.filter fun e => panelTypes.contains e.type
  let glob := x.dir.filter fun e => globalTypes.contains e.type
  let n := fieldOf x.hdr 4 47 32
  let size := (wordAt x.hdr 2).toNat
  let np := if swap then 1 else x.npanel
  firstFail [
    failIf (x.panelImg != swap || (swap && x.npanel != 0) || (!swap && (x.npanel == 0 || decide (64 < x.npanel)))) (hdrErr 6 40),
    failIf (n != (if swap then 5 else 5 + 5 * x.npanel)) (hdrErr 6 32),
    failIf (x.sigOff % 4096 != 0 || fieldOf x.hdr 7 31 0 != 4800 || decide (size < x.sigOff + 4800) || decide (x.sigOff < 256 + 32 * n)) (hdrErr 6 48),
    failIf (decide (x.dir.length ≠ glob.length + per.length)) (hdrErr 6 256),
    failIf (x.dir.any fun e => e.off % 4096 != 0 || decide (x.sigOff < e.off + e.len) || decide (e.off < 256 + 32 * n)) (hdrErr 6 256),
    failIf (!allApart x.dir) (hdrErr 6 256),
    failIf (glob.any fun e => e.panel != 0xFF) (hdrErr 6 256),
    failIf (per.any fun e => decide (63 < e.panel)) (hdrErr 6 256),
    failIf (!globalTypes.all fun t => (glob.countP fun e => e.type == t) == (if swap then 0 else 1)) (hdrErr 6 256),
    failIf (x.panels.length != np || !x.panels.all fun p => panelTypes.all fun t => (per.countP fun e => e.type == t && e.panel == p) == 1) (hdrErr 6 256)]

/-! ### What the sections hold -/

/-- The plans of a library (R345, R346): the main plan, then NSPARE spare plans. -/
def readPlans (lib : List Byte) (nspare : Nat) : List Plan :=
  (List.range (nspare + 1)).map fun i =>
    let v := ofLE (sliceAt lib (320 + 8 * i) 8)
    { c0 := natBits v 7 0, c1 := natBits v 15 8, scale := natBits v 31 16, place := natBits v 63 32 }

/-- The tables of a coder table set (R324), empty for a tensor that is uncoded. -/
def readTables (bs : List Byte) (ntens : Nat) : List (List Nat) :=
  (List.range ntens).map fun i =>
    let l := tableLengths ((bs.drop (64 + 128 * i)).take 128)
    if l.all fun n => n == 0 then [] else l

/-- The distance-bias tables (R350). -/
def readBias (bs : List Byte) (nqh : Nat) : List (List Nat × Nat) :=
  (List.range nqh).map fun h =>
    let t := bs.drop (64 + 16448 * h)
    ((List.range 4096).map fun d => ofLE ((t.drop (4 * d)).take 4), ofLE ((t.drop 16384).take 4))

/-- A panel of an image. -/
def readPanel (x : Image) (p : Nat) : PanelCfg :=
  let hdr := wordsOf (x.bytes 0x10 p 512)
  let lib := x.bytes 0x11 p 584
  { num := p, hdr, plans := readPlans lib (fieldOf hdr 1 55 48), planRec := sliceAt lib 8 16,
    tables := readTables (x.bytes 0x12 p (64 + 256 * fieldOf hdr 0 23 16)) (2 * fieldOf hdr 0 23 16),
    bias := readBias (x.bytes 0x13 p (64 + 16448 * (fieldOf hdr 0 28 24 * fieldOf hdr 0 36 32))) (fieldOf hdr 0 28 24 * fieldOf hdr 0 36 32),
    templates := (List.range 16).map fun i => wordsOf ((x.bytes 0x14 p 1024).drop (64 * i) |>.take 64),
    digest := sha384 (panelTypes.flatMap fun t => x.whole t p) }

/-- The pattern of an image (R46, R49, R70). -/
def readPattern (x : Image) : Pattern :=
  let isl := x.bytes 1 0xFF 4352
  let wheels := x.bytes 4 0xFF 49152
  { fmtver := fieldOf x.hdr 1 15 0, ifgen := fieldOf x.hdr 1 31 16, stepset := wordAt x.hdr 3, svn := fieldOf x.hdr 4 31 0, signer := x.signer,
    keyId := x.keyId, compat := fieldOf x.hdr 5 16 16 == 1, island := wordsOf (isl.take 4096),
    partition := (List.range 64).map fun p => ((isl.getD (4096 + 4 * p) 0).toNat, (isl.getD (4097 + 4 * p) 0).toNat),
    routes := x.whole 2 0xFF, swizzle := x.bytes 3 0xFF 128,
    wheels := (List.range 12).map fun m => ((wheels.drop (4096 * m)).take 4096).map BitVec.toNat,
    policy := wordsOf (x.bytes 5 0xFF 256), panels := x.panels.map (readPanel x),
    baseDig := sha384 (globalTypes.flatMap fun t => x.whole t 0xFF) }

/-! ### Checks on the sections, part of check 6 (R234, R324, R347, R350, R637) -/

/-- R234: the address swizzle and stripe map section. (log entry 22, DEDUCED) -/
def checkSwizzle (bs : List Byte) : Option PatErr :=
  let w := wordsOf bs
  let nsel := fieldOf w 0 7 4
  let bad (i : Nat) (b : Bool) : Option PatErr := failIf b (secErr 6 3 0xFF (8 * i))
  firstFail ([bad 0 (decide (11 < fieldOf w 0 3 0) || decide (12 < nsel))] ++
    ((List.range 12).map fun i => bad (i + 1) (if i < nsel then fieldOf w (i + 1) 31 0 % 2 ^ nsel != 0 else fieldOf w (i + 1) 31 0 != 0)) ++
    [bad 13 (decide (fieldOf w 13 4 0 < 16) || decide (24 < fieldOf w 13 4 0) ||
        decide (fieldOf w 13 15 8 ≤ fieldOf w 13 23 16) || decide (98 < fieldOf w 13 15 8) ||
        decide (fieldOf w 13 31 24 ≤ fieldOf w 13 39 32) || decide (97 < fieldOf w 13 31 24) || fieldOf w 13 47 40 == 0),
      bad 14 (wordAt w 14 == 0 && wordAt w 15 == 0)])

/-- R637: the Selvedge policy. (log entry 22, DEDUCED) -/
def checkPolicy (w : List Word) : Option PatErr := firstFail [
  failIf (fieldOf w 0 7 0 != 1 || fieldOf w 0 63 9 != 0) (secErr 6 5 0xFF 0),
  failIf (fieldOf w 1 63 32 != 0) (secErr 6 5 0xFF 8),
  failIf ((w.drop 18).any fun v => v != 0) (secErr 6 5 0xFF 144)]

/-- FP32 bits of a NaN. -/
def nan32 (v : Nat) : Bool := natBits v 30 23 == 255 && natBits v 22 0 != 0
/-- FP32 bits of an infinity or a NaN. -/
def notFinite32 (v : Nat) : Bool := natBits v 30 23 == 255

/-- R324: the coder table set of a panel. (log entry 22, DEDUCED) -/
def checkCoder (x : Image) (c : PanelCfg) : Option PatErr :=
  let g := geoOf (wordAt c.hdr 0)
  let w := wordsOf (x.bytes 0x12 c.num 64)
  let len := ((x.section? 0x12 c.num).map fun e => e.len).getD 0
  firstFail ([failIf (fieldOf w 0 7 0 != fieldOf c.hdr 0 15 8 || fieldOf w 0 16 8 != 2 * g.layers || fieldOf w 0 63 17 != 0 || (w.drop 1).any (fun v => v != 0) ||
      decide (len < 64)) (secErr 6 0x12 c.num 0)] ++
    c.tables.zipIdx.map fun e =>
      failIf (decide (len < 192 + 128 * e.2) || e.1 != [] && (match symW (tensorFmt g e.2) with | some k => !tableOk k e.1 | none => true)) (secErr 6 0x12 c.num (64 + 128 * e.2)))

/-- R350: the distance-bias section of a panel. (log entry 22, DEDUCED) -/
def checkBias (x : Image) (c : PanelCfg) : Option PatErr :=
  let w := ofLE (x.bytes 0x13 c.num 8)
  firstFail ([failIf (natBits w 7 0 != fieldOf c.hdr 0 15 8 || natBits w 16 8 != fieldOf c.hdr 0 28 24 * fieldOf c.hdr 0 36 32) (secErr 6 0x13 c.num 0)] ++
    c.bias.zipIdx.map fun e => failIf (e.1.1.any (fun v => nan32 v || v == 0x7F800000) || notFinite32 e.1.2) (secErr 6 0x13 c.num (64 + 16448 * e.2)))

/-- The first BOUND entry that is not above the one before it, or else the last one where it is below 4,194,304 (R347). -/
def boundFault (bounds : List Nat) : Option Nat :=
  match (List.range bounds.length).find? fun i => decide (i ≠ 0) && decide (bounds.getD i 0 ≤ bounds.getD (i - 1) 0) with
  | some i => some i
  | none => if bounds.getLastD 0 < 4194304 then some (bounds.length - 1) else none

/-- R345, R347: the tile-program library of a panel. (log entry 22, DEDUCED) -/
def checkLibrary (x : Image) (c : PanelCfg) : Option PatErr :=
  let lib := x.bytes 0x11 c.num 584
  let w := wordsOf lib
  let nb := fieldOf c.hdr 1 63 56
  let bounds := (List.range nb).map fun i => natBits (ofLE (sliceAt lib (64 + 4 * i) 4)) 22 0
  let pfmt := fieldOf w 1 23 16
  let bad (i : Nat) (b : Bool) : Option PatErr := failIf b (secErr 6 0x11 c.num (8 * i))
  firstFail [
    bad 0 (fieldOf w 0 7 0 != fieldOf c.hdr 0 15 8 || fieldOf w 0 14 8 != nb || fieldOf w 0 20 15 != fieldOf c.hdr 1 55 48),
    bad 1 (fieldOf w 1 7 0 != 1 || fieldOf w 1 15 8 != fieldOf c.hdr 0 31 29 || pfmt == 0 || decide (4 < pfmt) ||
      (pairFault (pairOf (elemOf (probFmt pfmt)) (elemOf (fieldOf c.hdr 0 51 48)))).isSome ||
      decide (8 < fieldOf w 1 31 24) || decide (fieldOf w 1 39 32 < 8) || decide (13 < fieldOf w 1 39 32) ||
      decide (2 ^ fieldOf w 1 39 32 < (geoOf (wordAt c.hdr 0)).span)),
    bad 2 (fieldOf w 2 30 0 == 0 || notFinite32 (fieldOf w 2 31 0)),
    (boundFault bounds).bind fun i => some (secErr 6 0x11 c.num (64 + 8 * (i / 2))),
    bad 1 (sha384 c.planRec != sliceAt (bytesOf c.hdr) 64 48)]

/-- The checks that sections make at check 6. (log entry 22, DEDUCED) -/
def checkSections (x : Image) (p : Pattern) : Option PatErr :=
  firstFail ((if x.panelImg then [] else [checkSwizzle p.swizzle, checkPolicy p.policy]) ++
    p.panels.flatMap fun c => [failIf (fieldOf c.hdr 0 5 0 != c.num) (secErr 6 0x10 c.num 0), checkLibrary x c, checkCoder x c, checkBias x c])

/-! ### Checks 11 to 16 (R50, R53, R55, R58, R61, R62, R299, R662) -/

/-- Stored formats that a panel header may not have (R299). -/
def storedBad (hdr : List Word) : Bool := fieldOf hdr 0 47 44 == 0 || fieldOf hdr 0 51 48 == 0

/-- Query formats that a panel header may not accept with its keys' format (R299). -/
def queriesBad (hdr : List Word) : Bool :=
  bitAt (fieldOf hdr 1 15 0) 0 ||
    (List.range 16).any fun f => bitAt (fieldOf hdr 1 15 0) f && (pairFault (pairOf (elemOf f) (elemOf (fieldOf hdr 0 47 44)))).isSome

/-- Whether a value lies in a range. -/
def within (v lo hi : Nat) : Bool := decide (lo ≤ v) && decide (v ≤ hi)

/-- The ranges of R55 and the formats of R299, word by word of the panel header: the word that fails first. (log entry 23, DEDUCED) -/
def headerWord (hdr : List Word) : Option Nat :=
  if !(within (fieldOf hdr 0 23 16) 1 128 && within (fieldOf hdr 0 28 24) 1 16 && decide (fieldOf hdr 0 31 29 ≤ 4) && within (fieldOf hdr 0 36 32) 1 16 &&
      decide (fieldOf hdr 0 38 37 ≤ 2) && decide (fieldOf hdr 0 40 39 ≤ 2)) || storedBad hdr then some 0
  else if !(within (fieldOf hdr 1 55 48) 1 32 && within (fieldOf hdr 1 63 56) 1 64) || queriesBad hdr then some 1
  else if 40000 < fieldOf hdr 2 31 0 then some 2
  else if !(within (fieldOf hdr 7 15 0) 1 512 && within (fieldOf hdr 7 20 16) 1 16) then some 7
  else none

/-- The profile number of a panel. -/
def PanelCfg.prof (c : PanelCfg) : Nat := fieldOf c.hdr 0 15 8

/-- Check 11: `others` are the panels that stay beside those of the image. (log entry 21, DEDUCED) -/
def checkProfile (p : Pattern) (swap : Bool) (others : List PanelCfg) : Option PatErr :=
  firstFail (p.panels.map fun c => match headerWord c.hdr with
    | some w => some (secErr 0x0B 0x10 c.num (8 * w))
    | none => firstFail [
      failIf ((p.panels ++ others).any fun d => d.num != c.num && d.prof == c.prof) (secErr 0x0B 0x10 c.num 0),
      failIf (!swap && p.partition.getD c.num (0, 0) != (fieldOf c.hdr 1 39 32, fieldOf c.hdr 1 47 40)) (secErr 0x0B 0x10 c.num 8)])

/-- Cores of a die that are enabled and unretired (R24). -/
def goodCores (s : State) (d : Nat) : Nat := s.cores.zipIdx.countP fun e => e.1.good && coreDie e.2 == d

/-- Check 12. (log entry 21, DEDUCED) -/
def checkCores (s : State) (x : Image) (p : Pattern) : Option PatErr :=
  let c0 := fieldOf x.hdr 5 7 0
  let c1 := fieldOf x.hdr 5 15 8
  failIf (decide (goodCores s 0 < c0) || decide (goodCores s 1 < c1) ||
    (!x.panelImg && ((p.partition.map fun e => e.1).sum != c0 || (p.partition.map fun e => e.2).sum != c1))) (hdrErr 0x0C 40)

/-- The clock range of an island's kind (R23, R662). -/
def islandRange (i : Nat) : Nat × Nat :=
  if i < 256 then (400, 1800) else if i < 268 then (1000, 1800) else if i < 276 then (400, 1600) else if i < 280 then (1000, 1800)
  else if i < 282 then (800, 1600) else if i < 284 then (1000, 1800) else if i < 288 then (400, 1200) else if i < 290 then (400, 1000)
  else if i < 291 then (500, 1200) else if i < 292 then (1000, 1000) else (1000, 1800)

/-- Check 13: R50 and R662; entries of unused IDs are zero. -/
def checkIslands (p : Pattern) : Option PatErr :=
  let bad (i : Nat) : Bool :=
    let w := wordAt p.island i
    if 293 ≤ i then w != 0
    else
      let r := islandRange i
      decide (bitsOf w 15 0 < r.1) || decide (r.2 < bitsOf w 31 16) || decide (bitsOf w 47 32 < bitsOf w 15 0) || decide (bitsOf w 31 16 < bitsOf w 47 32)
  match (List.range 512).find? bad with
  | some i => some (secErr 0x0D 1 0xFF (8 * i))
  | none => none

/-- R62: the plans of a library cover every pair of core counts down to three quarters. -/
def plansCover (plans : List Plan) (c0 c1 : Nat) : Bool :=
  let l0 := ceilDiv (3 * c0) 4
  let l1 := ceilDiv (3 * c1) 4
  ((List.range (c0 + 1 - l0)).all fun i => (List.range (c1 + 1 - l1)).all fun j => plans.any fun x => planFits x (l0 + i) (l1 + j)) &&
    plans.any fun x => x.c0 == l0 && x.c1 == l1

/-- R62, R345, R346: the plans of a panel's library. -/
def checkPlans (c : PanelCfg) : Option PatErr :=
  let c0 := fieldOf c.hdr 1 39 32
  let c1 := fieldOf c.hdr 1 47 40
  let main := c.plans.headD { c0 := 0, c1 := 0, scale := 0, place := 0 }
  failIf (main.c0 != c0 || main.c1 != c1 || main.scale != 256 || !(c.plans.drop 1).all (fun x => decide (x.c0 ≤ c0) && decide (x.c1 ≤ c1) && decide (256 ≤ x.scale)) ||
    !plansCover c.plans c0 c1) (secErr 0x12 0x11 c.num 320)

/-- Check 16: R61 and R62. The stores' limits are looked at before the plans, each for the panels in ascending order. (log entry 26, DESIGN CHOICE) -/
def checkLibraries (x : Image) (p : Pattern) : Option PatErr :=
  firstFail ((p.panels.map fun c => (Config.tileFault (x.whole 0x11 c.num)).map fun o => secErr 0x10 0x11 c.num o) ++
    (p.panels.map fun c => (Config.operandFault (x.whole 0x11 c.num)).map fun o => secErr 0x11 0x11 c.num o) ++
    p.panels.map checkPlans)

end Sys2Proof.Machine
end

