-- ==== Sys2Proof/Machine/Firmware.lean ====
section
/-!
DEFINITION. What the bytes of a firmware slot and of a life-cycle request say: signature blocks, image headers, the companion manifest, the statement and its certificates
(R66, R641, R645 to R648).
-/
namespace Sys2Proof.Machine

/-! ### Signature blocks (R66) -/

/-- A signature block (R66). -/
structure SigBlock where
  signer : Nat
  suite : Nat
  keyId : List Byte
  ec : List Byte
  pq : List Byte
  deriving DecidableEq, Repr

/-- Bytes of a signature block with its zero tail (R66). -/
def sigSize : Nat := 4800

/-- The signature block that bytes hold. -/
def sigBlock (bs : List Byte) : SigBlock :=
  { signer := ofLE (bs.take 1), suite := ofLE (sliceAt bs 1 1), keyId := sliceAt bs 8 48, ec := sliceAt bs 56 96, pq := sliceAt bs 152 4627 }

/-- Both signatures of a block verify over a message under a certificate's key, in the one suite there is (R66). -/
def SigBlock.verifies (b : SigBlock) (cert msg : List Byte) : Bool := b.suite == 1 && Config.signaturesVerify cert msg b.ec b.pq

/-- The same under the certificate that its KEYID names, where there is one. -/
def SigBlock.verifiesBy (b : SigBlock) (cert : Option (List Byte)) (msg : List Byte) : Bool := (cert.map fun c => b.verifies c msg).getD false

/-! ### Firmware images (R645 to R648) -/

/-- Bytes of a slot (R645). -/
def slotBytes : Nat := 62914560

/-- An image of a slot by its header (R646): whether MAGIC and KIND are right and LEN, with the signature block, fills the image; its SVN and IFGEN; what is signed, and the block. -/
structure FwImage where
  ok : Bool
  svn : Nat
  ifgen : Nat
  body : List Byte
  sig : SigBlock
  deriving DecidableEq, Repr

/-- "QLX7FWIM". -/
def fwMagic : List Byte := [0x51, 0x4C, 0x58, 0x37, 0x46, 0x57, 0x49, 0x4D]

/-- The image of a kind at an offset of a slot, of a length. (log entry 91, DEDUCED) -/
def fwImage (m : Memory) (kind off len : Nat) : FwImage :=
  let w1 := ofLE (m.read (off + 8) 8)
  let n := ofLE (m.read (off + 16) 8)
  { ok := m.read off 8 == fwMagic && natBits w1 7 0 == kind && decide (256 ≤ n) && n + sigSize == len
    svn := natBits w1 23 8, ifgen := natBits w1 39 24, body := m.read off n, sig := sigBlock (m.read (off + n) sigSize) }

/-- The signature of an image verifies under a Quamal firmware key (R646). -/
def FwImage.signed (x : FwImage) : Bool := x.sig.signer == 1 && x.sig.verifiesBy (Config.firmwareCert x.sig.keyId) x.body

/-- The digest of an image: of what its signature covers. (log entry 91, DEDUCED) -/
def FwImage.digest (x : FwImage) : List Byte := sha384 x.body

/-- The three images of a slot, where its directory is valid and they lie within their sizes and the slot (R645, check 1 of R648). (log entry 91, DEDUCED) -/
def slotImages (m : Memory) : Option (FwImage × FwImage × FwImage) :=
  match Config.slotDirectory (m.read 0 4096) with
  | none => none
  | some (a, b, c) =>
    let fits (x : Nat × Nat) (most : Nat) : Bool := decide (4096 ≤ x.1) && decide (x.2 ≤ most) && decide (x.1 + x.2 ≤ slotBytes)
    let mfw := fwImage m 1 a.1 a.2
    let ftf := fwImage m 2 b.1 b.2
    let man := fwImage m 3 c.1 c.2
    if fits a 0x1000000 && fits b 0x2000000 && fits c 0x100000 && mfw.ok && ftf.ok && man.ok then some (mfw, ftf, man) else none

/-- The entry of a manifest that lists a pair, by their digests (R647). (log entry 91, DEDUCED) -/
def manifestEntry (man : List Byte) (mfw ftf : List Byte) : Option (List Byte) :=
  ((List.range (ofLE (sliceAt man 256 8))).map fun i => sliceAt man (264 + 128 * i) 128).find? fun e => e.take 48 == mfw && sliceAt e 48 48 == ftf

/-- The interface generations that a manifest entry lists; 0 ends the list (R647). -/
def entryGens (e : List Byte) : List Nat := ((List.range 8).map fun i => ofLE (sliceAt e (112 + 2 * i) 2)).takeWhile (· != 0)

/-- The pair that a slot's images make, with what a manifest entry says of it. -/
def fwPair (mfw ftf man : FwImage) (e : List Byte) : FwPair :=
  { mfwSvn := mfw.svn, ftfSvn := ftf.svn, manSvn := man.svn, ifgens := entryGens e, majors := ofLE (sliceAt e 104 8)
    digests := [mfw.digest, ftf.digest, man.digest] }

/-- Checks 1 to 8 of R648, in order: the code of the first that fails, or the pair that the slot holds. -/
def checkSlot (s : State) (m : Memory) : Except Nat FwPair :=
  match slotImages m with
  | none => .error 1
  | some (mfw, ftf, man) =>
    if !mfw.signed then .error 2
    else if !ftf.signed then .error 3
    else if !man.signed then .error 4
    else if mfw.svn < s.fld Fd.SEC_FLOOR_MFWFLOOR ∨ ftf.svn < s.fld Fd.SEC_FLOOR_FTFFLOOR ∨ man.svn < s.fld Fd.SEC_FLOOR_MANFLOOR then .error 5
    else match manifestEntry man.body mfw.digest ftf.digest with
      | none => .error 6
      | some e =>
        if mfw.ifgen ≠ ftf.ifgen then .error 7
        else if !bitAt (ofLE (sliceAt e 96 8)) s.fuses.step then .error 8
        else .ok (fwPair mfw ftf man e)

/-- The code of the first check of R648 that fails, 0 where checks 1 to 8 pass. -/
def verifyCode (s : State) (m : Memory) : Nat :=
  match checkSlot s m with
  | .error n => n
  | .ok _ => 0

/-! ### LIFECYCLE_ADVANCE (R641) -/

/-- The payload of ADVANCE behind word 0 (R641): the statement's fields, what its signatures cover, the signature blocks, and the certificates. -/
structure LcAdvance where
  target : Nat
  nonce : Nat
  devHash : List Byte
  signed : List Byte
  sigs : List SigBlock
  certs : List (List Byte)
  deriving DecidableEq, Repr

/-- Bytes of a DER element from its start, by its length octets. (log entry 88, DEDUCED) -/
def derLen (bs : List Byte) : Nat :=
  let l := ((bs.drop 1).headD 0).toNat
  if l < 128 then 2 + l else 2 + (l - 128) + ofBE (sliceAt bs 2 (l - 128))

/-- DER certificates that follow one another (R641). (log entry 88, DEDUCED) -/
def derSplit : Nat → List Byte → List (List Byte)
  | 0, _ => []
  | fuel + 1, bs => if bs = [] then [] else bs.take (derLen bs) :: derSplit fuel (bs.drop (derLen bs))

/-- "QLX7LCAD". -/
def lcMagic : List Byte := [0x51, 0x4C, 0x58, 0x37, 0x4C, 0x43, 0x41, 0x44]

/-- The payload of ADVANCE, where its magic and its length are right (R641). (log entry 88, DEDUCED) -/
def lcRead (bs : List Byte) : Option LcAdvance :=
  let n := ofLE (sliceAt bs 9 1)
  let len := ofLE (sliceAt bs 96 4)
  let certs := (bs.drop (128 + sigSize * n)).take len
  if bs.take 8 ≠ lcMagic ∨ bs.length ≠ 128 + sigSize * n + len then none
  else some {
    target := ofLE (sliceAt bs 8 1), nonce := ofLE (sliceAt bs 16 32), devHash := sliceAt bs 48 48, signed := bs.take 128 ++ certs
    sigs := (List.range n).map fun i => sigBlock (sliceAt bs (128 + sigSize * i) sigSize), certs := derSplit len certs }

/-- A signature of Quamal's covers the statement and the certificates (R641). -/
def LcAdvance.byQuamal (a : LcAdvance) : Bool := a.sigs.any fun b => b.signer == 1 && b.verifiesBy (Config.statementCert b.keyId) a.signed

/-- A signature under an enrolled owner key does (R641). -/
def LcAdvance.byOwner (a : LcAdvance) (owners : List (List Byte)) : Bool :=
  a.sigs.any fun b => b.signer == 2 && b.verifiesBy (owners.find? fun c => sha384 c == b.keyId) a.signed

/-- Each certificate's own key has signed, in order, when the target is OWNED: a primary and an optional recovery owner (R640, R641). -/
def LcAdvance.byCerts (a : LcAdvance) : Bool :=
  (a.certs.length == 1 || a.certs.length == 2) && a.sigs.length == a.certs.length &&
    (a.sigs.zip a.certs).all fun e => e.1.signer == 2 && e.1.keyId == sha384 e.2 && e.1.verifies e.2 a.signed

end Sys2Proof.Machine
end

