-- ==== Sys2Proof/Machine/Sec.lean ====
section
/-!
DEFINITION. Selvedge: keys delivered and generated, sealing, SPDM and measurements, IDE and TDISP, the life cycle and crypto-erase, firmware slots and the
calibration block (R471, R472, R613 to R660).
-/
namespace Sys2Proof.Machine

/-! ### Sessions (R620, R629) -/

/-- A secured session. -/
def State.session (s : State) (n : Nat) : Option Session := mapFind s.sessions n

/-- An answer of Selvedge. -/
def State.spdm (s : State) (fn : Nat) (bs : List Byte) : State := s.emit (.spdm fn bs)

/-- Whether a session runs on the function of a tenant's bound host. -/
def onBoundHost (s : State) (x : Session) (t : Nat) : Bool := x.fn ≤ operatorFn && fnHost s x.fn == s.hostOf t

/-- R629: a session on the bound host's function, whose TDI was locked in it and is CONFIG_LOCKED or RUN; not in compatibility mode (R120). -/
def boundSession (s : State) (n : Nat) (x : Session) (t : Nat) : Bool :=
  onBoundHost s x t && tdiLocked s (s.hostOf t) && (s.tdi (s.hostOf t)).session == n && !s.compat

/-! ### Measurements and the identity (R616 to R623) -/

/-- 48 zero bytes. -/
def zero48 : List Byte := List.replicate 48 0

/-- A digest that the running firmware declares (R622), zeros where none runs. -/
def fwDigest (s : State) (i : Nat) : List Byte := (s.fwRun.bind fun f => f.digests[i]?).getD zero48

/-- The 128-byte record of a tenant in measurement 8 (R623). -/
def tenantRecord (s : State) (t : Nat) : List Byte :=
  let bind := setBits (setBits (setBits (s.reg .TNT_BIND t) 30 16 0) 14 12 0) 47 40 0
  let hrt := ((s.regIdx .HRT_CTL).filter fun e => s.flag Fd.HRT_CTL_VALID e && s.fld Fd.HRT_CTL_TENANT e == t).flatMap fun e =>
    [s.reg .HRT_CTL e, s.reg .HRT_BASE e, s.reg .HRT_LIMIT e]
  let panel := (panelOf s (s.profileOf t)).bind fun p => (s.pattern.bind fun x => x.panels.find? fun c => c.num == p).map fun c => c.digest
  leBytes 2 t ++ [BitVec.ofNat 8 (s.tstate t), BitVec.ofNat 8 (b2n (tenantSealed s t) + 2 * b2n s.compat), BitVec.ofNat 8 (s.hostOf t),
    BitVec.ofNat 8 (s.profileOf t), 0, 0] ++ bytesOf [bind, s.reg .TNT_GRP t, s.reg .SPL_CFG t] ++ panel.getD zero48 ++ sha384 (bytesOf hrt)

/-- The values of the measurement indices for a requesting function (R622). -/
def measurement (s : State) (fn i : Nat) : List Byte :=
  match i with
  | 1 => Config.romDigest
  | 2 => fwDigest s 0 ++ leBytes 2 (s.fld Fd.SEC_FW_MFWSVN)
  | 3 => fwDigest s 1 ++ leBytes 2 (s.fld Fd.SEC_FW_FTFSVN)
  | 4 => fwDigest s 2
  | 5 => sha384 (s.calib.read 0 0x40000)
  | 6 => if s.fld Fd.PAT_STATUS_STATE = 0 then zero48 else (List.range 6).flatMap fun k => leBytes 8 (s.reg .PAT_MEAS k).toNat
  | 7 => [BitVec.ofNat 8 (s.fld Fd.SEC_LC_STATE), BitVec.ofNat 8 (s.fld Fd.SEC_LC_MAKERTEST), BitVec.ofNat 8 (s.fld Fd.SEC_LC_ERASEPEND),
      BitVec.ofNat 8 (s.fld Fd.SEC_FW_SAFE), BitVec.ofNat 8 (s.fld Fd.PAT_STATUS_COMPAT), 0, 0, 0]
  | 8 => sha384 (((tenantsUsed s).filter fun t => s.hostOf t == fnHost s fn).flatMap (tenantRecord s))
  | 9 => if s.ownerCerts = [] then zero48 else sha384 s.ownerCerts.flatten
  | _ => []

/-- The order of the base point of P-384 (R618). (log entry 88, DEDUCED) -/
def orderP384 : Nat := 0xffffffffffffffffffffffffffffffffffffffffffffffffc7634d81f4372ddf581a0db248b0a77aecec196accc52973

/-- "QLX7 CDI0". -/
def labelCdi0 : List Byte := [0x51, 0x4C, 0x58, 0x37, 0x20, 0x43, 0x44, 0x49, 0x30]
/-- "QLX7 EC". -/
def labelEc : List Byte := [0x51, 0x4C, 0x58, 0x37, 0x20, 0x45, 0x43]
/-- "QLX7 PQ". -/
def labelPq : List Byte := [0x51, 0x4C, 0x58, 0x37, 0x20, 0x50, 0x51]

/-- What the CDI of L1 is keyed with, and the DeviceID keys are derived from (R616, R618). (log entry 88, DEDUCED) -/
def cdi0 : List Byte := hmac384 Config.uds labelCdi0

/-- R618: the CDIs of the layers above one, each the HMAC of its measurements under the one below. -/
def cdiChain (cdi : List Byte) : List (List Byte) → List (List Byte)
  | [] => []
  | m :: ms => hmac384 cdi m :: cdiChain (hmac384 cdi m) ms

/-- The CDIs of L0 and of the layers that have been measured (R617). -/
def layerCdis (s : State) : List (List Byte) := cdi0 :: cdiChain cdi0 (s.measured.map fun e => e.2)

/-- The CDI of the topmost layer: the attestation key's, once L3 has been measured (R617). -/
def topCdi (s : State) : List Byte := (layerCdis s).getLastD cdi0

/-- R618: a layer's ECDSA private scalar. (log entry 88, DEDUCED) -/
def ecScalar (cdi : List Byte) : Nat := ofBE (hmac384 cdi labelEc) % (orderP384 - 1) + 1

/-- R618: the seed of a layer's ML-DSA-87 key pair. -/
def pqSeed (cdi : List Byte) : List Byte := (hmac384 cdi labelPq).take 32

/-- A signature by a layer's key of a certificate slot: 0 ECDSA, 1 ML-DSA (R619). -/
def layerSign (slot : Nat) (cdi msg : List Byte) : List Byte := if slot = 0 then Config.ecSign (ecScalar cdi) msg else Config.pqSign (pqSeed cdi) msg

/-- A layer's public key of a certificate slot. -/
def layerPublic (slot : Nat) (cdi : List Byte) : List Byte := if slot = 0 then Config.ecPublic (ecScalar cdi) else Config.pqPublic (pqSeed cdi)

/-- R619: a layer's certificate, signed by the key of the layer below. (log entry 88, DEDUCED) -/
def layerCert (slot : Nat) (below cdi : List Byte) (m : Nat × List Byte) : List Byte :=
  let b := Config.certBody (layerPublic slot cdi) m.1 m.2
  b ++ layerSign slot below b

/-- R619: the certificate chain of a slot: the DeviceID certificate, and one of each layer that has been measured; in SAFE none has, and before media is ready L3 has not
(R649, R678). (log entry 88, DEDUCED) -/
def certChain (s : State) (slot : Nat) : List Byte :=
  let cs := layerCdis s
  s.deviceCerts.getD slot [] ++ ((cs.zip cs.tail).zip s.measured).flatMap fun e => layerCert slot e.1.1 e.1.2 e.2

/-- R617: what the ROM measures of MFW, and MFW of FTF, at a start. -/
def State.measureFirmware (s : State) : State :=
  { s with measured :=
      [(s.fld Fd.SEC_FW_MFWSVN, fwDigest s 0 ++ leBytes 2 (s.fld Fd.SEC_FW_MFWSVN) ++ fwDigest s 2 ++ [BitVec.ofNat 8 (s.fld Fd.SEC_LC_STATE)]),
        (s.fld Fd.SEC_FW_FTFSVN, fwDigest s 1 ++ leBytes 2 (s.fld Fd.SEC_FW_FTFSVN) ++ measurement s operatorFn 5)] }

/-- R617, R619: the pattern is measured, and L3's keys and certificates are issued anew. -/
def State.measurePattern (s : State) : State :=
  { s with measured := s.measured.take 2 ++ [((s.pattern.map fun p => p.svn).getD 0, measurement s operatorFn 6)] }

/-! ### Key requests (R629 to R633) -/

/-- The tenant's bit in the policy's SEALMAP (R637). -/
def sealAllowed (s : State) (t : Nat) : Bool :=
  match s.pattern with
  | some p => fieldOf p.policy (2 + t / 64) (t % 64) (t % 64) == 1
  | none => false

/-- Results of R631. -/
def krOk : Nat := 0
/-- R631. -/
def krState : Nat := 1
/-- R631. -/
def krBinding : Nat := 2
/-- R631. -/
def krPolicy : Nat := 3
/-- R631. -/
def krGroup : Nat := 4
/-- R631. -/
def krFormat : Nat := 5
/-- R631. -/
def krBusy : Nat := 6

/-- A tenant that may be given a data key: CONFIGURED, not sealed, without one (R630). (log entry 87, DEDUCED) -/
def keyable (s : State) (t : Nat) : Bool :=
  s.tstate t == TState.configured.code && !tenantSealed s t && s.fld Fd.SEC_TSTAT_KEYSRC t == 0

/-- The result of TENANT_SEAL's conditions (R632). (log entry 87, DEDUCED) -/
def sealResult (s : State) (n : Nat) (x : Session) (t ngrp rw : Nat) (gs : List Nat) : Nat :=
  if 1023 < t ∨ 4 < ngrp ∨ 15 < rw ∨ gs.length ≠ ngrp ∨ gs.any (fun g => decide (255 < g)) then krFormat
  else if s.fld Fd.SEC_LC_STATE ≠ 2 ∨ s.compat ∨ !sealAllowed s t then krPolicy
  else if !keyable s t then krState
  else if !x.mutualAuth || !boundSession s n x t || !linkCondition s (s.hostOf t) then krBinding
  else if !membershipsWithin s t gs rw || gs.any (fun g => s.flag Fd.SEC_GSTAT_HSET g) then krGroup
  else krOk

/-- R633: key, seal and seal record in one key-store write. -/
def State.sealTenant (s : State) (x : Session) (t ngrp rw key : Nat) (gs : List Nat) : State :=
  let s := s.putDataKey t key
  let s := (s.setFld Fd.TNT_STATE_SEALED 1 t).setFld Fd.SEC_TSTAT_SEALED 1 t
  let s := ((s.setFld Fd.SEC_TSTAT_KEYSRC 2 t).setFld Fd.SEC_TSTAT_NSEALG ngrp t).setFld Fd.SEC_TSTAT_SEALRW rw t
  let s := s.setFld Fd.SEC_TSTAT_SEALG (gs.zipIdx.map fun e => e.1 * 2 ^ (8 * e.2)).sum t
  let s : State := { s with sealReq := mapIns t x.req s.sealReq }
  let s := s.keyWrite t
  ((s.regIdx .SNL_CTX_ST).filter fun c => s.fld Fd.SNL_CTX_CTL_TENANT c == t).foldl (fun s c => s.abortCtx c 0x0143) s

/-- The result of GROUP_HKEY's conditions (R630). (log entry 87, DEDUCED) -/
def hkeyResult (s : State) (x : Session) (g : Nat) : Nat :=
  if 255 < g then krFormat
  else if x.fn ≠ operatorFn then krBinding
  else
    let holders := (s.regIdx .TNT_GRP).filter fun t => (List.range 4).any fun n => s.flag (grpV n) t && s.fld (grpNum n) t == g
    if !s.flag Fd.SG_CFG_VALID g || chunksCharged s (1024 + g) != 0 || groupMembers s g != [] || holders.any (tenantSealed s) then krState else krOk

/-- The response of SEAL_QUERY after its first two bytes (R630). -/
def sealAnswer (s : State) (x : Session) (t : Nat) : List Byte :=
  [BitVec.ofNat 8 (s.tstate t), BitVec.ofNat 8 (b2n (tenantSealed s t) + 2 * b2n (mapFind s.sealReq t == some x.req)),
    BitVec.ofNat 8 (s.fld Fd.SEC_TSTAT_NSEALG t), BitVec.ofNat 8 (s.fld Fd.SEC_TSTAT_SEALRW t)] ++ leBytes 4 (s.fld Fd.SEC_TSTAT_SEALG t)

/-- Answer a request: its opcode, its result and what follows (R629, R631). -/
def State.keyAnswer (s : State) (fn op result : Nat) (more : List Byte) : State :=
  s.spdm fn ([BitVec.ofNat 8 op, BitVec.ofNat 8 result] ++ more)

/-- The opcode of a request (R629). -/
def KeyReq.op : KeyReq → Nat
  | .tenantKey _ _ => 1 | .tenantSeal _ _ _ _ _ => 2 | .qpKey _ _ => 3 | .groupHkey _ _ => 4 | .sealQuery _ => 5 | .pqSign => 6

/-- R630: carry out a request of a session (PQ_SIGN's number is that of its connection's function). (log entry 87, DEDUCED) -/
def State.runRequest (s : State) (n : Nat) (r : KeyReq) : State :=
  match r, s.session n with
  | .pqSign, _ => match mapFind s.signed n with
    | some h => s.keyAnswer n 6 krOk (Config.pqSign (pqSeed (topCdi s)) h)
    | none => s.keyAnswer n 6 krState []
  | _, none => s
  | .tenantKey t key, some x =>
    if 1023 < t then s.keyAnswer x.fn 1 krFormat []
    else if !keyable s t then s.keyAnswer x.fn 1 krState []
    else if !boundSession s n x t then s.keyAnswer x.fn 1 krBinding []
    else ((((s.putDataKey t key).setFld Fd.SEC_TSTAT_KEYSRC 2 t).keyWrite t)).keyAnswer x.fn 1 krOk []
  | .tenantSeal t ngrp rw key gs, some x =>
    let e := sealResult s n x t ngrp rw gs
    if e ≠ krOk then s.keyAnswer x.fn 2 e [] else (s.sealTenant x t ngrp rw key gs).keyAnswer x.fn 2 krOk []
  | .qpKey q key, some x =>
    let t := (s.qp q).tenant
    if 65535 < q then s.keyAnswer x.fn 3 krFormat []
    else if (s.qp q).st ≠ qpFree then s.keyAnswer x.fn 3 krState []
    else if !onBoundHost s x t || (tenantSealed s t && (s.tdi (s.hostOf t)).session != n) then s.keyAnswer x.fn 3 krBinding []
    else ({ s with qpKeys := mapIns q key s.qpKeys } : State).keyAnswer x.fn 3 krOk []
  | .groupHkey g key, some x =>
    let e := hkeyResult s x g
    if e ≠ krOk then s.keyAnswer x.fn 4 e []
    else
      let s : State := { s with nsKeys := mapIns (1024 + g) (BitVec.ofNat 128 key) s.nsKeys }
      ((s.setFld Fd.SEC_GSTAT_HSET 1 g).keyWrite (1024 + g)).keyAnswer x.fn 4 krOk []
  | .sealQuery t, some x =>
    if 1023 < t then s.keyAnswer x.fn 5 krFormat []
    else if !onBoundHost s x t then s.keyAnswer x.fn 5 krBinding []
    else s.keyAnswer x.fn 5 krOk (sealAnswer s x t)

/-- R631: a request that comes while a load holds state fixed waits for its end. (log entry 87, DEDUCED) -/
def State.request_ (s : State) (n : Nat) (r : KeyReq) : State :=
  if loadHolds s then { s with heldActs := s.heldActs ++ [.request n r s.dtime] } else s.runRequest n r

/-- R76, R631: what waited for a load to end goes on, in the order it came; a request that has waited more than 3 s is answered BUSY. (log entry 87, DEDUCED) -/
def State.releaseHeld (s : State) : State :=
  let acts := s.heldActs
  acts.foldl (fun (s : State) a => match a with
    | .configure t v => s.configureNow t v
    | .request n r since =>
      if since + 3000000000 < s.dtime then
        s.keyAnswer (((s.session n).map fun x => x.fn).getD n) r.op krBusy []
      else s.runRequest n r) ({ s with heldActs := [] } : State)

/-- R630: TENANT_KEY. -/
def opTenantKey (n t key : Nat) (s : State) : State := s.request_ n (.tenantKey t key)
/-- R630. -/
def execTenantKey (session tenant key : Nat) (s : State) : Res := .next (opTenantKey session tenant key s)

/-- R633: TENANT_SEAL. -/
def opTenantSeal (n t ngrp rw key : Nat) (gs : List Nat) (s : State) : State := s.request_ n (.tenantSeal t ngrp rw key gs)
/-- R633. -/
def execTenantSeal (session tenant ngrp grprw key : Nat) (groups : List Nat) (s : State) : Res :=
  .next (opTenantSeal session tenant ngrp grprw key groups s)

/-- R630: QP_KEY. -/
def opQpKey (n q key : Nat) (s : State) : State := s.request_ n (.qpKey q key)
/-- R630. -/
def execQpKey (session qpn key : Nat) (s : State) : Res := .next (opQpKey session qpn key s)

/-- R630: GROUP_HKEY. -/
def opGroupHkey (n g key : Nat) (s : State) : State := s.request_ n (.groupHkey g key)
/-- R630. -/
def execGroupHkey (session group key : Nat) (s : State) : Res := .next (opGroupHkey session group key s)

/-- R630: SEAL_QUERY. -/
def opSealQuery (n t : Nat) (s : State) : State := s.request_ n (.sealQuery t)
/-- R630. -/
def execSealQuery (session tenant : Nat) (s : State) : Res := .next (opSealQuery session tenant s)

/-- R620: PQ_SIGN, on any connection. -/
def opPqSign (fn : Nat) (s : State) : State := s.request_ fn .pqSign
/-- R620. -/
def execPqSign (fn : Fin 18) (s : State) : Res := .next (opPqSign fn.val s)

/-- R658: SEC_TKEY written with GENERATE. -/
def opTenantKeyGenerate (v : Word) (s : State) : State :=
  let t := bitsOf v 25 16
  let s := s.setFld Fd.SEC_TKEY_TENANT t
  if s.tstate t ≠ TState.configured.code then s.setFld Fd.SEC_TKEY_ERR 1
  else if tenantSealed s t then s.setFld Fd.SEC_TKEY_ERR 3
  else if s.fld Fd.SEC_TSTAT_KEYSRC t ≠ 0 then s.setFld Fd.SEC_TKEY_ERR 2
  else (((s.newDataKey t).keyWrite t).setFld Fd.SEC_TSTAT_KEYSRC 1 t).setFld Fd.SEC_TKEY_ERR 0
/-- R658. -/
def execTenantKeyGenerate (value : Word) (s : State) : Res := .next (opTenantKeyGenerate value s)

/-! ### SPDM (R620, R621) -/

/-- A signed answer, by the slot 0 attestation key: its transcript hash is kept for PQ_SIGN (R620). (log entry 88, DEDUCED) -/
def State.signedAnswer (s : State) (fn : Nat) (body : List Byte) : State :=
  let h := sha384 body
  ({ s with signed := mapIns fn h s.signed } : State).spdm fn (body ++ layerSign 0 (topCdi s) h)

/-- The number that stands for MCTP among the connections of Selvedge. -/
def mctpFn : Nat := 17

/-- R620: an SPDM request; R473: DOE Discovery and CDAT Table Access, on a DOE mailbox. (log entry 112, PRESUMED) -/
def opSpdmRequest (fn : Nat) (r : SpdmReq) (s : State) : State :=
  match r with
  | .digests => s.spdm fn (sha384 (certChain s 0) ++ sha384 (certChain s 1))
  | .certificate slot => if slot < 2 then s.spdm fn (certChain s slot) else s
  | .challenge slot nonce => s.signedAnswer fn (nonce ++ sha384 (certChain s slot))
  | .measurements i signed nonce =>
    let body := if i = 0xFF then ((List.range 9).map (· + 1)).flatMap (measurement s fn) else measurement s fn i
    if signed then s.signedAnswer fn (nonce ++ body) else s.spdm fn body
  | .keyExchange n m chain =>
    if (s.session n).isSome then s
    else ({ s with sessions := mapIns n { fn := fn, mutualAuth := m, req := sha384 chain } s.sessions } : State).spdm fn (leBytes 2 n)
  | .doeDiscovery i =>
    if fn = mctpFn then s
    else
      let ps : List DoeProto := [.discovery, .spdm, .secured, .cdat]
      s.emit (.doe fn ps[i]? (if i + 1 < ps.length then i + 1 else 0))
  | .cdat i => if fn = mctpFn then s else s.emit (.cdat fn (Config.cdatEntry i))
  | .endSession n => match s.session n with
    | some x => if x.fn = fn then ({ s with sessions := mapDel n s.sessions } : State).spdm fn (leBytes 2 n) else s
    | none => s
/-- R620. -/
def execSpdmRequest (fn : Fin 18) (req : SpdmReq) (s : State) : Res := .next (opSpdmRequest fn.val req s)

/-! ### IDE and TDISP (R471, R472, R613, R635) -/

/-- The streams of a host function on its link (R471): 0 is CXL.cachemem IDE and 1 the PCIe IDE link stream, which the link's hosts share; the k-th host's up to four
selective streams are 4k + 2 to 4k + 5. (log entry 116, DESIGN CHOICE) -/
def streamAllowed (s : State) (h l stream : Nat) : Bool :=
  decide (stream < 2) || match (linkHosts s l).findIdx? (· == h) with
    | some k => decide (4 * k + 2 ≤ stream) && decide (stream < 4 * k + 6)
    | none => false

/-- R613: a session installs a stream key in a key slot of the port island of its host's link. (log entry 116, DESIGN CHOICE) -/
def opIdeKmKeyProg (n l stream key : Nat) (s : State) : State :=
  match s.session n with
  | some x =>
    if hostLink s (fnHost s x.fn) ≠ some l ∨ !streamAllowed s (fnHost s x.fn) l stream then s
    else
      let s : State := { s with ideKeys := mapIns (256 * l + stream) key s.ideKeys }
      let s := if stream = 0 then s.setFld Fd.CXL_LINKST_IDE 1 l else s
      s.spdm x.fn (leBytes 2 stream)
  | none => s
/-- R613. -/
def execIdeKmKeyProg (session : Nat) (link : Fin 8) (stream key : Nat) (s : State) : Res := .next (opIdeKmKeyProg session link.val stream key s)

/-- R472: what a host's TDI report lists. -/
def tdiReport (s : State) (h : Nat) : Output :=
  .tdiReport h (s.hdmOf h)
    ((s.extents.filter fun e => e.2.st == .added && e.2.hosts.contains h).map fun e => (e.1 / 0x100000000, e.1 % 0x100000000))
    ((s.regIdx .HRT_CTL).filter fun e => s.flag Fd.HRT_CTL_VALID e && s.fld Fd.HRT_CTL_HOST e == h)
    (((tenantsUsed s).filter fun t => s.hostOf t == h).map fun t => (t, tenantSealed s t))

/-- R472: a TDISP request inside a session: LOCK_INTERFACE (0) from CONFIG_UNLOCKED, START_INTERFACE (1) in the session that locked, STOP_INTERFACE (2),
GET_DEVICE_INTERFACE_REPORT (3) while locked. (log entry 112, PRESUMED) -/
def opTdispRequest (n req : Nat) (s : State) : State :=
  match s.session n with
  | none => s
  | some x =>
    let h := fnHost s x.fn
    let d := s.tdi h
    if req = 0 ∧ d.st = 0 ∧ !s.compat then
      ({ s with tdis := mapIns h { st := 1, session := n, req := x.req } s.tdis } : State).spdm x.fn [1]
    else if req = 1 ∧ d.st = 1 ∧ d.session = n then ({ s with tdis := mapIns h { d with st := 2 } s.tdis } : State).spdm x.fn [2]
    else if req = 2 then (s.tdiTo h 0).spdm x.fn [0]
    else if req = 3 ∧ tdiLocked s h then s.emit (tdiReport s h)
    else s.spdm x.fn [0xFF]
/-- R472. -/
def execTdispRequest (session : Nat) (req : Fin 4) (s : State) : Res := .next (opTdispRequest session req.val s)

/-! ### Life cycle (R639 to R644) -/

/-- R641: CHALLENGE returns a fresh nonce. -/
def opLifecycleChallenge (fn : Nat) (s : State) : State :=
  s.operator fn 0xC014 0 false true false fun s =>
    let n := s.free % 2 ^ 256
    (({ s with nonce := some n } : State).drawn).reply 0xC014 mbOk (wordsOf (leBytes 32 n))
/-- R641. -/
def execLifecycleChallenge (fn : Fin 17) (s : State) : Res := .next (opLifecycleChallenge fn.val s)

/-- Whether the signatures that R640 asks for are there, by the state the part is in and the target. (log entry 88, DEDUCED) -/
def lcSigned (s : State) (a : LcAdvance) : Bool :=
  let st := s.fld Fd.SEC_LC_STATE
  if st = 0 ∧ a.target = 1 then a.byQuamal && a.certs != []
  else if st = 1 ∧ a.target = 2 then a.byCerts
  else if st = 2 ∧ a.target = 3 then a.byOwner s.ownerCerts
  else if st = 2 ∧ a.target = 4 then a.byOwner s.ownerCerts && a.byQuamal
  else if (st = 1 ∨ st = 3) ∧ a.target = 4 then a.byQuamal
  else false

/-- Media stops being ready, and sensor 10 reports it (R639, R743). (log entry 90, DEDUCED) -/
def State.mediaOff (s : State) : State :=
  if mediaReady s then (s.setFld Fd.PWR_STATUS_MEDIA 0).mctpEvent 10 1 else s

/-- The life-cycle state is written (R640, R743). (log entry 90, DEDUCED) -/
def State.setLife (s : State) (n : Nat) : State :=
  let s := ((s.setFld Fd.SEC_LC_STATE n).keyWrite rowLife).mctpEvent 11 (n + 1)
  if n = 3 ∨ n = 4 then s.mediaOff else s

/-- The transitions of R640; those with a crypto-erase begin it: the transition record is written, and every tenant is disabled (R642, steps 1 and 2). (log entry 90, DEDUCED) -/
def State.advance (s : State) (a : LcAdvance) : State :=
  let st := s.fld Fd.SEC_LC_STATE
  if st = 0 then ({ s with deviceCerts := a.certs } : State).setLife 1
  else if st = 1 ∧ a.target = 2 then
    let s : State := { s with ownerCerts := a.certs }
    let s := (s.setFld Fd.SEC_LC_OWNERREC (b2n (a.certs.length == 2))).setFld Fd.SEC_LC_MAKERTEST 0
    (s.keyWrite rowOwner).setLife 2
  else if st = 3 then (s.setFld Fd.SEC_PATFLOOR_FLOOR 0).setLife 4
  else
    let s := (({ s with lcTarget := some a.target } : State).setFld Fd.SEC_LC_ERASEPEND 1).keyWrite rowLife
    (s.regIdx .TNT_STATE).foldl (fun s t => s.drainTenant t) s

/-- Whether a request is carried out (R640, R641): it names the nonce of the last CHALLENGE and the DeviceID ECDSA certificate, the one it installs where the part has none;
no crypto-erase is under way; and its signatures are those of its transition. -/
def lcAccepted (s : State) (a : LcAdvance) : Bool :=
  let dev := (if s.fld Fd.SEC_LC_STATE = 0 then a.certs else s.deviceCerts).headD []
  s.nonce == some a.nonce && a.devHash == sha384 dev && s.lcTarget.isNone && lcSigned s a

/-- R640, R641: ADVANCE runs in the background; a refused request changes nothing. (log entry 86, DEDUCED) -/
def opLifecycleAdvance (fn : Nat) (payload : List Byte) (s : State) : State :=
  s.operator fn 0xC014 1 false false true fun s =>
    if s.bg.running then s.reply 0xC014 mbBusy []
    else
      let s := s.reply 0xC014 mbBackground []
      match (lcRead payload).filter (lcAccepted s) with
      | none => s.bgDone 0xC014 mbInvalid 0
      | some a =>
        let s := s.advance a
        if s.lcTarget.isSome then { s with bg := { opcode := 0xC014, running := true, ret := 0, vendor := 0 } } else s.bgDone 0xC014 mbOk 0
/-- R640. -/
def execLifecycleAdvance (fn : Fin 17) (payload : List Byte) (s : State) : Res := .next (opLifecycleAdvance fn.val payload s)

/-- Steps 3 and 4 of a crypto-erase (R642): every tenant, group, owner, queue-pair and stream key goes, the memory key is discarded, the owner epoch advances; tenants
and queue pairs are FREE, groups and plain extents gone, and the flash system area formatted anew. (log entry 90, DEDUCED) -/
def State.cryptoErase (s : State) : State :=
  let s : State := { s with
    dataKeys := [], nsKeys := [], qpKeys := [], ideKeys := [], ownerCerts := [], sealReq := [], memKey := s.free
    qps := [], plainMem := [], poisonLines := [], orphanLines := [], orphanPend := [], snoopFilter := []
    extents := s.extents.filter fun e => decide (0x100000000 ≤ e.1), released := []
    chunks := [], seqs := [], pins := [], images := [], gens := [], eraseLists := [], frames := [], geom := []
    saved := { regs := [], chunks := [], seqs := [], pins := [], images := [], gens := [], geom := [] }
    bootA := none, bootB := none }
  let s := s.drawn
  let s := (s.setFld Fd.SEC_LC_OWNEREPOCH (s.fld Fd.SEC_LC_OWNEREPOCH + 1)).setFld Fd.SEC_LC_OWNERREC 0
  let s := (List.range 8).foldl (fun s l => if s.flag Fd.CXL_LINKST_IDE l then s.setFld Fd.CXL_LINKST_IDE 0 l else s) s
  let s := (s.regIdx .TNT_STATE).foldl (fun s t => ((s.resetReg .TNT_STATE t).resetReg .SEC_TSTAT t).keyWrite t) s
  (s.regIdx .SG_CFG).foldl (fun s g => ((s.setFld Fd.SG_CFG_VALID 0 g).setReg .SEC_GSTAT g 0).keyWrite (1024 + g)) s

/-- Step 5 of a crypto-erase (R642). (log entry 90, DEDUCED) -/
def State.eraseEnds (s : State) (target : Nat) : State :=
  let s := (({ s with lcTarget := none } : State).setFld Fd.SEC_LC_ERASEPEND 0).keyWrite rowOwner
  let s := if target = 4 then s.setFld Fd.SEC_PATFLOOR_FLOOR 0 else s
  let s := s.setLife target
  if s.bg.running && s.bg.opcode == 0xC014 then s.bgDone 0xC014 mbOk 0 else s

/-- R642: with every tenant outside FREE disabled, the erase runs to its end. -/
def opCryptoEraseComplete (s : State) : State :=
  match s.lcTarget with
  | none => s
  | some target =>
    if (tenantsUsed s).any fun t => s.tstate t == TState.active.code || s.tstate t == TState.draining.code then s
    else s.cryptoErase.eraseEnds target
/-- R642. -/
def execCryptoEraseComplete (s : State) : Res := .next (opCryptoEraseComplete s)

/-! ### Firmware slots (R645 to R650) -/

/-- The slot that is not running: 0 A, 1 B. (log entry 91, DEDUCED) -/
def stagedSlot (s : State) : Nat := 1 - s.fld Fd.SEC_FW_RUN

/-- The bytes of the staged slot. -/
def stagedMem (s : State) : Memory := if stagedSlot s = 0 then s.slotA else s.slotB

/-- Change the staged slot. -/
def State.updStaged (s : State) (f : Memory → Memory) : State :=
  if stagedSlot s = 0 then { s with slotA := f s.slotA } else { s with slotB := f s.slotB }

/-- R650: FW_STAGE ERASE. (log entries 86 and 91, DEDUCED) -/
def opFwStageErase (fn : Nat) (s : State) : State :=
  s.operator fn 0xC015 0 false true true fun s =>
    if s.fwWriter ≠ 0 then s.reply 0xC015 mbBusy [] else s.background 0xC015 fun s => s.updStaged fun _ => []
/-- R650. -/
def execFwStageErase (fn : Fin 17) (s : State) : Res := .next (opFwStageErase fn.val s)

/-- R650: FW_STAGE WRITE. (log entries 86 and 91, DEDUCED) -/
def opFwStageWrite (fn off : Nat) (bs : List Byte) (s : State) : State :=
  s.operator fn 0xC015 1 false true true fun s =>
    if s.fwWriter ≠ 0 then s.reply 0xC015 mbBusy []
    else if slotBytes < off + bs.length then s.reply 0xC015 mbInvalid []
    else s.background 0xC015 fun s => s.updStaged fun m => m.write off bs
/-- R650. -/
def execFwStageWrite (fn : Fin 17) (offset : Nat) (bytes : List Byte) (s : State) : Res := .next (opFwStageWrite fn.val offset bytes s)

/-- R650: FW_STAGE VERIFY returns the code of checks 1 to 8. (log entry 91, DEDUCED) -/
def opFwStageVerify (fn : Nat) (s : State) : State :=
  s.operator fn 0xC015 2 false true true fun s =>
    if s.fwWriter ≠ 0 then s.reply 0xC015 mbBusy [] else s.reply 0xC015 mbOk [BitVec.ofNat 64 (verifyCode s (stagedMem s))]
/-- R650. -/
def execFwStageVerify (fn : Fin 17) (s : State) : Res := .next (opFwStageVerify fn.val s)

/-- R650: FW_ACTIVATE SELECT. -/
def opFwSelect (fn : Nat) (s : State) : State :=
  s.operator fn 0xC016 0 false true true fun s =>
    let code := verifyCode s (stagedMem s)
    if s.fwWriter ≠ 0 then s.reply 0xC016 mbBusy []
    else if code ≠ 0 then s.emit (.mailbox 0xC016 mbInvalid code [])
    else (s.setFld Fd.SEC_FW_PREF (stagedSlot s)).reply 0xC016 mbOk []
/-- R650. -/
def execFwSelect (fn : Fin 17) (s : State) : Res := .next (opFwSelect fn.val s)

/-- A floor is raised, never lowered. -/
def State.raise (s : State) (f : Field) (n : Nat) : State := if s.fld f < n then s.setFld f n else s

/-- R650: FW_ACTIVATE COMMIT_SVN. -/
def opFwCommitSvn (fn : Nat) (s : State) : State :=
  s.operator fn 0xC016 1 false true true fun s =>
    let s := (s.raise Fd.SEC_FLOOR_MFWFLOOR (s.fld Fd.SEC_FW_MFWSVN)).raise Fd.SEC_FLOOR_FTFFLOOR (s.fld Fd.SEC_FW_FTFSVN)
    ((s.raise Fd.SEC_FLOOR_MANFLOOR (s.fld Fd.SEC_FLOOR_MANSVN)).keyWrite rowFloor).reply 0xC016 mbOk []
/-- R650. -/
def execFwCommitSvn (fn : Fin 17) (s : State) : Res := .next (opFwCommitSvn fn.val s)

/-- R650: FW_ACTIVATE QUERY. -/
def opFwQuery (fn : Nat) (s : State) : State :=
  s.operator fn 0xC016 2 false true false fun s => s.reply 0xC016 mbOk [s.reg .SEC_FW, s.reg .SEC_FLOOR]
/-- R650. -/
def execFwQuery (fn : Fin 17) (s : State) : Res := .next (opFwQuery fn.val s)

/-- R650: PLDM firmware update: it begins (0), writes data of the slot that is not running (1), and ends (2). -/
def opPldmFirmwareUpdate (phase off : Nat) (bs : List Byte) (s : State) : State :=
  if phase = 0 then
    if s.fwWriter = 2 ∨ (s.bg.running ∧ s.bg.opcode = 0xC015) then s.emit (.pldm mbBusy)
    else ({ s with fwWriter := 2 } : State).emit (.pldm mbOk)
  else if s.fwWriter ≠ 2 then s.emit (.pldm mbInvalid)
  else if phase = 1 then
    if slotBytes < off + bs.length then s.emit (.pldm mbInvalid) else (s.updStaged fun m => m.write off bs).emit (.pldm mbOk)
  else ({ s with fwWriter := 0 } : State).emit (.pldm mbOk)
/-- R650. -/
def execPldmFirmwareUpdate (phase : Fin 3) (offset : Nat) (bytes : List Byte) (s : State) : Res :=
  .next (opPldmFirmwareUpdate phase.val offset bytes s)

/-! ### The calibration block (R651 to R653) -/

/-- Bytes of the calibration block (R645). -/
def calBytes : Nat := 0x40000

/-- R652: CAL_READ, in every state. -/
def opCalRead (fn off n : Nat) (s : State) : State :=
  s.operator fn 0xC012 0 true true false fun s =>
    if calBytes < off + n then s.reply 0xC012 mbInvalid [] else s.reply 0xC012 mbOk (wordsOf (s.calib.read off n))
/-- R652. -/
def execCalRead (fn : Fin 17) (offset size : Nat) (s : State) : Res := .next (opCalRead fn.val offset size s)

/-- R652: CAL_WRITE, in PROVISIONED and OWNED. (log entry 86, DEDUCED) -/
def opCalWrite (fn off : Nat) (bs : List Byte) (s : State) : State :=
  s.operator fn 0xC013 0 false false true fun s =>
    if s.fld Fd.SEC_LC_STATE ≠ 1 ∧ s.fld Fd.SEC_LC_STATE ≠ 2 then s.reply 0xC013 mbUnsupported []
    else if calBytes < off + bs.length then s.reply 0xC013 mbInvalid []
    else s.background 0xC013 fun s =>
      (({ s with calib := s.calib.write off bs } : State).incFld Fd.SEC_CAL_WRITES 1).keyWrite rowCal
/-- R652. -/
def execCalWrite (fn : Fin 17) (offset : Nat) (bytes : List Byte) (s : State) : Res := .next (opCalWrite fn.val offset bytes s)

/-- R651, R653: the block as stored is valid: magic, version, length and hash. -/
def calValid (m : Memory) : Bool :=
  let len := ofLE (m.read 0x0C 4)
  m.read 0 8 == [0x51, 0x4C, 0x58, 0x37, 0x43, 0x41, 0x4C, 0x42] && ofLE (m.read 8 2) == 1 && decide (0x40 ≤ len) && decide (len ≤ calBytes) &&
    m.read 0x10 48 == sha384 (m.read 0x40 (len - 0x40))

end Sys2Proof.Machine
end

