-- ==== Sys2Proof/Machine/Pattern.lean ====
section
/-!
DEFINITION. Loading patterns and swapping panels: staging, validation, quiesce, programming, and the boot copies (R51, R54, R59, R60, R64, R68 to R97, R638); clocks as
the island map sets them (R663, R670, R707).
-/
namespace Sys2Proof.Machine

/-! ### Clocks (R663, R669, R670, R707) -/

/-- The thermal step of a core die (R670). -/
def dieStep (s : State) (d : Nat) : Nat := if d = 0 then s.fld Fd.PWR_THERM_STEP0 else s.fld Fd.PWR_THERM_STEP1

/-- A core-die regulator that left three transactions in a row unanswered (R707). -/
def avsDead (s : State) (d : Nat) : Bool := decide (3 ≤ (mapFind s.avsMiss d).getD 0)

/-- The highest clock that a core island of a die may have under its thermal step and its rail (R670, R707). -/
def coreLimit (s : State) (d : Nat) : Nat :=
  let step := [1800, 1400, 1000, 400].getD (dieStep s d) 1800
  if avsDead s d then min step 1400 else step

/-- Whether an island exists and works: cores may be disabled or retired (R23, R24). -/
def islandOn (s : State) (i : Nat) : Bool := if i < 256 then (s.core i).good else decide (i < 293)

/-- Whether some CXL port is in L0: one of its links is up. -/
def anyPortUp (s : State) : Bool := (List.range 8).any fun l => s.fld Fd.CXL_LINKST_STATE l == 2

/-- The clock set for an island: FINIT lowered by what applies, never below FMIN; the presence probe's runs at 1,000 MHz while any CXL port is in L0, whatever the pattern
(R27). With no pattern no other clock is set. (log entry 93, DEDUCED) -/
def clockOf (s : State) (i : Nat) : Nat :=
  match s.pattern with
  | none => if i = 291 ∧ anyPortUp s then 1000 else 0
  | some p =>
    if !islandOn s i then 0
    else
      let w := wordAt p.island i
      let base := bitsOf w 47 32 - (mapFind s.ecoDown i).getD 0
      max (bitsOf w 15 0) (if i < 256 then min (base - s.capDown) (coreLimit s (coreDie i)) else base)

/-- PWR_CLK and BELOWINIT follow what applies to the clocks (R664, R696). (log entry 93, DEDUCED) -/
def State.syncClocks (s : State) : State :=
  let s : State := if s.flag Fd.PWR_STATUS_BELOWINIT then { s with lastSlow := some s.dtime } else s
  let s := (List.range 293).foldl (fun s i => s.setFld Fd.PWR_CLK_FNOW (clockOf s i) i) s
  let slow := match s.pattern with
    | none => false
    | some p => (List.range 293).any fun i => islandOn s i && decide (clockOf s i < bitsOf (wordAt p.island i) 47 32)
  s.setFld Fd.PWR_STATUS_BELOWINIT (b2n (slow || avsDead s 0 || avsDead s 1))

/-! ### Putting a pattern in force -/

/-- A digest into its six registers (R95). -/
def State.putDigest (s : State) (k : RegKind) (d : List Byte) : State :=
  (List.range 6).foldl (fun s i => s.setReg k i (BitVec.ofNat 64 (ofLE (sliceAt d (8 * i) 8)))) s

/-- The pattern measurement (R70). -/
def patternMeas (p : Pattern) : List Byte :=
  sha384 (p.baseDig ++ (List.range 64).flatMap fun n => match p.panels.find? fun c => c.num == n with | some c => c.digest | none => zero48)

/-- Install a panel's coder tables (R64, R325): a tensor with an all-zero entry becomes uncoded, and all its live generations OLD. (log entry 28, DEDUCED) -/
def State.installTables (s : State) (c : PanelCfg) : State :=
  c.tables.zipIdx.foldl (fun s e =>
    let gs := s.gensOf c.prof e.2
    s.setGens c.prof e.2 (if e.1 = [] then gs.map (fun g => { g with st := .old }) else (installTable gs e.1 (liveEqual gs e.1)).1)) s

/-- R51: the cores of a die are given out in ascending island ID to panels in ascending number. -/
def giveCores (s : State) (p : Pattern) (d : Nat) : List (Nat × Nat) :=
  let want := (p.panels.zipIdx.map fun e => e.1).flatMap fun c => List.replicate (fieldOf c.hdr 1 (if d = 0 then 39 else 47) (if d = 0 then 32 else 40)) c.num
  let have_ := (List.range 128).filterMap fun i => if (s.core (128 * d + i)).good then some (128 * d + i) else none
  have_.zip want

/-- The assignment of a load (R51). -/
def State.assignCores (s : State) (p : Pattern) : State :=
  let given := giveCores s p 0 ++ giveCores s p 1
  { s with cores := s.cores.mapIdx fun i c => { c with panel := (given.find? fun e => e.1 == i).map fun e => e.2 } }

/-- A panel begins to run (R62, R87, R96, R97): the plan of R62 for its cores, or SHORT. -/
def State.startPanel (s : State) (c : PanelCfg) : State :=
  let s := (s.setFld Fd.PANEL_STATE_PROFILE c.prof c.num).setReg .PANEL_RPD c.num (wordAt c.hdr 8)
  match selectPlan c.plans (coresOf s c.num 0) (coresOf s c.num 1) with
  | some n => (s.usePlan c.num n (c.plans.getD n { c0 := 0, c1 := 0, scale := 0, place := 0 })).setFld Fd.PANEL_STATE_STATE 1 c.num
  | none => s.goShort c.num

/-- The end of the replacement condition SHORT (R599). (log entry 27, DEDUCED) -/
def State.checkShort (s : State) : State :=
  if (List.range 64).any fun p => s.fld Fd.PANEL_STATE_STATE p == panelShort then s else s.endReplace 2

/-- The registers that show which pattern runs (R90, R91, R95). -/
def State.showPattern (s : State) (p : Pattern) : State :=
  let s := ((s.setFld Fd.PAT_STATUS_SVN p.svn).setFld Fd.PAT_STATUS_NPANEL p.panels.length).setFld Fd.PAT_STATUS_SIGNER p.signer
  let s := (s.setFld Fd.PAT_STATUS_COMPAT (b2n p.compat)).setFld Fd.PAT_STATUS_STATE 1
  let s := s.setReg .PAT_VERSION 0 (packWord [(16, p.ifgen), (0, p.fmtver)])
  (s.putDigest .PAT_BASE p.baseDig).putDigest .PAT_MEAS (patternMeas p)

/-- A panel number that no panel of the pattern has: its registers read zero, but for the commands counted since the last read (R96). -/
def State.panelUnused (s : State) (n : Nat) : State :=
  ((s.setReg .PANEL_STATE n (packWord [(48, s.fld Fd.PANEL_STATE_BUSYCNT n)])).resetReg .PANEL_RPD n)

/-- A pattern is programmed into the islands; its coder tables are installed by a load, and at a start the generations are as they were (R326). -/
def State.program (s : State) (p : Pattern) : State :=
  let s : State := { (s.assignCores p) with pattern := some p }
  let s := (List.range 64).foldl (fun s n =>
    if p.panels.any fun c => c.num == n then (s.setFld Fd.PANEL_STATE_RETIRED 0 n).setFld Fd.PANEL_STATE_STATE 1 n
    else s.panelUnused n) s
  let s := p.panels.foldl State.startPanel s
  (((s.showPattern p).checkShort).reclaim).syncClocks

/-! ### Validation (R76) -/

/-- Who may sign a pattern in a life-cycle state (R68, R639): owner-signed only in OWNED; vendor-signed in PROVISIONED and RETURN, and in OWNED unless the running policy
says no. -/
def signerOk (s : State) (signer : Nat) : Bool :=
  let st := s.fld Fd.SEC_LC_STATE
  if signer = 1 then st == 1 || st == 4 || (st == 2 && match s.pattern with | some p => fieldOf p.policy 0 8 8 == 1 | none => true)
  else signer == 2 && st == 2

/-- Whether a KEYID names a certificate that its signer may use (R68): one certified to Quamal's root for a vendor, an enrolled one for an owner. -/
def signerKey (s : State) (signer : Nat) (keyId : List Byte) : Bool :=
  if signer = 1 then (Config.vendorCert keyId).isSome else s.ownerCerts.any fun c => sha384 c == keyId

/-- The certificate that a KEYID names (R66): an enrolled owner's or a vendor's. -/
def namedCert (s : State) (keyId : List Byte) : Option (List Byte) := (s.ownerCerts.find? fun c => sha384 c == keyId) <|> Config.vendorCert keyId

/-- R67: both signatures verify over bytes 0 to SIGOFF - 1 under the key that KEYID names; SUITE 1 is the one suite there is. -/
def signaturesOk (s : State) (x : Image) : Bool :=
  x.suite == 1 && match namedCert s x.keyId with | some c => Config.signaturesVerify c x.signedBytes x.sigEc x.sigPq | none => false

/-- Cores that are enabled and unretired, by island ID. -/
def enabledCores (s : State) : List Nat := (List.range 256).filter fun i => (s.core i).good

/-- Whether HBM holds a page, a basted frame or a plain region (R54). -/
def hbmHolds (s : State) : Bool := !s.frames.isEmpty || decide (0 < plainExtents s)

/-- Checks 1 to 17 of R76, in order. With no pattern running there is no swizzle to compare with, and a part whose HBM still holds something refuses (R54). IFGEN 0 is no
generation a manifest lists, and an image that does not hold its own header is refused as SIZE. (log entries 26 and 105, DESIGN CHOICE) -/
def validate (s : State) (x : Image) (p : Pattern) (swap : Bool) : Option PatErr :=
  let size := (wordAt x.hdr 2).toNat
  let old := s.pattern
  firstFail [checkHeader x,
    failIf (!((s.fwRun.map fun f => bitAt f.majors (p.fmtver / 256)).getD false)) (hdrErr 2 8),
    failIf (!bitAt p.stepset.toNat s.fuses.step) (hdrErr 3 24),
    failIf (p.ifgen == 0 || !((s.fwRun.map fun f => f.ifgens.contains p.ifgen).getD false)) (hdrErr 4 8),
    failIf (decide (stageBytes < size) || decide (size < 256) || !stagedFull x.st size) (hdrErr 5 16),
    checkDirectory x swap, checkSections x p,
    failIf (!signaturesOk s x) (hdrErr 7 x.sigOff),
    failIf (!signerOk s p.signer || !signerKey s p.signer p.keyId) (hdrErr 8 x.sigOff),
    failIf (decide (p.svn < s.fld Fd.SEC_PATFLOOR_FLOOR)) (hdrErr 9 32),
    failIf (swap && (old.map fun o => o.baseDig) != some (sliceAt (bytesOf x.hdr) 80 48)) (hdrErr 0x0A 80),
    checkProfile p swap (if swap then ((old.map fun o => o.panels).getD []).filter fun c => !(p.panels.any fun d => d.num == c.num) else []),
    checkCores s x p,
    (if swap then none else checkIslands p),
    (if swap then none else (Config.routeFault p.routes (enabledCores s)).map fun o => secErr 0x0E 2 0xFF o),
    failIf (!swap && !wheelsOk p.wheels) (secErr 0x0F 4 0xFF (wheelSoff p.wheels)),
    checkLibraries x p,
    failIf (!swap && hbmHolds s && (old.map fun o => o.swizzle) != some p.swizzle)
      (secErr 0x13 3 0xFF ((firstDiff ((old.map fun o => o.swizzle).getD p.swizzle) p.swizzle).getD 0))]

/-- The eight fields of a geometry (R59). -/
def sameGeo (a b : Word) : Bool := geoOf a == geoOf b

/-- Whether a profile is in use (R60): a tenant outside FREE is bound to it, or it has chunks. -/
def profileUsed (s : State) (prof : Nat) : Bool :=
  (tenantsUsed s).any (fun t => s.profileOf t == prof) || s.chunks.any fun e => e.2.prof == prof

/-- Whether any tenant is sealed, one that has been unconfigured since and still has its seal among them (R120, R633). -/
def anySealed (s : State) : Bool := (List.range 1024).any fun t => tenantSealed s t || s.flag Fd.SEC_TSTAT_SEALED t

/-- Checks 18 to 22 of R76; `panel` is the one that a PANEL_SWAP names. (log entry 25, DEDUCED) -/
def liveChecks (s : State) (p : Pattern) (swap : Bool) (panel : Nat) : Option PatErr :=
  let old := (s.pattern.map fun o => o.panels).getD []
  let gone := if swap then old.filter fun c => c.num == panel else old
  let run := old.find? fun c => c.num == panel
  let one := p.panels.headD { num := 0, hdr := [], plans := [], planRec := [], tables := [], bias := [], templates := [], digest := [] }
  firstFail ([
    (p.panels.findSome? fun c => match mapFind s.geom c.prof with
      | some w => failIf (!sameGeo w (wordAt c.hdr 0)) (secErr 0x14 0x10 c.num 0)
      | none => none),
    (gone.findSome? fun c => failIf (!(p.panels.any fun d => d.prof == c.prof) && profileUsed s c.prof) (secErr 0x15 0x10 c.num 0)),
    failIf (p.compat && anySealed s) (hdrErr 0x16 40)] ++
    (if !swap then []
      else [failIf (s.fld Fd.PANEL_STATE_STATE panel == 0 || one.num != panel ||
          (run.map fun r => fieldOf r.hdr 1 47 32) != some (fieldOf one.hdr 1 47 32)) (secErr 0x17 0x10 panel 8),
        failIf ((selectPlan one.plans (coresOf s panel 0) (coresOf s panel 1)).isNone) (secErr 0x12 0x11 panel 320)]) ++
    p.panels.map fun c => (c.tables.zipIdx.findSome? fun e =>
      let gs := s.gensOf c.prof e.2
      failIf (e.1 != [] && (liveEqual gs e.1).isNone && decide (4 ≤ gs.length)) (secErr 0x18 0x12 c.num (64 + 128 * e.2))))

/-! ### Quiesce (R77, R83) -/

/-- The detail of CANCELLED in a quiesce (R77, R83). -/
def quiesceDetail : Nat := 0x0004

/-- The commands in execution that a quiesce stops: attention commands, and DELIVERs in a load; those of one panel in a swap. -/
def quiesceStops (s : State) (swap : Bool) (panel : Nat) (c : Cmd) : Bool :=
  if swap then isAttention c.opcode && panelOf s (s.profileOf c.tenant) == some panel else isAttention c.opcode || c.opcode == Oc.deliver

/-- R77, R83: commands stop at their next boundary, ring contexts abort, and the panels read SWAPPING. (log entry 25, DEDUCED) -/
def State.quiesce (s : State) (swap : Bool) (panel : Nat) : State :=
  let s' : State := { s with inflight := s.inflight.map fun c =>
    if (quiesceStops s swap panel c && c.cancel.isNone && c.early.isNone) = true then { c with cancel := some quiesceDetail } else c }
  let s' := ((s'.regIdx .SNL_CTX_ST).filter fun x => !swap || (s.fld Fd.SNL_CTX_CTL_MODE x == 1 && s.fld Fd.SNL_CTX_CTL_PANEL x == panel)).foldl
    (fun s x => s.abortCtx x quiesceDetail) s'
  ((List.range 64).filter fun p => (!swap || p == panel) && s.fld Fd.PANEL_STATE_STATE p == 1).foldl
    (fun s p => s.setFld Fd.PANEL_STATE_STATE panelSwapping p) s'

/-- The panels of a quiesce that has ended without programming run again (R80, R87), with replacements for cores that retired meanwhile (R594); a change of plan is an event
of R88. (log entry 25, DEDUCED) -/
def State.resume (s : State) : State :=
  ((List.range 64).filter fun p => s.fld Fd.PANEL_STATE_STATE p == panelSwapping).foldl (fun s p =>
    match (s.setFld Fd.PANEL_STATE_STATE 1 p).refitPanel p with
    | (s, true) => s.geoBump 4
    | (s, false) => s) s

/-- What checks 18 to 22 and programming wait for: the commands that run to completion (R77, R83). A command that waits for the load itself does not hold it up (R76). -/
def quiesced (s : State) (l : LoadRun) : Bool :=
  s.inflight.all fun c => c.early.isSome || c.opcode == Oc.nop || (c.opcode == Oc.extend && firstChunkWaits s (s.profileOf c.tenant)) ||
    (l.swap && (panelOf s (s.profileOf c.tenant) != some l.panel ||
      !(isAttention c.opcode || c.opcode == Oc.commit || c.opcode == Oc.tableLoad || c.opcode == Oc.tableRetire)))

/-! ### The mailbox's rows (R73 to R75) -/

/-- The opcodes of PATTERN_LOAD and PANEL_SWAP (R726). -/
def loadOp (swap : Bool) : Nat := if swap then 0xC011 else 0xC010

/-- STAGED (R92). (log entry 24, DESIGN CHOICE) -/
def State.showStaged (s : State) : State := s.setFld Fd.PAT_PROGRESS_STAGED (ceilDiv (stagedEnd s.staging) 4096)

/-- R74: STAGE of LEN bytes. A piece that runs past the buffer, or whose payload holds fewer bytes than LEN, is refused with Invalid Input and staged not at all. (log entry 105, DESIGN CHOICE) -/
def State.stageRow (s : State) (swap : Bool) (fn off len : Nat) (bs : List Byte) : State :=
  s.operator fn (loadOp swap) 0 false false false fun s =>
    if stageBytes < off + len ∨ bs.length < len then s.reply (loadOp swap) mbInvalid []
    else ((s.stage off (bs.take len)).showStaged).reply (loadOp swap) mbOk []

/-- R74: ABORT. -/
def State.abortRow (s : State) (swap : Bool) (fn : Nat) : State :=
  s.operator fn (loadOp swap) 2 false false false fun s => (({ s with staging := [] } : State).showStaged).reply (loadOp swap) mbOk []

/-- R74: QUERY. -/
def State.queryRow (s : State) (swap : Bool) (fn : Nat) : State :=
  s.operator fn (loadOp swap) 3 false false false fun s => s.reply (loadOp swap) mbOk [s.reg .PAT_STATUS, s.reg .PAT_PROGRESS]

/-- An ACTIVATE is refused or fails (R75, R76, R80, R93, R94). -/
def State.loadFails (s : State) (swap : Bool) (e : PatErr) : State :=
  let s := (s.setFld Fd.PAT_STATUS_ERR e.code).setReg .PAT_ERRDET 0 (packWord [(32, e.soff % 2 ^ 32), (16, e.panel), (0, e.type)])
  let s := s.setFld (if swap then Fd.PAT_EVT_SWAP_FAIL else Fd.PAT_EVT_LOAD_FAIL) 1
  let s := s.logEv 0x0202 1 noIsland none (s.reg .PAT_STATUS).toNat (s.reg .PAT_ERRDET).toNat
  s.bgDone (loadOp swap) (if e.code = 0x19 then mbInternal else mbInvalid) e.code

/-- PAT_STATUS.STATE takes a value, and GEO changes with it (R90, R729). (log entry 24, DESIGN CHOICE) -/
def State.patState (s : State) (n : Nat) : State :=
  if s.fld Fd.PAT_STATUS_STATE = n then s else { s.setFld Fd.PAT_STATUS_STATE n with geoGen := (s.geoGen + 1) % 2 ^ 32 }

/-- PAT_STATUS.STATE of a pattern that runs, or of none. -/
def patAtRest (s : State) : Nat := b2n s.pattern.isSome

/-- The value of PAT_STATUS.STATE in a phase of a PATTERN_LOAD (R90). -/
def LoadPhase.state : LoadPhase → Nat
  | .validating => 2 | .quiescing => 3 | .programming => 4 | .restoring => 5

/-- An ACTIVATE enters a phase; a PANEL_SWAP shows in PANEL_STATE and leaves PAT_STATUS.STATE. (log entry 24, DESIGN CHOICE) -/
def State.enterPhase (s : State) (l : LoadRun) (ph : LoadPhase) : State :=
  let s : State := { s with load := some { l with phase := ph } }
  if l.swap then s else s.patState ph.state

/-- An ACTIVATE has ended without its pattern: the state shown is again that of the pattern that runs, and what waited for the load goes on (R76, R80). -/
def State.loadEnds (s : State) (l : LoadRun) (e : PatErr) : State :=
  let s : State := { s with load := none }
  let s := if l.swap then s else s.patState (patAtRest s)
  (s.loadFails l.swap e).releaseHeld

/-- What a failed programming leaves in PAT_ERRDET: no section failed, so TYPE 0, PANEL 0xFF and SOFF 0. (log entry 105, DESIGN CHOICE) -/
def restoredErr : PatErr := hdrErr 0x19 0

/-- An ACTIVATE goes on to its next phase, once it can (R76, R77, R80, R83): checks 1 to 17 have been made; the commands that run to completion have ended, and checks 18 to
22 are made; the previous pattern has been programmed again. Programming itself ends by a row of its own. (log entry 24, DESIGN CHOICE; log entry 25, DEDUCED) -/
def State.loadAdvance (s : State) : State :=
  match s.load with
  | none => s
  | some l => match l.phase with
    | .validating => match validate s l.src l.image l.swap with
      | some e => s.loadEnds l e
      | none => (s.enterPhase l .quiescing).quiesce l.swap l.panel
    | .quiescing =>
      if !quiesced s l then s
      else match liveChecks s l.image l.swap l.panel with
        | some e => s.resume.loadEnds l e
        | none => s.enterPhase l .programming
    | .programming => s
    | .restoring => s.resume.loadEnds l restoredErr

/-- R75, R76: ACTIVATE begins: the image is the one staged at this moment (R74). (log entry 24, DESIGN CHOICE) -/
def State.activateRow (s : State) (swap : Bool) (fn panel : Nat) : State :=
  s.operator fn (loadOp swap) 1 false false true fun s =>
    if s.bg.running then s.reply (loadOp swap) mbBusy []
    else
      let s := (s.reply (loadOp swap) mbBackground []).setFld Fd.PAT_PROGRESS_PCT 0
      let x := readImage s.staging
      let s : State := { s with bg := { opcode := loadOp swap, running := true, ret := 0, vendor := 0 } }
      s.enterPhase { swap, panel, src := x, image := readPattern x, phase := .validating } .validating

/-- R73: the input payload of PATTERN_LOAD and PANEL_SWAP: word 0 with ACTION, PANEL and LEN, word 1 with OFFSET, and the data. The spec gives ACTION 4 to 15 no meaning:
Invalid Input. (log entry 105, DESIGN CHOICE) -/
def State.loadCommand (s : State) (swap : Bool) (fn : Nat) (w0 w1 : Word) (data : List Byte) : State :=
  match bitsOf w0 3 0 with
  | 0 => s.stageRow swap fn w1.toNat (bitsOf w0 63 32) data
  | 1 => s.activateRow swap fn (bitsOf w0 21 16)
  | 2 => s.abortRow swap fn
  | 3 => s.queryRow swap fn
  | a => s.operator fn (loadOp swap) a false false false fun s => s.reply (loadOp swap) mbInvalid []

/-- Payload word 0 with the ACTION that a row names (R73). -/
def withAction (w0 : Word) (a : Nat) : Word := setBits w0 3 0 a

/-- R74. -/
def opPatternStage (fn : Nat) (w0 w1 : Word) (data : List Byte) (s : State) : State := s.loadCommand false fn (withAction w0 0) w1 data
/-- R74. -/
def execPatternStage (fn : Fin 17) (word0 word1 : Word) (data : List Byte) (s : State) : Res := .next (opPatternStage fn.val word0 word1 data s)
/-- R76. (log entry 5, DEDUCED) -/
def opPatternActivate (fn : Nat) (w0 : Word) (s : State) : State := s.loadCommand false fn (withAction w0 1) 0 []
/-- R76. -/
def execPatternActivate (fn : Fin 17) (word0 : Word) (s : State) : Res := .next (opPatternActivate fn.val word0 s)
/-- R74. -/
def opPatternAbort (fn : Nat) (w0 : Word) (s : State) : State := s.loadCommand false fn (withAction w0 2) 0 []
/-- R74. -/
def execPatternAbort (fn : Fin 17) (word0 : Word) (s : State) : Res := .next (opPatternAbort fn.val word0 s)
/-- R74. -/
def opPatternQuery (fn : Nat) (w0 : Word) (s : State) : State := s.loadCommand false fn (withAction w0 3) 0 []
/-- R74. -/
def execPatternQuery (fn : Fin 17) (word0 : Word) (s : State) : Res := .next (opPatternQuery fn.val word0 s)
/-- R74. -/
def opPanelSwapStage (fn : Nat) (w0 w1 : Word) (data : List Byte) (s : State) : State := s.loadCommand true fn (withAction w0 0) w1 data
/-- R74. -/
def execPanelSwapStage (fn : Fin 17) (word0 word1 : Word) (data : List Byte) (s : State) : Res := .next (opPanelSwapStage fn.val word0 word1 data s)
/-- R83. -/
def opPanelSwapActivate (fn : Nat) (w0 : Word) (s : State) : State := s.loadCommand true fn (withAction w0 1) 0 []
/-- R83. -/
def execPanelSwapActivate (fn : Fin 17) (word0 : Word) (s : State) : Res := .next (opPanelSwapActivate fn.val word0 s)
/-- R74. -/
def opPanelSwapAbort (fn : Nat) (w0 : Word) (s : State) : State := s.loadCommand true fn (withAction w0 2) 0 []
/-- R74. -/
def execPanelSwapAbort (fn : Fin 17) (word0 : Word) (s : State) : Res := .next (opPanelSwapAbort fn.val word0 s)
/-- R74. -/
def opPanelSwapQuery (fn : Nat) (w0 : Word) (s : State) : State := s.loadCommand true fn (withAction w0 3) 0 []
/-- R74. -/
def execPanelSwapQuery (fn : Fin 17) (word0 : Word) (s : State) : Res := .next (opPanelSwapQuery fn.val word0 s)

/-! ### Programming ends (R80, R85, R88, R94) -/

/-- An ACTIVATE completes: its event, LOG, and what waited for it (R75, R76, R94). (log entry 24, DESIGN CHOICE) -/
def State.loadDone (s : State) (swap : Bool) (panel : Nat) : State :=
  let s := (s.setFld Fd.PAT_STATUS_ERR 0).setFld Fd.PAT_STATUS_PERSISTED 0
  let s := (s.setFld (if swap then Fd.PAT_EVT_SWAP_DONE else Fd.PAT_EVT_LOAD_DONE) 1).setFld Fd.PAT_PROGRESS_PCT 100
  let s := s.logEv 0x0201 0 noIsland none (s.reg .PAT_STATUS).toNat (if swap then panel else 0xFF)
  (((s.geoBump (if swap then 2 else 1)).bgDone (loadOp swap) mbOk 0).measurePattern).releaseHeld

/-- The programming of the load or swap under way ends (R80, R85); one that has not begun, because its commands still run, does not. (log entry 2, DESIGN CHOICE) -/
def State.programEnds (s : State) (swap ok : Bool) (done : State → LoadRun → State) : State :=
  let s := s.loadAdvance.loadAdvance
  match s.load with
  | none => s
  | some l =>
    if l.swap != swap || l.phase != .programming then s
    else if ok then done { s with load := none } l
    else s.enterPhase l .restoring

/-- R80: the programming of a PATTERN_LOAD ends. (log entry 2, DESIGN CHOICE) -/
def opPatternProgramDone (ok : Bool) (s : State) : State :=
  s.programEnds false ok fun s l => ((l.image.panels.foldl State.installTables s).program l.image).loadDone false 0
/-- R80. -/
def execPatternProgramDone (ok : Bool) (s : State) : Res := .next (opPatternProgramDone ok s)

/-- The running pattern with a panel replaced (R82). -/
def Pattern.withPanel (p : Pattern) (c : PanelCfg) : Pattern := { p with panels := p.panels.map fun d => if d.num = c.num then c else d }

/-- A panel runs its new library (R85): cores that retired meanwhile are replaced first; a SHORT panel stays SHORT, with no core serving (R595, R96). The pattern that results
keeps the full pattern's SVN, signer, KEYID and version. (log entry 27, DEDUCED; log entry 105, DESIGN CHOICE) -/
def State.swapPanel (s : State) (c : PanelCfg) : State :=
  let s : State := { s with pattern := s.pattern.map fun p => p.withPanel c }
  let s := s.replaceCores c.num (goneCores s c.num)
  let left := goneCores s c.num
  let s := left.foldl (fun s i => s.updCore i fun c => { c with panel := none }) s
  let s := s.addFld Fd.PANEL_STATE_RETIRED left.length c.num
  let s := if s.fld Fd.PANEL_STATE_STATE c.num = panelShort then s.setReg .PANEL_RPD c.num (wordAt c.hdr 8) else s.startPanel c
  let s := s.installTables c
  match s.pattern with
  | some p => (s.putDigest .PAT_MEAS (patternMeas p)).reclaim
  | none => s.reclaim

/-- R85: the programming of a PANEL_SWAP ends. -/
def opPanelSwapProgramDone (ok : Bool) (s : State) : State :=
  s.programEnds true ok fun s l => (l.image.panels.foldl State.swapPanel s).loadDone true l.panel
/-- R85. -/
def execPanelSwapProgramDone (ok : Bool) (s : State) : Res := .next (opPanelSwapProgramDone ok s)

/-- R71, R638, R687: both copies are written and the switch is journalled, with the pattern floor raised in the same unit. (log entry 29, DEDUCED) -/
def opPatternPersistDone (s : State) : State :=
  match s.pattern with
  | none => s
  | some p =>
    if s.flag Fd.PAT_STATUS_PERSISTED || s.load.isSome then s
    else
      let s : State := { s with bootA := some p, bootB := some p }
      let s := (s.setFld Fd.PAT_STATUS_PERSISTED 1).setFld Fd.PAT_EVT_PERSIST_DONE 1
      let f := fieldOf p.policy 1 31 0
      if s.fld Fd.SEC_PATFLOOR_FLOOR < f then (s.raise Fd.SEC_PATFLOOR_FLOOR f).keyWrite rowPattern else s
/-- R71. -/
def execPatternPersistDone (s : State) : Res := .next (opPatternPersistDone s)

end Sys2Proof.Machine
end

