-- ==== Sys2Proof/Machine/Power.lean ====
section
/-!
DEFINITION. Power, clocks and resets of a part that runs: DTIME and its sources, the power cap, thermal steps, power states, tenant and island resets, a function reset,
FLR, events read by the management controller, and the TAP (R490, R661 to R678, R688 to R696, R706, R707, R712, R716, R719).
-/
namespace Sys2Proof.Machine

/-! ### DTIME (R665, R666, R694, R695) -/

/-- Put what the part remembers of its power. -/
def State.setPower (s : State) (p : Power) : State := { s with power := p }

/-- The rate adjustment while an offset is slewed away, in ppb (R666). -/
def slewPpb (o : Int) : Int := if o = 0 then 0 else if 0 < o then 100000 else -100000

/-- DTIME slews: its rate is changed until the offset is gone. (log entry 92, DEDUCED) -/
def State.slewBy (s : State) (o : Int) : State :=
  (s.setPower { s.power with slew := o }).setFld Fd.PWR_DTCTL_RATEPPB (intBits 32 (slewPpb o))

/-- An offset in ns as OFFNS shows it: saturating, two's complement (R695). -/
def offImage (o : Int) : Nat := intBits 16 (max (-32768) (min 32767 o))

/-- Whether a deadline can be pending (R666): a tenant is ACTIVE or DRAINING. -/
def tenantsServe (s : State) : Bool :=
  (s.regIdx .TNT_STATE).any fun t => s.tstate t == TState.active.code || s.tstate t == TState.draining.code

/-- R666: an offset of DTIME behind its source is applied: stepped where the source is ahead and no tenant is ACTIVE or DRAINING, else slewed. (log entry 92, DEDUCED) -/
def State.applyOffset (s : State) (o : Int) : State :=
  let s := s.setFld Fd.PWR_DTCTL_OFFNS (offImage o)
  if 0 < o ∧ !tenantsServe s then
    (({ s with dtime := s.dtime + o.toNat } : State).slewBy 0).setFld Fd.PWR_DTCTL_STEPPED 1
  else s.slewBy o

/-- R666: the clock is locked while its offset is within a bound; the first lock makes DTIME valid. (log entry 92, DEDUCED) -/
def State.lockWithin (s : State) (o : Int) (bound : Nat) : State :=
  if o.natAbs ≤ bound then (s.setFld Fd.PWR_DTCTL_LOCKED 1).setFld Fd.PWR_DTCTL_VALID 1 else s.setFld Fd.PWR_DTCTL_LOCKED 0

/-- Modes of PWR_DTCTL (R666). -/
def modePtp : Nat := 2
/-- R666. -/
def modeRing : Nat := 3

/-- R666, R694: PWR_DTSET, in HOST and FREE modes. (log entry 92, DEDUCED) -/
def opDtimeSet (v : Word) (s : State) : State :=
  let m := s.fld Fd.PWR_DTCTL_MODE
  if m = modePtp ∨ m = modeRing then s
  else (s.applyOffset ((v.toNat : Int) - s.dtime)).setFld Fd.PWR_DTCTL_VALID 1
/-- R666. -/
def execDtimeSet (value : Word) (s : State) : Res := .next (opDtimeSet value s)

/-- R490, R666: a PTP event message is timestamped; in PTP mode, on the port and in the domain that PWR_DTCTL names, the offset that its exchange has found disciplines
DTIME. (log entry 92, DEDUCED) -/
def opPtpEventMessage (m : PtpMsg) (s : State) : State :=
  let s := s.emit (.ptpStamp m.port s.dtime)
  if s.fld Fd.PWR_DTCTL_MODE = modePtp ∧ m.port = s.fld Fd.PWR_DTCTL_PTPPORT ∧ m.domain = s.fld Fd.PWR_DTCTL_PTPDOM then
    match m.offset with
    | some o => (s.applyOffset o).lockWithin o 1000
    | none => s
  else s
/-- R490. -/
def execPtpEventMessage (msg : PtpMsg) (now : Nat) (s : State) : Res := .next (opPtpEventMessage msg (s.at_ now))

/-- R666, R424: an exchange of timestamps on the ring: the offset of DTIME behind ring position 0, and the largest offset to a neighbour. (log entry 92, DEDUCED) -/
def opRingTimeExchange (o : Int) (neighbour : Nat) (s : State) : State :=
  let formed := s.fld Fd.SNL_RING_STATE == ringFormed
  let s := s.setFld Fd.SNL_CASC_DTOFF (min neighbour 65535)
  let s := s.setFld Fd.SNL_CASC_CASCOK (b2n (formed && decide (neighbour ≤ 20)))
  if formed ∧ s.fld Fd.PWR_DTCTL_MODE = modeRing ∧ ringPos s ≠ 0 then (s.applyOffset o).lockWithin o 20 else s
/-- R666. -/
def execRingTimeExchange (offset : Int) (neighbour now : Nat) (s : State) : Res := .next (opRingTimeExchange offset neighbour (s.at_ now))

/-- R712: at a whole second of DTIME, while it is valid, PPS_OUT rises for 100 ms. -/
def opPpsPulse (s : State) : State :=
  if s.flag Fd.PWR_DTCTL_VALID && s.dtime % 1000000000 == 0 then s.emit (.pps s.dtime) else s
/-- R712. -/
def execPpsPulse (now : Nat) (s : State) : Res := .next (opPpsPulse (s.at_ now))

/-- One nanosecond of the system reference: DTIME counts, faster or slower by the rate adjustment, until the offset that it slews away is gone (R665, R666). It does
not count while the supplies are off or the part is held in cold reset. A rebuild that copies goes on (R587), and an ACTIVATE that can go on to its next phase does. (log entries 1 and 114, DESIGN CHOICE; log entry 92, DEDUCED) -/
def State.tick (s : State) : State :=
  let p := s.power
  if p.stage = .off ∨ p.stage = .noRef ∨ p.stage = .tripped ∨ (p.stage = .held ∧ p.cold) then s
  else
    let gained := (p.frac + 1000000000 + (slewPpb p.slew + 1000000).toNat) - 1000000
    let n := gained / 1000000000
    let left : Int := if n = 1 then p.slew else if n = 0 then min 0 (p.slew + 1) else max 0 (p.slew - 1)
    let s : State := { s with dtime := s.dtime + n, power := { p with frac := gained % 1000000000, slew := left } }
    (if left = 0 ∧ p.slew ≠ 0 then s.setFld Fd.PWR_DTCTL_RATEPPB 0 else s).copyStep.loadAdvance

/-! ### Power and clocks (R663, R669, R707) -/

/-- Design power in W (R5, R669). -/
def designW (s : State) : Nat := if s.fuses.code = 2 then 980 else 1250

/-- R707: a reading of a core-die regulator: three in a row unanswered end the writes to its rail. (log entry 93, DEDUCED) -/
def State.avsRead (s : State) (rail : Nat) (answered : Bool) : State :=
  let n := (mapFind s.avsMiss rail).getD 0
  if 3 ≤ n then s
  else if answered then { s with avsMiss := mapDel rail s.avsMiss }
  else
    let s : State := { s with avsMiss := mapIns rail (n + 1) s.avsMiss }
    if n + 1 = 3 then s.logEv 0x0E01 2 noIsland none rail 0 else s

/-- R669: the power cap moves the clocks of the core islands, once in each 1 ms. (log entry 93, DEDUCED) -/
def State.capStep (s : State) (avg : Nat) : State :=
  let cap := s.fld Fd.PWR_CTL_CAPW
  if s.dtime < s.power.capAt + 1000000 then s
  else
    let down := if cap < avg then min 1800 (s.capDown + 100) else if 100 * avg < 95 * cap then s.capDown - 100 else s.capDown
    if down = s.capDown then s
    else ({ s with capDown := down, power := { s.power with capAt := s.dtime } } : State).setFld Fd.PWR_STATUS_CAPPING (b2n (down != 0))

/-- R669, R690, R707: the MGC reads the rails: the 1 ms averages of the package, the HBM and the core-die rails, and the 100 µs average of the package, all in W; and
whether each core-die regulator answered. (log entry 93, DEDUCED) -/
def opPowerSample (avg peak hbm cd : Nat) (avs0 avs1 : Bool) (s : State) : State :=
  let s := ((s.setFld Fd.PWR_MEAS_AVGW (min avg 65535)).setFld Fd.PWR_MEAS_HBMW (min hbm 65535)).setFld Fd.PWR_MEAS_CDW (min cd 65535)
  let s := s.setFld Fd.PWR_MEAS_PEAKW (max (s.fld Fd.PWR_MEAS_PEAKW) (min peak 65535))
  (((s.avsRead 0 avs0).avsRead 1 avs1).capStep avg).syncClocks
/-- R669. -/
def execPowerSample (avgW peakW hbmW cdW : Nat) (avs0 avs1 : Bool) (now : Nat) (s : State) : Res :=
  .next (opPowerSample avgW peakW hbmW cdW avs0 avs1 (s.at_ now))

/-- R663: under ECO an island whose seams carried less than 25 % of their capacity over the last 1 ms is lowered by one step of 25 MHz; else it returns to FINIT. (log entry 93, DEDUCED) -/
def opClockAdjust (i pct : Nat) (s : State) : State :=
  let low := (mapFind s.ecoDown i).getD 0
  let span := match s.pattern with
    | some p => bitsOf (wordAt p.island i) 47 32 - bitsOf (wordAt p.island i) 15 0
    | none => 0
  let low := if s.flag Fd.PWR_CTL_ECO && decide (pct < 25) && islandOn s i then min span (low + 25) else 0
  ({ s with ecoDown := if low = 0 then mapDel i s.ecoDown else mapIns i low s.ecoDown } : State).syncClocks
/-- R663. -/
def execClockAdjust (island : Fin 293) (seamPct : Fin 101) (now : Nat) (s : State) : Res := .next (opClockAdjust island.val seamPct.val (s.at_ now))

/-! ### Temperatures (R670, R671, R691) -/

/-- How far the thermal limits are lowered while calibration defaults are in use (R653). -/
def thermMargin (s : State) : Int := if s.flag Fd.SEC_CAL_DEFAULTS then 6 else 0

/-- The step that a temperature gives, from the thresholds of steps 1 to 3 and the step so far (R670): a step ends 3 °C below its threshold. -/
def stepOf (ths : List Int) (cur : Nat) (t : Int) : Nat :=
  (ths.zipIdx.filter fun e => decide (e.1 ≤ t) || (decide (e.2 < cur) && decide (e.1 - 3 < t))).foldl (fun m e => max m (e.2 + 1)) 0

/-- Thresholds of a core die (R670, R653). (log entry 93, DEDUCED) -/
def dieSteps (s : State) : List Int := [95, 100, 103].map fun t => t - thermMargin s
/-- Thresholds of a stack. (log entry 93, DEDUCED) -/
def stackSteps (s : State) : List Int := [85, 90, 93].map fun t => t - thermMargin s

/-- The steps of the stacks, two bits each (R691). -/
def stackStepWord (s : State) (ts : List Int) : Nat :=
  ((List.range 12).map fun i => stepOf (stackSteps s) (natBits (s.fld Fd.PWR_THERM_SSTEP) (2 * i + 1) (2 * i)) (ts.getD i 0) * 2 ^ (2 * i)).sum

/-- R670: the sensors are read: the hottest of each logic die, and of each stack. (log entry 93, DEDUCED) -/
def opThermalStep (cd0 cd1 xd : Int) (stackTemps : List Int) (s : State) : State :=
  let s0 := stepOf (dieSteps s) (s.fld Fd.PWR_THERM_STEP0) cd0
  let s1 := stepOf (dieSteps s) (s.fld Fd.PWR_THERM_STEP1) cd1
  let ss := stackStepWord s stackTemps
  let rises := decide (s.fld Fd.PWR_THERM_STEP0 < s0) || decide (s.fld Fd.PWR_THERM_STEP1 < s1) ||
    (List.range 12).any fun i => decide (natBits (s.fld Fd.PWR_THERM_SSTEP) (2 * i + 1) (2 * i) < natBits ss (2 * i + 1) (2 * i))
  let hot := (stackTemps.take 12).foldl max (stackTemps.headD 0)
  let s := s.setReg .PWR_THERM 0 (packWord [(56, intBits 8 cd0), (48, intBits 8 cd1), (40, intBits 8 xd), (32, intBits 8 hot), (8, ss), (2, s1), (0, s0)])
  let s := s.syncClocks
  if rises then s.logEv 0x0E02 1 noIsland none (s.reg .PWR_THERM).toNat 0 else s
/-- R670. -/
def execThermalStep (cd0 cd1 xd : Int) (stackTemps : List Int) (now : Nat) (s : State) : Res := .next (opThermalStep cd0 cd1 xd stackTemps (s.at_ now))

/-! ### Power states (R668) -/

/-- What keeps the part ACTIVE: a command in flight, a request or staging that waits, a load, a rebuild or a self-test. (log entry 94, DEDUCED) -/
def busyNow (s : State) : Bool :=
  !s.inflight.isEmpty || !s.lineQ.isEmpty || !s.viewWaits.isEmpty || s.load.isSome || s.fld Fd.RAS_REBUILD_PHASE != 0 ||
    s.flag Fd.RAS_STATUS_SELFTEST || s.flag Fd.PGT_RECOV_REBUILD

/-- R668: QUIET, once there has been no command, access or steward work for 1 ms. (log entry 94, DEDUCED) -/
def opQuietEntry (idleUs : Nat) (s : State) : State :=
  if !mediaReady s || s.fld Fd.PWR_STATUS_PSTATE != 0 || busyNow s || decide (idleUs < 1000) then s
  else ({ s with power := { s.power with quietAt := s.dtime } } : State).setFld Fd.PWR_STATUS_PSTATE 1
/-- R668. -/
def execQuietEntry (idleUs now : Nat) (s : State) : Res := .next (opQuietEntry idleUs (s.at_ now))

/-- Work that keeps the part out of STANDBY (R668): stash, fold, collection, retirement or shred pending. (log entry 94, DEDUCED) -/
def workPending (s : State) : Bool :=
  s.chunks.any (fun e => e.2.pages.any (stashQueued e.2)) || s.images.any (fun e => !e.2.durable) || s.fld Fd.FLT_SPACE_FOLD != 0 ||
    s.fld Fd.FLT_SPACE_GC != 0 || s.units.any (fun e => e.2.pend || (e.2.failed && !e.2.retired)) || s.eraseLists.any (fun e => e.2 != []) ||
    s.gens.any fun e => e.2.any fun g => g.st == .retiring

/-- R668: STANDBY, after STBYMS of QUIET with STBYEN set and no work pending. (log entry 94, DEDUCED) -/
def opStandbyEntry (s : State) : State :=
  if s.fld Fd.PWR_STATUS_PSTATE != 1 || !s.flag Fd.PWR_CTL_STBYEN || decide (s.dtime < s.power.quietAt + 1000000 * s.fld Fd.PWR_CTL_STBYMS) ||
      busyNow s || workPending s then s
  else s.setFld Fd.PWR_STATUS_PSTATE 2
/-- R668. -/
def execStandbyEntry (now : Nat) (s : State) : Res := .next (opStandbyEntry (s.at_ now))

/-- R668: the first HBM access or command ends STANDBY. (log entry 94, DEDUCED) -/
def opStandbyExit (s : State) : State := if s.fld Fd.PWR_STATUS_PSTATE = 2 then s.wake else s
/-- R668. -/
def execStandbyExit (now : Nat) (s : State) : Res := .next (opStandbyExit (s.at_ now))

/-! ### Tenant, island and function resets (R672, R676, R677, R692) -/

/-- The fields of a write of PWR_RST; ACTION reads zero. (log entry 95, DEDUCED) -/
def State.writePwrRst (s : State) (v : Word) : State := (s.setFld Fd.PWR_RST_ISLAND (bitsOf v 40 32)).setFld Fd.PWR_RST_TENANT (bitsOf v 25 16)

/-- R676: a tenant reset: DISABLE, and ENABLE once DISABLED. A write while an action runs is dropped. (log entry 95, DEDUCED) -/
def opTenantReset (v : Word) (s : State) : State :=
  if s.tenantResets ≠ [] then s
  else
    let s := s.writePwrRst v
    let t := bitsOf v 25 16
    if !s.active t then s.setFld Fd.PWR_RST_ERR 1
    else (({ s with tenantResets := [t] } : State).setFld Fd.PWR_RST_ERR 0).drainTenant t
/-- R676. -/
def execTenantReset (value : Word) (s : State) : Res := .next (opTenantReset value s)

/-- The channels of a flash channel group (R23). -/
def inGroup (g : FlashGeo) (n u : Nat) : Bool := g.chanOf u / 8 == n

/-- R677: the group's programs in progress are written again from HBM into other units; its reads and erases are issued again. (log entry 95, DEDUCED) -/
def State.resetGroup (s : State) (n : Nat) : State :=
  match s.flash with
  | none => s
  | some g =>
    let hit := s.images.filter fun e => !e.2.progd && e.2.places.any fun p => inGroup g n p.unit
    let us := hit.flatMap fun e => (e.2.places.filter fun p => inGroup g n p.unit).map fun p => p.unit
    let s : State := { s with units := mapVals (fun u x => if us.contains u then { x with opened := none } else x) s.units }
    let redo (s : State) (e : Nat × FlashImage) : State :=
      let lost := ((e.2.places.filter fun p => inGroup g n p.unit).map fun p => p.cw).sum
      match s.placeImage (e.2.handle % 8) 1 (imageHolder s e.2) lost with
      | some (s, more) =>
        let x : FlashImage := { e.2 with places := e.2.places.filter (fun (p : Place) => !inGroup g n p.unit) ++ more }
        { s with images := mapIns e.1 x s.images }
      | none => s
    (hit.foldl redo s).fltSync

/-- R677: an island reset; kinds that have none, and unused IDs, are refused with RANGE. (log entry 95, DEDUCED) -/
def opIslandReset (v : Word) (s : State) : State :=
  if s.tenantResets ≠ [] then s
  else
    let s := (s.writePwrRst v).setFld Fd.PWR_RST_ERR 0
    let i := bitsOf v 40 32
    if i < 256 then s
    else if 268 ≤ i ∧ i < 276 then s.resetSteward (i - 268)
    else if 280 ≤ i ∧ i < 282 then (if s.fld Fd.SHT_PORTST_STATE (i - 280) = 0 then s else s.setFld Fd.SHT_PORTST_STATE 1 (i - 280))
    else if 282 ≤ i ∧ i < 284 then (if s.fld Fd.SNL_LINK_STATE (i - 282) = linkUp then s.retrainLink (i - 282) else s)
    else if 284 ≤ i ∧ i < 288 then s.resetGroup (i - 284)
    else s.setFld Fd.PWR_RST_ERR 2
/-- R677. -/
def execIslandReset (value : Word) (now : Nat) (s : State) : Res := .next (opIslandReset value (s.at_ now))

/-- R672: spools, queue pairs, ring contexts and gateways are cleared. (log entry 95, DEDUCED) -/
def State.clearQueues (s : State) : State :=
  let clear (s : State) (k : RegKind) : State := { s with regs := s.regs.filter fun e => e.1 % 256 != k.ctorIdx }
  let ks := [RegKind.SPL_SQS, RegKind.SPL_SQE, RegKind.SPL_CQS, RegKind.SNL_CTX_CTL, RegKind.SNL_CTX_ST, RegKind.SNL_CTX_DL, RegKind.SNL_CTX_TAIL,
    RegKind.GW_CTL, RegKind.GW_RADDR, RegKind.GW_FLADDR, RegKind.GW_ST]
  let s : State := { s with spools := [], comps := [], qps := [], qpKeys := [], rctx := [], gws := [], ringHeld := [], shOut := [], atsCache := [] }
  ks.foldl clear s

/-- R672, R683: a CXL Reset on the operator function: every ACTIVE tenant passes through DRAINING to DISABLED (R130), and the queues are cleared. (log entry 95, DEDUCED) -/
def opFunctionReset (s : State) : State :=
  let s := ((s.regIdx .TNT_STATE).filter s.active).foldl (fun s t => s.drainTenant t) s
  s.clearQueues
/-- R672. -/
def execFunctionReset (s : State) : Res := .next (opFunctionReset s)

/-- R672: an FLR of a host function resets its interrupts, its sessions and its TDI; a sealed tenant's binding is lost with that (R635). (log entry 95, DEDUCED) -/
def opFlr (h : Nat) (s : State) : State :=
  let s := s.tdiTo h 0
  { s with
    sessions := s.sessions.filter fun e => e.2.fn != h
    evPolicy := s.evPolicy.filter fun e => e.1 / 8 != h }
/-- R672. -/
def execFlr (host : HostId) (s : State) : Res := .next (opFlr host.val s)

/-! ### Pins and the TAP (R716, R719) -/

/-- ALERT_N is low while an event waits (R716). -/
def alertLow (s : State) : Bool := !s.mctp.isEmpty

/-- R716: the management controller reads the oldest event that waits. -/
def opPlatformEventRead (s : State) : State :=
  match s.mctp with
  | [] => s
  | e :: rest => ({ s with mctp := rest } : State).emit (.platformEvent e.1 e.2)
/-- R716. -/
def execPlatformEventRead (s : State) : Res := .next (opPlatformEventRead s)

/-- Whether maker test may be open, so that the TAP has instructions that the spec does not describe (R644, R719). (log entry 9, DEDUCED) -/
def makerState (s : State) : Bool := s.fld Fd.SEC_LC_STATE == 0 || s.fld Fd.SEC_LC_STATE == 1 || s.fld Fd.SEC_LC_STATE == 4

/-- R719: an instruction of the TAP with what the balls carry and what is shifted into the boundary cells. (log entry 100, DEDUCED) -/
def opJtagInstruction (op : JtagOp) (pins cells : List Bool) (s : State) : State :=
  let j := s.jtag
  match op with
  | .samplePreload => { s with jtag := { op, cells, balls := 0 } }.emit (.tdo pins)
  | .extest => { s with jtag := { op, cells, balls := 1 } }.emit (.tdo pins)
  | .extestPulse => { s with jtag := { op, cells, balls := 3 } }.emit (.tdo pins)
  | .extestTrain => { s with jtag := { op, cells, balls := 4 } }.emit (.tdo pins)
  | .clamp => { s with jtag := { j with op, balls := 1 } }.emit (.tdo [false])
  | .highz => { s with jtag := { j with op, balls := 2 } }.emit (.tdo [false])
  | .idcode => { s with jtag := { j with op, balls := 0 } }.emit (.tdo Config.idcode)
  | _ => { s with jtag := { j with op := .bypass, balls := 0 } }.emit (.tdo [false])

/-- R719: every other code is BYPASS, but in BLANK, PROVISIONED and RETURN, where the spec does not describe it. (log entry 9, DEDUCED) -/
def execJtagInstruction (op : JtagOp) (pins cells : List Bool) (s : State) : Res :=
  match op with
  | .other _ => if makerState s then .refused .debugBlock else .next (opJtagInstruction op pins cells s)
  | _ => .next (opJtagInstruction op pins cells s)

end Sys2Proof.Machine
end

