-- ==== Sys2Proof/Machine/Reset.lean ====
section
/-!
DEFINITION. Power-on, PERST#, power failure and thermal trip; what a warm and a cold reset keep; start-up from ROM to media ready
(R71, R72, R534, R546, R555 to R558, R582, R599, R640 to R649, R653, R661, R671 to R687, R713 to R715).
-/
namespace Sys2Proof.Machine

/-! ### The part stops (R671, R673, R674) -/

/-- Volatile work in flight ends without a completion entry (R674): commands, requests and messages that wait, and what host links carried. Pages that were being staged are on
flash still, and the holds of interrupted DELIVERs run on to the end they would have had at this moment (R266, R681). (log entry 96, DEDUCED) -/
def State.interrupt (s : State) : State :=
  let holdEnd (c : Cmd) : Nat :=
    let deadline := (wordAt c.words 2).toNat
    max s.dtime ((if deadline = 0 then s.dtime else deadline) + fieldOf c.words 1 47 32 * 1000000)
  let s := (s.inflight.filter fun c => c.opcode == Oc.deliver).foldl (fun s c => s.endHolds c.uid (some (holdEnd c))) s
  let land (p : Page) : Page := if p.st = .staging then { p with st := .flash } else p
  let s : State := { s with
    inflight := [], lineQ := [], snoops := [], viewWaits := [], curLog := [], heldActs := [], ringHeld := [], ringOut := [], camReqs := []
    shOut := [], pfcUntil := [], buckets := [], wheels := [], devLevels := []
    chunks := mapVals (fun _ c => { c with pages := c.pages.map land }) s.chunks }
  s.reclaim

/-- A part that has stopped serves nothing: media is not ready, and the tenants that ran are DISABLED, as every start restores them (R683). (log entry 35, DEDUCED) -/
def State.stopped (s : State) (g : Stage) : State :=
  let s := s.setFld Fd.PWR_STATUS_MEDIA 0
  let s := ((s.regIdx .TNT_STATE).filter fun t => s.tstate t == TState.active.code || s.tstate t == TState.draining.code).foldl
    (fun s t => s.toState t .disabled) s
  s.setPower { s.power with stage := g }

/-- Every host link that is up goes down, and its hosts are lost (R456, R672). (log entry 96, DEDUCED) -/
def State.dropLinks (s : State) : State :=
  (List.range 8).foldl (fun s l => if linkEstablished s l then (linkHosts s l).foldl (fun s h => s.loseHost h) (s.linkLost l) else s) s

/-- What waits for the journal becomes durable, where firmware runs that keeps one (R544). (log entry 96, DEDUCED) -/
def State.saveJournal (s : State) : State := if s.fwRun.isSome then s.flushJournal else s

/-- R673: the quiesce: host links go down, every command stops with its journalled units applied whole or not at all, programs in progress complete, and the journal is
durable. (log entries 48 and 96, DEDUCED) -/
def State.quiesceAll (s : State) : State :=
  let s := s.dropLinks.interrupt
  let s : State := { s with images := mapVals (fun _ (i : FlashImage) => { i with progd := true }) s.images }
  (s.stopped .held).saveJournal

/-- R673: PERST# asserts: a part that runs quiesces; the next start is warm while the rails hold (R672). After a flush the reset is cold (R558). (log entry 96, DEDUCED) -/
def opPerstAssert (s : State) : State :=
  match s.power.stage with
  | .up | .starting => (s.quiesceAll).setPower { s.power with stage := .held, cause := if s.power.cold then s.power.cause else 1 }
  | .waiting => s.setPower { s.power with stage := .held }
  | .flushed => s.setPower { s.power with stage := .held, cold := true, cause := 4 }
  | _ => s
/-- R673. -/
def execPerstAssert (now : Nat) (s : State) : Res := .next (opPerstAssert (s.at_ now))

/-- R672: the MGC watchdog expires: the part makes the warm reset itself, and every host link goes down. (log entry 97, DEDUCED) -/
def opWatchdogExpiry (s : State) : State :=
  match s.power.stage with
  | .up | .starting => (s.quiesceAll).setPower { s.power with stage := .held, cause := if s.power.cold then s.power.cause else 5 }
  | _ => s
/-- R672. -/
def execWatchdogExpiry (now : Nat) (s : State) : Res := .next (opWatchdogExpiry (s.at_ now))

/-! ### Power failure (R556 to R558, R713) -/

/-- R556: the flush: no new operation starts, links go down, the journal buffers and the seal records are programmed, and the last-state record is taken. `saved` is false where
power ran out before the journal buffers were programmed, and `whole` where a channel's seal record is missing (R557, R558). (log entry 96, DEDUCED) -/
def State.flush (s : State) (us : Nat) (saved whole : Bool) : State :=
  let s := s.dropLinks.interrupt
  let s := if saved then s.saveJournal else s
  let s := (s.stopped .flushed).snapshot
  s.setPower { s.power with cold := true, cause := 4, flushed := true, flushUs := min us (2 ^ 32 - 1), sealWhole := saved && whole }

/-- R556, R713: PWR_FAIL_N has been low for 2 µs: a part that runs, or quiesces, flushes; after that only a cold reset brings media back (R558). (log entry 96, DEDUCED) -/
def opPowerFailFlush (us : Nat) (saved whole : Bool) (s : State) : State :=
  let low (s : State) : State := s.setPower { s.power with pfLow := true }
  match s.power.stage with
  | .up | .starting => low (s.flush us saved whole)
  | _ => low s
/-- R556. -/
def execPowerFailFlush (flushUs : Nat) (saved sealWhole : Bool) (now : Nat) (s : State) : Res :=
  .next (opPowerFailFlush flushUs saved sealWhole (s.at_ now))

/-- R713: PWR_FAIL_N returns high. (log entry 97, DEDUCED) -/
def opPwrFailNDeassert (s : State) : State :=
  if s.power.pfLow then s.setPower { s.power with pfLow := false, pfHigh := s.dtime } else s
/-- R713. -/
def execPwrFailNDeassert (now : Nat) (s : State) : Res := .next (opPwrFailNDeassert (s.at_ now))

/-- R672, R673: a main rail leaves regulation: the next PERST# is a cold reset; during a quiesce the power-fail flush takes over. -/
def opRailLeavesRegulation (inQuiesce : Bool) (us : Nat) (saved whole : Bool) (s : State) : State :=
  let p := s.power
  if p.stage = .off ∨ p.stage = .tripped then s
  else if inQuiesce ∧ p.stage = .held ∧ !p.cold then s.flush us saved whole
  else s.setPower { p with cold := true, cause := if p.cold then p.cause else 2 }
/-- R673. -/
def execRailLeavesRegulation (inQuiesce : Bool) (flushUs : Nat) (saved sealWhole : Bool) (s : State) : Res :=
  .next (opRailLeavesRegulation inQuiesce flushUs saved sealWhole s)

/-- R671, R714: a comparator finds a die at 110 °C or a stack at 100 °C, 6 °C lower with calibration defaults (R653): THERMTRIP_N goes low, every island stops, and the
part is held until its supplies are removed. No flush is made. -/
def opThermalTrip (die : Bool) (temp : Int) (s : State) : State :=
  let p := s.power
  if p.stage = .off ∨ p.stage = .tripped ∨ temp < (if die then 110 else 100) - thermMargin s then s
  else
    let s := (s.interrupt).stopped .tripped
    (s.setPower { s.power with cold := true, cause := 3 }).emit .thermTrip
/-- R671. -/
def execThermalTrip (die : Bool) (temp : Int) (s : State) : Res := .next (opThermalTrip die temp s)

/-- R714, R715: the supplies are removed and VDD_AON falls: the latches of THERMTRIP_N and REPLACE_N are released. A start that follows no flush and no trip is a
power-on. -/
def opSuppliesRemoved (s : State) : State :=
  let p := s.power
  if p.stage = .off then s
  else
    let cause := if p.stage = .tripped ∨ p.stage = .flushed ∨ (p.cold ∧ (p.cause = 3 ∨ p.cause = 4)) then p.cause else 0
    let s := (s.interrupt).stopped .off
    { s with replaceN := false, power := { s.power with cold := true, cause, aonFresh := true } }
/-- R714. -/
def execSuppliesRemoved (s : State) : Res := .next (opSuppliesRemoved s)

/-- R661: the system reference is lost: the part holds itself in cold reset. The spec gives that cold reset no CAUSE: a free value. (log entry 97, DEDUCED) -/
def opSystemReferenceLost (s : State) : State :=
  let p := s.power
  if p.stage = .off ∨ p.stage = .noRef ∨ p.stage = .tripped then s
  else
    let cause := if p.stage = .flushed ∨ (p.cold ∧ (p.cause = 3 ∨ p.cause = 4)) then p.cause else s.free % 6
    let s := (s.drawn.interrupt).stopped .noRef
    s.setPower { s.power with cold := true, cause }
/-- R661. -/
def execSystemReferenceLost (s : State) : Res := .next (opSystemReferenceLost s)

/-- R672: the rails and references are up: the part is held in cold reset until PERST# deasserts. (log entry 97, DEDUCED) -/
def opPowerOn (s : State) : State :=
  if s.power.stage = .off ∨ s.power.stage = .noRef then s.setPower { s.power with stage := .held, cold := true } else s
/-- R672. -/
def execPowerOn (s : State) : Res := .next (opPowerOn s)

/-! ### What a reset keeps (R17, R672, R675) -/

/-- Registers all of whose fields are kept through every reset, or follow a key-store row (R570 to R572, R576, R610, R612, R614, R655, R659, R660). (log entry 98, DEDUCED) -/
def keptKinds : List RegKind :=
  [RegKind.FLT_WEAR, RegKind.FLT_SPARE, RegKind.FLT_ERR0, RegKind.FLT_ERR1, RegKind.FLT_TEMP, RegKind.RAS_SCRUB, RegKind.RAS_POISON, RegKind.RAS_CORERET]
  ++ [RegKind.SEC_LC, RegKind.SEC_TSTAT, RegKind.SEC_GSTAT]

/-- Fields kept through every reset in registers that are not (R574, R575, R606, R607, R611, R650, R656, R657). (log entry 98, DEDUCED) -/
def keptFields : List Field :=
  [Fd.FLT_SHRED_UNERASED, Fd.FLT_CH_UNCORR, Fd.RAS_STATUS_CORESRET, Fd.RAS_STATUS_LOSTMAP, Fd.RAS_STATUS_INSVC, Fd.RAS_STATUS_REPLACE, Fd.RAS_STATUS_STATE]
  ++ [Fd.RAS_REPL_FLCHAN, Fd.RAS_REPL_FLWEAR, Fd.RAS_REPL_FLSPARE, Fd.RAS_REPL_CORES, Fd.RAS_REPL_SHORT, Fd.RAS_REPL_FAILED, Fd.RAS_REPL_STACKLOST]
  ++ [Fd.RAS_HBM_HARD, Fd.RAS_HBM_RECON, Fd.SEC_FW_PREF, Fd.SEC_FLOOR_MANFLOOR, Fd.SEC_FLOOR_FTFFLOOR, Fd.SEC_FLOOR_MFWFLOOR, Fd.SEC_PATFLOOR_FLOOR]
  ++ [Fd.SEC_CAL_WRITES, Fd.SEC_NVS_MAXWR]

/-- What a warm reset keeps besides (R665, R681, R684, R736): the LOG's numbering, a rebuild that goes on, the orphan log's overflow, and whether DTIME is valid. (log entry 98, DEDUCED) -/
def warmFields : List Field :=
  [Fd.LOG_PTR_OLDEST, Fd.LOG_PTR_WRITTEN, Fd.RAS_STATUS_REBUILD, Fd.RAS_STATUS_SELFTEST, Fd.RAS_HBM_STATE, Fd.CXL_ORPH_OVF, Fd.CXL_ORPH_SCAN, Fd.PWR_DTCTL_VALID]
  ++ [Fd.RAS_REBUILD_TOTALGIB, Fd.RAS_REBUILD_DONEGIB, Fd.RAS_REBUILD_STACK, Fd.RAS_REBUILD_PHASE]

/-- The word a register takes at a reset: its reset word, with the fields that are kept. (log entry 98, DEDUCED) -/
def keptWord (warm : Bool) (k : RegKind) (i : Nat) (w : Word) : Word :=
  if keptKinds.contains k then w
  else
    let fs := k.fields.filter fun f => keptFields.contains f || (warm && (f.acc == .rws || warmFields.contains f))
    writeFields fs (k.resetWord i) w

/-- The kind of a stored register. -/
def kindOfKey (key : Nat) : Option RegKind := RegKind.all.find? fun k => k.ctorIdx == key % 256

/-- The register file after a reset: kept fields from before, and the journalled records (R675). (log entry 98, DEDUCED) -/
def resetRegs (warm : Bool) (now saved : NMap Word) : NMap Word :=
  let kept := (now.filter fun e => !regAmong journalled e.1).filterMap fun e => (kindOfKey e.1).map fun k => (e.1, keptWord warm k (e.1 / 256) e.2)
  (saved.filter fun e => regAmong journalled e.1).foldl (fun m e => mapIns e.1 e.2 m) kept

/-- What every reset clears beside the registers (R672, R675): spools, queue pairs, ring contexts, gateways, sessions, TDIs, streams' keys, and the firmware's own work. (log entry 98, DEDUCED) -/
def State.clearVolatile (s : State) : State :=
  { s.clearQueues.skipSerials with
    staging := [], load := none, bg := { opcode := 0, running := false, ret := 0, vendor := 0 }, pattern := none
    sessions := [], tdis := [], signed := [], nonce := none, ideKeys := [], fwRun := none, measured := [], fwWriter := 0, stewards := []
    capDown := 0, ecoDown := [], avsMiss := [], lastSlow := none, tenantResets := [], mctp := [], rlinks := [], rotor := 0
    viewSlots := [], viewCache := [], pbase := [], uaLogAt := none, denyLogAt := none, unbackedLogAt := none
    evPolicy := [], lostHosts := [], snoopFilter := [], hdm := []
    reconTimes := [], reconLog := [], victims := [], histPages := 0 }

/-- The ports take their bifurcation as they train after PERST# (R435), and the links have not trained. -/
def State.captureLinks (s : State) : State :=
  { s with linkIn := (List.range 4).map fun n => (16 + n, s.reg .CXL_PORTCFG n) }

/-! ### The cache after a cold start (R546, R555, R682, R684) -/

/-- Stacks in service. -/
def inService12 (s : State) : Nat := (List.range 12).countP fun i => !stackLost s i

/-- Raw size of a stack in superframes (R5, R232): 48 GiB, 36 GiB on an M part. -/
def stackSf (s : State) : Nat := 512 * (if s.fuses.code = 2 then 36 else 48)

/-- The metadata region (R232): 24 GiB, 18 GiB on an M part. -/
def metaSize (s : State) : Nat := if s.fuses.code = 2 then 9216 else 12288

/-- R590: the layout over the stacks in service: one granule of a row is parity. (log entry 99, DEDUCED) -/
def State.layoutNow (s : State) : State :=
  let n := inService12 s
  { s with rowN := n - 1, metaSf := metaSize s, cacheSf := (n - 1) * stackSf s - metaSize s }

/-- A page after a cold start, by its record: on flash where its image is durable, poisoned where it was, else without content. (log entry 47, DEDUCED) -/
def coldPage (images : NMap FlashImage) (p : Page) : Page :=
  let on : Bool := match p.image with
    | some k => ((mapFind images k).map fun i => i.durable).getD false
    | none => false
  let gone (st : PState) (image : Option Nat) : Page := { p with st, frame := none, image, ctr := 0, holds := [], acc := List.replicate 8 0, passes := 0 }
  match p.st with
  | .poisoned => gone .poisoned none
  | .raw | .dirty | .clean | .flash | .staging => if on then gone .flash p.image else gone .dropped none
  | st => gone st none

/-- R682: a committed chunk is on flash where every page that has content has a durable image and the chunk is not volatile, and else HOLLOW. (log entry 47, DEDUCED) -/
def coldChunk (s : State) (images : NMap FlashImage) (c : Chunk) : Chunk :=
  let ps := c.pages.map (coldPage images)
  let whole := !c.isVolatile && !c.hollow && ps.all fun p => p.st != .dropped
  let hollowed (p : Page) : Page := if p.st = .poisoned then p else { p with st := .dropped, image := none }
  { c with
    pages := if whole then ps else ps.map hollowed
    hollow := !whole, hollowAt := if whole ∨ c.hollow then c.hollowAt else s.dtime, acc := 0, hotroot := false }

/-- R682: the map and the metadata as of the last durable record. (log entry 47, DEDUCED) -/
def State.restoreCache (s : State) : State :=
  let v := s.saved
  let chunks := (v.chunks.filter fun e => e.2.committed).map fun e => (e.1, coldChunk s v.images e.2)
  let live (h : Nat) : Bool := chunks.any fun e => e.1 == h
  let seqs := (v.seqs.map fun e => (e.1, { e.2 with chain := e.2.chain.filter live })).filter fun e => e.2.chain ≠ []
  ({ s with
    chunks, seqs, pins := v.pins.filter fun e => live (e.1 % chunkHandles), images := v.images, gens := v.gens, geom := v.geom
    frames := [], epochs := [], histPages := 0, plainMem := [], poisonLines := [], orphanLines := [], orphanLog := [], orphanPend := []
    extents := [], released := [], memKey := s.free, streams := [] } : State).drawn.reclaim

/-- R555: units on the pending-erase list are erased, and every open unit is closed. -/
def State.cleanUnits (s : State) : State :=
  let f (_ : Nat) (x : EraseUnit) : EraseUnit :=
    if x.pend && !x.failed && !x.retired then { EraseUnit.fresh with ec := x.ec + 1, promoted := x.promoted } else { x with opened := none }
  { s with units := mapVals f s.units }

/-- R531: a target that may be taken into service. -/
def FlashFound.meets (f : FlashFound) : Bool :=
  decide (50 ≤ f.onfi) && f.lpddr4 && f.page == 16384 && decide (2048 ≤ f.spare) && f.planes == 4 && f.multiPlane &&
    decide (1 ≤ f.luns) && decide (f.luns ≤ 4) && (f.cell == 1 || f.cell == 2) && f.slcMode &&
    decide (f.tR ≤ 60000) && decide (f.tProg ≤ 3000000) && decide (f.tProgSlc ≤ 300000) && decide (f.tBers ≤ 15000000) && decide (f.tSuspend ≤ 40000) &&
    decide (f.luns * f.planes * f.bpp * f.ppb * f.page ≤ 2 ^ 40)

/-- What all targets in service share (R532); the page size and the plane count are fixed by R531. -/
def FlashFound.like (f : FlashFound) (cell ppb bpp : Nat) : Bool := f.meets && f.cell == cell && f.ppb == ppb && f.bpp == bpp

/-- The target of a parameter page. -/
def FlashFound.target (f : FlashFound) : FlashTarget := { ch := f.ch, ce := f.ce, luns := f.luns, rate := f.rate, inService := true, temp := f.temp, trained := f.temp, late := false }

/-- The targets found that are taken into service: those that meet R531 and are like the first that does, or like those of the flash mounted before (R532). (log entry 99, DEDUCED) -/
def flashTaken (old : Option FlashGeo) (found : List FlashFound) : List FlashFound :=
  match old, found.find? FlashFound.meets with
  | some g, _ => found.filter fun f => f.like g.cell g.ppb g.bpp
  | none, some x => found.filter fun f => f.like x.cell x.ppb x.bpp
  | none, none => []

/-- R532, R534: flash is mounted for the first time, or the targets it had are looked for, and one that answers no more goes out of service (R561); those found and not taken are
reported. (log entry 99, DEDUCED) -/
def State.mountFlash (s : State) (found : List FlashFound) : State :=
  let taken := flashTaken s.flash found
  let out := found.filter fun f => !taken.contains f
  let s := (List.range 32).foldl (fun s c => s.setFld Fd.FLT_CH_EXCL ((out.filter fun f => f.ch == c).map fun f => 2 ^ f.ce).sum c) s
  match s.flash, taken.head? with
  | none, none => s
  | none, some x =>
    let g : FlashGeo := {
      cell := x.cell, ppb := x.ppb, bpp := x.bpp, luns := x.luns, endur := x.endur, targets := taken.map FlashFound.target
      sysUnits := 0, spareUnits := 0, cacheUnits := 0, lost := 0 }
    ({ s with flash := some g.mount } : State).fltSync
  | some g, _ =>
    let here (t : FlashTarget) : Option FlashFound := taken.find? fun f => f.ch == t.ch && f.ce == t.ce
    let seen (t : FlashTarget) : FlashTarget := match here t with
      | some f => { t with rate := f.rate, temp := f.temp, trained := f.temp, late := false }
      | none => t
    let gone := g.targets.filter fun t => t.inService && (here t).isNone
    (gone.foldl (fun s t => opTargetFailed t.ch t.ce s) { s with flash := some (g.withTargets (g.targets.map seen)) }).fltSync

/-- R582, R684, R685: the stacks after a cold reset: the layout of R586 over those that survive. A stack under self-test is lost. (log entry 99, DEDUCED) -/
def State.coldStacks (s : State) (tested : Option Nat) (metaOk : Bool) : State :=
  let s := match tested with
    | some st => (s.setFld Fd.RAS_HBM_STATE 1 st).markLost st 5
    | none => s
  let s := s.layoutNow
  let s := (List.range 12).foldl (fun s i => if stackLost s i then s.setFld Fd.RAS_HBM_STATE 2 i else s) s
  let st := s.fld Fd.RAS_STATUS_STATE
  if st = 2 ∨ (st = 3 ∧ metaOk) then s.setFld Fd.RAS_STATUS_STATE 1 else s

/-! ### Start-up (R72, R642, R643, R648, R653, R679, R683, R686) -/

/-- All the checks of a slot (R648): check 9 is that its firmware starts. -/
def runSlot (s : State) (m : Memory) (starts : Bool) : Except Nat FwPair :=
  match checkSlot s m with
  | .ok f => if starts then .ok f else .error 9
  | .error n => .error n

/-- The code that a slot's checks give. -/
def runCode : Except Nat FwPair → Nat
  | .ok _ => 0
  | .error n => n

/-- A slot's pair runs. -/
def State.runPair (s : State) (slot : Nat) (f : FwPair) : State :=
  let s := s.setFld Fd.SEC_FW_RUN slot
  let s := ((s.setFld Fd.SEC_FW_MFWSVN f.mfwSvn).setFld Fd.SEC_FW_FTFSVN f.ftfSvn).setFld Fd.SEC_FLOOR_MANSVN f.manSvn
  { s with fwRun := some f }

/-- R648, R649: the preferred slot runs, or the other, or the part enters SAFE. -/
def State.chooseSlot (s : State) (startsA startsB : Bool) : State :=
  let a := runSlot s s.slotA startsA
  let b := runSlot s s.slotB startsB
  let pref := s.fld Fd.SEC_FW_PREF
  let codes (s : State) (x y : Nat) : State := (s.setFld Fd.SEC_FW_CODEA x).setFld Fd.SEC_FW_CODEB y
  match (if pref = 0 then (a, b) else (b, a) : Except Nat FwPair × Except Nat FwPair) with
  | (.ok f, _) => (codes s 0 0).runPair pref f
  | (.error n, .ok f) => (if pref = 0 then codes s n 0 else codes s 0 n).runPair (1 - pref) f
  | (.error _, .error _) => ((codes s (runCode a) (runCode b)).setFld Fd.SEC_FW_SAFE 1).mctpEvent 10 3

/-- R644: the ROM opens maker test where the life-cycle state permits it and no crypto-erase is pending. (log entry 97, DEDUCED) -/
def State.romStart (s : State) : State :=
  let s := s.setFld Fd.SEC_LC_MAKERTEST (b2n (makerState s && s.lcTarget.isNone))
  let s := (s.setFld Fd.GLB_ID_STEP s.fuses.step).setReg .GLB_SERIAL 0 s.fuses.serial
  if s.power.aonFresh then { s with replaceN := decide (s.keyRepl ≠ 0), power := { s.power with aonFresh := false } } else s

/-- R651, R653: the calibration block, or safe defaults. (log entry 99, DEDUCED) -/
def State.calibrate (s : State) : State :=
  let ok := calValid s.calib
  ((s.setFld Fd.SEC_CAL_VALID (b2n ok)).setFld Fd.SEC_CAL_DEFAULTS (b2n !ok)).setFld Fd.SEC_CAL_WRITING 0

/-- R683, R686, R633: tenants as a start restores them: a tenant whose key a shred has destroyed is SHREDDING; one that ran is DISABLED; seals follow their records. (log entry 99, DEDUCED) -/
def State.restoreTenants (s : State) : State :=
  let s := s.eraseLists.foldl (fun s e => s.toState e.1 .shredding) s
  let s := ((s.regIdx .TNT_STATE).filter fun t => s.tstate t == TState.active.code || s.tstate t == TState.draining.code).foldl
    (fun s t => s.toState t .disabled) s
  ((s.regIdx .SEC_TSTAT)).foldl (fun s t => if s.tstate t = TState.free.code then s else s.setFld Fd.TNT_STATE_SEALED (s.fld Fd.SEC_TSTAT_SEALED t) t) s

/-- R643: a crypto-erase that a reset landed in resumes. (log entry 90, DEDUCED) -/
def State.resumeErase (s : State) : State :=
  match s.lcTarget with
  | some target => s.cryptoErase.eraseEnds target
  | none => s

/-- Whether a boot copy that reads back whole validates as for ACTIVATE (R72, R76); `old` is the pattern under which HBM was filled, after a warm reset. Its bytes are those
that were validated when it was activated, so what depends on them alone holds still; a start installs no coder table, so check 22 has nothing to refuse (R326). (log entry 99, DEDUCED) -/
def bootOk (s : State) (old : Option Pattern) (p : Pattern) : Bool :=
  let major := ((s.fwRun.map fun f => bitAt f.majors (p.fmtver / 256)).getD false)
  let gen := p.ifgen != 0 && ((s.fwRun.map fun f => f.ifgens.contains p.ifgen).getD false)
  let cores (d : Nat) : Nat := (p.partition.map fun e => if d = 0 then e.1 else e.2).sum
  let bare : Pattern := { p with panels := p.panels.map fun c => { c with tables := [] } }
  major && p.stepset.getLsbD s.fuses.step && gen && signerOk s p.signer && signerKey s p.signer p.keyId && decide (s.fld Fd.SEC_PATFLOOR_FLOOR ≤ p.svn) &&
    decide (cores 0 ≤ goodCores s 0) && decide (cores 1 ≤ goodCores s 1) && (Config.routeFault p.routes (enabledCores s)).isNone &&
    !(hbmHolds s && old.isSome && (old.map fun o => o.swizzle) != some p.swizzle) && (liveChecks { s with pattern := old } bare false 0).isNone

/-- R72, R687: copy A where it reads back whole and validates, or copy B, or no pattern. (log entry 99, DEDUCED) -/
def State.bootPattern (s : State) (old : Option Pattern) (a b : Bool) : State :=
  let pick (p : Option Pattern) (whole : Bool) : Option Pattern := p.filter fun x => whole && bootOk s old x
  match (match pick s.bootA a with | some p => some p | none => pick s.bootB b : Option Pattern) with
  | some p => (s.program p).setFld Fd.PAT_STATUS_PERSISTED 1
  | none =>
    let free (c : CoreRec) : CoreRec := { c with panel := none }
    ({ s with cores := s.cores.map free } : State).checkShort

/-- R729: GEO is filled: GEN is 1 at a cold start and advances at a warm one. -/
def State.fillGeo (s : State) (cold : Bool) : State :=
  ({ s with geoGen := if cold then 0 else s.geoGen, geoUpd := false } : State).geoBump 7

/-- FLT_PF describes the last shutdown (R558, R573), and LOG says that it was a flush. -/
def State.showFlush (s : State) : State :=
  let p := s.power
  let s := s.setReg .FLT_PF 0 (if p.flushed then packWord [(32, p.flushUs), (1, b2n !p.sealWhole), (0, 1)] else 0)
  let s := if p.flushed then s.logEv 0x0C01 0 noIsland none (s.reg .FLT_PF).toNat 0 else s
  s.setPower { s.power with flushed := false }

/-- R599: lasting conditions are raised again from the key store. -/
def State.raiseLasting (s : State) : State :=
  let s := (List.range 7).foldl (fun s b => if bitAt s.keyRepl b then s.setFld (replField b) 1 else s) s
  if s.keyRepl = 0 then s else s.setFld Fd.RAS_STATUS_REPLACE 1

/-- The registers and the volatile state as the reset leaves them (R17, R672, R675, R736). -/
def State.resetTo (s : State) (cold : Bool) : State :=
  let p := s.power
  let s : State := { s.clearVolatile with regs := resetRegs (!cold) s.regs (if cold then s.saved.regs else s.regs), geoUpd := true }
  let s := s.captureLinks
  let s := s.setReg .PWR_BOOT 0 (packWord [(16, 1), (0, p.cause)])
  if !cold then s
  else
    let s : State := { s with dtime := 0, log := [], events := [], evLost := [], power := { s.power with slew := 0, frac := 0, capAt := 0, quietAt := 0 } }
    if s.fuses.code = 2 then s.setFld Fd.PWR_CTL_CAPW 980 else s

/-- R679, phases 4 to 9: HBM, flash, and what the cache holds. -/
def State.startCache (s : State) (x : StartIn) (tested : Option Nat) (cold : Bool) : State :=
  let s := s.calibrate
  let s := if cold then s.coldStacks tested x.metaOk else s
  let s := if cold then s.restoreCache.cleanUnits else s
  let s := s.mountFlash x.targets
  let s := s.resumeErase.restoreTenants.raiseLasting.reclaim
  if cold then s
  else match testedStack s with
    | some st => s.loseStack st 5
    | none => s.recovSync

/-- R679: start-up runs from ROM to the boot pattern. -/
def State.startUp (s : State) (x : StartIn) : State :=
  let cold := s.power.cold
  let old := if cold then none else s.pattern
  let tested := testedStack s
  let s := (s.resetTo cold).romStart.chooseSlot x.startsA x.startsB
  let s := s.setPower { s.power with stage := .starting, cold := inSafe s, coldStart := cold, cause := if inSafe s then 0 else s.power.cause }
  if inSafe s then s.setFld Fd.PWR_BOOT_PHASE 2
  else
    let s := (s.measureFirmware.startCache x tested cold).showFlush
    ((s.bootPattern old x.bootA x.bootB).fillGeo cold).setFld Fd.PWR_BOOT_PHASE 10

/-- R679, R713: PERST# deasserts, or the reset of the watchdog goes on: start-up runs, but waits at phase 1 while PWR_FAIL_N is low, and then until it has been high for
10 ms. (log entries 5 and 97 and 99 and 100, DEDUCED) -/
def opStartup (x : StartIn) (s : State) : State :=
  let p := s.power
  match p.stage with
  | .held => if p.pfLow then (s.setPower { p with stage := .waiting }).setFld Fd.PWR_BOOT_PHASE 1 else s.startUp x
  | .waiting => if p.pfLow ∨ s.dtime < p.pfHigh + 10000000 then s else s.startUp x
  | _ => s
/-- R679. -/
def execStartup (found : StartIn) (now : Nat) (s : State) : Res := .next (opStartup found (s.at_ now))

/-- R639, R678, R679, R680: media ready, after `ms` from PERST# deasserting, in the life-cycle states that make it ready; after a cold start the start-up rebuild begins. -/
def opMediaReady (ms : Nat) (s : State) : State :=
  let lc := s.fld Fd.SEC_LC_STATE
  if s.power.stage ≠ .starting ∨ inSafe s ∨ (lc ≠ 1 ∧ lc ≠ 2) then s
  else
    let s := ((s.setPower { s.power with stage := .up }).setFld Fd.PWR_STATUS_MEDIA 1).measurePattern
    let s := (s.setFld Fd.PWR_BOOT_MRMS (min ms (2 ^ 32 - 1))).setFld Fd.PWR_BOOT_PHASE 11
    let s := if !s.power.coldStart then s else (s.setFld Fd.PGT_RECOV_REBUILD 1).recovSync
    (s.cxlNote operatorFn 0 0x0004 (s.reg .PWR_BOOT).toNat 0).mctpEvent 10 2
/-- R678. -/
def execMediaReady (ms now : Nat) (s : State) : Res := .next (opMediaReady ms (s.at_ now))

/-- R680: the stewards have recounted every reference and charge: the start-up rebuild ends, and recovery forms cease. -/
def opStartupRebuildDone (s : State) : State :=
  if s.flag Fd.PGT_RECOV_REBUILD then ((s.setFld Fd.PGT_RECOV_REBUILD 0).recovSync).reclaim else s
/-- R680. -/
def execStartupRebuildDone (s : State) : Res := .next (opStartupRebuildDone s)

end Sys2Proof.Machine
end

