-- ==== Sys2Proof/Machine/Registers.lean ====
section
/-!
DEFINITION. BAR0 as a whole: where each register lies, what a read of it returns and clears, what a write of it does, the geometry table, GLB and LOG, and accesses to
unallocated offsets (R17 to R19, R132, R133, R722 to R735, R741, R744).
-/
namespace Sys2Proof.Machine

/-! ### Where an offset of BAR0 lies (R98, R722, R744) -/

/-- What an offset of BAR0 reaches. -/
inductive Bar0At where
  | reg (k : RegKind) (i : Nat)
  | geo (a : Nat)
  /-- A reserved register (R18, R98, R114). -/
  | reserved
  /-- The DBG block (R722). -/
  | debug
  | unallocated
  deriving DecidableEq, Repr

/-- The copy of register k that lies at an 8-byte-aligned offset of BAR0. -/
def locateIn (k : RegKind) (a : Nat) : Option Nat :=
  if a < k.base then none
  else
    let r := a - k.base
    match k.dims with
    | [] => if r = 0 then some 0 else none
    | [(n, st)] => if r % st = 0 ∧ r / st < n then some (r / st) else none
    | [(n, st), (m, st2)] => if r % st % st2 = 0 ∧ r % st / st2 < m ∧ r / st < n then some (r / st * m + r % st / st2) else none
    | _ => none

/-- The register and copy at an 8-byte-aligned offset. -/
def locate (a : Nat) : Option (RegKind × Nat) := RegKind.all.findSome? fun k => (locateIn k a).map fun i => (k, i)

/-- The reserved registers of tenant records (R98) and host range entries (R114). -/
def reservedReg (a : Nat) : Bool :=
  (decide (0x00300000 ≤ a) && decide (a < 0x00320000) && decide (0x48 ≤ a % 128)) ||
    (decide (0x00400000 ≤ a) && decide (a < 0x00420000) && a % 32 == 0x18)

/-- What the word of BAR0 at an offset is (R722, R744). (log entry 101, DEDUCED) -/
def bar0At (off : Nat) : Bar0At :=
  let a := off / 8 * 8
  if a < 0x1000 then .geo a
  else if 0x03F00000 ≤ a ∧ a < 0x04000000 then .debug
  else if reservedReg a then .reserved
  else match locate a with
    | some (k, i) => .reg k i
    | none => .unallocated

/-- The life-cycle states in which the DBG block is the maker's (R644, R722): BLANK, PROVISIONED and RETURN. (log entries 9 and 101, DEDUCED) -/
def debugOpen (s : State) : Bool := makerState s

/-! ### The geometry table (R728) -/

/-- Cores of a die that a test holds for. -/
def coreCount (s : State) (d : Nat) (p : CoreRec → Bool) : Nat := s.cores.zipIdx.countP fun e => p e.1 && coreDie e.2 == d

/-- The map of the cores enabled and unretired, word i (R728). -/
def cmapWord (s : State) (i : Nat) : Word :=
  packWord ((List.range 64).map fun j => (j, b2n (s.core (64 * i + j)).good))

/-- PMAPn: the panel of a core (R728). -/
def pmapByte (s : State) (n : Nat) : Nat :=
  let c := s.core n
  if !c.good then 0xFF else c.panel.getD 0xFE

/-- The two words of panel p (R728). -/
def geoPanel (s : State) (p hi : Nat) : Word :=
  let st := s.fld Fd.PANEL_STATE_STATE p
  match panelNum s p with
  | none => 0
  | some c =>
    if st = 0 then 0
    else if hi = 0 then wordAt c.hdr 0
    else packWord [(48, st), (40, s.fld Fd.PANEL_STATE_CORES1 p), (32, s.fld Fd.PANEL_STATE_CORES0 p), (24, s.fld Fd.PANEL_STATE_PLAN p),
      (16, fieldOf c.hdr 1 18 16), (0, fieldOf c.hdr 1 15 0)]

/-- Raw size of a stack in GiB (R5). -/
def stackGib (s : State) : Nat := if s.fuses.code = 2 then 36 else 48

/-- Word 0 of GEO. -/
def geoHead (s : State) : Word :=
  packWord [(32, s.geoGen), (31, b2n s.geoUpd), (16, s.fuses.step), (8, s.fuses.code), (0, 1)]

/-- The words of GEO below 0x100 once it is filled (R728). -/
def geoFixed (s : State) (a : Nat) : Word :=
  match a with
  | 0x000 => geoHead s
  | 0x008 => packWord [(32, s.fld Fd.RAS_STATUS_CORESRET), (24, coreCount s 1 fun c => c.good && c.panel.isSome),
      (16, coreCount s 0 fun c => c.good && c.panel.isSome), (8, coreCount s 1 CoreRec.good), (0, coreCount s 0 CoreRec.good)]
  | 0x010 => packWord [(16, stackGib s), (4, 0xFFF - s.fld Fd.RAS_STATUS_LOSTMAP), (0, s.fld Fd.RAS_STATUS_INSVC)]
  | 0x018 => packWord [(20, s.cacheSf), (0, s.metaSf)]
  | 0x020 => packWord [(25, seqHandles), (0, chunkHandles)]
  | 0x028 => packWord [(27, 4096), (20, 64), (11, 256), (0, 1024)]
  | 0x030 => packWord [(51, 256), (34, 65536), (19, Config.maxInFlight), (0, Config.bobbinCells)]
  | 0x038 => packWord [(19, 32), (0, 262144)]
  | 0x040 => packWord [(24, s.fld Fd.FLT_CAP_CACHEGIB), (9, (List.range 32).countP fun c => s.fld Fd.FLT_CH_TGTMAP c != 0), (0, s.fld Fd.FLT_GEOM_TARGETS)]
  | 0x048 => packWord [(32, dpaExtents s.cacheSf), (16, designW s), (8, s.fld Fd.PAT_STATUS_STATE), (7, s.fld Fd.PAT_STATUS_COMPAT),
      (0, s.fld Fd.PAT_STATUS_NPANEL)]
  | _ => 0

/-- The word of GEO at an aligned offset (R728). While UPD is set every other word reads zero. (log entry 101, DEDUCED) -/
def geoWord (s : State) (a : Nat) : Word :=
  if s.geoUpd then (if a = 0 then geoHead s else 0)
  else if a < 0x100 then geoFixed s a
  else if a < 0x120 then cmapWord s ((a - 0x100) / 8)
  else if 0x200 ≤ a ∧ a < 0x300 then BitVec.ofNat 64 (ofLE ((List.range 8).map fun i => BitVec.ofNat 8 (pmapByte s (a - 0x200 + i))))
  else if 0x400 ≤ a ∧ a < 0x800 then geoPanel s ((a - 0x400) / 16) (a % 16 / 8)
  else 0

/-! ### What a register reads as -/

/-- Cache superframes wholly free, for the placement that the stewards chose (R280). (log entries 45 and 102, DEDUCED) -/
def freeSuperframes (s : State) : Nat :=
  let top := frameEnd s / 4096
  let taken := (s.frames.flatMap fun e => (List.range (ceilDiv (e.1 % 4096 + e.2.ngran) 4096)).map fun i => e.1 / 4096 + i).eraseDups
  top - s.metaSf - taken.countP fun n => decide (n < top)

/-- Coded bytes of DIRTY pages of non-volatile chunks (R281). (log entry 102, DEDUCED) -/
def dirtyBytes (s : State) : Nat :=
  let size (p : Page) : Nat := match p.frame.bind fun f => mapFind s.frames f with
    | some x => (match x.body with | .coded cl _ => codedBytes cl | .raw _ _ => 0)
    | none => 0
  ((s.chunks.filter fun e => e.2.committed && !e.2.isVolatile).flatMap fun e => (e.2.pages.filter fun p => p.st == .dirty).map size).sum

/-- Pages that still have to be re-encoded (R321, R334): one for each frame that a chunk refers to, one for each page whose only image is on flash. (log entry 102, DEDUCED) -/
def pendingReencode (s : State) : Nat :=
  (s.frames.countP fun e => decide (0 < frefs s e.1) && (match e.2.body with | .coded _ bs => usesRetiring s bs | .raw _ _ => false)) +
    (s.images.countP fun e => usesRetiring s e.2.blocks && s.chunks.any fun c => c.2.pages.any fun p => p.image == some e.1 && p.frame.isNone)

/-- Searches in progress (R228). (log entry 102, DEDUCED) -/
def searchesInFlight (s : State) : Nat := s.camReqs.countP (ownSearch s)

/-- The host that reaches BAR0: that of the operator function (R439). (log entry 101, DEDUCED) -/
def operatorHost (s : State) : Nat := fnHost s operatorFn

/-- Whether the part has started, so that a layout of HBM is in force; until then the sizes that follow from it read as they reset. (log entry 102, DEDUCED) -/
def layoutShown (s : State) : Bool := s.power.stage == .up || s.power.stage == .starting

/-- PGT_HBM (R280). (log entry 102, DEDUCED) -/
def hbmWord (s : State) : Word := if layoutShown s then packWord [(18, s.cacheSf), (0, freeSuperframes s)] else 0

/-- CXL_PLAIN (R445). (log entry 102, DEDUCED) -/
def plainWord (s : State) : Word :=
  packWord [(32, if layoutShown s then dpaExtents s.cacheSf else 0), (16, plainExtents s), (0, s.fld Fd.CXL_PLAIN_PLMAX)]

/-- Whether an island has work, so that its clock runs (R26, R27, R52): a core, while its panel executes attention; a memory controller, while anything in flight may reach HBM; a
steward, while a command needs it; a port, while its link is up and a host's request is held; a Shuttle or ring port, while it has frames to send or to see acknowledged; a flash channel
group, while it reads or programs; Selvedge during a crypto-erase; the MGC always, as it serves every register access; the CAM, while it searches; the probe, while a CXL port is in
L0; the bobbin, while it holds cells. (log entry 110, DESIGN CHOICE) -/
def islandWorks (s : State) (i : Nat) : Bool :=
  if i < 256 then (match (s.core i).panel with | some p => decide (0 < s.fld Fd.ATN_PANEL_INEXEC p) | none => false)
  else if i < 268 then busyNow s
  else if i < 276 then s.inflight.any fun c => (handlesOf s c).any fun h => h % 8 == i - 268
  else if i < 280 then (List.range 8).any fun l => l / 2 == i - 276 && linkEstablished s l && ((linkHosts s l).contains (operatorHost s) ||
    s.lineQ.any fun r => (r.host.map fun h => (linkHosts s l).contains h).getD false)
  else if i < 282 then s.shOut.any fun e => e.1 == i - 280
  else if i < 284 then (s.rlink (i - 282)).sent != [] || s.ringOut.any fun e => e.1 == i - 282
  else if i < 288 then (match s.flash with
    | some g => s.images.any fun e => !e.2.progd && e.2.places.any fun p => inGroup g (i - 284) p.unit
    | none => false) || !(readsIssued s).isEmpty
  else if i = 288 then s.lcTarget.isSome
  else if i = 289 then true
  else if i = 290 then decide (0 < searchesInFlight s)
  else if i = 291 then anyPortUp s
  else s.spools.any fun e => e.2.cells != []

/-- PWR_CLK (R696): the clock set for an island, and whether it runs. (log entry 93, DEDUCED; log entry 110, DESIGN CHOICE) -/
def clkWord (s : State) (i : Nat) : Word :=
  if 293 ≤ i then 0 else packWord [(16, clockOf s i), (0, b2n (clockOf s i != 0 && islandWorks s i))]

/-- The bits of SHT_QPC0 to SHT_QPC7 that are not reserved (R18, R527). -/
def qpcMask (i : Nat) : Word :=
  match i with
  | 0 => BitVec.ofNat 64 (2 ^ 46 - 1)
  | 1 => BitVec.ofNat 64 (2 ^ 56 - 1)
  | 2 => BitVec.ofNat 64 (2 ^ 45 - 1)
  | 3 => BitVec.ofNat 64 (2 ^ 64 - 1)
  | 4 => BitVec.ofNat 64 (2 ^ 64 - 1)
  | _ => BitVec.ofNat 64 (2 ^ 64 - 2 ^ 12 + 31)

/-- What register k, copy i, reads as. (log entry 102, DEDUCED) -/
def State.regRead (s : State) (k : RegKind) (i : Nat) : Word :=
  match k with
  | .GLB_ID => packWord [(16, s.fuses.step), (0, 0x7212)]
  | .GLB_SERIAL => s.fuses.serial
  | .GLB_STATUS => glbStatusWord s
  | .TNT_STATE => tntStateWord s i
  | .TNT_USE0 => tntUse0 s i
  | .TNT_USE1 => tntUse1 s i
  | .SG_CFG => sgCfgWord s i
  | .SG_USE0 => sgUse0 s i
  | .SG_USE1 => sgUse1 s i
  | .SPL_SQS => sqsWord s (i / 4) (i % 4)
  | .SPL_CQS => cqsWord s (i / 2) (i % 2)
  | .SPL_DEV => packWord [(32, Config.bobbinCells - cellsLinked s), (0, inflightAll s)]
  | .PFX_USE => packWord [(25, seqHandles - s.seqs.length), (0, chunkHandles - s.chunks.length)]
  | .PFX_IDX => packWord [(26, mapCount (fun _ c => c.linked && !c.indexed) s.chunks), (13, stashLoad s)]
  | .PFX_IDXUSE => packWord [(0, mapCount (fun _ c => c.indexed && c.bucket.isSome) s.chunks)]
  | .CAM_CNT => setBits (s.reg .CAM_CNT) 5 0 (searchesInFlight s)
  | .CAM_BANK => packWord [(0, bankLoad s i)]
  | .PGT_HBM => hbmWord s
  | .PGT_DIRTY => packWord [(0, ceilDiv (dirtyBytes s) 1048576)]
  | .PGT_TIER => setBits (setBits (setBits (s.ladder.reg .PGT_TIER) 23 16 (flashUsePct s)) 15 8 (hbmUsePct s)) 0 0 (b2n (stashPaused s && s.pattern.isSome))
  | .CDR_RETIRE => packWord [(40, (s.gens.map fun e => e.2.countP fun g => g.st == .retiring).sum), (0, pendingReencode s)]
  | .SNL_CTX_ST => ctxStWord s i
  | .SNL_CTX_AGE => ctxAgeWord s i
  | .PWR_DTIME => BitVec.ofNat 64 s.dtime
  | .PWR_CLK => clkWord s i
  | .CXL_PLAIN => plainWord s
  | .CXL_SF => setBits (s.reg .CXL_SF) 22 0 s.snoopFilter.length
  | .CXL_ORPH => orphWord s
  | .GW_ST => gwStWord s i
  | .LOG_HEALTH0 => healthWord s
  | _ => s.reg k i

/-- Fields that a read clears (R723), where the read covers them whole; with OUTKIB goes the remainder behind it (R336). (log entry 101, DEDUCED) -/
def State.clearRead (s : State) (k : RegKind) (i lo hi : Nat) : State :=
  let s : State := if k = .CDR_CSTAT1 ∧ hi = 63 then { s with outRem := 0 } else s
  (k.fields.filter fun f => f.clearsOnRead && decide (lo ≤ f.lo) && decide (f.hi ≤ hi)).foldl (fun s f => s.setFld f 0 i) s

/-- An access of BAR0 to an unallocated offset, or of a size that BAR0 does not take (R19, R723, R725). (log entry 101, DEDUCED) -/
def State.strayBar0 (s : State) (wr : Bool) (off size : Nat) : State :=
  let s := s.unallocated false wr (operatorHost s) size off
  if wr then s else s.emit (.readData (operatorHost s) (allOnes size) false)

/-- The sizes BAR0 takes, naturally aligned (R723). (log entry 101, DEDUCED) -/
def bar0Size (wr : Bool) (off size : Nat) : Bool := (size == 8 || (size == 4 && !wr)) && off % size == 0

/-- R723: a read of BAR0. (log entry 101, DEDUCED) -/
def opRegisterReadClear (off size : Nat) (s : State) : State :=
  if !bar0Size false off size then s.strayBar0 false off size
  else
    let answer (s : State) (w : Word) : State := s.emit (.readData (operatorHost s) (sliceAt (leBytes 8 w.toNat) (off % 8) size) false)
    match bar0At off with
    | .geo a => answer s (geoWord s a)
    | .reserved => answer s 0
    | .reg k i => (answer s (s.regRead k i)).clearRead k i (8 * (off % 8)) (8 * (off % 8 + size) - 1)
    | _ => s.strayBar0 false off size
/-- R723. (log entry 9, DEDUCED) -/
def execRegisterReadClear (off size : Nat) (s : State) : Res :=
  if bar0Size false off size ∧ bar0At off = .debug ∧ debugOpen s then .refused .debugBlock else .next (opRegisterReadClear off size s)

/-! ### GLB and LOG (R730, R741) -/

/-- R730: a write of GLB: a 1 sets LOCK. -/
def opLockSet (v : Word) (s : State) : State := if bitsOf v 0 0 = 1 then s.setFld Fd.GLB_LOCK 1 else s
/-- R730. -/
def execLockSet (value : Word) (s : State) : Res := .next (opLockSet value s)

/-- R741: LOG_CTL.CLEAR empties the ring; numbering continues. -/
def opLogClear (v : Word) (s : State) : State :=
  if bitsOf v 0 0 = 1 then ({ s with log := [] } : State).setFld Fd.LOG_PTR_OLDEST (s.fld Fd.LOG_PTR_WRITTEN) else s
/-- R741. -/
def execLogClear (value : Word) (s : State) : Res := .next (opLogClear value s)

/-- The record of the ring with a number (R736). -/
def logRecord (s : State) (n : Nat) : Option LogRec := s.log[(2 ^ 32 + n - s.fld Fd.LOG_PTR_OLDEST) % 2 ^ 32]?

/-- R741: LOG_RDIDX.IDX copies a record into LOG_REC0 to LOG_REC3; they read zero where the ring does not hold it. -/
def opLogReadIndex (v : Word) (s : State) : State :=
  let n := bitsOf v 31 0
  let ws := match logRecord s n with
    | some r => logWords r
    | none => [0, 0, 0, 0]
  (List.range 4).foldl (fun s i => s.setReg .LOG_REC i (wordAt ws i)) (s.setReg .LOG_RDIDX 0 (packWord [(0, n)]))
/-- R741. -/
def execLogReadIndex (value : Word) (s : State) : Res := .next (opLogReadIndex value s)

/-! ### Writes (R17, R678, R723) -/

/-- A field takes a write by its access code (R17); WO fields take effect as their chapter says, and are left out here. -/
def State.writeField (s : State) (f : Field) (i : Nat) (v : Word) : State :=
  let x := bitsOf v f.hi f.lo
  match f.acc with
  | .rw => s.setFld f x i
  | .rws => s.setFld f x i
  | .rwl => if s.flag Fd.GLB_LOCK then s else s.setFld f x i
  | .w1c => if x = 1 then s.setFld f 0 i else s
  | .w1s => if x = 1 then s.setFld f 1 i else s
  | .ro => s
  | .wo => s

/-- A write of a register without behaviour of its own (R17). -/
def State.plainWrite (s : State) (k : RegKind) (i : Nat) (v : Word) : State := k.fields.foldl (fun s f => s.writeField f i v) s

/-- R99, R107: a write of TNT_CTRL acts by its ACTION. -/
def State.writeAction (s : State) (t : Nat) (v : Word) : State :=
  match bitsOf v 3 0 with
  | 1 => opConfigure t v s
  | 2 => opTenantActivate t v s
  | 3 => opDisable t v s
  | 4 => opEnable t v s
  | 5 => opShred t v s
  | 6 => opUnconfigure t v s
  | _ => s.writeTntCtrl t v

/-- R110: a write of SG_CFG acts by its ACTION. -/
def State.groupAction (s : State) (g : Nat) (v : Word) : State :=
  match bitsOf v 3 0 with
  | 1 => opGroupCreate g v s
  | 2 => opGroupDelete g v s
  | _ => s.writeSgCfg g v

/-- R114, R472: a write of a host range entry; what a locked TDI's report lists and a sealed tenant uses has changed. (log entry 103, DEDUCED) -/
def State.writeHrt (s : State) (k : RegKind) (e : Nat) (v : Word) : State :=
  let touch (s : State) (w : Word) : State := if bitsOf w 0 0 = 1 then s.tdiTouch (bitsOf w 7 4) (bitsOf w 17 8) else s
  let old := s.reg .HRT_CTL e
  let s' := s.plainWrite k e v
  if s'.reg k e = s.reg k e then s' else touch (touch s' old) (s'.reg .HRT_CTL e)

/-- R431: a write of SNL_CTX_CTL acts by its ACTION. -/
def State.ctxAction (s : State) (c : Nat) (v : Word) : State :=
  match bitsOf v 3 0 with
  | 1 => opRingCtxOpen c v s
  | 2 => opRingCtxAbort c v s
  | 3 => opRingCtxClose c v s
  | _ => s.ctxFields c v

/-- R526: a write of SHT_QPQ acts by its ACTION. -/
def State.qpAction (s : State) (v : Word) : State :=
  let q := bitsOf v 15 0
  match bitsOf v 19 16 with
  | 1 => opQpRead q s
  | 2 => opQpWrite q s
  | 3 => opQpActivate q s
  | 4 => opQpError q s
  | 5 => opQpReset q s
  | _ => s.setFld Fd.SHT_QPQ_QPN q

/-- R608: a write of RAS_CTL acts by its ACTION. -/
def State.rasAction (s : State) (v : Word) : State :=
  match bitsOf v 3 0 with
  | 1 => opSelftest v s
  | 2 => opRetireStack v s
  | 3 => opRetireCore v s
  | _ => s.writeRasCtl v

/-- R607: RAS_REPL: the two conditions that an operator clears. -/
def State.writeRepl (s : State) (v : Word) : State :=
  let s := if bitsOf v 7 7 = 1 then s.endReplace 7 else s
  if bitsOf v 8 8 = 1 then s.endReplace 8 else s

/-- R689: a write of PWR_CTL; CAPW outside its range is ignored. -/
def State.writePwrCtl (s : State) (v : Word) : State :=
  let cap := bitsOf v 47 32
  let s := s.plainWrite .PWR_CTL 0 (setBits v 47 32 (s.fld Fd.PWR_CTL_CAPW))
  if 600 ≤ cap ∧ cap ≤ designW s then s.setFld Fd.PWR_CTL_CAPW cap else s

/-- R692: a write of PWR_RST acts by its ACTION; while an action runs it is dropped. (log entry 95, DEDUCED) -/
def State.resetAction (s : State) (v : Word) : State :=
  match bitsOf v 3 0 with
  | 1 => opTenantReset v s
  | 2 => opIslandReset v s
  | _ => if s.tenantResets ≠ [] then s else s.writePwrRst v

/-- R695: a write of PWR_DTCTL: a PTPDOM above 127 is ignored; a change of source is not locked yet. (log entry 92, DEDUCED) -/
def State.writeDtctl (s : State) (v : Word) : State :=
  let dom := s.fld Fd.PWR_DTCTL_PTPDOM
  let s' := s.plainWrite .PWR_DTCTL 0 (if 127 < bitsOf v 13 6 then setBits v 13 6 dom else v)
  if s'.fld Fd.PWR_DTCTL_MODE = s.fld Fd.PWR_DTCTL_MODE ∧ s'.fld Fd.PWR_DTCTL_PTPPORT = s.fld Fd.PWR_DTCTL_PTPPORT ∧
    s'.fld Fd.PWR_DTCTL_PTPDOM = dom then s' else s'.setFld Fd.PWR_DTCTL_LOCKED 0

/-- What a write of register k, copy i, does. -/
def State.regWrite (s : State) (k : RegKind) (i : Nat) (v : Word) : State :=
  match k with
  | .GLB => opLockSet v s
  | .TNT_CTRL => s.writeAction i v
  | .TNT_BIND => s.writeTntBind i v
  | .TNT_GRP => s.writeTntGrp i v
  | .TNT_QUOTA => s.writeTntQuota i v
  | .TNT_CRED => s.writeTntCred i v
  | .SG_CFG => s.groupAction i v
  | .HRT_CTL => s.writeHrt .HRT_CTL i v
  | .HRT_BASE => s.writeHrt .HRT_BASE i v
  | .HRT_LIMIT => s.writeHrt .HRT_LIMIT i v
  | .HRT_SYNC => if bitsOf v 0 0 = 1 then opHrtSync s else s
  | .PFX_NODEQ => opNodeQuery v s
  | .CAM_CFG => if searchesInFlight s = 0 ∧ (s.load.filter fun l => !l.swap).isNone then s.plainWrite .CAM_CFG 0 v else s
  | .PGT_PAGEQ => opPageQuery v s
  | .CDR_GENQ => opGenerationQuery v s
  | .CDR_HCFG => opHistogramConfig v s
  | .SNL_CFG => s.ringConfig v
  | .SNL_CTX_CTL => s.ctxAction i v
  | .SNL_CTX_DL => if ctxState s i = ctxClosed then s.plainWrite .SNL_CTX_DL i v else s
  | .SNL_CTX_TAIL => if ctxState s i = ctxClosed then s.plainWrite .SNL_CTX_TAIL i v else s
  | .SHT_QPC => s.plainWrite .SHT_QPC i (v &&& qpcMask i)
  | .SHT_QPQ => s.qpAction v
  | .RAS_REPL => s.writeRepl v
  | .RAS_CTL => s.rasAction v
  | .SEC_TKEY => if bitsOf v 3 0 = 1 then opTenantKeyGenerate v s else s.plainWrite .SEC_TKEY 0 v
  | .PWR_CTL => s.writePwrCtl v
  | .PWR_RST => s.resetAction v
  | .PWR_DTSET => opDtimeSet v s
  | .PWR_DTCTL => s.writeDtctl v
  | .CXL_PLAIN => if bitsOf v 10 0 ≤ dpaExtents s.cacheSf - 192 then s.plainWrite .CXL_PLAIN 0 v else s
  | .CXL_ORPH => if bitsOf v 63 63 = 1 then opOrphanLogClear s else s
  | .CXL_ORPHQ => opOrphanLogQuery v s
  | .CXL_VW => opViewWindowConfig i v s
  | .GW_CTL => opGatewayConfig i 0 v s
  | .GW_RADDR => opGatewayConfig i 1 v s
  | .GW_FLADDR => opGatewayConfig i 2 v s
  | .LOG_CTL => opLogClear v s
  | .LOG_RDIDX => opLogReadIndex v s
  | _ => s.plainWrite k i v

/-- Until media is ready BAR0 takes writes to GLB and PWR only (R678). -/
def bar0Takes (s : State) (off : Nat) : Bool := mediaReady s || off / 0x100000 == 0x01 || off / 0x100000 == 0x11

/-- R17, R723: a write of BAR0. (log entry 101, DEDUCED) -/
def opRegisterWrite (off size : Nat) (v : Word) (s : State) : State :=
  if !bar0Size true off size then s.strayBar0 true off size
  else match bar0At off with
    | .geo _ => s
    | .reserved => s
    | .reg k i => if bar0Takes s off then s.regWrite k i v else s
    | _ => s.strayBar0 true off size
/-- R17. (log entry 9, DEDUCED) -/
def execRegisterWrite (off size : Nat) (value : Word) (s : State) : Res :=
  if bar0Size true off size ∧ bar0At off = .debug ∧ debugOpen s then .refused .debugBlock else .next (opRegisterWrite off size value s)

/-! ### Unallocated offsets (R19, R132, R133, R725) -/

/-- Whether an offset of a tenant window is one of those that R132 lays out. -/
def windowLaidOut (off : Nat) : Bool :=
  decide (off < 0x4080) || (decide (0x4800 ≤ off) && decide (off < 0x4C00)) || (decide (0x5000 ≤ off) && decide (off < 0x5020)) ||
    (decide (0x5100 ≤ off) && decide (off < 0x5150)) || decide (0x8000 ≤ off)

/-- Whether an access of BAR0 is one to an unallocated offset (R19, R723). (log entry 9, DEDUCED) -/
def bar0Stray (s : State) (wr : Bool) (off size : Nat) : Bool :=
  !bar0Size wr off size || bar0At off == .unallocated || (bar0At off == .debug && !debugOpen s)

/-- R725: an access that reaches an unallocated offset, after the check of R115 for BAR2. (log entry 101, DEDUCED) -/
def opUnallocatedAccess (bar2 wr : Bool) (h off size : Nat) (s : State) : State :=
  if !bar2 then (if bar0Stray s wr off size then s.strayBar0 wr off size else s)
  else if windowLaidOut (off % 65536) then s
  else match hrtLookup s h true off wr .other with
    | none => s.denyBar2 h off size wr
    | some _ =>
      let s := s.unallocated true wr h size off
      if wr then s else s.emit (.readData h (allOnes size) false)
/-- R725. -/
def execUnallocatedAccess (bar2 wr : Bool) (host : HostId) (off : Fin 67108864) (size : Nat) (s : State) : Res :=
  .next (opUnallocatedAccess bar2 wr host.val off.val size s)

end Sys2Proof.Machine
end

