-- ==== Sys2Proof/Machine/RingAttend.lean ====
section
/-!
DEFINITION. RING_ATTEND: its checks, the headers and blocks that members exchange, the partial of each origin, their merge and the results (R413 to R420).
Also the two rows that take and complete attention commands of every kind.
-/
namespace Sys2Proof.Machine

/-! ### Fields and headers (R413, R415) -/

/-- RTAG. -/
def ringTag (c : Cmd) : Nat := fieldOf c.words 6 31 0
/-- MEMMASK. -/
def ringMask (c : Cmd) : Nat := fieldOf c.words 5 41 26
/-- QPOS0. -/
def ringQ0 (c : Cmd) : Nat := fieldOf c.words 5 25 0
/-- LBASE. -/
def ringLbase (c : Cmd) : Nat := fieldOf c.words 4 47 22
/-- The command's last query position. -/
def ringLastQ (s : State) (c : Cmd) : Nat := ringQ0 c + (attCmd s c).ncand - 1

/-- E: the extent of the command's own share. -/
def ringExtent (w : AttWork) : Nat := (w.seqs.head?.map fun q => q.wend).getD 0

/-- The bytes of a panel's distance-bias section (R350). -/
def biasSection (prof : Nat) (cfg : PanelCfg) : List Byte :=
  leBytes 8 (prof + 256 * cfg.bias.length) ++ List.replicate 56 0 ++
    cfg.bias.flatMap fun t => t.1.flatMap (leBytes 4) ++ leBytes 4 t.2 ++ List.replicate 60 0

/-- The RATT_HDR of this member for a command. -/
def ownHdr (s : State) (c : Cmd) (w : AttWork) : RattHdr :=
  let prof := s.profileOf c.tenant
  let a := attCmd s c
  { ctx := ctxNamed c, src := ringPos s, rtag := ringTag c, memmask := ringMask c, layer := a.layer, kvh0 := a.kvh0, nkvh := a.nkvh, lbase := ringLbase c,
    extent := ringExtent w, lastq := ringLastQ s c, prof, rpdig := sha384 (((s.panelCfg prof).map fun p => p.planRec).getD []),
    biasdig := sha384 (((s.panelCfg prof).map (biasSection prof)).getD []) }

/-- The other members that take part. -/
def ringOthers (s : State) (c : Cmd) : List Nat := (List.range 16).filter fun m => bitAt (ringMask c) m && m != ringPos s

/-- The header of a member under an RTAG. -/
def hdrOf (s : State) (ctx rtag m : Nat) : Option RattHdr := (s.rctxOf ctx).hdrs.find? fun h => h.rtag == rtag && h.src == m

/-- Every member's header in ascending position, once all are present. -/
def allHdrs (s : State) (c : Cmd) (w : AttWork) : Option (List RattHdr) :=
  ((List.range 16).filter (bitAt (ringMask c))).mapM fun m => if m = ringPos s then some (ownHdr s c w) else hdrOf s (ctxNamed c) (ringTag c) m

/-- Shares are consecutive from a position on: the end of the last one. -/
def sharesEnd : Nat → List RattHdr → Option Nat
  | at_, [] => some at_
  | at_, h :: rest => if h.lbase = at_ then sharesEnd (at_ + h.extent) rest else none

/-- R415: the checks on all headers: the detail that ends every partner, if one does. -/
def hdrFault (hs : List RattHdr) : Option Nat :=
  match hs with
  | [] => none
  | h :: _ =>
    let same := hs.all fun x => x.memmask == h.memmask && x.layer == h.layer && x.kvh0 == h.kvh0 && x.nkvh == h.nkvh && x.prof == h.prof
    let tiled := match sharesEnd 0 hs with
      | some e => hs.all fun x => decide (x.lastq < e)
      | none => false
    if !(same && tiled) then some 0x0141
    else if hs.all fun x => x.rpdig == h.rpdig && x.biasdig == h.biasdig then none else some 0x0142

/-! ### Blocks (R416) -/

/-- The key and value rows of the command's heads at a page's positions: all keys, then all values. -/
def headRows (g : Geo) (recov : Option Nat) (a : AttCmd) (len : Nat) (raw : List Byte) : List Byte :=
  [0, 1].flatMap fun kv =>
    let n := rowBytes (if kv = 0 then (pageFmts g recov).1 else (pageFmts g recov).2) g.hdim
    (List.range a.nkvh).flatMap fun h => (List.range len).flatMap fun p => sliceAt raw (rowOff g recov kv (a.kvh0 + h) p) n

/-- Positions of a page that trimming has not masked. -/
def openIn (mask len : Nat) : List Nat := (List.range len).filter fun i => !bitAt mask (i / 64)

/-- A page of the member's share as it is sent, with a block that proves corrupt. -/
def ringBlock (s : State) (c : Cmd) (x : AttPage) : RattBlock × Option (Nat × Corrupt) :=
  let prof := s.profileOf c.tenant
  let g := s.geo prof
  let a := attCmd s c
  let b : RattBlock :=
    { ctx := ctxNamed c, origin := ringPos s, rtag := ringTag c, start := x.start, len := x.len, hollow := x.src == .hollow, poison := false,
      recov := x.recov, mask := x.mask, bytes := [] }
  if b.hollow then (b, none)
  else match attRaw s prof a x (fun _ => openIn x.mask x.len) with
    | .data raw => ({ b with bytes := headRows g x.recov a x.len raw }, none)
    | .poison => ({ b with poison := true }, none)
    | .corrupt i k => ({ b with poison := true }, some (i, k))

/-- The pages of the member's share. -/
def ringPages (w : AttWork) : List AttPage := (w.seqs.head?.map fun q => q.pages).getD []

/-- Members that want a share which begins at `first`: those whose last query position is at or beyond it, among the members at `ds` hops east of its origin. -/
def wantedAt (s : State) (hs : List RattHdr) (origin first : Nat) (ds : List Nat) : Bool :=
  ds.any fun d => hs.any fun h => h.src == (origin + d) % ringN s && decide (first ≤ h.lastq)

/-- Hops at which a share travels east (R416). -/
def eastHops (s : State) : List Nat := (List.range (ringN s / 2)).map (· + 1)
/-- Hops, counted east, of the members it reaches travelling west. -/
def westHops (s : State) : List Nat := (List.range (ringN s - 1 - ringN s / 2)).map fun i => ringN s - 1 - i

/-- R416: send the member's pages each way that a member wants them. -/
def State.sendShare (s : State) (c : Cmd) (w : AttWork) (hs : List RattHdr) : State :=
  let east := wantedAt s hs (ringPos s) (ringLbase c) (eastHops s)
  let west := wantedAt s hs (ringPos s) (ringLbase c) (westHops s)
  if !east && !west then s
  else (ringPages w).foldl (fun s x =>
    let r := ringBlock s c x
    let s := match r.2 with
      | some (i, k) => (s.corrupt x.handle (attCmd s c).layer i k).reclaim
      | none => s
    let s := if east then s.ringPut 0 (.block r.1) else s
    if west then s.ringPut 1 (.block r.1) else s) s

/-- Headers and blocks of an RTAG are dropped once its command has ended. -/
def State.dropTag (s : State) (ctx rtag : Nat) : State :=
  let x := s.rctxOf ctx
  s.setRctx ctx { x with hdrs := x.hdrs.filter fun h => h.rtag != rtag, blocks := x.blocks.filter fun b => b.rtag != rtag }

/-- What a RING_ATTEND can do next: check the headers once all are present, and send its share once it is checked and taken. -/
def State.ringAdvance (s : State) (uid : Nat) : State :=
  match s.cmd uid with
  | none => s
  | some c => match c.work with
    | .ring w checked sent => match allHdrs s c w with
      | none => s
      | some hs =>
        if sent ∨ c.cancel.isSome then s
        else match (if checked then none else hdrFault hs) with
          | some d => ((s.leavePanel c w).attFail c Cc.formatUnsupported d).dropTag (ctxNamed c) (ringTag c)
          | none =>
            if w.taken.isNone then s.setCmd { c with work := .ring w true false }
            else (s.setCmd { c with work := .ring w true true }).sendShare c w hs
    | _ => s

/-! ### The command (R413, R419) -/

/-- The context check of R419. (log entry 56, DEDUCED) -/
def ringCtxOk (s : State) (c : Cmd) : Bool :=
  let x := ctxNamed c
  let p := s.fld Fd.SNL_CTX_CTL_PANEL x
  ctxState s x == ctxOpen && s.fld Fd.SNL_CTX_CTL_MODE x == 1 && s.fld Fd.SNL_CTX_CTL_TENANT x == c.tenant &&
    s.fld Fd.PANEL_STATE_PROFILE p == s.profileOf c.tenant && decide (s.fld Fd.PANEL_STATE_STATE p ≠ 0)

/-- MEMMASK names this member, and no position that the ring does not have (R413). (log entry 56, DEDUCED) -/
def memMaskOk (s : State) (c : Cmd) : Bool :=
  let mm := fieldOf c.words 5 41 26
  bitAt mm (ringPos s) && decide (mm < 2 ^ ringN s)

/-- R413, R415, R419: RING_ATTEND. At most 16 are in flight in a context; others wait. (log entry 56, DEDUCED) -/
def opRingAttend (uid : Nat) (s : State) : State :=
  match s.ready uid Oc.ringAttend with
  | none => s
  | some c => match c.cancel, c.work with
    | some d, _ => s.attFail c Cc.cancelled d
    | none, .ready =>
      let x := ctxNamed c
      match attFieldFault s c with
      | some d => s.attFail c Cc.formatUnsupported d
      | none =>
        if !ringCtxOk s c then s.attFail c Cc.formatUnsupported 0x0140
        else if !memMaskOk s c then s.attFail c Cc.formatUnsupported 0x0130
        else if (ringWorks s x).any fun k => ringTag k == ringTag c then s.attFail c Cc.formatUnsupported 0x0144
        else if 16 ≤ (ringWorks s x).length then s
        else
          let q := fieldOf c.words 4 21 0
          match s.ownSeq c.tenant q with
          | none => s.attFail c Cc.invalidHandle 0
          | some sq =>
            let r := attRanges s c
            match s.attAccess (s.hostOf c.tenant) (r.1.map (fun x => (x.1, x.2, false)) ++ r.2.map fun x => (x.1, x.2, true)) with
            | some (s, d) => s.attFail c Cc.noRights d
            | none =>
              let aq := attSeq s c q 0 (seqExtent s sq) (ringQ0 c)
              match aq.failed with
              | some e => s.attFail c e.1 e.2
              | none =>
                let s := s.attBegin c [aq]
                match (s.cmd uid).bind fun c => c.attWork.map fun w => (c, w) with
                | none => s
                | some (c, w) =>
                  let s := s.setCmd { c with work := .ring w false false }
                  ((ringOthers s c).foldl (fun s m => s.ringSend m (.hdr m (ownHdr s c w))) s).ringAdvance uid
    | none, _ => s
/-- R415. -/
def execRingAttend (uid : Nat) (s : State) : Res := .next (opRingAttend uid s)

/-- R415: a partner's header arrives, for this member or to pass through; it is collected while the context is OPEN in ATTN mode. (log entry 56, DEDUCED) -/
def opRattHdr (link dst : Nat) (h : RattHdr) (s : State) : State :=
  if dst ≠ ringPos s then s.ringPut (1 - link) (.hdr dst h)
  else if ctxState s h.ctx ≠ ctxOpen ∨ s.fld Fd.SNL_CTX_CTL_MODE h.ctx ≠ 1 then s
  else
    let x := s.rctxOf h.ctx
    let s := s.setRctx h.ctx { x with hdrs := (x.hdrs.filter fun y => !(y.rtag == h.rtag && y.src == h.src)) ++ [h] }
    match (ringWorks s h.ctx).find? fun k => ringTag k == h.rtag with
    | some k => s.ringAdvance k.uid
    | none => s
/-- R415. -/
def execRattHdr (link : Fin 2) (dst : Fin 16) (hdr : RattHdr) (s : State) : Res := .next (opRattHdr link.val dst.val hdr s)

/-- The hops east from a block's origin of the members behind this one on the way it travels. -/
def hopsBeyond (s : State) (link origin : Nat) : List Nat :=
  let d := eastDist s origin (ringPos s)
  if link = 1 then (eastHops s).filter fun x => decide (d < x) else (westHops s).filter fun x => decide (x < d)

/-- R416: a block arrives: it is taken where this member has a command for it, and goes on while members behind want it, or are not known. (log entry 56, DEDUCED) -/
def opRattBlock (link : Nat) (b : RattBlock) (s : State) : State :=
  let cmd := (ringWorks s b.ctx).find? fun k => ringTag k == b.rtag
  let hs := match cmd.bind fun c => c.attWork.map fun w => (c, w) with
    | some (c, w) => allHdrs s c w
    | none => none
  let beyond := hopsBeyond s link b.origin
  let first := ((hs.getD []).find? fun h => h.src == b.origin).map fun h => h.lbase
  let on := match hs, first with
    | some hs, some f => wantedAt s hs b.origin f beyond
    | _, _ => !beyond.isEmpty
  let s := if on then s.ringPut (1 - link) (.block b) else s
  if ctxState s b.ctx ≠ ctxOpen ∨ cmd.isNone then s
  else
    let x := s.rctxOf b.ctx
    s.setRctx b.ctx { x with blocks := x.blocks ++ [b] }
/-- R416. -/
def execRattBlock (link : Fin 2) (block : RattBlock) (s : State) : Res := .next (opRattBlock link.val block s)

/-! ### Partials and results (R417 to R420) -/

/-- A share as it is attended: its origin, first ring position, extent and blocks. (log entry 57, DEDUCED) -/
structure Share where
  origin : Nat
  lbase : Nat
  extent : Nat
  blocks : List RattBlock
  deriving DecidableEq, Repr

/-- The block that holds a position of a share, with the position in it. -/
def Share.at_ (sh : Share) (p : Nat) : Option (RattBlock × Nat) :=
  (sh.blocks.find? fun b => decide (b.start ≤ p) && decide (p < b.start + b.len)).map fun b => (b, p - b.start)

/-- The ring distance at which a row, whose query is at ring position q, attends position p of a share, none where the position is masked for it (R351, R353, R413). -/
def Share.sees (sh : Share) (s : State) (prof : Nat) (a : AttCmd) (r : AttRow) (q p : Nat) : Option Nat :=
  match sh.at_ p with
  | some (b, i) =>
    if b.hollow || bitAt b.mask (i / 64) || decide (q < sh.lbase + p) || biasMasks (attBias s prof a r.qh (q - (sh.lbase + p))) then none
    else some (q - (sh.lbase + p))
  | none => none

/-- What a row of query position q finds at position p of a share. -/
def shareAt (s : State) (c : Cmd) (sh : Share) (r : AttRow) (q p : Nat) : Option Att :=
  let prof := s.profileOf c.tenant
  let g := s.geo prof
  let a := attCmd s c
  let pl := planOf (((s.panelCfg prof).map fun x => x.planRec).getD [])
  match sh.sees s prof a r q p, sh.at_ p with
  | some d, some (b, i) =>
    let f := pageFmts g b.recov
    let kn := rowBytes f.1 g.hdim
    let vn := rowBytes f.2 g.hdim
    let j := (r.kvh - a.kvh0) * b.len + i
    let key := sliceAt b.bytes (j * kn) kn
    let val := sliceAt b.bytes (a.nkvh * b.len * kn + j * vn) vn
    some { score := score1 pl a.qfmt f.1 g.hdim r.query key (attBias s prof a r.qh d), vfmt := f.2, v := val }
  | _, _ => none

/-- The rows of a command without their queries. -/
def ringRows (s : State) (c : Cmd) : List AttRow := attRows (attCmd s c) (s.geo (s.profileOf c.tenant)) []

/-- Whether some row of KV head h, any where none is named, attends position p of a share. -/
def Share.attended (sh : Share) (s : State) (c : Cmd) (h : Option Nat) (p : Nat) : Bool :=
  (ringRows s c).any fun r => (h == none || h == some r.kvh) && (sh.sees s (s.profileOf c.tenant) (attCmd s c) r (ringQ0 c + r.cand) p).isSome

/-- R417: the runs of every row over one share. (log entry 57, DEDUCED) -/
def shareRuns (s : State) (c : Cmd) (queries : List Byte) (sh : Share) : List RowRun :=
  let prof := s.profileOf c.tenant
  let g := s.geo prof
  let pl := planOf (((s.panelCfg prof).map fun x => x.planRec).getD [])
  (attRows (attCmd s c) g queries).map fun r => runRow pl g.hdim 0 sh.extent (shareAt s c sh r (ringQ0 c + r.cand))

/-- Positions of a share that a row attends. -/
def Share.count (sh : Share) (s : State) (c : Cmd) (r : AttRow) : Nat :=
  (List.range sh.extent).countP fun p => (sh.sees s (s.profileOf c.tenant) (attCmd s c) r (ringQ0 c + r.cand) p).isSome

/-- The attended positions of each KV head among some positions of a share, summed. -/
def Share.reads (sh : Share) (s : State) (c : Cmd) (ps : List Nat) : Nat :=
  ((attCmd s c).heads.map fun h => ps.countP (sh.attended s c (some h))).sum

/-- Whether some row attends a poisoned block of a share. -/
def Share.spoilt (sh : Share) (s : State) (c : Cmd) : Bool :=
  sh.blocks.any fun b => b.poison && (List.range b.len).any fun i => sh.attended s c none (b.start + i)

/-- Whether some row meets a hollow chunk of a share. -/
def Share.hollowMet (sh : Share) (lastq : Nat) : Bool := sh.blocks.any fun b => b.hollow && decide (sh.lbase + b.start ≤ lastq)

/-- The shares that the command's rows reach, in ascending origin: none while blocks of one are still to come. (log entry 57, DEDUCED) -/
def ringShares (s : State) (c : Cmd) (w : AttWork) (hs : List RattHdr) : Option (List Share) :=
  let lastq := ringLastQ s c
  (hs.filter fun h => decide (h.lbase ≤ lastq)).mapM fun h =>
    if h.src = ringPos s then some { origin := h.src, lbase := h.lbase, extent := h.extent, blocks := (ringPages w).map fun x => (ringBlock s c x).1 }
    else
      let bs := (s.rctxOf (ctxNamed c)).blocks.filter fun b => b.rtag == ringTag c && b.origin == h.src
      if (bs.map fun b => b.len).sum = h.extent then some { origin := h.src, lbase := h.lbase, extent := h.extent, blocks := bs } else none

/-- The own pages that rows attend, with the positions attended, and the masses on them (R249, R378). -/
def ownResult (s : State) (c : Cmd) (w : AttWork) (sh : Option Share) (runs : List RowRun) : SeqResult :=
  let read := match sh with
    | some sh => (ringPages w).filterMap fun x =>
        let n := sh.reads s c ((List.range x.len).map (x.start + ·))
        if n = 0 then none else some (x.handle, n)
    | none => []
  { partials := [], attPos := 0, read,
    masses := match w.seqs.head? with
      | some q => massesByChunk q (runs.flatMap rowMasses)
      | none => [] }

/-- The elements that a command's rows attend in some shares. -/
def ringElems (s : State) (c : Cmd) (shares : List Share) : Nat :=
  attElems (s.geo (s.profileOf c.tenant)) (shares.map fun sh => sh.reads s c (List.range sh.extent)).sum

/-- The outputs of every row: its partials merged in ascending origin order (R359, R417). (log entry 57, DEDUCED) -/
def mergeRows (hdim rows : Nat) (pl : Plan1) (runs : List (List RowRun)) : List Partial :=
  (List.range rows).map fun i => mergePartials hdim (runs.filterMap fun rs => rs[i]?.map fun r => rowPartial pl hdim r.st)

/-- The page a corrupt block of the member's own share lies in. -/
def State.spoilOwn (s : State) (c : Cmd) (w : AttWork) : State :=
  (ringPages w).foldl (fun s x => match (ringBlock s c x).2 with
    | some (i, k) => s.corrupt x.handle (attCmd s c).layer i k
    | none => s) s

/-- R419: RING_ATTEND ends, its shares complete. -/
def State.endRing (s : State) (c : Cmd) (w : AttWork) (shares : List Share) (readOk : Bool) (ringNs : Nat) : State :=
  let a := attCmd s c
  let prof := s.profileOf c.tenant
  let g := s.geo prof
  let pl := planOf (((s.panelCfg prof).map fun x => x.planRec).getD [])
  let lastq := ringLastQ s c
  let tidy (s : State) : State := s.dropTag (ctxNamed c) (ringTag c)
  if shares.any fun sh => sh.spoilt s c then
    tidy ((((s.elemsCut (ringElems s c shares)).spoilOwn c w).leavePanel c w).attFail c Cc.poisoned 0x0136)
  else
    let queries := (w.seqs.head?.map fun q => q.queries).getD []
    let runs := shares.map (shareRuns s c queries)
    let own := (shares.zip runs).find? fun e => e.1.origin == ringPos s
    let r := ownResult s c w (own.map fun e => e.1) ((own.map fun e => e.2).getD [])
    let r := { r with partials := mergeRows g.hdim (a.rows g) pl runs }
    let attPos := (ringRows s c).foldl (fun m r => max m (shares.map fun sh => sh.count s c r).sum) 0
    let elems := ringElems s c shares
    let hollowm := (shares.filter fun sh => sh.hollowMet lastq).map fun sh => (26 + sh.origin, 1)
    let outFail := a.odst == 1 && !readOk
    let code := if outFail then Cc.partial_ else if hollowm ≠ [] then Cc.recompute else Cc.ok
    let s := s.attWrite c a 0 r
    let s := s.closeOutput c a (some 0)
    let passes := a.nkvh * ceilDiv (a.ncand * g.qperkv) (max 1 (fieldOf (attHdr s prof) 7 20 16))
    let s := (s.attAccount a.layer passes r).attCount c code outFail elems
    let (s, ns) := s.attTime c w (ringPages w).length ringNs
    tidy ((s.leavePanel c w).finish c code (packWord ([(43, b2n w.waited), (42, b2n outFail), (0, attPos)] ++ hollowm))
      (packWord [(32, min (2 ^ 32 - 1) ringNs), (0, ns)])).reclaim

/-- R419: a RING_ATTEND whose tiles have ended; it completes once it is checked and every block it needs has come. -/
def State.ringComplete (s : State) (c : Cmd) (w : AttWork) (checked readOk : Bool) (ringNs now : Nat) : State :=
  if w.taken.isNone then s
  else match c.cancel with
    | some d => (((s.leavePanel c w).cutElems c w).attFail c Cc.cancelled d).dropTag (ctxNamed c) (ringTag c)
    | none =>
      let w := w.again s
      if !checked then s
      else match (allHdrs s c w).bind (ringShares s c w) with
        | none => s
        | some shares => match (s.at_ now).coherent c [] (attRanges s c).2 with
          | (s, false) => s
          | (s, true) => s.endRing c w shares readOk ringNs

/-- R363: the panel takes an attention command; RING_ATTEND then sends its share. -/
def execAttentionTake (uid : Nat) (hostMem : HostMem) (now : Nat) (s : State) : Res := .next ((opAttentionTake uid hostMem now s).ringAdvance uid)

/-- R365, R419: the tiles of a command that the panel took have ended. `ringNs` is the time a RING_ATTEND waited for ring messages. -/
def execAttentionComplete (uid : Nat) (readOk : Bool) (ringNs now : Nat) (s : State) : Res :=
  .next (match s.cmd uid with
    | some c => match c.work with
      | .ring w checked _ => s.ringComplete c w checked readOk ringNs now
      | _ => opAttentionComplete uid readOk now s
    | none => s)

end Sys2Proof.Machine
end

