-- ==== Sys2Proof/Machine/Dispatch.lean ====
section
/-!
DEFINITION. The dispatch of commands to their meanings, one arm for each constructor.
-/
namespace Sys2Proof.Machine

def exec (i : Instr) (s : State) : Host.Outcome State Fault Refusal :=
  match i with
  | .submissionCellWrite host tenant sq off bytes => Sys2Proof.Machine.execSubmissionCellWrite host tenant sq off bytes s
  | .doorbell host tenant sq size value => Sys2Proof.Machine.execDoorbell host tenant sq size value s
  | .spoolReset host tenant sq tail => Sys2Proof.Machine.execSpoolReset host tenant sq tail s
  | .commandDecode => Sys2Proof.Machine.execCommandDecode s
  | .commandCellsMissing tenant sq seq => Sys2Proof.Machine.execCommandCellsMissing tenant sq seq s
  | .announcedCellMissing tenant sq => Sys2Proof.Machine.execAnnouncedCellMissing tenant sq s
  | .completionEntryWrite tenant cq => Sys2Proof.Machine.execCompletionEntryWrite tenant cq s
  | .completionHeadRead host tenant off size => Sys2Proof.Machine.execCompletionHeadRead host tenant off size s
  | .probeBaseWrite host tenant off bytes => Sys2Proof.Machine.execProbeBaseWrite host tenant off bytes s
  | .presenceProbe host tenant off size port outstanding => Sys2Proof.Machine.execPresenceProbe host tenant off size port outstanding s
  | .nop uid => Sys2Proof.Machine.execNop uid s
  | .lookup uid hostMem pick => Sys2Proof.Machine.execLookup uid hostMem pick s
  | .extend uid seqPick chunkPick => Sys2Proof.Machine.execExtend uid seqPick chunkPick s
  | .append uid hostMem picks => Sys2Proof.Machine.execAppend uid hostMem picks s
  | .commit uid hostMem => Sys2Proof.Machine.execCommit uid hostMem s
  | .commitLink uid picks => Sys2Proof.Machine.execCommitLink uid picks s
  | .fork uid seqPick chunkPick => Sys2Proof.Machine.execFork uid seqPick chunkPick s
  | .release uid => Sys2Proof.Machine.execRelease uid s
  | .pin uid => Sys2Proof.Machine.execPin uid s
  | .unpin uid => Sys2Proof.Machine.execUnpin uid s
  | .deliver uid => Sys2Proof.Machine.execDeliver uid s
  | .deliverComplete uid readOk now => Sys2Proof.Machine.execDeliverComplete uid readOk now s
  | .deliveryHoldExpire handle layer now => Sys2Proof.Machine.execDeliveryHoldExpire handle layer now s
  | .attend uid => Sys2Proof.Machine.execAttend uid s
  | .attendBatch uid hostMem => Sys2Proof.Machine.execAttendBatch uid hostMem s
  | .verify uid => Sys2Proof.Machine.execVerify uid s
  | .attentionTake uid hostMem now => Sys2Proof.Machine.execAttentionTake uid hostMem now s
  | .tileBoundary uid => Sys2Proof.Machine.execTileBoundary uid s
  | .attentionComplete uid readOk ringNs now => Sys2Proof.Machine.execAttentionComplete uid readOk ringNs now s
  | .ringAttend uid => Sys2Proof.Machine.execRingAttend uid s
  | .fill uid => Sys2Proof.Machine.execFill uid s
  | .copy uid => Sys2Proof.Machine.execCopy uid s
  | .compare uid => Sys2Proof.Machine.execCompare uid s
  | .reduce uid => Sys2Proof.Machine.execReduce uid s
  | .gather uid => Sys2Proof.Machine.execGather uid s
  | .tableLoad uid => Sys2Proof.Machine.execTableLoad uid s
  | .tableRetire uid => Sys2Proof.Machine.execTableRetire uid s
  | .fence uid => Sys2Proof.Machine.execFence uid s
  | .pageReencode handle layer picks => Sys2Proof.Machine.execPageReencode handle layer picks s
  | .configure tenant value => Sys2Proof.Machine.execConfigure tenant value s
  | .tenantActivate tenant value => Sys2Proof.Machine.execTenantActivate tenant value s
  | .disable tenant value => Sys2Proof.Machine.execDisable tenant value s
  | .enable tenant value => Sys2Proof.Machine.execEnable tenant value s
  | .shred tenant value => Sys2Proof.Machine.execShred tenant value s
  | .unconfigure tenant value => Sys2Proof.Machine.execUnconfigure tenant value s
  | .drainComplete tenant => Sys2Proof.Machine.execDrainComplete tenant s
  | .shredComplete tenant => Sys2Proof.Machine.execShredComplete tenant s
  | .groupCreate group value => Sys2Proof.Machine.execGroupCreate group value s
  | .groupDelete group value => Sys2Proof.Machine.execGroupDelete group value s
  | .hrtSync => Sys2Proof.Machine.execHrtSync s
  | .hrtSyncDone => Sys2Proof.Machine.execHrtSyncDone s
  | .cxlMemRequestAdmit host port req hpa now => Sys2Proof.Machine.execCxlMemRequestAdmit host port req hpa now s
  | .heldRequestRelease host now => Sys2Proof.Machine.execHeldRequestRelease host now s
  | .wheelSlot mc arrivals now => Sys2Proof.Machine.execWheelSlot mc arrivals now s
  | .devloadWindowEnd now => Sys2Proof.Machine.execDevloadWindowEnd now s
  | .plainReadShared host addr => Sys2Proof.Machine.execPlainReadShared host addr s
  | .plainReadExclusive host addr => Sys2Proof.Machine.execPlainReadExclusive host addr s
  | .plainReadCurrent host addr => Sys2Proof.Machine.execPlainReadCurrent host addr s
  | .plainWrite host addr bytes => Sys2Proof.Machine.execPlainWrite host addr bytes s
  | .plainWriteback host addr bytes => Sys2Proof.Machine.execPlainWriteback host addr bytes s
  | .bisnpResponse host line data => Sys2Proof.Machine.execBisnpResponse host line data s
  | .viewLoad host addr size => Sys2Proof.Machine.execViewLoad host addr size s
  | .viewStore host addr bytes picks => Sys2Proof.Machine.execViewStore host addr bytes picks s
  | .viewSlotStore host addr value => Sys2Proof.Machine.execViewSlotStore host addr value s
  | .viewWindowConfig tenant value => Sys2Proof.Machine.execViewWindowConfig tenant value s
  | .gatewayStore host addr bytes => Sys2Proof.Machine.execGatewayStore host addr bytes s
  | .gatewayDoorbell host addr value => Sys2Proof.Machine.execGatewayDoorbell host addr value s
  | .gatewayFlushDone gateway => Sys2Proof.Machine.execGatewayFlushDone gateway s
  | .gatewayBufferTimeout gateway page now => Sys2Proof.Machine.execGatewayBufferTimeout gateway page now s
  | .gatewayLoad host addr size => Sys2Proof.Machine.execGatewayLoad host addr size s
  | .gatewayConfig gateway reg value => Sys2Proof.Machine.execGatewayConfig gateway reg value s
  | .dcAddExtent region idx tag hosts => Sys2Proof.Machine.execDcAddExtent region idx tag hosts s
  | .plainExtentReady idx => Sys2Proof.Machine.execPlainExtentReady idx s
  | .plainExtentAddTimeout idx now => Sys2Proof.Machine.execPlainExtentAddTimeout idx now s
  | .dcReleaseExtent region idx host => Sys2Proof.Machine.execDcReleaseExtent region idx host s
  | .dcReleaseComplete region idx => Sys2Proof.Machine.execDcReleaseComplete region idx s
  | .cxlLinkTrain link rate width flitOk decoders => Sys2Proof.Machine.execCxlLinkTrain link rate width flitOk decoders s
  | .hostLost host byLink => Sys2Proof.Machine.execHostLost host byLink s
  | .orphanScanComplete => Sys2Proof.Machine.execOrphanScanComplete s
  | .orphanLogClear => Sys2Proof.Machine.execOrphanLogClear s
  | .orphanLogQuery value => Sys2Proof.Machine.execOrphanLogQuery value s
  | .unallocatedAccess bar2 wr host off size => Sys2Proof.Machine.execUnallocatedAccess bar2 wr host off size s
  | .registerWrite off size value => Sys2Proof.Machine.execRegisterWrite off size value s
  | .registerReadClear off size => Sys2Proof.Machine.execRegisterReadClear off size s
  | .lockSet value => Sys2Proof.Machine.execLockSet value s
  | .logClear value => Sys2Proof.Machine.execLogClear value s
  | .logReadIndex value => Sys2Proof.Machine.execLogReadIndex value s
  | .nodeQuery value => Sys2Proof.Machine.execNodeQuery value s
  | .pageQuery value => Sys2Proof.Machine.execPageQuery value s
  | .generationQuery value => Sys2Proof.Machine.execGenerationQuery value s
  | .histogramConfig value => Sys2Proof.Machine.execHistogramConfig value s
  | .counterDecay => Sys2Proof.Machine.execCounterDecay s
  | .demotePage holder => Sys2Proof.Machine.execDemotePage holder s
  | .stashPage handle layer => Sys2Proof.Machine.execStashPage handle layer s
  | .stashDurable handle layer => Sys2Proof.Machine.execStashDurable handle layer s
  | .stagingComplete handle layer picks readOk => Sys2Proof.Machine.execStagingComplete handle layer picks readOk s
  | .makeHollow holder => Sys2Proof.Machine.execMakeHollow holder s
  | .unlinkHollow => Sys2Proof.Machine.execUnlinkHollow s
  | .quotaWaitTimeout uid => Sys2Proof.Machine.execQuotaWaitTimeout uid s
  | .spaceWaitTimeout uid => Sys2Proof.Machine.execSpaceWaitTimeout uid s
  | .frameCompact base picks => Sys2Proof.Machine.execFrameCompact base picks s
  | .patternStage fn word0 word1 data => Sys2Proof.Machine.execPatternStage fn word0 word1 data s
  | .patternActivate fn word0 => Sys2Proof.Machine.execPatternActivate fn word0 s
  | .patternAbort fn word0 => Sys2Proof.Machine.execPatternAbort fn word0 s
  | .patternQuery fn word0 => Sys2Proof.Machine.execPatternQuery fn word0 s
  | .patternProgramDone ok => Sys2Proof.Machine.execPatternProgramDone ok s
  | .panelSwapStage fn word0 word1 data => Sys2Proof.Machine.execPanelSwapStage fn word0 word1 data s
  | .panelSwapActivate fn word0 => Sys2Proof.Machine.execPanelSwapActivate fn word0 s
  | .panelSwapAbort fn word0 => Sys2Proof.Machine.execPanelSwapAbort fn word0 s
  | .panelSwapQuery fn word0 => Sys2Proof.Machine.execPanelSwapQuery fn word0 s
  | .panelSwapProgramDone ok => Sys2Proof.Machine.execPanelSwapProgramDone ok s
  | .patternPersistDone => Sys2Proof.Machine.execPatternPersistDone s
  | .ringEnable value => Sys2Proof.Machine.execRingEnable value s
  | .ringLinkTrained link width peerId peerPos peerNmem verOk => Sys2Proof.Machine.execRingLinkTrained link width peerId peerPos peerNmem verOk s
  | .ringLinkDown link retraining => Sys2Proof.Machine.execRingLinkDown link retraining s
  | .ringCablePresence link present => Sys2Proof.Machine.execRingCablePresence link present s
  | .ringDataFrame link frame => Sys2Proof.Machine.execRingDataFrame link frame s
  | .ringControlFrame link frame credits replay => Sys2Proof.Machine.execRingControlFrame link frame credits replay s
  | .ringCheck src last ok => Sys2Proof.Machine.execRingCheck src last ok s
  | .getReq link msg => Sys2Proof.Machine.execGetReq link msg s
  | .getData link msg => Sys2Proof.Machine.execGetData link msg s
  | .ringPut link msg => Sys2Proof.Machine.execRingPut link msg s
  | .reducePut link msg => Sys2Proof.Machine.execReducePut link msg s
  | .ringAck link msg => Sys2Proof.Machine.execRingAck link msg s
  | .rattHdr link dst hdr => Sys2Proof.Machine.execRattHdr link dst hdr s
  | .rattBlock link block => Sys2Proof.Machine.execRattBlock link block s
  | .camSearch src cpos uid word => Sys2Proof.Machine.execCamSearch src cpos uid word s
  | .camHit link dst uid pos handle => Sys2Proof.Machine.execCamHit link dst uid pos handle s
  | .cascadeSlot slot matchIn => Sys2Proof.Machine.execCascadeSlot slot matchIn s
  | .cascadeMissTimeout uid => Sys2Proof.Machine.execCascadeMissTimeout uid s
  | .ringCtxOpen ctx value => Sys2Proof.Machine.execRingCtxOpen ctx value s
  | .ringCtxAbort ctx value => Sys2Proof.Machine.execRingCtxAbort ctx value s
  | .ringCtxClose ctx value => Sys2Proof.Machine.execRingCtxClose ctx value s
  | .ringAbortComplete ctx => Sys2Proof.Machine.execRingAbortComplete ctx s
  | .descriptorTailWrite host ctx value => Sys2Proof.Machine.execDescriptorTailWrite host ctx value s
  | .descriptorTake ctx => Sys2Proof.Machine.execDescriptorTake ctx s
  | .descriptorDone ctx idx => Sys2Proof.Machine.execDescriptorDone ctx idx s
  | .shuttlePortLink port state => Sys2Proof.Machine.execShuttlePortLink port state s
  | .arpRequest port target => Sys2Proof.Machine.execArpRequest port target s
  | .neighbourSolicitation port target => Sys2Proof.Machine.execNeighbourSolicitation port target s
  | .icmpEchoRequest port v6 dst bytes => Sys2Proof.Machine.execIcmpEchoRequest port v6 dst bytes s
  | .pfcFrame port enables quanta => Sys2Proof.Machine.execPfcFrame port enables quanta s
  | .ptpEventMessage msg now => Sys2Proof.Machine.execPtpEventMessage msg now s
  | .qpRead qpn => Sys2Proof.Machine.execQpRead qpn s
  | .qpWrite qpn => Sys2Proof.Machine.execQpWrite qpn s
  | .qpActivate qpn => Sys2Proof.Machine.execQpActivate qpn s
  | .qpError qpn => Sys2Proof.Machine.execQpError qpn s
  | .qpReset qpn => Sys2Proof.Machine.execQpReset qpn s
  | .qpControlWrite host qpn word value => Sys2Proof.Machine.execQpControlWrite host qpn word value s
  | .wrSend qpn hostMem fault => Sys2Proof.Machine.execWrSend qpn hostMem fault s
  | .wrPut qpn hostMem fault => Sys2Proof.Machine.execWrPut qpn hostMem fault s
  | .wrCompareSwap qpn => Sys2Proof.Machine.execWrCompareSwap qpn s
  | .wrFetchAdd qpn => Sys2Proof.Machine.execWrFetchAdd qpn s
  | .wrReduce qpn hostMem fault => Sys2Proof.Machine.execWrReduce qpn hostMem fault s
  | .wrFlush qpn => Sys2Proof.Machine.execWrFlush qpn s
  | .wrNop qpn => Sys2Proof.Machine.execWrNop qpn s
  | .wrWaitSatisfied qpn hostMem fault => Sys2Proof.Machine.execWrWaitSatisfied qpn hostMem fault s
  | .shuttleSend port src udp pkt fault => Sys2Proof.Machine.execShuttleSend port src udp pkt fault s
  | .shuttlePut port src udp pkt => Sys2Proof.Machine.execShuttlePut port src udp pkt s
  | .nmoReq port src udp pkt => Sys2Proof.Machine.execNmoReq port src udp pkt s
  | .nmoResp port src udp pkt => Sys2Proof.Machine.execNmoResp port src udp pkt s
  | .flushReq port src udp pkt => Sys2Proof.Machine.execFlushReq port src udp pkt s
  | .flushResp port src udp pkt => Sys2Proof.Machine.execFlushResp port src udp pkt s
  | .shuttleAck port src udp pkt => Sys2Proof.Machine.execShuttleAck port src udp pkt s
  | .shuttleNak port src udp pkt => Sys2Proof.Machine.execShuttleNak port src udp pkt s
  | .ackTimer qpn => Sys2Proof.Machine.execAckTimer qpn s
  | .retxTimeout qpn => Sys2Proof.Machine.execRetxTimeout qpn s
  | .rnrRetryTimer qpn psn => Sys2Proof.Machine.execRnrRetryTimer qpn psn s
  | .faultRetryTimer qpn psn => Sys2Proof.Machine.execFaultRetryTimer qpn psn s
  | .placementFaultTimeout qpn psn => Sys2Proof.Machine.execPlacementFaultTimeout qpn psn s
  | .pageRequestResponse qpn rx ok hostMem => Sys2Proof.Machine.execPageRequestResponse qpn rx ok hostMem s
  | .atsInvalidation host pasid firstPage pages => Sys2Proof.Machine.execAtsInvalidation host pasid firstPage pages s
  | .receiveComplete qpn msn => Sys2Proof.Machine.execReceiveComplete qpn msn s
  | .cqEntryWrite qpn => Sys2Proof.Machine.execCqEntryWrite qpn s
  | .flashOpComplete op => Sys2Proof.Machine.execFlashOpComplete op s
  | .journalFlush wrap => Sys2Proof.Machine.execJournalFlush wrap s
  | .mapCheckpoint now => Sys2Proof.Machine.execMapCheckpoint now s
  | .slcTargetRecompute => Sys2Proof.Machine.execSlcTargetRecompute s
  | .gcStepRecompute => Sys2Proof.Machine.execGcStepRecompute s
  | .gcStart channel idleUs => Sys2Proof.Machine.execGcStart channel idleUs s
  | .imageMove handle layer readOk => Sys2Proof.Machine.execImageMove handle layer readOk s
  | .unitErase unit ok => Sys2Proof.Machine.execUnitErase unit ok s
  | .fold handle layer readOk => Sys2Proof.Machine.execFold handle layer readOk s
  | .unitRetire unit => Sys2Proof.Machine.execUnitRetire unit s
  | .targetFailed channel ce => Sys2Proof.Machine.execTargetFailed channel ce s
  | .flashTempPoll temps => Sys2Proof.Machine.execFlashTempPoll temps s
  | .flashRetrain channel ce => Sys2Proof.Machine.execFlashRetrain channel ce s
  | .powerFailFlush flushUs saved sealWhole now => Sys2Proof.Machine.execPowerFailFlush flushUs saved sealWhole now s
  | .scrubRow row now => Sys2Proof.Machine.execScrubRow row now s
  | .stackLost stack cause => Sys2Proof.Machine.execStackLost stack cause s
  | .rebuildCopyStart => Sys2Proof.Machine.execRebuildCopyStart s
  | .rebuildComplete => Sys2Proof.Machine.execRebuildComplete s
  | .selftest value => Sys2Proof.Machine.execSelftest value s
  | .selftestDone pass => Sys2Proof.Machine.execSelftestDone pass s
  | .retireStack value => Sys2Proof.Machine.execRetireStack value s
  | .retireCore value => Sys2Proof.Machine.execRetireCore value s
  | .coreRetire core cause => Sys2Proof.Machine.execCoreRetire core cause s
  | .knownAnswerTest core ok => Sys2Proof.Machine.execKnownAnswerTest core ok s
  | .stewardHeartbeat steward alive now => Sys2Proof.Machine.execStewardHeartbeat steward alive now s
  | .stewardRecovered steward => Sys2Proof.Machine.execStewardRecovered steward s
  | .capsuleSnapshot now => Sys2Proof.Machine.execCapsuleSnapshot now s
  | .capsuleReadSummary fn => Sys2Proof.Machine.execCapsuleReadSummary fn s
  | .capsuleReadPiece fn piece => Sys2Proof.Machine.execCapsuleReadPiece fn piece s
  | .spdmRequest fn req => Sys2Proof.Machine.execSpdmRequest fn req s
  | .ideKmKeyProg session link stream key => Sys2Proof.Machine.execIdeKmKeyProg session link stream key s
  | .tdispRequest session req => Sys2Proof.Machine.execTdispRequest session req s
  | .tenantKey session tenant key => Sys2Proof.Machine.execTenantKey session tenant key s
  | .tenantSeal session tenant ngrp grprw key groups => Sys2Proof.Machine.execTenantSeal session tenant ngrp grprw key groups s
  | .qpKey session qpn key => Sys2Proof.Machine.execQpKey session qpn key s
  | .groupHkey session group key => Sys2Proof.Machine.execGroupHkey session group key s
  | .sealQuery session tenant => Sys2Proof.Machine.execSealQuery session tenant s
  | .pqSign fn => Sys2Proof.Machine.execPqSign fn s
  | .tenantKeyGenerate value => Sys2Proof.Machine.execTenantKeyGenerate value s
  | .lifecycleChallenge fn => Sys2Proof.Machine.execLifecycleChallenge fn s
  | .lifecycleAdvance fn payload => Sys2Proof.Machine.execLifecycleAdvance fn payload s
  | .cryptoEraseComplete => Sys2Proof.Machine.execCryptoEraseComplete s
  | .fwStageErase fn => Sys2Proof.Machine.execFwStageErase fn s
  | .fwStageWrite fn offset bytes => Sys2Proof.Machine.execFwStageWrite fn offset bytes s
  | .fwStageVerify fn => Sys2Proof.Machine.execFwStageVerify fn s
  | .fwSelect fn => Sys2Proof.Machine.execFwSelect fn s
  | .fwCommitSvn fn => Sys2Proof.Machine.execFwCommitSvn fn s
  | .fwQuery fn => Sys2Proof.Machine.execFwQuery fn s
  | .pldmFirmwareUpdate phase offset bytes => Sys2Proof.Machine.execPldmFirmwareUpdate phase offset bytes s
  | .calRead fn offset size => Sys2Proof.Machine.execCalRead fn offset size s
  | .calWrite fn offset bytes => Sys2Proof.Machine.execCalWrite fn offset bytes s
  | .healthGet fn => Sys2Proof.Machine.execHealthGet fn s
  | .getHealthInfo fn => Sys2Proof.Machine.execGetHealthInfo fn s
  | .getPoisonList fn => Sys2Proof.Machine.execGetPoisonList fn s
  | .clearPoison fn addr bytes => Sys2Proof.Machine.execClearPoison fn addr bytes s
  | .getEventRecords fn owner log => Sys2Proof.Machine.execGetEventRecords fn owner log s
  | .clearEventRecords fn owner log all handles => Sys2Proof.Machine.execClearEventRecords fn owner log all handles s
  | .identifyMemoryDevice fn => Sys2Proof.Machine.execIdentifyMemoryDevice fn s
  | .getLog fn vendor first count => Sys2Proof.Machine.execGetLog fn vendor first count s
  | .getTimestamp fn => Sys2Proof.Machine.execGetTimestamp fn s
  | .setTimestamp fn value => Sys2Proof.Machine.execSetTimestamp fn value s
  | .unsupportedMailboxCommand fn opcode action => Sys2Proof.Machine.execUnsupportedMailboxCommand fn opcode action s
  | .tenantReset value => Sys2Proof.Machine.execTenantReset value s
  | .islandReset value now => Sys2Proof.Machine.execIslandReset value now s
  | .dtimeSet value => Sys2Proof.Machine.execDtimeSet value s
  | .ringTimeExchange offset neighbour now => Sys2Proof.Machine.execRingTimeExchange offset neighbour now s
  | .ppsPulse now => Sys2Proof.Machine.execPpsPulse now s
  | .powerSample avgW peakW hbmW cdW avs0 avs1 now => Sys2Proof.Machine.execPowerSample avgW peakW hbmW cdW avs0 avs1 now s
  | .clockAdjust island seamPct now => Sys2Proof.Machine.execClockAdjust island seamPct now s
  | .thermalStep cd0 cd1 xd stackTemps now => Sys2Proof.Machine.execThermalStep cd0 cd1 xd stackTemps now s
  | .thermalTrip die temp => Sys2Proof.Machine.execThermalTrip die temp s
  | .quietEntry idleUs now => Sys2Proof.Machine.execQuietEntry idleUs now s
  | .standbyEntry now => Sys2Proof.Machine.execStandbyEntry now s
  | .standbyExit now => Sys2Proof.Machine.execStandbyExit now s
  | .perstAssert now => Sys2Proof.Machine.execPerstAssert now s
  | .powerOn => Sys2Proof.Machine.execPowerOn s
  | .startup found now => Sys2Proof.Machine.execStartup found now s
  | .mediaReady ms now => Sys2Proof.Machine.execMediaReady ms now s
  | .startupRebuildDone => Sys2Proof.Machine.execStartupRebuildDone s
  | .watchdogExpiry now => Sys2Proof.Machine.execWatchdogExpiry now s
  | .functionReset => Sys2Proof.Machine.execFunctionReset s
  | .flr host => Sys2Proof.Machine.execFlr host s
  | .pwrFailNDeassert now => Sys2Proof.Machine.execPwrFailNDeassert now s
  | .railLeavesRegulation inQuiesce flushUs saved sealWhole => Sys2Proof.Machine.execRailLeavesRegulation inQuiesce flushUs saved sealWhole s
  | .suppliesRemoved => Sys2Proof.Machine.execSuppliesRemoved s
  | .systemReferenceLost => Sys2Proof.Machine.execSystemReferenceLost s
  | .ringDisable value => Sys2Proof.Machine.execRingDisable value s
  | .fmLdBind host => Sys2Proof.Machine.execFmLdBind host s
  | .nearMemoryComplete uid readOk => Sys2Proof.Machine.execNearMemoryComplete uid readOk s
  | .otherReceivedFrame => Sys2Proof.Machine.execOtherReceivedFrame s
  | .platformEventRead => Sys2Proof.Machine.execPlatformEventRead s
  | .jtagInstruction op pins cells => Sys2Proof.Machine.execJtagInstruction op pins cells s
  | .rebuildWaitingForSpace now => Sys2Proof.Machine.execRebuildWaitingForSpace now s
  | .setEventInterruptPolicy fn modes => Sys2Proof.Machine.execSetEventInterruptPolicy fn modes s

end Sys2Proof.Machine
end

