-- ==== Sys2Proof/Machine/Step.lean ====
section
/-!
DEFINITION. One step of the machine: the command at the front of its queue runs on the rest of it; with no command waiting, a nanosecond of the system reference passes.
-/
namespace Sys2Proof.Machine

/-- One step. An idle step is a tick of the reference clock. -/
def step (s : State) : Host.Outcome State Fault Refusal :=
  match s.pending with
  | [] => .next s.tick
  | c :: rest => exec c { s with pending := rest }

/-- The state with a command at the front of its queue. (log entry 1, DESIGN CHOICE) -/
def State.command (s : State) (c : Instr) : State := { s with pending := c :: s.pending }

/-- The state with the command that a word of the operation table spells at the front of its queue; unchanged where the word spells none. (log entry 5, DEDUCED) -/
def State.withFetchWord (s : State) (nbits w : Nat) : State :=
  match decodeTableWord nbits w with
  | some c => s.command c
  | none => s

end Sys2Proof.Machine
end

