-- ==== Sys2Proof/Safety.lean ====
section
/-!
DEFINITION. What the claims about the part are stated in: which pieces of the state a step may have changed, and the form that the state keeps whatever is commanded.
-/
namespace Sys2Proof.Machine

/-- A piece of the state: a field of State, or a register of BAR0 with all its copies. -/
inductive Part where
  | pending | dtime | freeCtr | out | fuses | log | events | mctp | geoGen | geoUpd | uaLogAt | denyLogAt | capRecs | capSnaps | capFail | capFatal
  | stewards | reconTimes | reconLog | preTest | rebuildAt | rebuildWarned | staging | pattern | bootA | bootB | load | bg | cores | geom | buckets
  | wheels | devLevels | spools | comps | rotor | inflight | nextUid | chunks | seqs | pins | nsKeys | frames | epochs | images | cacheSf | metaSf
  | parity | dropPaused | outRem | rowN | gens | viewCache | histPages | viewSlots | viewWaits | pbase | syncAt | plainMem | poisonLines
  | orphanLines | orphanLog | extents | released | snoopFilter | snoops | lineQ | lostHosts | unbackedLogAt | curLog | rlinks | ringOut | rctx
  | ringHeld | camReqs | gws | qps | qpKeys | shOut | pfcUntil | atsCache | orphanPend | linkIn | hdm | evLost | evPolicy | flash | units | streams
  | eraseLists | victims | journalUnit | slcTarget | checkpointAt | copiedCw | saved | tdis | sessions | signed | ideKeys | dataKeys | sealReq
  | memKey | serial | serialTop | keyRows | nonce | deviceCerts | ownerCerts | lcTarget | slotA | slotB | fwRun | measured | fwWriter | calib
  | heldActs | tenantResets | capDown | ecoDown | avsMiss | lastSlow | keyRepl | replaceN | power | jtag
  | reg (k : RegKind)
  deriving DecidableEq, Repr

/-- The piece is the same in two states. -/
def Part.same (s t : State) : Part → Prop
  | .pending => t.pending = s.pending
  | .dtime => t.dtime = s.dtime
  | .freeCtr => t.freeCtr = s.freeCtr
  | .out => t.out = s.out
  | .fuses => t.fuses = s.fuses
  | .log => t.log = s.log
  | .events => t.events = s.events
  | .mctp => t.mctp = s.mctp
  | .geoGen => t.geoGen = s.geoGen
  | .geoUpd => t.geoUpd = s.geoUpd
  | .uaLogAt => t.uaLogAt = s.uaLogAt
  | .denyLogAt => t.denyLogAt = s.denyLogAt
  | .capRecs => t.capRecs = s.capRecs
  | .capSnaps => t.capSnaps = s.capSnaps
  | .capFail => t.capFail = s.capFail
  | .capFatal => t.capFatal = s.capFatal
  | .stewards => t.stewards = s.stewards
  | .reconTimes => t.reconTimes = s.reconTimes
  | .reconLog => t.reconLog = s.reconLog
  | .preTest => t.preTest = s.preTest
  | .rebuildAt => t.rebuildAt = s.rebuildAt
  | .rebuildWarned => t.rebuildWarned = s.rebuildWarned
  | .staging => t.staging = s.staging
  | .pattern => t.pattern = s.pattern
  | .bootA => t.bootA = s.bootA
  | .bootB => t.bootB = s.bootB
  | .load => t.load = s.load
  | .bg => t.bg = s.bg
  | .cores => t.cores = s.cores
  | .geom => t.geom = s.geom
  | .buckets => t.buckets = s.buckets
  | .wheels => t.wheels = s.wheels
  | .devLevels => t.devLevels = s.devLevels
  | .spools => t.spools = s.spools
  | .comps => t.comps = s.comps
  | .rotor => t.rotor = s.rotor
  | .inflight => t.inflight = s.inflight
  | .nextUid => t.nextUid = s.nextUid
  | .chunks => t.chunks = s.chunks
  | .seqs => t.seqs = s.seqs
  | .pins => t.pins = s.pins
  | .nsKeys => t.nsKeys = s.nsKeys
  | .frames => t.frames = s.frames
  | .epochs => t.epochs = s.epochs
  | .images => t.images = s.images
  | .cacheSf => t.cacheSf = s.cacheSf
  | .metaSf => t.metaSf = s.metaSf
  | .parity => t.parity = s.parity
  | .dropPaused => t.dropPaused = s.dropPaused
  | .outRem => t.outRem = s.outRem
  | .rowN => t.rowN = s.rowN
  | .gens => t.gens = s.gens
  | .viewCache => t.viewCache = s.viewCache
  | .histPages => t.histPages = s.histPages
  | .viewSlots => t.viewSlots = s.viewSlots
  | .viewWaits => t.viewWaits = s.viewWaits
  | .pbase => t.pbase = s.pbase
  | .syncAt => t.syncAt = s.syncAt
  | .plainMem => t.plainMem = s.plainMem
  | .poisonLines => t.poisonLines = s.poisonLines
  | .orphanLines => t.orphanLines = s.orphanLines
  | .orphanLog => t.orphanLog = s.orphanLog
  | .extents => t.extents = s.extents
  | .released => t.released = s.released
  | .snoopFilter => t.snoopFilter = s.snoopFilter
  | .snoops => t.snoops = s.snoops
  | .lineQ => t.lineQ = s.lineQ
  | .lostHosts => t.lostHosts = s.lostHosts
  | .unbackedLogAt => t.unbackedLogAt = s.unbackedLogAt
  | .curLog => t.curLog = s.curLog
  | .rlinks => t.rlinks = s.rlinks
  | .ringOut => t.ringOut = s.ringOut
  | .rctx => t.rctx = s.rctx
  | .ringHeld => t.ringHeld = s.ringHeld
  | .camReqs => t.camReqs = s.camReqs
  | .gws => t.gws = s.gws
  | .qps => t.qps = s.qps
  | .qpKeys => t.qpKeys = s.qpKeys
  | .shOut => t.shOut = s.shOut
  | .pfcUntil => t.pfcUntil = s.pfcUntil
  | .atsCache => t.atsCache = s.atsCache
  | .orphanPend => t.orphanPend = s.orphanPend
  | .linkIn => t.linkIn = s.linkIn
  | .hdm => t.hdm = s.hdm
  | .evLost => t.evLost = s.evLost
  | .evPolicy => t.evPolicy = s.evPolicy
  | .flash => t.flash = s.flash
  | .units => t.units = s.units
  | .streams => t.streams = s.streams
  | .eraseLists => t.eraseLists = s.eraseLists
  | .victims => t.victims = s.victims
  | .journalUnit => t.journalUnit = s.journalUnit
  | .slcTarget => t.slcTarget = s.slcTarget
  | .checkpointAt => t.checkpointAt = s.checkpointAt
  | .copiedCw => t.copiedCw = s.copiedCw
  | .saved => t.saved = s.saved
  | .tdis => t.tdis = s.tdis
  | .sessions => t.sessions = s.sessions
  | .signed => t.signed = s.signed
  | .ideKeys => t.ideKeys = s.ideKeys
  | .dataKeys => t.dataKeys = s.dataKeys
  | .sealReq => t.sealReq = s.sealReq
  | .memKey => t.memKey = s.memKey
  | .serial => t.serial = s.serial
  | .serialTop => t.serialTop = s.serialTop
  | .keyRows => t.keyRows = s.keyRows
  | .nonce => t.nonce = s.nonce
  | .deviceCerts => t.deviceCerts = s.deviceCerts
  | .ownerCerts => t.ownerCerts = s.ownerCerts
  | .lcTarget => t.lcTarget = s.lcTarget
  | .slotA => t.slotA = s.slotA
  | .slotB => t.slotB = s.slotB
  | .fwRun => t.fwRun = s.fwRun
  | .measured => t.measured = s.measured
  | .fwWriter => t.fwWriter = s.fwWriter
  | .calib => t.calib = s.calib
  | .heldActs => t.heldActs = s.heldActs
  | .tenantResets => t.tenantResets = s.tenantResets
  | .capDown => t.capDown = s.capDown
  | .ecoDown => t.ecoDown = s.ecoDown
  | .avsMiss => t.avsMiss = s.avsMiss
  | .lastSlow => t.lastSlow = s.lastSlow
  | .keyRepl => t.keyRepl = s.keyRepl
  | .replaceN => t.replaceN = s.replaceN
  | .power => t.power = s.power
  | .jtag => t.jtag = s.jtag
  | .reg k => ∀ i, t.reg k i = s.reg k i

/-- The frame of a step from s to t: every piece of the state but those listed is unchanged. -/
def ChangesOnly (w : List Part) (s t : State) : Prop := ∀ p, p ∉ w → p.same s t

/-- What every record of LOG may change (R602, R736, R738): the ring and its registers, the capsule, and the alert for the management controller. -/
def noted : List Part := [.log, .mctp, .capRecs, .capSnaps, .capFail, .capFatal, .reg .LOG_PTR, .reg .LOG_SEV]

/-- What the release of chunks, frames, images and generations that nothing refers to any more may change (R211, R240, R315). -/
def freed : List Part := [.geom, .chunks, .frames, .epochs, .images, .gens, .reg .CDR_EVT]

/-- A list of fields and registers. -/
def pieces (l : List Part) (r : List RegKind) : List Part := l ++ r.map .reg

/-- The command answers a next state in which only these pieces may have changed. -/
def MayChange (i : Instr) (s : State) (l : List Part) : Prop := ∃ t, exec i s = .next t ∧ ChangesOnly l s t

/-- The pieces listed are the same in two states. -/
def Unchanged (l : List Part) (s t : State) : Prop := ∀ p ∈ l, p.same s t

/-- The form that the state keeps whatever is commanded: byte memories are canonical, and no log or ring holds more than the spec gives it. -/
structure Invariant (s : State) : Prop where
  /-- The content of plain regions is canonical (R443, R446). -/
  plain : s.plainMem.wf = true
  /-- So is each firmware slot (R645), and the calibration block (R651). -/
  slotA : s.slotA.wf = true
  slotB : s.slotB.wf = true
  calib : s.calib.wf = true
  /-- LOG is a ring of 8,192 records (R736). -/
  log : s.log.length ≤ 8192
  /-- The fault capsule holds 4,096 event records and 64 snapshots (R602). -/
  records : s.capRecs.length ≤ 4096
  snapshots : s.capSnaps.length ≤ 64
  /-- Each event log of a function holds 1,024 records (R475). -/
  events : ∀ fn log, (s.eventLog fn log).length ≤ 1024
  /-- The orphan log holds 65,536 entries (R458). -/
  orphans : s.orphanLog.length ≤ 65536

/-- The command answers a next state, of which `p` holds. -/
def Completes (i : Instr) (s : State) (p : State → Prop) : Prop := ∃ t, exec i s = .next t ∧ p t

/-- What waits to be written for a command that was taken and has ended with a result (R156, R158). -/
def doneOf (c : Cmd) (code : Nat) (r0 r1 : Word) : Done :=
  { sq := c.sq, seq := c.seq, opcode := c.opcode, ncell := c.ncell, tag := c.tag, code, r0, r1, counted := true }

/-- From s to t a command has ended with this result: it is in flight no more, and its entry is the last that waits for its completion spool (R158). -/
def Ended (s t : State) (c : Cmd) (code : Nat) (r0 r1 : Word) : Prop :=
  t.cmd c.uid = none ∧ (t.comp c.tenant c.cq).waiting = (s.comp c.tenant c.cq).waiting ++ [doneOf c code r0 r1]

/-- From s to t, a load or swap has ended with an error: no load is under way, the pattern that ran is in force, and the background status and PAT_ERRDET say why (R75, R80, R93). -/
def LoadEnded (s t : State) (swap : Bool) (e : PatErr) : Prop :=
  t.load = none ∧ t.pattern = s.pattern ∧
  t.bg = { opcode := loadOp swap, running := false, ret := if e.code = 0x19 then mbInternal else mbInvalid, vendor := e.code } ∧
  t.reg .PAT_ERRDET = packWord [(32, e.soff % 2 ^ 32), (16, e.panel), (0, e.type)]

/-- The next work request of a QP is w: it is taken now, the lines of its slot and of its plain source being free, and v is the state with it taken (R499). -/
abbrev WrTaken (s : State) (q : Nat) (w : QpWr) (v : State) : Prop :=
  let a := (s.qp q).base 5 + 64 * ((s.qp q).sqHead % (s.qp q).slots 5)
  let src := (a, 64) :: if rangeBacked s.wake ((s.qp q).host s.wake) w.laddr (max 1 w.len) then wrLines w else []
  wrTakeable s q = true ∧ (s.wake.coherentFor (shJob q) ((mapFind s.curLog (shJob q)).getD []) [(a, 64)] []).2 = true ∧
    w = wrOf (s.wake.plainBytes a 64) (s.qp q).sqHead ∧ w.waits = none ∧ (s.wake.coherentJob (shJob q) src []).2 = true ∧
    v = (s.wake.coherentJob (shJob q) src []).1.setQp q { s.wake.qp q with sqHead := ((s.qp q).sqHead + 1) % 2 ^ 32 }

/-- A packet p is accepted for its QP as a fresh request: u is the state with the part awake and the packet counted, d the packet with its payload in the clear
(R489, R493, R507, R511). -/
abbrev FreshPacket (s : State) (port : Fin 2) (src : Wide) (udp : ShWire) (p : ShPkt) (u : State) (d : ShPkt) : Prop :=
  (s.shReceive port.val src.toNat udp p).2 = true ∧ d = s.wake.unseal p ∧ psnPlace (s.wake.qp d.dqpn) d.psn = .fresh ∧ u = s.wake.addFld Fd.SHT_CNT0_RXPKT 1

end Sys2Proof.Machine
end

