-- ==== Sys2Proof/Certificates/Slice0/Obligations.lean ====
section
/-!
DEFINITION. The statements about the part, for the provers. Each docstring says which rules of the spec it states; a clause that rests on a choice of the model names its log entry.
-/

set_option Elab.async false
open Sys2Proof Sys2Proof.Machine


/-- Aperture writes, doorbells, spool resets and probe-base writes complete with their effects. An allowed host write of a whole cell is captured at its sequence position, an allowed doorbell moves TAIL forward, changes nothing where its TAIL does not move forward or its size is not 8, a reset doorbell empties the spool, and a write of a quadrant's base sets PBASE; a denied write of any of these is counted and dropped. -/
def Obligations.SpoolWritesComplete : Prop :=
  -- R139: 64 bytes written to an aperture slot within the grant are captured as the cell at its sequence number.
  (∀ (s : State) (h : HostId) (t : TenantId) (n : Fin 4) (off : Fin 4096) (bs : List Byte) (q : Nat),
      (hrtLookup s h true (winAddr t (4096 * n + off)) true .other).isSome → off.val % 64 = 0 → bs.length = 64 → q = slotSeq (s.sqNext t n) (off / 64) → s.sqError t n = false → seqSub q (s.sqFreed t n) < sqGrant s t n → mapFind (s.spool t n).part (off / 64) = none → (s.spool t n).cutting = none → 
        Completes (.submissionCellWrite h t n off bs) s fun u =>
      mapFind (u.spool t n).cells q = some (wordsOf bs) ∧ u.sqFreed t n = s.sqFreed t n ∧ u.sqTail t n = s.sqTail t n) ∧
  -- R142: a doorbell that moves TAIL forward within the grant sets TAIL and nothing else.
  (∀ (s : State) (h : HostId) (t : TenantId) (n : Fin 4) (v : Word),
      (hrtLookup s h true (winAddr t (0x5000 + 8 * n)) true .other).isSome → bitsOf v 16 16 = 0 → 0 < seqSub (bitsOf v 15 0) (s.sqTail t n) → seqSub (bitsOf v 15 0) (s.sqTail t n) < 32768 → seqSub (bitsOf v 15 0) (s.sqFreed t n) ≤ sqGrant s t n → 
        exec (.doorbell h t n 8 v) s = .next (s.setFld Fd.SPL_SQS_TAIL (bitsOf v 15 0) (sqIdx t n))) ∧
  -- R142, R141: a doorbell whose TAIL is not ahead of the old one, or whose size is not 8 bytes, is ignored.
  (∀ (s : State) (h : HostId) (t : TenantId) (n : Fin 4) (size : Nat) (v : Word),
      (hrtLookup s h true (winAddr t (0x5000 + 8 * n)) true .other).isSome → size ≠ 8 ∨ bitsOf v 16 16 = 0 ∧ (seqSub (bitsOf v 15 0) (s.sqTail t n) = 0 ∨ 32768 ≤ seqSub (bitsOf v 15 0) (s.sqTail t n)) → 
        exec (.doorbell h t n size v) s = .next s) ∧
  -- R153: a doorbell beyond the grant is an overrun: TAIL stays, the spool is in ERROR and CREDOVR is set.
  (∀ (s : State) (h : HostId) (t : TenantId) (n : Fin 4) (v : Word),
      (hrtLookup s h true (winAddr t (0x5000 + 8 * n)) true .other).isSome → bitsOf v 16 16 = 0 → 0 < seqSub (bitsOf v 15 0) (s.sqTail t n) → seqSub (bitsOf v 15 0) (s.sqTail t n) < 32768 → sqGrant s t n < seqSub (bitsOf v 15 0) (s.sqFreed t n) → 
        Completes (.doorbell h t n 8 v) s fun u =>
      u.sqTail t n = s.sqTail t n ∧ u.sqError t n = true ∧ u.flag Fd.TNT_ERR_CREDOVR t = true) ∧
  -- R165: a reset doorbell empties the spool, sets NEXT, FREED and TAIL to its TAIL and clears ERROR.
  (∀ (s : State) (h : HostId) (t : TenantId) (n : Fin 4) (tail : BitVec 16),
      (hrtLookup s h true (winAddr t (0x5000 + 8 * n)) true .other).isSome → 
        Completes (.spoolReset h t n tail) s fun u =>
      (u.spool t n).cells = [] ∧ (u.spool t n).part = [] ∧ (u.spool t n).pos = tail.toNat ∧ u.sqNext t n = tail.toNat ∧
        u.sqFreed t n = tail.toNat ∧ u.sqTail t n = tail.toNat ∧ u.sqError t n = false) ∧
  -- R271: an 8-byte write to offset 0 of a quadrant sets its base to bits [9:0] of the data and nothing else.
  (∀ (s : State) (h : HostId) (t : TenantId) (q : Fin 4) (bs : List Byte) (off : Fin 65536),
      (hrtLookup s h true (winAddr t off) true .other).isSome → off.val = 0x8000 + 0x2000 * q → bs.length = 8 → 
        Completes (.probeBaseWrite h t off bs) s fun u => u.pbaseOf t q = ofLE bs % 1024 ∧ ChangesOnly [.pbase] s u) ∧
  -- R271: any other write to the probe window is dropped.
  (∀ (s : State) (h : HostId) (t : TenantId) (bs : List Byte) (off : Fin 65536),
      (hrtLookup s h true (winAddr t off) true .other).isSome → off.val % 0x2000 ≠ 0 ∨ bs.length ≠ 8 → 
        exec (.probeBaseWrite h t off bs) s = .next s) ∧
  -- R116: a denied write of any of these reaches nothing: it is counted in HRT_DENY and dropped.
  (∀ (s : State) (h : HostId) (t : TenantId) (n : Fin 4) (off : Fin 4096) (v : Word) (bs : List Byte),
      hrtLookup s h true (winAddr t (4096 * n + off)) true .other = none → hrtLookup s h true (winAddr t (0x5000 + 8 * n)) true .other = none → 
        exec (.submissionCellWrite h t n off bs) s = .next (s.deny h true (winAddr t (4096 * n + off))) ∧
    exec (.doorbell h t n 8 v) s = .next (s.deny h true (winAddr t (0x5000 + 8 * n))))

/-- Decoding, missing cells, completion entries, head reads, presence probes and NOP complete with their effects. The decoder takes the command whose turn it is and frees its cells, missing cells cancel a command or put its spool in ERROR, the entry of the command that ended first is written where the completion spool has room, a 32-byte head read returns and consumes the oldest entry, an aligned probe reports the presence codes, and NOP ends OK. -/
def Obligations.SpoolServiceCompletes : Prop :=
  -- R149: a command whose cells are all held, with no error of its own, is taken: it joins the commands in flight and its cells are freed.
  (∀ (s : State) (t n : Nat) (first : List Word),
      nextTenant s = some t → turnSpool s t = some n → mapFind (s.spool t n).cells (s.spool t n).pos = some first → cellsHeld (s.spool t n).cells (s.spool t n).pos (hdrNcell (wordAt first 0) + 1) = true → spoolResult s t first (bytesOf (cellWords (s.spool t n).cells (s.spool t n).pos (hdrNcell (wordAt first 0) + 1))) = none → partFailed s = false → panelBusy s t (hdrOpcode (wordAt first 0)) = false → 
        Completes .commandDecode s fun u =>
      (∃ c ∈ u.inflight, c.uid = s.nextUid ∧ c.tenant = t ∧ c.sq = n ∧ c.opcode = hdrOpcode (wordAt first 0) ∧ c.tag = hdrTag (wordAt first 0) ∧
        c.seq = (s.spool t n).pos ∧ c.full = true ∧ c.early = none ∧
        c.words = cellWords (s.spool t n).cells (s.spool t n).pos (hdrNcell (wordAt first 0) + 1)) ∧
      u.sqFreed t n = (s.sqFreed t n + (hdrNcell (wordAt first 0) + 1)) % 65536 ∧ u.rotor = t) ∧
  -- R151: 100 µs after its first cell a command with a cell missing ends CANCELLED with detail 0x0003, its cells are freed and the spool is in ERROR.
  (∀ (s : State) (t : TenantId) (n : Fin 4) (q : Fin 65536) (hdr : Word),
      s.active t = true → (s.spool t n).commands.find? (fun e => e.1 == q.val) = some (q.val, hdr) → cellsHeld (s.spool t n).cells q (hdrNcell hdr + 1) = false → pastError s t n q = false → (q.val = (s.spool t n).pos → (s.spool t n).cutting = none) → 
        Completes (.commandCellsMissing t n q) s fun u =>
      u.sqError t n = true ∧
      (u.comp t (cqFor s t hdr)).waiting = (s.comp t (cqFor s t hdr)).waiting ++
        [{ sq := n, seq := q, opcode := hdrOpcode hdr, ncell := hdrNcell hdr, tag := hdrTag hdr, code := Cc.cancelled, r0 := detailWord 0x0003, r1 := 0, counted := false }]) ∧
  -- R151: an announced command whose first cell does not arrive puts its spool in ERROR with ERR MISSING and ERRSEQ at the missing cell.
  (∀ (s : State) (t : TenantId) (n : Fin 4),
      s.active t = true → announced s t n = true → mapFind (s.spool t n).cells (s.spool t n).pos = none → s.sqError t n = false → 
        Completes (.announcedCellMissing t n) s fun u =>
      u.sqError t n = true ∧ u.fld Fd.SPL_SQE_ERR (sqIdx t n) = errMissing ∧
        u.fld Fd.SPL_SQE_ERRSEQ (sqIdx t n) = (s.spool t n).pos % 65536 ∧ ChangesOnly [.reg .SPL_SQE] s u) ∧
  -- R158, R156: the entry of the command that ended first is written, where the completion spool has room.
  (∀ (s : State) (t : TenantId) (m : Fin 2) (d : Done) (rest : List Done),
      (s.comp t m).waiting = d :: rest → (s.comp t m).unread.length < 2 * cqGrant s t m → 
        Completes (.completionEntryWrite t m) s fun u =>
      (u.comp t m).waiting = rest ∧ (u.comp t m).unread = (s.comp t m).unread ++ [entryWords d (s.sqFreed t d.sq) s.dtime] ∧
        ChangesOnly [.comps] s u) ∧
  -- R158: a full completion spool makes the entry wait.
  (∀ (s : State) (t : TenantId) (m : Fin 2),
      2 * cqGrant s t m ≤ (s.comp t m).unread.length → 
        exec (.completionEntryWrite t m) s = .next s) ∧
  -- R159: a 32-byte read at a completion spool's head returns the oldest unread entry and consumes it into the replay area.
  (∀ (s : State) (h : HostId) (t : TenantId) (off : Fin 65536) (m : Fin 2) (e : List Word) (rest : List (List Word)),
      off.val = 0x4000 + 64 * m → (hrtLookup s h true (winAddr t off) false .headRead).isSome → mediaReady s = true → (s.comp t m).unread = e :: rest → e.length = 4 → 
        Completes (.completionHeadRead h t off 32) s fun u =>
      u.out = s.out ++ [.readData h (bytesOf e) false] ∧ (u.comp t m).unread = rest ∧ (u.comp t m).replay = (e :: (s.comp t m).replay).take 16 ∧
        u.fld Fd.SPL_CQS_CONSUMED (cqIdx t m) = (s.fld Fd.SPL_CQS_CONSUMED (cqIdx t m) + 1) % 65536) ∧
  -- R272, R273: an aligned probe of an ACTIVE tenant returns a presence code for each handle it covers, two to a byte.
  (∀ (s : State) (h : HostId) (t : TenantId) (q : Fin 4) (b : Nat) (off : Fin 65536) (size : Nat) (port : Fin 4) (outstanding : Nat),
      off.val = 0x8000 + 0x2000 * q + b → b < 0x2000 → (hrtLookup s h true (winAddr t off) false .probeRead).isSome → isProbe off size = true → mediaReady s = true → s.active t = true → partFailed s = false → outstanding ≤ 32 → 
        Completes (.presenceProbe h t off size port outstanding) s fun u =>
      u.out = s.out ++ [.readData h ((List.range size).map fun i =>
        BitVec.ofNat 8 (probeCode s t (s.pbaseOf t q * 16384 + 2 * b + 2 * i) + 16 * probeCode s t (s.pbaseOf t q * 16384 + 2 * b + 2 * i + 1))) false] ∧
        ChangesOnly [.out, .reg .PGT_PRB] s u) ∧
  -- R278: a probe beyond 32 outstanding on its port is not accepted.
  (∀ (s : State) (h : HostId) (t : TenantId) (off : Fin 65536) (size : Nat) (port : Fin 4) (outstanding : Nat),
      (hrtLookup s h true (winAddr t off) false .probeRead).isSome → isProbe off size = true → 32 < outstanding → 
        exec (.presenceProbe h t off size port outstanding) s = .next s) ∧
  -- R147: NOP ends OK and changes nothing else.
  (∀ (s : State) (u : Nat) (c : Cmd),
      s.cmd u = some c → c.opcode = Oc.nop → c.full = true → 
        Completes (.nop u) s fun t => Ended s t c Cc.ok 0 0 ∧ ChangesOnly [.inflight, .comps] s t)

/-- LOOKUP, EXTEND, FORK, RELEASE, PIN and UNPIN complete with their results. Each ends with the code and the results its rule gives, with the sequence or chunk it makes, frees or shares, or the pin it adds or removes. -/
def Obligations.PrefixLookupsComplete : Prop :=
  -- R200, R201: a LOOKUP of inline tokens whose chain has no hollow node, without attaching, ends OK with the chain's result and the tokens covered.
  (∀ (s : State) (uid pick : Nat) (hm : HostMem) (c : Cmd) (ntok : Nat) (w : Walk),
      s.ready uid Oc.lookup = some c → c.work = .ready → ntok = fieldOf c.words 1 19 0 → 0 < ntok → fieldOf c.words 1 21 20 = 0 → fieldOf c.words 1 22 22 = 0 → w = walk s c.tenant (fieldOf c.words 1 39 24) (tokensOf ((inlineBytes c 1).take (4 * ntok))) [] → w.asks = none → w.chain.all (fun h => !isHollow s h) = true → 
        Completes (.lookup uid hm pick) s fun t => Ended s t c Cc.ok (lookupR0 s c.tenant w.chain.reverse 0 w.remote) (packWord [(24, w.pos)])) ∧
  -- R198, R224: a LOOKUP of no tokens is counted as completed and ends FORMAT_UNSUPPORTED with detail 0x0109.
  (∀ (s : State) (uid pick : Nat) (hm : HostMem) (c : Cmd),
      s.ready uid Oc.lookup = some c → fieldOf c.words 1 19 0 = 0 → 
        exec (.lookup uid hm pick) s = .next ((s.addFld Fd.PFX_CNT0_LOOKUPS 1).fail c Cc.formatUnsupported 0x0109)) ∧
  -- R203: EXTEND of a new sequence makes a sequence of one basted chunk at depth 1.
  (∀ (s : State) (uid sp cp : Nat) (c : Cmd) (h q : Nat),
      s.ready uid Oc.extend = some c → fieldOf c.words 1 22 22 = 1 → firstChunkWaits s (s.profileOf c.tenant) = false → (allocate s c.tenant true true cp sp).toOption = some (h, q) → ownerDown s h = false → ownerDown s q = false → 
        Completes (.extend uid sp cp) s fun t =>
      Ended s t c Cc.ok (packWord [(46, 0), (24, q), (0, h)]) (packWord [(14, 0), (0, 1)]) ∧
      t.seqOf q = some { tenant := c.tenant, chain := [h] } ∧
      t.chunk h = some (newBasted c.tenant (s.profileOf c.tenant) 1 none 0 (emptyPages s (s.profileOf c.tenant)))) ∧
  -- R209: FORK at a chunk boundary makes a new sequence over the same chunks.
  (∀ (s : State) (uid sp cp : Nat) (c : Cmd) (sq : Seq) (keep : List Nat) (h q : Nat),
      s.ready uid Oc.fork = some c → s.ownSeq c.tenant (fieldOf c.words 1 21 0) = some sq → 0 < fieldOf c.words 1 44 22 → fieldOf c.words 1 44 22 ≤ (sq.chain.map fun h => ((s.chunk h).map (extentOf s)).getD 0).sum → forkCut s sq.chain (fieldOf c.words 1 44 22) = (keep, none) → (allocate s c.tenant false true cp sp).toOption = some (h, q) → ownerDown s q = false → 
        Completes (.fork uid sp cp) s fun t =>
      Ended s t c Cc.ok (packWord [(46, 0), (22, keep.getLastD 0), (0, q)]) (packWord [(0, ((s.chunk (keep.getLastD 0)).map fun k => k.depth).getD 0)]) ∧
      t.seqOf q = some { tenant := c.tenant, chain := keep }) ∧
  -- R211: RELEASE without PURGE frees the sequence's handle and reports the length of its chain.
  (∀ (s : State) (uid : Nat) (c : Cmd) (sq : Seq),
      s.ready uid Oc.release = some c → s.ownSeq c.tenant (fieldOf c.words 1 21 0) = some sq → fieldOf c.words 1 22 22 = 0 → 
        Completes (.release uid) s fun t =>
      Ended s t c Cc.ok (packWord [(14, 0), (0, sq.chain.length)]) 0 ∧ t.seqOf (fieldOf c.words 1 21 0) = none) ∧
  -- R213: a plain PIN of one committed chunk that the tenant reaches adds one pin.
  (∀ (s : State) (uid : Nat) (c : Cmd) (h : Nat) (k : Chunk),
      s.ready uid Oc.pin = some c → c.work = .ready → fieldOf c.words 1 24 24 = 0 → fieldOf c.words 1 25 25 = 0 → h = fieldOf c.words 1 23 0 → reaches s c.tenant h = true → s.chunk h = some k → k.committed = true → pinFull s c.tenant false [h] = false → 
        Completes (.pin uid) s fun t =>
      Ended s t c Cc.ok (packWord [(14, b2n k.hollow), (0, 1)]) 0 ∧
      t.pinRec c.tenant h = { s.pinRec c.tenant h with plain := (s.pinRec c.tenant h).plain + 1 }) ∧
  -- R213: UNPIN of one chunk on which the tenant holds a plain pin removes one; with no such pin it ends NO_RIGHTS with detail 0x010D.
  (∀ (s : State) (uid : Nat) (c : Cmd) (h : Nat) (k : Chunk),
      s.ready uid Oc.unpin = some c → fieldOf c.words 1 24 24 = 0 → fieldOf c.words 1 25 25 = 0 → h = fieldOf c.words 1 23 0 → reaches s c.tenant h = true → s.chunk h = some k → k.committed = true → 
        (0 < (s.pinRec c.tenant h).plain → Completes (.unpin uid) s fun t =>
        Ended s t c Cc.ok (packWord [(14, b2n k.hollow), (0, 1)]) 0 ∧ (t.pinRec c.tenant h).plain = (s.pinRec c.tenant h).plain - 1) ∧
      ((s.pinRec c.tenant h).plain = 0 → exec (.unpin uid) s = .next (s.fail c Cc.noRights 0x010D)))

/-- APPEND, COMMIT, its link, DELIVER, its end and the end of its holds complete with their effects. APPEND in place writes its rows into the page's raw frame and reports its layers and positions; COMMIT begins its coding or adopts an identical node; the coded chunk becomes committed; DELIVER stages and holds the pages of its chunks, ends with its counts, and its holds end at their time. -/
def Obligations.RowsAndCommitsComplete : Prop :=
  -- R243: an APPEND of one layer of inline rows writes each row into the raw frame that the page alone refers to, and ends OK.
  (∀ (s : State) (uid : Nat) (hm : HostMem) (picks : List Nat) (c : Cmd) (q : Seq) (h layer f : Nat) (k : Chunk) (p : Page) (x : Frame) (m : Memory),
      s.ready uid Oc.append = some c → c.work = .ready → fieldOf c.words 1 38 37 = 0 → fieldOf c.words 1 36 29 = 1 → layer = fieldOf c.words 1 28 22 → s.ownSeq c.tenant (fieldOf c.words 1 21 0) = some q → q.chain.getLast? = some h → s.chunk h = some k → k.committed = false → k.page layer = some p → p.st ≠ .poisoned → p.frame = some f → mapFind s.frames f = some x → x.body = .raw m false → frefs s f ≤ 1 → appendOk (s.geo (s.profileOf c.tenant)) p.recov c = true → s.snoops.any (fun x => x.uid == some c.uid) = false → 
        Completes (.append uid hm picks) s fun t =>
      Ended s t c Cc.ok (packWord [(10, 1), (0, fieldOf c.words 1 58 49)]) 0 ∧
      ∃ o, mapFind t.frames f = some { x with owner := o, body := .raw ((appendRows (s.geo k.prof) p.recov (fieldOf c.words 1 48 40) (fieldOf c.words 1 58 49)
        (sliceAt (inlineBytes c 1) 0 (appendBytes (s.geo k.prof) p.recov (fieldOf c.words 1 58 49)))).foldl (fun m r => m.writeMasked r.1 (r.2.map some)) m) false }) ∧
  -- R204: a COMMIT of inline tokens that asks for an unlinked chunk begins coding its tail.
  (∀ (s : State) (uid : Nat) (hm : HostMem) (c : Cmd) (q : Seq) (h : Nat) (k : Chunk) (ntok : Nat),
      s.ready uid Oc.commit = some c → c.work = .ready → ntok = fieldOf c.words 1 37 28 → fieldOf c.words 1 39 38 = 0 → fieldOf c.words 1 26 24 ≤ 5 → fieldOf c.words 1 23 23 = 1 → s.ownSeq c.tenant (fieldOf c.words 1 21 0) = some q → q.chain.getLast? = some h → s.chunk h = some k → k.committed = false → max 1 k.fill ≤ ntok → ntok ≤ s.spanOf k → bastedPoison s k = false → 
        Completes (.commit uid hm) s fun t => ∃ w, t.cmd uid = some { c with npins := [h], work := .commit w } ∧
      w.seq = fieldOf c.words 1 21 0 ∧ w.chunk = h ∧ w.ns = none ∧ w.tokens = tokensOf ((inlineBytes c 1).take (4 * ntok)) ∧
      w.gens = takeGens s k (recovNow s c.tenant) ∧ w.recov = recovNow s c.tenant ∧
      t = (s.beginEncode c.tenant k w).setCmd { c with npins := [h], work := .commit w }) ∧
  -- R206: a COMMIT that may link and finds an identical live node adopts it: the sequence's tail becomes that node.
  (∀ (s : State) (uid : Nat) (hm : HostMem) (c : Cmd) (q : Seq) (h : Nat) (k : Chunk) (ntok ns : Nat) (toks : List Token) (n : Nat) (x : Chunk),
      s.ready uid Oc.commit = some c → c.work = .ready → ntok = fieldOf c.words 1 37 28 → fieldOf c.words 1 39 38 = 0 → fieldOf c.words 1 26 24 ≤ 5 → fieldOf c.words 1 23 23 = 0 → fieldOf c.words 1 22 22 = 1 → s.ownSeq c.tenant (fieldOf c.words 1 21 0) = some q → q.chain = [h] → s.chunk h = some k → k.committed = false → max 1 k.fill ≤ ntok → ntok ≤ s.spanOf k → bastedPoison s k = false → toks = tokensOf ((inlineBytes c 1).take (4 * ntok)) → chooseNs s c.tenant (fieldOf c.words 1 26 24) false none = some (some ns) → commitFind s ns (spanKey (s.nsKey ns) 0 (s.profileOf c.tenant) toks) none toks (fieldOf c.words 1 55 40) (s.profileOf c.tenant) = some (n, x) → x.hollow = false → ownerDown s n = false → 
        Completes (.commit uid hm) s fun t =>
      Ended s t c Cc.ok (commitR0 s c.tenant n true false) 0 ∧ t.seqOf (fieldOf c.words 1 21 0) = some { q with chain := [n] }) ∧
  -- R206, R207: once coding has ended, a chunk that is committed unlinked holds its tokens and its coded pages.
  (∀ (s : State) (uid : Nat) (picks : List Nat) (c : Cmd) (w : CommitWork) (k : Chunk) (es : List Encoded),
      s.cmd uid = some c → c.work = .commit w → w.ns = none → s.chunk w.chunk = some k → bastedPoison s k = false → stewardDown s c = false → (encodeAll s k w 0 k.pages).toOption = some es → commitRoom s k w.chunk c.tenant w.tokens.length es = .ok → (((withoutFrames s (freeable s k)).withTokens w.chunk w.tokens.length).placeAll w.chunk picks es).isSome → 0 < refs s w.chunk → 
        Completes (.commitLink uid picks) s fun t =>
      (∃ r0 r1, Ended s t c (if w.recov.isSome then Cc.degradedForm else Cc.ok) r0 r1) ∧
      (∃ ps n, t.chunk w.chunk = some { k with
        tokSerial := n, committed := true, charge := c.tenant, spanlen := w.tokens.length, rev := w.rev, key := w.key, ns := none, linked := false, tokens := w.tokens,
        isVolatile := s.flag Fd.TNT_BIND_VOLATILE c.tenant, pages := ps } ∧ ps.length = es.length)) ∧
  -- R266: a DELIVER of one resident chunk by handle, without a push, basted or committed, stages its FLASH pages and places a hold on each page it acts on.
  (∀ (s : State) (uid : Nat) (c : Cmd) (h : Nat) (k : Chunk),
      s.ready uid Oc.deliver = some c → c.work = .ready → c.cancel = none → deliverOk (s.geo (s.profileOf c.tenant)) c = true → fieldOf c.words 1 14 14 = 0 → fieldOf c.words 1 15 15 = 0 → 8 ≤ c.words.length → listedChunks c (fieldOf c.words 1 13 0) = [h] → reaches s c.tenant h = true → s.chunk h = some k → k.hollow = false → 
        Completes (.deliver uid) s fun t =>
      t.cmd uid = some { c with npins := [h], work := .deliver { handles := [h], hollow := [], lost := [], unpushed := [], noRoom := [], toPush := [], last := none, closing := false } } ∧
      t.chunk h = some { k with pages := k.pages.mapIdx fun i p =>
        if (deliverLayers c).contains i then { p.stage (deliverRank c) with holds := { uid := some c.uid, ends := 0 } :: (p.stage (deliverRank c)).holds } else p }) ∧
  -- R269: a DELIVER without a deadline whose pages are all in HBM ends OK with the number of its chunks.
  (∀ (s : State) (uid : Nat) (readOk : Bool) (now : Nat) (c : Cmd) (w : DeliverWork),
      s.ready uid Oc.deliver = some c → c.work = .deliver w → c.cancel = none → deliverPending s c w = false → deliverFailed s c w = [] → w.hollow = [] → (∀ i, i < w.handles.length → w.lost.contains i = false ∧ (deliverAt c w i).all (pageIs s fun p => p.st == .none || p.st == .raw || p.st == .dirty || p.st == .clean) = true) → fieldOf c.words 1 15 15 = 0 → wordAt c.words 2 = 0 → 
        Completes (.deliverComplete uid readOk now) s fun t =>
      Ended s t c Cc.ok (packWord [(28, 0), (14, 0), (0, w.handles.length)]) (packWord [(32, 0), (0, 0)])) ∧
  -- R266: a delivery hold of a page whose end has come is gone; the holds of commands in flight and those that end later stay.
  (∀ (s : State) (h : Fin 16777216) (l : Fin 128) (now : Nat) (k : Chunk) (p : Page),
      s.chunk h = some k → k.page l = some p → 
        Completes (.deliveryHoldExpire h l now) s fun t => ∃ k', t.chunk h = some k' ∧
      k'.page l = some { p with holds := p.holds.filter fun x => x.uid.isSome || decide (max s.dtime now < x.ends) })

/-- ATTEND, VERIFY, ATTEND_BATCH, the panel's taking, a tile boundary and the end of an attention command complete with their effects. A command that passes its checks, its pages resident, pins their frames and waits for its panel; the panel takes it with its queries; a pending cancellation stops it at a tile boundary; and its end writes the outputs that the computation gives and completes it OK. -/
def Obligations.AttentionCommandsComplete : Prop :=
  -- R369, R363: ATTEND whose checks pass and whose pages are all resolved pins their frames and waits for its panel.
  (∀ (s : State) (uid : Nat) (c : Cmd) (q : AttSeq),
      s.readyCut uid Oc.attend 1 = some c → c.work = .ready → c.cancel = none → attFieldFault s c = none → q = attSeq s c (fieldOf c.words 1 21 0) (fieldOf c.words 4 44 23) (fieldOf c.words 4 22 0) (fieldOf c.words 5 21 0) → q.failed = none → (s.attAccess (s.hostOf c.tenant) ((attRanges s c).1.map (fun x => (x.1, x.2, false)) ++ (attRanges s c).2.map fun x => (x.1, x.2, true))).isNone → attWaits { layer := (attCmd s c).layer, seqs := [q], taken := none, waited := false } = [] → 
        Completes (.attend uid) s fun t =>
      t.cmd uid = some { c with since := s.dtime, fpins := attFrames { layer := (attCmd s c).layer, seqs := [q], taken := none, waited := false },
                                work := .attend { layer := (attCmd s c).layer, seqs := [q], taken := none, waited := false } } ∧ ChangesOnly [.inflight] s t) ∧
  -- R374, R375: VERIFY does the same over the window that ends behind its last candidate.
  (∀ (s : State) (uid : Nat) (c : Cmd) (q : AttSeq),
      s.readyCut uid Oc.verify 2 = some c → c.work = .ready → c.cancel = none → attFieldFault s c = none → q = attSeq s c (fieldOf c.words 1 21 0) (fieldOf c.words 4 43 22) (fieldOf c.words 4 21 0 + (fieldOf c.words 1 53 50 + 1)) (fieldOf c.words 4 21 0) → q.failed = none → (s.attAccess (s.hostOf c.tenant) ((attRanges s c).1.map (fun x => (x.1, x.2, false)) ++ (attRanges s c).2.map fun x => (x.1, x.2, true))).isNone → attWaits { layer := (attCmd s c).layer, seqs := [q], taken := none, waited := false } = [] → 
        Completes (.verify uid) s fun t =>
      t.cmd uid = some { c with since := s.dtime, fpins := attFrames { layer := (attCmd s c).layer, seqs := [q], taken := none, waited := false },
                                work := .attend { layer := (attCmd s c).layer, seqs := [q], taken := none, waited := false } } ∧ ChangesOnly [.inflight] s t) ∧
  -- R370, R371: ATTEND_BATCH with inline descriptors resolves the sequence of each descriptor.
  (∀ (s : State) (uid : Nat) (hm : HostMem) (c : Cmd) (qs : List AttSeq),
      s.readyCut uid Oc.attendBatch 2 = some c → c.full = true → c.work = .ready → c.cancel = none → attFieldFault s c = none → fieldOf c.words 1 18 17 = 0 → qs = (List.range (fieldOf c.words 1 9 0)).map (descSeq s c (sliceAt (inlineBytes c 2) 0 (16 * fieldOf c.words 1 9 0))) → (s.attAccess (s.hostOf c.tenant) ((attRanges s c).1.map (fun x => (x.1, x.2, false)) ++ (attRanges s c).2.map fun x => (x.1, x.2, true))).isNone → s.snoops.any (fun x => x.uid == some c.uid) = false → attWaits { layer := (attCmd s c).layer, seqs := qs, taken := none, waited := false } = [] → 
        Completes (.attendBatch uid hm) s fun t =>
      t.cmd uid = some { c with since := s.dtime, fpins := attFrames { layer := (attCmd s c).layer, seqs := qs, taken := none, waited := false },
                                work := .attend { layer := (attCmd s c).layer, seqs := qs, taken := none, waited := false } } ∧ ChangesOnly [.inflight] s t) ∧
  -- R363, R385: once every page is pinned the panel takes a command with inline queries: it executes from this moment and counts in INEXEC.
  (∀ (s : State) (uid : Nat) (hm : HostMem) (now : Nat) (c : Cmd) (w : AttWork),
      s.cmd uid = some c → c.work = .attend w → w.taken = none → c.cancel = none → attWaits (w.again s) = [] → c.full = true → (attCmd s c).qsrc = 0 → s.snoops.any (fun x => x.uid == some c.uid) = false → w.seqs.all (fun q => q.failed.isNone) = true → 
        Completes (.attentionTake uid hm now) s fun t =>
      t.fld Fd.ATN_PANEL_INEXEC (attPanel s c.tenant) = (s.fld Fd.ATN_PANEL_INEXEC (attPanel s c.tenant) + 1) % 65536 ∧
      ∃ c' w', t.cmd uid = some c' ∧ c'.work = .attend w' ∧ w'.taken = some (max s.dtime now) ∧ c'.fpins = attFrames (w.again s) ∧ w'.seqs.length = w.seqs.length) ∧
  -- R342: a command whose cancellation is pending stops at a tile boundary and ends CANCELLED; without one a boundary changes nothing.
  (∀ (s : State) (uid : Nat) (c : Cmd) (w : AttWork),
      s.cmd uid = some c → c.work = .attend w → 
        (∀ d, c.cancel = some d → Completes (.tileBoundary uid) s fun t => Ended s t c Cc.cancelled (detailWord d) 0) ∧
      (c.cancel = none → exec (.tileBoundary uid) s = .next s)) ∧
  -- R349 to R358, R365: the end of an ATTEND with a plain-region destination writes the outputs of the computation there and, with no hollow chunk, completes OK.
  (∀ (s : State) (uid : Nat) (ringNs now : Nat) (c : Cmd) (w : AttWork) (q : AttSeq) (r : SeqResult),
      s.cmd uid = some c → c.work = .attend w → c.opcode = Oc.attend → c.cancel = none → w.taken.isSome → (w.again s).seqs = [q] → (attCmd s c).odst = 2 → ((s.at_ now).coherent c [] (attRanges s c).2).2 = true → (computeSeq (s.at_ now) c q).toOption = some r → firstHollow s q = 0 → 
        Completes (.attentionComplete uid true ringNs now) s fun t =>
      (∃ r0 r1, Ended s t c Cc.ok r0 r1) ∧
      t.plainBytes (attCmd s c).oaddr (outImage (attCmd s c).ofmt (attCmd s c).stats r.partials).length =
        outImage (attCmd s c).ofmt (attCmd s c).stats r.partials)

/-- FILL, COPY, COMPARE, REDUCE and GATHER do their work in plain regions, and their end completes them. With its fields in order, its ranges accessible and its lines coherent, each near-memory command writes exactly the bytes its rule gives, at the destination it names and nowhere else, and holds its result; its end writes the completion. -/
def Obligations.NearMemoryCommandsComplete : Prop :=
  -- R460: FILL writes its pattern to the whole range, and to nothing else, and RESULT0 is the length.
  (∀ (s : State) (uid : Nat) (c : Cmd) (a n : Nat),
      s.ready uid Oc.fill = some c → c.work = .ready → a = (wordAt c.words 1).toNat → n = fieldOf c.words 2 39 0 → a % 64 = 0 → n % 64 = 0 → 0 < n → s.nearFault c.tenant [{ addr := a, len := n, wr := true, view := false }] = none → (s.nearCoherent c [{ addr := a, len := n, wr := true, view := false }]).2 = true → 
        Completes (.fill uid) s fun t =>
      t.plainBytes a n = ((List.range (n / 8)).flatMap fun _ => leBytes 8 (wordAt c.words 3).toNat) ∧
      (∀ x, ¬(a ≤ x ∧ x < a + n) → t.plainMem.get x = s.plainMem.get x) ∧
      t.cmd uid = some { c with work := .near (some (Cc.ok, BitVec.ofNat 64 n, 0)) false }) ∧
  -- R461: COPY to a plain destination writes the bytes of its source there, and nothing else.
  (∀ (s : State) (uid : Nat) (c : Cmd) (a d n : Nat) (parts : List (List NearRead)) (bs : List Byte),
      s.ready uid Oc.copy = some c → c.work = .ready → a = (wordAt c.words 1).toNat → d = (wordAt c.words 2).toNat → n = fieldOf c.words 3 39 0 → fieldOf c.words 3 41 40 = 2 → a % 64 = 0 → d % 64 = 0 → n % 64 = 0 → s.nearFault c.tenant [{ addr := a, len := n, wr := false, view := true }, { addr := d, len := n, wr := true, view := false }] = none → (s.nearCoherent c [{ addr := a, len := n, wr := false, view := true }, { addr := d, len := n, wr := true, view := false }]).2 = true → parts = nearRead s c.tenant a n → nearWaits parts.flatten = [] → nearBad parts = [] → bs = nearBytes parts.flatten → 
        Completes (.copy uid) s fun t =>
      t.plainBytes d bs.length = bs ∧
      (∀ x, ¬(d ≤ x ∧ x < d + bs.length) → t.plainMem.get x = s.plainMem.get x) ∧
      t.cmd uid = some { c with fpins := (c.fpins ++ (nearFrom parts.flatten).map fun x => x.2.2.2).eraseDups,
                                work := .near (some (Cc.ok, BitVec.ofNat 64 n, 0)) false }) ∧
  -- R462: COMPARE in compare-and-swap mode swaps exactly when the eight bytes equal the expected value, and holds the old value.
  (∀ (s : State) (uid : Nat) (c : Cmd) (a : Nat) (old : Word),
      s.ready uid Oc.compare = some c → c.work = .ready → a = (wordAt c.words 1).toNat → fieldOf c.words 2 1 0 = 0 → a % 8 = 0 → s.nearFault c.tenant [{ addr := a, len := 8, wr := false, view := false }, { addr := a, len := 8, wr := true, view := false }] = none → (s.nearCoherent c [{ addr := a, len := 8, wr := false, view := false }, { addr := a, len := 8, wr := true, view := false }]).2 = true → rangePoison s a 8 = false → old = BitVec.ofNat 64 (ofLE (s.plainBytes a 8)) → 
        Completes (.compare uid) s fun t =>
      t.plainBytes a 8 = (if old = wordAt c.words 3 then leBytes 8 (wordAt c.words 4).toNat else s.plainBytes a 8) ∧
      (∀ x, ¬(a ≤ x ∧ x < a + 8) → t.plainMem.get x = s.plainMem.get x) ∧
      t.cmd uid = some { c with work := .near (some (Cc.ok, old, if old = wordAt c.words 3 then 1 else 0)) false }) ∧
  -- R462: COMPARE in comparing mode writes nothing, and its RESULT0 is the offset of the first difference, or all ones.
  (∀ (s : State) (uid : Nat) (c : Cmd) (a b n : Nat),
      s.ready uid Oc.compare = some c → c.work = .ready → a = (wordAt c.words 1).toNat → b = (wordAt c.words 3).toNat → n = (wordAt c.words 4).toNat → fieldOf c.words 2 1 0 = 1 → a % 64 = 0 → b % 64 = 0 → n % 64 = 0 → 0 < n → s.nearFault c.tenant [{ addr := a, len := n, wr := false, view := false }, { addr := b, len := n, wr := false, view := false }] = none → (s.nearCoherent c [{ addr := a, len := n, wr := false, view := false }, { addr := b, len := n, wr := false, view := false }]).2 = true → rangePoison s a n = false → rangePoison s b n = false → 
        Completes (.compare uid) s fun t => t.plainMem = s.plainMem ∧
      t.cmd uid = some { c with work := .near (some (Cc.ok, BitVec.ofNat 64 ((firstDiff (s.plainBytes a n) (s.plainBytes b n)).getD (2 ^ 64 - 1)), 0)) false }) ∧
  -- R463: REDUCE from a plain source writes, element by element, the sum of destination and source, and nothing else.
  (∀ (s : State) (uid : Nat) (c : Cmd) (d a n rt : Nat) (bs : List Byte),
      s.ready uid Oc.reduce = some c → c.work = .ready → d = (wordAt c.words 1).toNat → a = (wordAt c.words 2).toNat → n = fieldOf c.words 3 31 0 → rt = fieldOf c.words 3 34 32 → fieldOf c.words 3 35 35 = 1 → c.ncell = 0 → rt ≤ 4 → n % elemBytes rt = 0 → d % elemBytes rt = 0 → 0 < n → s.nearFault c.tenant [{ addr := d, len := n, wr := true, view := false }, { addr := a, len := n, wr := false, view := false }] = none → (s.nearCoherent c [{ addr := d, len := n, wr := true, view := false }, { addr := a, len := n, wr := false, view := false }]).2 = true → rangePoison s a n = false → bs = reduceBytes rt (s.plainBytes d n) (s.plainBytes a n) → 
        Completes (.reduce uid) s fun t =>
      t.plainBytes d bs.length = bs ∧
      (∀ x, ¬(d ≤ x ∧ x < d + bs.length) → t.plainMem.get x = s.plainMem.get x) ∧
      t.cmd uid = some { c with work := .near (some (Cc.ok, BitVec.ofNat 64 (n / elemBytes rt), 0)) false }) ∧
  -- R464: GATHER with an inline list writes the bytes of its entries end to end.
  (∀ (s : State) (uid : Nat) (c : Cmd) (d n : Nat) (es : List (Nat × Nat)) (rs : List NearRange) (parts : List (List NearRead)),
      s.ready uid Oc.gather = some c → c.work = .ready → d = (wordAt c.words 1).toNat → n = fieldOf c.words 2 9 0 → fieldOf c.words 2 11 10 = 2 → fieldOf c.words 2 12 12 = 0 → d % 64 = 0 → 1 ≤ n → n ≤ 60 → c.ncell = ceilDiv n 4 → es = gatherList (inlineBytes c 1) n → es.all (fun e => decide (0 < e.2) && e.2 % 64 == 0) = true → (rs = es.map (fun e => { addr := e.1, len := e.2, wr := false, view := true }) ++ [{ addr := d, len := (es.map fun e => e.2).sum, wr := true, view := false }]) → s.nearFault c.tenant rs = none → (s.nearCoherent c rs).2 = true → (parts = es.flatMap (fun e => nearRead s c.tenant e.1 e.2)) → nearWaits parts.flatten = [] → nearBad parts = [] → 
        Completes (.gather uid) s fun t =>
      t.plainBytes d (nearBytes parts.flatten).length = nearBytes parts.flatten ∧
      (∀ x, ¬(d ≤ x ∧ x < d + (nearBytes parts.flatten).length) → t.plainMem.get x = s.plainMem.get x) ∧
      t.cmd uid = some { c with fpins := (c.fpins ++ (nearFrom parts.flatten).map fun x => x.2.2.2).eraseDups, work := .near (some (Cc.ok, BitVec.ofNat 64 (es.map fun e => e.2).sum, 0)) false }) ∧
  -- R465: a command that has had its effect, its ranges still there, ends with its result: PARTIAL where the closing read of a host-memory destination failed.
  (∀ (s : State) (uid : Nat) (readOk toHost : Bool) (c : Cmd) (code : Nat) (r0 r1 : Word),
      s.cmd uid = some c → c.work = .near (some (code, r0, r1)) toHost → s.snoops.any (fun x => x.uid == some uid) = false → ((nearRanges c).filter fun r => decide (0 < r.len)).all (NearRange.ok s c.tenant (s.hostOf c.tenant)) = true → 
        Completes (.nearMemoryComplete uid readOk) s fun t =>
      Ended s t c (if code = Cc.ok ∧ toHost = true ∧ readOk = false then Cc.partial_ else code) r0 r1)

/-- TABLE_LOAD, TABLE_RETIRE, re-encoding and the queries of generations, histograms, nodes and pages complete with their effects. A table that passes its checks is CURRENT afterwards; a retired generation is RETIRING as long as it lives; a page re-encoded by a steward lies in a new frame without an image; the query registers show the snapshot of what they name; a write of CDR_HCFG clears the histogram. -/
def Obligations.TableAndQueryCommandsComplete : Prop :=
  -- R318: TABLE_LOAD of one table that passes its checks: the table is the CURRENT generation of its tensor, and RESULT0 carries its number and whether it was reused.
  (∀ (s : State) (uid : Nat) (c : Cmd) (tensor : Nat) (l : List Nat) (r : List Gen × Nat × Bool),
      s.ready uid Oc.tableLoad = some c → tablesBusy s c = false → loadFailure s c = none → loadTables c = [(tensor, l)] → r = installTable (s.gensOf (s.profileOf c.tenant) tensor) l (reusable (s.gensOf (s.profileOf c.tenant) tensor) l) → 
        Completes (.tableLoad uid) s fun t =>
      Ended s t c Cc.ok (BitVec.ofNat 64 (r.2.1 + b2n r.2.2 * 2 ^ 28)) 0 ∧
      ∃ g ∈ t.gensOf (s.profileOf c.tenant) tensor, g.st = .current ∧ g.table = l) ∧
  -- R320: TABLE_RETIRE of one generation that is not CURRENT: it is RETIRING for as long as it lives, and RESULT0 counts the pages that use it.
  (∀ (s : State) (uid : Nat) (c : Cmd),
      s.ready uid Oc.tableRetire = some c → tablesBusy s c = false → retireFailure s c = none → fieldOf c.words 1 12 12 = 0 → mapSorted s.gens = true → 
        Completes (.tableRetire uid) s fun t =>
      Ended s t c Cc.ok (packWord [(32, 1), (0, genUsersOf s (s.profileOf c.tenant) [(fieldOf c.words 1 7 0, fieldOf c.words 1 11 8)])]) 0 ∧
      ∀ g ∈ t.gensOf (s.profileOf c.tenant) (fieldOf c.words 1 7 0), g.num = fieldOf c.words 1 11 8 → g.st = .retiring) ∧
  -- R331: a write of CDR_GENQ that names a tensor of a panel's profile shows how many of its generations are live.
  (∀ (s : State) (v : Word),
      (panelOf s (bitsOf v 15 8)).isSome = true → bitsOf v 7 0 < 2 * (s.geo (bitsOf v 15 8)).layers → 
        Completes (.generationQuery v) s fun t =>
      t.fld Fd.CDR_GENQ_FOUND = 1 ∧ t.fld Fd.CDR_GENQ_BUSY = 0 ∧ 
      ∀ i, i < 4 → t.reg .CDR_GREF i = match ((List.range 16).filterMap fun n => (s.gensOf (bitsOf v 15 8) (bitsOf v 7 0)).find? fun g => g.num == n)[i]? with
        | some g => packWord [(63, 1), (56, g.num), (0, genUsers s (bitsOf v 15 8) (bitsOf v 7 0) g.num)]
        | none => 0) ∧
  -- R338: a write of CDR_HCFG clears every counter of the histogram and its status, and takes the settings.
  (∀ (s : State) (v : Word),
      Completes (.histogramConfig v) s fun t =>
      (∀ i, i < 256 → t.reg .CDR_HIST i = 0) ∧ t.reg .CDR_HSTAT 0 = 0 ∧ t.histPages = 0 ∧
      t.fld Fd.CDR_HCFG_EN = bitsOf v 0 0 ∧ t.fld Fd.CDR_HCFG_PROFILE = bitsOf v 15 8) ∧
  -- R225: a write of PFX_NODEQ shows the node that it names, or that there is none.
  (∀ (s : State) (v : Word),
      Completes (.nodeQuery v) s fun t =>
      t.fld Fd.PFX_NODEQ_FOUND = b2n ((s.chunk (bitsOf v 23 0)).filter fun c => c.committed).isSome ∧ t.fld Fd.PFX_NODEQ_BUSY = 0 ∧
      ∀ c, s.chunk (bitsOf v 23 0) = some c → c.committed = true → ∀ i, i < 5 → t.reg .PFX_NODE i = wordAt (nodeWords s (bitsOf v 23 0) c) i) ∧
  -- R286: a write of PGT_PAGEQ shows the page that it names, or that there is none.
  (∀ (s : State) (v : Word),
      Completes (.pageQuery v) s fun t =>
      t.fld Fd.PGT_PAGEQ_FOUND = b2n ((s.chunk (bitsOf v 23 0)).bind fun c => c.page (bitsOf v 30 24)).isSome ∧ t.fld Fd.PGT_PAGEQ_BUSY = 0 ∧
      ∀ c p, s.chunk (bitsOf v 23 0) = some c → c.page (bitsOf v 30 24) = some p → t.reg .PGT_PAGE0 0 = (pageWords s c p).1 ∧ t.reg .PGT_PAGE1 0 = (pageWords s c p).2)

/-- Demotion, stash, staging, hollowing, unlinking, compaction, decay, re-encoding and the ends of waits complete with their effects. Each steward operation on pages whose conditions hold changes the page as its rule says, frees what nobody holds and brings the ladder's steps up to date. -/
def Obligations.CacheStewardsComplete : Prop :=
  -- R251: while the ladder demotes, the first CLEAN candidate becomes a FLASH page without a frame.
  (∀ (s : State) (c : Candidate),
      s.ladder.flag Fd.PGT_TIER_DEMOTE = true → nextCandidate s.ladder none (fun c => c.clean && !ownerDown s.ladder c.handle) = some c → 
        exec (.demotePage none) s =
      .next (((s.ladder.updPage c.handle c.layer fun p => { p with st := .flash, frame := none }).addFld Fd.PGT_CNT0_DEMOTED 1).reclaim)) ∧
  -- R252: the stash of a queued page makes its image, on the places that the steward takes.
  (∀ (s s' : State) (handle : Fin 16777216) (layer : Fin 128) (c : Chunk) (p : Page) (g : FlashGeo) (cl : List Nat) (bs : List Block) (tag : ImgTag) (x : FlashImage) (places : List Place),
      s.pageOf handle.val layer.val = some (c, p) → s.flash = some g → ((p.frame.bind fun f => mapFind s.frames f).map fun x => (x.tag, x.body)) = some (tag, .coded cl bs) → mediaReady s = true → stashQueued c p = true → stashRuns s c.charge (ceilDiv (codedBytes (omitMasked (s.geo c.prof) p.recov p.mask cl bs).1) 4096 * 4096) = true → ownerDown s handle = false → x = { handle := handle.val, layer := layer.val, clens := (omitMasked (s.geo c.prof) p.recov p.mask cl bs).1, blocks := (omitMasked (s.geo c.prof) p.recov p.mask cl bs).2, recov := p.recov, mask := p.mask, tag, places := [], progd := false, durable := false } → s.placeImage (handle.val % 8) (if slcInUse s g < s.slcTarget then 0 else 1) c.charge (imageCodewords x) = some (s', places) → 
        exec (.stashPage handle layer) s =
      .next ((({ s' with images := mapIns (lowestFree s'.images 0) { x with places } s'.images } : State).updPage handle.val layer.val
        fun p => { p with image := some (lowestFree s'.images 0) }).fltSync)) ∧
  -- R544: a DIRTY page whose image is durable becomes CLEAN.
  (∀ (s : State) (handle : Fin 16777216) (layer : Fin 128) (c : Chunk) (p : Page) (k : Nat) (x : FlashImage),
      s.pageOf handle.val layer.val = some (c, p) → s.imageOf handle.val layer.val = some (k, x) → p.st = .dirty → x.durable = true → ownerDown s handle = false → 
        exec (.stashDurable handle layer) s = .next ((s.updPage handle.val layer.val fun p => { p with st := .clean }).ladder)) ∧
  -- R552, R363: with room for its frame, a STAGING page whose issued flash reads have ended becomes CLEAN in a new frame, its counter at least PROMTH, and every command that waited for it pins the frame as it arrives.
  (∀ (s s' u w : State) (handle : Fin 16777216) (layer : Fin 128) (picks : List Nat) (c : Chunk) (p : Page) (k b : Nat) (x : FlashImage) (r : List Nat × List Block),
      s.pageOf handle.val layer.val = some (c, p) → s.imageOf handle.val layer.val = some (k, x) → (readsIssued s).any (fun r => r.handle == handle.val && r.layer == layer.val) = true → r = omitMasked (s.geo c.prof) p.recov p.mask x.clens x.blocks → roomFor s c.charge (max 1 (ceilDiv (codedBytes r.1) 512)) picks = .ok → s.newFrame picks (max 1 (ceilDiv (codedBytes r.1) 512)) handle.val (.kept x.tag) (.coded r.1 r.2) = some (s', b) → (u = s'.updPage handle.val layer.val fun p => { p with st := .clean, frame := some b, ctr := max p.ctr (promTh s'), want := none }) → (w = { u with inflight := u.inflight.map fun c => c.pinPage handle.val layer.val b }) → 
        exec (.stagingComplete handle layer picks true) s =
      .next ((((u.inflight.filter fun c => c.attWaiting && !(c.pinPage handle.val layer.val b).attWaiting).foldl (fun s c => s.waitEnds c) w).addFld Fd.PGT_CNT0_PROMOTED 1).pumpViews)) ∧
  -- R258: while step 2 of the ladder runs, the eligible chunk of the lowest score is made hollow.
  (∀ (s : State) (h : Nat),
      s.ladder.chunks.find? (fun e => poisonHollowable s.ladder e.1 e.2 && !ownerDown s.ladder e.1) = none → s.ladder.flag Fd.PGT_TIER_DROP = true → lowestScore s.ladder none = some h → 
        exec (.makeHollow none) s = .next (((s.ladder.hollowChunk h).addFld Fd.PGT_CNT1_HOLLOWED 1).reclaim)) ∧
  -- R254: while chunk handles are short, a hollow linked node without references, children and pins, the only one there is, is unlinked.
  (∀ (s : State) (h : Nat) (c : Chunk),
      s.ladder.flag Fd.PGT_TIER_HANDLES = true → s.ladder.chunks.filter (fun e => e.2.hollow && e.2.linked && refs s.ladder e.1 == 0 && children s.ladder e.1 == 0 && pinsOn s.ladder e.1 == 0 && !ownerDown s.ladder e.1) = [(h, c)] → 
        exec .unlinkHollow s = .next ((s.ladder.unlink h).reclaim)) ∧
  -- R249, R260: a decay halves every counter and every ACC and masks the sub-blocks that trimming takes.
  (∀ (s : State),
      exec .counterDecay s =
      .next ((({ s with chunks := mapVals (fun _ c => { c with acc := c.acc / 2, pages := c.pages.map fun p => { p with ctr := p.ctr / 2, mask := p.mask + newMask s c p } }) s.chunks } : State).addFld Fd.PGT_CNT1_TRIMMED (s.chunks.map fun e => (e.2.pages.map fun p => bitCount (newMask s e.2 p)).sum).sum).sweepCam)) ∧
  -- R239, R261: a frame is moved to a new place with every reference to it, a coded one without the blocks that every page of it masks.
  (∀ (s s' : State) (base b h prof : Nat) (picks : List Nat) (f : Frame) (p : Page) (users : List (Nat × Nat × Page)) (r : FrameBody × Nat),
      (users = s.chunks.flatMap fun e => (e.2.pages.filter fun p => p.frame == some base).map fun p => (e.1, e.2.prof, p)) → users.any (fun u => ownerDown s u.1) = false → mapFind s.frames base = some f → users.head? = some (h, prof, p) → (r = match f.body with | .coded cl bs => (.coded (omitMasked (s.geo prof) p.recov (commonMask (users.map fun u => u.2.2)) cl bs).1 (omitMasked (s.geo prof) p.recov (commonMask (users.map fun u => u.2.2)) cl bs).2, max 1 (ceilDiv (codedBytes (omitMasked (s.geo prof) p.recov (commonMask (users.map fun u => u.2.2)) cl bs).1) 512)) | .raw m x => (.raw m x, f.ngran)) → s.newFrame picks r.2 f.owner (.kept f.tag) r.1 = some (s', b) → 
        exec (.frameCompact base picks) s =
      .next (({ s' with chunks := mapVals (fun _ c => { c with pages := c.pages.map fun p => if p.frame = some base then { p with frame := some b } else p }) s'.chunks } : State).reclaim)) ∧
  -- R321: a page whose coded frame uses a RETIRING generation is coded anew into a new frame; every reference moves there, a CLEAN page becomes DIRTY and its image goes.
  (∀ (s s' : State) (handle : Fin 16777216) (layer : Fin 128) (picks : List Nat) (c : Chunk) (p : Page) (f b : Nat) (x : Frame) (cl : List Nat) (bs : List Block) (raw : List Byte) (r : List Nat × List Block),
      (s.chunk handle.val).bind (fun c => (c.page layer.val).map fun p => (c, p)) = some (c, p) → (decide (c.charge < 1024) && s.tstate c.charge == TState.shredding.code) = false → p.st = .dirty ∨ p.st = .clean → p.frame.bind (fun f => (mapFind s.frames f).map fun x => (f, x)) = some (f, x) → x.body = .coded cl bs → usesRetiring s bs = true → (imageRaw s c.prof layer.val p.recov cl bs).toOption = some raw → r = reencoded s c.prof layer.val p.recov cl raw → s.newFrame picks (max 1 (ceilDiv (codedBytes r.1) 512)) x.owner (.fresh handle.val layer.val) (.coded r.1 r.2) = some (s', b) → 
        exec (.pageReencode handle layer picks) s =
      .next ((({ s' with chunks := mapVals (fun _ c => { c with pages := c.pages.map fun p => if p.frame = some f then { p with frame := some b, st := if p.st = .clean then .dirty else p.st, image := none } else p }) s'.chunks } : State).countBlocks r.2).reclaim)) ∧
  -- R112: an APPEND that has waited 10 ms for its holder's quota ends QUOTA.
  (∀ (s : State) (uid : Nat) (c : Cmd) (h : Nat) (b : Bool) (undo : List (Nat × Page × Option FrameBody)),
      s.cmd uid = some c → c.work = .append h b undo → cmdRoom s none c = .quotaWait → 
        Completes (.quotaWaitTimeout uid) s fun t => Ended s t c Cc.quota 0 0) ∧
  -- R257: an APPEND that has waited 10 ms for a free granule ends NO_SPACE.
  (∀ (s : State) (uid : Nat) (c : Cmd) (h : Nat) (b : Bool) (undo : List (Nat × Page × Option FrameBody)),
      s.cmd uid = some c → c.work = .append h b undo → cmdRoom s none c = .spaceWait → 
        Completes (.spaceWaitTimeout uid) s fun t => Ended s t c Cc.noSpace (detailWord 0x0111) 0)

/-- The actions on tenants and share groups, HRT_SYNC and the ends of draining and shredding complete with their effects. CONFIGURE, ACTIVATE, DISABLE, ENABLE, SHRED and UNCONFIGURE whose conditions hold take the tenant to the state that each names, without an error; the ends of draining and shredding do so too; CREATE and DELETE make a group valid and not valid; HRT_SYNC shows PENDING until every earlier access has completed. -/
def Obligations.TenantActionsComplete : Prop :=
  -- R107: CONFIGURE of a FREE tenant from a valid template whose grants fit: the tenant is CONFIGURED with the profile of the panel and the template's quotas.
  (∀ (s : State) (t : TenantId) (v : Word) (ws : List Word),
      loadHolds s = false → s.tstate t.val = TState.free.code → templateOf (s.writeTntCtrl t.val v) (bitsOf v 21 16) (bitsOf v 15 12) = some ws → bobbinFits (s.writeTntCtrl t.val v) t.val (wordAt ws 3) = true → 
        Completes (.configure t v) s fun u =>
      u.tstate t.val = TState.configured.code ∧ u.fld Fd.TNT_STATE_ACTERR t.val = 0 ∧
      u.reg .TNT_QUOTA t.val = writeFields RegKind.TNT_QUOTA.fields 0 (wordAt ws 2) ∧ u.reg .TNT_ERR t.val = 0) ∧
  -- R107, R108: ACTIVATE that nothing refuses: the tenant is ACTIVE.
  (∀ (s : State) (t : TenantId) (v : Word),
      startError (s.writeTntCtrl t.val v) t.val .configured = 0 → 
        Completes (.tenantActivate t v) s fun u => u.tstate t.val = TState.active.code ∧ u.fld Fd.TNT_STATE_ACTERR t.val = 0) ∧
  -- R107: ENABLE that nothing refuses takes a DISABLED tenant to ACTIVE.
  (∀ (s : State) (t : TenantId) (v : Word),
      startError (s.writeTntCtrl t.val v) t.val .disabled = 0 → 
        Completes (.enable t v) s fun u => u.tstate t.val = TState.active.code ∧ u.fld Fd.TNT_STATE_ACTERR t.val = 0) ∧
  -- R130: DISABLE of an ACTIVE tenant: it drains, and the action shows no error.
  (∀ (s : State) (t : TenantId) (v : Word),
      (s.writeTntCtrl t.val v).active t.val = true → 
        exec (.disable t v) s = .next (((s.writeTntCtrl t.val v).drainTenant t.val).actErr t.val 0)) ∧
  -- R131: a DRAINING tenant with nothing left to drain, and no reset pending, is DISABLED.
  (∀ (s : State) (t : TenantId),
      s.tstate t.val = TState.draining.code → drainCount s t.val = 0 → s.tenantResets.contains t.val = false → 
        Completes (.drainComplete t) s fun u => u.tstate t.val = TState.disabled.code) ∧
  -- R563: SHRED of a DISABLED tenant destroys its keys at once and takes it to SHREDDING.
  (∀ (s : State) (t : TenantId) (v : Word),
      s.tstate t.val = TState.disabled.code → 
        Completes (.shred t v) s fun u => u.tstate t.val = TState.shredding.code ∧ u.fld Fd.TNT_STATE_ACTERR t.val = 0) ∧
  -- R563, R633: with its erase list empty, a SHREDDING tenant is FREE.
  (∀ (s : State) (t : TenantId),
      s.tstate t.val = TState.shredding.code → eraseLeft s t.val = [] → 
        Completes (.shredComplete t) s fun u => u.tstate t.val = TState.free.code) ∧
  -- R107: UNCONFIGURE of a CONFIGURED tenant: it is FREE.
  (∀ (s : State) (t : TenantId) (v : Word),
      s.tstate t.val = TState.configured.code → 
        Completes (.unconfigure t v) s fun u => u.tstate t.val = TState.free.code ∧ u.fld Fd.TNT_STATE_ACTERR t.val = 0) ∧
  -- R110: CREATE of a group that is not valid, for the profile of a panel: the group is VALID.
  (∀ (s : State) (g : GroupId) (v : Word),
      (s.writeSgCfg g.val v).flag Fd.SG_CFG_VALID g.val = false → (panelOf (s.writeSgCfg g.val v) ((s.writeSgCfg g.val v).fld Fd.SG_CFG_PROFILE g.val)).isSome = true → 
        Completes (.groupCreate g v) s fun u => u.flag Fd.SG_CFG_VALID g.val = true ∧ u.fld Fd.SG_CFG_ERR g.val = 0) ∧
  -- R110: DELETE of a valid group without members and chunks: the group is not valid any more.
  (∀ (s : State) (g : GroupId) (v : Word),
      (s.writeSgCfg g.val v).flag Fd.SG_CFG_VALID g.val = true → groupMembers (s.writeSgCfg g.val v) g.val = [] → chunksCharged (s.writeSgCfg g.val v) (1024 + g.val) = 0 → 
        Completes (.groupDelete g v) s fun u => u.flag Fd.SG_CFG_VALID g.val = false ∧ u.fld Fd.SG_CFG_ERR g.val = 0) ∧
  -- R117: HRT_SYNC sets PENDING, and what is accepted from now on is told from what was accepted before.
  (∀ (s : State),
      Completes .hrtSync s fun u => u.flag Fd.HRT_SYNC_PENDING = true ∧ u.syncAt = s.nextUid + 1 ∧ ChangesOnly [.syncAt, .nextUid, .reg .HRT_SYNC] s u) ∧
  -- R117: every earlier access having completed clears PENDING; nothing else changes.
  (∀ (s : State),
      syncWaits s = false → 
        Completes .hrtSyncDone s fun u => u.flag Fd.HRT_SYNC_PENDING = false ∧ ChangesOnly [.reg .HRT_SYNC] s u) ∧
  -- R117: while one has not completed, PENDING stays.
  (∀ (s : State),
      syncWaits s = true → 
        exec .hrtSyncDone s = .next s)

/-- Requests are admitted or held by tokens, held ones released, slots served and DevLoad windows closed. A CXL.mem request of a host with a token takes it and is admitted, and one without is held; a held request is released once a token has accrued; a wheel slot serves the class that its code and the waiting requests give; a window's end computes every class's level and starts counting again. -/
def Obligations.BandwidthEventsComplete : Prop :=
  -- R126, R442: a request of a limited host, its address decoded by its host function's HDM decoders, at an unblocked port, is admitted and takes one token where there is one, and is held where there is none.
  (∀ (s : State) (host : HostId) (port : Fin 4) (req hpa now : Nat) (b : Bucket),
      portBlocked (s.at_ now) port.val (linkOn s host.val port.val) = false → s.fld Fd.WHL_HOSTLIM_RATE host.val ≠ 0 → b = (s.at_ now).bucketNow host.val → 
        Completes (.cxlMemRequestAdmit host port req hpa now) s fun t =>
      t.out = s.out ++ [.hdmDecode host.val hpa (hdmDpa hpa 0 (s.hdmOf host.val)), if 1000 ≤ b.milli then .admitted host.val port.val req else .held host.val port.val req] ∧
      t.bucket host.val = if 1000 ≤ b.milli then { b with milli := b.milli - 1000 } else { b with held := b.held ++ [(req, port.val)] }) ∧
  -- R126: with a token there, the oldest held request of a limited host is admitted and takes it.
  (∀ (s : State) (host : HostId) (now req port : Nat) (b : Bucket) (rest : List (Nat × Nat)),
      b = (s.at_ now).bucketNow host.val → b.held = (req, port) :: rest → s.fld Fd.WHL_HOSTLIM_RATE host.val ≠ 0 → 1000 ≤ b.milli → 
        Completes (.heldRequestRelease host now) s fun t =>
      t.out = s.out ++ [.admitted host.val port req] ∧ t.bucket host.val = { b with held := rest, milli := b.milli - 1000 }) ∧
  -- R123: a slot that is served goes to the class that slotServes gives; its oldest request leaves the queue and the wheel moves on by one slot.
  (∀ (s : State) (mc : Fin 12) (arrivals : List Traffic) (now c code : Nat) (wheel : List Nat) (waiting : List SlotReq),
      wheelOf (s.at_ now) mc.val = code :: wheel → (waiting = ((s.at_ now).wheel mc.val).waiting ++ arrivals.map (fun x => { cls := trafficClass s x, arrived := max s.dtime now })) → slotUnserved (s.at_ now) mc.val (code :: wheel) (((s.at_ now).wheel mc.val).slot % (wheel.length + 1)) = false → slotServes ((code :: wheel).getD (((s.at_ now).wheel mc.val).slot % (wheel.length + 1)) 0) waiting = some c → 
        Completes (.wheelSlot mc arrivals now) s fun t =>
      t.out = s.out ++ [.slotServed mc.val c] ∧ (t.wheel mc.val).slot = (((s.at_ now).wheel mc.val).slot + 1) % (wheel.length + 1) ∧
      (t.wheel mc.val).waiting = dropOldest c waiting) ∧
  -- R128: at the end of a window each class's level is the highest of the twelve controllers', and the served slots are counted from zero again.
  (∀ (s : State) (now : Nat),
      Completes (.devloadWindowEnd now) s fun t =>
      t.devLevels = ((List.range 8).map fun c => maxOf ((List.range 12).map fun mc => classLevel (s.at_ now) mc c)) ∧
      ∀ mc w, mapFind t.wheels mc = some w → w.served = List.replicate 8 0)

/-- Reads, writes and write-backs of plain-region lines and snoop answers complete with their effects. At a line where no request waits and no snoop is needed, an allowed request of a host is served at once: a caching read grants the line, a read answers with its bytes, a write changes the enabled bytes of the line and no other byte; a write-back by the exclusive holder is applied and the line is held no more; a snoop's answer lets what waited go on. -/
def Obligations.PlainRegionRequestsComplete : Prop :=
  -- R453: a shared read answers with the 64 bytes of the line, poisoned where the line is, and the host holds it shared.
  (∀ (s : State) (host : HostId) (addr e o : Nat) (r : LineReq),
      gate s host.val addr false = .ok → dpaPlace (dpaExtents s.cacheSf) addr = .plain e o → r = { host := some host.val, line := addr / 64, op := .readShared, started := false, awaits := [], cls := plainClass s host.val addr false } → s.lineQ.all (fun x => x.line != addr / 64) = true → snoopsFor s r = [] → evictionFor s r = [] → 
        Completes (.plainReadShared host addr) s fun t =>
      t.out = s.out ++ [.granted host.val (addr / 64) false (s.plainBytes (64 * (addr / 64)) 64) (linePoison s.wake (addr / 64) || partFailed s), .devLoad host.val (devLoad s host.val (plainClass s host.val addr false))] ∧
      host.val ∈ t.holdersOf (addr / 64) ∧ t.plainMem = s.plainMem) ∧
  -- R453: an exclusive read does the same, and the host is then the only holder.
  (∀ (s : State) (host : HostId) (addr e o : Nat) (r : LineReq),
      gate s host.val addr false = .ok → dpaPlace (dpaExtents s.cacheSf) addr = .plain e o → r = { host := some host.val, line := addr / 64, op := .readExcl, started := false, awaits := [], cls := plainClass s host.val addr false } → s.lineQ.all (fun x => x.line != addr / 64) = true → snoopsFor s r = [] → evictionFor s r = [] → 
        Completes (.plainReadExclusive host addr) s fun t =>
      t.out = s.out ++ [.granted host.val (addr / 64) true (s.plainBytes (64 * (addr / 64)) 64) (linePoison s.wake (addr / 64) || partFailed s), .devLoad host.val (devLoad s host.val (plainClass s host.val addr false))] ∧
      host.val ∈ t.holdersOf (addr / 64) ∧ t.plainMem = s.plainMem) ∧
  -- R453: a read that does not cache answers with the bytes of the line and changes no holder.
  (∀ (s : State) (host : HostId) (addr e o : Nat) (r : LineReq),
      gate s host.val addr false = .ok → dpaPlace (dpaExtents s.cacheSf) addr = .plain e o → r = { host := some host.val, line := addr / 64, op := .readCur, started := false, awaits := [], cls := plainClass s host.val addr false } → s.lineQ.all (fun x => x.line != addr / 64) = true → snoopsFor s r = [] → evictionFor s r = [] → 
        Completes (.plainReadCurrent host addr) s fun t =>
      t.out = s.out ++ [.readData host.val (s.plainBytes (64 * (addr / 64)) 64) (linePoison s.wake (addr / 64) || partFailed s), .devLoad host.val (devLoad s host.val (plainClass s host.val addr false))] ∧
      t.snoopFilter = s.snoopFilter ∧ t.plainMem = s.plainMem) ∧
  -- R453: a write changes exactly the bytes of the line whose enable is set.
  (∀ (s : State) (host : HostId) (addr e o : Nat) (bytes : List (Option Byte)) (r : LineReq),
      gate s host.val addr true = .ok → dpaPlace (dpaExtents s.cacheSf) addr = .plain e o → r = { host := some host.val, line := addr / 64, op := .write (lineImage addr bytes), started := false, awaits := [], cls := plainClass s host.val addr true } → s.lineQ.all (fun x => x.line != addr / 64) = true → snoopsFor s r = [] → evictionFor s r = [] → partFailed s = false → 
        Completes (.plainWrite host addr bytes) s fun t => ∀ x, t.plainMem.get x =
      if 64 * (addr / 64) ≤ x ∧ x < 64 * (addr / 64) + 64 then ((lineImage addr bytes).getD (x - 64 * (addr / 64)) none).getD (s.plainMem.get x)
      else s.plainMem.get x) ∧
  -- R453: the exclusive holder's write-back of a line is applied, and that host holds the line no more.
  (∀ (s : State) (host : HostId) (addr : Nat) (bytes : List Byte),
      ((s.sfLine (addr / 64)).bind fun e => e.excl) = some host.val → gate s host.val addr true = .ok → bytes.length = 64 → 
        Completes (.plainWriteback host addr bytes) s fun t =>
      t.plainBytes (64 * (addr / 64)) 64 = bytes ∧ (∀ x, ¬(64 * (addr / 64) ≤ x ∧ x < 64 * (addr / 64) + 64) → t.plainMem.get x = s.plainMem.get x) ∧
      ∀ e ∈ t.snoopFilter, e.line = addr / 64 → host.val ∉ holders e) ∧
  -- R455: a host's answer to the first of its snoops at a line is taken with its data, and what waited for it goes on.
  (∀ (s : State) (host : HostId) (line : Nat) (data : Option (List Byte)) (x : Snoop),
      s.snoops.find? (fun x => x.host == host.val && x.line == line) = some x → 
        exec (.bisnpResponse host line data) s = .next (s.answerSnoop x data).pumpWaits)

/-- Loads and stores in view and gateway windows, and the configuration of both, complete with their effects. An allowed load of a resident raw page through a view window answers with its bytes; a store writes the basted page, or the slot entry that it names; a gateway store goes into a buffer, a doorbell ships the buffers and queues behind them, its FLUSH's answer writes the flush word, and a load returns poison; the configuration registers take what their rules let them take. -/
def Obligations.WindowAccessesComplete : Prop :=
  -- R246: a load of a page that is in HBM in raw form answers with its bytes.
  (∀ (s : State) (host : HostId) (addr size t o slot layer byte h f : Nat) (c : Chunk) (p : Page) (x : Frame) (m : Memory) (z : Bool) (bs : List Byte),
      s.lostHosts.contains host.val = false → hdmServes s = true → dpaPlace (dpaExtents s.cacheSf) addr = .view t o → backed s host.val addr = true → (hrtLookup s host.val false addr false .other).isSome = true → viewPlace s t o = .page slot layer byte → viewTarget s t slot layer byte = some (h, c, p) → p.st ≠ .flash ∧ p.st ≠ .staging → p.mask = 0 → (p.frame.bind fun f => (mapFind s.wake.frames f).map fun x => (f, x)) = some (f, x) → x.body = .raw m z → pageBytes s.wake c layer byte size = .data bs → 
        Completes (.viewLoad host addr size) s fun u => u.out = s.out ++ [.readData host.val bs false, .devLoad host.val (devLoad s host.val (some (s.fld Fd.TNT_BIND_BCLASS t)))] ∧ u.plainMem = s.plainMem ∧ u.chunks = s.chunks) ∧
  -- R246: a store to a basted page that no COMMIT has taken writes its bytes there.
  (∀ (s u : State) (host : HostId) (addr t o slot layer byte h : Nat) (bytes : List (Option Byte)) (picks : List Nat) (c : Chunk) (p : Page),
      s.lostHosts.contains host.val = false → hdmServes s = true → dpaPlace (dpaExtents s.cacheSf) addr = .view t o → backed s host.val addr = true → (hrtLookup s host.val false addr true .other).isSome = true → viewPlace s t o = .page slot layer byte → viewTarget s t slot layer byte = some (h, c, p) → viewStoreWaits s t slot layer byte = false → c.committed = false → underCommit s h = none → p.st ≠ .poisoned → p.mask = 0 → bytes.all (fun b => b.isNone) = false → u = s.wake.putFrame (p.frame.getD 0) byte bytes → writePage s.wake h layer byte bytes picks = .done u → 
        exec (.viewStore host addr bytes picks) s = .next (u.respond host.val (some (s.fld Fd.TNT_BIND_BCLASS t)))) ∧
  -- R449: a store of eight bytes to a slot entry updates the entry; only VALID and the handle are kept.
  (∀ (s : State) (host : HostId) (addr t o slot : Nat) (v : Word),
      s.lostHosts.contains host.val = false → hdmServes s = true → dpaPlace (dpaExtents s.cacheSf) addr = .view t o → backed s host.val addr = true → (hrtLookup s host.val false addr true .other).isSome = true → viewPlace s t o = .slotEntry slot → o % 8 = 0 → 
        Completes (.viewSlotStore host addr v) s fun u => u.viewSlot t slot = v &&& 0x8000000000FFFFFF ∧ ChangesOnly [.viewSlots, .out] s u) ∧
  -- R448: a window whose extent is not added takes a size that its rule allows; enabling it empties its slot table.
  (∀ (s : State) (t : TenantId) (v : Word),
      viewExtent s t.val = false → 6 ≤ bitsOf v 5 1 ∧ bitsOf v 5 1 ≤ 16 → bitsOf v 5 1 + cstrideLog (s.geo (s.profileOf t.val)) ≤ 41 → 
        Completes (.viewWindowConfig t v) s fun u =>
      u.fld Fd.CXL_VW_VSLOTLOG t.val = bitsOf v 5 1 ∧ u.fld Fd.CXL_VW_EN t.val = bitsOf v 0 0 ∧
      (bitsOf v 0 0 = 1 → s.flag Fd.CXL_VW_EN t.val = false → ∀ slot, slot < 65536 → u.viewSlot t.val slot = 0)) ∧
  -- R467: a store below the doorbell line of a running window, no store waiting, goes into a buffer.
  (∀ (s : State) (host : HostId) (addr g o : Nat) (bytes : List (Option Byte)) (x : Gateway),
      gate s host.val addr true = .ok → gwTarget s addr = some (g, o) → o < bellOffset s g → s.fld Fd.GW_ST_STATE g = gwRun → (s.gw g).held = [] → gwStore (s.gw g) s.dtime o bytes = (x, true) → 
        exec (.gatewayStore host addr bytes) s = .next (((s.respond host.val none).setGw g x).gwGo g)) ∧
  -- R468: a doorbell of a running window ships every open buffer and queues behind them.
  (∀ (s : State) (host : HostId) (addr g : Nat) (v : Word),
      gate s host.val addr true = .ok → gwTarget s addr = some (g, bellOffset s g) → s.fld Fd.GW_ST_STATE g = gwRun → 
        exec (.gatewayDoorbell host addr v) s = .next (((s.respond host.val none).setGw g { s.gw g with bufs := (s.gw g).bufs.map GwBuf.shipNow, bells := (s.gw g).bells ++ [{ value := v.toNat, before := (s.gw g).next, issued := false, done := false }] }).gwGo g)) ∧
  -- R468: when the FLUSH of a window's first doorbell has been answered, the flush word takes the doorbell's value and the window goes on.
  (∀ (s : State) (g : Fin 64) (b : GwBell) (rest : List GwBell),
      (s.gw g.val).bells = b :: rest → b.done = true → 
        exec (.gatewayFlushDone g) s = .next (((s.setGw g.val { s.gw g.val with bells := rest }).flushWord g.val (b.value % 2 ^ 63)).gwGo g.val)) ∧
  -- R467: TMOUS after its first store an open buffer ships.
  (∀ (s : State) (g : Fin 64) (page now : Nat),
      ((s.at_ now).gw g.val).bufs.any (fun b => b.page == page && b.ship.isNone && decide (b.since + 1000 * (s.at_ now).fld Fd.GW_CTL_TMOUS g.val ≤ max s.dtime now)) = true → 
        exec (.gatewayBufferTimeout g page now) s = .next (((s.at_ now).setGw g.val { s.gw g.val with bufs := (s.gw g.val).bufs.map fun b => if (b.page == page && b.ship.isNone && decide (b.since + 1000 * (s.at_ now).fld Fd.GW_CTL_TMOUS g.val ≤ max s.dtime now)) = true then b.shipNow else b }).gwGo g.val)) ∧
  -- R469: an allowed load of a gateway window returns poison and changes nothing else.
  (∀ (s : State) (host : HostId) (addr size : Nat),
      gate s host.val addr false = .ok → 
        exec (.gatewayLoad host addr size) s = .next (s.respondData host.val (List.replicate size 0) true none)) ∧
  -- R484: while a window is off its addresses take a write, and a write of GW_CTL that enables it with valid fields starts it running.
  (∀ (s : State) (g : Fin 64) (v : Word),
      s.flag Fd.GW_CTL_EN g.val = false → bitsOf v 0 0 = 1 → (s.setReg .GW_CTL g.val (writeFields [Fd.GW_CTL_TMOUS, Fd.GW_CTL_QP, Fd.GW_CTL_TENANT, Fd.GW_CTL_SIZELOG] (s.reg .GW_CTL g.val) v)).fld Fd.GW_CTL_TMOUS g.val ≠ 0 → 28 ≤ (s.setReg .GW_CTL g.val (writeFields [Fd.GW_CTL_TMOUS, Fd.GW_CTL_QP, Fd.GW_CTL_TENANT, Fd.GW_CTL_SIZELOG] (s.reg .GW_CTL g.val) v)).fld Fd.GW_CTL_SIZELOG g.val → (s.setReg .GW_CTL g.val (writeFields [Fd.GW_CTL_TMOUS, Fd.GW_CTL_QP, Fd.GW_CTL_TENANT, Fd.GW_CTL_SIZELOG] (s.reg .GW_CTL g.val) v)).fld Fd.GW_CTL_SIZELOG g.val ≤ 36 → 
        Completes (.gatewayConfig g 0 v) s (fun u => u.flag Fd.GW_CTL_EN g.val = true ∧ u.fld Fd.GW_ST_STATE g.val = gwRun) ∧
      Completes (.gatewayConfig g 1 v) s (fun u => u.reg .GW_RADDR g.val = writeFields [Fd.GW_RADDR_RADDR] 0 v ∧ ChangesOnly [.reg .GW_RADDR] s u) ∧
      Completes (.gatewayConfig g 2 v) s fun u => u.reg .GW_FLADDR g.val = writeFields [Fd.GW_FLADDR_FLADDR] 0 v ∧ ChangesOnly [.reg .GW_FLADDR] s u)

/-- Dynamic capacity, link training, host loss, binding and the orphan log complete with their effects. A valid add request of a new plain extent is recorded and completes once superframes are free, or is refused after two seconds; a release begins at once and ends when nothing is left of it; a trained link shows its state; a lost host is not served; the orphan log takes what was orphaned, can be cleared and read by entry. -/
def Obligations.CapacityAndHostEventsComplete : Prop :=
  -- R445, R446: a valid add request of a new plain extent within PLMAX begins adding it.
  (∀ (s : State) (idx : Nat) (tag : Wide) (hosts : List Nat),
      addValid s 0 idx tag.toNat hosts = true → s.extent 0 idx = none → plainExtents s < s.fld Fd.CXL_PLAIN_PLMAX → 
        Completes (.dcAddExtent 0 idx tag hosts) s fun t =>
      t.extent 0 idx = some { tag := tag.toNat, hosts, st := .adding, since := s.dtime } ∧ ChangesOnly [.extents, .released] s t) ∧
  -- R446: 128 superframes are free: the extent's bytes are zero, its poisoned and orphaned lines are gone, its hosts are told and the FM gets Success.
  (∀ (s : State) (idx : Nat) (e : Extent),
      s.extent 0 idx = some e → e.st = .adding → extentRoom s = true → 
        exec (.plainExtentReady idx) s = .next ((((s.zeroExtent idx).setExtent 0 idx { e with st := .added }).tellHosts 0 idx e.hosts).fm 0)) ∧
  -- R446: two seconds without 128 free superframes: the extent is not added and the FM gets Resources Exhausted.
  (∀ (s : State) (idx now : Nat) (e : Extent),
      s.extent 0 idx = some e → e.st = .adding → e.since + 2000000000 ≤ max s.dtime now → 
        Completes (.plainExtentAddTimeout idx now) s fun t => t.extent 0 idx = none ∧ t.out = s.out ++ [.fmReturn 2]) ∧
  -- R447: a release of an extent that the host holds begins, and the FM gets Success.
  (∀ (s : State) (region : Fin 3) (idx : Nat) (host : HostId) (e : Extent),
      s.extent region.val idx = some e → extentHeld s host.val region.val idx = true → region.val ≠ 0 → 
        exec (.dcReleaseExtent region idx host) s = .next (((s.setExtent region.val idx { e with st := .releasing }).pumpRelease idx).fm 0)) ∧
  -- R447: a release of a plain extent with no request at it and no line of it held ends: its bytes are zero and it is gone.
  (∀ (s : State) (idx : Nat) (e : Extent),
      s.extent 0 idx = some e → e.st = .releasing → extentBusy s idx = false → extentHolders s idx = [] → 
        exec (.dcReleaseComplete 0 idx) s = .next (({ s.zeroExtent idx with extents := mapDel (extKey 0 idx) (s.zeroExtent idx).extents } : State).tellHosts 0 idx e.hosts)) ∧
  -- R436, R442: an even link that trains at 64 GT/s over its full width with its FLIT mode and no host of another link carries CXL, its hosts are served again with the HDM decoders they commit, and its IDE keys are gone.
  (∀ (s : State) (link : Fin 8) (ds : List (Nat × HdmDecoder)),
      link.val % 2 = 0 → portBif s (link.val / 2) = false → (configHosts (s.reg .CXL_LINKCFG link.val)).any (fun h => decide (15 < h) || (((List.range 8).filter (· != link.val)).flatMap fun k => linkHosts s k).contains h) = false → 
        exec (.cxlLinkTrain link 2 3 true ds) s =
      .next ((({ { s with linkIn := mapIns link.val (s.reg .CXL_LINKCFG link.val) s.linkIn, ideKeys := s.ideKeys.filter fun e => e.1 / 256 != link.val }.setReg .CXL_LINKST link.val (packWord [(32, s.fld Fd.CXL_LINKST_DOWNS link.val), (9, 0), (8, 1), (5, 3), (3, 2), (0, 2)]) with lostHosts := s.lostHosts.filter fun h => !(configHosts (s.reg .CXL_LINKCFG link.val)).contains h } : State).commitHdms link.val ds).checkLinks)) ∧
  -- R456: a host whose logical device is unbound is lost: it is on the list of lost hosts.
  (∀ (s : State) (host : HostId),
      s.lostHosts.contains host.val = false → 
        exec (.hostLost host false) s = .next (s.loseHost host.val)) ∧
  -- R458: the scan has recorded the orphaned lines as far as the log holds them.
  (∀ (s : State),
      s.flag Fd.CXL_ORPH_SCAN = true → 
        Completes .orphanScanComplete s fun t =>
      t.orphanLog = s.orphanLog ++ s.orphanPend.take (orphanEntries - s.orphanLog.length) ∧ t.orphanPend = [] ∧ t.flag Fd.CXL_ORPH_SCAN = false) ∧
  -- R481: CLEAR empties the log and takes the overflow mark back.
  (∀ (s : State),
      Completes .orphanLogClear s fun t => t.orphanLog = [] ∧ t.flag Fd.CXL_ORPH_OVF = false ∧ ChangesOnly [.orphanLog, .reg .CXL_ORPH] s t) ∧
  -- R481: a query shows the line and the host of an entry and its DTIME.
  (∀ (s : State) (v : Word) (r : OrphanRec),
      s.orphanLog[bitsOf v 15 0]? = some r → 
        Completes (.orphanLogQuery v) s fun t =>
      t.reg .CXL_ORPHE0 0 = packWord [(6, r.line % 2 ^ 58), (0, r.host)] ∧ t.reg .CXL_ORPHE1 0 = BitVec.ofNat 64 r.dtime ∧
      ChangesOnly [.reg .CXL_ORPHQ, .reg .CXL_ORPHE0, .reg .CXL_ORPHE1] s t) ∧
  -- R456: a bind by the FM of a logical device of a link in MLD mode establishes its host again.
  (∀ (s : State) (host : HostId) (l : Nat),
      hostLink s host.val = some l → directLink s l = false → 
        Completes (.fmLdBind host) s fun t => t.lostHosts = s.lostHosts.filter (· != host.val) ∧ ChangesOnly [.lostHosts] s t)

/-- Accesses of BAR0, of unallocated offsets, of the lock and of the log registers complete with their effects. A write of BAR0 of the right size takes effect on its register, a read answers the register's value and clears what a read clears, an access to an unallocated offset reads all ones, the lock is set for good, the log ring is emptied and a record is copied. -/
def Obligations.RegisterAccessesComplete : Prop :=
  -- R19, R725: a read of BAR0 at an unallocated offset is recorded and answers all ones; a write is recorded and dropped.
  (∀ (s : State) (wr : Bool) (host : HostId) (off : Fin 67108864) (size : Nat),
      bar0Stray s wr off.val size = true → 
        exec (.unallocatedAccess false wr host off size) s = .next (if wr then s.unallocated false true (operatorHost s) size off.val
      else (s.unallocated false false (operatorHost s) size off.val).emit (.readData (operatorHost s) (allOnes size) false))) ∧
  -- R725: a read of BAR2 that is allowed and reaches an unallocated offset of a tenant window.
  (∀ (s : State) (wr : Bool) (host : HostId) (off : Fin 67108864) (size : Nat) (e : Nat × Nat),
      windowLaidOut (off.val % 65536) = false → hrtLookup s host.val true off.val wr .other = some e → 
        exec (.unallocatedAccess true wr host off size) s = .next (if wr then s.unallocated true true host.val size off.val
      else (s.unallocated true false host.val size off.val).emit (.readData host.val (allOnes size) false))) ∧
  -- R17, R723: a write of 8 bytes, naturally aligned, acts on the register at its offset.
  (∀ (s : State) (off : Nat) (k : RegKind) (i : Nat) (v : Word),
      bar0At off = .reg k i → off % 8 = 0 → bar0Takes s off = true → 
        exec (.registerWrite off 8 v) s = .next (s.regWrite k i v)) ∧
  -- R678: until media is ready a write of BAR0 other than to GLB and PWR is dropped.
  (∀ (s : State) (off : Nat) (k : RegKind) (i : Nat) (v : Word),
      bar0At off = .reg k i → bar0Takes s off = false → off % 8 = 0 → 
        exec (.registerWrite off 8 v) s = .next s) ∧
  -- R722: the DBG block is not described in the states that are the maker's: an access that BAR0 takes stops there by name.
  (∀ (s : State) (off size : Nat) (v : Word),
      bar0At off = .debug → debugOpen s = true → 
        (bar0Size true off size = true → exec (.registerWrite off size v) s = .refused .debugBlock) ∧
        (bar0Size false off size = true → exec (.registerReadClear off size) s = .refused .debugBlock)) ∧
  -- R723: an access of a size that BAR0 does not take is one to an unallocated offset, wherever it goes: a write is dropped, and a read answers all ones.
  (∀ (s : State) (off size : Nat) (v : Word),
      (bar0Size true off size = false → exec (.registerWrite off size v) s = .next (s.unallocated false true (operatorHost s) size off)) ∧
        (bar0Size false off size = false → exec (.registerReadClear off size) s =
          .next ((s.unallocated false false (operatorHost s) size off).emit (.readData (operatorHost s) (allOnes size) false)))) ∧
  -- R723: a read of a whole register answers its bytes, lowest first, and clears the fields that a read clears.
  (∀ (s : State) (off : Nat) (k : RegKind) (i : Nat),
      bar0At off = .reg k i → off % 8 = 0 → 
        exec (.registerReadClear off 8) s =
      .next ((s.emit (.readData (operatorHost s) (leBytes 8 (s.regRead k i).toNat) false)).clearRead k i 0 63)) ∧
  -- R730: a 1 sets LOCK, which stays set; nothing else changes.
  (∀ (s : State) (v : Word),
      bitsOf v 0 0 = 1 ∨ s.flag Fd.GLB_LOCK = true → 
        Completes (.lockSet v) s fun t => t.flag Fd.GLB_LOCK = true ∧ ChangesOnly [.reg .GLB] s t) ∧
  -- R741: CLEAR empties the ring; numbering continues.
  (∀ (s : State) (v : Word),
      bitsOf v 0 0 = 1 → 
        Completes (.logClear v) s fun t =>
      t.log = [] ∧ t.fld Fd.LOG_PTR_WRITTEN = s.fld Fd.LOG_PTR_WRITTEN ∧ t.fld Fd.LOG_PTR_OLDEST = s.fld Fd.LOG_PTR_WRITTEN ∧ ChangesOnly [.log, .reg .LOG_PTR] s t) ∧
  -- R741: a write of IDX copies that record into LOG_REC0 to LOG_REC3; they read zero when the ring does not hold it.
  (∀ (s : State) (v : Word) (j : Nat),
      j < 4 → 
        Completes (.logReadIndex v) s fun t =>
      t.reg .LOG_REC j = wordAt (((logRecord s (bitsOf v 31 0)).map logWords).getD [0, 0, 0, 0]) j ∧ ChangesOnly [.reg .LOG_RDIDX, .reg .LOG_REC] s t)

/-- STAGE, ABORT, QUERY, the ends of programming and the boot copies complete with their effects. STAGE copies a piece into the staging buffer and ABORT empties it, QUERY answers the two status words, the end of programming puts the image in force, a failed one restores what ran before, and both boot copies are written with the pattern floor raised. -/
def Obligations.PatternRowsComplete : Prop :=
  -- R74: STAGE copies the piece into the staging buffer.
  (∀ (s : State) (fn : Fin 17) (word0 word1 : Word) (data : List Byte),
      mbRefusal s fn.val false false false = none → bitsOf word0 63 32 ≤ data.length → word1.toNat + bitsOf word0 63 32 ≤ stageBytes → 
        exec (.patternStage fn word0 word1 data) s = .next (((s.stage word1.toNat (data.take (bitsOf word0 63 32))).showStaged).reply 0xC010 mbOk [])) ∧
  -- R74: so does STAGE of a panel image.
  (∀ (s : State) (fn : Fin 17) (word0 word1 : Word) (data : List Byte),
      mbRefusal s fn.val false false false = none → bitsOf word0 63 32 ≤ data.length → word1.toNat + bitsOf word0 63 32 ≤ stageBytes → 
        exec (.panelSwapStage fn word0 word1 data) s = .next (((s.stage word1.toNat (data.take (bitsOf word0 63 32))).showStaged).reply 0xC011 mbOk [])) ∧
  -- R74: ABORT empties the buffer.
  (∀ (s : State) (fn : Fin 17) (word0 : Word),
      mbRefusal s fn.val false false false = none → 
        Completes (.patternAbort fn word0) s fun t => t.staging = [] ∧ t.out = s.out ++ [.mailbox 0xC010 mbOk 0 []] ∧ ChangesOnly [.staging, .out, .reg .PAT_PROGRESS] s t) ∧
  -- R74: so does ABORT of a panel image.
  (∀ (s : State) (fn : Fin 17) (word0 : Word),
      mbRefusal s fn.val false false false = none → 
        Completes (.panelSwapAbort fn word0) s fun t => t.staging = [] ∧ t.out = s.out ++ [.mailbox 0xC011 mbOk 0 []]) ∧
  -- R74: QUERY answers PAT_STATUS and PAT_PROGRESS and changes nothing.
  (∀ (s : State) (fn : Fin 17) (word0 : Word),
      mbRefusal s fn.val false false false = none → 
        exec (.patternQuery fn word0) s = .next (s.reply 0xC010 mbOk [s.reg .PAT_STATUS, s.reg .PAT_PROGRESS])) ∧
  -- R74: so does QUERY of a panel swap.
  (∀ (s : State) (fn : Fin 17) (word0 : Word),
      mbRefusal s fn.val false false false = none → 
        exec (.panelSwapQuery fn word0) s = .next (s.reply 0xC011 mbOk [s.reg .PAT_STATUS, s.reg .PAT_PROGRESS])) ∧
  -- R80, R94: the programming of a pattern succeeds: its coder tables are installed, the image is in force, and the load is done.
  (∀ (s : State) (l : LoadRun),
      s.load = some l → l.swap = false → l.phase = .programming → 
        exec (.patternProgramDone true) s = .next (((l.image.panels.foldl State.installTables { s with load := none }).program l.image).loadDone false 0)) ∧
  -- R80: programming fails: the part restores what ran before.
  (∀ (s : State) (l : LoadRun),
      s.load = some l → l.swap = false → l.phase = .programming → 
        exec (.patternProgramDone false) s = .next (s.enterPhase l .restoring)) ∧
  -- R85, R94: the panel of the image runs its new library.
  (∀ (s : State) (l : LoadRun),
      s.load = some l → l.swap = true → l.phase = .programming → 
        exec (.panelSwapProgramDone true) s = .next ((l.image.panels.foldl State.swapPanel { s with load := none }).loadDone true l.panel)) ∧
  -- R85: the programming of a panel fails: its old library is restored.
  (∀ (s : State) (l : LoadRun),
      s.load = some l → l.swap = true → l.phase = .programming → 
        exec (.panelSwapProgramDone false) s = .next (s.enterPhase l .restoring)) ∧
  -- R71, R638, R687: both boot copies hold the running pattern, and a floor that the policy raises is raised with them.
  (∀ (s : State) (p : Pattern),
      s.pattern = some p → s.flag Fd.PAT_STATUS_PERSISTED = false → s.load = none → 
        Completes .patternPersistDone s fun t =>
      t.bootA = some p ∧ t.bootB = some p ∧ t.pattern = some p ∧ t.flag Fd.PAT_STATUS_PERSISTED = true ∧ t.flag Fd.PAT_EVT_PERSIST_DONE = true ∧
      t.fld Fd.SEC_PATFLOOR_FLOOR = max (s.fld Fd.SEC_PATFLOOR_FLOOR) (fieldOf p.policy 1 31 0))

/-- RING_ATTEND and FENCE, the ring's enable, its links, frames and check, and the CAM cascade complete with their effects. RING_ATTEND enters its context and sends its header to the other members, FENCE ends once its descriptors are done, SNL_CFG enables and disables the ring, a link trains, goes down and follows its cable, frames and the ring check act, and a cascade search is recorded, resolved and answered. -/
def Obligations.RingLinkAndCascadeEventsComplete : Prop :=
  -- R415: a checked RING_ATTEND whose pages need no fetch is under way, its header sent to every other member that takes part.
  (∀ (s : State) (uid q : Nat) (c d : Cmd) (sq : Seq) (w : AttWork),
      s.ready uid Oc.ringAttend = some c → c.cancel = none → c.work = .ready → attFieldFault s c = none → ringCtxOk s c = true → memMaskOk s c = true → ((ringWorks s (ctxNamed c)).any fun k => ringTag k == ringTag c) = false → (ringWorks s (ctxNamed c)).length < 16 → fieldOf c.words 4 21 0 = q → s.ownSeq c.tenant q = some sq → (s.attAccess (s.hostOf c.tenant) ((attRanges s c).1.map (fun x => (x.1, x.2, false)) ++ (attRanges s c).2.map fun x => (x.1, x.2, true))).isNone = true → (attSeq s c q 0 (seqExtent s sq) (ringQ0 c)).failed = none → (s.attBegin c [attSeq s c q 0 (seqExtent s sq) (ringQ0 c)]).cmd uid = some d → d.attWork = some w → 
        exec (.ringAttend uid) s =
      .next (((ringOthers ((s.attBegin c [attSeq s c q 0 (seqExtent s sq) (ringQ0 c)]).setCmd { d with work := .ring w false false }) d).foldl
        (fun s m => s.ringSend m (.hdr m (ownHdr s d w))) ((s.attBegin c [attSeq s c q 0 (seqExtent s sq) (ringQ0 c)]).setCmd { d with work := .ring w false false })).ringAdvance uid)) ∧
  -- R409: FENCE ends OK once every descriptor below its index is done.
  (∀ (s : State) (uid : Nat) (c : Cmd),
      s.ready uid Oc.fence = some c → c.cancel = none → ctxState s (ctxNamed c) = ctxOpen → s.fld Fd.SNL_CTX_CTL_MODE (ctxNamed c) = 0 → s.fld Fd.SNL_CTX_CTL_TENANT (ctxNamed c) = c.tenant → fenceMet s (ctxNamed c) (fieldOf c.words 1 63 32) = true → 
        Completes (.fence uid) s fun t => Ended s t c Cc.ok 0 0) ∧
  -- R391: EN is set with the fields of the same write, the ring is FORMING and both links train.
  (∀ (s : State) (v : Word),
      s.flag Fd.SNL_CFG_EN = false → 
        Completes (.ringEnable v) s fun t =>
      t.flag Fd.SNL_CFG_EN = true ∧ t.fld Fd.SNL_RING_STATE = ringForming ∧ t.fld Fd.SNL_RING_CAUSE = 0 ∧
      t.fld Fd.SNL_CFG_RINGID = bitsOf v 31 16 ∧ t.fld Fd.SNL_CFG_POS = bitsOf v 8 5 ∧ t.fld Fd.SNL_CFG_NMEM = bitsOf v 4 1) ∧
  -- R392: EN is cleared: the ring is OFF and both links are DOWN.
  (∀ (s : State) (v : Word),
      s.flag Fd.SNL_CFG_EN = true → 
        Completes (.ringDisable v) s fun t =>
      t.flag Fd.SNL_CFG_EN = false ∧ t.fld Fd.SNL_RING_STATE = ringOff ∧ t.fld Fd.SNL_CASC_CASCOK = 0 ∧ t.fld Fd.SNL_LINK_STATE 0 = linkDown ∧
      t.fld Fd.SNL_LINK_STATE 1 = linkDown) ∧
  -- R391, R394: a link trained with a consistent handshake is UP at its width and has passed; what the other end has not acknowledged and what waited goes out, and with both links passed the check is sent.
  (∀ (s u : State) (link : Fin 2) (width : Fin 3) (id : BitVec 16) (pos nmem : Fin 16),
      s.fld Fd.SNL_LINK_STATE link.val = linkTraining → width.val ≠ 0 → u = s.setReg .SNL_LINK link.val (packWord [(12, pos.val), (3, width.val), (0, linkUp)]) → handshakeCause u link.val id.toNat pos.val nmem.val true = 0 → 
        exec (.ringLinkTrained link width id pos nmem true) s =
      .next ((((u.setRlink link.val { u.rlink link.val with passed := true }).ringResend link.val (((u.rlink link.val).sent.head?.map fun e => e.1).getD (u.rlink link.val).txNext)).ringPump).startCheck)) ∧
  -- R392: a link that goes DOWN breaks a FORMED ring.
  (∀ (s : State) (link : Fin 2),
      s.fld Fd.SNL_LINK_STATE link.val = linkUp → s.fld Fd.SNL_RING_STATE = ringFormed → 
        Completes (.ringLinkDown link false) s fun t =>
      t.fld Fd.SNL_LINK_STATE link.val = linkDown ∧ t.fld Fd.SNL_RING_STATE = ringBroken ∧ t.fld Fd.SNL_CASC_CASCOK = 0) ∧
  -- R717: a cable that leaves takes its link DOWN.
  (∀ (s : State) (link : Fin 2),
      Completes (.ringCablePresence link false) s fun t => (t.rlink link.val).cable = false ∧ t.fld Fd.SNL_LINK_STATE link.val = linkDown) ∧
  -- R387, R388: a DATA frame whose CRC is right and whose FSEQ is the next is accepted: the one after it is expected, and what its ACK covers leaves the replay buffer.
  (∀ (s : State) (link : Fin 2) (frame : List Byte),
      s.fld Fd.SNL_LINK_STATE link.val = linkUp → frameOk frame = true → frameType frame = 1 → frameSeq frame = (s.rlink link.val).rxNext → 
        exec (.ringDataFrame link frame) s =
      .next ((s.setRlink link.val { s.rlink link.val with rxNext := (frameSeq frame + 1) % fseqMod, replays := 0 }).ringAcked link.val (frameAck frame))) ∧
  -- R388: one whose CRC is wrong is counted and asked for again.
  (∀ (s : State) (link : Fin 2) (frame : List Byte),
      s.fld Fd.SNL_LINK_STATE link.val = linkUp → frameOk frame = false → 
        exec (.ringDataFrame link frame) s = .next ((s.addFld Fd.SNL_LERR_CRCERR 1 link.val).askReplay link.val)) ∧
  -- R388, R393: a CONTROL frame acknowledges and gives credits.
  (∀ (s u : State) (link : Fin 2) (frame : List Byte) (credits : List Nat),
      s.fld Fd.SNL_LINK_STATE link.val = linkUp → frameOk frame = true → frameType frame = 2 → u = s.ringAcked link.val (frameAck frame) → 
        exec (.ringControlFrame link frame credits none) s =
      .next (u.setRlink link.val { u.rlink link.val with credits := (u.rlink link.val).credits.mapIdx fun i n => n + credits.getD i 0 })) ∧
  -- R392, R394: this member's own check came around with every position in order: the ring is FORMED and what waited goes out.
  (∀ (s : State) (src last : Fin 16),
      src.val = ringPos s → (last.val + 1) % ringN s = ringPos s → s.fld Fd.SNL_RING_STATE = ringForming → linksPassed s = true → 
        exec (.ringCheck src last true) s = .next (((s.setFld Fd.SNL_RING_STATE ringFormed).incFld Fd.SNL_RING_FORMS 1).ringPump)) ∧
  -- R392: another member's check goes on east, with this position verified.
  (∀ (s : State) (src last : Fin 16) (ok : Bool),
      src.val ≠ ringPos s → 
        exec (.ringCheck src last ok) s = .next (s.ringPut 0 (.check src.val (ringPos s) (ok && ringPos s == (last.val + 1) % ringN s)))) ∧
  -- R421: a search of another member is recorded and goes on east.
  (∀ (s : State) (src cpos : Fin 16) (uid : Nat) (word : List Word),
      src.val ≠ ringPos s → 
        exec (.camSearch src cpos uid word) s =
      .next (({ s with camReqs := s.camReqs ++ [{ src := src.val, cpos := cpos.val, uid, word, sentAt := s.dtime, done := false }] } : State).ringPut 0 (.camSearch src.val cpos.val uid word))) ∧
  -- R422: a hit for this member answers the search that it names.
  (∀ (s : State) (link : Fin 2) (dst : Fin 16) (uid : Nat) (pos : Fin 16) (handle : Fin 16777216),
      dst.val = ringPos s → (s.camReqs.any fun r => ownSearch s r && r.uid == uid) = true → 
        exec (.camHit link dst uid pos handle) s =
      .next (({ s with camReqs := s.camReqs.filter fun r => !(ownSearch s r && r.uid == uid) } : State).camAnswer uid (.hit pos.val handle.val))) ∧
  -- R421, R422: in a slot the oldest search of its owner is resolved: MATCH_OUT is high, and the member that matches first answers the originator.
  (∀ (s : State) (slot h : Nat) (r : CamReq),
      ((s.at_ (128 * slot)).camReqs.find? fun r => r.cpos == slotOwner (s.at_ (128 * slot)) slot && !r.done && decide (r.sentAt + 1000 ≤ 128 * slot)) = some r → ownSearch s r = false → camMatch (s.at_ (128 * slot)) r.word = some h → 
        exec (.cascadeSlot slot false) s =
      .next ((({ s.at_ (128 * slot) with camReqs := s.camReqs.filter (· ≠ r) } : State).emit (.matchOut slot true)).ringSend r.src (.camHit r.src r.uid (ringPos s) h))) ∧
  -- R422: a search whose slot has passed without a hit is a cascade miss.
  (∀ (s : State) (uid : Nat),
      (s.camReqs.any fun r => ownSearch s r && r.uid == uid && (r.done || !s.flag Fd.SNL_CASC_CASCOK)) = true → 
        exec (.cascadeMissTimeout uid) s =
      .next (({ s with camReqs := s.camReqs.filter fun r => !(ownSearch s r && r.uid == uid) } : State).camAnswer uid .miss))

/-- Ring contexts, descriptors and ring messages complete with their effects. A context opens, aborts, ends its abort and closes; the host's tail write is a plain write, a descriptor is taken with its messages sent and ends with its word written; requests are served at their target and answers confirm their part; a partner's header and block are collected. -/
def Obligations.RingContextsAndMessagesComplete : Prop :=
  -- R406: a GET_REQ whose context is open, range readable and lines free is answered with the bytes.
  (∀ (s u : State) (link : Fin 2) (m : RingMsg),
      m.dst = ringPos s → u = { s.wake with nextUid := s.nextUid + 1 } → ctxState u m.ctx = ctxOpen → u.fld Fd.SNL_CTX_CTL_MODE m.ctx = 0 → rangeBacked u (u.hostOf (u.fld Fd.SNL_CTX_CTL_TENANT m.ctx)) m.addr m.len = true → rangeDenied u (u.hostOf (u.fld Fd.SNL_CTX_CTL_TENANT m.ctx)) m.addr m.len false = none → (u.coherentJob (jobBase + s.nextUid) [(m.addr, m.len)] []).2 = true → badLines u m.addr m.len = [] → 
        exec (.getReq link m) s =
      .next ((u.coherentJob (jobBase + s.nextUid) [(m.addr, m.len)] []).1.answer m 2 Cc.ok 0 (u.plainBytes m.addr m.len) [])) ∧
  -- R406: a GET_DATA that is awaited is written at the descriptor's local address, and its part is confirmed.
  (∀ (s u : State) (link : Fin 2) (m : RingMsg) (d : RingDesc),
      m.dst = ringPos s → u = { s.wake with nextUid := s.nextUid + 1 } → awaited u m = some d → m.data ≠ [] → (u.coherentJob (jobBase + s.nextUid) [] [(d.laddr + 64 * m.off, m.data.length)]).2 = true → 
        Completes (.getData link m) s fun t =>
      t.plainBytes (d.laddr + 64 * m.off) m.data.length = m.data ∧
      (∀ a, ¬ (d.laddr + 64 * m.off ≤ a ∧ a < d.laddr + 64 * m.off + m.data.length) → t.plainMem.get a = s.plainMem.get a) ∧
      t.rctxOf m.ctx = { u.rctxOf m.ctx with descs := (u.rctxOf m.ctx).descs.map fun x => if x.idx = m.didx ∧ x.left.contains m.off then ({ x with left := x.left.erase m.off, res := if x.res.isNone ∧ m.status ≠ Cc.ok then some (m.status, m.detail) else x.res } : RingDesc) else x }) ∧
  -- R406: a PUT is written at its address, and nowhere else, and is acknowledged.
  (∀ (s u : State) (link : Fin 2) (m : RingMsg),
      m.dst = ringPos s → u = { s.wake with nextUid := s.nextUid + 1 } → ctxState u m.ctx = ctxOpen → u.fld Fd.SNL_CTX_CTL_MODE m.ctx = 0 → rangeBacked u (u.hostOf (u.fld Fd.SNL_CTX_CTL_TENANT m.ctx)) m.addr m.data.length = true → rangeDenied u (u.hostOf (u.fld Fd.SNL_CTX_CTL_TENANT m.ctx)) m.addr m.data.length true = none → (u.coherentJob (jobBase + s.nextUid) [] [(m.addr, m.data.length)]).2 = true → 
        exec (.ringPut link m) s =
      .next (((u.coherentJob (jobBase + s.nextUid) [] [(m.addr, m.data.length)]).1.putMarked m.addr m.data m.bad).answer m 5 Cc.ok 0 [] []) ∧
      Completes (.ringPut link m) s fun t => t.plainBytes m.addr m.data.length = m.data ∧
        ∀ a, ¬ (m.addr ≤ a ∧ a < m.addr + m.data.length) → t.plainMem.get a = s.plainMem.get a) ∧
  -- R407: a REDUCE_PUT adds each element to its destination in one update and is acknowledged; lines that were poisoned stay so.
  (∀ (s u : State) (link : Fin 2) (m : RingMsg),
      m.dst = ringPos s → u = { s.wake with nextUid := s.nextUid + 1 } → ctxState u m.ctx = ctxOpen → u.fld Fd.SNL_CTX_CTL_MODE m.ctx = 0 → m.rtype ≤ 4 → rangeBacked u (u.hostOf (u.fld Fd.SNL_CTX_CTL_TENANT m.ctx)) m.addr m.data.length = true → rangeDenied u (u.hostOf (u.fld Fd.SNL_CTX_CTL_TENANT m.ctx)) m.addr m.data.length true = none → (u.coherentJob (jobBase + s.nextUid) [] [(m.addr, m.data.length)]).2 = true → 
        exec (.reducePut link m) s =
      .next (((u.coherentJob (jobBase + s.nextUid) [] [(m.addr, m.data.length)]).1.putMarked m.addr
        (reduceBytes m.rtype (u.plainBytes m.addr m.data.length) m.data) (m.bad ++ badLines u m.addr m.data.length)).answer m 5 Cc.ok 0 [] [])) ∧
  -- R406: an ACK confirms its part of the descriptor that waits for it.
  (∀ (s u : State) (link : Fin 2) (m : RingMsg) (d : RingDesc),
      m.dst = ringPos s → u = { s.wake with nextUid := s.nextUid + 1 } → awaited u m = some d → 
        exec (.ringAck link m) s = .next (u.confirm m.ctx m.didx m.off m.status m.detail)) ∧
  -- R415: a header for this member, while its context is OPEN in ATTN mode, is collected, replacing an earlier one of the same member and tag.
  (∀ (s : State) (link : Fin 2) (dst : Fin 16) (h : RattHdr),
      dst.val = ringPos s → ctxState s h.ctx = ctxOpen → s.fld Fd.SNL_CTX_CTL_MODE h.ctx = 1 → (ringWorks (s.setRctx h.ctx { s.rctxOf h.ctx with hdrs := ((s.rctxOf h.ctx).hdrs.filter fun y => !(y.rtag == h.rtag && y.src == h.src)) ++ [h] }) h.ctx).find? (fun k => ringTag k == h.rtag) = none → 
        Completes (.rattHdr link dst h) s fun t => hdrOf t h.ctx h.rtag h.src = some h ∧ ChangesOnly [.rctx] s t) ∧
  -- R416: a block for a command of this member is collected.
  (∀ (s : State) (link : Fin 2) (b : RattBlock),
      ctxState s b.ctx = ctxOpen → ((ringWorks s b.ctx).find? fun k => ringTag k == b.rtag).isSome = true → hopsBeyond s link.val b.origin = [] → 
        Completes (.rattBlock link b) s fun t => (t.rctxOf b.ctx).blocks = (s.rctxOf b.ctx).blocks ++ [b] ∧ ChangesOnly [.rctx] s t) ∧
  -- R399: a context with valid fields OPENs, its first descriptor that of index 0.
  (∀ (s : State) (ctx : Fin 256) (v : Word),
      openError (s.ctxFields ctx.val v) ctx.val = 0 → 
        Completes (.ringCtxOpen ctx v) s fun t =>
      ctxState t ctx.val = ctxOpen ∧ t.fld Fd.SNL_CTX_ST_TAKEN ctx.val = 0 ∧ t.rctxOf ctx.val = { descs := [], hdrs := [], blocks := [], why := 0 } ∧
      ChangesOnly [.rctx, .reg .SNL_CTX_CTL, .reg .SNL_CTX_ST] s t) ∧
  -- R402: an OPEN context begins to abort.
  (∀ (s : State) (ctx : Fin 256) (v : Word),
      ctxState s ctx.val = ctxOpen → 
        exec (.ringCtxAbort ctx v) s = .next ((s.ctxFields ctx.val v).abortCtx ctx.val 0x0143)) ∧
  -- R402: an aborting context with nothing outstanding is ABORTED.
  (∀ (s : State) (ctx : Fin 256),
      ctxState s ctx.val = ctxAborting → ctxOutstanding s ctx.val = 0 → 
        Completes (.ringAbortComplete ctx) s fun t => ctxState t ctx.val = ctxAborted ∧ ChangesOnly [.rctx, .reg .SNL_CTX_ST] s t) ∧
  -- R399: an OPEN context with nothing outstanding closes.
  (∀ (s : State) (ctx : Fin 256) (v : Word),
      ctxState s ctx.val = ctxOpen → ctxOutstanding s ctx.val = 0 → 
        Completes (.ringCtxClose ctx v) s fun t => ctxState t ctx.val = ctxClosed ∧ ChangesOnly [.reg .SNL_CTX_ST, .reg .SNL_CTX_CTL] s t) ∧
  -- R405: a host's write of the tail word is a write of its line in the plain region.
  (∀ (s : State) (host : HostId) (ctx : Fin 256) (v : Word) (e o : Nat) (r : LineReq),
      gate s host.val (tailAddr s ctx.val) true = .ok → dpaPlace (dpaExtents s.cacheSf) (tailAddr s ctx.val) = .plain e o → r = { host := some host.val, line := tailAddr s ctx.val / 64, op := .write (lineImage (tailAddr s ctx.val) ((leBytes 8 v.toNat).map some)), started := false, awaits := [], cls := plainClass s host.val (tailAddr s ctx.val) true } → s.lineQ.all (fun x => x.line != tailAddr s ctx.val / 64) = true → snoopsFor s r = [] → evictionFor s r = [] → 
        exec (.descriptorTailWrite host ctx v) s = .next (s.wake.serve r)) ∧
  -- R405, R406: the next descriptor is taken: it joins those outstanding, TAKEN moves on, and its messages are sent.
  (∀ (s u : State) (ctx : Fin 256) (a : Nat) (d : RingDesc),
      takeReady s ctx.val = true → a = slotAddr s ctx.val (s.fld Fd.SNL_CTX_ST_TAKEN ctx.val) → u = s.wake → (u.coherentFor (ctxJob ctx.val) ((mapFind u.curLog (ctxJob ctx.val)).getD []) [(a, 64)] []).2 = true → d = descOfBytes (u.plainBytes a 64) (s.fld Fd.SNL_CTX_ST_TAKEN ctx.val) u.dtime → linePoison u (a / 64) = false → descOk u ctx.val d = true → rangeBacked u (u.hostOf (u.fld Fd.SNL_CTX_CTL_TENANT ctx.val)) d.laddr d.len = true → rangeDenied u (u.hostOf (u.fld Fd.SNL_CTX_CTL_TENANT ctx.val)) d.laddr d.len (d.op == 1) = none → (u.coherentJob (ctxJob ctx.val) ((a, 64) :: if d.op = 1 then [] else [(d.laddr, d.len)]) []).2 = true → (d.op != 1 && rangePoison u d.laddr d.len) = false → 
        exec (.descriptorTake ctx) s =
      .next (((u.coherentJob (ctxJob ctx.val) ((a, 64) :: if d.op = 1 then [] else [(d.laddr, d.len)]) []).1.addDesc ctx.val { d with left := partsOf d.len, res := none }).sendDesc ctx.val
        { d with left := partsOf d.len, res := none })) ∧
  -- R406: a descriptor with nothing left to confirm ends: word 3 of its slot holds DONE, its code and detail, and no other byte changes.
  (∀ (s : State) (ctx : Fin 256) (idx : BitVec 32) (d : RingDesc),
      ((s.rctxOf ctx.val).descs.find? fun d => d.idx == idx.toNat && d.left.isEmpty) = some d → (s.coherentJob (ctxJob (256 + ctx.val)) [] [(slotAddr s ctx.val idx.toNat + 24, 8)]).2 = true → 
        Completes (.descriptorDone ctx idx) s fun t =>
      t.plainBytes (slotAddr s ctx.val idx.toNat + 24) 8 = leBytes 8 (doneWord (d.res.getD (Cc.ok, 0)).1 (d.res.getD (Cc.ok, 0)).2).toNat ∧
      (∀ a, ¬ (slotAddr s ctx.val idx.toNat + 24 ≤ a ∧ a < slotAddr s ctx.val idx.toNat + 32) → t.plainMem.get a = s.plainMem.get a) ∧
      (t.rctxOf ctx.val).descs = (s.rctxOf ctx.val).descs.erase d)

/-- Ethernet port events, queue-pair actions, timers and completions complete with their effects. A port's link state is shown and its answers go out, a pause holds the port, a QP is read, written, activated, put in ERROR and reset, timers answer and retransmit, translations are invalidated, and completions are formed and written. -/
def Obligations.ShuttlePortAndQueuePairActionsComplete : Prop :=
  -- R486: the port shows its new state; a port that was UP and goes DOWN counts it.
  (∀ (s : State) (port : Fin 2) (st : Fin 3),
      Completes (.shuttlePortLink port st) s fun t => t.fld Fd.SHT_PORTST_STATE port.val = st.val ∧ ChangesOnly [.reg .SHT_PORTST] s t) ∧
  -- R487: an ARP request for the port's IPv4 address is answered with its MAC address.
  (∀ (s : State) (port : Fin 2) (target : BitVec 32),
      portOn s port.val = true → target.toNat = s.fld Fd.SHT_IP4_IP4 port.val → 
        exec (.arpRequest port target) s = .next (s.emit (.etherReply port.val 0 (leBytes 6 (s.fld Fd.SHT_MAC_MAC port.val))))) ∧
  -- R487: so is a Neighbour Discovery message for its IPv6 address.
  (∀ (s : State) (port : Fin 2) (target : Wide),
      portOn s port.val = true → target.toNat = portIp6 s port.val → 
        exec (.neighbourSolicitation port target) s = .next (s.emit (.etherReply port.val 1 (leBytes 6 (s.fld Fd.SHT_MAC_MAC port.val))))) ∧
  -- R487: an echo request to an address of the port is answered with its bytes.
  (∀ (s : State) (port : Fin 2) (v6 : Bool) (dst : Wide) (bs : List Byte),
      portOn s port.val = true → dst.toNat = (if v6 then portIp6 s port.val else s.fld Fd.SHT_IP4_IP4 port.val) → 
        exec (.icmpEchoRequest port v6 dst bs) s = .next (s.emit (.etherReply port.val 2 bs))) ∧
  -- R487: any other frame is dropped and counted.
  (∀ (s : State),
      Completes .otherReceivedFrame s fun t => t = s.addFld Fd.SHT_CNT2_DROPS 1 ∧ ChangesOnly [.reg .SHT_CNT2] s t) ∧
  -- R488: a pause of the port's class holds what it sends for so many quanta of 512 bit times, 0.64 ns each at 800 Gb/s.
  (∀ (s : State) (port : Fin 2) (en : BitVec 8) (quanta : List Nat),
      portOn s port.val = true → s.flag Fd.SHT_PORT_PFCRX port.val = true → bitAt en.toNat (s.fld Fd.SHT_PORT_PCP port.val) = true → 
        Completes (.pfcFrame port en quanta) s fun t =>
      mapFind t.pfcUntil port.val = some (s.dtime + ceilDiv (64 * quanta.getD (s.fld Fd.SHT_PORT_PCP port.val) 0) 100) ∧ ChangesOnly [.pfcUntil, .shOut, .out] s t) ∧
  -- R526: READ copies the context and the status into the registers.
  (∀ (s : State) (q : Fin 65536) (j : Nat),
      j < 8 → 
        Completes (.qpRead q) s fun t =>
      t.reg .SHT_QPC j = wordAt (s.qp q.val).ctx j ∧ t.reg .SHT_QPST0 0 = (qpStWords (s.qp q.val)).1 ∧ t.reg .SHT_QPST1 0 = (qpStWords (s.qp q.val)).2 ∧
      ChangesOnly [.reg .SHT_QPC, .reg .SHT_QPST0, .reg .SHT_QPST1, .reg .SHT_QPQ] s t) ∧
  -- R526: WRITE copies the registers into the context of a FREE QP.
  (∀ (s : State) (q : Fin 65536),
      (s.qp q.val).st = qpFree → 
        Completes (.qpWrite q) s fun t => (t.qp q.val).ctx = (List.range 8).map (fun i => s.reg .SHT_QPC i) ∧ ChangesOnly [.qps, .reg .SHT_QPQ] s t) ∧
  -- R494, R495: ACTIVATE makes a QP READY at its initial PSNs, with nothing in progress.
  (∀ (s : State) (q : Fin 65536),
      activateError s q.val = 0 → 
        Completes (.qpActivate q) s fun t =>
      t.qp q.val = { Qp.fresh (s.qp q.val).ctx with st := qpReady, snxt := (s.qp q.val).cf 1 55 32, cpsn := (s.qp q.val).cf 2 23 0 } ∧
      ChangesOnly [.qps, .reg .SHT_QPQ] s t) ∧
  -- R512: the ERROR action takes a READY QP through the error entry.
  (∀ (s : State) (q : Fin 65536),
      (s.qp q.val).st = qpReady → 
        exec (.qpError q) s = .next ((s.qpFail q.val stFlushed none).qpq q.val 0)) ∧
  -- R494: RESET makes a QP in ERROR FREE; it keeps its context.
  (∀ (s : State) (q : Fin 65536),
      (s.qp q.val).st = qpError → 
        Completes (.qpReset q) s fun t => t.qp q.val = Qp.fresh (s.qp q.val).ctx ∧ ChangesOnly [.qps, .reg .SHT_QPQ] s t) ∧
  -- R496: a write of a control word of a READY QP is a write of its line in the plain region.
  (∀ (s : State) (host : HostId) (q : Fin 65536) (word : Fin 3) (v : Word) (e o : Nat) (r : LineReq),
      (s.qp q.val).st = qpReady → gate s host.val ((s.qp q.val).base 7 + 8 * word.val) true = .ok → dpaPlace (dpaExtents s.cacheSf) ((s.qp q.val).base 7 + 8 * word.val) = .plain e o → r = { host := some host.val, line := ((s.qp q.val).base 7 + 8 * word.val) / 64, op := .write (lineImage ((s.qp q.val).base 7 + 8 * word.val) ((leBytes 8 v.toNat).map some)), started := false, awaits := [], cls := plainClass s host.val ((s.qp q.val).base 7 + 8 * word.val) true } → s.lineQ.all (fun x => x.line != ((s.qp q.val).base 7 + 8 * word.val) / 64) = true → snoopsFor s r = [] → evictionFor s r = [] → 
        exec (.qpControlWrite host q word v) s = .next (s.wake.serve r)) ∧
  -- R508: an unanswered request packet is answered with an ACK of the last one received.
  (∀ (s : State) (q : Fin 65536),
      (s.qp q.val).st = qpReady → 0 < (s.qp q.val).unanswered → 
        exec (.ackTimer q) s = .next (s.shAck q.val (s.qp q.val).lastRx)) ∧
  -- R509: the timer sends every unacknowledged packet again, in order, and counts one retry.
  (∀ (s : State) (q : Fin 65536),
      (s.qp q.val).st = qpReady → (s.qp q.val).sent ≠ [] → (s.qp q.val).stalled = false → shQuiet s = false → (s.qp q.val).retry < 7 → 
        exec (.retxTimeout q) s =
      .next ((s.qp q.val).sent.foldl (fun s e => s.resend q.val e) (s.setQp q.val { s.qp q.val with retry := (s.qp q.val).retry + 1 }))) ∧
  -- R510: RNRUS after a NAK RNR the packet is sent again.
  (∀ (s : State) (q : Fin 65536) (psn : Fin 16777216) (e : QpSent),
      ((s.qp q.val).sent.find? fun e => e.pkt.psn == psn.val && e.waiting) = some e → (s.qp q.val).st = qpReady → (s.qp q.val).stalled = false → shQuiet s = false → 
        exec (.rnrRetryTimer q psn) s = .next (s.resend q.val e)) ∧
  -- R520: 32 µs after a NAK FAULT it is sent again.
  (∀ (s : State) (q : Fin 65536) (psn : Fin 16777216) (e : QpSent),
      ((s.qp q.val).sent.find? fun e => e.pkt.psn == psn.val && e.waiting) = some e → (s.qp q.val).st = qpReady → (s.qp q.val).stalled = false → shQuiet s = false → 
        exec (.faultRetryTimer q psn) s = .next (s.resend q.val e)) ∧
  -- R520: a packet whose translation has not come is dropped and answered with NAK FAULT, up to the 64th.
  (∀ (s : State) (q : Fin 65536) (psn : Fin 16777216) (p : ShPkt),
      ((s.qp q.val).held.find? fun p => p.psn == psn.val && p.typ == 1) = some p → (s.qp q.val).ats = true → (s.qp q.val).st = qpReady → (mapFind (s.qp q.val).faultNaks psn.val).getD 0 < 63 → 
        exec (.placementFaultTimeout q psn) s =
      .next (((s.setQp q.val { s.qp q.val with faultNaks := mapIns psn.val ((mapFind (s.qp q.val).faultNaks psn.val).getD 0 + 1) (s.qp q.val).faultNaks }).shUnhold q.val psn.val).shNak q.val psn.val 2)) ∧
  -- R519: the answer to a stalled sender's page request starts its last work request again.
  (∀ (s : State) (q : Fin 65536) (hm : HostMem) (w : QpWr),
      (s.qp q.val).st = qpReady → (s.qp q.val).stalled = true → (s.qp q.val).wrs.getLast? = some w → 
        exec (.pageRequestResponse q false true hm) s =
      .next (((s.setQp q.val { s.qp q.val with stalled := false, wrs := (s.qp q.val).wrs.dropLast }).wrStart q.val w hm false).qpGo q.val)) ∧
  -- R518: an invalidation drops the translations of its pages and is answered.
  (∀ (s : State) (host : HostId) (pasid : BitVec 20) (first n : Nat),
      Completes (.atsInvalidation host pasid first n) s fun t =>
      (∀ e ∈ t.atsCache, ¬ (e.1 = host.val ∧ e.2.1 = pasid.toNat ∧ first ≤ e.2.2 ∧ e.2.2 < first + n)) ∧ t.out = s.out ++ [.atsDone host.val] ∧
      ChangesOnly [.atsCache, .out] s t) ∧
  -- R505: every byte of a message is placed: its receive completion waits for the CQ, and the acknowledgements that waited for its placing go out.
  (∀ (s : State) (q : Fin 65536) (msn : Fin 16777216) (r : QpRecv),
      ((s.qp q.val).recvs.find? fun r => r.msn == msn.val) = some r → (s.qp q.val).st = qpReady → r.got.length = max 1 (ceilDiv r.tlen (s.qp q.val).mtu) → r.kind = 0 → 
        exec (.receiveComplete q msn) s =
      .next (((s.setQp q.val { s.qp q.val with recvs := (s.qp q.val).recvs.erase r }).recvDone q.val msn.val r.wrid stOk r.tlen).flushAnswers q.val)) ∧
  -- R499: the oldest completion is written into the next entry of the CQ, and its tail moves on.
  (∀ (s : State) (q : Fin 65536) (c : QpComp) (rest : List QpComp),
      (s.qp q.val).comps = c :: rest → (s.qp q.val).st = qpReady → idxSub (s.qp q.val).cqTail (ctrlWord s (s.qp q.val) 2) < (s.qp q.val).slots 7 → 
        exec (.cqEntryWrite q) s =
      .next ((s.engineWrite ((s.qp q.val).base 7 + 64 + 32 * ((s.qp q.val).cqTail % (s.qp q.val).slots 7)) (bytesOf (cqEntry (s.qp q.val) q.val c s.dtime))).setQp q.val
        { s.qp q.val with comps := rest, cqTail := ((s.qp q.val).cqTail + 1) % 2 ^ 32 }))

/-- Work requests that are taken and packets that are accepted complete with their effects. A work request that may be taken, is valid and has its source at hand sends its packets, a NOP completes, and one that waited starts. A packet that is accepted as fresh is placed, written or executed and counted as received; an answer ends what it answers. -/
def Obligations.WorkRequestsAndPacketsComplete : Prop :=
  -- R500: SEND takes the next message number and sends its packets.
  (∀ (s v u : State) (q : Fin 65536) (w : QpWr) (hm : HostMem) (fault : Bool) (bs : List Byte),
      WrTaken s q.val w v → w.op = 1 → wrValid (v.qp q.val) w = true → v.wrSource q.val w hm fault = (u, .data bs) → 
        exec (.wrSend q hm fault) s =
      .next ((u.setQp q.val { u.qp q.val with msn := ((u.qp q.val).msn + 1) % psnMod }).launch q.val w ((u.qp q.val).split q.val 1 (u.qp q.val).msn 0 bs))) ∧
  -- R501: PUT sends its bytes to the remote address.
  (∀ (s v u : State) (q : Fin 65536) (w : QpWr) (hm : HostMem) (fault : Bool) (bs : List Byte),
      WrTaken s q.val w v → w.op = 2 → wrValid (v.qp q.val) w = true → v.wrSource q.val w hm fault = (u, .data bs) → 
        exec (.wrPut q hm fault) s = .next (u.launch q.val w ((u.qp q.val).split q.val 2 0 w.raddr bs))) ∧
  -- R502: COMPARE-SWAP sends its two operands.
  (∀ (s v : State) (q : Fin 65536) (w : QpWr),
      WrTaken s q.val w v → w.op = 3 → wrValid (v.qp q.val) w = true → 
        exec (.wrCompareSwap q) s =
      .next ((v.setQp q.val { v.qp q.val with nsn := ((v.qp q.val).nsn + 1) % 65536 }).launch q.val { w with nsn := some (v.qp q.val).nsn }
        [{ (v.qp q.val).packet q.val 3 0 with seq := (v.qp q.val).nsn, raddr := w.raddr, op := 1, rtype := 0, payload := leBytes 8 w.opnd0 ++ leBytes 8 w.opnd1 }])) ∧
  -- R502: FETCH-ADD sends its addend.
  (∀ (s v : State) (q : Fin 65536) (w : QpWr),
      WrTaken s q.val w v → w.op = 4 → wrValid (v.qp q.val) w = true → 
        exec (.wrFetchAdd q) s =
      .next ((v.setQp q.val { v.qp q.val with nsn := ((v.qp q.val).nsn + 1) % 65536 }).launch q.val { w with nsn := some (v.qp q.val).nsn }
        [{ (v.qp q.val).packet q.val 3 0 with seq := (v.qp q.val).nsn, raddr := w.raddr, op := 2, rtype := 0, payload := leBytes 8 w.opnd0 }])) ∧
  -- R502: REDUCE sends its elements.
  (∀ (s v u : State) (q : Fin 65536) (w : QpWr) (hm : HostMem) (fault : Bool) (bs : List Byte),
      WrTaken s q.val w v → w.op = 5 → wrValid (v.qp q.val) w = true → v.wrSource q.val w hm fault = (u, .data bs) → 
        exec (.wrReduce q hm fault) s =
      .next ((u.setQp q.val { u.qp q.val with nsn := ((u.qp q.val).nsn + 1) % 65536 }).launch q.val { w with nsn := some (u.qp q.val).nsn }
        [{ (u.qp q.val).packet q.val 3 0 with seq := (u.qp q.val).nsn, raddr := w.raddr, op := 3, rtype := w.rtype, payload := bs }])) ∧
  -- R503: FLUSH sends one packet.
  (∀ (s v : State) (q : Fin 65536) (w : QpWr),
      WrTaken s q.val w v → w.op = 6 → wrValid (v.qp q.val) w = true → 
        exec (.wrFlush q) s = .next (v.launch q.val w [(v.qp q.val).packet q.val 5 0])) ∧
  -- R497: NOP completes OK and sends nothing.
  (∀ (s v : State) (q : Fin 65536) (w : QpWr),
      WrTaken s q.val w v → w.op = 7 → wrValid (v.qp q.val) w = true → 
        exec (.wrNop q) s = .next (v.sendDone q.val w stOk 0)) ∧
  -- R521: a work request whose completions have come starts.
  (∀ (s : State) (q : Fin 65536) (w : QpWr) (hm : HostMem) (fault : Bool) (src : List (Nat × Nat)),
      ((s.qp q.val).wrs.find? fun w => w.waits.isSome) = some w → (s.qp q.val).st = qpReady → shQuiet s = false → waitMet s w = true → src = (if rangeBacked s ((s.qp q.val).host s) w.laddr (max 1 w.len) then wrLines w else []) → (s.coherentJob (shJob q.val) src []).2 = true → 
        exec (.wrWaitSatisfied q hm fault) s =
      .next (((s.coherentJob (shJob q.val) src []).1.setQp q.val { s.qp q.val with wrs := (s.qp q.val).wrs.filter fun y => y.waits.isNone }).wrStart q.val
        { w with waits := none } hm fault)) ∧
  -- R517: a fresh SEND packet whose entry is a plain range is placed there and received.
  (∀ (s u v : State) (port : Fin 2) (src : Wide) (udp : ShWire) (fault : Bool) (p d : ShPkt) (r : QpRecv),
      FreshPacket s port src udp { p with typ := 1 } u d → (u.coherentJob (rxJob d.dqpn) [((u.qp d.dqpn).base 6 + 32 * (d.seq % (u.qp d.dqpn).slots 6), 32)] []).2 = true → (u.coherentJob (rxJob d.dqpn) [((u.qp d.dqpn).base 6 + 32 * (d.seq % (u.qp d.dqpn).slots 6), 32)] []).1.bindRecv d.dqpn d = (v, some r) → r.kind = 1 → 
        exec (.shuttleSend port src udp p fault) s = .next ((v.placeSend d.dqpn d r).flushAnswers d.dqpn)) ∧
  -- R501: the bytes of a fresh PUT packet that its QP may write are written, and it is received.
  (∀ (s u : State) (port : Fin 2) (src : Wide) (udp : ShWire) (p d : ShPkt),
      FreshPacket s port src udp { p with typ := 2 } u d → (u.shTarget d.dqpn d.raddr (max 1 d.payload.length) false true).2 = true → 
        exec (.shuttlePut port src udp p) s = .next (((u.engineWrite d.raddr d.payload).accept d.dqpn d.psn).flushAnswers d.dqpn)) ∧
  -- R502: a fresh FETCH-ADD adds once to its 8 bytes, and the value that they held is the answer.
  (∀ (s u : State) (port : Fin 2) (src : Wide) (udp : ShWire) (p d : ShPkt) (old new : Nat),
      FreshPacket s port src udp { p with typ := 3 } u d → nmoOk d = true → d.op = 2 → (u.shTarget d.dqpn d.raddr 8 true true).2 = true → (u.coherentJob (rxJob d.dqpn) [] [(d.raddr, 8)]).2 = true → rangePoison u d.raddr 8 = false → old = ofLE (u.plainBytes d.raddr 8) → new = (old + ofLE (d.payload.take 8)) % 2 ^ 64 → new ≠ old → 
        exec (.nmoReq port src udp p) s =
      .next ((((u.coherentJob (rxJob d.dqpn) [] [(d.raddr, 8)]).1.plainPut d.raddr (leBytes 8 new)).nmoAnswer d.dqpn d old 0).flushAnswers d.dqpn)) ∧
  -- R503: a fresh FLUSH_REQ is received and answered once its condition holds.
  (∀ (s u : State) (port : Fin 2) (src : Wide) (udp : ShWire) (p : ShPkt),
      (s.shReceive port.val src.toNat udp { p with typ := 5 }).2 = true → psnPlace (s.wake.qp p.dqpn) p.psn = .fresh → u = s.wake.addFld Fd.SHT_CNT0_RXPKT 1 → 
        exec (.flushReq port src udp p) s =
      .next (((u.setQp p.dqpn { u.qp p.dqpn with flushes := (u.qp p.dqpn).flushes.filter (· != p.psn) ++ [p.psn] }).accept p.dqpn p.psn).flushAnswers p.dqpn)) ∧
  -- R508: an ACK acknowledges what it covers.
  (∀ (s : State) (port : Fin 2) (src : Wide) (udp : ShWire) (p : ShPkt),
      (s.shReceive port.val src.toNat udp { p with typ := 7 }).2 = true → 
        exec (.shuttleAck port src udp p) s = .next ((s.wake.addFld Fd.SHT_CNT0_RXPKT 1).acked p.dqpn p.seq p.sack none)) ∧
  -- R504: an OK response of a near-memory request ends its work request with the value it brings.
  (∀ (s u : State) (port : Fin 2) (src : Wide) (udp : ShWire) (p d : ShPkt) (w : QpWr),
      (s.shReceive port.val src.toNat udp { p with typ := 4 }).2 = true → d = s.wake.unseal { p with typ := 4 } → u = s.wake.addFld Fd.SHT_CNT0_RXPKT 1 → (ownerWr (u.qp d.dqpn) d.psn).filter (fun w => w.nsn.isSome) = some w → d.code = 0 → 
        exec (.nmoResp port src udp p) s =
      .next (((((u.acked d.dqpn d.seq d.sack (some d.psn)).dropWr d.dqpn w).sendDone d.dqpn w stOk (if w.op = 3 ∨ w.op = 4 then ofLE d.payload else 0)).qpGo d.dqpn).gwsGo d.dqpn)) ∧
  -- R503: so does the response of a FLUSH.
  (∀ (s u : State) (port : Fin 2) (src : Wide) (udp : ShWire) (p : ShPkt) (w : QpWr),
      (s.shReceive port.val src.toNat udp { p with typ := 6 }).2 = true → u = s.wake.addFld Fd.SHT_CNT0_RXPKT 1 → (ownerWr (u.qp p.dqpn) p.psn).filter (fun w => w.op == 6) = some w → p.code = 0 → 
        exec (.flushResp port src udp p) s =
      .next (((((u.acked p.dqpn p.seq p.sack (some p.psn)).dropWr p.dqpn w).sendDone p.dqpn w stOk (if w.op = 3 ∨ w.op = 4 then ofLE p.payload else 0)).qpGo p.dqpn).gwsGo p.dqpn)) ∧
  -- R510: a NAK RNR below the limit leaves its packet waiting for its timer.
  (∀ (s u : State) (port : Fin 2) (src : Wide) (udp : ShWire) (p : ShPkt) (e : QpSent),
      (s.shReceive port.val src.toNat udp { p with typ := 8 }).2 = true → u = (s.wake.addFld Fd.SHT_CNT0_RXPKT 1).acked p.dqpn p.seq p.sack none → ((u.qp p.dqpn).sent.find? fun e => e.pkt.psn == p.psn) = some e → p.code = 1 → (u.qp p.dqpn).cf 0 36 34 = 7 → 
        exec (.shuttleNak port src udp p) s = .next (u.updSent p.dqpn p.psn fun e => { e with rnr := e.rnr + 1, waiting := true }))

/-- Flash operations, the journal, collection, erases, retirement and temperatures complete with their effects. An ended program marks its image, the journal's records become durable, the buffer target and the collection step are taken anew, collection takes a victim, images move and fold, a unit is erased or retired, a failed target leaves service, and temperatures are read and trained for. -/
def Obligations.FlashTierEventsComplete : Prop :=
  -- R533, R544, R561: an image whose program has ended, no staging read in progress on its LUNs, is programmed, and its targets have answered.
  (∀ (s : State) (h layer k : Nat) (x : FlashImage),
      s.imageOf h layer = some (k, x) → readsAhead s x.places = false → 
        Completes (.flashOpComplete (.programmed h layer)) s fun t => mapFind t.images k = some { x with progd := true } ∧ ChangesOnly [.images, .flash] s t) ∧
  -- R561: the first operation of a target that times out is counted, and remembered against it.
  (∀ (s : State) (ch ce : Nat) (g : FlashGeo),
      s.flash = some g → (g.targets.any fun t => t.ch == ch && t.ce == ce && t.inService) = true → (g.targets.any fun t => t.ch == ch && t.ce == ce && t.inService && t.late) = false → 
        exec (.flashOpComplete (.timeout ch ce)) s =
      .next (({ s with flash := some (g.noteLate (fun t => t.ch == ch && t.ce == ce && t.inService) true) } : State).addFld Fd.FLT_ERR1_TIMEOUT 1)) ∧
  -- R561: the second in a row takes the target out of service.
  (∀ (s : State) (ch ce : Nat) (g : FlashGeo),
      s.flash = some g → (g.targets.any fun t => t.ch == ch && t.ce == ce && t.inService && t.late) = true → 
        exec (.flashOpComplete (.timeout ch ce)) s =
      .next (opTargetFailed ch ce (({ s with flash := some (g.noteLate (fun t => t.ch == ch && t.ce == ce && t.inService) true) } : State).addFld Fd.FLT_ERR1_TIMEOUT 1))) ∧
  -- R544: the waiting records are durable, and the ring's unit holds those of the holders whose chunks they make durable.
  (∀ (s : State) (g : FlashGeo),
      s.power.stage = .up → s.flash = some g → 
        exec (.journalFlush false) s =
      .next (((s.setUnit s.journalUnit ((newHolders s).foldl (fun x hd => EraseUnit.hold x hd) (s.unit s.journalUnit))).flushJournal).fltSync)) ∧
  -- R546: a checkpoint of the map is taken now.
  (∀ (s : State) (now : Nat),
      Completes (.mapCheckpoint now) s fun t => t.checkpointAt = t.dtime ∧ ChangesOnly [.checkpointAt, .dtime] s t) ∧
  -- R541: the target follows flash use.
  (∀ (s : State) (g : FlashGeo),
      s.flash = some g → 
        Completes .slcTargetRecompute s fun t =>
      t.slcTarget = slcTargetUnits g (flashUsePct s) ∧ t.fld Fd.FLT_SPACE_SLCPM = slcTargetPm (flashUsePct s) ∧ ChangesOnly [.slcTarget, .reg .FLT_SPACE] s t) ∧
  -- R551: the step of a running foreground collection follows free space.
  (∀ (s : State),
      s.fld Fd.FLT_SPACE_GC = 2 → freePm s < 40 → 
        Completes .gcStepRecompute s fun t => t.fld Fd.FLT_SPACE_STEP = throttleStep (freePm s) ∧ ChangesOnly [.victims, .reg .FLT_SPACE] s t) ∧
  -- R549, R550: below 30 per mille free, foreground collection takes its next victim.
  (∀ (s : State) (channel : Fin 32) (idle u : Nat) (g : FlashGeo),
      s.flash = some g → mediaReady s = true → freePm s < 30 → nextVictim s g = some u → 
        Completes (.gcStart channel idle) s fun t => t.victims = s.victims ++ [u] ∧ t.fld Fd.FLT_SPACE_GC = 2 ∧ ChangesOnly [.victims, .reg .FLT_SPACE] s t) ∧
  -- R554: an image of a unit that is being emptied is copied, its MOVE durable, and emptied units wait for erase.
  (∀ (s u : State) (handle : Fin 16777216) (layer : Fin 128) (c : Chunk) (p : Page) (k : Nat) (x : FlashImage) (places : List Place),
      s.pageOf handle.val layer.val = some (c, p) → s.imageOf handle.val layer.val = some (k, x) → moveRuns s handle.val x = true → mustMove s x = true → x.durable = true → s.placeImage (handle.val % 8) 2 c.charge (imageCodewords x) = some (u, places) → 
        exec (.imageMove handle layer true) s =
      .next ((((({ u with images := mapIns k { x with places } u.images } : State).countCopied (imageCodewords x)).markPending)).fltSync)) ∧
  -- R542: so is an image of the SLC buffer that is folded.
  (∀ (s u : State) (handle : Fin 16777216) (layer : Fin 128) (c : Chunk) (p : Page) (k : Nat) (x : FlashImage) (places : List Place),
      s.pageOf handle.val layer.val = some (c, p) → s.imageOf handle.val layer.val = some (k, x) → moveRuns s handle.val x = true → (x.places.any fun p => (s.unit p.unit).slc) = true → x.durable = true → s.placeImage (handle.val % 8) 2 c.charge (imageCodewords x) = some (u, places) → 
        exec (.fold handle layer true) s =
      .next ((((({ u with images := mapIns k { x with places } u.images } : State).countCopied (imageCodewords x)).markPending)).fltSync)) ∧
  -- R533, R554: a unit that waits for erase, no staging read in progress on its LUN, is erased, counts one more erase, and leaves every list.
  (∀ (s : State) (u : Nat) (g : FlashGeo),
      s.flash = some g → (s.unit u).retired = false → (s.unit u).failed = false → (s.unit u).pend = true → readsAhead s [{ unit := u, cw := 0, pos := 0 }] = false → 
        Completes (.unitErase u true) s fun t =>
      t.unit u = { EraseUnit.fresh with ec := (s.unit u).ec + 1, promoted := (s.unit u).promoted } ∧ t.victims = s.victims.erase u ∧
      t.eraseLists = mapVals (fun _ l => l.erase u) s.eraseLists) ∧
  -- R547, R548: a failed unit that is on no erase list is retired, and a spare replaces it.
  (∀ (s : State) (u : Nat) (g : FlashGeo),
      s.flash = some g → (s.unit u).failed = true → (s.unit u).retired = false → (s.eraseLists.any fun e => e.2.contains u) = false → 
        exec (.unitRetire u) s = .next (((s.setUnit u { s.unit u with retired := true, opened := none, pend := false }).replaceUnit g u).fltSync)) ∧
  -- R561: a failed target is out of service.
  (∀ (s : State) (channel : Fin 32) (ce : Fin 8) (g : FlashGeo),
      s.flash = some g → (g.targets.any fun t => t.ch == channel.val && t.ce == ce.val && t.inService) = true → 
        Completes (.targetFailed channel ce) s fun t => ∃ g', t.flash = some g' ∧ ∀ x ∈ g'.targets, x.ch = channel.val → x.ce = ce.val → x.inService = false) ∧
  -- R565: the temperatures are read, and a minute of the hottest target is counted.
  (∀ (s : State) (temps : List (Nat × Nat × Int)) (g : FlashGeo),
      s.flash = some g → 
        Completes (.flashTempPoll temps) s fun t => ∃ g', t.flash = some g' ∧ g'.targets.length = g.targets.length ∧
      ∀ (i : Nat) (x : FlashTarget) (y : Nat × Nat × Int), g.targets[i]? = some x → (temps.find? fun (a : Nat × Nat × Int) => a.1 == x.ch && a.2.1 == x.ce) = some y → ∃ z : FlashTarget, g'.targets[i]? = some z ∧ z.temp = y.2.2) ∧
  -- R530: a target whose temperature has moved 10 °C since its last training is trained at its temperature.
  (∀ (s : State) (channel : Fin 32) (ce : Fin 8) (g : FlashGeo) (i : Nat) (x : FlashTarget),
      s.flash = some g → g.targets[i]? = some x → x.ch = channel.val → x.ce = ce.val → x.inService = true → 10 ≤ (x.temp - x.trained).natAbs → 
        Completes (.flashRetrain channel ce) s fun t =>
      (∃ g', t.flash = some g' ∧ g'.targets[i]? = some { x with trained := x.temp }) ∧ ChangesOnly [.flash] s t)

/-- Scrub, lost stacks, the rebuild, self-test, retired cores, heartbeats and the capsule complete with their effects. Scrub treats the row as it found it, a stack is lost, tested or retired, the rebuild passes its phases, cores retire, a steward's heartbeats are counted and its reset waited for, and the capsule takes and answers snapshots. That a stack under self-test which is lost by any cause begins a rebuild, and that scrub's finding is an operand, are readings of the log. -/
def Obligations.RasEventsComplete : Prop :=
  -- R580: scrub reads a row outside STANDBY, treats it as R577 to R585 say, and at the end of a pass counts it and its minutes.
  (∀ (s : State) (row : ScrubRow) (now : Nat),
      mediaReady s = true → s.fld Fd.PWR_STATUS_PSTATE ≠ 2 → stackGone s row.stack = false → (rowStacks s).contains row.stack = true → 
        exec (.scrubRow row now) s = .next (match row.passMin with
      | some m => (((s.at_ now).scrubResult row).addFld Fd.RAS_SCRUB_PASSES 1).setFld Fd.RAS_SCRUB_LASTMIN (min m (2 ^ 32 - 1))
      | none => (s.at_ now).scrubResult row)) ∧
  -- R578: a corrected error is counted against its stack, and nothing else changes.
  (∀ (s : State) (row : ScrubRow),
      row.result = .corrected → 
        s.scrubResult row = s.addFld Fd.RAS_HBM_CORR 1 row.stack) ∧
  -- R583, R587: a stack in service is lost: the part is DEGRADED and the rebuild is freeing space.
  (∀ (s : State) (stack : Fin 12) (cause : Fin 6),
      stackLost s stack.val = false → s.fld Fd.RAS_HBM_STATE stack.val = 0 → s.fld Fd.RAS_STATUS_STATE < 2 → 
        Completes (.stackLost stack cause) s fun t =>
      t = (((s.markLost stack.val (cause.val + 1)).setPart 2).recovSync).beginRebuild stack.val ∧ t.rebuildAt = t.dtime ∧ t.rebuildWarned = false) ∧
  -- R587: once the top of the data space is empty, copying begins.
  (∀ (s : State),
      s.fld Fd.RAS_REBUILD_PHASE = 1 → s.fld Fd.RAS_STATUS_STATE = 2 → topEmpty s = true → 
        Completes .rebuildCopyStart s fun t => t.fld Fd.RAS_REBUILD_PHASE = 2 ∧ ChangesOnly [.reg .RAS_REBUILD] s t) ∧
  -- R601: a rebuild that has been freeing for more than 60 s writes event 0x0105, once.
  (∀ (s : State) (now : Nat),
      s.fld Fd.RAS_REBUILD_PHASE = 1 → s.rebuildWarned = false → s.rebuildAt + 60000000000 < (s.at_ now).dtime → 
        Completes (.rebuildWaitingForSpace now) s fun t => t.rebuildWarned = true ∧
      t = ({ s.at_ now with rebuildWarned := true } : State).rasEvent 0x0105 none (some (s.fld Fd.RAS_REBUILD_STACK)) 0 0) ∧
  -- R586, R589: at the end of copying the rebuilt layout is in force: one stack fewer in a row, and the cache superframes that are left.
  (∀ (s : State),
      s.fld Fd.RAS_REBUILD_PHASE = 2 → s.fld Fd.RAS_STATUS_STATE = 2 → 
        Completes .rebuildComplete s fun t => t.rowN = s.rowN - 1 ∧ t.cacheSf = rebuiltSf s ∧ t.geoGen = (s.geoGen + 1) % 2 ^ 32) ∧
  -- R591: SELFTEST takes the named stack out of service for its test, and the part is DEGRADED meanwhile.
  (∀ (s : State) (value : Word),
      (s.writeRasCtl value).fld Fd.RAS_STATUS_STATE < 2 → (s.writeRasCtl value).flag Fd.RAS_STATUS_REBUILD = false → (s.writeRasCtl value).flag Fd.RAS_STATUS_SELFTEST = false → namedStack (s.writeRasCtl value) = true → 
        Completes (.selftest value) s fun t =>
      t.preTest = (s.writeRasCtl value).fld Fd.RAS_STATUS_STATE ∧ t.fld Fd.RAS_STATUS_STATE = 2 ∧
      t.fld Fd.RAS_HBM_STATE ((s.writeRasCtl value).fld Fd.RAS_CTL_STACK) = 1) ∧
  -- R591: a self-test that passes puts the stack back in service and writes event 0x010D; one that fails has the stack lost.
  (∀ (s : State) (st : Nat),
      testedStack s = some st → partFailed s = false → 
        exec (.selftestDone true) s = .next ((((((((s.setFld Fd.RAS_STATUS_SELFTEST 0).setFld Fd.RAS_HBM_STATE 0 st).setFld Fd.RAS_STATUS_INSVC
        (((s.setFld Fd.RAS_STATUS_SELFTEST 0).setFld Fd.RAS_HBM_STATE 0 st).fld Fd.RAS_STATUS_INSVC + 1)).setFld Fd.PGT_RECOV_SELFTEST 0).setPart s.preTest)).recovSync).rasEventAt 0 0x010D none (some st) 0 0) ∧
    exec (.selftestDone false) s = .next ((s.rasEventAt 2 0x010D none (some st) 0 0).loseStack st 5)) ∧
  -- R583: RETIRE_STACK of a stack in service loses it by cause 6.
  (∀ (s : State) (value : Word),
      namedStack (s.writeRasCtl value) = true → 
        exec (.retireStack value) s = .next (((s.writeRasCtl value).setFld Fd.RAS_CTL_ERR 0).loseStack ((s.writeRasCtl value).fld Fd.RAS_CTL_STACK) 6)) ∧
  -- R593: RETIRE_CORE of a core that works retires it by cause 4.
  (∀ (s : State) (value : Word),
      ((s.writeRasCtl value).core ((s.writeRasCtl value).fld Fd.RAS_CTL_CORE)).good = true → 
        exec (.retireCore value) s = .next (((s.writeRasCtl value).setFld Fd.RAS_CTL_ERR 0).retireCore ((s.writeRasCtl value).fld Fd.RAS_CTL_CORE) 4)) ∧
  -- R593, R594: a core that works and no panel has retires: it is marked in RAS_CORERET and serves no more.
  (∀ (s : State) (core : Fin 256) (cause : Fin 2),
      (s.core core.val).good = true → (s.core core.val).panel = none → 
        Completes (.coreRetire core cause) s fun t => (t.core core.val).good = false ∧ bitAt (t.reg .RAS_CORERET (core.val / 64)).toNat (core.val % 64) = true ∧ t.geoGen = (s.geoGen + 1) % 2 ^ 32) ∧
  -- R593: so does one whose known-answer tile was wrong, by cause 3; a right one changes nothing.
  (∀ (s : State) (core : Fin 256),
      exec (.knownAnswerTest core true) s = .next s ∧ exec (.knownAnswerTest core false) s = .next (s.retireCore core.val 3)) ∧
  -- R39: a heartbeat that came clears the misses; one that was missed counts; the fourth in a row resets the steward.
  (∀ (s : State) (st : Fin 8) (now : Nat),
      (s.steward st.val).down = false → 
        exec (.stewardHeartbeat st true now) s = .next ((s.at_ now).setSteward st.val { s.steward st.val with missed := 0 }) ∧
    exec (.stewardHeartbeat st false now) s = .next (if (s.steward st.val).missed + 1 < 4
      then (s.at_ now).setSteward st.val { s.steward st.val with missed := (s.steward st.val).missed + 1 } else (s.at_ now).resetSteward st.val)) ∧
  -- R39: a steward that was reset serves again.
  (∀ (s : State) (st : Fin 8),
      (s.steward st.val).down = true → 
        Completes (.stewardRecovered st) s fun t => (t.steward st.val).down = false ∧ (t.steward st.val).missed = 0 ∧ ChangesOnly [.stewards] s t) ∧
  -- R602: a snapshot joins the last 64.
  (∀ (s : State) (now : Nat),
      Completes (.capsuleSnapshot now) s fun t => ∃ x, t.capSnaps = lastN 64 (s.capSnaps ++ [x]) ∧ x.dtime = t.dtime ∧ x.rasStatus = s.reg .RAS_STATUS 0 ∧ ChangesOnly [.capSnaps, .dtime] s t) ∧
  -- R605: a piece of the capsule is answered as stored.
  (∀ (s : State) (fn : Fin 17) (n : Fin 256),
      mbRefusal s fn.val true true false = none → 
        exec (.capsuleReadPiece fn n) s = .next (s.reply 0xC018 mbOk (wordsOf (capsulePiece s n.val)))) ∧
  -- R605: SUMMARY answers the newest record, the counts, RAS_STATUS and RAS_REPL, and the return key's identity.
  (∀ (s : State) (fn : Fin 17),
      mbRefusal s fn.val true true false = none → 
        ∃ p : List Word, exec (.capsuleReadSummary fn) s = .next (s.reply 0xC018 mbOk p) ∧ p.getD 3 0 = s.reg .RAS_STATUS 0 ∧ p.getD 4 0 = s.reg .RAS_REPL 0 ∧
      bitsOf (p.getD 0 0) 15 0 = s.capRecs.length % 65536)

/-- SPDM requests, stream keys, TDISP requests and the requests of R629 complete with their effects. Digests, signed measurements and sessions are answered, stream keys are installed, interfaces are locked and started, and a tenant's key, its seal, queue-pair and group keys are delivered in a session as R629 to R633 say. The order of the results of R631 where several conditions fail is the model's (log). -/
def Obligations.KeysAndSessionsComplete : Prop :=
  -- R620: the digests of both chains are answered.
  (∀ (s : State) (fn : Fin 18),
      exec (.spdmRequest fn .digests) s = .next (s.spdm fn.val (sha384 (certChain s 0) ++ sha384 (certChain s 1)))) ∧
  -- R473, R440: DOE Discovery answers the protocol of an index and the next index, on a DOE mailbox.
  (∀ (s : State) (fn : Fin 18) (i : Nat),
      fn.val ≠ mctpFn → 
        Completes (.spdmRequest fn (.doeDiscovery i)) s fun t =>
      t.out = s.out ++ [.doe fn.val (([.discovery, .spdm, .secured, .cdat] : List DoeProto)[i]?) (if i + 1 < 4 then i + 1 else 0)] ∧ ChangesOnly [.out] s t) ∧
  -- R620: a certificate chain is read, slot 0 or slot 1.
  (∀ (s : State) (fn : Fin 18) (slot : Nat),
      slot < 2 → 
        exec (.spdmRequest fn (.certificate slot)) s = .next (s.spdm fn.val (certChain s slot))) ∧
  -- R617, R618, R619: a chain holds the DeviceID certificate of its slot and one certificate of each layer that has been measured, signed under the layer below.
  (∀ (s : State) (slot : Nat),
      certChain s slot = s.deviceCerts.getD slot [] ++ (((layerCdis s).zip (layerCdis s).tail).zip s.measured).flatMap fun e => layerCert slot e.1.1 e.1.2 e.2) ∧
  -- R620, R622: a signed measurement is answered with a signature, and the hash of what was signed is kept for PQ_SIGN.
  (∀ (s : State) (fn : Fin 18) (i : Nat) (nonce : List Byte),
      i ≠ 0xFF → 
        Completes (.spdmRequest fn (.measurements i true nonce)) s fun t =>
      mapFind t.signed fn.val = some (sha384 (nonce ++ measurement s fn.val i)) ∧
      t.out = s.out ++ [.spdm fn.val (nonce ++ measurement s fn.val i ++ layerSign 0 (topCdi s) (sha384 (nonce ++ measurement s fn.val i)))] ∧ ChangesOnly [.signed, .out] s t) ∧
  -- R620: a session begins with the identity of its certificate chain.
  (∀ (s : State) (fn : Fin 18) (n : Nat) (m : Bool) (chain : List Byte),
      s.session n = none → 
        Completes (.spdmRequest fn (.keyExchange n m chain)) s fun t =>
      t.session n = some { fn := fn.val, mutualAuth := m, req := sha384 chain } ∧ ChangesOnly [.sessions, .out] s t) ∧
  -- R613, R471: a stream key goes into the key slot of the host's link; stream 0 turns CXL.cachemem IDE on.
  (∀ (s : State) (n stream key : Nat) (l : Fin 8) (x : Session),
      s.session n = some x → hostLink s (fnHost s x.fn) = some l.val → streamAllowed s (fnHost s x.fn) l.val stream = true → 
        Completes (.ideKmKeyProg n l stream key) s fun t => mapFind t.ideKeys (256 * l.val + stream) = some key ∧
      (stream = 0 → t.fld Fd.CXL_LINKST_IDE l.val = 1) ∧ ChangesOnly [.ideKeys, .out, .reg .CXL_LINKST] s t) ∧
  -- R472: LOCK_INTERFACE from CONFIG_UNLOCKED, and START_INTERFACE in the session that locked.
  (∀ (s : State) (n : Nat) (x : Session),
      s.session n = some x → (s.tdi (fnHost s x.fn)).st = 0 → s.compat = false → 
        Completes (.tdispRequest n 0) s fun t => t.tdi (fnHost s x.fn) = { st := 1, session := n, req := x.req } ∧ ChangesOnly [.tdis, .out] s t) ∧
  -- R472: see above.
  (∀ (s : State) (n : Nat) (x : Session),
      s.session n = some x → (s.tdi (fnHost s x.fn)).st = 1 → (s.tdi (fnHost s x.fn)).session = n → 
        Completes (.tdispRequest n 1) s fun t => (t.tdi (fnHost s x.fn)).st = 2 ∧ ChangesOnly [.tdis, .out] s t) ∧
  -- R630, R624: TENANT_KEY in a session bound to the tenant's host gives it its data key.
  (∀ (s : State) (n tn key : Nat) (x : Session),
      loadHolds s = false → s.session n = some x → tn ≤ 1023 → keyable s tn = true → boundSession s n x tn = true → 
        Completes (.tenantKey n tn key) s fun t =>
      t = (((s.putDataKey tn key).setFld Fd.SEC_TSTAT_KEYSRC 2 tn).keyWrite tn).keyAnswer x.fn 1 krOk [] ∧ mapFind t.dataKeys tn = some key ∧ t.fld Fd.SEC_TSTAT_KEYSRC tn = 2) ∧
  -- R632, R633: TENANT_SEAL that meets every condition of R632 gives key, seal and seal record.
  (∀ (s : State) (n tn ngrp rw key : Nat) (gs : List Nat) (x : Session),
      loadHolds s = false → s.session n = some x → sealResult s n x tn ngrp rw gs = krOk → 
        exec (.tenantSeal n tn ngrp rw key gs) s = .next ((s.sealTenant x tn ngrp rw key gs).keyAnswer x.fn 2 krOk [])) ∧
  -- R630: QP_KEY keeps a key for a FREE queue pair of a tenant of the session's host.
  (∀ (s : State) (n q key : Nat) (x : Session),
      loadHolds s = false → s.session n = some x → q ≤ 65535 → (s.qp q).st = qpFree → onBoundHost s x (s.qp q).tenant = true → tenantSealed s (s.qp q).tenant = false → 
        exec (.qpKey n q key) s = .next (({ s with qpKeys := mapIns q key s.qpKeys } : State).keyAnswer x.fn 3 krOk [])) ∧
  -- R630: GROUP_HKEY gives an empty group its hash key.
  (∀ (s : State) (n g key : Nat) (x : Session),
      loadHolds s = false → s.session n = some x → hkeyResult s x g = krOk → 
        exec (.groupHkey n g key) s = .next (((({ s with nsKeys := mapIns (1024 + g) (BitVec.ofNat 128 key) s.nsKeys } : State).setFld Fd.SEC_GSTAT_HSET 1 g).keyWrite (1024 + g)).keyAnswer x.fn 4 krOk [])) ∧
  -- R630: SEAL_QUERY on the bound host's function answers the tenant's state and seal.
  (∀ (s : State) (n tn : Nat) (x : Session),
      loadHolds s = false → s.session n = some x → tn ≤ 1023 → onBoundHost s x tn = true → 
        exec (.sealQuery n tn) s = .next (s.keyAnswer x.fn 5 krOk (sealAnswer s x tn))) ∧
  -- R620: PQ_SIGN signs the last signed transcript of its connection.
  (∀ (s : State) (fn : Fin 18) (h : List Byte),
      loadHolds s = false → mapFind s.signed fn.val = some h → 
        exec (.pqSign fn) s = .next (s.keyAnswer fn.val 6 krOk (Config.pqSign (pqSeed (topCdi s)) h))) ∧
  -- R658: GENERATE gives a CONFIGURED tenant without a key a fresh one: its value is free.
  (∀ (s : State) (value : Word),
      s.tstate (bitsOf value 25 16) = TState.configured.code → (s.setFld Fd.SEC_TKEY_TENANT (bitsOf value 25 16)).fld Fd.SEC_TSTAT_KEYSRC (bitsOf value 25 16) = 0 → tenantSealed s (bitsOf value 25 16) = false → 
        exec (.tenantKeyGenerate value) s =
      .next (((((s.setFld Fd.SEC_TKEY_TENANT (bitsOf value 25 16)).newDataKey (bitsOf value 25 16)).keyWrite (bitsOf value 25 16)).setFld Fd.SEC_TSTAT_KEYSRC 1 (bitsOf value 25 16)).setFld Fd.SEC_TKEY_ERR 0))

/-- Life-cycle commands, the crypto-erase, firmware slots and the calibration block complete with their effects. CHALLENGE gives a fresh nonce, a signed ADVANCE moves the life cycle or begins its crypto-erase, the erase destroys every key and ends in its target, the slot that does not run is erased, written, verified and selected, floors are raised, and the calibration block is read and written. How the directory of a slot is laid out and whether signatures verify are left to Config, and the bytes of an erased slot are modelled as absent (log). -/
def Obligations.LifeCycleFirmwareAndCalibrationComplete : Prop :=
  -- R641: CHALLENGE returns a fresh nonce, which ADVANCE then has to name: its value is free.
  (∀ (s : State) (fn : Fin 17),
      mbRefusal s fn.val false true false = none → 
        Completes (.lifecycleChallenge fn) s fun t => t.nonce = some (s.free % 2 ^ 256) ∧
      t.out = s.out ++ [.mailbox 0xC014 mbOk 0 (wordsOf (leBytes 32 (s.free % 2 ^ 256)))] ∧ ChangesOnly [.nonce, .freeCtr, .out] s t) ∧
  -- R640, R641: an ADVANCE that names the nonce and the device and carries the signatures of its transition takes it; another ends with Invalid Input and changes nothing.
  (∀ (s : State) (fn : Fin 17) (payload : List Byte),
      mbRefusal s fn.val false false true = none → s.bg.running = false → 
        exec (.lifecycleAdvance fn payload) s = .next (match (lcRead payload).filter (lcAccepted (s.reply 0xC014 mbBackground [])) with
      | none => (s.reply 0xC014 mbBackground []).bgDone 0xC014 mbInvalid 0
      | some a => if ((s.reply 0xC014 mbBackground []).advance a).lcTarget.isSome then
          { (s.reply 0xC014 mbBackground []).advance a with bg := { opcode := 0xC014, running := true, ret := 0, vendor := 0 } }
        else ((s.reply 0xC014 mbBackground []).advance a).bgDone 0xC014 mbOk 0)) ∧
  -- R641: what its payload says, by its bytes.
  (∀ (payload : List Byte) (a : LcAdvance),
      lcRead payload = some a → 
        payload.take 8 = lcMagic ∧ payload.length = 128 + sigSize * ofLE (sliceAt payload 9 1) + ofLE (sliceAt payload 96 4) ∧
      a.target = ofLE (sliceAt payload 8 1) ∧ a.nonce = ofLE (sliceAt payload 16 32) ∧ a.devHash = sliceAt payload 48 48) ∧
  -- R640: from BLANK, PROVISIONED with the certificates of the device.
  (∀ (s : State) (a : LcAdvance),
      s.fld Fd.SEC_LC_STATE = 0 → 
        (s.advance a).fld Fd.SEC_LC_STATE = 1 ∧ (s.advance a).deviceCerts = a.certs) ∧
  -- R642: with every tenant disabled the erase destroys every key, draws a new memory key, and ends in its target.
  (∀ (s : State) (target : Nat),
      s.lcTarget = some target → ((tenantsUsed s).any fun t => s.tstate t == TState.active.code || s.tstate t == TState.draining.code) = false → 
        Completes .cryptoEraseComplete s fun t => t.dataKeys = [] ∧ t.nsKeys = [] ∧ t.qpKeys = [] ∧ t.ideKeys = [] ∧ t.memKey = s.free ∧ t.qps = [] ∧ t.chunks = [] ∧
      t.plainMem = [] ∧ t.lcTarget = none) ∧
  -- R650: ERASE and WRITE act on the slot that is not running, in the background.
  (∀ (s : State) (fn : Fin 17) (off : Nat) (bs : List Byte),
      mbRefusal s fn.val false true true = none → s.fwWriter = 0 → s.bg.running = false → off + bs.length ≤ slotBytes → 
        exec (.fwStageErase fn) s = .next (((s.reply 0xC015 mbBackground []).updStaged fun _ => []).bgDone 0xC015 mbOk 0) ∧
    exec (.fwStageWrite fn off bs) s = .next (((s.reply 0xC015 mbBackground []).updStaged fun m => m.write off bs).bgDone 0xC015 mbOk 0)) ∧
  -- R648, R650: VERIFY answers the code of the first check that the staged slot fails, 0 where it passes.
  (∀ (s : State) (fn : Fin 17),
      mbRefusal s fn.val false true true = none → s.fwWriter = 0 → 
        exec (.fwStageVerify fn) s = .next (s.reply 0xC015 mbOk [BitVec.ofNat 64 (verifyCode s (stagedMem s))])) ∧
  -- R648: a slot without a valid directory, or whose images do not lie in it, fails check 1.
  (∀ (s : State) (m : Memory),
      slotImages m = none → verifyCode s m = 1) ∧
  -- R650: SELECT prefers the staged slot where its checks pass, and is refused with their code where they do not.
  (∀ (s : State) (fn : Fin 17),
      mbRefusal s fn.val false true true = none → s.fwWriter = 0 → 
        Completes (.fwSelect fn) s fun t => (verifyCode s (stagedMem s) = 0 → t.fld Fd.SEC_FW_PREF = stagedSlot s ∧ ChangesOnly [.out, .reg .SEC_FW] s t) ∧
      (verifyCode s (stagedMem s) ≠ 0 → t = s.emit (.mailbox 0xC016 mbInvalid (verifyCode s (stagedMem s)) []))) ∧
  -- R650: COMMIT_SVN raises each floor to the running image's number, and lowers none.
  (∀ (s : State) (fn : Fin 17),
      mbRefusal s fn.val false true true = none → 
        Completes (.fwCommitSvn fn) s fun t =>
      t.fld Fd.SEC_FLOOR_MFWFLOOR = max (s.fld Fd.SEC_FLOOR_MFWFLOOR) (s.fld Fd.SEC_FW_MFWSVN) ∧ t.fld Fd.SEC_FLOOR_FTFFLOOR = max (s.fld Fd.SEC_FLOOR_FTFFLOOR) (s.fld Fd.SEC_FW_FTFSVN)) ∧
  -- R650: QUERY answers SEC_FW and SEC_FLOOR.
  (∀ (s : State) (fn : Fin 17),
      mbRefusal s fn.val false true false = none → 
        exec (.fwQuery fn) s = .next (s.reply 0xC016 mbOk [s.reg .SEC_FW, s.reg .SEC_FLOOR])) ∧
  -- R650: PLDM firmware update begins where nothing else writes a slot, writes the slot that is not running, and ends.
  (∀ (s : State) (off : Nat) (bs : List Byte),
      s.fwWriter ≠ 2 → s.bg.running = false → off + bs.length ≤ slotBytes → 
        exec (.pldmFirmwareUpdate 0 off bs) s = .next (({ s with fwWriter := 2 } : State).emit (.pldm mbOk)) ∧
    exec (.pldmFirmwareUpdate 1 off bs) { s with fwWriter := 2 } = .next ((({ s with fwWriter := 2 } : State).updStaged fun m => m.write off bs).emit (.pldm mbOk)) ∧
    exec (.pldmFirmwareUpdate 2 off bs) { s with fwWriter := 2 } = .next (s.emit (.pldm mbOk) |> fun t => { t with fwWriter := 0 })) ∧
  -- R652: CAL_READ answers bytes of the calibration block, in every state.
  (∀ (s : State) (fn : Fin 17) (off n : Nat),
      mbRefusal s fn.val true true false = none → off + n ≤ calBytes → 
        exec (.calRead fn off n) s = .next (s.reply 0xC012 mbOk (wordsOf (s.calib.read off n)))) ∧
  -- R652: CAL_WRITE writes them in PROVISIONED and OWNED, and counts the write.
  (∀ (s : State) (fn : Fin 17) (off : Nat) (bs : List Byte),
      mbRefusal s fn.val false false true = none → s.bg.running = false → s.fld Fd.SEC_LC_STATE = 1 ∨ s.fld Fd.SEC_LC_STATE = 2 → off + bs.length ≤ calBytes → 
        Completes (.calWrite fn off bs) s fun t => t.calib = s.calib.write off bs ∧ ChangesOnly [.calib, .out, .bg, .keyRows, .reg .SEC_CAL, .reg .SEC_NVS] s t)

/-- Health, poison, event, identity, log and timestamp commands, platform events and TAP instructions complete with their answers. Each mailbox command that is not refused answers its payload with Success, Clear Poison writes the line, clearing removes records, Set Timestamp writes PWR_DTOFF, a command that the function does not support is answered Unsupported, the management controller reads the oldest event, and the TAP's instructions set the balls. The numbers of the CXL opcodes and return codes are the model's (log). -/
def Obligations.MailboxQueriesAndLogsComplete : Prop :=
  -- R727, R742: HEALTH_GET answers LOG_HEALTH0 and the seven registers, and Get Health Info two of its bits.
  (∀ (s : State) (fn : Fin 17),
      mbRefusal s fn.val true true false = none → 
        exec (.healthGet fn) s = .next (s.reply 0xC017 mbOk
      [healthWord s, s.reg .FLT_WEAR, s.reg .FLT_SPARE, s.reg .FLT_ERR0, s.reg .FLT_ERR1, s.reg .RAS_STATUS, s.reg .RAS_REPL, s.reg .PWR_THERM])) ∧
  -- R742: see above.
  (∀ (s : State) (fn : Fin 17),
      mbRefusal s fn.val true false false = none → 
        exec (.getHealthInfo fn) s = .next (s.reply 0x4200 mbOk [packWord [(8, bitsOf (healthWord s) 0 0), (0, bitsOf (healthWord s) 1 1)]])) ∧
  -- R457: the poison list answers each line that reads as poison, orphaned ones with the source Internal.
  (∀ (s : State) (fn : Fin 17),
      mbRefusal s fn.val false false false = none → 
        exec (.getPoisonList fn) s = .next (s.reply 0x4300 mbOk ((s.orphanLines.map fun e => BitVec.ofNat 64 (64 * e.1 + 2)) ++
      (s.poisonLines.filter fun e => (mapFind s.orphanLines e.1).isNone).map fun e => BitVec.ofNat 64 (64 * e.1)))) ∧
  -- R474: Clear Poison of a line of the plain region writes its 64 bytes.
  (∀ (s : State) (fn : Fin 17) (a x y : Nat) (bs : List Byte),
      mbRefusal s fn.val false false false = none → dpaPlace (dpaExtents s.cacheSf) a = .plain x y → bs.length = 64 → 
        exec (.clearPoison fn a bs) s = .next ((s.engineWrite (64 * (a / 64)) bs).reply 0x4302 mbOk [])) ∧
  -- R475: Get Event Records answers a log of the function's own, or any for the operator function.
  (∀ (s : State) (fn owner : Fin 17) (log : Fin 5),
      inSafe s = false → ownsLogs fn.val owner.val = true → awaitsMedia s = false → 
        exec (.getEventRecords fn owner log) s = .next (s.reply 0x0100 mbOk
      (packWord [(16, (mapFind s.evLost (8 * owner.val + log.val)).getD 0), (0, (s.eventLog owner.val log.val).length)] :: (s.eventLog owner.val log.val).flatMap eventWords))) ∧
  -- R475: Clear Event Records leaves none of the named records of that log; clearing all also clears its overflow.
  (∀ (s : State) (fn owner : Fin 17) (log : Fin 5) (all : Bool) (handles : List Nat),
      inSafe s = false → ownsLogs fn.val owner.val = true → awaitsMedia s = false → 
        Completes (.clearEventRecords fn owner log all handles) s fun t =>
      (∀ e ∈ (mapFind t.events owner.val).getD [], e.log = log.val → all = false ∧ e.handle ∉ handles) ∧ ChangesOnly [.events, .evLost, .out] s t) ∧
  -- R475: Set Event Interrupt Policy keeps a mode for each log of the function.
  (∀ (s : State) (fn : Fin 17) (modes : List Nat),
      inSafe s = false → awaitsMedia s = false → 
        exec (.setEventInterruptPolicy fn modes) s = .next (({ s with
      evPolicy := (modes.take 5).zipIdx.foldl (fun m e => mapIns (8 * fn.val + e.2) e.1 m) s.evPolicy } : State).reply 0x0103 mbOk [])) ∧
  -- R474: Identify Memory Device answers the part, its serial number and the blocks of its capacity.
  (∀ (s : State) (fn : Fin 17),
      exec (.identifyMemoryDevice fn) s = .next (s.reply 0x4000 mbOk [packWord [(16, s.fuses.step), (0, 0x7212)], s.fuses.serial, BitVec.ofNat 64 (dpaExtents s.cacheSf)])) ∧
  -- R474, R737: Get Log answers the CEL, or records of the LOG from one of them on.
  (∀ (s : State) (vendor : Bool) (first n : Nat),
      awaitsMedia s = false → 
        exec (.getLog 16 vendor first n) s = .next (s.reply 0x0401 mbOk
      (if vendor then ((s.log.drop first).take n).flatMap logWords else celOpcodes.map fun o => BitVec.ofNat 64 o))) ∧
  -- R667: Get Timestamp answers DTIME + PWR_DTOFF.
  (∀ (s : State) (fn : Fin 17),
      inSafe s = false → awaitsMedia s = false → 
        exec (.getTimestamp fn) s = .next (s.reply 0x0300 mbOk [BitVec.ofNat 64 s.dtime + s.reg .PWR_DTOFF])) ∧
  -- R667: Set Timestamp makes DTIME + PWR_DTOFF that value, and leaves DTIME.
  (∀ (s : State) (fn : Fin 17) (v : Word),
      mbRefusal s fn.val false false false = none → 
        Completes (.setTimestamp fn v) s fun t => BitVec.ofNat 64 t.dtime + t.reg .PWR_DTOFF 0 = v ∧ ChangesOnly [.out, .reg .PWR_DTOFF] s t) ∧
  -- R474: a command that the function does not support is answered Unsupported; one that CFGFREEZE refuses so too, with vendor status 0x20 and LOG event 0x0005.
  (∀ (s : State) (fn : Fin 17) (op action : Nat),
      (if fn.val = operatorFn then celOpcodes else hostOpcodes).contains op = false → 
        exec (.unsupportedMailboxCommand fn op action) s = .next (s.reply op mbUnsupported [])) ∧
  -- R726: see above.
  (∀ (s : State) (op action : Nat),
      celOpcodes.contains op = true → freezes op action = true → s.flag Fd.GLB_CFG_CFGFREEZE = true → 
        exec (.unsupportedMailboxCommand 16 op action) s = .next ((s.logEv 0x0005 1 noIsland none op action).emit (.mailbox op mbUnsupported 0x20 []))) ∧
  -- R716: the management controller reads the oldest event that waits.
  (∀ (s : State) (e : Nat × Nat) (rest : List (Nat × Nat)),
      s.mctp = e :: rest → 
        exec .platformEventRead s = .next (({ s with mctp := rest } : State).emit (.platformEvent e.1 e.2))) ∧
  -- R719: the TAP's instructions: SAMPLE/PRELOAD shifts the balls out and sets the cells, EXTEST drives them, IDCODE shifts its code; outside maker test every other code is BYPASS.
  (∀ (s : State) (pins cells : List Bool) (n : Nat),
      makerState s = false → 
        exec (.jtagInstruction .samplePreload pins cells) s = .next (({ s with jtag := { op := .samplePreload, cells, balls := 0 } } : State).emit (.tdo pins)) ∧
    exec (.jtagInstruction .extest pins cells) s = .next (({ s with jtag := { op := .extest, cells, balls := 1 } } : State).emit (.tdo pins)) ∧
    exec (.jtagInstruction .idcode pins cells) s = .next (({ s with jtag := { s.jtag with op := .idcode, balls := 0 } } : State).emit (.tdo Config.idcode)) ∧
    exec (.jtagInstruction (.other n) pins cells) s = .next (({ s with jtag := { s.jtag with op := .bypass, balls := 0 } } : State).emit (.tdo [false])))

/-- DTIME's sources, power samples, clocks, thermal steps, power states and tenant, island and function resets complete with their effects. PWR_DTSET and exchanges of timestamps discipline DTIME, a PTP event is stamped, PPS rises, samples move the measurements and the cap, an island's clock is lowered, sensors set the steps, QUIET and STANDBY are entered and left, and tenants, islands and the functions are reset. Which slew gives way to which, and that only the rows' operands carry readings, are readings of the log. -/
def Obligations.TimePowerAndFunctionResetsComplete : Prop :=
  -- R666: PWR_DTSET in HOST and FREE modes applies the offset to the written time, and DTIME is valid.
  (∀ (s : State) (v : Word),
      s.fld Fd.PWR_DTCTL_MODE ≠ modePtp → s.fld Fd.PWR_DTCTL_MODE ≠ modeRing → 
        Completes (.dtimeSet v) s fun t => t = (s.applyOffset ((v.toNat : Int) - s.dtime)).setFld Fd.PWR_DTCTL_VALID 1 ∧ t.fld Fd.PWR_DTCTL_VALID = 1) ∧
  -- R666: with no tenant that serves, an offset of DTIME behind its source is stepped at once.
  (∀ (s : State) (o : Int),
      0 < o → tenantsServe (s.setFld Fd.PWR_DTCTL_OFFNS (offImage o)) = false → 
        (s.applyOffset o).dtime = s.dtime + o.toNat ∧ (s.applyOffset o).fld Fd.PWR_DTCTL_STEPPED = 1) ∧
  -- R490: a PTP event message is stamped, and on the named port and domain in PTP mode its offset disciplines DTIME; on others it does not.
  (∀ (s : State) (msg : PtpMsg) (now : Nat) (o : Int),
      msg.offset = some o → s.fld Fd.PWR_DTCTL_MODE = modePtp → msg.port = s.fld Fd.PWR_DTCTL_PTPPORT → msg.domain = s.fld Fd.PWR_DTCTL_PTPDOM → 
        exec (.ptpEventMessage msg now) s = .next ((((s.at_ now).emit (.ptpStamp msg.port (s.at_ now).dtime)).applyOffset o).lockWithin o 1000)) ∧
  -- R490: see above.
  (∀ (s : State) (msg : PtpMsg) (now : Nat),
      s.fld Fd.PWR_DTCTL_MODE ≠ modePtp → 
        exec (.ptpEventMessage msg now) s = .next ((s.at_ now).emit (.ptpStamp msg.port (s.at_ now).dtime))) ∧
  -- R424, R666: an exchange on the ring shows the largest offset to a neighbour, and whether cascade deadlines hold.
  (∀ (s : State) (o : Int) (neighbour now : Nat),
      s.fld Fd.PWR_DTCTL_MODE ≠ modeRing → 
        Completes (.ringTimeExchange o neighbour now) s fun t => t.fld Fd.SNL_CASC_DTOFF = min neighbour 65535 ∧
      t.fld Fd.SNL_CASC_CASCOK = b2n (s.fld Fd.SNL_RING_STATE == ringFormed && decide (neighbour ≤ 20)) ∧ ChangesOnly [.dtime, .reg .SNL_CASC] s t) ∧
  -- R712: PPS_OUT rises at a whole second of a valid DTIME, and at no other.
  (∀ (s : State) (now : Nat),
      exec (.ppsPulse now) s = .next (if s.flag Fd.PWR_DTCTL_VALID && (s.at_ now).dtime % 1000000000 == 0 then (s.at_ now).emit (.pps (s.at_ now).dtime) else s.at_ now)) ∧
  -- R669, R707: a sample shows the averages and the peak, reads the regulators, moves the cap, and the clocks follow.
  (∀ (s u : State) (avg peak hbm cd : Nat) (a0 a1 : Bool) (now : Nat),
      u = ((((s.at_ now).setFld Fd.PWR_MEAS_AVGW (min avg 65535)).setFld Fd.PWR_MEAS_HBMW (min hbm 65535)).setFld Fd.PWR_MEAS_CDW (min cd 65535)) → 
        exec (.powerSample avg peak hbm cd a0 a1 now) s =
      .next (((((u.setFld Fd.PWR_MEAS_PEAKW (max (u.fld Fd.PWR_MEAS_PEAKW) (min peak 65535))).avsRead 0 a0).avsRead 1 a1).capStep avg).syncClocks)) ∧
  -- R663: under ECO an island whose seams carried less than 25 % goes down by 25 MHz, within its span; another returns.
  (∀ (s : State) (i : Fin 293) (pct : Fin 101) (now : Nat),
      s.flag Fd.PWR_CTL_ECO = false ∨ 25 ≤ pct.val → 
        exec (.clockAdjust i pct now) s = .next (({ s.at_ now with ecoDown := mapDel i.val s.ecoDown } : State).syncClocks)) ∧
  -- R670, R691: the sensors are shown, each die's and stack's step by its thresholds, and the clocks follow; a step that rises writes LOG event 0x0E02.
  (∀ (s u : State) (cd0 cd1 xd : Int) (ts : List Int) (now : Nat),
      u = ((s.at_ now).setReg .PWR_THERM 0 (packWord [(56, intBits 8 cd0), (48, intBits 8 cd1), (40, intBits 8 xd), (32, intBits 8 ((ts.take 12).foldl max (ts.headD 0))), (8, stackStepWord s ts), (2, stepOf (dieSteps s) (s.fld Fd.PWR_THERM_STEP1) cd1), (0, stepOf (dieSteps s) (s.fld Fd.PWR_THERM_STEP0) cd0)])).syncClocks → 
        exec (.thermalStep cd0 cd1 xd ts now) s = .next u ∨ exec (.thermalStep cd0 cd1 xd ts now) s = .next (u.logEv 0x0E02 1 noIsland none (u.reg .PWR_THERM).toNat 0)) ∧
  -- R668: QUIET after 1 ms without a command, an access or steward work.
  (∀ (s : State) (idleUs now : Nat),
      mediaReady s = true → s.fld Fd.PWR_STATUS_PSTATE = 0 → busyNow s = false → 1000 ≤ idleUs → 
        Completes (.quietEntry idleUs now) s fun t => t.fld Fd.PWR_STATUS_PSTATE = 1 ∧ t.power.quietAt = t.dtime ∧ ChangesOnly [.dtime, .power, .reg .PWR_STATUS] s t) ∧
  -- R668: STANDBY after STBYMS of QUIET with STBYEN set and no work pending.
  (∀ (s : State) (now : Nat),
      s.fld Fd.PWR_STATUS_PSTATE = 1 → s.flag Fd.PWR_CTL_STBYEN = true → s.power.quietAt + 1000000 * s.fld Fd.PWR_CTL_STBYMS ≤ (s.at_ now).dtime → busyNow s = false → workPending s = false → 
        Completes (.standbyEntry now) s fun t => t.fld Fd.PWR_STATUS_PSTATE = 2 ∧ ChangesOnly [.dtime, .reg .PWR_STATUS] s t) ∧
  -- R668: STANDBY ends.
  (∀ (s : State) (now : Nat),
      s.fld Fd.PWR_STATUS_PSTATE = 2 → 
        exec (.standbyExit now) s = .next (s.at_ now).wake) ∧
  -- R676: a reset of an ACTIVE tenant drains it, to be enabled again once DISABLED.
  (∀ (s : State) (v : Word),
      s.tenantResets = [] → (s.writePwrRst v).active (bitsOf v 25 16) = true → 
        exec (.tenantReset v) s = .next ((({ s.writePwrRst v with tenantResets := [bitsOf v 25 16] } : State).setFld Fd.PWR_RST_ERR 0).drainTenant (bitsOf v 25 16))) ∧
  -- R677, R39: a reset of a steward island rolls back what it had begun.
  (∀ (s : State) (v : Word) (now : Nat),
      s.tenantResets = [] → 268 ≤ bitsOf v 40 32 → bitsOf v 40 32 < 276 → 
        exec (.islandReset v now) s = .next ((((s.at_ now).writePwrRst v).setFld Fd.PWR_RST_ERR 0).resetSteward (bitsOf v 40 32 - 268))) ∧
  -- R677: an Ethernet port that is not down trains again.
  (∀ (s : State) (v : Word) (now : Nat),
      s.tenantResets = [] → 280 ≤ bitsOf v 40 32 → bitsOf v 40 32 < 282 → s.fld Fd.SHT_PORTST_STATE (bitsOf v 40 32 - 280) ≠ 0 → 
        exec (.islandReset v now) s = .next ((((s.at_ now).writePwrRst v).setFld Fd.PWR_RST_ERR 0).setFld Fd.SHT_PORTST_STATE 1 (bitsOf v 40 32 - 280))) ∧
  -- R672, R683: a CXL Reset drains every ACTIVE tenant and clears spools, queue pairs, ring contexts and gateways.
  (∀ (s : State),
      Completes .functionReset s fun t => t.spools = [] ∧ t.comps = [] ∧ t.qps = [] ∧ t.qpKeys = [] ∧ t.rctx = [] ∧ t.gws = []) ∧
  -- R672: an FLR ends the function's sessions and its event policy, and its TDI is unlocked.
  (∀ (s : State) (h : HostId),
      Completes (.flr h) s fun t => t.sessions = (s.tdiTo h.val 0).sessions.filter (fun (e : Nat × Session) => e.2.fn != h.val) ∧ (∀ e ∈ t.evPolicy, e.1 / 8 ≠ h.val))

/-- Power-on, PERST#, power failure, thermal trip, loss of supplies or reference, start-up and media ready complete with their effects. The part is held until PERST# deasserts, starts from ROM to the boot pattern and to media ready, quiesces for a reset, flushes on a power failure and then only starts cold, stops on a thermal trip until its supplies are removed, and holds itself when its reference is lost. That start-up runs in one step with what it finds as operands, and that the lost reference's CAUSE is free, are readings of the log. -/
def Obligations.PowerAndStartUpEventsComplete : Prop :=
  -- R672: with the rails up the part is held in cold reset.
  (∀ (s : State),
      s.power.stage = .off ∨ s.power.stage = .noRef → 
        Completes .powerOn s fun t => t.power = { s.power with stage := .held, cold := true } ∧ ChangesOnly [.power] s t) ∧
  -- R679: PERST# deasserts with the supplies sound: start-up runs.
  (∀ (s : State) (x : StartIn) (now : Nat),
      s.power.stage = .held → s.power.pfLow = false → 
        exec (.startup x now) s = .next ((s.at_ now).startUp x)) ∧
  -- R713: while PWR_FAIL_N is low it waits at phase 1, and then until it has been high for 10 ms.
  (∀ (s : State) (x : StartIn) (now : Nat),
      s.power.stage = .held → s.power.pfLow = true → 
        Completes (.startup x now) s fun t => t.power.stage = .waiting ∧ t.fld Fd.PWR_BOOT_PHASE = 1) ∧
  -- R713: see above.
  (∀ (s : State) (x : StartIn) (now : Nat),
      s.power.stage = .waiting → s.power.pfLow = false → s.power.pfHigh + 10000000 ≤ (s.at_ now).dtime → 
        exec (.startup x now) s = .next ((s.at_ now).startUp x)) ∧
  -- R678, R639: in PROVISIONED and OWNED start-up ends in media ready, the pattern measured; BOOT shows how long it took, and after a cold start the start-up rebuild has begun.
  (∀ (s : State) (ms now : Nat),
      s.power.stage = .starting → inSafe s = false → s.fld Fd.SEC_LC_STATE = 1 ∨ s.fld Fd.SEC_LC_STATE = 2 → s.power.coldStart = false → 
        Completes (.mediaReady ms now) s fun t => mediaReady t = true ∧ t.power.stage = .up ∧ t.fld Fd.PWR_BOOT_MRMS = min ms (2 ^ 32 - 1) ∧ t.fld Fd.PWR_BOOT_PHASE = 11) ∧
  -- R680: the start-up rebuild ends.
  (∀ (s : State),
      s.flag Fd.PGT_RECOV_REBUILD = true → 
        exec .startupRebuildDone s = .next ((s.setFld Fd.PGT_RECOV_REBUILD 0).recovSync).reclaim) ∧
  -- R673, R672: PERST# asserts while the part runs, or the watchdog expires: it quiesces, and the next start is warm while the rails hold.
  (∀ (s q : State) (now : Nat),
      s.power.stage = .up ∨ s.power.stage = .starting → q = (s.at_ now).quiesceAll → 
        exec (.perstAssert now) s = .next (q.setPower { s.power with stage := .held, cause := if s.power.cold then s.power.cause else 1 }) ∧
    exec (.watchdogExpiry now) s = .next (q.setPower { s.power with stage := .held, cause := if s.power.cold then s.power.cause else 5 })) ∧
  -- R674: what was in flight ends without an entry, and media is not ready.
  (∀ (s : State),
      s.interrupt.lineQ = [] ∧ s.interrupt.viewWaits = [] ∧ s.interrupt.snoops = [] ∧ s.interrupt.heldActs = []) ∧
  -- R556, R558: PWR_FAIL_N low for 2 µs makes a part that runs flush, after which only a cold start brings media back.
  (∀ (s : State) (us : Nat) (saved whole : Bool) (now : Nat),
      s.power.stage = .up ∨ s.power.stage = .starting → 
        Completes (.powerFailFlush us saved whole now) s fun t => t.power.stage = .flushed ∧ t.power.cold = true ∧ t.power.cause = 4 ∧ t.power.pfLow = true ∧
      t.power.flushUs = min us (2 ^ 32 - 1) ∧ t.power.sealWhole = (saved && whole)) ∧
  -- R713: PWR_FAIL_N returns high.
  (∀ (s : State) (now : Nat),
      s.power.pfLow = true → 
        exec (.pwrFailNDeassert now) s = .next ((s.at_ now).setPower { s.power with pfLow := false, pfHigh := (s.at_ now).dtime })) ∧
  -- R672: a main rail that leaves regulation makes the next PERST# a cold reset.
  (∀ (s : State) (us : Nat) (saved whole : Bool),
      s.power.stage ≠ .off → s.power.stage ≠ .tripped → 
        exec (.railLeavesRegulation false us saved whole) s = .next (s.setPower { s.power with cold := true, cause := if s.power.cold then s.power.cause else 2 })) ∧
  -- R673: during a quiesce the power-fail flush takes over.
  (∀ (s : State) (us : Nat) (saved whole : Bool),
      s.power.stage = .held → s.power.cold = false → 
        exec (.railLeavesRegulation true us saved whole) s = .next (s.flush us saved whole)) ∧
  -- R671, R714: a die at 110 °C or a stack at 100 °C trips: everything stops, THERMTRIP_N goes low, and only the removal of the supplies ends it.
  (∀ (s : State) (die : Bool) (temp : Int),
      s.power.stage ≠ .off → s.power.stage ≠ .tripped → (if die then 110 else 100) - thermMargin s ≤ temp → 
        Completes (.thermalTrip die temp) s fun t => t.power.stage = .tripped ∧ t.power.cold = true ∧ t.power.cause = 3 ∧ t.out.getLast? = some .thermTrip) ∧
  -- R714, R715: the supplies are removed: the latches are released, and the next start is cold.
  (∀ (s : State),
      s.power.stage ≠ .off → 
        Completes .suppliesRemoved s fun t => t.power.stage = .off ∧ t.power.cold = true ∧ t.power.aonFresh = true ∧ t.replaceN = false) ∧
  -- R661: the reference is lost: the part holds itself in cold reset; the cause that the next start shows is free.
  (∀ (s : State),
      s.power.stage ≠ .off → s.power.stage ≠ .noRef → s.power.stage ≠ .tripped → 
        Completes .systemReferenceLost s fun t => t.power.stage = .noRef ∧ t.power.cold = true)

/-- ACTIVATE begins to validate the staged image, and each phase that can end leads to the next. A PATTERN_LOAD or PANEL_SWAP that is accepted answers Background and keeps the image as it is staged at this moment; at a tick checks 1 to 17 end it with the failing code, panel and offset or let it quiesce, and once the commands that run to completion have ended checks 18 to 22 end it or let it program; a failed programming ends it with code 0x19. Whether signatures, routes, tile programs and operand programs hold is left to Config, and that the phases change at a tick is the model's choice (log entries 24 and 28). -/
def Obligations.ActivationsComplete : Prop :=
  -- R76, R90: the load of a pattern: PAT_STATUS shows VALIDATING.
  (∀ (s : State) (fn : Fin 17) (word0 : Word),
      mbRefusal s fn.val false false true = none → s.bg.running = false → 
        Completes (.patternActivate fn word0) s fun t =>
      t.load = some { swap := false, panel := bitsOf word0 21 16, src := readImage s.staging, image := readPattern (readImage s.staging), phase := .validating } ∧
      t.bg = { opcode := 0xC010, running := true, ret := 0, vendor := 0 } ∧ t.fld Fd.PAT_STATUS_STATE = 2 ∧ t.fld Fd.PAT_PROGRESS_PCT = 0 ∧
      t.pattern = s.pattern ∧ t.staging = s.staging ∧ t.out = s.out ++ [.mailbox 0xC010 mbBackground 0 []]) ∧
  -- R83: the swap of a panel: PAT_STATUS stays as it is.
  (∀ (s : State) (fn : Fin 17) (word0 : Word),
      mbRefusal s fn.val false false true = none → s.bg.running = false → 
        Completes (.panelSwapActivate fn word0) s fun t =>
      t.load = some { swap := true, panel := bitsOf word0 21 16, src := readImage s.staging, image := readPattern (readImage s.staging), phase := .validating } ∧
      t.bg = { opcode := 0xC011, running := true, ret := 0, vendor := 0 } ∧ t.reg .PAT_STATUS = s.reg .PAT_STATUS ∧ t.fld Fd.PAT_PROGRESS_PCT = 0 ∧
      t.pattern = s.pattern ∧ t.staging = s.staging ∧ t.out = s.out ++ [.mailbox 0xC011 mbBackground 0 []]) ∧
  -- R76: at a tick, checks 1 to 17: the first that fails ends it, with its code and place; none, and it quiesces.
  (∀ (s : State) (l : LoadRun),
      s.load = some l → l.phase = .validating → 
        match validate s l.src l.image l.swap with
      | some e => LoadEnded s s.loadAdvance l.swap e
      | none => s.loadAdvance.load = some { l with phase := .quiescing } ∧ s.loadAdvance.pattern = s.pattern ∧ s.loadAdvance.bg = s.bg ∧
          (l.swap = false → s.loadAdvance.fld Fd.PAT_STATUS_STATE = 3)) ∧
  -- R77, R83: a quiesce waits for the commands that run to completion.
  (∀ (s : State) (l : LoadRun),
      s.load = some l → l.phase = .quiescing → quiesced s l = false → 
        s.loadAdvance = s) ∧
  -- R76, R80: checks 18 to 22 then end it, its panels running again, or let it program.
  (∀ (s : State) (l : LoadRun),
      s.load = some l → l.phase = .quiescing → quiesced s l = true → 
        match liveChecks s l.image l.swap l.panel with
      | some e => LoadEnded s s.loadAdvance l.swap e
      | none => s.loadAdvance.load = some { l with phase := .programming } ∧ s.loadAdvance.pattern = s.pattern ∧ s.loadAdvance.bg = s.bg ∧
          (l.swap = false → s.loadAdvance.fld Fd.PAT_STATUS_STATE = 4)) ∧
  -- R80, R93: what ran before runs again: the command ends with code 0x19. That PAT_ERRDET then names no section is the model's choice (log entry 105).
  (∀ (s : State) (l : LoadRun),
      s.load = some l → l.phase = .restoring → 
        LoadEnded s s.loadAdvance l.swap { code := 0x19, type := 0, panel := 0xFF, soff := 0 })

/-- A step runs the command at the front of the queue on the state with the queue's rest. For every command c and every state s, a step of s with c at the front of its queue answers what exec of c answers on s, whose queue is then the rest. The queue is the block's own form, not a rule of the spec (log entry 1). -/
def Obligations.StepRunsTheCommandInFront : Prop :=
  -- the command in front runs on the rest of the queue.
  (∀ (s : State) (c : Instr),
      step (s.command c) = exec c s)

/-- With no command waiting a nanosecond passes: DTIME and its adjustment, a copying rebuild and a load that can go on change, and nothing else. The model's choice (log entries 1, 24 and 114): a step on an empty queue is one nanosecond of the system reference. With no rebuild copying and no load or swap under way only DTIME, the clock's own record and the rate field may change; a load or swap may go on to its next phase, and the copying of a rebuild may have passed a GiB. With no rate adjustment under way DTIME counts one; while the supplies are off or the reference is missing it does not count. -/
def Obligations.IdleStepCountsTheReferenceClock : Prop :=
  -- the frame of an idle step with no load or swap under way and no rebuild copying.
  (∀ (s : State),
      s.pending = [] → s.load = none → s.fld Fd.RAS_REBUILD_PHASE ≠ 2 → 
        ∃ t, step s = .next t ∧ ChangesOnly [.dtime, .power, .reg .PWR_DTCTL] s t) ∧
  -- the frame of every idle step.
  (∀ (s : State),
      s.pending = [] → 
        ∃ t, step s = .next t ∧ ChangesOnly (noted ++ pieces [.dtime, .freeCtr, .out, .events, .geoGen, .load, .bg, .cores, .comps, .inflight, .nsKeys, .rctx, .qpKeys, .evLost, .dataKeys, .sealReq, .keyRows, .heldActs, .keyRepl, .replaceN, .power] [.PAT_STATUS, .PAT_ERRDET, .PAT_EVT, .PANEL_STATE, .TNT_STATE, .TNT_BIND, .TNT_GRP, .TNT_QUOTA, .TNT_CRED, .TNT_USE0, .TNT_USE1, .TNT_ERR, .SPL_CFG, .SNL_CTX_ST, .RAS_STATUS, .RAS_REPL, .RAS_REBUILD, .SEC_NVS, .SEC_TSTAT, .SEC_GSTAT, .PWR_DTCTL]) s t) ∧
  -- with the reference running and no adjustment, DTIME counts one nanosecond.
  (∀ (s : State),
      s.pending = [] → s.power.stage = .up → s.power.slew = 0 → s.power.frac < 1000000000 → 
        ∃ t, step s = .next t ∧ t.dtime = s.dtime + 1) ∧
  -- and nothing else of the clock changes while no load or swap is under way.
  (∀ (s : State),
      s.pending = [] → s.power.stage = .up → s.power.slew = 0 → s.power.frac < 1000000000 → s.load = none → 
        ∃ t, step s = .next t ∧ t.power = s.power ∧ t.reg .PWR_DTCTL = s.reg .PWR_DTCTL) ∧
  -- while a rebuild copies, DONEGIB stays or moves on by one, up to TOTALGIB (R587).
  (∀ (s : State),
      s.fld Fd.RAS_REBUILD_PHASE = 2 → s.fld Fd.RAS_REBUILD_DONEGIB < s.fld Fd.RAS_REBUILD_TOTALGIB → 
        s.copyStep = s.drawn ∨ s.copyStep = s.drawn.setFld Fd.RAS_REBUILD_DONEGIB (s.fld Fd.RAS_REBUILD_DONEGIB + 1)) ∧
  -- with the supplies off or the reference missing nothing counts.
  (∀ (s : State),
      s.pending = [] → s.power.stage = .off ∨ s.power.stage = .noRef → 
        step s = .next s)

/-- No command changes the queue of waiting commands, nor the fuses that fix the part's ordering code and cores. Whatever command runs in whatever state, where it answers a next state the queue of waiting commands is as it was, and so are the ordering code, stepping, serial number and enabled cores that the part's fuses hold. -/
def Obligations.QueueAndFusesStandOutsideTheCommands : Prop :=
  -- every command.
  (∀ (i : Instr) (s t : State),
      exec i s = .next t → 
        t.pending = s.pending ∧ t.fuses = s.fuses)

/-- The state right after reset has the form that every step keeps. After reset the byte memories are canonical and the log, the fault capsule, the event logs and the orphan log hold no more than their sizes. -/
def Obligations.ResetMeetsTheInvariant : Prop :=
  -- reset.
  (Invariant State.reset)

/-- Every step from a state of the form answers a state of the form. From every state with canonical byte memories and with the log, the fault capsule, the event logs and the orphan log within the sizes that the spec gives them, every step that answers a next state, whatever the command in front or with none, answers one of the same form. -/
def Obligations.EveryStepKeepsTheInvariant : Prop :=
  -- every step.
  (∀ (s t : State),
      Invariant s → step s = .next t → 
        Invariant t)

/-- A block decodes to exactly the raw bytes that were encoded, under any valid table or with none. For every valid code table of symbols of 4 or 8 bits, and for none, a coding block of any 4,096 raw bytes decodes, against the header that the page expects of it, to those bytes; and it never proves corrupt. -/
def Obligations.BlocksDecodeToWhatWasEncoded : Prop :=
  -- under a valid table.
  (∀ (w g : Nat) (l : List Nat) (raw : List Byte) (prof tensor fmt block : Nat),
      w = 4 ∨ w = 8 → tableOk w l = true → l.length = 256 → raw.length = 4096 → 
        decodeBlock (encodeBlock prof tensor fmt block w (some (g, l)) raw) prof tensor fmt block
      (encodeBlock prof tensor fmt block w (some (g, l)) raw).clen w (some l) = .ok raw) ∧
  -- stored raw, where the tensor has no current generation.
  (∀ (w : Nat) (raw : List Byte) (prof tensor fmt block : Nat) (live : Option (List Nat)),
      decodeBlock (encodeBlock prof tensor fmt block w none raw) prof tensor fmt block 128 w live = .ok raw)

/-- Under a valid table no two codes are equal, none begins another, and every bit string begins with a code. R305's last sentence, for every valid table: codes are assigned in canonical order, and a string of at least 12 bits always begins with the code of some symbol. -/
def Obligations.EveryBitStringDecodes : Prop :=
  -- decoding one symbol never meets an unassigned prefix.
  (∀ (w : Nat) (l : List Nat) (bits : List Bool),
      w = 4 ∨ w = 8 → tableOk w l = true → l.length = 256 → 12 ≤ bits.length → 
        ∃ s rest, decodeSym (canonical w l) 12 0 0 bits = some (s, rest) ∧
      (∃ n c, (s, n, c) ∈ canonical w l ∧ bits = codeBits n c ++ rest ∧ 1 ≤ n ∧ n ≤ 12 ∧ c < 2 ^ n)) ∧
  -- the codes of two symbols differ, and neither begins the other.
  (∀ (w : Nat) (l : List Nat) (a b : Nat × Nat × Nat),
      w = 4 ∨ w = 8 → tableOk w l = true → l.length = 256 → a ∈ canonical w l → b ∈ canonical w l → a.1 ≠ b.1 → 
        ¬ codeBits a.2.1 a.2.2 <+: codeBits b.2.1 b.2.2)

/-- Spool and Prefix commands change only the pieces listed for each. Each command named answers a next state, and every field of the state and every register not in its list is as before: `noted` are the pieces that a LOG record may change, `freed` those that the release of what nothing refers to may change. A row that may be refused, or that changes most of the state, says so as: where it answers a next state, then the list. -/
def Obligations.SpoolAndPrefixFrames : Prop :=
  -- SUBMISSION_CELL_WRITE (R139).
  (∀ (s : State) (host : HostId) (tenant : TenantId) (sq : Fin 4) (off : Fin 4096) (bytes : List Byte),
      MayChange (.submissionCellWrite host tenant sq off bytes) s (noted ++ pieces [.out, .denyLogAt, .spools, .comps, .inflight] [.PANEL_STATE, .TNT_ERR, .HRT_DENY, .SPL_SQS, .SPL_SQE, .SPL_ERRCNT, .PFX_CNT0, .ATN_CNT1])) ∧
  -- DOORBELL (R142).
  (∀ (s : State) (host : HostId) (tenant : TenantId) (sq : Fin 4) (size : Nat) (value : Word),
      MayChange (.doorbell host tenant sq size value) s (noted ++ pieces [.out, .denyLogAt, .spools, .comps, .inflight] [.TNT_ERR, .HRT_DENY, .SPL_SQS, .SPL_SQE, .SPL_ERRCNT, .PFX_CNT0, .ATN_CNT1])) ∧
  -- SPOOL_RESET (R165).
  (∀ (s : State) (host : HostId) (tenant : TenantId) (sq : Fin 4) (tail : BitVec 16),
      MayChange (.spoolReset host tenant sq tail) s (noted ++ pieces [.out, .denyLogAt, .spools, .comps, .inflight] [.TNT_ERR, .HRT_DENY, .SPL_SQS, .SPL_SQE, .SPL_ERRCNT, .PFX_CNT0, .ATN_CNT1])) ∧
  -- COMMAND_DECODE (R149).
  (∀ (s : State),
      MayChange .commandDecode s (pieces [.spools, .comps, .rotor, .inflight, .nextUid] [.PANEL_STATE, .TNT_ERR, .SPL_SQS, .SPL_SQE, .SPL_ERRCNT, .PFX_CNT0, .ATN_CNT1, .PWR_STATUS])) ∧
  -- COMMAND_CELLS_MISSING (R151).
  (∀ (s : State) (tenant : TenantId) (sq : Fin 4) (seq : Fin 65536),
      MayChange (.commandCellsMissing tenant sq seq) s (pieces [.spools, .comps, .inflight] [.TNT_ERR, .SPL_SQS, .SPL_SQE, .SPL_ERRCNT, .PFX_CNT0, .ATN_CNT1])) ∧
  -- ANNOUNCED_CELL_MISSING (R151).
  (∀ (s : State) (tenant : TenantId) (sq : Fin 4),
      MayChange (.announcedCellMissing tenant sq) s (pieces [] [.SPL_SQE])) ∧
  -- COMPLETION_ENTRY_WRITE (R158).
  (∀ (s : State) (tenant : TenantId) (cq : Fin 2),
      MayChange (.completionEntryWrite tenant cq) s [.comps]) ∧
  -- COMPLETION_HEAD_READ (R159).
  (∀ (s : State) (host : HostId) (tenant : TenantId) (off : Fin 65536) (size : Nat),
      MayChange (.completionHeadRead host tenant off size) s (noted ++ pieces [.out, .uaLogAt, .denyLogAt, .comps] [.GLB_UA, .TNT_ERR, .HRT_DENY, .SPL_CQS])) ∧
  -- PROBE_BASE_WRITE (R271).
  (∀ (s : State) (host : HostId) (tenant : TenantId) (off : Fin 65536) (bytes : List Byte),
      MayChange (.probeBaseWrite host tenant off bytes) s (noted ++ pieces [.out, .denyLogAt, .pbase] [.TNT_ERR, .HRT_DENY])) ∧
  -- PRESENCE_PROBE (R272).
  (∀ (s : State) (host : HostId) (tenant : TenantId) (off : Fin 65536) (size : Nat) (port : Fin 4) (outstanding : Nat),
      MayChange (.presenceProbe host tenant off size port outstanding) s (noted ++ pieces [.out, .denyLogAt] [.TNT_ERR, .HRT_DENY, .PGT_PRB])) ∧
  -- NOP (R147).
  (∀ (s : State) (uid : Nat),
      MayChange (.nop uid) s (pieces [.comps, .inflight] [.TNT_ERR])) ∧
  -- LOOKUP (R200).
  (∀ (s : State) (uid : Nat) (hostMem : HostMem) (pick : Nat),
      MayChange (.lookup uid hostMem pick) s (noted ++ pieces [.out, .denyLogAt, .comps, .inflight, .chunks, .seqs, .snoops, .rlinks, .ringOut, .camReqs] [.TNT_ERR, .HRT_DENY, .PFX_CNT0, .PFX_CNT1, .CAM_CNT, .ATN_CNT1, .SNL_CASC, .CXL_CNT])) ∧
  -- EXTEND (R203).
  (∀ (s : State) (uid : Nat) (seqPick : Nat) (chunkPick : Nat),
      MayChange (.extend uid seqPick chunkPick) s (freed ++ pieces [.comps, .inflight, .seqs, .dropPaused] [.TNT_ERR, .PGT_TIER])) ∧
  -- APPEND (R243).
  (∀ (s : State) (uid : Nat) (hostMem : HostMem) (picks : List Nat),
      MayChange (.append uid hostMem picks) s (noted ++ freed ++ pieces [.out, .denyLogAt, .comps, .inflight, .parity, .dropPaused, .snoops, .serial, .serialTop, .keyRows] [.TNT_ERR, .HRT_DENY, .PGT_TIER, .CDR_CORRUPT, .SEC_NVS, .CXL_CNT])) ∧
  -- COMMIT (R204).
  (∀ (s : State) (uid : Nat) (hostMem : HostMem),
      MayChange (.commit uid hostMem) s (noted ++ freed ++ pieces [.out, .denyLogAt, .comps, .inflight, .seqs, .dropPaused, .outRem, .histPages, .snoops] [.TNT_ERR, .HRT_DENY, .PGT_TIER, .CDR_CSTAT0, .CDR_CSTAT1, .CDR_HSTAT, .CDR_HIST, .CXL_CNT])) ∧
  -- COMMIT_LINK (R206).
  (∀ (s : State) (uid : Nat) (picks : List Nat),
      MayChange (.commitLink uid picks) s (noted ++ freed ++ pieces [.comps, .inflight, .seqs, .parity, .dropPaused, .serial, .serialTop, .keyRows] [.TNT_ERR, .PFX_CNT1, .PGT_TIER, .CDR_CORRUPT, .SEC_NVS])) ∧
  -- FORK (R209).
  (∀ (s : State) (uid : Nat) (seqPick : Nat) (chunkPick : Nat),
      MayChange (.fork uid seqPick chunkPick) s (freed ++ pieces [.comps, .inflight, .seqs, .dropPaused] [.TNT_ERR, .PGT_TIER])) ∧
  -- RELEASE (R211).
  (∀ (s : State) (uid : Nat),
      MayChange (.release uid) s (freed ++ pieces [.comps, .inflight, .seqs, .dropPaused] [.TNT_ERR, .PGT_TIER])) ∧
  -- PIN (R213).
  (∀ (s : State) (uid : Nat),
      MayChange (.pin uid) s (freed ++ pieces [.comps, .inflight, .pins, .dropPaused] [.TNT_ERR, .PGT_TIER])) ∧
  -- UNPIN (R213).
  (∀ (s : State) (uid : Nat),
      MayChange (.unpin uid) s (freed ++ pieces [.comps, .inflight, .pins, .dropPaused] [.TNT_ERR, .PGT_TIER])) ∧
  -- DELIVER (R266).
  (∀ (s : State) (uid : Nat),
      MayChange (.deliver uid) s (noted ++ freed ++ pieces [.out, .comps, .inflight, .dropPaused] [.TNT_ERR, .PGT_TIER, .CDR_CORRUPT])) ∧
  -- DELIVER_COMPLETE (R269).
  (∀ (s : State) (uid : Nat) (readOk : Bool) (now : Nat),
      MayChange (.deliverComplete uid readOk now) s (freed ++ pieces [.dtime, .comps, .inflight, .dropPaused] [.TNT_ERR, .PGT_TIER, .PGT_DLV])) ∧
  -- DELIVERY_HOLD_EXPIRE (R266).
  (∀ (s : State) (handle : Fin 16777216) (layer : Fin 128) (now : Nat),
      MayChange (.deliveryHoldExpire handle layer now) s [.dtime, .chunks])

/-- Attention, near-memory, table and coding commands change only the pieces listed for each. Each command named answers a next state, and every field of the state and every register not in its list is as before: `noted` are the pieces that a LOG record may change, `freed` those that the release of what nothing refers to may change. A row that may be refused, or that changes most of the state, says so as: where it answers a next state, then the list. -/
def Obligations.AttentionAndNearMemoryFrames : Prop :=
  -- ATTEND (R369).
  (∀ (s : State) (uid : Nat),
      MayChange (.attend uid) s (noted ++ freed ++ pieces [.freeCtr, .out, .denyLogAt, .comps, .inflight, .dropPaused, .plainMem, .poisonLines, .orphanLines] [.TNT_ERR, .HRT_DENY, .PGT_TIER, .ATN_CNT1, .ATN_FAIL, .ATN_WAIT, .CXL_CNT])) ∧
  -- ATTEND_BATCH (R371).
  (∀ (s : State) (uid : Nat) (hostMem : HostMem),
      MayChange (.attendBatch uid hostMem) s (noted ++ freed ++ pieces [.freeCtr, .out, .denyLogAt, .comps, .inflight, .dropPaused, .plainMem, .poisonLines, .orphanLines, .snoops] [.TNT_ERR, .HRT_DENY, .PGT_TIER, .ATN_CNT1, .ATN_FAIL, .ATN_WAIT, .CXL_CNT])) ∧
  -- VERIFY (R374).
  (∀ (s : State) (uid : Nat),
      MayChange (.verify uid) s (noted ++ freed ++ pieces [.freeCtr, .out, .denyLogAt, .comps, .inflight, .dropPaused, .plainMem, .poisonLines, .orphanLines] [.TNT_ERR, .HRT_DENY, .PGT_TIER, .ATN_CNT1, .ATN_FAIL, .ATN_WAIT, .CXL_CNT])) ∧
  -- ATTENTION_TAKE (R363).
  (∀ (s : State) (uid : Nat) (hostMem : HostMem) (now : Nat),
      MayChange (.attentionTake uid hostMem now) s (noted ++ freed ++ pieces [.dtime, .freeCtr, .out, .comps, .inflight, .dropPaused, .plainMem, .poisonLines, .orphanLines, .snoops, .rlinks, .ringOut, .rctx] [.TNT_ERR, .PGT_TIER, .CDR_CORRUPT, .ATN_CNT1, .ATN_FAIL, .ATN_WAIT, .ATN_PANEL])) ∧
  -- TILE_BOUNDARY (R342).
  (∀ (s : State) (uid : Nat),
      MayChange (.tileBoundary uid) s (freed ++ pieces [.freeCtr, .out, .comps, .inflight, .dropPaused, .plainMem, .poisonLines, .orphanLines] [.TNT_ERR, .PGT_TIER, .ATN_CNT1, .ATN_ELEM, .ATN_FAIL, .ATN_WAIT, .ATN_PANEL])) ∧
  -- ATTENTION_COMPLETE (R365).
  (∀ (s : State) (uid : Nat) (readOk : Bool) (ringNs now : Nat),
      MayChange (.attentionComplete uid readOk ringNs now) s (noted ++ freed ++ pieces [.dtime, .freeCtr, .out, .events, .comps, .inflight, .dropPaused, .plainMem, .poisonLines, .orphanLines, .snoops, .rctx, .evLost] [.TNT_ERR, .PGT_TIER, .CDR_CORRUPT, .ATN_CNT0, .ATN_CNT1, .ATN_ELEM, .ATN_FAIL, .ATN_WAIT, .ATN_PANEL])) ∧
  -- RING_ATTEND (R415).
  (∀ (s : State) (uid : Nat),
      MayChange (.ringAttend uid) s (noted ++ freed ++ pieces [.freeCtr, .out, .denyLogAt, .comps, .inflight, .dropPaused, .plainMem, .poisonLines, .orphanLines, .rlinks, .ringOut, .rctx] [.TNT_ERR, .HRT_DENY, .PGT_TIER, .CDR_CORRUPT, .ATN_CNT1, .ATN_FAIL, .ATN_WAIT, .ATN_PANEL, .CXL_CNT])) ∧
  -- FILL (R460).
  (∀ (s : State) (uid : Nat),
      MayChange (.fill uid) s (noted ++ pieces [.freeCtr, .out, .denyLogAt, .comps, .inflight, .plainMem, .poisonLines, .orphanLines, .snoops] [.TNT_ERR, .HRT_DENY, .CXL_CNT])) ∧
  -- COPY (R461).
  (∀ (s : State) (uid : Nat),
      MayChange (.copy uid) s (noted ++ freed ++ pieces [.freeCtr, .out, .denyLogAt, .comps, .inflight, .dropPaused, .viewCache, .plainMem, .poisonLines, .orphanLines, .snoops] [.TNT_ERR, .HRT_DENY, .PGT_TIER, .PGT_VC, .CDR_CORRUPT, .CXL_CNT])) ∧
  -- COMPARE (R462).
  (∀ (s : State) (uid : Nat),
      MayChange (.compare uid) s (noted ++ pieces [.freeCtr, .out, .denyLogAt, .comps, .inflight, .plainMem, .poisonLines, .orphanLines, .snoops] [.TNT_ERR, .HRT_DENY, .CXL_CNT])) ∧
  -- REDUCE (R463).
  (∀ (s : State) (uid : Nat),
      MayChange (.reduce uid) s (noted ++ pieces [.freeCtr, .out, .denyLogAt, .comps, .inflight, .plainMem, .poisonLines, .orphanLines, .snoops] [.TNT_ERR, .HRT_DENY, .CXL_CNT])) ∧
  -- GATHER (R464).
  (∀ (s : State) (uid : Nat),
      MayChange (.gather uid) s (noted ++ freed ++ pieces [.freeCtr, .out, .denyLogAt, .comps, .inflight, .dropPaused, .viewCache, .plainMem, .poisonLines, .orphanLines, .snoops] [.TNT_ERR, .HRT_DENY, .PGT_TIER, .PGT_VC, .CDR_CORRUPT, .CXL_CNT])) ∧
  -- TABLE_LOAD (R318).
  (∀ (s : State) (uid : Nat),
      MayChange (.tableLoad uid) s (freed ++ pieces [.comps, .inflight, .dropPaused] [.TNT_ERR, .PGT_TIER])) ∧
  -- TABLE_RETIRE (R320).
  (∀ (s : State) (uid : Nat),
      MayChange (.tableRetire uid) s (freed ++ pieces [.comps, .inflight, .dropPaused] [.TNT_ERR, .PGT_TIER])) ∧
  -- FENCE (R409).
  (∀ (s : State) (uid : Nat),
      MayChange (.fence uid) s (pieces [.comps, .inflight] [.TNT_ERR])) ∧
  -- PAGE_REENCODE (R321).
  (∀ (s : State) (handle : Fin 16777216) (layer : Fin 128) (picks : List Nat),
      MayChange (.pageReencode handle layer picks) s (noted ++ freed ++ pieces [.out, .events, .parity, .dropPaused, .outRem, .evLost, .units, .streams, .serial, .serialTop, .keyRows, .keyRepl, .replaceN] [.PGT_TIER, .CDR_CSTAT0, .CDR_CSTAT1, .CDR_CORRUPT, .FLT_GEOM, .FLT_CAP, .FLT_SPACE, .FLT_WEAR, .FLT_SPARE, .FLT_SHRED, .FLT_CH, .RAS_STATUS, .RAS_REPL, .SEC_NVS])) ∧
  -- NEAR_MEMORY_COMPLETE (R465).
  (∀ (s : State) (uid : Nat) (readOk : Bool),
      MayChange (.nearMemoryComplete uid readOk) s (pieces [.comps, .inflight] [.TNT_ERR]))

/-- Tenant actions, denials and bandwidth events change only the pieces listed for each. Each command named answers a next state, and every field of the state and every register not in its list is as before: `noted` are the pieces that a LOG record may change, `freed` those that the release of what nothing refers to may change. A row that may be refused, or that changes most of the state, says so as: where it answers a next state, then the list. -/
def Obligations.TenantAndBandwidthFrames : Prop :=
  -- CONFIGURE (R107).
  (∀ (s : State) (tenant : TenantId) (value : Word),
      MayChange (.configure tenant value) s (pieces [.freeCtr, .comps, .nsKeys, .keyRows, .heldActs] [.TNT_CTRL, .TNT_STATE, .TNT_BIND, .TNT_GRP, .TNT_QUOTA, .TNT_CRED, .TNT_USE0, .TNT_USE1, .TNT_ERR, .SPL_CFG, .SEC_NVS, .SEC_TSTAT])) ∧
  -- TENANT_ACTIVATE (R107).
  (∀ (s : State) (tenant : TenantId) (value : Word),
      MayChange (.tenantActivate tenant value) s (pieces [.spools, .comps, .pbase] [.TNT_CTRL, .TNT_STATE, .SPL_SQS, .SPL_SQE, .SPL_CQS])) ∧
  -- DISABLE (R130).
  (∀ (s : State) (tenant : TenantId) (value : Word),
      MayChange (.disable tenant value) s (noted ++ pieces [.out, .events, .spools, .comps, .inflight, .plainMem, .poisonLines, .orphanLines, .snoopFilter, .snoops, .lineQ, .rctx, .gws, .qps, .evLost] [.TNT_CTRL, .TNT_STATE, .TNT_ERR, .SPL_SQS, .SPL_SQE, .PFX_CNT0, .ATN_CNT1, .SNL_CTX_ST, .CXL_SF, .CXL_CNT, .GW_ST])) ∧
  -- ENABLE (R107).
  (∀ (s : State) (tenant : TenantId) (value : Word),
      MayChange (.enable tenant value) s (pieces [.spools, .comps, .pbase] [.TNT_CTRL, .TNT_STATE, .SPL_SQS, .SPL_SQE, .SPL_CQS])) ∧
  -- SHRED (R563).
  (∀ (s : State) (tenant : TenantId) (value : Word),
      MayChange (.shred tenant value) s (noted ++ freed ++ pieces [.out, .events, .seqs, .pins, .nsKeys, .dropPaused, .viewCache, .viewWaits, .qpKeys, .evLost, .units, .eraseLists, .saved, .dataKeys, .keyRows, .keyRepl, .replaceN] [.TNT_CTRL, .TNT_STATE, .PGT_TIER, .PGT_VC, .CDR_CORRUPT, .FLT_GEOM, .FLT_CAP, .FLT_SPACE, .FLT_WEAR, .FLT_SPARE, .FLT_SHRED, .FLT_CH, .RAS_STATUS, .RAS_REPL, .SEC_NVS, .SEC_TSTAT, .PWR_STATUS])) ∧
  -- UNCONFIGURE (R107).
  (∀ (s : State) (tenant : TenantId) (value : Word),
      MayChange (.unconfigure tenant value) s (pieces [.nsKeys, .dataKeys, .keyRows] [.TNT_CTRL, .TNT_STATE, .SEC_NVS, .SEC_TSTAT])) ∧
  -- DRAIN_COMPLETE (R131).
  (∀ (s : State) (tenant : TenantId),
      MayChange (.drainComplete tenant) s (pieces [.spools, .comps, .pbase, .tenantResets] [.TNT_STATE, .SPL_SQS, .SPL_SQE, .SPL_CQS, .PWR_RST])) ∧
  -- SHRED_COMPLETE (R563).
  (∀ (s : State) (tenant : TenantId),
      MayChange (.shredComplete tenant) s (pieces [.eraseLists, .sealReq, .keyRows] [.TNT_STATE, .SEC_NVS, .SEC_TSTAT])) ∧
  -- GROUP_CREATE (R110).
  (∀ (s : State) (group : GroupId) (value : Word),
      MayChange (.groupCreate group value) s (pieces [.freeCtr, .nsKeys, .dataKeys, .keyRows] [.SG_CFG, .SEC_NVS, .SEC_GSTAT])) ∧
  -- GROUP_DELETE (R110).
  (∀ (s : State) (group : GroupId) (value : Word),
      MayChange (.groupDelete group value) s (pieces [.nsKeys, .dataKeys, .keyRows] [.SG_CFG, .SEC_NVS, .SEC_GSTAT])) ∧
  -- HRT_SYNC (R117).
  (∀ (s : State),
      MayChange .hrtSync s (pieces [.nextUid, .syncAt] [.HRT_SYNC])) ∧
  -- HRT_SYNC_DONE (R117).
  (∀ (s : State),
      MayChange .hrtSyncDone s (pieces [] [.HRT_SYNC])) ∧
  -- CXL_MEM_REQUEST_ADMIT (R126).
  (∀ (s : State) (host : HostId) (port : Fin 4) (req hpa : Nat) (now : Nat),
      MayChange (.cxlMemRequestAdmit host port req hpa now) s [.dtime, .out, .buckets]) ∧
  -- HELD_REQUEST_RELEASE (R126).
  (∀ (s : State) (host : HostId) (now : Nat),
      MayChange (.heldRequestRelease host now) s [.dtime, .out, .buckets]) ∧
  -- WHEEL_SLOT (R123).
  (∀ (s : State) (mc : Fin 12) (arrivals : List Traffic) (now : Nat),
      MayChange (.wheelSlot mc arrivals now) s [.dtime, .out, .wheels]) ∧
  -- DEVLOAD_WINDOW_END (R128).
  (∀ (s : State) (now : Nat),
      MayChange (.devloadWindowEnd now) s [.dtime, .buckets, .wheels, .devLevels])

/-- CXL.mem requests, windows, gateways, extents and link events change only the pieces listed for each. Each command named answers a next state, and every field of the state and every register not in its list is as before: `noted` are the pieces that a LOG record may change, `freed` those that the release of what nothing refers to may change. A row that may be refused, or that changes most of the state, says so as: where it answers a next state, then the list. -/
def Obligations.CxlFrames : Prop :=
  -- PLAIN_READ_SHARED (R453).
  (∀ (s : State) (host : HostId) (addr : Nat),
      MayChange (.plainReadShared host addr) s (noted ++ pieces [.out, .events, .denyLogAt, .plainMem, .poisonLines, .orphanLines, .snoopFilter, .snoops, .lineQ, .unbackedLogAt, .evLost] [.TNT_ERR, .HRT_DENY, .PWR_STATUS, .CXL_SF, .CXL_CNT])) ∧
  -- PLAIN_READ_EXCLUSIVE (R453).
  (∀ (s : State) (host : HostId) (addr : Nat),
      MayChange (.plainReadExclusive host addr) s (noted ++ pieces [.out, .events, .denyLogAt, .plainMem, .poisonLines, .orphanLines, .snoopFilter, .snoops, .lineQ, .unbackedLogAt, .evLost] [.TNT_ERR, .HRT_DENY, .PWR_STATUS, .CXL_SF, .CXL_CNT])) ∧
  -- PLAIN_READ_CURRENT (R453).
  (∀ (s : State) (host : HostId) (addr : Nat),
      MayChange (.plainReadCurrent host addr) s (noted ++ pieces [.out, .events, .denyLogAt, .plainMem, .poisonLines, .orphanLines, .snoopFilter, .snoops, .lineQ, .unbackedLogAt, .evLost] [.TNT_ERR, .HRT_DENY, .PWR_STATUS, .CXL_SF, .CXL_CNT])) ∧
  -- PLAIN_WRITE (R453).
  (∀ (s : State) (host : HostId) (addr : Nat) (bytes : List (Option Byte)),
      MayChange (.plainWrite host addr bytes) s (noted ++ pieces [.out, .events, .denyLogAt, .plainMem, .poisonLines, .orphanLines, .snoopFilter, .snoops, .lineQ, .unbackedLogAt, .evLost] [.TNT_ERR, .HRT_DENY, .PWR_STATUS, .CXL_SF, .CXL_CNT])) ∧
  -- PLAIN_WRITEBACK (R453).
  (∀ (s : State) (host : HostId) (addr : Nat) (bytes : List Byte),
      MayChange (.plainWriteback host addr bytes) s (noted ++ pieces [.out, .events, .denyLogAt, .plainMem, .poisonLines, .orphanLines, .snoopFilter, .unbackedLogAt, .evLost] [.TNT_ERR, .HRT_DENY, .PWR_STATUS, .CXL_CNT])) ∧
  -- BISNP_RESPONSE (R455).
  (∀ (s : State) (host : HostId) (line : Nat) (data : Option (List Byte)),
      MayChange (.bisnpResponse host line data) s (noted ++ pieces [.out, .events, .denyLogAt, .inflight, .plainMem, .poisonLines, .orphanLines, .snoopFilter, .snoops, .lineQ, .curLog, .rlinks, .ringOut, .rctx, .ringHeld, .gws, .qps, .shOut, .atsCache, .evLost] [.TNT_ERR, .HRT_DENY, .SHT_CNT0, .SHT_CNT1, .CXL_SF, .CXL_CNT, .GW_ST])) ∧
  -- VIEW_LOAD (R246).
  (∀ (s : State) (host : HostId) (addr : Nat) (size : Nat),
      MayChange (.viewLoad host addr size) s (noted ++ freed ++ pieces [.out, .denyLogAt, .dropPaused, .viewCache, .viewWaits] [.TNT_ERR, .HRT_DENY, .PGT_TIER, .PGT_VC, .CDR_CORRUPT, .PWR_STATUS, .CXL_CNT])) ∧
  -- VIEW_STORE (R246).
  (∀ (s : State) (host : HostId) (addr : Nat) (bytes : List (Option Byte)) (picks : List Nat),
      MayChange (.viewStore host addr bytes picks) s (noted ++ freed ++ pieces [.out, .denyLogAt, .parity, .dropPaused, .viewSlots, .serial, .serialTop, .keyRows] [.TNT_ERR, .HRT_DENY, .PGT_TIER, .CDR_CORRUPT, .SEC_NVS, .PWR_STATUS, .CXL_CNT])) ∧
  -- VIEW_SLOT_STORE (R449).
  (∀ (s : State) (host : HostId) (addr : Nat) (value : Word),
      MayChange (.viewSlotStore host addr value) s (noted ++ freed ++ pieces [.out, .denyLogAt, .parity, .dropPaused, .viewSlots, .serial, .serialTop, .keyRows] [.TNT_ERR, .HRT_DENY, .PGT_TIER, .CDR_CORRUPT, .SEC_NVS, .PWR_STATUS, .CXL_CNT])) ∧
  -- VIEW_WINDOW_CONFIG (R448).
  (∀ (s : State) (tenant : TenantId) (value : Word),
      MayChange (.viewWindowConfig tenant value) s (pieces [.viewSlots] [.CXL_VW])) ∧
  -- GATEWAY_STORE (R467).
  (∀ (s : State) (host : HostId) (addr : Nat) (bytes : List (Option Byte)),
      MayChange (.gatewayStore host addr bytes) s (noted ++ pieces [.out, .events, .denyLogAt, .plainMem, .poisonLines, .orphanLines, .snoopFilter, .snoops, .lineQ, .gws, .qps, .shOut, .evLost] [.TNT_ERR, .HRT_DENY, .SHT_CNT0, .SHT_CNT1, .CXL_SF, .CXL_CNT, .GW_ST])) ∧
  -- GATEWAY_DOORBELL (R468).
  (∀ (s : State) (host : HostId) (addr : Nat) (value : Word),
      MayChange (.gatewayDoorbell host addr value) s (noted ++ pieces [.out, .events, .denyLogAt, .plainMem, .poisonLines, .orphanLines, .snoopFilter, .snoops, .lineQ, .gws, .qps, .shOut, .evLost] [.TNT_ERR, .HRT_DENY, .SHT_CNT0, .SHT_CNT1, .CXL_SF, .CXL_CNT, .GW_ST])) ∧
  -- GATEWAY_FLUSH_DONE (R468).
  (∀ (s : State) (gateway : Fin 64),
      MayChange (.gatewayFlushDone gateway) s (noted ++ pieces [.out, .events, .plainMem, .poisonLines, .orphanLines, .snoopFilter, .snoops, .lineQ, .gws, .qps, .shOut, .evLost] [.SHT_CNT0, .SHT_CNT1, .CXL_SF, .CXL_CNT, .GW_ST])) ∧
  -- GATEWAY_BUFFER_TIMEOUT (R467).
  (∀ (s : State) (gateway : Fin 64) (page now : Nat),
      MayChange (.gatewayBufferTimeout gateway page now) s (noted ++ pieces [.dtime, .out, .events, .plainMem, .poisonLines, .orphanLines, .snoopFilter, .snoops, .lineQ, .gws, .qps, .shOut, .evLost] [.SHT_CNT0, .SHT_CNT1, .CXL_SF, .CXL_CNT, .GW_ST])) ∧
  -- GATEWAY_LOAD (R469).
  (∀ (s : State) (host : HostId) (addr size : Nat),
      MayChange (.gatewayLoad host addr size) s (noted ++ pieces [.out, .denyLogAt] [.TNT_ERR, .HRT_DENY, .CXL_CNT])) ∧
  -- GATEWAY_CONFIG (R484).
  (∀ (s : State) (gateway : Fin 64) (reg : Fin 3) (value : Word),
      MayChange (.gatewayConfig gateway reg value) s (pieces [.gws] [.GW_CTL, .GW_RADDR, .GW_FLADDR, .GW_ST])) ∧
  -- DC_ADD_EXTENT (R446).
  (∀ (s : State) (region : Fin 3) (idx : Nat) (tag : Wide) (hosts : List Nat),
      MayChange (.dcAddExtent region idx tag hosts) s (noted ++ pieces [.out, .events, .spools, .comps, .inflight, .plainMem, .poisonLines, .orphanLines, .extents, .released, .snoopFilter, .snoops, .lineQ, .rctx, .gws, .qps, .evLost, .tdis] [.TNT_STATE, .TNT_ERR, .SPL_SQS, .SPL_SQE, .PFX_CNT0, .ATN_CNT1, .SNL_CTX_ST, .SEC_TSTAT, .CXL_SF, .CXL_CNT, .GW_ST])) ∧
  -- PLAIN_EXTENT_READY (R446).
  (∀ (s : State) (idx : Nat),
      MayChange (.plainExtentReady idx) s (noted ++ pieces [.out, .events, .spools, .comps, .inflight, .plainMem, .poisonLines, .orphanLines, .extents, .snoopFilter, .snoops, .lineQ, .rctx, .gws, .qps, .evLost, .tdis] [.TNT_STATE, .TNT_ERR, .SPL_SQS, .SPL_SQE, .PFX_CNT0, .ATN_CNT1, .SNL_CTX_ST, .SEC_TSTAT, .CXL_SF, .CXL_CNT, .GW_ST])) ∧
  -- PLAIN_EXTENT_ADD_TIMEOUT (R446).
  (∀ (s : State) (idx now : Nat),
      MayChange (.plainExtentAddTimeout idx now) s [.dtime, .out, .extents]) ∧
  -- DC_RELEASE_EXTENT (R447).
  (∀ (s : State) (region : Fin 3) (idx : Nat) (host : HostId),
      MayChange (.dcReleaseExtent region idx host) s [.out, .extents, .released, .snoops]) ∧
  -- DC_RELEASE_COMPLETE (R447).
  (∀ (s : State) (region : Fin 3) (idx : Nat),
      MayChange (.dcReleaseComplete region idx) s (noted ++ pieces [.out, .events, .spools, .comps, .inflight, .plainMem, .poisonLines, .orphanLines, .extents, .snoopFilter, .snoops, .lineQ, .rctx, .gws, .qps, .evLost, .tdis] [.TNT_STATE, .TNT_ERR, .SPL_SQS, .SPL_SQE, .PFX_CNT0, .ATN_CNT1, .SNL_CTX_ST, .SEC_TSTAT, .CXL_SF, .CXL_CNT, .GW_ST])) ∧
  -- CXL_LINK_TRAIN (R436).
  (∀ (s : State) (link : Fin 8) (rate : Fin 3) (width : Fin 4) (flitOk : Bool) (decoders : List (Nat × HdmDecoder)),
      MayChange (.cxlLinkTrain link rate width flitOk decoders) s (noted ++ pieces [.out, .events, .spools, .comps, .inflight, .plainMem, .poisonLines, .orphanLines, .snoopFilter, .snoops, .lineQ, .lostHosts, .rctx, .gws, .qps, .linkIn, .hdm, .evLost, .tdis, .ideKeys] [.TNT_STATE, .TNT_ERR, .SPL_SQS, .SPL_SQE, .PFX_CNT0, .ATN_CNT1, .SNL_CTX_ST, .SEC_TSTAT, .CXL_LINKST, .CXL_SF, .CXL_CNT, .GW_ST])) ∧
  -- HOST_LOST (R456).
  (∀ (s : State) (host : HostId) (byLink : Bool),
      MayChange (.hostLost host byLink) s (noted ++ pieces [.out, .events, .denyLogAt, .buckets, .spools, .comps, .inflight, .viewWaits, .plainMem, .poisonLines, .orphanLines, .snoopFilter, .snoops, .lineQ, .lostHosts, .curLog, .rlinks, .ringOut, .rctx, .ringHeld, .gws, .qps, .shOut, .atsCache, .orphanPend, .hdm, .evLost, .ideKeys] [.TNT_STATE, .TNT_ERR, .HRT_DENY, .SPL_SQS, .SPL_SQE, .PFX_CNT0, .ATN_CNT1, .SNL_CTX_ST, .SHT_CNT0, .SHT_CNT1, .SEC_TSTAT, .CXL_LINKST, .CXL_SF, .CXL_ORPH, .CXL_CNT, .GW_ST])) ∧
  -- ORPHAN_SCAN_COMPLETE (R458).
  (∀ (s : State),
      MayChange .orphanScanComplete s (pieces [.out, .events, .orphanLog, .orphanPend, .evLost] [.CXL_ORPH])) ∧
  -- ORPHAN_LOG_CLEAR (R481).
  (∀ (s : State),
      MayChange .orphanLogClear s (pieces [.orphanLog] [.CXL_ORPH])) ∧
  -- ORPHAN_LOG_QUERY (R481).
  (∀ (s : State) (value : Word),
      MayChange (.orphanLogQuery value) s (pieces [] [.CXL_ORPHQ, .CXL_ORPHE0, .CXL_ORPHE1])) ∧
  -- UNALLOCATED_ACCESS (R725).
  (∀ (s : State) (bar2 wr : Bool) (host : HostId) (off : Fin 67108864) (size : Nat),
      MayChange (.unallocatedAccess bar2 wr host off size) s (noted ++ pieces [.out, .uaLogAt, .denyLogAt] [.GLB_UA, .TNT_ERR, .HRT_DENY])) ∧
  -- FM_LD_BIND (R456).
  (∀ (s : State) (host : HostId),
      MayChange (.fmLdBind host) s [.lostHosts])

/-- Register accesses, queries, steward work and pattern commands change only the pieces listed for each. Each command named answers a next state, and every field of the state and every register not in its list is as before: `noted` are the pieces that a LOG record may change, `freed` those that the release of what nothing refers to may change. A row that may be refused, or that changes most of the state, says so as: where it answers a next state, then the list. -/
def Obligations.RegisterStewardAndPatternFrames : Prop :=
  -- REGISTER_WRITE (R17).
  (∀ (s : State) (off size : Nat) (value : Word) (t : State),
      exec (.registerWrite off size value) s = .next t → 
        Unchanged [.pending, .fuses, .geoUpd, .denyLogAt, .reconTimes, .reconLog, .staging, .pattern, .bootA, .bootB, .load, .bg, .buckets, .wheels, .devLevels, .rotor, .cacheSf, .metaSf, .outRem, .rowN, .extents, .released, .lostHosts, .unbackedLogAt, .curLog, .ringOut, .ringHeld, .camReqs, .shOut, .pfcUntil, .atsCache, .orphanPend, .linkIn, .hdm, .evPolicy, .flash, .victims, .journalUnit, .slcTarget, .checkpointAt, .copiedCw, .sessions, .signed, .ideKeys, .sealReq, .memKey, .serial, .serialTop, .nonce, .deviceCerts, .ownerCerts, .lcTarget, .slotA, .slotB, .fwRun, .measured, .fwWriter, .calib, .capDown, .ecoDown, .avsMiss, .lastSlow, .jtag] s t) ∧
  -- REGISTER_READ_CLEAR (R723).
  (∀ (s : State) (off size : Nat) (t : State),
      exec (.registerReadClear off size) s = .next t → 
        Unchanged [.pending, .dtime, .freeCtr, .fuses, .events, .geoGen, .geoUpd, .denyLogAt, .stewards, .reconTimes, .reconLog, .preTest, .rebuildAt, .rebuildWarned, .staging, .pattern, .bootA, .bootB, .load, .bg, .cores, .geom, .buckets, .wheels, .devLevels, .spools, .comps, .rotor, .inflight, .nextUid, .chunks, .seqs, .pins, .nsKeys, .frames, .epochs, .images, .cacheSf, .metaSf, .parity, .dropPaused, .rowN, .gens, .viewCache, .histPages, .viewSlots, .viewWaits, .pbase, .syncAt, .plainMem, .poisonLines, .orphanLines, .orphanLog, .extents, .released, .snoopFilter, .snoops, .lineQ, .lostHosts, .unbackedLogAt, .curLog, .rlinks, .ringOut, .rctx, .ringHeld, .camReqs, .gws, .qps, .qpKeys, .shOut, .pfcUntil, .atsCache, .orphanPend, .linkIn, .hdm, .evLost, .evPolicy, .flash, .units, .streams, .eraseLists, .victims, .journalUnit, .slcTarget, .checkpointAt, .copiedCw, .saved, .tdis, .sessions, .signed, .ideKeys, .dataKeys, .sealReq, .memKey, .serial, .serialTop, .keyRows, .nonce, .deviceCerts, .ownerCerts, .lcTarget, .slotA, .slotB, .fwRun, .measured, .fwWriter, .calib, .heldActs, .tenantResets, .capDown, .ecoDown, .avsMiss, .lastSlow, .keyRepl, .replaceN, .power, .jtag] s t) ∧
  -- LOCK_SET (R730).
  (∀ (s : State) (value : Word),
      MayChange (.lockSet value) s (pieces [] [.GLB])) ∧
  -- LOG_CLEAR (R741).
  (∀ (s : State) (value : Word),
      MayChange (.logClear value) s (pieces [.log] [.LOG_PTR])) ∧
  -- LOG_READ_INDEX (R741).
  (∀ (s : State) (value : Word),
      MayChange (.logReadIndex value) s (pieces [] [.LOG_RDIDX, .LOG_REC])) ∧
  -- NODE_QUERY (R225).
  (∀ (s : State) (value : Word),
      MayChange (.nodeQuery value) s (pieces [] [.PFX_NODEQ, .PFX_NODE])) ∧
  -- PAGE_QUERY (R286).
  (∀ (s : State) (value : Word),
      MayChange (.pageQuery value) s (pieces [] [.PGT_PAGEQ, .PGT_PAGE0, .PGT_PAGE1])) ∧
  -- GENERATION_QUERY (R331).
  (∀ (s : State) (value : Word),
      MayChange (.generationQuery value) s (pieces [] [.CDR_GENQ, .CDR_GENS, .CDR_GREF])) ∧
  -- HISTOGRAM_CONFIG (R338).
  (∀ (s : State) (value : Word),
      MayChange (.histogramConfig value) s (pieces [.histPages] [.CDR_HCFG, .CDR_HSTAT, .CDR_HIST])) ∧
  -- COUNTER_DECAY (R249).
  (∀ (s : State),
      MayChange .counterDecay s (pieces [.chunks] [.PGT_CNT1])) ∧
  -- DEMOTE_PAGE (R251).
  (∀ (s : State) (holder : Option Nat),
      MayChange (.demotePage holder) s (freed ++ pieces [.dropPaused] [.PGT_TIER, .PGT_CNT0])) ∧
  -- STASH_PAGE (R252).
  (∀ (s : State) (handle : Fin 16777216) (layer : Fin 128),
      MayChange (.stashPage handle layer) s (noted ++ pieces [.out, .events, .chunks, .images, .evLost, .units, .streams, .keyRepl, .replaceN] [.FLT_GEOM, .FLT_CAP, .FLT_SPACE, .FLT_WEAR, .FLT_SPARE, .FLT_SHRED, .FLT_CH, .RAS_STATUS, .RAS_REPL])) ∧
  -- STASH_DURABLE (R544).
  (∀ (s : State) (handle : Fin 16777216) (layer : Fin 128),
      MayChange (.stashDurable handle layer) s (pieces [.chunks, .dropPaused] [.PGT_TIER])) ∧
  -- STAGING_COMPLETE (R552).
  (∀ (s : State) (handle : Fin 16777216) (layer : Fin 128) (picks : List Nat) (readOk : Bool),
      MayChange (.stagingComplete handle layer picks readOk) s (noted ++ freed ++ pieces [.out, .inflight, .parity, .dropPaused, .viewCache, .viewWaits, .serial, .serialTop, .keyRows] [.PGT_TIER, .PGT_CNT0, .PGT_VC, .CDR_CORRUPT, .ATN_WAIT, .SEC_NVS, .PWR_STATUS])) ∧
  -- MAKE_HOLLOW (R258).
  (∀ (s : State) (holder : Option Nat),
      MayChange (.makeHollow holder) s (freed ++ pieces [.dropPaused] [.PGT_TIER, .PGT_CNT1])) ∧
  -- UNLINK_HOLLOW (R254).
  (∀ (s : State),
      MayChange .unlinkHollow s (freed ++ pieces [.dropPaused] [.PGT_TIER])) ∧
  -- QUOTA_WAIT_TIMEOUT (R112).
  (∀ (s : State) (uid : Nat),
      MayChange (.quotaWaitTimeout uid) s (freed ++ pieces [.comps, .inflight, .pins, .dropPaused] [.TNT_ERR, .PGT_TIER])) ∧
  -- SPACE_WAIT_TIMEOUT (R257).
  (∀ (s : State) (uid : Nat),
      MayChange (.spaceWaitTimeout uid) s (freed ++ pieces [.comps, .inflight, .pins, .dropPaused] [.TNT_ERR, .PGT_TIER])) ∧
  -- FRAME_COMPACT (R239).
  (∀ (s : State) (base : Nat) (picks : List Nat),
      MayChange (.frameCompact base picks) s (freed ++ pieces [.parity, .dropPaused, .serial, .serialTop, .keyRows] [.PGT_TIER, .SEC_NVS])) ∧
  -- PATTERN_STAGE (R74).
  (∀ (s : State) (fn : Fin 17) (word0 word1 : Word) (data : List Byte),
      MayChange (.patternStage fn word0 word1 data) s (noted ++ pieces [.out, .geoGen, .staging, .load, .bg] [.PAT_STATUS, .PAT_PROGRESS])) ∧
  -- PATTERN_ACTIVATE (R76).
  (∀ (s : State) (fn : Fin 17) (word0 : Word),
      MayChange (.patternActivate fn word0) s (noted ++ pieces [.out, .geoGen, .staging, .load, .bg] [.PAT_STATUS, .PAT_PROGRESS])) ∧
  -- PATTERN_ABORT (R74).
  (∀ (s : State) (fn : Fin 17) (word0 : Word),
      MayChange (.patternAbort fn word0) s (noted ++ pieces [.out, .geoGen, .staging, .load, .bg] [.PAT_STATUS, .PAT_PROGRESS])) ∧
  -- PATTERN_QUERY (R74).
  (∀ (s : State) (fn : Fin 17) (word0 : Word),
      MayChange (.patternQuery fn word0) s (noted ++ pieces [.out, .geoGen, .staging, .load, .bg] [.PAT_STATUS, .PAT_PROGRESS])) ∧
  -- PATTERN_PROGRAM_DONE (R80).
  (∀ (s : State) (ok : Bool),
      MayChange (.patternProgramDone ok) s (noted ++ freed ++ pieces [.freeCtr, .out, .events, .geoGen, .pattern, .load, .bg, .cores, .comps, .inflight, .nsKeys, .dropPaused, .rctx, .qpKeys, .evLost, .dataKeys, .sealReq, .keyRows, .measured, .heldActs, .lastSlow, .keyRepl, .replaceN] [.PAT_STATUS, .PAT_VERSION, .PAT_PROGRESS, .PAT_ERRDET, .PAT_EVT, .PAT_MEAS, .PAT_BASE, .PANEL_STATE, .PANEL_RPD, .TNT_STATE, .TNT_BIND, .TNT_GRP, .TNT_QUOTA, .TNT_CRED, .TNT_USE0, .TNT_USE1, .TNT_ERR, .SPL_CFG, .PGT_TIER, .SNL_CTX_ST, .RAS_STATUS, .RAS_REPL, .SEC_NVS, .SEC_TSTAT, .SEC_GSTAT, .PWR_STATUS, .PWR_CLK])) ∧
  -- PANEL_SWAP_STAGE (R74).
  (∀ (s : State) (fn : Fin 17) (word0 word1 : Word) (data : List Byte),
      MayChange (.panelSwapStage fn word0 word1 data) s (noted ++ pieces [.out, .geoGen, .staging, .load, .bg] [.PAT_STATUS, .PAT_PROGRESS])) ∧
  -- PANEL_SWAP_ACTIVATE (R83).
  (∀ (s : State) (fn : Fin 17) (word0 : Word),
      MayChange (.panelSwapActivate fn word0) s (noted ++ pieces [.out, .geoGen, .staging, .load, .bg] [.PAT_STATUS, .PAT_PROGRESS])) ∧
  -- PANEL_SWAP_ABORT (R74).
  (∀ (s : State) (fn : Fin 17) (word0 : Word),
      MayChange (.panelSwapAbort fn word0) s (noted ++ pieces [.out, .geoGen, .staging, .load, .bg] [.PAT_STATUS, .PAT_PROGRESS])) ∧
  -- PANEL_SWAP_QUERY (R74).
  (∀ (s : State) (fn : Fin 17) (word0 : Word),
      MayChange (.panelSwapQuery fn word0) s (noted ++ pieces [.out, .geoGen, .staging, .load, .bg] [.PAT_STATUS, .PAT_PROGRESS])) ∧
  -- PANEL_SWAP_PROGRAM_DONE (R85).
  (∀ (s : State) (ok : Bool),
      MayChange (.panelSwapProgramDone ok) s (noted ++ freed ++ pieces [.freeCtr, .out, .events, .geoGen, .pattern, .load, .bg, .cores, .comps, .inflight, .nsKeys, .dropPaused, .rctx, .qpKeys, .evLost, .dataKeys, .sealReq, .keyRows, .measured, .heldActs, .keyRepl, .replaceN] [.PAT_STATUS, .PAT_PROGRESS, .PAT_ERRDET, .PAT_EVT, .PAT_MEAS, .PANEL_STATE, .PANEL_RPD, .TNT_STATE, .TNT_BIND, .TNT_GRP, .TNT_QUOTA, .TNT_CRED, .TNT_USE0, .TNT_USE1, .TNT_ERR, .SPL_CFG, .PGT_TIER, .SNL_CTX_ST, .RAS_STATUS, .RAS_REPL, .SEC_NVS, .SEC_TSTAT, .SEC_GSTAT])) ∧
  -- PATTERN_PERSIST_DONE (R71).
  (∀ (s : State),
      MayChange .patternPersistDone s (pieces [.bootA, .bootB, .keyRows] [.PAT_STATUS, .PAT_EVT, .SEC_PATFLOOR, .SEC_NVS]))

/-- Ring links, messages, searches and contexts change only the pieces listed for each. Each command named answers a next state, and every field of the state and every register not in its list is as before: `noted` are the pieces that a LOG record may change, `freed` those that the release of what nothing refers to may change. A row that may be refused, or that changes most of the state, says so as: where it answers a next state, then the list. -/
def Obligations.RingFrames : Prop :=
  -- RING_ENABLE (R391).
  (∀ (s : State) (value : Word),
      MayChange (.ringEnable value) s (pieces [.rlinks] [.SNL_CFG, .SNL_RING, .SNL_LINK, .SNL_CASC])) ∧
  -- RING_LINK_TRAINED (R391).
  (∀ (s : State) (link : Fin 2) (width : Fin 3) (peerId : BitVec 16) (peerPos peerNmem : Fin 16) (verOk : Bool),
      MayChange (.ringLinkTrained link width peerId peerPos peerNmem verOk) s (pieces [.out, .rlinks, .ringOut] [.SNL_RING, .SNL_LINK])) ∧
  -- RING_LINK_DOWN (R392).
  (∀ (s : State) (link : Fin 2) (retraining : Bool),
      MayChange (.ringLinkDown link retraining) s (pieces [] [.SNL_RING, .SNL_LINK, .SNL_LERR, .SNL_CASC])) ∧
  -- RING_CABLE_PRESENCE (R717).
  (∀ (s : State) (link : Fin 2) (present : Bool),
      MayChange (.ringCablePresence link present) s (pieces [.rlinks] [.SNL_RING, .SNL_LINK, .SNL_CASC])) ∧
  -- RING_DATA_FRAME (R388).
  (∀ (s : State) (link : Fin 2) (frame : List Byte),
      MayChange (.ringDataFrame link frame) s (pieces [.out, .rlinks, .ringOut] [.SNL_RING, .SNL_LINK, .SNL_LERR, .SNL_CASC])) ∧
  -- RING_CONTROL_FRAME (R388).
  (∀ (s : State) (link : Fin 2) (frame : List Byte) (credits : List Nat) (replay : Option (Fin 4096)),
      MayChange (.ringControlFrame link frame credits replay) s (pieces [.out, .rlinks, .ringOut] [.SNL_RING, .SNL_LINK, .SNL_LERR, .SNL_CASC])) ∧
  -- RING_CHECK (R392).
  (∀ (s : State) (src last : Fin 16) (ok : Bool),
      MayChange (.ringCheck src last ok) s (pieces [.out, .rlinks, .ringOut] [.SNL_RING])) ∧
  -- GET_REQ (R406).
  (∀ (s : State) (link : Fin 2) (msg : RingMsg),
      MayChange (.getReq link msg) s (noted ++ pieces [.out, .denyLogAt, .nextUid, .plainMem, .poisonLines, .orphanLines, .snoops, .curLog, .rlinks, .ringOut, .rctx, .ringHeld] [.TNT_ERR, .HRT_DENY, .PWR_STATUS, .CXL_CNT])) ∧
  -- GET_DATA (R406).
  (∀ (s : State) (link : Fin 2) (msg : RingMsg),
      MayChange (.getData link msg) s (noted ++ pieces [.out, .denyLogAt, .nextUid, .plainMem, .poisonLines, .orphanLines, .snoops, .curLog, .rlinks, .ringOut, .rctx, .ringHeld] [.TNT_ERR, .HRT_DENY, .PWR_STATUS, .CXL_CNT])) ∧
  -- RING_PUT (R406).
  (∀ (s : State) (link : Fin 2) (msg : RingMsg),
      MayChange (.ringPut link msg) s (noted ++ pieces [.out, .denyLogAt, .nextUid, .plainMem, .poisonLines, .orphanLines, .snoops, .curLog, .rlinks, .ringOut, .rctx, .ringHeld] [.TNT_ERR, .HRT_DENY, .PWR_STATUS, .CXL_CNT])) ∧
  -- REDUCE_PUT (R407).
  (∀ (s : State) (link : Fin 2) (msg : RingMsg),
      MayChange (.reducePut link msg) s (noted ++ pieces [.out, .denyLogAt, .nextUid, .plainMem, .poisonLines, .orphanLines, .snoops, .curLog, .rlinks, .ringOut, .rctx, .ringHeld] [.TNT_ERR, .HRT_DENY, .PWR_STATUS, .CXL_CNT])) ∧
  -- RING_ACK (R406).
  (∀ (s : State) (link : Fin 2) (msg : RingMsg),
      MayChange (.ringAck link msg) s (noted ++ pieces [.out, .denyLogAt, .nextUid, .plainMem, .poisonLines, .orphanLines, .snoops, .curLog, .rlinks, .ringOut, .rctx, .ringHeld] [.TNT_ERR, .HRT_DENY, .PWR_STATUS, .CXL_CNT])) ∧
  -- RATT_HDR (R415).
  (∀ (s : State) (link : Fin 2) (dst : Fin 16) (hdr : RattHdr),
      MayChange (.rattHdr link dst hdr) s (noted ++ freed ++ pieces [.freeCtr, .out, .comps, .inflight, .dropPaused, .plainMem, .poisonLines, .orphanLines, .rlinks, .ringOut, .rctx] [.TNT_ERR, .PGT_TIER, .CDR_CORRUPT, .ATN_CNT1, .ATN_FAIL, .ATN_WAIT, .ATN_PANEL])) ∧
  -- RATT_BLOCK (R416).
  (∀ (s : State) (link : Fin 2) (block : RattBlock),
      MayChange (.rattBlock link block) s [.out, .rlinks, .ringOut, .rctx]) ∧
  -- CAM_SEARCH (R421).
  (∀ (s : State) (src cpos : Fin 16) (uid : Nat) (word : List Word),
      MayChange (.camSearch src cpos uid word) s [.out, .rlinks, .ringOut, .camReqs]) ∧
  -- CAM_HIT (R422).
  (∀ (s : State) (link : Fin 2) (dst : Fin 16) (uid : Nat) (pos : Fin 16) (handle : Fin 16777216),
      MayChange (.camHit link dst uid pos handle) s [.out, .inflight, .rlinks, .ringOut, .camReqs]) ∧
  -- CASCADE_SLOT (R421).
  (∀ (s : State) (slot : Nat) (matchIn : Bool),
      MayChange (.cascadeSlot slot matchIn) s [.dtime, .out, .inflight, .rlinks, .ringOut, .camReqs]) ∧
  -- CASCADE_MISS_TIMEOUT (R422).
  (∀ (s : State) (uid : Nat),
      MayChange (.cascadeMissTimeout uid) s [.inflight, .camReqs]) ∧
  -- RING_CTX_OPEN (R399).
  (∀ (s : State) (ctx : Fin 256) (value : Word),
      MayChange (.ringCtxOpen ctx value) s (pieces [.rctx] [.SNL_CTX_CTL, .SNL_CTX_ST])) ∧
  -- RING_CTX_ABORT (R402).
  (∀ (s : State) (ctx : Fin 256) (value : Word),
      MayChange (.ringCtxAbort ctx value) s (pieces [.comps, .inflight, .rctx] [.TNT_ERR, .SNL_CTX_CTL, .SNL_CTX_ST])) ∧
  -- RING_CTX_CLOSE (R399).
  (∀ (s : State) (ctx : Fin 256) (value : Word),
      MayChange (.ringCtxClose ctx value) s (pieces [] [.SNL_CTX_CTL, .SNL_CTX_ST])) ∧
  -- RING_ABORT_COMPLETE (R402).
  (∀ (s : State) (ctx : Fin 256),
      MayChange (.ringAbortComplete ctx) s (pieces [.rctx] [.SNL_CTX_ST])) ∧
  -- DESCRIPTOR_TAIL_WRITE (R405).
  (∀ (s : State) (host : HostId) (ctx : Fin 256) (value : Word),
      MayChange (.descriptorTailWrite host ctx value) s (noted ++ pieces [.out, .events, .denyLogAt, .plainMem, .poisonLines, .orphanLines, .snoopFilter, .snoops, .lineQ, .unbackedLogAt, .evLost] [.TNT_ERR, .HRT_DENY, .PWR_STATUS, .CXL_SF, .CXL_CNT])) ∧
  -- DESCRIPTOR_TAKE (R406).
  (∀ (s : State) (ctx : Fin 256),
      MayChange (.descriptorTake ctx) s (noted ++ pieces [.out, .denyLogAt, .snoops, .curLog, .rlinks, .ringOut, .rctx] [.TNT_ERR, .HRT_DENY, .SNL_CTX_ST, .PWR_STATUS, .CXL_CNT])) ∧
  -- DESCRIPTOR_DONE (R406).
  (∀ (s : State) (ctx : Fin 256) (idx : BitVec 32),
      MayChange (.descriptorDone ctx idx) s [.out, .plainMem, .poisonLines, .orphanLines, .snoops, .curLog, .rctx]) ∧
  -- RING_DISABLE (R392).
  (∀ (s : State) (value : Word),
      MayChange (.ringDisable value) s (pieces [.rlinks] [.SNL_CFG, .SNL_RING, .SNL_LINK, .SNL_CASC]))

/-- Shuttle ports, queue pairs, requests and packets change only the pieces listed for each. Each command named answers a next state, and every field of the state and every register not in its list is as before: `noted` are the pieces that a LOG record may change, `freed` those that the release of what nothing refers to may change. A row that may be refused, or that changes most of the state, says so as: where it answers a next state, then the list. -/
def Obligations.ShuttleFrames : Prop :=
  -- SHUTTLE_PORT_LINK (R486).
  (∀ (s : State) (port : Fin 2) (state : Fin 3),
      MayChange (.shuttlePortLink port state) s (pieces [] [.SHT_PORTST])) ∧
  -- ARP_REQUEST (R487).
  (∀ (s : State) (port : Fin 2) (target : BitVec 32),
      MayChange (.arpRequest port target) s (pieces [.out] [.SHT_CNT2])) ∧
  -- NEIGHBOUR_SOLICITATION (R487).
  (∀ (s : State) (port : Fin 2) (target : Wide),
      MayChange (.neighbourSolicitation port target) s (pieces [.out] [.SHT_CNT2])) ∧
  -- ICMP_ECHO_REQUEST (R487).
  (∀ (s : State) (port : Fin 2) (v6 : Bool) (dst : Wide) (bytes : List Byte),
      MayChange (.icmpEchoRequest port v6 dst bytes) s (pieces [.out] [.SHT_CNT2])) ∧
  -- PFC_FRAME (R488).
  (∀ (s : State) (port : Fin 2) (enables : BitVec 8) (quanta : List Nat),
      MayChange (.pfcFrame port enables quanta) s [.out, .shOut, .pfcUntil]) ∧
  -- PTP_EVENT_MESSAGE (R490).
  (∀ (s : State) (msg : PtpMsg) (now : Nat),
      MayChange (.ptpEventMessage msg now) s (pieces [.dtime, .out, .power] [.PWR_DTCTL])) ∧
  -- QP_READ (R526).
  (∀ (s : State) (qpn : Fin 65536),
      MayChange (.qpRead qpn) s (pieces [] [.SHT_QPQ, .SHT_QPC, .SHT_QPST0, .SHT_QPST1])) ∧
  -- QP_WRITE (R526).
  (∀ (s : State) (qpn : Fin 65536),
      MayChange (.qpWrite qpn) s (pieces [.qps] [.SHT_QPQ])) ∧
  -- QP_ACTIVATE (R495).
  (∀ (s : State) (qpn : Fin 65536),
      MayChange (.qpActivate qpn) s (pieces [.qps] [.SHT_QPQ])) ∧
  -- QP_ERROR (R512).
  (∀ (s : State) (qpn : Fin 65536),
      MayChange (.qpError qpn) s (noted ++ pieces [.out, .events, .plainMem, .poisonLines, .orphanLines, .snoopFilter, .snoops, .lineQ, .gws, .qps, .evLost] [.SHT_QPQ, .CXL_SF, .CXL_CNT, .GW_ST])) ∧
  -- QP_RESET (R494).
  (∀ (s : State) (qpn : Fin 65536),
      MayChange (.qpReset qpn) s (pieces [.qps] [.SHT_QPQ])) ∧
  -- QP_CONTROL_WRITE (R496).
  (∀ (s : State) (host : HostId) (qpn : Fin 65536) (word : Fin 3) (value : Word),
      MayChange (.qpControlWrite host qpn word value) s (noted ++ pieces [.out, .events, .denyLogAt, .plainMem, .poisonLines, .orphanLines, .snoopFilter, .snoops, .lineQ, .unbackedLogAt, .gws, .qps, .evLost] [.TNT_ERR, .HRT_DENY, .PWR_STATUS, .CXL_SF, .CXL_CNT])) ∧
  -- WR_SEND (R500).
  (∀ (s : State) (qpn : Fin 65536) (hostMem : HostMem) (fault : Bool),
      MayChange (.wrSend qpn hostMem fault) s (noted ++ pieces [.out, .events, .denyLogAt, .plainMem, .poisonLines, .orphanLines, .snoopFilter, .snoops, .lineQ, .curLog, .gws, .qps, .shOut, .atsCache, .evLost] [.TNT_ERR, .HRT_DENY, .SHT_CNT0, .SHT_CNT1, .PWR_STATUS, .CXL_SF, .CXL_CNT, .GW_ST])) ∧
  -- WR_PUT (R501).
  (∀ (s : State) (qpn : Fin 65536) (hostMem : HostMem) (fault : Bool),
      MayChange (.wrPut qpn hostMem fault) s (noted ++ pieces [.out, .events, .denyLogAt, .plainMem, .poisonLines, .orphanLines, .snoopFilter, .snoops, .lineQ, .curLog, .gws, .qps, .shOut, .atsCache, .evLost] [.TNT_ERR, .HRT_DENY, .SHT_CNT0, .SHT_CNT1, .PWR_STATUS, .CXL_SF, .CXL_CNT, .GW_ST])) ∧
  -- WR_COMPARE_SWAP (R502).
  (∀ (s : State) (qpn : Fin 65536),
      MayChange (.wrCompareSwap qpn) s (noted ++ pieces [.out, .events, .denyLogAt, .plainMem, .poisonLines, .orphanLines, .snoopFilter, .snoops, .lineQ, .curLog, .gws, .qps, .shOut, .atsCache, .evLost] [.TNT_ERR, .HRT_DENY, .SHT_CNT0, .SHT_CNT1, .PWR_STATUS, .CXL_SF, .CXL_CNT, .GW_ST])) ∧
  -- WR_FETCH_ADD (R502).
  (∀ (s : State) (qpn : Fin 65536),
      MayChange (.wrFetchAdd qpn) s (noted ++ pieces [.out, .events, .denyLogAt, .plainMem, .poisonLines, .orphanLines, .snoopFilter, .snoops, .lineQ, .curLog, .gws, .qps, .shOut, .atsCache, .evLost] [.TNT_ERR, .HRT_DENY, .SHT_CNT0, .SHT_CNT1, .PWR_STATUS, .CXL_SF, .CXL_CNT, .GW_ST])) ∧
  -- WR_REDUCE (R502).
  (∀ (s : State) (qpn : Fin 65536) (hostMem : HostMem) (fault : Bool),
      MayChange (.wrReduce qpn hostMem fault) s (noted ++ pieces [.out, .events, .denyLogAt, .plainMem, .poisonLines, .orphanLines, .snoopFilter, .snoops, .lineQ, .curLog, .gws, .qps, .shOut, .atsCache, .evLost] [.TNT_ERR, .HRT_DENY, .SHT_CNT0, .SHT_CNT1, .PWR_STATUS, .CXL_SF, .CXL_CNT, .GW_ST])) ∧
  -- WR_FLUSH (R503).
  (∀ (s : State) (qpn : Fin 65536),
      MayChange (.wrFlush qpn) s (noted ++ pieces [.out, .events, .denyLogAt, .plainMem, .poisonLines, .orphanLines, .snoopFilter, .snoops, .lineQ, .curLog, .gws, .qps, .shOut, .atsCache, .evLost] [.TNT_ERR, .HRT_DENY, .SHT_CNT0, .SHT_CNT1, .PWR_STATUS, .CXL_SF, .CXL_CNT, .GW_ST])) ∧
  -- WR_NOP (R497).
  (∀ (s : State) (qpn : Fin 65536),
      MayChange (.wrNop qpn) s (noted ++ pieces [.out, .events, .denyLogAt, .plainMem, .poisonLines, .orphanLines, .snoopFilter, .snoops, .lineQ, .curLog, .gws, .qps, .shOut, .atsCache, .evLost] [.TNT_ERR, .HRT_DENY, .SHT_CNT0, .SHT_CNT1, .PWR_STATUS, .CXL_SF, .CXL_CNT, .GW_ST])) ∧
  -- WR_WAIT_SATISFIED (R521).
  (∀ (s : State) (qpn : Fin 65536) (hostMem : HostMem) (fault : Bool),
      MayChange (.wrWaitSatisfied qpn hostMem fault) s (noted ++ pieces [.out, .events, .denyLogAt, .plainMem, .poisonLines, .orphanLines, .snoopFilter, .snoops, .lineQ, .curLog, .gws, .qps, .shOut, .atsCache, .evLost] [.TNT_ERR, .HRT_DENY, .SHT_CNT0, .SHT_CNT1, .CXL_SF, .CXL_CNT, .GW_ST])) ∧
  -- SHUTTLE_SEND (R517).
  (∀ (s : State) (port : Fin 2) (src : Wide) (udp : ShWire) (pkt : ShPkt) (fault : Bool),
      MayChange (.shuttleSend port src udp pkt fault) s (noted ++ pieces [.out, .events, .plainMem, .poisonLines, .orphanLines, .snoopFilter, .snoops, .lineQ, .curLog, .gws, .qps, .shOut, .atsCache, .evLost] [.SHT_CNT0, .SHT_CNT1, .SHT_CNT2, .PWR_STATUS, .CXL_SF, .CXL_CNT, .GW_ST])) ∧
  -- SHUTTLE_PUT (R501).
  (∀ (s : State) (port : Fin 2) (src : Wide) (udp : ShWire) (pkt : ShPkt),
      MayChange (.shuttlePut port src udp pkt) s (noted ++ pieces [.out, .events, .denyLogAt, .plainMem, .poisonLines, .orphanLines, .snoopFilter, .snoops, .lineQ, .gws, .qps, .shOut, .evLost] [.TNT_ERR, .HRT_DENY, .SHT_CNT0, .SHT_CNT1, .SHT_CNT2, .PWR_STATUS, .CXL_SF, .CXL_CNT, .GW_ST])) ∧
  -- NMO_REQ (R502).
  (∀ (s : State) (port : Fin 2) (src : Wide) (udp : ShWire) (pkt : ShPkt),
      MayChange (.nmoReq port src udp pkt) s (noted ++ pieces [.out, .events, .denyLogAt, .plainMem, .poisonLines, .orphanLines, .snoopFilter, .snoops, .lineQ, .curLog, .gws, .qps, .shOut, .evLost] [.TNT_ERR, .HRT_DENY, .SHT_CNT0, .SHT_CNT1, .SHT_CNT2, .SHT_CNT3, .PWR_STATUS, .CXL_SF, .CXL_CNT, .GW_ST])) ∧
  -- NMO_RESP (R504).
  (∀ (s : State) (port : Fin 2) (src : Wide) (udp : ShWire) (pkt : ShPkt),
      MayChange (.nmoResp port src udp pkt) s (noted ++ pieces [.out, .events, .plainMem, .poisonLines, .orphanLines, .snoopFilter, .snoops, .lineQ, .gws, .qps, .shOut, .evLost] [.SHT_CNT0, .SHT_CNT1, .SHT_CNT2, .PWR_STATUS, .CXL_SF, .CXL_CNT, .GW_ST])) ∧
  -- FLUSH_REQ (R503).
  (∀ (s : State) (port : Fin 2) (src : Wide) (udp : ShWire) (pkt : ShPkt),
      MayChange (.flushReq port src udp pkt) s (noted ++ pieces [.out, .events, .plainMem, .poisonLines, .orphanLines, .snoopFilter, .snoops, .lineQ, .gws, .qps, .shOut, .evLost] [.SHT_CNT0, .SHT_CNT1, .SHT_CNT2, .PWR_STATUS, .CXL_SF, .CXL_CNT, .GW_ST])) ∧
  -- FLUSH_RESP (R503).
  (∀ (s : State) (port : Fin 2) (src : Wide) (udp : ShWire) (pkt : ShPkt),
      MayChange (.flushResp port src udp pkt) s (noted ++ pieces [.out, .events, .plainMem, .poisonLines, .orphanLines, .snoopFilter, .snoops, .lineQ, .gws, .qps, .shOut, .evLost] [.SHT_CNT0, .SHT_CNT1, .SHT_CNT2, .PWR_STATUS, .CXL_SF, .CXL_CNT, .GW_ST])) ∧
  -- SHUTTLE_ACK (R508).
  (∀ (s : State) (port : Fin 2) (src : Wide) (udp : ShWire) (pkt : ShPkt),
      MayChange (.shuttleAck port src udp pkt) s (noted ++ pieces [.out, .events, .plainMem, .poisonLines, .orphanLines, .snoopFilter, .snoops, .lineQ, .gws, .qps, .shOut, .evLost] [.SHT_CNT0, .SHT_CNT1, .SHT_CNT2, .PWR_STATUS, .CXL_SF, .CXL_CNT, .GW_ST])) ∧
  -- SHUTTLE_NAK (R510).
  (∀ (s : State) (port : Fin 2) (src : Wide) (udp : ShWire) (pkt : ShPkt),
      MayChange (.shuttleNak port src udp pkt) s (noted ++ pieces [.out, .events, .plainMem, .poisonLines, .orphanLines, .snoopFilter, .snoops, .lineQ, .gws, .qps, .shOut, .evLost] [.SHT_CNT0, .SHT_CNT1, .SHT_CNT2, .PWR_STATUS, .CXL_SF, .CXL_CNT, .GW_ST])) ∧
  -- ACK_TIMER (R508).
  (∀ (s : State) (qpn : Fin 65536),
      MayChange (.ackTimer qpn) s (noted ++ pieces [.out, .events, .plainMem, .poisonLines, .orphanLines, .snoopFilter, .snoops, .lineQ, .gws, .qps, .shOut, .evLost] [.SHT_CNT0, .SHT_CNT1, .CXL_SF, .CXL_CNT, .GW_ST])) ∧
  -- RETX_TIMEOUT (R509).
  (∀ (s : State) (qpn : Fin 65536),
      MayChange (.retxTimeout qpn) s (noted ++ pieces [.out, .events, .plainMem, .poisonLines, .orphanLines, .snoopFilter, .snoops, .lineQ, .gws, .qps, .shOut, .evLost] [.SHT_CNT0, .SHT_CNT1, .CXL_SF, .CXL_CNT, .GW_ST])) ∧
  -- RNR_RETRY_TIMER (R510).
  (∀ (s : State) (qpn : Fin 65536) (psn : Fin 16777216),
      MayChange (.rnrRetryTimer qpn psn) s (noted ++ pieces [.out, .events, .plainMem, .poisonLines, .orphanLines, .snoopFilter, .snoops, .lineQ, .gws, .qps, .shOut, .evLost] [.SHT_CNT0, .SHT_CNT1, .CXL_SF, .CXL_CNT, .GW_ST])) ∧
  -- FAULT_RETRY_TIMER (R520).
  (∀ (s : State) (qpn : Fin 65536) (psn : Fin 16777216),
      MayChange (.faultRetryTimer qpn psn) s (noted ++ pieces [.out, .events, .plainMem, .poisonLines, .orphanLines, .snoopFilter, .snoops, .lineQ, .gws, .qps, .shOut, .evLost] [.SHT_CNT0, .SHT_CNT1, .CXL_SF, .CXL_CNT, .GW_ST])) ∧
  -- PLACEMENT_FAULT_TIMEOUT (R520).
  (∀ (s : State) (qpn : Fin 65536) (psn : Fin 16777216),
      MayChange (.placementFaultTimeout qpn psn) s (noted ++ pieces [.out, .events, .plainMem, .poisonLines, .orphanLines, .snoopFilter, .snoops, .lineQ, .gws, .qps, .shOut, .evLost] [.SHT_CNT0, .SHT_CNT1, .CXL_SF, .CXL_CNT, .GW_ST])) ∧
  -- PAGE_REQUEST_RESPONSE (R519).
  (∀ (s : State) (qpn : Fin 65536) (rx ok : Bool) (hostMem : HostMem),
      MayChange (.pageRequestResponse qpn rx ok hostMem) s (noted ++ pieces [.out, .events, .denyLogAt, .plainMem, .poisonLines, .orphanLines, .snoopFilter, .snoops, .lineQ, .curLog, .gws, .qps, .shOut, .atsCache, .evLost] [.TNT_ERR, .HRT_DENY, .SHT_CNT0, .SHT_CNT1, .CXL_SF, .CXL_CNT, .GW_ST])) ∧
  -- ATS_INVALIDATION (R518).
  (∀ (s : State) (host : HostId) (pasid : BitVec 20) (firstPage pages : Nat),
      MayChange (.atsInvalidation host pasid firstPage pages) s [.out, .atsCache]) ∧
  -- RECEIVE_COMPLETE (R505).
  (∀ (s : State) (qpn : Fin 65536) (msn : Fin 16777216),
      MayChange (.receiveComplete qpn msn) s (noted ++ pieces [.out, .events, .plainMem, .poisonLines, .orphanLines, .snoopFilter, .snoops, .lineQ, .gws, .qps, .shOut, .evLost] [.SHT_CNT0, .SHT_CNT1, .CXL_SF, .CXL_CNT, .GW_ST])) ∧
  -- CQ_ENTRY_WRITE (R499).
  (∀ (s : State) (qpn : Fin 65536),
      MayChange (.cqEntryWrite qpn) s (pieces [.out, .plainMem, .poisonLines, .orphanLines, .snoopFilter, .snoops, .lineQ, .gws, .qps] [.CXL_SF, .CXL_CNT])) ∧
  -- OTHER_RECEIVED_FRAME (R487).
  (∀ (s : State),
      MayChange .otherReceivedFrame s (pieces [] [.SHT_CNT2]))

/-- Flash work, scrub, rebuild, retirement and the fault capsule change only the pieces listed for each. Each command named answers a next state, and every field of the state and every register not in its list is as before: `noted` are the pieces that a LOG record may change, `freed` those that the release of what nothing refers to may change. A row that may be refused, or that changes most of the state, says so as: where it answers a next state, then the list. -/
def Obligations.FlashAndFaultFrames : Prop :=
  -- FLASH_OP_COMPLETE (R533).
  (∀ (s : State) (op : FlashOp),
      MayChange (.flashOpComplete op) s (noted ++ freed ++ pieces [.out, .events, .geoGen, .dropPaused, .viewCache, .viewWaits, .evLost, .flash, .units, .streams, .keyRepl, .replaceN] [.PGT_TIER, .PGT_RECOV, .PGT_VC, .CDR_CORRUPT, .FLT_GEOM, .FLT_CAP, .FLT_SPACE, .FLT_WEAR, .FLT_SPARE, .FLT_ERR0, .FLT_ERR1, .FLT_SHRED, .FLT_CH, .RAS_STATUS, .RAS_REPL, .PWR_STATUS])) ∧
  -- JOURNAL_FLUSH (R544).
  (∀ (s : State) (wrap : Bool),
      MayChange (.journalFlush wrap) s (noted ++ pieces [.freeCtr, .out, .events, .images, .evLost, .units, .eraseLists, .journalUnit, .saved, .serial, .serialTop, .keyRows, .keyRepl, .replaceN] [.FLT_GEOM, .FLT_CAP, .FLT_SPACE, .FLT_WEAR, .FLT_SPARE, .FLT_SHRED, .FLT_CH, .RAS_STATUS, .RAS_REPL, .SEC_NVS])) ∧
  -- MAP_CHECKPOINT (R546).
  (∀ (s : State) (now : Nat),
      MayChange (.mapCheckpoint now) s [.dtime, .checkpointAt]) ∧
  -- SLC_TARGET_RECOMPUTE (R541).
  (∀ (s : State),
      MayChange .slcTargetRecompute s (pieces [.slcTarget] [.FLT_SPACE])) ∧
  -- GC_STEP_RECOMPUTE (R551).
  (∀ (s : State),
      MayChange .gcStepRecompute s (pieces [.victims] [.FLT_SPACE])) ∧
  -- GC_START (R549).
  (∀ (s : State) (channel : Fin 32) (idleUs : Nat),
      MayChange (.gcStart channel idleUs) s (pieces [.victims] [.FLT_SPACE])) ∧
  -- IMAGE_MOVE (R554).
  (∀ (s : State) (handle : Fin 16777216) (layer : Fin 128) (readOk : Bool),
      MayChange (.imageMove handle layer readOk) s (noted ++ freed ++ pieces [.out, .events, .dropPaused, .viewCache, .viewWaits, .evLost, .units, .streams, .copiedCw, .keyRepl, .replaceN] [.PGT_TIER, .PGT_VC, .CDR_CORRUPT, .FLT_GEOM, .FLT_CAP, .FLT_SPACE, .FLT_GCCNT, .FLT_WEAR, .FLT_SPARE, .FLT_SHRED, .FLT_CH, .RAS_STATUS, .RAS_REPL, .PWR_STATUS])) ∧
  -- UNIT_ERASE (R554).
  (∀ (s : State) (unit : Nat) (ok : Bool),
      MayChange (.unitErase unit ok) s (noted ++ pieces [.out, .events, .evLost, .flash, .units, .eraseLists, .victims, .keyRepl, .replaceN] [.FLT_GEOM, .FLT_CAP, .FLT_SPACE, .FLT_GCCNT, .FLT_WEAR, .FLT_SPARE, .FLT_ERR1, .FLT_SHRED, .FLT_CH, .RAS_STATUS, .RAS_REPL])) ∧
  -- FOLD (R542).
  (∀ (s : State) (handle : Fin 16777216) (layer : Fin 128) (readOk : Bool),
      MayChange (.fold handle layer readOk) s (noted ++ freed ++ pieces [.out, .events, .dropPaused, .viewCache, .viewWaits, .evLost, .units, .streams, .copiedCw, .keyRepl, .replaceN] [.PGT_TIER, .PGT_VC, .CDR_CORRUPT, .FLT_GEOM, .FLT_CAP, .FLT_SPACE, .FLT_GCCNT, .FLT_WEAR, .FLT_SPARE, .FLT_SHRED, .FLT_CH, .RAS_STATUS, .RAS_REPL, .PWR_STATUS])) ∧
  -- UNIT_RETIRE (R547).
  (∀ (s : State) (unit : Nat),
      MayChange (.unitRetire unit) s (noted ++ pieces [.out, .events, .geoGen, .evLost, .flash, .units, .eraseLists, .keyRepl, .replaceN] [.PGT_RECOV, .FLT_GEOM, .FLT_CAP, .FLT_SPACE, .FLT_WEAR, .FLT_SPARE, .FLT_SHRED, .FLT_CH, .RAS_STATUS, .RAS_REPL])) ∧
  -- TARGET_FAILED (R561).
  (∀ (s : State) (channel : Fin 32) (ce : Fin 8),
      MayChange (.targetFailed channel ce) s (noted ++ freed ++ pieces [.out, .events, .geoGen, .dropPaused, .viewCache, .viewWaits, .evLost, .flash, .units, .keyRepl, .replaceN] [.PGT_TIER, .PGT_RECOV, .PGT_VC, .CDR_CORRUPT, .FLT_GEOM, .FLT_CAP, .FLT_SPACE, .FLT_WEAR, .FLT_SPARE, .FLT_SHRED, .FLT_CH, .RAS_STATUS, .RAS_REPL, .PWR_STATUS])) ∧
  -- FLASH_TEMP_POLL (R565).
  (∀ (s : State) (temps : List (Nat × Nat × Int)),
      MayChange (.flashTempPoll temps) s (noted ++ pieces [.out, .events, .evLost, .flash, .keyRepl, .replaceN] [.FLT_GEOM, .FLT_CAP, .FLT_SPACE, .FLT_WEAR, .FLT_SPARE, .FLT_SHRED, .FLT_CH, .FLT_TEMP, .RAS_STATUS, .RAS_REPL])) ∧
  -- FLASH_RETRAIN (R530).
  (∀ (s : State) (channel : Fin 32) (ce : Fin 8),
      MayChange (.flashRetrain channel ce) s [.flash]) ∧
  -- POWER_FAIL_FLUSH (R556).
  (∀ (s : State) (flushUs : Nat) (saved sealWhole : Bool) (now : Nat),
      MayChange (.powerFailFlush flushUs saved sealWhole now) s (noted ++ freed ++ pieces [.dtime, .freeCtr, .out, .events, .denyLogAt, .buckets, .wheels, .devLevels, .spools, .comps, .inflight, .dropPaused, .viewWaits, .plainMem, .poisonLines, .orphanLines, .snoopFilter, .snoops, .lineQ, .lostHosts, .curLog, .rlinks, .ringOut, .rctx, .ringHeld, .camReqs, .gws, .qps, .shOut, .pfcUntil, .atsCache, .orphanPend, .hdm, .evLost, .units, .saved, .ideKeys, .serial, .serialTop, .keyRows, .heldActs, .power] [.TNT_STATE, .TNT_ERR, .HRT_DENY, .SPL_SQS, .SPL_SQE, .PFX_CNT0, .PGT_TIER, .ATN_CNT1, .SNL_CTX_ST, .SHT_CNT0, .SHT_CNT1, .SEC_NVS, .SEC_TSTAT, .PWR_STATUS, .CXL_LINKST, .CXL_SF, .CXL_ORPH, .CXL_CNT, .GW_ST])) ∧
  -- SCRUB_ROW (R580).
  (∀ (s : State) (row : ScrubRow) (now : Nat),
      MayChange (.scrubRow row now) s (noted ++ freed ++ pieces [.dtime, .out, .events, .reconTimes, .reconLog, .rebuildAt, .rebuildWarned, .comps, .inflight, .pins, .parity, .dropPaused, .viewCache, .viewWaits, .poisonLines, .evLost, .keyRepl, .replaceN] [.TNT_ERR, .PGT_TIER, .PGT_RECOV, .PGT_VC, .CDR_CORRUPT, .ATN_WAIT, .ATN_PANEL, .RAS_STATUS, .RAS_REPL, .RAS_REBUILD, .RAS_SCRUB, .RAS_POISON, .RAS_HBM, .PWR_STATUS])) ∧
  -- STACK_LOST (R583).
  (∀ (s : State) (stack : Fin 12) (cause : Fin 6),
      MayChange (.stackLost stack cause) s (noted ++ freed ++ pieces [.out, .events, .rebuildAt, .rebuildWarned, .comps, .inflight, .pins, .parity, .dropPaused, .viewWaits, .evLost, .keyRepl, .replaceN] [.TNT_ERR, .PGT_TIER, .PGT_RECOV, .ATN_WAIT, .ATN_PANEL, .RAS_STATUS, .RAS_REPL, .RAS_REBUILD, .RAS_HBM])) ∧
  -- REBUILD_COPY_START (R587).
  (∀ (s : State),
      MayChange .rebuildCopyStart s (pieces [] [.RAS_REBUILD])) ∧
  -- REBUILD_COMPLETE (R589).
  (∀ (s : State),
      MayChange .rebuildComplete s (noted ++ pieces [.out, .events, .geoGen, .cacheSf, .parity, .rowN, .evLost] [.PGT_RECOV, .RAS_STATUS, .RAS_REBUILD, .CXL_PLAIN])) ∧
  -- SELFTEST (R591).
  (∀ (s : State) (value : Word),
      MayChange (.selftest value) s (pieces [.mctp, .preTest] [.PGT_RECOV, .RAS_STATUS, .RAS_CTL, .RAS_HBM])) ∧
  -- SELFTEST_DONE (R591).
  (∀ (s : State) (pass : Bool),
      MayChange (.selftestDone pass) s (noted ++ freed ++ pieces [.out, .events, .rebuildAt, .rebuildWarned, .comps, .inflight, .pins, .parity, .dropPaused, .viewWaits, .evLost, .keyRepl, .replaceN] [.TNT_ERR, .PGT_TIER, .PGT_RECOV, .ATN_WAIT, .ATN_PANEL, .RAS_STATUS, .RAS_REPL, .RAS_REBUILD, .RAS_HBM])) ∧
  -- RETIRE_STACK (R583).
  (∀ (s : State) (value : Word),
      MayChange (.retireStack value) s (noted ++ freed ++ pieces [.out, .events, .rebuildAt, .rebuildWarned, .comps, .inflight, .pins, .parity, .dropPaused, .viewWaits, .evLost, .keyRepl, .replaceN] [.TNT_ERR, .PGT_TIER, .PGT_RECOV, .ATN_WAIT, .ATN_PANEL, .RAS_STATUS, .RAS_REPL, .RAS_CTL, .RAS_REBUILD, .RAS_HBM])) ∧
  -- RETIRE_CORE (R593).
  (∀ (s : State) (value : Word),
      MayChange (.retireCore value) s (noted ++ pieces [.out, .events, .geoGen, .cores, .inflight, .evLost, .keyRepl, .replaceN] [.PANEL_STATE, .PGT_RECOV, .RAS_STATUS, .RAS_REPL, .RAS_CTL, .RAS_CORERET])) ∧
  -- CORE_RETIRE (R594).
  (∀ (s : State) (core : Fin 256) (cause : Fin 2),
      MayChange (.coreRetire core cause) s (noted ++ pieces [.out, .events, .geoGen, .cores, .inflight, .evLost, .keyRepl, .replaceN] [.PANEL_STATE, .PGT_RECOV, .RAS_STATUS, .RAS_REPL, .RAS_CORERET])) ∧
  -- KNOWN_ANSWER_TEST (R593).
  (∀ (s : State) (core : Fin 256) (ok : Bool),
      MayChange (.knownAnswerTest core ok) s (noted ++ pieces [.out, .events, .geoGen, .cores, .inflight, .evLost, .keyRepl, .replaceN] [.PANEL_STATE, .PGT_RECOV, .RAS_STATUS, .RAS_REPL, .RAS_CORERET])) ∧
  -- STEWARD_HEARTBEAT (R39).
  (∀ (s : State) (steward : Fin 8) (alive : Bool) (now : Nat),
      MayChange (.stewardHeartbeat steward alive now) s (noted ++ freed ++ pieces [.dtime, .out, .events, .stewards, .comps, .inflight, .pins, .parity, .dropPaused, .evLost, .keyRepl, .replaceN] [.TNT_ERR, .PGT_TIER, .ATN_WAIT, .ATN_PANEL, .RAS_STATUS, .RAS_REPL])) ∧
  -- STEWARD_RECOVERED (R39).
  (∀ (s : State) (steward : Fin 8),
      MayChange (.stewardRecovered steward) s [.stewards]) ∧
  -- CAPSULE_SNAPSHOT (R602).
  (∀ (s : State) (now : Nat),
      MayChange (.capsuleSnapshot now) s [.dtime, .capSnaps]) ∧
  -- CAPSULE_READ_SUMMARY (R605).
  (∀ (s : State) (fn : Fin 17),
      MayChange (.capsuleReadSummary fn) s (noted ++ pieces [.out] [])) ∧
  -- CAPSULE_READ_PIECE (R605).
  (∀ (s : State) (fn : Fin 17) (piece : Fin 256),
      MayChange (.capsuleReadPiece fn piece) s (noted ++ pieces [.out] [])) ∧
  -- REBUILD_WAITING_FOR_SPACE (R601).
  (∀ (s : State) (now : Nat),
      MayChange (.rebuildWaitingForSpace now) s (noted ++ pieces [.dtime, .out, .events, .rebuildWarned, .evLost] []))

/-- Keys, sessions, firmware, calibration and mailbox commands change only the pieces listed for each. Each command named answers a next state, and every field of the state and every register not in its list is as before: `noted` are the pieces that a LOG record may change, `freed` those that the release of what nothing refers to may change. A row that may be refused, or that changes most of the state, says so as: where it answers a next state, then the list. -/
def Obligations.KeyAndMailboxFrames : Prop :=
  -- SPDM_REQUEST (R620).
  (∀ (s : State) (fn : Fin 18) (req : SpdmReq),
      MayChange (.spdmRequest fn req) s [.out, .sessions, .signed]) ∧
  -- IDE_KM_KEY_PROG (R613).
  (∀ (s : State) (session : Nat) (link : Fin 8) (stream key : Nat),
      MayChange (.ideKmKeyProg session link stream key) s (pieces [.out, .ideKeys] [.CXL_LINKST])) ∧
  -- TDISP_REQUEST (R472).
  (∀ (s : State) (session : Nat) (req : Fin 4),
      MayChange (.tdispRequest session req) s (noted ++ pieces [.out, .events, .spools, .comps, .inflight, .plainMem, .poisonLines, .orphanLines, .snoopFilter, .snoops, .lineQ, .rctx, .gws, .qps, .evLost, .tdis] [.TNT_STATE, .TNT_ERR, .SPL_SQS, .SPL_SQE, .PFX_CNT0, .ATN_CNT1, .SNL_CTX_ST, .SEC_TSTAT, .CXL_SF, .CXL_CNT, .GW_ST])) ∧
  -- TENANT_KEY (R630).
  (∀ (s : State) (session tenant key : Nat),
      MayChange (.tenantKey session tenant key) s (pieces [.out, .comps, .inflight, .nsKeys, .rctx, .qpKeys, .dataKeys, .sealReq, .keyRows, .heldActs] [.TNT_STATE, .TNT_ERR, .SNL_CTX_ST, .SEC_NVS, .SEC_TSTAT, .SEC_GSTAT])) ∧
  -- TENANT_SEAL (R633).
  (∀ (s : State) (session tenant ngrp grprw key : Nat) (groups : List Nat),
      MayChange (.tenantSeal session tenant ngrp grprw key groups) s (pieces [.out, .comps, .inflight, .nsKeys, .rctx, .qpKeys, .dataKeys, .sealReq, .keyRows, .heldActs] [.TNT_STATE, .TNT_ERR, .SNL_CTX_ST, .SEC_NVS, .SEC_TSTAT, .SEC_GSTAT])) ∧
  -- QP_KEY (R630).
  (∀ (s : State) (session qpn key : Nat),
      MayChange (.qpKey session qpn key) s (pieces [.out, .comps, .inflight, .nsKeys, .rctx, .qpKeys, .dataKeys, .sealReq, .keyRows, .heldActs] [.TNT_STATE, .TNT_ERR, .SNL_CTX_ST, .SEC_NVS, .SEC_TSTAT, .SEC_GSTAT])) ∧
  -- GROUP_HKEY (R630).
  (∀ (s : State) (session group key : Nat),
      MayChange (.groupHkey session group key) s (pieces [.out, .comps, .inflight, .nsKeys, .rctx, .qpKeys, .dataKeys, .sealReq, .keyRows, .heldActs] [.TNT_STATE, .TNT_ERR, .SNL_CTX_ST, .SEC_NVS, .SEC_TSTAT, .SEC_GSTAT])) ∧
  -- SEAL_QUERY (R630).
  (∀ (s : State) (session tenant : Nat),
      MayChange (.sealQuery session tenant) s (pieces [.out, .comps, .inflight, .nsKeys, .rctx, .qpKeys, .dataKeys, .sealReq, .keyRows, .heldActs] [.TNT_STATE, .TNT_ERR, .SNL_CTX_ST, .SEC_NVS, .SEC_TSTAT, .SEC_GSTAT])) ∧
  -- PQ_SIGN (R620).
  (∀ (s : State) (fn : Fin 18),
      MayChange (.pqSign fn) s (pieces [.out, .comps, .inflight, .nsKeys, .rctx, .qpKeys, .dataKeys, .sealReq, .keyRows, .heldActs] [.TNT_STATE, .TNT_ERR, .SNL_CTX_ST, .SEC_NVS, .SEC_TSTAT, .SEC_GSTAT])) ∧
  -- TENANT_KEY_GENERATE (R658).
  (∀ (s : State) (value : Word),
      MayChange (.tenantKeyGenerate value) s (pieces [.freeCtr, .dataKeys, .keyRows] [.SEC_NVS, .SEC_TKEY, .SEC_TSTAT])) ∧
  -- LIFECYCLE_CHALLENGE (R641).
  (∀ (s : State) (fn : Fin 17),
      MayChange (.lifecycleChallenge fn) s (noted ++ pieces [.freeCtr, .out, .nonce] [])) ∧
  -- LIFECYCLE_ADVANCE (R640).
  (∀ (s : State) (fn : Fin 17) (payload : List Byte),
      MayChange (.lifecycleAdvance fn payload) s (noted ++ pieces [.out, .events, .bg, .spools, .comps, .inflight, .plainMem, .poisonLines, .orphanLines, .snoopFilter, .snoops, .lineQ, .rctx, .gws, .qps, .evLost, .keyRows, .deviceCerts, .ownerCerts, .lcTarget] [.TNT_STATE, .TNT_ERR, .SPL_SQS, .SPL_SQE, .PFX_CNT0, .ATN_CNT1, .SNL_CTX_ST, .SEC_LC, .SEC_PATFLOOR, .SEC_NVS, .PWR_STATUS, .CXL_SF, .CXL_CNT, .GW_ST])) ∧
  -- CRYPTO_ERASE_COMPLETE (R642).
  (∀ (s : State),
      MayChange .cryptoEraseComplete s (pieces [.freeCtr, .mctp, .bootA, .bootB, .bg, .geom, .chunks, .seqs, .pins, .nsKeys, .frames, .images, .gens, .plainMem, .poisonLines, .orphanLines, .extents, .released, .snoopFilter, .qps, .qpKeys, .orphanPend, .eraseLists, .saved, .ideKeys, .dataKeys, .sealReq, .memKey, .keyRows, .ownerCerts, .lcTarget] [.TNT_STATE, .SG_CFG, .SEC_LC, .SEC_PATFLOOR, .SEC_NVS, .SEC_TSTAT, .SEC_GSTAT, .PWR_STATUS, .CXL_LINKST])) ∧
  -- FW_STAGE_ERASE (R650).
  (∀ (s : State) (fn : Fin 17),
      MayChange (.fwStageErase fn) s (noted ++ pieces [.out, .bg, .slotA, .slotB] [])) ∧
  -- FW_STAGE_WRITE (R650).
  (∀ (s : State) (fn : Fin 17) (offset : Nat) (bytes : List Byte),
      MayChange (.fwStageWrite fn offset bytes) s (noted ++ pieces [.out, .bg, .slotA, .slotB] [])) ∧
  -- FW_STAGE_VERIFY (R650).
  (∀ (s : State) (fn : Fin 17),
      MayChange (.fwStageVerify fn) s (noted ++ pieces [.out] [])) ∧
  -- FW_SELECT (R650).
  (∀ (s : State) (fn : Fin 17),
      MayChange (.fwSelect fn) s (noted ++ pieces [.out] [.SEC_FW])) ∧
  -- FW_COMMIT_SVN (R650).
  (∀ (s : State) (fn : Fin 17),
      MayChange (.fwCommitSvn fn) s (noted ++ pieces [.out, .keyRows] [.SEC_FW, .SEC_FLOOR, .SEC_NVS])) ∧
  -- FW_QUERY (R650).
  (∀ (s : State) (fn : Fin 17),
      MayChange (.fwQuery fn) s (noted ++ pieces [.out] [])) ∧
  -- PLDM_FIRMWARE_UPDATE (R650).
  (∀ (s : State) (phase : Fin 3) (offset : Nat) (bytes : List Byte),
      MayChange (.pldmFirmwareUpdate phase offset bytes) s [.out, .slotA, .slotB, .fwWriter]) ∧
  -- CAL_READ (R652).
  (∀ (s : State) (fn : Fin 17) (offset size : Nat),
      MayChange (.calRead fn offset size) s (noted ++ pieces [.out] [])) ∧
  -- CAL_WRITE (R652).
  (∀ (s : State) (fn : Fin 17) (offset : Nat) (bytes : List Byte),
      MayChange (.calWrite fn offset bytes) s (noted ++ pieces [.out, .bg, .keyRows, .calib] [.SEC_CAL, .SEC_NVS])) ∧
  -- HEALTH_GET (R727).
  (∀ (s : State) (fn : Fin 17),
      MayChange (.healthGet fn) s (noted ++ pieces [.out] [])) ∧
  -- GET_HEALTH_INFO (R742).
  (∀ (s : State) (fn : Fin 17),
      MayChange (.getHealthInfo fn) s (noted ++ pieces [.out] [])) ∧
  -- GET_POISON_LIST (R457).
  (∀ (s : State) (fn : Fin 17),
      MayChange (.getPoisonList fn) s (noted ++ pieces [.out] [])) ∧
  -- CLEAR_POISON (R474).
  (∀ (s : State) (fn : Fin 17) (addr : Nat) (bytes : List Byte),
      MayChange (.clearPoison fn addr bytes) s (noted ++ pieces [.out, .plainMem, .poisonLines, .orphanLines, .snoopFilter, .snoops, .lineQ] [.CXL_SF, .CXL_CNT])) ∧
  -- GET_EVENT_RECORDS (R475).
  (∀ (s : State) (fn owner : Fin 17) (log : Fin 5),
      MayChange (.getEventRecords fn owner log) s [.out]) ∧
  -- CLEAR_EVENT_RECORDS (R475).
  (∀ (s : State) (fn owner : Fin 17) (log : Fin 5) (all : Bool) (handles : List Nat),
      MayChange (.clearEventRecords fn owner log all handles) s [.out, .events, .evLost]) ∧
  -- IDENTIFY_MEMORY_DEVICE (R474).
  (∀ (s : State) (fn : Fin 17),
      MayChange (.identifyMemoryDevice fn) s [.out]) ∧
  -- GET_LOG (R474).
  (∀ (s : State) (fn : Fin 17) (vendor : Bool) (first count : Nat),
      MayChange (.getLog fn vendor first count) s [.out]) ∧
  -- GET_TIMESTAMP (R667).
  (∀ (s : State) (fn : Fin 17),
      MayChange (.getTimestamp fn) s [.out]) ∧
  -- SET_TIMESTAMP (R667).
  (∀ (s : State) (fn : Fin 17) (value : Word),
      MayChange (.setTimestamp fn value) s (noted ++ pieces [.out] [.PWR_DTOFF])) ∧
  -- UNSUPPORTED_MAILBOX_COMMAND (R474).
  (∀ (s : State) (fn : Fin 17) (opcode action : Nat),
      MayChange (.unsupportedMailboxCommand fn opcode action) s (noted ++ pieces [.out] [])) ∧
  -- TENANT_RESET (R676).
  (∀ (s : State) (value : Word),
      MayChange (.tenantReset value) s (noted ++ pieces [.out, .events, .spools, .comps, .inflight, .plainMem, .poisonLines, .orphanLines, .snoopFilter, .snoops, .lineQ, .rctx, .gws, .qps, .evLost, .tenantResets] [.TNT_STATE, .TNT_ERR, .SPL_SQS, .SPL_SQE, .PFX_CNT0, .ATN_CNT1, .SNL_CTX_ST, .PWR_RST, .CXL_SF, .CXL_CNT, .GW_ST])) ∧
  -- ISLAND_RESET (R677).
  (∀ (s : State) (value : Word) (now : Nat),
      MayChange (.islandReset value now) s (noted ++ freed ++ pieces [.dtime, .out, .events, .stewards, .comps, .inflight, .pins, .parity, .dropPaused, .evLost, .units, .streams, .keyRepl, .replaceN] [.TNT_ERR, .PGT_TIER, .ATN_WAIT, .ATN_PANEL, .SNL_RING, .SNL_LINK, .SNL_LERR, .SNL_CASC, .SHT_PORTST, .FLT_GEOM, .FLT_CAP, .FLT_SPACE, .FLT_WEAR, .FLT_SPARE, .FLT_SHRED, .FLT_CH, .RAS_STATUS, .RAS_REPL, .PWR_RST])) ∧
  -- PLATFORM_EVENT_READ (R716).
  (∀ (s : State),
      MayChange .platformEventRead s [.out, .mctp]) ∧
  -- SET_EVENT_INTERRUPT_POLICY (R475).
  (∀ (s : State) (fn : Fin 17) (modes : List Nat),
      MayChange (.setEventInterruptPolicy fn modes) s [.out, .evPolicy])

/-- Time, power, reset and start-up events change only the pieces listed for each. Each command named answers a next state, and every field of the state and every register not in its list is as before: `noted` are the pieces that a LOG record may change, `freed` those that the release of what nothing refers to may change. A row that may be refused, or that changes most of the state, says so as: where it answers a next state, then the list. -/
def Obligations.PowerAndResetFrames : Prop :=
  -- DTIME_SET (R666).
  (∀ (s : State) (value : Word),
      MayChange (.dtimeSet value) s (pieces [.dtime, .power] [.PWR_DTCTL])) ∧
  -- RING_TIME_EXCHANGE (R666).
  (∀ (s : State) (offset : Int) (neighbour now : Nat),
      MayChange (.ringTimeExchange offset neighbour now) s (pieces [.dtime, .power] [.SNL_CASC, .PWR_DTCTL])) ∧
  -- PPS_PULSE (R712).
  (∀ (s : State) (now : Nat),
      MayChange (.ppsPulse now) s [.dtime, .out]) ∧
  -- POWER_SAMPLE (R669).
  (∀ (s : State) (avgW peakW hbmW cdW : Nat) (avs0 avs1 : Bool) (now : Nat),
      MayChange (.powerSample avgW peakW hbmW cdW avs0 avs1 now) s (noted ++ pieces [.dtime, .capDown, .avsMiss, .lastSlow, .power] [.PWR_STATUS, .PWR_MEAS, .PWR_CLK])) ∧
  -- CLOCK_ADJUST (R663).
  (∀ (s : State) (island : Fin 293) (seamPct : Fin 101) (now : Nat),
      MayChange (.clockAdjust island seamPct now) s (pieces [.dtime, .ecoDown, .lastSlow] [.PWR_STATUS, .PWR_CLK])) ∧
  -- THERMAL_STEP (R670).
  (∀ (s : State) (cd0 cd1 xd : Int) (stackTemps : List Int) (now : Nat),
      MayChange (.thermalStep cd0 cd1 xd stackTemps now) s (noted ++ pieces [.dtime, .lastSlow] [.PWR_STATUS, .PWR_THERM, .PWR_CLK])) ∧
  -- THERMAL_TRIP (R671).
  (∀ (s : State) (die : Bool) (temp : Int),
      MayChange (.thermalTrip die temp) s (freed ++ pieces [.out, .buckets, .wheels, .devLevels, .inflight, .dropPaused, .viewWaits, .snoops, .lineQ, .curLog, .ringOut, .ringHeld, .camReqs, .shOut, .pfcUntil, .heldActs, .power] [.TNT_STATE, .PGT_TIER, .PWR_STATUS])) ∧
  -- QUIET_ENTRY (R668).
  (∀ (s : State) (idleUs now : Nat),
      MayChange (.quietEntry idleUs now) s (pieces [.dtime, .power] [.PWR_STATUS])) ∧
  -- STANDBY_ENTRY (R668).
  (∀ (s : State) (now : Nat),
      MayChange (.standbyEntry now) s (pieces [.dtime] [.PWR_STATUS])) ∧
  -- STANDBY_EXIT (R668).
  (∀ (s : State) (now : Nat),
      MayChange (.standbyExit now) s (pieces [.dtime] [.PWR_STATUS])) ∧
  -- PERST_ASSERT (R673).
  (∀ (s : State) (now : Nat),
      MayChange (.perstAssert now) s (noted ++ freed ++ pieces [.dtime, .freeCtr, .out, .events, .denyLogAt, .buckets, .wheels, .devLevels, .spools, .comps, .inflight, .dropPaused, .viewWaits, .plainMem, .poisonLines, .orphanLines, .snoopFilter, .snoops, .lineQ, .lostHosts, .curLog, .rlinks, .ringOut, .rctx, .ringHeld, .camReqs, .gws, .qps, .shOut, .pfcUntil, .atsCache, .orphanPend, .hdm, .evLost, .units, .saved, .ideKeys, .serial, .serialTop, .keyRows, .heldActs, .power] [.TNT_STATE, .TNT_ERR, .HRT_DENY, .SPL_SQS, .SPL_SQE, .PFX_CNT0, .PGT_TIER, .ATN_CNT1, .SNL_CTX_ST, .SHT_CNT0, .SHT_CNT1, .SEC_NVS, .SEC_TSTAT, .PWR_STATUS, .CXL_LINKST, .CXL_SF, .CXL_ORPH, .CXL_CNT, .GW_ST])) ∧
  -- POWER_ON (R672).
  (∀ (s : State),
      MayChange .powerOn s [.power]) ∧
  -- STARTUP (R679).
  (∀ (s : State) (found : StartIn) (now : Nat) (t : State),
      exec (.startup found now) s = .next t → 
        Unchanged [.pending, .fuses, .preTest, .buckets, .wheels, .devLevels, .nextUid, .outRem, .syncAt, .snoops, .lineQ, .curLog, .ringOut, .camReqs, .pfcUntil, .journalUnit, .slcTarget, .checkpointAt, .copiedCw, .serialTop, .deviceCerts, .slotA, .slotB, .calib, .heldActs, .jtag] s t) ∧
  -- MEDIA_READY (R678).
  (∀ (s : State) (ms now : Nat),
      MayChange (.mediaReady ms now) s (noted ++ pieces [.dtime, .out, .events, .evLost, .measured, .power] [.PGT_RECOV, .PWR_STATUS, .PWR_BOOT])) ∧
  -- STARTUP_REBUILD_DONE (R680).
  (∀ (s : State),
      MayChange .startupRebuildDone s (freed ++ pieces [.dropPaused] [.PGT_TIER, .PGT_RECOV])) ∧
  -- WATCHDOG_EXPIRY (R672).
  (∀ (s : State) (now : Nat),
      MayChange (.watchdogExpiry now) s (noted ++ freed ++ pieces [.dtime, .freeCtr, .out, .events, .denyLogAt, .buckets, .wheels, .devLevels, .spools, .comps, .inflight, .dropPaused, .viewWaits, .plainMem, .poisonLines, .orphanLines, .snoopFilter, .snoops, .lineQ, .lostHosts, .curLog, .rlinks, .ringOut, .rctx, .ringHeld, .camReqs, .gws, .qps, .shOut, .pfcUntil, .atsCache, .orphanPend, .hdm, .evLost, .units, .saved, .ideKeys, .serial, .serialTop, .keyRows, .heldActs, .power] [.TNT_STATE, .TNT_ERR, .HRT_DENY, .SPL_SQS, .SPL_SQE, .PFX_CNT0, .PGT_TIER, .ATN_CNT1, .SNL_CTX_ST, .SHT_CNT0, .SHT_CNT1, .SEC_NVS, .SEC_TSTAT, .PWR_STATUS, .CXL_LINKST, .CXL_SF, .CXL_ORPH, .CXL_CNT, .GW_ST])) ∧
  -- FUNCTION_RESET (R672).
  (∀ (s : State) (t : State),
      exec .functionReset s = .next t → 
        Unchanged [.pending, .dtime, .freeCtr, .fuses, .geoGen, .geoUpd, .uaLogAt, .denyLogAt, .stewards, .reconTimes, .reconLog, .preTest, .rebuildAt, .rebuildWarned, .staging, .pattern, .bootA, .bootB, .load, .bg, .cores, .geom, .buckets, .wheels, .devLevels, .rotor, .nextUid, .chunks, .seqs, .pins, .nsKeys, .frames, .epochs, .images, .cacheSf, .metaSf, .parity, .dropPaused, .outRem, .rowN, .gens, .viewCache, .histPages, .viewSlots, .viewWaits, .pbase, .syncAt, .orphanLog, .extents, .released, .lostHosts, .unbackedLogAt, .curLog, .rlinks, .ringOut, .camReqs, .pfcUntil, .orphanPend, .linkIn, .hdm, .evPolicy, .flash, .units, .streams, .eraseLists, .victims, .journalUnit, .slcTarget, .checkpointAt, .copiedCw, .saved, .tdis, .sessions, .signed, .ideKeys, .dataKeys, .sealReq, .memKey, .serial, .serialTop, .keyRows, .nonce, .deviceCerts, .ownerCerts, .lcTarget, .slotA, .slotB, .fwRun, .measured, .fwWriter, .calib, .heldActs, .tenantResets, .capDown, .ecoDown, .avsMiss, .lastSlow, .keyRepl, .replaceN, .power, .jtag] s t) ∧
  -- FLR (R672).
  (∀ (s : State) (host : HostId),
      MayChange (.flr host) s (noted ++ pieces [.out, .events, .spools, .comps, .inflight, .plainMem, .poisonLines, .orphanLines, .snoopFilter, .snoops, .lineQ, .rctx, .gws, .qps, .evLost, .evPolicy, .tdis, .sessions] [.TNT_STATE, .TNT_ERR, .SPL_SQS, .SPL_SQE, .PFX_CNT0, .ATN_CNT1, .SNL_CTX_ST, .SEC_TSTAT, .CXL_SF, .CXL_CNT, .GW_ST])) ∧
  -- PWR_FAIL_N_DEASSERT (R713).
  (∀ (s : State) (now : Nat),
      MayChange (.pwrFailNDeassert now) s [.dtime, .power]) ∧
  -- RAIL_LEAVES_REGULATION (R673).
  (∀ (s : State) (inQuiesce : Bool) (flushUs : Nat) (saved sealWhole : Bool),
      MayChange (.railLeavesRegulation inQuiesce flushUs saved sealWhole) s (noted ++ freed ++ pieces [.freeCtr, .out, .events, .denyLogAt, .buckets, .wheels, .devLevels, .spools, .comps, .inflight, .dropPaused, .viewWaits, .plainMem, .poisonLines, .orphanLines, .snoopFilter, .snoops, .lineQ, .lostHosts, .curLog, .rlinks, .ringOut, .rctx, .ringHeld, .camReqs, .gws, .qps, .shOut, .pfcUntil, .atsCache, .orphanPend, .hdm, .evLost, .units, .saved, .ideKeys, .serial, .serialTop, .keyRows, .heldActs, .power] [.TNT_STATE, .TNT_ERR, .HRT_DENY, .SPL_SQS, .SPL_SQE, .PFX_CNT0, .PGT_TIER, .ATN_CNT1, .SNL_CTX_ST, .SHT_CNT0, .SHT_CNT1, .SEC_NVS, .SEC_TSTAT, .PWR_STATUS, .CXL_LINKST, .CXL_SF, .CXL_ORPH, .CXL_CNT, .GW_ST])) ∧
  -- SUPPLIES_REMOVED (R714).
  (∀ (s : State),
      MayChange .suppliesRemoved s (freed ++ pieces [.buckets, .wheels, .devLevels, .inflight, .dropPaused, .viewWaits, .snoops, .lineQ, .curLog, .ringOut, .ringHeld, .camReqs, .shOut, .pfcUntil, .heldActs, .replaceN, .power] [.TNT_STATE, .PGT_TIER, .PWR_STATUS])) ∧
  -- SYSTEM_REFERENCE_LOST (R661).
  (∀ (s : State),
      MayChange .systemReferenceLost s (freed ++ pieces [.freeCtr, .buckets, .wheels, .devLevels, .inflight, .dropPaused, .viewWaits, .snoops, .lineQ, .curLog, .ringOut, .ringHeld, .camReqs, .shOut, .pfcUntil, .heldActs, .power] [.TNT_STATE, .PGT_TIER, .PWR_STATUS])) ∧
  -- JTAG_INSTRUCTION (R719).
  (∀ (s : State) (op : JtagOp) (pins cells : List Bool) (t : State),
      exec (.jtagInstruction op pins cells) s = .next t → 
        ChangesOnly [.out, .jtag] s t)

/-- NOP takes one cell, has no effect and ends OK, whatever the panels and loads are doing. A NOP whose only cell is held ends OK with results 0, and nothing but the list of commands in flight and its completion spool changes; no state of the pattern, of a panel or of a PATTERN_LOAD keeps a NOP from running; and of all NCELL values only 0 is accepted for it. The spec's sentence: "NOP takes one cell and has no effect. It completes OK, including while a PATTERN_LOAD is running (R77)." -/
def Obligations.NopHasNoEffectAndEndsOk : Prop :=
  -- it ends OK and changes nothing else.
  (∀ (s : State) (u : Nat) (c : Cmd),
      s.cmd u = some c → c.opcode = Oc.nop → c.full = true → 
        Completes (.nop u) s fun t => Ended s t c Cc.ok 0 0 ∧ ChangesOnly [.inflight, .comps] s t) ∧
  -- no pattern state holds it back.
  (∀ (s : State) (t : Nat),
      panelBusy s t Oc.nop = false) ∧
  -- it takes one cell.
  (∀ (s : State) (t : Nat) (first : List Word) (n : Nat),
      ncellOk s t Oc.nop first n = true ↔ n = 0)

/-- A cell beyond the grant and a doorbell beyond the grant are overruns. A whole cell written where (q - FREED) mod 65,536 is at least the grant is discarded, and a doorbell whose (TAIL - FREED) mod 65,536 exceeds the grant leaves TAIL as it was; either puts the spool in ERROR, sets TNT_ERR.CREDOVR and records event 0x0501 in LOG, unless it merges into a record of the same event of the last 1 ms (R738). The spec's sentence: "Either event puts the spool in ERROR, sets TNT_ERR.CREDOVR and records an event in LOG." -/
def Obligations.OverrunsPutTheSpoolInError : Prop :=
  -- a cell at or beyond the grant.
  (∀ (s : State) (h : HostId) (t : TenantId) (n : Fin 4) (off : Fin 4096) (bs : List Byte) (q : Nat),
      (hrtLookup s h true (winAddr t (4096 * n + off)) true .other).isSome → off.val % 64 = 0 → bs.length = 64 → q = slotSeq (s.sqNext t n) (off / 64) → sqGrant s t n ≤ seqSub q (s.sqFreed t n) → mapFind (s.spool t n).part (off / 64) = none → (s.spool t n).cutting = none → 
        Completes (.submissionCellWrite h t n off bs) s fun u =>
      (u.spool t n).cells = (s.spool t n).cells ∧ u.sqError t n = true ∧ u.flag Fd.TNT_ERR_CREDOVR t = true ∧
        (∃ r ∈ u.log, r.code = 0x0501 ∧ r.tenant = some t.val ∧ s.dtime ≤ r.dtime + 1000000)) ∧
  -- a doorbell beyond the grant.
  (∀ (s : State) (h : HostId) (t : TenantId) (n : Fin 4) (v : Word),
      (hrtLookup s h true (winAddr t (0x5000 + 8 * n)) true .other).isSome → bitsOf v 16 16 = 0 → 0 < seqSub (bitsOf v 15 0) (s.sqTail t n) → seqSub (bitsOf v 15 0) (s.sqTail t n) < 32768 → sqGrant s t n < seqSub (bitsOf v 15 0) (s.sqFreed t n) → 
        Completes (.doorbell h t n 8 v) s fun u =>
      u.sqTail t n = s.sqTail t n ∧ u.sqError t n = true ∧ u.flag Fd.TNT_ERR_CREDOVR t = true ∧
        (∃ r ∈ u.log, r.code = 0x0501 ∧ r.tenant = some t.val ∧ s.dtime ≤ r.dtime + 1000000))

/-- An event that equals a record of the last 1 ms merges into it and raises no alert. An event whose CODE, ISLAND, TENV and TENANT equal those of a record written within the last 1 ms advances the COUNT of one such record by one, saturating, and changes nothing else, the alerts for the management controller included; an event that equals no such record becomes the newest of the 8,192 records that the ring holds, with COUNT 1. The spec's sentence: "An event whose CODE, ISLAND, TENV and TENANT equal those of a record written within the last 1 ms is merged into that record." -/
def Obligations.RepeatedEventsMerge : Prop :=
  -- a repeated event.
  (∀ (s : State) (code sev island a0 a1 : Nat) (tenant : Option Nat) (r : LogRec),
      r ∈ s.log → r.code = code → r.island = island → r.tenant = tenant → s.dtime ≤ r.dtime + 1000000 → 
        ∃ before x after, s.log = before ++ x :: after ∧ x.code = code ∧ x.island = island ∧ x.tenant = tenant ∧ s.dtime ≤ x.dtime + 1000000 ∧
      (s.logEv code sev island tenant a0 a1).log = before ++ { x with count := min 65535 (x.count + 1) } :: after ∧
      ChangesOnly [.log] s (s.logEv code sev island tenant a0 a1)) ∧
  -- a new one.
  (∀ (s : State) (code sev island a0 a1 : Nat) (tenant : Option Nat),
      (∀ r ∈ s.log, r.code = code → r.island = island → r.tenant = tenant → r.dtime + 1000000 < s.dtime) → 
        (s.logEv code sev island tenant a0 a1).log =
      (s.log ++ [({ dtime := s.dtime, count := 1, island, tenant, sev, code, arg0 := a0, arg1 := a1 } : LogRec)]).drop (s.log.length + 1 - 8192))

/-- A slot wheel section passes the check exactly when every rule of the wheels holds. Of twelve wheels of 4,096 bytes, the check of a slot wheel section holds exactly when every byte names an owner, every wheel has at least 128 METADATA and 32 MAINT slots, every run of 65 consecutive slots counted round a wheel has a METADATA slot, and all wheels hold the same number of slots of each code. The spec's sentence: "all twelve wheels hold the same number of slots of each code, though positions may differ." -/
def Obligations.SlotWheelsAreValidExactlyByTheRules : Prop :=
  -- the check and the rules.
  (∀ (ws : List (List Nat)),
      ws.length = 12 → (∀ w ∈ ws, w.length = 4096) → 
        (wheelsOk ws = true ↔
      (∀ w ∈ ws, (∀ b ∈ w, b ≤ 7 ∨ b = 0x10 ∨ b = 0x11) ∧ 128 ≤ w.count 0x10 ∧ 32 ≤ w.count 0x11 ∧
        ∀ i, ∃ j < 65, w[(i + j) % 4096]? = some 0x10) ∧
      ∀ w ∈ ws, ∀ v ∈ ws, ∀ c, w.count c = v.count c))

/-- A write changes a field of a register exactly as its access code says. For every field of every register: an RW or RWS field takes the value written; an RWL field does while GLB.LOCK is clear, and otherwise ignores it; 1 clears a W1C field and sets a W1S field, 0 has no effect; a write to an RO field is ignored. No other field of the register, no other copy and no other piece of the state changes. -/
def Obligations.RegisterFieldsTakeWritesByTheirAccessCodes : Prop :=
  -- fields that take the value written.
  (∀ (s : State) (k : RegKind) (f : Field) (i : Nat) (v : Word),
      f ∈ k.fields → f.acc = .rw ∨ f.acc = .rws ∨ f.acc = .rwl ∧ s.flag Fd.GLB_LOCK = false → 
        (s.writeField f i v).fld f i = bitsOf v f.hi f.lo) ∧
  -- locked fields, RO fields and zeros written to W1C and W1S fields change nothing.
  (∀ (s : State) (k : RegKind) (f : Field) (i : Nat) (v : Word),
      f ∈ k.fields → f.acc = .ro ∨ f.acc = .rwl ∧ s.flag Fd.GLB_LOCK = true ∨ (f.acc = .w1c ∨ f.acc = .w1s) ∧ bitsOf v f.hi f.lo = 0 → 
        s.writeField f i v = s) ∧
  -- 1 clears a W1C bit and sets a W1S bit.
  (∀ (s : State) (k : RegKind) (f : Field) (i : Nat) (v : Word),
      f ∈ k.fields → f.acc = .w1c ∨ f.acc = .w1s → bitsOf v f.hi f.lo = 1 → 
        (s.writeField f i v).fld f i = if f.acc = .w1c then 0 else 1) ∧
  -- nothing else changes.
  (∀ (s : State) (k : RegKind) (f g : Field) (i j : Nat) (v : Word),
      f ∈ k.fields → g ∈ k.fields → f ≠ g ∨ i ≠ j → 
        (s.writeField f i v).fld g j = s.fld g j ∧ ChangesOnly [.reg k] s (s.writeField f i v))

/-- A denied access reads poison or all ones, writes nothing, is counted, and marks the tenant whose window it reached. A denied plain-region read returns poisoned data and a denied plain-region write is dropped; a denied BAR2 read returns all ones and a denied BAR2 write is dropped; the only other effect is the denial's own: HRT_DENY of the host counts it, saturating, TNT_ERR.HRTDENY is set where the address lies in a tenant's window or view window, and the first denial in each 1 ms is recorded in LOG. View and gateway windows deny through the same operation. The spec's sentence: "A denied CXL.mem read returns poisoned data, and a denied CXL.mem write is dropped. A denied BAR2 read returns all ones, and a denied BAR2 write is dropped." -/
def Obligations.DenialsAreCountedAndNothingElseHappens : Prop :=
  -- CXL.mem reads, caching shared, exclusive or not, and a write.
  (∀ (s : State) (h : HostId) (a : Nat) (bs : List (Option Byte)),
      gate s h a false = .denied → gate s h a true = .denied → 
        exec (.plainReadShared h a) s = .next ((s.deny h false a).respondData h (List.replicate 64 0) true none) ∧
      exec (.plainReadExclusive h a) s = .next ((s.deny h false a).respondData h (List.replicate 64 0) true none) ∧
      exec (.plainReadCurrent h a) s = .next ((s.deny h false a).respondData h (List.replicate 64 0) true none) ∧
      exec (.plainWrite h a bs) s = .next ((s.deny h false a).respond h none)) ∧
  -- BAR2 reads: head reads and others, and probes, of a tenant's window.
  (∀ (s : State) (h : HostId) (t : TenantId) (off : Fin 65536) (size outstanding : Nat) (port : Fin 4),
      hrtLookup s h true (winAddr t off) false .headRead = none → hrtLookup s h true (winAddr t off) false .probeRead = none → hrtLookup s h true (winAddr t off) false .other = none → 
        exec (.completionHeadRead h t off size) s = .next ((s.deny h true (winAddr t off)).emit (.readData h (allOnes size) false)) ∧
      exec (.presenceProbe h t off size port outstanding) s = .next ((s.deny h true (winAddr t off)).emit (.readData h (allOnes size) false))) ∧
  -- BAR2 writes: cells, doorbells and probe bases.
  (∀ (s : State) (h : HostId) (t : TenantId) (n : Fin 4) (off : Fin 4096) (p : Fin 65536) (size : Nat) (v : Word) (bs : List Byte),
      hrtLookup s h true (winAddr t (4096 * n + off)) true .other = none → hrtLookup s h true (winAddr t (0x5000 + 8 * n)) true .other = none → hrtLookup s h true (winAddr t p) true .other = none → 
        exec (.submissionCellWrite h t n off bs) s = .next (s.deny h true (winAddr t (4096 * n + off))) ∧
      exec (.doorbell h t n size v) s = .next (s.deny h true (winAddr t (0x5000 + 8 * n))) ∧
      exec (.probeBaseWrite h t p bs) s = .next (s.deny h true (winAddr t p))) ∧
  -- what a denial does.
  (∀ (s : State) (h a : Nat) (bar2 : Bool),
      (s.deny h bar2 a).fld Fd.HRT_DENY_COUNT h = min (2 ^ 64 - 1) (s.fld Fd.HRT_DENY_COUNT h + 1) ∧
      (∀ t, windowTenant bar2 a = some t → (s.deny h bar2 a).flag Fd.TNT_ERR_HRTDENY t = true) ∧
      ((∀ x, s.denyLogAt = some x → x + 1000000 ≤ s.dtime) →
        ∃ r ∈ (s.deny h bar2 a).log, r.code = 0x0401 ∧ r.tenant = windowTenant bar2 a ∧ s.dtime ≤ r.dtime + 1000000) ∧
      ((∃ x, s.denyLogAt = some x ∧ s.dtime < x + 1000000) → (s.deny h bar2 a).log = s.log))

/-- A probe of a tenant that is not ACTIVE reads zero where an entry admits it, and is denied where none does. A probe read that a host range entry admits returns a zero byte for each pair of handles of a tenant that is not ACTIVE, and is no denial; one that no entry admits is denied. The spec's sentence: "returns zero for every handle, that is ABSENT. It is not counted as a denial under R116. A probe read that no entry admits is denied under R116." -/
def Obligations.ProbesOfInactiveTenantsReadAbsent : Prop :=
  -- admitted, the tenant not ACTIVE.
  (∀ (s : State) (h : HostId) (t : TenantId) (off : Fin 65536) (size outstanding : Nat) (port : Fin 4),
      (hrtLookup s h true (winAddr t off) false .probeRead).isSome → s.active t.val = false → isProbe off size = true → mediaReady s = true → outstanding ≤ 32 → 
        Completes (.presenceProbe h t off size port outstanding) s fun u =>
      u.out = s.out ++ [.readData h (List.replicate size 0) false] ∧ u.fld Fd.HRT_DENY_COUNT h.val = s.fld Fd.HRT_DENY_COUNT h.val ∧
      ChangesOnly [.out, .reg .PGT_PRB] s u) ∧
  -- one beyond the 32 outstanding on its port is not accepted (R278).
  (∀ (s : State) (h : HostId) (t : TenantId) (off : Fin 65536) (size outstanding : Nat) (port : Fin 4),
      (hrtLookup s h true (winAddr t off) false .probeRead).isSome → isProbe off size = true → 32 < outstanding → 
        exec (.presenceProbe h t off size port outstanding) s = .next s) ∧
  -- admitted by no entry.
  (∀ (s : State) (h : HostId) (t : TenantId) (off : Fin 65536) (size outstanding : Nat) (port : Fin 4),
      hrtLookup s h true (winAddr t off) false .probeRead = none → 
        exec (.presenceProbe h t off size port outstanding) s = .next ((s.deny h true (winAddr t off)).emit (.readData h (allOnes size) false)))

/-- An OLD or RETIRING generation without references is freed; a CURRENT one and one referenced are kept. When the stewards free what nothing refers to, as they do after every change of holders, a generation of a tensor is still there exactly where it is CURRENT or a page or a COMMIT under way refers to it; its number is then free for another table. The spec's sentence: "An OLD or RETIRING generation is freed as soon as its references reach zero. It is then removed from every core and memory-controller island, and its number may be reused. A CURRENT generation is never freed." -/
def Obligations.GenerationsGoWithTheirLastReference : Prop :=
  -- what is left.
  (∀ (s : State) (prof tensor : Nat) (g : Gen),
      mapSorted s.gens = true → tensor < 256 → 
        (g ∈ s.reclaim.gensOf prof tensor ↔ g ∈ s.gensOf prof tensor ∧ (g.st = .current ∨ 0 < genUsers s.reclaim prof tensor g.num)))

/-- Collection takes the unit of the cache area with the fewest valid codewords, ties to the one programmed longest ago. The victim that collection takes next is a written unit of the cache area in service that is not open, not waiting for erase and not a victim already; no other such unit has fewer valid codewords, nor as few and an older last program; and there is a victim wherever there is such a unit. The spec's sentence: "Ties go to the unit whose last program is oldest. Open units and units on the pending-erase list are never victims." -/
def Obligations.CollectionTakesTheEmptiestUnit : Prop :=
  -- the victim.
  (∀ (s : State) (g : FlashGeo) (u : Nat),
      nextVictim s g = some u → 
        ∃ x, (u, x) ∈ s.units ∧ unitInCache s g u = true ∧ unitGone s g u = false ∧ x.opened = none ∧ x.pend = false ∧ u ∉ s.victims ∧
      ∀ e ∈ s.units, unitInCache s g e.1 = true → unitGone s g e.1 = false → 0 < e.2.written → e.2.opened = none → e.2.pend = false → e.2.failed = false →
        e.1 ∉ s.victims → validCw s u < validCw s e.1 ∨ (validCw s u = validCw s e.1 ∧ x.lastProg ≤ e.2.lastProg)) ∧
  -- there is one.
  (∀ (s : State) (g : FlashGeo) (e : Nat × EraseUnit),
      e ∈ s.units → unitInCache s g e.1 = true → unitGone s g e.1 = false → 0 < e.2.written → e.2.opened = none → e.2.pend = false → e.2.failed = false → e.1 ∉ s.victims → 
        (nextVictim s g).isSome)

/-- The chunk that is made hollow first has the lowest score, ties by descending depth, then descending handle. The score of a chunk is the sum of its page counters times the policy's weight of its depth; of the chunks that may be made hollow and whose owner is in service, the one chosen has no other of a lower score, nor one as low and deeper, nor one as low and as deep with a higher handle. The spec's sentence: "The *score* of a chunk is the sum of its page counters multiplied by DWTn, where n = min(DEPTH, 16) − 1. Ties are broken by descending depth, then descending handle." -/
def Obligations.TheLowestScoreIsMadeHollowFirst : Prop :=
  -- the score.
  (∀ (s : State) (c : Chunk),
      score s c = (c.pages.map fun p => p.ctr).sum * depthWeight s (min c.depth 16 - 1)) ∧
  -- the choice.
  (∀ (s : State) (h : Nat),
      lowestScore s none = some h → 
        ∃ c, (h, c) ∈ s.chunks ∧ hollowable s h c = true ∧ ownerDown s h = false ∧
      ∀ e ∈ s.chunks, hollowable s e.1 e.2 = true → ownerDown s e.1 = false →
        score s c < score s e.2 ∨ (score s c = score s e.2 ∧ (e.2.depth < c.depth ∨ (e.2.depth = c.depth ∧ e.1 ≤ h))))

/-- ACTIVATE and ENABLE of a sealed tenant need its TDI locked by the sealing requester, the link condition, CRCREQ and sealed memberships. Where nothing of R107 refuses it, ACTIVATE of a sealed CONFIGURED tenant and ENABLE of a sealed DISABLED one make it ACTIVE exactly when all four conditions hold; where one fails, the action leaves the tenant's state as it was and TNT_STATE.ACTERR reads 0x07, and nothing changes but TNT_CTRL and TNT_STATE. The spec's sentence: "If any of these fails, the action has no effect and TNT_STATE.ACTERR reads 0x07, SEALCOND." -/
def Obligations.SealedTenantsStartOnlyAsSealed : Prop :=
  -- ACTIVATE.
  (∀ (s u : State) (t : TenantId) (v : Word),
      u = s.writeTntCtrl t.val v → u.tstate t.val = TState.configured.code → u.fld Fd.SEC_TSTAT_KEYSRC t.val ≠ 0 → sqGrant u t.val 0 ≠ 0 → cqGrant u t.val 0 ≠ 0 → membershipsValid u t.val = true → u.compat = true ∨ windowGiven u t.val = true → tenantSealed u t.val = true → 
        (tdiLocked u (u.hostOf t.val) = true ∧ some (u.tdi (u.hostOf t.val)).req = mapFind u.sealReq t.val ∧ linkCondition u (u.hostOf t.val) = true ∧
        u.flag Fd.SPL_CFG_CRCREQ t.val = true ∧ membershipsWithin u t.val (sealGroups u t.val) (u.fld Fd.SEC_TSTAT_SEALRW t.val) = true →
        Completes (.tenantActivate t v) s fun w => w.tstate t.val = TState.active.code ∧ w.fld Fd.TNT_STATE_ACTERR t.val = 0) ∧
      (¬(tdiLocked u (u.hostOf t.val) = true ∧ some (u.tdi (u.hostOf t.val)).req = mapFind u.sealReq t.val ∧ linkCondition u (u.hostOf t.val) = true ∧
        u.flag Fd.SPL_CFG_CRCREQ t.val = true ∧ membershipsWithin u t.val (sealGroups u t.val) (u.fld Fd.SEC_TSTAT_SEALRW t.val) = true) →
        Completes (.tenantActivate t v) s fun w => w.tstate t.val = TState.configured.code ∧ w.fld Fd.TNT_STATE_ACTERR t.val = 7 ∧
          ChangesOnly [.reg .TNT_CTRL, .reg .TNT_STATE] s w)) ∧
  -- ENABLE.
  (∀ (s u : State) (t : TenantId) (v : Word),
      u = s.writeTntCtrl t.val v → u.tstate t.val = TState.disabled.code → u.fld Fd.SEC_TSTAT_KEYSRC t.val ≠ 0 → sqGrant u t.val 0 ≠ 0 → cqGrant u t.val 0 ≠ 0 → membershipsValid u t.val = true → u.compat = true ∨ windowGiven u t.val = true → tenantSealed u t.val = true → 
        (tdiLocked u (u.hostOf t.val) = true ∧ some (u.tdi (u.hostOf t.val)).req = mapFind u.sealReq t.val ∧ linkCondition u (u.hostOf t.val) = true ∧
        u.flag Fd.SPL_CFG_CRCREQ t.val = true ∧ membershipsWithin u t.val (sealGroups u t.val) (u.fld Fd.SEC_TSTAT_SEALRW t.val) = true →
        Completes (.enable t v) s fun w => w.tstate t.val = TState.active.code ∧ w.fld Fd.TNT_STATE_ACTERR t.val = 0) ∧
      (¬(tdiLocked u (u.hostOf t.val) = true ∧ some (u.tdi (u.hostOf t.val)).req = mapFind u.sealReq t.val ∧ linkCondition u (u.hostOf t.val) = true ∧
        u.flag Fd.SPL_CFG_CRCREQ t.val = true ∧ membershipsWithin u t.val (sealGroups u t.val) (u.fld Fd.SEC_TSTAT_SEALRW t.val) = true) →
        Completes (.enable t v) s fun w => w.tstate t.val = TState.disabled.code ∧ w.fld Fd.TNT_STATE_ACTERR t.val = 7 ∧
          ChangesOnly [.reg .TNT_CTRL, .reg .TNT_STATE] s w))

/-- ACTIVATE of a QP sets its send and expected receive PSNs from its context and every index and count to zero. Where nothing refuses ACTIVATE, the QP is READY with its send PSN ISPSN, its expected receive PSN IRPSN, its MSN, NSN, SQ, RQ and CQ indices and completion count zero, and its context as it was. That the two ends agree on their PSNs and that the CQ ring is zero-filled are the hosts' part. The spec's sentence: "At ACTIVATE, the QP's send PSN is set to ISPSN, its expected receive PSN (CPSN) to IRPSN, and its MSN, NSN, SQ, RQ and CQ indices and completion count to zero." -/
def Obligations.QueuePairsStartAtTheirInitialPsns : Prop :=
  -- ACTIVATE.
  (∀ (s : State) (q : Fin 65536),
      activateError s q.val = 0 → 
        Completes (.qpActivate q) s fun t =>
      (t.qp q.val).st = qpReady ∧ (t.qp q.val).ctx = (s.qp q.val).ctx ∧ (t.qp q.val).snxt = fieldOf (s.qp q.val).ctx 1 55 32 ∧
      (t.qp q.val).cpsn = fieldOf (s.qp q.val).ctx 2 23 0 ∧ (t.qp q.val).msn = 0 ∧ (t.qp q.val).nsn = 0 ∧ (t.qp q.val).sqHead = 0 ∧
      (t.qp q.val).rqBase = 0 ∧ (t.qp q.val).cqTail = 0 ∧ (t.qp q.val).scomp = 0 ∧ ∀ r, r ≠ q.val → t.qp r = s.qp r)

/-- The CRC of a command is CRC-32C of its bytes with bits [63:32] of word 0 taken as zero. A command with CRCEN 1 is refused with CRC_MISMATCH and detail 0x0001 exactly where CRC differs from the CRC-32C of its bytes in sequence order, with bits [63:32] of word 0 taken as zero; and CRC-32C of the ASCII bytes "123456789" is 0xE306_9283. The spec's sentence: "Over the ASCII bytes "123456789" this CRC gives 0xE306_9283." -/
def Obligations.CommandCrcsAreCrc32c : Prop :=
  -- the example.
  (crc32c [0x31, 0x32, 0x33, 0x34, 0x35, 0x36, 0x37, 0x38, 0x39] = 0xE3069283) ∧
  -- the check of a command.
  (∀ (s : State) (t : Nat) (first : List Word) (bytes : List Byte),
      hdrCrcEn (wordAt first 0) = true → 
        (spoolResult s t first bytes = some (Cc.crcMismatch, 0x0001) ↔
      crc32c (bytes.take 4 ++ [0, 0, 0, 0] ++ bytes.drop 8) ≠ fieldOf first 0 63 32))

/-- A ring request for a context that is not OPEN, or of another MODE, is answered NO_RIGHTS with detail 0x0145. GET_REQ, PUT and REDUCE_PUT that arrive at their target for a context that is not OPEN there, or whose MODE is not BULK, are answered with STATUS NO_RIGHTS and detail 0x0145, and nothing else happens; the model wakes the part and numbers the message. The spec's sentence: "is answered with STATUS NO_RIGHTS and detail 0x0145." -/
def Obligations.RequestsOutsideAnOpenBulkContextAreRefused : Prop :=
  -- each kind of request.
  (∀ (s u : State) (link : Fin 2) (m : RingMsg),
      m.dst = ringPos s → u = { s.wake with nextUid := s.nextUid + 1 } → ctxState u m.ctx ≠ ctxOpen ∨ u.fld Fd.SNL_CTX_CTL_MODE m.ctx ≠ 0 → 
        exec (.getReq link m) s = .next (u.answer { m with mtype := 1, data := [], bad := [] } 2 Cc.noRights 0x0145 [] []) ∧
      exec (.ringPut link m) s = .next (u.answer { m with mtype := 3 } 5 Cc.noRights 0x0145 [] []) ∧
      exec (.reducePut link m) s = .next (u.answer { m with mtype := 4 } 5 Cc.noRights 0x0145 [] []))

/-- After reset the registers hold the reset values of their rules, and every buffer, queue and table is empty. The part is BLANK with media not ready and GEO updating; the registers of every block hold the reset values that their rules give, among them those that are not zero; no command waits, LOG is empty, no cell, chunk, sequence, extent or line state is held. Values that the spec does not give (fuses, key-store rows) are the model's and are not stated here (log entries 3 and 4). -/
def Obligations.ResetLeavesTheStatedValues : Prop :=
  -- registers whose reset value is not zero.
  (State.reset.fld Fd.GLB_CFG_ALERTLVL = 1 ∧ State.reset.fld Fd.GLB_CFG_UALOG = 1 ∧ State.reset.fld Fd.GLB_ID_PART = 0x7212 ∧
      State.reset.fld Fd.SPL_DEV_FREECELLS = 262144 ∧ State.reset.fld Fd.PFX_CFG_CAMEN = 1 ∧ State.reset.fld Fd.PFX_CFG_HOTTH = 64 ∧
      State.reset.fld Fd.PFX_USE_FREESEQ = 4194304 ∧ State.reset.fld Fd.PFX_USE_FREECH = 16777216 ∧ State.reset.fld Fd.SHT_CFG_UDPPORT = 51170 ∧
      State.reset.fld Fd.FLT_SPARE_SPAREPCT = 100 ∧ State.reset.fld Fd.RAS_STATUS_INSVC = 12 ∧ State.reset.fld Fd.RAS_CTL_SCRUBH = 24 ∧
      State.reset.fld Fd.PWR_CTL_CAPW = 1250 ∧ State.reset.fld Fd.PWR_CTL_STBYMS = 1000 ∧
      (∀ t < 1024, State.reset.fld Fd.CXL_VW_VSLOTLOG t = 6) ∧ State.reset.fld Fd.LOG_HEALTH0_SPAREPCT = 100) ∧
  -- states and modes.
  (State.reset.fld Fd.SEC_LC_STATE = 0 ∧ State.reset.fld Fd.PWR_STATUS_MEDIA = 0 ∧ State.reset.geoUpd = true ∧ State.reset.fld Fd.PAT_STATUS_STATE = 0 ∧
      (∀ t < 1024, State.reset.tstate t = TState.free.code ∧ State.reset.fld Fd.TNT_ERR_CREDOVR t = 0) ∧
      State.reset.fld Fd.LOG_PTR_WRITTEN = 0 ∧ State.reset.fld Fd.LOG_PTR_OLDEST = 0 ∧ State.reset.fld Fd.GLB_LOCK = 0) ∧
  -- nothing is held.
  (State.reset.pending = [] ∧ State.reset.log = [] ∧ State.reset.inflight = [] ∧ State.reset.chunks = [] ∧ State.reset.seqs = [] ∧ State.reset.frames = [] ∧
      State.reset.spools = [] ∧ State.reset.comps = [] ∧ State.reset.extents = [] ∧ State.reset.snoopFilter = [] ∧ State.reset.viewSlots = [] ∧
      State.reset.images = [] ∧ State.reset.qps = [] ∧ State.reset.gws = [] ∧ State.reset.sessions = [] ∧ State.reset.plainMem = [] ∧
      ∀ t n, State.reset.spool t n = { cells := [], part := [], pos := 0, cutting := none, passed := 0, dropped := [] })

/-- A data granule lies on the stack, at the swizzled address and beside the parity stack that place(g) gives, and no two granules share a place. In the 11+1 layout the place of data granule g is that of place(g): its stack is j or j + 1 as j is below the row's parity stack p or not, its address is the swizzled address of its row, and p is the row's parity stack; the swizzled address has, below NSEL, the row's bits each exclusive-or the parity of the row under its mask, and the row's own bits at NSEL and above. No granule lies on its row's parity stack, and where the masks below NSEL are zero in bits NSEL - 1 to 0, as the section's check requires, two granules at one stack and address are the same granule. The spec's sentence: "Data granule g lies on the stack and at the stack address given below." -/
def Obligations.GranulesLieWherePlaceSays : Prop :=
  -- place(g): with r = g div 11, j = g mod 11 and p = (r + PROT) mod 12.
  (∀ (s : State) (g r j p : Nat),
      s.rowN = 11 → r = g / 11 → j = g % 11 → p = (r + swzProt s) % 12 → 
        stackPlace s g = { stack := if j < p then j else j + 1, addr := swzRow s r, parity := p }) ∧
  -- The swizzled address, bit by bit.
  (∀ (s : State) (r i : Nat),
      (i < swzNsel s → bitAt (swzRow s r) i = (bitAt r i != oddBits (r &&& swzMask s i))) ∧
        (swzNsel s ≤ i → bitAt (swzRow s r) i = bitAt r i)) ∧
  -- A granule's stack is not its row's parity stack, and both are stacks.
  (∀ (s : State) (g : Nat),
      s.rowN = 11 → 
        (stackPlace s g).stack ≠ (stackPlace s g).parity ∧ (stackPlace s g).stack < 12 ∧ (stackPlace s g).parity < 12) ∧
  -- Two granules at one stack and address are one granule.
  (∀ (s : State) (g h : Nat),
      s.rowN = 11 → (∀ i < swzNsel s, swzMask s i % 2 ^ swzNsel s = 0) → (stackPlace s g).stack = (stackPlace s h).stack → (stackPlace s g).addr = (stackPlace s h).addr → 
        g = h)
end

