-- ==== Sys2Proof/Laws/Bits.lean ====
section
/-!
SUPPORT. What bit fields read after they are written: the field itself, a field apart from it, and the whole word.
-/

set_option Elab.async false
namespace Sys2Proof.Machine

theorem bitsOf_lt (w : Word) (hi lo : Nat) : bitsOf w hi lo < 2 ^ (hi + 1 - lo) := Nat.mod_lt _ (Nat.two_pow_pos _)

/-- The number that a written word holds. -/
theorem setBits_toNat (w : Word) {hi lo : Nat} (v : Nat) (h : lo ≤ hi) (h64 : hi < 64) :
    (setBits w hi lo v).toNat =
      w.toNat % 2 ^ lo + (v % 2 ^ (hi + 1 - lo)) * 2 ^ lo + w.toNat / 2 ^ (hi + 1) * 2 ^ (hi + 1) := by
  unfold setBits
  rw [BitVec.toNat_ofNat]
  apply Nat.mod_eq_of_lt
  have e : 2 ^ (hi + 1) = 2 ^ (hi + 1 - lo) * 2 ^ lo := by rw [← Nat.pow_add]; congr 1; omega
  have e64 : (2 : Nat) ^ 64 = 2 ^ (63 - hi) * 2 ^ (hi + 1) := by rw [← Nat.pow_add]; congr 1; omega
  have h1 := Nat.mod_lt w.toNat (Nat.two_pow_pos lo)
  have h2 : v % 2 ^ (hi + 1 - lo) + 1 ≤ 2 ^ (hi + 1 - lo) := Nat.mod_lt v (Nat.two_pow_pos (hi + 1 - lo))
  have h3 : w.toNat / 2 ^ (hi + 1) + 1 ≤ 2 ^ (63 - hi) := by
    have := w.isLt
    rw [e64] at this
    exact (Nat.div_lt_iff_lt_mul (Nat.two_pow_pos _)).2 this
  have h4 := Nat.mul_le_mul_right (2 ^ lo) h2
  have h5 := Nat.mul_le_mul_right (2 ^ (hi + 1)) h3
  rw [Nat.add_mul] at h4 h5
  rw [← e] at h4
  rw [← e64] at h5
  omega

/-- A field reads what was written to it, cut to its width. -/
theorem bitsOf_setBits_same (w : Word) {hi lo : Nat} (v : Nat) (h : lo ≤ hi) (h64 : hi < 64) :
    bitsOf (setBits w hi lo v) hi lo = v % 2 ^ (hi + 1 - lo) := by
  unfold bitsOf
  rw [setBits_toNat w v h h64]
  have e : 2 ^ (hi + 1) = 2 ^ (hi + 1 - lo) * 2 ^ lo := by rw [← Nat.pow_add]; congr 1; omega
  rw [e, ← Nat.mul_assoc, Nat.add_assoc, ← Nat.add_mul, Nat.add_mul_div_right _ _ (Nat.two_pow_pos lo),
    Nat.div_eq_of_lt (Nat.mod_lt _ (Nat.two_pow_pos lo)), Nat.zero_add, Nat.add_mul_mod_self_right, Nat.mod_mod]

/-- A field above the one written keeps its value. -/
theorem bitsOf_setBits_above (w : Word) {hi lo : Nat} (v : Nat) {hi' lo' : Nat} (h : lo ≤ hi) (h64 : hi < 64) (ha : hi < lo') :
    bitsOf (setBits w hi lo v) hi' lo' = bitsOf w hi' lo' := by
  unfold bitsOf
  rw [setBits_toNat w v h h64]
  congr 1
  have e : 2 ^ (hi + 1) = 2 ^ (hi + 1 - lo) * 2 ^ lo := by rw [← Nat.pow_add]; congr 1; omega
  have e' : 2 ^ lo' = 2 ^ (hi + 1) * 2 ^ (lo' - (hi + 1)) := by rw [← Nat.pow_add]; congr 1; omega
  rw [e', ← Nat.div_div_eq_div_mul, ← Nat.div_div_eq_div_mul, Nat.add_mul_div_right _ _ (Nat.two_pow_pos _)]
  congr 1
  have h1 := Nat.mod_lt w.toNat (Nat.two_pow_pos lo)
  have h2 : v % 2 ^ (hi + 1 - lo) + 1 ≤ 2 ^ (hi + 1 - lo) := Nat.mod_lt v (Nat.two_pow_pos (hi + 1 - lo))
  have h4 := Nat.mul_le_mul_right (2 ^ lo) h2
  rw [Nat.add_mul, ← e] at h4
  rw [Nat.div_eq_of_lt (by omega), Nat.zero_add]

/-- A field below the one written keeps its value. -/
theorem bitsOf_setBits_below (w : Word) {hi lo : Nat} (v : Nat) {hi' lo' : Nat} (h : lo ≤ hi) (h64 : hi < 64) (hb : hi' < lo) (hl : lo' ≤ hi') :
    bitsOf (setBits w hi lo v) hi' lo' = bitsOf w hi' lo' := by
  unfold bitsOf
  rw [setBits_toNat w v h h64]
  have e : 2 ^ (hi + 1) = 2 ^ (hi + 1 - lo) * 2 ^ lo := by rw [← Nat.pow_add]; congr 1; omega
  have d : 2 ^ lo' * 2 ^ (hi' + 1 - lo') ∣ 2 ^ lo := by
    rw [← Nat.pow_add]; exact Nat.pow_dvd_pow 2 (by omega)
  rw [← Nat.mod_mul_right_div_self, ← Nat.mod_mul_right_div_self]
  congr 1
  rw [e, ← Nat.mul_assoc, Nat.add_assoc, ← Nat.add_mul]
  conv => lhs; rw [← Nat.mod_mod_of_dvd _ d, Nat.add_mul_mod_self_right, Nat.mod_mod]
  exact Nat.mod_mod_of_dvd _ d

end Sys2Proof.Machine
end

