-- ==== Sys2Proof/Laws/Coder.lean ====
section
/-!
SUPPORT. The canonical codes of a valid table share out the strings of 12 bits among them (R305); what follows for decoding, and that blocks decode to the bytes they were made of.
-/

set_option Elab.async false
namespace Sys2Proof.Machine

/-- Codes of consecutive intervals from a to b of the 4,096 strings of 12 bits: a code of n bits takes the 2^(12 - n) strings that begin with it. -/
def Tiles : Nat → Nat → List (Nat × Nat × Nat) → Prop
  | a, b, [] => a = b
  | a, b, e :: es => e.2.1 ≤ 12 ∧ e.2.2 * 2 ^ (12 - e.2.1) = a ∧ Tiles (a + 2 ^ (12 - e.2.1)) b es

theorem Tiles.append {a b c : Nat} {es fs : List (Nat × Nat × Nat)} (h : Tiles a b es) (g : Tiles b c fs) : Tiles a c (es ++ fs) := by
  induction es generalizing a with
  | nil => cases h; exact g
  | cons e es ih => exact ⟨h.1, h.2.1, ih h.2.2⟩

theorem Tiles.le {a b : Nat} {es : List (Nat × Nat × Nat)} (h : Tiles a b es) : a ≤ b := by
  induction es generalizing a with
  | nil => exact Nat.le_of_eq h
  | cons e es ih => exact Nat.le_trans (Nat.le_add_right _ _) (ih h.2.2)

/-- Every code's interval lies within the whole. -/
theorem Tiles.within {a b : Nat} {es : List (Nat × Nat × Nat)} (h : Tiles a b es) {e : Nat × Nat × Nat} (he : e ∈ es) :
    e.2.1 ≤ 12 ∧ a ≤ e.2.2 * 2 ^ (12 - e.2.1) ∧ e.2.2 * 2 ^ (12 - e.2.1) + 2 ^ (12 - e.2.1) ≤ b := by
  induction es generalizing a with
  | nil => exact nomatch he
  | cons x es ih =>
    rcases List.mem_cons.1 he with rfl | he
    · exact ⟨h.1, Nat.le_of_eq h.2.1.symm, h.2.1 ▸ h.2.2.le⟩
    · have := ih h.2.2 he
      exact ⟨this.1, Nat.le_trans (Nat.le_add_right _ _) this.2.1, this.2.2⟩

/-- Every string begins with a code. -/
theorem Tiles.covers {a b : Nat} {es : List (Nat × Nat × Nat)} (h : Tiles a b es) {v : Nat} (h1 : a ≤ v) (h2 : v < b) :
    ∃ e ∈ es, e.2.2 * 2 ^ (12 - e.2.1) ≤ v ∧ v < e.2.2 * 2 ^ (12 - e.2.1) + 2 ^ (12 - e.2.1) := by
  induction es generalizing a with
  | nil => cases h; omega
  | cons e es ih =>
    by_cases hv : v < a + 2 ^ (12 - e.2.1)
    · exact ⟨e, List.mem_cons_self, by rw [h.2.1]; exact h1, by rw [h.2.1]; exact hv⟩
    · obtain ⟨x, hx, h3⟩ := ih h.2.2 (by omega)
      exact ⟨x, List.mem_cons_of_mem _ hx, h3⟩

/-- No string begins with two codes. -/
theorem Tiles.unique {a b : Nat} {es : List (Nat × Nat × Nat)} (h : Tiles a b es) {v : Nat} {e f : Nat × Nat × Nat} (he : e ∈ es) (hf : f ∈ es)
    (e1 : e.2.2 * 2 ^ (12 - e.2.1) ≤ v) (e2 : v < e.2.2 * 2 ^ (12 - e.2.1) + 2 ^ (12 - e.2.1))
    (f1 : f.2.2 * 2 ^ (12 - f.2.1) ≤ v) (f2 : v < f.2.2 * 2 ^ (12 - f.2.1) + 2 ^ (12 - f.2.1)) : e = f := by
  induction es generalizing a with
  | nil => exact nomatch he
  | cons x es ih =>
    rcases List.mem_cons.1 he with he' | he' <;> rcases List.mem_cons.1 hf with hf' | hf'
    · rw [he', hf']
    · have := (h.2.2.within hf').2.1; rw [he', h.2.1] at e2; omega
    · have := (h.2.2.within he').2.1; rw [hf', h.2.1] at f2; omega
    · exact ih h.2.2 he' hf'

/-- The codes of one length. -/
theorem codesOfLen_spec (len : Nat) (hl : len ≤ 12) (l : List Nat) : ∀ code sym,
    Tiles (code * 2 ^ (12 - len)) ((code + (codesOfLen len code sym l).length) * 2 ^ (12 - len)) (codesOfLen len code sym l) ∧
    (codesOfLen len code sym l).length = l.count len ∧
    ∀ e ∈ codesOfLen len code sym l, e.2.1 = len ∧ sym ≤ e.1 ∧ l[e.1 - sym]? = some len := by
  induction l with
  | nil => intro code sym; simp [codesOfLen, Tiles]
  | cons n l ih =>
    intro code sym
    simp only [codesOfLen]
    split
    · rename_i hn
      obtain ⟨h1, h2, h3⟩ := ih (code + 1) (sym + 1)
      refine ⟨⟨hl, rfl, ?_⟩, ?_, ?_⟩
      · rw [show code * 2 ^ (12 - len) + 2 ^ (12 - len) = (code + 1) * 2 ^ (12 - len) by rw [Nat.add_mul, Nat.one_mul], List.length_cons]
        rw [show code + ((codesOfLen len (code + 1) (sym + 1) l).length + 1) = code + 1 + (codesOfLen len (code + 1) (sym + 1) l).length by omega]
        exact h1
      · rw [List.length_cons, h2, hn, List.count_cons_self]
      · intro e he
        rcases List.mem_cons.1 he with rfl | he
        · exact ⟨rfl, Nat.le_refl _, by simp [hn]⟩
        · obtain ⟨a, b, c⟩ := h3 e he
          refine ⟨a, by omega, ?_⟩
          rw [show e.1 - sym = (e.1 - (sym + 1)) + 1 by omega, List.getElem?_cons_succ]; exact c
    · rename_i hn
      obtain ⟨h1, h2, h3⟩ := ih code (sym + 1)
      refine ⟨h1, ?_, ?_⟩
      · rw [h2, List.count_cons_of_ne hn]
      · intro e he
        obtain ⟨a, b, c⟩ := h3 e he
        refine ⟨a, by omega, ?_⟩
        rw [show e.1 - sym = (e.1 - (sym + 1)) + 1 by omega, List.getElem?_cons_succ]; exact c

/-- How many strings the codes of lengths from m to 12 take. -/
def mass (l : List Nat) (m : Nat) : Nat := (l.map fun n => if m ≤ n ∧ n ≤ 12 then 2 ^ (12 - n) else 0).sum

theorem mass_step (l : List Nat) (m : Nat) (hm : m ≤ 12) : mass l m = l.count m * 2 ^ (12 - m) + mass l (m + 1) := by
  induction l with
  | nil => simp [mass]
  | cons n l ih =>
    simp only [mass, List.map_cons, List.sum_cons] at ih ⊢
    rw [ih]
    by_cases h : n = m
    · subst h
      rw [if_pos ⟨Nat.le_refl _, hm⟩, if_neg (by omega), List.count_cons_self, Nat.add_mul, Nat.one_mul]; omega
    · rw [List.count_cons_of_ne h]
      by_cases h2 : m ≤ n ∧ n ≤ 12
      · rw [if_pos h2, if_pos (by omega)]; omega
      · rw [if_neg h2, if_neg (by omega)]; omega

theorem mass_end (l : List Nat) : mass l 13 = 0 := by
  induction l with
  | nil => rfl
  | cons n l ih =>
    simp only [mass, List.map_cons, List.sum_cons] at ih ⊢
    rw [ih, if_neg (by omega)]

/-- The codes of lengths from `len` up. -/
theorem canonFrom_spec (l : List Nat) : ∀ fuel len code, len + fuel = 13 → 1 ≤ len →
    Tiles (code * 2 ^ (12 - len)) (code * 2 ^ (12 - len) + mass l len) (canonFrom l fuel len code) ∧
    ∀ e ∈ canonFrom l fuel len code, 1 ≤ e.2.1 ∧ e.2.1 ≤ 12 ∧ l[e.1]? = some e.2.1 := by
  intro fuel
  induction fuel with
  | zero =>
    intro len code h _
    have : len = 13 := by omega
    subst this
    exact ⟨by simp [canonFrom, Tiles, mass_end], fun e he => nomatch he⟩
  | succ fuel ih =>
    intro len code h hl
    simp only [canonFrom]
    obtain ⟨h1, h2, h3⟩ := codesOfLen_spec len (by omega) l code 0
    obtain ⟨h4, h5⟩ := ih (len + 1) ((code + (codesOfLen len code 0 l).length) * 2) (by omega) (by omega)
    refine ⟨?_, ?_⟩
    · apply Tiles.append h1
      rw [mass_step l len (by omega), ← h2]
      have e : (code + (codesOfLen len code 0 l).length) * 2 ^ (12 - len) = code * 2 ^ (12 - len) + (codesOfLen len code 0 l).length * 2 ^ (12 - len) := Nat.add_mul ..
      by_cases h12 : len = 12
      · subst h12
        have hf : fuel = 0 := by omega
        subst hf
        rw [mass_end, Nat.add_zero]
        exact e
      · have e2 : (code + (codesOfLen len code 0 l).length) * 2 * 2 ^ (12 - (len + 1)) = (code + (codesOfLen len code 0 l).length) * 2 ^ (12 - len) := by
          rw [Nat.mul_assoc, ← Nat.pow_succ', show (12 - (len + 1)).succ = 12 - len by omega]
        rw [e2] at h4
        rw [← Nat.add_assoc, ← e]; exact h4
    · intro e he
      rcases List.mem_append.1 he with he | he
      · obtain ⟨a, b, c⟩ := h3 e he
        rw [Nat.sub_zero] at c
        rw [a]; exact ⟨hl, by omega, c⟩
      · exact h5 e he

/-- What the canonical codes of a valid table are: they share out the 4,096 strings of 12 bits, and each stands for a symbol of its length. -/
theorem canonical_spec {w : Nat} {l : List Nat} (hw : w = 4 ∨ w = 8) (ht : tableOk w l = true) (hl : l.length = 256) :
    Tiles 0 4096 (canonical w l) ∧ ∀ e ∈ canonical w l, 1 ≤ e.2.1 ∧ e.2.1 ≤ 12 ∧ (l.take (2 ^ w))[e.1]? = some e.2.1 := by
  simp only [tableOk, Bool.and_eq_true, List.all_eq_true, decide_eq_true_eq, beq_iff_eq] at ht
  obtain ⟨⟨⟨_, h12⟩, hs⟩, h4⟩ := ht
  have hm : ∀ m : List Nat, (∀ n ∈ m, n ≤ 12) → (m.map fun n => if n = 0 then 0 else 2 ^ (12 - n)).sum = mass m 1 := by
    intro m hm
    induction m with
    | nil => rfl
    | cons n m ih =>
      simp only [mass, List.map_cons, List.sum_cons] at ih ⊢
      rw [ih fun x hx => hm x (List.mem_cons_of_mem _ hx)]
      have := hm n List.mem_cons_self
      by_cases h : n = 0
      · rw [if_pos h, if_neg (by omega)]
      · rw [if_neg h, if_pos (by omega)]
  have hmass : mass (l.take (2 ^ w)) 1 = 4096 := by
    rw [← hm _ fun n hn => h12 n (List.mem_of_mem_take hn)]
    rcases hw with rfl | rfl
    · have hz : ((l.drop 16).map fun n => if n = 0 then 0 else 2 ^ (12 - n)).sum = 0 := by
        have h4' : ∀ n ∈ l.drop 16, n = 0 := by simpa using h4
        generalize l.drop 16 = d at h4'
        induction d with
        | nil => rfl
        | cons n d ih =>
          rw [List.map_cons, List.sum_cons, if_pos (h4' n List.mem_cons_self), ih fun x hx => h4' x (List.mem_cons_of_mem _ hx)]
      have := congrArg List.sum (congrArg (List.map fun n => if n = 0 then 0 else 2 ^ (12 - n)) (List.take_append_drop 16 l))
      rw [List.map_append, List.sum_append, hz, hs] at this
      exact this
    · rw [List.take_of_length_le (by omega)]; exact hs
  obtain ⟨h1, h2⟩ := canonFrom_spec (l.take (2 ^ w)) 12 1 0 rfl (Nat.le_refl _)
  rw [Nat.zero_mul, Nat.zero_add, hmass] at h1
  exact ⟨h1, h2⟩

theorem codeBits_length : ∀ n c, (codeBits n c).length = n
  | 0, _ => rfl
  | n + 1, c => by rw [codeBits, List.length_cons, codeBits_length n c]

theorem bitAt_div (c a b : Nat) : bitAt (c / 2 ^ b) a = bitAt c (a + b) := by
  simp only [bitAt, Nat.div_div_eq_div_mul, ← Nat.pow_add, Nat.add_comm b a]

theorem codeBits_append (a b v : Nat) : codeBits (a + b) v = codeBits a (v / 2 ^ b) ++ codeBits b v := by
  induction a with
  | zero => simp [codeBits]
  | succ a ih => rw [Nat.succ_add, codeBits, ih, codeBits, bitAt_div]; rfl

/-- Every string of bits is the code bits of a number. -/
theorem bits_of (bs : List Bool) : ∃ v, v < 2 ^ bs.length ∧ codeBits bs.length v = bs := by
  induction bs with
  | nil => exact ⟨0, by decide, rfl⟩
  | cons b bs ih =>
    obtain ⟨v, hv, e⟩ := ih
    have hp : 0 < 2 ^ bs.length := Nat.two_pow_pos _
    have hd : (b2n b * 2 ^ bs.length + v) / 2 ^ bs.length = b2n b := by
      rw [Nat.add_comm, Nat.add_mul_div_right _ _ hp, Nat.div_eq_of_lt hv, Nat.zero_add]
    refine ⟨b2n b * 2 ^ bs.length + v, ?_, ?_⟩
    · rw [List.length_cons, Nat.pow_succ]
      cases b
      · show 0 * _ + v < _; omega
      · show 1 * _ + v < _; omega
    · rw [List.length_cons, codeBits]
      congr 1
      · simp only [bitAt, hd]
        cases b <;> rfl
      · have hmod : ∀ n x, codeBits n x = codeBits n (x % 2 ^ n) := by
          intro n
          induction n with
          | zero => intro x; rfl
          | succ n ihn =>
            intro x
            rw [codeBits, codeBits, ihn x, ihn (x % 2 ^ (n + 1))]
            congr 1
            · simp only [bitAt]
              rw [Nat.mod_pow_succ, Nat.add_mul_div_left _ _ (Nat.two_pow_pos n), Nat.div_eq_of_lt (Nat.mod_lt _ (Nat.two_pow_pos n)), Nat.zero_add]
              simp
            · rw [Nat.mod_mod_of_dvd _ (Nat.pow_dvd_pow 2 (Nat.le_succ n))]
        rw [hmod, Nat.mul_comm, Nat.mul_add_mod, Nat.mod_eq_of_lt hv]; exact e

/-- Decoding the bits of a code gives its symbol, and what follows. -/
theorem decodeSym_code {codes : List (Nat × Nat × Nat)} (ht : Tiles 0 4096 codes) {s n c : Nat} (he : (s, n, c) ∈ codes) (rest : List Bool) :
    ∀ m k, m + 1 + k = n → decodeSym codes (12 - k) k (c / 2 ^ (m + 1)) (codeBits (m + 1) c ++ rest) = some (s, rest) := by
  have hn : n ≤ 12 := (ht.within he).1
  have hp : ∀ x : Nat, 0 < 2 ^ x := Nat.two_pow_pos
  -- a code that matches after m more bits are left takes the first string of this one
  have same : ∀ e ∈ codes, ∀ m, e.2.1 + m = n → e.2.2 = c / 2 ^ m → e = (s, n, c) := by
    intro e hm m h1 h2
    refine ht.unique hm he (v := c * 2 ^ (12 - n)) ?_ ?_ (Nat.le_refl _) (Nat.lt_add_of_pos_right (hp _))
    · rw [h2, show 12 - e.2.1 = m + (12 - n) by omega, Nat.pow_add, ← Nat.mul_assoc]
      exact Nat.mul_le_mul_right _ (Nat.div_mul_le_self _ _)
    · rw [h2, show 12 - e.2.1 = m + (12 - n) by omega, Nat.pow_add, ← Nat.mul_assoc, ← Nat.add_mul]
      refine Nat.mul_lt_mul_of_pos_right ?_ (hp _)
      have := Nat.lt_mul_div_succ c (hp m)
      rw [Nat.mul_comm] at this
      rw [← Nat.succ_mul]; exact this
  have acc : ∀ m, 2 * (c / 2 ^ (m + 1)) + b2n (bitAt c m) = c / 2 ^ m := by
    intro m
    have : c / 2 ^ (m + 1) = c / 2 ^ m / 2 := by rw [Nat.pow_succ, Nat.div_div_eq_div_mul]
    rw [this]
    have hb : b2n (bitAt c m) = c / 2 ^ m % 2 := by
      simp only [bitAt]
      rcases Nat.mod_two_eq_zero_or_one (c / 2 ^ m) with h | h <;> rw [h] <;> rfl
    rw [hb]; exact Nat.div_add_mod _ 2
  intro m
  induction m with
  | zero =>
    intro k hk
    rw [show 12 - k = (11 - k) + 1 by omega, codeBits, List.cons_append, decodeSym]
    simp only [acc 0, Nat.pow_zero, Nat.div_one]
    have hx : (codes.find? fun e => e.2.1 == k + 1 && e.2.2 == c) = some (s, n, c) := by
      cases hf : codes.find? fun e => e.2.1 == k + 1 && e.2.2 == c with
      | none =>
        have := List.find?_eq_none.1 hf _ he
        simp at this; omega
      | some e =>
        have h1 := List.find?_some hf
        simp only [Bool.and_eq_true, beq_iff_eq] at h1
        rw [same e (List.mem_of_find?_eq_some hf) 0 (by omega) (by simp [h1.2])]
    rw [hx]; rfl
  | succ m ih =>
    intro k hk
    rw [show 12 - k = (11 - k) + 1 by omega, codeBits, List.cons_append, decodeSym]
    simp only [acc (m + 1)]
    have hx : (codes.find? fun e => e.2.1 == k + 1 && e.2.2 == c / 2 ^ (m + 1)) = none := by
      rw [List.find?_eq_none]
      intro e hm h
      simp only [Bool.and_eq_true, beq_iff_eq] at h
      have := same e hm (m + 1) (by omega) h.2
      rw [this] at h; simp only at h; omega
    rw [hx]
    have := ih (k + 1) (by omega)
    rw [show 12 - (k + 1) = 11 - k by omega] at this
    exact this

theorem decodeSym_at {codes : List (Nat × Nat × Nat)} (ht : Tiles 0 4096 codes) {s n c : Nat} (he : (s, n, c) ∈ codes) (h1 : 1 ≤ n) (rest : List Bool) :
    decodeSym codes 12 0 0 (codeBits n c ++ rest) = some (s, rest) := by
  have hw := ht.within he
  simp only [Nat.zero_le, true_and] at hw
  have hc : c < 2 ^ n := by
    have h2 : (c + 1) * 2 ^ (12 - n) ≤ 2 ^ n * 2 ^ (12 - n) := by
      rw [← Nat.pow_add, show n + (12 - n) = 12 by omega, Nat.add_mul, Nat.one_mul]; exact hw.2
    exact Nat.le_of_mul_le_mul_right h2 (Nat.two_pow_pos _)
  obtain ⟨m, rfl⟩ : ∃ m, n = m + 1 := ⟨n - 1, by omega⟩
  have := decodeSym_code ht he rest m 0 (by omega)
  rw [Nat.div_eq_of_lt hc] at this
  exact this

/-- A string of 12 bits or more begins with a code. -/
theorem code_begins {codes : List (Nat × Nat × Nat)} (ht : Tiles 0 4096 codes) (bits : List Bool) (h : 12 ≤ bits.length) :
    ∃ e ∈ codes, ∃ rest, bits = codeBits e.2.1 e.2.2 ++ rest := by
  obtain ⟨v, hv, hb⟩ := bits_of (bits.take 12)
  rw [List.length_take, Nat.min_eq_left h] at hv hb
  obtain ⟨e, he, h1, h2⟩ := ht.covers (Nat.zero_le v) hv
  have hn := (ht.within he).1
  have hq : v / 2 ^ (12 - e.2.1) = e.2.2 := by
    have hp : 0 < 2 ^ (12 - e.2.1) := Nat.two_pow_pos _
    rw [Nat.div_eq_iff hp]; omega
  refine ⟨e, he, codeBits (12 - e.2.1) v ++ bits.drop 12, ?_⟩
  rw [← List.append_assoc, ← hq, ← codeBits_append, show e.2.1 + (12 - e.2.1) = 12 by omega, hb, List.take_append_drop]

/-- The bits of a symbol with a code are that code's. -/
theorem find_symbol {codes : List (Nat × Nat × Nat)} {s : Nat} {b : List Bool}
    (h : (codes.find? fun e => e.1 == s).map (fun e => codeBits e.2.1 e.2.2) = some b) : ∃ n c, (s, n, c) ∈ codes ∧ b = codeBits n c := by
  rw [Option.map_eq_some_iff] at h
  obtain ⟨e, he, rfl⟩ := h
  have h1 := List.find?_some he
  simp only [beq_iff_eq] at h1
  exact ⟨e.2.1, e.2.2, by rw [← h1]; exact List.mem_of_find?_eq_some he, rfl⟩

/-- Decoding the code bits of symbols gives the symbols. -/
theorem decodeSyms_encode {codes : List (Nat × Nat × Nat)} (ht : Tiles 0 4096 codes) (h1 : ∀ e ∈ codes, 1 ≤ e.2.1) (rest : List Bool) :
    ∀ (syms : List Nat) (bits : List Bool), encodeBits codes syms = some bits → decodeSyms codes syms.length (bits ++ rest) = some (syms, rest) := by
  intro syms
  induction syms with
  | nil =>
    intro bits h
    simp only [encodeBits, List.mapM_nil, Option.pure_def, Option.map_some, List.flatten_nil, Option.some.injEq] at h
    rw [← h]; rfl
  | cons s syms ih =>
    intro bits h
    simp only [encodeBits, List.mapM_cons, Option.pure_def, Option.bind_eq_bind, Option.map_eq_some_iff, Option.bind_eq_some_iff] at h
    obtain ⟨bs, ⟨b, hb, r, hr, e⟩, rfl⟩ := h
    cases e
    obtain ⟨n, c, hm, rfl⟩ := find_symbol (s := s) (b := b) (by rw [Option.map_eq_some_iff]; exact hb)
    have hrec := ih r.flatten (by rw [encodeBits, hr]; rfl)
    rw [List.flatten_cons, List.append_assoc, List.length_cons, decodeSyms, decodeSym_at ht hm (h1 _ hm)]
    simp only [hrec]

theorem encodeBits_length {codes : List (Nat × Nat × Nat)} (h1 : ∀ e ∈ codes, 1 ≤ e.2.1) :
    ∀ (syms : List Nat) (bits : List Bool), encodeBits codes syms = some bits → syms.length ≤ bits.length := by
  intro syms
  induction syms with
  | nil => intro bits _; exact Nat.zero_le _
  | cons s syms ih =>
    intro bits h
    simp only [encodeBits, List.mapM_cons, Option.pure_def, Option.bind_eq_bind, Option.map_eq_some_iff, Option.bind_eq_some_iff] at h
    obtain ⟨bs, ⟨b, hb, r, hr, e⟩, rfl⟩ := h
    cases e
    obtain ⟨n, c, hm, rfl⟩ := find_symbol (s := s) (b := b) (by rw [Option.map_eq_some_iff]; exact hb)
    have hrec := ih r.flatten (by rw [encodeBits, hr]; rfl)
    have := h1 _ hm
    rw [List.flatten_cons, List.length_append, codeBits_length, List.length_cons]
    simp only at this; omega

/-- The bits of a byte made of eight bits, zeros where bits are missing. -/
theorem byte_bits (b : List Bool) (h : b.length ≤ 8) : codeBits 8 (byteOfBits b).toNat = b ++ List.replicate (8 - b.length) false := by
  have hx : ∀ x0 x1 x2 x3 x4 x5 x6 x7 : Bool, codeBits 8 (byteOfBits [x0, x1, x2, x3, x4, x5, x6, x7]).toNat = [x0, x1, x2, x3, x4, x5, x6, x7] := by decide
  have hp : byteOfBits b = byteOfBits (b ++ List.replicate (8 - b.length) false) := by
    have : ∀ i, b.getD i false = (b ++ List.replicate (8 - b.length) false).getD i false := by
      intro i
      simp only [List.getD]
      by_cases hi : i < b.length
      · rw [List.getElem?_append_left hi]
      · rw [List.getElem?_append_right (by omega), List.getElem?_eq_none (by omega), List.getElem?_replicate]
        split <;> rfl
    simp only [byteOfBits, this]
  rw [hp]
  have hl : (b ++ List.replicate (8 - b.length) false).length = 8 := by rw [List.length_append, List.length_replicate]; omega
  generalize b ++ List.replicate (8 - b.length) false = d at hl
  match d, hl with
  | [x0, x1, x2, x3, x4, x5, x6, x7], _ => exact hx ..

/-- Packing bits into bytes and unpacking them gives them back, padded with zeros. -/
theorem unpack_pack : ∀ (n : Nat) (b : List Bool), b.length ≤ 8 * n → unpackBits (packBits n b) = b ++ List.replicate (8 * n - b.length) false := by
  intro n
  induction n with
  | zero =>
    intro b h
    have : b = [] := List.eq_nil_of_length_eq_zero (by omega)
    subst this; rfl
  | succ n ih =>
    intro b h
    have hr := ih (b.drop 8) (by rw [List.length_drop]; omega)
    simp only [unpackBits] at hr ⊢
    rw [packBits, List.flatMap_cons, hr, byte_bits _ (by rw [List.length_take]; omega), List.length_take, List.length_drop]
    by_cases h8 : 8 ≤ b.length
    · rw [Nat.min_eq_left h8, Nat.sub_self, List.replicate_zero, List.append_nil, ← List.append_assoc, List.take_append_drop]
      congr 2; omega
    · rw [Nat.min_eq_right (by omega), List.take_of_length_le (by omega), List.drop_of_length_le (by omega), List.nil_append, List.append_assoc, List.replicate_append_replicate]
      congr 2; omega

/-- The bytes of a block's symbols are its raw bytes (R301). -/
theorem symbols_bytes {w : Nat} (hw : w = 4 ∨ w = 8) (bs : List Byte) : bytesOfSymbols w (symbolsOf w bs) = bs := by
  have e4 : ∀ a b r, bytesOfSymbols 4 (a :: b :: r) = BitVec.ofNat 8 (a + 16 * b) :: bytesOfSymbols 4 r := fun _ _ _ => rfl
  have e8 : ∀ a r, bytesOfSymbols 8 (a :: r) = BitVec.ofNat 8 a :: bytesOfSymbols 8 r := fun _ r => by cases r <;> rfl
  rcases hw with rfl | rfl
  · simp only [symbolsOf, if_true]
    induction bs with
    | nil => rfl
    | cons b bs ih =>
      rw [List.flatMap_cons, List.cons_append, List.cons_append, List.nil_append, e4, ih]
      congr 1
      apply BitVec.eq_of_toNat_eq
      rw [BitVec.toNat_ofNat]
      have := b.isLt
      omega
  · simp only [symbolsOf, Nat.reduceEqDiff, if_false]
    induction bs with
    | nil => rfl
    | cons b bs ih =>
      rw [List.map_cons, e8, ih]
      congr 1
      simp

theorem symbols_length {w : Nat} (hw : w = 4 ∨ w = 8) (bs : List Byte) : (symbolsOf w bs).length = if w = 4 then 2 * bs.length else bs.length := by
  rcases hw with rfl | rfl
  · simp only [symbolsOf, if_true]
    induction bs with
    | nil => rfl
    | cons b bs ih => rw [List.flatMap_cons, List.length_append, ih, List.length_cons]; simp only [List.length_cons, List.length_nil]; omega
  · simp [symbolsOf]

end Sys2Proof.Machine
end

