-- ==== Sys2Proof/Laws/Map.lean ====
section
/-!
SUPPORT. What the operations on sparse tables and byte memories do: a read after a write, and the canonical form, which every one of them keeps.
-/

set_option Elab.async false
namespace Sys2Proof.Machine

variable {V : Type}

/-! ### Reads after writes -/

@[simp] theorem mapFind_nil (a : Nat) : mapFind ([] : NMap V) a = none := rfl

theorem mapFind_mapIns_same (a : Nat) (v : V) (m : NMap V) : mapFind (mapIns a v m) a = some v := by
  induction m with
  | nil => simp [mapIns, mapFind]
  | cons e m ih =>
    obtain ⟨k, w⟩ := e
    simp only [mapIns]
    split
    · simp [mapFind]
    · split
      · simp [mapFind]
      · simp only [mapFind]
        rw [if_neg (by omega)]
        exact ih

theorem mapFind_mapIns_ne {a b : Nat} (h : a ≠ b) (v : V) (m : NMap V) : mapFind (mapIns a v m) b = mapFind m b := by
  induction m with
  | nil => simp [mapIns, mapFind, h]
  | cons e m ih =>
    obtain ⟨k, w⟩ := e
    simp only [mapIns]
    split
    · simp [mapFind, h]
    · split
      · subst_vars; simp [mapFind, h]
      · simp only [mapFind, ih]

/-- A table after an insertion. -/
theorem mapFind_mapIns (a b : Nat) (v : V) (m : NMap V) :
    mapFind (mapIns a v m) b = if a = b then some v else mapFind m b := by
  by_cases h : a = b
  · subst h; simp [mapFind_mapIns_same]
  · simp [h, mapFind_mapIns_ne h]

/-- A table after a removal. -/
theorem mapFind_mapDel (a b : Nat) (m : NMap V) :
    mapFind (mapDel a m) b = if a = b then none else mapFind m b := by
  induction m with
  | nil => simp [mapDel, mapFind]
  | cons e m ih =>
    obtain ⟨k, w⟩ := e
    by_cases h : k = a
    · subst h
      by_cases hb : k = b
      · subst hb; simpa [mapDel] using ih
      · simp [mapDel, mapFind, hb, ih]
    · simp only [mapDel, if_neg h, mapFind, ih]
      by_cases hk : k = b
      · subst hk; simp [Ne.symm h]
      · simp [hk]

/-- A table after a change of one value. -/
theorem mapFind_mapUpd (a b : Nat) (f : V → V) (m : NMap V) :
    mapFind (mapUpd a f m) b = if a = b then (mapFind m b).map f else mapFind m b := by
  induction m with
  | nil => simp [mapUpd, mapFind]
  | cons e m ih =>
    obtain ⟨k, w⟩ := e
    by_cases h : k = a
    · subst h
      by_cases hb : k = b
      · simp [mapUpd, mapFind, hb]
      · simp [mapUpd, mapFind, hb, ih]
    · simp only [mapUpd, if_neg h, mapFind, ih]
      by_cases hk : k = b
      · subst hk; simp [Ne.symm h]
      · simp [hk]

/-! ### The canonical form -/

/-- Every key of a table is above a bound. -/
def keysAbove (b : Nat) (m : NMap V) : Prop := ∀ e ∈ m, b < e.1

theorem mapSorted_cons {e : Nat × V} {m : NMap V} : mapSorted (e :: m) = true ↔ keysAbove e.1 m ∧ mapSorted m = true := by
  induction m generalizing e with
  | nil => simp [mapSorted, keysAbove]
  | cons f m ih =>
    simp only [mapSorted, Bool.and_eq_true, decide_eq_true_eq]
    constructor
    · rintro ⟨h1, h2⟩
      refine ⟨?_, h2⟩
      intro x hx
      rcases List.mem_cons.1 hx with rfl | hx
      · exact h1
      · exact Nat.lt_trans h1 ((ih.1 h2).1 x hx)
    · rintro ⟨h1, h2⟩
      exact ⟨h1 f (List.mem_cons_self ..), h2⟩

theorem keysAbove_mapIns {b a : Nat} {v : V} {m : NMap V} (h : keysAbove b m) (hb : b < a) : keysAbove b (mapIns a v m) := by
  induction m with
  | nil => intro x hx; simp [mapIns] at hx; subst hx; exact hb
  | cons e m ih =>
    obtain ⟨k, w⟩ := e
    intro x hx
    simp only [mapIns] at hx
    split at hx
    · rcases List.mem_cons.1 hx with rfl | hx
      · exact hb
      · exact h x hx
    · split at hx
      · rcases List.mem_cons.1 hx with rfl | hx
        · exact hb
        · exact h x (List.mem_cons_of_mem _ hx)
      · rcases List.mem_cons.1 hx with rfl | hx
        · exact h _ (List.mem_cons_self ..)
        · exact ih (fun y hy => h y (List.mem_cons_of_mem _ hy)) x hx

theorem keysAbove_mapDel {b a : Nat} {m : NMap V} (h : keysAbove b m) : keysAbove b (mapDel a m) := by
  induction m with
  | nil => exact h
  | cons e m ih =>
    obtain ⟨k, w⟩ := e
    have ht : keysAbove b m := fun y hy => h y (List.mem_cons_of_mem _ hy)
    simp only [mapDel]
    split
    · exact ih ht
    · intro x hx
      rcases List.mem_cons.1 hx with rfl | hx
      · exact h _ (List.mem_cons_self ..)
      · exact ih ht x hx

/-- An insertion keeps the keys in rising order. -/
theorem mapSorted_mapIns (a : Nat) (v : V) {m : NMap V} (h : mapSorted m = true) : mapSorted (mapIns a v m) = true := by
  induction m with
  | nil => rfl
  | cons e m ih =>
    obtain ⟨k, w⟩ := e
    obtain ⟨h1, h2⟩ := mapSorted_cons.1 h
    simp only [mapIns]
    split
    · refine mapSorted_cons.2 ⟨?_, h⟩
      intro x hx
      rcases List.mem_cons.1 hx with rfl | hx
      · assumption
      · exact Nat.lt_trans ‹a < k› (h1 x hx)
    · split
      · subst_vars; exact mapSorted_cons.2 ⟨h1, h2⟩
      · exact mapSorted_cons.2 ⟨keysAbove_mapIns h1 (by simp only []; omega), ih h2⟩

/-- A removal keeps the keys in rising order. -/
theorem mapSorted_mapDel (a : Nat) {m : NMap V} (h : mapSorted m = true) : mapSorted (mapDel a m) = true := by
  induction m with
  | nil => rfl
  | cons e m ih =>
    obtain ⟨k, w⟩ := e
    obtain ⟨h1, h2⟩ := mapSorted_cons.1 h
    simp only [mapDel]
    split
    · exact ih h2
    · exact mapSorted_cons.2 ⟨keysAbove_mapDel h1, ih h2⟩

/-- A selection of entries keeps the keys in rising order. -/
theorem mapSorted_filter (p : Nat × V → Bool) {m : NMap V} (h : mapSorted m = true) : mapSorted (m.filter p) = true := by
  induction m with
  | nil => rfl
  | cons e m ih =>
    obtain ⟨h1, h2⟩ := mapSorted_cons.1 h
    simp only [List.filter_cons]
    split
    · exact mapSorted_cons.2 ⟨fun x hx => h1 x (List.mem_filter.1 hx).1, ih h2⟩
    · exact ih h2

/-! ### Memories -/

theorem mem_mapIns {a : Nat} {v : V} {m : NMap V} {e : Nat × V} (h : e ∈ mapIns a v m) : e = (a, v) ∨ e ∈ m := by
  induction m with
  | nil => simp [mapIns] at h; exact .inl h
  | cons f m ih =>
    obtain ⟨k, w⟩ := f
    simp only [mapIns] at h
    split at h
    · exact List.mem_cons.1 h
    · split at h
      · rcases List.mem_cons.1 h with h | h
        · exact .inl h
        · exact .inr (List.mem_cons_of_mem _ h)
      · rcases List.mem_cons.1 h with h | h
        · exact .inr (h ▸ List.mem_cons_self ..)
        · exact (ih h).imp id (List.mem_cons_of_mem _)

theorem mem_mapDel {a : Nat} {m : NMap V} {e : Nat × V} (h : e ∈ mapDel a m) : e ∈ m := by
  induction m with
  | nil => exact h
  | cons f m ih =>
    obtain ⟨k, w⟩ := f
    simp only [mapDel] at h
    split at h
    · exact List.mem_cons_of_mem _ (ih h)
    · rcases List.mem_cons.1 h with h | h
      · exact h ▸ List.mem_cons_self ..
      · exact List.mem_cons_of_mem _ (ih h)

theorem Memory.wf_iff {m : Memory} : m.wf = true ↔ mapSorted m = true ∧ ∀ c ∈ m, c.2 ≠ Memory.unwritten := by
  simp [Memory.wf]

theorem Memory.wf_nil : Memory.wf [] = true := rfl

/-- A byte after a write of a byte. -/
theorem Memory.get_set (m : Memory) (a x : Nat) (b : Byte) : (m.set a b).get x = if a = x then b else m.get x := by
  unfold Memory.get Memory.set
  split
  · subst_vars; rw [mapFind_mapDel]; split <;> rfl
  · rw [mapFind_mapIns]; split <;> rfl

/-- A write of a byte keeps the canonical form. -/
theorem Memory.wf_set {m : Memory} (h : m.wf = true) (a : Nat) (b : Byte) : (m.set a b).wf = true := by
  rw [Memory.wf_iff] at h ⊢
  unfold Memory.set
  split
  · exact ⟨mapSorted_mapDel a h.1, fun c hc => h.2 c (mem_mapDel hc)⟩
  · refine ⟨mapSorted_mapIns a b h.1, fun c hc => ?_⟩
    rcases mem_mapIns hc with rfl | hc
    · assumption
    · exact h.2 c hc

/-- A write of bytes keeps the canonical form. -/
theorem Memory.wf_write {m : Memory} (h : m.wf = true) (a : Nat) (bs : List Byte) : (m.write a bs).wf = true := by
  induction bs generalizing m a with
  | nil => exact h
  | cons b bs ih => exact ih (Memory.wf_set h a b) (a + 1)

/-- A masked write keeps the canonical form. -/
theorem Memory.wf_writeMasked {m : Memory} (h : m.wf = true) (a : Nat) (bs : List (Option Byte)) : (m.writeMasked a bs).wf = true := by
  induction bs generalizing m a with
  | nil => exact h
  | cons b bs ih =>
    cases b with
    | none => exact ih h (a + 1)
    | some b => exact ih (Memory.wf_set h a b) (a + 1)

/-- Dropping a range keeps the canonical form. -/
theorem Memory.wf_clear {m : Memory} (h : m.wf = true) (lo hi : Nat) : (m.clear lo hi).wf = true := by
  rw [Memory.wf_iff] at h ⊢
  exact ⟨mapSorted_filter _ h.1, fun c hc => h.2 c (List.mem_filter.1 hc).1⟩

/-- Each byte after a write of bytes: the byte written there, or what stood there before. -/
theorem Memory.get_write (m : Memory) (a x : Nat) (bs : List Byte) :
    (m.write a bs).get x = if a ≤ x ∧ x < a + bs.length then bs.getD (x - a) 0 else m.get x := by
  induction bs generalizing m a with
  | nil => simp [Memory.write] <;> omega
  | cons b bs ih =>
    simp only [Memory.write, ih, Memory.get_set, List.length_cons]
    by_cases hx : a = x
    · subst hx; rw [if_neg (by omega), if_pos rfl, if_pos (by omega)]; simp
    · by_cases h1 : a + 1 ≤ x ∧ x < a + 1 + bs.length
      · rw [if_pos h1, if_pos (by omega)]
        obtain ⟨d, rfl⟩ : ∃ d, x = a + 1 + d := ⟨x - (a + 1), by omega⟩
        simp [show a + 1 + d - (a + 1) = d by omega, show a + 1 + d - a = d + 1 by omega]
      · rw [if_neg h1, if_neg hx, if_neg (by omega)]

/-- Each byte after a masked write. -/
theorem Memory.get_writeMasked (m : Memory) (a x : Nat) (bs : List (Option Byte)) :
    (m.writeMasked a bs).get x = if a ≤ x ∧ x < a + bs.length then (bs.getD (x - a) none).getD (m.get x) else m.get x := by
  induction bs generalizing m a with
  | nil => simp [Memory.writeMasked]
  | cons b bs ih =>
    have step (m' : Memory) (hm : a ≠ x → m'.get x = m.get x) (h0 : a = x → m'.get x = b.getD (m.get x)) :
        (m'.writeMasked (a + 1) bs).get x =
          if a ≤ x ∧ x < a + (bs.length + 1) then ((b :: bs).getD (x - a) none).getD (m.get x) else m.get x := by
      rw [ih]
      by_cases hx : a = x
      · subst hx; rw [if_neg (by omega), if_pos (by omega)]; simp [h0 rfl]
      · by_cases h1 : a + 1 ≤ x ∧ x < a + 1 + bs.length
        · rw [if_pos h1, if_pos (by omega), hm hx]
          obtain ⟨d, rfl⟩ : ∃ d, x = a + 1 + d := ⟨x - (a + 1), by omega⟩
          simp [show a + 1 + d - (a + 1) = d by omega, show a + 1 + d - a = d + 1 by omega]
        · rw [if_neg h1, if_neg (by omega), hm hx]
    cases b with
    | none => simpa [Memory.writeMasked] using step m (fun _ => rfl) (fun _ => rfl)
    | some b =>
      simpa [Memory.writeMasked] using step (m.set a b) (fun h => by rw [Memory.get_set, if_neg h])
        (fun h => by rw [Memory.get_set, if_pos h]; rfl)

end Sys2Proof.Machine
end

