-- ==== Sys2Proof/Laws/State.lean ====
section
/-!
SUPPORT. The basic updates of the state, field by field: what each leaves as it was, and what registers read after they are written.
-/

set_option Elab.async false
namespace Sys2Proof.Machine

variable (s : State)

/-! ### Putting a register's word changes `regs` alone -/

@[simp] theorem State.setReg_pending (k : RegKind) (i : Nat) (w : Word) : (s.setReg k i w).pending = s.pending := rfl
@[simp] theorem State.setReg_dtime (k : RegKind) (i : Nat) (w : Word) : (s.setReg k i w).dtime = s.dtime := rfl
@[simp] theorem State.setReg_freeCtr (k : RegKind) (i : Nat) (w : Word) : (s.setReg k i w).freeCtr = s.freeCtr := rfl
@[simp] theorem State.setReg_out (k : RegKind) (i : Nat) (w : Word) : (s.setReg k i w).out = s.out := rfl
@[simp] theorem State.setReg_fuses (k : RegKind) (i : Nat) (w : Word) : (s.setReg k i w).fuses = s.fuses := rfl
@[simp] theorem State.setReg_log (k : RegKind) (i : Nat) (w : Word) : (s.setReg k i w).log = s.log := rfl
@[simp] theorem State.setReg_events (k : RegKind) (i : Nat) (w : Word) : (s.setReg k i w).events = s.events := rfl
@[simp] theorem State.setReg_mctp (k : RegKind) (i : Nat) (w : Word) : (s.setReg k i w).mctp = s.mctp := rfl
@[simp] theorem State.setReg_geoGen (k : RegKind) (i : Nat) (w : Word) : (s.setReg k i w).geoGen = s.geoGen := rfl
@[simp] theorem State.setReg_geoUpd (k : RegKind) (i : Nat) (w : Word) : (s.setReg k i w).geoUpd = s.geoUpd := rfl
@[simp] theorem State.setReg_uaLogAt (k : RegKind) (i : Nat) (w : Word) : (s.setReg k i w).uaLogAt = s.uaLogAt := rfl
@[simp] theorem State.setReg_denyLogAt (k : RegKind) (i : Nat) (w : Word) : (s.setReg k i w).denyLogAt = s.denyLogAt := rfl
@[simp] theorem State.setReg_capRecs (k : RegKind) (i : Nat) (w : Word) : (s.setReg k i w).capRecs = s.capRecs := rfl
@[simp] theorem State.setReg_capSnaps (k : RegKind) (i : Nat) (w : Word) : (s.setReg k i w).capSnaps = s.capSnaps := rfl
@[simp] theorem State.setReg_capFail (k : RegKind) (i : Nat) (w : Word) : (s.setReg k i w).capFail = s.capFail := rfl
@[simp] theorem State.setReg_capFatal (k : RegKind) (i : Nat) (w : Word) : (s.setReg k i w).capFatal = s.capFatal := rfl
@[simp] theorem State.setReg_stewards (k : RegKind) (i : Nat) (w : Word) : (s.setReg k i w).stewards = s.stewards := rfl
@[simp] theorem State.setReg_reconTimes (k : RegKind) (i : Nat) (w : Word) : (s.setReg k i w).reconTimes = s.reconTimes := rfl
@[simp] theorem State.setReg_reconLog (k : RegKind) (i : Nat) (w : Word) : (s.setReg k i w).reconLog = s.reconLog := rfl
@[simp] theorem State.setReg_preTest (k : RegKind) (i : Nat) (w : Word) : (s.setReg k i w).preTest = s.preTest := rfl
@[simp] theorem State.setReg_rebuildAt (k : RegKind) (i : Nat) (w : Word) : (s.setReg k i w).rebuildAt = s.rebuildAt := rfl
@[simp] theorem State.setReg_rebuildWarned (k : RegKind) (i : Nat) (w : Word) : (s.setReg k i w).rebuildWarned = s.rebuildWarned := rfl
@[simp] theorem State.setReg_staging (k : RegKind) (i : Nat) (w : Word) : (s.setReg k i w).staging = s.staging := rfl
@[simp] theorem State.setReg_pattern (k : RegKind) (i : Nat) (w : Word) : (s.setReg k i w).pattern = s.pattern := rfl
@[simp] theorem State.setReg_bootA (k : RegKind) (i : Nat) (w : Word) : (s.setReg k i w).bootA = s.bootA := rfl
@[simp] theorem State.setReg_bootB (k : RegKind) (i : Nat) (w : Word) : (s.setReg k i w).bootB = s.bootB := rfl
@[simp] theorem State.setReg_load (k : RegKind) (i : Nat) (w : Word) : (s.setReg k i w).load = s.load := rfl
@[simp] theorem State.setReg_bg (k : RegKind) (i : Nat) (w : Word) : (s.setReg k i w).bg = s.bg := rfl
@[simp] theorem State.setReg_cores (k : RegKind) (i : Nat) (w : Word) : (s.setReg k i w).cores = s.cores := rfl
@[simp] theorem State.setReg_geom (k : RegKind) (i : Nat) (w : Word) : (s.setReg k i w).geom = s.geom := rfl
@[simp] theorem State.setReg_buckets (k : RegKind) (i : Nat) (w : Word) : (s.setReg k i w).buckets = s.buckets := rfl
@[simp] theorem State.setReg_wheels (k : RegKind) (i : Nat) (w : Word) : (s.setReg k i w).wheels = s.wheels := rfl
@[simp] theorem State.setReg_devLevels (k : RegKind) (i : Nat) (w : Word) : (s.setReg k i w).devLevels = s.devLevels := rfl
@[simp] theorem State.setReg_spools (k : RegKind) (i : Nat) (w : Word) : (s.setReg k i w).spools = s.spools := rfl
@[simp] theorem State.setReg_comps (k : RegKind) (i : Nat) (w : Word) : (s.setReg k i w).comps = s.comps := rfl
@[simp] theorem State.setReg_rotor (k : RegKind) (i : Nat) (w : Word) : (s.setReg k i w).rotor = s.rotor := rfl
@[simp] theorem State.setReg_inflight (k : RegKind) (i : Nat) (w : Word) : (s.setReg k i w).inflight = s.inflight := rfl
@[simp] theorem State.setReg_nextUid (k : RegKind) (i : Nat) (w : Word) : (s.setReg k i w).nextUid = s.nextUid := rfl
@[simp] theorem State.setReg_chunks (k : RegKind) (i : Nat) (w : Word) : (s.setReg k i w).chunks = s.chunks := rfl
@[simp] theorem State.setReg_seqs (k : RegKind) (i : Nat) (w : Word) : (s.setReg k i w).seqs = s.seqs := rfl
@[simp] theorem State.setReg_pins (k : RegKind) (i : Nat) (w : Word) : (s.setReg k i w).pins = s.pins := rfl
@[simp] theorem State.setReg_nsKeys (k : RegKind) (i : Nat) (w : Word) : (s.setReg k i w).nsKeys = s.nsKeys := rfl
@[simp] theorem State.setReg_frames (k : RegKind) (i : Nat) (w : Word) : (s.setReg k i w).frames = s.frames := rfl
@[simp] theorem State.setReg_epochs (k : RegKind) (i : Nat) (w : Word) : (s.setReg k i w).epochs = s.epochs := rfl
@[simp] theorem State.setReg_images (k : RegKind) (i : Nat) (w : Word) : (s.setReg k i w).images = s.images := rfl
@[simp] theorem State.setReg_cacheSf (k : RegKind) (i : Nat) (w : Word) : (s.setReg k i w).cacheSf = s.cacheSf := rfl
@[simp] theorem State.setReg_metaSf (k : RegKind) (i : Nat) (w : Word) : (s.setReg k i w).metaSf = s.metaSf := rfl
@[simp] theorem State.setReg_parity (k : RegKind) (i : Nat) (w : Word) : (s.setReg k i w).parity = s.parity := rfl
@[simp] theorem State.setReg_dropPaused (k : RegKind) (i : Nat) (w : Word) : (s.setReg k i w).dropPaused = s.dropPaused := rfl
@[simp] theorem State.setReg_outRem (k : RegKind) (i : Nat) (w : Word) : (s.setReg k i w).outRem = s.outRem := rfl
@[simp] theorem State.setReg_rowN (k : RegKind) (i : Nat) (w : Word) : (s.setReg k i w).rowN = s.rowN := rfl
@[simp] theorem State.setReg_gens (k : RegKind) (i : Nat) (w : Word) : (s.setReg k i w).gens = s.gens := rfl
@[simp] theorem State.setReg_viewCache (k : RegKind) (i : Nat) (w : Word) : (s.setReg k i w).viewCache = s.viewCache := rfl
@[simp] theorem State.setReg_histPages (k : RegKind) (i : Nat) (w : Word) : (s.setReg k i w).histPages = s.histPages := rfl
@[simp] theorem State.setReg_viewSlots (k : RegKind) (i : Nat) (w : Word) : (s.setReg k i w).viewSlots = s.viewSlots := rfl
@[simp] theorem State.setReg_viewWaits (k : RegKind) (i : Nat) (w : Word) : (s.setReg k i w).viewWaits = s.viewWaits := rfl
@[simp] theorem State.setReg_pbase (k : RegKind) (i : Nat) (w : Word) : (s.setReg k i w).pbase = s.pbase := rfl
@[simp] theorem State.setReg_syncAt (k : RegKind) (i : Nat) (w : Word) : (s.setReg k i w).syncAt = s.syncAt := rfl
@[simp] theorem State.setReg_plainMem (k : RegKind) (i : Nat) (w : Word) : (s.setReg k i w).plainMem = s.plainMem := rfl
@[simp] theorem State.setReg_poisonLines (k : RegKind) (i : Nat) (w : Word) : (s.setReg k i w).poisonLines = s.poisonLines := rfl
@[simp] theorem State.setReg_orphanLines (k : RegKind) (i : Nat) (w : Word) : (s.setReg k i w).orphanLines = s.orphanLines := rfl
@[simp] theorem State.setReg_orphanLog (k : RegKind) (i : Nat) (w : Word) : (s.setReg k i w).orphanLog = s.orphanLog := rfl
@[simp] theorem State.setReg_extents (k : RegKind) (i : Nat) (w : Word) : (s.setReg k i w).extents = s.extents := rfl
@[simp] theorem State.setReg_released (k : RegKind) (i : Nat) (w : Word) : (s.setReg k i w).released = s.released := rfl
@[simp] theorem State.setReg_snoopFilter (k : RegKind) (i : Nat) (w : Word) : (s.setReg k i w).snoopFilter = s.snoopFilter := rfl
@[simp] theorem State.setReg_snoops (k : RegKind) (i : Nat) (w : Word) : (s.setReg k i w).snoops = s.snoops := rfl
@[simp] theorem State.setReg_lineQ (k : RegKind) (i : Nat) (w : Word) : (s.setReg k i w).lineQ = s.lineQ := rfl
@[simp] theorem State.setReg_lostHosts (k : RegKind) (i : Nat) (w : Word) : (s.setReg k i w).lostHosts = s.lostHosts := rfl
@[simp] theorem State.setReg_unbackedLogAt (k : RegKind) (i : Nat) (w : Word) : (s.setReg k i w).unbackedLogAt = s.unbackedLogAt := rfl
@[simp] theorem State.setReg_curLog (k : RegKind) (i : Nat) (w : Word) : (s.setReg k i w).curLog = s.curLog := rfl
@[simp] theorem State.setReg_rlinks (k : RegKind) (i : Nat) (w : Word) : (s.setReg k i w).rlinks = s.rlinks := rfl
@[simp] theorem State.setReg_ringOut (k : RegKind) (i : Nat) (w : Word) : (s.setReg k i w).ringOut = s.ringOut := rfl
@[simp] theorem State.setReg_rctx (k : RegKind) (i : Nat) (w : Word) : (s.setReg k i w).rctx = s.rctx := rfl
@[simp] theorem State.setReg_ringHeld (k : RegKind) (i : Nat) (w : Word) : (s.setReg k i w).ringHeld = s.ringHeld := rfl
@[simp] theorem State.setReg_camReqs (k : RegKind) (i : Nat) (w : Word) : (s.setReg k i w).camReqs = s.camReqs := rfl
@[simp] theorem State.setReg_gws (k : RegKind) (i : Nat) (w : Word) : (s.setReg k i w).gws = s.gws := rfl
@[simp] theorem State.setReg_qps (k : RegKind) (i : Nat) (w : Word) : (s.setReg k i w).qps = s.qps := rfl
@[simp] theorem State.setReg_qpKeys (k : RegKind) (i : Nat) (w : Word) : (s.setReg k i w).qpKeys = s.qpKeys := rfl
@[simp] theorem State.setReg_shOut (k : RegKind) (i : Nat) (w : Word) : (s.setReg k i w).shOut = s.shOut := rfl
@[simp] theorem State.setReg_pfcUntil (k : RegKind) (i : Nat) (w : Word) : (s.setReg k i w).pfcUntil = s.pfcUntil := rfl
@[simp] theorem State.setReg_atsCache (k : RegKind) (i : Nat) (w : Word) : (s.setReg k i w).atsCache = s.atsCache := rfl
@[simp] theorem State.setReg_orphanPend (k : RegKind) (i : Nat) (w : Word) : (s.setReg k i w).orphanPend = s.orphanPend := rfl
@[simp] theorem State.setReg_linkIn (k : RegKind) (i : Nat) (w : Word) : (s.setReg k i w).linkIn = s.linkIn := rfl
@[simp] theorem State.setReg_hdm (k : RegKind) (i : Nat) (w : Word) : (s.setReg k i w).hdm = s.hdm := rfl
@[simp] theorem State.setReg_evLost (k : RegKind) (i : Nat) (w : Word) : (s.setReg k i w).evLost = s.evLost := rfl
@[simp] theorem State.setReg_evPolicy (k : RegKind) (i : Nat) (w : Word) : (s.setReg k i w).evPolicy = s.evPolicy := rfl
@[simp] theorem State.setReg_flash (k : RegKind) (i : Nat) (w : Word) : (s.setReg k i w).flash = s.flash := rfl
@[simp] theorem State.setReg_units (k : RegKind) (i : Nat) (w : Word) : (s.setReg k i w).units = s.units := rfl
@[simp] theorem State.setReg_streams (k : RegKind) (i : Nat) (w : Word) : (s.setReg k i w).streams = s.streams := rfl
@[simp] theorem State.setReg_eraseLists (k : RegKind) (i : Nat) (w : Word) : (s.setReg k i w).eraseLists = s.eraseLists := rfl
@[simp] theorem State.setReg_victims (k : RegKind) (i : Nat) (w : Word) : (s.setReg k i w).victims = s.victims := rfl
@[simp] theorem State.setReg_journalUnit (k : RegKind) (i : Nat) (w : Word) : (s.setReg k i w).journalUnit = s.journalUnit := rfl
@[simp] theorem State.setReg_slcTarget (k : RegKind) (i : Nat) (w : Word) : (s.setReg k i w).slcTarget = s.slcTarget := rfl
@[simp] theorem State.setReg_checkpointAt (k : RegKind) (i : Nat) (w : Word) : (s.setReg k i w).checkpointAt = s.checkpointAt := rfl
@[simp] theorem State.setReg_copiedCw (k : RegKind) (i : Nat) (w : Word) : (s.setReg k i w).copiedCw = s.copiedCw := rfl
@[simp] theorem State.setReg_saved (k : RegKind) (i : Nat) (w : Word) : (s.setReg k i w).saved = s.saved := rfl
@[simp] theorem State.setReg_tdis (k : RegKind) (i : Nat) (w : Word) : (s.setReg k i w).tdis = s.tdis := rfl
@[simp] theorem State.setReg_sessions (k : RegKind) (i : Nat) (w : Word) : (s.setReg k i w).sessions = s.sessions := rfl
@[simp] theorem State.setReg_signed (k : RegKind) (i : Nat) (w : Word) : (s.setReg k i w).signed = s.signed := rfl
@[simp] theorem State.setReg_ideKeys (k : RegKind) (i : Nat) (w : Word) : (s.setReg k i w).ideKeys = s.ideKeys := rfl
@[simp] theorem State.setReg_dataKeys (k : RegKind) (i : Nat) (w : Word) : (s.setReg k i w).dataKeys = s.dataKeys := rfl
@[simp] theorem State.setReg_sealReq (k : RegKind) (i : Nat) (w : Word) : (s.setReg k i w).sealReq = s.sealReq := rfl
@[simp] theorem State.setReg_memKey (k : RegKind) (i : Nat) (w : Word) : (s.setReg k i w).memKey = s.memKey := rfl
@[simp] theorem State.setReg_serial (k : RegKind) (i : Nat) (w : Word) : (s.setReg k i w).serial = s.serial := rfl
@[simp] theorem State.setReg_serialTop (k : RegKind) (i : Nat) (w : Word) : (s.setReg k i w).serialTop = s.serialTop := rfl
@[simp] theorem State.setReg_keyRows (k : RegKind) (i : Nat) (w : Word) : (s.setReg k i w).keyRows = s.keyRows := rfl
@[simp] theorem State.setReg_nonce (k : RegKind) (i : Nat) (w : Word) : (s.setReg k i w).nonce = s.nonce := rfl
@[simp] theorem State.setReg_deviceCerts (k : RegKind) (i : Nat) (w : Word) : (s.setReg k i w).deviceCerts = s.deviceCerts := rfl
@[simp] theorem State.setReg_ownerCerts (k : RegKind) (i : Nat) (w : Word) : (s.setReg k i w).ownerCerts = s.ownerCerts := rfl
@[simp] theorem State.setReg_lcTarget (k : RegKind) (i : Nat) (w : Word) : (s.setReg k i w).lcTarget = s.lcTarget := rfl
@[simp] theorem State.setReg_slotA (k : RegKind) (i : Nat) (w : Word) : (s.setReg k i w).slotA = s.slotA := rfl
@[simp] theorem State.setReg_slotB (k : RegKind) (i : Nat) (w : Word) : (s.setReg k i w).slotB = s.slotB := rfl
@[simp] theorem State.setReg_fwRun (k : RegKind) (i : Nat) (w : Word) : (s.setReg k i w).fwRun = s.fwRun := rfl
@[simp] theorem State.setReg_measured (k : RegKind) (i : Nat) (w : Word) : (s.setReg k i w).measured = s.measured := rfl
@[simp] theorem State.setReg_fwWriter (k : RegKind) (i : Nat) (w : Word) : (s.setReg k i w).fwWriter = s.fwWriter := rfl
@[simp] theorem State.setReg_calib (k : RegKind) (i : Nat) (w : Word) : (s.setReg k i w).calib = s.calib := rfl
@[simp] theorem State.setReg_heldActs (k : RegKind) (i : Nat) (w : Word) : (s.setReg k i w).heldActs = s.heldActs := rfl
@[simp] theorem State.setReg_tenantResets (k : RegKind) (i : Nat) (w : Word) : (s.setReg k i w).tenantResets = s.tenantResets := rfl
@[simp] theorem State.setReg_capDown (k : RegKind) (i : Nat) (w : Word) : (s.setReg k i w).capDown = s.capDown := rfl
@[simp] theorem State.setReg_ecoDown (k : RegKind) (i : Nat) (w : Word) : (s.setReg k i w).ecoDown = s.ecoDown := rfl
@[simp] theorem State.setReg_avsMiss (k : RegKind) (i : Nat) (w : Word) : (s.setReg k i w).avsMiss = s.avsMiss := rfl
@[simp] theorem State.setReg_lastSlow (k : RegKind) (i : Nat) (w : Word) : (s.setReg k i w).lastSlow = s.lastSlow := rfl
@[simp] theorem State.setReg_keyRepl (k : RegKind) (i : Nat) (w : Word) : (s.setReg k i w).keyRepl = s.keyRepl := rfl
@[simp] theorem State.setReg_replaceN (k : RegKind) (i : Nat) (w : Word) : (s.setReg k i w).replaceN = s.replaceN := rfl
@[simp] theorem State.setReg_power (k : RegKind) (i : Nat) (w : Word) : (s.setReg k i w).power = s.power := rfl
@[simp] theorem State.setReg_jtag (k : RegKind) (i : Nat) (w : Word) : (s.setReg k i w).jtag = s.jtag := rfl

/-! ### Taking a register back to its reset word changes `regs` alone -/

@[simp] theorem State.resetReg_pending (k : RegKind) (i : Nat) : (s.resetReg k i).pending = s.pending := rfl
@[simp] theorem State.resetReg_dtime (k : RegKind) (i : Nat) : (s.resetReg k i).dtime = s.dtime := rfl
@[simp] theorem State.resetReg_freeCtr (k : RegKind) (i : Nat) : (s.resetReg k i).freeCtr = s.freeCtr := rfl
@[simp] theorem State.resetReg_out (k : RegKind) (i : Nat) : (s.resetReg k i).out = s.out := rfl
@[simp] theorem State.resetReg_fuses (k : RegKind) (i : Nat) : (s.resetReg k i).fuses = s.fuses := rfl
@[simp] theorem State.resetReg_log (k : RegKind) (i : Nat) : (s.resetReg k i).log = s.log := rfl
@[simp] theorem State.resetReg_events (k : RegKind) (i : Nat) : (s.resetReg k i).events = s.events := rfl
@[simp] theorem State.resetReg_mctp (k : RegKind) (i : Nat) : (s.resetReg k i).mctp = s.mctp := rfl
@[simp] theorem State.resetReg_geoGen (k : RegKind) (i : Nat) : (s.resetReg k i).geoGen = s.geoGen := rfl
@[simp] theorem State.resetReg_geoUpd (k : RegKind) (i : Nat) : (s.resetReg k i).geoUpd = s.geoUpd := rfl
@[simp] theorem State.resetReg_uaLogAt (k : RegKind) (i : Nat) : (s.resetReg k i).uaLogAt = s.uaLogAt := rfl
@[simp] theorem State.resetReg_denyLogAt (k : RegKind) (i : Nat) : (s.resetReg k i).denyLogAt = s.denyLogAt := rfl
@[simp] theorem State.resetReg_capRecs (k : RegKind) (i : Nat) : (s.resetReg k i).capRecs = s.capRecs := rfl
@[simp] theorem State.resetReg_capSnaps (k : RegKind) (i : Nat) : (s.resetReg k i).capSnaps = s.capSnaps := rfl
@[simp] theorem State.resetReg_capFail (k : RegKind) (i : Nat) : (s.resetReg k i).capFail = s.capFail := rfl
@[simp] theorem State.resetReg_capFatal (k : RegKind) (i : Nat) : (s.resetReg k i).capFatal = s.capFatal := rfl
@[simp] theorem State.resetReg_stewards (k : RegKind) (i : Nat) : (s.resetReg k i).stewards = s.stewards := rfl
@[simp] theorem State.resetReg_reconTimes (k : RegKind) (i : Nat) : (s.resetReg k i).reconTimes = s.reconTimes := rfl
@[simp] theorem State.resetReg_reconLog (k : RegKind) (i : Nat) : (s.resetReg k i).reconLog = s.reconLog := rfl
@[simp] theorem State.resetReg_preTest (k : RegKind) (i : Nat) : (s.resetReg k i).preTest = s.preTest := rfl
@[simp] theorem State.resetReg_rebuildAt (k : RegKind) (i : Nat) : (s.resetReg k i).rebuildAt = s.rebuildAt := rfl
@[simp] theorem State.resetReg_rebuildWarned (k : RegKind) (i : Nat) : (s.resetReg k i).rebuildWarned = s.rebuildWarned := rfl
@[simp] theorem State.resetReg_staging (k : RegKind) (i : Nat) : (s.resetReg k i).staging = s.staging := rfl
@[simp] theorem State.resetReg_pattern (k : RegKind) (i : Nat) : (s.resetReg k i).pattern = s.pattern := rfl
@[simp] theorem State.resetReg_bootA (k : RegKind) (i : Nat) : (s.resetReg k i).bootA = s.bootA := rfl
@[simp] theorem State.resetReg_bootB (k : RegKind) (i : Nat) : (s.resetReg k i).bootB = s.bootB := rfl
@[simp] theorem State.resetReg_load (k : RegKind) (i : Nat) : (s.resetReg k i).load = s.load := rfl
@[simp] theorem State.resetReg_bg (k : RegKind) (i : Nat) : (s.resetReg k i).bg = s.bg := rfl
@[simp] theorem State.resetReg_cores (k : RegKind) (i : Nat) : (s.resetReg k i).cores = s.cores := rfl
@[simp] theorem State.resetReg_geom (k : RegKind) (i : Nat) : (s.resetReg k i).geom = s.geom := rfl
@[simp] theorem State.resetReg_buckets (k : RegKind) (i : Nat) : (s.resetReg k i).buckets = s.buckets := rfl
@[simp] theorem State.resetReg_wheels (k : RegKind) (i : Nat) : (s.resetReg k i).wheels = s.wheels := rfl
@[simp] theorem State.resetReg_devLevels (k : RegKind) (i : Nat) : (s.resetReg k i).devLevels = s.devLevels := rfl
@[simp] theorem State.resetReg_spools (k : RegKind) (i : Nat) : (s.resetReg k i).spools = s.spools := rfl
@[simp] theorem State.resetReg_comps (k : RegKind) (i : Nat) : (s.resetReg k i).comps = s.comps := rfl
@[simp] theorem State.resetReg_rotor (k : RegKind) (i : Nat) : (s.resetReg k i).rotor = s.rotor := rfl
@[simp] theorem State.resetReg_inflight (k : RegKind) (i : Nat) : (s.resetReg k i).inflight = s.inflight := rfl
@[simp] theorem State.resetReg_nextUid (k : RegKind) (i : Nat) : (s.resetReg k i).nextUid = s.nextUid := rfl
@[simp] theorem State.resetReg_chunks (k : RegKind) (i : Nat) : (s.resetReg k i).chunks = s.chunks := rfl
@[simp] theorem State.resetReg_seqs (k : RegKind) (i : Nat) : (s.resetReg k i).seqs = s.seqs := rfl
@[simp] theorem State.resetReg_pins (k : RegKind) (i : Nat) : (s.resetReg k i).pins = s.pins := rfl
@[simp] theorem State.resetReg_nsKeys (k : RegKind) (i : Nat) : (s.resetReg k i).nsKeys = s.nsKeys := rfl
@[simp] theorem State.resetReg_frames (k : RegKind) (i : Nat) : (s.resetReg k i).frames = s.frames := rfl
@[simp] theorem State.resetReg_epochs (k : RegKind) (i : Nat) : (s.resetReg k i).epochs = s.epochs := rfl
@[simp] theorem State.resetReg_images (k : RegKind) (i : Nat) : (s.resetReg k i).images = s.images := rfl
@[simp] theorem State.resetReg_cacheSf (k : RegKind) (i : Nat) : (s.resetReg k i).cacheSf = s.cacheSf := rfl
@[simp] theorem State.resetReg_metaSf (k : RegKind) (i : Nat) : (s.resetReg k i).metaSf = s.metaSf := rfl
@[simp] theorem State.resetReg_parity (k : RegKind) (i : Nat) : (s.resetReg k i).parity = s.parity := rfl
@[simp] theorem State.resetReg_dropPaused (k : RegKind) (i : Nat) : (s.resetReg k i).dropPaused = s.dropPaused := rfl
@[simp] theorem State.resetReg_outRem (k : RegKind) (i : Nat) : (s.resetReg k i).outRem = s.outRem := rfl
@[simp] theorem State.resetReg_rowN (k : RegKind) (i : Nat) : (s.resetReg k i).rowN = s.rowN := rfl
@[simp] theorem State.resetReg_gens (k : RegKind) (i : Nat) : (s.resetReg k i).gens = s.gens := rfl
@[simp] theorem State.resetReg_viewCache (k : RegKind) (i : Nat) : (s.resetReg k i).viewCache = s.viewCache := rfl
@[simp] theorem State.resetReg_histPages (k : RegKind) (i : Nat) : (s.resetReg k i).histPages = s.histPages := rfl
@[simp] theorem State.resetReg_viewSlots (k : RegKind) (i : Nat) : (s.resetReg k i).viewSlots = s.viewSlots := rfl
@[simp] theorem State.resetReg_viewWaits (k : RegKind) (i : Nat) : (s.resetReg k i).viewWaits = s.viewWaits := rfl
@[simp] theorem State.resetReg_pbase (k : RegKind) (i : Nat) : (s.resetReg k i).pbase = s.pbase := rfl
@[simp] theorem State.resetReg_syncAt (k : RegKind) (i : Nat) : (s.resetReg k i).syncAt = s.syncAt := rfl
@[simp] theorem State.resetReg_plainMem (k : RegKind) (i : Nat) : (s.resetReg k i).plainMem = s.plainMem := rfl
@[simp] theorem State.resetReg_poisonLines (k : RegKind) (i : Nat) : (s.resetReg k i).poisonLines = s.poisonLines := rfl
@[simp] theorem State.resetReg_orphanLines (k : RegKind) (i : Nat) : (s.resetReg k i).orphanLines = s.orphanLines := rfl
@[simp] theorem State.resetReg_orphanLog (k : RegKind) (i : Nat) : (s.resetReg k i).orphanLog = s.orphanLog := rfl
@[simp] theorem State.resetReg_extents (k : RegKind) (i : Nat) : (s.resetReg k i).extents = s.extents := rfl
@[simp] theorem State.resetReg_released (k : RegKind) (i : Nat) : (s.resetReg k i).released = s.released := rfl
@[simp] theorem State.resetReg_snoopFilter (k : RegKind) (i : Nat) : (s.resetReg k i).snoopFilter = s.snoopFilter := rfl
@[simp] theorem State.resetReg_snoops (k : RegKind) (i : Nat) : (s.resetReg k i).snoops = s.snoops := rfl
@[simp] theorem State.resetReg_lineQ (k : RegKind) (i : Nat) : (s.resetReg k i).lineQ = s.lineQ := rfl
@[simp] theorem State.resetReg_lostHosts (k : RegKind) (i : Nat) : (s.resetReg k i).lostHosts = s.lostHosts := rfl
@[simp] theorem State.resetReg_unbackedLogAt (k : RegKind) (i : Nat) : (s.resetReg k i).unbackedLogAt = s.unbackedLogAt := rfl
@[simp] theorem State.resetReg_curLog (k : RegKind) (i : Nat) : (s.resetReg k i).curLog = s.curLog := rfl
@[simp] theorem State.resetReg_rlinks (k : RegKind) (i : Nat) : (s.resetReg k i).rlinks = s.rlinks := rfl
@[simp] theorem State.resetReg_ringOut (k : RegKind) (i : Nat) : (s.resetReg k i).ringOut = s.ringOut := rfl
@[simp] theorem State.resetReg_rctx (k : RegKind) (i : Nat) : (s.resetReg k i).rctx = s.rctx := rfl
@[simp] theorem State.resetReg_ringHeld (k : RegKind) (i : Nat) : (s.resetReg k i).ringHeld = s.ringHeld := rfl
@[simp] theorem State.resetReg_camReqs (k : RegKind) (i : Nat) : (s.resetReg k i).camReqs = s.camReqs := rfl
@[simp] theorem State.resetReg_gws (k : RegKind) (i : Nat) : (s.resetReg k i).gws = s.gws := rfl
@[simp] theorem State.resetReg_qps (k : RegKind) (i : Nat) : (s.resetReg k i).qps = s.qps := rfl
@[simp] theorem State.resetReg_qpKeys (k : RegKind) (i : Nat) : (s.resetReg k i).qpKeys = s.qpKeys := rfl
@[simp] theorem State.resetReg_shOut (k : RegKind) (i : Nat) : (s.resetReg k i).shOut = s.shOut := rfl
@[simp] theorem State.resetReg_pfcUntil (k : RegKind) (i : Nat) : (s.resetReg k i).pfcUntil = s.pfcUntil := rfl
@[simp] theorem State.resetReg_atsCache (k : RegKind) (i : Nat) : (s.resetReg k i).atsCache = s.atsCache := rfl
@[simp] theorem State.resetReg_orphanPend (k : RegKind) (i : Nat) : (s.resetReg k i).orphanPend = s.orphanPend := rfl
@[simp] theorem State.resetReg_linkIn (k : RegKind) (i : Nat) : (s.resetReg k i).linkIn = s.linkIn := rfl
@[simp] theorem State.resetReg_hdm (k : RegKind) (i : Nat) : (s.resetReg k i).hdm = s.hdm := rfl
@[simp] theorem State.resetReg_evLost (k : RegKind) (i : Nat) : (s.resetReg k i).evLost = s.evLost := rfl
@[simp] theorem State.resetReg_evPolicy (k : RegKind) (i : Nat) : (s.resetReg k i).evPolicy = s.evPolicy := rfl
@[simp] theorem State.resetReg_flash (k : RegKind) (i : Nat) : (s.resetReg k i).flash = s.flash := rfl
@[simp] theorem State.resetReg_units (k : RegKind) (i : Nat) : (s.resetReg k i).units = s.units := rfl
@[simp] theorem State.resetReg_streams (k : RegKind) (i : Nat) : (s.resetReg k i).streams = s.streams := rfl
@[simp] theorem State.resetReg_eraseLists (k : RegKind) (i : Nat) : (s.resetReg k i).eraseLists = s.eraseLists := rfl
@[simp] theorem State.resetReg_victims (k : RegKind) (i : Nat) : (s.resetReg k i).victims = s.victims := rfl
@[simp] theorem State.resetReg_journalUnit (k : RegKind) (i : Nat) : (s.resetReg k i).journalUnit = s.journalUnit := rfl
@[simp] theorem State.resetReg_slcTarget (k : RegKind) (i : Nat) : (s.resetReg k i).slcTarget = s.slcTarget := rfl
@[simp] theorem State.resetReg_checkpointAt (k : RegKind) (i : Nat) : (s.resetReg k i).checkpointAt = s.checkpointAt := rfl
@[simp] theorem State.resetReg_copiedCw (k : RegKind) (i : Nat) : (s.resetReg k i).copiedCw = s.copiedCw := rfl
@[simp] theorem State.resetReg_saved (k : RegKind) (i : Nat) : (s.resetReg k i).saved = s.saved := rfl
@[simp] theorem State.resetReg_tdis (k : RegKind) (i : Nat) : (s.resetReg k i).tdis = s.tdis := rfl
@[simp] theorem State.resetReg_sessions (k : RegKind) (i : Nat) : (s.resetReg k i).sessions = s.sessions := rfl
@[simp] theorem State.resetReg_signed (k : RegKind) (i : Nat) : (s.resetReg k i).signed = s.signed := rfl
@[simp] theorem State.resetReg_ideKeys (k : RegKind) (i : Nat) : (s.resetReg k i).ideKeys = s.ideKeys := rfl
@[simp] theorem State.resetReg_dataKeys (k : RegKind) (i : Nat) : (s.resetReg k i).dataKeys = s.dataKeys := rfl
@[simp] theorem State.resetReg_sealReq (k : RegKind) (i : Nat) : (s.resetReg k i).sealReq = s.sealReq := rfl
@[simp] theorem State.resetReg_memKey (k : RegKind) (i : Nat) : (s.resetReg k i).memKey = s.memKey := rfl
@[simp] theorem State.resetReg_serial (k : RegKind) (i : Nat) : (s.resetReg k i).serial = s.serial := rfl
@[simp] theorem State.resetReg_serialTop (k : RegKind) (i : Nat) : (s.resetReg k i).serialTop = s.serialTop := rfl
@[simp] theorem State.resetReg_keyRows (k : RegKind) (i : Nat) : (s.resetReg k i).keyRows = s.keyRows := rfl
@[simp] theorem State.resetReg_nonce (k : RegKind) (i : Nat) : (s.resetReg k i).nonce = s.nonce := rfl
@[simp] theorem State.resetReg_deviceCerts (k : RegKind) (i : Nat) : (s.resetReg k i).deviceCerts = s.deviceCerts := rfl
@[simp] theorem State.resetReg_ownerCerts (k : RegKind) (i : Nat) : (s.resetReg k i).ownerCerts = s.ownerCerts := rfl
@[simp] theorem State.resetReg_lcTarget (k : RegKind) (i : Nat) : (s.resetReg k i).lcTarget = s.lcTarget := rfl
@[simp] theorem State.resetReg_slotA (k : RegKind) (i : Nat) : (s.resetReg k i).slotA = s.slotA := rfl
@[simp] theorem State.resetReg_slotB (k : RegKind) (i : Nat) : (s.resetReg k i).slotB = s.slotB := rfl
@[simp] theorem State.resetReg_fwRun (k : RegKind) (i : Nat) : (s.resetReg k i).fwRun = s.fwRun := rfl
@[simp] theorem State.resetReg_measured (k : RegKind) (i : Nat) : (s.resetReg k i).measured = s.measured := rfl
@[simp] theorem State.resetReg_fwWriter (k : RegKind) (i : Nat) : (s.resetReg k i).fwWriter = s.fwWriter := rfl
@[simp] theorem State.resetReg_calib (k : RegKind) (i : Nat) : (s.resetReg k i).calib = s.calib := rfl
@[simp] theorem State.resetReg_heldActs (k : RegKind) (i : Nat) : (s.resetReg k i).heldActs = s.heldActs := rfl
@[simp] theorem State.resetReg_tenantResets (k : RegKind) (i : Nat) : (s.resetReg k i).tenantResets = s.tenantResets := rfl
@[simp] theorem State.resetReg_capDown (k : RegKind) (i : Nat) : (s.resetReg k i).capDown = s.capDown := rfl
@[simp] theorem State.resetReg_ecoDown (k : RegKind) (i : Nat) : (s.resetReg k i).ecoDown = s.ecoDown := rfl
@[simp] theorem State.resetReg_avsMiss (k : RegKind) (i : Nat) : (s.resetReg k i).avsMiss = s.avsMiss := rfl
@[simp] theorem State.resetReg_lastSlow (k : RegKind) (i : Nat) : (s.resetReg k i).lastSlow = s.lastSlow := rfl
@[simp] theorem State.resetReg_keyRepl (k : RegKind) (i : Nat) : (s.resetReg k i).keyRepl = s.keyRepl := rfl
@[simp] theorem State.resetReg_replaceN (k : RegKind) (i : Nat) : (s.resetReg k i).replaceN = s.replaceN := rfl
@[simp] theorem State.resetReg_power (k : RegKind) (i : Nat) : (s.resetReg k i).power = s.power := rfl
@[simp] theorem State.resetReg_jtag (k : RegKind) (i : Nat) : (s.resetReg k i).jtag = s.jtag := rfl

/-! ### Setting a field changes `regs` alone -/

@[simp] theorem State.setFld_pending (f : Field) (v i : Nat) : (s.setFld f v i).pending = s.pending := rfl
@[simp] theorem State.setFld_dtime (f : Field) (v i : Nat) : (s.setFld f v i).dtime = s.dtime := rfl
@[simp] theorem State.setFld_freeCtr (f : Field) (v i : Nat) : (s.setFld f v i).freeCtr = s.freeCtr := rfl
@[simp] theorem State.setFld_out (f : Field) (v i : Nat) : (s.setFld f v i).out = s.out := rfl
@[simp] theorem State.setFld_fuses (f : Field) (v i : Nat) : (s.setFld f v i).fuses = s.fuses := rfl
@[simp] theorem State.setFld_log (f : Field) (v i : Nat) : (s.setFld f v i).log = s.log := rfl
@[simp] theorem State.setFld_events (f : Field) (v i : Nat) : (s.setFld f v i).events = s.events := rfl
@[simp] theorem State.setFld_mctp (f : Field) (v i : Nat) : (s.setFld f v i).mctp = s.mctp := rfl
@[simp] theorem State.setFld_geoGen (f : Field) (v i : Nat) : (s.setFld f v i).geoGen = s.geoGen := rfl
@[simp] theorem State.setFld_geoUpd (f : Field) (v i : Nat) : (s.setFld f v i).geoUpd = s.geoUpd := rfl
@[simp] theorem State.setFld_uaLogAt (f : Field) (v i : Nat) : (s.setFld f v i).uaLogAt = s.uaLogAt := rfl
@[simp] theorem State.setFld_denyLogAt (f : Field) (v i : Nat) : (s.setFld f v i).denyLogAt = s.denyLogAt := rfl
@[simp] theorem State.setFld_capRecs (f : Field) (v i : Nat) : (s.setFld f v i).capRecs = s.capRecs := rfl
@[simp] theorem State.setFld_capSnaps (f : Field) (v i : Nat) : (s.setFld f v i).capSnaps = s.capSnaps := rfl
@[simp] theorem State.setFld_capFail (f : Field) (v i : Nat) : (s.setFld f v i).capFail = s.capFail := rfl
@[simp] theorem State.setFld_capFatal (f : Field) (v i : Nat) : (s.setFld f v i).capFatal = s.capFatal := rfl
@[simp] theorem State.setFld_stewards (f : Field) (v i : Nat) : (s.setFld f v i).stewards = s.stewards := rfl
@[simp] theorem State.setFld_reconTimes (f : Field) (v i : Nat) : (s.setFld f v i).reconTimes = s.reconTimes := rfl
@[simp] theorem State.setFld_reconLog (f : Field) (v i : Nat) : (s.setFld f v i).reconLog = s.reconLog := rfl
@[simp] theorem State.setFld_preTest (f : Field) (v i : Nat) : (s.setFld f v i).preTest = s.preTest := rfl
@[simp] theorem State.setFld_rebuildAt (f : Field) (v i : Nat) : (s.setFld f v i).rebuildAt = s.rebuildAt := rfl
@[simp] theorem State.setFld_rebuildWarned (f : Field) (v i : Nat) : (s.setFld f v i).rebuildWarned = s.rebuildWarned := rfl
@[simp] theorem State.setFld_staging (f : Field) (v i : Nat) : (s.setFld f v i).staging = s.staging := rfl
@[simp] theorem State.setFld_pattern (f : Field) (v i : Nat) : (s.setFld f v i).pattern = s.pattern := rfl
@[simp] theorem State.setFld_bootA (f : Field) (v i : Nat) : (s.setFld f v i).bootA = s.bootA := rfl
@[simp] theorem State.setFld_bootB (f : Field) (v i : Nat) : (s.setFld f v i).bootB = s.bootB := rfl
@[simp] theorem State.setFld_load (f : Field) (v i : Nat) : (s.setFld f v i).load = s.load := rfl
@[simp] theorem State.setFld_bg (f : Field) (v i : Nat) : (s.setFld f v i).bg = s.bg := rfl
@[simp] theorem State.setFld_cores (f : Field) (v i : Nat) : (s.setFld f v i).cores = s.cores := rfl
@[simp] theorem State.setFld_geom (f : Field) (v i : Nat) : (s.setFld f v i).geom = s.geom := rfl
@[simp] theorem State.setFld_buckets (f : Field) (v i : Nat) : (s.setFld f v i).buckets = s.buckets := rfl
@[simp] theorem State.setFld_wheels (f : Field) (v i : Nat) : (s.setFld f v i).wheels = s.wheels := rfl
@[simp] theorem State.setFld_devLevels (f : Field) (v i : Nat) : (s.setFld f v i).devLevels = s.devLevels := rfl
@[simp] theorem State.setFld_spools (f : Field) (v i : Nat) : (s.setFld f v i).spools = s.spools := rfl
@[simp] theorem State.setFld_comps (f : Field) (v i : Nat) : (s.setFld f v i).comps = s.comps := rfl
@[simp] theorem State.setFld_rotor (f : Field) (v i : Nat) : (s.setFld f v i).rotor = s.rotor := rfl
@[simp] theorem State.setFld_inflight (f : Field) (v i : Nat) : (s.setFld f v i).inflight = s.inflight := rfl
@[simp] theorem State.setFld_nextUid (f : Field) (v i : Nat) : (s.setFld f v i).nextUid = s.nextUid := rfl
@[simp] theorem State.setFld_chunks (f : Field) (v i : Nat) : (s.setFld f v i).chunks = s.chunks := rfl
@[simp] theorem State.setFld_seqs (f : Field) (v i : Nat) : (s.setFld f v i).seqs = s.seqs := rfl
@[simp] theorem State.setFld_pins (f : Field) (v i : Nat) : (s.setFld f v i).pins = s.pins := rfl
@[simp] theorem State.setFld_nsKeys (f : Field) (v i : Nat) : (s.setFld f v i).nsKeys = s.nsKeys := rfl
@[simp] theorem State.setFld_frames (f : Field) (v i : Nat) : (s.setFld f v i).frames = s.frames := rfl
@[simp] theorem State.setFld_epochs (f : Field) (v i : Nat) : (s.setFld f v i).epochs = s.epochs := rfl
@[simp] theorem State.setFld_images (f : Field) (v i : Nat) : (s.setFld f v i).images = s.images := rfl
@[simp] theorem State.setFld_cacheSf (f : Field) (v i : Nat) : (s.setFld f v i).cacheSf = s.cacheSf := rfl
@[simp] theorem State.setFld_metaSf (f : Field) (v i : Nat) : (s.setFld f v i).metaSf = s.metaSf := rfl
@[simp] theorem State.setFld_parity (f : Field) (v i : Nat) : (s.setFld f v i).parity = s.parity := rfl
@[simp] theorem State.setFld_dropPaused (f : Field) (v i : Nat) : (s.setFld f v i).dropPaused = s.dropPaused := rfl
@[simp] theorem State.setFld_outRem (f : Field) (v i : Nat) : (s.setFld f v i).outRem = s.outRem := rfl
@[simp] theorem State.setFld_rowN (f : Field) (v i : Nat) : (s.setFld f v i).rowN = s.rowN := rfl
@[simp] theorem State.setFld_gens (f : Field) (v i : Nat) : (s.setFld f v i).gens = s.gens := rfl
@[simp] theorem State.setFld_viewCache (f : Field) (v i : Nat) : (s.setFld f v i).viewCache = s.viewCache := rfl
@[simp] theorem State.setFld_histPages (f : Field) (v i : Nat) : (s.setFld f v i).histPages = s.histPages := rfl
@[simp] theorem State.setFld_viewSlots (f : Field) (v i : Nat) : (s.setFld f v i).viewSlots = s.viewSlots := rfl
@[simp] theorem State.setFld_viewWaits (f : Field) (v i : Nat) : (s.setFld f v i).viewWaits = s.viewWaits := rfl
@[simp] theorem State.setFld_pbase (f : Field) (v i : Nat) : (s.setFld f v i).pbase = s.pbase := rfl
@[simp] theorem State.setFld_syncAt (f : Field) (v i : Nat) : (s.setFld f v i).syncAt = s.syncAt := rfl
@[simp] theorem State.setFld_plainMem (f : Field) (v i : Nat) : (s.setFld f v i).plainMem = s.plainMem := rfl
@[simp] theorem State.setFld_poisonLines (f : Field) (v i : Nat) : (s.setFld f v i).poisonLines = s.poisonLines := rfl
@[simp] theorem State.setFld_orphanLines (f : Field) (v i : Nat) : (s.setFld f v i).orphanLines = s.orphanLines := rfl
@[simp] theorem State.setFld_orphanLog (f : Field) (v i : Nat) : (s.setFld f v i).orphanLog = s.orphanLog := rfl
@[simp] theorem State.setFld_extents (f : Field) (v i : Nat) : (s.setFld f v i).extents = s.extents := rfl
@[simp] theorem State.setFld_released (f : Field) (v i : Nat) : (s.setFld f v i).released = s.released := rfl
@[simp] theorem State.setFld_snoopFilter (f : Field) (v i : Nat) : (s.setFld f v i).snoopFilter = s.snoopFilter := rfl
@[simp] theorem State.setFld_snoops (f : Field) (v i : Nat) : (s.setFld f v i).snoops = s.snoops := rfl
@[simp] theorem State.setFld_lineQ (f : Field) (v i : Nat) : (s.setFld f v i).lineQ = s.lineQ := rfl
@[simp] theorem State.setFld_lostHosts (f : Field) (v i : Nat) : (s.setFld f v i).lostHosts = s.lostHosts := rfl
@[simp] theorem State.setFld_unbackedLogAt (f : Field) (v i : Nat) : (s.setFld f v i).unbackedLogAt = s.unbackedLogAt := rfl
@[simp] theorem State.setFld_curLog (f : Field) (v i : Nat) : (s.setFld f v i).curLog = s.curLog := rfl
@[simp] theorem State.setFld_rlinks (f : Field) (v i : Nat) : (s.setFld f v i).rlinks = s.rlinks := rfl
@[simp] theorem State.setFld_ringOut (f : Field) (v i : Nat) : (s.setFld f v i).ringOut = s.ringOut := rfl
@[simp] theorem State.setFld_rctx (f : Field) (v i : Nat) : (s.setFld f v i).rctx = s.rctx := rfl
@[simp] theorem State.setFld_ringHeld (f : Field) (v i : Nat) : (s.setFld f v i).ringHeld = s.ringHeld := rfl
@[simp] theorem State.setFld_camReqs (f : Field) (v i : Nat) : (s.setFld f v i).camReqs = s.camReqs := rfl
@[simp] theorem State.setFld_gws (f : Field) (v i : Nat) : (s.setFld f v i).gws = s.gws := rfl
@[simp] theorem State.setFld_qps (f : Field) (v i : Nat) : (s.setFld f v i).qps = s.qps := rfl
@[simp] theorem State.setFld_qpKeys (f : Field) (v i : Nat) : (s.setFld f v i).qpKeys = s.qpKeys := rfl
@[simp] theorem State.setFld_shOut (f : Field) (v i : Nat) : (s.setFld f v i).shOut = s.shOut := rfl
@[simp] theorem State.setFld_pfcUntil (f : Field) (v i : Nat) : (s.setFld f v i).pfcUntil = s.pfcUntil := rfl
@[simp] theorem State.setFld_atsCache (f : Field) (v i : Nat) : (s.setFld f v i).atsCache = s.atsCache := rfl
@[simp] theorem State.setFld_orphanPend (f : Field) (v i : Nat) : (s.setFld f v i).orphanPend = s.orphanPend := rfl
@[simp] theorem State.setFld_linkIn (f : Field) (v i : Nat) : (s.setFld f v i).linkIn = s.linkIn := rfl
@[simp] theorem State.setFld_hdm (f : Field) (v i : Nat) : (s.setFld f v i).hdm = s.hdm := rfl
@[simp] theorem State.setFld_evLost (f : Field) (v i : Nat) : (s.setFld f v i).evLost = s.evLost := rfl
@[simp] theorem State.setFld_evPolicy (f : Field) (v i : Nat) : (s.setFld f v i).evPolicy = s.evPolicy := rfl
@[simp] theorem State.setFld_flash (f : Field) (v i : Nat) : (s.setFld f v i).flash = s.flash := rfl
@[simp] theorem State.setFld_units (f : Field) (v i : Nat) : (s.setFld f v i).units = s.units := rfl
@[simp] theorem State.setFld_streams (f : Field) (v i : Nat) : (s.setFld f v i).streams = s.streams := rfl
@[simp] theorem State.setFld_eraseLists (f : Field) (v i : Nat) : (s.setFld f v i).eraseLists = s.eraseLists := rfl
@[simp] theorem State.setFld_victims (f : Field) (v i : Nat) : (s.setFld f v i).victims = s.victims := rfl
@[simp] theorem State.setFld_journalUnit (f : Field) (v i : Nat) : (s.setFld f v i).journalUnit = s.journalUnit := rfl
@[simp] theorem State.setFld_slcTarget (f : Field) (v i : Nat) : (s.setFld f v i).slcTarget = s.slcTarget := rfl
@[simp] theorem State.setFld_checkpointAt (f : Field) (v i : Nat) : (s.setFld f v i).checkpointAt = s.checkpointAt := rfl
@[simp] theorem State.setFld_copiedCw (f : Field) (v i : Nat) : (s.setFld f v i).copiedCw = s.copiedCw := rfl
@[simp] theorem State.setFld_saved (f : Field) (v i : Nat) : (s.setFld f v i).saved = s.saved := rfl
@[simp] theorem State.setFld_tdis (f : Field) (v i : Nat) : (s.setFld f v i).tdis = s.tdis := rfl
@[simp] theorem State.setFld_sessions (f : Field) (v i : Nat) : (s.setFld f v i).sessions = s.sessions := rfl
@[simp] theorem State.setFld_signed (f : Field) (v i : Nat) : (s.setFld f v i).signed = s.signed := rfl
@[simp] theorem State.setFld_ideKeys (f : Field) (v i : Nat) : (s.setFld f v i).ideKeys = s.ideKeys := rfl
@[simp] theorem State.setFld_dataKeys (f : Field) (v i : Nat) : (s.setFld f v i).dataKeys = s.dataKeys := rfl
@[simp] theorem State.setFld_sealReq (f : Field) (v i : Nat) : (s.setFld f v i).sealReq = s.sealReq := rfl
@[simp] theorem State.setFld_memKey (f : Field) (v i : Nat) : (s.setFld f v i).memKey = s.memKey := rfl
@[simp] theorem State.setFld_serial (f : Field) (v i : Nat) : (s.setFld f v i).serial = s.serial := rfl
@[simp] theorem State.setFld_serialTop (f : Field) (v i : Nat) : (s.setFld f v i).serialTop = s.serialTop := rfl
@[simp] theorem State.setFld_keyRows (f : Field) (v i : Nat) : (s.setFld f v i).keyRows = s.keyRows := rfl
@[simp] theorem State.setFld_nonce (f : Field) (v i : Nat) : (s.setFld f v i).nonce = s.nonce := rfl
@[simp] theorem State.setFld_deviceCerts (f : Field) (v i : Nat) : (s.setFld f v i).deviceCerts = s.deviceCerts := rfl
@[simp] theorem State.setFld_ownerCerts (f : Field) (v i : Nat) : (s.setFld f v i).ownerCerts = s.ownerCerts := rfl
@[simp] theorem State.setFld_lcTarget (f : Field) (v i : Nat) : (s.setFld f v i).lcTarget = s.lcTarget := rfl
@[simp] theorem State.setFld_slotA (f : Field) (v i : Nat) : (s.setFld f v i).slotA = s.slotA := rfl
@[simp] theorem State.setFld_slotB (f : Field) (v i : Nat) : (s.setFld f v i).slotB = s.slotB := rfl
@[simp] theorem State.setFld_fwRun (f : Field) (v i : Nat) : (s.setFld f v i).fwRun = s.fwRun := rfl
@[simp] theorem State.setFld_measured (f : Field) (v i : Nat) : (s.setFld f v i).measured = s.measured := rfl
@[simp] theorem State.setFld_fwWriter (f : Field) (v i : Nat) : (s.setFld f v i).fwWriter = s.fwWriter := rfl
@[simp] theorem State.setFld_calib (f : Field) (v i : Nat) : (s.setFld f v i).calib = s.calib := rfl
@[simp] theorem State.setFld_heldActs (f : Field) (v i : Nat) : (s.setFld f v i).heldActs = s.heldActs := rfl
@[simp] theorem State.setFld_tenantResets (f : Field) (v i : Nat) : (s.setFld f v i).tenantResets = s.tenantResets := rfl
@[simp] theorem State.setFld_capDown (f : Field) (v i : Nat) : (s.setFld f v i).capDown = s.capDown := rfl
@[simp] theorem State.setFld_ecoDown (f : Field) (v i : Nat) : (s.setFld f v i).ecoDown = s.ecoDown := rfl
@[simp] theorem State.setFld_avsMiss (f : Field) (v i : Nat) : (s.setFld f v i).avsMiss = s.avsMiss := rfl
@[simp] theorem State.setFld_lastSlow (f : Field) (v i : Nat) : (s.setFld f v i).lastSlow = s.lastSlow := rfl
@[simp] theorem State.setFld_keyRepl (f : Field) (v i : Nat) : (s.setFld f v i).keyRepl = s.keyRepl := rfl
@[simp] theorem State.setFld_replaceN (f : Field) (v i : Nat) : (s.setFld f v i).replaceN = s.replaceN := rfl
@[simp] theorem State.setFld_power (f : Field) (v i : Nat) : (s.setFld f v i).power = s.power := rfl
@[simp] theorem State.setFld_jtag (f : Field) (v i : Nat) : (s.setFld f v i).jtag = s.jtag := rfl

/-! ### Adding to a count field changes `regs` alone -/

@[simp] theorem State.addFld_pending (f : Field) (k i : Nat) : (s.addFld f k i).pending = s.pending := rfl
@[simp] theorem State.addFld_dtime (f : Field) (k i : Nat) : (s.addFld f k i).dtime = s.dtime := rfl
@[simp] theorem State.addFld_freeCtr (f : Field) (k i : Nat) : (s.addFld f k i).freeCtr = s.freeCtr := rfl
@[simp] theorem State.addFld_out (f : Field) (k i : Nat) : (s.addFld f k i).out = s.out := rfl
@[simp] theorem State.addFld_fuses (f : Field) (k i : Nat) : (s.addFld f k i).fuses = s.fuses := rfl
@[simp] theorem State.addFld_log (f : Field) (k i : Nat) : (s.addFld f k i).log = s.log := rfl
@[simp] theorem State.addFld_events (f : Field) (k i : Nat) : (s.addFld f k i).events = s.events := rfl
@[simp] theorem State.addFld_mctp (f : Field) (k i : Nat) : (s.addFld f k i).mctp = s.mctp := rfl
@[simp] theorem State.addFld_geoGen (f : Field) (k i : Nat) : (s.addFld f k i).geoGen = s.geoGen := rfl
@[simp] theorem State.addFld_geoUpd (f : Field) (k i : Nat) : (s.addFld f k i).geoUpd = s.geoUpd := rfl
@[simp] theorem State.addFld_uaLogAt (f : Field) (k i : Nat) : (s.addFld f k i).uaLogAt = s.uaLogAt := rfl
@[simp] theorem State.addFld_denyLogAt (f : Field) (k i : Nat) : (s.addFld f k i).denyLogAt = s.denyLogAt := rfl
@[simp] theorem State.addFld_capRecs (f : Field) (k i : Nat) : (s.addFld f k i).capRecs = s.capRecs := rfl
@[simp] theorem State.addFld_capSnaps (f : Field) (k i : Nat) : (s.addFld f k i).capSnaps = s.capSnaps := rfl
@[simp] theorem State.addFld_capFail (f : Field) (k i : Nat) : (s.addFld f k i).capFail = s.capFail := rfl
@[simp] theorem State.addFld_capFatal (f : Field) (k i : Nat) : (s.addFld f k i).capFatal = s.capFatal := rfl
@[simp] theorem State.addFld_stewards (f : Field) (k i : Nat) : (s.addFld f k i).stewards = s.stewards := rfl
@[simp] theorem State.addFld_reconTimes (f : Field) (k i : Nat) : (s.addFld f k i).reconTimes = s.reconTimes := rfl
@[simp] theorem State.addFld_reconLog (f : Field) (k i : Nat) : (s.addFld f k i).reconLog = s.reconLog := rfl
@[simp] theorem State.addFld_preTest (f : Field) (k i : Nat) : (s.addFld f k i).preTest = s.preTest := rfl
@[simp] theorem State.addFld_rebuildAt (f : Field) (k i : Nat) : (s.addFld f k i).rebuildAt = s.rebuildAt := rfl
@[simp] theorem State.addFld_rebuildWarned (f : Field) (k i : Nat) : (s.addFld f k i).rebuildWarned = s.rebuildWarned := rfl
@[simp] theorem State.addFld_staging (f : Field) (k i : Nat) : (s.addFld f k i).staging = s.staging := rfl
@[simp] theorem State.addFld_pattern (f : Field) (k i : Nat) : (s.addFld f k i).pattern = s.pattern := rfl
@[simp] theorem State.addFld_bootA (f : Field) (k i : Nat) : (s.addFld f k i).bootA = s.bootA := rfl
@[simp] theorem State.addFld_bootB (f : Field) (k i : Nat) : (s.addFld f k i).bootB = s.bootB := rfl
@[simp] theorem State.addFld_load (f : Field) (k i : Nat) : (s.addFld f k i).load = s.load := rfl
@[simp] theorem State.addFld_bg (f : Field) (k i : Nat) : (s.addFld f k i).bg = s.bg := rfl
@[simp] theorem State.addFld_cores (f : Field) (k i : Nat) : (s.addFld f k i).cores = s.cores := rfl
@[simp] theorem State.addFld_geom (f : Field) (k i : Nat) : (s.addFld f k i).geom = s.geom := rfl
@[simp] theorem State.addFld_buckets (f : Field) (k i : Nat) : (s.addFld f k i).buckets = s.buckets := rfl
@[simp] theorem State.addFld_wheels (f : Field) (k i : Nat) : (s.addFld f k i).wheels = s.wheels := rfl
@[simp] theorem State.addFld_devLevels (f : Field) (k i : Nat) : (s.addFld f k i).devLevels = s.devLevels := rfl
@[simp] theorem State.addFld_spools (f : Field) (k i : Nat) : (s.addFld f k i).spools = s.spools := rfl
@[simp] theorem State.addFld_comps (f : Field) (k i : Nat) : (s.addFld f k i).comps = s.comps := rfl
@[simp] theorem State.addFld_rotor (f : Field) (k i : Nat) : (s.addFld f k i).rotor = s.rotor := rfl
@[simp] theorem State.addFld_inflight (f : Field) (k i : Nat) : (s.addFld f k i).inflight = s.inflight := rfl
@[simp] theorem State.addFld_nextUid (f : Field) (k i : Nat) : (s.addFld f k i).nextUid = s.nextUid := rfl
@[simp] theorem State.addFld_chunks (f : Field) (k i : Nat) : (s.addFld f k i).chunks = s.chunks := rfl
@[simp] theorem State.addFld_seqs (f : Field) (k i : Nat) : (s.addFld f k i).seqs = s.seqs := rfl
@[simp] theorem State.addFld_pins (f : Field) (k i : Nat) : (s.addFld f k i).pins = s.pins := rfl
@[simp] theorem State.addFld_nsKeys (f : Field) (k i : Nat) : (s.addFld f k i).nsKeys = s.nsKeys := rfl
@[simp] theorem State.addFld_frames (f : Field) (k i : Nat) : (s.addFld f k i).frames = s.frames := rfl
@[simp] theorem State.addFld_epochs (f : Field) (k i : Nat) : (s.addFld f k i).epochs = s.epochs := rfl
@[simp] theorem State.addFld_images (f : Field) (k i : Nat) : (s.addFld f k i).images = s.images := rfl
@[simp] theorem State.addFld_cacheSf (f : Field) (k i : Nat) : (s.addFld f k i).cacheSf = s.cacheSf := rfl
@[simp] theorem State.addFld_metaSf (f : Field) (k i : Nat) : (s.addFld f k i).metaSf = s.metaSf := rfl
@[simp] theorem State.addFld_parity (f : Field) (k i : Nat) : (s.addFld f k i).parity = s.parity := rfl
@[simp] theorem State.addFld_dropPaused (f : Field) (k i : Nat) : (s.addFld f k i).dropPaused = s.dropPaused := rfl
@[simp] theorem State.addFld_outRem (f : Field) (k i : Nat) : (s.addFld f k i).outRem = s.outRem := rfl
@[simp] theorem State.addFld_rowN (f : Field) (k i : Nat) : (s.addFld f k i).rowN = s.rowN := rfl
@[simp] theorem State.addFld_gens (f : Field) (k i : Nat) : (s.addFld f k i).gens = s.gens := rfl
@[simp] theorem State.addFld_viewCache (f : Field) (k i : Nat) : (s.addFld f k i).viewCache = s.viewCache := rfl
@[simp] theorem State.addFld_histPages (f : Field) (k i : Nat) : (s.addFld f k i).histPages = s.histPages := rfl
@[simp] theorem State.addFld_viewSlots (f : Field) (k i : Nat) : (s.addFld f k i).viewSlots = s.viewSlots := rfl
@[simp] theorem State.addFld_viewWaits (f : Field) (k i : Nat) : (s.addFld f k i).viewWaits = s.viewWaits := rfl
@[simp] theorem State.addFld_pbase (f : Field) (k i : Nat) : (s.addFld f k i).pbase = s.pbase := rfl
@[simp] theorem State.addFld_syncAt (f : Field) (k i : Nat) : (s.addFld f k i).syncAt = s.syncAt := rfl
@[simp] theorem State.addFld_plainMem (f : Field) (k i : Nat) : (s.addFld f k i).plainMem = s.plainMem := rfl
@[simp] theorem State.addFld_poisonLines (f : Field) (k i : Nat) : (s.addFld f k i).poisonLines = s.poisonLines := rfl
@[simp] theorem State.addFld_orphanLines (f : Field) (k i : Nat) : (s.addFld f k i).orphanLines = s.orphanLines := rfl
@[simp] theorem State.addFld_orphanLog (f : Field) (k i : Nat) : (s.addFld f k i).orphanLog = s.orphanLog := rfl
@[simp] theorem State.addFld_extents (f : Field) (k i : Nat) : (s.addFld f k i).extents = s.extents := rfl
@[simp] theorem State.addFld_released (f : Field) (k i : Nat) : (s.addFld f k i).released = s.released := rfl
@[simp] theorem State.addFld_snoopFilter (f : Field) (k i : Nat) : (s.addFld f k i).snoopFilter = s.snoopFilter := rfl
@[simp] theorem State.addFld_snoops (f : Field) (k i : Nat) : (s.addFld f k i).snoops = s.snoops := rfl
@[simp] theorem State.addFld_lineQ (f : Field) (k i : Nat) : (s.addFld f k i).lineQ = s.lineQ := rfl
@[simp] theorem State.addFld_lostHosts (f : Field) (k i : Nat) : (s.addFld f k i).lostHosts = s.lostHosts := rfl
@[simp] theorem State.addFld_unbackedLogAt (f : Field) (k i : Nat) : (s.addFld f k i).unbackedLogAt = s.unbackedLogAt := rfl
@[simp] theorem State.addFld_curLog (f : Field) (k i : Nat) : (s.addFld f k i).curLog = s.curLog := rfl
@[simp] theorem State.addFld_rlinks (f : Field) (k i : Nat) : (s.addFld f k i).rlinks = s.rlinks := rfl
@[simp] theorem State.addFld_ringOut (f : Field) (k i : Nat) : (s.addFld f k i).ringOut = s.ringOut := rfl
@[simp] theorem State.addFld_rctx (f : Field) (k i : Nat) : (s.addFld f k i).rctx = s.rctx := rfl
@[simp] theorem State.addFld_ringHeld (f : Field) (k i : Nat) : (s.addFld f k i).ringHeld = s.ringHeld := rfl
@[simp] theorem State.addFld_camReqs (f : Field) (k i : Nat) : (s.addFld f k i).camReqs = s.camReqs := rfl
@[simp] theorem State.addFld_gws (f : Field) (k i : Nat) : (s.addFld f k i).gws = s.gws := rfl
@[simp] theorem State.addFld_qps (f : Field) (k i : Nat) : (s.addFld f k i).qps = s.qps := rfl
@[simp] theorem State.addFld_qpKeys (f : Field) (k i : Nat) : (s.addFld f k i).qpKeys = s.qpKeys := rfl
@[simp] theorem State.addFld_shOut (f : Field) (k i : Nat) : (s.addFld f k i).shOut = s.shOut := rfl
@[simp] theorem State.addFld_pfcUntil (f : Field) (k i : Nat) : (s.addFld f k i).pfcUntil = s.pfcUntil := rfl
@[simp] theorem State.addFld_atsCache (f : Field) (k i : Nat) : (s.addFld f k i).atsCache = s.atsCache := rfl
@[simp] theorem State.addFld_orphanPend (f : Field) (k i : Nat) : (s.addFld f k i).orphanPend = s.orphanPend := rfl
@[simp] theorem State.addFld_linkIn (f : Field) (k i : Nat) : (s.addFld f k i).linkIn = s.linkIn := rfl
@[simp] theorem State.addFld_hdm (f : Field) (k i : Nat) : (s.addFld f k i).hdm = s.hdm := rfl
@[simp] theorem State.addFld_evLost (f : Field) (k i : Nat) : (s.addFld f k i).evLost = s.evLost := rfl
@[simp] theorem State.addFld_evPolicy (f : Field) (k i : Nat) : (s.addFld f k i).evPolicy = s.evPolicy := rfl
@[simp] theorem State.addFld_flash (f : Field) (k i : Nat) : (s.addFld f k i).flash = s.flash := rfl
@[simp] theorem State.addFld_units (f : Field) (k i : Nat) : (s.addFld f k i).units = s.units := rfl
@[simp] theorem State.addFld_streams (f : Field) (k i : Nat) : (s.addFld f k i).streams = s.streams := rfl
@[simp] theorem State.addFld_eraseLists (f : Field) (k i : Nat) : (s.addFld f k i).eraseLists = s.eraseLists := rfl
@[simp] theorem State.addFld_victims (f : Field) (k i : Nat) : (s.addFld f k i).victims = s.victims := rfl
@[simp] theorem State.addFld_journalUnit (f : Field) (k i : Nat) : (s.addFld f k i).journalUnit = s.journalUnit := rfl
@[simp] theorem State.addFld_slcTarget (f : Field) (k i : Nat) : (s.addFld f k i).slcTarget = s.slcTarget := rfl
@[simp] theorem State.addFld_checkpointAt (f : Field) (k i : Nat) : (s.addFld f k i).checkpointAt = s.checkpointAt := rfl
@[simp] theorem State.addFld_copiedCw (f : Field) (k i : Nat) : (s.addFld f k i).copiedCw = s.copiedCw := rfl
@[simp] theorem State.addFld_saved (f : Field) (k i : Nat) : (s.addFld f k i).saved = s.saved := rfl
@[simp] theorem State.addFld_tdis (f : Field) (k i : Nat) : (s.addFld f k i).tdis = s.tdis := rfl
@[simp] theorem State.addFld_sessions (f : Field) (k i : Nat) : (s.addFld f k i).sessions = s.sessions := rfl
@[simp] theorem State.addFld_signed (f : Field) (k i : Nat) : (s.addFld f k i).signed = s.signed := rfl
@[simp] theorem State.addFld_ideKeys (f : Field) (k i : Nat) : (s.addFld f k i).ideKeys = s.ideKeys := rfl
@[simp] theorem State.addFld_dataKeys (f : Field) (k i : Nat) : (s.addFld f k i).dataKeys = s.dataKeys := rfl
@[simp] theorem State.addFld_sealReq (f : Field) (k i : Nat) : (s.addFld f k i).sealReq = s.sealReq := rfl
@[simp] theorem State.addFld_memKey (f : Field) (k i : Nat) : (s.addFld f k i).memKey = s.memKey := rfl
@[simp] theorem State.addFld_serial (f : Field) (k i : Nat) : (s.addFld f k i).serial = s.serial := rfl
@[simp] theorem State.addFld_serialTop (f : Field) (k i : Nat) : (s.addFld f k i).serialTop = s.serialTop := rfl
@[simp] theorem State.addFld_keyRows (f : Field) (k i : Nat) : (s.addFld f k i).keyRows = s.keyRows := rfl
@[simp] theorem State.addFld_nonce (f : Field) (k i : Nat) : (s.addFld f k i).nonce = s.nonce := rfl
@[simp] theorem State.addFld_deviceCerts (f : Field) (k i : Nat) : (s.addFld f k i).deviceCerts = s.deviceCerts := rfl
@[simp] theorem State.addFld_ownerCerts (f : Field) (k i : Nat) : (s.addFld f k i).ownerCerts = s.ownerCerts := rfl
@[simp] theorem State.addFld_lcTarget (f : Field) (k i : Nat) : (s.addFld f k i).lcTarget = s.lcTarget := rfl
@[simp] theorem State.addFld_slotA (f : Field) (k i : Nat) : (s.addFld f k i).slotA = s.slotA := rfl
@[simp] theorem State.addFld_slotB (f : Field) (k i : Nat) : (s.addFld f k i).slotB = s.slotB := rfl
@[simp] theorem State.addFld_fwRun (f : Field) (k i : Nat) : (s.addFld f k i).fwRun = s.fwRun := rfl
@[simp] theorem State.addFld_measured (f : Field) (k i : Nat) : (s.addFld f k i).measured = s.measured := rfl
@[simp] theorem State.addFld_fwWriter (f : Field) (k i : Nat) : (s.addFld f k i).fwWriter = s.fwWriter := rfl
@[simp] theorem State.addFld_calib (f : Field) (k i : Nat) : (s.addFld f k i).calib = s.calib := rfl
@[simp] theorem State.addFld_heldActs (f : Field) (k i : Nat) : (s.addFld f k i).heldActs = s.heldActs := rfl
@[simp] theorem State.addFld_tenantResets (f : Field) (k i : Nat) : (s.addFld f k i).tenantResets = s.tenantResets := rfl
@[simp] theorem State.addFld_capDown (f : Field) (k i : Nat) : (s.addFld f k i).capDown = s.capDown := rfl
@[simp] theorem State.addFld_ecoDown (f : Field) (k i : Nat) : (s.addFld f k i).ecoDown = s.ecoDown := rfl
@[simp] theorem State.addFld_avsMiss (f : Field) (k i : Nat) : (s.addFld f k i).avsMiss = s.avsMiss := rfl
@[simp] theorem State.addFld_lastSlow (f : Field) (k i : Nat) : (s.addFld f k i).lastSlow = s.lastSlow := rfl
@[simp] theorem State.addFld_keyRepl (f : Field) (k i : Nat) : (s.addFld f k i).keyRepl = s.keyRepl := rfl
@[simp] theorem State.addFld_replaceN (f : Field) (k i : Nat) : (s.addFld f k i).replaceN = s.replaceN := rfl
@[simp] theorem State.addFld_power (f : Field) (k i : Nat) : (s.addFld f k i).power = s.power := rfl
@[simp] theorem State.addFld_jtag (f : Field) (k i : Nat) : (s.addFld f k i).jtag = s.jtag := rfl

/-! ### Adding to a field that wraps changes `regs` alone -/

@[simp] theorem State.incFld_pending (f : Field) (k i : Nat) : (s.incFld f k i).pending = s.pending := rfl
@[simp] theorem State.incFld_dtime (f : Field) (k i : Nat) : (s.incFld f k i).dtime = s.dtime := rfl
@[simp] theorem State.incFld_freeCtr (f : Field) (k i : Nat) : (s.incFld f k i).freeCtr = s.freeCtr := rfl
@[simp] theorem State.incFld_out (f : Field) (k i : Nat) : (s.incFld f k i).out = s.out := rfl
@[simp] theorem State.incFld_fuses (f : Field) (k i : Nat) : (s.incFld f k i).fuses = s.fuses := rfl
@[simp] theorem State.incFld_log (f : Field) (k i : Nat) : (s.incFld f k i).log = s.log := rfl
@[simp] theorem State.incFld_events (f : Field) (k i : Nat) : (s.incFld f k i).events = s.events := rfl
@[simp] theorem State.incFld_mctp (f : Field) (k i : Nat) : (s.incFld f k i).mctp = s.mctp := rfl
@[simp] theorem State.incFld_geoGen (f : Field) (k i : Nat) : (s.incFld f k i).geoGen = s.geoGen := rfl
@[simp] theorem State.incFld_geoUpd (f : Field) (k i : Nat) : (s.incFld f k i).geoUpd = s.geoUpd := rfl
@[simp] theorem State.incFld_uaLogAt (f : Field) (k i : Nat) : (s.incFld f k i).uaLogAt = s.uaLogAt := rfl
@[simp] theorem State.incFld_denyLogAt (f : Field) (k i : Nat) : (s.incFld f k i).denyLogAt = s.denyLogAt := rfl
@[simp] theorem State.incFld_capRecs (f : Field) (k i : Nat) : (s.incFld f k i).capRecs = s.capRecs := rfl
@[simp] theorem State.incFld_capSnaps (f : Field) (k i : Nat) : (s.incFld f k i).capSnaps = s.capSnaps := rfl
@[simp] theorem State.incFld_capFail (f : Field) (k i : Nat) : (s.incFld f k i).capFail = s.capFail := rfl
@[simp] theorem State.incFld_capFatal (f : Field) (k i : Nat) : (s.incFld f k i).capFatal = s.capFatal := rfl
@[simp] theorem State.incFld_stewards (f : Field) (k i : Nat) : (s.incFld f k i).stewards = s.stewards := rfl
@[simp] theorem State.incFld_reconTimes (f : Field) (k i : Nat) : (s.incFld f k i).reconTimes = s.reconTimes := rfl
@[simp] theorem State.incFld_reconLog (f : Field) (k i : Nat) : (s.incFld f k i).reconLog = s.reconLog := rfl
@[simp] theorem State.incFld_preTest (f : Field) (k i : Nat) : (s.incFld f k i).preTest = s.preTest := rfl
@[simp] theorem State.incFld_rebuildAt (f : Field) (k i : Nat) : (s.incFld f k i).rebuildAt = s.rebuildAt := rfl
@[simp] theorem State.incFld_rebuildWarned (f : Field) (k i : Nat) : (s.incFld f k i).rebuildWarned = s.rebuildWarned := rfl
@[simp] theorem State.incFld_staging (f : Field) (k i : Nat) : (s.incFld f k i).staging = s.staging := rfl
@[simp] theorem State.incFld_pattern (f : Field) (k i : Nat) : (s.incFld f k i).pattern = s.pattern := rfl
@[simp] theorem State.incFld_bootA (f : Field) (k i : Nat) : (s.incFld f k i).bootA = s.bootA := rfl
@[simp] theorem State.incFld_bootB (f : Field) (k i : Nat) : (s.incFld f k i).bootB = s.bootB := rfl
@[simp] theorem State.incFld_load (f : Field) (k i : Nat) : (s.incFld f k i).load = s.load := rfl
@[simp] theorem State.incFld_bg (f : Field) (k i : Nat) : (s.incFld f k i).bg = s.bg := rfl
@[simp] theorem State.incFld_cores (f : Field) (k i : Nat) : (s.incFld f k i).cores = s.cores := rfl
@[simp] theorem State.incFld_geom (f : Field) (k i : Nat) : (s.incFld f k i).geom = s.geom := rfl
@[simp] theorem State.incFld_buckets (f : Field) (k i : Nat) : (s.incFld f k i).buckets = s.buckets := rfl
@[simp] theorem State.incFld_wheels (f : Field) (k i : Nat) : (s.incFld f k i).wheels = s.wheels := rfl
@[simp] theorem State.incFld_devLevels (f : Field) (k i : Nat) : (s.incFld f k i).devLevels = s.devLevels := rfl
@[simp] theorem State.incFld_spools (f : Field) (k i : Nat) : (s.incFld f k i).spools = s.spools := rfl
@[simp] theorem State.incFld_comps (f : Field) (k i : Nat) : (s.incFld f k i).comps = s.comps := rfl
@[simp] theorem State.incFld_rotor (f : Field) (k i : Nat) : (s.incFld f k i).rotor = s.rotor := rfl
@[simp] theorem State.incFld_inflight (f : Field) (k i : Nat) : (s.incFld f k i).inflight = s.inflight := rfl
@[simp] theorem State.incFld_nextUid (f : Field) (k i : Nat) : (s.incFld f k i).nextUid = s.nextUid := rfl
@[simp] theorem State.incFld_chunks (f : Field) (k i : Nat) : (s.incFld f k i).chunks = s.chunks := rfl
@[simp] theorem State.incFld_seqs (f : Field) (k i : Nat) : (s.incFld f k i).seqs = s.seqs := rfl
@[simp] theorem State.incFld_pins (f : Field) (k i : Nat) : (s.incFld f k i).pins = s.pins := rfl
@[simp] theorem State.incFld_nsKeys (f : Field) (k i : Nat) : (s.incFld f k i).nsKeys = s.nsKeys := rfl
@[simp] theorem State.incFld_frames (f : Field) (k i : Nat) : (s.incFld f k i).frames = s.frames := rfl
@[simp] theorem State.incFld_epochs (f : Field) (k i : Nat) : (s.incFld f k i).epochs = s.epochs := rfl
@[simp] theorem State.incFld_images (f : Field) (k i : Nat) : (s.incFld f k i).images = s.images := rfl
@[simp] theorem State.incFld_cacheSf (f : Field) (k i : Nat) : (s.incFld f k i).cacheSf = s.cacheSf := rfl
@[simp] theorem State.incFld_metaSf (f : Field) (k i : Nat) : (s.incFld f k i).metaSf = s.metaSf := rfl
@[simp] theorem State.incFld_parity (f : Field) (k i : Nat) : (s.incFld f k i).parity = s.parity := rfl
@[simp] theorem State.incFld_dropPaused (f : Field) (k i : Nat) : (s.incFld f k i).dropPaused = s.dropPaused := rfl
@[simp] theorem State.incFld_outRem (f : Field) (k i : Nat) : (s.incFld f k i).outRem = s.outRem := rfl
@[simp] theorem State.incFld_rowN (f : Field) (k i : Nat) : (s.incFld f k i).rowN = s.rowN := rfl
@[simp] theorem State.incFld_gens (f : Field) (k i : Nat) : (s.incFld f k i).gens = s.gens := rfl
@[simp] theorem State.incFld_viewCache (f : Field) (k i : Nat) : (s.incFld f k i).viewCache = s.viewCache := rfl
@[simp] theorem State.incFld_histPages (f : Field) (k i : Nat) : (s.incFld f k i).histPages = s.histPages := rfl
@[simp] theorem State.incFld_viewSlots (f : Field) (k i : Nat) : (s.incFld f k i).viewSlots = s.viewSlots := rfl
@[simp] theorem State.incFld_viewWaits (f : Field) (k i : Nat) : (s.incFld f k i).viewWaits = s.viewWaits := rfl
@[simp] theorem State.incFld_pbase (f : Field) (k i : Nat) : (s.incFld f k i).pbase = s.pbase := rfl
@[simp] theorem State.incFld_syncAt (f : Field) (k i : Nat) : (s.incFld f k i).syncAt = s.syncAt := rfl
@[simp] theorem State.incFld_plainMem (f : Field) (k i : Nat) : (s.incFld f k i).plainMem = s.plainMem := rfl
@[simp] theorem State.incFld_poisonLines (f : Field) (k i : Nat) : (s.incFld f k i).poisonLines = s.poisonLines := rfl
@[simp] theorem State.incFld_orphanLines (f : Field) (k i : Nat) : (s.incFld f k i).orphanLines = s.orphanLines := rfl
@[simp] theorem State.incFld_orphanLog (f : Field) (k i : Nat) : (s.incFld f k i).orphanLog = s.orphanLog := rfl
@[simp] theorem State.incFld_extents (f : Field) (k i : Nat) : (s.incFld f k i).extents = s.extents := rfl
@[simp] theorem State.incFld_released (f : Field) (k i : Nat) : (s.incFld f k i).released = s.released := rfl
@[simp] theorem State.incFld_snoopFilter (f : Field) (k i : Nat) : (s.incFld f k i).snoopFilter = s.snoopFilter := rfl
@[simp] theorem State.incFld_snoops (f : Field) (k i : Nat) : (s.incFld f k i).snoops = s.snoops := rfl
@[simp] theorem State.incFld_lineQ (f : Field) (k i : Nat) : (s.incFld f k i).lineQ = s.lineQ := rfl
@[simp] theorem State.incFld_lostHosts (f : Field) (k i : Nat) : (s.incFld f k i).lostHosts = s.lostHosts := rfl
@[simp] theorem State.incFld_unbackedLogAt (f : Field) (k i : Nat) : (s.incFld f k i).unbackedLogAt = s.unbackedLogAt := rfl
@[simp] theorem State.incFld_curLog (f : Field) (k i : Nat) : (s.incFld f k i).curLog = s.curLog := rfl
@[simp] theorem State.incFld_rlinks (f : Field) (k i : Nat) : (s.incFld f k i).rlinks = s.rlinks := rfl
@[simp] theorem State.incFld_ringOut (f : Field) (k i : Nat) : (s.incFld f k i).ringOut = s.ringOut := rfl
@[simp] theorem State.incFld_rctx (f : Field) (k i : Nat) : (s.incFld f k i).rctx = s.rctx := rfl
@[simp] theorem State.incFld_ringHeld (f : Field) (k i : Nat) : (s.incFld f k i).ringHeld = s.ringHeld := rfl
@[simp] theorem State.incFld_camReqs (f : Field) (k i : Nat) : (s.incFld f k i).camReqs = s.camReqs := rfl
@[simp] theorem State.incFld_gws (f : Field) (k i : Nat) : (s.incFld f k i).gws = s.gws := rfl
@[simp] theorem State.incFld_qps (f : Field) (k i : Nat) : (s.incFld f k i).qps = s.qps := rfl
@[simp] theorem State.incFld_qpKeys (f : Field) (k i : Nat) : (s.incFld f k i).qpKeys = s.qpKeys := rfl
@[simp] theorem State.incFld_shOut (f : Field) (k i : Nat) : (s.incFld f k i).shOut = s.shOut := rfl
@[simp] theorem State.incFld_pfcUntil (f : Field) (k i : Nat) : (s.incFld f k i).pfcUntil = s.pfcUntil := rfl
@[simp] theorem State.incFld_atsCache (f : Field) (k i : Nat) : (s.incFld f k i).atsCache = s.atsCache := rfl
@[simp] theorem State.incFld_orphanPend (f : Field) (k i : Nat) : (s.incFld f k i).orphanPend = s.orphanPend := rfl
@[simp] theorem State.incFld_linkIn (f : Field) (k i : Nat) : (s.incFld f k i).linkIn = s.linkIn := rfl
@[simp] theorem State.incFld_hdm (f : Field) (k i : Nat) : (s.incFld f k i).hdm = s.hdm := rfl
@[simp] theorem State.incFld_evLost (f : Field) (k i : Nat) : (s.incFld f k i).evLost = s.evLost := rfl
@[simp] theorem State.incFld_evPolicy (f : Field) (k i : Nat) : (s.incFld f k i).evPolicy = s.evPolicy := rfl
@[simp] theorem State.incFld_flash (f : Field) (k i : Nat) : (s.incFld f k i).flash = s.flash := rfl
@[simp] theorem State.incFld_units (f : Field) (k i : Nat) : (s.incFld f k i).units = s.units := rfl
@[simp] theorem State.incFld_streams (f : Field) (k i : Nat) : (s.incFld f k i).streams = s.streams := rfl
@[simp] theorem State.incFld_eraseLists (f : Field) (k i : Nat) : (s.incFld f k i).eraseLists = s.eraseLists := rfl
@[simp] theorem State.incFld_victims (f : Field) (k i : Nat) : (s.incFld f k i).victims = s.victims := rfl
@[simp] theorem State.incFld_journalUnit (f : Field) (k i : Nat) : (s.incFld f k i).journalUnit = s.journalUnit := rfl
@[simp] theorem State.incFld_slcTarget (f : Field) (k i : Nat) : (s.incFld f k i).slcTarget = s.slcTarget := rfl
@[simp] theorem State.incFld_checkpointAt (f : Field) (k i : Nat) : (s.incFld f k i).checkpointAt = s.checkpointAt := rfl
@[simp] theorem State.incFld_copiedCw (f : Field) (k i : Nat) : (s.incFld f k i).copiedCw = s.copiedCw := rfl
@[simp] theorem State.incFld_saved (f : Field) (k i : Nat) : (s.incFld f k i).saved = s.saved := rfl
@[simp] theorem State.incFld_tdis (f : Field) (k i : Nat) : (s.incFld f k i).tdis = s.tdis := rfl
@[simp] theorem State.incFld_sessions (f : Field) (k i : Nat) : (s.incFld f k i).sessions = s.sessions := rfl
@[simp] theorem State.incFld_signed (f : Field) (k i : Nat) : (s.incFld f k i).signed = s.signed := rfl
@[simp] theorem State.incFld_ideKeys (f : Field) (k i : Nat) : (s.incFld f k i).ideKeys = s.ideKeys := rfl
@[simp] theorem State.incFld_dataKeys (f : Field) (k i : Nat) : (s.incFld f k i).dataKeys = s.dataKeys := rfl
@[simp] theorem State.incFld_sealReq (f : Field) (k i : Nat) : (s.incFld f k i).sealReq = s.sealReq := rfl
@[simp] theorem State.incFld_memKey (f : Field) (k i : Nat) : (s.incFld f k i).memKey = s.memKey := rfl
@[simp] theorem State.incFld_serial (f : Field) (k i : Nat) : (s.incFld f k i).serial = s.serial := rfl
@[simp] theorem State.incFld_serialTop (f : Field) (k i : Nat) : (s.incFld f k i).serialTop = s.serialTop := rfl
@[simp] theorem State.incFld_keyRows (f : Field) (k i : Nat) : (s.incFld f k i).keyRows = s.keyRows := rfl
@[simp] theorem State.incFld_nonce (f : Field) (k i : Nat) : (s.incFld f k i).nonce = s.nonce := rfl
@[simp] theorem State.incFld_deviceCerts (f : Field) (k i : Nat) : (s.incFld f k i).deviceCerts = s.deviceCerts := rfl
@[simp] theorem State.incFld_ownerCerts (f : Field) (k i : Nat) : (s.incFld f k i).ownerCerts = s.ownerCerts := rfl
@[simp] theorem State.incFld_lcTarget (f : Field) (k i : Nat) : (s.incFld f k i).lcTarget = s.lcTarget := rfl
@[simp] theorem State.incFld_slotA (f : Field) (k i : Nat) : (s.incFld f k i).slotA = s.slotA := rfl
@[simp] theorem State.incFld_slotB (f : Field) (k i : Nat) : (s.incFld f k i).slotB = s.slotB := rfl
@[simp] theorem State.incFld_fwRun (f : Field) (k i : Nat) : (s.incFld f k i).fwRun = s.fwRun := rfl
@[simp] theorem State.incFld_measured (f : Field) (k i : Nat) : (s.incFld f k i).measured = s.measured := rfl
@[simp] theorem State.incFld_fwWriter (f : Field) (k i : Nat) : (s.incFld f k i).fwWriter = s.fwWriter := rfl
@[simp] theorem State.incFld_calib (f : Field) (k i : Nat) : (s.incFld f k i).calib = s.calib := rfl
@[simp] theorem State.incFld_heldActs (f : Field) (k i : Nat) : (s.incFld f k i).heldActs = s.heldActs := rfl
@[simp] theorem State.incFld_tenantResets (f : Field) (k i : Nat) : (s.incFld f k i).tenantResets = s.tenantResets := rfl
@[simp] theorem State.incFld_capDown (f : Field) (k i : Nat) : (s.incFld f k i).capDown = s.capDown := rfl
@[simp] theorem State.incFld_ecoDown (f : Field) (k i : Nat) : (s.incFld f k i).ecoDown = s.ecoDown := rfl
@[simp] theorem State.incFld_avsMiss (f : Field) (k i : Nat) : (s.incFld f k i).avsMiss = s.avsMiss := rfl
@[simp] theorem State.incFld_lastSlow (f : Field) (k i : Nat) : (s.incFld f k i).lastSlow = s.lastSlow := rfl
@[simp] theorem State.incFld_keyRepl (f : Field) (k i : Nat) : (s.incFld f k i).keyRepl = s.keyRepl := rfl
@[simp] theorem State.incFld_replaceN (f : Field) (k i : Nat) : (s.incFld f k i).replaceN = s.replaceN := rfl
@[simp] theorem State.incFld_power (f : Field) (k i : Nat) : (s.incFld f k i).power = s.power := rfl
@[simp] theorem State.incFld_jtag (f : Field) (k i : Nat) : (s.incFld f k i).jtag = s.jtag := rfl

/-! ### Sending something changes `out` alone -/

@[simp] theorem State.emit_pending (o : Output) : (s.emit o).pending = s.pending := rfl
@[simp] theorem State.emit_regs (o : Output) : (s.emit o).regs = s.regs := rfl
@[simp] theorem State.emit_dtime (o : Output) : (s.emit o).dtime = s.dtime := rfl
@[simp] theorem State.emit_freeCtr (o : Output) : (s.emit o).freeCtr = s.freeCtr := rfl
@[simp] theorem State.emit_fuses (o : Output) : (s.emit o).fuses = s.fuses := rfl
@[simp] theorem State.emit_log (o : Output) : (s.emit o).log = s.log := rfl
@[simp] theorem State.emit_events (o : Output) : (s.emit o).events = s.events := rfl
@[simp] theorem State.emit_mctp (o : Output) : (s.emit o).mctp = s.mctp := rfl
@[simp] theorem State.emit_geoGen (o : Output) : (s.emit o).geoGen = s.geoGen := rfl
@[simp] theorem State.emit_geoUpd (o : Output) : (s.emit o).geoUpd = s.geoUpd := rfl
@[simp] theorem State.emit_uaLogAt (o : Output) : (s.emit o).uaLogAt = s.uaLogAt := rfl
@[simp] theorem State.emit_denyLogAt (o : Output) : (s.emit o).denyLogAt = s.denyLogAt := rfl
@[simp] theorem State.emit_capRecs (o : Output) : (s.emit o).capRecs = s.capRecs := rfl
@[simp] theorem State.emit_capSnaps (o : Output) : (s.emit o).capSnaps = s.capSnaps := rfl
@[simp] theorem State.emit_capFail (o : Output) : (s.emit o).capFail = s.capFail := rfl
@[simp] theorem State.emit_capFatal (o : Output) : (s.emit o).capFatal = s.capFatal := rfl
@[simp] theorem State.emit_stewards (o : Output) : (s.emit o).stewards = s.stewards := rfl
@[simp] theorem State.emit_reconTimes (o : Output) : (s.emit o).reconTimes = s.reconTimes := rfl
@[simp] theorem State.emit_reconLog (o : Output) : (s.emit o).reconLog = s.reconLog := rfl
@[simp] theorem State.emit_preTest (o : Output) : (s.emit o).preTest = s.preTest := rfl
@[simp] theorem State.emit_rebuildAt (o : Output) : (s.emit o).rebuildAt = s.rebuildAt := rfl
@[simp] theorem State.emit_rebuildWarned (o : Output) : (s.emit o).rebuildWarned = s.rebuildWarned := rfl
@[simp] theorem State.emit_staging (o : Output) : (s.emit o).staging = s.staging := rfl
@[simp] theorem State.emit_pattern (o : Output) : (s.emit o).pattern = s.pattern := rfl
@[simp] theorem State.emit_bootA (o : Output) : (s.emit o).bootA = s.bootA := rfl
@[simp] theorem State.emit_bootB (o : Output) : (s.emit o).bootB = s.bootB := rfl
@[simp] theorem State.emit_load (o : Output) : (s.emit o).load = s.load := rfl
@[simp] theorem State.emit_bg (o : Output) : (s.emit o).bg = s.bg := rfl
@[simp] theorem State.emit_cores (o : Output) : (s.emit o).cores = s.cores := rfl
@[simp] theorem State.emit_geom (o : Output) : (s.emit o).geom = s.geom := rfl
@[simp] theorem State.emit_buckets (o : Output) : (s.emit o).buckets = s.buckets := rfl
@[simp] theorem State.emit_wheels (o : Output) : (s.emit o).wheels = s.wheels := rfl
@[simp] theorem State.emit_devLevels (o : Output) : (s.emit o).devLevels = s.devLevels := rfl
@[simp] theorem State.emit_spools (o : Output) : (s.emit o).spools = s.spools := rfl
@[simp] theorem State.emit_comps (o : Output) : (s.emit o).comps = s.comps := rfl
@[simp] theorem State.emit_rotor (o : Output) : (s.emit o).rotor = s.rotor := rfl
@[simp] theorem State.emit_inflight (o : Output) : (s.emit o).inflight = s.inflight := rfl
@[simp] theorem State.emit_nextUid (o : Output) : (s.emit o).nextUid = s.nextUid := rfl
@[simp] theorem State.emit_chunks (o : Output) : (s.emit o).chunks = s.chunks := rfl
@[simp] theorem State.emit_seqs (o : Output) : (s.emit o).seqs = s.seqs := rfl
@[simp] theorem State.emit_pins (o : Output) : (s.emit o).pins = s.pins := rfl
@[simp] theorem State.emit_nsKeys (o : Output) : (s.emit o).nsKeys = s.nsKeys := rfl
@[simp] theorem State.emit_frames (o : Output) : (s.emit o).frames = s.frames := rfl
@[simp] theorem State.emit_epochs (o : Output) : (s.emit o).epochs = s.epochs := rfl
@[simp] theorem State.emit_images (o : Output) : (s.emit o).images = s.images := rfl
@[simp] theorem State.emit_cacheSf (o : Output) : (s.emit o).cacheSf = s.cacheSf := rfl
@[simp] theorem State.emit_metaSf (o : Output) : (s.emit o).metaSf = s.metaSf := rfl
@[simp] theorem State.emit_parity (o : Output) : (s.emit o).parity = s.parity := rfl
@[simp] theorem State.emit_dropPaused (o : Output) : (s.emit o).dropPaused = s.dropPaused := rfl
@[simp] theorem State.emit_outRem (o : Output) : (s.emit o).outRem = s.outRem := rfl
@[simp] theorem State.emit_rowN (o : Output) : (s.emit o).rowN = s.rowN := rfl
@[simp] theorem State.emit_gens (o : Output) : (s.emit o).gens = s.gens := rfl
@[simp] theorem State.emit_viewCache (o : Output) : (s.emit o).viewCache = s.viewCache := rfl
@[simp] theorem State.emit_histPages (o : Output) : (s.emit o).histPages = s.histPages := rfl
@[simp] theorem State.emit_viewSlots (o : Output) : (s.emit o).viewSlots = s.viewSlots := rfl
@[simp] theorem State.emit_viewWaits (o : Output) : (s.emit o).viewWaits = s.viewWaits := rfl
@[simp] theorem State.emit_pbase (o : Output) : (s.emit o).pbase = s.pbase := rfl
@[simp] theorem State.emit_syncAt (o : Output) : (s.emit o).syncAt = s.syncAt := rfl
@[simp] theorem State.emit_plainMem (o : Output) : (s.emit o).plainMem = s.plainMem := rfl
@[simp] theorem State.emit_poisonLines (o : Output) : (s.emit o).poisonLines = s.poisonLines := rfl
@[simp] theorem State.emit_orphanLines (o : Output) : (s.emit o).orphanLines = s.orphanLines := rfl
@[simp] theorem State.emit_orphanLog (o : Output) : (s.emit o).orphanLog = s.orphanLog := rfl
@[simp] theorem State.emit_extents (o : Output) : (s.emit o).extents = s.extents := rfl
@[simp] theorem State.emit_released (o : Output) : (s.emit o).released = s.released := rfl
@[simp] theorem State.emit_snoopFilter (o : Output) : (s.emit o).snoopFilter = s.snoopFilter := rfl
@[simp] theorem State.emit_snoops (o : Output) : (s.emit o).snoops = s.snoops := rfl
@[simp] theorem State.emit_lineQ (o : Output) : (s.emit o).lineQ = s.lineQ := rfl
@[simp] theorem State.emit_lostHosts (o : Output) : (s.emit o).lostHosts = s.lostHosts := rfl
@[simp] theorem State.emit_unbackedLogAt (o : Output) : (s.emit o).unbackedLogAt = s.unbackedLogAt := rfl
@[simp] theorem State.emit_curLog (o : Output) : (s.emit o).curLog = s.curLog := rfl
@[simp] theorem State.emit_rlinks (o : Output) : (s.emit o).rlinks = s.rlinks := rfl
@[simp] theorem State.emit_ringOut (o : Output) : (s.emit o).ringOut = s.ringOut := rfl
@[simp] theorem State.emit_rctx (o : Output) : (s.emit o).rctx = s.rctx := rfl
@[simp] theorem State.emit_ringHeld (o : Output) : (s.emit o).ringHeld = s.ringHeld := rfl
@[simp] theorem State.emit_camReqs (o : Output) : (s.emit o).camReqs = s.camReqs := rfl
@[simp] theorem State.emit_gws (o : Output) : (s.emit o).gws = s.gws := rfl
@[simp] theorem State.emit_qps (o : Output) : (s.emit o).qps = s.qps := rfl
@[simp] theorem State.emit_qpKeys (o : Output) : (s.emit o).qpKeys = s.qpKeys := rfl
@[simp] theorem State.emit_shOut (o : Output) : (s.emit o).shOut = s.shOut := rfl
@[simp] theorem State.emit_pfcUntil (o : Output) : (s.emit o).pfcUntil = s.pfcUntil := rfl
@[simp] theorem State.emit_atsCache (o : Output) : (s.emit o).atsCache = s.atsCache := rfl
@[simp] theorem State.emit_orphanPend (o : Output) : (s.emit o).orphanPend = s.orphanPend := rfl
@[simp] theorem State.emit_linkIn (o : Output) : (s.emit o).linkIn = s.linkIn := rfl
@[simp] theorem State.emit_hdm (o : Output) : (s.emit o).hdm = s.hdm := rfl
@[simp] theorem State.emit_evLost (o : Output) : (s.emit o).evLost = s.evLost := rfl
@[simp] theorem State.emit_evPolicy (o : Output) : (s.emit o).evPolicy = s.evPolicy := rfl
@[simp] theorem State.emit_flash (o : Output) : (s.emit o).flash = s.flash := rfl
@[simp] theorem State.emit_units (o : Output) : (s.emit o).units = s.units := rfl
@[simp] theorem State.emit_streams (o : Output) : (s.emit o).streams = s.streams := rfl
@[simp] theorem State.emit_eraseLists (o : Output) : (s.emit o).eraseLists = s.eraseLists := rfl
@[simp] theorem State.emit_victims (o : Output) : (s.emit o).victims = s.victims := rfl
@[simp] theorem State.emit_journalUnit (o : Output) : (s.emit o).journalUnit = s.journalUnit := rfl
@[simp] theorem State.emit_slcTarget (o : Output) : (s.emit o).slcTarget = s.slcTarget := rfl
@[simp] theorem State.emit_checkpointAt (o : Output) : (s.emit o).checkpointAt = s.checkpointAt := rfl
@[simp] theorem State.emit_copiedCw (o : Output) : (s.emit o).copiedCw = s.copiedCw := rfl
@[simp] theorem State.emit_saved (o : Output) : (s.emit o).saved = s.saved := rfl
@[simp] theorem State.emit_tdis (o : Output) : (s.emit o).tdis = s.tdis := rfl
@[simp] theorem State.emit_sessions (o : Output) : (s.emit o).sessions = s.sessions := rfl
@[simp] theorem State.emit_signed (o : Output) : (s.emit o).signed = s.signed := rfl
@[simp] theorem State.emit_ideKeys (o : Output) : (s.emit o).ideKeys = s.ideKeys := rfl
@[simp] theorem State.emit_dataKeys (o : Output) : (s.emit o).dataKeys = s.dataKeys := rfl
@[simp] theorem State.emit_sealReq (o : Output) : (s.emit o).sealReq = s.sealReq := rfl
@[simp] theorem State.emit_memKey (o : Output) : (s.emit o).memKey = s.memKey := rfl
@[simp] theorem State.emit_serial (o : Output) : (s.emit o).serial = s.serial := rfl
@[simp] theorem State.emit_serialTop (o : Output) : (s.emit o).serialTop = s.serialTop := rfl
@[simp] theorem State.emit_keyRows (o : Output) : (s.emit o).keyRows = s.keyRows := rfl
@[simp] theorem State.emit_nonce (o : Output) : (s.emit o).nonce = s.nonce := rfl
@[simp] theorem State.emit_deviceCerts (o : Output) : (s.emit o).deviceCerts = s.deviceCerts := rfl
@[simp] theorem State.emit_ownerCerts (o : Output) : (s.emit o).ownerCerts = s.ownerCerts := rfl
@[simp] theorem State.emit_lcTarget (o : Output) : (s.emit o).lcTarget = s.lcTarget := rfl
@[simp] theorem State.emit_slotA (o : Output) : (s.emit o).slotA = s.slotA := rfl
@[simp] theorem State.emit_slotB (o : Output) : (s.emit o).slotB = s.slotB := rfl
@[simp] theorem State.emit_fwRun (o : Output) : (s.emit o).fwRun = s.fwRun := rfl
@[simp] theorem State.emit_measured (o : Output) : (s.emit o).measured = s.measured := rfl
@[simp] theorem State.emit_fwWriter (o : Output) : (s.emit o).fwWriter = s.fwWriter := rfl
@[simp] theorem State.emit_calib (o : Output) : (s.emit o).calib = s.calib := rfl
@[simp] theorem State.emit_heldActs (o : Output) : (s.emit o).heldActs = s.heldActs := rfl
@[simp] theorem State.emit_tenantResets (o : Output) : (s.emit o).tenantResets = s.tenantResets := rfl
@[simp] theorem State.emit_capDown (o : Output) : (s.emit o).capDown = s.capDown := rfl
@[simp] theorem State.emit_ecoDown (o : Output) : (s.emit o).ecoDown = s.ecoDown := rfl
@[simp] theorem State.emit_avsMiss (o : Output) : (s.emit o).avsMiss = s.avsMiss := rfl
@[simp] theorem State.emit_lastSlow (o : Output) : (s.emit o).lastSlow = s.lastSlow := rfl
@[simp] theorem State.emit_keyRepl (o : Output) : (s.emit o).keyRepl = s.keyRepl := rfl
@[simp] theorem State.emit_replaceN (o : Output) : (s.emit o).replaceN = s.replaceN := rfl
@[simp] theorem State.emit_power (o : Output) : (s.emit o).power = s.power := rfl
@[simp] theorem State.emit_jtag (o : Output) : (s.emit o).jtag = s.jtag := rfl

/-! ### Moving on past a free value changes `freeCtr` alone -/

@[simp] theorem State.drawn_pending : (s.drawn).pending = s.pending := rfl
@[simp] theorem State.drawn_regs : (s.drawn).regs = s.regs := rfl
@[simp] theorem State.drawn_dtime : (s.drawn).dtime = s.dtime := rfl
@[simp] theorem State.drawn_out : (s.drawn).out = s.out := rfl
@[simp] theorem State.drawn_fuses : (s.drawn).fuses = s.fuses := rfl
@[simp] theorem State.drawn_log : (s.drawn).log = s.log := rfl
@[simp] theorem State.drawn_events : (s.drawn).events = s.events := rfl
@[simp] theorem State.drawn_mctp : (s.drawn).mctp = s.mctp := rfl
@[simp] theorem State.drawn_geoGen : (s.drawn).geoGen = s.geoGen := rfl
@[simp] theorem State.drawn_geoUpd : (s.drawn).geoUpd = s.geoUpd := rfl
@[simp] theorem State.drawn_uaLogAt : (s.drawn).uaLogAt = s.uaLogAt := rfl
@[simp] theorem State.drawn_denyLogAt : (s.drawn).denyLogAt = s.denyLogAt := rfl
@[simp] theorem State.drawn_capRecs : (s.drawn).capRecs = s.capRecs := rfl
@[simp] theorem State.drawn_capSnaps : (s.drawn).capSnaps = s.capSnaps := rfl
@[simp] theorem State.drawn_capFail : (s.drawn).capFail = s.capFail := rfl
@[simp] theorem State.drawn_capFatal : (s.drawn).capFatal = s.capFatal := rfl
@[simp] theorem State.drawn_stewards : (s.drawn).stewards = s.stewards := rfl
@[simp] theorem State.drawn_reconTimes : (s.drawn).reconTimes = s.reconTimes := rfl
@[simp] theorem State.drawn_reconLog : (s.drawn).reconLog = s.reconLog := rfl
@[simp] theorem State.drawn_preTest : (s.drawn).preTest = s.preTest := rfl
@[simp] theorem State.drawn_rebuildAt : (s.drawn).rebuildAt = s.rebuildAt := rfl
@[simp] theorem State.drawn_rebuildWarned : (s.drawn).rebuildWarned = s.rebuildWarned := rfl
@[simp] theorem State.drawn_staging : (s.drawn).staging = s.staging := rfl
@[simp] theorem State.drawn_pattern : (s.drawn).pattern = s.pattern := rfl
@[simp] theorem State.drawn_bootA : (s.drawn).bootA = s.bootA := rfl
@[simp] theorem State.drawn_bootB : (s.drawn).bootB = s.bootB := rfl
@[simp] theorem State.drawn_load : (s.drawn).load = s.load := rfl
@[simp] theorem State.drawn_bg : (s.drawn).bg = s.bg := rfl
@[simp] theorem State.drawn_cores : (s.drawn).cores = s.cores := rfl
@[simp] theorem State.drawn_geom : (s.drawn).geom = s.geom := rfl
@[simp] theorem State.drawn_buckets : (s.drawn).buckets = s.buckets := rfl
@[simp] theorem State.drawn_wheels : (s.drawn).wheels = s.wheels := rfl
@[simp] theorem State.drawn_devLevels : (s.drawn).devLevels = s.devLevels := rfl
@[simp] theorem State.drawn_spools : (s.drawn).spools = s.spools := rfl
@[simp] theorem State.drawn_comps : (s.drawn).comps = s.comps := rfl
@[simp] theorem State.drawn_rotor : (s.drawn).rotor = s.rotor := rfl
@[simp] theorem State.drawn_inflight : (s.drawn).inflight = s.inflight := rfl
@[simp] theorem State.drawn_nextUid : (s.drawn).nextUid = s.nextUid := rfl
@[simp] theorem State.drawn_chunks : (s.drawn).chunks = s.chunks := rfl
@[simp] theorem State.drawn_seqs : (s.drawn).seqs = s.seqs := rfl
@[simp] theorem State.drawn_pins : (s.drawn).pins = s.pins := rfl
@[simp] theorem State.drawn_nsKeys : (s.drawn).nsKeys = s.nsKeys := rfl
@[simp] theorem State.drawn_frames : (s.drawn).frames = s.frames := rfl
@[simp] theorem State.drawn_epochs : (s.drawn).epochs = s.epochs := rfl
@[simp] theorem State.drawn_images : (s.drawn).images = s.images := rfl
@[simp] theorem State.drawn_cacheSf : (s.drawn).cacheSf = s.cacheSf := rfl
@[simp] theorem State.drawn_metaSf : (s.drawn).metaSf = s.metaSf := rfl
@[simp] theorem State.drawn_parity : (s.drawn).parity = s.parity := rfl
@[simp] theorem State.drawn_dropPaused : (s.drawn).dropPaused = s.dropPaused := rfl
@[simp] theorem State.drawn_outRem : (s.drawn).outRem = s.outRem := rfl
@[simp] theorem State.drawn_rowN : (s.drawn).rowN = s.rowN := rfl
@[simp] theorem State.drawn_gens : (s.drawn).gens = s.gens := rfl
@[simp] theorem State.drawn_viewCache : (s.drawn).viewCache = s.viewCache := rfl
@[simp] theorem State.drawn_histPages : (s.drawn).histPages = s.histPages := rfl
@[simp] theorem State.drawn_viewSlots : (s.drawn).viewSlots = s.viewSlots := rfl
@[simp] theorem State.drawn_viewWaits : (s.drawn).viewWaits = s.viewWaits := rfl
@[simp] theorem State.drawn_pbase : (s.drawn).pbase = s.pbase := rfl
@[simp] theorem State.drawn_syncAt : (s.drawn).syncAt = s.syncAt := rfl
@[simp] theorem State.drawn_plainMem : (s.drawn).plainMem = s.plainMem := rfl
@[simp] theorem State.drawn_poisonLines : (s.drawn).poisonLines = s.poisonLines := rfl
@[simp] theorem State.drawn_orphanLines : (s.drawn).orphanLines = s.orphanLines := rfl
@[simp] theorem State.drawn_orphanLog : (s.drawn).orphanLog = s.orphanLog := rfl
@[simp] theorem State.drawn_extents : (s.drawn).extents = s.extents := rfl
@[simp] theorem State.drawn_released : (s.drawn).released = s.released := rfl
@[simp] theorem State.drawn_snoopFilter : (s.drawn).snoopFilter = s.snoopFilter := rfl
@[simp] theorem State.drawn_snoops : (s.drawn).snoops = s.snoops := rfl
@[simp] theorem State.drawn_lineQ : (s.drawn).lineQ = s.lineQ := rfl
@[simp] theorem State.drawn_lostHosts : (s.drawn).lostHosts = s.lostHosts := rfl
@[simp] theorem State.drawn_unbackedLogAt : (s.drawn).unbackedLogAt = s.unbackedLogAt := rfl
@[simp] theorem State.drawn_curLog : (s.drawn).curLog = s.curLog := rfl
@[simp] theorem State.drawn_rlinks : (s.drawn).rlinks = s.rlinks := rfl
@[simp] theorem State.drawn_ringOut : (s.drawn).ringOut = s.ringOut := rfl
@[simp] theorem State.drawn_rctx : (s.drawn).rctx = s.rctx := rfl
@[simp] theorem State.drawn_ringHeld : (s.drawn).ringHeld = s.ringHeld := rfl
@[simp] theorem State.drawn_camReqs : (s.drawn).camReqs = s.camReqs := rfl
@[simp] theorem State.drawn_gws : (s.drawn).gws = s.gws := rfl
@[simp] theorem State.drawn_qps : (s.drawn).qps = s.qps := rfl
@[simp] theorem State.drawn_qpKeys : (s.drawn).qpKeys = s.qpKeys := rfl
@[simp] theorem State.drawn_shOut : (s.drawn).shOut = s.shOut := rfl
@[simp] theorem State.drawn_pfcUntil : (s.drawn).pfcUntil = s.pfcUntil := rfl
@[simp] theorem State.drawn_atsCache : (s.drawn).atsCache = s.atsCache := rfl
@[simp] theorem State.drawn_orphanPend : (s.drawn).orphanPend = s.orphanPend := rfl
@[simp] theorem State.drawn_linkIn : (s.drawn).linkIn = s.linkIn := rfl
@[simp] theorem State.drawn_hdm : (s.drawn).hdm = s.hdm := rfl
@[simp] theorem State.drawn_evLost : (s.drawn).evLost = s.evLost := rfl
@[simp] theorem State.drawn_evPolicy : (s.drawn).evPolicy = s.evPolicy := rfl
@[simp] theorem State.drawn_flash : (s.drawn).flash = s.flash := rfl
@[simp] theorem State.drawn_units : (s.drawn).units = s.units := rfl
@[simp] theorem State.drawn_streams : (s.drawn).streams = s.streams := rfl
@[simp] theorem State.drawn_eraseLists : (s.drawn).eraseLists = s.eraseLists := rfl
@[simp] theorem State.drawn_victims : (s.drawn).victims = s.victims := rfl
@[simp] theorem State.drawn_journalUnit : (s.drawn).journalUnit = s.journalUnit := rfl
@[simp] theorem State.drawn_slcTarget : (s.drawn).slcTarget = s.slcTarget := rfl
@[simp] theorem State.drawn_checkpointAt : (s.drawn).checkpointAt = s.checkpointAt := rfl
@[simp] theorem State.drawn_copiedCw : (s.drawn).copiedCw = s.copiedCw := rfl
@[simp] theorem State.drawn_saved : (s.drawn).saved = s.saved := rfl
@[simp] theorem State.drawn_tdis : (s.drawn).tdis = s.tdis := rfl
@[simp] theorem State.drawn_sessions : (s.drawn).sessions = s.sessions := rfl
@[simp] theorem State.drawn_signed : (s.drawn).signed = s.signed := rfl
@[simp] theorem State.drawn_ideKeys : (s.drawn).ideKeys = s.ideKeys := rfl
@[simp] theorem State.drawn_dataKeys : (s.drawn).dataKeys = s.dataKeys := rfl
@[simp] theorem State.drawn_sealReq : (s.drawn).sealReq = s.sealReq := rfl
@[simp] theorem State.drawn_memKey : (s.drawn).memKey = s.memKey := rfl
@[simp] theorem State.drawn_serial : (s.drawn).serial = s.serial := rfl
@[simp] theorem State.drawn_serialTop : (s.drawn).serialTop = s.serialTop := rfl
@[simp] theorem State.drawn_keyRows : (s.drawn).keyRows = s.keyRows := rfl
@[simp] theorem State.drawn_nonce : (s.drawn).nonce = s.nonce := rfl
@[simp] theorem State.drawn_deviceCerts : (s.drawn).deviceCerts = s.deviceCerts := rfl
@[simp] theorem State.drawn_ownerCerts : (s.drawn).ownerCerts = s.ownerCerts := rfl
@[simp] theorem State.drawn_lcTarget : (s.drawn).lcTarget = s.lcTarget := rfl
@[simp] theorem State.drawn_slotA : (s.drawn).slotA = s.slotA := rfl
@[simp] theorem State.drawn_slotB : (s.drawn).slotB = s.slotB := rfl
@[simp] theorem State.drawn_fwRun : (s.drawn).fwRun = s.fwRun := rfl
@[simp] theorem State.drawn_measured : (s.drawn).measured = s.measured := rfl
@[simp] theorem State.drawn_fwWriter : (s.drawn).fwWriter = s.fwWriter := rfl
@[simp] theorem State.drawn_calib : (s.drawn).calib = s.calib := rfl
@[simp] theorem State.drawn_heldActs : (s.drawn).heldActs = s.heldActs := rfl
@[simp] theorem State.drawn_tenantResets : (s.drawn).tenantResets = s.tenantResets := rfl
@[simp] theorem State.drawn_capDown : (s.drawn).capDown = s.capDown := rfl
@[simp] theorem State.drawn_ecoDown : (s.drawn).ecoDown = s.ecoDown := rfl
@[simp] theorem State.drawn_avsMiss : (s.drawn).avsMiss = s.avsMiss := rfl
@[simp] theorem State.drawn_lastSlow : (s.drawn).lastSlow = s.lastSlow := rfl
@[simp] theorem State.drawn_keyRepl : (s.drawn).keyRepl = s.keyRepl := rfl
@[simp] theorem State.drawn_replaceN : (s.drawn).replaceN = s.replaceN := rfl
@[simp] theorem State.drawn_power : (s.drawn).power = s.power := rfl
@[simp] theorem State.drawn_jtag : (s.drawn).jtag = s.jtag := rfl

/-! ### Moving DTIME on changes `dtime` alone -/

@[simp] theorem State.at__pending (now : Nat) : (s.at_ now).pending = s.pending := rfl
@[simp] theorem State.at__regs (now : Nat) : (s.at_ now).regs = s.regs := rfl
@[simp] theorem State.at__freeCtr (now : Nat) : (s.at_ now).freeCtr = s.freeCtr := rfl
@[simp] theorem State.at__out (now : Nat) : (s.at_ now).out = s.out := rfl
@[simp] theorem State.at__fuses (now : Nat) : (s.at_ now).fuses = s.fuses := rfl
@[simp] theorem State.at__log (now : Nat) : (s.at_ now).log = s.log := rfl
@[simp] theorem State.at__events (now : Nat) : (s.at_ now).events = s.events := rfl
@[simp] theorem State.at__mctp (now : Nat) : (s.at_ now).mctp = s.mctp := rfl
@[simp] theorem State.at__geoGen (now : Nat) : (s.at_ now).geoGen = s.geoGen := rfl
@[simp] theorem State.at__geoUpd (now : Nat) : (s.at_ now).geoUpd = s.geoUpd := rfl
@[simp] theorem State.at__uaLogAt (now : Nat) : (s.at_ now).uaLogAt = s.uaLogAt := rfl
@[simp] theorem State.at__denyLogAt (now : Nat) : (s.at_ now).denyLogAt = s.denyLogAt := rfl
@[simp] theorem State.at__capRecs (now : Nat) : (s.at_ now).capRecs = s.capRecs := rfl
@[simp] theorem State.at__capSnaps (now : Nat) : (s.at_ now).capSnaps = s.capSnaps := rfl
@[simp] theorem State.at__capFail (now : Nat) : (s.at_ now).capFail = s.capFail := rfl
@[simp] theorem State.at__capFatal (now : Nat) : (s.at_ now).capFatal = s.capFatal := rfl
@[simp] theorem State.at__stewards (now : Nat) : (s.at_ now).stewards = s.stewards := rfl
@[simp] theorem State.at__reconTimes (now : Nat) : (s.at_ now).reconTimes = s.reconTimes := rfl
@[simp] theorem State.at__reconLog (now : Nat) : (s.at_ now).reconLog = s.reconLog := rfl
@[simp] theorem State.at__preTest (now : Nat) : (s.at_ now).preTest = s.preTest := rfl
@[simp] theorem State.at__rebuildAt (now : Nat) : (s.at_ now).rebuildAt = s.rebuildAt := rfl
@[simp] theorem State.at__rebuildWarned (now : Nat) : (s.at_ now).rebuildWarned = s.rebuildWarned := rfl
@[simp] theorem State.at__staging (now : Nat) : (s.at_ now).staging = s.staging := rfl
@[simp] theorem State.at__pattern (now : Nat) : (s.at_ now).pattern = s.pattern := rfl
@[simp] theorem State.at__bootA (now : Nat) : (s.at_ now).bootA = s.bootA := rfl
@[simp] theorem State.at__bootB (now : Nat) : (s.at_ now).bootB = s.bootB := rfl
@[simp] theorem State.at__load (now : Nat) : (s.at_ now).load = s.load := rfl
@[simp] theorem State.at__bg (now : Nat) : (s.at_ now).bg = s.bg := rfl
@[simp] theorem State.at__cores (now : Nat) : (s.at_ now).cores = s.cores := rfl
@[simp] theorem State.at__geom (now : Nat) : (s.at_ now).geom = s.geom := rfl
@[simp] theorem State.at__buckets (now : Nat) : (s.at_ now).buckets = s.buckets := rfl
@[simp] theorem State.at__wheels (now : Nat) : (s.at_ now).wheels = s.wheels := rfl
@[simp] theorem State.at__devLevels (now : Nat) : (s.at_ now).devLevels = s.devLevels := rfl
@[simp] theorem State.at__spools (now : Nat) : (s.at_ now).spools = s.spools := rfl
@[simp] theorem State.at__comps (now : Nat) : (s.at_ now).comps = s.comps := rfl
@[simp] theorem State.at__rotor (now : Nat) : (s.at_ now).rotor = s.rotor := rfl
@[simp] theorem State.at__inflight (now : Nat) : (s.at_ now).inflight = s.inflight := rfl
@[simp] theorem State.at__nextUid (now : Nat) : (s.at_ now).nextUid = s.nextUid := rfl
@[simp] theorem State.at__chunks (now : Nat) : (s.at_ now).chunks = s.chunks := rfl
@[simp] theorem State.at__seqs (now : Nat) : (s.at_ now).seqs = s.seqs := rfl
@[simp] theorem State.at__pins (now : Nat) : (s.at_ now).pins = s.pins := rfl
@[simp] theorem State.at__nsKeys (now : Nat) : (s.at_ now).nsKeys = s.nsKeys := rfl
@[simp] theorem State.at__frames (now : Nat) : (s.at_ now).frames = s.frames := rfl
@[simp] theorem State.at__epochs (now : Nat) : (s.at_ now).epochs = s.epochs := rfl
@[simp] theorem State.at__images (now : Nat) : (s.at_ now).images = s.images := rfl
@[simp] theorem State.at__cacheSf (now : Nat) : (s.at_ now).cacheSf = s.cacheSf := rfl
@[simp] theorem State.at__metaSf (now : Nat) : (s.at_ now).metaSf = s.metaSf := rfl
@[simp] theorem State.at__parity (now : Nat) : (s.at_ now).parity = s.parity := rfl
@[simp] theorem State.at__dropPaused (now : Nat) : (s.at_ now).dropPaused = s.dropPaused := rfl
@[simp] theorem State.at__outRem (now : Nat) : (s.at_ now).outRem = s.outRem := rfl
@[simp] theorem State.at__rowN (now : Nat) : (s.at_ now).rowN = s.rowN := rfl
@[simp] theorem State.at__gens (now : Nat) : (s.at_ now).gens = s.gens := rfl
@[simp] theorem State.at__viewCache (now : Nat) : (s.at_ now).viewCache = s.viewCache := rfl
@[simp] theorem State.at__histPages (now : Nat) : (s.at_ now).histPages = s.histPages := rfl
@[simp] theorem State.at__viewSlots (now : Nat) : (s.at_ now).viewSlots = s.viewSlots := rfl
@[simp] theorem State.at__viewWaits (now : Nat) : (s.at_ now).viewWaits = s.viewWaits := rfl
@[simp] theorem State.at__pbase (now : Nat) : (s.at_ now).pbase = s.pbase := rfl
@[simp] theorem State.at__syncAt (now : Nat) : (s.at_ now).syncAt = s.syncAt := rfl
@[simp] theorem State.at__plainMem (now : Nat) : (s.at_ now).plainMem = s.plainMem := rfl
@[simp] theorem State.at__poisonLines (now : Nat) : (s.at_ now).poisonLines = s.poisonLines := rfl
@[simp] theorem State.at__orphanLines (now : Nat) : (s.at_ now).orphanLines = s.orphanLines := rfl
@[simp] theorem State.at__orphanLog (now : Nat) : (s.at_ now).orphanLog = s.orphanLog := rfl
@[simp] theorem State.at__extents (now : Nat) : (s.at_ now).extents = s.extents := rfl
@[simp] theorem State.at__released (now : Nat) : (s.at_ now).released = s.released := rfl
@[simp] theorem State.at__snoopFilter (now : Nat) : (s.at_ now).snoopFilter = s.snoopFilter := rfl
@[simp] theorem State.at__snoops (now : Nat) : (s.at_ now).snoops = s.snoops := rfl
@[simp] theorem State.at__lineQ (now : Nat) : (s.at_ now).lineQ = s.lineQ := rfl
@[simp] theorem State.at__lostHosts (now : Nat) : (s.at_ now).lostHosts = s.lostHosts := rfl
@[simp] theorem State.at__unbackedLogAt (now : Nat) : (s.at_ now).unbackedLogAt = s.unbackedLogAt := rfl
@[simp] theorem State.at__curLog (now : Nat) : (s.at_ now).curLog = s.curLog := rfl
@[simp] theorem State.at__rlinks (now : Nat) : (s.at_ now).rlinks = s.rlinks := rfl
@[simp] theorem State.at__ringOut (now : Nat) : (s.at_ now).ringOut = s.ringOut := rfl
@[simp] theorem State.at__rctx (now : Nat) : (s.at_ now).rctx = s.rctx := rfl
@[simp] theorem State.at__ringHeld (now : Nat) : (s.at_ now).ringHeld = s.ringHeld := rfl
@[simp] theorem State.at__camReqs (now : Nat) : (s.at_ now).camReqs = s.camReqs := rfl
@[simp] theorem State.at__gws (now : Nat) : (s.at_ now).gws = s.gws := rfl
@[simp] theorem State.at__qps (now : Nat) : (s.at_ now).qps = s.qps := rfl
@[simp] theorem State.at__qpKeys (now : Nat) : (s.at_ now).qpKeys = s.qpKeys := rfl
@[simp] theorem State.at__shOut (now : Nat) : (s.at_ now).shOut = s.shOut := rfl
@[simp] theorem State.at__pfcUntil (now : Nat) : (s.at_ now).pfcUntil = s.pfcUntil := rfl
@[simp] theorem State.at__atsCache (now : Nat) : (s.at_ now).atsCache = s.atsCache := rfl
@[simp] theorem State.at__orphanPend (now : Nat) : (s.at_ now).orphanPend = s.orphanPend := rfl
@[simp] theorem State.at__linkIn (now : Nat) : (s.at_ now).linkIn = s.linkIn := rfl
@[simp] theorem State.at__hdm (now : Nat) : (s.at_ now).hdm = s.hdm := rfl
@[simp] theorem State.at__evLost (now : Nat) : (s.at_ now).evLost = s.evLost := rfl
@[simp] theorem State.at__evPolicy (now : Nat) : (s.at_ now).evPolicy = s.evPolicy := rfl
@[simp] theorem State.at__flash (now : Nat) : (s.at_ now).flash = s.flash := rfl
@[simp] theorem State.at__units (now : Nat) : (s.at_ now).units = s.units := rfl
@[simp] theorem State.at__streams (now : Nat) : (s.at_ now).streams = s.streams := rfl
@[simp] theorem State.at__eraseLists (now : Nat) : (s.at_ now).eraseLists = s.eraseLists := rfl
@[simp] theorem State.at__victims (now : Nat) : (s.at_ now).victims = s.victims := rfl
@[simp] theorem State.at__journalUnit (now : Nat) : (s.at_ now).journalUnit = s.journalUnit := rfl
@[simp] theorem State.at__slcTarget (now : Nat) : (s.at_ now).slcTarget = s.slcTarget := rfl
@[simp] theorem State.at__checkpointAt (now : Nat) : (s.at_ now).checkpointAt = s.checkpointAt := rfl
@[simp] theorem State.at__copiedCw (now : Nat) : (s.at_ now).copiedCw = s.copiedCw := rfl
@[simp] theorem State.at__saved (now : Nat) : (s.at_ now).saved = s.saved := rfl
@[simp] theorem State.at__tdis (now : Nat) : (s.at_ now).tdis = s.tdis := rfl
@[simp] theorem State.at__sessions (now : Nat) : (s.at_ now).sessions = s.sessions := rfl
@[simp] theorem State.at__signed (now : Nat) : (s.at_ now).signed = s.signed := rfl
@[simp] theorem State.at__ideKeys (now : Nat) : (s.at_ now).ideKeys = s.ideKeys := rfl
@[simp] theorem State.at__dataKeys (now : Nat) : (s.at_ now).dataKeys = s.dataKeys := rfl
@[simp] theorem State.at__sealReq (now : Nat) : (s.at_ now).sealReq = s.sealReq := rfl
@[simp] theorem State.at__memKey (now : Nat) : (s.at_ now).memKey = s.memKey := rfl
@[simp] theorem State.at__serial (now : Nat) : (s.at_ now).serial = s.serial := rfl
@[simp] theorem State.at__serialTop (now : Nat) : (s.at_ now).serialTop = s.serialTop := rfl
@[simp] theorem State.at__keyRows (now : Nat) : (s.at_ now).keyRows = s.keyRows := rfl
@[simp] theorem State.at__nonce (now : Nat) : (s.at_ now).nonce = s.nonce := rfl
@[simp] theorem State.at__deviceCerts (now : Nat) : (s.at_ now).deviceCerts = s.deviceCerts := rfl
@[simp] theorem State.at__ownerCerts (now : Nat) : (s.at_ now).ownerCerts = s.ownerCerts := rfl
@[simp] theorem State.at__lcTarget (now : Nat) : (s.at_ now).lcTarget = s.lcTarget := rfl
@[simp] theorem State.at__slotA (now : Nat) : (s.at_ now).slotA = s.slotA := rfl
@[simp] theorem State.at__slotB (now : Nat) : (s.at_ now).slotB = s.slotB := rfl
@[simp] theorem State.at__fwRun (now : Nat) : (s.at_ now).fwRun = s.fwRun := rfl
@[simp] theorem State.at__measured (now : Nat) : (s.at_ now).measured = s.measured := rfl
@[simp] theorem State.at__fwWriter (now : Nat) : (s.at_ now).fwWriter = s.fwWriter := rfl
@[simp] theorem State.at__calib (now : Nat) : (s.at_ now).calib = s.calib := rfl
@[simp] theorem State.at__heldActs (now : Nat) : (s.at_ now).heldActs = s.heldActs := rfl
@[simp] theorem State.at__tenantResets (now : Nat) : (s.at_ now).tenantResets = s.tenantResets := rfl
@[simp] theorem State.at__capDown (now : Nat) : (s.at_ now).capDown = s.capDown := rfl
@[simp] theorem State.at__ecoDown (now : Nat) : (s.at_ now).ecoDown = s.ecoDown := rfl
@[simp] theorem State.at__avsMiss (now : Nat) : (s.at_ now).avsMiss = s.avsMiss := rfl
@[simp] theorem State.at__lastSlow (now : Nat) : (s.at_ now).lastSlow = s.lastSlow := rfl
@[simp] theorem State.at__keyRepl (now : Nat) : (s.at_ now).keyRepl = s.keyRepl := rfl
@[simp] theorem State.at__replaceN (now : Nat) : (s.at_ now).replaceN = s.replaceN := rfl
@[simp] theorem State.at__power (now : Nat) : (s.at_ now).power = s.power := rfl
@[simp] theorem State.at__jtag (now : Nat) : (s.at_ now).jtag = s.jtag := rfl

/-! ### Leaving an event for the management controller changes `mctp` alone -/

@[simp] theorem State.mctpEvent_pending (sensor reading : Nat) : (s.mctpEvent sensor reading).pending = s.pending := rfl
@[simp] theorem State.mctpEvent_regs (sensor reading : Nat) : (s.mctpEvent sensor reading).regs = s.regs := rfl
@[simp] theorem State.mctpEvent_dtime (sensor reading : Nat) : (s.mctpEvent sensor reading).dtime = s.dtime := rfl
@[simp] theorem State.mctpEvent_freeCtr (sensor reading : Nat) : (s.mctpEvent sensor reading).freeCtr = s.freeCtr := rfl
@[simp] theorem State.mctpEvent_out (sensor reading : Nat) : (s.mctpEvent sensor reading).out = s.out := rfl
@[simp] theorem State.mctpEvent_fuses (sensor reading : Nat) : (s.mctpEvent sensor reading).fuses = s.fuses := rfl
@[simp] theorem State.mctpEvent_log (sensor reading : Nat) : (s.mctpEvent sensor reading).log = s.log := rfl
@[simp] theorem State.mctpEvent_events (sensor reading : Nat) : (s.mctpEvent sensor reading).events = s.events := rfl
@[simp] theorem State.mctpEvent_geoGen (sensor reading : Nat) : (s.mctpEvent sensor reading).geoGen = s.geoGen := rfl
@[simp] theorem State.mctpEvent_geoUpd (sensor reading : Nat) : (s.mctpEvent sensor reading).geoUpd = s.geoUpd := rfl
@[simp] theorem State.mctpEvent_uaLogAt (sensor reading : Nat) : (s.mctpEvent sensor reading).uaLogAt = s.uaLogAt := rfl
@[simp] theorem State.mctpEvent_denyLogAt (sensor reading : Nat) : (s.mctpEvent sensor reading).denyLogAt = s.denyLogAt := rfl
@[simp] theorem State.mctpEvent_capRecs (sensor reading : Nat) : (s.mctpEvent sensor reading).capRecs = s.capRecs := rfl
@[simp] theorem State.mctpEvent_capSnaps (sensor reading : Nat) : (s.mctpEvent sensor reading).capSnaps = s.capSnaps := rfl
@[simp] theorem State.mctpEvent_capFail (sensor reading : Nat) : (s.mctpEvent sensor reading).capFail = s.capFail := rfl
@[simp] theorem State.mctpEvent_capFatal (sensor reading : Nat) : (s.mctpEvent sensor reading).capFatal = s.capFatal := rfl
@[simp] theorem State.mctpEvent_stewards (sensor reading : Nat) : (s.mctpEvent sensor reading).stewards = s.stewards := rfl
@[simp] theorem State.mctpEvent_reconTimes (sensor reading : Nat) : (s.mctpEvent sensor reading).reconTimes = s.reconTimes := rfl
@[simp] theorem State.mctpEvent_reconLog (sensor reading : Nat) : (s.mctpEvent sensor reading).reconLog = s.reconLog := rfl
@[simp] theorem State.mctpEvent_preTest (sensor reading : Nat) : (s.mctpEvent sensor reading).preTest = s.preTest := rfl
@[simp] theorem State.mctpEvent_rebuildAt (sensor reading : Nat) : (s.mctpEvent sensor reading).rebuildAt = s.rebuildAt := rfl
@[simp] theorem State.mctpEvent_rebuildWarned (sensor reading : Nat) : (s.mctpEvent sensor reading).rebuildWarned = s.rebuildWarned := rfl
@[simp] theorem State.mctpEvent_staging (sensor reading : Nat) : (s.mctpEvent sensor reading).staging = s.staging := rfl
@[simp] theorem State.mctpEvent_pattern (sensor reading : Nat) : (s.mctpEvent sensor reading).pattern = s.pattern := rfl
@[simp] theorem State.mctpEvent_bootA (sensor reading : Nat) : (s.mctpEvent sensor reading).bootA = s.bootA := rfl
@[simp] theorem State.mctpEvent_bootB (sensor reading : Nat) : (s.mctpEvent sensor reading).bootB = s.bootB := rfl
@[simp] theorem State.mctpEvent_load (sensor reading : Nat) : (s.mctpEvent sensor reading).load = s.load := rfl
@[simp] theorem State.mctpEvent_bg (sensor reading : Nat) : (s.mctpEvent sensor reading).bg = s.bg := rfl
@[simp] theorem State.mctpEvent_cores (sensor reading : Nat) : (s.mctpEvent sensor reading).cores = s.cores := rfl
@[simp] theorem State.mctpEvent_geom (sensor reading : Nat) : (s.mctpEvent sensor reading).geom = s.geom := rfl
@[simp] theorem State.mctpEvent_buckets (sensor reading : Nat) : (s.mctpEvent sensor reading).buckets = s.buckets := rfl
@[simp] theorem State.mctpEvent_wheels (sensor reading : Nat) : (s.mctpEvent sensor reading).wheels = s.wheels := rfl
@[simp] theorem State.mctpEvent_devLevels (sensor reading : Nat) : (s.mctpEvent sensor reading).devLevels = s.devLevels := rfl
@[simp] theorem State.mctpEvent_spools (sensor reading : Nat) : (s.mctpEvent sensor reading).spools = s.spools := rfl
@[simp] theorem State.mctpEvent_comps (sensor reading : Nat) : (s.mctpEvent sensor reading).comps = s.comps := rfl
@[simp] theorem State.mctpEvent_rotor (sensor reading : Nat) : (s.mctpEvent sensor reading).rotor = s.rotor := rfl
@[simp] theorem State.mctpEvent_inflight (sensor reading : Nat) : (s.mctpEvent sensor reading).inflight = s.inflight := rfl
@[simp] theorem State.mctpEvent_nextUid (sensor reading : Nat) : (s.mctpEvent sensor reading).nextUid = s.nextUid := rfl
@[simp] theorem State.mctpEvent_chunks (sensor reading : Nat) : (s.mctpEvent sensor reading).chunks = s.chunks := rfl
@[simp] theorem State.mctpEvent_seqs (sensor reading : Nat) : (s.mctpEvent sensor reading).seqs = s.seqs := rfl
@[simp] theorem State.mctpEvent_pins (sensor reading : Nat) : (s.mctpEvent sensor reading).pins = s.pins := rfl
@[simp] theorem State.mctpEvent_nsKeys (sensor reading : Nat) : (s.mctpEvent sensor reading).nsKeys = s.nsKeys := rfl
@[simp] theorem State.mctpEvent_frames (sensor reading : Nat) : (s.mctpEvent sensor reading).frames = s.frames := rfl
@[simp] theorem State.mctpEvent_epochs (sensor reading : Nat) : (s.mctpEvent sensor reading).epochs = s.epochs := rfl
@[simp] theorem State.mctpEvent_images (sensor reading : Nat) : (s.mctpEvent sensor reading).images = s.images := rfl
@[simp] theorem State.mctpEvent_cacheSf (sensor reading : Nat) : (s.mctpEvent sensor reading).cacheSf = s.cacheSf := rfl
@[simp] theorem State.mctpEvent_metaSf (sensor reading : Nat) : (s.mctpEvent sensor reading).metaSf = s.metaSf := rfl
@[simp] theorem State.mctpEvent_parity (sensor reading : Nat) : (s.mctpEvent sensor reading).parity = s.parity := rfl
@[simp] theorem State.mctpEvent_dropPaused (sensor reading : Nat) : (s.mctpEvent sensor reading).dropPaused = s.dropPaused := rfl
@[simp] theorem State.mctpEvent_outRem (sensor reading : Nat) : (s.mctpEvent sensor reading).outRem = s.outRem := rfl
@[simp] theorem State.mctpEvent_rowN (sensor reading : Nat) : (s.mctpEvent sensor reading).rowN = s.rowN := rfl
@[simp] theorem State.mctpEvent_gens (sensor reading : Nat) : (s.mctpEvent sensor reading).gens = s.gens := rfl
@[simp] theorem State.mctpEvent_viewCache (sensor reading : Nat) : (s.mctpEvent sensor reading).viewCache = s.viewCache := rfl
@[simp] theorem State.mctpEvent_histPages (sensor reading : Nat) : (s.mctpEvent sensor reading).histPages = s.histPages := rfl
@[simp] theorem State.mctpEvent_viewSlots (sensor reading : Nat) : (s.mctpEvent sensor reading).viewSlots = s.viewSlots := rfl
@[simp] theorem State.mctpEvent_viewWaits (sensor reading : Nat) : (s.mctpEvent sensor reading).viewWaits = s.viewWaits := rfl
@[simp] theorem State.mctpEvent_pbase (sensor reading : Nat) : (s.mctpEvent sensor reading).pbase = s.pbase := rfl
@[simp] theorem State.mctpEvent_syncAt (sensor reading : Nat) : (s.mctpEvent sensor reading).syncAt = s.syncAt := rfl
@[simp] theorem State.mctpEvent_plainMem (sensor reading : Nat) : (s.mctpEvent sensor reading).plainMem = s.plainMem := rfl
@[simp] theorem State.mctpEvent_poisonLines (sensor reading : Nat) : (s.mctpEvent sensor reading).poisonLines = s.poisonLines := rfl
@[simp] theorem State.mctpEvent_orphanLines (sensor reading : Nat) : (s.mctpEvent sensor reading).orphanLines = s.orphanLines := rfl
@[simp] theorem State.mctpEvent_orphanLog (sensor reading : Nat) : (s.mctpEvent sensor reading).orphanLog = s.orphanLog := rfl
@[simp] theorem State.mctpEvent_extents (sensor reading : Nat) : (s.mctpEvent sensor reading).extents = s.extents := rfl
@[simp] theorem State.mctpEvent_released (sensor reading : Nat) : (s.mctpEvent sensor reading).released = s.released := rfl
@[simp] theorem State.mctpEvent_snoopFilter (sensor reading : Nat) : (s.mctpEvent sensor reading).snoopFilter = s.snoopFilter := rfl
@[simp] theorem State.mctpEvent_snoops (sensor reading : Nat) : (s.mctpEvent sensor reading).snoops = s.snoops := rfl
@[simp] theorem State.mctpEvent_lineQ (sensor reading : Nat) : (s.mctpEvent sensor reading).lineQ = s.lineQ := rfl
@[simp] theorem State.mctpEvent_lostHosts (sensor reading : Nat) : (s.mctpEvent sensor reading).lostHosts = s.lostHosts := rfl
@[simp] theorem State.mctpEvent_unbackedLogAt (sensor reading : Nat) : (s.mctpEvent sensor reading).unbackedLogAt = s.unbackedLogAt := rfl
@[simp] theorem State.mctpEvent_curLog (sensor reading : Nat) : (s.mctpEvent sensor reading).curLog = s.curLog := rfl
@[simp] theorem State.mctpEvent_rlinks (sensor reading : Nat) : (s.mctpEvent sensor reading).rlinks = s.rlinks := rfl
@[simp] theorem State.mctpEvent_ringOut (sensor reading : Nat) : (s.mctpEvent sensor reading).ringOut = s.ringOut := rfl
@[simp] theorem State.mctpEvent_rctx (sensor reading : Nat) : (s.mctpEvent sensor reading).rctx = s.rctx := rfl
@[simp] theorem State.mctpEvent_ringHeld (sensor reading : Nat) : (s.mctpEvent sensor reading).ringHeld = s.ringHeld := rfl
@[simp] theorem State.mctpEvent_camReqs (sensor reading : Nat) : (s.mctpEvent sensor reading).camReqs = s.camReqs := rfl
@[simp] theorem State.mctpEvent_gws (sensor reading : Nat) : (s.mctpEvent sensor reading).gws = s.gws := rfl
@[simp] theorem State.mctpEvent_qps (sensor reading : Nat) : (s.mctpEvent sensor reading).qps = s.qps := rfl
@[simp] theorem State.mctpEvent_qpKeys (sensor reading : Nat) : (s.mctpEvent sensor reading).qpKeys = s.qpKeys := rfl
@[simp] theorem State.mctpEvent_shOut (sensor reading : Nat) : (s.mctpEvent sensor reading).shOut = s.shOut := rfl
@[simp] theorem State.mctpEvent_pfcUntil (sensor reading : Nat) : (s.mctpEvent sensor reading).pfcUntil = s.pfcUntil := rfl
@[simp] theorem State.mctpEvent_atsCache (sensor reading : Nat) : (s.mctpEvent sensor reading).atsCache = s.atsCache := rfl
@[simp] theorem State.mctpEvent_orphanPend (sensor reading : Nat) : (s.mctpEvent sensor reading).orphanPend = s.orphanPend := rfl
@[simp] theorem State.mctpEvent_linkIn (sensor reading : Nat) : (s.mctpEvent sensor reading).linkIn = s.linkIn := rfl
@[simp] theorem State.mctpEvent_hdm (sensor reading : Nat) : (s.mctpEvent sensor reading).hdm = s.hdm := rfl
@[simp] theorem State.mctpEvent_evLost (sensor reading : Nat) : (s.mctpEvent sensor reading).evLost = s.evLost := rfl
@[simp] theorem State.mctpEvent_evPolicy (sensor reading : Nat) : (s.mctpEvent sensor reading).evPolicy = s.evPolicy := rfl
@[simp] theorem State.mctpEvent_flash (sensor reading : Nat) : (s.mctpEvent sensor reading).flash = s.flash := rfl
@[simp] theorem State.mctpEvent_units (sensor reading : Nat) : (s.mctpEvent sensor reading).units = s.units := rfl
@[simp] theorem State.mctpEvent_streams (sensor reading : Nat) : (s.mctpEvent sensor reading).streams = s.streams := rfl
@[simp] theorem State.mctpEvent_eraseLists (sensor reading : Nat) : (s.mctpEvent sensor reading).eraseLists = s.eraseLists := rfl
@[simp] theorem State.mctpEvent_victims (sensor reading : Nat) : (s.mctpEvent sensor reading).victims = s.victims := rfl
@[simp] theorem State.mctpEvent_journalUnit (sensor reading : Nat) : (s.mctpEvent sensor reading).journalUnit = s.journalUnit := rfl
@[simp] theorem State.mctpEvent_slcTarget (sensor reading : Nat) : (s.mctpEvent sensor reading).slcTarget = s.slcTarget := rfl
@[simp] theorem State.mctpEvent_checkpointAt (sensor reading : Nat) : (s.mctpEvent sensor reading).checkpointAt = s.checkpointAt := rfl
@[simp] theorem State.mctpEvent_copiedCw (sensor reading : Nat) : (s.mctpEvent sensor reading).copiedCw = s.copiedCw := rfl
@[simp] theorem State.mctpEvent_saved (sensor reading : Nat) : (s.mctpEvent sensor reading).saved = s.saved := rfl
@[simp] theorem State.mctpEvent_tdis (sensor reading : Nat) : (s.mctpEvent sensor reading).tdis = s.tdis := rfl
@[simp] theorem State.mctpEvent_sessions (sensor reading : Nat) : (s.mctpEvent sensor reading).sessions = s.sessions := rfl
@[simp] theorem State.mctpEvent_signed (sensor reading : Nat) : (s.mctpEvent sensor reading).signed = s.signed := rfl
@[simp] theorem State.mctpEvent_ideKeys (sensor reading : Nat) : (s.mctpEvent sensor reading).ideKeys = s.ideKeys := rfl
@[simp] theorem State.mctpEvent_dataKeys (sensor reading : Nat) : (s.mctpEvent sensor reading).dataKeys = s.dataKeys := rfl
@[simp] theorem State.mctpEvent_sealReq (sensor reading : Nat) : (s.mctpEvent sensor reading).sealReq = s.sealReq := rfl
@[simp] theorem State.mctpEvent_memKey (sensor reading : Nat) : (s.mctpEvent sensor reading).memKey = s.memKey := rfl
@[simp] theorem State.mctpEvent_serial (sensor reading : Nat) : (s.mctpEvent sensor reading).serial = s.serial := rfl
@[simp] theorem State.mctpEvent_serialTop (sensor reading : Nat) : (s.mctpEvent sensor reading).serialTop = s.serialTop := rfl
@[simp] theorem State.mctpEvent_keyRows (sensor reading : Nat) : (s.mctpEvent sensor reading).keyRows = s.keyRows := rfl
@[simp] theorem State.mctpEvent_nonce (sensor reading : Nat) : (s.mctpEvent sensor reading).nonce = s.nonce := rfl
@[simp] theorem State.mctpEvent_deviceCerts (sensor reading : Nat) : (s.mctpEvent sensor reading).deviceCerts = s.deviceCerts := rfl
@[simp] theorem State.mctpEvent_ownerCerts (sensor reading : Nat) : (s.mctpEvent sensor reading).ownerCerts = s.ownerCerts := rfl
@[simp] theorem State.mctpEvent_lcTarget (sensor reading : Nat) : (s.mctpEvent sensor reading).lcTarget = s.lcTarget := rfl
@[simp] theorem State.mctpEvent_slotA (sensor reading : Nat) : (s.mctpEvent sensor reading).slotA = s.slotA := rfl
@[simp] theorem State.mctpEvent_slotB (sensor reading : Nat) : (s.mctpEvent sensor reading).slotB = s.slotB := rfl
@[simp] theorem State.mctpEvent_fwRun (sensor reading : Nat) : (s.mctpEvent sensor reading).fwRun = s.fwRun := rfl
@[simp] theorem State.mctpEvent_measured (sensor reading : Nat) : (s.mctpEvent sensor reading).measured = s.measured := rfl
@[simp] theorem State.mctpEvent_fwWriter (sensor reading : Nat) : (s.mctpEvent sensor reading).fwWriter = s.fwWriter := rfl
@[simp] theorem State.mctpEvent_calib (sensor reading : Nat) : (s.mctpEvent sensor reading).calib = s.calib := rfl
@[simp] theorem State.mctpEvent_heldActs (sensor reading : Nat) : (s.mctpEvent sensor reading).heldActs = s.heldActs := rfl
@[simp] theorem State.mctpEvent_tenantResets (sensor reading : Nat) : (s.mctpEvent sensor reading).tenantResets = s.tenantResets := rfl
@[simp] theorem State.mctpEvent_capDown (sensor reading : Nat) : (s.mctpEvent sensor reading).capDown = s.capDown := rfl
@[simp] theorem State.mctpEvent_ecoDown (sensor reading : Nat) : (s.mctpEvent sensor reading).ecoDown = s.ecoDown := rfl
@[simp] theorem State.mctpEvent_avsMiss (sensor reading : Nat) : (s.mctpEvent sensor reading).avsMiss = s.avsMiss := rfl
@[simp] theorem State.mctpEvent_lastSlow (sensor reading : Nat) : (s.mctpEvent sensor reading).lastSlow = s.lastSlow := rfl
@[simp] theorem State.mctpEvent_keyRepl (sensor reading : Nat) : (s.mctpEvent sensor reading).keyRepl = s.keyRepl := rfl
@[simp] theorem State.mctpEvent_replaceN (sensor reading : Nat) : (s.mctpEvent sensor reading).replaceN = s.replaceN := rfl
@[simp] theorem State.mctpEvent_power (sensor reading : Nat) : (s.mctpEvent sensor reading).power = s.power := rfl
@[simp] theorem State.mctpEvent_jtag (sensor reading : Nat) : (s.mctpEvent sensor reading).jtag = s.jtag := rfl

/-! ### Registers -/

theorem RegKind.ctorIdx_lt (k : RegKind) : k.ctorIdx < 256 := by cases k <;> decide

theorem RegKind.ctorIdx_inj {k j : RegKind} (h : k.ctorIdx = j.ctorIdx) : k = j := by
  rw [← RegKind.ofNat_ctorIdx k, h, RegKind.ofNat_ctorIdx]

/-- No two registers share a place in the register file. -/
theorem regKey_inj {k j : RegKind} {i n : Nat} : regKey k i = regKey j n ↔ k = j ∧ i = n := by
  have hk := k.ctorIdx_lt
  have hj := j.ctorIdx_lt
  unfold regKey
  constructor
  · intro h
    exact ⟨RegKind.ctorIdx_inj (by omega), by omega⟩
  · rintro ⟨rfl, rfl⟩; rfl

/-- What a register reads after one is put. -/
@[simp] theorem State.reg_setReg (k j : RegKind) (i n : Nat) (w : Word) :
    (s.setReg k i w).reg j n = if k = j ∧ i = n then w else s.reg j n := by
  unfold State.reg State.setReg
  simp only [mapFind_mapIns, regKey_inj]
  split <;> rfl

/-- What a register reads after one is taken back to its reset word. -/
@[simp] theorem State.reg_resetReg (k j : RegKind) (i n : Nat) :
    (s.resetReg k i).reg j n = if k = j ∧ i = n then k.resetWord i else s.reg j n := by
  unfold State.reg State.resetReg
  simp only [mapFind_mapDel, regKey_inj]
  split
  · rename_i h; obtain ⟨rfl, rfl⟩ := h; rfl
  · rfl

/-- What a register reads after a field is set. -/
@[simp] theorem State.reg_setFld (f : Field) (v i n : Nat) (j : RegKind) :
    (s.setFld f v i).reg j n = if f.reg = j ∧ i = n then setBits (s.reg f.reg i) f.hi f.lo v else s.reg j n :=
  State.reg_setReg s f.reg j i n _

/-- A field reads what was set, cut to its width. -/
theorem State.fld_setFld_same (f : Field) (v i : Nat) (h : f.lo ≤ f.hi) (h64 : f.hi < 64) :
    (s.setFld f v i).fld f i = v % 2 ^ (f.hi + 1 - f.lo) := by
  unfold State.fld
  rw [State.reg_setFld, if_pos ⟨rfl, rfl⟩]
  exact bitsOf_setBits_same _ v h h64

/-- A field of another register, or of another copy, keeps its value. -/
theorem State.fld_setFld_ne (f g : Field) (v i n : Nat) (h : ¬(f.reg = g.reg ∧ i = n)) : (s.setFld f v i).fld g n = s.fld g n := by
  unfold State.fld
  rw [State.reg_setFld, if_neg h]

/-- A field of the same register that lies apart keeps its value. -/
theorem State.fld_setFld_apart (f g : Field) (v i n : Nat) (h : f.lo ≤ f.hi) (h64 : f.hi < 64) (hg : g.lo ≤ g.hi) (ha : f.hi < g.lo ∨ g.hi < f.lo) :
    (s.setFld f v i).fld g n = s.fld g n := by
  unfold State.fld
  rw [State.reg_setFld]
  split
  · rename_i he
    obtain ⟨h1, rfl⟩ := he
    rw [h1]
    rcases ha with ha | ha
    · exact bitsOf_setBits_above _ v h h64 ha
    · exact bitsOf_setBits_below _ v h h64 ha hg
  · rfl

@[simp] theorem State.emit_reg (o : Output) (k : RegKind) (i : Nat) : (s.emit o).reg k i = s.reg k i := rfl
@[simp] theorem State.drawn_reg (k : RegKind) (i : Nat) : s.drawn.reg k i = s.reg k i := rfl
@[simp] theorem State.at_reg (now : Nat) (k : RegKind) (i : Nat) : (s.at_ now).reg k i = s.reg k i := rfl
@[simp] theorem State.mctpEvent_reg (a b : Nat) (k : RegKind) (i : Nat) : (s.mctpEvent a b).reg k i = s.reg k i := rfl

@[simp] theorem State.emit_out (o : Output) : (s.emit o).out = s.out ++ [o] := rfl
@[simp] theorem State.drawn_freeCtr : s.drawn.freeCtr = s.freeCtr + 1 := rfl
@[simp] theorem State.at_dtime (now : Nat) : (s.at_ now).dtime = max s.dtime now := rfl
@[simp] theorem State.mctpEvent_mctp (a b : Nat) : (s.mctpEvent a b).mctp = s.mctp ++ [(a, b)] := rfl

/-- Registers are read from the register file alone. -/
theorem State.reg_congr {s t : State} (h : s.regs = t.regs) (k : RegKind) (i : Nat) : s.reg k i = t.reg k i := by
  unfold State.reg; rw [h]

/-- Fields are read from the register file alone. -/
theorem State.fld_congr {s t : State} (h : s.regs = t.regs) (f : Field) (i : Nat) : s.fld f i = t.fld f i := by
  unfold State.fld; rw [State.reg_congr h]

/-- At reset every register reads its reset word. -/
@[simp] theorem State.reset_reg (k : RegKind) (i : Nat) : State.reset.reg k i = k.resetWord i := rfl

end Sys2Proof.Machine
end

