-- ==== Sys2Proof/Laws/Frame.lean ====
section
/-!
SUPPORT. Frames: which pieces of the state an operation may have changed, as a mask with one bit for each piece (`Part.idx`), how frames compose, and what a frame says of a claim's list of pieces.
-/

set_option Elab.async false
namespace Sys2Proof.Machine

/-- Where a piece stands in a mask: a field by its place among the pieces, a register 128 further on. -/
def Part.idx : Part → Nat
  | .reg k => 128 + k.ctorIdx
  | p => p.ctorIdx

/-- The mask of a list of pieces. -/
def partMask (l : List Part) : Nat := l.foldr (fun p m => 2 ^ p.idx ||| m) 0

/-- Every piece of the state outside the mask is unchanged, and the state keeps its form. -/
structure Keeps (w : Nat) (s t : State) : Prop where
  same : ∀ p : Part, w.testBit p.idx = false → p.same s t
  inv : Invariant s → Invariant t

theorem Part.same_rfl (p : Part) (s : State) : p.same s s := by cases p <;> first | rfl | exact fun _ => rfl

theorem Part.same_trans (p : Part) {s t u : State} (h : p.same s t) (g : p.same t u) : p.same s u := by
  cases p <;> first | exact Eq.trans g h | exact fun i => (g i).trans (h i)

/-- The piece at each place of a mask. -/
def Part.ofIdx (n : Nat) : Part :=
  if 128 ≤ n then .reg (RegKind.ofNat (n - 128)) else [
    .pending, .dtime, .freeCtr, .out, .fuses, .log, .events, .mctp, .geoGen, .geoUpd, .uaLogAt, .denyLogAt, .capRecs, .capSnaps, .capFail, .capFatal,
    .stewards, .reconTimes, .reconLog, .preTest, .rebuildAt, .rebuildWarned, .staging, .pattern, .bootA, .bootB, .load, .bg, .cores, .geom, .buckets,
    .wheels, .devLevels, .spools, .comps, .rotor, .inflight, .nextUid, .chunks, .seqs, .pins, .nsKeys, .frames, .epochs, .images, .cacheSf, .metaSf,
    .parity, .dropPaused, .outRem, .rowN, .gens, .viewCache, .histPages, .viewSlots, .viewWaits, .pbase, .syncAt, .plainMem, .poisonLines,
    .orphanLines, .orphanLog, .extents, .released, .snoopFilter, .snoops, .lineQ, .lostHosts, .unbackedLogAt, .curLog, .rlinks, .ringOut, .rctx,
    .ringHeld, .camReqs, .gws, .qps, .qpKeys, .shOut, .pfcUntil, .atsCache, .orphanPend, .linkIn, .hdm, .evLost, .evPolicy, .flash, .units, .streams,
    .eraseLists, .victims, .journalUnit, .slcTarget, .checkpointAt, .copiedCw, .saved, .tdis, .sessions, .signed, .ideKeys, .dataKeys, .sealReq,
    .memKey, .serial, .serialTop, .keyRows, .nonce, .deviceCerts, .ownerCerts, .lcTarget, .slotA, .slotB, .fwRun, .measured, .fwWriter, .calib,
    .heldActs, .tenantResets, .capDown, .ecoDown, .avsMiss, .lastSlow, .keyRepl, .replaceN, .power, .jtag].getD n .pending

theorem Part.ofIdx_idx (p : Part) : Part.ofIdx p.idx = p := by
  cases p with
  | reg k => simp [Part.ofIdx, Part.idx, RegKind.ofNat_ctorIdx]
  | _ => rfl

theorem Part.idx_inj {p q : Part} (h : p.idx = q.idx) : p = q := by rw [← p.ofIdx_idx, h, q.ofIdx_idx]

theorem testBit_mask_false {w v i : Nat} (hw : w ||| v = v) (hv : v.testBit i = false) : w.testBit i = false := by
  have h : (w ||| v).testBit i = false := by rw [hw, hv]
  simp only [Nat.testBit_or, Bool.or_eq_false_iff] at h
  exact h.1

namespace Keeps

theorem refl (w : Nat) (s : State) : Keeps w s s := ⟨fun p _ => p.same_rfl s, id⟩

/-- A frame within a larger mask. -/
theorem mono {w v : Nat} {s t : State} (h : Keeps w s t) (hw : w ||| v = v := by decide) : Keeps v s t :=
  ⟨fun p hp => h.same p (testBit_mask_false hw hp), h.inv⟩

/-- One operation after another. -/
theorem step {w v : Nat} {s t u : State} (hs : Keeps v s t) (h : Keeps w t u) (hw : w ||| v = v := by decide) : Keeps v s u :=
  ⟨fun p hp => p.same_trans (hs.same p hp) (h.same p (testBit_mask_false hw hp)), h.inv ∘ hs.inv⟩

theorem trans {v : Nat} {s t u : State} (hs : Keeps v s t) (h : Keeps v t u) : Keeps v s u := hs.step h (Nat.or_self v)

/-- An operation repeated along a list. -/
theorem foldl {α : Type} {v : Nat} {s t : State} {f : State → α → State} {l : List α} (hs : Keeps v s t)
    (hf : ∀ u a, Keeps v u (f u a)) : Keeps v s (l.foldl f t) := by
  induction l generalizing t with
  | nil => exact hs
  | cons a l ih => exact ih (hs.trans (hf t a))

/-- The same from the last element to the first. -/
theorem foldr {α : Type} {v : Nat} {s t : State} {f : α → State → State} {l : List α} (hs : Keeps v s t)
    (hf : ∀ a u, Keeps v u (f a u)) : Keeps v s (l.foldr f t) := by
  induction l with
  | nil => exact hs
  | cons a l ih => exact ih.trans (hf a _)

/-- The same where the operation also carries a value. -/
theorem foldlFst {α β : Type} {v : Nat} {s : State} {f : State × β → α → State × β} {l : List α} {t : State × β} (hs : Keeps v s t.1)
    (hf : ∀ u a, Keeps v u.1 (f u a).1) : Keeps v s (l.foldl f t).1 := by
  induction l generalizing t with
  | nil => exact hs
  | cons a l ih => exact ih (hs.trans (hf t a))

theorem ite {c : Prop} [Decidable c] {v : Nat} {s t u : State} (ht : c → Keeps v s t) (hu : ¬c → Keeps v s u) :
    Keeps v s (if c then t else u) := by split <;> simp_all

theorem have_ {v : Nat} {s t u : State} (h : Keeps v s t) (k : Keeps v s t → Keeps v s u) : Keeps v s u := k h

theorem fst_eq {β : Type} {v : Nat} {s t : State} {p : State × β} {x : β} (h : Keeps v s p.1) (e : p = (t, x)) : Keeps v s t := by
  subst e; exact h

/-- The state that an operation may answer, if it answers one, differs only within the mask. -/
structure Opt (w : Nat) (s : State) (o : Option State) : Prop where
  keeps : ∀ t, o = Option.some t → Keeps w s t

theorem Opt.none {w : Nat} {s : State} : Opt w s Option.none := ⟨fun _ h => nomatch h⟩

theorem Opt.some {w : Nat} {s t : State} (h : Keeps w s t) : Opt w s (Option.some t) := ⟨fun _ e => Option.some.inj e ▸ h⟩

theorem Opt.elim {w : Nat} {s t : State} {o : Option State} (h : Opt w s o) (e : o = Option.some t) : Keeps w s t := h.keeps t e

theorem Opt.after {w v : Nat} {s t : State} {o : Option State} (hs : Keeps v s t) (h : Opt w t o) (hw : w ||| v = v := by decide) : Opt v s o :=
  ⟨fun u e => hs.step (h.keeps u e) hw⟩

theorem Opt.have_ {v : Nat} {s t : State} {o : Option State} (h : Keeps v s t) (k : Keeps v s t → Opt v s o) : Opt v s o := k h

theorem Opt.bind {α : Type} {w : Nat} {s : State} {o : Option α} {f : α → Option State} (h : ∀ x, Opt w s (f x)) : Opt w s (o.bind f) := by
  cases o with
  | none => exact .none
  | some x => exact h x

/-- An answer worked on further. -/
theorem Opt.map {α β : Type} {w : Nat} {s : State} {o : Option α} {f : α → β} {k : β → State}
    (h : ∀ x, o = Option.some x → Keeps w s (k (f x))) : Opt w s ((o.map f).map k) := ⟨fun t e => by
  cases o with
  | none => exact nomatch e
  | some x => exact Option.some.inj e ▸ h x rfl⟩

/-- What a mask within a claim's list says. -/
theorem changesOnly {w : Nat} {l : List Part} {s t : State} (h : Keeps w s t) (hw : w ||| partMask l = partMask l := by decide) : ChangesOnly l s t := by
  intro p hp
  apply h.same p (testBit_mask_false hw _)
  clear hw h
  induction l with
  | nil => simp [partMask]
  | cons q l ih =>
    simp only [List.mem_cons, not_or] at hp
    have hq : q.idx ≠ p.idx := fun e => hp.1 (Part.idx_inj e).symm
    have ihl := ih hp.2
    simp only [partMask, List.foldr_cons, Nat.testBit_or, Bool.or_eq_false_iff]
    exact ⟨Nat.testBit_two_pow_of_ne hq, ihl⟩

end Keeps

end Sys2Proof.Machine
end

