-- ==== Sys2Proof/Laws/Updates.lean ====
section
/-!
SUPPORT. The frame of each kind of record update that the model makes: the fields set, and nothing else.
-/

set_option Elab.async false
namespace Sys2Proof.Machine

variable (s : State)

theorem upd_pending (x : List Instr) : Keeps 1 s { s with pending := x } := ⟨fun p h => by
  cases p <;> first | rfl | exact fun _ => rfl | exact absurd h (by decide), fun i => { i with }⟩

theorem upd_dtime (x : Nat) : Keeps 2 s { s with dtime := x } := ⟨fun p h => by
  cases p <;> first | rfl | exact fun _ => rfl | exact absurd h (by decide), fun i => { i with }⟩

theorem upd_freeCtr (x : Nat) : Keeps 4 s { s with freeCtr := x } := ⟨fun p h => by
  cases p <;> first | rfl | exact fun _ => rfl | exact absurd h (by decide), fun i => { i with }⟩

theorem upd_out (x : List Output) : Keeps 8 s { s with out := x } := ⟨fun p h => by
  cases p <;> first | rfl | exact fun _ => rfl | exact absurd h (by decide), fun i => { i with }⟩

theorem upd_log (x : List LogRec) (hx : Invariant s → x.length ≤ 8192) : Keeps 32 s { s with log := x } := ⟨fun p h => by
  cases p <;> first | rfl | exact fun _ => rfl | exact absurd h (by decide), fun i => { i with log := hx i }⟩

theorem upd_events (x : NMap (List EventRec)) (hx : Invariant s → ∀ fn log, (({ s with events := x } : State).eventLog fn log).length ≤ 1024) : Keeps 64 s { s with events := x } := ⟨fun p h => by
  cases p <;> first | rfl | exact fun _ => rfl | exact absurd h (by decide), fun i => { i with events := hx i }⟩

theorem upd_mctp (x : List (Nat × Nat)) : Keeps 128 s { s with mctp := x } := ⟨fun p h => by
  cases p <;> first | rfl | exact fun _ => rfl | exact absurd h (by decide), fun i => { i with }⟩

theorem upd_geoGen (x : Nat) : Keeps 256 s { s with geoGen := x } := ⟨fun p h => by
  cases p <;> first | rfl | exact fun _ => rfl | exact absurd h (by decide), fun i => { i with }⟩

theorem upd_geoUpd (x : Bool) : Keeps 512 s { s with geoUpd := x } := ⟨fun p h => by
  cases p <;> first | rfl | exact fun _ => rfl | exact absurd h (by decide), fun i => { i with }⟩

theorem upd_uaLogAt (x : Option Nat) : Keeps 1024 s { s with uaLogAt := x } := ⟨fun p h => by
  cases p <;> first | rfl | exact fun _ => rfl | exact absurd h (by decide), fun i => { i with }⟩

theorem upd_denyLogAt (x : Option Nat) : Keeps 2048 s { s with denyLogAt := x } := ⟨fun p h => by
  cases p <;> first | rfl | exact fun _ => rfl | exact absurd h (by decide), fun i => { i with }⟩

theorem upd_capRecs (x : List CapRec) (hx : Invariant s → x.length ≤ 4096) : Keeps 4096 s { s with capRecs := x } := ⟨fun p h => by
  cases p <;> first | rfl | exact fun _ => rfl | exact absurd h (by decide), fun i => { i with records := hx i }⟩

theorem upd_capSnaps (x : List CapSnap) (hx : Invariant s → x.length ≤ 64) : Keeps 8192 s { s with capSnaps := x } := ⟨fun p h => by
  cases p <;> first | rfl | exact fun _ => rfl | exact absurd h (by decide), fun i => { i with snapshots := hx i }⟩

theorem upd_capFail (x : Nat) : Keeps 16384 s { s with capFail := x } := ⟨fun p h => by
  cases p <;> first | rfl | exact fun _ => rfl | exact absurd h (by decide), fun i => { i with }⟩

theorem upd_capFatal (x : Nat) : Keeps 32768 s { s with capFatal := x } := ⟨fun p h => by
  cases p <;> first | rfl | exact fun _ => rfl | exact absurd h (by decide), fun i => { i with }⟩

theorem upd_stewards (x : NMap Steward) : Keeps 65536 s { s with stewards := x } := ⟨fun p h => by
  cases p <;> first | rfl | exact fun _ => rfl | exact absurd h (by decide), fun i => { i with }⟩

theorem upd_reconTimes (x : NMap (List Nat)) : Keeps 131072 s { s with reconTimes := x } := ⟨fun p h => by
  cases p <;> first | rfl | exact fun _ => rfl | exact absurd h (by decide), fun i => { i with }⟩

theorem upd_reconLog (x : NMap Nat) : Keeps 262144 s { s with reconLog := x } := ⟨fun p h => by
  cases p <;> first | rfl | exact fun _ => rfl | exact absurd h (by decide), fun i => { i with }⟩

theorem upd_preTest (x : Nat) : Keeps 524288 s { s with preTest := x } := ⟨fun p h => by
  cases p <;> first | rfl | exact fun _ => rfl | exact absurd h (by decide), fun i => { i with }⟩

theorem upd_rebuildAt (x : Nat) : Keeps 1048576 s { s with rebuildAt := x } := ⟨fun p h => by
  cases p <;> first | rfl | exact fun _ => rfl | exact absurd h (by decide), fun i => { i with }⟩

theorem upd_rebuildWarned (x : Bool) : Keeps 2097152 s { s with rebuildWarned := x } := ⟨fun p h => by
  cases p <;> first | rfl | exact fun _ => rfl | exact absurd h (by decide), fun i => { i with }⟩

theorem upd_staging (x : Staging) : Keeps 4194304 s { s with staging := x } := ⟨fun p h => by
  cases p <;> first | rfl | exact fun _ => rfl | exact absurd h (by decide), fun i => { i with }⟩

theorem upd_pattern (x : Option Pattern) : Keeps 8388608 s { s with pattern := x } := ⟨fun p h => by
  cases p <;> first | rfl | exact fun _ => rfl | exact absurd h (by decide), fun i => { i with }⟩

theorem upd_bootA (x : Option Pattern) : Keeps 16777216 s { s with bootA := x } := ⟨fun p h => by
  cases p <;> first | rfl | exact fun _ => rfl | exact absurd h (by decide), fun i => { i with }⟩

theorem upd_bootB (x : Option Pattern) : Keeps 33554432 s { s with bootB := x } := ⟨fun p h => by
  cases p <;> first | rfl | exact fun _ => rfl | exact absurd h (by decide), fun i => { i with }⟩

theorem upd_load (x : Option LoadRun) : Keeps 67108864 s { s with load := x } := ⟨fun p h => by
  cases p <;> first | rfl | exact fun _ => rfl | exact absurd h (by decide), fun i => { i with }⟩

theorem upd_bg (x : Background) : Keeps 134217728 s { s with bg := x } := ⟨fun p h => by
  cases p <;> first | rfl | exact fun _ => rfl | exact absurd h (by decide), fun i => { i with }⟩

theorem upd_cores (x : List CoreRec) : Keeps 268435456 s { s with cores := x } := ⟨fun p h => by
  cases p <;> first | rfl | exact fun _ => rfl | exact absurd h (by decide), fun i => { i with }⟩

theorem upd_geom (x : NMap Word) : Keeps 536870912 s { s with geom := x } := ⟨fun p h => by
  cases p <;> first | rfl | exact fun _ => rfl | exact absurd h (by decide), fun i => { i with }⟩

theorem upd_buckets (x : NMap Bucket) : Keeps 1073741824 s { s with buckets := x } := ⟨fun p h => by
  cases p <;> first | rfl | exact fun _ => rfl | exact absurd h (by decide), fun i => { i with }⟩

theorem upd_wheels (x : NMap WheelState) : Keeps 2147483648 s { s with wheels := x } := ⟨fun p h => by
  cases p <;> first | rfl | exact fun _ => rfl | exact absurd h (by decide), fun i => { i with }⟩

theorem upd_devLevels (x : List Nat) : Keeps 4294967296 s { s with devLevels := x } := ⟨fun p h => by
  cases p <;> first | rfl | exact fun _ => rfl | exact absurd h (by decide), fun i => { i with }⟩

theorem upd_spools (x : NMap Spool) : Keeps 8589934592 s { s with spools := x } := ⟨fun p h => by
  cases p <;> first | rfl | exact fun _ => rfl | exact absurd h (by decide), fun i => { i with }⟩

theorem upd_comps (x : NMap CompSpool) : Keeps 17179869184 s { s with comps := x } := ⟨fun p h => by
  cases p <;> first | rfl | exact fun _ => rfl | exact absurd h (by decide), fun i => { i with }⟩

theorem upd_rotor (x : Nat) : Keeps 34359738368 s { s with rotor := x } := ⟨fun p h => by
  cases p <;> first | rfl | exact fun _ => rfl | exact absurd h (by decide), fun i => { i with }⟩

theorem upd_inflight (x : List Cmd) : Keeps 68719476736 s { s with inflight := x } := ⟨fun p h => by
  cases p <;> first | rfl | exact fun _ => rfl | exact absurd h (by decide), fun i => { i with }⟩

theorem upd_nextUid (x : Nat) : Keeps 137438953472 s { s with nextUid := x } := ⟨fun p h => by
  cases p <;> first | rfl | exact fun _ => rfl | exact absurd h (by decide), fun i => { i with }⟩

theorem upd_chunks (x : NMap Chunk) : Keeps 274877906944 s { s with chunks := x } := ⟨fun p h => by
  cases p <;> first | rfl | exact fun _ => rfl | exact absurd h (by decide), fun i => { i with }⟩

theorem upd_seqs (x : NMap Seq) : Keeps 549755813888 s { s with seqs := x } := ⟨fun p h => by
  cases p <;> first | rfl | exact fun _ => rfl | exact absurd h (by decide), fun i => { i with }⟩

theorem upd_pins (x : NMap PinRec) : Keeps 1099511627776 s { s with pins := x } := ⟨fun p h => by
  cases p <;> first | rfl | exact fun _ => rfl | exact absurd h (by decide), fun i => { i with }⟩

theorem upd_nsKeys (x : NMap Wide) : Keeps 2199023255552 s { s with nsKeys := x } := ⟨fun p h => by
  cases p <;> first | rfl | exact fun _ => rfl | exact absurd h (by decide), fun i => { i with }⟩

theorem upd_frames (x : NMap Frame) : Keeps 4398046511104 s { s with frames := x } := ⟨fun p h => by
  cases p <;> first | rfl | exact fun _ => rfl | exact absurd h (by decide), fun i => { i with }⟩

theorem upd_epochs (x : NMap Nat) : Keeps 8796093022208 s { s with epochs := x } := ⟨fun p h => by
  cases p <;> first | rfl | exact fun _ => rfl | exact absurd h (by decide), fun i => { i with }⟩

theorem upd_images (x : NMap FlashImage) : Keeps 17592186044416 s { s with images := x } := ⟨fun p h => by
  cases p <;> first | rfl | exact fun _ => rfl | exact absurd h (by decide), fun i => { i with }⟩

theorem upd_cacheSf (x : Nat) : Keeps 35184372088832 s { s with cacheSf := x } := ⟨fun p h => by
  cases p <;> first | rfl | exact fun _ => rfl | exact absurd h (by decide), fun i => { i with }⟩

theorem upd_metaSf (x : Nat) : Keeps 70368744177664 s { s with metaSf := x } := ⟨fun p h => by
  cases p <;> first | rfl | exact fun _ => rfl | exact absurd h (by decide), fun i => { i with }⟩

theorem upd_parity (x : NMap (List Byte)) : Keeps 140737488355328 s { s with parity := x } := ⟨fun p h => by
  cases p <;> first | rfl | exact fun _ => rfl | exact absurd h (by decide), fun i => { i with }⟩

theorem upd_dropPaused (x : Bool) : Keeps 281474976710656 s { s with dropPaused := x } := ⟨fun p h => by
  cases p <;> first | rfl | exact fun _ => rfl | exact absurd h (by decide), fun i => { i with }⟩

theorem upd_outRem (x : Nat) : Keeps 562949953421312 s { s with outRem := x } := ⟨fun p h => by
  cases p <;> first | rfl | exact fun _ => rfl | exact absurd h (by decide), fun i => { i with }⟩

theorem upd_rowN (x : Nat) : Keeps 1125899906842624 s { s with rowN := x } := ⟨fun p h => by
  cases p <;> first | rfl | exact fun _ => rfl | exact absurd h (by decide), fun i => { i with }⟩

theorem upd_gens (x : NMap (List Gen)) : Keeps 2251799813685248 s { s with gens := x } := ⟨fun p h => by
  cases p <;> first | rfl | exact fun _ => rfl | exact absurd h (by decide), fun i => { i with }⟩

theorem upd_viewCache (x : List ViewLine) : Keeps 4503599627370496 s { s with viewCache := x } := ⟨fun p h => by
  cases p <;> first | rfl | exact fun _ => rfl | exact absurd h (by decide), fun i => { i with }⟩

theorem upd_histPages (x : Nat) : Keeps 9007199254740992 s { s with histPages := x } := ⟨fun p h => by
  cases p <;> first | rfl | exact fun _ => rfl | exact absurd h (by decide), fun i => { i with }⟩

theorem upd_viewSlots (x : NMap Word) : Keeps 18014398509481984 s { s with viewSlots := x } := ⟨fun p h => by
  cases p <;> first | rfl | exact fun _ => rfl | exact absurd h (by decide), fun i => { i with }⟩

theorem upd_viewWaits (x : List ViewWait) : Keeps 36028797018963968 s { s with viewWaits := x } := ⟨fun p h => by
  cases p <;> first | rfl | exact fun _ => rfl | exact absurd h (by decide), fun i => { i with }⟩

theorem upd_pbase (x : NMap Nat) : Keeps 72057594037927936 s { s with pbase := x } := ⟨fun p h => by
  cases p <;> first | rfl | exact fun _ => rfl | exact absurd h (by decide), fun i => { i with }⟩

theorem upd_syncAt (x : Nat) : Keeps 144115188075855872 s { s with syncAt := x } := ⟨fun p h => by
  cases p <;> first | rfl | exact fun _ => rfl | exact absurd h (by decide), fun i => { i with }⟩

theorem upd_plainMem (x : Memory) (hx : Invariant s → x.wf = true) : Keeps 288230376151711744 s { s with plainMem := x } := ⟨fun p h => by
  cases p <;> first | rfl | exact fun _ => rfl | exact absurd h (by decide), fun i => { i with plain := hx i }⟩

theorem upd_poisonLines (x : NMap Unit) : Keeps 576460752303423488 s { s with poisonLines := x } := ⟨fun p h => by
  cases p <;> first | rfl | exact fun _ => rfl | exact absurd h (by decide), fun i => { i with }⟩

theorem upd_orphanLines (x : NMap Unit) : Keeps 1152921504606846976 s { s with orphanLines := x } := ⟨fun p h => by
  cases p <;> first | rfl | exact fun _ => rfl | exact absurd h (by decide), fun i => { i with }⟩

theorem upd_orphanLog (x : List OrphanRec) (hx : Invariant s → x.length ≤ 65536) : Keeps 2305843009213693952 s { s with orphanLog := x } := ⟨fun p h => by
  cases p <;> first | rfl | exact fun _ => rfl | exact absurd h (by decide), fun i => { i with orphans := hx i }⟩

theorem upd_extents (x : NMap Extent) : Keeps 4611686018427387904 s { s with extents := x } := ⟨fun p h => by
  cases p <;> first | rfl | exact fun _ => rfl | exact absurd h (by decide), fun i => { i with }⟩

theorem upd_released (x : NMap Unit) : Keeps 9223372036854775808 s { s with released := x } := ⟨fun p h => by
  cases p <;> first | rfl | exact fun _ => rfl | exact absurd h (by decide), fun i => { i with }⟩

theorem upd_snoopFilter (x : List SfLine) : Keeps 18446744073709551616 s { s with snoopFilter := x } := ⟨fun p h => by
  cases p <;> first | rfl | exact fun _ => rfl | exact absurd h (by decide), fun i => { i with }⟩

theorem upd_snoops (x : List Snoop) : Keeps 36893488147419103232 s { s with snoops := x } := ⟨fun p h => by
  cases p <;> first | rfl | exact fun _ => rfl | exact absurd h (by decide), fun i => { i with }⟩

theorem upd_lineQ (x : List LineReq) : Keeps 73786976294838206464 s { s with lineQ := x } := ⟨fun p h => by
  cases p <;> first | rfl | exact fun _ => rfl | exact absurd h (by decide), fun i => { i with }⟩

theorem upd_lostHosts (x : List Nat) : Keeps 147573952589676412928 s { s with lostHosts := x } := ⟨fun p h => by
  cases p <;> first | rfl | exact fun _ => rfl | exact absurd h (by decide), fun i => { i with }⟩

theorem upd_unbackedLogAt (x : Option Nat) : Keeps 295147905179352825856 s { s with unbackedLogAt := x } := ⟨fun p h => by
  cases p <;> first | rfl | exact fun _ => rfl | exact absurd h (by decide), fun i => { i with }⟩

theorem upd_curLog (x : NMap (List Nat)) : Keeps 590295810358705651712 s { s with curLog := x } := ⟨fun p h => by
  cases p <;> first | rfl | exact fun _ => rfl | exact absurd h (by decide), fun i => { i with }⟩

theorem upd_rlinks (x : List RingLink) : Keeps 1180591620717411303424 s { s with rlinks := x } := ⟨fun p h => by
  cases p <;> first | rfl | exact fun _ => rfl | exact absurd h (by decide), fun i => { i with }⟩

theorem upd_ringOut (x : List (Nat × RingItem)) : Keeps 2361183241434822606848 s { s with ringOut := x } := ⟨fun p h => by
  cases p <;> first | rfl | exact fun _ => rfl | exact absurd h (by decide), fun i => { i with }⟩

theorem upd_rctx (x : NMap RingCtx) : Keeps 4722366482869645213696 s { s with rctx := x } := ⟨fun p h => by
  cases p <;> first | rfl | exact fun _ => rfl | exact absurd h (by decide), fun i => { i with }⟩

theorem upd_ringHeld (x : List RingHeld) : Keeps 9444732965739290427392 s { s with ringHeld := x } := ⟨fun p h => by
  cases p <;> first | rfl | exact fun _ => rfl | exact absurd h (by decide), fun i => { i with }⟩

theorem upd_camReqs (x : List CamReq) : Keeps 18889465931478580854784 s { s with camReqs := x } := ⟨fun p h => by
  cases p <;> first | rfl | exact fun _ => rfl | exact absurd h (by decide), fun i => { i with }⟩

theorem upd_gws (x : NMap Gateway) : Keeps 37778931862957161709568 s { s with gws := x } := ⟨fun p h => by
  cases p <;> first | rfl | exact fun _ => rfl | exact absurd h (by decide), fun i => { i with }⟩

theorem upd_qps (x : NMap Qp) : Keeps 75557863725914323419136 s { s with qps := x } := ⟨fun p h => by
  cases p <;> first | rfl | exact fun _ => rfl | exact absurd h (by decide), fun i => { i with }⟩

theorem upd_qpKeys (x : NMap Nat) : Keeps 151115727451828646838272 s { s with qpKeys := x } := ⟨fun p h => by
  cases p <;> first | rfl | exact fun _ => rfl | exact absurd h (by decide), fun i => { i with }⟩

theorem upd_shOut (x : List (Nat × Nat × ShPkt)) : Keeps 302231454903657293676544 s { s with shOut := x } := ⟨fun p h => by
  cases p <;> first | rfl | exact fun _ => rfl | exact absurd h (by decide), fun i => { i with }⟩

theorem upd_pfcUntil (x : NMap Nat) : Keeps 604462909807314587353088 s { s with pfcUntil := x } := ⟨fun p h => by
  cases p <;> first | rfl | exact fun _ => rfl | exact absurd h (by decide), fun i => { i with }⟩

theorem upd_atsCache (x : List (Nat × Nat × Nat)) : Keeps 1208925819614629174706176 s { s with atsCache := x } := ⟨fun p h => by
  cases p <;> first | rfl | exact fun _ => rfl | exact absurd h (by decide), fun i => { i with }⟩

theorem upd_orphanPend (x : List OrphanRec) : Keeps 2417851639229258349412352 s { s with orphanPend := x } := ⟨fun p h => by
  cases p <;> first | rfl | exact fun _ => rfl | exact absurd h (by decide), fun i => { i with }⟩

theorem upd_linkIn (x : NMap Word) : Keeps 4835703278458516698824704 s { s with linkIn := x } := ⟨fun p h => by
  cases p <;> first | rfl | exact fun _ => rfl | exact absurd h (by decide), fun i => { i with }⟩

theorem upd_hdm (x : NMap (List HdmDecoder)) : Keeps 9671406556917033397649408 s { s with hdm := x } := ⟨fun p h => by
  cases p <;> first | rfl | exact fun _ => rfl | exact absurd h (by decide), fun i => { i with }⟩

theorem upd_evLost (x : NMap Nat) : Keeps 19342813113834066795298816 s { s with evLost := x } := ⟨fun p h => by
  cases p <;> first | rfl | exact fun _ => rfl | exact absurd h (by decide), fun i => { i with }⟩

theorem upd_evPolicy (x : NMap Nat) : Keeps 38685626227668133590597632 s { s with evPolicy := x } := ⟨fun p h => by
  cases p <;> first | rfl | exact fun _ => rfl | exact absurd h (by decide), fun i => { i with }⟩

theorem upd_flash (x : Option FlashGeo) : Keeps 77371252455336267181195264 s { s with flash := x } := ⟨fun p h => by
  cases p <;> first | rfl | exact fun _ => rfl | exact absurd h (by decide), fun i => { i with }⟩

theorem upd_units (x : NMap EraseUnit) : Keeps 154742504910672534362390528 s { s with units := x } := ⟨fun p h => by
  cases p <;> first | rfl | exact fun _ => rfl | exact absurd h (by decide), fun i => { i with }⟩

theorem upd_streams (x : NMap Stream) : Keeps 309485009821345068724781056 s { s with streams := x } := ⟨fun p h => by
  cases p <;> first | rfl | exact fun _ => rfl | exact absurd h (by decide), fun i => { i with }⟩

theorem upd_eraseLists (x : NMap (List Nat)) : Keeps 618970019642690137449562112 s { s with eraseLists := x } := ⟨fun p h => by
  cases p <;> first | rfl | exact fun _ => rfl | exact absurd h (by decide), fun i => { i with }⟩

theorem upd_victims (x : List Nat) : Keeps 1237940039285380274899124224 s { s with victims := x } := ⟨fun p h => by
  cases p <;> first | rfl | exact fun _ => rfl | exact absurd h (by decide), fun i => { i with }⟩

theorem upd_journalUnit (x : Nat) : Keeps 2475880078570760549798248448 s { s with journalUnit := x } := ⟨fun p h => by
  cases p <;> first | rfl | exact fun _ => rfl | exact absurd h (by decide), fun i => { i with }⟩

theorem upd_slcTarget (x : Nat) : Keeps 4951760157141521099596496896 s { s with slcTarget := x } := ⟨fun p h => by
  cases p <;> first | rfl | exact fun _ => rfl | exact absurd h (by decide), fun i => { i with }⟩

theorem upd_checkpointAt (x : Nat) : Keeps 9903520314283042199192993792 s { s with checkpointAt := x } := ⟨fun p h => by
  cases p <;> first | rfl | exact fun _ => rfl | exact absurd h (by decide), fun i => { i with }⟩

theorem upd_copiedCw (x : Nat) : Keeps 19807040628566084398385987584 s { s with copiedCw := x } := ⟨fun p h => by
  cases p <;> first | rfl | exact fun _ => rfl | exact absurd h (by decide), fun i => { i with }⟩

theorem upd_saved (x : Saved) : Keeps 39614081257132168796771975168 s { s with saved := x } := ⟨fun p h => by
  cases p <;> first | rfl | exact fun _ => rfl | exact absurd h (by decide), fun i => { i with }⟩

theorem upd_tdis (x : NMap Tdi) : Keeps 79228162514264337593543950336 s { s with tdis := x } := ⟨fun p h => by
  cases p <;> first | rfl | exact fun _ => rfl | exact absurd h (by decide), fun i => { i with }⟩

theorem upd_sessions (x : NMap Session) : Keeps 158456325028528675187087900672 s { s with sessions := x } := ⟨fun p h => by
  cases p <;> first | rfl | exact fun _ => rfl | exact absurd h (by decide), fun i => { i with }⟩

theorem upd_signed (x : NMap (List Byte)) : Keeps 316912650057057350374175801344 s { s with signed := x } := ⟨fun p h => by
  cases p <;> first | rfl | exact fun _ => rfl | exact absurd h (by decide), fun i => { i with }⟩

theorem upd_ideKeys (x : NMap Nat) : Keeps 633825300114114700748351602688 s { s with ideKeys := x } := ⟨fun p h => by
  cases p <;> first | rfl | exact fun _ => rfl | exact absurd h (by decide), fun i => { i with }⟩

theorem upd_dataKeys (x : NMap Nat) : Keeps 1267650600228229401496703205376 s { s with dataKeys := x } := ⟨fun p h => by
  cases p <;> first | rfl | exact fun _ => rfl | exact absurd h (by decide), fun i => { i with }⟩

theorem upd_sealReq (x : NMap (List Byte)) : Keeps 2535301200456458802993406410752 s { s with sealReq := x } := ⟨fun p h => by
  cases p <;> first | rfl | exact fun _ => rfl | exact absurd h (by decide), fun i => { i with }⟩

theorem upd_memKey (x : Nat) : Keeps 5070602400912917605986812821504 s { s with memKey := x } := ⟨fun p h => by
  cases p <;> first | rfl | exact fun _ => rfl | exact absurd h (by decide), fun i => { i with }⟩

theorem upd_serial (x : Nat) : Keeps 10141204801825835211973625643008 s { s with serial := x } := ⟨fun p h => by
  cases p <;> first | rfl | exact fun _ => rfl | exact absurd h (by decide), fun i => { i with }⟩

theorem upd_serialTop (x : Nat) : Keeps 20282409603651670423947251286016 s { s with serialTop := x } := ⟨fun p h => by
  cases p <;> first | rfl | exact fun _ => rfl | exact absurd h (by decide), fun i => { i with }⟩

theorem upd_keyRows (x : NMap Nat) : Keeps 40564819207303340847894502572032 s { s with keyRows := x } := ⟨fun p h => by
  cases p <;> first | rfl | exact fun _ => rfl | exact absurd h (by decide), fun i => { i with }⟩

theorem upd_nonce (x : Option Nat) : Keeps 81129638414606681695789005144064 s { s with nonce := x } := ⟨fun p h => by
  cases p <;> first | rfl | exact fun _ => rfl | exact absurd h (by decide), fun i => { i with }⟩

theorem upd_deviceCerts (x : List (List Byte)) : Keeps 162259276829213363391578010288128 s { s with deviceCerts := x } := ⟨fun p h => by
  cases p <;> first | rfl | exact fun _ => rfl | exact absurd h (by decide), fun i => { i with }⟩

theorem upd_ownerCerts (x : List (List Byte)) : Keeps 324518553658426726783156020576256 s { s with ownerCerts := x } := ⟨fun p h => by
  cases p <;> first | rfl | exact fun _ => rfl | exact absurd h (by decide), fun i => { i with }⟩

theorem upd_lcTarget (x : Option Nat) : Keeps 649037107316853453566312041152512 s { s with lcTarget := x } := ⟨fun p h => by
  cases p <;> first | rfl | exact fun _ => rfl | exact absurd h (by decide), fun i => { i with }⟩

theorem upd_slotA (x : Memory) (hx : Invariant s → x.wf = true) : Keeps 1298074214633706907132624082305024 s { s with slotA := x } := ⟨fun p h => by
  cases p <;> first | rfl | exact fun _ => rfl | exact absurd h (by decide), fun i => { i with slotA := hx i }⟩

theorem upd_slotB (x : Memory) (hx : Invariant s → x.wf = true) : Keeps 2596148429267413814265248164610048 s { s with slotB := x } := ⟨fun p h => by
  cases p <;> first | rfl | exact fun _ => rfl | exact absurd h (by decide), fun i => { i with slotB := hx i }⟩

theorem upd_fwRun (x : Option FwPair) : Keeps 5192296858534827628530496329220096 s { s with fwRun := x } := ⟨fun p h => by
  cases p <;> first | rfl | exact fun _ => rfl | exact absurd h (by decide), fun i => { i with }⟩

theorem upd_measured (x : List (Nat × List Byte)) : Keeps 10384593717069655257060992658440192 s { s with measured := x } := ⟨fun p h => by
  cases p <;> first | rfl | exact fun _ => rfl | exact absurd h (by decide), fun i => { i with }⟩

theorem upd_fwWriter (x : Nat) : Keeps 20769187434139310514121985316880384 s { s with fwWriter := x } := ⟨fun p h => by
  cases p <;> first | rfl | exact fun _ => rfl | exact absurd h (by decide), fun i => { i with }⟩

theorem upd_calib (x : Memory) (hx : Invariant s → x.wf = true) : Keeps 41538374868278621028243970633760768 s { s with calib := x } := ⟨fun p h => by
  cases p <;> first | rfl | exact fun _ => rfl | exact absurd h (by decide), fun i => { i with calib := hx i }⟩

theorem upd_heldActs (x : List HeldAct) : Keeps 83076749736557242056487941267521536 s { s with heldActs := x } := ⟨fun p h => by
  cases p <;> first | rfl | exact fun _ => rfl | exact absurd h (by decide), fun i => { i with }⟩

theorem upd_tenantResets (x : List Nat) : Keeps 166153499473114484112975882535043072 s { s with tenantResets := x } := ⟨fun p h => by
  cases p <;> first | rfl | exact fun _ => rfl | exact absurd h (by decide), fun i => { i with }⟩

theorem upd_capDown (x : Nat) : Keeps 332306998946228968225951765070086144 s { s with capDown := x } := ⟨fun p h => by
  cases p <;> first | rfl | exact fun _ => rfl | exact absurd h (by decide), fun i => { i with }⟩

theorem upd_ecoDown (x : NMap Nat) : Keeps 664613997892457936451903530140172288 s { s with ecoDown := x } := ⟨fun p h => by
  cases p <;> first | rfl | exact fun _ => rfl | exact absurd h (by decide), fun i => { i with }⟩

theorem upd_avsMiss (x : NMap Nat) : Keeps 1329227995784915872903807060280344576 s { s with avsMiss := x } := ⟨fun p h => by
  cases p <;> first | rfl | exact fun _ => rfl | exact absurd h (by decide), fun i => { i with }⟩

theorem upd_lastSlow (x : Option Nat) : Keeps 2658455991569831745807614120560689152 s { s with lastSlow := x } := ⟨fun p h => by
  cases p <;> first | rfl | exact fun _ => rfl | exact absurd h (by decide), fun i => { i with }⟩

theorem upd_keyRepl (x : Nat) : Keeps 5316911983139663491615228241121378304 s { s with keyRepl := x } := ⟨fun p h => by
  cases p <;> first | rfl | exact fun _ => rfl | exact absurd h (by decide), fun i => { i with }⟩

theorem upd_replaceN (x : Bool) : Keeps 10633823966279326983230456482242756608 s { s with replaceN := x } := ⟨fun p h => by
  cases p <;> first | rfl | exact fun _ => rfl | exact absurd h (by decide), fun i => { i with }⟩

theorem upd_power (x : Power) : Keeps 21267647932558653966460912964485513216 s { s with power := x } := ⟨fun p h => by
  cases p <;> first | rfl | exact fun _ => rfl | exact absurd h (by decide), fun i => { i with }⟩

theorem upd_jtag (x : Jtag) : Keeps 42535295865117307932921825928971026432 s { s with jtag := x } := ⟨fun p h => by
  cases p <;> first | rfl | exact fun _ => rfl | exact absurd h (by decide), fun i => { i with }⟩

theorem upd_nextUid_syncAt (x0 : Nat) (x1 : Nat) :
    Keeps 144115325514809344 s { s with nextUid := x0, syncAt := x1 } :=
  ((Keeps.refl 144115325514809344 s).step (upd_nextUid s x0)).step (upd_syncAt { s with nextUid := x0 } x1)

theorem upd_buckets_wheels_devLevels_inflight_chunks_viewWaits_snoops_lineQ_curLog_ringOut_ringHeld_camReqs_shOut_pfcUntil_heldActs (x0 : NMap Bucket) (x1 : NMap WheelState) (x2 : List Nat) (x3 : List Cmd) (x4 : NMap Chunk) (x5 : List ViewWait) (x6 : List Snoop) (x7 : List LineReq) (x8 : NMap (List Nat)) (x9 : List (Nat × RingItem)) (x10 : List RingHeld) (x11 : List CamReq) (x12 : List (Nat × Nat × ShPkt)) (x13 : NMap Nat) (x14 : List HeldAct) :
    Keeps 83076749737495332815641514937942016 s { s with buckets := x0, wheels := x1, devLevels := x2, inflight := x3, chunks := x4, viewWaits := x5, snoops := x6, lineQ := x7, curLog := x8, ringOut := x9, ringHeld := x10, camReqs := x11, shOut := x12, pfcUntil := x13, heldActs := x14 } :=
  (((((((((((((((Keeps.refl 83076749737495332815641514937942016 s).step (upd_buckets s x0)).step (upd_wheels { s with buckets := x0 } x1)).step (upd_devLevels { s with buckets := x0, wheels := x1 } x2)).step (upd_inflight { s with buckets := x0, wheels := x1, devLevels := x2 } x3)).step (upd_chunks { s with buckets := x0, wheels := x1, devLevels := x2, inflight := x3 } x4)).step (upd_viewWaits { s with buckets := x0, wheels := x1, devLevels := x2, inflight := x3, chunks := x4 } x5)).step (upd_snoops { s with buckets := x0, wheels := x1, devLevels := x2, inflight := x3, chunks := x4, viewWaits := x5 } x6)).step (upd_lineQ { s with buckets := x0, wheels := x1, devLevels := x2, inflight := x3, chunks := x4, viewWaits := x5, snoops := x6 } x7)).step (upd_curLog { s with buckets := x0, wheels := x1, devLevels := x2, inflight := x3, chunks := x4, viewWaits := x5, snoops := x6, lineQ := x7 } x8)).step (upd_ringOut { s with buckets := x0, wheels := x1, devLevels := x2, inflight := x3, chunks := x4, viewWaits := x5, snoops := x6, lineQ := x7, curLog := x8 } x9)).step (upd_ringHeld { s with buckets := x0, wheels := x1, devLevels := x2, inflight := x3, chunks := x4, viewWaits := x5, snoops := x6, lineQ := x7, curLog := x8, ringOut := x9 } x10)).step (upd_camReqs { s with buckets := x0, wheels := x1, devLevels := x2, inflight := x3, chunks := x4, viewWaits := x5, snoops := x6, lineQ := x7, curLog := x8, ringOut := x9, ringHeld := x10 } x11)).step (upd_shOut { s with buckets := x0, wheels := x1, devLevels := x2, inflight := x3, chunks := x4, viewWaits := x5, snoops := x6, lineQ := x7, curLog := x8, ringOut := x9, ringHeld := x10, camReqs := x11 } x12)).step (upd_pfcUntil { s with buckets := x0, wheels := x1, devLevels := x2, inflight := x3, chunks := x4, viewWaits := x5, snoops := x6, lineQ := x7, curLog := x8, ringOut := x9, ringHeld := x10, camReqs := x11, shOut := x12 } x13)).step (upd_heldActs { s with buckets := x0, wheels := x1, devLevels := x2, inflight := x3, chunks := x4, viewWaits := x5, snoops := x6, lineQ := x7, curLog := x8, ringOut := x9, ringHeld := x10, camReqs := x11, shOut := x12, pfcUntil := x13 } x14)

theorem upd_eraseLists_victims (x0 : NMap (List Nat)) (x1 : List Nat) :
    Keeps 1856910058928070412348686336 s { s with eraseLists := x0, victims := x1 } :=
  ((Keeps.refl 1856910058928070412348686336 s).step (upd_eraseLists s x0)).step (upd_victims { s with eraseLists := x0 } x1)

theorem upd_out_shOut (x0 : List Output) (x1 : List (Nat × Nat × ShPkt)) :
    Keeps 302231454903657293676552 s { s with out := x0, shOut := x1 } :=
  ((Keeps.refl 302231454903657293676552 s).step (upd_out s x0)).step (upd_shOut { s with out := x0 } x1)

theorem upd_eraseLists_journalUnit (x0 : NMap (List Nat)) (x1 : Nat) :
    Keeps 3094850098213450687247810560 s { s with eraseLists := x0, journalUnit := x1 } :=
  ((Keeps.refl 3094850098213450687247810560 s).step (upd_eraseLists s x0)).step (upd_journalUnit { s with eraseLists := x0 } x1)

theorem upd_rebuildAt_rebuildWarned (x0 : Nat) (x1 : Bool) :
    Keeps 3145728 s { s with rebuildAt := x0, rebuildWarned := x1 } :=
  ((Keeps.refl 3145728 s).step (upd_rebuildAt s x0)).step (upd_rebuildWarned { s with rebuildAt := x0 } x1)

theorem upd_geom_chunks_seqs_pins_frames_epochs_images_gens_histPages_plainMem_poisonLines_orphanLines_orphanLog_extents_released_orphanPend_streams_memKey (x0 : NMap Word) (x1 : NMap Chunk) (x2 : NMap Seq) (x3 : NMap PinRec) (x4 : NMap Frame) (x5 : NMap Nat) (x6 : NMap FlashImage) (x7 : NMap (List Gen)) (x8 : Nat) (x9 : Memory) (x10 : NMap Unit) (x11 : NMap Unit) (x12 : List OrphanRec) (x13 : NMap Extent) (x14 : NMap Unit) (x15 : List OrphanRec) (x16 : NMap Stream) (x17 : Nat) (h9 : Invariant s → x9.wf = true) (h12 : x12.length ≤ 65536) :
    Keeps 5070914303792547985721521078272 s { s with geom := x0, chunks := x1, seqs := x2, pins := x3, frames := x4, epochs := x5, images := x6, gens := x7, histPages := x8, plainMem := x9, poisonLines := x10, orphanLines := x11, orphanLog := x12, extents := x13, released := x14, orphanPend := x15, streams := x16, memKey := x17 } :=
  ((((((((((((((((((Keeps.refl 5070914303792547985721521078272 s).step (upd_plainMem s x9 h9)).step (upd_orphanLog { s with plainMem := x9 } x12 (fun _ => h12))).step (upd_geom { s with plainMem := x9, orphanLog := x12 } x0)).step (upd_chunks { s with plainMem := x9, orphanLog := x12, geom := x0 } x1)).step (upd_seqs { s with plainMem := x9, orphanLog := x12, geom := x0, chunks := x1 } x2)).step (upd_pins { s with plainMem := x9, orphanLog := x12, geom := x0, chunks := x1, seqs := x2 } x3)).step (upd_frames { s with plainMem := x9, orphanLog := x12, geom := x0, chunks := x1, seqs := x2, pins := x3 } x4)).step (upd_epochs { s with plainMem := x9, orphanLog := x12, geom := x0, chunks := x1, seqs := x2, pins := x3, frames := x4 } x5)).step (upd_images { s with plainMem := x9, orphanLog := x12, geom := x0, chunks := x1, seqs := x2, pins := x3, frames := x4, epochs := x5 } x6)).step (upd_gens { s with plainMem := x9, orphanLog := x12, geom := x0, chunks := x1, seqs := x2, pins := x3, frames := x4, epochs := x5, images := x6 } x7)).step (upd_histPages { s with plainMem := x9, orphanLog := x12, geom := x0, chunks := x1, seqs := x2, pins := x3, frames := x4, epochs := x5, images := x6, gens := x7 } x8)).step (upd_poisonLines { s with plainMem := x9, orphanLog := x12, geom := x0, chunks := x1, seqs := x2, pins := x3, frames := x4, epochs := x5, images := x6, gens := x7, histPages := x8 } x10)).step (upd_orphanLines { s with plainMem := x9, orphanLog := x12, geom := x0, chunks := x1, seqs := x2, pins := x3, frames := x4, epochs := x5, images := x6, gens := x7, histPages := x8, poisonLines := x10 } x11)).step (upd_extents { s with plainMem := x9, orphanLog := x12, geom := x0, chunks := x1, seqs := x2, pins := x3, frames := x4, epochs := x5, images := x6, gens := x7, histPages := x8, poisonLines := x10, orphanLines := x11 } x13)).step (upd_released { s with plainMem := x9, orphanLog := x12, geom := x0, chunks := x1, seqs := x2, pins := x3, frames := x4, epochs := x5, images := x6, gens := x7, histPages := x8, poisonLines := x10, orphanLines := x11, extents := x13 } x14)).step (upd_orphanPend { s with plainMem := x9, orphanLog := x12, geom := x0, chunks := x1, seqs := x2, pins := x3, frames := x4, epochs := x5, images := x6, gens := x7, histPages := x8, poisonLines := x10, orphanLines := x11, extents := x13, released := x14 } x15)).step (upd_streams { s with plainMem := x9, orphanLog := x12, geom := x0, chunks := x1, seqs := x2, pins := x3, frames := x4, epochs := x5, images := x6, gens := x7, histPages := x8, poisonLines := x10, orphanLines := x11, extents := x13, released := x14, orphanPend := x15 } x16)).step (upd_memKey { s with plainMem := x9, orphanLog := x12, geom := x0, chunks := x1, seqs := x2, pins := x3, frames := x4, epochs := x5, images := x6, gens := x7, histPages := x8, poisonLines := x10, orphanLines := x11, extents := x13, released := x14, orphanPend := x15, streams := x16 } x17)

theorem upd_orphanLines_orphanPend (x0 : NMap Unit) (x1 : List OrphanRec) :
    Keeps 2417852792150762956259328 s { s with orphanLines := x0, orphanPend := x1 } :=
  ((Keeps.refl 2417852792150762956259328 s).step (upd_orphanLines s x0)).step (upd_orphanPend { s with orphanLines := x0 } x1)

theorem upd_units_eraseLists (x0 : NMap EraseUnit) (x1 : NMap (List Nat)) :
    Keeps 773712524553362671811952640 s { s with units := x0, eraseLists := x1 } :=
  ((Keeps.refl 773712524553362671811952640 s).step (upd_units s x0)).step (upd_eraseLists { s with units := x0 } x1)

theorem upd_inflight_nextUid (x0 : List Cmd) (x1 : Nat) :
    Keeps 206158430208 s { s with inflight := x0, nextUid := x1 } :=
  ((Keeps.refl 206158430208 s).step (upd_inflight s x0)).step (upd_nextUid { s with inflight := x0 } x1)

theorem upd_frames_epochs (x0 : NMap Frame) (x1 : NMap Nat) :
    Keeps 13194139533312 s { s with frames := x0, epochs := x1 } :=
  ((Keeps.refl 13194139533312 s).step (upd_frames s x0)).step (upd_epochs { s with frames := x0 } x1)

theorem upd_capDown_power (x0 : Nat) (x1 : Power) :
    Keeps 21599954931504882934686864729555599360 s { s with capDown := x0, power := x1 } :=
  ((Keeps.refl 21599954931504882934686864729555599360 s).step (upd_capDown s x0)).step (upd_power { s with capDown := x0 } x1)

theorem upd_dtime_power (x0 : Nat) (x1 : Power) :
    Keeps 21267647932558653966460912964485513218 s { s with dtime := x0, power := x1 } :=
  ((Keeps.refl 21267647932558653966460912964485513218 s).step (upd_dtime s x0)).step (upd_power { s with dtime := x0 } x1)

theorem upd_keyRepl_replaceN (x0 : Nat) (x1 : Bool) :
    Keeps 15950735949418990474845684723364134912 s { s with keyRepl := x0, replaceN := x1 } :=
  ((Keeps.refl 15950735949418990474845684723364134912 s).step (upd_keyRepl s x0)).step (upd_replaceN { s with keyRepl := x0 } x1)

theorem upd_geoGen_geoUpd (x0 : Nat) (x1 : Bool) :
    Keeps 768 s { s with geoGen := x0, geoUpd := x1 } :=
  ((Keeps.refl 768 s).step (upd_geoGen s x0)).step (upd_geoUpd { s with geoGen := x0 } x1)

theorem upd_hdm_ideKeys (x0 : NMap (List HdmDecoder)) (x1 : NMap Nat) :
    Keeps 633834971520671617781749252096 s { s with hdm := x0, ideKeys := x1 } :=
  ((Keeps.refl 633834971520671617781749252096 s).step (upd_hdm s x0)).step (upd_ideKeys { s with hdm := x0 } x1)

theorem upd_dtime_log_events_evLost_power (x0 : Nat) (x1 : List LogRec) (x2 : NMap (List EventRec)) (x3 : NMap Nat) (x4 : Power) (h1 : Invariant s → x1.length ≤ 8192) (h2 : ∀ fn log, (({ s with events := x2 } : State).eventLog fn log).length ≤ 1024) :
    Keeps 21267647932577996779574747031280812130 s { s with dtime := x0, log := x1, events := x2, evLost := x3, power := x4 } :=
  (((((Keeps.refl 21267647932577996779574747031280812130 s).step (upd_log s x1 h1)).step (upd_events { s with log := x1 } x2 (fun _ => h2))).step (upd_dtime { s with log := x1, events := x2 } x0)).step (upd_evLost { s with log := x1, events := x2, dtime := x0 } x3)).step (upd_power { s with log := x1, events := x2, dtime := x0, evLost := x3 } x4)

theorem upd_mctp_uaLogAt_denyLogAt_stewards_reconTimes_reconLog_staging_pattern_load_bg_rotor_viewCache_histPages_viewSlots_pbase_snoopFilter_lostHosts_unbackedLogAt_rlinks_hdm_evPolicy_victims_tdis_sessions_signed_ideKeys_nonce_fwRun_measured_fwWriter_tenantResets_capDown_ecoDown_avsMiss_lastSlow (x0 : List (Nat × Nat)) (x1 : Option Nat) (x2 : Option Nat) (x3 : NMap Steward) (x4 : NMap (List Nat)) (x5 : NMap Nat) (x6 : Staging) (x7 : Option Pattern) (x8 : Option LoadRun) (x9 : Background) (x10 : Nat) (x11 : List ViewLine) (x12 : Nat) (x13 : NMap Word) (x14 : NMap Nat) (x15 : List SfLine) (x16 : List Nat) (x17 : Option Nat) (x18 : List RingLink) (x19 : NMap (List HdmDecoder)) (x20 : NMap Nat) (x21 : List Nat) (x22 : NMap Tdi) (x23 : NMap Session) (x24 : NMap (List Byte)) (x25 : NMap Nat) (x26 : Option Nat) (x27 : Option FwPair) (x28 : List (Nat × List Byte)) (x29 : Nat) (x30 : List Nat) (x31 : Nat) (x32 : NMap Nat) (x33 : NMap Nat) (x34 : Option Nat) :
    Keeps 5187186881023443835482496353096371328 s { s with mctp := x0, uaLogAt := x1, denyLogAt := x2, stewards := x3, reconTimes := x4, reconLog := x5, staging := x6, pattern := x7, load := x8, bg := x9, rotor := x10, viewCache := x11, histPages := x12, viewSlots := x13, pbase := x14, snoopFilter := x15, lostHosts := x16, unbackedLogAt := x17, rlinks := x18, hdm := x19, evPolicy := x20, victims := x21, tdis := x22, sessions := x23, signed := x24, ideKeys := x25, nonce := x26, fwRun := x27, measured := x28, fwWriter := x29, tenantResets := x30, capDown := x31, ecoDown := x32, avsMiss := x33, lastSlow := x34 } :=
  (((((((((((((((((((((((((((((((((((Keeps.refl 5187186881023443835482496353096371328 s).step (upd_mctp s x0)).step (upd_uaLogAt { s with mctp := x0 } x1)).step (upd_denyLogAt { s with mctp := x0, uaLogAt := x1 } x2)).step (upd_stewards { s with mctp := x0, uaLogAt := x1, denyLogAt := x2 } x3)).step (upd_reconTimes { s with mctp := x0, uaLogAt := x1, denyLogAt := x2, stewards := x3 } x4)).step (upd_reconLog { s with mctp := x0, uaLogAt := x1, denyLogAt := x2, stewards := x3, reconTimes := x4 } x5)).step (upd_staging { s with mctp := x0, uaLogAt := x1, denyLogAt := x2, stewards := x3, reconTimes := x4, reconLog := x5 } x6)).step (upd_pattern { s with mctp := x0, uaLogAt := x1, denyLogAt := x2, stewards := x3, reconTimes := x4, reconLog := x5, staging := x6 } x7)).step (upd_load { s with mctp := x0, uaLogAt := x1, denyLogAt := x2, stewards := x3, reconTimes := x4, reconLog := x5, staging := x6, pattern := x7 } x8)).step (upd_bg { s with mctp := x0, uaLogAt := x1, denyLogAt := x2, stewards := x3, reconTimes := x4, reconLog := x5, staging := x6, pattern := x7, load := x8 } x9)).step (upd_rotor { s with mctp := x0, uaLogAt := x1, denyLogAt := x2, stewards := x3, reconTimes := x4, reconLog := x5, staging := x6, pattern := x7, load := x8, bg := x9 } x10)).step (upd_viewCache { s with mctp := x0, uaLogAt := x1, denyLogAt := x2, stewards := x3, reconTimes := x4, reconLog := x5, staging := x6, pattern := x7, load := x8, bg := x9, rotor := x10 } x11)).step (upd_histPages { s with mctp := x0, uaLogAt := x1, denyLogAt := x2, stewards := x3, reconTimes := x4, reconLog := x5, staging := x6, pattern := x7, load := x8, bg := x9, rotor := x10, viewCache := x11 } x12)).step (upd_viewSlots { s with mctp := x0, uaLogAt := x1, denyLogAt := x2, stewards := x3, reconTimes := x4, reconLog := x5, staging := x6, pattern := x7, load := x8, bg := x9, rotor := x10, viewCache := x11, histPages := x12 } x13)).step (upd_pbase { s with mctp := x0, uaLogAt := x1, denyLogAt := x2, stewards := x3, reconTimes := x4, reconLog := x5, staging := x6, pattern := x7, load := x8, bg := x9, rotor := x10, viewCache := x11, histPages := x12, viewSlots := x13 } x14)).step (upd_snoopFilter { s with mctp := x0, uaLogAt := x1, denyLogAt := x2, stewards := x3, reconTimes := x4, reconLog := x5, staging := x6, pattern := x7, load := x8, bg := x9, rotor := x10, viewCache := x11, histPages := x12, viewSlots := x13, pbase := x14 } x15)).step (upd_lostHosts { s with mctp := x0, uaLogAt := x1, denyLogAt := x2, stewards := x3, reconTimes := x4, reconLog := x5, staging := x6, pattern := x7, load := x8, bg := x9, rotor := x10, viewCache := x11, histPages := x12, viewSlots := x13, pbase := x14, snoopFilter := x15 } x16)).step (upd_unbackedLogAt { s with mctp := x0, uaLogAt := x1, denyLogAt := x2, stewards := x3, reconTimes := x4, reconLog := x5, staging := x6, pattern := x7, load := x8, bg := x9, rotor := x10, viewCache := x11, histPages := x12, viewSlots := x13, pbase := x14, snoopFilter := x15, lostHosts := x16 } x17)).step (upd_rlinks { s with mctp := x0, uaLogAt := x1, denyLogAt := x2, stewards := x3, reconTimes := x4, reconLog := x5, staging := x6, pattern := x7, load := x8, bg := x9, rotor := x10, viewCache := x11, histPages := x12, viewSlots := x13, pbase := x14, snoopFilter := x15, lostHosts := x16, unbackedLogAt := x17 } x18)).step (upd_hdm { s with mctp := x0, uaLogAt := x1, denyLogAt := x2, stewards := x3, reconTimes := x4, reconLog := x5, staging := x6, pattern := x7, load := x8, bg := x9, rotor := x10, viewCache := x11, histPages := x12, viewSlots := x13, pbase := x14, snoopFilter := x15, lostHosts := x16, unbackedLogAt := x17, rlinks := x18 } x19)).step (upd_evPolicy { s with mctp := x0, uaLogAt := x1, denyLogAt := x2, stewards := x3, reconTimes := x4, reconLog := x5, staging := x6, pattern := x7, load := x8, bg := x9, rotor := x10, viewCache := x11, histPages := x12, viewSlots := x13, pbase := x14, snoopFilter := x15, lostHosts := x16, unbackedLogAt := x17, rlinks := x18, hdm := x19 } x20)).step (upd_victims { s with mctp := x0, uaLogAt := x1, denyLogAt := x2, stewards := x3, reconTimes := x4, reconLog := x5, staging := x6, pattern := x7, load := x8, bg := x9, rotor := x10, viewCache := x11, histPages := x12, viewSlots := x13, pbase := x14, snoopFilter := x15, lostHosts := x16, unbackedLogAt := x17, rlinks := x18, hdm := x19, evPolicy := x20 } x21)).step (upd_tdis { s with mctp := x0, uaLogAt := x1, denyLogAt := x2, stewards := x3, reconTimes := x4, reconLog := x5, staging := x6, pattern := x7, load := x8, bg := x9, rotor := x10, viewCache := x11, histPages := x12, viewSlots := x13, pbase := x14, snoopFilter := x15, lostHosts := x16, unbackedLogAt := x17, rlinks := x18, hdm := x19, evPolicy := x20, victims := x21 } x22)).step (upd_sessions { s with mctp := x0, uaLogAt := x1, denyLogAt := x2, stewards := x3, reconTimes := x4, reconLog := x5, staging := x6, pattern := x7, load := x8, bg := x9, rotor := x10, viewCache := x11, histPages := x12, viewSlots := x13, pbase := x14, snoopFilter := x15, lostHosts := x16, unbackedLogAt := x17, rlinks := x18, hdm := x19, evPolicy := x20, victims := x21, tdis := x22 } x23)).step (upd_signed { s with mctp := x0, uaLogAt := x1, denyLogAt := x2, stewards := x3, reconTimes := x4, reconLog := x5, staging := x6, pattern := x7, load := x8, bg := x9, rotor := x10, viewCache := x11, histPages := x12, viewSlots := x13, pbase := x14, snoopFilter := x15, lostHosts := x16, unbackedLogAt := x17, rlinks := x18, hdm := x19, evPolicy := x20, victims := x21, tdis := x22, sessions := x23 } x24)).step (upd_ideKeys { s with mctp := x0, uaLogAt := x1, denyLogAt := x2, stewards := x3, reconTimes := x4, reconLog := x5, staging := x6, pattern := x7, load := x8, bg := x9, rotor := x10, viewCache := x11, histPages := x12, viewSlots := x13, pbase := x14, snoopFilter := x15, lostHosts := x16, unbackedLogAt := x17, rlinks := x18, hdm := x19, evPolicy := x20, victims := x21, tdis := x22, sessions := x23, signed := x24 } x25)).step (upd_nonce { s with mctp := x0, uaLogAt := x1, denyLogAt := x2, stewards := x3, reconTimes := x4, reconLog := x5, staging := x6, pattern := x7, load := x8, bg := x9, rotor := x10, viewCache := x11, histPages := x12, viewSlots := x13, pbase := x14, snoopFilter := x15, lostHosts := x16, unbackedLogAt := x17, rlinks := x18, hdm := x19, evPolicy := x20, victims := x21, tdis := x22, sessions := x23, signed := x24, ideKeys := x25 } x26)).step (upd_fwRun { s with mctp := x0, uaLogAt := x1, denyLogAt := x2, stewards := x3, reconTimes := x4, reconLog := x5, staging := x6, pattern := x7, load := x8, bg := x9, rotor := x10, viewCache := x11, histPages := x12, viewSlots := x13, pbase := x14, snoopFilter := x15, lostHosts := x16, unbackedLogAt := x17, rlinks := x18, hdm := x19, evPolicy := x20, victims := x21, tdis := x22, sessions := x23, signed := x24, ideKeys := x25, nonce := x26 } x27)).step (upd_measured { s with mctp := x0, uaLogAt := x1, denyLogAt := x2, stewards := x3, reconTimes := x4, reconLog := x5, staging := x6, pattern := x7, load := x8, bg := x9, rotor := x10, viewCache := x11, histPages := x12, viewSlots := x13, pbase := x14, snoopFilter := x15, lostHosts := x16, unbackedLogAt := x17, rlinks := x18, hdm := x19, evPolicy := x20, victims := x21, tdis := x22, sessions := x23, signed := x24, ideKeys := x25, nonce := x26, fwRun := x27 } x28)).step (upd_fwWriter { s with mctp := x0, uaLogAt := x1, denyLogAt := x2, stewards := x3, reconTimes := x4, reconLog := x5, staging := x6, pattern := x7, load := x8, bg := x9, rotor := x10, viewCache := x11, histPages := x12, viewSlots := x13, pbase := x14, snoopFilter := x15, lostHosts := x16, unbackedLogAt := x17, rlinks := x18, hdm := x19, evPolicy := x20, victims := x21, tdis := x22, sessions := x23, signed := x24, ideKeys := x25, nonce := x26, fwRun := x27, measured := x28 } x29)).step (upd_tenantResets { s with mctp := x0, uaLogAt := x1, denyLogAt := x2, stewards := x3, reconTimes := x4, reconLog := x5, staging := x6, pattern := x7, load := x8, bg := x9, rotor := x10, viewCache := x11, histPages := x12, viewSlots := x13, pbase := x14, snoopFilter := x15, lostHosts := x16, unbackedLogAt := x17, rlinks := x18, hdm := x19, evPolicy := x20, victims := x21, tdis := x22, sessions := x23, signed := x24, ideKeys := x25, nonce := x26, fwRun := x27, measured := x28, fwWriter := x29 } x30)).step (upd_capDown { s with mctp := x0, uaLogAt := x1, denyLogAt := x2, stewards := x3, reconTimes := x4, reconLog := x5, staging := x6, pattern := x7, load := x8, bg := x9, rotor := x10, viewCache := x11, histPages := x12, viewSlots := x13, pbase := x14, snoopFilter := x15, lostHosts := x16, unbackedLogAt := x17, rlinks := x18, hdm := x19, evPolicy := x20, victims := x21, tdis := x22, sessions := x23, signed := x24, ideKeys := x25, nonce := x26, fwRun := x27, measured := x28, fwWriter := x29, tenantResets := x30 } x31)).step (upd_ecoDown { s with mctp := x0, uaLogAt := x1, denyLogAt := x2, stewards := x3, reconTimes := x4, reconLog := x5, staging := x6, pattern := x7, load := x8, bg := x9, rotor := x10, viewCache := x11, histPages := x12, viewSlots := x13, pbase := x14, snoopFilter := x15, lostHosts := x16, unbackedLogAt := x17, rlinks := x18, hdm := x19, evPolicy := x20, victims := x21, tdis := x22, sessions := x23, signed := x24, ideKeys := x25, nonce := x26, fwRun := x27, measured := x28, fwWriter := x29, tenantResets := x30, capDown := x31 } x32)).step (upd_avsMiss { s with mctp := x0, uaLogAt := x1, denyLogAt := x2, stewards := x3, reconTimes := x4, reconLog := x5, staging := x6, pattern := x7, load := x8, bg := x9, rotor := x10, viewCache := x11, histPages := x12, viewSlots := x13, pbase := x14, snoopFilter := x15, lostHosts := x16, unbackedLogAt := x17, rlinks := x18, hdm := x19, evPolicy := x20, victims := x21, tdis := x22, sessions := x23, signed := x24, ideKeys := x25, nonce := x26, fwRun := x27, measured := x28, fwWriter := x29, tenantResets := x30, capDown := x31, ecoDown := x32 } x33)).step (upd_lastSlow { s with mctp := x0, uaLogAt := x1, denyLogAt := x2, stewards := x3, reconTimes := x4, reconLog := x5, staging := x6, pattern := x7, load := x8, bg := x9, rotor := x10, viewCache := x11, histPages := x12, viewSlots := x13, pbase := x14, snoopFilter := x15, lostHosts := x16, unbackedLogAt := x17, rlinks := x18, hdm := x19, evPolicy := x20, victims := x21, tdis := x22, sessions := x23, signed := x24, ideKeys := x25, nonce := x26, fwRun := x27, measured := x28, fwWriter := x29, tenantResets := x30, capDown := x31, ecoDown := x32, avsMiss := x33 } x34)

theorem upd_poisonLines_orphanLines (x0 : NMap Unit) (x1 : NMap Unit) :
    Keeps 1729382256910270464 s { s with poisonLines := x0, orphanLines := x1 } :=
  ((Keeps.refl 1729382256910270464 s).step (upd_poisonLines s x0)).step (upd_orphanLines { s with poisonLines := x0 } x1)

theorem upd_wheels_devLevels (x0 : NMap WheelState) (x1 : List Nat) :
    Keeps 6442450944 s { s with wheels := x0, devLevels := x1 } :=
  ((Keeps.refl 6442450944 s).step (upd_wheels s x0)).step (upd_devLevels { s with wheels := x0 } x1)

theorem upd_spools_comps_rctx_ringHeld_gws_qps_qpKeys_shOut_atsCache (x0 : NMap Spool) (x1 : NMap CompSpool) (x2 : NMap RingCtx) (x3 : List RingHeld) (x4 : NMap Gateway) (x5 : NMap Qp) (x6 : NMap Nat) (x7 : List (Nat × Nat × ShPkt)) (x8 : List (Nat × Nat × Nat)) :
    Keeps 1789776897007621305794560 s { s with spools := x0, comps := x1, rctx := x2, ringHeld := x3, gws := x4, qps := x5, qpKeys := x6, shOut := x7, atsCache := x8 } :=
  (((((((((Keeps.refl 1789776897007621305794560 s).step (upd_spools s x0)).step (upd_comps { s with spools := x0 } x1)).step (upd_rctx { s with spools := x0, comps := x1 } x2)).step (upd_ringHeld { s with spools := x0, comps := x1, rctx := x2 } x3)).step (upd_gws { s with spools := x0, comps := x1, rctx := x2, ringHeld := x3 } x4)).step (upd_qps { s with spools := x0, comps := x1, rctx := x2, ringHeld := x3, gws := x4 } x5)).step (upd_qpKeys { s with spools := x0, comps := x1, rctx := x2, ringHeld := x3, gws := x4, qps := x5 } x6)).step (upd_shOut { s with spools := x0, comps := x1, rctx := x2, ringHeld := x3, gws := x4, qps := x5, qpKeys := x6 } x7)).step (upd_atsCache { s with spools := x0, comps := x1, rctx := x2, ringHeld := x3, gws := x4, qps := x5, qpKeys := x6, shOut := x7 } x8)

theorem upd_orphanLog_orphanPend (x0 : List OrphanRec) (x1 : List OrphanRec) (h0 : Invariant s → x0.length ≤ 65536) :
    Keeps 2417853945072267563106304 s { s with orphanLog := x0, orphanPend := x1 } :=
  ((Keeps.refl 2417853945072267563106304 s).step (upd_orphanLog s x0 h0)).step (upd_orphanPend { s with orphanLog := x0 } x1)

theorem upd_events_evLost (x0 : NMap (List EventRec)) (x1 : NMap Nat) (h0 : Invariant s → ∀ fn log, (({ s with events := x0 } : State).eventLog fn log).length ≤ 1024) :
    Keeps 19342813113834066795298880 s { s with events := x0, evLost := x1 } :=
  ((Keeps.refl 19342813113834066795298880 s).step (upd_events s x0 h0)).step (upd_evLost { s with events := x0 } x1)

theorem upd_geom_chunks (x0 : NMap Word) (x1 : NMap Chunk) :
    Keeps 275414777856 s { s with geom := x0, chunks := x1 } :=
  ((Keeps.refl 275414777856 s).step (upd_geom s x0)).step (upd_chunks { s with geom := x0 } x1)

theorem upd_bootA_bootB_geom_chunks_seqs_pins_nsKeys_frames_images_gens_plainMem_poisonLines_orphanLines_extents_released_snoopFilter_qps_qpKeys_orphanPend_eraseLists_saved_ideKeys_dataKeys_sealReq_memKey_ownerCerts (x0 : Option Pattern) (x1 : Option Pattern) (x2 : NMap Word) (x3 : NMap Chunk) (x4 : NMap Seq) (x5 : NMap PinRec) (x6 : NMap Wide) (x7 : NMap Frame) (x8 : NMap FlashImage) (x9 : NMap (List Gen)) (x10 : Memory) (x11 : NMap Unit) (x12 : NMap Unit) (x13 : NMap Extent) (x14 : NMap Unit) (x15 : List SfLine) (x16 : NMap Qp) (x17 : NMap Nat) (x18 : List OrphanRec) (x19 : NMap (List Nat)) (x20 : Saved) (x21 : NMap Nat) (x22 : NMap Nat) (x23 : NMap (List Byte)) (x24 : Nat) (x25 : List (List Byte)) (h10 : Invariant s → x10.wf = true) :
    Keeps 334066168855974754252992691568640 s { s with bootA := x0, bootB := x1, geom := x2, chunks := x3, seqs := x4, pins := x5, nsKeys := x6, frames := x7, images := x8, gens := x9, plainMem := x10, poisonLines := x11, orphanLines := x12, extents := x13, released := x14, snoopFilter := x15, qps := x16, qpKeys := x17, orphanPend := x18, eraseLists := x19, saved := x20, ideKeys := x21, dataKeys := x22, sealReq := x23, memKey := x24, ownerCerts := x25 } :=
  ((((((((((((((((((((((((((Keeps.refl 334066168855974754252992691568640 s).step (upd_plainMem s x10 h10)).step (upd_bootA { s with plainMem := x10 } x0)).step (upd_bootB { s with plainMem := x10, bootA := x0 } x1)).step (upd_geom { s with plainMem := x10, bootA := x0, bootB := x1 } x2)).step (upd_chunks { s with plainMem := x10, bootA := x0, bootB := x1, geom := x2 } x3)).step (upd_seqs { s with plainMem := x10, bootA := x0, bootB := x1, geom := x2, chunks := x3 } x4)).step (upd_pins { s with plainMem := x10, bootA := x0, bootB := x1, geom := x2, chunks := x3, seqs := x4 } x5)).step (upd_nsKeys { s with plainMem := x10, bootA := x0, bootB := x1, geom := x2, chunks := x3, seqs := x4, pins := x5 } x6)).step (upd_frames { s with plainMem := x10, bootA := x0, bootB := x1, geom := x2, chunks := x3, seqs := x4, pins := x5, nsKeys := x6 } x7)).step (upd_images { s with plainMem := x10, bootA := x0, bootB := x1, geom := x2, chunks := x3, seqs := x4, pins := x5, nsKeys := x6, frames := x7 } x8)).step (upd_gens { s with plainMem := x10, bootA := x0, bootB := x1, geom := x2, chunks := x3, seqs := x4, pins := x5, nsKeys := x6, frames := x7, images := x8 } x9)).step (upd_poisonLines { s with plainMem := x10, bootA := x0, bootB := x1, geom := x2, chunks := x3, seqs := x4, pins := x5, nsKeys := x6, frames := x7, images := x8, gens := x9 } x11)).step (upd_orphanLines { s with plainMem := x10, bootA := x0, bootB := x1, geom := x2, chunks := x3, seqs := x4, pins := x5, nsKeys := x6, frames := x7, images := x8, gens := x9, poisonLines := x11 } x12)).step (upd_extents { s with plainMem := x10, bootA := x0, bootB := x1, geom := x2, chunks := x3, seqs := x4, pins := x5, nsKeys := x6, frames := x7, images := x8, gens := x9, poisonLines := x11, orphanLines := x12 } x13)).step (upd_released { s with plainMem := x10, bootA := x0, bootB := x1, geom := x2, chunks := x3, seqs := x4, pins := x5, nsKeys := x6, frames := x7, images := x8, gens := x9, poisonLines := x11, orphanLines := x12, extents := x13 } x14)).step (upd_snoopFilter { s with plainMem := x10, bootA := x0, bootB := x1, geom := x2, chunks := x3, seqs := x4, pins := x5, nsKeys := x6, frames := x7, images := x8, gens := x9, poisonLines := x11, orphanLines := x12, extents := x13, released := x14 } x15)).step (upd_qps { s with plainMem := x10, bootA := x0, bootB := x1, geom := x2, chunks := x3, seqs := x4, pins := x5, nsKeys := x6, frames := x7, images := x8, gens := x9, poisonLines := x11, orphanLines := x12, extents := x13, released := x14, snoopFilter := x15 } x16)).step (upd_qpKeys { s with plainMem := x10, bootA := x0, bootB := x1, geom := x2, chunks := x3, seqs := x4, pins := x5, nsKeys := x6, frames := x7, images := x8, gens := x9, poisonLines := x11, orphanLines := x12, extents := x13, released := x14, snoopFilter := x15, qps := x16 } x17)).step (upd_orphanPend { s with plainMem := x10, bootA := x0, bootB := x1, geom := x2, chunks := x3, seqs := x4, pins := x5, nsKeys := x6, frames := x7, images := x8, gens := x9, poisonLines := x11, orphanLines := x12, extents := x13, released := x14, snoopFilter := x15, qps := x16, qpKeys := x17 } x18)).step (upd_eraseLists { s with plainMem := x10, bootA := x0, bootB := x1, geom := x2, chunks := x3, seqs := x4, pins := x5, nsKeys := x6, frames := x7, images := x8, gens := x9, poisonLines := x11, orphanLines := x12, extents := x13, released := x14, snoopFilter := x15, qps := x16, qpKeys := x17, orphanPend := x18 } x19)).step (upd_saved { s with plainMem := x10, bootA := x0, bootB := x1, geom := x2, chunks := x3, seqs := x4, pins := x5, nsKeys := x6, frames := x7, images := x8, gens := x9, poisonLines := x11, orphanLines := x12, extents := x13, released := x14, snoopFilter := x15, qps := x16, qpKeys := x17, orphanPend := x18, eraseLists := x19 } x20)).step (upd_ideKeys { s with plainMem := x10, bootA := x0, bootB := x1, geom := x2, chunks := x3, seqs := x4, pins := x5, nsKeys := x6, frames := x7, images := x8, gens := x9, poisonLines := x11, orphanLines := x12, extents := x13, released := x14, snoopFilter := x15, qps := x16, qpKeys := x17, orphanPend := x18, eraseLists := x19, saved := x20 } x21)).step (upd_dataKeys { s with plainMem := x10, bootA := x0, bootB := x1, geom := x2, chunks := x3, seqs := x4, pins := x5, nsKeys := x6, frames := x7, images := x8, gens := x9, poisonLines := x11, orphanLines := x12, extents := x13, released := x14, snoopFilter := x15, qps := x16, qpKeys := x17, orphanPend := x18, eraseLists := x19, saved := x20, ideKeys := x21 } x22)).step (upd_sealReq { s with plainMem := x10, bootA := x0, bootB := x1, geom := x2, chunks := x3, seqs := x4, pins := x5, nsKeys := x6, frames := x7, images := x8, gens := x9, poisonLines := x11, orphanLines := x12, extents := x13, released := x14, snoopFilter := x15, qps := x16, qpKeys := x17, orphanPend := x18, eraseLists := x19, saved := x20, ideKeys := x21, dataKeys := x22 } x23)).step (upd_memKey { s with plainMem := x10, bootA := x0, bootB := x1, geom := x2, chunks := x3, seqs := x4, pins := x5, nsKeys := x6, frames := x7, images := x8, gens := x9, poisonLines := x11, orphanLines := x12, extents := x13, released := x14, snoopFilter := x15, qps := x16, qpKeys := x17, orphanPend := x18, eraseLists := x19, saved := x20, ideKeys := x21, dataKeys := x22, sealReq := x23 } x24)).step (upd_ownerCerts { s with plainMem := x10, bootA := x0, bootB := x1, geom := x2, chunks := x3, seqs := x4, pins := x5, nsKeys := x6, frames := x7, images := x8, gens := x9, poisonLines := x11, orphanLines := x12, extents := x13, released := x14, snoopFilter := x15, qps := x16, qpKeys := x17, orphanPend := x18, eraseLists := x19, saved := x20, ideKeys := x21, dataKeys := x22, sealReq := x23, memKey := x24 } x25)

theorem upd_cacheSf_metaSf_rowN (x0 : Nat) (x1 : Nat) (x2 : Nat) :
    Keeps 1231453023109120 s { s with cacheSf := x0, metaSf := x1, rowN := x2 } :=
  (((Keeps.refl 1231453023109120 s).step (upd_cacheSf s x0)).step (upd_metaSf { s with cacheSf := x0 } x1)).step (upd_rowN { s with cacheSf := x0, metaSf := x1 } x2)

theorem upd_linkIn_ideKeys (x0 : NMap Word) (x1 : NMap Nat) :
    Keeps 633830135817393159265050427392 s { s with linkIn := x0, ideKeys := x1 } :=
  ((Keeps.refl 633830135817393159265050427392 s).step (upd_linkIn s x0)).step (upd_ideKeys { s with linkIn := x0 } x1)

theorem upd_plainMem_poisonLines_orphanLines (x0 : Memory) (x1 : NMap Unit) (x2 : NMap Unit) (h0 : Invariant s → x0.wf = true) :
    Keeps 2017612633061982208 s { s with plainMem := x0, poisonLines := x1, orphanLines := x2 } :=
  (((Keeps.refl 2017612633061982208 s).step (upd_plainMem s x0 h0)).step (upd_poisonLines { s with plainMem := x0 } x1)).step (upd_orphanLines { s with plainMem := x0, poisonLines := x1 } x2)

theorem upd_cacheSf_rowN (x0 : Nat) (x1 : Nat) :
    Keeps 1161084278931456 s { s with cacheSf := x0, rowN := x1 } :=
  ((Keeps.refl 1161084278931456 s).step (upd_cacheSf s x0)).step (upd_rowN { s with cacheSf := x0 } x1)

theorem upd_evPolicy_sessions (x0 : NMap Nat) (x1 : NMap Session) :
    Keeps 158495010654756343320678498304 s { s with evPolicy := x0, sessions := x1 } :=
  ((Keeps.refl 158495010654756343320678498304 s).step (upd_evPolicy s x0)).step (upd_sessions { s with evPolicy := x0 } x1)

theorem upd_capRecs_capFail_capFatal (x0 : List CapRec) (x1 : Nat) (x2 : Nat) (h0 : Invariant s → x0.length ≤ 4096) :
    Keeps 53248 s { s with capRecs := x0, capFail := x1, capFatal := x2 } :=
  (((Keeps.refl 53248 s).step (upd_capRecs s x0 h0)).step (upd_capFail { s with capRecs := x0 } x1)).step (upd_capFatal { s with capRecs := x0, capFail := x1 } x2)

theorem upd_replaceN_power (x0 : Bool) (x1 : Power) :
    Keeps 31901471898837980949691369446728269824 s { s with replaceN := x0, power := x1 } :=
  ((Keeps.refl 31901471898837980949691369446728269824 s).step (upd_replaceN s x0)).step (upd_power { s with replaceN := x0 } x1)

theorem upd_buckets_viewWaits_lineQ (x0 : NMap Bucket) (x1 : List ViewWait) (x2 : List LineReq) :
    Keeps 73823005092930912256 s { s with buckets := x0, viewWaits := x1, lineQ := x2 } :=
  (((Keeps.refl 73823005092930912256 s).step (upd_buckets s x0)).step (upd_viewWaits { s with buckets := x0 } x1)).step (upd_lineQ { s with buckets := x0, viewWaits := x1 } x2)

theorem upd_nsKeys_dataKeys (x0 : NMap Wide) (x1 : NMap Nat) :
    Keeps 1267650600228229403695726460928 s { s with nsKeys := x0, dataKeys := x1 } :=
  ((Keeps.refl 1267650600228229403695726460928 s).step (upd_nsKeys s x0)).step (upd_dataKeys { s with nsKeys := x0 } x1)

theorem upd_chunks_seqs_pins_saved (x0 : NMap Chunk) (x1 : NMap Seq) (x2 : NMap PinRec) (x3 : Saved) :
    Keeps 39614081257132170720917323776 s { s with chunks := x0, seqs := x1, pins := x2, saved := x3 } :=
  ((((Keeps.refl 39614081257132170720917323776 s).step (upd_chunks s x0)).step (upd_seqs { s with chunks := x0 } x1)).step (upd_pins { s with chunks := x0, seqs := x1 } x2)).step (upd_saved { s with chunks := x0, seqs := x1, pins := x2 } x3)

theorem upd_spools_comps_pbase (x0 : NMap Spool) (x1 : NMap CompSpool) (x2 : NMap Nat) :
    Keeps 72057619807731712 s { s with spools := x0, comps := x1, pbase := x2 } :=
  (((Keeps.refl 72057619807731712 s).step (upd_spools s x0)).step (upd_comps { s with spools := x0 } x1)).step (upd_pbase { s with spools := x0, comps := x1 } x2)

theorem upd_bootA_bootB (x0 : Option Pattern) (x1 : Option Pattern) :
    Keeps 50331648 s { s with bootA := x0, bootB := x1 } :=
  ((Keeps.refl 50331648 s).step (upd_bootA s x0)).step (upd_bootB { s with bootA := x0 } x1)

end Sys2Proof.Machine
end

