-- ==== Sys2Proof/Laws/FramesBase.lean ====
section
/-!
SUPPORT. The frames of the basic updates of registers, and masks of registers.
-/

set_option Elab.async false
namespace Sys2Proof.Machine

/-- The bit of a register in a mask. -/
def regBit (k : RegKind) : Nat := 2 ^ 128 * 2 ^ k.ctorIdx

theorem regBit_idx (k : RegKind) : (regBit k).testBit (Part.reg k).idx = true := by
  rw [regBit, ← Nat.pow_add]; exact Nat.testBit_two_pow_self

theorem State.setReg_keeps (s : State) (k : RegKind) (i : Nat) (w : Word) : Keeps (regBit k) s (s.setReg k i w) := ⟨by
  intro p hp
  cases p with
  | reg j =>
    intro n
    rw [State.reg_setReg, if_neg]
    rintro ⟨rfl, _⟩
    rw [regBit_idx] at hp; exact Bool.noConfusion hp
  | _ => rfl, fun i => { i with }⟩

theorem State.resetReg_keeps (s : State) (k : RegKind) (i : Nat) : Keeps (regBit k) s (s.resetReg k i) := ⟨by
  intro p hp
  cases p with
  | reg j =>
    intro n
    rw [State.reg_resetReg, if_neg]
    rintro ⟨rfl, _⟩
    rw [regBit_idx] at hp; exact Bool.noConfusion hp
  | _ => rfl, fun i => { i with }⟩

theorem State.setFld_keeps (s : State) (f : Field) (v i : Nat) : Keeps (regBit f.reg) s (s.setFld f v i) := State.setReg_keeps ..

theorem State.addFld_keeps (s : State) (f : Field) (k i : Nat) : Keeps (regBit f.reg) s (s.addFld f k i) := State.setReg_keeps ..

theorem State.incFld_keeps (s : State) (f : Field) (k i : Nat) : Keeps (regBit f.reg) s (s.incFld f k i) := State.setReg_keeps ..


/-- The state of a write's answer, where it has one. -/
def WriteRes.st? : WriteRes → Option State
  | .done s => some s
  | .poisoned s => some s
  | .room _ => none

/-- The state of an error's answer. -/
def errSt {α β : Type} : Except (State × α) β → Option State
  | .error e => some e.1
  | .ok _ => none

theorem State.setFldAt {k : RegKind} (s : State) (f : Field) (v i : Nat) (h : f.reg = k) : Keeps (regBit k) s (s.setFld f v i) := h ▸ State.setFld_keeps s f v i

theorem State.addFldAt {k : RegKind} (s : State) (f : Field) (n i : Nat) (h : f.reg = k) : Keeps (regBit k) s (s.addFld f n i) := h ▸ State.addFld_keeps s f n i

theorem State.incFldAt {k : RegKind} (s : State) (f : Field) (n i : Nat) (h : f.reg = k) : Keeps (regBit k) s (s.incFld f n i) := h ▸ State.incFld_keeps s f n i

/-- The mask of every register. -/
def allRegs : Nat := 2 ^ 128 * (2 ^ 169 - 1)

theorem regBit_allRegs (k : RegKind) : regBit k ||| allRegs = allRegs := by cases k <;> decide

theorem regBit_sub {v : Nat} (k : RegKind) (h : allRegs ||| v = v := by decide) : regBit k ||| v = v := by
  rw [← h, ← Nat.or_assoc, regBit_allRegs]

theorem upd_regs (s : State) (x : NMap Word) : Keeps allRegs s { s with regs := x } := ⟨by
  intro p hp
  cases p with
  | reg j =>
    have h : (regBit j ||| allRegs).testBit (Part.reg j).idx = false := by rw [regBit_allRegs]; exact hp
    rw [Nat.testBit_or, regBit_idx] at h
    exact Bool.noConfusion h
  | _ => rfl, fun i => { i with }⟩

theorem upd_regs_geoUpd (s : State) (x : NMap Word) (y : Bool) : Keeps (allRegs ||| 512) s { s with regs := x, geoUpd := y } :=
  ((Keeps.refl (allRegs ||| 512) s).step (upd_regs s x)).step (upd_geoUpd { s with regs := x } y)

theorem RegKind.fields_reg (k : RegKind) : ∀ f ∈ k.fields, f.reg = k := by cases k <;> decide

/-! ### What keeps the form of the state -/

theorem lastN_length_le {α : Type} (n : Nat) (l : List α) : (lastN n l).length ≤ n := by
  unfold lastN; rw [List.length_drop]; omega

theorem mergeNewest_length (p : LogRec → Bool) (l : List LogRec) : (mergeNewest p l).length = l.length := by
  have h (l : List LogRec) : (mergeNewest.go p l).length = l.length := by
    induction l with
    | nil => rfl
    | cons r l ih => unfold mergeNewest.go; split <;> simp [ih]
  simp [mergeNewest, h]

/-- A record added to a log that has room. -/
theorem eventLog_add {s : State} (i : Invariant s) (r : EventRec) (fn : Nat) (h : (s.eventLog fn r.log).length < 1024) (fn' log : Nat) :
    (({ s with events := mapIns fn ((mapFind s.events fn).getD [] ++ [r]) s.events } : State).eventLog fn' log).length ≤ 1024 := by
  have hi := i.events fn' log
  unfold State.eventLog at h hi ⊢
  simp only [mapFind_mapIns]
  by_cases hf : fn = fn'
  · subst hf
    by_cases hl : r.log = log
    · subst hl; simp [List.filter_append]; omega
    · simpa [List.filter_append, hl] using hi
  · simpa [hf] using hi

/-- Records taken out of a function's logs. -/
theorem eventLog_filter {s : State} (i : Invariant s) (fn : Nat) (p : EventRec → Bool) (fn' log : Nat) :
    (({ s with events := mapUpd fn (fun l => l.filter p) s.events } : State).eventLog fn' log).length ≤ 1024 := by
  have hi := i.events fn' log
  unfold State.eventLog at hi ⊢
  simp only [mapFind_mapUpd]
  by_cases hf : fn = fn'
  · subst hf
    rw [if_pos rfl]
    cases hm : mapFind s.events fn with
    | none => simp
    | some l =>
      rw [hm] at hi
      simp only [Option.map_some, Option.getD_some] at hi ⊢
      exact Nat.le_trans ((List.filter_sublist.filter _).length_le) hi
  · simpa [hf] using hi

theorem countEvent_logs (code stack : Nat) (l : List EventRec) : (State.countEvent.go code stack l).map (fun e => e.log) = l.map fun e => e.log := by
  induction l with
  | nil => rfl
  | cons e l ih => unfold State.countEvent.go; split <;> simp [ih]

/-- Records of a function changed with each one's log as it was. -/
theorem eventLog_map {s : State} (i : Invariant s) (fn : Nat) (f : List EventRec → List EventRec) (hf : ∀ l, (f l).map (fun e => e.log) = l.map fun e => e.log)
    (fn' log : Nat) : (({ s with events := mapUpd fn f s.events } : State).eventLog fn' log).length ≤ 1024 := by
  have hi := i.events fn' log
  unfold State.eventLog at hi ⊢
  simp only [mapFind_mapUpd]
  by_cases hn : fn = fn'
  · subst hn
    rw [if_pos rfl]
    cases hm : mapFind s.events fn with
    | none => simp
    | some l =>
      rw [hm] at hi
      simp only [Option.map_some, Option.getD_some] at hi ⊢
      have hc (m : List EventRec) : (m.filter fun e => e.log == log).length = (m.map fun e => e.log).countP fun n => n == log := by
        rw [← List.countP_eq_length_filter, List.countP_map]; rfl
      rw [hc, hf, ← hc]; exact hi
  · simpa [hn] using hi

end Sys2Proof.Machine
end

