-- ==== Sys2Proof/Laws/FramesStore.lean ====
section
/-!
SUPPORT. What each operation on registers, LOG, spools, the prefix store, pages, flash and attention may have changed: one lemma for each, its mask in the numbering of `Part.idx`.
-/

set_option Elab.async false
namespace Sys2Proof.Machine

theorem State.setComp_keeps (s t m c) : Keeps 17179869184 s (State.setComp s t m c) := by
  unfold State.setComp
  refine .step ?_ (upd_comps ..)
  exact .refl ..

theorem State.pushDone_keeps (s t m d) : Keeps 17179869184 s (State.pushDone s t m d) := by
  unfold State.pushDone
  extract_lets l0
  refine .step ?_ (State.setComp_keeps ..)
  exact .refl ..

theorem State.finish_keeps (s c code r0 r1) : Keeps 2854495385411919762116571938898990358664839168 s (State.finish s c code r0 r1) := by
  unfold State.finish
  extract_lets l1 l2
  refine .have_ (t := l1) ?_ fun h3 => ?_
  · unfold l1
    refine .step ?_ (upd_inflight ..)
    exact .refl ..
  refine .step ?_ (State.pushDone_keeps ..)
  unfold l2
  refine .ite (fun _ => ?_) fun _ => ?_
  · refine .step ?_ (State.setFld_keeps ..)
    exact h3
  · exact h3

theorem State.fail_keeps (s c code detail) : Keeps 2854495385411919762116571938898990358664839168 s (State.fail s c code detail) := by
  unfold State.fail
  refine .step ?_ (State.finish_keeps ..)
  exact .refl ..

theorem State.emit_keeps (s o) : Keeps 8 s (State.emit s o) := by
  unfold State.emit
  refine .step ?_ (upd_out ..)
  exact .refl ..

theorem State.snapshot_keeps (s) : Keeps 8192 s (State.snapshot s) := by
  unfold State.snapshot
  refine .step ?_ (upd_capSnaps (hx := fun _ => lastN_length_le ..) ..)
  exact .refl ..

theorem State.capsule_keeps (s level code island addr) : Keeps 61440 s (State.capsule s level code island addr) := by
  unfold State.capsule
  refine .ite (fun _ => ?_) fun _ => ?_
  · exact .refl ..
  · extract_lets l11
    refine .have_ (t := l11) ?_ fun h12 => ?_
    · unfold l11
      refine .step ?_ (upd_capRecs_capFail_capFatal (h0 := fun _ => lastN_length_le ..) ..)
      exact .refl ..
    refine .ite (fun _ => ?_) fun _ => ?_
    · refine .step ?_ (State.snapshot_keeps ..)
      exact h12
    · exact h12

theorem State.mctpEvent_keeps (s sensor reading) : Keeps 128 s (State.mctpEvent s sensor reading) := by
  unfold State.mctpEvent
  refine .step ?_ (upd_mctp ..)
  exact .refl ..

theorem State.logAppend_keeps (s code sev island tenant a0 a1) : Keeps 71614546043009276470375043733142200974465685714818071311426812672614967569804806076821664 s (State.logAppend s code sev island tenant a0 a1) := by
  unfold State.logAppend
  extract_lets l13 l14 l15 l16 l17 l18 l19
  refine .have_ (t := l19) ?_ fun h20 => ?_
  · unfold l19
    refine .step ?_ (State.capsule_keeps ..)
    unfold l18
    refine .step ?_ (State.addFldAt (k := .LOG_SEV) (h := by unfold sevField; (repeat' split) <;> rfl) ..)
    unfold l17
    refine .step ?_ (State.incFld_keeps ..)
    unfold l16
    refine .step ?_ (State.incFld_keeps ..)
    unfold l15
    refine .step ?_ (upd_log (hx := fun _ => by rw [List.length_drop]; show _ - (_ - 8192) ≤ _; omega) ..)
    exact .refl ..
  refine .ite (fun _ => ?_) fun _ => ?_
  · refine .step ?_ (State.mctpEvent_keeps ..)
    exact h20
  · exact h20

theorem State.logEv_keeps (s code sev island tenant a0 a1) : Keeps 71614546043009276470375043733142200974465685714818071311426812672614967569804806076821664 s (State.logEv s code sev island tenant a0 a1) := by
  unfold State.logEv
  refine .ite (fun _ => ?_) fun _ => ?_
  · refine .step ?_ (upd_log (hx := fun i => by rw [mergeNewest_length]; exact i.log) ..)
    exact .refl ..
  · refine .step ?_ (State.logAppend_keeps ..)
    exact .refl ..

theorem State.cxlEvent_keeps (s fn log code island stack cause addr) : Keeps 19342813113834066795298888 s (State.cxlEvent s fn log code island stack cause addr) := by
  unfold State.cxlEvent
  refine .ite (fun _ => ?_) fun hroom => ?_
  · refine .step ?_ (upd_evLost ..)
    exact .refl ..
  · extract_lets l29 l30
    refine .have_ (t := l30) ?_ fun h31 => ?_
    · unfold l30
      refine .step ?_ (upd_events (hx := fun i => eventLog_add i _ fn (Nat.lt_of_not_le hroom)) ..)
      exact .refl ..
    refine .ite (fun _ => ?_) fun _ => ?_
    · refine .step ?_ (State.emit_keeps ..)
      exact h31
    · exact h31

theorem State.cxlNote_keeps (s fn level code arg0 arg1) : Keeps 71614546043009276470375043733142200974465685714818071311426812691957780683638872872120552 s (State.cxlNote s fn level code arg0 arg1) := by
  unfold State.cxlNote
  refine .step ?_ (State.logEv_keeps ..)
  refine .step ?_ (State.cxlEvent_keeps ..)
  exact .refl ..

theorem State.snoop_keeps (s x) : Keeps 36893488147419103240 s (State.snoop s x) := by
  unfold State.snoop
  refine .step ?_ (State.emit_keeps ..)
  refine .step ?_ (upd_snoops ..)
  exact .refl ..

theorem State.grant_keeps (s l h excl) : Keeps 18446744073709551616 s (State.grant s l h excl) := by
  unfold State.grant
  extract_lets l32
  split
  · refine .step ?_ (upd_snoopFilter ..)
    exact .refl ..
  · refine .step ?_ (upd_snoopFilter ..)
    exact .refl ..

theorem State.respond_keeps (s h c) : Keeps 8 s (State.respond s h c) := by
  unfold State.respond
  refine .step ?_ (State.emit_keeps ..)
  exact .refl ..

theorem State.respondData_keeps (s h bytes poison c) : Keeps 8 s (State.respondData s h bytes poison c) := by
  unfold State.respondData
  refine .step ?_ (State.respond_keeps ..)
  refine .step ?_ (State.emit_keeps ..)
  exact .refl ..

theorem State.putLine_keeps (s l bs) : Keeps 2017612633061982208 s (State.putLine s l bs) := by
  unfold State.putLine
  extract_lets l33
  refine .have_ (t := l33) ?_ fun h34 => ?_
  · unfold l33
    refine .step ?_ (upd_plainMem (hx := fun i => Memory.wf_writeMasked i.plain _ _) ..)
    exact .refl ..
  refine .ite (fun _ => ?_) fun _ => ?_
  · refine .step ?_ (upd_poisonLines_orphanLines ..)
    exact h34
  · exact h34

theorem State.serve_keeps (s r) : Keeps 62165404551223330269422781018352605012557018849668464680057997111665401483273443475464 s (State.serve s r) := by
  unfold State.serve
  extract_lets l35 l36 l37
  refine .have_ (t := l37) ?_ fun h38 => ?_
  · unfold l37
    split
    · exact .refl ..
    · refine .ite (fun _ => ?_) fun _ => ?_
      · refine .step ?_ (State.addFld_keeps ..)
        exact .refl ..
      · exact .refl ..
  split
  · refine .step ?_ (State.respond_keeps ..)
    refine .step ?_ (State.emit_keeps ..)
    refine .step ?_ (State.grant_keeps ..)
    exact h38
  · refine .step ?_ (State.respond_keeps ..)
    refine .step ?_ (State.emit_keeps ..)
    refine .step ?_ (State.grant_keeps ..)
    exact h38
  · refine .step ?_ (State.respondData_keeps ..)
    exact h38
  · refine .step ?_ (State.respond_keeps ..)
    refine .ite (fun _ => ?_) fun _ => ?_
    · exact h38
    · refine .step ?_ (State.putLine_keeps ..)
      exact h38
  · refine .step ?_ (State.putLine_keeps ..)
    exact h38
  · exact h38

theorem State.pumpLine_keeps (s l a2) : Keeps 64108073443449059340342242925176123919199425688720604201309809521514986232920909283336 s (State.pumpLine s l a2) := by
  induction a2 generalizing s l
  · rw [State.pumpLine]
    exact .refl ..
  · rename_i n_ ih
    rw [State.pumpLine]
    split
    · exact .refl ..
    · extract_lets l39 l40 l41 l42 l43 l44
      refine .have_ (t := l43) ?_ fun h45 => ?_
      · unfold l43
        refine .step ?_ (upd_lineQ ..)
        exact .refl ..
      refine .ite (fun _ => ?_) fun _ => ?_
      · refine .ite (fun _ => ?_) fun _ => ?_
        · refine .step ?_ (ih ..)
          refine .step ?_ (State.serve_keeps ..)
          refine .step ?_ (upd_lineQ ..)
          exact .refl ..
        · exact .refl ..
      · refine .ite (fun _ => ?_) fun _ => ?_
        · refine .step ?_ (ih ..)
          refine .step ?_ (State.serve_keeps ..)
          refine .step ?_ (upd_lineQ ..)
          exact .refl ..
        · refine .foldl ?_ fun u a => ?_
          · unfold l44
            refine .ite (fun _ => ?_) fun _ => ?_
            · exact h45
            · refine .step ?_ (State.addFld_keeps ..)
              exact h45
          · refine .step ?_ (State.snoop_keeps ..)
            exact .refl ..

theorem State.request_keeps (s r) : Keeps 64108073443449059340342242925176123919199425688720604201309809521514986232920909283336 s (State.request s r) := by
  unfold State.request
  extract_lets l46
  refine .have_ (t := l46) ?_ fun h47 => ?_
  · unfold l46
    refine .step ?_ (upd_lineQ ..)
    exact .refl ..
  refine .step ?_ (State.pumpLine_keeps ..)
  exact h47

theorem State.engineWrite_keeps (s a bs) : Keeps 64108073443449059340342242925176123919199425688720604201309809521514986232920909283336 s (State.engineWrite s a bs) := by
  unfold State.engineWrite
  refine .foldl ?_ fun u a => ?_
  · exact .refl ..
  · refine .step ?_ (State.request_keeps ..)
    exact .refl ..

theorem State.countUnbacked_keeps (s) : Keeps 62165404551223330269422781018352605012557018849668464680057997111644937126566671941632 s (State.countUnbacked s) := by
  unfold State.countUnbacked
  refine .step ?_ (State.addFld_keeps ..)
  exact .refl ..

theorem State.setPin_keeps (s t h p) : Keeps 1099511627776 s (State.setPin s t h p) := by
  unfold State.setPin
  refine .step ?_ (upd_pins ..)
  exact .refl ..

theorem State.addPin_keeps (s t res h) : Keeps 1099511627776 s (State.addPin s t res h) := by
  unfold State.addPin
  extract_lets l98
  refine .step ?_ (State.setPin_keeps ..)
  exact .refl ..

theorem State.swapTail_keeps (s q h) : Keeps 549755813888 s (State.swapTail s q h) := by
  unfold State.swapTail
  refine .step ?_ (upd_seqs ..)
  exact .refl ..

theorem State.freeChunks_keeps (s) : Keeps 275414777856 s (State.freeChunks s) := by
  unfold State.freeChunks
  extract_lets l99
  refine .step ?_ (upd_geom_chunks ..)
  exact .refl ..

theorem State.freeImages_keeps (s) : Keeps 17592186044416 s (State.freeImages s) := by
  unfold State.freeImages
  refine .step ?_ (upd_images ..)
  exact .refl ..

theorem State.freeGens_keeps (s) : Keeps 200867255532373784442745261542645325315275376474648918097920 s (State.freeGens s) := by
  unfold State.freeGens
  extract_lets l100 l101 l102 l103
  refine .have_ (t := l103) ?_ fun h104 => ?_
  · unfold l103
    refine .step ?_ (upd_gens ..)
    exact .refl ..
  refine .ite (fun _ => ?_) fun _ => ?_
  · refine .step ?_ (State.setFld_keeps ..)
    exact h104
  · exact h104

theorem State.freeFrames_keeps (s) : Keeps 13194139533312 s (State.freeFrames s) := by
  unfold State.freeFrames
  extract_lets l105 l106 l107
  refine .have_ (t := l106) ?_ fun h108 => ?_
  · unfold l106
    refine .step ?_ (upd_frames_epochs ..)
    exact .refl ..
  refine .step ?_ (upd_frames ..)
  exact h108

theorem State.ladder_keeps (s) : Keeps 6129982163463555433433388108601236734475237963711119360 s (State.ladder s) := by
  unfold State.ladder
  extract_lets l109 l110 l111 l112 l113 l114 l115
  refine .step ?_ (State.setReg_keeps ..)
  refine .step ?_ (upd_dropPaused ..)
  exact .refl ..

theorem State.reclaim_keeps (s) : Keeps 200873385514537247998178694930753926552009851743674369572864 s (State.reclaim s) := by
  unfold State.reclaim
  refine .step ?_ (State.ladder_keeps ..)
  refine .step ?_ (State.freeGens_keeps ..)
  refine .step ?_ (State.freeImages_keeps ..)
  refine .step ?_ (State.freeFrames_keeps ..)
  refine .step ?_ (State.freeChunks_keeps ..)
  exact .refl ..

theorem State.adopt_keeps (s c q h) : Keeps 200873385514540102493564106850516043123948750734582790225920 s (State.adopt s c q h) := by
  unfold State.adopt
  extract_lets l116
  refine .have_ (t := l116) ?_ fun h117 => ?_
  · unfold l116
    refine .step ?_ (State.swapTail_keeps ..)
    exact .refl ..
  refine .step ?_ (State.reclaim_keeps ..)
  refine .step ?_ (State.finish_keeps ..)
  exact h117

theorem State.keyWrites_keeps (s row k) : Keeps 3705346855594118253554271520278013051304639509341062868469946029101114651049984 s (State.keyWrites s row k) := by
  unfold State.keyWrites
  extract_lets l118 l119
  refine .have_ (t := l119) ?_ fun h120 => ?_
  · unfold l119
    refine .step ?_ (upd_keyRows ..)
    exact .refl ..
  refine .ite (fun _ => ?_) fun _ => ?_
  · refine .step ?_ (State.setFld_keeps ..)
    exact h120
  · exact h120

theorem State.keyWrite_keeps (s row) : Keeps 3705346855594118253554271520278013051304639509341062868469946029101114651049984 s (State.keyWrite s row) := by
  unfold State.keyWrite
  refine .step ?_ (State.keyWrites_keeps ..)
  exact .refl ..

theorem State.setSpool_keeps (s t n p) : Keeps 8589934592 s (State.setSpool s t n p) := by
  unfold State.setSpool
  refine .step ?_ (upd_spools ..)
  exact .refl ..

theorem State.countEnd_keeps (s op code) : Keeps 51422017422273999523850165307879496355516391049560070425673728 s (State.countEnd s op code) := by
  unfold State.countEnd
  refine .ite (fun _ => ?_) fun _ => ?_
  · refine .step ?_ (State.addFld_keeps ..)
    exact .refl ..
  · refine .ite (fun _ => ?_) fun _ => ?_
    · refine .step ?_ (State.addFld_keeps ..)
      exact .refl ..
    · exact .refl ..

theorem State.cancelHeld_keeps (s t n seq hdr detail) : Keeps 51422017422273999523850165307879496355516391049560087605542912 s (State.cancelHeld s t n seq hdr detail) := by
  unfold State.cancelHeld
  refine .step ?_ (State.pushDone_keeps ..)
  refine .step ?_ (State.countEnd_keeps ..)
  exact .refl ..

theorem State.cancelCut_keeps (s c detail) : Keeps 51422017422274002378345550719799258472088329948550429090512896 s (State.cancelCut s c detail) := by
  unfold State.cancelCut
  refine .step ?_ (State.fail_keeps ..)
  refine .step ?_ (State.countEnd_keeps ..)
  exact .refl ..

theorem State.cancelSpool_keeps (s t n detail) : Keeps 51422017422274002378345550719799258472088329948550429090512896 s (State.cancelSpool s t n detail) := by
  unfold State.cancelSpool
  extract_lets l123 l124
  split
  · refine .foldl ?_ fun u a => ?_
    · exact .refl ..
    · refine .step ?_ (State.cancelHeld_keeps ..)
      exact .refl ..
  · refine .foldl ?_ fun u a => ?_
    · refine .step ?_ (State.cancelCut_keeps ..)
      exact .refl ..
    · refine .step ?_ (State.cancelHeld_keeps ..)
      exact .refl ..

theorem State.emptySpools_keeps (s t) : Keeps 51422017422309078417641492389836146908073520741022180061478912 s (State.emptySpools s t) := by
  unfold State.emptySpools
  refine .foldl ?_ fun u a => ?_
  · exact .refl ..
  · extract_lets l125 l126 l127 l128 l129
    refine .have_ (t := l126) ?_ fun h130 => ?_
    · unfold l126
      refine .step ?_ (State.cancelSpool_keeps ..)
      exact .refl ..
    refine .have_ (t := l128) ?_ fun h131 => ?_
    · unfold l128
      refine .step ?_ (State.setSpool_keeps ..)
      exact h130
    refine .step ?_ (State.setReg_keeps ..)
    unfold l129
    refine .step ?_ (State.setFld_keeps ..)
    exact h131

theorem State.setUnit_keeps (s u x) : Keeps 154742504910672534362390528 s (State.setUnit s u x) := by
  unfold State.setUnit
  refine .step ?_ (upd_units ..)
  exact .refl ..

theorem State.advanceRing_keeps (s g) : Keeps 3249592603124123221610201088 s (State.advanceRing s g) := by
  unfold State.advanceRing
  extract_lets l144 l145 l146 l147
  refine .have_ (t := l147) ?_ fun h148 => ?_
  · unfold l147
    refine .step ?_ (State.setUnit_keeps ..)
    exact .refl ..
  refine .step ?_ (upd_eraseLists_journalUnit ..)
  exact h148

theorem State.setRlink_keeps (s l x) : Keeps 1180591620717411303424 s (State.setRlink s l x) := by
  unfold State.setRlink
  refine .step ?_ (upd_rlinks ..)
  exact .refl ..

theorem State.ringEmit_keeps (s l x) : Keeps 1180591620717411303432 s (State.ringEmit s l x) := by
  unfold State.ringEmit
  extract_lets l149
  refine .step ?_ (State.emit_keeps ..)
  refine .step ?_ (State.setRlink_keeps ..)
  exact .refl ..

theorem State.pumpLink_keeps (s l a2) : Keeps 3541774862152233910280 s (State.pumpLink s l a2) := by
  induction a2 generalizing s l
  · rw [State.pumpLink]
    exact .refl ..
  · rename_i n_ ih
    rw [State.pumpLink]
    split
    · exact .refl ..
    · split
      · exact .refl ..
      · refine .ite (fun _ => ?_) fun _ => ?_
        · refine .step ?_ (ih ..)
          refine .step ?_ (State.ringEmit_keeps ..)
          refine .step ?_ (upd_ringOut ..)
          exact .refl ..
        · exact .refl ..

theorem State.ringPut_keeps (s l x) : Keeps 3541774862152233910280 s (State.ringPut s l x) := by
  unfold State.ringPut
  extract_lets l150
  refine .have_ (t := l150) ?_ fun h151 => ?_
  · unfold l150
    refine .step ?_ (upd_ringOut ..)
    exact .refl ..
  refine .step ?_ (State.pumpLink_keeps ..)
  exact h151

theorem State.ringSend_keeps (s dst x) : Keeps 3541774862152233910280 s (State.ringSend s dst x) := by
  unfold State.ringSend
  refine .step ?_ (State.ringPut_keeps ..)
  exact .refl ..

theorem State.downgrade_keeps (s l h) : Keeps 18446744073709551616 s (State.downgrade s l h) := by
  unfold State.downgrade
  refine .step ?_ (upd_snoopFilter ..)
  exact .refl ..

theorem State.dropHolder_keeps (s l h) : Keeps 18446744073709551616 s (State.dropHolder s l h) := by
  unfold State.dropHolder
  refine .step ?_ (upd_snoopFilter ..)
  exact .refl ..

theorem State.noteCur_keeps (s x) : Keeps 590295810427425128448 s (State.noteCur s x) := by
  unfold State.noteCur
  split
  · refine .ite (fun _ => ?_) fun _ => ?_
    · refine .step ?_ (upd_curLog ..)
      exact .refl ..
    · refine .step ?_ (upd_inflight ..)
      exact .refl ..
  · exact .refl ..

theorem State.answerSnoop_keeps (s x data) : Keeps 64108073443449059340342242925176123919199425688720604201309809522105282043348334411784 s (State.answerSnoop s x data) := by
  unfold State.answerSnoop
  extract_lets l152 l153 l154 l155 l156 l157
  refine .have_ (t := l152) ?_ fun h158 => ?_
  · unfold l152
    refine .step ?_ (upd_snoops ..)
    exact .refl ..
  refine .have_ (t := l153) ?_ fun h159 => ?_
  · unfold l153
    split
    · extract_lets l160
      exact h158
    · refine .step ?_ (upd_plainMem (hx := fun i => Memory.wf_write i.plain _ _) ..)
      exact h158
    · exact h158
  refine .have_ (t := l155) ?_ fun h161 => ?_
  · unfold l155
    refine .step ?_ (State.noteCur_keeps ..)
    unfold l154
    split
    · refine .step ?_ (State.dropHolder_keeps ..)
      exact h159
    · refine .step ?_ (State.dropHolder_keeps ..)
      exact h159
    · refine .step ?_ (State.downgrade_keeps ..)
      exact h159
    · exact h159
  refine .foldl ?_ fun u a => ?_
  · unfold l157
    refine .step ?_ (upd_lineQ ..)
    exact h161
  · refine .step ?_ (State.pumpLine_keeps ..)
    exact .refl ..

theorem State.updChunk_keeps (s h f) : Keeps 274877906944 s (State.updChunk s h f) := by
  unfold State.updChunk
  refine .step ?_ (upd_chunks ..)
  exact .refl ..

theorem State.updPage_keeps (s h layer f) : Keeps 274877906944 s (State.updPage s h layer f) := by
  unfold State.updPage
  refine .step ?_ (State.updChunk_keeps ..)
  exact .refl ..

theorem State.poisonPage_keeps (s h layer) : Keeps 274877906944 s (State.poisonPage s h layer) := by
  unfold State.poisonPage
  refine .step ?_ (State.updChunk_keeps ..)
  refine .step ?_ (State.updPage_keeps ..)
  exact .refl ..

theorem State.corrupt_keeps (s h layer b k) : Keeps 71614546043009276470375043734950006274257049774802778665310620600452445937810722894442656 s (State.corrupt s h layer b k) := by
  unfold State.corrupt
  extract_lets l162 l163 l164
  refine .have_ (t := l163) ?_ fun h165 => ?_
  · unfold l163
    refine .step ?_ (State.setFld_keeps ..)
    unfold l162
    refine .step ?_ (State.addFldAt (k := .CDR_CORRUPT) (h := by unfold corruptField; (repeat' split) <;> rfl) ..)
    exact .refl ..
  refine .have_ (t := l164) ?_ fun h166 => ?_
  · unfold l164
    refine .step ?_ (State.logEv_keeps ..)
    exact h165
  split
  · refine .step ?_ (State.poisonPage_keeps ..)
    exact h166
  · extract_lets l167
    refine .step ?_ (upd_chunks ..)
    exact h166

theorem State.wake_keeps (s) : Keeps 59285549689505892056868344324448208820874232148807968788202283012051522375647232 s (State.wake s) := by
  unfold State.wake
  refine .ite (fun _ => ?_) fun _ => ?_
  · exact .refl ..
  · refine .step ?_ (State.setFld_keeps ..)
    exact .refl ..

theorem State.viewFill_keeps (s h layer f b x) : Keeps 196159429230833773869868419475239575503203111514006355968 s (State.viewFill s h layer f b x) := by
  unfold State.viewFill
  extract_lets l168 l169 l170 l171
  refine .ite (fun _ => ?_) fun _ => ?_
  · refine .step ?_ (State.addFld_keeps ..)
    refine .step ?_ (upd_viewCache ..)
    exact .refl ..
  · refine .step ?_ (State.updPage_keeps ..)
    refine .step ?_ (State.addFld_keeps ..)
    refine .step ?_ (upd_viewCache ..)
    exact .refl ..

theorem State.answerView_keeps (s host t h layer byte n) : Keeps 71614546102294826159880935791818552888116652893006314115926173229466966630494034785792168 s (State.answerView s host t h layer byte n) := by
  unfold State.answerView
  extract_lets l172 l173 l174
  refine .have_ (t := l174) ?_ fun h175 => ?_
  · unfold l174
    refine .step ?_ (State.wake_keeps ..)
    exact .refl ..
  split
  · unfold l173
    refine .step ?_ (State.respondData_keeps ..)
    exact .refl ..
  · extract_lets l176 l177 l178
    refine .have_ (t := l178) ?_ fun h179 => ?_
    · unfold l178
      split
      · split
        · refine .step ?_ (State.viewFill_keeps ..)
          exact h175
        · exact h175
      · exact h175
    refine .ite (fun _ => ?_) fun _ => ?_
    · unfold l173
      refine .step ?_ (State.respondData_keeps ..)
      exact h175
    · split
      · refine .step ?_ (State.respondData_keeps ..)
        exact h179
      · unfold l173
        refine .step ?_ (State.respondData_keeps ..)
        exact h179
      · unfold l173
        refine .step ?_ (State.respondData_keeps ..)
        refine .step ?_ (State.reclaim_keeps ..)
        refine .step ?_ (State.corrupt_keeps ..)
        exact h179

theorem State.setCmd_keeps (s c) : Keeps 68719476736 s (State.setCmd s c) := by
  unfold State.setCmd
  refine .step ?_ (upd_inflight ..)
  exact .refl ..

theorem State.freeCommand_keeps (s t n k) : Keeps 11692013098647223345629478661730264157256050278400 s (State.freeCommand s t n k) := by
  unfold State.freeCommand
  extract_lets l180 l181 l182
  refine .have_ (t := l182) ?_ fun h183 => ?_
  · unfold l182
    refine .step ?_ (State.setSpool_keeps ..)
    exact .refl ..
  refine .step ?_ (State.setFld_keeps ..)
  exact h183

theorem State.spoolError_keeps (s t n err q tag) : Keeps 23384026197294446691258957323460528314494920687616 s (State.spoolError s t n err q tag) := by
  unfold State.spoolError
  refine .ite (fun _ => ?_) fun _ => ?_
  · exact .refl ..
  · refine .step ?_ (State.setReg_keeps ..)
    exact .refl ..

theorem State.countBusy_keeps (s t) : Keeps 2787593149816327892691964784081045188247552 s (State.countBusy s t) := by
  unfold State.countBusy
  split
  · refine .step ?_ (State.addFld_keeps ..)
    exact .refl ..
  · exact .refl ..

theorem State.spoolResultEffects_keeps (s t n seq tag code) : Keeps 210456238563243170037658508603109538911499474436096 s (State.spoolResultEffects s t n seq tag code) := by
  unfold State.spoolResultEffects
  refine .ite (fun _ => ?_) fun _ => ?_
  · exact .refl ..
  · refine .ite (fun _ => ?_) fun _ => ?_
    · refine .step ?_ (State.countBusy_keeps ..)
      exact .refl ..
    · refine .ite (fun _ => ?_) fun _ => ?_
      · refine .step ?_ (State.spoolError_keeps ..)
        refine .step ?_ (State.addFld_keeps ..)
        exact .refl ..
      · refine .step ?_ (State.addFld_keeps ..)
        exact .refl ..

theorem State.finishEarly_keeps (s c) : Keeps 51422017422484458616908793889836916980691439487461928564948992 s (State.finishEarly s c) := by
  unfold State.finishEarly
  split
  · refine .step ?_ (State.spoolResultEffects_keeps ..)
    refine .step ?_ (State.fail_keeps ..)
    refine .step ?_ (State.countEnd_keeps ..)
    exact .refl ..
  · exact .refl ..

theorem State.cutOn_keeps (s t n) : Keeps 51422017422496150630007441113182546459353169751619184615227392 s (State.cutOn s t n) := by
  unfold State.cutOn
  extract_lets l184
  split
  · exact .refl ..
  · split
    · exact .refl ..
    · refine .ite (fun _ => ?_) fun _ => ?_
      · extract_lets l185
        refine .step ?_ (State.finishEarly_keeps ..)
        refine .step ?_ (State.freeCommand_keeps ..)
        refine .step ?_ (State.setCmd_keeps ..)
        exact .refl ..
      · exact .refl ..

theorem State.overrun_keeps (s t n q) : Keeps 71614546043009276470375043733142200974676144805089106743567905405098051223625533128503456 s (State.overrun s t n q) := by
  unfold State.overrun
  extract_lets l186 l187 l188 l189 l190
  refine .have_ (t := l190) ?_ fun h191 => ?_
  · unfold l190
    refine .step ?_ (State.addFld_keeps ..)
    unfold l189
    refine .step ?_ (State.setFld_keeps ..)
    unfold l188
    refine .step ?_ (State.spoolError_keeps ..)
    exact .refl ..
  refine .step ?_ (State.logEv_keeps ..)
  exact h191

theorem State.capture_keeps (s t n q cell) : Keeps 71614546043009276470375043784564218396961836344825512424609359131968137321423990692049056 s (State.capture s t n q cell) := by
  unfold State.capture
  refine .ite (fun _ => ?_) fun _ => ?_
  · refine .step ?_ (State.overrun_keeps ..)
    exact .refl ..
  · refine .ite (fun _ => ?_) fun _ => ?_
    · exact .refl ..
    · extract_lets l192 l193 l194 l195
      refine .have_ (t := l194) ?_ fun h196 => ?_
      · unfold l194
        refine .step ?_ (State.setSpool_keeps ..)
        exact .refl ..
      refine .step ?_ (State.cutOn_keeps ..)
      unfold l195
      refine .step ?_ (State.setFld_keeps ..)
      exact h196

theorem State.slotWrite_keeps (s t n slot at_ bs) : Keeps 71614546043009276470375043784564218396961836344825512424609359131968137321423990692049056 s (State.slotWrite s t n slot at_ bs) := by
  unfold State.slotWrite
  extract_lets l197 l198
  split
  · refine .step ?_ (State.capture_keeps ..)
    refine .step ?_ (State.setSpool_keeps ..)
    exact .refl ..
  · refine .step ?_ (State.setSpool_keeps ..)
    exact .refl ..

theorem State.apertureWrite_keeps (s t n a3 a4 a5) : Keeps 71614546043009276470375043784564218396961836344825512424609359131968137321423990692049056 s (State.apertureWrite s t n a3 a4 a5) := by
  induction a3 generalizing s t n a4 a5
  · rw [State.apertureWrite]
    exact .refl ..
  · rename_i n_ ih
    rw [State.apertureWrite]
    refine .ite (fun _ => ?_) fun _ => ?_
    · exact .refl ..
    · extract_lets l199
      refine .step ?_ (ih ..)
      refine .step ?_ (State.slotWrite_keeps ..)
      exact .refl ..

theorem State.appendCw_keeps (s g key hd slc fuel n acc) : Keeps.Opt 464227514732017603087171584 s ((State.appendCw s g key hd slc fuel n acc).map Prod.fst) := by
  induction fuel generalizing s n acc with
  | zero =>
    cases n with
    | zero => rw [State.appendCw]; exact .some (.refl ..)
    | succ n => rw [State.appendCw]; exact .none; exact fun h => nomatch h
  | succ fuel ih =>
    cases n with
    | zero => rw [State.appendCw]; exact .some (.refl ..)
    | succ n =>
      rw [State.appendCw]
      · split
        · exact .none
        · extract_lets x1 x2 take written x3 fill s1 s2
          refine .after ?_ (ih ..)
          exact .step (.step (.refl ..) (State.setUnit_keeps ..)) (upd_streams ..)
      · exact fun h => nomatch h

theorem State.deny_keeps (s h bar2 a) : Keeps 71614546043009276470375043733142200974467150070950787626264778474019622751814734774859936 s (State.deny s h bar2 a) := by
  unfold State.deny
  extract_lets l200 l201
  refine .have_ (t := l200) ?_ fun h202 => ?_
  · unfold l200
    refine .step ?_ (State.addFld_keeps ..)
    exact .refl ..
  refine .have_ (t := l201) ?_ fun h203 => ?_
  · unfold l201
    split
    · refine .step ?_ (State.setFld_keeps ..)
      exact h202
    · exact h202
  refine .ite (fun _ => ?_) fun _ => ?_
  · refine .step ?_ (State.logEv_keeps ..)
    refine .step ?_ (upd_denyLogAt ..)
    exact h203
  · exact h203

theorem appendSource_keeps (s c i n per hm) : Keeps.Opt 71676711447560499800644466514160553579479707089800456090944836471131267688941301446801568 s (errSt (appendSource s c i n per hm)) := by
  unfold appendSource
  extract_lets l204 l205 l206
  split
  · exact .none
  · split
    · split
      · exact .none
      · refine .some ?_
        dsimp only
        exact .refl ..
    · split
      · refine .some ?_
        dsimp only
        refine .step ?_ (State.deny_keeps ..)
        exact .refl ..
      · refine .some ?_
        dsimp only
        refine .step ?_ (State.countUnbacked_keeps ..)
        exact .refl ..
      · refine .some ?_
        dsimp only
        exact .refl ..
      · exact .none

theorem State.parityRows_keeps (s b n body) : Keeps 140737488355328 s (State.parityRows s b n body) := by
  unfold State.parityRows
  extract_lets l207
  refine .step ?_ (upd_parity ..)
  exact .refl ..

theorem State.takeSerials_keeps (s n) : Keeps 3705346855594118253554271520278013051304639509371486482875423534737035527979008 s (State.takeSerials s n) := by
  unfold State.takeSerials
  extract_lets l208 l209
  refine .have_ (t := l209) ?_ fun h210 => ?_
  · unfold l209
    refine .ite (fun _ => ?_) fun _ => ?_
    · exact .refl ..
    · refine .step ?_ (State.keyWrites_keeps ..)
      refine .step ?_ (upd_serialTop ..)
      exact .refl ..
  refine .step ?_ (upd_serial ..)
  exact h210

theorem State.tagFor_keeps (s a1) : Keeps 3705346855594118253554271520278013051304639509371486482875423534737035527979008 s (State.tagFor s a1).1 := by
  unfold State.tagFor
  split
  · dsimp only
    refine .step ?_ (State.takeSerials_keeps ..)
    exact .refl ..
  · dsimp only
    exact .refl ..

theorem State.newFrame_keeps (s picks n owner tag body) : Keeps.Opt 3705346855594118253554271520278013051304639509371486482875423534882171062845440 s ((State.newFrame s picks n owner tag body).map Prod.fst) := by
  unfold State.newFrame
  refine .map fun b _ => ?_
  refine .step ?_ (State.parityRows_keeps ..)
  refine .step ?_ (upd_frames ..)
  exact .step (.refl ..) (State.tagFor_keeps ..)

theorem State.ownFrame_keeps (s h layer c p picks content) : Keeps.Opt 3705346855594118253755144905792550299302818204302240409427433386621447385907200 s (State.ownFrame s h layer c p picks content) := by
  unfold State.ownFrame
  refine ⟨fun t e => ?_⟩
  obtain ⟨r, hr, rfl⟩ := Option.map_eq_some_iff.1 e
  refine .step ?_ (State.reclaim_keeps ..)
  refine .step ?_ (State.updPage_keeps ..)
  exact .step (.refl ..) (Keeps.Opt.elim (State.newFrame_keeps ..) (congrArg (Option.map Prod.fst) hr))

theorem State.parityByte_keeps (s b o old new) : Keeps 140737488355328 s (State.parityByte s b o old new) := by
  unfold State.parityByte
  extract_lets l211
  refine .step ?_ (upd_parity ..)
  exact .refl ..

theorem State.putFrame_keeps (s f off bs) : Keeps 145135534866432 s (State.putFrame s f off bs) := by
  unfold State.putFrame
  split
  · extract_lets l212
    refine .foldl ?_ fun u a => ?_
    · unfold l212
      refine .step ?_ (upd_frames ..)
      exact .refl ..
    · split
      · refine .step ?_ (State.parityByte_keeps ..)
        exact .refl ..
      · exact .refl ..
  · exact .refl ..

theorem writePage_keeps (s h layer off bs picks) : Keeps.Opt 71614546046714623325969161988504283924517226289662851608070215684564603950209046298030240 s (writePage s h layer off bs picks).st? := by
  unfold writePage
  split
  · refine .some ?_
    exact .refl ..
  · split
    · refine .some ?_
      exact .refl ..
    · extract_lets l213 l214 l215
      split
      · refine .some ?_
        exact .refl ..
      · split
        · unfold l215
          split
          · split
            · rename_i v216 v217
              refine .have_ (t := v216) (Keeps.Opt.elim ?_ v217) fun h218 => ?_
              · refine .after ?_ (State.ownFrame_keeps ..)
                exact .refl ..
              split
              · refine .some ?_
                refine .step ?_ (State.putFrame_keeps ..)
                exact h218
              · exact .none
            · rename_i v219
              exact .none
          · exact .none
        · split
          · split
            · refine .some ?_
              refine .step ?_ (State.poisonPage_keeps ..)
              exact .refl ..
            · split
              · refine .some ?_
                refine .step ?_ (State.putFrame_keeps ..)
                exact .refl ..
              · unfold l215
                split
                · split
                  · rename_i v221 v222
                    refine .have_ (t := v221) (Keeps.Opt.elim ?_ v222) fun h223 => ?_
                    · refine .after ?_ (State.ownFrame_keeps ..)
                      exact .refl ..
                    split
                    · refine .some ?_
                      refine .step ?_ (State.putFrame_keeps ..)
                      exact h223
                    · exact .none
                  · rename_i v224
                    exact .none
                · exact .none
          · split
            · unfold l215
              split
              · split
                · rename_i v226 v227
                  refine .have_ (t := v226) (Keeps.Opt.elim ?_ v227) fun h228 => ?_
                  · refine .after ?_ (State.ownFrame_keeps ..)
                    exact .refl ..
                  split
                  · refine .some ?_
                    refine .step ?_ (State.putFrame_keeps ..)
                    exact h228
                  · exact .none
                · rename_i v229
                  exact .none
              · exact .none
            · refine .some ?_
              refine .step ?_ (State.reclaim_keeps ..)
              refine .step ?_ (State.corrupt_keeps ..)
              exact .refl ..
            · refine .some ?_
              refine .step ?_ (State.poisonPage_keeps ..)
              exact .refl ..

theorem writeRows_keeps (s h layer picks a4) : Keeps.Opt 71614546046714623325969161988504283924517226289662851608070215684564603950209046298030240 s (writeRows s h layer picks a4).st? := by
  induction a4 generalizing s h layer picks
  · rw [writeRows]
    refine .some ?_
    exact .refl ..
  · rename_i e_ l_ ih
    rw [writeRows]
    split
    · rename_i v231 v232
      refine .have_ (t := v231) (Keeps.Opt.elim ?_ (congrArg WriteRes.st? v232)) fun h233 => ?_
      · refine .after ?_ (writePage_keeps ..)
        exact .refl ..
      refine .after ?_ (ih ..)
      exact h233
    · refine .after ?_ (writePage_keeps ..)
      exact .refl ..

theorem State.appendLayers_keeps (s c h hm picks bad undo a7 a8) : Keeps 71676711451265846656238584769522636529531247664645236387588239483080904069345627567356064 s (State.appendLayers s c h hm picks bad undo a7 a8) := by
  induction a7 generalizing s c h hm picks bad undo a8
  · rw [State.appendLayers]
    refine .step ?_ (State.reclaim_keeps ..)
    refine .ite (fun _ => ?_) fun _ => ?_
    · refine .step ?_ (State.fail_keeps ..)
      exact .refl ..
    · refine .step ?_ (State.finish_keeps ..)
      exact .refl ..
  · rename_i n_ ih
    rw [State.appendLayers]
    split
    · refine .step ?_ (State.fail_keeps ..)
      exact .refl ..
    · extract_lets l234 l235 l236 l237 l238
      split
      · rename_i v239 v240 v241 v242
        refine .have_ (t := v239) (Keeps.Opt.elim ?_ (congrArg errSt v242)) fun h243 => ?_
        · refine .after ?_ (appendSource_keeps ..)
          exact .refl ..
        refine .step ?_ (State.reclaim_keeps ..)
        refine .step ?_ (State.fail_keeps ..)
        exact h243
      · rename_i v244 v245
        split
        · rename_i v247 v248
          refine .have_ (t := v247) (Keeps.Opt.elim ?_ (congrArg WriteRes.st? v248)) fun h249 => ?_
          · refine .after ?_ (writeRows_keeps ..)
            refine .step ?_ (State.setCmd_keeps ..)
            exact .refl ..
          refine .step ?_ (ih ..)
          exact h249
        · rename_i v250 v251
          refine .have_ (t := v250) (Keeps.Opt.elim ?_ (congrArg WriteRes.st? v251)) fun h252 => ?_
          · refine .after ?_ (writeRows_keeps ..)
            refine .step ?_ (State.setCmd_keeps ..)
            exact .refl ..
          refine .step ?_ (ih ..)
          exact h252
        · rename_i v253
          refine .step ?_ (State.reclaim_keeps ..)
          refine .step ?_ (State.fail_keeps ..)
          exact .refl ..
        · rename_i v255 v256 v257
          refine .step ?_ (State.setCmd_keeps ..)
          exact .refl ..

theorem State.ringBreak_keeps (s) : Keeps 29619082031781708758789445286032309089689245581404437540274962432 s (State.ringBreak s) := by
  unfold State.ringBreak
  refine .ite (fun _ => ?_) fun _ => ?_
  · refine .step ?_ (State.setFld_keeps ..)
    refine .step ?_ (State.setFld_keeps ..)
    exact .refl ..
  · exact .refl ..

theorem State.retrainLink_keeps (s l) : Keeps 49365136719636181264649075476720515149482075969007395900458270720 s (State.retrainLink s l) := by
  unfold State.retrainLink
  refine .step ?_ (State.ringBreak_keeps ..)
  refine .step ?_ (State.addFld_keeps ..)
  refine .step ?_ (State.setFld_keeps ..)
  exact .refl ..

theorem State.askReplay_keeps (s l) : Keeps 49365136719636181264649075476720515149482077149599016617869574152 s (State.askReplay s l) := by
  unfold State.askReplay
  extract_lets l261 l262
  refine .ite (fun _ => ?_) fun _ => ?_
  · refine .step ?_ (State.retrainLink_keeps ..)
    refine .step ?_ (State.setRlink_keeps ..)
    exact .refl ..
  · refine .step ?_ (State.emit_keeps ..)
    refine .step ?_ (State.addFld_keeps ..)
    refine .step ?_ (State.setRlink_keeps ..)
    exact .refl ..

theorem State.atNow_keeps (s now) : Keeps 2 s (State.at_ s now) := by
  unfold State.at_
  refine .step ?_ (upd_dtime ..)
  exact .refl ..

theorem State.attAccess_keeps (s host a2) : Keeps.Opt 71676711447560499800644466514160553579479707089800456090944836471131267688941301446801568 s ((State.attAccess s host a2).map Prod.fst) := by
  induction a2 generalizing s host
  · rw [State.attAccess]
    exact .none
  · rename_i e_ l_ ih
    rw [State.attAccess]
    split
    · refine .after ?_ (ih ..)
      exact .refl ..
    · split
      · refine .some ?_
        dsimp only
        refine .step ?_ (State.countUnbacked_keeps ..)
        exact .refl ..
      · split
        · refine .some ?_
          dsimp only
          refine .step ?_ (State.deny_keeps ..)
          exact .refl ..
        · refine .after ?_ (ih ..)
          exact .refl ..

theorem State.attAccount_keeps (s layer passes r) : Keeps 274877906944 s (State.attAccount s layer passes r) := by
  unfold State.attAccount
  extract_lets l264 l265
  refine .foldl ?_ fun u a => ?_
  · unfold l265
    refine .foldl ?_ fun u a => ?_
    · unfold l264
      refine .foldl ?_ fun u a => ?_
      · exact .refl ..
      · refine .step ?_ (State.updPage_keeps ..)
        exact .refl ..
    · split
      · refine .step ?_ (State.updPage_keeps ..)
        exact .refl ..
      · exact .refl ..
  · split
    · refine .step ?_ (State.updPage_keeps ..)
      exact .refl ..
    · exact .refl ..

theorem State.demandAt_keeps (s h moment) : Keeps 274877906944 s (State.demandAt s h moment) := by
  unfold State.demandAt
  refine .step ?_ (State.updChunk_keeps ..)
  exact .refl ..

theorem State.demand_keeps (s h) : Keeps 274877906944 s (State.demand s h) := by
  unfold State.demand
  refine .step ?_ (State.demandAt_keeps ..)
  exact .refl ..

theorem State.attBegin_keeps (s c seqs) : Keeps 343597383680 s (State.attBegin s c seqs) := by
  unfold State.attBegin
  extract_lets l266 l267 l268
  refine .have_ (t := l268) ?_ fun h269 => ?_
  · unfold l268
    refine .foldl ?_ fun u a => ?_
    · exact .refl ..
    · refine .step ?_ (State.demand_keeps ..)
      exact .refl ..
  refine .step ?_ (State.setCmd_keeps ..)
  exact h269

theorem State.attCount_keeps (s c code outFail elems) : Keeps 385665130622157666130070902161879024605328718507870280472330240 s (State.attCount s c code outFail elems) := by
  unfold State.attCount
  extract_lets f s1 s2 s3
  have hf : f.reg = .ATN_CNT0 ∨ f.reg = .ATN_CNT1 := by unfold f; (repeat' split) <;> decide
  refine .step ?_ (State.addFld_keeps ..)
  have h1 : Keeps 385665130622157666130070902161879024605328718507870280472330240 s s1 := by
    unfold s1
    refine .ite (fun _ => .refl ..) fun _ => ?_
    rcases hf with h | h
    · exact .step (.refl ..) (State.addFldAt _ _ _ _ h)
    · exact .step (.refl ..) (State.addFldAt _ _ _ _ h)
  have h2 : Keeps 385665130622157666130070902161879024605328718507870280472330240 s s2 := .ite (fun _ => .step h1 (State.addFld_keeps ..)) fun _ => h1
  exact .ite (fun _ => .step h2 (State.addFld_keeps ..)) fun _ => h2

theorem State.waitEnds_keeps (s c) : Keeps 411376139330301510538742295639337626245683966408394965837152256 s (State.waitEnds s c) := by
  unfold State.waitEnds
  refine .step ?_ (State.setFld_keeps ..)
  refine .step ?_ (State.addFld_keeps ..)
  exact .refl ..

theorem State.plainPut_keeps (s a bs) : Keeps 2017612633061982208 s (State.plainPut s a bs) := by
  unfold State.plainPut
  refine .foldl ?_ fun u a => ?_
  · exact .refl ..
  · refine .step ?_ (State.putLine_keeps ..)
    exact .refl ..

theorem State.undefine_keeps (s a n) : Keeps 2017612633061982212 s (State.undefine s a n) := by
  unfold State.undefine
  refine .step ?_ (State.plainPut_keeps ..)
  refine .step ?_ (upd_freeCtr ..)
  exact .refl ..

theorem State.attSmear_keeps (s c) : Keeps 2017612633061982220 s (State.attSmear s c) := by
  unfold State.attSmear
  extract_lets l270 l271 l272
  refine .foldl ?_ fun u a => ?_
  · exact .refl ..
  · extract_lets l273 l274
    refine .have_ (t := l274) ?_ fun h275 => ?_
    · unfold l274
      refine .step ?_ (State.emit_keeps ..)
      exact .refl ..
    refine .ite (fun _ => ?_) fun _ => ?_
    · refine .step ?_ (upd_freeCtr ..)
      exact h275
    · refine .step ?_ (State.undefine_keeps ..)
      exact .refl ..

theorem State.attFail_keeps (s c code d) : Keeps 668687099797254494727949794520774158692360396181988485581766668 s (State.attFail s c code d) := by
  unfold State.attFail
  extract_lets l276 l277 l278
  refine .have_ (t := l276) ?_ fun h279 => ?_
  · unfold l276
    refine .ite (fun _ => ?_) fun _ => ?_
    · refine .step ?_ (State.addFld_keeps ..)
      exact .refl ..
    · refine .ite (fun _ => ?_) fun _ => ?_
      · refine .step ?_ (State.addFld_keeps ..)
        exact .refl ..
      · refine .ite (fun _ => ?_) fun _ => ?_
        · refine .step ?_ (State.addFld_keeps ..)
          exact .refl ..
        · exact .refl ..
  refine .have_ (t := l277) ?_ fun h280 => ?_
  · unfold l277
    refine .ite (fun _ => ?_) fun _ => ?_
    · refine .step ?_ (State.waitEnds_keeps ..)
      exact h279
    · exact h279
  refine .step ?_ (State.reclaim_keeps ..)
  refine .step ?_ (State.fail_keeps ..)
  unfold l278
  refine .ite (fun _ => ?_) fun _ => ?_
  · refine .step ?_ (State.attSmear_keeps ..)
    exact h280
  · exact h280

theorem State.attOne_keeps (s c wfirst wend qpos) : Keeps 71676711447560499800644467182847653376734198963254865199799233046919724971939514263074988 s (State.attOne s c wfirst wend qpos) := by
  unfold State.attOne
  split
  · refine .step ?_ (State.attFail_keeps ..)
    exact .refl ..
  · extract_lets l281 l282 l283
    split
    · rename_i v284 v285 v286
      refine .have_ (t := v284) (Keeps.Opt.elim ?_ (congrArg (Option.map Prod.fst) v286)) fun h287 => ?_
      · refine .after ?_ (State.attAccess_keeps ..)
        exact .refl ..
      clear_value l282
      split
      · refine .have_ (t := v284) (Keeps.Opt.elim ?_ (congrArg (Option.map Prod.fst) v286)) fun h288 => ?_
        · refine .after ?_ (State.attAccess_keeps ..)
          exact .refl ..
        refine .step ?_ (State.attFail_keeps ..)
        exact .refl ..
      · refine .have_ (t := v284) (Keeps.Opt.elim ?_ (congrArg (Option.map Prod.fst) v286)) fun h289 => ?_
        · refine .after ?_ (State.attAccess_keeps ..)
          exact .refl ..
        refine .step ?_ (State.attFail_keeps ..)
        exact h287
    · rename_i v290
      split
      · clear_value l282
        split
        · refine .step ?_ (State.attFail_keeps ..)
          exact .refl ..
        · refine .step ?_ (State.attFail_keeps ..)
          exact .refl ..
      · clear_value l282
        split
        · refine .step ?_ (State.attFail_keeps ..)
          exact .refl ..
        · refine .step ?_ (State.attBegin_keeps ..)
          exact .refl ..

theorem State.attSpoil_keeps (s layer e) : Keeps 71614546043009276470375043734950006274257049774802778665310620600452445937810722894442656 s (State.attSpoil s layer e) := by
  unfold State.attSpoil
  split
  · refine .step ?_ (State.corrupt_keeps ..)
    exact .refl ..
  · exact .refl ..

theorem State.rasEventAt_keeps (s level code island stack cause addr) : Keeps 71614546043009276470375043733142200974465685714818071311426812691957780683638872872120552 s (State.rasEventAt s level code island stack cause addr) := by
  unfold State.rasEventAt
  refine .step ?_ (State.logEv_keeps ..)
  refine .step ?_ (State.cxlEvent_keeps ..)
  exact .refl ..

theorem State.rasEvent_keeps (s code island stack cause addr) : Keeps 71614546043009276470375043733142200974465685714818071311426812691957780683638872872120552 s (State.rasEvent s code island stack cause addr) := by
  unfold State.rasEvent
  refine .step ?_ (State.rasEventAt_keeps ..)
  exact .refl ..

theorem State.attTime_keeps (s c w chunks ringNs) : Keeps 71614546043009276470375044555894479635068706792302662590102065183325713500428804546425064 s (State.attTime s c w chunks ringNs).1 := by
  unfold State.attTime
  extract_lets l296
  split
  · split
    · dsimp only
      refine .step ?_ (State.rasEvent_keeps ..)
      refine .step ?_ (State.addFld_keeps ..)
      exact .refl ..
    · dsimp only
      exact .refl ..
  · dsimp only
    exact .refl ..

theorem State.attWrite_keeps (s c a i r) : Keeps 2017612633061982216 s (State.attWrite s c a i r) := by
  unfold State.attWrite
  extract_lets l297
  refine .ite (fun _ => ?_) fun _ => ?_
  · refine .step ?_ (State.emit_keeps ..)
    exact .refl ..
  · refine .step ?_ (State.plainPut_keeps ..)
    exact .refl ..

theorem State.capture1_keeps (s g raw kv w) : Keeps 19283256531107883306503545108093951230266435925393514023616512 s (State.capture1 s g raw kv w) := by
  unfold State.capture1
  extract_lets l301 l302
  refine .foldl ?_ fun u a => ?_
  · unfold l302
    refine .step ?_ (State.addFld_keeps ..)
    exact .refl ..
  · refine .step ?_ (State.addFld_keeps ..)
    exact .refl ..

theorem State.captureHist_keeps (s t c w) : Keeps 19283256531107883306503545108093951230266435934400713278357504 s (State.captureHist s t c w) := by
  unfold State.captureHist
  extract_lets l303 l304 l305 l306 l307 l308
  refine .have_ (t := l308) ?_ fun h309 => ?_
  · unfold l308
    refine .step ?_ (upd_histPages ..)
    exact .refl ..
  split
  · refine .ite (fun _ => ?_) fun _ => ?_
    · exact .refl ..
    · refine .ite (fun _ => ?_) fun _ => ?_
      · refine .step ?_ (State.addFld_keeps ..)
        exact h309
      · refine .ite (fun _ => ?_) fun _ => ?_
        · exact h309
        · split
          · refine .step ?_ (State.capture1_keeps ..)
            exact h309
          · exact h309
  · exact .refl ..

theorem State.countBlocks_keeps (s bs) : Keeps 1205203533194242706656471569255871951891652245900044579897344 s (State.countBlocks s bs) := by
  unfold State.countBlocks
  extract_lets l310 l311 l312 l313 l314 l315
  refine .step ?_ (State.addFld_keeps ..)
  unfold l315
  refine .step ?_ (State.addFld_keeps ..)
  unfold l314
  refine .step ?_ (State.addFld_keeps ..)
  unfold l313
  refine .step ?_ (State.addFld_keeps ..)
  unfold l312
  refine .step ?_ (upd_outRem ..)
  exact .refl ..

theorem State.beginEncode_keeps (s t c w) : Keeps 20488460064302126013160016677349823182158088180300757858254848 s (State.beginEncode s t c w) := by
  unfold State.beginEncode
  split
  · refine .step ?_ (State.countBlocks_keeps ..)
    refine .step ?_ (State.captureHist_keeps ..)
    exact .refl ..
  · exact .refl ..

theorem State.beginCommit_keeps (s c q sq ts) : Keeps 20689333449816666115653580784200339225282036931035340648480768 s (State.beginCommit s c q sq ts) := by
  unfold State.beginCommit
  extract_lets l316 l317 l318 l319 l320 l321 l322 l323
  split
  · refine .step ?_ (State.fail_keeps ..)
    exact .refl ..
  · extract_lets l324 l325 l326 l327 l328
    clear_value l326
    split
    · refine .ite (fun _ => ?_) fun _ => ?_
      · refine .ite (fun _ => ?_) fun _ => ?_
        · exact .refl ..
        · refine .step ?_ (State.adopt_keeps ..)
          exact .refl ..
      · unfold l328
        extract_lets l329
        refine .step ?_ (State.setCmd_keeps ..)
        unfold l329
        split
        · refine .step ?_ (State.beginEncode_keeps ..)
          exact .refl ..
        · exact .refl ..
    · unfold l328
      extract_lets l330
      refine .step ?_ (State.setCmd_keeps ..)
      unfold l330
      split
      · refine .step ?_ (State.beginEncode_keeps ..)
        exact .refl ..
      · exact .refl ..

theorem State.deliverChunk_keeps (s c hold h) : Keeps 274877906944 s (State.deliverChunk s c hold h) := by
  unfold State.deliverChunk
  refine .step ?_ (State.updChunk_keeps ..)
  exact .refl ..

theorem State.beginDeliver_keeps (s c hs) : Keeps 343597383680 s (State.beginDeliver s c hs) := by
  unfold State.beginDeliver
  extract_lets l331 l332 l333 l334 l335
  refine .step ?_ (State.setCmd_keeps ..)
  refine .foldl ?_ fun u a => ?_
  · exact .refl ..
  · refine .step ?_ (State.deliverChunk_keeps ..)
    exact .refl ..

theorem State.endReplace_keeps (s b) : Keeps 1356938545749799165119972480570561420171458368749894350312239247316096123008 s (State.endReplace s b) := by
  unfold State.endReplace
  refine .ite (fun _ => ?_) fun _ => ?_
  · exact .refl ..
  · extract_lets l347 l348
    refine .have_ (t := l347) ?_ fun h349 => ?_
    · unfold l347
      refine .step ?_ (State.setFldAt (k := .RAS_REPL) (h := by unfold replField; (repeat' split) <;> rfl) ..)
      exact .refl ..
    refine .have_ (t := l348) ?_ fun h350 => ?_
    · unfold l348
      refine .step ?_ (upd_keyRepl ..)
      exact h349
    refine .ite (fun _ => ?_) fun _ => ?_
    · refine .step ?_ (State.mctpEvent_keeps ..)
      refine .step ?_ (State.setFld_keeps ..)
      refine .step ?_ (upd_replaceN ..)
      exact h350
    · exact h350

theorem State.requestReplace_keeps (s b) : Keeps 71614546043010633408920793532307320946946256276238242769795562586308092922886188968243432 s (State.requestReplace s b) := by
  unfold State.requestReplace
  refine .ite (fun _ => ?_) fun _ => ?_
  · exact .refl ..
  · extract_lets l354 l355 l356 l357
    refine .have_ (t := l355) ?_ fun h358 => ?_
    · unfold l355
      refine .step ?_ (State.setFld_keeps ..)
      refine .step ?_ (State.setFldAt (k := .RAS_REPL) (h := by unfold replField; (repeat' split) <;> rfl) ..)
      exact .refl ..
    refine .have_ (t := l356) ?_ fun h359 => ?_
    · unfold l356
      refine .step ?_ (upd_keyRepl_replaceN ..)
      exact h358
    refine .have_ (t := l357) ?_ fun h360 => ?_
    · unfold l357
      refine .step ?_ (State.rasEvent_keeps ..)
      exact h359
    refine .ite (fun _ => ?_) fun _ => ?_
    · refine .step ?_ (State.mctpEvent_keeps ..)
      exact h360
    · exact h360

theorem State.leavePanel_keeps (s c w) : Keeps 822752278660603021077484591278675252491367932816789931674304512 s (State.leavePanel s c w) := by
  unfold State.leavePanel
  refine .ite (fun _ => ?_) fun _ => ?_
  · extract_lets l378
    refine .step ?_ (State.setFld_keeps ..)
    exact .refl ..
  · exact .refl ..

theorem State.endHolds_keeps (s uid keep) : Keeps 274877906944 s (State.endHolds s uid keep) := by
  unfold State.endHolds
  extract_lets l379
  refine .step ?_ (upd_chunks ..)
  exact .refl ..

theorem State.undoAppend_keeps (s h undo) : Keeps 145410412773376 s (State.undoAppend s h undo) := by
  unfold State.undoAppend
  refine .foldr ?_ fun a u => ?_
  · exact .refl ..
  · refine .ite (fun _ => ?_) fun _ => ?_
    · exact .refl ..
    · extract_lets l380
      refine .have_ (t := l380) ?_ fun h381 => ?_
      · unfold l380
        refine .step ?_ (State.updPage_keeps ..)
        exact .refl ..
      split
      · extract_lets l382
        refine .step ?_ (State.putFrame_keeps ..)
        exact h381
      · exact h381

theorem State.dropPin_keeps (s t res h) : Keeps 1099511627776 s (State.dropPin s t res h) := by
  unfold State.dropPin
  extract_lets l383
  refine .step ?_ (State.setPin_keeps ..)
  exact .refl ..

theorem State.unpinAll_keeps (s c hs code detail) : Keeps 200873385514540102493564106850516043123948750735132546039808 s (State.unpinAll s c hs code detail) := by
  unfold State.unpinAll
  refine .step ?_ (State.reclaim_keeps ..)
  refine .step ?_ (State.fail_keeps ..)
  refine .foldl ?_ fun u a => ?_
  · exact .refl ..
  · refine .step ?_ (State.dropPin_keeps ..)
    exact .refl ..

theorem State.unstage_keeps (s c ps) : Keeps 274877906944 s (State.unstage s c ps) := by
  unfold State.unstage
  extract_lets l384
  refine .foldl ?_ fun u a => ?_
  · exact .refl ..
  · refine .step ?_ (State.updPage_keeps ..)
    exact .refl ..

theorem State.camAnswer_keeps (s uid a) : Keeps 68719476736 s (State.camAnswer s uid a) := by
  unfold State.camAnswer
  split
  · split
    · refine .step ?_ (State.setCmd_keeps ..)
      exact .refl ..
    · exact .refl ..
  · exact .refl ..

theorem State.camBroadcast_keeps (s uid word) : Keeps 22431240793630814765064 s (State.camBroadcast s uid word) := by
  unfold State.camBroadcast
  extract_lets l389 l390
  refine .have_ (t := l390) ?_ fun h391 => ?_
  · unfold l390
    refine .step ?_ (upd_camReqs ..)
    exact .refl ..
  refine .ite (fun _ => ?_) fun _ => ?_
  · exact .refl ..
  · refine .step ?_ (State.ringPut_keeps ..)
    exact h391

theorem State.camDone_keeps (s uid a) : Keeps 18889465931547300331520 s (State.camDone s uid a) := by
  unfold State.camDone
  refine .ite (fun _ => ?_) fun _ => ?_
  · refine .step ?_ (State.camAnswer_keeps ..)
    refine .step ?_ (upd_camReqs ..)
    exact .refl ..
  · exact .refl ..

theorem State.cancelDeliver_keeps (s c d) : Keeps 200873385514540102493564106850516043123948750734033034412032 s (State.cancelDeliver s c d) := by
  unfold State.cancelDeliver
  refine .step ?_ (State.reclaim_keeps ..)
  refine .step ?_ (State.fail_keeps ..)
  refine .step ?_ (State.endHolds_keeps ..)
  exact .refl ..

theorem State.clearSl_keeps (s h) : Keeps 274877906944 s (State.clearSl s h) := by
  unfold State.clearSl
  split
  · exact .refl ..
  · split
    · exact .refl ..
    · refine .step ?_ (State.updChunk_keeps ..)
      exact .refl ..

theorem State.skipSerials_keeps (s) : Keeps 10141204801825835211973625643008 s (State.skipSerials s) := by
  unfold State.skipSerials
  refine .step ?_ (upd_serial ..)
  exact .refl ..

theorem State.closeOutput_keeps (s c a last) : Keeps 8 s (State.closeOutput s c a last) := by
  unfold State.closeOutput
  split
  · refine .step ?_ (State.emit_keeps ..)
    exact .refl ..
  · exact .refl ..

theorem State.withTokens_keeps (s h n) : Keeps 274877906944 s (State.withTokens s h n) := by
  unfold State.withTokens
  refine .step ?_ (State.updChunk_keeps ..)
  exact .refl ..

theorem withoutFrames_keeps (s fs) : Keeps 13194139533312 s (withoutFrames s fs) := by
  unfold withoutFrames
  extract_lets l410
  refine .step ?_ (upd_frames_epochs ..)
  exact .refl ..

theorem State.placeAll_keeps (s owner picks a3) : Keeps.Opt 3705346855594118253554271520278013051304639509371486482875423534882171062845440 s ((State.placeAll s owner picks a3).map Prod.fst) := by
  induction a3 generalizing s owner picks
  · rw [State.placeAll]
    refine .some ?_
    dsimp only
    exact .refl ..
  · rename_i e_ l_ ih
    rw [State.placeAll]
    split
    · rename_i v411
      exact .none
    · rename_i v413 v414 v415
      refine .have_ (t := v413) (Keeps.Opt.elim ?_ (congrArg (Option.map Prod.fst) v415)) fun h416 => ?_
      · refine .after ?_ (State.newFrame_keeps ..)
        exact .refl ..
      split
      · rename_i v417
        exact .none
      · rename_i v419 v420 v421
        refine .have_ (t := v419) (Keeps.Opt.elim ?_ (congrArg (Option.map Prod.fst) v421)) fun h422 => ?_
        · refine .after ?_ (ih ..)
          exact h416
        refine .some ?_
        dsimp only
        exact h422

theorem State.setChunk_keeps (s h c) : Keeps 274877906944 s (State.setChunk s h c) := by
  unfold State.setChunk
  refine .step ?_ (upd_chunks ..)
  exact .refl ..

theorem State.moveEntries_keeps (s a1) : Keeps 274877906944 s (State.moveEntries s a1) := by
  induction a1 generalizing s
  · rw [State.moveEntries]
    exact .refl ..
  · rename_i e_ l_ ih
    rw [State.moveEntries]
    refine .step ?_ (ih ..)
    refine .step ?_ (State.updChunk_keeps ..)
    exact .refl ..

theorem State.indexNode_keeps (s h) : Keeps 274877906944 s (State.indexNode s h) := by
  unfold State.indexNode
  split
  · exact .refl ..
  · extract_lets l423 l424 l425
    split
    · unfold l424
      refine .step ?_ (State.updChunk_keeps ..)
      exact .refl ..
    · split
      · extract_lets l426
        refine .have_ (t := l426) ?_ fun h427 => ?_
        · unfold l426
          refine .step ?_ (State.moveEntries_keeps ..)
          exact .refl ..
        split
        · unfold l424
          refine .step ?_ (State.updChunk_keeps ..)
          exact h427
        · exact h427
      · refine .ite (fun _ => ?_) fun _ => ?_
        · unfold l424
          refine .step ?_ (State.updChunk_keeps ..)
          exact .refl ..
        · refine .step ?_ (State.updChunk_keeps ..)
          exact .refl ..

theorem State.enterSl_keeps (s parent ns n) : Keeps 274877906944 s (State.enterSl s parent ns n) := by
  unfold State.enterSl
  split
  · exact .refl ..
  · refine .step ?_ (State.updChunk_keeps ..)
    exact .refl ..

theorem State.linkCoded_keeps (s c k w pages index) : Keeps 3705346855594118253554271520278013051304639509371486482875423534737310405885952 s (State.linkCoded s c k w pages index) := by
  unfold State.linkCoded
  extract_lets l428 l429 l430 l431 l432
  refine .have_ (t := l430) ?_ fun h433 => ?_
  · unfold l430
    refine .step ?_ (State.takeSerials_keeps ..)
    exact .refl ..
  refine .have_ (t := l431) ?_ fun h434 => ?_
  · unfold l431
    refine .step ?_ (State.setChunk_keeps ..)
    exact h433
  refine .have_ (t := l432) ?_ fun h435 => ?_
  · unfold l432
    refine .ite (fun _ => ?_) fun _ => ?_
    · refine .step ?_ (State.indexNode_keeps ..)
      exact h434
    · exact h434
  split
  · exact h434
  · refine .ite (fun _ => ?_) fun _ => ?_
    · refine .step ?_ (State.enterSl_keeps ..)
      exact h435
    · exact h435

theorem State.codeAndLink_keeps (s c k w es picks index kib code) : Keeps 3705346855594118253755144905792553153798203616222002525999372285611806050746368 s (State.codeAndLink s c k w es picks index kib code) := by
  unfold State.codeAndLink
  extract_lets l436
  refine .ite (fun _ => ?_) fun _ => ?_
  · refine .step ?_ (State.reclaim_keeps ..)
    refine .step ?_ (State.fail_keeps ..)
    exact .refl ..
  · split
    · refine .step ?_ (State.reclaim_keeps ..)
      refine .step ?_ (State.fail_keeps ..)
      exact .refl ..
    · split
      · rename_i v437
        exact .refl ..
      · rename_i v439 v440 v441
        refine .have_ (t := v439) (Keeps.Opt.elim ?_ (congrArg (Option.map Prod.fst) v441)) fun h442 => ?_
        · refine .after ?_ (State.placeAll_keeps ..)
          refine .step ?_ (State.withTokens_keeps ..)
          refine .step ?_ (withoutFrames_keeps ..)
          exact .refl ..
        extract_lets l443
        refine .have_ (t := l443) ?_ fun h444 => ?_
        · unfold l443
          refine .step ?_ (State.linkCoded_keeps ..)
          exact h442
        refine .step ?_ (State.reclaim_keeps ..)
        refine .step ?_ (State.finish_keeps ..)
        exact h444
    · exact .refl ..

theorem State.coherentFor_keeps (s uid curDone reads writes) : Keeps 36893488147419103240 s (State.coherentFor s uid curDone reads writes).1 := by
  unfold State.coherentFor
  split
  · dsimp only
    exact .refl ..
  · extract_lets l445
    split
    · dsimp only
      exact .refl ..
    · dsimp only
      refine .foldl ?_ fun u a => ?_
      · exact .refl ..
      · refine .step ?_ (State.snoop_keeps ..)
        exact .refl ..

theorem State.coherent_keeps (s c reads writes) : Keeps 36893488147419103240 s (State.coherent s c reads writes).1 := by
  unfold State.coherent
  refine .step ?_ (State.coherentFor_keeps ..)
  exact .refl ..

theorem State.coherentJob_keeps (s job reads writes) : Keeps 627189298506124754952 s (State.coherentJob s job reads writes).1 := by
  unfold State.coherentJob
  split
  · rename_i v446 v447
    refine .have_ (t := v446) (.fst_eq ?_ v447) fun h448 => ?_
    · refine .step ?_ (State.coherentFor_keeps ..)
      exact .refl ..
    dsimp only
    refine .step ?_ (upd_curLog ..)
    exact h448
  · refine .step ?_ (State.coherentFor_keeps ..)
    exact .refl ..

theorem State.drawn_keeps (s) : Keeps 4 s (State.drawn s) := by
  unfold State.drawn
  refine .step ?_ (upd_freeCtr ..)
  exact .refl ..

theorem State.consume_keeps (s t m k) : Keeps 46768052394588893382517914646921056629007021244416 s (State.consume s t m k) := by
  unfold State.consume
  extract_lets l478 l479 l480
  refine .step ?_ (State.incFld_keeps ..)
  unfold l480
  refine .step ?_ (State.setComp_keeps ..)
  exact .refl ..

theorem State.countCopied_keeps (s n) : Keeps 883423532389192164791648750371459257913741968244850107626887499032297472 s (State.countCopied s n) := by
  unfold State.countCopied
  extract_lets l482
  refine .step ?_ (State.addFld_keeps ..)
  refine .step ?_ (upd_copiedCw ..)
  exact .refl ..

theorem State.enterCam_keeps (s h) : Keeps 274877906944 s (State.enterCam s h) := by
  unfold State.enterCam
  split
  · exact .refl ..
  · refine .ite (fun _ => ?_) fun _ => ?_
    · exact .refl ..
    · extract_lets l483 l484 l485 l486
      refine .step ?_ (State.updChunk_keeps ..)
      unfold l486
      refine .ite (fun _ => ?_) fun _ => ?_
      · exact .refl ..
      · clear_value l485
        split
        · refine .step ?_ (State.updChunk_keeps ..)
          exact .refl ..
        · exact .refl ..

theorem State.countLookup_keeps (s w) : Keeps 5986310706507378352962293074805895248510974573936640 s (State.countLookup s w) := by
  unfold State.countLookup
  extract_lets l487
  refine .foldl ?_ fun u a => ?_
  · unfold l487
    refine .step ?_ (State.addFld_keeps ..)
    exact .refl ..
  · refine .step ?_ (State.enterCam_keeps ..)
    refine .step ?_ (State.updChunk_keeps ..)
    exact .refl ..

theorem State.countPassed_keeps (s t taken) : Keeps 8589934592 s (State.countPassed s t taken) := by
  unfold State.countPassed
  refine .foldl ?_ fun u a => ?_
  · exact .refl ..
  · extract_lets l488
    refine .step ?_ (State.setSpool_keeps ..)
    exact .refl ..

theorem State.countWalk_keeps (s w) : Keeps 26328072917534393181108993892213119422660962936538983993515704320 s (State.countWalk s w) := by
  unfold State.countWalk
  extract_lets l489 l490 l491
  refine .step ?_ (State.addFld_keeps ..)
  unfold l491
  refine .step ?_ (State.addFld_keeps ..)
  unfold l490
  refine .step ?_ (State.addFld_keeps ..)
  unfold l489
  refine .step ?_ (State.addFld_keeps ..)
  exact .refl ..

theorem State.elemsCut_keeps (s n) : Keeps 102844034832575377634685573909834406561420991602098741459288068 s (State.elemsCut s n) := by
  unfold State.elemsCut
  refine .step ?_ (State.addFld_keeps ..)
  refine .step ?_ (State.drawn_keeps ..)
  exact .refl ..

theorem State.cutElems_keeps (s c w) : Keeps 102844034832575377634685573909834406561420991602098741459288068 s (State.cutElems s c w) := by
  unfold State.cutElems
  refine .ite (fun _ => ?_) fun _ => ?_
  · refine .step ?_ (State.elemsCut_keeps ..)
    exact .refl ..
  · exact .refl ..

theorem State.deliverNoRoom_keeps (s c w) : Keeps 343597383680 s (State.deliverNoRoom s c w) := by
  unfold State.deliverNoRoom
  extract_lets l508 l509
  refine .step ?_ (State.setCmd_keeps ..)
  unfold l509
  refine .step ?_ (State.unstage_keeps ..)
  exact .refl ..

theorem State.denyBar2_keeps (s h a size wr) : Keeps 71614546043009276470375043733142200974467150070950787626264778474019622751814734774859944 s (State.denyBar2 s h a size wr) := by
  unfold State.denyBar2
  extract_lets l510
  refine .have_ (t := l510) ?_ fun h511 => ?_
  · unfold l510
    refine .step ?_ (State.deny_keeps ..)
    exact .refl ..
  refine .ite (fun _ => ?_) fun _ => ?_
  · exact h511
  · refine .step ?_ (State.emit_keeps ..)
    exact h511

theorem State.dropCommand_keeps (s t n q hdr) : Keeps 51422017422285694391444197943144887950750060212707685140791296 s (State.dropCommand s t n q hdr) := by
  unfold State.dropCommand
  extract_lets l515 l516 l517 l518 l519 l520
  refine .have_ (t := l520) ?_ fun h521 => ?_
  · unfold l520
    refine .step ?_ (State.setSpool_keeps ..)
    unfold l518
    split
    · refine .step ?_ (State.cancelCut_keeps ..)
      exact .refl ..
    · refine .step ?_ (State.cancelHeld_keeps ..)
      exact .refl ..
  refine .step ?_ (State.setFld_keeps ..)
  exact h521

theorem State.poisonLine_keeps (s l) : Keeps 576460752303423488 s (State.poisonLine s l) := by
  unfold State.poisonLine
  refine .step ?_ (upd_poisonLines ..)
  exact .refl ..

theorem State.runBatch_keeps (s c a a3 a4) : Keeps 71614546043009276470375044043482110771983182678859500394813840284715422761719580334289068 s (State.runBatch s c a a3 a4).1 := by
  induction a3 generalizing s c a a4
  · rw [State.runBatch]
    dsimp only
    exact .refl ..
  · rename_i e_ l_ ih
    rw [State.runBatch]
    split
    · refine .step ?_ (ih ..)
      exact .refl ..
    · split
      · refine .step ?_ (ih ..)
        refine .step ?_ (State.addFld_keeps ..)
        refine .step ?_ (State.elemsCut_keeps ..)
        refine .step ?_ (State.attSpoil_keeps ..)
        exact .refl ..
      · refine .step ?_ (ih ..)
        refine .step ?_ (State.attAccount_keeps ..)
        refine .step ?_ (State.attWrite_keeps ..)
        exact .refl ..

theorem State.endBatch_keeps (s c w readOk) : Keeps 71614546043009276470375044943367421686999903300409090951172768434300585770428543950450924 s (State.endBatch s c w readOk) := by
  unfold State.endBatch
  extract_lets l647 l648 l649
  split
  · rename_i v650 v651 v652
    refine .have_ (t := v650) (.fst_eq ?_ v652) fun h653 => ?_
    · refine .step ?_ (State.runBatch_keeps ..)
      exact .refl ..
    extract_lets l654 l655 l656 l657 l658 l659 l660
    split
    · rename_i v661 v662 v663
      refine .have_ (t := v661) (.fst_eq ?_ v663) fun h664 => ?_
      · refine .step ?_ (State.attTime_keeps ..)
        unfold l659
        refine .step ?_ (State.attCount_keeps ..)
        unfold l658
        refine .step ?_ (State.closeOutput_keeps ..)
        exact h653
      refine .step ?_ (State.reclaim_keeps ..)
      refine .step ?_ (State.finish_keeps ..)
      refine .step ?_ (State.leavePanel_keeps ..)
      exact h664

theorem State.setSeq_keeps (s q x) : Keeps 549755813888 s (State.setSeq s q x) := by
  unfold State.setSeq
  refine .step ?_ (upd_seqs ..)
  exact .refl ..

theorem State.failLookup_keeps (s c code d) : Keeps 51422017422274002378345550719799258472088329948550429090512896 s (State.failLookup s c code d) := by
  unfold State.failLookup
  refine .step ?_ (State.fail_keeps ..)
  refine .step ?_ (State.countEnd_keeps ..)
  exact .refl ..

theorem State.endLookup_keeps (s c w attach pick) : Keeps 26379494934956667183487339442932918681133051266487535247239938048 s (State.endLookup s c w attach pick) := by
  unfold State.endLookup
  extract_lets l665 l666 l667 l668 l669
  refine .ite (fun _ => ?_) fun _ => ?_
  · split
    · refine .step ?_ (State.failLookup_keeps ..)
      refine .step ?_ (State.countWalk_keeps ..)
      exact .refl ..
    · refine .ite (fun _ => ?_) fun _ => ?_
      · exact .refl ..
      · refine .step ?_ (State.finish_keeps ..)
        refine .step ?_ (State.setSeq_keeps ..)
        refine .step ?_ (State.countLookup_keeps ..)
        refine .step ?_ (State.countWalk_keeps ..)
        refine .step ?_ (State.countEnd_keeps ..)
        exact .refl ..
  · refine .step ?_ (State.finish_keeps ..)
    refine .step ?_ (State.countLookup_keeps ..)
    refine .step ?_ (State.countWalk_keeps ..)
    refine .step ?_ (State.countEnd_keeps ..)
    exact .refl ..

theorem State.endOne_keeps (s c w readOk) : Keeps 71614546043009276470375045354743561017301413839151386590510394679984552178823509787603180 s (State.endOne s c w readOk) := by
  unfold State.endOne
  extract_lets l670 l671 l672
  split
  · exact .refl ..
  · split
    · refine .step ?_ (State.attFail_keeps ..)
      refine .step ?_ (State.attSpoil_keeps ..)
      refine .step ?_ (State.cutElems_keeps ..)
      refine .step ?_ (State.leavePanel_keeps ..)
      exact .refl ..
    · extract_lets l673 l674 l675 l676 l677
      refine .have_ (t := l676) ?_ fun h678 => ?_
      · unfold l676
        refine .step ?_ (State.closeOutput_keeps ..)
        unfold l675
        refine .step ?_ (State.attWrite_keeps ..)
        exact .refl ..
      split
      · rename_i v679 v680 v681
        refine .have_ (t := v679) (.fst_eq ?_ v681) fun h682 => ?_
        · refine .step ?_ (State.attTime_keeps ..)
          unfold l677
          refine .step ?_ (State.attCount_keeps ..)
          refine .step ?_ (State.attAccount_keeps ..)
          exact h678
        refine .step ?_ (State.reclaim_keeps ..)
        refine .step ?_ (State.finish_keeps ..)
        refine .step ?_ (State.leavePanel_keeps ..)
        exact h682

theorem State.recordGeo_keeps (s prof) : Keeps 536870912 s (State.recordGeo s prof) := by
  unfold State.recordGeo
  split
  · exact .refl ..
  · refine .step ?_ (upd_geom ..)
    exact .refl ..

theorem State.extendWith_keeps (s c q? depth parent cont seqPick chunkPick) : Keeps 200873385514540102493564106850516043123948750734582790225920 s (State.extendWith s c q? depth parent cont seqPick chunkPick) := by
  unfold State.extendWith
  extract_lets l713 l714 l715 l716 l717
  refine .have_ (t := l715) ?_ fun h718 => ?_
  · unfold l715
    refine .step ?_ (State.recordGeo_keeps ..)
    exact .refl ..
  refine .ite (fun _ => ?_) fun _ => ?_
  · exact .refl ..
  · split
    · refine .step ?_ (State.fail_keeps ..)
      exact .refl ..
    · refine .ite (fun _ => ?_) fun _ => ?_
      · exact .refl ..
      · extract_lets l719 l720 l721 l722
        refine .step ?_ (State.reclaim_keeps ..)
        refine .step ?_ (State.finish_keeps ..)
        unfold l722
        refine .step ?_ (State.setSeq_keeps ..)
        unfold l719
        refine .step ?_ (State.setChunk_keeps ..)
        exact h718

theorem State.recovSync_keeps (s) : Keeps 12259964326927110866866776217202473468949912977468817408 s (State.recovSync s) := by
  unfold State.recovSync
  extract_lets l723
  refine .have_ (t := l723) ?_ fun h724 => ?_
  · unfold l723
    refine .step ?_ (State.setFld_keeps ..)
    exact .refl ..
  refine .step ?_ (State.setFld_keeps ..)
  exact h724

theorem State.setPart_keeps (s n) : Keeps 452312848583266388385584124517114250918702653817360926748081100508379480192 s (State.setPart s n) := by
  unfold State.setPart
  refine .ite (fun _ => ?_) fun _ => ?_
  · exact .refl ..
  · refine .step ?_ (State.recovSync_keeps ..)
    refine .step ?_ (State.mctpEvent_keeps ..)
    refine .step ?_ (State.setFld_keeps ..)
    exact .refl ..

theorem State.geoBump_keeps (s cause) : Keeps 71614546043009276470375043733142200974465685714818071311426812691957780683638872872120808 s (State.geoBump s cause) := by
  unfold State.geoBump
  extract_lets l729
  refine .have_ (t := l729) ?_ fun h730 => ?_
  · unfold l729
    refine .step ?_ (upd_geoGen ..)
    exact .refl ..
  refine .step ?_ (State.logEv_keeps ..)
  refine .step ?_ (State.cxlEvent_keeps ..)
  exact h730

theorem State.fltSync_keeps (s) : Keeps 71614546043010809099775797432899093886091486400198160365225558155668241140102830003122408 s (State.fltSync s) := by
  unfold State.fltSync
  split
  · exact .refl ..
  · extract_lets l731 l732 l733 l734 l735 l736 l737 l738 l739
    refine .have_ (t := l732) ?_ fun h740 => ?_
    · unfold l732
      refine .step ?_ (State.setReg_keeps ..)
      exact .refl ..
    refine .have_ (t := l733) ?_ fun h741 => ?_
    · unfold l733
      refine .step ?_ (State.setReg_keeps ..)
      exact h740
    refine .have_ (t := l734) ?_ fun h742 => ?_
    · unfold l734
      refine .step ?_ (State.setFld_keeps ..)
      refine .step ?_ (State.setFld_keeps ..)
      exact h741
    refine .have_ (t := l736) ?_ fun h743 => ?_
    · unfold l736
      refine .step ?_ (State.setReg_keeps ..)
      exact h742
    refine .have_ (t := l737) ?_ fun h744 => ?_
    · unfold l737
      refine .step ?_ (State.setFld_keeps ..)
      exact h743
    refine .have_ (t := l739) ?_ fun h745 => ?_
    · unfold l739
      refine .foldl ?_ fun u a => ?_
      · unfold l738
        refine .step ?_ (State.setFld_keeps ..)
        exact h744
      · refine .step ?_ (State.setReg_keeps ..)
        exact .refl ..
    refine .ite (fun _ => ?_) fun _ => ?_
    · refine .step ?_ (State.requestReplace_keeps ..)
      exact h745
    · exact h745

theorem State.markPending_keeps (s) : Keeps 154742504910672534362390528 s (State.markPending s) := by
  unfold State.markPending
  extract_lets l751
  refine .step ?_ (upd_units ..)
  exact .refl ..

theorem State.flushJournal_keeps (s) : Keeps 3705346855594118253554271520278013051304639509371526251699185577595958848389124 s (State.flushJournal s) := by
  unfold State.flushJournal
  extract_lets l752 l753 l754
  refine .have_ (t := l752) ?_ fun h755 => ?_
  · unfold l752
    refine .step ?_ (State.drawn_keeps ..)
    refine .step ?_ (State.takeSerials_keeps ..)
    exact .refl ..
  refine .have_ (t := l754) ?_ fun h756 => ?_
  · unfold l754
    refine .step ?_ (State.markPending_keeps ..)
    unfold l753
    refine .step ?_ (upd_images ..)
    exact h755
  refine .step ?_ (upd_saved ..)
  exact h756

theorem State.pushPages_keeps (s c w a3) : Keeps 71614546043009276470375043734950012404239213238358212098698729201689180415331273281695912 s (State.pushPages s c w a3).1 := by
  induction a3 generalizing s c w
  · rw [State.pushPages]
    dsimp only
    exact .refl ..
  · rename_i e_ l_ ih
    rw [State.pushPages]
    split
    · refine .step ?_ (ih ..)
      exact .refl ..
    · split
      · refine .step ?_ (ih ..)
        exact .refl ..
      · split
        · refine .step ?_ (ih ..)
          exact .refl ..
        · split
          · refine .step ?_ (ih ..)
            exact .refl ..
          · split
            · extract_lets l804
              refine .step ?_ (ih ..)
              refine .step ?_ (State.emit_keeps ..)
              exact .refl ..
            · refine .step ?_ (ih ..)
              exact .refl ..
            · refine .step ?_ (ih ..)
              refine .step ?_ (State.reclaim_keeps ..)
              refine .step ?_ (State.corrupt_keeps ..)
              exact .refl ..

theorem State.goDeliver_keeps (s c w) : Keeps 71614546043009276470375043734950012404239213238358212098698729201689180415331342001172648 s (State.goDeliver s c w) := by
  unfold State.goDeliver
  split
  · rename_i v805 v806 v807
    refine .have_ (t := v805) (.fst_eq ?_ v807) fun h808 => ?_
    · refine .step ?_ (State.pushPages_keeps ..)
      exact .refl ..
    refine .ite (fun _ => ?_) fun _ => ?_
    · extract_lets l809
      refine .have_ (t := l809) ?_ fun h810 => ?_
      · unfold l809
        refine .step ?_ (State.setCmd_keeps ..)
        exact h808
      split
      · refine .step ?_ (State.emit_keeps ..)
        exact h810
      · exact h810
    · refine .step ?_ (State.setCmd_keeps ..)
      exact h808

theorem State.hollowChunk_keeps (s h) : Keeps 274877906944 s (State.hollowChunk s h) := by
  unfold State.hollowChunk
  refine .step ?_ (State.updChunk_keeps ..)
  exact .refl ..

theorem State.serveViews_keeps (s a1) : Keeps 71614546102294826159880935791818552888116652893006314115926173229466966666522831804756136 s (State.serveViews s a1) := by
  induction a1 generalizing s
  · rw [State.serveViews]
    exact .refl ..
  · rename_i e_ l_ ih
    rw [State.serveViews]
    refine .step ?_ (ih ..)
    split
    · refine .ite (fun _ => ?_) fun _ => ?_
      · refine .step ?_ (upd_viewWaits ..)
        exact .refl ..
      · refine .step ?_ (State.answerView_keeps ..)
        exact .refl ..
    · refine .step ?_ (State.answerView_keeps ..)
      exact .refl ..

theorem State.pumpViews_keeps (s) : Keeps 71614546102294826159880935791818552888116652893006314115926173229466966666522831804756136 s (State.pumpViews s) := by
  unfold State.pumpViews
  refine .step ?_ (State.reclaim_keeps ..)
  refine .step ?_ (State.serveViews_keeps ..)
  refine .step ?_ (upd_viewWaits ..)
  exact .refl ..

theorem State.imageLost_keeps (s h layer) : Keeps 71614546102294826159880935791818552888116652893006314115926173229466966666522831804756136 s (State.imageLost s h layer) := by
  unfold State.imageLost
  split
  · exact .refl ..
  · refine .ite (fun _ => ?_) fun _ => ?_
    · refine .step ?_ (State.pumpViews_keeps ..)
      refine .step ?_ (State.poisonPage_keeps ..)
      exact .refl ..
    · refine .ite (fun _ => ?_) fun _ => ?_
      · refine .step ?_ (State.reclaim_keeps ..)
        refine .step ?_ (State.updPage_keeps ..)
        exact .refl ..
      · exact .refl ..

theorem State.setGens_keeps (s prof tensor gs) : Keeps 2251799813685248 s (State.setGens s prof tensor gs) := by
  unfold State.setGens
  refine .step ?_ (upd_gens ..)
  exact .refl ..

theorem State.installAll_keeps (s prof a2 a3) : Keeps 2251799813685248 s (State.installAll s prof a2 a3).1 := by
  induction a3 generalizing s prof a2
  · rw [State.installAll]
    dsimp only
    exact .refl ..
  · rename_i e_ l_ ih
    rw [State.installAll]
    dsimp only
    refine .step ?_ (ih ..)
    refine .step ?_ (State.setGens_keeps ..)
    exact .refl ..

theorem State.reduced_keeps (s) : Keeps 452312848583266388385584124517114250918702653817360926748081100508379480192 s (State.reduced s) := by
  unfold State.reduced
  refine .ite (fun _ => ?_) fun _ => ?_
  · refine .step ?_ (State.setPart_keeps ..)
    exact .refl ..
  · exact .refl ..

theorem State.replaceUnit_keeps (s g u) : Keeps 71614546043010636942614923089075992373505584689186141291539573772133235482020370565886440 s (State.replaceUnit s g u) := by
  unfold State.replaceUnit
  extract_lets l872 l873
  refine .have_ (t := l872) ?_ fun h874 => ?_
  · unfold l872
    refine .step ?_ (State.addFld_keeps ..)
    exact .refl ..
  refine .have_ (t := l873) ?_ fun h875 => ?_
  · unfold l873
    split
    · refine .step ?_ (State.setUnit_keeps ..)
      exact h874
    · refine .step ?_ (State.reduced_keeps ..)
      refine .step ?_ (State.geoBump_keeps ..)
      refine .step ?_ (upd_flash ..)
      exact h874
  refine .ite (fun _ => ?_) fun _ => ?_
  · refine .step ?_ (State.requestReplace_keeps ..)
    exact h875
  · exact h875

theorem opTargetFailed_keeps (ch ce s) : Keeps 71614546102296358789281689491575458059706780505497270036501136147107466552742634743460328 s (opTargetFailed ch ce s) := by
  unfold opTargetFailed
  split
  · exact .refl ..
  · refine .ite (fun _ => ?_) fun _ => ?_
    · exact .refl ..
    · extract_lets l876 l877 l878 l879 l880 l881 l882 l883 l884
      refine .have_ (t := l882) ?_ fun h885 => ?_
      · unfold l882
        refine .foldl ?_ fun u a => ?_
        · unfold l880
          refine .step ?_ (upd_flash ..)
          exact .refl ..
        · unfold l881
          split
          · refine .ite (fun _ => ?_) fun _ => ?_
            · exact .refl ..
            · refine .ite (fun _ => ?_) fun _ => ?_
              · refine .step ?_ (State.poisonPage_keeps ..)
                exact .refl ..
              · refine .step ?_ (State.updPage_keeps ..)
                exact .refl ..
          · exact .refl ..
      refine .have_ (t := l883) ?_ fun h886 => ?_
      · unfold l883
        refine .foldl ?_ fun u a => ?_
        · exact h885
        · refine .step ?_ (State.replaceUnit_keeps ..)
          exact .refl ..
      refine .step ?_ (State.fltSync_keeps ..)
      refine .step ?_ (State.pumpViews_keeps ..)
      unfold l884
      refine .ite (fun _ => ?_) fun _ => ?_
      · exact h886
      · refine .step ?_ (State.requestReplace_keeps ..)
        exact h886

theorem State.placeImage_keeps (s steward kind hd n) : Keeps.Opt 464227514732017603087171584 s ((State.placeImage s steward kind hd n).map Prod.fst) := by
  unfold State.placeImage
  split
  · exact .none
  · split
    · exact .none
    · refine .after ?_ (State.appendCw_keeps ..)
      exact .refl ..

theorem State.moveImage_keeps (s h layer readOk) : Keeps 71614546102296359672705221880767610591391203949845661083466887421597862595725957850525928 s (State.moveImage s h layer readOk) := by
  unfold State.moveImage
  split
  · refine .ite (fun _ => ?_) fun _ => ?_
    · exact .refl ..
    · refine .ite (fun _ => ?_) fun _ => ?_
      · refine .step ?_ (State.imageLost_keeps ..)
        exact .refl ..
      · split
        · rename_i v895
          exact .refl ..
        · rename_i v897 v898 v899
          refine .have_ (t := v897) (Keeps.Opt.elim ?_ (congrArg (Option.map Prod.fst) v899)) fun h900 => ?_
          · refine .after ?_ (State.placeImage_keeps ..)
            exact .refl ..
          refine .step ?_ (State.fltSync_keeps ..)
          refine .step ?_ (State.markPending_keeps ..)
          refine .step ?_ (State.countCopied_keeps ..)
          refine .step ?_ (upd_images ..)
          exact h900
  · exact .refl ..

theorem State.moveRefs_keeps (s a b) : Keeps 274877906944 s (State.moveRefs s a b) := by
  unfold State.moveRefs
  extract_lets l901
  refine .step ?_ (upd_chunks ..)
  exact .refl ..

theorem State.moveTail_keeps (s t n tail) : Keeps 71614546043009276470375043733142200974687836818187753966913534883759781487782780588847264 s (State.moveTail s t n tail) := by
  unfold State.moveTail
  refine .ite (fun _ => ?_) fun _ => ?_
  · exact .refl ..
  · refine .ite (fun _ => ?_) fun _ => ?_
    · refine .step ?_ (State.overrun_keeps ..)
      exact .refl ..
    · refine .step ?_ (State.setFld_keeps ..)
      exact .refl ..

theorem State.pinOn_keeps (s c hs) : Keeps 200873385514540102493564106850516043123948750735132546039808 s (State.pinOn s c hs) := by
  unfold State.pinOn
  extract_lets l908
  refine .ite (fun _ => ?_) fun _ => ?_
  · refine .step ?_ (State.unpinAll_keeps ..)
    exact .refl ..
  · refine .ite (fun _ => ?_) fun _ => ?_
    · refine .ite (fun _ => ?_) fun _ => ?_
      · refine .step ?_ (State.unpinAll_keeps ..)
        exact .refl ..
      · refine .step ?_ (State.setCmd_keeps ..)
        refine .foldl ?_ fun u a => ?_
        · exact .refl ..
        · refine .step ?_ (State.demandAt_keeps ..)
          exact .refl ..
    · refine .step ?_ (State.reclaim_keeps ..)
      refine .step ?_ (State.finish_keeps ..)
      exact .refl ..

theorem State.programFailed_keeps (s h layer u) : Keeps 71614546043010823234552315660174603937986029591544465680027487551399430696713717800825064 s (State.programFailed s h layer u) := by
  unfold State.programFailed
  split
  · extract_lets l920 l921 l922
    refine .have_ (t := l922) ?_ fun h923 => ?_
    · unfold l922
      refine .step ?_ (State.setUnit_keeps ..)
      refine .step ?_ (State.addFld_keeps ..)
      exact .refl ..
    refine .ite (fun _ => ?_) fun _ => ?_
    · exact .refl ..
    · split
      · rename_i v924 v925 v926
        refine .have_ (t := v924) (Keeps.Opt.elim ?_ (congrArg (Option.map Prod.fst) v926)) fun h927 => ?_
        · refine .after ?_ (State.placeImage_keeps ..)
          exact h923
        refine .step ?_ (State.fltSync_keeps ..)
        refine .step ?_ (upd_images ..)
        exact h927
      · rename_i v928
        refine .step ?_ (State.fltSync_keeps ..)
        refine .step ?_ (State.reclaim_keeps ..)
        refine .step ?_ (State.updPage_keeps ..)
        exact h923
  · exact .refl ..

theorem State.promoteFor_keeps (s c h) : Keeps.Opt 2854495385411919762116571938898990633542746112 s (State.promoteFor s c h) := by
  unfold State.promoteFor
  split
  · exact .none
  · split
    · refine .some ?_
      refine .step ?_ (State.fail_keeps ..)
      exact .refl ..
    · refine .some ?_
      refine .step ?_ (State.setCmd_keeps ..)
      refine .step ?_ (State.demandAt_keeps ..)
      exact .refl ..

theorem State.unlink_keeps (s h) : Keeps 274877906944 s (State.unlink s h) := by
  unfold State.unlink
  refine .step ?_ (State.clearSl_keeps ..)
  refine .step ?_ (State.updChunk_keeps ..)
  exact .refl ..

theorem State.purge_keeps (s t a2) : Keeps 274877906944 s (State.purge s t a2).1 := by
  induction a2 generalizing s t
  · rw [State.purge]
    dsimp only
    exact .refl ..
  · rename_i e_ l_ ih
    rw [State.purge]
    split
    · dsimp only
      exact .refl ..
    · split
      · extract_lets l930
        refine .have_ (t := l930.1) ?_ fun h931 => ?_
        · unfold l930
          refine .step ?_ (ih ..)
          refine .step ?_ (State.unlink_keeps ..)
          exact .refl ..
        dsimp only
        exact h931
      · dsimp only
        exact .refl ..

theorem State.reencodeFrame_keeps (s h layer c p f x picks) : Keeps 71614546046714623325969161989709487457711468996319323177326087636456256196109090877927584 s (State.reencodeFrame s h layer c p f x picks) := by
  unfold State.reencodeFrame
  split
  · exact .refl ..
  · refine .ite (fun _ => ?_) fun _ => ?_
    · exact .refl ..
    · split
      · refine .step ?_ (State.reclaim_keeps ..)
        refine .step ?_ (State.corrupt_keeps ..)
        exact .refl ..
      · extract_lets l983
        split
        · rename_i v984
          exact .refl ..
        · rename_i v986 v987 v988
          refine .have_ (t := v986) (Keeps.Opt.elim ?_ (congrArg (Option.map Prod.fst) v988)) fun h989 => ?_
          · refine .after ?_ (State.newFrame_keeps ..)
            exact .refl ..
          extract_lets l990
          refine .step ?_ (State.reclaim_keeps ..)
          refine .step ?_ (State.countBlocks_keeps ..)
          refine .step ?_ (upd_chunks ..)
          exact h989

theorem State.replaceImage_keeps (s h charge k x r) : Keeps 71614546046716155955369915687859442325078279406157450138783670981214841504501187567743208 s (State.replaceImage s h charge k x r) := by
  unfold State.replaceImage
  extract_lets l991 l992
  refine .have_ (t := l991.1) ?_ fun h993 => ?_
  · unfold l991
    refine .step ?_ (State.tagFor_keeps ..)
    exact .refl ..
  split
  · rename_i v994
    exact .refl ..
  · rename_i v996 v997 v998
    refine .have_ (t := v996) (Keeps.Opt.elim ?_ (congrArg (Option.map Prod.fst) v998)) fun h999 => ?_
    · refine .after ?_ (State.placeImage_keeps ..)
      exact h993
    refine .step ?_ (State.fltSync_keeps ..)
    refine .step ?_ (State.reclaim_keeps ..)
    refine .step ?_ (State.countBlocks_keeps ..)
    refine .step ?_ (State.markPending_keeps ..)
    refine .step ?_ (upd_images ..)
    exact h999

theorem State.reencodeImage_keeps (s h layer c p k x) : Keeps 71614546046716155955369915689466380369337269681699412231124833583737044498283980403044584 s (State.reencodeImage s h layer c p k x) := by
  unfold State.reencodeImage
  refine .ite (fun _ => ?_) fun _ => ?_
  · exact .refl ..
  · generalize imageRaw s c.prof layer p.recov x.clens x.blocks = o
    cases o with
    | error e => exact .step (.step (.refl ..) (State.corrupt_keeps ..)) (State.reclaim_keeps ..)
    | ok raw => exact .step (.refl ..) (State.replaceImage_keeps ..)

theorem opHrtSync_keeps (s) : Keeps 730750818665451459101842416358285625153481080832 s (opHrtSync s) := by
  unfold opHrtSync
  refine .step ?_ (State.setFld_keeps ..)
  refine .step ?_ (upd_nextUid_syncAt ..)
  exact .refl ..

theorem opHistogramConfig_keeps (v s) : Keeps 22497132619625863857587469292776276435310841921966298948960256 s (opHistogramConfig v s) := by
  unfold opHistogramConfig
  extract_lets l1003 l1004
  refine .have_ (t := l1004) ?_ fun h1005 => ?_
  · unfold l1004
    refine .step ?_ (State.resetReg_keeps ..)
    unfold l1003
    refine .foldl ?_ fun u a => ?_
    · exact .refl ..
    · refine .step ?_ (State.resetReg_keeps ..)
      exact .refl ..
  refine .step ?_ (State.setReg_keeps ..)
  refine .step ?_ (upd_histPages ..)
  exact h1005

theorem opNodeQuery_keeps (v s) : Keeps 71835728478088540235547516897670742982128396352356352 s (opNodeQuery v s) := by
  unfold opNodeQuery
  extract_lets l1006 l1007 l1008 l1009
  refine .foldl ?_ fun u a => ?_
  · unfold l1009
    refine .step ?_ (State.setReg_keeps ..)
    exact .refl ..
  · refine .step ?_ (State.setReg_keeps ..)
    exact .refl ..

theorem State.trainLink_keeps (s l) : Keeps 6582018229284824168619876730229402019930943462534319453394436096 s (State.trainLink s l) := by
  unfold State.trainLink
  refine .ite (fun _ => ?_) fun _ => ?_
  · refine .step ?_ (State.setReg_keeps ..)
    exact .refl ..
  · refine .step ?_ (State.setReg_keeps ..)
    exact .refl ..

theorem State.ringConfig_keeps (s v) : Keeps 37846604818387738969564291198819061614602926090163957574429310976 s (State.ringConfig s v) := by
  unfold State.ringConfig
  extract_lets l1040 l1041 l1042 l1043 l1044 l1045 l1046
  refine .have_ (t := l1044) ?_ fun h1047 => ?_
  · unfold l1044
    refine .step ?_ (State.setFld_keeps ..)
    refine .step ?_ (State.setFld_keeps ..)
    refine .step ?_ (State.setFld_keeps ..)
    exact .refl ..
  refine .have_ (t := l1045) ?_ fun h1048 => ?_
  · unfold l1045
    refine .step ?_ (State.setFld_keeps ..)
    refine .step ?_ (State.setFld_keeps ..)
    exact h1047
  refine .ite (fun _ => ?_) fun _ => ?_
  · refine .ite (fun _ => ?_) fun _ => ?_
    · exact .refl ..
    · refine .step ?_ (State.setReg_keeps ..)
      refine .step ?_ (State.setReg_keeps ..)
      unfold l1043
      refine .step ?_ (State.setFld_keeps ..)
      unfold l1042
      refine .step ?_ (State.setFld_keeps ..)
      refine .step ?_ (State.setFld_keeps ..)
      unfold l1041
      refine .step ?_ (State.setFld_keeps ..)
      exact .refl ..
  · refine .ite (fun _ => ?_) fun _ => ?_
    · exact h1047
    · refine .step ?_ (State.trainLink_keeps ..)
      refine .step ?_ (State.trainLink_keeps ..)
      refine .step ?_ (State.setFld_keeps ..)
      unfold l1046
      refine .step ?_ (State.setRlink_keeps ..)
      refine .step ?_ (State.setRlink_keeps ..)
      exact h1048

theorem opPageQuery_keeps (v s) : Keeps 2746232009231672834178157872653354057044780506953015099392 s (opPageQuery v s) := by
  unfold opPageQuery
  extract_lets l1049 l1050 l1051 l1052 l1053
  refine .step ?_ (State.setReg_keeps ..)
  refine .step ?_ (State.setReg_keeps ..)
  unfold l1053
  refine .step ?_ (State.setReg_keeps ..)
  exact .refl ..

theorem opGenerationQuery_keeps (v s) : Keeps 87879424295413530693701051924907329825432976222496483180544 s (opGenerationQuery v s) := by
  unfold opGenerationQuery
  extract_lets l1054 l1055 l1056 l1057 l1058 l1059 l1060 l1061 l1062
  refine .foldl ?_ fun u a => ?_
  · unfold l1062
    refine .step ?_ (State.setReg_keeps ..)
    unfold l1061
    refine .step ?_ (State.setReg_keeps ..)
    exact .refl ..
  · refine .step ?_ (State.setReg_keeps ..)
    exact .refl ..

theorem opViewWindowConfig_keeps (t v s) : Keeps 124330809102446660538845562036705210025114037699336929360115994223289892267531853365248 s (opViewWindowConfig t v s) := by
  unfold opViewWindowConfig
  extract_lets l1063 l1064 l1065
  refine .have_ (t := l1065) ?_ fun h1066 => ?_
  · unfold l1065
    refine .step ?_ (State.setReg_keeps ..)
    exact .refl ..
  refine .ite (fun _ => ?_) fun _ => ?_
  · refine .step ?_ (State.setFld_keeps ..)
    exact .refl ..
  · refine .ite (fun _ => ?_) fun _ => ?_
    · refine .step ?_ (upd_viewSlots ..)
      exact h1066
    · exact h1066

theorem State.reparity_keeps (s rows) : Keeps 140737488355328 s (State.reparity s rows) := by
  unfold State.reparity
  refine .step ?_ (upd_parity ..)
  exact .refl ..

theorem State.resetSpool_keeps (s t n tail) : Keeps 51422017422309078417641492389836146908073520741022180061478912 s (State.resetSpool s t n tail) := by
  unfold State.resetSpool
  extract_lets l1098 l1099 l1100 l1101
  refine .have_ (t := l1098) ?_ fun h1102 => ?_
  · unfold l1098
    refine .step ?_ (State.cancelSpool_keeps ..)
    exact .refl ..
  refine .step ?_ (State.setReg_keeps ..)
  unfold l1101
  refine .step ?_ (State.setReg_keeps ..)
  unfold l1100
  refine .step ?_ (State.setSpool_keeps ..)
  exact h1102

theorem State.ringAcked_keeps (s l ack) : Keeps 3541774862152233910280 s (State.ringAcked s l ack) := by
  unfold State.ringAcked
  extract_lets l1128 l1129 l1130
  refine .have_ (t := l1130) ?_ fun h1131 => ?_
  · unfold l1130
    refine .step ?_ (State.setRlink_keeps ..)
    exact .refl ..
  refine .step ?_ (State.pumpLink_keeps ..)
  exact h1131

theorem State.ringPump_keeps (s) : Keeps 3541774862152233910280 s (State.ringPump s) := by
  unfold State.ringPump
  refine .step ?_ (State.pumpLink_keeps ..)
  refine .step ?_ (State.pumpLink_keeps ..)
  exact .refl ..

theorem State.ringResend_keeps (s l f) : Keeps 8 s (State.ringResend s l f) := by
  unfold State.ringResend
  extract_lets l1149
  refine .foldl ?_ fun u a => ?_
  · exact .refl ..
  · refine .step ?_ (State.emit_keeps ..)
    exact .refl ..

theorem State.roomTimeout_keeps (s c code detail) : Keeps 200873385514540102493564106850516043123948750735132546039808 s (State.roomTimeout s c code detail) := by
  unfold State.roomTimeout
  split
  · refine .step ?_ (State.deliverNoRoom_keeps ..)
    exact .refl ..
  · refine .ite (fun _ => ?_) fun _ => ?_
    · refine .step ?_ (State.unpinAll_keeps ..)
      refine .step ?_ (State.unstage_keeps ..)
      exact .refl ..
    · refine .step ?_ (State.reclaim_keeps ..)
      refine .step ?_ (State.fail_keeps ..)
      refine .step ?_ (State.unstage_keeps ..)
      exact .refl ..
  · refine .step ?_ (State.reclaim_keeps ..)
    refine .step ?_ (State.fail_keeps ..)
    exact .refl ..

theorem State.setBucket_keeps (s h b) : Keeps 1073741824 s (State.setBucket s h b) := by
  unfold State.setBucket
  refine .step ?_ (upd_buckets ..)
  exact .refl ..

theorem State.settleCommit_keeps (s c k w es picks) : Keeps 3705346855594118253755144917765174566812960322146588675611162782633755198619648 s (State.settleCommit s c k w es picks) := by
  unfold State.settleCommit
  extract_lets l1163 l1164 l1165
  clear_value l1163
  split
  · refine .ite (fun _ => ?_) fun _ => ?_
    · exact .refl ..
    · refine .ite (fun _ => ?_) fun _ => ?_
      · split
        · refine .step ?_ (State.reclaim_keeps ..)
          refine .step ?_ (State.fail_keeps ..)
          exact .refl ..
        · split
          · rename_i v1166
            exact .refl ..
          · rename_i v1168 v1169 v1170
            refine .have_ (t := v1168) (Keeps.Opt.elim ?_ (congrArg (Option.map Prod.fst) v1170)) fun h1171 => ?_
            · refine .after ?_ (State.placeAll_keeps ..)
              refine .step ?_ (withoutFrames_keeps ..)
              exact .refl ..
            extract_lets l1172 l1173
            refine .have_ (t := l1173) ?_ fun h1174 => ?_
            · unfold l1173
              refine .step ?_ (State.addFld_keeps ..)
              refine .step ?_ (State.swapTail_keeps ..)
              unfold l1172
              refine .step ?_ (State.updChunk_keeps ..)
              exact h1171
            refine .step ?_ (State.reclaim_keeps ..)
            refine .step ?_ (State.finish_keeps ..)
            exact h1174
        · exact .refl ..
      · refine .ite (fun _ => ?_) fun _ => ?_
        · refine .step ?_ (State.adopt_keeps ..)
          exact .refl ..
        · refine .step ?_ (State.codeAndLink_keeps ..)
          exact .refl ..
  · refine .step ?_ (State.codeAndLink_keeps ..)
    exact .refl ..

theorem State.stageListed_keeps (s c) : Keeps 274877906944 s (State.stageListed s c) := by
  unfold State.stageListed
  refine .ite (fun _ => ?_) fun _ => ?_
  · exact .refl ..
  · refine .foldl ?_ fun u a => ?_
    · exact .refl ..
    · refine .step ?_ (State.deliverChunk_keeps ..)
      exact .refl ..

theorem State.startCheck_keeps (s) : Keeps 3541774862152233910280 s (State.startCheck s) := by
  unfold State.startCheck
  refine .ite (fun _ => ?_) fun _ => ?_
  · refine .step ?_ (State.ringPut_keeps ..)
    exact .refl ..
  · exact .refl ..

theorem State.storeView_keeps (s t a slot layer byte bs picks) : Keeps 71614546106000173015475054045372628248965437965032469168797946589338825861250841439170720 s (State.storeView s t a slot layer byte bs picks) := by
  unfold State.storeView
  split
  · exact .refl ..
  · refine .ite (fun _ => ?_) fun _ => ?_
    · refine .ite (fun _ => ?_) fun _ => ?_
      · exact .refl ..
      · refine .step ?_ (State.logEv_keeps ..)
        exact .refl ..
    · split
      · refine .step ?_ (State.logEv_keeps ..)
        exact .refl ..
      · extract_lets l1200 l1201 l1202
        refine .have_ (t := l1202) ?_ fun h1203 => ?_
        · unfold l1202
          refine .step ?_ (State.reclaim_keeps ..)
          refine .step ?_ (State.poisonPage_keeps ..)
          exact .refl ..
        refine .ite (fun _ => ?_) fun _ => ?_
        · exact .refl ..
        · split
          · rename_i v1204 v1205
            refine .have_ (t := v1204) (Keeps.Opt.elim ?_ (congrArg WriteRes.st? v1205)) fun h1206 => ?_
            · refine .after ?_ (writePage_keeps ..)
              refine .step ?_ (State.wake_keeps ..)
              exact .refl ..
            exact h1206
          · rename_i v1207 v1208
            refine .have_ (t := v1207) (Keeps.Opt.elim ?_ (congrArg WriteRes.st? v1208)) fun h1209 => ?_
            · refine .after ?_ (writePage_keeps ..)
              refine .step ?_ (State.wake_keeps ..)
              exact .refl ..
            exact h1209
          · rename_i v1210 v1211
            refine .ite (fun _ => ?_) fun _ => ?_
            · refine .step ?_ (State.setFld_keeps ..)
              exact h1203
            · exact h1203

theorem State.unallocated_keeps (s bar2 wr host size off) : Keeps 71614546043009276470375043733142200974465685714828960347168282703445795557242622659589280 s (State.unallocated s bar2 wr host size off) := by
  unfold State.unallocated
  extract_lets l1213
  refine .have_ (t := l1213) ?_ fun h1214 => ?_
  · unfold l1213
    refine .ite (fun _ => ?_) fun _ => ?_
    · refine .step ?_ (State.addFld_keeps ..)
      exact .refl ..
    · refine .step ?_ (State.setReg_keeps ..)
      exact .refl ..
  refine .ite (fun _ => ?_) fun _ => ?_
  · refine .step ?_ (State.logEv_keeps ..)
    refine .step ?_ (upd_uaLogAt ..)
    exact h1214
  · exact h1214

theorem State.sweepCam_keeps (s) : Keeps 274877906944 s (State.sweepCam s) := by
  unfold State.sweepCam
  refine .step ?_ (upd_chunks ..)
  exact .refl ..

theorem State.take_keeps (s t n) : Keeps 59285549689505892108290361746944359450881673261990515247555452763670844429828096 s (State.take s t n) := by
  unfold State.take
  extract_lets l1228 l1229 l1230 l1231 l1232 l1233 l1234 l1235 l1236 l1237 l1238 l1239
  refine .have_ (t := l1238) ?_ fun h1240 => ?_
  · unfold l1238
    refine .step ?_ (State.wake_keeps ..)
    exact .refl ..
  refine .have_ (t := l1239) ?_ fun h1241 => ?_
  · unfold l1239
    refine .step ?_ (upd_inflight_nextUid ..)
    exact h1240
  refine .ite (fun _ => ?_) fun _ => ?_
  · refine .step ?_ (State.finishEarly_keeps ..)
    refine .step ?_ (State.freeCommand_keeps ..)
    exact h1241
  · refine .step ?_ (State.setSpool_keeps ..)
    exact h1241

theorem State.takeAttention_keeps (s c w) : Keeps 822752278660603021077484591278675252491367932816790000393781248 s (State.takeAttention s c w) := by
  unfold State.takeAttention
  extract_lets l1242 l1243
  refine .have_ (t := l1243) ?_ fun h1244 => ?_
  · unfold l1243
    refine .step ?_ (State.setFld_keeps ..)
    exact .refl ..
  refine .step ?_ (State.setCmd_keeps ..)
  exact h1244

theorem State.targetLate_keeps (s ch ce) : Keeps 71614546102296372924058207718650094726086786448845396656372311152059131525592245084418536 s (State.targetLate s ch ce) := by
  unfold State.targetLate
  split
  · exact .refl ..
  · extract_lets l1245 l1246 l1247 l1248
    refine .have_ (t := l1248) ?_ fun h1249 => ?_
    · unfold l1248
      refine .step ?_ (State.addFld_keeps ..)
      unfold l1247
      refine .step ?_ (upd_flash ..)
      exact .refl ..
    refine .ite (fun _ => ?_) fun _ => ?_
    · exact .refl ..
    · refine .ite (fun _ => ?_) fun _ => ?_
      · refine .step ?_ (opTargetFailed_keeps ..)
        exact h1249
      · exact h1249

theorem State.targetsAnswer_keeps (s us) : Keeps 77371252455336267181195264 s (State.targetsAnswer s us) := by
  unfold State.targetsAnswer
  split
  · exact .refl ..
  · extract_lets l1250
    refine .step ?_ (upd_flash ..)
    exact .refl ..

theorem opAnnouncedCellMissing_keeps (t n s) : Keeps 23384026197294446691258957323460528314494920687616 s (opAnnouncedCellMissing t n s) := by
  unfold opAnnouncedCellMissing
  extract_lets l1303
  refine .ite (fun _ => ?_) fun _ => ?_
  · exact .refl ..
  · refine .step ?_ (State.spoolError_keeps ..)
    exact .refl ..

theorem opAppend_keeps (uid hm picks s) : Keeps 71676711451265846656238584769522636529531247664645236387588239483080940962833774986459304 s (opAppend uid hm picks s) := by
  unfold opAppend
  split
  · exact .refl ..
  · extract_lets l1304 l1305 l1306 l1307
    split
    · split
      · refine .step ?_ (State.fail_keeps ..)
        exact .refl ..
      · refine .step ?_ (State.appendLayers_keeps ..)
        exact .refl ..
    · refine .ite (fun _ => ?_) fun _ => ?_
      · refine .step ?_ (State.fail_keeps ..)
        exact .refl ..
      · clear_value l1306
        split
        · refine .step ?_ (State.fail_keeps ..)
          exact .refl ..
        · refine .ite (fun _ => ?_) fun _ => ?_
          · refine .step ?_ (State.fail_keeps ..)
            exact .refl ..
          · extract_lets l1308 l1309
            split
            · rename_i v1310 v1311
              refine .have_ (t := v1310) (.fst_eq ?_ v1311) fun h1312 => ?_
              · refine .step ?_ (State.coherent_keeps ..)
                exact .refl ..
              exact h1312
            · rename_i v1313 v1314
              refine .have_ (t := v1313) (.fst_eq ?_ v1314) fun h1315 => ?_
              · refine .step ?_ (State.coherent_keeps ..)
                exact .refl ..
              refine .step ?_ (State.appendLayers_keeps ..)
              exact h1315

theorem opAttend_keeps (uid s) : Keeps 71676711447560499800644467182847653376734198963254865199799233046919724971939514263074988 s (opAttend uid s) := by
  unfold opAttend
  split
  · exact .refl ..
  · split
    · refine .step ?_ (State.attFail_keeps ..)
      exact .refl ..
    · refine .step ?_ (State.attOne_keeps ..)
      exact .refl ..
    · exact .refl ..

theorem opAttendBatch_keeps (uid hm s) : Keeps 71676711447560499800644467182847653376734198963254865199799233046919761865427661682178220 s (opAttendBatch uid hm s) := by
  unfold opAttendBatch
  split
  · exact .refl ..
  · split
    · refine .step ?_ (State.attFail_keeps ..)
      exact .refl ..
    · split
      · refine .step ?_ (State.attFail_keeps ..)
        exact .refl ..
      · extract_lets l1316 l1317 l1318
        split
        · rename_i v1319 v1320 v1321
          refine .have_ (t := v1319) (Keeps.Opt.elim ?_ (congrArg (Option.map Prod.fst) v1321)) fun h1322 => ?_
          · refine .after ?_ (State.attAccess_keeps ..)
            exact .refl ..
          refine .step ?_ (State.attFail_keeps ..)
          exact h1322
        · rename_i v1323
          split
          · rename_i v1325 v1326
            refine .have_ (t := v1325) (.fst_eq ?_ v1326) fun h1327 => ?_
            · refine .step ?_ (State.coherent_keeps ..)
              exact .refl ..
            exact h1327
          · rename_i v1328 v1329
            refine .have_ (t := v1328) (.fst_eq ?_ v1329) fun h1330 => ?_
            · refine .step ?_ (State.coherent_keeps ..)
              exact .refl ..
            split
            · refine .step ?_ (State.attFail_keeps ..)
              exact h1330
            · refine .step ?_ (State.attBegin_keeps ..)
              exact h1330
    · exact .refl ..

theorem opAttentionComplete_keeps (uid readOk now s) : Keeps 71614546043009276470375045354743561017301413839151386590510394679984589072311657206706414 s (opAttentionComplete uid readOk now s) := by
  unfold opAttentionComplete
  split
  · exact .refl ..
  · refine .ite (fun _ => ?_) fun _ => ?_
    · exact .refl ..
    · split
      · refine .step ?_ (State.attFail_keeps ..)
        refine .step ?_ (State.cutElems_keeps ..)
        refine .step ?_ (State.leavePanel_keeps ..)
        exact .refl ..
      · split
        · rename_i v1331 v1332
          refine .have_ (t := v1331) (.fst_eq ?_ v1332) fun h1333 => ?_
          · refine .step ?_ (State.coherent_keeps ..)
            refine .step ?_ (State.atNow_keeps ..)
            exact .refl ..
          exact h1333
        · rename_i v1334 v1335
          refine .have_ (t := v1334) (.fst_eq ?_ v1335) fun h1336 => ?_
          · refine .step ?_ (State.coherent_keeps ..)
            refine .step ?_ (State.atNow_keeps ..)
            exact .refl ..
          extract_lets l1337
          refine .ite (fun _ => ?_) fun _ => ?_
          · refine .step ?_ (State.endBatch_keeps ..)
            exact h1336
          · refine .step ?_ (State.endOne_keeps ..)
            exact h1336

theorem opAttentionTake_keeps (uid hm now s) : Keeps 1491439378457857515805434385799449411183728365892266564675174414 s (opAttentionTake uid hm now s) := by
  unfold opAttentionTake
  split
  · exact .refl ..
  · refine .ite (fun _ => ?_) fun _ => ?_
    · exact .refl ..
    · split
      · refine .step ?_ (State.attFail_keeps ..)
        exact .refl ..
      · extract_lets l1338 l1339 l1340 l1341 l1342 l1343 l1344 l1345
        refine .have_ (t := l1338) ?_ fun h1346 => ?_
        · unfold l1338
          refine .step ?_ (State.atNow_keeps ..)
          exact .refl ..
        refine .have_ (t := l1345) ?_ fun h1347 => ?_
        · unfold l1345
          refine .step ?_ (State.setCmd_keeps ..)
          refine .ite (fun _ => ?_) fun _ => ?_
          · refine .step ?_ (State.waitEnds_keeps ..)
            exact h1346
          · exact h1346
        refine .ite (fun _ => ?_) fun _ => ?_
        · refine .foldl ?_ fun u a => ?_
          · exact h1347
          · refine .step ?_ (State.demand_keeps ..)
            exact .refl ..
        · refine .ite (fun _ => ?_) fun _ => ?_
          · exact h1347
          · split
            · rename_i v1348 v1349
              refine .have_ (t := v1348) (.fst_eq ?_ v1349) fun h1350 => ?_
              · refine .step ?_ (State.coherent_keeps ..)
                exact h1347
              exact h1350
            · rename_i v1351 v1352
              refine .have_ (t := v1351) (.fst_eq ?_ v1352) fun h1353 => ?_
              · refine .step ?_ (State.coherent_keeps ..)
                exact h1347
              extract_lets l1354
              split
              · refine .step ?_ (State.attFail_keeps ..)
                exact h1353
              · refine .step ?_ (State.takeAttention_keeps ..)
                exact h1353

theorem opCamHit_keeps (link dst uid pos handle s) : Keeps 22431240793699534241800 s (opCamHit link dst uid pos handle s) := by
  unfold opCamHit
  refine .ite (fun _ => ?_) fun _ => ?_
  · refine .step ?_ (State.ringPut_keeps ..)
    exact .refl ..
  · refine .step ?_ (State.camDone_keeps ..)
    exact .refl ..

theorem opCamSearch_keeps (src cpos uid word s) : Keeps 22431240793630814765064 s (opCamSearch src cpos uid word s) := by
  unfold opCamSearch
  refine .ite (fun _ => ?_) fun _ => ?_
  · exact .refl ..
  · extract_lets l1355
    refine .step ?_ (State.ringPut_keeps ..)
    refine .step ?_ (upd_camReqs ..)
    exact .refl ..

theorem opCascadeMissTimeout_keeps (uid s) : Keeps 18889465931547300331520 s (opCascadeMissTimeout uid s) := by
  unfold opCascadeMissTimeout
  refine .ite (fun _ => ?_) fun _ => ?_
  · refine .step ?_ (State.camDone_keeps ..)
    exact .refl ..
  · exact .refl ..

theorem opCascadeSlot_keeps (slot matchIn s) : Keeps 22431240793699534241802 s (opCascadeSlot slot matchIn s) := by
  unfold opCascadeSlot
  extract_lets l1357 l1358
  refine .have_ (t := l1357) ?_ fun h1359 => ?_
  · unfold l1357
    refine .step ?_ (State.atNow_keeps ..)
    exact .refl ..
  split
  · refine .step ?_ (State.emit_keeps ..)
    exact h1359
  · extract_lets l1360 l1361 l1362
    refine .have_ (t := l1362) ?_ fun h1363 => ?_
    · unfold l1362
      refine .step ?_ (State.emit_keeps ..)
      unfold l1361
      refine .step ?_ (upd_camReqs ..)
      exact h1359
    clear_value l1360
    split
    · refine .ite (fun _ => ?_) fun _ => ?_
      · exact h1363
      · refine .ite (fun _ => ?_) fun _ => ?_
        · refine .step ?_ (State.camAnswer_keeps ..)
          refine .step ?_ (upd_camReqs ..)
          exact h1363
        · refine .step ?_ (State.ringSend_keeps ..)
          exact h1363
    · exact h1363

theorem opCommandCellsMissing_keeps (t n q s) : Keeps 51422017422496150627219847963366218566661204967538139426979840 s (opCommandCellsMissing t n q s) := by
  unfold opCommandCellsMissing
  extract_lets l1369
  split
  · exact .refl ..
  · refine .ite (fun _ => ?_) fun _ => ?_
    · exact .refl ..
    · refine .step ?_ (State.addFld_keeps ..)
      refine .step ?_ (State.spoolError_keeps ..)
      refine .step ?_ (State.dropCommand_keeps ..)
      exact .refl ..

theorem opCommandDecode_keeps (s) : Keeps 59285549689505892108290361746944359450881673261990515247555452763670878789566464 s (opCommandDecode s) := by
  unfold opCommandDecode
  split
  · exact .refl ..
  · split
    · exact .refl ..
    · refine .step ?_ (State.take_keeps ..)
      extract_lets l1370
      refine .have_ (t := l1370) ?_ fun h1371 => ?_
      · unfold l1370
        refine .step ?_ (State.countPassed_keeps ..)
        exact .refl ..
      refine .step ?_ (upd_rotor ..)
      exact h1371

theorem tokenSource_keeps (s c ntok tsrc taddr hm) : Keeps 71676711447560499800644466514160553579479707089800456090944836471131304582429448865904808 s (tokenSource s c ntok tsrc taddr hm).1 := by
  unfold tokenSource
  extract_lets l1372
  split
  · dsimp only
    exact .refl ..
  · split
    · split
      · dsimp only
        exact .refl ..
      · dsimp only
        exact .refl ..
    · split
      · rename_i v1373 v1374
        refine .have_ (t := v1373) (.fst_eq ?_ v1374) fun h1375 => ?_
        · refine .step ?_ (State.coherent_keeps ..)
          exact .refl ..
        dsimp only
        exact h1375
      · rename_i v1376 v1377
        refine .have_ (t := v1376) (.fst_eq ?_ v1377) fun h1378 => ?_
        · refine .step ?_ (State.coherent_keeps ..)
          exact .refl ..
        split
        · dsimp only
          refine .step ?_ (State.deny_keeps ..)
          exact h1378
        · dsimp only
          refine .step ?_ (State.countUnbacked_keeps ..)
          exact h1378
        · dsimp only
          exact h1378
        · dsimp only
          exact h1378

theorem opCommit_keeps (uid hm s) : Keeps 71676711447560499800644466534849887029296370350958651463225413579841402614474516748892328 s (opCommit uid hm s) := by
  unfold opCommit
  split
  · exact .refl ..
  · split
    · exact .refl ..
    · extract_lets l1379 l1380 l1381
      refine .ite (fun _ => ?_) fun _ => ?_
      · refine .step ?_ (State.fail_keeps ..)
        exact .refl ..
      · split
        · refine .step ?_ (State.fail_keeps ..)
          exact .refl ..
        · split
          · refine .step ?_ (State.fail_keeps ..)
            exact .refl ..
          · refine .ite (fun _ => ?_) fun _ => ?_
            · refine .step ?_ (State.fail_keeps ..)
              exact .refl ..
            · refine .ite (fun _ => ?_) fun _ => ?_
              · refine .step ?_ (State.fail_keeps ..)
                exact .refl ..
              · refine .ite (fun _ => ?_) fun _ => ?_
                · refine .step ?_ (State.fail_keeps ..)
                  exact .refl ..
                · split
                  · rename_i v1382 v1383
                    refine .have_ (t := v1382) (.fst_eq ?_ v1383) fun h1384 => ?_
                    · refine .step ?_ (tokenSource_keeps ..)
                      exact .refl ..
                    exact h1384
                  · rename_i v1385 v1386 v1387 v1388
                    refine .have_ (t := v1385) (.fst_eq ?_ v1388) fun h1389 => ?_
                    · refine .step ?_ (tokenSource_keeps ..)
                      exact .refl ..
                    refine .step ?_ (State.fail_keeps ..)
                    exact h1389
                  · rename_i v1390 v1391 v1392
                    refine .have_ (t := v1390) (.fst_eq ?_ v1392) fun h1393 => ?_
                    · refine .step ?_ (tokenSource_keeps ..)
                      exact .refl ..
                    refine .step ?_ (State.beginCommit_keeps ..)
                    exact h1393

theorem opCommitLink_keeps (uid picks s) : Keeps 71614546046714623325969161988504283936489850557172993725914563950748333346221354110742688 s (opCommitLink uid picks s) := by
  unfold opCommitLink
  split
  · exact .refl ..
  · split
    · split
      · exact .refl ..
      · refine .ite (fun _ => ?_) fun _ => ?_
        · exact .refl ..
        · refine .ite (fun _ => ?_) fun _ => ?_
          · refine .step ?_ (State.reclaim_keeps ..)
            refine .step ?_ (State.fail_keeps ..)
            exact .refl ..
          · split
            · refine .step ?_ (State.reclaim_keeps ..)
              refine .step ?_ (State.fail_keeps ..)
              refine .step ?_ (State.corrupt_keeps ..)
              exact .refl ..
            · refine .step ?_ (State.reclaim_keeps ..)
              refine .step ?_ (State.fail_keeps ..)
              exact .refl ..
            · refine .step ?_ (State.settleCommit_keeps ..)
              exact .refl ..
    · exact .refl ..

theorem opCompletionEntryWrite_keeps (t m s) : Keeps 17179869184 s (opCompletionEntryWrite t m s) := by
  unfold opCompletionEntryWrite
  extract_lets l1412
  split
  · exact .refl ..
  · refine .ite (fun _ => ?_) fun _ => ?_
    · refine .step ?_ (State.setComp_keeps ..)
      exact .refl ..
    · exact .refl ..

theorem opCompletionHeadRead_keeps (h t off size s) : Keeps 71614546043009276470375043733142200974513918123356265555388766419497371795881558378871976 s (opCompletionHeadRead h t off size s) := by
  unfold opCompletionHeadRead
  extract_lets l1413 l1414 l1415 l1416 l1417
  split
  · refine .step ?_ (State.denyBar2_keeps ..)
    exact .refl ..
  · refine .ite (fun _ => ?_) fun _ => ?_
    · refine .step ?_ (State.emit_keeps ..)
      exact .refl ..
    · refine .ite (fun _ => ?_) fun _ => ?_
      · refine .step ?_ (State.emit_keeps ..)
        exact .refl ..
      · refine .ite (fun _ => ?_) fun _ => ?_
        · split
          · refine .step ?_ (State.emit_keeps ..)
            refine .step ?_ (State.consume_keeps ..)
            exact .refl ..
        · refine .ite (fun _ => ?_) fun _ => ?_
          · refine .step ?_ (State.emit_keeps ..)
            exact .refl ..
          · refine .ite (fun _ => ?_) fun _ => ?_
            · refine .step ?_ (State.emit_keeps ..)
              exact .refl ..
            · refine .ite (fun _ => ?_) fun _ => ?_
              · refine .step ?_ (State.emit_keeps ..)
                exact .refl ..
              · refine .step ?_ (State.emit_keeps ..)
                refine .step ?_ (State.unallocated_keeps ..)
                exact .refl ..

theorem opCounterDecay_keeps (s) : Keeps 49039857307708443467467104868809893875799652184753176576 s (opCounterDecay s) := by
  unfold opCounterDecay
  extract_lets l1434 l1435 l1436
  refine .step ?_ (State.sweepCam_keeps ..)
  refine .step ?_ (State.addFld_keeps ..)
  unfold l1436
  refine .step ?_ (upd_chunks ..)
  exact .refl ..

theorem opCxlMemRequestAdmit_keeps (h port req hpa s) : Keeps 1073741832 s (opCxlMemRequestAdmit h port req hpa s) := by
  unfold opCxlMemRequestAdmit
  refine .ite (fun _ => ?_) fun _ => ?_
  · refine .step ?_ (State.emit_keeps ..)
    exact .refl ..
  · extract_lets l1455 l1456
    refine .have_ (t := l1455) ?_ fun h1457 => ?_
    · unfold l1455
      refine .step ?_ (State.emit_keeps ..)
      exact .refl ..
    refine .ite (fun _ => ?_) fun _ => ?_
    · refine .step ?_ (State.emit_keeps ..)
      refine .step ?_ (State.setBucket_keeps ..)
      exact h1457
    · refine .ite (fun _ => ?_) fun _ => ?_
      · refine .step ?_ (State.emit_keeps ..)
        refine .step ?_ (State.setBucket_keeps ..)
        exact h1457
      · refine .step ?_ (State.emit_keeps ..)
        refine .step ?_ (State.setBucket_keeps ..)
        exact h1457

theorem opDeliver_keeps (uid s) : Keeps 71614546043009276470375043734950012404239216092853597510618491318261119314321631946535080 s (opDeliver uid s) := by
  unfold opDeliver
  split
  · exact .refl ..
  · split
    · refine .step ?_ (State.cancelDeliver_keeps ..)
      exact .refl ..
    · refine .ite (fun _ => ?_) fun _ => ?_
      · refine .step ?_ (State.stageListed_keeps ..)
        exact .refl ..
      · split
        · refine .step ?_ (State.goDeliver_keeps ..)
          exact .refl ..
        · refine .ite (fun _ => ?_) fun _ => ?_
          · refine .step ?_ (State.fail_keeps ..)
            exact .refl ..
          · split
            · refine .step ?_ (State.fail_keeps ..)
              exact .refl ..
            · refine .step ?_ (State.beginDeliver_keeps ..)
              exact .refl ..

theorem opDeliverComplete_keeps (uid readOk now s) : Keeps 200971465229155519380499041060253662911700350037852784951298 s (opDeliverComplete uid readOk now s) := by
  unfold opDeliverComplete
  split
  · exact .refl ..
  · split
    · refine .step ?_ (State.cancelDeliver_keeps ..)
      exact .refl ..
    · extract_lets l1462 l1463 l1464 l1465 l1466 l1467 l1468 l1469 l1470 l1471
      refine .have_ (t := l1463) ?_ fun h1472 => ?_
      · unfold l1463
        refine .step ?_ (State.atNow_keeps ..)
        exact .refl ..
      refine .have_ (t := l1471) ?_ fun h1473 => ?_
      · unfold l1471
        refine .ite (fun _ => ?_) fun _ => ?_
        · refine .step ?_ (State.setFld_keeps ..)
          refine .step ?_ (State.addFld_keeps ..)
          exact h1472
        · exact h1472
      refine .ite (fun _ => ?_) fun _ => ?_
      · exact .refl ..
      · refine .step ?_ (State.reclaim_keeps ..)
        refine .step ?_ (State.finish_keeps ..)
        refine .step ?_ (State.endHolds_keeps ..)
        exact h1473
    · exact .refl ..

theorem opDeliveryHoldExpire_keeps (h layer now s) : Keeps 274877906946 s (opDeliveryHoldExpire h layer now s) := by
  unfold opDeliveryHoldExpire
  extract_lets l1474
  refine .have_ (t := l1474) ?_ fun h1475 => ?_
  · unfold l1474
    refine .step ?_ (State.atNow_keeps ..)
    exact .refl ..
  refine .step ?_ (State.updPage_keeps ..)
  exact h1475

theorem opDemotePage_keeps (holder s) : Keeps 200897905443191102219912428483188331498947751569629307207680 s (opDemotePage holder s) := by
  unfold opDemotePage
  extract_lets l1476 l1477
  refine .have_ (t := l1476) ?_ fun h1478 => ?_
  · unfold l1476
    refine .step ?_ (State.ladder_keeps ..)
    exact .refl ..
  refine .ite (fun _ => ?_) fun _ => ?_
  · exact h1478
  · split
    · exact h1478
    · extract_lets l1479
      refine .step ?_ (State.reclaim_keeps ..)
      refine .step ?_ (State.addFld_keeps ..)
      unfold l1479
      refine .step ?_ (State.updPage_keeps ..)
      exact h1478

theorem opDevloadWindowEnd_keeps (s) : Keeps 7516192768 s (opDevloadWindowEnd s) := by
  unfold opDevloadWindowEnd
  extract_lets l1509 l1510
  refine .have_ (t := l1510) ?_ fun h1511 => ?_
  · unfold l1510
    refine .foldl ?_ fun u a => ?_
    · exact .refl ..
    · extract_lets l1512
      refine .step ?_ (State.setBucket_keeps ..)
      exact .refl ..
  refine .step ?_ (upd_wheels_devLevels ..)
  exact h1511

theorem opDoorbell_keeps (h t n size v s) : Keeps 71614546043009276470375043784564218396963297843675250177711234924108888820362601436346536 s (opDoorbell h t n size v s) := by
  unfold opDoorbell
  split
  · refine .step ?_ (State.denyBar2_keeps ..)
    exact .refl ..
  · refine .ite (fun _ => ?_) fun _ => ?_
    · exact .refl ..
    · refine .ite (fun _ => ?_) fun _ => ?_
      · refine .step ?_ (State.resetSpool_keeps ..)
        exact .refl ..
      · refine .step ?_ (State.moveTail_keeps ..)
        exact .refl ..

theorem opExtend_keeps (uid seqPick chunkPick s) : Keeps 200873385514540102493564106850516043123948750734582790225920 s (opExtend uid seqPick chunkPick s) := by
  unfold opExtend
  split
  · exact .refl ..
  · extract_lets l1517
    refine .ite (fun _ => ?_) fun _ => ?_
    · refine .step ?_ (State.extendWith_keeps ..)
      exact .refl ..
    · split
      · refine .step ?_ (State.fail_keeps ..)
        exact .refl ..
      · extract_lets l1518 l1519
        split
        · refine .step ?_ (State.fail_keeps ..)
          exact .refl ..
        · refine .ite (fun _ => ?_) fun _ => ?_
          · refine .step ?_ (State.fail_keeps ..)
            exact .refl ..
          · refine .ite (fun _ => ?_) fun _ => ?_
            · split
              · rename_i v1520 v1521
                refine .have_ (t := v1520) (Keeps.Opt.elim ?_ v1521) fun h1522 => ?_
                · refine .after ?_ (State.promoteFor_keeps ..)
                  exact .refl ..
                exact h1522
              · rename_i v1523
                refine .step ?_ (State.extendWith_keeps ..)
                exact .refl ..
            · refine .ite (fun _ => ?_) fun _ => ?_
              · refine .step ?_ (State.fail_keeps ..)
                exact .refl ..
              · refine .step ?_ (State.extendWith_keeps ..)
                exact .refl ..

theorem opFlashOpComplete_keeps (op s) : Keeps 71614546102296379991446466832187413059276789420519459966307898964019973833362118979678696 s (opFlashOpComplete op s) := by
  unfold opFlashOpComplete
  split
  · split
    · refine .ite (fun _ => ?_) fun _ => ?_
      · exact .refl ..
      · refine .step ?_ (State.targetsAnswer_keeps ..)
        refine .step ?_ (upd_images ..)
        exact .refl ..
    · exact .refl ..
  · refine .ite (fun _ => ?_) fun _ => ?_
    · exact .refl ..
    · refine .step ?_ (State.targetsAnswer_keeps ..)
      refine .step ?_ (State.programFailed_keeps ..)
      exact .refl ..
  · extract_lets l1540 l1541 l1542 l1543
    refine .have_ (t := l1541) ?_ fun h1544 => ?_
    · unfold l1541
      refine .step ?_ (State.addFld_keeps ..)
      refine .step ?_ (State.addFld_keeps ..)
      refine .step ?_ (State.addFld_keeps ..)
      unfold l1540
      refine .step ?_ (State.targetsAnswer_keeps ..)
      exact .refl ..
    refine .ite (fun _ => ?_) fun _ => ?_
    · exact h1544
    · refine .step ?_ (State.imageLost_keeps ..)
      refine .step ?_ (State.addFld_keeps ..)
      exact h1544
  · refine .step ?_ (State.targetLate_keeps ..)
    exact .refl ..

theorem opFlashRetrain_keeps (ch ce s) : Keeps 77371252455336267181195264 s (opFlashRetrain ch ce s) := by
  unfold opFlashRetrain
  split
  · exact .refl ..
  · extract_lets l1545 l1546
    refine .step ?_ (upd_flash ..)
    exact .refl ..

theorem opFlashTempPoll_keeps (temps s) : Keeps 71614546043011035256200089066093280548171581493768186283164358312266133161032862639649000 s (opFlashTempPoll temps s) := by
  unfold opFlashTempPoll
  split
  · exact .refl ..
  · extract_lets l1547 l1548 l1549 l1550
    refine .have_ (t := l1550) ?_ fun h1551 => ?_
    · unfold l1550
      refine .step ?_ (upd_flash ..)
      exact .refl ..
    clear_value l1549
    split
    · exact h1551
    · refine .step ?_ (State.fltSync_keeps ..)
      refine .step ?_ (State.addFld_keeps ..)
      exact h1551

theorem opFold_keeps (h layer readOk s) : Keeps 71614546102296359672705221880767610591391203949845661083466887421597862595725957850525928 s (opFold h layer readOk s) := by
  unfold opFold
  split
  · refine .ite (fun _ => ?_) fun _ => ?_
    · refine .step ?_ (State.moveImage_keeps ..)
      exact .refl ..
    · exact .refl ..
  · exact .refl ..

theorem opFork_keeps (uid seqPick chunkPick s) : Keeps 200873385514540102493564106850516043123948750734582790225920 s (opFork uid seqPick chunkPick s) := by
  unfold opFork
  split
  · exact .refl ..
  · extract_lets l1571 l1572
    split
    · refine .step ?_ (State.fail_keeps ..)
      exact .refl ..
    · extract_lets l1573
      refine .ite (fun _ => ?_) fun _ => ?_
      · refine .step ?_ (State.fail_keeps ..)
        exact .refl ..
      · split
        · split
          · rename_i v1574 v1575
            refine .have_ (t := v1574) (Keeps.Opt.elim ?_ v1575) fun h1576 => ?_
            · refine .bind fun x => ?_
              refine .after ?_ (State.promoteFor_keeps ..)
              exact .refl ..
            exact h1576
          · rename_i v1577
            split
            · refine .step ?_ (State.fail_keeps ..)
              exact .refl ..
            · refine .ite (fun _ => ?_) fun _ => ?_
              · exact .refl ..
              · extract_lets l1579 l1580 l1581
                refine .have_ (t := l1579) ?_ fun h1582 => ?_
                · unfold l1579
                  split
                  · refine .step ?_ (State.setChunk_keeps ..)
                    exact .refl ..
                  · exact .refl ..
                refine .step ?_ (State.reclaim_keeps ..)
                refine .step ?_ (State.finish_keeps ..)
                refine .step ?_ (State.setSeq_keeps ..)
                exact h1582

theorem opFrameCompact_keeps (base picks s) : Keeps 3705346855594118253755144905792550299302818204302240409427433386621447385907200 s (opFrameCompact base picks s) := by
  unfold opFrameCompact
  extract_lets l1585
  refine .ite (fun _ => ?_) fun _ => ?_
  · exact .refl ..
  · split
    · extract_lets l1586
      split
      · rename_i v1587
        exact .refl ..
      · rename_i v1589 v1590 v1591
        refine .have_ (t := v1589) (Keeps.Opt.elim ?_ (congrArg (Option.map Prod.fst) v1591)) fun h1592 => ?_
        · refine .after ?_ (State.newFrame_keeps ..)
          exact .refl ..
        refine .step ?_ (State.reclaim_keeps ..)
        refine .step ?_ (State.moveRefs_keeps ..)
        exact h1592
    · exact .refl ..

theorem opGcStart_keeps (idleUs s) : Keeps 441711766194596082395824375185729628956870975456844778815781825222279168 s (opGcStart idleUs s) := by
  unfold opGcStart
  split
  · exact .refl ..
  · extract_lets l1623 l1624 l1625 l1626
    refine .have_ (t := l1626) ?_ fun h1627 => ?_
    · unfold l1626
      refine .step ?_ (State.setFld_keeps ..)
      unfold l1625
      refine .step ?_ (State.setFld_keeps ..)
      exact .refl ..
    refine .ite (fun _ => ?_) fun _ => ?_
    · exact .refl ..
    · split
      · refine .step ?_ (upd_victims ..)
        exact h1627
      · exact h1627

theorem opGcStepRecompute_keeps (s) : Keeps 441711766194596082395824375185729628956870975456844778815781825222279168 s (opGcStepRecompute s) := by
  unfold opGcStepRecompute
  extract_lets l1628 l1629 l1630
  refine .step ?_ (State.setFld_keeps ..)
  unfold l1630
  refine .ite (fun _ => ?_) fun _ => ?_
  · refine .step ?_ (State.setFld_keeps ..)
    exact .refl ..
  · refine .ite (fun _ => ?_) fun _ => ?_
    · refine .step ?_ (State.setFld_keeps ..)
      refine .step ?_ (upd_victims ..)
      exact .refl ..
    · exact .refl ..

theorem opHeldRequestRelease_keeps (h s) : Keeps 1073741832 s (opHeldRequestRelease h s) := by
  unfold opHeldRequestRelease
  extract_lets l1632
  split
  · refine .step ?_ (State.setBucket_keeps ..)
    exact .refl ..
  · refine .ite (fun _ => ?_) fun _ => ?_
    · refine .step ?_ (State.emit_keeps ..)
      refine .step ?_ (State.setBucket_keeps ..)
      exact .refl ..
    · refine .ite (fun _ => ?_) fun _ => ?_
      · refine .step ?_ (State.emit_keeps ..)
        refine .step ?_ (State.setBucket_keeps ..)
        exact .refl ..
      · refine .step ?_ (State.setBucket_keeps ..)
        exact .refl ..

theorem opHrtSyncDone_keeps (s) : Keeps 730750818665451459101842416358141509827966271488 s (opHrtSyncDone s) := by
  unfold opHrtSyncDone
  refine .ite (fun _ => ?_) fun _ => ?_
  · exact .refl ..
  · refine .step ?_ (State.setFld_keeps ..)
    exact .refl ..

theorem opImageMove_keeps (h layer readOk s) : Keeps 71614546102296359672705221880767610591391203949845661083466887421597862595725957850525928 s (opImageMove h layer readOk s) := by
  unfold opImageMove
  split
  · refine .ite (fun _ => ?_) fun _ => ?_
    · refine .step ?_ (State.moveImage_keeps ..)
      exact .refl ..
    · exact .refl ..
  · exact .refl ..

theorem opJournalFlush_keeps (wrap s) : Keeps 71614546046716155955369915686453365406369499451502799874597087502217524931149476099322092 s (opJournalFlush wrap s) := by
  unfold opJournalFlush
  split
  · exact .refl ..
  · extract_lets l1637 l1638
    refine .have_ (t := l1637) ?_ fun h1639 => ?_
    · unfold l1637
      refine .ite (fun _ => ?_) fun _ => ?_
      · refine .step ?_ (State.advanceRing_keeps ..)
        exact .refl ..
      · exact .refl ..
    refine .step ?_ (State.fltSync_keeps ..)
    refine .step ?_ (State.flushJournal_keeps ..)
    refine .step ?_ (State.setUnit_keeps ..)
    exact h1639

theorem opLookup_keeps (uid hm pick s) : Keeps 71676711447560499800644492893655488536146887722644513611943755487633063411768054155114664 s (opLookup uid hm pick s) := by
  unfold opLookup
  split
  · exact .refl ..
  · extract_lets l1646 l1647 l1648 l1649
    refine .ite (fun _ => ?_) fun _ => ?_
    · refine .step ?_ (State.failLookup_keeps ..)
      exact .refl ..
    · split
      · rename_i v1650 v1651
        refine .have_ (t := v1650) (.fst_eq ?_ v1651) fun h1652 => ?_
        · refine .step ?_ (tokenSource_keeps ..)
          exact .refl ..
        exact h1652
      · rename_i v1653 v1654 v1655 v1656
        refine .have_ (t := v1653) (.fst_eq ?_ v1656) fun h1657 => ?_
        · refine .step ?_ (tokenSource_keeps ..)
          exact .refl ..
        refine .step ?_ (State.failLookup_keeps ..)
        exact h1657
      · rename_i v1658 v1659 v1660
        refine .have_ (t := v1658) (.fst_eq ?_ v1660) fun h1661 => ?_
        · refine .step ?_ (tokenSource_keeps ..)
          exact .refl ..
        extract_lets l1662
        split
        · refine .step ?_ (State.camBroadcast_keeps ..)
          refine .step ?_ (State.setCmd_keeps ..)
          exact h1661
        · refine .step ?_ (State.endLookup_keeps ..)
          exact h1661

theorem opMakeHollow_keeps (holder s) : Keeps 200922425371844956441646162035622736445885651395584244842496 s (opMakeHollow holder s) := by
  unfold opMakeHollow
  extract_lets l1663 l1664
  refine .have_ (t := l1663) ?_ fun h1665 => ?_
  · unfold l1663
    refine .step ?_ (State.ladder_keeps ..)
    exact .refl ..
  split
  · refine .step ?_ (State.reclaim_keeps ..)
    refine .step ?_ (State.hollowChunk_keeps ..)
    exact h1665
  · refine .ite (fun _ => ?_) fun _ => ?_
    · exact h1665
    · split
      · exact h1665
      · extract_lets l1666
        refine .have_ (t := l1666) ?_ fun h1667 => ?_
        · unfold l1666
          refine .step ?_ (State.hollowChunk_keeps ..)
          exact h1665
        refine .step ?_ (State.reclaim_keeps ..)
        refine .ite (fun _ => ?_) fun _ => ?_
        · refine .step ?_ (State.addFld_keeps ..)
          exact h1667
        · exact h1667

theorem opMapCheckpoint_keeps (now s) : Keeps 9903520314283042199192993794 s (opMapCheckpoint now s) := by
  unfold opMapCheckpoint
  extract_lets l1668
  refine .have_ (t := l1668) ?_ fun h1669 => ?_
  · unfold l1668
    refine .step ?_ (State.atNow_keeps ..)
    exact .refl ..
  refine .step ?_ (upd_checkpointAt ..)
  exact h1669

theorem opNop_keeps (uid s) : Keeps 2854495385411919762116571938898990358664839168 s (opNop uid s) := by
  unfold opNop
  split
  · refine .ite (fun _ => ?_) fun _ => ?_
    · refine .step ?_ (State.finish_keeps ..)
      exact .refl ..
    · exact .refl ..
  · exact .refl ..

theorem opPageReencode_keeps (h layer picks s) : Keeps 71614546046716155955369915689466380369337269681699412231124833583737044498424717891399912 s (opPageReencode h layer picks s) := by
  unfold opPageReencode
  split
  · exact .refl ..
  · refine .ite (fun _ => ?_) fun _ => ?_
    · exact .refl ..
    · split
      · exact .refl ..
      · refine .step ?_ (State.reencodeImage_keeps ..)
        exact .refl ..
      · refine .step ?_ (State.reencodeFrame_keeps ..)
        exact .refl ..
      · exact .refl ..

theorem opPin_keeps (uid s) : Keeps 200873385514540102493564106850516043123948750735132546039808 s (opPin uid s) := by
  unfold opPin
  split
  · exact .refl ..
  · split
    · refine .step ?_ (State.pinOn_keeps ..)
      exact .refl ..
    · split
      · refine .step ?_ (State.fail_keeps ..)
        exact .refl ..
      · extract_lets l1705 l1706
        refine .have_ (t := l1706) ?_ fun h1707 => ?_
        · unfold l1706
          refine .foldl ?_ fun u a => ?_
          · exact .refl ..
          · refine .step ?_ (State.addPin_keeps ..)
            exact .refl ..
        refine .ite (fun _ => ?_) fun _ => ?_
        · refine .step ?_ (State.fail_keeps ..)
          exact .refl ..
        · refine .ite (fun _ => ?_) fun _ => ?_
          · refine .step ?_ (State.pinOn_keeps ..)
            exact h1707
          · refine .step ?_ (State.finish_keeps ..)
            exact h1707

theorem opPresenceProbe_keeps (h t off size port outstanding s) : Keeps 71614546043009276470375043733145339525334843411332705520976382307227673929536966792116392 s (opPresenceProbe h t off size port outstanding s) := by
  unfold opPresenceProbe
  split
  · refine .step ?_ (State.denyBar2_keeps ..)
    exact .refl ..
  · refine .ite (fun _ => ?_) fun _ => ?_
    · exact .refl ..
    · refine .ite (fun _ => ?_) fun _ => ?_
      · refine .step ?_ (State.emit_keeps ..)
        exact .refl ..
      · extract_lets l1718 l1719 l1720 l1721 l1722 l1723
        refine .have_ (t := l1722) ?_ fun h1724 => ?_
        · unfold l1722
          refine .step ?_ (State.addFld_keeps ..)
          exact .refl ..
        refine .step ?_ (State.emit_keeps ..)
        unfold l1723
        refine .step ?_ (State.setFld_keeps ..)
        exact h1724

theorem opProbeBaseWrite_keeps (h t off bs s) : Keeps 71614546043009276470375043733142200974467150070950787626264778474019622823872328812787880 s (opProbeBaseWrite h t off bs s) := by
  unfold opProbeBaseWrite
  split
  · refine .step ?_ (State.denyBar2_keeps ..)
    exact .refl ..
  · refine .ite (fun _ => ?_) fun _ => ?_
    · refine .step ?_ (upd_pbase ..)
      exact .refl ..
    · exact .refl ..

theorem opQuotaWaitTimeout_keeps (uid s) : Keeps 200873385514540102493564106850516043123948750735132546039808 s (opQuotaWaitTimeout uid s) := by
  unfold opQuotaWaitTimeout
  split
  · exact .refl ..
  · split
    · refine .step ?_ (State.roomTimeout_keeps ..)
      exact .refl ..
    · refine .step ?_ (State.roomTimeout_keeps ..)
      exact .refl ..
    · exact .refl ..

theorem opRelease_keeps (uid s) : Keeps 200873385514540102493564106850516043123948750734582790225920 s (opRelease uid s) := by
  unfold opRelease
  split
  · exact .refl ..
  · extract_lets l1771 l1772
    refine .have_ (t := l1772) ?_ fun h1773 => ?_
    · unfold l1772
      refine .step ?_ (upd_seqs ..)
      exact .refl ..
    split
    · refine .step ?_ (State.fail_keeps ..)
      exact .refl ..
    · extract_lets l1774
      split
      · rename_i v1775 v1776 v1777
        refine .have_ (t := v1775) (.fst_eq ?_ v1777) fun h1778 => ?_
        · split
          · refine .step ?_ (State.purge_keeps ..)
            exact h1773
          · dsimp only
            exact h1773
        refine .step ?_ (State.reclaim_keeps ..)
        refine .step ?_ (State.finish_keeps ..)
        exact h1778

theorem opRingCablePresence_keeps (l present s) : Keeps 36201100261066532927409322016261711109620190224530377711080701952 s (opRingCablePresence l present s) := by
  unfold opRingCablePresence
  extract_lets l1794 l1795
  refine .have_ (t := l1795) ?_ fun h1796 => ?_
  · unfold l1795
    refine .step ?_ (State.setRlink_keeps ..)
    exact .refl ..
  refine .ite (fun _ => ?_) fun _ => ?_
  · refine .ite (fun _ => ?_) fun _ => ?_
    · refine .step ?_ (State.trainLink_keeps ..)
      exact h1796
    · exact h1796
  · refine .step ?_ (State.ringBreak_keeps ..)
    refine .step ?_ (State.setReg_keeps ..)
    exact h1796

theorem opRingCheck_keeps (src last ok s) : Keeps 3291009114642412084309938365114701009965475273042021878931128328 s (opRingCheck src last ok s) := by
  unfold opRingCheck
  extract_lets l1797 l1798
  refine .ite (fun _ => ?_) fun _ => ?_
  · refine .step ?_ (State.ringPut_keeps ..)
    exact .refl ..
  · refine .ite (fun _ => ?_) fun _ => ?_
    · exact .refl ..
    · refine .ite (fun _ => ?_) fun _ => ?_
      · refine .step ?_ (State.ringPump_keeps ..)
        refine .step ?_ (State.incFld_keeps ..)
        refine .step ?_ (State.setFld_keeps ..)
        exact .refl ..
      · refine .ite (fun _ => ?_) fun _ => ?_
        · refine .step ?_ (State.setFld_keeps ..)
          refine .step ?_ (State.setFld_keeps ..)
          exact .refl ..
        · exact .refl ..

theorem opRingControlFrame_keeps (l frame credits replay s) : Keeps 49365136719636181264649075476720515149482079510782258052692181000 s (opRingControlFrame l frame credits replay s) := by
  unfold opRingControlFrame
  refine .ite (fun _ => ?_) fun _ => ?_
  · exact .refl ..
  · refine .ite (fun _ => ?_) fun _ => ?_
    · refine .step ?_ (State.askReplay_keeps ..)
      refine .step ?_ (State.addFld_keeps ..)
      exact .refl ..
    · refine .ite (fun _ => ?_) fun _ => ?_
      · exact .refl ..
      · extract_lets l1799 l1800 l1801
        refine .have_ (t := l1799) ?_ fun h1802 => ?_
        · unfold l1799
          refine .step ?_ (State.ringAcked_keeps ..)
          exact .refl ..
        refine .have_ (t := l1801) ?_ fun h1803 => ?_
        · unfold l1801
          refine .step ?_ (State.setRlink_keeps ..)
          exact h1802
        split
        · refine .step ?_ (State.ringResend_keeps ..)
          exact h1803
        · exact h1803

theorem opRingDataFrame_keeps (l frame s) : Keeps 49365136719636181264649075476720515149482079510782258052692181000 s (opRingDataFrame l frame s) := by
  unfold opRingDataFrame
  refine .ite (fun _ => ?_) fun _ => ?_
  · exact .refl ..
  · refine .ite (fun _ => ?_) fun _ => ?_
    · refine .step ?_ (State.askReplay_keeps ..)
      refine .step ?_ (State.addFld_keeps ..)
      exact .refl ..
    · refine .ite (fun _ => ?_) fun _ => ?_
      · refine .step ?_ (State.ringAcked_keeps ..)
        exact .refl ..
      · refine .ite (fun _ => ?_) fun _ => ?_
        · exact .refl ..
        · refine .ite (fun _ => ?_) fun _ => ?_
          · refine .step ?_ (State.askReplay_keeps ..)
            exact .refl ..
          · refine .step ?_ (State.ringAcked_keeps ..)
            refine .step ?_ (State.setRlink_keeps ..)
            exact .refl ..

theorem opRingDisable_keeps (v s) : Keeps 37846604818387738969564291198819061614602926090163957574429310976 s (opRingDisable v s) := by
  unfold opRingDisable
  refine .step ?_ (State.ringConfig_keeps ..)
  exact .refl ..

theorem opRingEnable_keeps (v s) : Keeps 37846604818387738969564291198819061614602926090163957574429310976 s (opRingEnable v s) := by
  unfold opRingEnable
  refine .step ?_ (State.ringConfig_keeps ..)
  exact .refl ..

theorem opRingLinkDown_keeps (l retraining s) : Keeps 49365136719636181264649075476720515149482075969007395900458270720 s (opRingLinkDown l retraining s) := by
  unfold opRingLinkDown
  refine .ite (fun _ => ?_) fun _ => ?_
  · exact .refl ..
  · refine .ite (fun _ => ?_) fun _ => ?_
    · refine .ite (fun _ => ?_) fun _ => ?_
      · refine .step ?_ (State.retrainLink_keeps ..)
        exact .refl ..
      · exact .refl ..
    · refine .step ?_ (State.ringBreak_keeps ..)
      refine .step ?_ (State.setReg_keeps ..)
      exact .refl ..

theorem opRingLinkTrained_keeps (l width peerId peerPos peerNmem verOk s) : Keeps 9873027343927236252929815095344103029896418735576341332325564424 s (opRingLinkTrained l width peerId peerPos peerNmem verOk s) := by
  unfold opRingLinkTrained
  extract_lets l1804 l1805 l1806 l1807 l1808 l1809 l1810
  refine .have_ (t := l1805) ?_ fun h1811 => ?_
  · unfold l1805
    refine .step ?_ (State.setReg_keeps ..)
    exact .refl ..
  refine .have_ (t := l1808) ?_ fun h1812 => ?_
  · unfold l1808
    refine .step ?_ (State.setRlink_keeps ..)
    exact h1811
  refine .have_ (t := l1810) ?_ fun h1813 => ?_
  · unfold l1810
    refine .step ?_ (State.ringResend_keeps ..)
    exact h1812
  refine .ite (fun _ => ?_) fun _ => ?_
  · exact .refl ..
  · refine .ite (fun _ => ?_) fun _ => ?_
    · refine .step ?_ (State.setReg_keeps ..)
      exact .refl ..
    · refine .ite (fun _ => ?_) fun _ => ?_
      · refine .step ?_ (State.startCheck_keeps ..)
        refine .step ?_ (State.ringPump_keeps ..)
        exact h1813
      · refine .ite (fun _ => ?_) fun _ => ?_
        · refine .step ?_ (State.setFld_keeps ..)
          refine .step ?_ (State.setFld_keeps ..)
          exact h1813
        · exact h1813

theorem opSlcTargetRecompute_keeps (s) : Keeps 441711766194596082395824375185729628956870979170664896671922649919651840 s (opSlcTargetRecompute s) := by
  unfold opSlcTargetRecompute
  split
  · exact .refl ..
  · refine .step ?_ (State.setFld_keeps ..)
    refine .step ?_ (upd_slcTarget ..)
    exact .refl ..

theorem opSpaceWaitTimeout_keeps (uid s) : Keeps 200873385514540102493564106850516043123948750735132546039808 s (opSpaceWaitTimeout uid s) := by
  unfold opSpaceWaitTimeout
  split
  · exact .refl ..
  · split
    · refine .step ?_ (State.roomTimeout_keeps ..)
      exact .refl ..
    · exact .refl ..

theorem opSpoolReset_keeps (h t n tail s) : Keeps 71614546043009276470375043784564218396963297843675250177711234924108888820362601436346536 s (opSpoolReset h t n tail s) := by
  unfold opSpoolReset
  refine .step ?_ (opDoorbell_keeps ..)
  exact .refl ..

theorem opStagingComplete_keeps (h layer picks readOk s) : Keeps 71614546106000173015475054456748988258624830337274982998187720362973294509621594315354280 s (opStagingComplete h layer picks readOk s) := by
  unfold opStagingComplete
  split
  · refine .ite (fun _ => ?_) fun _ => ?_
    · exact .refl ..
    · refine .ite (fun _ => ?_) fun _ => ?_
      · refine .step ?_ (State.imageLost_keeps ..)
        exact .refl ..
      · extract_lets l1866 l1867
        split
        · split
          · rename_i v1868
            exact .refl ..
          · rename_i v1870 v1871 v1872
            refine .have_ (t := v1870) (Keeps.Opt.elim ?_ (congrArg (Option.map Prod.fst) v1872)) fun h1873 => ?_
            · refine .after ?_ (State.newFrame_keeps ..)
              exact .refl ..
            extract_lets l1874 l1875 l1876 l1877
            refine .have_ (t := l1874) ?_ fun h1878 => ?_
            · unfold l1874
              refine .step ?_ (State.updPage_keeps ..)
              exact h1873
            refine .step ?_ (State.pumpViews_keeps ..)
            refine .step ?_ (State.addFld_keeps ..)
            unfold l1877
            refine .foldl ?_ fun u a => ?_
            · unfold l1876
              refine .step ?_ (upd_inflight ..)
              exact h1878
            · refine .step ?_ (State.waitEnds_keeps ..)
              exact .refl ..
        · exact .refl ..
  · exact .refl ..

theorem opStashDurable_keeps (h layer s) : Keeps 6129982163463555433433388108601236734475238238589026304 s (opStashDurable h layer s) := by
  unfold opStashDurable
  split
  · refine .ite (fun _ => ?_) fun _ => ?_
    · refine .step ?_ (State.ladder_keeps ..)
      refine .step ?_ (State.updPage_keeps ..)
      exact .refl ..
    · exact .refl ..
  · exact .refl ..

theorem opStashPage_keeps (h layer s) : Keeps 71614546043010809099775797432899093886091486400198160365225558619895755872138300154245352 s (opStashPage h layer s) := by
  unfold opStashPage
  split
  · split
    · extract_lets l1880 l1881 l1882
      refine .ite (fun _ => ?_) fun _ => ?_
      · exact .refl ..
      · split
        · rename_i v1883
          exact .refl ..
        · rename_i v1885 v1886 v1887
          refine .have_ (t := v1885) (Keeps.Opt.elim ?_ (congrArg (Option.map Prod.fst) v1887)) fun h1888 => ?_
          · refine .after ?_ (State.placeImage_keeps ..)
            exact .refl ..
          extract_lets l1889
          refine .step ?_ (State.fltSync_keeps ..)
          refine .step ?_ (State.updPage_keeps ..)
          refine .step ?_ (upd_images ..)
          exact h1888
    · exact .refl ..
  · exact .refl ..

theorem opSubmissionCellWrite_keeps (h t n off bs s) : Keeps 71614546043009276470375043784564218396963297846462843327527562816800853604443646624594088 s (opSubmissionCellWrite h t n off bs s) := by
  unfold opSubmissionCellWrite
  split
  · refine .step ?_ (State.denyBar2_keeps ..)
    exact .refl ..
  · refine .step ?_ (State.apertureWrite_keeps ..)
    exact .refl ..

theorem opTableLoad_keeps (uid s) : Keeps 200873385514540102493564106850516043123948750734033034412032 s (opTableLoad uid s) := by
  unfold opTableLoad
  split
  · exact .refl ..
  · refine .ite (fun _ => ?_) fun _ => ?_
    · exact .refl ..
    · split
      · refine .step ?_ (State.fail_keeps ..)
        exact .refl ..
      · extract_lets l1902
        refine .have_ (t := l1902.1) ?_ fun h1903 => ?_
        · unfold l1902
          refine .step ?_ (State.installAll_keeps ..)
          exact .refl ..
        refine .step ?_ (State.reclaim_keeps ..)
        refine .step ?_ (State.finish_keeps ..)
        exact h1903

theorem opTableRetire_keeps (uid s) : Keeps 200873385514540102493564106850516043123948750734033034412032 s (opTableRetire uid s) := by
  unfold opTableRetire
  split
  · exact .refl ..
  · refine .ite (fun _ => ?_) fun _ => ?_
    · exact .refl ..
    · split
      · refine .step ?_ (State.fail_keeps ..)
        exact .refl ..
      · extract_lets l1904 l1905 l1906 l1907
        refine .step ?_ (State.reclaim_keeps ..)
        refine .step ?_ (State.finish_keeps ..)
        unfold l1907
        refine .foldl ?_ fun u a => ?_
        · exact .refl ..
        · refine .step ?_ (State.setGens_keeps ..)
          exact .refl ..

theorem opTileBoundary_keeps (uid s) : Keeps 1594283413290432893440119959709283817745149320600877158715359244 s (opTileBoundary uid s) := by
  unfold opTileBoundary
  split
  · exact .refl ..
  · split
    · refine .step ?_ (State.attFail_keeps ..)
      refine .step ?_ (State.cutElems_keeps ..)
      refine .step ?_ (State.leavePanel_keeps ..)
      exact .refl ..
    · exact .refl ..

theorem opUnitErase_keeps (u ok s) : Keeps 71614546043010824117975848049165895344120242715005544898838683687453201467834754882662632 s (opUnitErase u ok s) := by
  unfold opUnitErase
  split
  · exact .refl ..
  · extract_lets l1924 l1925 l1926 l1927 l1928
    refine .have_ (t := l1927) ?_ fun h1929 => ?_
    · unfold l1927
      refine .step ?_ (State.setUnit_keeps ..)
      refine .step ?_ (State.targetsAnswer_keeps ..)
      exact .refl ..
    refine .ite (fun _ => ?_) fun _ => ?_
    · exact .refl ..
    · refine .ite (fun _ => ?_) fun _ => ?_
      · refine .step ?_ (State.addFld_keeps ..)
        refine .step ?_ (State.setUnit_keeps ..)
        refine .step ?_ (State.targetsAnswer_keeps ..)
        exact .refl ..
      · refine .step ?_ (State.fltSync_keeps ..)
        refine .step ?_ (State.addFld_keeps ..)
        unfold l1928
        refine .step ?_ (upd_eraseLists_victims ..)
        exact h1929

theorem opUnitRetire_keeps (u s) : Keeps 71614546043010809099775797432899106146055813327309027232001776209225487098714746465087976 s (opUnitRetire u s) := by
  unfold opUnitRetire
  split
  · exact .refl ..
  · extract_lets l1930 l1931 l1932 l1933
    refine .have_ (t := l1932) ?_ fun h1934 => ?_
    · unfold l1932
      refine .step ?_ (State.setUnit_keeps ..)
      exact .refl ..
    refine .ite (fun _ => ?_) fun _ => ?_
    · exact .refl ..
    · refine .step ?_ (State.fltSync_keeps ..)
      refine .step ?_ (State.replaceUnit_keeps ..)
      unfold l1933
      refine .ite (fun _ => ?_) fun _ => ?_
      · refine .step ?_ (State.addFld_keeps ..)
        refine .step ?_ (upd_eraseLists ..)
        exact h1934
      · exact h1934

theorem opUnlinkHollow_keeps (s) : Keeps 200873385514537247998178694930753926552009851743674369572864 s (opUnlinkHollow s) := by
  unfold opUnlinkHollow
  extract_lets l1935 l1936 l1937
  refine .have_ (t := l1935) ?_ fun h1938 => ?_
  · unfold l1935
    refine .step ?_ (State.ladder_keeps ..)
    exact .refl ..
  refine .ite (fun _ => ?_) fun _ => ?_
  · exact h1938
  · clear_value l1937
    split
    · exact h1938
    · refine .step ?_ (State.reclaim_keeps ..)
      refine .step ?_ (State.unlink_keeps ..)
      exact h1938

theorem opUnpin_keeps (uid s) : Keeps 200873385514540102493564106850516043123948750735132546039808 s (opUnpin uid s) := by
  unfold opUnpin
  split
  · exact .refl ..
  · split
    · refine .step ?_ (State.fail_keeps ..)
      exact .refl ..
    · extract_lets l1939 l1940 l1941
      refine .ite (fun _ => ?_) fun _ => ?_
      · refine .step ?_ (State.fail_keeps ..)
        exact .refl ..
      · refine .step ?_ (State.reclaim_keeps ..)
        refine .step ?_ (State.finish_keeps ..)
        refine .foldl ?_ fun u a => ?_
        · exact .refl ..
        · refine .step ?_ (State.dropPin_keeps ..)
          exact .refl ..

theorem opVerify_keeps (uid s) : Keeps 71676711447560499800644467182847653376734198963254865199799233046919724971939514263074988 s (opVerify uid s) := by
  unfold opVerify
  split
  · exact .refl ..
  · split
    · refine .step ?_ (State.attFail_keeps ..)
      exact .refl ..
    · refine .step ?_ (State.attOne_keeps ..)
      exact .refl ..
    · exact .refl ..

theorem opViewLoad_keeps (host a n s) : Keeps 71676711506846049490150358572836905493130674267988698895444197027983266785659327174736040 s (opViewLoad host a n s) := by
  unfold opViewLoad
  refine .ite (fun _ => ?_) fun _ => ?_
  · exact .refl ..
  · refine .ite (fun _ => ?_) fun _ => ?_
    · refine .step ?_ (State.respondData_keeps ..)
      exact .refl ..
    · split
      · refine .ite (fun _ => ?_) fun _ => ?_
        · refine .step ?_ (State.respondData_keeps ..)
          refine .step ?_ (State.countUnbacked_keeps ..)
          exact .refl ..
        · split
          · refine .step ?_ (State.respondData_keeps ..)
            refine .step ?_ (State.deny_keeps ..)
            exact .refl ..
          · split
            · refine .step ?_ (State.respondData_keeps ..)
              exact .refl ..
            · refine .step ?_ (State.respondData_keeps ..)
              exact .refl ..
            · split
              · refine .ite (fun _ => ?_) fun _ => ?_
                · extract_lets l1942
                  refine .have_ (t := l1942) ?_ fun h1943 => ?_
                  · unfold l1942
                    refine .step ?_ (State.demand_keeps ..)
                    exact .refl ..
                  refine .step ?_ (upd_viewWaits ..)
                  exact h1943
                · refine .step ?_ (State.answerView_keeps ..)
                  exact .refl ..
              · refine .step ?_ (State.respondData_keeps ..)
                exact .refl ..
      · exact .refl ..

theorem opViewStore.putSlots_keeps (s t slot bs a4) : Keeps 18014398509481984 s (opViewStore.putSlots s t slot bs a4) := by
  induction a4 generalizing s t slot bs
  · rw [opViewStore.putSlots]
    exact .refl ..
  · rename_i n_ ih
    rw [opViewStore.putSlots]
    refine .ite (fun _ => ?_) fun _ => ?_
    · exact .refl ..
    · extract_lets l1944
      refine .step ?_ (ih ..)
      unfold l1944
      split
      · refine .ite (fun _ => ?_) fun _ => ?_
        · refine .step ?_ (upd_viewSlots ..)
          exact .refl ..
        · exact .refl ..
      · exact .refl ..

theorem opViewStore_keeps (host a bs picks s) : Keeps 71676711510551396345744476826390980853979456485519468536396208271283187099411462553139368 s (opViewStore host a bs picks s) := by
  unfold opViewStore
  refine .ite (fun _ => ?_) fun _ => ?_
  · exact .refl ..
  · refine .ite (fun _ => ?_) fun _ => ?_
    · refine .step ?_ (State.respond_keeps ..)
      exact .refl ..
    · split
      · refine .ite (fun _ => ?_) fun _ => ?_
        · refine .step ?_ (State.respond_keeps ..)
          refine .step ?_ (State.countUnbacked_keeps ..)
          exact .refl ..
        · split
          · refine .step ?_ (State.respond_keeps ..)
            refine .step ?_ (State.deny_keeps ..)
            exact .refl ..
          · extract_lets l1945 l1946
            refine .ite (fun _ => ?_) fun _ => ?_
            · exact .refl ..
            · refine .step ?_ (State.respond_keeps ..)
              unfold l1946
              split
              · exact .refl ..
              · refine .step ?_ (State.storeView_keeps ..)
                exact .refl ..
              · refine .step ?_ (opViewStore.putSlots_keeps ..)
                exact .refl ..
      · exact .refl ..

theorem opViewSlotStore_keeps (host a v s) : Keeps 71676711510551396345744476826390980853979456485519468536396208271283187099411462553139368 s (opViewSlotStore host a v s) := by
  unfold opViewSlotStore
  refine .step ?_ (opViewStore_keeps ..)
  exact .refl ..

theorem opWheelSlot_keeps (mc arrivals s) : Keeps 2147483656 s (opWheelSlot mc arrivals s) := by
  unfold opWheelSlot
  extract_lets l1947 l1948
  split
  · refine .step ?_ (upd_wheels ..)
    exact .refl ..
  · extract_lets l1949
    split
    · refine .step ?_ (upd_wheels ..)
      exact .refl ..
    · refine .step ?_ (State.emit_keeps ..)
      refine .step ?_ (upd_wheels ..)
      exact .refl ..

end Sys2Proof.Machine
end

