-- ==== Sys2Proof/Laws/FramesLinks.lean ====
section
/-!
SUPPORT. What each operation on plain regions, bulk messages of the ring, keys and Shuttle may have changed: one lemma for each, its mask in the numbering of `Part.idx`.
-/

set_option Elab.async false
namespace Sys2Proof.Machine

theorem State.setRctx_keeps (s c x) : Keeps 4722366482869645213696 s (State.setRctx s c x) := by
  unfold State.setRctx
  refine .step ?_ (upd_rctx ..)
  exact .refl ..

theorem State.abortCtx_keeps (s c why) : Keeps 105312291668557186700772523069082352081011672061814584482621030400 s (State.abortCtx s c why) := by
  unfold State.abortCtx
  refine .ite (fun _ => ?_) fun _ => ?_
  · exact .refl ..
  · extract_lets l4 l5 l6 l7 l8
    refine .have_ (t := l6) ?_ fun h9 => ?_
    · unfold l6
      refine .step ?_ (State.setFld_keeps ..)
      unfold l5
      refine .step ?_ (State.setRctx_keeps ..)
      exact .refl ..
    refine .have_ (t := l8) ?_ fun h10 => ?_
    · unfold l8
      refine .foldl ?_ fun u a => ?_
      · exact h9
      · refine .step ?_ (State.fail_keeps ..)
        exact .refl ..
    refine .step ?_ (upd_inflight ..)
    exact h10

theorem State.portSend_keeps (s port udp p) : Keeps 302231454903657293676552 s (State.portSend s port udp p) := by
  unfold State.portSend
  refine .ite (fun _ => ?_) fun _ => ?_
  · exact .refl ..
  · refine .ite (fun _ => ?_) fun _ => ?_
    · refine .step ?_ (upd_shOut ..)
      exact .refl ..
    · refine .step ?_ (State.emit_keeps ..)
      exact .refl ..

theorem State.setGw_keeps (s g x) : Keeps 37778931862957161709568 s (State.setGw s g x) := by
  unfold State.setGw
  refine .step ?_ (upd_gws ..)
  exact .refl ..

theorem State.setQp_keeps (s q x) : Keeps 75557863725914323419136 s (State.setQp s q x) := by
  unfold State.setQp
  refine .step ?_ (upd_qps ..)
  exact .refl ..

theorem State.sendDone_keeps (s q w status result) : Keeps 113336795588871485128704 s (State.sendDone s q w status result) := by
  unfold State.sendDone
  extract_lets l21
  split
  · refine .step ?_ (State.setQp_keeps ..)
    exact .refl ..
  · extract_lets l22
    refine .ite (fun _ => ?_) fun _ => ?_
    · exact .refl ..
    · refine .ite (fun _ => ?_) fun _ => ?_
      · refine .step ?_ (State.setGw_keeps ..)
        exact .refl ..
      · refine .step ?_ (State.setGw_keeps ..)
        exact .refl ..

theorem State.flushSq_keeps (s q a2) : Keeps 113336795588871485128704 s (State.flushSq s q a2) := by
  induction a2 generalizing s q
  · rw [State.flushSq]
    exact .refl ..
  · rename_i n_ ih
    rw [State.flushSq]
    refine .ite (fun _ => ?_) fun _ => ?_
    · exact .refl ..
    · extract_lets l23
      refine .step ?_ (ih ..)
      refine .step ?_ (State.sendDone_keeps ..)
      refine .step ?_ (State.setQp_keeps ..)
      exact .refl ..

theorem State.flushRq_keeps (s q a2) : Keeps 75557863725914323419136 s (State.flushRq s q a2) := by
  induction a2 generalizing s q
  · rw [State.flushRq]
    exact .refl ..
  · rename_i n_ ih
    rw [State.flushRq]
    refine .ite (fun _ => ?_) fun _ => ?_
    · exact .refl ..
    · extract_lets l24 l25 l26 l27
      refine .have_ (t := l25) ?_ fun h28 => ?_
      · unfold l25
        refine .step ?_ (State.setQp_keeps ..)
        exact .refl ..
      refine .step ?_ (ih ..)
      refine .ite (fun _ => ?_) fun _ => ?_
      · exact h28
      · refine .step ?_ (State.setQp_keeps ..)
        exact h28

theorem State.flushWord_keeps (s g v) : Keeps 64108073443449059340342242925176123919199425688720604201309809521514986232920909283336 s (State.flushWord s g v) := by
  unfold State.flushWord
  extract_lets l48
  refine .ite (fun _ => ?_) fun _ => ?_
  · refine .step ?_ (State.engineWrite_keeps ..)
    exact .refl ..
  · refine .step ?_ (State.countUnbacked_keeps ..)
    exact .refl ..

theorem State.gwFail_keeps (s g) : Keeps 73667947062091872098336914968654660458786709743696182785389978409089712589784884445245672 s (State.gwFail s g) := by
  unfold State.gwFail
  refine .ite (fun _ => ?_) fun _ => ?_
  · exact .refl ..
  · extract_lets l49 l50 l51 l52
    refine .foldl ?_ fun u a => ?_
    · unfold l52
      refine .step ?_ (State.addFld_keeps ..)
      unfold l51
      refine .step ?_ (State.setGw_keeps ..)
      unfold l50
      refine .step ?_ (State.cxlNote_keeps ..)
      refine .step ?_ (State.setFld_keeps ..)
      exact .refl ..
    · refine .step ?_ (State.flushWord_keeps ..)
      exact .refl ..

theorem State.qpFail_keeps (s q status cause) : Keeps 73667947062091872098336914968654660458786709743696182785389978409165270453510798768664808 s (State.qpFail s q status cause) := by
  unfold State.qpFail
  extract_lets l53 l54 l55 l56 l57 l58 l59
  refine .have_ (t := l59) ?_ fun h60 => ?_
  · unfold l59
    refine .step ?_ (State.flushRq_keeps ..)
    refine .step ?_ (State.flushSq_keeps ..)
    unfold l58
    refine .foldl ?_ fun u a => ?_
    · unfold l57
      refine .foldl ?_ fun u a => ?_
      · unfold l56
        refine .step ?_ (State.setQp_keeps ..)
        exact .refl ..
      · refine .step ?_ (State.sendDone_keeps ..)
        exact .refl ..
    · refine .step ?_ (State.sendDone_keeps ..)
      exact .refl ..
  refine .ite (fun _ => ?_) fun _ => ?_
  · exact .refl ..
  · refine .foldl ?_ fun u a => ?_
    · exact h60
    · refine .step ?_ (State.gwFail_keeps ..)
      exact .refl ..

theorem State.transmit_keeps (s q p retries) : Keeps 73667947062091872119042154009026351821090977330527259142743305325978661573902028733739240 s (State.transmit s q p retries) := by
  unfold State.transmit
  extract_lets l61 l62 l63 l64 l65
  refine .ite (fun _ => ?_) fun _ => ?_
  · refine .step ?_ (State.qpFail_keeps ..)
    exact .refl ..
  · split
    · refine .step ?_ (State.portSend_keeps ..)
      unfold l65
      refine .step ?_ (State.addFld_keeps ..)
      refine .step ?_ (State.addFld_keeps ..)
      unfold l64
      refine .step ?_ (State.setQp_keeps ..)
      exact .refl ..

theorem State.shAnswer_keeps (s q typ psn code payload) : Keeps 73667947062091872119042154009026351821090977330527259142743305325978661573902028733739240 s (State.shAnswer s q typ psn code payload) := by
  unfold State.shAnswer
  extract_lets l66 l67
  refine .step ?_ (State.transmit_keeps ..)
  refine .step ?_ (State.setQp_keeps ..)
  exact .refl ..

theorem State.shAck_keeps (s q psn) : Keeps 73667947062091872119042154009026351821090977330527259142743305325978661573902028733739240 s (State.shAck s q psn) := by
  unfold State.shAck
  refine .step ?_ (State.shAnswer_keeps ..)
  exact .refl ..

theorem State.accept_keeps (s q psn) : Keeps 73667947062091872119042154009026351821090977330527259142743305325978661573902028733739240 s (State.accept s q psn) := by
  unfold State.accept
  extract_lets l68
  split
  · extract_lets l69
    refine .have_ (t := l69) ?_ fun h70 => ?_
    · unfold l69
      refine .step ?_ (State.setQp_keeps ..)
      exact .refl ..
    refine .ite (fun _ => ?_) fun _ => ?_
    · refine .step ?_ (State.shAck_keeps ..)
      exact h70
    · exact h70

theorem State.wrsDone_keeps (s q) : Keeps 113336795588871485128704 s (State.wrsDone s q) := by
  unfold State.wrsDone
  extract_lets l71 l72 l73 l74
  refine .foldl ?_ fun u a => ?_
  · unfold l74
    refine .step ?_ (State.setQp_keeps ..)
    exact .refl ..
  · refine .step ?_ (State.sendDone_keeps ..)
    exact .refl ..

theorem State.qpPump_keeps (s q a2) : Keeps 73667947062091872119042154009026351821090977330527259142743305325978661573902028733739240 s (State.qpPump s q a2) := by
  induction a2 generalizing s q
  · rw [State.qpPump]
    exact .refl ..
  · rename_i n_ ih
    rw [State.qpPump]
    refine .ite (fun _ => ?_) fun _ => ?_
    · exact .refl ..
    · split
      · exact .refl ..
      · refine .ite (fun _ => ?_) fun _ => ?_
        · refine .step ?_ (ih ..)
          refine .step ?_ (State.transmit_keeps ..)
          refine .step ?_ (State.setQp_keeps ..)
          exact .refl ..
        · exact .refl ..

theorem State.qpGo_keeps (s q) : Keeps 73667947062091872119042154009026351821090977330527259142743305325978661573902028733739240 s (State.qpGo s q) := by
  unfold State.qpGo
  refine .step ?_ (State.qpPump_keeps ..)
  exact .refl ..

theorem State.launch_keeps (s q w ps) : Keeps 73667947062091872119042154009026351821090977330527259142743305325978661573902028733739240 s (State.launch s q w ps) := by
  unfold State.launch
  extract_lets l75 l76
  refine .step ?_ (State.qpGo_keeps ..)
  refine .step ?_ (State.setQp_keeps ..)
  exact .refl ..

theorem State.gwPump_keeps (s g a2) : Keeps 73667947062091872119042154009026351821090977330527259142743305325978661573902028733739240 s (State.gwPump s g a2) := by
  induction a2 generalizing s g
  · rw [State.gwPump]
    exact .refl ..
  · rename_i n_ ih
    rw [State.gwPump]
    refine .ite (fun _ => ?_) fun _ => ?_
    · exact .refl ..
    · split
      · extract_lets l77
        refine .step ?_ (ih ..)
        refine .step ?_ (State.launch_keeps ..)
        refine .step ?_ (State.setGw_keeps ..)
        exact .refl ..
      · split
        · extract_lets l78
          refine .ite (fun _ => ?_) fun _ => ?_
          · refine .step ?_ (State.launch_keeps ..)
            refine .step ?_ (State.setGw_keeps ..)
            exact .refl ..
          · exact .refl ..
        · exact .refl ..

theorem State.gwGo_keeps (s g) : Keeps 73667947062091872119042154009026351821090977330527259142743305325978661573902028733739240 s (State.gwGo s g) := by
  unfold State.gwGo
  extract_lets l79 l80
  refine .step ?_ (State.gwPump_keeps ..)
  refine .step ?_ (State.setGw_keeps ..)
  exact .refl ..

theorem State.gwsGo_keeps (s q) : Keeps 73667947062091872119042154009026351821090977330527259142743305325978661573902028733739240 s (State.gwsGo s q) := by
  unfold State.gwsGo
  refine .foldl ?_ fun u a => ?_
  · exact .refl ..
  · refine .step ?_ (State.gwGo_keeps ..)
    exact .refl ..

theorem State.acked_keeps (s q cpsn sack also) : Keeps 73667947062091872119042154009026351821090977330527259142743305325978661573902028733739240 s (State.acked s q cpsn sack also) := by
  unfold State.acked
  extract_lets l81 l82 l83 l84 l85 l86 l87
  refine .step ?_ (State.gwsGo_keeps ..)
  refine .step ?_ (State.qpGo_keeps ..)
  refine .step ?_ (State.wrsDone_keeps ..)
  unfold l87
  refine .step ?_ (State.setQp_keeps ..)
  exact .refl ..

theorem State.addDesc_keeps (s c d) : Keeps 105312291668557186697918027683670432318895100122915594123956191232 s (State.addDesc s c d) := by
  unfold State.addDesc
  extract_lets l96 l97
  refine .step ?_ (State.setFld_keeps ..)
  unfold l97
  refine .step ?_ (State.setRctx_keeps ..)
  exact .refl ..

theorem State.answer_keeps (s m mtype status detail data bad) : Keeps 3541774862152233910280 s (State.answer s m mtype status detail data bad) := by
  unfold State.answer
  refine .step ?_ (State.ringSend_keeps ..)
  exact .refl ..

theorem State.shNak_keeps (s q psn code) : Keeps 73667947062091872119042154009026351821090977330527259142743305325978661573902028733739240 s (State.shNak s q psn code) := by
  unfold State.shNak
  refine .step ?_ (State.shAnswer_keeps ..)
  exact .refl ..

theorem State.recvDone_keeps (s q msn wrid status bytes) : Keeps 75557863725914323419136 s (State.recvDone s q msn wrid status bytes) := by
  unfold State.recvDone
  extract_lets l341
  refine .step ?_ (State.setQp_keeps ..)
  exact .refl ..

theorem State.recvFail_keeps (s q psn msn wrid status nak) : Keeps 73667947062091872119042154009026351821090977330527259142743305325978661573902028733739240 s (State.recvFail s q psn msn wrid status nak) := by
  unfold State.recvFail
  extract_lets l342 l343
  refine .step ?_ (State.qpFail_keeps ..)
  refine .step ?_ (State.shNak_keeps ..)
  refine .step ?_ (State.recvDone_keeps ..)
  unfold l343
  refine .step ?_ (State.setQp_keeps ..)
  exact .refl ..

theorem State.bindRecv_keeps (s q p) : Keeps 73667947062091872119042154009026351821090977330527259142743305325978661573902028733739240 s (State.bindRecv s q p).1 := by
  unfold State.bindRecv
  extract_lets l344 l345
  split
  · dsimp only
    exact .refl ..
  · split
    · dsimp only
      refine .step ?_ (State.shNak_keeps ..)
      exact .refl ..
    · split
      · dsimp only
        refine .step ?_ (State.recvFail_keeps ..)
        exact .refl ..
      · split
        · dsimp only
          refine .step ?_ (State.recvFail_keeps ..)
          exact .refl ..
        · extract_lets l346
          dsimp only
          refine .step ?_ (State.setQp_keeps ..)
          exact .refl ..

theorem State.clearSeal_keeps (s t) : Keeps 18526734277970591267771357601390065278823942745076213508256691513565350157352960 s (State.clearSeal s t) := by
  unfold State.clearSeal
  refine .ite (fun _ => ?_) fun _ => ?_
  · exact .refl ..
  · extract_lets l405 l406
    refine .have_ (t := l406) ?_ fun h407 => ?_
    · unfold l406
      refine .step ?_ (State.setFld_keeps ..)
      refine .step ?_ (State.setFld_keeps ..)
      refine .step ?_ (State.setFld_keeps ..)
      unfold l405
      refine .step ?_ (State.setFld_keeps ..)
      refine .step ?_ (State.setFld_keeps ..)
      exact .refl ..
    refine .step ?_ (State.keyWrite_keeps ..)
    refine .step ?_ (upd_sealReq ..)
    exact h407

theorem State.newHashKey_keeps (s ns) : Keeps 2199023255556 s (State.newHashKey s ns) := by
  unfold State.newHashKey
  refine .step ?_ (State.drawn_keeps ..)
  refine .step ?_ (upd_nsKeys ..)
  exact .refl ..

theorem State.confirm_keeps (s c idx off status detail) : Keeps 4722366482869645213696 s (State.confirm s c idx off status detail) := by
  unfold State.confirm
  extract_lets l477
  refine .step ?_ (State.setRctx_keeps ..)
  exact .refl ..

theorem State.ctxRefuse_keeps (s c e) : Keeps 105312291668557186697918027683670432318895095400549111254310977536 s (State.ctxRefuse s c e) := by
  unfold State.ctxRefuse
  refine .step ?_ (State.setFld_keeps ..)
  exact .refl ..

theorem State.ctxFields_keeps (s c v) : Keeps 52656145834278593348959013841835216159447547700274555627155488768 s (State.ctxFields s c v) := by
  unfold State.ctxFields
  refine .ite (fun _ => ?_) fun _ => ?_
  · refine .step ?_ (State.setReg_keeps ..)
    exact .refl ..
  · exact .refl ..

theorem opRingCtxClose_keeps (c v s) : Keeps 157968437502835780046877041525505648478342643100823666881466466304 s (opRingCtxClose c v s) := by
  unfold opRingCtxClose
  extract_lets l500
  refine .have_ (t := l500) ?_ fun h501 => ?_
  · unfold l500
    refine .step ?_ (State.ctxFields_keeps ..)
    exact .refl ..
  refine .ite (fun _ => ?_) fun _ => ?_
  · refine .step ?_ (State.setFld_keeps ..)
    exact h501
  · refine .step ?_ (State.ctxRefuse_keeps ..)
    exact h501

theorem opRingCtxAbort_keeps (c v s) : Keeps 157968437502835780049731536910917568240459219762089140109776519168 s (opRingCtxAbort c v s) := by
  unfold opRingCtxAbort
  extract_lets l502
  refine .have_ (t := l502) ?_ fun h503 => ?_
  · unfold l502
    refine .step ?_ (State.ctxFields_keeps ..)
    exact .refl ..
  refine .ite (fun _ => ?_) fun _ => ?_
  · refine .step ?_ (State.abortCtx_keeps ..)
    exact h503
  · refine .step ?_ (State.ctxRefuse_keeps ..)
    exact h503

theorem opRingCtxOpen_keeps (c v s) : Keeps 157968437502835780046877041525505648478342647823190149751111680000 s (opRingCtxOpen c v s) := by
  unfold opRingCtxOpen
  extract_lets l504 l505 l506
  refine .have_ (t := l504) ?_ fun h507 => ?_
  · unfold l504
    refine .step ?_ (State.ctxFields_keeps ..)
    exact .refl ..
  refine .ite (fun _ => ?_) fun _ => ?_
  · refine .step ?_ (State.ctxRefuse_keeps ..)
    exact h507
  · refine .step ?_ (State.setFld_keeps ..)
    refine .step ?_ (State.setFld_keeps ..)
    unfold l506
    refine .step ?_ (State.setRctx_keeps ..)
    exact h507

theorem State.dcEvent_keeps (s h region idx) : Keeps 19342813113834066795298888 s (State.dcEvent s h region idx) := by
  unfold State.dcEvent
  refine .step ?_ (State.cxlEvent_keeps ..)
  exact .refl ..

theorem State.dropFrame_keeps (s) : Keeps 27606985387162255149739023449108101809804435888681546220650096895197184 s (State.dropFrame s) := by
  unfold State.dropFrame
  refine .step ?_ (State.addFld_keeps ..)
  exact .refl ..

theorem State.dropKeys_keeps (s hd) : Keeps 3705346855594118253554271520278013051304639509342330519070174258504810377510912 s (State.dropKeys s hd) := by
  unfold State.dropKeys
  refine .step ?_ (State.keyWrite_keeps ..)
  refine .step ?_ (upd_nsKeys_dataKeys ..)
  exact .refl ..

theorem State.linkLost_keeps (s l) : Keeps 71615031710232332902642773598618906854192346316527834346307759480031736081327955923497192 s (State.linkLost s l) := by
  unfold State.linkLost
  extract_lets l522 l523
  refine .have_ (t := l522) ?_ fun h524 => ?_
  · unfold l522
    refine .step ?_ (State.setReg_keeps ..)
    exact .refl ..
  refine .have_ (t := l523) ?_ fun h525 => ?_
  · unfold l523
    refine .step ?_ (upd_hdm_ideKeys ..)
    exact h524
  refine .step ?_ (State.cxlNote_keeps ..)
  exact h525

theorem State.orphanOf_keeps (s h) : Keeps 2417871238894836665810944 s (State.orphanOf s h) := by
  unfold State.orphanOf
  extract_lets l526 l527 l528
  refine .have_ (t := l527) ?_ fun h529 => ?_
  · unfold l527
    refine .step ?_ (upd_orphanLines_orphanPend ..)
    exact .refl ..
  refine .foldl ?_ fun u a => ?_
  · exact h529
  · refine .step ?_ (State.dropHolder_keeps ..)
    exact .refl ..

theorem State.dropReads_keeps (s h) : Keeps 64108073443449059340342242925176123919199425688720604201309809521515022261719001989128 s (State.dropReads s h) := by
  unfold State.dropReads
  extract_lets l530 l531 l532
  refine .foldl ?_ fun u a => ?_
  · unfold l532
    refine .step ?_ (upd_buckets_viewWaits_lineQ ..)
    exact .refl ..
  · refine .step ?_ (State.pumpLine_keeps ..)
    exact .refl ..

theorem State.putMarked_keeps (s a bs bad) : Keeps 2017612633061982208 s (State.putMarked s a bs bad) := by
  unfold State.putMarked
  refine .foldl ?_ fun u a => ?_
  · refine .step ?_ (State.plainPut_keeps ..)
    exact .refl ..
  · refine .step ?_ (State.poisonLine_keeps ..)
    exact .refl ..

theorem State.holdRing_keeps (s job link m) : Keeps 9444732965739290427392 s (State.holdRing s job link m) := by
  unfold State.holdRing
  refine .ite (fun _ => ?_) fun _ => ?_
  · exact .refl ..
  · refine .step ?_ (upd_ringHeld ..)
    exact .refl ..

theorem State.targetCheck_keeps (s m n wr) : Keeps 71676711447560499800644466514160553579479707089800456090944836471131267688941301446801568 s (State.targetCheck s m n wr).1 := by
  unfold State.targetCheck
  extract_lets l533
  split
  · dsimp only
    exact .refl ..
  · split
    · dsimp only
      refine .step ?_ (State.countUnbacked_keeps ..)
      exact .refl ..
    · split
      · dsimp only
        refine .step ?_ (State.deny_keeps ..)
        exact .refl ..
      · dsimp only
        exact .refl ..

theorem State.onReducePut_keeps (s job link m) : Keeps 71676711447560499800644466514160553579479707089800456090944836471144883403680332157876392 s (State.onReducePut s job link m) := by
  unfold State.onReducePut
  split
  · rename_i v534 v535 v536
    refine .have_ (t := v534) (.fst_eq ?_ v536) fun h537 => ?_
    · refine .step ?_ (State.targetCheck_keeps ..)
      exact .refl ..
    refine .step ?_ (State.answer_keeps ..)
    exact h537
  · rename_i v538 v539
    refine .have_ (t := v538) (.fst_eq ?_ v539) fun h540 => ?_
    · refine .step ?_ (State.targetCheck_keeps ..)
      exact .refl ..
    refine .ite (fun _ => ?_) fun _ => ?_
    · refine .step ?_ (State.answer_keeps ..)
      exact h540
    · split
      · rename_i v541 v542
        refine .have_ (t := v541) (.fst_eq ?_ v542) fun h543 => ?_
        · refine .step ?_ (State.coherentJob_keeps ..)
          exact h540
        refine .step ?_ (State.holdRing_keeps ..)
        exact h543
      · rename_i v544 v545
        refine .have_ (t := v544) (.fst_eq ?_ v545) fun h546 => ?_
        · refine .step ?_ (State.coherentJob_keeps ..)
          exact h540
        extract_lets l547
        refine .step ?_ (State.answer_keeps ..)
        refine .step ?_ (State.putMarked_keeps ..)
        exact h546

theorem State.onPut_keeps (s job link m) : Keeps 71676711447560499800644466514160553579479707089800456090944836471144883403680332157876392 s (State.onPut s job link m) := by
  unfold State.onPut
  split
  · rename_i v548 v549 v550
    refine .have_ (t := v548) (.fst_eq ?_ v550) fun h551 => ?_
    · refine .step ?_ (State.targetCheck_keeps ..)
      exact .refl ..
    refine .step ?_ (State.answer_keeps ..)
    exact h551
  · rename_i v552 v553
    refine .have_ (t := v552) (.fst_eq ?_ v553) fun h554 => ?_
    · refine .step ?_ (State.targetCheck_keeps ..)
      exact .refl ..
    split
    · rename_i v555 v556
      refine .have_ (t := v555) (.fst_eq ?_ v556) fun h557 => ?_
      · refine .step ?_ (State.coherentJob_keeps ..)
        exact h554
      refine .step ?_ (State.holdRing_keeps ..)
      exact h557
    · rename_i v558 v559
      refine .have_ (t := v558) (.fst_eq ?_ v559) fun h560 => ?_
      · refine .step ?_ (State.coherentJob_keeps ..)
        exact h554
      refine .step ?_ (State.answer_keeps ..)
      refine .step ?_ (State.putMarked_keeps ..)
      exact h560

theorem State.onGetData_keeps (s job link m) : Keeps 14796306359748122378248 s (State.onGetData s job link m) := by
  unfold State.onGetData
  split
  · exact .refl ..
  · extract_lets l561
    refine .ite (fun _ => ?_) fun _ => ?_
    · refine .step ?_ (State.confirm_keeps ..)
      exact .refl ..
    · split
      · rename_i v562 v563
        refine .have_ (t := v562) (.fst_eq ?_ v563) fun h564 => ?_
        · refine .step ?_ (State.coherentJob_keeps ..)
          exact .refl ..
        refine .step ?_ (State.holdRing_keeps ..)
        exact h564
      · rename_i v565 v566
        refine .have_ (t := v565) (.fst_eq ?_ v566) fun h567 => ?_
        · refine .step ?_ (State.coherentJob_keeps ..)
          exact .refl ..
        refine .step ?_ (State.confirm_keeps ..)
        refine .step ?_ (State.putMarked_keeps ..)
        exact h567

theorem State.onGetReq_keeps (s job link m) : Keeps 71676711447560499800644466514160553579479707089800456090944836471144881386067699095894184 s (State.onGetReq s job link m) := by
  unfold State.onGetReq
  split
  · rename_i v568 v569 v570
    refine .have_ (t := v568) (.fst_eq ?_ v570) fun h571 => ?_
    · refine .step ?_ (State.targetCheck_keeps ..)
      exact .refl ..
    refine .step ?_ (State.answer_keeps ..)
    exact h571
  · rename_i v572 v573
    refine .have_ (t := v572) (.fst_eq ?_ v573) fun h574 => ?_
    · refine .step ?_ (State.targetCheck_keeps ..)
      exact .refl ..
    split
    · rename_i v575 v576
      refine .have_ (t := v575) (.fst_eq ?_ v576) fun h577 => ?_
      · refine .step ?_ (State.coherentJob_keeps ..)
        exact h574
      refine .step ?_ (State.holdRing_keeps ..)
      exact h577
    · rename_i v578 v579
      refine .have_ (t := v578) (.fst_eq ?_ v579) fun h580 => ?_
      · refine .step ?_ (State.coherentJob_keeps ..)
        exact h574
      extract_lets l581
      refine .ite (fun _ => ?_) fun _ => ?_
      · refine .step ?_ (State.answer_keeps ..)
        exact h580
      · refine .step ?_ (State.answer_keeps ..)
        exact h580

theorem State.onMsg_keeps (s job link m) : Keeps 71676711447560499800644466514160553579479707089800456090944836471149605770163201803090088 s (State.onMsg s job link m) := by
  unfold State.onMsg
  refine .ite (fun _ => ?_) fun _ => ?_
  · refine .step ?_ (State.onGetReq_keeps ..)
    exact .refl ..
  · refine .ite (fun _ => ?_) fun _ => ?_
    · refine .step ?_ (State.onGetData_keeps ..)
      exact .refl ..
    · refine .ite (fun _ => ?_) fun _ => ?_
      · refine .step ?_ (State.onPut_keeps ..)
        exact .refl ..
      · refine .ite (fun _ => ?_) fun _ => ?_
        · refine .step ?_ (State.onReducePut_keeps ..)
          exact .refl ..
        · refine .ite (fun _ => ?_) fun _ => ?_
          · split
            · refine .step ?_ (State.confirm_keeps ..)
              exact .refl ..
            · exact .refl ..
          · exact .refl ..

theorem State.pumpRing_keeps (s) : Keeps 71676711447560499800644466514160553579479707089800456090944836471149605770163201803090088 s (State.pumpRing s) := by
  unfold State.pumpRing
  refine .foldl ?_ fun u a => ?_
  · exact .refl ..
  · refine .ite (fun _ => ?_) fun _ => ?_
    · exact .refl ..
    · refine .step ?_ (State.onMsg_keeps ..)
      refine .step ?_ (upd_ringHeld ..)
      exact .refl ..

theorem State.pumpRelease_keeps (s idx) : Keeps 36893488147419103240 s (State.pumpRelease s idx) := by
  unfold State.pumpRelease
  split
  · refine .ite (fun _ => ?_) fun _ => ?_
    · exact .refl ..
    · refine .foldl ?_ fun u a => ?_
      · exact .refl ..
      · refine .step ?_ (State.snoop_keeps ..)
        exact .refl ..
  · exact .refl ..

theorem State.pumpReleases_keeps (s) : Keeps 36893488147419103240 s (State.pumpReleases s) := by
  unfold State.pumpReleases
  refine .foldl ?_ fun u a => ?_
  · exact .refl ..
  · refine .step ?_ (State.pumpRelease_keeps ..)
    exact .refl ..

theorem State.translate_keeps (s x a n fault) : Keeps 1208925819614629174706176 s (State.translate s x a n fault).1 := by
  unfold State.translate
  split
  · dsimp only
    exact .refl ..
  · extract_lets l582 l583
    split
    · dsimp only
      exact .refl ..
    · split
      · dsimp only
        exact .refl ..
      · dsimp only
        refine .step ?_ (upd_atsCache ..)
        exact .refl ..

theorem State.shHold_keeps (s q p) : Keeps 75557863725914323419136 s (State.shHold s q p) := by
  unfold State.shHold
  extract_lets l584
  refine .ite (fun _ => ?_) fun _ => ?_
  · exact .refl ..
  · refine .step ?_ (State.setQp_keeps ..)
    exact .refl ..

theorem State.placeSend_keeps (s q p r) : Keeps 73667947062091872119042154009026351821090977330527259142743305325978661573902028733739240 s (State.placeSend s q p r) := by
  unfold State.placeSend
  extract_lets l585 l586 l587 l588
  refine .have_ (t := l588) ?_ fun h589 => ?_
  · unfold l588
    refine .step ?_ (State.accept_keeps ..)
    refine .step ?_ (State.setQp_keeps ..)
    unfold l586
    refine .ite (fun _ => ?_) fun _ => ?_
    · refine .step ?_ (State.engineWrite_keeps ..)
      exact .refl ..
    · refine .ite (fun _ => ?_) fun _ => ?_
      · exact .refl ..
      · refine .step ?_ (State.emit_keeps ..)
        exact .refl ..
  refine .ite (fun _ => ?_) fun _ => ?_
  · refine .step ?_ (State.emit_keeps ..)
    exact h589
  · exact h589

theorem State.onSend_keeps (s q p fault) : Keeps 73667947062091872119042154009026351821090977330527259142743305327188177689327016614097128 s (State.onSend s q p fault) := by
  unfold State.onSend
  extract_lets l590
  split
  · rename_i v591 v592
    refine .have_ (t := v591) (.fst_eq ?_ v592) fun h593 => ?_
    · refine .step ?_ (State.coherentJob_keeps ..)
      exact .refl ..
    refine .step ?_ (State.shHold_keeps ..)
    exact h593
  · rename_i v594 v595
    refine .have_ (t := v594) (.fst_eq ?_ v595) fun h596 => ?_
    · refine .step ?_ (State.coherentJob_keeps ..)
      exact .refl ..
    split
    · rename_i v597 v598
      refine .have_ (t := v597) (.fst_eq ?_ v598) fun h599 => ?_
      · refine .step ?_ (State.bindRecv_keeps ..)
        exact h596
      exact h599
    · rename_i v600 v601 v602
      refine .have_ (t := v600) (.fst_eq ?_ v602) fun h603 => ?_
      · refine .step ?_ (State.bindRecv_keeps ..)
        exact h596
      refine .ite (fun _ => ?_) fun _ => ?_
      · split
        · rename_i v604 v605
          refine .have_ (t := v604) (.fst_eq ?_ v605) fun h606 => ?_
          · refine .step ?_ (State.translate_keeps ..)
            exact h603
          refine .step ?_ (State.emit_keeps ..)
          refine .step ?_ (State.shHold_keeps ..)
          exact h606
        · rename_i v607 v608
          refine .have_ (t := v607) (.fst_eq ?_ v608) fun h609 => ?_
          · refine .step ?_ (State.translate_keeps ..)
            exact h603
          refine .step ?_ (State.placeSend_keeps ..)
          exact h609
      · refine .step ?_ (State.placeSend_keeps ..)
        exact h603

theorem State.shTarget_keeps (s q a n rd wr) : Keeps 71676711447560499800644466514160553579479707089800456090944836471131267688941301446801568 s (State.shTarget s q a n rd wr).1 := by
  unfold State.shTarget
  extract_lets l610 l611
  split
  · dsimp only
    exact .refl ..
  · split
    · dsimp only
      refine .step ?_ (State.countUnbacked_keeps ..)
      exact .refl ..
    · split
      · dsimp only
        refine .step ?_ (State.deny_keeps ..)
        exact .refl ..
      · dsimp only
        refine .step ?_ (State.deny_keeps ..)
        exact .refl ..
      · dsimp only
        exact .refl ..

theorem State.nmoAnswer_keeps (s q p word code) : Keeps 73667947062091872119042154009026351821090977330527259142743305325978661573902028733739240 s (State.nmoAnswer s q p word code) := by
  unfold State.nmoAnswer
  extract_lets l612 l613
  refine .step ?_ (State.shAnswer_keeps ..)
  refine .step ?_ (State.accept_keeps ..)
  unfold l613
  refine .step ?_ (State.setQp_keeps ..)
  exact .refl ..

theorem State.onNmo_keeps (s q p) : Keeps 73667947062091872119042154009026351821092441686659975457581271127383907051722316137429224 s (State.onNmo s q p) := by
  unfold State.onNmo
  refine .ite (fun _ => ?_) fun _ => ?_
  · refine .step ?_ (State.shNak_keeps ..)
    exact .refl ..
  · split
    · rename_i v614 v615
      refine .have_ (t := v614) (.fst_eq ?_ v615) fun h616 => ?_
      · refine .step ?_ (State.shTarget_keeps ..)
        exact .refl ..
      refine .step ?_ (State.shNak_keeps ..)
      exact h616
    · rename_i v617 v618
      refine .have_ (t := v617) (.fst_eq ?_ v618) fun h619 => ?_
      · refine .step ?_ (State.shTarget_keeps ..)
        exact .refl ..
      split
      · rename_i v620 v621
        refine .have_ (t := v620) (.fst_eq ?_ v621) fun h622 => ?_
        · refine .step ?_ (State.coherentJob_keeps ..)
          exact h619
        refine .step ?_ (State.shHold_keeps ..)
        exact h622
      · rename_i v623 v624
        refine .have_ (t := v623) (.fst_eq ?_ v624) fun h625 => ?_
        · refine .step ?_ (State.coherentJob_keeps ..)
          exact h619
        refine .ite (fun _ => ?_) fun _ => ?_
        · refine .step ?_ (State.nmoAnswer_keeps ..)
          exact h625
        · refine .ite (fun _ => ?_) fun _ => ?_
          · refine .step ?_ (State.nmoAnswer_keeps ..)
            refine .step ?_ (State.plainPut_keeps ..)
            exact h625
          · extract_lets l626 l627 l628
            refine .step ?_ (State.nmoAnswer_keeps ..)
            refine .ite (fun _ => ?_) fun _ => ?_
            · exact h625
            · refine .step ?_ (State.plainPut_keeps ..)
              exact h625

theorem State.flushAnswers_keeps (s q) : Keeps 73667947062091872119042154009026351821090977330527259142743305325978661573902028733739240 s (State.flushAnswers s q) := by
  unfold State.flushAnswers
  extract_lets l629 l630 l631
  refine .ite (fun _ => ?_) fun _ => ?_
  · exact .refl ..
  · refine .foldl ?_ fun u a => ?_
    · unfold l631
      refine .step ?_ (State.setQp_keeps ..)
      exact .refl ..
    · refine .step ?_ (State.shAnswer_keeps ..)
      exact .refl ..

theorem State.shUnhold_keeps (s q psn) : Keeps 75557863725914323419136 s (State.shUnhold s q psn) := by
  unfold State.shUnhold
  extract_lets l632
  refine .step ?_ (State.setQp_keeps ..)
  exact .refl ..

theorem State.pumpQp_keeps (s q) : Keeps 73667947062091872119042154009026351821092441686659975457581271128592832871336945312135400 s (State.pumpQp s q) := by
  unfold State.pumpQp
  refine .ite (fun _ => ?_) fun _ => ?_
  · exact .refl ..
  · refine .step ?_ (State.flushAnswers_keeps ..)
    refine .foldl ?_ fun u a => ?_
    · exact .refl ..
    · refine .ite (fun _ => ?_) fun _ => ?_
      · refine .step ?_ (State.onNmo_keeps ..)
        refine .step ?_ (State.shUnhold_keeps ..)
        exact .refl ..
      · refine .ite (fun _ => ?_) fun _ => ?_
        · exact .refl ..
        · refine .step ?_ (State.onSend_keeps ..)
          refine .step ?_ (State.shUnhold_keeps ..)
          exact .refl ..

theorem State.pumpShuttle_keeps (s) : Keeps 73667947062091872119042154009026351821092441686659975457581271128592832871336945312135400 s (State.pumpShuttle s) := by
  unfold State.pumpShuttle
  refine .foldl ?_ fun u a => ?_
  · exact .refl ..
  · refine .step ?_ (State.pumpQp_keeps ..)
    exact .refl ..

theorem State.pumpWaits_keeps (s) : Keeps 73667947062091872119042154009026351821092441686659975457581271128610541745647706481686760 s (State.pumpWaits s) := by
  unfold State.pumpWaits
  refine .step ?_ (State.pumpReleases_keeps ..)
  refine .step ?_ (State.pumpShuttle_keeps ..)
  refine .step ?_ (State.pumpRing_keeps ..)
  exact .refl ..

theorem State.dropStore_keeps (s h a) : Keeps 71676711447560499800644466514160553579479707089800456090944836471131267688941301446801576 s (State.dropStore s h a) := by
  unfold State.dropStore
  split
  · refine .step ?_ (State.respond_keeps ..)
    refine .step ?_ (State.countUnbacked_keeps ..)
    exact .refl ..
  · refine .step ?_ (State.respond_keeps ..)
    refine .step ?_ (State.deny_keeps ..)
    exact .refl ..
  · refine .step ?_ (State.respond_keeps ..)
    refine .ite (fun _ => ?_) fun _ => ?_
    · refine .step ?_ (State.countUnbacked_keeps ..)
      exact .refl ..
    · exact .refl ..
  · refine .step ?_ (State.respond_keeps ..)
    exact .refl ..
  · exact .refl ..

theorem State.dropTag_keeps (s ctx rtag) : Keeps 4722366482869645213696 s (State.dropTag s ctx rtag) := by
  unfold State.dropTag
  extract_lets l646
  refine .step ?_ (State.setRctx_keeps ..)
  exact .refl ..

theorem State.dropTenantKeys_keeps (s t) : Keeps 18526734277970591267771357601390065256523197546544322716120745011517690971422720 s (State.dropTenantKeys s t) := by
  unfold State.dropTenantKeys
  refine .step ?_ (State.setFld_keeps ..)
  refine .step ?_ (State.setFld_keeps ..)
  refine .step ?_ (State.dropKeys_keeps ..)
  exact .refl ..

theorem State.dropWr_keeps (s q w) : Keeps 75557863725914323419136 s (State.dropWr s q w) := by
  unfold State.dropWr
  refine .step ?_ (State.setQp_keeps ..)
  exact .refl ..

theorem State.spoilOwn_keeps (s c w) : Keeps 71614546043009276470375043734950006274257049774802778665310620600452445937810722894442656 s (State.spoilOwn s c w) := by
  unfold State.spoilOwn
  refine .foldl ?_ fun u a => ?_
  · exact .refl ..
  · split
    · refine .step ?_ (State.corrupt_keeps ..)
      exact .refl ..
    · exact .refl ..

theorem State.endRing_keeps (s c w shares readOk ringNs) : Keeps 71614546043009276470375045354743561017301413839151386590510394679989274545306379432816876 s (State.endRing s c w shares readOk ringNs) := by
  unfold State.endRing
  extract_lets l683 l684 l685 l686 l687 l688 l689 l690 l691 l692 l693 l694 l695 l696 l697 l698 l699 l700 l701 l702
  refine .have_ (t := l700) ?_ fun h703 => ?_
  · unfold l700
    refine .step ?_ (State.closeOutput_keeps ..)
    unfold l699
    refine .step ?_ (State.attWrite_keeps ..)
    exact .refl ..
  refine .ite (fun _ => ?_) fun _ => ?_
  · unfold l688
    refine .step ?_ (State.dropTag_keeps ..)
    refine .step ?_ (State.attFail_keeps ..)
    refine .step ?_ (State.leavePanel_keeps ..)
    refine .step ?_ (State.spoilOwn_keeps ..)
    refine .step ?_ (State.elemsCut_keeps ..)
    exact .refl ..
  · split
    · rename_i v704 v705 v706
      refine .have_ (t := v704) (.fst_eq ?_ v706) fun h707 => ?_
      · refine .step ?_ (State.attTime_keeps ..)
        unfold l702
        refine .step ?_ (State.attCount_keeps ..)
        refine .step ?_ (State.attAccount_keeps ..)
        exact h703
      unfold l688
      refine .step ?_ (State.dropTag_keeps ..)
      refine .step ?_ (State.reclaim_keeps ..)
      refine .step ?_ (State.finish_keeps ..)
      refine .step ?_ (State.leavePanel_keeps ..)
      exact h707

theorem State.faultFail_keeps (s q p) : Keeps 73667947062091872119042154009026351821090977330527259142743305325978661573902028733739240 s (State.faultFail s q p) := by
  unfold State.faultFail
  extract_lets l728
  refine .step ?_ (State.recvFail_keeps ..)
  exact .refl ..

theorem State.fm_keeps (s code) : Keeps 8 s (State.fm s code) := by
  unfold State.fm
  refine .step ?_ (State.emit_keeps ..)
  exact .refl ..

theorem State.nearFault_keeps (s t rs) : Keeps.Opt 71676711447560499800644466514160553579479707089800456090944836471131267688941301446801568 s ((State.nearFault s t rs).map Prod.fst) := by
  unfold State.nearFault
  extract_lets l771 l772
  split
  · refine .some ?_
    dsimp only
    refine .step ?_ (State.deny_keeps ..)
    exact .refl ..
  · split
    · refine .some ?_
      dsimp only
      exact .refl ..
    · split
      · exact .none
      · refine .some ?_
        dsimp only
        refine .step ?_ (State.countUnbacked_keeps ..)
        exact .refl ..

theorem State.gatherAhead_keeps (s c) : Keeps 71676711447560499800644466514160553579479707089800456090944836471131267688941645044185248 s (State.gatherAhead s c) := by
  unfold State.gatherAhead
  extract_lets l773 l774 l775
  refine .ite (fun _ => ?_) fun _ => ?_
  · exact .refl ..
  · refine .foldl ?_ fun u a => ?_
    · refine .step ?_ (upd_inflight ..)
      exact .refl ..
    · refine .step ?_ (State.demand_keeps ..)
      exact .refl ..

theorem State.nearCoherent_keeps (s c rs) : Keeps 36893488216138579976 s (State.nearCoherent s c rs).1 := by
  unfold State.nearCoherent
  refine .step ?_ (State.coherent_keeps ..)
  refine .step ?_ (State.setCmd_keeps ..)
  exact .refl ..

theorem State.nearPut_keeps (s c dkind a bs) : Keeps 2017612633061982216 s (State.nearPut s c dkind a bs) := by
  unfold State.nearPut
  refine .ite (fun _ => ?_) fun _ => ?_
  · exact .refl ..
  · refine .ite (fun _ => ?_) fun _ => ?_
    · refine .step ?_ (State.emit_keeps ..)
      refine .step ?_ (State.emit_keeps ..)
      exact .refl ..
    · refine .step ?_ (State.plainPut_keeps ..)
      exact .refl ..

theorem State.nearDone_keeps (s c code r0 r1 toHost) : Keeps 68719476736 s (State.nearDone s c code r0 r1 toHost) := by
  unfold State.nearDone
  refine .step ?_ (State.setCmd_keeps ..)
  exact .refl ..

theorem State.nearSpoil_keeps (s c detail dst bad) : Keeps 2017612701781458956 s (State.nearSpoil s c detail dst bad) := by
  unfold State.nearSpoil
  extract_lets l776
  refine .step ?_ (State.nearDone_keeps ..)
  unfold l776
  split
  · refine .foldl ?_ fun u a => ?_
    · refine .step ?_ (State.undefine_keeps ..)
      exact .refl ..
    · refine .step ?_ (State.poisonLine_keeps ..)
      exact .refl ..
  · extract_lets l777
    refine .have_ (t := l777) ?_ fun h778 => ?_
    · unfold l777
      refine .step ?_ (State.emit_keeps ..)
      exact .refl ..
    refine .step ?_ (upd_freeCtr ..)
    exact h778
  · exact .refl ..

theorem State.nearViews_keeps (s c ps fill) : Keeps 196159429230833773869868419475239575503203111582725832704 s (State.nearViews s c ps fill) := by
  unfold State.nearViews
  extract_lets l779 l780
  refine .have_ (t := l780) ?_ fun h781 => ?_
  · unfold l780
    refine .step ?_ (State.setCmd_keeps ..)
    exact .refl ..
  refine .ite (fun _ => ?_) fun _ => ?_
  · exact h781
  · refine .foldl ?_ fun u a => ?_
    · exact h781
    · split
      · split
        · refine .step ?_ (State.viewFill_keeps ..)
          exact .refl ..
        · exact .refl ..
      · exact .refl ..

theorem State.nearCopy_keeps (s c srcs dkind dst) : Keeps 71614546043009276470375043734950208563668444072132081967118204441264685636055214191603884 s (State.nearCopy s c srcs dkind dst) := by
  unfold State.nearCopy
  extract_lets l782 l783 l784 l785 l786 l787
  refine .have_ (t := l786) ?_ fun h788 => ?_
  · unfold l786
    refine .step ?_ (State.nearViews_keeps ..)
    exact .refl ..
  refine .ite (fun _ => ?_) fun _ => ?_
  · refine .foldl ?_ fun u a => ?_
    · exact h788
    · refine .step ?_ (State.demand_keeps ..)
      exact .refl ..
  · refine .ite (fun _ => ?_) fun _ => ?_
    · refine .step ?_ (State.reclaim_keeps ..)
      refine .step ?_ (State.nearSpoil_keeps ..)
      refine .foldl ?_ fun u a => ?_
      · exact h788
      · refine .step ?_ (State.corrupt_keeps ..)
        exact .refl ..
    · refine .step ?_ (State.nearDone_keeps ..)
      refine .step ?_ (State.nearPut_keeps ..)
      exact h788

theorem State.nearGate_keeps (s c fields rs dst) : Keeps.Opt 71676711447560499800644466514160553579479707089800456090944836471131269706554020408129708 s (State.nearGate s c fields rs dst) := by
  unfold State.nearGate
  split
  · split
    · refine .some ?_
      exact .step (.refl ..) (State.fail_keeps ..)
    · refine ⟨fun t e => ?_⟩
      obtain ⟨r, hr, rfl⟩ := Option.map_eq_some_iff.1 e
      refine .step ?_ (State.fail_keeps ..)
      exact .step (.refl ..) (Keeps.Opt.elim (State.nearFault_keeps ..) (congrArg (Option.map Prod.fst) hr))
  · split
    · exact .none
    · refine .some ?_
      exact .step (.refl ..) (State.nearSpoil_keeps ..)
  · exact .some (.refl ..)

theorem State.gatherWith_keeps (s c es) : Keeps 71676711447560499800644466515968561168682465447114466746636228239781022648679874160556204 s (State.gatherWith s c es) := by
  unfold State.gatherWith
  extract_lets l789 l790 l791 l792
  split
  · rename_i v793 v794
    refine .have_ (t := v793) (Keeps.Opt.elim ?_ v794) fun h795 => ?_
    · refine .after ?_ (State.nearGate_keeps ..)
      exact .refl ..
    exact h795
  · rename_i v796
    split
    · rename_i v798 v799
      refine .have_ (t := v798) (.fst_eq ?_ v799) fun h800 => ?_
      · refine .step ?_ (State.nearCoherent_keeps ..)
        exact .refl ..
      exact h800
    · rename_i v801 v802
      refine .have_ (t := v801) (.fst_eq ?_ v802) fun h803 => ?_
      · refine .step ?_ (State.nearCoherent_keeps ..)
        exact .refl ..
      refine .step ?_ (State.nearCopy_keeps ..)
      exact h803

theorem State.putDataKey_keeps (s hd key) : Keeps 1267650600228229401496703205376 s (State.putDataKey s hd key) := by
  unfold State.putDataKey
  refine .step ?_ (upd_dataKeys ..)
  exact .refl ..

theorem State.newDataKey_keeps (s hd) : Keeps 1267650600228229401496703205380 s (State.newDataKey s hd) := by
  unfold State.newDataKey
  refine .step ?_ (State.drawn_keeps ..)
  refine .step ?_ (State.putDataKey_keeps ..)
  exact .refl ..

theorem State.logReleased_keeps (s h a) : Keeps 71614546043009276470375043733142200974465685714818071311426812691958075831544052224946408 s (State.logReleased s h a) := by
  unfold State.logReleased
  split
  · refine .ite (fun _ => ?_) fun _ => ?_
    · refine .step ?_ (State.cxlNote_keeps ..)
      refine .step ?_ (upd_unbackedLogAt ..)
      exact .refl ..
    · exact .refl ..
  · exact .refl ..

theorem State.nmoAgain_keeps (s q p) : Keeps 73667947062091872174256124783350862120569024228743462762352177103341754015202222524133608 s (State.nmoAgain s q p) := by
  unfold State.nmoAgain
  split
  · refine .step ?_ (State.shAnswer_keeps ..)
    refine .step ?_ (State.addFld_keeps ..)
    refine .step ?_ (State.addFld_keeps ..)
    exact .refl ..
  · refine .step ?_ (State.addFld_keeps ..)
    exact .refl ..

theorem State.onShPut_keeps (s q p) : Keeps 73667947062091872119042154009026351821092441686659975457581271127383316755911957431777512 s (State.onShPut s q p) := by
  unfold State.onShPut
  split
  · rename_i v902 v903
    refine .have_ (t := v902) (.fst_eq ?_ v903) fun h904 => ?_
    · refine .step ?_ (State.shTarget_keeps ..)
      exact .refl ..
    refine .step ?_ (State.shNak_keeps ..)
    exact h904
  · rename_i v905 v906
    refine .have_ (t := v905) (.fst_eq ?_ v906) fun h907 => ?_
    · refine .step ?_ (State.shTarget_keeps ..)
      exact .refl ..
    refine .step ?_ (State.accept_keeps ..)
    refine .step ?_ (State.engineWrite_keeps ..)
    exact h907

theorem State.poisonRead_keeps (s h n) : Keeps 8 s (State.poisonRead s h n) := by
  unfold State.poisonRead
  refine .step ?_ (State.respondData_keeps ..)
  exact .refl ..

theorem State.plainRequest_keeps (s h a op) : Keeps 71678654175738275219221278032935721422834558317513740379274057091086529011838424207915240 s (State.plainRequest s h a op) := by
  unfold State.plainRequest
  extract_lets l909 l910 l911
  refine .have_ (t := l910) ?_ fun h912 => ?_
  · unfold l910
    refine .step ?_ (State.logReleased_keeps ..)
    refine .step ?_ (State.countUnbacked_keeps ..)
    exact .refl ..
  refine .have_ (t := l911) ?_ fun h913 => ?_
  · unfold l911
    refine .step ?_ (State.deny_keeps ..)
    exact .refl ..
  split
  · exact .refl ..
  · refine .ite (fun _ => ?_) fun _ => ?_
    · refine .step ?_ (State.respond_keeps ..)
      exact .refl ..
    · refine .step ?_ (State.poisonRead_keeps ..)
      exact .refl ..
  · refine .ite (fun _ => ?_) fun _ => ?_
    · refine .step ?_ (State.respond_keeps ..)
      exact h912
    · refine .step ?_ (State.poisonRead_keeps ..)
      exact h912
  · refine .ite (fun _ => ?_) fun _ => ?_
    · refine .step ?_ (State.respond_keeps ..)
      exact h913
    · refine .step ?_ (State.poisonRead_keeps ..)
      exact h913
  · split
    · refine .step ?_ (State.request_keeps ..)
      refine .step ?_ (State.wake_keeps ..)
      exact .refl ..
    · exact .refl ..

theorem State.portPump_keeps (s) : Keeps 302231454903657293676552 s (State.portPump s) := by
  unfold State.portPump
  extract_lets l918 l919
  refine .step ?_ (upd_out_shOut ..)
  exact .refl ..

theorem State.qpq_keeps (s q err) : Keeps 431359146674410236714672241392314090778194310760649159697657763987456 s (State.qpq s q err) := by
  unfold State.qpq
  extract_lets l932
  refine .have_ (t := l932) ?_ fun h933 => ?_
  · unfold l932
    refine .step ?_ (State.setFld_keeps ..)
    exact .refl ..
  refine .ite (fun _ => ?_) fun _ => ?_
  · exact h933
  · refine .step ?_ (State.setFld_keeps ..)
    exact h933

theorem opQpError_keeps (q s) : Keeps 73667947062091872098768274115329070695501381985088496876168172719925919613208456532652264 s (opQpError q s) := by
  unfold opQpError
  refine .ite (fun _ => ?_) fun _ => ?_
  · refine .step ?_ (State.qpq_keeps ..)
    exact .refl ..
  · refine .step ?_ (State.qpq_keeps ..)
    refine .step ?_ (State.qpFail_keeps ..)
    exact .refl ..

theorem opQpRead_keeps (q s) : Keeps 6470387200116153550720083620884711361672914661409737395464866459811840 s (opQpRead q s) := by
  unfold opQpRead
  extract_lets l934 l935
  refine .step ?_ (State.qpq_keeps ..)
  refine .step ?_ (State.setReg_keeps ..)
  refine .step ?_ (State.setReg_keeps ..)
  unfold l935
  refine .foldl ?_ fun u a => ?_
  · exact .refl ..
  · refine .step ?_ (State.setReg_keeps ..)
    exact .refl ..

theorem opQpReset_keeps (q s) : Keeps 431359146674410236714672241392314090778194310836207023423572087406592 s (opQpReset q s) := by
  unfold opQpReset
  extract_lets l936
  refine .ite (fun _ => ?_) fun _ => ?_
  · refine .step ?_ (State.qpq_keeps ..)
    exact .refl ..
  · refine .step ?_ (State.qpq_keeps ..)
    refine .step ?_ (State.setQp_keeps ..)
    exact .refl ..

theorem opQpWrite_keeps (q s) : Keeps 431359146674410236714672241392314090778194310836207023423572087406592 s (opQpWrite q s) := by
  unfold opQpWrite
  extract_lets l937
  refine .ite (fun _ => ?_) fun _ => ?_
  · refine .step ?_ (State.qpq_keeps ..)
    exact .refl ..
  · refine .step ?_ (State.qpq_keeps ..)
    refine .step ?_ (State.setQp_keeps ..)
    exact .refl ..

theorem opQpActivate_keeps (q s) : Keeps 431359146674410236714672241392314090778194310836207023423572087406592 s (opQpActivate q s) := by
  unfold opQpActivate
  extract_lets l938 l939 l940
  refine .ite (fun _ => ?_) fun _ => ?_
  · refine .step ?_ (State.qpq_keeps ..)
    exact .refl ..
  · refine .step ?_ (State.qpq_keeps ..)
    refine .step ?_ (State.setQp_keeps ..)
    exact .refl ..

theorem State.writeGwCtl_keeps (s g v) : Keeps 2237954563844039889699220116660693780452052678588064728482087896056996668419357351608320 s (State.writeGwCtl s g v) := by
  unfold State.writeGwCtl
  refine .ite (fun _ => ?_) fun _ => ?_
  · refine .ite (fun _ => ?_) fun _ => ?_
    · exact .refl ..
    · refine .step ?_ (State.setGw_keeps ..)
      refine .step ?_ (State.setFld_keeps ..)
      refine .step ?_ (State.setFld_keeps ..)
      exact .refl ..
  · extract_lets l1037 l1038
    refine .have_ (t := l1037) ?_ fun h1039 => ?_
    · unfold l1037
      refine .step ?_ (State.setReg_keeps ..)
      exact .refl ..
    refine .ite (fun _ => ?_) fun _ => ?_
    · refine .step ?_ (State.setFld_keeps ..)
      refine .step ?_ (State.setFld_keeps ..)
      exact h1039
    · exact h1039

theorem opGatewayConfig_keeps (g reg v s) : Keeps 3729924273073399816165366861101156300753421130980107880803479826736475159456957478207488 s (opGatewayConfig g reg v s) := by
  unfold opGatewayConfig
  refine .ite (fun _ => ?_) fun _ => ?_
  · refine .step ?_ (State.writeGwCtl_keeps ..)
    exact .refl ..
  · refine .ite (fun _ => ?_) fun _ => ?_
    · exact .refl ..
    · refine .ite (fun _ => ?_) fun _ => ?_
      · refine .step ?_ (State.setReg_keeps ..)
        exact .refl ..
      · refine .step ?_ (State.setReg_keeps ..)
        exact .refl ..

theorem opOrphanLogClear_keeps (s) : Keeps 3885337784451458141838923813647037813284813678104279042503624819480114413419630690304 s (opOrphanLogClear s) := by
  unfold opOrphanLogClear
  refine .step ?_ (State.setFld_keeps ..)
  refine .step ?_ (upd_orphanLog (hx := fun _ => Nat.zero_le _) ..)
  exact .refl ..

theorem opOrphanLogQuery_keeps (v s) : Keeps 54394728982320413985744933391058529385987391493459906595050747472689319985745837948928 s (opOrphanLogQuery v s) := by
  unfold opOrphanLogQuery
  extract_lets l1088 l1089
  refine .have_ (t := l1089) ?_ fun h1090 => ?_
  · unfold l1089
    refine .step ?_ (State.setReg_keeps ..)
    exact .refl ..
  split
  · refine .step ?_ (State.setReg_keeps ..)
    refine .step ?_ (State.setReg_keeps ..)
    exact h1090
  · refine .step ?_ (State.setReg_keeps ..)
    refine .step ?_ (State.setReg_keeps ..)
    exact h1090

theorem State.updSent_keeps (s q psn f) : Keeps 75557863725914323419136 s (State.updSent s q psn f) := by
  unfold State.updSent
  extract_lets l1097
  refine .step ?_ (State.setQp_keeps ..)
  exact .refl ..

theorem State.resend_keeps (s q e) : Keeps 73667947062091872119042154009026351821090977330527259142743305325978661573902028733739240 s (State.resend s q e) := by
  unfold State.resend
  refine .step ?_ (State.transmit_keeps ..)
  refine .step ?_ (State.updSent_keeps ..)
  exact .refl ..

theorem State.response_keeps (s p mine) : Keeps 73667947062091872119042154009026351821090977330527259142743305325978661573902028733739240 s (State.response s p mine) := by
  unfold State.response
  extract_lets l1113 l1114 l1115 l1116
  refine .have_ (t := l1114) ?_ fun h1117 => ?_
  · unfold l1114
    refine .step ?_ (State.addFld_keeps ..)
    exact .refl ..
  refine .have_ (t := l1116) ?_ fun h1118 => ?_
  · unfold l1116
    refine .step ?_ (State.acked_keeps ..)
    exact h1117
  clear_value l1115
  split
  · refine .step ?_ (State.acked_keeps ..)
    exact h1117
  · refine .ite (fun _ => ?_) fun _ => ?_
    · refine .step ?_ (State.gwsGo_keeps ..)
      refine .step ?_ (State.qpGo_keeps ..)
      refine .step ?_ (State.sendDone_keeps ..)
      refine .step ?_ (State.dropWr_keeps ..)
      exact h1118
    · refine .step ?_ (State.qpFail_keeps ..)
      exact h1118

theorem State.retryTimer_keeps (s q psn) : Keeps 73667947062091872119042154009026351821090977330527259142743305325978661573902028733739240 s (State.retryTimer s q psn) := by
  unfold State.retryTimer
  extract_lets l1127
  split
  · refine .ite (fun _ => ?_) fun _ => ?_
    · refine .step ?_ (State.resend_keeps ..)
      exact .refl ..
    · exact .refl ..
  · exact .refl ..

theorem State.sendShare_keeps (s c w hs) : Keeps 71614546043009276470375043734950012404239213238358212098698729201692722190193425515606184 s (State.sendShare s c w hs) := by
  unfold State.sendShare
  extract_lets l1132 l1133
  refine .ite (fun _ => ?_) fun _ => ?_
  · exact .refl ..
  · refine .foldl ?_ fun u a => ?_
    · exact .refl ..
    · extract_lets l1134 l1135 l1136
      refine .have_ (t := l1135) ?_ fun h1137 => ?_
      · unfold l1135
        split
        · refine .step ?_ (State.reclaim_keeps ..)
          refine .step ?_ (State.corrupt_keeps ..)
          exact .refl ..
        · exact .refl ..
      refine .have_ (t := l1136) ?_ fun h1138 => ?_
      · unfold l1136
        refine .ite (fun _ => ?_) fun _ => ?_
        · refine .step ?_ (State.ringPut_keeps ..)
          exact h1137
        · exact h1137
      refine .ite (fun _ => ?_) fun _ => ?_
      · refine .step ?_ (State.ringPut_keeps ..)
        exact h1138
      · exact h1138

theorem State.ringAdvance_keeps (s uid) : Keeps 71614546043009276470375045226188517476582191795794419203217386458873763703711038047318188 s (State.ringAdvance s uid) := by
  unfold State.ringAdvance
  split
  · exact .refl ..
  · split
    · split
      · exact .refl ..
      · refine .ite (fun _ => ?_) fun _ => ?_
        · exact .refl ..
        · split
          · refine .step ?_ (State.dropTag_keeps ..)
            refine .step ?_ (State.attFail_keeps ..)
            refine .step ?_ (State.leavePanel_keeps ..)
            exact .refl ..
          · refine .ite (fun _ => ?_) fun _ => ?_
            · refine .step ?_ (State.setCmd_keeps ..)
              exact .refl ..
            · refine .step ?_ (State.sendShare_keeps ..)
              refine .step ?_ (State.setCmd_keeps ..)
              exact .refl ..
    · exact .refl ..

theorem State.ringArrive_keeps (s link m) : Keeps 71676711506846049490150358571028897903927915910674688239752805259351888782214861617690792 s (State.ringArrive s link m) := by
  unfold State.ringArrive
  refine .ite (fun _ => ?_) fun _ => ?_
  · refine .step ?_ (State.ringPut_keeps ..)
    exact .refl ..
  · extract_lets l1139 l1140
    refine .have_ (t := l1140) ?_ fun h1141 => ?_
    · unfold l1140
      refine .step ?_ (State.wake_keeps ..)
      exact .refl ..
    refine .step ?_ (State.onMsg_keeps ..)
    refine .step ?_ (upd_nextUid ..)
    exact h1141

theorem State.ringComplete_keeps (s c w checked readOk ringNs now) : Keeps 71614546043009276470375045354743561017301413839151386590510394679989311438794526851920110 s (State.ringComplete s c w checked readOk ringNs now) := by
  unfold State.ringComplete
  refine .ite (fun _ => ?_) fun _ => ?_
  · exact .refl ..
  · split
    · refine .step ?_ (State.dropTag_keeps ..)
      refine .step ?_ (State.attFail_keeps ..)
      refine .step ?_ (State.cutElems_keeps ..)
      refine .step ?_ (State.leavePanel_keeps ..)
      exact .refl ..
    · extract_lets l1142
      refine .ite (fun _ => ?_) fun _ => ?_
      · exact .refl ..
      · split
        · exact .refl ..
        · split
          · rename_i v1143 v1144
            refine .have_ (t := v1143) (.fst_eq ?_ v1144) fun h1145 => ?_
            · refine .step ?_ (State.coherent_keeps ..)
              refine .step ?_ (State.atNow_keeps ..)
              exact .refl ..
            exact h1145
          · rename_i v1146 v1147
            refine .have_ (t := v1146) (.fst_eq ?_ v1147) fun h1148 => ?_
            · refine .step ?_ (State.coherent_keeps ..)
              refine .step ?_ (State.atNow_keeps ..)
              exact .refl ..
            refine .step ?_ (State.endRing_keeps ..)
            exact h1148

theorem State.sendDesc_keeps (s c d) : Keeps 3541774862152233910280 s (State.sendDesc s c d) := by
  unfold State.sendDesc
  refine .foldl ?_ fun u a => ?_
  · exact .refl ..
  · extract_lets l1160 l1161 l1162
    refine .step ?_ (State.ringSend_keeps ..)
    exact .refl ..

theorem State.setExtent_keeps (s region idx e) : Keeps 4611686018427387904 s (State.setExtent s region idx e) := by
  unfold State.setExtent
  refine .step ?_ (upd_extents ..)
  exact .refl ..

theorem State.shReceive_keeps (s port src w p) : Keeps 59285549717112877444030599474187232269982333958612404676883829232701619270844416 s (State.shReceive s port src w p).1 := by
  unfold State.shReceive
  extract_lets l1175
  split
  · dsimp only
    refine .step ?_ (State.dropFrame_keeps ..)
    exact .refl ..
  · split
    · dsimp only
      refine .step ?_ (State.dropFrame_keeps ..)
      exact .refl ..
    · split
      · dsimp only
        refine .step ?_ (State.addFld_keeps ..)
        exact .refl ..
      · split
        · dsimp only
          refine .step ?_ (State.dropFrame_keeps ..)
          exact .refl ..
        · dsimp only
          refine .step ?_ (State.wake_keeps ..)
          exact .refl ..

theorem State.wrBad_keeps (s q w status) : Keeps 73667947062091872098336914968654660458786709743696182785389978409165270453510798768664808 s (State.wrBad s q w status) := by
  unfold State.wrBad
  extract_lets l1258
  refine .step ?_ (State.qpFail_keeps ..)
  refine .step ?_ (State.setQp_keeps ..)
  exact .refl ..

theorem State.wrSend_keeps (s q w data) : Keeps 73667947062091872119042154009026351821090977330527259142743305325978661573902028733739240 s (State.wrSend s q w data) := by
  unfold State.wrSend
  extract_lets l1259 l1260 l1261 l1262
  refine .ite (fun _ => ?_) fun _ => ?_
  · refine .step ?_ (State.launch_keeps ..)
    refine .step ?_ (State.setQp_keeps ..)
    exact .refl ..
  · refine .ite (fun _ => ?_) fun _ => ?_
    · refine .step ?_ (State.launch_keeps ..)
      exact .refl ..
    · refine .ite (fun _ => ?_) fun _ => ?_
      · refine .step ?_ (State.launch_keeps ..)
        exact .refl ..
      · refine .ite (fun _ => ?_) fun _ => ?_
        · refine .step ?_ (State.sendDone_keeps ..)
          exact .refl ..
        · refine .step ?_ (State.launch_keeps ..)
          refine .step ?_ (State.setQp_keeps ..)
          exact .refl ..

theorem State.wrSource_keeps (s q w hm fault) : Keeps 71676711447560499800644466514160553579479707089800456090944836472340193508555930621507752 s (State.wrSource s q w hm fault).1 := by
  unfold State.wrSource
  extract_lets l1263 l1264
  split
  · dsimp only
    exact .refl ..
  · split
    · split
      · rename_i v1265 v1266
        refine .have_ (t := v1265) (.fst_eq ?_ v1266) fun h1267 => ?_
        · refine .step ?_ (State.translate_keeps ..)
          exact .refl ..
        dsimp only
        refine .step ?_ (State.emit_keeps ..)
        exact h1267
      · rename_i v1268 v1269
        refine .have_ (t := v1268) (.fst_eq ?_ v1269) fun h1270 => ?_
        · refine .step ?_ (State.translate_keeps ..)
          exact .refl ..
        split
        · dsimp only
          exact h1270
        · dsimp only
          exact h1270
    · split
      · dsimp only
        refine .step ?_ (State.countUnbacked_keeps ..)
        exact .refl ..
      · split
        · dsimp only
          refine .step ?_ (State.deny_keeps ..)
          exact .refl ..
        · split
          · dsimp only
            exact .refl ..
          · dsimp only
            exact .refl ..

theorem State.wrStart_keeps (s q w hm fault) : Keeps 73667947062091872119042154009026351821092441686659975457581271128592242575526586606483688 s (State.wrStart s q w hm fault) := by
  unfold State.wrStart
  refine .ite (fun _ => ?_) fun _ => ?_
  · refine .step ?_ (State.wrBad_keeps ..)
    exact .refl ..
  · split
    · rename_i v1271 v1272 v1273
      refine .have_ (t := v1271) (.fst_eq ?_ v1273) fun h1274 => ?_
      · refine .step ?_ (State.wrSource_keeps ..)
        exact .refl ..
      refine .step ?_ (State.wrBad_keeps ..)
      exact h1274
    · rename_i v1275 v1276
      refine .have_ (t := v1275) (.fst_eq ?_ v1276) fun h1277 => ?_
      · refine .step ?_ (State.wrSource_keeps ..)
        exact .refl ..
      refine .step ?_ (State.setQp_keeps ..)
      exact h1277
    · rename_i v1278 v1279 v1280
      refine .have_ (t := v1278) (.fst_eq ?_ v1280) fun h1281 => ?_
      · refine .step ?_ (State.wrSource_keeps ..)
        exact .refl ..
      refine .step ?_ (State.wrSend_keeps ..)
      exact h1281

theorem State.wrTake_keeps (s q ops hm fault) : Keeps 73667947121377421808548046065894696145540650507534207606389239916795115883388467687782632 s (State.wrTake s q ops hm fault) := by
  unfold State.wrTake
  refine .ite (fun _ => ?_) fun _ => ?_
  · exact .refl ..
  · extract_lets l1282 l1283 l1284
    split
    · rename_i v1285 v1286
      refine .have_ (t := v1285) (.fst_eq ?_ v1286) fun h1287 => ?_
      · refine .step ?_ (State.coherentFor_keeps ..)
        refine .step ?_ (State.wake_keeps ..)
        exact .refl ..
      exact h1287
    · rename_i v1288 v1289
      refine .have_ (t := v1288) (.fst_eq ?_ v1289) fun h1290 => ?_
      · refine .step ?_ (State.coherentFor_keeps ..)
        refine .step ?_ (State.wake_keeps ..)
        exact .refl ..
      extract_lets l1291
      refine .ite (fun _ => ?_) fun _ => ?_
      · exact h1290
      · split
        · rename_i v1292 v1293
          refine .have_ (t := v1292) (.fst_eq ?_ v1293) fun h1294 => ?_
          · refine .step ?_ (State.coherentJob_keeps ..)
            exact h1290
          exact h1294
        · rename_i v1295 v1296
          refine .have_ (t := v1295) (.fst_eq ?_ v1296) fun h1297 => ?_
          · refine .step ?_ (State.coherentJob_keeps ..)
            exact h1290
          extract_lets l1298 l1299 l1300
          refine .have_ (t := l1299) ?_ fun h1301 => ?_
          · unfold l1299
            refine .step ?_ (State.setQp_keeps ..)
            exact h1297
          split
          · refine .ite (fun _ => ?_) fun _ => ?_
            · refine .ite (fun _ => ?_) fun _ => ?_
              · refine .step ?_ (State.wrStart_keeps ..)
                exact h1301
              · refine .step ?_ (State.setQp_keeps ..)
                exact h1301
            · refine .step ?_ (State.wrBad_keeps ..)
              exact h1301
          · refine .step ?_ (State.wrStart_keeps ..)
            exact h1301

theorem State.zeroExtent_keeps (s idx) : Keeps 2017612633061982208 s (State.zeroExtent s idx) := by
  unfold State.zeroExtent
  refine .step ?_ (upd_plainMem_poisonLines_orphanLines (h0 := fun i => Memory.wf_clear i.plain _ _) ..)
  exact .refl ..

theorem opAckTimer_keeps (q s) : Keeps 73667947062091872119042154009026351821090977330527259142743305325978661573902028733739240 s (opAckTimer q s) := by
  unfold opAckTimer
  extract_lets l1302
  refine .ite (fun _ => ?_) fun _ => ?_
  · refine .step ?_ (State.shAck_keeps ..)
    exact .refl ..
  · exact .refl ..

theorem opArpRequest_keeps (p target s) : Keeps 27606985387162255149739023449108101809804435888681546220650096895197192 s (opArpRequest p target s) := by
  unfold opArpRequest
  refine .ite (fun _ => ?_) fun _ => ?_
  · refine .step ?_ (State.emit_keeps ..)
    exact .refl ..
  · refine .step ?_ (State.dropFrame_keeps ..)
    exact .refl ..

theorem opAtsInvalidation_keeps (h pasid first n s) : Keeps 1208925819614629174706184 s (opAtsInvalidation h pasid first n s) := by
  unfold opAtsInvalidation
  refine .step ?_ (State.emit_keeps ..)
  refine .step ?_ (upd_atsCache ..)
  exact .refl ..

theorem opBisnpResponse_keeps (h line data s) : Keeps 73667947062091872119042154009026351821092441686659975457581271128610541745647775201163496 s (opBisnpResponse h line data s) := by
  unfold opBisnpResponse
  split
  · refine .step ?_ (State.pumpWaits_keeps ..)
    refine .step ?_ (State.answerSnoop_keeps ..)
    exact .refl ..
  · exact .refl ..

theorem opCompare_keeps (uid s) : Keeps 71676711447560499800644466514160553579479707089800456090944836471131306600042167827232940 s (opCompare uid s) := by
  unfold opCompare
  split
  · exact .refl ..
  · extract_lets l1394 l1395 l1396 l1397 l1398 l1399
    split
    · rename_i v1400 v1401
      refine .have_ (t := v1400) (Keeps.Opt.elim ?_ v1401) fun h1402 => ?_
      · refine .after ?_ (State.nearGate_keeps ..)
        exact .refl ..
      exact h1402
    · rename_i v1403
      split
      · rename_i v1405 v1406
        refine .have_ (t := v1405) (.fst_eq ?_ v1406) fun h1407 => ?_
        · refine .step ?_ (State.nearCoherent_keeps ..)
          exact .refl ..
        exact h1407
      · rename_i v1408 v1409
        refine .have_ (t := v1408) (.fst_eq ?_ v1409) fun h1410 => ?_
        · refine .step ?_ (State.nearCoherent_keeps ..)
          exact .refl ..
        refine .ite (fun _ => ?_) fun _ => ?_
        · refine .step ?_ (State.nearSpoil_keeps ..)
          exact h1410
        · refine .ite (fun _ => ?_) fun _ => ?_
          · extract_lets l1411
            refine .ite (fun _ => ?_) fun _ => ?_
            · refine .step ?_ (State.nearDone_keeps ..)
              refine .step ?_ (State.plainPut_keeps ..)
              exact h1410
            · refine .step ?_ (State.nearDone_keeps ..)
              exact h1410
          · split
            · refine .step ?_ (State.nearDone_keeps ..)
              exact h1410
            · refine .step ?_ (State.nearDone_keeps ..)
              exact h1410

theorem opCopy_keeps (uid s) : Keeps 71676711447560499800644466515968561168682465447114466746636228239781022648679874160556204 s (opCopy uid s) := by
  unfold opCopy
  split
  · exact .refl ..
  · extract_lets l1418 l1419 l1420 l1421 l1422
    split
    · rename_i v1423 v1424
      refine .have_ (t := v1423) (Keeps.Opt.elim ?_ v1424) fun h1425 => ?_
      · refine .after ?_ (State.nearGate_keeps ..)
        exact .refl ..
      exact h1425
    · rename_i v1426
      split
      · rename_i v1428 v1429
        refine .have_ (t := v1428) (.fst_eq ?_ v1429) fun h1430 => ?_
        · refine .step ?_ (State.nearCoherent_keeps ..)
          exact .refl ..
        exact h1430
      · rename_i v1431 v1432
        refine .have_ (t := v1431) (.fst_eq ?_ v1432) fun h1433 => ?_
        · refine .step ?_ (State.nearCoherent_keeps ..)
          exact .refl ..
        refine .step ?_ (State.nearCopy_keeps ..)
        exact h1433

theorem opCqEntryWrite_keeps (q s) : Keeps 64108073443449059340342242925176123919199425688720604201309809634851781821792394412040 s (opCqEntryWrite q s) := by
  unfold opCqEntryWrite
  extract_lets l1437
  split
  · exact .refl ..
  · refine .ite (fun _ => ?_) fun _ => ?_
    · exact .refl ..
    · extract_lets l1438 l1439
      refine .step ?_ (State.flushRq_keeps ..)
      refine .step ?_ (State.flushSq_keeps ..)
      unfold l1439
      refine .step ?_ (State.setQp_keeps ..)
      unfold l1438
      refine .step ?_ (State.engineWrite_keeps ..)
      exact .refl ..

theorem opDcReleaseExtent_keeps (region idx h s) : Keeps 50728546202701266952 s (opDcReleaseExtent region idx h s) := by
  unfold opDcReleaseExtent
  split
  · refine .ite (fun _ => ?_) fun _ => ?_
    · refine .step ?_ (State.fm_keeps ..)
      exact .refl ..
    · extract_lets l1461
      refine .step ?_ (State.fm_keeps ..)
      refine .step ?_ (State.pumpRelease_keeps ..)
      refine .step ?_ (State.setExtent_keeps ..)
      unfold l1461
      refine .ite (fun _ => ?_) fun _ => ?_
      · refine .step ?_ (upd_released ..)
        exact .refl ..
      · exact .refl ..
  · refine .step ?_ (State.fm_keeps ..)
    exact .refl ..

theorem opDescriptorDone_keeps (c idx s) : Keeps 5351573394008831950856 s (opDescriptorDone c idx s) := by
  unfold opDescriptorDone
  extract_lets l1480 l1481
  split
  · exact .refl ..
  · split
    · rename_i v1482 v1483
      refine .have_ (t := v1482) (.fst_eq ?_ v1483) fun h1484 => ?_
      · refine .step ?_ (State.coherentJob_keeps ..)
        exact .refl ..
      exact h1484
    · rename_i v1485 v1486
      refine .have_ (t := v1485) (.fst_eq ?_ v1486) fun h1487 => ?_
      · refine .step ?_ (State.coherentJob_keeps ..)
        exact .refl ..
      extract_lets l1488
      refine .step ?_ (State.setRctx_keeps ..)
      refine .step ?_ (State.plainPut_keeps ..)
      exact h1487

theorem opPlainWrite_keeps (h a bs s) : Keeps 71678654175738275219221278032935721422834558317513740379274057091086529011838424207915240 s (opPlainWrite h a bs s) := by
  unfold opPlainWrite
  refine .step ?_ (State.plainRequest_keeps ..)
  exact .refl ..

theorem opDescriptorTailWrite_keeps (h c v s) : Keeps 71678654175738275219221278032935721422834558317513740379274057091086529011838424207915240 s (opDescriptorTailWrite h c v s) := by
  unfold opDescriptorTailWrite
  refine .step ?_ (opPlainWrite_keeps ..)
  exact .refl ..

theorem opDescriptorTake_keeps (c s) : Keeps 71676711506846049490150463883320566461114613828702371910185124154437842580747606137305256 s (opDescriptorTake c s) := by
  unfold opDescriptorTake
  refine .ite (fun _ => ?_) fun _ => ?_
  · exact .refl ..
  · extract_lets l1489 l1490 l1491
    split
    · rename_i v1492 v1493
      refine .have_ (t := v1492) (.fst_eq ?_ v1493) fun h1494 => ?_
      · refine .step ?_ (State.coherentFor_keeps ..)
        refine .step ?_ (State.wake_keeps ..)
        exact .refl ..
      exact h1494
    · rename_i v1495 v1496
      refine .have_ (t := v1495) (.fst_eq ?_ v1496) fun h1497 => ?_
      · refine .step ?_ (State.coherentFor_keeps ..)
        refine .step ?_ (State.wake_keeps ..)
        exact .refl ..
      extract_lets l1498 l1499 l1500
      refine .ite (fun _ => ?_) fun _ => ?_
      · unfold l1500
        refine .step ?_ (State.addDesc_keeps ..)
        exact h1497
      · refine .ite (fun _ => ?_) fun _ => ?_
        · unfold l1500
          refine .step ?_ (State.addDesc_keeps ..)
          exact h1497
        · refine .ite (fun _ => ?_) fun _ => ?_
          · unfold l1500
            refine .step ?_ (State.addDesc_keeps ..)
            refine .step ?_ (State.countUnbacked_keeps ..)
            exact h1497
          · split
            · unfold l1500
              refine .step ?_ (State.addDesc_keeps ..)
              refine .step ?_ (State.deny_keeps ..)
              exact h1497
            · split
              · rename_i v1501 v1502
                refine .have_ (t := v1501) (.fst_eq ?_ v1502) fun h1503 => ?_
                · refine .step ?_ (State.coherentJob_keeps ..)
                  exact h1497
                exact h1503
              · rename_i v1504 v1505
                refine .have_ (t := v1504) (.fst_eq ?_ v1505) fun h1506 => ?_
                · refine .step ?_ (State.coherentJob_keeps ..)
                  exact h1497
                extract_lets l1507 l1508
                refine .step ?_ (State.sendDesc_keeps ..)
                refine .step ?_ (State.addDesc_keeps ..)
                exact h1506

theorem opFaultRetryTimer_keeps (q psn s) : Keeps 73667947062091872119042154009026351821090977330527259142743305325978661573902028733739240 s (opFaultRetryTimer q psn s) := by
  unfold opFaultRetryTimer
  refine .step ?_ (State.retryTimer_keeps ..)
  exact .refl ..

theorem opFence_keeps (uid s) : Keeps 2854495385411919762116571938898990358664839168 s (opFence uid s) := by
  unfold opFence
  split
  · exact .refl ..
  · extract_lets l1525
    split
    · refine .step ?_ (State.fail_keeps ..)
      exact .refl ..
    · refine .ite (fun _ => ?_) fun _ => ?_
      · refine .step ?_ (State.fail_keeps ..)
        exact .refl ..
      · refine .ite (fun _ => ?_) fun _ => ?_
        · refine .step ?_ (State.finish_keeps ..)
          exact .refl ..
        · exact .refl ..

theorem opFill_keeps (uid s) : Keeps 71676711447560499800644466514160553579479707089800456090944836471131306600042167827232940 s (opFill uid s) := by
  unfold opFill
  split
  · exact .refl ..
  · extract_lets l1526 l1527 l1528
    split
    · rename_i v1529 v1530
      refine .have_ (t := v1529) (Keeps.Opt.elim ?_ v1530) fun h1531 => ?_
      · refine .after ?_ (State.nearGate_keeps ..)
        exact .refl ..
      exact h1531
    · rename_i v1532
      split
      · rename_i v1534 v1535
        refine .have_ (t := v1534) (.fst_eq ?_ v1535) fun h1536 => ?_
        · refine .step ?_ (State.nearCoherent_keeps ..)
          exact .refl ..
        exact h1536
      · rename_i v1537 v1538
        refine .have_ (t := v1537) (.fst_eq ?_ v1538) fun h1539 => ?_
        · refine .step ?_ (State.nearCoherent_keeps ..)
          exact .refl ..
        refine .step ?_ (State.nearDone_keeps ..)
        refine .step ?_ (State.plainPut_keeps ..)
        exact h1539

theorem opFlushReq_keeps (port src udp p s) : Keeps 73667947121377421836155031453056951295278209600509593101355710002862490806603648004583656 s (opFlushReq port src udp p s) := by
  unfold opFlushReq
  extract_lets l1554 l1555 l1556
  split
  · rename_i v1557 v1558
    refine .have_ (t := v1557) (.fst_eq ?_ v1558) fun h1559 => ?_
    · refine .step ?_ (State.shReceive_keeps ..)
      exact .refl ..
    exact h1559
  · rename_i v1560 v1561
    refine .have_ (t := v1560) (.fst_eq ?_ v1561) fun h1562 => ?_
    · refine .step ?_ (State.shReceive_keeps ..)
      exact .refl ..
    extract_lets l1563
    split
    · refine .step ?_ (State.dropFrame_keeps ..)
      exact h1562
    · refine .step ?_ (State.flushAnswers_keeps ..)
      unfold l1556
      refine .step ?_ (State.setQp_keeps ..)
      refine .step ?_ (State.addFld_keeps ..)
      refine .step ?_ (State.addFld_keeps ..)
      exact h1562
    · refine .step ?_ (State.flushAnswers_keeps ..)
      refine .step ?_ (State.accept_keeps ..)
      unfold l1556
      refine .step ?_ (State.setQp_keeps ..)
      refine .step ?_ (State.addFld_keeps ..)
      exact h1562

theorem opFlushResp_keeps (port src udp p s) : Keeps 73667947121377421836155031453056951295278209600509593101355710002862490806603648004583656 s (opFlushResp port src udp p s) := by
  unfold opFlushResp
  extract_lets l1564
  split
  · rename_i v1565 v1566
    refine .have_ (t := v1565) (.fst_eq ?_ v1566) fun h1567 => ?_
    · refine .step ?_ (State.shReceive_keeps ..)
      exact .refl ..
    exact h1567
  · rename_i v1568 v1569
    refine .have_ (t := v1568) (.fst_eq ?_ v1569) fun h1570 => ?_
    · refine .step ?_ (State.shReceive_keeps ..)
      exact .refl ..
    refine .step ?_ (State.response_keeps ..)
    exact h1570

theorem opFmLdBind_keeps (h s) : Keeps 147573952589676412928 s (opFmLdBind h s) := by
  unfold opFmLdBind
  split
  · refine .ite (fun _ => ?_) fun _ => ?_
    · exact .refl ..
    · refine .step ?_ (upd_lostHosts ..)
      exact .refl ..
  · exact .refl ..

theorem opGatewayBufferTimeout_keeps (g page now s) : Keeps 73667947062091872119042154009026351821090977330527259142743305325978661573902028733739242 s (opGatewayBufferTimeout g page now s) := by
  unfold opGatewayBufferTimeout
  extract_lets l1595 l1596 l1597
  refine .have_ (t := l1595) ?_ fun h1598 => ?_
  · unfold l1595
    refine .step ?_ (State.atNow_keeps ..)
    exact .refl ..
  refine .ite (fun _ => ?_) fun _ => ?_
  · refine .step ?_ (State.gwGo_keeps ..)
    refine .step ?_ (State.setGw_keeps ..)
    exact h1598
  · exact h1598

theorem opGatewayDoorbell_keeps (h a v s) : Keeps 73667947062091872119042154009026351821092441686659975457581271127383316755911957431777512 s (opGatewayDoorbell h a v s) := by
  unfold opGatewayDoorbell
  split
  · extract_lets l1599 l1600 l1601
    refine .have_ (t := l1599) ?_ fun h1602 => ?_
    · unfold l1599
      refine .step ?_ (State.respond_keeps ..)
      exact .refl ..
    refine .ite (fun _ => ?_) fun _ => ?_
    · exact h1602
    · refine .ite (fun _ => ?_) fun _ => ?_
      · refine .step ?_ (State.flushWord_keeps ..)
        exact h1602
      · refine .step ?_ (State.gwGo_keeps ..)
        refine .step ?_ (State.setGw_keeps ..)
        exact h1602
  · refine .step ?_ (State.dropStore_keeps ..)
    exact .refl ..

theorem opGatewayFlushDone_keeps (g s) : Keeps 73667947062091872119042154009026351821090977330527259142743305325978661573902028733739240 s (opGatewayFlushDone g s) := by
  unfold opGatewayFlushDone
  extract_lets l1603
  split
  · refine .ite (fun _ => ?_) fun _ => ?_
    · refine .step ?_ (State.gwGo_keeps ..)
      refine .step ?_ (State.flushWord_keeps ..)
      refine .step ?_ (State.setGw_keeps ..)
      exact .refl ..
    · exact .refl ..
  · exact .refl ..

theorem opGatewayLoad_keeps (h a n s) : Keeps 71676711447560499800644466514160553579479707089800456090944836471131267688941301446801576 s (opGatewayLoad h a n s) := by
  unfold opGatewayLoad
  split
  · exact .refl ..
  · refine .step ?_ (State.poisonRead_keeps ..)
    refine .step ?_ (State.countUnbacked_keeps ..)
    exact .refl ..
  · refine .step ?_ (State.poisonRead_keeps ..)
    refine .step ?_ (State.deny_keeps ..)
    exact .refl ..
  · refine .step ?_ (State.poisonRead_keeps ..)
    exact .refl ..

theorem opGatewayStore_keeps (h a bs s) : Keeps 73667947062091872119042154009026351821092441686659975457581271127383316755911957431777512 s (opGatewayStore h a bs s) := by
  unfold opGatewayStore
  split
  · extract_lets l1604 l1605 l1606
    refine .have_ (t := l1604) ?_ fun h1607 => ?_
    · unfold l1604
      refine .step ?_ (State.respond_keeps ..)
      exact .refl ..
    refine .ite (fun _ => ?_) fun _ => ?_
    · exact h1607
    · refine .ite (fun _ => ?_) fun _ => ?_
      · refine .step ?_ (State.addFld_keeps ..)
        exact h1607
      · refine .step ?_ (State.gwGo_keeps ..)
        refine .step ?_ (State.setGw_keeps ..)
        exact h1607
  · refine .step ?_ (State.dropStore_keeps ..)
    exact .refl ..

theorem opGather_keeps (uid s) : Keeps 71676711447560499800644466515968561168682465447114466746636228239781022648679874160556204 s (opGather uid s) := by
  unfold opGather
  split
  · split
    · refine .step ?_ (State.gatherAhead_keeps ..)
      exact .refl ..
    · exact .refl ..
  · extract_lets l1608 l1609 l1610
    refine .ite (fun _ => ?_) fun _ => ?_
    · refine .step ?_ (State.fail_keeps ..)
      exact .refl ..
    · refine .ite (fun _ => ?_) fun _ => ?_
      · refine .step ?_ (State.gatherWith_keeps ..)
        exact .refl ..
      · split
        · rename_i v1611 v1612
          refine .have_ (t := v1611.1) (Keeps.Opt.elim ?_ (congrArg (Option.map Prod.fst) v1612)) fun h1613 => ?_
          · refine .after ?_ (State.nearFault_keeps ..)
            exact .refl ..
          refine .step ?_ (State.fail_keeps ..)
          exact h1613
        · rename_i v1614
          split
          · rename_i v1616 v1617
            refine .have_ (t := v1616) (.fst_eq ?_ v1617) fun h1618 => ?_
            · refine .step ?_ (State.coherent_keeps ..)
              exact .refl ..
            exact h1618
          · rename_i v1619 v1620
            refine .have_ (t := v1619) (.fst_eq ?_ v1620) fun h1621 => ?_
            · refine .step ?_ (State.coherent_keeps ..)
              exact .refl ..
            refine .ite (fun _ => ?_) fun _ => ?_
            · refine .step ?_ (State.fail_keeps ..)
              exact h1621
            · extract_lets l1622
              refine .step ?_ (State.gatherWith_keeps ..)
              exact h1621

theorem opGetData_keeps (link m s) : Keeps 71676711506846049490150358571028897903927915910674688239752805259351888782214861617690792 s (opGetData link m s) := by
  unfold opGetData
  refine .step ?_ (State.ringArrive_keeps ..)
  exact .refl ..

theorem opGetReq_keeps (link m s) : Keeps 71676711506846049490150358571028897903927915910674688239752805259351888782214861617690792 s (opGetReq link m s) := by
  unfold opGetReq
  refine .step ?_ (State.ringArrive_keeps ..)
  exact .refl ..

theorem opIcmpEchoRequest_keeps (p v6 dst bs s) : Keeps 27606985387162255149739023449108101809804435888681546220650096895197192 s (opIcmpEchoRequest p v6 dst bs s) := by
  unfold opIcmpEchoRequest
  refine .ite (fun _ => ?_) fun _ => ?_
  · refine .step ?_ (State.emit_keeps ..)
    exact .refl ..
  · refine .step ?_ (State.dropFrame_keeps ..)
    exact .refl ..

theorem opNearMemoryComplete_keeps (uid readOk s) : Keeps 2854495385411919762116571938898990358664839168 s (opNearMemoryComplete uid readOk s) := by
  unfold opNearMemoryComplete
  split
  · exact .refl ..
  · split
    · refine .ite (fun _ => ?_) fun _ => ?_
      · exact .refl ..
      · extract_lets l1677
        refine .ite (fun _ => ?_) fun _ => ?_
        · refine .step ?_ (State.fail_keeps ..)
          exact .refl ..
        · refine .ite (fun _ => ?_) fun _ => ?_
          · refine .step ?_ (State.finish_keeps ..)
            exact .refl ..
          · refine .step ?_ (State.finish_keeps ..)
            exact .refl ..
    · exact .refl ..

theorem opNeighbourSolicitation_keeps (p target s) : Keeps 27606985387162255149739023449108101809804435888681546220650096895197192 s (opNeighbourSolicitation p target s) := by
  unfold opNeighbourSolicitation
  refine .ite (fun _ => ?_) fun _ => ?_
  · refine .step ?_ (State.emit_keeps ..)
    exact .refl ..
  · refine .step ?_ (State.dropFrame_keeps ..)
    exact .refl ..

theorem opNmoReq_keeps (port src udp p s) : Keeps 73667947121377421891369002227381461594757720854858513035802547581630828725724129198668008 s (opNmoReq port src udp p s) := by
  unfold opNmoReq
  extract_lets l1678
  split
  · rename_i v1679 v1680
    refine .have_ (t := v1679) (.fst_eq ?_ v1680) fun h1681 => ?_
    · refine .step ?_ (State.shReceive_keeps ..)
      exact .refl ..
    exact h1681
  · rename_i v1682 v1683
    refine .have_ (t := v1682) (.fst_eq ?_ v1683) fun h1684 => ?_
    · refine .step ?_ (State.shReceive_keeps ..)
      exact .refl ..
    extract_lets l1685 l1686
    split
    · refine .step ?_ (State.dropFrame_keeps ..)
      exact h1684
    · refine .step ?_ (State.nmoAgain_keeps ..)
      refine .step ?_ (State.addFld_keeps ..)
      exact h1684
    · refine .step ?_ (State.flushAnswers_keeps ..)
      refine .step ?_ (State.onNmo_keeps ..)
      refine .step ?_ (State.addFld_keeps ..)
      exact h1684

theorem opNmoResp_keeps (port src udp p s) : Keeps 73667947121377421836155031453056951295278209600509593101355710002862490806603648004583656 s (opNmoResp port src udp p s) := by
  unfold opNmoResp
  extract_lets l1687
  split
  · rename_i v1688 v1689
    refine .have_ (t := v1688) (.fst_eq ?_ v1689) fun h1690 => ?_
    · refine .step ?_ (State.shReceive_keeps ..)
      exact .refl ..
    exact h1690
  · rename_i v1691 v1692
    refine .have_ (t := v1691) (.fst_eq ?_ v1692) fun h1693 => ?_
    · refine .step ?_ (State.shReceive_keeps ..)
      exact .refl ..
    refine .step ?_ (State.response_keeps ..)
    exact h1693

theorem opOrphanScanComplete_keeps (s) : Keeps 3885337784451458141838923813647037813284813678104279042503646580144867476744775401544 s (opOrphanScanComplete s) := by
  unfold opOrphanScanComplete
  refine .ite (fun _ => ?_) fun _ => ?_
  · exact .refl ..
  · extract_lets l1694 l1695 l1696 l1697
    refine .have_ (t := l1696) ?_ fun h1698 => ?_
    · unfold l1696
      refine .ite (fun _ => ?_) fun _ => ?_
      · refine .step ?_ (State.setFld_keeps ..)
        exact .refl ..
      · exact .refl ..
    refine .step ?_ (State.cxlEvent_keeps ..)
    refine .step ?_ (State.setFld_keeps ..)
    unfold l1697
    refine .step ?_ (upd_orphanLog_orphanPend (h0 := fun i => by
      have h := i.orphans
      have e : l1696.orphanLog = s.orphanLog := by unfold l1696; split <;> rfl
      rw [List.length_append, List.length_take, e]
      rw [e] at h
      unfold l1695
      show _ + min (65536 - _) _ ≤ _
      omega) ..)
    exact h1698

theorem opOtherReceivedFrame_keeps (s) : Keeps 27606985387162255149739023449108101809804435888681546220650096895197184 s (opOtherReceivedFrame s) := by
  unfold opOtherReceivedFrame
  refine .step ?_ (State.dropFrame_keeps ..)
  exact .refl ..

theorem opPageRequestResponse_keeps (q rx ok hm s) : Keeps 73667947062091872119042154009026351821092441686659975457581271128592832871336945312135400 s (opPageRequestResponse q rx ok hm s) := by
  unfold opPageRequestResponse
  extract_lets l1699
  refine .ite (fun _ => ?_) fun _ => ?_
  · exact .refl ..
  · refine .ite (fun _ => ?_) fun _ => ?_
    · refine .foldl ?_ fun u a => ?_
      · exact .refl ..
      · refine .ite (fun _ => ?_) fun _ => ?_
        · refine .step ?_ (State.onSend_keeps ..)
          refine .step ?_ (State.shUnhold_keeps ..)
          exact .refl ..
        · refine .step ?_ (State.faultFail_keeps ..)
          refine .step ?_ (State.shUnhold_keeps ..)
          exact .refl ..
    · refine .ite (fun _ => ?_) fun _ => ?_
      · exact .refl ..
      · split
        · exact .refl ..
        · refine .ite (fun _ => ?_) fun _ => ?_
          · refine .step ?_ (State.qpGo_keeps ..)
            refine .step ?_ (State.wrStart_keeps ..)
            refine .step ?_ (State.setQp_keeps ..)
            exact .refl ..
          · refine .step ?_ (State.qpFail_keeps ..)
            exact .refl ..

theorem opPfcFrame_keeps (p enables quanta s) : Keeps 906694364710971881029640 s (opPfcFrame p enables quanta s) := by
  unfold opPfcFrame
  extract_lets l1704
  refine .ite (fun _ => ?_) fun _ => ?_
  · refine .step ?_ (State.portPump_keeps ..)
    refine .step ?_ (upd_pfcUntil ..)
    exact .refl ..
  · exact .refl ..

theorem opPlacementFaultTimeout_keeps (q psn s) : Keeps 73667947062091872119042154009026351821090977330527259142743305325978661573902028733739240 s (opPlacementFaultTimeout q psn s) := by
  unfold opPlacementFaultTimeout
  extract_lets l1708 l1709 l1710
  refine .have_ (t := l1710) ?_ fun h1711 => ?_
  · unfold l1710
    refine .step ?_ (State.shUnhold_keeps ..)
    refine .step ?_ (State.setQp_keeps ..)
    exact .refl ..
  split
  · exact .refl ..
  · refine .ite (fun _ => ?_) fun _ => ?_
    · exact .refl ..
    · refine .ite (fun _ => ?_) fun _ => ?_
      · refine .step ?_ (State.faultFail_keeps ..)
        exact h1711
      · refine .step ?_ (State.shNak_keeps ..)
        exact h1711

theorem opPlainExtentAddTimeout_keeps (idx now s) : Keeps 4611686018427387914 s (opPlainExtentAddTimeout idx now s) := by
  unfold opPlainExtentAddTimeout
  extract_lets l1712
  refine .have_ (t := l1712) ?_ fun h1713 => ?_
  · unfold l1712
    refine .step ?_ (State.atNow_keeps ..)
    exact .refl ..
  split
  · refine .ite (fun _ => ?_) fun _ => ?_
    · exact h1713
    · refine .step ?_ (State.fm_keeps ..)
      refine .step ?_ (upd_extents ..)
      exact h1713
  · exact h1713

theorem opPlainReadCurrent_keeps (h a s) : Keeps 71678654175738275219221278032935721422834558317513740379274057091086529011838424207915240 s (opPlainReadCurrent h a s) := by
  unfold opPlainReadCurrent
  refine .step ?_ (State.plainRequest_keeps ..)
  exact .refl ..

theorem opPlainReadExclusive_keeps (h a s) : Keeps 71678654175738275219221278032935721422834558317513740379274057091086529011838424207915240 s (opPlainReadExclusive h a s) := by
  unfold opPlainReadExclusive
  refine .step ?_ (State.plainRequest_keeps ..)
  exact .refl ..

theorem opPlainReadShared_keeps (h a s) : Keeps 71678654175738275219221278032935721422834558317513740379274057091086529011838424207915240 s (opPlainReadShared h a s) := by
  unfold opPlainReadShared
  refine .step ?_ (State.plainRequest_keeps ..)
  exact .refl ..

theorem opPlainWriteback_keeps (h a bs s) : Keeps 71676711506846049490150358571028897903927915910674688239752805278676679427088776742107368 s (opPlainWriteback h a bs s) := by
  unfold opPlainWriteback
  refine .ite (fun _ => ?_) fun _ => ?_
  · exact .refl ..
  · split
    · refine .step ?_ (State.respond_keeps ..)
      refine .step ?_ (State.dropHolder_keeps ..)
      refine .step ?_ (State.putLine_keeps ..)
      refine .step ?_ (State.wake_keeps ..)
      exact .refl ..
    · exact .refl ..
    · refine .step ?_ (State.respond_keeps ..)
      refine .step ?_ (State.dropHolder_keeps ..)
      exact .refl ..
    · refine .step ?_ (State.respond_keeps ..)
      refine .step ?_ (State.dropHolder_keeps ..)
      refine .step ?_ (State.logReleased_keeps ..)
      refine .step ?_ (State.countUnbacked_keeps ..)
      exact .refl ..
    · refine .step ?_ (State.respond_keeps ..)
      refine .step ?_ (State.dropHolder_keeps ..)
      refine .step ?_ (State.deny_keeps ..)
      exact .refl ..

theorem opQpControlWrite_keeps (h q word v s) : Keeps 71678654175738275219221278032935721422834558317513740379274057091199865807427295693043944 s (opQpControlWrite h q word v s) := by
  unfold opQpControlWrite
  extract_lets l1727 l1728
  refine .step ?_ (State.flushRq_keeps ..)
  refine .step ?_ (State.flushSq_keeps ..)
  unfold l1728
  refine .step ?_ (opPlainWrite_keeps ..)
  exact .refl ..

theorem opRattBlock_keeps (link b s) : Keeps 8264141345021879123976 s (opRattBlock link b s) := by
  unfold opRattBlock
  extract_lets l1730 l1731 l1732 l1733 l1734 l1735 l1736
  refine .have_ (t := l1735) ?_ fun h1737 => ?_
  · unfold l1735
    refine .ite (fun _ => ?_) fun _ => ?_
    · refine .step ?_ (State.ringPut_keeps ..)
      exact .refl ..
    · exact .refl ..
  refine .ite (fun _ => ?_) fun _ => ?_
  · exact h1737
  · refine .step ?_ (State.setRctx_keeps ..)
    exact h1737

theorem opRattHdr_keeps (link dst h s) : Keeps 71614546043009276470375045226188517476582191795794419203217386458873763703711038047318188 s (opRattHdr link dst h s) := by
  unfold opRattHdr
  refine .ite (fun _ => ?_) fun _ => ?_
  · refine .step ?_ (State.ringPut_keeps ..)
    exact .refl ..
  · refine .ite (fun _ => ?_) fun _ => ?_
    · exact .refl ..
    · extract_lets l1738 l1739
      refine .have_ (t := l1739) ?_ fun h1740 => ?_
      · unfold l1739
        refine .step ?_ (State.setRctx_keeps ..)
        exact .refl ..
      split
      · refine .step ?_ (State.ringAdvance_keeps ..)
        exact h1740
      · exact h1740

theorem opReceiveComplete_keeps (q msn s) : Keeps 73667947062091872119042154009026351821090977330527259142743305325978661573902028733739240 s (opReceiveComplete q msn s) := by
  unfold opReceiveComplete
  extract_lets l1750
  split
  · exact .refl ..
  · refine .ite (fun _ => ?_) fun _ => ?_
    · exact .refl ..
    · refine .step ?_ (State.flushAnswers_keeps ..)
      refine .step ?_ (State.recvDone_keeps ..)
      refine .step ?_ (State.setQp_keeps ..)
      exact .refl ..

theorem opReduce_keeps (uid s) : Keeps 71676711447560499800644466514160553579479707089800456090944836471131306600042167827232940 s (opReduce uid s) := by
  unfold opReduce
  split
  · exact .refl ..
  · extract_lets l1751 l1752 l1753 l1754 l1755 l1756 l1757 l1758
    split
    · rename_i v1759 v1760
      refine .have_ (t := v1759) (Keeps.Opt.elim ?_ v1760) fun h1761 => ?_
      · refine .after ?_ (State.nearGate_keeps ..)
        exact .refl ..
      exact h1761
    · rename_i v1762
      split
      · rename_i v1764 v1765
        refine .have_ (t := v1764) (.fst_eq ?_ v1765) fun h1766 => ?_
        · refine .step ?_ (State.nearCoherent_keeps ..)
          exact .refl ..
        exact h1766
      · rename_i v1767 v1768
        refine .have_ (t := v1767) (.fst_eq ?_ v1768) fun h1769 => ?_
        · refine .step ?_ (State.nearCoherent_keeps ..)
          exact .refl ..
        refine .ite (fun _ => ?_) fun _ => ?_
        · refine .step ?_ (State.nearSpoil_keeps ..)
          exact h1769
        · extract_lets l1770
          refine .step ?_ (State.nearDone_keeps ..)
          refine .step ?_ (State.putMarked_keeps ..)
          exact h1769

theorem opReducePut_keeps (link m s) : Keeps 71676711506846049490150358571028897903927915910674688239752805259351888782214861617690792 s (opReducePut link m s) := by
  unfold opReducePut
  refine .step ?_ (State.ringArrive_keeps ..)
  exact .refl ..

theorem opRetxTimeout_keeps (q s) : Keeps 73667947062091872119042154009026351821090977330527259142743305325978661573902028733739240 s (opRetxTimeout q s) := by
  unfold opRetxTimeout
  extract_lets l1779
  refine .ite (fun _ => ?_) fun _ => ?_
  · exact .refl ..
  · refine .ite (fun _ => ?_) fun _ => ?_
    · refine .step ?_ (State.qpFail_keeps ..)
      exact .refl ..
    · refine .foldl ?_ fun u a => ?_
      · refine .step ?_ (State.setQp_keeps ..)
        exact .refl ..
      · refine .step ?_ (State.resend_keeps ..)
        exact .refl ..

theorem opRingAbortComplete_keeps (c s) : Keeps 105312291668557186697918027683670432318895100122915594123956191232 s (opRingAbortComplete c s) := by
  unfold opRingAbortComplete
  refine .ite (fun _ => ?_) fun _ => ?_
  · refine .step ?_ (State.setFld_keeps ..)
    refine .step ?_ (State.setRctx_keeps ..)
    exact .refl ..
  · exact .refl ..

theorem opRingAck_keeps (link m s) : Keeps 71676711506846049490150358571028897903927915910674688239752805259351888782214861617690792 s (opRingAck link m s) := by
  unfold opRingAck
  refine .step ?_ (State.ringArrive_keeps ..)
  exact .refl ..

theorem opRingAttend_keeps (uid s) : Keeps 71676711447560499800644468007206870081596210316281418570815648140818124923857260651804844 s (opRingAttend uid s) := by
  unfold opRingAttend
  split
  · exact .refl ..
  · split
    · refine .step ?_ (State.attFail_keeps ..)
      exact .refl ..
    · extract_lets l1780 l1781 l1782
      split
      · refine .step ?_ (State.attFail_keeps ..)
        exact .refl ..
      · refine .ite (fun _ => ?_) fun _ => ?_
        · refine .step ?_ (State.attFail_keeps ..)
          exact .refl ..
        · refine .ite (fun _ => ?_) fun _ => ?_
          · refine .step ?_ (State.attFail_keeps ..)
            exact .refl ..
          · refine .ite (fun _ => ?_) fun _ => ?_
            · refine .step ?_ (State.attFail_keeps ..)
              exact .refl ..
            · refine .ite (fun _ => ?_) fun _ => ?_
              · exact .refl ..
              · split
                · refine .step ?_ (State.attFail_keeps ..)
                  exact .refl ..
                · split
                  · rename_i v1783 v1784 v1785
                    refine .have_ (t := v1783) (Keeps.Opt.elim ?_ (congrArg (Option.map Prod.fst) v1785)) fun h1786 => ?_
                    · refine .after ?_ (State.attAccess_keeps ..)
                      exact .refl ..
                    refine .step ?_ (State.attFail_keeps ..)
                    exact h1786
                  · rename_i v1787
                    extract_lets l1789 l1790
                    refine .have_ (t := l1790) ?_ fun h1791 => ?_
                    · unfold l1790
                      refine .step ?_ (State.attBegin_keeps ..)
                      exact .refl ..
                    split
                    · refine .step ?_ (State.attFail_keeps ..)
                      exact .refl ..
                    · split
                      · exact h1791
                      · extract_lets l1792
                        refine .have_ (t := l1792) ?_ fun h1793 => ?_
                        · unfold l1792
                          refine .step ?_ (State.setCmd_keeps ..)
                          exact h1791
                        refine .step ?_ (State.ringAdvance_keeps ..)
                        refine .foldl ?_ fun u a => ?_
                        · exact h1793
                        · refine .step ?_ (State.ringSend_keeps ..)
                          exact .refl ..
    · exact .refl ..

theorem opRingPut_keeps (link m s) : Keeps 71676711506846049490150358571028897903927915910674688239752805259351888782214861617690792 s (opRingPut link m s) := by
  unfold opRingPut
  refine .step ?_ (State.ringArrive_keeps ..)
  exact .refl ..

theorem opRnrRetryTimer_keeps (q psn s) : Keeps 73667947062091872119042154009026351821090977330527259142743305325978661573902028733739240 s (opRnrRetryTimer q psn s) := by
  unfold opRnrRetryTimer
  refine .step ?_ (State.retryTimer_keeps ..)
  exact .refl ..

theorem opShuttleAck_keeps (port src udp p s) : Keeps 73667947121377421836155031453056951295278209600509593101355710002862490806603648004583656 s (opShuttleAck port src udp p s) := by
  unfold opShuttleAck
  extract_lets l1826
  split
  · rename_i v1827 v1828
    refine .have_ (t := v1827) (.fst_eq ?_ v1828) fun h1829 => ?_
    · refine .step ?_ (State.shReceive_keeps ..)
      exact .refl ..
    exact h1829
  · rename_i v1830 v1831
    refine .have_ (t := v1830) (.fst_eq ?_ v1831) fun h1832 => ?_
    · refine .step ?_ (State.shReceive_keeps ..)
      exact .refl ..
    refine .step ?_ (State.acked_keeps ..)
    refine .step ?_ (State.addFld_keeps ..)
    exact h1832

theorem opShuttleNak_keeps (port src udp p s) : Keeps 73667947121377421836155031453056951295278209600509593101355710002862490806603648004583656 s (opShuttleNak port src udp p s) := by
  unfold opShuttleNak
  extract_lets l1833 l1834
  split
  · rename_i v1835 v1836
    refine .have_ (t := v1835) (.fst_eq ?_ v1836) fun h1837 => ?_
    · refine .step ?_ (State.shReceive_keeps ..)
      exact .refl ..
    exact h1837
  · rename_i v1838 v1839
    refine .have_ (t := v1838) (.fst_eq ?_ v1839) fun h1840 => ?_
    · refine .step ?_ (State.shReceive_keeps ..)
      exact .refl ..
    extract_lets l1841 l1842 l1843
    refine .have_ (t := l1841) ?_ fun h1844 => ?_
    · unfold l1841
      refine .step ?_ (State.acked_keeps ..)
      refine .step ?_ (State.addFld_keeps ..)
      exact h1840
    split
    · exact h1844
    · refine .ite (fun _ => ?_) fun _ => ?_
      · refine .ite (fun _ => ?_) fun _ => ?_
        · refine .step ?_ (State.qpFail_keeps ..)
          exact h1844
        · refine .step ?_ (State.updSent_keeps ..)
          exact h1844
      · refine .ite (fun _ => ?_) fun _ => ?_
        · refine .step ?_ (State.updSent_keeps ..)
          exact h1844
        · refine .ite (fun _ => ?_) fun _ => ?_
          · refine .step ?_ (State.qpFail_keeps ..)
            exact h1844
          · refine .ite (fun _ => ?_) fun _ => ?_
            · refine .step ?_ (State.qpFail_keeps ..)
              exact h1844
            · refine .ite (fun _ => ?_) fun _ => ?_
              · refine .step ?_ (State.qpFail_keeps ..)
                exact h1844
              · exact h1844

theorem opShuttlePortLink_keeps (p st s) : Keeps 6739986666787659948666753771754907668409286105635143120275902562304 s (opShuttlePortLink p st s) := by
  unfold opShuttlePortLink
  extract_lets l1845
  refine .step ?_ (State.setFld_keeps ..)
  unfold l1845
  refine .ite (fun _ => ?_) fun _ => ?_
  · refine .step ?_ (State.addFld_keeps ..)
    exact .refl ..
  · exact .refl ..

theorem opShuttlePut_keeps (port src udp p s) : Keeps 73667947121377421836155031453056951295279673956642309416193675804267145988613576702621928 s (opShuttlePut port src udp p s) := by
  unfold opShuttlePut
  extract_lets l1846
  split
  · rename_i v1847 v1848
    refine .have_ (t := v1847) (.fst_eq ?_ v1848) fun h1849 => ?_
    · refine .step ?_ (State.shReceive_keeps ..)
      exact .refl ..
    exact h1849
  · rename_i v1850 v1851
    refine .have_ (t := v1850) (.fst_eq ?_ v1851) fun h1852 => ?_
    · refine .step ?_ (State.shReceive_keeps ..)
      exact .refl ..
    extract_lets l1853 l1854
    split
    · refine .step ?_ (State.dropFrame_keeps ..)
      exact h1852
    · refine .step ?_ (State.shAck_keeps ..)
      refine .step ?_ (State.addFld_keeps ..)
      refine .step ?_ (State.addFld_keeps ..)
      exact h1852
    · refine .step ?_ (State.flushAnswers_keeps ..)
      refine .step ?_ (State.onShPut_keeps ..)
      refine .step ?_ (State.addFld_keeps ..)
      exact h1852

theorem opShuttleSend_keeps (port src udp p fault s) : Keeps 73667947121377421836155031453056951295278209600509593101355710004072006922028635884941544 s (opShuttleSend port src udp p fault s) := by
  unfold opShuttleSend
  extract_lets l1855
  split
  · rename_i v1856 v1857
    refine .have_ (t := v1856) (.fst_eq ?_ v1857) fun h1858 => ?_
    · refine .step ?_ (State.shReceive_keeps ..)
      exact .refl ..
    exact h1858
  · rename_i v1859 v1860
    refine .have_ (t := v1859) (.fst_eq ?_ v1860) fun h1861 => ?_
    · refine .step ?_ (State.shReceive_keeps ..)
      exact .refl ..
    extract_lets l1862 l1863
    split
    · refine .step ?_ (State.dropFrame_keeps ..)
      exact h1861
    · refine .step ?_ (State.shAck_keeps ..)
      refine .step ?_ (State.addFld_keeps ..)
      refine .step ?_ (State.addFld_keeps ..)
      exact h1861
    · refine .step ?_ (State.flushAnswers_keeps ..)
      refine .step ?_ (State.onSend_keeps ..)
      refine .step ?_ (State.addFld_keeps ..)
      exact h1861

theorem opWrCompareSwap_keeps (q s) : Keeps 73667947121377421808548046065894696145540650507534207606389239916795115883388467687782632 s (opWrCompareSwap q s) := by
  unfold opWrCompareSwap
  refine .step ?_ (State.wrTake_keeps ..)
  exact .refl ..

theorem opWrFetchAdd_keeps (q s) : Keeps 73667947121377421808548046065894696145540650507534207606389239916795115883388467687782632 s (opWrFetchAdd q s) := by
  unfold opWrFetchAdd
  refine .step ?_ (State.wrTake_keeps ..)
  exact .refl ..

theorem opWrFlush_keeps (q s) : Keeps 73667947121377421808548046065894696145540650507534207606389239916795115883388467687782632 s (opWrFlush q s) := by
  unfold opWrFlush
  refine .step ?_ (State.wrTake_keeps ..)
  exact .refl ..

theorem opWrNop_keeps (q s) : Keeps 73667947121377421808548046065894696145540650507534207606389239916795115883388467687782632 s (opWrNop q s) := by
  unfold opWrNop
  refine .step ?_ (State.wrTake_keeps ..)
  exact .refl ..

theorem opWrPut_keeps (q hm fault s) : Keeps 73667947121377421808548046065894696145540650507534207606389239916795115883388467687782632 s (opWrPut q hm fault s) := by
  unfold opWrPut
  refine .step ?_ (State.wrTake_keeps ..)
  exact .refl ..

theorem opWrReduce_keeps (q hm fault s) : Keeps 73667947121377421808548046065894696145540650507534207606389239916795115883388467687782632 s (opWrReduce q hm fault s) := by
  unfold opWrReduce
  refine .step ?_ (State.wrTake_keeps ..)
  exact .refl ..

theorem opWrSend_keeps (q hm fault s) : Keeps 73667947121377421808548046065894696145540650507534207606389239916795115883388467687782632 s (opWrSend q hm fault s) := by
  unfold opWrSend
  refine .step ?_ (State.wrTake_keeps ..)
  exact .refl ..

theorem opWrWaitSatisfied_keeps (q hm fault s) : Keeps 73667947062091872119042154009026351821092441686659975457581271128592832871336945312135400 s (opWrWaitSatisfied q hm fault s) := by
  unfold opWrWaitSatisfied
  extract_lets l1950
  split
  · exact .refl ..
  · refine .ite (fun _ => ?_) fun _ => ?_
    · exact .refl ..
    · split
      · rename_i v1951 v1952
        refine .have_ (t := v1951) (.fst_eq ?_ v1952) fun h1953 => ?_
        · refine .step ?_ (State.coherentJob_keeps ..)
          exact .refl ..
        exact h1953
      · rename_i v1954 v1955
        refine .have_ (t := v1954) (.fst_eq ?_ v1955) fun h1956 => ?_
        · refine .step ?_ (State.coherentJob_keeps ..)
          exact .refl ..
        refine .step ?_ (State.wrStart_keeps ..)
        refine .step ?_ (State.setQp_keeps ..)
        exact h1956

end Sys2Proof.Machine
end

