-- ==== Sys2Proof/Laws/FramesSystem.lean ====
section
/-!
SUPPORT. What each operation on tenants, the CXL attachment, security, faults, patterns, power, resets and the registers of BAR0 may have changed: one lemma for each, its mask in the numbering of `Part.idx`.
-/

set_option Elab.async false
namespace Sys2Proof.Machine

theorem State.reply_keeps (s op ret payload) : Keeps 8 s (State.reply s op ret payload) := by
  unfold State.reply
  refine .step ?_ (State.emit_keeps ..)
  exact .refl ..

theorem State.showStaged_keeps (s) : Keeps 87112285931760246646623899502532662132736 s (State.showStaged s) := by
  unfold State.showStaged
  refine .step ?_ (State.setFld_keeps ..)
  exact .refl ..

/-- A command of the operator's mailbox: refused, with its reply, or run. -/
theorem State.operator_keeps {m : Nat} (s fn op action early safe frozen run) (hr : ∀ t, Keeps m t (run t)) (hm : 71614546043009276470375043733142200974465685714818071311426812672614967569804806076821672 ||| m = m := by decide) :
    Keeps m s (State.operator s fn op action early safe frozen run) := by
  unfold State.operator
  split
  · exact hr s
  · refine .mono (w := 71614546043009276470375043733142200974465685714818071311426812672614967569804806076821672) ?_ hm
    extract_lets l1
    refine .step ?_ (State.emit_keeps ..)
    unfold l1
    refine .ite (fun _ => ?_) fun _ => ?_
    · exact .step (.refl ..) (State.logEv_keeps ..)
    · exact .refl ..

theorem State.abortRow_keeps (s swap fn) : Keeps 71614546043009276470375043733142200974465685714905183597358572919261591469307338743148712 s (State.abortRow s swap fn) := by
  unfold State.abortRow
  refine .trans ?_ (State.operator_keeps (hr := fun t => ?_) ..)
  · exact .refl ..
  · refine .step ?_ (State.reply_keeps ..)
    refine .step ?_ (State.showStaged_keeps ..)
    refine .step ?_ (upd_staging ..)
    exact .refl ..

theorem State.actErr_keeps (s t e) : Keeps 22300745198530623141535718272648361505980416 s (State.actErr s t e) := by
  unfold State.actErr
  refine .step ?_ (State.setFld_keeps ..)
  exact .refl ..

theorem State.patState_keeps (s n) : Keeps 21778071482940061661655974875633165533440 s (State.patState s n) := by
  unfold State.patState
  refine .ite (fun _ => ?_) fun _ => ?_
  · exact .refl ..
  · extract_lets l88
    refine .have_ (t := l88) ?_ fun h89 => ?_
    · unfold l88
      refine .step ?_ (State.setFld_keeps ..)
      exact .refl ..
    refine .step ?_ (upd_geoGen ..)
    exact h89

theorem State.enterPhase_keeps (s l ph) : Keeps 21778071482940061661655974875633232642304 s (State.enterPhase s l ph) := by
  unfold State.enterPhase
  extract_lets l90
  refine .have_ (t := l90) ?_ fun h91 => ?_
  · unfold l90
    refine .step ?_ (upd_load ..)
    exact .refl ..
  refine .ite (fun _ => ?_) fun _ => ?_
  · exact h91
  · refine .step ?_ (State.patState_keeps ..)
    exact h91

theorem State.activateRow_keeps (s swap fn panel) : Keeps 71614546043009276470375043733142200974465685714926961668841512980923247444182972105814440 s (State.activateRow s swap fn panel) := by
  unfold State.activateRow
  refine .trans ?_ (State.operator_keeps (hr := fun t => ?_) ..)
  · exact .refl ..
  · refine .ite (fun _ => ?_) fun _ => ?_
    · refine .step ?_ (State.reply_keeps ..)
      exact .refl ..
    · extract_lets l92 l93 l94
      refine .have_ (t := l92) ?_ fun h95 => ?_
      · unfold l92
        refine .step ?_ (State.setFld_keeps ..)
        refine .step ?_ (State.reply_keeps ..)
        exact .refl ..
      refine .step ?_ (State.enterPhase_keeps ..)
      unfold l94
      refine .step ?_ (upd_bg ..)
      exact h95

theorem State.mediaOff_keeps (s) : Keeps 59285549689505892056868344324448208820874232148807968788202283012051522375647360 s (State.mediaOff s) := by
  unfold State.mediaOff
  refine .ite (fun _ => ?_) fun _ => ?_
  · refine .step ?_ (State.mctpEvent_keeps ..)
    refine .step ?_ (State.setFld_keeps ..)
    exact .refl ..
  · exact .refl ..

theorem State.setLife_keeps (s n) : Keeps 63106688634337326505846186829734909780032141642814672220711686625160550156337280 s (State.setLife s n) := by
  unfold State.setLife
  extract_lets l121
  refine .have_ (t := l121) ?_ fun h122 => ?_
  · unfold l121
    refine .step ?_ (State.mctpEvent_keeps ..)
    refine .step ?_ (State.keyWrite_keeps ..)
    refine .step ?_ (State.setFld_keeps ..)
    exact .refl ..
  refine .ite (fun _ => ?_) fun _ => ?_
  · refine .step ?_ (State.mediaOff_keeps ..)
    exact h122
  · exact h122

theorem State.toState_keeps (s t x) : Keeps 22300745198530623141535718272648361505980416 s (State.toState s t x) := by
  unfold State.toState
  refine .step ?_ (State.setFld_keeps ..)
  exact .refl ..

theorem State.drainTenant_keeps (s t) : Keeps 73667947062091872098337020332368346438282486101666104044189067353874632382775464292315368 s (State.drainTenant s t) := by
  unfold State.drainTenant
  refine .ite (fun _ => ?_) fun _ => ?_
  · exact .refl ..
  · extract_lets l132 l133 l134 l135
    refine .have_ (t := l132) ?_ fun h136 => ?_
    · unfold l132
      refine .step ?_ (State.toState_keeps ..)
      refine .step ?_ (State.emptySpools_keeps ..)
      exact .refl ..
    refine .have_ (t := l134) ?_ fun h137 => ?_
    · unfold l134
      refine .step ?_ (upd_inflight ..)
      exact h136
    refine .have_ (t := l135) ?_ fun h138 => ?_
    · unfold l135
      refine .foldl ?_ fun u a => ?_
      · exact h137
      · refine .step ?_ (State.qpFail_keeps ..)
        exact .refl ..
    refine .foldl ?_ fun u a => ?_
    · exact h138
    · refine .step ?_ (State.abortCtx_keeps ..)
      exact .refl ..

theorem State.advance_keeps (s a) : Keeps 73667947126124897446572876401603101148086899144524405565464679024706473223740365557788904 s (State.advance s a) := by
  unfold State.advance
  extract_lets l139 l140 l141 l142
  refine .have_ (t := l142) ?_ fun h143 => ?_
  · unfold l142
    refine .step ?_ (State.keyWrite_keeps ..)
    refine .step ?_ (State.setFld_keeps ..)
    refine .step ?_ (upd_lcTarget ..)
    exact .refl ..
  refine .ite (fun _ => ?_) fun _ => ?_
  · refine .step ?_ (State.setLife_keeps ..)
    refine .step ?_ (upd_deviceCerts ..)
    exact .refl ..
  · refine .ite (fun _ => ?_) fun _ => ?_
    · refine .step ?_ (State.setLife_keeps ..)
      refine .step ?_ (State.keyWrite_keeps ..)
      unfold l141
      refine .step ?_ (State.setFld_keeps ..)
      refine .step ?_ (State.setFld_keeps ..)
      unfold l140
      refine .step ?_ (upd_ownerCerts ..)
      exact .refl ..
    · refine .ite (fun _ => ?_) fun _ => ?_
      · refine .step ?_ (State.setLife_keeps ..)
        refine .step ?_ (State.setFld_keeps ..)
        exact .refl ..
      · refine .foldl ?_ fun u a => ?_
        · exact h143
        · refine .step ?_ (State.drainTenant_keeps ..)
          exact .refl ..

theorem State.setPower_keeps (s p) : Keeps 21267647932558653966460912964485513216 s (State.setPower s p) := by
  unfold State.setPower
  refine .step ?_ (upd_power ..)
  exact .refl ..

theorem State.slewBy_keeps (s o) : Keeps 15177100720513508366558296147058741458143803451362487942338438417546102692651204608 s (State.slewBy s o) := by
  unfold State.slewBy
  refine .step ?_ (State.setFld_keeps ..)
  refine .step ?_ (State.setPower_keeps ..)
  exact .refl ..

theorem State.applyOffset_keeps (s o) : Keeps 15177100720513508366558296147058741458143803451362487942338438417546102692651204610 s (State.applyOffset s o) := by
  unfold State.applyOffset
  extract_lets l259
  refine .have_ (t := l259) ?_ fun h260 => ?_
  · unfold l259
    refine .step ?_ (State.setFld_keeps ..)
    exact .refl ..
  refine .ite (fun _ => ?_) fun _ => ?_
  · refine .step ?_ (State.setFld_keeps ..)
    refine .step ?_ (State.slewBy_keeps ..)
    refine .step ?_ (upd_dtime ..)
    exact h260
  · refine .step ?_ (State.slewBy_keeps ..)
    exact h260

theorem State.assignCores_keeps (s p) : Keeps 268435456 s (State.assignCores s p) := by
  unfold State.assignCores
  extract_lets l263
  refine .step ?_ (upd_cores ..)
  exact .refl ..

theorem State.avsRead_keeps (s rail answered) : Keeps 71614546043009276470375043733142200974465685714818072640654808457530840473611866357166240 s (State.avsRead s rail answered) := by
  unfold State.avsRead
  extract_lets l298 l299
  refine .have_ (t := l299) ?_ fun h300 => ?_
  · unfold l299
    refine .step ?_ (upd_avsMiss ..)
    exact .refl ..
  refine .ite (fun _ => ?_) fun _ => ?_
  · exact .refl ..
  · refine .ite (fun _ => ?_) fun _ => ?_
    · refine .step ?_ (upd_avsMiss ..)
      exact .refl ..
    · refine .ite (fun _ => ?_) fun _ => ?_
      · refine .step ?_ (State.logEv_keeps ..)
        exact h300
      · exact h300

theorem State.bgDone_keeps (s op ret vendor) : Keeps 134217728 s (State.bgDone s op ret vendor) := by
  unfold State.bgDone
  refine .step ?_ (upd_bg ..)
  exact .refl ..

theorem State.background_keeps {m : Nat} (s op run) (hr : ∀ t, Keeps m t (run t)) (hm : 134217736 ||| m = m := by decide) :
    Keeps m s (State.background s op run) := by
  have hrep (t a b c) : Keeps m t (State.reply t a b c) := .mono (.step (v := 134217736) (.refl ..) (State.reply_keeps ..)) hm
  have hbg (t a b c) : Keeps m t (State.bgDone t a b c) := .mono (.step (v := 134217736) (.refl ..) (State.bgDone_keeps ..)) hm
  unfold State.background
  split
  · exact hrep ..
  · exact ((hrep ..).trans (hr _)).trans (hbg ..)

theorem State.beginRebuild_keeps (s st) : Keeps 71614546043013347286012293130637560891907397399078537834325214118037292864326651071230184 s (State.beginRebuild s st) := by
  unfold State.beginRebuild
  extract_lets l336 l337 l338
  refine .have_ (t := l338) ?_ fun h339 => ?_
  · unfold l338
    refine .step ?_ (State.rasEvent_keeps ..)
    refine .step ?_ (State.setFld_keeps ..)
    unfold l337
    refine .step ?_ (State.setReg_keeps ..)
    exact .refl ..
  refine .step ?_ (upd_rebuildAt_rebuildWarned ..)
  exact h339

theorem State.bindLost_keeps (s h) : Keeps 73667947076913259520713493346585432519394538306884662081391059550925203135788344886227176 s (State.bindLost s h) := by
  unfold State.bindLost
  extract_lets l340
  refine .ite (fun _ => ?_) fun _ => ?_
  · exact .refl ..
  · refine .step ?_ (State.logEv_keeps ..)
    refine .foldl ?_ fun u a => ?_
    · exact .refl ..
    · refine .step ?_ (State.setFld_keeps ..)
      refine .step ?_ (State.drainTenant_keeps ..)
      exact .refl ..

theorem State.checkShort_keeps (s) : Keeps 1356938545749799165119972480570561420171458368749894350312239247316096123008 s (State.checkShort s) := by
  unfold State.checkShort
  refine .ite (fun _ => ?_) fun _ => ?_
  · exact .refl ..
  · refine .step ?_ (State.endReplace_keeps ..)
    exact .refl ..

theorem State.putDigest_keeps (s k d) : Keeps (regBit k) s (State.putDigest s k d) :=
  .foldl (.refl ..) fun _ _ => State.setReg_keeps ..

theorem State.showPattern_keeps (s p) : Keeps 2156029076811066104503941512687683387785216 s (State.showPattern s p) := by
  unfold State.showPattern
  extract_lets l351 l352 l353
  refine .step ?_ (State.putDigest_keeps ..)
  refine .step ?_ (State.putDigest_keeps ..)
  unfold l353
  refine .step ?_ (State.setReg_keeps ..)
  unfold l352
  refine .step ?_ (State.setFld_keeps ..)
  refine .step ?_ (State.setFld_keeps ..)
  unfold l351
  refine .step ?_ (State.setFld_keeps ..)
  refine .step ?_ (State.setFld_keeps ..)
  refine .step ?_ (State.setFld_keeps ..)
  exact .refl ..

theorem State.usePlan_keeps (s p n x) : Keeps 2787593149816327892691964784081045188247552 s (State.usePlan s p n x) := by
  unfold State.usePlan
  refine .step ?_ (State.setFld_keeps ..)
  refine .step ?_ (State.setFld_keeps ..)
  refine .step ?_ (State.setFld_keeps ..)
  exact .refl ..

theorem State.goShort_keeps (s p) : Keeps 71614546043010633408920793532307320946946256279025835919611890479000057706967302875967720 s (State.goShort s p) := by
  unfold State.goShort
  extract_lets l361 l362 l363
  refine .have_ (t := l361) ?_ fun h364 => ?_
  · unfold l361
    refine .step ?_ (State.usePlan_keeps ..)
    refine .step ?_ (State.setFld_keeps ..)
    exact .refl ..
  refine .step ?_ (State.requestReplace_keeps ..)
  refine .step ?_ (State.rasEvent_keeps ..)
  unfold l363
  refine .step ?_ (upd_inflight ..)
  exact h364

theorem State.startPanel_keeps (s c) : Keeps 71614546043010633408920793532307320946946256284601022219244546264383987275129393252462824 s (State.startPanel s c) := by
  unfold State.startPanel
  extract_lets l365
  refine .have_ (t := l365) ?_ fun h366 => ?_
  · unfold l365
    refine .step ?_ (State.setReg_keeps ..)
    refine .step ?_ (State.setFld_keeps ..)
    exact .refl ..
  split
  · refine .step ?_ (State.setFld_keeps ..)
    refine .step ?_ (State.usePlan_keeps ..)
    exact h366
  · refine .step ?_ (State.goShort_keeps ..)
    exact h366

theorem State.panelUnused_keeps (s n) : Keeps 8362779449448983678075894352243135564742656 s (State.panelUnused s n) := by
  unfold State.panelUnused
  refine .step ?_ (State.resetReg_keeps ..)
  refine .step ?_ (State.setReg_keeps ..)
  exact .refl ..

theorem State.syncClocks_keeps (s) : Keeps 60767688431743539358290052932559414041396087955186623999477171833160424555599101952 s (State.syncClocks s) := by
  unfold State.syncClocks
  extract_lets l367 l368 l369
  refine .have_ (t := l368) ?_ fun h370 => ?_
  · unfold l368
    refine .foldl ?_ fun u a => ?_
    · unfold l367
      refine .ite (fun _ => ?_) fun _ => ?_
      · refine .step ?_ (upd_lastSlow ..)
        exact .refl ..
      · exact .refl ..
    · refine .step ?_ (State.setFld_keeps ..)
      exact .refl ..
  refine .step ?_ (State.setFld_keeps ..)
  exact h370

theorem State.program_keeps (s p) : Keeps 71614606810699065152460151822561126891874834930843185177610365772611771799985306885746920 s (State.program s p) := by
  unfold State.program
  extract_lets l371 l372 l373 l374
  refine .have_ (t := l371) ?_ fun h375 => ?_
  · unfold l371
    refine .step ?_ (State.assignCores_keeps ..)
    exact .refl ..
  refine .step ?_ (State.syncClocks_keeps ..)
  refine .step ?_ (State.reclaim_keeps ..)
  refine .step ?_ (State.checkShort_keeps ..)
  refine .step ?_ (State.showPattern_keeps ..)
  unfold l374
  refine .foldl ?_ fun u a => ?_
  · unfold l373
    refine .foldl ?_ fun u a => ?_
    · unfold l372
      refine .step ?_ (upd_pattern ..)
      exact h375
    · refine .ite (fun _ => ?_) fun _ => ?_
      · refine .step ?_ (State.setFld_keeps ..)
        refine .step ?_ (State.setFld_keeps ..)
        exact .refl ..
      · refine .step ?_ (State.panelUnused_keeps ..)
        exact .refl ..
  · refine .step ?_ (State.startPanel_keeps ..)
    exact .refl ..

theorem State.bootPattern_keeps (s old a b) : Keeps 71614606810699065152460151822561126891874834930843185177610365772611771799985306885746920 s (State.bootPattern s old a b) := by
  unfold State.bootPattern
  extract_lets l376 l377
  split
  · refine .step ?_ (State.setFld_keeps ..)
    refine .step ?_ (State.program_keeps ..)
    exact .refl ..
  · refine .step ?_ (State.checkShort_keeps ..)
    refine .step ?_ (upd_cores ..)
    exact .refl ..

theorem State.breakOff_keeps (s c code detail) : Keeps 1234329291376419071718720451024863394780175847976060767545851904 s (State.breakOff s c code detail) := by
  unfold State.breakOff
  extract_lets l385
  split
  · refine .step ?_ (State.reclaim_keeps ..)
    refine .step ?_ (State.fail_keeps ..)
    refine .step ?_ (State.unstage_keeps ..)
    refine .step ?_ (State.endHolds_keeps ..)
    exact .refl ..
  · extract_lets l386
    refine .have_ (t := l386) ?_ fun h387 => ?_
    · unfold l386
      refine .step ?_ (State.unstage_keeps ..)
      exact .refl ..
    refine .ite (fun _ => ?_) fun _ => ?_
    · refine .step ?_ (State.unpinAll_keeps ..)
      exact h387
    · refine .step ?_ (State.reclaim_keeps ..)
      refine .step ?_ (State.fail_keeps ..)
      exact h387
  · split
    · refine .step ?_ (State.reclaim_keeps ..)
      refine .step ?_ (State.fail_keeps ..)
      refine .step ?_ (State.undoAppend_keeps ..)
      exact .refl ..
    · refine .step ?_ (State.reclaim_keeps ..)
      refine .step ?_ (State.fail_keeps ..)
      exact .refl ..
  · refine .step ?_ (State.reclaim_keeps ..)
    refine .step ?_ (State.fail_keeps ..)
    refine .step ?_ (State.leavePanel_keeps ..)
    unfold l385
    refine .ite (fun _ => ?_) fun _ => ?_
    · refine .step ?_ (State.waitEnds_keeps ..)
      exact .refl ..
    · exact .refl ..
  · refine .step ?_ (State.reclaim_keeps ..)
    refine .step ?_ (State.fail_keeps ..)
    refine .step ?_ (State.leavePanel_keeps ..)
    unfold l385
    refine .ite (fun _ => ?_) fun _ => ?_
    · refine .step ?_ (State.waitEnds_keeps ..)
      exact .refl ..
    · exact .refl ..
  · refine .step ?_ (State.reclaim_keeps ..)
    refine .step ?_ (State.fail_keeps ..)
    exact .refl ..

theorem State.calibrate_keeps (s) : Keeps 1852673427797059126777135760139006525652319754650249024631321344126610074238976 s (State.calibrate s) := by
  unfold State.calibrate
  extract_lets l388
  refine .step ?_ (State.setFld_keeps ..)
  refine .step ?_ (State.setFld_keeps ..)
  refine .step ?_ (State.setFld_keeps ..)
  exact .refl ..

theorem State.capPlmax_keeps (s) : Keeps 971334446112864535459730953411759453321203419526069760625906204869452142602604249088 s (State.capPlmax s) := by
  unfold State.capPlmax
  extract_lets l392
  refine .ite (fun _ => ?_) fun _ => ?_
  · refine .step ?_ (State.setFld_keeps ..)
    exact .refl ..
  · exact .refl ..

theorem State.capStep_keeps (s avg) : Keeps 59285549689505892056868344324448208820874253748762900293085217698916251931246592 s (State.capStep s avg) := by
  unfold State.capStep
  extract_lets l393 l394 l395
  refine .ite (fun _ => ?_) fun _ => ?_
  · exact .refl ..
  · refine .ite (fun _ => ?_) fun _ => ?_
    · exact .refl ..
    · refine .step ?_ (State.setFld_keeps ..)
      refine .step ?_ (upd_capDown_power ..)
      exact .refl ..

theorem State.captureLinks_keeps (s) : Keeps 4835703278458516698824704 s (State.captureLinks s) := by
  unfold State.captureLinks
  refine .step ?_ (upd_linkIn ..)
  exact .refl ..

theorem State.checkLinks_keeps (s) : Keeps 73667947076913259520713493346585432519394538306884662081391059550925203135788344886227176 s (State.checkLinks s) := by
  unfold State.checkLinks
  refine .foldl ?_ fun u a => ?_
  · exact .refl ..
  · refine .ite (fun _ => ?_) fun _ => ?_
    · exact .refl ..
    · refine .step ?_ (State.bindLost_keeps ..)
      exact .refl ..

theorem State.runPair_keeps (s slot f) : Keeps 694752535423897172541425910052127447119619913186140242771573132577975107059712 s (State.runPair s slot f) := by
  unfold State.runPair
  extract_lets l396 l397
  refine .have_ (t := l397) ?_ fun h398 => ?_
  · unfold l397
    refine .step ?_ (State.setFld_keeps ..)
    refine .step ?_ (State.setFld_keeps ..)
    refine .step ?_ (State.setFld_keeps ..)
    unfold l396
    refine .step ?_ (State.setFld_keeps ..)
    exact .refl ..
  refine .step ?_ (upd_fwRun ..)
  exact h398

theorem State.chooseSlot_keeps (s startsA startsB) : Keeps 694752535423897172541425910052127447119619913186140242771573132577975107059840 s (State.chooseSlot s startsA startsB) := by
  unfold State.chooseSlot
  extract_lets l399 l400 l401 l402
  split
  · refine .step ?_ (State.runPair_keeps ..)
    unfold l402
    refine .step ?_ (State.setFld_keeps ..)
    refine .step ?_ (State.setFld_keeps ..)
    exact .refl ..
  · refine .step ?_ (State.runPair_keeps ..)
    refine .ite (fun _ => ?_) fun _ => ?_
    · unfold l402
      refine .step ?_ (State.setFld_keeps ..)
      refine .step ?_ (State.setFld_keeps ..)
      exact .refl ..
    · unfold l402
      refine .step ?_ (State.setFld_keeps ..)
      refine .step ?_ (State.setFld_keeps ..)
      exact .refl ..
  · refine .step ?_ (State.mctpEvent_keeps ..)
    refine .step ?_ (State.setFld_keeps ..)
    unfold l402
    refine .step ?_ (State.setFld_keeps ..)
    refine .step ?_ (State.setFld_keeps ..)
    exact .refl ..

theorem State.cleanUnits_keeps (s) : Keeps 154742504910672534362390528 s (State.cleanUnits s) := by
  unfold State.cleanUnits
  extract_lets l403 l404
  refine .step ?_ (upd_units ..)
  exact .refl ..

theorem mapFind_filter_key {V : Type} (p : Nat × V → Bool) (a : Nat) (m : NMap V) (h : ∀ v, p (a, v) = true) :
    mapFind (m.filter p) a = mapFind m a := by
  induction m with
  | nil => rfl
  | cons e m ih =>
    obtain ⟨k, v⟩ := e
    by_cases hk : k = a
    · subst hk; simp [mapFind, h]
    · by_cases hp : p (k, v) = true
      · simp [hp, mapFind, hk, ih]
      · simp [hp, mapFind, hk, ih]

theorem clearKind_keeps (s : State) (k : RegKind) :
    Keeps (regBit k) s { s with regs := s.regs.filter fun e => e.1 % 256 != k.ctorIdx } := ⟨by
  intro p hp
  cases p with
  | reg j =>
    intro n
    unfold State.reg
    congr 1
    apply mapFind_filter_key
    intro v
    have hj := j.ctorIdx_lt
    have hne : j.ctorIdx ≠ k.ctorIdx := by
      intro e
      rw [RegKind.ctorIdx_inj e, regBit_idx] at hp
      exact Bool.noConfusion hp
    have hm : regKey j n % 256 = j.ctorIdx := by unfold regKey; omega
    simp [hm, hne]
  | _ => rfl, fun i => { i with }⟩

theorem State.clearQueues_keeps (s) : Keeps 254629497041810760783555711051172270131433549208241691047150635232623975992817277810507776 s (State.clearQueues s) := by
  unfold State.clearQueues
  extract_lets clear ks t
  have h0 : Keeps 254629497041810760783555711051172270131433549208241691047150635232623975992817277810507776 s t := .step (.refl ..) (upd_spools_comps_rctx_ringHeld_gws_qps_qpKeys_shOut_atsCache ..)
  have step (u : State) (k : RegKind) (hu : Keeps 254629497041810760783555711051172270131433549208241691047150635232623975992817277810507776 s u) (hk : regBit k ||| 254629497041810760783555711051172270131433549208241691047150635232623975992817277810507776 = 254629497041810760783555711051172270131433549208241691047150635232623975992817277810507776) : Keeps 254629497041810760783555711051172270131433549208241691047150635232623975992817277810507776 s (clear u k) :=
    .step hu (clearKind_keeps u k) hk
  clear_value t clear
  show Keeps _ _ (List.foldl clear t [_, _, _, _, _, _, _, _, _, _, _])
  simp only [List.foldl]
  repeat' first | exact h0 | decide | apply step

theorem State.clearRead_keeps (s k i lo hi) : Keeps (allRegs ||| 562949953421312) s (State.clearRead s k i lo hi) := by
  unfold State.clearRead
  extract_lets t
  have ht : Keeps (allRegs ||| 562949953421312) s t := .ite (fun _ => .step (.refl ..) (upd_outRem ..)) fun _ => .refl ..
  have h : ∀ f ∈ k.fields.filter (fun f => f.clearsOnRead && decide (lo ≤ f.lo) && decide (f.hi ≤ hi)), f.reg = k :=
    fun f hf => k.fields_reg f (List.mem_filter.1 hf).1
  clear_value t
  generalize k.fields.filter _ = l at h
  induction l generalizing t with
  | nil => exact ht
  | cons f l ih =>
    exact ih _ (.step ht (State.setFldAt t f 0 i (h f (List.mem_cons_self ..))) (regBit_sub _)) fun g hg => h g (List.mem_cons_of_mem _ hg)

theorem State.clearVolatile_keeps (s) : Keeps 254629497041810760783555711051172270131433549208241696234347657460869637310525604532522112 s (State.clearVolatile s) := by
  unfold State.clearVolatile
  extract_lets l408
  refine .have_ (t := l408) ?_ fun h409 => ?_
  · unfold l408
    refine .step ?_ (State.skipSerials_keeps ..)
    refine .step ?_ (State.clearQueues_keeps ..)
    exact .refl ..
  refine .step ?_ (upd_mctp_uaLogAt_denyLogAt_stewards_reconTimes_reconLog_staging_pattern_load_bg_rotor_viewCache_histPages_viewSlots_pbase_snoopFilter_lostHosts_unbackedLogAt_rlinks_hdm_evPolicy_victims_tdis_sessions_signed_ideKeys_nonce_fwRun_measured_fwWriter_tenantResets_capDown_ecoDown_avsMiss_lastSlow ..)
  exact h409

theorem State.markLost_keeps (s st cause) : Keeps 71614546043039581431230122581163213693198428253201560265961972727317957318888167250653416 s (State.markLost s st cause) := by
  unfold State.markLost
  extract_lets l449 l450 l451
  refine .have_ (t := l449) ?_ fun h452 => ?_
  · unfold l449
    refine .step ?_ (State.setFld_keeps ..)
    exact .refl ..
  refine .step ?_ (State.requestReplace_keeps ..)
  refine .step ?_ (State.rasEvent_keeps ..)
  unfold l451
  refine .step ?_ (State.setFld_keeps ..)
  unfold l450
  refine .ite (fun _ => ?_) fun _ => ?_
  · exact h452
  · refine .step ?_ (State.setFld_keeps ..)
    exact h452

theorem State.layoutNow_keeps (s) : Keeps 1231453023109120 s (State.layoutNow s) := by
  unfold State.layoutNow
  extract_lets l453
  refine .step ?_ (upd_cacheSf_metaSf_rowN ..)
  exact .refl ..

theorem State.coldStacks_keeps (s tested metaOk) : Keeps 71614546043039581431230122581163213693198428253201560265961972727317957320119620273762536 s (State.coldStacks s tested metaOk) := by
  unfold State.coldStacks
  extract_lets l454 l455 l456 l457
  refine .have_ (t := l456) ?_ fun h458 => ?_
  · unfold l456
    refine .foldl ?_ fun u a => ?_
    · unfold l455
      refine .step ?_ (State.layoutNow_keeps ..)
      unfold l454
      split
      · refine .step ?_ (State.markLost_keeps ..)
        refine .step ?_ (State.setFld_keeps ..)
        exact .refl ..
      · exact .refl ..
    · refine .ite (fun _ => ?_) fun _ => ?_
      · refine .step ?_ (State.setFld_keeps ..)
        exact .refl ..
      · exact .refl ..
  refine .ite (fun _ => ?_) fun _ => ?_
  · refine .step ?_ (State.setFld_keeps ..)
    exact h458
  · exact h458

theorem State.command_keeps (s c) : Keeps 1 s (State.command s c) := by
  unfold State.command
  refine .step ?_ (upd_pending ..)
  exact .refl ..

theorem State.tdiTo_keeps (s h st) : Keeps 73667947076913259520713493346585432519394538306884662081391138779087717400125938430177512 s (State.tdiTo s h st) := by
  unfold State.tdiTo
  extract_lets l459 l460 l461
  refine .have_ (t := l461) ?_ fun h462 => ?_
  · unfold l461
    refine .step ?_ (upd_tdis ..)
    exact .refl ..
  refine .ite (fun _ => ?_) fun _ => ?_
  · refine .step ?_ (State.bindLost_keeps ..)
    exact h462
  · exact h462

theorem State.tdiTouch_keeps (s h t) : Keeps 73667947076913259520713493346585432519394538306884662081391138779087717400125938430177512 s (State.tdiTouch s h t) := by
  unfold State.tdiTouch
  refine .ite (fun _ => ?_) fun _ => ?_
  · refine .step ?_ (State.tdiTo_keeps ..)
    exact .refl ..
  · exact .refl ..

theorem State.commitHdm_keeps (s h d) : Keeps 73667947076913259520713493346585432519394538306884662081391138788759123957042971827826920 s (State.commitHdm s h d) := by
  unfold State.commitHdm
  extract_lets l463 l464
  refine .have_ (t := l464) ?_ fun h465 => ?_
  · unfold l464
    refine .step ?_ (upd_hdm ..)
    exact .refl ..
  refine .ite (fun _ => ?_) fun _ => ?_
  · exact .refl ..
  · refine .foldl ?_ fun u a => ?_
    · exact h465
    · refine .step ?_ (State.tdiTouch_keeps ..)
      exact .refl ..

theorem State.commitHdms_keeps (s l ds) : Keeps 73667947076913259520713493346585432519394538306884662081391138788759123957042971827826920 s (State.commitHdms s l ds) := by
  unfold State.commitHdms
  refine .ite (fun _ => ?_) fun _ => ?_
  · refine .foldl ?_ fun u a => ?_
    · exact .refl ..
    · refine .step ?_ (State.commitHdm_keeps ..)
      exact .refl ..
  · exact .refl ..

theorem State.configureNow_keeps (s t v) : Keeps 18526734277970591267771357601395916949762546783524770896459541439527019203264516 s (State.configureNow s t v) := by
  unfold State.configureNow
  refine .ite (fun _ => ?_) fun _ => ?_
  · refine .step ?_ (State.actErr_keeps ..)
    exact .refl ..
  · split
    · refine .step ?_ (State.actErr_keeps ..)
      exact .refl ..
    · refine .ite (fun _ => ?_) fun _ => ?_
      · refine .step ?_ (State.actErr_keeps ..)
        exact .refl ..
      · extract_lets l466 l467 l468 l469 l470 l471 l472 l473 l474 l475
        refine .have_ (t := l472) ?_ fun h476 => ?_
        · unfold l472
          refine .step ?_ (State.setReg_keeps ..)
          refine .step ?_ (State.setReg_keeps ..)
          refine .step ?_ (State.setReg_keeps ..)
          unfold l471
          refine .step ?_ (State.setReg_keeps ..)
          unfold l470
          refine .step ?_ (State.setReg_keeps ..)
          unfold l469
          refine .step ?_ (State.setReg_keeps ..)
          unfold l468
          refine .step ?_ (State.setReg_keeps ..)
          exact .refl ..
        refine .step ?_ (State.actErr_keeps ..)
        refine .step ?_ (State.toState_keeps ..)
        unfold l475
        refine .step ?_ (State.setFld_keeps ..)
        refine .step ?_ (State.keyWrite_keeps ..)
        refine .step ?_ (State.newHashKey_keeps ..)
        unfold l474
        refine .step ?_ (State.resetReg_keeps ..)
        unfold l473
        refine .step ?_ (upd_comps ..)
        exact h476

theorem State.copyStep_keeps (s) : Keeps 3618502788666131106986593281521497120414687020801267626233049500247285301252 s (State.copyStep s) := by
  unfold State.copyStep
  extract_lets l481
  refine .ite (fun _ => ?_) fun _ => ?_
  · exact .refl ..
  · refine .ite (fun _ => ?_) fun _ => ?_
    · refine .step ?_ (State.setFld_keeps ..)
      refine .step ?_ (State.drawn_keeps ..)
      exact .refl ..
    · refine .step ?_ (State.drawn_keeps ..)
      exact .refl ..

theorem State.countEvent_keeps (s code stack) : Keeps 64 s (State.countEvent s code stack) := by
  unfold State.countEvent
  refine .step ?_ (upd_events (hx := fun i => eventLog_map i _ _ fun l => by rw [List.map_reverse, countEvent_logs, List.map_reverse, List.reverse_reverse]) ..)
  exact .refl ..

theorem State.cryptoErase_keeps (s) : Keeps 485715508357644228583357105806628349523907814862663197206520299121423100870593085444 s (State.cryptoErase s) := by
  unfold State.cryptoErase
  extract_lets l492 l493 l494 l495 l496
  refine .have_ (t := l493) ?_ fun h497 => ?_
  · unfold l493
    refine .step ?_ (State.drawn_keeps ..)
    unfold l492
    refine .step ?_ (upd_bootA_bootB_geom_chunks_seqs_pins_nsKeys_frames_images_gens_plainMem_poisonLines_orphanLines_extents_released_snoopFilter_qps_qpKeys_orphanPend_eraseLists_saved_ideKeys_dataKeys_sealReq_memKey_ownerCerts (h10 := fun _ => Memory.wf_nil) ..)
    exact .refl ..
  refine .have_ (t := l495) ?_ fun h498 => ?_
  · unfold l495
    refine .foldl ?_ fun u a => ?_
    · unfold l494
      refine .step ?_ (State.setFld_keeps ..)
      refine .step ?_ (State.setFld_keeps ..)
      exact h497
    · refine .ite (fun _ => ?_) fun _ => ?_
      · refine .step ?_ (State.setFld_keeps ..)
        exact .refl ..
      · exact .refl ..
  refine .have_ (t := l496) ?_ fun h499 => ?_
  · unfold l496
    refine .foldl ?_ fun u a => ?_
    · exact h498
    · refine .step ?_ (State.keyWrite_keeps ..)
      refine .step ?_ (State.resetReg_keeps ..)
      refine .step ?_ (State.resetReg_keeps ..)
      exact .refl ..
  refine .foldl ?_ fun u a => ?_
  · exact h499
  · refine .step ?_ (State.keyWrite_keeps ..)
    refine .step ?_ (State.setReg_keeps ..)
    refine .step ?_ (State.setFld_keeps ..)
    exact .refl ..

theorem State.ctxAction_keeps (s c v) : Keeps 157968437502835780049731536910917568240459219762089140109776519168 s (State.ctxAction s c v) := by
  unfold State.ctxAction
  split
  · refine .step ?_ (opRingCtxOpen_keeps ..)
    exact .refl ..
  · refine .step ?_ (opRingCtxAbort_keeps ..)
    exact .refl ..
  · refine .step ?_ (opRingCtxClose_keeps ..)
    exact .refl ..
  · refine .step ?_ (State.ctxFields_keeps ..)
    exact .refl ..

theorem State.destroyHolder_keeps (s hd) : Keeps 200873385514537247998178694930793540633266983914120408989696 s (State.destroyHolder s hd) := by
  unfold State.destroyHolder
  extract_lets l512 l513 l514
  refine .step ?_ (State.reclaim_keeps ..)
  unfold l514
  refine .step ?_ (upd_chunks_seqs_pins_saved ..)
  exact .refl ..

theorem State.drainHost_keeps (s h) : Keeps 73667947062091872098337020332368346438282486101666104044189067353874632382775464292315368 s (State.drainHost s h) := by
  unfold State.drainHost
  refine .foldl ?_ fun u a => ?_
  · exact .refl ..
  · refine .step ?_ (State.setFld_keeps ..)
    refine .step ?_ (State.drainTenant_keeps ..)
    exact .refl ..

theorem State.loseHost_keeps (s h) : Keeps 73671832414697710999560571310770770919513552209031173620705093781031290220233166724069608 s (State.loseHost s h) := by
  unfold State.loseHost
  refine .ite (fun _ => ?_) fun _ => ?_
  · exact .refl ..
  · extract_lets l633 l634 l635 l636 l637 l638 l639 l640 l641
    refine .have_ (t := l633) ?_ fun h642 => ?_
    · unfold l633
      refine .step ?_ (upd_lostHosts ..)
      exact .refl ..
    refine .have_ (t := l635) ?_ fun h643 => ?_
    · unfold l635
      refine .step ?_ (State.orphanOf_keeps ..)
      exact h642
    refine .have_ (t := l637) ?_ fun h644 => ?_
    · unfold l637
      refine .step ?_ (State.dropReads_keeps ..)
      unfold l636
      refine .foldl ?_ fun u a => ?_
      · exact h643
      · refine .step ?_ (State.answerSnoop_keeps ..)
        exact .refl ..
    refine .have_ (t := l639) ?_ fun h645 => ?_
    · unfold l639
      refine .step ?_ (State.drainHost_keeps ..)
      exact h644
    refine .step ?_ (State.pumpWaits_keeps ..)
    unfold l641
    refine .step ?_ (State.cxlNote_keeps ..)
    refine .step ?_ (State.setFld_keeps ..)
    unfold l640
    refine .ite (fun _ => ?_) fun _ => ?_
    · exact h645
    · refine .step ?_ (State.logEv_keeps ..)
      refine .foldl ?_ fun u a => ?_
      · exact h645
      · refine .step ?_ (State.setFld_keeps ..)
        exact .refl ..

theorem State.dropLinks_keeps (s) : Keeps 73672318081920767431828301176247476799240212810740936655586040569105245617922249775446248 s (State.dropLinks s) := by
  unfold State.dropLinks
  refine .foldl ?_ fun u a => ?_
  · exact .refl ..
  · refine .ite (fun _ => ?_) fun _ => ?_
    · refine .foldl ?_ fun u a => ?_
      · refine .step ?_ (State.linkLost_keeps ..)
        exact .refl ..
      · refine .step ?_ (State.loseHost_keeps ..)
        exact .refl ..
    · exact .refl ..

theorem State.eraseEnds_keeps (s target) : Keeps 64033025348235856069234754709804413042858301520788833840344200750790167368827008 s (State.eraseEnds s target) := by
  unfold State.eraseEnds
  extract_lets l708 l709 l710
  refine .have_ (t := l708) ?_ fun h711 => ?_
  · unfold l708
    refine .step ?_ (State.keyWrite_keeps ..)
    refine .step ?_ (State.setFld_keeps ..)
    refine .step ?_ (upd_lcTarget ..)
    exact .refl ..
  refine .have_ (t := l710) ?_ fun h712 => ?_
  · unfold l710
    refine .step ?_ (State.setLife_keeps ..)
    unfold l709
    refine .ite (fun _ => ?_) fun _ => ?_
    · refine .step ?_ (State.setFld_keeps ..)
      exact h711
    · exact h711
  refine .ite (fun _ => ?_) fun _ => ?_
  · refine .step ?_ (State.bgDone_keeps ..)
    exact h712
  · exact h712

theorem State.internalAll_keeps (s) : Keeps 1234329291376419071718720451024863394780175847976060767545851904 s (State.internalAll s) := by
  unfold State.internalAll
  extract_lets l725
  refine .have_ (t := l725) ?_ fun h726 => ?_
  · unfold l725
    refine .step ?_ (upd_inflight ..)
    exact .refl ..
  refine .foldl ?_ fun u a => ?_
  · exact h726
  · refine .step ?_ (State.breakOff_keeps ..)
    exact .refl ..

theorem State.poisonViews_keeps (s) : Keeps 36028797018963976 s (State.poisonViews s) := by
  unfold State.poisonViews
  extract_lets l727
  refine .foldl ?_ fun u a => ?_
  · unfold l727
    refine .step ?_ (upd_viewWaits ..)
    exact .refl ..
  · refine .step ?_ (State.respondData_keeps ..)
    exact .refl ..

theorem State.failPart_keeps (s) : Keeps 71614546043010633408920794766636624583329654922069560661435174568957409884888731001876712 s (State.failPart s) := by
  unfold State.failPart
  refine .ite (fun _ => ?_) fun _ => ?_
  · exact .refl ..
  · refine .step ?_ (State.poisonViews_keeps ..)
    refine .step ?_ (State.internalAll_keeps ..)
    refine .step ?_ (State.rasEvent_keeps ..)
    refine .step ?_ (State.requestReplace_keeps ..)
    refine .step ?_ (State.setPart_keeps ..)
    exact .refl ..

theorem State.fillGeo_keeps (s cold) : Keeps 71614546043009276470375043733142200974465685714818071311426812691957780683638872872121320 s (State.fillGeo s cold) := by
  unfold State.fillGeo
  refine .step ?_ (State.geoBump_keeps ..)
  refine .step ?_ (upd_geoGen_geoUpd ..)
  exact .refl ..

theorem State.stopped_keeps (s g) : Keeps 59285549689505892056868344324448208843174998614986524488391967745612848367140864 s (State.stopped s g) := by
  unfold State.stopped
  extract_lets l746 l747 l748
  refine .have_ (t := l746) ?_ fun h749 => ?_
  · unfold l746
    refine .step ?_ (State.setFld_keeps ..)
    exact .refl ..
  refine .have_ (t := l747) ?_ fun h750 => ?_
  · unfold l747
    refine .foldl ?_ fun u a => ?_
    · exact h749
    · refine .step ?_ (State.toState_keeps ..)
      exact .refl ..
  refine .step ?_ (State.setPower_keeps ..)
  exact h750

theorem State.saveJournal_keeps (s) : Keeps 3705346855594118253554271520278013051304639509371526251699185577595958848389124 s (State.saveJournal s) := by
  unfold State.saveJournal
  refine .ite (fun _ => ?_) fun _ => ?_
  · refine .step ?_ (State.flushJournal_keeps ..)
    exact .refl ..
  · exact .refl ..

theorem State.interrupt_keeps (s) : Keeps 200873385514537247998178778007503664047342667384914429607936 s (State.interrupt s) := by
  unfold State.interrupt
  extract_lets l757 l758 l759 l760
  refine .have_ (t := l758) ?_ fun h761 => ?_
  · unfold l758
    refine .foldl ?_ fun u a => ?_
    · exact .refl ..
    · refine .step ?_ (State.endHolds_keeps ..)
      exact .refl ..
  refine .step ?_ (State.reclaim_keeps ..)
  unfold l760
  refine .step ?_ (upd_buckets_wheels_devLevels_inflight_chunks_viewWaits_snoops_lineQ_curLog_ringOut_ringHeld_camReqs_shOut_pfcUntil_heldActs ..)
  exact h761

theorem State.flush_keeps (s us saved whole) : Keeps 73672318144911663976928311486870966029480971930918008359420971831393284952435518546704620 s (State.flush s us saved whole) := by
  unfold State.flush
  extract_lets l762 l763 l764 l765
  refine .have_ (t := l762) ?_ fun h766 => ?_
  · unfold l762
    refine .step ?_ (State.interrupt_keeps ..)
    refine .step ?_ (State.dropLinks_keeps ..)
    exact .refl ..
  refine .have_ (t := l764) ?_ fun h767 => ?_
  · unfold l764
    refine .step ?_ (State.snapshot_keeps ..)
    refine .step ?_ (State.stopped_keeps ..)
    unfold l763
    refine .ite (fun _ => ?_) fun _ => ?_
    · refine .step ?_ (State.saveJournal_keeps ..)
      exact h766
    · exact h766
  refine .step ?_ (State.setPower_keeps ..)
  exact h767

theorem State.freshSpools_keeps (s t keep) : Keeps 81844091690530563419406350632111921158352030138368 s (State.freshSpools s t keep) := by
  unfold State.freshSpools
  extract_lets l768 l769
  refine .have_ (t := l769) ?_ fun h770 => ?_
  · unfold l769
    refine .foldl ?_ fun u a => ?_
    · unfold l768
      refine .foldl ?_ fun u a => ?_
      · exact .refl ..
      · refine .step ?_ (State.resetReg_keeps ..)
        refine .step ?_ (State.resetReg_keeps ..)
        exact .refl ..
    · refine .step ?_ (State.resetReg_keeps ..)
      exact .refl ..
  refine .step ?_ (upd_spools_comps_pbase ..)
  exact h770

theorem State.writeSgCfg_keeps (s g v) : Keeps 5708990770823839524233143877797980545530986496 s (State.writeSgCfg s g v) := by
  unfold State.writeSgCfg
  extract_lets l811
  refine .step ?_ (State.setReg_keeps ..)
  exact .refl ..

theorem opGroupDelete_keeps (g v s) : Keeps 33348121700347064281988443682502123170732526407585839146315193562511117096321024 s (opGroupDelete g v s) := by
  unfold opGroupDelete
  extract_lets l812
  refine .have_ (t := l812) ?_ fun h813 => ?_
  · unfold l812
    refine .step ?_ (State.writeSgCfg_keeps ..)
    exact .refl ..
  refine .ite (fun _ => ?_) fun _ => ?_
  · refine .step ?_ (State.setFld_keeps ..)
    exact h813
  · refine .ite (fun _ => ?_) fun _ => ?_
    · refine .step ?_ (State.setFld_keeps ..)
      exact h813
    · refine .step ?_ (State.setFld_keeps ..)
      refine .step ?_ (State.setFld_keeps ..)
      refine .step ?_ (State.setReg_keeps ..)
      refine .step ?_ (State.dropKeys_keeps ..)
      exact h813

theorem opGroupCreate_keeps (g v s) : Keeps 33348121700347064281988443682502123170732526407585839146315193562511117096321028 s (opGroupCreate g v s) := by
  unfold opGroupCreate
  extract_lets l814 l815 l816
  refine .have_ (t := l814) ?_ fun h817 => ?_
  · unfold l814
    refine .step ?_ (State.writeSgCfg_keeps ..)
    exact .refl ..
  refine .ite (fun _ => ?_) fun _ => ?_
  · refine .step ?_ (State.setFld_keeps ..)
    exact h817
  · refine .ite (fun _ => ?_) fun _ => ?_
    · refine .step ?_ (State.setFld_keeps ..)
      exact h817
    · refine .step ?_ (State.setFld_keeps ..)
      refine .step ?_ (State.setFld_keeps ..)
      unfold l816
      refine .step ?_ (State.setReg_keeps ..)
      unfold l815
      refine .step ?_ (State.keyWrite_keeps ..)
      refine .step ?_ (State.newDataKey_keeps ..)
      refine .step ?_ (State.newHashKey_keeps ..)
      exact h817

theorem State.groupAction_keeps (s g v) : Keeps 33348121700347064281988443682502123170732526407585839146315193562511117096321028 s (State.groupAction s g v) := by
  unfold State.groupAction
  split
  · refine .step ?_ (opGroupCreate_keeps ..)
    exact .refl ..
  · refine .step ?_ (opGroupDelete_keeps ..)
    exact .refl ..
  · refine .step ?_ (State.writeSgCfg_keeps ..)
    exact .refl ..

theorem State.loseStack_keeps (s st cause) : Keeps 71614546043043199934018789946599503922863348396153292844622385977593507330390956572733672 s (State.loseStack s st cause) := by
  unfold State.loseStack
  refine .ite (fun _ => ?_) fun _ => ?_
  · exact .refl ..
  · extract_lets l818 l819 l820 l821
    refine .have_ (t := l820) ?_ fun h822 => ?_
    · unfold l820
      refine .step ?_ (State.markLost_keeps ..)
      exact .refl ..
    refine .have_ (t := l821) ?_ fun h823 => ?_
    · unfold l821
      refine .ite (fun _ => ?_) fun _ => ?_
      · refine .step ?_ (State.setFld_keeps ..)
        refine .step ?_ (State.setFld_keeps ..)
        exact h822
      · exact h822
    refine .ite (fun _ => ?_) fun _ => ?_
    · exact h823
    · refine .ite (fun _ => ?_) fun _ => ?_
      · refine .step ?_ (State.failPart_keeps ..)
        exact h823
      · refine .step ?_ (State.beginRebuild_keeps ..)
        refine .step ?_ (State.recovSync_keeps ..)
        refine .step ?_ (State.setPart_keeps ..)
        exact h823

theorem State.hardGranule_keeps (s st) : Keeps 71614546043043199934018789946599503922863348396153292844622385977593507330390956572733672 s (State.hardGranule s st) := by
  unfold State.hardGranule
  extract_lets l824
  refine .have_ (t := l824) ?_ fun h825 => ?_
  · unfold l824
    refine .step ?_ (State.addFld_keeps ..)
    exact .refl ..
  refine .ite (fun _ => ?_) fun _ => ?_
  · refine .step ?_ (State.loseStack_keeps ..)
    exact h825
  · exact h825

theorem State.installTables_keeps (s c) : Keeps 2251799813685248 s (State.installTables s c) := by
  unfold State.installTables
  refine .foldl ?_ fun u a => ?_
  · exact .refl ..
  · extract_lets l826
    refine .step ?_ (State.setGens_keeps ..)
    exact .refl ..

theorem State.spdm_keeps (s fn bs) : Keeps 8 s (State.spdm s fn bs) := by
  unfold State.spdm
  refine .step ?_ (State.emit_keeps ..)
  exact .refl ..

theorem State.keyAnswer_keeps (s fn op result more) : Keeps 8 s (State.keyAnswer s fn op result more) := by
  unfold State.keyAnswer
  refine .step ?_ (State.spdm_keeps ..)
  exact .refl ..

theorem State.updCore_keeps (s i f) : Keeps 268435456 s (State.updCore s i f) := by
  unfold State.updCore
  refine .step ?_ (upd_cores ..)
  exact .refl ..

theorem State.replaceCores_keeps (s p a2) : Keeps 268435456 s (State.replaceCores s p a2) := by
  induction a2 generalizing s p
  · rw [State.replaceCores]
    exact .refl ..
  · rename_i e_ l_ ih
    rw [State.replaceCores]
    split
    · refine .step ?_ (ih ..)
      refine .step ?_ (State.updCore_keeps ..)
      refine .step ?_ (State.updCore_keeps ..)
      exact .refl ..
    · refine .step ?_ (ih ..)
      exact .refl ..

theorem State.refitPanel_keeps (s p) : Keeps 71614546043010633408920793532307320946946256279025835919611890479000057706967303144403176 s (State.refitPanel s p).1 := by
  unfold State.refitPanel
  extract_lets l827 l828 l829 l830 l831 l832
  refine .have_ (t := l827) ?_ fun h833 => ?_
  · unfold l827
    refine .step ?_ (State.replaceCores_keeps ..)
    exact .refl ..
  refine .have_ (t := l829) ?_ fun h834 => ?_
  · unfold l829
    refine .foldl ?_ fun u a => ?_
    · exact h833
    · refine .step ?_ (State.updCore_keeps ..)
      exact .refl ..
  refine .have_ (t := l832) ?_ fun h835 => ?_
  · unfold l832
    refine .step ?_ (State.addFld_keeps ..)
    exact h834
  split
  · dsimp only
    exact h834
  · split
    · dsimp only
      exact h834
    · split
      · dsimp only
        exact h835
      · split
        · dsimp only
          refine .step ?_ (State.usePlan_keeps ..)
          exact h835
        · dsimp only
          refine .step ?_ (State.goShort_keeps ..)
          exact h835

theorem State.resume_keeps (s) : Keeps 71614546043010633408920793532307320946946256279025835919611890479000057706967303144403432 s (State.resume s) := by
  unfold State.resume
  refine .foldl ?_ fun u a => ?_
  · exact .refl ..
  · split
    · rename_i v836 v837
      refine .have_ (t := v836) (.fst_eq ?_ v837) fun h838 => ?_
      · refine .step ?_ (State.refitPanel_keeps ..)
        refine .step ?_ (State.setFld_keeps ..)
        exact .refl ..
      refine .step ?_ (State.geoBump_keeps ..)
      exact h838
    · rename_i v839 v840
      refine .have_ (t := v839) (.fst_eq ?_ v840) fun h841 => ?_
      · refine .step ?_ (State.refitPanel_keeps ..)
        refine .step ?_ (State.setFld_keeps ..)
        exact .refl ..
      exact h841

theorem State.quiesce_keeps (s swap panel) : Keeps 105312291668557186700775310662232168408904364026598665527809277952 s (State.quiesce s swap panel) := by
  unfold State.quiesce
  extract_lets l842 l843
  refine .have_ (t := l842) ?_ fun h844 => ?_
  · unfold l842
    refine .step ?_ (upd_inflight ..)
    exact .refl ..
  refine .foldl ?_ fun u a => ?_
  · unfold l843
    refine .foldl ?_ fun u a => ?_
    · exact h844
    · refine .step ?_ (State.abortCtx_keeps ..)
      exact .refl ..
  · refine .step ?_ (State.setFld_keeps ..)
    exact .refl ..

theorem State.loadFails_keeps (s swap e) : Keeps 71614546043009276470375043733142200974465685715362523098500314214156366941695635349368992 s (State.loadFails s swap e) := by
  unfold State.loadFails
  extract_lets l845 l846 l847
  refine .have_ (t := l846) ?_ fun h848 => ?_
  · unfold l846
    refine .step ?_ (State.setFldAt (k := .PAT_EVT) (h := by (repeat' split) <;> rfl) ..)
    unfold l845
    refine .step ?_ (State.setReg_keeps ..)
    refine .step ?_ (State.setFld_keeps ..)
    exact .refl ..
  refine .step ?_ (State.bgDone_keeps ..)
  unfold l847
  refine .step ?_ (State.logEv_keeps ..)
  exact h848

theorem State.sealTenant_keeps (s x t ngrp rw key gs) : Keeps 18526734277970696580063026158576766051347011827429562170528981557551329481588736 s (State.sealTenant s x t ngrp rw key gs) := by
  unfold State.sealTenant
  extract_lets l849 l850 l851 l852 l853 l854
  refine .have_ (t := l852) ?_ fun h855 => ?_
  · unfold l852
    refine .step ?_ (State.setFld_keeps ..)
    unfold l851
    refine .step ?_ (State.setFld_keeps ..)
    refine .step ?_ (State.setFld_keeps ..)
    refine .step ?_ (State.setFld_keeps ..)
    unfold l850
    refine .step ?_ (State.setFld_keeps ..)
    refine .step ?_ (State.setFld_keeps ..)
    unfold l849
    refine .step ?_ (State.putDataKey_keeps ..)
    exact .refl ..
  refine .have_ (t := l854) ?_ fun h856 => ?_
  · unfold l854
    refine .step ?_ (State.keyWrite_keeps ..)
    unfold l853
    refine .step ?_ (upd_sealReq ..)
    exact h855
  refine .foldl ?_ fun u a => ?_
  · exact h856
  · refine .step ?_ (State.abortCtx_keeps ..)
    exact .refl ..

theorem State.runRequest_keeps (s n r) : Keeps 48169509122723642608497198320800870461784127901833546564781238791031118339506184 s (State.runRequest s n r) := by
  unfold State.runRequest
  split
  · split
    · refine .step ?_ (State.keyAnswer_keeps ..)
      exact .refl ..
    · refine .step ?_ (State.keyAnswer_keeps ..)
      exact .refl ..
  · exact .refl ..
  · refine .ite (fun _ => ?_) fun _ => ?_
    · refine .step ?_ (State.keyAnswer_keeps ..)
      exact .refl ..
    · refine .ite (fun _ => ?_) fun _ => ?_
      · refine .step ?_ (State.keyAnswer_keeps ..)
        exact .refl ..
      · refine .ite (fun _ => ?_) fun _ => ?_
        · refine .step ?_ (State.keyAnswer_keeps ..)
          exact .refl ..
        · refine .step ?_ (State.keyAnswer_keeps ..)
          refine .step ?_ (State.keyWrite_keeps ..)
          refine .step ?_ (State.setFld_keeps ..)
          refine .step ?_ (State.putDataKey_keeps ..)
          exact .refl ..
  · extract_lets l857
    refine .ite (fun _ => ?_) fun _ => ?_
    · refine .step ?_ (State.keyAnswer_keeps ..)
      exact .refl ..
    · refine .step ?_ (State.keyAnswer_keeps ..)
      refine .step ?_ (State.sealTenant_keeps ..)
      exact .refl ..
  · extract_lets l858
    refine .ite (fun _ => ?_) fun _ => ?_
    · refine .step ?_ (State.keyAnswer_keeps ..)
      exact .refl ..
    · refine .ite (fun _ => ?_) fun _ => ?_
      · refine .step ?_ (State.keyAnswer_keeps ..)
        exact .refl ..
      · refine .ite (fun _ => ?_) fun _ => ?_
        · refine .step ?_ (State.keyAnswer_keeps ..)
          exact .refl ..
        · refine .step ?_ (State.keyAnswer_keeps ..)
          refine .step ?_ (upd_qpKeys ..)
          exact .refl ..
  · extract_lets l859 l860
    refine .ite (fun _ => ?_) fun _ => ?_
    · refine .step ?_ (State.keyAnswer_keeps ..)
      exact .refl ..
    · refine .step ?_ (State.keyAnswer_keeps ..)
      refine .step ?_ (State.keyWrite_keeps ..)
      refine .step ?_ (State.setFld_keeps ..)
      unfold l860
      refine .step ?_ (upd_nsKeys ..)
      exact .refl ..
  · refine .ite (fun _ => ?_) fun _ => ?_
    · refine .step ?_ (State.keyAnswer_keeps ..)
      exact .refl ..
    · refine .ite (fun _ => ?_) fun _ => ?_
      · refine .step ?_ (State.keyAnswer_keeps ..)
        exact .refl ..
      · refine .step ?_ (State.keyAnswer_keeps ..)
        exact .refl ..

theorem State.releaseHeld_keeps (s) : Keeps 48169509122723642608497198320806719278227346611441626874169848333291233090732044 s (State.releaseHeld s) := by
  unfold State.releaseHeld
  extract_lets l861
  refine .foldl ?_ fun u a => ?_
  · refine .step ?_ (upd_heldActs ..)
    exact .refl ..
  · split
    · refine .step ?_ (State.configureNow_keeps ..)
      exact .refl ..
    · refine .ite (fun _ => ?_) fun _ => ?_
      · refine .step ?_ (State.keyAnswer_keeps ..)
        exact .refl ..
      · refine .step ?_ (State.runRequest_keeps ..)
        exact .refl ..

theorem State.loadEnds_keeps (s l e) : Keeps 71614546091178785593098686341639399295272404993589869709941941088326215274986868507210156 s (State.loadEnds s l e) := by
  unfold State.loadEnds
  extract_lets l862 l863
  refine .have_ (t := l862) ?_ fun h864 => ?_
  · unfold l862
    refine .step ?_ (upd_load ..)
    exact .refl ..
  refine .step ?_ (State.releaseHeld_keeps ..)
  refine .step ?_ (State.loadFails_keeps ..)
  unfold l863
  refine .ite (fun _ => ?_) fun _ => ?_
  · exact h864
  · refine .step ?_ (State.patState_keeps ..)
    exact h864

theorem State.loadAdvance_keeps (s) : Keeps 71614546091180142531644436140804519267752975557797634318127018894711305412149296855314924 s (State.loadAdvance s) := by
  unfold State.loadAdvance
  split
  · exact .refl ..
  · split
    · split
      · refine .step ?_ (State.loadEnds_keeps ..)
        exact .refl ..
      · refine .step ?_ (State.quiesce_keeps ..)
        refine .step ?_ (State.enterPhase_keeps ..)
        exact .refl ..
    · refine .ite (fun _ => ?_) fun _ => ?_
      · exact .refl ..
      · split
        · refine .step ?_ (State.loadEnds_keeps ..)
          refine .step ?_ (State.resume_keeps ..)
          exact .refl ..
        · refine .step ?_ (State.enterPhase_keeps ..)
          exact .refl ..
    · exact .refl ..
    · refine .step ?_ (State.loadEnds_keeps ..)
      refine .step ?_ (State.resume_keeps ..)
      exact .refl ..

theorem State.stage_keeps (s off bs) : Keeps 4194304 s (State.stage s off bs) := by
  unfold State.stage
  refine .ite (fun _ => ?_) fun _ => ?_
  · exact .refl ..
  · extract_lets l865
    refine .step ?_ (upd_staging ..)
    exact .refl ..

theorem State.stageRow_keeps (s swap fn off len bs) : Keeps 71614546043009276470375043733142200974465685714905183597358572919261591469307338743148712 s (State.stageRow s swap fn off len bs) := by
  unfold State.stageRow
  refine .trans ?_ (State.operator_keeps (hr := fun t => ?_) ..)
  · exact .refl ..
  · refine .ite (fun _ => ?_) fun _ => ?_
    · refine .step ?_ (State.reply_keeps ..)
      exact .refl ..
    · refine .step ?_ (State.reply_keeps ..)
      refine .step ?_ (State.showStaged_keeps ..)
      refine .step ?_ (State.stage_keeps ..)
      exact .refl ..

theorem State.queryRow_keeps (s swap fn) : Keeps 71614546043009276470375043733142200974465685714818071311426812672614967569804806076821672 s (State.queryRow s swap fn) := by
  unfold State.queryRow
  refine .trans ?_ (State.operator_keeps (hr := fun t => ?_) ..)
  · exact .refl ..
  · refine .step ?_ (State.reply_keeps ..)
    exact .refl ..

theorem State.loadCommand_keeps (s swap fn w0 w1 data) : Keeps 71614546043009276470375043733142200974465685714926961668841512980923247444182972110008744 s (State.loadCommand s swap fn w0 w1 data) := by
  unfold State.loadCommand
  split
  · refine .step ?_ (State.stageRow_keeps ..)
    exact .refl ..
  · refine .step ?_ (State.activateRow_keeps ..)
    exact .refl ..
  · refine .step ?_ (State.abortRow_keeps ..)
    exact .refl ..
  · refine .step ?_ (State.queryRow_keeps ..)
    exact .refl ..
  · refine .trans ?_ (State.operator_keeps (hr := fun t => ?_) ..)
    · exact .refl ..
    · refine .step ?_ (State.reply_keeps ..)
      exact .refl ..

theorem State.measurePattern_keeps (s) : Keeps 10384593717069655257060992658440192 s (State.measurePattern s) := by
  unfold State.measurePattern
  refine .step ?_ (upd_measured ..)
  exact .refl ..

theorem State.loadDone_keeps (s swap panel) : Keeps 71614546091178785593098686341639399295272404993502757434394774578092059746379395231707628 s (State.loadDone s swap panel) := by
  unfold State.loadDone
  extract_lets l866 l867 l868
  refine .have_ (t := l867) ?_ fun h869 => ?_
  · unfold l867
    refine .step ?_ (State.setFld_keeps ..)
    refine .step ?_ (State.setFldAt (k := .PAT_EVT) (h := by (repeat' split) <;> rfl) ..)
    unfold l866
    refine .step ?_ (State.setFld_keeps ..)
    refine .step ?_ (State.setFld_keeps ..)
    exact .refl ..
  refine .step ?_ (State.releaseHeld_keeps ..)
  refine .step ?_ (State.measurePattern_keeps ..)
  refine .step ?_ (State.bgDone_keeps ..)
  refine .step ?_ (State.geoBump_keeps ..)
  unfold l868
  refine .step ?_ (State.logEv_keeps ..)
  exact h869

theorem State.lockWithin_keeps (s o bound) : Keeps 15177100720513508366558296147058741458143803430094840009779784451085189728165691392 s (State.lockWithin s o bound) := by
  unfold State.lockWithin
  refine .ite (fun _ => ?_) fun _ => ?_
  · refine .step ?_ (State.setFld_keeps ..)
    refine .step ?_ (State.setFld_keeps ..)
    exact .refl ..
  · refine .step ?_ (State.setFld_keeps ..)
    exact .refl ..

theorem State.loseFrame_keeps (s f) : Keeps 71614546043023750481529708257570147347591771703299730059510017762462712881644534937743592 s (State.loseFrame s f) := by
  unfold State.loseFrame
  extract_lets l870 l871
  refine .foldl ?_ fun u a => ?_
  · unfold l871
    refine .step ?_ (upd_frames ..)
    exact .refl ..
  · refine .step ?_ (State.rasEvent_keeps ..)
    refine .step ?_ (State.addFld_keeps ..)
    refine .step ?_ (State.poisonPage_keeps ..)
    exact .refl ..

theorem State.loseLine_keeps (s l) : Keeps 14474011154664524427946373126085988481658748083205070504932774461741444628480 s (State.loseLine s l) := by
  unfold State.loseLine
  refine .step ?_ (State.addFld_keeps ..)
  refine .step ?_ (State.poisonLine_keeps ..)
  exact .refl ..

theorem State.loseTokens_keeps (s h) : Keeps 274877906944 s (State.loseTokens s h) := by
  unfold State.loseTokens
  refine .step ?_ (State.updChunk_keeps ..)
  exact .refl ..

theorem State.measureFirmware_keeps (s) : Keeps 10384593717069655257060992658440192 s (State.measureFirmware s) := by
  unfold State.measureFirmware
  refine .step ?_ (upd_measured ..)
  exact .refl ..

theorem State.mountFlash_keeps (s found) : Keeps 71614546102296358789281689491575458059706780505497270036501136147107466552742634743460328 s (State.mountFlash s found) := by
  unfold State.mountFlash
  extract_lets l887 l888 l889 l890 l891
  refine .have_ (t := l889) ?_ fun h892 => ?_
  · unfold l889
    refine .foldl ?_ fun u a => ?_
    · exact .refl ..
    · refine .step ?_ (State.setFld_keeps ..)
      exact .refl ..
  split
  · exact h892
  · extract_lets l893
    refine .step ?_ (State.fltSync_keeps ..)
    refine .step ?_ (upd_flash ..)
    exact h892
  · extract_lets l894
    refine .step ?_ (State.fltSync_keeps ..)
    refine .foldl ?_ fun u a => ?_
    · refine .step ?_ (upd_flash ..)
      exact h892
    · refine .step ?_ (opTargetFailed_keeps ..)
      exact .refl ..

theorem State.plainQuery_keeps (s fn op) : Keeps 8 s (State.plainQuery s fn op) := by
  unfold State.plainQuery
  refine .ite (fun _ => ?_) fun _ => ?_
  · refine .step ?_ (State.reply_keeps ..)
    exact .refl ..
  · refine .ite (fun _ => ?_) fun _ => ?_
    · refine .step ?_ (State.reply_keeps ..)
      exact .refl ..
    · refine .ite (fun _ => ?_) fun _ => ?_
      · refine .step ?_ (State.reply_keeps ..)
        exact .refl ..
      · refine .ite (fun _ => ?_) fun _ => ?_
        · refine .step ?_ (State.reply_keeps ..)
          exact .refl ..
        · refine .ite (fun _ => ?_) fun _ => ?_
          · refine .step ?_ (State.reply_keeps ..)
            exact .refl ..
          · refine .ite (fun _ => ?_) fun _ => ?_
            · refine .step ?_ (State.reply_keeps ..)
              exact .refl ..
            · refine .ite (fun _ => ?_) fun _ => ?_
              · refine .step ?_ (State.reply_keeps ..)
                exact .refl ..
              · exact .refl ..

theorem State.writeField_keeps (s f i v) : Keeps (regBit f.reg) s (State.writeField s f i v) := by
  unfold State.writeField
  extract_lets x
  split
  all_goals first
    | exact State.setFld_keeps ..
    | exact .refl ..
    | exact .ite (fun _ => State.setFld_keeps ..) fun _ => .refl ..
    | exact .ite (fun _ => .refl ..) fun _ => State.setFld_keeps ..

theorem State.plainWrite_keeps (s k i v) : Keeps (regBit k) s (State.plainWrite s k i v) := by
  unfold State.plainWrite
  have h : ∀ f ∈ k.fields, f.reg = k := k.fields_reg
  generalize k.fields = l at h
  induction l generalizing s with
  | nil => exact .refl ..
  | cons f l ih =>
    have h1 := State.writeField_keeps s f i v
    rw [h f (List.mem_cons_self ..)] at h1
    exact h1.trans (ih _ fun g hg => h g (List.mem_cons_of_mem _ hg))

theorem State.poisonGranules_keeps (s gs) : Keeps 71614546102309300171035600316246499261242738881487972864009378319314712554818640044683496 s (State.poisonGranules s gs) := by
  unfold State.poisonGranules
  extract_lets l914 l915 l916 l917
  refine .step ?_ (State.pumpViews_keeps ..)
  refine .step ?_ (State.reclaim_keeps ..)
  refine .foldl ?_ fun u a => ?_
  · unfold l917
    refine .foldl ?_ fun u a => ?_
    · unfold l916
      refine .foldl ?_ fun u a => ?_
      · exact .refl ..
      · refine .step ?_ (State.loseFrame_keeps ..)
        exact .refl ..
    · refine .step ?_ (State.loseTokens_keeps ..)
      exact .refl ..
  · refine .step ?_ (State.loseLine_keeps ..)
    exact .refl ..

theorem State.programEnds_keeps {m : Nat} (s swap ok done) (hr : ∀ t l, Keeps m t (done t l)) (hm : 71614546091180142531644436140804519267752975557797634318127018894711305412149296855314924 ||| m = m := by decide) :
    Keeps m s (State.programEnds s swap ok done) := by
  unfold State.programEnds
  extract_lets t
  have ht : Keeps m s t := .mono (w := 71614546091180142531644436140804519267752975557797634318127018894711305412149296855314924) (.step (.step (.refl ..) (State.loadAdvance_keeps ..)) (State.loadAdvance_keeps ..)) hm
  split
  · exact ht
  · refine .ite (fun _ => ht) fun _ => ?_
    refine .ite (fun _ => ?_) fun _ => ?_
    · exact ht.trans (.trans (.mono (w := 71614546091180142531644436140804519267752975557797634318127018894711305412149296855314924) (.step (.refl ..) (upd_load ..)) hm) (hr ..))
    · exact ht.trans (.mono (w := 71614546091180142531644436140804519267752975557797634318127018894711305412149296855314924) (.step (.refl ..) (State.enterPhase_keeps ..)) hm)

theorem State.qpAction_keeps (s v) : Keeps 73667947062091872104807302168770814009506793364580894147062893070575007848975665228476648 s (State.qpAction s v) := by
  unfold State.qpAction
  extract_lets l941
  split
  · refine .step ?_ (opQpRead_keeps ..)
    exact .refl ..
  · refine .step ?_ (opQpWrite_keeps ..)
    exact .refl ..
  · refine .step ?_ (opQpActivate_keeps ..)
    exact .refl ..
  · refine .step ?_ (opQpError_keeps ..)
    exact .refl ..
  · refine .step ?_ (opQpReset_keeps ..)
    exact .refl ..
  · refine .step ?_ (State.setFld_keeps ..)
    exact .refl ..

theorem State.quiesceAll_keeps (s) : Keeps 73672318144911663976928311486870966029480971930918008359420971831393284952435518546704620 s (State.quiesceAll s) := by
  unfold State.quiesceAll
  extract_lets l942 l943
  refine .have_ (t := l942) ?_ fun h944 => ?_
  · unfold l942
    refine .step ?_ (State.interrupt_keeps ..)
    refine .step ?_ (State.dropLinks_keeps ..)
    exact .refl ..
  refine .step ?_ (State.saveJournal_keeps ..)
  refine .step ?_ (State.stopped_keeps ..)
  unfold l943
  refine .step ?_ (upd_images ..)
  exact h944

theorem State.raise_keeps (s f n) : Keeps (regBit f.reg) s (State.raise s f n) := by
  unfold State.raise
  exact .ite (fun _ => State.setFld_keeps ..) fun _ => .refl ..

theorem State.raiseLasting_keeps (s) : Keeps 1356938545749799165119972480570561420155507632800475359837393562592731987968 s (State.raiseLasting s) := by
  unfold State.raiseLasting
  extract_lets l945
  refine .have_ (t := l945) ?_ fun h946 => ?_
  · unfold l945
    refine .foldl ?_ fun u a => ?_
    · exact .refl ..
    · refine .ite (fun _ => ?_) fun _ => ?_
      · refine .step ?_ (State.setFldAt (k := .RAS_REPL) (h := by unfold replField; (repeat' split) <;> rfl) ..)
        exact .refl ..
      · exact .refl ..
  refine .ite (fun _ => ?_) fun _ => ?_
  · exact h946
  · refine .step ?_ (State.setFld_keeps ..)
    exact h946

theorem State.writeRasCtl_keeps (s v) : Keeps 1809251394333065553493296640760748560207343510400633813116524750123642650624 s (State.writeRasCtl s v) := by
  unfold State.writeRasCtl
  extract_lets l947
  refine .step ?_ (State.setFld_keeps ..)
  refine .step ?_ (State.setFld_keeps ..)
  unfold l947
  refine .ite (fun _ => ?_) fun _ => ?_
  · exact .refl ..
  · refine .step ?_ (State.setFld_keeps ..)
    exact .refl ..

theorem opSelftest_keeps (v s) : Keeps 31209586552245380797771627017449839774443542330628135749729001852610305065088 s (opSelftest v s) := by
  unfold opSelftest
  extract_lets l948 l949 l950 l951 l952 l953
  refine .have_ (t := l948) ?_ fun h954 => ?_
  · unfold l948
    refine .step ?_ (State.writeRasCtl_keeps ..)
    exact .refl ..
  refine .have_ (t := l950) ?_ fun h955 => ?_
  · unfold l950
    refine .step ?_ (State.setFld_keeps ..)
    exact h954
  refine .have_ (t := l952) ?_ fun h956 => ?_
  · unfold l952
    refine .step ?_ (State.setFld_keeps ..)
    refine .step ?_ (State.setFld_keeps ..)
    unfold l951
    refine .step ?_ (upd_preTest ..)
    exact h955
  refine .ite (fun _ => ?_) fun _ => ?_
  · refine .step ?_ (State.setFld_keeps ..)
    exact h954
  · refine .ite (fun _ => ?_) fun _ => ?_
    · refine .step ?_ (State.setFld_keeps ..)
      exact h954
    · refine .step ?_ (State.recovSync_keeps ..)
      refine .step ?_ (State.setPart_keeps ..)
      refine .step ?_ (State.setFld_keeps ..)
      unfold l953
      refine .step ?_ (State.setFld_keeps ..)
      exact h956

theorem opRetireStack_keeps (v s) : Keeps 71614546043045009185413123012152997219504109144713500188132786611406623855141080215384296 s (opRetireStack v s) := by
  unfold opRetireStack
  extract_lets l957
  refine .have_ (t := l957) ?_ fun h958 => ?_
  · unfold l957
    refine .step ?_ (State.writeRasCtl_keeps ..)
    exact .refl ..
  refine .ite (fun _ => ?_) fun _ => ?_
  · refine .step ?_ (State.setFld_keeps ..)
    exact h958
  · refine .step ?_ (State.loseStack_keeps ..)
    refine .step ?_ (State.setFld_keeps ..)
    exact h958

theorem State.retireCore_keeps (s i cause) : Keeps 71614546043068529453539451630019118699414927160063337778720927963493255448884237178040808 s (State.retireCore s i cause) := by
  unfold State.retireCore
  extract_lets l959 l960 l961 l962 l963 l964
  refine .have_ (t := l960) ?_ fun h965 => ?_
  · unfold l960
    refine .step ?_ (State.updCore_keeps ..)
    exact .refl ..
  refine .have_ (t := l963) ?_ fun h966 => ?_
  · unfold l963
    refine .step ?_ (State.rasEvent_keeps ..)
    unfold l962
    refine .step ?_ (State.reduced_keeps ..)
    refine .step ?_ (State.addFld_keeps ..)
    unfold l961
    refine .step ?_ (State.setReg_keeps ..)
    exact h965
  refine .have_ (t := l964) ?_ fun h967 => ?_
  · unfold l964
    refine .ite (fun _ => ?_) fun _ => ?_
    · refine .step ?_ (State.requestReplace_keeps ..)
      exact h966
    · exact h966
  refine .ite (fun _ => ?_) fun _ => ?_
  · exact .refl ..
  · split
    · refine .step ?_ (State.geoBump_keeps ..)
      exact h967
    · refine .ite (fun _ => ?_) fun _ => ?_
      · refine .step ?_ (State.geoBump_keeps ..)
        exact h967
      · split
        · rename_i v968 v969 v970
          refine .have_ (t := v968) (.fst_eq ?_ v970) fun h971 => ?_
          · refine .step ?_ (State.refitPanel_keeps ..)
            exact h967
          refine .step ?_ (State.geoBump_keeps ..)
          exact h971

theorem opRetireCore_keeps (v s) : Keeps 71614546043070338704933784695572611996055687908623545122231328597306371973634360820691432 s (opRetireCore v s) := by
  unfold opRetireCore
  extract_lets l972 l973
  refine .have_ (t := l972) ?_ fun h974 => ?_
  · unfold l972
    refine .step ?_ (State.writeRasCtl_keeps ..)
    exact .refl ..
  refine .ite (fun _ => ?_) fun _ => ?_
  · refine .step ?_ (State.setFld_keeps ..)
    exact h974
  · refine .step ?_ (State.retireCore_keeps ..)
    refine .step ?_ (State.setFld_keeps ..)
    exact h974

theorem State.rasAction_keeps (s v) : Keeps 71614546043102905230031781109864782712008453101427728330281934786118317431226082237411816 s (State.rasAction s v) := by
  unfold State.rasAction
  split
  · refine .step ?_ (opSelftest_keeps ..)
    exact .refl ..
  · refine .step ?_ (opRetireStack_keeps ..)
    exact .refl ..
  · refine .step ?_ (opRetireCore_keeps ..)
    exact .refl ..
  · refine .step ?_ (State.writeRasCtl_keeps ..)
    exact .refl ..

theorem State.reconstructed_keeps (s st g) : Keeps 71614546043039581431230122581163213693198428253201560265961972727317957318888167251046632 s (State.reconstructed s st g) := by
  unfold State.reconstructed
  extract_lets l975 l976 l977 l978 l979
  refine .have_ (t := l975) ?_ fun h980 => ?_
  · unfold l975
    refine .step ?_ (State.addFld_keeps ..)
    exact .refl ..
  refine .have_ (t := l977) ?_ fun h981 => ?_
  · unfold l977
    refine .step ?_ (upd_reconTimes ..)
    exact h980
  refine .have_ (t := l979) ?_ fun h982 => ?_
  · unfold l979
    refine .ite (fun _ => ?_) fun _ => ?_
    · refine .step ?_ (State.rasEvent_keeps ..)
      refine .step ?_ (upd_reconLog ..)
      exact h981
    · refine .step ?_ (State.countEvent_keeps ..)
      exact h981
  refine .ite (fun _ => ?_) fun _ => ?_
  · refine .step ?_ (State.requestReplace_keeps ..)
    exact h982
  · exact h982

theorem State.writePwrCtl_keeps (s v) : Keeps 254629497041810760783555711051172270131433549208241691047150635230834199095809656504713216 s (State.writePwrCtl s v) := by
  unfold State.writePwrCtl
  extract_lets l1000 l1001
  refine .have_ (t := l1001) ?_ fun h1002 => ?_
  · unfold l1001
    refine .step ?_ (State.plainWrite_keeps ..)
    exact .refl ..
  refine .ite (fun _ => ?_) fun _ => ?_
  · refine .step ?_ (State.setFld_keeps ..)
    exact h1002
  · exact h1002

theorem State.writePwrRst_keeps (s v) : Keeps 948568795032094272909893509191171341133987714380927500611236528192824358010355712 s (State.writePwrRst s v) := by
  unfold State.writePwrRst
  refine .step ?_ (State.setFld_keeps ..)
  refine .step ?_ (State.setFld_keeps ..)
  exact .refl ..

theorem opTenantReset_keeps (v s) : Keeps 73667948010660667130431293242261855629453827235653818591270067438225644688575704837714152 s (opTenantReset v s) := by
  unfold opTenantReset
  refine .ite (fun _ => ?_) fun _ => ?_
  · exact .refl ..
  · extract_lets l1010 l1011
    refine .have_ (t := l1010) ?_ fun h1012 => ?_
    · unfold l1010
      refine .step ?_ (State.writePwrRst_keeps ..)
      exact .refl ..
    refine .ite (fun _ => ?_) fun _ => ?_
    · refine .step ?_ (State.setFld_keeps ..)
      exact h1012
    · refine .step ?_ (State.drainTenant_keeps ..)
      refine .step ?_ (State.setFld_keeps ..)
      refine .step ?_ (upd_tenantResets ..)
      exact h1012

theorem State.resetGroup_keeps (s n) : Keeps 71614546043010809099775797432899093886091486400198160365225558619895755872138025276338408 s (State.resetGroup s n) := by
  unfold State.resetGroup
  split
  · exact .refl ..
  · extract_lets l1013 l1014 l1015 l1016
    refine .step ?_ (State.fltSync_keeps ..)
    refine .foldl ?_ fun u a => ?_
    · unfold l1015
      refine .step ?_ (upd_units ..)
      exact .refl ..
    · unfold l1016
      extract_lets l1017 l1018
      split
      · rename_i v1019 v1020 v1021
        refine .have_ (t := v1019) (Keeps.Opt.elim ?_ (congrArg (Option.map Prod.fst) v1021)) fun h1022 => ?_
        · refine .after ?_ (State.placeImage_keeps ..)
          exact .refl ..
        extract_lets l1023
        refine .step ?_ (upd_images ..)
        exact h1022
      · rename_i v1024
        exact .refl ..

theorem State.setSteward_keeps (s st x) : Keeps 65536 s (State.setSteward s st x) := by
  unfold State.setSteward
  refine .step ?_ (upd_stewards ..)
  exact .refl ..

theorem State.resetSteward_keeps (s st) : Keeps 71614546043010633408920794766636612323365327994958693794658957366483940898946956514160872 s (State.resetSteward s st) := by
  unfold State.resetSteward
  extract_lets l1026 l1027 l1028 l1029 l1030 l1031
  refine .have_ (t := l1028) ?_ fun h1032 => ?_
  · unfold l1028
    refine .step ?_ (State.setSteward_keeps ..)
    exact .refl ..
  refine .have_ (t := l1031) ?_ fun h1033 => ?_
  · unfold l1031
    refine .step ?_ (State.logEv_keeps ..)
    unfold l1030
    refine .foldl ?_ fun u a => ?_
    · exact h1032
    · refine .step ?_ (State.breakOff_keeps ..)
      exact .refl ..
  refine .ite (fun _ => ?_) fun _ => ?_
  · refine .step ?_ (State.requestReplace_keeps ..)
    exact h1033
  · exact h1033

theorem opIslandReset_keeps (v s) : Keeps 71614546991579604131876860928925401749811830655753557399200012779489736191521735007400168 s (opIslandReset v s) := by
  unfold opIslandReset
  refine .ite (fun _ => ?_) fun _ => ?_
  · exact .refl ..
  · extract_lets l1034 l1035
    refine .have_ (t := l1034) ?_ fun h1036 => ?_
    · unfold l1034
      refine .step ?_ (State.setFld_keeps ..)
      refine .step ?_ (State.writePwrRst_keeps ..)
      exact .refl ..
    refine .ite (fun _ => ?_) fun _ => ?_
    · exact h1036
    · refine .ite (fun _ => ?_) fun _ => ?_
      · refine .step ?_ (State.resetSteward_keeps ..)
        exact h1036
      · refine .ite (fun _ => ?_) fun _ => ?_
        · refine .ite (fun _ => ?_) fun _ => ?_
          · exact h1036
          · refine .step ?_ (State.setFld_keeps ..)
            exact h1036
        · refine .ite (fun _ => ?_) fun _ => ?_
          · refine .ite (fun _ => ?_) fun _ => ?_
            · refine .step ?_ (State.retrainLink_keeps ..)
              exact h1036
            · exact h1036
          · refine .ite (fun _ => ?_) fun _ => ?_
            · refine .step ?_ (State.resetGroup_keeps ..)
              exact h1036
            · refine .step ?_ (State.setFld_keeps ..)
              exact h1036

theorem State.resetAction_keeps (s v) : Keeps 73667948010662199759838837528151547213628628188106204886196004797949133104643850297798888 s (State.resetAction s v) := by
  unfold State.resetAction
  split
  · refine .step ?_ (opTenantReset_keeps ..)
    exact .refl ..
  · refine .step ?_ (opIslandReset_keeps ..)
    exact .refl ..
  · refine .ite (fun _ => ?_) fun _ => ?_
    · exact .refl ..
    · refine .step ?_ (State.writePwrRst_keeps ..)
      exact .refl ..

theorem State.writeTntCred_keeps (s t v) : Keeps 356811923176489970264571492362373784095686656 s (State.writeTntCred s t v) := by
  unfold State.writeTntCred
  refine .ite (fun _ => ?_) fun _ => ?_
  · refine .step ?_ (State.setReg_keeps ..)
    exact .refl ..
  · exact .refl ..

theorem State.writeHrt_keeps (s k e v) : Keeps 254629497041810760783555711051172270131433549208241691047150714478457716780874301492490472 s (State.writeHrt s k e v) := by
  unfold State.writeHrt
  extract_lets l967 l968 l969
  refine .have_ (t := l969) ?_ fun h970 => ?_
  · unfold l969
    refine .step ?_ (State.plainWrite_keeps ..) (regBit_sub _)
    exact .refl ..
  refine .ite (fun _ => ?_) fun _ => ?_
  · exact h970
  · unfold l967
    refine .ite (fun _ => ?_) fun _ => ?_
    · refine .step ?_ (State.tdiTouch_keeps ..)
      refine .ite (fun _ => ?_) fun _ => ?_
      · refine .step ?_ (State.tdiTouch_keeps ..)
        exact h970
      · exact h970
    · refine .ite (fun _ => ?_) fun _ => ?_
      · refine .step ?_ (State.tdiTouch_keeps ..)
        exact h970
      · exact h970

theorem State.writeTntGrp_keeps (s t v) : Keeps 89202980794122492566142873090593446023921664 s (State.writeTntGrp s t v) := by
  unfold State.writeTntGrp
  refine .ite (fun _ => ?_) fun _ => ?_
  · refine .step ?_ (State.setReg_keeps ..)
    exact .refl ..
  · exact .refl ..

theorem State.writeTntBind_keeps (s t v) : Keeps 44601490397061246283071436545296723011960832 s (State.writeTntBind s t v) := by
  unfold State.writeTntBind
  refine .ite (fun _ => ?_) fun _ => ?_
  · refine .step ?_ (State.setReg_keeps ..)
    exact .refl ..
  · refine .ite (fun _ => ?_) fun _ => ?_
    · refine .step ?_ (State.setReg_keeps ..)
      exact .refl ..
    · exact .refl ..

theorem opLogClear_keeps (v s) : Keeps 7957171782556586274486115970349133441607298412757563479047423630290551952200534008528928 s (opLogClear v s) := by
  unfold opLogClear
  refine .ite (fun _ => ?_) fun _ => ?_
  · refine .step ?_ (State.setFld_keeps ..)
    refine .step ?_ (upd_log (hx := fun _ => Nat.zero_le _) ..)
    exact .refl ..
  · exact .refl ..

theorem opLogReadIndex_keeps (v s) : Keeps 47743030695339517646916695822094800649643790476545380874284541781743311713203204051173376 s (opLogReadIndex v s) := by
  unfold opLogReadIndex
  extract_lets l1067 l1068
  refine .foldl ?_ fun u a => ?_
  · refine .step ?_ (State.setReg_keeps ..)
    exact .refl ..
  · refine .step ?_ (State.setReg_keeps ..)
    exact .refl ..

theorem State.writeDtctl_keeps (s v) : Keeps 254629497041810760783555711051172270131433549208241691047150635230834199095809656504713216 s (State.writeDtctl s v) := by
  unfold State.writeDtctl
  extract_lets l1069 l1070
  refine .have_ (t := l1070) ?_ fun h1071 => ?_
  · unfold l1070
    refine .step ?_ (State.plainWrite_keeps ..)
    exact .refl ..
  refine .ite (fun _ => ?_) fun _ => ?_
  · exact h1071
  · refine .step ?_ (State.setFld_keeps ..)
    exact h1071

theorem State.writeTntCtrl_keeps (s t v) : Keeps 11150372599265311570767859136324180752990208 s (State.writeTntCtrl s t v) := by
  unfold State.writeTntCtrl
  refine .step ?_ (State.setReg_keeps ..)
  exact .refl ..

theorem opDisable_keeps (t v s) : Keeps 73667947062091872098337020332368346438282486112816476643454378924642491519099645045305576 s (opDisable t v s) := by
  unfold opDisable
  extract_lets l1072
  refine .have_ (t := l1072) ?_ fun h1073 => ?_
  · unfold l1072
    refine .step ?_ (State.writeTntCtrl_keeps ..)
    exact .refl ..
  refine .ite (fun _ => ?_) fun _ => ?_
  · refine .step ?_ (State.actErr_keeps ..)
    exact h1073
  · refine .step ?_ (State.actErr_keeps ..)
    refine .step ?_ (State.drainTenant_keeps ..)
    exact h1073

theorem State.startTenant_keeps (s t needed) : Keeps 81844113991275761950029492167830193806713536118784 s (State.startTenant s t needed) := by
  unfold State.startTenant
  extract_lets l1074
  refine .ite (fun _ => ?_) fun _ => ?_
  · refine .step ?_ (State.actErr_keeps ..)
    exact .refl ..
  · refine .step ?_ (State.actErr_keeps ..)
    refine .step ?_ (State.toState_keeps ..)
    refine .step ?_ (State.freshSpools_keeps ..)
    exact .refl ..

theorem opEnable_keeps (t v s) : Keeps 81844125141648361215341062935689330130894289108992 s (opEnable t v s) := by
  unfold opEnable
  refine .step ?_ (State.startTenant_keeps ..)
  refine .step ?_ (State.writeTntCtrl_keeps ..)
  exact .refl ..

theorem opConfigure_keeps (t v s) : Keeps 18526734277970591267771357601395916960912919465866832203784642632339141223776260 s (opConfigure t v s) := by
  unfold opConfigure
  extract_lets l1075
  refine .have_ (t := l1075) ?_ fun h1076 => ?_
  · unfold l1075
    refine .step ?_ (State.writeTntCtrl_keeps ..)
    exact .refl ..
  refine .ite (fun _ => ?_) fun _ => ?_
  · refine .step ?_ (upd_heldActs ..)
    exact h1076
  · refine .step ?_ (State.configureNow_keeps ..)
    exact h1076

theorem opTenantActivate_keeps (t v s) : Keeps 81844125141648361215341062935689330130894289108992 s (opTenantActivate t v s) := by
  unfold opTenantActivate
  refine .step ?_ (State.startTenant_keeps ..)
  refine .step ?_ (State.writeTntCtrl_keeps ..)
  exact .refl ..

theorem opShred_keeps (t v s) : Keeps 71614546120823093067252280759346803401132518868360718514065216528889460070296035459657960 s (opShred t v s) := by
  unfold opShred
  extract_lets l1077 l1078 l1079 l1080 l1081 l1082
  refine .have_ (t := l1077) ?_ fun h1083 => ?_
  · unfold l1077
    refine .step ?_ (State.writeTntCtrl_keeps ..)
    exact .refl ..
  refine .have_ (t := l1078) ?_ fun h1084 => ?_
  · unfold l1078
    refine .step ?_ (State.dropTenantKeys_keeps ..)
    exact h1083
  refine .have_ (t := l1079) ?_ fun h1085 => ?_
  · unfold l1079
    refine .step ?_ (upd_qpKeys ..)
    exact h1084
  refine .ite (fun _ => ?_) fun _ => ?_
  · refine .step ?_ (State.actErr_keeps ..)
    exact h1083
  · refine .step ?_ (State.actErr_keeps ..)
    refine .step ?_ (State.toState_keeps ..)
    refine .step ?_ (State.pumpViews_keeps ..)
    unfold l1082
    refine .step ?_ (State.fltSync_keeps ..)
    refine .step ?_ (State.markPending_keeps ..)
    refine .step ?_ (State.destroyHolder_keeps ..)
    unfold l1081
    refine .step ?_ (upd_units_eraseLists ..)
    exact h1085

theorem opUnconfigure_keeps (t v s) : Keeps 18526734277970591267771357601390065289974315344340257428424322420490233230393344 s (opUnconfigure t v s) := by
  unfold opUnconfigure
  extract_lets l1086
  refine .have_ (t := l1086) ?_ fun h1087 => ?_
  · unfold l1086
    refine .step ?_ (State.writeTntCtrl_keeps ..)
    exact .refl ..
  refine .ite (fun _ => ?_) fun _ => ?_
  · refine .step ?_ (State.actErr_keeps ..)
    exact h1087
  · refine .step ?_ (State.actErr_keeps ..)
    refine .step ?_ (State.toState_keeps ..)
    refine .step ?_ (State.dropTenantKeys_keeps ..)
    exact h1087

theorem State.writeAction_keeps (s t v) : Keeps 73667947139905688695214257358572948865001936101745813651287446273306124167730964004401388 s (State.writeAction s t v) := by
  unfold State.writeAction
  split
  · refine .step ?_ (opConfigure_keeps ..)
    exact .refl ..
  · refine .step ?_ (opTenantActivate_keeps ..)
    exact .refl ..
  · refine .step ?_ (opDisable_keeps ..)
    exact .refl ..
  · refine .step ?_ (opEnable_keeps ..)
    exact .refl ..
  · refine .step ?_ (opShred_keeps ..)
    exact .refl ..
  · refine .step ?_ (opUnconfigure_keeps ..)
    exact .refl ..
  · refine .step ?_ (State.writeTntCtrl_keeps ..)
    exact .refl ..

theorem opDtimeSet_keeps (v s) : Keeps 15177100720513508366558296147058741458143803451362487942338438417546102692651204610 s (opDtimeSet v s) := by
  unfold opDtimeSet
  extract_lets l1091
  refine .ite (fun _ => ?_) fun _ => ?_
  · exact .refl ..
  · refine .step ?_ (State.setFld_keeps ..)
    refine .step ?_ (State.applyOffset_keeps ..)
    exact .refl ..

theorem opLockSet_keeps (v s) : Keeps 340282366920938463463374607431768211456 s (opLockSet v s) := by
  unfold opLockSet
  refine .ite (fun _ => ?_) fun _ => ?_
  · refine .step ?_ (State.setFld_keeps ..)
    exact .refl ..
  · exact .refl ..

theorem opTenantKeyGenerate_keeps (v s) : Keeps 25937427989158827774879900641946091359132476565145318814646030388021932245123076 s (opTenantKeyGenerate v s) := by
  unfold opTenantKeyGenerate
  extract_lets l1092 l1093
  refine .have_ (t := l1093) ?_ fun h1094 => ?_
  · unfold l1093
    refine .step ?_ (State.setFld_keeps ..)
    exact .refl ..
  refine .ite (fun _ => ?_) fun _ => ?_
  · refine .step ?_ (State.setFld_keeps ..)
    exact h1094
  · refine .ite (fun _ => ?_) fun _ => ?_
    · refine .step ?_ (State.setFld_keeps ..)
      exact h1094
    · refine .ite (fun _ => ?_) fun _ => ?_
      · refine .step ?_ (State.setFld_keeps ..)
        exact h1094
      · refine .step ?_ (State.setFld_keeps ..)
        refine .step ?_ (State.setFld_keeps ..)
        refine .step ?_ (State.keyWrite_keeps ..)
        refine .step ?_ (State.newDataKey_keeps ..)
        exact h1094

theorem State.writeRepl_keeps (s v) : Keeps 1356938545749799165119972480570561420171458368749894350312239247316096123008 s (State.writeRepl s v) := by
  unfold State.writeRepl
  extract_lets l1095
  refine .have_ (t := l1095) ?_ fun h1096 => ?_
  · unfold l1095
    refine .ite (fun _ => ?_) fun _ => ?_
    · refine .step ?_ (State.endReplace_keeps ..)
      exact .refl ..
    · exact .refl ..
  refine .ite (fun _ => ?_) fun _ => ?_
  · refine .step ?_ (State.endReplace_keeps ..)
    exact h1096
  · exact h1096

theorem State.writeTntQuota_keeps (s t v) : Keeps 178405961588244985132285746181186892047843328 s (State.writeTntQuota s t v) := by
  unfold State.writeTntQuota
  refine .ite (fun _ => ?_) fun _ => ?_
  · refine .step ?_ (State.setReg_keeps ..)
    exact .refl ..
  · exact .refl ..

theorem State.regWrite_keeps (s k i v) : Keeps 254629497041810760783555711051172270131433549208241728514806718833012506245413133476295150 s (State.regWrite s k i v) := by
  unfold State.regWrite
  split
  · refine .step ?_ (opLockSet_keeps ..)
    exact .refl ..
  · refine .step ?_ (State.writeAction_keeps ..)
    exact .refl ..
  · refine .step ?_ (State.writeTntBind_keeps ..)
    exact .refl ..
  · refine .step ?_ (State.writeTntGrp_keeps ..)
    exact .refl ..
  · refine .step ?_ (State.writeTntQuota_keeps ..)
    exact .refl ..
  · refine .step ?_ (State.writeTntCred_keeps ..)
    exact .refl ..
  · refine .step ?_ (State.groupAction_keeps ..)
    exact .refl ..
  · refine .step ?_ (State.writeHrt_keeps ..)
    exact .refl ..
  · refine .step ?_ (State.writeHrt_keeps ..)
    exact .refl ..
  · refine .step ?_ (State.writeHrt_keeps ..)
    exact .refl ..
  · refine .ite (fun _ => ?_) fun _ => ?_
    · refine .step ?_ (opHrtSync_keeps ..)
      exact .refl ..
    · exact .refl ..
  · refine .step ?_ (opNodeQuery_keeps ..)
    exact .refl ..
  · refine .ite (fun _ => ?_) fun _ => ?_
    · refine .step ?_ (State.plainWrite_keeps ..)
      exact .refl ..
    · exact .refl ..
  · refine .step ?_ (opPageQuery_keeps ..)
    exact .refl ..
  · refine .step ?_ (opGenerationQuery_keeps ..)
    exact .refl ..
  · refine .step ?_ (opHistogramConfig_keeps ..)
    exact .refl ..
  · refine .step ?_ (State.ringConfig_keeps ..)
    exact .refl ..
  · refine .step ?_ (State.ctxAction_keeps ..)
    exact .refl ..
  · refine .ite (fun _ => ?_) fun _ => ?_
    · refine .step ?_ (State.plainWrite_keeps ..)
      exact .refl ..
    · exact .refl ..
  · refine .ite (fun _ => ?_) fun _ => ?_
    · refine .step ?_ (State.plainWrite_keeps ..)
      exact .refl ..
    · exact .refl ..
  · refine .step ?_ (State.plainWrite_keeps ..)
    exact .refl ..
  · refine .step ?_ (State.qpAction_keeps ..)
    exact .refl ..
  · refine .step ?_ (State.writeRepl_keeps ..)
    exact .refl ..
  · refine .step ?_ (State.rasAction_keeps ..)
    exact .refl ..
  · refine .ite (fun _ => ?_) fun _ => ?_
    · refine .step ?_ (opTenantKeyGenerate_keeps ..)
      exact .refl ..
    · refine .step ?_ (State.plainWrite_keeps ..)
      exact .refl ..
  · refine .step ?_ (State.writePwrCtl_keeps ..)
    exact .refl ..
  · refine .step ?_ (State.resetAction_keeps ..)
    exact .refl ..
  · refine .step ?_ (opDtimeSet_keeps ..)
    exact .refl ..
  · refine .step ?_ (State.writeDtctl_keeps ..)
    exact .refl ..
  · refine .ite (fun _ => ?_) fun _ => ?_
    · refine .step ?_ (State.plainWrite_keeps ..)
      exact .refl ..
    · exact .refl ..
  · refine .ite (fun _ => ?_) fun _ => ?_
    · refine .step ?_ (opOrphanLogClear_keeps ..)
      exact .refl ..
    · exact .refl ..
  · refine .step ?_ (opOrphanLogQuery_keeps ..)
    exact .refl ..
  · refine .step ?_ (opViewWindowConfig_keeps ..)
    exact .refl ..
  · refine .step ?_ (opGatewayConfig_keeps ..)
    exact .refl ..
  · refine .step ?_ (opGatewayConfig_keeps ..)
    exact .refl ..
  · refine .step ?_ (opGatewayConfig_keeps ..)
    exact .refl ..
  · refine .step ?_ (opLogClear_keeps ..)
    exact .refl ..
  · refine .step ?_ (opLogReadIndex_keeps ..)
    exact .refl ..
  · refine .step ?_ (State.plainWrite_keeps ..) (regBit_sub _)
    exact .refl ..

theorem State.requestMade_keeps (s n r) : Keeps 48169509122723642608497198320800870461784127984910296301338480847519059607027720 s (State.request_ s n r) := by
  unfold State.request_
  refine .ite (fun _ => ?_) fun _ => ?_
  · refine .step ?_ (upd_heldActs ..)
    exact .refl ..
  · refine .step ?_ (State.runRequest_keeps ..)
    exact .refl ..

theorem State.resetTo_keeps (s cold) : Keeps 254629497041810760783555711051172270131433549208241717501995590043702120163731152512159458 s (State.resetTo s cold) := by
  unfold State.resetTo
  extract_lets l1103 l1104 l1105 l1106 l1107 l1108 l1109
  refine .have_ (t := l1104) ?_ fun h1110 => ?_
  · unfold l1104
    refine .step ?_ (State.clearVolatile_keeps ..)
    exact .refl ..
  refine .have_ (t := l1107) ?_ fun h1111 => ?_
  · unfold l1107
    refine .step ?_ (State.setReg_keeps ..)
    unfold l1106
    refine .step ?_ (State.captureLinks_keeps ..)
    unfold l1105
    refine .step ?_ (upd_regs_geoUpd ..)
    exact h1110
  refine .have_ (t := l1109) ?_ fun h1112 => ?_
  · unfold l1109
    refine .step ?_ (upd_dtime_log_events_evLost_power (h1 := fun _ => Nat.zero_le _) (h2 := fun _ _ => Nat.zero_le _) ..)
    exact h1111
  refine .ite (fun _ => ?_) fun _ => ?_
  · exact h1111
  · refine .ite (fun _ => ?_) fun _ => ?_
    · refine .step ?_ (State.setFld_keeps ..)
      exact h1112
    · exact h1112

theorem State.restoreCache_keeps (s) : Keeps 200873385514537247998178694935824840855802397446534336610308 s (State.restoreCache s) := by
  unfold State.restoreCache
  extract_lets l1119 l1120 l1121 l1122
  refine .step ?_ (State.reclaim_keeps ..)
  refine .step ?_ (State.drawn_keeps ..)
  refine .step ?_ (upd_geom_chunks_seqs_pins_frames_epochs_images_gens_histPages_plainMem_poisonLines_orphanLines_orphanLog_extents_released_orphanPend_streams_memKey (h9 := fun _ => Memory.wf_nil) (h12 := Nat.zero_le _) ..)
  exact .refl ..

theorem State.restoreTenants_keeps (s) : Keeps 22300745198530623141535718272648361505980416 s (State.restoreTenants s) := by
  unfold State.restoreTenants
  extract_lets l1123 l1124
  refine .have_ (t := l1123) ?_ fun h1125 => ?_
  · unfold l1123
    refine .foldl ?_ fun u a => ?_
    · exact .refl ..
    · refine .step ?_ (State.toState_keeps ..)
      exact .refl ..
  refine .have_ (t := l1124) ?_ fun h1126 => ?_
  · unfold l1124
    refine .foldl ?_ fun u a => ?_
    · exact h1125
    · refine .step ?_ (State.toState_keeps ..)
      exact .refl ..
  refine .foldl ?_ fun u a => ?_
  · exact h1126
  · refine .ite (fun _ => ?_) fun _ => ?_
    · exact .refl ..
    · refine .step ?_ (State.setFld_keeps ..)
      exact .refl ..

theorem State.resumeErase_keeps (s) : Keeps 485775720244047633004977362718832867235991515254689979336928133918560782010181222532 s (State.resumeErase s) := by
  unfold State.resumeErase
  split
  · refine .step ?_ (State.eraseEnds_keeps ..)
    refine .step ?_ (State.cryptoErase_keeps ..)
    exact .refl ..
  · exact .refl ..

theorem State.romStart_keeps (s) : Keeps 115792089237316195423570985008687907857385274540590663581967770666541076447232 s (State.romStart s) := by
  unfold State.romStart
  extract_lets l1150 l1151 l1152
  refine .have_ (t := l1150) ?_ fun h1153 => ?_
  · unfold l1150
    refine .step ?_ (State.setFld_keeps ..)
    exact .refl ..
  refine .have_ (t := l1151) ?_ fun h1154 => ?_
  · unfold l1151
    refine .step ?_ (State.setReg_keeps ..)
    refine .step ?_ (State.setFld_keeps ..)
    exact h1153
  refine .ite (fun _ => ?_) fun _ => ?_
  · refine .step ?_ (upd_replaceN_power ..)
    exact h1154
  · exact h1154

theorem State.scrubResult_keeps (s r) : Keeps 71614546102350460640256678791716902010688907309065845076315800213650895412798746927755496 s (State.scrubResult s r) := by
  unfold State.scrubResult
  split
  · exact .refl ..
  · refine .step ?_ (State.addFld_keeps ..)
    exact .refl ..
  · extract_lets l1155
    refine .have_ (t := l1155) ?_ fun h1156 => ?_
    · unfold l1155
      refine .step ?_ (State.reconstructed_keeps ..)
      exact .refl ..
    refine .ite (fun _ => ?_) fun _ => ?_
    · exact h1156
    · refine .step ?_ (State.hardGranule_keeps ..)
      exact h1156
  · refine .ite (fun _ => ?_) fun _ => ?_
    · exact .refl ..
    · extract_lets l1157
      refine .have_ (t := l1157) ?_ fun h1158 => ?_
      · unfold l1157
        refine .step ?_ (State.reparity_keeps ..)
        refine .step ?_ (State.poisonGranules_keeps ..)
        exact .refl ..
      refine .step ?_ (State.rasEvent_keeps ..)
      refine .step ?_ (State.addFld_keeps ..)
      exact h1158
  · extract_lets l1159
    refine .step ?_ (State.poisonGranules_keeps ..)
    exact .refl ..
  · refine .step ?_ (State.rasEvent_keeps ..)
    exact .refl ..
  · refine .step ?_ (State.failPart_keeps ..)
    exact .refl ..

theorem State.showFlush_keeps (s) : Keeps 71614546043009304739928080187291474307225697601514345818817095241172263976416991244251296 s (State.showFlush s) := by
  unfold State.showFlush
  extract_lets l1176 l1177 l1178 l1179
  refine .have_ (t := l1177) ?_ fun h1180 => ?_
  · unfold l1177
    refine .step ?_ (State.setReg_keeps ..)
    exact .refl ..
  refine .have_ (t := l1178) ?_ fun h1181 => ?_
  · unfold l1178
    refine .ite (fun _ => ?_) fun _ => ?_
    · refine .step ?_ (State.logEv_keeps ..)
      exact h1180
    · exact h1180
  refine .step ?_ (State.setPower_keeps ..)
  exact h1181

theorem State.signedAnswer_keeps (s fn body) : Keeps 316912650057057350374175801352 s (State.signedAnswer s fn body) := by
  unfold State.signedAnswer
  extract_lets l1182
  refine .step ?_ (State.spdm_keeps ..)
  refine .step ?_ (upd_signed ..)
  exact .refl ..

theorem State.startCache_keeps (s x tested cold) : Keeps 71615031820616293100303857952938265658703042146596616845442605883415371150570616614089196 s (State.startCache s x tested cold) := by
  unfold State.startCache
  extract_lets l1183 l1184 l1185 l1186 l1187
  refine .have_ (t := l1183) ?_ fun h1188 => ?_
  · unfold l1183
    refine .step ?_ (State.calibrate_keeps ..)
    exact .refl ..
  refine .have_ (t := l1184) ?_ fun h1189 => ?_
  · unfold l1184
    refine .ite (fun _ => ?_) fun _ => ?_
    · refine .step ?_ (State.coldStacks_keeps ..)
      exact h1188
    · exact h1188
  refine .have_ (t := l1187) ?_ fun h1190 => ?_
  · unfold l1187
    refine .step ?_ (State.reclaim_keeps ..)
    refine .step ?_ (State.raiseLasting_keeps ..)
    refine .step ?_ (State.restoreTenants_keeps ..)
    refine .step ?_ (State.resumeErase_keeps ..)
    unfold l1186
    refine .step ?_ (State.mountFlash_keeps ..)
    unfold l1185
    refine .ite (fun _ => ?_) fun _ => ?_
    · refine .step ?_ (State.cleanUnits_keeps ..)
      refine .step ?_ (State.restoreCache_keeps ..)
      exact h1189
    · exact h1189
  refine .ite (fun _ => ?_) fun _ => ?_
  · exact h1190
  · split
    · refine .step ?_ (State.loseStack_keeps ..)
      exact h1190
    · refine .step ?_ (State.recovSync_keeps ..)
      exact h1190

theorem State.startUp_keeps (s x) : Keeps 254629497041810760783555711051172270131433549208241733453754574274144689936348717153517550 s (State.startUp s x) := by
  unfold State.startUp
  extract_lets l1191 l1192 l1193 l1194 l1195 l1196 l1197
  refine .have_ (t := l1194) ?_ fun h1198 => ?_
  · unfold l1194
    refine .step ?_ (State.chooseSlot_keeps ..)
    refine .step ?_ (State.romStart_keeps ..)
    refine .step ?_ (State.resetTo_keeps ..)
    exact .refl ..
  refine .have_ (t := l1196) ?_ fun h1199 => ?_
  · unfold l1196
    refine .step ?_ (State.setPower_keeps ..)
    exact h1198
  refine .ite (fun _ => ?_) fun _ => ?_
  · refine .step ?_ (State.setFld_keeps ..)
    exact h1199
  · refine .step ?_ (State.setFld_keeps ..)
    refine .step ?_ (State.fillGeo_keeps ..)
    refine .step ?_ (State.bootPattern_keeps ..)
    unfold l1197
    refine .step ?_ (State.showFlush_keeps ..)
    refine .step ?_ (State.startCache_keeps ..)
    refine .step ?_ (State.measureFirmware_keeps ..)
    exact h1199

theorem State.strayBar0_keeps (s wr off size) : Keeps 71614546043009276470375043733142200974465685714828960347168282703445795557242622659589288 s (State.strayBar0 s wr off size) := by
  unfold State.strayBar0
  extract_lets l1215
  refine .have_ (t := l1215) ?_ fun h1216 => ?_
  · unfold l1215
    refine .step ?_ (State.unallocated_keeps ..)
    exact .refl ..
  refine .ite (fun _ => ?_) fun _ => ?_
  · exact h1216
  · refine .step ?_ (State.emit_keeps ..)
    exact h1216

theorem State.swapPanel_keeps (s c) : Keeps 71614546043010633408920793532508194332460793533296099201629382164108988322893329195921640 s (State.swapPanel s c) := by
  unfold State.swapPanel
  extract_lets l1217 l1218 l1219 l1220 l1221 l1222 l1223
  refine .have_ (t := l1217) ?_ fun h1224 => ?_
  · unfold l1217
    refine .step ?_ (upd_pattern ..)
    exact .refl ..
  refine .have_ (t := l1218) ?_ fun h1225 => ?_
  · unfold l1218
    refine .step ?_ (State.replaceCores_keeps ..)
    exact h1224
  refine .have_ (t := l1221) ?_ fun h1226 => ?_
  · unfold l1221
    refine .step ?_ (State.addFld_keeps ..)
    unfold l1220
    refine .foldl ?_ fun u a => ?_
    · exact h1225
    · refine .step ?_ (State.updCore_keeps ..)
      exact .refl ..
  refine .have_ (t := l1223) ?_ fun h1227 => ?_
  · unfold l1223
    refine .step ?_ (State.installTables_keeps ..)
    unfold l1222
    refine .ite (fun _ => ?_) fun _ => ?_
    · refine .step ?_ (State.setReg_keeps ..)
      exact h1226
    · refine .step ?_ (State.startPanel_keeps ..)
      exact h1226
  split
  · refine .step ?_ (State.reclaim_keeps ..)
    refine .step ?_ (State.putDigest_keeps ..)
    exact h1227
  · refine .step ?_ (State.reclaim_keeps ..)
    exact h1227

theorem State.touchExtent_keeps (s h region idx) : Keeps 73667947076913259520713493346585432519394538306884662081391138779087717400125938430177512 s (State.touchExtent s h region idx) := by
  unfold State.touchExtent
  extract_lets l1251
  refine .foldl ?_ fun u a => ?_
  · exact .refl ..
  · refine .step ?_ (State.tdiTouch_keeps ..)
    exact .refl ..

theorem State.tellHosts_keeps (s region idx hs) : Keeps 73667947076913259520713493346585432519394538306884662081391138779087717400125938430177512 s (State.tellHosts s region idx hs) := by
  unfold State.tellHosts
  refine .foldl ?_ fun u a => ?_
  · exact .refl ..
  · refine .step ?_ (State.touchExtent_keeps ..)
    refine .step ?_ (State.dcEvent_keeps ..)
    exact .refl ..

theorem State.tick_keeps (s) : Keeps 71614561268284481547941468830207652919775955198721500367635762500775956007752236791820782 s (State.tick s) := by
  unfold State.tick
  extract_lets l1252 l1253 l1254 l1255 l1256
  refine .have_ (t := l1256) ?_ fun h1257 => ?_
  · unfold l1256
    refine .step ?_ (upd_dtime_power ..)
    exact .refl ..
  refine .ite (fun _ => ?_) fun _ => ?_
  · exact .refl ..
  · refine .step ?_ (State.loadAdvance_keeps ..)
    refine .step ?_ (State.copyStep_keeps ..)
    refine .ite (fun _ => ?_) fun _ => ?_
    · refine .step ?_ (State.setFld_keeps ..)
      exact h1257
    · exact h1257

theorem State.updStaged_keeps (s f) (hf : ∀ m : Memory, m.wf = true → (f m).wf = true) : Keeps 3894222643901120721397872246915072 s (State.updStaged s f) := by
  unfold State.updStaged
  refine .ite (fun _ => ?_) fun _ => ?_
  · refine .step ?_ (upd_slotA (hx := fun i => hf _ i.slotA) ..)
    exact .refl ..
  · refine .step ?_ (upd_slotB (hx := fun i => hf _ i.slotB) ..)
    exact .refl ..

theorem State.withFetchWord_keeps (s nbits w) : Keeps 1 s (State.withFetchWord s nbits w) := by
  unfold State.withFetchWord
  split
  · refine .step ?_ (State.command_keeps ..)
    exact .refl ..
  · exact .refl ..

theorem opCalRead_keeps (fn off n s) : Keeps 71614546043009276470375043733142200974465685714818071311426812672614967569804806076821672 s (opCalRead fn off n s) := by
  unfold opCalRead
  refine .trans ?_ (State.operator_keeps (hr := fun t => ?_) ..)
  · exact .refl ..
  · refine .ite (fun _ => ?_) fun _ => ?_
    · refine .step ?_ (State.reply_keeps ..)
      exact .refl ..
    · refine .step ?_ (State.reply_keeps ..)
      exact .refl ..

theorem opCalWrite_keeps (fn off bs s) : Keeps 71614546048567296753766221113473608254882705291775030616956499433994855971276501570089128 s (opCalWrite fn off bs s) := by
  unfold opCalWrite
  refine .trans ?_ (State.operator_keeps (hr := fun t => ?_) ..)
  · exact .refl ..
  · refine .ite (fun _ => ?_) fun _ => ?_
    · refine .step ?_ (State.reply_keeps ..)
      exact .refl ..
    · refine .ite (fun _ => ?_) fun _ => ?_
      · refine .step ?_ (State.reply_keeps ..)
        exact .refl ..
      · refine .trans ?_ (State.background_keeps (hr := fun t => ?_) ..)
        · exact .refl ..
        · refine .step ?_ (State.keyWrite_keeps ..)
          refine .step ?_ (State.incFld_keeps ..)
          refine .step ?_ (upd_calib (hx := fun i => Memory.wf_write i.calib _ _) ..)
          exact .refl ..

theorem opCapsuleReadPiece_keeps (fn n s) : Keeps 71614546043009276470375043733142200974465685714818071311426812672614967569804806076821672 s (opCapsuleReadPiece fn n s) := by
  unfold opCapsuleReadPiece
  refine .trans ?_ (State.operator_keeps (hr := fun t => ?_) ..)
  · exact .refl ..
  · refine .step ?_ (State.reply_keeps ..)
    exact .refl ..

theorem opCapsuleReadSummary_keeps (fn s) : Keeps 71614546043009276470375043733142200974465685714818071311426812672614967569804806076821672 s (opCapsuleReadSummary fn s) := by
  unfold opCapsuleReadSummary
  refine .trans ?_ (State.operator_keeps (hr := fun t => ?_) ..)
  · exact .refl ..
  · extract_lets l1356
    refine .step ?_ (State.reply_keeps ..)
    exact .refl ..

theorem opCapsuleSnapshot_keeps (s) : Keeps 8192 s (opCapsuleSnapshot s) := by
  unfold opCapsuleSnapshot
  refine .step ?_ (State.snapshot_keeps ..)
  exact .refl ..

theorem opClearEventRecords_keeps (fn owner log all hs s) : Keeps 19342813113834066795298888 s (opClearEventRecords fn owner log all hs s) := by
  unfold opClearEventRecords
  refine .ite (fun _ => ?_) fun _ => ?_
  · refine .step ?_ (State.reply_keeps ..)
    exact .refl ..
  · refine .ite (fun _ => ?_) fun _ => ?_
    · refine .step ?_ (State.reply_keeps ..)
      exact .refl ..
    · extract_lets l1364 l1365
      refine .step ?_ (State.reply_keeps ..)
      unfold l1365
      refine .step ?_ (upd_events_evLost (h0 := fun i => eventLog_filter i _ _) ..)
      exact .refl ..

theorem opClearPoison_keeps (fn a bs s) : Keeps 71678654116452725529715385976067377098384885140506791915628122482136482556037726986105000 s (opClearPoison fn a bs s) := by
  unfold opClearPoison
  refine .trans ?_ (State.operator_keeps (hr := fun t => ?_) ..)
  · exact .refl ..
  · split
    · refine .ite (fun _ => ?_) fun _ => ?_
      · refine .step ?_ (State.reply_keeps ..)
        refine .step ?_ (State.engineWrite_keeps ..)
        exact .refl ..
      · refine .step ?_ (State.reply_keeps ..)
        exact .refl ..
    · refine .step ?_ (State.reply_keeps ..)
      exact .refl ..

theorem opClockAdjust_keeps (i pct s) : Keeps 60767688431743539358290052932559414041396087955851237997369629769612328085739274240 s (opClockAdjust i pct s) := by
  unfold opClockAdjust
  extract_lets l1366 l1367 l1368
  refine .step ?_ (State.syncClocks_keeps ..)
  refine .step ?_ (upd_ecoDown ..)
  exact .refl ..

theorem opCoreRetire_keeps (i cause s) : Keeps 71614546043068529453539451630019118699414927160063337778720927963493255448884237178040808 s (opCoreRetire i cause s) := by
  unfold opCoreRetire
  refine .step ?_ (State.retireCore_keeps ..)
  exact .refl ..

theorem opCryptoEraseComplete_keeps (s) : Keeps 485775720244047633004977362718832867235991515254689979336928133918560782010181222532 s (opCryptoEraseComplete s) := by
  unfold opCryptoEraseComplete
  split
  · exact .refl ..
  · refine .ite (fun _ => ?_) fun _ => ?_
    · exact .refl ..
    · refine .step ?_ (State.eraseEnds_keeps ..)
      refine .step ?_ (State.cryptoErase_keeps ..)
      exact .refl ..

theorem opCxlLinkTrain_keeps (l rate width flitOk ds s) : Keeps 73668432744136315952981223212062138399121198908594425116272085571997523650226127856791784 s (opCxlLinkTrain l rate width flitOk ds s) := by
  unfold opCxlLinkTrain
  refine .ite (fun _ => ?_) fun _ => ?_
  · exact .refl ..
  · extract_lets l1440 l1441 l1442 l1443 l1444 l1445 l1446 l1447 l1448 l1449 l1450 l1451
    refine .have_ (t := l1448) ?_ fun h1452 => ?_
    · unfold l1448
      refine .step ?_ (upd_linkIn_ideKeys ..)
      exact .refl ..
    refine .have_ (t := l1449) ?_ fun h1453 => ?_
    · unfold l1449
      refine .step ?_ (State.setReg_keeps ..)
      exact h1452
    refine .have_ (t := l1450) ?_ fun h1454 => ?_
    · unfold l1450
      refine .step ?_ (upd_lostHosts ..)
      exact h1453
    refine .step ?_ (State.checkLinks_keeps ..)
    refine .step ?_ (State.commitHdms_keeps ..)
    unfold l1451
    refine .ite (fun _ => ?_) fun _ => ?_
    · refine .step ?_ (State.cxlNote_keeps ..)
      exact h1454
    · exact h1454

theorem opDcAddExtent_keeps (region idx tag hs s) : Keeps 73667947076913259520713493346585432519394538306884662081391138779087731235183993712341224 s (opDcAddExtent region idx tag hs s) := by
  unfold opDcAddExtent
  refine .ite (fun _ => ?_) fun _ => ?_
  · refine .step ?_ (State.fm_keeps ..)
    exact .refl ..
  · split
    · extract_lets l1458
      refine .ite (fun _ => ?_) fun _ => ?_
      · refine .step ?_ (State.fm_keeps ..)
        exact .refl ..
      · refine .step ?_ (State.fm_keeps ..)
        refine .step ?_ (State.tellHosts_keeps ..)
        refine .step ?_ (State.setExtent_keeps ..)
        exact .refl ..
    · refine .ite (fun _ => ?_) fun _ => ?_
      · refine .ite (fun _ => ?_) fun _ => ?_
        · refine .step ?_ (State.fm_keeps ..)
          exact .refl ..
        · refine .step ?_ (State.setExtent_keeps ..)
          refine .step ?_ (upd_released ..)
          exact .refl ..
      · refine .step ?_ (State.fm_keeps ..)
        refine .step ?_ (State.tellHosts_keeps ..)
        refine .step ?_ (State.setExtent_keeps ..)
        exact .refl ..

theorem opDcReleaseComplete_keeps (region idx s) : Keeps 73667947076913259520713493346585432519394538306884662081391138779087722011811956857565416 s (opDcReleaseComplete region idx s) := by
  unfold opDcReleaseComplete
  split
  · refine .ite (fun _ => ?_) fun _ => ?_
    · exact .refl ..
    · refine .ite (fun _ => ?_) fun _ => ?_
      · refine .step ?_ (State.pumpRelease_keeps ..)
        exact .refl ..
      · extract_lets l1459
        refine .have_ (t := l1459) ?_ fun h1460 => ?_
        · unfold l1459
          refine .ite (fun _ => ?_) fun _ => ?_
          · refine .step ?_ (State.zeroExtent_keeps ..)
            exact .refl ..
          · exact .refl ..
        refine .step ?_ (State.tellHosts_keeps ..)
        refine .step ?_ (upd_extents ..)
        exact h1460
  · exact .refl ..

theorem opDrainComplete_keeps (t s) : Keeps 948568795032094272909893509191253185247978990309031029576518842499606954081517568 s (opDrainComplete t s) := by
  unfold opDrainComplete
  refine .ite (fun _ => ?_) fun _ => ?_
  · exact .refl ..
  · extract_lets l1513 l1514
    refine .have_ (t := l1513) ?_ fun h1515 => ?_
    · unfold l1513
      refine .step ?_ (State.toState_keeps ..)
      exact .refl ..
    refine .have_ (t := l1514) ?_ fun h1516 => ?_
    · unfold l1514
      refine .step ?_ (State.startTenant_keeps ..)
      refine .step ?_ (upd_tenantResets ..)
      exact h1515
    refine .ite (fun _ => ?_) fun _ => ?_
    · exact h1515
    · refine .ite (fun _ => ?_) fun _ => ?_
      · exact h1516
      · refine .step ?_ (State.setFld_keeps ..)
        exact h1516

theorem opFlr_keeps (h s) : Keeps 73667947076913259520713493346585432519394538306884662081391297274098372156469259108675816 s (opFlr h s) := by
  unfold opFlr
  extract_lets l1552
  refine .have_ (t := l1552) ?_ fun h1553 => ?_
  · unfold l1552
    refine .step ?_ (State.tdiTo_keeps ..)
    exact .refl ..
  refine .step ?_ (upd_evPolicy_sessions ..)
  exact h1553

theorem opFunctionReset_keeps (s) : Keeps 254629497041810760783555711051172270131433549208241691047150635251966920251472562354188520 s (opFunctionReset s) := by
  unfold opFunctionReset
  extract_lets l1593
  refine .step ?_ (State.clearQueues_keeps ..)
  unfold l1593
  refine .foldl ?_ fun u a => ?_
  · exact .refl ..
  · refine .step ?_ (State.drainTenant_keeps ..)
    exact .refl ..

theorem opFwCommitSvn_keeps (fn s) : Keeps 71614546047409375861393059159237898404795826213242330728761718925321659102953399505711272 s (opFwCommitSvn fn s) := by
  unfold opFwCommitSvn
  refine .trans ?_ (State.operator_keeps (hr := fun t => ?_) ..)
  · exact .refl ..
  · extract_lets l1423
    refine .have_ (t := l1423) ?_ fun h1424 => ?_
    · unfold l1423
      refine .step ?_ (State.raise_keeps ..)
      refine .step ?_ (State.raise_keeps ..)
      exact .refl ..
    refine .step ?_ (State.reply_keeps ..)
    refine .step ?_ (State.keyWrite_keeps ..)
    refine .step ?_ (State.raise_keeps ..)
    exact h1424

theorem opFwQuery_keeps (fn s) : Keeps 71614546043009276470375043733142200974465685714818071311426812672614967569804806076821672 s (opFwQuery fn s) := by
  unfold opFwQuery
  refine .trans ?_ (State.operator_keeps (hr := fun t => ?_) ..)
  · exact .refl ..
  · refine .step ?_ (State.reply_keeps ..)
    exact .refl ..

theorem opFwSelect_keeps (fn s) : Keeps 71614546043240860648849676123989342944483061530524611280758093800693882737820632336101544 s (opFwSelect fn s) := by
  unfold opFwSelect
  refine .trans ?_ (State.operator_keeps (hr := fun t => ?_) ..)
  · exact .refl ..
  · extract_lets l1594
    refine .ite (fun _ => ?_) fun _ => ?_
    · refine .step ?_ (State.reply_keeps ..)
      exact .refl ..
    · refine .ite (fun _ => ?_) fun _ => ?_
      · refine .step ?_ (State.emit_keeps ..)
        exact .refl ..
      · refine .step ?_ (State.reply_keeps ..)
        refine .step ?_ (State.setFld_keeps ..)
        exact .refl ..

theorem opFwStageErase_keeps (fn s) : Keeps 71614546043009276470375043733142200974465685714818071315321035316516088291202678457954472 s (opFwStageErase fn s) := by
  unfold opFwStageErase
  refine .trans ?_ (State.operator_keeps (hr := fun t => ?_) ..)
  · exact .refl ..
  · refine .ite (fun _ => ?_) fun _ => ?_
    · refine .step ?_ (State.reply_keeps ..)
      exact .refl ..
    · refine .trans ?_ (State.background_keeps (hr := fun t => ?_) ..)
      · exact .refl ..
      · refine .step ?_ (State.updStaged_keeps (hf := fun _ _ => rfl) ..)
        exact .refl ..

theorem opFwStageVerify_keeps (fn s) : Keeps 71614546043009276470375043733142200974465685714818071311426812672614967569804806076821672 s (opFwStageVerify fn s) := by
  unfold opFwStageVerify
  refine .trans ?_ (State.operator_keeps (hr := fun t => ?_) ..)
  · exact .refl ..
  · refine .ite (fun _ => ?_) fun _ => ?_
    · refine .step ?_ (State.reply_keeps ..)
      exact .refl ..
    · refine .step ?_ (State.reply_keeps ..)
      exact .refl ..

theorem opFwStageWrite_keeps (fn off bs s) : Keeps 71614546043009276470375043733142200974465685714818071315321035316516088291202678457954472 s (opFwStageWrite fn off bs s) := by
  unfold opFwStageWrite
  refine .trans ?_ (State.operator_keeps (hr := fun t => ?_) ..)
  · exact .refl ..
  · refine .ite (fun _ => ?_) fun _ => ?_
    · refine .step ?_ (State.reply_keeps ..)
      exact .refl ..
    · refine .ite (fun _ => ?_) fun _ => ?_
      · refine .step ?_ (State.reply_keeps ..)
        exact .refl ..
      · refine .trans ?_ (State.background_keeps (hr := fun t => ?_) ..)
        · exact .refl ..
        · refine .step ?_ (State.updStaged_keeps (hf := fun _ h => Memory.wf_write h _ _) ..)
          exact .refl ..

theorem opGetEventRecords_keeps (fn owner log s) : Keeps 8 s (opGetEventRecords fn owner log s) := by
  unfold opGetEventRecords
  refine .ite (fun _ => ?_) fun _ => ?_
  · refine .step ?_ (State.reply_keeps ..)
    exact .refl ..
  · refine .ite (fun _ => ?_) fun _ => ?_
    · refine .step ?_ (State.reply_keeps ..)
      exact .refl ..
    · extract_lets l1631
      refine .step ?_ (State.reply_keeps ..)
      exact .refl ..

theorem opGetHealthInfo_keeps (fn s) : Keeps 71614546043009276470375043733142200974465685714818071311426812672614967569804806076821672 s (opGetHealthInfo fn s) := by
  unfold opGetHealthInfo
  refine .trans ?_ (State.operator_keeps (hr := fun t => ?_) ..)
  · exact .refl ..
  · refine .step ?_ (State.reply_keeps ..)
    exact .refl ..

theorem opGetLog_keeps (fn vendor first n s) : Keeps 8 s (opGetLog fn vendor first n s) := by
  unfold opGetLog
  refine .ite (fun _ => ?_) fun _ => ?_
  · refine .step ?_ (State.reply_keeps ..)
    exact .refl ..
  · refine .ite (fun _ => ?_) fun _ => ?_
    · refine .step ?_ (State.reply_keeps ..)
      exact .refl ..
    · refine .step ?_ (State.reply_keeps ..)
      exact .refl ..

theorem opGetPoisonList_keeps (fn s) : Keeps 71614546043009276470375043733142200974465685714818071311426812672614967569804806076821672 s (opGetPoisonList fn s) := by
  unfold opGetPoisonList
  refine .trans ?_ (State.operator_keeps (hr := fun t => ?_) ..)
  · exact .refl ..
  · refine .step ?_ (State.reply_keeps ..)
    exact .refl ..

theorem opGetTimestamp_keeps (_fn s) : Keeps 8 s (opGetTimestamp _fn s) := by
  unfold opGetTimestamp
  refine .ite (fun _ => ?_) fun _ => ?_
  · refine .step ?_ (State.reply_keeps ..)
    exact .refl ..
  · refine .ite (fun _ => ?_) fun _ => ?_
    · refine .step ?_ (State.reply_keeps ..)
      exact .refl ..
    · refine .step ?_ (State.reply_keeps ..)
      exact .refl ..

theorem opGroupHkey_keeps (n g key s) : Keeps 48169509122723642608497198320800870461784127984910296301338480847519059607027720 s (opGroupHkey n g key s) := by
  unfold opGroupHkey
  refine .step ?_ (State.requestMade_keeps ..)
  exact .refl ..

theorem opHealthGet_keeps (fn s) : Keeps 71614546043009276470375043733142200974465685714818071311426812672614967569804806076821672 s (opHealthGet fn s) := by
  unfold opHealthGet
  refine .trans ?_ (State.operator_keeps (hr := fun t => ?_) ..)
  · exact .refl ..
  · refine .step ?_ (State.reply_keeps ..)
    exact .refl ..

theorem opHostLost_keeps (h byLink s) : Keeps 73672318081920767431828301176247476799240212810740936655586040569105245617922249775446248 s (opHostLost h byLink s) := by
  unfold opHostLost
  split
  · extract_lets l1633
    refine .foldl ?_ fun u a => ?_
    · refine .step ?_ (State.linkLost_keeps ..)
      exact .refl ..
    · refine .step ?_ (State.loseHost_keeps ..)
      exact .refl ..
  · refine .step ?_ (State.loseHost_keeps ..)
    exact .refl ..

theorem opIdeKmKeyProg_keeps (n l stream key s) : Keeps 485667223056432267729865476705879726660601709763034880946778402548840772049653727240 s (opIdeKmKeyProg n l stream key s) := by
  unfold opIdeKmKeyProg
  split
  · refine .ite (fun _ => ?_) fun _ => ?_
    · exact .refl ..
    · extract_lets l1634 l1635
      refine .have_ (t := l1634) ?_ fun h1636 => ?_
      · unfold l1634
        refine .step ?_ (upd_ideKeys ..)
        exact .refl ..
      refine .step ?_ (State.spdm_keeps ..)
      unfold l1635
      refine .ite (fun _ => ?_) fun _ => ?_
      · refine .step ?_ (State.setFld_keeps ..)
        exact h1636
      · exact h1636
  · exact .refl ..

theorem opIdentifyMemoryDevice_keeps (_fn s) : Keeps 8 s (opIdentifyMemoryDevice _fn s) := by
  unfold opIdentifyMemoryDevice
  refine .step ?_ (State.reply_keeps ..)
  exact .refl ..

theorem opJtagInstruction_keeps (op pins cells s) : Keeps 42535295865117307932921825928971026440 s (opJtagInstruction op pins cells s) := by
  unfold opJtagInstruction
  extract_lets l1640
  split
  · refine .step ?_ (State.emit_keeps ..)
    refine .step ?_ (upd_jtag ..)
    exact .refl ..
  · refine .step ?_ (State.emit_keeps ..)
    refine .step ?_ (upd_jtag ..)
    exact .refl ..
  · refine .step ?_ (State.emit_keeps ..)
    refine .step ?_ (upd_jtag ..)
    exact .refl ..
  · refine .step ?_ (State.emit_keeps ..)
    refine .step ?_ (upd_jtag ..)
    exact .refl ..
  · refine .step ?_ (State.emit_keeps ..)
    refine .step ?_ (upd_jtag ..)
    exact .refl ..
  · refine .step ?_ (State.emit_keeps ..)
    refine .step ?_ (upd_jtag ..)
    exact .refl ..
  · refine .step ?_ (State.emit_keeps ..)
    refine .step ?_ (upd_jtag ..)
    exact .refl ..
  · refine .step ?_ (State.emit_keeps ..)
    refine .step ?_ (upd_jtag ..)
    exact .refl ..

theorem opKnownAnswerTest_keeps (i ok s) : Keeps 71614546043068529453539451630019118699414927160063337778720927963493255448884237178040808 s (opKnownAnswerTest i ok s) := by
  unfold opKnownAnswerTest
  refine .ite (fun _ => ?_) fun _ => ?_
  · exact .refl ..
  · refine .step ?_ (State.retireCore_keeps ..)
    exact .refl ..

theorem opLifecycleAdvance_keeps (fn payload s) : Keeps 73667947126124897446572876401603101148086899144524405565464679024706473223740365692006632 s (opLifecycleAdvance fn payload s) := by
  unfold opLifecycleAdvance
  refine .trans ?_ (State.operator_keeps (hr := fun t => ?_) ..)
  · exact .refl ..
  · refine .ite (fun _ => ?_) fun _ => ?_
    · refine .step ?_ (State.reply_keeps ..)
      exact .refl ..
    · extract_lets l1641
      refine .have_ (t := l1641) ?_ fun h1642 => ?_
      · unfold l1641
        refine .step ?_ (State.reply_keeps ..)
        exact .refl ..
      split
      · refine .step ?_ (State.bgDone_keeps ..)
        exact h1642
      · extract_lets l1643
        refine .have_ (t := l1643) ?_ fun h1644 => ?_
        · unfold l1643
          refine .step ?_ (State.advance_keeps ..)
          exact h1642
        refine .ite (fun _ => ?_) fun _ => ?_
        · refine .step ?_ (upd_bg ..)
          exact h1644
        · refine .step ?_ (State.bgDone_keeps ..)
          exact h1644

theorem opLifecycleChallenge_keeps (fn s) : Keeps 71614546043009276470375043733142200974465685714818071311507942311029574251500595081965740 s (opLifecycleChallenge fn s) := by
  unfold opLifecycleChallenge
  refine .trans ?_ (State.operator_keeps (hr := fun t => ?_) ..)
  · exact .refl ..
  · extract_lets l1645
    refine .step ?_ (State.reply_keeps ..)
    refine .step ?_ (State.drawn_keeps ..)
    refine .step ?_ (upd_nonce ..)
    exact .refl ..

theorem opMediaReady_keeps (ms s) : Keeps 71614547999432416224069481609797575941220903730778620366898526180830210749226045881250024 s (opMediaReady ms s) := by
  unfold opMediaReady
  extract_lets l1670 l1671 l1672 l1673 l1674
  refine .have_ (t := l1673) ?_ fun h1675 => ?_
  · unfold l1673
    refine .step ?_ (State.setFld_keeps ..)
    refine .step ?_ (State.setFld_keeps ..)
    unfold l1672
    refine .step ?_ (State.measurePattern_keeps ..)
    refine .step ?_ (State.setFld_keeps ..)
    refine .step ?_ (State.setPower_keeps ..)
    exact .refl ..
  refine .have_ (t := l1674) ?_ fun h1676 => ?_
  · unfold l1674
    refine .ite (fun _ => ?_) fun _ => ?_
    · exact h1675
    · refine .step ?_ (State.recovSync_keeps ..)
      refine .step ?_ (State.setFld_keeps ..)
      exact h1675
  refine .ite (fun _ => ?_) fun _ => ?_
  · exact .refl ..
  · refine .step ?_ (State.mctpEvent_keeps ..)
    refine .step ?_ (State.cxlNote_keeps ..)
    exact h1676

theorem opPanelSwapAbort_keeps (fn w0 s) : Keeps 71614546043009276470375043733142200974465685714926961668841512980923247444182972110008744 s (opPanelSwapAbort fn w0 s) := by
  unfold opPanelSwapAbort
  refine .step ?_ (State.loadCommand_keeps ..)
  exact .refl ..

theorem opPanelSwapActivate_keeps (fn w0 s) : Keeps 71614546043009276470375043733142200974465685714926961668841512980923247444182972110008744 s (opPanelSwapActivate fn w0 s) := by
  unfold opPanelSwapActivate
  refine .step ?_ (State.loadCommand_keeps ..)
  exact .refl ..

theorem opPanelSwapProgramDone_keeps (ok s) : Keeps 71614546091180142531644436141005392653267512812155009896460864543536515184638848227406316 s (opPanelSwapProgramDone ok s) := by
  unfold opPanelSwapProgramDone
  refine .trans ?_ (State.programEnds_keeps (hr := fun t l => ?_) ..)
  · exact .refl ..
  · refine .step ?_ (State.loadDone_keeps ..)
    refine .foldl ?_ fun u a => ?_
    · exact .refl ..
    · refine .step ?_ (State.swapPanel_keeps ..)
      exact .refl ..

theorem opPanelSwapQuery_keeps (fn w0 s) : Keeps 71614546043009276470375043733142200974465685714926961668841512980923247444182972110008744 s (opPanelSwapQuery fn w0 s) := by
  unfold opPanelSwapQuery
  refine .step ?_ (State.loadCommand_keeps ..)
  exact .refl ..

theorem opPanelSwapStage_keeps (fn w0 w1 data s) : Keeps 71614546043009276470375043733142200974465685714926961668841512980923247444182972110008744 s (opPanelSwapStage fn w0 w1 data s) := by
  unfold opPanelSwapStage
  refine .step ?_ (State.loadCommand_keeps ..)
  exact .refl ..

theorem opPatternAbort_keeps (fn w0 s) : Keeps 71614546043009276470375043733142200974465685714926961668841512980923247444182972110008744 s (opPatternAbort fn w0 s) := by
  unfold opPatternAbort
  refine .step ?_ (State.loadCommand_keeps ..)
  exact .refl ..

theorem opPatternActivate_keeps (fn w0 s) : Keeps 71614546043009276470375043733142200974465685714926961668841512980923247444182972110008744 s (opPatternActivate fn w0 s) := by
  unfold opPatternActivate
  refine .step ?_ (State.loadCommand_keeps ..)
  exact .refl ..

theorem opPatternPersistDone_keeps (s) : Keeps 4631683569492647816942839400347516314501026601876168429033758274050183552565248 s (opPatternPersistDone s) := by
  unfold opPatternPersistDone
  split
  · exact .refl ..
  · refine .ite (fun _ => ?_) fun _ => ?_
    · exact .refl ..
    · extract_lets l1700 l1701 l1702
      refine .have_ (t := l1701) ?_ fun h1703 => ?_
      · unfold l1701
        refine .step ?_ (State.setFld_keeps ..)
        refine .step ?_ (State.setFld_keeps ..)
        unfold l1700
        refine .step ?_ (upd_bootA_bootB ..)
        exact .refl ..
      refine .ite (fun _ => ?_) fun _ => ?_
      · refine .step ?_ (State.keyWrite_keeps ..)
        refine .step ?_ (State.raise_keeps ..)
        exact h1703
      · exact h1703

theorem opPatternProgramDone_keeps (ok s) : Keeps 71614606858868574275183794431058325212681554209680317800958908090377642686855192751698412 s (opPatternProgramDone ok s) := by
  unfold opPatternProgramDone
  refine .trans ?_ (State.programEnds_keeps (hr := fun t l => ?_) ..)
  · exact .refl ..
  · refine .step ?_ (State.loadDone_keeps ..)
    refine .step ?_ (State.program_keeps ..)
    refine .foldl ?_ fun u a => ?_
    · exact .refl ..
    · refine .step ?_ (State.installTables_keeps ..)
      exact .refl ..

theorem opPatternQuery_keeps (fn w0 s) : Keeps 71614546043009276470375043733142200974465685714926961668841512980923247444182972110008744 s (opPatternQuery fn w0 s) := by
  unfold opPatternQuery
  refine .step ?_ (State.loadCommand_keeps ..)
  exact .refl ..

theorem opPatternStage_keeps (fn w0 w1 data s) : Keeps 71614546043009276470375043733142200974465685714926961668841512980923247444182972110008744 s (opPatternStage fn w0 w1 data s) := by
  unfold opPatternStage
  refine .step ?_ (State.loadCommand_keeps ..)
  exact .refl ..

theorem opPerstAssert_keeps (s) : Keeps 73672318144911663976928311486870966029480971930918008359420971831393284952435518546704620 s (opPerstAssert s) := by
  unfold opPerstAssert
  split
  · refine .step ?_ (State.setPower_keeps ..)
    refine .step ?_ (State.quiesceAll_keeps ..)
    exact .refl ..
  · refine .step ?_ (State.setPower_keeps ..)
    refine .step ?_ (State.quiesceAll_keeps ..)
    exact .refl ..
  · refine .step ?_ (State.setPower_keeps ..)
    exact .refl ..
  · refine .step ?_ (State.setPower_keeps ..)
    exact .refl ..
  · exact .refl ..

theorem opPlainExtentReady_keeps (idx s) : Keeps 73667947076913259520713493346585432519394538306884662081391138779087722011811956857565416 s (opPlainExtentReady idx s) := by
  unfold opPlainExtentReady
  split
  · refine .ite (fun _ => ?_) fun _ => ?_
    · exact .refl ..
    · refine .step ?_ (State.fm_keeps ..)
      refine .step ?_ (State.tellHosts_keeps ..)
      refine .step ?_ (State.setExtent_keeps ..)
      refine .step ?_ (State.zeroExtent_keeps ..)
      exact .refl ..
  · exact .refl ..

theorem opPlatformEventRead_keeps (s) : Keeps 136 s (opPlatformEventRead s) := by
  unfold opPlatformEventRead
  split
  · exact .refl ..
  · refine .step ?_ (State.emit_keeps ..)
    refine .step ?_ (upd_mctp ..)
    exact .refl ..

theorem opPldmFirmwareUpdate_keeps (phase off bs s) : Keeps 24663410078040431235519857563795464 s (opPldmFirmwareUpdate phase off bs s) := by
  unfold opPldmFirmwareUpdate
  refine .ite (fun _ => ?_) fun _ => ?_
  · refine .ite (fun _ => ?_) fun _ => ?_
    · refine .step ?_ (State.emit_keeps ..)
      exact .refl ..
    · refine .step ?_ (State.emit_keeps ..)
      refine .step ?_ (upd_fwWriter ..)
      exact .refl ..
  · refine .ite (fun _ => ?_) fun _ => ?_
    · refine .step ?_ (State.emit_keeps ..)
      exact .refl ..
    · refine .ite (fun _ => ?_) fun _ => ?_
      · refine .ite (fun _ => ?_) fun _ => ?_
        · refine .step ?_ (State.emit_keeps ..)
          exact .refl ..
        · refine .step ?_ (State.emit_keeps ..)
          refine .step ?_ (State.updStaged_keeps (hf := fun _ h => Memory.wf_write h _ _) ..)
          exact .refl ..
      · refine .step ?_ (State.emit_keeps ..)
        refine .step ?_ (upd_fwWriter ..)
        exact .refl ..

theorem opPowerFailFlush_keeps (us saved whole s) : Keeps 73672318144911663976928311486870966029480971930918008359420971831393284952435518546704620 s (opPowerFailFlush us saved whole s) := by
  unfold opPowerFailFlush
  extract_lets l1714
  split
  · unfold l1714
    refine .step ?_ (State.setPower_keeps ..)
    refine .step ?_ (State.flush_keeps ..)
    exact .refl ..
  · unfold l1714
    refine .step ?_ (State.setPower_keeps ..)
    refine .step ?_ (State.flush_keeps ..)
    exact .refl ..
  · unfold l1714
    refine .step ?_ (State.setPower_keeps ..)
    exact .refl ..

theorem opPowerOn_keeps (s) : Keeps 21267647932558653966460912964485513216 s (opPowerOn s) := by
  unfold opPowerOn
  refine .ite (fun _ => ?_) fun _ => ?_
  · refine .step ?_ (State.setPower_keeps ..)
    exact .refl ..
  · exact .refl ..

theorem opPowerSample_keeps (avg peak hbm cd avs0 avs1 s) : Keeps 71614607047839906971937970250668510831672562394402978022465614592394740369107241014456480 s (opPowerSample avg peak hbm cd avs0 avs1 s) := by
  unfold opPowerSample
  extract_lets l1715 l1716
  refine .have_ (t := l1715) ?_ fun h1717 => ?_
  · unfold l1715
    refine .step ?_ (State.setFld_keeps ..)
    refine .step ?_ (State.setFld_keeps ..)
    refine .step ?_ (State.setFld_keeps ..)
    exact .refl ..
  refine .step ?_ (State.syncClocks_keeps ..)
  refine .step ?_ (State.capStep_keeps ..)
  refine .step ?_ (State.avsRead_keeps ..)
  refine .step ?_ (State.avsRead_keeps ..)
  unfold l1716
  refine .step ?_ (State.setFld_keeps ..)
  exact h1717

theorem opPpsPulse_keeps (s) : Keeps 8 s (opPpsPulse s) := by
  unfold opPpsPulse
  refine .ite (fun _ => ?_) fun _ => ?_
  · refine .step ?_ (State.emit_keeps ..)
    exact .refl ..
  · exact .refl ..

theorem opPqSign_keeps (fn s) : Keeps 48169509122723642608497198320800870461784127984910296301338480847519059607027720 s (opPqSign fn s) := by
  unfold opPqSign
  refine .step ?_ (State.requestMade_keeps ..)
  exact .refl ..

theorem opPtpEventMessage_keeps (m s) : Keeps 15177100720513508366558296147058741458143803451362487942338438417546102692651204618 s (opPtpEventMessage m s) := by
  unfold opPtpEventMessage
  extract_lets l1725
  refine .have_ (t := l1725) ?_ fun h1726 => ?_
  · unfold l1725
    refine .step ?_ (State.emit_keeps ..)
    exact .refl ..
  refine .ite (fun _ => ?_) fun _ => ?_
  · split
    · refine .step ?_ (State.lockWithin_keeps ..)
      refine .step ?_ (State.applyOffset_keeps ..)
      exact h1726
    · exact h1726
  · exact h1726

theorem opPwrFailNDeassert_keeps (s) : Keeps 21267647932558653966460912964485513216 s (opPwrFailNDeassert s) := by
  unfold opPwrFailNDeassert
  refine .ite (fun _ => ?_) fun _ => ?_
  · refine .step ?_ (State.setPower_keeps ..)
    exact .refl ..
  · exact .refl ..

theorem opQpKey_keeps (n q key s) : Keeps 48169509122723642608497198320800870461784127984910296301338480847519059607027720 s (opQpKey n q key s) := by
  unfold opQpKey
  refine .step ?_ (State.requestMade_keeps ..)
  exact .refl ..

theorem opQuietEntry_keeps (idleUs s) : Keeps 59285549689505892056868344324448208820874253416455901346856249472964486861160448 s (opQuietEntry idleUs s) := by
  unfold opQuietEntry
  refine .ite (fun _ => ?_) fun _ => ?_
  · exact .refl ..
  · refine .step ?_ (State.setFld_keeps ..)
    refine .step ?_ (upd_power ..)
    exact .refl ..

theorem opRailLeavesRegulation_keeps (inQuiesce us saved whole s) : Keeps 73672318144911663976928311486870966029480971930918008359420971831393284952435518546704620 s (opRailLeavesRegulation inQuiesce us saved whole s) := by
  unfold opRailLeavesRegulation
  extract_lets l1729
  refine .ite (fun _ => ?_) fun _ => ?_
  · exact .refl ..
  · refine .ite (fun _ => ?_) fun _ => ?_
    · refine .step ?_ (State.flush_keeps ..)
      exact .refl ..
    · refine .step ?_ (State.setPower_keeps ..)
      exact .refl ..

theorem rebuiltLayout_keeps (s) : Keeps 1161084278931456 s (rebuiltLayout s) := by
  unfold rebuiltLayout
  refine .step ?_ (upd_cacheSf_rowN ..)
  exact .refl ..

theorem opRebuildComplete_keeps (s) : Keeps 71615517377459460150547752861590984911325045529608930770862057226715631267684052908437992 s (opRebuildComplete s) := by
  unfold opRebuildComplete
  refine .ite (fun _ => ?_) fun _ => ?_
  · exact .refl ..
  · extract_lets l1741 l1742 l1743 l1744 l1745 l1746
    refine .have_ (t := l1742) ?_ fun h1747 => ?_
    · unfold l1742
      refine .step ?_ (rebuiltLayout_keeps ..)
      exact .refl ..
    refine .have_ (t := l1743) ?_ fun h1748 => ?_
    · unfold l1743
      refine .step ?_ (upd_parity ..)
      exact h1747
    refine .have_ (t := l1744) ?_ fun h1749 => ?_
    · unfold l1744
      refine .step ?_ (State.setFld_keeps ..)
      refine .step ?_ (State.reparity_keeps ..)
      exact h1748
    refine .step ?_ (State.rasEvent_keeps ..)
    refine .step ?_ (State.geoBump_keeps ..)
    unfold l1746
    refine .step ?_ (State.capPlmax_keeps ..)
    refine .step ?_ (State.setPart_keeps ..)
    unfold l1745
    refine .step ?_ (State.setFld_keeps ..)
    refine .step ?_ (State.setFld_keeps ..)
    exact h1749

theorem opRebuildCopyStart_keeps (s) : Keeps 3618502788666131106986593281521497120414687020801267626233049500247285301248 s (opRebuildCopyStart s) := by
  unfold opRebuildCopyStart
  refine .ite (fun _ => ?_) fun _ => ?_
  · refine .step ?_ (State.setFld_keeps ..)
    exact .refl ..
  · exact .refl ..

theorem opRebuildWaitingForSpace_keeps (s) : Keeps 71614546043009276470375043733142200974465685714818071311426812691957780683638872874217704 s (opRebuildWaitingForSpace s) := by
  unfold opRebuildWaitingForSpace
  refine .ite (fun _ => ?_) fun _ => ?_
  · refine .step ?_ (State.rasEvent_keeps ..)
    refine .step ?_ (upd_rebuildWarned ..)
    exact .refl ..
  · exact .refl ..

theorem opRegisterReadClear_keeps (off size s) : Keeps 254629497041810760783555711051172270131433549208241691047150635230834199096372606458197160 s (opRegisterReadClear off size s) := by
  unfold opRegisterReadClear
  refine .ite (fun _ => ?_) fun _ => ?_
  · refine .step ?_ (State.strayBar0_keeps ..)
    exact .refl ..
  · extract_lets l1690
    split
    · unfold l1690
      refine .step ?_ (State.emit_keeps ..)
      exact .refl ..
    · unfold l1690
      refine .step ?_ (State.emit_keeps ..)
      exact .refl ..
    · refine .step ?_ (State.clearRead_keeps ..)
      unfold l1690
      refine .step ?_ (State.emit_keeps ..)
      exact .refl ..
    · refine .step ?_ (State.strayBar0_keeps ..)
      exact .refl ..

theorem opRegisterWrite_keeps (off size v s) : Keeps 254629497041810760783555711051172270131433549208241728514806718833012506245413133476296174 s (opRegisterWrite off size v s) := by
  unfold opRegisterWrite
  refine .ite (fun _ => ?_) fun _ => ?_
  · refine .step ?_ (State.strayBar0_keeps ..)
    exact .refl ..
  · split
    · exact .refl ..
    · exact .refl ..
    · refine .ite (fun _ => ?_) fun _ => ?_
      · refine .step ?_ (State.regWrite_keeps ..)
        exact .refl ..
      · exact .refl ..
    · refine .step ?_ (State.strayBar0_keeps ..)
      exact .refl ..

theorem opRingTimeExchange_keeps (o neighbour s) : Keeps 15177100720513508392886369064198038132623310372280096022062212267683380506228948994 s (opRingTimeExchange o neighbour s) := by
  unfold opRingTimeExchange
  extract_lets l1814 l1815 l1816
  refine .have_ (t := l1816) ?_ fun h1817 => ?_
  · unfold l1816
    refine .step ?_ (State.setFld_keeps ..)
    unfold l1815
    refine .step ?_ (State.setFld_keeps ..)
    exact .refl ..
  refine .ite (fun _ => ?_) fun _ => ?_
  · refine .step ?_ (State.lockWithin_keeps ..)
    refine .step ?_ (State.applyOffset_keeps ..)
    exact h1817
  · exact h1817

theorem opScrubRow_keeps (r s) : Keeps 71614546102350460640256678791716902010688907309065845076315800213650895412798746927755496 s (opScrubRow r s) := by
  unfold opScrubRow
  refine .ite (fun _ => ?_) fun _ => ?_
  · exact .refl ..
  · extract_lets l1818
    refine .have_ (t := l1818) ?_ fun h1819 => ?_
    · unfold l1818
      refine .step ?_ (State.scrubResult_keeps ..)
      exact .refl ..
    split
    · refine .step ?_ (State.setFld_keeps ..)
      refine .step ?_ (State.addFld_keeps ..)
      exact h1819
    · exact h1819

theorem opSealQuery_keeps (n t s) : Keeps 48169509122723642608497198320800870461784127984910296301338480847519059607027720 s (opSealQuery n t s) := by
  unfold opSealQuery
  refine .step ?_ (State.requestMade_keeps ..)
  exact .refl ..

theorem opSelftestDone_keeps (pass s) : Keeps 71614546043043199934018789946599503922863348396153292844622385977593507330390956572733672 s (opSelftestDone pass s) := by
  unfold opSelftestDone
  split
  · exact .refl ..
  · refine .ite (fun _ => ?_) fun _ => ?_
    · extract_lets l1820 l1821 l1822
      refine .have_ (t := l1820) ?_ fun h1823 => ?_
      · unfold l1820
        refine .step ?_ (State.setFld_keeps ..)
        refine .step ?_ (State.setFld_keeps ..)
        exact .refl ..
      refine .have_ (t := l1821) ?_ fun h1824 => ?_
      · unfold l1821
        refine .step ?_ (State.setFld_keeps ..)
        refine .step ?_ (State.setFld_keeps ..)
        exact h1823
      refine .step ?_ (State.rasEventAt_keeps ..)
      refine .step ?_ (State.recovSync_keeps ..)
      unfold l1822
      refine .ite (fun _ => ?_) fun _ => ?_
      · exact h1824
      · refine .step ?_ (State.setPart_keeps ..)
        exact h1824
    · refine .step ?_ (State.loseStack_keeps ..)
      refine .step ?_ (State.rasEventAt_keeps ..)
      exact .refl ..

theorem opSetEventInterruptPolicy_keeps (fn modes s) : Keeps 38685626227668133590597640 s (opSetEventInterruptPolicy fn modes s) := by
  unfold opSetEventInterruptPolicy
  refine .ite (fun _ => ?_) fun _ => ?_
  · refine .step ?_ (State.reply_keeps ..)
    exact .refl ..
  · refine .ite (fun _ => ?_) fun _ => ?_
    · refine .step ?_ (State.reply_keeps ..)
      exact .refl ..
    · extract_lets l1825
      refine .step ?_ (State.reply_keeps ..)
      unfold l1825
      refine .step ?_ (upd_evPolicy ..)
      exact .refl ..

theorem opSetTimestamp_keeps (fn v s) : Keeps 71614576397210717497391776849734495091948602002424931501106832232183869740184262408204456 s (opSetTimestamp fn v s) := by
  unfold opSetTimestamp
  refine .trans ?_ (State.operator_keeps (hr := fun t => ?_) ..)
  · exact .refl ..
  · refine .step ?_ (State.reply_keeps ..)
    refine .step ?_ (State.setReg_keeps ..)
    exact .refl ..

theorem opShredComplete_keeps (t s) : Keeps 18526734277970591267771357601390065278823942745076214127226711156255487606915072 s (opShredComplete t s) := by
  unfold opShredComplete
  refine .ite (fun _ => ?_) fun _ => ?_
  · exact .refl ..
  · refine .step ?_ (State.toState_keeps ..)
    refine .step ?_ (State.clearSeal_keeps ..)
    refine .step ?_ (upd_eraseLists ..)
    exact .refl ..

theorem opSpdmRequest_keeps (fn r s) : Keeps 475368975085586025561263702024 s (opSpdmRequest fn r s) := by
  unfold opSpdmRequest
  split
  · refine .step ?_ (State.spdm_keeps ..)
    exact .refl ..
  · refine .ite (fun _ => ?_) fun _ => ?_
    · refine .step ?_ (State.spdm_keeps ..)
      exact .refl ..
    · exact .refl ..
  · refine .step ?_ (State.signedAnswer_keeps ..)
    exact .refl ..
  · extract_lets l1864
    refine .ite (fun _ => ?_) fun _ => ?_
    · refine .step ?_ (State.signedAnswer_keeps ..)
      exact .refl ..
    · refine .step ?_ (State.spdm_keeps ..)
      exact .refl ..
  · refine .ite (fun _ => ?_) fun _ => ?_
    · exact .refl ..
    · refine .step ?_ (State.spdm_keeps ..)
      refine .step ?_ (upd_sessions ..)
      exact .refl ..
  · refine .ite (fun _ => ?_) fun _ => ?_
    · exact .refl ..
    · extract_lets l1865
      refine .step ?_ (State.emit_keeps ..)
      exact .refl ..
  · refine .ite (fun _ => ?_) fun _ => ?_
    · exact .refl ..
    · refine .step ?_ (State.emit_keeps ..)
      exact .refl ..
  · split
    · refine .ite (fun _ => ?_) fun _ => ?_
      · refine .step ?_ (State.spdm_keeps ..)
        refine .step ?_ (upd_sessions ..)
        exact .refl ..
      · exact .refl ..
    · exact .refl ..

theorem opStackLost_keeps (st cause s) : Keeps 71614546043043199934018789946599503922863348396153292844622385977593507330390956572733672 s (opStackLost st cause s) := by
  unfold opStackLost
  refine .step ?_ (State.loseStack_keeps ..)
  exact .refl ..

theorem opStandbyEntry_keeps (s) : Keeps 59285549689505892056868344324448208820874232148807968788202283012051522375647232 s (opStandbyEntry s) := by
  unfold opStandbyEntry
  refine .ite (fun _ => ?_) fun _ => ?_
  · exact .refl ..
  · refine .step ?_ (State.setFld_keeps ..)
    exact .refl ..

theorem opStandbyExit_keeps (s) : Keeps 59285549689505892056868344324448208820874232148807968788202283012051522375647232 s (opStandbyExit s) := by
  unfold opStandbyExit
  refine .ite (fun _ => ?_) fun _ => ?_
  · refine .step ?_ (State.wake_keeps ..)
    exact .refl ..
  · exact .refl ..

theorem opStartup_keeps (x s) : Keeps 254629497041810760783555711051172270131433549208241733453754574274144689936348717153517550 s (opStartup x s) := by
  unfold opStartup
  extract_lets l1879
  split
  · refine .ite (fun _ => ?_) fun _ => ?_
    · refine .step ?_ (State.setFld_keeps ..)
      refine .step ?_ (State.setPower_keeps ..)
      exact .refl ..
    · refine .step ?_ (State.startUp_keeps ..)
      exact .refl ..
  · refine .ite (fun _ => ?_) fun _ => ?_
    · exact .refl ..
    · refine .step ?_ (State.startUp_keeps ..)
      exact .refl ..
  · exact .refl ..

theorem opStartupRebuildDone_keeps (s) : Keeps 200885645478864175109045561706971129025478801656651838390272 s (opStartupRebuildDone s) := by
  unfold opStartupRebuildDone
  refine .ite (fun _ => ?_) fun _ => ?_
  · refine .step ?_ (State.reclaim_keeps ..)
    refine .step ?_ (State.recovSync_keeps ..)
    refine .step ?_ (State.setFld_keeps ..)
    exact .refl ..
  · exact .refl ..

theorem opStewardHeartbeat_keeps (st alive s) : Keeps 71614546043010633408920794766636612323365327994958693794658957366483940898946956514160872 s (opStewardHeartbeat st alive s) := by
  unfold opStewardHeartbeat
  extract_lets l1890
  refine .ite (fun _ => ?_) fun _ => ?_
  · exact .refl ..
  · refine .ite (fun _ => ?_) fun _ => ?_
    · refine .step ?_ (State.setSteward_keeps ..)
      exact .refl ..
    · refine .ite (fun _ => ?_) fun _ => ?_
      · refine .step ?_ (State.setSteward_keeps ..)
        exact .refl ..
      · refine .step ?_ (State.resetSteward_keeps ..)
        exact .refl ..

theorem opStewardRecovered_keeps (st s) : Keeps 65536 s (opStewardRecovered st s) := by
  unfold opStewardRecovered
  extract_lets l1891
  refine .ite (fun _ => ?_) fun _ => ?_
  · refine .step ?_ (State.setSteward_keeps ..)
    exact .refl ..
  · exact .refl ..

theorem opSuppliesRemoved_keeps (s) : Keeps 59285549689505892057069217709962746091173188026817994431766293643454245039505408 s (opSuppliesRemoved s) := by
  unfold opSuppliesRemoved
  extract_lets l1892 l1893 l1894 l1895
  refine .have_ (t := l1894) ?_ fun h1896 => ?_
  · unfold l1894
    refine .step ?_ (State.stopped_keeps ..)
    refine .step ?_ (State.interrupt_keeps ..)
    exact .refl ..
  refine .ite (fun _ => ?_) fun _ => ?_
  · exact .refl ..
  · refine .step ?_ (upd_replaceN_power ..)
    exact h1896

theorem opSystemReferenceLost_keeps (s) : Keeps 59285549689505892057069217709962746091173177392994028152439310412997762796748804 s (opSystemReferenceLost s) := by
  unfold opSystemReferenceLost
  extract_lets l1897 l1898 l1899 l1900
  refine .have_ (t := l1899) ?_ fun h1901 => ?_
  · unfold l1899
    refine .step ?_ (State.stopped_keeps ..)
    refine .step ?_ (State.interrupt_keeps ..)
    refine .step ?_ (State.drawn_keeps ..)
    exact .refl ..
  refine .ite (fun _ => ?_) fun _ => ?_
  · exact .refl ..
  · refine .step ?_ (State.setPower_keeps ..)
    exact h1901

theorem opTdispRequest_keeps (n req s) : Keeps 73667947076913259520713493346585432519394538306884662081391138779087717400125938430177512 s (opTdispRequest n req s) := by
  unfold opTdispRequest
  split
  · exact .refl ..
  · extract_lets l1908 l1909
    refine .ite (fun _ => ?_) fun _ => ?_
    · refine .step ?_ (State.spdm_keeps ..)
      refine .step ?_ (upd_tdis ..)
      exact .refl ..
    · refine .ite (fun _ => ?_) fun _ => ?_
      · refine .step ?_ (State.spdm_keeps ..)
        refine .step ?_ (upd_tdis ..)
        exact .refl ..
      · refine .ite (fun _ => ?_) fun _ => ?_
        · refine .step ?_ (State.spdm_keeps ..)
          refine .step ?_ (State.tdiTo_keeps ..)
          exact .refl ..
        · refine .ite (fun _ => ?_) fun _ => ?_
          · refine .step ?_ (State.emit_keeps ..)
            exact .refl ..
          · refine .step ?_ (State.spdm_keeps ..)
            exact .refl ..

theorem opTenantKey_keeps (n t key s) : Keeps 48169509122723642608497198320800870461784127984910296301338480847519059607027720 s (opTenantKey n t key s) := by
  unfold opTenantKey
  refine .step ?_ (State.requestMade_keeps ..)
  exact .refl ..

theorem opTenantSeal_keeps (n t ngrp rw key gs s) : Keeps 48169509122723642608497198320800870461784127984910296301338480847519059607027720 s (opTenantSeal n t ngrp rw key gs s) := by
  unfold opTenantSeal
  refine .step ?_ (State.requestMade_keeps ..)
  exact .refl ..

theorem opThermalStep_keeps (cd0 cd1 xd stackTemps s) : Keeps 71614607284982105729961538478141888129465397677899883688514562455405064826641540681101472 s (opThermalStep cd0 cd1 xd stackTemps s) := by
  unfold opThermalStep
  extract_lets l1910 l1911 l1912 l1913 l1914 l1915 l1916
  refine .have_ (t := l1916) ?_ fun h1917 => ?_
  · unfold l1916
    refine .step ?_ (State.syncClocks_keeps ..)
    unfold l1915
    refine .step ?_ (State.setReg_keeps ..)
    exact .refl ..
  refine .ite (fun _ => ?_) fun _ => ?_
  · refine .step ?_ (State.logEv_keeps ..)
    exact h1917
  · exact h1917

theorem opThermalTrip_keeps (die temp s) : Keeps 59285549689505892057069217709962746091173177392994028152439310412997762796748808 s (opThermalTrip die temp s) := by
  unfold opThermalTrip
  extract_lets l1918 l1919 l1920
  refine .have_ (t := l1919) ?_ fun h1921 => ?_
  · unfold l1919
    refine .step ?_ (State.stopped_keeps ..)
    refine .step ?_ (State.interrupt_keeps ..)
    exact .refl ..
  refine .ite (fun _ => ?_) fun _ => ?_
  · exact .refl ..
  · refine .step ?_ (State.emit_keeps ..)
    refine .step ?_ (State.setPower_keeps ..)
    exact h1921

theorem opUnallocatedAccess_keeps (bar2 wr h off size s) : Keeps 71614546043009276470375043733142200974467150070961676662006248504850450739252551357627560 s (opUnallocatedAccess bar2 wr h off size s) := by
  unfold opUnallocatedAccess
  refine .ite (fun _ => ?_) fun _ => ?_
  · refine .ite (fun _ => ?_) fun _ => ?_
    · refine .step ?_ (State.strayBar0_keeps ..)
      exact .refl ..
    · exact .refl ..
  · refine .ite (fun _ => ?_) fun _ => ?_
    · exact .refl ..
    · split
      · refine .step ?_ (State.denyBar2_keeps ..)
        exact .refl ..
      · extract_lets l1922
        refine .have_ (t := l1922) ?_ fun h1923 => ?_
        · unfold l1922
          refine .step ?_ (State.unallocated_keeps ..)
          exact .refl ..
        refine .ite (fun _ => ?_) fun _ => ?_
        · exact h1923
        · refine .step ?_ (State.emit_keeps ..)
          exact h1923

theorem opUnsupportedMailboxCommand_keeps (fn op action s) : Keeps 71614546043009276470375043733142200974465685714818071311426812672614967569804806076821672 s (opUnsupportedMailboxCommand fn op action s) := by
  unfold opUnsupportedMailboxCommand
  refine .ite (fun _ => ?_) fun _ => ?_
  · refine .step ?_ (State.reply_keeps ..)
    exact .refl ..
  · refine .ite (fun _ => ?_) fun _ => ?_
    · refine .step ?_ (State.emit_keeps ..)
      refine .step ?_ (State.logEv_keeps ..)
      exact .refl ..
    · refine .ite (fun _ => ?_) fun _ => ?_
      · refine .trans ?_ (State.operator_keeps (hr := fun t => ?_) ..)
        · exact .refl ..
        · refine .step ?_ (State.reply_keeps ..)
          exact .refl ..
      · refine .step ?_ (State.plainQuery_keeps ..)
        exact .refl ..

theorem opWatchdogExpiry_keeps (s) : Keeps 73672318144911663976928311486870966029480971930918008359420971831393284952435518546704620 s (opWatchdogExpiry s) := by
  unfold opWatchdogExpiry
  split
  · refine .step ?_ (State.setPower_keeps ..)
    refine .step ?_ (State.quiesceAll_keeps ..)
    exact .refl ..
  · refine .step ?_ (State.setPower_keeps ..)
    refine .step ?_ (State.quiesceAll_keeps ..)
    exact .refl ..
  · exact .refl ..

end Sys2Proof.Machine
end

