-- ==== Sys2Proof/Laws/Fields.lean ====
section
/-!
SUPPORT. What the operations that most commands end with (finish, reclaim, a log record, waking the part, a denial, a capsule record) leave unchanged, field by field.
-/

set_option Elab.async false
namespace Sys2Proof.Machine
@[simp] theorem State.finish_pending (s c code r0 r1) : (State.finish s c code r0 r1).pending = s.pending := (State.finish_keeps s c code r0 r1).same .pending (by decide)
@[simp] theorem State.finish_dtime (s c code r0 r1) : (State.finish s c code r0 r1).dtime = s.dtime := (State.finish_keeps s c code r0 r1).same .dtime (by decide)
@[simp] theorem State.finish_freeCtr (s c code r0 r1) : (State.finish s c code r0 r1).freeCtr = s.freeCtr := (State.finish_keeps s c code r0 r1).same .freeCtr (by decide)
@[simp] theorem State.finish_out (s c code r0 r1) : (State.finish s c code r0 r1).out = s.out := (State.finish_keeps s c code r0 r1).same .out (by decide)
@[simp] theorem State.finish_fuses (s c code r0 r1) : (State.finish s c code r0 r1).fuses = s.fuses := (State.finish_keeps s c code r0 r1).same .fuses (by decide)
@[simp] theorem State.finish_log (s c code r0 r1) : (State.finish s c code r0 r1).log = s.log := (State.finish_keeps s c code r0 r1).same .log (by decide)
@[simp] theorem State.finish_events (s c code r0 r1) : (State.finish s c code r0 r1).events = s.events := (State.finish_keeps s c code r0 r1).same .events (by decide)
@[simp] theorem State.finish_mctp (s c code r0 r1) : (State.finish s c code r0 r1).mctp = s.mctp := (State.finish_keeps s c code r0 r1).same .mctp (by decide)
@[simp] theorem State.finish_geoGen (s c code r0 r1) : (State.finish s c code r0 r1).geoGen = s.geoGen := (State.finish_keeps s c code r0 r1).same .geoGen (by decide)
@[simp] theorem State.finish_geoUpd (s c code r0 r1) : (State.finish s c code r0 r1).geoUpd = s.geoUpd := (State.finish_keeps s c code r0 r1).same .geoUpd (by decide)
@[simp] theorem State.finish_uaLogAt (s c code r0 r1) : (State.finish s c code r0 r1).uaLogAt = s.uaLogAt := (State.finish_keeps s c code r0 r1).same .uaLogAt (by decide)
@[simp] theorem State.finish_denyLogAt (s c code r0 r1) : (State.finish s c code r0 r1).denyLogAt = s.denyLogAt := (State.finish_keeps s c code r0 r1).same .denyLogAt (by decide)
@[simp] theorem State.finish_capRecs (s c code r0 r1) : (State.finish s c code r0 r1).capRecs = s.capRecs := (State.finish_keeps s c code r0 r1).same .capRecs (by decide)
@[simp] theorem State.finish_capSnaps (s c code r0 r1) : (State.finish s c code r0 r1).capSnaps = s.capSnaps := (State.finish_keeps s c code r0 r1).same .capSnaps (by decide)
@[simp] theorem State.finish_capFail (s c code r0 r1) : (State.finish s c code r0 r1).capFail = s.capFail := (State.finish_keeps s c code r0 r1).same .capFail (by decide)
@[simp] theorem State.finish_capFatal (s c code r0 r1) : (State.finish s c code r0 r1).capFatal = s.capFatal := (State.finish_keeps s c code r0 r1).same .capFatal (by decide)
@[simp] theorem State.finish_stewards (s c code r0 r1) : (State.finish s c code r0 r1).stewards = s.stewards := (State.finish_keeps s c code r0 r1).same .stewards (by decide)
@[simp] theorem State.finish_reconTimes (s c code r0 r1) : (State.finish s c code r0 r1).reconTimes = s.reconTimes := (State.finish_keeps s c code r0 r1).same .reconTimes (by decide)
@[simp] theorem State.finish_reconLog (s c code r0 r1) : (State.finish s c code r0 r1).reconLog = s.reconLog := (State.finish_keeps s c code r0 r1).same .reconLog (by decide)
@[simp] theorem State.finish_preTest (s c code r0 r1) : (State.finish s c code r0 r1).preTest = s.preTest := (State.finish_keeps s c code r0 r1).same .preTest (by decide)
@[simp] theorem State.finish_rebuildAt (s c code r0 r1) : (State.finish s c code r0 r1).rebuildAt = s.rebuildAt := (State.finish_keeps s c code r0 r1).same .rebuildAt (by decide)
@[simp] theorem State.finish_rebuildWarned (s c code r0 r1) : (State.finish s c code r0 r1).rebuildWarned = s.rebuildWarned := (State.finish_keeps s c code r0 r1).same .rebuildWarned (by decide)
@[simp] theorem State.finish_staging (s c code r0 r1) : (State.finish s c code r0 r1).staging = s.staging := (State.finish_keeps s c code r0 r1).same .staging (by decide)
@[simp] theorem State.finish_pattern (s c code r0 r1) : (State.finish s c code r0 r1).pattern = s.pattern := (State.finish_keeps s c code r0 r1).same .pattern (by decide)
@[simp] theorem State.finish_bootA (s c code r0 r1) : (State.finish s c code r0 r1).bootA = s.bootA := (State.finish_keeps s c code r0 r1).same .bootA (by decide)
@[simp] theorem State.finish_bootB (s c code r0 r1) : (State.finish s c code r0 r1).bootB = s.bootB := (State.finish_keeps s c code r0 r1).same .bootB (by decide)
@[simp] theorem State.finish_load (s c code r0 r1) : (State.finish s c code r0 r1).load = s.load := (State.finish_keeps s c code r0 r1).same .load (by decide)
@[simp] theorem State.finish_bg (s c code r0 r1) : (State.finish s c code r0 r1).bg = s.bg := (State.finish_keeps s c code r0 r1).same .bg (by decide)
@[simp] theorem State.finish_cores (s c code r0 r1) : (State.finish s c code r0 r1).cores = s.cores := (State.finish_keeps s c code r0 r1).same .cores (by decide)
@[simp] theorem State.finish_geom (s c code r0 r1) : (State.finish s c code r0 r1).geom = s.geom := (State.finish_keeps s c code r0 r1).same .geom (by decide)
@[simp] theorem State.finish_buckets (s c code r0 r1) : (State.finish s c code r0 r1).buckets = s.buckets := (State.finish_keeps s c code r0 r1).same .buckets (by decide)
@[simp] theorem State.finish_wheels (s c code r0 r1) : (State.finish s c code r0 r1).wheels = s.wheels := (State.finish_keeps s c code r0 r1).same .wheels (by decide)
@[simp] theorem State.finish_devLevels (s c code r0 r1) : (State.finish s c code r0 r1).devLevels = s.devLevels := (State.finish_keeps s c code r0 r1).same .devLevels (by decide)
@[simp] theorem State.finish_spools (s c code r0 r1) : (State.finish s c code r0 r1).spools = s.spools := (State.finish_keeps s c code r0 r1).same .spools (by decide)
@[simp] theorem State.finish_rotor (s c code r0 r1) : (State.finish s c code r0 r1).rotor = s.rotor := (State.finish_keeps s c code r0 r1).same .rotor (by decide)
@[simp] theorem State.finish_nextUid (s c code r0 r1) : (State.finish s c code r0 r1).nextUid = s.nextUid := (State.finish_keeps s c code r0 r1).same .nextUid (by decide)
@[simp] theorem State.finish_chunks (s c code r0 r1) : (State.finish s c code r0 r1).chunks = s.chunks := (State.finish_keeps s c code r0 r1).same .chunks (by decide)
@[simp] theorem State.finish_seqs (s c code r0 r1) : (State.finish s c code r0 r1).seqs = s.seqs := (State.finish_keeps s c code r0 r1).same .seqs (by decide)
@[simp] theorem State.finish_pins (s c code r0 r1) : (State.finish s c code r0 r1).pins = s.pins := (State.finish_keeps s c code r0 r1).same .pins (by decide)
@[simp] theorem State.finish_nsKeys (s c code r0 r1) : (State.finish s c code r0 r1).nsKeys = s.nsKeys := (State.finish_keeps s c code r0 r1).same .nsKeys (by decide)
@[simp] theorem State.finish_frames (s c code r0 r1) : (State.finish s c code r0 r1).frames = s.frames := (State.finish_keeps s c code r0 r1).same .frames (by decide)
@[simp] theorem State.finish_epochs (s c code r0 r1) : (State.finish s c code r0 r1).epochs = s.epochs := (State.finish_keeps s c code r0 r1).same .epochs (by decide)
@[simp] theorem State.finish_images (s c code r0 r1) : (State.finish s c code r0 r1).images = s.images := (State.finish_keeps s c code r0 r1).same .images (by decide)
@[simp] theorem State.finish_cacheSf (s c code r0 r1) : (State.finish s c code r0 r1).cacheSf = s.cacheSf := (State.finish_keeps s c code r0 r1).same .cacheSf (by decide)
@[simp] theorem State.finish_metaSf (s c code r0 r1) : (State.finish s c code r0 r1).metaSf = s.metaSf := (State.finish_keeps s c code r0 r1).same .metaSf (by decide)
@[simp] theorem State.finish_parity (s c code r0 r1) : (State.finish s c code r0 r1).parity = s.parity := (State.finish_keeps s c code r0 r1).same .parity (by decide)
@[simp] theorem State.finish_dropPaused (s c code r0 r1) : (State.finish s c code r0 r1).dropPaused = s.dropPaused := (State.finish_keeps s c code r0 r1).same .dropPaused (by decide)
@[simp] theorem State.finish_outRem (s c code r0 r1) : (State.finish s c code r0 r1).outRem = s.outRem := (State.finish_keeps s c code r0 r1).same .outRem (by decide)
@[simp] theorem State.finish_rowN (s c code r0 r1) : (State.finish s c code r0 r1).rowN = s.rowN := (State.finish_keeps s c code r0 r1).same .rowN (by decide)
@[simp] theorem State.finish_gens (s c code r0 r1) : (State.finish s c code r0 r1).gens = s.gens := (State.finish_keeps s c code r0 r1).same .gens (by decide)
@[simp] theorem State.finish_viewCache (s c code r0 r1) : (State.finish s c code r0 r1).viewCache = s.viewCache := (State.finish_keeps s c code r0 r1).same .viewCache (by decide)
@[simp] theorem State.finish_histPages (s c code r0 r1) : (State.finish s c code r0 r1).histPages = s.histPages := (State.finish_keeps s c code r0 r1).same .histPages (by decide)
@[simp] theorem State.finish_viewSlots (s c code r0 r1) : (State.finish s c code r0 r1).viewSlots = s.viewSlots := (State.finish_keeps s c code r0 r1).same .viewSlots (by decide)
@[simp] theorem State.finish_viewWaits (s c code r0 r1) : (State.finish s c code r0 r1).viewWaits = s.viewWaits := (State.finish_keeps s c code r0 r1).same .viewWaits (by decide)
@[simp] theorem State.finish_pbase (s c code r0 r1) : (State.finish s c code r0 r1).pbase = s.pbase := (State.finish_keeps s c code r0 r1).same .pbase (by decide)
@[simp] theorem State.finish_syncAt (s c code r0 r1) : (State.finish s c code r0 r1).syncAt = s.syncAt := (State.finish_keeps s c code r0 r1).same .syncAt (by decide)
@[simp] theorem State.finish_plainMem (s c code r0 r1) : (State.finish s c code r0 r1).plainMem = s.plainMem := (State.finish_keeps s c code r0 r1).same .plainMem (by decide)
@[simp] theorem State.finish_poisonLines (s c code r0 r1) : (State.finish s c code r0 r1).poisonLines = s.poisonLines := (State.finish_keeps s c code r0 r1).same .poisonLines (by decide)
@[simp] theorem State.finish_orphanLines (s c code r0 r1) : (State.finish s c code r0 r1).orphanLines = s.orphanLines := (State.finish_keeps s c code r0 r1).same .orphanLines (by decide)
@[simp] theorem State.finish_orphanLog (s c code r0 r1) : (State.finish s c code r0 r1).orphanLog = s.orphanLog := (State.finish_keeps s c code r0 r1).same .orphanLog (by decide)
@[simp] theorem State.finish_extents (s c code r0 r1) : (State.finish s c code r0 r1).extents = s.extents := (State.finish_keeps s c code r0 r1).same .extents (by decide)
@[simp] theorem State.finish_released (s c code r0 r1) : (State.finish s c code r0 r1).released = s.released := (State.finish_keeps s c code r0 r1).same .released (by decide)
@[simp] theorem State.finish_snoopFilter (s c code r0 r1) : (State.finish s c code r0 r1).snoopFilter = s.snoopFilter := (State.finish_keeps s c code r0 r1).same .snoopFilter (by decide)
@[simp] theorem State.finish_snoops (s c code r0 r1) : (State.finish s c code r0 r1).snoops = s.snoops := (State.finish_keeps s c code r0 r1).same .snoops (by decide)
@[simp] theorem State.finish_lineQ (s c code r0 r1) : (State.finish s c code r0 r1).lineQ = s.lineQ := (State.finish_keeps s c code r0 r1).same .lineQ (by decide)
@[simp] theorem State.finish_lostHosts (s c code r0 r1) : (State.finish s c code r0 r1).lostHosts = s.lostHosts := (State.finish_keeps s c code r0 r1).same .lostHosts (by decide)
@[simp] theorem State.finish_unbackedLogAt (s c code r0 r1) : (State.finish s c code r0 r1).unbackedLogAt = s.unbackedLogAt := (State.finish_keeps s c code r0 r1).same .unbackedLogAt (by decide)
@[simp] theorem State.finish_curLog (s c code r0 r1) : (State.finish s c code r0 r1).curLog = s.curLog := (State.finish_keeps s c code r0 r1).same .curLog (by decide)
@[simp] theorem State.finish_rlinks (s c code r0 r1) : (State.finish s c code r0 r1).rlinks = s.rlinks := (State.finish_keeps s c code r0 r1).same .rlinks (by decide)
@[simp] theorem State.finish_ringOut (s c code r0 r1) : (State.finish s c code r0 r1).ringOut = s.ringOut := (State.finish_keeps s c code r0 r1).same .ringOut (by decide)
@[simp] theorem State.finish_rctx (s c code r0 r1) : (State.finish s c code r0 r1).rctx = s.rctx := (State.finish_keeps s c code r0 r1).same .rctx (by decide)
@[simp] theorem State.finish_ringHeld (s c code r0 r1) : (State.finish s c code r0 r1).ringHeld = s.ringHeld := (State.finish_keeps s c code r0 r1).same .ringHeld (by decide)
@[simp] theorem State.finish_camReqs (s c code r0 r1) : (State.finish s c code r0 r1).camReqs = s.camReqs := (State.finish_keeps s c code r0 r1).same .camReqs (by decide)
@[simp] theorem State.finish_gws (s c code r0 r1) : (State.finish s c code r0 r1).gws = s.gws := (State.finish_keeps s c code r0 r1).same .gws (by decide)
@[simp] theorem State.finish_qps (s c code r0 r1) : (State.finish s c code r0 r1).qps = s.qps := (State.finish_keeps s c code r0 r1).same .qps (by decide)
@[simp] theorem State.finish_qpKeys (s c code r0 r1) : (State.finish s c code r0 r1).qpKeys = s.qpKeys := (State.finish_keeps s c code r0 r1).same .qpKeys (by decide)
@[simp] theorem State.finish_shOut (s c code r0 r1) : (State.finish s c code r0 r1).shOut = s.shOut := (State.finish_keeps s c code r0 r1).same .shOut (by decide)
@[simp] theorem State.finish_pfcUntil (s c code r0 r1) : (State.finish s c code r0 r1).pfcUntil = s.pfcUntil := (State.finish_keeps s c code r0 r1).same .pfcUntil (by decide)
@[simp] theorem State.finish_atsCache (s c code r0 r1) : (State.finish s c code r0 r1).atsCache = s.atsCache := (State.finish_keeps s c code r0 r1).same .atsCache (by decide)
@[simp] theorem State.finish_orphanPend (s c code r0 r1) : (State.finish s c code r0 r1).orphanPend = s.orphanPend := (State.finish_keeps s c code r0 r1).same .orphanPend (by decide)
@[simp] theorem State.finish_linkIn (s c code r0 r1) : (State.finish s c code r0 r1).linkIn = s.linkIn := (State.finish_keeps s c code r0 r1).same .linkIn (by decide)
@[simp] theorem State.finish_hdm (s c code r0 r1) : (State.finish s c code r0 r1).hdm = s.hdm := (State.finish_keeps s c code r0 r1).same .hdm (by decide)
@[simp] theorem State.finish_evLost (s c code r0 r1) : (State.finish s c code r0 r1).evLost = s.evLost := (State.finish_keeps s c code r0 r1).same .evLost (by decide)
@[simp] theorem State.finish_evPolicy (s c code r0 r1) : (State.finish s c code r0 r1).evPolicy = s.evPolicy := (State.finish_keeps s c code r0 r1).same .evPolicy (by decide)
@[simp] theorem State.finish_flash (s c code r0 r1) : (State.finish s c code r0 r1).flash = s.flash := (State.finish_keeps s c code r0 r1).same .flash (by decide)
@[simp] theorem State.finish_units (s c code r0 r1) : (State.finish s c code r0 r1).units = s.units := (State.finish_keeps s c code r0 r1).same .units (by decide)
@[simp] theorem State.finish_streams (s c code r0 r1) : (State.finish s c code r0 r1).streams = s.streams := (State.finish_keeps s c code r0 r1).same .streams (by decide)
@[simp] theorem State.finish_eraseLists (s c code r0 r1) : (State.finish s c code r0 r1).eraseLists = s.eraseLists := (State.finish_keeps s c code r0 r1).same .eraseLists (by decide)
@[simp] theorem State.finish_victims (s c code r0 r1) : (State.finish s c code r0 r1).victims = s.victims := (State.finish_keeps s c code r0 r1).same .victims (by decide)
@[simp] theorem State.finish_journalUnit (s c code r0 r1) : (State.finish s c code r0 r1).journalUnit = s.journalUnit := (State.finish_keeps s c code r0 r1).same .journalUnit (by decide)
@[simp] theorem State.finish_slcTarget (s c code r0 r1) : (State.finish s c code r0 r1).slcTarget = s.slcTarget := (State.finish_keeps s c code r0 r1).same .slcTarget (by decide)
@[simp] theorem State.finish_checkpointAt (s c code r0 r1) : (State.finish s c code r0 r1).checkpointAt = s.checkpointAt := (State.finish_keeps s c code r0 r1).same .checkpointAt (by decide)
@[simp] theorem State.finish_copiedCw (s c code r0 r1) : (State.finish s c code r0 r1).copiedCw = s.copiedCw := (State.finish_keeps s c code r0 r1).same .copiedCw (by decide)
@[simp] theorem State.finish_saved (s c code r0 r1) : (State.finish s c code r0 r1).saved = s.saved := (State.finish_keeps s c code r0 r1).same .saved (by decide)
@[simp] theorem State.finish_tdis (s c code r0 r1) : (State.finish s c code r0 r1).tdis = s.tdis := (State.finish_keeps s c code r0 r1).same .tdis (by decide)
@[simp] theorem State.finish_sessions (s c code r0 r1) : (State.finish s c code r0 r1).sessions = s.sessions := (State.finish_keeps s c code r0 r1).same .sessions (by decide)
@[simp] theorem State.finish_signed (s c code r0 r1) : (State.finish s c code r0 r1).signed = s.signed := (State.finish_keeps s c code r0 r1).same .signed (by decide)
@[simp] theorem State.finish_ideKeys (s c code r0 r1) : (State.finish s c code r0 r1).ideKeys = s.ideKeys := (State.finish_keeps s c code r0 r1).same .ideKeys (by decide)
@[simp] theorem State.finish_dataKeys (s c code r0 r1) : (State.finish s c code r0 r1).dataKeys = s.dataKeys := (State.finish_keeps s c code r0 r1).same .dataKeys (by decide)
@[simp] theorem State.finish_sealReq (s c code r0 r1) : (State.finish s c code r0 r1).sealReq = s.sealReq := (State.finish_keeps s c code r0 r1).same .sealReq (by decide)
@[simp] theorem State.finish_memKey (s c code r0 r1) : (State.finish s c code r0 r1).memKey = s.memKey := (State.finish_keeps s c code r0 r1).same .memKey (by decide)
@[simp] theorem State.finish_serial (s c code r0 r1) : (State.finish s c code r0 r1).serial = s.serial := (State.finish_keeps s c code r0 r1).same .serial (by decide)
@[simp] theorem State.finish_serialTop (s c code r0 r1) : (State.finish s c code r0 r1).serialTop = s.serialTop := (State.finish_keeps s c code r0 r1).same .serialTop (by decide)
@[simp] theorem State.finish_keyRows (s c code r0 r1) : (State.finish s c code r0 r1).keyRows = s.keyRows := (State.finish_keeps s c code r0 r1).same .keyRows (by decide)
@[simp] theorem State.finish_nonce (s c code r0 r1) : (State.finish s c code r0 r1).nonce = s.nonce := (State.finish_keeps s c code r0 r1).same .nonce (by decide)
@[simp] theorem State.finish_deviceCerts (s c code r0 r1) : (State.finish s c code r0 r1).deviceCerts = s.deviceCerts := (State.finish_keeps s c code r0 r1).same .deviceCerts (by decide)
@[simp] theorem State.finish_ownerCerts (s c code r0 r1) : (State.finish s c code r0 r1).ownerCerts = s.ownerCerts := (State.finish_keeps s c code r0 r1).same .ownerCerts (by decide)
@[simp] theorem State.finish_lcTarget (s c code r0 r1) : (State.finish s c code r0 r1).lcTarget = s.lcTarget := (State.finish_keeps s c code r0 r1).same .lcTarget (by decide)
@[simp] theorem State.finish_slotA (s c code r0 r1) : (State.finish s c code r0 r1).slotA = s.slotA := (State.finish_keeps s c code r0 r1).same .slotA (by decide)
@[simp] theorem State.finish_slotB (s c code r0 r1) : (State.finish s c code r0 r1).slotB = s.slotB := (State.finish_keeps s c code r0 r1).same .slotB (by decide)
@[simp] theorem State.finish_fwRun (s c code r0 r1) : (State.finish s c code r0 r1).fwRun = s.fwRun := (State.finish_keeps s c code r0 r1).same .fwRun (by decide)
@[simp] theorem State.finish_measured (s c code r0 r1) : (State.finish s c code r0 r1).measured = s.measured := (State.finish_keeps s c code r0 r1).same .measured (by decide)
@[simp] theorem State.finish_fwWriter (s c code r0 r1) : (State.finish s c code r0 r1).fwWriter = s.fwWriter := (State.finish_keeps s c code r0 r1).same .fwWriter (by decide)
@[simp] theorem State.finish_calib (s c code r0 r1) : (State.finish s c code r0 r1).calib = s.calib := (State.finish_keeps s c code r0 r1).same .calib (by decide)
@[simp] theorem State.finish_heldActs (s c code r0 r1) : (State.finish s c code r0 r1).heldActs = s.heldActs := (State.finish_keeps s c code r0 r1).same .heldActs (by decide)
@[simp] theorem State.finish_tenantResets (s c code r0 r1) : (State.finish s c code r0 r1).tenantResets = s.tenantResets := (State.finish_keeps s c code r0 r1).same .tenantResets (by decide)
@[simp] theorem State.finish_capDown (s c code r0 r1) : (State.finish s c code r0 r1).capDown = s.capDown := (State.finish_keeps s c code r0 r1).same .capDown (by decide)
@[simp] theorem State.finish_ecoDown (s c code r0 r1) : (State.finish s c code r0 r1).ecoDown = s.ecoDown := (State.finish_keeps s c code r0 r1).same .ecoDown (by decide)
@[simp] theorem State.finish_avsMiss (s c code r0 r1) : (State.finish s c code r0 r1).avsMiss = s.avsMiss := (State.finish_keeps s c code r0 r1).same .avsMiss (by decide)
@[simp] theorem State.finish_lastSlow (s c code r0 r1) : (State.finish s c code r0 r1).lastSlow = s.lastSlow := (State.finish_keeps s c code r0 r1).same .lastSlow (by decide)
@[simp] theorem State.finish_keyRepl (s c code r0 r1) : (State.finish s c code r0 r1).keyRepl = s.keyRepl := (State.finish_keeps s c code r0 r1).same .keyRepl (by decide)
@[simp] theorem State.finish_replaceN (s c code r0 r1) : (State.finish s c code r0 r1).replaceN = s.replaceN := (State.finish_keeps s c code r0 r1).same .replaceN (by decide)
@[simp] theorem State.finish_power (s c code r0 r1) : (State.finish s c code r0 r1).power = s.power := (State.finish_keeps s c code r0 r1).same .power (by decide)
@[simp] theorem State.finish_jtag (s c code r0 r1) : (State.finish s c code r0 r1).jtag = s.jtag := (State.finish_keeps s c code r0 r1).same .jtag (by decide)
theorem State.finish_reg (s c code r0 r1) (k : RegKind) (i : Nat) (hk : Nat.testBit 2854495385411919762116571938898990358664839168 (128 + k.ctorIdx) = false) : (State.finish s c code r0 r1).reg k i = s.reg k i := (State.finish_keeps s c code r0 r1).same (.reg k) hk i
theorem State.finish_fld (s c code r0 r1) (f : Field) (i : Nat) (hk : Nat.testBit 2854495385411919762116571938898990358664839168 (128 + f.reg.ctorIdx) = false) : (State.finish s c code r0 r1).fld f i = s.fld f i := by rw [State.fld, State.finish_reg s c code r0 r1 _ _ hk, State.fld]
@[simp] theorem State.reclaim_pending (s) : (State.reclaim s).pending = s.pending := (State.reclaim_keeps s).same .pending (by decide)
@[simp] theorem State.reclaim_dtime (s) : (State.reclaim s).dtime = s.dtime := (State.reclaim_keeps s).same .dtime (by decide)
@[simp] theorem State.reclaim_freeCtr (s) : (State.reclaim s).freeCtr = s.freeCtr := (State.reclaim_keeps s).same .freeCtr (by decide)
@[simp] theorem State.reclaim_out (s) : (State.reclaim s).out = s.out := (State.reclaim_keeps s).same .out (by decide)
@[simp] theorem State.reclaim_fuses (s) : (State.reclaim s).fuses = s.fuses := (State.reclaim_keeps s).same .fuses (by decide)
@[simp] theorem State.reclaim_log (s) : (State.reclaim s).log = s.log := (State.reclaim_keeps s).same .log (by decide)
@[simp] theorem State.reclaim_events (s) : (State.reclaim s).events = s.events := (State.reclaim_keeps s).same .events (by decide)
@[simp] theorem State.reclaim_mctp (s) : (State.reclaim s).mctp = s.mctp := (State.reclaim_keeps s).same .mctp (by decide)
@[simp] theorem State.reclaim_geoGen (s) : (State.reclaim s).geoGen = s.geoGen := (State.reclaim_keeps s).same .geoGen (by decide)
@[simp] theorem State.reclaim_geoUpd (s) : (State.reclaim s).geoUpd = s.geoUpd := (State.reclaim_keeps s).same .geoUpd (by decide)
@[simp] theorem State.reclaim_uaLogAt (s) : (State.reclaim s).uaLogAt = s.uaLogAt := (State.reclaim_keeps s).same .uaLogAt (by decide)
@[simp] theorem State.reclaim_denyLogAt (s) : (State.reclaim s).denyLogAt = s.denyLogAt := (State.reclaim_keeps s).same .denyLogAt (by decide)
@[simp] theorem State.reclaim_capRecs (s) : (State.reclaim s).capRecs = s.capRecs := (State.reclaim_keeps s).same .capRecs (by decide)
@[simp] theorem State.reclaim_capSnaps (s) : (State.reclaim s).capSnaps = s.capSnaps := (State.reclaim_keeps s).same .capSnaps (by decide)
@[simp] theorem State.reclaim_capFail (s) : (State.reclaim s).capFail = s.capFail := (State.reclaim_keeps s).same .capFail (by decide)
@[simp] theorem State.reclaim_capFatal (s) : (State.reclaim s).capFatal = s.capFatal := (State.reclaim_keeps s).same .capFatal (by decide)
@[simp] theorem State.reclaim_stewards (s) : (State.reclaim s).stewards = s.stewards := (State.reclaim_keeps s).same .stewards (by decide)
@[simp] theorem State.reclaim_reconTimes (s) : (State.reclaim s).reconTimes = s.reconTimes := (State.reclaim_keeps s).same .reconTimes (by decide)
@[simp] theorem State.reclaim_reconLog (s) : (State.reclaim s).reconLog = s.reconLog := (State.reclaim_keeps s).same .reconLog (by decide)
@[simp] theorem State.reclaim_preTest (s) : (State.reclaim s).preTest = s.preTest := (State.reclaim_keeps s).same .preTest (by decide)
@[simp] theorem State.reclaim_rebuildAt (s) : (State.reclaim s).rebuildAt = s.rebuildAt := (State.reclaim_keeps s).same .rebuildAt (by decide)
@[simp] theorem State.reclaim_rebuildWarned (s) : (State.reclaim s).rebuildWarned = s.rebuildWarned := (State.reclaim_keeps s).same .rebuildWarned (by decide)
@[simp] theorem State.reclaim_staging (s) : (State.reclaim s).staging = s.staging := (State.reclaim_keeps s).same .staging (by decide)
@[simp] theorem State.reclaim_pattern (s) : (State.reclaim s).pattern = s.pattern := (State.reclaim_keeps s).same .pattern (by decide)
@[simp] theorem State.reclaim_bootA (s) : (State.reclaim s).bootA = s.bootA := (State.reclaim_keeps s).same .bootA (by decide)
@[simp] theorem State.reclaim_bootB (s) : (State.reclaim s).bootB = s.bootB := (State.reclaim_keeps s).same .bootB (by decide)
@[simp] theorem State.reclaim_load (s) : (State.reclaim s).load = s.load := (State.reclaim_keeps s).same .load (by decide)
@[simp] theorem State.reclaim_bg (s) : (State.reclaim s).bg = s.bg := (State.reclaim_keeps s).same .bg (by decide)
@[simp] theorem State.reclaim_cores (s) : (State.reclaim s).cores = s.cores := (State.reclaim_keeps s).same .cores (by decide)
@[simp] theorem State.reclaim_buckets (s) : (State.reclaim s).buckets = s.buckets := (State.reclaim_keeps s).same .buckets (by decide)
@[simp] theorem State.reclaim_wheels (s) : (State.reclaim s).wheels = s.wheels := (State.reclaim_keeps s).same .wheels (by decide)
@[simp] theorem State.reclaim_devLevels (s) : (State.reclaim s).devLevels = s.devLevels := (State.reclaim_keeps s).same .devLevels (by decide)
@[simp] theorem State.reclaim_spools (s) : (State.reclaim s).spools = s.spools := (State.reclaim_keeps s).same .spools (by decide)
@[simp] theorem State.reclaim_comps (s) : (State.reclaim s).comps = s.comps := (State.reclaim_keeps s).same .comps (by decide)
@[simp] theorem State.reclaim_rotor (s) : (State.reclaim s).rotor = s.rotor := (State.reclaim_keeps s).same .rotor (by decide)
@[simp] theorem State.reclaim_inflight (s) : (State.reclaim s).inflight = s.inflight := (State.reclaim_keeps s).same .inflight (by decide)
@[simp] theorem State.reclaim_nextUid (s) : (State.reclaim s).nextUid = s.nextUid := (State.reclaim_keeps s).same .nextUid (by decide)
@[simp] theorem State.reclaim_seqs (s) : (State.reclaim s).seqs = s.seqs := (State.reclaim_keeps s).same .seqs (by decide)
@[simp] theorem State.reclaim_pins (s) : (State.reclaim s).pins = s.pins := (State.reclaim_keeps s).same .pins (by decide)
@[simp] theorem State.reclaim_nsKeys (s) : (State.reclaim s).nsKeys = s.nsKeys := (State.reclaim_keeps s).same .nsKeys (by decide)
@[simp] theorem State.reclaim_cacheSf (s) : (State.reclaim s).cacheSf = s.cacheSf := (State.reclaim_keeps s).same .cacheSf (by decide)
@[simp] theorem State.reclaim_metaSf (s) : (State.reclaim s).metaSf = s.metaSf := (State.reclaim_keeps s).same .metaSf (by decide)
@[simp] theorem State.reclaim_parity (s) : (State.reclaim s).parity = s.parity := (State.reclaim_keeps s).same .parity (by decide)
@[simp] theorem State.reclaim_outRem (s) : (State.reclaim s).outRem = s.outRem := (State.reclaim_keeps s).same .outRem (by decide)
@[simp] theorem State.reclaim_rowN (s) : (State.reclaim s).rowN = s.rowN := (State.reclaim_keeps s).same .rowN (by decide)
@[simp] theorem State.reclaim_viewCache (s) : (State.reclaim s).viewCache = s.viewCache := (State.reclaim_keeps s).same .viewCache (by decide)
@[simp] theorem State.reclaim_histPages (s) : (State.reclaim s).histPages = s.histPages := (State.reclaim_keeps s).same .histPages (by decide)
@[simp] theorem State.reclaim_viewSlots (s) : (State.reclaim s).viewSlots = s.viewSlots := (State.reclaim_keeps s).same .viewSlots (by decide)
@[simp] theorem State.reclaim_viewWaits (s) : (State.reclaim s).viewWaits = s.viewWaits := (State.reclaim_keeps s).same .viewWaits (by decide)
@[simp] theorem State.reclaim_pbase (s) : (State.reclaim s).pbase = s.pbase := (State.reclaim_keeps s).same .pbase (by decide)
@[simp] theorem State.reclaim_syncAt (s) : (State.reclaim s).syncAt = s.syncAt := (State.reclaim_keeps s).same .syncAt (by decide)
@[simp] theorem State.reclaim_plainMem (s) : (State.reclaim s).plainMem = s.plainMem := (State.reclaim_keeps s).same .plainMem (by decide)
@[simp] theorem State.reclaim_poisonLines (s) : (State.reclaim s).poisonLines = s.poisonLines := (State.reclaim_keeps s).same .poisonLines (by decide)
@[simp] theorem State.reclaim_orphanLines (s) : (State.reclaim s).orphanLines = s.orphanLines := (State.reclaim_keeps s).same .orphanLines (by decide)
@[simp] theorem State.reclaim_orphanLog (s) : (State.reclaim s).orphanLog = s.orphanLog := (State.reclaim_keeps s).same .orphanLog (by decide)
@[simp] theorem State.reclaim_extents (s) : (State.reclaim s).extents = s.extents := (State.reclaim_keeps s).same .extents (by decide)
@[simp] theorem State.reclaim_released (s) : (State.reclaim s).released = s.released := (State.reclaim_keeps s).same .released (by decide)
@[simp] theorem State.reclaim_snoopFilter (s) : (State.reclaim s).snoopFilter = s.snoopFilter := (State.reclaim_keeps s).same .snoopFilter (by decide)
@[simp] theorem State.reclaim_snoops (s) : (State.reclaim s).snoops = s.snoops := (State.reclaim_keeps s).same .snoops (by decide)
@[simp] theorem State.reclaim_lineQ (s) : (State.reclaim s).lineQ = s.lineQ := (State.reclaim_keeps s).same .lineQ (by decide)
@[simp] theorem State.reclaim_lostHosts (s) : (State.reclaim s).lostHosts = s.lostHosts := (State.reclaim_keeps s).same .lostHosts (by decide)
@[simp] theorem State.reclaim_unbackedLogAt (s) : (State.reclaim s).unbackedLogAt = s.unbackedLogAt := (State.reclaim_keeps s).same .unbackedLogAt (by decide)
@[simp] theorem State.reclaim_curLog (s) : (State.reclaim s).curLog = s.curLog := (State.reclaim_keeps s).same .curLog (by decide)
@[simp] theorem State.reclaim_rlinks (s) : (State.reclaim s).rlinks = s.rlinks := (State.reclaim_keeps s).same .rlinks (by decide)
@[simp] theorem State.reclaim_ringOut (s) : (State.reclaim s).ringOut = s.ringOut := (State.reclaim_keeps s).same .ringOut (by decide)
@[simp] theorem State.reclaim_rctx (s) : (State.reclaim s).rctx = s.rctx := (State.reclaim_keeps s).same .rctx (by decide)
@[simp] theorem State.reclaim_ringHeld (s) : (State.reclaim s).ringHeld = s.ringHeld := (State.reclaim_keeps s).same .ringHeld (by decide)
@[simp] theorem State.reclaim_camReqs (s) : (State.reclaim s).camReqs = s.camReqs := (State.reclaim_keeps s).same .camReqs (by decide)
@[simp] theorem State.reclaim_gws (s) : (State.reclaim s).gws = s.gws := (State.reclaim_keeps s).same .gws (by decide)
@[simp] theorem State.reclaim_qps (s) : (State.reclaim s).qps = s.qps := (State.reclaim_keeps s).same .qps (by decide)
@[simp] theorem State.reclaim_qpKeys (s) : (State.reclaim s).qpKeys = s.qpKeys := (State.reclaim_keeps s).same .qpKeys (by decide)
@[simp] theorem State.reclaim_shOut (s) : (State.reclaim s).shOut = s.shOut := (State.reclaim_keeps s).same .shOut (by decide)
@[simp] theorem State.reclaim_pfcUntil (s) : (State.reclaim s).pfcUntil = s.pfcUntil := (State.reclaim_keeps s).same .pfcUntil (by decide)
@[simp] theorem State.reclaim_atsCache (s) : (State.reclaim s).atsCache = s.atsCache := (State.reclaim_keeps s).same .atsCache (by decide)
@[simp] theorem State.reclaim_orphanPend (s) : (State.reclaim s).orphanPend = s.orphanPend := (State.reclaim_keeps s).same .orphanPend (by decide)
@[simp] theorem State.reclaim_linkIn (s) : (State.reclaim s).linkIn = s.linkIn := (State.reclaim_keeps s).same .linkIn (by decide)
@[simp] theorem State.reclaim_hdm (s) : (State.reclaim s).hdm = s.hdm := (State.reclaim_keeps s).same .hdm (by decide)
@[simp] theorem State.reclaim_evLost (s) : (State.reclaim s).evLost = s.evLost := (State.reclaim_keeps s).same .evLost (by decide)
@[simp] theorem State.reclaim_evPolicy (s) : (State.reclaim s).evPolicy = s.evPolicy := (State.reclaim_keeps s).same .evPolicy (by decide)
@[simp] theorem State.reclaim_flash (s) : (State.reclaim s).flash = s.flash := (State.reclaim_keeps s).same .flash (by decide)
@[simp] theorem State.reclaim_units (s) : (State.reclaim s).units = s.units := (State.reclaim_keeps s).same .units (by decide)
@[simp] theorem State.reclaim_streams (s) : (State.reclaim s).streams = s.streams := (State.reclaim_keeps s).same .streams (by decide)
@[simp] theorem State.reclaim_eraseLists (s) : (State.reclaim s).eraseLists = s.eraseLists := (State.reclaim_keeps s).same .eraseLists (by decide)
@[simp] theorem State.reclaim_victims (s) : (State.reclaim s).victims = s.victims := (State.reclaim_keeps s).same .victims (by decide)
@[simp] theorem State.reclaim_journalUnit (s) : (State.reclaim s).journalUnit = s.journalUnit := (State.reclaim_keeps s).same .journalUnit (by decide)
@[simp] theorem State.reclaim_slcTarget (s) : (State.reclaim s).slcTarget = s.slcTarget := (State.reclaim_keeps s).same .slcTarget (by decide)
@[simp] theorem State.reclaim_checkpointAt (s) : (State.reclaim s).checkpointAt = s.checkpointAt := (State.reclaim_keeps s).same .checkpointAt (by decide)
@[simp] theorem State.reclaim_copiedCw (s) : (State.reclaim s).copiedCw = s.copiedCw := (State.reclaim_keeps s).same .copiedCw (by decide)
@[simp] theorem State.reclaim_saved (s) : (State.reclaim s).saved = s.saved := (State.reclaim_keeps s).same .saved (by decide)
@[simp] theorem State.reclaim_tdis (s) : (State.reclaim s).tdis = s.tdis := (State.reclaim_keeps s).same .tdis (by decide)
@[simp] theorem State.reclaim_sessions (s) : (State.reclaim s).sessions = s.sessions := (State.reclaim_keeps s).same .sessions (by decide)
@[simp] theorem State.reclaim_signed (s) : (State.reclaim s).signed = s.signed := (State.reclaim_keeps s).same .signed (by decide)
@[simp] theorem State.reclaim_ideKeys (s) : (State.reclaim s).ideKeys = s.ideKeys := (State.reclaim_keeps s).same .ideKeys (by decide)
@[simp] theorem State.reclaim_dataKeys (s) : (State.reclaim s).dataKeys = s.dataKeys := (State.reclaim_keeps s).same .dataKeys (by decide)
@[simp] theorem State.reclaim_sealReq (s) : (State.reclaim s).sealReq = s.sealReq := (State.reclaim_keeps s).same .sealReq (by decide)
@[simp] theorem State.reclaim_memKey (s) : (State.reclaim s).memKey = s.memKey := (State.reclaim_keeps s).same .memKey (by decide)
@[simp] theorem State.reclaim_serial (s) : (State.reclaim s).serial = s.serial := (State.reclaim_keeps s).same .serial (by decide)
@[simp] theorem State.reclaim_serialTop (s) : (State.reclaim s).serialTop = s.serialTop := (State.reclaim_keeps s).same .serialTop (by decide)
@[simp] theorem State.reclaim_keyRows (s) : (State.reclaim s).keyRows = s.keyRows := (State.reclaim_keeps s).same .keyRows (by decide)
@[simp] theorem State.reclaim_nonce (s) : (State.reclaim s).nonce = s.nonce := (State.reclaim_keeps s).same .nonce (by decide)
@[simp] theorem State.reclaim_deviceCerts (s) : (State.reclaim s).deviceCerts = s.deviceCerts := (State.reclaim_keeps s).same .deviceCerts (by decide)
@[simp] theorem State.reclaim_ownerCerts (s) : (State.reclaim s).ownerCerts = s.ownerCerts := (State.reclaim_keeps s).same .ownerCerts (by decide)
@[simp] theorem State.reclaim_lcTarget (s) : (State.reclaim s).lcTarget = s.lcTarget := (State.reclaim_keeps s).same .lcTarget (by decide)
@[simp] theorem State.reclaim_slotA (s) : (State.reclaim s).slotA = s.slotA := (State.reclaim_keeps s).same .slotA (by decide)
@[simp] theorem State.reclaim_slotB (s) : (State.reclaim s).slotB = s.slotB := (State.reclaim_keeps s).same .slotB (by decide)
@[simp] theorem State.reclaim_fwRun (s) : (State.reclaim s).fwRun = s.fwRun := (State.reclaim_keeps s).same .fwRun (by decide)
@[simp] theorem State.reclaim_measured (s) : (State.reclaim s).measured = s.measured := (State.reclaim_keeps s).same .measured (by decide)
@[simp] theorem State.reclaim_fwWriter (s) : (State.reclaim s).fwWriter = s.fwWriter := (State.reclaim_keeps s).same .fwWriter (by decide)
@[simp] theorem State.reclaim_calib (s) : (State.reclaim s).calib = s.calib := (State.reclaim_keeps s).same .calib (by decide)
@[simp] theorem State.reclaim_heldActs (s) : (State.reclaim s).heldActs = s.heldActs := (State.reclaim_keeps s).same .heldActs (by decide)
@[simp] theorem State.reclaim_tenantResets (s) : (State.reclaim s).tenantResets = s.tenantResets := (State.reclaim_keeps s).same .tenantResets (by decide)
@[simp] theorem State.reclaim_capDown (s) : (State.reclaim s).capDown = s.capDown := (State.reclaim_keeps s).same .capDown (by decide)
@[simp] theorem State.reclaim_ecoDown (s) : (State.reclaim s).ecoDown = s.ecoDown := (State.reclaim_keeps s).same .ecoDown (by decide)
@[simp] theorem State.reclaim_avsMiss (s) : (State.reclaim s).avsMiss = s.avsMiss := (State.reclaim_keeps s).same .avsMiss (by decide)
@[simp] theorem State.reclaim_lastSlow (s) : (State.reclaim s).lastSlow = s.lastSlow := (State.reclaim_keeps s).same .lastSlow (by decide)
@[simp] theorem State.reclaim_keyRepl (s) : (State.reclaim s).keyRepl = s.keyRepl := (State.reclaim_keeps s).same .keyRepl (by decide)
@[simp] theorem State.reclaim_replaceN (s) : (State.reclaim s).replaceN = s.replaceN := (State.reclaim_keeps s).same .replaceN (by decide)
@[simp] theorem State.reclaim_power (s) : (State.reclaim s).power = s.power := (State.reclaim_keeps s).same .power (by decide)
@[simp] theorem State.reclaim_jtag (s) : (State.reclaim s).jtag = s.jtag := (State.reclaim_keeps s).same .jtag (by decide)
theorem State.reclaim_reg (s) (k : RegKind) (i : Nat) (hk : Nat.testBit 200873385514537247998178694930753926552009851743674369572864 (128 + k.ctorIdx) = false) : (State.reclaim s).reg k i = s.reg k i := (State.reclaim_keeps s).same (.reg k) hk i
theorem State.reclaim_fld (s) (f : Field) (i : Nat) (hk : Nat.testBit 200873385514537247998178694930753926552009851743674369572864 (128 + f.reg.ctorIdx) = false) : (State.reclaim s).fld f i = s.fld f i := by rw [State.fld, State.reclaim_reg s _ _ hk, State.fld]
@[simp] theorem State.logEv_pending (s code sev island tenant a0 a1) : (State.logEv s code sev island tenant a0 a1).pending = s.pending := (State.logEv_keeps s code sev island tenant a0 a1).same .pending (by decide)
@[simp] theorem State.logEv_dtime (s code sev island tenant a0 a1) : (State.logEv s code sev island tenant a0 a1).dtime = s.dtime := (State.logEv_keeps s code sev island tenant a0 a1).same .dtime (by decide)
@[simp] theorem State.logEv_freeCtr (s code sev island tenant a0 a1) : (State.logEv s code sev island tenant a0 a1).freeCtr = s.freeCtr := (State.logEv_keeps s code sev island tenant a0 a1).same .freeCtr (by decide)
@[simp] theorem State.logEv_out (s code sev island tenant a0 a1) : (State.logEv s code sev island tenant a0 a1).out = s.out := (State.logEv_keeps s code sev island tenant a0 a1).same .out (by decide)
@[simp] theorem State.logEv_fuses (s code sev island tenant a0 a1) : (State.logEv s code sev island tenant a0 a1).fuses = s.fuses := (State.logEv_keeps s code sev island tenant a0 a1).same .fuses (by decide)
@[simp] theorem State.logEv_events (s code sev island tenant a0 a1) : (State.logEv s code sev island tenant a0 a1).events = s.events := (State.logEv_keeps s code sev island tenant a0 a1).same .events (by decide)
@[simp] theorem State.logEv_geoGen (s code sev island tenant a0 a1) : (State.logEv s code sev island tenant a0 a1).geoGen = s.geoGen := (State.logEv_keeps s code sev island tenant a0 a1).same .geoGen (by decide)
@[simp] theorem State.logEv_geoUpd (s code sev island tenant a0 a1) : (State.logEv s code sev island tenant a0 a1).geoUpd = s.geoUpd := (State.logEv_keeps s code sev island tenant a0 a1).same .geoUpd (by decide)
@[simp] theorem State.logEv_uaLogAt (s code sev island tenant a0 a1) : (State.logEv s code sev island tenant a0 a1).uaLogAt = s.uaLogAt := (State.logEv_keeps s code sev island tenant a0 a1).same .uaLogAt (by decide)
@[simp] theorem State.logEv_denyLogAt (s code sev island tenant a0 a1) : (State.logEv s code sev island tenant a0 a1).denyLogAt = s.denyLogAt := (State.logEv_keeps s code sev island tenant a0 a1).same .denyLogAt (by decide)
@[simp] theorem State.logEv_stewards (s code sev island tenant a0 a1) : (State.logEv s code sev island tenant a0 a1).stewards = s.stewards := (State.logEv_keeps s code sev island tenant a0 a1).same .stewards (by decide)
@[simp] theorem State.logEv_reconTimes (s code sev island tenant a0 a1) : (State.logEv s code sev island tenant a0 a1).reconTimes = s.reconTimes := (State.logEv_keeps s code sev island tenant a0 a1).same .reconTimes (by decide)
@[simp] theorem State.logEv_reconLog (s code sev island tenant a0 a1) : (State.logEv s code sev island tenant a0 a1).reconLog = s.reconLog := (State.logEv_keeps s code sev island tenant a0 a1).same .reconLog (by decide)
@[simp] theorem State.logEv_preTest (s code sev island tenant a0 a1) : (State.logEv s code sev island tenant a0 a1).preTest = s.preTest := (State.logEv_keeps s code sev island tenant a0 a1).same .preTest (by decide)
@[simp] theorem State.logEv_rebuildAt (s code sev island tenant a0 a1) : (State.logEv s code sev island tenant a0 a1).rebuildAt = s.rebuildAt := (State.logEv_keeps s code sev island tenant a0 a1).same .rebuildAt (by decide)
@[simp] theorem State.logEv_rebuildWarned (s code sev island tenant a0 a1) : (State.logEv s code sev island tenant a0 a1).rebuildWarned = s.rebuildWarned := (State.logEv_keeps s code sev island tenant a0 a1).same .rebuildWarned (by decide)
@[simp] theorem State.logEv_staging (s code sev island tenant a0 a1) : (State.logEv s code sev island tenant a0 a1).staging = s.staging := (State.logEv_keeps s code sev island tenant a0 a1).same .staging (by decide)
@[simp] theorem State.logEv_pattern (s code sev island tenant a0 a1) : (State.logEv s code sev island tenant a0 a1).pattern = s.pattern := (State.logEv_keeps s code sev island tenant a0 a1).same .pattern (by decide)
@[simp] theorem State.logEv_bootA (s code sev island tenant a0 a1) : (State.logEv s code sev island tenant a0 a1).bootA = s.bootA := (State.logEv_keeps s code sev island tenant a0 a1).same .bootA (by decide)
@[simp] theorem State.logEv_bootB (s code sev island tenant a0 a1) : (State.logEv s code sev island tenant a0 a1).bootB = s.bootB := (State.logEv_keeps s code sev island tenant a0 a1).same .bootB (by decide)
@[simp] theorem State.logEv_load (s code sev island tenant a0 a1) : (State.logEv s code sev island tenant a0 a1).load = s.load := (State.logEv_keeps s code sev island tenant a0 a1).same .load (by decide)
@[simp] theorem State.logEv_bg (s code sev island tenant a0 a1) : (State.logEv s code sev island tenant a0 a1).bg = s.bg := (State.logEv_keeps s code sev island tenant a0 a1).same .bg (by decide)
@[simp] theorem State.logEv_cores (s code sev island tenant a0 a1) : (State.logEv s code sev island tenant a0 a1).cores = s.cores := (State.logEv_keeps s code sev island tenant a0 a1).same .cores (by decide)
@[simp] theorem State.logEv_geom (s code sev island tenant a0 a1) : (State.logEv s code sev island tenant a0 a1).geom = s.geom := (State.logEv_keeps s code sev island tenant a0 a1).same .geom (by decide)
@[simp] theorem State.logEv_buckets (s code sev island tenant a0 a1) : (State.logEv s code sev island tenant a0 a1).buckets = s.buckets := (State.logEv_keeps s code sev island tenant a0 a1).same .buckets (by decide)
@[simp] theorem State.logEv_wheels (s code sev island tenant a0 a1) : (State.logEv s code sev island tenant a0 a1).wheels = s.wheels := (State.logEv_keeps s code sev island tenant a0 a1).same .wheels (by decide)
@[simp] theorem State.logEv_devLevels (s code sev island tenant a0 a1) : (State.logEv s code sev island tenant a0 a1).devLevels = s.devLevels := (State.logEv_keeps s code sev island tenant a0 a1).same .devLevels (by decide)
@[simp] theorem State.logEv_spools (s code sev island tenant a0 a1) : (State.logEv s code sev island tenant a0 a1).spools = s.spools := (State.logEv_keeps s code sev island tenant a0 a1).same .spools (by decide)
@[simp] theorem State.logEv_comps (s code sev island tenant a0 a1) : (State.logEv s code sev island tenant a0 a1).comps = s.comps := (State.logEv_keeps s code sev island tenant a0 a1).same .comps (by decide)
@[simp] theorem State.logEv_rotor (s code sev island tenant a0 a1) : (State.logEv s code sev island tenant a0 a1).rotor = s.rotor := (State.logEv_keeps s code sev island tenant a0 a1).same .rotor (by decide)
@[simp] theorem State.logEv_inflight (s code sev island tenant a0 a1) : (State.logEv s code sev island tenant a0 a1).inflight = s.inflight := (State.logEv_keeps s code sev island tenant a0 a1).same .inflight (by decide)
@[simp] theorem State.logEv_nextUid (s code sev island tenant a0 a1) : (State.logEv s code sev island tenant a0 a1).nextUid = s.nextUid := (State.logEv_keeps s code sev island tenant a0 a1).same .nextUid (by decide)
@[simp] theorem State.logEv_chunks (s code sev island tenant a0 a1) : (State.logEv s code sev island tenant a0 a1).chunks = s.chunks := (State.logEv_keeps s code sev island tenant a0 a1).same .chunks (by decide)
@[simp] theorem State.logEv_seqs (s code sev island tenant a0 a1) : (State.logEv s code sev island tenant a0 a1).seqs = s.seqs := (State.logEv_keeps s code sev island tenant a0 a1).same .seqs (by decide)
@[simp] theorem State.logEv_pins (s code sev island tenant a0 a1) : (State.logEv s code sev island tenant a0 a1).pins = s.pins := (State.logEv_keeps s code sev island tenant a0 a1).same .pins (by decide)
@[simp] theorem State.logEv_nsKeys (s code sev island tenant a0 a1) : (State.logEv s code sev island tenant a0 a1).nsKeys = s.nsKeys := (State.logEv_keeps s code sev island tenant a0 a1).same .nsKeys (by decide)
@[simp] theorem State.logEv_frames (s code sev island tenant a0 a1) : (State.logEv s code sev island tenant a0 a1).frames = s.frames := (State.logEv_keeps s code sev island tenant a0 a1).same .frames (by decide)
@[simp] theorem State.logEv_epochs (s code sev island tenant a0 a1) : (State.logEv s code sev island tenant a0 a1).epochs = s.epochs := (State.logEv_keeps s code sev island tenant a0 a1).same .epochs (by decide)
@[simp] theorem State.logEv_images (s code sev island tenant a0 a1) : (State.logEv s code sev island tenant a0 a1).images = s.images := (State.logEv_keeps s code sev island tenant a0 a1).same .images (by decide)
@[simp] theorem State.logEv_cacheSf (s code sev island tenant a0 a1) : (State.logEv s code sev island tenant a0 a1).cacheSf = s.cacheSf := (State.logEv_keeps s code sev island tenant a0 a1).same .cacheSf (by decide)
@[simp] theorem State.logEv_metaSf (s code sev island tenant a0 a1) : (State.logEv s code sev island tenant a0 a1).metaSf = s.metaSf := (State.logEv_keeps s code sev island tenant a0 a1).same .metaSf (by decide)
@[simp] theorem State.logEv_parity (s code sev island tenant a0 a1) : (State.logEv s code sev island tenant a0 a1).parity = s.parity := (State.logEv_keeps s code sev island tenant a0 a1).same .parity (by decide)
@[simp] theorem State.logEv_dropPaused (s code sev island tenant a0 a1) : (State.logEv s code sev island tenant a0 a1).dropPaused = s.dropPaused := (State.logEv_keeps s code sev island tenant a0 a1).same .dropPaused (by decide)
@[simp] theorem State.logEv_outRem (s code sev island tenant a0 a1) : (State.logEv s code sev island tenant a0 a1).outRem = s.outRem := (State.logEv_keeps s code sev island tenant a0 a1).same .outRem (by decide)
@[simp] theorem State.logEv_rowN (s code sev island tenant a0 a1) : (State.logEv s code sev island tenant a0 a1).rowN = s.rowN := (State.logEv_keeps s code sev island tenant a0 a1).same .rowN (by decide)
@[simp] theorem State.logEv_gens (s code sev island tenant a0 a1) : (State.logEv s code sev island tenant a0 a1).gens = s.gens := (State.logEv_keeps s code sev island tenant a0 a1).same .gens (by decide)
@[simp] theorem State.logEv_viewCache (s code sev island tenant a0 a1) : (State.logEv s code sev island tenant a0 a1).viewCache = s.viewCache := (State.logEv_keeps s code sev island tenant a0 a1).same .viewCache (by decide)
@[simp] theorem State.logEv_histPages (s code sev island tenant a0 a1) : (State.logEv s code sev island tenant a0 a1).histPages = s.histPages := (State.logEv_keeps s code sev island tenant a0 a1).same .histPages (by decide)
@[simp] theorem State.logEv_viewSlots (s code sev island tenant a0 a1) : (State.logEv s code sev island tenant a0 a1).viewSlots = s.viewSlots := (State.logEv_keeps s code sev island tenant a0 a1).same .viewSlots (by decide)
@[simp] theorem State.logEv_viewWaits (s code sev island tenant a0 a1) : (State.logEv s code sev island tenant a0 a1).viewWaits = s.viewWaits := (State.logEv_keeps s code sev island tenant a0 a1).same .viewWaits (by decide)
@[simp] theorem State.logEv_pbase (s code sev island tenant a0 a1) : (State.logEv s code sev island tenant a0 a1).pbase = s.pbase := (State.logEv_keeps s code sev island tenant a0 a1).same .pbase (by decide)
@[simp] theorem State.logEv_syncAt (s code sev island tenant a0 a1) : (State.logEv s code sev island tenant a0 a1).syncAt = s.syncAt := (State.logEv_keeps s code sev island tenant a0 a1).same .syncAt (by decide)
@[simp] theorem State.logEv_plainMem (s code sev island tenant a0 a1) : (State.logEv s code sev island tenant a0 a1).plainMem = s.plainMem := (State.logEv_keeps s code sev island tenant a0 a1).same .plainMem (by decide)
@[simp] theorem State.logEv_poisonLines (s code sev island tenant a0 a1) : (State.logEv s code sev island tenant a0 a1).poisonLines = s.poisonLines := (State.logEv_keeps s code sev island tenant a0 a1).same .poisonLines (by decide)
@[simp] theorem State.logEv_orphanLines (s code sev island tenant a0 a1) : (State.logEv s code sev island tenant a0 a1).orphanLines = s.orphanLines := (State.logEv_keeps s code sev island tenant a0 a1).same .orphanLines (by decide)
@[simp] theorem State.logEv_orphanLog (s code sev island tenant a0 a1) : (State.logEv s code sev island tenant a0 a1).orphanLog = s.orphanLog := (State.logEv_keeps s code sev island tenant a0 a1).same .orphanLog (by decide)
@[simp] theorem State.logEv_extents (s code sev island tenant a0 a1) : (State.logEv s code sev island tenant a0 a1).extents = s.extents := (State.logEv_keeps s code sev island tenant a0 a1).same .extents (by decide)
@[simp] theorem State.logEv_released (s code sev island tenant a0 a1) : (State.logEv s code sev island tenant a0 a1).released = s.released := (State.logEv_keeps s code sev island tenant a0 a1).same .released (by decide)
@[simp] theorem State.logEv_snoopFilter (s code sev island tenant a0 a1) : (State.logEv s code sev island tenant a0 a1).snoopFilter = s.snoopFilter := (State.logEv_keeps s code sev island tenant a0 a1).same .snoopFilter (by decide)
@[simp] theorem State.logEv_snoops (s code sev island tenant a0 a1) : (State.logEv s code sev island tenant a0 a1).snoops = s.snoops := (State.logEv_keeps s code sev island tenant a0 a1).same .snoops (by decide)
@[simp] theorem State.logEv_lineQ (s code sev island tenant a0 a1) : (State.logEv s code sev island tenant a0 a1).lineQ = s.lineQ := (State.logEv_keeps s code sev island tenant a0 a1).same .lineQ (by decide)
@[simp] theorem State.logEv_lostHosts (s code sev island tenant a0 a1) : (State.logEv s code sev island tenant a0 a1).lostHosts = s.lostHosts := (State.logEv_keeps s code sev island tenant a0 a1).same .lostHosts (by decide)
@[simp] theorem State.logEv_unbackedLogAt (s code sev island tenant a0 a1) : (State.logEv s code sev island tenant a0 a1).unbackedLogAt = s.unbackedLogAt := (State.logEv_keeps s code sev island tenant a0 a1).same .unbackedLogAt (by decide)
@[simp] theorem State.logEv_curLog (s code sev island tenant a0 a1) : (State.logEv s code sev island tenant a0 a1).curLog = s.curLog := (State.logEv_keeps s code sev island tenant a0 a1).same .curLog (by decide)
@[simp] theorem State.logEv_rlinks (s code sev island tenant a0 a1) : (State.logEv s code sev island tenant a0 a1).rlinks = s.rlinks := (State.logEv_keeps s code sev island tenant a0 a1).same .rlinks (by decide)
@[simp] theorem State.logEv_ringOut (s code sev island tenant a0 a1) : (State.logEv s code sev island tenant a0 a1).ringOut = s.ringOut := (State.logEv_keeps s code sev island tenant a0 a1).same .ringOut (by decide)
@[simp] theorem State.logEv_rctx (s code sev island tenant a0 a1) : (State.logEv s code sev island tenant a0 a1).rctx = s.rctx := (State.logEv_keeps s code sev island tenant a0 a1).same .rctx (by decide)
@[simp] theorem State.logEv_ringHeld (s code sev island tenant a0 a1) : (State.logEv s code sev island tenant a0 a1).ringHeld = s.ringHeld := (State.logEv_keeps s code sev island tenant a0 a1).same .ringHeld (by decide)
@[simp] theorem State.logEv_camReqs (s code sev island tenant a0 a1) : (State.logEv s code sev island tenant a0 a1).camReqs = s.camReqs := (State.logEv_keeps s code sev island tenant a0 a1).same .camReqs (by decide)
@[simp] theorem State.logEv_gws (s code sev island tenant a0 a1) : (State.logEv s code sev island tenant a0 a1).gws = s.gws := (State.logEv_keeps s code sev island tenant a0 a1).same .gws (by decide)
@[simp] theorem State.logEv_qps (s code sev island tenant a0 a1) : (State.logEv s code sev island tenant a0 a1).qps = s.qps := (State.logEv_keeps s code sev island tenant a0 a1).same .qps (by decide)
@[simp] theorem State.logEv_qpKeys (s code sev island tenant a0 a1) : (State.logEv s code sev island tenant a0 a1).qpKeys = s.qpKeys := (State.logEv_keeps s code sev island tenant a0 a1).same .qpKeys (by decide)
@[simp] theorem State.logEv_shOut (s code sev island tenant a0 a1) : (State.logEv s code sev island tenant a0 a1).shOut = s.shOut := (State.logEv_keeps s code sev island tenant a0 a1).same .shOut (by decide)
@[simp] theorem State.logEv_pfcUntil (s code sev island tenant a0 a1) : (State.logEv s code sev island tenant a0 a1).pfcUntil = s.pfcUntil := (State.logEv_keeps s code sev island tenant a0 a1).same .pfcUntil (by decide)
@[simp] theorem State.logEv_atsCache (s code sev island tenant a0 a1) : (State.logEv s code sev island tenant a0 a1).atsCache = s.atsCache := (State.logEv_keeps s code sev island tenant a0 a1).same .atsCache (by decide)
@[simp] theorem State.logEv_orphanPend (s code sev island tenant a0 a1) : (State.logEv s code sev island tenant a0 a1).orphanPend = s.orphanPend := (State.logEv_keeps s code sev island tenant a0 a1).same .orphanPend (by decide)
@[simp] theorem State.logEv_linkIn (s code sev island tenant a0 a1) : (State.logEv s code sev island tenant a0 a1).linkIn = s.linkIn := (State.logEv_keeps s code sev island tenant a0 a1).same .linkIn (by decide)
@[simp] theorem State.logEv_hdm (s code sev island tenant a0 a1) : (State.logEv s code sev island tenant a0 a1).hdm = s.hdm := (State.logEv_keeps s code sev island tenant a0 a1).same .hdm (by decide)
@[simp] theorem State.logEv_evLost (s code sev island tenant a0 a1) : (State.logEv s code sev island tenant a0 a1).evLost = s.evLost := (State.logEv_keeps s code sev island tenant a0 a1).same .evLost (by decide)
@[simp] theorem State.logEv_evPolicy (s code sev island tenant a0 a1) : (State.logEv s code sev island tenant a0 a1).evPolicy = s.evPolicy := (State.logEv_keeps s code sev island tenant a0 a1).same .evPolicy (by decide)
@[simp] theorem State.logEv_flash (s code sev island tenant a0 a1) : (State.logEv s code sev island tenant a0 a1).flash = s.flash := (State.logEv_keeps s code sev island tenant a0 a1).same .flash (by decide)
@[simp] theorem State.logEv_units (s code sev island tenant a0 a1) : (State.logEv s code sev island tenant a0 a1).units = s.units := (State.logEv_keeps s code sev island tenant a0 a1).same .units (by decide)
@[simp] theorem State.logEv_streams (s code sev island tenant a0 a1) : (State.logEv s code sev island tenant a0 a1).streams = s.streams := (State.logEv_keeps s code sev island tenant a0 a1).same .streams (by decide)
@[simp] theorem State.logEv_eraseLists (s code sev island tenant a0 a1) : (State.logEv s code sev island tenant a0 a1).eraseLists = s.eraseLists := (State.logEv_keeps s code sev island tenant a0 a1).same .eraseLists (by decide)
@[simp] theorem State.logEv_victims (s code sev island tenant a0 a1) : (State.logEv s code sev island tenant a0 a1).victims = s.victims := (State.logEv_keeps s code sev island tenant a0 a1).same .victims (by decide)
@[simp] theorem State.logEv_journalUnit (s code sev island tenant a0 a1) : (State.logEv s code sev island tenant a0 a1).journalUnit = s.journalUnit := (State.logEv_keeps s code sev island tenant a0 a1).same .journalUnit (by decide)
@[simp] theorem State.logEv_slcTarget (s code sev island tenant a0 a1) : (State.logEv s code sev island tenant a0 a1).slcTarget = s.slcTarget := (State.logEv_keeps s code sev island tenant a0 a1).same .slcTarget (by decide)
@[simp] theorem State.logEv_checkpointAt (s code sev island tenant a0 a1) : (State.logEv s code sev island tenant a0 a1).checkpointAt = s.checkpointAt := (State.logEv_keeps s code sev island tenant a0 a1).same .checkpointAt (by decide)
@[simp] theorem State.logEv_copiedCw (s code sev island tenant a0 a1) : (State.logEv s code sev island tenant a0 a1).copiedCw = s.copiedCw := (State.logEv_keeps s code sev island tenant a0 a1).same .copiedCw (by decide)
@[simp] theorem State.logEv_saved (s code sev island tenant a0 a1) : (State.logEv s code sev island tenant a0 a1).saved = s.saved := (State.logEv_keeps s code sev island tenant a0 a1).same .saved (by decide)
@[simp] theorem State.logEv_tdis (s code sev island tenant a0 a1) : (State.logEv s code sev island tenant a0 a1).tdis = s.tdis := (State.logEv_keeps s code sev island tenant a0 a1).same .tdis (by decide)
@[simp] theorem State.logEv_sessions (s code sev island tenant a0 a1) : (State.logEv s code sev island tenant a0 a1).sessions = s.sessions := (State.logEv_keeps s code sev island tenant a0 a1).same .sessions (by decide)
@[simp] theorem State.logEv_signed (s code sev island tenant a0 a1) : (State.logEv s code sev island tenant a0 a1).signed = s.signed := (State.logEv_keeps s code sev island tenant a0 a1).same .signed (by decide)
@[simp] theorem State.logEv_ideKeys (s code sev island tenant a0 a1) : (State.logEv s code sev island tenant a0 a1).ideKeys = s.ideKeys := (State.logEv_keeps s code sev island tenant a0 a1).same .ideKeys (by decide)
@[simp] theorem State.logEv_dataKeys (s code sev island tenant a0 a1) : (State.logEv s code sev island tenant a0 a1).dataKeys = s.dataKeys := (State.logEv_keeps s code sev island tenant a0 a1).same .dataKeys (by decide)
@[simp] theorem State.logEv_sealReq (s code sev island tenant a0 a1) : (State.logEv s code sev island tenant a0 a1).sealReq = s.sealReq := (State.logEv_keeps s code sev island tenant a0 a1).same .sealReq (by decide)
@[simp] theorem State.logEv_memKey (s code sev island tenant a0 a1) : (State.logEv s code sev island tenant a0 a1).memKey = s.memKey := (State.logEv_keeps s code sev island tenant a0 a1).same .memKey (by decide)
@[simp] theorem State.logEv_serial (s code sev island tenant a0 a1) : (State.logEv s code sev island tenant a0 a1).serial = s.serial := (State.logEv_keeps s code sev island tenant a0 a1).same .serial (by decide)
@[simp] theorem State.logEv_serialTop (s code sev island tenant a0 a1) : (State.logEv s code sev island tenant a0 a1).serialTop = s.serialTop := (State.logEv_keeps s code sev island tenant a0 a1).same .serialTop (by decide)
@[simp] theorem State.logEv_keyRows (s code sev island tenant a0 a1) : (State.logEv s code sev island tenant a0 a1).keyRows = s.keyRows := (State.logEv_keeps s code sev island tenant a0 a1).same .keyRows (by decide)
@[simp] theorem State.logEv_nonce (s code sev island tenant a0 a1) : (State.logEv s code sev island tenant a0 a1).nonce = s.nonce := (State.logEv_keeps s code sev island tenant a0 a1).same .nonce (by decide)
@[simp] theorem State.logEv_deviceCerts (s code sev island tenant a0 a1) : (State.logEv s code sev island tenant a0 a1).deviceCerts = s.deviceCerts := (State.logEv_keeps s code sev island tenant a0 a1).same .deviceCerts (by decide)
@[simp] theorem State.logEv_ownerCerts (s code sev island tenant a0 a1) : (State.logEv s code sev island tenant a0 a1).ownerCerts = s.ownerCerts := (State.logEv_keeps s code sev island tenant a0 a1).same .ownerCerts (by decide)
@[simp] theorem State.logEv_lcTarget (s code sev island tenant a0 a1) : (State.logEv s code sev island tenant a0 a1).lcTarget = s.lcTarget := (State.logEv_keeps s code sev island tenant a0 a1).same .lcTarget (by decide)
@[simp] theorem State.logEv_slotA (s code sev island tenant a0 a1) : (State.logEv s code sev island tenant a0 a1).slotA = s.slotA := (State.logEv_keeps s code sev island tenant a0 a1).same .slotA (by decide)
@[simp] theorem State.logEv_slotB (s code sev island tenant a0 a1) : (State.logEv s code sev island tenant a0 a1).slotB = s.slotB := (State.logEv_keeps s code sev island tenant a0 a1).same .slotB (by decide)
@[simp] theorem State.logEv_fwRun (s code sev island tenant a0 a1) : (State.logEv s code sev island tenant a0 a1).fwRun = s.fwRun := (State.logEv_keeps s code sev island tenant a0 a1).same .fwRun (by decide)
@[simp] theorem State.logEv_measured (s code sev island tenant a0 a1) : (State.logEv s code sev island tenant a0 a1).measured = s.measured := (State.logEv_keeps s code sev island tenant a0 a1).same .measured (by decide)
@[simp] theorem State.logEv_fwWriter (s code sev island tenant a0 a1) : (State.logEv s code sev island tenant a0 a1).fwWriter = s.fwWriter := (State.logEv_keeps s code sev island tenant a0 a1).same .fwWriter (by decide)
@[simp] theorem State.logEv_calib (s code sev island tenant a0 a1) : (State.logEv s code sev island tenant a0 a1).calib = s.calib := (State.logEv_keeps s code sev island tenant a0 a1).same .calib (by decide)
@[simp] theorem State.logEv_heldActs (s code sev island tenant a0 a1) : (State.logEv s code sev island tenant a0 a1).heldActs = s.heldActs := (State.logEv_keeps s code sev island tenant a0 a1).same .heldActs (by decide)
@[simp] theorem State.logEv_tenantResets (s code sev island tenant a0 a1) : (State.logEv s code sev island tenant a0 a1).tenantResets = s.tenantResets := (State.logEv_keeps s code sev island tenant a0 a1).same .tenantResets (by decide)
@[simp] theorem State.logEv_capDown (s code sev island tenant a0 a1) : (State.logEv s code sev island tenant a0 a1).capDown = s.capDown := (State.logEv_keeps s code sev island tenant a0 a1).same .capDown (by decide)
@[simp] theorem State.logEv_ecoDown (s code sev island tenant a0 a1) : (State.logEv s code sev island tenant a0 a1).ecoDown = s.ecoDown := (State.logEv_keeps s code sev island tenant a0 a1).same .ecoDown (by decide)
@[simp] theorem State.logEv_avsMiss (s code sev island tenant a0 a1) : (State.logEv s code sev island tenant a0 a1).avsMiss = s.avsMiss := (State.logEv_keeps s code sev island tenant a0 a1).same .avsMiss (by decide)
@[simp] theorem State.logEv_lastSlow (s code sev island tenant a0 a1) : (State.logEv s code sev island tenant a0 a1).lastSlow = s.lastSlow := (State.logEv_keeps s code sev island tenant a0 a1).same .lastSlow (by decide)
@[simp] theorem State.logEv_keyRepl (s code sev island tenant a0 a1) : (State.logEv s code sev island tenant a0 a1).keyRepl = s.keyRepl := (State.logEv_keeps s code sev island tenant a0 a1).same .keyRepl (by decide)
@[simp] theorem State.logEv_replaceN (s code sev island tenant a0 a1) : (State.logEv s code sev island tenant a0 a1).replaceN = s.replaceN := (State.logEv_keeps s code sev island tenant a0 a1).same .replaceN (by decide)
@[simp] theorem State.logEv_power (s code sev island tenant a0 a1) : (State.logEv s code sev island tenant a0 a1).power = s.power := (State.logEv_keeps s code sev island tenant a0 a1).same .power (by decide)
@[simp] theorem State.logEv_jtag (s code sev island tenant a0 a1) : (State.logEv s code sev island tenant a0 a1).jtag = s.jtag := (State.logEv_keeps s code sev island tenant a0 a1).same .jtag (by decide)
theorem State.logEv_reg (s code sev island tenant a0 a1) (k : RegKind) (i : Nat) (hk : Nat.testBit 71614546043009276470375043733142200974465685714818071311426812672614967569804806076821664 (128 + k.ctorIdx) = false) : (State.logEv s code sev island tenant a0 a1).reg k i = s.reg k i := (State.logEv_keeps s code sev island tenant a0 a1).same (.reg k) hk i
theorem State.logEv_fld (s code sev island tenant a0 a1) (f : Field) (i : Nat) (hk : Nat.testBit 71614546043009276470375043733142200974465685714818071311426812672614967569804806076821664 (128 + f.reg.ctorIdx) = false) : (State.logEv s code sev island tenant a0 a1).fld f i = s.fld f i := by rw [State.fld, State.logEv_reg s code sev island tenant a0 a1 _ _ hk, State.fld]
@[simp] theorem State.wake_pending (s) : (State.wake s).pending = s.pending := (State.wake_keeps s).same .pending (by decide)
@[simp] theorem State.wake_dtime (s) : (State.wake s).dtime = s.dtime := (State.wake_keeps s).same .dtime (by decide)
@[simp] theorem State.wake_freeCtr (s) : (State.wake s).freeCtr = s.freeCtr := (State.wake_keeps s).same .freeCtr (by decide)
@[simp] theorem State.wake_out (s) : (State.wake s).out = s.out := (State.wake_keeps s).same .out (by decide)
@[simp] theorem State.wake_fuses (s) : (State.wake s).fuses = s.fuses := (State.wake_keeps s).same .fuses (by decide)
@[simp] theorem State.wake_log (s) : (State.wake s).log = s.log := (State.wake_keeps s).same .log (by decide)
@[simp] theorem State.wake_events (s) : (State.wake s).events = s.events := (State.wake_keeps s).same .events (by decide)
@[simp] theorem State.wake_mctp (s) : (State.wake s).mctp = s.mctp := (State.wake_keeps s).same .mctp (by decide)
@[simp] theorem State.wake_geoGen (s) : (State.wake s).geoGen = s.geoGen := (State.wake_keeps s).same .geoGen (by decide)
@[simp] theorem State.wake_geoUpd (s) : (State.wake s).geoUpd = s.geoUpd := (State.wake_keeps s).same .geoUpd (by decide)
@[simp] theorem State.wake_uaLogAt (s) : (State.wake s).uaLogAt = s.uaLogAt := (State.wake_keeps s).same .uaLogAt (by decide)
@[simp] theorem State.wake_denyLogAt (s) : (State.wake s).denyLogAt = s.denyLogAt := (State.wake_keeps s).same .denyLogAt (by decide)
@[simp] theorem State.wake_capRecs (s) : (State.wake s).capRecs = s.capRecs := (State.wake_keeps s).same .capRecs (by decide)
@[simp] theorem State.wake_capSnaps (s) : (State.wake s).capSnaps = s.capSnaps := (State.wake_keeps s).same .capSnaps (by decide)
@[simp] theorem State.wake_capFail (s) : (State.wake s).capFail = s.capFail := (State.wake_keeps s).same .capFail (by decide)
@[simp] theorem State.wake_capFatal (s) : (State.wake s).capFatal = s.capFatal := (State.wake_keeps s).same .capFatal (by decide)
@[simp] theorem State.wake_stewards (s) : (State.wake s).stewards = s.stewards := (State.wake_keeps s).same .stewards (by decide)
@[simp] theorem State.wake_reconTimes (s) : (State.wake s).reconTimes = s.reconTimes := (State.wake_keeps s).same .reconTimes (by decide)
@[simp] theorem State.wake_reconLog (s) : (State.wake s).reconLog = s.reconLog := (State.wake_keeps s).same .reconLog (by decide)
@[simp] theorem State.wake_preTest (s) : (State.wake s).preTest = s.preTest := (State.wake_keeps s).same .preTest (by decide)
@[simp] theorem State.wake_rebuildAt (s) : (State.wake s).rebuildAt = s.rebuildAt := (State.wake_keeps s).same .rebuildAt (by decide)
@[simp] theorem State.wake_rebuildWarned (s) : (State.wake s).rebuildWarned = s.rebuildWarned := (State.wake_keeps s).same .rebuildWarned (by decide)
@[simp] theorem State.wake_staging (s) : (State.wake s).staging = s.staging := (State.wake_keeps s).same .staging (by decide)
@[simp] theorem State.wake_pattern (s) : (State.wake s).pattern = s.pattern := (State.wake_keeps s).same .pattern (by decide)
@[simp] theorem State.wake_bootA (s) : (State.wake s).bootA = s.bootA := (State.wake_keeps s).same .bootA (by decide)
@[simp] theorem State.wake_bootB (s) : (State.wake s).bootB = s.bootB := (State.wake_keeps s).same .bootB (by decide)
@[simp] theorem State.wake_load (s) : (State.wake s).load = s.load := (State.wake_keeps s).same .load (by decide)
@[simp] theorem State.wake_bg (s) : (State.wake s).bg = s.bg := (State.wake_keeps s).same .bg (by decide)
@[simp] theorem State.wake_cores (s) : (State.wake s).cores = s.cores := (State.wake_keeps s).same .cores (by decide)
@[simp] theorem State.wake_geom (s) : (State.wake s).geom = s.geom := (State.wake_keeps s).same .geom (by decide)
@[simp] theorem State.wake_buckets (s) : (State.wake s).buckets = s.buckets := (State.wake_keeps s).same .buckets (by decide)
@[simp] theorem State.wake_wheels (s) : (State.wake s).wheels = s.wheels := (State.wake_keeps s).same .wheels (by decide)
@[simp] theorem State.wake_devLevels (s) : (State.wake s).devLevels = s.devLevels := (State.wake_keeps s).same .devLevels (by decide)
@[simp] theorem State.wake_spools (s) : (State.wake s).spools = s.spools := (State.wake_keeps s).same .spools (by decide)
@[simp] theorem State.wake_comps (s) : (State.wake s).comps = s.comps := (State.wake_keeps s).same .comps (by decide)
@[simp] theorem State.wake_rotor (s) : (State.wake s).rotor = s.rotor := (State.wake_keeps s).same .rotor (by decide)
@[simp] theorem State.wake_inflight (s) : (State.wake s).inflight = s.inflight := (State.wake_keeps s).same .inflight (by decide)
@[simp] theorem State.wake_nextUid (s) : (State.wake s).nextUid = s.nextUid := (State.wake_keeps s).same .nextUid (by decide)
@[simp] theorem State.wake_chunks (s) : (State.wake s).chunks = s.chunks := (State.wake_keeps s).same .chunks (by decide)
@[simp] theorem State.wake_seqs (s) : (State.wake s).seqs = s.seqs := (State.wake_keeps s).same .seqs (by decide)
@[simp] theorem State.wake_pins (s) : (State.wake s).pins = s.pins := (State.wake_keeps s).same .pins (by decide)
@[simp] theorem State.wake_nsKeys (s) : (State.wake s).nsKeys = s.nsKeys := (State.wake_keeps s).same .nsKeys (by decide)
@[simp] theorem State.wake_frames (s) : (State.wake s).frames = s.frames := (State.wake_keeps s).same .frames (by decide)
@[simp] theorem State.wake_epochs (s) : (State.wake s).epochs = s.epochs := (State.wake_keeps s).same .epochs (by decide)
@[simp] theorem State.wake_images (s) : (State.wake s).images = s.images := (State.wake_keeps s).same .images (by decide)
@[simp] theorem State.wake_cacheSf (s) : (State.wake s).cacheSf = s.cacheSf := (State.wake_keeps s).same .cacheSf (by decide)
@[simp] theorem State.wake_metaSf (s) : (State.wake s).metaSf = s.metaSf := (State.wake_keeps s).same .metaSf (by decide)
@[simp] theorem State.wake_parity (s) : (State.wake s).parity = s.parity := (State.wake_keeps s).same .parity (by decide)
@[simp] theorem State.wake_dropPaused (s) : (State.wake s).dropPaused = s.dropPaused := (State.wake_keeps s).same .dropPaused (by decide)
@[simp] theorem State.wake_outRem (s) : (State.wake s).outRem = s.outRem := (State.wake_keeps s).same .outRem (by decide)
@[simp] theorem State.wake_rowN (s) : (State.wake s).rowN = s.rowN := (State.wake_keeps s).same .rowN (by decide)
@[simp] theorem State.wake_gens (s) : (State.wake s).gens = s.gens := (State.wake_keeps s).same .gens (by decide)
@[simp] theorem State.wake_viewCache (s) : (State.wake s).viewCache = s.viewCache := (State.wake_keeps s).same .viewCache (by decide)
@[simp] theorem State.wake_histPages (s) : (State.wake s).histPages = s.histPages := (State.wake_keeps s).same .histPages (by decide)
@[simp] theorem State.wake_viewSlots (s) : (State.wake s).viewSlots = s.viewSlots := (State.wake_keeps s).same .viewSlots (by decide)
@[simp] theorem State.wake_viewWaits (s) : (State.wake s).viewWaits = s.viewWaits := (State.wake_keeps s).same .viewWaits (by decide)
@[simp] theorem State.wake_pbase (s) : (State.wake s).pbase = s.pbase := (State.wake_keeps s).same .pbase (by decide)
@[simp] theorem State.wake_syncAt (s) : (State.wake s).syncAt = s.syncAt := (State.wake_keeps s).same .syncAt (by decide)
@[simp] theorem State.wake_plainMem (s) : (State.wake s).plainMem = s.plainMem := (State.wake_keeps s).same .plainMem (by decide)
@[simp] theorem State.wake_poisonLines (s) : (State.wake s).poisonLines = s.poisonLines := (State.wake_keeps s).same .poisonLines (by decide)
@[simp] theorem State.wake_orphanLines (s) : (State.wake s).orphanLines = s.orphanLines := (State.wake_keeps s).same .orphanLines (by decide)
@[simp] theorem State.wake_orphanLog (s) : (State.wake s).orphanLog = s.orphanLog := (State.wake_keeps s).same .orphanLog (by decide)
@[simp] theorem State.wake_extents (s) : (State.wake s).extents = s.extents := (State.wake_keeps s).same .extents (by decide)
@[simp] theorem State.wake_released (s) : (State.wake s).released = s.released := (State.wake_keeps s).same .released (by decide)
@[simp] theorem State.wake_snoopFilter (s) : (State.wake s).snoopFilter = s.snoopFilter := (State.wake_keeps s).same .snoopFilter (by decide)
@[simp] theorem State.wake_snoops (s) : (State.wake s).snoops = s.snoops := (State.wake_keeps s).same .snoops (by decide)
@[simp] theorem State.wake_lineQ (s) : (State.wake s).lineQ = s.lineQ := (State.wake_keeps s).same .lineQ (by decide)
@[simp] theorem State.wake_lostHosts (s) : (State.wake s).lostHosts = s.lostHosts := (State.wake_keeps s).same .lostHosts (by decide)
@[simp] theorem State.wake_unbackedLogAt (s) : (State.wake s).unbackedLogAt = s.unbackedLogAt := (State.wake_keeps s).same .unbackedLogAt (by decide)
@[simp] theorem State.wake_curLog (s) : (State.wake s).curLog = s.curLog := (State.wake_keeps s).same .curLog (by decide)
@[simp] theorem State.wake_rlinks (s) : (State.wake s).rlinks = s.rlinks := (State.wake_keeps s).same .rlinks (by decide)
@[simp] theorem State.wake_ringOut (s) : (State.wake s).ringOut = s.ringOut := (State.wake_keeps s).same .ringOut (by decide)
@[simp] theorem State.wake_rctx (s) : (State.wake s).rctx = s.rctx := (State.wake_keeps s).same .rctx (by decide)
@[simp] theorem State.wake_ringHeld (s) : (State.wake s).ringHeld = s.ringHeld := (State.wake_keeps s).same .ringHeld (by decide)
@[simp] theorem State.wake_camReqs (s) : (State.wake s).camReqs = s.camReqs := (State.wake_keeps s).same .camReqs (by decide)
@[simp] theorem State.wake_gws (s) : (State.wake s).gws = s.gws := (State.wake_keeps s).same .gws (by decide)
@[simp] theorem State.wake_qps (s) : (State.wake s).qps = s.qps := (State.wake_keeps s).same .qps (by decide)
@[simp] theorem State.wake_qpKeys (s) : (State.wake s).qpKeys = s.qpKeys := (State.wake_keeps s).same .qpKeys (by decide)
@[simp] theorem State.wake_shOut (s) : (State.wake s).shOut = s.shOut := (State.wake_keeps s).same .shOut (by decide)
@[simp] theorem State.wake_pfcUntil (s) : (State.wake s).pfcUntil = s.pfcUntil := (State.wake_keeps s).same .pfcUntil (by decide)
@[simp] theorem State.wake_atsCache (s) : (State.wake s).atsCache = s.atsCache := (State.wake_keeps s).same .atsCache (by decide)
@[simp] theorem State.wake_orphanPend (s) : (State.wake s).orphanPend = s.orphanPend := (State.wake_keeps s).same .orphanPend (by decide)
@[simp] theorem State.wake_linkIn (s) : (State.wake s).linkIn = s.linkIn := (State.wake_keeps s).same .linkIn (by decide)
@[simp] theorem State.wake_hdm (s) : (State.wake s).hdm = s.hdm := (State.wake_keeps s).same .hdm (by decide)
@[simp] theorem State.wake_evLost (s) : (State.wake s).evLost = s.evLost := (State.wake_keeps s).same .evLost (by decide)
@[simp] theorem State.wake_evPolicy (s) : (State.wake s).evPolicy = s.evPolicy := (State.wake_keeps s).same .evPolicy (by decide)
@[simp] theorem State.wake_flash (s) : (State.wake s).flash = s.flash := (State.wake_keeps s).same .flash (by decide)
@[simp] theorem State.wake_units (s) : (State.wake s).units = s.units := (State.wake_keeps s).same .units (by decide)
@[simp] theorem State.wake_streams (s) : (State.wake s).streams = s.streams := (State.wake_keeps s).same .streams (by decide)
@[simp] theorem State.wake_eraseLists (s) : (State.wake s).eraseLists = s.eraseLists := (State.wake_keeps s).same .eraseLists (by decide)
@[simp] theorem State.wake_victims (s) : (State.wake s).victims = s.victims := (State.wake_keeps s).same .victims (by decide)
@[simp] theorem State.wake_journalUnit (s) : (State.wake s).journalUnit = s.journalUnit := (State.wake_keeps s).same .journalUnit (by decide)
@[simp] theorem State.wake_slcTarget (s) : (State.wake s).slcTarget = s.slcTarget := (State.wake_keeps s).same .slcTarget (by decide)
@[simp] theorem State.wake_checkpointAt (s) : (State.wake s).checkpointAt = s.checkpointAt := (State.wake_keeps s).same .checkpointAt (by decide)
@[simp] theorem State.wake_copiedCw (s) : (State.wake s).copiedCw = s.copiedCw := (State.wake_keeps s).same .copiedCw (by decide)
@[simp] theorem State.wake_saved (s) : (State.wake s).saved = s.saved := (State.wake_keeps s).same .saved (by decide)
@[simp] theorem State.wake_tdis (s) : (State.wake s).tdis = s.tdis := (State.wake_keeps s).same .tdis (by decide)
@[simp] theorem State.wake_sessions (s) : (State.wake s).sessions = s.sessions := (State.wake_keeps s).same .sessions (by decide)
@[simp] theorem State.wake_signed (s) : (State.wake s).signed = s.signed := (State.wake_keeps s).same .signed (by decide)
@[simp] theorem State.wake_ideKeys (s) : (State.wake s).ideKeys = s.ideKeys := (State.wake_keeps s).same .ideKeys (by decide)
@[simp] theorem State.wake_dataKeys (s) : (State.wake s).dataKeys = s.dataKeys := (State.wake_keeps s).same .dataKeys (by decide)
@[simp] theorem State.wake_sealReq (s) : (State.wake s).sealReq = s.sealReq := (State.wake_keeps s).same .sealReq (by decide)
@[simp] theorem State.wake_memKey (s) : (State.wake s).memKey = s.memKey := (State.wake_keeps s).same .memKey (by decide)
@[simp] theorem State.wake_serial (s) : (State.wake s).serial = s.serial := (State.wake_keeps s).same .serial (by decide)
@[simp] theorem State.wake_serialTop (s) : (State.wake s).serialTop = s.serialTop := (State.wake_keeps s).same .serialTop (by decide)
@[simp] theorem State.wake_keyRows (s) : (State.wake s).keyRows = s.keyRows := (State.wake_keeps s).same .keyRows (by decide)
@[simp] theorem State.wake_nonce (s) : (State.wake s).nonce = s.nonce := (State.wake_keeps s).same .nonce (by decide)
@[simp] theorem State.wake_deviceCerts (s) : (State.wake s).deviceCerts = s.deviceCerts := (State.wake_keeps s).same .deviceCerts (by decide)
@[simp] theorem State.wake_ownerCerts (s) : (State.wake s).ownerCerts = s.ownerCerts := (State.wake_keeps s).same .ownerCerts (by decide)
@[simp] theorem State.wake_lcTarget (s) : (State.wake s).lcTarget = s.lcTarget := (State.wake_keeps s).same .lcTarget (by decide)
@[simp] theorem State.wake_slotA (s) : (State.wake s).slotA = s.slotA := (State.wake_keeps s).same .slotA (by decide)
@[simp] theorem State.wake_slotB (s) : (State.wake s).slotB = s.slotB := (State.wake_keeps s).same .slotB (by decide)
@[simp] theorem State.wake_fwRun (s) : (State.wake s).fwRun = s.fwRun := (State.wake_keeps s).same .fwRun (by decide)
@[simp] theorem State.wake_measured (s) : (State.wake s).measured = s.measured := (State.wake_keeps s).same .measured (by decide)
@[simp] theorem State.wake_fwWriter (s) : (State.wake s).fwWriter = s.fwWriter := (State.wake_keeps s).same .fwWriter (by decide)
@[simp] theorem State.wake_calib (s) : (State.wake s).calib = s.calib := (State.wake_keeps s).same .calib (by decide)
@[simp] theorem State.wake_heldActs (s) : (State.wake s).heldActs = s.heldActs := (State.wake_keeps s).same .heldActs (by decide)
@[simp] theorem State.wake_tenantResets (s) : (State.wake s).tenantResets = s.tenantResets := (State.wake_keeps s).same .tenantResets (by decide)
@[simp] theorem State.wake_capDown (s) : (State.wake s).capDown = s.capDown := (State.wake_keeps s).same .capDown (by decide)
@[simp] theorem State.wake_ecoDown (s) : (State.wake s).ecoDown = s.ecoDown := (State.wake_keeps s).same .ecoDown (by decide)
@[simp] theorem State.wake_avsMiss (s) : (State.wake s).avsMiss = s.avsMiss := (State.wake_keeps s).same .avsMiss (by decide)
@[simp] theorem State.wake_lastSlow (s) : (State.wake s).lastSlow = s.lastSlow := (State.wake_keeps s).same .lastSlow (by decide)
@[simp] theorem State.wake_keyRepl (s) : (State.wake s).keyRepl = s.keyRepl := (State.wake_keeps s).same .keyRepl (by decide)
@[simp] theorem State.wake_replaceN (s) : (State.wake s).replaceN = s.replaceN := (State.wake_keeps s).same .replaceN (by decide)
@[simp] theorem State.wake_power (s) : (State.wake s).power = s.power := (State.wake_keeps s).same .power (by decide)
@[simp] theorem State.wake_jtag (s) : (State.wake s).jtag = s.jtag := (State.wake_keeps s).same .jtag (by decide)
theorem State.wake_reg (s) (k : RegKind) (i : Nat) (hk : Nat.testBit 59285549689505892056868344324448208820874232148807968788202283012051522375647232 (128 + k.ctorIdx) = false) : (State.wake s).reg k i = s.reg k i := (State.wake_keeps s).same (.reg k) hk i
theorem State.wake_fld (s) (f : Field) (i : Nat) (hk : Nat.testBit 59285549689505892056868344324448208820874232148807968788202283012051522375647232 (128 + f.reg.ctorIdx) = false) : (State.wake s).fld f i = s.fld f i := by rw [State.fld, State.wake_reg s _ _ hk, State.fld]
@[simp] theorem State.deny_pending (s h bar2 a) : (State.deny s h bar2 a).pending = s.pending := (State.deny_keeps s h bar2 a).same .pending (by decide)
@[simp] theorem State.deny_dtime (s h bar2 a) : (State.deny s h bar2 a).dtime = s.dtime := (State.deny_keeps s h bar2 a).same .dtime (by decide)
@[simp] theorem State.deny_freeCtr (s h bar2 a) : (State.deny s h bar2 a).freeCtr = s.freeCtr := (State.deny_keeps s h bar2 a).same .freeCtr (by decide)
@[simp] theorem State.deny_out (s h bar2 a) : (State.deny s h bar2 a).out = s.out := (State.deny_keeps s h bar2 a).same .out (by decide)
@[simp] theorem State.deny_fuses (s h bar2 a) : (State.deny s h bar2 a).fuses = s.fuses := (State.deny_keeps s h bar2 a).same .fuses (by decide)
@[simp] theorem State.deny_events (s h bar2 a) : (State.deny s h bar2 a).events = s.events := (State.deny_keeps s h bar2 a).same .events (by decide)
@[simp] theorem State.deny_geoGen (s h bar2 a) : (State.deny s h bar2 a).geoGen = s.geoGen := (State.deny_keeps s h bar2 a).same .geoGen (by decide)
@[simp] theorem State.deny_geoUpd (s h bar2 a) : (State.deny s h bar2 a).geoUpd = s.geoUpd := (State.deny_keeps s h bar2 a).same .geoUpd (by decide)
@[simp] theorem State.deny_uaLogAt (s h bar2 a) : (State.deny s h bar2 a).uaLogAt = s.uaLogAt := (State.deny_keeps s h bar2 a).same .uaLogAt (by decide)
@[simp] theorem State.deny_stewards (s h bar2 a) : (State.deny s h bar2 a).stewards = s.stewards := (State.deny_keeps s h bar2 a).same .stewards (by decide)
@[simp] theorem State.deny_reconTimes (s h bar2 a) : (State.deny s h bar2 a).reconTimes = s.reconTimes := (State.deny_keeps s h bar2 a).same .reconTimes (by decide)
@[simp] theorem State.deny_reconLog (s h bar2 a) : (State.deny s h bar2 a).reconLog = s.reconLog := (State.deny_keeps s h bar2 a).same .reconLog (by decide)
@[simp] theorem State.deny_preTest (s h bar2 a) : (State.deny s h bar2 a).preTest = s.preTest := (State.deny_keeps s h bar2 a).same .preTest (by decide)
@[simp] theorem State.deny_rebuildAt (s h bar2 a) : (State.deny s h bar2 a).rebuildAt = s.rebuildAt := (State.deny_keeps s h bar2 a).same .rebuildAt (by decide)
@[simp] theorem State.deny_rebuildWarned (s h bar2 a) : (State.deny s h bar2 a).rebuildWarned = s.rebuildWarned := (State.deny_keeps s h bar2 a).same .rebuildWarned (by decide)
@[simp] theorem State.deny_staging (s h bar2 a) : (State.deny s h bar2 a).staging = s.staging := (State.deny_keeps s h bar2 a).same .staging (by decide)
@[simp] theorem State.deny_pattern (s h bar2 a) : (State.deny s h bar2 a).pattern = s.pattern := (State.deny_keeps s h bar2 a).same .pattern (by decide)
@[simp] theorem State.deny_bootA (s h bar2 a) : (State.deny s h bar2 a).bootA = s.bootA := (State.deny_keeps s h bar2 a).same .bootA (by decide)
@[simp] theorem State.deny_bootB (s h bar2 a) : (State.deny s h bar2 a).bootB = s.bootB := (State.deny_keeps s h bar2 a).same .bootB (by decide)
@[simp] theorem State.deny_load (s h bar2 a) : (State.deny s h bar2 a).load = s.load := (State.deny_keeps s h bar2 a).same .load (by decide)
@[simp] theorem State.deny_bg (s h bar2 a) : (State.deny s h bar2 a).bg = s.bg := (State.deny_keeps s h bar2 a).same .bg (by decide)
@[simp] theorem State.deny_cores (s h bar2 a) : (State.deny s h bar2 a).cores = s.cores := (State.deny_keeps s h bar2 a).same .cores (by decide)
@[simp] theorem State.deny_geom (s h bar2 a) : (State.deny s h bar2 a).geom = s.geom := (State.deny_keeps s h bar2 a).same .geom (by decide)
@[simp] theorem State.deny_buckets (s h bar2 a) : (State.deny s h bar2 a).buckets = s.buckets := (State.deny_keeps s h bar2 a).same .buckets (by decide)
@[simp] theorem State.deny_wheels (s h bar2 a) : (State.deny s h bar2 a).wheels = s.wheels := (State.deny_keeps s h bar2 a).same .wheels (by decide)
@[simp] theorem State.deny_devLevels (s h bar2 a) : (State.deny s h bar2 a).devLevels = s.devLevels := (State.deny_keeps s h bar2 a).same .devLevels (by decide)
@[simp] theorem State.deny_spools (s h bar2 a) : (State.deny s h bar2 a).spools = s.spools := (State.deny_keeps s h bar2 a).same .spools (by decide)
@[simp] theorem State.deny_comps (s h bar2 a) : (State.deny s h bar2 a).comps = s.comps := (State.deny_keeps s h bar2 a).same .comps (by decide)
@[simp] theorem State.deny_rotor (s h bar2 a) : (State.deny s h bar2 a).rotor = s.rotor := (State.deny_keeps s h bar2 a).same .rotor (by decide)
@[simp] theorem State.deny_inflight (s h bar2 a) : (State.deny s h bar2 a).inflight = s.inflight := (State.deny_keeps s h bar2 a).same .inflight (by decide)
@[simp] theorem State.deny_nextUid (s h bar2 a) : (State.deny s h bar2 a).nextUid = s.nextUid := (State.deny_keeps s h bar2 a).same .nextUid (by decide)
@[simp] theorem State.deny_chunks (s h bar2 a) : (State.deny s h bar2 a).chunks = s.chunks := (State.deny_keeps s h bar2 a).same .chunks (by decide)
@[simp] theorem State.deny_seqs (s h bar2 a) : (State.deny s h bar2 a).seqs = s.seqs := (State.deny_keeps s h bar2 a).same .seqs (by decide)
@[simp] theorem State.deny_pins (s h bar2 a) : (State.deny s h bar2 a).pins = s.pins := (State.deny_keeps s h bar2 a).same .pins (by decide)
@[simp] theorem State.deny_nsKeys (s h bar2 a) : (State.deny s h bar2 a).nsKeys = s.nsKeys := (State.deny_keeps s h bar2 a).same .nsKeys (by decide)
@[simp] theorem State.deny_frames (s h bar2 a) : (State.deny s h bar2 a).frames = s.frames := (State.deny_keeps s h bar2 a).same .frames (by decide)
@[simp] theorem State.deny_epochs (s h bar2 a) : (State.deny s h bar2 a).epochs = s.epochs := (State.deny_keeps s h bar2 a).same .epochs (by decide)
@[simp] theorem State.deny_images (s h bar2 a) : (State.deny s h bar2 a).images = s.images := (State.deny_keeps s h bar2 a).same .images (by decide)
@[simp] theorem State.deny_cacheSf (s h bar2 a) : (State.deny s h bar2 a).cacheSf = s.cacheSf := (State.deny_keeps s h bar2 a).same .cacheSf (by decide)
@[simp] theorem State.deny_metaSf (s h bar2 a) : (State.deny s h bar2 a).metaSf = s.metaSf := (State.deny_keeps s h bar2 a).same .metaSf (by decide)
@[simp] theorem State.deny_parity (s h bar2 a) : (State.deny s h bar2 a).parity = s.parity := (State.deny_keeps s h bar2 a).same .parity (by decide)
@[simp] theorem State.deny_dropPaused (s h bar2 a) : (State.deny s h bar2 a).dropPaused = s.dropPaused := (State.deny_keeps s h bar2 a).same .dropPaused (by decide)
@[simp] theorem State.deny_outRem (s h bar2 a) : (State.deny s h bar2 a).outRem = s.outRem := (State.deny_keeps s h bar2 a).same .outRem (by decide)
@[simp] theorem State.deny_rowN (s h bar2 a) : (State.deny s h bar2 a).rowN = s.rowN := (State.deny_keeps s h bar2 a).same .rowN (by decide)
@[simp] theorem State.deny_gens (s h bar2 a) : (State.deny s h bar2 a).gens = s.gens := (State.deny_keeps s h bar2 a).same .gens (by decide)
@[simp] theorem State.deny_viewCache (s h bar2 a) : (State.deny s h bar2 a).viewCache = s.viewCache := (State.deny_keeps s h bar2 a).same .viewCache (by decide)
@[simp] theorem State.deny_histPages (s h bar2 a) : (State.deny s h bar2 a).histPages = s.histPages := (State.deny_keeps s h bar2 a).same .histPages (by decide)
@[simp] theorem State.deny_viewSlots (s h bar2 a) : (State.deny s h bar2 a).viewSlots = s.viewSlots := (State.deny_keeps s h bar2 a).same .viewSlots (by decide)
@[simp] theorem State.deny_viewWaits (s h bar2 a) : (State.deny s h bar2 a).viewWaits = s.viewWaits := (State.deny_keeps s h bar2 a).same .viewWaits (by decide)
@[simp] theorem State.deny_pbase (s h bar2 a) : (State.deny s h bar2 a).pbase = s.pbase := (State.deny_keeps s h bar2 a).same .pbase (by decide)
@[simp] theorem State.deny_syncAt (s h bar2 a) : (State.deny s h bar2 a).syncAt = s.syncAt := (State.deny_keeps s h bar2 a).same .syncAt (by decide)
@[simp] theorem State.deny_plainMem (s h bar2 a) : (State.deny s h bar2 a).plainMem = s.plainMem := (State.deny_keeps s h bar2 a).same .plainMem (by decide)
@[simp] theorem State.deny_poisonLines (s h bar2 a) : (State.deny s h bar2 a).poisonLines = s.poisonLines := (State.deny_keeps s h bar2 a).same .poisonLines (by decide)
@[simp] theorem State.deny_orphanLines (s h bar2 a) : (State.deny s h bar2 a).orphanLines = s.orphanLines := (State.deny_keeps s h bar2 a).same .orphanLines (by decide)
@[simp] theorem State.deny_orphanLog (s h bar2 a) : (State.deny s h bar2 a).orphanLog = s.orphanLog := (State.deny_keeps s h bar2 a).same .orphanLog (by decide)
@[simp] theorem State.deny_extents (s h bar2 a) : (State.deny s h bar2 a).extents = s.extents := (State.deny_keeps s h bar2 a).same .extents (by decide)
@[simp] theorem State.deny_released (s h bar2 a) : (State.deny s h bar2 a).released = s.released := (State.deny_keeps s h bar2 a).same .released (by decide)
@[simp] theorem State.deny_snoopFilter (s h bar2 a) : (State.deny s h bar2 a).snoopFilter = s.snoopFilter := (State.deny_keeps s h bar2 a).same .snoopFilter (by decide)
@[simp] theorem State.deny_snoops (s h bar2 a) : (State.deny s h bar2 a).snoops = s.snoops := (State.deny_keeps s h bar2 a).same .snoops (by decide)
@[simp] theorem State.deny_lineQ (s h bar2 a) : (State.deny s h bar2 a).lineQ = s.lineQ := (State.deny_keeps s h bar2 a).same .lineQ (by decide)
@[simp] theorem State.deny_lostHosts (s h bar2 a) : (State.deny s h bar2 a).lostHosts = s.lostHosts := (State.deny_keeps s h bar2 a).same .lostHosts (by decide)
@[simp] theorem State.deny_unbackedLogAt (s h bar2 a) : (State.deny s h bar2 a).unbackedLogAt = s.unbackedLogAt := (State.deny_keeps s h bar2 a).same .unbackedLogAt (by decide)
@[simp] theorem State.deny_curLog (s h bar2 a) : (State.deny s h bar2 a).curLog = s.curLog := (State.deny_keeps s h bar2 a).same .curLog (by decide)
@[simp] theorem State.deny_rlinks (s h bar2 a) : (State.deny s h bar2 a).rlinks = s.rlinks := (State.deny_keeps s h bar2 a).same .rlinks (by decide)
@[simp] theorem State.deny_ringOut (s h bar2 a) : (State.deny s h bar2 a).ringOut = s.ringOut := (State.deny_keeps s h bar2 a).same .ringOut (by decide)
@[simp] theorem State.deny_rctx (s h bar2 a) : (State.deny s h bar2 a).rctx = s.rctx := (State.deny_keeps s h bar2 a).same .rctx (by decide)
@[simp] theorem State.deny_ringHeld (s h bar2 a) : (State.deny s h bar2 a).ringHeld = s.ringHeld := (State.deny_keeps s h bar2 a).same .ringHeld (by decide)
@[simp] theorem State.deny_camReqs (s h bar2 a) : (State.deny s h bar2 a).camReqs = s.camReqs := (State.deny_keeps s h bar2 a).same .camReqs (by decide)
@[simp] theorem State.deny_gws (s h bar2 a) : (State.deny s h bar2 a).gws = s.gws := (State.deny_keeps s h bar2 a).same .gws (by decide)
@[simp] theorem State.deny_qps (s h bar2 a) : (State.deny s h bar2 a).qps = s.qps := (State.deny_keeps s h bar2 a).same .qps (by decide)
@[simp] theorem State.deny_qpKeys (s h bar2 a) : (State.deny s h bar2 a).qpKeys = s.qpKeys := (State.deny_keeps s h bar2 a).same .qpKeys (by decide)
@[simp] theorem State.deny_shOut (s h bar2 a) : (State.deny s h bar2 a).shOut = s.shOut := (State.deny_keeps s h bar2 a).same .shOut (by decide)
@[simp] theorem State.deny_pfcUntil (s h bar2 a) : (State.deny s h bar2 a).pfcUntil = s.pfcUntil := (State.deny_keeps s h bar2 a).same .pfcUntil (by decide)
@[simp] theorem State.deny_atsCache (s h bar2 a) : (State.deny s h bar2 a).atsCache = s.atsCache := (State.deny_keeps s h bar2 a).same .atsCache (by decide)
@[simp] theorem State.deny_orphanPend (s h bar2 a) : (State.deny s h bar2 a).orphanPend = s.orphanPend := (State.deny_keeps s h bar2 a).same .orphanPend (by decide)
@[simp] theorem State.deny_linkIn (s h bar2 a) : (State.deny s h bar2 a).linkIn = s.linkIn := (State.deny_keeps s h bar2 a).same .linkIn (by decide)
@[simp] theorem State.deny_hdm (s h bar2 a) : (State.deny s h bar2 a).hdm = s.hdm := (State.deny_keeps s h bar2 a).same .hdm (by decide)
@[simp] theorem State.deny_evLost (s h bar2 a) : (State.deny s h bar2 a).evLost = s.evLost := (State.deny_keeps s h bar2 a).same .evLost (by decide)
@[simp] theorem State.deny_evPolicy (s h bar2 a) : (State.deny s h bar2 a).evPolicy = s.evPolicy := (State.deny_keeps s h bar2 a).same .evPolicy (by decide)
@[simp] theorem State.deny_flash (s h bar2 a) : (State.deny s h bar2 a).flash = s.flash := (State.deny_keeps s h bar2 a).same .flash (by decide)
@[simp] theorem State.deny_units (s h bar2 a) : (State.deny s h bar2 a).units = s.units := (State.deny_keeps s h bar2 a).same .units (by decide)
@[simp] theorem State.deny_streams (s h bar2 a) : (State.deny s h bar2 a).streams = s.streams := (State.deny_keeps s h bar2 a).same .streams (by decide)
@[simp] theorem State.deny_eraseLists (s h bar2 a) : (State.deny s h bar2 a).eraseLists = s.eraseLists := (State.deny_keeps s h bar2 a).same .eraseLists (by decide)
@[simp] theorem State.deny_victims (s h bar2 a) : (State.deny s h bar2 a).victims = s.victims := (State.deny_keeps s h bar2 a).same .victims (by decide)
@[simp] theorem State.deny_journalUnit (s h bar2 a) : (State.deny s h bar2 a).journalUnit = s.journalUnit := (State.deny_keeps s h bar2 a).same .journalUnit (by decide)
@[simp] theorem State.deny_slcTarget (s h bar2 a) : (State.deny s h bar2 a).slcTarget = s.slcTarget := (State.deny_keeps s h bar2 a).same .slcTarget (by decide)
@[simp] theorem State.deny_checkpointAt (s h bar2 a) : (State.deny s h bar2 a).checkpointAt = s.checkpointAt := (State.deny_keeps s h bar2 a).same .checkpointAt (by decide)
@[simp] theorem State.deny_copiedCw (s h bar2 a) : (State.deny s h bar2 a).copiedCw = s.copiedCw := (State.deny_keeps s h bar2 a).same .copiedCw (by decide)
@[simp] theorem State.deny_saved (s h bar2 a) : (State.deny s h bar2 a).saved = s.saved := (State.deny_keeps s h bar2 a).same .saved (by decide)
@[simp] theorem State.deny_tdis (s h bar2 a) : (State.deny s h bar2 a).tdis = s.tdis := (State.deny_keeps s h bar2 a).same .tdis (by decide)
@[simp] theorem State.deny_sessions (s h bar2 a) : (State.deny s h bar2 a).sessions = s.sessions := (State.deny_keeps s h bar2 a).same .sessions (by decide)
@[simp] theorem State.deny_signed (s h bar2 a) : (State.deny s h bar2 a).signed = s.signed := (State.deny_keeps s h bar2 a).same .signed (by decide)
@[simp] theorem State.deny_ideKeys (s h bar2 a) : (State.deny s h bar2 a).ideKeys = s.ideKeys := (State.deny_keeps s h bar2 a).same .ideKeys (by decide)
@[simp] theorem State.deny_dataKeys (s h bar2 a) : (State.deny s h bar2 a).dataKeys = s.dataKeys := (State.deny_keeps s h bar2 a).same .dataKeys (by decide)
@[simp] theorem State.deny_sealReq (s h bar2 a) : (State.deny s h bar2 a).sealReq = s.sealReq := (State.deny_keeps s h bar2 a).same .sealReq (by decide)
@[simp] theorem State.deny_memKey (s h bar2 a) : (State.deny s h bar2 a).memKey = s.memKey := (State.deny_keeps s h bar2 a).same .memKey (by decide)
@[simp] theorem State.deny_serial (s h bar2 a) : (State.deny s h bar2 a).serial = s.serial := (State.deny_keeps s h bar2 a).same .serial (by decide)
@[simp] theorem State.deny_serialTop (s h bar2 a) : (State.deny s h bar2 a).serialTop = s.serialTop := (State.deny_keeps s h bar2 a).same .serialTop (by decide)
@[simp] theorem State.deny_keyRows (s h bar2 a) : (State.deny s h bar2 a).keyRows = s.keyRows := (State.deny_keeps s h bar2 a).same .keyRows (by decide)
@[simp] theorem State.deny_nonce (s h bar2 a) : (State.deny s h bar2 a).nonce = s.nonce := (State.deny_keeps s h bar2 a).same .nonce (by decide)
@[simp] theorem State.deny_deviceCerts (s h bar2 a) : (State.deny s h bar2 a).deviceCerts = s.deviceCerts := (State.deny_keeps s h bar2 a).same .deviceCerts (by decide)
@[simp] theorem State.deny_ownerCerts (s h bar2 a) : (State.deny s h bar2 a).ownerCerts = s.ownerCerts := (State.deny_keeps s h bar2 a).same .ownerCerts (by decide)
@[simp] theorem State.deny_lcTarget (s h bar2 a) : (State.deny s h bar2 a).lcTarget = s.lcTarget := (State.deny_keeps s h bar2 a).same .lcTarget (by decide)
@[simp] theorem State.deny_slotA (s h bar2 a) : (State.deny s h bar2 a).slotA = s.slotA := (State.deny_keeps s h bar2 a).same .slotA (by decide)
@[simp] theorem State.deny_slotB (s h bar2 a) : (State.deny s h bar2 a).slotB = s.slotB := (State.deny_keeps s h bar2 a).same .slotB (by decide)
@[simp] theorem State.deny_fwRun (s h bar2 a) : (State.deny s h bar2 a).fwRun = s.fwRun := (State.deny_keeps s h bar2 a).same .fwRun (by decide)
@[simp] theorem State.deny_measured (s h bar2 a) : (State.deny s h bar2 a).measured = s.measured := (State.deny_keeps s h bar2 a).same .measured (by decide)
@[simp] theorem State.deny_fwWriter (s h bar2 a) : (State.deny s h bar2 a).fwWriter = s.fwWriter := (State.deny_keeps s h bar2 a).same .fwWriter (by decide)
@[simp] theorem State.deny_calib (s h bar2 a) : (State.deny s h bar2 a).calib = s.calib := (State.deny_keeps s h bar2 a).same .calib (by decide)
@[simp] theorem State.deny_heldActs (s h bar2 a) : (State.deny s h bar2 a).heldActs = s.heldActs := (State.deny_keeps s h bar2 a).same .heldActs (by decide)
@[simp] theorem State.deny_tenantResets (s h bar2 a) : (State.deny s h bar2 a).tenantResets = s.tenantResets := (State.deny_keeps s h bar2 a).same .tenantResets (by decide)
@[simp] theorem State.deny_capDown (s h bar2 a) : (State.deny s h bar2 a).capDown = s.capDown := (State.deny_keeps s h bar2 a).same .capDown (by decide)
@[simp] theorem State.deny_ecoDown (s h bar2 a) : (State.deny s h bar2 a).ecoDown = s.ecoDown := (State.deny_keeps s h bar2 a).same .ecoDown (by decide)
@[simp] theorem State.deny_avsMiss (s h bar2 a) : (State.deny s h bar2 a).avsMiss = s.avsMiss := (State.deny_keeps s h bar2 a).same .avsMiss (by decide)
@[simp] theorem State.deny_lastSlow (s h bar2 a) : (State.deny s h bar2 a).lastSlow = s.lastSlow := (State.deny_keeps s h bar2 a).same .lastSlow (by decide)
@[simp] theorem State.deny_keyRepl (s h bar2 a) : (State.deny s h bar2 a).keyRepl = s.keyRepl := (State.deny_keeps s h bar2 a).same .keyRepl (by decide)
@[simp] theorem State.deny_replaceN (s h bar2 a) : (State.deny s h bar2 a).replaceN = s.replaceN := (State.deny_keeps s h bar2 a).same .replaceN (by decide)
@[simp] theorem State.deny_power (s h bar2 a) : (State.deny s h bar2 a).power = s.power := (State.deny_keeps s h bar2 a).same .power (by decide)
@[simp] theorem State.deny_jtag (s h bar2 a) : (State.deny s h bar2 a).jtag = s.jtag := (State.deny_keeps s h bar2 a).same .jtag (by decide)
theorem State.deny_reg (s h bar2 a) (k : RegKind) (i : Nat) (hk : Nat.testBit 71614546043009276470375043733142200974467150070950787626264778474019622751814734774859936 (128 + k.ctorIdx) = false) : (State.deny s h bar2 a).reg k i = s.reg k i := (State.deny_keeps s h bar2 a).same (.reg k) hk i
theorem State.deny_fld (s h bar2 a) (f : Field) (i : Nat) (hk : Nat.testBit 71614546043009276470375043733142200974467150070950787626264778474019622751814734774859936 (128 + f.reg.ctorIdx) = false) : (State.deny s h bar2 a).fld f i = s.fld f i := by rw [State.fld, State.deny_reg s h bar2 a _ _ hk, State.fld]
@[simp] theorem State.capsule_pending (s level code island addr) : (State.capsule s level code island addr).pending = s.pending := (State.capsule_keeps s level code island addr).same .pending (by decide)
@[simp] theorem State.capsule_dtime (s level code island addr) : (State.capsule s level code island addr).dtime = s.dtime := (State.capsule_keeps s level code island addr).same .dtime (by decide)
@[simp] theorem State.capsule_freeCtr (s level code island addr) : (State.capsule s level code island addr).freeCtr = s.freeCtr := (State.capsule_keeps s level code island addr).same .freeCtr (by decide)
@[simp] theorem State.capsule_out (s level code island addr) : (State.capsule s level code island addr).out = s.out := (State.capsule_keeps s level code island addr).same .out (by decide)
@[simp] theorem State.capsule_fuses (s level code island addr) : (State.capsule s level code island addr).fuses = s.fuses := (State.capsule_keeps s level code island addr).same .fuses (by decide)
@[simp] theorem State.capsule_log (s level code island addr) : (State.capsule s level code island addr).log = s.log := (State.capsule_keeps s level code island addr).same .log (by decide)
@[simp] theorem State.capsule_events (s level code island addr) : (State.capsule s level code island addr).events = s.events := (State.capsule_keeps s level code island addr).same .events (by decide)
@[simp] theorem State.capsule_mctp (s level code island addr) : (State.capsule s level code island addr).mctp = s.mctp := (State.capsule_keeps s level code island addr).same .mctp (by decide)
@[simp] theorem State.capsule_geoGen (s level code island addr) : (State.capsule s level code island addr).geoGen = s.geoGen := (State.capsule_keeps s level code island addr).same .geoGen (by decide)
@[simp] theorem State.capsule_geoUpd (s level code island addr) : (State.capsule s level code island addr).geoUpd = s.geoUpd := (State.capsule_keeps s level code island addr).same .geoUpd (by decide)
@[simp] theorem State.capsule_uaLogAt (s level code island addr) : (State.capsule s level code island addr).uaLogAt = s.uaLogAt := (State.capsule_keeps s level code island addr).same .uaLogAt (by decide)
@[simp] theorem State.capsule_denyLogAt (s level code island addr) : (State.capsule s level code island addr).denyLogAt = s.denyLogAt := (State.capsule_keeps s level code island addr).same .denyLogAt (by decide)
@[simp] theorem State.capsule_stewards (s level code island addr) : (State.capsule s level code island addr).stewards = s.stewards := (State.capsule_keeps s level code island addr).same .stewards (by decide)
@[simp] theorem State.capsule_reconTimes (s level code island addr) : (State.capsule s level code island addr).reconTimes = s.reconTimes := (State.capsule_keeps s level code island addr).same .reconTimes (by decide)
@[simp] theorem State.capsule_reconLog (s level code island addr) : (State.capsule s level code island addr).reconLog = s.reconLog := (State.capsule_keeps s level code island addr).same .reconLog (by decide)
@[simp] theorem State.capsule_preTest (s level code island addr) : (State.capsule s level code island addr).preTest = s.preTest := (State.capsule_keeps s level code island addr).same .preTest (by decide)
@[simp] theorem State.capsule_rebuildAt (s level code island addr) : (State.capsule s level code island addr).rebuildAt = s.rebuildAt := (State.capsule_keeps s level code island addr).same .rebuildAt (by decide)
@[simp] theorem State.capsule_rebuildWarned (s level code island addr) : (State.capsule s level code island addr).rebuildWarned = s.rebuildWarned := (State.capsule_keeps s level code island addr).same .rebuildWarned (by decide)
@[simp] theorem State.capsule_staging (s level code island addr) : (State.capsule s level code island addr).staging = s.staging := (State.capsule_keeps s level code island addr).same .staging (by decide)
@[simp] theorem State.capsule_pattern (s level code island addr) : (State.capsule s level code island addr).pattern = s.pattern := (State.capsule_keeps s level code island addr).same .pattern (by decide)
@[simp] theorem State.capsule_bootA (s level code island addr) : (State.capsule s level code island addr).bootA = s.bootA := (State.capsule_keeps s level code island addr).same .bootA (by decide)
@[simp] theorem State.capsule_bootB (s level code island addr) : (State.capsule s level code island addr).bootB = s.bootB := (State.capsule_keeps s level code island addr).same .bootB (by decide)
@[simp] theorem State.capsule_load (s level code island addr) : (State.capsule s level code island addr).load = s.load := (State.capsule_keeps s level code island addr).same .load (by decide)
@[simp] theorem State.capsule_bg (s level code island addr) : (State.capsule s level code island addr).bg = s.bg := (State.capsule_keeps s level code island addr).same .bg (by decide)
@[simp] theorem State.capsule_cores (s level code island addr) : (State.capsule s level code island addr).cores = s.cores := (State.capsule_keeps s level code island addr).same .cores (by decide)
@[simp] theorem State.capsule_geom (s level code island addr) : (State.capsule s level code island addr).geom = s.geom := (State.capsule_keeps s level code island addr).same .geom (by decide)
@[simp] theorem State.capsule_buckets (s level code island addr) : (State.capsule s level code island addr).buckets = s.buckets := (State.capsule_keeps s level code island addr).same .buckets (by decide)
@[simp] theorem State.capsule_wheels (s level code island addr) : (State.capsule s level code island addr).wheels = s.wheels := (State.capsule_keeps s level code island addr).same .wheels (by decide)
@[simp] theorem State.capsule_devLevels (s level code island addr) : (State.capsule s level code island addr).devLevels = s.devLevels := (State.capsule_keeps s level code island addr).same .devLevels (by decide)
@[simp] theorem State.capsule_spools (s level code island addr) : (State.capsule s level code island addr).spools = s.spools := (State.capsule_keeps s level code island addr).same .spools (by decide)
@[simp] theorem State.capsule_comps (s level code island addr) : (State.capsule s level code island addr).comps = s.comps := (State.capsule_keeps s level code island addr).same .comps (by decide)
@[simp] theorem State.capsule_rotor (s level code island addr) : (State.capsule s level code island addr).rotor = s.rotor := (State.capsule_keeps s level code island addr).same .rotor (by decide)
@[simp] theorem State.capsule_inflight (s level code island addr) : (State.capsule s level code island addr).inflight = s.inflight := (State.capsule_keeps s level code island addr).same .inflight (by decide)
@[simp] theorem State.capsule_nextUid (s level code island addr) : (State.capsule s level code island addr).nextUid = s.nextUid := (State.capsule_keeps s level code island addr).same .nextUid (by decide)
@[simp] theorem State.capsule_chunks (s level code island addr) : (State.capsule s level code island addr).chunks = s.chunks := (State.capsule_keeps s level code island addr).same .chunks (by decide)
@[simp] theorem State.capsule_seqs (s level code island addr) : (State.capsule s level code island addr).seqs = s.seqs := (State.capsule_keeps s level code island addr).same .seqs (by decide)
@[simp] theorem State.capsule_pins (s level code island addr) : (State.capsule s level code island addr).pins = s.pins := (State.capsule_keeps s level code island addr).same .pins (by decide)
@[simp] theorem State.capsule_nsKeys (s level code island addr) : (State.capsule s level code island addr).nsKeys = s.nsKeys := (State.capsule_keeps s level code island addr).same .nsKeys (by decide)
@[simp] theorem State.capsule_frames (s level code island addr) : (State.capsule s level code island addr).frames = s.frames := (State.capsule_keeps s level code island addr).same .frames (by decide)
@[simp] theorem State.capsule_epochs (s level code island addr) : (State.capsule s level code island addr).epochs = s.epochs := (State.capsule_keeps s level code island addr).same .epochs (by decide)
@[simp] theorem State.capsule_images (s level code island addr) : (State.capsule s level code island addr).images = s.images := (State.capsule_keeps s level code island addr).same .images (by decide)
@[simp] theorem State.capsule_cacheSf (s level code island addr) : (State.capsule s level code island addr).cacheSf = s.cacheSf := (State.capsule_keeps s level code island addr).same .cacheSf (by decide)
@[simp] theorem State.capsule_metaSf (s level code island addr) : (State.capsule s level code island addr).metaSf = s.metaSf := (State.capsule_keeps s level code island addr).same .metaSf (by decide)
@[simp] theorem State.capsule_parity (s level code island addr) : (State.capsule s level code island addr).parity = s.parity := (State.capsule_keeps s level code island addr).same .parity (by decide)
@[simp] theorem State.capsule_dropPaused (s level code island addr) : (State.capsule s level code island addr).dropPaused = s.dropPaused := (State.capsule_keeps s level code island addr).same .dropPaused (by decide)
@[simp] theorem State.capsule_outRem (s level code island addr) : (State.capsule s level code island addr).outRem = s.outRem := (State.capsule_keeps s level code island addr).same .outRem (by decide)
@[simp] theorem State.capsule_rowN (s level code island addr) : (State.capsule s level code island addr).rowN = s.rowN := (State.capsule_keeps s level code island addr).same .rowN (by decide)
@[simp] theorem State.capsule_gens (s level code island addr) : (State.capsule s level code island addr).gens = s.gens := (State.capsule_keeps s level code island addr).same .gens (by decide)
@[simp] theorem State.capsule_viewCache (s level code island addr) : (State.capsule s level code island addr).viewCache = s.viewCache := (State.capsule_keeps s level code island addr).same .viewCache (by decide)
@[simp] theorem State.capsule_histPages (s level code island addr) : (State.capsule s level code island addr).histPages = s.histPages := (State.capsule_keeps s level code island addr).same .histPages (by decide)
@[simp] theorem State.capsule_viewSlots (s level code island addr) : (State.capsule s level code island addr).viewSlots = s.viewSlots := (State.capsule_keeps s level code island addr).same .viewSlots (by decide)
@[simp] theorem State.capsule_viewWaits (s level code island addr) : (State.capsule s level code island addr).viewWaits = s.viewWaits := (State.capsule_keeps s level code island addr).same .viewWaits (by decide)
@[simp] theorem State.capsule_pbase (s level code island addr) : (State.capsule s level code island addr).pbase = s.pbase := (State.capsule_keeps s level code island addr).same .pbase (by decide)
@[simp] theorem State.capsule_syncAt (s level code island addr) : (State.capsule s level code island addr).syncAt = s.syncAt := (State.capsule_keeps s level code island addr).same .syncAt (by decide)
@[simp] theorem State.capsule_plainMem (s level code island addr) : (State.capsule s level code island addr).plainMem = s.plainMem := (State.capsule_keeps s level code island addr).same .plainMem (by decide)
@[simp] theorem State.capsule_poisonLines (s level code island addr) : (State.capsule s level code island addr).poisonLines = s.poisonLines := (State.capsule_keeps s level code island addr).same .poisonLines (by decide)
@[simp] theorem State.capsule_orphanLines (s level code island addr) : (State.capsule s level code island addr).orphanLines = s.orphanLines := (State.capsule_keeps s level code island addr).same .orphanLines (by decide)
@[simp] theorem State.capsule_orphanLog (s level code island addr) : (State.capsule s level code island addr).orphanLog = s.orphanLog := (State.capsule_keeps s level code island addr).same .orphanLog (by decide)
@[simp] theorem State.capsule_extents (s level code island addr) : (State.capsule s level code island addr).extents = s.extents := (State.capsule_keeps s level code island addr).same .extents (by decide)
@[simp] theorem State.capsule_released (s level code island addr) : (State.capsule s level code island addr).released = s.released := (State.capsule_keeps s level code island addr).same .released (by decide)
@[simp] theorem State.capsule_snoopFilter (s level code island addr) : (State.capsule s level code island addr).snoopFilter = s.snoopFilter := (State.capsule_keeps s level code island addr).same .snoopFilter (by decide)
@[simp] theorem State.capsule_snoops (s level code island addr) : (State.capsule s level code island addr).snoops = s.snoops := (State.capsule_keeps s level code island addr).same .snoops (by decide)
@[simp] theorem State.capsule_lineQ (s level code island addr) : (State.capsule s level code island addr).lineQ = s.lineQ := (State.capsule_keeps s level code island addr).same .lineQ (by decide)
@[simp] theorem State.capsule_lostHosts (s level code island addr) : (State.capsule s level code island addr).lostHosts = s.lostHosts := (State.capsule_keeps s level code island addr).same .lostHosts (by decide)
@[simp] theorem State.capsule_unbackedLogAt (s level code island addr) : (State.capsule s level code island addr).unbackedLogAt = s.unbackedLogAt := (State.capsule_keeps s level code island addr).same .unbackedLogAt (by decide)
@[simp] theorem State.capsule_curLog (s level code island addr) : (State.capsule s level code island addr).curLog = s.curLog := (State.capsule_keeps s level code island addr).same .curLog (by decide)
@[simp] theorem State.capsule_rlinks (s level code island addr) : (State.capsule s level code island addr).rlinks = s.rlinks := (State.capsule_keeps s level code island addr).same .rlinks (by decide)
@[simp] theorem State.capsule_ringOut (s level code island addr) : (State.capsule s level code island addr).ringOut = s.ringOut := (State.capsule_keeps s level code island addr).same .ringOut (by decide)
@[simp] theorem State.capsule_rctx (s level code island addr) : (State.capsule s level code island addr).rctx = s.rctx := (State.capsule_keeps s level code island addr).same .rctx (by decide)
@[simp] theorem State.capsule_ringHeld (s level code island addr) : (State.capsule s level code island addr).ringHeld = s.ringHeld := (State.capsule_keeps s level code island addr).same .ringHeld (by decide)
@[simp] theorem State.capsule_camReqs (s level code island addr) : (State.capsule s level code island addr).camReqs = s.camReqs := (State.capsule_keeps s level code island addr).same .camReqs (by decide)
@[simp] theorem State.capsule_gws (s level code island addr) : (State.capsule s level code island addr).gws = s.gws := (State.capsule_keeps s level code island addr).same .gws (by decide)
@[simp] theorem State.capsule_qps (s level code island addr) : (State.capsule s level code island addr).qps = s.qps := (State.capsule_keeps s level code island addr).same .qps (by decide)
@[simp] theorem State.capsule_qpKeys (s level code island addr) : (State.capsule s level code island addr).qpKeys = s.qpKeys := (State.capsule_keeps s level code island addr).same .qpKeys (by decide)
@[simp] theorem State.capsule_shOut (s level code island addr) : (State.capsule s level code island addr).shOut = s.shOut := (State.capsule_keeps s level code island addr).same .shOut (by decide)
@[simp] theorem State.capsule_pfcUntil (s level code island addr) : (State.capsule s level code island addr).pfcUntil = s.pfcUntil := (State.capsule_keeps s level code island addr).same .pfcUntil (by decide)
@[simp] theorem State.capsule_atsCache (s level code island addr) : (State.capsule s level code island addr).atsCache = s.atsCache := (State.capsule_keeps s level code island addr).same .atsCache (by decide)
@[simp] theorem State.capsule_orphanPend (s level code island addr) : (State.capsule s level code island addr).orphanPend = s.orphanPend := (State.capsule_keeps s level code island addr).same .orphanPend (by decide)
@[simp] theorem State.capsule_linkIn (s level code island addr) : (State.capsule s level code island addr).linkIn = s.linkIn := (State.capsule_keeps s level code island addr).same .linkIn (by decide)
@[simp] theorem State.capsule_hdm (s level code island addr) : (State.capsule s level code island addr).hdm = s.hdm := (State.capsule_keeps s level code island addr).same .hdm (by decide)
@[simp] theorem State.capsule_evLost (s level code island addr) : (State.capsule s level code island addr).evLost = s.evLost := (State.capsule_keeps s level code island addr).same .evLost (by decide)
@[simp] theorem State.capsule_evPolicy (s level code island addr) : (State.capsule s level code island addr).evPolicy = s.evPolicy := (State.capsule_keeps s level code island addr).same .evPolicy (by decide)
@[simp] theorem State.capsule_flash (s level code island addr) : (State.capsule s level code island addr).flash = s.flash := (State.capsule_keeps s level code island addr).same .flash (by decide)
@[simp] theorem State.capsule_units (s level code island addr) : (State.capsule s level code island addr).units = s.units := (State.capsule_keeps s level code island addr).same .units (by decide)
@[simp] theorem State.capsule_streams (s level code island addr) : (State.capsule s level code island addr).streams = s.streams := (State.capsule_keeps s level code island addr).same .streams (by decide)
@[simp] theorem State.capsule_eraseLists (s level code island addr) : (State.capsule s level code island addr).eraseLists = s.eraseLists := (State.capsule_keeps s level code island addr).same .eraseLists (by decide)
@[simp] theorem State.capsule_victims (s level code island addr) : (State.capsule s level code island addr).victims = s.victims := (State.capsule_keeps s level code island addr).same .victims (by decide)
@[simp] theorem State.capsule_journalUnit (s level code island addr) : (State.capsule s level code island addr).journalUnit = s.journalUnit := (State.capsule_keeps s level code island addr).same .journalUnit (by decide)
@[simp] theorem State.capsule_slcTarget (s level code island addr) : (State.capsule s level code island addr).slcTarget = s.slcTarget := (State.capsule_keeps s level code island addr).same .slcTarget (by decide)
@[simp] theorem State.capsule_checkpointAt (s level code island addr) : (State.capsule s level code island addr).checkpointAt = s.checkpointAt := (State.capsule_keeps s level code island addr).same .checkpointAt (by decide)
@[simp] theorem State.capsule_copiedCw (s level code island addr) : (State.capsule s level code island addr).copiedCw = s.copiedCw := (State.capsule_keeps s level code island addr).same .copiedCw (by decide)
@[simp] theorem State.capsule_saved (s level code island addr) : (State.capsule s level code island addr).saved = s.saved := (State.capsule_keeps s level code island addr).same .saved (by decide)
@[simp] theorem State.capsule_tdis (s level code island addr) : (State.capsule s level code island addr).tdis = s.tdis := (State.capsule_keeps s level code island addr).same .tdis (by decide)
@[simp] theorem State.capsule_sessions (s level code island addr) : (State.capsule s level code island addr).sessions = s.sessions := (State.capsule_keeps s level code island addr).same .sessions (by decide)
@[simp] theorem State.capsule_signed (s level code island addr) : (State.capsule s level code island addr).signed = s.signed := (State.capsule_keeps s level code island addr).same .signed (by decide)
@[simp] theorem State.capsule_ideKeys (s level code island addr) : (State.capsule s level code island addr).ideKeys = s.ideKeys := (State.capsule_keeps s level code island addr).same .ideKeys (by decide)
@[simp] theorem State.capsule_dataKeys (s level code island addr) : (State.capsule s level code island addr).dataKeys = s.dataKeys := (State.capsule_keeps s level code island addr).same .dataKeys (by decide)
@[simp] theorem State.capsule_sealReq (s level code island addr) : (State.capsule s level code island addr).sealReq = s.sealReq := (State.capsule_keeps s level code island addr).same .sealReq (by decide)
@[simp] theorem State.capsule_memKey (s level code island addr) : (State.capsule s level code island addr).memKey = s.memKey := (State.capsule_keeps s level code island addr).same .memKey (by decide)
@[simp] theorem State.capsule_serial (s level code island addr) : (State.capsule s level code island addr).serial = s.serial := (State.capsule_keeps s level code island addr).same .serial (by decide)
@[simp] theorem State.capsule_serialTop (s level code island addr) : (State.capsule s level code island addr).serialTop = s.serialTop := (State.capsule_keeps s level code island addr).same .serialTop (by decide)
@[simp] theorem State.capsule_keyRows (s level code island addr) : (State.capsule s level code island addr).keyRows = s.keyRows := (State.capsule_keeps s level code island addr).same .keyRows (by decide)
@[simp] theorem State.capsule_nonce (s level code island addr) : (State.capsule s level code island addr).nonce = s.nonce := (State.capsule_keeps s level code island addr).same .nonce (by decide)
@[simp] theorem State.capsule_deviceCerts (s level code island addr) : (State.capsule s level code island addr).deviceCerts = s.deviceCerts := (State.capsule_keeps s level code island addr).same .deviceCerts (by decide)
@[simp] theorem State.capsule_ownerCerts (s level code island addr) : (State.capsule s level code island addr).ownerCerts = s.ownerCerts := (State.capsule_keeps s level code island addr).same .ownerCerts (by decide)
@[simp] theorem State.capsule_lcTarget (s level code island addr) : (State.capsule s level code island addr).lcTarget = s.lcTarget := (State.capsule_keeps s level code island addr).same .lcTarget (by decide)
@[simp] theorem State.capsule_slotA (s level code island addr) : (State.capsule s level code island addr).slotA = s.slotA := (State.capsule_keeps s level code island addr).same .slotA (by decide)
@[simp] theorem State.capsule_slotB (s level code island addr) : (State.capsule s level code island addr).slotB = s.slotB := (State.capsule_keeps s level code island addr).same .slotB (by decide)
@[simp] theorem State.capsule_fwRun (s level code island addr) : (State.capsule s level code island addr).fwRun = s.fwRun := (State.capsule_keeps s level code island addr).same .fwRun (by decide)
@[simp] theorem State.capsule_measured (s level code island addr) : (State.capsule s level code island addr).measured = s.measured := (State.capsule_keeps s level code island addr).same .measured (by decide)
@[simp] theorem State.capsule_fwWriter (s level code island addr) : (State.capsule s level code island addr).fwWriter = s.fwWriter := (State.capsule_keeps s level code island addr).same .fwWriter (by decide)
@[simp] theorem State.capsule_calib (s level code island addr) : (State.capsule s level code island addr).calib = s.calib := (State.capsule_keeps s level code island addr).same .calib (by decide)
@[simp] theorem State.capsule_heldActs (s level code island addr) : (State.capsule s level code island addr).heldActs = s.heldActs := (State.capsule_keeps s level code island addr).same .heldActs (by decide)
@[simp] theorem State.capsule_tenantResets (s level code island addr) : (State.capsule s level code island addr).tenantResets = s.tenantResets := (State.capsule_keeps s level code island addr).same .tenantResets (by decide)
@[simp] theorem State.capsule_capDown (s level code island addr) : (State.capsule s level code island addr).capDown = s.capDown := (State.capsule_keeps s level code island addr).same .capDown (by decide)
@[simp] theorem State.capsule_ecoDown (s level code island addr) : (State.capsule s level code island addr).ecoDown = s.ecoDown := (State.capsule_keeps s level code island addr).same .ecoDown (by decide)
@[simp] theorem State.capsule_avsMiss (s level code island addr) : (State.capsule s level code island addr).avsMiss = s.avsMiss := (State.capsule_keeps s level code island addr).same .avsMiss (by decide)
@[simp] theorem State.capsule_lastSlow (s level code island addr) : (State.capsule s level code island addr).lastSlow = s.lastSlow := (State.capsule_keeps s level code island addr).same .lastSlow (by decide)
@[simp] theorem State.capsule_keyRepl (s level code island addr) : (State.capsule s level code island addr).keyRepl = s.keyRepl := (State.capsule_keeps s level code island addr).same .keyRepl (by decide)
@[simp] theorem State.capsule_replaceN (s level code island addr) : (State.capsule s level code island addr).replaceN = s.replaceN := (State.capsule_keeps s level code island addr).same .replaceN (by decide)
@[simp] theorem State.capsule_power (s level code island addr) : (State.capsule s level code island addr).power = s.power := (State.capsule_keeps s level code island addr).same .power (by decide)
@[simp] theorem State.capsule_jtag (s level code island addr) : (State.capsule s level code island addr).jtag = s.jtag := (State.capsule_keeps s level code island addr).same .jtag (by decide)
theorem State.capsule_reg (s level code island addr) (k : RegKind) (i : Nat) (hk : Nat.testBit 61440 (128 + k.ctorIdx) = false) : (State.capsule s level code island addr).reg k i = s.reg k i := (State.capsule_keeps s level code island addr).same (.reg k) hk i
theorem State.capsule_fld (s level code island addr) (f : Field) (i : Nat) (hk : Nat.testBit 61440 (128 + f.reg.ctorIdx) = false) : (State.capsule s level code island addr).fld f i = s.fld f i := by rw [State.fld, State.capsule_reg s level code island addr _ _ hk, State.fld]
end Sys2Proof.Machine
end

