-- ==== Sys2Proof/Laws/Completion.lean ====
section
/-!
SUPPORT. What shared operations answer when nothing stands in their way: a command that ends, a line that is served at once, a read after a write of the plain region, a
generation that is installed, a work request that starts.
-/

set_option Elab.async false
namespace Sys2Proof.Machine
theorem completes_next {i : Instr} {s t : State} {p : State → Prop} (h : exec i s = .next t) (hp : p t) : Completes i s p := ⟨t, h, hp⟩

theorem cmd_finish (s : State) (c : Cmd) (code : Nat) (r0 r1 : Word) : (s.finish c code r0 r1).cmd c.uid = none := by
  simp only [State.cmd, State.finish, State.pushDone, State.setComp]
  split <;> simp

theorem comp_setComp (s : State) (t m : Nat) (c : CompSpool) : (s.setComp t m c).comp t m = c := by
  simp [State.comp, State.setComp, mapFind_mapIns]

theorem finish_ended {s u : State} (c : Cmd) (code : Nat) (r0 r1 : Word) (h : u.comps = s.comps) :
    Ended s (u.finish c code r0 r1) c code r0 r1 := by
  refine ⟨cmd_finish _ _ _ _ _, ?_⟩
  have e : ∀ v : State, v.comps = s.comps → v.comp c.tenant c.cq = s.comp c.tenant c.cq := fun v hv => by simp [State.comp, hv]
  simp only [State.finish, State.pushDone, comp_setComp, doneOf]
  split
  · rw [e _ (by simpa using h)]
  · rw [e _ (by simpa using h)]

theorem Ended.after {s u t : State} {c : Cmd} {code : Nat} {r0 r1 : Word} (h : Ended s u c code r0 r1) (hc : t.comps = u.comps)
    (hi : t.inflight = u.inflight) : Ended s t c code r0 r1 := by
  simpa only [Ended, State.cmd, State.comp, hc, hi] using h

theorem cmd_uid {s : State} {u : Nat} {c : Cmd} (h : s.cmd u = some c) : c.uid = u := by
  have := List.find?_some h
  simpa using this

theorem State.fld_setFld_reg (s : State) (f g : Field) (v i n : Nat) (h : f.reg ≠ g.reg) : (s.setFld f v i).fld g n = s.fld g n :=
  s.fld_setFld_ne f g v i n (fun e => h e.1)
theorem State.fld_setReg_reg (s : State) (k : RegKind) (g : Field) (w : Word) (i n : Nat) (h : k ≠ g.reg) : (s.setReg k i w).fld g n = s.fld g n := by
  rw [State.fld, State.reg_setReg, if_neg (fun e => h e.1), State.fld]
theorem State.fld_setReg_same (s : State) (g : Field) (w : Word) (i : Nat) : (s.setReg g.reg i w).fld g i = bitsOf w g.hi g.lo := by
  simp [State.fld]
theorem State.spool_setSpool (s : State) (t n : Nat) (p : Spool) : (s.setSpool t n p).spool t n = p := by
  simp [State.spool, State.setSpool, mapFind_mapIns]
theorem fld_of {s t : State} {f : Field} (h : Part.same s t (.reg f.reg)) (i : Nat) : t.fld f i = s.fld f i := by
  simp only [State.fld]; rw [h i]
theorem putBytes_full (n : Nat) (bs : List Byte) (h : bs.length = n) : putBytes (List.replicate n none) 0 bs = bs.map some := by
  apply List.ext_getElem
  · simp [putBytes, h]
  · intro i h1 h2
    simp only [putBytes, List.length_mapIdx, List.length_replicate, List.length_map] at h1 h2
    simp [putBytes, List.getElem?_eq_getElem h2]
theorem mapM_id_some {α : Type} (l : List α) : (l.map some).mapM id = some l := by
  induction l with
  | nil => rfl
  | cons a l ih => simp [List.mapM_cons, ih]

theorem State.fld_of_reg {s t : State} (f : Field) (i : Nat) (h : t.reg f.reg i = s.reg f.reg i) : t.fld f i = s.fld f i := by rw [State.fld, h, State.fld]
theorem spoolError_state (s : State) (t n err q tag : Nat) : (s.spoolError t n err q tag).sqError t n = true := by
  simp only [State.spoolError]
  split
  · assumption
  · simp only [State.sqError, State.flag]
    rw [show (s.setReg .SPL_SQE (sqIdx t n) (packWord [(32, q % seqMod), (16, tag), (4, err), (0, 1)])).fld Fd.SPL_SQE_STATE (sqIdx t n) = _ from
      State.fld_setReg_same s Fd.SPL_SQE_STATE _ _]
    simp only [Fd.SPL_SQE_STATE, bitsOf, packWord, List.foldl, BitVec.toNat_ofNat, seqMod, beq_iff_eq]
    omega

theorem overrun_effect (s : State) (t n q : Nat) :
    (s.overrun t n q).sqTail t n = s.sqTail t n ∧ (s.overrun t n q).sqError t n = true ∧ (s.overrun t n q).flag Fd.TNT_ERR_CREDOVR t = true := by
  have ex : ∃ tag, s.overrun t n q = ((((s.spoolError t n errCredit q tag).setFld Fd.TNT_ERR_CREDOVR 1 t).addFld Fd.SPL_ERRCNT_CREDCNT 1).logEv 0x0501 1 noIsland
    (some t) n ((((s.spoolError t n errCredit q tag).setFld Fd.TNT_ERR_CREDOVR 1 t).addFld Fd.SPL_ERRCNT_CREDCNT 1).fld Fd.SPL_SQE_ERRSEQ (sqIdx t n))) := ⟨_, rfl⟩
  obtain ⟨tag, ex⟩ := ex
  rw [ex]
  generalize hs1 : s.spoolError t n errCredit q tag = s1
  have e1 : s1.sqError t n = true := by rw [← hs1]; exact spoolError_state ..
  have e2 : s1.sqTail t n = s.sqTail t n := by
    rw [← hs1]; exact State.fld_of_reg _ _ ((State.spoolError_keeps s t n errCredit q tag).same (.reg .SPL_SQS) (by decide) _)
  generalize hs2 : s1.setFld Fd.TNT_ERR_CREDOVR 1 t = s2
  have f1 : s2.sqError t n = true := by rw [← hs2]; rw [State.sqError, State.flag, State.fld_setFld_reg _ _ _ _ _ _ (by decide)]; exact e1
  have f2 : s2.sqTail t n = s.sqTail t n := by rw [← hs2, ← e2]; exact State.fld_setFld_reg _ _ _ _ _ _ (by decide)
  have f3 : s2.fld Fd.TNT_ERR_CREDOVR t = 1 := by rw [← hs2]; exact State.fld_setFld_same _ _ _ _ (by decide) (by decide)
  generalize hs3 : s2.addFld Fd.SPL_ERRCNT_CREDCNT 1 = s3
  have g1 : s3.sqError t n = true := by
    rw [← hs3, State.sqError, State.flag, State.addFld, State.fld_setFld_reg _ _ _ _ _ _ (by decide)]; exact f1
  have g2 : s3.sqTail t n = s.sqTail t n := by rw [← hs3, ← f2]; exact State.fld_setFld_reg _ _ _ _ _ _ (by decide)
  have g3 : s3.fld Fd.TNT_ERR_CREDOVR t = 1 := by rw [← hs3, ← f3]; exact State.fld_setFld_reg _ _ _ _ _ _ (by decide)
  generalize s3.fld Fd.SPL_SQE_ERRSEQ _ = a
  have k := (State.logEv_keeps s3 0x0501 1 noIsland (some t) n a).same
  refine ⟨?_, ?_, ?_⟩
  · rw [← g2]; exact State.fld_of_reg Fd.SPL_SQS_TAIL _ (k (.reg .SPL_SQS) (by decide) _)
  · rw [State.sqError, State.flag, State.fld_of_reg Fd.SPL_SQE_STATE _ (k (.reg .SPL_SQE) (by decide) _)]; exact g1
  · rw [State.flag, State.fld_of_reg Fd.TNT_ERR_CREDOVR _ (k (.reg .TNT_ERR) (by decide) _), g3]; rfl

theorem bitsOf_ofNat (n hi lo : Nat) (h : n < 18446744073709551616) : bitsOf (BitVec.ofNat 64 n) hi lo = n / 2 ^ lo % 2 ^ (hi + 1 - lo) := by
  rw [bitsOf, BitVec.toNat_ofNat, Nat.mod_eq_of_lt h]

theorem resetSpool_effect (s : State) (t n tail : Nat) (h : tail < 65536) (u : State) (hu : s.resetSpool t n tail = u) :
    (u.spool t n).cells = [] ∧ (u.spool t n).part = [] ∧ (u.spool t n).pos = tail ∧ u.sqNext t n = tail ∧
      u.sqFreed t n = tail ∧ u.sqTail t n = tail ∧ u.sqError t n = false := by
  subst hu
  simp only [State.resetSpool]
  generalize hs1 : (s.cancelSpool t n 2).setSpool t n { (s.cancelSpool t n 2).spool t n with cells := [], part := [], pos := tail, cutting := none, dropped := [] } = s1
  have hp : s1.spool t n = { (s.cancelSpool t n 2).spool t n with cells := [], part := [], pos := tail, cutting := none, dropped := [] } := by
    rw [← hs1]; exact State.spool_setSpool ..
  generalize hw : packWord [(48, tail), (32, tail), (16, tail)] = w
  have hp2 : ((s1.setReg .SPL_SQS (sqIdx t n) w).setReg .SPL_SQE (sqIdx t n) 0).spool t n = s1.spool t n := rfl
  rw [hp2, hp]
  have hf : ∀ g : Field, g.reg = .SPL_SQS → ((s1.setReg .SPL_SQS (sqIdx t n) w).setReg .SPL_SQE (sqIdx t n) 0).fld g (sqIdx t n) = bitsOf w g.hi g.lo := by
    intro g hg
    rw [State.fld_setReg_reg _ _ _ _ _ _ (by rw [hg]; decide), ← hg, State.fld_setReg_same]
  refine ⟨rfl, rfl, rfl, ?_, ?_, ?_, ?_⟩
  · rw [State.sqNext, hf _ rfl, ← hw]; simp only [Fd.SPL_SQS_NEXT, packWord, List.foldl, Nat.reducePow, Nat.reduceAdd, Nat.reduceSub]; rw [bitsOf_ofNat _ _ _ (by omega)]; simp only [Nat.reducePow, Nat.reduceSub]; rw [show (0 + tail * 281474976710656 + tail * 4294967296 + tail * 65536) / 4294967296 = tail * 65536 + tail by omega]; omega
  · rw [State.sqFreed, hf _ rfl, ← hw]; simp only [Fd.SPL_SQS_FREED, packWord, List.foldl, Nat.reducePow, Nat.reduceAdd, Nat.reduceSub]; rw [bitsOf_ofNat _ _ _ (by omega)]; simp only [Nat.reducePow, Nat.reduceSub]; rw [show (0 + tail * 281474976710656 + tail * 4294967296 + tail * 65536) / 281474976710656 = tail by omega]; omega
  · rw [State.sqTail, hf _ rfl, ← hw]; simp only [Fd.SPL_SQS_TAIL, packWord, List.foldl, Nat.reducePow, Nat.reduceAdd, Nat.reduceSub]; rw [bitsOf_ofNat _ _ _ (by omega)]; simp only [Nat.reducePow, Nat.reduceAdd, Nat.reduceSub]; omega
  · rw [State.sqError, State.flag]
    rw [show ((s1.setReg .SPL_SQS (sqIdx t n) w).setReg .SPL_SQE (sqIdx t n) 0).fld Fd.SPL_SQE_STATE (sqIdx t n) = _ from
      State.fld_setReg_same _ Fd.SPL_SQE_STATE _ _]
    decide

theorem spool_setSpool_any (s : State) (a b t n : Nat) (p : Spool) :
    (s.setSpool a b p).spool t n = if sqIdx a b = sqIdx t n then p else s.spool t n := by
  simp only [State.spool, State.setSpool, mapFind_mapIns]
  split <;> simp_all
theorem countPassed_spool (s : State) (a taken t n : Nat) :
    ((s.countPassed a taken).spool t n).cells = (s.spool t n).cells ∧ ((s.countPassed a taken).spool t n).pos = (s.spool t n).pos := by
  unfold State.countPassed
  generalize List.range 4 = l
  induction l generalizing s with
  | nil => exact ⟨rfl, rfl⟩
  | cons i l ih =>
    rw [List.foldl_cons]
    obtain ⟨h1, h2⟩ := ih (s.setSpool a i { s.spool a i with passed := if i ≠ taken && (takeable s a i) then (s.spool a i).passed + 1 else 0 })
    rw [h1, h2, spool_setSpool_any]
    split
    · rename_i e
      have : s.spool a i = s.spool t n := by simp [State.spool, e]
      rw [← this]; exact ⟨rfl, rfl⟩
    · exact ⟨rfl, rfl⟩
theorem opPresenceProbe_keeps2 (s : State) (h t off size port outstanding : Nat)
    (he : (hrtLookup s h true (winAddr t off) false .probeRead).isSome) : Keeps (partMask [.out, .reg .PGT_PRB]) s (opPresenceProbe h t off size port outstanding s) := by
  obtain ⟨x, he⟩ := Option.isSome_iff_exists.1 he
  simp only [opPresenceProbe, he]
  refine .ite (fun _ => .refl ..) fun _ => ?_
  split
  · exact (State.emit_keeps _ _).mono
  · exact (((State.addFld_keeps s Fd.PGT_PRB_PROBES 1 port).mono).step (State.setFld_keeps _ Fd.PGT_PRB_MAXQ _ _)).step (State.emit_keeps _ _)

theorem Ended.reclaimed {s u : State} {c : Cmd} {code : Nat} {r0 r1 : Word} (h : Ended s u c code r0 r1) : Ended s u.reclaim c code r0 r1 :=
  h.after ((State.reclaim_keeps u).same .comps (by decide)) ((State.reclaim_keeps u).same .inflight (by decide))
theorem mapFind_filter {V : Type} {m : NMap V} {p : Nat × V → Bool} {a : Nat} {v : V} (h : mapFind m a = some v) (hp : p (a, v) = true) :
    mapFind (m.filter p) a = some v := by
  induction m with
  | nil => exact nomatch h
  | cons e m ih =>
    obtain ⟨k, w⟩ := e
    simp only [mapFind] at h
    by_cases hk : k = a
    · subst hk; rw [if_pos rfl] at h; obtain rfl := Option.some.inj h
      rw [List.filter_cons_of_pos hp]; simp [mapFind]
    · rw [if_neg hk] at h
      by_cases hq : p (k, w) = true
      · rw [List.filter_cons_of_pos hq]; simp only [mapFind, if_neg hk]; exact ih h
      · rw [List.filter_cons_of_neg hq]; exact ih h
theorem reclaim_chunk {s : State} {h : Nat} {c : Chunk} (hc : s.chunk h = some c) (hr : 0 < refs s h) : s.reclaim.chunk h = some c := by
  rw [State.reclaim]
  have e : ((s.freeChunks.freeFrames.freeImages.freeGens.ladder)).chunks = s.freeChunks.chunks :=
    ((State.ladder_keeps _).same .chunks (by decide)).trans <| ((State.freeGens_keeps _).same .chunks (by decide)).trans (((State.freeImages_keeps _).same .chunks (by decide)).trans ((State.freeFrames_keeps _).same .chunks (by decide)))
  rw [State.chunk, e]
  simp only [State.freeChunks]
  apply mapFind_filter hc
  simp only [chunkDead]
  have : (refs s h == 0) = false := by simp; omega
  simp [this]
theorem mapFind_mem {V : Type} {m : NMap V} {a : Nat} {v : V} (h : mapFind m a = some v) : (a, v) ∈ m := by
  induction m with
  | nil => exact nomatch h
  | cons e m ih =>
    obtain ⟨k, w⟩ := e
    simp only [mapFind] at h
    split at h
    · rename_i hk; obtain rfl := Option.some.inj h; subst hk; exact List.mem_cons_self
    · exact List.mem_cons_of_mem _ (ih h)
theorem mapFind_mapVals {V : Type} (g : Nat → V → V) (m : NMap V) (a : Nat) : mapFind (mapVals g m) a = (mapFind m a).map (g a) := by
  induction m with
  | nil => rfl
  | cons e m ih =>
    obtain ⟨k, w⟩ := e
    simp only [mapVals, List.map_cons, mapFind] at ih ⊢
    split
    · rename_i hk; subst hk; rfl
    · exact ih
/-- A frame that a chunk with a holder refers to stays, though it may be charged to another chunk. -/
theorem reclaim_frame {s : State} {f h : Nat} {x : Frame} {c : Chunk} (hx : mapFind s.frames f = some x) (hc : s.chunk h = some c) (hr : 0 < refs s h)
    (hp : c.pages.any (fun p => p.frame == some f) = true) : ∃ o, mapFind s.reclaim.frames f = some { x with owner := o } := by
  have e : s.reclaim.frames = s.freeChunks.freeFrames.frames :=
    ((State.ladder_keeps _).same .frames (by decide)).trans <| ((State.freeGens_keeps _).same .frames (by decide)).trans ((State.freeImages_keeps _).same .frames (by decide))
  have hk : s.freeChunks.chunk h = some c := by
    simp only [State.chunk, State.freeChunks]
    apply mapFind_filter hc
    have : (refs s h == 0) = false := by simp; omega
    simp [chunkDead, this]
  have hf : 0 < frefs s.freeChunks f := by
    rw [frefs, mapCount, List.countP_pos_iff]
    exact ⟨(h, c), mapFind_mem hk, hp⟩
  rw [e]
  simp only [State.freeFrames, mapFind_mapVals]
  rw [mapFind_filter (v := x) (show mapFind s.freeChunks.frames f = some x from hx) (by simp; omega), Option.map_some]
  split
  · exact ⟨x.owner, rfl⟩
  · split
    · exact ⟨_, rfl⟩
    · exact ⟨x.owner, rfl⟩
theorem refs_pos {s : State} {q h : Nat} {x : Seq} (hq : s.seqOf q = some x) (hx : h ∈ x.chain) : 0 < refs s h := by
  rw [refs, mapCount, List.countP_pos_iff]
  exact ⟨(q, x), mapFind_mem hq, by simpa using hx⟩
theorem recordGeo_profWord (s : State) (prof : Nat) : (s.recordGeo prof).profWord prof = s.profWord prof := by
  simp only [State.recordGeo]
  split
  · rfl
  · rename_i h; simp [State.profWord, mapFind_mapIns, h]

theorem toOption_ok {ε α : Type} {e : Except ε α} {a : α} (h : e.toOption = some a) : e = .ok a := by
  cases e with
  | error _ => exact nomatch h
  | ok b => rw [Option.some.inj h]
theorem takeWhile_all {α : Type} {p : α → Bool} {l : List α} (h : ∀ a ∈ l, p a = true) : l.takeWhile p = l := by
  induction l with
  | nil => rfl
  | cons a l ih => rw [List.takeWhile_cons_of_pos (h a List.mem_cons_self), ih fun b hb => h b (List.mem_cons_of_mem _ hb)]

theorem ended_reclaim {s u : State} (c : Cmd) (code : Nat) (r0 r1 : Word) (h : u.comps = s.comps) :
    Ended s ((u.finish c code r0 r1).reclaim) c code r0 r1 := (finish_ended c code r0 r1 h).reclaimed

theorem coherent_nil (s : State) (c : Cmd) (h : s.snoops.any (fun x => x.uid == some c.uid) = false) : s.coherent c [] [] = (s, true) := by
  simp only [State.coherent, State.coherentFor, h, Bool.false_eq_true, if_false]
  have : snoopsForRanges s c.uid c.curDone [] [] = [] := by simp [snoopsForRanges]
  rw [this, if_pos rfl]
theorem putFrame_same (s : State) (f off : Nat) (bs : List (Option Byte)) (p : Part) (h : p ≠ .frames) (h2 : p ≠ .parity) : p.same s (s.putFrame f off bs) :=
  (State.putFrame_keeps s f off bs).changesOnly (l := [.frames, .parity]) (by decide) p (by simp [h, h2])
theorem putFrame_chunk (s : State) (f off : Nat) (bs : List (Option Byte)) (h : Nat) : (s.putFrame f off bs).chunk h = s.chunk h := by
  rw [State.chunk, State.chunk, show (s.putFrame f off bs).chunks = s.chunks from putFrame_same s f off bs .chunks (by decide) (by decide)]
theorem putFrame_frames {s : State} {f : Nat} {x : Frame} {m : Memory} {bad : Bool} (off : Nat) (bs : List (Option Byte)) (h : mapFind s.frames f = some x)
    (hb : x.body = .raw m bad) :
    (s.putFrame f off bs).frames = mapUpd f (fun x => { x with body := .raw (m.writeMasked off bs) bad }) s.frames := by
  simp only [State.putFrame, h, Option.map_some, hb]
  refine (Keeps.foldl (v := partMask [.parity]) (.refl ..) fun u e => ?_).same .frames (by decide)
  split
  · exact (State.parityByte_keeps ..).mono
  · exact .refl ..
theorem writePage_inPlace (s : State) (h layer f off : Nat) (bs : List (Option Byte)) (picks : List Nat) (k : Chunk) (p : Page) (x : Frame) (m : Memory)
    (h8 : s.chunk h = some k) (h10 : k.page layer = some p) (h11 : p.st ≠ .poisoned) (h12 : p.frame = some f) (h13 : mapFind s.frames f = some x)
    (h14 : x.body = .raw m false) (h15 : frefs s f ≤ 1) : writePage s h layer off bs picks = .done (s.putFrame f off bs) := by
  simp only [writePage, h8, h10, h11, if_false, h12, Option.bind_some, h13, Option.map_some, h14, Bool.false_eq_true, h15, if_true]
theorem writeRows_inPlace (s : State) (h layer f : Nat) (picks : List Nat) (rows : List (Nat × List Byte)) (k : Chunk) (p : Page) (x : Frame) (m : Memory)
    (h8 : s.chunk h = some k) (h10 : k.page layer = some p) (h11 : p.st ≠ .poisoned) (h12 : p.frame = some f) (h13 : mapFind s.frames f = some x)
    (h14 : x.body = .raw m false) (h15 : frefs s f ≤ 1) :
    ∃ s', writeRows s h layer picks rows = .done s' ∧ s'.comps = s.comps ∧ s'.inflight = s.inflight ∧ s'.chunks = s.chunks ∧ s'.seqs = s.seqs ∧
      mapFind s'.frames f = some { x with body := .raw (rows.foldl (fun m r => m.writeMasked r.1 (r.2.map some)) m) false } := by
  induction rows generalizing s x m with
  | nil => exact ⟨s, rfl, rfl, rfl, rfl, rfl, by rw [h13, List.foldl_nil, ← h14]⟩
  | cons r rows ih =>
    obtain ⟨off, bs⟩ := r
    rw [writeRows, writePage_inPlace s h layer f off _ picks k p x m h8 h10 h11 h12 h13 h14 h15]
    have hf : mapFind (s.putFrame f off (bs.map some)).frames f = some { x with body := .raw (m.writeMasked off (bs.map some)) false } := by
      rw [putFrame_frames off _ h13 h14, mapFind_mapUpd, if_pos rfl, h13, Option.map_some]
    have same := putFrame_same s f off (bs.map some)
    obtain ⟨s', e1, e2, e3, e5, e6, e4⟩ := ih (s.putFrame f off (bs.map some)) { x with body := .raw (m.writeMasked off (bs.map some)) false }
      (m.writeMasked off (bs.map some)) ((putFrame_chunk ..).trans h8) hf rfl
      (by rw [frefs, show (s.putFrame f off (bs.map some)).chunks = s.chunks from same .chunks (by decide) (by decide)]; exact h15)
    exact ⟨s', e1, e2.trans (same .comps (by decide) (by decide)), e3.trans (same .inflight (by decide) (by decide)), e5.trans (same .chunks (by decide) (by decide)), e6.trans (same .seqs (by decide) (by decide)), e4⟩
theorem cmd_setCmd {s : State} {u : Nat} {c d : Cmd} (h : s.cmd u = some c) (hd : d.uid = c.uid) : (s.setCmd d).cmd u = some d := by
  have hu := cmd_uid h
  simp only [State.cmd, State.setCmd] at h ⊢
  generalize s.inflight = l at h ⊢
  induction l with
  | nil => exact nomatch h
  | cons a l ih =>
    rw [List.map_cons]
    rw [List.find?_cons] at h ⊢
    by_cases ha : a.uid = u
    · have : (if a.uid = d.uid then d else a) = d := by rw [if_pos (by omega)]
      rw [this]; simp [show d.uid = u by omega]
    · have : (if a.uid = d.uid then d else a) = a := by rw [if_neg (by omega)]
      rw [this]
      have hb : (a.uid == u) = false := by simpa using ha
      rw [hb] at h ⊢
      exact ih h
theorem ready_cmd {s : State} {u op : Nat} {c : Cmd} (h : s.ready u op = some c) : s.cmd u = some c := by
  simp only [State.ready, Option.filter_eq_some_iff] at h; exact h.1

/-- The command that a row acts on before its last cell has come is one in flight, with the words that have come. -/
theorem readyCut_cmd {s : State} {u op k : Nat} {c : Cmd} (h : s.readyCut u op k = some c) : ∃ d, s.cmd u = some d ∧ c.uid = d.uid ∧ c.opcode = op := by
  simp only [State.readyCut, Option.filter_eq_some_iff, Option.map_eq_some_iff, Bool.and_eq_true] at h
  obtain ⟨⟨d, hd, rfl⟩, ⟨⟨⟨ho, _⟩, _⟩, _⟩, _⟩ := h
  refine ⟨d, hd, ?_, beq_iff_eq.1 ho⟩
  unfold State.withCells
  split <;> rfl
/-- A command with all its cells that a row acts on, it acts on too before its last cell has come. -/
theorem readyCut_of_ready {s : State} {u op k : Nat} {c : Cmd} (h : s.ready u op = some c) (hk : 8 * k ≤ c.words.length) :
    s.readyCut u op k = some c ∧ c.full = true := by
  simp only [State.ready, Option.filter_eq_some_iff, Bool.and_eq_true] at h
  obtain ⟨hc, ⟨⟨⟨ho, hf⟩, he⟩, hb⟩, hd⟩ := h
  have hw : s.withCells c = c := if_pos hf
  refine ⟨?_, hf⟩
  simp only [State.readyCut, hc, Option.map_some, hw, Option.filter_eq_some_iff, Bool.and_eq_true]
  exact ⟨trivial, ⟨⟨⟨ho, he⟩, decide_eq_true hk⟩, hb⟩, hd⟩
theorem placeAll_length {s s' : State} {o : Nat} {picks : List Nat} {es : List Encoded} {ps : List Page} (h : s.placeAll o picks es = some (s', ps)) :
    ps.length = es.length := by
  induction es generalizing s s' ps with
  | nil => simp only [State.placeAll, Option.some.injEq, Prod.mk.injEq] at h; rw [← h.2]; rfl
  | cons e es ih =>
    simp only [State.placeAll] at h
    split at h
    · exact nomatch h
    · split at h
      · exact nomatch h
      · rename_i h2
        simp only [Option.some.injEq, Prod.mk.injEq] at h
        rw [← h.2, List.length_cons, ih h2, List.length_cons]

theorem putLine_get (s : State) (l x : Nat) (bs : List (Option Byte)) (h : bs.length ≤ 64) :
    (s.putLine l bs).plainMem.get x = (s.plainMem.writeMasked (64 * l) bs).get x := by
  simp only [State.putLine, List.take_of_length_le h]
  split <;> rfl
theorem linePieces_get (n : Nat) (s : State) (a x : Nat) (bs : List Byte) (h : bs.length < n) :
    ((linePieces n a bs).foldl (fun s p => s.putLine p.1 p.2) s).plainMem.get x =
      if a ≤ x ∧ x < a + bs.length then bs.getD (x - a) 0 else s.plainMem.get x := by
  induction n generalizing s a bs with
  | zero => omega
  | succ n ih =>
    rw [linePieces]
    by_cases hb : bs = []
    · subst hb; simp only [if_true, List.foldl_nil, List.length_nil]; rw [if_neg (by omega)]
    · rw [if_neg hb]
      simp only [List.foldl_cons]
      have hl : 0 < bs.length := List.length_pos_iff.2 hb
      have hd : (bs.drop (64 - a % 64)).length < n := by rw [List.length_drop]; omega
      rw [ih _ _ _ hd]
      generalize hp : (List.replicate (a % 64) none ++ (bs.take (64 - a % 64)).map some : List (Option Byte)) = piece
      have hpl : piece.length = a % 64 + min (64 - a % 64) bs.length := by rw [← hp]; simp
      rw [List.length_drop]
      rw [putLine_get _ _ _ _ (by rw [List.length_append, List.length_replicate]; omega), Memory.get_writeMasked]
      by_cases h1 : a + (64 - a % 64) ≤ x ∧ x < a + (64 - a % 64) + (bs.length - (64 - a % 64))
      · rw [if_pos h1, if_pos (by omega)]
        simp only [List.getD_eq_getElem?_getD, List.getElem?_drop]
        rw [show 64 - a % 64 + (x - (a + (64 - a % 64))) = x - a by omega]
      · rw [if_neg h1]
        by_cases h2 : 64 * (a / 64) ≤ x ∧ x < 64 * (a / 64) + 64
        · have hxl : x - 64 * (a / 64) < (piece ++ List.replicate (64 - piece.length) none).length := by simp; omega
          by_cases h3 : a ≤ x ∧ x < a + bs.length
          · rw [if_pos h3]
            have e1 : (piece ++ List.replicate (64 - piece.length) none)[x - 64 * (a / 64)]? = some (some (bs.getD (x - a) 0)) := by
              rw [List.getElem?_append_left (by omega), ← hp, List.getElem?_append_right (by simp; omega), List.length_replicate, List.getElem?_map,
                List.getElem?_take_of_lt (by omega), show x - 64 * (a / 64) - a % 64 = x - a by omega, List.getElem?_eq_getElem (by omega)]
              simp [List.getD_eq_getElem?_getD, List.getElem?_eq_getElem (show x - a < bs.length by omega)]
            rw [List.getD_eq_getElem?_getD, e1, if_pos (by simp only [List.length_append, List.length_replicate]; omega)]; rfl
          · rw [if_neg h3]
            have e1 : (piece ++ List.replicate (64 - piece.length) none)[x - 64 * (a / 64)]? = some none := by
              by_cases h4 : x < a
              · rw [List.getElem?_append_left (by omega), ← hp, List.getElem?_append_left (by rw [List.length_replicate]; omega),
                  List.getElem?_replicate, if_pos (by omega)]
              · rw [List.getElem?_append_right (by omega), List.getElem?_replicate, if_pos (by omega)]
            rw [List.getD_eq_getElem?_getD, e1, if_pos (by simp only [List.length_append, List.length_replicate]; omega)]; rfl
        · rw [if_neg (by simp only [List.length_append, List.length_replicate]; omega), if_neg (by omega)]
theorem plainPut_get (s : State) (a x : Nat) (bs : List Byte) :
    (s.plainPut a bs).plainMem.get x = if a ≤ x ∧ x < a + bs.length then bs.getD (x - a) 0 else s.plainMem.get x :=
  linePieces_get _ _ _ _ _ (Nat.lt_succ_self _)
theorem plainPut_read (s : State) (a : Nat) (bs : List Byte) : (s.plainPut a bs).plainBytes a bs.length = bs := by
  simp only [State.plainBytes, Memory.read]
  apply List.ext_getElem
  · simp
  · intro i h1 h2
    rw [List.getElem_map, List.getElem_range, plainPut_get, if_pos (by omega), Nat.add_sub_cancel_left, List.getD_eq_getElem?_getD, List.getElem?_eq_getElem h2, Option.getD_some]
theorem coherent_true {s : State} {c : Cmd} {r w : List (Nat × Nat)} (h : (s.coherent c r w).2 = true) : s.coherent c r w = (s, true) := by
  simp only [State.coherent, State.coherentFor] at h ⊢
  split
  · rename_i h1; rw [if_pos h1] at h; exact nomatch h
  · rename_i h1; rw [if_neg h1] at h
    split
    · rfl
    · rename_i h2; rw [if_neg h2] at h; exact nomatch h

theorem ready_op {s : State} {u op : Nat} {c : Cmd} (h : s.ready u op = some c) : c.opcode = op := by
  simp only [State.ready, Option.filter_eq_some_iff, Bool.and_eq_true, beq_iff_eq] at h; exact h.2.1.1.1.1
theorem attBegin_effect (s : State) (c : Cmd) (uid : Nat) (qs : List AttSeq) {op k : Nat} (h : s.readyCut uid op k = some c)
    (hw : attWaits { layer := (attCmd s c).layer, seqs := qs, taken := none, waited := false } = []) :
    (s.attBegin c qs).cmd uid = some { c with
      since := s.dtime, fpins := attFrames { layer := (attCmd s c).layer, seqs := qs, taken := none, waited := false }
      work := .attend { layer := (attCmd s c).layer, seqs := qs, taken := none, waited := false } } ∧
    ChangesOnly [.inflight] s (s.attBegin c qs) := by
  unfold State.attBegin
  generalize (attCmd s c).layer = y at hw ⊢
  have hw' : ∀ b, attWaits { layer := y, seqs := qs, taken := none, waited := b } = [] := fun b => hw
  have hf : ∀ b, attFrames { layer := y, seqs := qs, taken := none, waited := b } = attFrames { layer := y, seqs := qs, taken := none, waited := false } := fun b => rfl
  simp only [hw', List.isEmpty_nil, Bool.not_true, List.foldl_nil, hf]
  obtain ⟨d, hd, hu, _⟩ := readyCut_cmd h
  exact ⟨cmd_setCmd (c := d) hd hu, (State.setCmd_keeps s _).changesOnly⟩

theorem attFail_ended {s u : State} (c : Cmd) (code d : Nat) (h : u.comps = s.comps) : Ended s (u.attFail c code d) c code (detailWord d) 0 := by
  unfold State.attFail State.fail
  extract_lets v w x
  have hv : v.comps = s.comps := by
    unfold v
    split
    · exact ((State.addFld_keeps ..).same .comps (by decide)).trans h
    split
    · exact ((State.addFld_keeps ..).same .comps (by decide)).trans h
    split
    · exact ((State.addFld_keeps ..).same .comps (by decide)).trans h
    · exact h
  have hw : w.comps = s.comps := by
    unfold w
    split
    · exact ((State.waitEnds_keeps ..).same .comps (by decide)).trans hv
    · exact hv
  refine ended_reclaim c _ _ _ ?_
  unfold x
  split
  · exact ((State.attSmear_keeps ..).same .comps (by decide)).trans hw
  · exact hw
theorem takeAttention_effect (s : State) (c : Cmd) (w : AttWork) (uid : Nat) (h : s.cmd uid = some c) (hw : ∃ y, c.work = .attend y) :
    (s.takeAttention c w).fld Fd.ATN_PANEL_INEXEC (attPanel s c.tenant) = (s.fld Fd.ATN_PANEL_INEXEC (attPanel s c.tenant) + 1) % 65536 ∧
    (s.takeAttention c w).cmd uid = some { c with work := .attend { w with taken := some s.dtime } } := by
  obtain ⟨y, hw⟩ := hw
  have hw1 : ∀ x, c.withAtt x = { c with work := .attend x } := fun x => by simp [Cmd.withAtt, hw]
  simp only [State.takeAttention, hw1]
  refine ⟨?_, cmd_setCmd (c := c) h rfl⟩
  show State.fld (s.setFld _ _ _) _ _ = _
  rw [State.fld_setFld_same _ _ _ _ (by decide) (by decide)]; rfl

theorem nearGate_ready {s : State} {c : Cmd} {b : Bool} {rs : List NearRange} {d : Option (Nat × Nat × Nat)} (h : c.work = .ready) (hb : b = true)
    (hf : s.nearFault c.tenant rs = none) : s.nearGate c b rs d = none := by
  subst hb; simp only [State.nearGate, h, hf]; rfl
theorem nearCoherent_true {s : State} {c : Cmd} {rs : List NearRange} (h : (s.nearCoherent c rs).2 = true) :
    s.nearCoherent c rs = (s.setCmd { c with work := .near none false }, true) := coherent_true h
theorem nearDone_cmd {s v : State} {u code : Nat} {c d : Cmd} {r0 r1 : Word} {b : Bool} (h : s.cmd u = some c) (hd : d.uid = c.uid)
    (hv : v.inflight = (s.setCmd d).inflight) : (v.nearDone c code r0 r1 b).cmd u = some { c with work := .near (some (code, r0, r1)) b } := by
  have h1 : v.cmd u = some d := by rw [State.cmd, hv]; exact cmd_setCmd h hd
  exact cmd_setCmd h1 (by rw [hd])
theorem nearDone_plain (s : State) (c : Cmd) (code : Nat) (r0 r1 : Word) (b : Bool) : (s.nearDone c code r0 r1 b).plainMem = s.plainMem := rfl
theorem plainPut_inflight (s : State) (a : Nat) (bs : List Byte) : (s.plainPut a bs).inflight = s.inflight := (State.plainPut_keeps s a bs).same .inflight (by decide)
theorem poisonLines_plain (bad : List Nat) (s : State) (k : Nat) : (bad.foldl (fun (s : State) i => s.poisonLine (k + i)) s).plainMem = s.plainMem ∧
    (bad.foldl (fun (s : State) i => s.poisonLine (k + i)) s).inflight = s.inflight := by
  induction bad generalizing s with
  | nil => exact ⟨rfl, rfl⟩
  | cons b bad ih =>
    rw [List.foldl_cons]
    exact ⟨(ih _).1.trans ((State.poisonLine_keeps s _).same .plainMem (by decide)), (ih _).2.trans ((State.poisonLine_keeps s _).same .inflight (by decide))⟩
theorem putMarked_get (s : State) (a x : Nat) (bs : List Byte) (bad : List Nat) :
    (s.putMarked a bs bad).plainMem.get x = if a ≤ x ∧ x < a + bs.length then bs.getD (x - a) 0 else s.plainMem.get x := by
  rw [State.putMarked, (poisonLines_plain _ _ _).1, plainPut_get]
theorem putMarked_read (s : State) (a : Nat) (bs : List Byte) (bad : List Nat) : (s.putMarked a bs bad).plainBytes a bs.length = bs := by
  have := plainPut_read s a bs
  rw [State.plainBytes] at this ⊢
  rw [State.putMarked, (poisonLines_plain _ _ _).1, this]
theorem putMarked_inflight (s : State) (a : Nat) (bs : List Byte) (bad : List Nat) : (s.putMarked a bs bad).inflight = s.inflight := by
  rw [State.putMarked, (poisonLines_plain _ _ _).2, plainPut_inflight]
theorem bytes_of_mem {s t : State} (h : t.plainMem = s.plainMem) (a n : Nat) : t.plainBytes a n = s.plainBytes a n := by rw [State.plainBytes, h, State.plainBytes]
theorem length_fill (k : Nat) (v : Nat) : ((List.range k).flatMap fun _ => leBytes 8 v).length = 8 * k := by
  rw [List.length_flatMap]
  simp only [leBytes, List.length_map, List.length_range]
  induction k with
  | zero => rfl
  | succ k ih => rw [List.range_succ, List.map_append, List.sum_append, ih]; simp; omega

theorem decodeBlocks_setCmd (s : State) (d : Cmd) (prof layer : Nat) (r : Option Nat) (cl : List Nat) (bs : List Block) (l : List Nat) :
    decodeBlocks (s.setCmd d) prof layer r cl bs l = decodeBlocks s prof layer r cl bs l := by
  induction l with
  | nil => rfl
  | cons b l ih => rw [decodeBlocks, ih, decodeBlocks]; rfl
theorem frameBytes_setCmd (s : State) (d : Cmd) (prof layer : Nat) (r : Option Nat) (f : Frame) (o n : Nat) :
    frameBytes (s.setCmd d) prof layer r f o n = frameBytes s prof layer r f o n := by
  simp only [frameBytes, decodeBlocks_setCmd]
theorem pageBytes_setCmd (s : State) (d : Cmd) (c : Chunk) (l b n : Nat): pageBytes (s.setCmd d) c l b n = pageBytes s c l b n := by
  simp only [pageBytes, frameBytes_setCmd]; rfl
theorem viewPiece_setCmd (s : State) (d : Cmd) (l b n : Nat): viewPiece (s.setCmd d) l b n = viewPiece s l b n := by
  simp only [viewPiece, pageBytes_setCmd]; rfl
theorem nearPiece_setCmd (s : State) (d : Cmd) (l b n : Nat): nearPiece (s.setCmd d) l b n = nearPiece s l b n := by
  simp only [nearPiece, viewPiece_setCmd]; rfl
theorem nearRead_setCmd (s : State) (d : Cmd) (t a n : Nat): nearRead (s.setCmd d) t a n = nearRead s t a n := by
  simp only [nearRead, nearPiece_setCmd]
theorem nearViews_effect (s : State) (c : Cmd) (ps : List NearRead) (fill : Bool) :
    (s.nearViews c ps fill).plainMem = s.plainMem ∧
    (s.nearViews c ps fill).inflight = (s.setCmd { c with fpins := (c.fpins ++ (nearFrom ps).map fun x => x.2.2.2).eraseDups }).inflight := by
  unfold State.nearViews
  dsimp only
  split
  · exact ⟨rfl, rfl⟩
  generalize hv : s.setCmd _ = v
  have hm : v.plainMem = s.plainMem := by rw [← hv]; rfl
  have hk : ∀ (l : List (Nat × Nat × Nat × Nat)), Keeps (partMask [.viewCache, .chunks, .reg .PGT_VC]) v (l.foldl (fun (s : State) x => match mapFind s.frames x.2.2.2 with
    | some f => match f.body with
      | .coded _ _ => s.viewFill x.1 x.2.1 x.2.2.2 x.2.2.1 f
      | .raw _ _ => s
    | none => s) v) := fun l => .foldl (.refl ..) fun u a => by
      split
      · split
        · exact (State.viewFill_keeps ..).mono
        · exact .refl ..
      · exact .refl ..
  exact ⟨((hk _).same .plainMem (by decide)).trans hm, (hk _).same .inflight (by decide)⟩
/-- A copy to a plain region of sources that are all data writes their bytes end to end, and nothing else. -/
theorem nearCopy_plain {s : State} {c : Cmd} {u d : Nat} {srcs : List (Nat × Nat)} {parts : List (List NearRead)} (h : s.cmd u = some c)
    (hp : parts = srcs.flatMap fun e => nearRead s c.tenant e.1 e.2) (hw : nearWaits parts.flatten = []) (hb : nearBad parts = []) :
    let t := (s.setCmd { c with work := .near none false }).nearCopy c srcs 2 d
    let bs := nearBytes parts.flatten
    t.plainBytes d bs.length = bs ∧ (∀ x, ¬(d ≤ x ∧ x < d + bs.length) → t.plainMem.get x = s.plainMem.get x) ∧
      t.cmd u = some { c with fpins := (c.fpins ++ (nearFrom parts.flatten).map fun x => x.2.2.2).eraseDups,
                              work := .near (some (Cc.ok, BitVec.ofNat 64 (srcs.map fun e => e.2).sum, 0)) false } := by
  dsimp only
  have hr : (srcs.flatMap fun e => nearRead (s.setCmd { c with work := .near none false }) c.tenant e.1 e.2) = parts := by rw [hp]; simp only [nearRead_setCmd]
  simp only [State.nearCopy, hr, hw, hb, ne_eq, not_true_eq_false, if_false]
  obtain ⟨hm, hi⟩ := nearViews_effect (s.setCmd { c with work := .near none false }) { c with work := .near none false } parts.flatten (([] : List Nat) == [])
  generalize (s.setCmd { c with work := .near none false }).nearViews { c with work := .near none false } parts.flatten (([] : List Nat) == []) = v at hm hi ⊢
  have h0 : (s.setCmd { c with work := .near none false }).cmd u = some { c with work := .near none false } := cmd_setCmd h rfl
  have hc : v.cmd u = some { c with fpins := (c.fpins ++ (nearFrom parts.flatten).map fun x => x.2.2.2).eraseDups, work := .near none false } := by
    rw [State.cmd, hi]; exact cmd_setCmd h0 rfl
  have hu : c.uid = u := cmd_uid h
  subst hu
  rw [hc, Option.getD_some]
  have hd : (2 == 1 && decide (0 < (srcs.map fun e => e.2).sum)) = false := rfl
  simp only [hd]
  generalize nearBytes parts.flatten = bs
  have hput : ∀ q, v.nearPut q 2 d bs = if bs = [] then v else v.plainPut d bs := by
    intro q; unfold State.nearPut; split
    · rfl
    · rw [if_neg (by decide)]
  rw [hput]
  have hcmd : (if bs = [] then v else v.plainPut d bs).cmd c.uid =
      some { c with fpins := (c.fpins ++ (nearFrom parts.flatten).map fun x => x.2.2.2).eraseDups, work := .near none false } := by
    rw [State.cmd]; split
    · exact hc
    · rw [plainPut_inflight]; exact hc
  refine ⟨?_, ?_, ?_⟩
  rotate_left 2
  · unfold State.nearDone; refine cmd_setCmd hcmd ?_; rfl
  · rw [bytes_of_mem (nearDone_plain ..)]
    split
    · rename_i e; subst e; rfl
    · exact plainPut_read _ _ _
  · intro x hx
    rw [nearDone_plain]
    split
    · rw [hm]; rfl
    · rw [plainPut_get, if_neg hx, hm]; rfl

theorem reg_foldSet (s : State) (K J : RegKind) (f : Nat → Word) (n j : Nat) :
    ((List.range n).foldl (fun (s : State) i => s.setReg K i (f i)) s).reg J j = if K = J ∧ j < n then f j else s.reg J j := by
  induction n with
  | zero => simp
  | succ n ih =>
    rw [List.range_succ, List.foldl_append, List.foldl_cons, List.foldl_nil, State.reg_setReg, ih]
    by_cases h : K = J
    · by_cases h2 : n = j
      · subst h2; simp [h]
      · rw [if_neg (fun e => h2 e.2)]
        by_cases h3 : j < n
        · rw [if_pos ⟨h, h3⟩, if_pos ⟨h, by omega⟩]
        · rw [if_neg (fun e => h3 e.2), if_neg (fun e => h3 (by omega))]
    · simp [h]
theorem reg_foldReset (s : State) (K J : RegKind) (n j : Nat) :
    ((List.range n).foldl (fun (s : State) i => s.resetReg K i) s).reg J j = if K = J ∧ j < n then K.resetWord j else s.reg J j := by
  induction n with
  | zero => simp
  | succ n ih =>
    rw [List.range_succ, List.foldl_append, List.foldl_cons, List.foldl_nil, State.reg_resetReg, ih]
    by_cases h : K = J
    · by_cases h2 : n = j
      · subst h2; simp [h]
      · rw [if_neg (fun e => h2 e.2)]
        by_cases h3 : j < n
        · rw [if_pos ⟨h, h3⟩, if_pos ⟨h, by omega⟩]
        · rw [if_neg (fun e => h3 e.2), if_neg (fun e => h3 (by omega))]
    · simp [h]
theorem mapFind_mapVal {V W : Type} (m : NMap V) (f : Nat × V → W) (a : Nat) : mapFind (m.map fun e => (e.1, f e)) a = (mapFind m a).map fun v => f (a, v) := by
  induction m with
  | nil => rfl
  | cons e m ih =>
    obtain ⟨k, v⟩ := e
    simp only [List.map_cons, mapFind]
    by_cases h : k = a
    · simp [h]
    · simp only [if_neg h]; exact ih
theorem gensOf_setGens (s : State) (p t : Nat) (gs : List Gen) : (s.setGens p t gs).gensOf p t = gs := by
  simp only [State.gensOf, State.setGens]
  split
  · simp [mapFind_mapDel, *]
  · simp [mapFind_mapIns]
theorem installTable_current (gs : List Gen) (l : List Nat) (found : Option Gen) (h : ∀ r, found = some r → r ∈ gs ∧ r.table = l) :
    ∃ g ∈ (installTable gs l found).1, g.st = .current ∧ g.table = l := by
  simp only [installTable]
  split
  · rename_i r
    obtain ⟨hm, hp⟩ := h r rfl
    refine ⟨{ (if r.st = .current then { r with st := .old } else r) with st := .current }, ?_, rfl, ?_⟩
    · simp only [ageCurrent, List.map_map, List.mem_map]
      refine ⟨r, hm, ?_⟩
      simp only [Function.comp]
      split
      · simp
      · simp
    · split <;> exact hp
  · exact ⟨_, List.mem_append_right _ List.mem_cons_self, rfl, rfl⟩
theorem reusable_spec {gs : List Gen} {l : List Nat} (r : Gen) (h : reusable gs l = some r) : r ∈ gs ∧ r.table = l := by
  have hp := List.find?_some h
  simp only [Bool.and_eq_true, beq_iff_eq] at hp
  exact ⟨List.mem_of_find?_eq_some h, hp.2⟩
theorem liveEqual_spec {gs : List Gen} {l : List Nat} (r : Gen) (h : liveEqual gs l = some r) : r ∈ gs ∧ r.table = l :=
  ⟨List.mem_of_find?_eq_some h, by simpa using List.find?_some h⟩
theorem mapFind_none_of_above {V : Type} {m : NMap V} {a b : Nat} (h : keysAbove b m) (hab : a ≤ b) : mapFind m a = none := by
  cases hm : mapFind m a with
  | none => rfl
  | some v => have := h _ (mapFind_mem hm); simp only at this; omega
theorem mapFind_filter_sub {V : Type} {m : NMap V} {p : Nat × V → Bool} {a : Nat} {v : V} (hs : mapSorted m = true) (h : mapFind (m.filter p) a = some v) :
    mapFind m a = some v := by
  induction m with
  | nil => exact nomatch h
  | cons e m ih =>
    obtain ⟨k, w⟩ := e
    obtain ⟨h1, h2⟩ := mapSorted_cons.1 hs
    by_cases hp : p (k, w) = true
    · rw [List.filter_cons_of_pos hp] at h
      simp only [mapFind] at h ⊢
      split
      · rename_i hk; rw [if_pos hk] at h; exact h
      · rename_i hk; rw [if_neg hk] at h; exact ih h2 h
    · rw [List.filter_cons_of_neg hp] at h
      have := ih h2 h
      simp only [mapFind]
      split
      · rename_i hk; subst hk
        rw [mapFind_none_of_above h1 (Nat.le_refl _)] at this; exact nomatch this
      · exact this
theorem mapSorted_mapVal {V W : Type} {m : NMap V} (f : Nat × V → W) (h : mapSorted m = true) : mapSorted (m.map fun e => (e.1, f e)) = true := by
  induction m with
  | nil => rfl
  | cons a m ih =>
    cases m with
    | nil => rfl
    | cons b m =>
      simp only [mapSorted, Bool.and_eq_true, List.map_cons] at h ih ⊢
      exact ⟨h.1, ih h.2⟩
theorem gensOf_freeGens_sub {s : State} {p t : Nat} {g : Gen} (hs : mapSorted s.gens = true) (h : g ∈ s.freeGens.gensOf p t) : g ∈ s.gensOf p t := by
  have key : ∀ u : State, u.gens = ((s.gens.map fun e => (e.1, e.2.filter fun g => g.st == .current || decide (0 < genUsers s (e.1 / 256) (e.1 % 256) g.num))).filter fun e => e.2 ≠ []) →
      g ∈ u.gensOf p t → g ∈ s.gensOf p t := by
    intro u hu h
    rw [State.gensOf, hu] at h
    cases hm : mapFind ((s.gens.map fun e => (e.1, e.2.filter fun g => g.st == .current || decide (0 < genUsers s (e.1 / 256) (e.1 % 256) g.num))).filter fun e => e.2 ≠ []) (genKey p t) with
    | none => rw [hm] at h; exact nomatch h
    | some l =>
      rw [hm, Option.getD_some] at h
      have h2 := mapFind_filter_sub (mapSorted_mapVal _ hs) hm
      rw [mapFind_mapVal, Option.map_eq_some_iff] at h2
      obtain ⟨l0, h3, rfl⟩ := h2
      rw [State.gensOf, h3]
      exact (List.mem_filter.1 h).1
  simp only [State.freeGens] at h
  split at h
  · exact key _ rfl h
  · exact key _ rfl h
theorem gensOf_freeGens_current {s : State} {p t : Nat} {g : Gen} (h : g ∈ s.gensOf p t) (hc : g.st = .current) : g ∈ s.freeGens.gensOf p t := by
  have key : ∀ u : State, u.gens = ((s.gens.map fun e => (e.1, e.2.filter fun g => g.st == .current || decide (0 < genUsers s (e.1 / 256) (e.1 % 256) g.num))).filter fun e => e.2 ≠ []) →
      g ∈ u.gensOf p t := by
    intro u hu
    rw [State.gensOf, hu]
    rw [State.gensOf] at h
    cases hm : mapFind s.gens (genKey p t) with
    | none => rw [hm] at h; exact nomatch h
    | some l =>
      rw [hm, Option.getD_some] at h
      have h1 := mapFind_mapVal s.gens (fun e : Nat × List Gen => e.2.filter fun g => g.st == .current || decide (0 < genUsers s (e.1 / 256) (e.1 % 256) g.num)) (genKey p t)
      rw [hm, Option.map_some] at h1
      have hin : g ∈ l.filter (fun g => g.st == .current || decide (0 < genUsers s (genKey p t / 256) (genKey p t % 256) g.num)) := List.mem_filter.2 ⟨h, by simp [hc]⟩
      have h2 := mapFind_filter (p := fun e : Nat × List Gen => decide (e.2 ≠ [])) h1 (decide_eq_true (by exact List.ne_nil_of_mem hin))
      rw [h2]; exact hin
  simp only [State.freeGens]
  split
  · exact key _ rfl
  · exact key _ rfl
theorem reclaim_pre_gens (s : State) : s.freeChunks.freeFrames.freeImages.gens = s.gens :=
  ((State.freeImages_keeps _).same .gens (by decide)).trans (((State.freeFrames_keeps _).same .gens (by decide)).trans ((State.freeChunks_keeps _).same .gens (by decide)))
theorem reclaim_current {s : State} {p t : Nat} {g : Gen} (h : g ∈ s.gensOf p t) (hc : g.st = .current) : g ∈ s.reclaim.gensOf p t := by
  rw [State.reclaim]
  apply gensOf_freeGens_current _ hc
  rw [State.gensOf, reclaim_pre_gens]; exact h
theorem reclaim_gens_sub {s : State} {p t : Nat} {g : Gen} (hs : mapSorted s.gens = true) (h : g ∈ s.reclaim.gensOf p t) : g ∈ s.gensOf p t := by
  rw [State.reclaim] at h
  have := gensOf_freeGens_sub (by rw [reclaim_pre_gens]; exact hs) h
  rw [State.gensOf, reclaim_pre_gens] at this; exact this
theorem sorted_setGens {s : State} (p t : Nat) (gs : List Gen) (h : mapSorted s.gens = true) : mapSorted (s.setGens p t gs).gens = true := by
  simp only [State.setGens]
  split
  · exact mapSorted_mapDel _ h
  · exact mapSorted_mapIns _ _ h

theorem tstate_toState (s : State) (t : Nat) (x : TState) : (s.toState t x).tstate t = x.code := by
  simp only [State.tstate, State.toState]
  rw [State.fld_setFld_same _ _ _ _ (by decide) (by decide)]; cases x <;> rfl
theorem tstate_actErr (s : State) (t e u : Nat) : (s.actErr t e).tstate u = s.tstate u := by
  simp only [State.tstate, State.actErr]
  exact State.fld_setFld_apart _ _ _ _ _ _ (by decide) (by decide) (by decide) (by decide)
theorem acterr_actErr (s : State) (t e : Nat) (h : e < 8) : (s.actErr t e).fld Fd.TNT_STATE_ACTERR t = e := by
  simp only [State.actErr]
  rw [State.fld_setFld_same _ _ _ _ (by decide) (by decide)]
  exact Nat.mod_eq_of_lt (Nat.lt_of_lt_of_le h (by decide))
theorem reg_toState (s : State) (t : Nat) (x : TState) (k : RegKind) (i : Nat) (h : k ≠ .TNT_STATE) : (s.toState t x).reg k i = s.reg k i := by
  simp only [State.toState]; rw [State.reg_setFld, if_neg (fun e => h e.1.symm)]
theorem reg_actErr (s : State) (t e : Nat) (k : RegKind) (i : Nat) (h : k ≠ .TNT_STATE) : (s.actErr t e).reg k i = s.reg k i := by
  simp only [State.actErr]; rw [State.reg_setFld, if_neg (fun e => h e.1.symm)]
theorem keep_reg {m : Nat} {s t : State} (h : Keeps m s t) (k : RegKind) (i : Nat) (hm : m.testBit (Part.reg k).idx = false) : t.reg k i = s.reg k i := by
  have := h.same (.reg k) hm
  exact this i
theorem writeTntCtrl_reg (s : State) (t : Nat) (v : Word) (k : RegKind) (i : Nat) (h : k ≠ .TNT_CTRL) : (s.writeTntCtrl t v).reg k i = s.reg k i := by
  simp only [State.writeTntCtrl]; rw [State.reg_setReg, if_neg (fun e => h e.1.symm)]

theorem pumpLine_idle (s : State) (l n : Nat) (h : ∀ x ∈ s.lineQ, x.line ≠ l) : s.pumpLine l n = s := by
  cases n with
  | zero => rfl
  | succ n =>
    have : s.lineQ.find? (fun r => r.line == l) = none := by
      rw [List.find?_eq_none]; intro x hx; simpa using h x hx
    simp only [State.pumpLine, this]
theorem serve_lineQ (s : State) (r : LineReq) : (s.serve r).lineQ = s.lineQ := by
  have h := State.serve_keeps s r
  exact h.same .lineQ (by decide)
theorem serve_no (s : State) (r : LineReq) (n : Nat) : s.serve { r with no := n } = s.serve r := rfl
theorem request_served (s : State) (r : LineReq) (hq : ∀ x ∈ s.lineQ, x.line ≠ r.line) (h1 : r.started = false) (h2 : snoopsFor s r = []) (h3 : evictionFor s r = []) :
    s.request r = s.serve r := by
  rw [← serve_no s r s.nextUid]
  unfold State.request
  generalize ht : ({ r with no := s.nextUid } : LineReq) = t
  have hl : r.line = t.line := by rw [← ht]
  have hq : ∀ x ∈ s.lineQ, x.line ≠ t.line := by rw [← ht]; exact hq
  have hf : (s.lineQ ++ [t]).find? (fun x => x.line == t.line) = some t := by
    rw [List.find?_append, List.find?_eq_none.2 (by intro x hx; simpa using hq x hx)]; simp
  have hn : t ∉ s.lineQ := fun hm => hq t hm rfl
  have he : (s.lineQ ++ [t]).erase t = s.lineQ := by
    rw [List.erase_append_right _ hn]; simp
  have hs : ∀ l, snoopsFor { s with lineQ := l } t = [] := fun l => by rw [← ht]; exact h2
  have hev : ∀ l, evictionFor { s with lineQ := l } t = [] := fun l => by rw [← ht]; exact h3
  have h1 : t.started = false := by rw [← ht]; exact h1
  rw [hl]
  dsimp only
  rw [State.pumpLine]
  simp only [hf, h1, Bool.false_eq_true, if_false, hs, hev, List.append_nil, if_true, he]
  exact pumpLine_idle _ _ _ (by rw [serve_lineQ]; exact hq)
theorem wake_lineQ (s : State) : s.wake.lineQ = s.lineQ := by simp only [State.wake]; split <;> rfl
theorem wake_plainMem (s : State) : s.wake.plainMem = s.plainMem := by simp only [State.wake]; split <;> rfl
theorem wake_out (s : State) : s.wake.out = s.out := by simp only [State.wake]; split <;> rfl
theorem wake_filter (s : State) : s.wake.snoopFilter = s.snoopFilter := by simp only [State.wake]; split <;> rfl
theorem wake_snoopsFor (s : State) (r : LineReq) : snoopsFor s.wake r = snoopsFor s r := by simp only [snoopsFor, State.sfLine, wake_filter]
theorem wake_evictionFor (s : State) (r : LineReq) : evictionFor s.wake r = evictionFor s r := by simp only [State.wake]; split <;> rfl
theorem plainRequest_served (s : State) (h a : Nat) (op : LineOp) (w : Bool) (hw : w = (match op with | .write _ => true | _ => false)) (e o : Nat)
    (hg : gate s h a w = .ok) (hp : dpaPlace (dpaExtents s.cacheSf) a = .plain e o)
    (hq : s.lineQ.all (fun x => x.line != a / 64) = true)
    (h2 : snoopsFor s { host := some h, line := a / 64, op, started := false, awaits := [], cls := plainClass s h a w } = [])
    (h3 : evictionFor s { host := some h, line := a / 64, op, started := false, awaits := [], cls := plainClass s h a w } = []) :
    s.plainRequest h a op = s.wake.serve { host := some h, line := a / 64, op, started := false, awaits := [], cls := plainClass s h a w } := by
  have : s.plainRequest h a op = s.wake.request { host := some h, line := a / 64, op, started := false, awaits := [], cls := plainClass s h a w } := by
    subst hw
    cases op <;> (simp only at hg; simp only [State.plainRequest, hg, hp])
  rw [this]
  apply request_served
  · intro x hx; rw [wake_lineQ] at hx; have := List.all_eq_true.1 hq x hx; simpa using this
  · rfl
  · rw [wake_snoopsFor]; exact h2
  · rw [wake_evictionFor]; exact h3
theorem devLoad_of {s t : State} (h : Nat) (c : Option Nat) (h1 : t.devLevels = s.devLevels) (h2 : t.buckets = s.buckets) : devLoad t h c = devLoad s h c := by
  simp only [devLoad, State.bucket, h1, h2]
theorem wake_devLoad (s : State) (h : Nat) (c : Option Nat) : devLoad s.wake h c = devLoad s h c := by
  apply devLoad_of <;> (simp only [State.wake]; split <;> rfl)
theorem respond_out (s : State) (h : Nat) (c : Option Nat) : (s.respond h c).out = s.out ++ [.devLoad h (devLoad s h c)] := rfl
theorem respondData_out (s : State) (h : Nat) (bs : List Byte) (p : Bool) (c : Option Nat) :
    (s.respondData h bs p c).out = s.out ++ [.readData h bs p, .devLoad h (devLoad s h c)] := by
  rw [State.respondData, respond_out, State.emit_out, List.append_assoc]; rfl
theorem grant_devLoad (s : State) (l g : Nat) (x : Bool) (h : Nat) (c : Option Nat) : devLoad (s.grant l g x) h c = devLoad s h c := by
  apply devLoad_of <;> (simp only [State.grant]; split <;> rfl)
theorem wake_failed (s : State) : partFailed s.wake = partFailed s := by
  simp only [State.wake]; split
  · rfl
  · simp only [partFailed]; rw [State.fld_setFld_reg _ _ _ _ _ _ (by decide)]

theorem State.grant_out (s : State) (l h : Nat) (x : Bool) : (s.grant l h x).out = s.out := by simp only [State.grant]; split <;> rfl
theorem grant_holds (s : State) (l h : Nat) (x : Bool) (o : Output := .fmReturn 0) : h ∈ ((s.grant l h x)).holdersOf l := by
  have hmake : ∀ e : SfLine, h ∈ holders (if x then ({ line := l, sharers := [], excl := some h } : SfLine)
      else { line := l, sharers := h :: e.sharers.filter (· != h), excl := if e.excl = some h then none else e.excl }) := by
    intro e; cases x <;> simp [holders]
  have hline : ∀ e : SfLine, (if x then ({ line := l, sharers := [], excl := some h } : SfLine)
      else { line := l, sharers := h :: e.sharers.filter (· != h), excl := if e.excl = some h then none else e.excl }).line = l := by
    intro e; cases x <;> rfl
  have key : ∀ m : List SfLine, ∀ e, m.find? (fun e => e.line == l) = some e →
      (m.map fun e => if e.line = l then (if x then ({ line := l, sharers := [], excl := some h } : SfLine)
        else { line := l, sharers := h :: e.sharers.filter (· != h), excl := if e.excl = some h then none else e.excl }) else e).find? (fun e => e.line == l) =
      some (if x then ({ line := l, sharers := [], excl := some h } : SfLine)
        else { line := l, sharers := h :: e.sharers.filter (· != h), excl := if e.excl = some h then none else e.excl }) := by
    intro m e hm
    induction m with
    | nil => exact nomatch hm
    | cons a m ih =>
      rw [List.map_cons]
      rw [List.find?_cons] at hm ⊢
      by_cases ha : a.line = l
      · simp only [ha, beq_self_eq_true, Option.some.injEq] at hm
        subst hm
        simp only [ha, if_true, hline, beq_self_eq_true]
      · have hb : (a.line == l) = false := by simpa using ha
        simp only [hb, if_neg ha] at hm ⊢
        exact ih hm
  simp only [State.grant]
  cases hs : s.sfLine l with
  | some e =>
    simp only [State.holdersOf, State.sfLine]
    rw [State.sfLine] at hs
    rw [key _ _ hs]
    exact hmake e
  | none =>
    rw [State.sfLine] at hs
    simp only [State.holdersOf, State.sfLine]
    rw [List.find?_append, hs]
    simp only [Option.none_or, List.find?_cons, hline { line := l, sharers := [], excl := none }, beq_self_eq_true, Option.map_some, Option.getD_some]
    exact hmake { line := l, sharers := [], excl := none }

theorem wake_chunks (s : State) : s.wake.chunks = s.chunks := by simp only [State.wake]; split <;> rfl
theorem mapFind_filter_none {V : Type} {m : NMap V} {p : Nat × V → Bool} {a : Nat} (h : ∀ v, p (a, v) = false) : mapFind (m.filter p) a = none := by
  induction m with
  | nil => rfl
  | cons e m ih =>
    obtain ⟨k, w⟩ := e
    by_cases hp : p (k, w) = true
    · rw [List.filter_cons_of_pos hp]
      simp only [mapFind]
      rw [if_neg]
      · exact ih
      · intro e; subst e; rw [h] at hp; exact nomatch hp
    · rw [List.filter_cons_of_neg hp]; exact ih
theorem ofLE_leBytes (n v : Nat) (h : v < 256 ^ n) : ofLE (leBytes n v) = v := by
  induction n generalizing v with
  | zero => simp at h; subst h; rfl
  | succ n ih =>
    rw [leBytes, ofLE, ih (v / 256) (by rw [Nat.pow_succ] at h; omega), BitVec.toNat_ofNat]; omega
/-- What a view window's slot names is a page of a chunk. -/
theorem viewTarget_page {s : State} {t slot layer byte h : Nat} {c : Chunk} {p : Page} (e : viewTarget s t slot layer byte = some (h, c, p)) :
    s.chunk h = some c ∧ c.page layer = some p := by
  unfold viewTarget at e
  dsimp only at e
  split at e
  · exact nomatch e
  obtain ⟨c', hc, e⟩ := Option.bind_eq_some_iff.1 e
  obtain ⟨p', hp, e⟩ := Option.bind_eq_some_iff.1 e
  split at e
  · exact nomatch e
  obtain ⟨rfl, rfl, rfl⟩ := Prod.mk.injEq .. ▸ Option.some.inj e
  exact ⟨hc, hp⟩
theorem masked_zero (p : Page) (q : Nat) (h : p.mask = 0) : masked p q = false := by simp [masked, h, bitAt]
theorem ofLE_leBytes_word (v : Word) : ofLE (leBytes 8 v.toNat) = v.toNat := ofLE_leBytes 8 _ v.isLt

theorem operatorHost_of {s t : State} (h1 : t.linkIn = s.linkIn) (h2 : ∀ i, t.reg .CXL_LINKCFG i = s.reg .CXL_LINKCFG i) : operatorHost t = operatorHost s := by
  simp only [operatorHost, fnHost, linkConfig, h1, h2]
theorem operatorHost_unallocated (s : State) (b w : Bool) (h n o : Nat) : operatorHost (s.unallocated b w h n o) = operatorHost s :=
  operatorHost_of ((State.unallocated_keeps s b w h n o).same .linkIn (by decide)) (fun i => keep_reg (State.unallocated_keeps s b w h n o) _ _ (by decide))

theorem rlink_setRlink (s : State) (l : Fin 2) (x : RingLink) : (s.setRlink l.val x).rlink l.val = x := by
  match l with
  | 0 => rfl
  | 1 => rfl
theorem trainLink_fld (s : State) (l : Nat) (f : Field) (i : Nat) (h : f.reg ≠ .SNL_LINK) : (s.trainLink l).fld f i = s.fld f i := by
  simp only [State.trainLink]
  split
  · exact State.fld_setReg_reg _ _ _ _ _ _ (fun e => h e.symm)
  · exact State.fld_setReg_reg _ _ _ _ _ _ (fun e => h e.symm)
theorem fld_setReg_zero (s : State) (g : Field) (i : Nat) : (s.setReg g.reg i 0).fld g i = 0 := by
  rw [State.fld_setReg_same]; simp [bitsOf]

theorem ringArrive_here {s u : State} {m : RingMsg} (link : Nat) (h : m.dst = ringPos s) (hu : u = { s.wake with nextUid := s.nextUid + 1 }) :
    s.ringArrive link m = u.onMsg (jobBase + s.nextUid) link m := by
  rw [State.ringArrive, if_neg (fun e => e h), hu]
theorem targetCheck_ok {u : State} {m : RingMsg} {n : Nat} {wr : Bool} (h3 : ctxState u m.ctx = ctxOpen) (h4 : u.fld Fd.SNL_CTX_CTL_MODE m.ctx = 0)
    (h5 : rangeBacked u (u.hostOf (u.fld Fd.SNL_CTX_CTL_TENANT m.ctx)) m.addr n = true)
    (h6 : rangeDenied u (u.hostOf (u.fld Fd.SNL_CTX_CTL_TENANT m.ctx)) m.addr n wr = none) : u.targetCheck m n wr = (u, none) := by
  simp only [State.targetCheck, h3, h4, h5, h6, ne_eq, not_true_eq_false, or_self, if_false, Bool.not_true, Bool.false_eq_true]
theorem coherentJob_true {u : State} {j : Nat} {r w : List (Nat × Nat)} (h : (u.coherentJob j r w).2 = true) :
    u.coherentJob j r w = ({ u with curLog := mapDel j u.curLog }, true) := by
  simp only [State.coherentJob, State.coherentFor] at h ⊢
  by_cases h1 : (u.snoops.any fun x => x.uid == some j) = true
  · simp only [h1, if_true] at h; exact nomatch h
  · have h1' := Bool.not_eq_true _ ▸ h1
    simp only [h1', Bool.false_eq_true, if_false] at h ⊢
    by_cases h2 : snoopsForRanges u j ((mapFind u.curLog j).getD []) r w = []
    · simp only [h2, if_true]
    · simp only [if_neg h2] at h; exact nomatch h
theorem answer_plain (s : State) (m : RingMsg) (t st d : Nat) (x : List Byte) (b : List Nat) : (s.answer m t st d x b).plainMem = s.plainMem :=
  (State.answer_keeps s m t st d x b).same .plainMem (by decide)
theorem rctxOf_setRctx (s : State) (c : Nat) (x : RingCtx) : (s.setRctx c x).rctxOf c = x := by simp [State.rctxOf, State.setRctx, mapFind_mapIns]

theorem coherentFor_true {u : State} {j : Nat} {c : List Nat} {r w : List (Nat × Nat)} (h : (u.coherentFor j c r w).2 = true) : u.coherentFor j c r w = (u, true) := by
  simp only [State.coherentFor] at h ⊢
  by_cases h1 : (u.snoops.any fun x => x.uid == some j) = true
  · simp only [h1, if_true] at h; exact nomatch h
  · have h1' := Bool.not_eq_true _ ▸ h1
    simp only [h1', Bool.false_eq_true, if_false] at h ⊢
    by_cases h2 : snoopsForRanges u j c r w = []
    · simp only [h2, if_true]
    · simp only [if_neg h2] at h; exact nomatch h

theorem plainPut_done (v : State) (a n c : Nat) (bs : List Byte) (x : RingCtx) (h : bs.length = n) :
    ((v.plainPut a bs).setRctx c x).plainBytes a n = bs ∧ ∀ y, ¬ (a ≤ y ∧ y < a + n) → ((v.plainPut a bs).setRctx c x).plainMem.get y = v.plainMem.get y := by
  subst h
  refine ⟨(bytes_of_mem (s := v.plainPut a bs) rfl _ _).trans (plainPut_read v a bs), ?_⟩
  intro y hy
  refine Eq.trans ?_ ((plainPut_get v a y bs).trans (if_neg hy))
  rfl
theorem leBytes_length (n v : Nat) : (leBytes n v).length = n := by
  induction n generalizing v with
  | zero => rfl
  | succ n ih => rw [leBytes, List.length_cons, ih]

theorem qp_setQp (s : State) (q : Nat) (x : Qp) : (s.setQp q x).qp q = x := by simp [State.qp, State.setQp, mapFind_mapIns]
theorem qpq_qp (s : State) (q e : Nat) : (s.qpq q e).qp q = s.qp q := by
  simp only [State.qp, (show (s.qpq q e).qps = s.qps from (State.qpq_keeps s q e).same .qps (by decide))]
theorem flushSq_ready (s : State) (q n : Nat) (h : (s.qp q).st = qpReady) : s.flushSq q n = s := by
  cases n with
  | zero => rfl
  | succ n => rw [State.flushSq]; rw [if_pos]; left; rw [h]; decide
theorem flushRq_ready (s : State) (q n : Nat) (h : (s.qp q).st = qpReady) : s.flushRq q n = s := by
  cases n with
  | zero => rfl
  | succ n => rw [State.flushRq]; rw [if_pos]; left; rw [h]; decide

theorem wrTake_started {s v : State} {q : Nat} {w : QpWr} {ops : Nat → Bool} {hm : HostMem} {fault : Bool} (h : WrTaken s q w v) (ho : ops w.op = true) :
    s.wrTake q ops hm fault = v.wrStart q w hm fault := by
  obtain ⟨h1, h2, h3, h4, h5, h6⟩ := h
  simp only [State.wrTake, h1, Bool.not_true, Bool.false_eq_true, if_false]
  rw [coherentFor_true h2]
  simp only [← h3, ho, Bool.not_true, Bool.false_eq_true, if_false, h4]
  rw [coherentJob_true h5] at h6 ⊢
  subst h6
  rfl
theorem wrStart_data {v u : State} {q : Nat} {w : QpWr} {hm : HostMem} {fault : Bool} {bs : List Byte} (h1 : wrValid (v.qp q) w = true)
    (h2 : v.wrSource q w hm fault = (u, .data bs)) : v.wrStart q w hm fault = u.wrSend q w bs := by
  simp only [State.wrStart, h1, h2, Bool.not_true, Bool.false_eq_true, if_false]
theorem wrSource_none {v : State} {q : Nat} {w : QpWr} {hm : HostMem} {fault : Bool} (h : wrReads w = false) : v.wrSource q w hm fault = (v, .data []) := by
  simp only [State.wrSource, h, Bool.not_false, if_true]
theorem shReceive_true {s : State} {port src : Nat} {u : ShWire} {p : ShPkt} (h : (s.shReceive port src u p).2 = true) : s.shReceive port src u p = (s.wake, true) := by
  unfold State.shReceive at h ⊢
  extract_lets x at h ⊢
  split
  · rename_i h1; rw [if_pos h1] at h; exact nomatch h
  · rename_i h1; rw [if_neg h1] at h
    split
    · rename_i h2; rw [if_pos h2] at h; exact nomatch h
    · rename_i h2; rw [if_neg h2] at h
      split
      · rename_i h3; rw [if_pos h3] at h; exact nomatch h
      · rename_i h3; rw [if_neg h3] at h
        split
        · rename_i h4; rw [if_pos h4] at h; exact nomatch h
        · rfl
theorem shTarget_true {s : State} {q a n : Nat} {rd wr : Bool} (h : (s.shTarget q a n rd wr).2 = true) : s.shTarget q a n rd wr = (s, true) := by
  unfold State.shTarget at h ⊢
  extract_lets x hh at h ⊢
  split
  · rename_i h1; rw [if_pos h1] at h; exact nomatch h
  · rename_i h1; rw [if_neg h1] at h
    split
    · rename_i h2; rw [if_pos h2] at h; exact nomatch h
    · rename_i h2; rw [if_neg h2] at h
      split
      · rename_i h3; rw [h3] at h; exact nomatch h
      · rename_i h3 h4; rw [h3, h4] at h; exact nomatch h
      · rfl

theorem replaceUnit_targets (v : State) (g : FlashGeo) (u : Nat) {T : List FlashTarget} (h : ∃ g2, v.flash = some g2 ∧ g2.targets = T) :
    ∃ g2, (v.replaceUnit g u).flash = some g2 ∧ g2.targets = T := by
  obtain ⟨g2, h1, h2⟩ := h
  unfold State.replaceUnit
  extract_lets s1 s2
  have e1 : s1.flash = some g2 := h1
  have e2 : ∃ g3, s2.flash = some g3 ∧ g3.targets = T := by
    show ∃ g3, (match pickSpare s1 g u with | some v => _ | none => _ : State).flash = some g3 ∧ g3.targets = T
    split
    · exact ⟨g2, e1, h2⟩
    · refine ⟨{ g2 with lost := g2.lost + 1 }, ?_, h2⟩
      rw [(State.reduced_keeps _).same .flash (by decide), (State.geoBump_keeps _ _).same .flash (by decide)]
      show s1.flash.map _ = _
      rw [e1]; rfl
  split
  · obtain ⟨g3, e3, e4⟩ := e2
    exact ⟨g3, by rw [(State.requestReplace_keeps _ _).same .flash (by decide)]; exact e3, e4⟩
  · exact e2

theorem requestReplace_state (s : State) (b : Nat) : (s.requestReplace b).fld Fd.RAS_STATUS_STATE = s.fld Fd.RAS_STATUS_STATE := by
  unfold State.requestReplace
  split
  · rfl
  · extract_lets first s1 s2 s3
    have h3 : s3.fld Fd.RAS_STATUS_STATE = s.fld Fd.RAS_STATUS_STATE := by
      show (State.rasEvent s2 _ _ _ _ _).fld _ = _
      rw [fld_of ((State.rasEvent_keeps ..).same (.reg .RAS_STATUS) (by decide))]
      show (State.setFld _ Fd.RAS_STATUS_REPLACE 1).fld _ = _
      rw [State.fld_setFld_apart _ _ _ _ _ _ (by decide) (by decide) (by decide) (by decide), State.fld_setFld_reg]
      unfold replField; repeat' split
      all_goals decide
    split
    · rw [fld_of ((State.mctpEvent_keeps ..).same (.reg .RAS_STATUS) (by decide))]; exact h3
    · exact h3
theorem geoBump_gen (s : State) (c : Nat) : (s.geoBump c).geoGen = (s.geoGen + 1) % 2 ^ 32 := by
  simp only [State.geoBump]
  rw [(State.logEv_keeps ..).same .geoGen (by decide), (State.cxlEvent_keeps ..).same .geoGen (by decide)]
theorem setPart_state (s : State) (n : Nat) (h : n < 4) : (s.setPart n).fld Fd.RAS_STATUS_STATE = n := by
  unfold State.setPart
  split
  · assumption
  · rw [fld_of ((State.recovSync_keeps _).same (.reg .RAS_STATUS) (by decide)), fld_of ((State.mctpEvent_keeps ..).same (.reg .RAS_STATUS) (by decide)),
      State.fld_setFld_same _ _ _ _ (by decide) (by decide)]
    exact Nat.mod_eq_of_lt (Nat.lt_of_lt_of_le h (by decide))
theorem core_updCore (s : State) (i : Nat) (f : CoreRec → CoreRec) (h : i < s.cores.length) : (s.updCore i f).core i = f (s.core i) := by
  simp [State.core, State.updCore, h]
theorem reg_coreret {s t : State} (h : Part.same s t (.reg .RAS_CORERET)) (i : Nat) : t.reg .RAS_CORERET i = s.reg .RAS_CORERET i := h i
theorem bitAt_or (w : Word) (i : Nat) (h : i < 64) : bitAt (w ||| BitVec.ofNat 64 (2 ^ i)).toNat i = true := by
  rw [show ∀ n j, bitAt n j = n.testBit j from fun n j => by simp [bitAt, Nat.testBit_eq_decide_div_mod_eq]; rfl]
  rw [BitVec.toNat_or, BitVec.toNat_ofNat, Nat.testBit_or, Nat.testBit_mod_two_pow, Nat.testBit_two_pow_self]; simp [h]
theorem retireCore_free (s : State) (core : Fin 256) (cause : Nat) (h1 : (s.core core.val).good = true) (h2 : (s.core core.val).panel = none) :
    ((s.retireCore core.val cause).core core.val).good = false ∧ bitAt ((s.retireCore core.val cause).reg .RAS_CORERET (core.val / 64)).toNat (core.val % 64) = true ∧
      (s.retireCore core.val cause).geoGen = (s.geoGen + 1) % 2 ^ 32 := by
  unfold State.retireCore
  extract_lets c s1 s2 s3 s4 s5
  have hl : core.val < s.cores.length := by
    apply Classical.byContradiction; intro hn
    simp [State.core, List.getElem?_eq_none (Nat.le_of_not_lt hn), CoreRec.good] at h1
  rw [if_neg (by rw [show c = s.core core.val from rfl, h1]; decide)]
  have hp : c.panel = none := h2
  rw [hp]
  have c5 : s5.cores = s1.cores := by
    have : s4.cores = s1.cores := by
      show (State.rasEvent s3 _ _ _ _ _).cores = _
      rw [(State.rasEvent_keeps ..).same .cores (by decide)]
      show (State.reduced _).cores = _
      rw [(State.reduced_keeps ..).same .cores (by decide), (State.addFld_keeps ..).same .cores (by decide)]
      rfl
    show (if 16 < s4.fld Fd.RAS_STATUS_CORESRET then s4.requestReplace 3 else s4).cores = _
    split
    · rw [(State.requestReplace_keeps ..).same .cores (by decide), this]
    · exact this
  have g5 : s5.geoGen = s.geoGen := by
    have : s4.geoGen = s.geoGen := by
      show (State.rasEvent s3 _ _ _ _ _).geoGen = _
      rw [(State.rasEvent_keeps ..).same .geoGen (by decide)]
      show (State.reduced _).geoGen = _
      rw [(State.reduced_keeps ..).same .geoGen (by decide), (State.addFld_keeps ..).same .geoGen (by decide)]
      rfl
    show (if 16 < s4.fld Fd.RAS_STATUS_CORESRET then s4.requestReplace 3 else s4).geoGen = _
    split
    · rw [(State.requestReplace_keeps ..).same .geoGen (by decide), this]
    · exact this
  have r5 : ∀ i, s5.reg .RAS_CORERET i = s2.reg .RAS_CORERET i := by
    intro i
    have : s4.reg .RAS_CORERET i = s2.reg .RAS_CORERET i := by
      show (State.rasEvent s3 _ _ _ _ _).reg _ i = _
      rw [keep_reg (State.rasEvent_keeps ..) _ _ (by decide)]
      show (State.reduced _).reg _ i = _
      rw [keep_reg (State.reduced_keeps ..) _ _ (by decide), keep_reg (State.addFld_keeps ..) _ _ (by decide)]
    show (if 16 < s4.fld Fd.RAS_STATUS_CORESRET then s4.requestReplace 3 else s4).reg _ i = _
    split
    · rw [keep_reg (State.requestReplace_keeps ..) _ _ (by decide), this]
    · exact this
  refine ⟨?_, ?_, ?_⟩
  · show ((s5.geoBump 3).core core.val).good = false
    rw [State.core, (State.geoBump_keeps ..).same .cores (by decide), c5]
    show (((s.updCore core.val fun c => { c with retired := true }).core core.val).good) = false
    rw [core_updCore _ _ _ hl]; simp [CoreRec.good]
  · show bitAt ((s5.geoBump 3).reg _ _).toNat _ = true
    rw [keep_reg (State.geoBump_keeps ..) _ _ (by decide), r5]
    show bitAt ((State.setReg s1 .RAS_CORERET (core.val / 64) _).reg .RAS_CORERET (core.val / 64)).toNat _ = true
    rw [State.reg_setReg, if_pos ⟨rfl, rfl⟩]
    exact bitAt_or _ _ (Nat.mod_lt _ (by decide))
  · show (s5.geoBump 3).geoGen = _
    rw [geoBump_gen, g5]

theorem cryptoErase_from (s : State) : ∃ v : State, Keeps (partMask [.keyRows, .reg .SEC_NVS, .reg .SEC_LC, .reg .CXL_LINKST, .reg .TNT_STATE, .reg .SEC_TSTAT, .reg .SG_CFG, .reg .SEC_GSTAT]) v s.cryptoErase ∧
    v.dataKeys = [] ∧ v.nsKeys = [] ∧ v.qpKeys = [] ∧ v.ideKeys = [] ∧ v.memKey = s.free ∧ v.qps = [] ∧ v.chunks = [] ∧ v.plainMem = [] := by
  unfold State.cryptoErase
  extract_lets l455 l456 l457 l458 l459
  refine ⟨l456, ?_, rfl, rfl, rfl, rfl, rfl, rfl, rfl, rfl⟩
  refine .have_ (t := l458) ?_ fun h461 => ?_
  · unfold l458
    refine .foldl ?_ fun u a => ?_
    · unfold l457
      refine .step ?_ (State.setFld_keeps ..)
      refine .step ?_ (State.setFld_keeps ..)
      exact .refl ..
    · refine .ite (fun _ => ?_) fun _ => ?_
      · refine .step ?_ (State.setFld_keeps ..)
        exact .refl ..
      · exact .refl ..
  refine .have_ (t := l459) ?_ fun h462 => ?_
  · unfold l459
    refine .foldl ?_ fun u a => ?_
    · exact h461
    · refine .step ?_ (State.keyWrite_keeps ..)
      refine .step ?_ (State.resetReg_keeps ..)
      refine .step ?_ (State.resetReg_keeps ..)
      exact .refl ..
  refine .foldl ?_ fun u a => ?_
  · exact h462
  · refine .step ?_ (State.keyWrite_keeps ..)
    refine .step ?_ (State.setReg_keeps ..)
    refine .step ?_ (State.setFld_keeps ..)
    exact .refl ..
theorem eraseEnds_target (s : State) (n : Nat) : (s.eraseEnds n).lcTarget = none := by
  unfold State.eraseEnds
  extract_lets s1 s2 s3
  have h1 : s1.lcTarget = none := by
    show (State.keyWrite _ _).lcTarget = _
    rw [(State.keyWrite_keeps ..).same .lcTarget (by decide)]; rfl
  have h2 : s2.lcTarget = none := by
    show (if n = 4 then s1.setFld _ _ 0 else s1).lcTarget = none
    split <;> exact h1
  have h3 : s3.lcTarget = none := by
    show (State.setLife _ _).lcTarget = _
    rw [(State.setLife_keeps ..).same .lcTarget (by decide), h2]
  split <;> exact h3
theorem raise_fld (s : State) (f : Field) (n : Nat) (h1 : f.lo ≤ f.hi) (h2 : f.hi < 64) (h : n < 2 ^ (f.hi + 1 - f.lo)) : (s.raise f n).fld f = max (s.fld f) n := by
  unfold State.raise
  split
  · rw [State.fld_setFld_same _ _ _ _ h1 h2, Nat.mod_eq_of_lt h]; omega
  · omega
theorem raise_apart (s : State) (f g : Field) (n : Nat) (h1 : f.lo ≤ f.hi) (h2 : f.hi < 64) (hg : g.lo ≤ g.hi) (h : f.reg ≠ g.reg ∨ f.hi < g.lo ∨ g.hi < f.lo) : (s.raise f n).fld g = s.fld g := by
  unfold State.raise
  split
  · rcases h with h | h
    · exact State.fld_setFld_reg _ _ _ _ _ _ h
    · exact State.fld_setFld_apart _ _ _ _ _ _ h1 h2 hg h
  · rfl
theorem State.fld_lt (s : State) (f : Field) (i : Nat) : s.fld f i < 2 ^ (f.hi + 1 - f.lo) := by
  simp only [State.fld, bitsOf]; exact Nat.mod_lt _ (Nat.two_pow_pos _)

/-- A merge advances the COUNT of the newest record that the test holds for. -/
theorem mergeNewest_split (p : LogRec → Bool) (l : List LogRec) (h : l.any p = true) :
    ∃ a r b, l = a ++ r :: b ∧ p r = true ∧ (∀ x ∈ b, p x = false) ∧ mergeNewest p l = a ++ { r with count := satAdd 16 r.count 1 } :: b := by
  have go : ∀ m : List LogRec, m.any p = true → ∃ a r b, m = a ++ r :: b ∧ p r = true ∧ (∀ x ∈ a, p x = false) ∧
      mergeNewest.go p m = a ++ { r with count := satAdd 16 r.count 1 } :: b := by
    intro m hm
    induction m with
    | nil => exact nomatch hm
    | cons x m ih =>
      by_cases hx : p x = true
      · exact ⟨[], x, m, rfl, hx, (fun _ h => nomatch h), by simp [mergeNewest.go, hx]⟩
      · simp only [List.any_cons, hx, Bool.false_or] at hm
        obtain ⟨a, r, b, e, hr, ha, hg⟩ := ih hm
        refine ⟨x :: a, r, b, by simp [e], hr, ?_, ?_⟩
        · intro y hy
          rcases List.mem_cons.1 hy with rfl | hy
          · simpa using hx
          · exact ha y hy
        · simp [mergeNewest.go, hx, hg]
  obtain ⟨a, r, b, e, hr, ha, hg⟩ := go l.reverse (by simpa using h)
  refine ⟨b.reverse, r, a.reverse, ?_, hr, fun x hx => ha x (by simpa using hx), ?_⟩
  · have := congrArg List.reverse e
    simpa using this
  · simp [mergeNewest, hg]

/-- A new record is the last of the ring. -/
theorem logAppend_log (s : State) (code sev island : Nat) (tenant : Option Nat) (a0 a1 : Nat) :
    (s.logAppend code sev island tenant a0 a1).log =
      (s.log ++ [({ dtime := s.dtime, count := 1, island, tenant, sev, code, arg0 := a0, arg1 := a1 } : LogRec)]).drop (s.log.length + 1 - 8192) := by
  have hc : ∀ (u : State) (l c i a : Nat), (u.capsule l c i a).log = u.log := fun u l c i a => (State.capsule_keeps u l c i a).same .log (by decide)
  unfold State.logAppend
  dsimp only
  rw [apply_ite State.log]
  simp only [State.mctpEvent, hc, ite_self, State.addFld, State.incFld, State.setFld_log, List.length_append, List.length_singleton, Config.logRecords]

/-- After an event LOG holds a record of it, written within the last 1 ms. -/
theorem logEv_has (s : State) (code sev island : Nat) (tenant : Option Nat) (a0 a1 : Nat) :
    ∃ r ∈ (s.logEv code sev island tenant a0 a1).log, r.code = code ∧ r.island = island ∧ r.tenant = tenant ∧ s.dtime ≤ r.dtime + 1000000 := by
  simp only [State.logEv]
  split
  · rename_i h
    obtain ⟨a, r, b, e, hr, _, hm⟩ := mergeNewest_split _ _ h
    simp only [mergesWith, Bool.and_eq_true, beq_iff_eq, decide_eq_true_eq] at hr
    refine ⟨{ r with count := satAdd 16 r.count 1 }, ?_, hr.1.1.1, hr.1.1.2, hr.1.2, hr.2⟩
    show _ ∈ mergeNewest _ s.log
    rw [hm]; simp
  · refine ⟨{ dtime := s.dtime, count := 1, island, tenant, sev, code, arg0 := a0, arg1 := a1 }, ?_, rfl, rfl, rfl, Nat.le_add_right _ _⟩
    rw [logAppend_log, List.mem_iff_getElem?]
    refine ⟨s.log.length - (s.log.length + 1 - 8192), ?_⟩
    rw [List.getElem?_drop, List.getElem?_append_right (by omega), show _ - s.log.length = 0 by omega]
    rfl

/-- R153: an overrun is recorded. -/
theorem overrun_log (s : State) (t n q : Nat) :
    ∃ r ∈ (s.overrun t n q).log, r.code = 0x0501 ∧ r.tenant = some t ∧ s.dtime ≤ r.dtime + 1000000 := by
  have ex : ∃ tag a, s.overrun t n q = ((((s.spoolError t n errCredit q tag).setFld Fd.TNT_ERR_CREDOVR 1 t).addFld Fd.SPL_ERRCNT_CREDCNT 1).logEv 0x0501 1 noIsland
    (some t) n a) := ⟨_, _, rfl⟩
  obtain ⟨tag, a, ex⟩ := ex
  rw [ex]
  obtain ⟨r, h1, h2, _, h3, h4⟩ := logEv_has ((((s.spoolError t n errCredit q tag).setFld Fd.TNT_ERR_CREDOVR 1 t).addFld Fd.SPL_ERRCNT_CREDCNT 1)) 0x0501 1 noIsland (some t) n a
  refine ⟨r, h1, h2, h3, ?_⟩
  have : (s.spoolError t n errCredit q tag).dtime = s.dtime := (State.spoolError_keeps s t n errCredit q tag).same .dtime (by decide)
  simpa [State.addFld, this] using h4

/-- An overrun holds no cell. -/
theorem overrun_cells (s : State) (t n q : Nat) : ((s.overrun t n q).spool t n) = s.spool t n := by
  have := (State.overrun_keeps s t n q).same .spools (by decide)
  simp only [State.spool]; rw [this]

/-- Every field lies within its 64-bit register. -/
theorem field_widths (k : RegKind) : ∀ f ∈ k.fields, f.lo ≤ f.hi ∧ f.hi < 64 := by cases k <;> decide
/-- The fields of a register do not overlap. -/
theorem field_apart (k : RegKind) : ∀ f ∈ k.fields, ∀ g ∈ k.fields, f ≠ g → f.hi < g.lo ∨ g.hi < f.lo := by cases k <;> decide

/-- A run of more than 64 slots without METADATA, from `run` slots before the list on. -/
theorem longestRun_le (l : List Nat) : ∀ run best, longestRun run best l ≤ 64 ↔
    best ≤ 64 ∧ ∀ i, i + 65 ≤ run + l.length → ∃ j < 65, run ≤ i + j ∧ l[i + j - run]? = some codeMeta := by
  induction l with
  | nil =>
    intro run best
    simp only [longestRun, List.length_nil, Nat.add_zero, List.getElem?_nil]
    constructor
    · intro h; exact ⟨by omega, fun i hi => by omega⟩
    · intro ⟨h1, h2⟩
      by_cases h : run ≤ 64
      · omega
      · obtain ⟨_, _, _, h3⟩ := h2 0 (by omega); exact nomatch h3
  | cons b l ih =>
    intro run best
    simp only [longestRun]
    by_cases hb : b = codeMeta
    · rw [if_pos hb, ih]
      constructor
      · intro ⟨h1, h2⟩
        refine ⟨by omega, fun i hi => ?_⟩
        by_cases hr : i ≤ run
        · exact ⟨run - i, by omega, by omega, by rw [show i + (run - i) - run = 0 by omega, hb]; rfl⟩
        · rw [List.length_cons] at hi
          obtain ⟨j, hj, h3, h4⟩ := h2 (i - run - 1) (by omega)
          refine ⟨j, hj, by omega, ?_⟩
          rw [show i + j - run = (i - run - 1 + j - 0) + 1 by omega, List.getElem?_cons_succ]; exact h4
      · intro ⟨h1, h2⟩
        refine ⟨?_, fun i hi => ?_⟩
        · by_cases h : run ≤ 64
          · omega
          · obtain ⟨j, hj, h3, _⟩ := h2 0 (by rw [List.length_cons]; omega); omega
        · obtain ⟨j, hj, h3, h4⟩ := h2 (i + run + 1) (by rw [List.length_cons]; omega)
          refine ⟨j, hj, by omega, ?_⟩
          rw [show i + run + 1 + j - run = (i + j - 0) + 1 by omega, List.getElem?_cons_succ] at h4; exact h4
    · rw [if_neg hb, ih]
      constructor
      · intro ⟨h1, h2⟩
        refine ⟨h1, fun i hi => ?_⟩
        obtain ⟨j, hj, h3, h4⟩ := h2 i (by rw [List.length_cons] at hi; omega)
        refine ⟨j, hj, by omega, ?_⟩
        rw [show i + j - run = (i + j - (run + 1)) + 1 by omega, List.getElem?_cons_succ]; exact h4
      · intro ⟨h1, h2⟩
        refine ⟨h1, fun i hi => ?_⟩
        obtain ⟨j, hj, h3, h4⟩ := h2 i (by rw [List.length_cons]; omega)
        by_cases h0 : i + j - run = 0
        · rw [h0, List.getElem?_cons_zero] at h4; exact absurd (Option.some.inj h4) hb
        · refine ⟨j, hj, by omega, ?_⟩
          rw [show i + j - run = (i + j - (run + 1)) + 1 by omega, List.getElem?_cons_succ] at h4; exact h4

/-- The references of a generation do not depend on the list of generations. -/
theorem genUsers_freeGens (s : State) (p t n : Nat) : genUsers s.freeGens p t n = genUsers s p t n := by
  have key : ∀ u : State, u.frames = s.frames → u.images = s.images → u.chunks = s.chunks → u.inflight = s.inflight → genUsers u p t n = genUsers s p t n := by
    intro u h1 h2 h3 h4
    have hc : ∀ a, u.chunk a = s.chunk a := fun a => by simp only [State.chunk, h3]
    simp only [genUsers, genUsersOf, h1, h2, h3, h4, hc]
  have k := (State.freeGens_keeps s).same
  exact key _ (k .frames (by decide)) (k .images (by decide)) (k .chunks (by decide)) (k .inflight (by decide))
/-- R315: which generations of a tensor are left. -/
theorem gensOf_freeGens_iff {s : State} {p t : Nat} {g : Gen} (hs : mapSorted s.gens = true) (ht : t < 256) :
    g ∈ s.freeGens.gensOf p t ↔ g ∈ s.gensOf p t ∧ (g.st = .current ∨ 0 < genUsers s p t g.num) := by
  have hk : genKey p t / 256 = p ∧ genKey p t % 256 = t := by simp only [genKey]; omega
  have key : ∀ u : State, u.gens = ((s.gens.map fun e => (e.1, e.2.filter fun g => g.st == .current || decide (0 < genUsers s (e.1 / 256) (e.1 % 256) g.num))).filter fun e => e.2 ≠ []) →
      (g ∈ u.gensOf p t ↔ g ∈ s.gensOf p t ∧ (g.st = .current ∨ 0 < genUsers s p t g.num)) := by
    intro u hu
    have h1 := mapFind_mapVal s.gens (fun e : Nat × List Gen => e.2.filter fun g => g.st == .current || decide (0 < genUsers s (e.1 / 256) (e.1 % 256) g.num)) (genKey p t)
    simp only [hk] at h1
    rw [State.gensOf, hu, State.gensOf]
    constructor
    · intro h
      cases hm : mapFind ((s.gens.map fun e => (e.1, e.2.filter fun g => g.st == .current || decide (0 < genUsers s (e.1 / 256) (e.1 % 256) g.num))).filter fun e => e.2 ≠ []) (genKey p t) with
      | none => rw [hm] at h; exact nomatch h
      | some l =>
        rw [hm, Option.getD_some] at h
        have h2 := mapFind_filter_sub (mapSorted_mapVal _ hs) hm
        rw [h1, Option.map_eq_some_iff] at h2
        obtain ⟨l0, h3, rfl⟩ := h2
        rw [h3]
        have := List.mem_filter.1 h
        exact ⟨this.1, by simpa using this.2⟩
    · intro ⟨h, hg⟩
      cases hm : mapFind s.gens (genKey p t) with
      | none => rw [hm] at h; exact nomatch h
      | some l =>
        rw [hm, Option.getD_some] at h
        rw [hm, Option.map_some] at h1
        have hin : g ∈ l.filter (fun g => g.st == .current || decide (0 < genUsers s p t g.num)) := List.mem_filter.2 ⟨h, by simpa using hg⟩
        have h2 := mapFind_filter (p := fun e : Nat × List Gen => decide (e.2 ≠ [])) h1 (decide_eq_true (by exact List.ne_nil_of_mem hin))
        rw [h2]; exact hin
  simp only [State.freeGens]
  split
  · exact key _ rfl
  · exact key _ rfl

/-- Choosing the best of a list: the choice is an element that passes, and no other that passes is better. -/
theorem foldl_best {α : Type} (p : α → Bool) (lt : α → α → Bool) (irr : ∀ a, lt a a = false)
    (tr : ∀ a b c, lt a b = false → lt b c = false → lt a c = false) (as : ∀ a b, lt a b = true → lt b a = false)
    (l : List α) (f : Option α → α → Option α)
    (hf : ∀ best e, f best e = if p e = true then (match best with | none => some e | some b => if lt e b then some e else some b) else best) :
    ∀ init, (∀ x, init = some x → p x = true) →
      match l.foldl f init with
      | none => init = none ∧ ∀ e ∈ l, p e = false
      | some x => (init = some x ∨ x ∈ l) ∧ p x = true ∧ (∀ b, init = some b → lt b x = false) ∧ ∀ e ∈ l, p e = true → lt e x = false := by
  induction l with
  | nil =>
    intro init hi
    cases init with
    | none => exact ⟨rfl, fun _ h => nomatch h⟩
    | some x => exact ⟨Or.inl rfl, hi x rfl, fun b hb => by cases hb; exact irr x, fun _ h => nomatch h⟩
  | cons a l ih =>
    intro init hi
    rw [List.foldl_cons]
    have hi2 : ∀ x, f init a = some x → p x = true := by
      intro x hx
      rw [hf] at hx
      split at hx
      · rename_i ha
        cases init with
        | none => cases hx; exact ha
        | some b =>
          simp only at hx
          split at hx
          · cases hx; exact ha
          · cases hx; exact hi _ rfl
      · exact hi _ hx
    have := ih (f init a) hi2
    split at this
    · rename_i hn
      obtain ⟨h1, h2⟩ := this
      rw [hf] at h1
      split at h1
      · cases init with
        | none => exact nomatch h1
        | some b => simp only at h1; split at h1 <;> exact nomatch h1
      · rename_i ha
        refine ⟨h1, fun e he => ?_⟩
        rcases List.mem_cons.1 he with rfl | he
        · simpa using ha
        · exact h2 e he
    · rename_i x hx
      obtain ⟨h1, h2, h3, h4⟩ := this
      rw [hf] at h1 h3
      by_cases ha : p a = true
      · simp only [if_pos ha] at h1 h3
        cases init with
        | none =>
          simp only at h1 h3
          refine ⟨Or.inr ?_, h2, (fun _ h => nomatch h), ?_⟩
          · rcases h1 with h1 | h1
            · cases h1; exact List.mem_cons_self
            · exact List.mem_cons_of_mem _ h1
          · intro e he hp
            rcases List.mem_cons.1 he with rfl | he
            · exact h3 _ rfl
            · exact h4 e he hp
        | some b =>
          simp only at h1 h3
          by_cases hl : lt a b = true
          · simp only [if_pos hl] at h1 h3
            refine ⟨Or.inr ?_, h2, ?_, ?_⟩
            · rcases h1 with h1 | h1
              · cases h1; exact List.mem_cons_self
              · exact List.mem_cons_of_mem _ h1
            · intro b' hb'; cases hb'
              exact tr _ _ _ (as _ _ hl) (h3 _ rfl)
            · intro e he hp
              rcases List.mem_cons.1 he with rfl | he
              · exact h3 _ rfl
              · exact h4 e he hp
          · simp only [if_neg hl] at h1 h3
            refine ⟨?_, h2, h3, ?_⟩
            · rcases h1 with h1 | h1
              · exact Or.inl h1
              · exact Or.inr (List.mem_cons_of_mem _ h1)
            · intro e he hp
              rcases List.mem_cons.1 he with rfl | he
              · exact tr _ _ _ (by simpa using hl) (h3 _ rfl)
              · exact h4 e he hp
      · simp only [if_neg ha] at h1 h3
        refine ⟨?_, h2, h3, ?_⟩
        · rcases h1 with h1 | h1
          · exact Or.inl h1
          · exact Or.inr (List.mem_cons_of_mem _ h1)
        · intro e he hp
          rcases List.mem_cons.1 he with rfl | he
          · exact absurd hp ha
          · exact h4 e he hp

/-- R550: what the choice of a victim answers. -/
theorem victim_best (s : State) (g : FlashGeo) :
    let ok := fun e : Nat × EraseUnit =>
      unitInCache s g e.1 && !unitGone s g e.1 && decide (0 < e.2.written) && e.2.opened.isNone && !e.2.pend && !e.2.failed && !s.victims.contains e.1
    (∀ u, nextVictim s g = some u → ∃ e ∈ s.units, ok e = true ∧
      (∀ x ∈ s.units, ok x = true → ¬(validCw s x.1 < validCw s e.1 ∨ (validCw s x.1 = validCw s e.1 ∧ x.2.lastProg < e.2.lastProg))) ∧ e.1 = u) ∧
    (nextVictim s g = none → ∀ e ∈ s.units, ok e = false) := by
  intro ok
  let key : Nat × EraseUnit → Nat × Nat × Nat := fun e => (validCw s e.1, e.2.lastProg, e.1)
  let f : Option (Nat × EraseUnit) → Nat × EraseUnit → Option (Nat × EraseUnit) := fun best e =>
    if ok e = true then (match best with | none => some e | some b => if (validCw s e.1 < validCw s b.1 ∨ (validCw s e.1 = validCw s b.1 ∧ e.2.lastProg < b.2.lastProg)) then some e else some b) else best
  have hmap : ∀ (l : List (Nat × EraseUnit)) (init : Option (Nat × EraseUnit)),
      l.foldl (fun (best : Option (Nat × Nat × Nat)) e =>
        if unitInCache s g e.1 && !unitGone s g e.1 && decide (0 < e.2.written) && e.2.opened.isNone && !e.2.pend && !e.2.failed && !s.victims.contains e.1 then
          let k := (validCw s e.1, e.2.lastProg, e.1)
          match best with
          | none => some k
          | some b => if k.1 < b.1 ∨ (k.1 = b.1 ∧ k.2.1 < b.2.1) then some k else some b
        else best) (init.map key) = (l.foldl f init).map key := by
    intro l
    induction l with
    | nil => intro init; rfl
    | cons a l ih =>
      intro init
      rw [List.foldl_cons, List.foldl_cons, ← ih]
      congr 1
      simp only [f, ok, key]
      cases init with
      | none => split <;> rfl
      | some b =>
        simp only [Option.map_some]
        split
        · split <;> rfl
        · rfl
  have hb := foldl_best ok (fun e b => decide (validCw s e.1 < validCw s b.1 ∨ (validCw s e.1 = validCw s b.1 ∧ e.2.lastProg < b.2.lastProg)))
    (by intro a; simp) (by intro a b c; simp only [decide_eq_false_iff_not]; omega) (by intro a b; simp only [decide_eq_true_eq, decide_eq_false_iff_not]; omega)
    s.units f (by intro best e; cases best <;> simp [f]) none (fun _ h => nomatch h)
  have hv : nextVictim s g = ((s.units.foldl f none).map key).map fun b => b.2.2 := by
    rw [← hmap s.units none]; rfl
  rw [hv]
  cases hr : s.units.foldl f none with
  | none =>
    rw [hr] at hb
    exact ⟨(fun u h => nomatch h), fun _ => hb.2⟩
  | some x =>
    rw [hr] at hb
    refine ⟨fun u h => ?_, fun h => nomatch h⟩
    simp only [Option.map_some, Option.some.injEq, key] at h
    refine ⟨x, ?_, hb.2.1, ?_, h⟩
    · rcases hb.1 with h' | h'
      · exact nomatch h'
      · exact h'
    · intro y hy hk
      simpa using hb.2.2.2 y hy hk

/-- The same of a choice that was made. -/
theorem foldl_best_some {α : Type} {l : List α} {f : Option α → α → Option α} {x : α} (hx : l.foldl f none = some x) (p : α → Bool) (lt : α → α → Bool)
    (irr : ∀ a, lt a a = false) (tr : ∀ a b c, lt a b = false → lt b c = false → lt a c = false) (as : ∀ a b, lt a b = true → lt b a = false)
    (hf : ∀ best e, f best e = if p e = true then (match best with | none => some e | some b => if lt e b then some e else some b) else best) :
    x ∈ l ∧ p x = true ∧ ∀ e ∈ l, p e = true → lt e x = false := by
  have h := foldl_best p lt irr tr as l f hf none (fun _ h => nomatch h)
  rw [hx] at h
  obtain ⟨h1, h2, _, h4⟩ := h
  refine ⟨?_, h2, h4⟩
  rcases h1 with h1 | h1
  · exact nomatch h1
  · exact h1

theorem withAction_action (w : Word) (a : Nat) (h : a < 16) : bitsOf (withAction w a) 3 0 = a := by
  rw [withAction, bitsOf_setBits_same _ _ (by decide) (by decide)]; exact Nat.mod_eq_of_lt h
theorem withAction_above (w : Word) (a : Nat) {hi lo : Nat} (h : 3 < lo) : bitsOf (withAction w a) hi lo = bitsOf w hi lo :=
  bitsOf_setBits_above _ _ (by decide) (by decide) h
theorem patState_state (s : State) (n : Nat) (h : n < 8) : (s.patState n).fld Fd.PAT_STATUS_STATE = n := by
  unfold State.patState
  split
  · assumption
  · show (s.setFld Fd.PAT_STATUS_STATE n).fld Fd.PAT_STATUS_STATE = n
    rw [State.fld_setFld_same _ _ _ _ (by decide) (by decide)]
    exact Nat.mod_eq_of_lt (Nat.lt_of_lt_of_le h (by decide))
theorem loadEnds_effect (s : State) (l : LoadRun) (e : PatErr) : LoadEnded s (s.loadEnds l e) l.swap e := by
  refine ⟨?_, (State.loadEnds_keeps ..).same .pattern (by decide), ?_, ?_⟩
  · unfold State.loadEnds
    rw [(State.releaseHeld_keeps _).same .load (by decide), (State.loadFails_keeps ..).same .load (by decide)]
    split
    · rfl
    · exact ((State.patState_keeps ..).same .load (by decide))
  · unfold State.loadEnds
    rw [(State.releaseHeld_keeps _).same .bg (by decide)]
    rfl
  · unfold State.loadEnds
    rw [keep_reg (State.releaseHeld_keeps _) _ _ (by decide)]
    unfold State.loadFails
    rw [keep_reg (State.bgDone_keeps ..) _ _ (by decide), keep_reg (State.logEv_keeps ..) _ _ (by decide), keep_reg (State.setFld_keeps ..) _ _ (by cases l.swap <;> decide)]
    rw [State.reg_setReg]; simp
theorem programEnds_programming {s : State} {l : LoadRun} (h : s.load = some l) (hp : l.phase = .programming) (swap ok : Bool) (done : State → LoadRun → State) :
    s.programEnds swap ok done = if l.swap != swap then s else if ok then done { s with load := none } l else s.enterPhase l .restoring := by
  have e : s.loadAdvance = s := by simp only [State.loadAdvance, h, hp]
  simp only [State.programEnds, e, h, hp]
  simp
theorem fld_setRlink (s : State) (l : Nat) (x : RingLink) (f : Field) (i : Nat) : (s.setRlink l x).fld f i = s.fld f i := rfl
theorem loadAdvance_idle {s : State} (h : s.load = none) : s.loadAdvance = s := by simp only [State.loadAdvance, h]
theorem copyStep_idle {s : State} (h : s.fld Fd.RAS_REBUILD_PHASE ≠ 2) : s.copyStep = s := by
  unfold State.copyStep
  exact if_pos (.inl h)
theorem tick_up (s : State) (hs : s.power.stage = .up) (hz : s.power.slew = 0) (hf : s.power.frac < 1000000000) :
    s.tick = ({ s with dtime := s.dtime + 1 } : State).copyStep.loadAdvance := by
  have e1 : (s.power.frac + 1000000000 + 1000000 - 1000000) / 1000000000 = 1 := by omega
  have e2 : (s.power.frac + 1000000000 + 1000000 - 1000000) % 1000000000 = s.power.frac := by omega
  have hp : ({ s with dtime := s.dtime + 1, power := { s.power with frac := s.power.frac, slew := s.power.slew } } : State) = { s with dtime := s.dtime + 1 } := rfl
  rw [hz] at hp
  unfold State.tick
  dsimp only
  rw [if_neg (by simp [hs])]
  simp only [hz, show (slewPpb 0 + 1000000).toNat = 1000000 from rfl, e1, e2, if_true, ne_eq, not_true_eq_false, and_false, if_false, hp]
theorem tick_dtime (s : State) (hs : s.power.stage = .up) (hz : s.power.slew = 0) (hf : s.power.frac < 1000000000) : s.tick.dtime = s.dtime + 1 := by
  rw [tick_up s hs hz hf, (State.loadAdvance_keeps _).same .dtime (by decide), (State.copyStep_keeps _).same .dtime (by decide)]
theorem tick_power (s : State) (hs : s.power.stage = .up) (hz : s.power.slew = 0) (hf : s.power.frac < 1000000000) : s.tick.power = s.power := by
  rw [tick_up s hs hz hf, (State.loadAdvance_keeps _).same .power (by decide), (State.copyStep_keeps _).same .power (by decide)]
theorem tick_dtctl (s : State) (hs : s.power.stage = .up) (hz : s.power.slew = 0) (hf : s.power.frac < 1000000000) : s.tick.reg .PWR_DTCTL = s.reg .PWR_DTCTL := by
  rw [tick_up s hs hz hf, keep_reg (State.loadAdvance_keeps _) _ _ (by decide), keep_reg (State.copyStep_keeps _) _ _ (by decide)]
  rfl
theorem tick_plain (s : State) (hl : s.load = none) (hr : s.fld Fd.RAS_REBUILD_PHASE ≠ 2) : Keeps (partMask [.dtime, .power, .reg .PWR_DTCTL]) s s.tick := by
  unfold State.tick
  extract_lets p gained n left u
  have hu : Keeps (partMask [.dtime, .power, .reg .PWR_DTCTL]) s u := by
    unfold u
    refine .step ?_ (upd_dtime_power ..)
    exact .refl ..
  refine .ite (fun _ => ?_) fun _ => ?_
  · exact .refl ..
  · have hv : Keeps (partMask [.dtime, .power, .reg .PWR_DTCTL]) s (if left = 0 ∧ p.slew ≠ 0 then u.setFld Fd.PWR_DTCTL_RATEPPB 0 else u) := by
      refine .ite (fun _ => ?_) fun _ => ?_
      · refine .step ?_ (State.setFld_keeps ..)
        exact hu
      · exact hu
    have hl' : (if left = 0 ∧ p.slew ≠ 0 then u.setFld Fd.PWR_DTCTL_RATEPPB 0 else u).load = none := (hv.same .load (by decide)).trans hl
    have hr' : (if left = 0 ∧ p.slew ≠ 0 then u.setFld Fd.PWR_DTCTL_RATEPPB 0 else u).fld Fd.RAS_REBUILD_PHASE ≠ 2 := by
      rw [fld_of (hv.same (.reg .RAS_REBUILD) (by decide))]; exact hr
    rw [copyStep_idle hr', loadAdvance_idle hl']
    exact hv
theorem bitAt_testBit (n i : Nat) : bitAt n i = n.testBit i := by
  rw [Nat.testBit_eq_decide_div_mod_eq]; unfold bitAt; rfl
theorem bitSum_succ (f : Nat → Bool) (n : Nat) : ((List.range (n + 1)).map fun i => if f i then 2 ^ i else 0).sum = ((List.range n).map fun i => if f i then 2 ^ i else 0).sum + (if f n then 2 ^ n else 0) := by
  rw [List.range_succ, List.map_append, List.sum_append]; simp
theorem bitSum_lt (f : Nat → Bool) (n : Nat) : ((List.range n).map fun i => if f i then 2 ^ i else 0).sum < 2 ^ n := by
  induction n with
  | zero => simp
  | succ n ih => rw [bitSum_succ, Nat.pow_succ]; split <;> omega
theorem bitSum_inj (f g : Nat → Bool) (n : Nat) (h : ((List.range n).map fun i => if f i then 2 ^ i else 0).sum = ((List.range n).map fun i => if g i then 2 ^ i else 0).sum) :
    ∀ i < n, f i = g i := by
  induction n with
  | zero => intro i hi; omega
  | succ n ih =>
    rw [bitSum_succ, bitSum_succ] at h
    have h1 := bitSum_lt f n
    have h2 := bitSum_lt g n
    have hp := Nat.two_pow_pos n
    have hn : f n = g n := by
      cases hf : f n <;> cases hg : g n <;> simp only [hf, hg, if_true, Bool.false_eq_true, if_false] at h <;> first | rfl | omega
    rw [hn] at h
    have hs := Nat.add_right_cancel h
    intro i hi
    rcases Nat.lt_succ_iff_lt_or_eq.1 hi with hi | rfl
    · exact ih hs i hi
    · exact hn
theorem and_high {r q m n : Nat} (hm : m % 2 ^ n = 0) (h : r / 2 ^ n = q / 2 ^ n) : r &&& m = q &&& m := by
  apply Nat.eq_of_testBit_eq
  intro j
  rw [Nat.testBit_and, Nat.testBit_and]
  by_cases hj : j < n
  · have : m.testBit j = false := by
      have := Nat.testBit_mod_two_pow m n j
      rw [hm, Nat.zero_testBit] at this
      simpa [hj] using this.symm
    rw [this, Bool.and_false, Bool.and_false]
  · have e : ∀ x : Nat, x.testBit j = (x / 2 ^ n).testBit (j - n) := by
      intro x
      rw [Nat.testBit_div_two_pow, Nat.sub_add_cancel (by omega)]
    rw [e r, e q, h]
theorem swzRow_inj {s : State} (hm : ∀ i < swzNsel s, swzMask s i % 2 ^ swzNsel s = 0) {r q : Nat} (h : swzRow s r = swzRow s q) : r = q := by
  unfold swzRow at h
  have l1 := bitSum_lt (fun i => bitAt r i != oddBits (r &&& swzMask s i)) (swzNsel s)
  have l2 := bitSum_lt (fun i => bitAt q i != oddBits (q &&& swzMask s i)) (swzNsel s)
  have hp := Nat.two_pow_pos (swzNsel s)
  have hd : r / 2 ^ swzNsel s = q / 2 ^ swzNsel s := by
    have := congrArg (· / 2 ^ swzNsel s) h
    simp only [Nat.mul_comm _ (2 ^ swzNsel s)] at this
    rwa [Nat.mul_add_div hp, Nat.mul_add_div hp, Nat.div_eq_of_lt l1, Nat.div_eq_of_lt l2, Nat.add_zero, Nat.add_zero] at this
  rw [hd] at h
  have hb := bitSum_inj _ _ _ (Nat.add_left_cancel h)
  have hmod : r % 2 ^ swzNsel s = q % 2 ^ swzNsel s := by
    apply Nat.eq_of_testBit_eq
    intro j
    rw [Nat.testBit_mod_two_pow, Nat.testBit_mod_two_pow]
    by_cases hj : j < swzNsel s
    · have := hb j hj
      rw [and_high (hm j hj) hd] at this
      have e : bitAt r j = bitAt q j := by
        cases h1 : bitAt r j <;> cases h2 : bitAt q j <;> simp_all
      simp only [hj, decide_true, Bool.true_and]
      rw [← bitAt_testBit, ← bitAt_testBit]; exact e
    · simp [hj]
  rw [← Nat.div_add_mod r (2 ^ swzNsel s), ← Nat.div_add_mod q (2 ^ swzNsel s), hd, hmod]
theorem bitAt_add_mul {x y n i : Nat} (hx : x < 2 ^ n) : bitAt (y * 2 ^ n + x) i = if i < n then bitAt x i else bitAt y (i - n) := by
  rw [bitAt_testBit, bitAt_testBit, bitAt_testBit, Nat.mul_comm, Nat.testBit_two_pow_mul_add _ hx]
theorem bitSum_bit (f : Nat → Bool) (n : Nat) : ∀ i < n, bitAt ((List.range n).map fun i => if f i then 2 ^ i else 0).sum i = f i := by
  induction n with
  | zero => intro i hi; omega
  | succ n ih =>
    intro i hi
    have e : ((List.range (n + 1)).map fun i => if f i then 2 ^ i else 0).sum =
        (if f n then 1 else 0) * 2 ^ n + ((List.range n).map fun i => if f i then 2 ^ i else 0).sum := by
      rw [bitSum_succ]; split <;> omega
    rw [e, bitAt_add_mul (bitSum_lt f n)]
    split
    · exact ih i (by assumption)
    · have : i = n := by omega
      subst this
      rw [Nat.sub_self]
      cases f i <;> decide
theorem swzRow_low (s : State) (r : Nat) {i : Nat} (h : i < swzNsel s) : bitAt (swzRow s r) i = (bitAt r i != oddBits (r &&& swzMask s i)) := by
  unfold swzRow
  rw [bitAt_add_mul (bitSum_lt _ _), if_pos h, bitSum_bit _ _ i h]
theorem swzRow_high (s : State) (r : Nat) {i : Nat} (h : swzNsel s ≤ i) : bitAt (swzRow s r) i = bitAt r i := by
  unfold swzRow
  rw [bitAt_add_mul (bitSum_lt _ _), if_neg (by omega), bitAt_testBit, bitAt_testBit, Nat.testBit_div_two_pow, Nat.sub_add_cancel h]
end Sys2Proof.Machine
end

