-- ==== Sys2Proof/WellFormed.lean ====
section
/-!
DEFINITION. Which commands can come from outside the part at all: sizes that a bus access has, addresses of 64 bits, byte strings of the length that the message fixes, and field
widths of the messages (R395, R491, R633, R715, R723). The meanings take every command; an ill-formed one is one that nothing can send.
-/
namespace Sys2Proof

open Machine

/-- The sizes of an access of a BAR: 1 to 64 bytes. -/
def busSize (n : Nat) : Bool := decide (1 ≤ n) && decide (n ≤ 64)
/-- The bytes of a bus write. -/
def okBytes (bs : List Byte) : Bool := busSize bs.length
/-- `n` bytes from position `at_` lie within `width`. -/
def fitsIn (width at_ n : Nat) : Bool := decide (at_ + n ≤ width)
/-- An address of 64 bits. -/
def isAddr (a : Nat) : Bool := decide (a < 2 ^ 64)
/-- An access lies in one 64-byte line. -/
def oneLine (a n : Nat) : Bool := busSize n && fitsIn 64 (a % 64) n
/-- A ring message's fields fit their widths, and LEN counts its data (R395). -/
def ringMsgOk (m : RingMsg) : Bool :=
  decide (m.src < 16) && decide (m.dst < 16) && decide (m.ctx < 256) && decide (m.len ≤ 4096) && decide (m.didx < 2 ^ 32) && decide (m.off < 2 ^ 32) &&
    isAddr m.addr && decide (m.rtype < 8) && decide (m.status < 256) && decide (m.detail < 65536) && decide (m.data.length ≤ 4096)
/-- A Shuttle packet's fields fit their widths (R491). -/
def pktOk (p : ShPkt) : Bool :=
  decide (p.dqpn < 65536) && decide (p.sqpn < 65536) && decide (p.psn < 2 ^ 24) && decide (p.seq < 2 ^ 24) && decide (p.off < 2 ^ 32) && decide (p.sack < 2 ^ 32) &&
    decide (p.tlen < 2 ^ 32) && decide (p.code < 256) && decide (p.txc < 2 ^ 48) && isAddr p.raddr && decide (p.payload.length ≤ 4096)

/-- The fields of what carries a packet fit their widths (R489, R491). -/
def wireOk (w : ShWire) : Bool :=
  decide (w.dst < 2 ^ 128) && decide (w.sport < 65536) && decide (w.dport < 65536) && decide (w.sum < 65536) && decide (w.ver < 16) && decide (w.paylen < 65536)

/-- What the sender of a command must respect. -/
def Instr.wellFormed : Instr → Bool
  | .submissionCellWrite _ _ _ off bytes => okBytes bytes && fitsIn 64 (off.val % 64) bytes.length
  | .doorbell _ _ _ size _ => busSize size
  | .spoolReset _ _ _ _ => true
  | .commandDecode => true
  | .commandCellsMissing _ _ _ => true
  | .announcedCellMissing _ _ => true
  | .completionEntryWrite _ _ => true
  | .completionHeadRead _ _ _ size => busSize size
  | .probeBaseWrite _ _ _ bytes => okBytes bytes
  | .presenceProbe _ _ _ size _ _ => busSize size
  | .nop _ => true
  | .lookup _ _ _ => true
  | .extend _ _ _ => true
  | .append _ _ _ => true
  | .commit _ _ => true
  | .commitLink _ _ => true
  | .fork _ _ _ => true
  | .release _ => true
  | .pin _ => true
  | .unpin _ => true
  | .deliver _ => true
  | .deliverComplete _ _ _ => true
  | .deliveryHoldExpire _ _ _ => true
  | .attend _ => true
  | .attendBatch _ _ => true
  | .verify _ => true
  | .attentionTake _ _ _ => true
  | .tileBoundary _ => true
  | .attentionComplete _ _ _ _ => true
  | .ringAttend _ => true
  | .fill _ => true
  | .copy _ => true
  | .compare _ => true
  | .reduce _ => true
  | .gather _ => true
  | .tableLoad _ => true
  | .tableRetire _ => true
  | .fence _ => true
  | .pageReencode _ _ _ => true
  | .configure _ _ => true
  | .tenantActivate _ _ => true
  | .disable _ _ => true
  | .enable _ _ => true
  | .shred _ _ => true
  | .unconfigure _ _ => true
  | .drainComplete _ => true
  | .shredComplete _ => true
  | .groupCreate _ _ => true
  | .groupDelete _ _ => true
  | .hrtSync => true
  | .hrtSyncDone => true
  | .cxlMemRequestAdmit _ _ _ _ _ => true
  | .heldRequestRelease _ _ => true
  | .wheelSlot _ _ _ => true
  | .devloadWindowEnd _ => true
  | .plainReadShared _ addr => isAddr addr
  | .plainReadExclusive _ addr => isAddr addr
  | .plainReadCurrent _ addr => isAddr addr
  | .plainWrite _ addr bytes => isAddr addr && oneLine addr bytes.length
  | .plainWriteback _ addr bytes => isAddr addr && bytes.length == 64
  | .bisnpResponse _ line data => decide (line < 2 ^ 58) && (match data with | some b => b.length == 64 | none => true)
  | .viewLoad _ addr size => isAddr addr && oneLine addr size
  | .viewStore _ addr bytes _ => isAddr addr && oneLine addr bytes.length
  | .viewSlotStore _ addr _ => isAddr addr && addr % 8 == 0
  | .viewWindowConfig _ _ => true
  | .gatewayStore _ addr bytes => isAddr addr && oneLine addr bytes.length
  | .gatewayDoorbell _ addr _ => isAddr addr && addr % 8 == 0
  | .gatewayFlushDone _ => true
  | .gatewayBufferTimeout _ _ _ => true
  | .gatewayLoad _ addr size => isAddr addr && oneLine addr size
  | .gatewayConfig _ _ _ => true
  | .dcAddExtent _ _ _ hosts => hosts.all fun h => decide (h < 16)
  | .plainExtentReady _ => true
  | .plainExtentAddTimeout _ _ => true
  | .dcReleaseExtent _ _ _ => true
  | .dcReleaseComplete _ _ => true
  | .cxlLinkTrain _ _ _ _ _ => true
  | .hostLost _ _ => true
  | .orphanScanComplete => true
  | .orphanLogClear => true
  | .orphanLogQuery _ => true
  | .unallocatedAccess _ _ _ _ size => busSize size
  | .registerWrite off size _ => busSize size && decide (off < 67108864)
  | .registerReadClear off size => busSize size && decide (off < 67108864)
  | .lockSet _ => true
  | .logClear _ => true
  | .logReadIndex _ => true
  | .nodeQuery _ => true
  | .pageQuery _ => true
  | .generationQuery _ => true
  | .histogramConfig _ => true
  | .counterDecay => true
  | .demotePage holder => match holder with | some h => decide (h < 1280) | none => true
  | .stashPage _ _ => true
  | .stashDurable _ _ => true
  | .stagingComplete _ _ _ _ => true
  | .makeHollow holder => match holder with | some h => decide (h < 1280) | none => true
  | .unlinkHollow => true
  | .quotaWaitTimeout _ => true
  | .spaceWaitTimeout _ => true
  | .frameCompact _ _ => true
  | .patternStage _ _ _ _ => true
  | .patternActivate _ _ => true
  | .patternAbort _ _ => true
  | .patternQuery _ _ => true
  | .patternProgramDone _ => true
  | .panelSwapStage _ _ _ _ => true
  | .panelSwapActivate _ _ => true
  | .panelSwapAbort _ _ => true
  | .panelSwapQuery _ _ => true
  | .panelSwapProgramDone _ => true
  | .patternPersistDone => true
  | .ringEnable _ => true
  | .ringLinkTrained _ _ _ _ _ _ => true
  | .ringLinkDown _ _ => true
  | .ringCablePresence _ _ => true
  | .ringDataFrame _ frame => frame.length == 640
  | .ringControlFrame _ frame credits _ => frame.length == 640 && credits.length == 3
  | .ringCheck _ _ _ => true
  | .getReq _ msg => ringMsgOk msg
  | .getData _ msg => ringMsgOk msg
  | .ringPut _ msg => ringMsgOk msg
  | .reducePut _ msg => ringMsgOk msg
  | .ringAck _ msg => ringMsgOk msg
  | .rattHdr _ _ _ => true
  | .rattBlock _ _ => true
  | .camSearch _ _ _ word => word.length == 2 || word.length == 4
  | .camHit _ _ _ _ _ => true
  | .cascadeSlot _ _ => true
  | .cascadeMissTimeout _ => true
  | .ringCtxOpen _ _ => true
  | .ringCtxAbort _ _ => true
  | .ringCtxClose _ _ => true
  | .ringAbortComplete _ => true
  | .descriptorTailWrite _ _ _ => true
  | .descriptorTake _ => true
  | .descriptorDone _ _ => true
  | .shuttlePortLink _ _ => true
  | .arpRequest _ _ => true
  | .neighbourSolicitation _ _ => true
  | .icmpEchoRequest _ _ _ _ => true
  | .pfcFrame _ _ quanta => quanta.length == 8
  | .ptpEventMessage _ _ => true
  | .qpRead _ => true
  | .qpWrite _ => true
  | .qpActivate _ => true
  | .qpError _ => true
  | .qpReset _ => true
  | .qpControlWrite _ _ _ _ => true
  | .wrSend _ _ _ => true
  | .wrPut _ _ _ => true
  | .wrCompareSwap _ => true
  | .wrFetchAdd _ => true
  | .wrReduce _ _ _ => true
  | .wrFlush _ => true
  | .wrNop _ => true
  | .wrWaitSatisfied _ _ _ => true
  | .shuttleSend _ _ udp pkt _ => wireOk udp && pktOk pkt
  | .shuttlePut _ _ udp pkt => wireOk udp && pktOk pkt
  | .nmoReq _ _ udp pkt => wireOk udp && pktOk pkt
  | .nmoResp _ _ udp pkt => wireOk udp && pktOk pkt
  | .flushReq _ _ udp pkt => wireOk udp && pktOk pkt
  | .flushResp _ _ udp pkt => wireOk udp && pktOk pkt
  | .shuttleAck _ _ udp pkt => wireOk udp && pktOk pkt
  | .shuttleNak _ _ udp pkt => wireOk udp && pktOk pkt
  | .ackTimer _ => true
  | .retxTimeout _ => true
  | .rnrRetryTimer _ _ => true
  | .faultRetryTimer _ _ => true
  | .placementFaultTimeout _ _ => true
  | .pageRequestResponse _ _ _ _ => true
  | .atsInvalidation _ _ _ _ => true
  | .receiveComplete _ _ => true
  | .cqEntryWrite _ => true
  | .flashOpComplete _ => true
  | .journalFlush _ => true
  | .mapCheckpoint _ => true
  | .slcTargetRecompute => true
  | .gcStepRecompute => true
  | .gcStart _ _ => true
  | .imageMove _ _ _ => true
  | .unitErase _ _ => true
  | .fold _ _ _ => true
  | .unitRetire _ => true
  | .targetFailed _ _ => true
  | .flashTempPoll temps => temps.all fun t => decide (t.1 < 32) && decide (t.2.1 < 8)
  | .flashRetrain _ _ => true
  | .powerFailFlush _ _ _ _ => true
  | .scrubRow row _ => decide (row.stack < 12)
  | .stackLost _ _ => true
  | .rebuildCopyStart => true
  | .rebuildComplete => true
  | .selftest _ => true
  | .selftestDone _ => true
  | .retireStack _ => true
  | .retireCore _ => true
  | .coreRetire _ _ => true
  | .knownAnswerTest _ _ => true
  | .stewardHeartbeat _ _ _ => true
  | .stewardRecovered _ => true
  | .capsuleSnapshot _ => true
  | .capsuleReadSummary _ => true
  | .capsuleReadPiece _ _ => true
  | .spdmRequest _ _ => true
  | .ideKmKeyProg _ _ stream _ => decide (stream < 256)
  | .tdispRequest _ _ => true
  | .tenantKey _ tenant _ => decide (tenant < 1024)
  | .tenantSeal _ tenant ngrp grprw _ groups => decide (tenant < 1024) && decide (ngrp ≤ 4) && decide (grprw < 16) && groups.length == ngrp && groups.all fun g => decide (g < 256)
  | .qpKey _ qpn _ => decide (qpn < 65536)
  | .groupHkey _ group _ => decide (group < 256)
  | .sealQuery _ tenant => decide (tenant < 1024)
  | .pqSign _ => true
  | .tenantKeyGenerate _ => true
  | .lifecycleChallenge _ => true
  | .lifecycleAdvance _ _ => true
  | .cryptoEraseComplete => true
  | .fwStageErase _ => true
  | .fwStageWrite _ _ _ => true
  | .fwStageVerify _ => true
  | .fwSelect _ => true
  | .fwCommitSvn _ => true
  | .fwQuery _ => true
  | .pldmFirmwareUpdate _ _ _ => true
  | .calRead _ _ _ => true
  | .calWrite _ _ _ => true
  | .healthGet _ => true
  | .getHealthInfo _ => true
  | .getPoisonList _ => true
  | .clearPoison _ addr bytes => isAddr addr && addr % 64 == 0 && bytes.length == 64
  | .getEventRecords _ _ _ => true
  | .clearEventRecords _ _ _ _ handles => handles.all fun h => decide (h < 65536)
  | .identifyMemoryDevice _ => true
  | .getLog _ _ _ _ => true
  | .getTimestamp _ => true
  | .setTimestamp _ _ => true
  | .unsupportedMailboxCommand _ _ _ => true
  | .tenantReset _ => true
  | .islandReset _ _ => true
  | .dtimeSet _ => true
  | .ringTimeExchange _ _ _ => true
  | .ppsPulse _ => true
  | .powerSample avgW peakW hbmW cdW _ _ _ => decide (avgW < 65536) && decide (peakW < 65536) && decide (hbmW < 65536) && decide (cdW < 65536)
  | .clockAdjust _ _ _ => true
  | .thermalStep _ _ _ stackTemps _ => stackTemps.length == 12
  | .thermalTrip _ temp => decide (-128 ≤ temp) && decide (temp < 128)
  | .quietEntry _ _ => true
  | .standbyEntry _ => true
  | .standbyExit _ => true
  | .perstAssert _ => true
  | .powerOn => true
  | .startup _ _ => true
  | .mediaReady _ _ => true
  | .startupRebuildDone => true
  | .watchdogExpiry _ => true
  | .functionReset => true
  | .flr _ => true
  | .pwrFailNDeassert _ => true
  | .railLeavesRegulation _ _ _ _ => true
  | .suppliesRemoved => true
  | .systemReferenceLost => true
  | .ringDisable _ => true
  | .fmLdBind _ => true
  | .nearMemoryComplete _ _ => true
  | .otherReceivedFrame => true
  | .platformEventRead => true
  | .jtagInstruction _ _ _ => true
  | .rebuildWaitingForSpace _ => true
  | .setEventInterruptPolicy _ modes => modes.length == 5

end Sys2Proof
end

