-- ==== Sys2Proof/Tests/Slice0.lean ====
section
/-!
SUPPORT. The model's own tests: small states that meet the hypotheses of every clause of every statement, an ill-formed command for each check of WellFormed, and single
steps against values worked out from the spec.
-/
set_option Elab.async false
set_option maxRecDepth 4096
set_option linter.unusedVariables false
open Sys2Proof Sys2Proof.Machine


namespace Sys2Proof.Tests
open Sys2Proof.Machine

/-- A state with fields set: field, value, copy. -/
def setAll (s : State) (l : List (Field × Nat × Nat)) : State := l.foldl (fun s f => s.setFld f.1 f.2.1 f.2.2) s

/-- A part that serves: media ready, a pattern running, panel 0 with profile 0, tenant 0 ACTIVE on host 0 with its window and one plain range. -/
def served : State :=
  setAll State.reset [
    (Fd.PWR_STATUS_MEDIA, 1, 0), (Fd.PAT_STATUS_STATE, 2, 0), (Fd.PANEL_STATE_STATE, 1, 0), (Fd.TNT_STATE_STATE, 2, 0),
    (Fd.TNT_BIND_QCMD, 8, 0), (Fd.TNT_CRED_SQ0, 4, 0), (Fd.TNT_CRED_CQ0, 4, 0), (Fd.HRT_CTL_VALID, 1, 0), (Fd.HRT_CTL_SPACE, 1, 0),
    (Fd.HRT_CTL_RD, 1, 0), (Fd.HRT_CTL_WR, 1, 0), (Fd.HRT_CTL_VALID, 1, 1), (Fd.HRT_CTL_RD, 1, 1), (Fd.HRT_CTL_WR, 1, 1), (Fd.HRT_LIMIT_LIMIT, 0xFFFF, 1)]

/-- A command of tenant 0 in flight, all its cells taken. -/
def cmdOf (op : Nat) (words : List Word) (work : Work) : Cmd :=
  { uid := 7, tenant := 0, sq := 0, cq := 0, opcode := op, ncell := 0, tag := 5, seq := 0, words, full := true, early := none, cancel := none, since := 0,
    npins := [], fpins := [], curDone := [], work }

/-- The serving part with one command in flight. -/
def running (c : Cmd) : State := { served with inflight := [c], nextUid := 8 }

end Sys2Proof.Tests
namespace Sys2Proof.Tests
open Sys2Proof.Machine
/-- A one-cell NOP with tag 5, held and announced on spool 0 of tenant 0. -/
def announcedNop : State :=
  setAll (served.setSpool 0 0 { cells := [(0, [0x5003F, 0, 0, 0, 0, 0, 0, 0])], part := [], pos := 0, cutting := none, passed := 0, dropped := [] })
    [(Fd.SPL_SQS_TAIL, 1, 0), (Fd.SPL_SQS_NEXT, 1, 0)]
/-- The first cell of a two-cell command, its second missing. -/
def halfCopy : State :=
  served.setSpool 0 0 { cells := [(0, [0x50121, 0, 0, 0, 0, 0, 0, 0])], part := [], pos := 0, cutting := none, passed := 0, dropped := [] }
/-- One command of tenant 0 that has ended OK, its entry not yet written. -/
def oneDone : State := served.setComp 0 0 { unread := [], waiting := [doneOf (cmdOf 0x3F [] .ready) 0 0 0], replay := [] }
/-- One entry unread in completion spool 0 of tenant 0. -/
def oneUnread : State := served.setComp 0 0 { unread := [[1, 2, 3, 4]], waiting := [], replay := [] }
end Sys2Proof.Tests
namespace Sys2Proof.Tests
open Sys2Proof.Machine
/-- The panel header's word 0 of the tests' profile 0: one layer, one KV head of 64 elements, span 128, fp8 keys and values. -/
def profWord0 : Word := packWord [(16, 1), (24, 1), (32, 1), (44, 3), (48, 3)]
/-- A page that nothing has been written to, one whose only copy is on flash, and a clean one in frame 0. -/
def pageNone : Page := Page.empty .none
/-- A basted chunk of tenant 0, and a committed one of two tokens. -/
def basted : Chunk := newBasted 0 0 1 none 0 [pageNone]
/-- A committed, unlinked chunk of tenant 0 that spans its whole length. -/
def whole : Chunk := { basted with committed := true, spanlen := 128, tokens := List.replicate 128 1 }
/-- The serving part with sequence 0 of tenant 0 over one chunk, a chunk quota, and one command in flight. -/
def withSeq (k : Chunk) (c : Cmd) : State :=
  { setAll (running c) [(Fd.TNT_QUOTA_QCHUNK, 100, 0), (Fd.TNT_QUOTA_QHBM, 100, 0)] with
    geom := [(0, profWord0)], chunks := [(0, k)], seqs := [(0, { tenant := 0, chain := [0] })] }
/-- First cells of Prefix commands on sequence 0. -/
def cell (w0 w1 : Word) : List Word := [w0, w1, 0, 0, 0, 0, 0, 0]
end Sys2Proof.Tests
namespace Sys2Proof.Tests
open Sys2Proof.Machine
/-- A basted page with a raw frame of its own at granule 50,331,655, the first of the cache superframes. -/
def pageRaw : Page := { Page.empty .raw with frame := some 50331655 }
/-- A basted chunk of tenant 0 with that page. -/
def bastedRaw : Chunk := newBasted 0 0 1 none 0 [pageRaw]
/-- What the tests' frames and images are encrypted under. -/
def tag0 : ImgTag := { origin := 0, layer := 0, serial := 0 }
/-- Its frame, nothing written to it. -/
def frameRaw : Frame := { ngran := 32, epoch := 0, owner := 0, tag := tag0, body := .raw [] false }
/-- The serving part with that chunk as the tail of sequence 0. -/
def withRaw (c : Cmd) : State := { withSeq bastedRaw c with frames := [(50331655, frameRaw)] }
/-- APPEND of one position of layer 0, its rows inline. -/
def appendCmd : Cmd :=
  { cmdOf 3 (cell 0x50203 (packWord [(29, 1), (49, 1)]) ++ List.replicate 16 0x0101010101010101) .ready with ncell := 2 }
/-- COMMIT of two tokens, unlinked, and one that may link to an identical node. -/
def commitCmd : Cmd := { cmdOf 4 (cell 0x50104 (packWord [(28, 2), (23, 1)]) ++ cell 0x400000003 0) .ready with ncell := 1 }
/-- See above. -/
def commitLinkedCmd : Cmd := { cmdOf 4 (cell 0x50104 (packWord [(28, 2), (22, 1), (24, 1)]) ++ cell 0x400000003 0) .ready with ncell := 1 }
/-- A live node of tenant 0's own namespace for those tokens. -/
def node : Chunk :=
  { basted with committed := true, spanlen := 2, tokens := [3, 4], ns := some 0, linked := true, indexed := true, key := spanKey 0 0 0 [3, 4] }
/-- The serving part with the basted tail of sequence 0 and that node. -/
def withNode (c : Cmd) : State := { withSeq basted c with chunks := [(0, basted), (1, node)] }
/-- A COMMIT whose coding has ended, of a chunk without pages. -/
def linkWork : CommitWork :=
  { seq := 0, chunk := 0, ns := none, key := 0, rev := 0, dedup := false, tokens := [3, 4], gens := [], recov := none }
/-- See above. -/
def linkCmd : Cmd := { cmdOf 4 (cell 0x50104 0) (.commit linkWork) with npins := [0] }
/-- A basted chunk of no layers. -/
def bastedNone : Chunk := newBasted 0 0 1 none 0 []
/-- DELIVER of one chunk, layer 0, as it is taken and under way. -/
def deliverCmd : Cmd := { cmdOf 9 (cell 0x50109 (packWord [(0, 1), (23, 1)]) ++ cell 0 0) .ready with ncell := 1 }
/-- See above. -/
def deliverOn : Cmd := { deliverCmd with work := .deliver { handles := [0], hollow := [], lost := [], unpushed := [], noRoom := [], toPush := [], last := none, closing := false } }
end Sys2Proof.Tests
namespace Sys2Proof.Tests
open Sys2Proof.Machine
/-- Panel 0 of the tests' pattern: profile 0, every format allowed. -/
def panel0 : PanelCfg :=
  { num := 0, hdr := [profWord0, packWord [(0, 0xFFFF), (16, 7)], 0, 0, 0, 0, 0, packWord [(0, 512), (16, 16)]], plans := [], planRec := [], tables := [],
    bias := [], templates := [], digest := [] }
/-- A pattern of that panel. -/
def pattern0 : Pattern :=
  { fmtver := 1, ifgen := 0, stepset := 0, svn := 0, signer := 0, keyId := [], compat := false, island := [], partition := [], routes := [], swizzle := [], wheels := [],
    policy := [], panels := [panel0], baseDig := [] }
/-- The serving part with that pattern, a whole committed chunk whose page was never written, and one attention command. -/
def attending (c : Cmd) : State := { withSeq whole c with pattern := some pattern0, extents := [(0, { hosts := [0], tag := 0, st := .added, since := 0 })] }
/-- ATTEND, VERIFY and ATTEND_BATCH over sequence 0 with outputs to a plain region and inline or plain queries in E4M3. -/
def attendCmd : Cmd :=
  { cmdOf 0x10 ([0x50110, packWord [(33, 1), (40, 2), (44, 3)], 0, 0, packWord [(0, 128)], 127, 0, 0] ++ cell 0 0) .ready with ncell := 1 }
/-- See above. -/
def verifyCmd : Cmd :=
  { cmdOf 0x12 ([0x50212, packWord [(33, 1), (40, 2), (44, 3)], 0, 0, packWord [(0, 127)], 0, 0, 0] ++ cell 0 0 ++ cell 0 0) .ready with ncell := 2 }
/-- See above. -/
def batchCmd : Cmd :=
  { cmdOf 0x11 ([0x50211, packWord [(0, 1), (19, 2), (21, 2), (25, 3)], 0, 0, 0, 0, 0, 0] ++ cell 0 0 ++ [packWord [(22, 128)], packWord [(22, 127)], 0, 0, 0, 0, 0, 0])
      .ready with ncell := 2 }
/-- The sequence that a command resolves in `attending`. -/
def seqIn (c : Cmd) (wend qpos : Nat) : AttSeq := attSeq (attending c) c 0 0 wend qpos
/-- An ATTEND with its pages pinned, and one that its panel has taken, over a window of one position. -/
def pinnedWork : AttWork := { layer := 0, seqs := [seqIn attendCmd 1 0], taken := none, waited := false }
/-- See above. -/
def pinnedCmd : Cmd := { attendCmd with work := .attend pinnedWork }
/-- See above. -/
def takenSeq : AttSeq := { hollow := false, wfirst := 0, wend := 1, qpos := 0, pages := [], queries := [], failed := none }
/-- See above. -/
def takenWork : AttWork := { layer := 0, seqs := [takenSeq], taken := some 0, waited := false }
/-- See above. -/
def takenCmd : Cmd := { attendCmd with work := .attend takenWork }
/-- What the computation gives for it. -/
def takenResult : SeqResult :=
  (computeSeq ((attending takenCmd).at_ 5) takenCmd takenSeq).toOption.getD { partials := [], attPos := 0, read := [], masses := [] }
end Sys2Proof.Tests
namespace Sys2Proof.Tests
open Sys2Proof.Machine
/-- The serving part with plain extent 0 added for host 0, and one command. -/
def planed (c : Cmd) : State := { running c with extents := [(0, { hosts := [0], tag := 0, st := .added, since := 0 })] }
/-- Near-memory commands over lines 2 to 4 of the plain region. -/
def fillCmd : Cmd := cmdOf 0x20 [0x50020, 128, 64, 0x1122334455667788, 0, 0, 0, 0] .ready
/-- See above. -/
def copyCmd : Cmd := cmdOf 0x21 [0x50021, 128, 192, packWord [(0, 64), (40, 2)], 0, 0, 0, 0] .ready
/-- See above. -/
def swapCmd : Cmd := cmdOf 0x22 [0x50022, 128, 0, 0, 9, 0, 0, 0] .ready
/-- See above. -/
def compareCmd : Cmd := cmdOf 0x22 [0x50022, 128, 1, 192, 64, 0, 0, 0] .ready
/-- See above. -/
def reduceCmd : Cmd := cmdOf 0x23 [0x50023, 128, 192, packWord [(0, 64), (35, 1)], 0, 0, 0, 0] .ready
/-- See above. -/
def gatherCmd : Cmd :=
  { cmdOf 0x24 ([0x50124, 256, packWord [(0, 1), (10, 2)], 0, 0, 0, 0, 0] ++ [128, 64, 0, 0, 0, 0, 0, 0]) .ready with ncell := 1 }
/-- A FILL that has written. -/
def filledCmd : Cmd := { fillCmd with work := .near (some (0, 64, 0)) false }
end Sys2Proof.Tests
namespace Sys2Proof.Tests
open Sys2Proof.Machine
/-- A two-symbol table for tensor 0, as lengths and as the 16 words that hold it. -/
def table0 : List Nat := [1, 1] ++ List.replicate 254 0
/-- The serving part with the tests' pattern, table rights for tenant 0 and one OLD generation of tensor 0, and one table command. -/
def coding (c : Cmd) : State :=
  { setAll (running c) [(Fd.CDR_TRIGHTS_TR, 1, 0)] with
    geom := [(0, profWord0)], pattern := some pattern0, gens := [(0, [{ num := 3, table := List.replicate 256 8, st := .old }])] }
/-- TABLE_LOAD of that table. -/
def loadCmd : Cmd := { cmdOf 0x30 ([0x50230, 1, 0, 0, 0, 0, 0, 0] ++ 0x11 :: List.replicate 15 0) .ready with ncell := 2 }
/-- TABLE_RETIRE of generation 3 of tensor 0. -/
def retireCmd : Cmd := cmdOf 0x31 [0x50031, packWord [(8, 3)], 0, 0, 0, 0, 0, 0] .ready
end Sys2Proof.Tests
namespace Sys2Proof.Tests
open Sys2Proof.Machine
/-- A whole committed chunk of tenant 0 with one page. -/
def wholeOf (p : Page) : Chunk := { whole with pages := [p] }
/-- Pages with an image on flash: DIRTY, STAGING and CLEAN; and a DIRTY page queued for stash. -/
def pageDirty : Page := { Page.empty .dirty with frame := some 50331655, image := some 0 }
/-- See above. -/
def pageStaging : Page := { Page.empty .staging with image := some 0 }
/-- See above. -/
def pageClean : Page := { Page.empty .clean with frame := some 50331655, image := some 0 }
/-- See above. -/
def pageQueued : Page := { Page.empty .dirty with frame := some 50331655 }
/-- A durable image of one omitted block. -/
def image0 : FlashImage :=
  { handle := 0, layer := 0, clens := [0], blocks := [], recov := none, mask := 0, tag := tag0, places := [], progd := true, durable := true }
/-- A coded frame of one omitted block. -/
def frameCoded : Frame := { ngran := 1, epoch := 0, owner := 0, tag := tag0, body := .coded [0] [] }
/-- The serving part whose chunk 0 has the page, with a coded frame and an image. -/
def caching (p : Page) : State :=
  { withSeq (wholeOf p) (cmdOf 0x3F [] .ready) with inflight := [], frames := [(50331655, frameCoded)], images := [(0, image0)] }
/-- The same while step 1 of the ladder runs. -/
def demoting : State := setAll (caching pageClean) [(Fd.PGT_TIER_DEMOTE, 1, 0)]
/-- While step 2 runs, no page being a candidate. -/
def dropping : State := setAll { caching (Page.empty .flash) with seqs := [] } [(Fd.PGT_TIER_DROP, 1, 0)]
/-- A hollow linked node that nobody refers to. -/
def hollowNode : Chunk := { node with hollow := true }
/-- So many chunks that handles are short, the last of them that node. -/
def shortOf (n : Nat) : State := { State.reset with chunks := (List.range n).map (fun i => (i, basted)) ++ [(n, hollowNode)] }
/-- A basted chunk of one page that nothing has been written to. -/
def bastedNew : Chunk := newBasted 0 0 1 none 0 [Page.empty .none]
/-- It meets what unlinking asks for. -/
theorem shortOf_meets (n : Nat) (h : 16711680 ≤ n) :
    (shortOf n).ladder.flag Fd.PGT_TIER_HANDLES = true ∧
      (shortOf n).ladder.chunks.filter (fun e => e.2.hollow && e.2.linked && refs (shortOf n).ladder e.1 == 0 && children (shortOf n).ladder e.1 == 0 &&
        pinsOn (shortOf n).ladder e.1 == 0 && !ownerDown (shortOf n).ladder e.1) = [(n, hollowNode)] := by
  have hc : (shortOf n).ladder.chunks = (List.range n).map (fun i => (i, basted)) ++ [(n, hollowNode)] := rfl
  constructor
  · have hf : freeChunkHandles (shortOf n) < 65536 := by
      simp only [freeChunkHandles, shortOf, List.length_append, List.length_map, List.length_range, List.length_cons, List.length_nil, chunkHandles]; omega
    rw [State.flag, State.fld]
    show (bitsOf (((shortOf n).ladder).reg .PGT_TIER 0) 3 3 == 1) = true
    unfold State.ladder
    rw [State.reg_setReg, if_pos ⟨rfl, rfl⟩, decide_eq_true hf, Bool.true_or]
    have hb : ∀ b : Bool, b2n b ≤ 1 := fun b => by cases b <;> decide
    simp only [bitsOf, packWord, List.foldl, BitVec.toNat_ofNat, beq_iff_eq]
    generalize hx : b2n (_ || _ && _ && _) = x
    generalize hy : b2n (_ || _ && _) = y
    generalize hz : b2n (_ && _) = z
    have hx' : x ≤ 1 := hx ▸ hb _
    have hy' : y ≤ 1 := hy ▸ hb _
    have hz' : z ≤ 1 := hz ▸ hb _
    simp only [b2n, if_true]
    omega
  · rw [hc, List.filter_append, List.filter_eq_nil_iff.2]
    · have hr : refs (shortOf n).ladder n = 0 := rfl
      have hp : pinsOn (shortOf n).ladder n = 0 := rfl
      have ho : ownerDown (shortOf n).ladder n = false := by
        have hs : ∀ i, i < 8 → ((State.reset).steward i).down = false := by decide
        exact hs _ (Nat.mod_lt _ (by decide))
      have hk : children (shortOf n).ladder n = 0 := by
        rw [children, hc, mapCount, List.countP_append, List.countP_eq_zero.2]
        · rfl
        · intro e he
          simp only [List.mem_map] at he
          obtain ⟨i, _, rfl⟩ := he
          simp [basted, newBasted]
      simp only [List.nil_append, List.filter_cons, List.filter_nil, hr, hp, hk, ho]
      rfl
    · intro e he
      simp only [List.mem_map] at he
      obtain ⟨i, _, rfl⟩ := he
      simp [basted, newBasted]
theorem some_getD {α : Type} {o : Option α} {d : α} (h : o.isSome = true) : o = some (o.getD d) := by
  cases o with
  | none => exact nomatch h
  | some a => rfl
/-- One target in service, with one erase unit of each area but the cache's, which has eight. -/
def flash0 : FlashGeo :=
  { cell := 1, ppb := 12, bpp := 1, luns := 1, endur := 100, targets := [{ ch := 0, ce := 0, luns := 1, rate := 1, inService := true, temp := 30, trained := 30, late := false }],
    sysUnits := 6, spareUnits := 6, cacheUnits := 8, lost := 0 }
/-- A DIRTY page queued for stash, and a flash tier that takes it. -/
def stashing : State :=
  { setAll (caching pageQueued) [(Fd.TNT_QUOTA_QFLASH, 1, 0)] with images := [], flash := some flash0, pattern := some pattern0, slcTarget := 4 }
/-- A block under generation 3 of tensor 0, and a frame that holds it. -/
def blockOld : Block := { prof := 0, tensor := 0, gen := 3, mode := 1, clen := 1, fmt := 3, block := 9, crc := 0, payload := [] }
/-- See above. -/
def frameOld : Frame := { ngran := 1, epoch := 0, owner := 0, tag := tag0, body := .coded [0, 0, 0, 0] [blockOld] }
/-- A DIRTY page whose frame uses a RETIRING generation. -/
def retiring : State :=
  { caching pageQueued with frames := [(50331655, frameOld)], images := [], gens := [(0, [{ num := 3, table := List.replicate 256 8, st := .retiring }])] }
/-- The state after a frame is placed at granule 50,331,699. -/
def placed (s : State) (n owner : Nat) (tag : TagFrom) (body : FrameBody) : State := ((s.newFrame [50331699] n owner tag body).getD (s, 0)).1
/-- That page's frame coded anew. -/
def recoded : State := placed retiring 1 0 (.fresh 0 0) (.coded [0, 0, 0, 0] [])
/-- The basted page's frame copied. -/
def movedRaw : State := placed (withRaw appendCmd) 32 0 (.kept tag0) (.raw [] false)
/-- A STAGING page that is wanted, its image on flash in unit 13. -/
def pageAwaited : Page := { pageStaging with want := some (0, 0) }
/-- See above. -/
def imagePlaced : FlashImage := { image0 with places := [{ unit := 13, cw := 1, pos := 0 }] }
/-- The part while that page's read is in progress, and once the page is in its frame. -/
def arriving : State := { caching pageAwaited with images := [(0, imagePlaced)], flash := some flash0 }
/-- See above. -/
def arrived : State := placed arriving 1 0 (.kept tag0) (.coded [0] [])
/-- See above. -/
def arrivedU : State := arrived.updPage 0 0 fun p => { p with st := .clean, frame := some 50331699, ctr := max p.ctr (promTh arrived), want := none }
/-- An APPEND that waits for granules: its holder's quota is full of what demotion can free, or the part has no granule left. -/
def appendWaits : Cmd := { appendCmd with work := .append 0 false [] }
/-- See above. -/
def quotaShort : State :=
  setAll { withSeq bastedNew appendWaits with chunks := [(0, bastedNew), (1, wholeOf pageQueued)], frames := [(50331655, { frameCoded with ngran := 4096, owner := 1 })] } [(Fd.TNT_QUOTA_QHBM, 1, 0)]
/-- See above. -/
def spaceShort : State := { withSeq bastedNew appendWaits with cacheSf := 0 }
end Sys2Proof.Tests
namespace Sys2Proof.Tests
open Sys2Proof.Machine
/-- A valid template of no grants. -/
def template0 : List Word := [0x8000000000000000, 0, 0, 0]
/-- The serving part whose panel 0 has that template. -/
def templated : State := { served with pattern := some { pattern0 with panels := [{ panel0 with templates := [template0] }] } }
/-- Tenant 0 CONFIGURED or DISABLED, with all that starting it asks for. -/
def configured : State := setAll served [(Fd.TNT_STATE_STATE, 1, 0), (Fd.SEC_TSTAT_KEYSRC, 1, 0)]
/-- See above. -/
def disabled : State := setAll served [(Fd.TNT_STATE_STATE, 4, 0), (Fd.SEC_TSTAT_KEYSRC, 1, 0)]
end Sys2Proof.Tests
namespace Sys2Proof.Tests
open Sys2Proof.Machine
/-- Hosts 0 and 1 with one token a microsecond; a request of host 1 is held. -/
def limited : State :=
  { setAll served [(Fd.WHL_HOSTLIM_RATE, 1, 0), (Fd.WHL_HOSTLIM_BURST, 4, 0), (Fd.WHL_HOSTLIM_RATE, 1, 1), (Fd.WHL_HOSTLIM_BURST, 4, 1)] with
    buckets := [(1, { milli := 0, last := 0, held := [(4, 0)], emptyNs := 0, level := 0 })] }
/-- A pattern whose wheel of controller 0 has one slot, of class 2. -/
def wheeled : State := { served with pattern := some { pattern0 with wheels := [[2]] } }
/-- Line 2 of the plain region held exclusive by host 0. -/
def holding : State := { planed (cmdOf 0x3F [] .ready) with snoopFilter := [{ line := 2, sharers := [], excl := some 0 }] }
end Sys2Proof.Tests
namespace Sys2Proof.Tests
open Sys2Proof.Machine
/-- The serving part whose host 0 has every DPA, with the view window of tenant 0 enabled and added, its slot 0 naming the basted chunk of sequence 0. -/
def viewing : State :=
  { setAll (withRaw (cmdOf 0x3F [] .ready)) [(Fd.HRT_LIMIT_LIMIT, 0xFFFFFFFFFFFF, 1), (Fd.CXL_VW_EN, 1, 0), (Fd.CXL_VW_VSLOTLOG, 6, 0)] with
    inflight := [], extents := [(0x100000000, { hosts := [0], tag := 0, st := .added, since := 0 })], viewSlots := [(0, 0x8000000000000000)] }
/-- Gateway window 0, of 256 MiB, running for host 0. -/
def gated : State :=
  { setAll served [(Fd.HRT_LIMIT_LIMIT, 0xFFFFFFFFFFFF, 1), (Fd.GW_CTL_EN, 1, 0), (Fd.GW_CTL_SIZELOG, 28, 0), (Fd.GW_CTL_TMOUS, 5, 0), (Fd.GW_ST_STATE, 1, 0)] with
    extents := [(0x200000000, { hosts := [0], tag := 0, st := .added, since := 0 })] }
end Sys2Proof.Tests
namespace Sys2Proof.Tests
open Sys2Proof.Machine
/-- Link 0 up in MLD mode with one logical device, its host 0 lost. -/
def mld : State :=
  { setAll served [(Fd.CXL_LINKST_STATE, 2, 0), (Fd.CXL_LINKST_MEM, 1, 0)] with linkIn := [(0, 0x100)], lostHosts := [0] }
end Sys2Proof.Tests
namespace Sys2Proof.Tests
open Sys2Proof.Machine
/-- A load of the tests' pattern, being programmed. -/
def load0 : LoadRun :=
  { swap := false, panel := 0, src := { st := [], hdr := [], dir := [] }, image := pattern0, phase := .programming }
end Sys2Proof.Tests
namespace Sys2Proof.Tests
open Sys2Proof.Machine
/-- FENCE of context 0 up to index 0. -/
def fenceCmd : Cmd := cmdOf 0x38 [0x50038, 0, 0, 0, 0, 0, 0, 0] .ready
end Sys2Proof.Tests
namespace Sys2Proof.Tests
open Sys2Proof.Machine
/-- RING_ATTEND in context 0 with this member alone, its query and output in the plain region. -/
def ringCmd : Cmd :=
  cmdOf 0x13 [0x50013, packWord [(19, 1), (24, 2), (26, 2), (30, 3), (36, 1)], 0, 0, 0, packWord [(26, 1)], 9, 0] .ready
/-- The attending part with ring context 0 OPEN in ATTN mode for tenant 0. -/
def ringing : State := setAll (attending ringCmd) [(Fd.SNL_CTX_ST_STATE, 1, 0), (Fd.SNL_CTX_CTL_MODE, 1, 0)]
/-- The sequence that the command resolves, and the command under way. -/
def ringSeq : AttSeq := attSeq ringing ringCmd 0 0 128 0
/-- See above. -/
def ringBegun : Cmd := ((ringing.attBegin ringCmd [ringSeq]).cmd 7).getD ringCmd
/-- A search of member 1 that has been around, for a node that the part holds. -/
def searching : State :=
  { State.reset with chunks := [(4, { node with hotroot := true })], camReqs := [{ src := 1, cpos := 1, uid := 3, word := camWord false node.key 0 0 0 0 0 1, sentAt := 0, done := false }] }
end Sys2Proof.Tests
namespace Sys2Proof.Tests
open Sys2Proof.Machine
/-- Ring context 0 OPEN in bulk mode for tenant 0, its slots at 4096 and its tail word at 0, on a ring of two. -/
def exchanging : State :=
  setAll (planed fenceCmd) [(Fd.SNL_CFG_NMEM, 1, 0), (Fd.SNL_CTX_ST_STATE, 1, 0), (Fd.SNL_CTX_CTL_PEERS, 2, 0), (Fd.SNL_CTX_DL_DLBASE, 1, 0), (Fd.SNL_CTX_DL_DLLOG, 6, 0)]
/-- A message of member 1 about 64 bytes at 128. -/
def msg0 : RingMsg :=
  { mtype := 0, src := 1, dst := 0, ctx := 0, len := 64, didx := 0, off := 0, addr := 128, rtype := 0, status := 0, detail := 0, data := List.replicate 64 7, bad := [] }
/-- A GET of those bytes, outstanding. -/
def desc0 : RingDesc := { idx := 0, op := 1, peer := 1, rtype := 0, len := 64, laddr := 128, raddr := 128, left := [0], since := 0, res := none }
/-- See above. -/
def getting : State := { exchanging with rctx := [(0, { descs := [desc0], hdrs := [], blocks := [], why := 0 })] }
/-- A header and a block of member 1 for tag 9 and context 0. -/
def hdr0 : RattHdr :=
  { ctx := 0, src := 1, rtag := 9, memmask := 3, layer := 0, kvh0 := 0, nkvh := 1, lbase := 128, extent := 1, lastq := 0, prof := 0, rpdig := [], biasdig := [] }
/-- See above. -/
def block0 : RattBlock := { ctx := 0, origin := 0, rtag := 9, start := 0, len := 1, hollow := false, poison := false, recov := none, mask := 0, bytes := [] }
/-- The tail word reads 1, and slot 0 holds a GET of 64 bytes from member 1. -/
def tailed : State :=
  { exchanging with plainMem := (Memory.write [] 0 [1]).write 4096 (leBytes 8 (0x4000000000 + 0x11) ++ leBytes 8 128 ++ leBytes 8 128) }
end Sys2Proof.Tests
namespace Sys2Proof.Tests
open Sys2Proof.Machine
/-- A QP context: tenant 0, PUTs allowed, port 0, a window of 64, RTO 1, rings of 64 entries at 4096, 8192 and 12288, remote address 9 and QP 5. -/
def qpCtx : List Word :=
  [packWord [(11, 1), (13, 1), (21, 64), (37, 1)], packWord [(0, 5)], 0, 9, 0, packWord [(0, 6), (12, 1)], packWord [(0, 6), (12, 2)], packWord [(0, 6), (12, 3)]]
/-- QP 3, READY. -/
def qp0 : Qp := { Qp.fresh qpCtx with st := 1 }
/-- Shuttle on, port 0 UP, QP 3 as given, over so many bytes of the plain region. -/
def paired (x : Qp) (m : Memory) : State :=
  { setAll (planed (cmdOf 0x3F [] .ready)) [(Fd.SHT_CFG_EN, 1, 0), (Fd.SHT_PORT_EN, 1, 0), (Fd.SHT_PORT_PFCRX, 1, 0), (Fd.SHT_PORTST_STATE, 2, 0), (Fd.SHT_IP4_IP4, 0x0A000001, 0), (Fd.SHT_IP6A_IP6LO, 7, 0)] with
    inflight := [], qps := [(3, x)], plainMem := m }
/-- A request packet that is sent and not acknowledged. -/
def sentPut : QpSent := { pkt := { qp0.packet 3 2 0 with tlen := 1, payload := [7] }, retries := 0, rnr := 0, waiting := true }
/-- A PUT in progress whose packet that is. -/
def wrPut0 : QpWr := { wrOf (List.replicate 64 0) 0 with op := 2, psns := [0] }
end Sys2Proof.Tests
namespace Sys2Proof.Tests
open Sys2Proof.Machine
/-- Work requests as their slot holds them: OP, a plain source of LEN bytes at the slot itself, and remote address 64. -/
def wrBytes (op len : Nat) : List Byte :=
  leBytes 8 (packWord [(0, op), (8, 1), (32, len)]).toNat ++ leBytes 8 0 ++ leBytes 8 4096 ++ leBytes 8 64 ++ List.replicate 32 0
/-- The QP with that work request posted: SQTAIL is 1. -/
def posted (op len : Nat) : State := paired qp0 ((Memory.write [] 4096 (wrBytes op len)).write 12288 [1])
/-- See above. -/
def wrAt (op len : Nat) : QpWr := wrOf (wrBytes op len) 0
/-- The same with the work request taken. -/
def taken (op len : Nat) : State := (posted op len).wake.setQp 3 { qp0 with sqHead := 1 }
/-- The QP with one receive entry posted, of 64 bytes in the plain region at 128. -/
def receiving : State := paired qp0 ((Memory.write [] 8192 (leBytes 8 128 ++ leBytes 8 (64 + 2 ^ 32))).write 12296 [1])
/-- What carries a packet to port 0 from remote address 9, over IPv6. -/
def wireOf (s : State) (p : ShPkt) : ShWire :=
  { v6 := true, dst := portIp s 0 true, sport := 0, dport := s.fld Fd.SHT_CFG_UDPPORT,
    sum := udpChecksum true 9 (portIp s 0 true) 0 (s.fld Fd.SHT_CFG_UDPPORT) p.wire, ver := 1, ext := p.typ == 2 || p.typ == 3, paylen := p.payload.length }
/-- Packets for it: a SEND of one byte, a PUT of one byte at 128, and a FETCH-ADD of 5 there. -/
def sendPkt : ShPkt := { qp0.packet 3 1 0 with dqpn := 3, sqpn := 5, tlen := 1, payload := [7] }
/-- See above. -/
def putPkt : ShPkt := { qp0.packet 3 2 0 with dqpn := 3, sqpn := 5, tlen := 1, payload := [7], raddr := 128 }
/-- See above. -/
def addPkt : ShPkt := { qp0.packet 3 3 0 with dqpn := 3, sqpn := 5, op := 2, payload := leBytes 8 5, raddr := 128 }
/-- The part with a packet counted as received. -/
def counted : State := receiving.wake.addFld Fd.SHT_CNT0_RXPKT 1
/-- What binding the SEND's entry gives. -/
def bound : State × Option QpRecv := (counted.coherentJob (rxJob 3) [(8192, 32)] []).1.bindRecv 3 sendPkt
/-- See above. -/
def recv0 : QpRecv := { msn := 0, addr := 128, kind := 1, wrid := 0, tlen := 1, got := [] }
/-- The QP with its RNR limit at 7 and one packet not acknowledged. -/
def naked : State := paired { qp0 with ctx := qpCtx.set 0 (packWord [(11, 1), (13, 1), (21, 64), (34, 7), (37, 1)]), sent := [sentPut] } []
end Sys2Proof.Tests
namespace Sys2Proof.Tests
open Sys2Proof.Machine
/-- A CLEAN page with a durable image on a flash tier whose units are all erased. -/
def flashed : State := { caching pageClean with flash := some flash0, pattern := some pattern0, slcTarget := 4 }
/-- The same with every unit written, and space for the collection to run out. -/
def crowded : State := { flashed with units := (List.range 20).map fun i => (i, { EraseUnit.fresh with written := 5 }) }
/-- A unit of the cache area as it is marked. -/
def marked (x : EraseUnit) : State := { flashed with units := [(13, x)] }
/-- A unit's mark for erase, and one that has failed. -/
def unitPend : EraseUnit := { EraseUnit.fresh with written := 5, pend := true }
/-- See above. -/
def unitFailed : EraseUnit := { EraseUnit.fresh with failed := true }
end Sys2Proof.Tests
namespace Sys2Proof.Tests
open Sys2Proof.Machine
/-- A durable image in a unit of the SLC buffer that is a victim, and what placing its copy gives. -/
def imageOld : FlashImage := { image0 with places := [{ unit := 13, cw := 1, pos := 0 }] }
/-- See above. -/
def movable : State := { marked { EraseUnit.fresh with written := 5, slc := true } with images := [(0, imageOld)], victims := [13] }
/-- See above. -/
def moving : State × State × List Place :=
  let r := (movable.placeImage 0 2 0 (imageCodewords imageOld)).getD (movable, [])
  (movable, r.1, r.2)
end Sys2Proof.Tests
namespace Sys2Proof.Tests
open Sys2Proof.Machine
/-- The serving part with its 256 cores, none of any panel. -/
def cored : State := { served with cores := List.replicate 256 { enabled := true, retired := false, panel := none } }
end Sys2Proof.Tests
namespace Sys2Proof.Tests
open Sys2Proof.Machine
/-- A session on host 0's function. -/
def session0 : Session := { fn := 0, mutualAuth := true, req := [] }
/-- The serving part with that session. -/
def withSession : State := { served with sessions := [(1, session0)] }
/-- The part OWNED, tenant 0 CONFIGURED without a key, and a policy that lets it be sealed. -/
def keyless : State :=
  { setAll served [(Fd.SEC_LC_STATE, 2, 0), (Fd.TNT_STATE_STATE, 1, 0), (Fd.CXL_LINKST_STATE, 2, 0), (Fd.CXL_LINKST_IDE, 1, 0)] with
    pattern := some { pattern0 with policy := [0, 0, 1] } }
/-- The same with a session that is bound to host 0, its TDI locked in it, and the streams of link 0 keyed. -/
def secured : State :=
  { keyless with sessions := [(1, session0)], tdis := [(0, { st := 1, session := 1, req := [] })], ideKeys := [(0, 5), (1, 6)] }
end Sys2Proof.Tests
namespace Sys2Proof.Tests
open Sys2Proof.Machine
end Sys2Proof.Tests
namespace Sys2Proof.Tests
open Sys2Proof.Machine
/-- What a start-up finds: firmware that would start, no flash, no boot copy that reads back. -/
def start0 : StartIn := { startsA := true, startsB := true, targets := [], bootA := false, bootB := false, metaOk := true }
/-- The part after start-up. -/
def upNow : State := { State.reset with power := { State.reset.power with stage := .up, cold := false } }
end Sys2Proof.Tests
namespace Sys2Proof.Tests
open Sys2Proof.Machine
/-- The state after reset has the form that every step keeps. -/
theorem reset_inv : Invariant State.reset := by
  refine ⟨by decide, by decide, by decide, by decide, by decide, by decide, by decide, ?_, by decide⟩
  intro fn log
  simp [State.eventLog, State.reset, mapFind]
end Sys2Proof.Tests
namespace Sys2Proof.Tests
open Sys2Proof.Machine
/-- Every host range entry of the serving part names host 0. -/
theorem served_host (e : Nat) : served.fld Fd.HRT_CTL_HOST e = 0 := by
  simp only [served, setAll, List.foldl]
  repeat first
    | rw [State.fld_setFld_ne _ _ _ _ _ _ (fun h => absurd h.1 (by decide))]
    | rw [State.fld_setFld_apart _ _ _ _ _ _ (by decide) (by decide) (by decide) (by decide)]
  have h : State.reset.reg .HRT_CTL e = 0 := by
    show RegKind.resetWord .HRT_CTL e = 0
    simp only [RegKind.resetWord, reduceCtorEq, if_false]
    decide
  exact (congrArg (fun w : Word => bitsOf w 7 4) h).trans (by decide)
/-- The serving part with one plain extent, added for host 3. -/
def served3 : State := { served with extents := [(0, { hosts := [3], tag := 0, st := .added, since := 0 })] }
/-- So host 3 is admitted nowhere. -/
theorem served3_denied (bar2 : Bool) (a : Nat) (wr : Bool) (k : AccKind) : hrtLookup served3 3 bar2 a wr k = none := by
  have hc : served3.compat = false := by decide +kernel
  have hf : (served3.regIdx .HRT_CTL).find? (hrtMatches served3 3 bar2 a wr k) = none := by
    rw [List.find?_eq_none]
    intro e _ h
    simp only [hrtMatches, Bool.and_eq_true] at h
    have h3 := h.1.1.1.1.2
    have hx : ∀ (s : State) x f n, ({ s with extents := x } : State).fld f n = s.fld f n := fun _ _ _ _ => rfl
    rw [served3, hx, served_host] at h3
    exact absurd h3 (by decide)
  simp only [hrtLookup, hc, hf, Bool.false_eq_true, if_false]
/-- A line of that extent is denied to it. -/
theorem served3_gate (wr : Bool) : gate served3 3 64 wr = .denied := by
  have h1 : 3 ∉ served3.lostHosts := by decide +kernel
  have h2 : hdmServes served3 = true := by decide +kernel
  have h3 : backed served3 3 64 = true := by decide +kernel
  simp [gate, h1, h2, h3, served3_denied]
end Sys2Proof.Tests
namespace Sys2Proof.Tests
open Sys2Proof.Machine
/-- Tenant 0 sealed, and CONFIGURED or DISABLED, nothing of R107 against its start. -/
def sealedConfigured : State := setAll configured [(Fd.TNT_STATE_SEALED, 1, 0)]
/-- See above. -/
def sealedDisabled : State := setAll disabled [(Fd.TNT_STATE_SEALED, 1, 0)]
end Sys2Proof.Tests


/-- States and operands that meet the hypotheses of each clause of SpoolWritesComplete. -/
theorem test_meets_SpoolWritesComplete :
    (∃ (s : State) (h : HostId) (t : TenantId) (n : Fin 4) (off : Fin 4096) (bs : List Byte) (q : Nat),
    (hrtLookup s h true (winAddr t (4096 * n + off)) true .other).isSome ∧ off.val % 64 = 0 ∧ bs.length = 64 ∧ q = slotSeq (s.sqNext t n) (off / 64) ∧ s.sqError t n = false ∧ seqSub q (s.sqFreed t n) < sqGrant s t n ∧ mapFind (s.spool t n).part (off / 64) = none ∧ (s.spool t n).cutting = none) ∧
    (∃ (s : State) (h : HostId) (t : TenantId) (n : Fin 4) (v : Word),
    (hrtLookup s h true (winAddr t (0x5000 + 8 * n)) true .other).isSome ∧ bitsOf v 16 16 = 0 ∧ 0 < seqSub (bitsOf v 15 0) (s.sqTail t n) ∧ seqSub (bitsOf v 15 0) (s.sqTail t n) < 32768 ∧ seqSub (bitsOf v 15 0) (s.sqFreed t n) ≤ sqGrant s t n) ∧
    (∃ (s : State) (h : HostId) (t : TenantId) (n : Fin 4) (size : Nat) (v : Word),
    (hrtLookup s h true (winAddr t (0x5000 + 8 * n)) true .other).isSome ∧ (size ≠ 8 ∨ bitsOf v 16 16 = 0 ∧ (seqSub (bitsOf v 15 0) (s.sqTail t n) = 0 ∨ 32768 ≤ seqSub (bitsOf v 15 0) (s.sqTail t n)))) ∧
    (∃ (s : State) (h : HostId) (t : TenantId) (n : Fin 4) (v : Word),
    (hrtLookup s h true (winAddr t (0x5000 + 8 * n)) true .other).isSome ∧ bitsOf v 16 16 = 0 ∧ 0 < seqSub (bitsOf v 15 0) (s.sqTail t n) ∧ seqSub (bitsOf v 15 0) (s.sqTail t n) < 32768 ∧ sqGrant s t n < seqSub (bitsOf v 15 0) (s.sqFreed t n)) ∧
    (∃ (s : State) (h : HostId) (t : TenantId) (n : Fin 4) (tail : BitVec 16),
    (hrtLookup s h true (winAddr t (0x5000 + 8 * n)) true .other).isSome) ∧
    (∃ (s : State) (h : HostId) (t : TenantId) (q : Fin 4) (bs : List Byte) (off : Fin 65536),
    (hrtLookup s h true (winAddr t off) true .other).isSome ∧ off.val = 0x8000 + 0x2000 * q ∧ bs.length = 8) ∧
    (∃ (s : State) (h : HostId) (t : TenantId) (bs : List Byte) (off : Fin 65536),
    (hrtLookup s h true (winAddr t off) true .other).isSome ∧ (off.val % 0x2000 ≠ 0 ∨ bs.length ≠ 8)) ∧
    (∃ (s : State) (h : HostId) (t : TenantId) (n : Fin 4) (off : Fin 4096) (v : Word) (bs : List Byte),
    hrtLookup s h true (winAddr t (4096 * n + off)) true .other = none ∧ hrtLookup s h true (winAddr t (0x5000 + 8 * n)) true .other = none) :=
  ⟨⟨Tests.served, 0, 0, 0, 64, List.replicate 64 1, 1, by decide +kernel⟩,
    ⟨Tests.served, 0, 0, 0, 2, by decide +kernel⟩,
    ⟨Tests.served, 0, 0, 0, 8, 0, by decide +kernel⟩,
    ⟨Tests.served, 0, 0, 0, 100, by decide +kernel⟩,
    ⟨Tests.served, 0, 0, 0, 9, by decide +kernel⟩,
    ⟨Tests.served, 0, 0, 1, List.replicate 8 3, 0xA000, by decide +kernel⟩,
    ⟨Tests.served, 0, 0, [1], 0x8000, by decide +kernel⟩,
    ⟨State.reset, 0, 0, 0, 0, 0, [], by decide +kernel⟩⟩

/-- States and operands that meet the hypotheses of each clause of SpoolServiceCompletes. -/
theorem test_meets_SpoolServiceCompletes :
    (∃ (s : State) (t n : Nat) (first : List Word),
    nextTenant s = some t ∧ turnSpool s t = some n ∧ mapFind (s.spool t n).cells (s.spool t n).pos = some first ∧ cellsHeld (s.spool t n).cells (s.spool t n).pos (hdrNcell (wordAt first 0) + 1) = true ∧ spoolResult s t first (bytesOf (cellWords (s.spool t n).cells (s.spool t n).pos (hdrNcell (wordAt first 0) + 1))) = none ∧ partFailed s = false ∧ panelBusy s t (hdrOpcode (wordAt first 0)) = false) ∧
    (∃ (s : State) (t : TenantId) (n : Fin 4) (q : Fin 65536) (hdr : Word),
    s.active t = true ∧ (s.spool t n).commands.find? (fun e => e.1 == q.val) = some (q.val, hdr) ∧ cellsHeld (s.spool t n).cells q (hdrNcell hdr + 1) = false ∧ pastError s t n q = false ∧ (q.val = (s.spool t n).pos → (s.spool t n).cutting = none)) ∧
    (∃ (s : State) (t : TenantId) (n : Fin 4),
    s.active t = true ∧ announced s t n = true ∧ mapFind (s.spool t n).cells (s.spool t n).pos = none ∧ s.sqError t n = false) ∧
    (∃ (s : State) (t : TenantId) (m : Fin 2) (d : Done) (rest : List Done),
    (s.comp t m).waiting = d :: rest ∧ (s.comp t m).unread.length < 2 * cqGrant s t m) ∧
    (∃ (s : State) (t : TenantId) (m : Fin 2),
    2 * cqGrant s t m ≤ (s.comp t m).unread.length) ∧
    (∃ (s : State) (h : HostId) (t : TenantId) (off : Fin 65536) (m : Fin 2) (e : List Word) (rest : List (List Word)),
    off.val = 0x4000 + 64 * m ∧ (hrtLookup s h true (winAddr t off) false .headRead).isSome ∧ mediaReady s = true ∧ (s.comp t m).unread = e :: rest ∧ e.length = 4) ∧
    (∃ (s : State) (h : HostId) (t : TenantId) (q : Fin 4) (b : Nat) (off : Fin 65536) (size : Nat) (port : Fin 4) (outstanding : Nat),
    off.val = 0x8000 + 0x2000 * q + b ∧ b < 0x2000 ∧ (hrtLookup s h true (winAddr t off) false .probeRead).isSome ∧ isProbe off size = true ∧ mediaReady s = true ∧ s.active t = true ∧ partFailed s = false ∧ outstanding ≤ 32) ∧
    (∃ (s : State) (h : HostId) (t : TenantId) (off : Fin 65536) (size : Nat) (port : Fin 4) (outstanding : Nat),
    (hrtLookup s h true (winAddr t off) false .probeRead).isSome ∧ isProbe off size = true ∧ 32 < outstanding) ∧
    (∃ (s : State) (u : Nat) (c : Cmd),
    s.cmd u = some c ∧ c.opcode = Oc.nop ∧ c.full = true) :=
  ⟨⟨Tests.announcedNop, 0, 0, [0x5003F, 0, 0, 0, 0, 0, 0, 0], by decide +kernel⟩,
    ⟨Tests.halfCopy, 0, 0, 0, 0x50121, by decide +kernel⟩,
    ⟨Tests.setAll Tests.served [(Fd.SPL_SQS_TAIL, 1, 0)], 0, 0, by decide +kernel⟩,
    ⟨Tests.oneDone, 0, 0, doneOf (Tests.cmdOf 0x3F [] .ready) 0 0 0, [], by decide +kernel⟩,
    ⟨State.reset, 0, 0, by decide +kernel⟩,
    ⟨Tests.oneUnread, 0, 0, 0x4000, 0, [1, 2, 3, 4], [], by decide +kernel⟩,
    ⟨Tests.served, 0, 0, 0, 0, 0x8000, 8, 0, 1, by decide +kernel⟩,
    ⟨Tests.served, 0, 0, 0x8000, 8, 0, 33, by decide +kernel⟩,
    ⟨Tests.running (Tests.cmdOf 0x3F [] .ready), 7, Tests.cmdOf 0x3F [] .ready, by decide +kernel⟩⟩

/-- States and operands that meet the hypotheses of each clause of PrefixLookupsComplete. -/
theorem test_meets_PrefixLookupsComplete :
    (∃ (s : State) (uid pick : Nat) (hm : HostMem) (c : Cmd) (ntok : Nat) (w : Walk),
    s.ready uid Oc.lookup = some c ∧ c.work = .ready ∧ ntok = fieldOf c.words 1 19 0 ∧ 0 < ntok ∧ fieldOf c.words 1 21 20 = 0 ∧ fieldOf c.words 1 22 22 = 0 ∧ w = walk s c.tenant (fieldOf c.words 1 39 24) (tokensOf ((inlineBytes c 1).take (4 * ntok))) [] ∧ w.asks = none ∧ w.chain.all (fun h => !isHollow s h) = true) ∧
    (∃ (s : State) (uid pick : Nat) (hm : HostMem) (c : Cmd),
    s.ready uid Oc.lookup = some c ∧ fieldOf c.words 1 19 0 = 0) ∧
    (∃ (s : State) (uid sp cp : Nat) (c : Cmd) (h q : Nat),
    s.ready uid Oc.extend = some c ∧ fieldOf c.words 1 22 22 = 1 ∧ firstChunkWaits s (s.profileOf c.tenant) = false ∧ (allocate s c.tenant true true cp sp).toOption = some (h, q) ∧ ownerDown s h = false ∧ ownerDown s q = false) ∧
    (∃ (s : State) (uid sp cp : Nat) (c : Cmd) (sq : Seq) (keep : List Nat) (h q : Nat),
    s.ready uid Oc.fork = some c ∧ s.ownSeq c.tenant (fieldOf c.words 1 21 0) = some sq ∧ 0 < fieldOf c.words 1 44 22 ∧ fieldOf c.words 1 44 22 ≤ (sq.chain.map fun h => ((s.chunk h).map (extentOf s)).getD 0).sum ∧ forkCut s sq.chain (fieldOf c.words 1 44 22) = (keep, none) ∧ (allocate s c.tenant false true cp sp).toOption = some (h, q) ∧ ownerDown s q = false) ∧
    (∃ (s : State) (uid : Nat) (c : Cmd) (sq : Seq),
    s.ready uid Oc.release = some c ∧ s.ownSeq c.tenant (fieldOf c.words 1 21 0) = some sq ∧ fieldOf c.words 1 22 22 = 0) ∧
    (∃ (s : State) (uid : Nat) (c : Cmd) (h : Nat) (k : Chunk),
    s.ready uid Oc.pin = some c ∧ c.work = .ready ∧ fieldOf c.words 1 24 24 = 0 ∧ fieldOf c.words 1 25 25 = 0 ∧ h = fieldOf c.words 1 23 0 ∧ reaches s c.tenant h = true ∧ s.chunk h = some k ∧ k.committed = true ∧ pinFull s c.tenant false [h] = false) ∧
    (∃ (s : State) (uid : Nat) (c : Cmd) (h : Nat) (k : Chunk),
    s.ready uid Oc.unpin = some c ∧ fieldOf c.words 1 24 24 = 0 ∧ fieldOf c.words 1 25 25 = 0 ∧ h = fieldOf c.words 1 23 0 ∧ reaches s c.tenant h = true ∧ s.chunk h = some k ∧ k.committed = true) :=
  ⟨⟨Tests.running (Tests.cmdOf 1 (Tests.cell 0x10101 1 ++ Tests.cell 9 0) .ready), 7, 0, [], Tests.cmdOf 1 (Tests.cell 0x10101 1 ++ Tests.cell 9 0) .ready, 1, walk Tests.served 0 0 [9] [], by decide +kernel⟩,
    ⟨Tests.running (Tests.cmdOf 1 [] .ready), 7, 0, [], Tests.cmdOf 1 [] .ready, by decide +kernel⟩,
    ⟨Tests.withSeq Tests.basted (Tests.cmdOf 2 (Tests.cell 0x50002 0x400000) .ready), 7, 0, 0, Tests.cmdOf 2 (Tests.cell 0x50002 0x400000) .ready, 1, 1, by decide +kernel⟩,
    ⟨Tests.withSeq Tests.whole (Tests.cmdOf 5 (Tests.cell 0x50005 0x20000000) .ready), 7, 0, 0, Tests.cmdOf 5 (Tests.cell 0x50005 0x20000000) .ready, { tenant := 0, chain := [0] }, [0], 0, 1, by decide +kernel⟩,
    ⟨Tests.withSeq Tests.whole (Tests.cmdOf 6 (Tests.cell 0x50006 0) .ready), 7, Tests.cmdOf 6 (Tests.cell 0x50006 0) .ready, { tenant := 0, chain := [0] }, by decide +kernel⟩,
    ⟨Tests.withSeq Tests.whole (Tests.cmdOf 7 (Tests.cell 0x50007 0) .ready), 7, Tests.cmdOf 7 (Tests.cell 0x50007 0) .ready, 0, Tests.whole, by decide +kernel⟩,
    ⟨Tests.withSeq Tests.whole (Tests.cmdOf 8 (Tests.cell 0x50008 0) .ready), 7, Tests.cmdOf 8 (Tests.cell 0x50008 0) .ready, 0, Tests.whole, by decide +kernel⟩⟩

/-- States and operands that meet the hypotheses of each clause of RowsAndCommitsComplete. -/
theorem test_meets_RowsAndCommitsComplete :
    (∃ (s : State) (uid : Nat) (hm : HostMem) (picks : List Nat) (c : Cmd) (q : Seq) (h layer f : Nat) (k : Chunk) (p : Page) (x : Frame) (m : Memory),
    s.ready uid Oc.append = some c ∧ c.work = .ready ∧ fieldOf c.words 1 38 37 = 0 ∧ fieldOf c.words 1 36 29 = 1 ∧ layer = fieldOf c.words 1 28 22 ∧ s.ownSeq c.tenant (fieldOf c.words 1 21 0) = some q ∧ q.chain.getLast? = some h ∧ s.chunk h = some k ∧ k.committed = false ∧ k.page layer = some p ∧ p.st ≠ .poisoned ∧ p.frame = some f ∧ mapFind s.frames f = some x ∧ x.body = .raw m false ∧ frefs s f ≤ 1 ∧ appendOk (s.geo (s.profileOf c.tenant)) p.recov c = true ∧ s.snoops.any (fun x => x.uid == some c.uid) = false) ∧
    (∃ (s : State) (uid : Nat) (hm : HostMem) (c : Cmd) (q : Seq) (h : Nat) (k : Chunk) (ntok : Nat),
    s.ready uid Oc.commit = some c ∧ c.work = .ready ∧ ntok = fieldOf c.words 1 37 28 ∧ fieldOf c.words 1 39 38 = 0 ∧ fieldOf c.words 1 26 24 ≤ 5 ∧ fieldOf c.words 1 23 23 = 1 ∧ s.ownSeq c.tenant (fieldOf c.words 1 21 0) = some q ∧ q.chain.getLast? = some h ∧ s.chunk h = some k ∧ k.committed = false ∧ max 1 k.fill ≤ ntok ∧ ntok ≤ s.spanOf k ∧ bastedPoison s k = false) ∧
    (∃ (s : State) (uid : Nat) (hm : HostMem) (c : Cmd) (q : Seq) (h : Nat) (k : Chunk) (ntok ns : Nat) (toks : List Token) (n : Nat) (x : Chunk),
    s.ready uid Oc.commit = some c ∧ c.work = .ready ∧ ntok = fieldOf c.words 1 37 28 ∧ fieldOf c.words 1 39 38 = 0 ∧ fieldOf c.words 1 26 24 ≤ 5 ∧ fieldOf c.words 1 23 23 = 0 ∧ fieldOf c.words 1 22 22 = 1 ∧ s.ownSeq c.tenant (fieldOf c.words 1 21 0) = some q ∧ q.chain = [h] ∧ s.chunk h = some k ∧ k.committed = false ∧ max 1 k.fill ≤ ntok ∧ ntok ≤ s.spanOf k ∧ bastedPoison s k = false ∧ toks = tokensOf ((inlineBytes c 1).take (4 * ntok)) ∧ chooseNs s c.tenant (fieldOf c.words 1 26 24) false none = some (some ns) ∧ commitFind s ns (spanKey (s.nsKey ns) 0 (s.profileOf c.tenant) toks) none toks (fieldOf c.words 1 55 40) (s.profileOf c.tenant) = some (n, x) ∧ x.hollow = false ∧ ownerDown s n = false) ∧
    (∃ (s : State) (uid : Nat) (picks : List Nat) (c : Cmd) (w : CommitWork) (k : Chunk) (es : List Encoded),
    s.cmd uid = some c ∧ c.work = .commit w ∧ w.ns = none ∧ s.chunk w.chunk = some k ∧ bastedPoison s k = false ∧ stewardDown s c = false ∧ (encodeAll s k w 0 k.pages).toOption = some es ∧ commitRoom s k w.chunk c.tenant w.tokens.length es = .ok ∧ (((withoutFrames s (freeable s k)).withTokens w.chunk w.tokens.length).placeAll w.chunk picks es).isSome ∧ 0 < refs s w.chunk) ∧
    (∃ (s : State) (uid : Nat) (c : Cmd) (h : Nat) (k : Chunk),
    s.ready uid Oc.deliver = some c ∧ c.work = .ready ∧ c.cancel = none ∧ deliverOk (s.geo (s.profileOf c.tenant)) c = true ∧ fieldOf c.words 1 14 14 = 0 ∧ fieldOf c.words 1 15 15 = 0 ∧ 8 ≤ c.words.length ∧ listedChunks c (fieldOf c.words 1 13 0) = [h] ∧ reaches s c.tenant h = true ∧ s.chunk h = some k ∧ k.hollow = false) ∧
    (∃ (s : State) (uid : Nat) (readOk : Bool) (now : Nat) (c : Cmd) (w : DeliverWork),
    s.ready uid Oc.deliver = some c ∧ c.work = .deliver w ∧ c.cancel = none ∧ deliverPending s c w = false ∧ deliverFailed s c w = [] ∧ w.hollow = [] ∧ (∀ i, i < w.handles.length → w.lost.contains i = false ∧ (deliverAt c w i).all (pageIs s fun p => p.st == .none || p.st == .raw || p.st == .dirty || p.st == .clean) = true) ∧ fieldOf c.words 1 15 15 = 0 ∧ wordAt c.words 2 = 0) ∧
    (∃ (s : State) (h : Fin 16777216) (l : Fin 128) (now : Nat) (k : Chunk) (p : Page),
    s.chunk h = some k ∧ k.page l = some p) :=
  ⟨⟨Tests.withRaw Tests.appendCmd, 7, [], [], Tests.appendCmd, { tenant := 0, chain := [0] }, 0, 0, 50331655, Tests.bastedRaw, Tests.pageRaw, Tests.frameRaw, [], by decide +kernel⟩,
    ⟨Tests.withRaw Tests.commitCmd, 7, [], Tests.commitCmd, { tenant := 0, chain := [0] }, 0, Tests.bastedRaw, 2, by decide +kernel⟩,
    ⟨Tests.withNode Tests.commitLinkedCmd, 7, [], Tests.commitLinkedCmd, { tenant := 0, chain := [0] }, 0, Tests.basted, 2, 0, [3, 4], 1, Tests.node, by decide +kernel⟩,
    ⟨Tests.withSeq Tests.bastedNone Tests.linkCmd, 7, [], Tests.linkCmd, Tests.linkWork, Tests.bastedNone, [], by decide +kernel⟩,
    ⟨Tests.withSeq Tests.whole Tests.deliverCmd, 7, Tests.deliverCmd, 0, Tests.whole, by decide +kernel⟩,
    ⟨Tests.withSeq Tests.whole Tests.deliverOn, 7, true, 5, Tests.deliverOn, { handles := [0], hollow := [], lost := [], unpushed := [], noRoom := [], toPush := [], last := none, closing := false }, by decide +kernel⟩,
    ⟨Tests.withSeq Tests.whole Tests.deliverOn, 0, 0, 5, Tests.whole, Tests.pageNone, by decide +kernel⟩⟩

/-- States and operands that meet the hypotheses of each clause of AttentionCommandsComplete. -/
theorem test_meets_AttentionCommandsComplete :
    (∃ (s : State) (uid : Nat) (c : Cmd) (q : AttSeq),
    s.readyCut uid Oc.attend 1 = some c ∧ c.work = .ready ∧ c.cancel = none ∧ attFieldFault s c = none ∧ q = attSeq s c (fieldOf c.words 1 21 0) (fieldOf c.words 4 44 23) (fieldOf c.words 4 22 0) (fieldOf c.words 5 21 0) ∧ q.failed = none ∧ (s.attAccess (s.hostOf c.tenant) ((attRanges s c).1.map (fun x => (x.1, x.2, false)) ++ (attRanges s c).2.map fun x => (x.1, x.2, true))).isNone ∧ attWaits { layer := (attCmd s c).layer, seqs := [q], taken := none, waited := false } = []) ∧
    (∃ (s : State) (uid : Nat) (c : Cmd) (q : AttSeq),
    s.readyCut uid Oc.verify 2 = some c ∧ c.work = .ready ∧ c.cancel = none ∧ attFieldFault s c = none ∧ q = attSeq s c (fieldOf c.words 1 21 0) (fieldOf c.words 4 43 22) (fieldOf c.words 4 21 0 + (fieldOf c.words 1 53 50 + 1)) (fieldOf c.words 4 21 0) ∧ q.failed = none ∧ (s.attAccess (s.hostOf c.tenant) ((attRanges s c).1.map (fun x => (x.1, x.2, false)) ++ (attRanges s c).2.map fun x => (x.1, x.2, true))).isNone ∧ attWaits { layer := (attCmd s c).layer, seqs := [q], taken := none, waited := false } = []) ∧
    (∃ (s : State) (uid : Nat) (hm : HostMem) (c : Cmd) (qs : List AttSeq),
    s.readyCut uid Oc.attendBatch 2 = some c ∧ c.full = true ∧ c.work = .ready ∧ c.cancel = none ∧ attFieldFault s c = none ∧ fieldOf c.words 1 18 17 = 0 ∧ qs = (List.range (fieldOf c.words 1 9 0)).map (descSeq s c (sliceAt (inlineBytes c 2) 0 (16 * fieldOf c.words 1 9 0))) ∧ (s.attAccess (s.hostOf c.tenant) ((attRanges s c).1.map (fun x => (x.1, x.2, false)) ++ (attRanges s c).2.map fun x => (x.1, x.2, true))).isNone ∧ s.snoops.any (fun x => x.uid == some c.uid) = false ∧ attWaits { layer := (attCmd s c).layer, seqs := qs, taken := none, waited := false } = []) ∧
    (∃ (s : State) (uid : Nat) (hm : HostMem) (now : Nat) (c : Cmd) (w : AttWork),
    s.cmd uid = some c ∧ c.work = .attend w ∧ w.taken = none ∧ c.cancel = none ∧ attWaits (w.again s) = [] ∧ c.full = true ∧ (attCmd s c).qsrc = 0 ∧ s.snoops.any (fun x => x.uid == some c.uid) = false ∧ w.seqs.all (fun q => q.failed.isNone) = true) ∧
    (∃ (s : State) (uid : Nat) (c : Cmd) (w : AttWork),
    s.cmd uid = some c ∧ c.work = .attend w) ∧
    (∃ (s : State) (uid : Nat) (ringNs now : Nat) (c : Cmd) (w : AttWork) (q : AttSeq) (r : SeqResult),
    s.cmd uid = some c ∧ c.work = .attend w ∧ c.opcode = Oc.attend ∧ c.cancel = none ∧ w.taken.isSome ∧ (w.again s).seqs = [q] ∧ (attCmd s c).odst = 2 ∧ ((s.at_ now).coherent c [] (attRanges s c).2).2 = true ∧ (computeSeq (s.at_ now) c q).toOption = some r ∧ firstHollow s q = 0) :=
  ⟨⟨Tests.attending Tests.attendCmd, 7, Tests.attendCmd, Tests.seqIn Tests.attendCmd 128 127, by decide +kernel⟩,
    ⟨Tests.attending Tests.verifyCmd, 7, Tests.verifyCmd, Tests.seqIn Tests.verifyCmd 128 127, by decide +kernel⟩,
    ⟨Tests.attending Tests.batchCmd, 7, [], Tests.batchCmd, [Tests.seqIn Tests.batchCmd 128 127], by decide +kernel⟩,
    ⟨Tests.attending Tests.pinnedCmd, 7, [], 5, Tests.pinnedCmd, Tests.pinnedWork, by decide +kernel⟩,
    ⟨Tests.attending Tests.pinnedCmd, 7, Tests.pinnedCmd, Tests.pinnedWork, by decide +kernel⟩,
    ⟨Tests.attending Tests.takenCmd, 7, 0, 5, Tests.takenCmd, Tests.takenWork, Tests.takenSeq, Tests.takenResult, by decide +kernel⟩⟩

/-- States and operands that meet the hypotheses of each clause of NearMemoryCommandsComplete. -/
theorem test_meets_NearMemoryCommandsComplete :
    (∃ (s : State) (uid : Nat) (c : Cmd) (a n : Nat),
    s.ready uid Oc.fill = some c ∧ c.work = .ready ∧ a = (wordAt c.words 1).toNat ∧ n = fieldOf c.words 2 39 0 ∧ a % 64 = 0 ∧ n % 64 = 0 ∧ 0 < n ∧ s.nearFault c.tenant [{ addr := a, len := n, wr := true, view := false }] = none ∧ (s.nearCoherent c [{ addr := a, len := n, wr := true, view := false }]).2 = true) ∧
    (∃ (s : State) (uid : Nat) (c : Cmd) (a d n : Nat) (parts : List (List NearRead)) (bs : List Byte),
    s.ready uid Oc.copy = some c ∧ c.work = .ready ∧ a = (wordAt c.words 1).toNat ∧ d = (wordAt c.words 2).toNat ∧ n = fieldOf c.words 3 39 0 ∧ fieldOf c.words 3 41 40 = 2 ∧ a % 64 = 0 ∧ d % 64 = 0 ∧ n % 64 = 0 ∧ s.nearFault c.tenant [{ addr := a, len := n, wr := false, view := true }, { addr := d, len := n, wr := true, view := false }] = none ∧ (s.nearCoherent c [{ addr := a, len := n, wr := false, view := true }, { addr := d, len := n, wr := true, view := false }]).2 = true ∧ parts = nearRead s c.tenant a n ∧ nearWaits parts.flatten = [] ∧ nearBad parts = [] ∧ bs = nearBytes parts.flatten) ∧
    (∃ (s : State) (uid : Nat) (c : Cmd) (a : Nat) (old : Word),
    s.ready uid Oc.compare = some c ∧ c.work = .ready ∧ a = (wordAt c.words 1).toNat ∧ fieldOf c.words 2 1 0 = 0 ∧ a % 8 = 0 ∧ s.nearFault c.tenant [{ addr := a, len := 8, wr := false, view := false }, { addr := a, len := 8, wr := true, view := false }] = none ∧ (s.nearCoherent c [{ addr := a, len := 8, wr := false, view := false }, { addr := a, len := 8, wr := true, view := false }]).2 = true ∧ rangePoison s a 8 = false ∧ old = BitVec.ofNat 64 (ofLE (s.plainBytes a 8))) ∧
    (∃ (s : State) (uid : Nat) (c : Cmd) (a b n : Nat),
    s.ready uid Oc.compare = some c ∧ c.work = .ready ∧ a = (wordAt c.words 1).toNat ∧ b = (wordAt c.words 3).toNat ∧ n = (wordAt c.words 4).toNat ∧ fieldOf c.words 2 1 0 = 1 ∧ a % 64 = 0 ∧ b % 64 = 0 ∧ n % 64 = 0 ∧ 0 < n ∧ s.nearFault c.tenant [{ addr := a, len := n, wr := false, view := false }, { addr := b, len := n, wr := false, view := false }] = none ∧ (s.nearCoherent c [{ addr := a, len := n, wr := false, view := false }, { addr := b, len := n, wr := false, view := false }]).2 = true ∧ rangePoison s a n = false ∧ rangePoison s b n = false) ∧
    (∃ (s : State) (uid : Nat) (c : Cmd) (d a n rt : Nat) (bs : List Byte),
    s.ready uid Oc.reduce = some c ∧ c.work = .ready ∧ d = (wordAt c.words 1).toNat ∧ a = (wordAt c.words 2).toNat ∧ n = fieldOf c.words 3 31 0 ∧ rt = fieldOf c.words 3 34 32 ∧ fieldOf c.words 3 35 35 = 1 ∧ c.ncell = 0 ∧ rt ≤ 4 ∧ n % elemBytes rt = 0 ∧ d % elemBytes rt = 0 ∧ 0 < n ∧ s.nearFault c.tenant [{ addr := d, len := n, wr := true, view := false }, { addr := a, len := n, wr := false, view := false }] = none ∧ (s.nearCoherent c [{ addr := d, len := n, wr := true, view := false }, { addr := a, len := n, wr := false, view := false }]).2 = true ∧ rangePoison s a n = false ∧ bs = reduceBytes rt (s.plainBytes d n) (s.plainBytes a n)) ∧
    (∃ (s : State) (uid : Nat) (c : Cmd) (d n : Nat) (es : List (Nat × Nat)) (rs : List NearRange) (parts : List (List NearRead)),
    s.ready uid Oc.gather = some c ∧ c.work = .ready ∧ d = (wordAt c.words 1).toNat ∧ n = fieldOf c.words 2 9 0 ∧ fieldOf c.words 2 11 10 = 2 ∧ fieldOf c.words 2 12 12 = 0 ∧ d % 64 = 0 ∧ 1 ≤ n ∧ n ≤ 60 ∧ c.ncell = ceilDiv n 4 ∧ es = gatherList (inlineBytes c 1) n ∧ es.all (fun e => decide (0 < e.2) && e.2 % 64 == 0) = true ∧ (rs = es.map (fun e => { addr := e.1, len := e.2, wr := false, view := true }) ++ [{ addr := d, len := (es.map fun e => e.2).sum, wr := true, view := false }]) ∧ s.nearFault c.tenant rs = none ∧ (s.nearCoherent c rs).2 = true ∧ (parts = es.flatMap (fun e => nearRead s c.tenant e.1 e.2)) ∧ nearWaits parts.flatten = [] ∧ nearBad parts = []) ∧
    (∃ (s : State) (uid : Nat) (readOk toHost : Bool) (c : Cmd) (code : Nat) (r0 r1 : Word),
    s.cmd uid = some c ∧ c.work = .near (some (code, r0, r1)) toHost ∧ s.snoops.any (fun x => x.uid == some uid) = false ∧ ((nearRanges c).filter fun r => decide (0 < r.len)).all (NearRange.ok s c.tenant (s.hostOf c.tenant)) = true) :=
  ⟨⟨Tests.planed Tests.fillCmd, 7, Tests.fillCmd, 128, 64, by decide +kernel⟩,
    ⟨Tests.planed Tests.copyCmd, 7, Tests.copyCmd, 128, 192, 64, [[.data (List.replicate 64 0) none]], List.replicate 64 0, by decide +kernel⟩,
    ⟨Tests.planed Tests.swapCmd, 7, Tests.swapCmd, 128, 0, by decide +kernel⟩,
    ⟨Tests.planed Tests.compareCmd, 7, Tests.compareCmd, 128, 192, 64, by decide +kernel⟩,
    ⟨Tests.planed Tests.reduceCmd, 7, Tests.reduceCmd, 128, 192, 64, 0, reduceBytes 0 (List.replicate 64 0) (List.replicate 64 0), by decide +kernel⟩,
    ⟨Tests.planed Tests.gatherCmd, 7, Tests.gatherCmd, 256, 1, [(128, 64)], [{ addr := 128, len := 64, wr := false, view := true }, { addr := 256, len := 64, wr := true, view := false }], [[.data (List.replicate 64 0) none]], by decide +kernel⟩,
    ⟨Tests.planed Tests.filledCmd, 7, true, false, Tests.filledCmd, 0, 64, 0, by decide +kernel⟩⟩

/-- States and operands that meet the hypotheses of each clause of TableAndQueryCommandsComplete. -/
theorem test_meets_TableAndQueryCommandsComplete :
    (∃ (s : State) (uid : Nat) (c : Cmd) (tensor : Nat) (l : List Nat) (r : List Gen × Nat × Bool),
    s.ready uid Oc.tableLoad = some c ∧ tablesBusy s c = false ∧ loadFailure s c = none ∧ loadTables c = [(tensor, l)] ∧ r = installTable (s.gensOf (s.profileOf c.tenant) tensor) l (reusable (s.gensOf (s.profileOf c.tenant) tensor) l)) ∧
    (∃ (s : State) (uid : Nat) (c : Cmd),
    s.ready uid Oc.tableRetire = some c ∧ tablesBusy s c = false ∧ retireFailure s c = none ∧ fieldOf c.words 1 12 12 = 0 ∧ mapSorted s.gens = true) ∧
    (∃ (s : State) (v : Word),
    (panelOf s (bitsOf v 15 8)).isSome = true ∧ bitsOf v 7 0 < 2 * (s.geo (bitsOf v 15 8)).layers) :=
  ⟨⟨Tests.coding Tests.loadCmd, 7, Tests.loadCmd, 0, Tests.table0, ([{ num := 3, table := List.replicate 256 8, st := .old }, { num := 0, table := Tests.table0, st := .current }], 0, false), by decide +kernel⟩,
    ⟨Tests.coding Tests.retireCmd, 7, Tests.retireCmd, by decide +kernel⟩,
    ⟨Tests.coding Tests.loadCmd, 0, by decide +kernel⟩⟩

/-- States and operands that meet the hypotheses of each clause of CacheStewardsComplete. -/
theorem test_meets_CacheStewardsComplete :
    (∃ (s : State) (c : Candidate),
    s.ladder.flag Fd.PGT_TIER_DEMOTE = true ∧ nextCandidate s.ladder none (fun c => c.clean && !ownerDown s.ladder c.handle) = some c) ∧
    (∃ (s s' : State) (handle : Fin 16777216) (layer : Fin 128) (c : Chunk) (p : Page) (g : FlashGeo) (cl : List Nat) (bs : List Block) (tag : ImgTag) (x : FlashImage) (places : List Place),
    s.pageOf handle.val layer.val = some (c, p) ∧ s.flash = some g ∧ ((p.frame.bind fun f => mapFind s.frames f).map fun x => (x.tag, x.body)) = some (tag, .coded cl bs) ∧ mediaReady s = true ∧ stashQueued c p = true ∧ stashRuns s c.charge (ceilDiv (codedBytes (omitMasked (s.geo c.prof) p.recov p.mask cl bs).1) 4096 * 4096) = true ∧ ownerDown s handle = false ∧ x = { handle := handle.val, layer := layer.val, clens := (omitMasked (s.geo c.prof) p.recov p.mask cl bs).1, blocks := (omitMasked (s.geo c.prof) p.recov p.mask cl bs).2, recov := p.recov, mask := p.mask, tag, places := [], progd := false, durable := false } ∧ s.placeImage (handle.val % 8) (if slcInUse s g < s.slcTarget then 0 else 1) c.charge (imageCodewords x) = some (s', places)) ∧
    (∃ (s : State) (handle : Fin 16777216) (layer : Fin 128) (c : Chunk) (p : Page) (k : Nat) (x : FlashImage),
    s.pageOf handle.val layer.val = some (c, p) ∧ s.imageOf handle.val layer.val = some (k, x) ∧ p.st = .dirty ∧ x.durable = true ∧ ownerDown s handle = false) ∧
    (∃ (s s' u w : State) (handle : Fin 16777216) (layer : Fin 128) (picks : List Nat) (c : Chunk) (p : Page) (k b : Nat) (x : FlashImage) (r : List Nat × List Block),
    s.pageOf handle.val layer.val = some (c, p) ∧ s.imageOf handle.val layer.val = some (k, x) ∧ (readsIssued s).any (fun r => r.handle == handle.val && r.layer == layer.val) = true ∧ r = omitMasked (s.geo c.prof) p.recov p.mask x.clens x.blocks ∧ roomFor s c.charge (max 1 (ceilDiv (codedBytes r.1) 512)) picks = .ok ∧ s.newFrame picks (max 1 (ceilDiv (codedBytes r.1) 512)) handle.val (.kept x.tag) (.coded r.1 r.2) = some (s', b) ∧ (u = s'.updPage handle.val layer.val fun p => { p with st := .clean, frame := some b, ctr := max p.ctr (promTh s'), want := none }) ∧ (w = { u with inflight := u.inflight.map fun c => c.pinPage handle.val layer.val b })) ∧
    (∃ (s : State) (h : Nat),
    s.ladder.chunks.find? (fun e => poisonHollowable s.ladder e.1 e.2 && !ownerDown s.ladder e.1) = none ∧ s.ladder.flag Fd.PGT_TIER_DROP = true ∧ lowestScore s.ladder none = some h) ∧
    (∃ (s : State) (h : Nat) (c : Chunk),
    s.ladder.flag Fd.PGT_TIER_HANDLES = true ∧ s.ladder.chunks.filter (fun e => e.2.hollow && e.2.linked && refs s.ladder e.1 == 0 && children s.ladder e.1 == 0 && pinsOn s.ladder e.1 == 0 && !ownerDown s.ladder e.1) = [(h, c)]) ∧
    (∃ (s s' : State) (base b h prof : Nat) (picks : List Nat) (f : Frame) (p : Page) (users : List (Nat × Nat × Page)) (r : FrameBody × Nat),
    (users = s.chunks.flatMap fun e => (e.2.pages.filter fun p => p.frame == some base).map fun p => (e.1, e.2.prof, p)) ∧ users.any (fun u => ownerDown s u.1) = false ∧ mapFind s.frames base = some f ∧ users.head? = some (h, prof, p) ∧ (r = match f.body with | .coded cl bs => (.coded (omitMasked (s.geo prof) p.recov (commonMask (users.map fun u => u.2.2)) cl bs).1 (omitMasked (s.geo prof) p.recov (commonMask (users.map fun u => u.2.2)) cl bs).2, max 1 (ceilDiv (codedBytes (omitMasked (s.geo prof) p.recov (commonMask (users.map fun u => u.2.2)) cl bs).1) 512)) | .raw m x => (.raw m x, f.ngran)) ∧ s.newFrame picks r.2 f.owner (.kept f.tag) r.1 = some (s', b)) ∧
    (∃ (s s' : State) (handle : Fin 16777216) (layer : Fin 128) (picks : List Nat) (c : Chunk) (p : Page) (f b : Nat) (x : Frame) (cl : List Nat) (bs : List Block) (raw : List Byte) (r : List Nat × List Block),
    (s.chunk handle.val).bind (fun c => (c.page layer.val).map fun p => (c, p)) = some (c, p) ∧ (decide (c.charge < 1024) && s.tstate c.charge == TState.shredding.code) = false ∧ (p.st = .dirty ∨ p.st = .clean) ∧ p.frame.bind (fun f => (mapFind s.frames f).map fun x => (f, x)) = some (f, x) ∧ x.body = .coded cl bs ∧ usesRetiring s bs = true ∧ (imageRaw s c.prof layer.val p.recov cl bs).toOption = some raw ∧ r = reencoded s c.prof layer.val p.recov cl raw ∧ s.newFrame picks (max 1 (ceilDiv (codedBytes r.1) 512)) x.owner (.fresh handle.val layer.val) (.coded r.1 r.2) = some (s', b)) ∧
    (∃ (s : State) (uid : Nat) (c : Cmd) (h : Nat) (b : Bool) (undo : List (Nat × Page × Option FrameBody)),
    s.cmd uid = some c ∧ c.work = .append h b undo ∧ cmdRoom s none c = .quotaWait) ∧
    (∃ (s : State) (uid : Nat) (c : Cmd) (h : Nat) (b : Bool) (undo : List (Nat × Page × Option FrameBody)),
    s.cmd uid = some c ∧ c.work = .append h b undo ∧ cmdRoom s none c = .spaceWait) :=
  ⟨⟨Tests.demoting, { ctr := 0, depth := 1, handle := 0, layer := 0, clean := true, writing := true, charge := 0, bytes := 0 }, by decide +kernel⟩,
    ⟨Tests.stashing, (Tests.stashing.placeImage 0 0 0 1).elim Tests.stashing Prod.fst, 0, 0, Tests.wholeOf Tests.pageQueued, Tests.pageQueued, Tests.flash0, [0], [], Tests.tag0, { Tests.image0 with progd := false, durable := false }, (Tests.stashing.placeImage 0 0 0 1).elim [] Prod.snd, by decide +kernel⟩,
    ⟨Tests.caching Tests.pageDirty, 0, 0, Tests.wholeOf Tests.pageDirty, Tests.pageDirty, 0, Tests.image0, by decide +kernel⟩,
    ⟨Tests.arriving, Tests.arrived, Tests.arrivedU, { Tests.arrivedU with inflight := [] }, 0, 0, [50331699], Tests.wholeOf Tests.pageAwaited, Tests.pageAwaited, 0, 50331699, Tests.imagePlaced, ([0], []), by decide +kernel⟩,
    ⟨Tests.dropping, 0, by decide +kernel⟩,
    ⟨Tests.shortOf 16720000, 16720000, Tests.hollowNode, by exact Tests.shortOf_meets 16720000 (by decide)⟩,
    ⟨Tests.withRaw Tests.appendCmd, Tests.movedRaw, 50331655, 50331699, 0, 0, [50331699], Tests.frameRaw, Tests.pageRaw, [(0, 0, Tests.pageRaw)], (.raw [] false, 32), by decide +kernel⟩,
    ⟨Tests.retiring, Tests.recoded, 0, 0, [50331699], Tests.wholeOf Tests.pageQueued, Tests.pageQueued, 50331655, 50331699, Tests.frameOld, [0, 0, 0, 0], [Tests.blockOld], (imageRaw Tests.retiring 0 0 none [0, 0, 0, 0] [Tests.blockOld]).toOption.getD [], ([0, 0, 0, 0], []), by exact ⟨by decide +kernel, by decide +kernel, by decide +kernel, by decide +kernel, by decide +kernel, by decide +kernel, Tests.some_getD (by decide +kernel), by decide +kernel, by decide +kernel⟩⟩,
    ⟨Tests.quotaShort, 7, Tests.appendWaits, 0, false, [], by decide +kernel⟩,
    ⟨Tests.spaceShort, 7, Tests.appendWaits, 0, false, [], by decide +kernel⟩⟩

/-- States and operands that meet the hypotheses of each clause of TenantActionsComplete. -/
theorem test_meets_TenantActionsComplete :
    (∃ (s : State) (t : TenantId) (v : Word) (ws : List Word),
    loadHolds s = false ∧ s.tstate t.val = TState.free.code ∧ templateOf (s.writeTntCtrl t.val v) (bitsOf v 21 16) (bitsOf v 15 12) = some ws ∧ bobbinFits (s.writeTntCtrl t.val v) t.val (wordAt ws 3) = true) ∧
    (∃ (s : State) (t : TenantId) (v : Word),
    startError (s.writeTntCtrl t.val v) t.val .configured = 0) ∧
    (∃ (s : State) (t : TenantId) (v : Word),
    startError (s.writeTntCtrl t.val v) t.val .disabled = 0) ∧
    (∃ (s : State) (t : TenantId) (v : Word),
    (s.writeTntCtrl t.val v).active t.val = true) ∧
    (∃ (s : State) (t : TenantId),
    s.tstate t.val = TState.draining.code ∧ drainCount s t.val = 0 ∧ s.tenantResets.contains t.val = false) ∧
    (∃ (s : State) (t : TenantId) (v : Word),
    s.tstate t.val = TState.disabled.code) ∧
    (∃ (s : State) (t : TenantId),
    s.tstate t.val = TState.shredding.code ∧ eraseLeft s t.val = []) ∧
    (∃ (s : State) (t : TenantId) (v : Word),
    s.tstate t.val = TState.configured.code) ∧
    (∃ (s : State) (g : GroupId) (v : Word),
    (s.writeSgCfg g.val v).flag Fd.SG_CFG_VALID g.val = false ∧ (panelOf (s.writeSgCfg g.val v) ((s.writeSgCfg g.val v).fld Fd.SG_CFG_PROFILE g.val)).isSome = true) ∧
    (∃ (s : State) (g : GroupId) (v : Word),
    (s.writeSgCfg g.val v).flag Fd.SG_CFG_VALID g.val = true ∧ groupMembers (s.writeSgCfg g.val v) g.val = [] ∧ chunksCharged (s.writeSgCfg g.val v) (1024 + g.val) = 0) ∧
    (∃ (s : State),
    syncWaits s = false) ∧
    (∃ (s : State),
    syncWaits s = true) :=
  ⟨⟨Tests.templated, 1, 0, Tests.template0, by decide +kernel⟩,
    ⟨Tests.configured, 0, 0, by decide +kernel⟩,
    ⟨Tests.disabled, 0, 0, by decide +kernel⟩,
    ⟨Tests.served, 0, 0, by decide +kernel⟩,
    ⟨Tests.setAll State.reset [(Fd.TNT_STATE_STATE, 3, 0)], 0, by decide +kernel⟩,
    ⟨Tests.disabled, 0, 0, by decide +kernel⟩,
    ⟨Tests.setAll State.reset [(Fd.TNT_STATE_STATE, 5, 0)], 0, by decide +kernel⟩,
    ⟨Tests.configured, 0, 0, by decide +kernel⟩,
    ⟨Tests.served, 0, 0, by decide +kernel⟩,
    ⟨Tests.setAll Tests.served [(Fd.SG_CFG_VALID, 1, 0)], 0, 0, by decide +kernel⟩,
    ⟨Tests.served, by decide +kernel⟩,
    ⟨{ Tests.running (Tests.cmdOf 0x20 [] .ready) with syncAt := 8 }, by decide +kernel⟩⟩

/-- States and operands that meet the hypotheses of each clause of BandwidthEventsComplete. -/
theorem test_meets_BandwidthEventsComplete :
    (∃ (s : State) (host : HostId) (port : Fin 4) (req hpa now : Nat) (b : Bucket),
    portBlocked (s.at_ now) port.val (linkOn s host.val port.val) = false ∧ s.fld Fd.WHL_HOSTLIM_RATE host.val ≠ 0 ∧ b = (s.at_ now).bucketNow host.val) ∧
    (∃ (s : State) (host : HostId) (now req port : Nat) (b : Bucket) (rest : List (Nat × Nat)),
    b = (s.at_ now).bucketNow host.val ∧ b.held = (req, port) :: rest ∧ s.fld Fd.WHL_HOSTLIM_RATE host.val ≠ 0 ∧ 1000 ≤ b.milli) ∧
    (∃ (s : State) (mc : Fin 12) (arrivals : List Traffic) (now c code : Nat) (wheel : List Nat) (waiting : List SlotReq),
    wheelOf (s.at_ now) mc.val = code :: wheel ∧ (waiting = ((s.at_ now).wheel mc.val).waiting ++ arrivals.map (fun x => { cls := trafficClass s x, arrived := max s.dtime now })) ∧ slotUnserved (s.at_ now) mc.val (code :: wheel) (((s.at_ now).wheel mc.val).slot % (wheel.length + 1)) = false ∧ slotServes ((code :: wheel).getD (((s.at_ now).wheel mc.val).slot % (wheel.length + 1)) 0) waiting = some c) :=
  ⟨⟨Tests.limited, 0, 0, 4, 0, 5, { milli := 5, last := 5, held := [], emptyNs := 5, level := 0 }, by decide +kernel⟩,
    ⟨Tests.limited, 1, 1000, 4, 0, { milli := 1000, last := 1000, held := [(4, 0)], emptyNs := 1000, level := 0 }, [], by decide +kernel⟩,
    ⟨Tests.wheeled, 0, [.attention 0], 5, 0, 2, [], [{ cls := 0, arrived := 5 }], by decide +kernel⟩⟩

/-- States and operands that meet the hypotheses of each clause of PlainRegionRequestsComplete. -/
theorem test_meets_PlainRegionRequestsComplete :
    (∃ (s : State) (host : HostId) (addr e o : Nat) (r : LineReq),
    gate s host.val addr false = .ok ∧ dpaPlace (dpaExtents s.cacheSf) addr = .plain e o ∧ r = { host := some host.val, line := addr / 64, op := .readShared, started := false, awaits := [], cls := plainClass s host.val addr false } ∧ s.lineQ.all (fun x => x.line != addr / 64) = true ∧ snoopsFor s r = [] ∧ evictionFor s r = []) ∧
    (∃ (s : State) (host : HostId) (addr e o : Nat) (r : LineReq),
    gate s host.val addr false = .ok ∧ dpaPlace (dpaExtents s.cacheSf) addr = .plain e o ∧ r = { host := some host.val, line := addr / 64, op := .readExcl, started := false, awaits := [], cls := plainClass s host.val addr false } ∧ s.lineQ.all (fun x => x.line != addr / 64) = true ∧ snoopsFor s r = [] ∧ evictionFor s r = []) ∧
    (∃ (s : State) (host : HostId) (addr e o : Nat) (r : LineReq),
    gate s host.val addr false = .ok ∧ dpaPlace (dpaExtents s.cacheSf) addr = .plain e o ∧ r = { host := some host.val, line := addr / 64, op := .readCur, started := false, awaits := [], cls := plainClass s host.val addr false } ∧ s.lineQ.all (fun x => x.line != addr / 64) = true ∧ snoopsFor s r = [] ∧ evictionFor s r = []) ∧
    (∃ (s : State) (host : HostId) (addr e o : Nat) (bytes : List (Option Byte)) (r : LineReq),
    gate s host.val addr true = .ok ∧ dpaPlace (dpaExtents s.cacheSf) addr = .plain e o ∧ r = { host := some host.val, line := addr / 64, op := .write (lineImage addr bytes), started := false, awaits := [], cls := plainClass s host.val addr true } ∧ s.lineQ.all (fun x => x.line != addr / 64) = true ∧ snoopsFor s r = [] ∧ evictionFor s r = [] ∧ partFailed s = false) ∧
    (∃ (s : State) (host : HostId) (addr : Nat) (bytes : List Byte),
    ((s.sfLine (addr / 64)).bind fun e => e.excl) = some host.val ∧ gate s host.val addr true = .ok ∧ bytes.length = 64) ∧
    (∃ (s : State) (host : HostId) (line : Nat) (data : Option (List Byte)) (x : Snoop),
    s.snoops.find? (fun x => x.host == host.val && x.line == line) = some x) :=
  ⟨⟨Tests.planed (Tests.cmdOf 0x3F [] .ready), 0, 128, 0, 128, { host := some 0, line := 2, op := .readShared, started := false, awaits := [], cls := plainClass (Tests.planed (Tests.cmdOf 0x3F [] .ready)) 0 128 false }, by decide +kernel⟩,
    ⟨Tests.planed (Tests.cmdOf 0x3F [] .ready), 0, 128, 0, 128, { host := some 0, line := 2, op := .readExcl, started := false, awaits := [], cls := plainClass (Tests.planed (Tests.cmdOf 0x3F [] .ready)) 0 128 false }, by decide +kernel⟩,
    ⟨Tests.planed (Tests.cmdOf 0x3F [] .ready), 0, 128, 0, 128, { host := some 0, line := 2, op := .readCur, started := false, awaits := [], cls := plainClass (Tests.planed (Tests.cmdOf 0x3F [] .ready)) 0 128 false }, by decide +kernel⟩,
    ⟨Tests.planed (Tests.cmdOf 0x3F [] .ready), 0, 130, 0, 130, [some 7, none, some 8], { host := some 0, line := 2, op := .write (lineImage 130 [some 7, none, some 8]), started := false, awaits := [], cls := plainClass (Tests.planed (Tests.cmdOf 0x3F [] .ready)) 0 130 true }, by decide +kernel⟩,
    ⟨Tests.holding, 0, 128, List.replicate 64 9, by decide +kernel⟩,
    ⟨{ Tests.holding with snoops := [{ line := 2, host := 0, kind := .inv, uid := none }] }, 0, 2, none, { line := 2, host := 0, kind := .inv, uid := none }, by decide +kernel⟩⟩

/-- States and operands that meet the hypotheses of each clause of WindowAccessesComplete. -/
theorem test_meets_WindowAccessesComplete :
    (∃ (s : State) (host : HostId) (addr size t o slot layer byte h f : Nat) (c : Chunk) (p : Page) (x : Frame) (m : Memory) (z : Bool) (bs : List Byte),
    s.lostHosts.contains host.val = false ∧ hdmServes s = true ∧ dpaPlace (dpaExtents s.cacheSf) addr = .view t o ∧ backed s host.val addr = true ∧ (hrtLookup s host.val false addr false .other).isSome = true ∧ viewPlace s t o = .page slot layer byte ∧ viewTarget s t slot layer byte = some (h, c, p) ∧ (p.st ≠ .flash ∧ p.st ≠ .staging) ∧ p.mask = 0 ∧ (p.frame.bind fun f => (mapFind s.wake.frames f).map fun x => (f, x)) = some (f, x) ∧ x.body = .raw m z ∧ pageBytes s.wake c layer byte size = .data bs) ∧
    (∃ (s u : State) (host : HostId) (addr t o slot layer byte h : Nat) (bytes : List (Option Byte)) (picks : List Nat) (c : Chunk) (p : Page),
    s.lostHosts.contains host.val = false ∧ hdmServes s = true ∧ dpaPlace (dpaExtents s.cacheSf) addr = .view t o ∧ backed s host.val addr = true ∧ (hrtLookup s host.val false addr true .other).isSome = true ∧ viewPlace s t o = .page slot layer byte ∧ viewTarget s t slot layer byte = some (h, c, p) ∧ viewStoreWaits s t slot layer byte = false ∧ c.committed = false ∧ underCommit s h = none ∧ p.st ≠ .poisoned ∧ p.mask = 0 ∧ bytes.all (fun b => b.isNone) = false ∧ u = s.wake.putFrame (p.frame.getD 0) byte bytes ∧ writePage s.wake h layer byte bytes picks = .done u) ∧
    (∃ (s : State) (host : HostId) (addr t o slot : Nat) (v : Word),
    s.lostHosts.contains host.val = false ∧ hdmServes s = true ∧ dpaPlace (dpaExtents s.cacheSf) addr = .view t o ∧ backed s host.val addr = true ∧ (hrtLookup s host.val false addr true .other).isSome = true ∧ viewPlace s t o = .slotEntry slot ∧ o % 8 = 0) ∧
    (∃ (s : State) (t : TenantId) (v : Word),
    viewExtent s t.val = false ∧ (6 ≤ bitsOf v 5 1 ∧ bitsOf v 5 1 ≤ 16) ∧ bitsOf v 5 1 + cstrideLog (s.geo (s.profileOf t.val)) ≤ 41) ∧
    (∃ (s : State) (host : HostId) (addr g o : Nat) (bytes : List (Option Byte)) (x : Gateway),
    gate s host.val addr true = .ok ∧ gwTarget s addr = some (g, o) ∧ o < bellOffset s g ∧ s.fld Fd.GW_ST_STATE g = gwRun ∧ (s.gw g).held = [] ∧ gwStore (s.gw g) s.dtime o bytes = (x, true)) ∧
    (∃ (s : State) (host : HostId) (addr g : Nat) (v : Word),
    gate s host.val addr true = .ok ∧ gwTarget s addr = some (g, bellOffset s g) ∧ s.fld Fd.GW_ST_STATE g = gwRun) ∧
    (∃ (s : State) (g : Fin 64) (b : GwBell) (rest : List GwBell),
    (s.gw g.val).bells = b :: rest ∧ b.done = true) ∧
    (∃ (s : State) (g : Fin 64) (page now : Nat),
    ((s.at_ now).gw g.val).bufs.any (fun b => b.page == page && b.ship.isNone && decide (b.since + 1000 * (s.at_ now).fld Fd.GW_CTL_TMOUS g.val ≤ max s.dtime now)) = true) ∧
    (∃ (s : State) (host : HostId) (addr size : Nat),
    gate s host.val addr false = .ok) ∧
    (∃ (s : State) (g : Fin 64) (v : Word),
    s.flag Fd.GW_CTL_EN g.val = false ∧ bitsOf v 0 0 = 1 ∧ (s.setReg .GW_CTL g.val (writeFields [Fd.GW_CTL_TMOUS, Fd.GW_CTL_QP, Fd.GW_CTL_TENANT, Fd.GW_CTL_SIZELOG] (s.reg .GW_CTL g.val) v)).fld Fd.GW_CTL_TMOUS g.val ≠ 0 ∧ 28 ≤ (s.setReg .GW_CTL g.val (writeFields [Fd.GW_CTL_TMOUS, Fd.GW_CTL_QP, Fd.GW_CTL_TENANT, Fd.GW_CTL_SIZELOG] (s.reg .GW_CTL g.val) v)).fld Fd.GW_CTL_SIZELOG g.val ∧ (s.setReg .GW_CTL g.val (writeFields [Fd.GW_CTL_TMOUS, Fd.GW_CTL_QP, Fd.GW_CTL_TENANT, Fd.GW_CTL_SIZELOG] (s.reg .GW_CTL g.val) v)).fld Fd.GW_CTL_SIZELOG g.val ≤ 36) :=
  ⟨⟨Tests.viewing, 0, 0x100000000000, 4, 0, 0, 0, 0, 0, 0, 50331655, Tests.bastedRaw, Tests.pageRaw, Tests.frameRaw, [], false, [0, 0, 0, 0], by decide +kernel⟩,
    ⟨Tests.viewing, Tests.viewing.putFrame 50331655 0 [some 9], 0, 0x100000000000, 0, 0, 0, 0, 0, 0, [some 9], [], Tests.bastedRaw, Tests.pageRaw, by exact ⟨by decide +kernel, by decide +kernel, by decide +kernel, by decide +kernel, by decide +kernel, by decide +kernel, by decide +kernel, by decide +kernel, by decide +kernel, by decide +kernel, by decide +kernel, by decide +kernel, by decide +kernel, by decide +kernel, rfl⟩⟩,
    ⟨Tests.viewing, 0, 0x100000100000, 0, 0x100000, 0, 7, by decide +kernel⟩,
    ⟨Tests.served, 0, 13, by decide +kernel⟩,
    ⟨Tests.gated, 0, 0x080000000000, 0, 0, [some 7], (gwStore (Tests.gated.gw 0) 0 0 [some 7]).1, by decide +kernel⟩,
    ⟨Tests.gated, 0, 0x08000FFFFFC0, 0, 7, by decide +kernel⟩,
    ⟨{ Tests.gated with gws := [(0, { bufs := [], bells := [{ value := 1, before := 0, issued := true, done := true }], busy := [], held := [], next := 0 })] }, 0, { value := 1, before := 0, issued := true, done := true }, [], by decide +kernel⟩,
    ⟨{ Tests.gated with gws := [(0, { bufs := [{ page := 0, bytes := [some 7], since := 0, num := 0, ship := none }], bells := [], busy := [], held := [], next := 1 })] }, 0, 0, 5000, by decide +kernel⟩,
    ⟨Tests.gated, 0, 0x080000000000, 8, by decide +kernel⟩,
    ⟨Tests.served, 0, packWord [(0, 1), (Fd.GW_CTL_SIZELOG.lo, 28), (Fd.GW_CTL_TMOUS.lo, 5)], by decide +kernel⟩⟩

/-- States and operands that meet the hypotheses of each clause of CapacityAndHostEventsComplete. -/
theorem test_meets_CapacityAndHostEventsComplete :
    (∃ (s : State) (idx : Nat) (tag : Wide) (hosts : List Nat),
    addValid s 0 idx tag.toNat hosts = true ∧ s.extent 0 idx = none ∧ plainExtents s < s.fld Fd.CXL_PLAIN_PLMAX) ∧
    (∃ (s : State) (idx : Nat) (e : Extent),
    s.extent 0 idx = some e ∧ e.st = .adding ∧ extentRoom s = true) ∧
    (∃ (s : State) (idx now : Nat) (e : Extent),
    s.extent 0 idx = some e ∧ e.st = .adding ∧ e.since + 2000000000 ≤ max s.dtime now) ∧
    (∃ (s : State) (region : Fin 3) (idx : Nat) (host : HostId) (e : Extent),
    s.extent region.val idx = some e ∧ extentHeld s host.val region.val idx = true ∧ region.val ≠ 0) ∧
    (∃ (s : State) (idx : Nat) (e : Extent),
    s.extent 0 idx = some e ∧ e.st = .releasing ∧ extentBusy s idx = false ∧ extentHolders s idx = []) ∧
    (∃ (s : State) (link : Fin 8) (ds : List (Nat × HdmDecoder)),
    link.val % 2 = 0 ∧ portBif s (link.val / 2) = false ∧ (configHosts (s.reg .CXL_LINKCFG link.val)).any (fun h => decide (15 < h) || (((List.range 8).filter (· != link.val)).flatMap fun k => linkHosts s k).contains h) = false) ∧
    (∃ (s : State) (host : HostId),
    s.lostHosts.contains host.val = false) ∧
    (∃ (s : State),
    s.flag Fd.CXL_ORPH_SCAN = true) ∧
    (∃ (s : State) (v : Word) (r : OrphanRec),
    s.orphanLog[bitsOf v 15 0]? = some r) ∧
    (∃ (s : State) (host : HostId) (l : Nat),
    hostLink s host.val = some l ∧ directLink s l = false) :=
  ⟨⟨Tests.setAll Tests.served [(Fd.CXL_PLAIN_PLMAX, 4, 0)], 0, 0, [0], by decide +kernel⟩,
    ⟨{ Tests.served with extents := [(0, { hosts := [0], tag := 0, st := .adding, since := 0 })] }, 0, { hosts := [0], tag := 0, st := .adding, since := 0 }, by decide +kernel⟩,
    ⟨{ Tests.served with extents := [(0, { hosts := [0], tag := 0, st := .adding, since := 0 })] }, 0, 2000000000, { hosts := [0], tag := 0, st := .adding, since := 0 }, by decide +kernel⟩,
    ⟨Tests.viewing, 1, 0, 0, { hosts := [0], tag := 0, st := .added, since := 0 }, by decide +kernel⟩,
    ⟨{ Tests.served with extents := [(0, { hosts := [0], tag := 0, st := .releasing, since := 0 })] }, 0, { hosts := [0], tag := 0, st := .releasing, since := 0 }, by decide +kernel⟩,
    ⟨Tests.served, 0, [], by decide +kernel⟩,
    ⟨Tests.served, 0, by decide +kernel⟩,
    ⟨Tests.setAll Tests.served [(Fd.CXL_ORPH_SCAN, 1, 0)], by decide +kernel⟩,
    ⟨{ Tests.served with orphanLog := [{ line := 2, host := 0, dtime := 5 }] }, 0, { line := 2, host := 0, dtime := 5 }, by decide +kernel⟩,
    ⟨Tests.mld, 0, 0, by decide +kernel⟩⟩

/-- States and operands that meet the hypotheses of each clause of RegisterAccessesComplete. -/
theorem test_meets_RegisterAccessesComplete :
    (∃ (s : State) (wr : Bool) (host : HostId) (off : Fin 67108864) (size : Nat),
    bar0Stray s wr off.val size = true) ∧
    (∃ (s : State) (wr : Bool) (host : HostId) (off : Fin 67108864) (size : Nat) (e : Nat × Nat),
    windowLaidOut (off.val % 65536) = false ∧ hrtLookup s host.val true off.val wr .other = some e) ∧
    (∃ (s : State) (off : Nat) (k : RegKind) (i : Nat) (v : Word),
    bar0At off = .reg k i ∧ off % 8 = 0 ∧ bar0Takes s off = true) ∧
    (∃ (s : State) (off : Nat) (k : RegKind) (i : Nat) (v : Word),
    bar0At off = .reg k i ∧ bar0Takes s off = false ∧ off % 8 = 0) ∧
    (∃ (s : State) (off size : Nat) (v : Word),
    bar0At off = .debug ∧ debugOpen s = true) ∧
    (∃ (s : State) (off : Nat) (k : RegKind) (i : Nat),
    bar0At off = .reg k i ∧ off % 8 = 0) ∧
    (∃ (s : State) (v : Word),
    (bitsOf v 0 0 = 1 ∨ s.flag Fd.GLB_LOCK = true)) ∧
    (∃ (s : State) (v : Word),
    bitsOf v 0 0 = 1) ∧
    (∃ (s : State) (v : Word) (j : Nat),
    j < 4) :=
  ⟨⟨State.reset, false, 0, 0x1FFFF8, 8, by decide +kernel⟩,
    ⟨Tests.served, false, 0, 0x4400, 8, (0, 0), by decide +kernel⟩,
    ⟨Tests.served, 0x100008, .GLB_CFG, 0, 1, by decide +kernel⟩,
    ⟨State.reset, 0x200000, .PAT_STATUS, 0, 1, by decide +kernel⟩,
    ⟨State.reset, 0x3F00000, 8, 0, by decide +kernel⟩,
    ⟨Tests.served, 0x100000, .GLB, 0, by decide +kernel⟩,
    ⟨State.reset, 1, by decide +kernel⟩,
    ⟨State.reset, 1, by decide +kernel⟩,
    ⟨State.reset, 0, 3, by decide +kernel⟩⟩

/-- States and operands that meet the hypotheses of each clause of PatternRowsComplete. -/
theorem test_meets_PatternRowsComplete :
    (∃ (s : State) (fn : Fin 17) (word0 word1 : Word) (data : List Byte),
    mbRefusal s fn.val false false false = none ∧ bitsOf word0 63 32 ≤ data.length ∧ word1.toNat + bitsOf word0 63 32 ≤ stageBytes) ∧
    (∃ (s : State) (fn : Fin 17) (word0 word1 : Word) (data : List Byte),
    mbRefusal s fn.val false false false = none ∧ bitsOf word0 63 32 ≤ data.length ∧ word1.toNat + bitsOf word0 63 32 ≤ stageBytes) ∧
    (∃ (s : State) (fn : Fin 17) (word0 : Word),
    mbRefusal s fn.val false false false = none) ∧
    (∃ (s : State) (fn : Fin 17) (word0 : Word),
    mbRefusal s fn.val false false false = none) ∧
    (∃ (s : State) (fn : Fin 17) (word0 : Word),
    mbRefusal s fn.val false false false = none) ∧
    (∃ (s : State) (fn : Fin 17) (word0 : Word),
    mbRefusal s fn.val false false false = none) ∧
    (∃ (s : State) (l : LoadRun),
    s.load = some l ∧ l.swap = false ∧ l.phase = .programming) ∧
    (∃ (s : State) (l : LoadRun),
    s.load = some l ∧ l.swap = false ∧ l.phase = .programming) ∧
    (∃ (s : State) (l : LoadRun),
    s.load = some l ∧ l.swap = true ∧ l.phase = .programming) ∧
    (∃ (s : State) (l : LoadRun),
    s.load = some l ∧ l.swap = true ∧ l.phase = .programming) ∧
    (∃ (s : State) (p : Pattern),
    s.pattern = some p ∧ s.flag Fd.PAT_STATUS_PERSISTED = false ∧ s.load = none) :=
  ⟨⟨Tests.served, 16, 0x200000000, 0, [1, 2], by decide +kernel⟩,
    ⟨Tests.served, 16, 0x200000000, 0, [1, 2], by decide +kernel⟩,
    ⟨Tests.served, 16, 0, by decide +kernel⟩,
    ⟨Tests.served, 16, 0, by decide +kernel⟩,
    ⟨Tests.served, 16, 0, by decide +kernel⟩,
    ⟨Tests.served, 16, 0, by decide +kernel⟩,
    ⟨{ Tests.served with load := some Tests.load0 }, Tests.load0, by decide +kernel⟩,
    ⟨{ Tests.served with load := some Tests.load0 }, Tests.load0, by decide +kernel⟩,
    ⟨{ Tests.served with load := some { Tests.load0 with swap := true } }, { Tests.load0 with swap := true }, by decide +kernel⟩,
    ⟨{ Tests.served with load := some { Tests.load0 with swap := true } }, { Tests.load0 with swap := true }, by decide +kernel⟩,
    ⟨{ Tests.served with pattern := some Tests.pattern0 }, Tests.pattern0, by decide +kernel⟩⟩

/-- States and operands that meet the hypotheses of each clause of RingLinkAndCascadeEventsComplete. -/
theorem test_meets_RingLinkAndCascadeEventsComplete :
    (∃ (s : State) (uid q : Nat) (c d : Cmd) (sq : Seq) (w : AttWork),
    s.ready uid Oc.ringAttend = some c ∧ c.cancel = none ∧ c.work = .ready ∧ attFieldFault s c = none ∧ ringCtxOk s c = true ∧ memMaskOk s c = true ∧ ((ringWorks s (ctxNamed c)).any fun k => ringTag k == ringTag c) = false ∧ (ringWorks s (ctxNamed c)).length < 16 ∧ fieldOf c.words 4 21 0 = q ∧ s.ownSeq c.tenant q = some sq ∧ (s.attAccess (s.hostOf c.tenant) ((attRanges s c).1.map (fun x => (x.1, x.2, false)) ++ (attRanges s c).2.map fun x => (x.1, x.2, true))).isNone = true ∧ (attSeq s c q 0 (seqExtent s sq) (ringQ0 c)).failed = none ∧ (s.attBegin c [attSeq s c q 0 (seqExtent s sq) (ringQ0 c)]).cmd uid = some d ∧ d.attWork = some w) ∧
    (∃ (s : State) (uid : Nat) (c : Cmd),
    s.ready uid Oc.fence = some c ∧ c.cancel = none ∧ ctxState s (ctxNamed c) = ctxOpen ∧ s.fld Fd.SNL_CTX_CTL_MODE (ctxNamed c) = 0 ∧ s.fld Fd.SNL_CTX_CTL_TENANT (ctxNamed c) = c.tenant ∧ fenceMet s (ctxNamed c) (fieldOf c.words 1 63 32) = true) ∧
    (∃ (s : State) (v : Word),
    s.flag Fd.SNL_CFG_EN = false) ∧
    (∃ (s : State) (v : Word),
    s.flag Fd.SNL_CFG_EN = true) ∧
    (∃ (s u : State) (link : Fin 2) (width : Fin 3) (id : BitVec 16) (pos nmem : Fin 16),
    s.fld Fd.SNL_LINK_STATE link.val = linkTraining ∧ width.val ≠ 0 ∧ u = s.setReg .SNL_LINK link.val (packWord [(12, pos.val), (3, width.val), (0, linkUp)]) ∧ handshakeCause u link.val id.toNat pos.val nmem.val true = 0) ∧
    (∃ (s : State) (link : Fin 2),
    s.fld Fd.SNL_LINK_STATE link.val = linkUp ∧ s.fld Fd.SNL_RING_STATE = ringFormed) ∧
    (∃ (s : State) (link : Fin 2) (frame : List Byte),
    s.fld Fd.SNL_LINK_STATE link.val = linkUp ∧ frameOk frame = true ∧ frameType frame = 1 ∧ frameSeq frame = (s.rlink link.val).rxNext) ∧
    (∃ (s : State) (link : Fin 2) (frame : List Byte),
    s.fld Fd.SNL_LINK_STATE link.val = linkUp ∧ frameOk frame = false) ∧
    (∃ (s u : State) (link : Fin 2) (frame : List Byte) (credits : List Nat),
    s.fld Fd.SNL_LINK_STATE link.val = linkUp ∧ frameOk frame = true ∧ frameType frame = 2 ∧ u = s.ringAcked link.val (frameAck frame)) ∧
    (∃ (s : State) (src last : Fin 16),
    src.val = ringPos s ∧ (last.val + 1) % ringN s = ringPos s ∧ s.fld Fd.SNL_RING_STATE = ringForming ∧ linksPassed s = true) ∧
    (∃ (s : State) (src last : Fin 16) (ok : Bool),
    src.val ≠ ringPos s) ∧
    (∃ (s : State) (src cpos : Fin 16) (uid : Nat) (word : List Word),
    src.val ≠ ringPos s) ∧
    (∃ (s : State) (link : Fin 2) (dst : Fin 16) (uid : Nat) (pos : Fin 16) (handle : Fin 16777216),
    dst.val = ringPos s ∧ (s.camReqs.any fun r => ownSearch s r && r.uid == uid) = true) ∧
    (∃ (s : State) (slot h : Nat) (r : CamReq),
    ((s.at_ (128 * slot)).camReqs.find? fun r => r.cpos == slotOwner (s.at_ (128 * slot)) slot && !r.done && decide (r.sentAt + 1000 ≤ 128 * slot)) = some r ∧ ownSearch s r = false ∧ camMatch (s.at_ (128 * slot)) r.word = some h) ∧
    (∃ (s : State) (uid : Nat),
    (s.camReqs.any fun r => ownSearch s r && r.uid == uid && (r.done || !s.flag Fd.SNL_CASC_CASCOK)) = true) :=
  ⟨⟨Tests.ringing, 7, 0, Tests.ringCmd, Tests.ringBegun, { tenant := 0, chain := [0] }, { seqs := [Tests.ringSeq], taken := none, waited := false, layer := 0 }, by decide +kernel⟩,
    ⟨Tests.setAll (Tests.running Tests.fenceCmd) [(Fd.SNL_CTX_ST_STATE, 1, 0)], 7, Tests.fenceCmd, by decide +kernel⟩,
    ⟨Tests.served, 0x10002, by decide +kernel⟩,
    ⟨Tests.setAll Tests.served [(Fd.SNL_CFG_EN, 1, 0)], 0, by decide +kernel⟩,
    ⟨Tests.setAll Tests.served [(Fd.SNL_LINK_STATE, 1, 0), (Fd.SNL_CFG_NMEM, 1, 0)], (Tests.setAll Tests.served [(Fd.SNL_LINK_STATE, 1, 0), (Fd.SNL_CFG_NMEM, 1, 0)]).setReg .SNL_LINK 0 (packWord [(12, 1), (3, 2), (0, linkUp)]), 0, 2, 0, 1, 1, by refine ⟨by decide +kernel, by decide, rfl, by decide +kernel⟩⟩,
    ⟨Tests.setAll Tests.served [(Fd.SNL_LINK_STATE, 2, 0), (Fd.SNL_RING_STATE, 2, 0)], 0, by decide +kernel⟩,
    ⟨Tests.setAll Tests.served [(Fd.SNL_LINK_STATE, 2, 0)], 0, ringFrame 0 4095 1 [], by decide +kernel⟩,
    ⟨Tests.setAll Tests.served [(Fd.SNL_LINK_STATE, 2, 0)], 0, (ringFrame 0 4095 1 []).set 20 1, by decide +kernel⟩,
    ⟨Tests.setAll Tests.served [(Fd.SNL_LINK_STATE, 2, 0)], (Tests.setAll Tests.served [(Fd.SNL_LINK_STATE, 2, 0)]).ringAcked 0 5, 0, ringFrame 0 5 2 [], [1, 2, 3], by refine ⟨by decide +kernel, by decide +kernel, by decide +kernel, by decide +kernel⟩⟩,
    ⟨{ Tests.setAll Tests.served [(Fd.SNL_LINK_STATE, 2, 0), (Fd.SNL_LINK_STATE, 2, 1), (Fd.SNL_RING_STATE, 1, 0), (Fd.SNL_CFG_NMEM, 1, 0)] with rlinks := List.replicate 2 { rxNext := 0, txNext := 0, sent := [], credits := [0, 0, 0], replayAt := 0, replays := 0, cable := true, passed := true } }, 0, 1, by decide +kernel⟩,
    ⟨Tests.served, 1, 1, true, by decide +kernel⟩,
    ⟨Tests.served, 1, 1, 3, [0, 0], by decide +kernel⟩,
    ⟨{ Tests.served with camReqs := [{ src := 0, cpos := 0, uid := 7, word := [], sentAt := 0, done := false }] }, 0, 0, 7, 1, 5, by decide +kernel⟩,
    ⟨Tests.setAll Tests.searching [(Fd.CAM_CFG_NMEM, 1, 0)], 9, 4, { src := 1, cpos := 1, uid := 3, word := camWord false Tests.node.key 0 0 0 0 0 1, sentAt := 0, done := false }, by decide +kernel⟩,
    ⟨{ Tests.served with camReqs := [{ src := 0, cpos := 0, uid := 7, word := [], sentAt := 0, done := true }] }, 7, by decide +kernel⟩⟩

/-- States and operands that meet the hypotheses of each clause of RingContextsAndMessagesComplete. -/
theorem test_meets_RingContextsAndMessagesComplete :
    (∃ (s u : State) (link : Fin 2) (m : RingMsg),
    m.dst = ringPos s ∧ u = { s.wake with nextUid := s.nextUid + 1 } ∧ ctxState u m.ctx = ctxOpen ∧ u.fld Fd.SNL_CTX_CTL_MODE m.ctx = 0 ∧ rangeBacked u (u.hostOf (u.fld Fd.SNL_CTX_CTL_TENANT m.ctx)) m.addr m.len = true ∧ rangeDenied u (u.hostOf (u.fld Fd.SNL_CTX_CTL_TENANT m.ctx)) m.addr m.len false = none ∧ (u.coherentJob (jobBase + s.nextUid) [(m.addr, m.len)] []).2 = true ∧ badLines u m.addr m.len = []) ∧
    (∃ (s u : State) (link : Fin 2) (m : RingMsg) (d : RingDesc),
    m.dst = ringPos s ∧ u = { s.wake with nextUid := s.nextUid + 1 } ∧ awaited u m = some d ∧ m.data ≠ [] ∧ (u.coherentJob (jobBase + s.nextUid) [] [(d.laddr + 64 * m.off, m.data.length)]).2 = true) ∧
    (∃ (s u : State) (link : Fin 2) (m : RingMsg),
    m.dst = ringPos s ∧ u = { s.wake with nextUid := s.nextUid + 1 } ∧ ctxState u m.ctx = ctxOpen ∧ u.fld Fd.SNL_CTX_CTL_MODE m.ctx = 0 ∧ rangeBacked u (u.hostOf (u.fld Fd.SNL_CTX_CTL_TENANT m.ctx)) m.addr m.data.length = true ∧ rangeDenied u (u.hostOf (u.fld Fd.SNL_CTX_CTL_TENANT m.ctx)) m.addr m.data.length true = none ∧ (u.coherentJob (jobBase + s.nextUid) [] [(m.addr, m.data.length)]).2 = true) ∧
    (∃ (s u : State) (link : Fin 2) (m : RingMsg),
    m.dst = ringPos s ∧ u = { s.wake with nextUid := s.nextUid + 1 } ∧ ctxState u m.ctx = ctxOpen ∧ u.fld Fd.SNL_CTX_CTL_MODE m.ctx = 0 ∧ m.rtype ≤ 4 ∧ rangeBacked u (u.hostOf (u.fld Fd.SNL_CTX_CTL_TENANT m.ctx)) m.addr m.data.length = true ∧ rangeDenied u (u.hostOf (u.fld Fd.SNL_CTX_CTL_TENANT m.ctx)) m.addr m.data.length true = none ∧ (u.coherentJob (jobBase + s.nextUid) [] [(m.addr, m.data.length)]).2 = true) ∧
    (∃ (s u : State) (link : Fin 2) (m : RingMsg) (d : RingDesc),
    m.dst = ringPos s ∧ u = { s.wake with nextUid := s.nextUid + 1 } ∧ awaited u m = some d) ∧
    (∃ (s : State) (link : Fin 2) (dst : Fin 16) (h : RattHdr),
    dst.val = ringPos s ∧ ctxState s h.ctx = ctxOpen ∧ s.fld Fd.SNL_CTX_CTL_MODE h.ctx = 1 ∧ (ringWorks (s.setRctx h.ctx { s.rctxOf h.ctx with hdrs := ((s.rctxOf h.ctx).hdrs.filter fun y => !(y.rtag == h.rtag && y.src == h.src)) ++ [h] }) h.ctx).find? (fun k => ringTag k == h.rtag) = none) ∧
    (∃ (s : State) (link : Fin 2) (b : RattBlock),
    ctxState s b.ctx = ctxOpen ∧ ((ringWorks s b.ctx).find? fun k => ringTag k == b.rtag).isSome = true ∧ hopsBeyond s link.val b.origin = []) ∧
    (∃ (s : State) (ctx : Fin 256) (v : Word),
    openError (s.ctxFields ctx.val v) ctx.val = 0) ∧
    (∃ (s : State) (ctx : Fin 256) (v : Word),
    ctxState s ctx.val = ctxOpen) ∧
    (∃ (s : State) (ctx : Fin 256),
    ctxState s ctx.val = ctxAborting ∧ ctxOutstanding s ctx.val = 0) ∧
    (∃ (s : State) (ctx : Fin 256) (v : Word),
    ctxState s ctx.val = ctxOpen ∧ ctxOutstanding s ctx.val = 0) ∧
    (∃ (s : State) (host : HostId) (ctx : Fin 256) (v : Word) (e o : Nat) (r : LineReq),
    gate s host.val (tailAddr s ctx.val) true = .ok ∧ dpaPlace (dpaExtents s.cacheSf) (tailAddr s ctx.val) = .plain e o ∧ r = { host := some host.val, line := tailAddr s ctx.val / 64, op := .write (lineImage (tailAddr s ctx.val) ((leBytes 8 v.toNat).map some)), started := false, awaits := [], cls := plainClass s host.val (tailAddr s ctx.val) true } ∧ s.lineQ.all (fun x => x.line != tailAddr s ctx.val / 64) = true ∧ snoopsFor s r = [] ∧ evictionFor s r = []) ∧
    (∃ (s u : State) (ctx : Fin 256) (a : Nat) (d : RingDesc),
    takeReady s ctx.val = true ∧ a = slotAddr s ctx.val (s.fld Fd.SNL_CTX_ST_TAKEN ctx.val) ∧ u = s.wake ∧ (u.coherentFor (ctxJob ctx.val) ((mapFind u.curLog (ctxJob ctx.val)).getD []) [(a, 64)] []).2 = true ∧ d = descOfBytes (u.plainBytes a 64) (s.fld Fd.SNL_CTX_ST_TAKEN ctx.val) u.dtime ∧ linePoison u (a / 64) = false ∧ descOk u ctx.val d = true ∧ rangeBacked u (u.hostOf (u.fld Fd.SNL_CTX_CTL_TENANT ctx.val)) d.laddr d.len = true ∧ rangeDenied u (u.hostOf (u.fld Fd.SNL_CTX_CTL_TENANT ctx.val)) d.laddr d.len (d.op == 1) = none ∧ (u.coherentJob (ctxJob ctx.val) ((a, 64) :: if d.op = 1 then [] else [(d.laddr, d.len)]) []).2 = true ∧ (d.op != 1 && rangePoison u d.laddr d.len) = false) ∧
    (∃ (s : State) (ctx : Fin 256) (idx : BitVec 32) (d : RingDesc),
    ((s.rctxOf ctx.val).descs.find? fun d => d.idx == idx.toNat && d.left.isEmpty) = some d ∧ (s.coherentJob (ctxJob (256 + ctx.val)) [] [(slotAddr s ctx.val idx.toNat + 24, 8)]).2 = true) :=
  ⟨⟨Tests.exchanging, { Tests.exchanging.wake with nextUid := Tests.exchanging.nextUid + 1 }, 0, Tests.msg0, by decide +kernel⟩,
    ⟨Tests.getting, { Tests.getting.wake with nextUid := Tests.getting.nextUid + 1 }, 0, Tests.msg0, Tests.desc0, by decide +kernel⟩,
    ⟨Tests.exchanging, { Tests.exchanging.wake with nextUid := Tests.exchanging.nextUid + 1 }, 0, Tests.msg0, by decide +kernel⟩,
    ⟨Tests.exchanging, { Tests.exchanging.wake with nextUid := Tests.exchanging.nextUid + 1 }, 0, Tests.msg0, by decide +kernel⟩,
    ⟨Tests.getting, { Tests.getting.wake with nextUid := Tests.getting.nextUid + 1 }, 0, Tests.msg0, Tests.desc0, by decide +kernel⟩,
    ⟨Tests.ringing, 0, 0, Tests.hdr0, by decide +kernel⟩,
    ⟨{ Tests.ringing with inflight := [{ Tests.ringCmd with work := .ring { seqs := [], taken := none, waited := false, layer := 0 } true true }] }, 0, Tests.block0, by decide +kernel⟩,
    ⟨Tests.setAll (Tests.planed Tests.fenceCmd) [(Fd.SNL_CFG_NMEM, 1, 0), (Fd.SNL_CTX_DL_DLLOG, 6, 1)], 1, packWord [(32, 2)], by decide +kernel⟩,
    ⟨Tests.ringing, 0, 0, by decide +kernel⟩,
    ⟨Tests.setAll Tests.served [(Fd.SNL_CTX_ST_STATE, 2, 0)], 0, by decide +kernel⟩,
    ⟨Tests.setAll Tests.served [(Fd.SNL_CTX_ST_STATE, 1, 0)], 0, 0, by decide +kernel⟩,
    ⟨Tests.exchanging, 0, 0, 1, 0, 0, { host := some 0, line := 0, op := .write (lineImage 0 ((leBytes 8 1).map some)), started := false, awaits := [], cls := plainClass Tests.exchanging 0 0 true }, by decide +kernel⟩,
    ⟨Tests.tailed, Tests.tailed.wake, 0, 4096, descOfBytes (Tests.tailed.wake.plainBytes 4096 64) (Tests.tailed.fld Fd.SNL_CTX_ST_TAKEN (0 : Fin 256).val) Tests.tailed.wake.dtime, by refine ⟨by decide +kernel, by decide +kernel, rfl, by decide +kernel, rfl, by decide +kernel⟩⟩,
    ⟨{ Tests.exchanging with rctx := [(0, { descs := [{ Tests.desc0 with left := [] }], hdrs := [], blocks := [], why := 0 })] }, 0, 0, { Tests.desc0 with left := [] }, by decide +kernel⟩⟩

/-- States and operands that meet the hypotheses of each clause of ShuttlePortAndQueuePairActionsComplete. -/
theorem test_meets_ShuttlePortAndQueuePairActionsComplete :
    (∃ (s : State) (port : Fin 2) (target : BitVec 32),
    portOn s port.val = true ∧ target.toNat = s.fld Fd.SHT_IP4_IP4 port.val) ∧
    (∃ (s : State) (port : Fin 2) (target : Wide),
    portOn s port.val = true ∧ target.toNat = portIp6 s port.val) ∧
    (∃ (s : State) (port : Fin 2) (v6 : Bool) (dst : Wide) (bs : List Byte),
    portOn s port.val = true ∧ dst.toNat = (if v6 then portIp6 s port.val else s.fld Fd.SHT_IP4_IP4 port.val)) ∧
    (∃ (s : State) (port : Fin 2) (en : BitVec 8) (quanta : List Nat),
    portOn s port.val = true ∧ s.flag Fd.SHT_PORT_PFCRX port.val = true ∧ bitAt en.toNat (s.fld Fd.SHT_PORT_PCP port.val) = true) ∧
    (∃ (s : State) (q : Fin 65536) (j : Nat),
    j < 8) ∧
    (∃ (s : State) (q : Fin 65536),
    (s.qp q.val).st = qpFree) ∧
    (∃ (s : State) (q : Fin 65536),
    activateError s q.val = 0) ∧
    (∃ (s : State) (q : Fin 65536),
    (s.qp q.val).st = qpReady) ∧
    (∃ (s : State) (q : Fin 65536),
    (s.qp q.val).st = qpError) ∧
    (∃ (s : State) (host : HostId) (q : Fin 65536) (word : Fin 3) (v : Word) (e o : Nat) (r : LineReq),
    (s.qp q.val).st = qpReady ∧ gate s host.val ((s.qp q.val).base 7 + 8 * word.val) true = .ok ∧ dpaPlace (dpaExtents s.cacheSf) ((s.qp q.val).base 7 + 8 * word.val) = .plain e o ∧ r = { host := some host.val, line := ((s.qp q.val).base 7 + 8 * word.val) / 64, op := .write (lineImage ((s.qp q.val).base 7 + 8 * word.val) ((leBytes 8 v.toNat).map some)), started := false, awaits := [], cls := plainClass s host.val ((s.qp q.val).base 7 + 8 * word.val) true } ∧ s.lineQ.all (fun x => x.line != ((s.qp q.val).base 7 + 8 * word.val) / 64) = true ∧ snoopsFor s r = [] ∧ evictionFor s r = []) ∧
    (∃ (s : State) (q : Fin 65536),
    (s.qp q.val).st = qpReady ∧ 0 < (s.qp q.val).unanswered) ∧
    (∃ (s : State) (q : Fin 65536),
    (s.qp q.val).st = qpReady ∧ (s.qp q.val).sent ≠ [] ∧ (s.qp q.val).stalled = false ∧ shQuiet s = false ∧ (s.qp q.val).retry < 7) ∧
    (∃ (s : State) (q : Fin 65536) (psn : Fin 16777216) (e : QpSent),
    ((s.qp q.val).sent.find? fun e => e.pkt.psn == psn.val && e.waiting) = some e ∧ (s.qp q.val).st = qpReady ∧ (s.qp q.val).stalled = false ∧ shQuiet s = false) ∧
    (∃ (s : State) (q : Fin 65536) (psn : Fin 16777216) (e : QpSent),
    ((s.qp q.val).sent.find? fun e => e.pkt.psn == psn.val && e.waiting) = some e ∧ (s.qp q.val).st = qpReady ∧ (s.qp q.val).stalled = false ∧ shQuiet s = false) ∧
    (∃ (s : State) (q : Fin 65536) (psn : Fin 16777216) (p : ShPkt),
    ((s.qp q.val).held.find? fun p => p.psn == psn.val && p.typ == 1) = some p ∧ (s.qp q.val).ats = true ∧ (s.qp q.val).st = qpReady ∧ (mapFind (s.qp q.val).faultNaks psn.val).getD 0 < 63) ∧
    (∃ (s : State) (q : Fin 65536) (hm : HostMem) (w : QpWr),
    (s.qp q.val).st = qpReady ∧ (s.qp q.val).stalled = true ∧ (s.qp q.val).wrs.getLast? = some w) ∧
    (∃ (s : State) (q : Fin 65536) (msn : Fin 16777216) (r : QpRecv),
    ((s.qp q.val).recvs.find? fun r => r.msn == msn.val) = some r ∧ (s.qp q.val).st = qpReady ∧ r.got.length = max 1 (ceilDiv r.tlen (s.qp q.val).mtu) ∧ r.kind = 0) ∧
    (∃ (s : State) (q : Fin 65536) (c : QpComp) (rest : List QpComp),
    (s.qp q.val).comps = c :: rest ∧ (s.qp q.val).st = qpReady ∧ idxSub (s.qp q.val).cqTail (ctrlWord s (s.qp q.val) 2) < (s.qp q.val).slots 7) :=
  ⟨⟨Tests.paired Tests.qp0 [], 0, 0x0A000001, by decide +kernel⟩,
    ⟨Tests.paired Tests.qp0 [], 0, 7, by decide +kernel⟩,
    ⟨Tests.paired Tests.qp0 [], 0, true, 7, [1], by decide +kernel⟩,
    ⟨Tests.paired Tests.qp0 [], 0, 255, [9, 9, 9, 9, 9, 9, 9, 9], by decide +kernel⟩,
    ⟨State.reset, 3, 7, by decide +kernel⟩,
    ⟨State.reset, 3, by decide +kernel⟩,
    ⟨Tests.paired { Tests.qp0 with st := 0 } [], 3, by decide +kernel⟩,
    ⟨Tests.paired Tests.qp0 [], 3, by decide +kernel⟩,
    ⟨Tests.paired { Tests.qp0 with st := 2 } [], 3, by decide +kernel⟩,
    ⟨Tests.paired Tests.qp0 [], 0, 3, 1, 5, 0, 12296, { host := some 0, line := 192, op := .write (lineImage 12296 ((leBytes 8 5).map some)), started := false, awaits := [], cls := plainClass (Tests.paired Tests.qp0 []) 0 12296 true }, by decide +kernel⟩,
    ⟨Tests.paired { Tests.qp0 with unanswered := 1 } [], 3, by decide +kernel⟩,
    ⟨Tests.paired { Tests.qp0 with sent := [Tests.sentPut] } [], 3, by decide +kernel⟩,
    ⟨Tests.paired { Tests.qp0 with sent := [Tests.sentPut] } [], 3, 0, Tests.sentPut, by decide +kernel⟩,
    ⟨Tests.paired { Tests.qp0 with sent := [Tests.sentPut] } [], 3, 0, Tests.sentPut, by decide +kernel⟩,
    ⟨Tests.paired { Tests.qp0 with ctx := Tests.qpCtx.set 2 (packWord [(44, 1)]), held := [{ Tests.sentPut.pkt with typ := 1 }] } [], 3, 0, { Tests.sentPut.pkt with typ := 1 }, by decide +kernel⟩,
    ⟨Tests.paired { Tests.qp0 with stalled := true, wrs := [Tests.wrPut0] } [], 3, [], Tests.wrPut0, by decide +kernel⟩,
    ⟨Tests.paired { Tests.qp0 with recvs := [{ msn := 0, addr := 0, kind := 0, wrid := 4, tlen := 0, got := [0] }] } [], 3, 0, { msn := 0, addr := 0, kind := 0, wrid := 4, tlen := 0, got := [0] }, by decide +kernel⟩,
    ⟨Tests.paired { Tests.qp0 with comps := [{ status := 0, op := 1, msn := 0, wrid := 4, result := 0 }] } [], 3, { status := 0, op := 1, msn := 0, wrid := 4, result := 0 }, [], by decide +kernel⟩⟩

/-- States and operands that meet the hypotheses of each clause of WorkRequestsAndPacketsComplete. -/
theorem test_meets_WorkRequestsAndPacketsComplete :
    (∃ (s v u : State) (q : Fin 65536) (w : QpWr) (hm : HostMem) (fault : Bool) (bs : List Byte),
    WrTaken s q.val w v ∧ w.op = 1 ∧ wrValid (v.qp q.val) w = true ∧ v.wrSource q.val w hm fault = (u, .data bs)) ∧
    (∃ (s v u : State) (q : Fin 65536) (w : QpWr) (hm : HostMem) (fault : Bool) (bs : List Byte),
    WrTaken s q.val w v ∧ w.op = 2 ∧ wrValid (v.qp q.val) w = true ∧ v.wrSource q.val w hm fault = (u, .data bs)) ∧
    (∃ (s v : State) (q : Fin 65536) (w : QpWr),
    WrTaken s q.val w v ∧ w.op = 3 ∧ wrValid (v.qp q.val) w = true) ∧
    (∃ (s v : State) (q : Fin 65536) (w : QpWr),
    WrTaken s q.val w v ∧ w.op = 4 ∧ wrValid (v.qp q.val) w = true) ∧
    (∃ (s v u : State) (q : Fin 65536) (w : QpWr) (hm : HostMem) (fault : Bool) (bs : List Byte),
    WrTaken s q.val w v ∧ w.op = 5 ∧ wrValid (v.qp q.val) w = true ∧ v.wrSource q.val w hm fault = (u, .data bs)) ∧
    (∃ (s v : State) (q : Fin 65536) (w : QpWr),
    WrTaken s q.val w v ∧ w.op = 6 ∧ wrValid (v.qp q.val) w = true) ∧
    (∃ (s v : State) (q : Fin 65536) (w : QpWr),
    WrTaken s q.val w v ∧ w.op = 7 ∧ wrValid (v.qp q.val) w = true) ∧
    (∃ (s : State) (q : Fin 65536) (w : QpWr) (hm : HostMem) (fault : Bool) (src : List (Nat × Nat)),
    ((s.qp q.val).wrs.find? fun w => w.waits.isSome) = some w ∧ (s.qp q.val).st = qpReady ∧ shQuiet s = false ∧ waitMet s w = true ∧ src = (if rangeBacked s ((s.qp q.val).host s) w.laddr (max 1 w.len) then wrLines w else []) ∧ (s.coherentJob (shJob q.val) src []).2 = true) ∧
    (∃ (s u v : State) (port : Fin 2) (src : Wide) (udp : ShWire) (fault : Bool) (p d : ShPkt) (r : QpRecv),
    FreshPacket s port src udp { p with typ := 1 } u d ∧ (u.coherentJob (rxJob d.dqpn) [((u.qp d.dqpn).base 6 + 32 * (d.seq % (u.qp d.dqpn).slots 6), 32)] []).2 = true ∧ (u.coherentJob (rxJob d.dqpn) [((u.qp d.dqpn).base 6 + 32 * (d.seq % (u.qp d.dqpn).slots 6), 32)] []).1.bindRecv d.dqpn d = (v, some r) ∧ r.kind = 1) ∧
    (∃ (s u : State) (port : Fin 2) (src : Wide) (udp : ShWire) (p d : ShPkt),
    FreshPacket s port src udp { p with typ := 2 } u d ∧ (u.shTarget d.dqpn d.raddr (max 1 d.payload.length) false true).2 = true) ∧
    (∃ (s u : State) (port : Fin 2) (src : Wide) (udp : ShWire) (p d : ShPkt) (old new : Nat),
    FreshPacket s port src udp { p with typ := 3 } u d ∧ nmoOk d = true ∧ d.op = 2 ∧ (u.shTarget d.dqpn d.raddr 8 true true).2 = true ∧ (u.coherentJob (rxJob d.dqpn) [] [(d.raddr, 8)]).2 = true ∧ rangePoison u d.raddr 8 = false ∧ old = ofLE (u.plainBytes d.raddr 8) ∧ new = (old + ofLE (d.payload.take 8)) % 2 ^ 64 ∧ new ≠ old) ∧
    (∃ (s u : State) (port : Fin 2) (src : Wide) (udp : ShWire) (p : ShPkt),
    (s.shReceive port.val src.toNat udp { p with typ := 5 }).2 = true ∧ psnPlace (s.wake.qp p.dqpn) p.psn = .fresh ∧ u = s.wake.addFld Fd.SHT_CNT0_RXPKT 1) ∧
    (∃ (s : State) (port : Fin 2) (src : Wide) (udp : ShWire) (p : ShPkt),
    (s.shReceive port.val src.toNat udp { p with typ := 7 }).2 = true) ∧
    (∃ (s u : State) (port : Fin 2) (src : Wide) (udp : ShWire) (p d : ShPkt) (w : QpWr),
    (s.shReceive port.val src.toNat udp { p with typ := 4 }).2 = true ∧ d = s.wake.unseal { p with typ := 4 } ∧ u = s.wake.addFld Fd.SHT_CNT0_RXPKT 1 ∧ (ownerWr (u.qp d.dqpn) d.psn).filter (fun w => w.nsn.isSome) = some w ∧ d.code = 0) ∧
    (∃ (s u : State) (port : Fin 2) (src : Wide) (udp : ShWire) (p : ShPkt) (w : QpWr),
    (s.shReceive port.val src.toNat udp { p with typ := 6 }).2 = true ∧ u = s.wake.addFld Fd.SHT_CNT0_RXPKT 1 ∧ (ownerWr (u.qp p.dqpn) p.psn).filter (fun w => w.op == 6) = some w ∧ p.code = 0) ∧
    (∃ (s u : State) (port : Fin 2) (src : Wide) (udp : ShWire) (p : ShPkt) (e : QpSent),
    (s.shReceive port.val src.toNat udp { p with typ := 8 }).2 = true ∧ u = (s.wake.addFld Fd.SHT_CNT0_RXPKT 1).acked p.dqpn p.seq p.sack none ∧ ((u.qp p.dqpn).sent.find? fun e => e.pkt.psn == p.psn) = some e ∧ p.code = 1 ∧ (u.qp p.dqpn).cf 0 36 34 = 7) :=
  ⟨⟨Tests.posted 1 0, Tests.taken 1 0, Tests.taken 1 0, 3, Tests.wrAt 1 0, [], false, [], by decide +kernel⟩,
    ⟨Tests.posted 2 8, Tests.taken 2 8, Tests.taken 2 8, 3, Tests.wrAt 2 8, [], false, [2, 1, 0, 0, 8, 0, 0, 0], by decide +kernel⟩,
    ⟨Tests.posted 3 0, Tests.taken 3 0, 3, Tests.wrAt 3 0, by decide +kernel⟩,
    ⟨Tests.posted 4 0, Tests.taken 4 0, 3, Tests.wrAt 4 0, by decide +kernel⟩,
    ⟨Tests.posted 5 8, Tests.taken 5 8, Tests.taken 5 8, 3, Tests.wrAt 5 8, [], false, [5, 1, 0, 0, 8, 0, 0, 0], by decide +kernel⟩,
    ⟨Tests.posted 6 0, Tests.taken 6 0, 3, Tests.wrAt 6 0, by decide +kernel⟩,
    ⟨Tests.posted 7 0, Tests.taken 7 0, 3, Tests.wrAt 7 0, by decide +kernel⟩,
    ⟨Tests.paired { Tests.qp0 with wrs := [{ Tests.wrPut0 with waits := some (3, 0) }] } [], 3, { Tests.wrPut0 with waits := some (3, 0) }, [], false, [], by decide +kernel⟩,
    ⟨Tests.receiving, Tests.counted, Tests.bound.1, 0, 9, Tests.wireOf (Tests.receiving) { Tests.sendPkt with typ := 1 }, false, Tests.sendPkt, Tests.sendPkt, Tests.recv0, by decide +kernel⟩,
    ⟨Tests.receiving, Tests.counted, 0, 9, Tests.wireOf (Tests.receiving) { Tests.putPkt with typ := 2 }, Tests.putPkt, Tests.putPkt, by decide +kernel⟩,
    ⟨Tests.receiving, Tests.counted, 0, 9, Tests.wireOf (Tests.receiving) { Tests.addPkt with typ := 3 }, Tests.addPkt, Tests.addPkt, 0, 5, by decide +kernel⟩,
    ⟨Tests.receiving, Tests.counted, 0, 9, Tests.wireOf (Tests.receiving) { Tests.putPkt with typ := 5, payload := [], tlen := 0 }, { Tests.putPkt with payload := [], tlen := 0 }, by decide +kernel⟩,
    ⟨Tests.receiving, 0, 9, Tests.wireOf (Tests.receiving) { Tests.putPkt with typ := 7, payload := [], tlen := 0 }, { Tests.putPkt with payload := [], tlen := 0 }, by decide +kernel⟩,
    ⟨Tests.paired { Tests.qp0 with wrs := [{ Tests.wrPut0 with op := 4, nsn := some 0 }] } [], (Tests.paired { Tests.qp0 with wrs := [{ Tests.wrPut0 with op := 4, nsn := some 0 }] } []).wake.addFld Fd.SHT_CNT0_RXPKT 1, 0, 9, Tests.wireOf (Tests.paired { Tests.qp0 with wrs := [{ Tests.wrPut0 with op := 4, nsn := some 0 }] } []) { Tests.putPkt with typ := 4, payload := leBytes 8 5 }, { Tests.putPkt with typ := 4, payload := leBytes 8 5 }, { Tests.putPkt with typ := 4, payload := leBytes 8 5 }, { Tests.wrPut0 with op := 4, nsn := some 0 }, by decide +kernel⟩,
    ⟨Tests.paired { Tests.qp0 with wrs := [{ Tests.wrPut0 with op := 6 }] } [], (Tests.paired { Tests.qp0 with wrs := [{ Tests.wrPut0 with op := 6 }] } []).wake.addFld Fd.SHT_CNT0_RXPKT 1, 0, 9, Tests.wireOf (Tests.paired { Tests.qp0 with wrs := [{ Tests.wrPut0 with op := 6 }] } []) { Tests.putPkt with typ := 6, payload := [], tlen := 0 }, { Tests.putPkt with payload := [], tlen := 0 }, { Tests.wrPut0 with op := 6 }, by decide +kernel⟩,
    ⟨Tests.naked, (Tests.naked.wake.addFld Fd.SHT_CNT0_RXPKT 1).acked 3 0 0 none, 0, 9, Tests.wireOf (Tests.naked) { Tests.putPkt with typ := 8, payload := [], tlen := 0, code := 1 }, { Tests.putPkt with payload := [], tlen := 0, code := 1 }, Tests.sentPut, by decide +kernel⟩⟩

/-- States and operands that meet the hypotheses of each clause of FlashTierEventsComplete. -/
theorem test_meets_FlashTierEventsComplete :
    (∃ (s : State) (h layer k : Nat) (x : FlashImage),
    s.imageOf h layer = some (k, x) ∧ readsAhead s x.places = false) ∧
    (∃ (s : State) (ch ce : Nat) (g : FlashGeo),
    s.flash = some g ∧ (g.targets.any fun t => t.ch == ch && t.ce == ce && t.inService) = true ∧ (g.targets.any fun t => t.ch == ch && t.ce == ce && t.inService && t.late) = false) ∧
    (∃ (s : State) (ch ce : Nat) (g : FlashGeo),
    s.flash = some g ∧ (g.targets.any fun t => t.ch == ch && t.ce == ce && t.inService && t.late) = true) ∧
    (∃ (s : State) (g : FlashGeo),
    s.power.stage = .up ∧ s.flash = some g) ∧
    (∃ (s : State) (g : FlashGeo),
    s.flash = some g) ∧
    (∃ (s : State),
    s.fld Fd.FLT_SPACE_GC = 2 ∧ freePm s < 40) ∧
    (∃ (s : State) (channel : Fin 32) (idle u : Nat) (g : FlashGeo),
    s.flash = some g ∧ mediaReady s = true ∧ freePm s < 30 ∧ nextVictim s g = some u) ∧
    (∃ (s u : State) (handle : Fin 16777216) (layer : Fin 128) (c : Chunk) (p : Page) (k : Nat) (x : FlashImage) (places : List Place),
    s.pageOf handle.val layer.val = some (c, p) ∧ s.imageOf handle.val layer.val = some (k, x) ∧ moveRuns s handle.val x = true ∧ mustMove s x = true ∧ x.durable = true ∧ s.placeImage (handle.val % 8) 2 c.charge (imageCodewords x) = some (u, places)) ∧
    (∃ (s u : State) (handle : Fin 16777216) (layer : Fin 128) (c : Chunk) (p : Page) (k : Nat) (x : FlashImage) (places : List Place),
    s.pageOf handle.val layer.val = some (c, p) ∧ s.imageOf handle.val layer.val = some (k, x) ∧ moveRuns s handle.val x = true ∧ (x.places.any fun p => (s.unit p.unit).slc) = true ∧ x.durable = true ∧ s.placeImage (handle.val % 8) 2 c.charge (imageCodewords x) = some (u, places)) ∧
    (∃ (s : State) (u : Nat) (g : FlashGeo),
    s.flash = some g ∧ (s.unit u).retired = false ∧ (s.unit u).failed = false ∧ (s.unit u).pend = true ∧ readsAhead s [{ unit := u, cw := 0, pos := 0 }] = false) ∧
    (∃ (s : State) (u : Nat) (g : FlashGeo),
    s.flash = some g ∧ (s.unit u).failed = true ∧ (s.unit u).retired = false ∧ (s.eraseLists.any fun e => e.2.contains u) = false) ∧
    (∃ (s : State) (channel : Fin 32) (ce : Fin 8) (g : FlashGeo),
    s.flash = some g ∧ (g.targets.any fun t => t.ch == channel.val && t.ce == ce.val && t.inService) = true) ∧
    (∃ (s : State) (temps : List (Nat × Nat × Int)) (g : FlashGeo),
    s.flash = some g) ∧
    (∃ (s : State) (channel : Fin 32) (ce : Fin 8) (g : FlashGeo) (i : Nat) (x : FlashTarget),
    s.flash = some g ∧ g.targets[i]? = some x ∧ x.ch = channel.val ∧ x.ce = ce.val ∧ x.inService = true ∧ 10 ≤ (x.temp - x.trained).natAbs) :=
  ⟨⟨Tests.flashed, 0, 0, 0, Tests.image0, by decide +kernel⟩,
    ⟨Tests.flashed, 0, 0, Tests.flash0, by decide +kernel⟩,
    ⟨{ Tests.flashed with flash := some (Tests.flash0.noteLate (fun _ => true) true) }, 0, 0, Tests.flash0.noteLate (fun _ => true) true, by decide +kernel⟩,
    ⟨{ Tests.flashed with power := { Tests.flashed.power with stage := .up } }, Tests.flash0, by decide +kernel⟩,
    ⟨Tests.flashed, Tests.flash0, by decide +kernel⟩,
    ⟨Tests.setAll Tests.crowded [(Fd.FLT_SPACE_GC, 2, 0)], by decide +kernel⟩,
    ⟨Tests.crowded, 0, 0, 12, Tests.flash0, by decide +kernel⟩,
    ⟨Tests.moving.1, Tests.moving.2.1, 0, 0, Tests.wholeOf Tests.pageClean, Tests.pageClean, 0, Tests.imageOld, Tests.moving.2.2, by decide +kernel⟩,
    ⟨Tests.moving.1, Tests.moving.2.1, 0, 0, Tests.wholeOf Tests.pageClean, Tests.pageClean, 0, Tests.imageOld, Tests.moving.2.2, by decide +kernel⟩,
    ⟨Tests.marked Tests.unitPend, 13, Tests.flash0, by decide +kernel⟩,
    ⟨Tests.marked Tests.unitFailed, 13, Tests.flash0, by decide +kernel⟩,
    ⟨Tests.flashed, 0, 0, Tests.flash0, by decide +kernel⟩,
    ⟨Tests.flashed, [(0, 0, 45)], Tests.flash0, by decide +kernel⟩,
    ⟨{ Tests.flashed with flash := some { Tests.flash0 with targets := [{ ch := 0, ce := 0, luns := 1, rate := 1, inService := true, temp := 45, trained := 30, late := false }] } }, 0, 0, { Tests.flash0 with targets := [{ ch := 0, ce := 0, luns := 1, rate := 1, inService := true, temp := 45, trained := 30, late := false }] }, 0, { ch := 0, ce := 0, luns := 1, rate := 1, inService := true, temp := 45, trained := 30, late := false }, by decide +kernel⟩⟩

/-- States and operands that meet the hypotheses of each clause of RasEventsComplete. -/
theorem test_meets_RasEventsComplete :
    (∃ (s : State) (row : ScrubRow) (now : Nat),
    mediaReady s = true ∧ s.fld Fd.PWR_STATUS_PSTATE ≠ 2 ∧ stackGone s row.stack = false ∧ (rowStacks s).contains row.stack = true) ∧
    (∃ (s : State) (row : ScrubRow),
    row.result = .corrected) ∧
    (∃ (s : State) (stack : Fin 12) (cause : Fin 6),
    stackLost s stack.val = false ∧ s.fld Fd.RAS_HBM_STATE stack.val = 0 ∧ s.fld Fd.RAS_STATUS_STATE < 2) ∧
    (∃ (s : State),
    s.fld Fd.RAS_REBUILD_PHASE = 1 ∧ s.fld Fd.RAS_STATUS_STATE = 2 ∧ topEmpty s = true) ∧
    (∃ (s : State) (now : Nat),
    s.fld Fd.RAS_REBUILD_PHASE = 1 ∧ s.rebuildWarned = false ∧ s.rebuildAt + 60000000000 < (s.at_ now).dtime) ∧
    (∃ (s : State),
    s.fld Fd.RAS_REBUILD_PHASE = 2 ∧ s.fld Fd.RAS_STATUS_STATE = 2) ∧
    (∃ (s : State) (value : Word),
    (s.writeRasCtl value).fld Fd.RAS_STATUS_STATE < 2 ∧ (s.writeRasCtl value).flag Fd.RAS_STATUS_REBUILD = false ∧ (s.writeRasCtl value).flag Fd.RAS_STATUS_SELFTEST = false ∧ namedStack (s.writeRasCtl value) = true) ∧
    (∃ (s : State) (st : Nat),
    testedStack s = some st ∧ partFailed s = false) ∧
    (∃ (s : State) (value : Word),
    namedStack (s.writeRasCtl value) = true) ∧
    (∃ (s : State) (value : Word),
    ((s.writeRasCtl value).core ((s.writeRasCtl value).fld Fd.RAS_CTL_CORE)).good = true) ∧
    (∃ (s : State) (core : Fin 256) (cause : Fin 2),
    (s.core core.val).good = true ∧ (s.core core.val).panel = none) ∧
    (∃ (s : State) (st : Fin 8) (now : Nat),
    (s.steward st.val).down = false) ∧
    (∃ (s : State) (st : Fin 8),
    (s.steward st.val).down = true) ∧
    (∃ (s : State) (fn : Fin 17) (n : Fin 256),
    mbRefusal s fn.val true true false = none) ∧
    (∃ (s : State) (fn : Fin 17),
    mbRefusal s fn.val true true false = none) :=
  ⟨⟨Tests.served, { stack := 0, granule := 0, result := .corrected, passMin := some 3 }, 5, by decide +kernel⟩,
    ⟨Tests.served, { stack := 0, granule := 0, result := .corrected, passMin := none }, by decide +kernel⟩,
    ⟨Tests.served, 3, 2, by decide +kernel⟩,
    ⟨Tests.setAll Tests.served [(Fd.RAS_REBUILD_PHASE, 1, 0), (Fd.RAS_STATUS_STATE, 2, 0)], by decide +kernel⟩,
    ⟨{ Tests.setAll Tests.served [(Fd.RAS_REBUILD_PHASE, 1, 0), (Fd.RAS_STATUS_STATE, 2, 0)] with dtime := 60000000001 }, 5, by decide +kernel⟩,
    ⟨Tests.setAll Tests.served [(Fd.RAS_REBUILD_PHASE, 2, 0), (Fd.RAS_STATUS_STATE, 2, 0)], by decide +kernel⟩,
    ⟨Tests.served, 0x30000, by decide +kernel⟩,
    ⟨Tests.setAll Tests.served [(Fd.RAS_HBM_STATE, 1, 3)], 3, by decide +kernel⟩,
    ⟨Tests.served, 0x30000, by decide +kernel⟩,
    ⟨Tests.cored, 0x5000000, by decide +kernel⟩,
    ⟨Tests.cored, 5, 1, by decide +kernel⟩,
    ⟨Tests.served, 3, 5, by decide +kernel⟩,
    ⟨Tests.served.setSteward 3 { missed := 0, down := true, resets := [] }, 3, by decide +kernel⟩,
    ⟨Tests.served, 16, 7, by decide +kernel⟩,
    ⟨Tests.served, 16, by decide +kernel⟩⟩

/-- States and operands that meet the hypotheses of each clause of KeysAndSessionsComplete. -/
theorem test_meets_KeysAndSessionsComplete :
    (∃ (s : State) (fn : Fin 18) (i : Nat),
    fn.val ≠ mctpFn) ∧
    (∃ (s : State) (fn : Fin 18) (slot : Nat),
    slot < 2) ∧
    (∃ (s : State) (fn : Fin 18) (i : Nat) (nonce : List Byte),
    i ≠ 0xFF) ∧
    (∃ (s : State) (fn : Fin 18) (n : Nat) (m : Bool) (chain : List Byte),
    s.session n = none) ∧
    (∃ (s : State) (n stream key : Nat) (l : Fin 8) (x : Session),
    s.session n = some x ∧ hostLink s (fnHost s x.fn) = some l.val ∧ streamAllowed s (fnHost s x.fn) l.val stream = true) ∧
    (∃ (s : State) (n : Nat) (x : Session),
    s.session n = some x ∧ (s.tdi (fnHost s x.fn)).st = 0 ∧ s.compat = false) ∧
    (∃ (s : State) (n : Nat) (x : Session),
    s.session n = some x ∧ (s.tdi (fnHost s x.fn)).st = 1 ∧ (s.tdi (fnHost s x.fn)).session = n) ∧
    (∃ (s : State) (n tn key : Nat) (x : Session),
    loadHolds s = false ∧ s.session n = some x ∧ tn ≤ 1023 ∧ keyable s tn = true ∧ boundSession s n x tn = true) ∧
    (∃ (s : State) (n tn ngrp rw key : Nat) (gs : List Nat) (x : Session),
    loadHolds s = false ∧ s.session n = some x ∧ sealResult s n x tn ngrp rw gs = krOk) ∧
    (∃ (s : State) (n q key : Nat) (x : Session),
    loadHolds s = false ∧ s.session n = some x ∧ q ≤ 65535 ∧ (s.qp q).st = qpFree ∧ onBoundHost s x (s.qp q).tenant = true ∧ tenantSealed s (s.qp q).tenant = false) ∧
    (∃ (s : State) (n g key : Nat) (x : Session),
    loadHolds s = false ∧ s.session n = some x ∧ hkeyResult s x g = krOk) ∧
    (∃ (s : State) (n tn : Nat) (x : Session),
    loadHolds s = false ∧ s.session n = some x ∧ tn ≤ 1023 ∧ onBoundHost s x tn = true) ∧
    (∃ (s : State) (fn : Fin 18) (h : List Byte),
    loadHolds s = false ∧ mapFind s.signed fn.val = some h) ∧
    (∃ (s : State) (value : Word),
    s.tstate (bitsOf value 25 16) = TState.configured.code ∧ (s.setFld Fd.SEC_TKEY_TENANT (bitsOf value 25 16)).fld Fd.SEC_TSTAT_KEYSRC (bitsOf value 25 16) = 0 ∧ tenantSealed s (bitsOf value 25 16) = false) :=
  ⟨⟨Tests.served, 0, 0, by decide +kernel⟩,
    ⟨Tests.served, 0, 1, by decide +kernel⟩,
    ⟨Tests.served, 0, 1, [], by decide +kernel⟩,
    ⟨Tests.served, 0, 1, true, [], by decide +kernel⟩,
    ⟨Tests.secured, 1, 0, 9, 0, Tests.session0, by decide +kernel⟩,
    ⟨Tests.withSession, 1, Tests.session0, by decide +kernel⟩,
    ⟨{ Tests.withSession with tdis := [(0, { st := 1, session := 1, req := [] })] }, 1, Tests.session0, by decide +kernel⟩,
    ⟨Tests.secured, 1, 0, 9, Tests.session0, by decide +kernel⟩,
    ⟨Tests.secured, 1, 0, 0, 0, 9, [], Tests.session0, by decide +kernel⟩,
    ⟨Tests.withSession, 1, 3, 9, Tests.session0, by decide +kernel⟩,
    ⟨Tests.setAll { Tests.served with sessions := [(1, { Tests.session0 with fn := 16 })] } [(Fd.SG_CFG_VALID, 1, 7)], 1, 7, 9, { Tests.session0 with fn := 16 }, by decide +kernel⟩,
    ⟨Tests.withSession, 1, 0, Tests.session0, by decide +kernel⟩,
    ⟨{ Tests.served with signed := [(0, [])] }, 0, [], by decide +kernel⟩,
    ⟨Tests.keyless, 0, by decide +kernel⟩⟩

/-- States and operands that meet the hypotheses of each clause of LifeCycleFirmwareAndCalibrationComplete. -/
theorem test_meets_LifeCycleFirmwareAndCalibrationComplete :
    (∃ (s : State) (fn : Fin 17),
    mbRefusal s fn.val false true false = none) ∧
    (∃ (s : State) (fn : Fin 17) (payload : List Byte),
    mbRefusal s fn.val false false true = none ∧ s.bg.running = false) ∧
    (∃ (payload : List Byte) (a : LcAdvance),
    lcRead payload = some a) ∧
    (∃ (s : State) (a : LcAdvance),
    s.fld Fd.SEC_LC_STATE = 0) ∧
    (∃ (s : State) (target : Nat),
    s.lcTarget = some target ∧ ((tenantsUsed s).any fun t => s.tstate t == TState.active.code || s.tstate t == TState.draining.code) = false) ∧
    (∃ (s : State) (fn : Fin 17) (off : Nat) (bs : List Byte),
    mbRefusal s fn.val false true true = none ∧ s.fwWriter = 0 ∧ s.bg.running = false ∧ off + bs.length ≤ slotBytes) ∧
    (∃ (s : State) (fn : Fin 17),
    mbRefusal s fn.val false true true = none ∧ s.fwWriter = 0) ∧
    (∃ (s : State) (fn : Fin 17),
    mbRefusal s fn.val false true true = none ∧ s.fwWriter = 0) ∧
    (∃ (s : State) (fn : Fin 17),
    mbRefusal s fn.val false true true = none) ∧
    (∃ (s : State) (fn : Fin 17),
    mbRefusal s fn.val false true false = none) ∧
    (∃ (s : State) (off : Nat) (bs : List Byte),
    s.fwWriter ≠ 2 ∧ s.bg.running = false ∧ off + bs.length ≤ slotBytes) ∧
    (∃ (s : State) (fn : Fin 17) (off n : Nat),
    mbRefusal s fn.val true true false = none ∧ off + n ≤ calBytes) ∧
    (∃ (s : State) (fn : Fin 17) (off : Nat) (bs : List Byte),
    mbRefusal s fn.val false false true = none ∧ s.bg.running = false ∧ (s.fld Fd.SEC_LC_STATE = 1 ∨ s.fld Fd.SEC_LC_STATE = 2) ∧ off + bs.length ≤ calBytes) :=
  ⟨⟨Tests.served, 16, by decide +kernel⟩,
    ⟨Tests.served, 16, [], by decide +kernel⟩,
    ⟨lcMagic ++ List.replicate 120 0, (lcRead (lcMagic ++ List.replicate 120 0)).getD { target := 0, nonce := 0, devHash := [], signed := [], sigs := [], certs := [] }, by decide +kernel⟩,
    ⟨Tests.served, { target := 1, nonce := 0, devHash := [], signed := [], sigs := [], certs := [] }, by decide +kernel⟩,
    ⟨{ State.reset with lcTarget := some 3 }, 3, by decide +kernel⟩,
    ⟨Tests.served, 16, 4096, [1, 2], by decide +kernel⟩,
    ⟨Tests.served, 16, by decide +kernel⟩,
    ⟨Tests.served, 16, by decide +kernel⟩,
    ⟨Tests.served, 16, by decide +kernel⟩,
    ⟨Tests.served, 16, by decide +kernel⟩,
    ⟨Tests.served, 0, [1], by decide +kernel⟩,
    ⟨Tests.served, 16, 64, 8, by decide +kernel⟩,
    ⟨Tests.setAll Tests.served [(Fd.SEC_LC_STATE, 1, 0)], 16, 64, [1, 2], by decide +kernel⟩⟩

/-- States and operands that meet the hypotheses of each clause of MailboxQueriesAndLogsComplete. -/
theorem test_meets_MailboxQueriesAndLogsComplete :
    (∃ (s : State) (fn : Fin 17),
    mbRefusal s fn.val true true false = none) ∧
    (∃ (s : State) (fn : Fin 17),
    mbRefusal s fn.val true false false = none) ∧
    (∃ (s : State) (fn : Fin 17),
    mbRefusal s fn.val false false false = none) ∧
    (∃ (s : State) (fn : Fin 17) (a x y : Nat) (bs : List Byte),
    mbRefusal s fn.val false false false = none ∧ dpaPlace (dpaExtents s.cacheSf) a = .plain x y ∧ bs.length = 64) ∧
    (∃ (s : State) (fn owner : Fin 17) (log : Fin 5),
    inSafe s = false ∧ ownsLogs fn.val owner.val = true ∧ awaitsMedia s = false) ∧
    (∃ (s : State) (fn owner : Fin 17) (log : Fin 5) (all : Bool) (handles : List Nat),
    inSafe s = false ∧ ownsLogs fn.val owner.val = true ∧ awaitsMedia s = false) ∧
    (∃ (s : State) (fn : Fin 17) (modes : List Nat),
    inSafe s = false ∧ awaitsMedia s = false) ∧
    (∃ (s : State) (vendor : Bool) (first n : Nat),
    awaitsMedia s = false) ∧
    (∃ (s : State) (fn : Fin 17),
    inSafe s = false ∧ awaitsMedia s = false) ∧
    (∃ (s : State) (fn : Fin 17) (v : Word),
    mbRefusal s fn.val false false false = none) ∧
    (∃ (s : State) (fn : Fin 17) (op action : Nat),
    (if fn.val = operatorFn then celOpcodes else hostOpcodes).contains op = false) ∧
    (∃ (s : State) (op action : Nat),
    celOpcodes.contains op = true ∧ freezes op action = true ∧ s.flag Fd.GLB_CFG_CFGFREEZE = true) ∧
    (∃ (s : State) (e : Nat × Nat) (rest : List (Nat × Nat)),
    s.mctp = e :: rest) ∧
    (∃ (s : State) (pins cells : List Bool) (n : Nat),
    makerState s = false) :=
  ⟨⟨Tests.served, 16, by decide +kernel⟩,
    ⟨Tests.served, 16, by decide +kernel⟩,
    ⟨Tests.served, 16, by decide +kernel⟩,
    ⟨Tests.served, 16, 128, 0, 128, List.replicate 64 5, by decide +kernel⟩,
    ⟨Tests.served, 16, 3, 1, by decide +kernel⟩,
    ⟨Tests.served, 16, 3, 1, true, [], by decide +kernel⟩,
    ⟨Tests.served, 16, [1, 0, 0], by decide +kernel⟩,
    ⟨Tests.served, true, 0, 8, by decide +kernel⟩,
    ⟨Tests.served, 3, by decide +kernel⟩,
    ⟨Tests.served, 16, 77, by decide +kernel⟩,
    ⟨Tests.served, 3, 0xC015, 0, by decide +kernel⟩,
    ⟨Tests.setAll Tests.served [(Fd.GLB_CFG_CFGFREEZE, 1, 0)], 0xC015, 0, by decide +kernel⟩,
    ⟨{ Tests.served with mctp := [(8, 2)] }, (8, 2), [], by decide +kernel⟩,
    ⟨Tests.setAll Tests.served [(Fd.SEC_LC_STATE, 2, 0)], [true], [false], 9, by decide +kernel⟩⟩

/-- States and operands that meet the hypotheses of each clause of TimePowerAndFunctionResetsComplete. -/
theorem test_meets_TimePowerAndFunctionResetsComplete :
    (∃ (s : State) (v : Word),
    s.fld Fd.PWR_DTCTL_MODE ≠ modePtp ∧ s.fld Fd.PWR_DTCTL_MODE ≠ modeRing) ∧
    (∃ (s : State) (o : Int),
    0 < o ∧ tenantsServe (s.setFld Fd.PWR_DTCTL_OFFNS (offImage o)) = false) ∧
    (∃ (s : State) (msg : PtpMsg) (now : Nat) (o : Int),
    msg.offset = some o ∧ s.fld Fd.PWR_DTCTL_MODE = modePtp ∧ msg.port = s.fld Fd.PWR_DTCTL_PTPPORT ∧ msg.domain = s.fld Fd.PWR_DTCTL_PTPDOM) ∧
    (∃ (s : State) (msg : PtpMsg) (now : Nat),
    s.fld Fd.PWR_DTCTL_MODE ≠ modePtp) ∧
    (∃ (s : State) (o : Int) (neighbour now : Nat),
    s.fld Fd.PWR_DTCTL_MODE ≠ modeRing) ∧
    (∃ (s u : State) (avg peak hbm cd : Nat) (a0 a1 : Bool) (now : Nat),
    u = ((((s.at_ now).setFld Fd.PWR_MEAS_AVGW (min avg 65535)).setFld Fd.PWR_MEAS_HBMW (min hbm 65535)).setFld Fd.PWR_MEAS_CDW (min cd 65535))) ∧
    (∃ (s : State) (i : Fin 293) (pct : Fin 101) (now : Nat),
    (s.flag Fd.PWR_CTL_ECO = false ∨ 25 ≤ pct.val)) ∧
    (∃ (s u : State) (cd0 cd1 xd : Int) (ts : List Int) (now : Nat),
    u = ((s.at_ now).setReg .PWR_THERM 0 (packWord [(56, intBits 8 cd0), (48, intBits 8 cd1), (40, intBits 8 xd), (32, intBits 8 ((ts.take 12).foldl max (ts.headD 0))), (8, stackStepWord s ts), (2, stepOf (dieSteps s) (s.fld Fd.PWR_THERM_STEP1) cd1), (0, stepOf (dieSteps s) (s.fld Fd.PWR_THERM_STEP0) cd0)])).syncClocks) ∧
    (∃ (s : State) (idleUs now : Nat),
    mediaReady s = true ∧ s.fld Fd.PWR_STATUS_PSTATE = 0 ∧ busyNow s = false ∧ 1000 ≤ idleUs) ∧
    (∃ (s : State) (now : Nat),
    s.fld Fd.PWR_STATUS_PSTATE = 1 ∧ s.flag Fd.PWR_CTL_STBYEN = true ∧ s.power.quietAt + 1000000 * s.fld Fd.PWR_CTL_STBYMS ≤ (s.at_ now).dtime ∧ busyNow s = false ∧ workPending s = false) ∧
    (∃ (s : State) (now : Nat),
    s.fld Fd.PWR_STATUS_PSTATE = 2) ∧
    (∃ (s : State) (v : Word),
    s.tenantResets = [] ∧ (s.writePwrRst v).active (bitsOf v 25 16) = true) ∧
    (∃ (s : State) (v : Word) (now : Nat),
    s.tenantResets = [] ∧ 268 ≤ bitsOf v 40 32 ∧ bitsOf v 40 32 < 276) ∧
    (∃ (s : State) (v : Word) (now : Nat),
    s.tenantResets = [] ∧ 280 ≤ bitsOf v 40 32 ∧ bitsOf v 40 32 < 282 ∧ s.fld Fd.SHT_PORTST_STATE (bitsOf v 40 32 - 280) ≠ 0) :=
  ⟨⟨Tests.served, 77, by decide +kernel⟩,
    ⟨State.reset, 5, by decide +kernel⟩,
    ⟨Tests.setAll Tests.served [(Fd.PWR_DTCTL_MODE, 2, 0)], { port := 0, domain := 0, offset := some 4 }, 5, 4, by decide +kernel⟩,
    ⟨Tests.served, { port := 0, domain := 0, offset := some 4 }, 5, by decide +kernel⟩,
    ⟨Tests.served, 0, 7, 5, by decide +kernel⟩,
    ⟨Tests.served, ((((Tests.served.at_ 5).setFld Fd.PWR_MEAS_AVGW 900).setFld Fd.PWR_MEAS_HBMW 200).setFld Fd.PWR_MEAS_CDW 300), 900, 950, 200, 300, true, true, 5, by rfl⟩,
    ⟨Tests.served, 7, 50, 5, by decide +kernel⟩,
    ⟨Tests.served, ((Tests.served.at_ 5).setReg .PWR_THERM 0 (packWord [(56, 60), (48, 61), (40, 62), (32, 50), (8, stackStepWord Tests.served [50]), (2, stepOf (dieSteps Tests.served) (Tests.served.fld Fd.PWR_THERM_STEP1) 61), (0, stepOf (dieSteps Tests.served) (Tests.served.fld Fd.PWR_THERM_STEP0) 60)])).syncClocks, 60, 61, 62, [50], 5, by rfl⟩,
    ⟨Tests.served, 1000, 5, by decide +kernel⟩,
    ⟨{ Tests.setAll Tests.served [(Fd.PWR_STATUS_PSTATE, 1, 0), (Fd.PWR_CTL_STBYEN, 1, 0)] with dtime := 100000000000 }, 5, by decide +kernel⟩,
    ⟨Tests.setAll Tests.served [(Fd.PWR_STATUS_PSTATE, 2, 0)], 5, by decide +kernel⟩,
    ⟨Tests.served, 0, by decide +kernel⟩,
    ⟨Tests.served, 0x10C00000000, 5, by decide +kernel⟩,
    ⟨Tests.setAll Tests.served [(Fd.SHT_PORTST_STATE, 2, 0)], 0x11800000000, 5, by decide +kernel⟩⟩

/-- States and operands that meet the hypotheses of each clause of PowerAndStartUpEventsComplete. -/
theorem test_meets_PowerAndStartUpEventsComplete :
    (∃ (s : State),
    (s.power.stage = .off ∨ s.power.stage = .noRef)) ∧
    (∃ (s : State) (x : StartIn) (now : Nat),
    s.power.stage = .held ∧ s.power.pfLow = false) ∧
    (∃ (s : State) (x : StartIn) (now : Nat),
    s.power.stage = .held ∧ s.power.pfLow = true) ∧
    (∃ (s : State) (x : StartIn) (now : Nat),
    s.power.stage = .waiting ∧ s.power.pfLow = false ∧ s.power.pfHigh + 10000000 ≤ (s.at_ now).dtime) ∧
    (∃ (s : State) (ms now : Nat),
    s.power.stage = .starting ∧ inSafe s = false ∧ (s.fld Fd.SEC_LC_STATE = 1 ∨ s.fld Fd.SEC_LC_STATE = 2) ∧ s.power.coldStart = false) ∧
    (∃ (s : State),
    s.flag Fd.PGT_RECOV_REBUILD = true) ∧
    (∃ (s q : State) (now : Nat),
    (s.power.stage = .up ∨ s.power.stage = .starting) ∧ q = (s.at_ now).quiesceAll) ∧
    (∃ (s : State) (us : Nat) (saved whole : Bool) (now : Nat),
    (s.power.stage = .up ∨ s.power.stage = .starting)) ∧
    (∃ (s : State) (now : Nat),
    s.power.pfLow = true) ∧
    (∃ (s : State) (us : Nat) (saved whole : Bool),
    s.power.stage ≠ .off ∧ s.power.stage ≠ .tripped) ∧
    (∃ (s : State) (us : Nat) (saved whole : Bool),
    s.power.stage = .held ∧ s.power.cold = false) ∧
    (∃ (s : State) (die : Bool) (temp : Int),
    s.power.stage ≠ .off ∧ s.power.stage ≠ .tripped ∧ (if die then 110 else 100) - thermMargin s ≤ temp) ∧
    (∃ (s : State),
    s.power.stage ≠ .off) ∧
    (∃ (s : State),
    s.power.stage ≠ .off ∧ s.power.stage ≠ .noRef ∧ s.power.stage ≠ .tripped) :=
  ⟨⟨{ State.reset with power := { State.reset.power with stage := .off } }, by decide +kernel⟩,
    ⟨State.reset, Tests.start0, 5, by decide +kernel⟩,
    ⟨{ State.reset with power := { State.reset.power with pfLow := true } }, Tests.start0, 5, by decide +kernel⟩,
    ⟨{ State.reset with power := { State.reset.power with stage := .waiting }, dtime := 10000000 }, Tests.start0, 5, by decide +kernel⟩,
    ⟨Tests.setAll { State.reset with power := { State.reset.power with stage := .starting, coldStart := false } } [(Fd.SEC_LC_STATE, 1, 0)], 900, 5, by decide +kernel⟩,
    ⟨Tests.setAll Tests.served [(Fd.PGT_RECOV_REBUILD, 1, 0)], by decide +kernel⟩,
    ⟨Tests.upNow, (Tests.upNow.at_ 5).quiesceAll, 5, by exact ⟨Or.inl rfl, rfl⟩⟩,
    ⟨Tests.upNow, 40, true, true, 5, by decide +kernel⟩,
    ⟨{ State.reset with power := { State.reset.power with pfLow := true } }, 5, by decide +kernel⟩,
    ⟨Tests.upNow, 0, true, true, by decide +kernel⟩,
    ⟨{ State.reset with power := { State.reset.power with stage := .held, cold := false } }, 9, true, true, by decide +kernel⟩,
    ⟨Tests.upNow, true, 110, by decide +kernel⟩,
    ⟨Tests.upNow, by decide +kernel⟩,
    ⟨Tests.upNow, by decide +kernel⟩⟩

/-- States and operands that meet the hypotheses of each clause of ActivationsComplete. -/
theorem test_meets_ActivationsComplete :
    (∃ (s : State) (fn : Fin 17) (word0 : Word),
    mbRefusal s fn.val false false true = none ∧ s.bg.running = false) ∧
    (∃ (s : State) (fn : Fin 17) (word0 : Word),
    mbRefusal s fn.val false false true = none ∧ s.bg.running = false) ∧
    (∃ (s : State) (l : LoadRun),
    s.load = some l ∧ l.phase = .validating) ∧
    (∃ (s : State) (l : LoadRun),
    s.load = some l ∧ l.phase = .quiescing ∧ quiesced s l = false) ∧
    (∃ (s : State) (l : LoadRun),
    s.load = some l ∧ l.phase = .quiescing ∧ quiesced s l = true) ∧
    (∃ (s : State) (l : LoadRun),
    s.load = some l ∧ l.phase = .restoring) :=
  ⟨⟨Tests.served, 16, 0, by decide +kernel⟩,
    ⟨Tests.served, 16, 0, by decide +kernel⟩,
    ⟨{ Tests.served with load := some { Tests.load0 with phase := .validating } }, { Tests.load0 with phase := .validating }, by decide +kernel⟩,
    ⟨{ Tests.running (Tests.cmdOf 3 [] .ready) with load := some { Tests.load0 with phase := .quiescing } }, { Tests.load0 with phase := .quiescing }, by decide +kernel⟩,
    ⟨{ Tests.served with load := some { Tests.load0 with phase := .quiescing } }, { Tests.load0 with phase := .quiescing }, by decide +kernel⟩,
    ⟨{ Tests.served with load := some { Tests.load0 with phase := .restoring } }, { Tests.load0 with phase := .restoring }, by decide +kernel⟩⟩

/-- States and operands that meet the hypotheses of each clause of IdleStepCountsTheReferenceClock. -/
theorem test_meets_IdleStepCountsTheReferenceClock :
    (∃ (s : State),
    s.pending = [] ∧ s.load = none ∧ s.fld Fd.RAS_REBUILD_PHASE ≠ 2) ∧
    (∃ (s : State),
    s.pending = []) ∧
    (∃ (s : State),
    s.pending = [] ∧ s.power.stage = .up ∧ s.power.slew = 0 ∧ s.power.frac < 1000000000) ∧
    (∃ (s : State),
    s.pending = [] ∧ s.power.stage = .up ∧ s.power.slew = 0 ∧ s.power.frac < 1000000000 ∧ s.load = none) ∧
    (∃ (s : State),
    s.fld Fd.RAS_REBUILD_PHASE = 2 ∧ s.fld Fd.RAS_REBUILD_DONEGIB < s.fld Fd.RAS_REBUILD_TOTALGIB) ∧
    (∃ (s : State),
    s.pending = [] ∧ (s.power.stage = .off ∨ s.power.stage = .noRef)) :=
  ⟨⟨State.reset, by decide +kernel⟩,
    ⟨State.reset, by decide +kernel⟩,
    ⟨{ State.reset with power := { State.reset.power with stage := .up } }, by decide +kernel⟩,
    ⟨{ State.reset with power := { State.reset.power with stage := .up } }, by decide +kernel⟩,
    ⟨Tests.setAll State.reset [(Fd.RAS_REBUILD_PHASE, 2, 0), (Fd.RAS_REBUILD_TOTALGIB, 9, 0)], by decide +kernel⟩,
    ⟨{ State.reset with power := { State.reset.power with stage := .off } }, by decide +kernel⟩⟩

/-- A state and operands that meet the hypotheses of QueueAndFusesStandOutsideTheCommands. -/
theorem test_meets_QueueAndFusesStandOutsideTheCommands :
    (∃ (i : Instr) (s t : State),
    exec i s = .next t) :=
  ⟨.ppsPulse 0, State.reset, opPpsPulse (State.reset.at_ 0), by rfl⟩

/-- A state and operands that meet the hypotheses of EveryStepKeepsTheInvariant. -/
theorem test_meets_EveryStepKeepsTheInvariant :
    (∃ (s t : State),
    Invariant s ∧ step s = .next t) :=
  ⟨State.reset, State.reset.tick, by exact ⟨Tests.reset_inv, rfl⟩⟩

/-- A state and operands that meet the hypotheses of BlocksDecodeToWhatWasEncoded. -/
theorem test_meets_BlocksDecodeToWhatWasEncoded :
    (∃ (w g : Nat) (l : List Nat) (raw : List Byte) (prof tensor fmt block : Nat),
    (w = 4 ∨ w = 8) ∧ tableOk w l = true ∧ l.length = 256 ∧ raw.length = 4096) :=
  ⟨4, 1, [2, 2, 3, 3, 4, 4, 5, 5, 5, 5] ++ List.replicate 246 0, List.replicate 4096 0, 0, 0, 0, 0, by decide +kernel⟩

/-- States and operands that meet the hypotheses of each clause of EveryBitStringDecodes. -/
theorem test_meets_EveryBitStringDecodes :
    (∃ (w : Nat) (l : List Nat) (bits : List Bool),
    (w = 4 ∨ w = 8) ∧ tableOk w l = true ∧ l.length = 256 ∧ 12 ≤ bits.length) ∧
    (∃ (w : Nat) (l : List Nat) (a b : Nat × Nat × Nat),
    (w = 4 ∨ w = 8) ∧ tableOk w l = true ∧ l.length = 256 ∧ a ∈ canonical w l ∧ b ∈ canonical w l ∧ a.1 ≠ b.1) :=
  ⟨⟨4, [2, 2, 3, 3, 4, 4, 5, 5, 5, 5] ++ List.replicate 246 0, List.replicate 12 true, by decide +kernel⟩,
    ⟨4, [2, 2, 3, 3, 4, 4, 5, 5, 5, 5] ++ List.replicate 246 0, (0, 2, 0), (1, 2, 1), by decide +kernel⟩⟩

/-- States and operands that meet the hypotheses of each clause of RegisterStewardAndPatternFrames. -/
theorem test_meets_RegisterStewardAndPatternFrames :
    (∃ (s : State) (off size : Nat) (value : Word) (t : State),
    exec (.registerWrite off size value) s = .next t) ∧
    (∃ (s : State) (off size : Nat) (t : State),
    exec (.registerReadClear off size) s = .next t) :=
  ⟨⟨State.reset, 0, 8, 0, opRegisterWrite 0 8 0 State.reset, by simp only [exec, execRegisterWrite]; exact if_neg (by decide +kernel)⟩,
    ⟨State.reset, 0, 8, opRegisterReadClear 0 8 State.reset, by simp only [exec, execRegisterReadClear]; exact if_neg (by decide +kernel)⟩⟩

/-- States and operands that meet the hypotheses of each clause of PowerAndResetFrames. -/
theorem test_meets_PowerAndResetFrames :
    (∃ (s : State) (found : StartIn) (now : Nat) (t : State),
    exec (.startup found now) s = .next t) ∧
    (∃ (s : State) (t : State),
    exec .functionReset s = .next t) ∧
    (∃ (s : State) (op : JtagOp) (pins cells : List Bool) (t : State),
    exec (.jtagInstruction op pins cells) s = .next t) :=
  ⟨⟨State.reset, Tests.start0, 0, opStartup Tests.start0 (State.reset.at_ 0), by rfl⟩,
    ⟨State.reset, opFunctionReset State.reset, by rfl⟩,
    ⟨State.reset, .bypass, [], [], opJtagInstruction .bypass [] [] State.reset, by rfl⟩⟩

/-- A state and operands that meet the hypotheses of NopHasNoEffectAndEndsOk. -/
theorem test_meets_NopHasNoEffectAndEndsOk :
    (∃ (s : State) (u : Nat) (c : Cmd),
    s.cmd u = some c ∧ c.opcode = Oc.nop ∧ c.full = true) :=
  ⟨Tests.running (Tests.cmdOf 0x3F [] .ready), 7, Tests.cmdOf 0x3F [] .ready, by decide +kernel⟩

/-- States and operands that meet the hypotheses of each clause of OverrunsPutTheSpoolInError. -/
theorem test_meets_OverrunsPutTheSpoolInError :
    (∃ (s : State) (h : HostId) (t : TenantId) (n : Fin 4) (off : Fin 4096) (bs : List Byte) (q : Nat),
    (hrtLookup s h true (winAddr t (4096 * n + off)) true .other).isSome ∧ off.val % 64 = 0 ∧ bs.length = 64 ∧ q = slotSeq (s.sqNext t n) (off / 64) ∧ sqGrant s t n ≤ seqSub q (s.sqFreed t n) ∧ mapFind (s.spool t n).part (off / 64) = none ∧ (s.spool t n).cutting = none) ∧
    (∃ (s : State) (h : HostId) (t : TenantId) (n : Fin 4) (v : Word),
    (hrtLookup s h true (winAddr t (0x5000 + 8 * n)) true .other).isSome ∧ bitsOf v 16 16 = 0 ∧ 0 < seqSub (bitsOf v 15 0) (s.sqTail t n) ∧ seqSub (bitsOf v 15 0) (s.sqTail t n) < 32768 ∧ sqGrant s t n < seqSub (bitsOf v 15 0) (s.sqFreed t n)) :=
  ⟨⟨Tests.served, 0, 0, 3, 0, List.replicate 64 1, 0, by decide +kernel⟩,
    ⟨Tests.served, 0, 0, 0, 100, by decide +kernel⟩⟩

/-- States and operands that meet the hypotheses of each clause of RepeatedEventsMerge. -/
theorem test_meets_RepeatedEventsMerge :
    (∃ (s : State) (code sev island a0 a1 : Nat) (tenant : Option Nat) (r : LogRec),
    r ∈ s.log ∧ r.code = code ∧ r.island = island ∧ r.tenant = tenant ∧ s.dtime ≤ r.dtime + 1000000) ∧
    (∃ (s : State) (code sev island a0 a1 : Nat) (tenant : Option Nat),
    (∀ r ∈ s.log, r.code = code → r.island = island → r.tenant = tenant → r.dtime + 1000000 < s.dtime)) :=
  ⟨⟨{ State.reset with log := [{ dtime := 0, count := 1, island := 5, tenant := none, sev := 1, code := 2, arg0 := 0, arg1 := 0 }] }, 2, 1, 5, 0, 0, none, { dtime := 0, count := 1, island := 5, tenant := none, sev := 1, code := 2, arg0 := 0, arg1 := 0 }, by decide +kernel⟩,
    ⟨State.reset, 2, 1, 5, 0, 0, none, by decide +kernel⟩⟩

/-- A state and operands that meet the hypotheses of SlotWheelsAreValidExactlyByTheRules. -/
theorem test_meets_SlotWheelsAreValidExactlyByTheRules :
    (∃ (ws : List (List Nat)),
    ws.length = 12 ∧ (∀ w ∈ ws, w.length = 4096)) :=
  ⟨List.replicate 12 (List.replicate 4096 0), by exact ⟨by rfl, fun w h => by rw [List.eq_of_mem_replicate h]; exact List.length_replicate⟩⟩

/-- States and operands that meet the hypotheses of each clause of RegisterFieldsTakeWritesByTheirAccessCodes. -/
theorem test_meets_RegisterFieldsTakeWritesByTheirAccessCodes :
    (∃ (s : State) (k : RegKind) (f : Field) (i : Nat) (v : Word),
    f ∈ k.fields ∧ (f.acc = .rw ∨ f.acc = .rws ∨ f.acc = .rwl ∧ s.flag Fd.GLB_LOCK = false)) ∧
    (∃ (s : State) (k : RegKind) (f : Field) (i : Nat) (v : Word),
    f ∈ k.fields ∧ (f.acc = .ro ∨ f.acc = .rwl ∧ s.flag Fd.GLB_LOCK = true ∨ (f.acc = .w1c ∨ f.acc = .w1s) ∧ bitsOf v f.hi f.lo = 0)) ∧
    (∃ (s : State) (k : RegKind) (f : Field) (i : Nat) (v : Word),
    f ∈ k.fields ∧ (f.acc = .w1c ∨ f.acc = .w1s) ∧ bitsOf v f.hi f.lo = 1) ∧
    (∃ (s : State) (k : RegKind) (f g : Field) (i j : Nat) (v : Word),
    f ∈ k.fields ∧ g ∈ k.fields ∧ (f ≠ g ∨ i ≠ j)) :=
  ⟨⟨State.reset, .SPL_CFG, Fd.SPL_CFG_CRCREQ, 3, 1, by decide +kernel⟩,
    ⟨State.reset, .LOG_PTR, Fd.LOG_PTR_WRITTEN, 0, 1, by decide +kernel⟩,
    ⟨State.reset, .TNT_ERR, Fd.TNT_ERR_HRTDENY, 0, 0xFFFFFFFFFFFFFFFF, by decide +kernel⟩,
    ⟨State.reset, .SPL_CFG, Fd.SPL_CFG_CRCREQ, Fd.SPL_CFG_CRCREQ, 3, 4, 1, by decide +kernel⟩⟩

/-- States and operands that meet the hypotheses of each clause of DenialsAreCountedAndNothingElseHappens. -/
theorem test_meets_DenialsAreCountedAndNothingElseHappens :
    (∃ (s : State) (h : HostId) (a : Nat) (bs : List (Option Byte)),
    gate s h a false = .denied ∧ gate s h a true = .denied) ∧
    (∃ (s : State) (h : HostId) (t : TenantId) (off : Fin 65536) (size outstanding : Nat) (port : Fin 4),
    hrtLookup s h true (winAddr t off) false .headRead = none ∧ hrtLookup s h true (winAddr t off) false .probeRead = none ∧ hrtLookup s h true (winAddr t off) false .other = none) ∧
    (∃ (s : State) (h : HostId) (t : TenantId) (n : Fin 4) (off : Fin 4096) (p : Fin 65536) (size : Nat) (v : Word) (bs : List Byte),
    hrtLookup s h true (winAddr t (4096 * n + off)) true .other = none ∧ hrtLookup s h true (winAddr t (0x5000 + 8 * n)) true .other = none ∧ hrtLookup s h true (winAddr t p) true .other = none) :=
  ⟨⟨Tests.served3, 3, 64, [], by exact ⟨Tests.served3_gate false, Tests.served3_gate true⟩⟩,
    ⟨Tests.served3, 3, 0, 0x4000, 32, 0, 0, by exact ⟨Tests.served3_denied .., Tests.served3_denied .., Tests.served3_denied ..⟩⟩,
    ⟨Tests.served3, 3, 0, 0, 0, 0x8000, 8, 0, [], by exact ⟨Tests.served3_denied .., Tests.served3_denied .., Tests.served3_denied ..⟩⟩⟩

/-- States and operands that meet the hypotheses of each clause of ProbesOfInactiveTenantsReadAbsent. -/
theorem test_meets_ProbesOfInactiveTenantsReadAbsent :
    (∃ (s : State) (h : HostId) (t : TenantId) (off : Fin 65536) (size outstanding : Nat) (port : Fin 4),
    (hrtLookup s h true (winAddr t off) false .probeRead).isSome ∧ s.active t.val = false ∧ isProbe off size = true ∧ mediaReady s = true ∧ outstanding ≤ 32) ∧
    (∃ (s : State) (h : HostId) (t : TenantId) (off : Fin 65536) (size outstanding : Nat) (port : Fin 4),
    (hrtLookup s h true (winAddr t off) false .probeRead).isSome ∧ isProbe off size = true ∧ 32 < outstanding) ∧
    (∃ (s : State) (h : HostId) (t : TenantId) (off : Fin 65536) (size outstanding : Nat) (port : Fin 4),
    hrtLookup s h true (winAddr t off) false .probeRead = none) :=
  ⟨⟨Tests.setAll Tests.served [(Fd.TNT_STATE_STATE, 1, 0)], 0, 0, 0x8000, 64, 0, 0, by decide +kernel⟩,
    ⟨Tests.served, 0, 0, 0x8000, 64, 33, 0, by decide +kernel⟩,
    ⟨Tests.served3, 3, 0, 0x8000, 64, 0, 0, by exact Tests.served3_denied ..⟩⟩

/-- A state and operands that meet the hypotheses of GenerationsGoWithTheirLastReference. -/
theorem test_meets_GenerationsGoWithTheirLastReference :
    (∃ (s : State) (prof tensor : Nat) (g : Gen),
    mapSorted s.gens = true ∧ tensor < 256) :=
  ⟨State.reset, 0, 0, { num := 0, table := [], st := .old }, by decide +kernel⟩

/-- States and operands that meet the hypotheses of each clause of CollectionTakesTheEmptiestUnit. -/
theorem test_meets_CollectionTakesTheEmptiestUnit :
    (∃ (s : State) (g : FlashGeo) (u : Nat),
    nextVictim s g = some u) ∧
    (∃ (s : State) (g : FlashGeo) (e : Nat × EraseUnit),
    e ∈ s.units ∧ unitInCache s g e.1 = true ∧ unitGone s g e.1 = false ∧ 0 < e.2.written ∧ e.2.opened = none ∧ e.2.pend = false ∧ e.2.failed = false ∧ e.1 ∉ s.victims) :=
  ⟨⟨Tests.crowded, Tests.flash0, 12, by decide +kernel⟩,
    ⟨Tests.crowded, Tests.flash0, (12, Tests.crowded.unit 12), by decide +kernel⟩⟩

/-- A state and operands that meet the hypotheses of TheLowestScoreIsMadeHollowFirst. -/
theorem test_meets_TheLowestScoreIsMadeHollowFirst :
    (∃ (s : State) (h : Nat),
    lowestScore s none = some h) :=
  ⟨{ State.reset with chunks := [(4, Tests.whole)] }, 4, by decide +kernel⟩

/-- States and operands that meet the hypotheses of each clause of SealedTenantsStartOnlyAsSealed. -/
theorem test_meets_SealedTenantsStartOnlyAsSealed :
    (∃ (s u : State) (t : TenantId) (v : Word),
    u = s.writeTntCtrl t.val v ∧ u.tstate t.val = TState.configured.code ∧ u.fld Fd.SEC_TSTAT_KEYSRC t.val ≠ 0 ∧ sqGrant u t.val 0 ≠ 0 ∧ cqGrant u t.val 0 ≠ 0 ∧ membershipsValid u t.val = true ∧ (u.compat = true ∨ windowGiven u t.val = true) ∧ tenantSealed u t.val = true) ∧
    (∃ (s u : State) (t : TenantId) (v : Word),
    u = s.writeTntCtrl t.val v ∧ u.tstate t.val = TState.disabled.code ∧ u.fld Fd.SEC_TSTAT_KEYSRC t.val ≠ 0 ∧ sqGrant u t.val 0 ≠ 0 ∧ cqGrant u t.val 0 ≠ 0 ∧ membershipsValid u t.val = true ∧ (u.compat = true ∨ windowGiven u t.val = true) ∧ tenantSealed u t.val = true) :=
  ⟨⟨Tests.sealedConfigured, Tests.sealedConfigured.writeTntCtrl 0 0, 0, 0, by decide +kernel⟩,
    ⟨Tests.sealedDisabled, Tests.sealedDisabled.writeTntCtrl 0 0, 0, 0, by decide +kernel⟩⟩

/-- A state and operands that meet the hypotheses of QueuePairsStartAtTheirInitialPsns. -/
theorem test_meets_QueuePairsStartAtTheirInitialPsns :
    (∃ (s : State) (q : Fin 65536),
    activateError s q.val = 0) :=
  ⟨Tests.paired { Tests.qp0 with st := 0 } [], 3, by decide +kernel⟩

/-- A state and operands that meet the hypotheses of CommandCrcsAreCrc32c. -/
theorem test_meets_CommandCrcsAreCrc32c :
    (∃ (s : State) (t : Nat) (first : List Word) (bytes : List Byte),
    hdrCrcEn (wordAt first 0) = true) :=
  ⟨State.reset, 0, [0x2000], [], by decide +kernel⟩

/-- A state and operands that meet the hypotheses of RequestsOutsideAnOpenBulkContextAreRefused. -/
theorem test_meets_RequestsOutsideAnOpenBulkContextAreRefused :
    (∃ (s u : State) (link : Fin 2) (m : RingMsg),
    m.dst = ringPos s ∧ u = { s.wake with nextUid := s.nextUid + 1 } ∧ (ctxState u m.ctx ≠ ctxOpen ∨ u.fld Fd.SNL_CTX_CTL_MODE m.ctx ≠ 0)) :=
  ⟨State.reset, { State.reset.wake with nextUid := State.reset.nextUid + 1 }, 0, RingMsg.bare 1 1 0 0 0 0 0, by decide +kernel⟩

/-- States and operands that meet the hypotheses of each clause of GranulesLieWherePlaceSays. -/
theorem test_meets_GranulesLieWherePlaceSays :
    (∃ (s : State) (g r j p : Nat),
    s.rowN = 11 ∧ r = g / 11 ∧ j = g % 11 ∧ p = (r + swzProt s) % 12) ∧
    (∃ (s : State) (g : Nat),
    s.rowN = 11) ∧
    (∃ (s : State) (g h : Nat),
    s.rowN = 11 ∧ (∀ i < swzNsel s, swzMask s i % 2 ^ swzNsel s = 0) ∧ (stackPlace s g).stack = (stackPlace s h).stack ∧ (stackPlace s g).addr = (stackPlace s h).addr) :=
  ⟨⟨State.reset, 25, 2, 3, 2, by decide +kernel⟩,
    ⟨State.reset, 25, by decide +kernel⟩,
    ⟨State.reset, 25, 25, by decide +kernel⟩⟩

namespace Sys2Proof.Tests
open Sys2Proof.Machine

/-! ### Ill-formed commands, one for each check of WellFormed -/

/-- Bus accesses of no bytes, of more than 64, or beyond their line or slot; addresses beyond 64 bits or not aligned. -/
theorem test_illFormed_accesses :
    (Instr.submissionCellWrite 0 0 0 60 (List.replicate 8 0)).wellFormed = false ∧ (Instr.submissionCellWrite 0 0 0 0 []).wellFormed = false ∧
    (Instr.doorbell 0 0 0 0 0).wellFormed = false ∧ (Instr.completionHeadRead 0 0 0 65).wellFormed = false ∧
    (Instr.probeBaseWrite 0 0 0x8000 []).wellFormed = false ∧ (Instr.presenceProbe 0 0 0 128 0 0).wellFormed = false ∧
    (Instr.plainReadShared 0 (2 ^ 64)).wellFormed = false ∧ (Instr.plainReadExclusive 0 (2 ^ 64)).wellFormed = false ∧
    (Instr.plainReadCurrent 0 (2 ^ 64)).wellFormed = false ∧ (Instr.plainWrite 0 60 (List.replicate 8 none)).wellFormed = false ∧
    (Instr.plainWriteback 0 0 [0]).wellFormed = false ∧ (Instr.bisnpResponse 0 0 (some [0])).wellFormed = false ∧
    (Instr.viewLoad 0 60 8).wellFormed = false ∧ (Instr.viewStore 0 60 (List.replicate 8 none) []).wellFormed = false ∧
    (Instr.viewSlotStore 0 4 0).wellFormed = false ∧ (Instr.gatewayStore 0 60 (List.replicate 8 none)).wellFormed = false ∧
    (Instr.gatewayDoorbell 0 4 0).wellFormed = false ∧ (Instr.gatewayLoad 0 60 8).wellFormed = false ∧
    (Instr.unallocatedAccess false false 0 0 0).wellFormed = false ∧ (Instr.registerWrite 67108864 8 0).wellFormed = false ∧
    (Instr.registerReadClear 0 0).wellFormed = false ∧ (Instr.clearPoison 0 32 []).wellFormed = false := by decide

/-- What carries a packet over IPv4, with no checksum. -/
def wire0 : ShWire := { v6 := false, dst := 0, sport := 0, dport := 0, sum := 0, ver := 1, ext := false, paylen := 0 }

/-- Ring messages and Shuttle packets whose fields exceed their widths, and lists of the wrong length. -/
theorem test_illFormed_messages :
    (Instr.getReq 0 { msg0 with dst := 16 }).wellFormed = false ∧ (Instr.getData 0 { msg0 with len := 4097 }).wellFormed = false ∧
    (Instr.ringPut 0 { msg0 with addr := 2 ^ 64 }).wellFormed = false ∧ (Instr.reducePut 0 { msg0 with rtype := 8 }).wellFormed = false ∧
    (Instr.ringAck 0 { msg0 with status := 256 }).wellFormed = false ∧ (Instr.ringControlFrame 0 [] [0, 0, 0] none).wellFormed = false ∧ (Instr.ringDataFrame 0 []).wellFormed = false ∧
    (Instr.camSearch 0 0 0 []).wellFormed = false ∧ (Instr.pfcFrame 0 0 []).wellFormed = false ∧
    (Instr.shuttleSend 0 0 wire0 { sentPut.pkt with dqpn := 65536 } false).wellFormed = false ∧ (Instr.shuttlePut 0 0 wire0 { sentPut.pkt with psn := 2 ^ 24 }).wellFormed = false ∧
    (Instr.nmoReq 0 0 wire0 { sentPut.pkt with code := 256 }).wellFormed = false ∧ (Instr.nmoResp 0 0 wire0 { sentPut.pkt with sqpn := 65536 }).wellFormed = false ∧
    (Instr.flushReq 0 0 wire0 { sentPut.pkt with seq := 2 ^ 24 }).wellFormed = false ∧ (Instr.flushResp 0 0 wire0 { sentPut.pkt with off := 2 ^ 32 }).wellFormed = false ∧
    (Instr.shuttlePut 0 0 { wire0 with ver := 16 } sentPut.pkt).wellFormed = false ∧
    (Instr.shuttleAck 0 0 wire0 { sentPut.pkt with sack := 2 ^ 32 }).wellFormed = false ∧ (Instr.shuttleNak 0 0 wire0 { sentPut.pkt with txc := 2 ^ 48 }).wellFormed = false := by decide

/-- Numbers of hosts, targets, stacks, tenants, groups and temperatures that do not exist. -/
theorem test_illFormed_numbers :
    (Instr.dcAddExtent 0 0 0 [16]).wellFormed = false ∧ (Instr.flashTempPoll [(32, 0, 40)]).wellFormed = false ∧
    (Instr.scrubRow { stack := 12, granule := 0, result := .clean, passMin := none } 0).wellFormed = false ∧
    (Instr.ideKmKeyProg 0 0 256 0).wellFormed = false ∧ (Instr.tenantKey 0 1024 0).wellFormed = false ∧
    (Instr.tenantSeal 0 0 5 0 0 []).wellFormed = false ∧ (Instr.qpKey 0 65536 0).wellFormed = false ∧ (Instr.groupHkey 0 256 0).wellFormed = false ∧
    (Instr.sealQuery 0 1024).wellFormed = false ∧ (Instr.clearEventRecords 0 0 0 false [65536]).wellFormed = false ∧
    (Instr.powerSample 65536 0 0 0 true true 0).wellFormed = false ∧ (Instr.thermalStep 0 0 0 [] 0).wellFormed = false ∧
    (Instr.thermalTrip true 128).wellFormed = false ∧ (Instr.setEventInterruptPolicy 0 []).wellFormed = false := by decide

/-- Commands that can be sent. -/
theorem test_wellFormed :
    (Instr.submissionCellWrite 0 0 0 64 (List.replicate 64 0)).wellFormed = true ∧ (Instr.getReq 0 msg0).wellFormed = true ∧
    (Instr.shuttlePut 0 0 wire0 sentPut.pkt).wellFormed = true ∧ (Instr.plainWrite 0 64 (List.replicate 64 none)).wellFormed = true := by decide

/-! ### Worked values of the spec -/

/-- The table of R308's example. -/
def exampleLengths : List Nat := [2, 2, 3, 3, 4, 4, 5, 5, 5, 5] ++ List.replicate 246 0

/-- R308: the codes of the example. -/
theorem test_example_codes :
    canonical 4 exampleLengths =
      [(0, 2, 0b00), (1, 2, 0b01), (2, 3, 0b100), (3, 3, 0b101), (4, 4, 0b1100), (5, 4, 0b1101), (6, 5, 0b11100), (7, 5, 0b11101), (8, 5, 0b11110), (9, 5, 0b11111)] := by decide

/-- R308: its payload begins 0x19, 0x40. -/
theorem test_example_payload :
    symbolsOf 4 [0x10, 0x32] = [0, 1, 2, 3] ∧ (encodeBits (canonical 4 exampleLengths) [0, 1, 2, 3]).map (packBits 2) = some [0x19, 0x40] := by decide

/-! ### Steps -/

/-- The command in front runs, on the rest of the queue: a NOP in flight ends, and PPS_PULSE still waits. -/
theorem test_step_front :
    (match step ({ running (cmdOf 0x3F [] .ready) with pending := [.nop 7, .ppsPulse 0] } : State) with
      | .next t => t.inflight == [] && t.pending == [.ppsPulse 0]
      | _ => false) = true := by decide +kernel

/-- The table gives no word a command, so the host's placement leaves the state as it is. -/
theorem test_no_word : (State.reset.withFetchWord 64 0 == State.reset) = true := by decide +kernel

/-- The part waits right after reset: held in its first cold reset, DTIME stands. -/
theorem test_reset_waits : (match step State.reset with | .next t => t == State.reset | _ => false) = true := by decide +kernel

end Sys2Proof.Tests
end

/-!
Field writes by access code (R17): where the fields of a register lie, and what a write of one field leaves in each.
-/
namespace Sys2Proof.Machine

/-- Every field lies within the 64 bits of its register. -/
theorem RegKind.fields_within (k : RegKind) : ∀ f ∈ k.fields, f.lo ≤ f.hi ∧ f.hi < 64 := by cases k <;> decide

/-- No two fields of a register share a bit. -/
theorem RegKind.fields_apart (k : RegKind) : ∀ f ∈ k.fields, ∀ g ∈ k.fields, f ≠ g → f.hi < g.lo ∨ g.hi < f.lo := by
  cases k <;> decide

/-- A field of a register reads a value of its width that is set. -/
theorem State.fld_setFld_fits {k : RegKind} (s : State) {f : Field} (v i : Nat) (hf : f ∈ k.fields) (hv : v < 2 ^ (f.hi + 1 - f.lo)) :
    (s.setFld f v i).fld f i = v := by
  obtain ⟨hlo, hhi⟩ := k.fields_within f hf
  rw [s.fld_setFld_same f v i hlo hhi, Nat.mod_eq_of_lt hv]

/-- Setting a field of a register leaves its other fields, and every field of its other copies. -/
theorem State.fld_setFld_other {k : RegKind} (s : State) {f g : Field} (v i j : Nat) (hf : f ∈ k.fields) (hg : g ∈ k.fields) (h : f ≠ g ∨ i ≠ j) :
    (s.setFld f v i).fld g j = s.fld g j := by
  by_cases hi : i = j
  · have hne : f ≠ g := h.resolve_right (not_not_intro hi)
    obtain ⟨hlo, hhi⟩ := k.fields_within f hf
    exact s.fld_setFld_apart f g v i j hlo hhi (k.fields_within g hg).1 (k.fields_apart f hf g hg hne)
  · exact s.fld_setFld_ne f g v i j fun e => hi e.2

/-- A field write either leaves the state or sets that one field. -/
theorem State.writeField_cases (s : State) (f : Field) (i : Nat) (v : Word) :
    s.writeField f i v = s ∨ ∃ x, s.writeField f i v = s.setFld f x i := by
  unfold State.writeField
  cases f.acc with
  | rw | rws => exact .inr ⟨_, rfl⟩
  | rwl =>
    by_cases hl : s.flag Fd.GLB_LOCK
    · exact .inl (if_pos hl)
    · exact .inr ⟨_, if_neg hl⟩
  | w1c | w1s =>
    by_cases h1 : bitsOf v f.hi f.lo = 1
    · exact .inr ⟨_, if_pos h1⟩
    · exact .inl (if_neg h1)
  | ro | wo => exact .inl rfl

/-- A field that takes the value written, RWL while the lock is clear (R17). -/
theorem State.writeField_takes (s : State) (f : Field) (i : Nat) (v : Word)
    (h : f.acc = .rw ∨ f.acc = .rws ∨ f.acc = .rwl ∧ s.flag Fd.GLB_LOCK = false) : s.writeField f i v = s.setFld f (bitsOf v f.hi f.lo) i := by
  unfold State.writeField
  rcases h with h | h | ⟨h, hl⟩
  · rw [h]
  · rw [h]
  · simp [h, hl]

/-- A write that a field ignores: RO, RWL under the lock, and a 0 to W1C and W1S (R17). -/
theorem State.writeField_ignores (s : State) (f : Field) (i : Nat) (v : Word)
    (h : f.acc = .ro ∨ f.acc = .rwl ∧ s.flag Fd.GLB_LOCK = true ∨ (f.acc = .w1c ∨ f.acc = .w1s) ∧ bitsOf v f.hi f.lo = 0) :
    s.writeField f i v = s := by
  unfold State.writeField
  rcases h with h | ⟨h, hl⟩ | ⟨h | h, h0⟩
  · rw [h]
  · simp [h, hl]
  · simp [h, h0]
  · simp [h, h0]

/-- A 1 to a W1C field puts 0 into it, and a 1 to a W1S field puts 1 (R17). -/
theorem State.writeField_one (s : State) (f : Field) (i : Nat) (v : Word) (h : f.acc = .w1c ∨ f.acc = .w1s) (h1 : bitsOf v f.hi f.lo = 1) :
    s.writeField f i v = s.setFld f (if f.acc = .w1c then 0 else 1) i := by
  unfold State.writeField
  rcases h with h | h
  · simp [h, h1]
  · simp [h, h1]

/-- Settles O49: each access code's write is a set of that field or nothing, and the fields of a register lie apart. -/
theorem registerFieldsTakeWritesByTheirAccessCodes : Obligations.RegisterFieldsTakeWritesByTheirAccessCodes := by
  refine ⟨?takes, ?ignores, ?one, ?rest⟩
  case takes =>
    intro s k f i v hf h
    rw [s.writeField_takes f i v h]
    exact s.fld_setFld_fits _ i hf (bitsOf_lt v f.hi f.lo)
  case ignores => exact fun s _ f i v _ h => s.writeField_ignores f i v h
  case one =>
    intro s k f i v hf h h1
    have hlt : 1 < 2 ^ (f.hi + 1 - f.lo) := h1 ▸ bitsOf_lt v f.hi f.lo
    rw [s.writeField_one f i v h h1]
    exact s.fld_setFld_fits _ i hf (by split <;> omega)
  case rest =>
    intro s k f g i j v hf hg h
    have hkeeps : Keeps (regBit k) s (s.writeField f i v) := k.fields_reg f hf ▸ s.writeField_keeps f i v
    have hmask : regBit k ||| partMask [.reg k] = partMask [.reg k] := by
      rw [show partMask [.reg k] = regBit k by simp [partMask, regBit, Part.idx, Nat.pow_add]]
      exact Nat.or_self _
    refine ⟨?_, hkeeps.changesOnly hmask⟩
    obtain hs | ⟨x, hs⟩ := s.writeField_cases f i v
    · rw [hs]
    · rw [hs]
      exact s.fld_setFld_other x i j hf hg h

end Sys2Proof.Machine

/-!
What register accesses, queries, steward work and pattern commands may change, from the frame of the operation that each command's row is.
-/
namespace Sys2Proof.Machine

/-- A frame apart from a list of pieces leaves them as they were. -/
theorem Keeps.unchanged {w : Nat} {l : List Part} {s t : State} (h : Keeps w s t) (hw : ∀ p ∈ l, w.testBit p.idx = false) : Unchanged l s t :=
  fun p hp => h.same p (hw p hp)

/-- A command whose operation has a frame within a list may change only the pieces of that list. -/
theorem mayChange_of_keeps {i : Instr} {w : Nat} {l : List Part} {s t : State} (k : Keeps w s t) (h : exec i s = .next t)
    (hw : w ||| partMask l = partMask l := by decide +kernel) : MayChange i s l := ⟨t, h, k.changesOnly hw⟩

/-- A register write that answers a next state is the operation of R17. -/
theorem registerWrite_next {s t : State} {off size : Nat} {v : Word} (h : exec (.registerWrite off size v) s = .next t) :
    t = opRegisterWrite off size v s := by
  simp only [exec, execRegisterWrite] at h
  split at h
  · exact nomatch h
  · exact (Host.Outcome.next.inj h).symm

/-- A register read that answers a next state is the operation of R723. -/
theorem registerReadClear_next {s t : State} {off size : Nat} (h : exec (.registerReadClear off size) s = .next t) :
    t = opRegisterReadClear off size s := by
  simp only [exec, execRegisterReadClear] at h
  split at h
  · exact nomatch h
  · exact (Host.Outcome.next.inj h).symm

/-- Settles O39: every row is its operation, whose frame lies within the list stated. -/
theorem registerStewardAndPatternFrames : Obligations.RegisterStewardAndPatternFrames := by
  refine ⟨?registerWrite, ?registerReadClear, ?lockSet, ?logClear, ?logReadIndex, ?nodeQuery, ?pageQuery, ?generationQuery, ?histogramConfig,
    ?counterDecay, ?demotePage, ?stashPage, ?stashDurable, ?stagingComplete, ?makeHollow, ?unlinkHollow, ?quotaWaitTimeout, ?spaceWaitTimeout,
    ?frameCompact, ?patternStage, ?patternActivate, ?patternAbort, ?patternQuery, ?patternProgramDone, ?panelSwapStage, ?panelSwapActivate,
    ?panelSwapAbort, ?panelSwapQuery, ?panelSwapProgramDone, ?patternPersistDone⟩
  case registerWrite =>
    intro s off size value t h
    rw [registerWrite_next h]
    exact (opRegisterWrite_keeps off size value s).unchanged (by decide)
  case registerReadClear =>
    intro s off size t h
    rw [registerReadClear_next h]
    exact (opRegisterReadClear_keeps off size s).unchanged (by decide)
  case lockSet => exact fun s v => mayChange_of_keeps (opLockSet_keeps v s) rfl
  case logClear => exact fun s v => mayChange_of_keeps (opLogClear_keeps v s) rfl
  case logReadIndex => exact fun s v => mayChange_of_keeps (opLogReadIndex_keeps v s) rfl
  case nodeQuery => exact fun s v => mayChange_of_keeps (opNodeQuery_keeps v s) rfl
  case pageQuery => exact fun s v => mayChange_of_keeps (opPageQuery_keeps v s) rfl
  case generationQuery => exact fun s v => mayChange_of_keeps (opGenerationQuery_keeps v s) rfl
  case histogramConfig => exact fun s v => mayChange_of_keeps (opHistogramConfig_keeps v s) rfl
  case counterDecay => exact fun s => mayChange_of_keeps (opCounterDecay_keeps s) rfl
  case demotePage => exact fun s holder => mayChange_of_keeps (opDemotePage_keeps holder s) rfl
  case stashPage => exact fun s h layer => mayChange_of_keeps (opStashPage_keeps h.val layer.val s) rfl
  case stashDurable => exact fun s h layer => mayChange_of_keeps (opStashDurable_keeps h.val layer.val s) rfl
  case stagingComplete =>
    exact fun s h layer picks ok => mayChange_of_keeps (opStagingComplete_keeps h.val layer.val picks ok s) rfl
  case makeHollow => exact fun s holder => mayChange_of_keeps (opMakeHollow_keeps holder s) rfl
  case unlinkHollow => exact fun s => mayChange_of_keeps (opUnlinkHollow_keeps s) rfl
  case quotaWaitTimeout => exact fun s uid => mayChange_of_keeps (opQuotaWaitTimeout_keeps uid s) rfl
  case spaceWaitTimeout => exact fun s uid => mayChange_of_keeps (opSpaceWaitTimeout_keeps uid s) rfl
  case frameCompact => exact fun s base picks => mayChange_of_keeps (opFrameCompact_keeps base picks s) rfl
  case patternStage => exact fun s fn w0 w1 data => mayChange_of_keeps (opPatternStage_keeps fn.val w0 w1 data s) rfl
  case patternActivate => exact fun s fn w0 => mayChange_of_keeps (opPatternActivate_keeps fn.val w0 s) rfl
  case patternAbort => exact fun s fn w0 => mayChange_of_keeps (opPatternAbort_keeps fn.val w0 s) rfl
  case patternQuery => exact fun s fn w0 => mayChange_of_keeps (opPatternQuery_keeps fn.val w0 s) rfl
  case patternProgramDone => exact fun s ok => mayChange_of_keeps (opPatternProgramDone_keeps ok s) rfl
  case panelSwapStage => exact fun s fn w0 w1 data => mayChange_of_keeps (opPanelSwapStage_keeps fn.val w0 w1 data s) rfl
  case panelSwapActivate => exact fun s fn w0 => mayChange_of_keeps (opPanelSwapActivate_keeps fn.val w0 s) rfl
  case panelSwapAbort => exact fun s fn w0 => mayChange_of_keeps (opPanelSwapAbort_keeps fn.val w0 s) rfl
  case panelSwapQuery => exact fun s fn w0 => mayChange_of_keeps (opPanelSwapQuery_keeps fn.val w0 s) rfl
  case panelSwapProgramDone => exact fun s ok => mayChange_of_keeps (opPanelSwapProgramDone_keeps ok s) rfl
  case patternPersistDone => exact fun s => mayChange_of_keeps (opPatternPersistDone_keeps s) rfl

end Sys2Proof.Machine

/-!
What an access of BAR0 comes to, by its size and by where its offset lies (R17, R19, R678, R723, R725), and the rows of the lock and of the LOG registers (R730, R741).
-/
namespace Sys2Proof.Machine

/-! ### The sizes that BAR0 takes (R723) -/

/-- Eight bytes, naturally aligned, are taken by both directions. -/
theorem bar0Size_eight (wr : Bool) {off : Nat} (h : off % 8 = 0) : bar0Size wr off 8 = true := by
  simp [bar0Size, h]

/-! ### Unallocated offsets -/

/-- A stray write is recorded and dropped. -/
theorem State.strayBar0_write (s : State) (off size : Nat) :
    s.strayBar0 true off size = s.unallocated false true (operatorHost s) size off := rfl

/-- A stray read is recorded and answers all ones. -/
theorem State.strayBar0_read (s : State) (off size : Nat) :
    s.strayBar0 false off size =
      (s.unallocated false false (operatorHost s) size off).emit (.readData (operatorHost s) (allOnes size) false) := by
  unfold State.strayBar0
  simp only [Bool.false_eq_true, if_false, operatorHost_unallocated]

/-- An access to an unallocated offset of BAR0 is a stray one (R19). -/
theorem unallocatedAccess_bar0 {s : State} {wr : Bool} {off : Fin 67108864} {size : Nat} (host : HostId) (h : bar0Stray s wr off.val size = true) :
    exec (.unallocatedAccess false wr host off size) s = .next (s.strayBar0 wr off.val size) := by
  simp [exec, execUnallocatedAccess, opUnallocatedAccess, h]

/-- An allowed access of BAR2 to an offset of a tenant window that is not laid out: it is recorded, and a read answers all ones (R725). -/
theorem unallocatedAccess_bar2 {s : State} {wr : Bool} {host : HostId} {off : Fin 67108864} {e : Nat × Nat} (size : Nat)
    (hout : windowLaidOut (off.val % 65536) = false) (hallow : hrtLookup s host.val true off.val wr .other = some e) :
    exec (.unallocatedAccess true wr host off size) s = .next (if wr then s.unallocated true true host.val size off.val
      else (s.unallocated true false host.val size off.val).emit (.readData host.val (allOnes size) false)) := by
  cases wr <;> simp [exec, execUnallocatedAccess, opUnallocatedAccess, hout, hallow]

/-! ### Accesses of BAR0 -/

/-- A write of a size that BAR0 does not take is a stray one. -/
theorem registerWrite_size {off size : Nat} (s : State) (v : Word) (h : bar0Size true off size = false) :
    exec (.registerWrite off size v) s = .next (s.strayBar0 true off size) := by
  simp [exec, execRegisterWrite, opRegisterWrite, h]

/-- A read of a size that BAR0 does not take is a stray one. -/
theorem registerReadClear_size {off size : Nat} (s : State) (h : bar0Size false off size = false) :
    exec (.registerReadClear off size) s = .next (s.strayBar0 false off size) := by
  simp [exec, execRegisterReadClear, opRegisterReadClear, h]

/-- A whole-register write takes effect where BAR0 takes writes, and is dropped where it does not yet. -/
theorem registerWrite_reg {off : Nat} {k : RegKind} {i : Nat} (s : State) (v : Word) (h : bar0At off = .reg k i) (h8 : off % 8 = 0) :
    exec (.registerWrite off 8 v) s = .next (if bar0Takes s off then s.regWrite k i v else s) := by
  simp [exec, execRegisterWrite, opRegisterWrite, h, bar0Size_eight true h8]

/-- Whole bytes, sliced whole. -/
theorem sliceAt_all (bs : List Byte) : sliceAt bs 0 bs.length = bs := by
  apply List.ext_getElem
  · simp [sliceAt]
  · intro n _ h
    simp [sliceAt, List.getElem?_eq_getElem h]

/-- A read of a whole register answers its eight bytes and clears what a read clears. -/
theorem registerReadClear_reg {off : Nat} {k : RegKind} {i : Nat} (s : State) (h : bar0At off = .reg k i) (h8 : off % 8 = 0) :
    exec (.registerReadClear off 8) s =
      .next ((s.emit (.readData (operatorHost s) (leBytes 8 (s.regRead k i).toNat) false)).clearRead k i 0 63) := by
  have hslice : sliceAt (leBytes 8 (s.regRead k i).toNat) 0 8 = leBytes 8 (s.regRead k i).toNat := by
    simpa only [leBytes_length] using sliceAt_all (leBytes 8 (s.regRead k i).toNat)
  simp [exec, execRegisterReadClear, opRegisterReadClear, h, h8, bar0Size_eight false h8, hslice]

/-- A write that BAR0 takes stops at the DBG block while that is the maker's (R644, R722). -/
theorem registerWrite_debug {s : State} {off size : Nat} (v : Word) (h : bar0At off = .debug) (ho : debugOpen s = true)
    (hs : bar0Size true off size = true) : exec (.registerWrite off size v) s = .refused .debugBlock := if_pos ⟨hs, h, ho⟩

/-- A read that BAR0 takes stops there too. -/
theorem registerReadClear_debug {s : State} {off size : Nat} (h : bar0At off = .debug) (ho : debugOpen s = true)
    (hs : bar0Size false off size = true) : exec (.registerReadClear off size) s = .refused .debugBlock := if_pos ⟨hs, h, ho⟩

/-! ### The lock and LOG -/

/-- GLB.LOCK is set by a 1 and stays set. -/
theorem opLockSet_lock {s : State} {v : Word} (h : bitsOf v 0 0 = 1 ∨ s.flag Fd.GLB_LOCK = true) : (opLockSet v s).flag Fd.GLB_LOCK = true := by
  unfold opLockSet
  by_cases h1 : bitsOf v 0 0 = 1
  · rw [if_pos h1, State.flag, State.fld_setFld_same _ _ _ _ (by decide) (by decide)]; rfl
  · rw [if_neg h1]
    exact h.resolve_left h1

/-- LOG_CTL.CLEAR empties the ring, and its oldest record is the next to be written. -/
theorem opLogClear_clear {s : State} {v : Word} (h : bitsOf v 0 0 = 1) :
    (opLogClear v s).log = [] ∧ (opLogClear v s).fld Fd.LOG_PTR_WRITTEN = s.fld Fd.LOG_PTR_WRITTEN ∧
      (opLogClear v s).fld Fd.LOG_PTR_OLDEST = s.fld Fd.LOG_PTR_WRITTEN := by
  unfold opLogClear
  rw [if_pos h]
  refine ⟨rfl, ?written, ?oldest⟩
  case written => exact State.fld_setFld_apart _ _ _ _ _ _ (by decide) (by decide) (by decide) (by decide)
  case oldest =>
    have hlt : s.fld Fd.LOG_PTR_WRITTEN < 2 ^ 32 := bitsOf_lt (s.reg .LOG_PTR) Fd.LOG_PTR_WRITTEN.hi Fd.LOG_PTR_WRITTEN.lo
    rw [State.fld_setFld_same _ _ _ _ (by decide) (by decide)]
    exact Nat.mod_eq_of_lt hlt

/-- LOG_REC0 to LOG_REC3 hold the record that LOG_RDIDX names, or zero. -/
theorem opLogReadIndex_rec (s : State) (v : Word) {j : Nat} (h : j < 4) :
    (opLogReadIndex v s).reg .LOG_REC j = wordAt (((logRecord s (bitsOf v 31 0)).map logWords).getD [0, 0, 0, 0]) j := by
  unfold opLogReadIndex
  extract_lets n ws
  rw [reg_foldSet, if_pos ⟨rfl, h⟩]
  unfold ws
  cases logRecord s n <;> rfl

/-- Settles O14, clause by clause from what each access and row comes to. -/
theorem registerAccessesComplete : Obligations.RegisterAccessesComplete := by
  refine ⟨?stray, ?window, ?write, ?dropped, ?debug, ?size, ?read, ?lock, ?clear, ?index⟩
  case stray =>
    intro s wr host off size h
    rw [unallocatedAccess_bar0 host h]
    cases wr with
    | false => rw [State.strayBar0_read, if_neg Bool.false_ne_true]
    | true => rw [State.strayBar0_write, if_pos rfl]
  case window => exact fun s wr host off size e hout hallow => unallocatedAccess_bar2 size hout hallow
  case write =>
    intro s off k i v h h8 ht
    rw [registerWrite_reg s v h h8, if_pos ht]
  case dropped =>
    intro s off k i v h ht h8
    rw [registerWrite_reg s v h h8, if_neg (by simp [ht])]
  case debug => exact fun s off size v h ho => ⟨registerWrite_debug v h ho, registerReadClear_debug h ho⟩
  case size =>
    intro s off size v
    refine ⟨fun h => ?_, fun h => ?_⟩
    · rw [registerWrite_size s v h, State.strayBar0_write]
    · rw [registerReadClear_size s h, State.strayBar0_read]
  case read => exact fun s off k i h h8 => registerReadClear_reg s h h8
  case lock =>
    exact fun s v h => completes_next rfl ⟨opLockSet_lock h, (opLockSet_keeps v s).changesOnly⟩
  case clear =>
    intro s v h
    obtain ⟨hlog, hwritten, holdest⟩ := opLogClear_clear (s := s) h
    exact completes_next rfl ⟨hlog, hwritten, holdest, (opLogClear_keeps v s).changesOnly (by decide +kernel)⟩
  case index =>
    exact fun s v j h => completes_next rfl ⟨opLogReadIndex_rec s v h, (opLogReadIndex_keeps v s).changesOnly (by decide +kernel)⟩

end Sys2Proof.Machine

/-!
What the events of the fault chapter come to: scrub, a stack that is lost, tested or retired, the phases of the rebuild, a core that retires, a steward's heartbeat and
the capsule's answers (R39, R577 to R605).
-/
namespace Sys2Proof.Machine

/-! ### The part's state (R582) -/

/-- A field of another register, or another field of RAS_STATUS, leaves the part's state as it is. -/
theorem partState_setFld (s : State) (f : Field) (v i : Nat) (hf : f.reg ≠ .RAS_STATUS ∨ f ∈ RegKind.RAS_STATUS.fields ∧ f ≠ Fd.RAS_STATUS_STATE) :
    (s.setFld f v i).fld Fd.RAS_STATUS_STATE = s.fld Fd.RAS_STATUS_STATE := by
  rcases hf with h | ⟨hm, hne⟩
  · exact s.fld_setFld_reg f Fd.RAS_STATUS_STATE v i 0 h
  · exact s.fld_setFld_other v i 0 hm (by decide) (.inl hne)

/-- An event record leaves the part's state as it is. -/
theorem partState_rasEvent (s : State) (code : Nat) (island stack : Option Nat) (cause addr : Nat) :
    (s.rasEvent code island stack cause addr).fld Fd.RAS_STATUS_STATE = s.fld Fd.RAS_STATUS_STATE :=
  fld_of ((s.rasEvent_keeps code island stack cause addr).same (.reg .RAS_STATUS) (by decide)) 0

/-- PGT_RECOV follows the part's state and leaves it. -/
theorem partState_recovSync (s : State) : s.recovSync.fld Fd.RAS_STATUS_STATE = s.fld Fd.RAS_STATUS_STATE :=
  fld_of (s.recovSync_keeps.same (.reg .RAS_STATUS) (by decide)) 0

/-- A stack that is lost does not itself change the part's state: what follows the loss does. -/
theorem partState_markLost (s : State) (st cause : Nat) : (s.markLost st cause).fld Fd.RAS_STATUS_STATE = s.fld Fd.RAS_STATUS_STATE := by
  unfold State.markLost
  extract_lets s₁ s₂ s₃
  have h₂ : s₂.fld Fd.RAS_STATUS_STATE = s₁.fld Fd.RAS_STATUS_STATE := by
    unfold s₂
    split
    · rfl
    · exact partState_setFld s₁ _ _ _ (.inr (by decide))
  calc ((s₃.rasEvent 0x0102 none (some st) cause 0).requestReplace 0).fld Fd.RAS_STATUS_STATE
      = s₃.fld Fd.RAS_STATUS_STATE := by rw [requestReplace_state, partState_rasEvent]
    _ = s₂.fld Fd.RAS_STATUS_STATE := partState_setFld s₂ _ _ _ (.inl (by decide))
    _ = s.fld Fd.RAS_STATUS_STATE := h₂.trans (partState_setFld s _ _ _ (.inr (by decide)))

/-! ### Scrub (R577 to R581) -/

/-- R580: outside STANDBY scrub treats a row as it found it where the named stack reads, and the end of a pass is counted with its minutes. -/
theorem opScrubRow_reads {s : State} {r : ScrubRow} (hm : mediaReady s = true) (hp : s.fld Fd.PWR_STATUS_PSTATE ≠ 2)
    (hg : stackGone s r.stack = false) (hr : (rowStacks s).contains r.stack = true) :
    opScrubRow r s = match r.passMin with
      | some m => ((s.scrubResult r).addFld Fd.RAS_SCRUB_PASSES 1).setFld Fd.RAS_SCRUB_LASTMIN (min m (2 ^ 32 - 1))
      | none => s.scrubResult r := by
  have hgate : ¬(!mediaReady s || s.fld Fd.PWR_STATUS_PSTATE == 2 || stackGone s r.stack || !(rowStacks s).contains r.stack) = true := by
    rw [hm, hg, hr]
    simpa using hp
  refine (if_neg hgate).trans ?_
  cases r.passMin <;> rfl

/-- R578: a corrected error is one more against its stack. -/
theorem scrubResult_corrected (s : State) {r : ScrubRow} (h : r.result = .corrected) : s.scrubResult r = s.addFld Fd.RAS_HBM_CORR 1 r.stack := by
  unfold State.scrubResult
  rw [h]

/-! ### Stacks (R582 to R587, R591) -/

/-- R583, R587: the first loss of a stack in service degrades the part and begins a rebuild. -/
theorem loseStack_inService {s : State} {st : Nat} (cause : Nat) (hl : stackLost s st = false) (hs : s.fld Fd.RAS_HBM_STATE st = 0)
    (hp : s.fld Fd.RAS_STATUS_STATE < 2) : s.loseStack st cause = (((s.markLost st cause).setPart 2).recovSync).beginRebuild st := by
  have hfailed : partFailed (s.markLost st cause) = false := by
    rw [partFailed, partState_markLost]
    exact beq_false_of_ne (by omega)
  have hsecond : (s.fld Fd.RAS_STATUS_STATE == 2) = false := beq_false_of_ne (by omega)
  simp [State.loseStack, hl, hs, hfailed, hsecond]

/-- The named stack goes out of service for its test: the part remembers the state it was in, and what shows the test follows. -/
def State.stackUnderTest (s : State) : State :=
  let u : State := { s.setFld Fd.RAS_CTL_ERR 0 with preTest := s.fld Fd.RAS_STATUS_STATE }
  let u := (u.setFld Fd.RAS_STATUS_SELFTEST 1).setFld Fd.RAS_HBM_STATE 1 (s.fld Fd.RAS_CTL_STACK)
  (u.setFld Fd.RAS_STATUS_INSVC (u.fld Fd.RAS_STATUS_INSVC - 1)).setFld Fd.PGT_RECOV_SELFTEST 1

/-- R591: SELFTEST of a stack that RAS_CTL may name, in a part that is neither DEGRADED nor busy with a rebuild or a test. -/
theorem opSelftest_begins {s u : State} {v : Word} (hu : s.writeRasCtl v = u) (hp : u.fld Fd.RAS_STATUS_STATE < 2)
    (hr : u.flag Fd.RAS_STATUS_REBUILD = false) (ht : u.flag Fd.RAS_STATUS_SELFTEST = false) (hn : namedStack u = true) :
    opSelftest v s = (u.stackUnderTest.setPart 2).recovSync := by
  have hidle : ¬(1 < u.fld Fd.RAS_STATUS_STATE ∨ u.flag Fd.RAS_STATUS_REBUILD ∨ u.flag Fd.RAS_STATUS_SELFTEST) := by
    rintro (h | h | h)
    · exact absurd h (Nat.not_lt.2 (Nat.le_of_lt_succ hp))
    · exact Bool.false_ne_true (hr.symm.trans h)
    · exact Bool.false_ne_true (ht.symm.trans h)
  have hnamed : ¬(!namedStack u) = true := by simp [hn]
  subst hu
  exact (if_neg hidle).trans (if_neg hnamed)

theorem stackUnderTest_preTest (s : State) : s.stackUnderTest.preTest = s.fld Fd.RAS_STATUS_STATE := rfl

/-- The named stack reads as under test. -/
theorem stackUnderTest_state (s : State) : s.stackUnderTest.fld Fd.RAS_HBM_STATE (s.fld Fd.RAS_CTL_STACK) = 1 := by
  unfold State.stackUnderTest
  rw [State.fld_setFld_reg _ _ _ _ _ _ (by decide), State.fld_setFld_reg _ _ _ _ _ _ (by decide)]
  exact State.fld_setFld_fits (k := .RAS_HBM) _ 1 _ (by decide) (by decide)

/-- R582: a part that becomes DEGRADED keeps what stands outside its state, PGT_RECOV and the sensors. -/
theorem degraded_keeps (s : State) : Keeps (partMask [.mctp, .reg .RAS_STATUS, .reg .PGT_RECOV]) s (s.setPart 2).recovSync := by
  refine .step ?_ (State.recovSync_keeps ..) (by decide +kernel)
  exact .step (.refl ..) (State.setPart_keeps ..) (by decide +kernel)

/-- R591: the stack named by RAS_CTL is under test, the part is DEGRADED, and it remembers the state it was in. -/
theorem opSelftest_degrades {s u : State} {v : Word} (hu : s.writeRasCtl v = u) (hp : u.fld Fd.RAS_STATUS_STATE < 2)
    (hr : u.flag Fd.RAS_STATUS_REBUILD = false) (ht : u.flag Fd.RAS_STATUS_SELFTEST = false) (hn : namedStack u = true) :
    (opSelftest v s).preTest = u.fld Fd.RAS_STATUS_STATE ∧ (opSelftest v s).fld Fd.RAS_STATUS_STATE = 2 ∧
      (opSelftest v s).fld Fd.RAS_HBM_STATE (u.fld Fd.RAS_CTL_STACK) = 1 := by
  have hk := degraded_keeps u.stackUnderTest
  rw [opSelftest_begins hu hp hr ht hn]
  refine ⟨(hk.same .preTest (by decide +kernel)).trans (stackUnderTest_preTest u), ?state, ?stack⟩
  case state => rw [partState_recovSync, setPart_state _ 2 (by decide)]
  case stack => rw [fld_of (hk.same (.reg .RAS_HBM) (by decide +kernel)), stackUnderTest_state]

/-- R591: a self-test that passes, in a part that has not FAILED: the stack is in service again, and the part as it was before. -/
theorem opSelftestDone_pass {s : State} {st : Nat} (ht : testedStack s = some st) (hf : partFailed s = false) :
    opSelftestDone true s = ((((((((s.setFld Fd.RAS_STATUS_SELFTEST 0).setFld Fd.RAS_HBM_STATE 0 st).setFld Fd.RAS_STATUS_INSVC
      (((s.setFld Fd.RAS_STATUS_SELFTEST 0).setFld Fd.RAS_HBM_STATE 0 st).fld Fd.RAS_STATUS_INSVC + 1)).setFld Fd.PGT_RECOV_SELFTEST 0).setPart s.preTest)).recovSync).rasEventAt
        0 0x010D none (some st) 0 0) := by
  unfold opSelftestDone
  rw [ht]
  dsimp only
  rw [if_pos rfl, if_neg]
  · rfl
  · rw [partFailed, partState_setFld _ _ _ _ (.inl (by decide)), partState_setFld _ _ _ _ (.inr (by decide)),
      partState_setFld _ _ _ _ (.inl (by decide)), partState_setFld _ _ _ _ (.inr (by decide)), ← partFailed, hf]
    exact Bool.false_ne_true

/-- R591: a self-test that fails loses the stack. -/
theorem opSelftestDone_fail {s : State} {st : Nat} (ht : testedStack s = some st) :
    opSelftestDone false s = (s.rasEventAt 2 0x010D none (some st) 0 0).loseStack st 5 := by
  unfold opSelftestDone
  rw [ht]
  exact if_neg Bool.false_ne_true

/-- R583: RETIRE_STACK of a stack that RAS_CTL may name. -/
theorem opRetireStack_named {s : State} {v : Word} (h : namedStack (s.writeRasCtl v) = true) :
    opRetireStack v s = ((s.writeRasCtl v).setFld Fd.RAS_CTL_ERR 0).loseStack ((s.writeRasCtl v).fld Fd.RAS_CTL_STACK) 6 :=
  if_neg (by simp [h])

/-! ### The rebuild (R586 to R589, R601) -/

/-- R587: copying begins once the top of the data space is empty. -/
theorem opRebuildCopyStart_begins {s : State} (h1 : s.fld Fd.RAS_REBUILD_PHASE = 1) (h2 : s.fld Fd.RAS_STATUS_STATE = 2) (ht : topEmpty s = true) :
    opRebuildCopyStart s = s.setFld Fd.RAS_REBUILD_PHASE 2 := if_pos ⟨h1, h2, ht⟩

/-- R601: a rebuild that has been freeing for more than 60 s warns once. -/
theorem opRebuildWaitingForSpace_warns {s : State} (h1 : s.fld Fd.RAS_REBUILD_PHASE = 1) (hw : s.rebuildWarned = false)
    (ht : s.rebuildAt + 60000000000 < s.dtime) :
    opRebuildWaitingForSpace s = ({ s with rebuildWarned := true } : State).rasEvent 0x0105 none (some (s.fld Fd.RAS_REBUILD_STACK)) 0 0 :=
  if_pos ⟨h1, by rw [hw]; rfl, ht⟩

/-- The new layout with its parity, before the registers follow it. -/
def rebuiltParity (s : State) : State :=
  let u : State := { rebuiltLayout s with parity := [] }
  u.reparity (frameRows u)

/-- The registers that follow the layout at the end of a rebuild, and the part's state. -/
def State.rebuildSettles (s : State) : State :=
  let u := s.setFld Fd.RAS_REBUILD_PHASE 0
  (((u.setFld Fd.RAS_REBUILD_DONEGIB (u.fld Fd.RAS_REBUILD_TOTALGIB)).setFld Fd.RAS_STATUS_REBUILD 0).setPart 1).capPlmax

/-- R589: a rebuild that copies ends in the new layout, whose change is recorded with event 0x0104. -/
theorem opRebuildComplete_ends {s : State} (h1 : s.fld Fd.RAS_REBUILD_PHASE = 2) (h2 : s.fld Fd.RAS_STATUS_STATE = 2) :
    opRebuildComplete s = ((rebuiltParity s).rebuildSettles.geoBump 5).rasEvent 0x0104 none (some (s.fld Fd.RAS_REBUILD_STACK)) 0 0 :=
  if_neg (by simp [h1, h2])

/-- Settling changes registers and the part's sensor. -/
theorem State.rebuildSettles_keeps (s : State) :
    Keeps (partMask [.mctp, .reg .RAS_REBUILD, .reg .RAS_STATUS, .reg .PGT_RECOV, .reg .CXL_PLAIN]) s s.rebuildSettles := by
  unfold State.rebuildSettles
  refine .step ?_ (State.capPlmax_keeps ..) (by decide +kernel)
  refine .step ?_ (State.setPart_keeps ..) (by decide +kernel)
  refine .step ?_ (State.setFld_keeps ..) (by decide +kernel)
  refine .step ?_ (State.setFld_keeps ..) (by decide +kernel)
  exact .step (.refl ..) (State.setFld_keeps ..) (by decide +kernel)

/-- What the end of a rebuild records leaves the layout as the rebuilt one. -/
theorem opRebuildComplete_same {s : State} (h1 : s.fld Fd.RAS_REBUILD_PHASE = 2) (h2 : s.fld Fd.RAS_STATUS_STATE = 2) (p : Part) (hp : p = .rowN ∨ p = .cacheSf) :
    p.same (rebuiltParity s) (opRebuildComplete s) := by
  have hs : p.same (rebuiltParity s) (rebuiltParity s).rebuildSettles := (State.rebuildSettles_keeps _).same p (by rcases hp with rfl | rfl <;> decide +kernel)
  have hg : p.same (rebuiltParity s).rebuildSettles ((rebuiltParity s).rebuildSettles.geoBump 5) :=
    (State.geoBump_keeps ..).same p (by rcases hp with rfl | rfl <;> decide)
  rw [opRebuildComplete_ends h1 h2]
  exact p.same_trans (p.same_trans hs hg) ((State.rasEvent_keeps ..).same p (by rcases hp with rfl | rfl <;> decide))

/-- R586, R589: the layout after a rebuild, and one more geometry generation. -/
theorem opRebuildComplete_layout {s : State} (h1 : s.fld Fd.RAS_REBUILD_PHASE = 2) (h2 : s.fld Fd.RAS_STATUS_STATE = 2) :
    (opRebuildComplete s).rowN = s.rowN - 1 ∧ (opRebuildComplete s).cacheSf = rebuiltSf s ∧ (opRebuildComplete s).geoGen = (s.geoGen + 1) % 2 ^ 32 := by
  refine ⟨opRebuildComplete_same h1 h2 .rowN (.inl rfl), opRebuildComplete_same h1 h2 .cacheSf (.inr rfl), ?geoGen⟩
  rw [opRebuildComplete_ends h1 h2, (State.rasEvent_keeps ..).same .geoGen (by decide), geoBump_gen,
    (State.rebuildSettles_keeps _).same .geoGen (by decide +kernel)]
  rfl

/-! ### Cores (R593) -/

/-- R593: RETIRE_CORE of a core that works. -/
theorem opRetireCore_good {s : State} {v : Word} (h : ((s.writeRasCtl v).core ((s.writeRasCtl v).fld Fd.RAS_CTL_CORE)).good = true) :
    opRetireCore v s = ((s.writeRasCtl v).setFld Fd.RAS_CTL_ERR 0).retireCore ((s.writeRasCtl v).fld Fd.RAS_CTL_CORE) 4 :=
  if_neg (by simp [h])

/-! ### Stewards (R39) -/

@[simp] theorem State.steward_setSteward (s : State) (st : Nat) (x : Steward) : (s.setSteward st x).steward st = x := by
  simp [State.steward, State.setSteward, mapFind_mapIns]

/-- R39: a heartbeat that came clears the misses of a steward that serves. -/
theorem opStewardHeartbeat_alive {s : State} {st : Nat} (h : (s.steward st).down = false) :
    opStewardHeartbeat st true s = s.setSteward st { s.steward st with missed := 0 } := by
  simp [opStewardHeartbeat, h]

/-- R39: one that was missed counts, and the fourth in a row resets the steward. -/
theorem opStewardHeartbeat_missed {s : State} {st : Nat} (h : (s.steward st).down = false) :
    opStewardHeartbeat st false s = if (s.steward st).missed + 1 < 4
      then s.setSteward st { s.steward st with missed := (s.steward st).missed + 1 } else s.resetSteward st := by
  simp [opStewardHeartbeat, h]

/-- R39: a steward that was reset serves again, without misses. -/
theorem opStewardRecovered_serves {s : State} {st : Nat} (h : (s.steward st).down = true) :
    opStewardRecovered st s = s.setSteward st { s.steward st with down := false, missed := 0 } := if_pos h

/-! ### The capsule (R602 to R605) -/

/-- A command of the operator's mailbox that nothing refuses runs. -/
theorem State.operator_runs {s : State} {fn : Nat} {early safe frozen : Bool} (op action : Nat) (run : State → State)
    (h : mbRefusal s fn early safe frozen = none) : s.operator fn op action early safe frozen run = run s := by
  unfold State.operator
  rw [h]

/-- The lowest 16 bits of a word packed of fields at bits 0, 16, 32 and 48. -/
theorem bitsOf_packWord_low (a b c d : Nat) : bitsOf (packWord [(48, a), (32, b), (16, c), (0, d)]) 15 0 = d % 65536 := by
  simp only [bitsOf, packWord, List.foldl_cons, List.foldl_nil, BitVec.toNat_ofNat]
  omega

/-- The snapshot that is taken of the part joins the last 64, and holds its moment and RAS_STATUS. -/
theorem snapshot_joins (s : State) : ∃ x, s.snapshot.capSnaps = lastN 64 (s.capSnaps ++ [x]) ∧ x.dtime = s.dtime ∧ x.rasStatus = s.reg .RAS_STATUS 0 :=
  ⟨_, rfl, rfl, rfl⟩

/-- Settles O21, clause by clause from what each event comes to. -/
theorem rasEventsComplete : Obligations.RasEventsComplete := by
  refine ⟨?scrub, ?corrected, ?lost, ?copyStart, ?waiting, ?rebuilt, ?selftest, ?selftestDone, ?retireStack, ?retireCore, ?coreRetires, ?knownAnswer,
    ?heartbeat, ?recovered, ?snapshot, ?piece, ?summary⟩
  case scrub =>
    intro s row now hm hp hg hr
    refine (congrArg Host.Outcome.next (opScrubRow_reads (s := s.at_ now) hm hp hg hr)).trans ?_
    cases row.passMin <;> rfl
  case corrected => exact fun s row h => scrubResult_corrected s h
  case lost =>
    exact fun s stack cause hl hs hp =>
      completes_next (congrArg Host.Outcome.next (loseStack_inService (cause.val + 1) hl hs hp)) ⟨rfl, rfl, rfl⟩
  case copyStart =>
    intro s h1 h2 ht
    refine completes_next (congrArg Host.Outcome.next (opRebuildCopyStart_begins h1 h2 ht)) ⟨?_, (State.setFld_keeps ..).changesOnly⟩
    exact State.fld_setFld_fits (k := .RAS_REBUILD) s 2 0 (by decide) (by decide)
  case waiting =>
    intro s now h1 hw ht
    refine completes_next (congrArg Host.Outcome.next (opRebuildWaitingForSpace_warns (s := s.at_ now) h1 hw ht)) ⟨?_, rfl⟩
    exact (State.rasEvent_keeps ..).same .rebuildWarned (by decide)
  case rebuilt => exact fun s h1 h2 => completes_next rfl (opRebuildComplete_layout h1 h2)
  case selftest => exact fun s v hp hr ht hn => completes_next rfl (opSelftest_degrades rfl hp hr ht hn)
  case selftestDone =>
    exact fun s st ht hf => ⟨congrArg Host.Outcome.next (opSelftestDone_pass ht hf), congrArg Host.Outcome.next (opSelftestDone_fail ht)⟩
  case retireStack => exact fun s v h => congrArg Host.Outcome.next (opRetireStack_named h)
  case retireCore => exact fun s v h => congrArg Host.Outcome.next (opRetireCore_good h)
  case coreRetires => exact fun s core cause hg hp => completes_next rfl (retireCore_free s core (cause.val + 1) hg hp)
  case knownAnswer => exact fun s core => ⟨rfl, rfl⟩
  case heartbeat =>
    exact fun s st now h => ⟨congrArg Host.Outcome.next (opStewardHeartbeat_alive (s := s.at_ now) h),
      congrArg Host.Outcome.next (opStewardHeartbeat_missed (s := s.at_ now) h)⟩
  case recovered =>
    intro s st h
    refine completes_next (congrArg Host.Outcome.next (opStewardRecovered_serves h)) ⟨?_, ?_, (State.setSteward_keeps ..).changesOnly⟩
    · rw [State.steward_setSteward]
    · rw [State.steward_setSteward]
  case snapshot =>
    intro s now
    obtain ⟨x, hsnaps, htime, hstatus⟩ := snapshot_joins (s.at_ now)
    have hk : Keeps (partMask [.capSnaps, .dtime]) s (s.at_ now).snapshot := .step (.step (.refl ..) (State.atNow_keeps ..)) (State.snapshot_keeps ..)
    exact completes_next rfl ⟨x, hsnaps, htime, hstatus, hk.changesOnly⟩
  case piece => exact fun s fn n h => congrArg Host.Outcome.next (State.operator_runs _ _ _ h)
  case summary =>
    exact fun s fn h => ⟨_, congrArg Host.Outcome.next (State.operator_runs _ _ _ h), rfl, rfl, bitsOf_packWord_low ..⟩

end Sys2Proof.Machine

/-!
What the mailbox's rows of PATTERN_LOAD and PANEL_SWAP come to, and how an ACTIVATE goes from phase to phase (R73 to R94).
-/
namespace Sys2Proof.Machine

/-! ### The mailbox's rows (R73, R74) -/

/-- ACTION 0 is STAGE. -/
theorem State.loadCommand_stage (s : State) (swap : Bool) (fn : Nat) (w0 w1 : Word) (data : List Byte) :
    s.loadCommand swap fn (withAction w0 0) w1 data = s.stageRow swap fn w1.toNat (bitsOf w0 63 32) data := by
  unfold State.loadCommand
  rw [withAction_action _ _ (by decide), withAction_above _ _ (by decide)]
  rfl

/-- ACTION 1 is ACTIVATE. -/
theorem State.loadCommand_activate (s : State) (swap : Bool) (fn : Nat) (w0 w1 : Word) (data : List Byte) :
    s.loadCommand swap fn (withAction w0 1) w1 data = s.activateRow swap fn (bitsOf w0 21 16) := by
  unfold State.loadCommand
  rw [withAction_action _ _ (by decide), withAction_above _ _ (hi := 21) (lo := 16) (by decide)]
  rfl

/-- ACTION 2 is ABORT. -/
theorem State.loadCommand_abort (s : State) (swap : Bool) (fn : Nat) (w0 w1 : Word) (data : List Byte) :
    s.loadCommand swap fn (withAction w0 2) w1 data = s.abortRow swap fn := by
  unfold State.loadCommand
  rw [withAction_action _ _ (by decide)]
  rfl

/-- ACTION 3 is QUERY. -/
theorem State.loadCommand_query (s : State) (swap : Bool) (fn : Nat) (w0 w1 : Word) (data : List Byte) :
    s.loadCommand swap fn (withAction w0 3) w1 data = s.queryRow swap fn := by
  unfold State.loadCommand
  rw [withAction_action _ _ (by decide)]
  rfl

/-- A piece that the payload holds and that lies within the buffer is staged. -/
theorem State.stageRow_stages {s : State} {fn off len : Nat} {bs : List Byte} (swap : Bool) (h : mbRefusal s fn false false false = none)
    (hlen : len ≤ bs.length) (hend : off + len ≤ stageBytes) :
    s.stageRow swap fn off len bs = ((s.stage off (bs.take len)).showStaged).reply (loadOp swap) mbOk [] := by
  unfold State.stageRow
  rw [State.operator_runs _ _ _ h, if_neg (by omega)]

/-- ABORT, where the mailbox takes it, empties the buffer. -/
theorem State.abortRow_empties {s : State} {fn : Nat} (swap : Bool) (h : mbRefusal s fn false false false = none) :
    s.abortRow swap fn = (({ s with staging := [] } : State).showStaged).reply (loadOp swap) mbOk [] :=
  State.operator_runs _ _ _ h

/-- What ABORT may change: the buffer, what it answers, and the count of what is staged. -/
theorem State.emptied_keeps (s : State) (op : Nat) :
    Keeps (partMask [.staging, .out, .reg .PAT_PROGRESS]) s ((({ s with staging := [] } : State).showStaged).reply op mbOk []) :=
  .step (.step (.step (.refl ..) (upd_staging ..)) (State.showStaged_keeps ..)) (State.reply_keeps ..)

/-- QUERY, where the mailbox takes it, answers the two status words. -/
theorem State.queryRow_answers {s : State} {fn : Nat} (swap : Bool) (h : mbRefusal s fn false false false = none) :
    s.queryRow swap fn = s.reply (loadOp swap) mbOk [s.reg .PAT_STATUS, s.reg .PAT_PROGRESS] :=
  State.operator_runs _ _ _ h

/-! ### Phases of an ACTIVATE (R76, R90) -/

/-- The load under way is in the phase that it enters. -/
theorem State.enterPhase_load (s : State) (l : LoadRun) (ph : LoadPhase) : (s.enterPhase l ph).load = some { l with phase := ph } := by
  unfold State.enterPhase
  split
  · rfl
  · exact (State.patState_keeps ..).same .load (by decide)

/-- A PANEL_SWAP that enters a phase leaves the registers as they are. -/
theorem State.enterPhase_swap_reg (s : State) {l : LoadRun} (ph : LoadPhase) (h : l.swap = true) (k : RegKind) (i : Nat) :
    (s.enterPhase l ph).reg k i = s.reg k i := by
  unfold State.enterPhase
  rw [if_pos h]
  rfl

/-- Of a PATTERN_LOAD, PAT_STATUS shows the phase that it enters. -/
theorem State.enterPhase_state (s : State) {l : LoadRun} (ph : LoadPhase) (h : l.swap = false) :
    (s.enterPhase l ph).fld Fd.PAT_STATUS_STATE = ph.state := by
  unfold State.enterPhase
  rw [if_neg (by simp [h])]
  exact patState_state _ _ (by cases ph <;> decide)

/-- From s to t a load has entered a phase: the pattern that runs and the background command stand, and of a PATTERN_LOAD PAT_STATUS shows the phase (R90). -/
def PhaseEntered (s t : State) (l : LoadRun) (ph : LoadPhase) : Prop :=
  t.load = some { l with phase := ph } ∧ t.pattern = s.pattern ∧ t.bg = s.bg ∧ (l.swap = false → t.fld Fd.PAT_STATUS_STATE = ph.state)

/-- Entering a phase does no more than that to them. -/
theorem enterPhase_entered (s : State) (l : LoadRun) (ph : LoadPhase) : PhaseEntered s (s.enterPhase l ph) l ph :=
  ⟨State.enterPhase_load .., (State.enterPhase_keeps ..).same .pattern (by decide), (State.enterPhase_keeps ..).same .bg (by decide), State.enterPhase_state s ph⟩

/-- A quiesce changes none of what tells the phase. -/
theorem PhaseEntered.quiesce {s t : State} {l : LoadRun} {ph : LoadPhase} (h : PhaseEntered s t l ph) (swap : Bool) (panel : Nat) :
    PhaseEntered s (t.quiesce swap panel) l ph := by
  obtain ⟨hload, hpattern, hbg, hstate⟩ := h
  have k := State.quiesce_keeps t swap panel
  refine ⟨(k.same .load (by decide)).trans hload, (k.same .pattern (by decide)).trans hpattern, (k.same .bg (by decide)).trans hbg, fun hs => ?_⟩
  rw [fld_of (k.same (.reg .PAT_STATUS) (by decide))]
  exact hstate hs

/-- The load that an ACTIVATE begins with the image as it is staged at this moment (R74, R76). -/
def stagedLoad (s : State) (swap : Bool) (panel : Nat) : LoadRun :=
  { swap, panel, src := readImage s.staging, image := readPattern (readImage s.staging), phase := .validating }

/-- The state in which an ACTIVATE has been answered with Background and runs (R75). -/
def State.activateAnswered (s : State) (swap : Bool) : State :=
  { (s.reply (loadOp swap) mbBackground []).setFld Fd.PAT_PROGRESS_PCT 0 with bg := { opcode := loadOp swap, running := true, ret := 0, vendor := 0 } }

/-- An ACTIVATE that is accepted is answered, and its load begins to validate. -/
theorem State.activateRow_begins {s : State} {fn : Nat} (swap : Bool) (panel : Nat) (h : mbRefusal s fn false false true = none) (hb : s.bg.running = false) :
    s.activateRow swap fn panel = (s.activateAnswered swap).enterPhase (stagedLoad s swap panel) .validating := by
  unfold State.activateRow
  rw [State.operator_runs _ _ _ h, if_neg (by simp [hb])]
  rfl

/-- What an ACTIVATE that is accepted comes to, but for PAT_STATUS: validation begins, PCT is 0, Background is answered, and the pattern and the buffer stand. -/
theorem State.activateRow_effect {s t : State} {fn : Nat} {swap : Bool} {panel : Nat} (ht : s.activateRow swap fn panel = t)
    (h : mbRefusal s fn false false true = none) (hb : s.bg.running = false) :
    t.load = some (stagedLoad s swap panel) ∧ t.bg = { opcode := loadOp swap, running := true, ret := 0, vendor := 0 } ∧
      t.fld Fd.PAT_PROGRESS_PCT = 0 ∧ t.pattern = s.pattern ∧ t.staging = s.staging ∧ t.out = s.out ++ [.mailbox (loadOp swap) mbBackground 0 []] := by
  rw [State.activateRow_begins swap panel h hb] at ht
  subst ht
  have k := State.enterPhase_keeps (s.activateAnswered swap) (stagedLoad s swap panel) .validating
  refine ⟨State.enterPhase_load .., k.same .bg (by decide), ?pct, k.same .pattern (by decide), k.same .staging (by decide), k.same .out (by decide)⟩
  case pct =>
    rw [fld_of (k.same (.reg .PAT_PROGRESS) (by decide))]
    exact State.fld_setFld_fits (k := .PAT_PROGRESS) _ 0 0 (by decide) (by decide)

/-- A PATTERN_LOAD that is accepted shows VALIDATING. -/
theorem State.activateRow_load_state {s : State} {fn : Nat} (panel : Nat) (h : mbRefusal s fn false false true = none) (hb : s.bg.running = false) :
    (s.activateRow false fn panel).fld Fd.PAT_STATUS_STATE = 2 := by
  rw [State.activateRow_begins false panel h hb]
  exact State.enterPhase_state _ _ rfl

/-- A PANEL_SWAP that is accepted leaves PAT_STATUS as it is. -/
theorem State.activateRow_swap_status {s : State} {fn : Nat} (panel : Nat) (h : mbRefusal s fn false false true = none) (hb : s.bg.running = false) :
    (s.activateRow true fn panel).reg .PAT_STATUS = s.reg .PAT_STATUS := by
  rw [State.activateRow_begins true panel h hb, State.enterPhase_swap_reg _ _ rfl]
  exact (State.reg_setFld ..).trans (if_neg (by decide))

/-! ### From phase to phase (R76, R77, R80, R83) -/

/-- One of checks 1 to 17 fails: it ends the ACTIVATE. -/
theorem loadAdvance_invalid {s : State} {l : LoadRun} {e : PatErr} (h : s.load = some l) (hp : l.phase = .validating)
    (hv : validate s l.src l.image l.swap = some e) : s.loadAdvance = s.loadEnds l e := by
  simp only [State.loadAdvance, h, hp, hv]

/-- Checks 1 to 17 hold: the quiesce begins. -/
theorem loadAdvance_valid {s : State} {l : LoadRun} (h : s.load = some l) (hp : l.phase = .validating)
    (hv : validate s l.src l.image l.swap = none) : s.loadAdvance = (s.enterPhase l .quiescing).quiesce l.swap l.panel := by
  simp only [State.loadAdvance, h, hp, hv]

/-- A quiesce waits for the commands that run to completion. -/
theorem loadAdvance_waits {s : State} {l : LoadRun} (h : s.load = some l) (hp : l.phase = .quiescing) (hq : quiesced s l = false) :
    s.loadAdvance = s := by
  simp [State.loadAdvance, h, hp, hq]

/-- One of checks 18 to 22 fails: the panels run again, and the ACTIVATE ends. -/
theorem loadAdvance_refused {s : State} {l : LoadRun} {e : PatErr} (h : s.load = some l) (hp : l.phase = .quiescing) (hq : quiesced s l = true)
    (hc : liveChecks s l.image l.swap l.panel = some e) : s.loadAdvance = s.resume.loadEnds l e := by
  simp [State.loadAdvance, h, hp, hq, hc]

/-- Checks 18 to 22 hold: programming begins. -/
theorem loadAdvance_programs {s : State} {l : LoadRun} (h : s.load = some l) (hp : l.phase = .quiescing) (hq : quiesced s l = true)
    (hc : liveChecks s l.image l.swap l.panel = none) : s.loadAdvance = s.enterPhase l .programming := by
  simp [State.loadAdvance, h, hp, hq, hc]

/-- What ran before has been restored: the ACTIVATE ends with code 0x19. -/
theorem loadAdvance_restored {s : State} {l : LoadRun} (h : s.load = some l) (hp : l.phase = .restoring) :
    s.loadAdvance = s.resume.loadEnds l restoredErr := by
  simp only [State.loadAdvance, h, hp]

/-- A load that ends once its panels run again has ended: they resume the pattern that ran. -/
theorem resume_loadEnds_effect (s : State) (l : LoadRun) (e : PatErr) : LoadEnded s (s.resume.loadEnds l e) l.swap e := by
  obtain ⟨hload, hpattern, hbg, hdet⟩ := loadEnds_effect s.resume l e
  exact ⟨hload, hpattern.trans ((State.resume_keeps s).same .pattern (by decide)), hbg, hdet⟩

/-- Settles O27, phase by phase. -/
theorem activationsComplete : Obligations.ActivationsComplete := by
  refine ⟨?load, ?swap, ?validating, ?waiting, ?quiesced, ?restoring⟩
  case load =>
    intro s fn word0 h hb
    obtain ⟨hload, hbg, hpct, hpattern, hstaging, hout⟩ := State.activateRow_effect (swap := false) (panel := bitsOf word0 21 16) rfl h hb
    exact completes_next (congrArg Host.Outcome.next (State.loadCommand_activate ..))
      ⟨hload, hbg, State.activateRow_load_state _ h hb, hpct, hpattern, hstaging, hout⟩
  case swap =>
    intro s fn word0 h hb
    obtain ⟨hload, hbg, hpct, hpattern, hstaging, hout⟩ := State.activateRow_effect (swap := true) (panel := bitsOf word0 21 16) rfl h hb
    exact completes_next (congrArg Host.Outcome.next (State.loadCommand_activate ..))
      ⟨hload, hbg, State.activateRow_swap_status _ h hb, hpct, hpattern, hstaging, hout⟩
  case validating =>
    intro s l h hp
    cases hv : validate s l.src l.image l.swap with
    | some e => exact loadAdvance_invalid h hp hv ▸ loadEnds_effect s l e
    | none => exact loadAdvance_valid h hp hv ▸ (enterPhase_entered s l .quiescing).quiesce l.swap l.panel
  case waiting => exact fun s l h hp hq => loadAdvance_waits h hp hq
  case quiesced =>
    intro s l h hp hq
    cases hc : liveChecks s l.image l.swap l.panel with
    | some e => exact loadAdvance_refused h hp hq hc ▸ resume_loadEnds_effect s l e
    | none => exact loadAdvance_programs h hp hq hc ▸ enterPhase_entered s l .programming
  case restoring => exact fun s l h hp => loadAdvance_restored h hp ▸ resume_loadEnds_effect s l restoredErr

end Sys2Proof.Machine

/-!
What an idle step does: a tick of the system reference (R587, R661, R665, R666).
-/
namespace Sys2Proof.Machine

/-- With no command waiting the system reference ticks. -/
theorem step_idle {s : State} (h : s.pending = []) : step s = .next s.tick := by
  unfold step
  rw [h]

/-- While a rebuild copies and has not reached its total, a free value decides whether a GiB has passed. -/
theorem copyStep_copying {s : State} (h : s.fld Fd.RAS_REBUILD_PHASE = 2) (hd : s.fld Fd.RAS_REBUILD_DONEGIB < s.fld Fd.RAS_REBUILD_TOTALGIB) :
    s.copyStep = s.drawn ∨ s.copyStep = s.drawn.setFld Fd.RAS_REBUILD_DONEGIB (s.fld Fd.RAS_REBUILD_DONEGIB + 1) := by
  unfold State.copyStep
  rw [if_neg (by omega)]
  by_cases hf : s.free % 2 = 1
  · exact .inr (if_pos hf)
  · exact .inl (if_neg hf)

/-- Without supplies or reference nothing counts. -/
theorem tick_stopped {s : State} (h : s.power.stage = .off ∨ s.power.stage = .noRef) : s.tick = s := by
  unfold State.tick
  refine if_pos ?_
  rcases h with h | h
  · exact .inl h
  · exact .inr (.inl h)

/-- Settles O29: an idle step is a tick, and each clause is a fact about the tick. -/
theorem idleStepCountsTheReferenceClock : Obligations.IdleStepCountsTheReferenceClock := by
  refine ⟨?plainFrame, ?frame, ?counts, ?clock, ?copies, ?stopped⟩
  case plainFrame => exact fun s h hl hr => ⟨s.tick, step_idle h, (tick_plain s hl hr).changesOnly (by decide +kernel)⟩
  case frame => exact fun s h => ⟨s.tick, step_idle h, (State.tick_keeps s).changesOnly (by decide +kernel)⟩
  case counts => exact fun s h hs hz hf => ⟨s.tick, step_idle h, tick_dtime s hs hz hf⟩
  case clock => exact fun s h hs hz hf _ => ⟨s.tick, step_idle h, tick_power s hs hz hf, tick_dtctl s hs hz hf⟩
  case copies => exact fun s h hd => copyStep_copying h hd
  case stopped => exact fun s h hs => (step_idle h).trans (congrArg Host.Outcome.next (tick_stopped hs))

end Sys2Proof.Machine

/-!
What the end of programming and the writing of the boot copies come to, and with them the rows of PATTERN_LOAD and PANEL_SWAP (R71 to R94, R638, R687).
-/
namespace Sys2Proof.Machine

/-! ### Programming ends (R80, R85) -/

/-- The programming under way ends well. -/
theorem programEnds_ok {s : State} {l : LoadRun} {swap : Bool} (h : s.load = some l) (hs : l.swap = swap) (hp : l.phase = .programming)
    (done : State → LoadRun → State) : s.programEnds swap true done = done { s with load := none } l := by
  rw [programEnds_programming h hp]
  simp [hs]

/-- The programming under way fails: what ran before is restored. -/
theorem programEnds_failed {s : State} {l : LoadRun} {swap : Bool} (h : s.load = some l) (hs : l.swap = swap) (hp : l.phase = .programming)
    (done : State → LoadRun → State) : s.programEnds swap false done = s.enterPhase l .restoring := by
  rw [programEnds_programming h hp]
  simp [hs]

/-! ### The boot copies (R71, R638, R687) -/

/-- The state in which both boot copies hold the running pattern p (R71). -/
def State.bootCopied (s : State) (p : Pattern) : State :=
  (({ s with bootA := some p, bootB := some p } : State).setFld Fd.PAT_STATUS_PERSISTED 1).setFld Fd.PAT_EVT_PERSIST_DONE 1

/-- The copies of a pattern that is not persisted yet are written, and the pattern floor is raised to that of its policy. -/
theorem opPatternPersistDone_writes {s : State} {p : Pattern} (h : s.pattern = some p) (hp : s.flag Fd.PAT_STATUS_PERSISTED = false) (hl : s.load = none) :
    opPatternPersistDone s = if (s.bootCopied p).fld Fd.SEC_PATFLOOR_FLOOR < fieldOf p.policy 1 31 0
      then ((s.bootCopied p).raise Fd.SEC_PATFLOOR_FLOOR (fieldOf p.policy 1 31 0)).keyWrite rowPattern else s.bootCopied p := by
  unfold opPatternPersistDone
  split
  next hn => exact nomatch h.symm.trans hn
  next q hq =>
    obtain rfl : p = q := Option.some.inj (h.symm.trans hq)
    exact if_neg (by simp [hp, hl])

/-- Writing the copies leaves the pattern floor as it is. -/
theorem bootCopied_floor (s : State) (p : Pattern) : (s.bootCopied p).fld Fd.SEC_PATFLOOR_FLOOR = s.fld Fd.SEC_PATFLOOR_FLOOR := by
  unfold State.bootCopied
  rw [State.fld_setFld_reg _ _ _ _ _ _ (by decide), State.fld_setFld_reg _ _ _ _ _ _ (by decide)]
  rfl

/-- PAT_STATUS shows that the pattern is persisted. -/
theorem bootCopied_persisted (s : State) (p : Pattern) : (s.bootCopied p).fld Fd.PAT_STATUS_PERSISTED = 1 := by
  unfold State.bootCopied
  rw [State.fld_setFld_reg _ _ _ _ _ _ (by decide)]
  exact State.fld_setFld_fits (k := .PAT_STATUS) _ 1 0 (by decide) (by decide)

/-- PAT_EVT shows the event. -/
theorem bootCopied_event (s : State) (p : Pattern) : (s.bootCopied p).fld Fd.PAT_EVT_PERSIST_DONE = 1 :=
  State.fld_setFld_fits (k := .PAT_EVT) _ 1 0 (by decide) (by decide)

/-- A floor that is raised to a value of its width is the greater of the two. -/
theorem State.raise_floor (s : State) {n : Nat} (hn : n < 2 ^ 32) :
    (s.raise Fd.SEC_PATFLOOR_FLOOR n).fld Fd.SEC_PATFLOOR_FLOOR = max (s.fld Fd.SEC_PATFLOOR_FLOOR) n := by
  unfold State.raise
  split
  next h =>
    rw [State.fld_setFld_fits (k := .SEC_PATFLOOR) (f := Fd.SEC_PATFLOOR_FLOOR) s n 0 (by decide) hn]
    omega
  next h => omega

/-- Raising the pattern floor in the key store touches that floor and the store's counts. -/
theorem State.raisePatFloor_keeps (s : State) (n : Nat) :
    Keeps (partMask [.keyRows, .reg .SEC_NVS, .reg .SEC_PATFLOOR]) s ((s.raise Fd.SEC_PATFLOOR_FLOOR n).keyWrite rowPattern) :=
  .step (.step (.refl ..) (State.raise_keeps ..) (by decide +kernel)) (State.keyWrite_keeps ..) (by decide +kernel)

/-- What the boot copies' end comes to. -/
theorem opPatternPersistDone_effect {s t : State} {p : Pattern} (ht : opPatternPersistDone s = t) (h : s.pattern = some p)
    (hp : s.flag Fd.PAT_STATUS_PERSISTED = false) (hl : s.load = none) :
    t.bootA = some p ∧ t.bootB = some p ∧ t.pattern = some p ∧ t.flag Fd.PAT_STATUS_PERSISTED = true ∧ t.flag Fd.PAT_EVT_PERSIST_DONE = true ∧
      t.fld Fd.SEC_PATFLOOR_FLOOR = max (s.fld Fd.SEC_PATFLOOR_FLOOR) (fieldOf p.policy 1 31 0) := by
  have hn : fieldOf p.policy 1 31 0 < 2 ^ 32 := bitsOf_lt ..
  have hpers : (s.bootCopied p).flag Fd.PAT_STATUS_PERSISTED = true := by rw [State.flag, bootCopied_persisted]; rfl
  have hevt : (s.bootCopied p).flag Fd.PAT_EVT_PERSIST_DONE = true := by rw [State.flag, bootCopied_event]; rfl
  rw [opPatternPersistDone_writes h hp hl] at ht
  rw [← bootCopied_floor s p]
  split at ht
  next =>
    subst ht
    have k := State.raisePatFloor_keeps (s.bootCopied p) (fieldOf p.policy 1 31 0)
    refine ⟨k.same .bootA (by decide +kernel), k.same .bootB (by decide +kernel), (k.same .pattern (by decide +kernel)).trans h, ?pers, ?evt, ?floor⟩
    case pers => rw [State.flag, fld_of (k.same (.reg .PAT_STATUS) (by decide +kernel))]; exact hpers
    case evt => rw [State.flag, fld_of (k.same (.reg .PAT_EVT) (by decide +kernel))]; exact hevt
    case floor => rw [fld_of ((State.keyWrite_keeps _ rowPattern).same (.reg .SEC_PATFLOOR) (by decide)), State.raise_floor _ hn]
  next hle =>
    subst ht
    exact ⟨rfl, rfl, h, hpers, hevt, (Nat.max_eq_left (Nat.not_lt.1 hle)).symm⟩

/-- Settles O15, row by row. -/
theorem patternRowsComplete : Obligations.PatternRowsComplete := by
  refine ⟨?stage, ?swapStage, ?abort, ?swapAbort, ?query, ?swapQuery, ?programmed, ?programFails, ?swapped, ?swapFails, ?persisted⟩
  case stage =>
    exact fun s fn w0 w1 data h hlen hend =>
      congrArg Host.Outcome.next ((State.loadCommand_stage ..).trans (State.stageRow_stages false h hlen hend))
  case swapStage =>
    exact fun s fn w0 w1 data h hlen hend =>
      congrArg Host.Outcome.next ((State.loadCommand_stage ..).trans (State.stageRow_stages true h hlen hend))
  case abort =>
    intro s fn w0 h
    have k := State.emptied_keeps s 0xC010
    exact completes_next (congrArg Host.Outcome.next ((State.loadCommand_abort ..).trans (State.abortRow_empties false h))) ⟨rfl, rfl, k.changesOnly⟩
  case swapAbort =>
    exact fun s fn w0 h =>
      completes_next (congrArg Host.Outcome.next ((State.loadCommand_abort ..).trans (State.abortRow_empties true h))) ⟨rfl, rfl⟩
  case query =>
    exact fun s fn w0 h => congrArg Host.Outcome.next ((State.loadCommand_query ..).trans (State.queryRow_answers false h))
  case swapQuery =>
    exact fun s fn w0 h => congrArg Host.Outcome.next ((State.loadCommand_query ..).trans (State.queryRow_answers true h))
  case programmed => exact fun s l h hs hp => congrArg Host.Outcome.next (programEnds_ok h hs hp _)
  case programFails => exact fun s l h hs hp => congrArg Host.Outcome.next (programEnds_failed h hs hp _)
  case swapped => exact fun s l h hs hp => congrArg Host.Outcome.next (programEnds_ok h hs hp _)
  case swapFails => exact fun s l h hs hp => congrArg Host.Outcome.next (programEnds_failed h hs hp _)
  case persisted => exact fun s p h hp hl => completes_next rfl (opPatternPersistDone_effect rfl h hp hl)

end Sys2Proof.Machine

/-!
What tenant actions, denials and bandwidth events may change, from the frame of the operation that each command's row is.
-/
namespace Sys2Proof.Machine

/-- A row stamped with a moment sets DTIME and is then its operation. -/
theorem mayChange_at {i : Instr} {w : Nat} {l : List Part} {s t : State} {now : Nat} (k : Keeps w (s.at_ now) t) (h : exec i s = .next t)
    (hd : 2 ||| partMask l = partMask l := by decide +kernel) (hw : w ||| partMask l = partMask l := by decide +kernel) : MayChange i s l :=
  ⟨t, h, ((upd_dtime s _).mono hd |>.step k hw).changesOnly (Nat.or_self _)⟩

/-- Settles O37: every row is its operation, whose frame lies within the list stated. -/
theorem tenantAndBandwidthFrames : Obligations.TenantAndBandwidthFrames := by
  refine ⟨?configure, ?activate, ?disable, ?enable, ?shred, ?unconfigure, ?drainComplete, ?shredComplete, ?groupCreate, ?groupDelete, ?hrtSync,
    ?hrtSyncDone, ?request, ?release, ?wheelSlot, ?windowEnd⟩
  case configure => exact fun s t v => mayChange_of_keeps (opConfigure_keeps t.val v s) rfl
  case activate => exact fun s t v => mayChange_of_keeps (opTenantActivate_keeps t.val v s) rfl
  case disable => exact fun s t v => mayChange_of_keeps (opDisable_keeps t.val v s) rfl
  case enable => exact fun s t v => mayChange_of_keeps (opEnable_keeps t.val v s) rfl
  case shred => exact fun s t v => mayChange_of_keeps (opShred_keeps t.val v s) rfl
  case unconfigure => exact fun s t v => mayChange_of_keeps (opUnconfigure_keeps t.val v s) rfl
  case drainComplete => exact fun s t => mayChange_of_keeps (opDrainComplete_keeps t.val s) rfl
  case shredComplete => exact fun s t => mayChange_of_keeps (opShredComplete_keeps t.val s) rfl
  case groupCreate => exact fun s g v => mayChange_of_keeps (opGroupCreate_keeps g.val v s) rfl
  case groupDelete => exact fun s g v => mayChange_of_keeps (opGroupDelete_keeps g.val v s) rfl
  case hrtSync => exact fun s => mayChange_of_keeps (opHrtSync_keeps s) rfl
  case hrtSyncDone => exact fun s => mayChange_of_keeps (opHrtSyncDone_keeps s) rfl
  case request => exact fun s host port req hpa now => mayChange_at (opCxlMemRequestAdmit_keeps host.val port.val req hpa (s.at_ now)) rfl
  case release => exact fun s host now => mayChange_at (opHeldRequestRelease_keeps host.val (s.at_ now)) rfl
  case wheelSlot => exact fun s mc arrivals now => mayChange_at (opWheelSlot_keeps mc.val arrivals (s.at_ now)) rfl
  case windowEnd => exact fun s now => mayChange_at (opDevloadWindowEnd_keeps (s.at_ now)) rfl

end Sys2Proof.Machine

/-!
What the actions on tenants and share groups come to, with the ends of draining and shredding, and HRT_SYNC (R107, R110, R117, R130, R131, R563).
-/
namespace Sys2Proof.Machine

/-! ### The states of a tenant -/

/-- An action that takes a tenant to a state, and shows no error. -/
theorem toState_noError (s : State) (t : Nat) (x : TState) :
    ((s.toState t x).actErr t 0).tstate t = x.code ∧ ((s.toState t x).actErr t 0).fld Fd.TNT_STATE_ACTERR t = 0 :=
  ⟨(tstate_actErr ..).trans (tstate_toState ..), acterr_actErr _ _ 0 (by decide)⟩

/-- The write that carries an action leaves every tenant's state. -/
@[simp] theorem tstate_writeTntCtrl (s : State) (t u : Nat) (v : Word) : (s.writeTntCtrl t v).tstate u = s.tstate u :=
  State.fld_of_reg Fd.TNT_STATE_STATE u (writeTntCtrl_reg _ _ _ _ _ (by decide))

/-- ACTIVATE or ENABLE that nothing refuses: the tenant is ACTIVE with fresh spools (R107, R108). -/
theorem startTenant_starts {s : State} {t : Nat} {needed : TState} (h : startError s t needed = 0) :
    s.startTenant t needed = ((s.freshSpools t (needed == .disabled)).toState t .active).actErr t 0 :=
  if_neg (not_not_intro h)

/-- DISABLE of an ACTIVE tenant: it drains (R130). -/
theorem opDisable_drains {s : State} {t : Nat} {v : Word} (h : (s.writeTntCtrl t v).active t = true) :
    opDisable t v s = ((s.writeTntCtrl t v).drainTenant t).actErr t 0 :=
  if_neg (by simp [h])

/-- A DRAINING tenant with nothing left to drain, which no reset waits for, is DISABLED (R131). -/
theorem opDrainComplete_disables {s : State} {t : Nat} (hs : s.tstate t = TState.draining.code) (hd : drainCount s t = 0)
    (hr : s.tenantResets.contains t = false) : opDrainComplete t s = s.toState t .disabled := by
  have hreset : (s.toState t .disabled).tenantResets.contains t = false := hr
  unfold opDrainComplete
  rw [if_neg (by simp [hs, hd])]
  exact if_pos (by rw [hreset]; rfl)

/-- SHRED of a DISABLED tenant ends with the tenant in SHREDDING (R563). -/
theorem opShred_shreds {s : State} {t : Nat} (v : Word) (h : s.tstate t = TState.disabled.code) :
    ∃ u : State, opShred t v s = (u.toState t .shredding).actErr t 0 :=
  ⟨_, if_neg (by simp [h])⟩

/-- A SHREDDING tenant whose erase list is empty is FREE (R563, R633). -/
theorem opShredComplete_frees {s : State} {t : Nat} (hs : s.tstate t = TState.shredding.code) (hl : eraseLeft s t = []) :
    opShredComplete t s = (({ s with eraseLists := mapDel t s.eraseLists } : State).clearSeal t).toState t .free :=
  if_neg (by simp [hs, hl])

/-- UNCONFIGURE of a CONFIGURED tenant: its keys are gone and it is FREE (R107, R624). -/
theorem opUnconfigure_frees {s : State} {t : Nat} (v : Word) (h : s.tstate t = TState.configured.code) :
    opUnconfigure t v s = (((s.writeTntCtrl t v).dropTenantKeys t).toState t .free).actErr t 0 :=
  if_neg (by simp [h])

/-! ### CONFIGURE (R107) -/

/-- What CONFIGURE does beside the tenant's records: empty completion spools, SPL_CFG at reset, a hash key of its own. -/
theorem freshlyKeyed_keeps (s : State) (t : Nat) (cs : NMap CompSpool) :
    Keeps (partMask [.freeCtr, .comps, .nsKeys, .keyRows, .reg .SPL_CFG, .reg .SEC_NVS, .reg .SEC_TSTAT]) s
      ((((({ s with comps := cs } : State).resetReg .SPL_CFG t).newHashKey t).keyWrite t).setFld Fd.SEC_TSTAT_HKEY 1 t) := by
  refine .step (.step (.step (.step (.step (.refl ..) (upd_comps ..) ?_) (State.resetReg_keeps ..) ?_) (State.newHashKey_keeps ..) ?_)
    (State.keyWrite_keeps ..) ?_) (State.setFldAt (k := .SEC_TSTAT) _ _ _ _ rfl) ?_ <;> decide +kernel

/-- CONFIGURE of a FREE tenant from a valid template whose grants fit: it is CONFIGURED with the template's quotas, and no error of it stands. -/
theorem configureNow_configures {s : State} {t : Nat} {v : Word} {ws : List Word} (hs : s.tstate t = TState.free.code)
    (hws : templateOf s (bitsOf v 21 16) (bitsOf v 15 12) = some ws) (hfit : bobbinFits s t (wordAt ws 3) = true) :
    ∃ u : State, s.configureNow t v = (u.toState t .configured).actErr t 0 ∧
      u.reg .TNT_QUOTA t = writeFields RegKind.TNT_QUOTA.fields 0 (wordAt ws 2) ∧ u.reg .TNT_ERR t = 0 := by
  unfold State.configureNow
  rw [if_neg (not_not_intro hs), hws]
  simp only [hfit, Bool.not_true, Bool.false_eq_true, if_false]
  refine ⟨_, rfl, ?quota, ?err⟩
  case quota => exact ((freshlyKeyed_keeps ..).same (.reg .TNT_QUOTA) (by decide +kernel) t).trans (by simp)
  case err => exact ((freshlyKeyed_keeps ..).same (.reg .TNT_ERR) (by decide +kernel) t).trans (by simp)

/-- While no load holds state fixed, CONFIGURE takes effect at once (R76, R107). -/
theorem opConfigure_now {s : State} {t : Nat} {v : Word} (h : loadHolds s = false) :
    opConfigure t v s = (s.writeTntCtrl t v).configureNow t v := by
  have hheld : loadHolds (s.writeTntCtrl t v) = false := h
  exact if_neg (by simp [hheld])

/-! ### Share groups (R110) -/

/-- A group's VALID and ERR after an action that sets both. -/
theorem group_validErr (s : State) (g : Nat) (b : Bool) :
    ((s.setFld Fd.SG_CFG_VALID (b2n b) g).setFld Fd.SG_CFG_ERR 0 g).flag Fd.SG_CFG_VALID g = b ∧
      ((s.setFld Fd.SG_CFG_VALID (b2n b) g).setFld Fd.SG_CFG_ERR 0 g).fld Fd.SG_CFG_ERR g = 0 := by
  refine ⟨?valid, ?err⟩
  case valid =>
    rw [State.flag, State.fld_setFld_other (k := .SG_CFG) _ _ _ _ (by decide) (by decide) (.inl (by decide)),
      State.fld_setFld_same _ _ _ _ (by decide) (by decide)]
    cases b <;> rfl
  case err => exact State.fld_setFld_fits (k := .SG_CFG) _ 0 g (by decide) (by decide)

/-- CREATE of a group that is not valid, for the profile of a panel: it is valid. -/
theorem opGroupCreate_creates {s : State} {g : Nat} {v : Word} (hv : (s.writeSgCfg g v).flag Fd.SG_CFG_VALID g = false)
    (hp : (panelOf (s.writeSgCfg g v) ((s.writeSgCfg g v).fld Fd.SG_CFG_PROFILE g)).isSome = true) :
    ∃ u : State, opGroupCreate g v s = (u.setFld Fd.SG_CFG_VALID 1 g).setFld Fd.SG_CFG_ERR 0 g := by
  unfold opGroupCreate
  rw [if_neg (by simp [hv]), if_neg (by rw [Option.isNone_iff_eq_none]; exact Option.isSome_iff_ne_none.1 hp)]
  exact ⟨_, rfl⟩

/-- DELETE of a valid group without members and chunks: it is not valid. -/
theorem opGroupDelete_deletes {s : State} {g : Nat} {v : Word} (hv : (s.writeSgCfg g v).flag Fd.SG_CFG_VALID g = true)
    (hm : groupMembers (s.writeSgCfg g v) g = []) (hc : chunksCharged (s.writeSgCfg g v) (1024 + g) = 0) :
    ∃ u : State, opGroupDelete g v s = (u.setFld Fd.SG_CFG_VALID 0 g).setFld Fd.SG_CFG_ERR 0 g := by
  unfold opGroupDelete
  rw [if_neg (by simp [hv]), if_neg (by simp [hm, hc])]
  exact ⟨_, rfl⟩

/-! ### HRT_SYNC (R117) -/

/-- While an earlier access has not completed, PENDING stays. -/
theorem opHrtSyncDone_waits {s : State} (h : syncWaits s = true) : opHrtSyncDone s = s := if_pos h

/-- Every earlier access having completed, PENDING clears. -/
theorem opHrtSyncDone_clears {s : State} (h : syncWaits s = false) : opHrtSyncDone s = s.setFld Fd.HRT_SYNC_PENDING 0 :=
  if_neg (by simp [h])

/-- PENDING reads what is set. -/
theorem pending_setFld (s : State) (b : Bool) : (s.setFld Fd.HRT_SYNC_PENDING (b2n b)).flag Fd.HRT_SYNC_PENDING = b := by
  rw [State.flag, State.fld_setFld_same _ _ _ _ (by decide) (by decide)]
  cases b <;> rfl

/-- Settles O9, action by action from what each comes to. -/
theorem tenantActionsComplete : Obligations.TenantActionsComplete := by
  refine ⟨?configure, ?activate, ?enable, ?disable, ?drained, ?shred, ?shredded, ?unconfigure, ?create, ?delete, ?sync, ?synced, ?waits⟩
  case configure =>
    intro s t v ws hl hs hws hfit
    obtain ⟨u, hu, hquota, herr⟩ := configureNow_configures ((tstate_writeTntCtrl ..).trans hs) hws hfit
    have hnow : opConfigure t v s = (s.writeTntCtrl t v).configureNow t v := opConfigure_now hl
    refine completes_next (congrArg Host.Outcome.next (hnow.trans hu)) ?_
    obtain ⟨hstate, hact⟩ := toState_noError u t .configured
    refine ⟨hstate, hact, ?_, ?_⟩
    · rw [reg_actErr _ _ _ _ _ (by decide), reg_toState _ _ _ _ _ (by decide), hquota]
    · rw [reg_actErr _ _ _ _ _ (by decide), reg_toState _ _ _ _ _ (by decide), herr]
  case activate =>
    exact fun s t v h => completes_next (congrArg Host.Outcome.next (startTenant_starts h)) (toState_noError ..)
  case enable =>
    exact fun s t v h => completes_next (congrArg Host.Outcome.next (startTenant_starts h)) (toState_noError ..)
  case disable => exact fun s t v h => congrArg Host.Outcome.next (opDisable_drains h)
  case drained =>
    exact fun s t hs hd hr => completes_next (congrArg Host.Outcome.next (opDrainComplete_disables hs hd hr)) (tstate_toState ..)
  case shred =>
    intro s t v h
    obtain ⟨u, hu⟩ := opShred_shreds v h
    exact completes_next (congrArg Host.Outcome.next hu) (toState_noError ..)
  case shredded =>
    exact fun s t hs hl => completes_next (congrArg Host.Outcome.next (opShredComplete_frees hs hl)) (tstate_toState ..)
  case unconfigure =>
    exact fun s t v h => completes_next (congrArg Host.Outcome.next (opUnconfigure_frees v h)) (toState_noError ..)
  case create =>
    intro s g v hv hp
    obtain ⟨u, hu⟩ := opGroupCreate_creates hv hp
    exact completes_next (congrArg Host.Outcome.next hu) (group_validErr u g true)
  case delete =>
    intro s g v hv hm hc
    obtain ⟨u, hu⟩ := opGroupDelete_deletes hv hm hc
    exact completes_next (congrArg Host.Outcome.next hu) (group_validErr u g false)
  case sync => exact fun s => completes_next rfl ⟨pending_setFld _ true, rfl, (opHrtSync_keeps s).changesOnly (by decide +kernel)⟩
  case synced =>
    exact fun s h => completes_next rfl
      ⟨opHrtSyncDone_clears h ▸ pending_setFld _ false, (opHrtSyncDone_keeps s).changesOnly (by decide +kernel)⟩
  case waits => exact fun s h => congrArg Host.Outcome.next (opHrtSyncDone_waits h)

end Sys2Proof.Machine

/-!
What the bandwidth events come to: a request at a host's token bucket, a slot of a wheel, the end of a DevLoad window (R123, R126, R128, R442).
-/
namespace Sys2Proof.Machine

/-! ### Token buckets (R126) -/

/-- A bucket reads what was put back. -/
@[simp] theorem bucket_setBucket (s : State) (h : Nat) (b : Bucket) : (s.setBucket h b).bucket h = b := by
  simp [State.bucket, State.setBucket, mapFind_mapIns_same]

/-- A bucket that is put back, with what is then sent. -/
theorem setBucket_emit (s : State) (h : Nat) (b : Bucket) (o : Output) :
    ((s.setBucket h b).emit o).out = s.out ++ [o] ∧ ((s.setBucket h b).emit o).bucket h = b := ⟨rfl, bucket_setBucket s h b⟩

/-- A request of a limited host at an unblocked port: its address is decoded, and it takes a token where there is one and is held where there is none. -/
theorem opCxlMemRequestAdmit_limited {s : State} {h port : Nat} (req hpa : Nat) (hb : portBlocked s port (linkOn s h port) = false)
    (hr : s.fld Fd.WHL_HOSTLIM_RATE h ≠ 0) :
    opCxlMemRequestAdmit h port req hpa s =
      if 1000 ≤ (s.bucketNow h).milli then
        ((s.emit (.hdmDecode h hpa (hdmDpa hpa 0 (s.hdmOf h)))).setBucket h { s.bucketNow h with milli := (s.bucketNow h).milli - 1000 }).emit
          (.admitted h port req)
      else
        ((s.emit (.hdmDecode h hpa (hdmDpa hpa 0 (s.hdmOf h)))).setBucket h { s.bucketNow h with held := (s.bucketNow h).held ++ [(req, port)] }).emit
          (.held h port req) := by
  unfold opCxlMemRequestAdmit
  rw [if_neg (by simp [hb])]
  exact if_neg hr

/-- The oldest held request of a limited host takes a token that is there. -/
theorem opHeldRequestRelease_limited {s : State} {h req port : Nat} {rest : List (Nat × Nat)} (hheld : (s.bucketNow h).held = (req, port) :: rest)
    (hr : s.fld Fd.WHL_HOSTLIM_RATE h ≠ 0) (hm : 1000 ≤ (s.bucketNow h).milli) :
    opHeldRequestRelease h s =
      (s.setBucket h { s.bucketNow h with held := rest, milli := (s.bucketNow h).milli - 1000 }).emit (.admitted h port req) := by
  unfold opHeldRequestRelease
  simp only [hheld]
  rw [if_neg hr, if_pos hm]

/-! ### Wheels (R123) -/

/-- A controller's wheel reads what was put in its place. -/
theorem wheel_mapIns (s : State) (mc : Nat) (w : WheelState) : ({ s with wheels := mapIns mc w s.wheels } : State).wheel mc = w := by
  simp [State.wheel, mapFind_mapIns_same]

/-- The requests that wait at a controller once new ones have arrived. -/
def waitingAfter (s : State) (mc : Nat) (arrivals : List Traffic) : List SlotReq :=
  (s.wheel mc).waiting ++ arrivals.map fun x => { cls := trafficClass s x, arrived := s.dtime }

/-- A wheel of n slots once a slot of it has served a class, of the requests that wait. -/
def WheelState.afterServing (w : WheelState) (n c : Nat) (waiting : List SlotReq) : WheelState :=
  { slot := (w.slot + 1) % n, waiting := dropOldest c waiting, served := bump c w.served }

/-- A slot that is served: the oldest request of its class leaves the queue, it is counted, and the wheel moves on by one slot. -/
theorem opWheelSlot_serves {s : State} {mc c code : Nat} {arrivals : List Traffic} {wheel : List Nat} (hw : wheelOf s mc = code :: wheel)
    (hu : slotUnserved s mc (code :: wheel) ((s.wheel mc).slot % (wheel.length + 1)) = false)
    (hc : slotServes ((code :: wheel).getD ((s.wheel mc).slot % (wheel.length + 1)) 0) (waitingAfter s mc arrivals) = some c) :
    opWheelSlot mc arrivals s =
      ({ s with wheels := mapIns mc ((s.wheel mc).afterServing (wheel.length + 1) c (waitingAfter s mc arrivals)) s.wheels } : State).emit
        (.slotServed mc c) := by
  unfold opWheelSlot
  simp only [hw, List.length_cons, hu, Bool.false_eq_true, if_false]
  rw [waitingAfter] at hc ⊢
  rw [hc]
  rfl

/-! ### DevLoad windows (R128) -/

/-- At the end of a window every controller counts from zero again. -/
theorem opDevloadWindowEnd_served {s : State} {mc : Nat} {w : WheelState} (h : mapFind (opDevloadWindowEnd s).wheels mc = some w) :
    w.served = List.replicate 8 0 := by
  unfold opDevloadWindowEnd at h
  rw [mapFind_mapVals, Option.map_eq_some_iff] at h
  obtain ⟨v, _, rfl⟩ := h
  rfl

/-- Settles O10, event by event. -/
theorem bandwidthEventsComplete : Obligations.BandwidthEventsComplete := by
  refine ⟨?request, ?release, ?slot, ?window⟩
  case request =>
    rintro s host port req hpa now b hb hr rfl
    have hop := opCxlMemRequestAdmit_limited (s := s.at_ now) req hpa hb hr
    refine completes_next (congrArg Host.Outcome.next hop) ?_
    by_cases hm : 1000 ≤ ((s.at_ now).bucketNow host.val).milli
    · simp only [if_pos hm]
      exact ⟨List.append_assoc .., bucket_setBucket ..⟩
    · simp only [if_neg hm]
      exact ⟨List.append_assoc .., bucket_setBucket ..⟩
  case release =>
    rintro s host now req port b rest rfl hheld hr hm
    exact completes_next (congrArg Host.Outcome.next (opHeldRequestRelease_limited (s := s.at_ now) hheld hr hm)) (setBucket_emit ..)
  case slot =>
    rintro s mc arrivals now c code wheel waiting hw rfl hu hc
    refine completes_next (congrArg Host.Outcome.next (opWheelSlot_serves (s := s.at_ now) (arrivals := arrivals) hw hu hc)) ⟨rfl, ?_, ?_⟩
    · exact congrArg WheelState.slot (wheel_mapIns (s.at_ now) mc.val _)
    · exact congrArg WheelState.waiting (wheel_mapIns (s.at_ now) mc.val _)
  case window => exact fun s now => completes_next rfl ⟨rfl, fun mc w h => opDevloadWindowEnd_served h⟩

end Sys2Proof.Machine

/-!
The check of a slot wheel section, rule by rule (R121, R122).
-/
namespace Sys2Proof.Machine

/-- A slot's byte names an owner: a class, METADATA or MAINT (R121). -/
theorem slotCodeOk_iff {b : Nat} : slotCodeOk b = true ↔ b ≤ 7 ∨ b = 0x10 ∨ b = 0x11 := by
  simp [slotCodeOk, codeMeta, codeMaint, or_assoc]

/-- A slot of a wheel laid out twice in a row is the slot of the wheel, counted round it. -/
theorem getElem?_twice {w : List Nat} {k : Nat} (h : k < w.length + w.length) : (w ++ w)[k]? = w[k % w.length]? := by
  by_cases hk : k < w.length
  · rw [List.getElem?_append_left hk, Nat.mod_eq_of_lt hk]
  · rw [List.getElem?_append_right (Nat.le_of_not_lt hk), Nat.mod_eq_sub_mod (Nat.le_of_not_lt hk), Nat.mod_eq_of_lt (by omega)]

/-- No run of slots without METADATA is longer than 64 exactly when any 65 consecutive slots counted round the wheel hold one. -/
theorem longestRun_round {w : List Nat} (hl : w.length = 4096) :
    longestRun 0 0 (w ++ w) ≤ 64 ↔ ∀ i, ∃ j < 65, w[(i + j) % 4096]? = some codeMeta := by
  have hlen : (w ++ w).length = 8192 := by simp [hl]
  have htwice : ∀ k < 8192, (w ++ w)[k]? = w[k % 4096]? := fun k hk => hl ▸ getElem?_twice (by omega)
  rw [longestRun_le, hlen]
  constructor
  · rintro ⟨-, hrun⟩ i
    obtain ⟨j, hj, -, hmeta⟩ := hrun (i % 4096) (by omega)
    refine ⟨j, hj, ?_⟩
    rwa [Nat.sub_zero, htwice _ (by omega), Nat.mod_add_mod] at hmeta
  · refine fun hround => ⟨by omega, fun i hi => ?_⟩
    obtain ⟨j, hj, hmeta⟩ := hround i
    exact ⟨j, hj, by omega, by rwa [Nat.sub_zero, htwice _ (by omega)]⟩

/-- The rules of one wheel (R122). -/
theorem wheelOk_iff {w : List Nat} (hl : w.length = 4096) :
    wheelOk w = true ↔ (∀ b ∈ w, b ≤ 7 ∨ b = 0x10 ∨ b = 0x11) ∧ 128 ≤ w.count 0x10 ∧ 32 ≤ w.count 0x11 ∧
      ∀ i, ∃ j < 65, w[(i + j) % 4096]? = some 0x10 := by
  simp only [wheelOk, Bool.and_eq_true, beq_iff_eq, hl, true_and, List.all_eq_true, slotCodeOk_iff, decide_eq_true_eq, longestRun_round hl,
    and_assoc]
  exact Iff.rfl

/-- Two wheels whose bytes all name owners hold the same number of slots of every code where they do of each owner's. -/
theorem count_eq_of_owners {w v : List Nat} (hw : ∀ b ∈ w, b ≤ 7 ∨ b = 0x10 ∨ b = 0x11) (hv : ∀ b ∈ v, b ≤ 7 ∨ b = 0x10 ∨ b = 0x11)
    (h : ∀ c ∈ [0, 1, 2, 3, 4, 5, 6, 7, codeMeta, codeMaint], w.count c = v.count c) (c : Nat) : w.count c = v.count c := by
  by_cases hc : c ≤ 7 ∨ c = 0x10 ∨ c = 0x11
  · refine h c ?_
    simp only [codeMeta, codeMaint, List.mem_cons, List.not_mem_nil, or_false]
    omega
  · rw [List.count_eq_zero.2 fun hm => hc (hw c hm), List.count_eq_zero.2 fun hm => hc (hv c hm)]

/-- Every wheel holds as many slots of each owner's code as the first does. -/
def countsAgree (ws : List (List Nat)) : Bool :=
  ws.all fun w => ([0, 1, 2, 3, 4, 5, 6, 7, codeMeta, codeMaint]).all fun c => w.count c == (ws.headD []).count c

/-- The section's check is that of each wheel, and that their counts agree. -/
theorem wheelsOk_iff {ws : List (List Nat)} (hl : ws.length = 12) :
    wheelsOk ws = true ↔ (∀ w ∈ ws, wheelOk w = true) ∧ countsAgree ws = true := by
  simp [wheelsOk, countsAgree, hl]

/-- Wheels whose bytes all name owners agree in their counts exactly when any two hold the same number of slots of each code. -/
theorem countsAgree_iff {ws : List (List Nat)} (hown : ∀ w ∈ ws, ∀ b ∈ w, b ≤ 7 ∨ b = 0x10 ∨ b = 0x11) (hne : ws ≠ []) :
    countsAgree ws = true ↔ ∀ w ∈ ws, ∀ v ∈ ws, ∀ c, w.count c = v.count c := by
  have hhead : ws.headD [] ∈ ws := by
    cases ws with
    | nil => exact absurd rfl hne
    | cons w ws => exact List.mem_cons_self
  simp only [countsAgree, List.all_eq_true, beq_iff_eq]
  constructor
  · intro h w hw v hv
    exact count_eq_of_owners (hown w hw) (hown v hv) fun c hc => (h w hw c hc).trans (h v hv c hc).symm
  · exact fun h w hw c _ => h w hw _ hhead c

/-- Settles O48: the check is that of each wheel and that their counts agree, and each is its rules. -/
theorem slotWheelsAreValidExactlyByTheRules : Obligations.SlotWheelsAreValidExactlyByTheRules := by
  intro ws hlen hwheels
  have hne : ws ≠ [] := by rintro rfl; exact nomatch hlen
  rw [wheelsOk_iff hlen, forall₂_congr fun w hw => wheelOk_iff (hwheels w hw)]
  exact and_congr_right fun hrules => countsAgree_iff (fun w hw => (hrules w hw).1) hne

end Sys2Proof.Machine

/-!
Denied accesses (R115, R116): what each row answers where no host range entry allows the access, and what a denial records.
-/
namespace Sys2Proof.Machine

/-! ### What a denied access answers -/

/-- A denied plain-region read returns poison. -/
theorem plainRequest_denied_read {s : State} {h a : Nat} {op : LineOp} (hop : ∀ bs, op ≠ .write bs) (hg : gate s h a false = .denied) :
    s.plainRequest h a op = (s.deny h false a).poisonRead h 64 := by
  unfold State.plainRequest
  cases op with
  | write bs => exact absurd rfl (hop bs)
  | _ => simp [hg]

/-- A denied plain-region write is dropped. -/
theorem plainRequest_denied_write {s : State} {h a : Nat} (bs : List (Option Byte)) (hg : gate s h a true = .denied) :
    s.plainRequest h a (.write bs) = (s.deny h false a).respond h none := by
  simp [State.plainRequest, hg]

/-- A denied read of a tenant's window outside the probe window, whatever kind of read its offset makes it. -/
theorem opCompletionHeadRead_denied {s : State} {h t off : Nat} (size : Nat) (hhead : hrtLookup s h true (winAddr t off) false .headRead = none)
    (hother : hrtLookup s h true (winAddr t off) false .other = none) :
    opCompletionHeadRead h t off size s = s.denyBar2 h (winAddr t off) size false := by
  have hkind : ∀ c : Prop, ∀ _ : Decidable c, hrtLookup s h true (winAddr t off) false (if c then .headRead else .other) = none := by
    intro c _
    split
    · exact hhead
    · exact hother
  unfold opCompletionHeadRead
  simp only [hkind]

/-- A denied probe. -/
theorem opPresenceProbe_denied {s : State} {h t off : Nat} (size port outstanding : Nat)
    (hd : hrtLookup s h true (winAddr t off) false .probeRead = none) :
    opPresenceProbe h t off size port outstanding s = s.denyBar2 h (winAddr t off) size false := by
  unfold opPresenceProbe
  rw [hd]

/-- A denied write of a submission cell. -/
theorem opSubmissionCellWrite_denied {s : State} {h t n off : Nat} (bs : List Byte)
    (hd : hrtLookup s h true (winAddr t (4096 * n + off)) true .other = none) :
    opSubmissionCellWrite h t n off bs s = s.denyBar2 h (winAddr t (4096 * n + off)) bs.length true := by
  unfold opSubmissionCellWrite
  rw [hd]

/-- A denied doorbell. -/
theorem opDoorbell_denied {s : State} {h t n : Nat} (size : Nat) (v : Word) (hd : hrtLookup s h true (winAddr t (0x5000 + 8 * n)) true .other = none) :
    opDoorbell h t n size v s = s.denyBar2 h (winAddr t (0x5000 + 8 * n)) size true := by
  unfold opDoorbell
  rw [hd]

/-- A denied write of a probe base. -/
theorem opProbeBaseWrite_denied {s : State} {h t off : Nat} (bs : List Byte) (hd : hrtLookup s h true (winAddr t off) true .other = none) :
    opProbeBaseWrite h t off bs s = s.denyBar2 h (winAddr t off) bs.length true := by
  unfold opProbeBaseWrite
  rw [hd]

/-! ### What a denial records -/

/-- The state in which a denial is counted and marked, before it may be recorded in LOG. -/
def State.denialMarked (s : State) (h : Nat) (w : Option Nat) : State :=
  match w with
  | some t => (s.addFld Fd.HRT_DENY_COUNT 1 h).setFld Fd.TNT_ERR_HRTDENY 1 t
  | none => s.addFld Fd.HRT_DENY_COUNT 1 h

/-- Marking a denial touches two registers. -/
theorem denialMarked_keeps (s : State) (h : Nat) (w : Option Nat) :
    Keeps (partMask [.reg .HRT_DENY, .reg .TNT_ERR]) s (s.denialMarked h w) := by
  have hcount : Keeps (partMask [.reg .HRT_DENY, .reg .TNT_ERR]) s (s.addFld Fd.HRT_DENY_COUNT 1 h) :=
    .step (.refl ..) (State.addFldAt (k := .HRT_DENY) _ _ _ _ rfl) (by decide +kernel)
  cases w with
  | none => exact hcount
  | some t => exact hcount.step (State.setFldAt (k := .TNT_ERR) _ _ _ _ rfl) (by decide +kernel)

/-- HRT_DENY counts the denial, saturating. -/
theorem denialMarked_count (s : State) (h : Nat) (w : Option Nat) :
    (s.denialMarked h w).fld Fd.HRT_DENY_COUNT h = min (2 ^ 64 - 1) (s.fld Fd.HRT_DENY_COUNT h + 1) := by
  have hcount : (s.addFld Fd.HRT_DENY_COUNT 1 h).fld Fd.HRT_DENY_COUNT h = min (2 ^ 64 - 1) (s.fld Fd.HRT_DENY_COUNT h + 1) :=
    State.fld_setFld_fits (k := .HRT_DENY) s _ h (by decide) (Nat.lt_of_le_of_lt (Nat.min_le_left ..) (by decide))
  cases w with
  | none => exact hcount
  | some t => exact (State.fld_setFld_reg _ _ _ _ _ _ (by decide)).trans hcount

/-- The tenant whose window the access reached is marked. -/
theorem denialMarked_flag (s : State) (h t : Nat) : (s.denialMarked h (some t)).flag Fd.TNT_ERR_HRTDENY t = true :=
  beq_iff_eq.2 (State.fld_setFld_fits (k := .TNT_ERR) _ 1 t (by decide) (by decide))

/-- A denial is counted and marked, and the first in each 1 ms is recorded in LOG. -/
theorem deny_eq (s : State) (h a : Nat) (bar2 : Bool) :
    s.deny h bar2 a = if firstInMs s.denyLogAt s.dtime then
        ({ s.denialMarked h (windowTenant bar2 a) with denyLogAt := some s.dtime } : State).logEv 0x0401 1 noIsland (windowTenant bar2 a) a
          (h + 16 * b2n bar2)
      else s.denialMarked h (windowTenant bar2 a) := by
  unfold State.deny State.denialMarked
  cases windowTenant bar2 a <;> rfl

/-- What is counted and marked stands after the record in LOG too. -/
theorem deny_reg (s : State) (h a : Nat) (bar2 : Bool) {k : RegKind} (hk : k = .HRT_DENY ∨ k = .TNT_ERR) (i : Nat) :
    (s.deny h bar2 a).reg k i = (s.denialMarked h (windowTenant bar2 a)).reg k i := by
  rw [deny_eq]
  split
  · rw [State.logEv_reg _ _ _ _ _ _ _ _ _ (by rcases hk with rfl | rfl <;> decide)]
    rfl
  · rfl

/-- A condition seen first in its 1 ms. -/
theorem firstInMs_iff {last : Option Nat} {now : Nat} : firstInMs last now = true ↔ ∀ x, last = some x → x + 1000000 ≤ now := by
  cases last with
  | none => simp [firstInMs]
  | some x => simp [firstInMs]

/-- The first denial in its 1 ms is recorded. -/
theorem deny_recorded {s : State} (h a : Nat) (bar2 : Bool) (hf : firstInMs s.denyLogAt s.dtime = true) :
    ∃ r ∈ (s.deny h bar2 a).log, r.code = 0x0401 ∧ r.tenant = windowTenant bar2 a ∧ s.dtime ≤ r.dtime + 1000000 := by
  rw [deny_eq, if_pos hf]
  obtain ⟨r, hr, hcode, -, htenant, htime⟩ :=
    logEv_has { s.denialMarked h (windowTenant bar2 a) with denyLogAt := some s.dtime } 0x0401 1 noIsland (windowTenant bar2 a) a (h + 16 * b2n bar2)
  have hnow : (s.denialMarked h (windowTenant bar2 a)).dtime = s.dtime := (denialMarked_keeps ..).same .dtime (by decide +kernel)
  exact ⟨r, hr, hcode, htenant, hnow ▸ htime⟩

/-- A later denial in the same 1 ms is not. -/
theorem deny_unrecorded {s : State} (h a : Nat) (bar2 : Bool) (hf : firstInMs s.denyLogAt s.dtime = false) : (s.deny h bar2 a).log = s.log := by
  rw [deny_eq, if_neg (by simp [hf])]
  exact (denialMarked_keeps ..).same .log (by decide +kernel)

/-- Settles O50: what each row answers when it is denied, and what the denial itself does. -/
theorem denialsAreCountedAndNothingElseHappens : Obligations.DenialsAreCountedAndNothingElseHappens := by
  refine ⟨?plain, ?reads, ?writes, ?denial⟩
  case plain =>
    intro s h a bs hr hw
    exact ⟨congrArg Host.Outcome.next (plainRequest_denied_read (by simp) hr), congrArg Host.Outcome.next (plainRequest_denied_read (by simp) hr),
      congrArg Host.Outcome.next (plainRequest_denied_read (by simp) hr), congrArg Host.Outcome.next (plainRequest_denied_write _ hw)⟩
  case reads =>
    intro s h t off size outstanding port hhead hprobe hother
    exact ⟨congrArg Host.Outcome.next (opCompletionHeadRead_denied size hhead hother),
      congrArg Host.Outcome.next (opPresenceProbe_denied size port.val outstanding hprobe)⟩
  case writes =>
    intro s h t n off p size v bs hcell hbell hbase
    exact ⟨congrArg Host.Outcome.next (opSubmissionCellWrite_denied bs hcell), congrArg Host.Outcome.next (opDoorbell_denied size v hbell),
      congrArg Host.Outcome.next (opProbeBaseWrite_denied bs hbase)⟩
  case denial =>
    intro s h a bar2
    refine ⟨?count, ?flag, fun hf => deny_recorded h a bar2 (firstInMs_iff.2 hf), fun ⟨x, hx, hlt⟩ => deny_unrecorded h a bar2 ?_⟩
    case count =>
      rw [State.fld_of_reg Fd.HRT_DENY_COUNT h (deny_reg s h a bar2 (.inl rfl) h)]
      exact denialMarked_count ..
    case flag =>
      intro t ht
      rw [State.flag, State.fld_of_reg Fd.TNT_ERR_HRTDENY t (deny_reg s h a bar2 (.inr rfl) t), ht]
      exact denialMarked_flag ..
    · simpa [firstInMs, hx] using hlt

end Sys2Proof.Machine

/-!
What the rows of the spools, of sequences and of chunks may change, from the frame of the operation that each row is.
-/
namespace Sys2Proof.Machine

/-- Settles O35: every row is its operation, whose frame lies within the list stated. -/
theorem spoolAndPrefixFrames : Obligations.SpoolAndPrefixFrames := by
  refine ⟨?cellWrite, ?doorbell, ?spoolReset, ?decode, ?cellsMissing, ?announcedMissing, ?entryWrite, ?headRead, ?baseWrite, ?probe, ?nop, ?lookup,
    ?extend, ?append, ?commit, ?commitLink, ?fork, ?release, ?pin, ?unpin, ?deliver, ?deliverComplete, ?holdExpire⟩
  case cellWrite =>
    exact fun s h t n off bs => mayChange_of_keeps (opSubmissionCellWrite_keeps h.val t.val n.val off.val bs s) rfl
  case doorbell => exact fun s h t n size v => mayChange_of_keeps (opDoorbell_keeps h.val t.val n.val size v s) rfl
  case spoolReset => exact fun s h t n tail => mayChange_of_keeps (opSpoolReset_keeps h.val t.val n.val tail.toNat s) rfl
  case decode => exact fun s => mayChange_of_keeps (opCommandDecode_keeps s) rfl
  case cellsMissing => exact fun s t n q => mayChange_of_keeps (opCommandCellsMissing_keeps t.val n.val q.val s) rfl
  case announcedMissing => exact fun s t n => mayChange_of_keeps (opAnnouncedCellMissing_keeps t.val n.val s) rfl
  case entryWrite => exact fun s t m => mayChange_of_keeps (opCompletionEntryWrite_keeps t.val m.val s) rfl
  case headRead => exact fun s h t off size => mayChange_of_keeps (opCompletionHeadRead_keeps h.val t.val off.val size s) rfl
  case baseWrite => exact fun s h t off bs => mayChange_of_keeps (opProbeBaseWrite_keeps h.val t.val off.val bs s) rfl
  case probe =>
    exact fun s h t off size port out => mayChange_of_keeps (opPresenceProbe_keeps h.val t.val off.val size port.val out s) rfl
  case nop => exact fun s uid => mayChange_of_keeps (opNop_keeps uid s) rfl
  case lookup => exact fun s uid hm pick => mayChange_of_keeps (opLookup_keeps uid hm pick s) rfl
  case extend => exact fun s uid sp cp => mayChange_of_keeps (opExtend_keeps uid sp cp s) rfl
  case append => exact fun s uid hm picks => mayChange_of_keeps (opAppend_keeps uid hm picks s) rfl
  case commit => exact fun s uid hm => mayChange_of_keeps (opCommit_keeps uid hm s) rfl
  case commitLink => exact fun s uid picks => mayChange_of_keeps (opCommitLink_keeps uid picks s) rfl
  case fork => exact fun s uid sp cp => mayChange_of_keeps (opFork_keeps uid sp cp s) rfl
  case release => exact fun s uid => mayChange_of_keeps (opRelease_keeps uid s) rfl
  case pin => exact fun s uid => mayChange_of_keeps (opPin_keeps uid s) rfl
  case unpin => exact fun s uid => mayChange_of_keeps (opUnpin_keeps uid s) rfl
  case deliver => exact fun s uid => mayChange_of_keeps (opDeliver_keeps uid s) rfl
  case deliverComplete => exact fun s uid ok now => mayChange_of_keeps (opDeliverComplete_keeps uid ok now s) rfl
  case holdExpire => exact fun s h layer now => mayChange_of_keeps (opDeliveryHoldExpire_keeps h.val layer.val now s) rfl

end Sys2Proof.Machine

/-!
NOP and the CRC of a command (R147, R166): what the end of a command with a code other than QUOTA may change, and the first two spool-level results of R746.
-/
namespace Sys2Proof.Machine

/-! ### NOP (R147) -/

/-- The end of a command with any code but QUOTA sets no flag of its tenant (R105). -/
theorem State.finish_keeps_of_ne_quota (s : State) (c : Cmd) {code : Nat} (r0 r1 : Word) (h : code ≠ Cc.quota) :
    Keeps (partMask [.inflight, .comps]) s (s.finish c code r0 r1) := by
  simp only [State.finish, if_neg h]
  exact .step (.step (.refl ..) (upd_inflight ..) (by decide +kernel)) (State.pushDone_keeps ..) (by decide +kernel)

/-- A NOP with its one cell held ends OK. -/
theorem opNop_ends {s : State} {u : Nat} {c : Cmd} (hc : s.cmd u = some c) (hop : c.opcode = Oc.nop) (hf : c.full = true) :
    opNop u s = s.finish c Cc.ok 0 0 := by
  simp only [opNop, hc, hop, hf, and_self, if_true]

/-- What R147 says of a NOP's row: the end, and nothing beside it. -/
theorem nop_completes {s : State} {u : Nat} {c : Cmd} (hc : s.cmd u = some c) (hop : c.opcode = Oc.nop) (hf : c.full = true) :
    Completes (.nop u) s fun t => Ended s t c Cc.ok 0 0 ∧ ChangesOnly [.inflight, .comps] s t :=
  completes_next (congrArg Host.Outcome.next (opNop_ends hc hop hf))
    ⟨finish_ended c Cc.ok 0 0 rfl, (s.finish_keeps_of_ne_quota c 0 0 (by decide)).changesOnly (Nat.or_self _)⟩

/-- NOP has no range of cells of its own: it takes one (R147). -/
theorem ncellOk_nop (s : State) (t : Nat) (first : List Word) (n : Nat) : ncellOk s t Oc.nop first n = (n == 0) := rfl

/-- Settles O45: NOP's row is the end of its command, and neither PANEL_BUSY nor a cell count but 0 applies to its opcode. -/
theorem nopHasNoEffectAndEndsOk : Obligations.NopHasNoEffectAndEndsOk := by
  refine ⟨fun s u c hc hop hf => nop_completes hc hop hf, fun s t => if_pos rfl, fun s t first n => ?_⟩
  rw [ncellOk_nop]
  exact beq_iff_eq

/-! ### The CRC of a command (R166, R167) -/

/-- With CRCEN 1 the CRC decides the first result of R746, and every later one has another code. -/
theorem spoolResult_crcMismatch_iff {s : State} {t : Nat} {first : List Word} {bytes : List Byte} (h : hdrCrcEn (wordAt first 0) = true) :
    spoolResult s t first bytes = some (Cc.crcMismatch, 0x0001) ↔
      crc32c (bytes.take 4 ++ [0, 0, 0, 0] ++ bytes.drop 8) ≠ hdrCrc (wordAt first 0) := by
  simp only [spoolResult, h, Bool.not_true, Bool.and_false, Bool.false_eq_true, if_false, Bool.true_and, bne_iff_ne]
  by_cases hcrc : crc32c (bytes.take 4 ++ [0, 0, 0, 0] ++ bytes.drop 8) = hdrCrc (wordAt first 0)
  · rw [if_neg (not_not_intro hcrc)]
    refine iff_of_false ?_ (not_not_intro hcrc)
    repeat' split
    all_goals decide
  · exact iff_of_true (if_pos hcrc) hcrc

/-- Settles O57: the check value by computation, and the check of a command as the first of its results. -/
theorem commandCrcsAreCrc32c : Obligations.CommandCrcsAreCrc32c :=
  ⟨by decide +kernel, fun _ _ _ _ h => spoolResult_crcMismatch_iff h⟩

end Sys2Proof.Machine

/-!
What a host's writes to its window do where they are allowed (R139, R142, R153, R165, R271): a whole cell written to an aperture, a doorbell, and a quadrant's base.
-/
namespace Sys2Proof.Machine

/-! ### The rows where a host range entry allows the access -/

/-- An allowed write of an aperture goes to its slots. -/
theorem opSubmissionCellWrite_allowed {s : State} {h t n off : Nat} (bs : List Byte)
    (ha : (hrtLookup s h true (winAddr t (4096 * n + off)) true .other).isSome) :
    opSubmissionCellWrite h t n off bs s = s.apertureWrite t n (bs.length + 1) off bs := by
  obtain ⟨e, he⟩ := Option.isSome_iff_exists.1 ha
  simp only [opSubmissionCellWrite, he]

/-- An allowed doorbell is taken by its size and its RESET bit. -/
theorem opDoorbell_allowed {s : State} {h t n : Nat} (size : Nat) (v : Word)
    (ha : (hrtLookup s h true (winAddr t (0x5000 + 8 * n)) true .other).isSome) :
    opDoorbell h t n size v s =
      if size ≠ 8 then s else if bitsOf v 16 16 = 1 then s.resetSpool t n (bitsOf v 15 0) else s.moveTail t n (bitsOf v 15 0) := by
  obtain ⟨e, he⟩ := Option.isSome_iff_exists.1 ha
  simp only [opDoorbell, he]

/-- An allowed write of the probe window sets a quadrant's base, or nothing. -/
theorem opProbeBaseWrite_allowed {s : State} {h t off : Nat} (bs : List Byte) (ha : (hrtLookup s h true (winAddr t off) true .other).isSome) :
    opProbeBaseWrite h t off bs s =
      if 0x8000 ≤ off ∧ off % 0x2000 = 0 ∧ bs.length = 8 then
        { s with pbase := mapIns (4 * t + (off - 0x8000) / 0x2000) (ofLE bs % 1024) s.pbase }
      else s := by
  obtain ⟨e, he⟩ := Option.isSome_iff_exists.1 ha
  simp only [opProbeBaseWrite, he]

/-- An allowed doorbell of 8 bytes without RESET moves TAIL. -/
theorem opDoorbell_tail {s : State} {h t n : Nat} {v : Word} (ha : (hrtLookup s h true (winAddr t (0x5000 + 8 * n)) true .other).isSome)
    (hv : bitsOf v 16 16 = 0) : opDoorbell h t n 8 v s = s.moveTail t n (bitsOf v 15 0) := by
  rw [opDoorbell_allowed 8 v ha, if_neg (by decide), if_neg (by rw [hv]; decide)]

/-! ### A whole cell (R139) -/

/-- The state in which what has been written of an aperture slot is no longer kept. -/
def State.clearSlot (s : State) (t n slot : Nat) : State :=
  s.setSpool t n { s.spool t n with part := mapDel slot (s.spool t n).part }

/-- Clearing a slot leaves the rest of the spool. -/
theorem clearSlot_spool (s : State) (t n slot : Nat) :
    (s.clearSlot t n slot).spool t n = { s.spool t n with part := mapDel slot (s.spool t n).part } := State.spool_setSpool ..

/-- 64 bytes written to a slot of which nothing has been written are captured as its cell. -/
theorem slotWrite_wholeCell {s : State} {t n slot : Nat} {bs : List Byte} (hlen : bs.length = 64) (hpart : mapFind (s.spool t n).part slot = none) :
    s.slotWrite t n slot 0 bs = (s.clearSlot t n slot).capture t n (slotSeq (s.sqNext t n) slot) (wordsOf bs) := by
  simp only [State.slotWrite, State.clearSlot, hpart, Option.getD_none, putBytes_full 64 bs hlen, mapM_id_some]

/-- An allowed write of a whole cell reaches that one slot. -/
theorem opSubmissionCellWrite_wholeCell {s : State} {h t n off : Nat} {bs : List Byte}
    (ha : (hrtLookup s h true (winAddr t (4096 * n + off)) true .other).isSome) (hoff : off < 4096) (hal : off % 64 = 0) (hlen : bs.length = 64)
    (hpart : mapFind (s.spool t n).part (off / 64) = none) :
    opSubmissionCellWrite h t n off bs s =
      (s.clearSlot t n (off / 64)).capture t n (slotSeq (s.sqNext t n) (off / 64)) (wordsOf bs) := by
  have hne : ¬(bs = [] ∨ 4096 ≤ off) := by
    rintro (rfl | hle)
    · exact absurd hlen (by decide)
    · omega
  have hrest : bs.drop 64 = [] := List.drop_of_length_le (by omega)
  rw [opSubmissionCellWrite_allowed bs ha, State.apertureWrite, if_neg hne]
  simp only [hal, Nat.sub_zero, List.take_of_length_le (Nat.le_of_eq hlen), hrest, hlen, slotWrite_wholeCell hlen hpart]
  rw [State.apertureWrite, if_pos (.inl rfl)]

/-- The spool in which a captured cell is held, NEXT moved past every cell that has arrived. -/
def State.holdCell (s : State) (t n q : Nat) (cell : List Word) : State :=
  (s.setSpool t n { s.spool t n with cells := mapIns q cell (s.spool t n).cells }).setFld Fd.SPL_SQS_NEXT
    (nextFree (mapIns q cell (s.spool t n).cells) ((mapIns q cell (s.spool t n).cells).length + 1) (s.sqNext t n)) (sqIdx t n)

/-- A cell within the grant of a spool that is not in ERROR and has no command in cut-through decode is held. -/
theorem capture_within {s : State} {t n q : Nat} (cell : List Word) (herr : s.sqError t n = false) (hg : seqSub q (s.sqFreed t n) < sqGrant s t n)
    (hcut : (s.spool t n).cutting = none) : s.capture t n q cell = s.holdCell t n q cell := by
  have hpast : pastError s t n q = false := by simp only [pastError, herr, Bool.false_and]
  have hidle : ∀ u : State, (u.spool t n).cutting = none → u.cutOn t n = u := fun u hu => by simp only [State.cutOn, hu]
  rw [State.capture, if_neg (Nat.not_le.2 hg), if_neg (by simp only [hpast, Bool.false_eq_true, not_false_eq_true])]
  exact hidle _ ((congrArg Spool.cutting (State.spool_setSpool ..)).trans hcut)

/-- The cell is held at its sequence number, and FREED and TAIL stand. -/
theorem holdCell_effect (s : State) (t n q : Nat) (cell : List Word) :
    mapFind ((s.holdCell t n q cell).spool t n).cells q = some cell ∧ (s.holdCell t n q cell).sqFreed t n = s.sqFreed t n ∧
      (s.holdCell t n q cell).sqTail t n = s.sqTail t n := by
  refine ⟨?_, State.fld_setFld_other (k := .SPL_SQS) _ _ _ _ (by decide) (by decide) (.inl (by decide)),
    State.fld_setFld_other (k := .SPL_SQS) _ _ _ _ (by decide) (by decide) (.inl (by decide))⟩
  have hspool : (s.holdCell t n q cell).spool t n = { s.spool t n with cells := mapIns q cell (s.spool t n).cells } :=
    State.spool_setSpool ..
  rw [hspool]
  exact mapFind_mapIns_same ..

/-! ### Doorbells (R142, R153) -/

/-- A TAIL that is not ahead of the old one is ignored. -/
theorem moveTail_behind {s : State} {t n tail : Nat} (h : seqSub tail (s.sqTail t n) = 0 ∨ 32768 ≤ seqSub tail (s.sqTail t n)) :
    s.moveTail t n tail = s := if_pos h

/-- A TAIL ahead of the old one is set within the grant, and is an overrun beyond it. -/
theorem moveTail_ahead {s : State} {t n tail : Nat} (h0 : 0 < seqSub tail (s.sqTail t n)) (h1 : seqSub tail (s.sqTail t n) < 32768) :
    s.moveTail t n tail =
      if sqGrant s t n < seqSub tail (s.sqFreed t n) then s.overrun t n (s.sqTail t n) else s.setFld Fd.SPL_SQS_TAIL tail (sqIdx t n) :=
  if_neg (by omega)

/-- A doorbell beyond the grant is an overrun at the old TAIL. -/
theorem opDoorbell_overrun {s : State} {h t n : Nat} {v : Word} (ha : (hrtLookup s h true (winAddr t (0x5000 + 8 * n)) true .other).isSome)
    (hv : bitsOf v 16 16 = 0) (h0 : 0 < seqSub (bitsOf v 15 0) (s.sqTail t n)) (h1 : seqSub (bitsOf v 15 0) (s.sqTail t n) < 32768)
    (hg : sqGrant s t n < seqSub (bitsOf v 15 0) (s.sqFreed t n)) : opDoorbell h t n 8 v s = s.overrun t n (s.sqTail t n) := by
  rw [opDoorbell_tail ha hv, moveTail_ahead h0 h1, if_pos hg]

/-- The word of a reset doorbell: RESET, and its TAIL below it (R165). -/
theorem resetWord_bits {tail : Nat} (h : tail < 65536) :
    bitsOf (BitVec.ofNat 64 (65536 + tail % 65536)) 16 16 = 1 ∧ bitsOf (BitVec.ofNat 64 (65536 + tail % 65536)) 15 0 = tail := by
  have hlt : 65536 + tail % 65536 < 18446744073709551616 := by omega
  rw [bitsOf_ofNat _ 16 16 hlt, bitsOf_ofNat _ 15 0 hlt]
  omega

/-- An allowed reset doorbell resets the spool to its TAIL. -/
theorem opSpoolReset_allowed {s : State} {h t n tail : Nat} (ht : tail < 65536)
    (ha : (hrtLookup s h true (winAddr t (0x5000 + 8 * n)) true .other).isSome) : opSpoolReset h t n tail s = s.resetSpool t n tail := by
  obtain ⟨hreset, htail⟩ := resetWord_bits ht
  rw [opSpoolReset, opDoorbell_allowed _ _ ha, if_neg (by decide), if_pos hreset, htail]

/-! ### The base of a quadrant (R271) -/

/-- The base written is read for that quadrant. -/
theorem pbaseOf_mapIns (s : State) (t q b : Nat) : ({ s with pbase := mapIns (4 * t + q) b s.pbase } : State).pbaseOf t q = b := by
  simp only [State.pbaseOf, mapFind_mapIns_same, Option.getD_some]

/-- Settles O1: each row where its access is allowed, by the branch of its operation that the conditions pick, and where it is denied. -/
theorem spoolWritesComplete : Obligations.SpoolWritesComplete := by
  refine ⟨?cell, ?tail, ?ignored, ?overrun, ?reset, ?base, ?dropped, ?denied⟩
  case cell =>
    intro s h t n off bs q ha hal hlen hq herr hg hpart hcut
    refine completes_next (congrArg Host.Outcome.next (opSubmissionCellWrite_wholeCell ha off.isLt hal hlen hpart)) ?_
    have hclear : ((s.clearSlot t n (off / 64)).spool t n).cutting = none := by rw [clearSlot_spool, hcut]
    rw [← hq, capture_within (s := s.clearSlot t n (off / 64)) _ herr hg hclear]
    exact holdCell_effect ..
  case tail =>
    intro s h t n v ha hv h0 h1 hg
    refine congrArg Host.Outcome.next ?_
    rw [opDoorbell_tail ha hv, moveTail_ahead h0 h1, if_neg (Nat.not_lt.2 hg)]
  case ignored =>
    intro s h t n size v ha hcase
    refine congrArg Host.Outcome.next ?_
    by_cases h8 : size = 8
    · obtain ⟨hv, hbehind⟩ := hcase.resolve_left (not_not_intro h8)
      rw [h8, opDoorbell_tail ha hv, moveTail_behind hbehind]
    · rw [opDoorbell_allowed size v ha, if_pos h8]
  case overrun =>
    intro s h t n v ha hv h0 h1 hg
    exact completes_next (congrArg Host.Outcome.next (opDoorbell_overrun ha hv h0 h1 hg)) (overrun_effect ..)
  case reset =>
    intro s h t n tail ha
    exact completes_next (congrArg Host.Outcome.next (opSpoolReset_allowed tail.isLt ha)) (resetSpool_effect s t n tail.toNat tail.isLt _ rfl)
  case base =>
    intro s h t q bs off ha hoff hlen
    have hq : (off.val - 0x8000) / 0x2000 = q.val := by omega
    refine completes_next (congrArg Host.Outcome.next (opProbeBaseWrite_allowed bs ha)) ?_
    rw [if_pos ⟨by omega, by omega, hlen⟩, hq]
    exact ⟨pbaseOf_mapIns .., (upd_pbase s _).changesOnly⟩
  case dropped =>
    intro s h t bs off ha hcase
    refine congrArg Host.Outcome.next ?_
    rw [opProbeBaseWrite_allowed bs ha, if_neg (fun ⟨_, hal, hlen⟩ => hcase.elim (· hal) (· hlen))]
  case denied =>
    intro s h t n off v bs hcell hbell
    exact ⟨congrArg Host.Outcome.next (opSubmissionCellWrite_denied bs hcell), congrArg Host.Outcome.next (opDoorbell_denied 8 v hbell)⟩

/-! ### Overruns (R153) -/

/-- A cell at or beyond the grant is an overrun at its sequence number, whatever the spool's state. -/
theorem capture_beyond {s : State} {t n q : Nat} (cell : List Word) (hg : sqGrant s t n ≤ seqSub q (s.sqFreed t n)) :
    s.capture t n q cell = s.overrun t n q := if_pos hg

/-- Settles O46: both rows come to the same overrun, which holds no cell and leaves TAIL. -/
theorem overrunsPutTheSpoolInError : Obligations.OverrunsPutTheSpoolInError := by
  refine ⟨?cell, ?doorbell⟩
  case cell =>
    intro s h t n off bs q ha hal hlen hq hg hpart _
    refine completes_next (congrArg Host.Outcome.next (opSubmissionCellWrite_wholeCell ha off.isLt hal hlen hpart)) ?_
    rw [← hq, capture_beyond (s := s.clearSlot t n (off / 64)) _ hg]
    obtain ⟨-, herr, hover⟩ := overrun_effect (s.clearSlot t n (off / 64)) t n q
    refine ⟨?_, herr, hover, overrun_log ..⟩
    rw [overrun_cells, clearSlot_spool]
  case doorbell =>
    intro s h t n v ha hv h0 h1 hg
    refine completes_next (congrArg Host.Outcome.next (opDoorbell_overrun ha hv h0 h1 hg)) ?_
    obtain ⟨htail, herr, hover⟩ := overrun_effect s t n (s.sqTail t n)
    exact ⟨htail, herr, hover, overrun_log ..⟩

end Sys2Proof.Machine

/-!
What the part does of itself on the command path (R149 to R159), and what a host reads of it (R159, R272): decoding, missing cells, completion entries, head reads and presence probes.
-/
namespace Sys2Proof.Machine

/-- A completion spool is read from the completion spools alone. -/
theorem comp_of_comps {s u : State} (h : u.comps = s.comps) (t m : Nat) : u.comp t m = s.comp t m := by
  simp only [State.comp, h]

/-! ### Decoding (R149, R150) -/

/-- Counting the spools passed over changes the spools alone. -/
theorem countPassed_eq (s : State) (t taken : Nat) : ∃ x, s.countPassed t taken = { s with spools := x } := by
  unfold State.countPassed
  generalize List.range 4 = l
  induction l generalizing s with
  | nil => exact ⟨s.spools, rfl⟩
  | cons n l ih =>
    obtain ⟨x, hx⟩ := ih (s.setSpool t n { s.spool t n with passed := if n ≠ taken && (takeable s t n) then (s.spool t n).passed + 1 else 0 })
    exact ⟨x, hx⟩

/-- The state in which the turn of a tenant and its spool has come: the spools passed over are counted, and the rotation stands at the tenant (R150). -/
def State.turnTaken (s : State) (t n : Nat) : State := { s.countPassed t n with rotor := t }

/-- A turn changes the spools and the rotation alone. -/
theorem turnTaken_eq (s : State) (t n : Nat) : ∃ x, s.turnTaken t n = { s with spools := x, rotor := t } := by
  obtain ⟨x, hx⟩ := countPassed_eq s t n
  exact ⟨x, by rw [State.turnTaken, hx]⟩

/-- What decoding reads of the rest of the state is as it was before the turn. -/
theorem turnTaken_reads (s : State) (t n : Nat) :
    (s.turnTaken t n).nextUid = s.nextUid ∧ (s.turnTaken t n).sqFreed t n = s.sqFreed t n ∧ partFailed (s.turnTaken t n) = partFailed s ∧
      (∀ op, panelBusy (s.turnTaken t n) t op = panelBusy s t op) ∧
      ∀ first bytes, spoolResult (s.turnTaken t n) t first bytes = spoolResult s t first bytes := by
  obtain ⟨x, hx⟩ := turnTaken_eq s t n
  rw [hx]
  exact ⟨rfl, rfl, rfl, fun _ => rfl, fun _ _ => rfl⟩

/-- The decoders take a command of the tenant and the spool whose turn it is. -/
theorem opCommandDecode_turn {s : State} {t n : Nat} (ht : nextTenant s = some t) (hn : turnSpool s t = some n) :
    opCommandDecode s = (s.turnTaken t n).take t n := by
  simp only [opCommandDecode, ht, hn, State.turnTaken]

/-- The command in flight that a command with all its cells and no result given at decode becomes. -/
def takenCmd (s : State) (t n : Nat) (first : List Word) : Cmd :=
  { uid := s.nextUid, tenant := t, sq := n, cq := cqFor s t (wordAt first 0), opcode := hdrOpcode (wordAt first 0), ncell := hdrNcell (wordAt first 0),
    tag := hdrTag (wordAt first 0), seq := (s.spool t n).pos,
    words := cellWords (s.spool t n).cells (s.spool t n).pos (hdrNcell (wordAt first 0) + 1), full := true, early := none, cancel := none,
    since := s.dtime, npins := [], fpins := [], curDone := [], work := .ready }

/-- A command taken with all its cells held and no result given at decode: the part is awake, the command is in flight and its cells are freed. -/
theorem take_whole {s : State} {t n : Nat} {first : List Word} (hfirst : mapFind (s.spool t n).cells (s.spool t n).pos = some first)
    (hheld : cellsHeld (s.spool t n).cells (s.spool t n).pos (hdrNcell (wordAt first 0) + 1) = true)
    (hres : spoolResult s t first (bytesOf (cellWords (s.spool t n).cells (s.spool t n).pos (hdrNcell (wordAt first 0) + 1))) = none)
    (hfail : partFailed s = false) (hbusy : panelBusy s t (hdrOpcode (wordAt first 0)) = false) :
    s.take t n = ({ s.wake with nextUid := s.nextUid + 1, inflight := s.inflight ++ [takenCmd s t n first] } : State).freeCommand t n
      (hdrNcell (wordAt first 0) + 1) := by
  simp only [State.take, hfirst, Option.getD_some, hheld, hres, hfail, hbusy, Bool.false_eq_true, false_and, and_false, if_false, if_true,
    Bool.and_false, State.finishEarly, takenCmd]

/-- FREED advances by the cells of the command (R136). -/
theorem freeCommand_freed (s : State) (t n k : Nat) : (s.freeCommand t n k).sqFreed t n = (s.sqFreed t n + k) % 65536 :=
  State.fld_setFld_fits (k := .SPL_SQS) _ _ _ (by decide) (Nat.mod_lt _ (by decide))

/-- What a whole command taken changes of the commands in flight and of FREED. -/
theorem take_whole_effect {s u : State} {t n k : Nat} {c : Cmd}
    (hu : ({ s.wake with nextUid := s.nextUid + 1, inflight := s.inflight ++ [c] } : State).freeCommand t n k = u) :
    c ∈ u.inflight ∧ u.sqFreed t n = (s.sqFreed t n + k) % 65536 ∧ u.rotor = s.rotor := by
  subst hu
  refine ⟨List.mem_append_right _ (List.mem_singleton_self c), ?_, State.wake_rotor s⟩
  rw [freeCommand_freed]
  exact congrArg (fun x => (x + k) % 65536) (State.wake_fld s Fd.SPL_SQS_FREED _ (by decide))

/-! ### Missing cells (R151) -/

/-- A command that is cancelled undecoded waits for its completion spool, behind what waits there (R158). -/
theorem cancelHeld_waiting (s : State) (t n q : Nat) (hdr : Word) (detail : Nat) :
    ((s.cancelHeld t n q hdr detail).comp t (cqFor s t hdr)).waiting = (s.comp t (cqFor s t hdr)).waiting ++
      [{ sq := n, seq := q, opcode := hdrOpcode hdr, ncell := hdrNcell hdr, tag := hdrTag hdr, code := Cc.cancelled, r0 := detailWord detail, r1 := 0,
         counted := false }] := by
  have hcomps : (s.countEnd (hdrOpcode hdr) Cc.cancelled).comps = s.comps := (State.countEnd_keeps ..).same .comps (by decide +kernel)
  simp only [State.cancelHeld, State.pushDone, comp_setComp, comp_of_comps hcomps]

/-- A command dropped that is not in cut-through decode is cancelled undecoded. -/
theorem dropCommand_comps {s : State} {t n q : Nat} (hdr : Word) (hcut : q = (s.spool t n).pos → (s.spool t n).cutting = none) :
    (s.dropCommand t n q hdr).comps = (s.cancelHeld t n q hdr 0x0003).comps := by
  have hnone : (if q = (s.spool t n).pos then (s.spool t n).cutting.bind s.cmd else none) = none := by
    split
    · next hq => rw [hcut hq, Option.bind_none]
    · rfl
  simp only [State.dropCommand, hnone]
  rfl

/-- A held command of an ACTIVE tenant with a cell missing, not past the error of its spool, is dropped and puts its spool in ERROR. -/
theorem opCommandCellsMissing_drops {s : State} {t n q : Nat} {hdr : Word} (hact : s.active t = true)
    (hfind : (s.spool t n).commands.find? (fun e => e.1 == q) = some (q, hdr)) (hheld : cellsHeld (s.spool t n).cells q (hdrNcell hdr + 1) = false)
    (hpast : pastError s t n q = false) :
    opCommandCellsMissing t n q s = ((s.dropCommand t n q hdr).spoolError t n errMissing q (hdrTag hdr)).addFld Fd.SPL_ERRCNT_MISSCNT 1 := by
  simp only [opCommandCellsMissing, hfind, hact, hheld, hpast, Bool.not_true, Bool.or_self, Bool.false_eq_true, if_false]

/-- Counting a missing cell leaves the completion spools and the state of each spool. -/
theorem missingCounted_effect (s : State) (t n q tag : Nat) :
    ((s.spoolError t n errMissing q tag).addFld Fd.SPL_ERRCNT_MISSCNT 1).sqError t n = true ∧
      ((s.spoolError t n errMissing q tag).addFld Fd.SPL_ERRCNT_MISSCNT 1).comps = s.comps := by
  refine ⟨?_, (State.spoolError_keeps s t n errMissing q tag).same .comps (by decide +kernel)⟩
  rw [State.sqError, State.flag, State.addFld, State.fld_setFld_reg _ _ _ _ _ _ (by decide)]
  exact spoolError_state ..

/-- SPL_SQE of a spool that an announced cell is missing from. -/
def missingWord (q : Nat) : Word := packWord [(32, q % seqMod), (16, 0), (4, errMissing), (0, 1)]

/-- An announced cell that has not arrived puts a spool that is not in ERROR there. -/
theorem opAnnouncedCellMissing_errs {s : State} {t n : Nat} (hact : s.active t = true) (hann : announced s t n = true)
    (hcell : mapFind (s.spool t n).cells (s.spool t n).pos = none) (herr : s.sqError t n = false) :
    opAnnouncedCellMissing t n s = s.setReg .SPL_SQE (sqIdx t n) (missingWord (s.spool t n).pos) := by
  simp only [opAnnouncedCellMissing, hact, hann, hcell, pastError, herr, Bool.not_true, Option.isSome_none, Bool.false_and, Bool.or_self,
    Bool.false_eq_true, if_false, State.spoolError, missingWord]

/-- The fields of that word (R174). -/
theorem missingWord_bits (q : Nat) :
    bitsOf (missingWord q) 0 0 = 1 ∧ bitsOf (missingWord q) 7 4 = errMissing ∧ bitsOf (missingWord q) 47 32 = q % 65536 := by
  have hq : q % 65536 < 65536 := Nat.mod_lt _ (by decide)
  simp only [missingWord, packWord, List.foldl, seqMod, errMissing]
  rw [bitsOf_ofNat _ 0 0 (by omega), bitsOf_ofNat _ 7 4 (by omega), bitsOf_ofNat _ 47 32 (by omega)]
  omega

/-! ### Completion entries and head reads (R156 to R159) -/

/-- The entry of the command that ended first is written where the completion spool has room. -/
theorem opCompletionEntryWrite_room {s : State} {t m : Nat} {d : Done} {rest : List Done} (hw : (s.comp t m).waiting = d :: rest)
    (hroom : (s.comp t m).unread.length < 2 * cqGrant s t m) :
    opCompletionEntryWrite t m s = s.setComp t m
      { s.comp t m with waiting := rest, unread := (s.comp t m).unread ++ [entryWords d (s.sqFreed t d.sq) s.dtime] } := by
  simp only [opCompletionEntryWrite, hw, if_pos hroom]

/-- A full completion spool makes the entry wait. -/
theorem opCompletionEntryWrite_full {s : State} {t m : Nat} (hfull : 2 * cqGrant s t m ≤ (s.comp t m).unread.length) :
    opCompletionEntryWrite t m s = s := by
  simp only [opCompletionEntryWrite, if_neg (Nat.not_lt.2 hfull)]
  split <;> rfl

/-- An entry of four words has 32 bytes. -/
theorem bytesOf_length (ws : List Word) : (bytesOf ws).length = 8 * ws.length := by
  induction ws with
  | nil => rfl
  | cons w ws ih =>
    rw [bytesOf] at ih ⊢
    rw [List.flatMap_cons, List.length_append, ih, leBytes_length, List.length_cons]
    omega

/-- A 32-byte read at the head gives the oldest entry, and consumes one. -/
theorem headData_oldest {c : CompSpool} {e : List Word} {rest : List (List Word)} (hu : c.unread = e :: rest) (he : e.length = 4) :
    headData c 0 32 = (bytesOf e, 1) := by
  have hlen : (bytesOf e).length = 32 := by rw [bytesOf_length, he]
  simp only [headData, hu, and_self, if_true, List.getD_cons_zero, List.length_cons, List.take_left' hlen,
    Nat.min_eq_left (Nat.le_add_left 1 rest.length)]

/-- Consuming one entry moves it to the front of the replay area and advances CONSUMED (R159, R160). -/
theorem consume_oldest {s : State} {t m : Nat} {e : List Word} {rest : List (List Word)} (hu : (s.comp t m).unread = e :: rest) :
    (s.consume t m 1).comp t m = { s.comp t m with unread := rest, replay := (e :: (s.comp t m).replay).take 16 } ∧
      (s.consume t m 1).fld Fd.SPL_CQS_CONSUMED (cqIdx t m) = (s.fld Fd.SPL_CQS_CONSUMED (cqIdx t m) + 1) % 65536 := by
  have hgone : (s.comp t m).unread.take 1 = [e] := by rw [hu, List.take_succ_cons, List.take_zero]
  refine ⟨?_, ?_⟩
  · rw [State.consume, hgone, hu]
    exact comp_setComp ..
  · rw [State.consume, hgone]
    exact State.fld_setFld_same _ Fd.SPL_CQS_CONSUMED _ _ (by decide) (by decide)

/-- An allowed 32-byte read at the head of a completion spool, media being ready. -/
theorem opCompletionHeadRead_head {s : State} {h t m : Nat} {e : List Word} {rest : List (List Word)} (hm : m < 2)
    (ha : (hrtLookup s h true (winAddr t (0x4000 + 64 * m)) false .headRead).isSome) (hmedia : mediaReady s = true)
    (hu : (s.comp t m).unread = e :: rest) (he : e.length = 4) :
    opCompletionHeadRead h t (0x4000 + 64 * m) 32 s = (s.consume t m 1).emit (.readData h (bytesOf e) false) := by
  obtain ⟨x, hx⟩ := Option.isSome_iff_exists.1 ha
  have hkind : (0x4000 ≤ 0x4000 + 64 * m ∧ 0x4000 + 64 * m < 0x4080) ∨ (0x4800 ≤ 0x4000 + 64 * m ∧ 0x4000 + 64 * m < 0x4C00) :=
    .inl ⟨by omega, by omega⟩
  have hspool : (0x4000 + 64 * m - 0x4000) / 64 = m := by omega
  have hbyte : (0x4000 + 64 * m) % 64 = 0 := by omega
  simp only [opCompletionHeadRead, if_pos hkind, hx, hmedia, Bool.not_true, Bool.false_eq_true, if_false, hspool, hbyte, headData_oldest hu he]
  rw [if_neg (by omega), if_pos (by omega)]

/-! ### Presence probes (R272, R278) -/

/-- The bytes a probe reads: the presence codes of the handles it covers, two to a byte. -/
def probeBytes (s : State) (t first size : Nat) : List Byte :=
  (List.range size).map fun i => BitVec.ofNat 8 (probeCode s t (first + 2 * i) + 16 * probeCode s t (first + 2 * i + 1))

/-- A probe of an ACTIVE tenant that is accepted answers the presence codes. -/
theorem opPresenceProbe_answers {s : State} {h t off size port outstanding q b : Nat} (hoff : off = 0x8000 + 0x2000 * q + b) (hb : b < 0x2000)
    (ha : (hrtLookup s h true (winAddr t off) false .probeRead).isSome) (hprobe : isProbe off size = true) (hmedia : mediaReady s = true)
    (hact : s.active t = true) (hfail : partFailed s = false) (hout : outstanding ≤ 32) :
    (opPresenceProbe h t off size port outstanding s).out =
      s.out ++ [.readData h (probeBytes s t (s.pbaseOf t q * 16384 + 2 * b) size) false] := by
  obtain ⟨x, hx⟩ := Option.isSome_iff_exists.1 ha
  have hquad : (off - 0x8000) / 0x2000 = q := by omega
  have hin : (off - 0x8000) % 0x2000 = b := by omega
  simp only [opPresenceProbe, hx, Nat.not_lt.2 hout, hprobe, hmedia, hact, hfail, hquad, hin, Bool.not_true, Bool.not_false, Bool.false_eq_true,
    and_false, or_self, and_self, if_false, if_true, State.emit_out, State.setFld_out, State.addFld_out, probeBytes]

/-- A probe beyond the 32nd on its port is not accepted. -/
theorem opPresenceProbe_refused {s : State} {h t off size port outstanding : Nat} (ha : (hrtLookup s h true (winAddr t off) false .probeRead).isSome)
    (hprobe : isProbe off size = true) (hout : 32 < outstanding) : opPresenceProbe h t off size port outstanding s = s := by
  obtain ⟨x, hx⟩ := Option.isSome_iff_exists.1 ha
  simp only [opPresenceProbe, hx, if_pos (And.intro hprobe hout)]

/-- Settles O2: each row by the branch of its operation that the conditions pick, and what that branch leaves. -/
theorem spoolServiceCompletes : Obligations.SpoolServiceCompletes := by
  refine ⟨?decode, ?cells, ?announced, ?entry, ?full, ?head, ?probe, ?refused, fun s u c hc hop hf => nop_completes hc hop hf⟩
  case decode =>
    intro s t n first ht hn hfirst hheld hres hfail hbusy
    have hcells : ((s.turnTaken t n).spool t n).cells = (s.spool t n).cells := (countPassed_spool s t n t n).1
    have hpos : ((s.turnTaken t n).spool t n).pos = (s.spool t n).pos := (countPassed_spool s t n t n).2
    obtain ⟨huid, hfreed, hpart, hpanel, hspool⟩ := turnTaken_reads s t n
    rw [← hcells, ← hpos] at hfirst hheld hres ⊢
    rw [← hspool] at hres
    rw [← hpart] at hfail
    rw [← hpanel] at hbusy
    refine completes_next (congrArg Host.Outcome.next ((opCommandDecode_turn ht hn).trans (take_whole hfirst hheld hres hfail hbusy))) ?_
    obtain ⟨hmem, hadvanced, hrotor⟩ := take_whole_effect rfl
    exact ⟨⟨_, hmem, huid, rfl, rfl, rfl, rfl, rfl, rfl, rfl, rfl⟩, hfreed ▸ hadvanced, hrotor⟩
  case cells =>
    intro s t n q hdr hact hfind hheld hpast hcut
    refine completes_next (congrArg Host.Outcome.next (opCommandCellsMissing_drops hact hfind hheld hpast)) ?_
    obtain ⟨herr, hcomps⟩ := missingCounted_effect (s.dropCommand t n q hdr) t n q (hdrTag hdr)
    refine ⟨herr, ?_⟩
    rw [comp_of_comps (hcomps.trans (dropCommand_comps hdr hcut)), cancelHeld_waiting]
  case announced =>
    intro s t n hact hann hcell herr
    refine completes_next (congrArg Host.Outcome.next (opAnnouncedCellMissing_errs hact hann hcell herr)) ?_
    obtain ⟨hstate, hcode, hseq⟩ := missingWord_bits (s.spool t n).pos
    refine ⟨?_, ?_, ?_, (State.setReg_keeps ..).changesOnly⟩
    · exact beq_iff_eq.2 ((State.fld_setReg_same _ Fd.SPL_SQE_STATE _ _).trans hstate)
    · exact (State.fld_setReg_same _ Fd.SPL_SQE_ERR _ _).trans hcode
    · exact (State.fld_setReg_same _ Fd.SPL_SQE_ERRSEQ _ _).trans hseq
  case entry =>
    intro s t m d rest hw hroom
    refine completes_next (congrArg Host.Outcome.next (opCompletionEntryWrite_room hw hroom)) ?_
    rw [comp_setComp]
    exact ⟨rfl, rfl, (State.setComp_keeps ..).changesOnly⟩
  case full => exact fun s t m hfull => congrArg Host.Outcome.next (opCompletionEntryWrite_full hfull)
  case head =>
    intro s h t off m e rest hoff ha hmedia hu he
    rw [hoff] at ha
    refine ⟨_, congrArg (fun o => Host.Outcome.next (opCompletionHeadRead h t o 32 s)) hoff, ?_⟩
    rw [opCompletionHeadRead_head m.isLt ha hmedia hu he]
    obtain ⟨hcomp, hconsumed⟩ := consume_oldest hu
    exact ⟨rfl, congrArg CompSpool.unread hcomp, congrArg CompSpool.replay hcomp, hconsumed⟩
  case probe =>
    intro s h t q b off size port outstanding hoff hb ha hprobe hmedia hact hfail hout
    exact completes_next rfl ⟨opPresenceProbe_answers hoff hb ha hprobe hmedia hact hfail hout,
      (opPresenceProbe_keeps2 s h t off size port outstanding ha).changesOnly (Nat.or_self _)⟩
  case refused =>
    exact fun s h t off size port outstanding ha hprobe hout => congrArg Host.Outcome.next (opPresenceProbe_refused ha hprobe hout)

end Sys2Proof.Machine

/-!
What the commands of the prefix store complete with (R198 to R213): LOOKUP, EXTEND, FORK, RELEASE, PIN and UNPIN.
-/
namespace Sys2Proof.Machine

/-! ### Sequences, chunks and pins after a write -/

/-- A sequence reads back as it was put. -/
theorem seqOf_setSeq (s : State) (q : Nat) (x : Seq) : (s.setSeq q x).seqOf q = some x := mapFind_mapIns_same ..

/-- A chunk reads back as it was put. -/
theorem chunk_setChunk (s : State) (h : Nat) (c : Chunk) : (s.setChunk h c).chunk h = some c := mapFind_mapIns_same ..

/-- A tenant's pins on a chunk read back as they were put: an entry that left the table counts nothing. -/
theorem pinRec_setPin (s : State) (t h : Nat) (p : PinRec) : (s.setPin t h p).pinRec t h = p := by
  obtain ⟨plain, resident⟩ := p
  simp only [State.pinRec, State.setPin]
  split
  case isTrue hzero =>
    obtain ⟨rfl, rfl⟩ := hzero
    rw [mapFind_mapDel, if_pos rfl, Option.getD_none]
  case isFalse => rw [mapFind_mapIns_same, Option.getD_some]

/-- Adding a plain pin counts one more. -/
theorem pinRec_addPin_plain (s : State) (t h : Nat) :
    (s.addPin t false h).pinRec t h = { s.pinRec t h with plain := (s.pinRec t h).plain + 1 } := pinRec_setPin ..

/-- Removing a plain pin counts one less. -/
theorem pinRec_dropPin_plain (s : State) (t h : Nat) :
    (s.dropPin t false h).pinRec t h = { s.pinRec t h with plain := (s.pinRec t h).plain - 1 } := pinRec_setPin ..

/-- Recording a profile's geometry changes neither the geometry nor the pages of a new chunk (R59). -/
theorem emptyPages_recordGeo (s : State) (prof : Nat) : emptyPages (s.recordGeo prof) prof = emptyPages s prof := by
  rw [emptyPages, State.geo, recordGeo_profWord, ← State.geo, ← emptyPages]

/-! ### What stays when a command has ended and what nobody holds is freed (R216) -/

/-- The end of a command leaves each tenant's pins. -/
theorem pinRec_finish (s : State) (c : Cmd) (code : Nat) (r0 r1 : Word) (t h : Nat) : (s.finish c code r0 r1).pinRec t h = s.pinRec t h := by
  rw [State.pinRec, State.finish_pins, ← State.pinRec]

/-- The release of what nobody holds leaves each tenant's pins. -/
theorem pinRec_reclaim (s : State) (t h : Nat) : s.reclaim.pinRec t h = s.pinRec t h := by
  rw [State.pinRec, State.reclaim_pins, ← State.pinRec]

/-- The end of a command and the release after it leave the sequences. -/
theorem seqOf_finish_reclaim (s : State) (c : Cmd) (code : Nat) (r0 r1 : Word) (q : Nat) : ((s.finish c code r0 r1).reclaim).seqOf q = s.seqOf q := by
  rw [State.seqOf, State.reclaim_seqs, State.finish_seqs, ← State.seqOf]

/-- A chunk that a sequence holds stays as it is when a command has ended and what nobody holds is freed. -/
theorem chunk_finish_reclaim {s : State} {h q : Nat} {k : Chunk} {x : Seq} (c : Cmd) (code : Nat) (r0 r1 : Word) (hk : s.chunk h = some k)
    (hq : s.seqOf q = some x) (hx : h ∈ x.chain) : ((s.finish c code r0 r1).reclaim).chunk h = some k := by
  refine reclaim_chunk ?_ (refs_pos (q := q) ?_ hx)
  · rw [State.chunk, State.finish_chunks, ← State.chunk, hk]
  · rw [State.seqOf, State.finish_seqs, ← State.seqOf, hq]

/-! ### LOOKUP (R198, R200, R201) -/

/-- A LOOKUP of inline tokens whose walk asks no other member ends with what the walk returned. -/
theorem opLookup_inline {s : State} {uid : Nat} {c : Cmd} {w : Walk} (hm : HostMem) (pick : Nat) (hc : s.ready uid Oc.lookup = some c)
    (hwork : c.work = .ready) (hntok : 0 < fieldOf c.words 1 19 0) (hsrc : fieldOf c.words 1 21 20 = 0)
    (hw : w = walk s c.tenant (fieldOf c.words 1 39 24) (tokensOf ((inlineBytes c 1).take (4 * fieldOf c.words 1 19 0))) []) (hasks : w.asks = none) :
    opLookup uid hm pick s = s.endLookup c w (fieldOf c.words 1 22 22 == 1) pick := by
  subst hw
  have hformat : ¬((!tokenFormat 0 (wordAt c.words 2)) = true ∨ fieldOf c.words 1 19 0 = 0) :=
    not_or.2 ⟨Bool.false_ne_true, Nat.ne_of_gt hntok⟩
  simp only [fieldOf] at hformat hsrc hasks ⊢
  simp only [opLookup, hc, if_neg hformat, hsrc, tokenSource, if_true, hwork, hasks]

/-- A LOOKUP of no tokens ends FORMAT_UNSUPPORTED, and is counted as completed. -/
theorem opLookup_noTokens {s : State} {uid : Nat} {c : Cmd} (hm : HostMem) (pick : Nat) (hc : s.ready uid Oc.lookup = some c)
    (hntok : fieldOf c.words 1 19 0 = 0) : opLookup uid hm pick s = (s.addFld Fd.PFX_CNT0_LOOKUPS 1).fail c Cc.formatUnsupported 0x0109 := by
  rw [fieldOf] at hntok
  simp only [opLookup, hc, hntok, or_true, if_true]
  rfl

/-- A chain without a hollow node that is not attached: LOOKUP counts the walk and its nodes, and ends OK. -/
theorem endLookup_whole {s : State} {w : Walk} (c : Cmd) (pick : Nat) (hlive : w.chain.all (fun h => !isHollow s h) = true) :
    s.endLookup c w false pick = (((s.countEnd Oc.lookup Cc.ok).countWalk w).countLookup w).finish c Cc.ok
      (lookupR0 s c.tenant w.chain.reverse 0 w.remote) (packWord [(24, w.pos)]) := by
  have hupto : w.chain.reverse.takeWhile (fun h => !isHollow s h) = w.chain.reverse :=
    takeWhile_all fun h hh => List.all_eq_true.1 hlive h (List.mem_reverse.1 hh)
  simp only [State.endLookup, hupto, if_true, Bool.false_eq_true, false_and, if_false, ne_eq, not_true_eq_false]

/-- What a LOOKUP counts leaves the completion spools. -/
theorem lookupCounts_comps (s : State) (code : Nat) (w : Walk) : (((s.countEnd Oc.lookup code).countWalk w).countLookup w).comps = s.comps :=
  ((State.countLookup_keeps ..).same .comps (by decide)).trans <|
    ((State.countWalk_keeps ..).same .comps (by decide)).trans ((State.countEnd_keeps ..).same .comps (by decide))

/-! ### EXTEND and FORK (R203, R209) -/

/-- EXTEND of a new sequence, its handles free and their stewards in service: the chunk, then the sequence that holds it. -/
theorem opExtend_new {s : State} {uid sp cp h q : Nat} {c : Cmd} (hc : s.ready uid Oc.extend = some c) (hnew : fieldOf c.words 1 22 22 = 1)
    (hwait : firstChunkWaits s (s.profileOf c.tenant) = false) (halloc : allocate s c.tenant true true cp sp = .ok (h, q))
    (hh : ownerDown s h = false) (hq : ownerDown s q = false) :
    opExtend uid sp cp s = ((((s.recordGeo (s.profileOf c.tenant)).setChunk h
      (newBasted c.tenant (s.profileOf c.tenant) 1 none 0 (emptyPages s (s.profileOf c.tenant)))).setSeq q { tenant := c.tenant, chain := [h] }).finish c Cc.ok
        (packWord [(46, 0), (24, q), (0, h)]) (packWord [(14, 0), (0, 1)])).reclaim := by
  rw [fieldOf] at hnew
  simp only [opExtend, hc, if_pos hnew, State.extendWith, hwait, Option.isNone_none, halloc, hh, hq, emptyPages_recordGeo, Bool.false_eq_true,
    Bool.and_false, Bool.or_self, if_false, Option.map_none, Option.getD_none, Option.isSome_none, b2n]

/-- FORK where POS falls on the end of a committed chunk: a sequence over the chunks kept. -/
theorem opFork_boundary {s : State} {uid sp cp h q : Nat} {c : Cmd} {sq : Seq} {keep : List Nat} (hc : s.ready uid Oc.fork = some c)
    (hsq : s.ownSeq c.tenant (fieldOf c.words 1 21 0) = some sq) (hpos : 0 < fieldOf c.words 1 44 22)
    (hlen : fieldOf c.words 1 44 22 ≤ (sq.chain.map fun h => ((s.chunk h).map (extentOf s)).getD 0).sum)
    (hcut : forkCut s sq.chain (fieldOf c.words 1 44 22) = (keep, none)) (halloc : allocate s c.tenant false true cp sp = .ok (h, q))
    (hq : ownerDown s q = false) :
    opFork uid sp cp s = ((s.setSeq q { tenant := c.tenant, chain := keep }).finish c Cc.ok (packWord [(46, 0), (22, keep.getLastD 0), (0, q)])
      (packWord [(0, ((s.chunk (keep.getLastD 0)).map fun k => k.depth).getD 0)])).reclaim := by
  have hin := not_or.2 ⟨Nat.ne_of_gt hpos, Nat.not_lt.2 hlen⟩
  simp only [fieldOf] at hsq hcut hin
  simp only [opFork, hc, hsq, if_neg hin, hcut, Option.bind_none, Option.isSome_none, halloc, hq, Bool.false_and, Bool.or_self, Bool.false_eq_true,
    if_false, List.append_nil, b2n]

/-! ### RELEASE (R211) -/

/-- RELEASE without PURGE: the sequence is gone, and what nobody holds any more is freed. -/
theorem opRelease_plain {s : State} {uid : Nat} {c : Cmd} {sq : Seq} (hc : s.ready uid Oc.release = some c)
    (hsq : s.ownSeq c.tenant (fieldOf c.words 1 21 0) = some sq) (hpurge : fieldOf c.words 1 22 22 = 0) :
    opRelease uid s = (({ s with seqs := mapDel (fieldOf c.words 1 21 0) s.seqs } : State).finish c Cc.ok (packWord [(14, 0), (0, sq.chain.length)]) 0).reclaim := by
  simp only [fieldOf] at hsq hpurge ⊢
  simp only [opRelease, hc, hsq, hpurge, Nat.zero_ne_one, if_false]

/-! ### PIN and UNPIN (R212, R213) -/

/-- A PIN or UNPIN of a committed chunk that the tenant reaches acts on that chunk. -/
theorem pinTargets_chunk {s : State} {c : Cmd} {k : Chunk} (hone : fieldOf c.words 1 24 24 = 0) (hreach : reaches s c.tenant (fieldOf c.words 1 23 0) = true)
    (hk : s.chunk (fieldOf c.words 1 23 0) = some k) (hcom : k.committed = true) : pinTargets s c = .ok [fieldOf c.words 1 23 0] := by
  simp only [fieldOf] at hone hreach hk ⊢
  simp only [pinTargets, hone, Nat.zero_ne_one, hreach, hk, hcom, Option.map_some, Option.getD_some, Bool.not_true, Bool.false_eq_true, if_false]

/-- RESULT0 of a PIN or UNPIN of one chunk. -/
theorem pinR0_chunk {s : State} {h : Nat} {k : Chunk} (hk : s.chunk h = some k) : pinR0 s [h] = packWord [(14, b2n k.hollow), (0, 1)] := by
  simp only [pinR0, isHollow, hk, Option.map_some, Option.getD_some, List.any_cons, List.any_nil, Bool.or_false, List.length_singleton]

/-- A plain PIN of one chunk, with room in the pin table and in its count. -/
theorem opPin_plain {s : State} {uid h : Nat} {c : Cmd} {k : Chunk} (hc : s.ready uid Oc.pin = some c) (hwork : c.work = .ready)
    (hplain : fieldOf c.words 1 25 25 = 0) (htargets : pinTargets s c = .ok [h]) (hk : s.chunk h = some k) (hroom : pinFull s c.tenant false [h] = false) :
    opPin uid s = (s.addPin c.tenant false h).finish c Cc.ok (packWord [(14, b2n k.hollow), (0, 1)]) 0 := by
  have hkind : (fieldOf c.words 1 25 25 == 1) = false := by rw [hplain]; rfl
  have hk' : (s.addPin c.tenant false h).chunk h = some k := hk
  simp only [opPin, hc, hwork, htargets, hkind, hroom, Bool.false_eq_true, if_false, List.foldl_cons, List.foldl_nil, pinR0_chunk hk']

/-- UNPIN of one chunk on which the tenant holds a plain pin. -/
theorem opUnpin_held {s : State} {uid h : Nat} {c : Cmd} {k : Chunk} (hc : s.ready uid Oc.unpin = some c) (hplain : fieldOf c.words 1 25 25 = 0)
    (htargets : pinTargets s c = .ok [h]) (hk : s.chunk h = some k) (hheld : 0 < (s.pinRec c.tenant h).plain) :
    opUnpin uid s = ((s.dropPin c.tenant false h).finish c Cc.ok (packWord [(14, b2n k.hollow), (0, 1)]) 0).reclaim := by
  have hkind : (fieldOf c.words 1 25 25 == 1) = false := by rw [hplain]; rfl
  have hlist : [h].filter (fun x => decide (0 < pinCount s c.tenant false x)) = [h] := List.filter_cons_of_pos (decide_eq_true hheld)
  simp only [opUnpin, hc, htargets, hkind, hlist, List.cons_ne_nil, and_false, if_false, List.foldl_cons, List.foldl_nil, pinR0_chunk hk]

/-- UNPIN of one chunk on which the tenant holds no plain pin is refused. -/
theorem opUnpin_notHeld {s : State} {uid h : Nat} {c : Cmd} (hc : s.ready uid Oc.unpin = some c) (hone : fieldOf c.words 1 24 24 = 0)
    (hplain : fieldOf c.words 1 25 25 = 0) (htargets : pinTargets s c = .ok [h]) (hnone : (s.pinRec c.tenant h).plain = 0) :
    opUnpin uid s = s.fail c Cc.noRights 0x010D := by
  have hkind : (fieldOf c.words 1 25 25 == 1) = false := by rw [hplain]; rfl
  have hlist : [h].filter (fun x => decide (0 < pinCount s c.tenant false x)) = [] :=
    List.filter_cons_of_neg (by simp only [pinCount, hnone, Bool.false_eq_true, if_false, Nat.lt_irrefl, decide_false, not_false_eq_true])
  simp only [opUnpin, hc, htargets, hkind, hlist, hone, and_self, if_true]

/-- Settles O3: each command by the branch of its operation that the conditions pick, and what the end of the command and the release of what nobody holds leave of it. -/
theorem prefixLookupsComplete : Obligations.PrefixLookupsComplete := by
  refine ⟨?lookup, ?noTokens, ?extend, ?fork, ?release, ?pin, ?unpin⟩
  case lookup =>
    intro s uid pick hm c ntok w hc hwork hntok hpos hsrc hattach hw hasks hlive
    subst hntok
    have hend := opLookup_inline hm pick hc hwork hpos hsrc hw hasks
    rw [hattach] at hend
    exact completes_next (congrArg Host.Outcome.next (hend.trans (endLookup_whole c pick hlive))) (finish_ended c _ _ _ (lookupCounts_comps ..))
  case noTokens => exact fun s uid pick hm c hc hntok => congrArg Host.Outcome.next (opLookup_noTokens hm pick hc hntok)
  case extend =>
    intro s uid sp cp c h q hc hnew hwait halloc hh hq
    refine completes_next (congrArg Host.Outcome.next (opExtend_new hc hnew hwait (toOption_ok halloc) hh hq)) ?_
    have hcomps : (s.recordGeo (s.profileOf c.tenant)).comps = s.comps := (State.recordGeo_keeps ..).same .comps (by decide)
    exact ⟨ended_reclaim c _ _ _ hcomps, (seqOf_finish_reclaim ..).trans (seqOf_setSeq ..),
      chunk_finish_reclaim c _ _ _ (chunk_setChunk ..) (seqOf_setSeq ..) (List.mem_singleton_self h)⟩
  case fork =>
    intro s uid sp cp c sq keep h q hc hsq hpos hlen hcut halloc hq
    exact completes_next (congrArg Host.Outcome.next (opFork_boundary hc hsq hpos hlen hcut (toOption_ok halloc) hq))
      ⟨ended_reclaim c _ _ _ rfl, (seqOf_finish_reclaim ..).trans (seqOf_setSeq ..)⟩
  case release =>
    intro s uid c sq hc hsq hpurge
    refine completes_next (congrArg Host.Outcome.next (opRelease_plain hc hsq hpurge)) ⟨ended_reclaim c _ _ _ rfl, ?_⟩
    rw [seqOf_finish_reclaim, State.seqOf, mapFind_mapDel, if_pos rfl]
  case pin =>
    intro s uid c h k hc hwork hone hplain hh hreach hk hcom hroom
    subst hh
    refine completes_next (congrArg Host.Outcome.next (opPin_plain hc hwork hplain (pinTargets_chunk hone hreach hk hcom) hk hroom)) ?_
    exact ⟨finish_ended c _ _ _ rfl, (pinRec_finish ..).trans (pinRec_addPin_plain ..)⟩
  case unpin =>
    intro s uid c h k hc hone hplain hh hreach hk hcom
    subst hh
    have htargets := pinTargets_chunk hone hreach hk hcom
    refine ⟨fun hheld => completes_next (congrArg Host.Outcome.next (opUnpin_held hc hplain htargets hk hheld)) ⟨ended_reclaim c _ _ _ rfl, ?_⟩,
      fun hnone => congrArg Host.Outcome.next (opUnpin_notHeld hc hone hplain htargets hnone)⟩
    rw [pinRec_reclaim, pinRec_finish, pinRec_dropPin_plain]

end Sys2Proof.Machine

/-!
Where data granules lie (R230, R231), which chunk is made hollow first (R255), and what a probe of a tenant that is not ACTIVE reads (R275).
-/
namespace Sys2Proof.Machine

/-! ### The place of a data granule (R230) -/

/-- In the 11+1 layout a row lies on all twelve stacks. -/
theorem rowStacks_twelve {s : State} (h : s.rowN = 11) : rowStacks s = List.range 12 := if_pos h

/-- place(g) in the 11+1 layout. -/
theorem stackPlace_eleven {s : State} (h : s.rowN = 11) (g : Nat) :
    stackPlace s g =
      { stack := if g % 11 < (g / 11 + swzProt s) % 12 then g % 11 else g % 11 + 1, addr := swzRow s (g / 11), parity := (g / 11 + swzProt s) % 12 } := by
  have hstack : ∀ i, i < 12 → (List.range 12).getD i 0 = i := fun i hi => by
    rw [List.getD_eq_getElem?_getD, List.getElem?_range hi, Option.getD_some]
  have hdata : (if g % 11 < (g / 11 + swzProt s) % 12 then g % 11 else g % 11 + 1) < 12 := by split <;> omega
  simp only [stackPlace, rowStacks_twelve h, h, hstack _ hdata, hstack _ (Nat.mod_lt _ (show 0 < 12 by decide))]

/-- Beside one parity stack, two granules of a row on the same stack are the same one of its eleven. -/
theorem rowIndex_inj {p i j : Nat} (h : (if i < p then i else i + 1) = if j < p then j else j + 1) : i = j := by
  split at h <;> split at h <;> omega

/-- Settles O60: place(g) as the layout computes it, the swizzled address bit by bit, and that row and index within the row come back from the place. -/
theorem granulesLieWherePlaceSays : Obligations.GranulesLieWherePlaceSays := by
  refine ⟨?place, fun s r i => ⟨swzRow_low s r, swzRow_high s r⟩, ?apart, ?inj⟩
  case place =>
    rintro s g r j p h rfl rfl rfl
    exact stackPlace_eleven h g
  case apart =>
    intro s g h
    simp only [stackPlace_eleven h]
    have hp := Nat.mod_lt (g / 11 + swzProt s) (show 0 < 12 by decide)
    refine ⟨?_, ?_, hp⟩ <;> split <;> omega
  case inj =>
    intro s g h hlay hmask hstack haddr
    simp only [stackPlace_eleven hlay] at hstack haddr
    have hrow : g / 11 = h / 11 := swzRow_inj hmask haddr
    rw [hrow] at hstack
    have hindex : g % 11 = h % 11 := rowIndex_inj hstack
    omega

/-! ### The chunk made hollow first (R255) -/

/-- A chunk that step 2 may make hollow, its steward in service (log entries 20 and 46). -/
def hollowNow (s : State) (e : Nat × Chunk) : Bool := hollowable s e.1 e.2 && !ownerDown s e.1

/-- The order of R255: the lower score first, then the deeper chunk, then the higher handle. -/
def hollowBefore (s : State) (e b : Nat × Chunk) : Bool :=
  decide (score s e.2 < score s b.2 ∨ (score s e.2 = score s b.2 ∧ (b.2.depth < e.2.depth ∨ (b.2.depth = e.2.depth ∧ b.1 < e.1))))

/-- A chunk that none goes before has the lowest score, and of these the greatest depth, and of these the highest handle. -/
theorem hollowBefore_false {s : State} {e b : Nat × Chunk} :
    hollowBefore s e b = false ↔
      score s b.2 < score s e.2 ∨ (score s b.2 = score s e.2 ∧ (e.2.depth < b.2.depth ∨ (e.2.depth = b.2.depth ∧ e.1 ≤ b.1))) := by
  rw [hollowBefore, decide_eq_false_iff_not]
  omega

/-- The chunk chosen may be made hollow, and no other that may goes before it. -/
theorem lowestScore_first {s : State} {h : Nat} (hl : lowestScore s none = some h) :
    ∃ c, (h, c) ∈ s.chunks ∧ hollowNow s (h, c) = true ∧ ∀ e ∈ s.chunks, hollowNow s e = true → hollowBefore s e (h, c) = false := by
  obtain ⟨⟨k, c⟩, hx, rfl⟩ := Option.map_eq_some_iff.1 hl
  refine ⟨c, foldl_best_some hx (hollowNow s) (hollowBefore s) ?irrefl ?trans ?asymm ?step⟩
  case irrefl => exact fun a => hollowBefore_false.2 (.inr ⟨rfl, .inr ⟨rfl, Nat.le_refl _⟩⟩)
  case trans =>
    intro a b d hab hbd
    rw [hollowBefore_false] at hab hbd ⊢
    omega
  case asymm =>
    intro a b hab
    rw [hollowBefore, decide_eq_true_iff] at hab
    rw [hollowBefore_false]
    omega
  case step =>
    intro best e
    have hskip : ((none : Option Nat).isSome && none != some e.2.charge || !hollowable s e.1 e.2 || ownerDown s e.1) = !hollowNow s e := by
      rw [hollowNow, Bool.not_and, Bool.not_not]
      rfl
    rw [hskip]
    by_cases hnow : hollowNow s e = true
    · rw [if_neg (by rw [hnow]; decide), if_pos hnow]
      cases best with
      | none => rfl
      | some b => simp only [hollowBefore, decide_eq_true_eq]
    · rw [if_pos (by simpa using hnow), if_neg hnow]

/-- Settles O54: the search of the lowest score keeps the first in the order of R255 among the chunks it may take. -/
theorem theLowestScoreIsMadeHollowFirst : Obligations.TheLowestScoreIsMadeHollowFirst := by
  refine ⟨fun s c => rfl, fun s h hl => ?_⟩
  obtain ⟨c, hmem, hnow, hbest⟩ := lowestScore_first hl
  rw [hollowNow, Bool.and_eq_true, Bool.not_eq_true'] at hnow
  refine ⟨c, hmem, hnow.1, hnow.2, fun e he hh ho => ?_⟩
  exact hollowBefore_false.1 (hbest e he (by rw [hollowNow, hh, ho]; rfl))

/-! ### Probes of a tenant that is not ACTIVE (R275) -/

/-- A probe of a tenant that is not ACTIVE, accepted and media being ready, answers ABSENT for every handle. -/
theorem opPresenceProbe_inactive {s : State} {h t off size port outstanding : Nat} (ha : (hrtLookup s h true (winAddr t off) false .probeRead).isSome)
    (hact : s.active t = false) (hprobe : isProbe off size = true) (hmedia : mediaReady s = true) (hout : outstanding ≤ 32) :
    (opPresenceProbe h t off size port outstanding s).out = s.out ++ [.readData h (List.replicate size 0) false] := by
  obtain ⟨x, hx⟩ := Option.isSome_iff_exists.1 ha
  simp only [opPresenceProbe, hx, Nat.not_lt.2 hout, hprobe, hmedia, hact, Bool.not_true, Bool.false_eq_true, and_false, or_self, false_and, if_false,
    State.emit_out, State.setFld_out, State.addFld_out, List.map_const', List.length_range]

/-- Settles O51: an admitted probe answers zeros and changes nothing a denial would; the 33rd is not accepted, which is log entry 49; one admitted by no entry is denied. -/
theorem probesOfInactiveTenantsReadAbsent : Obligations.ProbesOfInactiveTenantsReadAbsent := by
  refine ⟨?admitted, ?refused, ?denied⟩
  case admitted =>
    intro s h t off size outstanding port ha hact hprobe hmedia hout
    have hframe := opPresenceProbe_keeps2 s h t off size port outstanding ha
    exact completes_next rfl ⟨opPresenceProbe_inactive ha hact hprobe hmedia hout,
      fld_of (f := Fd.HRT_DENY_COUNT) (hframe.same (.reg .HRT_DENY) (by decide)) h.val, hframe.changesOnly (Nat.or_self _)⟩
  case refused =>
    exact fun s h t off size outstanding port ha hprobe hout => congrArg Host.Outcome.next (opPresenceProbe_refused ha hprobe hout)
  case denied =>
    exact fun s h t off size outstanding port hd => congrArg Host.Outcome.next (opPresenceProbe_denied size port.val outstanding hd)

end Sys2Proof.Machine

/-!
Accesses of view and gateway windows that are allowed, and the configuration of both (R246, R448 to R450, R466 to R469, R484).
-/
namespace Sys2Proof.Machine

/-! ### What a response leaves -/

/-- A response leaves the memory of the part. -/
theorem respondData_same (s : State) (h : Nat) (bs : List Byte) (bad : Bool) (cls : Option Nat) :
    (s.respondData h bs bad cls).plainMem = s.plainMem ∧ (s.respondData h bs bad cls).chunks = s.chunks :=
  have hkeeps := State.respondData_keeps s h bs bad cls
  ⟨hkeeps.same .plainMem (by decide), hkeeps.same .chunks (by decide)⟩

/-! ### View windows (R246, R449) -/

/-- A host's access at an address that lies at offset o of tenant t's view window, which the host is there to make, which is served and backed, and which an entry admits
(R115, R443). -/
structure WindowAdmits (s : State) (host a : Nat) (wr : Bool) (t o : Nat) : Prop where
  present : s.lostHosts.contains host = false
  serves : hdmServes s = true
  place : dpaPlace (dpaExtents s.cacheSf) a = .view t o
  backs : backed s host a = true
  admits : (hrtLookup s host false a wr .other).isSome = true

/-- A page that is neither on flash nor on its way from there. -/
theorem away_false {p : Page} (h : p.st ≠ .flash ∧ p.st ≠ .staging) : p.away = false := by
  rw [Page.away, beq_eq_false_iff_ne.2 h.1, beq_eq_false_iff_ne.2 h.2, Bool.or_self]

/-- An admitted load of a page that is not on flash is answered at once. -/
theorem opViewLoad_resident {s : State} {host a n t o slot layer byte h : Nat} {c : Chunk} {p : Page} (hw : WindowAdmits s host a false t o)
    (hview : viewPlace s t o = .page slot layer byte) (htarget : viewTarget s t slot layer byte = some (h, c, p)) (haway : p.away = false) :
    opViewLoad host a n s = s.answerView host t h layer byte n := by
  obtain ⟨hpresent, hserves, hplace, hbacks, hadmits⟩ := hw
  obtain ⟨e, he⟩ := Option.isSome_iff_exists.1 hadmits
  simp only [opViewLoad, hpresent, hserves, hplace, hbacks, he, hview, htarget, haway, Bool.not_true, Bool.false_eq_true, if_false]

/-- A view load of a raw page without masked sub-blocks is answered with its bytes, the part being awake. -/
theorem answerView_raw {s : State} {host t h layer byte n f : Nat} {c : Chunk} {p : Page} {x : Frame} {m : Memory} {bad : Bool} {bs : List Byte}
    (hc : s.chunk h = some c) (hp : c.page layer = some p) (hmask : p.mask = 0)
    (hf : (p.frame.bind fun f => (mapFind s.wake.frames f).map fun x => (f, x)) = some (f, x)) (hx : x.body = .raw m bad)
    (hread : pageBytes s.wake c layer byte n = .data bs) :
    s.answerView host t h layer byte n = s.wake.respondData host bs false (some (s.fld Fd.TNT_BIND_BCLASS t)) := by
  simp only [State.answerView, hc, hp, Option.bind_some, Option.map_some, hf, hx, hread]
  refine if_neg (Bool.eq_false_iff.1 (List.any_eq_false.2 fun i _ => ?_))
  cases posOfByte (s.wake.geo c.prof) p.recov (byte + i) with
  | none => exact Bool.false_ne_true
  | some q => exact Bool.eq_false_iff.1 (masked_zero p q hmask)

/-- What an answered view load leaves: its bytes and its DevLoad are sent, and memory and chunks stand. -/
theorem viewAnswer_effect (s : State) (host : Nat) (bs : List Byte) (cls : Option Nat) :
    (s.wake.respondData host bs false cls).out = s.out ++ [.readData host bs false, .devLoad host (devLoad s host cls)] ∧
      (s.wake.respondData host bs false cls).plainMem = s.plainMem ∧ (s.wake.respondData host bs false cls).chunks = s.chunks := by
  obtain ⟨hmem, hchunks⟩ := respondData_same s.wake host bs false cls
  exact ⟨by rw [respondData_out, wake_out, wake_devLoad], hmem.trans (wake_plainMem s), hchunks.trans (wake_chunks s)⟩

/-- An admitted store to a page, which waits for no steward. -/
theorem opViewStore_page {s : State} {host a t o slot layer byte : Nat} {bs : List (Option Byte)} (picks : List Nat) (hw : WindowAdmits s host a true t o)
    (hview : viewPlace s t o = .page slot layer byte) (hwaits : viewStoreWaits s t slot layer byte = false) :
    opViewStore host a bs picks s = (s.storeView t a slot layer byte bs picks).respond host (some (s.fld Fd.TNT_BIND_BCLASS t)) := by
  obtain ⟨hpresent, hserves, hplace, hbacks, hadmits⟩ := hw
  obtain ⟨e, he⟩ := Option.isSome_iff_exists.1 hadmits
  simp only [opViewStore, hpresent, hserves, hplace, hbacks, he, hview, hwaits, Bool.not_true, Bool.false_eq_true, if_false]

/-- An admitted store to the slot table. -/
theorem opViewStore_slots {s : State} {host a t o slot : Nat} {bs : List (Option Byte)} (picks : List Nat) (hw : WindowAdmits s host a true t o)
    (hview : viewPlace s t o = .slotEntry slot) :
    opViewStore host a bs picks s =
      (opViewStore.putSlots s t slot (List.replicate (o % 8) none ++ bs) 9).respond host (some (s.fld Fd.TNT_BIND_BCLASS t)) := by
  obtain ⟨hpresent, hserves, hplace, hbacks, hadmits⟩ := hw
  obtain ⟨e, he⟩ := Option.isSome_iff_exists.1 hadmits
  simp only [opViewStore, hpresent, hserves, hplace, hbacks, he, hview, Bool.not_true, Bool.false_eq_true, if_false]

/-- A list whose elements a function leaves as they are. -/
theorem mapIdx_eq_self {α : Type} {f : Nat → α → α} (l : List α) (h : ∀ i a, f i a = a) : l.mapIdx f = l :=
  List.ext_getElem List.length_mapIdx fun i _ _ => (List.getElem_mapIdx ..).trans (h i _)

/-- A store to a basted page that no COMMIT has taken is the write of its bytes, the part being awake. -/
theorem storeView_writes {s u : State} {t a slot layer byte h : Nat} {bs : List (Option Byte)} {picks : List Nat} {c : Chunk} {p : Page}
    (htarget : viewTarget s t slot layer byte = some (h, c, p)) (hcom : c.committed = false) (hunder : underCommit s h = none) (hst : p.st ≠ .poisoned)
    (hmask : p.mask = 0) (hall : bs.all (fun b => b.isNone) = false) (hwrite : writePage s.wake h layer byte bs picks = .done u) :
    s.storeView t a slot layer byte bs picks = u := by
  simp only [State.storeView, htarget, hcom, hunder, Bool.false_eq_true, if_false]
  rw [mapIdx_eq_self bs ?unmasked, if_neg (by simp [hst, hall]), hwrite]
  case unmasked =>
    intro i b
    cases posOfByte (s.geo c.prof) p.recov (byte + i) with
    | none => rfl
    | some q => exact if_neg (Bool.eq_false_iff.1 (masked_zero p q hmask))

/-- Eight enabled bytes at a slot entry put their word there, of which VALID and the handle are kept. -/
theorem putSlots_word (s : State) (t slot : Nat) (v : Word) :
    opViewStore.putSlots s t slot ((leBytes 8 v.toNat).map some) 9 =
      { s with viewSlots := mapIns (slotKey t slot) (v &&& 0x8000000000FFFFFF) s.viewSlots } := by
  have hlen : ((leBytes 8 v.toNat).map some).length = 8 := by rw [List.length_map, leBytes_length]
  have hne : ((leBytes 8 v.toNat).map some) ≠ [] := fun e => by rw [e] at hlen; exact absurd hlen (by decide)
  rw [opViewStore.putSlots, if_neg hne, List.take_of_length_le (Nat.le_of_eq hlen), List.drop_of_length_le (Nat.le_of_eq hlen), mapM_id_some]
  simp only [leBytes_length, if_true, ofLE_leBytes_word, BitVec.ofNat_toNat, BitVec.setWidth_eq]
  rw [opViewStore.putSlots, if_pos rfl]

/-- An admitted store of eight bytes to a whole slot entry. -/
theorem opViewSlotStore_puts {s : State} {host a t o slot : Nat} (v : Word) (hw : WindowAdmits s host a true t o)
    (hview : viewPlace s t o = .slotEntry slot) (hal : o % 8 = 0) :
    opViewSlotStore host a v s = ({ s with viewSlots := mapIns (slotKey t slot) (v &&& 0x8000000000FFFFFF) s.viewSlots } : State).respond host
      (some (s.fld Fd.TNT_BIND_BCLASS t)) := by
  rw [opViewSlotStore, opViewStore_slots [] hw hview, hal, List.replicate_zero, List.nil_append, putSlots_word]

/-! ### The configuration of a view window (R448) -/

/-- The word of a view window's configuration. -/
theorem viewWord_bits {log en : Nat} (hlog : log < 32) (hen : en < 2) :
    bitsOf (packWord [(1, log), (0, en)]) 5 1 = log ∧ bitsOf (packWord [(1, log), (0, en)]) 0 0 = en := by
  simp only [packWord, List.foldl]
  rw [bitsOf_ofNat _ 5 1 (by omega), bitsOf_ofNat _ 0 0 (by omega)]
  omega

/-- The slot table of tenant t emptied. -/
def State.emptySlots (s : State) (t : Nat) : State := { s with viewSlots := s.viewSlots.filter fun e => e.1 / 65536 != t }

/-- Every entry of an emptied slot table reads zero. -/
theorem viewSlot_emptySlots (s : State) {t slot : Nat} (h : slot < 65536) : (s.emptySlots t).viewSlot t slot = 0 := by
  have hkey : slotKey t slot / 65536 = t := by rw [slotKey]; omega
  have hnone : mapFind (s.emptySlots t).viewSlots (slotKey t slot) = none :=
    mapFind_filter_none fun v => by simp only [hkey, bne_self_eq_false]
  rw [State.viewSlot, hnone, Option.getD_none]

/-- A configuration that its rule allows is put in place, and enabling the window empties its slot table. -/
theorem opViewWindowConfig_takes {s : State} {t : Nat} {v : Word} (hext : viewExtent s t = false) (hlog : 6 ≤ bitsOf v 5 1 ∧ bitsOf v 5 1 ≤ 16)
    (hfits : bitsOf v 5 1 + cstrideLog (s.geo (s.profileOf t)) ≤ 41) :
    opViewWindowConfig t v s =
      if bitsOf v 0 0 = 1 ∧ s.flag Fd.CXL_VW_EN t = false then (s.setReg .CXL_VW t (packWord [(1, bitsOf v 5 1), (0, bitsOf v 0 0)])).emptySlots t
      else s.setReg .CXL_VW t (packWord [(1, bitsOf v 5 1), (0, bitsOf v 0 0)]) := by
  have hok : ¬(viewExtent s t = true ∨ bitsOf v 5 1 < 6 ∨ 16 < bitsOf v 5 1 ∨ 41 < bitsOf v 5 1 + cstrideLog (s.geo (s.profileOf t))) := by
    rw [hext]
    simp only [Bool.false_eq_true, false_or]
    omega
  simp only [opViewWindowConfig, if_neg hok, Bool.not_eq_true']
  rfl

/-- Emptying a slot table leaves the registers. -/
theorem emptySlots_reg (s : State) (t : Nat) (k : RegKind) (i : Nat) : (s.emptySlots t).reg k i = s.reg k i := rfl

/-- The configuration of the window is the one written. -/
theorem opViewWindowConfig_reg {s : State} {t : Nat} {v : Word} (hext : viewExtent s t = false) (hlog : 6 ≤ bitsOf v 5 1 ∧ bitsOf v 5 1 ≤ 16)
    (hfits : bitsOf v 5 1 + cstrideLog (s.geo (s.profileOf t)) ≤ 41) :
    (opViewWindowConfig t v s).reg .CXL_VW t = packWord [(1, bitsOf v 5 1), (0, bitsOf v 0 0)] := by
  rw [opViewWindowConfig_takes hext hlog hfits]
  split
  · rw [emptySlots_reg, State.reg_setReg, if_pos ⟨rfl, rfl⟩]
  · rw [State.reg_setReg, if_pos ⟨rfl, rfl⟩]

/-! ### Gateway windows (R467 to R469, R484) -/

/-- A response leaves the gateway windows, their state and the time. -/
theorem respond_gateway (s : State) (h g : Nat) (cls : Option Nat) :
    (s.respond h cls).gw g = s.gw g ∧ (s.respond h cls).fld Fd.GW_ST_STATE g = s.fld Fd.GW_ST_STATE g ∧ bellOffset (s.respond h cls) g = bellOffset s g ∧
      (s.respond h cls).dtime = s.dtime := ⟨rfl, rfl, rfl, rfl⟩

/-- A running window is not in ERROR. -/
theorem gwRun_ne_gwError : gwRun ≠ gwError := by decide

/-- A store of a running window below its doorbell line, no store waiting, that its buffers take. -/
theorem opGatewayStore_buffered {s : State} {h a g o : Nat} {bs : List (Option Byte)} {x : Gateway} (hgate : gate s h a true = .ok)
    (htarget : gwTarget s a = some (g, o)) (hbelow : o < bellOffset s g) (hrun : s.fld Fd.GW_ST_STATE g = gwRun) (hheld : (s.gw g).held = [])
    (hstore : gwStore (s.gw g) s.dtime o bs = (x, true)) : opGatewayStore h a bs s = ((s.respond h none).setGw g x).gwGo g := by
  obtain ⟨hgw, hstate, hbell, htime⟩ := respond_gateway s h g none
  simp only [opGatewayStore, hgate, htarget, hgw, hstate, hbell, htime, hrun, hheld, hstore, Nat.not_le.2 hbelow, gwRun_ne_gwError, ne_eq,
    not_true_eq_false, if_false]

/-- A doorbell of a running window. -/
theorem opGatewayDoorbell_rings {s : State} {h a g : Nat} (v : Word) (hgate : gate s h a true = .ok) (htarget : gwTarget s a = some (g, bellOffset s g))
    (hrun : s.fld Fd.GW_ST_STATE g = gwRun) :
    opGatewayDoorbell h a v s = ((s.respond h none).setGw g { s.gw g with
      bufs := (s.gw g).bufs.map GwBuf.shipNow, bells := (s.gw g).bells ++ [{ value := v.toNat, before := (s.gw g).next, issued := false, done := false }] }).gwGo g := by
  obtain ⟨hgw, hstate, hbell, -⟩ := respond_gateway s h g none
  simp only [opGatewayDoorbell, hgate, htarget, hgw, hstate, hbell, hrun, gwRun_ne_gwError, ne_eq, not_true_eq_false, if_false]

/-- The answer to the FLUSH of a window's first doorbell. -/
theorem opGatewayFlushDone_first {s : State} {g : Nat} {b : GwBell} {rest : List GwBell} (hbells : (s.gw g).bells = b :: rest) (hdone : b.done = true) :
    opGatewayFlushDone g s = ((s.setGw g { s.gw g with bells := rest }).flushWord g (b.value % 2 ^ 63)).gwGo g := by
  simp only [opGatewayFlushDone, hbells, hdone, if_true]

/-- Whether an open buffer of a page has stood for TMOUS at a time (R467). -/
def bufferDue (s : State) (g page now : Nat) (b : GwBuf) : Bool :=
  b.page == page && b.ship.isNone && decide (b.since + 1000 * s.fld Fd.GW_CTL_TMOUS g ≤ now)

/-- At the end of TMOUS a buffer ships. -/
theorem opGatewayBufferTimeout_ships {s : State} {g page now : Nat} (hdue : ((s.at_ now).gw g).bufs.any (bufferDue (s.at_ now) g page (s.at_ now).dtime) = true) :
    opGatewayBufferTimeout g page now s = ((s.at_ now).setGw g { (s.at_ now).gw g with
      bufs := ((s.at_ now).gw g).bufs.map fun b => if bufferDue (s.at_ now) g page (s.at_ now).dtime b then b.shipNow else b }).gwGo g := if_pos hdue

/-- An allowed load of a gateway window is answered with poison. -/
theorem opGatewayLoad_poison {s : State} {h a : Nat} (n : Nat) (hgate : gate s h a false = .ok) : opGatewayLoad h a n s = s.poisonRead h n := by
  simp only [opGatewayLoad, hgate]

/-- GW_CTL of a window that is off, as a write leaves it before EN. -/
def State.gwCtlWritten (s : State) (g : Nat) (v : Word) : State :=
  s.setReg .GW_CTL g (writeFields [Fd.GW_CTL_TMOUS, Fd.GW_CTL_QP, Fd.GW_CTL_TENANT, Fd.GW_CTL_SIZELOG] (s.reg .GW_CTL g) v)

/-- A write of GW_CTL that enables a window that is off, with valid fields. -/
theorem writeGwCtl_enables {s : State} {g : Nat} {v : Word} (hoff : s.flag Fd.GW_CTL_EN g = false) (hen : bitsOf v 0 0 = 1)
    (htm : (s.gwCtlWritten g v).fld Fd.GW_CTL_TMOUS g ≠ 0) (hlo : 28 ≤ (s.gwCtlWritten g v).fld Fd.GW_CTL_SIZELOG g)
    (hhi : (s.gwCtlWritten g v).fld Fd.GW_CTL_SIZELOG g ≤ 36) :
    s.writeGwCtl g v = ((s.gwCtlWritten g v).setFld Fd.GW_CTL_EN 1 g).setFld Fd.GW_ST_STATE gwRun g := by
  rw [State.writeGwCtl, if_neg (by rw [hoff]; exact Bool.false_ne_true)]
  exact if_pos ⟨hen, htm, hlo, hhi⟩

/-- A window enabled so reads EN and runs. -/
theorem gwEnabled_reads (s : State) (g : Nat) :
    ((s.setFld Fd.GW_CTL_EN 1 g).setFld Fd.GW_ST_STATE gwRun g).flag Fd.GW_CTL_EN g = true ∧
      ((s.setFld Fd.GW_CTL_EN 1 g).setFld Fd.GW_ST_STATE gwRun g).fld Fd.GW_ST_STATE g = gwRun := by
  refine ⟨beq_iff_eq.2 ?_, State.fld_setFld_fits (k := .GW_ST) _ gwRun g (by decide) (by decide)⟩
  rw [State.fld_setFld_reg _ _ _ _ _ _ (by decide)]
  exact State.fld_setFld_fits (k := .GW_CTL) _ 1 g (by decide) (by decide)

/-- Register 0 of a window's configuration is GW_CTL. -/
theorem opGatewayConfig_ctl (s : State) (g : Nat) (v : Word) : opGatewayConfig g 0 v s = s.writeGwCtl g v := if_pos rfl

/-- The address registers of a window that is off take a write. -/
theorem opGatewayConfig_address {s : State} {g : Nat} (v : Word) (hoff : s.flag Fd.GW_CTL_EN g = false) :
    opGatewayConfig g 1 v s = s.setReg .GW_RADDR g (writeFields [Fd.GW_RADDR_RADDR] 0 v) ∧
      opGatewayConfig g 2 v s = s.setReg .GW_FLADDR g (writeFields [Fd.GW_FLADDR_FLADDR] 0 v) := by
  have hskip : ¬s.flag Fd.GW_CTL_EN g = true := by rw [hoff]; exact Bool.false_ne_true
  constructor
  · rw [opGatewayConfig, if_neg Nat.one_ne_zero, if_neg hskip, if_pos rfl]
  · rw [opGatewayConfig, if_neg (Nat.succ_ne_zero 1), if_neg hskip, if_neg (Nat.succ_succ_ne_one 0)]

/-- A register that is set reads so, and nothing else changes. -/
theorem setReg_effect (s : State) (k : RegKind) (i : Nat) (w : Word) :
    (s.setReg k i w).reg k i = w ∧ ChangesOnly [.reg k] s (s.setReg k i w) := by
  have hmask : partMask [.reg k] = regBit k := by simp [partMask, regBit, Part.idx, Nat.pow_add]
  refine ⟨by rw [State.reg_setReg, if_pos ⟨rfl, rfl⟩], (State.setReg_keeps ..).changesOnly ?_⟩
  rw [hmask]
  exact Nat.or_self _

/-- Settles O12: each access by the branch of its operation that its conditions pick, and what that branch leaves. That a view access runs in the name of the window's tenant,
and the DevLoad and gateway readings, are the model's (log entries 107, 60 and 67). -/
theorem windowAccessesComplete : Obligations.WindowAccessesComplete := by
  refine ⟨?load, ?store, ?slot, ?config, ?buffer, ?bell, ?flush, ?timeout, ?gwLoad, ?gwConfig⟩
  case load =>
    intro s host addr size t o slot layer byte h f c p x m z bs hpresent hserves hplace hbacks hadmits hview htarget haway hmask hf hx hread
    obtain ⟨hc, hp⟩ := viewTarget_page htarget
    have hload := opViewLoad_resident (n := size) ⟨hpresent, hserves, hplace, hbacks, hadmits⟩ hview htarget (away_false haway)
    exact completes_next (congrArg Host.Outcome.next (hload.trans (answerView_raw hc hp hmask hf hx hread))) (viewAnswer_effect ..)
  case store =>
    intro s u host addr t o slot layer byte h bytes picks c p hpresent hserves hplace hbacks hadmits hview htarget hwaits hcom hunder hst hmask hall _ hwrite
    refine congrArg Host.Outcome.next ?_
    rw [opViewStore_page picks ⟨hpresent, hserves, hplace, hbacks, hadmits⟩ hview hwaits, storeView_writes htarget hcom hunder hst hmask hall hwrite]
  case slot =>
    intro s host addr t o slot v hpresent hserves hplace hbacks hadmits hview hal
    refine completes_next (congrArg Host.Outcome.next (opViewSlotStore_puts v ⟨hpresent, hserves, hplace, hbacks, hadmits⟩ hview hal)) ⟨?_, ?_⟩
    · exact congrArg (Option.getD · 0) (mapFind_mapIns_same ..)
    · exact (Keeps.step (v := partMask [.viewSlots, .out]) (upd_viewSlots s _).mono (State.respond_keeps ..)).changesOnly
  case config =>
    intro s t v hext hlog hfits
    have hword := opViewWindowConfig_reg hext hlog hfits
    obtain ⟨hlogRead, henRead⟩ := viewWord_bits (log := bitsOf v 5 1) (en := bitsOf v 0 0) (bitsOf_lt ..) (bitsOf_lt ..)
    refine completes_next rfl ⟨?_, ?_, fun hen hoff slot hslot => ?_⟩
    · exact (congrArg (bitsOf · 5 1) hword).trans hlogRead
    · exact (congrArg (bitsOf · 0 0) hword).trans henRead
    · rw [opViewWindowConfig_takes hext hlog hfits, if_pos ⟨hen, hoff⟩]
      exact viewSlot_emptySlots _ hslot
  case buffer =>
    exact fun s host addr g o bytes x hgate htarget hbelow hrun hheld hstore =>
      congrArg Host.Outcome.next (opGatewayStore_buffered hgate htarget hbelow hrun hheld hstore)
  case bell => exact fun s host addr g v hgate htarget hrun => congrArg Host.Outcome.next (opGatewayDoorbell_rings v hgate htarget hrun)
  case flush => exact fun s g b rest hbells hdone => congrArg Host.Outcome.next (opGatewayFlushDone_first hbells hdone)
  case timeout => exact fun s g page now hdue => congrArg Host.Outcome.next (opGatewayBufferTimeout_ships hdue)
  case gwLoad => exact fun s host addr size hgate => congrArg Host.Outcome.next (opGatewayLoad_poison size hgate)
  case gwConfig =>
    intro s g v hoff hen htm hlo hhi
    obtain ⟨hraddr, hfladdr⟩ := opGatewayConfig_address v hoff
    exact ⟨completes_next (congrArg Host.Outcome.next ((opGatewayConfig_ctl s g v).trans (writeGwCtl_enables hoff hen htm hlo hhi))) (gwEnabled_reads ..),
      completes_next (congrArg Host.Outcome.next hraddr) (setReg_effect ..), completes_next (congrArg Host.Outcome.next hfladdr) (setReg_effect ..)⟩

end Sys2Proof.Machine

/-!
What the stewards of the cache do where their conditions hold (R112, R239, R249 to R261, R321, R544, R552).
-/
namespace Sys2Proof.Machine

/-! ### Tiers: demotion, stash and staging (R251, R252, R544, R552) -/

/-- While the ladder demotes, the next CLEAN candidate whose steward serves gives up its frame. -/
theorem opDemotePage_clean {s : State} {c : Candidate} (hruns : s.ladder.flag Fd.PGT_TIER_DEMOTE = true)
    (hnext : nextCandidate s.ladder none (fun c => c.clean && !ownerDown s.ladder c.handle) = some c) :
    opDemotePage none s =
      ((s.ladder.updPage c.handle c.layer fun p => { p with st := .flash, frame := none }).addFld Fd.PGT_CNT0_DEMOTED 1).reclaim := by
  simp only [opDemotePage, hruns, hnext, Bool.not_true, Bool.false_eq_true, if_false]

/-- The image that the stash of a coded page makes, before its places are taken. -/
def stashImage (s : State) (h layer : Nat) (c : Chunk) (p : Page) (tag : ImgTag) (cl : List Nat) (bs : List Block) : FlashImage :=
  { handle := h, layer, clens := (omitMasked (s.geo c.prof) p.recov p.mask cl bs).1, blocks := (omitMasked (s.geo c.prof) p.recov p.mask cl bs).2,
    recov := p.recov, mask := p.mask, tag, places := [], progd := false, durable := false }

/-- The stash of a queued page whose image finds its places. -/
theorem opStashPage_queued {s s' : State} {h layer : Nat} {c : Chunk} {p : Page} {g : FlashGeo} {cl : List Nat} {bs : List Block} {tag : ImgTag}
    {places : List Place} (hp : s.pageOf h layer = some (c, p)) (hg : s.flash = some g)
    (hbody : ((p.frame.bind fun f => mapFind s.frames f).map fun x => (x.tag, x.body)) = some (tag, .coded cl bs)) (hmedia : mediaReady s = true)
    (hqueued : stashQueued c p = true)
    (hruns : stashRuns s c.charge (ceilDiv (codedBytes (omitMasked (s.geo c.prof) p.recov p.mask cl bs).1) 4096 * 4096) = true)
    (hup : ownerDown s h = false)
    (hplace : s.placeImage (h % 8) (if slcInUse s g < s.slcTarget then 0 else 1) c.charge (imageCodewords (stashImage s h layer c p tag cl bs)) =
      some (s', places)) :
    opStashPage h layer s =
      (({ s' with images := mapIns (lowestFree s'.images 0) { stashImage s h layer c p tag cl bs with places } s'.images } : State).updPage h layer
        fun p => { p with image := some (lowestFree s'.images 0) }).fltSync := by
  rw [stashImage] at hplace
  simp only [opStashPage, hp, hg, hbody, hmedia, hqueued, hruns, hup, hplace, Bool.not_true, Bool.or_self, Bool.false_eq_true, if_false, stashImage]

/-- A DIRTY page with a durable image, its steward in service, is CLEAN. -/
theorem opStashDurable_cleans {s : State} {h layer k : Nat} {c : Chunk} {p : Page} {x : FlashImage} (hp : s.pageOf h layer = some (c, p))
    (hx : s.imageOf h layer = some (k, x)) (hst : p.st = .dirty) (hdurable : x.durable = true) (hup : ownerDown s h = false) :
    opStashDurable h layer s = (s.updPage h layer fun p => { p with st := .clean }).ladder := by
  simp only [opStashDurable, hp, hx, hst, hdurable, hup, Bool.not_false, and_self, if_true]

/-- The state in which a page that was staged has come to HBM in the frame b, before the commands that wait for it have it. -/
def State.pageArrives (s : State) (h layer b : Nat) : State :=
  s.updPage h layer fun p => { p with st := .clean, frame := some b, ctr := max p.ctr (promTh s), want := none }

/-- The state in which every command that waits for a page that has come has pinned its frame b. -/
def State.pinArrived (s : State) (h layer b : Nat) : State := { s with inflight := s.inflight.map fun c => c.pinPage h layer b }

/-- Staging ends where the page's reads were issued and the frame of its blocks r finds room. -/
theorem opStagingComplete_arrives {s s' : State} {h layer b k : Nat} {picks : List Nat} {c : Chunk} {p : Page} {x : FlashImage}
    {r : List Nat × List Block} (hp : s.pageOf h layer = some (c, p)) (hx : s.imageOf h layer = some (k, x))
    (hissued : (readsIssued s).any (fun r => r.handle == h && r.layer == layer) = true)
    (hr : r = omitMasked (s.geo c.prof) p.recov p.mask x.clens x.blocks) (hroom : roomFor s c.charge (max 1 (ceilDiv (codedBytes r.1) 512)) picks = .ok)
    (hframe : s.newFrame picks (max 1 (ceilDiv (codedBytes r.1) 512)) h (.kept x.tag) (.coded r.1 r.2) = some (s', b)) :
    opStagingComplete h layer picks true s =
      (((((s'.pageArrives h layer b).inflight.filter fun c => c.attWaiting && !(c.pinPage h layer b).attWaiting).foldl (fun s c => s.waitEnds c)
        ((s'.pageArrives h layer b).pinArrived h layer b)).addFld Fd.PGT_CNT0_PROMOTED 1).pumpViews) := by
  subst hr
  simp only [opStagingComplete, hp, hx, hissued, hroom, hframe, Bool.not_true, Bool.false_eq_true, if_false, State.pageArrives, State.pinArrived]

/-! ### Hollowing and unlinking (R254, R258) -/

/-- While step 2 runs and no poisoned chunk is to be made hollow, the chunk of the lowest score is. -/
theorem opMakeHollow_lowest {s : State} {h : Nat}
    (hnone : s.ladder.chunks.find? (fun e => poisonHollowable s.ladder e.1 e.2 && !ownerDown s.ladder e.1) = none)
    (hruns : s.ladder.flag Fd.PGT_TIER_DROP = true) (hlow : lowestScore s.ladder none = some h) :
    opMakeHollow none s = ((s.ladder.hollowChunk h).addFld Fd.PGT_CNT1_HOLLOWED 1).reclaim := by
  simp only [opMakeHollow, hnone, hruns, hlow, Bool.not_true, Bool.false_eq_true, if_false, Option.isNone_none, if_true]

/-- While handles are short, the one hollow node that nobody holds is unlinked. -/
theorem opUnlinkHollow_only {s : State} {h : Nat} {c : Chunk} (hruns : s.ladder.flag Fd.PGT_TIER_HANDLES = true)
    (hone : s.ladder.chunks.filter (fun e => e.2.hollow && e.2.linked && refs s.ladder e.1 == 0 && children s.ladder e.1 == 0 && pinsOn s.ladder e.1 == 0 &&
      !ownerDown s.ladder e.1) = [(h, c)]) : opUnlinkHollow s = (s.ladder.unlink h).reclaim := by
  simp only [opUnlinkHollow, hruns, hone, Bool.not_true, Bool.false_eq_true, if_false, List.foldl_cons, List.foldl_nil]

/-! ### Frames that move (R239, R321) -/

/-- The pages that refer to a frame, each with its chunk and profile. -/
def frameUsers (s : State) (base : Nat) : List (Nat × Nat × Page) :=
  s.chunks.flatMap fun e => (e.2.pages.filter fun p => p.frame == some base).map fun p => (e.1, e.2.prof, p)

/-- What the copy of a frame holds, and its granules: a coded one leaves out what every page of it masks (R261). -/
def compactBody (s : State) (prof : Nat) (p : Page) (users : List (Nat × Nat × Page)) (f : Frame) : FrameBody × Nat :=
  match f.body with
  | .coded cl bs =>
    let r := omitMasked (s.geo prof) p.recov (commonMask (users.map fun u => u.2.2)) cl bs
    (.coded r.1 r.2, max 1 (ceilDiv (codedBytes r.1) 512))
  | .raw m x => (.raw m x, f.ngran)

/-- A frame whose users' stewards serve moves to the place that its copy finds. -/
theorem opFrameCompact_moves {s s' : State} {base b h prof : Nat} {picks : List Nat} {f : Frame} {p : Page}
    (hup : (frameUsers s base).any (fun u => ownerDown s u.1) = false) (hf : mapFind s.frames base = some f)
    (hhead : (frameUsers s base).head? = some (h, prof, p))
    (hframe : s.newFrame picks (compactBody s prof p (frameUsers s base) f).2 f.owner (.kept f.tag) (compactBody s prof p (frameUsers s base) f).1 =
      some (s', b)) : opFrameCompact base picks s = (s'.moveRefs base b).reclaim := by
  rw [frameUsers] at hup hhead hframe
  simp only [opFrameCompact, hup, hf, hhead, Bool.false_eq_true, if_false]
  cases hbody : f.body with
  | coded cl bs =>
    simp only [compactBody, hbody] at hframe
    simp only [hframe]
  | raw m x =>
    simp only [compactBody, hbody] at hframe
    simp only [hframe]

/-- Every page of a frame moves to its copy that is coded anew: one that was CLEAN is DIRTY, and its image goes (R321). -/
def State.moveReencoded (s : State) (a b : Nat) : State :=
  let move (p : Page) : Page :=
    if p.frame = some a then { p with frame := some b, st := if p.st = .clean then .dirty else p.st, image := none } else p
  { s with chunks := mapVals (fun _ c => { c with pages := c.pages.map move }) s.chunks }

/-- A page in HBM is coded anew through its frame. -/
theorem opPageReencode_frame {s : State} {h layer f : Nat} {picks : List Nat} {c : Chunk} {p : Page} {x : Frame}
    (hp : ((s.chunk h).bind fun c => (c.page layer).map fun p => (c, p)) = some (c, p))
    (hshred : (decide (c.charge < 1024) && s.tstate c.charge == TState.shredding.code) = false) (hst : p.st = .dirty ∨ p.st = .clean)
    (hf : (p.frame.bind fun f => (mapFind s.frames f).map fun x => (f, x)) = some (f, x)) :
    opPageReencode h layer picks s = s.reencodeFrame h layer c p f x picks := by
  rcases hst with hst | hst
  · simp only [opPageReencode, hp, hshred, hst, hf, Bool.false_eq_true, if_false]
  · simp only [opPageReencode, hp, hshred, hst, hf, Bool.false_eq_true, if_false]

/-- A coded frame that uses a RETIRING generation is coded anew, as r, where its copy finds a place. -/
theorem reencodeFrame_moves {s s' : State} {h layer f b : Nat} {picks : List Nat} {c : Chunk} {p : Page} {x : Frame} {cl : List Nat} {bs : List Block}
    {raw : List Byte} {r : List Nat × List Block} (hbody : x.body = .coded cl bs) (huses : usesRetiring s bs = true)
    (hraw : imageRaw s c.prof layer p.recov cl bs = .ok raw) (hr : r = reencoded s c.prof layer p.recov cl raw)
    (hframe : s.newFrame picks (max 1 (ceilDiv (codedBytes r.1) 512)) x.owner (.fresh h layer) (.coded r.1 r.2) = some (s', b)) :
    s.reencodeFrame h layer c p f x picks = ((s'.moveReencoded f b).countBlocks r.2).reclaim := by
  subst hr
  simp only [State.reencodeFrame, hbody, huses, hraw, hframe, Bool.not_true, Bool.false_eq_true, if_false, State.moveReencoded]

/-! ### Waits that end (R112, R257) -/

/-- An APPEND whose wait for room ends without it, ends with the code. -/
theorem roomTimeout_append {s : State} {c : Cmd} {i : Nat} {bad : Bool} {undo : List (Nat × Page × Option FrameBody)} (code d : Nat)
    (hwork : c.work = .append i bad undo) : s.roomTimeout c code d = (s.finish c code (detailWord d) 0).reclaim := by
  simp only [State.roomTimeout, hwork, State.fail]

/-- Settles O8: each operation by the branch that its conditions pick. -/
theorem cacheStewardsComplete : Obligations.CacheStewardsComplete := by
  refine ⟨?demote, ?stash, ?durable, ?staging, ?hollow, ?unlink, fun _ => rfl, ?compact, ?reencode, ?quota, ?space⟩
  case demote => exact fun s c hruns hnext => congrArg Host.Outcome.next (opDemotePage_clean hruns hnext)
  case stash =>
    intro s s' handle layer c p g cl bs tag x places hp hg hbody hmedia hqueued hruns hup hx hplace
    subst hx
    exact congrArg Host.Outcome.next (opStashPage_queued hp hg hbody hmedia hqueued hruns hup hplace)
  case durable =>
    exact fun s handle layer c p k x hp hx hst hdurable hup => congrArg Host.Outcome.next (opStashDurable_cleans hp hx hst hdurable hup)
  case staging =>
    intro s s' u w handle layer picks c p k b x r hp hx hissued hr hroom hframe hu hw
    subst hw hu
    exact congrArg Host.Outcome.next (opStagingComplete_arrives hp hx hissued hr hroom hframe)
  case hollow => exact fun s h hnone hruns hlow => congrArg Host.Outcome.next (opMakeHollow_lowest hnone hruns hlow)
  case unlink => exact fun s h c hruns hone => congrArg Host.Outcome.next (opUnlinkHollow_only hruns hone)
  case compact =>
    intro s s' base b h prof picks f p users r hu hup hf hhead hr hframe
    subst hu hr
    exact congrArg Host.Outcome.next (opFrameCompact_moves hup hf hhead hframe)
  case reencode =>
    intro s s' handle layer picks c p f b x cl bs raw r hp hshred hst hf hbody huses hraw hr hframe
    exact congrArg Host.Outcome.next ((opPageReencode_frame hp hshred hst hf).trans (reencodeFrame_moves hbody huses (toOption_ok hraw) hr hframe))
  case quota =>
    intro s uid c h bad undo hc hwork hroom
    refine completes_next (congrArg Host.Outcome.next ?_) (ended_reclaim c Cc.quota 0 0 rfl)
    simp only [opQuotaWaitTimeout, hc, hroom]
    exact roomTimeout_append Cc.quota 0 hwork
  case space =>
    intro s uid c h bad undo hc hwork hroom
    refine completes_next (congrArg Host.Outcome.next ?_) (ended_reclaim c Cc.noSpace (detailWord 0x0111) 0 rfl)
    simp only [opSpaceWaitTimeout, hc, hroom]
    exact roomTimeout_append Cc.noSpace 0x0111 hwork

end Sys2Proof.Machine

/-!
APPEND, COMMIT, its link, DELIVER, its end and the end of its holds, where the conditions of each hold (R204 to R207, R243, R266, R269).
-/
namespace Sys2Proof.Machine

/-! ### The basted tail that a command names -/

/-- A sequence that a tenant names is its own, at that handle. -/
theorem ownSeq_seqOf {s : State} {t n : Nat} {q : Seq} (h : s.ownSeq t n = some q) : s.seqOf n = some q := (Option.filter_eq_some_iff.1 h).1

/-- The sequence q that an APPEND or COMMIT names in its first cell ends in h, which is the basted chunk k. -/
structure NamesBasted (s : State) (c : Cmd) (q : Seq) (h : Nat) (k : Chunk) : Prop where
  own : s.ownSeq c.tenant (fieldOf c.words 1 21 0) = some q
  tail : q.chain.getLast? = some h
  chunk : s.chunk h = some k
  basted : k.committed = false

/-- Its chunk is in that sequence. -/
theorem NamesBasted.mem {s : State} {c : Cmd} {q : Seq} {h : Nat} {k : Chunk} (ht : NamesBasted s c q h k) : h ∈ q.chain := List.mem_of_getLast? ht.tail

/-! ### APPEND in place (R243) -/

/-- An APPEND of one layer of inline rows that passes its checks goes on to write that layer. -/
theorem opAppend_oneLayer {s : State} {uid h : Nat} {c : Cmd} {q : Seq} {k : Chunk} {p : Page} (hm : HostMem) (picks : List Nat)
    (hc : s.ready uid Oc.append = some c) (hwork : c.work = .ready) (hsrc : fieldOf c.words 1 38 37 = 0) (hone : fieldOf c.words 1 36 29 = 1)
    (ht : NamesBasted s c q h k) (hp : k.page (fieldOf c.words 1 28 22) = some p) (hok : appendOk (s.geo (s.profileOf c.tenant)) p.recov c = true)
    (hsnoop : s.snoops.any (fun x => x.uid == some c.uid) = false) : opAppend uid hm picks s = s.appendLayers c h hm picks false [] 1 0 := by
  obtain ⟨hq, hlast, hk, hcom⟩ := ht
  have hinline : ¬(0 : Nat) = 2 := by decide
  simp only [fieldOf] at hsrc hone hq hp
  simp only [opAppend, hc, hwork, hq, hlast, hk, hp, hok, hcom, hsrc, hone, Option.bind_some, Option.map_some, Bool.not_true, Bool.false_eq_true,
    if_false, coherent_nil s c hsnoop, if_neg hinline]

/-- The rows that an APPEND of one layer of inline rows carries (R242). -/
def inlineRows (g : Geo) (recov : Option Nat) (c : Cmd) : List (Nat × List Byte) :=
  appendRows g recov (fieldOf c.words 1 48 40) (fieldOf c.words 1 58 49) (sliceAt (inlineBytes c 1) 0 (appendBytes g recov (fieldOf c.words 1 58 49)))

/-- The command of an APPEND while it writes its one layer, the frame of the page pinned. -/
def writingCmd (s : State) (c : Cmd) (k : Chunk) : Cmd := { c with fpins := (pageBefore s k (fieldOf c.words 1 28 22)).filterMap fun u => u.2.1.frame }

/-- The one layer of an APPEND of inline rows, written: the command ends OK with its layers and positions. -/
theorem appendLayers_one {s s' : State} {c : Cmd} {h : Nat} {k : Chunk} {p : Page} (hm : HostMem) (picks : List Nat)
    (hsrc : fieldOf c.words 1 38 37 = 0) (hone : fieldOf c.words 1 36 29 = 1) (hk : s.chunk h = some k)
    (hp : k.page (fieldOf c.words 1 28 22) = some p)
    (hrows : writeRows (s.setCmd (writingCmd s c k)) h (fieldOf c.words 1 28 22) picks (inlineRows (s.geo k.prof) p.recov c) = .done s') :
    s.appendLayers c h hm picks false [] 1 0 =
      (s'.finish (writingCmd s c k) Cc.ok (packWord [(10, 1), (0, fieldOf c.words 1 58 49)]) 0).reclaim := by
  rw [writingCmd, inlineRows] at hrows
  simp only [State.appendLayers, Nat.add_zero, hk, hp, Option.bind_some, appendSource, hsrc, if_true, Nat.zero_mul, List.nil_append, hrows, Bool.false_eq_true,
    if_false, hone, writingCmd]

/-- A frame that a chunk in a sequence refers to stands when a command has ended and what nobody holds is freed, though it may be charged to another chunk. -/
theorem frame_finish_reclaim {s : State} {f h n : Nat} {x : Frame} {k : Chunk} {q : Seq} (c : Cmd) (code : Nat) (r0 r1 : Word)
    (hx : mapFind s.frames f = some x) (hk : s.chunk h = some k) (hq : s.seqOf n = some q) (hmem : h ∈ q.chain)
    (hp : k.pages.any (fun p => p.frame == some f) = true) : ∃ o, mapFind ((s.finish c code r0 r1).reclaim).frames f = some { x with owner := o } := by
  refine reclaim_frame (h := h) (c := k) ?_ ?_ (refs_pos (q := n) (x := q) ?_ hmem) hp
  · rw [State.finish_frames, hx]
  · rw [State.chunk, State.finish_chunks, ← State.chunk, hk]
  · rw [State.seqOf, State.finish_seqs, ← State.seqOf, hq]

/-- A page of a chunk that lies in a frame makes the chunk one that refers to it. -/
theorem pages_any_frame {k : Chunk} {p : Page} {layer f : Nat} (hp : k.page layer = some p) (hf : p.frame = some f) :
    k.pages.any (fun p => p.frame == some f) = true :=
  List.any_eq_true.2 ⟨p, List.mem_of_getElem? hp, beq_iff_eq.2 hf⟩

/-- A page that alone refers to its frame f, which holds raw content that reads well (R241). -/
structure OwnRaw (s : State) (k : Chunk) (layer : Nat) (p : Page) (f : Nat) (x : Frame) (m : Memory) : Prop where
  page : k.page layer = some p
  kept : p.st ≠ .poisoned
  lies : p.frame = some f
  frame : mapFind s.frames f = some x
  raw : x.body = .raw m false
  alone : frefs s f ≤ 1

/-- The rows of an APPEND, written in place into the page's own raw frame, which stands when the command has ended. -/
theorem append_inPlace {s : State} {uid h f : Nat} {c : Cmd} {q : Seq} {k : Chunk} {p : Page} {x : Frame} {m : Memory} (hm : HostMem) (picks : List Nat)
    (hc : s.ready uid Oc.append = some c) (hwork : c.work = .ready) (hsrc : fieldOf c.words 1 38 37 = 0) (hone : fieldOf c.words 1 36 29 = 1)
    (ht : NamesBasted s c q h k) (hr : OwnRaw s k (fieldOf c.words 1 28 22) p f x m) (hok : appendOk (s.geo (s.profileOf c.tenant)) p.recov c = true)
    (hsnoop : s.snoops.any (fun x => x.uid == some c.uid) = false) :
    Ended s (opAppend uid hm picks s) c Cc.ok (packWord [(10, 1), (0, fieldOf c.words 1 58 49)]) 0 ∧
      ∃ o, mapFind (opAppend uid hm picks s).frames f =
        some { x with owner := o, body := .raw ((inlineRows (s.geo k.prof) p.recov c).foldl (fun m r => m.writeMasked r.1 (r.2.map some)) m) false } := by
  obtain ⟨hp, hst, hf, hx, hbody, hrefs⟩ := hr
  obtain ⟨s', hdone, hcomps, -, hchunks, hseqs, hframe⟩ := writeRows_inPlace (s.setCmd (writingCmd s c k)) h (fieldOf c.words 1 28 22) f picks
    (inlineRows (s.geo k.prof) p.recov c) k p x m ht.chunk hp hst hf hx hbody hrefs
  rw [(opAppend_oneLayer hm picks hc hwork hsrc hone ht hp hok hsnoop).trans (appendLayers_one hm picks hsrc hone ht.chunk hp hdone)]
  refine ⟨ended_reclaim _ _ _ _ hcomps, frame_finish_reclaim (n := fieldOf c.words 1 21 0) (k := k) (q := q) _ _ _ _ hframe ?_ ?_ ht.mem (pages_any_frame hp hf)⟩
  · rw [State.chunk, hchunks]
    exact ht.chunk
  · rw [State.seqOf, hseqs]
    exact ownSeq_seqOf ht.own

/-! ### COMMIT (R204, R206) -/

/-- A COMMIT of inline tokens that passes its checks: the search begins with its tokens. -/
theorem opCommit_begins {s : State} {uid h : Nat} {c : Cmd} {q : Seq} {k : Chunk} (hm : HostMem) (hc : s.ready uid Oc.commit = some c)
    (hwork : c.work = .ready) (hsrc : fieldOf c.words 1 39 38 = 0) (hsel : fieldOf c.words 1 26 24 ≤ 5) (ht : NamesBasted s c q h k)
    (hfill : max 1 k.fill ≤ fieldOf c.words 1 37 28) (hspan : fieldOf c.words 1 37 28 ≤ s.spanOf k) (hpoison : bastedPoison s k = false) :
    opCommit uid hm s = s.beginCommit c (fieldOf c.words 1 21 0) q (tokensOf ((inlineBytes c 1).take (4 * fieldOf c.words 1 37 28))) := by
  obtain ⟨hq, hlast, hk, hcom⟩ := ht
  have hformat : ¬((!tokenFormat 0 (wordAt c.words 2)) = true ∨ 5 < fieldOf c.words 1 26 24) := not_or.2 ⟨Bool.false_ne_true, Nat.not_lt.2 hsel⟩
  have hlen := not_or.2 ⟨Nat.not_lt.2 hfill, Nat.not_lt.2 hspan⟩
  simp only [fieldOf] at hsrc hq hformat hlen ⊢
  simp only [opCommit, hc, hwork, if_neg hformat, hq, hlast, Option.bind_some, hk, hcom, if_neg hlen, hpoison, tokenSource, hsrc, if_true, Bool.false_eq_true,
    if_false]

/-- What an unlinked COMMIT of a chunk keeps while its pages are encoded. -/
def unlinkedWork (s : State) (c : Cmd) (h : Nat) (k : Chunk) (ts : List Token) : CommitWork :=
  { seq := fieldOf c.words 1 21 0, chunk := h, ns := none, key := 0, rev := fieldOf c.words 1 55 40, dedup := fieldOf c.words 1 22 22 == 1, tokens := ts,
    gens := takeGens s k (recovNow s c.tenant), recov := recovNow s c.tenant }

/-- A COMMIT that asks for an unlinked chunk begins coding its tail. -/
theorem beginCommit_unlinked {s : State} {c : Cmd} {q : Seq} {h : Nat} {k : Chunk} (ts : List Token) (hun : fieldOf c.words 1 23 23 = 1)
    (hlast : q.chain.getLast? = some h) (hk : s.chunk h = some k) :
    s.beginCommit c (fieldOf c.words 1 21 0) q ts =
      (s.beginEncode c.tenant k (unlinkedWork s c h k ts)).setCmd { c with npins := [h], work := .commit (unlinkedWork s c h k ts) } := by
  have htail : q.chain.getLastD 0 = h := by rw [List.getLastD_eq_getLast?, hlast, Option.getD_some]
  simp only [fieldOf] at hun
  simp only [State.beginCommit, hun, beq_self_eq_true, Bool.true_or, chooseNs, if_true, Option.bind_none, Option.map_none, Option.getD_none, List.map_nil,
    htail, hk, Option.map_some, Option.getD_some, unlinkedWork, fieldOf]

/-- Beginning to encode leaves the commands in flight. -/
theorem cmd_beginEncode {s : State} {uid : Nat} {c : Cmd} (t : Nat) (k : Chunk) (w : CommitWork) (h : s.cmd uid = some c) :
    (s.beginEncode t k w).cmd uid = some c := by
  rw [State.cmd, (State.beginEncode_keeps ..).same .inflight (by decide)]
  exact h

/-- A COMMIT to the head of a sequence that may link, and finds an identical live node, adopts it. -/
theorem beginCommit_adopts {s : State} {c : Cmd} {q : Seq} {h ns n : Nat} {ts : List Token} {x : Chunk} (hlink : fieldOf c.words 1 23 23 = 0)
    (hdedup : fieldOf c.words 1 22 22 = 1) (hchain : q.chain = [h]) (hns : chooseNs s c.tenant (fieldOf c.words 1 26 24) false none = some (some ns))
    (hfind : commitFind s ns (spanKey (s.nsKey ns) 0 (s.profileOf c.tenant) ts) none ts (fieldOf c.words 1 55 40) (s.profileOf c.tenant) = some (n, x))
    (hlive : x.hollow = false) (hdown : ownerDown s n = false) :
    s.beginCommit c (fieldOf c.words 1 21 0) q ts = s.adopt c (fieldOf c.words 1 21 0) n := by
  simp only [fieldOf] at hlink hdedup hns hfind ⊢
  simp only [State.beginCommit, commitParent, hchain, List.dropLast_singleton, List.getLast?_nil, Option.bind_none, Option.map_none, List.any_nil, hlink,
    hns, hfind, hdedup, hlive, hdown, Option.bind_some, Option.getD_none, beq_self_eq_true, Bool.not_false, Bool.and_self, Bool.or_false, if_true,
    Bool.false_eq_true, if_false, Nat.reduceBEq]

/-- The tail of a sequence of one chunk becomes another. -/
theorem seqOf_swapTail {s : State} {n h : Nat} {q : Seq} (m : Nat) (hq : s.seqOf n = some q) (hchain : q.chain = [h]) :
    (s.swapTail n m).seqOf n = some { q with chain := [m] } := by
  rw [State.seqOf] at hq
  simp only [State.seqOf, State.swapTail, mapFind_mapUpd, if_true, hq, Option.map_some, hchain, List.dropLast_singleton, List.nil_append]

/-! ### The end of a COMMIT's coding (R206, R207) -/

/-- What a basted chunk becomes that is committed unlinked. -/
def committedUnlinked (c : Cmd) (k : Chunk) (w : CommitWork) (ps : List Page) (serial : Nat) (vol : Bool) : Chunk :=
  { k with
    tokSerial := serial, committed := true, charge := c.tenant, spanlen := w.tokens.length, rev := w.rev, key := w.key, ns := none, linked := false,
    tokens := w.tokens, isVolatile := vol, pages := ps }

/-- A coded chunk that is not to be linked is committed, with a serial for its token block. -/
theorem linkCoded_unlinked {w : CommitWork} (s : State) (c : Cmd) (k : Chunk) (ps : List Page) (index : Bool) (hns : w.ns = none) :
    s.linkCoded c k w ps index = (s.takeSerials 1).setChunk w.chunk
      (committedUnlinked c k w ps s.serial ((s.takeSerials 1).flag Fd.TNT_BIND_VOLATILE c.tenant)) := by
  simp only [State.linkCoded, hns, Option.getD_none, Option.isSome_none, committedUnlinked]

/-- Placing the coded pages of a COMMIT and taking a serial leave the sequences, the completion spools and the tenants' bindings. -/
theorem placed_same {s s' : State} {owner : Nat} {picks : List Nat} {es : List Encoded} {ps : List Page} (h : s.placeAll owner picks es = some (s', ps)) :
    (s'.takeSerials 1).seqs = s.seqs ∧ (s'.takeSerials 1).comps = s.comps ∧ ∀ i, (s'.takeSerials 1).reg .TNT_BIND i = s.reg .TNT_BIND i := by
  have hplaced := (State.placeAll_keeps s owner picks es).elim (by rw [h, Option.map_some])
  have htaken := State.takeSerials_keeps s' 1
  exact ⟨(htaken.same .seqs (by decide)).trans (hplaced.same .seqs (by decide)), (htaken.same .comps (by decide)).trans (hplaced.same .comps (by decide)),
    fun i => (htaken.same (.reg .TNT_BIND) (by decide) i).trans (hplaced.same (.reg .TNT_BIND) (by decide) i)⟩

/-- A chunk's references are read from the sequences alone. -/
theorem refs_of_seqs {s u : State} (h : u.seqs = s.seqs) (n : Nat) : refs u n = refs s n := by rw [refs, h, refs]

/-- A chunk that a sequence holds, put as its coding ends, stands when the command has ended and what nobody holds is freed. -/
theorem chunk_placed_reclaim {s s' : State} {owner : Nat} {picks : List Nat} {es : List Encoded} {ps : List Page}
    (hplace : s.placeAll owner picks es = some (s', ps)) {h : Nat} (hheld : 0 < refs s h) (x : Chunk) (c : Cmd) (code : Nat) (r0 r1 : Word) :
    ((((s'.takeSerials 1).setChunk h x).finish c code r0 r1).reclaim).chunk h = some x := by
  obtain ⟨hseqs, -, -⟩ := placed_same hplace
  have hended : (((s'.takeSerials 1).setChunk h x).finish c code r0 r1).seqs = s.seqs := (State.finish_seqs ..).trans hseqs
  refine reclaim_chunk ?_ ?_
  · rw [State.chunk, State.finish_chunks, ← State.chunk, chunk_setChunk]
  · rw [refs_of_seqs hended]
    exact hheld

/-- The end of coding of a COMMIT that does not link, its pages coded and placed. -/
theorem opCommitLink_unlinked {s s' : State} {uid : Nat} {picks : List Nat} {c : Cmd} {w : CommitWork} {k : Chunk} {es : List Encoded} {ps : List Page}
    (hc : s.cmd uid = some c) (hwork : c.work = .commit w) (hns : w.ns = none) (hk : s.chunk w.chunk = some k) (hpoison : bastedPoison s k = false)
    (hdown : stewardDown s c = false) (hes : encodeAll s k w 0 k.pages = .ok es) (hroom : commitRoom s k w.chunk c.tenant w.tokens.length es = .ok)
    (hplace : ((withoutFrames s (freeable s k)).withTokens w.chunk w.tokens.length).placeAll w.chunk picks es = some (s', ps)) :
    opCommitLink uid picks s = ((s'.linkCoded c k w ps true).finish c (if w.recov.isSome then Cc.degradedForm else Cc.ok)
      (commitR0 (s'.linkCoded c k w ps true) c.tenant w.chunk false false) (packWord [(0, ceilDiv ((es.map fun e => codedBytes e.clens).sum) 1024)])).reclaim := by
  simp only [opCommitLink, hc, hwork, hk, hdown, hpoison, hes, State.settleCommit, commitMeets, hns, Option.bind_none, State.codeAndLink, Option.getD_none,
    ne_eq, not_true_eq_false, false_and, if_false, hroom, hplace, Bool.false_eq_true]

/-! ### DELIVER (R266, R269) -/

/-- What a DELIVER of one chunk that is there to be delivered, without a push, works with. -/
def oneDelivery (h : Nat) : DeliverWork :=
  { handles := [h], hollow := [], lost := [], unpushed := [], noRoom := [], toPush := [], last := none, closing := false }

/-- A DELIVER by handle of one chunk that passes its checks begins. -/
theorem opDeliver_begins {s : State} {uid h : Nat} {c : Cmd} (hc : s.ready uid Oc.deliver = some c) (hwork : c.work = .ready) (hcancel : c.cancel = none)
    (hok : deliverOk (s.geo (s.profileOf c.tenant)) c = true) (hby : fieldOf c.words 1 14 14 = 0) (hlen : 8 ≤ c.words.length)
    (hlist : listedChunks c (fieldOf c.words 1 13 0) = [h]) : opDeliver uid s = s.beginDeliver c [h] := by
  obtain ⟨hcut, hfull⟩ := readyCut_of_ready hc (k := 1) hlen
  simp only [opDeliver, hcut, hcancel, hfull, hwork, hok, deliverHandles, hby, hlist, Bool.not_true, Bool.false_eq_true, if_false, if_true]

/-- It stages and holds the pages of the chunk, which the tenant reaches and which is not hollow, and pins its node. -/
theorem beginDeliver_one {s : State} {h : Nat} {c : Cmd} {k : Chunk} (hby : fieldOf c.words 1 14 14 = 0) (hpush : fieldOf c.words 1 15 15 = 0)
    (hreach : reaches s c.tenant h = true) (hk : s.chunk h = some k) (hlive : k.hollow = false) :
    s.beginDeliver c [h] = (s.deliverChunk c true h).setCmd { c with npins := [h], work := .deliver (oneDelivery h) } := by
  have hwhole : isHollow s h = false := by rw [isHollow, hk]; exact hlive
  have hhollow : positions (fun h => (false || reaches s c.tenant h) && isHollow s h) [h] = [] := by simp [positions, hwhole]
  have hlost : positions (fun h => !false && !reaches s c.tenant h) [h] = [] := by simp [positions, hreach]
  have hbyseq : (fieldOf c.words 1 14 14 == 1) = false := by rw [hby]; rfl
  have hnopush : (fieldOf c.words 1 15 15 == 1) = false := by rw [hpush]; rfl
  simp only [State.beginDeliver, hbyseq, hnopush, hhollow, hlost]
  rfl

/-- The pages of a chunk, those that a DELIVER acts on staged and held for it (R266). -/
def heldPages (c : Cmd) (k : Chunk) : List Page :=
  k.pages.mapIdx fun i p =>
    if (deliverLayers c).contains i then { p.stage (deliverRank c) with holds := { uid := some c.uid, ends := 0 } :: (p.stage (deliverRank c)).holds } else p

/-- A chunk that is not hollow has its pages staged and held. -/
theorem deliverChunk_holds {s : State} {h : Nat} {k : Chunk} (c : Cmd) (hk : s.chunk h = some k) (hlive : k.hollow = false) :
    (s.deliverChunk c true h).chunk h = some { k with pages := heldPages c k } := by
  rw [State.chunk] at hk
  simp only [State.chunk, State.deliverChunk, State.updChunk, mapFind_mapUpd, if_true, hk, Option.map_some, hlive, Bool.false_eq_true, if_false, heldPages]

/-- Every chunk of a DELIVER counts as staged where none is hollow or lost and every page acted on is in HBM. -/
theorem deliverStaged_all {s : State} {c : Cmd} {w : DeliverWork} (hhollow : w.hollow = [])
    (hall : ∀ i, i < w.handles.length → w.lost.contains i = false ∧
      (deliverAt c w i).all (pageIs s fun p => p.st == .none || p.st == .raw || p.st == .dirty || p.st == .clean) = true) :
    deliverStaged s c w = w.handles.length := by
  have hcount := List.countP_eq_length (l := List.range w.handles.length) (p := fun i => !w.hollow.contains i && !w.lost.contains i &&
    (deliverAt c w i).all (pageIs s fun p => p.st == .none || p.st == .raw || p.st == .dirty || p.st == .clean))
  rw [deliverStaged, hcount.2 fun i hi => ?_, List.length_range]
  obtain ⟨hlost, hin⟩ := hall i (List.mem_range.1 hi)
  rw [hhollow, hlost, hin]
  rfl

/-- Nothing is late or early where there is no deadline. -/
theorem lateSlack_none (now : Nat) : lateSlack 0 now = (0, 0) := if_pos rfl

/-- The end of a DELIVER without a push and a deadline, whose pages are all in HBM: nothing failed and nothing is late. -/
theorem opDeliverComplete_ok {s : State} {uid now : Nat} {c : Cmd} {w : DeliverWork} (readOk : Bool) (hc : s.ready uid Oc.deliver = some c)
    (hwork : c.work = .deliver w) (hcancel : c.cancel = none) (hpending : deliverPending s c w = false) (hfailed : deliverFailed s c w = [])
    (hhollow : w.hollow = []) (hstaged : deliverStaged s c w = w.handles.length) (hpush : fieldOf c.words 1 15 15 = 0) (hdeadline : wordAt c.words 2 = 0) :
    opDeliverComplete uid readOk now s = (((s.at_ now).endHolds uid (some ((s.at_ now).dtime + fieldOf c.words 1 47 32 * 1000000))).finish c Cc.ok
      (packWord [(28, 0), (14, 0), (0, w.handles.length)]) (packWord [(32, 0), (0, 0)])).reclaim := by
  have hnopush : (fieldOf c.words 1 15 15 == 1) = false := by rw [hpush]; rfl
  have hfailed' : deliverFailed (s.at_ now) c w = [] := hfailed
  have hstaged' : deliverStaged (s.at_ now) c w = w.handles.length := hstaged
  have hlater := Nat.max_eq_right (Nat.le_add_right (s.at_ now).dtime (fieldOf c.words 1 47 32 * 1000000))
  have hzero : (wordAt c.words 2).toNat = 0 := by rw [hdeadline]; rfl
  simp only [opDeliverComplete, hc, hwork, hcancel, hpending, hnopush, hfailed', hhollow, hstaged', hzero, hlater, lateSlack_none, if_true,
    Bool.false_eq_true, false_and, or_self, if_false, Bool.false_and, List.length_nil, b2n, Nat.lt_irrefl, ne_eq, not_true_eq_false, Nat.add_zero]

/-! ### The end of delivery holds (R266) -/

/-- A page reads back as it was changed. -/
theorem page_updPage {s : State} {h layer : Nat} {k : Chunk} {p : Page} (f : Page → Page) (hk : s.chunk h = some k) (hp : k.page layer = some p) :
    ∃ k', (s.updPage h layer f).chunk h = some k' ∧ k'.page layer = some (f p) := by
  rw [State.chunk] at hk
  refine ⟨{ k with pages := k.pages.mapIdx fun i p => if i = layer then f p else p }, ?_, ?_⟩
  · simp only [State.chunk, State.updPage, State.updChunk, mapFind_mapUpd, if_true, hk, Option.map_some]
  · rw [Chunk.page] at hp ⊢
    simp only [List.getElem?_mapIdx, hp, Option.map_some, if_true]

/-- The time of a row leaves the chunks. -/
theorem at_chunk (s : State) (now h : Nat) : (s.at_ now).chunk h = s.chunk h := rfl

/-- Settles O4: each command by the branch of its operation that its conditions pick, and what the end of the command and the release of what nobody holds leave of it. -/
theorem rowsAndCommitsComplete : Obligations.RowsAndCommitsComplete := by
  refine ⟨?append, ?commit, ?adopt, ?link, ?deliver, ?ends, ?expire⟩
  case append =>
    intro s uid hm picks c q h layer f k p x m hc hwork hsrc hone hlayer hq hlast hk hcom hp hst hf hx hbody hrefs hok hsnoop
    subst hlayer
    exact completes_next rfl (append_inPlace hm picks hc hwork hsrc hone ⟨hq, hlast, hk, hcom⟩ ⟨hp, hst, hf, hx, hbody, hrefs⟩ hok hsnoop)
  case commit =>
    intro s uid hm c q h k ntok hc hwork hntok hsrc hsel hun hq hlast hk hcom hfill hspan hpoison
    subst hntok
    have hbegins := opCommit_begins hm hc hwork hsrc hsel ⟨hq, hlast, hk, hcom⟩ hfill hspan hpoison
    refine completes_next (congrArg Host.Outcome.next (hbegins.trans (beginCommit_unlinked _ hun hlast hk)))
      ⟨unlinkedWork s c h k _, ?_, rfl, rfl, rfl, rfl, rfl, rfl, rfl⟩
    exact cmd_setCmd (cmd_beginEncode _ _ _ (ready_cmd hc)) rfl
  case adopt =>
    intro s uid hm c q h k ntok ns toks n x hc hwork hntok hsrc hsel hun hdedup hq hchain hk hcom hfill hspan hpoison htoks hns hfind hlive hdown
    subst hntok htoks
    have hlast : q.chain.getLast? = some h := by rw [hchain]; rfl
    have hbegins := opCommit_begins hm hc hwork hsrc hsel ⟨hq, hlast, hk, hcom⟩ hfill hspan hpoison
    exact completes_next (congrArg Host.Outcome.next (hbegins.trans (beginCommit_adopts hun hdedup hchain hns hfind hlive hdown)))
      ⟨ended_reclaim c _ _ _ rfl, (seqOf_finish_reclaim ..).trans (seqOf_swapTail n (ownSeq_seqOf hq) hchain)⟩
  case link =>
    intro s uid picks c w k es hc hwork hns hk hpoison hdown hes hroom hplace hheld
    obtain ⟨⟨s', ps⟩, hps⟩ := Option.isSome_iff_exists.1 hplace
    have hop := opCommitLink_unlinked hc hwork hns hk hpoison hdown (toOption_ok hes) hroom hps
    obtain ⟨-, hcomps, hbind⟩ := placed_same hps
    have hvolatile : (s'.takeSerials 1).flag Fd.TNT_BIND_VOLATILE c.tenant = s.flag Fd.TNT_BIND_VOLATILE c.tenant :=
      congrArg (· == 1) (State.fld_of_reg Fd.TNT_BIND_VOLATILE c.tenant (hbind c.tenant))
    rw [linkCoded_unlinked s' c k ps true hns, hvolatile] at hop
    exact completes_next (congrArg Host.Outcome.next hop)
      ⟨⟨_, _, ended_reclaim c _ _ _ hcomps⟩, ps, s'.serial, chunk_placed_reclaim hps hheld _ c _ _ _, placeAll_length hps⟩
  case deliver =>
    intro s uid c h k hc hwork hcancel hok hby hpush hlen hlist hreach hk hlive
    have hbegins := opDeliver_begins hc hwork hcancel hok hby hlen hlist
    refine completes_next (congrArg Host.Outcome.next (hbegins.trans (beginDeliver_one hby hpush hreach hk hlive))) ⟨?_, deliverChunk_holds c hk hlive⟩
    exact cmd_setCmd (s := s.deliverChunk c true h) (ready_cmd hc) rfl
  case ends =>
    intro s uid readOk now c w hc hwork hcancel hpending hfailed hhollow hall hpush hdeadline
    exact completes_next (congrArg Host.Outcome.next (opDeliverComplete_ok readOk hc hwork hcancel hpending hfailed hhollow
      (deliverStaged_all hhollow hall) hpush hdeadline)) (ended_reclaim c _ _ _ rfl)
  case expire =>
    intro s h l now k p hk hp
    exact completes_next rfl (page_updPage _ ((at_chunk s now h).trans hk) hp)

end Sys2Proof.Machine

/-!
The entropy coder under a valid table: every bit string begins with exactly one code (R305), and a coding block decodes to the bytes it was made of
(R306, R308, R310).
-/
namespace Sys2Proof.Machine

/-! ### Canonical codes (R305) -/

/-- A code that shares out the strings of 12 bits with others is written in its own length. -/
theorem Tiles.code_lt {codes : List (Nat × Nat × Nat)} (ht : Tiles 0 4096 codes) {s n c : Nat} (he : (s, n, c) ∈ codes) : c < 2 ^ n := by
  obtain ⟨hn, -, hend⟩ := ht.within he
  have hpow : 2 ^ n * 2 ^ (12 - n) = 4096 := by rw [← Nat.pow_add, Nat.add_sub_cancel' hn]
  refine Nat.lt_of_mul_lt_mul_right (a := 2 ^ (12 - n)) ?_
  rw [hpow]
  exact Nat.lt_of_lt_of_le (Nat.lt_add_of_pos_right (Nat.two_pow_pos _)) hend

/-- A code that another begins stands for the same symbol: both are decoded from the longer one's bits. -/
theorem symbol_of_prefix {codes : List (Nat × Nat × Nat)} (ht : Tiles 0 4096 codes) (hpos : ∀ e ∈ codes, 1 ≤ e.2.1) {a b : Nat × Nat × Nat}
    (ha : a ∈ codes) (hb : b ∈ codes) (hp : codeBits a.2.1 a.2.2 <+: codeBits b.2.1 b.2.2) : a.1 = b.1 := by
  obtain ⟨rest, hrest⟩ := hp
  have hda := decodeSym_at ht ha (hpos a ha) rest
  have hdb := decodeSym_at ht hb (hpos b hb) []
  rw [List.append_nil, ← hrest, hda] at hdb
  exact (Prod.mk.inj (Option.some.inj hdb)).1

/-- Settles O34: the canonical codes of a valid table share out the strings of 12 bits, so that one of them begins each string, and it is the one decoded. -/
theorem everyBitStringDecodes : Obligations.EveryBitStringDecodes := by
  refine ⟨?decodes, ?apart⟩
  case decodes =>
    intro w l bits hw htable hlen hbits
    obtain ⟨htiles, hcodes⟩ := canonical_spec hw htable hlen
    obtain ⟨⟨s, n, c⟩, hmem, rest, rfl⟩ := code_begins htiles bits hbits
    obtain ⟨hpos, h12, -⟩ := hcodes _ hmem
    exact ⟨s, rest, decodeSym_at htiles hmem hpos rest, n, c, hmem, rfl, hpos, h12, htiles.code_lt hmem⟩
  case apart =>
    intro w l a b hw htable hlen ha hb hne hp
    obtain ⟨htiles, hcodes⟩ := canonical_spec hw htable hlen
    exact hne (symbol_of_prefix htiles (fun e he => (hcodes e he).1) ha hb hp)

/-! ### Coding blocks (R301 to R310) -/

/-- A block whose payload is code bits under generation g, padded to whole steps of 32 bytes (R302, R304). -/
def codedBlock (prof tensor fmt block g : Nat) (raw : List Byte) (bits : List Bool) : Block :=
  { prof, tensor, gen := g, mode := 1, clen := ceilDiv bits.length 256, fmt, block, crc := crc16 raw,
    payload := packBits (32 * ceilDiv bits.length 256) bits }

/-- Under a generation's table a block is stored raw, or as its code bits where there are any that fit (R306). -/
theorem encodeBlock_cases (prof tensor fmt block w g : Nat) (l : List Nat) (raw : List Byte) :
    encodeBlock prof tensor fmt block w (some (g, l)) raw = rawBlock prof tensor fmt block raw ∨
    ∃ bits, encodeBits (canonical w l) (symbolsOf w raw) = some bits ∧ bits.length ≤ 32512 ∧
      encodeBlock prof tensor fmt block w (some (g, l)) raw = codedBlock prof tensor fmt block g raw bits := by
  rw [encodeBlock]
  cases henc : encodeBits (canonical w l) (symbolsOf w raw) with
  | none => exact .inl rfl
  | some bits =>
    by_cases hfit : bits.length > 32512
    · exact .inl (if_pos hfit)
    · exact .inr ⟨bits, rfl, Nat.le_of_not_gt hfit, if_neg hfit⟩

/-- A block stored raw decodes to its bytes, whatever generations are live. -/
theorem decodeBlock_rawBlock (prof tensor fmt block w : Nat) (raw : List Byte) (live : Option (List Nat)) :
    decodeBlock (rawBlock prof tensor fmt block raw) prof tensor fmt block 128 w live = .ok raw := by
  simp [decodeBlock, headerOk, rawBlock]

/-- The header of a coded block is the one its page expects, where its bits take 1 to 127 steps of the payload. -/
theorem headerOk_codedBlock {bits : List Bool} (prof tensor fmt block g : Nat) (raw : List Byte) (l : List Nat) (hpos : 0 < bits.length)
    (hfit : bits.length ≤ 32512) :
    headerOk (codedBlock prof tensor fmt block g raw bits) prof tensor fmt block (ceilDiv bits.length 256) (some l) = true := by
  have hclen : ceilDiv bits.length 256 ≠ 0 ∧ ceilDiv bits.length 256 < 128 := by rw [ceilDiv]; omega
  simp [headerOk, codedBlock, hclen]

/-- The payload of a coded block is its bits and zeros up to the last whole step. -/
theorem unpackBits_codedBlock (prof tensor fmt block g : Nat) (raw : List Byte) (bits : List Bool) :
    unpackBits (codedBlock prof tensor fmt block g raw bits).payload = bits ++ List.replicate (256 * ceilDiv bits.length 256 - bits.length) false := by
  have hroom : bits.length ≤ 8 * (32 * ceilDiv bits.length 256) := by rw [ceilDiv]; omega
  rw [codedBlock, unpack_pack _ bits hroom, ← Nat.mul_assoc]

/-- A coded block whose bits are those of 4,096 raw bytes decodes to these: the padding stays below a step, so that it is no slack (R310). -/
theorem decodeBlock_codedBlock {w : Nat} {l : List Nat} {raw : List Byte} {bits : List Bool} (prof tensor fmt block g : Nat) (hw : w = 4 ∨ w = 8)
    (htable : tableOk w l = true) (hlen : l.length = 256) (hraw : raw.length = 4096)
    (hbits : encodeBits (canonical w l) (symbolsOf w raw) = some bits) (hfit : bits.length ≤ 32512) :
    decodeBlock (codedBlock prof tensor fmt block g raw bits) prof tensor fmt block (ceilDiv bits.length 256) w (some l) = .ok raw := by
  obtain ⟨htiles, hcodes⟩ := canonical_spec hw htable hlen
  have hone : ∀ e ∈ canonical w l, 1 ≤ e.2.1 := fun e he => (hcodes e he).1
  have hsyms : (symbolsOf w raw).length = if w = 4 then 8192 else 4096 := by rw [symbols_length hw, hraw]
  have hpos : 0 < bits.length := by
    have hle := encodeBits_length hone _ _ hbits
    rw [hsyms] at hle
    split at hle <;> omega
  have hheader := headerOk_codedBlock prof tensor fmt block g raw l hpos hfit
  have hdecode := decodeSyms_encode htiles hone (List.replicate (256 * ceilDiv bits.length 256 - bits.length) false) _ bits hbits
  rw [hsyms, ← unpackBits_codedBlock prof tensor fmt block g raw bits] at hdecode
  have hslack : ¬ 32 * ceilDiv bits.length 256 -
      ceilDiv (256 * ceilDiv bits.length 256 - (256 * ceilDiv bits.length 256 - bits.length)) 8 > 31 := by
    simp only [ceilDiv]; omega
  have hmode : (codedBlock prof tensor fmt block g raw bits).mode ≠ 0 := Nat.one_ne_zero
  have hclen : (codedBlock prof tensor fmt block g raw bits).clen = ceilDiv bits.length 256 := rfl
  have hcrc : crc16 raw = (codedBlock prof tensor fmt block g raw bits).crc := rfl
  simp only [decodeBlock, hheader, Bool.not_true, Bool.false_eq_true, hmode, if_false, Option.getD_some, hdecode, List.length_replicate, hclen, hslack,
    symbols_bytes hw, ← hcrc, if_true]

/-- Settles O33: a block stored raw holds its bytes, and one that is coded holds the code bits of their symbols, which are decoded one after another. -/
theorem blocksDecodeToWhatWasEncoded : Obligations.BlocksDecodeToWhatWasEncoded := by
  refine ⟨?table, ?noTable⟩
  case table =>
    intro w g l raw prof tensor fmt block hw htable hlen hraw
    rcases encodeBlock_cases prof tensor fmt block w g l raw with hstored | ⟨bits, hbits, hfit, hcoded⟩
    · rw [hstored]
      exact decodeBlock_rawBlock ..
    · rw [hcoded]
      exact decodeBlock_codedBlock prof tensor fmt block g hw htable hlen hraw hbits hfit
  case noTable => exact fun w raw prof tensor fmt block live => decodeBlock_rawBlock prof tensor fmt block w raw live

end Sys2Proof.Machine

/-!
The generations of a tensor: what is left of them when the stewards have freed what nobody refers to (R314, R315), and what TABLE_LOAD, TABLE_RETIRE and the
query registers answer (R225, R286, R318, R320, R331, R338).
-/
namespace Sys2Proof.Machine

/-! ### References and reclaiming (R314, R315) -/

/-- The references of a generation are counted from frames, images, chunks and commands in flight alone. -/
theorem genUsers_of_same {s u : State} (hframes : u.frames = s.frames) (himages : u.images = s.images) (hchunks : u.chunks = s.chunks)
    (hinflight : u.inflight = s.inflight) (p t n : Nat) : genUsers u p t n = genUsers s p t n := by
  have hchunk : ∀ h, u.chunk h = s.chunk h := fun h => by rw [State.chunk, State.chunk, hchunks]
  simp only [genUsers, genUsersOf, hframes, himages, hchunks, hinflight, hchunk]

/-- The steps of the ladder leave the references of every generation. -/
theorem genUsers_ladder (s : State) (p t n : Nat) : genUsers s.ladder p t n = genUsers s p t n := by
  have hsame := (State.ladder_keeps s).same
  exact genUsers_of_same (hsame .frames (by decide)) (hsame .images (by decide)) (hsame .chunks (by decide)) (hsame .inflight (by decide)) p t n

/-- The steps of the ladder leave the generations. -/
theorem gensOf_ladder (s : State) (p t : Nat) : s.ladder.gensOf p t = s.gensOf p t := by
  rw [State.gensOf, State.gensOf, (State.ladder_keeps s).same .gens (by decide)]

/-- Settles O52: handles, frames and images go first, so that generations are freed by the references that then are left. -/
theorem generationsGoWithTheirLastReference : Obligations.GenerationsGoWithTheirLastReference := by
  intro s prof tensor g hsorted htensor
  have hgens := reclaim_pre_gens s
  rw [State.reclaim, gensOf_ladder, genUsers_ladder, genUsers_freeGens, gensOf_freeGens_iff (by rw [hgens]; exact hsorted) htensor, State.gensOf, hgens,
    State.gensOf]

/-! ### TABLE_LOAD (R318) -/

/-- A load of one table installs it as the CURRENT generation of its tensor and ends with the number that it has. -/
theorem opTableLoad_one {s : State} {uid tensor : Nat} {c : Cmd} {l : List Nat} {r : List Gen × Nat × Bool} (hc : s.ready uid Oc.tableLoad = some c)
    (hbusy : tablesBusy s c = false) (hok : loadFailure s c = none) (hone : loadTables c = [(tensor, l)])
    (hr : r = installTable (s.gensOf (s.profileOf c.tenant) tensor) l (reusable (s.gensOf (s.profileOf c.tenant) tensor) l)) :
    opTableLoad uid s =
      ((s.setGens (s.profileOf c.tenant) tensor r.1).finish c Cc.ok (BitVec.ofNat 64 (r.2.1 + b2n r.2.2 * 2 ^ 28)) 0).reclaim := by
  subst hr
  simp only [opTableLoad, hc, hbusy, hok, hone, Bool.false_eq_true, if_false, State.installAll, Nat.mul_zero, Nat.pow_zero, Nat.mul_one, Nat.zero_add,
    Nat.add_zero]

/-- A command that puts the generations of a tensor and ends leaves the CURRENT one in place. -/
theorem current_setGens_finish {s : State} {g : Gen} {gs : List Gen} (p t : Nat) (c : Cmd) (code : Nat) (r0 r1 : Word) (hg : g ∈ gs) (hcur : g.st = .current) :
    g ∈ (((s.setGens p t gs).finish c code r0 r1).reclaim).gensOf p t := by
  refine reclaim_current ?_ hcur
  rw [State.gensOf, State.finish_gens, ← State.gensOf, gensOf_setGens]
  exact hg

/-! ### TABLE_RETIRE (R320) -/

/-- The generations of a tensor with one number retired. -/
def retireNum (n : Nat) (gs : List Gen) : List Gen := gs.map fun g => if g.num = n then { g with st := .retiring } else g

/-- A generation of the number that was retired is RETIRING. -/
theorem retiring_of_mem_retireNum {n : Nat} {g : Gen} {gs : List Gen} (hg : g ∈ retireNum n gs) (hn : g.num = n) : g.st = .retiring := by
  obtain ⟨x, -, rfl⟩ := List.mem_map.1 hg
  by_cases hx : x.num = n
  · rw [if_pos hx]
  · rw [if_neg hx] at hn
    exact absurd hn hx

/-- A retirement of one generation by its number. -/
theorem opTableRetire_one {s : State} {uid p t n : Nat} {c : Cmd} (hc : s.ready uid Oc.tableRetire = some c) (hbusy : tablesBusy s c = false)
    (hok : retireFailure s c = none) (hone : fieldOf c.words 1 12 12 = 0) (hp : p = s.profileOf c.tenant) (ht : t = fieldOf c.words 1 7 0)
    (hn : n = fieldOf c.words 1 11 8) :
    opTableRetire uid s =
      ((s.setGens p t (retireNum n (s.gensOf p t))).finish c Cc.ok (packWord [(32, 1), (0, genUsersOf s p [(t, n)])]) 0).reclaim := by
  subst hp ht hn
  have hnamed : retireNamed s c = [(fieldOf c.words 1 7 0, fieldOf c.words 1 11 8)] := if_pos hone
  simp only [opTableRetire, hc, hbusy, hok, hnamed, Bool.false_eq_true, if_false, List.foldl_cons, List.foldl_nil, List.length_cons, List.length_nil,
    Nat.zero_add, retireNum]

/-- What is left of the generations of a tensor after a command has put them and ended, is among those put. -/
theorem mem_of_setGens_finish {s : State} {g : Gen} {gs : List Gen} {p t : Nat} {c : Cmd} {code : Nat} {r0 r1 : Word} (hsorted : mapSorted s.gens = true)
    (hg : g ∈ (((s.setGens p t gs).finish c code r0 r1).reclaim).gensOf p t) : g ∈ gs := by
  have hleft := reclaim_gens_sub (by rw [State.finish_gens]; exact sorted_setGens p t gs hsorted) hg
  rwa [State.gensOf, State.finish_gens, ← State.gensOf, gensOf_setGens] at hleft

/-! ### Query registers (R225, R286, R331) -/

/-- A word holds the sum of its fields, each at its place. -/
theorem packWord_eq_sum (fs : List (Nat × Nat)) : packWord fs = BitVec.ofNat 64 ((fs.map fun f => f.2 * 2 ^ f.1).sum) := by
  have hfold : ∀ n, fs.foldl (fun acc f => acc + f.2 * 2 ^ f.1) n = n + (fs.map fun f => f.2 * 2 ^ f.1).sum := by
    induction fs with
    | nil => exact fun n => rfl
    | cons f fs ih => intro n; rw [List.foldl_cons, ih, List.map_cons, List.sum_cons, Nat.add_assoc]
  rw [packWord, hfold, Nat.zero_add]

/-- A query register that names what it shows below bit 62 reads FOUND there, and BUSY as 0. -/
theorem query_reads {t : State} {k : RegKind} {found : Bool} {fs : List (Nat × Nat)} (hreg : t.reg k 0 = packWord ((62, b2n found) :: fs))
    (hlow : (fs.map fun f => f.2 * 2 ^ f.1).sum < 2 ^ 62) : bitsOf (t.reg k 0) 62 62 = b2n found ∧ bitsOf (t.reg k 0) 63 63 = 0 := by
  have hbit : b2n found ≤ 1 := by cases found <;> decide
  rw [hreg, packWord_eq_sum, List.map_cons, List.sum_cons]
  dsimp only
  generalize (fs.map fun f => f.2 * 2 ^ f.1).sum = low at hlow
  rw [bitsOf_ofNat _ _ _ (by omega), bitsOf_ofNat _ _ _ (by omega)]
  omega

/-- The word of CDR_GREF for a generation, or for none (R333). -/
def genRefWord (s : State) (p t : Nat) : Option Gen → Word
  | some g => packWord [(63, 1), (56, g.num), (0, genUsers s p t g.num)]
  | none => 0

/-- The generations of a tensor in the order of their numbers (R333). -/
def gensByNum (s : State) (p t : Nat) : List Gen := (List.range 16).filterMap fun n => (s.gensOf p t).find? fun g => g.num == n

/-- A query of a tensor of a panel's profile is FOUND and shows its generations. -/
theorem opGenerationQuery_reads {s : State} {v : Word} {p t : Nat} (hp : p = bitsOf v 15 8) (ht : t = bitsOf v 7 0) (hpanel : (panelOf s p).isSome = true)
    (htensor : t < 2 * (s.geo p).layers) :
    (opGenerationQuery v s).reg .CDR_GENQ 0 = packWord [(62, b2n true), (8, p), (0, t)] ∧
    ∀ i, i < 4 → (opGenerationQuery v s).reg .CDR_GREF i = genRefWord s p t (gensByNum s p t)[i]? := by
  subst hp ht
  simp only [opGenerationQuery, hpanel, decide_eq_true htensor, Bool.and_self, if_true, reg_foldSet]
  exact ⟨by simp, fun i hi => if_pos ⟨trivial, hi⟩⟩

/-- The node query shows whether there is a committed chunk of the handle, and the words of its node. -/
theorem opNodeQuery_reads (s : State) {v : Word} {h : Nat} (hh : h = bitsOf v 23 0) :
    (opNodeQuery v s).reg .PFX_NODEQ 0 = packWord [(62, b2n ((s.chunk h).filter fun c => c.committed).isSome), (0, h)] ∧
    ∀ c, s.chunk h = some c → c.committed = true → ∀ i, i < 5 → (opNodeQuery v s).reg .PFX_NODE i = wordAt (nodeWords s h c) i := by
  subst hh
  simp only [opNodeQuery, reg_foldSet]
  refine ⟨by simp, fun c hc hcom i hi => ?_⟩
  rw [if_pos ⟨trivial, hi⟩, hc, Option.filter_some, if_pos hcom]

/-- The page query shows whether there is the page, and its words. -/
theorem opPageQuery_reads (s : State) {v : Word} {h layer : Nat} (hh : h = bitsOf v 23 0) (hlayer : layer = bitsOf v 30 24) :
    (opPageQuery v s).reg .PGT_PAGEQ 0 = packWord [(62, b2n ((s.chunk h).bind fun c => c.page layer).isSome), (24, layer), (0, h)] ∧
    ∀ c p, s.chunk h = some c → c.page layer = some p →
      (opPageQuery v s).reg .PGT_PAGE0 0 = (pageWords s c p).1 ∧ (opPageQuery v s).reg .PGT_PAGE1 0 = (pageWords s c p).2 := by
  subst hh hlayer
  have hfound : ((s.chunk (bitsOf v 23 0)).bind fun c => (c.page (bitsOf v 30 24)).map fun p => (c, p)).isSome =
      ((s.chunk (bitsOf v 23 0)).bind fun c => c.page (bitsOf v 30 24)).isSome := by
    cases s.chunk (bitsOf v 23 0) with
    | none => rfl
    | some c => rw [Option.bind_some, Option.bind_some, Option.isSome_map]
  simp only [opPageQuery, State.reg_setReg, hfound]
  refine ⟨by simp, fun c p hc hp => ?_⟩
  simp [hc, hp]

/-! ### The histogram (R338) -/

/-- CDR_HCFG of the settings that a write gives shows EN and PROFILE. -/
theorem histWord_bits (v : Word) :
    bitsOf (packWord [(28, bitsOf v 31 28), (16, bitsOf v 23 16), (8, bitsOf v 15 8), (0, bitsOf v 0 0)]) 0 0 = bitsOf v 0 0 ∧
    bitsOf (packWord [(28, bitsOf v 31 28), (16, bitsOf v 23 16), (8, bitsOf v 15 8), (0, bitsOf v 0 0)]) 15 8 = bitsOf v 15 8 := by
  have hsample := bitsOf_lt v 31 28
  have htensor := bitsOf_lt v 23 16
  have hprofile := bitsOf_lt v 15 8
  have hen := bitsOf_lt v 0 0
  rw [packWord_eq_sum]
  simp only [List.map_cons, List.map_nil, List.sum_cons, List.sum_nil]
  rw [bitsOf_ofNat _ _ _ (by omega), bitsOf_ofNat _ _ _ (by omega)]
  omega

/-- The settings that a write of CDR_HCFG takes, and the count of pages that starts anew with them, stand in no other register. -/
theorem reg_histSettings (s : State) (w : Word) {k : RegKind} (i : Nat) (hk : k ≠ .CDR_HCFG) :
    (({ s with histPages := 0 } : State).setReg .CDR_HCFG 0 w).reg k i = s.reg k i := by
  rw [State.reg_setReg, if_neg fun e => hk e.1.symm]
  rfl

/-- A write of CDR_HCFG leaves every counter and the status at zero, their reset words. -/
theorem opHistogramConfig_clears (v : Word) (s : State) :
    (∀ i, i < 256 → (opHistogramConfig v s).reg .CDR_HIST i = 0) ∧ (opHistogramConfig v s).reg .CDR_HSTAT 0 = 0 := by
  have hreset : ∀ i, RegKind.resetWord .CDR_HIST i = 0 := fun _ => rfl
  refine ⟨fun i hi => ?_, ?_⟩
  · rw [opHistogramConfig, reg_histSettings _ _ _ (by decide), State.reg_resetReg, if_neg (fun e => nomatch e.1), reg_foldReset, if_pos ⟨rfl, hi⟩, hreset]
  · rw [opHistogramConfig, reg_histSettings _ _ _ (by decide), State.reg_resetReg, if_pos ⟨rfl, rfl⟩]
    rfl

/-- Settles O7: each command by the branch of its operation that its conditions pick, and each query register by the words that its write sets. -/
theorem tableAndQueryCommandsComplete : Obligations.TableAndQueryCommandsComplete := by
  refine ⟨?load, ?retire, ?generations, ?histogram, ?node, ?page⟩
  case load =>
    intro s uid c tensor l r hc hbusy hok hone hr
    obtain ⟨g, hg, hcur, htable⟩ := installTable_current (s.gensOf (s.profileOf c.tenant) tensor) l _ reusable_spec
    rw [← hr] at hg
    exact completes_next (congrArg Host.Outcome.next (opTableLoad_one hc hbusy hok hone hr))
      ⟨ended_reclaim c _ _ _ ((State.setGens_keeps ..).same .comps (by decide)), g, current_setGens_finish _ _ c _ _ _ hg hcur, hcur, htable⟩
  case retire =>
    intro s uid c hc hbusy hok hone hsorted
    exact completes_next (congrArg Host.Outcome.next (opTableRetire_one hc hbusy hok hone rfl rfl rfl))
      ⟨ended_reclaim c _ _ _ ((State.setGens_keeps ..).same .comps (by decide)),
        fun g hg hn => retiring_of_mem_retireNum (mem_of_setGens_finish hsorted hg) hn⟩
  case generations =>
    intro s v hpanel htensor
    have hprof := bitsOf_lt v 15 8
    have hnum := bitsOf_lt v 7 0
    obtain ⟨hreg, hrefs⟩ := opGenerationQuery_reads rfl rfl hpanel htensor
    obtain ⟨hfound, hbusy⟩ := query_reads hreg (by simp only [List.map_cons, List.map_nil, List.sum_cons, List.sum_nil]; omega)
    exact completes_next rfl ⟨hfound, hbusy, hrefs⟩
  case histogram =>
    intro s v
    obtain ⟨hen, hprofile⟩ := histWord_bits v
    obtain ⟨hhist, hstat⟩ := opHistogramConfig_clears v s
    exact completes_next rfl ⟨hhist, hstat, rfl, (State.fld_setReg_same _ Fd.CDR_HCFG_EN _ 0).trans hen,
      (State.fld_setReg_same _ Fd.CDR_HCFG_PROFILE _ 0).trans hprofile⟩
  case node =>
    intro s v
    have hhandle := bitsOf_lt v 23 0
    obtain ⟨hreg, hwords⟩ := opNodeQuery_reads s (v := v) rfl
    obtain ⟨hfound, hbusy⟩ := query_reads hreg (by simp only [List.map_cons, List.map_nil, List.sum_cons, List.sum_nil]; omega)
    exact completes_next rfl ⟨hfound, hbusy, hwords⟩
  case page =>
    intro s v
    have hhandle := bitsOf_lt v 23 0
    have hlayer := bitsOf_lt v 30 24
    obtain ⟨hreg, hwords⟩ := opPageQuery_reads s (v := v) rfl rfl
    obtain ⟨hfound, hbusy⟩ := query_reads hreg (by simp only [List.map_cons, List.map_nil, List.sum_cons, List.sum_nil]; omega)
    exact completes_next rfl ⟨hfound, hbusy, hwords⟩

end Sys2Proof.Machine

/-!
What attention, near-memory, table and coding commands may change, from the frame of the operation that each command's row is.
-/
namespace Sys2Proof.Machine

/-- A row that is one operation behind another may change what either of them may. -/
theorem mayChange_then {i : Instr} {w v : Nat} {l : List Part} {s t u : State} (k : Keeps w s t) (k' : Keeps v t u) (h : exec i s = .next u)
    (hw : w ||| partMask l = partMask l := by decide +kernel) (hv : v ||| partMask l = partMask l := by decide +kernel) : MayChange i s l :=
  ⟨u, h, ((k.mono hw).step k' hv).changesOnly (Nat.or_self _)⟩

/-- Settles O36: every row is its operation, whose frame lies within the list stated; the two rows of the panel also go on with a RING_ATTEND (R415, R419). -/
theorem attentionAndNearMemoryFrames : Obligations.AttentionAndNearMemoryFrames := by
  refine ⟨?attend, ?attendBatch, ?verify, ?take, ?tileBoundary, ?complete, ?ringAttend, ?fill, ?copy, ?compare, ?reduce, ?gather, ?tableLoad,
    ?tableRetire, ?fence, ?reencode, ?nearComplete⟩
  case attend => exact fun s uid => mayChange_of_keeps (opAttend_keeps uid s) rfl
  case attendBatch => exact fun s uid hm => mayChange_of_keeps (opAttendBatch_keeps uid hm s) rfl
  case verify => exact fun s uid => mayChange_of_keeps (opVerify_keeps uid s) rfl
  case take => exact fun s uid hm now => mayChange_then (opAttentionTake_keeps uid hm now s) (State.ringAdvance_keeps ..) rfl
  case tileBoundary => exact fun s uid => mayChange_of_keeps (opTileBoundary_keeps uid s) rfl
  case complete =>
    intro s uid ok ringNs now
    refine ⟨_, rfl, Keeps.changesOnly ?_ (Nat.or_self _)⟩
    split
    · split
      · exact (State.ringComplete_keeps ..).mono (by decide +kernel)
      · exact (opAttentionComplete_keeps ..).mono (by decide +kernel)
    · exact .refl ..
  case ringAttend => exact fun s uid => mayChange_of_keeps (opRingAttend_keeps uid s) rfl
  case fill => exact fun s uid => mayChange_of_keeps (opFill_keeps uid s) rfl
  case copy => exact fun s uid => mayChange_of_keeps (opCopy_keeps uid s) rfl
  case compare => exact fun s uid => mayChange_of_keeps (opCompare_keeps uid s) rfl
  case reduce => exact fun s uid => mayChange_of_keeps (opReduce_keeps uid s) rfl
  case gather => exact fun s uid => mayChange_of_keeps (opGather_keeps uid s) rfl
  case tableLoad => exact fun s uid => mayChange_of_keeps (opTableLoad_keeps uid s) rfl
  case tableRetire => exact fun s uid => mayChange_of_keeps (opTableRetire_keeps uid s) rfl
  case fence => exact fun s uid => mayChange_of_keeps (opFence_keeps uid s) rfl
  case reencode => exact fun s h layer picks => mayChange_of_keeps (opPageReencode_keeps h.val layer.val picks s) rfl
  case nearComplete => exact fun s uid ok => mayChange_of_keeps (opNearMemoryComplete_keeps uid ok s) rfl

end Sys2Proof.Machine

/-!
What attention commands come to: the checks and the pinning of pages, the panel's taking, a tile boundary and the end (R342, R349 to R358, R363 to R375).
-/
namespace Sys2Proof.Machine

/-! ### Checks that pass (R365, R369, R371, R374) -/

/-- The ranges of a command that row 5 of R365 looks at, the ones it writes marked. -/
abbrev attAccesses (s : State) (c : Cmd) : List (Nat × Nat × Bool) :=
  (attRanges s c).1.map (fun x => (x.1, x.2, false)) ++ (attRanges s c).2.map fun x => (x.1, x.2, true)

/-- ATTEND and VERIFY that pass every check of R365 begin with the one sequence that they name. -/
theorem attOne_begins {s : State} {c : Cmd} {q : AttSeq} {wfirst wend qpos : Nat} (hfields : attFieldFault s c = none)
    (hq : q = attSeq s c (fieldOf c.words 1 21 0) wfirst wend qpos) (hseq : q.failed = none)
    (haccess : (s.attAccess (s.hostOf c.tenant) (attAccesses s c)).isNone) : s.attOne c wfirst wend qpos = s.attBegin c [q] := by
  subst hq
  simp only [State.attOne, hfields, hseq, Option.isNone_iff_eq_none.1 haccess]

/-- ATTEND's row with nothing pending. -/
theorem opAttend_ready {s : State} {uid : Nat} {c : Cmd} (hc : s.readyCut uid Oc.attend 1 = some c) (hwork : c.work = .ready) (hcancel : c.cancel = none) :
    opAttend uid s = s.attOne c (fieldOf c.words 4 44 23) (fieldOf c.words 4 22 0) (fieldOf c.words 5 21 0) := by
  simp only [opAttend, hc, hwork, hcancel]

/-- VERIFY carries its number of candidates less one (R373). -/
theorem attCmd_ncand_verify (s : State) {c : Cmd} (h : c.opcode = Oc.verify) : (attCmd s c).ncand = fieldOf c.words 1 53 50 + 1 := by
  simp only [attCmd, h, Oc.verify, Oc.ringAttend, Oc.attendBatch, Nat.reduceEqDiff, if_false, if_true]
  rfl

/-- VERIFY's row with nothing pending: the window ends behind the last candidate (R375). -/
theorem opVerify_ready {s : State} {uid : Nat} {c : Cmd} (hc : s.readyCut uid Oc.verify 2 = some c) (hwork : c.work = .ready) (hcancel : c.cancel = none) :
    opVerify uid s =
      s.attOne c (fieldOf c.words 4 43 22) (fieldOf c.words 4 21 0 + (fieldOf c.words 1 53 50 + 1)) (fieldOf c.words 4 21 0) := by
  obtain ⟨_, _, _, hop⟩ := readyCut_cmd hc
  simp only [opVerify, hc, hwork, hcancel, attCmd_ncand_verify s hop]

/-- ATTEND_BATCH with inline descriptors, all its cells there and every check passed, begins with a sequence for each descriptor. -/
theorem opAttendBatch_begins {s : State} {uid : Nat} {hm : HostMem} {c : Cmd} (hc : s.readyCut uid Oc.attendBatch 2 = some c) (hfull : c.full = true)
    (hwork : c.work = .ready) (hcancel : c.cancel = none) (hfields : attFieldFault s c = none) (hinline : fieldOf c.words 1 18 17 = 0)
    (haccess : (s.attAccess (s.hostOf c.tenant) (attAccesses s c)).isNone) (hsnoops : s.snoops.any (fun x => x.uid == some c.uid) = false) :
    opAttendBatch uid hm s = s.attBegin c ((List.range (fieldOf c.words 1 9 0)).map
      (descSeq s c (sliceAt (inlineBytes c 2) 0 (16 * fieldOf c.words 1 9 0)))) := by
  have hdescs : batchDescs s c (fieldOf c.words 1 9 0) hm = some (sliceAt (inlineBytes c 2) 0 (16 * fieldOf c.words 1 9 0)) := if_pos hinline
  have hsources : (if fieldOf c.words 1 18 17 = 2 then [((wordAt c.words 2).toNat, 16 * fieldOf c.words 1 9 0)] else []) = [] :=
    if_neg (by rw [hinline]; decide)
  simp only [opAttendBatch, hc, Option.filter_some, hfull, Bool.true_or, if_true, hcancel, hwork, hfields, Option.isNone_iff_eq_none.1 haccess, hsources,
    coherent_nil s c hsnoops, hdescs]

/-! ### The panel takes a command (R363, R364) -/

/-- The attention work of a command other than RING_ATTEND. -/
theorem attention_of_work {s : State} {uid : Nat} {c : Cmd} {w : AttWork} (hc : s.cmd uid = some c) (hw : c.work = .attend w) :
    s.attention uid = some (c, w) := by
  simp only [State.attention, hc, Option.bind_some, Cmd.attWork, hw, Option.map_some]

/-- A command other than RING_ATTEND has nothing to do on the ring. -/
theorem ringAdvance_attend {s : State} {uid : Nat} {c : Cmd} {w : AttWork} (hc : s.cmd uid = some c) (hw : c.work = .attend w) :
    s.ringAdvance uid = s := by
  simp only [State.ringAdvance, hc, hw]

/-- Inline queries are always there: no sequence fails where its queries are read. -/
theorem attFill_inline {s : State} {c : Cmd} {a : AttCmd} (g : Geo) (hm : HostMem) {seqs : List AttSeq} (hsrc : a.qsrc = 0)
    (hok : seqs.all (fun q => q.failed.isNone) = true) : (attFill s c a g hm seqs).findSome? (fun q => q.failed) = none := by
  rw [List.findSome?_eq_none_iff]
  intro q hq
  obtain ⟨⟨p, i⟩, hp, rfl⟩ := List.mem_map.1 hq
  have hnone : p.failed = none := Option.isNone_iff_eq_none.1 (List.all_eq_true.1 hok p (List.fst_mem_of_mem_zipIdx hp))
  simp only [attQueries, hsrc, if_true, hnone, Option.isSome_none, Bool.false_eq_true, if_false]

/-- Reading the queries leaves the number of sequences. -/
theorem attFill_length (s : State) (c : Cmd) (a : AttCmd) (g : Geo) (hm : HostMem) (seqs : List AttSeq) : (attFill s c a g hm seqs).length = seqs.length := by
  simp [attFill]

/-- Looking at the pages again decides nothing about a sequence. -/
theorem again_failed (s : State) (w : AttWork) (h : w.seqs.all (fun q => q.failed.isNone) = true) :
    (w.again s).seqs.all (fun q => q.failed.isNone) = true := by
  rw [AttWork.again, List.all_map]
  exact h

/-- The state in which the panel looks at a command: its wait has been counted, if it waited, and its frames are pinned (R363, R384). -/
def State.attPinned (s : State) (c d : Cmd) : State := (if c.attWaiting && !d.attWaiting then s.waitEnds d else s).setCmd d

/-- It differs in the commands in flight and the counts of waits. -/
theorem attPinned_keeps (s : State) (c d : Cmd) : Keeps (partMask [.inflight, .reg .ATN_WAIT]) s (s.attPinned c d) :=
  .step (.ite (fun _ => (State.waitEnds_keeps s d).mono (by decide +kernel)) fun _ => .refl ..) (State.setCmd_keeps ..) (by decide +kernel)

/-- The command with its pages looked at again. -/
def Cmd.pinned (c : Cmd) (w : AttWork) : Cmd := { c with work := .attend w, fpins := attFrames w }

/-- The panel of a tenant is its registers' alone. -/
theorem attPanel_same {s t : State} (tenant : Nat) (hbind : Part.same s t (.reg .TNT_BIND)) (hpanel : Part.same s t (.reg .PANEL_STATE)) :
    attPanel t tenant = attPanel s tenant := by
  simp only [attPanel, panelOf, State.profileOf, fld_of (f := Fd.TNT_BIND_PROFILE) hbind, fld_of (f := Fd.PANEL_STATE_STATE) hpanel,
    fld_of (f := Fd.PANEL_STATE_PROFILE) hpanel]

/-- A command whose pages are looked at again is in flight, with its frames. -/
theorem cmd_attPinned {s : State} {uid : Nat} {c d : Cmd} (hc : s.cmd uid = some c) (hd : d.uid = c.uid) : (s.attPinned c d).cmd uid = some d := by
  refine cmd_setCmd (c := c) ?_ hd
  split
  · rw [State.cmd, (State.waitEnds_keeps ..).same .inflight (by decide +kernel)]
    exact hc
  · exact hc

section
variable {s : State} {uid : Nat} {c : Cmd} {w : AttWork} (hc : s.cmd uid = some c) (hw : c.work = .attend w) (htaken : w.taken = none)
  (hcancel : c.cancel = none) (hpages : attWaits (w.again s) = []) (hfull : c.full = true) (hsrc : (attCmd s c).qsrc = 0)
  (hsnoops : s.snoops.any (fun x => x.uid == some c.uid) = false) (hok : w.seqs.all (fun q => q.failed.isNone) = true)
include hc hw htaken hcancel hpages hfull hsrc hsnoops hok

/-- The panel takes a command whose pages are all pinned and whose queries are inline. -/
theorem opAttentionTake_takes (hm : HostMem) (now : Nat) :
    ∃ seqs, seqs.length = w.seqs.length ∧ opAttentionTake uid hm now s =
      ((s.at_ now).attPinned c (c.pinned (w.again s))).takeAttention (c.pinned (w.again s)) { w.again s with seqs } := by
  have hagain : w.again (s.at_ now) = w.again s := rfl
  have hcmd : attCmd (s.at_ now) c = attCmd s c := rfl
  have hd : ({ c.withAtt (w.again s) with fpins := attFrames (w.again s) } : Cmd) = c.pinned (w.again s) := by rw [Cmd.withAtt, hw]; rfl
  have hwaits : (c.pinned (w.again s)).attWaiting = false := by
    simp only [Cmd.attWaiting, Cmd.attWork, Cmd.pinned, Option.map_some, Option.getD_some, hpages, bne_self_eq_false]
  generalize hp : (s.at_ now).attPinned c (c.pinned (w.again s)) = u
  have hu : (if (c.attWaiting && !(c.pinned (w.again s)).attWaiting) = true then (s.at_ now).waitEnds (c.pinned (w.again s)) else s.at_ now).setCmd
      (c.pinned (w.again s)) = u := hp
  have hstays : u.snoops = s.snoops := hp ▸ (attPinned_keeps ..).same .snoops (by decide +kernel)
  have hlines := coherent_nil u (c.pinned (w.again s)) (by rw [hstays]; exact hsnoops)
  have hqueries := attFill_inline (s := u) (c := c.pinned (w.again s)) ((s.at_ now).geo ((s.at_ now).profileOf c.tenant)) hm hsrc (again_failed s w hok)
  have hcells : (c.withAtt (w.again s)).full = true := by rw [Cmd.withAtt, hw]; exact hfull
  refine ⟨attFill u (c.pinned (w.again s)) (attCmd s c) ((s.at_ now).geo ((s.at_ now).profileOf c.tenant)) hm (w.again s).seqs,
    (attFill_length ..).trans (List.length_map _), ?_⟩
  rw [hwaits] at hu
  simp only [opAttentionTake, attention_of_work hc hw, htaken, hcancel, Option.isSome_none, Bool.false_eq_true, if_false, hagain, hcmd, hd, hwaits, hu]
  simp only [hcells, Bool.not_true, Bool.false_eq_true, if_false, hsrc, if_neg (show ¬(0 = 2) by decide), hlines, hqueries]
  cases (c.withAtt (w.again s)).opcode == Oc.attendBatch <;> rfl

/-- Once taken, the command executes from this moment and counts in INEXEC (R363, R385). -/
theorem opAttentionTake_effect (hm : HostMem) (now : Nat) :
    (opAttentionTake uid hm now s).fld Fd.ATN_PANEL_INEXEC (attPanel s c.tenant) = (s.fld Fd.ATN_PANEL_INEXEC (attPanel s c.tenant) + 1) % 65536 ∧
      ∃ w' : AttWork, (opAttentionTake uid hm now s).cmd uid = some { c.pinned (w.again s) with work := .attend w' } ∧ w'.taken = some (max s.dtime now) ∧
        w'.seqs.length = w.seqs.length := by
  obtain ⟨seqs, hlen, htakes⟩ := opAttentionTake_takes hc hw htaken hcancel hpages hfull hsrc hsnoops hok hm now
  have k := attPinned_keeps (s.at_ now) c (c.pinned (w.again s))
  have hpinned : ((s.at_ now).attPinned c (c.pinned (w.again s))).cmd uid = some (c.pinned (w.again s)) := cmd_attPinned (s := s.at_ now) hc rfl
  generalize (s.at_ now).attPinned c (c.pinned (w.again s)) = u at k hpinned htakes
  have hpanel : attPanel u (c.pinned (w.again s)).tenant = attPanel s c.tenant :=
    attPanel_same c.tenant (k.same (.reg .TNT_BIND) (by decide +kernel)) (k.same (.reg .PANEL_STATE) (by decide +kernel))
  have hinexec : u.fld Fd.ATN_PANEL_INEXEC (attPanel s c.tenant) = s.fld Fd.ATN_PANEL_INEXEC (attPanel s c.tenant) :=
    fld_of (f := Fd.ATN_PANEL_INEXEC) (k.same (.reg .ATN_PANEL) (by decide +kernel)) _
  obtain ⟨hcount, hafter⟩ := takeAttention_effect u (c.pinned (w.again s)) { w.again s with seqs } uid hpinned ⟨_, rfl⟩
  rw [hpanel, hinexec] at hcount
  rw [htakes]
  exact ⟨hcount, _, hafter, congrArg some (k.same .dtime (by decide +kernel)), hlen⟩

end

/-! ### Tile boundaries (R342) -/

/-- A pending cancellation ends the command at the boundary. -/
theorem opTileBoundary_cancelled {s : State} {uid d : Nat} {c : Cmd} {w : AttWork} (hc : s.cmd uid = some c) (hw : c.work = .attend w)
    (hcancel : c.cancel = some d) : Ended s (opTileBoundary uid s) c Cc.cancelled (detailWord d) 0 := by
  simp only [opTileBoundary, attention_of_work hc hw, hcancel]
  refine attFail_ended c _ _ ?_
  exact ((State.cutElems_keeps ..).same .comps (by decide +kernel)).trans ((State.leavePanel_keeps ..).same .comps (by decide +kernel))

/-- Without a cancellation a boundary changes nothing. -/
theorem opTileBoundary_goesOn {s : State} {uid : Nat} {c : Cmd} {w : AttWork} (hc : s.cmd uid = some c) (hw : c.work = .attend w)
    (hcancel : c.cancel = none) : opTileBoundary uid s = s := by
  simp only [opTileBoundary, attention_of_work hc hw, hcancel]

/-! ### The end (R349 to R358, R365, R367) -/

/-- What a command leaves once its one sequence is computed: its outputs written and closed, its reads and its completion counted, its time taken. -/
def State.attOutput (s : State) (c : Cmd) (w : AttWork) (r : SeqResult) : State :=
  let a := attCmd s c
  let u := ((s.attWrite c a 0 r).closeOutput c a (some 0)).attAccount a.layer (attPasses ((s.attWrite c a 0 r).closeOutput c a (some 0)) c) r
  ((u.attCount c Cc.ok false (attElems (s.geo (s.profileOf c.tenant)) (r.read.map fun e => e.2).sum)).attTime c w r.read.length 0).1

/-- The end of ATTEND and VERIFY where the computation has a result, the final read is answered and no chunk is hollow (R365, R367). -/
theorem endOne_ok {s : State} {c : Cmd} {w : AttWork} {q : AttSeq} {rest : List AttSeq} {r : SeqResult} (hseqs : w.seqs = q :: rest)
    (hr : computeSeq s c q = .ok r) (hhollow : firstHollow s q = 0) :
    ∃ r0 r1, s.endOne c w true = (((s.attOutput c w r).leavePanel c w).finish c Cc.ok r0 r1).reclaim := by
  simp only [State.endOne, hseqs, hr, hhollow, Bool.not_true, Bool.and_false, Bool.false_eq_true, if_false, ne_eq, not_true_eq_false]
  exact ⟨_, _, rfl⟩

/-- The outputs of the one sequence lie at the destination in the plain region (R362). -/
theorem attWrite_plain {s : State} {c : Cmd} (r : SeqResult) (hdst : (attCmd s c).odst = 2) :
    s.attWrite c (attCmd s c) 0 r = s.plainPut (attCmd s c).oaddr (outImage (attCmd s c).ofmt (attCmd s c).stats r.partials) := by
  simp only [State.attWrite, hdst, if_neg (show ¬(2 = 1) by decide), Nat.zero_mul, Nat.add_zero]

/-- Behind the outputs that were written, a command that ends changes counters, pages and records, and neither plain memory nor a completion spool. -/
theorem attOutput_keeps (s : State) (c : Cmd) (w : AttWork) (r : SeqResult) :
    Keeps (partMask (noted ++ [.out, .chunks, .events, .evLost, .reg .ATN_CNT0, .reg .ATN_CNT1, .reg .ATN_FAIL, .reg .ATN_ELEM, .reg .ATN_PANEL]))
      (s.attWrite c (attCmd s c) 0 r) ((s.attOutput c w r).leavePanel c w) := by
  unfold State.attOutput
  refine .step (.step (.step (.step (.step (.refl ..) (State.closeOutput_keeps ..) ?_) (State.attAccount_keeps ..) ?_) (State.attCount_keeps ..) ?_)
    (State.attTime_keeps ..) ?_) (State.leavePanel_keeps ..) ?_
  all_goals decide +kernel

/-- The end of a command other than RING_ATTEND is R365's operation. -/
theorem exec_attentionComplete_attend {s : State} {uid : Nat} {readOk : Bool} {ringNs now : Nat} {c : Cmd} {w : AttWork} (hc : s.cmd uid = some c)
    (hw : c.work = .attend w) : exec (.attentionComplete uid readOk ringNs now) s = .next (opAttentionComplete uid readOk now s) := by
  simp only [exec, execAttentionComplete, hc, hw]

/-- An ATTEND that the panel took, not cancelled and its destination coherent, ends with what its pages are now. -/
theorem opAttentionComplete_ends {s : State} {uid now : Nat} (readOk : Bool) {c : Cmd} {w : AttWork} (hc : s.cmd uid = some c)
    (hw : c.work = .attend w) (hop : c.opcode = Oc.attend) (hcancel : c.cancel = none) (htaken : w.taken.isSome)
    (hlines : ((s.at_ now).coherent c [] (attRanges s c).2).2 = true) :
    opAttentionComplete uid readOk now s = (s.at_ now).endOne c (w.again s) readOk := by
  have hrow : ¬(w.taken.isNone = true ∨ c.opcode = Oc.ringAttend) := by
    rw [Option.isNone_iff_eq_none, hop]
    exact fun h => h.elim (fun e => by rw [e] at htaken; exact nomatch htaken) (by decide)
  have hone : ¬(c.opcode = Oc.attendBatch) := by rw [hop]; decide
  simp only [opAttentionComplete, attention_of_work hc hw, if_neg hrow, hcancel, coherent_true hlines, if_neg hone]
  rfl

/-- What the end of an ATTEND comes to where its outputs go to a plain region and its window has no hollow chunk. -/
theorem opAttentionComplete_effect {s : State} {uid now : Nat} {c : Cmd} {w : AttWork} {q : AttSeq} {r : SeqResult} (hc : s.cmd uid = some c)
    (hw : c.work = .attend w) (hop : c.opcode = Oc.attend) (hcancel : c.cancel = none) (htaken : w.taken.isSome) (hseqs : (w.again s).seqs = [q])
    (hdst : (attCmd s c).odst = 2) (hlines : ((s.at_ now).coherent c [] (attRanges s c).2).2 = true)
    (hr : (computeSeq (s.at_ now) c q).toOption = some r) (hhollow : firstHollow s q = 0) :
    (∃ r0 r1, Ended s (opAttentionComplete uid true now s) c Cc.ok r0 r1) ∧
      (opAttentionComplete uid true now s).plainBytes (attCmd s c).oaddr (outImage (attCmd s c).ofmt (attCmd s c).stats r.partials).length =
        outImage (attCmd s c).ofmt (attCmd s c).stats r.partials := by
  obtain ⟨r0, r1, hend⟩ := endOne_ok hseqs (toOption_ok hr) hhollow
  have k := attOutput_keeps (s.at_ now) c (w.again s) r
  have hwrite := attWrite_plain (s := s.at_ now) r hdst
  rw [opAttentionComplete_ends true hc hw hop hcancel htaken hlines, hend]
  refine ⟨⟨r0, r1, ended_reclaim c _ _ _ ?comps⟩, ?outputs⟩
  case comps =>
    rw [k.same .comps (by decide +kernel), hwrite, (State.plainPut_keeps ..).same .comps (by decide +kernel)]
    rfl
  case outputs =>
    have hmem := (State.reclaim_keeps ((((s.at_ now).attOutput c (w.again s) r).leavePanel c (w.again s)).finish c Cc.ok r0 r1)).same .plainMem (by decide +kernel)
    rw [bytes_of_mem hmem, bytes_of_mem ((State.finish_keeps ..).same .plainMem (by decide +kernel)), bytes_of_mem (k.same .plainMem (by decide +kernel)), hwrite]
    exact plainPut_read ..

/-- Settles O5: each row by the branch of its operation that its conditions pick, and the outputs by a read after the write that the end makes. -/
theorem attentionCommandsComplete : Obligations.AttentionCommandsComplete := by
  refine ⟨?attend, ?verify, ?batch, ?take, ?boundary, ?complete⟩
  case attend =>
    intro s uid c q hc hwork hcancel hfields hq hseq haccess hpages
    have heq := (opAttend_ready hc hwork hcancel).trans (attOne_begins hfields hq hseq haccess)
    exact completes_next (congrArg Host.Outcome.next heq) (attBegin_effect s c uid [q] hc hpages)
  case verify =>
    intro s uid c q hc hwork hcancel hfields hq hseq haccess hpages
    have heq := (opVerify_ready hc hwork hcancel).trans (attOne_begins hfields hq hseq haccess)
    exact completes_next (congrArg Host.Outcome.next heq) (attBegin_effect s c uid [q] hc hpages)
  case batch =>
    intro s uid hm c qs hc hfull hwork hcancel hfields hinline hqs haccess hsnoops hpages
    subst hqs
    have heq := opAttendBatch_begins (hm := hm) hc hfull hwork hcancel hfields hinline haccess hsnoops
    exact completes_next (congrArg Host.Outcome.next heq) (attBegin_effect s c uid _ hc hpages)
  case take =>
    intro s uid hm now c w hc hw htaken hcancel hpages hfull hsrc hsnoops hok
    obtain ⟨hcount, w', hafter, htime, hlen⟩ := opAttentionTake_effect hc hw htaken hcancel hpages hfull hsrc hsnoops hok hm now
    exact completes_next (congrArg Host.Outcome.next (ringAdvance_attend hafter rfl)) ⟨hcount, _, w', hafter, rfl, htime, rfl, hlen⟩
  case boundary =>
    exact fun s uid c w hc hw => ⟨fun d hcancel => completes_next rfl (opTileBoundary_cancelled hc hw hcancel),
      fun hcancel => congrArg Host.Outcome.next (opTileBoundary_goesOn hc hw hcancel)⟩
  case complete =>
    intro s uid ringNs now c w q r hc hw hop hcancel htaken hseqs hdst hlines hr hhollow
    exact completes_next (exec_attentionComplete_attend hc hw) (opAttentionComplete_effect hc hw hop hcancel htaken hseqs hdst hlines hr hhollow)

end Sys2Proof.Machine

/-!
What ring links, messages, searches and contexts may change, from the frame of the operation that each command's row is.
-/
namespace Sys2Proof.Machine

/-- Settles O40: every row is its operation, whose frame lies within the list stated. -/
theorem ringFrames : Obligations.RingFrames := by
  refine ⟨?enable, ?trained, ?down, ?cable, ?data, ?control, ?check, ?getReq, ?getData, ?put, ?reducePut, ?ack, ?hdr, ?block, ?search, ?hit, ?slot,
    ?miss, ?ctxOpen, ?ctxAbort, ?ctxClose, ?abortComplete, ?tail, ?take, ?done, ?disable⟩
  case enable => exact fun s v => mayChange_of_keeps (opRingEnable_keeps v s) rfl
  case trained =>
    exact fun s l width id pos nmem ok => mayChange_of_keeps (opRingLinkTrained_keeps l.val width.val id.toNat pos.val nmem.val ok s) rfl
  case down => exact fun s l retraining => mayChange_of_keeps (opRingLinkDown_keeps l.val retraining s) rfl
  case cable => exact fun s l present => mayChange_of_keeps (opRingCablePresence_keeps l.val present s) rfl
  case data => exact fun s l frame => mayChange_of_keeps (opRingDataFrame_keeps l.val frame s) rfl
  case control =>
    exact fun s l frame credits replay => mayChange_of_keeps (opRingControlFrame_keeps l.val frame credits (replay.map fun f => f.val) s) rfl
  case check => exact fun s src last ok => mayChange_of_keeps (opRingCheck_keeps src.val last.val ok s) rfl
  case getReq => exact fun s l m => mayChange_of_keeps (opGetReq_keeps l.val m s) rfl
  case getData => exact fun s l m => mayChange_of_keeps (opGetData_keeps l.val m s) rfl
  case put => exact fun s l m => mayChange_of_keeps (opRingPut_keeps l.val m s) rfl
  case reducePut => exact fun s l m => mayChange_of_keeps (opReducePut_keeps l.val m s) rfl
  case ack => exact fun s l m => mayChange_of_keeps (opRingAck_keeps l.val m s) rfl
  case hdr => exact fun s l dst h => mayChange_of_keeps (opRattHdr_keeps l.val dst.val h s) rfl
  case block => exact fun s l b => mayChange_of_keeps (opRattBlock_keeps l.val b s) rfl
  case search => exact fun s src cpos uid word => mayChange_of_keeps (opCamSearch_keeps src.val cpos.val uid word s) rfl
  case hit => exact fun s l dst uid pos handle => mayChange_of_keeps (opCamHit_keeps l.val dst.val uid pos.val handle.val s) rfl
  case slot => exact fun s slot matchIn => mayChange_of_keeps (opCascadeSlot_keeps slot matchIn s) rfl
  case miss => exact fun s uid => mayChange_of_keeps (opCascadeMissTimeout_keeps uid s) rfl
  case ctxOpen => exact fun s c v => mayChange_of_keeps (opRingCtxOpen_keeps c.val v s) rfl
  case ctxAbort => exact fun s c v => mayChange_of_keeps (opRingCtxAbort_keeps c.val v s) rfl
  case ctxClose => exact fun s c v => mayChange_of_keeps (opRingCtxClose_keeps c.val v s) rfl
  case abortComplete => exact fun s c => mayChange_of_keeps (opRingAbortComplete_keeps c.val s) rfl
  case tail => exact fun s host c v => mayChange_of_keeps (opDescriptorTailWrite_keeps host.val c.val v s) rfl
  case take => exact fun s c => mayChange_of_keeps (opDescriptorTake_keeps c.val s) rfl
  case done => exact fun s c idx => mayChange_of_keeps (opDescriptorDone_keeps c.val idx.toNat s) rfl
  case disable => exact fun s v => mayChange_of_keeps (opRingDisable_keeps v s) rfl

end Sys2Proof.Machine

/-!
Ring messages at their target (R400, R406, R407): what each kind does once it has arrived, and what its checks answer. The part wakes and the message
takes a number as it arrives, which is the model's (log entry 94).
-/
namespace Sys2Proof.Machine

/-- A request for a context that is not OPEN at its target, or whose MODE is not BULK, is refused with the detail of R400. -/
theorem targetCheck_closed {u : State} {m : RingMsg} (n : Nat) (wr : Bool) (h : ctxState u m.ctx ≠ ctxOpen ∨ u.fld Fd.SNL_CTX_CTL_MODE m.ctx ≠ 0) :
    u.targetCheck m n wr = (u, some (Cc.noRights, 0x0145)) := by
  simp only [State.targetCheck, if_pos h]

/-- A refused GET_REQ is answered by a GET_DATA without data. -/
theorem onGetReq_refused {u v : State} {m : RingMsg} {e : Nat × Nat} (job link : Nat) (h : u.targetCheck m m.len false = (v, some e)) :
    u.onGetReq job link m = v.answer m 2 e.1 e.2 [] [] := by
  simp only [State.onGetReq, h]

/-- A refused PUT is answered by an ACK. -/
theorem onPut_refused {u v : State} {m : RingMsg} {e : Nat × Nat} (job link : Nat) (h : u.targetCheck m m.data.length true = (v, some e)) :
    u.onPut job link m = v.answer m 5 e.1 e.2 [] [] := by
  simp only [State.onPut, h]

/-- So is a refused REDUCE_PUT. -/
theorem onReducePut_refused {u v : State} {m : RingMsg} {e : Nat × Nat} (job link : Nat) (h : u.targetCheck m m.data.length true = (v, some e)) :
    u.onReducePut job link m = v.answer m 5 e.1 e.2 [] [] := by
  simp only [State.onReducePut, h]

section
variable {s u : State} {m : RingMsg} (link : Nat) (hdst : m.dst = ringPos s) (hu : u = { s.wake with nextUid := s.nextUid + 1 })
include hdst hu

/-- A GET_REQ for this member acts here. -/
theorem opGetReq_here : opGetReq link m s = u.onGetReq (jobBase + s.nextUid) link { m with mtype := 1, data := [], bad := [] } :=
  ringArrive_here (m := { m with mtype := 1, data := [], bad := [] }) link hdst hu

/-- A GET_DATA for this member acts here. -/
theorem opGetData_here : opGetData link m s = u.onGetData (jobBase + s.nextUid) link { m with mtype := 2 } :=
  ringArrive_here (m := { m with mtype := 2 }) link hdst hu

/-- A PUT for this member acts here. -/
theorem opRingPut_here : opRingPut link m s = u.onPut (jobBase + s.nextUid) link { m with mtype := 3 } :=
  ringArrive_here (m := { m with mtype := 3 }) link hdst hu

/-- A REDUCE_PUT for this member acts here. -/
theorem opReducePut_here : opReducePut link m s = u.onReducePut (jobBase + s.nextUid) link { m with mtype := 4 } :=
  ringArrive_here (m := { m with mtype := 4 }) link hdst hu

/-- An ACK for this member confirms a part of the descriptor that waits for it (R406). -/
theorem opRingAck_here {d : RingDesc} (hd : awaited u m = some d) : opRingAck link m s = u.confirm m.ctx m.didx m.off m.status m.detail := by
  have hd : awaited u { m with mtype := 5, data := [], bad := [] } = some d := hd
  rw [opRingAck, ringArrive_here (m := { m with mtype := 5, data := [], bad := [] }) link hdst hu]
  simp only [State.onMsg, hd, if_neg (show ¬(5 = 1) by decide), if_neg (show ¬(5 = 2) by decide), if_neg (show ¬(5 = 3) by decide),
    if_neg (show ¬(5 = 4) by decide), if_true]

end

/-- Settles O58: each kind of request acts at its target, whose check refuses it. -/
theorem requestsOutsideAnOpenBulkContextAreRefused : Obligations.RequestsOutsideAnOpenBulkContextAreRefused := by
  intro s u link m hdst hu hclosed
  refine ⟨congrArg Host.Outcome.next ?getReq, congrArg Host.Outcome.next ?put, congrArg Host.Outcome.next ?reducePut⟩
  case getReq =>
    have hcheck := targetCheck_closed (m := { m with mtype := 1, data := [], bad := [] }) m.len false hclosed
    exact (opGetReq_here link.val hdst hu).trans (onGetReq_refused _ _ hcheck)
  case put => exact (opRingPut_here link.val hdst hu).trans (onPut_refused _ _ (targetCheck_closed (m := { m with mtype := 3 }) _ _ hclosed))
  case reducePut => exact (opReducePut_here link.val hdst hu).trans (onReducePut_refused _ _ (targetCheck_closed (m := { m with mtype := 4 }) _ _ hclosed))

end Sys2Proof.Machine

/-!
Ring contexts, descriptors and what arrives for them (R399 to R407, R415, R416): each operation by the branch that its conditions pick, and what is read
after it. The order of the checks of OPEN is log entry 55, when a header or a block is collected log entry 56, and how the descriptor list is read log entry 58.
-/
namespace Sys2Proof.Machine

/-! ### Messages whose lines are free (R406, R407) -/

/-- What is read of plain memory after a write of marked bytes: the bytes, and nothing else has changed. -/
theorem putMarked_reads {s v t : State} (a : Nat) (bs : List Byte) (bad : List Nat) (ht : t.plainMem = (v.putMarked a bs bad).plainMem)
    (hv : v.plainMem = s.plainMem) :
    t.plainBytes a bs.length = bs ∧ ∀ x, ¬ (a ≤ x ∧ x < a + bs.length) → t.plainMem.get x = s.plainMem.get x := by
  refine ⟨(bytes_of_mem ht ..).trans (putMarked_read ..), fun x hx => ?_⟩
  rw [ht, putMarked_get, if_neg hx, hv]

section
variable {u : State} {m : RingMsg} (job link : Nat)

/-- A GET_REQ that its target allows, whose lines are free and not poisoned, is answered with the bytes. -/
theorem onGetReq_served (hcheck : u.targetCheck m m.len false = (u, none)) (hlines : (u.coherentJob job [(m.addr, m.len)] []).2 = true)
    (hclean : badLines u m.addr m.len = []) :
    u.onGetReq job link m = (u.coherentJob job [(m.addr, m.len)] []).1.answer m 2 Cc.ok 0 (u.plainBytes m.addr m.len) [] := by
  simp only [State.onGetReq, hcheck, coherentJob_true hlines]
  exact if_pos hclean

/-- A GET_DATA that is awaited is written where its lines are free, and confirms its part. -/
theorem onGetData_served {d : RingDesc} (hd : awaited u m = some d) (hdata : m.data ≠ [])
    (hlines : (u.coherentJob job [] [(d.laddr + 64 * m.off, m.data.length)]).2 = true) :
    u.onGetData job link m = ((u.coherentJob job [] [(d.laddr + 64 * m.off, m.data.length)]).1.putMarked (d.laddr + 64 * m.off) m.data m.bad).confirm
      m.ctx m.didx m.off m.status m.detail := by
  simp only [State.onGetData, hd, if_neg hdata, coherentJob_true hlines]

/-- A PUT that its target allows, whose lines are free, is written and acknowledged. -/
theorem onPut_served (hcheck : u.targetCheck m m.data.length true = (u, none)) (hlines : (u.coherentJob job [] [(m.addr, m.data.length)]).2 = true) :
    u.onPut job link m = ((u.coherentJob job [] [(m.addr, m.data.length)]).1.putMarked m.addr m.data m.bad).answer m 5 Cc.ok 0 [] [] := by
  simp only [State.onPut, hcheck, coherentJob_true hlines]

/-- A REDUCE_PUT that its target allows, of a valid type, whose lines are free, is added and acknowledged. -/
theorem onReducePut_served (hcheck : u.targetCheck m m.data.length true = (u, none)) (htype : m.rtype ≤ 4)
    (hlines : (u.coherentJob job [] [(m.addr, m.data.length)]).2 = true) :
    u.onReducePut job link m = ((u.coherentJob job [] [(m.addr, m.data.length)]).1.putMarked m.addr
      (reduceBytes m.rtype (u.plainBytes m.addr m.data.length) m.data) (m.bad ++ badLines u m.addr m.data.length)).answer m 5 Cc.ok 0 [] [] := by
  simp only [State.onReducePut, hcheck, if_neg (Nat.not_lt.2 htype), coherentJob_true hlines]
  rfl

end

/-- Waking the part, numbering a message and forgetting a job's answers leave plain memory. -/
theorem arrived_plainMem {s u : State} {job : Nat} {r w : List (Nat × Nat)} (hu : u = { s.wake with nextUid := s.nextUid + 1 })
    (hlines : (u.coherentJob job r w).2 = true) : (u.coherentJob job r w).1.plainMem = s.plainMem := by
  rw [coherentJob_true hlines, hu]
  exact wake_plainMem s

/-! ### Headers and blocks (R415, R416) -/

/-- A header that joins the others of a context, an earlier one of the same member and tag left out, is the one of that member and tag. -/
theorem hdrOf_collected (s : State) (h : RattHdr) (hs : List RattHdr) (x : RingCtx)
    (hx : x.hdrs = (hs.filter fun y => !(y.rtag == h.rtag && y.src == h.src)) ++ [h]) : hdrOf (s.setRctx h.ctx x) h.ctx h.rtag h.src = some h := by
  have hold : (hs.filter fun y => !(y.rtag == h.rtag && y.src == h.src)).find? (fun y => y.rtag == h.rtag && y.src == h.src) = none :=
    List.find?_eq_none.2 fun y hy => ne_true_of_eq_false ((Bool.not_eq_true' _).mp (List.mem_filter.1 hy).2)
  rw [hdrOf, rctxOf_setRctx, hx, List.find?_append, hold]
  simp

/-- A header is collected; where no command of its tag is under way, that is all. -/
theorem opRattHdr_collects {s : State} {h : RattHdr} {dst : Nat} (link : Nat) (hdst : dst = ringPos s) (hopen : ctxState s h.ctx = ctxOpen)
    (hmode : s.fld Fd.SNL_CTX_CTL_MODE h.ctx = 1)
    (hnone : (ringWorks (s.setRctx h.ctx { s.rctxOf h.ctx with
      hdrs := ((s.rctxOf h.ctx).hdrs.filter fun y => !(y.rtag == h.rtag && y.src == h.src)) ++ [h] }) h.ctx).find? (fun k => ringTag k == h.rtag) = none) :
    opRattHdr link dst h s = s.setRctx h.ctx { s.rctxOf h.ctx with
      hdrs := ((s.rctxOf h.ctx).hdrs.filter fun y => !(y.rtag == h.rtag && y.src == h.src)) ++ [h] } := by
  have hattn : ¬(ctxState s h.ctx ≠ ctxOpen ∨ s.fld Fd.SNL_CTX_CTL_MODE h.ctx ≠ 1) := fun e => e.elim (· hopen) (· hmode)
  simp only [opRattHdr, if_neg (not_not_intro hdst), if_neg hattn, hnone]

/-- A block for a command of this member that nobody behind wants is collected. -/
theorem opRattBlock_collects {s : State} {link : Nat} {b : RattBlock} (hopen : ctxState s b.ctx = ctxOpen)
    (hcmd : ((ringWorks s b.ctx).find? fun k => ringTag k == b.rtag).isSome = true) (hlast : hopsBeyond s link b.origin = []) :
    opRattBlock link b s = s.setRctx b.ctx { s.rctxOf b.ctx with blocks := (s.rctxOf b.ctx).blocks ++ [b] } := by
  have htaken : ¬(ctxState s b.ctx ≠ ctxOpen ∨ ((ringWorks s b.ctx).find? fun k => ringTag k == b.rtag).isNone = true) :=
    fun e => e.elim (· hopen) fun e => by rw [Option.isNone_iff_eq_none.1 e] at hcmd; exact nomatch hcmd
  unfold opRattBlock
  extract_lets cmd hs beyond first on t x
  have hstays : on = false := by
    unfold on beyond
    rw [hlast]
    clear_value first hs
    cases hs with
    | none => rfl
    | some hs => cases first <;> rfl
  have ht : t = s := if_neg (by rw [hstays]; exact Bool.false_ne_true)
  unfold x
  rw [ht]
  exact if_neg htaken

/-! ### Contexts (R399, R402, R431) -/

/-- A write of SNL_CTX_CTL reaches no field of a context that is OPEN. -/
theorem ctxFields_open {s : State} {c : Nat} (v : Word) (h : ctxState s c = ctxOpen) : s.ctxFields c v = s :=
  if_neg (by rw [h]; decide)

/-- The state that a context is given is the one it has. -/
theorem ctxState_setFld (s : State) (c : Nat) {n : Nat} (h : n < 8) : ctxState (s.setFld Fd.SNL_CTX_ST_STATE n c) c = n :=
  s.fld_setFld_fits (k := .SNL_CTX_ST) n c (by decide) h

/-- OPEN with valid fields: no descriptor is outstanding, and the first one is that of index 0. -/
theorem opRingCtxOpen_opens {s : State} {c : Nat} {v : Word} (h : openError (s.ctxFields c v) c = 0) :
    opRingCtxOpen c v s = (((s.ctxFields c v).setRctx c { descs := [], hdrs := [], blocks := [], why := 0 }).setFld Fd.SNL_CTX_ST_STATE ctxOpen c).setFld
      Fd.SNL_CTX_ST_TAKEN 0 c := if_neg (not_not_intro h)

/-- ABORT of an OPEN context begins its abort. -/
theorem opRingCtxAbort_begins {s : State} {c : Nat} (v : Word) (h : ctxState s c = ctxOpen) :
    opRingCtxAbort c v s = (s.ctxFields c v).abortCtx c 0x0143 := if_pos (by rw [ctxFields_open v h, h])

/-- An aborting context with nothing outstanding drops what it has collected, and is ABORTED. -/
theorem opRingAbortComplete_aborted {s : State} {c : Nat} (h : ctxState s c = ctxAborting) (hnone : ctxOutstanding s c = 0) :
    opRingAbortComplete c s = (s.setRctx c { s.rctxOf c with hdrs := [], blocks := [] }).setFld Fd.SNL_CTX_ST_STATE ctxAborted c := if_pos ⟨h, hnone⟩

/-- CLOSE of an OPEN context with nothing outstanding. -/
theorem opRingCtxClose_closes {s : State} {c : Nat} (v : Word) (h : ctxState s c = ctxOpen) (hnone : ctxOutstanding s c = 0) :
    opRingCtxClose c v s = s.setFld Fd.SNL_CTX_ST_STATE ctxClosed c := by
  rw [opRingCtxClose, ctxFields_open v h]
  exact if_pos (.inl ⟨h, hnone⟩)

/-! ### Descriptors (R404 to R406) -/

/-- The write of a context's tail word that a host requests. -/
def tailRequest (s : State) (h c : Nat) (v : Word) : LineReq :=
  { host := some h, line := tailAddr s c / 64, op := .write (lineImage (tailAddr s c) ((leBytes 8 v.toNat).map some)), started := false, awaits := [],
    cls := plainClass s h (tailAddr s c) true }

/-- A host's write of the tail word, at a line of a plain region that nobody holds and nothing waits for, is served as a write of that line (R405). -/
theorem opDescriptorTailWrite_served {s : State} {h c e o : Nat} (v : Word) (hgate : gate s h (tailAddr s c) true = .ok)
    (hplace : dpaPlace (dpaExtents s.cacheSf) (tailAddr s c) = .plain e o)
    (hqueue : s.lineQ.all (fun x => x.line != tailAddr s c / 64) = true) (hsnoops : snoopsFor s (tailRequest s h c v) = [])
    (hevict : evictionFor s (tailRequest s h c v) = []) : opDescriptorTailWrite h c v s = s.wake.serve (tailRequest s h c v) :=
  plainRequest_served s h (tailAddr s c) (.write (lineImage (tailAddr s c) ((leBytes 8 v.toNat).map some))) true rfl e o hgate hplace hqueue hsnoops hevict

/-- The next descriptor whose slot is clean and whose fields, ranges, lines and source hold is taken, and its messages are sent. -/
theorem opDescriptorTake_sends {s u : State} {c a : Nat} {d : RingDesc} (hready : takeReady s c = true)
    (ha : a = slotAddr s c (s.fld Fd.SNL_CTX_ST_TAKEN c)) (hu : u = s.wake)
    (hslot : (u.coherentFor (ctxJob c) ((mapFind u.curLog (ctxJob c)).getD []) [(a, 64)] []).2 = true)
    (hd : d = descOfBytes (u.plainBytes a 64) (s.fld Fd.SNL_CTX_ST_TAKEN c) u.dtime) (hclean : linePoison u (a / 64) = false)
    (hfields : descOk u c d = true) (hbacked : rangeBacked u (u.hostOf (u.fld Fd.SNL_CTX_CTL_TENANT c)) d.laddr d.len = true)
    (hallowed : rangeDenied u (u.hostOf (u.fld Fd.SNL_CTX_CTL_TENANT c)) d.laddr d.len (d.op == 1) = none)
    (hlines : (u.coherentJob (ctxJob c) ((a, 64) :: if d.op = 1 then [] else [(d.laddr, d.len)]) []).2 = true)
    (hsource : (d.op != 1 && rangePoison u d.laddr d.len) = false) :
    opDescriptorTake c s = ((u.coherentJob (ctxJob c) ((a, 64) :: if d.op = 1 then [] else [(d.laddr, d.len)]) []).1.addDesc c
      { d with left := partsOf d.len, res := none }).sendDesc c { d with left := partsOf d.len, res := none } := by
  have hlog : s.curLog = u.curLog := by rw [hu, State.wake_curLog]
  have hsource' : (d.op != 1 && rangePoison ({ u with curLog := mapDel (ctxJob c) u.curLog } : State) d.laddr d.len) = false := hsource
  simp only [opDescriptorTake, hready, Bool.not_true, Bool.false_eq_true, if_false, ← ha, ← hu, hlog, coherentFor_true hslot, ← hd, hclean, hfields,
    hbacked, hallowed, coherentJob_true hlines, hsource']

/-- A descriptor with nothing left to confirm ends where the line of its slot is free. -/
theorem opDescriptorDone_ends {s : State} {c idx : Nat} {d : RingDesc}
    (hd : ((s.rctxOf c).descs.find? fun d => d.idx == idx && d.left.isEmpty) = some d)
    (hlines : (s.coherentJob (ctxJob (256 + c)) [] [(slotAddr s c idx + 24, 8)]).2 = true) :
    opDescriptorDone c idx s = ((s.coherentJob (ctxJob (256 + c)) [] [(slotAddr s c idx + 24, 8)]).1.plainPut (slotAddr s c idx + 24)
      (leBytes 8 (doneWord (d.res.getD (Cc.ok, 0)).1 (d.res.getD (Cc.ok, 0)).2).toNat)).setRctx c
      { s.rctxOf c with descs := (s.rctxOf c).descs.erase d } := by
  simp only [opDescriptorDone, hd, coherentJob_true hlines]

/-- Settles O17: each row is its operation, which takes the branch that the conditions pick; what is read after it are the rules of its writes. -/
theorem ringContextsAndMessagesComplete : Obligations.RingContextsAndMessagesComplete := by
  refine ⟨?getReq, ?getData, ?put, ?reducePut, ?ack, ?hdr, ?block, ?ctxOpen, ?ctxAbort, ?abortComplete, ?ctxClose, ?tail, ?take, ?done⟩
  case getReq =>
    intro s u link m hdst hu hopen hbulk hbacked hallowed hlines hclean
    have hcheck := targetCheck_ok (m := { m with mtype := 1, data := [], bad := [] }) hopen hbulk hbacked hallowed
    exact congrArg Host.Outcome.next ((opGetReq_here link.val hdst hu).trans (onGetReq_served _ _ hcheck hlines hclean))
  case getData =>
    intro s u link m d hdst hu hd hdata hlines
    have heq := (opGetData_here link.val hdst hu).trans (onGetData_served (m := { m with mtype := 2 }) _ _ hd hdata hlines)
    obtain ⟨hbytes, hrest⟩ := putMarked_reads (s := s) (d.laddr + 64 * m.off) m.data m.bad rfl (arrived_plainMem hu hlines)
    refine completes_next (congrArg Host.Outcome.next heq) ⟨hbytes, hrest, ?_⟩
    rw [State.confirm, rctxOf_setRctx]
    have hctx : ((u.coherentJob (jobBase + s.nextUid) [] [(d.laddr + 64 * m.off, m.data.length)]).1.putMarked (d.laddr + 64 * m.off) m.data
        m.bad).rctx = u.rctx := by
      rw [(State.putMarked_keeps ..).same .rctx (by decide), coherentJob_true hlines]
    simp only [State.rctxOf, hctx]
  case put =>
    intro s u link m hdst hu hopen hbulk hbacked hallowed hlines
    have hcheck := targetCheck_ok (m := { m with mtype := 3 }) hopen hbulk hbacked hallowed
    have heq := (opRingPut_here link.val hdst hu).trans (onPut_served _ _ hcheck hlines)
    exact ⟨congrArg Host.Outcome.next heq, completes_next (congrArg Host.Outcome.next heq)
      (putMarked_reads (s := s) m.addr m.data m.bad (answer_plain ..) (arrived_plainMem hu hlines))⟩
  case reducePut =>
    intro s u link m hdst hu hopen hbulk htype hbacked hallowed hlines
    have hcheck := targetCheck_ok (m := { m with mtype := 4 }) hopen hbulk hbacked hallowed
    exact congrArg Host.Outcome.next ((opReducePut_here link.val hdst hu).trans (onReducePut_served _ _ hcheck htype hlines))
  case ack => exact fun s u link m d hdst hu hd => congrArg Host.Outcome.next (opRingAck_here link.val hdst hu hd)
  case hdr =>
    intro s link dst h hdst hopen hmode hnone
    exact completes_next (congrArg Host.Outcome.next (opRattHdr_collects link.val hdst hopen hmode hnone))
      ⟨hdrOf_collected s h _ _ rfl, (State.setRctx_keeps ..).changesOnly⟩
  case block =>
    intro s link b hopen hcmd hlast
    refine completes_next (congrArg Host.Outcome.next (opRattBlock_collects hopen hcmd hlast)) ⟨?_, (State.setRctx_keeps ..).changesOnly⟩
    rw [rctxOf_setRctx]
  case ctxOpen =>
    intro s c v h
    refine completes_next rfl ?_
    have k := opRingCtxOpen_keeps c.val v s
    rw [opRingCtxOpen_opens h] at k ⊢
    refine ⟨?state, ?taken, rctxOf_setRctx .., k.changesOnly (by decide +kernel)⟩
    case state =>
      rw [ctxState, State.fld_setFld_other (k := .SNL_CTX_ST) _ _ _ _ (by decide) (by decide) (.inl (by decide))]
      exact ctxState_setFld _ _ (by decide)
    case taken => exact State.fld_setFld_fits (k := .SNL_CTX_ST) _ _ _ (by decide) (by decide)
  case ctxAbort => exact fun s c v h => congrArg Host.Outcome.next (opRingCtxAbort_begins v h)
  case abortComplete =>
    intro s c h hnone
    refine completes_next rfl ?_
    have k := opRingAbortComplete_keeps c.val s
    rw [opRingAbortComplete_aborted h hnone] at k ⊢
    exact ⟨ctxState_setFld _ _ (by decide), k.changesOnly (by decide +kernel)⟩
  case ctxClose =>
    intro s c v h hnone
    refine completes_next rfl ?_
    have k := opRingCtxClose_keeps c.val v s
    rw [opRingCtxClose_closes v h hnone] at k ⊢
    exact ⟨ctxState_setFld _ _ (by decide), k.changesOnly (by decide +kernel)⟩
  case tail =>
    intro s host c v e o r hgate hplace hr hqueue hsnoops hevict
    subst hr
    exact congrArg Host.Outcome.next (opDescriptorTailWrite_served v hgate hplace hqueue hsnoops hevict)
  case take =>
    exact fun s u c a d hready ha hu hslot hd hclean hfields hbacked hallowed hlines hsource =>
      congrArg Host.Outcome.next (opDescriptorTake_sends hready ha hu hslot hd hclean hfields hbacked hallowed hlines hsource)
  case done =>
    intro s c idx d hd hlines
    refine completes_next (congrArg Host.Outcome.next (opDescriptorDone_ends hd hlines)) ?_
    obtain ⟨hbytes, hrest⟩ := plainPut_done (s.coherentJob (ctxJob (256 + c.val)) [] [(slotAddr s c.val idx.toNat + 24, 8)]).1 _ 8 c.val _
      { s.rctxOf c.val with descs := (s.rctxOf c.val).descs.erase d } (leBytes_length 8 _)
    have hmem : (s.coherentJob (ctxJob (256 + c.val)) [] [(slotAddr s c.val idx.toNat + 24, 8)]).1.plainMem = s.plainMem := by
      rw [coherentJob_true hlines]
    refine ⟨hbytes, fun x hx => ?_, by rw [rctxOf_setRctx]⟩
    rw [hrest x hx, hmem]

end Sys2Proof.Machine

/-!
The ring's enable, its links, frames and check, the CAM cascade, RING_ATTEND and FENCE (R387 to R394, R409, R415, R421 to R424, R717). Frames whose messages and
credits are operands are log entry 52, the handshake and the start of the check log entry 54, a RING_ATTEND's checks log entry 56, and cascade slots log entry 59.
-/
namespace Sys2Proof.Machine

/-! ### What fields read after fields are set -/

/-- A field reads what was set in it, and any other field, or copy, of the registers what it read before. -/
theorem State.fld_setFld_eq (s : State) (f g : Field) (v i j : Nat) (hf : f ∈ f.reg.fields) (hg : g ∈ g.reg.fields) :
    (s.setFld f v i).fld g j = if f = g ∧ i = j then v % 2 ^ (f.hi + 1 - f.lo) else s.fld g j := by
  obtain ⟨hlo, hhi⟩ := f.reg.fields_within f hf
  split
  · next h => rw [← h.1, ← h.2, s.fld_setFld_same f v i hlo hhi]
  · next h =>
    by_cases hreg : f.reg = g.reg
    · exact s.fld_setFld_other v i j hf (hreg ▸ hg) (Decidable.not_and_iff_or_not.1 h)
    · exact s.fld_setFld_reg f g v i j hreg

/-! ### Enabling and disabling (R391, R392) -/

/-- SNL_CFG takes the ring's identity from a write. -/
def State.ringIdentity (s : State) (v : Word) : State :=
  ((s.setFld Fd.SNL_CFG_RINGID (bitsOf v 31 16)).setFld Fd.SNL_CFG_POS (bitsOf v 8 5)).setFld Fd.SNL_CFG_NMEM (bitsOf v 4 1)

/-- The ring is enabled and FORMING, its links fresh. -/
def State.ringStarts (s : State) : State :=
  let t := (s.setFld Fd.SNL_CFG_EN 1).setFld Fd.SNL_RING_STATE ringForming
  ((t.setRlink 0 (t.rlink 0).fresh).setRlink 1 (t.rlink 1).fresh).setFld Fd.SNL_RING_CAUSE 0

/-- The ring is disabled and OFF, its links DOWN. -/
def State.ringStops (s : State) : State :=
  (((((s.setFld Fd.SNL_CFG_EN 0).setFld Fd.SNL_RING_STATE ringOff).setFld Fd.SNL_RING_CAUSE 0).setFld Fd.SNL_CASC_CASCOK 0).setReg .SNL_LINK 0 0).setReg
    .SNL_LINK 1 0

/-- EN set while it is 0: the fields of the write are taken, the ring starts, and both links train. -/
theorem opRingEnable_starts {s : State} (v : Word) (h : s.flag Fd.SNL_CFG_EN = false) :
    opRingEnable v s = (((s.ringIdentity (setBits v 0 0 1)).ringStarts.trainLink 0).trainLink 1) := by
  have hon : ¬(bitsOf (setBits v 0 0 1) 0 0 = 0) := by rw [bitsOf_setBits_same v 1 (Nat.le_refl 0) (by decide)]; decide
  simp only [opRingEnable, State.ringConfig, h, Bool.false_eq_true, if_false, if_neg hon, State.ringIdentity, State.ringStarts]

/-- EN cleared while it is 1: the ring stops. -/
theorem opRingDisable_stops {s : State} (v : Word) (h : s.flag Fd.SNL_CFG_EN = true) : opRingDisable v s = s.ringStops := by
  have hoff : ¬(bitsOf (setBits v 0 0 0) 0 0 = 1) := by rw [bitsOf_setBits_same v 0 (Nat.le_refl 0) (by decide)]; decide
  simp only [opRingDisable, State.ringConfig, h, if_true, if_neg hoff, State.ringStops]

/-- The registers of a ring that starts: its links are beside them. -/
theorem ringStarts_fld (s : State) (f : Field) (i : Nat) :
    s.ringStarts.fld f i = (((s.setFld Fd.SNL_CFG_EN 1).setFld Fd.SNL_RING_STATE ringForming).setFld Fd.SNL_RING_CAUSE 0).fld f i :=
  State.fld_congr rfl f i

/-- What SNL_CFG and SNL_RING read once the ring has started. -/
theorem ringStarts_reads (s : State) (v : Word) :
    (s.ringIdentity v).ringStarts.fld Fd.SNL_CFG_EN = 1 ∧ (s.ringIdentity v).ringStarts.fld Fd.SNL_RING_STATE = ringForming ∧
    (s.ringIdentity v).ringStarts.fld Fd.SNL_RING_CAUSE = 0 ∧ (s.ringIdentity v).ringStarts.fld Fd.SNL_CFG_RINGID = bitsOf v 31 16 ∧
    (s.ringIdentity v).ringStarts.fld Fd.SNL_CFG_POS = bitsOf v 8 5 ∧ (s.ringIdentity v).ringStarts.fld Fd.SNL_CFG_NMEM = bitsOf v 4 1 := by
  have hid := Nat.mod_eq_of_lt (bitsOf_lt v 31 16)
  have hpos := Nat.mod_eq_of_lt (bitsOf_lt v 8 5)
  have hnmem := Nat.mod_eq_of_lt (bitsOf_lt v 4 1)
  simp (disch := decide) only [ringStarts_fld, State.ringIdentity, State.fld_setFld_eq]
  exact ⟨rfl, rfl, rfl, hid, hpos, hnmem⟩

/-- The registers of a ring that stops, but for those of its links. -/
theorem ringStops_fld (s : State) {f : Field} (i : Nat) (hf : .SNL_LINK ≠ f.reg) :
    s.ringStops.fld f i =
      ((((s.setFld Fd.SNL_CFG_EN 0).setFld Fd.SNL_RING_STATE ringOff).setFld Fd.SNL_RING_CAUSE 0).setFld Fd.SNL_CASC_CASCOK 0).fld f i :=
  (State.fld_setReg_reg _ _ _ _ _ _ hf).trans (State.fld_setReg_reg _ _ _ _ _ _ hf)

/-- Both links of a ring that stops are DOWN. -/
theorem ringStops_links (s : State) : s.ringStops.fld Fd.SNL_LINK_STATE 0 = linkDown ∧ s.ringStops.fld Fd.SNL_LINK_STATE 1 = linkDown := by
  refine ⟨?_, fld_setReg_zero _ Fd.SNL_LINK_STATE 1⟩
  rw [State.ringStops, State.fld, State.reg_setReg, if_neg (by decide)]
  exact fld_setReg_zero _ Fd.SNL_LINK_STATE 0

/-- What SNL_CFG, SNL_RING and SNL_CASC read once the ring has stopped. -/
theorem ringStops_reads (s : State) :
    s.ringStops.fld Fd.SNL_CFG_EN = 0 ∧ s.ringStops.fld Fd.SNL_RING_STATE = ringOff ∧ s.ringStops.fld Fd.SNL_CASC_CASCOK = 0 := by
  simp (disch := decide) only [ringStops_fld, State.fld_setFld_eq]
  exact ⟨rfl, rfl, rfl⟩

/-! ### Links (R391 to R394, R717) -/

/-- A link that ends training at a width, with a consistent handshake: it has passed, what is not acknowledged and what waited goes out, and the check starts. -/
theorem opRingLinkTrained_passes {s u : State} {l : Fin 2} {width id pos nmem : Nat} (h : s.fld Fd.SNL_LINK_STATE l.val = linkTraining) (hw : width ≠ 0)
    (hu : u = s.setReg .SNL_LINK l.val (packWord [(12, pos), (3, width), (0, linkUp)])) (hok : handshakeCause u l.val id pos nmem true = 0) :
    opRingLinkTrained l.val width id pos nmem true s =
      (((u.setRlink l.val { u.rlink l.val with passed := true }).ringResend l.val
        (((u.rlink l.val).sent.head?.map fun e => e.1).getD (u.rlink l.val).txNext)).ringPump).startCheck := by
  have htrains : ¬(s.fld Fd.SNL_LINK_STATE l.val ≠ linkTraining ∧ s.fld Fd.SNL_LINK_STATE l.val ≠ linkRetraining) := fun e => e.1 h
  simp only [opRingLinkTrained, if_neg htrains, if_neg hw, ← hu, hok, rlink_setRlink, if_true, beq_self_eq_true]

/-- A FORMED ring that breaks is BROKEN, and its cascade does not work. -/
theorem ringBreak_formed {s : State} (h : s.fld Fd.SNL_RING_STATE = ringFormed) :
    s.ringBreak.fld Fd.SNL_RING_STATE = ringBroken ∧ s.ringBreak.fld Fd.SNL_CASC_CASCOK = 0 := by
  rw [State.ringBreak, if_pos h]
  simp (disch := decide) only [State.fld_setFld_eq]
  exact ⟨rfl, rfl⟩

/-- Breaking the ring leaves its links. -/
theorem ringBreak_link (s : State) (l : Nat) : s.ringBreak.fld Fd.SNL_LINK_STATE l = s.fld Fd.SNL_LINK_STATE l :=
  fld_of (f := Fd.SNL_LINK_STATE) (s.ringBreak_keeps.same (.reg .SNL_LINK) (by decide)) l

/-- A link that goes DOWN reads so, and the ring breaks. -/
theorem linkLost_reads (s : State) (l : Nat) : ((s.setReg .SNL_LINK l 0).ringBreak).fld Fd.SNL_LINK_STATE l = linkDown :=
  (ringBreak_link ..).trans (fld_setReg_zero s Fd.SNL_LINK_STATE l)

/-- A link that is UP goes DOWN. -/
theorem opRingLinkDown_goes {s : State} {l : Nat} (h : s.fld Fd.SNL_LINK_STATE l = linkUp) :
    opRingLinkDown l false s = (s.setReg .SNL_LINK l 0).ringBreak := by
  simp only [opRingLinkDown, if_neg (show ¬(s.fld Fd.SNL_LINK_STATE l = linkDown) by rw [h]; decide), Bool.false_eq_true, if_false]

/-- A cable that leaves takes its link DOWN. -/
theorem opRingCablePresence_leaves (s : State) (l : Nat) :
    opRingCablePresence l false s = ((s.setRlink l { s.rlink l with cable := false }).setReg .SNL_LINK l 0).ringBreak := by
  simp only [opRingCablePresence, Bool.false_eq_true, if_false]

/-- Breaking the ring leaves what its links hold beside their registers. -/
theorem ringBreak_rlink (s : State) (l : Nat) : s.ringBreak.rlink l = s.rlink l := by
  rw [State.rlink, s.ringBreak_keeps.same .rlinks (by decide), State.rlink]

/-- This member's own check, around with every position in order, forms the ring, and what waited goes out. -/
theorem opRingCheck_forms {s : State} {src last : Nat} (hown : src = ringPos s) (hnext : (last + 1) % ringN s = ringPos s)
    (hforming : s.fld Fd.SNL_RING_STATE = ringForming) (hlinks : linksPassed s = true) :
    opRingCheck src last true s = ((s.setFld Fd.SNL_RING_STATE ringFormed).incFld Fd.SNL_RING_FORMS 1).ringPump := by
  have hruns : ¬((s.fld Fd.SNL_RING_STATE ≠ ringForming ∧ s.fld Fd.SNL_RING_STATE ≠ ringBroken) ∨ (!linksPassed s) = true) := by
    rw [hlinks]
    exact fun e => e.elim (fun e => e.1 hforming) Bool.false_ne_true
  simp only [opRingCheck, if_neg (not_not_intro hown), if_neg hruns, hnext, beq_self_eq_true, Bool.and_self, if_true]

/-- Another member's check goes on east. -/
theorem opRingCheck_passes {s : State} {src last : Nat} (ok : Bool) (h : src ≠ ringPos s) :
    opRingCheck src last ok s = s.ringPut 0 (.check src (ringPos s) (ok && ringPos s == (last + 1) % ringN s)) := if_pos h

/-! ### Frames (R387, R388, R393) -/

section
variable {s : State} {l : Nat} {frame : List Byte} (hup : s.fld Fd.SNL_LINK_STATE l = linkUp)
include hup

/-- A DATA frame whose CRC is right and whose FSEQ is the next is accepted. -/
theorem opRingDataFrame_accepted (hok : frameOk frame = true) (htype : frameType frame = 1) (hnext : frameSeq frame = (s.rlink l).rxNext) :
    opRingDataFrame l frame s =
      (s.setRlink l { s.rlink l with rxNext := (frameSeq frame + 1) % fseqMod, replays := 0 }).ringAcked l (frameAck frame) := by
  simp only [opRingDataFrame, if_neg (not_not_intro hup), hok, Bool.not_true, Bool.false_eq_true, if_false, htype, if_neg (show ¬(1 = 0) by decide),
    ne_eq, not_true_eq_false, if_neg (not_not_intro hnext)]

/-- A frame whose CRC is wrong is counted and asked for again. -/
theorem opRingDataFrame_corrupt (hbad : frameOk frame = false) : opRingDataFrame l frame s = (s.addFld Fd.SNL_LERR_CRCERR 1 l).askReplay l := by
  simp only [opRingDataFrame, if_neg (not_not_intro hup), hbad, Bool.not_false, if_true]

/-- A CONTROL frame acknowledges and gives credits. -/
theorem opRingControlFrame_credits (credits : List Nat) (hok : frameOk frame = true) (htype : frameType frame = 2) :
    opRingControlFrame l frame credits none s = (s.ringAcked l (frameAck frame)).setRlink l { (s.ringAcked l (frameAck frame)).rlink l with
      credits := ((s.ringAcked l (frameAck frame)).rlink l).credits.mapIdx fun i n => n + credits.getD i 0 } := by
  simp only [opRingControlFrame, if_neg (not_not_intro hup), hok, Bool.not_true, Bool.false_eq_true, if_false, htype, ne_eq, not_true_eq_false]

end

/-! ### The CAM cascade (R421 to R424) -/

/-- A search of this member whose answer is in leaves the list, and its LOOKUP has the answer. -/
theorem camDone_answers {s : State} {uid : Nat} (a : CascAnswer) (h : (s.camReqs.any fun r => ownSearch s r && r.uid == uid) = true) :
    s.camDone uid a = ({ s with camReqs := s.camReqs.filter fun r => !(ownSearch s r && r.uid == uid) } : State).camAnswer uid a := if_pos h

/-- A hit for this member answers the search that it names. -/
theorem opCamHit_answers {s : State} {dst uid : Nat} (link pos handle : Nat) (hdst : dst = ringPos s)
    (h : (s.camReqs.any fun r => ownSearch s r && r.uid == uid) = true) :
    opCamHit link dst uid pos handle s =
      ({ s with camReqs := s.camReqs.filter fun r => !(ownSearch s r && r.uid == uid) } : State).camAnswer uid (.hit pos handle) :=
  (if_neg (not_not_intro hdst)).trans (camDone_answers _ h)

/-- Replacing an entry of a list by nothing leaves the others. -/
theorem filterMap_drop {α : Type} [DecidableEq α] (r : α) (xs : List α) : (xs.filterMap fun x => if x = r then none else some x) = xs.filter (· ≠ r) := by
  rw [← List.filterMap_eq_filter]
  refine congrArg (xs.filterMap ·) (funext fun x => ?_)
  by_cases h : x = r
  · simp [Option.guard, h]
  · simp [Option.guard, h]

/-- The search that a slot resolves: the oldest of the slot's owner that was broadcast at least 1.0 µs before. -/
def slotSearch (s : State) (slot : Nat) : Option CamReq :=
  s.camReqs.find? fun r => r.cpos == slotOwner s slot && !r.done && decide (r.sentAt + 1000 ≤ 128 * slot)

/-- Another member's search that an entry matches with MATCH_IN low leaves the list; MATCH_OUT is high, and its originator is told where it hit. -/
theorem opCascadeSlot_hits {s : State} {slot h : Nat} {r : CamReq} (hr : slotSearch (s.at_ (128 * slot)) slot = some r) (hown : ownSearch s r = false)
    (hmatch : camMatch (s.at_ (128 * slot)) r.word = some h) :
    opCascadeSlot slot false s = (({ s.at_ (128 * slot) with camReqs := s.camReqs.filter (· ≠ r) } : State).emit (.matchOut slot true)).ringSend r.src
      (.camHit r.src r.uid (ringPos s) h) := by
  have hother (t : State) (ht : t.regs = s.regs) : ownSearch t r = false := by
    rw [ownSearch, ringPos, State.fld_congr ht]
    exact hown
  unfold slotSearch at hr
  simp only [opCascadeSlot, hr, hmatch, hother (s.at_ (128 * slot)) rfl, Bool.false_eq_true, if_false, Bool.false_and, Option.isSome_some, Bool.or_true,
    filterMap_drop]
  exact if_neg (ne_true_of_eq_false (hother _ rfl))

/-- A search whose slot has passed without a hit, or whose cascade has stopped working, is a miss. -/
theorem opCascadeMissTimeout_misses {s : State} {uid : Nat}
    (h : (s.camReqs.any fun r => ownSearch s r && r.uid == uid && (r.done || !s.flag Fd.SNL_CASC_CASCOK)) = true) :
    opCascadeMissTimeout uid s = ({ s with camReqs := s.camReqs.filter fun r => !(ownSearch s r && r.uid == uid) } : State).camAnswer uid .miss := by
  obtain ⟨r, hr, hmiss⟩ := List.any_eq_true.1 h
  have hsearch : (s.camReqs.any fun r => ownSearch s r && r.uid == uid) = true := List.any_eq_true.2 ⟨r, hr, (Bool.and_eq_true_iff.1 hmiss).1⟩
  exact (if_pos h).trans (camDone_answers _ hsearch)

/-! ### RING_ATTEND and FENCE (R409, R415) -/

/-- A RING_ATTEND that passes its checks is entered with its one sequence, and its header goes to the other members. -/
theorem opRingAttend_enters {s : State} {uid q : Nat} {c d : Cmd} {sq : Seq} {w : AttWork} (hc : s.ready uid Oc.ringAttend = some c)
    (hcancel : c.cancel = none) (hwork : c.work = .ready) (hfields : attFieldFault s c = none) (hctx : ringCtxOk s c = true) (hmask : memMaskOk s c = true)
    (htag : ((ringWorks s (ctxNamed c)).any fun k => ringTag k == ringTag c) = false) (hroom : (ringWorks s (ctxNamed c)).length < 16)
    (hq : fieldOf c.words 4 21 0 = q) (hseq : s.ownSeq c.tenant q = some sq)
    (haccess : (s.attAccess (s.hostOf c.tenant) ((attRanges s c).1.map (fun x => (x.1, x.2, false)) ++ (attRanges s c).2.map fun x => (x.1, x.2, true))) = none)
    (hpages : (attSeq s c q 0 (seqExtent s sq) (ringQ0 c)).failed = none)
    (hd : (s.attBegin c [attSeq s c q 0 (seqExtent s sq) (ringQ0 c)]).cmd uid = some d) (hw : d.attWork = some w) :
    opRingAttend uid s =
      ((ringOthers ((s.attBegin c [attSeq s c q 0 (seqExtent s sq) (ringQ0 c)]).setCmd { d with work := .ring w false false }) d).foldl
        (fun s m => s.ringSend m (.hdr m (ownHdr s d w)))
        ((s.attBegin c [attSeq s c q 0 (seqExtent s sq) (ringQ0 c)]).setCmd { d with work := .ring w false false })).ringAdvance uid := by
  simp only [opRingAttend, hc, hcancel, hwork, hfields, hctx, hmask, htag, if_neg (Nat.not_le.2 hroom), hq, hseq, haccess, hpages, hd, hw, Bool.not_true,
    Bool.false_eq_true, if_false, Option.bind_some, Option.map_some]

/-- FENCE ends OK once every descriptor below its index is done. -/
theorem opFence_ends {s : State} {uid : Nat} {c : Cmd} (hc : s.ready uid Oc.fence = some c) (hcancel : c.cancel = none)
    (hopen : ctxState s (ctxNamed c) = ctxOpen) (hbulk : s.fld Fd.SNL_CTX_CTL_MODE (ctxNamed c) = 0)
    (htenant : s.fld Fd.SNL_CTX_CTL_TENANT (ctxNamed c) = c.tenant) (hmet : fenceMet s (ctxNamed c) (fieldOf c.words 1 63 32) = true) :
    opFence uid s = s.finish c Cc.ok 0 0 := by
  simp only [opFence, hc, hcancel, hopen, hbulk, htenant, hmet, ne_eq, not_true_eq_false, or_self, if_false, if_true]

/-- Settles O16: each row is its operation, which takes the branch that the conditions pick; the registers are read after the fields that it sets. -/
theorem ringLinkAndCascadeEventsComplete : Obligations.RingLinkAndCascadeEventsComplete := by
  refine ⟨?attend, ?fence, ?enable, ?disable, ?trained, ?down, ?cable, ?accepted, ?corrupt, ?control, ?forms, ?passes, ?search, ?hit, ?slot, ?miss⟩
  case attend =>
    intro s uid q c d sq w hc hcancel hwork hfields hctx hmask htag hroom hq hseq haccess hpages hd hw
    exact congrArg Host.Outcome.next (opRingAttend_enters hc hcancel hwork hfields hctx hmask htag hroom hq hseq (Option.isNone_iff_eq_none.1 haccess)
      hpages hd hw)
  case fence =>
    intro s uid c hc hcancel hopen hbulk htenant hmet
    exact completes_next (congrArg Host.Outcome.next (opFence_ends hc hcancel hopen hbulk htenant hmet)) (finish_ended c _ _ _ rfl)
  case enable =>
    intro s v h
    refine completes_next (congrArg Host.Outcome.next (opRingEnable_starts v h)) ?_
    obtain ⟨hen, hstate, hcause, hid, hpos, hnmem⟩ := ringStarts_reads s (setBits v 0 0 1)
    simp (disch := decide) only [State.flag, trainLink_fld, hen, hstate, hcause, hid, hpos, hnmem,
      bitsOf_setBits_above v 1 (Nat.le_refl 0) (show 0 < 64 by decide), beq_self_eq_true, and_self]
  case disable =>
    intro s v h
    obtain ⟨hen, hstate, hcasc⟩ := ringStops_reads s
    refine completes_next (congrArg Host.Outcome.next (opRingDisable_stops v h)) ⟨?_, hstate, hcasc, ringStops_links s⟩
    rw [State.flag, hen]
    rfl
  case trained =>
    exact fun s u l width id pos nmem h hwidth hu hok => congrArg Host.Outcome.next (opRingLinkTrained_passes h hwidth hu hok)
  case down =>
    intro s l hup hformed
    have hstate : (s.setReg .SNL_LINK l.val 0).fld Fd.SNL_RING_STATE = ringFormed :=
      (s.fld_setReg_reg .SNL_LINK Fd.SNL_RING_STATE 0 l.val 0 (by decide)).trans hformed
    exact completes_next (congrArg Host.Outcome.next (opRingLinkDown_goes hup)) ⟨linkLost_reads s l.val, ringBreak_formed hstate⟩
  case cable =>
    intro s l
    refine completes_next (congrArg Host.Outcome.next (opRingCablePresence_leaves s l.val)) ⟨?_, linkLost_reads ..⟩
    rw [ringBreak_rlink]
    exact congrArg RingLink.cable (rlink_setRlink s l { s.rlink l.val with cable := false })
  case accepted => exact fun s l frame hup hok htype hnext => congrArg Host.Outcome.next (opRingDataFrame_accepted hup hok htype hnext)
  case corrupt => exact fun s l frame hup hbad => congrArg Host.Outcome.next (opRingDataFrame_corrupt hup hbad)
  case control =>
    intro s u l frame credits hup hok htype hu
    subst hu
    exact congrArg Host.Outcome.next (opRingControlFrame_credits hup credits hok htype)
  case forms => exact fun s src last hown hnext hforming hlinks => congrArg Host.Outcome.next (opRingCheck_forms hown hnext hforming hlinks)
  case passes => exact fun s src last ok h => congrArg Host.Outcome.next (opRingCheck_passes ok h)
  case search => exact fun s src cpos uid word h => congrArg Host.Outcome.next (if_neg h)
  case hit => exact fun s link dst uid pos handle hdst h => congrArg Host.Outcome.next (opCamHit_answers link.val pos.val handle.val hdst h)
  case slot => exact fun s slot h r hr hown hmatch => congrArg Host.Outcome.next (opCascadeSlot_hits hr hown hmatch)
  case miss => exact fun s uid h => congrArg Host.Outcome.next (opCascadeMissTimeout_misses h)

end Sys2Proof.Machine

/-!
The form that every step keeps (R443, R446, R458, R475, R602, R736): what any command at all may change, from the frame of the operation that its row is.
-/
namespace Sys2Proof.Machine

/-- The state right after reset has the form: its memories and logs are empty. -/
theorem reset_invariant : Invariant State.reset where
  plain := by decide +kernel
  slotA := by decide +kernel
  slotB := by decide +kernel
  calib := by decide +kernel
  log := by decide +kernel
  records := by decide +kernel
  snapshots := by decide +kernel
  events := fun _ _ => Nat.zero_le _
  orphans := by decide +kernel

/-- Settles O31: every byte memory and every log is empty after reset. -/
theorem resetMeetsTheInvariant : Obligations.ResetMeetsTheInvariant := reset_invariant

/-- Every piece of the state but the queue of waiting commands and the fuses. -/
def commandMask : Nat := (2 ^ 297 - 1) ^^^ partMask [.pending, .fuses]

/-- Whatever next state is answered differs from s only within what a command may change, and keeps the form of s. -/
def AnswersWithin (s : State) (o : Host.Outcome State Fault Refusal) : Prop := ∀ t, o = .next t → Keeps commandMask s t

namespace AnswersWithin

/-- The answer of one operation. -/
theorem next {w : Nat} {s t : State} (k : Keeps w s t) (hw : w ||| commandMask = commandMask := by decide +kernel) : AnswersWithin s (.next t) :=
  fun _ h => Host.Outcome.next.inj h ▸ k.mono hw

/-- The answer of one operation at a stamped moment. -/
theorem nextAt {w now : Nat} {s t : State} (k : Keeps w (s.at_ now) t) (hw : w ||| commandMask = commandMask := by decide +kernel) :
    AnswersWithin s (.next t) :=
  next ((upd_dtime s _).mono (by decide +kernel) |>.step k hw) (Nat.or_self _)

/-- An answer that a condition turns into a refusal. -/
theorem guarded {c : Prop} [Decidable c] {s : State} {r : Refusal} {o : Host.Outcome State Fault Refusal} (h : AnswersWithin s o) :
    AnswersWithin s (if c then .refused r else o) := by
  split
  · exact fun _ h => nomatch h
  · exact h

end AnswersWithin

/-- Every command leaves the queue and the fuses, and keeps the form of the state: it is one operation, or two, whose frames say so. -/
theorem exec_answersWithin (i : Instr) (s : State) : AnswersWithin s (exec i s) := by
  cases i with
  | submissionCellWrite => exact .next (opSubmissionCellWrite_keeps ..)
  | doorbell => exact .next (opDoorbell_keeps ..)
  | spoolReset => exact .next (opSpoolReset_keeps ..)
  | commandDecode => exact .next (opCommandDecode_keeps ..)
  | commandCellsMissing => exact .next (opCommandCellsMissing_keeps ..)
  | announcedCellMissing => exact .next (opAnnouncedCellMissing_keeps ..)
  | completionEntryWrite => exact .next (opCompletionEntryWrite_keeps ..)
  | completionHeadRead => exact .next (opCompletionHeadRead_keeps ..)
  | probeBaseWrite => exact .next (opProbeBaseWrite_keeps ..)
  | presenceProbe => exact .next (opPresenceProbe_keeps ..)
  | nop => exact .next (opNop_keeps ..)
  | lookup => exact .next (opLookup_keeps ..)
  | extend => exact .next (opExtend_keeps ..)
  | append => exact .next (opAppend_keeps ..)
  | commit => exact .next (opCommit_keeps ..)
  | commitLink => exact .next (opCommitLink_keeps ..)
  | fork => exact .next (opFork_keeps ..)
  | release => exact .next (opRelease_keeps ..)
  | pin => exact .next (opPin_keeps ..)
  | unpin => exact .next (opUnpin_keeps ..)
  | deliver => exact .next (opDeliver_keeps ..)
  | deliverComplete => exact .next (opDeliverComplete_keeps ..)
  | deliveryHoldExpire => exact .next (opDeliveryHoldExpire_keeps ..)
  | attend => exact .next (opAttend_keeps ..)
  | attendBatch => exact .next (opAttendBatch_keeps ..)
  | verify => exact .next (opVerify_keeps ..)
  | attentionTake => exact .next (.step (.mono (opAttentionTake_keeps ..) (by decide +kernel)) (State.ringAdvance_keeps ..) (by decide +kernel)) (Nat.or_self _)
  | tileBoundary => exact .next (opTileBoundary_keeps ..)
  | attentionComplete =>
    refine .next (Keeps.mono (v := commandMask) ?_ (Nat.or_self _)) (Nat.or_self _)
    split
    · split
      · exact (State.ringComplete_keeps ..).mono (by decide +kernel)
      · exact (opAttentionComplete_keeps ..).mono (by decide +kernel)
    · exact .refl ..
  | ringAttend => exact .next (opRingAttend_keeps ..)
  | fill => exact .next (opFill_keeps ..)
  | copy => exact .next (opCopy_keeps ..)
  | compare => exact .next (opCompare_keeps ..)
  | reduce => exact .next (opReduce_keeps ..)
  | gather => exact .next (opGather_keeps ..)
  | tableLoad => exact .next (opTableLoad_keeps ..)
  | tableRetire => exact .next (opTableRetire_keeps ..)
  | fence => exact .next (opFence_keeps ..)
  | pageReencode => exact .next (opPageReencode_keeps ..)
  | configure => exact .next (opConfigure_keeps ..)
  | tenantActivate => exact .next (opTenantActivate_keeps ..)
  | disable => exact .next (opDisable_keeps ..)
  | enable => exact .next (opEnable_keeps ..)
  | shred => exact .next (opShred_keeps ..)
  | unconfigure => exact .next (opUnconfigure_keeps ..)
  | drainComplete => exact .next (opDrainComplete_keeps ..)
  | shredComplete => exact .next (opShredComplete_keeps ..)
  | groupCreate => exact .next (opGroupCreate_keeps ..)
  | groupDelete => exact .next (opGroupDelete_keeps ..)
  | hrtSync => exact .next (opHrtSync_keeps ..)
  | hrtSyncDone => exact .next (opHrtSyncDone_keeps ..)
  | cxlMemRequestAdmit => exact .nextAt (opCxlMemRequestAdmit_keeps ..)
  | heldRequestRelease => exact .nextAt (opHeldRequestRelease_keeps ..)
  | wheelSlot => exact .nextAt (opWheelSlot_keeps ..)
  | devloadWindowEnd => exact .nextAt (opDevloadWindowEnd_keeps ..)
  | plainReadShared => exact .next (opPlainReadShared_keeps ..)
  | plainReadExclusive => exact .next (opPlainReadExclusive_keeps ..)
  | plainReadCurrent => exact .next (opPlainReadCurrent_keeps ..)
  | plainWrite => exact .next (opPlainWrite_keeps ..)
  | plainWriteback => exact .next (opPlainWriteback_keeps ..)
  | bisnpResponse => exact .next (opBisnpResponse_keeps ..)
  | viewLoad => exact .next (opViewLoad_keeps ..)
  | viewStore => exact .next (opViewStore_keeps ..)
  | viewSlotStore => exact .next (opViewSlotStore_keeps ..)
  | viewWindowConfig => exact .next (opViewWindowConfig_keeps ..)
  | gatewayStore => exact .next (opGatewayStore_keeps ..)
  | gatewayDoorbell => exact .next (opGatewayDoorbell_keeps ..)
  | gatewayFlushDone => exact .next (opGatewayFlushDone_keeps ..)
  | gatewayBufferTimeout => exact .next (opGatewayBufferTimeout_keeps ..)
  | gatewayLoad => exact .next (opGatewayLoad_keeps ..)
  | gatewayConfig => exact .next (opGatewayConfig_keeps ..)
  | dcAddExtent => exact .next (opDcAddExtent_keeps ..)
  | plainExtentReady => exact .next (opPlainExtentReady_keeps ..)
  | plainExtentAddTimeout => exact .next (opPlainExtentAddTimeout_keeps ..)
  | dcReleaseExtent => exact .next (opDcReleaseExtent_keeps ..)
  | dcReleaseComplete => exact .next (opDcReleaseComplete_keeps ..)
  | cxlLinkTrain => exact .next (opCxlLinkTrain_keeps ..)
  | hostLost => exact .next (opHostLost_keeps ..)
  | orphanScanComplete => exact .next (opOrphanScanComplete_keeps ..)
  | orphanLogClear => exact .next (opOrphanLogClear_keeps ..)
  | orphanLogQuery => exact .next (opOrphanLogQuery_keeps ..)
  | unallocatedAccess => exact .next (opUnallocatedAccess_keeps ..)
  | registerWrite => exact .guarded (.next (opRegisterWrite_keeps ..))
  | registerReadClear => exact .guarded (.next (opRegisterReadClear_keeps ..))
  | lockSet => exact .next (opLockSet_keeps ..)
  | logClear => exact .next (opLogClear_keeps ..)
  | logReadIndex => exact .next (opLogReadIndex_keeps ..)
  | nodeQuery => exact .next (opNodeQuery_keeps ..)
  | pageQuery => exact .next (opPageQuery_keeps ..)
  | generationQuery => exact .next (opGenerationQuery_keeps ..)
  | histogramConfig => exact .next (opHistogramConfig_keeps ..)
  | counterDecay => exact .next (opCounterDecay_keeps ..)
  | demotePage => exact .next (opDemotePage_keeps ..)
  | stashPage => exact .next (opStashPage_keeps ..)
  | stashDurable => exact .next (opStashDurable_keeps ..)
  | stagingComplete => exact .next (opStagingComplete_keeps ..)
  | makeHollow => exact .next (opMakeHollow_keeps ..)
  | unlinkHollow => exact .next (opUnlinkHollow_keeps ..)
  | quotaWaitTimeout => exact .next (opQuotaWaitTimeout_keeps ..)
  | spaceWaitTimeout => exact .next (opSpaceWaitTimeout_keeps ..)
  | frameCompact => exact .next (opFrameCompact_keeps ..)
  | patternStage => exact .next (opPatternStage_keeps ..)
  | patternActivate => exact .next (opPatternActivate_keeps ..)
  | patternAbort => exact .next (opPatternAbort_keeps ..)
  | patternQuery => exact .next (opPatternQuery_keeps ..)
  | patternProgramDone => exact .next (opPatternProgramDone_keeps ..)
  | panelSwapStage => exact .next (opPanelSwapStage_keeps ..)
  | panelSwapActivate => exact .next (opPanelSwapActivate_keeps ..)
  | panelSwapAbort => exact .next (opPanelSwapAbort_keeps ..)
  | panelSwapQuery => exact .next (opPanelSwapQuery_keeps ..)
  | panelSwapProgramDone => exact .next (opPanelSwapProgramDone_keeps ..)
  | patternPersistDone => exact .next (opPatternPersistDone_keeps ..)
  | ringEnable => exact .next (opRingEnable_keeps ..)
  | ringLinkTrained => exact .next (opRingLinkTrained_keeps ..)
  | ringLinkDown => exact .next (opRingLinkDown_keeps ..)
  | ringCablePresence => exact .next (opRingCablePresence_keeps ..)
  | ringDataFrame => exact .next (opRingDataFrame_keeps ..)
  | ringControlFrame => exact .next (opRingControlFrame_keeps ..)
  | ringCheck => exact .next (opRingCheck_keeps ..)
  | getReq => exact .next (opGetReq_keeps ..)
  | getData => exact .next (opGetData_keeps ..)
  | ringPut => exact .next (opRingPut_keeps ..)
  | reducePut => exact .next (opReducePut_keeps ..)
  | ringAck => exact .next (opRingAck_keeps ..)
  | rattHdr => exact .next (opRattHdr_keeps ..)
  | rattBlock => exact .next (opRattBlock_keeps ..)
  | camSearch => exact .next (opCamSearch_keeps ..)
  | camHit => exact .next (opCamHit_keeps ..)
  | cascadeSlot => exact .next (opCascadeSlot_keeps ..)
  | cascadeMissTimeout => exact .next (opCascadeMissTimeout_keeps ..)
  | ringCtxOpen => exact .next (opRingCtxOpen_keeps ..)
  | ringCtxAbort => exact .next (opRingCtxAbort_keeps ..)
  | ringCtxClose => exact .next (opRingCtxClose_keeps ..)
  | ringAbortComplete => exact .next (opRingAbortComplete_keeps ..)
  | descriptorTailWrite => exact .next (opDescriptorTailWrite_keeps ..)
  | descriptorTake => exact .next (opDescriptorTake_keeps ..)
  | descriptorDone => exact .next (opDescriptorDone_keeps ..)
  | shuttlePortLink => exact .next (opShuttlePortLink_keeps ..)
  | arpRequest => exact .next (opArpRequest_keeps ..)
  | neighbourSolicitation => exact .next (opNeighbourSolicitation_keeps ..)
  | icmpEchoRequest => exact .next (opIcmpEchoRequest_keeps ..)
  | pfcFrame => exact .next (opPfcFrame_keeps ..)
  | ptpEventMessage => exact .nextAt (opPtpEventMessage_keeps ..)
  | qpRead => exact .next (opQpRead_keeps ..)
  | qpWrite => exact .next (opQpWrite_keeps ..)
  | qpActivate => exact .next (opQpActivate_keeps ..)
  | qpError => exact .next (opQpError_keeps ..)
  | qpReset => exact .next (opQpReset_keeps ..)
  | qpControlWrite => exact .next (opQpControlWrite_keeps ..)
  | wrSend => exact .next (opWrSend_keeps ..)
  | wrPut => exact .next (opWrPut_keeps ..)
  | wrCompareSwap => exact .next (opWrCompareSwap_keeps ..)
  | wrFetchAdd => exact .next (opWrFetchAdd_keeps ..)
  | wrReduce => exact .next (opWrReduce_keeps ..)
  | wrFlush => exact .next (opWrFlush_keeps ..)
  | wrNop => exact .next (opWrNop_keeps ..)
  | wrWaitSatisfied => exact .next (opWrWaitSatisfied_keeps ..)
  | shuttleSend => exact .next (opShuttleSend_keeps ..)
  | shuttlePut => exact .next (opShuttlePut_keeps ..)
  | nmoReq => exact .next (opNmoReq_keeps ..)
  | nmoResp => exact .next (opNmoResp_keeps ..)
  | flushReq => exact .next (opFlushReq_keeps ..)
  | flushResp => exact .next (opFlushResp_keeps ..)
  | shuttleAck => exact .next (opShuttleAck_keeps ..)
  | shuttleNak => exact .next (opShuttleNak_keeps ..)
  | ackTimer => exact .next (opAckTimer_keeps ..)
  | retxTimeout => exact .next (opRetxTimeout_keeps ..)
  | rnrRetryTimer => exact .next (opRnrRetryTimer_keeps ..)
  | faultRetryTimer => exact .next (opFaultRetryTimer_keeps ..)
  | placementFaultTimeout => exact .next (opPlacementFaultTimeout_keeps ..)
  | pageRequestResponse => exact .next (opPageRequestResponse_keeps ..)
  | atsInvalidation => exact .next (opAtsInvalidation_keeps ..)
  | receiveComplete => exact .next (opReceiveComplete_keeps ..)
  | cqEntryWrite => exact .next (opCqEntryWrite_keeps ..)
  | flashOpComplete => exact .next (opFlashOpComplete_keeps ..)
  | journalFlush => exact .next (opJournalFlush_keeps ..)
  | mapCheckpoint => exact .next (opMapCheckpoint_keeps ..)
  | slcTargetRecompute => exact .next (opSlcTargetRecompute_keeps ..)
  | gcStepRecompute => exact .next (opGcStepRecompute_keeps ..)
  | gcStart => exact .next (opGcStart_keeps ..)
  | imageMove => exact .next (opImageMove_keeps ..)
  | unitErase => exact .next (opUnitErase_keeps ..)
  | fold => exact .next (opFold_keeps ..)
  | unitRetire => exact .next (opUnitRetire_keeps ..)
  | targetFailed => exact .next (opTargetFailed_keeps ..)
  | flashTempPoll => exact .next (opFlashTempPoll_keeps ..)
  | flashRetrain => exact .next (opFlashRetrain_keeps ..)
  | powerFailFlush => exact .nextAt (opPowerFailFlush_keeps ..)
  | scrubRow => exact .nextAt (opScrubRow_keeps ..)
  | stackLost => exact .next (opStackLost_keeps ..)
  | rebuildCopyStart => exact .next (opRebuildCopyStart_keeps ..)
  | rebuildComplete => exact .next (opRebuildComplete_keeps ..)
  | selftest => exact .next (opSelftest_keeps ..)
  | selftestDone => exact .next (opSelftestDone_keeps ..)
  | retireStack => exact .next (opRetireStack_keeps ..)
  | retireCore => exact .next (opRetireCore_keeps ..)
  | coreRetire => exact .next (opCoreRetire_keeps ..)
  | knownAnswerTest => exact .next (opKnownAnswerTest_keeps ..)
  | stewardHeartbeat => exact .nextAt (opStewardHeartbeat_keeps ..)
  | stewardRecovered => exact .next (opStewardRecovered_keeps ..)
  | capsuleSnapshot => exact .nextAt (opCapsuleSnapshot_keeps ..)
  | capsuleReadSummary => exact .next (opCapsuleReadSummary_keeps ..)
  | capsuleReadPiece => exact .next (opCapsuleReadPiece_keeps ..)
  | spdmRequest => exact .next (opSpdmRequest_keeps ..)
  | ideKmKeyProg => exact .next (opIdeKmKeyProg_keeps ..)
  | tdispRequest => exact .next (opTdispRequest_keeps ..)
  | tenantKey => exact .next (opTenantKey_keeps ..)
  | tenantSeal => exact .next (opTenantSeal_keeps ..)
  | qpKey => exact .next (opQpKey_keeps ..)
  | groupHkey => exact .next (opGroupHkey_keeps ..)
  | sealQuery => exact .next (opSealQuery_keeps ..)
  | pqSign => exact .next (opPqSign_keeps ..)
  | tenantKeyGenerate => exact .next (opTenantKeyGenerate_keeps ..)
  | lifecycleChallenge => exact .next (opLifecycleChallenge_keeps ..)
  | lifecycleAdvance => exact .next (opLifecycleAdvance_keeps ..)
  | cryptoEraseComplete => exact .next (opCryptoEraseComplete_keeps ..)
  | fwStageErase => exact .next (opFwStageErase_keeps ..)
  | fwStageWrite => exact .next (opFwStageWrite_keeps ..)
  | fwStageVerify => exact .next (opFwStageVerify_keeps ..)
  | fwSelect => exact .next (opFwSelect_keeps ..)
  | fwCommitSvn => exact .next (opFwCommitSvn_keeps ..)
  | fwQuery => exact .next (opFwQuery_keeps ..)
  | pldmFirmwareUpdate => exact .next (opPldmFirmwareUpdate_keeps ..)
  | calRead => exact .next (opCalRead_keeps ..)
  | calWrite => exact .next (opCalWrite_keeps ..)
  | healthGet => exact .next (opHealthGet_keeps ..)
  | getHealthInfo => exact .next (opGetHealthInfo_keeps ..)
  | getPoisonList => exact .next (opGetPoisonList_keeps ..)
  | clearPoison => exact .next (opClearPoison_keeps ..)
  | getEventRecords => exact .next (opGetEventRecords_keeps ..)
  | clearEventRecords => exact .next (opClearEventRecords_keeps ..)
  | identifyMemoryDevice => exact .next (opIdentifyMemoryDevice_keeps ..)
  | getLog => exact .next (opGetLog_keeps ..)
  | getTimestamp => exact .next (opGetTimestamp_keeps ..)
  | setTimestamp => exact .next (opSetTimestamp_keeps ..)
  | unsupportedMailboxCommand => exact .next (opUnsupportedMailboxCommand_keeps ..)
  | tenantReset => exact .next (opTenantReset_keeps ..)
  | islandReset => exact .nextAt (opIslandReset_keeps ..)
  | dtimeSet => exact .next (opDtimeSet_keeps ..)
  | ringTimeExchange => exact .nextAt (opRingTimeExchange_keeps ..)
  | ppsPulse => exact .nextAt (opPpsPulse_keeps ..)
  | powerSample => exact .nextAt (opPowerSample_keeps ..)
  | clockAdjust => exact .nextAt (opClockAdjust_keeps ..)
  | thermalStep => exact .nextAt (opThermalStep_keeps ..)
  | thermalTrip => exact .next (opThermalTrip_keeps ..)
  | quietEntry => exact .nextAt (opQuietEntry_keeps ..)
  | standbyEntry => exact .nextAt (opStandbyEntry_keeps ..)
  | standbyExit => exact .nextAt (opStandbyExit_keeps ..)
  | perstAssert => exact .nextAt (opPerstAssert_keeps ..)
  | powerOn => exact .next (opPowerOn_keeps ..)
  | startup => exact .nextAt (opStartup_keeps ..)
  | mediaReady => exact .nextAt (opMediaReady_keeps ..)
  | startupRebuildDone => exact .next (opStartupRebuildDone_keeps ..)
  | watchdogExpiry => exact .nextAt (opWatchdogExpiry_keeps ..)
  | functionReset => exact .next (opFunctionReset_keeps ..)
  | flr => exact .next (opFlr_keeps ..)
  | pwrFailNDeassert => exact .nextAt (opPwrFailNDeassert_keeps ..)
  | railLeavesRegulation => exact .next (opRailLeavesRegulation_keeps ..)
  | suppliesRemoved => exact .next (opSuppliesRemoved_keeps ..)
  | systemReferenceLost => exact .next (opSystemReferenceLost_keeps ..)
  | ringDisable => exact .next (opRingDisable_keeps ..)
  | fmLdBind => exact .next (opFmLdBind_keeps ..)
  | nearMemoryComplete => exact .next (opNearMemoryComplete_keeps ..)
  | otherReceivedFrame => exact .next (opOtherReceivedFrame_keeps ..)
  | platformEventRead => exact .next (opPlatformEventRead_keeps ..)
  | jtagInstruction =>
    show AnswersWithin s (execJtagInstruction ..)
    unfold execJtagInstruction
    split
    · exact .guarded (.next (opJtagInstruction_keeps ..))
    · exact .next (opJtagInstruction_keeps ..)
  | rebuildWaitingForSpace => exact .nextAt (opRebuildWaitingForSpace_keeps ..)
  | setEventInterruptPolicy => exact .next (opSetEventInterruptPolicy_keeps ..)

/-- Settles O32: an idle step is a tick of the clock, and any other runs a command on the rest of the queue. -/
theorem everyStepKeepsTheInvariant : Obligations.EveryStepKeepsTheInvariant := by
  intro s t hs ht
  unfold step at ht
  split at ht
  case h_1 => exact Host.Outcome.next.inj ht ▸ (State.tick_keeps s).inv hs
  case h_2 c rest _ => exact (exec_answersWithin c _ t ht).inv ((upd_pending s rest).inv hs)

end Sys2Proof.Machine


/-!
What CXL.mem requests, windows, extents and link events may change, from the frame of the operation that each command's row is.
-/
namespace Sys2Proof.Machine

/-- Settles O38: every row is its operation, whose frame lies within the list stated. -/
theorem cxlFrames : Obligations.CxlFrames := by
  refine ⟨?readShared, ?readExclusive, ?readCurrent, ?write, ?writeback, ?snoopAnswer, ?viewLoad, ?viewStore, ?slotStore, ?windowConfig, ?gwStore,
    ?gwBell, ?gwFlush, ?gwTimeout, ?gwLoad, ?gwConfig, ?add, ?ready, ?addTimeout, ?release, ?released, ?train, ?lost, ?scan, ?clear, ?query, ?stray, ?bind⟩
  case readShared => exact fun s host a => mayChange_of_keeps (opPlainReadShared_keeps host.val a s) rfl
  case readExclusive => exact fun s host a => mayChange_of_keeps (opPlainReadExclusive_keeps host.val a s) rfl
  case readCurrent => exact fun s host a => mayChange_of_keeps (opPlainReadCurrent_keeps host.val a s) rfl
  case write => exact fun s host a bytes => mayChange_of_keeps (opPlainWrite_keeps host.val a bytes s) rfl
  case writeback => exact fun s host a bytes => mayChange_of_keeps (opPlainWriteback_keeps host.val a bytes s) rfl
  case snoopAnswer => exact fun s host line data => mayChange_of_keeps (opBisnpResponse_keeps host.val line data s) rfl
  case viewLoad => exact fun s host a n => mayChange_of_keeps (opViewLoad_keeps host.val a n s) rfl
  case viewStore => exact fun s host a bytes picks => mayChange_of_keeps (opViewStore_keeps host.val a bytes picks s) rfl
  case slotStore => exact fun s host a v => mayChange_of_keeps (opViewSlotStore_keeps host.val a v s) rfl
  case windowConfig => exact fun s t v => mayChange_of_keeps (opViewWindowConfig_keeps t.val v s) rfl
  case gwStore => exact fun s host a bytes => mayChange_of_keeps (opGatewayStore_keeps host.val a bytes s) rfl
  case gwBell => exact fun s host a v => mayChange_of_keeps (opGatewayDoorbell_keeps host.val a v s) rfl
  case gwFlush => exact fun s g => mayChange_of_keeps (opGatewayFlushDone_keeps g.val s) rfl
  case gwTimeout => exact fun s g page now => mayChange_of_keeps (opGatewayBufferTimeout_keeps g.val page now s) rfl
  case gwLoad => exact fun s host a n => mayChange_of_keeps (opGatewayLoad_keeps host.val a n s) rfl
  case gwConfig => exact fun s g r v => mayChange_of_keeps (opGatewayConfig_keeps g.val r.val v s) rfl
  case add => exact fun s region idx tag hosts => mayChange_of_keeps (opDcAddExtent_keeps region.val idx tag.toNat hosts s) rfl
  case ready => exact fun s idx => mayChange_of_keeps (opPlainExtentReady_keeps idx s) rfl
  case addTimeout => exact fun s idx now => mayChange_of_keeps (opPlainExtentAddTimeout_keeps idx now s) rfl
  case release => exact fun s region idx host => mayChange_of_keeps (opDcReleaseExtent_keeps region.val idx host.val s) rfl
  case released => exact fun s region idx => mayChange_of_keeps (opDcReleaseComplete_keeps region.val idx s) rfl
  case train => exact fun s l rate width ok ds => mayChange_of_keeps (opCxlLinkTrain_keeps l.val rate.val width.val ok ds s) rfl
  case lost => exact fun s host byLink => mayChange_of_keeps (opHostLost_keeps host.val byLink s) rfl
  case scan => exact fun s => mayChange_of_keeps (opOrphanScanComplete_keeps s) rfl
  case clear => exact fun s => mayChange_of_keeps (opOrphanLogClear_keeps s) rfl
  case query => exact fun s v => mayChange_of_keeps (opOrphanLogQuery_keeps v s) rfl
  case stray => exact fun s bar2 wr host off n => mayChange_of_keeps (opUnallocatedAccess_keeps bar2 wr host.val off.val n s) rfl
  case bind => exact fun s host => mayChange_of_keeps (opFmLdBind_keeps host.val s) rfl

end Sys2Proof.Machine

/-!
Requests at plain-region lines where nothing waits and nobody has to be asked, write-backs and snoop answers (R443, R453 to R457).
-/
namespace Sys2Proof.Machine

/-! ### Reads that are served (R453, R457) -/

/-- A read of an orphaned line is counted. -/
def State.orphanCounted (s : State) (l : Nat) : State := if (mapFind s.orphanLines l).isSome then s.addFld Fd.CXL_CNT_ORPHREADS 1 else s

/-- Counting changes the counter's register. -/
theorem orphanCounted_keeps (s : State) (l : Nat) : Keeps (partMask [.reg .CXL_CNT]) s (s.orphanCounted l) :=
  .ite (fun _ => (State.addFld_keeps ..).mono (by decide +kernel)) fun _ => .refl ..

/-- The answer to a caching read: the line is granted to the host, with its bytes. -/
def State.grantLine (s : State) (l h : Nat) (excl : Bool) (bytes : List Byte) (bad : Bool) (cls : Option Nat) : State :=
  (((s.orphanCounted l).grant l h excl).emit (.granted h l excl bytes bad)).respond h cls

/-- A shared read grants the line shared. -/
theorem serve_readShared (s : State) {r : LineReq} {h : Nat} (hop : r.op = .readShared) (hhost : r.host = some h) :
    s.serve r = s.grantLine r.line h false (s.plainBytes (64 * r.line) 64) (linePoison s r.line || partFailed s) r.cls := by
  simp only [State.serve, hop, hhost, State.grantLine, State.orphanCounted]

/-- An exclusive read grants the line exclusively. -/
theorem serve_readExcl (s : State) {r : LineReq} {h : Nat} (hop : r.op = .readExcl) (hhost : r.host = some h) :
    s.serve r = s.grantLine r.line h true (s.plainBytes (64 * r.line) 64) (linePoison s r.line || partFailed s) r.cls := by
  simp only [State.serve, hop, hhost, State.grantLine, State.orphanCounted]

/-- A read that does not cache answers the bytes. -/
theorem serve_readCur (s : State) {r : LineReq} {h : Nat} (hop : r.op = .readCur) (hhost : r.host = some h) :
    s.serve r = (s.orphanCounted r.line).respondData h (s.plainBytes (64 * r.line) 64) (linePoison s r.line || partFailed s) r.cls := by
  simp only [State.serve, hop, hhost, State.orphanCounted]

/-- A host's write, the part not FAILED, changes the line. -/
theorem serve_write {s : State} {r : LineReq} {h : Nat} {bs : List (Option Byte)} (hop : r.op = .write bs) (hhost : r.host = some h)
    (hrun : partFailed s = false) : s.serve r = (s.putLine r.line bs).respond h r.cls := by
  simp only [State.serve, hop, hhost, hrun, Bool.false_eq_true, if_false]

/-- What counting a read leaves of what its answer shows. -/
theorem orphanCounted_same (s : State) (l : Nat) :
    (s.orphanCounted l).out = s.out ∧ (s.orphanCounted l).snoopFilter = s.snoopFilter ∧ (s.orphanCounted l).plainMem = s.plainMem ∧
      ∀ h cls, devLoad (s.orphanCounted l) h cls = devLoad s h cls :=
  have hk := orphanCounted_keeps s l
  ⟨hk.same .out (by decide +kernel), hk.same .snoopFilter (by decide +kernel), hk.same .plainMem (by decide +kernel),
    fun h cls => devLoad_of h cls (hk.same .devLevels (by decide +kernel)) (hk.same .buckets (by decide +kernel))⟩

/-- A granted line: the answer goes out, the host holds the line, and memory stands. -/
theorem grantLine_effect (s : State) (l h : Nat) (excl : Bool) (bytes : List Byte) (bad : Bool) (cls : Option Nat) :
    (s.grantLine l h excl bytes bad cls).out = s.out ++ [.granted h l excl bytes bad, .devLoad h (devLoad s h cls)] ∧
      h ∈ (s.grantLine l h excl bytes bad cls).holdersOf l ∧ (s.grantLine l h excl bytes bad cls).plainMem = s.plainMem := by
  obtain ⟨hout, -, hmem, hload⟩ := orphanCounted_same s l
  refine ⟨?_, grant_holds (s.orphanCounted l) l h excl, ?_⟩
  · rw [State.grantLine, respond_out, State.emit_out, State.grant_out, hout, List.append_assoc]
    exact congrArg (fun d => s.out ++ [.granted h l excl bytes bad, .devLoad h d]) ((grant_devLoad ..).trans (hload h cls))
  · exact ((State.grant_keeps (s.orphanCounted l) l h excl).same .plainMem (by decide)).trans hmem

/-- A granted line of a part that has just been woken, in terms of the part before. -/
theorem wake_grantLine_effect (s : State) (l h : Nat) (excl : Bool) (cls : Option Nat) :
    let t := s.wake.grantLine l h excl (s.wake.plainBytes (64 * l) 64) (linePoison s.wake l || partFailed s.wake) cls
    t.out = s.out ++ [.granted h l excl (s.plainBytes (64 * l) 64) (linePoison s.wake l || partFailed s), .devLoad h (devLoad s h cls)] ∧
      h ∈ t.holdersOf l ∧ t.plainMem = s.plainMem := by
  intro t
  obtain ⟨hout, hholds, hmem⟩ := grantLine_effect s.wake l h excl (s.wake.plainBytes (64 * l) 64) (linePoison s.wake l || partFailed s.wake) cls
  refine ⟨hout.trans ?_, hholds, hmem.trans (wake_plainMem s)⟩
  rw [bytes_of_mem (wake_plainMem s), wake_failed, wake_out, wake_devLoad]

/-- The answer to a read that does not cache, of a part that has just been woken: bytes and DevLoad go out, and nobody holds or loses the line. -/
theorem wake_readCur_effect (s : State) (l h : Nat) (cls : Option Nat) :
    let t := (s.wake.orphanCounted l).respondData h (s.wake.plainBytes (64 * l) 64) (linePoison s.wake l || partFailed s.wake) cls
    t.out = s.out ++ [.readData h (s.plainBytes (64 * l) 64) (linePoison s.wake l || partFailed s), .devLoad h (devLoad s h cls)] ∧
      t.snoopFilter = s.snoopFilter ∧ t.plainMem = s.plainMem := by
  intro t
  obtain ⟨hout, hfilter, hmem, hload⟩ := orphanCounted_same s.wake l
  have hk := State.respondData_keeps (s.wake.orphanCounted l) h (s.wake.plainBytes (64 * l) 64) (linePoison s.wake l || partFailed s.wake) cls
  refine ⟨?_, ((hk.same .snoopFilter (by decide)).trans hfilter).trans (wake_filter s), ((hk.same .plainMem (by decide)).trans hmem).trans (wake_plainMem s)⟩
  rw [respondData_out, hout, hload, wake_out, wake_devLoad, bytes_of_mem (wake_plainMem s), wake_failed]

/-! ### Writes and write-backs -/

/-- The image of a write holds the whole line. -/
theorem lineImage_length (a : Nat) (bs : List (Option Byte)) : (lineImage a bs).length = 64 := by
  simp only [lineImage, List.length_append, List.length_replicate, List.length_take]
  omega

/-- What a line reads after a write of a whole line with enables: each enabled byte, and the rest as before. -/
theorem putLine_line_get (s : State) (l x : Nat) {bs : List (Option Byte)} (hlen : bs.length = 64) :
    (s.putLine l bs).plainMem.get x =
      if 64 * l ≤ x ∧ x < 64 * l + 64 then (bs.getD (x - 64 * l) none).getD (s.plainMem.get x) else s.plainMem.get x := by
  rw [putLine_get s l x bs (Nat.le_of_eq hlen), Memory.get_writeMasked, hlen]

/-- A write of all 64 bytes of a line is read back, and no other byte changes. -/
theorem putLine_bytes (s : State) (l : Nat) {bs : List Byte} (hlen : bs.length = 64) :
    (s.putLine l (bs.map some)).plainBytes (64 * l) 64 = bs ∧
      ∀ x, ¬(64 * l ≤ x ∧ x < 64 * l + 64) → (s.putLine l (bs.map some)).plainMem.get x = s.plainMem.get x := by
  have hget := fun x => putLine_line_get s l x (bs := bs.map some) (by rw [List.length_map, hlen])
  refine ⟨List.ext_getElem (by simp [State.plainBytes, Memory.read, hlen]) fun i _ hi => ?_, fun x hx => by rw [hget, if_neg hx]⟩
  simp only [State.plainBytes, Memory.read, List.getElem_map, List.getElem_range]
  rw [hget, if_pos (by omega), Nat.add_sub_cancel_left, List.getD_eq_getElem?_getD, List.getElem?_map, List.getElem?_eq_getElem hi]
  rfl

/-- Of a line that a host gives up, no entry of the filter names that host. -/
theorem dropHolder_not_holder (s : State) (l h : Nat) : ∀ e ∈ (s.dropHolder l h).snoopFilter, e.line = l → h ∉ holders e := by
  intro e he hline
  obtain ⟨e', -, hmap⟩ := List.mem_filterMap.1 he
  by_cases hl : e'.line = l
  · rw [if_pos hl] at hmap
    rw [← Option.some.inj (Option.ite_none_left_eq_some.1 hmap).2]
    have hexcl : (if e'.excl = some h then none else e'.excl) ≠ some h := by split <;> simp_all
    simp [holders, hexcl]
  · rw [if_neg hl] at hmap
    exact absurd (Option.some.inj hmap ▸ hline) hl

/-- An allowed write-back by the exclusive holder puts the line and gives it up. -/
theorem opPlainWriteback_puts {s : State} {h a : Nat} {bs : List Byte} (hexcl : ((s.sfLine (a / 64)).bind fun e => e.excl) = some h)
    (hgate : gate s h a true = .ok) (hlen : bs.length = 64) :
    opPlainWriteback h a bs s = ((s.wake.putLine (a / 64) (bs.map some)).dropHolder (a / 64) h).respond h (plainClass s h a true) := by
  simp only [opPlainWriteback, hexcl, hgate, BEq.rfl, Bool.not_true, Bool.false_eq_true, if_false, List.take_of_length_le (Nat.le_of_eq hlen)]

/-- A host's answer to the first of its snoops at a line. -/
theorem opBisnpResponse_answers {s : State} {h line : Nat} {x : Snoop} (data : Option (List Byte))
    (hx : s.snoops.find? (fun x => x.host == h && x.line == line) = some x) : opBisnpResponse h line data s = (s.answerSnoop x data).pumpWaits := by
  simp only [opBisnpResponse, hx]

/-- Settles O11: each request is served at once at a line where nothing waits and nobody is asked, and what a served request leaves is read off its answer. -/
theorem plainRegionRequestsComplete : Obligations.PlainRegionRequestsComplete := by
  refine ⟨?shared, ?exclusive, ?current, ?write, ?writeback, ?answer⟩
  case shared =>
    intro s host addr e o r hgate hplace hr hqueue hsnoops hevict
    subst hr
    have hserved := plainRequest_served s host.val addr .readShared false rfl e o hgate hplace hqueue hsnoops hevict
    exact completes_next (congrArg Host.Outcome.next (hserved.trans (serve_readShared _ rfl rfl))) (wake_grantLine_effect ..)
  case exclusive =>
    intro s host addr e o r hgate hplace hr hqueue hsnoops hevict
    subst hr
    have hserved := plainRequest_served s host.val addr .readExcl false rfl e o hgate hplace hqueue hsnoops hevict
    exact completes_next (congrArg Host.Outcome.next (hserved.trans (serve_readExcl _ rfl rfl))) (wake_grantLine_effect ..)
  case current =>
    intro s host addr e o r hgate hplace hr hqueue hsnoops hevict
    subst hr
    have hserved := plainRequest_served s host.val addr .readCur false rfl e o hgate hplace hqueue hsnoops hevict
    exact completes_next (congrArg Host.Outcome.next (hserved.trans (serve_readCur _ rfl rfl))) (wake_readCur_effect ..)
  case write =>
    intro s host addr e o bytes r hgate hplace hr hqueue hsnoops hevict hrun
    subst hr
    have hserved := plainRequest_served s host.val addr (.write (lineImage addr bytes)) true rfl e o hgate hplace hqueue hsnoops hevict
    refine completes_next (congrArg Host.Outcome.next (hserved.trans (serve_write rfl rfl (by rw [wake_failed, hrun])))) fun x => ?_
    rw [(State.respond_keeps ..).same .plainMem (by decide), putLine_line_get _ _ _ (lineImage_length ..), wake_plainMem]
  case writeback =>
    intro s host addr bytes hexcl hgate hlen
    have hmem : ∀ v : State, ((v.dropHolder (addr / 64) host.val).respond host.val (plainClass s host.val addr true)).plainMem = v.plainMem := fun _ => rfl
    obtain ⟨hread, hrest⟩ := putLine_bytes s.wake (addr / 64) hlen
    refine completes_next (congrArg Host.Outcome.next (opPlainWriteback_puts hexcl hgate hlen)) ⟨?_, fun x hx => ?_, dropHolder_not_holder _ _ _⟩
    · exact (bytes_of_mem (hmem _) _ _).trans hread
    · rw [hmem, hrest x hx, wake_plainMem]
  case answer => exact fun s host line data x hx => congrArg Host.Outcome.next (opBisnpResponse_answers data hx)

end Sys2Proof.Machine

/-!
Near-memory commands whose fields, ranges and lines are in order, and their end (R460 to R465). The order of their checks is the model's (log entry 68).
-/
namespace Sys2Proof.Machine

/-- The command is marked as checked, its lines being coherent. -/
def State.nearBegun (s : State) (c : Cmd) : State := s.setCmd { c with work := .near none false }

/-- A command that is marked as checked leaves plain memory and its poison. -/
theorem nearBegun_reads (s : State) (c : Cmd) (a n : Nat) :
    (s.nearBegun c).plainBytes a n = s.plainBytes a n ∧ rangePoison (s.nearBegun c) a n = rangePoison s a n := ⟨rfl, rfl⟩

/-- A command whose lines are coherent goes on, marked as checked. -/
theorem nearCoherent_begun {s : State} {c : Cmd} {rs : List NearRange} (h : (s.nearCoherent c rs).2 = true) :
    s.nearCoherent c rs = (s.nearBegun c, true) := nearCoherent_true h

/-! ### What a command that has had its effect leaves -/

/-- From s to t a near-memory command has written bs at a, and nowhere else, and holds its result. -/
def NearWrote (s t : State) (c : Cmd) (a : Nat) (bs : List Byte) (code : Nat) (r0 r1 : Word) : Prop :=
  t.plainBytes a bs.length = bs ∧ (∀ x, ¬(a ≤ x ∧ x < a + bs.length) → t.plainMem.get x = s.plainMem.get x) ∧
    t.cmd c.uid = some { c with work := .near (some (code, r0, r1)) false }

/-- The result of a command whose effect leaves the commands in flight as they were. -/
theorem nearDone_holds {s v : State} {c : Cmd} (code : Nat) (r0 r1 : Word) (hc : s.cmd c.uid = some c) (hv : v.inflight = (s.nearBegun c).inflight) :
    (v.nearDone c code r0 r1 false).cmd c.uid = some { c with work := .near (some (code, r0, r1)) false } :=
  nearDone_cmd (d := { c with work := .near none false }) hc rfl hv

/-- A write with poisoned lines marked, and the result. -/
theorem nearDone_wrote {s : State} {c : Cmd} (a : Nat) (bs : List Byte) (bad : List Nat) (code : Nat) (r0 r1 : Word) (hc : s.cmd c.uid = some c) :
    NearWrote s (((s.nearBegun c).putMarked a bs bad).nearDone c code r0 r1 false) c a bs code r0 r1 := by
  refine ⟨(bytes_of_mem (nearDone_plain ..) _ _).trans (putMarked_read ..), fun x hx => ?_, nearDone_holds code r0 r1 hc (putMarked_inflight ..)⟩
  rw [nearDone_plain, putMarked_get, if_neg hx]
  rfl

/-! ### FILL, COPY and GATHER (R460, R461, R464) -/

/-- FILL writes its pattern over the range. -/
theorem opFill_fills {s : State} {uid a n : Nat} {c : Cmd} (hc : s.ready uid Oc.fill = some c) (hwork : c.work = .ready)
    (ha : a = (wordAt c.words 1).toNat) (hn : n = fieldOf c.words 2 39 0) (ha64 : a % 64 = 0) (hn64 : n % 64 = 0) (hpos : 0 < n)
    (hfault : s.nearFault c.tenant [{ addr := a, len := n, wr := true, view := false }] = none)
    (hlines : (s.nearCoherent c [{ addr := a, len := n, wr := true, view := false }]).2 = true) :
    opFill uid s = ((s.nearBegun c).putMarked a ((List.range (n / 8)).flatMap fun _ => leBytes 8 (wordAt c.words 3).toNat) []).nearDone
      c Cc.ok (BitVec.ofNat 64 n) 0 false := by
  have hgate := nearGate_ready (b := a % 64 == 0 && n % 64 == 0 && decide (0 < n)) (d := some (2, a, n)) hwork (by simp [ha64, hn64, hpos]) hfault
  simp only [opFill, hc, ← ha, ← hn, hgate, nearCoherent_begun hlines]
  rfl

/-- COPY to a plain destination is a copy of its one source. -/
theorem opCopy_copies {s : State} {uid a d n : Nat} {c : Cmd} (hc : s.ready uid Oc.copy = some c) (hwork : c.work = .ready)
    (ha : a = (wordAt c.words 1).toNat) (hd : d = (wordAt c.words 2).toNat) (hn : n = fieldOf c.words 3 39 0) (hkind : fieldOf c.words 3 41 40 = 2)
    (ha64 : a % 64 = 0) (hd64 : d % 64 = 0) (hn64 : n % 64 = 0)
    (hfault : s.nearFault c.tenant [{ addr := a, len := n, wr := false, view := true }, { addr := d, len := n, wr := true, view := false }] = none)
    (hlines : (s.nearCoherent c [{ addr := a, len := n, wr := false, view := true }, { addr := d, len := n, wr := true, view := false }]).2 = true) :
    opCopy uid s = (s.nearBegun c).nearCopy c [(a, n)] 2 d := by
  have hgate := nearGate_ready (b := (2 == 1 || 2 == 2) && a % 64 == 0 && d % 64 == 0 && n % 64 == 0) (d := some (2, d, n)) hwork
    (by simp [ha64, hd64, hn64]) hfault
  simp only [opCopy, hc, ← ha, ← hd, ← hn, hkind, if_true, hgate, nearCoherent_begun hlines]

/-- The fields of a GATHER with an inline list to a plain destination are valid. -/
theorem gatherFields_inline {c : Cmd} {d n : Nat} (hd : d = (wordAt c.words 1).toNat) (hn : n = fieldOf c.words 2 9 0) (hkind : fieldOf c.words 2 11 10 = 2)
    (hinline : fieldOf c.words 2 12 12 = 0) (hd64 : d % 64 = 0) (h1 : 1 ≤ n) (h60 : n ≤ 60) (hcells : c.ncell = ceilDiv n 4) :
    gatherFields c = true := by
  simp [gatherFields, ← hd, ← hn, hkind, hinline, hd64, hcells, h1, h60]

/-- GATHER with an inline list to a plain destination is a copy of its entries. -/
theorem opGather_copies {s : State} {uid d n : Nat} {c : Cmd} {es : List (Nat × Nat)} {rs : List NearRange} (hc : s.ready uid Oc.gather = some c)
    (hwork : c.work = .ready) (hfields : gatherFields c = true) (hd : d = (wordAt c.words 1).toNat) (hn : n = fieldOf c.words 2 9 0)
    (hkind : fieldOf c.words 2 11 10 = 2) (hinline : fieldOf c.words 2 12 12 = 0) (hes : es = gatherList (inlineBytes c 1) n)
    (hlens : es.all (fun e => decide (0 < e.2) && e.2 % 64 == 0) = true)
    (hrs : rs = es.map (fun e => { addr := e.1, len := e.2, wr := false, view := true }) ++ [{ addr := d, len := (es.map fun e => e.2).sum, wr := true, view := false }])
    (hfault : s.nearFault c.tenant rs = none) (hlines : (s.nearCoherent c rs).2 = true) :
    opGather uid s = (s.nearBegun c).nearCopy c es 2 d := by
  have hwith : opGather uid s = s.gatherWith c es := by
    simp only [opGather, hc, hfields, hinline, ← hn, ← hes, Bool.not_true, Bool.false_eq_true, and_false, if_false, true_or, if_true]
  have hgate := nearGate_ready (d := some (2, d, (es.map fun e => e.2).sum)) hwork hlens hfault
  rw [hwith]
  simp only [State.gatherWith, hkind, if_true, ← hd, ← hrs, hgate, nearCoherent_begun hlines]

/-! ### COMPARE and REDUCE (R462, R463) -/

/-- COMPARE in compare-and-swap mode puts the new value where the old is the one expected. -/
theorem opCompare_swaps {s : State} {uid a : Nat} {c : Cmd} (hc : s.ready uid Oc.compare = some c) (hwork : c.work = .ready)
    (ha : a = (wordAt c.words 1).toNat) (hmode : fieldOf c.words 2 1 0 = 0) (ha8 : a % 8 = 0)
    (hfault : s.nearFault c.tenant [{ addr := a, len := 8, wr := false, view := false }, { addr := a, len := 8, wr := true, view := false }] = none)
    (hlines : (s.nearCoherent c [{ addr := a, len := 8, wr := false, view := false }, { addr := a, len := 8, wr := true, view := false }]).2 = true)
    (hclean : rangePoison s a 8 = false) :
    opCompare uid s =
      if BitVec.ofNat 64 (ofLE (s.plainBytes a 8)) = wordAt c.words 3 then
        ((s.nearBegun c).putMarked a (leBytes 8 (wordAt c.words 4).toNat) []).nearDone c Cc.ok (BitVec.ofNat 64 (ofLE (s.plainBytes a 8))) 1 false
      else (s.nearBegun c).nearDone c Cc.ok (BitVec.ofNat 64 (ofLE (s.plainBytes a 8))) 0 false := by
  have hgate := nearGate_ready (b := a % 8 == 0) (d := none) hwork (by simp [ha8]) hfault
  have hpoison : rangePoison (s.nearBegun c) a 8 = false := (nearBegun_reads s c a 8).2.trans hclean
  simp only [opCompare, hc, ← ha, hmode, if_true, hgate, nearCoherent_begun hlines, List.any_cons, List.any_nil, hpoison,
    Bool.or_false, Bool.false_eq_true, if_false]
  rfl

/-- COMPARE in comparing mode holds the offset of the first difference. -/
theorem opCompare_compares {s : State} {uid a b n : Nat} {c : Cmd} (hc : s.ready uid Oc.compare = some c) (hwork : c.work = .ready)
    (ha : a = (wordAt c.words 1).toNat) (hb : b = (wordAt c.words 3).toNat) (hn : n = (wordAt c.words 4).toNat) (hmode : fieldOf c.words 2 1 0 = 1)
    (ha64 : a % 64 = 0) (hb64 : b % 64 = 0) (hn64 : n % 64 = 0) (hpos : 0 < n)
    (hfault : s.nearFault c.tenant [{ addr := a, len := n, wr := false, view := false }, { addr := b, len := n, wr := false, view := false }] = none)
    (hlines : (s.nearCoherent c [{ addr := a, len := n, wr := false, view := false }, { addr := b, len := n, wr := false, view := false }]).2 = true)
    (hcleanA : rangePoison s a n = false) (hcleanB : rangePoison s b n = false) :
    opCompare uid s =
      (s.nearBegun c).nearDone c Cc.ok (BitVec.ofNat 64 ((firstDiff (s.plainBytes a n) (s.plainBytes b n)).getD (2 ^ 64 - 1))) 0 false := by
  have hgate := nearGate_ready (b := 1 == 1 && a % 64 == 0 && b % 64 == 0 && n % 64 == 0 && decide (0 < n)) (d := none) hwork
    (by simp [ha64, hb64, hn64, hpos]) hfault
  have hpoisonA : rangePoison (s.nearBegun c) a n = false := (nearBegun_reads s c a n).2.trans hcleanA
  have hpoisonB : rangePoison (s.nearBegun c) b n = false := (nearBegun_reads s c b n).2.trans hcleanB
  simp only [opCompare, hc, ← ha, ← hb, ← hn, hmode, Nat.one_ne_zero, if_false, hgate, nearCoherent_begun hlines, List.any_cons,
    List.any_nil, hpoisonA, hpoisonB, Bool.or_false, Bool.false_eq_true, (nearBegun_reads s c _ n).1]
  cases firstDiff (s.plainBytes a n) (s.plainBytes b n) <;> rfl

/-- The lines of a destination that are poisoned and stay so. -/
def poisonedLines (s : State) (d n : Nat) : List Nat := (linesOf d n).zipIdx.filterMap fun e => if linePoison s e.1 then some e.2 else none

/-- REDUCE from a plain source adds it to the destination. -/
theorem opReduce_adds {s : State} {uid d a n rt : Nat} {c : Cmd} (hc : s.ready uid Oc.reduce = some c) (hwork : c.work = .ready)
    (hd : d = (wordAt c.words 1).toNat) (ha : a = (wordAt c.words 2).toNat) (hn : n = fieldOf c.words 3 31 0) (hrt : rt = fieldOf c.words 3 34 32)
    (hsrc : fieldOf c.words 3 35 35 = 1) (hcells : c.ncell = 0) (htype : rt ≤ 4) (hnw : n % elemBytes rt = 0) (hdw : d % elemBytes rt = 0) (hpos : 0 < n)
    (hfault : s.nearFault c.tenant [{ addr := d, len := n, wr := true, view := false }, { addr := a, len := n, wr := false, view := false }] = none)
    (hlines : (s.nearCoherent c [{ addr := d, len := n, wr := true, view := false }, { addr := a, len := n, wr := false, view := false }]).2 = true)
    (hclean : rangePoison s a n = false) :
    opReduce uid s = ((s.nearBegun c).putMarked d (reduceBytes rt (s.plainBytes d n) (s.plainBytes a n)) (poisonedLines (s.nearBegun c) d n)).nearDone
      c Cc.ok (BitVec.ofNat 64 (n / elemBytes rt)) 0 false := by
  have hgate := nearGate_ready (b := decide (rt ≤ 4) && n % elemBytes rt == 0 && d % elemBytes rt == 0 && decide (0 < n) && 0 == 0) (d := some (2, d, n))
    hwork (by simp [htype, hnw, hdw, hpos]) hfault
  have hpoison : rangePoison (s.nearBegun c) a n = false := (nearBegun_reads s c a n).2.trans hclean
  simp only [opReduce, hc, ← hd, ← ha, ← hn, ← hrt, hsrc, hcells, Nat.one_ne_zero, if_false, if_true, hgate, nearCoherent_begun hlines,
    hpoison, Bool.false_eq_true, and_false, (nearBegun_reads s c _ n).1]
  rfl

/-! ### The end (R465) -/

/-- A command that has had its effect, its ranges still there and no snoop of it out, ends with its result, or PARTIAL after a failed closing read. -/
theorem opNearMemoryComplete_ends {s : State} {uid : Nat} {readOk toHost : Bool} {c : Cmd} {code : Nat} {r0 r1 : Word} (hc : s.cmd uid = some c)
    (hwork : c.work = .near (some (code, r0, r1)) toHost) (hsnoops : s.snoops.any (fun x => x.uid == some uid) = false)
    (hranges : ((nearRanges c).filter fun r => decide (0 < r.len)).all (NearRange.ok s c.tenant (s.hostOf c.tenant)) = true) :
    opNearMemoryComplete uid readOk s = s.finish c (if code = Cc.ok ∧ toHost = true ∧ readOk = false then Cc.partial_ else code) r0 r1 := by
  simp only [opNearMemoryComplete, hc, hwork, hsnoops, hranges, Bool.not_true, Bool.false_eq_true, and_false, if_false, Bool.not_eq_true']
  split <;> rfl

/-- Settles O6: each command passes its gate and takes the branch that its conditions pick; what it leaves is the rule of a write of plain memory. -/
theorem nearMemoryCommandsComplete : Obligations.NearMemoryCommandsComplete := by
  refine ⟨?fill, ?copy, ?swap, ?compare, ?reduce, ?gather, ?complete⟩
  case fill =>
    intro s uid c a n hc hwork ha hn ha64 hn64 hpos hfault hlines
    obtain rfl := cmd_uid (ready_cmd hc)
    have hlen : ((List.range (n / 8)).flatMap fun _ => leBytes 8 (wordAt c.words 3).toNat).length = n := by rw [length_fill]; omega
    have hwrote := nearDone_wrote a ((List.range (n / 8)).flatMap fun _ => leBytes 8 (wordAt c.words 3).toNat) [] Cc.ok (BitVec.ofNat 64 n) 0 (ready_cmd hc)
    rw [NearWrote, hlen] at hwrote
    exact completes_next (congrArg Host.Outcome.next (opFill_fills hc hwork ha hn ha64 hn64 hpos hfault hlines)) hwrote
  case copy =>
    intro s uid c a d n parts bs hc hwork ha hd hn hkind ha64 hd64 hn64 hfault hlines hparts hwaits hbad hbs
    subst hbs
    exact completes_next (congrArg Host.Outcome.next (opCopy_copies hc hwork ha hd hn hkind ha64 hd64 hn64 hfault hlines))
      (nearCopy_plain (srcs := [(a, n)]) (ready_cmd hc) (by simpa using hparts) hwaits hbad)
  case swap =>
    intro s uid c a old hc hwork ha hmode ha8 hfault hlines hclean hold
    obtain rfl := cmd_uid (ready_cmd hc)
    subst hold
    refine completes_next (congrArg Host.Outcome.next (opCompare_swaps hc hwork ha hmode ha8 hfault hlines hclean)) ?_
    by_cases heq : BitVec.ofNat 64 (ofLE (s.plainBytes a 8)) = wordAt c.words 3
    · simp only [if_pos heq]
      have hwrote := nearDone_wrote a (leBytes 8 (wordAt c.words 4).toNat) [] Cc.ok (BitVec.ofNat 64 (ofLE (s.plainBytes a 8))) 1 (ready_cmd hc)
      rwa [NearWrote, leBytes_length] at hwrote
    · simp only [if_neg heq]
      exact ⟨rfl, fun _ _ => rfl, nearDone_holds _ _ _ (ready_cmd hc) rfl⟩
  case compare =>
    intro s uid c a b n hc hwork ha hb hn hmode ha64 hb64 hn64 hpos hfault hlines hcleanA hcleanB
    obtain rfl := cmd_uid (ready_cmd hc)
    exact completes_next
      (congrArg Host.Outcome.next (opCompare_compares hc hwork ha hb hn hmode ha64 hb64 hn64 hpos hfault hlines hcleanA hcleanB))
      ⟨rfl, nearDone_holds _ _ _ (ready_cmd hc) rfl⟩
  case reduce =>
    intro s uid c d a n rt bs hc hwork hd ha hn hrt hsrc hcells htype hnw hdw hpos hfault hlines hclean hbs
    obtain rfl := cmd_uid (ready_cmd hc)
    subst hbs
    exact completes_next
      (congrArg Host.Outcome.next (opReduce_adds hc hwork hd ha hn hrt hsrc hcells htype hnw hdw hpos hfault hlines hclean))
      (nearDone_wrote _ _ _ _ _ _ (ready_cmd hc))
  case gather =>
    intro s uid c d n es rs parts hc hwork hd hn hkind hinline hd64 h1 h60 hcells hes hlens hrs hfault hlines hparts hwaits hbad
    have hfields := gatherFields_inline hd hn hkind hinline hd64 h1 h60 hcells
    exact completes_next (congrArg Host.Outcome.next (opGather_copies hc hwork hfields hd hn hkind hinline hes hlens hrs hfault hlines))
      (nearCopy_plain (ready_cmd hc) hparts hwaits hbad)
  case complete =>
    intro s uid readOk toHost c code r0 r1 hc hwork hsnoops hranges
    exact completes_next (congrArg Host.Outcome.next (opNearMemoryComplete_ends hc hwork hsnoops hranges)) (finish_ended _ _ _ _ rfl)

end Sys2Proof.Machine

/-!
Dynamic capacity, link training, hosts that are lost and bound, and the orphan log (R436, R442, R444 to R447, R456, R458, R481). The FM's return codes and when they come, and
that a release is for every host of the extent, are the model's (log entries 63, 64 and 83).
-/
namespace Sys2Proof.Machine

/-! ### Extents (R444 to R447) -/

/-- What the extent's key is after its record is set. -/
theorem extent_setExtent (s : State) (region idx : Nat) (e : Extent) : (s.setExtent region idx e).extent region idx = some e :=
  mapFind_mapIns_same ..

/-- A valid add request of a new plain extent within PLMAX is recorded. -/
theorem opDcAddExtent_new {s : State} {idx tag : Nat} {hs : List Nat} (hvalid : addValid s 0 idx tag hs = true) (hnew : s.extent 0 idx = none)
    (hroom : plainExtents s < s.fld Fd.CXL_PLAIN_PLMAX) :
    opDcAddExtent 0 idx tag hs s =
      { s with released := mapDel idx s.released }.setExtent 0 idx { tag, hosts := hs, st := .adding, since := s.dtime } := by
  simp only [opDcAddExtent, hvalid, hnew, Bool.not_true, Bool.false_eq_true, if_false, if_true, if_neg (Nat.not_le.2 hroom)]

/-- Recording it changes the list of extents and the list of released ones. -/
theorem addingExtent_keeps (s : State) (region idx : Nat) (r : NMap Unit) (e : Extent) :
    Keeps (partMask [.extents, .released]) s ({ s with released := r }.setExtent region idx e) :=
  .step (.mono (upd_released s r)) (State.setExtent_keeps ..)

/-- An extent that is being added is there once there is room. -/
theorem opPlainExtentReady_adds {s : State} {idx : Nat} {e : Extent} (he : s.extent 0 idx = some e) (hst : e.st = .adding) (hroom : extentRoom s = true) :
    opPlainExtentReady idx s = (((s.zeroExtent idx).setExtent 0 idx { e with st := .added }).tellHosts 0 idx e.hosts).fm 0 := by
  simp only [opPlainExtentReady, he, hst, hroom, ne_eq, not_true_eq_false, Bool.not_true, Bool.false_eq_true, or_self, if_false]

/-- An extent for which there was no room in two seconds is dropped. -/
theorem opPlainExtentAddTimeout_drops {s : State} {idx now : Nat} {e : Extent} (he : s.extent 0 idx = some e) (hst : e.st = .adding)
    (hlate : e.since + 2000000000 ≤ max s.dtime now) :
    opPlainExtentAddTimeout idx now s = ({ s.at_ now with extents := mapDel (extKey 0 idx) s.extents } : State).fm 2 := by
  have hat : (s.at_ now).extent 0 idx = some e := he
  simp only [opPlainExtentAddTimeout, hat, hst, ne_eq, not_true_eq_false, false_or]
  exact if_neg (Nat.not_lt.2 hlate)

/-- A release of an extent of regions 1 and 2 that the host holds begins at once. -/
theorem opDcReleaseExtent_begins {s : State} {region idx h : Nat} {e : Extent} (he : s.extent region idx = some e) (hheld : extentHeld s h region idx = true)
    (hregion : region ≠ 0) : opDcReleaseExtent region idx h s = ((s.setExtent region idx { e with st := .releasing }).pumpRelease idx).fm 0 := by
  simp only [opDcReleaseExtent, he, hheld, hregion, Bool.not_true, Bool.false_eq_true, if_false]

/-- The release of a plain extent that nothing uses any more ends. -/
theorem opDcReleaseComplete_ends {s : State} {idx : Nat} {e : Extent} (he : s.extent 0 idx = some e) (hst : e.st = .releasing)
    (hbusy : extentBusy s idx = false) (hheld : extentHolders s idx = []) :
    opDcReleaseComplete 0 idx s =
      ({ s.zeroExtent idx with extents := mapDel (extKey 0 idx) (s.zeroExtent idx).extents } : State).tellHosts 0 idx e.hosts := by
  simp only [opDcReleaseComplete, he, hst, hbusy, hheld, ne_eq, not_true_eq_false, Bool.false_eq_true, or_self, and_false, if_false, if_true]

/-! ### Links and hosts (R436, R442, R456) -/

/-- What the registers show of link l that has trained fully, with its hosts served again. -/
def State.linkTrained (s : State) (l : Nat) : State :=
  { { s with linkIn := mapIns l (s.reg .CXL_LINKCFG l) s.linkIn, ideKeys := s.ideKeys.filter fun e => e.1 / 256 != l }.setReg .CXL_LINKST l
      (packWord [(32, s.fld Fd.CXL_LINKST_DOWNS l), (9, 0), (8, 1), (5, 3), (3, 2), (0, 2)]) with
    lostHosts := s.lostHosts.filter fun h => !(configHosts (s.reg .CXL_LINKCFG l)).contains h }

/-- An even link of a port that is not bifurcated trains at 64 GT/s over its full width, with its FLIT mode and no host of another link. -/
theorem opCxlLinkTrain_full {s : State} {l : Nat} (ds : List (Nat × HdmDecoder)) (hbif : portBif s (l / 2) = false) (heven : l % 2 = 0)
    (hclash : (configHosts (s.reg .CXL_LINKCFG l)).any
      (fun h => decide (15 < h) || (((List.range 8).filter (· != l)).flatMap fun k => linkHosts s k).contains h) = false) :
    opCxlLinkTrain l 2 3 true ds s = ((s.linkTrained l).commitHdms l ds).checkLinks := by
  have hodd : ¬(l % 2 = 1 ∧ (!portBif s (l / 2)) = true) := fun h => absurd h.1 (by omega)
  rw [opCxlLinkTrain, if_neg hodd]
  simp only [hbif, hclash, Bool.false_eq_true, if_false, Bool.not_true]
  rfl

/-- A host that the FM unbinds is lost alone. -/
theorem opHostLost_unbound (s : State) (h : Nat) : opHostLost h false s = s.loseHost h := by
  simp only [opHostLost]

/-- A bind on a link in MLD mode establishes the host again. -/
theorem opFmLdBind_establishes {s : State} {h l : Nat} (hlink : hostLink s h = some l) (hmld : directLink s l = false) :
    opFmLdBind h s = { s with lostHosts := s.lostHosts.filter (· != h) } := by
  simp only [opFmLdBind, hlink, hmld, Bool.false_eq_true, if_false]

/-! ### The orphan log (R458, R481) -/

/-- The overflow mark of the orphan log, where what waits does not fit. -/
def State.orphansOverflow (s : State) : State :=
  if orphanEntries - s.orphanLog.length < s.orphanPend.length then s.setFld Fd.CXL_ORPH_OVF 1 else s

/-- The end of a scan: the log takes what fits of what waits, SCAN is 0, and event 0x0F01 is recorded. -/
theorem opOrphanScanComplete_records {s : State} (hscan : s.flag Fd.CXL_ORPH_SCAN = true) :
    opOrphanScanComplete s = ({ s.orphansOverflow with
      orphanLog := s.orphansOverflow.orphanLog ++ s.orphansOverflow.orphanPend.take (orphanEntries - s.orphanLog.length), orphanPend := [] }.setFld
        Fd.CXL_ORPH_SCAN 0).cxlEvent operatorFn 1 0x0F01 0xFFFF 0xFF 0 s.orphanPend.length := by
  simp only [opOrphanScanComplete, hscan, Bool.not_true, Bool.false_eq_true, if_false]
  rfl

/-- The mark leaves the log and what waits. -/
theorem orphansOverflow_same (s : State) : s.orphansOverflow.orphanLog = s.orphanLog ∧ s.orphansOverflow.orphanPend = s.orphanPend := by
  unfold State.orphansOverflow
  split <;> exact ⟨rfl, rfl⟩

/-- SCAN reads 0 once it is cleared. -/
theorem orphanScan_cleared (s : State) : (s.setFld Fd.CXL_ORPH_SCAN 0).flag Fd.CXL_ORPH_SCAN = false :=
  beq_eq_false_iff_ne.2 (by rw [State.fld_setFld_fits (k := .CXL_ORPH) _ 0 0 (by decide) (by decide)]; decide)

/-- OVF reads 0 once it is cleared. -/
theorem orphanOvf_cleared (s : State) : (s.setFld Fd.CXL_ORPH_OVF 0).flag Fd.CXL_ORPH_OVF = false :=
  beq_eq_false_iff_ne.2 (by rw [State.fld_setFld_fits (k := .CXL_ORPH) _ 0 0 (by decide) (by decide)]; decide)

/-- What the end of a scan leaves: the log with what fits, nothing that waits, and SCAN 0. -/
theorem opOrphanScanComplete_effect {s : State} (hscan : s.flag Fd.CXL_ORPH_SCAN = true) :
    (opOrphanScanComplete s).orphanLog = s.orphanLog ++ s.orphanPend.take (orphanEntries - s.orphanLog.length) ∧
      (opOrphanScanComplete s).orphanPend = [] ∧ (opOrphanScanComplete s).flag Fd.CXL_ORPH_SCAN = false := by
  obtain ⟨hlog, hpend⟩ := orphansOverflow_same s
  rw [opOrphanScanComplete_records hscan, hlog, hpend]
  generalize hu : ({ s.orphansOverflow with
    orphanLog := s.orphanLog ++ s.orphanPend.take (orphanEntries - s.orphanLog.length), orphanPend := [] } : State) = u
  have hk := State.cxlEvent_keeps (u.setFld Fd.CXL_ORPH_SCAN 0) operatorFn 1 0x0F01 0xFFFF 0xFF 0 s.orphanPend.length
  refine ⟨(hk.same .orphanLog (by decide)).trans ?_, (hk.same .orphanPend (by decide)).trans ?_, ?_⟩
  · rw [← hu]; rfl
  · rw [← hu]; rfl
  · rw [State.flag, fld_of (f := Fd.CXL_ORPH_SCAN) (hk.same (.reg .CXL_ORPH) (by decide))]
    exact orphanScan_cleared u

/-- A query of an entry that the log has shows its line, host and time. -/
theorem opOrphanLogQuery_shows {s : State} {v : Word} {r : OrphanRec} (hr : s.orphanLog[bitsOf v 15 0]? = some r) :
    opOrphanLogQuery v s = ((s.setReg .CXL_ORPHQ 0 (packWord [(0, bitsOf v 15 0)])).setReg .CXL_ORPHE0 0 (packWord [(6, r.line % 2 ^ 58), (0, r.host)])).setReg
      .CXL_ORPHE1 0 (BitVec.ofNat 64 r.dtime) := by
  have hget : (s.setReg .CXL_ORPHQ 0 (packWord [(0, bitsOf v 15 0)])).orphanLog[bitsOf v 15 0]? = some r := hr
  simp only [opOrphanLogQuery, hget]

/-- Settles O13: each row by the branch of its operation that its conditions pick, and what that branch leaves. -/
theorem capacityAndHostEventsComplete : Obligations.CapacityAndHostEventsComplete := by
  refine ⟨?add, ?ready, ?timeout, ?release, ?released, ?train, ?lost, ?scan, ?clear, ?query, ?bind⟩
  case add =>
    intro s idx tag hosts hvalid hnew hroom
    exact completes_next (congrArg Host.Outcome.next (opDcAddExtent_new hvalid hnew hroom))
      ⟨extent_setExtent .., (addingExtent_keeps ..).changesOnly (Nat.or_self _)⟩
  case ready => exact fun s idx e he hst hroom => congrArg Host.Outcome.next (opPlainExtentReady_adds he hst hroom)
  case timeout =>
    intro s idx now e he hst hlate
    exact completes_next (congrArg Host.Outcome.next (opPlainExtentAddTimeout_drops he hst hlate)) ⟨(mapFind_mapDel ..).trans (if_pos rfl), rfl⟩
  case release => exact fun s region idx host e he hheld hregion => congrArg Host.Outcome.next (opDcReleaseExtent_begins he hheld hregion)
  case released => exact fun s idx e he hst hbusy hheld => congrArg Host.Outcome.next (opDcReleaseComplete_ends he hst hbusy hheld)
  case train => exact fun s link ds heven hbif hclash => congrArg Host.Outcome.next (opCxlLinkTrain_full ds hbif heven hclash)
  case lost => exact fun s host _ => congrArg Host.Outcome.next (opHostLost_unbound s host.val)
  case scan => exact fun s hscan => completes_next rfl (opOrphanScanComplete_effect hscan)
  case clear => exact fun s => completes_next rfl ⟨rfl, orphanOvf_cleared _, (opOrphanLogClear_keeps s).changesOnly (by decide +kernel)⟩
  case query =>
    intro s v r hr
    refine completes_next rfl ⟨?_, ?_, (opOrphanLogQuery_keeps v s).changesOnly (by decide +kernel)⟩
    · rw [opOrphanLogQuery_shows hr]; simp [State.reg_setReg]
    · rw [opOrphanLogQuery_shows hr]; simp [State.reg_setReg]
  case bind =>
    intro s host l hlink hmld
    exact completes_next (congrArg Host.Outcome.next (opFmLdBind_establishes hlink hmld)) ⟨rfl, (upd_lostHosts s _).changesOnly (by decide +kernel)⟩

end Sys2Proof.Machine

/-!
Mailbox queries and logs, platform events and the TAP (R457, R474, R475, R667, R716, R719, R726, R727, R737, R742). The numbers of opcodes and return codes, and the layouts of
the answers, are the model's (log entries 83 and 85).
-/
namespace Sys2Proof.Machine

/-! ### Commands of the operator function -/

/-- Clear Poison of a line of the plain region writes its 64 bytes. -/
theorem opClearPoison_writes {s : State} {fn a x y : Nat} {bs : List Byte} (h : mbRefusal s fn false false false = none)
    (hplace : dpaPlace (dpaExtents s.cacheSf) a = .plain x y) (hlen : bs.length = 64) :
    opClearPoison fn a bs s = (s.engineWrite (64 * (a / 64)) bs).reply 0x4302 mbOk [] := by
  rw [opClearPoison, State.operator_runs _ _ _ h]
  simp only [hplace, hlen, if_true]

/-- Set Timestamp writes the offset between DTIME and the time given. -/
theorem opSetTimestamp_writes {s : State} {fn : Nat} (v : Word) (h : mbRefusal s fn false false false = none) :
    opSetTimestamp fn v s = (s.setReg .PWR_DTOFF 0 (v - BitVec.ofNat 64 s.dtime)).reply 0x0301 mbOk [] :=
  State.operator_runs _ _ _ h

/-- What Set Timestamp leaves: DTIME with the offset is the time given, and nothing else has changed. -/
theorem opSetTimestamp_effect {s : State} {fn : Nat} {v : Word} (h : mbRefusal s fn false false false = none) :
    BitVec.ofNat 64 (opSetTimestamp fn v s).dtime + (opSetTimestamp fn v s).reg .PWR_DTOFF 0 = v ∧
      ChangesOnly [.out, .reg .PWR_DTOFF] s (opSetTimestamp fn v s) := by
  rw [opSetTimestamp_writes v h]
  have hreg : (s.setReg .PWR_DTOFF 0 (v - BitVec.ofNat 64 s.dtime)).reg .PWR_DTOFF 0 = v - BitVec.ofNat 64 s.dtime := by
    rw [State.reg_setReg, if_pos ⟨rfl, rfl⟩]
  have hk : Keeps (partMask [.out, .reg .PWR_DTOFF]) s ((s.setReg .PWR_DTOFF 0 (v - BitVec.ofNat 64 s.dtime)).reply 0x0301 mbOk []) :=
    .step (.mono (State.setReg_keeps ..) (by decide +kernel)) (State.reply_keeps ..) (by decide +kernel)
  refine ⟨?_, hk.changesOnly (Nat.or_self _)⟩
  show BitVec.ofNat 64 s.dtime + (s.setReg .PWR_DTOFF 0 (v - BitVec.ofNat 64 s.dtime)).reg .PWR_DTOFF 0 = v
  rw [hreg, BitVec.add_comm, BitVec.sub_add_cancel]

/-! ### Event logs (R475) -/

section
variable {s : State} {fn owner log : Nat} (hsafe : inSafe s = false) (hmedia : awaitsMedia s = false)
include hsafe hmedia

/-- Get Event Records answers the log, with how many records it has lost. -/
theorem opGetEventRecords_answers (howns : ownsLogs fn owner = true) :
    opGetEventRecords fn owner log s = s.reply 0x0100 mbOk (packWord [(16, (mapFind s.evLost (8 * owner + log)).getD 0), (0, (s.eventLog owner log).length)] ::
      (s.eventLog owner log).flatMap eventWords) := by
  simp only [opGetEventRecords, hsafe, howns, hmedia, Bool.not_true, Bool.false_eq_true, or_self, if_false]

/-- Clear Event Records takes the named records of the log out of it, or all, and then its overflow too. -/
theorem opClearEventRecords_clears (all : Bool) (handles : List Nat) (howns : ownsLogs fn owner = true) :
    opClearEventRecords fn owner log all handles s = ({ s with
      events := mapUpd owner (fun l => l.filter fun e => e.log != log || !(all || handles.contains e.handle)) s.events
      evLost := if all then mapDel (8 * owner + log) s.evLost else s.evLost } : State).reply 0x0101 mbOk [] := by
  simp only [opClearEventRecords, hsafe, howns, hmedia, Bool.not_true, Bool.false_eq_true, or_self, if_false]

/-- A record of the log that is left is not one of those named, and none is left where all were to go. -/
theorem opClearEventRecords_left {all : Bool} {handles : List Nat} (howns : ownsLogs fn owner = true) :
    ∀ e ∈ (mapFind (opClearEventRecords fn owner log all handles s).events owner).getD [], e.log = log → all = false ∧ e.handle ∉ handles := by
  rw [opClearEventRecords_clears hsafe hmedia all handles howns]
  intro e he hlog
  rw [show ∀ v : State, (v.reply 0x0101 mbOk []).events = v.events from fun _ => rfl, mapFind_mapUpd, if_pos rfl] at he
  cases hm : mapFind s.events owner with
  | none => rw [hm] at he; exact nomatch he
  | some l =>
    rw [hm] at he
    have hkept := (List.mem_filter.1 he).2
    simpa [hlog] using hkept

/-- Set Event Interrupt Policy keeps a mode for each of the five logs. -/
theorem opSetEventInterruptPolicy_keepsModes (modes : List Nat) :
    opSetEventInterruptPolicy fn modes s = ({ s with
      evPolicy := (modes.take 5).zipIdx.foldl (fun m e => mapIns (8 * fn + e.2) e.1 m) s.evPolicy } : State).reply 0x0103 mbOk [] := by
  simp only [opSetEventInterruptPolicy, hsafe, hmedia, Bool.false_eq_true, if_false]

/-- Get Timestamp answers DTIME with its offset. -/
theorem opGetTimestamp_answers : opGetTimestamp fn s = s.reply 0x0300 mbOk [BitVec.ofNat 64 s.dtime + s.reg .PWR_DTOFF] := by
  simp only [opGetTimestamp, hsafe, hmedia, Bool.false_eq_true, if_false]

end

/-! ### Get Log, commands without support, platform events and the TAP -/

/-- Get Log of the operator function answers the CEL, or records of LOG. -/
theorem opGetLog_answers {s : State} (vendor : Bool) (first n : Nat) (hmedia : awaitsMedia s = false) :
    opGetLog 16 vendor first n s = s.reply 0x0401 mbOk
      (if vendor then ((s.log.drop first).take n).flatMap logWords else celOpcodes.map fun o => BitVec.ofNat 64 o) := by
  rw [opGetLog, if_neg (show ¬(16 ≠ operatorFn) from fun h => h rfl), hmedia, Bool.false_and, if_neg Bool.false_ne_true]

/-- A command that the function does not support is answered so. -/
theorem opUnsupportedMailboxCommand_unknown {s : State} {fn op : Nat} (action : Nat)
    (h : (if fn = operatorFn then celOpcodes else hostOpcodes).contains op = false) :
    opUnsupportedMailboxCommand fn op action s = s.reply op mbUnsupported [] := by
  simp only [opUnsupportedMailboxCommand, h, Bool.not_false, if_true]

/-- A command that CFGFREEZE refuses is recorded and answered so. -/
theorem opUnsupportedMailboxCommand_frozen {s : State} {op action : Nat} (hop : celOpcodes.contains op = true) (hfreezes : freezes op action = true)
    (hfrozen : s.flag Fd.GLB_CFG_CFGFREEZE = true) :
    opUnsupportedMailboxCommand 16 op action s = (s.logEv 0x0005 1 noIsland none op action).emit (.mailbox op mbUnsupported 0x20 []) := by
  have hknown : ¬(!(if 16 = operatorFn then celOpcodes else hostOpcodes).contains op) = true := by
    rw [if_pos (show 16 = operatorFn from rfl), hop]
    exact Bool.false_ne_true
  rw [opUnsupportedMailboxCommand, if_neg hknown, if_pos ⟨rfl, hfreezes, hfrozen⟩]

/-- The oldest event that waits is read. -/
theorem opPlatformEventRead_oldest {s : State} {e : Nat × Nat} {rest : List (Nat × Nat)} (h : s.mctp = e :: rest) :
    opPlatformEventRead s = ({ s with mctp := rest } : State).emit (.platformEvent e.1 e.2) := by
  simp only [opPlatformEventRead, h]

/-- A code that R719 does not list is BYPASS outside the maker's states. -/
theorem execJtagInstruction_other {s : State} (n : Nat) (pins cells : List Bool) (h : makerState s = false) :
    exec (.jtagInstruction (.other n) pins cells) s = .next (opJtagInstruction (.other n) pins cells s) :=
  if_neg (by rw [h]; exact Bool.false_ne_true)

/-- Settles O24: each command of the operator function runs where nothing refuses it, and each other by the branch that its conditions pick. -/
theorem mailboxQueriesAndLogsComplete : Obligations.MailboxQueriesAndLogsComplete := by
  refine ⟨?health, ?healthInfo, ?poisonList, ?clearPoison, ?getEvents, ?clearEvents, ?policy, ?identify, ?getLog, ?getTime, ?setTime, ?unknown, ?frozen,
    ?platform, ?tap⟩
  case health => exact fun s fn h => congrArg Host.Outcome.next (State.operator_runs _ _ _ h)
  case healthInfo => exact fun s fn h => congrArg Host.Outcome.next (State.operator_runs _ _ _ h)
  case poisonList => exact fun s fn h => congrArg Host.Outcome.next (State.operator_runs _ _ _ h)
  case clearPoison => exact fun s fn a x y bs h hplace hlen => congrArg Host.Outcome.next (opClearPoison_writes h hplace hlen)
  case getEvents => exact fun s fn owner log hsafe howns hmedia => congrArg Host.Outcome.next (opGetEventRecords_answers hsafe hmedia howns)
  case clearEvents =>
    exact fun s fn owner log all handles hsafe howns hmedia => completes_next rfl
      ⟨opClearEventRecords_left hsafe hmedia howns, (opClearEventRecords_keeps ..).changesOnly (by decide +kernel)⟩
  case policy => exact fun s fn modes hsafe hmedia => congrArg Host.Outcome.next (opSetEventInterruptPolicy_keepsModes hsafe hmedia modes)
  case identify => exact fun s fn => rfl
  case getLog => exact fun s vendor first n hmedia => congrArg Host.Outcome.next (opGetLog_answers vendor first n hmedia)
  case getTime => exact fun s fn hsafe hmedia => congrArg Host.Outcome.next (opGetTimestamp_answers hsafe hmedia)
  case setTime => exact fun s fn v h => completes_next rfl (opSetTimestamp_effect h)
  case unknown => exact fun s fn op action h => congrArg Host.Outcome.next (opUnsupportedMailboxCommand_unknown action h)
  case frozen =>
    exact fun s op action hop hfreezes hfrozen => congrArg Host.Outcome.next (opUnsupportedMailboxCommand_frozen hop hfreezes hfrozen)
  case platform => exact fun s e rest h => congrArg Host.Outcome.next (opPlatformEventRead_oldest h)
  case tap => exact fun s pins cells n h => ⟨rfl, rfl, rfl, execJtagInstruction_other n pins cells h⟩

end Sys2Proof.Machine

/-!
SPDM requests, stream keys, TDISP requests and the requests of R629 (R471 to R473, R613 to R624, R629 to R633, R658). The order of the results of R631 is the model's (log entry 87),
and so are the forms of the chain and of the link key slots (log entries 88, 112 and 116).
-/
namespace Sys2Proof.Machine

/-! ### SPDM and TDISP (R471, R472, R620) -/

/-- A certificate chain of slot 0 or 1 is answered. -/
theorem opSpdmRequest_certificate (s : State) (fn : Nat) {slot : Nat} (h : slot < 2) : opSpdmRequest fn (.certificate slot) s = s.spdm fn (certChain s slot) :=
  if_pos h

/-- DOE Discovery on a DOE mailbox answers the protocol of the index, and the next index. -/
theorem opSpdmRequest_discovery (s : State) {fn : Nat} (i : Nat) (h : fn ≠ mctpFn) :
    opSpdmRequest fn (.doeDiscovery i) s =
      s.emit (.doe fn (([.discovery, .spdm, .secured, .cdat] : List DoeProto)[i]?) (if i + 1 < 4 then i + 1 else 0)) :=
  if_neg h

/-- A signed measurement of one index is a signed answer of its values behind the nonce. -/
theorem opSpdmRequest_signed (s : State) (fn : Nat) {i : Nat} (nonce : List Byte) (h : i ≠ 0xFF) :
    opSpdmRequest fn (.measurements i true nonce) s = s.signedAnswer fn (nonce ++ measurement s fn i) := by
  simp only [opSpdmRequest, if_neg h, if_true]

/-- What a signed answer leaves: the hash of what was signed is kept for its function, and the answer carries the signature. -/
theorem signedAnswer_effect (s : State) (fn : Nat) (body : List Byte) :
    mapFind (s.signedAnswer fn body).signed fn = some (sha384 body) ∧
      (s.signedAnswer fn body).out = s.out ++ [.spdm fn (body ++ layerSign 0 (topCdi s) (sha384 body))] ∧
      ChangesOnly [.signed, .out] s (s.signedAnswer fn body) :=
  ⟨mapFind_mapIns_same .., rfl, (State.signedAnswer_keeps s fn body).changesOnly (by decide +kernel)⟩

/-- KEY_EXCHANGE under a number that no session has begins a session, with the identity of the requester's chain. -/
theorem opSpdmRequest_keyExchange {s : State} {n : Nat} (fn : Nat) (m : Bool) (chain : List Byte) (h : s.session n = none) :
    opSpdmRequest fn (.keyExchange n m chain) s =
      ({ s with sessions := mapIns n { fn := fn, mutualAuth := m, req := sha384 chain } s.sessions } : State).spdm fn (leBytes 2 n) := by
  simp only [opSpdmRequest, h, Option.isSome_none, Bool.false_eq_true, if_false]

/-- The answer of Selvedge behind a change. -/
theorem spdm_after {w : List Part} {s u : State} (fn : Nat) (bs : List Byte) (h : Keeps (partMask w) s u)
    (hout : 8 ||| partMask w = partMask w := by decide +kernel) : ChangesOnly w s (u.spdm fn bs) :=
  (h.step (State.spdm_keeps u fn bs) hout).changesOnly (Nat.or_self _)

/-- A stream key goes into its key slot; stream 0 shows IDE on the link. -/
def State.streamKeyed (s : State) (l stream key : Nat) : State :=
  if stream = 0 then ({ s with ideKeys := mapIns (256 * l + stream) key s.ideKeys } : State).setFld Fd.CXL_LINKST_IDE 1 l
  else { s with ideKeys := mapIns (256 * l + stream) key s.ideKeys }

/-- A session gives a stream of its host's link its key. -/
theorem opIdeKmKeyProg_installs {s : State} {n l stream : Nat} {x : Session} (key : Nat) (hx : s.session n = some x)
    (hlink : hostLink s (fnHost s x.fn) = some l) (hstream : streamAllowed s (fnHost s x.fn) l stream = true) :
    opIdeKmKeyProg n l stream key s = (s.streamKeyed l stream key).spdm x.fn (leBytes 2 stream) := by
  simp only [opIdeKmKeyProg, hx, hlink, hstream, ne_eq, not_true_eq_false, Bool.not_true, Bool.false_eq_true, or_self, if_false]
  rfl

/-- A key slot that is written changes the keys and the link's IDE bit. -/
theorem streamKeyed_keeps (s : State) (l stream key : Nat) : Keeps (partMask [.ideKeys, .out, .reg .CXL_LINKST]) s (s.streamKeyed l stream key) :=
  have hkeys : Keeps (partMask [.ideKeys, .out, .reg .CXL_LINKST]) s { s with ideKeys := mapIns (256 * l + stream) key s.ideKeys } :=
    (upd_ideKeys s _).mono (by decide +kernel)
  .ite (fun _ => hkeys.step (State.setFld_keeps ..) (by decide +kernel)) fun _ => hkeys

/-- The key slot holds the key, and stream 0 turns IDE on. -/
theorem streamKeyed_reads (s : State) (l stream key : Nat) :
    mapFind (s.streamKeyed l stream key).ideKeys (256 * l + stream) = some key ∧ (stream = 0 → (s.streamKeyed l stream key).fld Fd.CXL_LINKST_IDE l = 1) := by
  unfold State.streamKeyed
  split
  · exact ⟨mapFind_mapIns_same .., fun _ => State.fld_setFld_fits (k := .CXL_LINKST) _ 1 l (by decide) (by decide)⟩
  · exact ⟨mapFind_mapIns_same .., fun h => absurd h ‹_›⟩

/-- A TDI reads as it was set. -/
theorem tdi_mapIns (s : State) (h : Nat) (d : Tdi) : ({ s with tdis := mapIns h d s.tdis } : State).tdi h = d :=
  congrArg (Option.getD · _) (mapFind_mapIns_same ..)

/-- LOCK_INTERFACE from CONFIG_UNLOCKED locks the interface in the session. -/
theorem opTdispRequest_locks {s : State} {n : Nat} {x : Session} (hx : s.session n = some x) (hst : (s.tdi (fnHost s x.fn)).st = 0)
    (hcompat : s.compat = false) :
    opTdispRequest n 0 s =
      ({ s with tdis := mapIns (fnHost s x.fn) { st := 1, session := n, req := x.req } s.tdis } : State).spdm x.fn [1] := by
  simp only [opTdispRequest, hx, hst, hcompat, Bool.not_false, and_self, if_true]

/-- START_INTERFACE in the session that locked starts it. -/
theorem opTdispRequest_starts {s : State} {n : Nat} {x : Session} (hx : s.session n = some x) (hst : (s.tdi (fnHost s x.fn)).st = 1)
    (hsession : (s.tdi (fnHost s x.fn)).session = n) :
    opTdispRequest n 1 s =
      ({ s with tdis := mapIns (fnHost s x.fn) { s.tdi (fnHost s x.fn) with st := 2 } s.tdis } : State).spdm x.fn [2] := by
  simp only [opTdispRequest, hx, hst, hsession, Nat.one_ne_zero, false_and, if_false, and_self, if_true]

/-! ### Key requests (R629 to R633) -/

/-- A request runs at once while no load holds state fixed. -/
theorem request_runs {s : State} (n : Nat) (r : KeyReq) (h : loadHolds s = false) : s.request_ n r = s.runRequest n r :=
  if_neg (by rw [h]; exact Bool.false_ne_true)

/-- The tenant has its data key, delivered in a session. -/
def State.tenantKeyed (s : State) (t key : Nat) : State := ((s.putDataKey t key).setFld Fd.SEC_TSTAT_KEYSRC 2 t).keyWrite t

/-- TENANT_KEY of a tenant that may be given a key, in a session bound to its host. -/
theorem runRequest_tenantKey {s : State} {n t : Nat} {x : Session} (key : Nat) (hx : s.session n = some x) (ht : t ≤ 1023) (hkey : keyable s t = true)
    (hbound : boundSession s n x t = true) : s.runRequest n (.tenantKey t key) = (s.tenantKeyed t key).keyAnswer x.fn 1 krOk [] := by
  simp only [State.runRequest, hx, if_neg (Nat.not_lt.2 ht), hkey, hbound, Bool.not_true, Bool.false_eq_true, if_false]
  rfl

/-- The tenant's key is there, and KEYSRC says that a session delivered it. -/
theorem tenantKeyed_reads (s : State) (t key fn op result : Nat) (more : List Byte) :
    mapFind ((s.tenantKeyed t key).keyAnswer fn op result more).dataKeys t = some key ∧
      ((s.tenantKeyed t key).keyAnswer fn op result more).fld Fd.SEC_TSTAT_KEYSRC t = 2 := by
  have hw := State.keyWrite_keeps ((s.putDataKey t key).setFld Fd.SEC_TSTAT_KEYSRC 2 t) t
  have ha := State.keyAnswer_keeps (s.tenantKeyed t key) fn op result more
  constructor
  · rw [ha.same .dataKeys (by decide), State.tenantKeyed, hw.same .dataKeys (by decide)]
    exact mapFind_mapIns_same ..
  · rw [fld_of (f := Fd.SEC_TSTAT_KEYSRC) (ha.same (.reg .SEC_TSTAT) (by decide)), State.tenantKeyed,
      fld_of (f := Fd.SEC_TSTAT_KEYSRC) (hw.same (.reg .SEC_TSTAT) (by decide))]
    exact State.fld_setFld_fits (k := .SEC_TSTAT) _ 2 t (by decide) (by decide)

/-- TENANT_SEAL that meets every condition of R632 seals the tenant. -/
theorem runRequest_tenantSeal {s : State} {n t ngrp rw : Nat} {gs : List Nat} {x : Session} (key : Nat) (hx : s.session n = some x)
    (hok : sealResult s n x t ngrp rw gs = krOk) :
    s.runRequest n (.tenantSeal t ngrp rw key gs) = (s.sealTenant x t ngrp rw key gs).keyAnswer x.fn 2 krOk [] := by
  simp only [State.runRequest, hx, hok, ne_eq, not_true_eq_false, if_false]

/-- QP_KEY of a FREE queue pair of an unsealed tenant of the session's host keeps the key. -/
theorem runRequest_qpKey {s : State} {n q : Nat} {x : Session} (key : Nat) (hx : s.session n = some x) (hq : q ≤ 65535) (hfree : (s.qp q).st = qpFree)
    (hbound : onBoundHost s x (s.qp q).tenant = true) (hsealed : tenantSealed s (s.qp q).tenant = false) :
    s.runRequest n (.qpKey q key) = ({ s with qpKeys := mapIns q key s.qpKeys } : State).keyAnswer x.fn 3 krOk [] := by
  simp only [State.runRequest, hx, if_neg (Nat.not_lt.2 hq), hfree, hbound, hsealed, ne_eq, not_true_eq_false, Bool.not_true, Bool.false_and, Bool.or_self,
    Bool.false_eq_true, if_false]

/-- GROUP_HKEY that meets its conditions gives the group its hash key. -/
theorem runRequest_groupHkey {s : State} {n g : Nat} {x : Session} (key : Nat) (hx : s.session n = some x) (hok : hkeyResult s x g = krOk) :
    s.runRequest n (.groupHkey g key) = ((({ s with nsKeys := mapIns (1024 + g) (BitVec.ofNat 128 key) s.nsKeys } : State).setFld
      Fd.SEC_GSTAT_HSET 1 g).keyWrite (1024 + g)).keyAnswer x.fn 4 krOk [] := by
  simp only [State.runRequest, hx, hok, ne_eq, not_true_eq_false, if_false]

/-- SEAL_QUERY on the bound host's function answers the tenant's seal. -/
theorem runRequest_sealQuery {s : State} {n t : Nat} {x : Session} (hx : s.session n = some x) (ht : t ≤ 1023) (hbound : onBoundHost s x t = true) :
    s.runRequest n (.sealQuery t) = s.keyAnswer x.fn 5 krOk (sealAnswer s x t) := by
  simp only [State.runRequest, hx, if_neg (Nat.not_lt.2 ht), hbound, Bool.not_true, Bool.false_eq_true, if_false]

/-- PQ_SIGN signs the last transcript of its connection. -/
theorem runRequest_pqSign {s : State} {fn : Nat} {h : List Byte} (hsigned : mapFind s.signed fn = some h) :
    s.runRequest fn .pqSign = s.keyAnswer fn 6 krOk (Config.pqSign (pqSeed (topCdi s)) h) := by
  simp only [State.runRequest, hsigned]

/-- GENERATE of a CONFIGURED tenant that is neither sealed nor keyed makes a key (R658). -/
theorem opTenantKeyGenerate_makes {s : State} {v : Word} {t : Nat} (ht : t = bitsOf v 25 16) (hst : s.tstate t = TState.configured.code)
    (hnokey : (s.setFld Fd.SEC_TKEY_TENANT t).fld Fd.SEC_TSTAT_KEYSRC t = 0) (hsealed : tenantSealed s t = false) :
    opTenantKeyGenerate v s = ((((s.setFld Fd.SEC_TKEY_TENANT t).newDataKey t).keyWrite t).setFld Fd.SEC_TSTAT_KEYSRC 1 t).setFld Fd.SEC_TKEY_ERR 0 := by
  have hst' : (s.setFld Fd.SEC_TKEY_TENANT t).tstate t = TState.configured.code := (State.fld_setFld_reg _ _ _ _ _ _ (by decide)).trans hst
  have hsealed' : tenantSealed (s.setFld Fd.SEC_TKEY_TENANT t) t = false := by
    rw [tenantSealed, State.flag, State.fld_setFld_reg _ _ _ _ _ _ (by decide)]
    exact hsealed
  simp only [opTenantKeyGenerate, ← ht, hst', hsealed', hnokey, ne_eq, not_true_eq_false, Bool.false_eq_true, if_false]

/-- Settles O22: each request by the branch that its conditions pick, and what that branch leaves. -/
theorem keysAndSessionsComplete : Obligations.KeysAndSessionsComplete := by
  refine ⟨?digests, ?discovery, ?certificate, ?chain, ?signed, ?session, ?ide, ?lock, ?start, ?tenantKey, ?sealing, ?qpKey, ?groupKey, ?sealQuery, ?pqSign,
    ?generate⟩
  case digests => exact fun s fn => rfl
  case discovery =>
    exact fun s fn i h => completes_next (congrArg Host.Outcome.next (opSpdmRequest_discovery s i h)) ⟨rfl, (State.emit_keeps ..).changesOnly (by decide +kernel)⟩
  case certificate => exact fun s fn slot h => congrArg Host.Outcome.next (opSpdmRequest_certificate s fn.val h)
  case chain => exact fun s slot => rfl
  case signed =>
    intro s fn i nonce h
    exact completes_next (congrArg Host.Outcome.next (opSpdmRequest_signed s fn.val nonce h)) (signedAnswer_effect ..)
  case session =>
    intro s fn n m chain h
    exact completes_next (congrArg Host.Outcome.next (opSpdmRequest_keyExchange fn.val m chain h))
      ⟨mapFind_mapIns_same .., spdm_after _ _ ((upd_sessions s _).mono (by decide +kernel))⟩
  case ide =>
    intro s n stream key l x hx hlink hstream
    obtain ⟨hkey, hide⟩ := streamKeyed_reads s l.val stream key
    exact completes_next (congrArg Host.Outcome.next (opIdeKmKeyProg_installs key hx hlink hstream))
      ⟨hkey, hide, spdm_after _ _ (streamKeyed_keeps ..)⟩
  case lock =>
    intro s n x hx hst hcompat
    exact completes_next (congrArg Host.Outcome.next (opTdispRequest_locks hx hst hcompat))
      ⟨tdi_mapIns .., spdm_after _ _ ((upd_tdis s _).mono (by decide +kernel))⟩
  case start =>
    intro s n x hx hst hsession
    exact completes_next (congrArg Host.Outcome.next (opTdispRequest_starts hx hst hsession))
      ⟨congrArg Tdi.st (tdi_mapIns ..), spdm_after _ _ ((upd_tdis s _).mono (by decide +kernel))⟩
  case tenantKey =>
    intro s n t key x hfree hx ht hkey hbound
    exact completes_next (congrArg Host.Outcome.next ((request_runs n _ hfree).trans (runRequest_tenantKey key hx ht hkey hbound)))
      ⟨rfl, tenantKeyed_reads ..⟩
  case sealing =>
    exact fun s n t ngrp rw key gs x hfree hx hok =>
      congrArg Host.Outcome.next ((request_runs n _ hfree).trans (runRequest_tenantSeal key hx hok))
  case qpKey =>
    exact fun s n q key x hfree hx hq hst hbound hsealed =>
      congrArg Host.Outcome.next ((request_runs n _ hfree).trans (runRequest_qpKey key hx hq hst hbound hsealed))
  case groupKey =>
    exact fun s n g key x hfree hx hok => congrArg Host.Outcome.next ((request_runs n _ hfree).trans (runRequest_groupHkey key hx hok))
  case sealQuery =>
    exact fun s n t x hfree hx ht hbound => congrArg Host.Outcome.next ((request_runs n _ hfree).trans (runRequest_sealQuery hx ht hbound))
  case pqSign =>
    exact fun s fn h hfree hsigned => congrArg Host.Outcome.next ((request_runs fn.val _ hfree).trans (runRequest_pqSign hsigned))
  case generate => exact fun s v hst hnokey hsealed => congrArg Host.Outcome.next (opTenantKeyGenerate_makes rfl hst hnokey hsealed)

end Sys2Proof.Machine

/-!
The step as a whole: it runs the command in front of the queue, and no command touches the queue or the fuses (`spec/95_what_each_step_holds.md`).
-/
namespace Sys2Proof.Machine

/-- Settles O28: the queue that the command leaves is the one that it was put in front of. -/
theorem stepRunsTheCommandInFront : Obligations.StepRunsTheCommandInFront := fun _ _ => rfl

/-- Settles O30: neither the queue nor the fuses lie within what a command may change. -/
theorem queueAndFusesStandOutsideTheCommands : Obligations.QueueAndFusesStandOutsideTheCommands := by
  intro i s t h
  have k : Keeps commandMask s t := exec_answersWithin i s t h
  exact ⟨k.same .pending (by decide +kernel), k.same .fuses (by decide +kernel)⟩

end Sys2Proof.Machine

/-!
Choices and conditions that the model decides by one function: what an event merges into (R738), the unit that collection takes (R550),
and what refuses the start of a sealed tenant (R634).
-/
namespace Sys2Proof.Machine

/-- The records that an event merges into. -/
theorem mergesWith_iff {now code island : Nat} {tenant : Option Nat} {r : LogRec} :
    mergesWith now code island tenant r = true ↔ r.code = code ∧ r.island = island ∧ r.tenant = tenant ∧ now ≤ r.dtime + 1000000 := by
  simp only [mergesWith, Bool.and_eq_true, beq_iff_eq, decide_eq_true_eq, and_assoc]

/-- An event that equals a record of the last 1 ms merges. -/
theorem logEv_merges {s : State} {code island : Nat} {tenant : Option Nat} (h : s.log.any (mergesWith s.dtime code island tenant) = true)
    (sev a0 a1 : Nat) :
    s.logEv code sev island tenant a0 a1 = { s with log := mergeNewest (mergesWith s.dtime code island tenant) s.log } := if_pos h

/-- Settles O47: a merge is an update of LOG alone, of the newest record that the event equals; without one the event is the ring's last record. -/
theorem repeatedEventsMerge : Obligations.RepeatedEventsMerge := by
  refine ⟨?repeated, ?fresh⟩
  case repeated =>
    intro s code sev island a0 a1 tenant r hr hcode hisland htenant htime
    have hany : s.log.any (mergesWith s.dtime code island tenant) = true :=
      List.any_eq_true.2 ⟨r, hr, mergesWith_iff.2 ⟨hcode, hisland, htenant, htime⟩⟩
    obtain ⟨before, x, after, hsplit, hx, _, hmerge⟩ := mergeNewest_split _ _ hany
    obtain ⟨xcode, xisland, xtenant, xtime⟩ := mergesWith_iff.1 hx
    rw [logEv_merges hany]
    exact ⟨before, x, after, hsplit, xcode, xisland, xtenant, xtime, hmerge, 
      (upd_log (s := s) _ fun i => by rw [mergeNewest_length]; exact i.log).changesOnly (by decide +kernel)⟩
  case fresh =>
    intro s code sev island a0 a1 tenant hold
    have hnone : ¬ s.log.any (mergesWith s.dtime code island tenant) = true := by
      rw [List.any_eq_true]
      rintro ⟨r, hr, hm⟩
      obtain ⟨rcode, risland, rtenant, rtime⟩ := mergesWith_iff.1 hm
      exact absurd rtime (Nat.not_le.2 (hold r hr rcode risland rtenant))
    exact (congrArg State.log (if_neg hnone)).trans (logAppend_log ..)

/-- A unit that collection may take as its victim (R550). -/
def EraseUnit.mayBeVictim (s : State) (g : FlashGeo) (e : Nat × EraseUnit) : Bool :=
  unitInCache s g e.1 && !unitGone s g e.1 && decide (0 < e.2.written) && e.2.opened.isNone && !e.2.pend && !e.2.failed && !s.victims.contains e.1

/-- What a unit needs to be a victim, one by one. -/
theorem EraseUnit.mayBeVictim_iff {s : State} {g : FlashGeo} {e : Nat × EraseUnit} :
    EraseUnit.mayBeVictim s g e = true ↔ unitInCache s g e.1 = true ∧ unitGone s g e.1 = false ∧ 0 < e.2.written ∧ e.2.opened = none ∧
      e.2.pend = false ∧ e.2.failed = false ∧ e.1 ∉ s.victims := by
  simp only [EraseUnit.mayBeVictim, Bool.and_eq_true, Bool.not_eq_true', decide_eq_true_eq, Option.isNone_iff_eq_none, List.contains_eq_mem,
    decide_eq_false_iff_not, and_assoc]

/-- Settles O53: the choice is a best unit of those that may be victims, and is made where there is one; which units may be is R550 with log entry 77. -/
theorem collectionTakesTheEmptiestUnit : Obligations.CollectionTakesTheEmptiestUnit := by
  refine ⟨?victim, ?some⟩
  case victim =>
    intro s g u hu
    obtain ⟨⟨n, x⟩, hx, hok, hbest, rfl⟩ := (victim_best s g).1 u hu
    obtain ⟨hcache, hgone, _, hopen, hpend, _, hvictim⟩ := EraseUnit.mayBeVictim_iff.1 hok
    refine ⟨x, hx, hcache, hgone, hopen, hpend, hvictim, ?_⟩
    intro e he ecache egone ewritten eopen epend efailed evictim
    have hnot := hbest e he (EraseUnit.mayBeVictim_iff.2 ⟨ecache, egone, ewritten, eopen, epend, efailed, evictim⟩)
    simp only at hnot ⊢
    omega
  case some =>
    intro s g e he ecache egone ewritten eopen epend efailed evictim
    have hok : EraseUnit.mayBeVictim s g e = true := EraseUnit.mayBeVictim_iff.2 ⟨ecache, egone, ewritten, eopen, epend, efailed, evictim⟩
    rw [Option.isSome_iff_ne_none]
    intro hnone
    exact absurd hok (by simpa [EraseUnit.mayBeVictim] using (victim_best s g).2 hnone e he)

/-- What the check of a sealed tenant asks (R634), one by one. -/
theorem sealCondition_iff {s : State} {t : Nat} :
    sealCondition s t = true ↔ tdiLocked s (s.hostOf t) = true ∧ some (s.tdi (s.hostOf t)).req = mapFind s.sealReq t ∧
      linkCondition s (s.hostOf t) = true ∧ s.flag Fd.SPL_CFG_CRCREQ t = true ∧
      membershipsWithin s t (sealGroups s t) (s.fld Fd.SEC_TSTAT_SEALRW t) = true := by
  simp only [sealCondition, Bool.and_eq_true, beq_iff_eq, and_assoc]

/-- A sealed tenant that nothing else refuses starts exactly as R634 says. -/
theorem startError_sealed {s : State} {t : Nat} {needed : TState} (hstate : s.tstate t = needed.code) (hkey : s.fld Fd.SEC_TSTAT_KEYSRC t ≠ 0)
    (hsq : sqGrant s t 0 ≠ 0) (hcq : cqGrant s t 0 ≠ 0) (hgroups : membershipsValid s t = true)
    (hwindow : s.compat = true ∨ windowGiven s t = true) (hsealed : tenantSealed s t = true) :
    startError s t needed = if sealCondition s t = true then 0 else 7 := by
  have hwin : ¬ (!s.compat && !windowGiven s t) = true := by rcases hwindow with h | h <;> simp [h]
  unfold startError
  rw [if_neg (not_not_intro hstate), if_neg hkey, if_neg (not_or.2 ⟨hsq, hcq⟩), if_neg (by simp [hgroups]), if_neg hwin]
  cases hc : sealCondition s t <;> simp [hsealed]

/-- An action that R107 refuses shows its error, leaves the tenant's state, and writes TNT_CTRL and TNT_STATE alone. -/
theorem startTenant_refused {s : State} {t : Nat} {v : Word} {needed : TState} {e : Nat} (h : startError (s.writeTntCtrl t v) t needed = e)
    (he : 0 < e) (he8 : e < 8) :
    ∃ w, (s.writeTntCtrl t v).startTenant t needed = w ∧ w.tstate t = (s.writeTntCtrl t v).tstate t ∧ w.fld Fd.TNT_STATE_ACTERR t = e ∧
      ChangesOnly [.reg .TNT_CTRL, .reg .TNT_STATE] s w := by
  refine ⟨(s.writeTntCtrl t v).actErr t e, ?_, tstate_actErr .., acterr_actErr _ _ _ he8, ?_⟩
  · subst h
    exact if_pos (Nat.ne_of_gt he)
  · exact (((State.writeTntCtrl_keeps s t v).mono (by decide +kernel)).step (State.actErr_keeps ..) (by decide +kernel)).changesOnly (Nat.or_self _)

/-- Where nothing else refuses it, an action that starts a sealed tenant does so exactly under the seal's conditions, and else shows code 7. -/
theorem sealedStart_decided {s : State} {t : Nat} {v : Word} {needed : TState} {i : Instr}
    (hi : exec i s = .next ((s.writeTntCtrl t v).startTenant t needed)) (hstate : (s.writeTntCtrl t v).tstate t = needed.code)
    (herr : startError (s.writeTntCtrl t v) t needed = if sealCondition (s.writeTntCtrl t v) t = true then 0 else 7) :
    (sealCondition (s.writeTntCtrl t v) t = true → Completes i s fun w => w.tstate t = TState.active.code ∧ w.fld Fd.TNT_STATE_ACTERR t = 0) ∧
      (¬ sealCondition (s.writeTntCtrl t v) t = true → Completes i s fun w => w.tstate t = needed.code ∧ w.fld Fd.TNT_STATE_ACTERR t = 7 ∧
        ChangesOnly [.reg .TNT_CTRL, .reg .TNT_STATE] s w) := by
  refine ⟨fun hc => ?_, fun hc => ?_⟩
  · rw [if_pos hc] at herr
    exact completes_next (hi.trans (congrArg Host.Outcome.next (startTenant_starts herr))) (toState_noError ..)
  · rw [if_neg hc] at herr
    obtain ⟨w, hw, hkept, hact, honly⟩ := startTenant_refused herr (by decide) (by decide)
    exact completes_next (hi.trans (congrArg Host.Outcome.next hw)) ⟨hkept.trans hstate, hact, honly⟩

/-- Settles O55: what decides is the last of R107's checks, which asks R634's conditions; its refusal is code 7. -/
theorem sealedTenantsStartOnlyAsSealed : Obligations.SealedTenantsStartOnlyAsSealed := by
  refine ⟨?activate, ?enable⟩
  case activate =>
    rintro s u t v rfl hstate hkey hsq hcq hgroups hwindow hsealed
    rw [← sealCondition_iff]
    exact sealedStart_decided rfl hstate (startError_sealed hstate hkey hsq hcq hgroups hwindow hsealed)
  case enable =>
    rintro s u t v rfl hstate hkey hsq hcq hgroups hwindow hsealed
    rw [← sealCondition_iff]
    exact sealedStart_decided rfl hstate (startError_sealed hstate hkey hsq hcq hgroups hwindow hsealed)

end Sys2Proof.Machine

/-!
Frames of the Shuttle, of flash and faults, of keys and the mailbox, and of power and reset: each row of these claims is its
operation, whose frame the laws give.
-/
namespace Sys2Proof.Machine

/-- Two frames one after the other leave what lies outside both of their masks. -/
theorem Keeps.unchanged_then {w v : Nat} {l : List Part} {s t u : State} (k : Keeps w s t) (k' : Keeps v t u)
    (hl : ∀ p ∈ l, w.testBit p.idx = false ∧ v.testBit p.idx = false) : Unchanged l s u :=
  fun p hp => p.same_trans (k.same p (hl p hp).1) (k'.same p (hl p hp).2)

/-- Settles O41: every row is its operation, whose frame lies within the list stated. -/
theorem shuttleFrames : Obligations.ShuttleFrames := by
  refine ⟨?shuttlePortLink, ?arpRequest, ?neighbourSolicitation, ?icmpEchoRequest, ?pfcFrame, ?ptpEventMessage, ?qpRead, ?qpWrite, ?qpActivate,
    ?qpError, ?qpReset, ?qpControlWrite, ?wrSend, ?wrPut, ?wrCompareSwap, ?wrFetchAdd, ?wrReduce, ?wrFlush, ?wrNop, ?wrWaitSatisfied, ?shuttleSend,
    ?shuttlePut, ?nmoReq, ?nmoResp, ?flushReq, ?flushResp, ?shuttleAck, ?shuttleNak, ?ackTimer, ?retxTimeout, ?rnrRetryTimer, ?faultRetryTimer,
    ?placementFaultTimeout, ?pageRequestResponse, ?atsInvalidation, ?receiveComplete, ?cqEntryWrite, ?otherReceivedFrame⟩
  case shuttlePortLink => exact fun s port state => mayChange_of_keeps (opShuttlePortLink_keeps port.val state.val s) rfl
  case arpRequest => exact fun s port target => mayChange_of_keeps (opArpRequest_keeps port.val target.toNat s) rfl
  case neighbourSolicitation => exact fun s port target => mayChange_of_keeps (opNeighbourSolicitation_keeps port.val target.toNat s) rfl
  case icmpEchoRequest => exact fun s port v6 dst bytes => mayChange_of_keeps (opIcmpEchoRequest_keeps port.val v6 dst.toNat bytes s) rfl
  case pfcFrame => exact fun s port enables quanta => mayChange_of_keeps (opPfcFrame_keeps port.val enables.toNat quanta s) rfl
  case ptpEventMessage => exact fun s msg now => mayChange_at (opPtpEventMessage_keeps msg (s.at_ now)) rfl
  case qpRead => exact fun s qpn => mayChange_of_keeps (opQpRead_keeps qpn.val s) rfl
  case qpWrite => exact fun s qpn => mayChange_of_keeps (opQpWrite_keeps qpn.val s) rfl
  case qpActivate => exact fun s qpn => mayChange_of_keeps (opQpActivate_keeps qpn.val s) rfl
  case qpError => exact fun s qpn => mayChange_of_keeps (opQpError_keeps qpn.val s) rfl
  case qpReset => exact fun s qpn => mayChange_of_keeps (opQpReset_keeps qpn.val s) rfl
  case qpControlWrite => exact fun s host qpn word value => mayChange_of_keeps (opQpControlWrite_keeps host.val qpn.val word.val value s) rfl
  case wrSend => exact fun s qpn hostMem fault => mayChange_of_keeps (opWrSend_keeps qpn.val hostMem fault s) rfl
  case wrPut => exact fun s qpn hostMem fault => mayChange_of_keeps (opWrPut_keeps qpn.val hostMem fault s) rfl
  case wrCompareSwap => exact fun s qpn => mayChange_of_keeps (opWrCompareSwap_keeps qpn.val s) rfl
  case wrFetchAdd => exact fun s qpn => mayChange_of_keeps (opWrFetchAdd_keeps qpn.val s) rfl
  case wrReduce => exact fun s qpn hostMem fault => mayChange_of_keeps (opWrReduce_keeps qpn.val hostMem fault s) rfl
  case wrFlush => exact fun s qpn => mayChange_of_keeps (opWrFlush_keeps qpn.val s) rfl
  case wrNop => exact fun s qpn => mayChange_of_keeps (opWrNop_keeps qpn.val s) rfl
  case wrWaitSatisfied => exact fun s qpn hostMem fault => mayChange_of_keeps (opWrWaitSatisfied_keeps qpn.val hostMem fault s) rfl
  case shuttleSend => exact fun s port src udp pkt fault => mayChange_of_keeps (opShuttleSend_keeps port.val src.toNat udp pkt fault s) rfl
  case shuttlePut => exact fun s port src udp pkt => mayChange_of_keeps (opShuttlePut_keeps port.val src.toNat udp pkt s) rfl
  case nmoReq => exact fun s port src udp pkt => mayChange_of_keeps (opNmoReq_keeps port.val src.toNat udp pkt s) rfl
  case nmoResp => exact fun s port src udp pkt => mayChange_of_keeps (opNmoResp_keeps port.val src.toNat udp pkt s) rfl
  case flushReq => exact fun s port src udp pkt => mayChange_of_keeps (opFlushReq_keeps port.val src.toNat udp pkt s) rfl
  case flushResp => exact fun s port src udp pkt => mayChange_of_keeps (opFlushResp_keeps port.val src.toNat udp pkt s) rfl
  case shuttleAck => exact fun s port src udp pkt => mayChange_of_keeps (opShuttleAck_keeps port.val src.toNat udp pkt s) rfl
  case shuttleNak => exact fun s port src udp pkt => mayChange_of_keeps (opShuttleNak_keeps port.val src.toNat udp pkt s) rfl
  case ackTimer => exact fun s qpn => mayChange_of_keeps (opAckTimer_keeps qpn.val s) rfl
  case retxTimeout => exact fun s qpn => mayChange_of_keeps (opRetxTimeout_keeps qpn.val s) rfl
  case rnrRetryTimer => exact fun s qpn psn => mayChange_of_keeps (opRnrRetryTimer_keeps qpn.val psn.val s) rfl
  case faultRetryTimer => exact fun s qpn psn => mayChange_of_keeps (opFaultRetryTimer_keeps qpn.val psn.val s) rfl
  case placementFaultTimeout => exact fun s qpn psn => mayChange_of_keeps (opPlacementFaultTimeout_keeps qpn.val psn.val s) rfl
  case pageRequestResponse => exact fun s qpn rx ok hostMem => mayChange_of_keeps (opPageRequestResponse_keeps qpn.val rx ok hostMem s) rfl
  case atsInvalidation =>
    exact fun s host pasid firstPage pages => mayChange_of_keeps (opAtsInvalidation_keeps host.val pasid.toNat firstPage pages s) rfl
  case receiveComplete => exact fun s qpn msn => mayChange_of_keeps (opReceiveComplete_keeps qpn.val msn.val s) rfl
  case cqEntryWrite => exact fun s qpn => mayChange_of_keeps (opCqEntryWrite_keeps qpn.val s) rfl
  case otherReceivedFrame => exact fun s => mayChange_of_keeps (opOtherReceivedFrame_keeps s) rfl

/-- Settles O42: every row is its operation, whose frame lies within the list stated. -/
theorem flashAndFaultFrames : Obligations.FlashAndFaultFrames := by
  refine ⟨?flashOpComplete, ?journalFlush, ?mapCheckpoint, ?slcTargetRecompute, ?gcStepRecompute, ?gcStart, ?imageMove, ?unitErase, ?fold,
    ?unitRetire, ?targetFailed, ?flashTempPoll, ?flashRetrain, ?powerFailFlush, ?scrubRow, ?stackLost, ?rebuildCopyStart, ?rebuildComplete,
    ?selftest, ?selftestDone, ?retireStack, ?retireCore, ?coreRetire, ?knownAnswerTest, ?stewardHeartbeat, ?stewardRecovered, ?capsuleSnapshot,
    ?capsuleReadSummary, ?capsuleReadPiece, ?rebuildWaitingForSpace⟩
  case flashOpComplete => exact fun s op => mayChange_of_keeps (opFlashOpComplete_keeps op s) rfl
  case journalFlush => exact fun s wrap => mayChange_of_keeps (opJournalFlush_keeps wrap s) rfl
  case mapCheckpoint => exact fun s now => mayChange_of_keeps (opMapCheckpoint_keeps now s) rfl
  case slcTargetRecompute => exact fun s => mayChange_of_keeps (opSlcTargetRecompute_keeps s) rfl
  case gcStepRecompute => exact fun s => mayChange_of_keeps (opGcStepRecompute_keeps s) rfl
  case gcStart => exact fun s channel idleUs => mayChange_of_keeps (opGcStart_keeps idleUs s) rfl
  case imageMove => exact fun s handle layer readOk => mayChange_of_keeps (opImageMove_keeps handle.val layer.val readOk s) rfl
  case unitErase => exact fun s unit ok => mayChange_of_keeps (opUnitErase_keeps unit ok s) rfl
  case fold => exact fun s handle layer readOk => mayChange_of_keeps (opFold_keeps handle.val layer.val readOk s) rfl
  case unitRetire => exact fun s unit => mayChange_of_keeps (opUnitRetire_keeps unit s) rfl
  case targetFailed => exact fun s channel ce => mayChange_of_keeps (opTargetFailed_keeps channel.val ce.val s) rfl
  case flashTempPoll => exact fun s temps => mayChange_of_keeps (opFlashTempPoll_keeps temps s) rfl
  case flashRetrain => exact fun s channel ce => mayChange_of_keeps (opFlashRetrain_keeps channel.val ce.val s) rfl
  case powerFailFlush => exact fun s flushUs saved sealWhole now => mayChange_at (opPowerFailFlush_keeps flushUs saved sealWhole (s.at_ now)) rfl
  case scrubRow => exact fun s row now => mayChange_at (opScrubRow_keeps row (s.at_ now)) rfl
  case stackLost => exact fun s stack cause => mayChange_of_keeps (opStackLost_keeps stack.val (cause.val + 1) s) rfl
  case rebuildCopyStart => exact fun s => mayChange_of_keeps (opRebuildCopyStart_keeps s) rfl
  case rebuildComplete => exact fun s => mayChange_of_keeps (opRebuildComplete_keeps s) rfl
  case selftest => exact fun s value => mayChange_of_keeps (opSelftest_keeps value s) rfl
  case selftestDone => exact fun s pass => mayChange_of_keeps (opSelftestDone_keeps pass s) rfl
  case retireStack => exact fun s value => mayChange_of_keeps (opRetireStack_keeps value s) rfl
  case retireCore => exact fun s value => mayChange_of_keeps (opRetireCore_keeps value s) rfl
  case coreRetire => exact fun s core cause => mayChange_of_keeps (opCoreRetire_keeps core.val (cause.val + 1) s) rfl
  case knownAnswerTest => exact fun s core ok => mayChange_of_keeps (opKnownAnswerTest_keeps core.val ok s) rfl
  case stewardHeartbeat => exact fun s steward alive now => mayChange_at (opStewardHeartbeat_keeps steward.val alive (s.at_ now)) rfl
  case stewardRecovered => exact fun s steward => mayChange_of_keeps (opStewardRecovered_keeps steward.val s) rfl
  case capsuleSnapshot => exact fun s now => mayChange_at (opCapsuleSnapshot_keeps (s.at_ now)) rfl
  case capsuleReadSummary => exact fun s fn => mayChange_of_keeps (opCapsuleReadSummary_keeps fn.val s) rfl
  case capsuleReadPiece => exact fun s fn piece => mayChange_of_keeps (opCapsuleReadPiece_keeps fn.val piece.val s) rfl
  case rebuildWaitingForSpace => exact fun s now => mayChange_at (opRebuildWaitingForSpace_keeps (s.at_ now)) rfl

/-- Settles O43: every row is its operation, whose frame lies within the list stated. -/
theorem keyAndMailboxFrames : Obligations.KeyAndMailboxFrames := by
  refine ⟨?spdmRequest, ?ideKmKeyProg, ?tdispRequest, ?tenantKey, ?tenantSeal, ?qpKey, ?groupHkey, ?sealQuery, ?pqSign, ?tenantKeyGenerate,
    ?lifecycleChallenge, ?lifecycleAdvance, ?cryptoEraseComplete, ?fwStageErase, ?fwStageWrite, ?fwStageVerify, ?fwSelect, ?fwCommitSvn, ?fwQuery,
    ?pldmFirmwareUpdate, ?calRead, ?calWrite, ?healthGet, ?getHealthInfo, ?getPoisonList, ?clearPoison, ?getEventRecords, ?clearEventRecords,
    ?identifyMemoryDevice, ?getLog, ?getTimestamp, ?setTimestamp, ?unsupportedMailboxCommand, ?tenantReset, ?islandReset, ?platformEventRead,
    ?setEventInterruptPolicy⟩
  case spdmRequest => exact fun s fn req => mayChange_of_keeps (opSpdmRequest_keeps fn.val req s) rfl
  case ideKmKeyProg => exact fun s session link stream key => mayChange_of_keeps (opIdeKmKeyProg_keeps session link.val stream key s) rfl
  case tdispRequest => exact fun s session req => mayChange_of_keeps (opTdispRequest_keeps session req.val s) rfl
  case tenantKey => exact fun s session tenant key => mayChange_of_keeps (opTenantKey_keeps session tenant key s) rfl
  case tenantSeal =>
    exact fun s session tenant ngrp grprw key groups => mayChange_of_keeps (opTenantSeal_keeps session tenant ngrp grprw key groups s) rfl
  case qpKey => exact fun s session qpn key => mayChange_of_keeps (opQpKey_keeps session qpn key s) rfl
  case groupHkey => exact fun s session group key => mayChange_of_keeps (opGroupHkey_keeps session group key s) rfl
  case sealQuery => exact fun s session tenant => mayChange_of_keeps (opSealQuery_keeps session tenant s) rfl
  case pqSign => exact fun s fn => mayChange_of_keeps (opPqSign_keeps fn.val s) rfl
  case tenantKeyGenerate => exact fun s value => mayChange_of_keeps (opTenantKeyGenerate_keeps value s) rfl
  case lifecycleChallenge => exact fun s fn => mayChange_of_keeps (opLifecycleChallenge_keeps fn.val s) rfl
  case lifecycleAdvance => exact fun s fn payload => mayChange_of_keeps (opLifecycleAdvance_keeps fn.val payload s) rfl
  case cryptoEraseComplete => exact fun s => mayChange_of_keeps (opCryptoEraseComplete_keeps s) rfl
  case fwStageErase => exact fun s fn => mayChange_of_keeps (opFwStageErase_keeps fn.val s) rfl
  case fwStageWrite => exact fun s fn offset bytes => mayChange_of_keeps (opFwStageWrite_keeps fn.val offset bytes s) rfl
  case fwStageVerify => exact fun s fn => mayChange_of_keeps (opFwStageVerify_keeps fn.val s) rfl
  case fwSelect => exact fun s fn => mayChange_of_keeps (opFwSelect_keeps fn.val s) rfl
  case fwCommitSvn => exact fun s fn => mayChange_of_keeps (opFwCommitSvn_keeps fn.val s) rfl
  case fwQuery => exact fun s fn => mayChange_of_keeps (opFwQuery_keeps fn.val s) rfl
  case pldmFirmwareUpdate => exact fun s phase offset bytes => mayChange_of_keeps (opPldmFirmwareUpdate_keeps phase.val offset bytes s) rfl
  case calRead => exact fun s fn offset size => mayChange_of_keeps (opCalRead_keeps fn.val offset size s) rfl
  case calWrite => exact fun s fn offset bytes => mayChange_of_keeps (opCalWrite_keeps fn.val offset bytes s) rfl
  case healthGet => exact fun s fn => mayChange_of_keeps (opHealthGet_keeps fn.val s) rfl
  case getHealthInfo => exact fun s fn => mayChange_of_keeps (opGetHealthInfo_keeps fn.val s) rfl
  case getPoisonList => exact fun s fn => mayChange_of_keeps (opGetPoisonList_keeps fn.val s) rfl
  case clearPoison => exact fun s fn addr bytes => mayChange_of_keeps (opClearPoison_keeps fn.val addr bytes s) rfl
  case getEventRecords => exact fun s fn owner log => mayChange_of_keeps (opGetEventRecords_keeps fn.val owner.val log.val s) rfl
  case clearEventRecords =>
    exact fun s fn owner log all handles => mayChange_of_keeps (opClearEventRecords_keeps fn.val owner.val log.val all handles s) rfl
  case identifyMemoryDevice => exact fun s fn => mayChange_of_keeps (opIdentifyMemoryDevice_keeps fn.val s) rfl
  case getLog => exact fun s fn vendor first count => mayChange_of_keeps (opGetLog_keeps fn.val vendor first count s) rfl
  case getTimestamp => exact fun s fn => mayChange_of_keeps (opGetTimestamp_keeps fn.val s) rfl
  case setTimestamp => exact fun s fn value => mayChange_of_keeps (opSetTimestamp_keeps fn.val value s) rfl
  case unsupportedMailboxCommand => exact fun s fn opcode action => mayChange_of_keeps (opUnsupportedMailboxCommand_keeps fn.val opcode action s) rfl
  case tenantReset => exact fun s value => mayChange_of_keeps (opTenantReset_keeps value s) rfl
  case islandReset => exact fun s value now => mayChange_at (opIslandReset_keeps value (s.at_ now)) rfl
  case platformEventRead => exact fun s => mayChange_of_keeps (opPlatformEventRead_keeps s) rfl
  case setEventInterruptPolicy => exact fun s fn modes => mayChange_of_keeps (opSetEventInterruptPolicy_keeps fn.val modes s) rfl

/-- A TAP instruction that answers a next state is the operation of R719. -/
theorem jtagInstruction_next {s t : State} {op : JtagOp} {pins cells : List Bool} (h : exec (.jtagInstruction op pins cells) s = .next t) :
    t = opJtagInstruction op pins cells s := by
  change execJtagInstruction op pins cells s = _ at h
  unfold execJtagInstruction at h
  split at h
  · split at h
    · exact nomatch h
    · exact (Host.Outcome.next.inj h).symm
  · exact (Host.Outcome.next.inj h).symm

/-- Settles O44: every row is its operation, whose frame lies within the list stated. -/
theorem powerAndResetFrames : Obligations.PowerAndResetFrames := by
  refine ⟨?dtimeSet, ?ringTimeExchange, ?ppsPulse, ?powerSample, ?clockAdjust, ?thermalStep, ?thermalTrip, ?quietEntry, ?standbyEntry, ?standbyExit,
    ?perstAssert, ?powerOn, ?startup, ?mediaReady, ?startupRebuildDone, ?watchdogExpiry, ?functionReset, ?flr, ?pwrFailNDeassert,
    ?railLeavesRegulation, ?suppliesRemoved, ?systemReferenceLost, ?jtagInstruction⟩
  case dtimeSet => exact fun s value => mayChange_of_keeps (opDtimeSet_keeps value s) rfl
  case ringTimeExchange => exact fun s offset neighbour now => mayChange_at (opRingTimeExchange_keeps offset neighbour (s.at_ now)) rfl
  case ppsPulse => exact fun s now => mayChange_at (opPpsPulse_keeps (s.at_ now)) rfl
  case powerSample =>
    exact fun s avgW peakW hbmW cdW avs0 avs1 now => mayChange_at (opPowerSample_keeps avgW peakW hbmW cdW avs0 avs1 (s.at_ now)) rfl
  case clockAdjust => exact fun s island seamPct now => mayChange_at (opClockAdjust_keeps island.val seamPct.val (s.at_ now)) rfl
  case thermalStep => exact fun s cd0 cd1 xd stackTemps now => mayChange_at (opThermalStep_keeps cd0 cd1 xd stackTemps (s.at_ now)) rfl
  case thermalTrip => exact fun s die temp => mayChange_of_keeps (opThermalTrip_keeps die temp s) rfl
  case quietEntry => exact fun s idleUs now => mayChange_at (opQuietEntry_keeps idleUs (s.at_ now)) rfl
  case standbyEntry => exact fun s now => mayChange_at (opStandbyEntry_keeps (s.at_ now)) rfl
  case standbyExit => exact fun s now => mayChange_at (opStandbyExit_keeps (s.at_ now)) rfl
  case perstAssert => exact fun s now => mayChange_at (opPerstAssert_keeps (s.at_ now)) rfl
  case powerOn => exact fun s => mayChange_of_keeps (opPowerOn_keeps s) rfl
  case startup =>
    intro s found now t h
    obtain rfl := Host.Outcome.next.inj h
    exact (upd_dtime s _).unchanged_then (opStartup_keeps found (s.at_ now)) (by decide)
  case mediaReady => exact fun s ms now => mayChange_at (opMediaReady_keeps ms (s.at_ now)) rfl
  case startupRebuildDone => exact fun s => mayChange_of_keeps (opStartupRebuildDone_keeps s) rfl
  case watchdogExpiry => exact fun s now => mayChange_at (opWatchdogExpiry_keeps (s.at_ now)) rfl
  case functionReset =>
    intro s t h
    obtain rfl := Host.Outcome.next.inj h
    exact (opFunctionReset_keeps s).unchanged (by decide)
  case flr => exact fun s host => mayChange_of_keeps (opFlr_keeps host.val s) rfl
  case pwrFailNDeassert => exact fun s now => mayChange_at (opPwrFailNDeassert_keeps (s.at_ now)) rfl
  case railLeavesRegulation =>
    exact fun s inQuiesce flushUs saved sealWhole => mayChange_of_keeps (opRailLeavesRegulation_keeps inQuiesce flushUs saved sealWhole s) rfl
  case suppliesRemoved => exact fun s => mayChange_of_keeps (opSuppliesRemoved_keeps s) rfl
  case systemReferenceLost => exact fun s => mayChange_of_keeps (opSystemReferenceLost_keeps s) rfl
  case jtagInstruction =>
    exact fun s op pins cells t h => jtagInstruction_next h ▸ (opJtagInstruction_keeps op pins cells s).changesOnly (by decide +kernel)

end Sys2Proof.Machine

/-!
Ethernet ports, queue-pair actions, timers and completions (R486 to R488, R494 to R499, R505, R508 to R512, R518 to R520, R526).
-/
namespace Sys2Proof.Machine

/-! ### Queue pairs that an action puts back -/

/-- Another QP than the one put back is as it was. -/
theorem qp_setQp_ne (s : State) {q r : Nat} (x : Qp) (h : r ≠ q) : (s.setQp q x).qp r = s.qp r := by
  simp only [State.qp, State.setQp, mapFind_mapIns, if_neg (Ne.symm h)]

/-- SHT_QPQ shows an action, and changes no QP. -/
theorem qp_qpq (s : State) (q e r : Nat) : (s.qpq q e).qp r = s.qp r := by
  simp only [State.qp, (show (s.qpq q e).qps = s.qps from (State.qpq_keeps s q e).same .qps (by decide))]

/-- A QP that an action puts back and shows. -/
theorem qp_setQp_qpq (s : State) (q e : Nat) (x : Qp) : ((s.setQp q x).qpq q e).qp q = x := (qpq_qp ..).trans (qp_setQp ..)

/-- An action that puts a QP back and shows it changes nothing else. -/
theorem setQp_qpq_only (s : State) (q e : Nat) (x : Qp) : ChangesOnly [.qps, .reg .SHT_QPQ] s ((s.setQp q x).qpq q e) :=
  (((State.setQp_keeps s q x).mono (by decide +kernel)).step (State.qpq_keeps ..) (by decide +kernel)).changesOnly (Nat.or_self _)

/-- ACTIVATE that nothing refuses: the QP is READY at its initial PSNs with nothing in progress (R494, R495). -/
theorem opQpActivate_starts {s : State} {q : Nat} (h : activateError s q = 0) :
    opQpActivate q s =
      (s.setQp q { Qp.fresh (s.qp q).ctx with st := qpReady, snxt := (s.qp q).cf 1 55 32, cpsn := (s.qp q).cf 2 23 0 }).qpq q 0 :=
  if_neg (not_not_intro h)

/-- Settles O56: what ACTIVATE puts back is a fresh QP but for its state and its two PSNs. -/
theorem queuePairsStartAtTheirInitialPsns : Obligations.QueuePairsStartAtTheirInitialPsns := by
  intro s q h
  refine completes_next (congrArg Host.Outcome.next (opQpActivate_starts h)) ?_
  rw [qp_setQp_qpq]
  exact ⟨rfl, rfl, rfl, rfl, rfl, rfl, rfl, rfl, rfl, rfl, fun r hr => (qp_qpq ..).trans (qp_setQp_ne s _ hr)⟩

/-! ### The ports -/

/-- The state of a port's link is shown (R486). -/
theorem opShuttlePortLink_shows (s : State) (p : Nat) {st : Nat} (h : st < 3) : (opShuttlePortLink p st s).fld Fd.SHT_PORTST_STATE p = st := by
  unfold opShuttlePortLink
  rw [State.fld_setFld_same _ _ _ _ (by decide) (by decide)]
  exact Nat.mod_eq_of_lt (Nat.lt_of_lt_of_le h (by decide))

/-- A pause of the port's class holds the port (R488). -/
theorem opPfcFrame_pauses {s : State} {p enables : Nat} (quanta : List Nat) (hon : portOn s p = true) (hrx : s.flag Fd.SHT_PORT_PFCRX p = true)
    (hclass : bitAt enables (s.fld Fd.SHT_PORT_PCP p) = true) :
    opPfcFrame p enables quanta s =
      ({ s with pfcUntil := mapIns p (s.dtime + ceilDiv (64 * quanta.getD (s.fld Fd.SHT_PORT_PCP p) 0) 100) s.pfcUntil } : State).portPump :=
  if_pos ⟨hon, hrx, hclass⟩

/-! ### Actions, timers and completions of a queue pair -/

/-- READ shows the context's words and the two words of status (R526). -/
theorem opQpRead_shows (s : State) (q : Nat) {j : Nat} (hj : j < 8) :
    (opQpRead q s).reg .SHT_QPC j = wordAt (s.qp q).ctx j ∧ (opQpRead q s).reg .SHT_QPST0 0 = (qpStWords (s.qp q)).1 ∧
      (opQpRead q s).reg .SHT_QPST1 0 = (qpStWords (s.qp q)).2 := by
  have hqpq (u : State) (k : RegKind) (i : Nat) (hk : k ≠ .SHT_QPQ) : (u.qpq q 0).reg k i = u.reg k i :=
    (State.reg_setFld ..).trans (if_neg fun e => hk e.1.symm)
  unfold opQpRead
  dsimp only
  rw [hqpq _ .SHT_QPC _ (by decide), hqpq _ .SHT_QPST0 _ (by decide), hqpq _ .SHT_QPST1 _ (by decide)]
  simp [State.reg_setReg, reg_foldSet, hj]

/-- A served write of a READY QP's control word is a write of its line (R496). -/
theorem opQpControlWrite_served {s : State} {h q word : Nat} {v : Word} {e o : Nat} {r : LineReq} (hready : (s.qp q).st = qpReady)
    (hgate : gate s h ((s.qp q).base 7 + 8 * word) true = .ok)
    (hplace : dpaPlace (dpaExtents s.cacheSf) ((s.qp q).base 7 + 8 * word) = .plain e o)
    (hr : r = {
      host := some h, line := ((s.qp q).base 7 + 8 * word) / 64,
      op := .write (lineImage ((s.qp q).base 7 + 8 * word) ((leBytes 8 v.toNat).map some)), started := false, awaits := [],
      cls := plainClass s h ((s.qp q).base 7 + 8 * word) true })
    (hqueue : s.lineQ.all (fun x => x.line != ((s.qp q).base 7 + 8 * word) / 64) = true) (hsnoops : snoopsFor s r = [])
    (hevict : evictionFor s r = []) : opQpControlWrite h q word v s = s.wake.serve r := by
  subst hr
  have hwrite := plainRequest_served s h ((s.qp q).base 7 + 8 * word) (.write (lineImage ((s.qp q).base 7 + 8 * word) ((leBytes 8 v.toNat).map some)))
    true rfl e o hgate hplace hqueue hsnoops hevict
  unfold opQpControlWrite opPlainWrite
  dsimp only
  rw [hwrite]
  have hkept (u : State) (r : LineReq) : ((u.wake.serve r).qp q) = u.qp q := by
    simp only [State.qp, (show (u.wake.serve r).qps = u.qps from ((State.serve_keeps ..).same .qps (by decide +kernel)).trans
      ((State.wake_keeps u).same .qps (by decide +kernel)))]
  rw [flushSq_ready _ _ _ (by rw [hkept, hready]), flushRq_ready _ _ _ (by rw [hkept, hready])]

/-- A packet whose timer ends is sent again (R510, R520). -/
theorem retryTimer_resends {s : State} {q psn : Nat} {e : QpSent}
    (hsent : ((s.qp q).sent.find? fun e => e.pkt.psn == psn && e.waiting) = some e) (hready : (s.qp q).st = qpReady)
    (hstall : (s.qp q).stalled = false) (hquiet : shQuiet s = false) : s.retryTimer q psn = s.resend q e := by
  unfold State.retryTimer
  simp only [hsent]
  rw [if_pos]
  simp [hready, hstall, hquiet]

/-- The retransmission timer sends every unacknowledged packet again and counts a retry (R509). -/
theorem opRetxTimeout_resends {s : State} {q : Nat} (hready : (s.qp q).st = qpReady) (hsent : (s.qp q).sent ≠ []) (hstall : (s.qp q).stalled = false)
    (hquiet : shQuiet s = false) (hretry : (s.qp q).retry < 7) :
    opRetxTimeout q s = (s.qp q).sent.foldl (fun s e => s.resend q e) (s.setQp q { s.qp q with retry := (s.qp q).retry + 1 }) := by
  unfold opRetxTimeout
  dsimp only
  rw [if_neg (by simp [hready, hsent, hstall, hquiet]), if_neg (Nat.not_le.2 hretry)]

/-- A held packet whose translation has not come is dropped and answered, up to the 64th (R520). -/
theorem opPlacementFaultTimeout_naks {s : State} {q psn : Nat} {p : ShPkt} (hheld : ((s.qp q).held.find? fun p => p.psn == psn && p.typ == 1) = some p)
    (hats : (s.qp q).ats = true) (hready : (s.qp q).st = qpReady) (hn : (mapFind (s.qp q).faultNaks psn).getD 0 < 63) :
    opPlacementFaultTimeout q psn s =
      ((s.setQp q { s.qp q with faultNaks := mapIns psn ((mapFind (s.qp q).faultNaks psn).getD 0 + 1) (s.qp q).faultNaks }).shUnhold q psn).shNak q
        psn 2 := by
  unfold opPlacementFaultTimeout
  simp only [hheld]
  rw [if_neg (by simp [hats, hready]), if_neg (by omega)]

/-- The answer to a stalled sender's page request starts its last work request again (R519). -/
theorem opPageRequestResponse_restarts {s : State} {q : Nat} {w : QpWr} (hm : HostMem) (hready : (s.qp q).st = qpReady)
    (hstall : (s.qp q).stalled = true) (hw : (s.qp q).wrs.getLast? = some w) :
    opPageRequestResponse q false true hm s =
      ((s.setQp q { s.qp q with stalled := false, wrs := (s.qp q).wrs.dropLast }).wrStart q w hm false).qpGo q := by
  unfold opPageRequestResponse
  dsimp only
  rw [if_neg (not_not_intro hready), if_neg Bool.false_ne_true, if_neg (by simp [hstall]), hw]
  exact if_pos rfl

/-- A message with every byte placed completes, and the acknowledgements that waited for it go out (R505). -/
theorem opReceiveComplete_completes {s : State} {q msn : Nat} {r : QpRecv} (hr : ((s.qp q).recvs.find? fun r => r.msn == msn) = some r)
    (hready : (s.qp q).st = qpReady) (hgot : r.got.length = max 1 (ceilDiv r.tlen (s.qp q).mtu)) (hkind : r.kind = 0) :
    opReceiveComplete q msn s =
      ((s.setQp q { s.qp q with recvs := (s.qp q).recvs.erase r }).recvDone q msn r.wrid stOk r.tlen).flushAnswers q := by
  unfold opReceiveComplete
  simp only [hr]
  rw [if_neg (by simp [hready, hgot, hkind])]

/-- The oldest completion is written where the CQ has room (R499). -/
theorem opCqEntryWrite_writes {s : State} {q : Nat} {c : QpComp} {rest : List QpComp} (hc : (s.qp q).comps = c :: rest)
    (hready : (s.qp q).st = qpReady) (hroom : idxSub (s.qp q).cqTail (ctrlWord s (s.qp q) 2) < (s.qp q).slots 7) :
    opCqEntryWrite q s =
      (s.engineWrite ((s.qp q).base 7 + 64 + 32 * ((s.qp q).cqTail % (s.qp q).slots 7)) (bytesOf (cqEntry (s.qp q) q c s.dtime))).setQp q
        { s.qp q with comps := rest, cqTail := ((s.qp q).cqTail + 1) % 2 ^ 32 } := by
  have hnot : ¬ ((s.qp q).st = qpFree ∨ (s.qp q).slots 7 ≤ idxSub (s.qp q).cqTail (ctrlWord s (s.qp q) 2)) :=
    not_or.2 ⟨by rw [hready]; decide, Nat.not_le.2 hroom⟩
  unfold opCqEntryWrite
  simp only [hc]
  rw [if_neg hnot, flushSq_ready _ _ _ (by rw [qp_setQp]; exact hready), flushRq_ready _ _ _ (by rw [qp_setQp]; exact hready)]

/-- An invalidation leaves none of the translations of its pages (R518). -/
theorem opAtsInvalidation_drops (s : State) (h pasid first n : Nat) :
    ∀ e ∈ (opAtsInvalidation h pasid first n s).atsCache, ¬ (e.1 = h ∧ e.2.1 = pasid ∧ first ≤ e.2.2 ∧ e.2.2 < first + n) := by
  intro e he
  have hkeep := (List.mem_filter.1 he).2
  simp only [Bool.not_eq_true', Bool.and_eq_false_iff, beq_eq_false_iff_ne, decide_eq_false_iff_not] at hkeep
  rintro ⟨hhost, hpasid, hlo, hhi⟩
  omega

/-- Settles O18: each row takes the branch of its operation that its conditions name; that a pause quantum lasts 0.64 ns is log entry 75. -/
theorem shuttlePortAndQueuePairActionsComplete : Obligations.ShuttlePortAndQueuePairActionsComplete := by
  refine ⟨?link, ?arp, ?solicit, ?echo, ?other, ?pause, ?read, ?write, ?activate, ?error, ?reset, ?control, ?ack, ?retx, ?rnr, ?fault, ?placement,
    ?page, ?ats, ?receive, ?entry⟩
  case link =>
    exact fun s port st => completes_next rfl
      ⟨opShuttlePortLink_shows s _ st.isLt, (opShuttlePortLink_keeps port.val st.val s).changesOnly (by decide +kernel)⟩
  case arp => exact fun s port target hon htarget => congrArg Host.Outcome.next (if_pos ⟨hon, htarget⟩)
  case solicit => exact fun s port target hon htarget => congrArg Host.Outcome.next (if_pos ⟨hon, htarget⟩)
  case echo => exact fun s port v6 dst bs hon hdst => congrArg Host.Outcome.next (if_pos ⟨hon, hdst⟩)
  case other => exact fun s => completes_next rfl ⟨rfl, (opOtherReceivedFrame_keeps s).changesOnly (by decide +kernel)⟩
  case pause =>
    intro s port en quanta hon hrx hclass
    have hop := opPfcFrame_pauses quanta hon hrx hclass
    refine completes_next rfl ⟨?_, (opPfcFrame_keeps port.val en.toNat quanta s).changesOnly (by decide +kernel)⟩
    rw [hop, show (State.portPump _).pfcUntil = _ from (State.portPump_keeps _).same .pfcUntil (by decide)]
    exact mapFind_mapIns_same ..
  case read =>
    intro s q j hj
    obtain ⟨hctx, hst0, hst1⟩ := opQpRead_shows s q.val hj
    exact completes_next rfl ⟨hctx, hst0, hst1, (opQpRead_keeps q.val s).changesOnly (by decide +kernel)⟩
  case write =>
    intro s q hfree
    refine completes_next (congrArg Host.Outcome.next (if_neg (not_not_intro hfree))) ⟨?_, setQp_qpq_only _ _ _ _⟩
    rw [qp_setQp_qpq]
  case activate =>
    exact fun s q h => completes_next (congrArg Host.Outcome.next (opQpActivate_starts h)) ⟨qp_setQp_qpq .., setQp_qpq_only _ _ _ _⟩
  case error => exact fun s q hready => congrArg Host.Outcome.next (if_neg (not_not_intro hready))
  case reset =>
    exact fun s q herr => completes_next (congrArg Host.Outcome.next (if_neg (not_not_intro herr))) ⟨qp_setQp_qpq .., setQp_qpq_only _ _ _ _⟩
  case control =>
    exact fun s host q word v e o r hready hgate hplace hr hqueue hsnoops hevict =>
      congrArg Host.Outcome.next (opQpControlWrite_served hready hgate hplace hr hqueue hsnoops hevict)
  case ack => exact fun s q hready hun => congrArg Host.Outcome.next (if_pos ⟨hready, hun⟩)
  case retx => exact fun s q hready hsent hstall hquiet hretry => congrArg Host.Outcome.next (opRetxTimeout_resends hready hsent hstall hquiet hretry)
  case rnr => exact fun s q psn e hsent hready hstall hquiet => congrArg Host.Outcome.next (retryTimer_resends hsent hready hstall hquiet)
  case fault => exact fun s q psn e hsent hready hstall hquiet => congrArg Host.Outcome.next (retryTimer_resends hsent hready hstall hquiet)
  case placement => exact fun s q psn p hheld hats hready hn => congrArg Host.Outcome.next (opPlacementFaultTimeout_naks hheld hats hready hn)
  case page => exact fun s q hm w hready hstall hw => congrArg Host.Outcome.next (opPageRequestResponse_restarts hm hready hstall hw)
  case ats =>
    exact fun s host pasid first n => completes_next rfl
      ⟨opAtsInvalidation_drops s _ _ _ _, rfl, (opAtsInvalidation_keeps host.val pasid.toNat first n s).changesOnly (by decide +kernel)⟩
  case receive => exact fun s q msn r hr hready hgot hkind => congrArg Host.Outcome.next (opReceiveComplete_completes hr hready hgot hkind)
  case entry => exact fun s q c rest hc hready hroom => congrArg Host.Outcome.next (opCqEntryWrite_writes hc hready hroom)

end Sys2Proof.Machine

/-!
Work requests that are sent, and packets and answers that arrive (R497 to R504, R507 to R510, R517, R521).
-/
namespace Sys2Proof.Machine

/-! ### Work requests (R497 to R503) -/

/-- A work request that is taken, is valid and has its source at hand is sent. -/
theorem wrTake_sends {s v u : State} {q : Nat} {w : QpWr} {ops : Nat → Bool} {hm : HostMem} {fault : Bool} {bs : List Byte} (h : WrTaken s q w v)
    (ho : ops w.op = true) (hv : wrValid (v.qp q) w = true) (hs : v.wrSource q w hm fault = (u, .data bs)) :
    s.wrTake q ops hm fault = u.wrSend q w bs := (wrTake_started h ho).trans (wrStart_data hv hs)

/-- So is one that reads no source. -/
theorem wrTake_sends_unread {s v : State} {q : Nat} {w : QpWr} {ops : Nat → Bool} (h : WrTaken s q w v) (ho : ops w.op = true)
    (hv : wrValid (v.qp q) w = true) (hr : wrReads w = false) : s.wrTake q ops [] false = v.wrSend q w [] :=
  wrTake_sends h ho hv (wrSource_none hr)

/-- Only SEND, PUT and REDUCE read a source. -/
theorem wrReads_of_op {w : QpWr} (h1 : w.op ≠ 1) (h2 : w.op ≠ 2) (h5 : w.op ≠ 5) : wrReads w = false := by simp [wrReads, h1, h2, h5]

/-- SEND takes the next message number. -/
theorem wrSend_send {s : State} {q : Nat} {w : QpWr} (bs : List Byte) (h : w.op = 1) : s.wrSend q w bs =
    (s.setQp q { s.qp q with msn := ((s.qp q).msn + 1) % psnMod }).launch q w ((s.qp q).split q 1 (s.qp q).msn 0 bs) := by
  simp [State.wrSend, h]

/-- PUT names the remote address in each packet. -/
theorem wrSend_put {s : State} {q : Nat} {w : QpWr} (bs : List Byte) (h : w.op = 2) :
    s.wrSend q w bs = s.launch q w ((s.qp q).split q 2 0 w.raddr bs) := by
  simp [State.wrSend, h]

/-- COMPARE-SWAP carries its two operands, under the next near-memory number. -/
theorem wrSend_compareSwap {s : State} {q : Nat} {w : QpWr} (bs : List Byte) (h : w.op = 3) : s.wrSend q w bs =
    (s.setQp q { s.qp q with nsn := ((s.qp q).nsn + 1) % 65536 }).launch q { w with nsn := some (s.qp q).nsn }
      [{ (s.qp q).packet q 3 0 with
        seq := (s.qp q).nsn, raddr := w.raddr, op := 1, rtype := 0, payload := leBytes 8 w.opnd0 ++ leBytes 8 w.opnd1 }] := by
  simp [State.wrSend, h]

/-- FETCH-ADD carries its addend. -/
theorem wrSend_fetchAdd {s : State} {q : Nat} {w : QpWr} (bs : List Byte) (h : w.op = 4) : s.wrSend q w bs =
    (s.setQp q { s.qp q with nsn := ((s.qp q).nsn + 1) % 65536 }).launch q { w with nsn := some (s.qp q).nsn }
      [{ (s.qp q).packet q 3 0 with seq := (s.qp q).nsn, raddr := w.raddr, op := 2, rtype := 0, payload := leBytes 8 w.opnd0 }] := by
  simp [State.wrSend, h]

/-- REDUCE carries its elements and their type. -/
theorem wrSend_reduce {s : State} {q : Nat} {w : QpWr} (bs : List Byte) (h : w.op = 5) : s.wrSend q w bs =
    (s.setQp q { s.qp q with nsn := ((s.qp q).nsn + 1) % 65536 }).launch q { w with nsn := some (s.qp q).nsn }
      [{ (s.qp q).packet q 3 0 with seq := (s.qp q).nsn, raddr := w.raddr, op := 3, rtype := w.rtype, payload := bs }] := by
  simp [State.wrSend, h]

/-- FLUSH is one packet. -/
theorem wrSend_flush {s : State} {q : Nat} {w : QpWr} (bs : List Byte) (h : w.op = 6) : s.wrSend q w bs = s.launch q w [(s.qp q).packet q 5 0] := by
  simp [State.wrSend, h]

/-- NOP only completes. -/
theorem wrSend_nop {s : State} {q : Nat} {w : QpWr} (bs : List Byte) (h : w.op = 7) : s.wrSend q w bs = s.sendDone q w stOk 0 := by
  simp [State.wrSend, h]

/-- A work request whose completions have come and whose lines are free starts (R521). -/
theorem opWrWaitSatisfied_starts {s : State} {q : Nat} {w : QpWr} (hm : HostMem) (fault : Bool)
    (hf : ((s.qp q).wrs.find? fun w => w.waits.isSome) = some w) (hr : (s.qp q).st = qpReady) (hq : shQuiet s = false) (hw : waitMet s w = true)
    (hc : (s.coherentJob (shJob q) (if rangeBacked s ((s.qp q).host s) w.laddr (max 1 w.len) then wrLines w else []) []).2 = true) :
    opWrWaitSatisfied q hm fault s =
      ((s.coherentJob (shJob q) (if rangeBacked s ((s.qp q).host s) w.laddr (max 1 w.len) then wrLines w else []) []).1.setQp q
        { s.qp q with wrs := (s.qp q).wrs.filter fun y => y.waits.isNone }).wrStart q { w with waits := none } hm fault := by
  have hfree := coherentJob_true hc
  unfold opWrWaitSatisfied
  simp only [hf]
  rw [if_neg (by simp [hr, hq, hw]), hfree]
  rfl

/-! ### Packets that are accepted (R489, R507) -/

/-- A fresh SEND packet is counted and placed, and FLUSHes that waited for it are answered. -/
theorem opShuttleSend_fresh {s u : State} {port : Fin 2} {src : Wide} {udp : ShWire} {p d : ShPkt} (fault : Bool)
    (h : FreshPacket s port src udp { p with typ := 1 } u d) :
    opShuttleSend port.val src.toNat udp p fault s = (u.onSend d.dqpn d fault).flushAnswers d.dqpn := by
  obtain ⟨hr, rfl, hp, rfl⟩ := h
  simp only [opShuttleSend, shReceive_true hr, hp]

/-- A fresh PUT packet is counted and written. -/
theorem opShuttlePut_fresh {s u : State} {port : Fin 2} {src : Wide} {udp : ShWire} {p d : ShPkt}
    (h : FreshPacket s port src udp { p with typ := 2 } u d) :
    opShuttlePut port.val src.toNat udp p s = (u.onShPut d.dqpn d).flushAnswers d.dqpn := by
  obtain ⟨hr, rfl, hp, rfl⟩ := h
  simp only [opShuttlePut, shReceive_true hr, hp]

/-- A fresh near-memory request is counted and executed. -/
theorem opNmoReq_fresh {s u : State} {port : Fin 2} {src : Wide} {udp : ShWire} {p d : ShPkt}
    (h : FreshPacket s port src udp { p with typ := 3 } u d) :
    opNmoReq port.val src.toNat udp p s = (u.onNmo d.dqpn d).flushAnswers d.dqpn := by
  obtain ⟨hr, rfl, hp, rfl⟩ := h
  simp only [opNmoReq, shReceive_true hr, hp]

/-- A SEND packet whose receive entry is a plain range is placed there once the entry's line is free (R517). -/
theorem onSend_plain {u v : State} {q : Nat} {d : ShPkt} {r : QpRecv} (fault : Bool)
    (hc : (u.coherentJob (rxJob q) [((u.qp q).base 6 + 32 * (d.seq % (u.qp q).slots 6), 32)] []).2 = true)
    (hb : (u.coherentJob (rxJob q) [((u.qp q).base 6 + 32 * (d.seq % (u.qp q).slots 6), 32)] []).1.bindRecv q d = (v, some r)) (hk : r.kind = 1) :
    u.onSend q d fault = v.placeSend q d r := by
  have hfree := coherentJob_true hc
  rw [hfree] at hb
  unfold State.onSend
  dsimp only at hb ⊢
  rw [hfree]
  dsimp only
  rw [hb]
  exact if_neg (by rw [hk]; decide)

/-- A PUT packet writes its bytes where its QP may write them (R501). -/
theorem onShPut_writes {u : State} {q : Nat} {d : ShPkt} (h : (u.shTarget q d.raddr (max 1 d.payload.length) false true).2 = true) :
    u.onShPut q d = (u.engineWrite d.raddr d.payload).accept q d.psn := by
  simp only [State.onShPut, shTarget_true h]

/-- FETCH-ADD puts the sum where the value changes, and answers the value that was there (R502). -/
theorem onNmo_fetchAdd {u : State} {q : Nat} {d : ShPkt} (ho : nmoOk d = true) (hop : d.op = 2) (ht : (u.shTarget q d.raddr 8 true true).2 = true)
    (hc : (u.coherentJob (rxJob q) [] [(d.raddr, 8)]).2 = true) (hp : rangePoison u d.raddr 8 = false)
    (hne : (ofLE (u.plainBytes d.raddr 8) + ofLE (d.payload.take 8)) % 2 ^ 64 ≠ ofLE (u.plainBytes d.raddr 8)) : u.onNmo q d =
      ((u.coherentJob (rxJob q) [] [(d.raddr, 8)]).1.plainPut d.raddr
        (leBytes 8 ((ofLE (u.plainBytes d.raddr 8) + ofLE (d.payload.take 8)) % 2 ^ 64))).nmoAnswer q d (ofLE (u.plainBytes d.raddr 8)) 0 := by
  have hn : nmoLen d = 8 := by simp [nmoLen, hop]
  have hclean : rangePoison { u with curLog := mapDel (rxJob q) u.curLog } d.raddr 8 = false := hp
  rw [coherentJob_true hc]
  unfold State.onNmo
  simp only [ho, hn, hop, shTarget_true ht, coherentJob_true hc, hclean, Bool.not_true, Bool.false_eq_true, if_false, if_true, Nat.reduceEqDiff]
  exact congrArg (fun x : State => x.nmoAnswer q d (ofLE (u.plainBytes d.raddr 8)) 0) (if_neg hne)

/-- A fresh FLUSH_REQ is counted, noted, accepted, and answered once its condition holds (R503). -/
theorem opFlushReq_fresh {s : State} {port src : Nat} {udp : ShWire} {p : ShPkt} (hr : (s.shReceive port src udp { p with typ := 5 }).2 = true)
    (hp : psnPlace (s.wake.qp p.dqpn) p.psn = .fresh) {u : State} (hu : u = s.wake.addFld Fd.SHT_CNT0_RXPKT 1) :
    opFlushReq port src udp p s =
      ((u.setQp p.dqpn { u.qp p.dqpn with flushes := (u.qp p.dqpn).flushes.filter (· != p.psn) ++ [p.psn] }).accept p.dqpn p.psn).flushAnswers
        p.dqpn := by
  subst hu
  simp only [opFlushReq, shReceive_true hr, hp]

/-! ### Answers that arrive (R503, R504, R508, R510) -/

/-- An ACK that is accepted acknowledges what it covers. -/
theorem opShuttleAck_acks {s : State} {port src : Nat} {udp : ShWire} {p : ShPkt} (hr : (s.shReceive port src udp { p with typ := 7 }).2 = true) :
    opShuttleAck port src udp p s = (s.wake.addFld Fd.SHT_CNT0_RXPKT 1).acked p.dqpn p.seq p.sack none := by
  simp only [opShuttleAck, shReceive_true hr]

/-- A NAK RNR without a limit leaves its packet waiting for its timer. -/
theorem opShuttleNak_waits {s u : State} {port src : Nat} {udp : ShWire} {p : ShPkt} {e : QpSent}
    (hr : (s.shReceive port src udp { p with typ := 8 }).2 = true)
    (hu : u = (s.wake.addFld Fd.SHT_CNT0_RXPKT 1).acked p.dqpn p.seq p.sack none)
    (hsent : ((u.qp p.dqpn).sent.find? fun e => e.pkt.psn == p.psn) = some e) (hcode : p.code = 1) (hlim : (u.qp p.dqpn).cf 0 36 34 = 7) :
    opShuttleNak port src udp p s = u.updSent p.dqpn p.psn fun e => { e with rnr := e.rnr + 1, waiting := true } := by
  subst hu
  simp only [opShuttleNak, shReceive_true hr, hsent]
  rw [if_pos hcode]
  exact if_neg fun h => h.1 hlim

/-- A response that is OK ends the work request that it answers (R503, R504). -/
theorem response_ok {s : State} {p : ShPkt} {mine : QpWr → Bool} {w : QpWr}
    (hw : (ownerWr ((s.addFld Fd.SHT_CNT0_RXPKT 1).qp p.dqpn) p.psn).filter mine = some w) (hc : p.code = 0) : s.response p mine =
      ((((((s.addFld Fd.SHT_CNT0_RXPKT 1).acked p.dqpn p.seq p.sack (some p.psn)).dropWr p.dqpn w).sendDone p.dqpn w stOk
        (if w.op = 3 ∨ w.op = 4 then ofLE p.payload else 0)).qpGo p.dqpn).gwsGo p.dqpn) := by
  simp only [State.response, hw, hc, if_true]

/-- An NMO_RESP that is accepted is an answer, once decrypted. -/
theorem opNmoResp_answers {s : State} {port src : Nat} {udp : ShWire} {p : ShPkt} (hr : (s.shReceive port src udp { p with typ := 4 }).2 = true) :
    opNmoResp port src udp p s = s.wake.response (s.wake.unseal { p with typ := 4 }) fun w => w.nsn.isSome := by
  simp only [opNmoResp, shReceive_true hr]

/-- A FLUSH_RESP that is accepted is an answer. -/
theorem opFlushResp_answers {s : State} {port src : Nat} {udp : ShWire} {p : ShPkt} (hr : (s.shReceive port src udp { p with typ := 6 }).2 = true) :
    opFlushResp port src udp p s = s.wake.response { p with typ := 6 } fun w => w.op == 6 := by
  simp only [opFlushResp, shReceive_true hr]

/-- Settles O19: a work request that is taken is sent as its OP says, and a packet that is accepted as fresh takes the branch of its type. -/
theorem workRequestsAndPacketsComplete : Obligations.WorkRequestsAndPacketsComplete := by
  refine ⟨?send, ?put, ?swap, ?add, ?reduce, ?flush, ?nop, ?waited, ?sendPacket, ?putPacket, ?addPacket, ?flushPacket, ?ack, ?nmoResp, ?flushResp,
    ?nak⟩
  case send =>
    exact fun s v u q w hm fault bs ht ho hv hs =>
      congrArg Host.Outcome.next ((wrTake_sends ht (by rw [ho]; rfl) hv hs).trans (wrSend_send bs ho))
  case put =>
    exact fun s v u q w hm fault bs ht ho hv hs =>
      congrArg Host.Outcome.next ((wrTake_sends ht (by rw [ho]; rfl) hv hs).trans (wrSend_put bs ho))
  case swap =>
    exact fun s v q w ht ho hv => congrArg Host.Outcome.next
      ((wrTake_sends_unread ht (by rw [ho]; rfl) hv (wrReads_of_op (by simp [ho]) (by simp [ho]) (by simp [ho]))).trans (wrSend_compareSwap [] ho))
  case add =>
    exact fun s v q w ht ho hv => congrArg Host.Outcome.next
      ((wrTake_sends_unread ht (by rw [ho]; rfl) hv (wrReads_of_op (by simp [ho]) (by simp [ho]) (by simp [ho]))).trans (wrSend_fetchAdd [] ho))
  case reduce =>
    exact fun s v u q w hm fault bs ht ho hv hs =>
      congrArg Host.Outcome.next ((wrTake_sends ht (by rw [ho]; rfl) hv hs).trans (wrSend_reduce bs ho))
  case flush =>
    exact fun s v q w ht ho hv => congrArg Host.Outcome.next
      ((wrTake_sends_unread ht (by rw [ho]; rfl) hv (wrReads_of_op (by simp [ho]) (by simp [ho]) (by simp [ho]))).trans (wrSend_flush [] ho))
  case nop =>
    exact fun s v q w ht ho hv => congrArg Host.Outcome.next
      ((wrTake_sends_unread ht (by rw [ho]; rfl) hv (wrReads_of_op (by simp [ho]) (by simp [ho]) (by simp [ho]))).trans (wrSend_nop [] ho))
  case waited =>
    rintro s q w hm fault src hf hr hq hw rfl hc
    exact congrArg Host.Outcome.next (opWrWaitSatisfied_starts hm fault hf hr hq hw hc)
  case sendPacket =>
    intro s u v port src udp fault p d r hd hc hb hk
    refine congrArg Host.Outcome.next ((opShuttleSend_fresh fault hd).trans ?_)
    rw [onSend_plain fault hc hb hk]
  case putPacket =>
    intro s u port src udp p d hd ht
    refine congrArg Host.Outcome.next ((opShuttlePut_fresh hd).trans ?_)
    rw [onShPut_writes ht]
  case addPacket =>
    rintro s u port src udp p d old new hd ho hop ht hc hp rfl rfl hne
    refine congrArg Host.Outcome.next ((opNmoReq_fresh hd).trans ?_)
    rw [onNmo_fetchAdd ho hop ht hc hp hne]
  case flushPacket => exact fun s u port src udp p hr hp hu => congrArg Host.Outcome.next (opFlushReq_fresh hr hp hu)
  case ack => exact fun s port src udp p hr => congrArg Host.Outcome.next (opShuttleAck_acks hr)
  case nmoResp =>
    rintro s u port src udp p d w hr rfl rfl hw hc
    exact congrArg Host.Outcome.next ((opNmoResp_answers hr).trans (response_ok hw hc))
  case flushResp =>
    rintro s u port src udp p w hr rfl hw hc
    exact congrArg Host.Outcome.next ((opFlushResp_answers hr).trans (response_ok hw hc))
  case nak =>
    exact fun s u port src udp p e hr hu hsent hcode hlim => congrArg Host.Outcome.next (opShuttleNak_waits hr hu hsent hcode hlim)

end Sys2Proof.Machine

/-!
The flash tier's events: what each does where its conditions hold (R530, R533, R541 to R554, R561, R565).
-/
namespace Sys2Proof.Machine

/-! ### Operations ending and targets (R533, R561) -/

/-- A program whose LUNs no staging read waits for marks its image (R533). -/
theorem opFlashOpComplete_programmed {s : State} {h layer k : Nat} {x : FlashImage} (hx : s.imageOf h layer = some (k, x))
    (hread : readsAhead s x.places = false) :
    opFlashOpComplete (.programmed h layer) s =
      ({ s with images := mapIns k { x with progd := true } s.images } : State).targetsAnswer (x.places.map Place.unit) := by
  simp only [opFlashOpComplete, hx, hread, Bool.false_eq_true, if_false]

/-- The first operation of a target that times out is counted and remembered (R561). -/
theorem targetLate_first {s : State} {ch ce : Nat} {g : FlashGeo} (hg : s.flash = some g)
    (hin : (g.targets.any fun t => t.ch == ch && t.ce == ce && t.inService) = true)
    (hlate : (g.targets.any fun t => t.ch == ch && t.ce == ce && t.inService && t.late) = false) :
    s.targetLate ch ce =
      ({ s with flash := some (g.noteLate (fun t => t.ch == ch && t.ce == ce && t.inService) true) } : State).addFld Fd.FLT_ERR1_TIMEOUT 1 := by
  simp only [State.targetLate, hg, hin, hlate, Bool.not_true, Bool.false_eq_true, if_false]

/-- The second in a row takes the target out of service (R561). -/
theorem targetLate_again {s : State} {ch ce : Nat} {g : FlashGeo} (hg : s.flash = some g)
    (hlate : (g.targets.any fun t => t.ch == ch && t.ce == ce && t.inService && t.late) = true) :
    s.targetLate ch ce = opTargetFailed ch ce
      (({ s with flash := some (g.noteLate (fun t => t.ch == ch && t.ce == ce && t.inService) true) } : State).addFld Fd.FLT_ERR1_TIMEOUT 1) := by
  have hin : (g.targets.any fun t => t.ch == ch && t.ce == ce && t.inService) = true := by
    obtain ⟨t, ht, hp⟩ := List.any_eq_true.1 hlate
    exact List.any_eq_true.2 ⟨t, ht, (Bool.and_eq_true _ _ ▸ hp).1⟩
  simp only [State.targetLate, hg, hin, hlate, Bool.not_true, Bool.false_eq_true, if_false, if_true]

/-- The flash has these target records. -/
def State.HasTargets (s : State) (ts : List FlashTarget) : Prop := ∃ g, s.flash = some g ∧ g.targets = ts

/-- What leaves the flash's geometry leaves its target records. -/
theorem State.HasTargets.of_keeps {w : Nat} {s t : State} {ts : List FlashTarget} (h : s.HasTargets ts) (k : Keeps w s t)
    (hw : w.testBit Part.flash.idx = false := by decide +kernel) : t.HasTargets ts :=
  let ⟨g, hg, hts⟩ := h
  ⟨g, ((k.same .flash hw).trans hg), hts⟩

/-- A request for replacement, made or not, leaves them too. -/
theorem State.HasTargets.or_requestReplace {c : Prop} [Decidable c] {s : State} {ts : List FlashTarget} (b : Nat) (h : s.HasTargets ts) :
    (if c then s else s.requestReplace b).HasTargets ts := by
  split
  · exact h
  · exact h.of_keeps (State.requestReplace_keeps ..)

/-- So does the replacement of a unit. -/
theorem State.HasTargets.replaceUnit {s : State} {ts : List FlashTarget} (h : s.HasTargets ts) (g : FlashGeo) (u : Nat) :
    (s.replaceUnit g u).HasTargets ts := replaceUnit_targets s g u h

/-- What every step of a loop leaves, the loop leaves. -/
theorem State.HasTargets.foldl {α : Type} {l : List α} {f : State → α → State} {s : State} {ts : List FlashTarget} (hs : s.HasTargets ts)
    (hf : ∀ u a, u.HasTargets ts → (f u a).HasTargets ts) : (l.foldl f s).HasTargets ts :=
  List.foldlRecOn (motive := fun u : State => u.HasTargets ts) l f hs fun u hu a _ => hf u a hu

/-- A target that goes out of service: its record says so, and no other record changes (R561). -/
theorem opTargetFailed_targets {s : State} {ch ce : Nat} {g : FlashGeo} (hg : s.flash = some g)
    (hin : (g.targets.any fun t => t.ch == ch && t.ce == ce && t.inService) = true) :
    (opTargetFailed ch ce s).HasTargets (g.targets.map fun t => if t.ch = ch ∧ t.ce = ce then { t with inService := false } else t) := by
  simp only [opTargetFailed, hg, hin, Bool.not_true, Bool.false_eq_true, if_false]
  refine .of_keeps (.of_keeps ?_ (State.pumpViews_keeps _)) (State.fltSync_keeps _)
  refine .or_requestReplace 6 ?_
  refine .foldl ?_ fun u unit hu => hu.replaceUnit _ unit
  refine .foldl ?_ fun u e hu => ?_
  · exact ⟨_, rfl, rfl⟩
  split
  · split
    · exact hu
    · split
      · exact hu.of_keeps (State.poisonPage_keeps ..)
      · exact hu.of_keeps (State.updPage_keeps ..)
  · exact hu

/-! ### The journal, the SLC buffer and collection (R541, R544, R549 to R551, R554) -/

/-- The waiting records become durable in the ring's unit (R544). -/
theorem opJournalFlush_flushes {s : State} {g : FlashGeo} (hup : s.power.stage = .up) (hg : s.flash = some g) :
    opJournalFlush false s =
      ((s.setUnit s.journalUnit ((newHolders s).foldl (fun x hd => EraseUnit.hold x hd) (s.unit s.journalUnit))).flushJournal).fltSync := by
  simp only [opJournalFlush, hup, hg, true_or, if_true, Bool.false_eq_true, if_false]

/-- The target's share of C fits its field. -/
theorem slcTargetPm_le (pct : Nat) : slcTargetPm pct ≤ 100 := by
  unfold slcTargetPm
  repeat' split
  all_goals decide

/-- The buffer target is taken anew (R541). -/
theorem opSlcTargetRecompute_takes {s : State} {g : FlashGeo} (hg : s.flash = some g) :
    opSlcTargetRecompute s =
      ({ s with slcTarget := slcTargetUnits g (flashUsePct s) } : State).setFld Fd.FLT_SPACE_SLCPM (slcTargetPm (flashUsePct s)) := by
  simp only [opSlcTargetRecompute, hg]

/-- The steps are 0 to 3. -/
theorem throttleStep_lt (f : Nat) : throttleStep f < 4 := by
  unfold throttleStep
  repeat' split
  all_goals decide

/-- The step of a running foreground collection follows free space (R551). -/
theorem opGcStepRecompute_foreground {s : State} (hgc : s.fld Fd.FLT_SPACE_GC = 2) (hfree : freePm s < 40) :
    opGcStepRecompute s = s.setFld Fd.FLT_SPACE_STEP (throttleStep (freePm s)) := by
  simp [opGcStepRecompute, hgc, hfree]

/-- Below 30 per mille free, collection in the foreground takes its next victim (R549, R550). -/
theorem opGcStart_foreground {s : State} {g : FlashGeo} {u : Nat} (idle : Nat) (hg : s.flash = some g) (hready : mediaReady s = true)
    (hfree : freePm s < 30) (hu : nextVictim s g = some u) :
    opGcStart idle s =
      { (s.setFld Fd.FLT_SPACE_GC 2).setFld Fd.FLT_SPACE_STEP (throttleStep (freePm s)) with victims := s.victims ++ [u] } := by
  have hsame : nextVictim ((s.setFld Fd.FLT_SPACE_GC 2).setFld Fd.FLT_SPACE_STEP (throttleStep (freePm s))) g = some u := hu
  simp only [opGcStart, hg, hready, hfree, decide_true, Bool.true_or, Bool.not_true, Bool.or_self, Bool.false_eq_true, if_false, if_true, hsame]
  rfl

/-- A durable image that finds its place is moved there, and emptied units wait for erase (R554). -/
theorem moveImage_moves {s u : State} {h layer k : Nat} {c : Chunk} {p : Page} {x : FlashImage} {places : List Place}
    (hp : s.pageOf h layer = some (c, p)) (hx : s.imageOf h layer = some (k, x)) (hd : x.durable = true)
    (hplace : s.placeImage (h % 8) 2 c.charge (imageCodewords x) = some (u, places)) :
    s.moveImage h layer true =
      (((({ u with images := mapIns k { x with places } u.images } : State).countCopied (imageCodewords x)).markPending)).fltSync := by
  simp only [State.moveImage, hp, hx, hd, hplace, Bool.not_true, Bool.false_eq_true, if_false]

/-- An image of a unit that is being emptied is moved when its read gets its turn (R554). -/
theorem opImageMove_moves {s : State} {h layer k : Nat} {x : FlashImage} (hx : s.imageOf h layer = some (k, x)) (hruns : moveRuns s h x = true)
    (hmust : mustMove s x = true) : opImageMove h layer true s = s.moveImage h layer true := by
  simp only [opImageMove, hx, hruns, hmust, Bool.and_self, if_true]

/-- So is an image of the SLC buffer that is folded (R542). -/
theorem opFold_moves {s : State} {h layer k : Nat} {x : FlashImage} (hx : s.imageOf h layer = some (k, x)) (hruns : moveRuns s h x = true)
    (hslc : (x.places.any fun p => (s.unit p.unit).slc) = true) : opFold h layer true s = s.moveImage h layer true := by
  simp only [opFold, hx, hruns, hslc, Bool.and_self, if_true]

/-! ### Erases, retirement and temperatures (R530, R547, R554, R565) -/

/-- A unit that is put reads as it was put. -/
theorem unit_setUnit (s : State) (u : Nat) (x : EraseUnit) : (s.setUnit u x).unit u = x := by
  simp only [State.unit, State.setUnit, mapFind_mapIns_same, Option.getD_some]

/-- A unit that waits for erase is erased and leaves every list (R554). -/
theorem opUnitErase_erases {s : State} {u : Nat} {g : FlashGeo} (hg : s.flash = some g) (hret : (s.unit u).retired = false)
    (hfail : (s.unit u).failed = false) (hpend : (s.unit u).pend = true) (hread : readsAhead s [{ unit := u, cw := 0, pos := 0 }] = false) :
    opUnitErase u true s =
      (({ (s.targetsAnswer [u]).setUnit u { EraseUnit.fresh with ec := (s.unit u).ec + 1, promoted := (s.unit u).promoted } with
        eraseLists := mapVals (fun _ l => l.erase u) (s.targetsAnswer [u]).eraseLists
        victims := (s.targetsAnswer [u]).victims.erase u } : State).addFld Fd.FLT_GCCNT_ERASES 1).fltSync := by
  simp only [opUnitErase, hg, hret, hfail, hpend, hread, Bool.not_true, Bool.true_or, Bool.or_self, Bool.false_eq_true, if_false]
  rfl

/-- A failed unit that is on no erase list is retired and replaced (R547, R548). -/
theorem opUnitRetire_retires {s : State} {u : Nat} {g : FlashGeo} (hg : s.flash = some g) (hfail : (s.unit u).failed = true)
    (hret : (s.unit u).retired = false) (hlist : (s.eraseLists.any fun e => e.2.contains u) = false) :
    opUnitRetire u s = ((s.setUnit u { s.unit u with retired := true, opened := none, pend := false }).replaceUnit g u).fltSync := by
  simp only [opUnitRetire, hg, hfail, hret, hlist, Bool.not_true, Bool.or_self, Bool.false_eq_true, if_false]

/-- The record of a target after its temperature is read (R565). -/
def FlashTarget.polled (temps : List (Nat × Nat × Int)) (t : FlashTarget) : FlashTarget :=
  match temps.find? (fun x => x.1 == t.ch && x.2.1 == t.ce) with
  | some x => { t with temp := x.2.2 }
  | none => t

/-- A reading of the temperatures changes every target's record by its own reading. -/
theorem opFlashTempPoll_targets {s : State} {g : FlashGeo} (temps : List (Nat × Nat × Int)) (hg : s.flash = some g) :
    (opFlashTempPoll temps s).HasTargets (g.targets.map (FlashTarget.polled temps)) := by
  have hread : ({ s with flash := some (g.withTargets (g.targets.map (FlashTarget.polled temps))) } : State).HasTargets
      (g.targets.map (FlashTarget.polled temps)) := ⟨_, rfl, rfl⟩
  simp only [opFlashTempPoll, hg]
  split
  · exact hread
  · exact (hread.of_keeps (State.addFld_keeps _ Fd.FLT_TEMP_MINUTES ..)).of_keeps (State.fltSync_keeps _)

/-- Settles O20: each event takes the branch of its operation that its conditions name; that a victim is in service is log entry 77, that
programs and erases wait for reads entry 108. -/
theorem flashTierEventsComplete : Obligations.FlashTierEventsComplete := by
  refine ⟨?programmed, ?late, ?again, ?journal, ?checkpoint, ?target, ?step, ?collect, ?move, ?fold, ?erase, ?retire, ?failed, ?poll, ?retrain⟩
  case programmed =>
    intro s h layer k x hx hread
    refine completes_next rfl ⟨?_, ?_⟩
    · rw [opFlashOpComplete_programmed hx hread, show (State.targetsAnswer _ _).images = _ from (State.targetsAnswer_keeps ..).same .images (by decide)]
      exact mapFind_mapIns_same ..
    · rw [opFlashOpComplete_programmed hx hread]
      exact (((upd_images (s := s) _).mono (by decide +kernel)).step (State.targetsAnswer_keeps ..) (by decide +kernel)).changesOnly (Nat.or_self _)
  case late => exact fun s ch ce g hg hin hlate => congrArg Host.Outcome.next (targetLate_first hg hin hlate)
  case again => exact fun s ch ce g hg hlate => congrArg Host.Outcome.next (targetLate_again hg hlate)
  case journal => exact fun s g hup hg => congrArg Host.Outcome.next (opJournalFlush_flushes hup hg)
  case checkpoint => exact fun s now => completes_next rfl ⟨rfl, (opMapCheckpoint_keeps now s).changesOnly (by decide +kernel)⟩
  case target =>
    intro s g hg
    refine completes_next (congrArg Host.Outcome.next (opSlcTargetRecompute_takes hg)) ⟨rfl, ?_, ?_⟩
    · exact State.fld_setFld_fits (k := .FLT_SPACE) _ _ 0 (by decide) (Nat.lt_of_le_of_lt (slcTargetPm_le _) (by decide))
    · exact (((upd_slcTarget (s := s) _).mono (by decide +kernel)).step (State.setFld_keeps ..) (by decide +kernel)).changesOnly (Nat.or_self _)
  case step =>
    intro s hgc hfree
    refine completes_next rfl ⟨?_, (opGcStepRecompute_keeps s).changesOnly (by decide +kernel)⟩
    rw [opGcStepRecompute_foreground hgc hfree]
    exact State.fld_setFld_fits (k := .FLT_SPACE) s _ 0 (by decide) (throttleStep_lt _)
  case collect =>
    intro s channel idle u g hg hready hfree hu
    have hop := opGcStart_foreground idle hg hready hfree hu
    refine completes_next rfl ⟨?_, ?_, (opGcStart_keeps idle s).changesOnly (by decide +kernel)⟩
    · rw [hop]
    · rw [hop]
      exact (State.fld_setFld_other (k := .FLT_SPACE) _ (f := Fd.FLT_SPACE_STEP) (g := Fd.FLT_SPACE_GC) _ 0 0 (by decide) (by decide) (by decide)).trans
        (State.fld_setFld_fits (k := .FLT_SPACE) s 2 0 (by decide) (by decide))
  case move =>
    exact fun s u handle layer c p k x places hp hx hruns hmust hd hplace =>
      congrArg Host.Outcome.next ((opImageMove_moves hx hruns hmust).trans (moveImage_moves hp hx hd hplace))
  case fold =>
    exact fun s u handle layer c p k x places hp hx hruns hslc hd hplace =>
      congrArg Host.Outcome.next ((opFold_moves hx hruns hslc).trans (moveImage_moves hp hx hd hplace))
  case erase =>
    intro s u g hg hret hfail hpend hread
    refine completes_next (congrArg Host.Outcome.next (opUnitErase_erases hg hret hfail hpend hread)) ⟨?_, ?_, ?_⟩
    · simp only [State.unit, show (State.fltSync _).units = _ from (State.fltSync_keeps _).same .units (by decide)]
      exact unit_setUnit (s.targetsAnswer [u]) u _
    · rw [show (State.fltSync _).victims = _ from (State.fltSync_keeps _).same .victims (by decide)]
      exact congrArg (List.erase · u) ((State.targetsAnswer_keeps s [u]).same .victims (by decide))
    · rw [show (State.fltSync _).eraseLists = _ from (State.fltSync_keeps _).same .eraseLists (by decide)]
      exact congrArg (mapVals fun _ l => l.erase u) ((State.targetsAnswer_keeps s [u]).same .eraseLists (by decide))
  case retire => exact fun s u g hg hfail hret hlist => congrArg Host.Outcome.next (opUnitRetire_retires hg hfail hret hlist)
  case failed =>
    intro s channel ce g hg hin
    obtain ⟨g', hg', htargets⟩ := opTargetFailed_targets hg hin
    refine completes_next rfl ⟨g', hg', fun x hx hch hce => ?_⟩
    rw [htargets, List.mem_map] at hx
    obtain ⟨t, _, rfl⟩ := hx
    by_cases ht : t.ch = channel.val ∧ t.ce = ce.val
    · rw [if_pos ht]
    · rw [if_neg ht] at hch hce
      exact absurd ⟨hch, hce⟩ ht
  case poll =>
    intro s temps g hg
    obtain ⟨g', hg', htargets⟩ := opFlashTempPoll_targets temps hg
    refine completes_next rfl ⟨g', hg', by rw [htargets, List.length_map], fun i x y hx hy => ⟨x.polled temps, ?_, ?_⟩⟩
    · rw [htargets, List.getElem?_map, hx]; rfl
    · simp only [FlashTarget.polled, hy]
  case retrain =>
    intro s channel ce g i x hg hx hch hce hin hmoved
    refine completes_next rfl ⟨?_, (opFlashRetrain_keeps channel.val ce.val s).changesOnly (by decide +kernel)⟩
    simp only [opFlashRetrain, hg]
    refine ⟨_, rfl, ?_⟩
    have htrain : x.ch = channel.val ∧ x.ce = ce.val ∧ x.inService ∧ 10 ≤ (x.temp - x.trained).natAbs := ⟨hch, hce, hin, hmoved⟩
    simp only [List.getElem?_map, hx, Option.map_some, if_pos htrain]

end Sys2Proof.Machine

/-!
Life cycle, crypto-erase, firmware slots and the calibration block (R640 to R642, R648, R650 to R652).
-/
namespace Sys2Proof.Machine

/-! ### The life cycle -/

/-- What the payload of ADVANCE says, by its bytes (R641). -/
theorem lcRead_fields {payload : List Byte} {a : LcAdvance} (h : lcRead payload = some a) :
    payload.take 8 = lcMagic ∧ payload.length = 128 + sigSize * ofLE (sliceAt payload 9 1) + ofLE (sliceAt payload 96 4) ∧
      a.target = ofLE (sliceAt payload 8 1) ∧ a.nonce = ofLE (sliceAt payload 16 32) ∧ a.devHash = sliceAt payload 48 48 := by
  unfold lcRead at h
  dsimp only at h
  split at h
  case isTrue => exact nomatch h
  case isFalse hok =>
    obtain ⟨hmagic, hlen⟩ := not_or.1 hok
    cases h
    exact ⟨Classical.not_not.1 hmagic, Classical.not_not.1 hlen, rfl, rfl, rfl⟩

/-- A life-cycle state below FROZEN that is written is shown. -/
theorem setLife_state (s : State) {n : Nat} (h : n < 3) : (s.setLife n).fld Fd.SEC_LC_STATE = n := by
  unfold State.setLife
  dsimp only
  rw [if_neg (by omega), fld_of ((State.mctpEvent_keeps ..).same (.reg .SEC_LC) (by decide)),
    fld_of ((State.keyWrite_keeps ..).same (.reg .SEC_LC) (by decide +kernel))]
  exact State.fld_setFld_fits (k := .SEC_LC) s n 0 (by decide) (Nat.lt_trans h (by decide))

/-- From BLANK the part becomes PROVISIONED with the device's certificates (R640). -/
theorem advance_blank {s : State} (a : LcAdvance) (h : s.fld Fd.SEC_LC_STATE = 0) :
    s.advance a = ({ s with deviceCerts := a.certs } : State).setLife 1 := if_pos h

/-- With every tenant disabled the erase runs to its end (R642). -/
theorem opCryptoEraseComplete_ends {s : State} {target : Nat} (hl : s.lcTarget = some target)
    (ht : ((tenantsUsed s).any fun t => s.tstate t == TState.active.code || s.tstate t == TState.draining.code) = false) :
    opCryptoEraseComplete s = s.cryptoErase.eraseEnds target := by
  simp only [opCryptoEraseComplete, hl, ht, Bool.false_eq_true, if_false]

/-- The erase leaves no key, no content and no queue pair, draws a new memory key, and names no target any more (R642). -/
theorem cryptoErase_eraseEnds (s : State) (target : Nat) {t : State} (ht : t = s.cryptoErase.eraseEnds target) :
    t.dataKeys = [] ∧ t.nsKeys = [] ∧ t.qpKeys = [] ∧ t.ideKeys = [] ∧ t.memKey = s.free ∧ t.qps = [] ∧ t.chunks = [] ∧ t.plainMem = [] ∧
      t.lcTarget = none := by
  obtain ⟨v, kv, hdata, hns, hqp, hide, hmem, hqps, hchunks, hplain⟩ := cryptoErase_from s
  have ke := State.eraseEnds_keeps s.cryptoErase target
  rw [← ht] at ke
  refine ⟨?_, ?_, ?_, ?_, ?_, ?_, ?_, ?_, ht ▸ eraseEnds_target ..⟩
  · exact (ke.same .dataKeys (by decide +kernel)).trans ((kv.same .dataKeys (by decide +kernel)).trans hdata)
  · exact (ke.same .nsKeys (by decide +kernel)).trans ((kv.same .nsKeys (by decide +kernel)).trans hns)
  · exact (ke.same .qpKeys (by decide +kernel)).trans ((kv.same .qpKeys (by decide +kernel)).trans hqp)
  · exact (ke.same .ideKeys (by decide +kernel)).trans ((kv.same .ideKeys (by decide +kernel)).trans hide)
  · exact (ke.same .memKey (by decide +kernel)).trans ((kv.same .memKey (by decide +kernel)).trans hmem)
  · exact (ke.same .qps (by decide +kernel)).trans ((kv.same .qps (by decide +kernel)).trans hqps)
  · exact (ke.same .chunks (by decide +kernel)).trans ((kv.same .chunks (by decide +kernel)).trans hchunks)
  · exact (ke.same .plainMem (by decide +kernel)).trans ((kv.same .plainMem (by decide +kernel)).trans hplain)

/-! ### Firmware slots -/

/-- A background command without a row of its own starts and ends where nothing else runs (R726). -/
theorem background_runs {s : State} (op : Nat) (run : State → State) (h : s.bg.running = false) :
    s.background op run = (run (s.reply op mbBackground [])).bgDone op mbOk 0 := if_neg (by simp [h])

/-- ERASE empties the staged slot (R650). -/
theorem opFwStageErase_erases {s : State} {fn : Nat} (h : mbRefusal s fn false true true = none) (hw : s.fwWriter = 0) (hb : s.bg.running = false) :
    opFwStageErase fn s = ((s.reply 0xC015 mbBackground []).updStaged fun _ => []).bgDone 0xC015 mbOk 0 := by
  unfold opFwStageErase
  rw [State.operator_runs _ _ _ h, if_neg (not_not_intro hw), background_runs _ _ hb]

/-- WRITE writes bytes that lie within the staged slot (R650). -/
theorem opFwStageWrite_writes {s : State} {fn off : Nat} {bs : List Byte} (h : mbRefusal s fn false true true = none) (hw : s.fwWriter = 0)
    (hb : s.bg.running = false) (hoff : off + bs.length ≤ slotBytes) :
    opFwStageWrite fn off bs s = ((s.reply 0xC015 mbBackground []).updStaged fun m => m.write off bs).bgDone 0xC015 mbOk 0 := by
  unfold opFwStageWrite
  rw [State.operator_runs _ _ _ h, if_neg (not_not_intro hw), if_neg (Nat.not_lt.2 hoff), background_runs _ _ hb]

/-- VERIFY answers the code of the staged slot's checks (R650). -/
theorem opFwStageVerify_answers {s : State} {fn : Nat} (h : mbRefusal s fn false true true = none) (hw : s.fwWriter = 0) :
    opFwStageVerify fn s = s.reply 0xC015 mbOk [BitVec.ofNat 64 (verifyCode s (stagedMem s))] := by
  unfold opFwStageVerify
  rw [State.operator_runs _ _ _ h, if_neg (not_not_intro hw)]

/-- A slot without a valid directory fails check 1 (R648). -/
theorem verifyCode_noImages (s : State) {m : Memory} (h : slotImages m = none) : verifyCode s m = 1 := by
  simp only [verifyCode, checkSlot, h]

/-- There are two slots. -/
theorem stagedSlot_lt (s : State) : stagedSlot s < 2 := Nat.lt_succ_of_le (Nat.sub_le ..)

/-- SELECT, by whether the staged slot passes (R650). -/
theorem opFwSelect_eq {s : State} {fn : Nat} (h : mbRefusal s fn false true true = none) (hw : s.fwWriter = 0) :
    opFwSelect fn s = if verifyCode s (stagedMem s) ≠ 0 then s.emit (.mailbox 0xC016 mbInvalid (verifyCode s (stagedMem s)) [])
      else (s.setFld Fd.SEC_FW_PREF (stagedSlot s)).reply 0xC016 mbOk [] := by
  unfold opFwSelect
  rw [State.operator_runs _ _ _ h]
  exact if_neg (not_not_intro hw)

/-- COMMIT_SVN raises each floor to the running image's number (R650). -/
theorem opFwCommitSvn_raises {s : State} {fn : Nat} (h : mbRefusal s fn false true true = none) :
    (opFwCommitSvn fn s).fld Fd.SEC_FLOOR_MFWFLOOR = max (s.fld Fd.SEC_FLOOR_MFWFLOOR) (s.fld Fd.SEC_FW_MFWSVN) ∧
      (opFwCommitSvn fn s).fld Fd.SEC_FLOOR_FTFFLOOR = max (s.fld Fd.SEC_FLOOR_FTFFLOOR) (s.fld Fd.SEC_FW_FTFSVN) := by
  have hend (u : State) {f : Field} (hf : f.reg = .SEC_FLOOR) : ((u.keyWrite rowFloor).reply 0xC016 mbOk []).fld f = u.fld f := by
    refine (fld_of ((State.reply_keeps ..).same _ ?_) 0).trans (fld_of ((State.keyWrite_keeps ..).same _ ?_) 0) <;> rw [hf] <;> decide +kernel
  unfold opFwCommitSvn
  rw [State.operator_runs _ _ _ h]
  dsimp only
  refine ⟨?_, ?_⟩
  · rw [hend _ rfl, raise_apart _ _ _ _ (by decide) (by decide) (by decide) (by decide),
      raise_apart _ _ _ _ (by decide) (by decide) (by decide) (by decide)]
    exact raise_fld s _ _ (by decide) (by decide) (State.fld_lt s Fd.SEC_FW_MFWSVN 0)
  · rw [hend _ rfl, raise_apart _ _ _ _ (by decide) (by decide) (by decide) (by decide),
      raise_fld _ Fd.SEC_FLOOR_FTFFLOOR _ (by decide) (by decide) (State.fld_lt s Fd.SEC_FW_FTFSVN 0),
      raise_apart _ _ _ _ (by decide) (by decide) (by decide) (by decide)]

/-- A firmware update of the management controller begins where nothing else writes a slot (R650). -/
theorem opPldmFirmwareUpdate_begins {s : State} (off : Nat) (bs : List Byte) (hw : s.fwWriter ≠ 2) (hb : s.bg.running = false) :
    opPldmFirmwareUpdate 0 off bs s = ({ s with fwWriter := 2 } : State).emit (.pldm mbOk) :=
  (if_pos rfl).trans (if_neg (by simp [hw, hb]))

/-- It writes the slot that is not running (R650). -/
theorem opPldmFirmwareUpdate_writes (s : State) {off : Nat} {bs : List Byte} (h : off + bs.length ≤ slotBytes) :
    opPldmFirmwareUpdate 1 off bs { s with fwWriter := 2 } =
      (({ s with fwWriter := 2 } : State).updStaged fun m => m.write off bs).emit (.pldm mbOk) :=
  (if_neg (by decide)).trans ((if_neg (fun h => h rfl)).trans ((if_pos rfl).trans (if_neg (Nat.not_lt.2 h))))

/-! ### The calibration block -/

/-- CAL_READ answers bytes of the block (R652). -/
theorem opCalRead_answers {s : State} {fn off n : Nat} (h : mbRefusal s fn true true false = none) (hoff : off + n ≤ calBytes) :
    opCalRead fn off n s = s.reply 0xC012 mbOk (wordsOf (s.calib.read off n)) := by
  unfold opCalRead
  rw [State.operator_runs _ _ _ h, if_neg (Nat.not_lt.2 hoff)]

/-- CAL_WRITE writes them and counts the write in PROVISIONED and OWNED (R652). -/
theorem opCalWrite_writes {s : State} {fn off : Nat} {bs : List Byte} (h : mbRefusal s fn false false true = none) (hb : s.bg.running = false)
    (hlc : s.fld Fd.SEC_LC_STATE = 1 ∨ s.fld Fd.SEC_LC_STATE = 2) (hoff : off + bs.length ≤ calBytes) :
    opCalWrite fn off bs s = (((({ s.reply 0xC013 mbBackground [] with calib := s.calib.write off bs } : State).incFld Fd.SEC_CAL_WRITES 1).keyWrite
      rowCal).bgDone 0xC013 mbOk 0) := by
  unfold opCalWrite
  rw [State.operator_runs _ _ _ h, if_neg (by omega), if_neg (Nat.not_lt.2 hoff), background_runs _ _ hb]
  rfl

/-- Settles O23: each command that is not refused runs, and takes the branch that its conditions name; the bytes of an erased slot are log entry 91. -/
theorem lifeCycleFirmwareAndCalibrationComplete : Obligations.LifeCycleFirmwareAndCalibrationComplete := by
  refine ⟨?challenge, ?advance, ?payload, ?blank, ?erase, ?stage, ?verify, ?directory, ?select, ?commit, ?query, ?pldm, ?calRead, ?calWrite⟩
  case challenge =>
    intro s fn h
    refine completes_next (congrArg Host.Outcome.next (State.operator_runs _ _ _ h)) ⟨rfl, rfl, ?_⟩
    exact ((((upd_nonce (s := s) _).mono (by decide +kernel)).step (State.drawn_keeps _) (by decide +kernel)).step (State.reply_keeps ..)
      (by decide +kernel)).changesOnly (Nat.or_self _)
  case advance =>
    intro s fn payload h hb
    refine congrArg Host.Outcome.next ((State.operator_runs _ _ _ h).trans ((if_neg (by simp [hb])).trans ?_))
    rfl
  case payload => exact fun payload a h => lcRead_fields h
  case blank =>
    intro s a h
    rw [advance_blank a h]
    exact ⟨setLife_state _ (by decide), (State.setLife_keeps ..).same .deviceCerts (by decide +kernel)⟩
  case erase =>
    exact fun s target hl ht => completes_next (congrArg Host.Outcome.next (opCryptoEraseComplete_ends hl ht)) (cryptoErase_eraseEnds s target rfl)
  case stage =>
    exact fun s fn off bs h hw hb hoff =>
      ⟨congrArg Host.Outcome.next (opFwStageErase_erases h hw hb), congrArg Host.Outcome.next (opFwStageWrite_writes h hw hb hoff)⟩
  case verify => exact fun s fn h hw => congrArg Host.Outcome.next (opFwStageVerify_answers h hw)
  case directory => exact fun s m h => verifyCode_noImages s h
  case select =>
    intro s fn h hw
    refine completes_next (congrArg Host.Outcome.next (opFwSelect_eq h hw)) ⟨fun hok => ?_, fun hbad => if_pos hbad⟩
    rw [if_neg (not_not_intro hok)]
    refine ⟨?_, ?_⟩
    · exact State.fld_setFld_fits (k := .SEC_FW) s _ 0 (by decide) (stagedSlot_lt s)
    · exact (((State.setFld_keeps s Fd.SEC_FW_PREF ..).mono (by decide +kernel)).step (State.reply_keeps ..)
        (by decide +kernel)).changesOnly (Nat.or_self _)
  case commit => exact fun s fn h => completes_next rfl (opFwCommitSvn_raises h)
  case query => exact fun s fn h => congrArg Host.Outcome.next (State.operator_runs _ _ _ h)
  case pldm =>
    exact fun s off bs hw hb hoff => ⟨congrArg Host.Outcome.next (opPldmFirmwareUpdate_begins off bs hw hb),
      congrArg Host.Outcome.next (opPldmFirmwareUpdate_writes s hoff), rfl⟩
  case calRead => exact fun s fn off n h hoff => congrArg Host.Outcome.next (opCalRead_answers h hoff)
  case calWrite =>
    intro s fn off bs h hb hlc hoff
    refine completes_next (congrArg Host.Outcome.next (opCalWrite_writes h hb hlc hoff)) ⟨?_, ?_⟩
    · exact (State.keyWrite_keeps ..).same .calib (by decide +kernel)
    · refine Keeps.changesOnly (w := partMask [.calib, .out, .bg, .keyRows, .reg .SEC_CAL, .reg .SEC_NVS]) ?_ (Nat.or_self _)
      refine .step ?_ (State.bgDone_keeps ..) (by decide +kernel)
      refine .step ?_ (State.keyWrite_keeps ..) (by decide +kernel)
      refine .step ?_ (State.incFld_keeps ..) (by decide +kernel)
      exact .step ((State.reply_keeps ..).mono (by decide +kernel)) (upd_calib (hx := fun i => Memory.wf_write i.calib _ _) ..) (by decide +kernel)

end Sys2Proof.Machine

/-!
The part stops and starts: power-on, PERST#, power failure, thermal trip, and start-up (R556, R558, R661, R671 to R674, R678 to R680, R713 to R715).
-/
namespace Sys2Proof.Machine

/-! ### What stopping leaves -/

/-- A part that has stopped is in the stage it stopped for. -/
@[simp] theorem stopped_stage (s : State) (g : Stage) : (s.stopped g).power.stage = g := rfl

/-- The capsule's snapshot leaves the power state. -/
@[simp] theorem snapshot_power (s : State) : s.snapshot.power = s.power := (State.snapshot_keeps s).same .power (by decide)

/-- Nothing that waited for lines, views, snoops or a pattern load is left (R674). -/
theorem interrupt_empties (s : State) :
    s.interrupt.lineQ = [] ∧ s.interrupt.viewWaits = [] ∧ s.interrupt.snoops = [] ∧ s.interrupt.heldActs = [] :=
  ⟨(State.reclaim_keeps _).same .lineQ (by decide), (State.reclaim_keeps _).same .viewWaits (by decide),
    (State.reclaim_keeps _).same .snoops (by decide), (State.reclaim_keeps _).same .heldActs (by decide)⟩

/-- A flush leaves the part flushed, and only a cold start brings media back (R556, R558). -/
theorem flush_power (s : State) (us : Nat) (saved whole : Bool) :
    (s.flush us saved whole).power.stage = .flushed ∧ (s.flush us saved whole).power.cold = true ∧ (s.flush us saved whole).power.cause = 4 ∧
      (s.flush us saved whole).power.flushUs = min us (2 ^ 32 - 1) ∧ (s.flush us saved whole).power.sealWhole = (saved && whole) := by
  refine ⟨?_, rfl, rfl, rfl, rfl⟩
  unfold State.flush
  simp only [State.setPower, snapshot_power, stopped_stage]

/-- PWR_FAIL_N low makes a part that runs flush (R556). -/
theorem opPowerFailFlush_flushes {s : State} (us : Nat) (saved whole : Bool) (h : s.power.stage = .up ∨ s.power.stage = .starting) :
    opPowerFailFlush us saved whole s =
      (s.flush us saved whole).setPower { (s.flush us saved whole).power with pfLow := true } := by
  unfold opPowerFailFlush
  rcases h with h | h <;> rw [h]

/-! ### What makes the part stop -/

/-- PERST# quiesces a part that runs (R673). -/
theorem opPerstAssert_quiesces {s : State} (h : s.power.stage = .up ∨ s.power.stage = .starting) :
    opPerstAssert s = s.quiesceAll.setPower { s.power with stage := .held, cause := if s.power.cold then s.power.cause else 1 } := by
  unfold opPerstAssert
  rcases h with h | h <;> rw [h]

/-- So does the watchdog (R672). -/
theorem opWatchdogExpiry_quiesces {s : State} (h : s.power.stage = .up ∨ s.power.stage = .starting) :
    opWatchdogExpiry s = s.quiesceAll.setPower { s.power with stage := .held, cause := if s.power.cold then s.power.cause else 5 } := by
  unfold opWatchdogExpiry
  rcases h with h | h <;> rw [h]

/-- A rail that leaves regulation outside a quiesce makes the next start cold (R672). -/
theorem opRailLeavesRegulation_cold {s : State} (us : Nat) (saved whole : Bool) (hoff : s.power.stage ≠ .off) (htrip : s.power.stage ≠ .tripped) :
    opRailLeavesRegulation false us saved whole s =
      s.setPower { s.power with cold := true, cause := if s.power.cold then s.power.cause else 2 } := by
  unfold opRailLeavesRegulation
  dsimp only
  rw [if_neg (not_or.2 ⟨hoff, htrip⟩), if_neg (fun h => Bool.false_ne_true h.1)]

/-- During a quiesce the flush takes over (R673). -/
theorem opRailLeavesRegulation_flushes {s : State} (us : Nat) (saved whole : Bool) (hheld : s.power.stage = .held) (hwarm : s.power.cold = false) :
    opRailLeavesRegulation true us saved whole s = s.flush us saved whole := by
  unfold opRailLeavesRegulation
  dsimp only
  rw [if_neg (by simp [hheld]), if_pos ⟨rfl, hheld, by simp [hwarm]⟩]

/-- A die or a stack that is too hot trips (R671, R714). -/
theorem opThermalTrip_trips {s : State} {die : Bool} {temp : Int} (hoff : s.power.stage ≠ .off) (htrip : s.power.stage ≠ .tripped)
    (hhot : (if die then 110 else 100) - thermMargin s ≤ temp) :
    opThermalTrip die temp s =
      ((s.interrupt.stopped .tripped).setPower { (s.interrupt.stopped .tripped).power with cold := true, cause := 3 }).emit .thermTrip :=
  if_neg (not_or.2 ⟨hoff, not_or.2 ⟨htrip, Int.not_lt.2 hhot⟩⟩)

/-! ### Start-up -/

/-- PERST# deasserts with the supplies sound (R679). -/
theorem opStartup_held {s : State} (x : StartIn) (hheld : s.power.stage = .held) (hsound : s.power.pfLow = false) : opStartup x s = s.startUp x := by
  simp only [opStartup, hheld, hsound, Bool.false_eq_true, if_false]

/-- While PWR_FAIL_N is low, start-up waits at phase 1 (R713). -/
theorem opStartup_waits {s : State} (x : StartIn) (hheld : s.power.stage = .held) (hlow : s.power.pfLow = true) :
    opStartup x s = (s.setPower { s.power with stage := .waiting }).setFld Fd.PWR_BOOT_PHASE 1 := by
  unfold opStartup
  dsimp only
  rw [hheld]
  exact if_pos hlow

/-- Once PWR_FAIL_N has been high for 10 ms, start-up goes on (R713). -/
theorem opStartup_waiting {s : State} (x : StartIn) (hwait : s.power.stage = .waiting) (hsound : s.power.pfLow = false)
    (hhigh : s.power.pfHigh + 10000000 ≤ s.dtime) : opStartup x s = s.startUp x := by
  unfold opStartup
  dsimp only
  rw [hwait]
  exact if_neg (not_or.2 ⟨by simp [hsound], Nat.not_lt.2 hhigh⟩)

/-- Media becomes ready after a warm start: what is shown of it, and the note of it (R678). -/
theorem opMediaReady_warm {s u : State} (ms : Nat) (hstage : s.power.stage = .starting) (hsafe : inSafe s = false)
    (hlc : s.fld Fd.SEC_LC_STATE = 1 ∨ s.fld Fd.SEC_LC_STATE = 2) (hwarm : s.power.coldStart = false)
    (hu : u = (((s.setPower { s.power with stage := .up }).setFld Fd.PWR_STATUS_MEDIA 1).measurePattern.setFld Fd.PWR_BOOT_MRMS
      (min ms (2 ^ 32 - 1))).setFld Fd.PWR_BOOT_PHASE 11) :
    opMediaReady ms s = (u.cxlNote operatorFn 0 0x0004 (u.reg .PWR_BOOT).toNat 0).mctpEvent 10 2 := by
  have hruns : ¬ (s.power.stage ≠ .starting ∨ inSafe s = true ∨ (s.fld Fd.SEC_LC_STATE ≠ 1 ∧ s.fld Fd.SEC_LC_STATE ≠ 2)) := by
    rintro (h | h | ⟨h1, h2⟩)
    · exact h hstage
    · exact absurd h (by simp [hsafe])
    · exact hlc.elim h1 h2
  have hcold : u.power.coldStart = false := by
    rw [hu]
    exact (congrArg Power.coldStart ((State.measurePattern_keeps _).same .power (by decide))).trans hwarm
  have hskip : (if (!u.power.coldStart) = true then u else (u.setFld Fd.PGT_RECOV_REBUILD 1).recovSync) = u := if_pos (by rw [hcold]; rfl)
  unfold opMediaReady
  dsimp only
  rw [if_neg hruns, ← hu, hskip]

/-- A note and an alert leave the registers of power. -/
theorem noted_fld {f : Field} (u : State) (arg : Nat) (h : f.reg = .PWR_STATUS ∨ f.reg = .PWR_BOOT) :
    ((u.cxlNote operatorFn 0 0x0004 arg 0).mctpEvent 10 2).fld f = u.fld f := by
  have hnote (k : RegKind) (hk : k = .PWR_STATUS ∨ k = .PWR_BOOT) :
      Part.same u ((u.cxlNote operatorFn 0 0x0004 arg 0).mctpEvent 10 2) (.reg k) := by
    refine Part.same_trans (.reg k) ((State.cxlNote_keeps ..).same _ ?_) ((State.mctpEvent_keeps ..).same _ ?_) <;>
      rcases hk with rfl | rfl <;> decide +kernel
  exact fld_of (hnote _ h) 0

/-- Settles O26: each event takes the branch of its operation that its stage names; start-up in one step is log entry 99, the free CAUSE entry 97. -/
theorem powerAndStartUpEventsComplete : Obligations.PowerAndStartUpEventsComplete := by
  refine ⟨?powerOn, ?held, ?low, ?waiting, ?media, ?rebuild, ?quiesce, ?interrupt, ?flush, ?high, ?rail, ?railFlush, ?trip, ?removed, ?reference⟩
  case powerOn =>
    intro s h
    exact completes_next (congrArg Host.Outcome.next (if_pos h)) ⟨rfl, (State.setPower_keeps s _).changesOnly (by decide +kernel)⟩
  case held => exact fun s x now hheld hsound => congrArg Host.Outcome.next (opStartup_held x hheld hsound)
  case low =>
    exact fun s x now hheld hlow => completes_next (congrArg Host.Outcome.next (opStartup_waits x hheld hlow))
      ⟨rfl, State.fld_setFld_fits (k := .PWR_BOOT) _ 1 0 (by decide) (by decide)⟩
  case waiting => exact fun s x now hwait hsound hhigh => congrArg Host.Outcome.next (opStartup_waiting x hwait hsound hhigh)
  case media =>
    intro s ms now hstage hsafe hlc hwarm
    refine completes_next (congrArg Host.Outcome.next (opMediaReady_warm (s := s.at_ now) ms hstage hsafe hlc hwarm rfl)) ⟨?_, ?_, ?_, ?_⟩
    · rw [mediaReady, State.flag, noted_fld _ _ (.inl rfl), State.fld_setFld_reg _ _ _ _ _ _ (by decide),
        State.fld_setFld_reg _ _ _ _ _ _ (by decide), fld_of ((State.measurePattern_keeps _).same (.reg .PWR_STATUS) (by decide))]
      rw [State.fld_setFld_fits (k := .PWR_STATUS) _ 1 0 (by decide) (by decide)]
      rfl
    · rw [show (State.mctpEvent _ _ _).power = _ from (State.cxlNote_keeps ..).same .power (by decide +kernel)]
      exact congrArg Power.stage ((State.measurePattern_keeps _).same .power (by decide))
    · rw [noted_fld _ _ (.inr rfl),
        State.fld_setFld_other (k := .PWR_BOOT) _ (f := Fd.PWR_BOOT_PHASE) (g := Fd.PWR_BOOT_MRMS) _ 0 0 (by decide) (by decide) (by decide)]
      exact State.fld_setFld_fits (k := .PWR_BOOT) _ _ 0 (by decide) (Nat.lt_of_le_of_lt (Nat.min_le_right ..) (by decide))
    · rw [noted_fld _ _ (.inr rfl)]
      exact State.fld_setFld_fits (k := .PWR_BOOT) _ 11 0 (by decide) (by decide)
  case rebuild => exact fun s h => congrArg Host.Outcome.next (if_pos h)
  case quiesce =>
    rintro s q now h rfl
    exact ⟨congrArg Host.Outcome.next (opPerstAssert_quiesces (s := s.at_ now) h),
      congrArg Host.Outcome.next (opWatchdogExpiry_quiesces (s := s.at_ now) h)⟩
  case interrupt => exact interrupt_empties
  case flush =>
    intro s us saved whole now h
    obtain ⟨hstage, hcold, hcause, hus, hseal⟩ := flush_power (s.at_ now) us saved whole
    exact completes_next (congrArg Host.Outcome.next (opPowerFailFlush_flushes (s := s.at_ now) us saved whole h))
      ⟨hstage, hcold, hcause, rfl, hus, hseal⟩
  case high => exact fun s now h => congrArg Host.Outcome.next (if_pos h)
  case rail => exact fun s us saved whole hoff htrip => congrArg Host.Outcome.next (opRailLeavesRegulation_cold us saved whole hoff htrip)
  case railFlush => exact fun s us saved whole hheld hwarm => congrArg Host.Outcome.next (opRailLeavesRegulation_flushes us saved whole hheld hwarm)
  case trip =>
    exact fun s die temp hoff htrip hhot => completes_next (congrArg Host.Outcome.next (opThermalTrip_trips hoff htrip hhot))
      ⟨rfl, rfl, rfl, List.getLast?_concat ..⟩
  case removed => exact fun s hoff => completes_next (congrArg Host.Outcome.next (if_neg hoff)) ⟨rfl, rfl, rfl, rfl⟩
  case reference =>
    exact fun s hoff href htrip => completes_next (congrArg Host.Outcome.next (if_neg (not_or.2 ⟨hoff, not_or.2 ⟨href, htrip⟩⟩))) ⟨rfl, rfl⟩

end Sys2Proof.Machine

/-!
The values that the part resets to (R17, R18).
-/
namespace Sys2Proof.Machine

/-- Every copy of a register resets to the same values, but for CXL_LINKCFG (R477). -/
theorem State.reset_fld_copies {f : Field} (h : f.reg ≠ .CXL_LINKCFG) (i : Nat) : State.reset.fld f i = State.reset.fld f 0 := by
  simp only [State.fld, State.reset_reg, RegKind.resetWord, if_neg h]

/-- Settles O59: no register is written yet, so each reads its reset word, and no list holds anything; the empty queues and tables are log entry 4. -/
theorem resetLeavesTheStatedValues : Obligations.ResetLeavesTheStatedValues := by
  refine ⟨?values, ?modes, ?empty⟩
  case values =>
    refine ⟨?_, ?_, ?_, ?_, ?_, ?_, ?_, ?_, ?_, ?_, ?_, ?_, ?_, ?_, fun t _ => (State.reset_fld_copies (by decide) t).trans ?_, ?_⟩ <;> decide +kernel
  case modes =>
    have htenants : State.reset.tstate 0 = TState.free.code ∧ State.reset.fld Fd.TNT_ERR_CREDOVR 0 = 0 := by decide +kernel
    have hall (t : Nat) : State.reset.tstate t = TState.free.code ∧ State.reset.fld Fd.TNT_ERR_CREDOVR t = 0 :=
      ⟨(State.reset_fld_copies (by decide) t).trans htenants.1, (State.reset_fld_copies (by decide) t).trans htenants.2⟩
    refine ⟨?_, ?_, ?_, ?_, fun t _ => hall t, ?_, ?_, ?_⟩ <;> decide +kernel
  case empty => exact ⟨rfl, rfl, rfl, rfl, rfl, rfl, rfl, rfl, rfl, rfl, rfl, rfl, rfl, rfl, rfl, rfl, fun _ _ => rfl⟩

end Sys2Proof.Machine
